-- ==== Sys2Proof/Word.lean ====
section
/-!
DEFINITION. Sys2Proof/Word.lean: the word types of the model.

All registers of the CV48 are 64 bits wide and little-endian (00_scope, Registers); memories are addressed in bytes.
-/
namespace Sys2Proof

/-- One byte of memory, of a packet or of a record. -/
abbrev Byte := BitVec 8

/-- One half of a register, one binary32 pattern, one tap word. -/
abbrev W32 := BitVec 32

/-- One register (00_scope, Registers: 64 bits). -/
abbrev W64 := BitVec 64

/-- A string of bytes, the first at the lowest address. -/
abbrev Bytes := List Byte

end Sys2Proof
end

