-- ==== Sys2Proof/Syntax.lean ====
section
/-!
DEFINITION. Sys2Proof/Syntax.lean: the commands of the block, one constructor per row of spec/opcode_table.json, with
what a command carries from outside: which function or carrel it names, the bytes a host access brings, and the outcome
of an act outside the module's digital control (a host fetch, a NAND program, a measured fit).
-/
namespace Sys2Proof

/-- A PCIe function: PF0, PF1, PF2, or the VF of carrel n (Table 21-1). -/
inductive Fn where
  | pf0 | pf1 | pf2
  | vf (n : Nat)
  deriving DecidableEq, Repr

/-- What a read from the host (or another memory outside the command) brought back: data, an error completion, a
completion timeout, poisoned data, or nothing because the link or bus mastering was lost. -/
inductive Fetch where
  | data (b : Bytes)
  | error
  | timeout
  | poisoned
  | lost
  deriving DecidableEq, Repr

/-- What a shelf's exit meets with an uncorrectable error, and therefore poisoned (R83): the archive copy that its outlier program reads (R394), the
stuck-cell map, a weight scale, a gain, or a folio. -/
inductive ExitErr where
  | archive | stuckMap | scale | gain | folio
  deriving DecidableEq, Repr

/-- What a modulator gives for one result (R363): the sinc³ output of its ±1 stream, which the main path reads, and the ones of each of its runs
of OSR samples, in order, which the fall-back path reads. -/
structure Samples where
  sinc : Int
  ones : List Nat
  deriving DecidableEq, Repr

/-- Where a shelf's exit also writes its result (R93, R94): a tile, the row of the vector, which of the eight 64-column groups, overwrite or add. -/
structure ExitTile where
  tile : Nat
  row : Nat
  group : Nat
  add : Bool
  deriving DecidableEq, Repr

/-- What an exit comes with: the errors that it met, and the tile that it also writes. -/
structure ExitWith where
  errs : List ExitErr
  into : Option ExitTile
  deriving DecidableEq, Repr

/-- A transfer that completes on a shelf's scribe: `bad` are the places among a gather's rows at which the read met an uncorrectable HBM error
(R259, R393). -/
structure Moved where
  shelf : Nat
  bad : List Nat
  deriving DecidableEq, Repr

/-- What one broker cycle measures of a hall (R332): its activity, and the phases that its sequencer has scheduled in the next
20 µs, as region and tag. -/
structure HallIn where
  activity : Nat
  phases : List (Nat × Nat)
  deriving DecidableEq, Repr

/-- What one broker cycle measures (R330, R332): input power and current as 100 µs averages (0.1 W, 0.1 A), input voltage
(0.01 V), the fixed draw, the conversion loss and the broker's own prediction for the interval (0.1 W), the halls, and the serving
energy by carrel over the trailing 100 ms. -/
structure BrokerIn where
  inputDw : Nat
  inputDa : Nat
  inputCv : Nat
  fixedDw : Nat
  lossDw : Nat
  predictedDw : Nat
  halls : List HallIn
  energy : List (Nat × Nat)
  deriving DecidableEq, Repr

/-- The commands: one constructor per row of the opcode table, in its order. -/
inductive Instr where
  /-- REGISTER_WRITE, R8: A write to a register field that has no behaviour of its own sets the field, or is
  ignored and recorded as CONFIG_IGNORED. `standby` tells whether it came through the standby port. -/
  | registerWrite (standby : Bool) (fn : Fn) (off : Nat) (width : Nat) (value : Nat)
  /-- STORE, R30: CUR.IMG_CTRL STORE fetches an image, checks it in order and writes it to the pending slot with
  its colophon last. `f` is what the image fetch brought, `nandOk` whether the NAND write succeeded. -/
  | store (tag : Nat) (f : Fetch) (nandOk : Bool)
  /-- BIND, R34: CUR.IMG_CTRL BIND checks the pending slot, computes the scope and begins quiescing it. -/
  | bind (tag : Nat)
  /-- BIND_QUIESCE_DONE, R34: Quiesce of the bind scope completes, and the bind applies, verifies, commits and
  releases held commands. `verifyOk` tells whether the readback and the proofs of step 5 held, `nandOk` whether the
  selector colophon was written. -/
  | bindQuiesceDone (verifyOk : Bool) (nandOk : Bool)
  /-- QUIESCE_TIMEOUT, R35: The quiesce limit expires, so the bind is abandoned and held commands are released
  under the old image. -/
  | quiesceTimeout
  /-- DISCARD, R31: CUR.IMG_CTRL DISCARD invalidates the pending slot. -/
  | discard (tag : Nat)
  /-- REVERT, R31: CUR.IMG_CTRL REVERT binds the formerly active image in the pending slot, or reports NO_PENDING. -/
  | revert (tag : Nat)
  /-- RAISE_FLOOR, R29: CUR.IMG_CTRL RAISE_FLOOR sets the serial floor to the bound image's serial, and is refused
  under the plain image. -/
  | raiseFloor (tag : Nat) (nandOk : Bool)
  /-- ENROL_ANCHOR, R28: CUR.IMG_CTRL ENROL_ANCHOR fetches and checks an anchor record and stores it if no anchor
  is held. -/
  | enrolAnchor (tag : Nat) (f : Fetch) (nandOk : Bool)
  /-- POWER_ON_BOOT, R408: A stable input with the standby rail present starts the bring-up sequence of Table 19-5.
  `ms` is how long the bring-up took to step 11, `badShelves` the shelves that failed the built-in test, `selfTest`
  how a trial slot's self-test ended (none: not yet). -/
  | powerOnBoot (ms : Nat) (badShelves : List Nat) (selfTest : Option Bool)
  /-- TRIAL_CONFIRM_TIMEOUT, R372: A trial slot that has not confirmed within 30 s makes the boot ROM reset and
  boot the confirmed slot. -/
  | trialConfirmTimeout
  /-- BOOT_COLLATION_COMPLETE, R175: Boot collation completes for a region's halls, and its held commands begin in
  intake order. `hours` is the off interval as the always-on domain counted it, none for one without power; `temps` are the
  halls' junction temperatures as their converters read them then, in 1/256 °C (R167, R174). -/
  | bootCollationComplete (region : Nat) (hours : Option Nat) (temps : List Int)
  /-- PACKET_BLOCK_WRITE, R271: A host write into an intake aperture marks blocks arrived, and completes and
  consumes or halts the packet at NEXT_OFFSET. Stream 1024 is PF1's aperture; `off` is the byte offset in BAR2. -/
  | packetBlockWrite (stream : Nat) (viaStandby : Bool) (off : Nat) (bytes : Bytes)
  /-- STALL_TIMEOUT, R273: The stall timer of an open packet reaches INT.STALL_LIMIT, and the stream halts with
  TORN. -/
  | stallTimeout (stream : Nat)
  /-- RESYNC, R274: A write to INT.RESYNC on a halted stream sets EXPECTED_SEQ and NEXT_OFFSET and restarts intake.
  `value` is the 64-bit value written. -/
  | resync (stream : Nat) (viaStandby : Bool) (value : Nat)
  /-- RING_ENABLE, R288: A write to CAR.RING_CTRL.ENABLE starts or stops the return ring and writes its header.
  `value` is the 64-bit value written. -/
  | ringEnable (stream : Nat) (viaStandby : Bool) (value : Nat)
  /-- COMMAND_BEGIN, R280: A consumed command whose ordering conditions hold begins, in priority order across
  carrels. -/
  | commandBegin
  /-- COMMAND_SEAL, R285: The completion sequencer seals a command and writes its completion record to the ring. -/
  | commandSeal (stream : Nat) (seq : Nat)
  /-- IRQ_MODERATION_TIMEOUT, R284: The oldest unsignalled record reaches TIME_US, and MSI-X vector 0 is raised. -/
  | irqModerationTimeout (stream : Nat)
  /-- SESSION_OPEN, R276: The command opens a session with its sampling parameters and returns its handle. -/
  | sessionOpen (stream : Nat) (seq : Nat)
  /-- SESSION_CLOSE, R258: The command closes a session, releases its pages and frees a comet's extent. -/
  | sessionClose (stream : Nat) (seq : Nat)
  /-- TOKENS, R277: The command appends tokens to a session in one pass and runs GENERATE further decode passes.
  `f` is what the TOKEN_ADDR fetch brought; inline tokens need none. -/
  | tokensCmd (stream : Nat) (seq : Nat) (f : Fetch)
  /-- STEP, R277: The command runs one decode pass over its named sessions. -/
  | stepCmd (stream : Nat) (seq : Nat)
  /-- ADAPTER_BIND, R218: The command binds, rebinds or unbinds a session's adapter and starts its fetch. `f` is
  what the fetch of the adapter image's header brought. -/
  | adapterBind (stream : Nat) (seq : Nat) (f : Fetch)
  /-- HINT, R337: The command announces a phase window of a tag in a region to the broker. -/
  | hintCmd (stream : Nat) (seq : Nat)
  /-- PAGE_FORK, R256: The command gives a child session the parent's pages by reference, with COW set. -/
  | pageFork (stream : Nat) (seq : Nat)
  /-- PAGE_RELEASE, R258: The command truncates a session to KEEP and releases the pages beyond it. -/
  | pageRelease (stream : Nat) (seq : Nat)
  /-- SWAP_OUT, R264: The command makes a resident session a comet through Table 11-3. -/
  | swapOut (stream : Nat) (seq : Nat)
  /-- SWAP_IN, R264: The command returns a comet to residence without a pass. -/
  | swapIn (stream : Nat) (seq : Nat)
  /-- RECIPE_SET, R92: A RECIPE_SET of KIND 0 replaces recipe entries from the region's next pass boundary. -/
  | recipeSet (stream : Nat) (seq : Nat)
  /-- PRIORITY_CHANGE, R279: A RECIPE_SET of KIND 1 changes a carrel's PRIORITY on consumption. -/
  | priorityChange (stream : Nat) (seq : Nat)
  /-- ABORT, R285: The command stops its target command, or reports ALREADY_COMPLETE. -/
  | abortCmd (stream : Nat) (seq : Nat)
  /-- FENCE, R280: The command seals once every earlier command of the carrel has sealed. -/
  | fenceCmd (stream : Nat) (seq : Nat)
  /-- TILE_READ, R95: The command reads 4 KiB of an accumulator tile to host memory, subject to owner tags. -/
  | tileRead (stream : Nat) (seq : Nat)
  /-- TILE_WRITE, R96: The command writes or adds 4 KiB into an accumulator tile, at a pass boundary on an owned
  shelf. `f` is what the payload fetch brought. -/
  | tileWrite (stream : Nat) (seq : Nat) (f : Fetch)
  /-- SCRIBE_RUN, R127: The command loads and runs a privileged program on the named shelves' run areas. `f` is
  what the payload fetch brought. -/
  | scribeRun (stream : Nat) (seq : Nat) (f : Fetch)
  /-- SCRIBE_RUN_TIMEOUT, R128: SCR.RUN_LIMIT expires, and the run is stopped on all its shelves and completes
  TIMEOUT. -/
  | scribeRunTimeout (stream : Nat) (seq : Nat)
  /-- ACC_BEGIN, R197: The command checks a weight package manifest, chooses housing and starts an accession or
  restore. `f` is what the fetch of the manifest brought. -/
  | accBegin (seq : Nat) (f : Fetch)
  /-- ACC_SHARD, R198: The command starts the fetch of one shard of the accession body. -/
  | accShard (seq : Nat)
  /-- SHARD_FETCH_COMPLETE, R207: A shard fetch completes, and the shard is verified, re-requested or fails the
  accession. -/
  | shardFetchComplete (region : Nat) (index : Nat) (f : Fetch)
  /-- SHARD_TIMEOUT, R208: ACC.SHARD_TIMEOUT expires, and the accession pauses or an abandoned fetch completes
  TIMEOUT. -/
  | shardTimeout (region : Nat)
  /-- ACC_COMMIT, R204: The command starts the commit sequence that makes the new weights durable and flips them. -/
  | accCommit (seq : Nat)
  /-- ACC_CANCEL, R209: The command ends an accession before its colophon write, or leaves FAILED. -/
  | accCancel (seq : Nat)
  /-- FOLIO_PROGRAM_START, R201: A programming round starts write-and-verify of folios as targets and slots become
  free. -/
  | folioProgramStart (hall : Nat)
  /-- FOLIO_PROGRAM_DONE, R200: Write-and-verify and trim programming of a folio end, and it enters COLLATING or
  RETIRED. `cells` are the stuck cells with their measured levels in 1/256 level: row, column, cell, G+, G-. -/
  | folioProgramDone (shelf : Nat) (pos : Nat) (cells : List (Nat × Nat × Nat × Int × Int))
  /-- COMMIT_RECORDS_DURABLE, R204: The commit's records and colophon become durable, and the accession enters
  FLIP_PENDING. `nandOk` says whether the writes of steps 2 to 4 of Table 8-6 held, `colophonOk` whether that of step 5 did. -/
  | commitRecordsDurable (region : Nat) (nandOk : Bool) (colophonOk : Bool)
  /-- ARCHIVE_COPY_FREE, R205: After S_LAG region passes, the old archive copy is freed. -/
  | archiveCopyFree (region : Nat)
  /-- WEAR_LEVEL, R211: Wear levelling moves a serving folio's weights onto a less-worn spare. -/
  | wearLevel (shelf : Nat) (pos : Nat)
  /-- PASS_DISPATCH, R255: The intake dispatches a pass, which takes the next module epoch and pass number and
  allocates its pages. -/
  | passDispatch (stream : Nat) (seq : Nat)
  /-- SWAP_OUT_FLUSH_READ_DONE, R261: The flushing read after the extent body completes, and the colophon is
  written. -/
  | swapOutFlushReadDone (session : Nat) (f : Fetch)
  /-- SWAP_OUT_COLOPHON_READ_DONE, R261: The colophon read-back completes, and the victim's pages are released as
  it becomes a comet. -/
  | swapOutColophonReadDone (session : Nat) (f : Fetch)
  /-- COMET_RETURN_READ_DONE, R263: The reads of a returning comet's colophon and body complete, and the digest
  check decides residence or death. -/
  | cometReturnReadDone (session : Nat) (f : Fetch)
  /-- LAYER_BEGIN, R224: A layer of a pass begins once every session's adapter bytes for it are resident. `bad` are the
  vectors whose inputs met an uncorrectable SRAM error or a UCIe link error on their way to the shelves (R393). -/
  | layerBegin (region : Nat) (bad : List Nat)
  /-- ADAPTER_FETCH_COMPLETE, R219: An adapter host fetch completes into the loan shelf, or fails and poisons its
  stage. -/
  | adapterFetchComplete (carrel : Nat) (adapter : Nat) (stage : Nat) (f : Fetch)
  /-- HOLD_BUDGET_EXHAUSTED, R225: The pass's adapter hold budget runs out, and unready sessions are dropped with
  LATE_ADAPTER. -/
  | holdBudgetExhausted (region : Nat)
  /-- STRIKE, R48: A folio strikes one bit-plane of an input vector, and its column codes are converted. -/
  | strike (shelf : Nat) (pos : Nat)
  /-- SHELF_EXIT, R80: After the vector's last term and the outlier terms, each ledger total is scaled to FP32. -/
  | shelfExit (shelf : Nat) (c : Nat) (x : ExitWith)
  /-- REDUCTION_ADD, R87: An FP32 addition of the hall or module tree runs once both operands have arrived. -/
  | reductionAdd (region : Nat) (stage : Nat) (group : Nat) (vec : Nat) (hall : Nat) (level : Nat) (idx : Nat)
  /-- WIDE_MERGE, R89: The ledger totals of an eligible group are merged as integers and converted once. -/
  | wideMerge (region : Nat) (stage : Nat) (group : Nat) (vec : Nat)
  /-- SCRIBE_JOB_START, R112: The scribe starts the next ready job in rank order, or suspends and resumes a
  SCRIBE_RUN. -/
  | scribeJobStart (shelf : Nat)
  /-- NOP, R113: The instruction has no effect. -/
  | nop (shelf : Nat)
  /-- HALT, R111: The instruction ends the program once its outstanding transfers complete. -/
  | halt (shelf : Nat)
  /-- LDX, R113: The instruction loads an immediate into an index register. -/
  | ldx (shelf : Nat)
  /-- ADDX, R113: The instruction adds an immediate to an index register, modulo 2^32. -/
  | addx (shelf : Nat)
  /-- LOOP, R113: The instruction decrements an index register and branches while it is non-zero. -/
  | loopX (shelf : Nat)
  /-- MMA, R102: The instruction computes a 16 x 64 tile product with exact groups of 32 and one rounding per
  group. -/
  | mma (shelf : Nat)
  /-- VADD, R105: The instruction adds tiles elementwise. -/
  | vadd (shelf : Nat)
  /-- VSUB, R105: The instruction subtracts tiles elementwise. -/
  | vsub (shelf : Nat)
  /-- VMUL, R105: The instruction multiplies tiles elementwise, fused with the add bit. -/
  | vmul (shelf : Nat)
  /-- VEXP, R105: The instruction computes exp elementwise. -/
  | vexp (shelf : Nat)
  /-- VRCP, R105: The instruction computes the reciprocal elementwise. -/
  | vrcp (shelf : Nat)
  /-- VRSQ, R105: The instruction computes the reciprocal square root elementwise. -/
  | vrsq (shelf : Nat)
  /-- VMAX, R97: The instruction takes the elementwise maximum. -/
  | vmax (shelf : Nat)
  /-- VMAXI, R106: The instruction computes maximum-with-index per row. -/
  | vmaxi (shelf : Nat)
  /-- VMINI, R106: The instruction computes minimum-with-index per row. -/
  | vmini (shelf : Nat)
  /-- VSUM, R106: The instruction sums each row pairwise. -/
  | vsum (shelf : Nat)
  /-- LDT, R113: The instruction loads and widens shelf-store rows into a tile. -/
  | ldt (shelf : Nat)
  /-- STT, R133: The instruction converts a tile and stores it to the shelf store. -/
  | stt (shelf : Nat)
  /-- GATHER, R110: The instruction starts an asynchronous gather of rows through a descriptor. -/
  | gather (shelf : Nat)
  /-- SCATTER, R110: The instruction starts an asynchronous scatter of rows through a descriptor. -/
  | scatter (shelf : Nat)
  /-- GATHER_COMPLETE, R111: A gather or scatter completes, and the lines waiting on it are released. -/
  | gatherComplete (m : Moved)
  /-- CHECK, R122: The instruction compares a result tile with a reference and may raise a vigilance event. -/
  | checkTile (shelf : Nat)
  /-- NORMW, R123: The instruction passes row sums to the class-N monitor. -/
  | normw (shelf : Nat)
  /-- SAMPLE_SELECT, R124: SAMPLE with MOD 0 selects local top candidates. -/
  | sampleSelect (shelf : Nat)
  /-- SAMPLE_DRAW, R125: SAMPLE with MOD 1 draws the session's next token from the merged candidates. -/
  | sampleDraw (shelf : Nat)
  /-- ATTENTION_MERGE, R242: Two attention partials merge once both arrive, and the root is normalised. -/
  | attentionMerge (region : Nat) (stage : Nat) (session : Nat) (tile : Nat) (kv : Nat)
  /-- PASS_BOUNDARY, R16: A pass ends, and pending flips, recipe, gain and tile changes take effect. -/
  | passBoundary (region : Nat) (obs : List (Nat × Nat × Nat × Nat × Nat))
  /-- CLASS_S_CHECK_DISCARD, R151: A check not done within S_LAG class-S passes is discarded and counted. -/
  | classSCheckDiscard (region : Nat) (shelf : Nat)
  /-- VIGILANCE_CLEAR, R156: Writing 1 to a detection bit of SCR.VIG_STATUS clears it and withdraws the completion
  flag. -/
  | vigilanceClear (hall : Nat) (bits : Nat)
  /-- TAP_UPDATE, R162: The collation engine writes a shadow bank and marks it valid for a vector or pass boundary.
  `gains` and `offsets` say which of the updates that are due it carries (R168). -/
  | tapUpdate (shelf : Nat) (pos : Nat) (gains : Bool) (offsets : Bool)
  /-- BANK_SWITCH, R161: At the first reset cycle of the target vector, the folio's bank select flips. -/
  | bankSwitch (shelf : Nat) (pos : Nat)
  /-- PASSIVE_WINDOW_END, R168: A passive window reaches PASSIVE_W vectors and its gain and offset are fitted. `power` is
  what the fit draws, in 0.1 W, against the activity's ceiling and the broker's grant (R181, R183). -/
  | passiveWindowEnd (shelf : Nat) (pos : Nat) (power : Nat)
  /-- ACTIVE_SWEEP, R170: An active sweep of 128 planes strikes a folio in idle or any slots: its next strike. -/
  | activeSweep (shelf : Nat) (pos : Nat)
  /-- SWEEP_FIT, R171: A sweep ends, its fit is written, and a COLLATING folio becomes READY or, after 16 sweeps,
  RETIRED. `trims` are the columns whose trims a COLLATING folio may program again and `targets` the gains it aims them at, in 1/65,536 (R165);
  `alpha` is the temperature coefficient that a sweep at a new temperature gives (R167). -/
  | sweepFit (shelf : Nat) (pos : Nat) (trims : List Nat) (targets : List Nat) (alpha : W32)
  /-- TEMP_SAMPLE, R167: Every 10 ms the hall junction temperature is read for gain tracking. `temp` is in 1/256 C. -/
  | tempSample (hall : Nat) (temp : Int)
  /-- TAP_CHECKPOINT_TIMER, R173: Every 24 hours a tap checkpoint is written to the NAND store. -/
  | tapCheckpointTimer (nandOk : Bool)
  /-- DEEP_COLLATION, R176: A due deep collation copies a folio's weights onto a spare with new trims. -/
  | deepCollation (shelf : Nat) (pos : Nat)
  /-- DRIFT_HOURLY_UPDATE, R179: Once an hour each folio's predicted residual is updated and refresh is marked due.
  `temps` are the halls' mean junction temperatures of the hour in 1/256 C. -/
  | driftHourlyUpdate (temps : List Int)
  /-- DRIFT_REFRESH, R180: A due refresh re-accesses a folio from the archive copy onto a spare. -/
  | driftRefresh (shelf : Nat) (pos : Nat)
  /-- SWEEP, R184: COL.REQUEST SWEEP sweeps the selected folio ahead of schedule. -/
  | reqSweep (hall : Nat) (tag : Nat)
  /-- DEEP, R184: COL.REQUEST DEEP deep-collates the selected folio. -/
  | reqDeep (hall : Nat) (tag : Nat)
  /-- REFRESH, R184: COL.REQUEST REFRESH refreshes the selected folio now. -/
  | reqRefresh (hall : Nat) (tag : Nat)
  /-- CHECKPOINT, R173: COL.REQUEST CHECKPOINT writes a tap checkpoint of the module. -/
  | reqCheckpoint (hall : Nat) (tag : Nat) (nandOk : Bool)
  /-- PATROL_SCRUB, R259: A patrol-scrub visit finds uncorrectable HBM lines and sets POISON. -/
  | patrolScrub (hall : Nat) (addr : Nat)
  /-- OUTLIER_MINUTE, R120: At the end of each tick minute, the spill and excess counts are recorded per region and
  stage. -/
  | outlierMinute
  /-- PORT_TRAIN, R291: An enabled Tsuyx port not ACTIVE runs training through lock and TRAIN exchange. `lanes` are
  the receive lanes that have locked, a bit each. -/
  | portTrain (port : Nat) (lanes : Nat)
  /-- TRAIN, R291: A received TRAIN link flit records partner data, and class pairing decides ACTIVE or MISWIRED. -/
  | train (port : Nat) (body : Bytes)
  /-- KEEPALIVE, R303: A received KEEPALIVE refreshes the partner's loss timer. -/
  | keepalive (port : Nat) (ack : Nat) (crVc : Nat) (credits : Nat)
  /-- KEEPALIVE_SEND_TIMER, R303: Every KA_US an ACTIVE port sends a KEEPALIVE. -/
  | keepaliveSendTimer (port : Nat)
  /-- KEEPALIVE_LOSS, R303: No good keep-alive arrives for LOSS_US, and the partner is declared lost. -/
  | keepaliveLoss (port : Nat)
  /-- LANE_LOCK_LOSS, R303: Every lane in use has been out of lock for 1 us, and the partner is declared lost. -/
  | laneLockLoss (port : Nat)
  /-- LANE_FAIL, R292: A failing lane makes the port retrain at x2, or enter DOWN. -/
  | laneFail (port : Nat) (lane : Nat)
  /-- RETRAIN, R309: TSX.CTRL.RETRAIN declares the partner lost and retrains the port. -/
  | retrain (port : Nat)
  /-- SEQUENCED_FLIT_RECEIVE, R295: A received TXN or MSG flit is accepted in order or discarded with a NACK.
  `corrected` and `uncorrectable` are what FEC found in its codewords. -/
  | sequencedFlitReceive (port : Nat) (flit : Bytes) (corrected : Nat) (uncorrectable : Bool)
  /-- NACK, R295: A received NACK makes the sender replay every held flit from ACK + 1. -/
  | nack (port : Nat) (ack : Nat) (crVc : Nat) (credits : Nat)
  /-- REPLAY_TIMEOUT, R295: ACK has not advanced for REPLAY_NS, and a replay starts. -/
  | replayTimeout (port : Nat)
  /-- WRITE, R300: A received WRITE transaction writes pass scratch of a paired region, or is refused. -/
  | tsxWrite (port : Nat)
  /-- FRAG, R318: A received FRAG fills collective elements, with poison carried. -/
  | frag (port : Nat)
  /-- READ_REQ, R300: A received READ_REQ is answered with a READ_RSP, or with poisoned zeros outside the window. -/
  | readReq (port : Nat)
  /-- READ_RSP, R299: A received READ_RSP delivers the requested lines to the requester. -/
  | readRsp (port : Nat)
  /-- JOIN, R312: A received JOIN is checked for admission and answered with ADMIT or REFUSE. -/
  | joinMsg (port : Nat)
  /-- ADMIT, R312: A received ADMIT admits the link and names the heir and admitted mask. -/
  | admitMsg (port : Nat)
  /-- REFUSE, R312: A received REFUSE keeps the link out of the orbit and records the reason. -/
  | refuseMsg (port : Nat)
  /-- DISPATCH, R313: A received DISPATCH starts the member's share of a pass, or is relayed downstream. `tokens`
  are how many tokens each session of the message brings to a TOKENS pass. -/
  | dispatchMsg (port : Nat) (tokens : List Nat)
  /-- DONE, R312: A received DONE reports a member's block of session results to the primary. -/
  | doneMsg (port : Nat)
  /-- RESULT, R313: A received RESULT carries result entries upstream to stage 0's primary. -/
  | resultMsg (port : Nat)
  /-- REMOVE, R321: A received REMOVE drops a member from the admitted mask and kills its regions' sessions. -/
  | removeMsg (port : Nat)
  /-- TAKEOVER, R321: A received TAKEOVER makes the heir the new primary. -/
  | takeoverMsg (port : Nat)
  /-- PACE, R320: A received PACE tells the primary that a member's contribution is delayed. -/
  | paceMsg (port : Nat)
  /-- REPORT, R320: A received POWER REPORT gives a member's power and throttle state. -/
  | reportMsg (port : Nat)
  /-- LIMIT, R320: A received POWER LIMIT sets a ceiling on a ready member for HOLD_US. -/
  | limitMsg (port : Nat)
  /-- RELEASE, R320: A received POWER RELEASE lifts a LIMIT. -/
  | releaseMsg (port : Nat)
  /-- LIMIT_HOLD_EXPIRY, R320: A LIMIT lapses when HOLD_US expires. -/
  | limitHoldExpiry
  /-- POWER_REPORT_TIMER, R320: Every 1 ms a member sends POWER REPORT to the primary. -/
  | powerReportTimer
  /-- FAULT, R302: A received FAULT message reports a lane, port loss, detection or sent poison. -/
  | faultMsg (port : Nat)
  /-- SNAP_REQ, R306: A received SNAP_REQ is answered with SNAP_RSP carrying T2 and T3. -/
  | snapReq (port : Nat)
  /-- SNAP_RSP, R306: A received SNAP_RSP gives the offset and rtt written into TSX.SNAP. -/
  | snapRsp (port : Nat)
  /-- SNAP_PERIOD_TIMER, R306: Every PERIOD_MS, or on REQUEST, a port sends a SNAP_REQ. -/
  | snapPeriodTimer (port : Nat)
  /-- COLLECTIVE_TIMEOUT, R319: A collective's timer reaches ORB.COLL_TIMEOUT, and missing elements are poisoned.
  `tag` is the collective's identifier (R318). -/
  | collectiveTimeout (tag : Nat)
  /-- HEIR_CONFIRM_TIMEOUT, R321: The heir's CONFIRM_US window ends, and it takes over with a majority or goes
  ISOLATED. -/
  | heirConfirmTimeout
  /-- TAKEOVER_WAIT_TIMEOUT, R321: A moon gets no TAKEOVER within 4 x CONFIRM_US and enters ISOLATED. -/
  | takeoverWaitTimeout
  /-- LEAVE, R325: ORB.CTRL.LEAVE leaves the orbit after the pass in flight. -/
  | leave
  /-- BROKER_CYCLE, R332: Every 10 us the broker divides the budget among halls and sets ceilings. -/
  | brokerCycle (m : BrokerIn)
  /-- EXCURSION_CUT, R330: An excursion above the cap or ILIM reaches 8 ms, and every hall ceiling is cut. -/
  | excursionCut
  /-- CAP_WRITE, R331: A write to PWR.CAP sets a new cap and current limit from the next broker cycle. -/
  | capWrite (standby : Bool) (width : Nat) (value : Nat)
  /-- VOLTAGE_SLEW_DONE, R335: VDD_SCR settles at the new VSET, and the point change proceeds. -/
  | voltageSlewDone (hall : Nat)
  /-- PLL_RELOCK_DONE, R335: The idle PLL relocks, and the clock switches to it. -/
  | pllRelockDone (hall : Nat)
  /-- THERMAL_STEP, R339: Every 100 us above THERM_C, or 1 ms after cooling, the strike period or ceiling is
  stepped. `temp` is the hall's junction temperature in 1/256 °C. -/
  | thermalStep (hall : Nat) (temp : Int)
  /-- DROOP_DETECT, R341: A droop sensor crossing stretches the scribe clock and defers strike starts. -/
  | droopDetect (hall : Nat)
  /-- DROOP_CLEAR, R341: Every sensor has stayed above the threshold for 200 ns, and the clock returns to full. -/
  | droopClear (hall : Nat)
  /-- HINT_WINDOW_OPEN, R337: LEAD_US after a HINT its phase window opens. -/
  | hintWindowOpen (carrel : Nat) (region : Nat) (tag : Nat)
  /-- HINT_WINDOW_END, R337: A hint window ends, and a miss is counted if no pass of the tag ran. -/
  | hintWindowEnd (carrel : Nat) (region : Nat) (tag : Nat)
  /-- IDLE_ENTRY, R345: After IDLE_US with no work, the module enters Idle. -/
  | idleEntry
  /-- AUTO_SLEEP, R345: After AUTO_SLEEP_MS in Idle, the module enters Sleep by itself. `woken` gives the step of
  Table 16-2 in which a wake event fell, and its source. -/
  | autoSleep (nandOk : Bool) (woken : Option (Nat × Nat))
  /-- SLEEP, R347: PST.CTRL.REQ SLEEP is checked and, if accepted, enters Sleep. `nandOk` tells whether the NAND
  writes of step 2 succeeded. -/
  | sleep (nandOk : Bool) (woken : Option (Nat × Nat))
  /-- DEEP_SLEEP, R347: PST.CTRL.REQ DEEP_SLEEP is checked and, if accepted, enters Deep sleep. -/
  | deepSleep (nandOk : Bool) (woken : Option (Nat × Nat))
  /-- OFF, R347: PST.CTRL.REQ OFF is checked and, if accepted, enters Off. -/
  | powerOff (nandOk : Bool) (woken : Option (Nat × Nat))
  /-- WAKE_EVENT, R349: A BAR access or host link exit starts the wake of the domains it reaches. `src` is 1 for a
  read, 2 for a write, 3 for a link exit; an offset from 2^32 on lies in BAR2. -/
  | wakeEvent (src : Nat) (standby : Bool) (fn : Fn) (off : Nat) (width : Nat)
  /-- WAKE_DOMAIN_READY, R350: A waking domain becomes ready, and held writes and stalled reads proceed. 1 is
  registers and intake, 2 the curator, 4 + h hall h. -/
  | wakeDomainReady (domain : Nat)
  /-- READ_HOLD_EXPIRY, R350: A held read reaches READ_HOLD_US and completes with all ones. -/
  | readHoldExpiry
  /-- SIDEBAND_ADDRESS_MATCH, R352: A matching SMBus address byte wakes the module and is NACKed. -/
  | sidebandAddressMatch (addr : Nat)
  /-- WAKE_N_ASSERT, R349: WAKE_N held low by the board for 1 us is a wake event. -/
  | wakeNAssert
  /-- V44_UNDERVOLTAGE, R415: The input below 35 V for 20 us puts the module in Off. -/
  | v44Undervoltage
  /-- V44_OVERVOLTAGE, R415: The input above 56 V for 5 us disconnects it, and the module enters Off. -/
  | v44Overvoltage
  /-- STANDBY_RESET, R405: VSTBY_3V3 rising resets the always-on domain. -/
  | standbyReset
  /-- STANDBY_LOSS, R418: VSTBY_3V3 below 3.0 V with the input present puts the module in Off. -/
  | standbyLoss
  /-- WATCHDOG_EXPIRY, R357: An unserviced watchdog restarts the curator domain, or escalates to a device reset. -/
  | watchdogExpiry
  /-- MAILBOX_BLOCK_WRITE, R358: A write into the mailbox request area marks blocks, and a complete request is
  checked and taken. `off` counts from the start of the request area. -/
  | mailboxBlockWrite (standby : Bool) (off : Nat) (bytes : Bytes)
  /-- IDENTITY, R373: The mailbox request returns the identity record. -/
  | identity
  /-- ATTEST, R375: The mailbox request signs an attestation record, subject to the token bucket. `nandOk` tells
  whether a reservation of leaves was written. -/
  | attest (nandOk : Bool)
  /-- ANNALS_EXPORT, R359: The mailbox request writes annals records to host memory by DMA. -/
  | annalsExport
  /-- ANNALS_NOTE, R359: The mailbox request writes a HOST_NOTE record. -/
  | annalsNote
  /-- FW_STAGE, R371: The mailbox request fetches, checks and writes a firmware package to the idle slot. `f` is
  what the package fetch brought. -/
  | fwStage (f : Fetch) (nandOk : Bool)
  /-- FW_ACTIVATE, R371: The mailbox request marks the staged slot TRIAL for the next boot. -/
  | fwActivate (nandOk : Bool)
  /-- FW_REVERT, R371: The mailbox request selects the other slot for the next boot. -/
  | fwRevert (nandOk : Bool)
  /-- FW_RAISE_FLOOR, R371: The mailbox request sets the firmware floor to the confirmed running SVN. -/
  | fwRaiseFloor (nandOk : Bool)
  /-- ATTEST_TOKEN_REFILL, R375: Every 600 s one attestation token returns to the bucket. -/
  | attestTokenRefill
  /-- MONITOR_TRIGGER, R362: A monitor slot's timer or PWM event starts a conversion. `stopped` tells whether a PWM
  slot's regulator is stopped. -/
  | monitorTrigger (die : Nat) (slot : Nat) (stopped : Bool)
  /-- MONITOR_RESULT, R363: A conversion yields a result, which is compared with the slot's window. `x` is what
  the modulator gave. -/
  | monitorResult (die : Nat) (slot : Nat) (x : Samples)
  /-- ANNALS_FLUSH, R368: A segment of annals records is written with a colophon, on a timer, full segment, error
  or request. -/
  | annalsFlush (nandOk : Bool)
  /-- FLUSH, R368: ANN.CTRL.FLUSH starts an annals write. -/
  | flush (width : Nat) (value : Nat) (nandOk : Bool)
  /-- ANNALS_RATE_SECOND, R369: At each tick second the per-KIND counts restart and RATE_DROP records are written. -/
  | annalsRateSecond
  /-- ALERT_CLEAR, R370: Writing 1 to ANN.CTRL.ALERT clears it and releases SB_ALERT_N. -/
  | alertClear (width : Nat) (value : Nat)
  /-- HOUR_COUNT, R327: Each operating hour is counted into the NAND store, and G_age is updated. -/
  | hourCount
  /-- PROOF_JOB, R379: A proof job of the hall's rotation runs, and a second mismatch fails the unit. `observed` is
  the digest of the proof's outputs when its last job has run. -/
  | proofJob (hall : Nat) (observed : Bytes)
  /-- PROOF_FORCE, R379: A unit's proof set is overdue at PERIOD_S - 1 s, and its jobs are forced at pass
  boundaries. -/
  | proofForce (hall : Nat) (unit : Nat)
  /-- MARGIN_WALK, R382: A spare folio is walked through the stress steps and retired on failure. `failed` are the
  steps of Table 18-2 that the folio fails. -/
  | marginWalk (shelf : Nat) (pos : Nat) (failed : List Nat)
  /-- OPEN, R383: CUR.MAINT_CTRL OPEN quiesces the named regions and walks their folios. -/
  | openWindow (tag : Nat) (mask : Nat) (limit : Nat)
  /-- OPEN_MODULE, R383: CUR.MAINT_CTRL OPEN_MODULE opens a window on every region with HBM and Tsuyx steps.
  `hbmBad` are the HBM units that fail step 5 (hall × 2^40 + address), `lanesBad` how many lanes fail step 6. -/
  | openModule (tag : Nat) (limit : Nat) (hbmBad : List Nat) (lanesBad : Nat)
  /-- CLOSE, R383: CUR.MAINT_CTRL CLOSE ends the window and releases held commands. -/
  | closeWindow (tag : Nat)
  /-- MAINT_LIMIT_EXPIRY, R383: LIMIT_MS of a window expires, stopping any walk and closing it. -/
  | maintLimitExpiry
  /-- LOCALISATION_END, R387: After 8 passes striking the failing chain, the fault is localised to folios or NONE. -/
  | localisationEnd (region : Nat)
  /-- FSR_DELIVER, R395: A fault signature record is delivered to the host ring once a slot is free. -/
  | fsrDeliver
  /-- FSR_RING_ENABLE, R395: Setting CUR.FSR_RING.ENABLE restarts delivery from the oldest retained record. `value`
  is the 64-bit value written. -/
  | fsrRingEnable (value : Nat)
  /-- PLL_LOCK_LOSS, R402: A hall PLL loses lock, and its clocks are gated and its values poisoned, or a concourse
  loss resets the device. `hall` 4 is the concourse or the oscillator; `pll` 0 strike, 1 scribe, 2 fabric. -/
  | pllLockLoss (hall : Nat) (pll : Nat)
  /-- HALL_RELOCK_DONE, R402: The hall relocks its PLLs and resumes at the next pass boundary. -/
  | hallRelockDone (hall : Nat)
  /-- DEVICE, R406: RST.CTRL DEVICE with the right KEY starts a device reset. -/
  | deviceReset (standby : Bool) (width : Nat) (value : Nat)
  /-- SIDEBAND_RESET, R406: An SMBus write-byte of 0xD5 to command 0xF0 starts a device reset. -/
  | sidebandReset (data : Nat)
  /-- THERMAL_TRIP, R422: A diode reaches 115 C, and THERM_TRIP_N asserts, the rails switch off and the device
  resets. -/
  | thermalTrip
  /-- TRIP_HOLD_RELEASE, R422: The hold conditions are met, and THERM_TRIP_N releases and the module boots. The
  operands are those of the bring-up that follows. -/
  | tripHoldRelease (ms : Nat) (badShelves : List Nat) (selfTest : Option Bool)
  /-- PORT_LINK_LOSS, R286: A PCIe port's link goes down or its PERST is asserted, and its streams halt. -/
  | portLinkLoss (portB : Bool)
  /-- PORT_LINK_UP, R227: Port B links again with bus mastering enabled, and BULK transfers return to PF2. -/
  | portLinkUp (portB : Bool)
  /-- STANDBY_TAKEOVER, R286: The active port stays lost for TAKEOVER_MS, and the standby port becomes active. -/
  | standbyTakeover
  /-- FUNCTION_LEVEL_RESET_VF, R266: A VF function-level reset closes the carrel's sessions and clears its stream,
  ring, tiles and loan entries. -/
  | functionLevelResetVf (carrel : Nat)
  /-- FUNCTION_LEVEL_RESET_PF0, R405: A PF0 function-level reset clears its configuration and mailbox framing. -/
  | functionLevelResetPf0
  /-- FUNCTION_LEVEL_RESET_PF1, R405: A PF1 function-level reset clears its stream and ring and ends its
  accessions. -/
  | functionLevelResetPf1
  /-- FUNCTION_LEVEL_RESET_PF2, R405: A PF2 function-level reset clears its configuration and makes BULK fall back. -/
  | functionLevelResetPf2
  /-- IDLE, R294: A received IDLE flit delivers the partner's ACK, which releases held flits, and one cumulative
  credit count. -/
  | idleFlit (port : Nat) (ack : Nat) (crVc : Nat) (credits : Nat)
  /-- ORBIT_REJOIN, R322: A write of 1 to ORB.CTRL.JOIN lets an ISOLATED member seek admission again under R312. -/
  | orbitRejoin
  /-- BUS_MASTERING_CHANGE, R286: The host enables or disables a function's bus mastering, which lets its DMA
  resume or makes its DMA fail and BULK return to PF2. -/
  | busMasteringChange (fn : Fn) (on : Bool)
  /-- COMPLETION_TIMEOUT, R263: A host DMA read for a swap-out check or a comet return gets no completion within
  the PCIe completion timeout, so the step fails or the read is reissued. -/
  | completionTimeout (session : Nat)
  deriving DecidableEq, Repr

end Sys2Proof
end

