-- ==== Sys2Proof/Decode.lean ====
section
/-!
DEFINITION. Sys2Proof/Decode.lean: the command that a word spells by the opcode table's bits.

No row of spec/opcode_table.json gives bits: the block is commanded by register writes, packets, flits and events, and
what such a command carries stands in its constructor's operands. So no word spells a command.
-/
namespace Sys2Proof

/-- The command that the low `nbits` bits of `w` spell: none, since the table gives no row any bits. -/
def decodeTableWord (_nbits _w : Nat) : Option Instr := none

end Sys2Proof
end

