-- ==== Sys2Proof/Machine/Bits.lean ====
section
/-!
DEFINITION. Sys2Proof/Machine/Bits.lean: bit fields of a register, and numbers held in little-endian bytes
(00_scope, Registers: little-endian; bit ranges [hi:lo]).
-/
namespace Sys2Proof.Machine

/-- Bits [lo + w - 1 : lo] of a number. -/
def nbits (v lo w : Nat) : Nat := (v >>> lo) % 2 ^ w

/-- Bits [lo + w - 1 : lo] of a register. -/
def fieldOf (r : W64) (lo w : Nat) : Nat := nbits r.toNat lo w

/-- The register with bits [lo + w - 1 : lo] holding `x`'s low `w` bits. -/
def withField (r : W64) (lo w x : Nat) : W64 :=
  let mask : W64 := BitVec.ofNat 64 ((2 ^ w - 1) <<< lo)
  (r &&& ~~~ mask) ||| (BitVec.ofNat 64 ((x % 2 ^ w) <<< lo))

/-- The register with the field counted up by `n`, staying at its greatest value once there. -/
def bumpField (r : W64) (lo w n : Nat) : W64 :=
  withField r lo w (min (fieldOf r lo w + n) (2 ^ w - 1))

/-- A number as `n` bytes, least significant first. -/
def leBytes : Nat → Nat → Bytes
  | 0, _ => []
  | n + 1, v => BitVec.ofNat 8 v :: leBytes n (v / 256)

/-- The number that bytes hold, least significant first. -/
def leNat : Bytes → Nat
  | [] => 0
  | b :: bs => b.toNat + 256 * leNat bs

/-- A number as `n` bytes, most significant first. -/
def beBytes (n v : Nat) : Bytes := (leBytes n v).reverse

/-- Bytes [off, off + n) of a string. -/
def slice (bs : Bytes) (off n : Nat) : Bytes := (bs.drop off).take n

/-- The `n`-byte little-endian number at `off`. -/
def rd (bs : Bytes) (off n : Nat) : Nat := leNat (slice bs off n)

/-- Are bytes [off, off + n) all zero? Reserved bytes of a record are checked so. -/
def zeroAt (bs : Bytes) (off n : Nat) : Bool := (slice bs off n).all (· == 0)

/-- The string with `new` laid over it from `off` on, its length unchanged. -/
def overlay (bs : Bytes) (off : Nat) (new : Bytes) : Bytes :=
  (bs.take off ++ new ++ bs.drop (off + new.length)).take bs.length

/-- Bytes read as a two's-complement number of 8·n bits. -/
def rdInt (bs : Bytes) (off n : Nat) : Int :=
  let v := rd bs off n
  if v < 2 ^ (8 * n - 1) then (v : Int) else (v : Int) - 2 ^ (8 * n)

/-- A two's-complement field of `w` bits. -/
def signed (w v : Nat) : Int := if v % 2 ^ w < 2 ^ (w - 1) then ((v % 2 ^ w : Nat) : Int) else ((v % 2 ^ w : Nat) : Int) - 2 ^ w

/-- The `w`-bit two's-complement pattern of an integer. -/
def unsignedOf (w : Nat) (i : Int) : Nat := (i % (2 ^ w : Nat)).toNat

/-- `⌈a / b⌉`. -/
def ceilDiv (a b : Nat) : Nat := (a + b - 1) / b

/-- A number held between two bounds. -/
def clampInt (lo hi x : Int) : Int := max lo (min hi x)

/-- A string cut into pieces of `n` bytes (the last one may be shorter); `fuel` is the most pieces. -/
def chunks (n : Nat) : Nat → Bytes → List Bytes
  | 0, _ => []
  | fuel + 1, bs => if bs.isEmpty then [] else bs.take n :: chunks n fuel (bs.drop n)

/-- `x` put before the first element that it may precede. -/
def insertBy {α : Type} (le : α → α → Bool) (x : α) : List α → List α
  | [] => [x]
  | y :: ys => if le x y then x :: y :: ys else y :: insertBy le x ys

/-- A list in the order `le`, elements that may stand either way in their old order. -/
def sortBy {α : Type} (xs : List α) (le : α → α → Bool) : List α := xs.foldr (insertBy le) []

end Sys2Proof.Machine
end

