-- ==== Sys2Proof/Machine/Crc.lean ====
section
/-!
DEFINITION. Sys2Proof/Machine/Crc.lean: CRC-32C, the check field of Yilzen packets (Table 0-3, R9; R271), polynomial
0x1EDC_6F41, here in its bit-reflected form 0x82F6_3B78 with initial value and final inversion of all ones
(PRESUMED from the published standard, log entry 5).
-/
namespace Sys2Proof.Machine

/-- One bit of the division. -/
def crcBit (c : Nat) : Nat := if c % 2 = 1 then (c / 2) ^^^ 0x82F63B78 else c / 2

/-- One byte of the division. -/
def crcByte (c : Nat) (b : Byte) : Nat := Nat.iterate crcBit 8 (c ^^^ b.toNat)

/-- CRC-32C of a string. -/
def crc32c (bs : Bytes) : Nat := (bs.foldl crcByte 0xFFFFFFFF) ^^^ 0xFFFFFFFF

end Sys2Proof.Machine
end

