-- ==== Sys2Proof/Config.lean ====
section
/-!
DEFINITION. Sys2Proof/Config.lean: what the manual leaves to the silicon or does not state.

Every constant here is opaque: nothing in Lean can evaluate it, so a claim about the model holds whatever it is.
A function of operands stands where the manual says that identical inputs give identical bits; a function of the
counter `State.free` stands where a value is drawn anew each time. The log entries are named beside each.
-/
namespace Sys2Proof.Config

/-- The bits of exp outside the special cases of Table 5-2 (R105: not published), held to its bound. Log entry 10. -/
opaque vexpBits : W32 → W32
/-- The bits of 1/x outside the special cases of Table 5-2 (R105). Log entry 10. -/
opaque vrcpBits : W32 → W32
/-- The bits of 1/√x outside the special cases of Table 5-2 (R105). Log entry 10. -/
opaque vrsqBits : W32 → W32
/-- Whether a value n ÷ d that the manual leaves unrounded goes to the binary32 neighbour above. Log entry 53. -/
opaque roundsUp : Nat → Nat → Bool
/-- Sign and payload of a quiet NaN result, a function of the operands (R97, R102; no payload is stated). Log entry 11. -/
opaque nanPayload : W32 → W32 → W32 → W32
/-- The signature the identity key makes at a leaf (R374). Log entry 12. -/
opaque xmssSign : Nat → Bytes → Bytes
/-- Whether route words deliver the input that R440 fixes: region, stage, hall, words (R438: the encoding is the
module's own). Log entry 13. -/
opaque routeDelivers : Nat → Nat → Nat → Bytes → Bool
/-- What a stage's entry program hands over as the inputs of one vector (R14, R112; what programs compute is the image's): its program, the
digest of the region's package, stage, token, position, and the outputs of the stages before it. Log entry 31. -/
opaque stageEntry : Bytes → Bytes → Nat → Nat → Nat → List (List W32) → List W32
/-- Where a NaN ranks among the magnitudes of outlier pairs (R117: not stated). Log entry 3. -/
opaque nanRank : W32 → Nat
/-- The analogue error of one column conversion in 2^-16 code units: folio, column, COARSE, FINE, draw (R55, R57). Log entry 14. -/
opaque analogueError : Nat → Nat → Int → Int → Nat → Int
/-- Where a column trim comes to stand within the bound of R165, in 1/100,000 of its target: draw of the programming, column, reprograms.
Log entry 14. -/
opaque trimError : Nat → Nat → Nat → Int
/-- The coarse-threshold error that a sweep shows, in 1/256 code: codes and ideal sums of a column's random planes (R171: no formula is given).
Log entry 55. -/
opaque coarseStep : List Int → List Int → Int
/-- The fine-threshold error that a sweep shows (R171). Log entry 55. -/
opaque fineStep : List Int → List Int → Int
/-- The ν_f that boot collation gives: before, the age in hours, the common fall as binary32 (R178: no formula is given). Log entry 55. -/
opaque nuFit : W32 → Nat → W32 → W32
/-- The measured level of a stuck cell in 1/256 level: draw, row × 512 + column, 0 for G+ and 1 for G− (R200, R202). Log entry 14. -/
opaque cellLevel : Nat → Nat → Nat → Int
/-- A draw of the curator's random source at a scheduled class-S pass (R149). Log entry 15. -/
opaque randomDraw : Nat → Nat
/-- The phase of a shelf's class-S schedule, drawn at bind (R149): the bind's draw, the module shelf. Log entry 15. -/
opaque schedulePhase : Nat → Nat → Nat
/-- The test record's a of a monitor input in 2^-64 SCALED units for a CODE of 1, by die × 16 + input (R363: no value is given). Log entry 23. -/
opaque monSlope : Nat → Int
/-- The test record's b of a monitor input in 2^-64 SCALED units (R363). Log entry 23. -/
opaque monOffset : Nat → Int
/-- The nominal SCALED of a die's REF_CHECK input (Table 17-4 gives the window as ±0.5 % of it). Log entry 23. -/
opaque refNominal : Nat → Int
/-- The identity record that IDENTITY returns (R373: no layout is given), by identity serial. Log entry 46. -/
opaque identityRecord : Nat → Bytes
/-- A field of the 128-byte firmware package header, whose offsets are not given (17): 0 FORMAT, 1 SVN, 2 PAYLOAD_LEN, 3 SIG_OID,
4 REV_MASK. Log entry 46. -/
opaque fwField : Nat → Bytes → Nat
/-- MAGIC (0), PAYLOAD_DIGEST (1) and KEY_ID (2) of that header. Log entry 46. -/
opaque fwBytes : Nat → Bytes → Bytes
/-- The two Gwynzedex firmware keys whose digests the boot ROM holds (R371). Log entry 46. -/
opaque fwKey : Nat → Bytes
/-- The proof library of a firmware package, by the package's digest (R378: part of its payload, whose content is not given): of each proof
the identifier, the unit class, how many jobs, the known answer. Log entry 41. -/
opaque proofLibrary : Bytes → List (Nat × Nat × Nat × Bytes)
/-- The version of that library (R378). Log entry 41. -/
opaque proofLibVersion : Bytes → Nat
/-- A value the manual leaves undefined, drawn by the counter `State.free`. Log entry 3. -/
opaque freeNat : Nat → Nat
/-- A byte the manual leaves undefined, drawn by the counter `State.free`. Log entry 3. -/
opaque freeByte : Nat → Nat → Byte

end Sys2Proof.Config
end

