-- ==== Sys2Proof/Machine/Keccak.lean ====
section
/-!
DEFINITION. Sys2Proof/Machine/Keccak.lean: SHAKE256 with 256-bit output, used for every digest (Table 0-3: FIPS 202).

R9 gives the published standard for what the manual does not restate (PRESUMED from FIPS 202, log entry 5).
-/
namespace Sys2Proof.Machine

/-- The round constants, each by the seven bits that it may have: bit j stands for bit 2^j − 1 of the lane. -/
def roundBits : List Nat :=
  [1, 26, 94, 112, 31, 33, 121, 85, 14, 12, 53, 38, 63, 79, 93, 83, 82, 72, 22, 102, 121, 88, 33, 116]

/-- A round constant as a lane. -/
def roundConst (bits : Nat) : W64 := BitVec.ofNat 64 (((List.range 7).map fun j => bits / 2 ^ j % 2 * 2 ^ (2 ^ j - 1)).sum)

/-- Rho and pi together: for each lane in turn, row by row, which lane comes there and by how much it is rotated. -/
def lanesFrom : List (Nat × Nat) :=
  [(0, 0), (6, 44), (12, 43), (18, 21), (24, 14),
  (3, 28), (9, 20), (10, 3), (16, 45), (22, 61),
  (1, 1), (7, 6), (13, 25), (19, 8), (20, 18),
  (4, 27), (5, 36), (11, 10), (17, 15), (23, 56),
  (2, 62), (8, 55), (14, 39), (15, 41), (21, 2)]

/-- Theta: each lane takes in the parities of two neighbouring columns. -/
def theta (a : List W64) : List W64 :=
  let par := (List.range 5).map fun x => (List.range 5).foldl (fun p y => p ^^^ a.getD (x + 5 * y) 0) 0
  a.zipIdx.map fun v => v.1 ^^^ par.getD ((v.2 + 4) % 5) 0 ^^^ (par.getD ((v.2 + 1) % 5) 0).rotateLeft 1

/-- Chi on one row of five lanes. -/
def chiRow (r : List W64) : List W64 :=
  match r with
  | [a, b, c, d, e] => [a ^^^ (~~~ b &&& c), b ^^^ (~~~ c &&& d), c ^^^ (~~~ d &&& e), d ^^^ (~~~ e &&& a), e ^^^ (~~~ a &&& b)]
  | _ => r

/-- Chi: row by row. -/
def chi : Nat → List W64 → List W64
  | 0, _ => []
  | n + 1, a => chiRow (a.take 5) ++ chi n (a.drop 5)

/-- A round of the permutation. -/
def keccakRound (a : List W64) (bits : Nat) : List W64 :=
  let t := theta a
  match chi 5 (lanesFrom.map fun p => (t.getD p.1 0).rotateLeft p.2) with
  | first :: rest => (first ^^^ roundConst bits) :: rest
  | [] => []

/-- Keccak-f[1600]. -/
def keccakF (a : List W64) : List W64 := roundBits.foldl keccakRound a

/-- The rate of SHAKE256 in bytes. -/
def shakeRate : Nat := 136

/-- A block of the padded message taken into the sponge. -/
def absorb (a : List W64) (blk : Bytes) : List W64 :=
  keccakF ((List.range 25).map fun i => a.getD i 0 ^^^ BitVec.ofNat 64 (rd blk (8 * i) 8))

/-- The message with SHAKE's suffix and the padding of the last block. -/
def shakePad (m : Bytes) : Bytes :=
  let free := shakeRate - m.length % shakeRate
  if free = 1 then m ++ [0x9F] else m ++ [0x1F] ++ List.replicate (free - 2) 0 ++ [0x80]

/-- The sponge state after a message. -/
def shakeState (m : Bytes) : List W64 :=
  let p := shakePad m
  (chunks shakeRate (p.length / shakeRate) p).foldl absorb (List.replicate 25 0)

/-- SHAKE256 with 256-bit output. -/
def shake256 (m : Bytes) : Bytes :=
  let a := shakeState m
  (List.range 4).flatMap fun i => leBytes 8 (a.getD i 0).toNat

/-- SHAKE256 with 1,024-bit output, which one squeeze gives. -/
def shake256Long (m : Bytes) : Bytes :=
  let a := shakeState m
  (List.range 16).flatMap fun i => leBytes 8 (a.getD i 0).toNat

end Sys2Proof.Machine
end

