-- ==== Sys2Proof/Machine/Image.lean ====
section
/-!
DEFINITION. Sys2Proof/Machine/Image.lean: structure images (02_structure_image.md): layout, the built-in plain image,
and the typed reading of every section body.
-/
namespace Sys2Proof.Machine

/-- ASCII bytes of a name given by its codes. -/
def asciiBytes (cs : List Nat) : Bytes := cs.map fun c => BitVec.ofNat 8 c

/-- "CV48SIMG" (Table 2-1). -/
def magicImage : Bytes := asciiBytes [0x43, 0x56, 0x34, 0x38, 0x53, 0x49, 0x4D, 0x47]
/-- "CV48SMAN" (R26). -/
def magicManifest : Bytes := asciiBytes [0x43, 0x56, 0x34, 0x38, 0x53, 0x4D, 0x41, 0x4E]
/-- "CV48ANCR" (Table 2-11). -/
def magicAnchor : Bytes := asciiBytes [0x43, 0x56, 0x34, 0x38, 0x41, 0x4E, 0x43, 0x52]
/-- "CV48PUBK" (R435). -/
def magicPublisher : Bytes := asciiBytes [0x43, 0x56, 0x34, 0x38, 0x50, 0x55, 0x42, 0x4B]

/-- A directory entry with the section header it points at (R21). -/
structure RawSection where
  type : Nat
  inst : Nat
  flags : Nat
  off : Nat
  len : Nat
  hType : Nat
  hInst : Nat
  hFormat : Nat
  hBodyLen : Nat
  hDigest : Bytes
  hReservedOk : Bool
  body : Bytes
  deriving DecidableEq, Repr

/-- Directory entry i of an image and the section it names (R21). -/
def rawSection (b : Bytes) (i : Nat) : RawSection :=
  let d := 0x100 + 32 * i
  let off := rd b (d + 8) 8
  let len := rd b (d + 16) 8
  { type := rd b d 2, inst := rd b (d + 2) 2, flags := rd b (d + 4) 4, off := off, len := len
    hType := rd b off 2, hInst := rd b (off + 2) 2, hFormat := rd b (off + 4) 2, hBodyLen := rd b (off + 8) 8
    hDigest := slice b (off + 16) 32
    hReservedOk := zeroAt b (off + 6) 2 && zeroAt b (off + 48) 16 && zeroAt b (d + 24) 8 && decide (rd b (d + 4) 4 < 2)
    body := slice b (off + 64) (len - 64) }

/-- The sections of an image in directory order. -/
def rawSections (b : Bytes) : List RawSection := (List.range (rd b 0x0C 2)).map (rawSection b)

/-- Where the manifest starts. -/
def manifestOff (b : Bytes) : Nat := rd b 0x28 8
/-- How long the manifest is. -/
def manifestLen (b : Bytes) : Nat := rd b 0x30 4

/-- Bytes [lo, hi) are zero. -/
def zeroTo (b : Bytes) (lo hi : Nat) : Bool := zeroAt b lo (hi - lo)

/-- The sections stand in order after `pos`, aligned, and the padding between them is zero; answers where the last one
ends (R19, R21). -/
def sectionsInOrder (b : Bytes) : Nat → List RawSection → Option Nat
  | pos, [] => some pos
  | pos, s :: rest =>
    if s.off % 4096 = 0 ∧ pos ≤ s.off ∧ 64 ≤ s.len ∧ s.off + s.len ≤ b.length ∧ zeroTo b pos s.off = true then
      sectionsInOrder b (s.off + s.len) rest
    else none

/-- R30 step 2, last part: the rest of the layout of R19 to R21 and R26. -/
def layoutOk (b : Bytes) : Bool :=
  let n := rd b 0x0C 2
  let secs := rawSections b
  let mo := manifestOff b
  let ml := manifestLen b
  zeroAt b 0x0E 2 && decide (rd b 0x20 1 < 4) && zeroAt b 0x21 7 && zeroAt b 0x34 4 && zeroAt b 0x58 168
  && decide (1 ≤ n ∧ n ≤ 64)
  && secs.all (fun s => s.hReservedOk && decide (s.hType = s.type ∧ s.hInst = s.inst ∧ s.hBodyLen + 64 = s.len))
  && (match sectionsInOrder b (0x100 + 32 * n) secs with
      | none => false
      | some e => decide (e ≤ mo) && zeroTo b e mo)
  && decide (mo % 4096 = 0 ∧ mo + ml ≤ b.length ∧ 128 + 40 * n ≤ ml)
  && zeroTo b (mo + ml) b.length
  && decide (slice b mo 8 = magicManifest ∧ rd b (mo + 8) 8 = rd b 0x18 8 ∧ rd b (mo + 0x54) 4 = n
      ∧ rd b (mo + 0x58) 4 = ml - 128 - 40 * n)
  && zeroAt b (mo + 0x5C) 36
  && (List.range n).all (fun i => let e := mo + 128 + 40 * i
      let d := 0x100 + 32 * i
      decide (rd b e 2 = rd b d 2 ∧ rd b (e + 2) 2 = rd b (d + 2) 2) && zeroAt b (e + 4) 4)

/-- The digest the manifest gives for section i (R26). -/
def manifestDigest (b : Bytes) (i : Nat) : Bytes := slice b (manifestOff b + 128 + 40 * i + 8) 32

/-- The bytes the operator's signature covers, and the signature (R26). -/
def signedPart (b : Bytes) : Bytes := slice b (manifestOff b) (128 + 40 * rd b 0x0C 2)
def signaturePart (b : Bytes) : Bytes :=
  slice b (manifestOff b + 128 + 40 * rd b 0x0C 2) (rd b (manifestOff b + 0x58) 4)

/-- An image as it is bound: the bodies of the listed types it carries. -/
structure Image where
  plain : Bool
  serial : Nat
  headerDigest : Bytes
  buildId : Bytes
  bodies : List (Nat × Bytes)
  deriving DecidableEq, Repr

/-- The image a byte string holds. -/
def parseImage (b : Bytes) : Image :=
  { plain := false, serial := rd b 0x18 8
    headerDigest := slice b (manifestOff b + 0x10) 32
    buildId := slice b 0x38 16
    bodies := ((rawSections b).filter (fun s => decide (1 ≤ s.type ∧ s.type ≤ 15))).map fun s => (s.type, s.body) }

/-! ### The plain image (R42, Table 2-9) -/

/-- Its one region: id 0, "plain", no layers, all 512 shelves. -/
def plainRegions : Bytes :=
  [0, 0] ++ leBytes 2 0 ++ leBytes 4 0 ++ asciiBytes [0x70, 0x6C, 0x61, 0x69, 0x6E] ++ leBytes 11 0 ++ leBytes 8 0
    ++ leBytes 32 0 ++ List.replicate 64 0xFF

/-- Each shelf's 64 folios form one chain. -/
def plainChains : Bytes :=
  (List.range 512).flatMap fun s => leBytes 2 s ++ [1] ++ leBytes 5 0 ++ leBytes 48 0 ++ List.replicate 8 0xFF

/-- Carrel 0 only: class S, privileged, priority 8, region mask 1. -/
def plainCarrels : Bytes :=
  leBytes 16 (1 + 4 + 8 * 16 + 1 * 256) ++ leBytes (16 * 1023) 0

/-- Joined mode, standalone, no spare role. -/
def plainPorts : Bytes := [0, 0, 0, 1, 0, 1, 0xFF, 0] ++ leBytes 184 0

/-- The defaults of Table 15-2; equal region shares are written 0 (see `regionShare`). -/
def plainPower : Bytes :=
  leBytes 2 9000 ++ leBytes 2 400 ++ [0, 0, 30, 16, 95] ++ leBytes 3 0 ++ [64, 64, 64, 64] ++ leBytes 16 0
    ++ List.replicate 64 160 ++ leBytes 2 0 ++ leBytes 2 32 ++ leBytes 28 0

/-- The defaults of Table 6-4. -/
def plainVigilance : Bytes :=
  leBytes 2 32 ++ leBytes 2 32 ++ leBytes 4 0x40C00000 ++ leBytes 4 0x3E4CCCCD ++ leBytes 2 64 ++ leBytes 2 1024
    ++ [0] ++ leBytes 47 0

/-- The plain image's body of a section type. -/
def plainBody (t : Nat) : Bytes :=
  match t with
  | 0x1 => plainRegions
  | 0x3 => plainChains
  | 0x6 => leBytes 16 0
  | 0x9 => plainCarrels
  | 0xA => plainPorts
  | 0xC => plainPower
  | 0xE => plainVigilance
  | _ => []

/-- The built-in plain image. -/
def plainImage : Image :=
  { plain := true, serial := 0, headerDigest := leBytes 32 0, buildId := leBytes 16 0, bodies := [] }

/-- Does the image carry the section itself? -/
def Image.has (img : Image) (t : Nat) : Bool := img.bodies.any fun p => p.1 == t

/-- The body of a section type, an absent one taken from the plain image (R22). -/
def Image.body (img : Image) (t : Nat) : Bytes :=
  match img.bodies.find? fun p => p.1 == t with
  | some p => p.2
  | none => plainBody t

/-- A body as entries of a fixed size. -/
def entries (size : Nat) (b : Bytes) : List Bytes := chunks size (b.length / size) b

/-! ### Typed entries -/

/-- Table 2-3. -/
structure Region where
  id : Nat
  paired : Bool
  layers : Nat
  weights : Nat
  mask : Nat
  raw : Bytes
  deriving DecidableEq, Repr

def parseRegion (e : Bytes) : Region :=
  { id := rd e 0 1, paired := decide (rd e 1 1 % 2 = 1), layers := rd e 2 2, weights := rd e 0x18 8, mask := rd e 0x40 64
    raw := e }

def Image.regions (img : Image) : List Region := (entries 128 (img.body 1)).map parseRegion

def Image.region? (img : Image) (r : Nat) : Option Region := img.regions.find? fun x => x.id == r

/-- Does the region own module shelf s? -/
def Region.owns (r : Region) (s : Nat) : Bool := r.mask.testBit s

/-- The module shelves of a region, ascending. -/
def Region.shelves (r : Region) : List Nat := (List.range 512).filter r.owns

/-- The region that owns a named shelf. -/
def Image.ownerOf (img : Image) (s : Nat) : Option Nat := (img.regions.find? fun r => r.owns s).map (·.id)

/-- A PAIRING entry: shelf and slot of the folio of significance 16 and of the folio of significance 1 (R436). -/
structure Pair where
  hiShelf : Nat
  hiSlot : Nat
  loShelf : Nat
  loSlot : Nat
  rsv : Bool
  deriving DecidableEq, Repr

def parsePair (e : Bytes) : Pair :=
  let a := rd e 0 2
  let b := rd e 2 2
  { hiShelf := nbits a 6 9, hiSlot := nbits a 0 6, loShelf := nbits b 6 9, loSlot := nbits b 0 6
    rsv := a.testBit 15 || b.testBit 15 }

def Image.pairs (img : Image) : List Pair := (entries 4 (img.body 2)).map parsePair

/-- Table 4-1. -/
structure ChainEntry where
  shelf : Nat
  count : Nat
  chainOf : Nat
  used : Nat
  raw : Bytes
  deriving DecidableEq, Repr

def parseChain (e : Bytes) : ChainEntry :=
  { shelf := rd e 0 2, count := rd e 2 1, chainOf := rd e 8 48, used := rd e 0x38 8, raw := e }

def Image.chainEntries (img : Image) : List ChainEntry := (entries 64 (img.body 3)).map parseChain

def Image.chainEntry? (img : Image) (s : Nat) : Option ChainEntry := img.chainEntries.find? fun e => e.shelf == s

def ChainEntry.uses (e : ChainEntry) (k : Nat) : Bool := e.used.testBit k
def ChainEntry.chain (e : ChainEntry) (k : Nat) : Nat := nbits e.chainOf (6 * k) 6

/-- The used slots of a chain, ascending. -/
def ChainEntry.slots (e : ChainEntry) (c : Nat) : List Nat :=
  (List.range 64).filter fun k => e.uses k && e.chain k == c

/-- A BROADCAST_ROUTES entry (R438). -/
structure Route where
  region : Nat
  hall : Nat
  stage : Nat
  words : Bytes
  deriving DecidableEq, Repr

/-- The route entries of a body; `none` where the layout breaks. -/
def parseRoutes : Nat → Bytes → Option (List Route)
  | _, [] => some []
  | 0, _ => none
  | fuel + 1, b =>
    let n := rd b 4 4
    if b.length < 8 + 8 * n then none
    else (parseRoutes fuel (b.drop (8 + 8 * n))).map fun rest =>
      { region := rd b 0 1, hall := rd b 1 1, stage := rd b 2 2, words := slice b 8 (8 * n) } :: rest

def Image.routes? (img : Image) : Option (List Route) := parseRoutes ((img.body 4).length / 8 + 1) (img.body 4)
def Image.routes (img : Image) : List Route := img.routes?.getD []

/-- Table 4-2. -/
structure RedEntry where
  region : Nat
  hall : Nat
  wide : Bool
  flagsRsv : Bool
  stage : Nat
  group : Nat
  leaves : List Nat
  raw : Bytes
  deriving DecidableEq, Repr

/-- Shelf index within the hall, and chain, of a leaf word. -/
def leafShelf (l : Nat) : Nat := nbits l 0 7
def leafChain (l : Nat) : Nat := nbits l 7 6

def parseReds : Nat → Bytes → Option (List RedEntry)
  | _, [] => some []
  | 0, _ => none
  | fuel + 1, b =>
    let n := rd b 3 1
    let size := 8 * ceilDiv (8 + 2 * n) 8
    if n = 0 ∨ b.length < size ∨ zeroAt b (8 + 2 * n) (size - 8 - 2 * n) = false then none
    else (parseReds fuel (b.drop size)).map fun rest =>
      { region := rd b 0 1, hall := rd b 1 1, wide := decide (rd b 2 1 % 2 = 1), flagsRsv := decide (2 ≤ rd b 2 1)
        stage := rd b 4 2, group := rd b 6 2, leaves := (List.range n).map fun i => rd b (8 + 2 * i) 2
        raw := slice b 0 size } :: rest

def Image.reds? (img : Image) : Option (List RedEntry) := parseReds ((img.body 5).length / 8 + 1) (img.body 5)
def Image.reds (img : Image) : List RedEntry := img.reds?.getD []

/-- The reduction entries of a stage. -/
def Image.stageReds (img : Image) (r st : Nat) : List RedEntry :=
  img.reds.filter fun e => e.region == r && e.stage == st

/-- G: the number of distinct output groups of a stage (R440). -/
def Image.groupCount (img : Image) (r st : Nat) : Nat := ((img.stageReds r st).map (·.group)).eraseDups.length

/-- Rows of a chain: 1,024 for each used slot, or for each pair in a paired region (R440). -/
def Image.chainRows (img : Image) (r shelf c : Nat) : Nat :=
  let n := match img.chainEntry? shelf with | some e => (e.slots c).length | none => 0
  match img.region? r with
  | some x => if x.paired then 1024 * (n / 2) else 1024 * n
  | none => 1024 * n

/-- The leaves of an output group hall by hall, in leaf order: hall, module shelf, chain (R440). -/
def Image.groupLeaves (img : Image) (r st q : Nat) : List (Nat × Nat × Nat) :=
  (List.range 4).flatMap fun h =>
    ((img.stageReds r st).filter fun e => e.hall == h && e.group == q).flatMap fun e =>
      e.leaves.map fun l => (h, 128 * h + leafShelf l, leafChain l)

/-- The covered width of a stage, read from one group (R440). -/
def Image.coveredOf (img : Image) (r st q : Nat) : Nat :=
  ((img.groupLeaves r st q).map fun l => img.chainRows r l.2.1 l.2.2).sum
def Image.covered (img : Image) (r st : Nat) : Nat := img.coveredOf r st 0

/-- Table 5-6. -/
structure Placement where
  kind : Nat
  region : Nat
  stage : Nat
  off : Nat
  len : Nat
  load : Nat
  raw : Bytes
  words : Bytes
  deriving DecidableEq, Repr

def Image.placements (img : Image) : List Placement :=
  let b := img.body 6
  (List.range (min (rd b 0 16) (b.length / 16))).map fun i =>
    let e := slice b (16 + 16 * i) 16
    { kind := rd e 0 1, region := rd e 1 1, stage := rd e 2 2, off := rd e 4 4, len := rd e 8 2, load := rd e 10 2
      raw := e, words := slice b (rd e 4 4) (8 * rd e 8 2) }

/-- Table 10-1. -/
structure Attn where
  hkv : Nat
  g : Nat
  d : Nat
  ropeMode : Nat
  ropeDims : Nat
  ropeBase : Nat
  ropeScale : Nat
  smScale : Nat
  window : Nat
  qkvStage : Nat
  outStage : Nat
  kvSlot : Nat
  deriving DecidableEq, Repr

def parseAttn (b : Bytes) : Attn :=
  { hkv := rd b 0 1, g := rd b 1 1, d := rd b 2 2, ropeMode := rd b 4 1, ropeDims := rd b 6 2, ropeBase := rd b 8 4
    ropeScale := rd b 12 4, smScale := rd b 16 4, window := rd b 20 4, qkvStage := rd b 0x18 2, outStage := rd b 0x1A 2
    kvSlot := rd b 0x1C 2 }

/-- Table 4-3. -/
structure Recipe where
  region : Nat
  flags : Nat
  stage : Nat
  width : Nat
  blockLog2 : Nat
  kvFormat : Nat
  staticScale : Nat
  thresh : Nat
  layer : Nat
  inWidth : Nat
  outWidth : Nat
  rsvOk : Bool
  deriving DecidableEq, Repr

def parseRecipe (e : Bytes) : Recipe :=
  { region := rd e 0 1, flags := rd e 1 1, stage := rd e 2 2, width := rd e 4 1, blockLog2 := rd e 5 1
    kvFormat := rd e 6 1, staticScale := rd e 8 4, thresh := rd e 12 4, layer := rd e 0x10 2, inWidth := rd e 0x14 4
    outWidth := rd e 0x18 4, rsvOk := zeroAt e 7 1 && zeroAt e 0x12 2 && zeroAt e 0x1C 4 }

def Recipe.wide (r : Recipe) : Bool := r.flags.testBit 0
def Recipe.dynamic (r : Recipe) : Bool := r.flags.testBit 1
def Recipe.useLow (r : Recipe) : Bool := r.flags.testBit 2

def Image.recipes (img : Image) : List Recipe := (entries 32 (img.body 7)).map parseRecipe
def Image.recipe? (img : Image) (r st : Nat) : Option Recipe :=
  img.recipes.find? fun x => x.region == r && x.stage == st

/-- n of R91: the region's stage count. -/
def Image.stageCount (img : Image) (r : Nat) : Nat :=
  ((img.recipes.filter fun x => x.region == r).map fun x => x.stage + 1).foldl max 0

/-- K and N of a stage under a recipe (R440). -/
def Image.widthIn (img : Image) (x : Recipe) : Nat := if x.inWidth = 0 then img.covered x.region x.stage else x.inWidth
def Image.widthOut (img : Image) (x : Recipe) : Nat :=
  if x.outWidth = 0 then 512 * img.groupCount x.region x.stage else x.outWidth

/-- The output-head stage of a region, its last stage, and the vocabulary size (R277, R440). -/
def Image.vocab (img : Image) (r : Nat) : Nat :=
  match img.recipe? r (img.stageCount r - 1) with | some x => img.widthOut x | none => 0

/-- The outlier capacity of a stage (R119). -/
def Image.outlierCap (img : Image) (r st : Nat) : Nat :=
  match (entries 8 (img.body 8)).find? fun e => rd e 0 1 == r && rd e 2 2 == st with
  | some e => rd e 4 2
  | none => 256

/-- Table 2-4. -/
structure Carrel where
  enable : Bool
  classN : Bool
  privileged : Bool
  priority : Nat
  mask : Nat
  powerShare : Nat
  swapMib : Nat
  maxSessions : Nat
  loanMib : Nat
  rsvOk : Bool
  deriving DecidableEq, Repr

def parseCarrel (e : Bytes) : Carrel :=
  let v := leNat e
  { enable := v.testBit 0, classN := v.testBit 1, privileged := v.testBit 2, priority := nbits v 4 4, mask := nbits v 8 16
    powerShare := nbits v 24 8, swapMib := nbits v 32 32, maxSessions := nbits v 64 16, loanMib := nbits v 80 16
    rsvOk := !v.testBit 3 && decide (nbits v 96 32 = 0) }

/-- Has a carrel with `n` open sessions no room for another (R24)? MAX_SESSIONS 0 sets no limit of its own. -/
def Carrel.full (x : Carrel) (n : Nat) : Bool := decide (x.maxSessions ≠ 0 ∧ x.maxSessions ≤ n)

def Image.carrel (img : Image) (n : Nat) : Carrel := parseCarrel (slice (img.body 9) (16 * n) 16)

/-- Table 14-1 and 14-2. -/
structure Orbit where
  pcieMode : Nat
  role : Nat
  member : Nat
  members : Nat
  stage : Nat
  stages : Nat
  spareFor : Nat
  orbitId : Nat
  chainId : Nat
  entryDigest : Bytes
  entries : List (Nat × Nat × Nat × Nat)
  deriving DecidableEq, Repr

/-- PORT_ROLES read as Tables 14-1 and 14-2: each entry as region, kind, stage, member mask. -/
def Image.orbit (img : Image) : Orbit :=
  let b := img.body 0xA
  { pcieMode := rd b 0 1, role := rd b 1 1, member := rd b 2 1, members := rd b 3 1, stage := rd b 4 1, stages := rd b 5 1
    spareFor := rd b 6 1, orbitId := rd b 8 8, chainId := rd b 0x10 8, entryDigest := shake256 (b.drop 0xC0)
    entries := (entries 8 (b.drop 0xC0)).map fun e => (rd e 0 1, rd e 1 1, rd e 2 2, rd e 4 2) }

/-- The heir the image names (R437); none without the section. -/
def Image.heir (img : Image) : Option Nat := if img.has 0xB then some (rd (img.body 0xB) 0 1) else none

/-- Table 15-2. -/
structure Power where
  capDw : Nat
  ilimDa : Nat
  fixed : Bool
  fixedPoint : Nat
  fixedPeriod : Nat
  slope : Nat
  thermC : Nat
  hallShare : List Nat
  tagSeed : List Nat
  loanGib : Nat
  deriving DecidableEq, Repr

def Image.power (img : Image) : Power :=
  let b := img.body 0xC
  { capDw := rd b 0 2, ilimDa := rd b 2 2, fixed := decide (rd b 4 1 % 2 = 1), fixedPoint := rd b 5 1
    fixedPeriod := rd b 6 1, slope := rd b 7 1, thermC := rd b 8 1
    hallShare := (List.range 4).map fun h => rd b (0xC + h) 1
    tagSeed := (List.range 64).map fun t => rd b (0x20 + t) 1, loanGib := rd b 0x62 2 }

/-- The regions that own a shelf of a hall. -/
def Image.hallRegions (img : Image) (h : Nat) : List Region :=
  img.regions.filter fun r => (List.range 128).any fun i => r.owns (128 * h + i)

/-- A region's share of a hall's grant, in 1/256: the section's byte, or equal shares without the section. -/
def Image.regionShare (img : Image) (h r : Nat) : Nat :=
  if img.has 0xC then rd (img.body 0xC) (0x10 + r) 1 else 256 / max 1 (img.hallRegions h).length

/-- The phase tag of a stage; 0 without an entry (R329). -/
def Image.tagOf (img : Image) (r st : Nat) : Nat :=
  let b := img.body 0xC
  match (entries 4 (slice b 0x80 (4 * rd b 0x60 2))).find? fun e => rd e 0 1 == r && rd e 2 2 == st with
  | some e => rd e 1 1
  | none => 0

/-- Table 7-6. -/
structure Budget where
  enable : Bool
  idleSlots : Nat
  mbps : Nat
  powerDw : Nat
  periodS : Nat
  deriving DecidableEq, Repr

/-- The defaults of Table 7-7, in activity order. -/
def defaultBudgets : List Budget :=
  [ { enable := true, idleSlots := 0, mbps := 1000, powerDw := 20, periodS := 3600 },
    { enable := true, idleSlots := 0, mbps := 4000, powerDw := 150, periodS := 0 },
    { enable := true, idleSlots := 0, mbps := 1000, powerDw := 30, periodS := 10 },
    { enable := true, idleSlots := 1024, mbps := 500, powerDw := 30, periodS := 300 },
    { enable := true, idleSlots := 0, mbps := 4000, powerDw := 150, periodS := 0 },
    { enable := true, idleSlots := 0, mbps := 2000, powerDw := 100, periodS := 86400 },
    { enable := true, idleSlots := 0, mbps := 10, powerDw := 5, periodS := 1 },
    { enable := true, idleSlots := 1024, mbps := 500, powerDw := 50, periodS := 20 } ]

/-- The budget of an activity; without the section the defaults of Table 7-7 (R182). -/
def Image.budget (img : Image) (act : Nat) : Budget :=
  if img.has 0xD then
    let e := slice (img.body 0xD) (16 * act) 16
    { enable := decide (rd e 1 1 % 2 = 1), idleSlots := rd e 2 2, mbps := rd e 4 4, powerDw := rd e 8 2
      periodS := rd e 10 2 }
  else defaultBudgets.getD act { enable := false, idleSlots := 0, mbps := 0, powerDw := 0, periodS := 0 }

/-- Table 6-4. -/
structure Vigil where
  sPeriod : Nat
  sLag : Nat
  sZ : Nat
  nTheta : Nat
  nShort : Nat
  nBase : Nat
  perChain : Bool
  deriving DecidableEq, Repr

def Image.vigil (img : Image) : Vigil :=
  let b := img.body 0xE
  { sPeriod := rd b 0 2, sLag := rd b 2 2, sZ := rd b 4 4, nTheta := rd b 8 4, nShort := rd b 0xC 2, nBase := rd b 0xE 2
    perChain := decide (rd b 0x10 1 % 2 = 1) }

/-- A TRUST_LIST entry or an anchor record: magic, parameter set, key (Table 2-11, R435). -/
structure KeyEntry where
  magic : Bytes
  format : Nat
  keyLen : Nat
  oid : Nat
  key : Bytes
  rsvOk : Bool
  deriving DecidableEq, Repr

def parseKey (e : Bytes) : KeyEntry :=
  { magic := slice e 0 8, format := rd e 8 2, keyLen := rd e 10 2, oid := rd e 12 4, key := slice e 0x20 68
    rsvOk := zeroAt e 0x10 16 && zeroTo e 0x64 e.length }

def Image.trust (img : Image) : List KeyEntry := (entries 128 (img.body 0xF)).map parseKey
def Image.publishers (img : Image) : List KeyEntry := img.trust.filter fun k => k.magic == magicPublisher
def Image.successor (img : Image) : Option KeyEntry := img.trust.find? fun k => k.magic == magicAnchor

/-- KEY_ID and ANCHOR_ID: the digest of the 68-byte key (R28, R435). -/
def keyId (key : Bytes) : Bytes := shake256 key

/-! ### Geometry (R188) -/

/-- The rank of a shelf among a region's shelves. -/
def Region.rank (r : Region) (s : Nat) : Nat := ((List.range s).filter r.owns).length

/-- GEOMETRY of a region under an image. -/
def Image.geometry (img : Image) (r : Region) : Bytes :=
  let chains := r.shelves.flatMap fun s => match img.chainEntry? s with | some e => e.raw.drop 2 | none => []
  let prs := if r.paired then
      (img.pairs.filter fun p => r.owns p.hiShelf).flatMap fun p =>
        leBytes 2 (r.rank p.hiShelf * 64 + p.hiSlot) ++ leBytes 2 (r.rank p.loShelf * 64 + p.loSlot)
    else []
  shake256 (chains ++ slice r.raw 0x18 8 ++ slice r.raw 1 1 ++ prs)

end Sys2Proof.Machine
end

