-- ==== Sys2Proof/Machine/Regs.lean ====
section
/-!
DEFINITION. Sys2Proof/Machine/Regs.lean: the registers of the CV48 (Tables 21-7 to 21-10, R433) with the fields, access
codes, reset values and allowed values of their maps, and a name for every field.

One number addresses every register. PF0 BAR0 offsets stand for themselves; the other functions and the copies that a
selector register selects have ranges of their own (`spaceBase`).
-/
namespace Sys2Proof.Machine

/-- The access codes of Table 0-2. -/
inductive Access where
  | ro | rw | w1c | wo | rc
  deriving DecidableEq, Repr

/-- One field of a register map: its place, its access code, the values its map allows (none given: every value), and
whether its write has a behaviour of its own, under a row of its own. -/
structure FieldDef where
  lo : Nat
  w : Nat
  acc : Access
  ok : List (Nat × Nat)
  own : Bool
  deriving DecidableEq, Repr

/-- One register: offset in its space, reset value, fields; bits of no field are RSV. -/
structure RegDef where
  off : Nat
  reset : Nat
  fields : List FieldDef
  deriving DecidableEq, Repr

/-- A field as an operation names it. -/
structure FieldRef where
  addr : Nat
  lo : Nat
  w : Nat
  deriving DecidableEq, Repr

/-- Where hall h's window starts (Table 21-2). -/
def hallBase (h : Nat) : Nat := 0x400000 + h * 0x100000
/-- Where Tsuyx port n's range starts (Table 21-2). -/
def portBase (n : Nat) : Nat := 0x300000 + n * 0x4000
/-- PF1 BAR0. -/
def pf1Base : Nat := 0x4000000
/-- PF2 BAR0. -/
def pf2Base : Nat := 0x4100000
/-- The registers in the carrel layout of stream c: carrels 0 to 1,023, and 1,024 for PF1 (Table 21-3). -/
def carBase (c : Nat) : Nat := 0x8000000 + c * 0x10000
/-- The copies that MON.SEL selects: die and slot; words 0 SLOT, 1 WINDOW, 2 RESULT (R366). -/
def monBase (die slot : Nat) : Nat := 0x20000000 + (die * 32 + slot) * 4
/-- The event and statistics words of a die (R366). -/
def monDieBase (die : Nat) : Nat := 0x20001000 + die * 2
/-- SCR.FAULT of a module shelf's scribe (R129). -/
def scrFaultBase (shelf : Nat) : Nat := 0x20002000 + shelf
/-- ADP.STATS of a carrel (R228). -/
def adpStatsBase (c : Nat) : Nat := 0x20004000 + c

/-- The registers of space `pf0`, ascending (Tables 21-7 to 21-10), with the fields of their maps. -/
def regsPf0 : List RegDef :=
  [ -- CUR.IDENTITY
    ⟨0x0, 0x4800B0B0B0B0B0B0, [⟨56, 8, .ro, [], false⟩,
      ⟨48, 8, .ro, [], false⟩,
      ⟨40, 8, .ro, [], false⟩,
      ⟨0, 40, .ro, [], false⟩]⟩,
    -- CUR.SERIAL
    ⟨0x8, 0x0, [⟨0, 64, .ro, [], false⟩]⟩,
    -- INT.PORT_CTRL
    ⟨0x800, 0x64, [⟨0, 14, .rw, [(1, 10000)], false⟩]⟩,
    -- INT.PORT_STATUS
    ⟨0x808, 0x0, [⟨16, 16, .ro, [], false⟩,
      ⟨3, 1, .ro, [], false⟩,
      ⟨2, 1, .ro, [], false⟩,
      ⟨1, 1, .ro, [], false⟩,
      ⟨0, 1, .ro, [], false⟩]⟩,
    -- CUR.IMG_CTRL
    ⟨0x1000, 0x0, [⟨16, 16, .wo, [], false⟩,
      ⟨0, 4, .wo, [(1, 6)], false⟩]⟩,
    -- CUR.IMG_STATUS
    ⟨0x1008, 0x0, [⟨48, 16, .ro, [], false⟩,
      ⟨34, 1, .ro, [], false⟩,
      ⟨33, 1, .ro, [], false⟩,
      ⟨32, 1, .ro, [], false⟩,
      ⟨16, 16, .ro, [], false⟩,
      ⟨8, 8, .ro, [], false⟩,
      ⟨0, 4, .ro, [], false⟩]⟩,
    -- CUR.IMG_SRC
    ⟨0x1010, 0x0, [⟨12, 52, .rw, [], false⟩]⟩,
    -- CUR.IMG_LEN
    ⟨0x1018, 0x0, [⟨0, 29, .rw, [], false⟩]⟩,
    -- CUR.IMG_ACTIVE_SERIAL
    ⟨0x1020, 0x0, [⟨0, 64, .ro, [], false⟩]⟩,
    -- CUR.IMG_PENDING_SERIAL
    ⟨0x1028, 0x0, [⟨0, 64, .ro, [], false⟩]⟩,
    -- CUR.IMG_FLOOR
    ⟨0x1030, 0x0, [⟨0, 64, .ro, [], false⟩]⟩,
    -- CUR.IMG_QUIESCE_LIMIT
    ⟨0x1038, 0x186A0, [⟨0, 24, .rw, [(1000, 10000000)], false⟩]⟩,
    -- RST.CTRL
    ⟨0x2000, 0x0, [⟨48, 16, .wo, [(54759, 54759)], false⟩,
      ⟨0, 4, .wo, [(1, 1)], false⟩]⟩,
    -- RST.CAUSE
    ⟨0x2008, 0x0, [⟨32, 32, .ro, [], false⟩,
      ⟨8, 8, .ro, [], false⟩,
      ⟨0, 8, .ro, [], false⟩]⟩,
    -- RST.STATUS
    ⟨0x2010, 0x0, [⟨48, 16, .ro, [], false⟩,
      ⟨8, 4, .ro, [], false⟩,
      ⟨5, 1, .ro, [], false⟩,
      ⟨4, 1, .ro, [], false⟩,
      ⟨0, 4, .ro, [], false⟩]⟩,
    -- RST.TIMES
    ⟨0x2018, 0x0, [⟨32, 32, .ro, [], false⟩,
      ⟨0, 32, .ro, [], false⟩]⟩,
    -- CLK.STATUS
    ⟨0x3000, 0x0, [⟨40, 8, .ro, [], false⟩,
      ⟨36, 4, .ro, [], false⟩,
      ⟨32, 4, .ro, [], false⟩,
      ⟨28, 4, .ro, [], false⟩,
      ⟨16, 8, .ro, [], false⟩,
      ⟨14, 2, .ro, [], false⟩,
      ⟨13, 1, .ro, [], false⟩,
      ⟨12, 1, .ro, [], false⟩,
      ⟨11, 1, .ro, [], false⟩,
      ⟨10, 1, .ro, [], false⟩]⟩,
    -- CLK.AON
    ⟨0x3008, 0x0, [⟨0, 48, .ro, [], false⟩]⟩,
    -- CLK.TICK_PAIR
    ⟨0x3010, 0x0, [⟨32, 32, .ro, [], false⟩,
      ⟨0, 32, .ro, [], false⟩]⟩,
    -- CLK.LOCK_EVENTS
    ⟨0x3018, 0x0, [⟨0, 32, .rc, [], false⟩]⟩,
    -- ORB.STATUS
    ⟨0x9000, 0x0, [⟨48, 16, .ro, [], false⟩,
      ⟨32, 16, .ro, [], false⟩,
      ⟨28, 4, .ro, [], false⟩,
      ⟨24, 4, .ro, [], false⟩,
      ⟨20, 4, .ro, [], false⟩,
      ⟨17, 3, .ro, [], false⟩,
      ⟨16, 1, .ro, [], false⟩,
      ⟨15, 1, .ro, [], false⟩,
      ⟨0, 3, .ro, [], false⟩]⟩,
    -- ORB.COLL_TIMEOUT
    ⟨0x9008, 0x1388, [⟨0, 24, .rw, [(100, 1000000)], false⟩]⟩,
    -- ORB.TIMERS
    ⟨0x9010, 0x1E, [⟨0, 16, .rw, [(10, 1000)], false⟩]⟩,
    -- ORB.CTRL
    ⟨0x9018, 0x1, [⟨1, 1, .wo, [], false⟩,
      ⟨0, 1, .rw, [], false⟩]⟩,
    -- ORB.STATS
    ⟨0x9020, 0x0, [⟨48, 16, .rc, [], false⟩,
      ⟨32, 16, .rc, [], false⟩,
      ⟨16, 16, .rc, [], false⟩,
      ⟨0, 16, .rc, [], false⟩]⟩,
    -- CUR.MBX_STATUS
    ⟨0x100000, 0x0, [⟨32, 32, .ro, [], false⟩,
      ⟨8, 8, .ro, [], false⟩,
      ⟨0, 2, .ro, [], false⟩]⟩,
    -- CUR.TICK
    ⟨0x100008, 0x0, [⟨0, 64, .ro, [], false⟩]⟩,
    -- CUR.FW_STATUS
    ⟨0x100010, 0x0, [⟨48, 16, .ro, [], false⟩,
      ⟨32, 16, .ro, [], false⟩,
      ⟨16, 16, .ro, [], false⟩,
      ⟨5, 1, .ro, [], false⟩,
      ⟨4, 1, .ro, [], false⟩,
      ⟨3, 1, .ro, [], false⟩,
      ⟨2, 1, .ro, [], false⟩,
      ⟨0, 1, .ro, [], false⟩]⟩,
    -- CUR.SIG_STATUS
    ⟨0x100018, 0x0, [⟨32, 21, .ro, [], false⟩,
      ⟨24, 5, .ro, [], false⟩,
      ⟨0, 21, .ro, [], false⟩]⟩,
    -- ANN.LAST_SEQ
    ⟨0x108000, 0x0, [⟨0, 64, .ro, [], false⟩]⟩,
    -- ANN.DURABLE_SEQ
    ⟨0x108008, 0x0, [⟨0, 64, .ro, [], false⟩]⟩,
    -- ANN.CTRL
    ⟨0x108010, 0x3, [⟨9, 1, .wo, [], false⟩,
      ⟨8, 1, .w1c, [], true⟩, ⟨0, 3, .rw, [(0, 4)], false⟩]⟩,
    -- ANN.DROPPED
    ⟨0x108018, 0x0, [⟨0, 64, .rc, [], false⟩]⟩,
    -- CUR.MAINT_CTRL
    ⟨0x109000, 0x0, [⟨48, 16, .wo, [], false⟩,
      ⟨32, 16, .wo, [], false⟩,
      ⟨8, 24, .wo, [(100, 3600000)], false⟩,
      ⟨0, 4, .wo, [(1, 3)], false⟩]⟩,
    -- CUR.MAINT_STATUS
    ⟨0x109008, 0x0, [⟨48, 16, .ro, [], false⟩,
      ⟨32, 16, .ro, [], false⟩,
      ⟨24, 8, .ro, [], false⟩,
      ⟨8, 16, .ro, [], false⟩,
      ⟨0, 3, .ro, [], false⟩]⟩,
    -- CUR.PROOF_STATUS
    ⟨0x109010, 0x0, [⟨32, 32, .ro, [], false⟩,
      ⟨28, 4, .ro, [], false⟩,
      ⟨26, 2, .ro, [], false⟩,
      ⟨24, 2, .ro, [], false⟩,
      ⟨17, 7, .ro, [], false⟩,
      ⟨8, 9, .ro, [], false⟩]⟩,
    -- CUR.PROOF_STATS
    ⟨0x109018, 0x0, [⟨32, 32, .rc, [], false⟩,
      ⟨16, 16, .rc, [], false⟩,
      ⟨0, 16, .rc, [], false⟩]⟩,
    -- CUR.FSR_RING
    ⟨0x109020, 0x400, [⟨12, 52, .rw, [], false⟩,
      ⟨8, 4, .rw, [(4, 12)], false⟩,
      ⟨0, 1, .rw, [], true⟩]⟩,
    -- CUR.FSR_INDEX
    ⟨0x109028, 0x0, [⟨32, 32, .ro, [], false⟩,
      ⟨0, 32, .rw, [], false⟩]⟩,
    -- CUR.TAINT_BASE
    ⟨0x109030, 0x0, [⟨12, 52, .rw, [], false⟩,
      ⟨0, 12, .rw, [], false⟩]⟩,
    -- PWR.CTRL
    ⟨0x200000, 0x5F0100101E00, [⟨40, 8, .rw, [(70, 100)], false⟩,
      ⟨24, 9, .rw, [(16, 256)], false⟩,
      ⟨16, 5, .rw, [(1, 16)], false⟩,
      ⟨8, 6, .rw, [(24, 48)], false⟩,
      ⟨4, 3, .rw, [], false⟩,
      ⟨0, 1, .rw, [], false⟩]⟩,
    -- PWR.CAP
    ⟨0x200008, 0x1902328, [⟨16, 9, .rw, [(100, 400)], true⟩, ⟨0, 14, .rw, [(3000, 14000)], true⟩]⟩,
    -- PWR.STATUS
    ⟨0x200010, 0x0, [⟨48, 16, .ro, [], false⟩,
      ⟨47, 1, .ro, [], false⟩,
      ⟨40, 7, .ro, [], false⟩,
      ⟨25, 15, .ro, [], false⟩,
      ⟨16, 9, .ro, [], false⟩,
      ⟨0, 16, .ro, [], false⟩]⟩,
    -- PWR.HALL_STATUS_0
    ⟨0x200020, 0x100,
      [⟨0, 9, .ro, [], false⟩, ⟨16, 9, .ro, [], false⟩, ⟨25, 3, .ro, [], false⟩, ⟨32, 7, .ro, [], false⟩, ⟨40, 8, .ro, [], false⟩]⟩,
    -- PWR.HALL_STATUS_1
    ⟨0x200028, 0x100,
      [⟨0, 9, .ro, [], false⟩, ⟨16, 9, .ro, [], false⟩, ⟨25, 3, .ro, [], false⟩, ⟨32, 7, .ro, [], false⟩, ⟨40, 8, .ro, [], false⟩]⟩,
    -- PWR.HALL_STATUS_2
    ⟨0x200030, 0x100,
      [⟨0, 9, .ro, [], false⟩, ⟨16, 9, .ro, [], false⟩, ⟨25, 3, .ro, [], false⟩, ⟨32, 7, .ro, [], false⟩, ⟨40, 8, .ro, [], false⟩]⟩,
    -- PWR.HALL_STATUS_3
    ⟨0x200038, 0x100,
      [⟨0, 9, .ro, [], false⟩, ⟨16, 9, .ro, [], false⟩, ⟨25, 3, .ro, [], false⟩, ⟨32, 7, .ro, [], false⟩, ⟨40, 8, .ro, [], false⟩]⟩,
    -- PWR.THR_US_1
    ⟨0x200040, 0x0, [⟨0, 64, .ro, [], false⟩]⟩,
    -- PWR.THR_US_2
    ⟨0x200048, 0x0, [⟨0, 64, .ro, [], false⟩]⟩,
    -- PWR.THR_US_3
    ⟨0x200050, 0x0, [⟨0, 64, .ro, [], false⟩]⟩,
    -- PWR.THR_US_4
    ⟨0x200058, 0x0, [⟨0, 64, .ro, [], false⟩]⟩,
    -- PWR.THR_US_5
    ⟨0x200060, 0x0, [⟨0, 64, .ro, [], false⟩]⟩,
    -- PWR.THR_US_6
    ⟨0x200068, 0x0, [⟨0, 64, .ro, [], false⟩]⟩,
    -- PWR.THR_US_7
    ⟨0x200070, 0x0, [⟨0, 64, .ro, [], false⟩]⟩,
    -- PWR.DROOP
    ⟨0x200078, 0x28, [⟨0, 7, .rw, [(20, 80)], false⟩]⟩,
    -- PWR.STATS
    ⟨0x200080, 0x0, [⟨32, 32, .rc, [], false⟩,
      ⟨16, 16, .rc, [], false⟩,
      ⟨0, 16, .rc, [], false⟩]⟩,
    -- PWR.VT_SEL
    ⟨0x200088, 0x0, [⟨8, 3, .rw, [], false⟩,
      ⟨0, 3, .rw, [(0, 4)], false⟩]⟩,
    -- PWR.VT_DATA
    ⟨0x200090, 0x0, [⟨56, 8, .ro, [], false⟩,
      ⟨24, 32, .ro, [], false⟩,
      ⟨23, 1, .ro, [], false⟩,
      ⟨22, 1, .ro, [], false⟩,
      ⟨12, 10, .ro, [], false⟩,
      ⟨0, 10, .ro, [], false⟩]⟩,
    -- PST.CTRL
    ⟨0x200100, 0x3E800001400, [⟨32, 16, .rw, [(100, 20000)], false⟩,
      ⟨16, 16, .rw, [], false⟩,
      ⟨8, 8, .rw, [(1, 255)], false⟩,
      ⟨0, 3, .wo, [(0, 3)], false⟩]⟩,
    -- PST.STATUS
    ⟨0x200108, 0x0, [⟨24, 8, .ro, [], false⟩,
      ⟨16, 4, .ro, [], false⟩,
      ⟨8, 4, .ro, [], false⟩,
      ⟨0, 3, .ro, [], false⟩]⟩,
    -- PST.SB_CTRL
    ⟨0x200110, 0x15A, [⟨8, 1, .rw, [], false⟩,
      ⟨0, 7, .rw, [(8, 119)], false⟩]⟩,
    -- PST.STATS
    ⟨0x200118, 0x0, [⟨48, 16, .rc, [], false⟩,
      ⟨32, 16, .rc, [], false⟩,
      ⟨0, 32, .rc, [], false⟩]⟩,
    -- MON.SEL
    ⟨0x201000, 0x0, [⟨8, 3, .rw, [(0, 4)], false⟩,
      ⟨0, 5, .rw, [(0, 16)], false⟩]⟩,
    -- MON.SLOT
    ⟨0x201008, 0x0, [⟨48, 16, .rw, [(1, 65535)], false⟩,
      ⟨40, 5, .rw, [(0, 15)], false⟩,
      ⟨36, 4, .rw, [(1, 8)], false⟩,
      ⟨32, 4, .rw, [(0, 4)], false⟩,
      ⟨24, 8, .rw, [(1, 255)], false⟩,
      ⟨16, 8, .rw, [], false⟩,
      ⟨12, 2, .rw, [(1, 2)], false⟩,
      ⟨8, 4, .rw, [(6, 12)], false⟩,
      ⟨4, 4, .rw, [], false⟩,
      ⟨2, 1, .rw, [], false⟩,
      ⟨1, 1, .rw, [], false⟩,
      ⟨0, 1, .rw, [], false⟩]⟩,
    -- MON.WINDOW
    ⟨0x201010, 0x0, [⟨32, 24, .rw, [], false⟩,
      ⟨0, 24, .rw, [], false⟩]⟩,
    -- MON.RESULT
    ⟨0x201018, 0x0, [⟨32, 32, .ro, [], false⟩,
      ⟨8, 24, .ro, [], false⟩,
      ⟨7, 1, .ro, [], false⟩,
      ⟨6, 1, .ro, [], false⟩,
      ⟨0, 6, .ro, [], false⟩]⟩,
    -- MON.EVENTS
    ⟨0x201020, 0x0, [⟨17, 1, .ro, [], false⟩,
      ⟨0, 16, .w1c, [], false⟩]⟩,
    -- MON.STATS
    ⟨0x201028, 0x0, [⟨32, 32, .rc, [], false⟩,
      ⟨0, 32, .rc, [], false⟩]⟩ ]

/-- The registers of space `hall`, ascending (Tables 21-7 to 21-10), with the fields of their maps. -/
def regsHall : List RegDef :=
  [ -- SHF.FOLIO_SEL
    ⟨0x2000, 0x0, [⟨8, 7, .rw, [(0, 67)], false⟩,
      ⟨0, 7, .rw, [], false⟩]⟩,
    -- SHF.FOLIO_STATUS
    ⟨0x2008, 0x7F0, [⟨50, 14, .ro, [], false⟩,
      ⟨36, 14, .ro, [], false⟩,
      ⟨32, 4, .ro, [], false⟩,
      ⟨30, 2, .ro, [], false⟩,
      ⟨12, 4, .ro, [], false⟩,
      ⟨4, 7, .ro, [], false⟩,
      ⟨3, 1, .ro, [], false⟩,
      ⟨0, 3, .ro, [], false⟩]⟩,
    -- SHF.STRIKE_CTRL
    ⟨0x2010, 0x1E1E, [⟨8, 6, .ro, [], false⟩,
      ⟨0, 6, .rw, [(24, 48)], false⟩]⟩,
    -- SHF.SAT_COUNT
    ⟨0x2018, 0x0, [⟨0, 48, .rc, [], false⟩]⟩,
    -- SCR.SEL
    ⟨0x3000, 0x0, [⟨0, 7, .rw, [], false⟩]⟩,
    -- SCR.STATUS
    ⟨0x3008, 0x0, [⟨32, 17, .ro, [], false⟩,
      ⟨8, 4, .ro, [], false⟩,
      ⟨0, 3, .ro, [], false⟩]⟩,
    -- SCR.FAULT
    ⟨0x3010, 0x0, [⟨32, 17, .ro, [], false⟩,
      ⟨8, 1, .w1c, [], false⟩,
      ⟨4, 4, .ro, [], false⟩,
      ⟨0, 4, .ro, [], false⟩]⟩,
    -- SCR.OUTLIER_STATS
    ⟨0x3018, 0x0, [⟨32, 32, .rc, [], false⟩,
      ⟨0, 32, .rc, [], false⟩]⟩,
    -- SCR.INT_SAT
    ⟨0x3020, 0x0, [⟨0, 48, .rc, [], false⟩]⟩,
    -- SCR.RUN_LIMIT
    ⟨0x3028, 0x2710, [⟨0, 24, .rw, [(10, 10000000)], false⟩]⟩,
    -- SCR.BLOCK_STATS
    ⟨0x3030, 0x0, [⟨40, 24, .rc, [], false⟩,
      ⟨16, 24, .rc, [], false⟩,
      ⟨0, 16, .rc, [], false⟩]⟩,
    -- SCR.VIG_STATUS
    ⟨0x3038, 0x0, [⟨48, 16, .ro, [], false⟩,
      ⟨44, 4, .ro, [], false⟩,
      ⟨37, 7, .ro, [], false⟩,
      ⟨31, 6, .ro, [], false⟩,
      ⟨28, 3, .ro, [], false⟩,
      ⟨16, 12, .ro, [], false⟩,
      ⟨2, 1, .w1c, [], true⟩, ⟨1, 1, .w1c, [], true⟩, ⟨0, 1, .w1c, [], true⟩]⟩,
    -- SCR.VIG_COUNTS
    ⟨0x3040, 0x0, [⟨32, 32, .rc, [], false⟩,
      ⟨16, 16, .rc, [], false⟩,
      ⟨0, 16, .rc, [], false⟩]⟩,
    -- COL.CTRL
    ⟨0x4000, 0x1000080F, [⟨16, 16, .rw, [(256, 65535)], false⟩,
      ⟨8, 8, .rw, [(1, 40)], false⟩,
      ⟨3, 1, .rw, [], false⟩,
      ⟨2, 1, .rw, [], false⟩,
      ⟨1, 1, .rw, [], false⟩,
      ⟨0, 1, .rw, [], false⟩]⟩,
    -- COL.REQUEST
    ⟨0x4008, 0x0, [⟨16, 16, .wo, [], false⟩,
      ⟨0, 4, .wo, [(1, 4)], false⟩]⟩,
    -- COL.STATUS
    ⟨0x4010, 0x0, [⟨48, 16, .ro, [], false⟩,
      ⟨40, 8, .ro, [], false⟩,
      ⟨24, 14, .ro, [], false⟩,
      ⟨8, 16, .ro, [], false⟩,
      ⟨5, 1, .ro, [], false⟩,
      ⟨4, 1, .ro, [], false⟩,
      ⟨3, 1, .ro, [], false⟩,
      ⟨2, 1, .ro, [], false⟩,
      ⟨1, 1, .ro, [], false⟩,
      ⟨0, 1, .ro, [], false⟩]⟩,
    -- COL.DRIFT
    ⟨0x4018, 0x0, [⟨16, 32, .ro, [], false⟩,
      ⟨0, 16, .ro, [], false⟩]⟩,
    -- COL.REFRESH_TH
    ⟨0x4020, 0x398, [⟨0, 16, .rw, [(300, 1500)], false⟩]⟩,
    -- COL.EVENTS
    ⟨0x4028, 0x0, [⟨48, 16, .rc, [], false⟩,
      ⟨32, 16, .rc, [], false⟩,
      ⟨0, 32, .rc, [], false⟩]⟩,
    -- KVC.CTRL
    ⟨0x5000, 0x800, [⟨0, 32, .rw, [(0, 65536)], false⟩]⟩,
    -- KVC.USAGE
    ⟨0x5008, 0x0, [⟨32, 32, .ro, [], false⟩,
      ⟨0, 19, .ro, [], false⟩]⟩,
    -- KVC.EPOCH
    ⟨0x5010, 0x0, [⟨0, 48, .ro, [], false⟩]⟩,
    -- KVC.STATS
    ⟨0x5018, 0x0, [⟨48, 16, .rc, [], false⟩,
      ⟨32, 16, .rc, [], false⟩,
      ⟨16, 16, .rc, [], false⟩,
      ⟨0, 16, .rc, [], false⟩]⟩,
    -- KVC.ENTRY_SEL
    ⟨0x5020, 0x0, [⟨0, 18, .rw, [], false⟩]⟩,
    -- KVC.ENTRY_0
    ⟨0x5028, 0x0, [⟨0, 64, .ro, [], false⟩]⟩,
    -- KVC.ENTRY_1
    ⟨0x5030, 0x0, [⟨0, 64, .ro, [], false⟩]⟩,
    -- KVC.ENTRY_2
    ⟨0x5038, 0x0, [⟨0, 64, .ro, [], false⟩]⟩,
    -- KVC.ENTRY_3
    ⟨0x5040, 0x0, [⟨0, 64, .ro, [], false⟩]⟩ ]

/-- The registers of space `port`, ascending (Tables 21-7 to 21-10), with the fields of their maps. -/
def regsPort : List RegDef :=
  [ -- TSX.CTRL
    ⟨0x0, 0x0, [⟨4, 1, .rw, [], false⟩,
      ⟨3, 1, .rw, [], false⟩,
      ⟨2, 1, .rw, [], false⟩,
      ⟨1, 1, .wo, [], false⟩,
      ⟨0, 1, .rw, [], false⟩]⟩,
    -- TSX.STATUS
    ⟨0x8, 0x0, [⟨32, 32, .ro, [], false⟩,
      ⟨16, 4, .ro, [], false⟩,
      ⟨12, 4, .ro, [], false⟩,
      ⟨8, 4, .ro, [], false⟩,
      ⟨3, 1, .ro, [], false⟩,
      ⟨0, 3, .ro, [], false⟩]⟩,
    -- TSX.PARTNER
    ⟨0x10, 0x0, [⟨46, 1, .ro, [], false⟩,
      ⟨43, 3, .ro, [], false⟩,
      ⟨39, 4, .ro, [], false⟩,
      ⟨37, 2, .ro, [], false⟩,
      ⟨32, 5, .ro, [], false⟩,
      ⟨0, 32, .ro, [], false⟩]⟩,
    -- TSX.TIMERS
    ⟨0x18, 0x8000103E8, [⟨32, 16, .rw, [(4, 1000)], false⟩,
      ⟨16, 16, .rw, [(1, 100)], false⟩,
      ⟨0, 16, .rw, [(200, 10000)], false⟩]⟩,
    -- TSX.ERRORS
    ⟨0x20, 0x0, [⟨40, 24, .rc, [], false⟩,
      ⟨24, 16, .rc, [], false⟩,
      ⟨8, 16, .rc, [], false⟩,
      ⟨0, 8, .rc, [], false⟩]⟩,
    -- TSX.REPLAY
    ⟨0x28, 0x0, [⟨32, 32, .rc, [], false⟩,
      ⟨16, 16, .rc, [], false⟩,
      ⟨0, 16, .rc, [], false⟩]⟩,
    -- TSX.SNAP_CTRL
    ⟨0x30, 0x3E8, [⟨16, 1, .wo, [], false⟩,
      ⟨0, 16, .rw, [(0, 60000)], false⟩]⟩,
    -- TSX.SNAP
    ⟨0x38, 0x0, [⟨48, 16, .ro, [], false⟩,
      ⟨40, 8, .ro, [], false⟩,
      ⟨0, 40, .ro, [], false⟩]⟩,
    -- TSX.INJ_CTRL
    ⟨0x40, 0x0, [⟨40, 24, .rw, [], false⟩,
      ⟨32, 8, .rw, [(1, 255)], false⟩,
      ⟨16, 16, .rw, [(1, 65535)], false⟩,
      ⟨6, 4, .rw, [], false⟩,
      ⟨4, 2, .rw, [(0, 2)], false⟩,
      ⟨1, 3, .rw, [(0, 3)], false⟩,
      ⟨0, 1, .rw, [], false⟩]⟩,
    -- TSX.INJ_COUNT
    ⟨0x48, 0x0, [⟨0, 32, .rc, [], false⟩]⟩ ]

/-- The registers of space `pf1`, ascending (Tables 21-7 to 21-10), with the fields of their maps. -/
def regsPf1 : List RegDef :=
  [ -- ACC.CTRL
    ⟨0x6000, 0x1900040, [⟨32, 1, .rw, [], false⟩,
      ⟨16, 16, .rw, [(50, 1000)], false⟩,
      ⟨0, 8, .rw, [(1, 128)], false⟩]⟩,
    -- ACC.SHARD_TIMEOUT
    ⟨0x6008, 0xF4240, [⟨0, 30, .rw, [(1000, 600000000)], false⟩]⟩,
    -- ACC.SEL
    ⟨0x6010, 0x0, [⟨0, 4, .rw, [], false⟩]⟩,
    -- ACC.STATUS
    ⟨0x6018, 0x0, [⟨32, 32, .ro, [], false⟩,
      ⟨24, 8, .ro, [], false⟩,
      ⟨11, 1, .ro, [], false⟩,
      ⟨10, 1, .ro, [], false⟩,
      ⟨9, 1, .ro, [], false⟩,
      ⟨8, 1, .ro, [], false⟩,
      ⟨0, 3, .ro, [], false⟩]⟩,
    -- ACC.PROGRESS
    ⟨0x6020, 0x0, [⟨48, 16, .ro, [], false⟩,
      ⟨32, 16, .ro, [], false⟩,
      ⟨16, 16, .ro, [], false⟩,
      ⟨0, 16, .ro, [], false⟩]⟩,
    -- ACC.HOUSE
    ⟨0x6028, 0x0, [⟨32, 9, .ro, [], false⟩,
      ⟨0, 9, .rw, [], false⟩]⟩,
    -- ADP.LATE_LIMIT
    ⟨0x7000, 0xC8, [⟨0, 24, .rw, [(10, 10000)], false⟩]⟩,
    -- ADP.SEL
    ⟨0x7008, 0x0, [⟨0, 10, .rw, [], false⟩]⟩,
    -- ADP.LOAN
    ⟨0x7010, 0x0, [⟨32, 24, .ro, [], false⟩,
      ⟨0, 16, .ro, [], false⟩]⟩,
    -- ADP.STATS
    ⟨0x7018, 0x0, [⟨48, 16, .rc, [], false⟩,
      ⟨32, 16, .rc, [], false⟩,
      ⟨0, 32, .rc, [], false⟩]⟩ ]

/-- The registers of space `car`, ascending (Tables 21-7 to 21-10), with the fields of their maps. -/
def regsCar : List RegDef :=
  [ -- CAR.RING_BASE
    ⟨0x0, 0x0, [⟨12, 52, .rw, [], false⟩]⟩,
    -- CAR.RING_CTRL
    ⟨0x8, 0x600, [⟨8, 5, .rw, [(6, 16)], false⟩,
      ⟨0, 1, .rw, [], true⟩]⟩,
    -- CAR.IRQ_MOD
    ⟨0x10, 0xA0001, [⟨16, 24, .rw, [(1, 1000000)], false⟩,
      ⟨0, 16, .rw, [(1, 4096)], false⟩]⟩,
    -- CAR.SWAP_BASE
    ⟨0x18, 0x0, [⟨12, 52, .rw, [], false⟩,
      ⟨1, 1, .rw, [], false⟩,
      ⟨0, 1, .rw, [], false⟩]⟩,
    -- CAR.STATUS
    ⟨0x20, 0x0, [⟨48, 16, .ro, [], false⟩,
      ⟨32, 16, .ro, [], false⟩,
      ⟨16, 16, .ro, [], false⟩,
      ⟨4, 4, .ro, [], false⟩,
      ⟨2, 1, .ro, [], false⟩,
      ⟨1, 1, .ro, [], false⟩,
      ⟨0, 1, .ro, [], false⟩]⟩,
    -- CAR.PASS
    ⟨0x28, 0x0, [⟨48, 16, .ro, [], false⟩,
      ⟨0, 48, .ro, [], false⟩]⟩,
    -- INT.STALL_LIMIT
    ⟨0x100, 0xC350, [⟨0, 24, .rw, [(1, 10000000)], false⟩]⟩,
    -- INT.STATUS
    ⟨0x108, 0x0, [⟨32, 32, .ro, [], false⟩,
      ⟨27, 4, .ro, [], false⟩,
      ⟨24, 3, .ro, [], false⟩,
      ⟨0, 20, .ro, [], false⟩]⟩,
    -- INT.RESYNC
    ⟨0x110, 0x0, [⟨32, 32, .wo, [], false⟩,
      ⟨0, 20, .wo, [], false⟩]⟩ ]

/-- The registers of space `pf2`, ascending (Tables 21-7 to 21-10), with the fields of their maps. -/
def regsPf2 : List RegDef :=
  [ -- INT.BULK_STATUS
    ⟨0x0, 0x0, [⟨1, 15, .ro, [], false⟩,
      ⟨0, 1, .ro, [], false⟩]⟩ ]

/-- The entry of a table at an offset. -/
def findReg (t : List RegDef) (off : Nat) : Option RegDef := t.find? fun r => r.off == off

/-- The register at a global address, if one stands there. -/
def regAt (a : Nat) : Option RegDef :=
  if 0x300000 ≤ a ∧ a < 0x360000 then findReg regsPort ((a - 0x300000) % 0x4000)
  else if 0x400000 ≤ a ∧ a < 0x800000 then findReg regsHall (a % 0x100000)
  else if a < pf1Base then findReg regsPf0 a
  else if a < pf2Base then findReg regsPf1 (a - pf1Base)
  else if a < 0x8000000 then findReg regsPf2 (a - pf2Base)
  else if a < carBase 1025 then
    (if a = carBase 1024 + 0x18 then none else findReg regsCar (a % 0x10000))
  else none

/-- MON.SLOT of a protection slot as Driviwick configures it (Table 17-4): PERIOD, OSR_LOG2, INPUT, window and enable.
The window bounds are codes that depend on the test record; see log entry 40. -/
def protSlot (die slot : Nat) : Nat :=
  let mk := fun (period osr input : Nat) => period * 2 ^ 48 + 2 ^ 12 + osr * 2 ^ 8 + input * 2 ^ 4 + 5
  if die < 4 then
    (if slot < 6 then mk 100 8 slot else if slot = 6 then mk 10 6 6 else mk 10000 10 15)
  else if slot < 4 then mk 100 8 slot
  else match slot with
    | 4 => mk 5 6 4
    | 5 => mk 1000 8 6
    | 6 => mk 10000 8 10
    | _ => mk 10000 10 15

/-- What a register reads as after reset when nothing has changed it (Tables 21-7 to 21-10). -/
def regReset (a : Nat) : W64 :=
  match regAt a with
  | some r => BitVec.ofNat 64 r.reset
  | none =>
    if monBase 0 0 ≤ a ∧ a < monBase 5 0 ∧ (a - monBase 0 0) % 4 = 0 ∧ (a - monBase 0 0) / 4 % 32 < 8 then
      BitVec.ofNat 64 (protSlot ((a - monBase 0 0) / 128) ((a - monBase 0 0) / 4 % 32))
    else 0

/-! ### The fields by name -/
namespace Reg

def CUR_IDENTITY.PART : FieldRef := ⟨0x0, 56, 8⟩
def CUR_IDENTITY.GRADE : FieldRef := ⟨0x0, 48, 8⟩
def CUR_IDENTITY.REVISION : FieldRef := ⟨0x0, 40, 8⟩
def CUR_IDENTITY.DIE_REV : FieldRef := ⟨0x0, 0, 40⟩
def CUR_SERIAL.SERIAL : FieldRef := ⟨0x8, 0, 64⟩
def INT_PORT_CTRL.TAKEOVER_MS : FieldRef := ⟨0x800, 0, 14⟩
def INT_PORT_STATUS.TAKEOVERS : FieldRef := ⟨0x808, 16, 16⟩
def INT_PORT_STATUS.LINK_B : FieldRef := ⟨0x808, 3, 1⟩
def INT_PORT_STATUS.LINK_A : FieldRef := ⟨0x808, 2, 1⟩
def INT_PORT_STATUS.ACTIVE : FieldRef := ⟨0x808, 1, 1⟩
def INT_PORT_STATUS.MODE : FieldRef := ⟨0x808, 0, 1⟩
def CUR_IMG_CTRL.TAG : FieldRef := ⟨0x1000, 16, 16⟩
def CUR_IMG_CTRL.CMD : FieldRef := ⟨0x1000, 0, 4⟩
def CUR_IMG_STATUS.FAIL_SECTION : FieldRef := ⟨0x1008, 48, 16⟩
def CUR_IMG_STATUS.ANCHOR : FieldRef := ⟨0x1008, 34, 1⟩
def CUR_IMG_STATUS.PLAIN : FieldRef := ⟨0x1008, 33, 1⟩
def CUR_IMG_STATUS.PENDING_VALID : FieldRef := ⟨0x1008, 32, 1⟩
def CUR_IMG_STATUS.TAG : FieldRef := ⟨0x1008, 16, 16⟩
def CUR_IMG_STATUS.LAST_RESULT : FieldRef := ⟨0x1008, 8, 8⟩
def CUR_IMG_STATUS.STATE : FieldRef := ⟨0x1008, 0, 4⟩
def CUR_IMG_SRC.ADDR : FieldRef := ⟨0x1010, 12, 52⟩
def CUR_IMG_LEN.LEN : FieldRef := ⟨0x1018, 0, 29⟩
def CUR_IMG_ACTIVE_SERIAL.SERIAL : FieldRef := ⟨0x1020, 0, 64⟩
def CUR_IMG_PENDING_SERIAL.SERIAL : FieldRef := ⟨0x1028, 0, 64⟩
def CUR_IMG_FLOOR.FLOOR : FieldRef := ⟨0x1030, 0, 64⟩
def CUR_IMG_QUIESCE_LIMIT.LIMIT_US : FieldRef := ⟨0x1038, 0, 24⟩
def RST_CTRL.KEY : FieldRef := ⟨0x2000, 48, 16⟩
def RST_CTRL.CMD : FieldRef := ⟨0x2000, 0, 4⟩
def RST_CAUSE.CURATOR_RESTARTS : FieldRef := ⟨0x2008, 32, 32⟩
def RST_CAUSE.PREV_CAUSE : FieldRef := ⟨0x2008, 8, 8⟩
def RST_CAUSE.CAUSE : FieldRef := ⟨0x2008, 0, 8⟩
def RST_STATUS.REGION_READY : FieldRef := ⟨0x2010, 48, 16⟩
def RST_STATUS.HALL_UP : FieldRef := ⟨0x2010, 8, 4⟩
def RST_STATUS.READY : FieldRef := ⟨0x2010, 5, 1⟩
def RST_STATUS.INTAKE : FieldRef := ⟨0x2010, 4, 1⟩
def RST_STATUS.STEP : FieldRef := ⟨0x2010, 0, 4⟩
def RST_TIMES.COLLATION_MS : FieldRef := ⟨0x2018, 32, 32⟩
def RST_TIMES.READY_MS : FieldRef := ⟨0x2018, 0, 32⟩
def CLK_STATUS.HBM_LOCK : FieldRef := ⟨0x3000, 40, 8⟩
def CLK_STATUS.STRIKE_LOCK : FieldRef := ⟨0x3000, 36, 4⟩
def CLK_STATUS.SCRIBE_LOCK : FieldRef := ⟨0x3000, 32, 4⟩
def CLK_STATUS.FABRIC_LOCK : FieldRef := ⟨0x3000, 28, 4⟩
def CLK_STATUS.UCIE_LOCK : FieldRef := ⟨0x3000, 16, 8⟩
def CLK_STATUS.PCIE_LOCK : FieldRef := ⟨0x3000, 14, 2⟩
def CLK_STATUS.CURATOR_LOCK : FieldRef := ⟨0x3000, 13, 1⟩
def CLK_STATUS.MON_LOCK : FieldRef := ⟨0x3000, 12, 1⟩
def CLK_STATUS.OSC_OK : FieldRef := ⟨0x3000, 11, 1⟩
def CLK_STATUS.AON_OK : FieldRef := ⟨0x3000, 10, 1⟩
def CLK_AON.COUNT : FieldRef := ⟨0x3008, 0, 48⟩
def CLK_TICK_PAIR.AON : FieldRef := ⟨0x3010, 32, 32⟩
def CLK_TICK_PAIR.TICK : FieldRef := ⟨0x3010, 0, 32⟩
def CLK_LOCK_EVENTS.COUNT : FieldRef := ⟨0x3018, 0, 32⟩
def ORB_STATUS.LIVE_MASK : FieldRef := ⟨0x9000, 48, 16⟩
def ORB_STATUS.ADMITTED_MASK : FieldRef := ⟨0x9000, 32, 16⟩
def ORB_STATUS.PRIMARY : FieldRef := ⟨0x9000, 28, 4⟩
def ORB_STATUS.HEIR : FieldRef := ⟨0x9000, 24, 4⟩
def ORB_STATUS.MEMBER : FieldRef := ⟨0x9000, 20, 4⟩
def ORB_STATUS.STAGE : FieldRef := ⟨0x9000, 17, 3⟩
def ORB_STATUS.HEIR_MISMATCH : FieldRef := ⟨0x9000, 16, 1⟩
def ORB_STATUS.HEIR_VALID : FieldRef := ⟨0x9000, 15, 1⟩
def ORB_STATUS.STATE : FieldRef := ⟨0x9000, 0, 3⟩
def ORB_COLL_TIMEOUT.LIMIT_US : FieldRef := ⟨0x9008, 0, 24⟩
def ORB_TIMERS.CONFIRM_US : FieldRef := ⟨0x9010, 0, 16⟩
def ORB_CTRL.LEAVE : FieldRef := ⟨0x9018, 1, 1⟩
def ORB_CTRL.JOIN : FieldRef := ⟨0x9018, 0, 1⟩
def ORB_STATS.TIMEOUTS : FieldRef := ⟨0x9020, 48, 16⟩
def ORB_STATS.REMOVALS : FieldRef := ⟨0x9020, 32, 16⟩
def ORB_STATS.PACE : FieldRef := ⟨0x9020, 16, 16⟩
def ORB_STATS.LIMITS : FieldRef := ⟨0x9020, 0, 16⟩
def CUR_MBX_STATUS.EXPECTED_SEQ : FieldRef := ⟨0x100000, 32, 32⟩
def CUR_MBX_STATUS.LAST_STATUS : FieldRef := ⟨0x100000, 8, 8⟩
def CUR_MBX_STATUS.STATE : FieldRef := ⟨0x100000, 0, 2⟩
def CUR_TICK.TICK : FieldRef := ⟨0x100008, 0, 64⟩
def CUR_FW_STATUS.BOOTS : FieldRef := ⟨0x100010, 48, 16⟩
def CUR_FW_STATUS.FLOOR : FieldRef := ⟨0x100010, 32, 16⟩
def CUR_FW_STATUS.SVN : FieldRef := ⟨0x100010, 16, 16⟩
def CUR_FW_STATUS.RECOVERY : FieldRef := ⟨0x100010, 5, 1⟩
def CUR_FW_STATUS.TRIAL : FieldRef := ⟨0x100010, 4, 1⟩
def CUR_FW_STATUS.STAGED : FieldRef := ⟨0x100010, 3, 1⟩
def CUR_FW_STATUS.NEXT : FieldRef := ⟨0x100010, 2, 1⟩
def CUR_FW_STATUS.SLOT : FieldRef := ⟨0x100010, 0, 1⟩
def CUR_SIG_STATUS.REMAINING : FieldRef := ⟨0x100018, 32, 21⟩
def CUR_SIG_STATUS.TOKENS : FieldRef := ⟨0x100018, 24, 5⟩
def CUR_SIG_STATUS.NEXT_LEAF : FieldRef := ⟨0x100018, 0, 21⟩
def ANN_LAST_SEQ.SEQ : FieldRef := ⟨0x108000, 0, 64⟩
def ANN_DURABLE_SEQ.SEQ : FieldRef := ⟨0x108008, 0, 64⟩
def ANN_CTRL.FLUSH : FieldRef := ⟨0x108010, 9, 1⟩
def ANN_CTRL.ALERT : FieldRef := ⟨0x108010, 8, 1⟩
def ANN_CTRL.MIN_SEVERITY : FieldRef := ⟨0x108010, 0, 3⟩
def ANN_DROPPED.COUNT : FieldRef := ⟨0x108018, 0, 64⟩
def CUR_MAINT_CTRL.TAG : FieldRef := ⟨0x109000, 48, 16⟩
def CUR_MAINT_CTRL.REGION_MASK : FieldRef := ⟨0x109000, 32, 16⟩
def CUR_MAINT_CTRL.LIMIT_MS : FieldRef := ⟨0x109000, 8, 24⟩
def CUR_MAINT_CTRL.CMD : FieldRef := ⟨0x109000, 0, 4⟩
def CUR_MAINT_STATUS.TAG : FieldRef := ⟨0x109008, 48, 16⟩
def CUR_MAINT_STATUS.HELD : FieldRef := ⟨0x109008, 32, 16⟩
def CUR_MAINT_STATUS.LAST_RESULT : FieldRef := ⟨0x109008, 24, 8⟩
def CUR_MAINT_STATUS.FAILED : FieldRef := ⟨0x109008, 8, 16⟩
def CUR_MAINT_STATUS.STATE : FieldRef := ⟨0x109008, 0, 3⟩
def CUR_PROOF_STATUS.LIB_VERSION : FieldRef := ⟨0x109010, 32, 32⟩
def CUR_PROOF_STATUS.HALL_FAILED : FieldRef := ⟨0x109010, 28, 4⟩
def CUR_PROOF_STATUS.LAST_CLASS : FieldRef := ⟨0x109010, 26, 2⟩
def CUR_PROOF_STATUS.LAST_HALL : FieldRef := ⟨0x109010, 24, 2⟩
def CUR_PROOF_STATUS.LAST_SHELF : FieldRef := ⟨0x109010, 17, 7⟩
def CUR_PROOF_STATUS.FAILED_SHELVES : FieldRef := ⟨0x109010, 8, 9⟩
def CUR_PROOF_STATS.PASSED : FieldRef := ⟨0x109018, 32, 32⟩
def CUR_PROOF_STATS.FORCED : FieldRef := ⟨0x109018, 16, 16⟩
def CUR_PROOF_STATS.MISMATCH : FieldRef := ⟨0x109018, 0, 16⟩
def CUR_FSR_RING.ADDR : FieldRef := ⟨0x109020, 12, 52⟩
def CUR_FSR_RING.LOG2_SLOTS : FieldRef := ⟨0x109020, 8, 4⟩
def CUR_FSR_RING.ENABLE : FieldRef := ⟨0x109020, 0, 1⟩
def CUR_FSR_INDEX.PRODUCED : FieldRef := ⟨0x109028, 32, 32⟩
def CUR_FSR_INDEX.CONSUMED : FieldRef := ⟨0x109028, 0, 32⟩
def CUR_TAINT_BASE.ADDR : FieldRef := ⟨0x109030, 12, 52⟩
def CUR_TAINT_BASE.SIZE_MIB : FieldRef := ⟨0x109030, 0, 12⟩
def PWR_CTRL.THERM_C : FieldRef := ⟨0x200000, 40, 8⟩
def PWR_CTRL.HOST_CEILING : FieldRef := ⟨0x200000, 24, 9⟩
def PWR_CTRL.SLOPE : FieldRef := ⟨0x200000, 16, 5⟩
def PWR_CTRL.FIXED_PERIOD : FieldRef := ⟨0x200000, 8, 6⟩
def PWR_CTRL.FIXED_POINT : FieldRef := ⟨0x200000, 4, 3⟩
def PWR_CTRL.FIXED : FieldRef := ⟨0x200000, 0, 1⟩
def PWR_CAP.ILIM_DA : FieldRef := ⟨0x200008, 16, 9⟩
def PWR_CAP.CAP_DW : FieldRef := ⟨0x200008, 0, 14⟩
def PWR_STATUS.INPUT_CV : FieldRef := ⟨0x200010, 48, 16⟩
def PWR_STATUS.FALLBACK : FieldRef := ⟨0x200010, 47, 1⟩
def PWR_STATUS.REASONS : FieldRef := ⟨0x200010, 40, 7⟩
def PWR_STATUS.EXCURSION_US : FieldRef := ⟨0x200010, 25, 15⟩
def PWR_STATUS.INPUT_DA : FieldRef := ⟨0x200010, 16, 9⟩
def PWR_STATUS.INPUT_DW : FieldRef := ⟨0x200010, 0, 16⟩
def PWR_DROOP.THRESH_MV : FieldRef := ⟨0x200078, 0, 7⟩
def PWR_STATS.DROOPS : FieldRef := ⟨0x200080, 32, 32⟩
def PWR_STATS.HINT_MISS : FieldRef := ⟨0x200080, 16, 16⟩
def PWR_STATS.EXCURSIONS : FieldRef := ⟨0x200080, 0, 16⟩
def PWR_VT_SEL.POINT : FieldRef := ⟨0x200088, 8, 3⟩
def PWR_VT_SEL.DIE : FieldRef := ⟨0x200088, 0, 3⟩
def PWR_VT_DATA.GUARD_MV : FieldRef := ⟨0x200090, 56, 8⟩
def PWR_VT_DATA.HOURS : FieldRef := ⟨0x200090, 24, 32⟩
def PWR_VT_DATA.ENG : FieldRef := ⟨0x200090, 23, 1⟩
def PWR_VT_DATA.WITHDRAWN : FieldRef := ⟨0x200090, 22, 1⟩
def PWR_VT_DATA.VSET_MV : FieldRef := ⟨0x200090, 12, 10⟩
def PWR_VT_DATA.VMIN_MV : FieldRef := ⟨0x200090, 0, 10⟩
def PST_CTRL.READ_HOLD_US : FieldRef := ⟨0x200100, 32, 16⟩
def PST_CTRL.AUTO_SLEEP_MS : FieldRef := ⟨0x200100, 16, 16⟩
def PST_CTRL.IDLE_US : FieldRef := ⟨0x200100, 8, 8⟩
def PST_CTRL.REQ : FieldRef := ⟨0x200100, 0, 3⟩
def PST_STATUS.LAST_RESULT : FieldRef := ⟨0x200108, 24, 8⟩
def PST_STATUS.WAKE_SRC : FieldRef := ⟨0x200108, 16, 4⟩
def PST_STATUS.HALL_AWAKE : FieldRef := ⟨0x200108, 8, 4⟩
def PST_STATUS.STATE : FieldRef := ⟨0x200108, 0, 3⟩
def PST_SB_CTRL.WAKE_EN : FieldRef := ⟨0x200110, 8, 1⟩
def PST_SB_CTRL.ADDR : FieldRef := ⟨0x200110, 0, 7⟩
def PST_STATS.EARLY_READS : FieldRef := ⟨0x200118, 48, 16⟩
def PST_STATS.WAKES : FieldRef := ⟨0x200118, 32, 16⟩
def PST_STATS.LOW_MS : FieldRef := ⟨0x200118, 0, 32⟩
def MON_SEL.DIE : FieldRef := ⟨0x201000, 8, 3⟩
def MON_SEL.SLOT : FieldRef := ⟨0x201000, 0, 5⟩
def SHF_FOLIO_SEL.FOLIO (h : Nat) : FieldRef := ⟨hallBase h + 0x2000, 8, 7⟩
def SHF_FOLIO_SEL.SHELF (h : Nat) : FieldRef := ⟨hallBase h + 0x2000, 0, 7⟩
def SHF_FOLIO_STATUS.STUCK (h : Nat) : FieldRef := ⟨hallBase h + 0x2008, 50, 14⟩
def SHF_FOLIO_STATUS.WEAR (h : Nat) : FieldRef := ⟨hallBase h + 0x2008, 36, 14⟩
def SHF_FOLIO_STATUS.RANGE_EXP (h : Nat) : FieldRef := ⟨hallBase h + 0x2008, 32, 4⟩
def SHF_FOLIO_STATUS.PAIR_ROLE (h : Nat) : FieldRef := ⟨hallBase h + 0x2008, 30, 2⟩
def SHF_FOLIO_STATUS.REGION (h : Nat) : FieldRef := ⟨hallBase h + 0x2008, 12, 4⟩
def SHF_FOLIO_STATUS.LOGICAL (h : Nat) : FieldRef := ⟨hallBase h + 0x2008, 4, 7⟩
def SHF_FOLIO_STATUS.READY (h : Nat) : FieldRef := ⟨hallBase h + 0x2008, 3, 1⟩
def SHF_FOLIO_STATUS.STATE (h : Nat) : FieldRef := ⟨hallBase h + 0x2008, 0, 3⟩
def SHF_STRIKE_CTRL.PERIOD_NOW (h : Nat) : FieldRef := ⟨hallBase h + 0x2010, 8, 6⟩
def SHF_STRIKE_CTRL.PERIOD_FLOOR (h : Nat) : FieldRef := ⟨hallBase h + 0x2010, 0, 6⟩
def SHF_SAT_COUNT.COUNT (h : Nat) : FieldRef := ⟨hallBase h + 0x2018, 0, 48⟩
def SCR_SEL.SHELF (h : Nat) : FieldRef := ⟨hallBase h + 0x3000, 0, 7⟩
def SCR_STATUS.PC (h : Nat) : FieldRef := ⟨hallBase h + 0x3008, 32, 17⟩
def SCR_STATUS.KIND (h : Nat) : FieldRef := ⟨hallBase h + 0x3008, 8, 4⟩
def SCR_STATUS.STATE (h : Nat) : FieldRef := ⟨hallBase h + 0x3008, 0, 3⟩
def SCR_OUTLIER_STATS.EXCESS (h : Nat) : FieldRef := ⟨hallBase h + 0x3018, 32, 32⟩
def SCR_OUTLIER_STATS.SPILLED (h : Nat) : FieldRef := ⟨hallBase h + 0x3018, 0, 32⟩
def SCR_INT_SAT.COUNT (h : Nat) : FieldRef := ⟨hallBase h + 0x3020, 0, 48⟩
def SCR_RUN_LIMIT.LIMIT_US (h : Nat) : FieldRef := ⟨hallBase h + 0x3028, 0, 24⟩
def SCR_BLOCK_STATS.SAT (h : Nat) : FieldRef := ⟨hallBase h + 0x3030, 40, 24⟩
def SCR_BLOCK_STATS.ZERO (h : Nat) : FieldRef := ⟨hallBase h + 0x3030, 16, 24⟩
def SCR_BLOCK_STATS.NAN (h : Nat) : FieldRef := ⟨hallBase h + 0x3030, 0, 16⟩
def SCR_VIG_STATUS.STAGE (h : Nat) : FieldRef := ⟨hallBase h + 0x3038, 48, 16⟩
def SCR_VIG_STATUS.REGION (h : Nat) : FieldRef := ⟨hallBase h + 0x3038, 44, 4⟩
def SCR_VIG_STATUS.SHELF (h : Nat) : FieldRef := ⟨hallBase h + 0x3038, 37, 7⟩
def SCR_VIG_STATUS.CHAIN (h : Nat) : FieldRef := ⟨hallBase h + 0x3038, 31, 6⟩
def SCR_VIG_STATUS.COL_GROUP (h : Nat) : FieldRef := ⟨hallBase h + 0x3038, 28, 3⟩
def SCR_VIG_STATUS.FAILS (h : Nat) : FieldRef := ⟨hallBase h + 0x3038, 16, 12⟩
def SCR_VIG_STATUS.N_FALL (h : Nat) : FieldRef := ⟨hallBase h + 0x3038, 2, 1⟩
def SCR_VIG_STATUS.N_DETECT (h : Nat) : FieldRef := ⟨hallBase h + 0x3038, 1, 1⟩
def SCR_VIG_STATUS.S_DETECT (h : Nat) : FieldRef := ⟨hallBase h + 0x3038, 0, 1⟩
def SCR_VIG_COUNTS.CHECKS (h : Nat) : FieldRef := ⟨hallBase h + 0x3040, 32, 32⟩
def SCR_VIG_COUNTS.SKIPPED (h : Nat) : FieldRef := ⟨hallBase h + 0x3040, 16, 16⟩
def SCR_VIG_COUNTS.DETECTIONS (h : Nat) : FieldRef := ⟨hallBase h + 0x3040, 0, 16⟩
def COL_CTRL.PASSIVE_W (h : Nat) : FieldRef := ⟨hallBase h + 0x4000, 16, 16⟩
def COL_CTRL.TEMP_STEP (h : Nat) : FieldRef := ⟨hallBase h + 0x4000, 8, 8⟩
def COL_CTRL.DEEP_EN (h : Nat) : FieldRef := ⟨hallBase h + 0x4000, 3, 1⟩
def COL_CTRL.REFRESH_EN (h : Nat) : FieldRef := ⟨hallBase h + 0x4000, 2, 1⟩
def COL_CTRL.ACTIVE_EN (h : Nat) : FieldRef := ⟨hallBase h + 0x4000, 1, 1⟩
def COL_CTRL.PASSIVE_EN (h : Nat) : FieldRef := ⟨hallBase h + 0x4000, 0, 1⟩
def COL_REQUEST.TAG (h : Nat) : FieldRef := ⟨hallBase h + 0x4008, 16, 16⟩
def COL_REQUEST.CMD (h : Nat) : FieldRef := ⟨hallBase h + 0x4008, 0, 4⟩
def COL_STATUS.TAG (h : Nat) : FieldRef := ⟨hallBase h + 0x4010, 48, 16⟩
def COL_STATUS.LAST_RESULT (h : Nat) : FieldRef := ⟨hallBase h + 0x4010, 40, 8⟩
def COL_STATUS.TRIM_PROGS (h : Nat) : FieldRef := ⟨hallBase h + 0x4010, 24, 14⟩
def COL_STATUS.GAIN_DEV (h : Nat) : FieldRef := ⟨hallBase h + 0x4010, 8, 16⟩
def COL_STATUS.REFRESH_DUE (h : Nat) : FieldRef := ⟨hallBase h + 0x4010, 5, 1⟩
def COL_STATUS.DEEP_PENDING (h : Nat) : FieldRef := ⟨hallBase h + 0x4010, 4, 1⟩
def COL_STATUS.SWEEP_PENDING (h : Nat) : FieldRef := ⟨hallBase h + 0x4010, 3, 1⟩
def COL_STATUS.SHADOW_VALID (h : Nat) : FieldRef := ⟨hallBase h + 0x4010, 2, 1⟩
def COL_STATUS.BOOT_DONE (h : Nat) : FieldRef := ⟨hallBase h + 0x4010, 1, 1⟩
def COL_STATUS.ACTIVE_BANK (h : Nat) : FieldRef := ⟨hallBase h + 0x4010, 0, 1⟩
def COL_DRIFT.AGE_HOURS (h : Nat) : FieldRef := ⟨hallBase h + 0x4018, 16, 32⟩
def COL_DRIFT.RESIDUAL (h : Nat) : FieldRef := ⟨hallBase h + 0x4018, 0, 16⟩
def COL_REFRESH_TH.THRESH (h : Nat) : FieldRef := ⟨hallBase h + 0x4020, 0, 16⟩
def COL_EVENTS.DEEP (h : Nat) : FieldRef := ⟨hallBase h + 0x4028, 48, 16⟩
def COL_EVENTS.REFRESH (h : Nat) : FieldRef := ⟨hallBase h + 0x4028, 32, 16⟩
def COL_EVENTS.SWITCHES (h : Nat) : FieldRef := ⟨hallBase h + 0x4028, 0, 32⟩
def KVC_CTRL.LOW_WATER_MIB (h : Nat) : FieldRef := ⟨hallBase h + 0x5000, 0, 32⟩
def KVC_USAGE.FREE_MIB (h : Nat) : FieldRef := ⟨hallBase h + 0x5008, 32, 32⟩
def KVC_USAGE.FREE_ENTRIES (h : Nat) : FieldRef := ⟨hallBase h + 0x5008, 0, 19⟩
def KVC_EPOCH.EPOCH (h : Nat) : FieldRef := ⟨hallBase h + 0x5010, 0, 48⟩
def KVC_STATS.PREEMPT (h : Nat) : FieldRef := ⟨hallBase h + 0x5018, 48, 16⟩
def KVC_STATS.SWAP_IN (h : Nat) : FieldRef := ⟨hallBase h + 0x5018, 32, 16⟩
def KVC_STATS.COW (h : Nat) : FieldRef := ⟨hallBase h + 0x5018, 16, 16⟩
def KVC_STATS.POISON_PAGES (h : Nat) : FieldRef := ⟨hallBase h + 0x5018, 0, 16⟩
def KVC_ENTRY_SEL.INDEX (h : Nat) : FieldRef := ⟨hallBase h + 0x5020, 0, 18⟩
def TSX_CTRL.PAIR (n : Nat) : FieldRef := ⟨portBase n + 0x0, 4, 1⟩
def TSX_CTRL.FORCE_X2 (n : Nat) : FieldRef := ⟨portBase n + 0x0, 3, 1⟩
def TSX_CTRL.LOOPBACK (n : Nat) : FieldRef := ⟨portBase n + 0x0, 2, 1⟩
def TSX_CTRL.RETRAIN (n : Nat) : FieldRef := ⟨portBase n + 0x0, 1, 1⟩
def TSX_CTRL.ENABLE (n : Nat) : FieldRef := ⟨portBase n + 0x0, 0, 1⟩
def TSX_STATUS.LINK_GEN (n : Nat) : FieldRef := ⟨portBase n + 0x8, 32, 32⟩
def TSX_STATUS.LOSS_CAUSE (n : Nat) : FieldRef := ⟨portBase n + 0x8, 16, 4⟩
def TSX_STATUS.LANE_FAIL (n : Nat) : FieldRef := ⟨portBase n + 0x8, 12, 4⟩
def TSX_STATUS.LANE_LOCK (n : Nat) : FieldRef := ⟨portBase n + 0x8, 8, 4⟩
def TSX_STATUS.WIDTH (n : Nat) : FieldRef := ⟨portBase n + 0x8, 3, 1⟩
def TSX_STATUS.STATE (n : Nat) : FieldRef := ⟨portBase n + 0x8, 0, 3⟩
def TSX_PARTNER.VALID (n : Nat) : FieldRef := ⟨portBase n + 0x10, 46, 1⟩
def TSX_PARTNER.STAGE (n : Nat) : FieldRef := ⟨portBase n + 0x10, 43, 3⟩
def TSX_PARTNER.MEMBER (n : Nat) : FieldRef := ⟨portBase n + 0x10, 39, 4⟩
def TSX_PARTNER.CLASS (n : Nat) : FieldRef := ⟨portBase n + 0x10, 37, 2⟩
def TSX_PARTNER.PORT (n : Nat) : FieldRef := ⟨portBase n + 0x10, 32, 5⟩
def TSX_PARTNER.MODULE_ID (n : Nat) : FieldRef := ⟨portBase n + 0x10, 0, 32⟩
def TSX_TIMERS.LOSS_US (n : Nat) : FieldRef := ⟨portBase n + 0x18, 32, 16⟩
def TSX_TIMERS.KA_US (n : Nat) : FieldRef := ⟨portBase n + 0x18, 16, 16⟩
def TSX_TIMERS.REPLAY_NS (n : Nat) : FieldRef := ⟨portBase n + 0x18, 0, 16⟩
def TSX_ERRORS.FEC_CORR (n : Nat) : FieldRef := ⟨portBase n + 0x20, 40, 24⟩
def TSX_ERRORS.FEC_UNCORR (n : Nat) : FieldRef := ⟨portBase n + 0x20, 24, 16⟩
def TSX_ERRORS.CRC_FAIL (n : Nat) : FieldRef := ⟨portBase n + 0x20, 8, 16⟩
def TSX_ERRORS.WINDOW (n : Nat) : FieldRef := ⟨portBase n + 0x20, 0, 8⟩
def TSX_REPLAY.RESENT (n : Nat) : FieldRef := ⟨portBase n + 0x28, 32, 32⟩
def TSX_REPLAY.NACKS (n : Nat) : FieldRef := ⟨portBase n + 0x28, 16, 16⟩
def TSX_REPLAY.TIMEOUTS (n : Nat) : FieldRef := ⟨portBase n + 0x28, 0, 16⟩
def TSX_SNAP_CTRL.REQUEST (n : Nat) : FieldRef := ⟨portBase n + 0x30, 16, 1⟩
def TSX_SNAP_CTRL.PERIOD_MS (n : Nat) : FieldRef := ⟨portBase n + 0x30, 0, 16⟩
def TSX_SNAP.COUNT (n : Nat) : FieldRef := ⟨portBase n + 0x38, 48, 16⟩
def TSX_SNAP.RTT_US (n : Nat) : FieldRef := ⟨portBase n + 0x38, 40, 8⟩
def TSX_SNAP.OFFSET_US (n : Nat) : FieldRef := ⟨portBase n + 0x38, 0, 40⟩
def TSX_INJ_CTRL.SEED (n : Nat) : FieldRef := ⟨portBase n + 0x40, 40, 24⟩
def TSX_INJ_CTRL.BURST (n : Nat) : FieldRef := ⟨portBase n + 0x40, 32, 8⟩
def TSX_INJ_CTRL.N (n : Nat) : FieldRef := ⟨portBase n + 0x40, 16, 16⟩
def TSX_INJ_CTRL.SCOPE (n : Nat) : FieldRef := ⟨portBase n + 0x40, 6, 4⟩
def TSX_INJ_CTRL.PATTERN (n : Nat) : FieldRef := ⟨portBase n + 0x40, 4, 2⟩
def TSX_INJ_CTRL.MODE (n : Nat) : FieldRef := ⟨portBase n + 0x40, 1, 3⟩
def TSX_INJ_CTRL.ENABLE (n : Nat) : FieldRef := ⟨portBase n + 0x40, 0, 1⟩
def TSX_INJ_COUNT.INJECTED (n : Nat) : FieldRef := ⟨portBase n + 0x48, 0, 32⟩
def ACC_CTRL.HOLD_NO_ARCHIVE : FieldRef := ⟨pf1Base + 0x6000, 32, 1⟩
def ACC_CTRL.POWER_DW : FieldRef := ⟨pf1Base + 0x6000, 16, 16⟩
def ACC_CTRL.PER_HALL : FieldRef := ⟨pf1Base + 0x6000, 0, 8⟩
def ACC_SHARD_TIMEOUT.LIMIT_US : FieldRef := ⟨pf1Base + 0x6008, 0, 30⟩
def ACC_SEL.REGION : FieldRef := ⟨pf1Base + 0x6010, 0, 4⟩
def ACC_STATUS.GENERATION : FieldRef := ⟨pf1Base + 0x6018, 32, 32⟩
def ACC_STATUS.LAST_RESULT : FieldRef := ⟨pf1Base + 0x6018, 24, 8⟩
def ACC_STATUS.INTENT : FieldRef := ⟨pf1Base + 0x6018, 11, 1⟩
def ACC_STATUS.OFFLINE : FieldRef := ⟨pf1Base + 0x6018, 10, 1⟩
def ACC_STATUS.ARCHIVE : FieldRef := ⟨pf1Base + 0x6018, 9, 1⟩
def ACC_STATUS.IN_PLACE : FieldRef := ⟨pf1Base + 0x6018, 8, 1⟩
def ACC_STATUS.STATE : FieldRef := ⟨pf1Base + 0x6018, 0, 3⟩
def ACC_PROGRESS.FOLIOS_TOTAL : FieldRef := ⟨pf1Base + 0x6020, 48, 16⟩
def ACC_PROGRESS.FOLIOS_READY : FieldRef := ⟨pf1Base + 0x6020, 32, 16⟩
def ACC_PROGRESS.SHARDS_TOTAL : FieldRef := ⟨pf1Base + 0x6020, 16, 16⟩
def ACC_PROGRESS.SHARDS_DONE : FieldRef := ⟨pf1Base + 0x6020, 0, 16⟩
def ACC_HOUSE.HOUSED : FieldRef := ⟨pf1Base + 0x6028, 32, 9⟩
def ACC_HOUSE.NAMED : FieldRef := ⟨pf1Base + 0x6028, 0, 9⟩
def ADP_LATE_LIMIT.LIMIT_US : FieldRef := ⟨pf1Base + 0x7000, 0, 24⟩
def ADP_SEL.CARREL : FieldRef := ⟨pf1Base + 0x7008, 0, 10⟩
def ADP_LOAN.USED_PAGES : FieldRef := ⟨pf1Base + 0x7010, 32, 24⟩
def ADP_LOAN.QUOTA_MIB : FieldRef := ⟨pf1Base + 0x7010, 0, 16⟩
def CAR_RING_BASE.ADDR (c : Nat) : FieldRef := ⟨carBase c + 0x0, 12, 52⟩
def CAR_RING_CTRL.LOG2_RECORDS (c : Nat) : FieldRef := ⟨carBase c + 0x8, 8, 5⟩
def CAR_RING_CTRL.ENABLE (c : Nat) : FieldRef := ⟨carBase c + 0x8, 0, 1⟩
def CAR_IRQ_MOD.TIME_US (c : Nat) : FieldRef := ⟨carBase c + 0x10, 16, 24⟩
def CAR_IRQ_MOD.COUNT (c : Nat) : FieldRef := ⟨carBase c + 0x10, 0, 16⟩
def CAR_SWAP_BASE.ADDR (c : Nat) : FieldRef := ⟨carBase c + 0x18, 12, 52⟩
def CAR_SWAP_BASE.VALID (c : Nat) : FieldRef := ⟨carBase c + 0x18, 1, 1⟩
def CAR_SWAP_BASE.BULK (c : Nat) : FieldRef := ⟨carBase c + 0x18, 0, 1⟩
def CAR_STATUS.SESSIONS (c : Nat) : FieldRef := ⟨carBase c + 0x20, 48, 16⟩
def CAR_STATUS.COMETS (c : Nat) : FieldRef := ⟨carBase c + 0x20, 32, 16⟩
def CAR_STATUS.OUTSTANDING (c : Nat) : FieldRef := ⟨carBase c + 0x20, 16, 16⟩
def CAR_STATUS.PRIORITY (c : Nat) : FieldRef := ⟨carBase c + 0x20, 4, 4⟩
def CAR_STATUS.PRIVILEGED (c : Nat) : FieldRef := ⟨carBase c + 0x20, 2, 1⟩
def CAR_STATUS.CLASS (c : Nat) : FieldRef := ⟨carBase c + 0x20, 1, 1⟩
def CAR_STATUS.ENABLE (c : Nat) : FieldRef := ⟨carBase c + 0x20, 0, 1⟩
def CAR_PASS.OLDEST_MS (c : Nat) : FieldRef := ⟨carBase c + 0x28, 48, 16⟩
def CAR_PASS.PASS (c : Nat) : FieldRef := ⟨carBase c + 0x28, 0, 48⟩
def INT_STALL_LIMIT.LIMIT_US (c : Nat) : FieldRef := ⟨carBase c + 0x100, 0, 24⟩
def INT_STATUS.EXPECTED_SEQ (c : Nat) : FieldRef := ⟨carBase c + 0x108, 32, 32⟩
def INT_STATUS.HALT_REASON (c : Nat) : FieldRef := ⟨carBase c + 0x108, 27, 4⟩
def INT_STATUS.STATE (c : Nat) : FieldRef := ⟨carBase c + 0x108, 24, 3⟩
def INT_STATUS.NEXT_OFFSET (c : Nat) : FieldRef := ⟨carBase c + 0x108, 0, 20⟩
def INT_RESYNC.SEQ (c : Nat) : FieldRef := ⟨carBase c + 0x110, 32, 32⟩
def INT_RESYNC.OFFSET (c : Nat) : FieldRef := ⟨carBase c + 0x110, 0, 20⟩
def INT_BULK_STATUS.FALLBACKS : FieldRef := ⟨pf2Base + 0x0, 1, 15⟩
def INT_BULK_STATUS.ROUTE : FieldRef := ⟨pf2Base + 0x0, 0, 1⟩
def PWR_HALL_STATUS.addr (h : Nat) : Nat := 0x200020 + 8 * h
def PWR_HALL_STATUS.TEMP_C (h : Nat) : FieldRef := ⟨PWR_HALL_STATUS.addr h, 40, 8⟩
def PWR_HALL_STATUS.REASONS (h : Nat) : FieldRef := ⟨PWR_HALL_STATUS.addr h, 32, 7⟩
def PWR_HALL_STATUS.POINT (h : Nat) : FieldRef := ⟨PWR_HALL_STATUS.addr h, 25, 3⟩
def PWR_HALL_STATUS.ACTIVITY (h : Nat) : FieldRef := ⟨PWR_HALL_STATUS.addr h, 16, 9⟩
def PWR_HALL_STATUS.CEILING (h : Nat) : FieldRef := ⟨PWR_HALL_STATUS.addr h, 0, 9⟩
def PWR_THR_US.COUNT (c : Nat) : FieldRef := ⟨0x200040 + 8 * (c - 1), 0, 64⟩
def KVC_ENTRY.WORD (h n : Nat) : FieldRef := ⟨hallBase h + 0x5028 + 8 * n, 0, 64⟩
def SCR_FAULT.PC (shelf : Nat) : FieldRef := ⟨scrFaultBase shelf, 32, 17⟩
def SCR_FAULT.PENDING (shelf : Nat) : FieldRef := ⟨scrFaultBase shelf, 8, 1⟩
def SCR_FAULT.KIND (shelf : Nat) : FieldRef := ⟨scrFaultBase shelf, 4, 4⟩
def SCR_FAULT.CODE (shelf : Nat) : FieldRef := ⟨scrFaultBase shelf, 0, 4⟩
def ADP_STATS.LATE (c : Nat) : FieldRef := ⟨adpStatsBase c, 48, 16⟩
def ADP_STATS.FETCH_ERR (c : Nat) : FieldRef := ⟨adpStatsBase c, 32, 16⟩
def ADP_STATS.MISSES (c : Nat) : FieldRef := ⟨adpStatsBase c, 0, 32⟩
def MON_SLOT.PERIOD (die slot : Nat) : FieldRef := ⟨monBase die slot, 48, 16⟩
def MON_SLOT.SHIFT (die slot : Nat) : FieldRef := ⟨monBase die slot, 40, 5⟩
def MON_SLOT.AVG_LOG2 (die slot : Nat) : FieldRef := ⟨monBase die slot, 36, 4⟩
def MON_SLOT.PWM_SRC (die slot : Nat) : FieldRef := ⟨monBase die slot, 32, 4⟩
def MON_SLOT.GATE (die slot : Nat) : FieldRef := ⟨monBase die slot, 24, 8⟩
def MON_SLOT.DELAY (die slot : Nat) : FieldRef := ⟨monBase die slot, 16, 8⟩
def MON_SLOT.TRIGGER (die slot : Nat) : FieldRef := ⟨monBase die slot, 12, 2⟩
def MON_SLOT.OSR_LOG2 (die slot : Nat) : FieldRef := ⟨monBase die slot, 8, 4⟩
def MON_SLOT.INPUT (die slot : Nat) : FieldRef := ⟨monBase die slot, 4, 4⟩
def MON_SLOT.WINDOW_EN (die slot : Nat) : FieldRef := ⟨monBase die slot, 2, 1⟩
def MON_SLOT.FALLBACK (die slot : Nat) : FieldRef := ⟨monBase die slot, 1, 1⟩
def MON_SLOT.ENABLE (die slot : Nat) : FieldRef := ⟨monBase die slot, 0, 1⟩
def MON_WINDOW.HIGH (die slot : Nat) : FieldRef := ⟨monBase die slot + 1, 32, 24⟩
def MON_WINDOW.LOW (die slot : Nat) : FieldRef := ⟨monBase die slot + 1, 0, 24⟩
def MON_RESULT.SCALED (die slot : Nat) : FieldRef := ⟨monBase die slot + 2, 32, 32⟩
def MON_RESULT.CODE (die slot : Nat) : FieldRef := ⟨monBase die slot + 2, 8, 24⟩
def MON_RESULT.FALLBACK (die slot : Nat) : FieldRef := ⟨monBase die slot + 2, 7, 1⟩
def MON_RESULT.VALID (die slot : Nat) : FieldRef := ⟨monBase die slot + 2, 6, 1⟩
def MON_RESULT.COUNT (die slot : Nat) : FieldRef := ⟨monBase die slot + 2, 0, 6⟩
def MON_EVENTS.REF_FAIL (die : Nat) : FieldRef := ⟨monDieBase die, 17, 1⟩
def MON_EVENTS.WINDOW (die : Nat) : FieldRef := ⟨monDieBase die, 0, 16⟩
def MON_STATS.RESULTS (die : Nat) : FieldRef := ⟨monDieBase die + 1, 32, 32⟩
def MON_STATS.OVERRUN (die : Nat) : FieldRef := ⟨monDieBase die + 1, 0, 32⟩

end Reg

end Sys2Proof.Machine
end

