-- ==== Sys2Proof/Machine/Sparse.lean ====
section
/-!
DEFINITION. Sys2Proof/Machine/Sparse.lean: sparse tables keyed by a number, in one canonical form.

Every array of the module that is large and mostly at its reset value (registers, folios, tiles, shelf stores,
catalogues) is held as a list of keys and values: keys strictly rising, no entry equal to what an unlisted key
reads as. `d` gives what an unlisted key reads as.
-/
namespace Sys2Proof.Machine

/-- A table keyed by `Nat`, in canonical form (`swf`). -/
abbrev Sparse (α : Type) := List (Nat × α)

/-- What key `i` reads as. -/
def sget {α : Type} (d : Nat → α) : Sparse α → Nat → α
  | [], i => d i
  | (k, v) :: m, i => if i = k then v else if i < k then d i else sget d m i

/-- The table with key `i` holding `x`; an `x` that an unlisted key reads as leaves no entry. -/
def sset {α : Type} [DecidableEq α] (d : Nat → α) : Sparse α → Nat → α → Sparse α
  | [], i, x => if x = d i then [] else [(i, x)]
  | (k, v) :: m, i, x =>
    if i < k then (if x = d i then (k, v) :: m else (i, x) :: (k, v) :: m)
    else if i = k then (if x = d i then m else (i, x) :: m)
    else (k, v) :: sset d m i x

/-- The table with `f` applied to what key `i` reads as. -/
def smod {α : Type} [DecidableEq α] (d : Nat → α) (m : Sparse α) (i : Nat) (f : α → α) : Sparse α :=
  sset d m i (f (sget d m i))

/-- Every listed key is above `b`, keys rise, and no entry is what an unlisted key reads as. -/
def swfFrom {α : Type} [DecidableEq α] (d : Nat → α) : Option Nat → Sparse α → Bool
  | _, [] => true
  | b, (k, v) :: m => (match b with | none => true | some b => decide (b < k)) && decide (v ≠ d k) && swfFrom d (some k) m

/-- The canonical form. -/
def swf {α : Type} [DecidableEq α] (d : Nat → α) (m : Sparse α) : Bool := swfFrom d none m

/-- The table with every entry whose key satisfies `p` taken back to what an unlisted key reads as. -/
def sdrop {α : Type} (p : Nat → Bool) (m : Sparse α) : Sparse α := m.filter fun e => !p e.1

/-- The table with `f` applied to every listed entry; an entry that becomes what an unlisted key reads as is dropped. -/
def smapAll {α : Type} [DecidableEq α] (d : Nat → α) (m : Sparse α) (f : Nat → α → α) : Sparse α :=
  (m.map fun e => (e.1, f e.1 e.2)).filter fun e => decide (e.2 ≠ d e.1)

end Sys2Proof.Machine
end

