-- ==== Sys2Proof/Machine/State.lean ====
section
/-!
DEFINITION. Sys2Proof/Machine/State.lean: everything the manual gives the module to hold, as plain data, the reasons a
step can stop, and the module right after reset.

Registers stand in one table (`State.regs`), each at its reset value until something changes it; whatever a register
only shows (a view) is computed from the state that it shows. Memory-like arrays are `Sparse` tables in canonical form.
INVENTORY.md, under State, names the rule and the reset value of every field.
-/
namespace Sys2Proof.Machine

/-- Why a step stops with a fault: never. The manual gives every command of this block an effect, an ignored write or a
result code, so no meaning faults and the type has no constructor (safe). -/
inductive Fault where
  deriving DecidableEq, Repr

/-- Why a command has no meaning. -/
inductive Refusal where
  /-- Raised by an arm of `exec` whose row is not modelled (safe). -/
  | notModelled (mnemonic : String)
  deriving DecidableEq, Repr

/-! ### Annals (17, R367 to R370) -/

/-- OBJECT of Table 17-6: the parts that apply; the others hold all ones. -/
structure Obj where
  region : Option Nat := none
  carrel : Option Nat := none
  shelf : Option Nat := none
  folio : Option Nat := none
  die : Option Nat := none
  session : Option Nat := none
  deriving DecidableEq, Repr

/-- One annals record (Table 17-6). -/
structure Rec where
  kind : Nat
  sev : Nat
  dropped : Bool
  boot : Nat
  seq : Nat
  tick : Nat
  epoch : Nat
  obj : Obj
  a0 : Nat
  a1 : Nat
  a2 : Nat
  deriving DecidableEq, Repr

/-- The count of one KIND in the present second: records written and records not written (R369). -/
structure KindCount where
  kind : Nat
  written : Nat
  held : Nat
  deriving DecidableEq, Repr

/-- The annals: the RAM ring with the newest record first, the counts of the present second, the kinds whose next
record carries the dropped flag. -/
structure Annals where
  lastSeq : Nat
  ring : List Rec
  counts : List KindCount
  flagged : List Nat
  deriving DecidableEq, Repr

/-! ### Firmware and curator (17) -/

/-- A firmware slot of the boot flash: the package it holds and whether it is confirmed (R371, R372). -/
structure FwSlot where
  svn : Nat
  digest : Bytes
  confirmed : Bool
  deriving DecidableEq, Repr

/-- Firmware state: the two slots, the slot that runs and the one for the next boot (0 A, 1 B), whether that
boot is a trial, whether this one is and whether it is the recovery image, the floor. -/
structure Firmware where
  slotA : Option FwSlot
  slotB : Option FwSlot
  running : Nat
  nextSlot : Nat
  nextTrial : Bool
  trial : Bool
  recovery : Bool
  floor : Nat
  deriving DecidableEq, Repr

/-- A mailbox request that has been taken: sequence number, tag, opcode, body (R358). -/
structure MbxReq where
  seq : Nat
  tag : Nat
  op : Nat
  body : Bytes
  deriving DecidableEq, Repr

/-- A 64-byte block of an aperture or of the mailbox: which of its bytes have been written since it was last consumed, and the bytes
(R271). -/
structure Block where
  written : Nat
  bytes : Bytes
  deriving DecidableEq, Repr

def freshBlock : Block := { written := 0, bytes := [] }

/-- The mailbox: blocks of the request area that have arrived (by block number), the request in
progress, the response area, writes discarded while busy. -/
structure Mailbox where
  blocks : Sparse Block
  req : Option MbxReq
  response : Bytes
  discarded : Nat
  deriving DecidableEq, Repr

/-- The identity key's signing state in the NAND store: next leaf and reserved limit, tokens (R374, R375). -/
structure Signing where
  nextLeaf : Nat
  limit : Nat
  tokens : Nat
  deriving DecidableEq, Repr

/-! ### Monitor converters (17, R361 to R365) -/

/-- One converter: the slot whose conversion runs, with MON.SLOT and MON.WINDOW as they stood at its trigger; slots that wait, with the same;
the input that each slot's latest result is of; the slots whose last result lay outside their window; the reference check. -/
structure Converter where
  busy : Option Nat
  set : W64
  window : W64
  waiting : List (Nat × W64 × W64)
  inputs : List (Nat × Nat)
  outside : List Nat
  refFailed : Bool
  deriving DecidableEq, Repr

/-! ### Structure images (02) -/

/-- The stage of an image operation as CUR.IMG_STATUS.STATE numbers it while a bind waits (R34). -/
structure BindOp where
  img : Image
  regions : List Nat
  carrels : List Nat
  whole : Bool
  deriving DecidableEq, Repr

/-- What the NAND store holds of images (R27, R29, R31): two slots of image bytes, the slot the selector colophon names,
whether the pending slot holds the formerly active image, the anchor (parameter set, key), the serial floor. -/
structure ImgStore where
  slot0 : Option Bytes
  slot1 : Option Bytes
  active : Option Nat
  former : Bool
  anchor : Option (Nat × Bytes)
  floor : Nat
  deriving DecidableEq, Repr

/-! ### Folios and ledgers (03, 04) -/

/-- The five states of Table 3-6. -/
inductive FState where
  | spare | accessing | collating | serving | retired
  deriving DecidableEq, Repr

/-- The code of a state (Table 3-6). -/
def FState.code : FState → Nat
  | .spare => 0
  | .accessing => 1
  | .collating => 2
  | .serving => 3
  | .retired => 4

/-- What a folio's cells hold: nothing defined, the levels of a body block (of its significance-16 or unpaired part, or
of its significance-1 part), or the pattern of a margin walk. -/
inductive Content where
  | undefined
  | high (block : Bytes)
  | low (block : Bytes)
  | pattern
  deriving DecidableEq, Repr

/-- An entry of a stuck map: row, column, which cells are stuck (1 G+, 2 G−, 3 both), residual error in level units (R203). -/
structure StuckCell where
  row : Nat
  col : Nat
  cell : Nat
  delta : Int
  deriving DecidableEq, Repr

/-- Why a folio is being prepared: who selected the spare (Table 3-7, R68), and for which position of the shelf. -/
inductive Purpose where
  | none
  | accession
  | refresh
  | deep
  | wear
  | repair
  deriving DecidableEq, Repr

/-- A column trim (R165): how often it was reprogrammed since its last accession, and the gain it was programmed for in 1/65,536 of nominal. -/
structure ColTrim where
  count : Nat
  target : Nat
  deriving DecidableEq, Repr

def freshTrim : ColTrim := { count := 0, target := 65536 }

/-- One physical folio (R66, R74, Table 7-1). `residual` is R of R179 in 10^-15 of column full scale; `leveled` and
`lastSweep` the ticks of its last wear levelling and active sweep (R211, R171). Column trims (R165): how often all were programmed, the draw of the last
such programming, the reprograms of single columns over life, and the trims that were reprogrammed since. `dueHours` counts the hours that a refresh
has stayed due and unstarted since it was first seen so (R183). -/
structure Folio where
  st : FState
  ready : Bool
  logical : Nat
  region : Nat
  pairRole : Nat
  rangeExp : Nat
  wear : Nat
  stuck : Nat
  failed : Bool
  content : Content
  stuckMap : List StuckCell
  purpose : Purpose
  replaces : Nat
  bankA : Sparse W32
  bankB : Sparse W32
  bank : Nat
  shadowValid : Bool
  shadowAt : Nat
  trimProgs : Nat
  trimDraw : Nat
  trimExtra : Sparse Nat
  trims : Sparse ColTrim
  leveled : Option Nat
  lastSweep : Option Nat
  sweeps : Nat
  sweepPending : Bool
  deepPending : Bool
  refreshDue : Bool
  dueHours : Option Nat
  ageHours : Nat
  residual : Nat
  bootDone : Bool
  servedEpoch : Nat
  deriving DecidableEq, Repr

/-- The key of folio position `pos` of module shelf `s`. -/
def folioKey (s pos : Nat) : Nat := s * 68 + pos

/-- A folio at the start of the module's life (R183, Table 3-6): SPARE, no slot, no wear. -/
def freshFolio : Folio :=
  { st := .spare, ready := false, logical := 0x7F, region := 0, pairRole := 0, rangeExp := 0, wear := 0, stuck := 0
    failed := false, content := .undefined, stuckMap := [], purpose := .none, replaces := 0x7F, bankA := [], bankB := []
    bank := 0, shadowValid := false, shadowAt := 0, trimProgs := 0, trimDraw := 0, trimExtra := [], trims := [], leveled := none, lastSweep := none, sweeps := 0, sweepPending := false
    deepPending := false, refreshDue := false, dueHours := none, ageHours := 0, residual := 0
    bootDone := false, servedEpoch := 0 }

/-- One ledger set (R75, R77): which vector of the stage it accumulates, whether a term of that vector has been added, and the
512 totals. -/
structure Ledger where
  vec : Nat
  started : Bool
  totals : Sparse Int
  deriving DecidableEq, Repr

def freshLedger : Ledger := { vec := 0, started := false, totals := [] }

/-! ### Scribes (05) -/

/-- One accumulator tile: 16 × 64 elements, a poison bit per row, the owner tag (R94, R95). -/
structure Tile where
  data : Sparse W32
  poison : Nat
  owner : Option Nat
  deriving DecidableEq, Repr

def freshTile : Tile := { data := [], poison := 0, owner := none }

/-- Tile t of the scribe of module shelf s; 16 is the proof tile. -/
def tileKey (s t : Nat) : Nat := s * 17 + t

/-- Which memory a descriptor reaches (Table 5-4). -/
inductive Window where
  | archive (region stage : Nat)
  | stuckMap
  | loan (carrel adapter : Nat) (stage : Nat)
  | kv (session group : Nat)
  | scratch (region : Nat)
  | userScratch (buf : Nat)
  | archiveOf (mask : Nat)
  deriving DecidableEq, Repr

/-- A gather descriptor (R110). -/
structure Desc where
  win : Window
  base : Nat
  rowLen : Nat
  stride : Nat
  rows : Nat
  write : Bool
  deriving DecidableEq, Repr

/-- A job: its kind of Table 5-6, SCRIBE_RUN (0xE) or a proof (0xF); its region and stage; the carrel and sequence number of a
SCRIBE_RUN; the session it works for; for attention the row tile, key-value head and part (R238); the instructions of its
program's own area and its entry. -/
structure Job where
  kind : Nat
  region : Nat
  stage : Nat
  carrel : Nat
  seq : Nat
  session : Nat
  tile : Nat
  kv : Nat
  part : Nat
  first : Nat
  last : Nat
  entry : Nat
  deriving DecidableEq, Repr

/-- A program on a scribe: its job, its instruction index, how many instructions it has executed. -/
structure Prog where
  job : Job
  pc : Nat
  count : Nat
  deriving DecidableEq, Repr

/-- A gather or scatter that has not completed: the job that started it, its descriptor as loaded for that job, destination or source
address in the shelf store, rows. -/
structure Transfer where
  isGather : Bool
  job : Job
  desc : Desc
  addr : Nat
  rows : List Nat
  deriving DecidableEq, Repr

/-- One scribe: index registers, descriptors, the program that runs, a suspended SCRIBE_RUN with its index registers, jobs that are ready,
transfers outstanding, the carrel whose SCRIBE_RUN last loaded the run area. -/
structure Scribe where
  x : Sparse Nat
  desc : Sparse (Option Desc)
  run : Option Prog
  suspended : Option Prog
  savedX : Sparse Nat
  ready : List Job
  xfers : List Transfer
  area : Option Nat
  deriving DecidableEq, Repr

def freshScribe : Scribe := { x := [], desc := [], run := none, suspended := none, savedX := [], ready := [], xfers := [], area := none }

/-! ### A pass in flight (01, 04, 05, 06, 11) -/

/-- A value with its poison bit (R83). -/
structure PVal where
  val : W32
  bad : Bool
  deriving DecidableEq, Repr

/-- A leaf: what a shelf's exit gives for one chain and one vector (R80, R82): the totals read out, the analogue results, and
the outlier and stuck-cell term of each column that has one (R118), kept apart for the wide merge (R89). -/
structure Leaf where
  totals : List Int
  y : List PVal
  term : List (Option PVal)
  deriving DecidableEq, Repr

/-- An outlier pair: module shelf, chain, channel of the chain's K range (R116). -/
structure OPair where
  shelf : Nat
  chain : Nat
  chan : Nat
  deriving DecidableEq, Repr

/-- A stage that a pass has begun: its inputs before quantisation (by vector, then channel), the outlier sets, the scales and
quantised channels of each vector, how many strikes each folio has made for it (key: folio), and the vectors whose inputs met an error on their way
(R393). -/
structure StageRun where
  stage : Nat
  inputs : List (List W32)
  mainSet : List OPair
  spillSet : List OPair
  excessSet : List OPair
  scales : List W32
  codes : List (List Int)
  struck : Sparse Nat
  bad : List Nat
  deriving DecidableEq, Repr

/-- A running softmax of one query row: maximum, sum, accumulator (R240), with poison. -/
structure Partial where
  m : W32
  l : W32
  acc : List W32
  bad : Bool
  deriving DecidableEq, Repr

/-- One vector of a pass: the session it belongs to, its position in the context, its token, whether its carrel is class N,
whether a token is to be drawn from it. -/
structure Vec where
  session : Nat
  pos : Nat
  token : Nat
  classN : Bool
  draws : Bool
  deriving DecidableEq, Repr

/-- What a page was before a session's appends of a pass in flight (R236): its epochs and POISON, and the lines (keys of `kv.bad`) that the
appends poisoned. -/
structure AppendMark where
  session : Nat
  hall : Nat
  page : Nat
  first : Nat
  last : Nat
  poison : Bool
  lines : List Nat
  deriving DecidableEq, Repr

/-- A pass of a region in flight: the command that began it (stream 2,048: a DISPATCH), the carrel it is of, its number, PASS_ID and epoch, its sessions and
vectors; what it holds fixed (integration window and shortest period of each hall, recipes, whether the archive copy is resident, the hold budget in µs); the current stage and what the
stages have computed (leaves, sums of the trees, outputs); attention (jobs not dealt, sessions whose keys and values are
appended, partials); faults of its programs (shelf, job); selections drawn; completion flags; sessions dropped as late
or poisoned; whether the hold budget is spent; squared norms for the watch (stage, row sums); what appended pages were before; the page formats
that each session's attention has read (R237). -/
structure Pass where
  region : Nat
  stream : Nat
  cmd : Nat
  carrel : Nat
  number : Nat
  passId : Nat
  epoch : Nat
  sessions : List Nat
  vecs : List Vec
  window : List Nat
  floor : List Nat
  budgetUs : Nat
  recipes : List Recipe
  archive : Bool
  stage : Option Nat
  stages : Sparse (Option StageRun)
  leaves : Sparse (Option Leaf)
  nodes : Sparse (Option (List PVal))
  outs : Sparse (Option (List PVal))
  attnReady : List Job
  appended : List (Nat × Nat)
  parts : Sparse (Option (List Partial))
  attn : Sparse (Option (List (List PVal)))
  faults : List (Nat × Job)
  drawn : List (Nat × Option Nat)
  flags : Nat
  late : List Nat
  poisoned : List Nat
  budgetSpent : Bool
  norms : List (Nat × List W32)
  marks : List AppendMark
  formats : List (Nat × Nat)
  deriving DecidableEq, Repr

/-- A folio as it served a sampled pass: its key, first channel within the chain, k_f, e_f + k_f, age, and what its levels and
its stuck map were. -/
structure SFolio where
  key : Nat
  base : Nat
  k : Nat
  ek : Nat
  age : Nat
  content : Content
  stuckMap : List StuckCell
  deriving DecidableEq, Repr

/-- A class-S check that has been sampled and has not completed (R149 to R151): where, for which carrel and pass, on which class-S
pass of the region, under which parameters (class-S passes since, S_LAG, S_Z, temperature, window, width), the folios, and by vector the quantised
activations of the chain and the 64 totals. -/
structure SCheck where
  region : Nat
  shelf : Nat
  chain : Nat
  colGroup : Nat
  stage : Nat
  carrel : Nat
  passNo : Nat
  epoch : Nat
  passed : Nat
  lag : Nat
  z : Nat
  temp : Int
  window : Nat
  width : Nat
  folios : List SFolio
  codes : List (List Int)
  totals : List (List Int)
  deriving DecidableEq, Repr

/-- What vigilance keeps of a region: its class counters, the norm values of each watched stage with the epochs of their passes
(newest first), the
value recorded at accession, the free-value counter at its last bind, which names the draw of each shelf's phase (R147 to R154, log entry 15). -/
structure Vigilance where
  sCount : Nat
  nCount : Nat
  norms : Sparse (List (Nat × W32))
  recorded : Sparse W32
  drawn : Nat
  checks : List SCheck
  deriving DecidableEq, Repr

def freshVigilance : Vigilance :=
  { sCount := 0, nCount := 0, norms := [], recorded := [], drawn := 0, checks := [] }

/-! ### Intake and commands (12) -/

/-- Where a command stands: consumed and waiting, begun, finished and awaiting its seal, sealed (R280, R281). -/
inductive Phase where
  | waiting | begun | finished | sealed
  deriving DecidableEq, Repr

/-- One result entry (Table 12-6) and its place in the result buffer. -/
structure Entry where
  idx : Nat
  session : Nat
  token : Nat
  position : Nat
  status : Nat
  deriving DecidableEq, Repr

/-- A consumed command: its stream (a carrel, or 1,024 for PF1), sequence number, tag, opcode, IRQ flag, body; where it
stands; what its completion will carry (Table 12-7); victims whose swap-out failed for it (R261); the region of a session that it
has closed (R155). -/
structure Cmd where
  stream : Nat
  seq : Nat
  tag : Nat
  op : Nat
  irq : Bool
  body : Bytes
  phase : Phase
  status : Nat
  flags : Nat
  count : Nat
  value : Nat
  pass : Nat
  entries : List Entry
  passesLeft : Nat
  aborted : Bool
  abortedBy : List Nat
  fetched : Bytes
  age : Nat
  skip : List Nat
  closed : Option Nat
  deriving DecidableEq, Repr

/-- A stream: the blocks of its aperture, whether it is halted, its ring index and phase, records since the last
vector-0 message, times a RESYNC was ignored. -/
structure Stream where
  blocks : Sparse Block
  halted : Bool
  index : Nat
  phase : Bool
  unsignalled : Nat
  deriving DecidableEq, Repr

def freshStream : Stream := { blocks := [], halted := false, index := 0, phase := true, unsignalled := 0 }

/-- What a carrel keeps beyond its registers: the next pass number and the durable limit (R17, R403), the priority in
force when a RECIPE_SET changed it (R38), fields of the bound entry that still wait for a pass boundary (Table 2-7). -/
structure CarrelState where
  nextPass : Nat
  limit : Nat
  priority : Option Nat
  oldEntry : Option Carrel
  deriving DecidableEq, Repr

/-- L starts at 2^20 and the first number is 1 (R403, R17). -/
def freshCarrel : CarrelState := { nextPass := 1, limit := 2 ^ 20, priority := none, oldEntry := none }

/-! ### Sessions, pages and comets (11, 12) -/

/-- Where a session's pages are (R261, R263). -/
inductive Residence where
  | resident | swappingOut | comet | returning
  deriving DecidableEq, Repr

/-- An adapter binding of a session (R218, R219). -/
structure Binding where
  adapter : Nat
  addr : Nat
  len : Nat
  bulk : Bool
  wait : Bool
  deriving DecidableEq, Repr

/-- A catalogue entry (Table 11-1). -/
structure Page where
  addr : Nat
  size : Nat
  epochFirst : Nat
  epochLast : Nat
  refs : Nat
  carrel : Nat
  fill : Nat
  sizeCode : Nat
  format : Nat
  poison : Bool
  cow : Bool
  group : Nat
  region : Nat
  deriving DecidableEq, Repr

/-- A free entry. -/
def freePage : Page :=
  { addr := 0, size := 0, epochFirst := 0, epochLast := 0, refs := 0, carrel := 0, fill := 0, sizeCode := 0, format := 0
    poison := false, cow := false, group := 0, region := 0 }

/-- A session: handle, region, sampling parameters (R124), stored length, last sampled token, the status it died with, where
it is, its KV hall, its page lists (layer group, page number, catalogue index), its adapter binding and one that waits
for a pass boundary, the epoch of its last pass, its swap extent (first unit, units), the body digest and length, the step
of Table 11-3 or of its return, whether a read was issued again (R263), a comet's pages (group, page number, entry) and the EPOCH of its colophon. -/
structure Session where
  handle : Nat
  region : Nat
  topK : Nat
  temp : W32
  topP : W32
  seed : Nat
  invT : W32
  length : Nat
  lastToken : Option Nat
  dead : Option Nat
  res : Residence
  hall : Option Nat
  pages : List (Nat × Nat × Nat)
  binding : Option Binding
  nextBinding : Option (Option Binding)
  lastEpoch : Nat
  extent : Option (Nat × Nat)
  swapDigest : Bytes
  swapBody : Nat
  swapStep : Nat
  retried : Bool
  away : List (Nat × Nat × Page)
  cometEpoch : Nat
  deriving DecidableEq, Repr

/-- The carrel, slot and reuse count of a handle (R276). -/
def handleCarrel (h : Nat) : Nat := h % 1024
def handleSlot (h : Nat) : Nat := h / 1024 % 65536

/-- The key of catalogue index i of hall h. -/
def pageKey (h i : Nat) : Nat := h * 262144 + i

/-- A swap-out for a pass or for SWAP_OUT: the victim's handle, who waits (stream and sequence number), the module epoch at
its step 1 (R260, R264, Table 11-4). -/
structure Swap where
  session : Nat
  stream : Nat
  seq : Nat
  forCmd : Bool
  epoch : Nat
  deriving DecidableEq, Repr

/-! ### Accession and the archive copy (08) -/

/-- The states of Table 8-4, in the order of ACC.STATUS.STATE. -/
inductive AccPhase where
  | idle | receiving | paused | committing | flipPending | failed | restoring
  deriving DecidableEq, Repr

/-- The code ACC.STATUS.STATE shows. -/
def AccPhase.code : AccPhase → Nat
  | .idle => 0
  | .receiving => 1
  | .paused => 2
  | .committing => 3
  | .flipPending => 4
  | .failed => 5
  | .restoring => 6

/-- A weight package's manifest as the module keeps it (Table 8-1). -/
structure Manifest where
  digest : Bytes
  keyId : Bytes
  geometry : Bytes
  paired : Bool
  bodyLen : Nat
  calibOff : Nat
  stages : Nat
  model : Bytes
  serial : Nat
  shards : List (Nat × Bytes)
  deriving DecidableEq, Repr

/-- A committed package: its manifest, its blocks in logical order, its calibration section (R204, R206). -/
structure Package where
  manifest : Manifest
  blocks : List Bytes
  calib : Bytes
  deriving DecidableEq, Repr

/-- A fetch of a shard that is outstanding: the command that asked, the shard, where it lies, fetches made (R207), the tick at which it is abandoned for want
of data (R208). -/
structure ShardFetch where
  seq : Nat
  index : Nat
  addr : Nat
  bulk : Bool
  tries : Nat
  due : Nat
  deriving DecidableEq, Repr

/-- The folio that is to hold a logical folio: named shelf, slot, physical module shelf and position, the block's index,
whether it is the significance-1 folio of its pair (R189, R195). -/
structure Target where
  named : Nat
  slot : Nat
  shelf : Nat
  pos : Nat
  block : Nat
  low : Bool
  deriving DecidableEq, Repr

/-- What the module keeps of a region: its accession (R199), what is committed (R204 to R206), the archive copy, the
housing map (R194), the boot state. `oldArchive` is a copy that a flip replaced: where its named shelves were housed, passes until
it may be freed, the epoch of the flip (R205). `targets` and
`newHousing` beside an IDLE accession belong to a rehousing (R381). `archiveBad` marks a copy in which an uncorrectable error was found
(R394), `newPackage` and `newNorms` what a durable commit puts in force at its flip (R204, R205), `restore` tells a paused restore from a paused
accession (R213), `timer` the tick at which SHARD_TIMEOUT expires while no ACC_SHARD is outstanding (R208), `window` and `floor` the integration window and the shortest strike period of each hall in force since the last boundary (R52), none before the
first pass. -/
structure Acc where
  phase : AccPhase
  lastResult : Nat
  inPlace : Bool
  manifest : Option Manifest
  shards : Sparse Bytes
  fetches : List ShardFetch
  targets : List Target
  housing : Sparse Nat
  newHousing : Sparse Nat
  commitSeq : Option Nat
  generation : Nat
  intent : Bool
  package : Option Package
  newPackage : Option Package
  newNorms : List (Nat × W32)
  restore : Bool
  timer : Option Nat
  retired : Bool
  archive : Bool
  oldArchive : Option (Sparse Nat × Nat × Nat)
  offline : Bool
  ready : Bool
  holdBoot : Bool
  archiveBad : Bool
  window : List Nat
  floor : List Nat
  deriving DecidableEq, Repr

def freshAcc : Acc :=
  { phase := .idle, lastResult := 0, inPlace := false, manifest := none, shards := [], fetches := [], targets := []
    housing := [], newHousing := [], commitSeq := none, generation := 0
    intent := false, package := none, newPackage := none, newNorms := [], restore := false, timer := none, retired := false, archive := false, oldArchive := none, offline := true
    ready := false, holdBoot := false, archiveBad := false, window := [], floor := [] }

/-! ### Adapters (09) -/

/-- One stage of an adapter image (Table 9-1): how many pages of it lie in which hall's quarter of the loan shelf (R221), its bytes when
resident, whether its lines are poisoned, whether a fetch of it is wanted, how many have failed (R223), and the function on whose link its
fetch is, once issued (R224, R227). -/
structure LoanStage where
  stage : Nat
  len : Nat
  off : Nat
  placed : List (Nat × Nat)
  data : Option Bytes
  poison : Bool
  asked : Bool
  tries : Nat
  via : Option Fn
  deriving DecidableEq, Repr

/-- A loan-shelf entry (R219 to R223): the image it copies, its footprint in 4 KiB pages, the epoch of the last pass that used
it; `held` once its pages are reserved. -/
structure Loan where
  carrel : Nat
  adapter : Nat
  addr : Nat
  len : Nat
  bulk : Bool
  dtype : Nat
  rank : Nat
  alpha : W32
  stages : List LoanStage
  head : List (Nat × Nat)
  pages : Nat
  lastUse : Nat
  held : Bool
  deriving DecidableEq, Repr


/-! ### Collation (07) -/

/-- The gains of a chain (R166, R167): the applied g_j, the measured g_ref,j, the temperature of the measurement and of
the last application in 1/256 °C, consecutive fits beyond 0.10 per column (R176), and
a coupled change that waits for the pass boundary (R162) with the temperature of its measurement. -/
structure ChainGain where
  g : Sparse W32
  gRef : Sparse W32
  tRef : Int
  tApplied : Int
  wide : Sparse Nat
  next : Option (Sparse W32)
  nextRef : Int
  tempDue : Bool
  deriving DecidableEq, Repr

def freshGain : ChainGain :=
  { g := [], gRef := [], tRef := 0, tApplied := 0, wide := [], next := none, nextRef := 0, tempDue := false }

/-- The key of chain c of module shelf s. -/
def chainKey (s c : Nat) : Nat := s * 64 + c

/-- A folio's passive window (R168): vectors counted, strikes of each plane, n_i,p (key 1,024 p + i), C_j,p (key 512 p + j). -/
structure PassiveWin where
  vectors : Nat
  planes : Sparse Nat
  rows : Sparse Nat
  codes : Sparse Int
  deriving DecidableEq, Repr

def freshWin : PassiveWin := { vectors := 0, planes := [], rows := [], codes := [] }

/-- An active sweep in progress (R170): its number, the junction temperature at its start in 1/256 °C, the tick of the sweep before it, and the codes of its strikes so far, in order. -/
structure SweepRun where
  number : Nat
  temp : Int
  since : Option Nat
  codes : List (List Int)
  deriving DecidableEq, Repr

/-- A fit whose update has not been issued (R168, R171): whether a sweep gave it, the coarse- and fine-threshold errors of each column in 1/256 code. -/
structure Fit where
  sweep : Bool
  coarse : List Int
  fine : List Int
  deriving DecidableEq, Repr

/-- A tap checkpoint (R173): the active bank of every folio that had one. -/
structure TapCheckpoint where
  banks : List (Nat × Sparse W32)
  deriving DecidableEq, Repr

/-- What collation keeps: gains per chain, passive windows, sweeps, estimates k̂ and ô in 1/256 code under the active bank (key folio × 512 + column),
fits that await their tap update, the temperature of a folio's last fit in 1/256 °C, passive windows that are full and wait for their fit, the tick of a
folio's last passive fit, pass strikes since its last sweep, moments
(R173), α and ν per folio (R167, R178), checkpoints in the two NAND slots with the newest first, the request pending in each hall, the
kept temperature of each hall, deferrals already recorded. -/
structure Collation where
  gains : Sparse ChainGain
  wins : Sparse PassiveWin
  sweeps : Sparse (Option SweepRun)
  khat : Sparse W32
  offs : Sparse Int
  fits : Sparse (Option Fit)
  fitTemp : Sparse (Option Int)
  full : Sparse PassiveWin
  visited : Sparse (Option Nat)
  struck : Sparse Nat
  alpha : Sparse W32
  nu : Sparse W32
  moments : Sparse (Sparse Int)
  checkpoints : List TapCheckpoint
  request : Sparse (Option (Nat × Nat × Nat))
  temps : Sparse Int
  deferred : List Nat
  deriving DecidableEq, Repr

/-! ### The Tsuyx link (13) -/

/-- A flit of a port (Table 13-2): TYPE (1 TXN, 2 MSG, 3 LINK), its SEQ where it is sequenced, channel, payload. -/
structure Flit where
  typ : Nat
  seq : Nat
  vc : Nat
  payload : Bytes
  deriving DecidableEq, Repr

/-- One port. Receive side: last SEQ in order, whether a NACK is out, payloads accepted and not yet taken. Send side: next SEQ,
the replay buffer, flits that wait for credit, replays without advance. Per channel: flits sent, CREDITS received, buffers
freed here, the partner's buffer counts, and the channel whose count goes next. Training: codeword lock, TRAIN flits
received and the last body, the lane pair in use (0 all four, 1 lanes 0-1, 2 lanes 2-3), whether both pairs failed.
Keep-alives sent and the tick of the last good one; snapshots (next ID, the one outstanding with T1); messages sent;
admission (R312) and the reason of a refusal; injection (generator, eligible flits, flits held back); the epoch
of the last POISON_SENT; the last in-doubt range; lines delivered to a requester (tag, data, poison). -/
structure Port where
  ack : Nat
  nackOut : Bool
  inbox : List Flit
  nextSeq : Nat
  held : List Flit
  waiting : List Flit
  replays : Nat
  sent : List Nat
  credits : List Nat
  freed : List Nat
  buffers : List Nat
  crNext : Nat
  locked : Bool
  trains : Nat
  partner : Bytes
  pair : Nat
  dead : Bool
  kaSent : Nat
  kaLast : Nat
  snapNext : Nat
  snapOut : Option (Nat × Nat)
  msgSeq : Nat
  admitted : Bool
  refused : Nat
  injState : Nat
  injSeen : Nat
  injHeld : List Flit
  poisonEpoch : Option Nat
  inDoubt : Option (Nat × Nat)
  reads : List (Nat × Bytes × Nat)
  deriving DecidableEq, Repr

/-- A port that has never trained. -/
def freshPort : Port :=
  { ack := 4095, nackOut := false, inbox := [], nextSeq := 0, held := [], waiting := [], replays := 0, sent := [0, 0, 0]
    credits := [0, 0, 0], freed := [0, 0, 0], buffers := [0, 0, 0], crNext := 0, locked := false, trains := 0, partner := []
    pair := 0, dead := false, kaSent := 0, kaLast := 0, snapNext := 0, snapOut := none, msgSeq := 0, admitted := false
    refused := 0, injState := 0, injSeen := 0, injHeld := [], poisonEpoch := none, inDoubt := none, reads := [] }

/-! ### Orbits (14) -/

/-- A collective at this member (R315 to R319): its identifier; region, stage and kind, once this member has begun it; the
elements that have arrived (key source member × 2^32 + element); the mask's members whose sum this member has taken in;
this member's own value so far; whether its own contribution is ready, has gone on, is complete; the missing elements of a
timeout as vector and source. -/
structure Coll where
  tag : Nat
  region : Nat
  stage : Nat
  kind : Nat
  got : Sparse (Option PVal)
  taken : List Nat
  value : List PVal
  ready : Bool
  sent : Bool
  complete : Bool
  timedOut : Bool
  lost : List (Nat × Nat)
  deriving DecidableEq, Repr

/-- A pass of an orbit region as DISPATCH gives it (Table 14-3), with the tokens that each session brings and the local epoch of
its share, and what has come back: members done (16 the next stage), failed positions with their status, result entries. -/
structure OrbPass where
  passId : Nat
  region : Nat
  kind : Nat
  carrel : Nat
  cls : Nat
  count : Nat
  sessions : List Nat
  tokens : List Nat
  epoch : Nat
  doneBy : List Nat
  bad : List (Nat × Nat)
  results : List Bytes
  resulted : Bool
  deriving DecidableEq, Repr

/-- The last POWER REPORT of a member (Table 14-3). -/
structure MemberReport where
  inputDw : Nat
  capDw : Nat
  activity : Nat
  reasons : Nat
  deriving DecidableEq, Repr

/-- What the orbit layer keeps beyond ORB.STATUS: collectives, passes, reports by member, PACE notices (member,
collective, delay), LIMITs sent (member, collective), the LIMIT in force (ceiling, collective), members known lost, members that report the primary lost,
the side whose message was obeyed, whether an heir or moon timer runs. -/
structure OrbitSt where
  colls : List Coll
  passes : List OrbPass
  reports : Sparse (Option MemberReport)
  paced : List (Nat × Nat × Nat)
  limited : List (Nat × Nat)
  limit : Option (Nat × Nat)
  lost : List Nat
  primaryLostBy : List Nat
  ignored : List Nat
  confirming : Bool
  waitingTakeover : Bool
  leaving : Bool
  heirNamed : Option Nat
  offline : List Nat
  deriving DecidableEq, Repr

def freshOrbit : OrbitSt :=
  { colls := [], passes := [], reports := [], paced := [], limited := [], limit := none, lost := [], primaryLostBy := [], ignored := []
    confirming := false, waitingTakeover := false, leaving := false, heirNamed := none, offline := [] }

/-! ### Power (15) -/

/-- Where a scribe point change stands (Table 15-3): slewing and settling, or the idle PLL relocking. -/
inductive PointStep where
  | none | slewing | relocking
  deriving DecidableEq, Repr

/-- One hall's power state: a change in progress and its target, the change asked for after it, the tick of the last
completed change, the scribe PLL that drives; droop (stretched, until when a change waits after it, droops in the present
millisecond, lowering until); the ceilings of THERMAL, of CAP and CURRENT at the last cycle, and of the excursion cut; the guard cycles
that thermal control adds to the strike period; demand, observed activity and the scribes' busy fraction û of the
phases at hand, in 1/256; since when a limit has bound or none has; the regions whose passes are deferred, in order; the
grant of each region in 0.1 W; the active throttle reasons and since when; whether a lost PLL lock gates the clocks. -/
structure HallPower where
  step : PointStep
  target : Nat
  queued : Option Nat
  changedAt : Option Nat
  pll : Nat
  stretched : Bool
  holdUntil : Nat
  droops : List Nat
  droopUntil : Nat
  thermal : Nat
  cap : Nat
  current : Nat
  cut : Nat
  period : Nat
  demand : Nat
  activity : Nat
  need : Nat
  boundSince : Option Nat
  freeSince : Option Nat
  deferred : List Nat
  grants : List (Nat × Nat)
  since : List (Nat × Nat)
  gated : Bool
  deriving DecidableEq, Repr

def freshHall : HallPower :=
  { step := .none, target := 0, queued := none, changedAt := none, pll := 0, stretched := false, holdUntil := 0, droops := []
    droopUntil := 0, thermal := 256, cap := 256, current := 256, cut := 256, period := 0, demand := 0, activity := 0, need := 256
    boundSince := none, freeSince := none, deferred := [], grants := [], since := [], gated := false }

/-- A learned profile (R333) in units of 1/256: activity, scribe-busy fraction, and the duration in µs. -/
structure Profile where
  p : Nat
  u : Nat
  d : Nat
  deriving DecidableEq, Repr

/-- A hint (R337): who announced what, and when its window opens and ends, in ticks. -/
structure Hint where
  carrel : Nat
  region : Nat
  tag : Nat
  opens : Nat
  ends : Nat
  opened : Bool
  hit : Bool
  deriving DecidableEq, Repr

/-- The vendor's test record in the NAND store (R327): VMIN in mV by die × 8 + point, whether it is engineering grade,
the starting α of its folios. -/
structure TestRecord where
  vmin : List Nat
  eng : Bool
  alpha : W32
  deriving DecidableEq, Repr

/-- What power keeps: halls, profiles (key (region × 64 + tag) × 4 + hall), hints, the test record, operating hours per
die, G_age in force per die in µV, profiles of energy per carrel over the trailing 100 ms, the background grant per hall,
the tick an excursion began, since when the input has lain below its limits, whether an excursion's allowance has ended
because a write lowered the cap, what the last cycle measured. -/
structure PowerUnit where
  halls : Sparse HallPower
  profiles : Sparse (Option Profile)
  hints : List Hint
  record : Option TestRecord
  hours : Sparse Nat
  guardUv : Sparse Nat
  energy : Sparse Nat
  background : Sparse Nat
  excursion : Option Nat
  belowSince : Option Nat
  capPending : Bool
  last : BrokerIn
  deriving DecidableEq, Repr

/-! ### Power states (16) -/

/-- A read that is held for a domain (R350): whether it came through the standby port, function, offset, width, domain, the
PST.STATUS.STATE that it found. -/
structure HeldRead where
  standby : Bool
  fn : Fn
  off : Nat
  width : Nat
  domain : Nat
  found : Nat
  deriving DecidableEq, Repr

/-- Power-state machinery: the depth reached (0 Run, 1 Idle, 2 Sleep, 3 Deep sleep, 4 Off or in reset), domains awake in Sleep or Deep
sleep (1 registers and intake, 2 curator, 4 + h hall h), those that a wake has reached, held reads and held writes (offsets from
2^32 on: an aperture; from 2^33 on: the mailbox), the always-on count at the entry; the pins
PWR_GOOD, THERM_TRIP_N, WAKE_N and SB_ALERT_N (true: asserted); whether the module is in reset and with which cause its next boot comes
(0: none, it stays Off), the wake source that the always-on domain recorded; thermal trips of the last ten minutes by always-on count, the trip
latch, the lockout after a second trip (R422, R423); whether V44_IN and VSTBY_3V3 are in range. -/
structure PowerSt where
  depth : Nat
  awake : List Nat
  waking : List Nat
  reads : List HeldRead
  writes : List (Fn × Nat × Bytes)
  sleptAon : Nat
  pwrGood : Bool
  thermTrip : Bool
  wakeN : Bool
  sbAlert : Bool
  inReset : Bool
  cause : Nat
  wakeSrc : Nat
  tripAt : List Nat
  tripped : Bool
  lockout : Bool
  v44 : Bool
  vstby : Bool
  deriving DecidableEq, Repr

/-! ### Proofs, maintenance, taint (18) -/

/-- A maintenance window (R383): its regions, whether it covers the module, its limit, the tick it opened, whether its regions are
quiet, the folios walked and those that failed step 1, by folio key; for a module window the HBM units (hall × 2^40 +
address) and how many lanes fail their steps. -/
structure MaintWin where
  regions : List Nat
  module : Bool
  limitMs : Nat
  opened : Nat
  quiet : Bool
  walked : List Nat
  failed : List Nat
  hbmBad : List Nat
  lanesBad : Nat
  deriving DecidableEq, Repr

/-- A proof of the library (R378). -/
structure ProofDef where
  id : Nat
  cls : Nat
  jobs : Nat
  answer : Bytes
  deriving DecidableEq, Repr

/-- A hall's rotation (R379): the unit under proof (2 s scribe s, 2 s + 1 shelf sequencer s, 256 the hall sequencer),
the proof and job reached, whether the proof runs its second time, units moved to the head, forced units. -/
structure Rotation where
  unit : Nat
  proof : Nat
  job : Nat
  retry : Bool
  head : List Nat
  forced : List Nat
  deriving DecidableEq, Repr

def freshRotation : Rotation := { unit := 0, proof := 0, job := 0, retry := false, head := [], forced := [] }

/-- A fault signature record (R395, R396): SEQ and the CBOR bytes. -/
structure Fsr where
  seq : Nat
  body : Bytes
  deriving DecidableEq, Repr

/-- A taint window that has not ended (R388): its regions, the epochs of its start and of the detection, whether it is bounded, the
module shelf (a hall h whose sequencer failed is 512 + h), chain, column group and stage of the detection, and its class: 1
class S, 2 class N, 3 proof, 4 walk. -/
structure Taint where
  regions : List Nat
  start : Nat
  detected : Nat
  bounded : Bool
  shelf : Nat
  chain : Nat
  group : Nat
  stage : Nat
  cls : Nat
  deriving DecidableEq, Repr

/-- A localisation in progress (R387): where, passes recorded, codes beyond threshold per logical slot. -/
structure Localisation where
  region : Nat
  shelf : Nat
  chain : Nat
  group : Nat
  passes : Nat
  beyond : Sparse Nat
  deriving DecidableEq, Repr

/-- What proofs, walks and containment keep. `proofEpoch` and
`proofTick` say when a unit's last set completed (key hall × 257 + unit), `gone` the folios that left service at a window's close (R384), `heldWalks` the shelves on which a walk was
abandoned, each with the spare that it has freed since (R72), and `clean`
the epoch of the last clean check (key shelf, chain, group); failed shelves and halls stand in the NAND store. -/
structure Containment where
  library : List ProofDef
  rotations : Sparse Rotation
  proofEpoch : Sparse Nat
  proofTick : Sparse Nat
  gone : List Nat
  heldWalks : List (Nat × Option Nat)
  clean : Sparse (Option Nat)
  failedShelves : List Nat
  failedHalls : List Nat
  withheld : List Nat
  window : Option MaintWin
  taints : List Taint
  locals : List Localisation
  fsr : List Fsr
  fsrNext : Nat
  fsrCursor : Nat
  taintAt : Nat
  carrelPasses : List (Nat × Nat × Nat × Nat × List Nat)
  minute : Sparse Nat
  deriving DecidableEq, Repr

/-! ### The rest of the module -/

/-- Local counts (R403): curator tick, always-on count with its fraction in 1/15,625 cycles, module epoch, boots. -/
structure Clock where
  tick : Nat
  aon : Nat
  frac : Nat
  epoch : Nat
  boots : Nat
  cause : Nat
  bootMs : Nat
  watchdogs : List Nat
  deriving DecidableEq, Repr

/-- The curator: firmware, mailbox, signing, converters by die, grade and die revisions, serial of the identity. -/
structure Curator where
  fw : Firmware
  mbx : Mailbox
  sig : Signing
  conv : Sparse Converter
  serial : Nat
  revs : List Nat
  durable : List Rec
  deriving DecidableEq, Repr

/-- Structure images: what the NAND store holds, the image bound, a bind that waits for quiesce, recipes in force that a
RECIPE_SET replaced (R92) and changes that wait for a boundary. -/
structure Images where
  store : ImgStore
  bound : Image
  op : Option BindOp
  recipes : List Recipe
  nextRecipes : List Recipe
  deriving DecidableEq, Repr

/-- The conversions that a region's folios made at one tick, and how many of them saturated (R56). -/
structure SatCount where
  tick : Nat
  sat : Nat
  conv : Nat
  deriving DecidableEq, Repr

/-- The arrays: physical folios by `folioKey`, ledgers by `chainKey`, and for R56 the counts of each region over the last 10 s, oldest first, and the
regions whose last interval exceeded the rate. -/
structure Arrays where
  folios : Sparse Folio
  ledgers : Sparse Ledger
  sats : Sparse (List SatCount)
  satOver : List Nat
  deriving DecidableEq, Repr

/-- A run of SCRIBE_RUN (R127, R128): carrel, sequence number, the shelves it named, those that have not reached HALT, KiB of each D12
buffer and the number that tells its buffers from those of other runs, its payload. -/
structure Run where
  stream : Nat
  seq : Nat
  shelves : List Nat
  left : List Nat
  scratch : Nat
  buf : Nat
  data : Bytes
  deriving DecidableEq, Repr

/-- The two rotary tables of R232 in a hall's store, for one ROPE_BASE, ROPE_SCALE and R: cosine and sine, 512 coarse rows and then 256 fine rows of
R ÷ 2 entries each, with the poisoned 64-byte lines of the eight entries each. -/
structure HallTable where
  hall : Nat
  base : Nat
  scale : Nat
  dims : Nat
  entries : List (W32 × W32)
  bad : List Nat
  deriving DecidableEq, Repr

/-- Scribes: units by module shelf, tiles by `tileKey`, shelf stores (key shelf × 2^20 + byte), poisoned 64-byte lines
(that key / 64), the runs of SCRIBE_RUN, TILE_READ and TILE_WRITE commands that wait for a pass boundary with
their data, the scratch bytes behind D4 (key region × 2^40 + byte) and D12 (key (16 + shelf) × 2^40 + byte) with their
poisoned lines (that key / 64), and the tables in the hall stores. -/
structure Scribes where
  unit : Sparse Scribe
  tiles : Sparse Tile
  store : Sparse Byte
  linePoison : Sparse Bool
  hbmPoison : Sparse Bool
  runs : List Run
  tileCmds : List (Nat × Nat × Bytes)
  hbm : Sparse Byte
  tables : List HallTable
  deriving DecidableEq, Repr

/-- Passes in flight, vigilance by region, and the detections outstanding: hall, region, bit of SCR.VIG_STATUS (R155). -/
structure Passes where
  live : List Pass
  vig : Sparse Vigilance
  detections : List (Nat × Nat × Nat)
  deriving DecidableEq, Repr

/-- Sessions, catalogue entries by `pageKey`, HBM bytes (key hall × 2^40 + address), poisoned 64-byte lines of HBM (that
key / 64), reuse counts by slot, swaps in progress. -/
structure Kv where
  sessions : List Session
  pages : Sparse Page
  mem : Sparse Byte
  bad : Sparse Bool
  reuse : Sparse Nat
  swaps : List Swap
  deriving DecidableEq, Repr

/-- The intake: streams and carrels by number, the commands consumed in order. -/
structure Intake where
  streams : Sparse Stream
  carrels : Sparse CarrelState
  cmds : List Cmd
  deriving DecidableEq, Repr

/-- The host side of the two ports (R286): links, functions with bus mastering, the tick the active port was lost, where BULK transfers
go, the MSI-X table words that the hosts have written (key function × 16 + word). -/
structure HostPorts where
  linkA : Bool
  linkB : Bool
  master : List Fn
  lostAt : Option Nat
  bulkToPf1 : Bool
  msixTab : Sparse W64
  deriving DecidableEq, Repr

/-- A write the module makes into host memory: function, address, bytes. -/
structure Dma where
  fn : Fn
  addr : Nat
  bytes : Bytes
  deriving DecidableEq, Repr

/-- What the module has sent out, newest first: DMA writes, MSI-X messages (function, vector), those that wait for
their vector to lose its mask (the pending bits), flits by port, the
answers to reads (function, offset, bytes). -/
structure Outputs where
  dma : List Dma
  msix : List (Fn × Nat)
  msixPend : List (Fn × Nat)
  flits : List (Nat × Bytes)
  reads : List (Fn × Nat × Bytes)
  deriving DecidableEq, Repr

/-- The module. -/
structure State where
  regs : Sparse W64
  clk : Clock
  ann : Annals
  cur : Curator
  img : Images
  arr : Arrays
  col : Collation
  scr : Scribes
  run : Passes
  acc : Sparse Acc
  loans : List Loan
  kv : Kv
  itk : Intake
  tsx : Sparse Port
  orb : OrbitSt
  pwr : PowerUnit
  pst : PowerSt
  con : Containment
  hst : HostPorts
  out : Outputs
  free : Nat
  pending : List Instr
  deriving DecidableEq, Repr

/-- What a step answers. -/
abbrev Out : Type := Host.Outcome State Fault Refusal

/-! ### Reset -/

/-- The vendor's test record of a fresh module: VMIN as Table 15-1's VSET at 0 h less 10 mV for every die (log entry 21). -/
def freshRecord : TestRecord :=
  { vmin := (List.replicate 5 [770, 740, 710, 690, 670, 650, 630, 590]).flatten, eng := false, alpha := 0x3A03126F }

/-- The curator at the start of life: slot A holds a confirmed firmware package (log entry 20). -/
def freshCurator : Curator :=
  { fw := { slotA := some { svn := 1, digest := List.replicate 32 0, confirmed := true }, slotB := none, running := 0, nextSlot := 0
            nextTrial := false, trial := false, recovery := false, floor := 0 }
    mbx := { blocks := [], req := none, response := [], discarded := 0 }
    sig := { nextLeaf := 0, limit := 0, tokens := 16 }
    conv := [], serial := 0, revs := [0xB0, 0xB0, 0xB0, 0xB0, 0xB0], durable := [] }

/-- A converter that has done nothing. -/
def freshConverter : Converter := { busy := none, set := 0, window := 0, waiting := [], inputs := [], outside := [], refFailed := false }

/-- No collation state. -/
def freshCollation : Collation :=
  { gains := [], wins := [], sweeps := [], khat := [], offs := [], fits := [], fitTemp := [], full := [], visited := [], struck := [], alpha := [], nu := [], moments := [], checkpoints := [], request := []
    temps := [], deferred := [] }

/-- No containment state: nothing failed, no window open. -/
def freshContainment : Containment :=
  { library := [], rotations := [], proofEpoch := [], proofTick := [], gone := [], heldWalks := [], clean := [], failedShelves := [], failedHalls := [], withheld := []
    window := none, taints := [], locals := [], fsr := [], fsrNext := 0, fsrCursor := 0, taintAt := 0, carrelPasses := []
    minute := [] }

/-- The power unit before any broker cycle. -/
def freshPower : PowerUnit :=
  { halls := [], profiles := [], hints := [], record := some freshRecord, hours := [], guardUv := [], energy := []
    background := [], excursion := none, belowSince := none, capPending := false
    last := { inputDw := 0, inputDa := 0, inputCv := 0, fixedDw := 0, lossDw := 0, predictedDw := 0, halls := [], energy := [] } }

/-- Off, with the standby rail present and no input yet. -/
def freshPowerSt : PowerSt :=
  { depth := 4, awake := [], waking := [], reads := [], writes := [], sleptAon := 0, pwrGood := false, thermTrip := false, wakeN := false
    sbAlert := false, inReset := false, cause := 0, wakeSrc := 0, tripAt := [], tripped := false, lockout := false, v44 := false
    vstby := true }

/-- The module right after its first reset: every register at the reset value of its map, nothing stored, no input
applied, no command waiting (log entry 20). -/
def State.reset : State :=
  { regs := []
    clk := { tick := 0, aon := 0, frac := 0, epoch := 0, boots := 0, cause := 0, bootMs := 0, watchdogs := [] }
    ann := { lastSeq := 0, ring := [], counts := [], flagged := [] }
    cur := freshCurator
    img := { store := { slot0 := none, slot1 := none, active := none, former := false, anchor := none, floor := 0 }
             bound := plainImage, op := none, recipes := [], nextRecipes := [] }
    arr := { folios := [], ledgers := [], sats := [], satOver := [] }
    col := freshCollation
    scr := { unit := [], tiles := [], store := [], linePoison := [], hbmPoison := [], runs := [], tileCmds := [], hbm := [], tables := [] }
    run := { live := [], vig := [], detections := [] }
    acc := []
    loans := []
    kv := { sessions := [], pages := [], mem := [], bad := [], reuse := [], swaps := [] }
    itk := { streams := [], carrels := [], cmds := [] }
    tsx := []
    orb := freshOrbit
    pwr := freshPower
    pst := freshPowerSt
    con := freshContainment
    hst := { linkA := false, linkB := false, master := [], lostAt := none, bulkToPf1 := false, msixTab := [] }
    out := { dma := [], msix := [], msixPend := [], flits := [], reads := [] }
    free := 0
    pending := [] }

end Sys2Proof.Machine
end

