-- ==== Sys2Proof/Machine/Ops.lean ====
section
/-!
DEFINITION. Sys2Proof/Machine/Ops.lean: the named operations over the module's state that many commands share: registers
(R6 to R8), the annals (R367 to R370), DMA and interrupts (R269, R284), free values.
-/
namespace Sys2Proof.Machine

/-! ### Registers -/

/-- The register at an address. -/
def rget (s : State) (a : Nat) : W64 := sget regReset s.regs a

/-- The module with the register at an address holding `v`. -/
def rset (s : State) (a : Nat) (v : W64) : State := { s with regs := sset regReset s.regs a v }

/-- A field of a register. -/
def fget (s : State) (f : FieldRef) : Nat := fieldOf (rget s f.addr) f.lo f.w

/-- The module with a field holding the low bits of `x`. -/
def fset (s : State) (f : FieldRef) (x : Nat) : State := rset s f.addr (withField (rget s f.addr) f.lo f.w x)

/-- The module with a counter field counted up by `n`, saturating at its all-ones value. Where a register's map does not say what its counter does
there (SCR.INT_SAT, R129), it saturates like the others (DESIGN CHOICE, log entry 56). -/
def fbump (s : State) (f : FieldRef) (n : Nat) : State := rset s f.addr (bumpField (rget s f.addr) f.lo f.w n)

/-- A Boolean as a field value. -/
def bitOf (b : Bool) : Nat := if b then 1 else 0

/-! ### Free values -/

/-- A value that the manual leaves undefined, and the module with the draw spent. -/
def freeDraw (s : State) : Nat × State := (Config.freeNat s.free, { s with free := s.free + 1 })

/-! ### Annals -/

/-- OBJECT as a number (Table 17-6). -/
def objWord (o : Obj) : Nat :=
  o.region.getD 0xF % 16 + (o.carrel.getD 0x3FF % 1024) * 2 ^ 4 + (o.shelf.getD 0x7F % 128) * 2 ^ 14 +
    (o.folio.getD 0x7F % 128) * 2 ^ 21 + (o.die.getD 7 % 8) * 2 ^ 28 + (o.session.getD 0xFFFFFFFF % 2 ^ 32) * 2 ^ 32

/-- The 64 bytes of a record (Table 17-6). -/
def recBytes (r : Rec) : Bytes :=
  leBytes 2 r.kind ++ leBytes 1 r.sev ++ leBytes 1 (bitOf r.dropped) ++ leBytes 4 r.boot ++ leBytes 8 r.seq ++
    leBytes 8 r.tick ++ leBytes 6 r.epoch ++ leBytes 2 0 ++ leBytes 8 (objWord r.obj) ++ leBytes 8 r.a0 ++ leBytes 8 r.a1 ++
    leBytes 8 r.a2

/-- The count of a kind in the present second (R369). -/
def kindCount (a : Annals) (k : Nat) : KindCount :=
  (a.counts.find? fun c => c.kind == k).getD { kind := k, written := 0, held := 0 }

/-- The counts with one kind's replaced. -/
def setCount (a : Annals) (c : KindCount) : List KindCount := c :: a.counts.filter fun x => x.kind != c.kind

/-- How many records the RAM ring holds (R368). -/
def ringSize : Nat := 8192

/-- The list without its last element that satisfies `p`: rings stand with the newest first, so this is the oldest. -/
def dropLast? {α : Type} (p : α → Bool) : List α → Option (List α)
  | [] => none
  | x :: xs => match dropLast? p xs with
    | some ys => some (x :: ys)
    | none => if p x then some xs else none

/-- Room for one more record (R369): a durable record leaves the ring unseen; while NAND writes lag, the oldest INFO record
goes first, then the oldest NOTICE, then the oldest WARNING; ERROR and FATAL stay. Answers whether a record was dropped. -/
def makeRoom (durable : Nat) (ring : List Rec) : List Rec × Bool :=
  if ring.length < ringSize then (ring, false)
  else match dropLast? (fun r : Rec => decide (r.seq ≤ durable)) ring with
    | some rs => (rs, false)
    | none => match dropLast? (fun r : Rec => r.sev == 0) ring with
      | some rs => (rs, true)
      | none => match dropLast? (fun r : Rec => r.sev == 1) ring with
        | some rs => (rs, true)
        | none => match dropLast? (fun r : Rec => r.sev == 2) ring with
          | some rs => (rs, true)
          | none => (ring, false)

/-- A record goes into the ring: SEQ rises by one (R367), ALERT and SB_ALERT_N follow MIN_SEVERITY (R370). -/
def writeRec (s : State) (kind sev : Nat) (obj : Obj) (a0 a1 a2 : Nat) : State :=
  let seq := s.ann.lastSeq + 1
  let r : Rec := { kind := kind, sev := sev, dropped := s.ann.flagged.elem kind, boot := s.clk.boots % 2 ^ 32, seq := seq
                   tick := s.clk.tick, epoch := s.clk.epoch, obj := obj, a0 := a0 % 2 ^ 64, a1 := a1 % 2 ^ 64, a2 := a2 % 2 ^ 64 }
  let room := makeRoom (fget s Reg.ANN_DURABLE_SEQ.SEQ) s.ann.ring
  let s1 := { s with ann := { s.ann with lastSeq := seq, ring := r :: room.1, flagged := s.ann.flagged.filter (· != kind) } }
  let s2 := fset s1 Reg.ANN_LAST_SEQ.SEQ seq
  let s3 := if room.2 then fbump s2 Reg.ANN_DROPPED.COUNT 1 else s2
  if fget s Reg.ANN_CTRL.MIN_SEVERITY ≤ sev
  then fset { s3 with pst := { s3.pst with sbAlert := true } } Reg.ANN_CTRL.ALERT 1 else s3

/-- The curator records something (R369): below ERROR at most 100 records of one kind a second; the rest are counted. -/
def annal (s : State) (kind sev : Nat) (obj : Obj) (a0 a1 a2 : Nat) : State :=
  if sev < 3 then
    let c := kindCount s.ann kind
    if c.written < 100
    then writeRec { s with ann := { s.ann with counts := setCount s.ann { c with written := c.written + 1 } } } kind sev obj a0 a1 a2
    else fbump { s with ann := { s.ann with counts := setCount s.ann { c with held := c.held + 1 } } } Reg.ANN_DROPPED.COUNT 1
  else writeRec s kind sev obj a0 a1 a2

/-- An ignored write (R8, R427): ARG0 the offset, ARG1 the value. -/
def ignored (s : State) (off value : Nat) : State := annal s 0x0C00 1 {} off value 0

/-! ### Power states (R344, R349, R350) -/

/-- Is the module without its input power, or in a reset that its boot has not ended: no register, no aperture answers. -/
def unpowered (s : State) : Bool := decide (4 ≤ s.pst.depth)

/-- Is the module in Sleep or Deep sleep with no wake begun: the module oscillator is stopped? -/
def asleep (s : State) : Bool :=
  decide (s.pst.depth = 2 ∨ s.pst.depth = 3) && (fget s Reg.PST_STATUS.STATE == 2 || fget s Reg.PST_STATUS.STATE == 3)

/-- Is a domain ready: always in Run and Idle, and in Sleep and Deep sleep once it has woken (R349, R350)? -/
def domainReady (s : State) (d : Nat) : Bool := decide (s.pst.depth < 2) || s.pst.awake.elem d

/-- Do a hall's clocks stand (R344): in Sleep and Deep sleep until a wake has reached it, in Off and in reset? No background activity runs
there. -/
def hallOff (s : State) (h : Nat) : Bool := !domainReady s (4 + h)

/-- The module returns to Run at a first access from Idle (R345). -/
def leaveIdle (s : State) : State :=
  if s.pst.depth = 1
  then fset (fset { s with pst := { s.pst with depth := 0 } } Reg.PST_STATUS.STATE 0) Reg.PST_STATUS.HALL_AWAKE 0xF
  else s

/-! ### Time -/

/-- Always-on cycles per microsecond, as a fraction of 15,625: 32,768 Hz is 512 / 15,625 cycles a microsecond (R403). -/
def aonPerUs : Nat := 512

/-- How many halls have throttle reason `c` active (PWR.HALL_STATUS.REASONS, bit c − 1). -/
def throttledHalls (s : State) (c : Nat) : Nat :=
  ((List.range 4).filter fun h => (fget s (Reg.PWR_HALL_STATUS.REASONS h)).testBit (c - 1)).length

/-- A microsecond's share of PWR.THR_US (R340): each active reason accrues once for each hall in which it is active. -/
def accrueReasons (s : State) : State :=
  [1, 2, 3, 4, 5, 6, 7].foldl (fun t c => fbump t (Reg.PWR_THR_US.COUNT c) (throttledHalls s c)) s

/-- One microsecond passes with no command: the curator's counter counts, and the always-on counter by the 32,768 Hz share
of a microsecond with the fraction kept (R403). In Sleep, Deep sleep and Off (until a wake begins) the curator's counter stands; the always-on
counter needs the standby rail. Active throttle reasons accrue (R340). -/
def idleTick (s : State) : State :=
  let f := s.clk.frac + aonPerUs
  let running := !unpowered s && !asleep s
  let s1 := if running then accrueReasons s else s
  { s1 with clk := { s.clk with
      tick := if running then (s.clk.tick + 1) % 2 ^ 64 else s.clk.tick
      aon := if s.pst.vstby then (s.clk.aon + f / 15625) % 2 ^ 48 else s.clk.aon
      frac := if s.pst.vstby then f % 15625 else s.clk.frac } }

/-! ### Ports, DMA, interrupts -/

/-- Does the bound image put the ports in standby mode (R268)? -/
def standbyMode (s : State) : Bool := s.img.bound.orbit.pcieMode == 1

/-- Is a port's link up? Port B for `true`. -/
def linkUp (s : State) (b : Bool) : Bool := if b then s.hst.linkB else s.hst.linkA

/-- The port that serves a function's DMA (Table 12-1): in joined mode port B for PF2 and port A for the others; in standby
mode the active port. -/
def portOf (s : State) (fn : Fn) : Bool :=
  if standbyMode s then fget s Reg.INT_PORT_STATUS.ACTIVE == 1 else fn == .pf2

/-- Can a function move data now (R286): its link is up and the host has enabled its bus mastering. -/
def fnUp (s : State) (fn : Fn) : Bool := linkUp s (portOf s fn) && s.hst.master.elem fn

/-- A DMA write into host memory; it is dropped while the function cannot move data (R286). -/
def dmaWrite (s : State) (fn : Fn) (addr : Nat) (bytes : Bytes) : State :=
  if fnUp s fn then { s with out := { s.out with dma := ⟨fn, addr % 2 ^ 64, bytes⟩ :: s.out.dma } } else s

/-- An MSI-X table word at reset: of each vector's two, the second holds the vector control, whose Mask bit is set (log entry 7). -/
def msixReset (k : Nat) : W64 := if k % 2 = 1 then 0x100000000 else 0

/-- A function's number in the keys of the MSI-X tables. -/
def fnKey : Fn → Nat
  | .vf n => n
  | .pf1 => 1024
  | .pf0 => 1025
  | .pf2 => 1026

/-- A word of a function's MSI-X table. -/
def msixWord (s : State) (k : Nat) : W64 := sget msixReset s.hst.msixTab k

/-- Is a vector masked in its table? -/
def msixMasked (s : State) (fn : Fn) (v : Nat) : Bool := (msixWord s (fnKey fn * 16 + 2 * v + 1)).getLsbD 32

/-- An MSI-X message goes out. -/
def msixSend (s : State) (fn : Fn) (v : Nat) : State := { s with out := { s.out with msix := (fn, v) :: s.out.msix } }

/-- An MSI-X message is raised (R284): while the vector is masked its pending bit is set instead. -/
def msix (s : State) (fn : Fn) (v : Nat) : State :=
  if !fnUp s fn then s
  else if !msixMasked s fn v then msixSend s fn v
  else { s with out := { s.out with msixPend := if s.out.msixPend.elem (fn, v) then s.out.msixPend else (fn, v) :: s.out.msixPend } }

/-- The pending bits of a function, bit v for vector v. -/
def msixPending (s : State) (fn : Fn) : Nat := ((List.range 8).map fun v => if s.out.msixPend.elem (fn, v) then 2 ^ v else 0).sum

/-- A vector that has lost its mask: a message that is pending goes out and its pending bit clears. -/
def msixRelease (s : State) (fn : Fn) (v : Nat) : State :=
  if s.out.msixPend.elem (fn, v) && fnUp s fn && !msixMasked s fn v
  then msixSend { s with out := { s.out with msixPend := s.out.msixPend.filter (· != (fn, v)) } } fn v
  else s

/-- The function of a stream: carrel n is VF n + 1, and 1,024 stands for PF1 (R268). -/
def streamFn (c : Nat) : Fn := if c < 1024 then .vf c else .pf1

/-- The function that a BULK transfer uses (R227, R269). -/
def bulkFn (s : State) : Fn := if s.hst.bulkToPf1 || standbyMode s then .pf1 else .pf2

/-- Was a transfer lost with port B, so that it is issued again through PF1 (R227)? -/
def reissued (s : State) (bulk : Bool) (f : Fetch) : Bool := bulk && bulkFn s == .pf2 && f == .lost

/-! ### Carrels -/

/-- What the carrel table gives carrel n (R24), with the fields that still wait for its pass boundary (Table 2-7). -/
def carrelOf (s : State) (n : Nat) : Carrel := s.img.bound.carrel n

/-- What a carrel keeps beyond registers. -/
def carrelSt (s : State) (n : Nat) : CarrelState := sget (fun _ => freshCarrel) s.itk.carrels n

/-- The module with a carrel's kept state changed. -/
def modCarrel (s : State) (n : Nat) (f : CarrelState → CarrelState) : State :=
  { s with itk := { s.itk with carrels := smod (fun _ => freshCarrel) s.itk.carrels n f } }

/-- The entry in force for the fields that change at a carrel's pass boundary. -/
def carrelNow (s : State) (n : Nat) : Carrel := ((carrelSt s n).oldEntry).getD (carrelOf s n)

/-- The priority in force (R38, R279). -/
def priorityOf (s : State) (n : Nat) : Nat := ((carrelSt s n).priority).getD (carrelNow s n).priority

/-! ### Streams and commands -/

/-- A stream. -/
def streamOf (s : State) (c : Nat) : Stream := sget (fun _ => freshStream) s.itk.streams c

/-- The module with a stream changed. -/
def modStream (s : State) (c : Nat) (f : Stream → Stream) : State :=
  { s with itk := { s.itk with streams := smod (fun _ => freshStream) s.itk.streams c f } }

/-- Is this the unsealed command `seq` of stream `c`? -/
def Cmd.named (c seq : Nat) (k : Cmd) : Bool := k.stream == c && k.seq == seq && k.phase != .sealed

/-- The unsealed command `seq` of stream `c`. -/
def findCmd (s : State) (c seq : Nat) : Option Cmd := s.itk.cmds.find? (Cmd.named c seq)

/-- The first element that satisfies `p` changed by `f`. -/
def modFirst {α : Type} (p : α → Bool) (f : α → α) : List α → List α
  | [] => []
  | x :: xs => if p x then f x :: xs else x :: modFirst p f xs

/-- The module with that command changed. -/
def modCmd (s : State) (c seq : Nat) (f : Cmd → Cmd) : State :=
  { s with itk := { s.itk with cmds := modFirst (Cmd.named c seq) f s.itk.cmds } }

/-- The unsealed command `seq` of stream `c` if it stands in phase `ph` and carries opcode `op`. -/
def cmdIn (s : State) (c seq : Nat) (ph : Phase) (op : Nat) : Option Cmd :=
  (findCmd s c seq).filter fun k => k.phase == ph && k.op == op

/-- The command has finished with a status and a VALUE and awaits its seal. -/
def finish (s : State) (c seq status value : Nat) : State :=
  modCmd s c seq fun k => { k with phase := .finished, status := status, value := value }

/-- Commands consumed and not sealed (CAR.STATUS.OUTSTANDING). -/
def outstanding (s : State) (c : Nat) : Nat := (s.itk.cmds.filter fun k => k.stream == c && k.phase != .sealed).length

/-- Completion status codes (Table 12-8). -/
def stOk : Nat := 0x00
def stAborted : Nat := 0x01
def stAlready : Nat := 0x02
def stPoisoned : Nat := 0x03
def stTorn : Nat := 0x04
def stLate : Nat := 0x05
def stOffline : Nat := 0x06
def stPreempted : Nat := 0x07
def stNoSpace : Nat := 0x08
def stFormat : Nat := 0x09
def stVigil : Nat := 0x0A
def stPeerLost : Nat := 0x0B
def stTimeout : Nat := 0x0C
def stDenied : Nat := 0x0D

/-! ### Regions -/

/-- A region's accession and package. -/
def accOf (s : State) (r : Nat) : Acc := sget (fun _ => freshAcc) s.acc r

/-- The module with a region's accession changed. -/
def modAcc (s : State) (r : Nat) (f : Acc → Acc) : State := { s with acc := smod (fun _ => freshAcc) s.acc r f }

/-- Does PORT_ROLES make this an orbit region (R310)? -/
def orbitRegion (s : State) (r : Nat) : Bool := s.img.bound.orbit.entries.any fun e => e.1 == r

/-- The member mask of an orbit region (R310). -/
def orbitMask (s : State) (r : Nat) : Nat :=
  ((s.img.bound.orbit.entries.find? fun e => e.1 == r).map fun e => e.2.2.2).getD 0

/-- A physical folio. -/
def folioAt (s : State) (k : Nat) : Folio := sget (fun _ => freshFolio) s.arr.folios k

/-- Is a region offline: it has no committed model, it was taken offline, its orbit is not whole, a folio left service at a window's
close without its substitute, or HOLD_NO_ARCHIVE is set and its archive copy is not resident (R205, R214, R322, R380, R384)? -/
def offline (s : State) (r : Nat) : Bool :=
  (fget s Reg.ACC_CTRL.HOLD_NO_ARCHIVE == 1 && !(accOf s r).archive) ||
  (accOf s r).package.isNone || (accOf s r).offline || (accOf s r).retired || s.orb.offline.elem r ||
    s.con.gone.any fun k => (folioAt s k).region == r && (folioAt s k).st == .serving

/-- Does a bind that waits for its quiesce have a region in its scope (R34, R36)? -/
def bindHolds (s : State) (r : Nat) : Bool :=
  match s.img.op with
  | some op => op.whole || op.regions.elem r
  | none => false

/-- The pass in flight of a region. -/
def passOf (s : State) (r : Nat) : Option Pass := s.run.live.find? fun p => p.region == r

/-- The module with a region's pass changed. -/
def modPass (s : State) (r : Nat) (f : Pass → Pass) : State :=
  { s with run := { s.run with live := modFirst (fun p => p.region == r) f s.run.live } }

/-- The recipe in force for a stage: a RECIPE_SET's, or the image's (R38, R92). -/
def recipeOf (s : State) (r st : Nat) : Option Recipe :=
  match s.img.recipes.find? fun x => x.region == r && x.stage == st with
  | some x => some x
  | none => s.img.bound.recipe? r st

/-- The module shelf that houses a named shelf of a region (R194). -/
def housedAt (s : State) (r n : Nat) : Nat := sget (fun i => i) (accOf s r).housing n

/-- The module shelves on which a region runs. -/
def regionShelves (s : State) (r : Nat) : List Nat :=
  match s.img.bound.region? r with
  | some x => x.shelves.map (housedAt s r)
  | none => []

/-- The region that a module shelf serves. -/
def shelfRegion (s : State) (shelf : Nat) : Option Nat :=
  (s.img.bound.regions.find? fun x => (x.shelves.map (housedAt s x.id)).elem shelf).map (·.id)

/-- The hall of a module shelf. -/
def hallOf (shelf : Nat) : Nat := shelf / 128

/-- The halls that a region occupies. -/
def regionHalls (s : State) (r : Nat) : List Nat := (List.range 4).filter fun h => (regionShelves s r).any fun x => hallOf x == h

/-- Are the halls of a region ready (R350)? -/
def hallsReady (s : State) (r : Nat) : Bool := decide (s.pst.depth < 2) || (regionHalls s r).all fun h => domainReady s (4 + h)

/-! ### Scribe programs in the shelf stores (R108, Table 5-6) -/

/-- A byte of what SCRIBE_PROGRAMS places in the program area of every shelf of a region. -/
def programByte (img : Image) (r a : Nat) : Byte :=
  match img.placements.find? fun q => q.region == r && decide (8 * q.load ≤ a ∧ a < 8 * (q.load + q.len)) with
  | some q => q.words.getD (a - 8 * q.load) 0
  | none => 0

/-- What the bound image places at a byte of a shelf store: the programs of the region that the shelf houses. -/
def placedByte (s : State) (shelf a : Nat) : Byte :=
  if a < 0x20000 then (shelfRegion s shelf).elim 0 fun r => programByte s.img.bound r a else 0

/-- A region's programs are placed afresh on the shelves that house it: what programs wrote over the program area is gone. -/
def reloadPrograms (s : State) (r : Nat) : State :=
  let on := regionShelves s r
  { s with scr := { s.scr with
      store := sdrop (fun k => on.elem (k / 2 ^ 20) && decide (k % 2 ^ 20 < 0x20000)) s.scr.store
      linePoison := sdrop (fun k => on.elem (64 * k / 2 ^ 20) && decide (64 * k % 2 ^ 20 < 0x20000)) s.scr.linePoison } }

/-! ### Sessions -/

/-- A session by its handle. -/
def findSession (s : State) (h : Nat) : Option Session := s.kv.sessions.find? fun x => x.handle == h

/-- The module with a session changed. -/
def modSession (s : State) (h : Nat) (f : Session → Session) : State :=
  { s with kv := { s.kv with sessions := modFirst (fun x => x.handle == h) f s.kv.sessions } }

/-! ### Folios -/


/-- The module with a folio changed. -/
def modFolio (s : State) (k : Nat) (f : Folio → Folio) : State :=
  { s with arr := { s.arr with folios := smod (fun _ => freshFolio) s.arr.folios k f } }

/-- The object of an annals record about a folio. -/
def folioObj (s : State) (k : Nat) : Obj :=
  { region := if (folioAt s k).logical = 0x7F then none else some (folioAt s k).region
    shelf := some (k / 68 % 128), folio := some (k % 68), die := some (k / 68 / 128) }

/-- A folio changes state (R66): a FOLIO_STATE record carries the old state, the new one and WEAR. -/
def toState (s : State) (k : Nat) (st : FState) : State :=
  let f := folioAt s k
  annal (modFolio s k fun f => { f with st := st }) 0x0200 0 (folioObj s k) f.st.code st.code f.wear

/-- The folio that serves a logical slot of a module shelf (R66). -/
def servingAt (s : State) (shelf slot : Nat) : Option Nat :=
  ((List.range 68).map (folioKey shelf)).find? fun k => (folioAt s k).st == .serving && (folioAt s k).logical == slot

/-- The SPARE folios of a module shelf that may still be programmed. -/
def sparesOf (s : State) (shelf : Nat) : List Nat :=
  ((List.range 68).map (folioKey shelf)).filter fun k => (folioAt s k).st == .spare

end Sys2Proof.Machine
end

