-- ==== Sys2Proof/Machine/Links.lean ====
section
/-!
DEFINITION. Sys2Proof/Machine/Links.lean: what a Tsuyx port sends (13_tsuyx_link.md): flits (R293), sequencing and the
replay buffer (R294), credits (R297), transactions (R299), messages (R301), fault injection (R307, R308).
-/
namespace Sys2Proof.Machine

/-- A port. -/
def portAt (s : State) (n : Nat) : Port := sget (fun _ => freshPort) s.tsx n

/-- The module with a port changed. -/
def modPort (s : State) (n : Nat) (f : Port → Port) : State := { s with tsx := smod (fun _ => freshPort) s.tsx n f }

/-- Is a port ACTIVE? -/
def portActive (s : State) (n : Nat) : Bool := fget s (Reg.TSX_STATUS.STATE n) == 2

/-- The mesh port whose role a port has: itself, or for port 15 the one it stands in for (R311); none for service and transit. -/
def meshRole (s : State) (n : Nat) : Option Nat :=
  if n < 15 then (if s.img.bound.orbit.spareFor = n then none else some n)
  else if n = 15 then (if s.img.bound.orbit.spareFor < 15 then some s.img.bound.orbit.spareFor else none)
  else none

/-- The class of a port (R291): 0 mesh, 1 service, 2 upstream, 3 downstream. -/
def portClass (s : State) (n : Nat) : Nat :=
  if n < 15 then 0 else if n = 15 then (if (meshRole s n).isSome then 0 else 1) else if n < 20 then 2 else 3

/-- The member that R311 gives for a port: over the mesh, or the same member of the neighbouring stage. -/
def portMember (s : State) (n : Nat) : Option Nat :=
  match meshRole s n with
  | some p => some ((s.img.bound.orbit.member + p + 1) % 16)
  | none => if 16 ≤ n then some s.img.bound.orbit.member else none

/-- The mesh port towards member j (R311). -/
def memberPort (s : State) (j : Nat) : Nat :=
  let o := s.img.bound.orbit
  let p := (j + 16 - o.member - 1) % 16
  if o.spareFor = p && p < 15 then 15 else p

/-- The bytes of a flit (Table 13-2). -/
def flitBytes (typ : Nat) (nack : Bool) (seq ack vc crVc credits : Nat) (payload : Bytes) : Bytes :=
  let body := leBytes 1 typ ++ leBytes 1 (bitOf nack) ++ leBytes 2 (seq % 4096) ++ leBytes 2 (ack % 4096) ++ leBytes 1 vc ++ leBytes 1 crVc ++
    leBytes 2 (credits % 65536) ++ leBytes 2 payload.length ++ (payload ++ List.replicate (240 - payload.length) 0).take 240
  body ++ leBytes 4 (crc32c body)

/-- A flit goes onto the wire with the port's present ACK and the next channel's credit count (R294); `spoil` inverts one bit of
its payload after the CRC (R307), which bit the manual does not say. -/
def putFlit (s : State) (n typ : Nat) (nack : Bool) (seq vc : Nat) (payload : Bytes) (spoil : Bool) : State :=
  let p := portAt s n
  let b := flitBytes typ nack seq p.ack vc p.crNext (p.freed.getD p.crNext 0) payload
  let (r, s1) := if spoil then freeDraw s else (0, s)
  let at_ := 12 + r / 8 % 240
  let b1 := if spoil then overlay b at_ [BitVec.ofNat 8 ((rd b at_ 1) ^^^ 2 ^ (r % 8))] else b
  modPort { s1 with out := { s1.out with flits := (n, b1) :: s1.out.flits } } n fun p => { p with crNext := (p.crNext + 1) % 3 }

/-- An IDLE flit; recorded where it carries a NACK or takes the slot of a dropped flit. -/
def sendIdle (s : State) (n : Nat) (nack : Bool) : State := putFlit s n 0 nack 0 0 [] false

/-- A flit as it stands. -/
def transmit (s : State) (n : Nat) (f : Flit) : State := putFlit s n f.typ false f.seq f.vc f.payload false

/-! ### Injection (R307) -/

/-- Is a flit eligible for injection? A LINK flit stands for KEEPALIVE. -/
def injEligible (s : State) (n : Nat) (f : Flit) : Bool :=
  fget s (Reg.TSX_INJ_CTRL.ENABLE n) == 1 && (fget s (Reg.TSX_INJ_CTRL.SCOPE n)).testBit (if f.typ = 3 then 3 else f.vc)

/-- The generator's next state: shift in bits 47, 46, 20, 19 (R307). -/
def injNext (x : Nat) : Nat := (x * 2) % 2 ^ 48 + (x / 2 ^ 47 + x / 2 ^ 46 + x / 2 ^ 20 + x / 2 ^ 19) % 2

/-- The choice for one eligible flit, with the port's generator and counts moved on. -/
def injChoose (s : State) (n : Nat) : Bool × State :=
  let p := portAt s n
  let k := fget s (Reg.TSX_INJ_CTRL.N n)
  let x := injNext p.injState
  let seen := p.injSeen + 1
  match fget s (Reg.TSX_INJ_CTRL.PATTERN n) with
  | 0 => (x % 2 ^ k == 0, modPort s n fun p => { p with injState := x, injSeen := seen })
  | 1 => (0 < k && seen % k == 0, modPort s n fun p => { p with injSeen := seen })
  | _ => let hit := decide (k < seen ∧ seen ≤ k + fget s (Reg.TSX_INJ_CTRL.BURST n))
         (hit, modPort s n fun p => { p with injSeen := seen })

/-- The first transmission of a flit, under injection (Table 13-6). A flit chosen in REORDER goes after the next eligible one, so of two chosen in a row
the later goes first. -/
def firstTransmit (s : State) (n : Nat) (f : Flit) : State :=
  if !injEligible s n f then transmit s n f
  else
    let (hit, s1) := injChoose s n
    if !hit then
      let held := (portAt s1 n).injHeld
      held.foldl (fun s g => transmit s n g) (modPort (transmit s1 n f) n fun p => { p with injHeld := [] })
    else
      let s2 := fbump s1 (Reg.TSX_INJ_COUNT.INJECTED n) 1
      match fget s (Reg.TSX_INJ_CTRL.MODE n) with
      | 0 => sendIdle s2 n false
      | 1 => putFlit s2 n f.typ false f.seq f.vc f.payload true
      | 2 => putFlit s2 n f.typ false f.seq f.vc f.payload (decide (16 ≤ fget s (Reg.TSX_INJ_CTRL.BURST n)))
      | _ => modPort s2 n fun p => { p with injHeld := f :: p.injHeld }

/-- Injection begins (R307): the generator's first state. -/
def injEnable (s : State) (n : Nat) : State :=
  let seed := fget s (Reg.TSX_INJ_CTRL.SEED n)
  modPort s n fun p => { p with injState := seed * 2 ^ 24 + (2 ^ 24 - 1 - seed), injSeen := 0 }

/-! ### Sequenced sending (R294, R297, R304) -/

/-- May a flit of channel v be sent for the first time now: credit, room in the replay buffer, and for a transaction the
partner's admission. -/
def maySend (p : Port) (f : Flit) : Bool :=
  decide ((p.sent.getD f.vc 0 + 65536 - p.credits.getD f.vc 0) % 65536 < p.buffers.getD f.vc 0) && decide (p.held.length < 512) &&
    (f.typ == 2 || p.admitted)

/-- Element i of a list changed. -/
def modNth {α : Type} (f : α → α) : List α → Nat → List α
  | [], _ => []
  | x :: xs, 0 => f x :: xs
  | x :: xs, i + 1 => x :: modNth f xs i

/-- Flits that wait go out while they may. -/
def pump (n : Nat) : Nat → State → State
  | 0, s => s
  | fuel + 1, s =>
    let p := portAt s n
    match if portActive s n then p.waiting.find? (maySend p) else none with
    | none => s
    | some f =>
      let g := { f with seq := p.nextSeq }
      pump n fuel (firstTransmit (modPort s n fun p =>
        { p with waiting := p.waiting.erase f, nextSeq := (p.nextSeq + 1) % 4096, held := p.held ++ [g]
                 sent := modNth (fun x => (x + 1) % 65536) p.sent f.vc }) n g)

/-- A sequenced flit is handed to a port. -/
def sendFlit (s : State) (n : Nat) (f : Flit) : State :=
  let s1 := modPort s n fun p => { p with waiting := p.waiting ++ [f] }
  pump n (portAt s1 n).waiting.length s1

/-! ### Messages (R301, R302) -/

/-- A message to the partner of a port. -/
def sendMsg (s : State) (n typ : Nat) (body : Bytes) : State :=
  let p := portAt s n
  let o := s.img.bound.orbit
  let payload := leBytes 1 typ ++ [0] ++ leBytes 1 o.member ++ leBytes 1 o.stage ++ leBytes 4 p.msgSeq ++ leBytes 2 body.length ++
    List.replicate 6 0 ++ body
  if portActive s n then
    sendFlit (modPort s n fun p => { p with msgSeq := (p.msgSeq + 1) % 2 ^ 32 }) n { typ := 2, seq := 0, vc := 0, payload := payload }
  else s

/-- A FAULT message (Table 13-5). -/
def sendFault (s : State) (n kind port : Nat) (detail : Bytes) : State :=
  sendMsg s n 4 (leBytes 1 kind ++ leBytes 1 (port / 6) ++ leBytes 1 port ++ [0] ++ leBytes 4 (fget s (Reg.TSX_STATUS.LINK_GEN port)) ++
    leBytes 6 s.clk.epoch ++ leBytes 2 0 ++ leBytes 8 s.clk.tick ++ (detail ++ List.replicate (16 - detail.length) 0))

/-- The ACTIVE mesh ports. -/
def meshPorts (s : State) : List Nat := (List.range 16).filter fun n => (meshRole s n).isSome && portActive s n

/-- The ACTIVE transit ports towards the next stage and from the last one. -/
def downPorts (s : State) : List Nat := [20, 21, 22, 23].filter (portActive s)
def upPorts (s : State) : List Nat := [16, 17, 18, 19].filter (portActive s)

/-! ### What a primary sends to its orbit (R313, R314) -/

/-- The members of an orbit region's mask other than this module. -/
def otherMembers (s : State) (r : Nat) : List Nat :=
  (List.range 16).filter fun m => (orbitMask s r).testBit m && m != s.img.bound.orbit.member

/-- Where a primary's DISPATCH goes: the members of the mask, and over one transit port the next stage (R323). -/
def dispatchPorts (s : State) (r : Nat) : List Nat :=
  (otherMembers s r).map (memberPort s) ++
    (if s.img.bound.orbit.stage + 1 < s.img.bound.orbit.stages then ((downPorts s).filter fun n => (portAt s n).admitted).take 1 else [])

/-- A list in pieces of `n`; `fuel` is the most pieces. -/
def pieces {α : Type} (n : Nat) : Nat → List α → List (List α)
  | 0, _ => []
  | fuel + 1, xs => if xs.isEmpty then [] else xs.take n :: pieces n fuel (xs.drop n)

/-- DISPATCH messages (Table 14-3): COUNT words in all, at most 50 a message. -/
def sendDispatch (s : State) (r kind carrel cls passId : Nat) (words : List Nat) : State :=
  (pieces 50 (words.length / 50 + 1) words).foldl (fun s ws =>
    let body := [4] ++ leBytes 1 r ++ leBytes 1 kind ++ leBytes 2 carrel ++ leBytes 1 cls ++ [0] ++ leBytes 6 passId ++
      leBytes 2 words.length ++ [0, 0] ++ ws.flatMap (leBytes 4)
    (dispatchPorts s r).foldl (fun s n => sendMsg s n 1 body) s) s

/-- Bytes as 32-bit words. -/
def wordsOf (b : Bytes) : List Nat := (List.range (ceilDiv b.length 4)).map fun i => rd b (4 * i) 4

/-! ### Transactions (R299, R302) -/

/-- A transaction to the partner of a port, if the port is ACTIVE and the partner admitted (R312); poison it carries is announced
once a pass epoch. -/
def sendTxn (s : State) (n kind poison tag addr : Nat) (data : Bytes) (origin elems : Nat) : State :=
  if !portActive s n || !(portAt s n).admitted then s else
  let hdr := leBytes 1 kind ++ leBytes 1 poison ++ leBytes 2 data.length ++ leBytes 4 tag ++ leBytes 8 addr
  let s1 := sendFlit s n { typ := 1, seq := 0, vc := if kind = 4 then 2 else 1, payload := hdr ++ data }
  if poison ≠ 0 && (portAt s1 n).poisonEpoch != some s1.clk.epoch then
    sendFault (modPort s1 n fun p => { p with poisonEpoch := some s1.clk.epoch }) n 4 n (leBytes 4 tag ++ leBytes 4 elems ++ leBytes 1 origin)
  else s1

/-- A link record of the annals (Table 17-7): event 1 lost, 2 lane, 3 miswired, 4 refused, 5 injection. -/
def tsxRecord (s : State) (n event : Nat) : State :=
  annal s 0x0700 2 { die := some (n / 6) } n event (fget s (Reg.TSX_PARTNER.MODULE_ID n))

end Sys2Proof.Machine
end

