-- ==== Sys2Proof/Machine/Float.lean ====
section
/-!
DEFINITION. Sys2Proof/Machine/Float.lean: binary32 arithmetic with round-to-nearest-even and subnormals kept
(Table 0-3, R9; R80, R84, R102, R105), computed exactly on dyadic rationals and rounded once.
-/
namespace Sys2Proof.Machine

/-- A decoded number: NaN, an infinity, or ± m × 2^e exactly (m = 0 is a signed zero). -/
inductive FV where
  | nan
  | inf (neg : Bool)
  | num (neg : Bool) (m : Nat) (e : Int)
  deriving DecidableEq, Repr

/-- The number a binary32 pattern stands for. -/
def decF (b : W32) : FV :=
  let v := b.toNat
  let s := decide (v / 2 ^ 31 = 1)
  let ex := nbits v 23 8
  let m := nbits v 0 23
  if ex = 255 then (if m = 0 then .inf s else .nan)
  else if ex = 0 then .num s m (-149)
  else .num s (m + 2 ^ 23) ((ex : Int) - 150)

/-- The sign bit in place. -/
def signBit (neg : Bool) : Nat := if neg then 2 ^ 31 else 0

/-- ±∞. -/
def infBits (neg : Bool) : W32 := BitVec.ofNat 32 (signBit neg + 0x7F800000)

/-- ±0. -/
def zeroBits (neg : Bool) : W32 := BitVec.ofNat 32 (signBit neg)

/-- A quiet NaN; its sign and payload are the hardware's own function of the operands. -/
def qnan (a b c : W32) : W32 := 0x7FC00000 ||| (Config.nanPayload a b c &&& 0x803FFFFF)

/-- n / d to the nearest integer, ties to even. -/
def rneDiv (n d : Nat) : Nat :=
  let q := n / d
  let r := n % d
  if 2 * r < d then q else if d < 2 * r then q + 1 else q + q % 2

/-- `2 ^ e` for a non-negative `e`, else 1. -/
def pow2 (e : Int) : Nat := 2 ^ e.toNat

/-- ⌊log2 (n / d)⌋ for positive n and d. -/
def floorLog2 (n d : Nat) : Int :=
  let l : Int := (Nat.log2 n : Int) - (Nat.log2 d : Int)
  if d * pow2 l ≤ n * pow2 (-l) then l else l - 1

/-- The binary32 pattern nearest to ± n / d × 2^e, ties to even. -/
def roundF (neg : Bool) (n d : Nat) (e : Int) : W32 :=
  if n = 0 then zeroBits neg
  else
    let n := n * pow2 e
    let d := d * pow2 (-e)
    let q := max (floorLog2 n d - 23) (-149)
    let m := rneDiv (n * pow2 (-q)) (d * pow2 q)
    let code := if m < 2 ^ 23 then m else ((q + 150).toNat <<< 23) + (m - 2 ^ 23)
    if 0x7F800000 ≤ code then infBits neg else BitVec.ofNat 32 (signBit neg + code)

/-- A signed integer multiple of a power of two: an exact sum. -/
structure Dy where
  m : Int
  e : Int
  deriving DecidableEq, Repr

/-- The exact sum of two such values. -/
def Dy.add (a b : Dy) : Dy :=
  let e := min a.e b.e
  { m := a.m * (pow2 (a.e - e) : Int) + b.m * (pow2 (b.e - e) : Int), e := e }

/-- The exact value of a finite number. -/
def dyOf (neg : Bool) (m : Nat) (e : Int) : Dy := { m := if neg then -(m : Int) else (m : Int), e := e }

/-- The binary32 value nearest to an exact sum; `negZero` gives the sign of an exact zero. -/
def roundDy (negZero : Bool) (a : Dy) : W32 :=
  if a.m = 0 then zeroBits negZero else roundF (decide (a.m < 0)) a.m.natAbs 1 a.e

/-- IEEE 754 addition. -/
def fadd (a b : W32) : W32 :=
  match decF a, decF b with
  | .nan, _ => qnan a b 0
  | _, .nan => qnan a b 0
  | .inf s, .inf t => if s = t then infBits s else qnan a b 0
  | .inf s, _ => infBits s
  | _, .inf t => infBits t
  | .num s m e, .num t n f => roundDy (s && t) ((dyOf s m e).add (dyOf t n f))

/-- The pattern with its sign turned. -/
def fneg (a : W32) : W32 := a ^^^ 0x80000000

/-- The pattern with its sign cleared. -/
def fabs (a : W32) : W32 := a &&& 0x7FFFFFFF

/-- IEEE 754 subtraction. -/
def fsub (a b : W32) : W32 := fadd a (fneg b)

/-- IEEE 754 multiplication. -/
def fmul (a b : W32) : W32 :=
  match decF a, decF b with
  | .nan, _ => qnan a b 1
  | _, .nan => qnan a b 1
  | .inf s, .inf t => infBits (s != t)
  | .inf s, .num t n _ => if n = 0 then qnan a b 1 else infBits (s != t)
  | .num s m _, .inf t => if m = 0 then qnan a b 1 else infBits (s != t)
  | .num s m e, .num t n f => roundF (s != t) (m * n) 1 (e + f)

/-- IEEE 754 fused multiply-add: fl(c + a × b) (Table 5-2). -/
def ffma (a b c : W32) : W32 :=
  match decF a, decF b, decF c with
  | .nan, _, _ => qnan a b c
  | _, .nan, _ => qnan a b c
  | _, _, .nan => qnan a b c
  | .num s m e, .num t n f, .num u p g =>
    roundDy ((s != t) && u) ((dyOf (s != t) (m * n) (e + f)).add (dyOf u p g))
  | .num _ _ _, .num _ _ _, .inf u => infBits u
  | x, y, z =>
    let zeroOperand : Bool := match x, y with
      | .num _ 0 _, _ => true
      | _, .num _ 0 _ => true
      | _, _ => false
    let sx := match x with | .inf s => s | .num s _ _ => s | .nan => false
    let sy := match y with | .inf s => s | .num s _ _ => s | .nan => false
    if zeroOperand then qnan a b c
    else match z with
      | .inf u => if u = (sx != sy) then infBits u else qnan a b c
      | _ => infBits (sx != sy)

/-- The correctly rounded reciprocal (R124: inv_T). -/
def frecip (a : W32) : W32 :=
  match decF a with
  | .nan => qnan a a 2
  | .inf s => zeroBits s
  | .num s m e => if m = 0 then infBits s else roundF s 1 m (-e)

/-- The correctly rounded quotient. -/
def fdiv (a b : W32) : W32 :=
  match decF a, decF b with
  | .nan, _ => qnan a b 8
  | _, .nan => qnan a b 8
  | .inf s, .inf t => qnan a b (if s = t then 8 else 9)
  | .inf s, .num t _ _ => infBits (s != t)
  | .num s _ _, .inf t => zeroBits (s != t)
  | .num s m e, .num t n f =>
    if n = 0 then (if m = 0 then qnan a b 8 else infBits (s != t)) else roundF (s != t) m n (e - f)

/-- fl of an integer. -/
def fofInt (i : Int) : W32 := roundF (decide (i < 0)) i.natAbs 1 0

/-- Is the pattern a NaN? -/
def isNaN (a : W32) : Bool := decF a == .nan

/-- Is the pattern an infinity? -/
def isInf (a : W32) : Bool := match decF a with | .inf _ => true | _ => false

/-- Is the pattern finite? -/
def isFin (a : W32) : Bool := match decF a with | .num _ _ _ => true | _ => false

/-- A place on the line of the non-NaN values, equal for +0 and −0: the order of R97. -/
def fkey (a : W32) : Int :=
  let m : Int := nbits a.toNat 0 31
  if a.toNat < 2 ^ 31 then m else -m

/-- a < b; false when either is NaN. -/
def flt (a b : W32) : Bool := !isNaN a && !isNaN b && decide (fkey a < fkey b)

/-- a ≤ b; false when either is NaN. -/
def fle (a b : W32) : Bool := !isNaN a && !isNaN b && decide (fkey a ≤ fkey b)

/-- Finite and above zero. -/
def fpos (a : W32) : Bool := isFin a && decide (0 < fkey a)

/-- The pattern of ± n × 2^e when it needs no rounding, as constants of the manual do. -/
def fconst (n : Int) (e : Int) : W32 := roundF (decide (n < 0)) n.natAbs 1 e

/-- 1.0. -/
def fone : W32 := 0x3F800000

/-- An element of a selection with its global index (R97). -/
structure Sel where
  val : W32
  idx : Nat
  deriving DecidableEq, Repr

/-- Which of two selections R97 keeps: `gt` tells whether the greater or the least is wanted; NaN never wins over a
number, and of equal values the lower index stays. -/
def selBetter (gt : Bool) (a b : Sel) : Sel :=
  if isNaN a.val then (if isNaN b.val then a else b)
  else if isNaN b.val then a
  else if fkey a.val = fkey b.val then (if b.idx < a.idx then b else a)
  else if (fkey a.val < fkey b.val) == gt then b else a

/-- Maximum- or minimum-with-index over a set (R97): a quiet NaN with index 0xFFFF_FFFF when every element is NaN. -/
def selectIdx (gt : Bool) (xs : List Sel) : Sel :=
  match xs.filter (fun x => !isNaN x.val) with
  | [] => { val := qnan 0 0 3, idx := 0xFFFFFFFF }
  | x :: rest => rest.foldl (selBetter gt) x

/-- The pairwise tree of R84: pairs in list order, an odd last entry passing up unchanged. -/
def treeStep {α : Type} (add : α → α → α) : List α → List α
  | a :: b :: rest => add a b :: treeStep add rest
  | xs => xs

/-- R84 repeated until one value is left; `fuel` is the most levels. -/
def treeReduce {α : Type} (add : α → α → α) : Nat → List α → Option α
  | _, [] => none
  | _, [x] => some x
  | 0, x :: _ => some x
  | fuel + 1, xs => treeReduce add fuel (treeStep add xs)

/-- The reduction of a list of any length the manual allows (at most 2^16 leaves). -/
def tree {α : Type} (add : α → α → α) (xs : List α) : Option α := treeReduce add 16 xs

/-- Is a finite value below n / d? -/
def ltRat (x : W32) (n : Int) (d : Nat) : Bool :=
  match decF x with
  | .num s m e => decide ((dyOf s m e).m * (d * pow2 e : Nat) < n * (pow2 (-e) : Nat))
  | _ => false

/-- Is a finite value above n / d? -/
def gtRat (x : W32) (n : Int) (d : Nat) : Bool :=
  match decF x with
  | .num s m e => decide (n * (pow2 (-e) : Nat) < (dyOf s m e).m * (d * pow2 e : Nat))
  | _ => false

end Sys2Proof.Machine
end

