-- ==== Sys2Proof/Machine/Operands.lean ====
section
/-!
DEFINITION. Sys2Proof/Machine/Operands.lean: the operand forms of scribe instructions: the instruction word of
Table 5-5, the opcodes of Table 5-7, the fields each opcode leaves unused (R113), and the tiles an instruction names.
-/
namespace Sys2Proof.Machine

/-- The fields of Table 5-5. -/
structure SWord where
  op : Nat
  acc : Bool
  fmt : Nat
  dst : Nat
  sa : Nat
  sb : Nat
  mod : Nat
  cnt : Nat
  imm : Nat
  deriving DecidableEq, Repr

/-- Table 5-5. -/
def decodeWord (w : W64) : SWord :=
  { op := fieldOf w 58 6, acc := decide (fieldOf w 57 1 = 1), fmt := fieldOf w 53 4, dst := fieldOf w 49 4
    sa := fieldOf w 45 4, sb := fieldOf w 41 4, mod := fieldOf w 37 4, cnt := fieldOf w 32 5, imm := fieldOf w 0 32 }

/-- The opcodes of Table 5-7. SAMPLE stands twice: MOD 0 selects, MOD 1 draws. -/
inductive SOp where
  | nop | halt | ldx | addx | loop | mma | vadd | vsub | vmul | vexp | vrcp | vrsq | vmax | vmaxi | vmini | vsum
  | ldt | stt | gather | scatter | check | normw | sampleSelect | sampleDraw
  deriving DecidableEq, Repr

/-- Table 5-7; `none` for a reserved opcode. -/
def opOf (w : SWord) : Option SOp :=
  match w.op with
  | 0x00 => some .nop | 0x01 => some .halt | 0x02 => some .ldx | 0x03 => some .addx | 0x04 => some .loop
  | 0x08 => some .mma
  | 0x10 => some .vadd | 0x11 => some .vsub | 0x12 => some .vmul | 0x13 => some .vexp | 0x14 => some .vrcp
  | 0x15 => some .vrsq | 0x16 => some .vmax | 0x17 => some .vmaxi | 0x18 => some .vmini | 0x19 => some .vsum
  | 0x20 => some .ldt | 0x21 => some .stt
  | 0x28 => some .gather | 0x29 => some .scatter
  | 0x30 => some .check | 0x31 => some .normw
  | 0x38 => match w.mod with | 0 => some .sampleSelect | 1 => some .sampleDraw | _ => none
  | _ => none

/-- Which fields an opcode uses: ACC, FMT, DST, SA, SB, MOD (as the greatest value allowed), CNT, IMM. -/
structure Uses where
  acc : Bool
  fmt : Bool
  dst : Bool
  sa : Bool
  sb : Bool
  modMax : Nat
  cnt : Bool
  imm : Bool
  deriving DecidableEq, Repr

/-- Is the format's FMT code one with block scales? -/
def fmtMx (fmt : Nat) : Bool := decide (9 ≤ fmt ∧ fmt ≤ 14)

/-- The fields that each opcode of Table 5-7 uses. -/
def usesOf (w : SWord) : SOp → Uses
  | .nop => ⟨false, false, false, false, false, 0, false, false⟩
  | .halt => ⟨false, false, false, false, false, 0, false, false⟩
  | .ldx => ⟨false, false, true, false, false, 0, false, true⟩
  | .addx => ⟨false, false, true, true, false, 0, false, true⟩
  | .loop => ⟨false, false, true, false, false, 0, false, true⟩
  | .mma => ⟨true, true, true, true, true, if fmtMx w.fmt then 2 else 0, true, fmtMx w.fmt⟩
  | .vadd => ⟨true, false, true, true, decide (w.mod ≠ 3), 3, false, decide (w.mod = 3)⟩
  | .vsub => ⟨true, false, true, true, decide (w.mod ≠ 3), 3, false, decide (w.mod = 3)⟩
  | .vmul => ⟨true, false, true, true, decide (w.mod ≠ 3), 3, false, decide (w.mod = 3)⟩
  | .vexp => ⟨true, false, true, true, false, 0, false, false⟩
  | .vrcp => ⟨true, false, true, true, false, 0, false, false⟩
  | .vrsq => ⟨true, false, true, true, false, 0, false, false⟩
  | .vmax => ⟨true, false, true, true, decide (w.mod ≠ 3), 3, false, decide (w.mod = 3)⟩
  | .vmaxi => ⟨false, false, true, true, false, 0, false, true⟩
  | .vmini => ⟨false, false, true, true, false, 0, false, true⟩
  | .vsum => ⟨true, false, true, true, false, 0, false, false⟩
  | .ldt => ⟨true, true, true, true, false, if fmtMx w.fmt then 2 else 0, false, true⟩
  | .stt => ⟨false, true, true, true, false, if fmtMx w.fmt then 2 else 0, false, true⟩
  | .gather => ⟨false, false, true, true, false, 15, true, true⟩
  | .scatter => ⟨false, false, false, true, true, 15, true, true⟩
  | .check => ⟨false, false, true, true, true, 1, false, false⟩
  | .normw => ⟨false, false, false, true, false, 0, false, true⟩
  | .sampleSelect => ⟨false, false, true, true, false, 0, false, true⟩
  | .sampleDraw => ⟨false, false, false, false, false, 1, false, false⟩

/-- No unused field is non-zero (R113). -/
def fieldsOk (w : SWord) (o : SOp) : Bool :=
  let u := usesOf w o
  (u.acc || !w.acc) && (u.fmt || w.fmt == 0) && (u.dst || w.dst == 0) && (u.sa || w.sa == 0) && (u.sb || w.sb == 0)
    && decide (w.mod ≤ u.modMax) && (u.cnt || w.cnt == 0) && (u.imm || w.imm == 0)

/-- The tiles an instruction names. -/
def tilesOf (w : SWord) : SOp → List Nat
  | .mma => [w.dst]
  | .vadd | .vsub | .vmul | .vmax => if w.mod = 3 then [w.dst, w.sa] else [w.dst, w.sa, w.sb]
  | .vexp | .vrcp | .vrsq | .vmaxi | .vmini | .vsum => [w.dst, w.sa]
  | .ldt => [w.dst]
  | .stt => [w.sa]
  | .check => [w.sa, w.sb, w.sb + 1]
  | .normw => [w.sa]
  | .sampleSelect => [w.sa]
  | _ => []

/-- Does the opcode add IMM to an index register to form an address of the shelf store? -/
def immIsAddress : SOp → Bool
  | .ldt | .stt | .gather | .scatter | .sampleSelect => true
  | _ => false

/-- Is an address in the run area of Table 5-3? -/
def inRunArea (a : Nat) : Bool := decide (0xC0000 ≤ a ∧ a < 0xE0000)

/-- R109, as far as the instruction word alone shows it: an image program names tiles 0 to 11 and no address in the run
area. -/
def imageWordOk (w : SWord) : Bool :=
  match opOf w with
  | none => true
  | some o => (tilesOf w o).all (fun t => decide (t ≤ 11)) && !(immIsAddress o && inRunArea w.imm)

end Sys2Proof.Machine
end

