-- ==== Sys2Proof/Machine/Xmss.lean ====
section
/-!
DEFINITION. Sys2Proof/Machine/Xmss.lean: verification of XMSS and XMSS^MT signatures with SHAKE256 and n = 32 (R26, R191, R371, R434;
Table 0-3: RFC 8391 and NIST SP 800-208).

R9 gives the published standards for what the manual does not restate (PRESUMED from RFC 8391 and SP 800-208, log entry 12).
-/
namespace Sys2Proof.Machine

/-- The number that bytes hold, most significant first. -/
def beNat (b : Bytes) : Nat := leNat b.reverse

/-- The exclusive or of two strings of one length. -/
def xorBytes (a b : Bytes) : Bytes := List.zipWith (· ^^^ ·) a b

/-- The keyed hashes: 0 F, 1 H, 2 H_msg, 3 PRF. -/
def keyedHash (which : Nat) (key m : Bytes) : Bytes := shake256 (beBytes 32 which ++ key ++ m)

/-- A hash address: layer and tree, the type (0 one-time key, 1 L-tree, 2 hash tree), and the three words whose meaning the type gives. -/
structure HashAddr where
  layer : Nat
  tree : Nat
  typ : Nat
  a : Nat
  b : Nat
  c : Nat
  deriving DecidableEq, Repr

/-- A hash address as 32 bytes with its keyAndMask word. -/
def addrBytes (x : HashAddr) (mask : Nat) : Bytes :=
  beBytes 4 x.layer ++ beBytes 8 x.tree ++ beBytes 4 x.typ ++ beBytes 4 x.a ++ beBytes 4 x.b ++ beBytes 4 x.c ++ beBytes 4 mask

/-- A pseudo-random value of an address. -/
def addrPrf (seed : Bytes) (x : HashAddr) (mask : Nat) : Bytes := keyedHash 3 seed (addrBytes x mask)

/-- The randomised hash of two nodes. -/
def hashPair (seed : Bytes) (x : HashAddr) (l r : Bytes) : Bytes :=
  keyedHash 1 (addrPrf seed x 0) (xorBytes l (addrPrf seed x 1) ++ xorBytes r (addrPrf seed x 2))

/-- A chain of the one-time signature from step `i` on, `n` steps. -/
def otsChain (seed : Bytes) (x : HashAddr) : Nat → Nat → Bytes → Bytes
  | _, 0, v => v
  | i, n + 1, v =>
    let y := { x with c := i }
    otsChain seed x (i + 1) n (keyedHash 0 (addrPrf seed y 0) (xorBytes v (addrPrf seed y 1)))

/-- The digits in base 16 of a string, the higher half of each byte first. -/
def hexDigits (b : Bytes) : List Nat := b.flatMap fun v => [v.toNat / 16, v.toNat % 16]

/-- The 67 digits that a one-time signature signs: those of the digest and of its checksum. -/
def otsDigits (m : Bytes) : List Nat :=
  let ds := hexDigits m
  ds ++ (hexDigits (beBytes 2 ((ds.map fun d => 15 - d).sum * 16))).take 3

/-- The one-time public key that a one-time signature gives for a digest. -/
def otsKey (seed : Bytes) (x : HashAddr) (sig m : Bytes) : List Bytes :=
  (otsDigits m).zipIdx.map fun d => otsChain seed { x with b := d.2 } d.1 (15 - d.1) (slice sig (32 * d.2) 32)

/-- One level of an L-tree: pairs are hashed, a last single node goes up. -/
def lTreeLevel (seed : Bytes) (x : HashAddr) : Nat → List Bytes → List Bytes
  | i, l :: r :: rest => hashPair seed { x with c := i } l r :: lTreeLevel seed x (i + 1) rest
  | _, ns => ns

/-- The root of an L-tree, from level `h` on; `fuel` bounds the levels. -/
def lTree (seed : Bytes) (x : HashAddr) : Nat → Nat → List Bytes → Bytes
  | 0, _, ns => ns.headD []
  | fuel + 1, h, ns =>
    match ns with
    | [n] => n
    | _ => lTree seed x fuel (h + 1) (lTreeLevel seed { x with b := h } 0 ns)

/-- The node that an authentication path leads to, from level `h` and place `i` on. -/
def authPath (seed : Bytes) (x : HashAddr) : Nat → Nat → List Bytes → Bytes → Bytes
  | _, _, [], n => n
  | h, i, p :: ps, n =>
    let y := { x with b := h, c := i / 2 }
    authPath seed x (h + 1) (i / 2) ps (if i % 2 = 0 then hashPair seed y n p else hashPair seed y p n)

/-- The root of one tree of `height` levels that a one-time signature with its path (67 + height strings of 32 bytes) gives. -/
def treeRoot (seed : Bytes) (layer tree leaf height : Nat) (sig m : Bytes) : Bytes :=
  let at_ := fun (typ : Nat) (a : Nat) => ({ layer := layer, tree := tree, typ := typ, a := a, b := 0, c := 0 } : HashAddr)
  let node := lTree seed (at_ 1 leaf) 8 0 (otsKey seed (at_ 0 leaf) sig m)
  authPath seed (at_ 2 0) 0 leaf ((List.range height).map fun k => slice sig (32 * (67 + k)) 32) node

/-- The root of a tower of `n` trees from `layer` on: each signs the root of the one below. -/
def towerRoot (seed : Bytes) (height : Nat) : Nat → Nat → Nat → Bytes → Bytes → Bytes
  | 0, _, _, _, m => m
  | n + 1, layer, idx, sig, m =>
    towerRoot seed height n (layer + 1) (idx / 2 ^ height) (sig.drop (32 * (67 + height)))
      (treeRoot seed layer (idx / 2 ^ height) (idx % 2 ^ height) height sig m)

/-- The sets of R191 as (height of a tree, layers, bytes of the index) by SIG_OID (R434). The numbers are PRESUMED from SP 800-208 (log
entry 6). -/
def xmssSets : List (Nat × Nat × Nat × Nat) :=
  [(0x10, 10, 1, 4), (0x11, 16, 1, 4), (0x12, 20, 1, 4), (0x80000029, 10, 2, 3), (0x8000002A, 5, 4, 3), (0x8000002B, 20, 2, 5),
   (0x8000002C, 10, 4, 5), (0x8000002D, 5, 8, 5), (0x8000002E, 20, 3, 8), (0x8000002F, 10, 6, 8), (0x80000030, 5, 12, 8)]

/-- Does a signature verify: parameter set (SIG_OID), public key (identifier, root, seed), message, signature? -/
def xmssVerify (oid : Nat) (key m sig : Bytes) : Bool :=
  match xmssSets.find? fun p => p.1 == oid with
  | none => false
  | some (_, height, layers, width) =>
    let root := slice key 4 32
    let seed := slice key 36 32
    let idx := beNat (sig.take width)
    let digest := keyedHash 2 (slice sig width 32 ++ root ++ beBytes 32 idx) m
    sig.length == width + 32 + 32 * (67 + height) * layers && decide (idx < 2 ^ (height * layers)) &&
      towerRoot seed height layers 0 idx (sig.drop (width + 32)) digest == root

end Sys2Proof.Machine
end

