-- ==== Sys2Proof/Machine/ImageCheck.lean ====
section
/-!
DEFINITION. Sys2Proof/Machine/ImageCheck.lean: what STORE checks of an image (R30), step by step, with the section rules
of every chapter.
-/
namespace Sys2Proof.Machine

/-- All entries differ. -/
def distinct {α : Type} [DecidableEq α] : List α → Bool
  | [] => true
  | x :: xs => !xs.elem x && distinct xs

/-- Does a list rise strictly under an order key? -/
def rising : List Nat → Bool
  | a :: b :: rest => decide (a < b) && rising (b :: rest)
  | _ => true

/-- The number of set bits among the low `n`. -/
def popcount (n v : Nat) : Nat := ((List.range n).filter v.testBit).length

/-! ### 0x0001 REGIONS (R23) -/

def regionOk (plainRegion : Bool) (r : Region) : Bool :=
  decide (r.id ≤ 15) && decide (rd r.raw 1 1 < 2) && zeroAt r.raw 4 4 && zeroAt r.raw 0x20 32
    && (plainRegion || decide (1 ≤ r.layers ∧ r.layers ≤ 1024))
    && decide (ceilDiv (r.weights * (if r.paired then 2 else 1)) 33554432 ≤ popcount 512 r.mask)

def disjointMasks : List Region → Bool
  | [] => true
  | r :: rest => rest.all (fun x => decide (r.mask &&& x.mask = 0)) && disjointMasks rest

def regionsOk (img : Image) : Bool :=
  let rs := img.regions
  decide ((img.body 1).length % 128 = 0 ∧ rs.length ≤ 16) && rs.all (regionOk (!img.has 1)) && disjointMasks rs
    && distinct (rs.map (·.id))

/-! ### 0x0002 PAIRING (R436) -/

def pairKey (p : Pair) : Nat := p.hiShelf * 64 + p.hiSlot

/-- The region that owns a shelf, when its PAIRED bit is set. -/
def pairedShelf (img : Image) (s : Nat) : Bool := img.regions.any fun r => r.paired && r.owns s

def slotUsed (img : Image) (s k : Nat) : Bool := match img.chainEntry? s with | some e => e.uses k | none => false

def pairingOk (img : Image) : Bool :=
  let ps := img.pairs
  let named := ps.flatMap fun p => [p.hiShelf * 64 + p.hiSlot, p.loShelf * 64 + p.loSlot]
  decide ((img.body 2).length % 4 = 0) && rising (ps.map pairKey)
    && ps.all (fun p => !p.rsv && p.hiShelf == p.loShelf && p.hiSlot != p.loSlot && pairedShelf img p.hiShelf
        && slotUsed img p.hiShelf p.hiSlot && slotUsed img p.loShelf p.loSlot)
    && distinct named
    && (img.regions.filter (·.paired)).all (fun r => r.shelves.all fun s =>
        (List.range 64).all fun k => !slotUsed img s k || named.elem (s * 64 + k))

/-! ### 0x0003 LEDGER_CHAINS (R79) -/

def owned (img : Image) (s : Nat) : Bool := img.regions.any fun r => r.owns s

def chainEntryOk (e : ChainEntry) : Bool :=
  decide (e.shelf < 512 ∧ 1 ≤ e.count ∧ e.count ≤ 64) && zeroAt e.raw 3 5
    && (List.range 64).all (fun k => if e.uses k then decide (e.chain k < e.count) else decide (e.chain k = 0))
    && (List.range e.count).all (fun c => !(e.slots c).isEmpty)

def chainsOk (img : Image) : Bool :=
  let es := img.chainEntries
  decide ((img.body 3).length % 64 = 0) && distinct (es.map (·.shelf)) && es.all chainEntryOk
    && es.all (fun e => owned img e.shelf)
    && (List.range 512).all (fun s => !owned img s || es.any fun e => e.shelf == s)
    && img.pairs.all (fun p => match img.chainEntry? p.hiShelf with
        | some e => decide (e.chain p.hiSlot = e.chain p.loSlot)
        | none => false)

/-! ### 0x0004 BROADCAST_ROUTES (R438) -/

def routeKey (r : Route) : Nat := (r.region * 65536 + r.stage) * 256 + r.hall

/-- The (region, stage, hall) triples in which a stage has a leaf. -/
def leafTriples (img : Image) : List (Nat × Nat × Nat) :=
  (img.reds.map fun e => (e.region, e.stage, e.hall)).eraseDups

def routesOk (img : Image) : Bool :=
  match img.routes? with
  | none => false
  | some rs =>
    rising (rs.map routeKey)
      && rs.all (fun r => (leafTriples img).elem (r.region, r.stage, r.hall)
          && Config.routeDelivers r.region r.stage r.hall r.words)
      && (leafTriples img).all (fun t => rs.any fun r => (r.region, r.stage, r.hall) == t)

/-! ### 0x0005 REDUCTION_ORDER (R85, R88, R440) -/

/-- Does a stage split K across members of an orbit? Such leaves do not lie within this module (R88). -/
def orbitReduce (img : Image) (r st : Nat) : Bool := img.orbit.entries.any fun e => e.1 == r && e.2.1 == 1 && e.2.2.1 == st

/-- R88, as far as the image alone shows it. -/
def wideEligible (img : Image) (r st q : Nat) : Bool :=
  let es := (img.stageReds r st).filter fun e => e.group == q
  !es.isEmpty && es.all (·.wide) && !orbitReduce img r st

def redOk (img : Image) (e : RedEntry) : Bool :=
  match img.region? e.region with
  | none => false
  | some r =>
    decide (e.hall < 4) && !e.flagsRsv && distinct e.leaves && (img.recipe? e.region e.stage).isSome
      && e.leaves.all (fun l => decide (l < 8192) && r.owns (128 * e.hall + leafShelf l)
          && (match img.chainEntry? (128 * e.hall + leafShelf l) with
              | some c => decide (leafChain l < c.count)
              | none => false))
      && (!e.wide || wideEligible img e.region e.stage e.group)

/-- The stages that REDUCTION_ORDER names. -/
def redStages (img : Image) : List (Nat × Nat) := (img.reds.map fun e => (e.region, e.stage)).eraseDups

/-- The stages that RECIPES names. -/
def recipeStages (img : Image) : List (Nat × Nat) := (img.recipes.map fun x => (x.region, x.stage)).eraseDups

/-- Is every chain of the shelves that a region with stages owns a leaf of some entry of its hall (R85)? Only an entry gives a chain to a
stage, so 'a stage has a chain in a hall that no entry covers' is read so: a chain that no entry of the region names, or a stage that has
no entry at all (DEDUCED, log entry 56). A region without stages has nothing to cover (Table 2-9). -/
def chainsCovered (img : Image) : Bool :=
  img.regions.all fun r =>
    !(img.recipes.any fun x => x.region == r.id) ||
      r.shelves.all fun sh => (img.chainEntry? sh).elim true fun c => (List.range c.count).all fun k =>
        img.reds.any fun e => e.region == r.id && e.hall == sh / 128 && e.leaves.any fun l => leafShelf l == sh % 128 && leafChain l == k

/-- R85. -/
def redsOk (img : Image) : Bool :=
  match img.reds? with
  | none => false
  | some es =>
    es.all (redOk img)
      && distinct (es.map fun e => (e.region, e.hall, e.stage, e.group))
      && (recipeStages img).all (fun t => decide (0 < img.groupCount t.1 t.2)) && chainsCovered img
      && (redStages img).all (fun t =>
          let g := img.groupCount t.1 t.2
          (img.stageReds t.1 t.2).all (fun e => decide (e.group < g))
            && (List.range g).all (fun q => decide (img.coveredOf t.1 t.2 q = img.coveredOf t.1 t.2 0)))

/-! ### 0x0006 SCRIBE_PROGRAMS (R109, R112, R113, R230, R249) -/

/-- The 64-bit words of a program. -/
def progWords (p : Placement) : List W64 := (entries 8 p.words).map fun e => BitVec.ofNat 64 (leNat e)

/-- The instructions that the scribe executes: all but the parameter block of a kind-3 program. -/
def progInstrs (p : Placement) : List W64 := if p.kind = 3 then (progWords p).drop 8 else progWords p

/-- The layer of a stage. -/
def layerOf (img : Image) (r st : Nat) : Option Nat := (img.recipe? r st).map (·.layer)

/-- R230. -/
def attnOk (img : Image) (p : Placement) : Bool :=
  let a := parseAttn (p.words.take 64)
  let b := p.words.take 64
  let base := BitVec.ofNat 32 a.ropeBase
  decide (9 ≤ p.len) && zeroAt b 5 1 && zeroAt b 0x1E 34
    && decide (1 ≤ a.hkv ∧ a.hkv ≤ 64 ∧ 1 ≤ a.g ∧ a.g ≤ 16)
    && (a.d == 64 || a.d == 128 || a.d == 256)
    && decide (a.ropeMode ≤ 2)
    && (if a.ropeMode = 0 then a.ropeDims == 0 else decide (a.ropeDims % 2 = 0 ∧ 2 ≤ a.ropeDims ∧ a.ropeDims ≤ a.d))
    && isFin base && flt fone base
    && isFin (BitVec.ofNat 32 a.ropeScale) && fle fone (BitVec.ofNat 32 a.ropeScale)
    && fpos (BitVec.ofNat 32 a.smScale) && decide (a.window ≤ 131072) && decide (a.kvSlot ≤ 7)
    && (match img.recipe? p.region a.qkvStage, img.recipe? p.region a.outStage with
        | some q, some o =>
          decide (img.widthOut q = (a.g + 2) * a.hkv * a.d ∧ img.widthIn o = a.g * a.hkv * a.d ∧ q.layer = o.layer
            ∧ a.qkvStage < a.outStage ∧ q.kvFormat ≤ 2 ∧ p.stage = a.qkvStage)
        | _, _ => false)

/-- A region's attention programs in ascending layer order: layer, parameter block. -/
def attnLayers (img : Image) (r : Nat) : List (Nat × Attn) :=
  let ps := (img.placements.filter fun p => p.kind == 3 && p.region == r).map fun p =>
    let a := parseAttn (p.words.take 64)
    ((layerOf img r a.qkvStage).getD 0, a)
  sortBy ps fun x y => decide (x.1 ≤ y.1)

/-- R249: a KV_SLOT of 0 opens a group, a slot s follows s − 1. -/
def kvSlotsOk : Option Nat → List Nat → Bool
  | _, [] => true
  | prev, s :: rest => (s == 0 || prev == some (s - 1)) && decide (s ≤ 7) && kvSlotsOk (some s) rest

/-- Every byte of the program area that a region's programs take, as (load, length) in words; none overlap. -/
def noOverlap : List (Nat × Nat) → Bool
  | [] => true
  | (a, n) :: rest => rest.all (fun b => decide (a + n ≤ b.1 ∨ b.1 + b.2 ≤ a)) && noOverlap rest

def placementOk (img : Image) (p : Placement) : Bool :=
  decide (p.kind ≤ 5 ∧ p.off % 8 = 0 ∧ 1 ≤ p.len ∧ p.len ≤ 16384 ∧ p.load + p.len ≤ 16384) && zeroAt p.raw 12 4
    && decide (p.words.length = 8 * p.len)
    && (img.region? p.region).isSome
    && (if p.kind = 4 ∨ p.kind = 5 then p.stage == 0xFFFF else (img.recipe? p.region p.stage).isSome)
    && (progInstrs p).all (fun w => imageWordOk (decodeWord w))
    && (p.kind != 3 || attnOk img p)

def hasProg (img : Image) (k r st : Nat) : Bool := img.placements.any fun p => p.kind == k && p.region == r && p.stage == st

def programsOk (img : Image) : Bool :=
  let ps := img.placements
  decide (16 + 16 * rd (img.body 6) 0 16 ≤ (img.body 6).length)
    && ps.all (placementOk img)
    && distinct (ps.map fun p => (p.kind, p.region, p.stage))
    && img.regions.all (fun r =>
        noOverlap ((ps.filter fun p => p.region == r.id).map fun p => (p.load, p.len))
          && (List.range (img.stageCount r.id)).all (fun st => hasProg img 0 r.id st && hasProg img 1 r.id st)
          && (img.stageCount r.id == 0 || (hasProg img 4 r.id 0xFFFF && hasProg img 5 r.id 0xFFFF))
          && distinct ((attnLayers img r.id).map (·.1))
          && kvSlotsOk none ((attnLayers img r.id).map (·.2.kvSlot)))

/-! ### 0x0007 RECIPES (R91) -/

/-- The rules of R91 that one entry breaks or keeps by itself. -/
def recipeOk (img : Image) (x : Recipe) : Bool :=
  match img.region? x.region with
  | none => false
  | some r =>
    let g := img.groupCount x.region x.stage
    decide (x.layer < r.layers) && decide (x.flags < 8) && x.rsvOk
      && decide (2 ≤ x.width ∧ x.width ≤ 8 ∧ 4 ≤ x.blockLog2 ∧ x.blockLog2 ≤ 6 ∧ x.kvFormat ≤ 2)
      && (x.dynamic || fpos (BitVec.ofNat 32 x.staticScale))
      && fpos (BitVec.ofNat 32 x.thresh)
      && decide (x.inWidth ≤ img.covered x.region x.stage)
      && (x.outWidth == 0 || decide (512 * (g - 1) + 1 ≤ x.outWidth ∧ x.outWidth ≤ 512 * g))
      && (!x.wide || (List.range g).any (wideEligible img x.region x.stage))
      && (x.useLow || r.paired)

def recipesOk (img : Image) : Bool :=
  let xs := img.recipes
  decide ((img.body 7).length % 32 = 0) && xs.all (recipeOk img) && distinct (xs.map fun x => (x.region, x.stage))
    && img.regions.all (fun r => (r.layers == 0 || 0 < img.stageCount r.id)
        && (List.range (img.stageCount r.id)).all fun st => (img.recipe? r.id st).isSome)

/-! ### 0x0008 OUTLIER_CAPACITY (R119) -/

def outliersOk (img : Image) : Bool :=
  let es := entries 8 (img.body 8)
  decide ((img.body 8).length % 8 = 0) && distinct (es.map fun e => (rd e 0 1, rd e 2 2))
    && es.all (fun e => decide (rd e 4 2 ≤ 512 ∧ rd e 4 2 % 32 = 0) && zeroAt e 1 1 && zeroAt e 6 2
        && (img.region? (rd e 0 1)).isSome && (img.recipe? (rd e 0 1) (rd e 2 2)).isSome)

/-! ### 0x0009 CARREL_TABLE (R24, R25) -/

def carrelsOk (img : Image) : Bool :=
  let cs := (List.range 1024).map img.carrel
  let regs := (img.regions.map fun r => 2 ^ r.id).sum
  decide ((img.body 9).length = 16384)
    && cs.all (fun c => decide (c.mask &&& regs = c.mask) && c.rsvOk)
    && decide (((cs.filter (·.enable)).map (·.powerShare)).sum ≤ 256)
    && decide (((cs.filter (·.enable)).map (·.loanMib)).sum ≤ 1024 * img.power.loanGib)

/-! ### 0x000A PORT_ROLES (R310) and 0x000B HEIR (R437, R310) -/

def portsOk (img : Image) : Bool :=
  let b := img.body 0xA
  let o := img.orbit
  let raw := entries 8 (b.drop 0xC0)
  decide (192 ≤ b.length ∧ b.length = 192 + 8 * rd b 0x18 4 ∧ rd b 0x18 4 ≤ 8192) && zeroAt b 7 1 && zeroAt b 0x1C 164
    && decide (o.pcieMode ≤ 1 ∧ o.role ≤ 2 ∧ 1 ≤ o.members ∧ o.members ≤ 16 ∧ o.member < o.members ∧ o.stage ≤ 7
        ∧ 1 ≤ o.stages ∧ o.stages ≤ 8)
    && (o.spareFor == 0xFF || decide (o.spareFor ≤ 14))
    && (o.stages != 1 || o.chainId == 0)
    && (o.role != 0 || (o.members == 1 && o.stages == 1 && raw.isEmpty))
    && raw.all (fun e => decide (rd e 0 1 ≤ 15 ∧ 1 ≤ rd e 1 1 ∧ rd e 1 1 ≤ 3) && zeroAt e 6 2
        && (rd e 4 2).testBit o.member && decide (rd e 4 2 < 2 ^ o.members)
        && raw.all (fun f => rd f 0 1 != rd e 0 1 || rd f 4 2 == rd e 4 2))
    && distinct (raw.map fun e => (rd e 0 1, rd e 2 2))

def heirOk (img : Image) : Bool :=
  !img.has 0xB ||
    (decide ((img.body 0xB).length = 8) && zeroAt (img.body 0xB) 1 7
      && (let h := rd (img.body 0xB) 0 1
          decide (3 ≤ img.orbit.members ∧ h ≠ img.orbit.member ∧ h < img.orbit.members)))

/-! ### 0x000C POWER_SHARES (R329) -/

def powerOk (img : Image) : Bool :=
  let b := img.body 0xC
  let p := img.power
  let tags := entries 4 (slice b 0x80 (4 * rd b 0x60 2))
  decide (b.length = 128 + 4 * rd b 0x60 2 ∧ rd b 0x60 2 ≤ 8192) && zeroAt b 9 3 && zeroAt b 0x64 28
    && decide (3000 ≤ p.capDw ∧ p.capDw ≤ 14000 ∧ 100 ≤ p.ilimDa ∧ p.ilimDa ≤ 400 ∧ rd b 4 1 < 2 ∧ p.fixedPoint ≤ 7)
    && decide (24 ≤ p.fixedPeriod ∧ p.fixedPeriod ≤ 48 ∧ 1 ≤ p.slope ∧ p.slope ≤ 16 ∧ 70 ≤ p.thermC ∧ p.thermC ≤ 100)
    && decide (p.hallShare.sum ≤ 256 ∧ 8 ≤ p.loanGib ∧ p.loanGib ≤ 128)
    && p.tagSeed.all (fun t => decide (1 ≤ t))
    && (List.range 4).all (fun h => decide (((img.hallRegions h).map fun r => rd b (0x10 + r.id) 1).sum ≤ 256))
    && tags.all (fun e => decide (rd e 1 1 ≤ 63) && (img.region? (rd e 0 1)).isSome
        && (img.recipe? (rd e 0 1) (rd e 2 2)).isSome)
    && distinct (tags.map fun e => (rd e 0 1, rd e 2 2))

/-! ### 0x000D BACKGROUND_BUDGETS (R181) -/

def budgetsOk (img : Image) : Bool :=
  !img.has 0xD ||
    (let b := img.body 0xD
     decide (b.length = 128)
      && (List.range 8).all (fun a => let e := slice b (16 * a) 16
          decide (rd e 0 1 = a ∧ rd e 1 1 < 2) && zeroAt e 12 4 && (a == 3 || a == 7 || rd e 2 2 == 0))
      && decide ((img.budget 3).idleSlots + (img.budget 7).idleSlots ≤ 16384 ∧ (img.budget 7).periodS ≤ 20))

/-! ### 0x000E VIGILANCE (R148) -/

def vigilanceOk (img : Image) : Bool :=
  let b := img.body 0xE
  let v := img.vigil
  let inF := fun x lo hi => fle lo (BitVec.ofNat 32 x) && fle (BitVec.ofNat 32 x) hi
  decide (b.length = 64 ∧ 1 ≤ v.sPeriod ∧ v.sPeriod ≤ 256 ∧ 8 ≤ v.sLag ∧ v.sLag ≤ 256 ∧ 16 ≤ v.nShort ∧ v.nShort ≤ 256
      ∧ 256 ≤ v.nBase ∧ v.nBase ≤ 8192 ∧ rd b 0x10 1 < 2)
    && inF v.sZ 0x40400000 0x41800000 && inF v.nTheta (roundF false 1 20 0) fone && zeroAt b 0x11 47

/-! ### 0x000F TRUST_LIST (R435, R434, R191) -/

/-- The parameter sets with SHAKE256 and n = 32 of NIST SP 800-208, in the encoding of R434: bit 31 set for XMSS^MT.
The numbers are PRESUMED from SP 800-208 (log entry 6). -/
def acceptedOids : List Nat := xmssSets.map (·.1)

/-- The 4-byte identifier at the start of a key, big-endian. -/
def keyIdent (key : Bytes) : Nat := leNat (key.take 4).reverse

/-- Step 4 of R28. -/
def keySetOk (k : KeyEntry) : Bool := acceptedOids.elem k.oid && keyIdent k.key == k.oid % 2 ^ 31

def trustOk (img : Image) : Bool :=
  let ks := img.trust
  decide ((img.body 0xF).length % 128 = 0 ∧ ks.length ≤ 33 ∧ img.publishers.length ≤ 32)
    && ks.all (fun k => (k.magic == magicPublisher || k.magic == magicAnchor) && k.format == 1 && k.keyLen == 68
        && k.rsvOk && keySetOk k)
    && distinct (ks.map (·.key))
    && ks.dropLast.all (fun k => k.magic == magicPublisher)

/-! ### Step 9 as a whole -/

/-- The sections with the rule each must keep, in ascending type order. -/
def sectionRules : List (Nat × (Image → Bool)) :=
  [(0x1, regionsOk), (0x2, pairingOk), (0x3, chainsOk), (0x4, routesOk), (0x5, redsOk), (0x6, programsOk),
   (0x7, recipesOk), (0x8, outliersOk), (0x9, carrelsOk), (0xA, portsOk), (0xB, heirOk), (0xC, powerOk),
   (0xD, budgetsOk), (0xE, vigilanceOk), (0xF, trustOk)]

/-- The first section, in ascending type order, whose rule is broken. -/
def firstBroken (img : Image) : Option Nat := ((sectionRules.find? fun p => !p.2 img)).map (·.1)

/-- A type that occurs twice in a list. -/
def firstDup : List Nat → Option Nat
  | [] => none
  | x :: xs => if xs.elem x then some x else firstDup xs

/-- Result codes of Table 2-8 that a check of an image can give, with FAIL_SECTION. -/
structure ImgFail where
  code : Nat
  failSection : Nat
  deriving DecidableEq, Repr

/-- Is a section type listed in Table 2-2? -/
def listedType (t : Nat) : Bool := decide (1 ≤ t ∧ t ≤ 15)

/-- Does REV_MASK name a revision: bit 0 for A1, bit 1 for B0 (Table 2-1)? Another revision byte is in no mask. -/
def revisionListed (rev mask : Nat) : Bool := (rev == 0xA1 && mask.testBit 0) || (rev == 0xB0 && mask.testBit 1)

/-- R30 from MAGIC on, over bytes in hand: `len` is the length they must have, the anchor is (parameter set, key). -/
def checkImage (rev floor : Nat) (anchor : Option (Nat × Bytes)) (len : Nat) (b : Bytes) : Option ImgFail :=
  match anchor with
  | none => some ⟨0x07, 0⟩
  | some (oid, key) =>
    if slice b 0 8 ≠ magicImage ∨ rd b 8 2 ≠ 1 ∨ rd b 0xA 2 ≠ 256 then some ⟨0x04, 0⟩
    else if rd b 0x10 8 ≠ len then some ⟨0x03, 0⟩
    else if !layoutOk b then some ⟨0x04, 0⟩
    else if !revisionListed rev (rd b 0x20 1) then some ⟨0x05, 0⟩
    else if rd b 0x18 8 < floor then some ⟨0x06, 0⟩
    else
      let mo := manifestOff b
      if slice b (mo + 0x30) 32 ≠ keyId key then some ⟨0x07, 0⟩
      else if rd b (mo + 0x50) 4 ≠ oid ∨ xmssVerify oid key (signedPart b) (signaturePart b) = false then
        some ⟨0x08, 0⟩
      else if slice b (mo + 0x10) 32 ≠ shake256 (b.take (0x100 + 32 * rd b 0xC 2)) then some ⟨0x09, 0⟩
      else
        let secs := rawSections b
        match (secs.zipIdx).find? fun p =>
            decide (shake256 p.1.body ≠ p.1.hDigest ∨ manifestDigest b p.2 ≠ p.1.hDigest) with
        | some p => some ⟨0x09, p.1.type⟩
        | none =>
          match secs.find? fun s => !listedType s.type && decide (s.flags % 2 = 1) with
          | some s => some ⟨0x0A, s.type⟩
          | none =>
            match firstDup (secs.map (·.type)) with
            | some t => some ⟨0x0A, t⟩
            | none =>
              match secs.find? fun s => listedType s.type && decide (s.hFormat ≠ 1 ∨ s.inst ≠ 0) with
              | some s => some ⟨0x0A, s.type⟩
              | none => (firstBroken (parseImage b)).map fun t => ⟨0x0B, t⟩

/-- The unknown sections that an accepted image carries and the module ignores (R22). -/
def ignoredTypes (b : Bytes) : List Nat := ((rawSections b).map (·.type)).filter fun t => !listedType t

end Sys2Proof.Machine
end

