-- ==== Sys2Proof/Machine/Packets.lean ====
section
/-!
DEFINITION. Sys2Proof/Machine/Packets.lean: the intake's packets, streams, rings and completion records (12: R270 to
R286), and the layout checks of every command body (R271, R275).
-/
namespace Sys2Proof.Machine

/-! ### Bodies (Tables 12-4, 12-5, 8-3, 9-2, 11-2) -/

/-- Opcodes the table lists. -/
def knownOp (op : Nat) : Bool := decide (1 ≤ op ∧ op ≤ 0x10) || decide (0x20 ≤ op ∧ op ≤ 0x23)

/-- Does a body keep to its command's layout: its length, its reserved fields, the ranges the layout gives? -/
def bodyOk (op : Nat) (b : Bytes) : Bool :=
  match op with
  | 0x01 => b.length == 32 && zeroAt b 1 1 && zeroAt b 0xC 4 && zeroAt b 0x18 8
  | 0x02 => b.length == 32 && zeroAt b 4 28
  | 0x03 =>
    let n := rd b 4 4
    let list := rd b 0xC 4 == 1
    decide (0x20 ≤ b.length) && decide (1 ≤ n ∧ n ≤ 131072) && decide (rd b 8 4 ≤ 65535) && decide (rd b 0xC 4 ≤ 1) &&
      decide (rd b 0x18 8 % 16 = 0) &&
      (if list then b.length == 0x20 && decide (rd b 0x10 8 % 4 = 0) else b.length == 0x20 + 4 * n && rd b 0x10 8 == 0)
  | 0x04 =>
    let n := rd b 2 2
    decide (0x20 ≤ b.length) && zeroAt b 1 1 && zeroAt b 4 4 && zeroAt b 0x10 16 && decide (1 ≤ n ∧ n ≤ 16367) &&
      decide (rd b 8 8 % 16 = 0) && b.length == 0x20 + 4 * n
  | 0x05 => b.length == 32 && decide (rd b 8 2 < 8) && zeroAt b 0xA 6 && zeroAt b 0x1C 4 &&
      ((rd b 8 2).testBit 1 || decide (rd b 0x10 8 % 4096 = 0))
  | 0x06 => b.length == 32 && zeroAt b 2 2 && zeroAt b 0xC 20
  | 0x07 => b.length == 32 && zeroAt b 0xC 20
  | 0x08 => b.length == 32 && zeroAt b 8 24
  | 0x09 => b.length == 32 && zeroAt b 4 28
  | 0x0A => b.length == 32 && zeroAt b 4 28
  | 0x0B =>
    let n := rd b 4 4
    decide (16 ≤ b.length) && zeroAt b 1 3 && zeroAt b 0xB 5 &&
      (if rd b 0 1 = 0 then decide (1 ≤ n ∧ n ≤ 2046) && b.length == 16 + 32 * n
       else rd b 0 1 == 1 && n == 0 && b.length == 16 && decide (rd b 8 2 < 1024) && decide (rd b 0xA 1 ≤ 15))
  | 0x0C => b.length == 32 && zeroAt b 4 28
  | 0x0D => b.length == 0
  | 0x0E => b.length == 32 && decide (rd b 0 1 ≤ 3) && decide (rd b 1 1 ≤ 127) && decide (rd b 2 1 ≤ 15) && rd b 3 1 == 0 &&
      zeroAt b 4 4 && decide (rd b 8 8 % 64 = 0) && zeroAt b 0x10 16
  | 0x0F => b.length == 32 && decide (rd b 0 1 ≤ 3) && decide (rd b 1 1 ≤ 127) && decide (rd b 2 1 ≤ 15) && decide (rd b 3 1 ≤ 1) &&
      zeroAt b 4 4 && decide (rd b 8 8 % 64 = 0) && zeroAt b 0x10 16
  | 0x10 => b.length == 96 && decide (8 ≤ rd b 4 4 ∧ rd b 4 4 ≤ 131072 ∧ rd b 4 4 % 8 = 0) && decide (rd b 0x18 4 ≤ 1024) &&
      zeroAt b 0x1C 4 && !zeroAt b 0x20 64
  | 0x20 => b.length == 32 && decide (rd b 2 2 < 2) && zeroAt b 4 4 && zeroAt b 0x14 12
  | 0x21 => b.length == 32 && decide (rd b 1 1 < 2) && zeroAt b 2 2 && zeroAt b 0x14 12
  | 0x22 => b.length == 32 && zeroAt b 1 31
  | 0x23 => b.length == 32 && zeroAt b 1 31
  | _ => false

/-- Does a stream's function accept an opcode (Table 12-4)? RECIPE_SET and SCRIBE_RUN take a privileged carrel. -/
def accepts (s : State) (c op : Nat) : Bool :=
  let carrel := decide (c < 1024)
  if op = 0x0B then !carrel || (carrelNow s c).privileged
  else if op = 0x10 then carrel && (carrelNow s c).privileged
  else if op = 0x0D then true
  else if 0x20 ≤ op then !carrel
  else carrel

/-- The session handles that a command names (R280). -/
def namedSessions (op : Nat) (b : Bytes) : List Nat :=
  if op = 0x04 then (List.range (rd b 2 2)).map fun i => rd b (0x20 + 4 * i) 4
  else if op = 0x07 then [rd b 0 4, rd b 4 4]
  else if op = 0x02 || op = 0x03 || op = 0x05 || op = 0x08 || op = 0x09 || op = 0x0A then [rd b 0 4]
  else []

/-! ### Streams -/

/-- Has bring-up reached step 11 (R408), so that the intake takes writes? -/
def intakeUp (s : State) : Bool := fget s Reg.RST_STATUS.INTAKE == 1

/-- Is a stream's carrel enabled (R24)? PF1's aperture needs no carrel. -/
def streamEnabled (s : State) (c : Nat) : Bool := if c < 1024 then (carrelNow s c).enable else true

/-- Is a stream's ring enabled? -/
def ringOn (s : State) (c : Nat) : Bool := fget s (Reg.CAR_RING_CTRL.ENABLE c) == 1

/-- INT.STATUS.STATE (R288) as the active port shows it: 0 DISABLED, 1 RUNNING, 2 HALTED. -/
def streamState (s : State) (c : Nat) : Nat :=
  if (streamOf s c).halted then 2 else if ringOn s c && streamEnabled s c && intakeUp s then 1 else 0

/-- The ring's base address. -/
def ringBase (s : State) (c : Nat) : Nat := fget s (Reg.CAR_RING_BASE.ADDR c) * 4096

/-- The ring header's first 16 bytes (R282). -/
def ringHeader (s : State) (c : Nat) : Bytes :=
  leBytes 4 (fget s (Reg.INT_STATUS.NEXT_OFFSET c)) ++ leBytes 4 (fget s (Reg.INT_STATUS.EXPECTED_SEQ c)) ++
    leBytes 1 (bitOf (streamOf s c).halted) ++ leBytes 7 0

/-- The header goes to host memory while the ring is enabled. -/
def writeHeader (s : State) (c : Nat) : State :=
  if ringOn s c then dmaWrite s (streamFn c) (ringBase s c) (ringHeader s c) else s

/-- The 32 bytes of a completion record (Table 12-7). -/
def recordBytes (tag seq pass status : Nat) (phase : Bool) (flags op count value tick : Nat) : Bytes :=
  leBytes 4 tag ++ leBytes 4 seq ++ leBytes 6 pass ++ leBytes 1 status ++ leBytes 1 (bitOf phase) ++ leBytes 2 flags ++
    leBytes 1 op ++ leBytes 1 0 ++ leBytes 4 count ++ leBytes 4 value ++ leBytes 4 tick

/-- Ring size in records. -/
def ringRecords (s : State) (c : Nat) : Nat := 2 ^ fget s (Reg.CAR_RING_CTRL.LOG2_RECORDS c)

/-- Vector 0 goes out and the count of records since it starts again (R284). -/
def raiseVector0 (s : State) (c : Nat) : State :=
  modStream (msix s (streamFn c) 0) c fun x => { x with unsignalled := 0 }

/-- A record is written at the next index, the phase inverting at each wrap (R281); vector 0 follows IRQ or the count of
CAR.IRQ_MOD (R284). While the ring is disabled, nothing is written and the record is lost (R286). -/
def writeRecord (s : State) (c tag seq pass status flags op count value : Nat) (irq : Bool) : State :=
  if ringOn s c then
    let st := streamOf s c
    let s1 := dmaWrite s (streamFn c) (ringBase s c + 64 + 32 * st.index)
      (recordBytes tag seq pass status st.phase flags op count value (s.clk.tick % 2 ^ 32))
    let last := decide (st.index + 1 = ringRecords s c)
    let s2 := modStream s1 c fun x => { x with
      index := if last then 0 else st.index + 1, phase := if last then !st.phase else st.phase
      unsignalled := st.unsignalled + 1 }
    if irq || decide (fget s (Reg.CAR_IRQ_MOD.COUNT c) ≤ st.unsignalled + 1) then raiseVector0 s2 c else s2
  else s

/-! ### Blocks and packets (R270, R271) -/

/-- Blocks of an aperture. -/
def blockCount : Nat := 16384

/-- Have all 64 bytes of a block arrived? -/
def blockFull (x : Stream) (i : Nat) : Bool := (sget (fun _ => freshBlock) x.blocks i).written == 2 ^ 64 - 1

/-- Has any byte of a block arrived? -/
def blockTouched (x : Stream) (i : Nat) : Bool := (sget (fun _ => freshBlock) x.blocks i).written != 0

/-- One byte laid into a block. -/
def putByte (b : Block) (j : Nat) (v : Byte) : Block :=
  { written := b.written ||| 2 ^ j, bytes := ((if b.bytes.isEmpty then List.replicate 64 0 else b.bytes)).set j v }

/-- Bytes laid into the aperture from an offset on, modulo 1 MiB. -/
def putBytes (x : Sparse Block) : Nat → Bytes → Sparse Block
  | _, [] => x
  | off, v :: vs =>
    putBytes (smod (fun _ => freshBlock) x (off / 64 % blockCount) (fun b => putByte b (off % 64) v)) (off + 1) vs

/-- The bytes of `n` blocks from block `i` on, around the wrap. -/
def blockBytes (x : Stream) (i n : Nat) : Bytes :=
  ((List.range n).map fun k => (sget (fun _ => freshBlock) x.blocks ((i + k) % blockCount)).bytes).flatten

/-- The first block of the packet at NEXT_OFFSET. -/
def nextBlock (s : State) (c : Nat) : Nat := fget s (Reg.INT_STATUS.NEXT_OFFSET c) / 64

/-- The header bytes of the packet at NEXT_OFFSET, if its header block has arrived. -/
def headerAt (s : State) (c : Nat) : Option Bytes :=
  if blockFull (streamOf s c) (nextBlock s c) then some (blockBytes (streamOf s c) (nextBlock s c) 1) else none

/-- Is the packet at NEXT_OFFSET complete: its header block and every block of its LEN have arrived? -/
def packetComplete (s : State) (c : Nat) : Bool :=
  match headerAt s c with
  | none => false
  | some h => (List.range (min (rd h 0 2) blockCount)).all fun k => blockFull (streamOf s c) ((nextBlock s c + k) % blockCount)

/-- Is the packet at NEXT_OFFSET open (R273): a block within 64 KiB has arrived and the packet is not complete? -/
def packetOpen (s : State) (c : Nat) : Bool :=
  !packetComplete s c && (List.range 1024).any fun k => blockFull (streamOf s c) ((nextBlock s c + k) % blockCount)

/-- Halt reasons (R288). -/
def haltStall : Nat := 1
def haltCrc : Nat := 2
def haltSequence : Nat := 3
def haltLength : Nat := 4

/-- The first framing check that a packet fails (R271), none if it passes. -/
def framingFault (s : State) (c : Nat) (pkt : Bytes) : Option Nat :=
  let len := rd pkt 0 2
  if len = 0 || 1024 < len then some haltLength
  else if crc32c (pkt.take (64 * len - 4)) ≠ rd pkt (64 * len - 4) 4 then some haltCrc
  else if rd pkt 4 4 ≠ fget s (Reg.INT_STATUS.EXPECTED_SEQ c) then some haltSequence
  else if 64 * len < 36 + rd pkt 0xC 4 then some haltLength
  else none

/-- The stream halts (R273): blocks discarded, a record, the header, MSI-X vector 1. -/
def haltStream (s : State) (c reason : Nat) : State :=
  let tag := match headerAt s c with | some h => rd h 8 4 | none => 0
  let s1 := modStream s c fun x => { x with blocks := [], halted := true }
  let s2 := fset s1 (Reg.INT_STATUS.HALT_REASON c) reason
  let s3 := writeRecord s2 c tag (fget s (Reg.INT_STATUS.EXPECTED_SEQ c)) 0 (if reason = haltStall then stTorn else stFormat)
    0 0xFF 0 reason false
  msix (writeHeader s3 c) (streamFn c) 1

/-- Does everything outside the framing and the body of a packet read zero (R270, R271)? -/
def packetPadOk (pkt : Bytes) : Bool :=
  let len := rd pkt 0 2
  let bl := rd pkt 0xC 4
  decide (rd pkt 3 1 ≤ 1) && zeroAt pkt 0x10 16 && zeroAt pkt (32 + bl) (64 * len - 36 - bl)

/-- The command that a packet becomes at its consumption: waiting, or finished with FORMAT or DENIED (R271). -/
def commandOf (s : State) (c : Nat) (pkt : Bytes) : Cmd :=
  let op := rd pkt 2 1
  let body := slice pkt 0x20 (rd pkt 0xC 4)
  let bad := !knownOp op || !packetPadOk pkt || !bodyOk op body
  let denied := !accepts s c op
  { stream := c, seq := rd pkt 4 4, tag := rd pkt 8 4, op := op, irq := (rd pkt 3 1).testBit 0, body := body
    phase := if bad || denied then .finished else .waiting
    status := if bad then stFormat else if denied then stDenied else stOk
    flags := 0, count := 0, value := 0, pass := 0, entries := [], passesLeft := 0, aborted := false, abortedBy := []
    fetched := [], age := s.clk.tick, skip := [], closed := none }

/-- The packet at NEXT_OFFSET is consumed (R271): its blocks leave the map, NEXT_OFFSET and EXPECTED_SEQ advance, the
command joins the queue, and the header that covers it is written (R282). -/
def consumePacket (s : State) (c : Nat) (pkt : Bytes) : State :=
  let len := rd pkt 0 2
  let first := nextBlock s c
  let s1 := modStream s c fun x => { x with blocks := sdrop (fun i => decide ((i + blockCount - first) % blockCount < len)) x.blocks }
  let s2 := { s1 with itk := { s1.itk with cmds := s1.itk.cmds ++ [commandOf s c pkt] } }
  let s3 := fset s2 (Reg.INT_STATUS.NEXT_OFFSET c) ((fget s (Reg.INT_STATUS.NEXT_OFFSET c) + 64 * len) % 2 ^ 20)
  let s4 := fset s3 (Reg.INT_STATUS.EXPECTED_SEQ c) ((fget s (Reg.INT_STATUS.EXPECTED_SEQ c) + 1) % 2 ^ 32)
  writeHeader s4 c

/-- How many commands a stream may hold consumed and unsealed (R272). -/
def queueLimit (c : Nat) : Nat := if c < 1024 then 256 else 64

/-- The intake takes every complete packet in offset order until one is incomplete, the queue is full or the stream
halts; `fuel` bounds the packets that an aperture can hold. -/
def takePackets (c : Nat) : Nat → State → State
  | 0, s => s
  | fuel + 1, s =>
    if streamState s c = 1 && packetComplete s c && decide (outstanding s c < queueLimit c) then
      let pkt := blockBytes (streamOf s c) (nextBlock s c) (min ((headerAt s c).elim 0 fun h => max 1 (rd h 0 2)) blockCount)
      match framingFault s c pkt with
      | some reason => haltStream s c reason
      | none => takePackets c fuel (consumePacket s c pkt)
    else s

/-! ### Order of service (R280) -/

/-- The regions that a command names, through its sessions or its body. -/
def namedRegions (s : State) (k : Cmd) : List Nat :=
  if k.op = 0x01 || k.op = 0x06 || k.op = 0x04 then [rd k.body 0 1]
  else if k.op = 0x0B then (if rd k.body 0 1 = 0 then (List.range (rd k.body 4 4)).map fun i => rd k.body (16 + 32 * i) 1 else [])
  else if k.op = 0x0E || k.op = 0x0F then (shelfRegion s (rd k.body 0 1 * 128 + rd k.body 1 1)).toList
  else if 0x20 ≤ k.op then [rd k.body 0 1]
  else (namedSessions k.op k.body).filterMap fun h => (findSession s h).map (·.region)

/-- Does a command begin passes, or change a recipe (KIND 0), so that a bind of its region holds it (R34, R38)? -/
def passOp (k : Cmd) : Bool := k.op == 0x03 || k.op == 0x04 || (k.op == 0x0B && rd k.body 0 1 == 0)

/-- Is a command held by a bind in progress (R34): pass work in its scope, or a SESSION_OPEN of a carrel whose change needs
an idle carrel? -/
def heldByBind (s : State) (k : Cmd) : Bool :=
  match s.img.op with
  | none => false
  | some op => (passOp k && (op.whole || (namedRegions s k).any op.regions.elem)) || (k.op == 0x01 && op.carrels.elem k.stream)

/-- Is a command held by a bind, by boot collation of a region it names (R175), by a maintenance window (R383) or by halls that have not
woken (Table 16-3)? -/
def heldCmd (s : State) (k : Cmd) : Bool :=
  heldByBind s k ||
    (namedRegions s k).any fun r => !hallsReady s r || (accOf s r).holdBoot || (match s.con.window with | some w => w.regions.elem r | none => false)

/-- Does a command name a session that is leaving for the host (Table 11-3, step 1)? SESSION_CLOSE wins over it (R265). -/
def heldBySwap (s : State) (k : Cmd) : Bool :=
  k.op != 0x02 && (namedSessions k.op k.body).any fun h => match findSession s h with
    | some x => x.res == .swappingOut
    | none => false

/-- Do two commands name a session in common? -/
def shares (a b : Cmd) : Bool := (namedSessions a.op a.body).any fun h => (namedSessions b.op b.body).elem h

/-- May this waiting command begin (R280)? `before` are the commands consumed earlier. -/
def mayBegin (s : State) (before : List Cmd) (k : Cmd) : Bool :=
  k.phase == .waiting && k.op != 0x06 && k.op != 0x0C && k.op != 0x0D && !(k.op == 0x0B && rd k.body 0 1 == 1) && !heldCmd s k &&
    !heldBySwap s k && domainReady s 1 &&
    !(before.any fun e => e.stream == k.stream && e.phase != .sealed && (e.op == 0x0D || shares e k))

/-- The rank of a stream: PF1 above every carrel, then higher PRIORITY first. -/
def serviceRank (s : State) (k : Cmd) : Nat := if k.stream < 1024 then 15 - priorityOf s k.stream + 1 else 0

/-- The ready commands in consumption order. -/
def readyCmds (s : State) : List Cmd → List Cmd → List Cmd
  | _, [] => []
  | before, k :: ks => if mayBegin s before k then k :: readyCmds s (before ++ [k]) ks else readyCmds s (before ++ [k]) ks

/-- The better of two commands under R280, the first one having been consumed earlier. -/
def serveFirst (s : State) (a b : Cmd) : Cmd := if serviceRank s b < serviceRank s a then b else a

/-- The command that begins next. -/
def nextCmd (s : State) : Option Cmd :=
  match readyCmds s [] s.itk.cmds with
  | [] => none
  | k :: ks => some (ks.foldl (serveFirst s) k)

/-- Are all commands of the stream that were consumed before `seq` sealed? -/
def earlierSealed (c seq : Nat) : List Cmd → Bool
  | [] => true
  | k :: ks =>
    if Cmd.named c seq k then true
    else (k.stream != c || k.phase == .sealed) && earlierSealed c seq ks

/-! ### Result entries (R278) -/

/-- The 16 bytes of a result entry (Table 12-6). -/
def entryBytes (e : Entry) : Bytes :=
  leBytes 4 e.session ++ leBytes 4 e.token ++ leBytes 4 e.position ++ leBytes 1 e.status ++ leBytes 3 0

/-- The result buffer that a command names. -/
def resultAddr (k : Cmd) : Nat := if k.op = 0x03 then rd k.body 0x18 8 else rd k.body 8 8

/-- Entries go to the result buffer of their command (R278), with its function's requester ID (R269). -/
def writeEntries (s : State) (k : Cmd) (es : List Entry) : State :=
  es.foldl (fun s e => dmaWrite s (streamFn k.stream) (resultAddr k + 16 * e.idx) (entryBytes e)) s

/-- The status of a TOKENS or STEP (R278): for STEP OK if any entry is OK, else that of entry 0; for TOKENS that of its
last entry. -/
def entriesStatus (k : Cmd) : Nat :=
  if k.op = 0x04 then
    if k.entries.any (fun e => e.status == stOk) then stOk
    else ((k.entries.find? fun e => e.idx == 0).map (·.status)).getD stOk
  else ((k.entries.foldl (fun (a : Option Entry) e => match a with
    | none => some e
    | some x => if x.idx < e.idx then some e else some x) none).map (·.status)).getD stOk

end Sys2Proof.Machine
end

