-- ==== Sys2Proof/Machine/Pages.lean ====
section
/-!
DEFINITION. Sys2Proof/Machine/Pages.lean: KV pages, the catalogue, swap extents and the choice of victims (11: R249 to
R266), as operations.
-/
namespace Sys2Proof.Machine

/-! ### Layer groups and the page map (R249, R250) -/

/-- The layer groups of a region, each the attention blocks of its layers in slot order. -/
def layerGroups (img : Image) (r : Nat) : List (List Attn) :=
  ((attnLayers img r).foldl (fun (acc : List (List Attn)) p =>
    if p.2.kvSlot = 0 then [p.2] :: acc else match acc with
      | [] => [[p.2]]
      | g :: gs => (g ++ [p.2]) :: gs) []).reverse

/-- The first position of page k. -/
def pageFirst (k : Nat) : Nat := if k = 0 then 0 else if k ≤ 9 then 16 * 2 ^ (k - 1) else 4096 * (k - 8)

/-- The span of page k in tokens. -/
def pageSpan (k : Nat) : Nat := if k = 0 then 16 else if k ≤ 9 then 16 * 2 ^ (k - 1) else 4096

/-- The SIZE code of page k. -/
def pageSizeCode (k : Nat) : Nat := if k = 0 then 0 else if k ≤ 9 then k - 1 else 8

/-- The page in which position p lies. -/
def pageOf (p : Nat) : Nat := if p < 16 then 0 else if p < 4096 then Nat.log2 (p / 16) + 1 else 8 + p / 4096

/-- Bytes of one position of a slot in a format: 0 MXFP8, 1 MXFP4, 2 BF16 (R248, R251). -/
def posBytes (a : Attn) (fmt : Nat) : Nat :=
  2 * a.hkv * (match fmt with
    | 0 => a.d + a.d / 32
    | 1 => a.d / 2 + a.d / 32
    | _ => 2 * a.d)

/-- Bytes of one position over the slots of a group. -/
def groupPosBytes (g : List Attn) (fmt : Nat) : Nat := (g.map fun a => posBytes a fmt).sum

/-- Bytes rounded up to whole 4,096-byte units. -/
def unitsBytes (n : Nat) : Nat := ceilDiv n 4096 * 4096

/-- The size of page k of a group in bytes (R251). -/
def pageBytes (g : List Attn) (fmt k : Nat) : Nat := unitsBytes (pageSpan k * groupPosBytes g fmt)

/-- The KV format of a group: KV_FORMAT of the QKV stage of its slot-0 layer, as recipes stand (R251). -/
def groupFormat (s : State) (r : Nat) (g : List Attn) : Nat :=
  match g with
  | [] => 0
  | a :: _ => ((recipeOf s r a.qkvStage).map (·.kvFormat)).getD 0

/-! ### The catalogue (R253, R441) -/

/-- A catalogue entry. -/
def pageAt (s : State) (h i : Nat) : Page := sget (fun _ => freePage) s.kv.pages (pageKey h i)

/-- The module with a catalogue entry changed. -/
def modPage (s : State) (h i : Nat) (f : Page → Page) : State :=
  { s with kv := { s.kv with pages := smod (fun _ => freePage) s.kv.pages (pageKey h i) f } }

/-- The entries in use in a hall, by index. -/
def hallPages (s : State) (h : Nat) : List (Nat × Page) :=
  (s.kv.pages.filter fun e => e.1 / 262144 == h && e.2.refs != 0).map fun e => (e.1 % 262144, e.2)

/-- The lowest number that a rising list does not hold. -/
def lowestFree : Nat → List Nat → Nat
  | n, [] => n
  | n, x :: xs => if x < n then lowestFree n xs else if x = n then lowestFree (n + 1) xs else n

/-- The used slots of a region in logical order, each pair standing at its folio of significance 16 (R189): named shelf and slot. -/
def logicalSlots (img : Image) (r : Region) : List (Nat × Nat) :=
  r.shelves.flatMap fun n => match img.chainEntry? n with
    | none => []
    | some e => ((List.range 64).filter fun k => e.uses k && !(img.pairs.any fun p => p.loShelf == n && p.loSlot == k)).map fun k => (n, k)

/-- LOGICAL of the block at place `i` of a body (R189): the place of its slot among all used slots of the region. -/
def logicalIndex (img : Image) (r : Region) (i : Nat) : Nat :=
  let used := r.shelves.flatMap fun n => match img.chainEntry? n with
    | none => []
    | some e => ((List.range 64).filter e.uses).map fun k => (n, k)
  match (logicalSlots img r)[i]? with
  | some x => used.idxOf x
  | none => i

/-- Bytes of one block in an archive copy (R212). -/
def archiveBlock (paired : Bool) : Nat := (if paired then 2 * 524288 else 524288) + 5120

/-- Bytes that an archive copy takes in a hall under a housing. -/
def copyBytes (img : Image) (r : Region) (housing : Sparse Nat) (h : Nat) : Nat :=
  ((logicalSlots img r).filter fun k => hallOf (sget (fun i => i) housing k.1) == h).length * archiveBlock r.paired

/-- Does an accession hold staging space (R212)? -/
def stages (a : Acc) : Bool := a.manifest.isSome && a.phase != .idle && a.phase != .failed

/-- Bytes of the archive copies that a hall holds (R212, R441): the copy in force, the one being staged, one not yet freed. -/
def archiveBytes (s : State) (h : Nat) : Nat :=
  (s.img.bound.regions.map fun r =>
    let a := accOf s r.id
    (if a.archive then copyBytes s.img.bound r a.housing h else 0) +
      (if stages a then copyBytes s.img.bound r a.newHousing h else 0) +
      (match a.oldArchive with | some o => copyBytes s.img.bound r o.1 h | none => 0)).sum

/-- Bytes of the stuck maps behind D1 (R203): 8 bytes an entry. -/
def stuckBytes (s : State) (h : Nat) : Nat :=
  ((s.arr.folios.filter fun e => e.1 / 68 / 128 == h).map fun e => 8 * e.2.stuckMap.length).sum

/-- Bytes of a hall's copy of its scribe programs (R441): those of the regions that it houses. -/
def programSize (s : State) (h : Nat) : Nat :=
  ((s.img.bound.placements.filter fun q => (regionHalls s q.region).elem h).map fun q => 8 * q.len).sum

/-- Bytes of a pass's scratch behind D4 (DESIGN CHOICE, log entry 24: no size is stated). -/
def passScratch : Nat := 2 ^ 20 * 64

/-- Scratch that comes out of a hall's pool while it is in use (R441): D4 of each pass in flight, in the lowest hall of its region, and the D12
buffers of runs. -/
def scratchUse (s : State) (h : Nat) : Nat :=
  (s.run.live.filter fun p => (regionHalls s p.region).head? == some h).length * passScratch +
    (s.scr.runs.map fun r => (r.shelves.filter fun x => hallOf x == h).length * r.scratch * 1024).sum

/-- Bytes of a hall's HBM that KV pages may take (R441): 96 GiB less the catalogue, the tap-bank copy area, a quarter of
the loan shelf, archive copies, stuck maps, the scribe programs, and the scratch in use. -/
def poolBytes (s : State) (h : Nat) : Nat :=
  96 * 2 ^ 30 - (8 * 2 ^ 20 + 17 * 2 ^ 20 + s.img.bound.power.loanGib * 2 ^ 30 / 4 + archiveBytes s h + stuckBytes s h + programSize s h + scratchUse s h)

/-- Free KV bytes of a hall. -/
def freeKv (s : State) (h : Nat) : Nat :=
  poolBytes s h - ((hallPages s h).map fun e => e.2.size).sum - 4096 * (s.con.withheld.filter fun k => k / 2 ^ 40 == h).length

/-- The lowest address at which `size` bytes are free, given the extents in use in rising address order. -/
def firstFit (size limit : Nat) : Nat → List (Nat × Nat) → Option Nat
  | a, [] => if a + size ≤ limit then some a else none
  | a, (b, n) :: es => if a + size ≤ b then some a else firstFit size limit (max a (b + n)) es

/-- The address of a new extent of a hall (R253); units that failed a walk are withheld (R383). -/
def placeExtent (s : State) (h size : Nat) : Option Nat :=
  let bad := (s.con.withheld.filter fun k => k / 2 ^ 40 == h).map fun k => (k % 2 ^ 40, 4096)
  firstFit size (poolBytes s h) 0 (sortBy (((hallPages s h).map fun e => (e.2.addr, e.2.size)) ++ bad) fun a b => decide (a.1 ≤ b.1))

/-- The lowest free catalogue index of a hall. -/
def freeIndex (s : State) (h : Nat) : Option Nat :=
  let i := lowestFree 0 ((hallPages s h).map (·.1))
  if i < 262144 then some i else none

/-- A new page in a hall: lowest index, first fit; none if an entry or the bytes are missing. One that holds poison from the start counts as an
entry that gained it (R267). -/
def allocPage (s : State) (h : Nat) (p : Page) : Option (State × Nat) :=
  match freeIndex s h, placeExtent s h p.size with
  | some i, some a => some (modPage (if p.poison then fbump s (Reg.KVC_STATS.POISON_PAGES h) 1 else s) h i (fun _ => { p with addr := a }), i)
  | _, _ => none

/-- The key of the 64-byte line of a hall's HBM that holds an address. -/
def lineKey (h a : Nat) : Nat := (h * 2 ^ 40 + a) / 64

/-- Is the line at an address poisoned (R259)? -/
def lineBad (s : State) (h a : Nat) : Bool := sget (fun _ => false) s.kv.bad (lineKey h a)

/-- The module with a line poisoned. -/
def spoilLine (s : State) (h a : Nat) : State :=
  { s with kv := { s.kv with bad := sset (fun _ => false) s.kv.bad (lineKey h a) true } }

/-- The module with no line of an extent poisoned. -/
def cleanLines (s : State) (h a n : Nat) : State :=
  { s with kv := { s.kv with bad := sdrop (fun k => decide (lineKey h a ≤ k ∧ k < lineKey h a + n / 64)) s.kv.bad } }

/-- The module with every line of an extent poisoned. -/
def spoilLines (s : State) (h a n : Nat) : State := (List.range (n / 64)).foldl (fun s i => spoilLine s h (a + 64 * i)) s

/-- A reference to a page is released (R258): the page is freed when the count reaches 0; COW clears at 1. A freed page takes
its poison with it. -/
def releasePage (s : State) (h i : Nat) : State :=
  let p := pageAt s h i
  let s1 := modPage s h i fun p => if p.refs ≤ 1 then freePage else { p with refs := p.refs - 1, cow := decide (2 < p.refs) }
  if p.refs ≤ 1 then cleanLines s1 h p.addr p.size else s1

/-- Every page of a session is released. -/
def releaseAll (s : State) (x : Session) : State :=
  match x.hall with
  | none => s
  | some h => x.pages.foldl (fun s p => releasePage s h p.2.2) s

/-! ### The KV hall and growth (R252, R255, R257) -/

/-- The halls that R252 chooses among: those that house a named shelf of the region, or hold a free shelf. -/
def kvHalls (s : State) (r : Nat) : List Nat :=
  (List.range 4).filter fun h => (regionHalls s r).elem h || ((List.range 128).any fun k => (shelfRegion s (h * 128 + k)).isNone)

/-- The hall with the most free KV bytes, the lowest on a tie. -/
def bestHall (s : State) (r : Nat) : Nat :=
  match kvHalls s r with
  | [] => 0
  | h :: hs => hs.foldl (fun b x => if freeKv s b < freeKv s x then x else b) h

/-- The session's KV hall, or the one it would choose. -/
def hallFor (s : State) (x : Session) : Nat := x.hall.getD (bestHall s x.region)

/-- The page of a session that covers page number k of a group. -/
def findPage (x : Session) (g k : Nat) : Option Nat := (x.pages.find? fun p => p.1 == g && p.2.1 == k).map fun p => p.2.2

/-- The pages that appending positions n to m − 1 touches in one group. -/
def touchedPages (n m : Nat) : List Nat := if m ≤ n then [] else (List.range (pageOf (m - 1) + 1)).drop (pageOf n)

/-- The bytes of a page are copied into a new page, every one of them, with its poison (R257). -/
def cowCopy (s : State) (x : Session) (h g k i : Nat) : Option State :=
  let p := pageAt s h i
  match allocPage s h { p with refs := 1, cow := false } with
  | none => none
  | some (s1, j) =>
    let s2 := releasePage s1 h i
    let s3 := modSession s2 x.handle fun x => { x with pages := x.pages.map fun q => if q == (g, k, i) then (g, k, j) else q }
    let from_ := p.addr
    let to_ := (pageAt s3 h j).addr
    let moved := (s3.kv.mem.filter fun e => decide (h * 2 ^ 40 + from_ ≤ e.1 ∧ e.1 < h * 2 ^ 40 + from_ + p.size)).map fun e => (e.1 + to_ - from_, e.2)
    let bare := sdrop (fun k => decide (h * 2 ^ 40 + to_ ≤ k ∧ k < h * 2 ^ 40 + to_ + p.size)) s3.kv.mem
    let s4 := { s3 with kv := { s3.kv with mem := moved.foldl (fun m e => sset (fun _ => (0 : Byte)) m e.1 e.2) bare } }
    let s5 := ((List.range (p.size / 64)).filter fun j => lineBad s h (from_ + 64 * j)).foldl (fun s j => spoilLine s h (to_ + 64 * j)) s4
    some (fbump s5 (Reg.KVC_STATS.COW h) 1)

/-- One page that an append to positions from n on needs: allocated, copied if shared, or already its own (R255). -/
def needPage (s : State) (handle g : Nat) (grp : List Attn) (k : Nat) : Option State :=
  match findSession s handle with
  | none => some s
  | some x =>
    let h := hallFor s x
    match findPage x g k with
    | some i => if 1 < (pageAt s h i).refs then cowCopy s x h g k i else some s
    | none =>
      let fmt := groupFormat s x.region grp
      match allocPage s h { freePage with
          size := pageBytes grp fmt k, refs := 1, carrel := handleCarrel handle, sizeCode := pageSizeCode k, format := fmt
          group := g, region := x.region } with
      | none => none
      | some (s1, i) =>
        some (modSession s1 handle fun x => { x with hall := some h, pages := x.pages ++ [(g, k, i)] })

/-- Steps that may fail, run in order. -/
def foldOpt {α β : Type} (f : β → α → Option β) : β → List α → Option β
  | b, [] => some b
  | b, x :: xs => match f b x with
    | none => none
    | some b' => foldOpt f b' xs

/-- Every page that a session needs for `count` new positions, in every layer group (R255). -/
def growSession (s : State) (handle count : Nat) : Option State :=
  match findSession s handle with
  | none => some s
  | some x =>
    let n := x.length
    foldOpt (fun s gi => foldOpt (fun s k => needPage s handle gi.2 gi.1 k) s (touchedPages n (n + count))) s
      ((layerGroups s.img.bound x.region).zipIdx)

/-! ### Swap extents (R262) -/

/-- The length in bytes of a page's data in an extent: its layout with span FILL. -/
def fillBytes (s : State) (p : Page) : Nat :=
  match (layerGroups s.img.bound p.region)[p.group]? with
  | some g => p.fill * groupPosBytes g p.format
  | none => 0

/-- The pages of a session as the catalogue holds them, in list order. -/
def sessionPages (s : State) (x : Session) : List Page :=
  match x.hall with
  | none => []
  | some h => x.pages.map fun q => pageAt s h q.2.2

/-- Units of a session's swap extent: the colophon, the directory, each page's data. -/
def extentUnits (s : State) (x : Session) : Nat :=
  let ps := sessionPages s x
  1 + ceilDiv (32 * ps.length) 4096 + (ps.map fun p => ceilDiv (fillBytes s p) 4096).sum

/-- Extents of a carrel's swap region in use, in rising order. -/
def swapUsed (s : State) (c : Nat) : List (Nat × Nat) :=
  sortBy ((s.kv.sessions.filter fun x => handleCarrel x.handle == c).filterMap (·.extent)) fun a b => decide (a.1 ≤ b.1)

/-- Units of a carrel's swap region, 0 until it declares one (R260). -/
def swapUnits (s : State) (c : Nat) : Nat :=
  if fget s (Reg.CAR_SWAP_BASE.VALID c) = 1 then (carrelNow s c).swapMib * 256 else 0

/-- The longest free run of units. -/
def longestRun (limit : Nat) : Nat → List (Nat × Nat) → Nat
  | a, [] => limit - a
  | a, (b, n) :: es => max (b - a) (longestRun limit (max a (b + n)) es)

/-- The largest contiguous free run of a carrel's swap region. -/
def swapRun (s : State) (c : Nat) : Nat := longestRun (swapUnits s c) 0 (swapUsed s c)

/-- An extent is reserved first-fit for a session (R260, R262). -/
def reserveExtent (s : State) (x : Session) : Option State :=
  let c := handleCarrel x.handle
  let n := extentUnits s x
  (firstFit n (swapUnits s c) 0 (swapUsed s c)).map fun a => modSession s x.handle fun x => { x with extent := some (a, n) }

/-! ### Victims (R260) -/

/-- Is a session in a pass that has begun? -/
def inPass (s : State) (h : Nat) : Bool := s.run.live.any fun p => p.sessions.elem h

/-- Does a command that has begun name a session? Only the sessions of commands not yet begun are candidates beside it. -/
def namedByBegun (s : State) (h : Nat) : Bool := s.itk.cmds.any fun k => k.phase == .begun && (namedSessions k.op k.body).elem h

/-- May this session of hall `h` be pre-empted for a session of a carrel whose PRIORITY is `prio`? -/
def candidate (s : State) (h prio : Nat) (x : Session) : Bool :=
  x.res == .resident && x.hall == some h && !inPass s x.handle && !namedByBegun s x.handle && !orbitRegion s x.region &&
    decide (priorityOf s (handleCarrel x.handle) ≤ prio) && decide (0 < swapUnits s (handleCarrel x.handle))

/-- The order in which candidates are taken: lowest PRIORITY, oldest epoch, highest carrel, highest handle. -/
def victimBefore (s : State) (a b : Session) : Bool :=
  let pa := priorityOf s (handleCarrel a.handle)
  let pb := priorityOf s (handleCarrel b.handle)
  if pa ≠ pb then decide (pa < pb)
  else if a.lastEpoch ≠ b.lastEpoch then decide (a.lastEpoch < b.lastEpoch)
  else if handleCarrel a.handle ≠ handleCarrel b.handle then decide (handleCarrel b.handle < handleCarrel a.handle)
  else decide (b.handle ≤ a.handle)

/-- The module as it would stand with a victim's private pages freed. -/
def withoutVictim (s : State) (x : Session) : State :=
  modSession (releaseAll s x) x.handle fun x => { x with pages := [], hall := none }

/-- Victims in order until `enough` holds of the module without them: the reservations made and the victims chosen. -/
def chooseVictims (enough : State → Bool) : State → State → List Session → List Nat → Option (State × List Nat)
  | _, _, [], _ => none
  | s, ghost, x :: xs, chosen =>
    match reserveExtent s x with
    | none => chooseVictims enough s ghost xs chosen
    | some s1 =>
      let g1 := withoutVictim ghost x
      if enough g1 then some (s1, chosen ++ [x.handle]) else chooseVictims enough s1 g1 xs (chosen ++ [x.handle])

/-- The whole selection of R260 for a need of a session: none if all candidates together would not meet it. `skip` are victims
whose swap-out has failed for it (R261). -/
def selectVictims (s : State) (handle : Nat) (skip : List Nat) (enough : State → Bool) : Option (State × List Nat) :=
  match findSession s handle with
  | none => none
  | some x =>
    let h := hallFor s x
    let prio := priorityOf s (handleCarrel handle)
    let cs := sortBy (s.kv.sessions.filter fun y => y.handle != handle && !skip.elem y.handle && candidate s h prio y) (victimBefore s)
    chooseVictims enough s s cs []

/-- A session starts to leave (Table 11-3, steps 1 and 2): its extent is reserved, and the pages go to the host. -/
def startSwapOut (s : State) (h stream seq : Nat) (forCmd : Bool) : State :=
  let s1 := modSession s h fun x => { x with res := .swappingOut, swapStep := 2 }
  { s1 with kv := { s1.kv with swaps := s1.kv.swaps ++ [⟨h, stream, seq, forCmd, s.clk.epoch⟩] } }

/-- Is a victim of a command's need still on its way out (R261)? -/
def victimsOut (s : State) (stream seq : Nat) : Bool := s.kv.swaps.any fun w => !w.forCmd && w.stream == stream && w.seq == seq

/-! ### Extent bytes (R262, Tables 11-1 and 11-4) -/

/-- The 32 bytes of a catalogue entry (Table 11-1). -/
def entry32 (p : Page) : Bytes :=
  leBytes 8 p.addr ++ leBytes 6 p.epochFirst ++ leBytes 6 p.epochLast ++ leBytes 2 p.refs ++ leBytes 2 p.carrel ++
    leBytes 2 p.fill ++ leBytes 1 (p.sizeCode + 16 * p.format) ++ leBytes 1 (bitOf p.poison + 2 * bitOf p.cow) ++
    leBytes 2 p.group ++ leBytes 1 p.region ++ leBytes 1 0

/-- An entry read back from a directory. -/
def readEntry32 (b : Bytes) : Page :=
  { addr := rd b 0 8, size := 0, epochFirst := rd b 8 6, epochLast := rd b 0xE 6, refs := rd b 0x14 2, carrel := rd b 0x16 2 % 1024
    fill := rd b 0x18 2, sizeCode := rd b 0x1A 1 % 16, format := rd b 0x1A 1 / 16 % 4, poison := (rd b 0x1B 1).testBit 0
    cow := (rd b 0x1B 1).testBit 1, group := rd b 0x1C 2, region := rd b 0x1E 1 }

/-- A byte of HBM of a hall. -/
def hbm (s : State) (h a : Nat) : Byte := sget (fun _ => (0 : Byte)) s.kv.mem (h * 2 ^ 40 + a)

/-- `n` bytes of HBM. -/
def hbmBytes (s : State) (h a n : Nat) : Bytes := (List.range n).map fun i => hbm s h (a + i)

/-- Bytes written into HBM. -/
def hbmWrite (s : State) (h a : Nat) (bs : Bytes) : State :=
  { s with kv := { s.kv with
      mem := bs.zipIdx.foldl (fun m p => sset (fun _ => (0 : Byte)) m (h * 2 ^ 40 + a + p.2) p.1) s.kv.mem } }

/-- Bytes padded with zeros to whole units. -/
def padUnits (b : Bytes) : Bytes := b ++ List.replicate (unitsBytes b.length - b.length) 0

/-- The areas of a page as laid out with a span: for each slot its K and its V area, offset in the page and bytes a
position (R251). -/
def pageAreas (g : List Attn) (fmt span : Nat) : List (Nat × Nat) :=
  let one := (g.map fun a => [posBytes a fmt / 2, posBytes a fmt / 2]).flatten
  (one.foldl (fun (acc : List (Nat × Nat) × Nat) w => (acc.1 ++ [(acc.2, w)], acc.2 + span * w)) ([], 0)).1

/-- The data of a page in an extent: each area's first FILL positions. -/
def pageData (s : State) (h : Nat) (p : Page) : Bytes :=
  match (layerGroups s.img.bound p.region)[p.group]? with
  | none => []
  | some g =>
    ((pageAreas g p.format (16 * 2 ^ p.sizeCode)).map fun a => hbmBytes s h (p.addr + a.1) (p.fill * a.2)).flatten

/-- The body of a session's extent: directory, then each page's data. -/
def extentBody (s : State) (x : Session) : Bytes :=
  match x.hall with
  | none => []
  | some h =>
    let ps := sessionPages s x
    let datas := ps.map fun p => padUnits (pageData s h p)
    let start := 4096 + unitsBytes (32 * ps.length)
    let dir := ((ps.zip datas).foldl (fun (acc : Bytes × Nat) pd =>
      (acc.1 ++ entry32 { pd.1 with addr := acc.2, refs := 0, cow := false }, acc.2 + pd.2.length)) ([], start)).1
    padUnits dir ++ datas.flatten

/-- "CV48COMT". -/
def magicComet : Bytes := asciiBytes [0x43, 0x56, 0x34, 0x38, 0x43, 0x4F, 0x4D, 0x54]

/-- The colophon record of a comet (Table 11-4). -/
def colophonBytes (x : Session) (pages epoch : Nat) (body : Bytes) : Bytes :=
  magicComet ++ leBytes 4 x.handle ++ leBytes 4 pages ++ leBytes 8 x.length ++ leBytes 6 epoch ++ leBytes 2 0 ++
    leBytes 8 body.length ++ shake256 body ++ List.replicate 4024 0

/-- The function and address of a carrel's swap region (R269). -/
def swapFn (s : State) (c : Nat) : Fn := if fget s (Reg.CAR_SWAP_BASE.BULK c) = 1 then bulkFn s else .vf c
def swapAddr (s : State) (c unit : Nat) : Nat := fget s (Reg.CAR_SWAP_BASE.ADDR c) * 4096 + unit * 4096

/-- The pages of a return are freed and the session is a comet again. -/
def giveUpReturn (s : State) (x : Session) : State :=
  modSession (releaseAll s x) x.handle fun y => { y with res := .comet, swapStep := 0, pages := [] }

/-! ### Closing (R258, R266) -/

/-- A session closes: pages released, a comet's extent freed with it, a swap-out abandoned (R265). -/
def closeSession (s : State) (h : Nat) : State :=
  match findSession s h with
  | none => s
  | some x =>
    let s1 := releaseAll s x
    { s1 with kv := { s1.kv with sessions := s1.kv.sessions.filter (fun y => y.handle != h)
                                 swaps := s1.kv.swaps.filter (fun w => w.session != h) } }

/-- A session dies with a status (R259, Table 14-4); a dead session stays dead as it died. One that a collective's timeout kills dies
under R259 (R319): later commands that name it complete POISONED. -/
def killSession (s : State) (h status : Nat) : State :=
  modSession s h fun x => match x.dead with
    | some _ => x
    | none => { x with dead := some (if status = stTimeout then stPoisoned else status) }

end Sys2Proof.Machine
end

