-- ==== Sys2Proof/Machine/Intake.lean ====
section
/-!
DEFINITION. Sys2Proof/Machine/Intake.lean: the intake's commands and events (12: R268 to R288): packets, streams, rings,
the beginning and the seal of commands, sessions, tokens, recipes, aborts and fences.

A row that carries out a command names it by stream and sequence number and acts when that command stands in the phase
that the row needs; otherwise it has no effect (log entry 2).
-/
namespace Sys2Proof.Machine

/-! ### Streams (R270 to R274, R281, R284) -/

/-- Does the addressed port ignore aperture and intake writes: the standby port does (Table 12-1)? -/
def standbyPort (s : State) (viaStandby : Bool) : Bool := standbyMode s && viaStandby

/-- Bytes arrive in the aperture of a stream: laid into its blocks, then the intake takes what is complete (R271). -/
def arrive (s : State) (c off : Nat) (bytes : Bytes) : State :=
  takePackets c blockCount (modStream s c fun x => { x with blocks := putBytes x.blocks off bytes })

/-- PACKET_BLOCK_WRITE: a host write into an intake aperture (R271 to R273). The standby port ignores it, which is recorded (R426,
R427), a halted stream ignores it, a carrel whose ENABLE is 0 and an intake that is not up discard it (R408), and an intake that
sleeps holds it (R350); from Idle the module returns to Run (R345). -/
def execPacketBlockWrite (stream : Nat) (viaStandby : Bool) (off : Nat) (bytes : Bytes) (s : State) : Out :=
  .next (
    if unpowered s then s
    else if standbyPort s viaStandby then ignored s off (leNat (bytes.take 8))
    else if !intakeUp s || !streamEnabled s stream || (streamOf s stream).halted then s
    else if !domainReady s 1
    then { s with pst := { s.pst with writes := s.pst.writes ++ [(streamFn stream, 2 ^ 32 + off, bytes)] } }
    else arrive (leaveIdle s) stream off bytes)

/-- STALL_TIMEOUT: the stall timer of an open packet reaches INT.STALL_LIMIT (R273); where the packet is complete, the last
block has won (R274). -/
def execStallTimeout (stream : Nat) (s : State) : Out :=
  .next (if streamState s stream = 1 && packetOpen s stream then haltStream s stream haltStall else s)

/-- RESYNC: a write to INT.RESYNC (R274). Only a halted stream of the active port takes it, at an aligned offset. -/
def execResync (stream : Nat) (viaStandby : Bool) (value : Nat) (s : State) : Out :=
  let seq := nbits value 32 32
  let off := nbits value 0 20
  .next (
    if unpowered s then s
    else if !(streamOf s stream).halted || standbyPort s viaStandby || off % 64 ≠ 0 then ignored s 0x110 value
    else
      let s0 := if nbits value 20 12 = 0 then s else ignored s 0x110 value
      let s1 := modStream s0 stream fun x => { x with blocks := [], halted := false }
      let s2 := fset (fset s1 (Reg.INT_STATUS.EXPECTED_SEQ stream) seq) (Reg.INT_STATUS.NEXT_OFFSET stream) off
      takePackets stream blockCount (writeHeader (fset s2 (Reg.INT_STATUS.HALT_REASON stream) 0) stream))

/-- RING_ENABLE: a write to CAR.RING_CTRL (R281, R288). LOG2_RECORDS changes only while ENABLE is 0; setting ENABLE, once the intake
is up (R408), starts the ring at index 0 with PHASE 1 and writes the header; clearing it needs OUTSTANDING 0. What the write may not
change is left and recorded (R8). -/
def execRingEnable (stream : Nat) (viaStandby : Bool) (value : Nat) (s : State) : Out :=
  let en := decide (value % 2 = 1)
  let log2 := nbits value 8 5
  let on := ringOn s stream
  let badLog := decide (log2 < 6 ∨ 16 < log2) || (on && decide (log2 ≠ fget s (Reg.CAR_RING_CTRL.LOG2_RECORDS stream)))
  let badEn := (en && !on && !intakeUp s) || (!en && on && decide (outstanding s stream ≠ 0))
  .next (
    if unpowered s then s
    else if standbyPort s viaStandby then ignored s 8 value
    else
      let s0 := if badLog || badEn || decide (value % 2 ^ 64 ≠ log2 * 256 + value % 2) then ignored s 8 value else s
      let s1 := if badLog then s0 else fset s0 (Reg.CAR_RING_CTRL.LOG2_RECORDS stream) log2
      if badEn || en == on then s1
      else if en then
        let s2 := modStream (fset s1 (Reg.CAR_RING_CTRL.ENABLE stream) 1) stream fun x =>
          { x with index := 0, phase := true, unsignalled := 0 }
        takePackets stream blockCount (writeHeader s2 stream)
      else fset s1 (Reg.CAR_RING_CTRL.ENABLE stream) 0)

/-- IRQ_MODERATION_TIMEOUT: the oldest record since the last vector-0 message is TIME_US old (R284). -/
def execIrqModerationTimeout (stream : Nat) (s : State) : Out :=
  .next (if 0 < (streamOf s stream).unsignalled then raiseVector0 s stream else s)

/-! ### Beginning (R276, R280, R313) -/

/-- Does this module sequence the passes of orbit regions: the primary of stage 0 (R313)? -/
def primaryHere (s : State) : Bool := fget s Reg.ORB_STATUS.STATE == 3 && s.img.bound.orbit.stage == 0

/-- The status with which a dead session answers a command: none for SESSION_CLOSE, and for PAGE_RELEASE of one that died
poisoned (R258, R259, Table 14-4). -/
def deadStatus (op : Nat) (x : Session) : Option Nat :=
  if op = 0x02 then none else if op = 0x08 then x.dead.filter (· != stPoisoned) else x.dead

/-- The first of some answers. -/
def firstSome {α : Type} : List (Option α) → Option α
  | [] => none
  | some a :: _ => some a
  | none :: xs => firstSome xs

/-- The status that ends a command at its beginning (R276, R259, R214, R313, R314), none if it begins. A primary that entered ISOLATED
completes orbit commands with PEER_LOST (R321). TOKENS under the plain image, where no session can exist, completes with REGION_OFFLINE
(R42); a PAGE_FORK of another carrel's session is left to R256's own check 1. -/
def beginStatus (s : State) (k : Cmd) : Option Nat :=
  let hs := if k.op = 0x04 then [] else namedSessions k.op k.body
  let xs := hs.filterMap (findSession s)
  let rs := if k.op = 0x01 || k.op = 0x04 || k.op = 0x06 || k.op = 0x0B then namedRegions s k else xs.map (·.region)
  firstSome [
    if k.op = 0x03 && s.img.bound.plain then some stOffline else none,
    if k.op ≠ 0x07 && hs.any (fun h => handleCarrel h ≠ k.stream) then some stDenied else none,
    if xs.length < hs.length then some stFormat else none,
    if (k.stream < 1024 || k.op = 0x0B) && rs.any (fun r => orbitRegion s r && !primaryHere s) then
      some (if s.img.bound.orbit.role == 1 && s.img.bound.orbit.stage == 0 && fget s Reg.ORB_STATUS.STATE == 4 then stPeerLost else stDenied)
    else none,
    if (k.op = 0x07 || k.op = 0x09 || k.op = 0x0A) && rs.any (orbitRegion s) then some stDenied else none,
    if k.op = 0x07 then none else firstSome (xs.map (deadStatus k.op)),
    if (k.op = 0x03 || k.op = 0x04 || k.op = 0x05 || k.op = 0x06 || k.op = 0x07) && rs.any (offline s) then some stOffline else none ]

/-- COMMAND_BEGIN: the intake begins the next ready command (R280); one that may not run finishes with its status. -/
def execCommandBegin (s : State) : Out :=
  .next (match nextCmd s with
    | none => s
    | some k => match beginStatus s k with
      | some st => finish s k.stream k.seq st 0
      | none => modCmd s k.stream k.seq fun k => { k with phase := .begun })

/-! ### Sealing (R278, R281 to R285) -/

/-- The shelves that a SCRIBE_RUN names. -/
def runShelves (body : Bytes) : List Nat := (List.range 512).filter fun h => (rd body 0x20 64).testBit h

/-- The regions that a completion is about (R155): those that its command names, that of the session which it closed, and those whose shelves a
SCRIBE_RUN names. -/
def sealRegions (s : State) (k : Cmd) : List Nat :=
  namedRegions s k ++ k.closed.toList ++ (if k.op = 0x10 then (runShelves k.body).filterMap (shelfRegion s) else [])

/-- The VIGIL flags of a command on a region with a detection outstanding (R155): VIGIL_S for class S, VIGIL_N for a norm
that rose or fell. -/
def vigilFlags (s : State) (k : Cmd) : Nat :=
  let mine := s.run.detections.filter fun d => (sealRegions s k).elem d.2.1
  (if mine.any fun d => d.2.2 == 0 then 2 ^ 6 else 0) + (if mine.any fun d => d.2.2 != 0 then 2 ^ 7 else 0)

/-- COUNT and VALUE of a record (Table 12-7). -/
def recordCount (k : Cmd) : Nat :=
  if k.op = 0x03 || k.op = 0x04 then (k.entries.filter fun e => e.token != 0xFFFFFFFF).length else k.count
def recordValue (k : Cmd) : Nat :=
  if k.op = 0x03 || k.op = 0x04 then (k.entries.filter fun e => e.status != stOk).length else k.value

/-- The record of a command is written and the command is sealed. -/
def sealCmd (s : State) (k : Cmd) : State :=
  let flags := k.flags ||| vigilFlags s k
  let s1 := modCmd s k.stream k.seq fun k => { k with phase := .sealed, count := recordCount k, value := recordValue k, flags := flags }
  writeRecord s1 k.stream k.tag k.seq k.pass k.status flags k.op (recordCount k) (recordValue k) k.irq

/-- The ABORTs that wait for a target finish when it seals (R285): OK after a stop, ALREADY_COMPLETE where the target ran on. -/
def releaseAborts (s : State) (k : Cmd) : State :=
  k.abortedBy.foldl (fun s a => modCmd s k.stream a fun x =>
    { x with phase := .finished, status := if k.status = stAborted then stOk else stAlready, count := recordCount k, value := k.seq }) s

/-- COMMAND_SEAL: a finished command seals (R281); the queue slot frees, so that a waiting packet may be consumed (R272). -/
def execCommandSeal (stream seq : Nat) (s : State) : Out :=
  .next (match (findCmd s stream seq).filter fun k => k.phase == .finished with
    | none => s
    | some k => takePackets stream blockCount (releaseAborts (sealCmd s k) k))

/-! ### Sessions (R264, R276) -/

/-- Sessions of a carrel, comets included. -/
def carrelSessions (s : State) (c : Nat) : List Session := s.kv.sessions.filter fun x => handleCarrel x.handle == c

/-- Is a carrel swap-full (R264)? -/
def swapFull (s : State) (c : Nat) : Bool :=
  decide (swapUnits s c = 0) ||
    decide (swapRun s c < (((carrelSessions s c).filter fun x => x.res == .resident).map (extentUnits s)).foldl max 0)

/-- Has every hall that R252 could choose less free KV memory than the low-water mark (R264)? -/
def lowWater (s : State) (r : Nat) : Bool :=
  (kvHalls s r).all fun h => decide (freeKv s h < fget s (Reg.KVC_CTRL.LOW_WATER_MIB h) * 2 ^ 20)

/-- The lowest session slot that no session holds. -/
def freeSlot (s : State) : Nat := lowestFree 0 (sortBy (s.kv.sessions.map fun x => handleSlot x.handle) fun a b => decide (a ≤ b))

/-- The handle for a slot with its reuse count; 0xFFFF_FFFF is no handle (R276). -/
def mintHandle (s : State) (c slot : Nat) : Nat :=
  let h := c + slot * 1024 + (sget (fun _ => 0) s.kv.reuse slot) % 64 * 2 ^ 26
  if h = 0xFFFFFFFF then c + slot * 1024 else h

/-- Are the sampling parameters of SESSION_OPEN in range (Table 12-5)? -/
def paramsOk (b : Bytes) : Bool :=
  let t := BitVec.ofNat 32 (rd b 4 4)
  let p := BitVec.ofNat 32 (rd b 8 4)
  decide (rd b 2 2 ≤ 256) && isFin t && decide (0 ≤ fkey t) && fpos p && fle p fone

/-- The new session of a SESSION_OPEN (R124, R276). -/
def newSession (h : Nat) (b : Bytes) : Session :=
  let t := BitVec.ofNat 32 (rd b 4 4)
  { handle := h, region := rd b 0 1, topK := rd b 2 2, temp := t, topP := BitVec.ofNat 32 (rd b 8 4), seed := rd b 0x10 8
    invT := frecip t, length := 0, lastToken := none, dead := none, res := .resident, hall := none, pages := []
    binding := none, nextBinding := none, lastEpoch := 0, extent := none, swapDigest := [], swapBody := 0, swapStep := 0
    retried := false, away := [], cometEpoch := 0 }

/-- The status of a SESSION_OPEN, in the order of R276. -/
def openStatus (s : State) (c : Nat) (b : Bytes) : Nat :=
  let r := rd b 0 1
  if !((carrelNow s c).mask.testBit r) then stDenied
  else if !paramsOk b then stFormat
  else if offline s r then stOffline
  else if (carrelNow s c).full (carrelSessions s c).length || 65536 ≤ s.kv.sessions.length then stNoSpace
  else if swapFull s c && lowWater s r then stNoSpace
  else stOk

/-- SESSION_OPEN (R276): a begun SESSION_OPEN creates its session and answers its handle; the members of an orbit region are told
(R314), with the handle and the words of the body as the DISPATCH's list (log entry 42). One of a carrel that a bind needs idle waits
for the bind's end, also where it had begun (R34). -/
def execSessionOpen (stream seq : Nat) (s : State) : Out :=
  .next (match (cmdIn s stream seq .begun 0x01).filter fun k => !heldByBind s k with
    | none => s
    | some k =>
      let st := openStatus s stream k.body
      if st ≠ stOk then finish s stream seq st 0
      else
        let slot := freeSlot s
        let h := mintHandle s stream slot
        let s1 := { s with kv := { s.kv with
          sessions := s.kv.sessions ++ [newSession h k.body]
          reuse := sset (fun _ => 0) s.kv.reuse slot ((sget (fun _ => 0) s.kv.reuse slot + 1) % 64) } }
        let s2 := if orbitRegion s (rd k.body 0 1)
          then sendDispatch s1 (rd k.body 0 1) 3 stream (bitOf (carrelNow s stream).classN) 0 (h :: wordsOf k.body) else s1
        finish s2 stream seq stOk h)

/-- SESSION_CLOSE (R258, R276): in every session state; a swap-out of the session is abandoned (R265); the members of an orbit
region are told (R314). -/
def execSessionClose (stream seq : Nat) (s : State) : Out :=
  .next (match cmdIn s stream seq .begun 0x02 with
    | none => s
    | some k =>
      let h := rd k.body 0 4
      let s1 := match (findSession s h).filter fun x => orbitRegion s x.region with
        | some x => sendDispatch s x.region 4 stream 0 0 [h]
        | none => s
      let s2 := modCmd (closeSession s1 h) stream seq fun k => { k with closed := (findSession s h).map (·.region) }
      finish s2 stream seq stOk 0)

/-! ### Tokens and steps (R276 to R278) -/

/-- Four-byte tokens as bytes. -/
def allBelow (n : Nat) (b : Bytes) : Bool := (entries 4 b).all fun t => decide (leNat t < n)

/-- The entry of a command for a session that joins no pass. -/
def refusedEntry (i h status pos : Nat) : Entry :=
  { idx := i, session := h, token := 0xFFFFFFFF, position := pos % 2 ^ 32, status := status }

/-- TOKENS (R277): a begun TOKENS takes its tokens, inline or fetched, and asks for 1 + GENERATE passes. -/
def execTokensCmd (stream seq : Nat) (f : Fetch) (s : State) : Out :=
  .next (match cmdIn s stream seq .begun 0x03 with
    | none => s
    | some k =>
      let n := rd k.body 4 4
      let r := ((findSession s (rd k.body 0 4)).map (·.region)).getD 0
      let toks := if rd k.body 0xC 4 = 1 then (match f with | .data b => some (b.take (4 * n)) | _ => none)
        else some (slice k.body 0x20 (4 * n))
      match toks with
      | none => finish s stream seq stFormat 0
      | some b =>
        if b.length ≠ 4 * n || !allBelow (s.img.bound.vocab r) b then finish s stream seq stFormat 0
        else modCmd s stream seq fun k => { k with fetched := b, passesLeft := 1 + rd k.body 8 4 })

/-- The status of entry i of a STEP that joins no pass (R276, R277), none if the session takes part. -/
def stepStatus (s : State) (stream region h : Nat) (earlier : List Nat) : Option Nat :=
  if earlier.elem h then some stFormat
  else if handleCarrel h ≠ stream then some stDenied
  else match findSession s h with
    | none => some stFormat
    | some x => if x.region ≠ region then some stFormat else match x.dead with
      | some d => some d
      | none => if x.lastToken.isNone then some stFormat else none

/-- The refused entries of a STEP, in batch order. A closed session has no position: a free value stands there (log entry 3). -/
def stepEntries (s : State) (k : Cmd) : List Entry :=
  let hs := namedSessions 0x04 k.body
  hs.zipIdx.filterMap fun p => (stepStatus s k.stream (rd k.body 0 1) p.1 (hs.take p.2)).map fun st =>
    refusedEntry p.2 p.1 st (match findSession s p.1 with | some x => x.length + 1 | none => Config.freeNat (s.free + p.2))

/-- STEP (R277): a begun STEP settles which sessions take part; with none it finishes, else it asks for its one pass. -/
def execStepCmd (stream seq : Nat) (s : State) : Out :=
  .next (match cmdIn s stream seq .begun 0x04 with
    | none => s
    | some k =>
      if k.passesLeft ≠ 0 then s
      else
        let es := stepEntries s k
        let s1 := { writeEntries s k es with free := s.free + rd k.body 2 2 }
        let s2 := modCmd s1 stream seq fun k => { k with entries := es, passesLeft := 1 }
        if es.length = rd k.body 2 2
        then modCmd s2 stream seq fun k => { k with phase := .finished, passesLeft := 0, status := entriesStatus k }
        else s2)

/-! ### Recipes and priorities (R38, R92, R279) -/

/-- The recipe entries of a RECIPE_SET. -/
def recipeEntries (b : Bytes) : List Recipe := (entries 32 (b.drop 16)).map parseRecipe

/-- May an entry stand (R91, R92)? Its region and stage are the bound image's, and its place and widths those in force. -/
def recipeSetOk (s : State) (x : Recipe) : Bool :=
  match recipeOf s x.region x.stage with
  | none => false
  | some y => (s.img.bound.region? x.region).isSome && decide (x.layer = y.layer ∧ x.inWidth = y.inWidth ∧ x.outWidth = y.outWidth) &&
      recipeOk s.img.bound x

/-- Recipes with some entries replaced, the later one of a stage standing (R92). Of two entries for one stage in a single RECIPE_SET the
later one stands too: R92 says so of several commands only, and R91's 'or has two' speaks of the image's section (DESIGN CHOICE, log
entry 56). -/
def putRecipes (old new : List Recipe) : List Recipe :=
  new.foldl (fun acc x => acc.filter (fun y => y.region != x.region || y.stage != x.stage) ++ [x]) old

/-- RECIPE_SET of KIND 0 (R92, R279, R439): from PF1, or from a carrel whose REGION_MASK holds every region named. It waits for each
region's first pass boundary; the members of an orbit region are told for the next PASS_ID (R313). -/
def execRecipeSet (stream seq : Nat) (s : State) : Out :=
  .next (match (cmdIn s stream seq .begun 0x0B).filter fun k => rd k.body 0 1 == 0 with
    | none => s
    | some k =>
      let es := recipeEntries k.body
      if stream < 1024 && es.any (fun x => !((carrelNow s stream).mask.testBit x.region)) then finish s stream seq stDenied 0
      else if !es.all (recipeSetOk s) then finish s stream seq stFormat 0
      else if es.any (fun x => offline s x.region) then finish s stream seq stOffline 0
      else
        let told := ((es.map (·.region)).eraseDups.filter (orbitRegion s)).foldl (fun s r =>
          sendDispatch s r 2 stream 0 (s.clk.epoch + 1) (wordsOf (((entries 32 (k.body.drop 16)).filter fun e => rd e 0 1 == r).flatten))) s
        finish { told with img := { s.img with nextRecipes := putRecipes s.img.nextRecipes es } } stream seq stOk 0)

/-- RECIPE_SET of KIND 1 (R38, R279): a carrel's PRIORITY changes when the command is consumed. -/
def execPriorityChange (stream seq : Nat) (s : State) : Out :=
  .next (match (cmdIn s stream seq .waiting 0x0B).filter fun k => rd k.body 0 1 == 1 with
    | none => s
    | some k => finish (modCarrel s (rd k.body 8 2) fun x => { x with priority := some (rd k.body 0xA 1) }) stream seq stOk 0)

/-! ### Aborts and fences (R265, R280, R285) -/

/-- A return from the host that a command was waiting for is given up: its pages are freed and the comet stays a comet (R265). -/
def stopReturns (s : State) (k : Cmd) : State :=
  (namedSessions k.op k.body).foldl (fun s h => match (findSession s h).filter fun x => x.res == .returning with
    | some x => giveUpReturn s x
    | none => s) s

/-- The target of an ABORT: the latest command of the stream with that number. -/
def abortTarget (s : State) (stream t : Nat) : Option Cmd := s.itk.cmds.reverse.find? fun k => k.stream == stream && k.seq == t

/-- Is a pass of the command in flight? -/
def passInFlight (s : State) (k : Cmd) : Bool := s.run.live.any fun p => p.stream == k.stream && p.cmd == k.seq

/-- The target of an ABORT that can be stopped is stopped (R285): at once, or at the boundary of its pass in flight. -/
def stopTarget (s : State) (k : Cmd) : State :=
  let s1 := stopReturns s k
  if passInFlight s k then modCmd s1 k.stream k.seq fun k => { k with aborted := true, passesLeft := 0 }
  else modCmd s1 k.stream k.seq fun k => { k with aborted := true, passesLeft := 0, phase := .finished, status := stAborted }

/-- Can an ABORT stop this target: it waits, it is a TOKENS or STEP that has begun, a SWAP_IN whose return has not ended, or a
run (R285, R265, R128)? -/
def stoppable (k : Cmd) : Bool :=
  k.phase == .waiting || (k.phase == .begun && (k.op == 0x03 || k.op == 0x04 || k.op == 0x0A || k.op == 0x10))

/-- Is this the job of a run? -/
def runJob (stream seq : Nat) (j : Job) : Bool := j.kind == 0xE && j.carrel == stream && j.seq == seq

/-- A scribe without the programs and the transfers of a run. -/
def stopRunOn (stream seq : Nat) (u : Scribe) : Scribe :=
  let mine := fun (p : Option Prog) => match p with | some p => runJob stream seq p.job | none => false
  { u with run := if mine u.run then none else u.run, suspended := if mine u.suspended then none else u.suspended
           ready := u.ready.filter fun j => !runJob stream seq j, xfers := u.xfers.filter fun t => !runJob stream seq t.job }

/-- Where a run's D12 buffer of a shelf lies among the scratch areas: 0 to 15 are the regions' D4. -/
def runArea (shelf buf : Nat) : Nat := 16 + shelf + 512 * buf

/-- The D12 buffers of a run are freed (R279). -/
def freeScratch (s : State) (r : Run) : State :=
  let mine := fun k => r.shelves.any fun h => k / 2 ^ 40 == runArea h r.buf
  { s with scr := { s.scr with hbm := sdrop mine s.scr.hbm, hbmPoison := sdrop (fun k => mine (64 * k)) s.scr.hbmPoison } }

/-- A run leaves the scribes (R128), its user tiles and run areas as the stop finds them; its D12 buffers are freed unread. -/
def endRun (s : State) (stream seq : Nat) : State :=
  let mine := s.scr.runs.filter fun r => r.stream == stream && r.seq == seq
  let s1 := mine.foldl freeScratch s
  { s1 with scr := { s1.scr with
      runs := s1.scr.runs.filter fun r => r.stream != stream || r.seq != seq
      unit := smapAll (fun _ => freshScribe) s1.scr.unit fun _ u => stopRunOn stream seq u } }

/-- ABORT (R285): effective on consumption; its VALUE is always the target's number (Table 12-7). -/
def execAbortCmd (stream seq : Nat) (s : State) : Out :=
  .next (match cmdIn s stream seq .waiting 0x0C with
    | none => s
    | some a =>
      let t := rd a.body 0 4
      match abortTarget s stream t with
      | none => finish s stream seq stFormat t
      | some k =>
        if t = seq || 0x20 ≤ k.op then finish s stream seq stFormat t
        else if k.phase == .sealed
        then modCmd s stream seq fun x => { x with phase := .finished, status := stAlready, count := k.count, value := t }
        else
          let s1 := if stoppable k then endRun (stopTarget s k) stream t else s
          modCmd (modCmd s1 stream seq fun x => { x with phase := .begun }) stream t fun k =>
            { k with abortedBy := k.abortedBy ++ [seq] })

/-- FENCE (R280): it finishes once every earlier command of its stream has sealed. -/
def execFenceCmd (stream seq : Nat) (s : State) : Out :=
  .next (match cmdIn s stream seq .waiting 0x0D with
    | none => s
    | some _ => if earlierSealed stream seq s.itk.cmds then finish s stream seq stOk 0 else s)

end Sys2Proof.Machine
end

