-- ==== Sys2Proof/Machine/Signatures.lean ====
section
/-!
DEFINITION. Sys2Proof/Machine/Signatures.lean: fault signature records (18: R393, R395, R396) and their CBOR encoding.
-/
namespace Sys2Proof.Machine

/-! ### CBOR (RFC 8949, Section 4.2) -/

/-- A scalar of a record. -/
inductive CAtom where
  | uint (n : Nat)
  | int (i : Int)
  | bstr (b : Bytes)
  | flt (x : W32)
  | bool (b : Bool)
  | nul
  deriving DecidableEq, Repr

/-- A value of a record: a scalar, or an array of scalars. -/
inductive CVal where
  | one (a : CAtom)
  | arr (xs : List CAtom)
  deriving DecidableEq, Repr

/-- The head of a data item: major type and argument, as short as it can be. -/
def cborHead (major n : Nat) : Bytes :=
  let m := major * 32
  if n < 24 then leBytes 1 (m + n)
  else if n < 2 ^ 8 then leBytes 1 (m + 24) ++ beBytes 1 n
  else if n < 2 ^ 16 then leBytes 1 (m + 25) ++ beBytes 2 n
  else if n < 2 ^ 32 then leBytes 1 (m + 26) ++ beBytes 4 n
  else leBytes 1 (m + 27) ++ beBytes 8 n

/-- The binary16 pattern that holds a binary32 value exactly, if one does. -/
def halfOf (x : W32) : Option Nat :=
  let s := nbits x.toNat 31 1 * 2 ^ 15
  match decF x with
  | .nan => some 0x7E00
  | .inf _ => some (s + 0x7C00)
  | .num _ m _ =>
    if m = 0 then some s
    else
      let ex := nbits x.toNat 23 8
      let fr := nbits x.toNat 0 23
      if 113 ≤ ex && ex ≤ 142 && fr % 2 ^ 13 = 0 then some (s + (ex - 112) * 2 ^ 10 + fr / 2 ^ 13)
      else if 103 ≤ ex && ex ≤ 112 && (2 ^ 23 + fr) % 2 ^ (126 - ex) = 0 then some (s + (2 ^ 23 + fr) / 2 ^ (126 - ex))
      else none

/-- A scalar in its shortest form; floats in their shortest exact form (R396). -/
def CAtom.bytes : CAtom → Bytes
  | .uint n => cborHead 0 n
  | .int i => if 0 ≤ i then cborHead 0 i.toNat else cborHead 1 (-1 - i).toNat
  | .bstr b => cborHead 2 b.length ++ b
  | .flt x => match halfOf x with
    | some h => leBytes 1 0xF9 ++ beBytes 2 h
    | none => leBytes 1 0xFA ++ beBytes 4 x.toNat
  | .bool b => leBytes 1 (if b then 0xF5 else 0xF4)
  | .nul => leBytes 1 0xF6

/-- A value. -/
def CVal.bytes : CVal → Bytes
  | .one a => a.bytes
  | .arr xs => cborHead 4 xs.length ++ (xs.map CAtom.bytes).flatten

/-- A map with the given keys, which stand in rising order. -/
def cborMap (m : List (Nat × CVal)) : Bytes :=
  cborHead 5 m.length ++ (m.map fun p => cborHead 0 p.1 ++ p.2.bytes).flatten

/-! ### Records (R395, R396) -/

/-- A number that may be absent. -/
def natOrNull : Option Nat → CAtom
  | some n => .uint n
  | none => .nul

/-- The digest of the firmware package that runs; none in recovery (R371, R372). -/
def runningDigest (s : State) : Option Bytes :=
  if s.cur.fw.recovery then none else (if s.cur.fw.running = 0 then s.cur.fw.slotA else s.cur.fw.slotB).map (·.digest)

/-- The proof library in force: that of the running package (R378), each proof with at most 64 jobs and an answer of 8 bytes. -/
def libraryNow (s : State) : List ProofDef := ((runningDigest s).elim [] Config.proofLibrary).map fun d =>
  { id := d.1 % 2 ^ 32, cls := d.2.1, jobs := min d.2.2.1 64, answer := d.2.2.2.take 8 }

/-- The SVN that runs; 0 in recovery, when no slot's package does. -/
def runningSvn (s : State) : Nat :=
  if s.cur.fw.recovery then 0 else ((if s.cur.fw.running = 0 then s.cur.fw.slotA else s.cur.fw.slotB).map (·.svn)).getD 0

/-- Keys 1 to 10 of Table 18-5. -/
def commonKeys (s : State) (kind seq : Nat) : List (Nat × CVal) :=
  [(1, .one (.uint 1)), (2, .one (.uint kind)), (3, .one (.bstr (leBytes 8 s.cur.serial))),
   (4, .one (.bstr (s.cur.revs.flatMap (leBytes 1)))), (5, .one (.uint (runningSvn s))),
   (6, .one (.uint s.img.bound.serial)), (7, .one (.uint s.clk.boots)), (8, .one (.uint seq)),
   (9, .one (.uint s.clk.epoch)), (10, .one (.uint s.clk.tick))]

/-- The newest 16,384 records are kept. -/
def fsrKeep : Nat := 16384

/-- A fault signature record with the keys that its kind carries beyond the common ones (R395, R396). -/
def fsrEmit (s : State) (kind : Nat) (keys : List (Nat × CVal)) : State :=
  let seq := s.con.fsrNext
  { s with con := { s.con with
      fsr := (⟨seq, cborMap (commonKeys s kind seq ++ keys)⟩ :: s.con.fsr).take fsrKeep
      fsrNext := seq + 1 } }

/-- The location of key 13. -/
def locationKey (hall shelf : Nat) (chain pos group : Option Nat) (named : Option Nat) : Nat × CVal :=
  (13, .arr [.uint hall, .uint shelf, natOrNull chain, natOrNull pos, natOrNull group, natOrNull named])

/-- The named shelf that a module shelf houses, if its region houses one there. -/
def namedShelf (s : State) (shelf : Nat) : Option Nat :=
  match shelfRegion s shelf with
  | none => none
  | some r => ((s.img.bound.region? r).map (·.shelves)).bind fun ns => ns.find? fun n => housedAt s r n == shelf

/-- The annals record that belongs to a fault signature record of kind 8 (R395), for an event that has none of its own (log entry 30). -/
def poisonNoted (obj : Obj) (s : State) : State := annal s 0x0500 2 obj 8 0 0

/-- The record of kind 8 of a poison origin on a shelf (R393). -/
def shelfFsr (s : State) (shelf : Nat) : State :=
  fsrEmit s 8 ((match shelfRegion s shelf with | some r => [(11, .one (.uint r))] | none => []) ++
    [locationKey (hallOf shelf) (shelf % 128) none none none (namedShelf s shelf)])

/-- The record of kind 8 of a poison origin in a hall that lies on no shelf: in its HBM, its store or at a port of it (R393). -/
def hallFsr (s : State) (hall : Nat) (region : Option Nat) : State :=
  fsrEmit s 8 ((match region with | some r => [(11, .one (.uint r))] | none => []) ++
    [(13, .arr [.uint hall, .nul, .nul, .nul, .nul, .nul])])

/-- A poison origin on a shelf: both its records (R393, R395). -/
def poisonOrigin (s : State) (shelf : Nat) : State :=
  poisonNoted { region := shelfRegion s shelf, shelf := some (shelf % 128), die := some (hallOf shelf) } (shelfFsr s shelf)

/-- A poison origin in a hall: both its records (R393, R395). -/
def poisonHbm (s : State) (hall : Nat) (region : Option Nat) : State := poisonNoted { region := region, die := some hall } (hallFsr s hall region)

end Sys2Proof.Machine
end

