-- ==== Sys2Proof/Machine/Kv.lean ====
section
/-!
DEFINITION. Sys2Proof/Machine/Kv.lean: sharing, release, swap and return of KV pages (11: R256 to R266).
-/
namespace Sys2Proof.Machine

/-! ### Forks and releases (R256, R258) -/

/-- The status of a PAGE_FORK, in the order of R256. -/
def forkStatus (s : State) (b : Bytes) : Nat :=
  match findSession s (rd b 0 4), findSession s (rd b 4 4) with
  | some p, some c =>
    let n := rd b 8 4
    let away := fun x : Session => x.res != .resident
    if p.region ≠ c.region || c.length ≠ 0 then stFormat
    else if n < 1 || p.length < n then stFormat
    else if away p || away c then stPreempted
    else if p.dead.isSome || c.dead.isSome then stPoisoned
    else if (p.pages.filter fun q => decide (pageFirst q.2.1 < n)).any fun q =>
      decide (65535 ≤ (pageAt s (p.hall.getD 0) q.2.2).refs) then stNoSpace
    else stOk
  | _, _ => stFormat

/-- The child takes the parent's pages below LENGTH by reference, and the parent's KV hall (R252, R256). -/
def forkPages (s : State) (parent child n : Nat) : State :=
  match findSession s parent, findSession s child with
  | some p, some c =>
    let h := p.hall.getD 0
    let shared := p.pages.filter fun q => decide (pageFirst q.2.1 < n)
    let s1 := releaseAll s c
    let s2 := shared.foldl (fun s q => modPage s h q.2.2 fun e => { e with refs := e.refs + 1, cow := true }) s1
    modSession s2 child fun x => { x with pages := shared, length := n, hall := p.hall }
  | _, _ => s

/-- PAGE_FORK (R256). -/
def execPageFork (stream seq : Nat) (s : State) : Out :=
  .next (match cmdIn s stream seq .begun 0x07 with
    | none => s
    | some k =>
      let st := forkStatus s k.body
      if st = stOk then finish (forkPages s (rd k.body 0 4) (rd k.body 4 4) (rd k.body 8 4)) stream seq stOk 0
      else finish s stream seq st 0)

/-- The session's pages wholly at or beyond KEEP are released; FILL of the page that holds KEEP falls unless it is shared. -/
def keepPages (s : State) (x : Session) (keep : Nat) : State :=
  let h := x.hall.getD 0
  let gone := x.pages.filter fun q => decide (keep ≤ pageFirst q.2.1)
  let held := x.pages.filter fun q => decide (pageFirst q.2.1 < keep)
  let s1 := gone.foldl (fun s q => releasePage s h q.2.2) s
  let s2 := (held.filter fun q => decide (keep < pageFirst q.2.1 + pageSpan q.2.1)).foldl (fun s q =>
    modPage s h q.2.2 fun p => if p.refs = 1 then { p with fill := min p.fill (keep - pageFirst q.2.1) } else p) s1
  modSession s2 x.handle fun x => { x with length := keep, pages := held }

/-- PAGE_RELEASE (R258). -/
def execPageRelease (stream seq : Nat) (s : State) : Out :=
  .next (match cmdIn s stream seq .begun 0x08 with
    | none => s
    | some k => match findSession s (rd k.body 0 4) with
      | none => finish s stream seq stFormat 0
      | some x =>
        if x.length < rd k.body 4 4 then finish s stream seq stFormat 0
        else if x.res != .resident then finish s stream seq stPreempted 0
        else finish (keepPages s x (rd k.body 4 4)) stream seq stOk 0)

/-! ### Waiting commands -/

/-- How many positions the next pass of a command appends to a session (R277). -/
def appendCount (k : Cmd) : Nat := if k.op = 0x03 && k.entries.isEmpty then rd k.body 4 4 else 1

/-- The index of a session's entry in its command: its place in a STEP, the number of the pass in a TOKENS (R278). -/
def entryIndex (k : Cmd) (h : Nat) : Nat := if k.op = 0x04 then (namedSessions 0x04 k.body).idxOf h else k.entries.length

/-- The position that the session's next token would take. -/
def nextPosition (s : State) (k : Cmd) (h : Nat) : Nat :=
  match findSession s h with
  | some x => x.length + appendCount k
  | none => 0

/-- An entry joins its command: written to the result buffer; the command finishes when it was its last (R278). -/
def addEntry (s : State) (k : Cmd) (e : Entry) : State :=
  let k1 := { k with entries := k.entries ++ [e] }
  let done := (k.op = 0x04 && k1.entries.length = rd k.body 2 2) || (k.op = 0x03 && (e.status ≠ stOk || k.passesLeft = 0))
  modCmd (writeEntries s k [e]) k.stream k.seq fun c =>
    let c1 := { c with entries := c.entries ++ [e] }
    if done then { c1 with phase := .finished, passesLeft := 0
                           status := if c.aborted then stAborted else entriesStatus c1 } else c1

/-- A session of a waiting TOKENS or STEP takes an entry with a status and no token; a SWAP_IN finishes with that status. -/
def refuseSession (s : State) (k : Cmd) (h status : Nat) : State :=
  if k.op = 0x0A then finish s k.stream k.seq status 0
  else if k.entries.any fun e => k.op == 0x04 && e.session == h then s
  else addEntry s k (refusedEntry (entryIndex k h) h status (nextPosition s k h))

/-- The commands that have begun and wait for a session to return. -/
def waitersOf (s : State) (h : Nat) : List Cmd :=
  s.itk.cmds.filter fun k => k.phase == .begun && (k.op == 0x03 || k.op == 0x04 || k.op == 0x0A) && (namedSessions k.op k.body).elem h &&
    !(s.run.live.any fun p => p.stream == k.stream && p.cmd == k.seq)

/-- Every waiting command learns that a session does not return. -/
def refuseWaiters (s : State) (h status : Nat) : State := (waitersOf s h).foldl (fun s k => refuseSession s k h status) s

/-! ### Swap-out (R261, R262, R264) -/

/-- Why a host read failed, as SWAP_FAILED's cause. -/
def fetchCause : Fetch → Nat
  | .data _ => 5
  | .error => 1
  | .timeout => 2
  | .poisoned => 3
  | .lost => 4

/-- The object of a record about a session. -/
def sessionObj (x : Session) : Obj := { region := some x.region, carrel := some (handleCarrel x.handle), session := some x.handle }

/-- A SWAP_FAILED record (Table 17-7). -/
def swapRecord (s : State) (x : Session) (step cause : Nat) : State :=
  annal s 0x0601 2 (sessionObj x) step ((x.extent.map fun e => e.1 * 4096).getD 0) cause

/-- Step 2 or 4 of Table 11-3 fails: the extent is released and the victim stays resident (R261). A SWAP_OUT that waited
completes with a status that the manual does not state (log entry 3); a pass that waited takes another victim. -/
def swapFailed (s : State) (x : Session) (step cause : Nat) : State :=
  let s1 := modSession (swapRecord s x step cause) x.handle fun x => { x with res := .resident, extent := none, swapStep := 0 }
  let ws := s1.kv.swaps.filter fun w => w.session == x.handle
  let s2 := { s1 with kv := { s1.kv with swaps := s1.kv.swaps.filter fun w => w.session != x.handle } }
  ws.foldl (fun s w =>
    if w.forCmd then
      let d := freeDraw s
      finish d.2 w.stream w.seq (d.1 % 14) 0
    else modCmd s w.stream w.seq fun k => { k with skip := k.skip ++ [x.handle] }) s2

/-- The epoch of step 1 of a swap-out. -/
def swapEpoch (s : State) (h : Nat) : Nat := ((s.kv.swaps.find? fun w => w.session == h).map (·.epoch)).getD 0

/-- Step 5 of Table 11-3: references released, COMET, the waiting SWAP_OUT done. -/
def becomeComet (s : State) (x : Session) : State :=
  let h := x.hall.getD 0
  let s1 := releaseAll s x
  let s2 := modSession s1 x.handle fun y =>
    { y with res := .comet, swapStep := 0, pages := [], cometEpoch := swapEpoch s x.handle
             away := x.pages.map fun q => (q.1, q.2.1, pageAt s h q.2.2) }
  let s3 := if x.hall.isSome then fbump s2 (Reg.KVC_STATS.PREEMPT h) 1 else s2
  let ws := s3.kv.swaps.filter fun w => w.session == x.handle && w.forCmd
  let s4 := { s3 with kv := { s3.kv with swaps := s3.kv.swaps.filter fun w => w.session != x.handle } }
  ws.foldl (fun s w => finish s w.stream w.seq stOk 0) s4

/-- The colophon record of a leaving session. -/
def leavingColophon (s : State) (x : Session) : Bytes := colophonBytes x x.pages.length (swapEpoch s x.handle) (extentBody s x)

/-- SWAP_OUT (R264): a resident session starts to leave, or the command completes. -/
def execSwapOut (stream seq : Nat) (s : State) : Out :=
  .next (match cmdIn s stream seq .begun 0x09 with
    | none => s
    | some k => match findSession s (rd k.body 0 4) with
      | none => finish s stream seq stFormat 0
      | some x =>
        if x.res == .comet then finish s stream seq stOk 0
        else if x.res != .resident then s
        else match reserveExtent s x with
          | none => finish s stream seq stNoSpace 0
          | some s1 => startSwapOut s1 x.handle stream seq true)

/-- Does a carrel's swap region lie in PF2's space (R269)? -/
def swapBulk (s : State) (c : Nat) : Bool := fget s (Reg.CAR_SWAP_BASE.BULK c) == 1

/-- SWAP_OUT_FLUSH_READ_DONE: steps 2 and 3 of Table 11-3: the body is in host memory, or the step fails. -/
def execSwapOutFlushReadDone (session : Nat) (f : Fetch) (s : State) : Out :=
  .next (match (findSession s session).filter fun x => x.res == .swappingOut && x.swapStep == 2 with
    | none => s
    | some x => match f, x.extent with
      | .data _, some e =>
        let c := handleCarrel session
        if !fnUp s (swapFn s c) then swapFailed s x 1 4 else
        let s1 := dmaWrite s (swapFn s c) (swapAddr s c (e.1 + 1)) (extentBody s x)
        let s2 := dmaWrite s1 (swapFn s c) (swapAddr s c e.1) (leavingColophon s x)
        modSession s2 session fun y => { y with
          swapStep := 4, swapBody := (extentBody s x).length, swapDigest := shake256 (extentBody s x) }
      | f, _ => if reissued s (swapBulk s (handleCarrel session)) f then s else swapFailed s x 1 (fetchCause f))

/-- SWAP_OUT_COLOPHON_READ_DONE: steps 4 and 5: the colophon reads back as it was written, or the step fails. -/
def execSwapOutColophonReadDone (session : Nat) (f : Fetch) (s : State) : Out :=
  .next (match (findSession s session).filter fun x => x.res == .swappingOut && x.swapStep == 4 with
    | none => s
    | some x =>
      if reissued s (swapBulk s (handleCarrel session)) f then s
      else if !fnUp s (swapFn s (handleCarrel session)) then swapFailed s x 2 4
      else if f = .data (leavingColophon s x) then becomeComet s x else swapFailed s x 2 (fetchCause f))

/-- The swaps-out whose function has lost its link or its bus mastering fail (R261); those of BULK go on through PF1 where R227 lets them. -/
def failSwaps (s : State) : State :=
  (s.kv.sessions.filter fun x => x.res == .swappingOut && !fnUp s (swapFn s (handleCarrel x.handle))).foldl (fun s x =>
    swapFailed s x (if x.swapStep = 2 then 1 else 2) 4) s

/-! ### Return (R263) -/

/-- A comet starts to return. -/
def startReturn (s : State) (h : Nat) : State :=
  modSession s h fun x => if x.res == .comet then { x with res := .returning, swapStep := 1, retried := false } else x

/-- SWAP_IN (R264). -/
def execSwapIn (stream seq : Nat) (s : State) : Out :=
  .next (match cmdIn s stream seq .begun 0x0A with
    | none => s
    | some k => match findSession s (rd k.body 0 4) with
      | none => finish s stream seq stFormat 0
      | some x =>
        if x.res == .resident then finish s stream seq stOk 0
        else if x.res == .comet then startReturn s x.handle
        else s)

/-- Do the bytes of a colophon belong to this comet: MAGIC, SESSION, BODY_LEN (R263)? -/
def colophonOk (x : Session) (b : Bytes) : Bool :=
  slice b 0 8 == magicComet && rd b 8 4 == x.handle && rd b 0x20 8 == x.swapBody

/-- Private pages for a returning session (R263), none if the hall has no room. -/
def allocReturn (s : State) (x : Session) : Option State :=
  let h := x.hall.getD 0
  foldOpt (fun s q => (allocPage s h { q.2.2 with refs := 1, cow := false }).map fun r =>
    modSession r.1 x.handle fun y => { y with pages := y.pages ++ [(q.1, q.2.1, r.2)] }) s x.away

/-- A return whose check fails, or whose data came poisoned: the session dies (R263). -/
def returnDies (s : State) (x : Session) (step cause : Nat) : State :=
  refuseWaiters (killSession (giveUpReturn (swapRecord s x step cause) x) x.handle stPoisoned) x.handle stPoisoned

/-- A return without its data or its pages: the session stays a comet, and its commands learn PREEMPTED. -/
def returnFails (s : State) (x : Session) : State := refuseWaiters (giveUpReturn s x) x.handle stPreempted

/-- A read of a return failed: it is issued once more, then given up (R263). -/
def returnReadFailed (s : State) (x : Session) (cause : Nat) : State :=
  if x.retried then returnFails (swapRecord s x 3 cause) x else modSession s x.handle fun y => { y with retried := true }

/-- A page's data go back into HBM, area by area; a page that was poisoned has every line poisoned. -/
def restorePage (s : State) (h : Nat) (p : Page) (data : Bytes) : State :=
  match (layerGroups s.img.bound p.region)[p.group]? with
  | none => s
  | some g =>
    let s1 := ((pageAreas g p.format (16 * 2 ^ p.sizeCode)).foldl (fun (a : State × Bytes) w =>
      (hbmWrite a.1 h (p.addr + w.1) (a.2.take (p.fill * w.2)), a.2.drop (p.fill * w.2))) (s, data)).1
    if p.poison then spoilLines s1 h p.addr p.size else s1

/-- The data of a checked body go into the pages of the session. -/
def restoreBody (s : State) (x : Session) (b : Bytes) : State :=
  let h := x.hall.getD 0
  let ps := sessionPages s x
  (ps.foldl (fun (a : State × Bytes) p =>
    (restorePage a.1 h p (a.2.take (fillBytes s p)), a.2.drop (unitsBytes (fillBytes s p))))
    (s, b.drop (unitsBytes (32 * ps.length)))).1

/-- The session is resident again: its extent is freed and a waiting SWAP_IN is done (R263, R264). -/
def becomeResident (s : State) (x : Session) : State :=
  let s1 := modSession s x.handle fun y => { y with res := .resident, extent := none, swapStep := 0, away := [] }
  let s2 := if x.hall.isSome then fbump s1 (Reg.KVC_STATS.SWAP_IN (x.hall.getD 0)) 1 else s1
  ((waitersOf s2 x.handle).filter fun k => k.op == 0x0A).foldl (fun s k => finish s k.stream k.seq stOk 0) s2

/-- The colophon of a returning comet was read: check it, then place its pages, pre-empting others where it must (R260) and waiting
for the victims that have been taken. -/
def colophonRead (s : State) (x : Session) (b : Bytes) : State :=
  if !colophonOk x b then returnDies s x 4 5
  else match allocReturn s x with
    | some s1 => modSession s1 x.handle fun y => { y with swapStep := 2, retried := false, swapDigest := slice b 0x28 32 }
    | none => if (waitersOf s x.handle).any fun k => victimsOut s k.stream k.seq then s else
      let skip := ((waitersOf s x.handle).head?.map (·.skip)).getD []
      match selectVictims s x.handle skip fun g => (allocReturn g x).isSome, waitersOf s x.handle with
      | some (s1, vs), k :: _ => vs.foldl (fun s v => startSwapOut s v k.stream k.seq false) s1
      | _, _ => returnFails s x

/-- COMET_RETURN_READ_DONE: a host read of a return completes: first the colophon, then the body (R263). -/
def execCometReturnReadDone (session : Nat) (f : Fetch) (s : State) : Out :=
  .next (match (findSession s session).filter fun x => x.res == .returning with
    | none => s
    | some x => match f with
      | .data b =>
        if x.swapStep = 1 then colophonRead s x b
        else if shake256 (b.take x.swapBody) = x.swapDigest && b.length = x.swapBody
        then becomeResident (restoreBody s x b) x
        else returnDies s x 4 6
      | .poisoned => returnDies s x 3 3
      | f => if reissued s (swapBulk s (handleCarrel session)) f then s else returnReadFailed s x (fetchCause f))

/-- COMPLETION_TIMEOUT: a read that a swap or a return waits for has no completion within the PCIe timeout (R261, R263). -/
def execCompletionTimeout (session : Nat) (s : State) : Out :=
  .next (match findSession s session with
    | none => s
    | some x =>
      if x.res == .returning then returnReadFailed s x 2
      else if x.res == .swappingOut then swapFailed s x (if x.swapStep = 2 then 1 else 2) 2
      else s)

/-! ### Poison (R259, R265, R393) -/

/-- The entries in use whose page holds an address of a hall. -/
def pagesAt (s : State) (h a : Nat) : List (Nat × Page) :=
  (hallPages s h).filter fun e => decide (e.2.addr ≤ a ∧ a < e.2.addr + e.2.size)

/-- A page gains POISON; the finding is recorded and counted. -/
def poisonPage (s : State) (h : Nat) (e : Nat × Page) : State :=
  let s1 := modPage s h e.1 fun p => { p with poison := true }
  let s2 := if e.2.poison then s1 else fbump s1 (Reg.KVC_STATS.POISON_PAGES h) 1
  annal s2 0x0600 3 { region := some e.2.region, carrel := some e.2.carrel, die := some h } e.1 e.2.refs 0

/-- The bytes of a hall's HBM (R15). -/
def hbmBytesOfHall : Nat := 96 * 2 ^ 30

/-- An uncorrectable error in a line of a hall's store (R244, R393): the tables lie there one after another, eight entries to a line. -/
def spoilTables (s : State) (hall line : Nat) : State :=
  let ts := (s.scr.tables.foldl (fun (acc : Nat × List HallTable) t =>
    if t.hall ≠ hall then (acc.1, acc.2 ++ [t])
    else
      let n := ceilDiv t.entries.length 8
      (acc.1 + n, acc.2 ++ [if acc.1 ≤ line ∧ line < acc.1 + n then { t with bad := ((line - acc.1) :: t.bad).eraseDups } else t])) (0, [])).2
  poisonHbm { s with scr := { s.scr with tables := ts } } hall none

/-- A line that scrub has found stays poisoned whatever becomes of the appends of a pass (R265). -/
def keepFinding (line : Nat) (s : State) : State :=
  { s with run := { s.run with live := s.run.live.map fun p => { p with marks := p.marks.map fun m => { m with lines := m.lines.filter (· != line) } } } }

/-- PATROL_SCRUB: patrol scrub finds an uncorrectable error in the line at an HBM address of a hall, or, at an address from the size of its HBM on,
in a line of the hall's store (log entry 57). -/
def execPatrolScrub (hall addr : Nat) (s : State) : Out :=
  let hits := pagesAt s hall addr
  .next (if hallOff s hall then s else if hbmBytesOfHall ≤ addr then spoilTables s hall ((addr - hbmBytesOfHall) / 64)
    else
      let s1 := spoilLine s hall addr
      keepFinding (lineKey hall addr) (match hits with
        | [] => poisonHbm s1 hall none
        | h :: _ => hits.foldl (fun s e => poisonPage s hall e) (hallFsr s1 hall (some h.2.region))))

end Sys2Proof.Machine
end

