-- ==== Sys2Proof/Machine/Formats.lean ====
section
/-!
DEFINITION. Sys2Proof/Machine/Formats.lean: the narrow formats of *Narrow formats, error bounds and vigilance*:
Table 6-1 and Table 5-8, packing (R132), conversion (R133), MX blocks (R134 to R137).
-/
namespace Sys2Proof.Machine

/-- The formats of Table 5-8, the FMT codes in order. -/
inductive Fmt where
  | fp32 | bf16 | e4m3 | e5m2 | e2m3 | e3m2 | e2m1 | int8 | int4
  | mxE4m3 | mxE5m2 | mxE2m3 | mxE3m2 | mxE2m1 | mxInt8 | int32
  deriving DecidableEq, Repr

/-- Table 5-8. -/
def fmtOf (code : Nat) : Fmt :=
  match code % 16 with
  | 0 => .fp32 | 1 => .bf16 | 2 => .e4m3 | 3 => .e5m2 | 4 => .e2m3 | 5 => .e3m2 | 6 => .e2m1 | 7 => .int8
  | 8 => .int4 | 9 => .mxE4m3 | 10 => .mxE5m2 | 11 => .mxE2m3 | 12 => .mxE3m2 | 13 => .mxE2m1 | 14 => .mxInt8
  | _ => .int32

/-- Is it a format with block scales? -/
def Fmt.isMx : Fmt → Bool
  | .mxE4m3 | .mxE5m2 | .mxE2m3 | .mxE3m2 | .mxE2m1 | .mxInt8 => true
  | _ => false

/-- Does it accumulate in INT32 (R101)? -/
def Fmt.isInt : Fmt → Bool
  | .int8 | .int4 | .int32 => true
  | _ => false

/-- The element format inside the blocks of an MX format. -/
def Fmt.elem : Fmt → Fmt
  | .mxE4m3 => .e4m3 | .mxE5m2 => .e5m2 | .mxE2m3 => .e2m3 | .mxE3m2 => .e3m2 | .mxE2m1 => .e2m1
  | f => f

/-- Bits of one element. -/
def Fmt.width : Fmt → Nat
  | .fp32 | .int32 => 32
  | .bf16 => 16
  | .e4m3 | .e5m2 | .int8 | .mxE4m3 | .mxE5m2 | .mxInt8 => 8
  | .e2m3 | .e3m2 | .mxE2m3 | .mxE3m2 => 6
  | .e2m1 | .int4 | .mxE2m1 => 4

/-- Table 6-1: exponent bits, mantissa bits, bias. -/
def Fmt.shape : Fmt → Nat × Nat × Nat
  | .e4m3 | .mxE4m3 => (4, 3, 7)
  | .e5m2 | .mxE5m2 => (5, 2, 15)
  | .e2m3 | .mxE2m3 => (2, 3, 1)
  | .e3m2 | .mxE3m2 => (3, 2, 3)
  | .e2m1 | .mxE2m1 => (2, 1, 1)
  | .bf16 => (8, 7, 127)
  | _ => (8, 23, 127)

/-- Table 6-1: emax. -/
def Fmt.emax : Fmt → Int
  | .e4m3 | .mxE4m3 => 8
  | .e5m2 | .mxE5m2 => 15
  | .e2m3 | .mxE2m3 => 2
  | .e3m2 | .mxE3m2 => 4
  | .e2m1 | .mxE2m1 => 2
  | .bf16 => 127
  | _ => 0

/-- The magnitude code of the largest finite element (Table 6-1); the codes of a format rise with the value. -/
def Fmt.maxCode : Fmt → Nat
  | .e4m3 | .mxE4m3 => 0x7E
  | .e5m2 | .mxE5m2 => 0x7B
  | .e2m3 | .mxE2m3 | .e3m2 | .mxE3m2 => 0x1F
  | .e2m1 | .mxE2m1 => 0x7
  | .bf16 => 0x7F7F
  | .int8 | .mxInt8 => 127
  | .int4 => 7
  | _ => 0x7F7FFFFF

/-- The number an element of a floating-point element format stands for (R131). -/
def decElemFloat (f : Fmt) (code : Nat) : FV :=
  let (eb, mb, bias) := f.shape
  let s := decide (nbits code (eb + mb) 1 = 1)
  let ex := nbits code mb eb
  let m := nbits code 0 mb
  let top := 2 ^ eb - 1
  if f.elem = .e4m3 && ex = 15 && m = 7 then .nan
  else if (f.elem = .e5m2 || f = .bf16) && ex = top then (if m = 0 then .inf s else .nan)
  else if ex = 0 then .num s m (1 - (bias : Int) - (mb : Int))
  else .num s (m + 2 ^ mb) ((ex : Int) - (bias : Int) - (mb : Int))

/-- The number an element of any format stands for, without a block scale (R130, R131). -/
def decElem (f : Fmt) (code : Nat) : FV :=
  match f with
  | .fp32 => decF (BitVec.ofNat 32 code)
  | .int8 => let i := signed 8 code; .num (decide (i < 0)) i.natAbs 0
  | .int4 => let i := signed 4 code; .num (decide (i < 0)) i.natAbs 0
  | .int32 => let i := signed 32 code; .num (decide (i < 0)) i.natAbs 0
  | .mxInt8 => let i := signed 8 code; .num (decide (i < 0)) i.natAbs (-6)
  | _ => decElemFloat f code

/-- The magnitude code that ± m × 2^e rounds to, ties to even, without saturation (R133, R135). -/
def roundElemMag (f : Fmt) (m : Nat) (e : Int) : Nat :=
  if m = 0 then 0
  else
    match f with
    | .int8 | .int4 => rneDiv (m * pow2 e) (pow2 (-e))
    | .mxInt8 => rneDiv (m * pow2 (e + 6)) (pow2 (-(e + 6)))
    | _ =>
      let (_, mb, bias) := f.shape
      let q := max (floorLog2 (m * pow2 e) (pow2 (-e))) (1 - (bias : Int)) - (mb : Int)
      let n := rneDiv (m * pow2 (e - q)) (pow2 (q - e))
      if n < 2 ^ mb then n else ((q + (mb : Int) + (bias : Int)).toNat <<< mb) + (n - 2 ^ mb)

/-- The element code with a sign, for a magnitude code within the format. -/
def signElem (f : Fmt) (neg : Bool) (mag : Nat) : Nat :=
  match f with
  | .int8 | .mxInt8 => if neg then (256 - mag) % 256 else mag
  | .int4 => if neg then (16 - mag) % 16 else mag
  | _ => if neg then mag + 2 ^ (f.width - 1) else mag

/-- An element code, with whether the value was beyond the largest finite element and whether a NaN was counted. -/
structure Enc where
  code : Nat
  sat : Bool
  nan : Bool
  deriving DecidableEq, Repr

/-- Conversion of an exact number to an element format (R133). -/
def encElem (f : Fmt) (v : FV) : Enc :=
  match v with
  | .nan =>
    match f.elem with
    | .e4m3 => { code := 0x7F, sat := false, nan := false }
    | .e5m2 => { code := 0x7E, sat := false, nan := false }
    | .bf16 => { code := 0x7FC0, sat := false, nan := false }
    | _ => { code := 0, sat := false, nan := true }
  | .inf s =>
    match f.elem with
    | .e5m2 => { code := signElem f s 0x7C, sat := false, nan := false }
    | .bf16 => { code := signElem f s 0x7F80, sat := false, nan := false }
    | _ => { code := signElem f s f.maxCode, sat := true, nan := false }
  | .num s m e =>
    let mag := roundElemMag f m e
    if f.maxCode < mag then
      (if f = .bf16 then { code := signElem f s 0x7F80, sat := false, nan := false }
       else { code := signElem f s f.maxCode, sat := true, nan := false })
    else { code := signElem f s mag, sat := false, nan := false }

/-- The number with its exponent moved by `x`. -/
def scaleFV (x : Int) : FV → FV
  | .num s m e => .num s m (e + x)
  | v => v

/-- The binary32 pattern of a number: exact, or ±∞ beyond the range (R133, R134). -/
def toF (v : FV) : W32 :=
  match v with
  | .nan => qnan 0 0 7
  | .inf s => infBits s
  | .num s m e => roundF s m 1 e

/-- bf16() of R118, R235, R240: FP32 rounded to BF16 and widened again. -/
def bf16R (x : W32) : W32 := BitVec.ofNat 32 ((encElem .bf16 (decF x)).code * 65536)

/-- R134: an element of an MX block under scale code `u`. -/
def decMx (f : Fmt) (u code : Nat) : FV :=
  if u = 0xFF then .nan
  else if u = 0 then .num false 0 0
  else scaleFV ((u : Int) - 127) (decElem f code)

/-- One encoded MX block: its scale code, its element codes, and which of the three counts of R136, R137 it falls
under. -/
structure MxBlock where
  scale : Nat
  codes : List Nat
  zero : Bool
  sat : Bool
  nan : Bool
  deriving DecidableEq, Repr

/-- The largest magnitude of a block as its binary32 pattern without sign. -/
def blockAmax (xs : List W32) : Nat := (xs.map fun x => nbits x.toNat 0 31).foldl max 0

/-- R135: the scale exponent chosen for a block. -/
def mxExponent (f : Fmt) (amax : Nat) : Int :=
  match decF (BitVec.ofNat 32 amax) with
  | .num _ m e =>
    let x := floorLog2 (m * pow2 e) (pow2 (-e)) - f.emax
    let x := if f.maxCode < roundElemMag f m (e - x) then x + 1 else x
    min (max x (-126)) 127
  | _ => 127

/-- R135 to R137: a block of FP32 values encoded. -/
def encMx (f : Fmt) (xs : List W32) : MxBlock :=
  if xs.any isNaN then { scale := 0xFF, codes := xs.map fun _ => 0, zero := false, sat := false, nan := true }
  else if xs.any isInf then
    { scale := 0xFE, codes := xs.map fun x => (encElem f (scaleFV (-127) (decF x))).code |> fun c =>
        (match decF x with | .inf s => signElem f s f.maxCode | _ => c)
      zero := false, sat := true, nan := false }
  else
    let amax := blockAmax xs
    let zeroBlk : MxBlock := { scale := 0, codes := xs.map fun _ => 0, zero := true, sat := false, nan := false }
    if amax = 0 then zeroBlk
    else
      let x := mxExponent f amax
      let es := xs.map fun v => encElem f (scaleFV (-x) (decF v))
      if es.all (fun e => decide (e.code % 2 ^ (f.width - 1) = 0)) then zeroBlk
      else { scale := (x + 127).toNat, codes := es.map (·.code), zero := false, sat := es.any (·.sat), nan := false }

/-- R132: element codes packed into a byte string. -/
def packElems (f : Fmt) (codes : List Nat) : Bytes :=
  leBytes (codes.length * f.width / 8) ((codes.foldr (fun c acc => c % 2 ^ f.width + acc * 2 ^ f.width) 0))

/-- R132: `n` element codes from a byte string. -/
def unpackElems (f : Fmt) (n : Nat) (bs : Bytes) : List Nat :=
  let v := leNat (bs.take (n * f.width / 8))
  (List.range n).map fun i => nbits v (i * f.width) f.width

/-- The block length MOD[1:0] selects (Table 5-7); 3 is reserved. -/
def blockLen (mod : Nat) : Nat :=
  match mod % 4 with
  | 0 => 32
  | 1 => 16
  | _ => 64

end Sys2Proof.Machine
end

