-- ==== Sys2Proof/Machine/Reals.lean ====
section
/-!
DEFINITION. Sys2Proof/Machine/Reals.lean: the real functions that the manual's formulas use (square root, logarithm, exponential, power,
sine, cosine: R105, R140, R142, R153, R179, R232, R327), in fixed point with 192 fractional bits, and the accuracies of Table 5-2.

A value here lies within 2^-160 of the exact one over the ranges that the formulas reach (log entry 53).
-/
namespace Sys2Proof.Machine

/-- 1 in fixed point. -/
def fxOne : Nat := 2 ^ 192

/-- ln 2 in fixed point. -/
def fxLn2 : Nat := 4350955369971217654477563090224794165364344896676135745069

/-- 2π in fixed point. -/
def fxTau : Nat := 39440193395453077124792266728456537782926901730380179465120

/-- The bits of ⌊√n⌋ below bit `k`, joined to those above it. -/
def isqrtFrom (n : Nat) : Nat → Nat → Nat
  | 0, acc => acc
  | k + 1, acc => isqrtFrom n k (if (acc + 2 ^ k) * (acc + 2 ^ k) ≤ n then acc + 2 ^ k else acc)

/-- ⌊√n⌋. -/
def isqrt (n : Nat) : Nat := isqrtFrom n (Nat.log2 n / 2 + 1) 0

/-- The square root of a fixed-point number. -/
def fxSqrt (x : Nat) : Nat := isqrt (x * fxOne)

/-- The terms z^(2i+1) ÷ (2i+1) of the area hyperbolic tangent from one of them on. -/
def fxArtanhFrom (z2 : Nat) : Nat → Nat → Nat → Nat
  | 0, _, _ => 0
  | n + 1, i, t => t / (2 * i + 1) + fxArtanhFrom z2 n (i + 1) (t * z2 / fxOne)

/-- ln (n ÷ d) for positive n and d. -/
def fxLn (n d : Nat) : Int :=
  let k := floorLog2 n d
  let m := n * fxOne * pow2 (-k) / (d * pow2 k)
  let z := (m - fxOne) * fxOne / (m + fxOne)
  2 * (fxArtanhFrom (z * z / fxOne) 70 0 z : Int) + k * (fxLn2 : Int)

/-- The logarithm of n ÷ d to a base, for positive n and d. -/
def fxLog (base n d : Nat) : Int := fxLn n d * (fxOne : Int) / fxLn base 1

/-- The terms of the exponential series from one of them on. -/
def fxExpFrom (r : Nat) : Nat → Nat → Nat → Nat
  | 0, _, _ => 0
  | n + 1, i, t => t + fxExpFrom r n (i + 1) (t * r / (fxOne * (i + 1)))

/-- The exponential of a fixed-point number, as m × 2^k with m in fixed point between 1 and 2. -/
def fxExp (x : Int) : Nat × Int :=
  let k := x / (fxLn2 : Int)
  (fxExpFrom (x - k * (fxLn2 : Int)).toNat 48 0 fxOne, k)

/-- (n ÷ d)^y for positive n and d, as m × 2^k. -/
def fxPow (n d : Nat) (y : Int) : Nat × Int := fxExp (fxLn n d * y / (fxOne : Int))

/-- The alternating terms of sine (from x) or cosine (from 1): each is the one before × x² ÷ ((i + 1)(i + 2)). -/
def fxWave (x2 : Nat) : Nat → Nat → Nat → Int
  | 0, _, _ => 0
  | n + 1, i, t => (t : Int) - fxWave x2 n (i + 2) (t * x2 / (fxOne * ((i + 1) * (i + 2))))

/-- The cosine of a fixed-point angle. -/
def fxCos (x : Nat) : Int := let a := x % fxTau; fxWave (a * a / fxOne) 60 0 fxOne

/-- The sine of a fixed-point angle. -/
def fxSin (x : Nat) : Int := let a := x % fxTau; fxWave (a * a / fxOne) 60 1 a

/-- The binary32 value nearest to a fixed-point number. -/
def fxRound (x : Int) : W32 := roundF (decide (x < 0)) x.natAbs 1 (-192)

/-- (n ÷ d)^(−p ÷ q) for n ≥ d > 0, as m × 2^k; exact where n ÷ d is a power of two and the exponent of the result an integer. -/
def fxRoot (n d p q : Nat) : Nat × Int := fxExp (-(fxLn n d * (p : Int) / (q : Int)))

/-- A finite non-negative binary32 value as numerator and denominator. -/
def ratOf (w : W32) : Nat × Nat :=
  match decF w with
  | .num _ m e => (m * pow2 e, pow2 (-e))
  | _ => (0, 1)

/-- n ÷ d × 2^e in binary32 where the manual states no rounding: exact where it can be, else one of the two neighbours, which the
configuration picks (log entry 53). -/
def roundEither (n d : Nat) (e : Int) : W32 :=
  if n = 0 then 0
  else
    let n := n * pow2 e
    let d := d * pow2 (-e)
    let q := max (floorLog2 n d - 23) (-149)
    let a := n * pow2 (-q)
    let b := d * pow2 q
    let m := a / b + (if a % b = 0 then 0 else if Config.roundsUp n d then 1 else 0)
    let code := if m < 2 ^ 23 then m else ((q + 150).toNat <<< 23) + (m - 2 ^ 23)
    if 0x7F800000 ≤ code then infBits false else BitVec.ofNat 32 code

/-- A fraction with a positive denominator. -/
structure Frac where
  num : Int
  den : Nat
  deriving DecidableEq, Repr

def Frac.ofInt (i : Int) : Frac := ⟨i, 1⟩
def Frac.add (a b : Frac) : Frac := ⟨a.num * b.den + b.num * a.den, a.den * b.den⟩
def Frac.neg (a : Frac) : Frac := ⟨-a.num, a.den⟩
def Frac.sub (a b : Frac) : Frac := a.add b.neg
def Frac.mul (a b : Frac) : Frac := ⟨a.num * b.num, a.den * b.den⟩
def Frac.inv (a : Frac) : Frac := ⟨a.num.sign * a.den, a.num.natAbs⟩
def Frac.div (a b : Frac) : Frac := a.mul b.inv
def Frac.abs (a : Frac) : Frac := ⟨a.num.natAbs, a.den⟩
def Frac.lt (a b : Frac) : Bool := decide (a.num * b.den < b.num * a.den)
def Frac.sum (xs : List Frac) : Frac := xs.foldl Frac.add ⟨0, 1⟩

/-- A finite binary32 value as a fraction, 0 for the others. -/
def fracOf (w : W32) : Frac :=
  match decF w with
  | .num s m e => ⟨(if s then -1 else 1) * ((m * pow2 e : Nat) : Int), pow2 (-e)⟩
  | _ => ⟨0, 1⟩

/-- rnd of R55: to the nearest integer, halves away from zero, of n / d. -/
def rndAway (n : Int) (d : Nat) : Int := n.sign * (((2 * n.natAbs + d) / (2 * d) : Nat) : Int)

def Frac.rnd (a : Frac) : Int := rndAway a.num a.den

/-- A fraction in binary32 where the manual states no rounding (log entry 53). -/
def Frac.toW (a : Frac) : W32 := let w := roundEither a.num.natAbs a.den 0; if a.num < 0 then fneg w else w

/-- A fraction as an integer where the manual states no rounding: exact where it can be, else one of the two neighbours (log entry 53). -/
def Frac.either (a : Frac) : Int :=
  a.num / (a.den : Int) + (if a.num % (a.den : Int) = 0 then 0 else if Config.roundsUp a.num.natAbs a.den then 1 else 0)

/-- √(n ÷ d × 2^e), as a number with 200 fractional bits. -/
def ratSqrt (n d : Nat) (e : Int) : Nat := isqrt (n * pow2 (e + 400) / (d * pow2 (-(e + 400))))

/-! ### The bounds that checks use (R140 to R142) -/

/-- σ_T of R140 at a junction temperature in 1/256 °C, in units of 1 ÷ 25,600,000 of column full scale. -/
def sigmaT (temp : Int) : Nat :=
  (153600 + (if 85 * 256 < temp then 15 * (temp - 85 * 256) else if temp < 25 * 256 then 20 * (25 * 256 - temp) else 0)).toNat

/-- σ_A of R140 at an age in hours, in fixed point: 0 up to a day. -/
def sigmaA (hours : Nat) : Nat := if hours ≤ 24 then 0 else (fxLog 10 hours 24 * 92 / 32615).toNat

/-- The square of σ_c of R140 in fixed point: junction temperature in 1/256 °C, window in ns, age in hours. -/
def sigmaSq (temp : Int) (window hours : Nat) : Nat :=
  fxOne * (sigmaT temp ^ 2 * (58 ^ 2 * 12 + 81 ^ 2 * max 1 window)) / (max 1 window * 100 ^ 2 * 25600000 ^ 2) + sigmaA hours ^ 2 / fxOne

/-- σ_c of R140 in fixed point. -/
def sigmaC (temp : Int) (window hours : Nat) : Nat := fxSqrt (sigmaSq temp window hours)

/-- σ_Λ of R142 in fixed point for a vector of b bits, of folios with their shifts e_f + k_f and ages, each at its own σ_c (R150). -/
def sigmaTotal (temp : Int) (window b : Nat) (fs : List (Nat × Nat)) : Nat :=
  255 * fxSqrt ((fs.map fun f => 4 ^ f.1 * sigmaSq temp window f.2).sum * ((4 ^ b - 1) / 3))

/-- The tolerance of R150: S_Z × σ_Λ + 2^−22 × |Λ_ref|. -/
def toleranceOf (z : W32) (sigma : Nat) (ref : Int) : W32 :=
  let (n, d) := ratOf z
  roundEither (n * sigma * 2 ^ 22 + ref.natAbs * fxOne * d) (d * fxOne) (-22)

/-- ‖y‖ ÷ ‖x‖ of R153 from the squares that NORMW hands over. -/
def normRatio (y x : W32) : W32 :=
  match decF y, decF x with
  | .num s n f, .num t m e => if (s && n != 0) || (t && m != 0) then qnan y x 11 else if m = 0 then infBits false else roundEither (ratSqrt n m (f - e)) 1 (-200)
  | .inf false, .num false _ _ => infBits false
  | .num false _ _, .inf false => 0
  | _, _ => qnan y x 11

/-! ### Rotary tables (R232) -/

/-- w[i] of R232: base^(−2i ÷ r) ÷ scale, rounded once. -/
def ropeFreq (base scale : W32) (r i : Nat) : W32 :=
  let (n, d) := ratOf base
  let (sn, sd) := ratOf scale
  let (m, k) := fxRoot n d (2 * i) r
  roundF false (m * sd) sn (k - 192)

/-- n × w in fixed point, exact. -/
def ropeArg (w : W32) (n : Nat) : Nat := match decF w with | .num _ m e => n * m * pow2 (e + 192) | _ => 0

/-- The correctly rounded cosine of n × w (R232). -/
def ropeCos (w : W32) (n : Nat) : W32 := fxRound (fxCos (ropeArg w n))

/-- The correctly rounded sine of n × w (R232); of a small angle x it lies below x by less than any neighbour does. -/
def ropeSin (w : W32) (n : Nat) : W32 :=
  let x := ropeArg w n
  if x = 0 then zeroBits false else if x < 2 ^ 136 then roundF false (x * 2 ^ 64 - 1) 1 (-256) else fxRound (fxSin x)

/-! ### Drift (R178, R179) -/

/-- κ of Table 7-5 at a mean junction temperature in 1/256 °C, none for an interval without power, in 10^-6 of column full scale per decade: linear
between the rows, the end rows outside them. -/
def kappa (temp : Option Int) : Frac :=
  let line := fun (t : Int) (t0 t1 k0 k1 : Int) => (⟨k0 * (256 * (t1 - t0)) + (k1 - k0) * (t - 256 * t0), (256 * (t1 - t0)).natAbs⟩ : Frac)
  match temp with
  | none => .ofInt 2821
  | some t =>
    if t ≤ 256 * 55 then .ofInt 2100
    else if t ≤ 256 * 70 then line t 55 70 2100 2400
    else if t ≤ 256 * 85 then line t 70 85 2400 2600
    else if t ≤ 256 * 95 then line t 85 95 2600 2700
    else if t ≤ 256 * 105 then line t 95 105 2700 2821
    else .ofInt 2821

/-- What an interval adds to R, in 10^-15 of column full scale (R179): κ × log10 (end ÷ start), ages in hours. -/
def driftStep (start finish : Nat) (temp : Option Int) : Nat :=
  let k := kappa temp
  ((⟨k.num * fxLog 10 finish start * 1000000000, k.den * fxOne⟩ : Frac).either).toNat

/-- The age in hours at the end of an interval without power (R179): age × (before ÷ after)^(1 ÷ ν), for the variances that a folio's codes had
before and after, rounded up to an hour; at least one hour more. -/
def offAge (age before after : Nat) (nu : W32) : Nat :=
  let (n, d) := ratOf nu
  let (m, e) := fxPow (max 1 before) (max 1 after) (((fxOne * d / (2 * max 1 n) : Nat)) : Int)
  max (ceilDiv (age * m * pow2 e) (fxOne * pow2 (-e))) (age + 1)

/-! ### The accuracies of Table 5-2 -/

/-- Does a value lie within `k` units in the last place of m × 2^e, known to within 2^64 units of its own last bit? -/
def withinUlps (k : Nat) (y : W32) (m : Nat) (e : Int) : Bool :=
  match decF y with
  | .num s a f =>
    let q := max (floorLog2 m 1 + e - 23) (-149)
    let low := min (min f e) q
    let diff : Int := (dyOf s a f).m * (pow2 (f - low) : Int) - (m : Int) * (pow2 (e - low) : Int)
    decide (diff.natAbs ≤ k * pow2 (q - low) + 2 ^ 64 * pow2 (e - low))
  | _ => false

/-- Does m × 2^e lie in the binary32 normal range? -/
def inNormalRange (m : Nat) (e : Int) : Bool := decide (-126 ≤ floorLog2 m 1 + e ∧ floorLog2 m 1 + e ≤ 127)

/-- The bits of an operation whose accuracy alone is stated (R105): those that the configuration gives where they keep the bound of `k` units in
the last place of the exact ± m × 2^e, else the nearest value; outside the normal range no bound is stated. -/
def heldTo (k : Nat) (bits : W32) (neg : Bool) (m : Nat) (e : Int) : W32 :=
  if !inNormalRange m e || withinUlps k (if neg then fneg bits else bits) m e then bits else roundF neg m 1 e

/-- VEXP under the special cases of Table 5-2; exactly 1.0 at ±0 (R240). -/
def vexp (x : W32) : W32 :=
  if isNaN x then qnan x 0 4
  else if x = zeroBits true || x = zeroBits false then fone
  else if x = infBits true then zeroBits false
  else if x = infBits false then infBits false
  else if ltRat x (-10398) 100 then zeroBits false
  else if gtRat x 88722 1000 then infBits false
  else match decF x with
    | .num s m e =>
      let (v, k) := fxExp ((dyOf s m e).m * (pow2 (e + 192) : Int) / (pow2 (-(e + 192)) : Int))
      heldTo 2 (Config.vexpBits x) false v (k - 192)
    | _ => Config.vexpBits x

/-- VRCP under the special cases of Table 5-2. -/
def vrcp (x : W32) : W32 :=
  match decF x with
  | .nan => qnan x 0 5
  | .inf s => zeroBits s
  | .num s 0 _ => infBits s
  | .num s m e => heldTo 1 (Config.vrcpBits x) s (2 ^ 256 / m) (-256 - e)

/-- VRSQ under the special cases of Table 5-2. -/
def vrsq (x : W32) : W32 :=
  match decF x with
  | .nan => qnan x 0 6
  | .inf false => Config.vrsqBits x
  | .inf true => qnan x 0 6
  | .num false 0 _ => infBits false
  | .num true 0 _ => Config.vrsqBits x
  | .num true _ _ => qnan x 0 6
  | .num false m e =>
    let (n, f) := if e % 2 = 0 then (m, e) else (2 * m, e - 1)
    heldTo 2 (Config.vrsqBits x) false (isqrt (2 ^ 512 / n)) (-256 - f / 2)

end Sys2Proof.Machine
end

