-- ==== Sys2Proof/Machine/Folios.lean ====
section
/-!
DEFINITION. Sys2Proof/Machine/Folios.lean: levels, strikes, ledgers and the exact arithmetic of the digital path (03, 04,
05: R44 to R63, R75 to R77, R80 to R83, R102, R118).
-/
namespace Sys2Proof.Machine

/-! ### Levels (R189, R192) -/

/-- The fields of a body block (Table 8-2). -/
def blkPaired (b : Bytes) : Bool := (rd b 6 2).testBit 0
def blkM (b : Bytes) (j : Nat) : Nat := rd b (64 + 2 * j) 2
def blkSq (b : Bytes) (j : Nat) : W32 := BitVec.ofNat 32 (rd b (1088 + 4 * j) 4)
def blkSw (b : Bytes) (j : Nat) : W32 := BitVec.ofNat 32 (rd b (3136 + 4 * j) 4)
def blkQ (b : Bytes) (i j : Nat) : Int := rdInt b (5184 + 512 * i + j) 1
def blkF (b : Bytes) (i j : Nat) : Int := rdInt b (529472 + 512 * i + j) 1

/-- rnd16 of R192 with multiplier `m`. -/
def rnd16 (m : Nat) (v : Int) : Int := v.sign * (((v.natAbs * m + 32768) / 65536 : Nat) : Int)

/-- The level of an unpaired weight (R192). -/
def levelOne (m : Nat) (q : Int) : Int := clampInt (-15) 15 (rnd16 m q)

/-- v of R192 for a paired weight. -/
def pairV (m : Nat) (q f : Int) : Int := clampInt (-255) 255 (rnd16 m (128 * q + f))

/-- L_hi of R192. -/
def levelHi (v : Int) : Int := clampInt (-15) 15 (v.sign * (((v.natAbs + 8) / 16 : Nat) : Int))

/-- L_lo of R192. -/
def levelLo (v : Int) : Int := v - 16 * levelHi v

/-- The level of the walk pattern (R382). -/
def walkLevel (i j : Nat) : Int := (((7 * i + 13 * j) % 31 : Nat) : Int) - 15

/-- The level that row i, column j holds. A SPARE folio's content is undefined (Table 3-6): a free value in the level range. -/
def levelAt (c : Content) (i j : Nat) : Int :=
  match c with
  | .high b => if blkPaired b then levelHi (pairV (blkM b j) (blkQ b i j) (blkF b i j)) else levelOne (blkM b j) (blkQ b i j)
  | .low b => levelLo (pairV (blkM b j) (blkQ b i j) (blkF b i j))
  | .pattern => walkLevel i j
  | .undefined => ((Config.freeNat (512 * i + j) % 31 : Nat) : Int) - 15

/-- The block a folio's levels come from. -/
def blockOf : Content → Bytes
  | .high b => b
  | .low b => b
  | _ => []

/-- The recorded error of row i, column j, 0 for a cell that is not stuck or is compensated (R63, R203). -/
def stuckDelta (f : Folio) (i j : Nat) : Int :=
  ((f.stuckMap.filter fun c => c.row == i && c.col == j).map (·.delta)).sum

/-! ### Chains and channels (R79, R440) -/

/-- The named shelf, its entry and the slots of a chain of a module shelf. -/
def chainSlots (s : State) (shelf c : Nat) : List Nat :=
  match (namedShelf s shelf).bind s.img.bound.chainEntry? with
  | some e => e.slots c
  | none => []

/-- The pair that a slot belongs to, in a paired region. -/
def pairOfSlot (s : State) (named k : Nat) : Option Pair :=
  s.img.bound.pairs.find? fun p => (p.hiShelf == named && p.hiSlot == k) || (p.loShelf == named && p.loSlot == k)

/-- Which run of 1,024 channels of its chain a slot holds: its place among the slots, or its pair's place (R440). -/
def slotRun (s : State) (shelf c k : Nat) : Nat :=
  let named := (namedShelf s shelf).getD 0
  let ks := chainSlots s shelf c
  let his := ks.filter fun x => match pairOfSlot s named x with | some p => p.hiShelf == named && p.hiSlot == x | none => false
  match pairOfSlot s named k with
  | some p => his.idxOf p.hiSlot
  | none => ks.idxOf k

/-- Is the slot the significance-16 folio of its pair, or unpaired? -/
def slotHigh (s : State) (shelf k : Nat) : Bool :=
  let named := (namedShelf s shelf).getD 0
  match pairOfSlot s named k with
  | some p => p.hiShelf == named && p.hiSlot == k
  | none => true

/-- k_f of R76. -/
def pairShift (s : State) (shelf k : Nat) : Nat :=
  if (pairOfSlot s ((namedShelf s shelf).getD 0) k).isSome && slotHigh s shelf k then 4 else 0

/-- The recipe of a stage as the pass holds it (R16). -/
def passRecipe (p : Pass) (st : Nat) : Option Recipe := p.recipes.find? fun x => x.region == p.region && x.stage == st

/-- The slots of a chain that the recipe strikes: without USE_LOW only those of significance 16 (R76, Table 4-3). -/
def struckSlots (s : State) (p : Pass) (st shelf c : Nat) : List Nat :=
  (chainSlots s shelf c).filter fun k => slotHigh s shelf k || ((passRecipe p st).map Recipe.useLow).getD true

/-- Where a leaf's channels start among the channels of its output group, and the group: the first group of the stage that
lists the leaf (R440). -/
def leafPlace (img : Image) (r st named c : Nat) : Option (Nat × Nat) :=
  firstSome ((List.range (img.groupCount r st)).map fun q =>
    let ls := img.groupLeaves r st q
    if ls.any fun l => l.2.1 == named && l.2.2 == c then
      some (q, ((ls.takeWhile fun l => !(l.2.1 == named && l.2.2 == c)).map fun l => img.chainRows r l.2.1 l.2.2).sum)
    else none)

/-- K of a stage under the pass's recipe (R440). -/
def stageK (s : State) (p : Pass) (st : Nat) : Nat := ((passRecipe p st).map s.img.bound.widthIn).getD 0

/-- N of a stage. -/
def stageN (s : State) (p : Pass) (st : Nat) : Nat := ((passRecipe p st).map s.img.bound.widthOut).getD 0

/-- The first channel of a slot's run. -/
def slotChannel (s : State) (p : Pass) (st shelf c k : Nat) : Nat :=
  ((leafPlace s.img.bound p.region st ((namedShelf s shelf).getD 0) c).map (·.2)).getD 0 + 1024 * slotRun s shelf c k

/-! ### The pass in flight -/

/-- What a pass has of a stage. -/
def stageRun (p : Pass) (st : Nat) : Option StageRun := sget (fun _ => none) p.stages st

/-- The pass with a stage's run changed. -/
def modStageRun (p : Pass) (st : Nat) (f : StageRun → StageRun) : Pass :=
  { p with stages := sset (fun _ => none) p.stages st ((stageRun p st).map f) }

/-- The strikes of a folio for a stage are counted by vector and plane: the plane that folio `key` strikes next for vector v. -/
def nextPlane (x : StageRun) (key v : Nat) : Nat := sget (fun _ => 0) x.struck (v * 2 ^ 16 + key)

/-- Is a vector still in the pass: its session was not dropped (R225), and no lost clock poisoned what the pass computes (R402)? -/
def liveVec (p : Pass) (v : Vec) : Bool := !p.late.elem v.session && !p.poisoned.elem v.session

/-- Is a channel of a shelf's chain off the analogue path (R117)? -/
def offPath (x : StageRun) (shelf c i : Nat) : Bool := x.mainSet.elem ⟨shelf, c, i⟩ || x.spillSet.elem ⟨shelf, c, i⟩

/-- The integer that drives channel i of a shelf's chain for vector v (R58, R117): 0 for a channel off the analogue path and for a
channel at or beyond K. -/
def drive (x : StageRun) (shelf c v i : Nat) : Int :=
  if offPath x shelf c i then 0 else ((x.codes.getD v []).getD i 0)

/-- Bit p of the two's complement of a (R45). -/
def planeBit (a : Int) (p : Nat) : Bool := (a / (2 ^ p : Nat)) % 2 != 0

/-! ### Strikes (R46 to R56) -/

/-- The column sum of a plane in level units: the rows whose bit is 1, with their recorded errors (R55, R63). -/
def columnSum (f : Folio) (rows : List Nat) (j : Nat) : Int :=
  (rows.map fun i => levelAt f.content i j + stuckDelta f i j).sum

/-- A conversion: its code, and whether it saturated. -/
structure Conv where
  code : Int
  sat : Bool
  deriving DecidableEq, Repr

/-- The fields of a tap word (Table 7-2). -/
def tapCoarse (w : W32) : Int := signed 5 (nbits w.toNat 0 5)
def tapFine (w : W32) : Int := signed 5 (nbits w.toNat 5 5)
def tapDelay (w : W32) : Int := signed 6 (nbits w.toNat 10 6)
def tapOffset (w : W32) : Int := signed 7 (nbits w.toNat 16 7)

/-- The bank that a folio's strikes use, and the other one (R161). -/
def activeBank (f : Folio) : Sparse W32 := if f.bank = 0 then f.bankA else f.bankB
def shadowBank (f : Folio) : Sparse W32 := if f.bank = 0 then f.bankB else f.bankA

/-- A column's word of a bank. -/
def tapAt (b : Sparse W32) (j : Nat) : W32 := sget (fun _ => (0 : W32)) b j

/-- The gain of a folio's column trim (R165): its target, within ±0.5 %. -/
def trimGain (f : Folio) (j : Nat) : Frac :=
  let t := sget (fun _ => freshTrim) f.trims j
  ⟨(t.target : Int) * (100000 + clampInt (-500) 500 (Config.trimError f.trimDraw j t.count)), 6553600000⟩

/-- The factor that DELAY gives a column's gain (R160): 1 + DELAY × 15.625 ps ÷ I. -/
def delayGain (window : Nat) (d : Int) : Frac := ⟨64 * max 1 window + d, 64 * max 1 window⟩

/-- The quantity inside clamp and rnd in R55: the ideal s ÷ 2^e under column trim and delay tap, the offset tap, and the rest of the analogue error, in
units of 2^-16 code. -/
def convInput (sum : Int) (e window : Nat) (w : W32) (trim : Frac) (err : Int) : Frac :=
  (((⟨sum, 2 ^ e⟩ : Frac).mul trim).mul (delayGain window (tapDelay w))).add ⟨4096 * tapOffset w + err, 65536⟩

/-- The measured code of R55; it saturates at 255.5 (R56). -/
def convert (x : Frac) : Conv := { code := clampInt (-255) 255 x.rnd, sat := decide (511 * x.den ≤ 2 * x.num.natAbs) }

/-- The rows that plane p drives, for the channels from `base` on. -/
def drivenRows (x : StageRun) (shelf c v base p : Nat) : List Nat :=
  (List.range 1024).filter fun i => planeBit (drive x shelf c v (base + i)) p

/-- I of a hall as PERIOD_FLOOR gives it (R48). -/
def windowNow (s : State) (h : Nat) : Nat := min 12 (fget s (Reg.SHF_STRIKE_CTRL.PERIOD_FLOOR h) - 18)

/-- I of a region in a hall: as of its last boundary (R52). -/
def regionWindow (s : State) (r h : Nat) : Nat := (accOf s r).window.getD h (windowNow s h)

/-- The 512 conversions of a strike under the folio's trims and its active bank (R55, R57, R161); the analogue error of each is drawn anew. -/
def strikeCodes (s : State) (key window : Nat) (rows : List Nat) : List Conv :=
  let f := folioAt s key
  let b := activeBank f
  (List.range 512).map fun j =>
    let w := tapAt b j
    convert (convInput (columnSum f rows j) f.rangeExp window w (trimGain f j) (Config.analogueError key j (tapCoarse w) (tapFine w) s.free))

/-! ### Banks and estimates (R161, R166, R169) -/

/-- k̂ of a folio's column under its active bank; 1 until something measured it. -/
def khatOf (s : State) (k j : Nat) : W32 := sget (fun _ => fone) s.col.khat (k * 512 + j)

/-- ô of a folio's column under its active bank, in 1/256 code. -/
def offOf (s : State) (k j : Nat) : Int := sget (fun _ => (0 : Int)) s.col.offs (k * 512 + j)

/-- New estimates k̂ of a folio's columns. -/
def putKhat (s : State) (k : Nat) (xs : List W32) : State :=
  { s with col := { s.col with khat := xs.zipIdx.foldl (fun t x => if x.2 < 512 then sset (fun _ => fone) t (k * 512 + x.2) x.1 else t) s.col.khat } }

/-- New estimates ô of a folio's columns. -/
def putOffs (s : State) (k : Nat) (xs : List Int) : State :=
  { s with col := { s.col with offs := xs.zipIdx.foldl (fun t x => if x.2 < 512 then sset (fun _ => (0 : Int)) t (k * 512 + x.2) x.1 else t) s.col.offs } }

/-- A folio's passive window restarts, and a full one that waits is dropped (R169). -/
def restartWindow (s : State) (k : Nat) : State :=
  { s with col := { s.col with wins := sset (fun _ => freshWin) s.col.wins k freshWin, full := sset (fun _ => freshWin) s.col.full k freshWin } }

/-- k̂ of a column under another DELAY: its gain changes by the ratio of the two factors of R160. -/
def movedKhat (window : Nat) (k : W32) (old new : Int) : W32 :=
  if old = new then k else (((fracOf k).mul (delayGain window new)).div (delayGain window old)).toW

/-- k̂ of a folio's column under the bank that is in force once a valid shadow has switched. -/
def khatNext (s : State) (k j : Nat) : W32 :=
  let f := folioAt s k
  if f.shadowValid then movedKhat (regionWindow s f.region (k / 68 / 128)) (khatOf s k j) (tapDelay (tapAt (activeBank f) j)) (tapDelay (tapAt (shadowBank f) j))
  else khatOf s k j

/-- The bank select of a folio flips: the shadow is active, the old bank the shadow, not valid; SWITCHES counts one, the estimates move with the taps, and
the window restarts (R161, R169). -/
def switchBank (s : State) (k : Nat) : State :=
  let f := folioAt s k
  let cols := List.range 512
  let s1 := putKhat s k (cols.map fun j => movedKhat (regionWindow s f.region (k / 68 / 128)) (khatOf s k j) (tapDelay (tapAt (activeBank f) j))
    (tapDelay (tapAt (shadowBank f) j)))
  let s2 := putOffs s1 k (cols.map fun j => offOf s k j + 16 * (tapOffset (tapAt (shadowBank f) j) - tapOffset (tapAt (activeBank f) j)))
  restartWindow (fbump (modFolio s2 k fun f => { f with bank := 1 - f.bank, shadowValid := false }) (Reg.COL_EVENTS.SWITCHES (k / 68 / 128)) 1) k

/-- w_p of R76. -/
def planeWeight (b p : Nat) : Int := if p + 1 = b then -((2 ^ p : Nat) : Int) else ((2 ^ p : Nat) : Int)

/-- The terms of a strike join their ledger: the first term of a vector overwrites, later terms add (R76, R77). -/
def ledgerAdd (l : Ledger) (v shift : Nat) (w : Int) (cs : List Conv) : Ledger :=
  { vec := v, started := true
    totals := cs.zipIdx.foldl (fun t c => smod (fun _ => (0 : Int)) t c.2 fun old =>
      (if l.started && l.vec == v then old else 0) + c.1.code * (2 ^ shift : Nat) * w) (if l.started && l.vec == v then l.totals else []) }

/-- The ledger of a chain. -/
def ledgerOf (s : State) (shelf c : Nat) : Ledger := sget (fun _ => freshLedger) s.arr.ledgers (chainKey shelf c)

/-- The module with a ledger changed. -/
def modLedger (s : State) (shelf c : Nat) (f : Ledger → Ledger) : State :=
  { s with arr := { s.arr with ledgers := smod (fun _ => freshLedger) s.arr.ledgers (chainKey shelf c) f } }

/-- The chain of a slot. -/
def slotChain (s : State) (shelf k : Nat) : Option Nat :=
  (((namedShelf s shelf).bind s.img.bound.chainEntry?).filter fun e => e.uses k).map fun e => e.chain k

/-- The passive window of a folio with a strike counted (R168): the rows that plane p drove, the codes it gave, the vector at its last plane. -/
def PassiveWin.count (w : PassiveWin) (p b : Nat) (rows : List Nat) (cs : List Conv) : PassiveWin :=
  { vectors := if p + 1 = b then w.vectors + 1 else w.vectors
    planes := smod (fun _ => 0) w.planes p (· + 1)
    rows := rows.foldl (fun t i => smod (fun _ => 0) t (1024 * p + i) (· + 1)) w.rows
    codes := cs.zipIdx.foldl (fun t c => smod (fun _ => (0 : Int)) t (512 * p + c.2) (· + c.1.code)) w.codes }

/-- A pass strike enters its folio's passive window (R168), while the hall and the budget enable passive collation. A window that has its PASSIVE_W vectors
is full and waits for its fit, and the next one starts. -/
def countWindow (s : State) (key p b : Nat) (rows : List Nat) (cs : List Conv) : State :=
  let h := hallOf (key / 68)
  let s1 := { s with col := { s.col with struck := smod (fun _ => (0 : Nat)) s.col.struck key (· + 1) } }
  if fget s (Reg.COL_CTRL.PASSIVE_EN h) = 1 && (s.img.bound.budget 2).enable then
    let w := (sget (fun _ => freshWin) s.col.wins key).count p b rows cs
    if fget s (Reg.COL_CTRL.PASSIVE_W h) ≤ w.vectors
    then { s1 with col := { s1.col with wins := sset (fun _ => freshWin) s.col.wins key freshWin, full := sset (fun _ => freshWin) s.col.full key w } }
    else { s1 with col := { s1.col with wins := sset (fun _ => freshWin) s.col.wins key w } }
  else s1

/-- Do the conversions of an interval saturate at more than 1 in 10^6 (R56)? -/
def overRate (xs : List SatCount) : Bool := decide ((xs.map (·.conv)).sum < 1000000 * (xs.map (·.sat)).sum)

/-- Did an interval of 10 s that ended before tick `t` exceed the rate: one from which the oldest counts had already gone, one after the other (R56)? -/
def satSince (t : Nat) : List SatCount → Bool
  | [] => false
  | x :: xs => decide (x.tick + 10000000 ≤ t) && (overRate xs || satSince t xs)

/-- The counts of a region with some conversions of tick `t` added. -/
def addSat (t n m : Nat) (xs : List SatCount) : List SatCount :=
  match xs.getLast? with
  | some y => if y.tick = t then xs.dropLast ++ [⟨t, y.sat + n, y.conv + m⟩] else xs ++ [⟨t, n, m⟩]
  | none => [⟨t, n, m⟩]

/-- Conversions of a folio: the saturated ones are counted in SAT_COUNT of the hall, and a region that comes to exceed 1 in 10^6 over some 10 s is recorded
with the layer and the folio (R56). -/
def countSat (s : State) (key region layer : Nat) (cs : List Conv) : State :=
  let n := (cs.filter (·.sat)).length
  let s1 := fbump s (Reg.SHF_SAT_COUNT.COUNT (hallOf (key / 68))) n
  let t := s.clk.tick
  let old := sget (fun _ => ([] : List SatCount)) s.arr.sats region
  let now := addSat t n cs.length (old.filter fun x => decide (t < x.tick + 10000000))
  let high := overRate now
  let s2 := { s1 with arr := { s1.arr with sats := sset (fun _ => []) s1.arr.sats region now
                                           satOver := s1.arr.satOver.filter (· != region) ++ (if high then [region] else []) } }
  if (high || satSince t old) && !s.arr.satOver.elem region
  then annal s2 0x0200 1 (folioObj s2 key) layer ((now.map (·.sat)).sum) ((now.map (·.conv)).sum) else s2

/-! ### Exact products (R102, R118) -/

/-- The exact sum of two values; a sum of opposite infinities is NaN. -/
def addFV : FV → FV → FV
  | .nan, _ => .nan
  | _, .nan => .nan
  | .inf a, .inf b => if a = b then .inf a else .nan
  | .inf a, _ => .inf a
  | _, .inf b => .inf b
  | .num a m e, .num b n f =>
    let d := (dyOf a m e).add (dyOf b n f)
    .num (if d.m = 0 then a && b else decide (d.m < 0)) d.m.natAbs d.e

/-- The exact product of two values. -/
def mulFV : FV → FV → FV
  | .nan, _ => .nan
  | _, .nan => .nan
  | .inf a, .inf b => .inf (a != b)
  | .inf a, .num b n _ => if n = 0 then .nan else .inf (a != b)
  | .num a m _, .inf b => if m = 0 then .nan else .inf (a != b)
  | .num a m e, .num b n f => .num (a != b) (m * n) (e + f)

/-- The exact sum of a group. -/
def sumFV : List FV → FV
  | [] => .num false 0 0
  | x :: xs => xs.foldl addFV x

/-- acc = rne(acc + S_g): one rounding per group (R102, step 4). -/
def groupAdd (acc : W32) (g : FV) : W32 := toF (addFV (decF acc) g)

/-- The list in groups of `n`; `fuel` is the most groups. -/
def groupsOf {α : Type} (n : Nat) : Nat → List α → List (List α)
  | 0, _ => []
  | fuel + 1, xs => if xs.isEmpty then [] else xs.take n :: groupsOf n fuel (xs.drop n)

/-- A group completed with zero products to 32 (R118). -/
def padGroup (g : List FV) : List FV := g ++ List.replicate (32 - g.length) (.num false 0 0)

/-- FP32 accumulation of products in groups of 32, from an accumulator (R101, R102). -/
def accumulate (acc : W32) (ps : List FV) : W32 := (groupsOf 32 (ps.length / 32 + 1) ps).foldl (fun a g => groupAdd a (sumFV (padGroup g))) acc

/-- A number of a small integer. -/
def intFV (i : Int) : FV := .num (decide (i < 0)) i.natAbs 0

/-! ### The exit (R80, R118) -/

/-- The gain of a chain's column. -/
def gainOf (s : State) (shelf c : Nat) : ChainGain := sget (fun _ => freshGain) s.col.gains (chainKey shelf c)
def gainAt (g : ChainGain) (j : Nat) : W32 := sget (fun _ => fone) g.g j

/-- The folios of a chain that serve its slots, each with its slot. -/
def chainFolios (s : State) (shelf c : Nat) : List (Nat × Nat) :=
  (chainSlots s shelf c).filterMap fun k => (servingAt s shelf k).map fun f => (k, f)

/-- s_w of a chain's column: every folio of the chain carries the same (R59). -/
def chainSw (s : State) (shelf c j : Nat) : W32 :=
  match chainFolios s shelf c with
  | [] => fone
  | p :: _ => blkSw (blockOf (folioAt s p.2).content) j

/-- t_j of R80. -/
def exitT (s : State) (shelf c j : Nat) : W32 := fmul (chainSw s shelf c j) (gainAt (gainOf s shelf c) j)

/-- The channels of one folio of a chain that lie in a set, ascending. -/
def setChannels (set : List OPair) (shelf c base : Nat) : List Nat :=
  sortBy ((set.filter fun o => o.shelf == shelf && o.chain == c && decide (base ≤ o.chan ∧ o.chan < base + 1024)).map (·.chan))
    fun a b => decide (a ≤ b)

/-- The input of channel i of a vector. -/
def inputAt (x : StageRun) (v i : Nat) : W32 := (x.inputs.getD v []).getD i 0

/-- p_fj of R118 for one folio: the main list, then the spill list added. -/
def folioTerm (x : StageRun) (b : Bytes) (shelf c v base j : Nat) : W32 :=
  let prods := fun set => (setChannels set shelf c base).map fun i => mulFV (decF (bf16R (inputAt x v i))) (intFV (blkQ b (i - base) j))
  accumulate (accumulate 0 (prods x.mainSet)) (prods x.spillSet)

/-- o_out of R118: none when no folio of the chain holds a main or spill channel. -/
def outTerm (s : State) (p : Pass) (x : StageRun) (shelf c v j : Nat) : Option W32 :=
  ((chainFolios s shelf c).filter fun f => slotHigh s shelf f.1).foldl (fun acc f =>
    let base := slotChannel s p x.stage shelf c f.1
    let b := blockOf (folioAt s f.2).content
    if (setChannels x.mainSet shelf c base).isEmpty && (setChannels x.spillSet shelf c base).isEmpty then acc
    else
      let t := fmul (folioTerm x b shelf c v base j) (blkSq b j)
      some (match acc with | none => t | some a => fadd a t)) none

/-- d_j of R118, none when column j has no recorded stuck cell. -/
def stuckTerm (s : State) (p : Pass) (x : StageRun) (shelf c v j : Nat) : Option Int :=
  let ds := ((chainFolios s shelf c).filter fun f => (struckSlots s p x.stage shelf c).elem f.1).flatMap fun f =>
    ((folioAt s f.2).stuckMap.filter fun e => e.col == j && e.delta != 0).map fun e =>
      drive x shelf c v (slotChannel s p x.stage shelf c f.1 + e.row) * e.delta
  if ds.isEmpty then none else some ds.sum

/-- Is an excess channel of the chain NaN in this vector (R116)? -/
def nanExcess (x : StageRun) (shelf c v : Nat) : Bool :=
  x.excessSet.any fun o => o.shelf == shelf && o.chain == c && isNaN (inputAt x v o.chan)

/-- o_sj of R118: the terms that are present. -/
def outlierTerm (s : State) (p : Pass) (x : StageRun) (shelf c v j : Nat) (cj : W32) : Option W32 :=
  if nanExcess x shelf c v then some (qnan 0 0 8)
  else match outTerm s p x shelf c v j, (stuckTerm s p x shelf c v j).map fun d => fmul (fneg (fofInt d)) cj with
    | none, t => t
    | some a, none => some a
    | some a, some b => some (fadd a b)

/-- Did a program fault poison the exit of this shelf in this stage (R83, R115): its stage entry or outlier program? -/
def exitPoisoned (p : Pass) (st shelf : Nat) : Bool := p.faults.any fun f => f.1 == shelf && f.2.stage == st && decide (f.2.kind ≤ 1)

/-- fl(a + b) with poison (R83). -/
def padd (a b : PVal) : PVal := ⟨fadd a.val b.val, a.bad || b.bad⟩

/-- The leaf that enters the hall tree: fl(y + o) where a term is present (R82). -/
def leafValue (l : Leaf) : List PVal := List.zipWith (fun y t => match t with | some o => padd y o | none => y) l.y l.term

end Sys2Proof.Machine
end

