-- ==== Sys2Proof/Machine/Faults.lean ====
section
/-!
DEFINITION. Sys2Proof/Machine/Faults.lean: what a detection sets off (06 R155, 18 R387 to R397): fault signature records in CBOR,
taint windows and their lists, poison origins, and the rotation's head.
-/
namespace Sys2Proof.Machine

/-! ### Fault signature records (R396) -/

/-- Key 24 in an orbit region: this member and the PASS_IDs of the passes it serves. -/
def orbitKey (s : State) (region : Option Nat) : List (Nat × CVal) :=
  match region with
  | none => []
  | some r =>
    if orbitRegion s r then
      let ids := (s.orb.passes.filter fun p => p.region == r).map (·.passId)
      [(24, .arr [.uint s.img.bound.orbit.member, .uint (ids.foldl min (ids.headD 0)), .uint (ids.foldl max 0)])]
    else []

/-- A record about a region: `keys` are those above 11, in rising order. -/
def fsr (s : State) (kind : Nat) (region : Option Nat) (keys : List (Nat × CVal)) : State :=
  fsrEmit s kind ((match region with | some r => [(11, .one (.uint r))] | none => []) ++ keys ++ orbitKey s region)

/-- Key 13 for a module shelf. -/
def placeKey (s : State) (shelf : Nat) (chain folio group : Option Nat) : Nat × CVal :=
  locationKey (hallOf shelf) (shelf % 128) chain folio group (namedShelf s shelf)

/-- A die's converter. -/
def convOf (s : State) (die : Nat) : Converter := sget (fun _ => freshConverter) s.cur.conv die

/-- The highest of a hall's diode results (R360): of the slots whose latest result is of TD0 to TD5. -/
def hottestDiode (s : State) (h : Nat) : Option Int :=
  (((convOf s h).inputs.filter fun e => decide (e.2 < 6)).map fun e => signed 32 (fget s (Reg.MON_RESULT.SCALED h e.1))).max?

/-- A hall's junction temperature (R360): the highest of its diode results; before the first of them it is what was measured. -/
def junction (s : State) (h : Nat) (measured : Int) : Int := (hottestDiode s h).getD measured

/-- The temperature of a hall that the curator last kept, in 1/256 °C. -/
def hallTemp (s : State) (h : Nat) : Int := sget (fun _ => (0 : Int)) s.col.temps h

/-- Key 14. -/
def conditionsKey (s : State) (shelf chain : Nat) : Nat × CVal :=
  let h := hallOf shelf
  (14, .arr [.int (hallTemp s h), .uint (fget s (Reg.SHF_STRIKE_CTRL.PERIOD_NOW h)), .uint (fget s (Reg.PWR_HALL_STATUS.POINT h))
    , .uint (((chainFolios s shelf chain).map fun f => (folioAt s f.2).ageHours).foldl max 0)])

/-! ### Taint windows (R388 to R391) -/

/-- The epoch at which class-S evidence of a chain and column group starts (R388). -/
def cleanSince (s : State) (shelf chain group : Nat) : Nat :=
  (sget (fun _ => none) s.con.clean (chainKey shelf chain * 8 + group)).getD
    (((chainFolios s shelf chain).map fun f => (folioAt s f.2).servedEpoch).foldl max 0)

/-- The passes a window touches: region, carrel, epoch, pass number, sessions (R389). -/
def taintPasses (s : State) (t : Taint) (last : Nat) : List (Nat × Nat × Nat × Nat × List Nat) :=
  s.con.carrelPasses.filter fun p => t.regions.elem p.1 && decide (t.start ≤ p.2.2.1 ∧ p.2.2.1 ≤ last)

/-- The pages a window touches, as hall, index and entry: those that a pass has appended to, whose epochs count from 1 (R254). -/
def taintPages (s : State) (t : Taint) (last : Nat) : List (Nat × Nat × Page) :=
  (List.range 4).flatMap fun h => ((hallPages s h).filter fun e => t.regions.elem e.2.region &&
    decide (t.start ≤ e.2.epochLast ∧ e.2.epochFirst ≤ last ∧ 0 < e.2.epochLast)).map fun e => (h, e.1, e.2)

/-- The entries of a report (Table 18-3), by kind. -/
def taintEntries (s : State) (t : Taint) (last : Nat) : List (List Bytes) :=
  let ps := taintPasses s t last
  let pages := taintPages s t last
  let carrels := (ps.map fun p => p.2.1).eraseDups
  let nums := fun c => (ps.filter fun p => p.2.1 == c).map fun p => p.2.2.2.1
  let named := (ps.flatMap fun p => p.2.2.2.2).eraseDups
  let holds := fun (x : Session) => x.pages.any fun q => pages.any fun g => some g.1 == x.hall && g.2.1 == q.2.2
  let holders := (s.kv.sessions.filter holds).map (·.handle)
  let sessions := named ++ holders.filter fun h => !named.elem h
  let lastEpoch := fun h => match findSession s h with
    | some x => x.lastEpoch
    | none => ((ps.filter fun p => p.2.2.2.2.elem h).map fun p => p.2.2.1).foldl max 0
  [ carrels.map fun c => [1, 0] ++ leBytes 2 c ++ leBytes 6 ((nums c).foldl min ((nums c).headD 0)) ++ leBytes 6 ((nums c).foldl max 0)
  , sessions.map fun h => [2] ++ leBytes 1 (bitOf (named.elem h) + 2 * bitOf (holders.elem h)) ++ leBytes 2 0 ++ leBytes 4 h ++
      leBytes 6 (lastEpoch h) ++ leBytes 2 0
  , pages.map fun g => [3] ++ leBytes 1 g.1 ++ leBytes 2 g.2.2.refs ++ leBytes 4 g.2.1 ++ leBytes 6 g.2.2.epochLast ++ leBytes 2 0
  , (s.kv.sessions.filter fun x => x.res == .comet && t.regions.elem x.region && decide (t.start ≤ x.cometEpoch)).map fun x =>
      [4] ++ leBytes 3 0 ++ leBytes 4 x.handle ++ leBytes 6 x.cometEpoch ++ leBytes 2 0 ]

/-- Where vigilance records a detection in the annals when no row of Table 17-7 names it (log entry 30). -/
def detectRecord (s : State) (obj : Obj) (code a1 a2 : Nat) : State := annal s 0x0500 2 obj code a1 a2

/-- A report of a window (R391): its list into the circular buffer, its record. -/
def taintReport (s : State) (t : Taint) (last : Nat) (final : Bool) (action : Nat) : State :=
  let es := taintEntries s t last
  let size := fget s Reg.CUR_TAINT_BASE.SIZE_MIB * 2 ^ 20
  let all := es.flatten
  let out := all.take (size / 16)
  let at_ := if size = 0 then 0 else s.con.taintAt % size
  let base := fget s Reg.CUR_TAINT_BASE.ADDR * 4096
  let s1 := out.zipIdx.foldl (fun s e => dmaWrite s .pf0 (base + (at_ + 16 * e.2) % size) e.1) s
  let s2 := { s1 with con := { s1.con with taintAt := if size = 0 then s1.con.taintAt else (at_ + 16 * out.length) % size } }
  let s3 := fsr s2 7 t.regions.head?
    [ (20, .arr [.uint t.start, .uint last, .bool final, .bool t.bounded, .uint at_, .uint out.length, .bool (decide (out.length < all.length))])
    , (21, .arr (es.map fun e => .uint e.length)), (22, .one (.uint action)) ]
  detectRecord s3 { region := t.regions.head? } 7 t.start last

/-- A window opens with its initial report. -/
def openTaint (s : State) (t : Taint) : State := taintReport { s with con := { s.con with taints := s.con.taints ++ [t] } } t t.detected false 0

/-- The windows that satisfy `p` end with their final report (R388, R391). -/
def endTaints (s : State) (p : Taint → Bool) (last action : Nat) : State :=
  let ts := s.con.taints.filter p
  let s1 := { s with con := { s.con with taints := s.con.taints.filter fun t => !p t } }
  ts.foldl (fun s t => taintReport s t last true action) s1

/-! ### The rotation (R379) -/

/-- A hall's rotation. -/
def rotationOf (s : State) (h : Nat) : Rotation := sget (fun _ => freshRotation) s.con.rotations h

/-- The module with a hall's rotation changed. -/
def modRotation (s : State) (h : Nat) (f : Rotation → Rotation) : State :=
  { s with con := { s.con with rotations := smod (fun _ => freshRotation) s.con.rotations h f } }

/-- Units go to the head of their hall's rotation (R115, R379, R387): 2 i the scribe and 2 i + 1 the sequencer of shelf i. -/
def proveFirst (s : State) (h : Nat) (units : List Nat) : State :=
  modRotation s h fun r => { r with head := r.head ++ units.filter fun u => !r.head.elem u }

/-! ### Units (R378, R379) -/

/-- The class of a unit of a hall's rotation: 1 scribe, 2 shelf sequencer, 3 hall sequencer. -/
def unitClass (u : Nat) : Nat := if u = 256 then 3 else if u % 2 = 0 then 1 else 2

/-- The module shelf of a unit. -/
def unitShelf (h u : Nat) : Nat := 128 * h + u / 2

/-- The proof set of a unit, in library order. -/
def proofSet (s : State) (u : Nat) : List ProofDef := s.con.library.filter fun d => d.cls == unitClass u

/-- The unit under proof in a hall. -/
def unitNow (r : Rotation) : Nat := r.head.headD r.unit

/-- Has a module shelf failed, by itself or with its hall? -/
def shelfFailed (s : State) (shelf : Nat) : Bool := s.con.failedShelves.elem shelf || s.con.failedHalls.elem (hallOf shelf)

/-- Has a unit failed, so that it is never used again (R380): a scribe and a shelf sequencer fail with their shelf, all with their hall. -/
def unitFailed (s : State) (h u : Nat) : Bool := s.con.failedHalls.elem h || (u != 256 && s.con.failedShelves.elem (unitShelf h u))

/-! ### Detections (R155, R387, R392) -/

/-- FAULT DETECTION over the mesh: a moon tells the primary, the primary every member of the region's mask and, over a transit link,
the next stage (R392). -/
def sendDetection (s : State) (cls region stage first last : Nat) : State :=
  let detail := leBytes 1 cls ++ leBytes 1 region ++ leBytes 2 stage ++ leBytes 6 first ++ leBytes 6 last
  if !orbitRegion s region then s
  else if fget s Reg.ORB_STATUS.STATE = 3 then
    let o := s.img.bound.orbit
    let s1 := ((List.range 16).filter fun m => (orbitMask s region).testBit m && m != o.member).foldl (fun s m => sendFault s (memberPort s m) 3 0 detail) s
    match downPorts s1 with
    | n :: _ => sendFault s1 n 3 0 detail
    | [] => s1
  else sendFault s (memberPort s (fget s Reg.ORB_STATUS.PRIMARY)) 3 0 detail

/-- The PASS_IDs of a region's passes from an epoch on (R392). -/
def passIdsSince (s : State) (region start : Nat) : List Nat :=
  (s.orb.passes.filter fun p => p.region == region && decide (start ≤ p.epoch)).map (·.passId)

/-- The announcement of a detection whose window starts at an epoch. -/
def announce (s : State) (cls region stage start : Nat) : State :=
  let ids := passIdsSince s region start
  sendDetection s cls region stage (ids.foldl min (ids.headD 0)) (ids.foldl max 0)

/-- A detection stands in a hall's SCR.VIG_STATUS (R155); bit 0 S_DETECT, 1 N_DETECT, 2 N_FALL. -/
def noteDetection (s : State) (h region stage bit : Nat) : State :=
  let s1 := fbump s (Reg.SCR_VIG_COUNTS.DETECTIONS h) 1
  let s2 := fset (fset s1 (Reg.SCR_VIG_STATUS.STAGE h) stage) (Reg.SCR_VIG_STATUS.REGION h) region
  let s3 := match bit with
    | 0 => fset s2 (Reg.SCR_VIG_STATUS.S_DETECT h) 1
    | 1 => fset s2 (Reg.SCR_VIG_STATUS.N_DETECT h) 1
    | _ => fset s2 (Reg.SCR_VIG_STATUS.N_FALL h) 1
  if s3.run.detections.elem (h, region, bit) then s3 else { s3 with run := { s3.run with detections := s3.run.detections ++ [(h, region, bit)] } }

end Sys2Proof.Machine
end

