-- ==== Sys2Proof/Machine/Adapters.lean ====
section
/-!
DEFINITION. Sys2Proof/Machine/Adapters.lean: adapters and the loan shelf (09: R217 to R228) and the adapter delta (R121).
-/
namespace Sys2Proof.Machine

/-! ### The image (R217) -/

/-- "CV48ADPT". -/
def magicAdapter : Bytes := asciiBytes [0x43, 0x56, 0x34, 0x38, 0x41, 0x44, 0x50, 0x54]

/-- The stored rank r_p. -/
def storedRank (r : Nat) : Nat := if r ≤ 32 then 32 else 64

/-- LEN of a stage with input width k and output width n (R217). -/
def stageLen (dtype rank k n : Nat) : Nat :=
  let w := storedRank rank * (k + n)
  match dtype with
  | 0 => 2 * w
  | 1 => w + w / 32
  | _ => w / 2 + w / 32

/-- Does the region have a kind-2 program on a stage (R112)? -/
def takesAdapter (img : Image) (r st : Nat) : Bool := hasProg img 2 r st

/-- The stage entries of an adapter image. -/
def adapterEntries (b : Bytes) : List (Nat × Nat × Nat) :=
  (List.range (rd b 0x10 2)).map fun i => let e := 64 + 16 * i; (rd b e 2, rd b (e + 4) 4, rd b (e + 8) 8)

/-- Is the header and stage table of an adapter good for a session's region (R217, R218 check 3)? `len` is IMAGE_LEN of the bind. -/
def adapterOk (s : State) (region len : Nat) (b : Bytes) : Bool :=
  let n := rd b 0x10 2
  let es := adapterEntries b
  decide (64 + 16 * n ≤ b.length) && slice b 0 8 == magicAdapter && rd b 8 2 == 1 && decide (rd b 0xA 1 ≤ 2) &&
    decide (1 ≤ rd b 0xB 1 ∧ rd b 0xB 1 ≤ 64) && rd b 0xC 1 == region && zeroAt b 0xD 3 && decide (1 ≤ n ∧ n ≤ 1024) &&
    zeroAt b 0x12 2 && isFin (BitVec.ofNat 32 (rd b 0x14 4)) && rd b 0x18 8 == len && zeroAt b 0x20 32 &&
    (List.range n).all (fun i => zeroAt b (64 + 16 * i + 2) 2) && distinct (es.map (·.1)) &&
    es.all (fun e => takesAdapter s.img.bound region e.1 && decide (e.2.2 % 4096 = 0 ∧ 64 + 16 * n ≤ e.2.2 ∧ e.2.2 + e.2.1 ≤ len) &&
      (match recipeOf s region e.1 with
        | some x => e.2.1 == stageLen (rd b 0xA 1) (rd b 0xB 1) (s.img.bound.widthIn x) (s.img.bound.widthOut x)
        | none => false))

/-- The loan footprint in pages (R218). -/
def footprint (es : List (Nat × Nat × Nat)) : Nat := 1 + (es.map fun e => ceilDiv e.2.1 4096).sum

/-! ### Entries (R221, R222) -/

/-- The loan entry of a carrel's adapter. -/
def findLoan (s : State) (c a : Nat) : Option Loan := s.loans.find? fun l => l.carrel == c && l.adapter == a

/-- The module with a loan entry changed. -/
def modLoan (s : State) (c a : Nat) (f : Loan → Loan) : State :=
  { s with loans := modFirst (fun l => l.carrel == c && l.adapter == a) f s.loans }

/-- Does a session use this adapter, now or from its next boundary? -/
def bindsLoan (c a : Nat) (x : Session) : Bool :=
  handleCarrel x.handle == c && ((x.binding.map (·.adapter)) == some a || ((x.nextBinding.bind id).map (·.adapter)) == some a)

/-- Is an entry pinned: a pass uses it, or a fetch fills it? -/
def loanPinned (s : State) (l : Loan) : Bool :=
  (l.held && l.stages.any (·.asked)) || s.run.live.any fun p => p.sessions.any fun h => match findSession s h with
    | some x => handleCarrel h == l.carrel && (x.binding.map (·.adapter)) == some l.adapter
    | none => false

/-- Pages of the loan shelf that a carrel's entries hold. -/
def loanUsed (s : State) (c : Nat) : Nat := ((s.loans.filter fun l => l.carrel == c && l.held).map (·.pages)).sum

/-- Pages of a hall's quarter in use. -/
def hallLoanUsed (s : State) (h : Nat) : Nat :=
  (((s.loans.filter (·.held)).flatMap fun l => l.head ++ l.stages.flatMap (·.placed)).filterMap fun u => if u.1 = h then some u.2 else none).sum

/-- Pages of a hall's quarter (R441). -/
def hallLoanPages (s : State) : Nat := s.img.bound.power.loanGib * 2 ^ 30 / 4 / 4096

/-- The hall of the home scribe of a stage's output group q (R121): that of the first leaf in the lowest hall that has one. -/
def homeLeaf (img : Image) (r st q : Nat) : Option (Nat × Nat × Nat) := (img.groupLeaves r st q).head?
def homeHall (s : State) (r st : Nat) : Nat := ((homeLeaf s.img.bound r st 0).map fun l => hallOf (housedAt s r l.2.1)).getD 0

/-- The halls in ring order from one, the lower number first on a tie. -/
def ringOrder (h : Nat) : List Nat :=
  let a := (h + 1) % 4
  let b := (h + 3) % 4
  [h, min a b, max a b, (h + 2) % 4]

/-- `n` pages taken in halls in order, from each as many as are free there. -/
def takePages (free : Nat → Nat) : List Nat → Nat → List (Nat × Nat)
  | [], _ => []
  | h :: hs, n => if min n (free h) = 0 then takePages free hs n else (h, min n (free h)) :: takePages free hs (n - min n (free h))

/-- The pages of a hall's quarter that are free beside those that `used` names. -/
def freeLoanPages (s : State) (used : List (Nat × Nat)) (h : Nat) : Nat :=
  hallLoanPages s - hallLoanUsed s h - ((used.filter fun u => u.1 == h).map (·.2)).sum

/-- The pages of the home hall and the nearest halls for the data of a stage, none if they do not suffice (R221). -/
def homePages (s : State) (used : List (Nat × Nat)) (home n : Nat) : Option (List (Nat × Nat)) :=
  let got := takePages (freeLoanPages s used) (ringOrder home) n
  if (got.map (·.2)).sum = n then some got else none

/-- An entry's stages placed page by page, none if the loan shelf has no room (R221). -/
def placeStages (s : State) (region : Nat) : List LoanStage → List (Nat × Nat) → Option (List LoanStage)
  | [], _ => some []
  | x :: xs, used => match homePages s used (homeHall s region x.stage) (ceilDiv x.len 4096) with
    | none => none
    | some got => (placeStages s region xs (got ++ used)).map fun r => { x with placed := got } :: r

/-- The entry that is evicted next: the carrel's unpinned entry that a pass used longest ago (R222). -/
def evictNext (s : State) (c : Nat) : Option Loan :=
  (s.loans.filter fun l => l.carrel == c && l.held && !loanPinned s l).foldl (fun a l => match a with
    | none => some l
    | some b => if l.lastUse < b.lastUse then some l else some b) none

/-- An evicted entry keeps what its next fetch needs to know and gives up its bytes and pages. -/
def dropLoan (l : Loan) : Loan :=
  { l with held := false, stages := l.stages.map fun x => { x with data := none, poison := false, asked := false, tries := 0, via := none } }

/-- Room for `need` pages within the carrel's quota, evicting in order; `fuel` bounds the entries. -/
def makeLoanRoom (c need : Nat) : Nat → State → Option State
  | 0, _ => none
  | fuel + 1, s =>
    if loanUsed s c + need ≤ (carrelNow s c).loanMib * 256 then some s
    else match evictNext s c with
      | none => none
      | some l => makeLoanRoom c need fuel (modLoan s c l.adapter dropLoan)

/-- An entry takes its whole footprint when its first fetch begins (R221); it stays without one while there is no room. The page beyond the stages'
own lies with the first stage (DESIGN CHOICE, log entry 57). -/
def holdLoan (s : State) (region c a : Nat) : State :=
  match findLoan s c a with
  | none => s
  | some l =>
    if l.held then s
    else match makeLoanRoom c l.pages (s.loans.length + 1) s with
      | none => s
      | some s1 => match homePages s1 [] (homeHall s region ((l.stages.head?.map (·.stage)).getD 0)) 1 with
        | none => s
        | some hd => match placeStages s1 region l.stages hd with
          | none => s
          | some st => modLoan s1 c a fun l => { l with held := true, head := hd, stages := st }

/-- The fetches of the stages that satisfy `want` are asked for; while the entry has no room they wait for it (R222). -/
def askStages (s : State) (region c a : Nat) (want : Nat → Bool) : State :=
  modLoan (holdLoan s region c a) c a fun l =>
    { l with stages := l.stages.map fun x => if want x.stage && x.data.isNone && !x.poison then { x with asked := true } else x }

/-! ### The order of host fetches (R219, R224, R227) -/

/-- The function that an entry's fetches use. -/
def loanFn (s : State) (l : Loan) : Fn := if l.bulk then bulkFn s else .pf1

/-- The adapter of a session of a pass. -/
def sessionLoan (s : State) (h : Nat) : Option Loan :=
  ((findSession s h).bind (·.binding)).bind fun b => findLoan s (handleCarrel h) b.adapter

/-- The layer of a stage in a pass. -/
def layerIn (p : Pass) (st : Nat) : Option Nat := (p.recipes.find? fun x => x.region == p.region && x.stage == st).map (·.layer)

/-- The layer-begins that a stage of an entry serves: how many layers ahead of its pass it lies, then PRIORITY, then the pass's and the session's
place in intake order. A dropped session's fetch serves none (R225). -/
def fetchServes (s : State) (l : Loan) (st : Nat) : List (List Nat) :=
  s.run.live.zipIdx.flatMap fun p => match layerIn p.1 st with
    | none => []
    | some layer =>
      let now := match p.1.stage.bind (layerIn p.1) with | some q => q + 1 | none => 0
      if layer + 1 < now then []
      else (p.1.sessions.zipIdx.filter fun h => !p.1.late.elem h.1 && handleCarrel h.1 == l.carrel && ((sessionLoan s h.1).map (·.adapter)) == some l.adapter).map
        fun h => [0, layer + 1 - now, 15 - priorityOf s l.carrel, p.2, h.2]

/-- Lexicographic order of keys. -/
def keyLe : List Nat → List Nat → Bool
  | [], _ => true
  | _ :: _, [] => false
  | a :: as, b :: bs => decide (a < b) || (a == b && keyLe as bs)

/-- The rank of a fetch among those that wait (R224): the earliest layer-begin it serves, else behind all that serve one, in the order of the
binds; the stages of one entry in stage order (R219). -/
def fetchRank (s : State) (place : Nat) (l : Loan) (x : LoanStage) : List Nat :=
  ((fetchServes s l x.stage).foldl (fun (a : Option (List Nat)) k => match a with
    | some b => if keyLe b k then some b else some k
    | none => some k) none).getD [1, place] ++ [x.stage]

/-- The fetches that wait for a function's link: rank, carrel, adapter, stage. -/
def waitingFetches (s : State) (fn : Fn) : List (List Nat × Nat × Nat × Nat) :=
  (s.loans.zipIdx.filter fun l => l.1.held && loanFn s l.1 == fn).flatMap fun l =>
    (l.1.stages.filter fun x => x.asked && x.via.isNone).map fun x => (fetchRank s l.2 l.1 x, l.1.carrel, l.1.adapter, x.stage)

/-- A stage of an entry changed. -/
def modStage (s : State) (c a st : Nat) (f : LoanStage → LoanStage) : State :=
  modLoan s c a fun l => { l with stages := l.stages.map fun x => if x.stage == st then f x else x }

/-- The next fetch goes onto a function's link once none is there: one at a time, which runs to completion (R224; log entry 57). -/
def issueOn (fn : Fn) (s : State) : State :=
  if s.loans.any fun l => l.stages.any fun x => x.via == some fn then s
  else match waitingFetches s fn with
    | [] => s
    | x :: xs =>
      let n := xs.foldl (fun a b => if keyLe a.1 b.1 then a else b) x
      modStage s n.2.1 n.2.2.1 n.2.2.2 fun y => { y with via := some fn }

/-- The next fetches go onto both links. -/
def issueFetches (s : State) : State := issueOn .pf2 (issueOn .pf1 s)

/-- BULK fetches that have not completed go on through PF1 (R227). -/
def rerouteLoans (s : State) : State :=
  { s with loans := s.loans.map fun l => { l with stages := l.stages.map fun x => if x.via = some .pf2 then { x with via := some .pf1 } else x } }

/-- Entries whose fetches wait for room take it if there is room now (R222). -/
def retryLoans (s : State) : State :=
  issueFetches <| (s.loans.filter fun l => !l.held && l.stages.any (·.asked)).foldl (fun s l =>
    match s.kv.sessions.find? (bindsLoan l.carrel l.adapter) with
    | some x => holdLoan s x.region l.carrel l.adapter
    | none => s) s

/-- Is a stage settled: its bytes are resident, or its lines are poisoned? -/
def stageSettled (x : LoanStage) : Bool := x.data.isSome || x.poison

/-- Is an adapter wholly resident? -/
def loanWhole (l : Loan) : Bool := l.held && l.stages.all stageSettled

/-! ### Binding (R218, R219) -/

/-- The status of a bind, in the order of R218; an UNBIND, which reads none of the later fields, has the first check alone. -/
def bindStatus (s : State) (c : Nat) (x : Session) (b : Bytes) (f : Fetch) : Nat :=
  if (carrelNow s c).loanMib = 0 then stDenied
  else if (rd b 8 2).testBit 1 then stOk
  else if (rd b 8 2).testBit 0 && standbyMode s then stFormat
  else match f with
    | .data img =>
      if !adapterOk s x.region (rd b 0x18 4) img then stFormat
      else if (match findLoan s c (rd b 4 4) with
          | some l => (s.kv.sessions.any (bindsLoan c l.adapter)) && (l.addr != rd b 0x10 8 || l.len != rd b 0x18 4)
          | none => false) then stFormat
      else if (carrelNow s c).loanMib * 256 < footprint (adapterEntries img) then stNoSpace
      else stOk
    | _ => stFormat

/-- The entry of a new adapter. -/
def newLoan (c : Nat) (b img : Bytes) : Loan :=
  { carrel := c, adapter := rd b 4 4, addr := rd b 0x10 8, len := rd b 0x18 4, bulk := (rd b 8 2).testBit 0
    dtype := rd img 0xA 1, rank := rd img 0xB 1, alpha := BitVec.ofNat 32 (rd img 0x14 4)
    stages := (adapterEntries img).map fun e => ⟨e.1, e.2.1, e.2.2, [], none, false, false, 0, none⟩
    head := [], pages := footprint (adapterEntries img), lastUse := 0, held := false }

/-- A bind or unbind changes the session at its next pass boundary (R219); without a pass in flight that is now. -/
def setBinding (s : State) (h : Nat) (b : Option Binding) : State :=
  modSession s h fun x => if inPass s h then { x with nextBinding := some b } else { x with binding := b, nextBinding := none }

/-- Entries that no session binds any more are given up, and others may have their room. -/
def sweepLoans (s : State) : State :=
  retryLoans { s with loans := s.loans.filter fun l => s.kv.sessions.any (bindsLoan l.carrel l.adapter) || loanPinned s l }

/-- ADAPTER_BIND (R218, R219): `f` is what the fetch of the header and stage table brought; one that was lost with port B is awaited anew. -/
def execAdapterBind (stream seq : Nat) (f : Fetch) (s : State) : Out :=
  .next (match cmdIn s stream seq .begun 0x05 with
    | none => s
    | some k => match findSession s (rd k.body 0 4) with
      | none => finish s stream seq stFormat 0
      | some x =>
        let st := bindStatus s stream x k.body f
        if (rd k.body 8 2).testBit 1 then
          (if st = stOk then finish (sweepLoans (setBinding s x.handle none)) stream seq stOk 0 else finish s stream seq st 0)
        else if (carrelNow s stream).loanMib ≠ 0 && reissued s ((rd k.body 8 2).testBit 0) f then s
        else
          if st ≠ stOk then finish s stream seq st 0
          else match f with
            | .data img =>
              let l := newLoan stream k.body img
              let s1 := match findLoan s stream l.adapter with
                | some o => if o.addr = l.addr && o.len = l.len && s.kv.sessions.any (bindsLoan stream l.adapter) then s else { s with loans := s.loans.filter (fun o => o.carrel != stream || o.adapter != l.adapter) ++ [l] }
                | none => { s with loans := s.loans ++ [l] }
              let wait := (rd k.body 8 2).testBit 2
              let s2 := setBinding s1 x.handle (some ⟨l.adapter, l.addr, l.len, l.bulk, wait⟩)
              let s3 := issueFetches (askStages s2 x.region stream l.adapter (fun _ => true))
              if wait && !((findLoan s3 stream l.adapter).elim false loanWhole) then modCmd s3 stream seq fun k => { k with passesLeft := 1 }
              else finish s3 stream seq stOk 0
            | _ => s)

/-- The ADAPTER_BINDs with WAIT whose adapter is wholly resident complete. -/
def finishWaits (s : State) (c a : Nat) : State :=
  if (findLoan s c a).elim false loanWhole then
    (s.itk.cmds.filter fun k => k.stream == c && k.op == 0x05 && k.phase == .begun && k.passesLeft == 1 && rd k.body 4 4 == a).foldl
      (fun s k => finish (modCmd s c k.seq fun k => { k with passesLeft := 0 }) c k.seq stOk 0) s
  else s

/-- ADAPTER_FETCH_COMPLETE (R219, R223, R224): the fetch of a stage's bytes that is on a link ends, and the next goes onto it. A failed one is
requested once more; a second failure poisons the stage, counts, and is recorded. One that was lost with port B is issued again and does not
count as failed (R227). -/
def execAdapterFetchComplete (carrel adapter stage : Nat) (f : Fetch) (s : State) : Out :=
  .next (match ((findLoan s carrel adapter).filter (·.held)).bind fun l => l.stages.find? fun x => x.stage == stage && x.asked && x.via.isSome with
    | none => s
    | some x => match f with
      | .data b =>
        if b.length = x.len
        then retryLoans (finishWaits (modStage s carrel adapter stage fun x =>
          { x with data := some b, asked := false, tries := 0, via := none }) carrel adapter)
        else s
      | f =>
        if f = .lost ∧ x.via = some .pf2 then s
        else if x.tries = 0 then modStage s carrel adapter stage fun x => { x with tries := 1 }
        else
          let s1 := modStage s carrel adapter stage fun x => { x with poison := true, asked := false, tries := 0, via := none }
          let s2 := fbump s1 (Reg.ADP_STATS.FETCH_ERR carrel) 1
          retryLoans (finishWaits (annal s2 0x0300 2 { carrel := some carrel } stage adapter 0) carrel adapter))

/-! ### Layers (R224, R225) -/

/-- The stages of a layer of a region. -/
def layerStages (p : Pass) (layer : Nat) : List Nat := (p.recipes.filter fun x => x.region == p.region && x.layer == layer).map (·.stage)

/-- Are a session's bytes of a layer resident? -/
def layerReady (s : State) (p : Pass) (layer h : Nat) : Bool :=
  match (findSession s h).bind (·.binding) with
  | none => true
  | some _ => match sessionLoan s h with
    | none => false
    | some l => (l.stages.filter fun x => (layerStages p layer).elem x.stage).all fun x => l.held && stageSettled x

/-- The sessions that hold a layer (R224). -/
def notReady (s : State) (p : Pass) (layer : Nat) : List Nat := (p.sessions.filter fun h => !p.late.elem h).filter fun h => !layerReady s p layer h

/-- The bytes of a layer are asked for, for every session of a pass whose adapter is not wholly resident. -/
def askLayer (s : State) (p : Pass) (layer : Nat) : State :=
  issueFetches <| p.sessions.foldl (fun s h => match sessionLoan s h with
    | none => s
    | some l => if loanWhole l then s else askStages s p.region l.carrel l.adapter (layerStages p layer).elem) s

/-- The adapters that a pass needs, each once: used now, and a miss where one is not wholly resident (R228). -/
def useLoans (s : State) (p : Pass) : State :=
  ((p.sessions.filterMap fun h => (sessionLoan s h).map fun l => (l.carrel, l.adapter)).eraseDups).foldl (fun s x => match findLoan s x.1 x.2 with
    | none => s
    | some l =>
      let s1 := if loanWhole l then s else fbump s (Reg.ADP_STATS.MISSES l.carrel) 1
      modLoan s1 l.carrel l.adapter fun l => { l with lastUse := p.epoch }) s

/-- A page as it was before a session's appends: its epochs, its POISON but for what else was found meanwhile, the lines that the appends
poisoned (R236). -/
def undoMark (s : State) (m : AppendMark) : State :=
  let s1 := { s with kv := { s.kv with bad := sdrop m.lines.elem s.kv.bad } }
  modPage s1 m.hall m.page fun g => { g with
    epochFirst := m.first, epochLast := m.last
    poison := m.poison || s1.kv.bad.any fun e => e.2 && decide (lineKey m.hall g.addr ≤ e.1 ∧ e.1 < lineKey m.hall g.addr + g.size / 64) }

/-- A session is dropped from its pass (R225): counted and recorded; nothing of the pass stays with it or in its pages (R236). -/
def dropLate (s : State) (r layer h : Nat) : State :=
  let s0 := (((passOf s r).elim [] (·.marks)).filter fun m => m.session == h).foldl undoMark s
  let s1 := modPass s0 r fun p => { p with late := p.late ++ [h], marks := p.marks.filter fun m => m.session != h }
  let s2 := fbump s1 (Reg.ADP_STATS.LATE (handleCarrel h)) 1
  annal s2 0x0300 2 { region := some r, carrel := some (handleCarrel h), session := some h } stLate layer 0

/-! ### The delta (R121) -/

/-- Element formats of an adapter. -/
def adapterFmt (dtype : Nat) : Fmt := match dtype with | 0 => .bf16 | 1 => .mxE4m3 | _ => .mxE2m1

/-- Element (row, col) of a matrix of `rows` × `cols` stored K-major in the order of MMA's second operand, with its block scales
after it in MX types (R217). -/
def matElem (f : Fmt) (b : Bytes) (rows cols i j : Nat) : FV :=
  let n := i * cols + j
  let code := match f.width with
    | 16 => rd b (2 * n) 2
    | 8 => rd b n 1
    | _ => nbits (rd b (n / 2) 1) (4 * (n % 2)) 4
  if f.isMx then decMx f (rd b (rows * cols * f.width / 8 + j * (rows / 32) + i / 32) 1) code else decElem f code

/-- d_j of R121 for one session's input x: with poison where the session's lines are poisoned. -/
def adapterDelta (l : Loan) (x : LoanStage) (k n : Nat) (inp : List W32) (j : Nat) : PVal :=
  match x.data with
  | none => ⟨qnan 0 0 9, true⟩
  | some b =>
    let f := adapterFmt l.dtype
    let rp := storedRank l.rank
    let aBytes := k * rp * f.width / 8 + (if f.isMx then k * rp / 32 else 0)
    let bm := b.drop aBytes
    let u := (List.range l.rank).map fun r => accumulate 0 ((List.range k).map fun i => mulFV (decF (bf16R (inp.getD i 0))) (matElem f b k rp i r))
    let v := accumulate 0 (u.zipIdx.map fun y => mulFV (decF (bf16R y.1)) (matElem f bm rp n y.2 j))
    ⟨fmul l.alpha v, x.poison⟩

end Sys2Proof.Machine
end

