-- ==== Sys2Proof/Machine/Passes.lean ====
section
/-!
DEFINITION. Sys2Proof/Machine/Passes.lean: the inside of a pass: layers, strikes, shelf exits and reductions (03, 04, 05, 09:
R46 to R58, R76, R80 to R92, R116 to R121, R224, R225).
-/
namespace Sys2Proof.Machine

/-! ### Quantisation and outliers (R58, R116, R117) -/

/-- Is |x| above s × n, exactly? Not for a NaN. -/
def absAbove (x s : W32) (n : Nat) : Bool :=
  match decF (fabs x), decF s with
  | .inf _, .num _ _ _ => true
  | .num _ m e, .num _ k f => decide (k * n * pow2 (f - e) < m * pow2 (e - f))
  | _, _ => false

/-- Is an input an outlier under its recipe (R116)? -/
def isOutlier (x : Recipe) (v : W32) : Bool :=
  let th := BitVec.ofNat 32 x.thresh
  isNaN v || isInf v || absAbove v th 1 ||
    (!x.dynamic && absAbove v (BitVec.ofNat 32 x.staticScale) (2 ^ (x.width - 1) - 1))

/-- The rank key of an input: its magnitude; where a NaN ranks the manual does not say (a free value, log entry 3). -/
def rankKey (v : W32) : Nat := if isNaN v then Config.nanRank v else nbits v.toNat 0 31

/-- The greatest rank key of a channel over the vectors of a pass. -/
def channelKey (inputs : List (List W32)) (i : Nat) : Nat := (inputs.map fun v => rankKey (v.getD i 0)).foldl max 0

/-- The leaves of a stage as named shelf, module shelf, chain, first channel and rows. -/
def stageLeaves (s : State) (r st : Nat) : List (Nat × Nat × Nat × Nat × Nat) :=
  ((((List.range (s.img.bound.groupCount r st)).flatMap fun q => s.img.bound.groupLeaves r st q).map fun l => (l.2.1, l.2.2)).eraseDups).map
    fun l => (l.1, housedAt s r l.1, l.2, ((leafPlace s.img.bound r st l.1 l.2).map (·.2)).getD 0, s.img.bound.chainRows r l.1 l.2)

/-- The module shelves of a stage. -/
def stageShelves (s : State) (r st : Nat) : List Nat := ((stageLeaves s r st).map fun l => l.2.1).eraseDups

/-- The outlier pairs of a shelf by rank (R117). -/
def rankedPairs (s : State) (x : Recipe) (k : Nat) (inputs : List (List W32)) (shelf : Nat) : List OPair :=
  let hot := (List.range k).filter fun i => inputs.any fun v => isOutlier x (v.getD i 0)
  let ps := ((stageLeaves s x.region x.stage).filter fun l => l.2.1 == shelf).flatMap fun l =>
    (hot.filter fun i => decide (l.2.2.2.1 ≤ i ∧ i < l.2.2.2.1 + l.2.2.2.2)).map fun i => (⟨shelf, l.2.2.1, i⟩ : OPair)
  sortBy (ps.map fun o => (channelKey inputs o.chan, o)) (fun a b =>
    if a.1 ≠ b.1 then decide (b.1 < a.1) else if a.2.chain ≠ b.2.chain then decide (a.2.chain < b.2.chain)
    else decide (a.2.chan ≤ b.2.chan)) |>.map (·.2)

/-- x ÷ s rounded half to even and clamped to b bits (R58); a NaN becomes 0, an infinity its clamp (R116). -/
def quantise (b : Nat) (s x : W32) : Int :=
  let lo : Int := -((2 ^ (b - 1) : Nat) : Int)
  let hi : Int := ((2 ^ (b - 1) : Nat) : Int) - 1
  match decF x, decF s with
  | .num n m e, .num _ k f =>
    let q : Int := rneDiv (m * pow2 (e - f)) (k * pow2 (f - e))
    clampInt lo hi (if n then -q else q)
  | .inf n, _ => if n then lo else hi
  | _, _ => 0

/-- s_a of a vector (R58): static, or the largest magnitude over the channels that lie in no main or spill set, divided by
2^(b−1) − 1 and rounded to FP32. -/
def scaleOf (x : Recipe) (k : Nat) (off : List Nat) (v : List W32) : W32 :=
  if !x.dynamic then BitVec.ofNat 32 x.staticScale
  else
    let m := (((List.range k).filter fun i => !off.elem i && !isNaN (v.getD i 0)).map fun i => nbits (v.getD i 0).toNat 0 31).foldl max 0
    match decF (BitVec.ofNat 32 m) with
    | .num _ n e => if n = 0 then fone else roundF false n (2 ^ (x.width - 1) - 1) e
    | _ => BitVec.ofNat 32 m

/-- A stage begins with its inputs: outlier sets, scales, codes; `bad` are the vectors whose inputs met an error. -/
def beginStage (s : State) (p : Pass) (x : Recipe) (inputs : List (List W32)) (bad : List Nat) : StageRun :=
  let k := stageK s p x.stage
  let cap := if p.archive then s.img.bound.outlierCap p.region x.stage else 0
  let ranked := (stageShelves s p.region x.stage).map (rankedPairs s x k inputs)
  let main := ranked.flatMap (·.take cap)
  let spill := ranked.flatMap fun r => (r.drop cap).take cap
  let off := ((main ++ spill).map (·.chan)).eraseDups
  let scales := inputs.map (scaleOf x k off)
  { stage := x.stage, inputs := inputs, mainSet := main, spillSet := spill, excessSet := ranked.flatMap (·.drop (2 * cap))
    scales := scales
    codes := List.zipWith (fun v sa => (List.range k).map fun i => quantise x.width sa (v.getD i 0)) inputs scales
    struck := [], bad := bad }

/-- The counts of outlier pairs by hall, region and stage, and of NaN excess channels (R116, R120). -/
def countOutliers (s : State) (p : Pass) (x : StageRun) : State :=
  let inHall := fun h (o : OPair) => hallOf o.shelf == h
  let s1 := (List.range 4).foldl (fun s h =>
    let s1 := fbump s (Reg.SCR_OUTLIER_STATS.SPILLED h) (x.spillSet.filter (inHall h)).length
    let s2 := fbump s1 (Reg.SCR_OUTLIER_STATS.EXCESS h) (x.excessSet.filter (inHall h)).length
    fbump s2 (Reg.SCR_BLOCK_STATS.NAN h)
      (((x.excessSet.filter (inHall h)).map fun o => (x.inputs.filter fun v => isNaN (v.getD o.chan 0)).length).sum)) s
  let key := (p.region * 65536 + x.stage) * 2
  { s1 with con := { s1.con with
      minute := smod (fun _ => 0) (smod (fun _ => 0) s1.con.minute key (· + x.spillSet.length)) (key + 1) (· + x.excessSet.length) } }

/-! ### Layers (R224, R225) -/

/-- The jobs of a stage that its shelves' scribes have ready: the stage entry and the outlier program on every shelf (R112), the
adapter program on the home scribes of sessions with an adapter on the stage. -/
def progArea (img : Image) (kind r st : Nat) : Option (Nat × Nat) :=
  (img.placements.find? fun q => q.kind == kind && q.region == r && (q.stage == st || decide (4 ≤ kind))).map fun q => (q.load, q.load + q.len)

/-- A job of an image program. The parameter block of a kind-3 program lies before the first word that may run (R230). -/
def imageJob (img : Image) (kind r st carrel session : Nat) : Option Job :=
  (progArea img kind r st).map fun a =>
    { kind := kind, region := r, stage := st, carrel := carrel, seq := 0, session := session, tile := 0, kv := 0, part := 0
      first := if kind = 3 then a.1 + 8 else a.1, last := a.2, entry := if kind = 3 then a.1 + 8 else a.1 }

/-- A scribe. -/
def scribeOf (s : State) (shelf : Nat) : Scribe := sget (fun _ => freshScribe) s.scr.unit shelf

/-- The module with a scribe changed. -/
def modScribe (s : State) (shelf : Nat) (f : Scribe → Scribe) : State :=
  { s with scr := { s.scr with unit := smod (fun _ => freshScribe) s.scr.unit shelf f } }

/-- A job is ready on a scribe. -/
def readyJob (s : State) (shelf : Nat) (j : Option Job) : State :=
  match j with
  | some j => modScribe s shelf fun u => { u with ready := u.ready ++ [j] }
  | none => s

/-- The scribes of a stage get its jobs. -/
def readyStage (s : State) (p : Pass) (st : Nat) : State :=
  let img := s.img.bound
  let s1 := (stageShelves s p.region st).foldl (fun s h =>
    readyJob (readyJob s h (imageJob img 0 p.region st p.carrel 0)) h (imageJob img 1 p.region st p.carrel 0)) s
  (p.sessions.filter fun h => !p.late.elem h && ((sessionLoan s h).elim false fun l => l.stages.any fun x => x.stage == st)).foldl (fun s h =>
    (((List.range (img.groupCount p.region st)).filterMap fun q => homeLeaf img p.region st q).map fun l => housedAt s p.region l.2.1).foldl
      (fun s shelf => readyJob s shelf (imageJob img 2 p.region st (handleCarrel h) h)) s) s1

/-- The last stage of a pass: its output head. -/
def headStage (p : Pass) : Nat := ((p.recipes.filter fun x => x.region == p.region).map (·.stage)).foldl max 0

/-- Does a job that `f` names wait for a shelf's scribe, or run on it? -/
def jobOn (s : State) (shelf : Nat) (f : Job → Bool) : Bool :=
  (scribeOf s shelf).ready.any f || (scribeOf s shelf).run.elim false fun g => f g.job

/-- Does a stage's entry or outlier program still work on a shelf? The shelf's exit waits for it (R120). -/
def exitWaits (s : State) (r st shelf : Nat) : Bool := jobOn s shelf fun j => decide (j.kind ≤ 1) && j.region == r && j.stage == st

/-- Does the adapter program of a vector's session still work on the home scribe of an output group (R121)? -/
def adapterWaits (s : State) (p : Pass) (st q v : Nat) : Bool :=
  match p.vecs[v]?, homeLeaf s.img.bound p.region st q with
  | some x, some l => jobOn s (housedAt s p.region l.2.1) fun j => j.kind == 2 && j.region == p.region && j.stage == st && j.session == x.session
  | _, _ => false

/-- The sessions of a pass that draw a token. -/
def drawing (p : Pass) : List Nat := p.sessions.filter fun h => p.vecs.any fun v => v.session == h && v.draws

/-- The sampling jobs of a pass (R112, R124): one for each session that draws, in intake order, on every shelf of its output head, where the pass
draws (R314). That a job serves one session is the model's choice (log entry 32). -/
def readySample (s : State) (p : Pass) (st : Nat) : State :=
  let o := s.img.bound.orbit
  if st = headStage p && (!orbitRegion s p.region || decide (o.stages ≤ o.stage + 1)) then
    (drawing p).foldl (fun s x => (stageShelves s p.region st).foldl (fun s h => readyJob s h (imageJob s.img.bound 4 p.region st p.carrel x)) s) s
  else s

/-- Does a sampling job of a pass still wait or work? -/
def sampleWaits (s : State) (p : Pass) : Bool :=
  (stageShelves s p.region (headStage p)).any fun h => jobOn s h fun j => j.kind == 4 && j.region == p.region

/-- The sessions whose bytes for a layer are not resident once the hold budget is spent are dropped (R225). -/
def dropUnready (s : State) (r layer : Nat) : State :=
  match passOf s r with
  | none => s
  | some p => if p.budgetSpent then (notReady s p layer).foldl (fun s h => dropLate s r layer h) s else s

/-- The stage that a pass begins next. -/
def nextStage (p : Pass) : Nat := match p.stage with | none => 0 | some st => st + 1

/-- The layer of a stage of a pass. -/
def stageLayer (p : Pass) (st : Nat) : Option Nat := (passRecipe p st).map (·.layer)

/-- Are all outputs of a stage there for the vectors still in the pass? -/
def outKey (st q v : Nat) : Nat := (st * 65536 + q) * 2 ^ 17 + v
def outAt (p : Pass) (st q v : Nat) : Option (List PVal) := sget (fun _ => none) p.outs (outKey st q v)
def stageDone (s : State) (p : Pass) (st : Nat) : Bool :=
  p.vecs.zipIdx.all fun v => !liveVec p v.1 || (List.range (s.img.bound.groupCount p.region st)).all fun q => (outAt p st q v.2).isSome

/-- The output of a stage for a vector, its groups side by side (R231). -/
def stageOut (s : State) (p : Pass) (st v : Nat) : List PVal :=
  ((List.range (s.img.bound.groupCount p.region st)).map fun q => (outAt p st q v).getD []).flatten

/-- The attention block whose QKV stage, or whose output stage, this is (R230). -/
def qkvAttn (s : State) (r st : Nat) : Option Attn := ((attnLayers s.img.bound r).find? fun a => a.2.qkvStage == st).map (·.2)
def outAttn (s : State) (r st : Nat) : Option Attn := ((attnLayers s.img.bound r).find? fun a => a.2.outStage == st).map (·.2)

/-- The length that a session of a pass has in it: the stored length and the pass's new tokens (R236). -/
def passLength (s : State) (p : Pass) (h : Nat) : Nat :=
  ((findSession s h).elim 0 (·.length)) + (p.vecs.filter fun v => v.session == h).length

/-- Query tokens that a row tile holds, and how many row tiles a session has in a pass (R238). -/
def tileTokens (a : Attn) : Nat := 16 / a.g
def rowTiles (a : Attn) (tokens : Nat) : Nat := ceilDiv tokens (tileTokens a)

/-- Blocks and parts of n keys (R238). -/
def kvBlocks (n : Nat) : Nat := ceilDiv n 64
def kvParts (n : Nat) : Nat := min 16 (kvBlocks n)

/-- The attention jobs of a stage, in the order in which they are dealt (R238). -/
def attnJobs (s : State) (p : Pass) (st : Nat) : List Job :=
  match qkvAttn s p.region st with
  | none => []
  | some a => p.sessions.flatMap fun h =>
    match imageJob s.img.bound 3 p.region st (handleCarrel h) h with
    | none => []
    | some j => (List.range (rowTiles a ((p.vecs.filter fun v => v.session == h).length))).flatMap fun t =>
      (List.range a.hkv).flatMap fun kv => (List.range (kvParts (passLength s p h))).map fun k => { j with tile := t, kv := kv, part := k }

/-- The key of the attention output of a session, row tile and key-value head. -/
def attnKey (si st tile kv : Nat) : Nat := ((si * 65536 + st) * 2 ^ 17 + tile) * 64 + kv

/-- The attention output of a vector: for each query head its d values (R231, R238); none while a merge is missing. -/
def attnOut (p : Pass) (a : Attn) (v : Vec) : Option (List PVal) :=
  let si := p.sessions.idxOf v.session
  let tok := ((p.vecs.filter fun w => w.session == v.session).map (·.pos)).idxOf v.pos
  (List.range (a.g * a.hkv)).foldl (fun acc h =>
    match acc, sget (fun _ => none) p.attn (attnKey si a.qkvStage (tok / tileTokens a) (h / a.g)) with
    | some xs, some rows => some (xs ++ rows.getD (tok % tileTokens a * a.g + h % a.g) [])
    | _, _ => none) (some [])

/-! ### Tiles (R94, R95) -/

/-- A tile of a module shelf. -/
def tileAt (s : State) (shelf t : Nat) : Tile := sget (fun _ => freshTile) s.scr.tiles (tileKey shelf t)

/-- The module with a tile changed. -/
def modTile (s : State) (shelf t : Nat) (f : Tile → Tile) : State :=
  { s with scr := { s.scr with tiles := smod (fun _ => freshTile) s.scr.tiles (tileKey shelf t) f } }

/-- Element (r, c) of a tile. -/
def Tile.elem (t : Tile) (r c : Nat) : W32 := sget (fun _ => 0) t.data (64 * r + c)

/-- Is row r poisoned? -/
def Tile.bad (t : Tile) (r : Nat) : Bool := t.poison.testBit r

/-- A set of rows as a mask. -/
def rowMask (f : Nat → Bool) : Nat := ((List.range 16).map fun r => if f r then 2 ^ r else 0).sum

/-- The columns of a tile below `cols` take new values; other columns stay. A row whose every column is written takes the new
poison, a row that keeps some columns keeps its poison too (R93). -/
def Tile.write (t : Tile) (owner : Nat) (cols : Nat) (f : Nat → Nat → W32) (bad : Nat → Bool) : Tile :=
  { data := (List.range 16).foldl (fun d r => (List.range cols).foldl (fun d c => sset (fun _ => 0) d (64 * r + c) (f r c)) d) t.data
    poison := rowMask fun r => bad r || (decide (cols < 64) && t.bad r)
    owner := some owner }

/-- The 64 columns of one row of a tile take new values: overwritten, or added in FP32. The row's poison follows R93. -/
def Tile.writeRow (t : Tile) (owner r : Nat) (add : Bool) (f : Nat → PVal) : Tile :=
  let bad := ((List.range 64).any fun c => (f c).bad) || (add && t.bad r)
  { data := (List.range 64).foldl (fun d c => sset (fun _ => 0) d (64 * r + c) (if add then fadd (t.elem r c) (f c).val else (f c).val)) t.data
    poison := rowMask fun q => if q = r then bad else t.bad q
    owner := some owner }

/-! ### Strikes -/

/-- A hall's power state. -/
def hallPower (s : State) (h : Nat) : HallPower := sget (fun _ => freshHall) s.pwr.halls h

/-- The module with a hall's power state changed. -/
def modHall (s : State) (h : Nat) (f : HallPower → HallPower) : State :=
  { s with pwr := { s.pwr with halls := smod (fun _ => freshHall) s.pwr.halls h f } }

/-- The shortest strike period of a hall for a pass that begins now: PERIOD_FLOOR, or FIXED_PERIOD in fixed-frequency mode where that is longer
(R50, R338). A pass holds it to its end (R48, R52). -/
def floorNow (s : State) (h : Nat) : Nat :=
  max (fget s (Reg.SHF_STRIKE_CTRL.PERIOD_FLOOR h)) (if fget s Reg.PWR_CTRL.FIXED = 1 then fget s Reg.PWR_CTRL.FIXED_PERIOD else 0)

/-- The strike period of a hall above a shortest one: with the guard cycles that thermal control adds, at most 48 (R50, R339). -/
def strikePeriod (s : State) (h floor : Nat) : Nat := min 48 (floor + (hallPower s h).period)

/-- The shortest period of a hall that a pass holds. -/
def passFloor (s : State) (p : Pass) (h : Nat) : Nat := p.floor.getD h (floorNow s h)

/-- A strike of a folio shows its period (R50). -/
def showPeriod (s : State) (h floor : Nat) : State := fset s (Reg.SHF_STRIKE_CTRL.PERIOD_NOW h) (strikePeriod s h floor)

/-- The vector that a folio strikes next: the first that is still in the pass and lacks a plane (R46, R47). -/
def nextVec (p : Pass) (x : StageRun) (b key : Nat) : Option Nat :=
  (p.vecs.zipIdx.find? fun v => liveVec p v.1 && decide (nextPlane x key v.2 < b)).map (·.2)

/-- Does a code lie beyond the threshold of R141, given the ideal sum in level units? -/
def beyondBound (s : State) (p : Pass) (shelf key : Nat) (sum : Int) (c : Conv) : Bool :=
  let f := folioAt s key
  let h := hallOf shelf
  let sigma := sigmaC (sget (fun _ => (0 : Int)) s.col.temps h) (p.window.getD h 0) f.ageHours
  decide (2 ^ f.rangeExp * (2550 * sigma + fxOne) < (c.code * (2 ^ f.rangeExp : Nat) - sum).natAbs * (2 * fxOne))

/-- A localisation of the chain records the codes of the failing column group for the pass's first vector (R387). -/
def countLocal (s : State) (p : Pass) (shelf c slot key v : Nat) (rows : List Nat) (cs : List Conv) : State :=
  if v ≠ 0 then s
  else { s with con := { s.con with locals := s.con.locals.map fun l =>
    if l.region == p.region && l.shelf == shelf && l.chain == c && decide (l.passes < 8) then
      let n := ((List.range 64).filter fun j => match cs[64 * l.group + j]? with
        | some x => beyondBound s p shelf key (columnSum (folioAt s key) rows (64 * l.group + j)) x
        | none => false).length
      { l with beyond := smod (fun _ => 0) l.beyond slot (· + n) }
    else l } }

/-- The first strike of a vector: a shadow bank that waits for the next vector becomes active (R161). -/
def switchAtVector (s : State) (x : StageRun) (key v : Nat) : State :=
  if (folioAt s key).shadowValid && decide ((folioAt s key).shadowAt = 0) && decide (nextPlane x key v = 0) then switchBank s key else s

/-- A strike of a SERVING folio for its stage: the next plane of the folio's next vector (R46, R47). The first plane of a vector
waits until the chain's ledger has been read out for the vector before it (R77), unless that vector is in the pass no more. -/
def strikeOne (s : State) (p : Pass) (x : StageRun) (b shelf slot key : Nat) : State :=
  let c := (slotChain s shelf slot).getD 0
  match nextVec p x b key with
  | none => s
  | some v =>
    let l := ledgerOf s shelf c
    if l.started && l.vec != v && ((p.vecs[l.vec]?).elim false (liveVec p)) then s
    else
      let s := switchAtVector s x key v
      let plane := nextPlane x key v
      let rows := drivenRows x shelf c v (slotChannel s p x.stage shelf c slot) plane
      let cs := strikeCodes s key (p.window.getD (hallOf shelf) 0) rows
      let s1 := modLedger s shelf c fun l => ledgerAdd l v ((folioAt s key).rangeExp + pairShift s shelf slot) (planeWeight b plane) cs
      let s2 := modPass { s1 with free := s1.free + 1 } p.region fun p =>
        modStageRun p x.stage fun x => { x with struck := sset (fun _ => 0) x.struck (v * 2 ^ 16 + key) (plane + 1) }
      let s3 := countWindow (countSat s2 key p.region ((stageLayer p x.stage).getD 0) cs) key plane b rows cs
      let s4 := countLocal s3 p shelf c slot key v rows cs
      showPeriod s4 (hallOf shelf) (passFloor s p (hallOf shelf))

/-- What a pass has of the stage that a serving folio is struck for now, with the recipe's width: none where no pass strikes it. -/
def struckFor (s : State) (k : Nat) : Option (Pass × StageRun × Nat) :=
  let f := folioAt s k
  match passOf s f.region with
  | none => none
  | some p => match p.stage.bind (stageRun p) with
    | none => none
    | some x => match passRecipe p x.stage, slotChain s (k / 68) f.logical with
      | some rc, some c =>
        if (leafPlace s.img.bound p.region x.stage ((namedShelf s (k / 68)).getD 0) c).isSome && (struckSlots s p x.stage (k / 68) c).elem f.logical
        then some (p, x, rc.width) else none
      | _, _ => none

/-- STRIKE (R48, R66, R70): the folio at a position of a module shelf strikes one plane for the pass of its region. A SERVING
folio alone is struck; in a hall whose clock is stretched or paused the start is deferred (R51, R341). -/
def execStrike (shelf pos : Nat) (s : State) : Out :=
  let key := folioKey shelf pos
  let f := folioAt s key
  .next (
    if f.st != .serving || (hallPower s (hallOf shelf)).stretched || (hallPower s (hallOf shelf)).gated then s
    else match struckFor s key with
      | some (p, x, b) => strikeOne s p x b shelf f.logical key
      | none => s)

/-! ### Exits (R77, R80, R82) -/

/-- The key of a leaf. -/
def leafKey (st shelf c v : Nat) : Nat := ((st * 512 + shelf) * 64 + c) * 2 ^ 17 + v
def leafAt (p : Pass) (st shelf c v : Nat) : Option Leaf := sget (fun _ => none) p.leaves (leafKey st shelf c v)

/-- Has every folio of the chain that the recipe strikes made its last strike of vector v? -/
def vectorStruck (s : State) (p : Pass) (x : StageRun) (b shelf c v : Nat) : Bool :=
  (chainFolios s shelf c).all fun f => !(struckSlots s p x.stage shelf c).elem f.1 || decide (b ≤ nextPlane x f.2 v)

/-! ### Reduction (R84 to R87, R89) -/

/-- Leaves of an output group in a hall, in leaf order. -/
def hallLeaves (s : State) (r st q h : Nat) : List (Nat × Nat) :=
  ((s.img.bound.groupLeaves r st q).filter fun l => l.1 == h).map fun l => (l.2.1, l.2.2)

/-- Is an output group merged as integers (R89, R90)? -/
def wideGroup (s : State) (p : Pass) (st q : Nat) : Bool :=
  ((passRecipe p st).elim false Recipe.wide) && wideEligible s.img.bound p.region st q

/-- The leaf of a named shelf and chain for a vector. -/
def namedLeaf (s : State) (p : Pass) (st v : Nat) (l : Nat × Nat) : Option Leaf := leafAt p st (housedAt s p.region l.1) l.2 v

/-- The key of a sum of the trees: `hall` 0 to 3 for a hall's tree, 4 for the module's, 5 for a wide merge, 6 for an orbit tree. -/
def nodeKey (st q v hall level i : Nat) : Nat := ((outKey st q v * 8 + hall) * 16 + level) * 256 + i
def nodeAt (p : Pass) (st q v hall level i : Nat) : Option (List PVal) := sget (fun _ => none) p.nodes (nodeKey st q v hall level i)

/-- How many entries level `l` of a list of `n` has (R84). -/
def levelCount (n l : Nat) : Nat := ceilDiv n (2 ^ l)

/-- Entry i of level l of a tree over n leaves: a leaf, a sum already made, or an odd last entry passed up (R84). -/
def treeEntry (leaf : Nat → Option (List PVal)) (node : Nat → Nat → Option (List PVal)) (n : Nat) : Nat → Nat → Option (List PVal)
  | 0, i => leaf i
  | l + 1, i =>
    if 2 * i + 1 < levelCount n l then node (l + 1) i
    else if 2 * i < levelCount n l then treeEntry leaf node n l (2 * i) else none

/-- The level at which a tree over n leaves has one entry. -/
def rootLevel (n : Nat) : Nat := if n ≤ 1 then 0 else Nat.log2 (n - 1) + 1

/-- Entry i of level l of a hall's tree. -/
def hallEntry (s : State) (p : Pass) (st q v h l i : Nat) : Option (List PVal) :=
  let ls := hallLeaves s p.region st q h
  treeEntry (fun k => (ls[k]?.bind (namedLeaf s p st v)).map leafValue) (fun l i => nodeAt p st q v h l i) ls.length l i

/-- Does a hall hold a leaf of the group? -/
def hallPresent (s : State) (r st q h : Nat) : Bool := !(hallLeaves s r st q h).isEmpty

/-- A hall's result. -/
def hallRoot (s : State) (p : Pass) (st q v h : Nat) : Option (List PVal) :=
  hallEntry s p st q v h (rootLevel (hallLeaves s p.region st q h).length) 0

/-- The result of a pair of halls (R86): a sum, or the one that is present. -/
def pairEntry (s : State) (p : Pass) (st q v i : Nat) : Option (List PVal) :=
  match hallPresent s p.region st q (2 * i), hallPresent s p.region st q (2 * i + 1) with
  | true, true => nodeAt p st q v 4 1 i
  | true, false => hallRoot s p st q v (2 * i)
  | false, true => hallRoot s p st q v (2 * i + 1)
  | false, false => none

/-- The module's value of an output group before any adapter term, if it is complete. -/
def groupValue (s : State) (p : Pass) (st q v : Nat) : Option (List PVal) :=
  if wideGroup s p st q then nodeAt p st q v 5 0 0
  else
    let has := fun i => hallPresent s p.region st q (2 * i) || hallPresent s p.region st q (2 * i + 1)
    match has 0, has 1 with
    | true, true => nodeAt p st q v 4 2 0
    | true, false => pairEntry s p st q v 0
    | false, true => pairEntry s p st q v 1
    | false, false => none

/-- fl(y + d_j) where the vector's session has an adapter on the stage (R82, R121); a fault of its adapter program on the group's home scribe
poisons d_j (R115). -/
def withAdapter (s : State) (p : Pass) (x : StageRun) (q v : Nat) (ys : List PVal) : List PVal :=
  match p.vecs[v]? with
  | none => ys
  | some vec => match (sessionLoan s vec.session).bind fun l => (l.stages.find? fun y => y.stage == x.stage).map fun y => (l, y) with
    | none => ys
    | some (l, y) =>
      let home := (homeLeaf s.img.bound p.region x.stage q).map fun l => housedAt s p.region l.2.1
      let bad := p.faults.any fun f => f.2.kind == 2 && f.2.stage == x.stage && f.2.session == vec.session && some f.1 == home
      let n := stageN s p x.stage
      ys.zipIdx.map fun e => if 512 * q + e.2 < n then
        let d := adapterDelta l y (stageK s p x.stage) n (x.inputs.getD v []) (512 * q + e.2)
        padd e.1 ⟨d.val, d.bad || bad⟩ else e.1

end Sys2Proof.Machine
end

