-- ==== Sys2Proof/Machine/Collectives.lean ====
section
/-!
DEFINITION. Sys2Proof/Machine/Collectives.lean: the collectives of an orbit and the crossing of a transit chain (14: R315 to R319,
R323): contributions, fragments, the tree over members, gathered groups.

Element e of a collective is vector e / N, output e mod N. An element of a collective is kept with the member that sent it.
-/
namespace Sys2Proof.Machine

/-! ### Who takes part (R310, R311, R316) -/

/-- The orbit-stage entry of a stage: kind (1 REDUCE, 2 GATHER, 3 TRANSIT_OUT) and member mask. -/
def orbitEntry (s : State) (r st : Nat) : Option (Nat × Nat) :=
  (s.img.bound.orbit.entries.find? fun e => e.1 == r && e.2.2.1 == st).map fun e => (e.2.1, e.2.2.2)

/-- The members of a mask, ascending. -/
def maskList (m : Nat) : List Nat := (List.range 16).filter fun i => m.testBit i

/-- This module's rank among members. -/
def rankIn (s : State) (ms : List Nat) : Nat := ms.idxOf s.img.bound.orbit.member

/-- Does this member own an output group of a gathered stage (R316)? Every group of any other stage is its own. -/
def ownsGroup (s : State) (r st q : Nat) : Bool :=
  match orbitEntry s r st with
  | some (2, m) => q % (maskList m).length == rankIn s (maskList m)
  | _ => true

/-! ### Identifiers and what has arrived (R318) -/

/-- The identifier of a stage's collective: PASS_ID and the place among the region's collectives in execution order. -/
def collTag (s : State) (p : Pass) (st : Nat) : Nat :=
  p.passId % 2 ^ 20 * 4096 + (s.img.bound.orbit.entries.filter fun e => e.1 == p.region && e.2.1 != 3 && decide (e.2.2.1 < st)).length

/-- The transit identifier of a pass (R323). -/
def transitTag (p : Pass) : Nat := p.passId % 2 ^ 20 * 4096 + 0xFFF

/-- A collective of which nothing is known. -/
def freshColl (tag kind : Nat) : Coll :=
  { tag := tag, region := 0, stage := 0, kind := kind, got := [], taken := [], value := [], ready := false, sent := false
    complete := false, timedOut := false, lost := [] }

/-- Is this the collective of a tag; `out` for the crossing that this member sends? -/
def Coll.is (tag : Nat) (out : Bool) (c : Coll) : Bool := c.tag == tag && (c.kind == 3) == out

/-- The collective of a tag. -/
def collOf (s : State) (tag : Nat) (out : Bool) : Coll :=
  (s.orb.colls.find? (Coll.is tag out)).getD (freshColl tag (if out then 3 else 0))

/-- The module with a collective kept. -/
def putColl (s : State) (c : Coll) : State :=
  let same := Coll.is c.tag (c.kind == 3)
  { s with orb := { s.orb with
      colls := if s.orb.colls.any same then modFirst same (fun _ => c) s.orb.colls else s.orb.colls ++ [c] } }

/-- The key of an element from a source member. -/
def elemKey (src e : Nat) : Nat := src * 2 ^ 32 + e

/-- An element that has arrived. -/
def gotAt (c : Coll) (src e : Nat) : Option PVal := sget (fun _ => none) c.got (elemKey src e)

/-- A run of elements from a source, once all have arrived. -/
def gotRun (c : Coll) (src base len : Nat) : Option (List PVal) :=
  (List.range len).foldr (fun i acc => match acc, gotAt c src (base + i) with
    | some xs, some x => some (x :: xs)
    | _, _ => none) (some [])

/-! ### Fragments (R299, R318, R323) -/

/-- Elements in a FRAG. -/
def fragElems : Nat := 56

/-- Runs of elements (first element, values) cut into fragments. -/
def fragments (runs : List (Nat × List PVal)) : List (Nat × List PVal) :=
  runs.flatMap fun r => (groupsOf fragElems (r.2.length / fragElems + 1) r.2).zipIdx.map fun g => (r.1 + fragElems * g.2, g.1)

/-- The POISON bits of elements: one for each 32 bytes. -/
def poisonBits (xs : List PVal) : Nat :=
  ((groupsOf 8 (xs.length / 8 + 1) xs).zipIdx.map fun g => if g.1.any (·.bad) then 2 ^ g.2 else 0).sum

/-- One fragment goes out. The origin code that a poison announcement carries is not kept with values: a free value (log entry 3). -/
def sendFragment (s : State) (n tag src : Nat) (f : Nat × List PVal) : State :=
  let (r, s1) := freeDraw s
  sendTxn s1 n 2 (poisonBits f.2) tag (f.1 + src * 2 ^ 32) (f.2.flatMap fun x => leBytes 4 x.val.toNat) (r % 5 + 1) (f.2.filter (·.bad)).length

/-- Runs go to a partner, fragment k on the k-th of its ports in turn. -/
def sendRuns (s : State) (ports : List Nat) (tag : Nat) (runs : List (Nat × List PVal)) : State :=
  if ports.isEmpty then s
  else (fragments runs).zipIdx.foldl (fun s f => sendFragment s (ports.getD (f.2 % ports.length) 0) tag s.img.bound.orbit.member f.1) s

/-- Runs go to members over the mesh. -/
def sendMembers (s : State) (ms : List Nat) (tag : Nat) (runs : List (Nat × List PVal)) : State :=
  (ms.filter (· != s.img.bound.orbit.member)).foldl (fun s m => sendRuns s [memberPort s m] tag runs) s

/-! ### Outputs -/

/-- Columns of output group q of a width. -/
def groupLen (n q : Nat) : Nat := min 512 (n - 512 * q)

/-- Vector and group of every part of a collective's elements. -/
def collParts (s : State) (p : Pass) (st : Nat) : List (Nat × Nat) :=
  (List.range p.vecs.length).flatMap fun v => (List.range (s.img.bound.groupCount p.region st)).map fun q => (v, q)

/-- An output group of a vector stands. -/
def putOut (s : State) (r st q v : Nat) (ys : List PVal) : State :=
  modPass s r fun p => { p with outs := sset (fun _ => none) p.outs (outKey st q v) (some ys) }

/-- This module's value of an output group, cut to the stage's width; a vector that was dropped here contributes poison. -/
def localGroup (s : State) (p : Pass) (st q v : Nat) : Option (List PVal) :=
  let len := groupLen (stageN s p st) q
  match p.vecs[v]? with
  | some x => if liveVec p x then (groupValue s p st q v).map (·.take len) else some (List.replicate len ⟨0, true⟩)
  | none => none

/-- All of a list of optional lists side by side, once all stand. -/
def joinAll (xs : List (Option (List PVal))) : Option (List PVal) :=
  xs.foldr (fun x acc => match x, acc with
    | some a, some b => some (a ++ b)
    | _, _ => none) (some [])

/-- A collective is complete: a LIMIT that names it lapses, and the primary releases the members it limited (R320). -/
def completeColl (s : State) (c : Coll) : State :=
  let s1 := putColl s { c with complete := true }
  let mine := s1.orb.limited.filter fun l => l.2 == c.tag
  let s2 := mine.foldl (fun s l => sendMsg s (memberPort s l.1) 3 ([3] ++ leBytes 4 c.tag)) s1
  { s2 with orb := { s2.orb with
      limit := s2.orb.limit.filter fun l => l.2 != c.tag
      limited := s2.orb.limited.filter fun l => l.2 != c.tag
      paced := s2.orb.paced.filter fun x => x.2.1 != c.tag } }

/-! ### REDUCE (R315, R317) -/

/-- The ranks whose sums rank ρ takes in, in the order of the tree of R84 over n members; and the rank that ρ sends to. -/
def childRanks (rho n : Nat) : List Nat :=
  ((List.range 4).filter fun l => rho % 2 ^ (l + 1) == 0 && decide (rho + 2 ^ l < n)).map fun l => rho + 2 ^ l
def parentRank (rho : Nat) : Nat := rho &&& (rho - 1)

/-- The sums of children that have arrived join this member's value, in order. -/
def takeChildren (c : Coll) (ms : List Nat) (children : List Nat) (total : Nat) : Coll :=
  children.zipIdx.foldl (fun c ch =>
    if c.taken.length = ch.2 then match gotRun c (ms.getD ch.1 0) 0 total with
      | some ys => { c with value := List.zipWith padd c.value ys, taken := c.taken ++ [ch.1] }
      | none => c
    else c) c

/-- The values of a whole collective become the stage's outputs; `adapt` adds the adapter term (R82). -/
def putOuts (s : State) (p : Pass) (st : Nat) (adapt : Bool) (ys : List PVal) : State × List PVal :=
  let n := stageN s p st
  (collParts s p st).foldl (fun (acc : State × List PVal) vq =>
    let part := (ys.drop (vq.1 * n + 512 * vq.2)).take (groupLen n vq.2)
    let out := if adapt then (match stageRun p st with | some x => withAdapter s p x vq.2 vq.1 part | none => part) else part
    (putOut acc.1 p.region st vq.2 vq.1 out, acc.2 ++ out)) (s, [])

/-- A REDUCE collective goes as far as it can: the root adds the adapter term once and sends the result to every other member. -/
def reduceStep (s : State) (p : Pass) (st mask : Nat) (c0 : Coll) : State :=
  let ms := maskList mask
  let rho := rankIn s ms
  let total := p.vecs.length * stageN s p st
  let kids := childRanks rho ms.length
  match if c0.ready then some c0.value else joinAll ((collParts s p st).map fun vq => localGroup s p st vq.2 vq.1) with
  | none => putColl s c0
  | some xs =>
    let c := takeChildren { c0 with ready := true, value := xs } ms kids total
    if c.complete then s
    else if c.taken.length < kids.length then putColl s c
    else if rho = 0 && (collParts s p st).any (fun vq => adapterWaits s p st vq.2 vq.1) then putColl s c
    else if rho = 0 then
      let (s1, res) := putOuts s p st true c.value
      completeColl (sendMembers s1 ms c.tag [(0, res)]) { c with sent := true }
    else
      let s1 := if c.sent then s else sendRuns s [memberPort s (ms.getD (parentRank rho) 0)] c.tag [(0, c.value)]
      match gotRun c (ms.getD 0 0) 0 total with
      | none => putColl s1 { c with sent := true }
      | some ys => completeColl (putOuts s1 p st false ys).1 { c with sent := true }

/-! ### GATHER and the transit crossing (R316, R323) -/

/-- The runs of the groups that this member owns, once all stand. -/
def ownedRuns (s : State) (p : Pass) (st : Nat) (ms : List Nat) : Option (List (Nat × List PVal)) :=
  let n := stageN s p st
  ((collParts s p st).filter fun vq => vq.2 % ms.length == rankIn s ms).foldr (fun vq acc =>
    let out := match p.vecs[vq.1]? with
      | some x => if liveVec p x then outAt p st vq.2 vq.1 else some (List.replicate (groupLen n vq.2) ⟨0, true⟩)
      | none => none
    match out, acc with
    | some ys, some xs => some ((vq.1 * n + 512 * vq.2, ys) :: xs)
    | _, _ => none) (some [])

/-- A GATHER collective goes as far as it can. -/
def gatherStep (s : State) (p : Pass) (st mask : Nat) (c : Coll) : State :=
  let ms := maskList mask
  let n := stageN s p st
  match ownedRuns s p st ms with
  | none => putColl s c
  | some runs =>
    let s1 := if c.sent then s else sendMembers s ms c.tag runs
    let c1 := { c with ready := true, sent := true }
    let theirs := (collParts s p st).filter fun vq => vq.2 % ms.length != rankIn s ms
    let vals := theirs.map fun vq => (vq, gotRun c (ms.getD (vq.2 % ms.length) 0) (vq.1 * n + 512 * vq.2) (groupLen n vq.2))
    if c.complete then s
    else if vals.all fun x => x.2.isSome
    then completeColl (vals.foldl (fun s x => putOut s p.region st x.1.2 x.1.1 (x.2.getD [])) s1) c1
    else putColl s1 c1

/-- The output of a TRANSIT_OUT stage goes downstream once: the groups that this member owns, over the live ports. -/
def transitOutStep (s : State) (p : Pass) (st mask : Nat) (c : Coll) : State :=
  if c.sent then s
  else match ownedRuns s p st (maskList mask) with
    | none => putColl s c
    | some runs => putColl (sendRuns s ((downPorts s).filter fun n => (portAt s n).admitted) c.tag runs) { c with ready := true, sent := true, complete := true }

/-- The parts of the input that crosses from the stage before: vector and group of 512 channels. -/
def inputParts (s : State) (p : Pass) : List (Nat × Nat) :=
  (List.range p.vecs.length).flatMap fun v => (List.range (ceilDiv (stageK s p 0) 512)).map fun q => (v, q)

/-- A part of the input from the member that owns its group. -/
def inputPart (s : State) (p : Pass) (c : Coll) (vq : Nat × Nat) : Option (List PVal) :=
  let ms := maskList (orbitMask s p.region)
  let k := stageK s p 0
  gotRun c (ms.getD (vq.2 % ms.length) 0) (vq.1 * k + 512 * vq.2) (groupLen k vq.2)

/-- The crossing at the receiver: the member's own groups go on to the others once they are there, and the input is complete with
theirs (R323). -/
def transitInStep (s : State) (p : Pass) (c : Coll) : State :=
  let ms := maskList (orbitMask s p.region)
  let k := stageK s p 0
  let mine := (inputParts s p).filter fun vq => vq.2 % ms.length == rankIn s ms
  let s1 := if !c.sent && mine.all (fun vq => (inputPart s p c vq).isSome)
    then putColl (sendMembers s ms c.tag (mine.map fun vq => (vq.1 * k + 512 * vq.2, (inputPart s p c vq).getD []))) { c with sent := true }
    else putColl s c
  if !c.complete && (inputParts s p).all (fun vq => (inputPart s p c vq).isSome) then completeColl s1 { c with sent := true } else s1

/-- Does a region's input cross from the stage before? -/
def crossesIn (s : State) (r : Nat) : Bool := orbitRegion s r && decide (0 < s.img.bound.orbit.stage)

/-- The input of a vector that crossed, once complete. -/
def crossedInputs (s : State) (p : Pass) : Option (List (List W32)) :=
  let c := collOf s (transitTag p) false
  if c.complete then some ((List.range p.vecs.length).map fun v =>
    ((List.range (ceilDiv (stageK s p 0) 512)).flatMap fun q => (inputPart s p c (v, q)).getD []).map (·.val))
  else none

/-! ### All of a pass -/

/-- The collectives of a region's pass go as far as they can: those of the stages that it has begun, and the crossing of its input. -/
def syncPass (s : State) (r : Nat) : State :=
  match passOf s r with
  | none => s
  | some p =>
    if !orbitRegion s r then s
    else
      let s0 := if crossesIn s r
        then transitInStep s p { collOf s (transitTag p) false with region := r, stage := 0, kind := 4 } else s
      match p.stage with
      | none => s0
      | some cur => (s0.img.bound.orbit.entries.filter fun e => e.1 == r && decide (e.2.2.1 ≤ cur)).foldl (fun s e =>
        let st := e.2.2.1
        let mask := e.2.2.2
        match passOf s r with
        | none => s
        | some p => match e.2.1 with
          | 1 => reduceStep s p st mask { collOf s (collTag s p st) false with region := r, stage := st, kind := 1 }
          | 2 => gatherStep s p st mask { collOf s (collTag s p st) false with region := r, stage := st, kind := 2 }
          | _ => if s.img.bound.orbit.stage + 1 < s.img.bound.orbit.stages
            then transitOutStep s p st mask { collOf s (transitTag p) true with region := r, stage := st } else s) s0

/-- The regions whose passes use a collective. -/
def collRegions (s : State) (tag : Nat) : List Nat :=
  (s.run.live.filter fun p => orbitRegion s p.region && p.passId % 2 ^ 20 == tag / 4096).map (·.region)

/-- A fragment's elements arrive; an element that has arrived stays as it came (R318, R319). -/
def fragArrive (s : State) (tag src off : Nat) (xs : List PVal) : State :=
  let c := collOf s tag false
  let got := xs.zipIdx.foldl (fun t x => smod (fun _ => none) t (elemKey src (off + x.2)) fun
    | none => some x.1
    | some y => some y) c.got
  (collRegions s tag).foldl syncPass (putColl s { c with got := got, kind := if tag % 4096 = 0xFFF then 4 else c.kind })

/-! ### Timeout (R319) -/

/-- The elements that this member needs of a collective: source member and element. -/
def needed (s : State) (p : Pass) (c : Coll) : List (Nat × Nat) :=
  let run := fun (src base len : Nat) => (List.range len).map fun i => (src, base + i)
  match c.kind with
  | 1 =>
    let ms := maskList (orbitMask s p.region)
    let total := p.vecs.length * stageN s p c.stage
    ((childRanks (rankIn s ms) ms.length).filter fun k => !c.taken.elem k).flatMap (fun k => run (ms.getD k 0) 0 total) ++
      (if rankIn s ms = 0 then [] else run (ms.getD 0 0) 0 total)
  | 2 =>
    let ms := maskList (orbitMask s p.region)
    let n := stageN s p c.stage
    ((collParts s p c.stage).filter fun vq => vq.2 % ms.length != rankIn s ms).flatMap fun vq =>
      run (ms.getD (vq.2 % ms.length) 0) (vq.1 * n + 512 * vq.2) (groupLen n vq.2)
  | 4 =>
    let ms := maskList (orbitMask s p.region)
    let k := stageK s p 0
    (inputParts s p).flatMap fun vq => run (ms.getD (vq.2 % ms.length) 0) (vq.1 * k + 512 * vq.2) (groupLen k vq.2)
  | _ => []

/-- The width that divides an element into vector and output. -/
def collWidth (s : State) (p : Pass) (c : Coll) : Nat := if c.kind = 4 then stageK s p 0 else stageN s p c.stage

/-- COLLECTIVE_TIMEOUT (R319, R393): the timer of a collective whose own contribution is ready reaches its limit before the last
element that this member needs: every missing element is poisoned and the collective completes. What bits a poisoned element
holds the manual does not say: a free value (log entry 3). -/
def execCollectiveTimeout (tag : Nat) (s : State) : Out :=
  .next (
    let c := collOf s tag false
    match (collRegions s tag).head?.bind (passOf s) with
    | none => s
    | some p =>
      if c.complete || !(c.ready || c.kind == 4) then s
      else
        let missing := (needed s p c).filter fun x => (gotAt c x.1 x.2).isNone
        if missing.isEmpty then s
        else
          let (r, s0) := freeDraw s
          let got := missing.foldl (fun t x => sset (fun _ => none) t (elemKey x.1 x.2) (some ⟨BitVec.ofNat 32 r, true⟩)) c.got
          let s1 := putColl s0 { c with got := got, timedOut := true
                                        lost := (missing.map fun x => (x.2 / collWidth s p c, x.1)).eraseDups }
          let s2 := fbump s1 Reg.ORB_STATS.TIMEOUTS 1
          let s3 := poisonNoted { region := some p.region } (fsrEmit s2 8 [(11, .one (.uint p.region)), (13, .arr [.nul, .nul, .nul, .nul, .nul, .nul])])
          syncPass s3 p.region)

end Sys2Proof.Machine
end

