-- ==== Sys2Proof/Machine/Trees.lean ====
section
/-!
DEFINITION. Sys2Proof/Machine/Trees.lean: a pass from stage to stage: layers begin (09 R224, R225), shelves exit (04 R77, R80 to
R83), trees add and wide merges run (R84 to R90).
-/
namespace Sys2Proof.Machine

/-! ### Layers (R224, R225, R231, R323) -/

/-- The words of a stage's entry program. -/
def entryProgram (s : State) (r st : Nat) : Bytes :=
  ((s.img.bound.placements.find? fun q => q.kind == 0 && q.region == r && q.stage == st).map (·.words)).getD []

/-- The outputs of the stages before one, for a vector, with their values alone. -/
def earlierOuts (s : State) (p : Pass) (st v : Nat) : List (List W32) := (List.range st).map fun e => (stageOut s p e v).map (·.val)

/-- What a stage's entry program hands over for a vector: K values, a function of what the manual lets it reach (R14, log entry 31). -/
def entryInput (s : State) (p : Pass) (st : Nat) (x : Vec) (v : Nat) : List W32 :=
  let xs := Config.stageEntry (entryProgram s p.region st) (((accOf s p.region).package.map (·.manifest.digest)).getD []) st x.token x.pos (earlierOuts s p st v)
  (List.range (stageK s p st)).map fun i => xs.getD i 0

/-- The inputs of a stage: for an attention layer's OUT_STAGE the attention outputs, complete for every session still in the pass
(R231, R239); for the first stage of a later stage of a transit chain what crossed (R323); for any other stage what its stage
entry hands over. -/
def stageInputs (s : State) (p : Pass) (st : Nat) : Option (List (List W32)) :=
  match outAttn s p.region st with
  | none => if st = 0 && crossesIn s p.region then crossedInputs s p else some (p.vecs.zipIdx.map fun x => if liveVec p x.1 then entryInput s p st x.1 x.2 else [])
  | some a => p.vecs.foldr (fun v acc => match acc with
    | none => none
    | some xs => if liveVec p v then (attnOut p a v).map fun o => o.map (·.val) :: xs else some ([] :: xs)) (some [])

/-- Is the input of a vector to a stage poisoned (R83): an attention output, an element that crossed, or an output of the stage before
it? A poisoned element poisons the whole input, from which the scale and every code are formed (log entry 31). -/
def inputPoisoned (s : State) (p : Pass) (st v : Nat) : Bool :=
  (match outAttn s p.region st, p.vecs[v]? with
    | some a, some x => ((attnOut p a x).getD []).any (·.bad)
    | _, _ => false) ||
  (if st = 0 then crossesIn s p.region && (List.range (ceilDiv (stageK s p 0) 512)).any fun q =>
      ((inputPart s p (collOf s (transitTag p) false) (v, q)).getD []).any (·.bad)
    else (List.range (s.img.bound.groupCount p.region (st - 1))).any fun q => ((outAt p (st - 1) q v).getD []).any (·.bad))

/-- Is the stage that a pass runs complete, so that the next may begin or be held (R224, R225)? -/
def stageOver (s : State) (p : Pass) : Bool := match p.stage with | none => true | some q => stageDone s p q

/-- Does the next stage of a pass open a layer? -/
def opensLayer (p : Pass) (layer : Nat) : Bool := (p.stage.bind (stageLayer p)) != some layer

/-- LAYER_BEGIN (R224): the next stage of a region's pass takes its inputs (one list of channels per vector), once the stage before it is
complete. Where the stage opens a layer, the layer waits for the adapter bytes of every session; a session that is not ready once the budget is
spent is dropped; the bytes of the layer after next are asked for. The outlier sets, scales and quantised vectors of the
stage are fixed, and its scribes have their jobs. Inputs that met an error on their way poison what they give (R83, R393). -/
def execLayerBegin (region : Nat) (bad : List Nat) (s : State) : Out :=
  .next (match passOf s region with
    | none => s
    | some p0 =>
      let st := nextStage p0
      match passRecipe p0 st with
      | none => s
      | some x =>
        let opens := opensLayer p0 x.layer
        let s0 := if opens && stageOver s p0 then dropUnready s region x.layer else s
        match passOf s0 region with
        | none => s0
        | some p =>
          if !stageOver s0 p || (opens && !(notReady s0 p x.layer).isEmpty) then s0
          else match stageInputs s0 p st with
          | none => s0
          | some ins =>
            let run := beginStage s0 p x ins bad
            let s1 := countOutliers (if bad.isEmpty then s0 else poisonOrigin s0 (((homeLeaf s0.img.bound region st 0).map fun l => housedAt s0 region l.2.1).getD 0)) p run
            let fl := (if run.spillSet.isEmpty then 0 else 1) ||| (if run.excessSet.isEmpty then 0 else 2)
            let s2 := modPass s1 region fun p =>
              { p with stage := some st, stages := sset (fun _ => none) p.stages st (some run), flags := p.flags ||| fl
                       attnReady := p.attnReady ++ attnJobs s0 p st }
            let s3 := readySample (readyStage s2 p st) p st
            syncPass (if opens then askLayer s3 p (x.layer + 2) else s3) region)

/-- HOLD_BUDGET_EXHAUSTED (R225): the hold budget of a region's pass runs out while a layer is held, the stage before it being complete: the
sessions that are not ready are dropped. Bytes that arrive first win, since a session that is ready is not dropped. -/
def execHoldBudgetExhausted (region : Nat) (s : State) : Out :=
  .next (match passOf s region with
    | none => s
    | some p => match stageLayer p (nextStage p) with
      | none => s
      | some layer =>
        if (notReady s p layer).isEmpty || p.budgetSpent || !stageOver s p || !opensLayer p layer then s
        else dropUnready (modPass s region fun p => { p with budgetSpent := true, budgetUs := 0 }) region layer)

/-! ### Outputs -/

/-- An output group whose value is complete becomes an output of its stage, with the adapter term added after the last level of
reduction (R82), once its program has ended, columns at or beyond N discarded (R440); where an orbit splits or gathers the stage, its collective goes on. -/
def settleOut (s : State) (r st q v : Nat) : State :=
  match passOf s r with
  | none => s
  | some p => match stageRun p st, groupValue s p st q v with
    | some x, some ys =>
      if orbitReduce s.img.bound r st || !ownsGroup s r st q then syncPass s r
      else if adapterWaits s p st q v then s
      else syncPass (putOut s r st q v ((withAdapter s p x q v ys).take (stageN s p st - 512 * q))) r
    | _, _ => s

/-- What the exit of a chain gives for a vector (R80, R83, R118); `hurt` if something that it consumed was poisoned besides. -/
def exitLeaf (s : State) (p : Pass) (x : StageRun) (shelf c v : Nat) (hurt : Bool) : Leaf :=
  let bad := hurt || exitPoisoned p x.stage shelf || inputPoisoned s p x.stage v || x.bad.elem v
  let l := ledgerOf s shelf c
  let sa := x.scales.getD v 0
  let cols := (List.range 512).map fun j =>
    let total := sget (fun _ => (0 : Int)) l.totals j
    let cj := fmul (exitT s shelf c j) sa
    (total, (⟨fmul (fofInt total) cj, bad⟩ : PVal), (outlierTerm s p x shelf c v j cj).map fun t => (⟨t, bad⟩ : PVal))
  { totals := cols.map (·.1), y := cols.map (·.2.1), term := cols.map (·.2.2) }

/-- The outputs of a stage that waited for an adapter program. -/
def settleStage (s : State) (r st : Nat) : State :=
  match passOf s r with
  | none => s
  | some p => ((List.range p.vecs.length).flatMap fun v => (List.range (s.img.bound.groupCount r st)).map fun q => (v, q)).foldl
      (fun s vq => match passOf s r with
        | some p => if (outAt p st vq.2 vq.1).isNone then settleOut s r st vq.2 vq.1 else s
        | none => s) s

/-- An uncorrectable error in the archive copy poisons the outlier terms that consume it (R394). -/
def spoilTerms (l : Leaf) : Leaf := { l with term := l.term.map fun t => t.map fun o => { o with bad := true } }

/-- The error is a poison origin; from the region's next boundary the copy counts as not resident (R393, R394). -/
def archiveError (s : State) (r shelf : Nat) : State := modAcc (poisonHbm s (hallOf shelf) (some r)) r fun a => { a with archiveBad := true }

/-- The shelf's result fl(y + o) goes into a row of a tile (R93, R94). -/
def exitToTile (s : State) (carrel shelf : Nat) (into : Option ExitTile) (l : Leaf) : State :=
  match into with
  | none => s
  | some e =>
    if 11 < e.tile then s
    else modTile s shelf e.tile fun t => t.writeRow carrel e.row e.add fun k => (leafValue l).getD (64 * e.group + k) ⟨0, false⟩

/-- SHELF_EXIT (R77, R80, R82, R120, R394): a chain's ledger is read out once, after the vector's last term and the shelf's outlier
program, scaled, and the leaf stands.
`w.errs` is what it met with an uncorrectable error: each is a poison origin (R393), an archive copy only where the outlier program reads it here. `w.into`
is a tile that also receives the shelf's result (R93, R94), which carries the pass's carrel as its tag; tiles 12 to 15 no pass work writes (R109). That
the hall sequencer names the tile at the exit is the model's choice (log entry 54). -/
def execShelfExit (shelf c : Nat) (w : ExitWith) (s : State) : Out :=
  .next (match (shelfRegion s shelf).bind (passOf s) with
    | none => s
    | some p => match p.stage.bind (stageRun p) with
      | none => s
      | some x => match passRecipe p x.stage, leafPlace s.img.bound p.region x.stage ((namedShelf s shelf).getD 0) c with
        | some rec, some (q, _) =>
          let l := ledgerOf s shelf c
          if l.started && vectorStruck s p x rec.width shelf c l.vec && !exitWaits s p.region x.stage shelf then
            let hit := w.errs.elem .archive && p.archive && (outTerm s p x shelf c l.vec 0).isSome
            let hurt := w.errs.any (· != .archive)
            let leaf := exitLeaf s p x shelf c l.vec hurt
            let leaf := if hit then spoilTerms leaf else leaf
            let s0 := exitToTile (if hurt then poisonOrigin (if hit then archiveError s p.region shelf else s) shelf
              else if hit then archiveError s p.region shelf else s) p.carrel shelf w.into leaf
            let s1 := modPass s0 p.region fun p => { p with leaves := sset (fun _ => none) p.leaves (leafKey x.stage shelf c l.vec) (some leaf) }
            settleOut (modLedger s1 shelf c fun l => { l with started := false, totals := [] }) p.region x.stage q l.vec
          else s
        | _, _ => s)

/-- The sum of two lists of values, element by element. -/
def paddAll (a b : List PVal) : List PVal := List.zipWith padd a b

/-- A sum joins its tree. -/
def putNode (s : State) (r key : Nat) (ys : List PVal) : State :=
  modPass s r fun p => { p with nodes := sset (fun _ => none) p.nodes key (some ys) }

/-- The two operands of the addition that makes entry i of level l + 1 of a tree: a hall's, or the module's (R84, R86). -/
def addOperands (s : State) (p : Pass) (st q v hall l i : Nat) : Option (List PVal × List PVal) :=
  let both : Option (List PVal) → Option (List PVal) → Option (List PVal × List PVal)
    | some a, some b => some (a, b)
    | _, _ => none
  if hall < 4 then
    if 2 * i + 1 < levelCount (hallLeaves s p.region st q hall).length l
    then both (hallEntry s p st q v hall l (2 * i)) (hallEntry s p st q v hall l (2 * i + 1)) else none
  else if l = 0 then
    if i < 2 && hallPresent s p.region st q (2 * i) && hallPresent s p.region st q (2 * i + 1)
    then both (hallRoot s p st q v (2 * i)) (hallRoot s p st q v (2 * i + 1)) else none
  else if l = 1 && i = 0 then both (pairEntry s p st q v 0) (pairEntry s p st q v 1) else none

/-- REDUCTION_ADD (R84, R86): one addition of a tree, once, when both its operands stand: entry i of level `level` + 1 of a hall's tree
(hall < 4), a pair of halls (hall 4, level 0) or the two pairs (hall 4, level 1). -/
def execReductionAdd (region stage group vec hall level i : Nat) (s : State) : Out :=
  .next (match passOf s region with
    | none => s
    | some p =>
      let key := if hall < 4 then nodeKey stage group vec hall (level + 1) i
        else if level = 0 then nodeKey stage group vec 4 1 i else nodeKey stage group vec 4 2 0
      match addOperands s p stage group vec hall level i with
      | none => s
      | some (a, b) =>
        let top := if hall < 4 then 16 else 2
        if level < top && ((sget (fun _ => none) p.nodes key).isNone) && !wideGroup s p stage group
        then settleOut (putNode s region key (paddAll a b)) region stage group vec else s)

/-- WIDE_MERGE (R89): the totals of an eligible group are added exactly and leave through one exit; the outlier terms are reduced in
FP32 over the leaves that carry one. -/
def wideTerm (s : State) (p : Pass) (st q v j : Nat) : Option PVal :=
  let hall := fun h => tree padd ((hallLeaves s p.region st q h).filterMap fun l => (namedLeaf s p st v l).bind fun x => (x.term.getD j none))
  let two : Option PVal → Option PVal → Option PVal
    | some a, some b => some (padd a b)
    | some a, none => some a
    | none, b => b
  two (two (hall 0) (hall 1)) (two (hall 2) (hall 3))

/-- The merged value of column j. -/
def wideColumn (s : State) (p : Pass) (x : StageRun) (q v j : Nat) (ls : List (Nat × Nat)) : PVal :=
  let leaves := ls.filterMap (namedLeaf s p x.stage v)
  let total := (leaves.map fun l => l.totals.getD j 0).sum
  let bad := leaves.any fun l => l.y.any (·.bad)
  let first := (sortBy ls fun a b => decide (a.1 < b.1 ∨ (a.1 = b.1 ∧ a.2 ≤ b.2))).headD (0, 0)
  let cj := fmul (exitT s (housedAt s p.region first.1) first.2 j) (x.scales.getD v 0)
  let y : PVal := ⟨fmul (fofInt total) cj, bad⟩
  match wideTerm s p x.stage q v j with
  | none => y
  | some o => padd y o

/-- WIDE_MERGE of a group and vector, once every leaf has left its shelf. -/
def execWideMerge (region stage group vec : Nat) (s : State) : Out :=
  .next (match passOf s region with
    | none => s
    | some p => match stageRun p stage with
      | none => s
      | some x =>
        let ls := (s.img.bound.groupLeaves region stage group).map fun l => (l.2.1, l.2.2)
        if wideGroup s p stage group && !ls.isEmpty && ls.all (fun l => (namedLeaf s p stage vec l).isSome) &&
            (nodeAt p stage group vec 5 0 0).isNone
        then settleOut (putNode s region (nodeKey stage group vec 5 0 0) ((List.range 512).map fun j => wideColumn s p x group vec j ls))
          region stage group vec
        else s)

end Sys2Proof.Machine
end

