-- ==== Sys2Proof/Machine/Launch.lean ====
section
/-!
DEFINITION. Sys2Proof/Machine/Launch.lean: how a pass begins (01 R16, R17; 03 R48; 11 R254, R255, R260, R263; 12 R277; 14 R313): its
epoch and number, its pages, what it holds fixed.
-/
namespace Sys2Proof.Machine

/-- The stream of a pass that a DISPATCH began on this member. -/
def orbitStream : Nat := 2048

/-- The recipes in force of a region. -/
def regionRecipes (s : State) (r : Nat) : List Recipe :=
  (s.img.bound.recipes.filter fun x => x.region == r).map fun x => (recipeOf s r x.stage).getD x

/-- The hold budget of a pass that begins now, in µs (R225, R228). -/
def holdBudget (s : State) : Nat := fget s Reg.ADP_LATE_LIMIT.LIMIT_US

/-- A hint whose tag a pass of its region runs, in its window (R337). -/
def hitHint (s : State) (r : Nat) (h : Hint) : Hint :=
  if h.opened && h.region == r && (regionRecipes s r).any (fun x => s.img.bound.tagOf r x.stage == h.tag) then { h with hit := true } else h

/-- A pass begins (R16, R48, R254): it takes the next module epoch and holds fixed the windows, the recipes and whether the
archive copy is resident; the adapter bytes of its first two layers are asked for (R224). -/
def openPass (s : State) (r stream cmd number passId : Nat) (hs : List Nat) (vecs : List Vec) : State :=
  let epoch := (s.clk.epoch + 1) % 2 ^ 48
  let window := if (accOf s r).window.isEmpty then (List.range 4).map (windowNow s) else (accOf s r).window
  let floor := if (accOf s r).floor.isEmpty then (List.range 4).map (floorNow s) else (accOf s r).floor
  let p : Pass :=
    { region := r, stream := stream, cmd := cmd, carrel := (hs.head?.map handleCarrel).getD stream, number := number, passId := passId, epoch := epoch, sessions := hs, vecs := vecs
      window := window, floor := floor, budgetUs := holdBudget s, recipes := regionRecipes s r, archive := (accOf s r).archive, stage := none
      stages := [], leaves := [], nodes := [], outs := [], attnReady := [], appended := [], parts := [], attn := [], faults := []
      drawn := [], flags := 0, late := [], poisoned := [], budgetSpent := false, norms := [], marks := [], formats := [] }
  let s1 := { s with
    clk := { s.clk with epoch := epoch }
    run := { s.run with live := s.run.live ++ [p] }
    acc := smod (fun _ => freshAcc) s.acc r fun a => { a with window := window, floor := floor } }
  let s2 := hs.foldl (fun s h => modSession s h fun x => { x with lastEpoch := epoch }) s1
  let s3 := { s2 with
    con := { s2.con with carrelPasses := s2.con.carrelPasses ++ [(r, p.carrel, epoch, number, hs)] }
    pwr := { s2.pwr with hints := s2.pwr.hints.map (hitHint s r) } }
  askLayer (askLayer (useLoans s3 p) p 0) p 1

/-- The next pass number of a carrel (R17, R403): it is used while it lies below the reserved limit L; when it reaches L − 2^19 the
limit is moved on by 2^20 from it. CAR.PASS shows it. -/
def takeNumber (s : State) (c : Nat) : Nat × State :=
  let n := (carrelSt s c).nextPass
  (n, fset (modCarrel s c fun x => { x with nextPass := n + 1, limit := if x.limit ≤ n + 2 ^ 19 then n + 2 ^ 20 else x.limit })
    (Reg.CAR_PASS.PASS c) n)

/-- The handles of a command that its next pass would take: those without an entry in a STEP. -/
def passHandles (k : Cmd) : List Nat :=
  if k.op = 0x04 then (namedSessions 0x04 k.body).zipIdx.filterMap fun h => if k.entries.any (fun e => e.idx == h.2) then none else some h.1
  else namedSessions k.op k.body

/-- Why a session cannot join the next pass of a command before any pages are asked for: it is dead, or its context would pass
131,072 tokens (R234, R259). -/
def joinStatus (s : State) (k : Cmd) (h : Nat) : Option Nat :=
  match findSession s h with
  | none => some stFormat
  | some x => match x.dead with
    | some d => some d
    | none =>
      if x.region != (if k.op = 0x04 then rd k.body 0 1 else x.region) then some stFormat
      else if offline s x.region then some stOffline
      else if 131072 < x.length + appendCount k then some stNoSpace
      else none

/-- Sessions that may not join take their entries. -/
def refuseUnfit (s : State) (c seq : Nat) (hs : List Nat) : State :=
  hs.foldl (fun s h => match findCmd s c seq with
    | none => s
    | some k => if k.phase != .begun then s else match joinStatus s k h with
      | some st => refuseSession s k h st
      | none => s) s

/-- Pages for every session in the command's order (R255): a session whose hall has no room pre-empts others, for which the pass
waits (R260, R261), or takes NO_SPACE (R264); orbit sessions too pre-empt others, never the reverse. The answer says whether
the pass waits. -/
def growAll (s : State) (c seq : Nat) : List Nat → State × Bool
  | [] => (s, false)
  | h :: hs => match findCmd s c seq with
    | none => (s, true)
    | some k => match growSession s h (appendCount k) with
      | some s1 => growAll s1 c seq hs
      | none => match selectVictims s h k.skip fun g => (growSession g h (appendCount k)).isSome with
        | some (s1, vs) => (vs.foldl (fun s v => startSwapOut s v c seq false) s1, true)
        | none => growAll (refuseSession s k h stNoSpace) c seq hs

/-- The vectors that a session brings to the next pass of a command (R277): its tokens at the positions from its stored length
on; the last one draws. -/
def newVecs (s : State) (k : Cmd) (h : Nat) : List Vec :=
  match findSession s h with
  | none => []
  | some x =>
    let n := appendCount k
    let cls := (carrelNow s (handleCarrel h)).classN
    (List.range n).map fun i =>
      { session := h, pos := x.length + i, classN := cls, draws := decide (i + 1 = n)
        token := if k.op = 0x03 && k.entries.isEmpty then rd k.fetched (4 * i) 4 else x.lastToken.getD 0 }

/-- The pass of a command begins with the sessions that are left (R17, R254); the members of an orbit region begin their shares with
the DISPATCH (R313). The PASS_ID is the primary's module epoch of the pass (log entry 42). -/
def launch (s : State) (k : Cmd) (r : Nat) (hs : List Nat) : State :=
  let (n, s1) := takeNumber s k.stream
  let id := (s1.clk.epoch + 1) % 2 ^ 48
  let vecs := hs.flatMap (newVecs s1 k)
  let s2 := openPass s1 r k.stream k.seq n id hs vecs
  let s3 := modCmd s2 k.stream k.seq fun k => { k with passesLeft := k.passesLeft - 1, pass := n, skip := [] }
  if !orbitRegion s r then s3
  else
    let x : OrbPass :=
      { passId := id, region := r, kind := if k.op = 0x03 then 0 else 1, carrel := k.stream, cls := bitOf (carrelNow s k.stream).classN
        count := hs.length, sessions := hs, tokens := hs.map fun _ => appendCount k, epoch := id, doneBy := [], bad := [], results := []
        resulted := false }
    let s4 := { s3 with orb := { s3.orb with passes := s3.orb.passes ++ [x] } }
    sendDispatch s4 r x.kind k.stream x.cls id hs

/-- The region of a TOKENS or STEP. -/
def cmdRegion (s : State) (k : Cmd) : Nat := (namedRegions s k).headD 0

/-- Is a session of the command away, on its way out or back? -/
def anyMoving (s : State) (hs : List Nat) : Bool :=
  hs.any fun h => match findSession s h with | some x => x.res != .resident | none => false

end Sys2Proof.Machine
end

