-- ==== Sys2Proof/Machine/Orbit.lean ====
section
/-!
DEFINITION. Sys2Proof/Machine/Orbit.lean: orbits and transit chains (14: R310 to R324): admission, dispatch, results, quorum,
power messages between members, the loss of a partner.
-/
namespace Sys2Proof.Machine

/-! ### Messages -/

/-- The first flit of a channel that has been accepted. -/
def frontFlit (s : State) (n vc : Nat) : Option Flit := (portAt s n).inbox.find? fun f => f.vc == vc

/-- That flit leaves its buffer, which is freed (R297). -/
def popFlit (s : State) (n vc : Nat) : State :=
  match frontFlit s n vc with
  | none => s
  | some f => modPort s n fun p =>
    { p with inbox := p.inbox.erase f, freed := modNth (fun x => (x + 1) % 65536) p.freed vc }

/-- The first message of a port, if it is of this type (and, where OP is given, of this operation), is taken: `f` gets its source
member and its body. -/
def onMsg (s : State) (n typ : Nat) (op : Option Nat) (f : State → Nat → Bytes → State) : Out :=
  .next (match frontFlit s n 0 with
    | none => s
    | some x =>
      let body := slice x.payload 16 (rd x.payload 8 2)
      if rd x.payload 0 1 = typ && (match op with | none => true | some o => rd body 0 1 == o)
      then f (popFlit s n 0) (rd x.payload 2 1) body else s)

/-! ### The orbit's state (R325) -/

/-- ORB.STATUS.STATE: 0 STANDALONE, 1 JOINING, 2 MOON, 3 PRIMARY, 4 ISOLATED. -/
def orbState (s : State) : Nat := fget s Reg.ORB_STATUS.STATE
def setOrbState (s : State) (x : Nat) : State := fset s Reg.ORB_STATUS.STATE x

/-- This module's member index, and its bit. -/
def self (s : State) : Nat := s.img.bound.orbit.member
def selfBit (s : State) : Nat := 2 ^ self s

/-- The masks of ORB.STATUS. -/
def admittedMask (s : State) : Nat := fget s Reg.ORB_STATUS.ADMITTED_MASK
def liveMask (s : State) : Nat := fget s Reg.ORB_STATUS.LIVE_MASK

/-- The orbit regions of the bound image. -/
def orbitRegions (s : State) : List Nat := (s.img.bound.orbit.entries.map (·.1)).eraseDups

/-- A transit link towards the next or from the last stage that is admitted. -/
def linked (s : State) (ports : List Nat) : Bool := ports.any fun n => (portAt s n).admitted

/-- Is every member of a region's mask admitted, and the region's transit links with them (R322, R324)? -/
def regionWhole (s : State) (r : Nat) : Bool :=
  let o := s.img.bound.orbit
  (orbitMask s r &&& admittedMask s) == orbitMask s r &&
    (!(o.entries.any fun e => e.1 == r && e.2.1 == 3) || decide (o.stages ≤ o.stage + 1) || linked s (downPorts s)) &&
    (o.stage == 0 || linked s (upPorts s))

/-- Orbit regions are online exactly while they are whole (R322). -/
def refreshOnline (s : State) : State :=
  { s with orb := { s.orb with offline := (orbitRegions s).filter fun r => !regionWhole s r } }

/-- The sessions of orbit regions that satisfy `p` die (Table 14-4). -/
def orbitDeaths (s : State) (p : Nat → Bool) : State :=
  (s.kv.sessions.filter fun x => orbitRegion s x.region && p x.region).foldl (fun s x => killSession s x.handle stPeerLost) s

/-- HEIR of ORB.STATUS: it is valid while a heir is named and admitted. -/
def setHeir (s : State) (h : Option Nat) : State :=
  let s1 := { s with orb := { s.orb with heirNamed := h } }
  match h with
  | some x => fset (fset s1 Reg.ORB_STATUS.HEIR x) Reg.ORB_STATUS.HEIR_VALID (bitOf ((admittedMask s).testBit x))
  | none => fset s1 Reg.ORB_STATUS.HEIR_VALID 0

/-- The masks change, and with them the heir's validity and the regions that are online. -/
def setAdmitted (s : State) (m : Nat) : State :=
  let s1 := fset s Reg.ORB_STATUS.ADMITTED_MASK m
  refreshOnline (setHeir s1 s1.orb.heirNamed)

/-- The module enters ISOLATED: it serves its local regions only (R322). -/
def isolate (s : State) : State :=
  let s1 := (List.range 24).foldl (fun s n => modPort s n fun p => { p with admitted := false }) s
  let s2 := fset (setOrbState s1 4) Reg.ORB_STATUS.LIVE_MASK (selfBit s)
  let s3 := { s2 with orb := { s2.orb with confirming := false, waitingTakeover := false, leaving := false, limit := none, paced := [], limited := [] } }
  orbitDeaths (setAdmitted (setHeir s3 none) (selfBit s)) fun _ => true

/-! ### Admission (R312, R322) -/

/-- JOIN goes to the partner of a port. -/
def sendJoin (s : State) (n : Nat) : State :=
  let o := s.img.bound.orbit
  sendMsg s n 1 ([1] ++ leBytes 1 o.member ++ leBytes 1 o.members ++ leBytes 1 o.stage ++ [0] ++ leBytes 8 o.orbitId ++ leBytes 8 o.chainId ++
    o.entryDigest)

/-- The link of a port carries transactions from now on. -/
def admitPort (s : State) (n : Nat) : State :=
  let s1 := modPort s n fun p => { p with admitted := true, refused := 0 }
  let s2 := match meshRole s n, portMember s n with
    | some _, some m => fset s1 Reg.ORB_STATUS.LIVE_MASK (liveMask s1 ||| 2 ^ m)
    | _, _ => s1
  pump n (portAt s2 n).waiting.length s2

/-- Between two moons a link is admitted when both are members (log entry 43). -/
def admitMoons (s : State) : State :=
  (meshPorts s).foldl (fun s n => match portMember s n with
    | some m => if (admittedMask s).testBit m && !(portAt s n).admitted && orbState s == 2 then admitPort s n else s
    | none => s) s

/-- A link has become ACTIVE: the module seeks admission over it (R312). -/
def seekAdmission (s : State) (n : Nat) : State :=
  if orbState s = 0 || orbState s = 4 || fget s Reg.ORB_CTRL.JOIN = 0 then s
  else if (meshRole s n).isSome || (decide (16 ≤ n) && decide (n < 20)) then
    let s1 := admitMoons s
    if (portAt s1 n).admitted then s1 else sendJoin s1 n
  else s

/-- ADMIT to a member. -/
def sendAdmit (s : State) (n : Nat) : State :=
  let heir := match s.orb.heirNamed with | some h => h | none => 0xFF
  sendMsg s n 1 ([2] ++ leBytes 1 heir ++ [0, 0] ++ leBytes 2 (admittedMask s) ++ List.replicate 6 0 ++ leBytes 6 s.clk.epoch)

/-- REFUSE with a reason; a refusal is recorded with it, in bits [15:8] of the event (R312, log entry 43). -/
def refuseRecord (s : State) (n reason : Nat) : State :=
  if reason = 5 then s
  else annal s 0x0700 2 { die := some (n / 6) } n (4 + reason * 256) (fget s (Reg.TSX_PARTNER.MODULE_ID n))

/-- Why a JOIN over a port is refused, none if it is admitted (R312): 1 ORBIT, 2 WIRING, 3 ENTRIES, 4 CHAIN, 5 ROLE. -/
def joinRefusal (s : State) (n : Nat) (b : Bytes) : Option Nat :=
  let o := s.img.bound.orbit
  let wired := portMember s n == some (rd b 1 1)
  if fget s Reg.ORB_CTRL.JOIN = 0 || orbState s = 4 then some 5
  else if (meshRole s n).isSome then
    if orbState s ≠ 3 then some 5
    else if rd b 5 8 ≠ o.orbitId || rd b 2 1 ≠ o.members then some 1
    else if !wired then some 2
    else if slice b 21 32 ≠ o.entryDigest then some 3
    else none
  else if 20 ≤ n then
    if rd b 13 8 ≠ o.chainId || rd b 2 1 ≠ o.members || rd b 3 1 ≠ o.stage + 1 then some 4
    else if !wired then some 2
    else none
  else some 5

/-- JOIN received: the primary, or on a transit link the upstream member, admits or refuses (R312). Every member admitted so far
learns the new mask (log entry 43). -/
def execJoinMsg (port : Nat) (s : State) : Out :=
  onMsg s port 1 (some 1) fun s _ b =>
    match joinRefusal s port b with
    | some reason => sendMsg (refuseRecord s port reason) port 1 ([3] ++ leBytes 1 reason)
    | none =>
      if (meshRole s port).isSome then
        let s1 := admitPort s port
        let s2 := setAdmitted (setHeir s1 s.img.bound.heir) (admittedMask s1 ||| 2 ^ (rd b 1 1) ||| selfBit s)
        ((meshPorts s2).filter fun n => (portAt s2 n).admitted).foldl sendAdmit { s2 with orb := { s2.orb with lost := s2.orb.lost.filter (· != rd b 1 1) } }
      else refreshOnline (sendAdmit (admitPort s port) port)

/-- HEIR_MISMATCH: this module's image names another heir than the primary's, which is recorded (R312, R325). -/
def compareHeir (s : State) (h n : Nat) : State :=
  let other := match s.img.bound.heir with | some x => x != h | none => false
  let s1 := fset s Reg.ORB_STATUS.HEIR_MISMATCH (bitOf other)
  if other then annal s1 0x0700 2 { die := some (n / 6) } n (4 + 6 * 256) h else s1

/-- A HEIR change takes effect at commit (R40): a primary names the new heir; a moon goes on following its primary's and compares anew. -/
def rebindHeir (s : State) : State :=
  if orbState s = 3 then setHeir s s.img.bound.heir
  else if orbState s = 2 then compareHeir s (s.orb.heirNamed.getD 0xFF) (memberPort s (fget s Reg.ORB_STATUS.PRIMARY))
  else s

/-- The heir that the primary names; a moon whose own image names another follows it and says so (R312). -/
def takeHeir (s : State) (h : Nat) (n : Nat) : State :=
  compareHeir (setHeir s (if h = 0xFF then none else some h)) h n

/-- ADMIT received (R312): the link is admitted; over the mesh it names the primary, the heir and the members. Of two modules that
claim the primary role the one with the lower index stays. -/
def execAdmitMsg (port : Nat) (s : State) : Out :=
  onMsg s port 1 (some 2) fun s src b =>
    if orbState s = 0 || orbState s = 4 || s.orb.ignored.elem src then s
    else if (meshRole s port).isSome then
      if orbState s = 3 then (if src < self s then isolate s else s)
      else
        let s1 := setOrbState (fset s Reg.ORB_STATUS.PRIMARY src) 2
        let s2 := admitPort (takeHeir (setAdmitted s1 (rd b 4 2)) (rd b 1 1) port) port
        refreshOnline (admitMoons (setAdmitted s2 (rd b 4 2)))
    else refreshOnline (admitPort s port)

/-- REFUSE received (R312): the port keeps its link without transactions; the reason is recorded. -/
def execRefuseMsg (port : Nat) (s : State) : Out :=
  onMsg s port 1 (some 3) fun s _ b => refuseRecord (modPort s port fun p => { p with refused := rd b 1 1 }) port (rd b 1 1)

/-- ORBIT_REJOIN (R322, R325): 1 written to ORB.CTRL.JOIN permits admission; an ISOLATED member seeks it again. -/
def execOrbitRejoin (s : State) : Out :=
  .next (if unpowered s then s
    else
      let s1 := fset s Reg.ORB_CTRL.JOIN 1
      let s2 := if orbState s = 4 then { setOrbState s1 1 with orb := { s1.orb with ignored := [], lost := [] } } else s1
      (meshPorts s2 ++ upPorts s2).foldl (fun s n => if (portAt s n).admitted then s else seekAdmission s n) s2)

/-! ### Shares of a pass (R313, R314, R324) -/

/-- The module with a pass of the orbit changed. -/
def modOrb (s : State) (id r : Nat) (f : OrbPass → OrbPass) : State :=
  { s with orb := { s.orb with passes := modFirst (fun x => x.passId == id && x.region == r) f s.orb.passes } }

/-- The pass of the orbit with a PASS_ID. -/
def orbPass (s : State) (id : Nat) : Option OrbPass := s.orb.passes.find? fun x => x.passId == id

/-- Does the head's draw of an orbit region run here: on the last stage's primary (R314)? -/
def drawsHere (s : State) : Bool := orbState s == 3 && decide (s.img.bound.orbit.stages ≤ s.img.bound.orbit.stage + 1)

/-- Pages for the sessions of a share, in order; the positions of those that get none or are not here, with their status. -/
def growShare (s : State) (hs : List (Nat × Nat)) : State × List (Nat × Nat) :=
  hs.zipIdx.foldl (fun (acc : State × List (Nat × Nat)) h =>
    match findSession acc.1 h.1.1 with
    | none => (acc.1, acc.2 ++ [(h.2, stFormat)])
    | some x => match x.dead with
      | some d => (acc.1, acc.2 ++ [(h.2, d)])
      | none => match growSession acc.1 h.1.1 h.1.2 with
        | some s1 => (s1, acc.2)
        | none => (acc.1, acc.2 ++ [(h.2, stNoSpace)])) (s, [])

/-- The vectors of a share: as many for each session as it brings tokens; a member does not know the tokens themselves, whose
inputs the hall sequencer hands to the first stage. -/
def shareVecs (s : State) (x : OrbPass) : List Vec :=
  (x.sessions.zip x.tokens).flatMap fun h =>
    let n := ((findSession s h.1).map (·.length)).getD 0
    (List.range h.2).map fun i => { session := h.1, pos := n + i, token := 0, classN := x.cls == 1, draws := drawsHere s && decide (i + 1 = h.2) }

/-- A share begins (R313, R324): recipe changes that came before it are in force (R313), pages are allocated, and the pass runs; a
session that could not join keeps its places, which carry poison, and is reported in DONE. -/
def beginShare (s : State) (x : OrbPass) : State :=
  let mine := s.img.nextRecipes.filter fun y => y.region == x.region
  let s0 := { s with img := { s.img with recipes := putRecipes s.img.recipes mine, nextRecipes := s.img.nextRecipes.filter fun y => y.region != x.region } }
  let (s1, bad) := growShare s0 (x.sessions.zip x.tokens)
  let s2 := openPass s1 x.region orbitStream x.passId x.passId x.passId x.sessions (shareVecs s1 x)
  let s3 := modPass s2 x.region fun p => { p with late := bad.filterMap fun b => x.sessions[b.1]? }
  modOrb s3 x.passId x.region fun y => { y with epoch := s3.clk.epoch, bad := y.bad ++ bad }

/-- The next share of a region that waits, once no pass of it is in flight, its session list is whole and no bind
holds the region (R34). -/
def nextShare (s : State) (r : Nat) : State :=
  if (passOf s r).isSome || s.orb.waitingTakeover || bindHolds s r then s
  else match s.orb.passes.find? fun x => x.region == r && x.epoch == 0 && decide (x.count ≤ x.sessions.length) with
    | some x => beginShare s x
    | none => s

/-- The shares that a bind held begin when it ends (R34). -/
def releaseShares (s : State) : State := (orbitRegions s).foldl nextShare s

/-- Sessions, recipes and passes that a DISPATCH names; a session that would pass the module's 65,536 (R15) is not opened here. `tokens` are how many each session brings. -/
def takeDispatch (s : State) (tokens : List Nat) (b : Bytes) : State :=
  let r := rd b 1 1
  let kind := rd b 2 1
  let ws := (List.range ((b.length - 17) / 4)).map fun i => rd b (17 + 4 * i) 4
  let id := rd b 7 6
  match kind with
  | 2 => { s with img := { s.img with nextRecipes := putRecipes s.img.nextRecipes ((entries 32 (ws.flatMap (leBytes 4))).map parseRecipe) } }
  | 3 =>
    let h := ws.headD 0
    if (findSession s h).isSome || 65536 ≤ s.kv.sessions.length then s
    else { s with kv := { s.kv with sessions := s.kv.sessions ++ [newSession h ((ws.drop 1).flatMap (leBytes 4))] } }
  | 4 => closeSession s (ws.headD 0)
  | _ =>
    let toks := if kind = 0 then ws.zipIdx.map fun w => tokens.getD w.2 1 else ws.map fun _ => 1
    let s1 := match s.orb.passes.find? fun x => x.passId == id && x.region == r with
      | some _ => modOrb s id r fun x => { x with sessions := x.sessions ++ ws, tokens := x.tokens ++ toks }
      | none => { s with orb := { s.orb with passes := s.orb.passes ++
          [{ passId := id, region := r, kind := kind, carrel := rd b 3 2, cls := rd b 5 1, count := rd b 13 2, sessions := ws, tokens := toks
             epoch := 0, doneBy := [], bad := [], results := [], resulted := false }] } }
    nextShare s1 r

/-- DISPATCH received (R313, R323): from the primary, the member takes its share; from the stage before, this stage's primary relays
it to its members and onward. -/
def execDispatchMsg (port : Nat) (tokens : List Nat) (s : State) : Out :=
  onMsg s port 1 (some 4) fun s src b =>
    let up := decide (16 ≤ port) && decide (port < 20)
    if orbState s = 2 && src = fget s Reg.ORB_STATUS.PRIMARY && (meshRole s port).isSome then takeDispatch s tokens b
    else if orbState s = 3 && up then
      takeDispatch ((dispatchPorts s (rd b 1 1)).foldl (fun s n => sendMsg s n 1 b) s) tokens b
    else s

/-- DONE received (R312 to R314): failed positions of a block, and with LAST that member is done; a session that a member reports
dead dies here with it. -/
def execDoneMsg (port : Nat) (s : State) : Out :=
  onMsg s port 1 (some 5) fun s src b =>
    let who := if 20 ≤ port then 16 else src
    match orbPass s (rd b 1 6) with
    | none => s
    | some x =>
      if orbState s ≠ 3 || x.doneBy.elem who then s
      else
        let st := rd b 7 1
        let bad := ((List.range 64).filter fun i => (rd b 17 8).testBit i).map fun i => (64 * rd b 9 2 + i, st)
        let dies := st == stPoisoned || st == stPeerLost || st == stTimeout
        let s1 := if dies then (bad.filterMap fun e => x.sessions[e.1]?).foldl (fun s h => killSession s h st) s else s
        modOrb s1 x.passId x.region fun x =>
          { x with bad := x.bad ++ bad, doneBy := if rd b 11 1 = 1 then x.doneBy ++ [who] else x.doneBy }

/-- A message goes one hop upstream. -/
def sendUp (s : State) (body : Bytes) : State :=
  match (upPorts s).filter fun n => (portAt s n).admitted with
  | n :: _ => sendMsg s n 1 body
  | [] => s

/-- RESULT received (R313): relayed upstream, or at the primary of stage 0 kept for the pass. -/
def execResultMsg (port : Nat) (s : State) : Out :=
  onMsg s port 1 (some 6) fun s _ b =>
    if s.img.bound.orbit.stage ≠ 0 then sendUp s b
    else match orbPass s (rd b 1 6) with
      | none => s
      | some x => modOrb s x.passId x.region fun x =>
        let rs := x.results ++ entries 16 (b.drop 9)
        { x with results := rs, resulted := decide (x.count ≤ rs.length) }

/-- DONE goes back: to the primary of this stage, or from a stage's primary to the stage before (R313, R323). `bad` are failed
positions with their status; each block of 64 positions is one message, which carries the status of its first failure. -/
def sendDone (s : State) (x : OrbPass) : State :=
  let last := ceilDiv x.count 64 - 1
  (List.range (last + 1)).foldl (fun s blk =>
    let mine := x.bad.filter fun e => e.1 / 64 == blk
    let mask := ((mine.map fun e => e.1 % 64).eraseDups.map fun i => 2 ^ i).sum
    let body := [5] ++ leBytes 6 x.passId ++ leBytes 1 ((mine.head?.map (·.2)).getD stOk) ++ [0] ++ leBytes 2 blk ++ leBytes 1 (bitOf (blk == last)) ++
      List.replicate 5 0 ++ leBytes 8 mask
    if orbState s = 3 then sendUp s body else sendMsg s (memberPort s (fget s Reg.ORB_STATUS.PRIMARY)) 1 body) s

/-- RESULT goes upstream, 12 entries a message. -/
def sendResults (s : State) (id : Nat) (es : List Bytes) : State :=
  (pieces 12 (es.length / 12 + 1) es).foldl (fun s xs => sendUp s ([6] ++ leBytes 6 id ++ [0, 0] ++ xs.flatten)) s

/-! ### Losing a partner (R321, R322) -/

/-- A message of the primary to the members in a mask other than itself. -/
def toMembers (s : State) (mask : Nat) (body : Bytes) : State :=
  ((maskList mask).filter (· != self s)).foldl (fun s m => sendMsg s (memberPort s m) 1 body) s

/-- A member leaves the orbit's masks: its regions' sessions die and its regions go offline; a heir's role becomes vacant. -/
def dropMember (s : State) (m mask : Nat) : State :=
  let s1 := fbump (if s.orb.heirNamed = some m then setHeir s none else s) Reg.ORB_STATS.REMOVALS 1
  let s2 := fset s1 Reg.ORB_STATUS.LIVE_MASK (liveMask s1 &&& (0xFFFF - 2 ^ m))
  orbitDeaths (setAdmitted s2 mask) fun r => (orbitMask s r).testBit m

/-- The primary loses a member: REMOVE while it reaches at least half of the admitted members, itself counted; else ISOLATED. -/
def primaryLoses (s : State) (m : Nat) : State :=
  let before := admittedMask s
  let reach := liveMask s &&& before &&& (0xFFFF - 2 ^ m)
  if !before.testBit m then s
  else if popcount 16 before ≤ 2 * popcount 16 reach then
    let mask := before &&& (0xFFFF - 2 ^ m)
    toMembers (dropMember s m mask) mask ([7] ++ leBytes 1 m ++ [0] ++ leBytes 2 mask)
  else isolate (toMembers s reach ([7] ++ leBytes 1 (self s) ++ [0] ++ leBytes 2 (selfBit s)))

/-- A moon loses the primary: every orbit session dies; the heir begins to confirm, the others wait for its TAKEOVER. -/
def moonLosesPrimary (s : State) : State :=
  let s1 := orbitDeaths s fun _ => true
  if fget s Reg.ORB_STATUS.HEIR_VALID = 1 && fget s Reg.ORB_STATUS.HEIR = self s
  then { s1 with orb := { s1.orb with confirming := true } }
  else { s1 with orb := { s1.orb with waitingTakeover := true } }

/-- A member is lost over this module's own link. -/
def memberLost (s : State) (m : Nat) : State :=
  let s1 := fset s Reg.ORB_STATUS.LIVE_MASK (liveMask s &&& (0xFFFF - 2 ^ m))
  let s2 := { s1 with orb := { s1.orb with lost := if s1.orb.lost.elem m then s1.orb.lost else s1.orb.lost ++ [m] } }
  if orbState s = 3 then primaryLoses s2 m
  else if orbState s = 2 && fget s Reg.ORB_STATUS.PRIMARY = m then moonLosesPrimary s2
  else s2

/-- The loss of a port's partner comes to the orbit layer (R304, R321, R324): over the mesh a member is lost; the last transit port
between two members takes the sessions whose activations were crossing, and the region goes offline. -/
def portLost (s : State) (n : Nat) : State :=
  if orbState s = 0 then s
  else match meshRole s n, portMember s n with
    | some _, some m => refreshOnline (memberLost s m)
    | _, _ =>
      let s1 := refreshOnline s
      let cut := s1.orb.offline.filter fun r => !s.orb.offline.elem r
      (s1.run.live.filter fun p => cut.elem p.region).foldl (fun s p => p.sessions.foldl (fun s h => killSession s h stPeerLost) s) s1

/-- A FAULT PORT_LOST from member `src` over its port `p` (R320, R321): it names the member that the port leads to. -/
def lossReported (s : State) (src p : Nat) : State :=
  let m := (src + p + 1) % 16
  if orbState s = 2 && m = fget s Reg.ORB_STATUS.PRIMARY && !s.orb.primaryLostBy.elem src
  then { s with orb := { s.orb with primaryLostBy := s.orb.primaryLostBy ++ [src] } } else s

/-- HEIR_CONFIRM_TIMEOUT (R321): the heir counts itself and every member that reaches it and reports the primary lost; with a strict
majority of the admitted members it becomes primary. -/
def execHeirConfirmTimeout (s : State) : Out :=
  .next (if !s.orb.confirming then s
    else
      let old := fget s Reg.ORB_STATUS.PRIMARY
      let before := admittedMask s
      let with_ := (s.orb.primaryLostBy.filter fun m => m != self s && (liveMask s).testBit m && before.testBit m).length + 1
      let s0 := { s with orb := { s.orb with confirming := false, primaryLostBy := [] } }
      if popcount 16 before < 2 * with_ then
        let mask := before &&& (0xFFFF - 2 ^ old)
        let s1 := fset (setOrbState s0 3) Reg.ORB_STATUS.PRIMARY (self s)
        let s2 := setHeir (dropMember s1 old mask) s.img.bound.heir
        toMembers (refreshOnline s2) mask ([8] ++ leBytes 1 old ++ leBytes 1 (self s) ++ leBytes 2 mask)
      else isolate s0)

/-- TAKEOVER_WAIT_TIMEOUT (R321): no TAKEOVER came within 4 × CONFIRM_US. -/
def execTakeoverWaitTimeout (s : State) : Out := .next (if s.orb.waitingTakeover then isolate s else s)

/-- A side has been followed: its opponent's messages are ignored from now on, and the module enters ISOLATED if that side's quorum
fails (R322). -/
def follow (s : State) (rival : Nat) (quorum : Bool) : State :=
  let s1 := { s with orb := { s.orb with ignored := s.orb.ignored ++ [rival] } }
  if quorum then s1 else isolate s1

/-- REMOVE received (R321, R322). -/
def execRemoveMsg (port : Nat) (s : State) : Out :=
  onMsg s port 1 (some 7) fun s src b =>
    let m := rd b 1 1
    let mask := rd b 3 2
    if orbState s ≠ 2 || src ≠ fget s Reg.ORB_STATUS.PRIMARY || s.orb.ignored.elem src then s
    else if m = self s then isolate s
    else if m = src then moonLosesPrimary s
    else
      let before := admittedMask s
      let heir := s.orb.heirNamed == some m
      let s1 := dropMember s m mask
      if heir then follow s1 m (decide (popcount 16 before ≤ 2 * popcount 16 mask)) else s1

/-- TAKEOVER received (R321, R322): the heir is the new primary; of two primaries the one with the lower index stays (R312). -/
def execTakeoverMsg (port : Nat) (s : State) : Out :=
  onMsg s port 1 (some 8) fun s src b =>
    let old := rd b 1 1
    let new := rd b 2 1
    let mask := rd b 3 2
    if s.orb.ignored.elem src || src ≠ new then s
    else if orbState s = 3 then (if new < self s then isolate s else s)
    else if orbState s ≠ 2 || old ≠ fget s Reg.ORB_STATUS.PRIMARY then s
    else
      let before := admittedMask s
      let s1 := fset s Reg.ORB_STATUS.PRIMARY new
      let s2 := orbitDeaths { s1 with orb := { s1.orb with waitingTakeover := false, primaryLostBy := [] } } fun _ => true
      let s3 := setHeir (dropMember s2 old mask) none
      let s4 := follow s3 old (decide (popcount 16 before < 2 * popcount 16 mask))
      (orbitRegions s4).foldl nextShare s4

/-- LEAVE (R325): 1 written to ORB.CTRL.LEAVE; the member leaves after its pass in flight. -/
def execLeave (s : State) : Out :=
  .next (if unpowered s || orbState s = 0 then s
    else if s.run.live.any (fun p => orbitRegion s p.region) then { s with orb := { s.orb with leaving := true } }
    else isolate s)

/-! ### Power between members (R320) -/

/-- PACE received at the primary (R320): the members of the pass's mask that have announced no delay are limited to 64/256 for the
announced delay and 10 µs. -/
def execPaceMsg (port : Nat) (s : State) : Out :=
  onMsg s port 2 none fun s src b =>
    let tag := rd b 4 4
    let delay := rd b 8 4
    if orbState s ≠ 3 then s
    else
      let s1 := fbump { s with orb := { s.orb with paced := s.orb.paced ++ [(src, tag, delay)] } } Reg.ORB_STATS.PACE 1
      match collRegions s1 tag with
      | [] => s1
      | r :: _ =>
        if (collOf s1 tag false).complete then s1
        else ((otherMembers s1 r).filter fun m => !(s1.orb.paced.any fun p => p.1 == m && p.2.1 == tag)).foldl (fun s m =>
          let s2 := sendMsg s (memberPort s m) 3 ([2, 64, 0] ++ leBytes 4 (delay + 10) ++ leBytes 4 tag)
          fbump { s2 with orb := { s2.orb with limited := s2.orb.limited ++ [(m, tag)] } } Reg.ORB_STATS.LIMITS 1) s1

/-- POWER REPORT received at the primary (R320). -/
def execReportMsg (port : Nat) (s : State) : Out :=
  onMsg s port 3 (some 1) fun s src b =>
    let r : MemberReport := { inputDw := rd b 1 2, capDw := rd b 3 2, activity := rd b 5 1, reasons := rd b 6 1 }
    if orbState s ≠ 3 then s
    else { s with orb := { s.orb with reports := sset (fun _ => none) s.orb.reports src (some r) } }

/-- POWER LIMIT received (R320): from the primary, unless the collective is complete; THROTTLED is set in the passes it affects. -/
def execLimitMsg (port : Nat) (s : State) : Out :=
  onMsg s port 3 (some 2) fun s src b =>
    let tag := rd b 7 4
    if orbState s ≠ 2 || src ≠ fget s Reg.ORB_STATUS.PRIMARY || (collOf s tag false).complete || rd b 1 1 < 64 then s
    else
      let s1 := fbump { s with orb := { s.orb with limit := some (rd b 1 1, tag) } } Reg.ORB_STATS.LIMITS 1
      (collRegions s1 tag).foldl (fun s r => modPass s r fun p => { p with flags := p.flags ||| 32 }) s1

/-- POWER RELEASE received (R320). -/
def execReleaseMsg (port : Nat) (s : State) : Out :=
  onMsg s port 3 (some 3) fun s _ b =>
    { s with orb := { s.orb with limit := s.orb.limit.filter fun l => l.2 != rd b 1 4 } }

/-- LIMIT_HOLD_EXPIRY (R320): a LIMIT lapses at HOLD_US. -/
def execLimitHoldExpiry (s : State) : Out := .next { s with orb := { s.orb with limit := none } }

/-- POWER_REPORT_TIMER (R320): every 1 ms a member tells the primary its input power, cap, activity and throttle reasons. ACTIVITY is
the mean over the halls (log entry 43). -/
def execPowerReportTimer (s : State) : Out :=
  .next (if orbState s ≠ 2 then s
    else
      let act := ((List.range 4).map fun h => fget s (Reg.PWR_HALL_STATUS.ACTIVITY h)).sum / 4
      sendMsg s (memberPort s (fget s Reg.ORB_STATUS.PRIMARY)) 3 ([1] ++ leBytes 2 (fget s Reg.PWR_STATUS.INPUT_DW) ++
        leBytes 2 (fget s Reg.PWR_CAP.CAP_DW) ++ leBytes 1 (min 255 act) ++ leBytes 1 (fget s Reg.PWR_STATUS.REASONS)))

end Sys2Proof.Machine
end

