-- ==== Sys2Proof/Machine/Images.lean ====
section
/-!
DEFINITION. Sys2Proof/Machine/Images.lean: the image commands of CUR.IMG_CTRL (02: R27 to R37): store, bind up to its quiesce,
discard, revert, the serial floor, the first anchor.
-/
namespace Sys2Proof.Machine

/-! ### Results (R33, R41) -/

/-- The states of CUR.IMG_STATUS.STATE that a command can leave behind. -/
def imgQuiesce : Nat := 4
def imgDone : Nat := 8
def imgFailed : Nat := 9

/-- Is an image operation running (R33): STATE is neither IDLE, DONE nor FAILED? -/
def imgBusy (s : State) : Bool :=
  let st := fget s Reg.CUR_IMG_STATUS.STATE
  decide (st ≠ 0 ∧ st ≠ imgDone ∧ st ≠ imgFailed)

/-- An IMAGE_RESULT record (Table 17-7). -/
def imgRecord (s : State) (code serial sec : Nat) : State := annal s 0x0100 (if code = 0 then 1 else 3) {} code serial sec

/-- A command's result: LAST_RESULT, FAIL_SECTION, STATE in DONE or FAILED, the record, MSI-X vector 0 of PF0 (R33). -/
def imgResult (s : State) (code serial sec : Nat) : State :=
  let s1 := fset s Reg.CUR_IMG_STATUS.LAST_RESULT code
  let s2 := fset s1 Reg.CUR_IMG_STATUS.FAIL_SECTION sec
  let s3 := fset s2 Reg.CUR_IMG_STATUS.STATE (if code = 0 then imgDone else imgFailed)
  msix (imgRecord s3 code serial sec) .pf0 0

/-- A command written while another runs: it does not run, LAST_RESULT reads BUSY (R33). R41 asks for the serial in the record of every
refusal; one made before any image is read, here as in the answers SIZE and NO_ANCHOR, has none to give, and 0 stands there (DESIGN
CHOICE, log entry 56). -/
def imgRefuse (s : State) : State :=
  imgRecord (fset (fset s Reg.CUR_IMG_STATUS.LAST_RESULT 1) Reg.CUR_IMG_STATUS.FAIL_SECTION 0) 1 0 0

/-- A command is accepted: its TAG is echoed, and it runs. -/
def imgCommand (s : State) (tag : Nat) (run : State → State) : State :=
  if unpowered s then s else if imgBusy s then imgRefuse s else run (fset s Reg.CUR_IMG_STATUS.TAG tag)

/-! ### Slots (R31) -/

/-- The revision byte of the module: that of its dies while they agree (R2). -/
def moduleRev (s : State) : Nat :=
  match s.cur.revs with
  | [] => 0xFF
  | r :: rs => if rs.all (· == r) then r else 0xFF

/-- The bytes of slot i. -/
def slotOf (st : ImgStore) (i : Nat) : Option Bytes := if i = 0 then st.slot0 else st.slot1

/-- The store with slot i holding an image or nothing. -/
def putSlot (st : ImgStore) (i : Nat) (b : Option Bytes) : ImgStore := if i = 0 then { st with slot0 := b } else { st with slot1 := b }

/-- The pending slot: the one the selector does not name. -/
def pendingIx (st : ImgStore) : Nat := if st.active = some 0 then 1 else 0

/-- The image in the pending slot. -/
def pendingImage (s : State) : Option Bytes := slotOf s.img.store (pendingIx s.img.store)

/-- The image registers that show the pending slot. -/
def showPending (s : State) : State :=
  match pendingImage s with
  | some b => rset (fset s Reg.CUR_IMG_STATUS.PENDING_VALID 1) Reg.CUR_IMG_PENDING_SERIAL.SERIAL.addr (BitVec.ofNat 64 (rd b 0x18 8))
  | none => fset s Reg.CUR_IMG_STATUS.PENDING_VALID 0

/-- The module with its image store changed and shown. -/
def withStore (s : State) (st : ImgStore) : State := showPending { s with img := { s.img with store := st } }

/-- The pending slot takes an image or nothing; either way the record of a formerly active image clears (R31). -/
def writePending (s : State) (b : Option Bytes) : State :=
  withStore s { putSlot s.img.store (pendingIx s.img.store) b with former := false }

/-! ### STORE (R30) -/

/-- The unknown sections of an accepted image, recorded (R22). -/
def recordIgnored (s : State) (b : Bytes) : State := (ignoredTypes b).foldl (fun s t => annal s 0x0C00 1 {} t 0 0) s

/-- The check of R30 and what follows it. -/
def storeRun (f : Fetch) (nandOk : Bool) (s : State) : State :=
  let len := fget s Reg.CUR_IMG_LEN.LEN
  match s.img.store.anchor with
  | none => imgResult s 0x07 0 0
  | some a =>
    if len % 4096 ≠ 0 || 268435456 < len then imgResult s 0x03 0 0
    else match f with
      | .data b =>
        if b.length ≠ len then imgResult s 0x02 0 0
        else match checkImage (moduleRev s) s.img.store.floor (some a) len b with
          | some e => imgResult s e.code (rd b 0x18 8) e.failSection
          | none =>
            if nandOk then imgResult (recordIgnored (writePending s (some b)) b) 0x00 (rd b 0x18 8) 0
            else imgResult (writePending s none) 0x10 (rd b 0x18 8) 0
      | _ => imgResult s 0x02 0 0

/-- STORE (R30, R31): fetch, check and write to the pending slot. -/
def execStore (tag : Nat) (f : Fetch) (nandOk : Bool) (s : State) : Out := .next (imgCommand s tag (storeRun f nandOk))

/-- DISCARD (R31): the pending slot is invalidated. -/
def execDiscard (tag : Nat) (s : State) : Out :=
  .next (imgCommand s tag fun s => imgResult (writePending s none) 0x00 0 0)

/-- RAISE_FLOOR (R29): the floor rises to the bound image's serial and never falls. -/
def execRaiseFloor (tag : Nat) (nandOk : Bool) (s : State) : Out :=
  .next (imgCommand s tag fun s =>
    let n := max s.img.store.floor s.img.bound.serial
    if s.img.bound.plain then imgResult s 0x11 0 0
    else if !nandOk then imgResult s 0x10 s.img.bound.serial 0
    else
      let s1 := { s with img := { s.img with store := { s.img.store with floor := n } } }
      imgResult (fset s1 Reg.CUR_IMG_FLOOR.FLOOR n) 0x00 s.img.bound.serial 0)

/-- The check of an anchor record (R28), steps 2 to 4: a result code, or the key. -/
def anchorCheck (len : Nat) (f : Fetch) : Nat ⊕ (Nat × Bytes) :=
  match f with
  | .data b =>
    let k := parseKey b
    if b.length ≠ len then .inl 0x02
    else if len ≠ 4096 || k.magic ≠ magicAnchor || k.format ≠ 1 || k.keyLen ≠ 68 || !k.rsvOk then .inl 0x04
    else if !keySetOk k then .inl 0x08
    else .inr (k.oid, k.key)
  | _ => .inl 0x02

/-- ENROL_ANCHOR (R27, R28): the first operator anchor. -/
def execEnrolAnchor (tag : Nat) (f : Fetch) (nandOk : Bool) (s : State) : Out :=
  .next (imgCommand s tag fun s =>
    if s.img.store.anchor.isSome then imgResult s 0x07 0 0
    else match anchorCheck (fget s Reg.CUR_IMG_LEN.LEN) f with
      | .inl code => imgResult s code 0 0
      | .inr a =>
        if !nandOk then imgResult s 0x10 0 0
        else
          let s1 := { s with img := { s.img with store := { s.img.store with anchor := some a } } }
          imgResult (fset s1 Reg.CUR_IMG_STATUS.ANCHOR 1) 0x00 0 0)

/-! ### The scope of a bind (R34, R36, R37) -/

/-- What the region-idle sections say of a region and of the shelves in `sh`: entries in order. -/
def regionFace (img : Image) (r : Nat) (sh : List Nat) : List Bytes :=
  ((img.regions.filter fun x => x.id == r).map (·.raw)) ++
    (img.pairs.filter fun p => sh.elem p.hiShelf || sh.elem p.loShelf).map (fun p =>
      leBytes 2 (p.hiShelf * 64 + p.hiSlot) ++ leBytes 2 (p.loShelf * 64 + p.loSlot)) ++
    ((img.chainEntries.filter fun e => sh.elem e.shelf).map (·.raw)) ++
    ((img.routes.filter fun e => e.region == r).map fun e => leBytes 1 e.hall ++ leBytes 2 e.stage ++ e.words) ++
    ((img.reds.filter fun e => e.region == r).map (·.raw)) ++
    ((img.placements.filter fun p => p.region == r).map fun p => p.raw ++ p.words) ++
    ((entries 8 (img.body 8)).filter fun e => rd e 0 1 == r)

/-- The shelves that a region owns in either image. -/
def eitherShelves (a b : Image) (r : Nat) : List Nat :=
  ((a.region? r).elim [] Region.shelves ++ (b.region? r).elim [] Region.shelves).eraseDups

/-- Do the region-idle sections of two images differ for a region? -/
def regionDiffers (a b : Image) (r : Nat) : Bool :=
  let sh := eitherShelves a b r
  decide (regionFace a r sh ≠ regionFace b r sh)

/-- The regions in the scope of a bind. -/
def scopeRegions (a b : Image) : List Nat :=
  ((a.regions.map (·.id) ++ b.regions.map (·.id)).eraseDups).filter (regionDiffers a b)

/-- Does the scope take in the whole module (PORT_ROLES or LOAN_GIB differs)? -/
def wholeScope (a b : Image) : Bool := decide (a.body 0xA ≠ b.body 0xA) || decide (a.power.loanGib ≠ b.power.loanGib)

/-- Does a carrel's change need it idle (Table 2-7)? -/
def idleChange (x y : Carrel) : Bool :=
  (x.enable && !y.enable) || decide (x.mask ≠ y.mask ∨ x.swapMib ≠ y.swapMib ∨ x.maxSessions ≠ y.maxSessions ∨
    x.loanMib ≠ y.loanMib ∨ x.privileged ≠ y.privileged)

/-- The carrels whose change needs them idle. -/
def idleCarrels (a b : Image) : List Nat := (List.range 1024).filter fun n => idleChange (a.carrel n) (b.carrel n)

/-- Is an accession, a rehousing or a maintenance window at work on a region of the scope (R36, R381, R383)? -/
def scopeBusy (s : State) (rs : List Nat) (whole : Bool) : Bool :=
  let inScope := fun r => whole || rs.elem r
  ((List.range 16).any fun r => inScope r &&
    (((accOf s r).phase != .idle && (accOf s r).phase != .failed) || !(accOf s r).targets.isEmpty)) ||
  (match s.con.window with
    | some w => w.module || w.regions.any inScope
    | none => false)

/-- Steps 1 and 2 of Table 2-6: the checks of a BIND, and its scope. -/
def bindRun (s : State) : State :=
  match pendingImage s with
  | none => imgResult s 0x0E 0 0
  | some b =>
    let new := parseImage b
    let rs := scopeRegions s.img.bound new
    let whole := wholeScope s.img.bound new
    let cs := idleCarrels s.img.bound new
    if new.serial < s.img.store.floor then imgResult s 0x06 new.serial 0
    else if scopeBusy s rs whole then imgResult s 0x01 new.serial 0
    else if cs.any (fun c => !(carrelSessions s c).isEmpty) then imgResult s 0x0F new.serial 0
    else
      fset { s with img := { s.img with op := some ⟨new, rs, cs, whole⟩ } } Reg.CUR_IMG_STATUS.STATE imgQuiesce

/-- BIND (R34, R36): the pending image starts its bind. -/
def execBind (tag : Nat) (s : State) : Out := .next (imgCommand s tag bindRun)

/-- REVERT (R31, R33): as BIND, only while the pending slot holds the formerly active image. -/
def execRevert (tag : Nat) (s : State) : Out :=
  .next (imgCommand s tag fun s => if s.img.store.former then bindRun s else imgResult s 0x0E 0 0)

/-- QUIESCE_TIMEOUT (R35, R383): a bind, or the opening of a maintenance window, is abandoned; held commands are released. -/
def execQuiesceTimeout (s : State) : Out :=
  .next (match s.img.op with
    | some op => releaseShares (imgResult { s with img := { s.img with op := none } } 0x0C op.img.serial 0)
    | none => match s.con.window with
      | some w =>
        if w.quiet then s
        else
          let s1 := { s with con := { s.con with window := none } }
          fset (fset (fset s1 Reg.CUR_MAINT_STATUS.LAST_RESULT 3) Reg.CUR_MAINT_STATUS.STATE 0) Reg.CUR_MAINT_STATUS.HELD 0
      | none => s)

end Sys2Proof.Machine
end

