-- ==== Sys2Proof/Machine/Vigil.lean ====
section
/-!
DEFINITION. Sys2Proof/Machine/Vigil.lean: class-S checks and what a detection does (06 R147 to R156, 18 R397).
-/
namespace Sys2Proof.Machine

/-- What vigilance keeps of a region. -/
def vigOf (s : State) (r : Nat) : Vigilance := sget (fun _ => freshVigilance) s.run.vig r

/-- The module with what vigilance keeps of a region changed. -/
def modVig (s : State) (r : Nat) (f : Vigilance → Vigilance) : State :=
  { s with run := { s.run with vig := smod (fun _ => freshVigilance) s.run.vig r f } }

/-- The part of Λ_ref that one folio gives for a vector and column (R150). -/
def folioRef (f : SFolio) (codes : List Int) (j : Nat) : Int :=
  let a := codes.drop f.base |>.take 1024
  ((a.zipIdx.map fun x => x.1 * levelAt f.content x.2 j).sum) * (2 ^ f.k : Nat) +
    (((f.stuckMap.filter fun c => c.col == j).map fun c => a.getD c.row 0 * c.delta).sum)

/-- Λ_ref of a vector and column of the tile (R150). -/
def checkRef (c : SCheck) (codes : List Int) (j : Nat) : Int := (c.folios.map fun f => folioRef f codes (64 * c.colGroup + j)).sum

/-- The tolerance at a reference value (R150): at the hall's temperature at the sampled pass and each folio's own age. -/
def checkTolerance (c : SCheck) (ref : Int) : W32 :=
  toleranceOf (BitVec.ofNat 32 c.z) (sigmaTotal c.temp c.window c.width (c.folios.map fun f => (f.ek, f.age))) ref

/-- |Λ − Λ_ref| of a vector and column of the tile. -/
def checkDeviation (c : SCheck) (r j : Nat) : Nat := ((c.totals.getD r []).getD j 0 - checkRef c (c.codes.getD r []) j).natAbs

/-- Does element (r, j) fail by R150: does fl(Λ) differ from fl(Λ_ref) by more than the tolerance? -/
def checkElem (c : SCheck) (r j : Nat) : Bool :=
  let ref := checkRef c (c.codes.getD r []) j
  flt (checkTolerance c ref) (fabs (fsub (fofInt ((c.totals.getD r []).getD j 0)) (fofInt ref)))

/-- The elements of a check that fail by R150: row, column. -/
def checkFails (c : SCheck) : List (Nat × Nat) :=
  (List.range c.codes.length).flatMap fun r => ((List.range 64).filter (checkElem c r)).map fun j => (r, j)

/-- The operand fingerprint (R397). -/
def fingerprint (c : SCheck) (fails : List (Nat × Nat)) : Bytes :=
  let rows := (fails.map (·.1)).eraseDups
  let mask := ((fails.map (·.2)).eraseDups.map fun j => 2 ^ j).sum
  (shake256 (leBytes 2 c.stage ++ (rows.flatMap fun r => (c.codes.getD r []).map fun a => BitVec.ofNat 8 (unsignedOf 8 a)) ++ leBytes 8 mask)).take 16

/-- The plane summary (R397). -/
def planeSummary (c : SCheck) (fails : List (Nat × Nat)) : List Nat :=
  let rows := (fails.map (·.1)).eraseDups
  (List.range c.width).map fun p => (rows.map fun r => ((c.codes.getD r []).filter fun a => planeBit a p).length).sum

/-- A class-S detection (R155, R387, R388, R391, R392): SCR.VIG_STATUS, the annals, the record, the taint window with its initial
report, the message across an orbit, and the localisation of the chain. `tol` is the tolerance that the first failing column was held to. -/
def detectS (s : State) (c : SCheck) (fails : List (Nat × Nat)) (tol : W32) : State :=
  let h := hallOf c.shelf
  let s1 := noteDetection s h c.region c.stage 0
  let s2 := fset (fset (fset (fset s1 (Reg.SCR_VIG_STATUS.SHELF h) (c.shelf % 128)) (Reg.SCR_VIG_STATUS.CHAIN h) c.chain)
    (Reg.SCR_VIG_STATUS.COL_GROUP h) c.colGroup) (Reg.SCR_VIG_STATUS.FAILS h) fails.length
  let s3 := annal s2 0x0500 2 { region := some c.region, carrel := some c.carrel, shelf := some (c.shelf % 128), die := some h } 1 c.stage fails.length
  let worst := (fails.map fun f => checkDeviation c f.1 f.2).foldl max 0
  let s4 := fsr s3 1 (some c.region)
    [ (12, .one (.uint c.stage)), placeKey s3 c.shelf (some c.chain) none (some c.colGroup), conditionsKey s3 c.shelf c.chain
    , (15, .one (.flt tol)), (16, .arr [.uint fails.length, .uint worst]), (17, .one (.bstr (fingerprint c fails)))
    , (18, .arr ((planeSummary c fails).map .uint)), (23, .arr [.uint c.carrel, .uint c.passNo]) ]
  let start := cleanSince s4 c.shelf c.chain c.colGroup
  let s5 := openTaint s4 { regions := [c.region], start := start, detected := s4.clk.epoch, bounded := true, shelf := c.shelf
                           chain := c.chain, group := c.colGroup, stage := c.stage, cls := 1 }
  let s6 := announce s5 1 c.region c.stage start
  { s6 with con := { s6.con with locals := s6.con.locals ++
      [{ region := c.region, shelf := c.shelf, chain := c.chain, group := c.colGroup, passes := 0, beyond := [] }] } }

/-- A check leaves the list of those that are pending. -/
def dropCheck (s : State) (c : SCheck) : State := modVig s c.region fun v => { v with checks := v.checks.erase c }

/-- A check is discarded (R151, R214): counted and recorded. -/
def discardCheck (s : State) (c : SCheck) : State :=
  annal (fbump (dropCheck s c) (Reg.SCR_VIG_COUNTS.SKIPPED (hallOf c.shelf)) 1) 0x0501 0
    { region := some c.region, carrel := some c.carrel, shelf := some (c.shelf % 128), die := some (hallOf c.shelf) } c.passNo 0 0

/-- Has a check not completed S_LAG class-S passes after its own (R151)? -/
def overdue (c : SCheck) : Bool := decide (c.lag ≤ c.passed)

/-- A vigilance event that poison marks is recorded and is no detection (R122): code 0, the pass number, the failing elements. -/
def poisonedEvent (s : State) (shelf region carrel passNo n : Nat) : State :=
  annal s 0x0500 2 { region := some region, carrel := some carrel, shelf := some (shelf % 128), die := some (hallOf shelf) } 0 passNo n

/-- A check completes with the elements that its CHECK found to fail (R122, R150, R155): it is counted; failing elements are a detection unless poison
marks them; a clean one moves the start of later windows (R388). One that is overdue is discarded (R151). -/
def completeCheck (s : State) (c : SCheck) (fails : List (Nat × Nat)) (tol : W32) (bad : Bool) : State :=
  if overdue c then discardCheck s c
  else
    let s1 := fbump (dropCheck s c) (Reg.SCR_VIG_COUNTS.CHECKS (hallOf c.shelf)) 1
    if fails.isEmpty
    then { s1 with con := { s1.con with clean := sset (fun _ => none) s1.con.clean (chainKey c.shelf c.chain * 8 + c.colGroup) (some c.epoch) } }
    else if bad then poisonedEvent s1 c.shelf c.region c.carrel c.passNo fails.length
    else detectS s1 c fails tol

/-- CLASS_S_CHECK_DISCARD (R151): a check not done S_LAG class-S passes after its sampled pass is discarded, counted, recorded. -/
def execClassSCheckDiscard (region shelf : Nat) (s : State) : Out :=
  .next (match (vigOf s region).checks.find? fun c => c.shelf == shelf && overdue c with
    | none => s
    | some c => discardCheck s c)

/-- VIGILANCE_CLEAR (R156, R388): writing 1 to detection bits of a hall's SCR.VIG_STATUS clears them and withdraws their completion
flags; clearing a class-N detection ends its window. -/
def execVigilanceClear (hall bits : Nat) (s : State) : Out :=
  .next (if unpowered s then s else
    let clr := fun (s : State) (f : FieldRef) (b : Nat) => if bits.testBit b then fset s f 0 else s
    let s1 := clr (clr (clr s (Reg.SCR_VIG_STATUS.S_DETECT hall) 0) (Reg.SCR_VIG_STATUS.N_DETECT hall) 1) (Reg.SCR_VIG_STATUS.N_FALL hall) 2
    let gone := s.run.detections.filter fun d => d.1 == hall && bits.testBit d.2.2
    let s2 := { s1 with run := { s1.run with detections := s1.run.detections.filter fun d => !gone.elem d } }
    endTaints s2 (fun t => t.cls == 2 && gone.any fun d => d.2.2 != 0 && t.regions.elem d.2.1) s2.clk.epoch 0)

end Sys2Proof.Machine
end

