-- ==== Sys2Proof/Machine/Programming.lean ====
section
/-!
DEFINITION. Sys2Proof/Machine/Programming.lean: how folios are chosen, programmed and given back (03 R66 to R72, 08 R200 to R203,
R211), and the gains that a chain's estimates give (07 R166, R167).
-/
namespace Sys2Proof.Machine

/-! ### Wear and failure (R3, R67, R165) -/

/-- Is the module of engineering grade, whose wear ratings do not bar programming (R3)? -/
def engGrade (s : State) : Bool := ((s.pwr.record).map (·.eng)).getD false

/-- The highest program count among a folio's column trims (R165). -/
def trimCount (f : Folio) : Nat := f.trimProgs + (f.trimExtra.map (·.2)).foldl max 0

/-- Has a folio reached a rating of R67 or R165? -/
def wornOut (s : State) (f : Folio) : Bool := !engGrade s && decide (8000 ≤ f.wear ∨ 10000 ≤ trimCount f)

/-- The SPARE folios of a module shelf that may be programmed, in ascending WEAR, then position (R195). -/
def usableSpares (s : State) (shelf : Nat) : List Nat :=
  sortBy ((sparesOf s shelf).filter fun k => !wornOut s (folioAt s k) && !(folioAt s k).failed)
    fun a b => decide ((folioAt s a).wear < (folioAt s b).wear ∨ ((folioAt s a).wear = (folioAt s b).wear ∧ a ≤ b))

/-- The request of a folio's hall that names the folio is over (R184). -/
def endRequest (s : State) (k : Nat) : State :=
  match (sget (fun _ => none) s.col.request (k / 68 / 128) : Option (Nat × Nat × Nat)) with
  | some q => if q.2.2 = k then { s with col := { s.col with request := sset (fun _ => none) s.col.request (k / 68 / 128) none } } else s
  | none => s

/-- A shelf frees a spare: a walk that was abandoned there resumes on it (R72). -/
def freeSpare (s : State) (k : Nat) : State :=
  { s with con := { s.con with heldWalks := s.con.heldWalks.map fun e => if e.1 = k / 68 && e.2.isNone then (e.1, some k) else e } }

/-- A sweep, a fit or a window of a folio counts no more (R71, R163, R169). -/
def dropSweep (s : State) (k : Nat) : State :=
  restartWindow { s with col := { s.col with sweeps := sset (fun _ => none) s.col.sweeps k none, fits := sset (fun _ => none) s.col.fits k none } } k

/-- A folio returns to SPARE, or is RETIRED where it is worn or failed (Table 3-7); it serves no slot, and what its cells hold is
no longer defined. Its range exponent stays until it is next accessed (R54). -/
def giveBack (s : State) (k : Nat) : State :=
  let f := folioAt s k
  let lost := wornOut s f || f.failed
  let s1 := endRequest (dropSweep (toState s k (if lost then .retired else .spare)) k) k
  modFolio (if lost then s1 else freeSpare s1 k) k fun f => { f with
    ready := false, logical := 0x7F, pairRole := 0, content := .undefined, purpose := .none, replaces := 0x7F
    shadowValid := false, refreshDue := false, deepPending := false, sweepPending := false, dueHours := none }

/-- Folios that are being programmed in a hall (R201). -/
def programming (s : State) (h : Nat) : List (Nat × Folio) :=
  s.arr.folios.filter fun e => e.1 / 68 / 128 == h && e.2.st == .accessing

/-- The broker's grant to background work in a hall, in 0.1 W (R183, R201): no limit before the first broker cycle. -/
def backgroundGrant (s : State) (h : Nat) : Nat := sget (fun _ => 100000) s.pwr.background h

/-- How many more folios a hall may program for a purpose that has `share` tenths of a watt (R183, R201): one folio draws 0.5 W, against the purpose's
share and, with every other one, against the broker's grant. -/
def programSlots (s : State) (h : Nat) (p : Purpose) (share : Nat) : Nat :=
  let all := programming s h
  min (fget s Reg.ACC_CTRL.PER_HALL - all.length) (min (share / 5 - (all.filter fun e => e.2.purpose == p).length) (backgroundGrant s h / 5 - all.length))

/-- What collation kept of a folio before it is accessed anew. -/
def forgetFolio (s : State) (k : Nat) : State :=
  let s1 := putOffs (putKhat (dropSweep s k) k (List.replicate 512 fone)) k (List.replicate 512 0)
  { s1 with col := { s1.col with moments := sset (fun _ => []) s1.col.moments k [], fitTemp := sset (fun _ => none) s1.col.fitTemp k none } }

/-- A folio begins to be programmed with the levels of `content` (R200, R211): WEAR counts one, then it enters ACCESSING; its taps,
sweeps and age start anew. -/
def startProgram (s : State) (k region slot role e : Nat) (content : Content) (p : Purpose) (replaces : Nat) : State :=
  toState (modFolio (endRequest (forgetFolio s k) k) k fun f => { f with
    wear := min (f.wear + 1) 16383, ready := false, logical := slot, region := region, pairRole := role, rangeExp := e
    content := content, purpose := p, replaces := replaces, bankA := [], bankB := [], bank := 0, shadowValid := false
    shadowAt := 0, sweeps := 0, sweepPending := false, deepPending := false, refreshDue := false, dueHours := none
    ageHours := 0, residual := 0, bootDone := true }) k .accessing

/-! ### Copies of a serving folio (R68, R176, R180, R211) -/

/-- The copy that is to replace a folio, if one is being prepared. -/
def copyOf (s : State) (k : Nat) : Option Nat :=
  ((List.range 68).map (folioKey (k / 68))).find? fun c =>
    (folioAt s c).purpose != .none && (folioAt s c).purpose != .accession && (folioAt s c).replaces == k % 68 &&
      ((folioAt s c).st == .accessing || (folioAt s c).st == .collating)

/-- Is wear levelling of a serving folio due: its region's archive copy is resident, PERIOD_S of its budget has passed, and the least-worn spare of its
shelf is 256 accessions younger (R211)? -/
def wearDue (s : State) (k : Nat) : Bool :=
  let f := folioAt s k
  let b := s.img.bound.budget 5
  b.enable && (accOf s f.region).archive && f.leveled.all (fun t => decide (t + b.periodS * 1000000 ≤ s.clk.tick)) &&
    match (usableSpares s (k / 68)).head? with
    | some c => decide ((folioAt s c).wear + 256 ≤ f.wear)
    | none => false

/-- What a serving folio waits for a spare for, as its rank of R68: 1 a recorded failure, 2 refresh, 3 deep collation, 4 wear levelling; 5 nothing. -/
def spareRank (s : State) (k : Nat) : Nat :=
  let f := folioAt s k
  if f.failed then 1 else if f.refreshDue then 2 else if f.deepPending then 3 else if wearDue s k then 4 else 5

/-- The serving folios of a shelf that wait for a spare at a rank above `rank` (R68). -/
def waitingAbove (s : State) (shelf rank : Nat) : List Nat :=
  ((List.range 68).map (folioKey shelf)).filter fun k =>
    (folioAt s k).st == .serving && decide (spareRank s k < rank) && (copyOf s k).isNone

/-- The spare that an activity of a rank may take on a shelf: none while folios of a higher rank wait for as many (R68). -/
def spareFor (s : State) (shelf rank : Nat) : Option Nat :=
  let free := usableSpares s shelf
  if (waitingAbove s shelf rank).length < free.length then free.head? else none

/-- A copy of a serving folio onto a spare begins, from the archive copy (R176, R180, R211): the same block, slot and range exponent. -/
def startCopy (s : State) (k spare : Nat) (p : Purpose) : State :=
  let f := folioAt s k
  startProgram s spare f.region f.logical f.pairRole f.rangeExp f.content p (k % 68)

/-- A copy is abandoned: its spare goes back, and the folio keeps serving (R71, R177). -/
def abandonCopy (s : State) (c : Nat) : State := giveBack s c

/-- The copies of single folios in progress of a region; a rehousing's folios, which replace none of their shelf, are not among them. -/
def copiesOf (s : State) (r : Nat) : List Nat :=
  (s.arr.folios.filter fun e => e.2.region == r && e.2.purpose != .none && e.2.purpose != .accession && e.2.replaces != 0x7F &&
    (e.2.st == .accessing || e.2.st == .collating)).map (·.1)

/-! ### Stuck cells (R202, R203) -/

/-- The residual error of a stuck cell (R202) for target level `l` and measured levels u in 1/256 level: of G+ and of G−. -/
def stuckError (cell : Nat) (up um : Int) (l : Int) : Int :=
  let left := fun (c v : Int) => clampInt 0 (15 * 256) v - c
  match cell with
  | 1 => rndAway (-(left (up - 256 * l) (up - 256 * l))) 256
  | 2 => rndAway (left (um + 256 * l) (um + 256 * l)) 256
  | _ => rndAway (up - um - 256 * l) 256

/-- The stuck cells with their measured levels: those that programming found, and those that the folio's map lists, whose re-measured levels are free
values where none is given (R200). -/
def measuredCells (f : Folio) (draw : Nat) (cells : List (Nat × Nat × Nat × Int × Int)) : List (Nat × Nat × Nat × Int × Int) :=
  cells ++ (f.stuckMap.filter fun c => !cells.any fun x => x.1 == c.row && x.2.1 == c.col).map fun c =>
    (c.row, c.col, c.cell, Config.cellLevel draw (512 * c.row + c.col) 0, Config.cellLevel draw (512 * c.row + c.col) 1)

/-- The stuck map that write-and-verify leaves: row, column, cell and measured levels of each stuck cell (R202, R203). -/
def stuckMapOf (f : Folio) (cells : List (Nat × Nat × Nat × Int × Int)) : List StuckCell :=
  cells.map fun c => ⟨c.1, c.2.1, c.2.2.1, clampInt (-128) 127 (stuckError c.2.2.1 c.2.2.2.1 c.2.2.2.2 (levelAt f.content c.1 c.2.1))⟩

/-- The uncompensated cells of a map (R203). -/
def uncompensated (m : List StuckCell) : Nat := (m.filter fun c => c.delta != 0).length

/-- May a folio with this map serve (R203)? -/
def stuckOk (m : List StuckCell) : Bool := decide (m.length ≤ 1024) && decide (uncompensated m ≤ 64)

/-! ### Gains (R166, R167) -/

/-- α_f: from the test record until a sweep refines it (R167). -/
def alphaOf (s : State) (k : Nat) : W32 := sget (fun _ => ((s.pwr.record).map (·.alpha)).getD 0) s.col.alpha k

/-- The chains whose folios share one gain with this chain (R166): the leaves of every group that the wide merge takes and that
lists the chain, or the chain alone. -/
def gainChains (s : State) (shelf c : Nat) : List (Nat × Nat) :=
  match shelfRegion s shelf, namedShelf s shelf with
  | some r, some n =>
    let hits := (s.img.bound.reds.filter fun e => e.region == r && wideEligible s.img.bound r e.stage e.group).filter fun e =>
      (s.img.bound.groupLeaves r e.stage e.group).any fun l => l.2.1 == n && l.2.2 == c
    match hits with
    | [] => [(shelf, c)]
    | es => (es.flatMap fun e => (s.img.bound.groupLeaves r e.stage e.group).map fun l => (housedAt s r l.2.1, l.2.2)).eraseDups
  | _, _ => [(shelf, c)]

/-- Do the recipes in force strike a slot of a chain: every slot of significance 16, and one of significance 1 where some stage of the chain has USE_LOW
(R76, R166)? -/
def struckNow (s : State) (shelf c k : Nat) : Bool :=
  slotHigh s shelf k || match shelfRegion s shelf, namedShelf s shelf with
    | some r, some n => (s.img.bound.recipes.filter fun x => x.region == r && (leafPlace s.img.bound r x.stage n c).isSome).any fun x =>
        ((recipeOf s r x.stage).getD x).useLow
    | _, _ => true

/-- The folios that a chain's gain is formed from, with the weight 2^(e_f + k_f) of each. -/
def gainFolios (s : State) (shelf c : Nat) : List (Nat × Nat) :=
  (gainChains s shelf c).flatMap fun x => ((chainFolios s x.1 x.2).filter fun f => struckNow s x.1 x.2 f.1).map fun f =>
    (f.2, 2 ^ ((folioAt s f.2).rangeExp + pairShift s x.1 f.1))

/-- An exact sum of values with integer weights. -/
def weighted (xs : List (Nat × W32)) : Dy :=
  xs.foldl (fun a x => match decF x.2 with
    | .num n m e => a.add ⟨(dyOf n m e).m * (x.1 : Int), e⟩
    | _ => a) ⟨0, 0⟩

/-- 1 ÷ k̂_j correctly rounded, from the estimates of a chain's folios (R166), before its clamp. -/
def gainRaw (s : State) (fs : List (Nat × Nat)) (j : Nat) : W32 :=
  let d := weighted (fs.map fun f => (f.2, khatNext s f.1 j))
  if d.m ≤ 0 then fone else roundF false ((fs.map (·.2)).sum) d.m.natAbs (-d.e)

/-- A gain held within 0.75 to 1.25 (R80, R166). -/
def clampGain (g : W32) : W32 := if flt g 0x3F400000 then 0x3F400000 else if flt 0x3FA00000 g then 0x3FA00000 else g

/-- A chain's measured gains. -/
def gainTable (s : State) (shelf c : Nat) : Sparse W32 :=
  let fs := gainFolios s shelf c
  (List.range 512).foldl (fun t j => sset (fun _ => fone) t j (clampGain (gainRaw s fs j))) []

/-- The folios of a chain that R166 records as failed: those outside 0.80 to 1.25 in a column whose gain was clamped. -/
def gainFailures (s : State) (shelf c : Nat) : List Nat :=
  let fs := gainFolios s shelf c
  let cols := (List.range 512).filter fun j => clampGain (gainRaw s fs j) != gainRaw s fs j
  (fs.map (·.1)).filter fun k => cols.any fun j => ltRat (khatNext s k j) 80 100 || gtRat (khatNext s k j) 125 100

/-- The module with a chain's gains changed. -/
def modGain (s : State) (shelf c : Nat) (f : ChainGain → ChainGain) : State :=
  { s with col := { s.col with gains := smod (fun _ => freshGain) s.col.gains (chainKey shelf c) f } }

/-- Folios are marked failed, so that R68 substitutes them first. -/
def markFailed (s : State) (ks : List Nat) : State := ks.foldl (fun s k => modFolio s k fun f => { f with failed := true }) s

/-- The chains of a module shelf. -/
def shelfChains (s : State) (shelf : Nat) : List Nat :=
  match (namedShelf s shelf).bind s.img.bound.chainEntry? with
  | some e => (((List.range 64).filter e.uses).map e.chain).eraseDups
  | none => []

/-- α̂ of a chain: the average of its folios' α_f with the weights of R166 (R167). -/
def alphaMean (s : State) (shelf c : Nat) : Frac :=
  let fs := gainFolios s shelf c
  (Frac.sum (fs.map fun f => (Frac.ofInt f.2).mul (fracOf (alphaOf s f.1)))).div (.ofInt (max 1 (fs.map (·.2)).sum))

/-- The gain of R167 at a hall's present temperature: g_ref ÷ (1 + α̂ × (T − T_ref)). -/
def tempTable (s : State) (shelf c : Nat) (g : ChainGain) : Sparse W32 :=
  let d := (Frac.ofInt 1).add ((alphaMean s shelf c).mul ⟨hallTemp s (hallOf shelf) - g.tRef, 256⟩)
  (List.range 512).foldl (fun t j => sset (fun _ => fone) t j
    (clampGain (if d.num ≤ 0 then infBits false else ((fracOf (sget (fun _ => fone) g.gRef j)).div d).toW))) []

/-- Has a hall's temperature moved by TEMP_STEP or more from `t` (R167)? -/
def stepDue (s : State) (h : Nat) (t : Int) : Bool := decide (fget s (Reg.COL_CTRL.TEMP_STEP h) * 64 ≤ (hallTemp s h - t).natAbs)

/-- The temperature of a chain's measurement: that of its first folio's last fit, the present one where there is none (DESIGN CHOICE, log entry 55: the
manual has one T_ref for a chain). -/
def chainTemp (s : State) (shelf c : Nat) : Int :=
  (((gainFolios s shelf c).head?).bind fun f => sget (fun _ => (none : Option Int)) s.col.fitTemp f.1).getD (hallTemp s (hallOf shelf))

/-- The gains of a chain as its estimates give them now, in force at once (R166): after a flip, a bind or boot collation. -/
def deriveGain (s : State) (shelf c : Nat) : State :=
  let t := gainTable s shelf c
  modGain (markFailed s (gainFailures s shelf c)) shelf c fun g =>
    { g with g := t, gRef := t, tRef := chainTemp s shelf c, tApplied := chainTemp s shelf c, next := none, tempDue := stepDue s (hallOf shelf) (chainTemp s shelf c) }

/-- The gains of every chain of a region. -/
def deriveGains (s : State) (r : Nat) : State :=
  (regionShelves s r).foldl (fun s h => (shelfChains s h).foldl (fun s c => deriveGain s h c) s) s


/-- An incoming folio enters SERVING (R66): its window starts, and the epoch is kept for taint windows (R388). -/
def enterServing (s : State) (k : Nat) : State :=
  restartWindow (modFolio (toState s k .serving) k fun f =>
    { f with ready := false, purpose := .none, replaces := 0x7F, servedEpoch := s.clk.epoch }) k

end Sys2Proof.Machine
end

