-- ==== Sys2Proof/Machine/Accession.lean ====
section
/-!
DEFINITION. Sys2Proof/Machine/Accession.lean: accession (08: R185 to R216): manifests, housing, shards, programming, the commit
and the flip.
-/
namespace Sys2Proof.Machine

/-! ### Results (R215) -/

/-- The completion status of a result code (Table 8-7). -/
def accStatus (code : Nat) : Nat :=
  match code with
  | 0x00 => stOk
  | 0x01 => stDenied
  | 0x02 => stDenied
  | 0x03 => stDenied
  | 0x09 => stNoSpace
  | 0x0A => stNoSpace
  | 0x0B => stTimeout
  | 0x0C => stAborted
  | 0x0D => stNoSpace
  | 0x0F => stDenied
  | _ => stFormat

/-- LAST_RESULT of a region, and the record of a result other than OK: the code, the publisher's SERIAL, the low 8 bytes of KEY_ID. -/
def accNote (s : State) (r code : Nat) (m : Option Manifest) : State :=
  let s1 := modAcc s r fun a => { a with lastResult := code }
  if code = 0 then s1
  else annal s1 0x0300 3 { region := some r } code ((m.map (·.serial)).getD 0) ((m.map fun m => rd m.keyId 0 8).getD 0)

/-- A command of PF1 finishes with a result. -/
def accDone (s : State) (seq r code : Nat) (m : Option Manifest) : State := finish (accNote s r code m) 1024 seq (accStatus code) 0

/-! ### Manifests (R186, R187, R191) -/

/-- "CV48WPKG" (Table 8-1). -/
def magicPackage : Bytes := asciiBytes [0x43, 0x56, 0x34, 0x38, 0x57, 0x50, 0x4B, 0x47]

/-- Bytes of a shard (R187). -/
def shardSize : Nat := 67108864

/-- Bytes of a body block (Table 8-2). -/
def blockSize (paired : Bool) : Nat := if paired then 1053760 else 529472

/-- Bytes of a calibration batch (R190). -/
def batchSize : Nat := 262152

/-- The length that shard i of a body has (R187). -/
def shardLen (body i : Nat) : Nat := min shardSize (body - shardSize * i)

/-- A manifest's fixed part and shard table. -/
def parseManifest (b : Bytes) : Manifest :=
  { digest := shake256 b, keyId := slice b 0x20 32, geometry := slice b 0x40 32, paired := (rd b 0x0A 2).testBit 0
    bodyLen := rd b 0x10 8, calibOff := rd b 0x18 8, stages := rd b 0x64 4, model := slice b 0x68 16, serial := rd b 0x78 8
    shards := (List.range (rd b 0x0C 4)).map fun i => (rd b (128 + 40 * i + 4) 4, slice b (128 + 40 * i + 8) 32) }

/-- Check 1 of ACC_BEGIN (R186, R187): magic, format, flags, the shard table, the lengths. -/
def manifestOk (b : Bytes) : Bool :=
  let n := rd b 0x0C 4
  let m := parseManifest b
  decide (b.length ≤ 2 ^ 20 ∧ 128 + 40 * n ≤ b.length ∧ slice b 0 8 = magicPackage ∧ rd b 8 2 = 1 ∧ rd b 0x0A 2 < 2 ∧ 1 ≤ n ∧ n ≤ 1024) &&
    decide (m.bodyLen = m.calibOff + batchSize * m.stages ∧ shardSize * (n - 1) < m.bodyLen ∧ m.bodyLen ≤ shardSize * n) &&
    ((List.range n).all fun i => decide (rd b (128 + 40 * i) 4 = i ∧ rd b (128 + 40 * i + 4) 4 = shardLen m.bodyLen i))

/-- Do a manifest's counts fit a region (R189, R190): one block for each logical folio or pair, one batch for each stage? -/
def countsOk (s : State) (g : Region) (m : Manifest) : Bool :=
  decide (m.calibOff = (logicalSlots s.img.bound g).length * blockSize g.paired ∧ m.stages = s.img.bound.stageCount g.id)

/-- Check 2 of ACC_BEGIN (R191): none, or NO_TRUST or SIGNATURE. -/
def trustFault (s : State) (b : Bytes) : Option Nat :=
  let n := rd b 0x0C 4
  let signed := b.take (128 + 40 * n)
  match s.img.bound.publishers.find? fun k => keyId k.key == slice b 0x20 32 with
  | none => some 0x02
  | some k =>
    if rd b 0x60 4 ≠ k.oid || !keySetOk k || !xmssVerify k.oid k.key signed (b.drop (128 + 40 * n)) then some 0x03 else none

/-! ### Housing (R195, R196) -/

/-- Is an accession in progress on a region (R197)? -/
def accBusy (a : Acc) : Bool := a.phase != .idle && a.phase != .failed

/-- The module shelves that accessions or rehousings in progress are filling. -/
def targetShelves (s : State) : List Nat := (s.acc.flatMap fun e => e.2.targets.map (·.shelf)).eraseDups

/-- May a module shelf stand in (R195): no region is housed there, nothing is being placed there, and its units have not failed (R380)? -/
def standIn (s : State) (taken : List Nat) (shelf : Nat) : Bool :=
  (shelfRegion s shelf).isNone && !(targetShelves s).elem shelf && !taken.elem shelf && !s.con.failedShelves.elem shelf &&
    !s.con.failedHalls.elem (hallOf shelf)

/-- The folios that double-housing may take on a shelf: its usable spares beyond the reserve of four (R68). -/
def doubleSpares (s : State) (shelf : Nat) : List Nat := (usableSpares s shelf).take ((sparesOf s shelf).length - 4)

/-- The summed WEAR of a shelf. -/
def shelfWear (s : State) (shelf : Nat) : Nat := ((List.range 68).map fun p => (folioAt s (folioKey shelf p)).wear).sum

/-- The stand-ins of a hall with room for `n` folios, in the order of R195. -/
def hallStandIns (s : State) (taken : List Nat) (h n : Nat) : List Nat :=
  sortBy (((List.range 128).map fun i => 128 * h + i).filter fun x => standIn s taken x && decide (n ≤ (doubleSpares s x).length))
    fun a b => decide (shelfWear s a < shelfWear s b ∨ (shelfWear s a = shelfWear s b ∧ a ≤ b))

/-- The halls in the order of ranks 2 to 4 for a named shelf's hall: itself, the ring neighbours with the lower number first, the opposite one. -/
def hallRanks (h : Nat) : List Nat :=
  let a := (h + 1) % 4
  let b := (h + 3) % 4
  [h, min a b, max a b, (h + 2) % 4]

/-- The shelf that ranks 2 to 4 give a named shelf (R195, R380). -/
def standInFor (s : State) (taken : List Nat) (n count : Nat) : Option Nat :=
  ((hallRanks (hallOf n)).flatMap fun h => hallStandIns s taken h count).head?

/-- The used slots of a named shelf. -/
def usedSlots (img : Image) (n : Nat) : List Nat :=
  match img.chainEntry? n with
  | some e => (List.range 64).filter e.uses
  | none => []

/-- The block of a slot and whether the slot is the folio of significance 1 of its pair (R189). -/
def slotBlock (img : Image) (g : Region) (n k : Nat) : Nat × Bool :=
  let order := logicalSlots img g
  match img.pairs.find? fun p => p.loShelf == n && p.loSlot == k with
  | some p => (order.idxOf (p.hiShelf, p.hiSlot), true)
  | none => (order.idxOf (n, k), false)

/-- The targets of a named shelf's slots on the given folios, slot by slot. -/
def shelfTargets (img : Image) (g : Region) (n : Nat) (folios : List Nat) : List Target :=
  ((usedSlots img n).zip folios).map fun x =>
    let b := slotBlock img g n x.1
    { named := n, slot := x.1, shelf := x.2 / 68, pos := x.2 % 68, block := b.1, low := b.2 }

/-- Targets for a region with double-housing, named shelf by named shelf, with the new housing map; none where some shelf finds
none. `own` is whether rank 1 may serve. -/
def doubleHouse (s : State) (g : Region) (own : Bool) : Option (List Target × Sparse Nat) :=
  let step := fun (a : List Target × Sparse Nat) (n : Nat) =>
    let count := (usedSlots s.img.bound n).length
    let home := housedAt s g.id n
    let place := fun shelf => some (a.1 ++ shelfTargets s.img.bound g n (doubleSpares s shelf), sset (fun i => i) a.2 n shelf)
    if own && decide (count ≤ (doubleSpares s home).length) && !s.con.failedShelves.elem home && !s.con.failedHalls.elem (hallOf home) then place home
    else match standInFor s (a.1.map (·.shelf)) n count with
      | some x => place x
      | none => none
  foldOpt step ([], (accOf s g.id).housing) g.shelves

/-- Targets in place (R196): each used slot on its present folio; a worn one, or a slot that nothing serves, takes a spare of its
shelf, reserve included. -/
def inPlaceTargets (s : State) (g : Region) : Option (List Target) :=
  let slot := fun (n : Nat) (a : List Nat) (k : Nat) =>
    let home := housedAt s g.id n
    match (servingAt s home k).filter fun f => !wornOut s (folioAt s f) && !(folioAt s f).failed with
    | some f => some (a ++ [f])
    | none => ((usableSpares s home).filter fun f => !a.elem f).head?.map fun f => a ++ [f]
  foldOpt (fun a n => (foldOpt (slot n) [] (usedSlots s.img.bound n)).map fun fs => a ++ shelfTargets s.img.bound g n fs) [] g.shelves

/-- What ACC_BEGIN chooses: targets, housing map, whether in place (R196); none for NO_FOLIOS. -/
def chooseHousing (s : State) (g : Region) (mode : Nat) : Option (List Target × Sparse Nat × Bool) :=
  let double := (doubleHouse s g true).map fun x => (x.1, x.2, false)
  let here := (inPlaceTargets s g).map fun x => (x, (accOf s g.id).housing, true)
  if mode = 1 then double else if mode = 2 then here else match double with
    | some x => some x
    | none => here

/-- Is there staging space under a housing map (R212)? -/
def hbmRoom (s : State) (g : Region) (housing : Sparse Nat) : Bool :=
  (List.range 4).all fun h => decide (copyBytes s.img.bound g housing h ≤ freeKv s h)

/-! ### ACC_BEGIN (R197) -/

/-- Must ACC_BEGIN answer BUSY: four accessions or one here in progress, a bind past step 2 over the region, a rehousing, or a
maintenance window (R197, R383)? -/
def beginBusy (s : State) (r : Nat) : Bool :=
  accBusy (accOf s r) || !(accOf s r).targets.isEmpty || decide (4 ≤ (s.acc.filter fun e => accBusy e.2).length) ||
    bindHolds s r ||
    (match s.con.window with | some w => w.regions.elem r | none => false)

/-- The result of ACC_BEGIN and, where it is OK, the accession it starts (R196, R197, R213). -/
def beginAcc (s : State) (body : Bytes) (f : Fetch) : Nat × Option Manifest × Option Acc :=
  let r := rd body 0 1
  let mode := rd body 1 1
  let a := accOf s r
  if beginBusy s r then (0x01, none, none)
  else if s.img.bound.publishers.isEmpty then (0x02, none, none)
  else if 3 < mode || ((rd body 2 2).testBit 0 && standbyMode s) then (0x04, none, none)
  else match f with
    | .data b =>
      let m := parseManifest b
      let g := s.img.bound.region? r
      if b.length ≠ rd body 0x10 4 || !manifestOk b then (0x04, none, none)
      else match trustFault s b, g with
        | some e, _ => (e, some m, none)
        | none, none => (0x06, some m, none)
        | none, some g =>
          if g.paired != m.paired then (0x06, some m, none)
          else if s.img.bound.geometry g ≠ m.geometry then (0x05, some m, none)
          else if !countsOk s g m then (0x04, some m, none)
          else if mode = 3 then
            if (a.package.map (·.manifest.digest)) ≠ some m.digest then (0x0E, some m, none)
            else if !a.archive && !hbmRoom s g a.housing then (0x0A, some m, none)
            else (0x00, some m, some { a with
              phase := .restoring, restore := true, inPlace := false, manifest := some m, shards := [], fetches := [], targets := []
              commitSeq := none, newHousing := a.housing })
          else match chooseHousing s g mode with
            | none => (0x09, some m, none)
            | some h =>
              if !hbmRoom s g h.2.1 then (0x0A, some m, none)
              else (0x00, some m, some { a with
                phase := .receiving, restore := false, inPlace := h.2.2, manifest := some m, shards := [], fetches := [], targets := h.1
                newHousing := h.2.1, commitSeq := none, intent := a.intent || h.2.2
                offline := a.offline || h.2.2 })
    | _ => (0x04, none, none)

/-- Is some shard of an accession unreceived? -/
def shardMissing (a : Acc) : Bool :=
  match a.manifest with
  | some m => (List.range m.shards.length).any fun i => (sget (fun _ => ([] : Bytes)) a.shards i).isEmpty
  | none => false

/-- The tick at which a timer of ACC.SHARD_TIMEOUT that starts now expires (R208, R216). -/
def shardDue (s : State) : Nat := s.clk.tick + fget s Reg.ACC_SHARD_TIMEOUT.LIMIT_US

/-- The timer of R208 starts where it is to run and does not, and stops where it is not to: with a shard unreceived and no ACC_SHARD outstanding. -/
def armTimer (s : State) (r : Nat) : State :=
  modAcc s r fun a =>
    let runs := (a.phase == .receiving || a.phase == .committing || a.phase == .restoring) && a.fetches.isEmpty && shardMissing a
    { a with timer := if runs then some (a.timer.getD (shardDue s)) else none }

/-- ACC_BEGIN (R197): its checks in order, and the accession or restore that it starts. -/
def execAccBegin (seq : Nat) (f : Fetch) (s : State) : Out :=
  .next (match cmdIn s 1024 seq .begun 0x20 with
    | none => s
    | some k =>
      let r := rd k.body 0 1
      let x := beginAcc s k.body f
      let s1 := match x.2.2 with
        | some a => modAcc s r fun _ => a
        | none => s
      accDone (armTimer s1 r) seq r x.1 x.2.1)

/-! ### Bodies (R187, R189, R198) -/

/-- Bytes [off, off + n) of a body, none while a shard of them has not verified; `fuel` bounds the shards. -/
def bodyBytes (a : Acc) : Nat → Nat → Nat → Option Bytes
  | 0, _, n => if n = 0 then some [] else none
  | fuel + 1, off, n =>
    if n = 0 then some []
    else match sget (fun _ => ([] : Bytes)) a.shards (off / shardSize) with
      | [] => none
      | b =>
        let part := slice b (off % shardSize) n
        if part.isEmpty then none else (bodyBytes a fuel (off + part.length) (n - part.length)).map fun rest => part ++ rest

/-- Block i of a body. -/
def bodyBlock (a : Acc) (paired : Bool) (i : Nat) : Option Bytes := bodyBytes a 3 (i * blockSize paired) (blockSize paired)

/-- A calibration batch of a body. -/
def bodyBatch (a : Acc) (m : Manifest) (i : Nat) : Option Bytes := bodyBytes a 3 (m.calibOff + batchSize * i) batchSize

/-- Does a block keep to R198, with LOGICAL i? The s_w of wide groups are judged by `wideSw`. -/
def blockOk (paired : Bool) (i : Nat) (b : Bytes) : Bool :=
  let cols := List.range 512
  let cells := List.range (1024 * 512)
  decide (rd b 0 4 = i ∧ rd b 4 1 ≤ 6 ∧ rd b 5 1 ≤ 6 ∧ (paired = true ∨ rd b 5 1 = 0) ∧ rd b 6 2 = bitOf paired) && zeroAt b 8 56 &&
    cols.all (fun j => decide (blkM b j ≠ 0) && fpos (blkSq b j) && fpos (blkSw b j)) &&
    cells.all (fun c => decide (blkQ b (c / 512) (c % 512) ≠ -128)) &&
    (!paired || cells.all fun c => decide (-64 ≤ blkF b (c / 512) (c % 512) ∧ blkF b (c / 512) (c % 512) ≤ 63))

/-- Is s_w the same in every leaf of each group that the wide merge takes, as far as its blocks have arrived (R88, R198)? -/
def wideSwOk (s : State) (g : Region) (a : Acc) : Bool :=
  (s.img.bound.reds.filter fun e => e.region == g.id && wideEligible s.img.bound g.id e.stage e.group).all fun e =>
    let bs := ((s.img.bound.groupLeaves g.id e.stage e.group).flatMap fun l =>
      ((s.img.bound.chainEntry? l.2.1).elim [] fun c => c.slots l.2.2).map fun k => (slotBlock s.img.bound g l.2.1 k).1).filterMap (bodyBlock a g.paired)
    match bs with
    | [] => true
    | b :: rest => rest.all fun x => slice x 3136 2048 == slice b 3136 2048

/-- Has some block that has wholly arrived, or some batch, broken R198 or R190? -/
def bodyFault (s : State) (g : Region) (a : Acc) (m : Manifest) : Bool :=
  ((List.range (logicalSlots s.img.bound g).length).any fun i => match bodyBlock a g.paired i with
    | some b => !blockOk g.paired (logicalIndex s.img.bound g i) b
    | none => false) ||
  ((List.range m.stages).any fun i => match bodyBatch a m i with
    | some b => decide (rd b 0 2 ≠ i) || !zeroAt b 2 6
    | none => false) || !wideSwOk s g a

/-- Has every shard verified? -/
def allShards (a : Acc) : Bool :=
  match a.manifest with
  | some m => (List.range m.shards.length).all fun i => !(sget (fun _ => ([] : Bytes)) a.shards i).isEmpty
  | none => false

/-! ### Ends of an accession (R199, R215) -/

/-- The incoming folios of an accession go back (Table 3-7). -/
def abandonIncoming (s : State) (r : Nat) : State :=
  ((accOf s r).targets.map fun t => folioKey t.shelf t.pos).foldl (fun s k =>
    let f := folioAt s k
    if (f.purpose == .accession || f.purpose == .repair) && f.region == r && (f.st == .accessing || f.st == .collating) then giveBack s k else s) s

/-- Commands that wait on an accession finish with a result, each with its record: its ACC_COMMIT, and the ACC_SHARDs whose fetch is outstanding. -/
def releaseAcc (s : State) (r code : Nat) : State :=
  let a := accOf s r
  (a.commitSeq.toList ++ a.fetches.map (·.seq)).foldl (fun s q => accDone s q r code a.manifest) s

/-- An accession ends without a flip: FAILED, or IDLE after a cancel or for a restore (Table 8-4). -/
def endAcc (s : State) (r code : Nat) (ph : AccPhase) : State :=
  modAcc (abandonIncoming (releaseAcc s r code) r) r fun a => { a with
    phase := if a.restore then .idle else ph, manifest := none, shards := [], fetches := [], targets := [], timer := none
    inPlace := false, restore := false, newHousing := [], commitSeq := none }

/-- An accession or a restore fails with a result, which is recorded where no command has it (R215). -/
def failAcc (s : State) (r code : Nat) (told : Bool) : State :=
  let a := accOf s r
  endAcc (if told || a.commitSeq.isSome || !a.fetches.isEmpty then s else accNote s r code a.manifest) r code .failed

/-- A rehousing whose stand-in has run out of spares ends: its folios go back, and the region's next boundary looks for another (R380). -/
def abandonRehousing (s : State) (r : Nat) : State :=
  modAcc (abandonIncoming s r) r fun a => { a with targets := [], newHousing := [] }

/-- A double-housed named shelf moves to the next stand-in of R195, none where there is none: the folios placed for it go back, and its slots are programmed
there. -/
def moveTargets (s : State) (r named : Nat) : Option State :=
  let a := accOf s r
  let mine := a.targets.filter fun t => t.named == named
  let others := (a.targets.filter fun t => t.named != named).map (·.shelf)
  (standInFor s (others ++ mine.map (·.shelf)) named mine.length).map fun x =>
    let gone := mine.map fun t => folioKey t.shelf t.pos
    let s1 := (gone.filter fun k => (folioAt s k).st == .accessing || (folioAt s k).st == .collating).foldl giveBack s
    let new := (mine.zip (doubleSpares s1 x)).map fun t => { t.1 with shelf := t.2 / 68, pos := t.2 % 68 }
    modAcc s1 r fun a => { a with targets := (a.targets.filter fun t => t.named != named) ++ new, newHousing := sset (fun i => i) a.newHousing named x }

/-- A target that cannot be used gives way to the next candidate (R171, R203): a spare of its shelf, whose reserve stands in for stuck cells (R68); where
there is none, for a double-housed shelf, the next stand-in. -/
def retarget (s : State) (r k : Nat) : State :=
  let a := accOf s r
  let used := a.targets.map fun t => folioKey t.shelf t.pos
  match ((usableSpares s (k / 68)).filter fun x => !used.elem x).head? with
  | some x => modAcc s r fun a => { a with targets := a.targets.map fun t =>
      if t.shelf == k / 68 && t.pos == k % 68 then { t with pos := x % 68 } else t }
  | none =>
    if a.phase == .idle then abandonRehousing s r
    else match if a.inPlace then none else (a.targets.find? fun t => t.shelf == k / 68 && t.pos == k % 68).bind fun t => moveTargets s r t.named with
      | some t => t
      | none => failAcc s r 0x09 false

/-! ### Shards (R198, R207, R208) -/

/-- May a region's accession take shards? -/
def takesShards (a : Acc) : Bool :=
  a.phase == .receiving || a.phase == .paused || a.phase == .committing || a.phase == .flipPending || a.phase == .restoring

/-- ACC_SHARD (R197, R199): one shard's fetch begins, unless it has verified. -/
def execAccShard (seq : Nat) (s : State) : Out :=
  .next (match cmdIn s 1024 seq .begun 0x21 with
    | none => s
    | some k =>
      let r := rd k.body 0 1
      let a := accOf s r
      let i := rd k.body 4 4
      match a.manifest.filter fun _ => takesShards a with
      | none => accDone s seq r 0x0F none
      | some m =>
        if ((rd k.body 1 1).testBit 0 && standbyMode s) || (m.shards[i]?.map (·.1)) ≠ some (rd k.body 0x10 4) then accDone s seq r 0x04 (some m)
        else if !(sget (fun _ => ([] : Bytes)) a.shards i).isEmpty then accDone s seq r 0x00 (some m)
        else armTimer (modAcc s r fun a => { a with
          phase := if a.phase == .paused then (if a.restore then .restoring else .receiving) else a.phase
          fetches := a.fetches ++ [⟨seq, i, rd k.body 8 8, (rd k.body 1 1).testBit 0, 1, shardDue s⟩] }) r)

/-- A verified shard: its commands are done; a broken block fails the accession (R198), the last shard of a restore makes the
archive copy resident (R213). -/
def shardVerified (s : State) (r i : Nat) (b : Bytes) : State :=
  let a := accOf s r
  let s1 := modAcc s r fun a => { a with shards := sset (fun _ => ([] : Bytes)) a.shards i b, fetches := a.fetches.filter (·.index != i) }
  let bad : Bool := match s.img.bound.region? r, a.manifest with
    | some g, some m => !a.restore && bodyFault s1 g (accOf s1 r) m
    | _, _ => false
  let code := if bad then 0x08 else 0x00
  let s2 := (a.fetches.filter (·.index == i)).foldl (fun s f => accDone s f.seq r code a.manifest) s1
  if bad then failAcc s2 r 0x08 true
  else if a.restore && allShards (accOf s2 r) then
    modAcc s2 r fun a => { a with phase := .idle, restore := false, archive := true, manifest := none, shards := [], newHousing := [], timer := none }
  else armTimer s2 r

/-- SHARD_FETCH_COMPLETE (R207): verified, asked for again, or failed after four fetches. A fetch without data goes on until
SHARD_TIMEOUT (R208). -/
def execShardFetchComplete (region index : Nat) (f : Fetch) (s : State) : Out :=
  .next (
    let a := accOf s region
    match a.fetches.find? (·.index == index), a.manifest.bind fun m => m.shards[index]? with
    | some x, some e =>
      let again := if x.tries < 4
        then modAcc s region fun a => { a with fetches := modFirst (fun y => y.index == index) (fun y => { y with tries := y.tries + 1, due := shardDue s }) a.fetches }
        else failAcc s region 0x07 false
      match f with
      | .data b => if b.length = e.1 ∧ shake256 b = e.2 then shardVerified s region index b else again
      | .error => again
      | .poisoned => again
      | .timeout => s
      | .lost => s
    | _, _ => s)

/-- SHARD_TIMEOUT (R208): the timer has expired with no ACC_SHARD outstanding, or fetches have had no data for as long, which are abandoned; the accession
or restore pauses and its ACC_COMMIT completes TIMEOUT. An ACC_SHARD that came first has stopped the timer. -/
def execShardTimeout (region : Nat) (s : State) : Out :=
  .next (
    let a := accOf s region
    let late := a.fetches.filter fun f => decide (f.due ≤ s.clk.tick)
    let idle := a.timer.any fun t => decide (t ≤ s.clk.tick)
    if late.isEmpty && !idle then s
    else
      let s1 := late.foldl (fun s f => accDone s f.seq region 0x0B a.manifest) s
      let s2 := a.commitSeq.toList.foldl (fun s q => accDone s q region 0x0B a.manifest) s1
      modAcc s2 region fun a => { a with
        phase := .paused, fetches := a.fetches.filter fun f => decide (s.clk.tick < f.due), commitSeq := none, timer := none })

/-! ### Commit and cancel (R199, R204, R209) -/

/-- ACC_COMMIT (R199, R208): from RECEIVING it starts the commit; PAUSED answers TIMEOUT. -/
def execAccCommit (seq : Nat) (s : State) : Out :=
  .next (match cmdIn s 1024 seq .begun 0x22 with
    | none => s
    | some k =>
      let r := rd k.body 0 1
      let a := accOf s r
      if a.phase == .receiving then modAcc s r fun a => { a with phase := .committing, commitSeq := some seq }
      else accDone s seq r (if a.phase == .paused && !a.restore then 0x0B else 0x0F) a.manifest)

/-- ACC_CANCEL (R199, R209): before the colophon it ends the accession; FAILED becomes IDLE; once the colophon is written the
commit has won. -/
def execAccCancel (seq : Nat) (s : State) : Out :=
  .next (match cmdIn s 1024 seq .begun 0x23 with
    | none => s
    | some k =>
      let r := rd k.body 0 1
      let a := accOf s r
      if a.phase == .receiving || a.phase == .paused || a.phase == .committing then accDone (endAcc s r 0x0C .idle) seq r 0x00 a.manifest
      else if a.phase == .failed then accDone (modAcc s r fun a => { a with phase := .idle }) seq r 0x00 none
      else if a.phase == .flipPending then finish s 1024 seq stAlready 0
      else accDone s seq r 0x0F none)

/-- The folios that an accession or a rehousing fills. -/
def incoming (a : Acc) : List Nat := a.targets.map fun t => folioKey t.shelf t.pos

/-- Is every new folio READY? -/
def allReady (s : State) (a : Acc) : Bool := (incoming a).all fun k => (folioAt s k).st == .collating && (folioAt s k).ready

/-- The blocks and the calibration section of a body that has wholly verified (R204 step 3). -/
def packageOf (s : State) (g : Region) (a : Acc) (m : Manifest) : Package :=
  { manifest := m, blocks := (List.range (logicalSlots s.img.bound g).length).filterMap (bodyBlock a g.paired)
    calib := ((List.range m.stages).filterMap (bodyBatch a m)).flatten }

/-- S_LAG of the bound image. -/
def sLag (s : State) : Nat := s.img.bound.vigil.sLag

/-- The folios of a region that a flip takes out of SERVING. -/
def outgoing (s : State) (r : Nat) : List Nat :=
  (s.arr.folios.filter fun e => e.2.st == .serving && e.2.region == r && e.2.logical != 0x7F).map (·.1)

/-- The flip (R66, R204 step 6, R205): copies in progress are abandoned (R177, R210), outgoing folios leave SERVING, incoming ones
enter it, the housing map, the package with its archive copy and the class-N baseline switch, GENERATION rises, the class-N windows restart (R156), and the
gains follow the new folios' estimates. -/
def flipAccession (s : State) (r : Nat) : State :=
  let a := accOf s r
  let s1 := (copiesOf s r).foldl abandonCopy s
  let s2 := (outgoing s1 r).foldl giveBack s1
  let s3 := modAcc s2 r fun a => { a with
    phase := .idle, housing := a.newHousing, newHousing := [], package := if a.newPackage.isSome then a.newPackage else a.package
    newPackage := none, newNorms := [], timer := none, generation := (a.generation + 1) % 2 ^ 32, intent := false
    retired := false, offline := false, archive := true, manifest := none, shards := [], targets := [], commitSeq := none
    inPlace := false, lastResult := 0, ready := true
    oldArchive := if a.archive then some (a.housing, sLag s, s.clk.epoch) else none }
  let s4 := (incoming a).foldl enterServing s3
  let s5 := deriveGains s4 r
  let s6 := modVig s5 r fun v => { v with
    norms := [], nCount := 0, recorded := a.newNorms.foldl (fun t x => sset (fun _ => (0 : W32)) t x.1 x.2) v.recorded }
  a.commitSeq.toList.foldl (fun s q => finish s 1024 q stOk 0) (reloadPrograms s6 r)

/-- A rehousing whose copies are all READY flips: only the folios of the moved slots leave (R380). -/
def flipRehousing (s : State) (r : Nat) : State :=
  let a := accOf s r
  let gone := a.targets.filterMap fun t => servingAt s (housedAt s r t.named) t.slot
  let s1 := gone.foldl giveBack s
  let s2 := modAcc s1 r fun a => { a with housing := a.newHousing, newHousing := [], targets := [], offline := false }
  reloadPrograms (deriveGains ((incoming a).foldl enterServing s2) r) r

/-- ARCHIVE_COPY_FREE (R205): the copy that a flip replaced is freed after S_LAG passes, once no check refers to it. -/
def execArchiveCopyFree (region : Nat) (s : State) : Out :=
  .next (match (accOf s region).oldArchive with
    | none => s
    | some o =>
      if o.2.1 = 0 && !((vigOf s region).checks.any fun c => decide (c.epoch < o.2.2))
      then modAcc s region fun a => { a with oldArchive := none } else s)

/-! ### Programming (R200, R201, R203, R211) -/

/-- The block that a target is programmed with: a verified one of the body, or one of the committed package for a rehousing. -/
def targetBlock (s : State) (r : Nat) (a : Acc) (t : Target) : Option Bytes :=
  if a.phase == .idle then a.package.bind fun p => p.blocks[t.block]?
  else (s.img.bound.region? r).bind fun g => bodyBlock a g.paired t.block

/-- May a target's folio be programmed now: it is a spare, or serves in place and no pass of the region is in flight (R210)? -/
def targetFree (s : State) (r : Nat) (a : Acc) (t : Target) : Bool :=
  let f := folioAt s (folioKey t.shelf t.pos)
  !wornOut s f && (f.st == .spare || (a.inPlace && f.st == .serving && (passOf s r).isNone))

/-- A target's folio begins to be programmed. -/
def programTarget (s : State) (r : Nat) (a : Acc) (t : Target) : State :=
  match targetBlock s r a t with
  | none => s
  | some b =>
    let paired := blkPaired b
    startProgram s (folioKey t.shelf t.pos) r t.slot (if !paired then 0 else if t.low then 2 else 1)
      (if t.low then rd b 5 1 else rd b 4 1) (if t.low then .low b else .high b) (if a.phase == .idle then .repair else .accession) 0x7F

/-- The targets of a hall that could start, with their regions: accessions in progress, and rehousings. -/
def startable (s : State) (h : Nat) : List (Nat × Target) :=
  s.acc.flatMap fun e =>
    let a := e.2
    if a.phase == .receiving || a.phase == .paused || a.phase == .committing || a.phase == .idle
    then (a.targets.filter fun t => hallOf t.shelf == h && targetFree s e.1 a t && (targetBlock s e.1 a t).isSome).map fun t => (e.1, t)
    else []

/-- FOLIO_PROGRAM_START (R201): a round of a hall starts as many targets as slots and grants allow. -/
def execFolioProgramStart (hall : Nat) (s : State) : Out :=
  .next (if hallOff s hall then s else
    ((startable s hall).take (programSlots s hall .accession (fget s Reg.ACC_CTRL.POWER_DW))).foldl
      (fun s x => programTarget s x.1 (accOf s x.1) x.2) s)

/-- A folio that was being prepared cannot serve and is RETIRED (R171, R203): its accession takes the next candidate; a copy is abandoned, the folio it
would have replaced keeps serving, and wear levelling of that folio may start again at once. -/
def loseFolio (s : State) (k : Nat) : State :=
  let f := folioAt s k
  let s1 := modFolio (dropSweep (toState s k .retired) k) k fun f => { f with ready := false, logical := 0x7F, purpose := .none, replaces := 0x7F }
  if (accOf s f.region).targets.any fun t => t.shelf == k / 68 && t.pos == k % 68 then retarget s1 f.region k
  else if f.purpose == .wear then modFolio s1 (folioKey (k / 68) f.replaces) fun g => { g with leveled := none }
  else s1

/-- FOLIO_PROGRAM_DONE (R200, R202, R203): write-and-verify and trim programming end: COLLATING, or RETIRED with too many stuck
cells. `cells` are the stuck cells with their measured levels in 1/256 level: row, column, cell, G+, G−; a cell that the map lists stays in it. -/
def execFolioProgramDone (shelf pos : Nat) (cells : List (Nat × Nat × Nat × Int × Int)) (s : State) : Out :=
  .next (
    let k := folioKey shelf pos
    let f := folioAt s k
    if hallOff s (hallOf shelf) || f.st != .accessing then s
    else
      let m := stuckMapOf f (measuredCells f s.free cells)
      let s1 := modFolio { s with free := s.free + 1 } k fun f => { f with
        stuckMap := m, stuck := min (uncompensated m) 16383, trimProgs := f.trimProgs + 1, trimDraw := s.free, trims := [] }
      if stuckOk m then toState s1 k .collating
      else loseFolio s1 k)

/-- WEAR_LEVEL (R211): a serving folio's weights move onto the least-worn spare of its shelf when that is 256 accessions younger. -/
def execWearLevel (shelf pos : Nat) (s : State) : Out :=
  .next (
    let k := folioKey shelf pos
    let f := folioAt s k
    match spareFor s shelf 4 with
    | none => s
    | some c =>
      if !hallOff s (hallOf shelf) && f.st == .serving && wearDue s k && (copyOf s k).isNone &&
        decide (0 < programSlots s (hallOf shelf) .wear (s.img.bound.budget 5).powerDw)
      then startCopy (modFolio s k fun f => { f with leveled := some s.clk.tick }) k c .wear else s)

end Sys2Proof.Machine
end

