-- ==== Sys2Proof/Machine/Attention.lean ====
section
/-!
DEFINITION. Sys2Proof/Machine/Attention.lean: fused attention (10_fused_attention.md, R229 to R245): rotation, appends, jobs,
the running softmax and its merge.
-/
namespace Sys2Proof.Machine

/-! ### Rotary positions (R232, R233) -/

/-- The multiple of the angles that row j of a table stands for: the coarse rows first, then the fine ones. -/
def ropeRow (j : Nat) : Nat := if j < 512 then 256 * j else j - 512

/-- The tables of R232 as step 4 of a bind builds them. -/
def ropeTable (hall base scale dims : Nat) : HallTable :=
  let ws := (List.range (dims / 2)).map (ropeFreq (BitVec.ofNat 32 base) (BitVec.ofNat 32 scale) dims)
  { hall := hall, base := base, scale := scale, dims := dims, bad := []
    entries := (List.range 768).flatMap fun j => ws.map fun w => (ropeCos w (ropeRow j), ropeSin w (ropeRow j)) }

/-- The distinct parameters of the layers with rotation whose region may run its attention in a hall (R232, R252). -/
def ropeParams (s : State) (h : Nat) : List (Nat × Nat × Nat) :=
  ((s.img.bound.regions.filter fun r => (kvHalls s r.id).elem h).flatMap fun r =>
    ((attnLayers s.img.bound r.id).filter fun a => a.2.ropeMode != 0).map fun a => (a.2.ropeBase, a.2.ropeScale, a.2.ropeDims)).eraseDups

/-- The tables are built afresh in the stores of some halls (R232, Table 16-4 step 5). -/
def buildTables (hs : List Nat) (s : State) : State :=
  { s with scr := { s.scr with tables := (s.scr.tables.filter fun t => !hs.elem t.hall) ++
      (hs.flatMap fun h => (ropeParams s h).map fun x => ropeTable h x.1 x.2.1 x.2.2) } }

/-- The tables that a hall reads for a layer. -/
def tableFor (s : State) (h : Nat) (a : Attn) : HallTable :=
  (s.scr.tables.find? fun t => t.hall == h && t.base == a.ropeBase && t.scale == a.ropeScale && t.dims == a.ropeDims).getD
    (ropeTable h a.ropeBase a.ropeScale a.ropeDims)

/-- An entry of a table, row j of angle i, with its poison (R244). -/
def ropeEntry (t : HallTable) (j i : Nat) : (W32 × W32) × Bool :=
  let k := j * (t.dims / 2) + i
  (t.entries.getD k (0, 0), t.bad.elem (k / 8))

/-- The cosine and sine of a position, and whether an entry that they took is poisoned (R233, R244). -/
def ropeAngle (t : HallTable) (pos i : Nat) : (W32 × W32) × Bool :=
  let ((cc, sc), x) := ropeEntry t (pos / 256) i
  let ((cf, sf), y) := ropeEntry t (512 + pos % 256) i
  ((fsub (fmul cc cf) (fmul sc sf), fadd (fmul sc cf) (fmul cc sf)), x || y)

/-- Element k of a head rotated at a position (R233). -/
def ropeElem (t : HallTable) (a : Attn) (pos : Nat) (head : List W32) (k : Nat) : W32 × Bool :=
  let x := head.getD k 0
  if a.ropeMode = 0 || a.ropeDims ≤ k then (x, false)
  else
    let half := a.ropeDims / 2
    let (i, first, other) := if a.ropeMode = 1 then (k / 2, k % 2 == 0, if k % 2 = 0 then k + 1 else k - 1)
      else (k % half, decide (k < half), if k < half then k + half else k - half)
    let ((cs, sn), bad) := ropeAngle t pos i
    let y := head.getD other 0
    (if first then fsub (fmul x cs) (fmul y sn) else fadd (fmul y sn) (fmul x cs), bad)

/-- A head rotated, and whether it consumed a poisoned table entry. -/
def ropeHead (t : HallTable) (a : Attn) (pos : Nat) (head : List W32) : List W32 × Bool :=
  let es := (List.range a.d).map (ropeElem t a pos head)
  (es.map (·.1), es.any (·.2))

/-- Head number h of the QKV output of a vector: query heads, then key heads, then value heads (R231). -/
def qkvHead (s : State) (p : Pass) (a : Attn) (v h : Nat) : List PVal := ((stageOut s p a.qkvStage v).drop (h * a.d)).take a.d

/-- q′ of a query head at a position, and whether it is poisoned (R235, R244). -/
def queryHead (s : State) (t : HallTable) (p : Pass) (a : Attn) (v pos h : Nat) : List W32 × Bool :=
  let xs := qkvHead s p a v h
  let (ys, bad) := ropeHead t a pos (xs.map (·.val))
  (ys.map fun x => bf16R (fmul x (BitVec.ofNat 32 a.smScale)), bad || xs.any (·.bad))

/-! ### Pages (R236, R237, R251) -/

/-- The element format of a page format code. -/
def kvFmt (fmt : Nat) : Fmt := match fmt with | 0 => .mxE4m3 | 1 => .mxE2m1 | _ => .bf16

/-- One head encoded for a page: its bytes, and zero, saturating and NaN blocks (R135 to R137, R236). -/
def encodeHead (fmt : Nat) (xs : List W32) : Bytes × Nat × Nat × Nat :=
  let f := kvFmt fmt
  if f.isMx then
    let bs := (groupsOf 32 (xs.length / 32) xs).map (encMx f)
    (packElems f (bs.map (·.codes)).flatten ++ bs.map (fun b => BitVec.ofNat 8 b.scale), (bs.filter (·.zero)).length, (bs.filter (·.sat)).length
      , (bs.filter (·.nan)).length)
  else (packElems f (xs.map fun x => (encElem f (decF x)).code), 0, 0, 0)

/-- One head of a page widened to BF16 values (R237). -/
def decodeHead (fmt d : Nat) (b : Bytes) : List W32 :=
  let f := kvFmt fmt
  let codes := unpackElems f d b
  if f.isMx then codes.zipIdx.map fun c => bf16R (toF (decMx f (rd b (d * f.width / 8 + c.2 / 32) 1) c.1))
  else codes.map fun c => BitVec.ofNat 32 (c * 65536)

/-- The layer group of an attention layer of a region, with its number. -/
def groupOfAttn (s : State) (r : Nat) (a : Attn) : Option (Nat × List Attn) :=
  ((layerGroups s.img.bound r).zipIdx.find? fun g => g.1.any fun b => b.qkvStage == a.qkvStage).map fun g => (g.2, g.1)

/-- Where a key head (or a value head) of a position of a session lies: hall, catalogue index, HBM address, bytes, format. -/
def headPlace (s : State) (x : Session) (a : Attn) (isV : Bool) (pos kv : Nat) : Option (Nat × Nat × Nat × Nat × Nat) :=
  match x.hall, groupOfAttn s x.region a with
  | some h, some (g, grp) =>
    let k := pageOf pos
    match findPage x g k with
    | none => none
    | some i =>
      let pg := pageAt s h i
      ((pageAreas grp pg.format (pageSpan k))[2 * a.kvSlot + bitOf isV]?).map fun ar =>
        let one := ar.2 / a.hkv
        (h, i, pg.addr + ar.1 + (pos - pageFirst k) * ar.2 + kv * one, one, pg.format)
  | _, _ => none

/-- Is any byte of a range of HBM in a poisoned line? -/
def rangeBad (s : State) (h a n : Nat) : Bool := (List.range ((a + n - 1) / 64 + 1 - a / 64)).any fun i => lineBad s h (a / 64 * 64 + 64 * i)

/-- A head as attention reads it: widened values, and whether a line of it is poisoned (R237, R244); +0 beyond the pages. -/
def readHead (s : State) (x : Session) (a : Attn) (isV : Bool) (pos kv : Nat) : List W32 × Bool :=
  match headPlace s x a isV pos kv with
  | none => (List.replicate a.d 0, false)
  | some (h, _, addr, n, fmt) => (decodeHead fmt a.d (hbmBytes s h addr n), rangeBad s h addr n)

/-- A mark joins those of a pass: the first of a session's page stands, with the lines of all. -/
def addMark (m : AppendMark) : List AppendMark → List AppendMark
  | [] => [m]
  | x :: xs => if x.session = m.session ∧ x.hall = m.hall ∧ x.page = m.page then { x with lines := x.lines ++ m.lines } :: xs else x :: addMark m xs

/-- A head is appended (R236, R254): its bytes, the counts of its blocks, the page's epochs, and poison where it is poisoned; a line that was
poisoned stays so (R265). The pass keeps what the page was before. -/
def appendHead (s : State) (p : Pass) (x : Session) (a : Attn) (isV : Bool) (pos kv : Nat) (head : List PVal) : State :=
  match headPlace s x a isV pos kv with
  | none => s
  | some (h, i, addr, n, fmt) =>
    let (bytes, nz, sat, nan) := encodeHead fmt (head.map (·.val))
    let bad := head.any (·.bad)
    let old := pageAt s h i
    let cnt := (addr + n - 1) / 64 + 1 - addr / 64
    let fresh := if bad then ((List.range cnt).filter fun j => !lineBad s h (addr / 64 * 64 + 64 * j)).map fun j => lineKey h addr + j else []
    let s1 := hbmWrite s h addr bytes
    let s2 := if bad then spoilLines (if old.poison then s1 else fbump s1 (Reg.KVC_STATS.POISON_PAGES h) 1) h (addr / 64 * 64) (cnt * 64) else s1
    let s3 := modPage s2 h i fun g => { g with epochLast := p.epoch, epochFirst := if g.fill = 0 then p.epoch else g.epochFirst, poison := g.poison || bad }
    let s4 := fbump (fbump (fbump s3 (Reg.SCR_BLOCK_STATS.ZERO h) nz) (Reg.SCR_BLOCK_STATS.SAT h) sat) (Reg.SCR_BLOCK_STATS.NAN h) nan
    modPass s4 p.region fun q => { q with
      flags := q.flags ||| (if 0 < nz then 8 else 0) ||| (if 0 < sat then 16 else 0)
      marks := addMark ⟨x.handle, h, i, old.epochFirst, old.epochLast, old.poison, fresh⟩ q.marks }

/-- The first position that the attention of a layer reads for a session whose first new token stands at t: that of the block of the earliest
visible key (R238, R239). -/
def firstRead (a : Attn) (t : Nat) : Nat := if a.window = 0 then 0 else (t + 1 - a.window) / 64 * 64

/-- The formats of the pages that a session's attention of a layer reads in a pass of n tokens (R237). -/
def pageFormats (s : State) (x : Session) (a : Attn) (n : Nat) : List Nat :=
  match x.hall, groupOfAttn s x.region a with
  | some h, some (g, _) => ((x.pages.filter fun q => q.1 == g && decide (pageFirst q.2.1 < n ∧ firstRead a x.length < pageFirst q.2.1 + pageSpan q.2.1)).map
      fun q => (pageAt s h q.2.2).format).eraseDups
  | _, _ => []

/-- Has a session's attention in a pass read pages of several formats (R237)? -/
def mixedFormats (p : Pass) (h : Nat) : Bool := decide (1 < (((p.formats.filter fun e => e.1 == h).map (·.2)).eraseDups).length)

/-- KV_APPEND (R236): the new keys, rotated, and values of a session go into its pages before any score of the layer is
computed, once for a pass and stage; attention that reads pages of several formats flags the command (R237). -/
def kvAppend (s : State) (r st h : Nat) : State :=
  match passOf s r, qkvAttn s r st, findSession s h with
  | some p, some a, some x =>
    if p.appended.elem (h, st) then s
    else
      let vs := p.vecs.zipIdx.filter fun v => v.1.session == h
      let t := tableFor s (x.hall.getD 0) a
      let s1 := vs.foldl (fun s v => (List.range a.hkv).foldl (fun s kv =>
        let kh := qkvHead s p a v.2 (a.g * a.hkv + kv)
        let (ys, spoiled) := ropeHead t a v.1.pos (kh.map (·.val))
        let key := ys.map fun y => (⟨y, spoiled || kh.any (·.bad)⟩ : PVal)
        appendHead (appendHead s p x a false v.1.pos kv key) p x a true v.1.pos kv (qkvHead s p a v.2 ((a.g + 1) * a.hkv + kv))) s) s
      let s2 := modPass s1 r fun q => { q with appended := (h, st) :: q.appended
                                               formats := q.formats ++ (pageFormats s x a (passLength s p h)).map fun f => (h, f) }
      modPass s2 r fun q => { q with flags := q.flags ||| (if mixedFormats q h then 4 else 0) }
  | _, _, _ => s

/-! ### The running softmax (R238 to R241) -/

/-- −∞ and +0. -/
def negInf : W32 := infBits true
def posZero : W32 := zeroBits false

/-- Is key position j visible to a query token at position t of a session of n tokens (R239)? -/
def visible (a : Attn) (n t j : Nat) : Bool := decide (j ≤ t) && (a.window == 0 || decide (t < j + a.window)) && decide (j < n)

/-- The blocks of part k (R238). -/
def partBlocks (n k : Nat) : List Nat :=
  let nb := kvBlocks n
  (List.range (((k + 1) * nb) / kvParts n)).drop (k * nb / kvParts n)

/-- A block's key or value rows: positions that no row of the tile sees, and positions at or beyond n, are +0 and are not read
(R239). -/
def blockRows (s : State) (x : Session) (a : Attn) (isV : Bool) (n kv b : Nat) (ts : List Nat) : List (List W32 × Bool) :=
  let seen := (List.range 64).any fun j => ts.any fun t => visible a n t (64 * b + j)
  (List.range 64).map fun j => if seen && decide (64 * b + j < n) then readHead s x a isV (64 * b + j) kv else (List.replicate a.d posZero, false)

/-- The row sum of R106: pairwise over the lanes. -/
def rowSum (xs : List W32) : W32 := (tree fadd xs).getD posZero

/-- One block added to a row's running softmax (R240, R241). -/
def softmaxBlock (a : Attn) (q : List W32) (t n b : Nat) (ks vs : List (List W32)) (r : Partial) : Partial :=
  let sc := ks.zipIdx.map fun k => if visible a n t (64 * b + k.2)
    then accumulate posZero (List.zipWith (fun u w => mulFV (decF u) (decF w)) q k.1) else negInf
  let top := selectIdx true (sc.zipIdx.map fun x => ⟨x.1, x.2⟩)
  let bm := if isNaN top.val then negInf else top.val
  let addV := fun (ps : List W32) (acc : List W32) => acc.zipIdx.map fun c =>
    accumulate c.1 (List.zipWith (fun u (v : List W32) => mulFV (decF (bf16R u)) (decF (v.getD c.2 0))) ps vs)
  if bm = negInf then { r with acc := addV (sc.map fun _ => posZero) r.acc }
  else
    let up := flt r.m bm
    let al := vexp (fsub r.m bm)
    let m := if up then bm else r.m
    let l := if up then fmul r.l al else r.l
    let acc := if up then r.acc.map fun c => fmul c al else r.acc
    let ps := sc.map fun y => vexp (fsub y m)
    { r with m := m, l := fadd l (rowSum ps), acc := addV ps acc }

/-- The vectors of a row tile of a session: index in the pass and position. -/
def tileVecs (p : Pass) (a : Attn) (h tile : Nat) : List (Nat × Nat) :=
  (((p.vecs.zipIdx.filter fun v => v.1.session == h).map fun v => (v.2, v.1.pos)).drop (tile * tileTokens a)).take (tileTokens a)

/-- A job's partials, one per used row (R240); poison of a page line or of q′ goes with the row (R244). -/
def jobPartials (s : State) (p : Pass) (a : Attn) (x : Session) (j : Job) : List Partial :=
  let n := passLength s p j.session
  let vs := tileVecs p a j.session j.tile
  let ts := vs.map (·.2)
  let blocks := (partBlocks n j.part).map fun b => (b, blockRows s x a false n j.kv b ts, blockRows s x a true n j.kv b ts)
  let bad := blocks.any fun b => b.2.1.any (·.2) || b.2.2.any (·.2)
  let failed := p.faults.any fun f => f.2 == j
  let t := tableFor s (x.hall.getD 0) a
  vs.flatMap fun v => (List.range a.g).map fun g =>
    let (q, qb) := queryHead s t p a v.1 v.2 (a.g * j.kv + g)
    blocks.foldl (fun r b => softmaxBlock a q v.2 n b.1 (b.2.1.map (·.1)) (b.2.2.map (·.1)) r)
      { m := negInf, l := posZero, acc := List.replicate a.d posZero, bad := bad || qb || failed }

/-- The key of a job's partials. -/
def partKey (si st tile kv part : Nat) : Nat := attnKey si st tile kv * 16 + part

/-- An attention job ends: its partials stand (R240). -/
def finishAttn (s : State) (j : Job) : State :=
  match passOf s j.region with
  | none => s
  | some p => match qkvAttn s j.region j.stage, findSession s j.session with
    | some a, some x =>
      let key := partKey (p.sessions.idxOf j.session) j.stage j.tile j.kv j.part
      let ps := jobPartials s p a x j
      modPass s j.region fun p => { p with parts := sset (fun _ => none) p.parts key (some ps) }
    | _, _ => s

/-! ### Merge and normalisation (R242, R243) -/

/-- Two partials combined (R242). -/
def mergePart (x y : Partial) : Partial :=
  let bad := x.bad || y.bad
  if x.m = negInf then { y with bad := bad }
  else if y.m = negInf then { x with bad := bad }
  else
    let m := if flt x.m y.m then y.m else x.m
    let e1 := if fkey x.m = fkey m then fone else vexp (fsub x.m m)
    let e2 := if fkey y.m = fkey m then fone else vexp (fsub y.m m)
    { m := m, l := fadd (fmul x.l e1) (fmul y.l e2), acc := List.zipWith (fun u v => fadd (fmul u e1) (fmul v e2)) x.acc y.acc, bad := bad }

/-- o = fl(acc × vrcp(l)) (R243). -/
def normalise (r : Partial) : List PVal := r.acc.map fun c => ⟨fmul c (vrcp r.l), r.bad⟩

/-- The partials of every part of a row tile and head, in part order; none while one is missing. -/
def allParts (p : Pass) (si st tile kv parts : Nat) : Option (List (List Partial)) :=
  (List.range parts).foldr (fun k acc => match acc, sget (fun _ => none) p.parts (partKey si st tile kv k) with
    | some xs, some x => some (x :: xs)
    | _, _ => none) (some [])

/-- ATTENTION_MERGE (R242, R243): once the partials of every part of a row tile and head are there, they merge by the pairwise
tree in part order, and each row is normalised once. -/
def execAttentionMerge (region stage session tile kv : Nat) (s : State) : Out :=
  .next (match passOf s region with
    | none => s
    | some p =>
      let si := p.sessions.idxOf session
      let n := passLength s p session
      if !p.sessions.elem session || (sget (fun _ => none) p.attn (attnKey si stage tile kv)).isSome || kvParts n = 0 then s
      else match allParts p si stage tile kv (kvParts n) with
        | none => s
        | some ps => match tree (List.zipWith mergePart) ps with
          | none => s
          | some root =>
            let rows := root.map normalise
            modPass s region fun p => { p with attn := sset (fun _ => none) p.attn (attnKey si stage tile kv) (some rows) })

end Sys2Proof.Machine
end

