-- ==== Sys2Proof/Machine/RegWrite.lean ====
section
/-!
DEFINITION. Sys2Proof/Machine/RegWrite.lean: what a write does to the fields of a register (00 R6 to R8; 12 R288; 13 R309; 15 R343;
17 R366; 18 R398; 21 R426 to R430), and which voltages the operating points have (15 R326 to R328).
-/
namespace Sys2Proof.Machine

/-! ### Operating points (R326 to R328) -/

/-- G_age in µV for a die's operating hours (R327): min(20 mV, 3 mV × log2(1 + H ÷ 1,000 h)), whose rounding to whole µV is not stated (log
entry 17). -/
def ageUv (hours : Nat) : Nat := min 20000 ((⟨3000 * fxLog 2 (1000 + hours) 1000, fxOne⟩ : Frac).either).toNat

/-- The scribe clock of a point in MHz (Table 15-1). -/
def pointMhz (p : Nat) : Nat := [1600, 1500, 1400, 1300, 1200, 1100, 1000, 800].getD p 800

/-- Is the fallback table of the boot ROM in use (R328)? -/
def fallbackTable (s : State) : Bool := fget s Reg.PWR_STATUS.FALLBACK == 1

/-- VMIN of a die at a point, in mV, from the test record (R327). -/
def vmin (s : State) (die p : Nat) : Nat := ((s.pwr.record).elim [] (·.vmin)).getD (8 * die + p) 0

/-- VSET of a die at a point, in µV (R327, R328). -/
def vsetUv (s : State) (die p : Nat) : Nat :=
  if fallbackTable s then 850000 else (vmin s die p + 10) * 1000 + sget (fun _ => (0 : Nat)) s.pwr.guardUv die

/-- Is a point withdrawn from a die: by its VSET above 0.88 V, or points 0 and 1 by the fallback table (R327, R328)? -/
def withdrawn (s : State) (die p : Nat) : Bool := if fallbackTable s then decide (p < 2) else decide (880000 < vsetUv s die p)

/-- The highest point that a die may use: the lowest number not withdrawn. -/
def topPoint (s : State) (die : Nat) : Nat := ((List.range 8).find? fun p => !withdrawn s die p).getD 7

/-! ### Addresses (R426) -/

/-- The global address that a function's BAR0 offset names; none where the function has no such BAR. -/
def barAddr (fn : Fn) (off : Nat) : Option Nat :=
  match fn with
  | .pf0 => if off < pf1Base then some off else none
  | .pf1 => if off < 0x118 then some (carBase 1024 + off) else if off < 0x100000 then some (pf1Base + off) else none
  | .pf2 => if off < 0x10000 then some (pf2Base + off) else none
  | .vf n => if n < 1024 && decide (off < 0x10000) then some (carBase n + off) else none

/-- The MSI-X table word that an offset names (Tables 21-2 to 21-4), keyed by function and word. -/
def msixKey (fn : Fn) (off : Nat) : Option Nat :=
  match fn with
  | .pf0 => if 0xF0000 ≤ off ∧ off < 0xF0080 then some (1025 * 16 + (off - 0xF0000) / 8) else none
  | .pf1 => if 0xF0000 ≤ off ∧ off < 0xF0080 then some (1024 * 16 + (off - 0xF0000) / 8) else none
  | .pf2 => none
  | .vf n => if n < 1024 ∧ 0xF000 ≤ off ∧ off < 0xF080 then some (n * 16 + (off - 0xF000) / 8) else none

/-- Does an offset lie in the function's MSI-X pending-bit array (Tables 21-2 to 21-4)? -/
def pendingAt (fn : Fn) (off : Nat) : Bool :=
  match fn with
  | .pf0 => decide (0xF8000 ≤ off ∧ off < 0xF8008)
  | .pf1 => decide (0xF8000 ≤ off ∧ off < 0xF8008)
  | .pf2 => false
  | .vf n => decide (n < 1024 ∧ 0xF800 ≤ off ∧ off < 0xF808)

/-- The domain that an access belongs to (R431, Table 21-2): 1 registers and intake, 2 curator, 4 + h hall h. -/
def domainOf (fn : Fn) (off : Nat) : Nat :=
  match fn with
  | .pf0 =>
    if 0x101000 ≤ off ∧ off < 0x106000 ∨ 0x180000 ≤ off ∧ off < 0x200000 then 2
    else if 0x300000 ≤ off ∧ off < 0x360000 then 4 + (off - 0x300000) / 0x4000 / 6
    else if 0x400000 ≤ off ∧ off < 0x800000 then off / 0x100000
    else if 0x1000000 ≤ off ∧ off < 0x4000000 then 4 + (off - 0x1000000) / 0xC00000
    else 1
  | _ => 1

/-- Where the register at an address keeps its value: a register behind a selector keeps one for each thing selected (R432). -/
def homeOf (s : State) (a : Nat) : Nat :=
  let die := fget s Reg.MON_SEL.DIE
  if a = 0x201008 then monBase die (fget s Reg.MON_SEL.SLOT)
  else if a = 0x201010 then monBase die (fget s Reg.MON_SEL.SLOT) + 1
  else if a = 0x201018 then monBase die (fget s Reg.MON_SEL.SLOT) + 2
  else if a = 0x201020 then monDieBase die
  else if a = 0x201028 then monDieBase die + 1
  else if a = pf1Base + 0x7018 then adpStatsBase (fget s Reg.ADP_SEL.CARREL)
  else if 0x400000 ≤ a ∧ a < 0x800000 ∧ a % 0x100000 = 0x3010 then
    scrFaultBase ((a / 0x100000 - 4) * 128 + fget s (Reg.SCR_SEL.SHELF (a / 0x100000 - 4)))
  else a

/-! ### Fields (R6, R8) -/

/-- Does a field's map list a value? -/
def inMap (f : FieldDef) (x : Nat) : Bool := f.ok.isEmpty || f.ok.any fun r => decide (r.1 ≤ x ∧ x ≤ r.2)

/-- What else must hold before a field of a register takes a value: conditions and ranges of its map that depend on state or on the
register's other fields, which `v` holds as written. -/
def mayTake (s : State) (a v : Nat) (f : FieldDef) (x : Nat) : Bool :=
  if 0x300000 ≤ a ∧ a < 0x360000 then
    let n := (a - 0x300000) / 0x4000
    let r := (a - 0x300000) % 0x4000
    if r = 0 ∧ f.lo = 2 then decide (fget s (Reg.TSX_CTRL.ENABLE n) = 0) || decide (x = fget s (Reg.TSX_CTRL.LOOPBACK n))
    else if r = 0x40 ∧ f.lo = 16 then (if nbits v 4 2 = 0 then decide (4 ≤ x ∧ x ≤ 40) else decide (1 ≤ x))
    else if r = 0x40 ∧ f.lo = 32 then (if nbits v 1 3 = 2 then decide (1 ≤ x ∧ x ≤ 32) else decide (1 ≤ x))
    else true
  else if a = 0x109020 then decide (fget s Reg.CUR_FSR_RING.ENABLE = 0) || decide (x = nbits (rget s a).toNat f.lo f.w)
  else if a = 0x200000 ∧ f.lo = 4 then !((List.range 4).any fun h => withdrawn s h x)
  else if a = 0x201000 ∧ f.lo = 0 then
    decide (x < 16) || decide ((if nbits v 8 3 ≤ 4 then nbits v 8 3 else fget s Reg.MON_SEL.DIE) = 4)
  else if a = 0x201008 ∨ a = 0x201010 then decide (8 ≤ fget s Reg.MON_SEL.SLOT ∧ fget s Reg.MON_SEL.SLOT < 16)
  else true

/-- Does a comet or a swap-out of a carrel stand in the way of a new swap region (R288)? -/
def swapBusy (s : State) (c : Nat) : Bool :=
  s.kv.sessions.any fun x => handleCarrel x.handle == c && x.res != .resident

/-- Is a whole write ignored by its register's map (R8)? `v` is the register with the written half laid over it. -/
def wholeIgnored (s : State) (a v : Nat) (fs : List FieldDef) : Bool :=
  fs.any (fun f => f.acc == .wo && !inMap f (nbits v f.lo f.w)) ||
    (decide (0x300000 ≤ a ∧ a < 0x360000 ∧ a % 0x4000 = 0x18) &&
      (fs.any (fun f => !inMap f (nbits v f.lo f.w)) || decide (nbits v 32 16 < 4 * nbits v 16 16))) ||
    (decide (0x8000000 ≤ a) && decide (a % 0x10000 = 0) && fget s (Reg.CAR_RING_CTRL.ENABLE ((a - 0x8000000) / 0x10000)) == 1) ||
    (decide (0x8000000 ≤ a) && decide (a % 0x10000 = 0x18) && swapBusy s ((a - 0x8000000) / 0x10000))

/-- The fields of a register after a write of bits [lo, hi) (R6, R8, R430), and whether any was refused: only fields wholly within those
bits act, and those with a row of their own are left to it. -/
def writeFields (s : State) (a v lo hi : Nat) : List FieldDef → W64 → W64 × Bool
  | [], r => (r, false)
  | f :: fs, r =>
    let (r1, bad) := writeFields s a v lo hi fs r
    let x := nbits v f.lo f.w
    if f.lo < lo || hi < f.lo + f.w || f.own then (r1, bad)
    else match f.acc with
      | .rw => if inMap f x && mayTake s a v f x then (withField r1 f.lo f.w x, bad) else (r1, true)
      | .w1c => (withField r1 f.lo f.w (fieldOf r1 f.lo f.w &&& (2 ^ f.w - 1 - x)), bad)
      | _ => (r1, bad)

/-- Bits of the written range that belong to no field (RSV). -/
def reservedSet (v lo hi : Nat) (fs : List FieldDef) : Bool :=
  (List.range 64).any fun b => decide (lo ≤ b ∧ b < hi) && v.testBit b && !(fs.any fun f => decide (f.lo ≤ b ∧ b < f.lo + f.w))

/-- A write of `width` bytes at an offset reaches the register file: the address and the register's new value, or none where the
write is ignored as a whole; and whether it is recorded (R8, R427, R430). -/
def writeReg (s : State) (fn : Fn) (off width value : Nat) : Option (Nat × W64) × Bool :=
  if (width ≠ 4 && width ≠ 8) || off % width ≠ 0 then (none, true)
  else match barAddr fn (off / 8 * 8) with
    | none => (none, true)
    | some a => match regAt a with
      | none => (none, true)
      | some d =>
        let lo := off % 8 * 8
        let hi := lo + 8 * width
        let cur := rget s (homeOf s a)
        let w := (value % 2 ^ (8 * width)) * 2 ^ lo
        let v := (withField cur lo (8 * width) value).toNat
        if (width ≠ 8 && d.fields.any (fun f => f.acc == .wo)) || wholeIgnored s a v d.fields then (none, true)
        else
          let (r, bad) := writeFields s a v lo hi d.fields cur
          (some (a, r), bad || reservedSet w lo hi d.fields)

end Sys2Proof.Machine
end

