-- ==== Sys2Proof/Machine/Power.lean ====
section
/-!
DEFINITION. Sys2Proof/Machine/Power.lean: the power cap, the broker, point changes, hints, thermal control and droop (15: R326 to
R343).

No lever changes a result (R14); what is kept here are the limits, the reasons and the points. What the broker measures comes with its
cycle; grants are whole tenths of a watt, rounded down (log entry 50).
-/
namespace Sys2Proof.Machine

/-! ### Profiles (R333) -/

/-- The key of a profile. -/
def profileKey (r tag h : Nat) : Nat := (r * 64 + tag) * 4 + h

/-- A region's profile of a tag in a hall; before the first instance p̂ is TAG_SEED and û is 1. -/
def profileOf (s : State) (r tag h : Nat) : Profile :=
  (sget (fun _ => none) s.pwr.profiles (profileKey r tag h)).getD
    { p := s.img.bound.power.tagSeed.getD tag 0, u := 256, d := 0 }

/-- v + (observed − v) ÷ 16, rounded toward the old value's floor (R333). -/
def learn (v obs : Nat) : Nat := ((v : Int) + ((obs : Int) - v) / 16).toNat

/-- A phase instance has completed: what was observed, in unthrottled terms, moves the profile (R333). -/
def learnPhase (s : State) (r tag h p u d : Nat) : State :=
  let x := profileOf s r tag h
  let y : Profile := { p := learn x.p p, u := learn x.u u, d := learn x.d d }
  { s with pwr := { s.pwr with profiles := sset (fun _ => none) s.pwr.profiles (profileKey r tag h) (some y) } }

/-! ### Limits and reasons (R340) -/

/-- The hints that concern a hall: their region runs there (R337). -/
def hallHints (s : State) (h : Nat) : List Hint := s.pwr.hints.filter fun x => (regionHalls s x.region).elem h

/-- What the input may draw under ILIM, in 0.1 W: ILIM in 0.1 A times the input voltage in 0.01 V. -/
def ilimDw (s : State) : Nat := fget s Reg.PWR_CAP.ILIM_DA * s.pwr.last.inputCv / 100

/-- The lower of cap and current limit: 2 CAP, 3 CURRENT. -/
def inputLimit (s : State) : Nat := if s.pwr.last.inputCv ≠ 0 ∧ ilimDw s < fget s Reg.PWR_CAP.CAP_DW then 3 else 2

/-- The limits on a hall's activity by reason, but for DROOP (Table 15-4); 256 is none. -/
def hallLimits (s : State) (h : Nat) : List (Nat × Nat) :=
  let x := hallPower s h
  let cut := fun c => if inputLimit s = c then x.cut else 256
  [(1, x.thermal), (2, min x.cap (cut 2)), (3, min x.current (cut 3)), (5, min 256 (x.activity + fget s Reg.PWR_CTRL.SLOPE)),
   (6, fget s Reg.PWR_CTRL.HOST_CEILING), (7, (s.orb.limit.map (·.1)).getD 256)]

/-- The least of some limits. -/
def lowest (xs : List (Nat × Nat)) : Nat := (xs.map (·.2)).foldl min 256

/-- Does repeated droop lower a hall's ceiling now (R341)? -/
def droopLowered (s : State) (h : Nat) : Bool := decide (s.clk.tick < (hallPower s h).droopUntil)

/-- The ceiling that the broker sets on a hall (R330, R339, R341): the least limit but SLOPE, and 16/256 less after repeated droop. -/
def ceilingOf (s : State) (h : Nat) : Nat :=
  let m := lowest ((hallLimits s h).filter fun l => l.1 != 5)
  if droopLowered s h then m - 16 else m

/-- The reasons active in a hall (R340): the lowest limits, where they lie below its demand; DROOP during a stretch or a lowering. -/
def activeReasons (s : State) (h : Nat) : List Nat :=
  let ls := hallLimits s h
  let low := lowest ls
  (if low < (hallPower s h).demand then (ls.filter fun l => l.2 == low).map (·.1) else []) ++
    (if (hallPower s h).stretched || droopLowered s h then [4] else [])

/-- Reasons as a mask: bit c − 1. -/
def reasonMask (rs : List Nat) : Nat := rs.foldl (fun m c => m ||| 2 ^ (c - 1)) 0

/-- Passes in flight that use a hall carry THROTTLED (R340). -/
def markThrottled (s : State) (h : Nat) : State :=
  { s with run := { s.run with live := s.run.live.map fun p =>
    if (regionHalls s p.region).elem h then { p with flags := p.flags ||| 32 } else p } }

/-- PWR.STATUS.REASONS: the reasons active in some hall. -/
def showReasons (s : State) : State :=
  fset s Reg.PWR_STATUS.REASONS ((List.range 4).foldl (fun m h => m ||| fget s (Reg.PWR_HALL_STATUS.REASONS h)) 0)

/-- The ceiling and the reasons of a hall are set anew (R340): a reason that ends leaves a THROTTLE record with its duration; passes that
ran while one was active carry THROTTLED. -/
def refreshHall (s : State) (h : Nat) : State :=
  let old := (hallPower s h).since
  let rs := activeReasons s h
  let ended := old.filter fun x => !rs.elem x.1
  let begun := (rs.filter fun c => !old.any fun x => x.1 == c).map fun c => (c, s.clk.tick)
  let s1 := ended.foldl (fun s x => annal s 0x0800 0 { die := some h } x.1 (s.clk.tick - x.2) 0) s
  let s2 := modHall s1 h fun x => { x with since := old.filter (fun y => rs.elem y.1) ++ begun }
  let s3 := fset (fset s2 (Reg.PWR_HALL_STATUS.CEILING h) (ceilingOf s h)) (Reg.PWR_HALL_STATUS.REASONS h) (reasonMask rs)
  showReasons (if old.isEmpty && rs.isEmpty then s3 else markThrottled s3 h)

/-! ### Point changes (R334, R335, R342) -/

/-- The point in force in a hall. -/
def pointOf (s : State) (h : Nat) : Nat := fget s (Reg.PWR_HALL_STATUS.POINT h)

/-- The lowest point whose ratio is at least û (R334), among those not withdrawn. -/
def pointFor (s : State) (h u : Nat) : Nat :=
  (((List.range 8).filter fun p => !withdrawn s h p && decide (u * 1600 ≤ pointMhz p * 256)).getLast?).getD (topPoint s h)

/-- May a change begin in a hall now: none in progress, no droop holding it (R342), and 100 µs after the last (R334)? -/
def mayChange (s : State) (h : Nat) : Bool :=
  let x := hallPower s h
  x.step == .none && !x.stretched && decide (x.holdUntil ≤ s.clk.tick) &&
    (match x.changedAt with | none => true | some t => decide (t + 100 ≤ s.clk.tick))

/-- A change of point is asked for (R335): it begins with the relock when it lowers the point and with the voltage when it raises it, or
waits behind what is in progress. -/
def requestPoint (s : State) (h p : Nat) : State :=
  let x := hallPower s h
  if (x.step == .none && pointOf s h == p) || (x.step != .none && x.target == p) then modHall s h fun x => { x with queued := none }
  else if mayChange s h then
    modHall s h fun x => { x with step := if pointOf s h < p then .relocking else .slewing, target := p, queued := none }
  else modHall s h fun x => { x with queued := some p }

/-- A change that waits begins when it may. -/
def startQueued (s : State) (h : Nat) : State :=
  match (hallPower s h).queued with
  | some p => if mayChange s h then requestPoint s h p else s
  | none => s

/-- A change has completed: the 100 µs count from now, and a new G_age applies (R327, R334). -/
def pointDone (s : State) (h : Nat) : State :=
  let s1 := modHall s h fun x => { x with step := .none, changedAt := some s.clk.tick }
  { s1 with pwr := { s1.pwr with guardUv := sset (fun _ => (0 : Nat)) s1.pwr.guardUv h (ageUv (sget (fun _ => (0 : Nat)) s1.pwr.hours h)) } }

/-- VOLTAGE_SLEW_DONE (R335, R342): the rail has settled; a rise goes on to the relock, a fall has completed. A droop pauses it. -/
def execVoltageSlewDone (hall : Nat) (s : State) : Out :=
  .next (
    let x := hallPower s hall
    if unpowered s || x.step != .slewing || x.stretched || decide (s.clk.tick < x.holdUntil) then s
    else if x.target < pointOf s hall then modHall s hall fun x => { x with step := .relocking }
    else startQueued (pointDone s hall) hall)

/-- PLL_RELOCK_DONE (R335, R342): the clock moves to the relocked PLL and the point is in force; a lowered point's voltage follows. -/
def execPllRelockDone (hall : Nat) (s : State) : Out :=
  .next (
    let x := hallPower s hall
    if unpowered s || x.step != .relocking then s
    else
      let falls := decide (pointOf s hall < x.target)
      let s1 := modHall (fset s (Reg.PWR_HALL_STATUS.POINT hall) x.target) hall fun x => { x with pll := 1 - x.pll }
      if falls then modHall s1 hall fun x => { x with step := .slewing } else startQueued (pointDone s1 hall) hall)

/-! ### The broker (R330 to R332) -/

/-- Steps 3 and 4 of R332: each gets its guaranteed share of the budget up to its demand, then the rest goes by unmet demand. -/
def divideBudget (budget : Nat) (shares demands : List Nat) : List Nat :=
  let first := demands.zipIdx.map fun d => min d.1 (shares.getD d.2 0 * budget / 256)
  let rest := budget - first.sum
  let unmet := (demands.zip first).map fun p => p.1 - p.2
  (first.zip unmet).map fun p => p.1 + min p.2 (rest * p.2 / max 1 unmet.sum)

/-- Activity as power: 268 W at 256/256 (0.1 W). -/
def activityDw (a : Nat) : Nat := a * 2680 / 256

/-- The phases that a hall's demand counts: those scheduled, and the hints' (R332, R337). -/
def demandPhases (s : State) (h : Nat) : List (Nat × Nat) :=
  (((s.pwr.last.halls[h]?).elim [] (·.phases)) ++ (hallHints s h).map fun x => (x.region, x.tag)).eraseDups

/-- A hall's demand (R332 step 2), in 1/256. -/
def demandOf (s : State) (h : Nat) : Nat := min 256 (((demandPhases s h).map fun x => (profileOf s x.1 x.2 h).p).sum)

/-- The dynamic budget S under an input limit (R332 step 1), in 0.1 W. -/
def budgetUnder (s : State) (limit : Nat) : Nat :=
  let m := s.pwr.last
  ((limit : Int) - m.fixedDw - m.lossDw - ((m.inputDw : Int) - m.predictedDw)).toNat

/-- Does a hall draw the minimum background grant now (R332 step 5): a refresh or deep collation is due there, in the first second of each
60 s (log entry 50)? -/
def minimumGrant (s : State) (h : Nat) : Bool :=
  decide (s.clk.tick / 1000000 % 60 = 0) &&
    s.arr.folios.any fun e => decide (e.1 / 68 / 128 = h) && e.2.st == .serving && (e.2.refreshDue || e.2.deepPending)

/-- The serving budget under a limit: what minimum background grants leave. -/
def servingBudget (s : State) (limit : Nat) : Nat :=
  budgetUnder s limit - 100 * ((List.range 4).filter (minimumGrant s)).length

/-- The halls' grants under an input limit, in 0.1 W (R332 steps 3 and 4). -/
def hallGrants (s : State) (limit : Nat) : List Nat :=
  divideBudget (servingBudget s limit) s.img.bound.power.hallShare ((List.range 4).map fun h => activityDw (demandOf s h))

/-- A grant as a ceiling: none while it meets the demand. -/
def grantCeiling (s : State) (h g : Nat) : Nat := if activityDw (demandOf s h) ≤ g then 256 else g * 256 / 2680

/-- The ceiling of a hall under 97 % of the limits, with what the last cycle measured (R330). -/
def cutCeiling (s : State) (h : Nat) : Nat :=
  let at97 := fun limit => grantCeiling s h ((hallGrants s (limit * 97 / 100)).getD h 0)
  if s.pwr.last.inputCv = 0 then at97 (fget s Reg.PWR_CAP.CAP_DW) else min (at97 (fget s Reg.PWR_CAP.CAP_DW)) (at97 (ilimDw s))

/-- Every hall's ceiling is cut (R330). -/
def cutAll (s : State) : State :=
  let s1 := (List.range 4).foldl (fun t h => modHall t h fun x => { x with cut := cutCeiling s h }) s
  (List.range 4).foldl refreshHall s1

/-- The carrel of a pass. -/
def passCarrel (s : State) (p : Pass) : Nat :=
  if p.stream < 1024 then p.stream
  else ((s.orb.passes.find? fun x => x.passId == p.passId && x.region == p.region).map (·.carrel)).getD 1024

/-- Is a carrel deferred first (R332): its POWER_SHARE is 0, or its serving energy exceeds POWER_SHARE ÷ 256 of all? -/
def deferredFirst (s : State) (c : Nat) : Bool :=
  let total := (s.pwr.last.energy.map (·.2)).sum
  let mine := ((s.pwr.last.energy.filter fun e => e.1 == c).map (·.2)).sum
  (carrelNow s c).powerShare == 0 || decide ((carrelNow s c).powerShare * total < mine * 256)

/-- The regions whose passes a hall defers, in order, when its ceiling binds (R332). -/
def deferralOf (s : State) (h : Nat) : List Nat :=
  let ps := s.run.live.filter fun p => (regionHalls s p.region).elem h
  ((ps.filter fun p => deferredFirst s (passCarrel s p)) ++ (ps.filter fun p => !deferredFirst s (passCarrel s p))).map (·.region)

/-- A hall's grant divided among its regions, by REGION_SHARE and then by demand (R332). -/
def regionGrants (s : State) (h g : Nat) : List (Nat × Nat) :=
  let rs := ((s.img.bound.regions.map (·.id)).filter fun r => (regionHalls s r).elem h)
  let ds := rs.map fun r => activityDw (min 256 (((demandPhases s h).filter fun x => x.1 == r).map fun x => (profileOf s x.1 x.2 h).p).sum)
  rs.zip (divideBudget g (rs.map fun r => s.img.bound.regionShare h r) ds)

/-- What a cycle sets in one hall: demand, activity, limits, the background grant (R332, R337). -/
def brokerHall (s : State) (m : BrokerIn) (h : Nat) : State :=
  let cap := fget s Reg.PWR_CAP.CAP_DW
  let byCap := (hallGrants s cap).getD h 0
  let byIlim := if m.inputCv = 0 then byCap else (hallGrants s (ilimDw s)).getD h 0
  let serving := min byCap byIlim
  let limit := if m.inputCv = 0 then cap else min cap (ilimDw s)
  let left := (servingBudget s limit - (hallGrants s limit).sum) / 4
  let least := if minimumGrant s h then 100 else 0
  let background := if (hallHints s h).any (·.opened) then least else left + least
  let act := (m.halls[h]?).elim 0 (·.activity)
  let us := ((m.halls[h]?).elim [] (·.phases)).map fun x => (profileOf s x.1 x.2 h).u
  let s1 := modHall s h fun x => { x with
    demand := demandOf s h, activity := act, need := if us.isEmpty then 256 else us.foldl max 0
    cap := grantCeiling s h byCap, current := grantCeiling s h byIlim, grants := regionGrants s h serving }
  let s2 := { s1 with pwr := { s1.pwr with background := sset (fun _ => (100000 : Nat)) s1.pwr.background h background } }
  fset s2 (Reg.PWR_HALL_STATUS.ACTIVITY h) act

/-- Since when limits have bound in a hall, or none has, and what is deferred there (R334). -/
def noteBinding (s : State) (h : Nat) : State :=
  let bound := !(hallPower s h).since.isEmpty
  modHall s h fun x => { x with
    boundSince := if bound then some (x.boundSince.getD s.clk.tick) else none
    freeSince := if bound then none else some (x.freeSince.getD s.clk.tick)
    deferred := if bound then deferralOf s h else [] }

/-- Has a moment passed at least 1 ms ago? -/
def msAgo (s : State) (t : Option Nat) : Bool := match t with | some t => decide (t + 1000 ≤ s.clk.tick) | none => false

/-- The point that the broker wants in a hall (R334, R337, R338), none to leave it. A FIXED_POINT that has been withdrawn from the die is never selected
(R327): the top point that is left stands in for it (log entry 50). -/
def wantedPoint (s : State) (h : Nat) : Option Nat :=
  let x := hallPower s h
  let hs := hallHints s h
  if fget s Reg.PWR_CTRL.FIXED = 1 then some (if withdrawn s h (fget s Reg.PWR_CTRL.FIXED_POINT) then topPoint s h else fget s Reg.PWR_CTRL.FIXED_POINT)
  else if !hs.isEmpty then some (pointFor s h ((hs.map fun y => (profileOf s y.region y.tag h).u).foldl max 0))
  else if msAgo s x.boundSince then some (pointFor s h x.need)
  else if msAgo s x.freeSince then some (topPoint s h)
  else none

/-- Lever 3 in one hall. -/
def drivePoint (s : State) (h : Nat) : State :=
  startQueued (match wantedPoint s h with | some p => requestPoint s h p | none => s) h

/-- The excursion's state after a cycle's measurement (R330, R331). -/
def noteExcursion (s : State) : State :=
  let m := s.pwr.last
  let exceeds := decide (fget s Reg.PWR_CAP.CAP_DW < m.inputDw ∨ fget s Reg.PWR_CAP.ILIM_DA < m.inputDa)
  if exceeds then
    let s1 := { s with pwr := { s.pwr with excursion := some (s.pwr.excursion.getD s.clk.tick), belowSince := none } }
    let s2 := if s.pwr.excursion.isNone then fbump s1 Reg.PWR_STATS.EXCURSIONS 1 else s1
    if s.pwr.capPending then cutAll s2 else s2
  else
    let below := if m.inputDw < fget s Reg.PWR_CAP.CAP_DW ∧ m.inputDa < fget s Reg.PWR_CAP.ILIM_DA then some (s.pwr.belowSince.getD s.clk.tick) else none
    let s1 := { s with pwr := { s.pwr with excursion := none, belowSince := below, capPending := false } }
    if msAgo s below then (List.range 4).foldl (fun t h => modHall t h fun x => { x with cut := 256 }) s1 else s1

/-- BROKER_CYCLE (R330 to R334, R337, R338): every 10 µs the budget is divided and ceilings and points follow. -/
def execBrokerCycle (m : BrokerIn) (s : State) : Out :=
  .next (
    if unpowered s || asleep s then s
    else
      let s1 := { s with pwr := { s.pwr with last := m, energy := m.energy.foldl (fun e x => sset (fun _ => (0 : Nat)) e x.1 x.2) [] } }
      let s2 := fset (fset (fset s1 Reg.PWR_STATUS.INPUT_DW m.inputDw) Reg.PWR_STATUS.INPUT_DA m.inputDa) Reg.PWR_STATUS.INPUT_CV m.inputCv
      let s3 := (List.range 4).foldl (fun t h => brokerHall t m h) s2
      let s4 := (List.range 4).foldl refreshHall (noteExcursion s3)
      (List.range 4).foldl (fun t h => drivePoint (noteBinding t h) h) s4)

/-- EXCURSION_CUT (R330): an excursion in progress has lasted 8 ms. -/
def execExcursionCut (s : State) : Out :=
  .next (if unpowered s || s.pwr.excursion.isNone then s else cutAll s)

/-- CAP_WRITE (R331): a write to PWR.CAP; each field takes a value in its range from the broker's next cycle. A write that lowers a limit
ends the allowance of an excursion in progress. -/
def execCapWrite (standby : Bool) (width value : Nat) (s : State) : Out :=
  .next (
    if unpowered s then s
    else if standbyMode s && standby || (width != 4 && width != 8) then ignored s 0x200008 value
    else
      let fs := ((regAt 0x200008).elim [] (·.fields)).map fun f => { f with own := false }
      let v := value % 2 ^ (8 * width)
      let (r, bad) := writeFields s 0x200008 v 0 (8 * width) fs (rget s 0x200008)
      let s1 := if bad || reservedSet v 0 (8 * width) fs then ignored s 0x200008 value else s
      let s2 := rset s1 0x200008 r
      let lowered := decide (fget s2 Reg.PWR_CAP.CAP_DW < fget s Reg.PWR_CAP.CAP_DW ∨ fget s2 Reg.PWR_CAP.ILIM_DA < fget s Reg.PWR_CAP.ILIM_DA)
      if lowered && s.pwr.excursion.isSome then { s2 with pwr := { s2.pwr with capPending := true } } else s2)

/-! ### Hints (R337) -/

/-- The status of a HINT, in R337's order; REGION_OFFLINE (R439) stands behind DENIED and before FORMAT (log entry 56). -/
def hintStatus (s : State) (k : Cmd) : Nat :=
  if !((carrelNow s k.stream).mask.testBit (rd k.body 0 1)) then stDenied
  else match beginStatus s k with
    | some st => st
    | none =>
      if 63 < rd k.body 1 1 || 1000000 < rd k.body 4 4 || rd k.body 8 4 = 0 || 10000000 < rd k.body 8 4 then stFormat
      else if 64 ≤ s.pwr.hints.length then stNoSpace
      else stOk

/-- HINT (R337): completes on consumption; an accepted one replaces its carrel's earlier one for the region and tag, and moves the
region's halls to the tag's point. -/
def execHintCmd (stream seq : Nat) (s : State) : Out :=
  .next (match cmdIn s stream seq .waiting 0x06 with
    | none => s
    | some k =>
      let st := hintStatus s k
      if st ≠ stOk then finish s stream seq st 0
      else
        let r := rd k.body 0 1
        let tag := rd k.body 1 1
        let opens := k.age + rd k.body 4 4
        let x : Hint := { carrel := stream, region := r, tag := tag, opens := opens, ends := opens + rd k.body 8 4, opened := false, hit := false }
        let old := s.pwr.hints.filter fun y => !(y.carrel == stream && y.region == r && y.tag == tag)
        let s1 := finish { s with pwr := { s.pwr with hints := old ++ [x] } } stream seq stOk 0
        if fget s Reg.PWR_CTRL.FIXED = 1 then s1 else (regionHalls s1 r).foldl drivePoint s1)

/-- Does a pass in flight run a tag of a region? -/
def tagRuns (s : State) (r tag : Nat) : Bool :=
  (passOf s r).isSome && (s.img.bound.recipes.any fun x => x.region == r && s.img.bound.tagOf r x.stage == tag)

/-- The hint of a carrel for a region and tag. -/
def Hint.is (c r tag : Nat) (x : Hint) : Bool := x.carrel == c && x.region == r && x.tag == tag

/-- HINT_WINDOW_OPEN (R337): LEAD_US after consumption the phase window opens; a pass of the tag that runs already counts. -/
def execHintWindowOpen (carrel region tag : Nat) (s : State) : Out :=
  .next (if unpowered s then s else
    let hit := tagRuns s region tag
    let one := fun (x : Hint) => if x.is carrel region tag then { x with opened := true, hit := x.hit || hit } else x
    { s with pwr := { s.pwr with hints := s.pwr.hints.map one } })

/-- HINT_WINDOW_END (R337): the window ends; without a pass of its tag it counts in HINT_MISS. -/
def execHintWindowEnd (carrel region tag : Nat) (s : State) : Out :=
  .next (match s.pwr.hints.find? fun x => x.is carrel region tag && x.opened with
    | none => s
    | some x =>
      let s1 := { s with pwr := { s.pwr with hints := s.pwr.hints.filter fun y => !(y.is carrel region tag) } }
      if x.hit then s1 else fbump s1 Reg.PWR_STATS.HINT_MISS 1)

/-! ### Thermal (R339) and droop (R341, R342) -/

/-- A hall's temperature in whole degrees, as TEMP_C shows it. -/
def showTemp (s : State) (h : Nat) (t : Int) : State := fset s (Reg.PWR_HALL_STATUS.TEMP_C h) (t / 256).toNat

/-- THERMAL_STEP (R339, R360): at or above THERM_C the strike period grows by 2 cycles up to 48 and then the ceiling falls by 16/256; below
THERM_C − 2 the ceiling rises first, then the period shortens. The junction temperature is in 1/256 °C. -/
def execThermalStep (hall : Nat) (measured : Int) (s : State) : Out :=
  .next (
    if unpowered s || asleep s then s
    else
      let temp := junction s hall measured
      let x := hallPower s hall
      let lim : Int := fget s Reg.PWR_CTRL.THERM_C
      let s1 := showTemp s hall temp
      let s2 :=
        if lim * 256 ≤ temp then
          if strikePeriod s hall (floorNow s hall) < 48 then modHall s1 hall fun x => { x with period := x.period + 2 }
          else modHall s1 hall fun x => { x with thermal := x.thermal - 16 }
        else if temp < (lim - 2) * 256 then
          if x.thermal < 256 then modHall s1 hall fun x => { x with thermal := min 256 (x.thermal + 16) }
          else modHall s1 hall fun x => { x with period := x.period - 2 }
        else s1
      refreshHall s2 hall)

/-- DROOP_DETECT (R341, R342): the scribe clock is stretched and strike starts are deferred; after more than 8 droops in a millisecond
the ceiling falls by 16/256 for the next. A gated clock is not stretched (R402). -/
def execDroopDetect (hall : Nat) (s : State) : Out :=
  .next (
    let x := hallPower s hall
    if unpowered s || asleep s || x.stretched || x.gated then s
    else
      let ds := s.clk.tick :: x.droops.filter fun t => decide (s.clk.tick < t + 1000)
      let s1 := modHall s hall fun x => { x with
        stretched := true, droops := ds, droopUntil := if 8 < ds.length then s.clk.tick + 1000 else x.droopUntil }
      refreshHall (fbump s1 Reg.PWR_STATS.DROOPS 1) hall)

/-- DROOP_CLEAR (R341, R342): the clock returns to full frequency; a point change that waits, or a slew, goes on 5 µs later. -/
def execDroopClear (hall : Nat) (s : State) : Out :=
  .next (
    if unpowered s || !(hallPower s hall).stretched then s
    else refreshHall (modHall s hall fun x => { x with stretched := false, holdUntil := s.clk.tick + 5 }) hall)

/-! ### Operating hours (R327) -/

/-- HOUR_COUNT (R327): each die's hours count one in Run and Idle; the G_age of the hours before, if no frequency change has applied it,
applies now. -/
def execHourCount (s : State) : Out :=
  .next (
    if unpowered s || asleep s then s
    else
      let one := fun (t : State) (d : Nat) =>
        let hrs := sget (fun _ => (0 : Nat)) t.pwr.hours d
        { t with pwr := { t.pwr with
          hours := sset (fun _ => (0 : Nat)) t.pwr.hours d (min (hrs + 1) (2 ^ 32 - 1))
          guardUv := sset (fun _ => (0 : Nat)) t.pwr.guardUv d (ageUv hrs) } }
      (List.range 5).foldl one s)

end Sys2Proof.Machine
end

