-- ==== Sys2Proof/Machine/Collation.lean ====
section
/-!
DEFINITION. Sys2Proof/Machine/Collation.lean: collation, trim taps and drift (07: R159 to R184).

Fits are exact until they are kept as binary32 (k̂) or in 1/256 code (ô and the threshold errors); log entry 45 names those formats, log entry 55 what the
manual leaves of the fits and of the choice of taps.
-/
namespace Sys2Proof.Machine

/-! ### Tap words (R160) -/

/-- A tap word of its fields, each held to its range; reserved bits are zero. -/
def tapWord (coarse fine delay offset : Int) : W32 :=
  BitVec.ofNat 32 (unsignedOf 5 (clampInt (-16) 15 coarse) + unsignedOf 5 (clampInt (-16) 15 fine) * 2 ^ 5 + unsignedOf 6 (clampInt (-32) 31 delay) * 2 ^ 10 +
    unsignedOf 7 (clampInt (-64) 63 offset) * 2 ^ 16)

/-- A bank from its words. -/
def bankOf (f : Nat → W32) : Sparse W32 := (List.range 512).foldl (fun t j => sset (fun _ => (0 : W32)) t j (f j)) []

/-- The folio with its shadow bank written (R161). -/
def putShadow (f : Folio) (b : Sparse W32) : Folio := if f.bank = 0 then { f with bankB := b } else { f with bankA := b }

/-! ### Estimates (R166, R168, R176) -/

/-- Is |x · y − 1| above n / d? -/
def devAbove (x y : W32) (n d : Nat) : Bool :=
  match decF x, decF y with
  | .num _ _ _, .num _ _ _ => (⟨n, d⟩ : Frac).lt ((((fracOf x).mul (fracOf y)).sub (.ofInt 1)).abs)
  | _, _ => true

/-- Does x differ from y by more than 0.13 % of y (R166, R176)? -/
def apart (x y : Frac) : Bool := ((⟨13, 10000⟩ : Frac).mul y.abs).lt ((x.sub y).abs)

/-- The slot chain that a folio serves. -/
def folioChain (s : State) (k : Nat) : Option Nat := slotChain s (k / 68) (folioAt s k).logical

/-- The named shelf and the chain of the slot that a folio serves or is prepared for. -/
def folioPlace (s : State) (k : Nat) : Option (Nat × Nat) :=
  let f := folioAt s k
  let named := match (accOf s f.region).targets.find? fun t => t.shelf == k / 68 && t.pos == k % 68 with
    | some t => some t.named
    | none => namedShelf s (k / 68)
  named.bind fun n => ((s.img.bound.chainEntry? n).filter fun e => e.uses f.logical).map fun e => (n, e.chain f.logical)

/-- The mean of the k̂ of some folios in a column, with their weights (R166). -/
def meanKhat (s : State) (fs : List (Nat × Nat)) (j : Nat) : Frac :=
  (Frac.sum (fs.map fun f => (Frac.ofInt f.2).mul (fracOf (khatNext s f.1 j)))).div (.ofInt (max 1 (fs.map (·.2)).sum))

/-- The folios that share a gain with a serving folio. -/
def peers (s : State) (k : Nat) : List (Nat × Nat) :=
  match folioChain s k with
  | some c => if (folioAt s k).st == .serving then gainFolios s (k / 68) c else []
  | none => []

/-- A fit of a chain's gain is counted in every chain that shares it: a column whose |g_j − 1| exceeds 0.10 in three consecutive fits makes its folios due
for deep collation (R176). -/
def countWide (s : State) (k : Nat) : State :=
  match folioChain s k with
  | none => s
  | some c =>
    let t := gainTable s (k / 68) c
    let g := gainOf s (k / 68) c
    let wide := (List.range 512).foldl (fun w j =>
      sset (fun _ => 0) w j (if devAbove (sget (fun _ => fone) t j) fone 1 10 then sget (fun _ => 0) g.wide j + 1 else 0)) []
    let s1 := (gainChains s (k / 68) c).foldl (fun s x => modGain s x.1 x.2 fun g => { g with wide := wide }) s
    if wide.any fun e => decide (3 ≤ e.2)
    then (gainFolios s (k / 68) c).foldl (fun s f => modFolio s f.1 fun f => { f with deepPending := true }) s1 else s1

/-- Does a tap word make its folio due for deep collation (R176): COARSE or FINE at its limit, or DELAY at its limit while the column
still differs from its chain by more than 0.13 %? -/
def tapLimit (s : State) (k : Nat) (b : Sparse W32) (j : Nat) : Bool :=
  let w := tapAt b j
  tapCoarse w == -16 || tapCoarse w == 15 || tapFine w == -16 || tapFine w == 15 ||
    ((tapDelay w == -32 || tapDelay w == 31) && apart (fracOf (khatNext s k j)) (if (peers s k).isEmpty then .ofInt 1 else meanKhat s (peers s k) j))

/-- A folio whose taps are at their limits becomes due for deep collation. -/
def noteLimits (s : State) (k : Nat) (b : Sparse W32) : State :=
  if (List.range 512).any (tapLimit s k b) then modFolio s k fun f => { f with deepPending := true } else s

/-! ### The choice of taps (R160, R166, R171) -/

/-- The DELAY that brings a column of gain `raw` at DELAY 0 to 1: to nearest of (1 − raw) ÷ step. -/
def centredDelay (window : Nat) (raw : Frac) : Int := ((Frac.ofInt (64 * max 1 window)).mul ((Frac.ofInt 1).sub raw)).rnd

/-- The DELAY that brings such a column nearest to a gain. -/
def nearestDelay (window : Nat) (raw target : Frac) : Int := ((Frac.ofInt (64 * max 1 window)).mul ((target.div raw).sub (.ofInt 1))).rnd

/-- A column's gain at DELAY 0. -/
def rawGain (s : State) (k j window : Nat) : Frac := (fracOf (khatOf s k j)).div (delayGain window (tapDelay (tapAt (activeBank (folioAt s k)) j)))

/-- The DELAY of a column (R166): the one that centres it on 1 while that leaves it within ±0.13 % of the chain's k̂_j; else the one nearest to the mean of
the chain's other folios. It is held to its range. -/
def chosenDelay (s : State) (k j window : Nat) : Int :=
  let raw := rawGain s k j window
  let d := clampInt (-32) 31 (centredDelay window raw)
  let mine := raw.mul (delayGain window d)
  let others := (peers s k).filter fun f => f.1 != k
  let mean := meanKhat s others j
  let own := (((peers s k).find? fun f => f.1 == k).map (·.2)).getD 1
  let rest := (others.map (·.2)).sum
  let all := (((Frac.ofInt own).mul mine).add ((Frac.ofInt rest).mul mean)).div (.ofInt (own + rest))
  if raw.num ≤ 0 then tapDelay (tapAt (activeBank (folioAt s k)) j)
  else if others.isEmpty || !apart mine all then d
  else clampInt (-32) 31 (nearestDelay window raw mean)

/-- Does a folio's fit call for new gains: |k̂_f,j × g_j − 1| above 0.1 % on some column (R168)? -/
def gainDue (s : State) (k : Nat) : Bool :=
  match folioChain s k with
  | some c => (List.range 512).any fun j => devAbove (khatOf s k j) (gainAt (gainOf s (k / 68) c) j) 1 1000
  | none => false

/-- Does it call for new offsets: |ô_j| above 1/16 code on some column? -/
def offsetDue (s : State) (k : Nat) : Bool := (List.range 512).any fun j => decide (16 < (offOf s k j).natAbs)

/-- The tap words that a fit gives: DELAY where the gains are due, OFFSET where the offsets are, COARSE and FINE from a sweep alone (R168, R171). -/
def tunedBank (s : State) (k window : Nat) (fit : Fit) (gains offsets : Bool) : Sparse W32 :=
  bankOf fun j =>
    let w := tapAt (activeBank (folioAt s k)) j
    tapWord (if fit.sweep then tapCoarse w - (⟨fit.coarse.getD j 0, 64⟩ : Frac).rnd else tapCoarse w)
      (if fit.sweep then tapFine w - (⟨fit.fine.getD j 0, 8⟩ : Frac).rnd else tapFine w)
      (if gains then chosenDelay s k j window else tapDelay w)
      (if offsets then tapOffset w - (⟨offOf s k j, 16⟩ : Frac).rnd else tapOffset w)

/-! ### Tap updates and switches (R161 to R163) -/

/-- Is collation of a region's folios possible now (R172): its archive copy is resident? -/
def archiveHere (s : State) (r : Nat) : Bool := (accOf s r).archive

/-- Is an activity of a hall enabled: its bit of COL.CTRL and its budget's ENABLE (R180, R184)? -/
def activityOn (s : State) (bit : FieldRef) (act : Nat) : Bool := fget s bit == 1 && (s.img.bound.budget act).enable

/-- The fit of a folio whose update has not been issued. -/
def fitOf (s : State) (k : Nat) : Option Fit := sget (fun _ => (none : Option Fit)) s.col.fits k

/-- Does an update that carries gains, or offsets, do so for a fit: a sweep's fit calls for both, a window's for those that are due (R168, R171)? -/
def carriesGains (s : State) (k : Nat) (x : Fit) (gains : Bool) : Bool := x.sweep || (gains && gainDue s k)
def carriesOffsets (s : State) (k : Nat) (x : Fit) (offsets : Bool) : Bool := x.sweep || (offsets && offsetDue s k)

/-- Does a serving folio's last fit call for such an update (R168, R171)? -/
def updateDue (s : State) (k : Nat) (gains offsets : Bool) : Bool :=
  match fitOf s k with
  | some x => carriesGains s k x gains || carriesOffsets s k x offsets
  | none => false

/-- Does a fit call for another update after one that carries these? -/
def updateLeft (s : State) (k : Nat) (x : Fit) (gains offsets : Bool) : Bool :=
  !x.sweep && ((!gains && gainDue s k) || (!offsets && offsetDue s k))

/-- An update that a fit calls for (R162), of gains, offsets or both: the shadow bank is written and valid; a change of DELAY or of the chain's gains makes it coupled, for the next
pass boundary; else it targets the next vector. -/
def issueUpdate (s : State) (k : Nat) (gains offsets : Bool) : State :=
  match folioChain s k, fitOf s k with
  | some c, some x =>
    let f := folioAt s k
    let b := tunedBank s k (regionWindow s f.region (k / 68 / 128)) x (carriesGains s k x gains) (carriesOffsets s k x offsets)
    let delays := (List.range 512).any fun j => tapDelay (tapAt b j) != tapDelay (tapAt (activeBank f) j)
    let s1 := modFolio s k fun f => { putShadow f b with shadowValid := true }
    let t := gainTable s1 (k / 68) c
    let g := gainOf s (k / 68) c
    let moved := carriesGains s k x gains && decide (t ≠ g.next.getD g.g)
    let s2 := modFolio s1 k fun f => { f with shadowAt := if delays || moved then 1 else 0 }
    let s3 := { s2 with col := { s2.col with fits := sset (fun _ => none) s2.col.fits k (if updateLeft s k x gains offsets then some x else none) } }
    let temp := (sget (fun _ => (none : Option Int)) s.col.fitTemp k).getD (hallTemp s (k / 68 / 128))
    let s4 := if moved then (gainChains s3 (k / 68) c).foldl (fun s x => modGain s x.1 x.2 fun g => { g with next := some t, nextRef := temp })
      (markFailed s3 (gainFailures s3 (k / 68) c)) else s3
    noteLimits s4 k b
  | _, _ => s

/-- TAP_UPDATE (R161, R162, R168): the engine writes a shadow bank that is not valid and marks it valid. Where gains and offsets are both due, one update may
carry both or each its own (log entry 55). -/
def execTapUpdate (shelf pos : Nat) (gains offsets : Bool) (s : State) : Out :=
  .next (
    let k := folioKey shelf pos
    let f := folioAt s k
    if !hallOff s (hallOf shelf) && f.st == .serving && !f.shadowValid && archiveHere s f.region && updateDue s k gains offsets then issueUpdate s k gains offsets else s)

/-- Is a folio between two input vectors: no vector of its region's pass has some of its planes struck (R161)? -/
def betweenVectors (s : State) (k : Nat) : Bool :=
  match struckFor s k with
  | none => true
  | some (p, x, b) => p.vecs.zipIdx.all fun v => !liveVec p v.1 || decide (nextPlane x k v.2 = 0 ∨ b ≤ nextPlane x k v.2)

/-- Does a pass need a folio for a strike now (R170)? -/
def passNeeds (s : State) (k : Nat) : Bool :=
  match struckFor s k with
  | none => false
  | some (p, x, b) => (nextVec p x b k).isSome

/-- BANK_SWITCH (R161, R163): at the first reset cycle of the target vector, which a strike brings with it (`switchAtVector`); a folio that no pass strikes
switches here. -/
def execBankSwitch (shelf pos : Nat) (s : State) : Out :=
  .next (
    let k := folioKey shelf pos
    let f := folioAt s k
    if !hallOff s (hallOf shelf) && f.st == .serving && f.shadowValid && f.shadowAt = 0 && betweenVectors s k then switchBank s k else s)

/-- The gains of a chain at a boundary: a coupled update's new g_j, and temperature applied too where it is due, both in one (R162, R167). -/
def applyGain (s : State) (h c : Nat) : State :=
  let g := match (gainOf s h c).next with
    | some t => { gainOf s h c with
        g := t, gRef := t, tRef := (gainOf s h c).nextRef, tApplied := (gainOf s h c).nextRef, next := none
        tempDue := stepDue s (hallOf h) (gainOf s h c).nextRef }
    | none => gainOf s h c
  modGain s h c fun _ => if g.tempDue then { g with g := tempTable s h c g, tApplied := hallTemp s (hallOf h), tempDue := false } else g

/-- The coupled updates of a region whose boundary has come: the banks switch and the new gains apply together (R162). -/
def applyCoupled (s : State) (r : Nat) : State :=
  let serving := s.arr.folios.filter fun e => e.2.st == .serving && e.2.region == r && e.2.shadowValid && e.2.shadowAt == 1
  let s1 := serving.foldl (fun s e => switchBank s e.1) s
  (regionShelves s1 r).foldl (fun s h => (shelfChains s h).foldl (fun s c => applyGain s h c) s) s1

/-! ### A new integration window (R164) -/

/-- DELAY × I_new ÷ I_old, to nearest, ties to even (R164). -/
def scaleDelay (d : Int) (old new : Nat) : Int := d.sign * (rneDiv (d.natAbs * new) (max 1 old) : Int)

/-- Does a column's DELAY leave its range at the new window? -/
def scaleClamps (f : Folio) (old new j : Nat) : Bool :=
  let d := scaleDelay (tapDelay (tapAt (activeBank f) j)) old new
  decide (d < -32 ∨ 31 < d)

/-- A folio's DELAYs at the new window: written to its shadow bank, which becomes active at this boundary. -/
def rescaleFolio (s : State) (k old new : Nat) : State :=
  let f := folioAt s k
  let b := bankOf fun j =>
    let w := tapAt (activeBank f) j
    tapWord (tapCoarse w) (tapFine w) (scaleDelay (tapDelay w) old new) (tapOffset w)
  let s1 := putKhat s k ((List.range 512).map fun j =>
    let d := tapDelay (tapAt (activeBank f) j)
    if d = 0 then khatOf s k j else (((fracOf (khatOf s k j)).mul (delayGain new (tapDelay (tapAt b j)))).div (delayGain old d)).toW)
  let s2 := fbump (modFolio s1 k fun f => { putShadow f b with bank := 1 - f.bank, shadowValid := false }) (Reg.COL_EVENTS.SWITCHES (k / 68 / 128)) 1
  noteLimits s2 k b

/-- The gain that clamped DELAYs of the folios `ks` leave over, carried into a chain's g_j (R164): its applied and its measured gains move by the ratio of
the chain's k̂_j before and after. -/
def carryGain (before after : State) (ks : List Nat) (old new : Nat) (s : State) (h c : Nat) : State :=
  let fs := gainFolios before h c
  let cols := (List.range 512).filter fun j => fs.any fun f => ks.elem f.1 && scaleClamps (folioAt before f.1) old new j
  let moved := fun (t : Sparse W32) => cols.foldl (fun t j => sset (fun _ => fone) t j
    (clampGain (((fracOf (sget (fun _ => fone) t j)).mul (meanKhat before fs j)).div (meanKhat after fs j)).toW)) t
  if cols.isEmpty then s
  else modGain (markFailed s (gainFailures after h c)) h c fun g => { g with g := moved g.g, gRef := moved g.gRef, next := g.next.map moved }

/-- A hall's integration window changes at a boundary (R164): every DELAY of the region's folios there is rescaled as a coupled update of that boundary, what
a clamp leaves over goes into the gains, and the windows of every folio of the hall restart. An update that waits for the next vector takes place first
(DESIGN CHOICE, log entry 55: the engine writes no shadow that is valid). -/
def rescaleRegion (s : State) (r h old new : Nat) : State :=
  let ks := (s.arr.folios.filter fun e => e.2.st == .serving && e.2.region == r && e.1 / 68 / 128 == h).map (·.1)
  let s0 := (ks.filter fun k => (folioAt s k).shadowValid).foldl switchBank s
  let s1 := ks.foldl (fun s k => rescaleFolio s k old new) s0
  let chains := (regionShelves s0 r).flatMap fun x => (shelfChains s0 x).map fun c => (x, c)
  let s2 := chains.foldl (fun s x => carryGain s0 s1 ks old new s x.1 x.2) s1
  ((s.arr.folios.filter fun e => e.2.st == .serving && e.1 / 68 / 128 == h).map (·.1)).foldl restartWindow s2

/-! ### Passive windows (R168) -/

/-- Σ over some rows of the intended levels of a column, each with its count. -/
def idealSum (f : Folio) (j : Nat) (rows : List (Nat × Nat)) : Int := (rows.map fun i => (i.2 : Int) * levelAt f.content i.1 j).sum

/-- The rows that plane p of a window drove, with their counts. -/
def windowRows (w : PassiveWin) (p : Nat) : List (Nat × Nat) :=
  (w.rows.filter fun e => decide (e.1 / 1024 = p)).map fun e => (e.1 % 1024, e.2)

/-- For each plane of a window: its vectors, U_j,p × 2^e and C_j,p (R168). -/
def planeSums (s : State) (k j : Nat) (w : PassiveWin) : List (Nat × Int × Int) :=
  (w.planes.map fun e => (e.2, idealSum (folioAt s k) j (windowRows w e.1), sget (fun _ => (0 : Int)) w.codes (512 * e.1 + j))).filter fun x => x.1 != 0

/-- Is a column's window usable: do its U_j,p ÷ PASSIVE_W span at least 16 codes (R168)? -/
def windowUsable (s : State) (k j : Nat) (w : PassiveWin) : Bool :=
  let us := (planeSums s k j w).map (·.2.1)
  decide (((16 * w.vectors * 2 ^ (folioAt s k).rangeExp : Nat) : Int) ≤ us.foldl max (us.headD 0) - us.foldl min (us.headD 0))

/-- The least-squares line through the planes' means, C ÷ n against U ÷ n, each plane weighted by its n vectors (R168): slope and offset. -/
def planeFit (e : Nat) (ps : List (Nat × Int × Int)) : Frac × Frac :=
  let d := (ps.map (·.1)).foldl (· * ·) 1
  let n : Int := ((ps.map (·.1)).sum : Nat)
  let u : Int := (ps.map (·.2.1)).sum
  let c : Int := (ps.map (·.2.2)).sum
  let uu : Int := (ps.map fun x => x.2.1 * x.2.1 * ((d / x.1 : Nat) : Int)).sum
  let uc : Int := (ps.map fun x => x.2.1 * x.2.2 * ((d / x.1 : Nat) : Int)).sum
  let slope := (Frac.ofInt (n * uc - u * c * d)).div (.ofInt (n * uu - u * u * d))
  (slope.mul (.ofInt (2 ^ e : Nat)), ((Frac.ofInt c).sub (slope.mul (.ofInt u))).div (.ofInt n))

/-- A fit is kept: its estimates, its temperature, and that its update is to be issued. -/
def keepFit (s : State) (k : Nat) (x : Fit) (khat : List W32) (offs : List Int) (temp : Int) : State :=
  let s1 := putOffs (putKhat s k khat) k offs
  countWide { s1 with col := { s1.col with fits := sset (fun _ => none) s1.col.fits k (some x), fitTemp := sset (fun _ => none) s1.col.fitTemp k (some temp) } } k

/-- Has PERIOD_S of an activity passed since a tick (R181)? -/
def periodOver (s : State) (act : Nat) (last : Option Nat) : Bool := last.all fun t => decide (t + (s.img.bound.budget act).periodS * 1000000 ≤ s.clk.tick)

/-- May an activity draw a power in a hall: within its ceiling, and within the broker's grant, which wins (R181, R183)? -/
def powerAllows (s : State) (h act power : Nat) : Bool := decide (power ≤ (s.img.bound.budget act).powerDw ∧ power ≤ backgroundGrant s h)

/-- PASSIVE_WINDOW_END (R168, R181, R183): k̂ and ô of each usable column of a full window are fitted; the others keep their estimates. -/
def execPassiveWindowEnd (shelf pos power : Nat) (s : State) : Out :=
  .next (
    let k := folioKey shelf pos
    let f := folioAt s k
    let w := sget (fun _ => freshWin) s.col.full k
    if hallOff s (hallOf shelf) || f.st != .serving || w.vectors = 0 || !archiveHere s f.region || !activityOn s (Reg.COL_CTRL.PASSIVE_EN (hallOf shelf)) 2 ||
      !powerAllows s (hallOf shelf) 2 power ||
      !periodOver s 2 (sget (fun _ => (none : Option Nat)) s.col.visited k) then s
    else
      let cols := (List.range 512).map fun j => if windowUsable s k j w
        then let x := planeFit f.rangeExp (planeSums s k j w); (x.1.toW, (x.2.mul (.ofInt 256)).either)
        else (khatOf s k j, offOf s k j)
      let s1 := { s with col := { s.col with full := sset (fun _ => freshWin) s.col.full k freshWin
                                             visited := sset (fun _ => none) s.col.visited k (some s.clk.tick) } }
      keepFit s1 k { sweep := false, coarse := [], fine := [] } (cols.map (·.1)) (cols.map (·.2)) (hallTemp s (hallOf shelf)))

/-! ### Sweeps (R170, R171) -/

/-- The rows that plane m of an active sweep drives (R170). -/
def sweepRows (k number m : Nat) : List Nat :=
  if m < 16 then []
  else
    let b := shake256Long (leBytes 8 k ++ leBytes 8 number ++ leBytes 8 (m - 16))
    (List.range 1024).filter fun i => (rd b (i / 8) 1).testBit (i % 8)

/-- The stage whose calibration batch a folio is struck with: the first that lists its chain. -/
def folioStage (s : State) (k : Nat) : Option Nat :=
  match folioPlace s k with
  | some (n, c) => (s.img.bound.reds.find? fun e => e.region == (folioAt s k).region &&
      e.leaves.any fun l => 128 * e.hall + leafShelf l == n && leafChain l == c).map (·.stage)
  | none => none

/-- A strike for the collation engine: its codes go to no ledger; it shows its period and counts its saturated conversions (R50, R56, R170). -/
def engineStrike (s : State) (k : Nat) (rows : List Nat) : List Int × State :=
  let f := folioAt s k
  let h := k / 68 / 128
  let cs := strikeCodes s k (regionWindow s f.region h) rows
  let layer := ((folioStage s k).bind fun st => (recipeOf s f.region st).map (·.layer)).getD 0
  let s1 := countSat { s with free := s.free + 1 } k f.region layer cs
  (cs.map (·.code), showPeriod s1 h ((accOf s f.region).floor.getD h (floorNow s h)))

/-- Is a serving folio due for a sweep: asked for, or PERIOD_S after its last one (R171)? -/
def sweepDue (s : State) (f : Folio) : Bool := f.sweepPending || periodOver s 3 f.lastSweep

/-- May a sweep that has made `n` strikes make another in an idle slot: those of a folio since its last sweep are at most IDLE_SLOTS of its idle slots (R170,
R181)? -/
def idleSlot (s : State) (k n : Nat) (since : Option Nat) : Bool :=
  let h := k / 68 / 128
  let slots := (s.clk.tick - since.getD 0) * 1000 / strikePeriod s h (floorNow s h) - sget (fun _ => (0 : Nat)) s.col.struck k
  decide (65536 * (n + 1) ≤ (s.img.bound.budget 3).idleSlots * slots)

/-- The sweep of a folio. -/
def sweepOf (s : State) (k : Nat) : Option SweepRun := sget (fun _ => (none : Option SweepRun)) s.col.sweeps k

/-- May a folio be struck for a sweep now (R34, R70, R170, R172)? -/
def maySweep (s : State) (k : Nat) : Bool :=
  let f := folioAt s k
  let n := ((sweepOf s k).map (·.codes.length)).getD 0
  (f.st == .serving && !bindHolds s f.region && archiveHere s f.region && activityOn s (Reg.COL_CTRL.ACTIVE_EN (k / 68 / 128)) 3 && ((sweepOf s k).isSome || sweepDue s f) &&
      betweenVectors s k && !passNeeds s k && idleSlot s k n (match sweepOf s k with | some x => x.since | none => f.lastSweep)) ||
    (f.st == .collating && !f.ready && ((sweepOf s k).isSome || decide (f.sweeps < 16)) && (f.purpose == .accession || archiveHere s f.region))

/-- ACTIVE_SWEEP (R51, R70, R170): the next strike of a folio's sweep, which the first one starts: 16 zero planes, then 112 pseudo-random ones. A pass's need
wins, and a hall whose clock is stretched or paused defers it. -/
def execActiveSweep (shelf pos : Nat) (s : State) : Out :=
  .next (
    let k := folioKey shelf pos
    let f := folioAt s k
    let h := hallOf shelf
    let run := (sweepOf s k).getD { number := f.sweeps, temp := hallTemp s h, since := f.lastSweep, codes := [] }
    if hallOff s h || (hallPower s h).stretched || (hallPower s h).gated || !maySweep s k || 128 ≤ run.codes.length then s
    else
      let s1 := if (sweepOf s k).isSome then s else modFolio s k fun f => { f with sweeps := f.sweeps + 1, lastSweep := some s.clk.tick }
      let x := engineStrike s1 k (sweepRows k run.number run.codes.length)
      { x.2 with col := { x.2.col with sweeps := sset (fun _ => none) x.2.col.sweeps k (some { run with codes := run.codes ++ [x.1] }) } })

/-- A column's fit of a sweep: k̂, ô and the coarse- and fine-threshold errors in 1/256 code. -/
structure ColFit where
  k : W32
  o : Int
  coarse : Int
  fine : Int
  deriving DecidableEq, Repr

/-- The fit of a column (R171): the offset is the mean of the zero planes; the gain the least-squares slope of the random planes' codes, less the offset,
against their ideal sums (1 where those are all 0); a column without residuals has no threshold error, and what the steps of the others show of the
thresholds is not stated (log entry 55). -/
def fitColumn (e : Nat) (zero random : List Int) (ideal : List Int) : ColFit :=
  let z := zero.sum
  let n := zero.length
  let uc := (List.zipWith (· * ·) ideal random).sum
  let uu := (ideal.map fun u => u * u).sum
  let slope := if uu = 0 then Frac.ofInt 1 else (Frac.ofInt (2 ^ e * (n * uc - ideal.sum * z))).div (.ofInt (n * uu))
  let exact := (List.zipWith (fun u c => ((slope.mul (.ofInt (n * u))).sub (.ofInt (2 ^ e * (n * c - z)))).num == 0) ideal random).all id
  { k := slope.toW, o := ((⟨256 * z, max 1 n⟩ : Frac)).either, coarse := if exact then 0 else Config.coarseStep random ideal
    fine := if exact then 0 else Config.fineStep random ideal }

/-- The fits of a sweep's columns. -/
def sweepFits (f : Folio) (k : Nat) (run : SweepRun) : List ColFit :=
  let rows := (List.range 112).map fun m => (sweepRows k run.number (m + 16)).map fun i => (i, 1)
  (List.range 512).map fun j =>
    let cs := run.codes.map fun c => c.getD j 0
    fitColumn f.rangeExp (cs.take 16) (cs.drop 16) (rows.map (idealSum f j))

/-- Has a column converged (R171)? -/
def columnConverged (x : ColFit) : Bool :=
  !devAbove x.k fone 1 1000 && decide (x.o.natAbs ≤ 16) && decide (x.coarse.natAbs ≤ 32) && decide (x.fine.natAbs ≤ 32)

/-- May a column's trim of a COLLATING folio be programmed again (R165): it has been reprogrammed fewer than three times and programmed fewer than 10,000? -/
def mayRetrim (s : State) (k j : Nat) : Bool :=
  let f := folioAt s k
  decide (j < 512 ∧ (sget (fun _ => freshTrim) f.trims j).count < 3) &&
    (engGrade s || decide (f.trimProgs + sget (fun _ => (0 : Nat)) f.trimExtra j < 10000))

/-- A column trim is programmed again, at a target within 0.80 to 1.25 of nominal (R165); its DELAY starts again at 0. -/
def retrim (s : State) (k j target : Nat) : State :=
  let s1 := modFolio s k fun f =>
    let t := sget (fun _ => freshTrim) f.trims j
    let b := activeBank f
    let w := tapAt b j
    let b' := sset (fun _ => (0 : W32)) b j (tapWord (tapCoarse w) (tapFine w) 0 (tapOffset w))
    { f with trims := sset (fun _ => freshTrim) f.trims j ⟨t.count + 1, min 81920 (max 52429 target)⟩
             trimExtra := smod (fun _ => 0) f.trimExtra j (· + 1)
             bankA := if f.bank = 0 then b' else f.bankA, bankB := if f.bank = 0 then f.bankB else b' }
  { s1 with col := { s1.col with khat := sset (fun _ => fone) s1.col.khat (k * 512 + j) fone } }

/-! ### Calibration batches (R174, R190, R200) -/

/-- The calibration batch of a stage: from the body that is being accessed, or from the committed package. -/
def batchFor (s : State) (r st : Nat) : Option Bytes :=
  let a := accOf s r
  match a.manifest.filter fun _ => !a.restore with
  | some m => bodyBatch a m st
  | none => (a.newPackage.orElse fun _ => a.package).map fun p => slice p.calib (batchSize * st) batchSize

/-- Element i of vector v of a batch. -/
def batchAt (b : Bytes) (v i : Nat) : Int := rdInt b (8 + 1024 * v + i) 1

/-- The moments record of a folio (Boot collation): for each column and plane the sum and the sum of squares of the codes that the 256
vectors of the batch give (keys 1,024 p + 2 j and 1,024 p + 2 j + 1). -/
def momentsOf (s : State) (k : Nat) (b : Bytes) : Sparse Int × State :=
  (List.range 2048).foldl (fun (a : Sparse Int × State) n =>
    let p := n % 8
    let x := engineStrike a.2 k ((List.range 1024).filter fun i => planeBit (batchAt b (n / 8) i) p)
    (x.1.zipIdx.foldl (fun t c => smod (fun _ => (0 : Int)) (smod (fun _ => (0 : Int)) t (1024 * p + 2 * c.2) (· + c.1))
      (1024 * p + 2 * c.2 + 1) (· + c.1 * c.1)) a.1, x.2)) ([], s)

/-- A folio's moments are recorded (R200), once the batch of its stage has arrived. -/
def recordMoments (s : State) (k : Nat) : State :=
  match (folioStage s k).bind (batchFor s (folioAt s k).region) with
  | none => s
  | some b =>
    let m := momentsOf s k b
    { m.2 with col := { m.2.col with moments := sset (fun _ => ([] : Sparse Int)) m.2.col.moments k m.1 } }

/-- α_f follows a sweep at a new temperature (R167). -/
def putAlpha (s : State) (k : Nat) (temp : Int) (alpha : W32) : State :=
  match sget (fun _ => (none : Option Int)) s.col.fitTemp k with
  | none => s
  | some t => if t = temp then s else
    { s with col := { s.col with alpha := sset (fun _ => ((s.pwr.record).map (·.alpha)).getD 0) s.col.alpha k alpha } }

/-- A COLLATING folio's sweep (R165, R171): the taps are written and switched in, and the folio is READY once a sweep converges, or lost after the sixteenth
that does not; before that some of its trims may be programmed again, each column and its target. -/
def collateFit (s : State) (k : Nat) (fits : List ColFit) (temp : Int) (trims : List (Nat × Nat)) : State :=
  let f := folioAt s k
  let window := regionWindow s f.region (k / 68 / 128)
  let s1 := putOffs (putKhat s k (fits.map (·.k))) k (fits.map (·.o))
  let s2 := { s1 with col := { s1.col with fitTemp := sset (fun _ => none) s1.col.fitTemp k (some temp) } }
  let converged := fits.all columnConverged
  let s3 := (if converged then [] else trims).foldl (fun s x => if mayRetrim s k x.1 then retrim s k x.1 x.2 else s) s2
  let b := tunedBank s3 k window { sweep := true, coarse := fits.map (·.coarse), fine := fits.map (·.fine) } true true
  let s4 := noteLimits (switchBank (modFolio s3 k fun f => putShadow f b) k) k b
  if converged then recordMoments (modFolio s4 k fun f => { f with ready := true }) k
  else if 16 ≤ f.sweeps then loseFolio (markFailed s4 [k]) k
  else s4

/-- A requested sweep of a folio is done (R184). -/
def endSweepRequest (s : State) (k : Nat) : State :=
  match (sget (fun _ => none) s.col.request (k / 68 / 128) : Option (Nat × Nat × Nat)) with
  | some q => if q.1 = 1 then endRequest s k else s
  | none => s

/-- SWEEP_FIT (R171): a sweep of 128 strikes is fitted. A COLLATING folio takes its taps and trims; a serving one has its update issued, or waits for the one
before it to take place. Which trims are programmed again, and what α_f becomes, the manual does not state (log entry 55). -/
def execSweepFit (shelf pos : Nat) (trims targets : List Nat) (alpha : W32) (s : State) : Out :=
  .next (
    let k := folioKey shelf pos
    let f := folioAt s k
    match (sweepOf s k).filter fun x => !hallOff s (hallOf shelf) && decide (128 ≤ x.codes.length) with
    | none => s
    | some run =>
      let fits := sweepFits f k run
      let s1 := { s with col := { s.col with sweeps := sset (fun _ => none) s.col.sweeps k none, struck := sset (fun _ => 0) s.col.struck k 0 } }
      let s2 := modFolio (endSweepRequest (putAlpha s1 k run.temp alpha) k) k fun f => { f with sweepPending := false }
      if f.st == .collating then collateFit s2 k fits run.temp (trims.zip targets)
      else if f.st == .serving then
        let s3 := keepFit s2 k { sweep := true, coarse := fits.map (·.coarse), fine := fits.map (·.fine) } (fits.map (·.k)) (fits.map (·.o)) run.temp
        if f.shadowValid then s3 else issueUpdate s3 k true true
      else s2)

/-! ### Temperature (R167) -/

/-- TEMP_SAMPLE (R167, R360): the hall's junction temperature, in 1/256 °C, is kept; chains whose gain was last applied TEMP_STEP or more away are due. -/
def execTempSample (hall : Nat) (temp : Int) (s : State) : Out :=
  .next (
    let s1 := { s with col := { s.col with temps := sset (fun _ => (0 : Int)) s.col.temps hall (junction s hall temp) } }
    ((List.range 128).map fun i => 128 * hall + i).foldl (fun s h => (shelfChains s h).foldl (fun s c =>
      modGain s h c fun g => if stepDue s1 hall g.tApplied then { g with tempDue := true } else g) s) s1)

/-! ### Checkpoints (R173) -/

/-- A tap checkpoint of every folio's active bank into the older of the two slots, the colophon last; a failed write leaves the
older one out. -/
def writeCheckpoint (s : State) (nandOk : Bool) : State :=
  let banks := (s.arr.folios.filter fun e => !(activeBank e.2).isEmpty).map fun e => (e.1, activeBank e.2)
  { s with col := { s.col with checkpoints := if nandOk then (⟨banks⟩ :: s.col.checkpoints).take 2 else s.col.checkpoints.take 1 } }

/-- TAP_CHECKPOINT_TIMER (R173). -/
def execTapCheckpointTimer (nandOk : Bool) (s : State) : Out := .next (if unpowered s then s else writeCheckpoint s nandOk)

/-! ### Deep collation and drift (R172, R176 to R180) -/

/-- A deferral for want of the archive copy, recorded once for a folio (R172): activity 1 refresh, 4 deep collation. -/
def deferArchive (s : State) (k act : Nat) : State :=
  if s.col.deferred.elem k then s
  else annal { s with col := { s.col with deferred := s.col.deferred ++ [k] } } 0x0202 1 (folioObj s k) act 0 0

/-- Deferred work of a folio is carried out (R172): a later deferral is recorded anew. -/
def undefer (s : State) (k : Nat) : State := { s with col := { s.col with deferred := s.col.deferred.filter (· != k) } }

/-- DEEP_COLLATION (R68, R176, R177): a due folio is copied onto a spare at rank 3; a due refresh serves both. -/
def execDeepCollation (shelf pos : Nat) (s : State) : Out :=
  .next (
    let k := folioKey shelf pos
    let f := folioAt s k
    let h := hallOf shelf
    if hallOff s h || f.st != .serving || !f.deepPending || f.refreshDue || f.failed || (copyOf s k).isSome || bindHolds s f.region then s
    else if !archiveHere s f.region then deferArchive s k 4
    else if !activityOn s (Reg.COL_CTRL.DEEP_EN h) 4 || programSlots s h .deep (s.img.bound.budget 4).powerDw = 0 then s
    else match spareFor s shelf 3 with
      | none => s
      | some c => startCopy (undefer s k) k c .deep)

/-- DRIFT_REFRESH (R68, R177, R180): a folio whose refresh is due, or that has failed, is re-accessed onto a spare at rank 2, or 1. -/
def execDriftRefresh (shelf pos : Nat) (s : State) : Out :=
  .next (
    let k := folioKey shelf pos
    let f := folioAt s k
    let h := hallOf shelf
    if hallOff s h || f.st != .serving || !(f.refreshDue || f.failed) || (copyOf s k).isSome || bindHolds s f.region then s
    else if !archiveHere s f.region then deferArchive s k 1
    else
      let p := if f.failed then Purpose.repair else .refresh
      if (!f.failed && !activityOn s (Reg.COL_CTRL.REFRESH_EN h) 1) || programSlots s h p (s.img.bound.budget 1).powerDw = 0 then s
      else match spareFor s shelf (if f.failed then 1 else 2) with
        | none => s
        | some c => startCopy (undefer s k) k c p)

/-- R in units of 0.001 % of column full scale (COL.DRIFT). -/
def residualShown (f : Folio) : Nat := min (f.residual / 10000000000) 65535

/-- A folio's age and residual after an interval that ends at age `e` (R179). -/
def ageFolio (f : Folio) (e : Nat) (temp : Option Int) : Folio :=
  { f with ageHours := min e (2 ^ 32 - 1), residual := if 24 < e then f.residual + driftStep (max f.ageHours 24) e temp else f.residual }

/-- A folio's refresh falls due, or is asked for: a deep-collation copy that runs serves both and counts as a refresh (R177). -/
def markRefresh (s : State) (k : Nat) (hours : Option Nat) : State :=
  let s1 := modFolio s k fun f => { f with refreshDue := true, dueHours := hours }
  match copyOf s k with
  | some c => modFolio s1 c fun f => if f.purpose == .deep then { f with purpose := .refresh } else f
  | none => s1

/-- Does a serving folio's residual stand at its hall's threshold? -/
def overThreshold (s : State) (k : Nat) : Bool :=
  (folioAt s k).st == .serving && decide (fget s (Reg.COL_REFRESH_TH.THRESH (k / 68 / 128)) ≤ residualShown (folioAt s k))

/-- The threshold after an update of R (R179). -/
def checkDrift (s : State) (k : Nat) : State :=
  if overThreshold s k && !(folioAt s k).refreshDue then markRefresh s k (some 0) else s

/-- An hour of a folio (R69, R179, R183): age, residual, refresh due, SPARE_EXHAUSTED, a refresh that has stayed due and unstarted for a day. -/
def hourOf (temps : List Int) (s : State) (k : Nat) : State :=
  let s1 := modFolio s k fun f => ageFolio f (f.ageHours + 1) (some (temps.getD (k / 68 / 128) 0))
  let s2 := if (folioAt s1 k).refreshDue
    then modFolio s1 k fun f => { f with dueHours := if (copyOf s1 k).isSome then none else some (f.dueHours.elim 0 (· + 1)) }
    else checkDrift s1 k
  let s3 := if overThreshold s2 k && (sparesOf s2 (k / 68)).isEmpty then annal s2 0x0201 2 (folioObj s2 k) (residualShown (folioAt s2 k)) 0 0 else s2
  if (folioAt s3 k).st == .serving && (folioAt s3 k).refreshDue && (folioAt s3 k).dueHours == some 24
  then annal s3 0x0200 0 (folioObj s3 k) FState.serving.code 1 24 else s3

/-- DRIFT_HOURLY_UPDATE (R179): every folio that holds weights; `temps` are the halls' mean junction temperatures of the hour in 1/256 °C. -/
def execDriftHourlyUpdate (temps : List Int) (s : State) : Out :=
  .next (if unpowered s then s
    else ((s.arr.folios.filter fun e => e.2.st == .serving || e.2.st == .collating).map (·.1)).foldl (hourOf temps) s)

/-! ### Requests (R184) -/

/-- The folio that a hall's SHF.FOLIO_SEL selects. -/
def selectedFolio (s : State) (hall : Nat) : Nat :=
  folioKey (128 * hall + fget s (Reg.SHF_FOLIO_SEL.SHELF hall)) (fget s (Reg.SHF_FOLIO_SEL.FOLIO hall))

/-- Is an earlier request of a hall still pending? -/
def requestPending (s : State) (hall : Nat) : Bool := (sget (fun _ => none) s.col.request hall : Option (Nat × Nat × Nat)).isSome

/-- A request's result: BUSY leaves TAG alone, an accepted one is echoed. -/
def requestResult (s : State) (hall code : Nat) : State := fset s (Reg.COL_STATUS.LAST_RESULT hall) code

/-- A COL.REQUEST about the selected folio: refused with a code, or accepted and pending (log entry 45 for the order of the codes). -/
def request (s : State) (hall tag cmd : Nat) (fault : Folio → Option Nat) (accept : State → Nat → State) : State :=
  if unpowered s then s
  else if requestPending s hall then requestResult s hall 1
  else
    let k := selectedFolio s hall
    match fault (folioAt s k) with
    | some code => requestResult s hall code
    | none =>
      let s1 := fset (requestResult s hall 0) (Reg.COL_STATUS.TAG hall) tag
      accept { s1 with col := { s1.col with request := sset (fun _ => none) s1.col.request hall (some (cmd, tag, k)) } } k

/-- The refusals of a request that needs a spare. -/
def copyFault (s : State) (hall : Nat) (bit : FieldRef) (act : Nat) (f : Folio) : Option Nat :=
  if f.st != .serving then some 2
  else if (usableSpares s (selectedFolio s hall / 68)).isEmpty then some 3
  else if !archiveHere s f.region then some 4
  else if !activityOn s bit act then some 5 else none

/-- SWEEP (R184). -/
def execReqSweep (hall tag : Nat) (s : State) : Out :=
  .next (request s hall tag 1 (fun f =>
    if f.st != .serving && f.st != .collating then some 2
    else if !archiveHere s f.region then some 4
    else if !activityOn s (Reg.COL_CTRL.ACTIVE_EN hall) 3 then some 5 else none) fun s k => modFolio s k fun f => { f with sweepPending := true })

/-- DEEP (R184). -/
def execReqDeep (hall tag : Nat) (s : State) : Out :=
  .next (request s hall tag 2 (copyFault s hall (Reg.COL_CTRL.DEEP_EN hall) 4) fun s k => modFolio s k fun f => { f with deepPending := true })

/-- REFRESH (R184). -/
def execReqRefresh (hall tag : Nat) (s : State) : Out :=
  .next (request s hall tag 3 (copyFault s hall (Reg.COL_CTRL.REFRESH_EN hall) 1) fun s k => markRefresh s k none)

/-- CHECKPOINT (R173, R184). -/
def execReqCheckpoint (hall tag : Nat) (nandOk : Bool) (s : State) : Out :=
  .next (
    if unpowered s then s
    else if requestPending s hall then requestResult s hall 1
    else writeCheckpoint (fset (requestResult s hall 0) (Reg.COL_STATUS.TAG hall) tag) nandOk)

/-! ### Flips of copies (R36, R66, R177) -/

/-- The copies of a region that are READY replace the folios they copy (R66); DEEP or REFRESH counts one. A bind that has the region in scope defers them
(R36). -/
def flipCopies (s : State) (r : Nat) : State :=
  let ready := if bindHolds s r then [] else (copiesOf s r).filter fun c => (folioAt s c).ready
  ready.foldl (fun s c =>
    let f := folioAt s c
    let old := folioKey (c / 68) f.replaces
    let s1 := if (folioAt s old).st == .serving then giveBack s old else s
    let s2 := enterServing s1 c
    let s3 := match f.purpose with
      | .refresh => fbump s2 (Reg.COL_EVENTS.REFRESH (c / 68 / 128)) 1
      | .deep => fbump s2 (Reg.COL_EVENTS.DEEP (c / 68 / 128)) 1
      | _ => s2
    match folioChain s3 c with
    | some ch => (gainChains s3 (c / 68) ch).foldl (fun s x => deriveGain s x.1 x.2) s3
    | none => s3) s

/-! ### Boot collation (R174, R175, R179) -/

/-- 256 × (sum of squares) − sum², over the planes of a column, and the sum (Table 7-4 step 4). -/
def momentSpread (m : Sparse Int) (j : Nat) : Int × Int :=
  (List.range 8).foldl (fun a p =>
    let x := sget (fun _ => (0 : Int)) m (1024 * p + 2 * j)
    (a.1 + 256 * sget (fun _ => (0 : Int)) m (1024 * p + 2 * j + 1) - x * x, a.2 + x)) (0, 0)

/-- k̂ and ô of a column from the new moments and the recorded ones (DESIGN CHOICE, log entry 55: the manual says "from the ratio"): the ratio of the
spreads' square roots, and the mean code that it leaves over, in 1/256 code. A column without spread keeps gain 1. -/
def momentFit (now kept : Sparse Int) (j : Nat) : W32 × Int :=
  let a := momentSpread now j
  let b := momentSpread kept j
  let k := if a.1 ≤ 0 || b.1 ≤ 0 then fone else roundEither (ratSqrt a.1.natAbs b.1.natAbs 0) 1 (-200)
  (k, (((Frac.ofInt a.2).sub ((fracOf k).mul (.ofInt b.2))).mul ⟨1, 8⟩).either)

/-- The spread of all columns of a folio, whose fall is the common fall (R179). -/
def totalSpread (m : Sparse Int) : Nat := (((List.range 512).map fun j => (momentSpread m j).1).sum).toNat

/-- ν_f (R178): typically 0.008 until collation has fitted it. -/
def nuOf (s : State) (k : Nat) : W32 := sget (fun _ => (0x3C03126F : W32)) s.col.nu k

/-- Steps 3 and 4 of Table 7-4 for a folio: it is struck with its stage's batch, and fitted against its record. -/
def bootFit (hours : Option Nat) (s : State) (k : Nat) : State :=
  match (folioStage s k).bind (batchFor s (folioAt s k).region) with
  | none => s
  | some b =>
    let kept := sget (fun _ => ([] : Sparse Int)) s.col.moments k
    let x := momentsOf s k b
    let fits := (List.range 512).map (momentFit x.1 kept)
    let e := match hours with
      | some n => (folioAt s k).ageHours + n
      | none => offAge (folioAt s k).ageHours (totalSpread kept) (totalSpread x.1) (nuOf s k)
    let s1 := putOffs (putKhat x.2 k (fits.map (·.1))) k (fits.map (·.2))
    let s2 := { s1 with col := { s1.col with
      fitTemp := sset (fun _ => none) s1.col.fitTemp k (some (hallTemp s (k / 68 / 128)))
      nu := if kept.isEmpty then s1.col.nu else sset (fun _ => (0x3C03126F : W32)) s1.col.nu k
        (Config.nuFit (nuOf s k) (folioAt s k).ageHours (roundEither (ratSqrt (totalSpread x.1) (max 1 (totalSpread kept)) 0) 1 (-200))) } }
    checkDrift (modFolio s2 k fun f => ageFolio f e none) k

/-- Steps 4 and 5: bank B is written and becomes active, or the checkpoint taps stay where a fitted gain lies outside 0.80 to 1.25 (R175). -/
def bootTaps (s : State) (k : Nat) : State :=
  let bad := (List.range 512).any fun j => ltRat (khatOf s k j) 80 100 || gtRat (khatOf s k j) 125 100
  let s1 := modFolio s k fun f => { f with bootDone := true, failed := f.failed || bad }
  if bad then s1
  else
    let b := tunedBank s1 k (regionWindow s (folioAt s k).region (k / 68 / 128)) { sweep := false, coarse := [], fine := [] } true true
    countWide (noteLimits (switchBank (modFolio s1 k fun f => putShadow f b) k) k b) k

/-- RST.STATUS as regions become ready (R408, R409): REGION_READY, and READY with step 12 and its times once no committed region is in boot
collation. -/
def showReady (s : State) : State :=
  let held := (List.range 16).filter fun r => (accOf s r).holdBoot
  let s1 := fset s Reg.RST_STATUS.REGION_READY (0xFFFF - (held.map fun r => 2 ^ r).sum)
  if held.isEmpty && fget s Reg.RST_STATUS.READY == 0 then
    let s2 := fset (fset s1 Reg.RST_STATUS.READY 1) Reg.RST_STATUS.STEP 12
    fset (fset s2 Reg.RST_TIMES.COLLATION_MS (s.clk.tick / 1000)) Reg.RST_TIMES.READY_MS (s.clk.bootMs + s.clk.tick / 1000)
  else s1

/-- BOOT_COLLATION_COMPLETE (R174, R175): every serving folio of the region is struck and fitted, then takes its taps; the gains are set, and the region's
held commands may begin. `hours` is the off interval as the always-on domain counted it, `temps` what the halls' converters read. -/
def execBootCollationComplete (region : Nat) (hours : Option Nat) (temps : List Int) (s : State) : Out :=
  .next (
    if unpowered s || !(accOf s region).holdBoot then s
    else
      let mine := (s.arr.folios.filter fun e => e.2.st == .serving && e.2.region == region).map (·.1)
      let s0 := { s with col := { s.col with temps := temps.zipIdx.foldl (fun m t => if t.2 < 4 then sset (fun _ => (0 : Int)) m t.2 t.1 else m) s.col.temps } }
      let s1 := mine.foldl bootTaps (mine.foldl (bootFit hours) s0)
      showReady (modAcc (deriveGains s1 region) region fun a => { a with holdBoot := false, ready := true }))

end Sys2Proof.Machine
end

