-- ==== Sys2Proof/Machine/Scribes.lean ====
section
/-!
DEFINITION. Sys2Proof/Machine/Scribes.lean: what a scribe program reaches (05 R107 to R115): tiles, shelf store, descriptors,
program faults, jobs (R112) and the runs of SCRIBE_RUN (R127, R128).
-/
namespace Sys2Proof.Machine

/-! ### The shelf store (R108) -/

/-- A byte of a shelf store. The table holds the difference from what the bound image places there. -/
def storeByte (s : State) (shelf a : Nat) : Byte := sget (fun _ => 0) s.scr.store (shelf * 2 ^ 20 + a) ^^^ placedByte s shelf a

/-- Bytes of a shelf store. -/
def storeBytes (s : State) (shelf a n : Nat) : Bytes := (List.range n).map fun i => storeByte s shelf (a + i)

/-- Is the line at an address poisoned? -/
def storeBad (s : State) (shelf a : Nat) : Bool := sget (fun _ => false) s.scr.linePoison ((shelf * 2 ^ 20 + a) / 64)

/-- Is any line of a range poisoned? -/
def storeRangeBad (s : State) (shelf a n : Nat) : Bool :=
  (List.range ((a + n + 63) / 64 - a / 64)).any fun i => storeBad s shelf (64 * (a / 64 + i))

/-- Bytes go into a shelf store; byte i carries poison `bad i`. A line written whole takes the new poison, a line written in part
keeps its own as well. -/
def writeStore (s : State) (shelf a : Nat) (bs : Bytes) (bad : Nat → Bool) : State :=
  let n := bs.length
  let data := bs.zipIdx.foldl (fun m p => sset (fun _ => 0) m (shelf * 2 ^ 20 + a + p.2) (p.1 ^^^ placedByte s shelf (a + p.2))) s.scr.store
  let lines := (List.range ((a + n + 63) / 64 - a / 64)).map fun i => a / 64 + i
  let lp := lines.foldl (fun m l =>
    let lo := max (64 * l) a
    let hi := min (64 * l + 64) (a + n)
    let new := ((List.range (hi - lo)).any fun i => bad (lo + i - a)) || (decide (hi - lo < 64) && storeBad s shelf (64 * l))
    sset (fun _ => false) m ((shelf * 2 ^ 20) / 64 + l) new) s.scr.linePoison
  { s with scr := { s.scr with store := data, linePoison := lp } }

/-! ### Scratch in HBM: D4 and D12 -/

def scratchBytes (s : State) (area a n : Nat) : Bytes := (List.range n).map fun i => sget (fun _ => 0) s.scr.hbm (area * 2 ^ 40 + a + i)
def scratchBad (s : State) (area a : Nat) : Bool := sget (fun _ => false) s.scr.hbmPoison ((area * 2 ^ 40 + a) / 64)
def writeScratch (s : State) (area a : Nat) (bs : Bytes) (bad : Bool) : State :=
  { s with scr := { s.scr with
      hbm := bs.zipIdx.foldl (fun m p => sset (fun _ => 0) m (area * 2 ^ 40 + a + p.2) p.1) s.scr.hbm
      hbmPoison := sset (fun _ => false) s.scr.hbmPoison ((area * 2 ^ 40 + a) / 64) bad } }

/-! ### Descriptors (R110) -/

/-- Rows that a D3 window gives each of K and V: the positions of a context. -/
def kvRows : Nat := 131072

/-- Rows of D4 (DESIGN CHOICE, log entry 24: no count is stated). -/
def scratchRows : Nat := passScratch / 64

/-- The run that a job belongs to. -/
def runOf (s : State) (j : Job) : Option Run := if j.kind = 0xE then s.scr.runs.find? fun r => r.stream == j.carrel && r.seq == j.seq else none

/-- The pending class-S check that a job of kind 5 works for (R150): of its shelf, its carrel and its pass. -/
def checkOf (s : State) (shelf : Nat) (j : Job) : Option SCheck :=
  if j.kind = 5 then (vigOf s j.region).checks.find? fun c => c.shelf == shelf && c.carrel == j.carrel && c.passNo == j.seq else none

/-- The descriptors that a job loads (R110): D0 to D4 for an image program, D12 and D13 for SCRIBE_RUN. The length of a row where the
manual gives none is log entry 24. -/
def jobDescs (s : State) (shelf : Nat) (j : Job) : Sparse (Option Desc) :=
  if j.kind = 0xE then
    let r := runOf s j
    let kib := (r.map (·.scratch)).getD 0
    let mask := (carrelNow s j.carrel).mask
    let n := (((s.img.bound.regions.filter fun r => mask.testBit r.id).map fun r => ((accOf s r.id).package.elim 0 fun p => p.blocks.length))).sum
    [(12, some { win := .userScratch ((r.map (·.buf)).getD 0), base := 0, rowLen := 64, stride := 64, rows := kib * 16, write := true })
    , (13, some { win := .archiveOf mask, base := 0, rowLen := 512, stride := 512, rows := 1024 * n, write := false })]
  else
    let rows := (((stageLeaves s j.region j.stage).filter fun l => l.2.1 == shelf).map fun l => l.2.2.2.2).sum
    let d := (qkvAttn s j.region j.stage).elim 128 fun a => 2 * a.d
    let loan := (sessionLoan s j.session).bind fun l => (l.stages.find? fun x => x.stage == j.stage).map fun x => (l, x)
    [(0, some { win := .archive j.region j.stage, base := 0, rowLen := 512, stride := 512, rows := rows, write := false })
    , (1, some { win := .stuckMap, base := 0, rowLen := 64, stride := 64, rows := 68 * 128, write := false })] ++
    (match loan with
      | some (l, x) => [(2, some { win := .loan l.carrel l.adapter j.stage, base := x.off, rowLen := 64, stride := 64, rows := ceilDiv x.len 64, write := false })]
      | none => []) ++
    (if j.kind = 3 then [(3, some { win := .kv j.session j.stage, base := 0, rowLen := d, stride := d, rows := 2 * kvRows, write := true })] else []) ++
    [(4, some { win := .scratch j.region, base := 0, rowLen := 64, stride := 64, rows := scratchRows, write := true })]

/-- The row of D0 for a shelf: its chains in ascending order, the channels of each in ascending order; 512 archive-copy weights. -/
def archiveRow (s : State) (shelf region st row : Nat) : Bytes :=
  let ls := sortBy (((stageLeaves s region st).filter fun l => l.2.1 == shelf).map fun l => (l.2.2.1, l.2.2.2.2)) fun a b => decide (a.1 ≤ b.1)
  let hit := ls.foldl (fun (acc : Option (Nat × Nat) × Nat) l =>
    match acc.1 with
    | some _ => acc
    | none => if row < acc.2 + l.2 then (some (l.1, row - acc.2), acc.2) else (none, acc.2 + l.2)) (none, 0)
  match hit.1 with
  | none => List.replicate 512 0
  | some (c, i) => match (chainFolios s shelf c).find? fun f => slotRun s shelf c f.1 == i / 1024 with
    | none => List.replicate 512 0
    | some f => slice (blockOf (folioAt s f.2).content) (5184 + 512 * (i % 1024)) 512

/-- The row of D0 for a class-S job: the archive-copy rows of the folios that served the sampled pass (R73, R150), by channel of the chain. -/
def checkRow (c : SCheck) (row : Nat) : Bytes :=
  match c.folios.find? fun f => decide (f.base ≤ row ∧ row < f.base + 1024) with
  | some f => slice (blockOf f.content) (5184 + 512 * (row - f.base)) 512
  | none => List.replicate 512 0

/-- The 8 bytes of a stuck-map entry (R203). -/
def stuckEntry (c : StuckCell) : Bytes := leBytes 8 (c.row + c.col * 2 ^ 10 + unsignedOf 8 c.delta * 2 ^ 19 + c.cell * 2 ^ 27)

/-- A row through a descriptor, with its poison. -/
def descRow (s : State) (shelf : Nat) (j : Job) (d : Desc) (row : Nat) : Bytes × Bool :=
  match d.win with
  | .archive r st => (match checkOf s shelf j with | some c => checkRow c row | none => archiveRow s shelf r st row, false)
  | .stuckMap =>
    let m := (folioAt s (folioKey shelf (row / 128))).stuckMap
    ((((m.drop (8 * (row % 128))).take 8).flatMap stuckEntry ++ List.replicate 64 0).take 64, false)
  | .loan c a st => match (findLoan s c a).bind fun l => l.stages.find? fun x => x.stage == st with
    | some x => ((slice (x.data.getD []) (64 * row) 64 ++ List.replicate 64 0).take 64, x.poison)
    | none => (List.replicate 64 0, false)
  | .kv h st => match findSession s h, qkvAttn s j.region st with
    | some x, some a =>
      let v := readHead s x a (decide (kvRows ≤ row)) (row % kvRows) j.kv
      (v.1.flatMap fun w => leBytes 2 (w.toNat / 65536), v.2)
    | _, _ => (List.replicate d.rowLen 0, false)
  | .scratch r => (scratchBytes s r (64 * row) 64, scratchBad s r (64 * row))
  | .userScratch b => (scratchBytes s (runArea shelf b) (64 * row) 64, scratchBad s (runArea shelf b) (64 * row))
  | .archiveOf mask =>
    let bs := (s.img.bound.regions.filter fun r => mask.testBit r.id).flatMap fun r => ((accOf s r.id).package.map (·.blocks)).getD []
    (slice (bs.getD (row / 1024) []) (5184 + 512 * (row % 1024)) 512, false)

/-- May a row be written through a descriptor: the window's permission, and for D3 an append only, at or beyond the session's
stored length (R110, R236). -/
def rowWritable (s : State) (d : Desc) (row : Nat) : Bool :=
  d.write && match d.win with
    | .kv h _ => decide (((findSession s h).elim 0 (·.length)) ≤ row % kvRows)
    | _ => true

/-- A row goes out through a descriptor. -/
def putRow (s : State) (shelf : Nat) (j : Job) (d : Desc) (row : Nat) (bs : Bytes) (bad : Bool) : State :=
  match d.win with
  | .scratch r => writeScratch s r (64 * row) bs bad
  | .userScratch b => writeScratch s (runArea shelf b) (64 * row) bs bad
  | .kv h st => match findSession s h, qkvAttn s j.region st, passOf s j.region with
    | some x, some a, some p =>
      appendHead s p x a (decide (kvRows ≤ row)) (row % kvRows) j.kv
        ((List.range a.d).map fun i => ⟨BitVec.ofNat 32 (rd bs (2 * i) 2 * 65536), bad⟩)
    | _, _, _ => s
  | _ => s

/-- A scratch line in which a read met an uncorrectable error. -/
def spoilScratch (s : State) (area a : Nat) : State :=
  { s with scr := { s.scr with hbmPoison := sset (fun _ => false) s.scr.hbmPoison ((area * 2 ^ 40 + a) / 64) true } }

/-- The region whose archive copy holds a row of D13. -/
def archiveOwner (s : State) (mask row : Nat) : Option Nat :=
  (((s.img.bound.regions.filter fun r => mask.testBit r.id).flatMap fun r =>
    (((accOf s r.id).package.map (·.blocks)).getD []).map fun _ => r.id)[row / 1024]?)

/-- A gather meets an uncorrectable HBM error in a row (R259, R393, R394): the line, the page, the loan's stage or the archive copy is poisoned, and
the event is a poison origin. -/
def rowError (s : State) (shelf : Nat) (j : Job) (d : Desc) (row : Nat) : State :=
  match d.win with
  | .archive r _ => archiveError s r shelf
  | .archiveOf mask => match archiveOwner s mask row with | some r => archiveError s r shelf | none => poisonHbm s (hallOf shelf) none
  | .stuckMap => poisonHbm s (hallOf shelf) (shelfRegion s shelf)
  | .loan c a st => modLoan (poisonHbm s (hallOf shelf) (some j.region)) c a fun l =>
      { l with stages := l.stages.map fun x => if x.stage = st then { x with poison := true } else x }
  | .kv h st => match findSession s h, qkvAttn s j.region st with
    | some x, some a => match headPlace s x a (decide (kvRows ≤ row)) (row % kvRows) j.kv with
      | some (hall, i, addr, n, _) =>
        let s1 := spoilLines (hallFsr s hall (some j.region)) hall (addr / 64 * 64) (((addr + n - 1) / 64 + 1 - addr / 64) * 64)
        poisonPage s1 hall (i, pageAt s1 hall i)
      | none => s
    | _, _ => s
  | .scratch r => poisonHbm (spoilScratch s r (64 * row)) (hallOf shelf) (some r)
  | .userScratch b => poisonHbm (spoilScratch s (runArea shelf b) (64 * row)) (hallOf shelf) none

/-! ### Ends of programs (R111, R114, R115, R128) -/

/-- A run completes (R128, R279): with OK its D12 buffers go to OUT_ADDR in ascending shelf order; they are freed in every case. -/
def finishRun (s : State) (r : Run) (status value : Nat) : State :=
  let out := ((findCmd s r.stream r.seq).map fun k => rd k.body 0x10 8).getD 0
  let size := r.scratch * 1024
  let s1 := if status = stOk then (sortBy r.shelves fun a b => decide (a ≤ b)).zipIdx.foldl (fun s h =>
      dmaWrite s (streamFn r.stream) (out + h.2 * size) (scratchBytes s (runArea h.1 r.buf) 0 size)) s else s
  finish (endRun s1 r.stream r.seq) r.stream r.seq status value

/-- The scribe that draws (R125): the home scribe of output group 0 of a pass's output head. -/
def drawShelf (s : State) (p : Pass) : Option Nat := (homeLeaf s.img.bound p.region (headStage p) 0).map fun l => housedAt s p.region l.2.1

/-- The sampling job of a session has ended on the scribe that draws (R125): a session for which it drew nothing has no candidate (log entry 32). -/
def sampleEnds (s : State) (shelf : Nat) (j : Job) : State :=
  match passOf s j.region with
  | none => s
  | some p =>
    if drawShelf s p = some shelf && (drawing p).elem j.session && !(p.drawn.any fun d => d.1 == j.session)
    then modPass s j.region fun p => { p with drawn := p.drawn ++ [(j.session, none)] } else s

/-- What an image program's end brings about, at HALT or by a fault: outputs that waited for an adapter program stand, an attention
job leaves its partials, a sampling job has drawn. -/
def afterJob (s : State) (shelf : Nat) (j : Job) : State :=
  if j.kind = 2 then settleStage s j.region j.stage
  else if j.kind = 3 then finishAttn s j
  else if j.kind = 4 then sampleEnds s shelf j
  else s

/-- A program reaches HALT: a run has one shelf less, and completes with the last. -/
def haltJob (s : State) (shelf : Nat) (j : Job) : State :=
  let s1 := modScribe s shelf fun u => { u with run := none }
  match runOf s1 j with
  | some r =>
    let left := r.left.erase shelf
    let s2 := { s1 with scr := { s1.scr with runs := s1.scr.runs.map fun x => if x = r then { x with left := left } else x } }
    if left.isEmpty then finishRun s2 { r with left := left } stOk 0xFFFFFFFF else s2
  | none => afterJob s1 shelf j

/-- The 8 bytes at a program's instruction index: of the shelf store, or of its region's programs where the hall lends it a scribe
of a shelf that does not house the region (R229). -/
def programBytes (s : State) (shelf : Nat) (p : Prog) : Bytes :=
  if p.job.kind ≤ 5 ∧ shelfRegion s shelf ≠ some p.job.region
  then (List.range 8).map fun i => programByte s.img.bound p.job.region (8 * p.pc + i)
  else storeBytes s shelf (8 * p.pc) 8

/-- A program fault (R114, R115, R128): the program stops at the instruction, which has no effect, and its transfers that are outstanding are
dropped (DESIGN CHOICE, log entry 24: the manual does not say what becomes of them); SCR.FAULT and the annals record it;
an image program poisons what it was to produce and its scribe is proved first; a run stops on all its shelves with FORMAT. -/
def progFault (s : State) (shelf : Nat) (p : Prog) (code : Nat) : State :=
  let word := leNat (programBytes s shelf p)
  let s1 := fset (fset (fset (fset s (Reg.SCR_FAULT.PC shelf) p.pc) (Reg.SCR_FAULT.PENDING shelf) 1) (Reg.SCR_FAULT.KIND shelf) p.job.kind)
    (Reg.SCR_FAULT.CODE shelf) code
  let s2 := annal s1 0x0402 3 { region := if p.job.kind = 0xE then none else some p.job.region, carrel := some p.job.carrel
                                shelf := some (shelf % 128), die := some (hallOf shelf) } word p.pc code
  let s3 := modScribe s2 shelf fun u => { u with run := none, xfers := u.xfers.filter fun t => t.job != p.job }
  match runOf s3 p.job with
  | some r => finishRun s3 r stFormat shelf
  | none =>
    if p.job.kind = 0xE then s3
    else
      let s4 := modPass (shelfFsr (proveFirst s3 (hallOf shelf) [2 * (shelf % 128)]) shelf) p.job.region fun q =>
        { q with faults := q.faults ++ [(shelf, p.job)] }
      afterJob s4 shelf p.job

/-! ### One instruction (R111, R113, R114) -/

/-- What an instruction comes to: a program fault with its code of SCR.FAULT, a stall, or its effect. -/
inductive Did where
  | fault (code : Nat)
  | stall
  | done (s : State)

/-- An instruction as it is carried out: its shelf, program, word and scribe. -/
structure Insn where
  shelf : Nat
  prog : Prog
  w : SWord
  u : Scribe

/-- An index register. -/
def Insn.x (i : Insn) (n : Nat) : Nat := sget (fun _ => 0) i.u.x n

/-- X[n] + IMM modulo 2^32. -/
def Insn.xImm (i : Insn) (n : Nat) : Nat := (i.x n + i.w.imm) % 2 ^ 32

/-- The operand format. -/
def Insn.fmt (i : Insn) : Fmt := fmtOf i.w.fmt

/-- The descriptor that MOD names, if the job has it. -/
def Insn.desc (i : Insn) : Option Desc := sget (fun _ => none) i.u.desc i.w.mod

/-- K of an MMA (Table 5-7). -/
def Insn.k (i : Insn) : Nat := 32 * (i.w.cnt + 1)

/-- Bytes of n elements. -/
def elemBytes (f : Fmt) (n : Nat) : Nat := n * f.width / 8

/-- The entries of a local selection: k of the session, or 256 (R124). -/
def selectCount (s : State) (j : Job) : Nat := ((findSession s j.session).elim 256 fun x => if x.topK = 0 then 256 else x.topK)

/-- The ranges of the shelf store that an instruction reads or writes, as address and bytes. -/
def Insn.areas (s : State) (i : Insn) : SOp → List (Nat × Nat)
  | .mma =>
    let n := blockLen i.w.mod
    let sc := if fmtMx i.w.fmt then [(i.x i.w.sa + 64 * (i.w.imm / 65536), 16 * (i.k / n)), (i.x i.w.sb + 64 * (i.w.imm % 65536), 64 * (i.k / n))] else []
    [(i.x i.w.sa, elemBytes i.fmt (16 * i.k)), (i.x i.w.sb, elemBytes i.fmt (64 * i.k))] ++ sc
  | .ldt => [(i.xImm i.w.sa, elemBytes i.fmt 1024 + if fmtMx i.w.fmt then 1024 / blockLen i.w.mod else 0)]
  | .stt => [(i.xImm i.w.dst, elemBytes i.fmt 1024 + if fmtMx i.w.fmt then 1024 / blockLen i.w.mod else 0)]
  | .gather => [(i.xImm i.w.dst, (i.w.cnt + 1) * (i.desc.elim 64 (·.rowLen))), (i.x i.w.sa, 4 * (i.w.cnt + 1))]
  | .scatter => [(i.x i.w.sa, (i.w.cnt + 1) * (i.desc.elim 64 (·.rowLen))), (i.xImm i.w.sb, 4 * (i.w.cnt + 1))]
  | .sampleSelect => [(i.xImm i.w.dst, 8 * selectCount s i.prog.job)]
  | _ => []

/-- Is a range aligned, inside the shelf store, for a run inside the run area (R108, R127), and for an image program outside it (R109)? That an image
program whose address an index register leads there faults at run time is the model's choice (log entry 24). -/
def areaOk (run : Bool) (a : Nat × Nat) : Bool :=
  decide (a.1 % 64 = 0 ∧ a.1 + a.2 ≤ 2 ^ 20) &&
    (if run then decide (0xC0000 ≤ a.1 ∧ a.1 + a.2 ≤ 0xE0000) else decide (a.1 + a.2 ≤ 0xC0000 ∨ 0xE0000 ≤ a.1))

/-- Does a range meet the store lines of an outstanding transfer (R111)? -/
def transferMeets (a : Nat × Nat) (t : Transfer) : Bool :=
  let n := t.rows.length * t.desc.rowLen
  decide (a.1 < (t.addr + n + 63) / 64 * 64 ∧ t.addr / 64 * 64 < a.1 + a.2)

/-- The faults that do not depend on what an instruction does: its fields, the instruction limit, its tiles, its addresses. -/
def Insn.check (s : State) (i : Insn) (o : SOp) : Option Nat :=
  let run := decide (i.prog.job.kind = 0xE)
  let is := i.areas s o
  if !fieldsOk i.w o || (o == .mma && (i.w.fmt == 0 || i.w.fmt == 15)) || ((o == .mma) && fmtMx i.w.fmt && i.w.mod == 2 && i.k % 64 != 0) then some 1
  else if !run && decide (2 ^ 22 ≤ i.prog.count) then some 6
  else if (tilesOf i.w o).any (fun t => if run then decide (t < 12 ∨ 16 ≤ t) else decide (12 ≤ t)) then some 7
  else if (o == .gather || o == .scatter) && i.desc.isNone then some 4
  else if !is.all (areaOk run) then some 2
  else none

/-- Is the line that holds a program's next instruction owed by a transfer (R111)? Not where the hall lends the program a scribe. -/
def fetchOwed (s : State) (shelf : Nat) (p : Prog) : Bool :=
  !(decide (p.job.kind ≤ 5) && shelfRegion s shelf != some p.job.region) && (scribeOf s shelf).xfers.any (transferMeets (8 * p.pc, 8))

/-- One instruction of the program that runs on a shelf's scribe, if it is `want`: it stalls while the line it stands in is owed by a transfer; its
faults come next; it stalls while its store lines are owed; else the program moves on and its effect comes about. A proof runs no such program. -/
def runInsn (want : SOp) (body : Insn → State → Did) (shelf : Nat) (s : State) : Out :=
  .next (match (scribeOf s shelf).run with
    | none => s
    | some p =>
      if p.job.kind = 0xF then s
      else if !decide (p.job.first ≤ p.pc ∧ p.pc < p.job.last) then progFault s shelf p 3
      else if fetchOwed s shelf p then s
      else
        let i : Insn := { shelf := shelf, prog := p, w := decodeWord (BitVec.ofNat 64 (leNat (programBytes s shelf p))), u := scribeOf s shelf }
        match opOf i.w with
        | none => progFault s shelf p 1
        | some o =>
          if o ≠ want then s
          else match i.check s o with
          | some c => progFault s shelf p c
          | none =>
            if (i.areas s o).any fun a => i.u.xfers.any (transferMeets a) then s
            else match body i (modScribe s shelf fun u => { u with run := some { p with pc := p.pc + 1, count := p.count + 1 } }) with
            | .fault c => progFault s shelf p c
            | .stall => s
            | .done t => t)

/-- An index register takes a value. -/
def setX (s : State) (shelf n v : Nat) : State := modScribe s shelf fun u => { u with x := sset (fun _ => 0) u.x n v }

/-- The destination tile takes a result over its first columns. -/
def putTile (s : State) (i : Insn) (cols : Nat) (f : Nat → Nat → W32) (bad : Nat → Bool) : State :=
  modTile s i.shelf i.w.dst fun t => t.write i.prog.job.carrel cols f bad

/-! ### Transfers (R111) -/

/-- GATHER_COMPLETE: the oldest transfer of a scribe completes, whatever runs there now; its rows move, with their poison and the errors that
the read met. -/
def execGatherComplete (m : Moved) (s : State) : Out :=
  let shelf := m.shelf
  .next (match (scribeOf s shelf).xfers with
    | [] => s
    | t :: rest =>
      let s1 := modScribe s shelf fun u => { u with xfers := rest }
      if t.isGather then
        let s2 := (m.bad.filterMap fun i => t.rows[i]?).foldl (fun s r => rowError s shelf t.job t.desc r) s1
        t.rows.zipIdx.foldl (fun s r =>
          let (bs, b) := descRow s shelf t.job t.desc r.1
          writeStore s shelf (t.addr + r.2 * t.desc.rowLen) bs fun _ => b || m.bad.elem r.2) s2
      else
        t.rows.zipIdx.foldl (fun s r =>
          let a := t.addr + r.2 * t.desc.rowLen
          putRow s shelf t.job t.desc r.1 (storeBytes s shelf a t.desc.rowLen) (storeRangeBad s shelf a t.desc.rowLen)) s1)

/-! ### Jobs (R112) -/

/-- The rank of a job (R112). -/
def jobRank (j : Job) : Nat := if j.kind ≤ 4 then 0 else if j.kind = 5 then 1 else if j.kind = 0xF then 2 else 3

/-- May a shelf's scribe run attention of a session (R229): a shelf of the session's KV hall that the region is housed on or that is
free; any shelf of that hall if it has neither. -/
def attnScribe (s : State) (r h shelf : Nat) : Bool :=
  hallOf shelf == h &&
    let good := fun x => match shelfRegion s x with | none => true | some q => q == r
    good shelf || !((List.range 128).any fun i => good (128 * h + i))

/-- The next attention job that a shelf's scribe may take: its stage's outputs stand, its session is still in the pass. -/
def nextAttn (s : State) (shelf : Nat) : Option Job :=
  (s.run.live.flatMap fun p => p.attnReady.filter fun j => stageDone s p j.stage && !p.late.elem j.session &&
    ((findSession s j.session).bind (·.hall)).elim false fun h => attnScribe s p.region h shelf).head?

/-- May a proof of a hall's unit run now: the budget enables it or it is forced, and, for a scribe, it has no work of a higher rank and runs nothing
else (R112, R379)? A proof that is forced comes before a run. -/
def proofMayRun (s : State) (h u : Nat) (r : Rotation) : Bool :=
  let shelf := unitShelf h u
  let x := scribeOf s shelf
  let idle := (match x.run with | none => true | some g => g.job.kind == 0xF || (r.forced.elem u && g.job.kind == 0xE)) &&
    x.ready.all (fun j => decide (2 ≤ jobRank j)) && (nextAttn s shelf).isNone
  (r.forced.elem u || (s.img.bound.budget 7).enable) && (unitClass u != 1 || idle)

/-- The proof job that a scribe may take: its unit is under proof in its hall (R112, R379). -/
def proofJobOf (s : State) (shelf : Nat) : Option Job :=
  let h := hallOf shelf
  let r := rotationOf s h
  let u := unitNow r
  if u = 2 * (shelf % 128) && !hallOff s h && !unitFailed s h u && proofMayRun s h u r && decide (r.proof < (proofSet s u).length) then
    some { kind := 0xF, region := 0, stage := 0, carrel := 0, seq := 0, session := 0, tile := r.proof, kv := 0, part := r.job, first := 0, last := 0, entry := 0 }
  else none

/-- The next job of a scribe: the first of the best rank; attention stands with pass work, after the scribe's own. -/
def nextJob (s : State) (shelf : Nat) : Option Job :=
  let ready := (scribeOf s shelf).ready
  match ready.find? fun j => jobRank j == 0 with
  | some j => some j
  | none => match nextAttn s shelf with
    | some j => some j
    | none => match ready.find? fun j => jobRank j == 1 with
      | some j => some j
      | none => match proofJobOf s shelf with
        | some j => some j
        | none => if (scribeOf s shelf).suspended.isSome then none else ready.head?

/-- A job leaves where it waited. -/
def takeJob (s : State) (shelf : Nat) (j : Job) : State :=
  let s1 := modScribe s shelf fun u => { u with ready := u.ready.erase j }
  if j.kind = 3 then modPass s1 j.region fun p => { p with attnReady := p.attnReady.erase j } else s1

/-- Where the class-S staging area holds a check (DESIGN CHOICE, log entry 22: the manual names the area alone): the quantised activations of up to 16
vectors as INT8, K-major, for the job's 128 channels; the 64 totals of each as INT32; and a line with the job's number, how many jobs the check has, the
first row of D0, the chain, the column group, and S_Z × σ_Λ rounded to FP32. -/
def stageCheck (s : State) (shelf : Nat) (c : SCheck) (part : Nat) : State :=
  let n := (c.codes.map (·.length)).foldl max 0
  let acts := (List.range 128).flatMap fun i => (List.range 16).map fun v => BitVec.ofNat 8 (unsignedOf 8 ((c.codes.getD v []).getD (128 * part + i) 0))
  let tots := (List.range 16).flatMap fun v => (List.range 64).flatMap fun j => leBytes 4 (unsignedOf 32 ((c.totals.getD v []).getD j 0))
  let head := leBytes 4 part ++ leBytes 4 (ceilDiv n 128) ++ leBytes 4 (128 * part) ++ leBytes 4 c.chain ++ leBytes 4 c.colGroup ++
    leBytes 4 (checkTolerance c 0).toNat ++ leBytes 40 0
  let clean := fun (_ : Nat) => false
  writeStore (writeStore (writeStore s shelf 0xE8000 acts clean) shelf 0xE9000 tots clean) shelf 0xEA000 head clean

/-- What a job finds in its shelf store when it starts: a run its payload at offset 0 of the run area and a zero-filled D12 buffer (R127), a class-S
job its check. -/
def placeJob (s : State) (shelf : Nat) (j : Job) : State :=
  match runOf s j with
  | some r => modScribe (writeStore s shelf 0xC0000 r.data fun _ => false) shelf fun u => { u with area := some j.carrel }
  | none => match checkOf s shelf j with
    | some c => stageCheck s shelf c j.part
    | none => s

/-- A job starts on a scribe: descriptors, the program at its entry; attention appends its session's keys and values first (R236). -/
def startJob (s : State) (shelf : Nat) (j : Job) : State :=
  let s1 := placeJob (if j.kind = 3 then kvAppend s j.region j.stage j.session else s) shelf j
  modScribe s1 shelf fun u => { u with run := some { job := j, pc := j.entry, count := 0 }, desc := jobDescs s1 shelf j }

/-- SCRIBE_JOB_START (R112): a free scribe starts its next job in rank order, or resumes a suspended run; pass work suspends a run at
the instruction boundary, its transfers going on; a class-S job or a proof runs to its HALT. -/
def execScribeJobStart (shelf : Nat) (s : State) : Out :=
  let u := scribeOf s shelf
  .next (match u.run, nextJob s shelf with
    | none, some j => startJob (takeJob s shelf j) shelf j
    | none, none => match u.suspended with
      | some p => modScribe s shelf fun u => { u with run := some p, suspended := none, x := u.savedX, savedX := [], desc := jobDescs s shelf p.job }
      | none => s
    | some p, some j =>
      if p.job.kind = 0xE && jobRank j == 0
      then startJob (takeJob (modScribe s shelf fun u => { u with run := none, suspended := some p, savedX := u.x }) shelf j) shelf j
      else s
    | some _, none => s)

/-! ### SCRIBE_RUN (R127, R128, R279) -/

/-- The lowest D12 buffer number that no run has. -/
def freeBuf (s : State) : Nat := ((List.range (s.scr.runs.length + 1)).find? fun b => !s.scr.runs.any fun r => r.buf == b).getD 0

/-- SCRIBE_RUN: the fetched payload waits with the run, which waits in its rank on every named shelf; a fetch that fails completes it with FORMAT
(log entry 25). A second run on a shelf waits with its own payload and its own D12 buffer behind the first. -/
def execScribeRun (stream seq : Nat) (f : Fetch) (s : State) : Out :=
  .next (match cmdIn s stream seq .begun 0x10 with
    | none => s
    | some k =>
      if s.scr.runs.any fun r => r.stream == stream && r.seq == seq then s
      else match f with
      | .data b =>
        let len := rd k.body 4 4
        if b.length < len then finish s stream seq stFormat 0xFFFFFFFF
        else
          let shelves := runShelves k.body
          let job : Job := { kind := 0xE, region := 0, stage := 0, carrel := stream, seq := seq, session := 0, tile := 0, kv := 0, part := 0
                             first := 98304, last := 98304 + 16384, entry := 98304 + rd k.body 0 4 }
          let s1 := { s with scr := { s.scr with runs := s.scr.runs ++
            [{ stream := stream, seq := seq, shelves := shelves, left := shelves, scratch := rd k.body 0x18 4, buf := freeBuf s, data := b.take len }] } }
          shelves.foldl (fun s h => readyJob s h (some job)) s1
      | _ => finish s stream seq stFormat 0xFFFFFFFF)

/-- SCRIBE_RUN_TIMEOUT (R128): SCR.RUN_LIMIT expires; the run stops on all its shelves and completes with TIMEOUT. -/
def execScribeRunTimeout (stream seq : Nat) (s : State) : Out :=
  .next (match s.scr.runs.find? fun r => r.stream == stream && r.seq == seq with
    | some r => finishRun s r stTimeout 0xFFFFFFFF
    | none => s)

/-! ### TILE_READ and TILE_WRITE (R94 to R96) -/

/-- May a carrel reach a tile (R95)? -/
def tileAllowed (s : State) (c : Nat) (t : Tile) : Bool := (carrelNow s c).privileged || t.owner == none || t.owner == some c

/-- A TILE_READ takes effect: the unpoisoned rows go to the host; a poisoned row makes it POISONED (R95). -/
def tileReadNow (s : State) (k : Cmd) : State :=
  let t := tileAt s (rd k.body 0 1 * 128 + rd k.body 1 1) (rd k.body 2 1)
  if !tileAllowed s k.stream t then finish s k.stream k.seq stDenied 0
  else
    let s1 := (List.range 16).foldl (fun s r => if t.bad r then s
      else dmaWrite s (streamFn k.stream) (rd k.body 8 8 + 256 * r) ((List.range 64).flatMap fun c => leBytes 4 (t.elem r c).toNat)) s
    finish s1 k.stream k.seq (if t.poison = 0 then stOk else stPoisoned) 0

/-- A TILE_WRITE takes effect: overwrite, or FP32 add (R93). The writer's tag goes to the tile (R95). -/
def tileWriteNow (s : State) (k : Cmd) (b : Bytes) : State :=
  let shelf := rd k.body 0 1 * 128 + rd k.body 1 1
  let t := tileAt s shelf (rd k.body 2 1)
  if !tileAllowed s k.stream t then finish s k.stream k.seq stDenied 0
  else
    let add := rd k.body 3 1 % 2 == 1
    let val := fun r c => let v := BitVec.ofNat 32 (rd b (4 * (64 * r + c)) 4); if add then fadd (t.elem r c) v else v
    finish (modTile s shelf (rd k.body 2 1) fun t => t.write k.stream 64 val fun r => add && t.bad r) k.stream k.seq stOk 0

/-- A tile command that has begun: on a shelf of a region it waits for the pass boundary, on a free shelf it takes effect at once. -/
def tileCommand (s : State) (k : Cmd) (b : Bytes) : State :=
  if (shelfRegion s (rd k.body 0 1 * 128 + rd k.body 1 1)).isSome then
    if s.scr.tileCmds.any fun t => t.1 == k.stream && t.2.1 == k.seq then s
    else { s with scr := { s.scr with tileCmds := s.scr.tileCmds ++ [(k.stream, k.seq, b)] } }
  else if k.op = 0x0E then tileReadNow s k else tileWriteNow s k b

/-- TILE_READ. -/
def execTileRead (stream seq : Nat) (s : State) : Out :=
  .next (match cmdIn s stream seq .begun 0x0E with
    | none => s
    | some k => tileCommand s k [])

/-- TILE_WRITE: `f` is what the fetch of the 4 KiB brought; a fetch that fails completes it with FORMAT (log entry 25). -/
def execTileWrite (stream seq : Nat) (f : Fetch) (s : State) : Out :=
  .next (match cmdIn s stream seq .begun 0x0F with
    | none => s
    | some k => match f with
      | .data b => if b.length < 4096 then finish s stream seq stFormat 0 else tileCommand s k (b.take 4096)
      | _ => finish s stream seq stFormat 0)

/-- The tile commands of a region's shelves take effect, at its pass boundary (R96), in the order in which they came. -/
def tilesAtBoundary (s : State) (region : Nat) : State :=
  s.scr.tileCmds.foldl (fun s t => match findCmd s t.1 t.2.1 with
    | none => { s with scr := { s.scr with tileCmds := s.scr.tileCmds.erase t } }
    | some k =>
      if shelfRegion s (rd k.body 0 1 * 128 + rd k.body 1 1) = some region then
        let s1 := { s with scr := { s.scr with tileCmds := s.scr.tileCmds.erase t } }
        if k.phase == .begun then (if k.op = 0x0E then tileReadNow s1 k else tileWriteNow s1 k t.2.2) else s1
      else s) s

end Sys2Proof.Machine
end

