-- ==== Sys2Proof/Machine/Containment.lean ====
section
/-!
DEFINITION. Sys2Proof/Machine/Containment.lean: proofs, margin walks, maintenance windows, localisation, and the delivery of fault
signature records (18: R377 to R398).
-/
namespace Sys2Proof.Machine

/-- The key of a unit's last completed set. -/
def unitKey (h u : Nat) : Nat := h * 257 + u

/-- The regions that a unit serves: its shelf's, or every one in the hall. -/
def unitRegions (s : State) (h u : Nat) : List Nat :=
  if u = 256 then (s.img.bound.regions.map (·.id)).filter fun r => (regionHalls s r).elem h
  else (shelfRegion s (unitShelf h u)).toList

/-! ### Rehousing (R380) -/

/-- A named shelf begins to be rehoused: onto a stand-in of ranks 2 to 4, from the archive copy; nothing while there is none, or no copy. -/
def rehouse (s : State) (r n : Nat) : State :=
  let a := accOf s r
  match s.img.bound.region? r with
  | none => s
  | some g =>
    if a.phase != .idle || !a.archive || a.package.isNone || a.targets.any fun t => t.named == n then s
    else match standInFor s (a.targets.map (·.shelf)) n (usedSlots s.img.bound n).length with
      | none => s
      | some x => modAcc s r fun a => { a with
          newHousing := sset (fun i => i) (if a.targets.isEmpty then a.housing else a.newHousing) n x
          targets := a.targets ++ shelfTargets s.img.bound g n (doubleSpares s x) }

/-- The named shelves of a region whose housing shelf has failed. -/
def failedNamed (s : State) (r : Nat) : List Nat :=
  match s.img.bound.region? r with
  | none => []
  | some g => g.shelves.filter fun n => shelfFailed s (housedAt s r n)

/-- The named shelves of an offline region that house a failed folio with no spare to take its place: they wait to be rehoused (R387). -/
def bareNamed (s : State) (r : Nat) : List Nat :=
  match s.img.bound.region? r with
  | none => []
  | some g => g.shelves.filter fun n =>
    let x := housedAt s r n
    (accOf s r).offline && (sparesOf s x).isEmpty && ((List.range 68).map (folioKey x)).any fun k => (folioAt s k).st == .serving && (folioAt s k).failed

/-- A region that stands on a failed unit goes offline, and its failed shelves begin to be rehoused; so do shelves without a spare for a failed
folio that have waited for a stand-in or for the archive copy. -/
def shelterRegion (s : State) (r : Nat) : State :=
  match failedNamed s r with
  | [] => (bareNamed s r).foldl (fun s n => rehouse s r n) s
  | ns => (ns.filter fun n => !s.con.failedHalls.elem (hallOf (housedAt s r n))).foldl (fun s n => rehouse s r n)
      (modAcc s r fun a => { a with offline := true })

/-! ### The ends of taint windows (R388) -/

/-- Has the unit that a window blames left service: every folio of the chain that failed has been replaced, or has left at the close of a
maintenance window (R384), and no localisation goes on; or the region stands still after a failed unit? -/
def taintOver (s : State) (t : Taint) : Bool :=
  if t.cls = 3 || (t.cls = 1 && shelfFailed s t.shelf) then t.regions.all fun r => (passOf s r).isNone
  else (t.cls = 1 || t.cls = 4) && !(s.con.locals.any fun l => l.shelf == t.shelf && l.chain == t.chain) &&
    !((chainFolios s t.shelf t.chain).any fun f => (folioAt s f.2).failed && !s.con.gone.elem f.2)

/-- What a final report says was done: 1 a folio substituted, 2 a shelf rehoused, 3 a region offline, 4 a hall failed. -/
def taintAction (s : State) (t : Taint) : Nat :=
  if 512 ≤ t.shelf then 4
  else if t.regions.any fun r => (accOf s r).targets.any fun x => housedAt s r x.named == t.shelf then 2
  else if t.cls = 3 || shelfFailed s t.shelf then 3 else 1

/-- The windows whose unit has left service end with their final report. -/
def settleTaints (s : State) : State :=
  (s.con.taints.filter (taintOver s)).foldl (fun s t => endTaints s (fun x => x == t) s.clk.epoch (taintAction s t)) s

/-! ### Proofs (R378 to R381) -/

/-- The localisations on a failed shelf or in a failed hall are over, and no unit of it is forced any more (R380, R387). -/
def dropFailed (s : State) (h u : Nat) : State :=
  modRotation { s with con := { s.con with locals := s.con.locals.filter fun l => if u = 256 then hallOf l.shelf != h else l.shelf != unitShelf h u } } h
    fun r => { r with forced := r.forced.filter fun x => u != 256 && (x == 256 || x / 2 != u / 2) }

/-- A unit fails for good (R380): its record, its window, its shelf or hall, the regions that stand on it. -/
def failUnit (s : State) (h u : Nat) (d : ProofDef) (observed : Bytes) : State :=
  let cls := unitClass u
  let shelf := unitShelf h u
  let rs := unitRegions s h u
  let con := if u = 256
    then { s.con with failedHalls := if s.con.failedHalls.elem h then s.con.failedHalls else s.con.failedHalls ++ [h] }
    else { s.con with failedShelves := if s.con.failedShelves.elem shelf then s.con.failedShelves else s.con.failedShelves ++ [shelf] }
  let s1 := dropFailed { s with con := con } h u
  let s2 := fset (fset (fset s1 Reg.CUR_PROOF_STATUS.LAST_CLASS cls) Reg.CUR_PROOF_STATUS.LAST_HALL h) Reg.CUR_PROOF_STATUS.LAST_SHELF
    (if u = 256 then 0 else u / 2)
  let s3 := if u = 256 then fset s2 Reg.CUR_PROOF_STATUS.HALL_FAILED (fget s2 Reg.CUR_PROOF_STATUS.HALL_FAILED ||| 2 ^ h)
    else fset s2 Reg.CUR_PROOF_STATUS.FAILED_SHELVES con.failedShelves.length
  let s4 := fsr s3 4 none
    [ (if u = 256 then (13, .arr [.uint h, .nul, .nul, .nul, .nul, .nul]) else placeKey s3 shelf none none none)
    , (19, .arr [.uint d.id, .uint cls, .bstr d.answer, .bstr (observed.take 8)]), (22, .one (.uint (if u = 256 then 4 else 0))) ]
  let s5 := annal s4 0x0500 (if u = 256 then 4 else 3) { region := rs.head?, shelf := if u = 256 then none else some (u / 2), die := some h } 4 d.id cls
  let start := sget (fun _ => 0) s5.con.proofEpoch (unitKey h u)
  let s6 := if rs.isEmpty then s5 else
    openTaint s5 { regions := rs, start := start, detected := s5.clk.epoch, bounded := true, shelf := if u = 256 then 512 + h else shelf
                   chain := 0, group := 0, stage := 0, cls := 3 }
  let s7 := rs.foldl (fun s r => announce s 3 r 0 start) s6
  let s8 := rs.foldl (fun s r => if u = 256 || (passOf s r).isNone then shelterRegion s r else s) s7
  settleTaints s8

/-- The localisations that wait for the proofs of a shelf end with the result NONE once its sequencer has passed (R387); their windows
end at the epoch of detection. -/
def localNone (s : State) (shelf : Nat) : State :=
  let ls := s.con.locals.filter fun l => l.shelf == shelf && l.passes == 9
  let s1 := { s with con := { s.con with locals := s.con.locals.filter fun l => !ls.elem l } }
  ls.foldl (fun s l =>
    let ts := s.con.taints.filter fun t => t.cls == 1 && t.shelf == shelf && t.chain == l.chain && t.group == l.group
    let s2 := fsr s 6 (some l.region) [(12, .one (.uint ((ts.head?.map (·.stage)).getD 0))), placeKey s shelf (some l.chain) none (some l.group), (22, .one (.uint 0))]
    ts.foldl (fun s t => endTaints s (fun x => x == t) t.detected 0) (detectRecord s2 { region := some l.region, shelf := some (shelf % 128) } 6 0 0)) s1

/-- A unit's set has completed: the rotation goes on to the next unit (R379). -/
def setDone (s : State) (h u : Nat) : State :=
  let s1 := modRotation s h fun r => { r with
    unit := if r.head.isEmpty then (r.unit + 1) % 257 else r.unit, head := r.head.drop 1, proof := 0, job := 0, retry := false
    forced := r.forced.filter (· != u) }
  let s2 := fbump { s1 with con := { s1.con with
    proofEpoch := sset (fun _ => 0) s1.con.proofEpoch (unitKey h u) s1.clk.epoch
    proofTick := sset (fun _ => 0) s1.con.proofTick (unitKey h u) s1.clk.tick } } Reg.CUR_PROOF_STATS.PASSED 1
  if unitClass u = 2 then localNone s2 (unitShelf h u) else s2

/-- A proof job that a hall's scribe runs leaves it: the job has ended. -/
def endProofRun (s : State) (h : Nat) : State :=
  let shelf := unitShelf h (unitNow (rotationOf s h))
  match (scribeOf s shelf).run with
  | some p => if p.job.kind = 0xF ∧ unitClass (unitNow (rotationOf s h)) = 1 then modScribe s shelf fun x => { x with run := none } else s
  | none => s

/-- PROOF_JOB (R379, R380): the next job of a hall's rotation; `observed` is the digest that the proof's last job leaves. A unit that
has failed is passed over. -/
def execProofJob (hall : Nat) (observed : Bytes) (s : State) : Out :=
  .next (
    let r := rotationOf s hall
    let u := unitNow r
    if hallOff s hall || s.con.failedHalls.elem hall || !proofMayRun s hall u r then s
    else if u ≠ 256 && s.con.failedShelves.elem (unitShelf hall u) then
      modRotation s hall fun r => { r with unit := if r.head.isEmpty then (r.unit + 1) % 257 else r.unit, head := r.head.drop 1, proof := 0, job := 0, retry := false }
    else match (proofSet s u)[r.proof]? with
      | none => setDone s hall u
      | some d =>
        let s := endProofRun s hall
        if r.job + 1 < d.jobs then modRotation s hall fun r => { r with job := r.job + 1 }
        else if observed.take 8 = d.answer then
          let s1 := modRotation s hall fun r => { r with proof := r.proof + 1, job := 0, retry := false }
          if r.proof + 1 < (proofSet s u).length then s1 else setDone s1 hall u
        else if !r.retry then fbump (modRotation s hall fun r => { r with job := 0, retry := true }) Reg.CUR_PROOF_STATS.MISMATCH 1
        else failUnit (modRotation s hall fun r => { r with
          unit := if r.head.isEmpty then (r.unit + 1) % 257 else r.unit, head := r.head.drop 1, proof := 0, job := 0, retry := false }) hall u d observed)

/-- PROOF_FORCE (R379): a unit whose set has not completed within PERIOD_S − 1 s is forced. -/
def execProofForce (hall unit : Nat) (s : State) : Out :=
  .next (
    let late := decide (sget (fun _ => 0) s.con.proofTick (unitKey hall unit) + ((s.img.bound.budget 7).periodS - 1) * 1000000 ≤ s.clk.tick)
    if unpowered s || 256 < unit || !late || unitFailed s hall unit || (rotationOf s hall).forced.elem unit then s
    else modRotation s hall fun r => { r with forced := r.forced ++ [unit] })

/-- A forced job is put in at a pass boundary: one for a hall, none where a flip falls (R379, R381). -/
def insertForced (s : State) (h : Nat) : State :=
  match (rotationOf s h).forced with
  | [] => s
  | u :: _ => fbump (modRotation s h fun r => if unitNow r = u then r else { r with head := u :: r.head.filter (· != u), proof := 0, job := 0, retry := false })
      Reg.CUR_PROOF_STATS.FORCED 1

/-! ### Margin walks (R382 to R384) -/

/-- A walk failure's record (R396 kind 5) and its place in the annals. -/
def walkRecord (s : State) (k action step : Nat) : State :=
  let f := folioAt s k
  let shelf := k / 68
  let chain := folioChain s k
  let s1 := fsr s 5 (if f.logical = 0x7F then none else some f.region)
    [placeKey s shelf chain (some (k % 68)) none, conditionsKey s shelf (chain.getD 0), (22, .one (.uint action))]
  annal s1 0x0500 2 (folioObj s1 k) 5 step 0

/-- A spare is retired. -/
def retire (s : State) (k : Nat) : State :=
  modFolio (toState s k .retired) k fun f => { f with ready := false, logical := 0x7F, purpose := .none, replaces := 0x7F }

/-- The walk of a spare: the pattern costs one WEAR where the folio does not hold it; a failed step retires the folio (R382). -/
def walkSpare (s : State) (k : Nat) (failed : List Nat) : State :=
  let s1 := if (folioAt s k).content == .pattern then s else modFolio s k fun f => { f with content := .pattern, wear := min (f.wear + 1) 16383 }
  let s2 := modFolio s1 k fun f => { f with sweeps := f.sweeps + 1 }
  if !failed.isEmpty then retire (walkRecord (markFailed s2 [k]) k 0 (failed.headD 0)) k
  else if wornOut s2 (folioAt s2 k) then retire s2 k else s2

/-- The epoch at which walk evidence starts: the latest clean check of any column group of the folio's chain (R388). -/
def walkSince (s : State) (k c : Nat) : Nat :=
  ((List.range 8).map fun g => cleanSince s (k / 68) c g).foldl max 0

/-- The walk of a serving folio in a window: a failed step 1 opens a taint window and takes the folio out at the close; any failed
step has it substituted at rank 1 (R384). -/
def walkServing (s : State) (w : MaintWin) (k : Nat) (failed : List Nat) : State :=
  let one := failed.elem 1
  let s1 := { s with con := { s.con with window := some { w with
    walked := w.walked ++ [k], failed := if one then w.failed ++ [k] else w.failed } } }
  if failed.isEmpty then s1
  else
    let s2 := fbump (walkRecord (markFailed s1 [k]) k 1 (failed.headD 0)) Reg.CUR_MAINT_STATUS.FAILED 1
    let c := (folioChain s2 k).getD 0
    if one then
      let start := walkSince s2 k c
      announce (openTaint s2 { regions := [(folioAt s2 k).region], start := start, detected := s2.clk.epoch, bounded := true
                               shelf := k / 68, chain := c, group := 0, stage := (folioStage s2 k).getD 0, cls := 4 })
        4 (folioAt s2 k).region ((folioStage s2 k).getD 0) start
    else s2

/-- The serving folios that a window has not walked. -/
def unwalked (s : State) (w : MaintWin) : List Nat :=
  (s.arr.folios.filter fun e => e.2.st == .serving && w.regions.elem e.2.region && !w.walked.elem e.1).map (·.1)

/-- A window all of whose folios are walked is DONE (R383). -/
def windowDone (s : State) : State :=
  match s.con.window with
  | some w => if w.quiet && (unwalked s w).isEmpty then fset s Reg.CUR_MAINT_STATUS.STATE 3 else s
  | none => s

/-- The walk that a shelf's next freed spare was to take up is under way (R72). -/
def resumeWalk (s : State) (k : Nat) : State := { s with con := { s.con with heldWalks := s.con.heldWalks.filter (· != (k / 68, some k)) } }

/-- A walk is abandoned for a request of a higher rank, which is recorded once, and waits for the next spare that its shelf frees (R72). -/
def abandonWalk (s : State) (k : Nat) : State :=
  if s.con.heldWalks.any fun e => e.1 == k / 68 then s
  else annal { s with con := { s.con with heldWalks := s.con.heldWalks ++ [(k / 68, none)] } } 0x0200 0 (folioObj s k) FState.spare.code 5 0

/-- MARGIN_WALK (R68, R72, R382 to R384): a spare of the rotation, or a serving folio in an open window, is walked; `failed` are the
steps of Table 18-2 that it fails. A spare that a higher rank waits for is not walked. -/
def execMarginWalk (shelf pos : Nat) (failed : List Nat) (s : State) : Out :=
  .next (
    let k := folioKey shelf pos
    let f := folioAt s k
    if hallOff s (hallOf shelf) then s
    else match f.st with
      | .spare =>
        if !(s.img.bound.budget 7).enable || wornOut s f then s
        else if (waitingAbove s shelf 5).length ≥ (usableSpares s shelf).length && !(waitingAbove s shelf 5).isEmpty
        then abandonWalk s k
        else walkSpare (resumeWalk s k) k failed
      | .serving => match s.con.window with
        | some w => if w.quiet && w.regions.elem f.region && !w.walked.elem k then windowDone (walkServing s w k failed) else s
        | none => s
      | _ => s)

/-! ### Maintenance windows (R383, R384) -/

/-- The walk of a window begins once its regions are quiet: HBM units and lanes that fail their steps count, and the units are
withheld for good. -/
def startWalk (s : State) (w : MaintWin) : State :=
  let s1 := { s with con := { s.con with window := some { w with quiet := true }
                                         withheld := s.con.withheld ++ w.hbmBad.filter fun k => !s.con.withheld.elem k } }
  let s2 := fbump (fset s1 Reg.CUR_MAINT_STATUS.STATE 2) Reg.CUR_MAINT_STATUS.FAILED (w.hbmBad.length + w.lanesBad)
  windowDone s2

/-- A window whose regions have no pass in flight begins its walk. -/
def windowQuiet (s : State) : State :=
  match s.con.window with
  | some w => if !w.quiet && w.regions.all fun r => (passOf s r).isNone then startWalk s w else s
  | none => s

/-- A window opens, or is refused with a result code. A LIMIT_MS outside its range is a reserved encoding of a WO field: the whole write, of
`value`, is ignored and recorded (R8). -/
def openWin (s : State) (value tag limit : Nat) (rs : List Nat) (whole orbit : Bool) (hbmBad : List Nat) (lanesBad : Nat) : State :=
  let busy := imgBusy s || (s.acc.any fun e => accBusy e.2) || s.con.window.isSome
  if unpowered s then s
  else if limit < 100 ∨ 3600000 < limit then ignored s 0x109000 value
  else if busy then fset s Reg.CUR_MAINT_STATUS.LAST_RESULT 1
  else if orbit then fset s Reg.CUR_MAINT_STATUS.LAST_RESULT 2
  else
      let w : MaintWin := { regions := rs, module := whole, limitMs := limit, opened := s.clk.tick, quiet := false
                            walked := [], failed := [], hbmBad := hbmBad, lanesBad := lanesBad }
      let s1 := fset (fset (fset s Reg.CUR_MAINT_STATUS.LAST_RESULT 0) Reg.CUR_MAINT_STATUS.TAG tag) Reg.CUR_MAINT_STATUS.FAILED 0
      let s2 := fset (fset s1 Reg.CUR_MAINT_STATUS.HELD ((rs.map fun r => 2 ^ r).sum)) Reg.CUR_MAINT_STATUS.STATE 1
      windowQuiet { s2 with con := { s2.con with window := some w } }

/-- OPEN (R383): a window over the regions of REGION_MASK. -/
def execOpenWindow (tag mask limit : Nat) (s : State) : Out :=
  .next (
    let rs := (s.img.bound.regions.map (·.id)).filter mask.testBit
    openWin s (1 + limit * 2 ^ 8 + mask % 2 ^ 16 * 2 ^ 32 + tag * 2 ^ 48) tag limit rs false (rs.any (orbitRegion s)) [] 0)

/-- OPEN_MODULE (R383): a window over every region, with the HBM and Tsuyx steps. -/
def execOpenModule (tag limit : Nat) (hbmBad : List Nat) (lanesBad : Nat) (s : State) : Out :=
  .next (
    let st := fget s Reg.ORB_STATUS.STATE
    let rs := s.img.bound.regions.map (·.id)
    openWin s (2 + limit * 2 ^ 8 + tag * 2 ^ 48) tag limit rs true (rs.any (orbitRegion s) || decide (st ≠ 0 ∧ st ≠ 4)) hbmBad lanesBad)

/-- A window closes (R383, R384): held commands are released; a folio that failed step 1 leaves service, by its substitute's flip
where that is READY, else its region is offline until then. -/
def closeWin (s : State) (w : MaintWin) (code : Nat) : State :=
  let s1 := { s with con := { s.con with window := none, gone := s.con.gone ++ w.failed.filter fun k => (folioAt s k).st == .serving } }
  let s2 := fset (fset (fset s1 Reg.CUR_MAINT_STATUS.STATE 0) Reg.CUR_MAINT_STATUS.HELD 0) Reg.CUR_MAINT_STATUS.LAST_RESULT code
  settleTaints ((w.regions.filter fun r => (passOf s2 r).isNone).foldl flipCopies s2)

/-- CLOSE (R383). -/
def execCloseWindow (tag : Nat) (s : State) : Out :=
  .next (
    if unpowered s then s
    else
      let s1 := fset (fset s Reg.CUR_MAINT_STATUS.LAST_RESULT 0) Reg.CUR_MAINT_STATUS.TAG tag
      match s1.con.window with
      | some w => closeWin s1 w 0
      | none => s1)

/-- MAINT_LIMIT_EXPIRY (R383): LIMIT_MS from the open; a walk that still runs stops, and the folios not walked are recorded. -/
def execMaintLimitExpiry (s : State) : Out :=
  .next (match s.con.window with
    | none => s
    | some w =>
      let left := unwalked s w
      if w.quiet && left.isEmpty then closeWin s w (fget s Reg.CUR_MAINT_STATUS.LAST_RESULT)
      else closeWin (left.foldl (fun s k => annal s 0x0500 2 (folioObj s k) 5 4 0) s) w 4)

/-! ### Localisation (R387) -/

/-- LOCALISATION_END (R387): after 8 passes. Folios with more than 8 codes beyond the threshold have failed: each is substituted at rank
1, or its shelf is rehoused where it has no spare. With none, the shelf's scribe and sequencer are proved first. -/
def execLocalisationEnd (region : Nat) (s : State) : Out :=
  .next (match s.con.locals.find? fun l => l.region == region && l.passes == 8 with
    | none => s
    | some l =>
      let slots := (l.beyond.filter fun e => decide (8 < e.2)).map (·.1)
      let ks := slots.filterMap (servingAt s l.shelf)
      let stage := ((s.con.taints.find? fun t => t.cls == 1 && t.shelf == l.shelf && t.chain == l.chain).map (·.stage)).getD 0
      if ks.isEmpty then
        let s1 := { s with con := { s.con with locals := s.con.locals.map fun x => if x == l then { x with passes := 9 } else x } }
        proveFirst s1 (hallOf l.shelf) [2 * (l.shelf % 128), 2 * (l.shelf % 128) + 1]
      else
        let s1 := markFailed { s with con := { s.con with locals := s.con.locals.filter fun x => x != l } } ks
        let bare := (sparesOf s1 l.shelf).isEmpty
        let s2 := ks.foldl (fun s k => detectRecord (fsr s 6 (some region)
          [(12, .one (.uint stage)), placeKey s l.shelf (some l.chain) (some (k % 68)) (some l.group), (22, .one (.uint (if bare then 2 else 1)))])
          (folioObj s k) 6 1 0) s1
        if bare then rehouse (modAcc s2 region fun a => { a with offline := true }) region ((namedShelf s2 l.shelf).getD 0) else s2)

/-- A flip of a folio of a chain under localisation has it start again (R387). -/
def restartLocals (s : State) (shelf c : Nat) : State :=
  { s with con := { s.con with locals := s.con.locals.map fun l =>
    if l.shelf == shelf && l.chain == c && decide (l.passes < 9) then { l with passes := 0, beyond := [] } else l } }

/-! ### Delivery (R395) -/

/-- Slots of the host ring. -/
def fsrSlots (s : State) : Nat := 2 ^ fget s Reg.CUR_FSR_RING.LOG2_SLOTS

/-- The oldest retained record at or after the cursor. -/
def nextFsr (s : State) : Option Fsr := s.con.fsr.reverse.find? fun r => decide (s.con.fsrCursor ≤ r.seq)

/-- FSR_DELIVER (R395): the next record goes to the ring while a slot is free, its body first. -/
def execFsrDeliver (s : State) : Out :=
  .next (
    let produced := fget s Reg.CUR_FSR_INDEX.PRODUCED
    let used := (produced + 2 ^ 32 - fget s Reg.CUR_FSR_INDEX.CONSUMED) % 2 ^ 32
    match nextFsr s with
    | none => s
    | some r =>
      if unpowered s || !fnUp s .pf0 || fget s Reg.CUR_FSR_RING.ENABLE = 0 || fsrSlots s ≤ used then s
      else
        let at_ := fget s Reg.CUR_FSR_RING.ADDR * 4096 + 1024 * (produced % fsrSlots s)
        let phase := bitOf (produced / fsrSlots s % 2 == 0)
        let s1 := dmaWrite s .pf0 (at_ + 16) r.body
        let s2 := dmaWrite s1 .pf0 at_ (leBytes 8 r.seq ++ leBytes 2 r.body.length ++ leBytes 1 phase ++ leBytes 5 0)
        fset { s2 with con := { s2.con with fsrCursor := r.seq + 1 } } Reg.CUR_FSR_INDEX.PRODUCED (produced + 1))

/-- FSR_RING_ENABLE (R395, R398): a write to CUR.FSR_RING; the ring's place changes only while ENABLE is 0, and setting ENABLE restarts
at slot 0 with the oldest retained record. What the write may not change is left and recorded (R8). -/
def execFsrRingEnable (value : Nat) (s : State) : Out :=
  .next (
    let on := decide (fget s Reg.CUR_FSR_RING.ENABLE = 1)
    let log2 := nbits value 8 4
    let addr := nbits value 12 52
    let badLog := decide (log2 < 4 ∨ 12 < log2) || (on && decide (log2 ≠ fget s Reg.CUR_FSR_RING.LOG2_SLOTS))
    let badAddr := on && decide (addr ≠ fget s Reg.CUR_FSR_RING.ADDR)
    if unpowered s then s
    else
      let s0 := if badLog || badAddr || decide (nbits value 1 7 ≠ 0) then ignored s 0x109020 value else s
      let s1 := if on then s0 else fset s0 Reg.CUR_FSR_RING.ADDR addr
      let s2 := if badLog then s1 else fset s1 Reg.CUR_FSR_RING.LOG2_SLOTS log2
      if value % 2 = 0 then fset s2 Reg.CUR_FSR_RING.ENABLE 0
      else if on then s2
      else
        let s3 := fset (fset s2 Reg.CUR_FSR_RING.ENABLE 1) Reg.CUR_FSR_INDEX.PRODUCED 0
        { s3 with con := { s3.con with fsrCursor := 0 } })

end Sys2Proof.Machine
end

