-- ==== Sys2Proof/Machine/Tsx.lean ====
section
/-!
DEFINITION. Sys2Proof/Machine/Tsx.lean: the Tsuyx link (13: R290 to R308): training, flits received, replay, keep-alives, the loss of
a partner, transactions, snapshots.

The rows of a transaction or a message take the first flit that the port has accepted on its channel, if it is theirs.
-/
namespace Sys2Proof.Machine

/-! ### Acknowledgement and credits (R294, R297) -/

/-- What every good flit carries: the ACK, which releases held flits, and one channel's cumulative credit count. -/
def takeAck (s : State) (n ack crVc credits : Nat) : State :=
  let p := portAt s n
  let k := match p.held.findIdx? fun f => f.seq == ack with | some i => i + 1 | none => 0
  let s1 := modPort s n fun p => { p with
    held := p.held.drop k, replays := if k = 0 then p.replays else 0, credits := modNth (fun _ => credits % 65536) p.credits crVc }
  pump n (portAt s1 n).waiting.length s1

/-! ### Loss (R303, R304) -/

/-- The partner of an ACTIVE port is declared lost (R304): the port enters DOWN, drops what it holds and reports it in doubt, and the
orbit layer learns of it; the other mesh partners are told (R302). Flits accepted and not yet taken go with the link. -/
def declareLost (s : State) (n cause : Nat) : State :=
  if !portActive s n then s
  else
    let s1 := fset (fset (fset s (Reg.TSX_STATUS.STATE n) 3) (Reg.TSX_STATUS.LOSS_CAUSE n) cause) (Reg.TSX_PARTNER.VALID n) 0
    let s2 := modPort s1 n fun p => { p with
      inDoubt := match p.held with | [] => none | f :: fs => some (f.seq, ((fs.getLast?).getD f).seq)
      held := [], waiting := [], injHeld := [], replays := 0, sent := [0, 0, 0], credits := [0, 0, 0], freed := [0, 0, 0], inbox := []
      admitted := false, snapOut := none, locked := false, trains := 0 }
    let s3 := tsxRecord s2 n 1
    let s4 := ((meshPorts s3).filter (· != n)).foldl (fun s m => sendFault s m 2 n []) s3
    portLost s4 n

/-! ### Training (R291, R292, R305) -/

/-- The lanes that a port trains on: all four, or a pair (R292, R309). -/
def lanesWanted (s : State) (n : Nat) : Nat :=
  if fget s (Reg.TSX_CTRL.FORCE_X2 n) = 1 then (if fget s (Reg.TSX_CTRL.PAIR n) = 0 then 0x3 else 0xC)
  else match (portAt s n).pair with
    | 1 => 0x3
    | 2 => 0xC
    | _ => 0xF

/-- The TRAIN body of a port (Table 13-4). -/
def trainBody (s : State) (n : Nat) : Bytes :=
  let o := s.img.bound.orbit
  leBytes 8 s.cur.serial ++ leBytes 1 n ++ leBytes 1 (portClass s n) ++ leBytes 1 o.member ++ leBytes 1 o.stage ++
    leBytes 1 (bitOf (lanesWanted s n != 0xF)) ++ leBytes 8 s.img.bound.serial ++ leBytes 2 32 ++ leBytes 2 384 ++ leBytes 2 128 ++
    leBytes 4 (fget s (Reg.TSX_STATUS.LINK_GEN n)) ++ List.replicate 8 0

/-- PORT_TRAIN (R290, R291): training steps 1 to 4 end with clock lock on the lanes of a mask. With every lane it trains on locked,
the port has codewords and sends TRAIN; in LOOPBACK it shows so and carries no partner. -/
def execPortTrain (port lanes : Nat) (s : State) : Out :=
  .next (if unpowered s || fget s (Reg.TSX_CTRL.ENABLE port) = 0 || portActive s port || (portAt s port).dead then s
    else
      let s1 := fset (fset s (Reg.TSX_STATUS.LANE_LOCK port) lanes) (Reg.TSX_STATUS.STATE port) 1
      let w := lanesWanted s port
      if fget s (Reg.TSX_CTRL.LOOPBACK port) = 1 then fset s1 (Reg.TSX_STATUS.STATE port) 5
      else
        let s2 := fset s1 (Reg.TSX_PARTNER.VALID port) 0
        if lanes &&& w == w
        then putFlit (modPort s2 port fun p => { p with locked := true, trains := 0, partner := [] }) port 3 false 0 0 ([0] ++ trainBody s2 port) false
        else modPort s2 port fun p => { p with locked := false, trains := 0 })

/-- Do two port classes pair (R291)? -/
def classesPair (a b : Nat) : Bool := (a == b && decide (a ≤ 1)) || (a == 2 && b == 3) || (a == 3 && b == 2)

/-- A new link: nothing carries over from the old one (R304). -/
def newLink (p : Port) (b : Bytes) (tick : Nat) : Port :=
  { freshPort with partner := b, pair := p.pair, locked := true, trains := 2, kaLast := tick, injState := p.injState, injSeen := p.injSeen, inDoubt := p.inDoubt
                   reads := p.reads, poisonEpoch := p.poisonEpoch, buffers := [rd b 21 2, rd b 23 2, rd b 25 2] }

/-- What TSX.PARTNER shows of a TRAIN flit. -/
def showPartner (s : State) (n : Nat) (b : Bytes) : State :=
  let s1 := fset (fset s (Reg.TSX_PARTNER.MODULE_ID n) (rd b 0 4)) (Reg.TSX_PARTNER.PORT n) (rd b 8 1)
  let s2 := fset (fset s1 (Reg.TSX_PARTNER.CLASS n) (rd b 9 1)) (Reg.TSX_PARTNER.MEMBER n) (rd b 10 1)
  fset (fset s2 (Reg.TSX_PARTNER.STAGE n) (rd b 11 1)) (Reg.TSX_PARTNER.VALID n) 1

/-- TRAIN received (R291): with the second one the classes are checked; the port enters ACTIVE with a new LINK_GEN and seeks
admission (R312), or enters MISWIRED. -/
def execTrain (port : Nat) (body : Bytes) (s : State) : Out :=
  .next (
    let p := portAt s port
    if !p.locked || fget s (Reg.TSX_STATUS.STATE port) ≠ 1 then s
    else
      let s1 := modPort (showPartner s port body) port fun p => { p with trains := p.trains + 1, partner := body }
      if p.trains + 1 < 2 then s1
      else if classesPair (portClass s port) (rd body 9 1) then
        let s2 := fset (fbump s1 (Reg.TSX_STATUS.LINK_GEN port) 1) (Reg.TSX_STATUS.WIDTH port) (bitOf (lanesWanted s port != 0xF))
        let s3 := modPort (rset (fset s2 (Reg.TSX_STATUS.STATE port) 2) (Reg.TSX_SNAP.COUNT port).addr 0) port fun p => newLink p body s.clk.tick
        seekAdmission s3 port
      else tsxRecord (modPort (fset s1 (Reg.TSX_STATUS.STATE port) 4) port fun p => { p with locked := false }) port 3)

/-- RETRAIN (R303, R309): 1 written to TSX.CTRL.RETRAIN: the partner is lost (cause 4), failed lanes are forgotten, the port trains. -/
def execRetrain (port : Nat) (s : State) : Out :=
  .next (if unpowered s then s
    else
      let s1 := fset (declareLost s port 4) (Reg.TSX_STATUS.LANE_FAIL port) 0
      let s2 := modPort s1 port fun p => { p with pair := 0, dead := false, locked := false, trains := 0 }
      if fget s (Reg.TSX_CTRL.ENABLE port) = 1 then fset s2 (Reg.TSX_STATUS.STATE port) 1 else s2)

/-- LANE_FAIL (R292): a lane fails; the port retrains on a pair without a failed lane, which counts as a loss; without such a pair it
stays DOWN. A fall in width is told to every ACTIVE mesh partner. -/
def execLaneFail (port lane : Nat) (s : State) : Out :=
  .next (
    let st := fget s (Reg.TSX_STATUS.STATE port)
    if st = 0 || st = 5 || 4 ≤ lane then s
    else
      let fails := fget s (Reg.TSX_STATUS.LANE_FAIL port) ||| 2 ^ lane
      let pair := if fails &&& 0x3 == 0 then 1 else if fails &&& 0xC == 0 then 2 else 0
      let wide := (portAt s port).pair == 0 && fget s (Reg.TSX_CTRL.FORCE_X2 port) == 0
      let s1 := fset (declareLost s port 4) (Reg.TSX_STATUS.LANE_FAIL port) fails
      let s2 := modPort s1 port fun p => { p with pair := pair, dead := decide (pair = 0), locked := false, trains := 0 }
      let s3 := tsxRecord (fset s2 (Reg.TSX_STATUS.STATE port) (if pair = 0 then 3 else 1)) port 2
      if wide then ((meshPorts s3).filter (· != port)).foldl (fun s m => sendFault s m 1 port []) s3 else s3)

/-- LANE_LOCK_LOSS (R303): every lane in use has been out of clock lock for 1 µs. -/
def execLaneLockLoss (port : Nat) (s : State) : Out :=
  .next (if portActive s port then fset (declareLost s port 1) (Reg.TSX_STATUS.LANE_LOCK port) 0 else s)

/-! ### Keep-alives (R303) -/

/-- KEEPALIVE_SEND_TIMER: every KA_US an ACTIVE port sends a KEEPALIVE. -/
def execKeepaliveSendTimer (port : Nat) (s : State) : Out :=
  .next (if portActive s port then
      let k := (portAt s port).kaSent + 1
      firstTransmit (modPort s port fun p => { p with kaSent := k }) port { typ := 3, seq := 0, vc := 0, payload := [1] ++ leBytes 4 k }
    else s)

/-- KEEPALIVE received: the loss timer starts again; its flit's ACK and credit count are taken. -/
def execKeepalive (port ack crVc credits : Nat) (s : State) : Out :=
  .next (if portActive s port then takeAck (modPort s port fun p => { p with kaLast := s.clk.tick }) port ack crVc credits else s)

/-- KEEPALIVE_LOSS (R303): no good KEEPALIVE for LOSS_US; one that arrives at the same time wins. -/
def execKeepaliveLoss (port : Nat) (s : State) : Out :=
  .next (if portActive s port && decide ((portAt s port).kaLast + fget s (Reg.TSX_TIMERS.LOSS_US port) ≤ s.clk.tick) then declareLost s port 2 else s)

/-! ### Replay (R295, R296) -/

/-- A replay: every held flit again, in order; after eight without an advance of ACK the link is down. -/
def replay (s : State) (n : Nat) : State :=
  let p := portAt s n
  if p.held.isEmpty then s
  else if 8 ≤ p.replays then declareLost s n 3
  else
    let s1 := p.held.foldl (fun s f => transmit s n f) (modPort s n fun p => { p with replays := p.replays + 1 })
    fbump s1 (Reg.TSX_REPLAY.RESENT n) p.held.length

/-- A NACK with its ACK. -/
def takeNack (s : State) (n ack crVc credits : Nat) : State :=
  replay (takeAck (fbump s (Reg.TSX_REPLAY.NACKS n) 1) n ack crVc credits) n

/-- NACK received (R295). -/
def execNack (port ack crVc credits : Nat) (s : State) : Out :=
  .next (if portActive s port then takeNack s port ack crVc credits else s)

/-- REPLAY_TIMEOUT (R295): held flits and no advance of ACK for REPLAY_NS. -/
def execReplayTimeout (port : Nat) (s : State) : Out :=
  .next (if portActive s port && !(portAt s port).held.isEmpty then replay (fbump s (Reg.TSX_REPLAY.TIMEOUTS port) 1) port else s)

/-- IDLE received (R294). -/
def execIdleFlit (port ack crVc credits : Nat) (s : State) : Out :=
  .next (if portActive s port then takeAck s port ack crVc credits else s)

/-! ### Sequenced flits (R293 to R298, R301) -/

/-- Is the type of a message, or the kind of a transaction, one that has a meaning? -/
def knownPayload (typ : Nat) (b : Bytes) : Bool :=
  if typ = 2 then (match rd b 0 1 with
    | 1 => decide (1 ≤ rd b 16 1 ∧ rd b 16 1 ≤ 8)
    | 3 => decide (1 ≤ rd b 16 1 ∧ rd b 16 1 ≤ 3)
    | t => decide (1 ≤ t ∧ t ≤ 6))
  else decide (1 ≤ rd b 0 1 ∧ rd b 0 1 ≤ 4)

/-- A refused transaction (R300, R304). -/
def refuseTxn (s : State) (n : Nat) : State := tsxRecord (fbump s (Reg.TSX_ERRORS.WINDOW n) 1) n 4

/-- A flit in order is accepted (R295): ACK moves on and the flit stands in its channel's buffer. A message of another type is
discarded and counted in the annals (R301); a transaction of another kind is refused. -/
def acceptFlit (s : State) (n : Nat) (f : Flit) : State :=
  let s1 := modPort s n fun p => { p with ack := f.seq, nackOut := false, inbox := p.inbox ++ [f] }
  if knownPayload f.typ f.payload then s1
  else
    let s2 := modPort s n fun p => { p with ack := f.seq, nackOut := false, freed := modNth (fun x => (x + 1) % 65536) p.freed f.vc }
    if f.typ = 2 then tsxRecord s2 n 4 else refuseTxn s2 n

/-- A sequenced flit that is bad or out of order is discarded; the first one after an accepted flit is answered by NACK. -/
def discardFlit (s : State) (n : Nat) : State :=
  if (portAt s n).nackOut then s else sendIdle (modPort s n fun p => { p with nackOut := true }) n true

/-- SEQUENCED_FLIT_RECEIVE (R293 to R295): the 256 bytes of a flit, how many symbols FEC corrected for it, and whether a codeword of it
was beyond correction. -/
def execSequencedFlitReceive (port : Nat) (flit : Bytes) (corrected : Nat) (uncorrectable : Bool) (s : State) : Out :=
  .next (if !portActive s port then s
    else
      let s0 := fbump (fbump s (Reg.TSX_ERRORS.FEC_CORR port) corrected) (Reg.TSX_ERRORS.FEC_UNCORR port) (bitOf uncorrectable)
      let crcBad := crc32c (flit.take 252) != rd flit 252 4 || flit.length != 256
      let typ := rd flit 0 1
      if uncorrectable || crcBad || 3 < typ then discardFlit (if crcBad then fbump s0 (Reg.TSX_ERRORS.CRC_FAIL port) 1 else s0) port
      else if typ = 0 || typ = 3 then s0
      else
        let ack := rd flit 4 2 % 4096
        let cr := rd flit 7 1
        let s1 := if (rd flit 1 1).testBit 0 then takeNack s0 port ack cr (rd flit 8 2) else takeAck s0 port ack cr (rd flit 8 2)
        if !portActive s1 port then s1
        else if rd flit 2 2 % 4096 = ((portAt s1 port).ack + 1) % 4096 then
          acceptFlit s1 port { typ := typ, seq := rd flit 2 2 % 4096, vc := rd flit 6 1, payload := slice flit 12 (rd flit 10 2) }
        else discardFlit s1 port)

/-! ### Transactions (R299, R300) -/

/-- The regions that PORT_ROLES pairs with a port (R300). -/
def pairedRegions (s : State) (n : Nat) : List Nat :=
  match meshRole s n, portMember s n with
  | some _, some m => (orbitRegions s).filter fun r => (orbitMask s r).testBit m && (orbitMask s r).testBit (self s)
  | _, _ =>
    if 20 ≤ n then (orbitRegions s).filter fun r => s.img.bound.orbit.entries.any fun e => e.1 == r && e.2.1 == 3
    else if 16 ≤ n then orbitRegions s else []

/-- The module shelf of an ADDR, if a line range there lies in the pass scratch of a shelf store of a paired region. -/
def windowShelf (s : State) (n addr len : Nat) : Option Nat :=
  let shelf := nbits addr 27 2 * 128 + nbits addr 20 7
  let a := nbits addr 0 20
  match shelfRegion s shelf with
  | none => none
  | some r => if (pairedRegions s n).elem r && decide (0xA0000 ≤ a ∧ a + len ≤ 0xC0000) && a % 64 == 0 then some shelf else none

/-- The first transaction of a channel, if it is of this kind, is taken; one that comes before admission is discarded and counted
(R304). -/
def onTxn (s : State) (n vc kind : Nat) (f : State → Bytes → State) : Out :=
  .next (match frontFlit s n vc with
    | none => s
    | some x =>
      if rd x.payload 0 1 ≠ kind then s
      else if (portAt s n).admitted then f (popFlit s n vc) x.payload else refuseTxn (popFlit s n vc) n)

/-- WRITE received (R300). -/
def execTsxWrite (port : Nat) (s : State) : Out :=
  onTxn s port 1 1 fun s b =>
    let len := rd b 2 2
    let poison := rd b 1 1 % 128
    match windowShelf s port (rd b 8 8) len with
    | none => refuseTxn s port
    | some shelf =>
      let s1 := writeStore s shelf (nbits (rd b 8 8) 0 20) (slice b 16 len) fun i => poison.testBit (i / 32)
      if poison = 0 then s1 else poisonOrigin s1 shelf

/-- FRAG received (R299, R318): elements of a collective, with poison by chunks of 32 bytes. -/
def execFrag (port : Nat) (s : State) : Out :=
  onTxn s port 1 2 fun s b =>
    let poison := rd b 1 1 % 128
    let xs := (List.range (rd b 2 2 / 4)).map fun i => (⟨BitVec.ofNat 32 (rd b (16 + 4 * i) 4), poison.testBit (i / 8)⟩ : PVal)
    let s1 := if poison = 0 then s else poisonHbm s (port / 6) none
    fragArrive s1 (rd b 4 4) (nbits (rd b 8 8) 32 4) (nbits (rd b 8 8) 0 32) xs

/-- READ_REQ received (R300): the lines with their poison, or poisoned zeros from outside the window. -/
def execReadReq (port : Nat) (s : State) : Out :=
  onTxn s port 1 3 fun s b =>
    let addr := rd b 8 8
    let len := 64 * nbits addr 56 8
    let a := nbits addr 0 20
    let origin := freeDraw s
    match windowShelf s port addr len with
    | none => sendTxn (refuseTxn origin.2 port) port 4 127 (rd b 4 4) addr (List.replicate len 0) (origin.1 % 5 + 1) 0
    | some shelf =>
      let poison := ((List.range (len / 64)).map fun i => if storeBad s shelf (a + 64 * i) then 3 * 2 ^ (2 * i) else 0).sum
      sendTxn origin.2 port 4 poison (rd b 4 4) addr (storeBytes s shelf a len) (origin.1 % 5 + 1) 0

/-- READ_RSP received (R299): the lines go to the requester of the tag. -/
def execReadRsp (port : Nat) (s : State) : Out :=
  onTxn s port 2 4 fun s b => modPort s port fun p => { p with reads := p.reads ++ [(rd b 4 4, slice b 16 (rd b 2 2), rd b 1 1 % 128)] }

/-! ### Faults of others (R302, R321, R392) -/

/-- A detection elsewhere in the orbit (R392): the primary relays it to the members and the later stages, and every member reports its
own pages and sessions over the local window that the PASS_IDs map to. -/
def detectionHeard (s : State) (port : Nat) (detail : Bytes) : State :=
  let r := rd detail 1 1
  let first := rd detail 4 6
  let last := rd detail 10 6
  let body := [3, 0, 0, 0] ++ List.replicate 20 0 ++ detail
  let s1 := if orbState s = 3 then
      ((dispatchPorts s r).filter (· != port)).foldl (fun s n => sendMsg s n 4 body) s
    else s
  let mine := (s1.orb.passes.filter fun p => p.region == r && p.epoch != 0 && decide (first ≤ p.passId ∧ p.passId ≤ last)).map (·.epoch)
  match mine with
  | [] => s1
  | e :: es => taintReport s1 { regions := [r], start := es.foldl min e, detected := es.foldl max e, bounded := rd detail 0 1 == 1
                                shelf := 0, chain := 0, group := 0, stage := rd detail 2 2, cls := rd detail 0 1 } (es.foldl max e) true 0

/-- FAULT received: LANE and POISON_SENT tell of what their own records hold; PORT_LOST counts towards the heir's majority; DETECTION
is relayed and reported. -/
def execFaultMsg (port : Nat) (s : State) : Out :=
  onMsg s port 4 none fun s src b =>
    match rd b 0 1 with
    | 2 => if rd b 2 1 < 15 then lossReported s src (rd b 2 1) else s
    | 3 => detectionHeard s port (slice b 24 16)
    | _ => s

/-! ### Snapshots (R306) -/

/-- SNAP_PERIOD_TIMER: every PERIOD_MS, or at a REQUEST, an ACTIVE port sends SNAP_REQ. -/
def execSnapPeriodTimer (port : Nat) (s : State) : Out :=
  .next (if portActive s port then
      let id := (portAt s port).snapNext
      sendMsg (modPort s port fun p => { p with snapNext := (id + 1) % 65536, snapOut := some (id, s.clk.tick) }) port 5
        (leBytes 2 id ++ List.replicate 6 0 ++ leBytes 8 s.clk.tick)
    else s)

/-- SNAP_REQ received: answered with the ticks of receipt and of answer and the module epoch. -/
def execSnapReq (port : Nat) (s : State) : Out :=
  onMsg s port 5 none fun s _ b =>
    sendMsg s port 6 (slice b 0 2 ++ leBytes 6 s.clk.epoch ++ slice b 8 8 ++ leBytes 8 s.clk.tick ++ leBytes 8 s.clk.tick)

/-- SNAP_RSP received: offset and rtt go into TSX.SNAP, if the ID is that of the latest request. -/
def execSnapRsp (port : Nat) (s : State) : Out :=
  onMsg s port 6 none fun s _ b =>
    match (portAt s port).snapOut with
    | none => s
    | some (id, t1) =>
      if rd b 0 2 ≠ id then s
      else
        let t2 : Int := rd b 16 8
        let t3 : Int := rd b 24 8
        let off := Int.tdiv ((t2 - t1) + (t3 - s.clk.tick)) 2
        let rtt := ((s.clk.tick : Int) - t1) - (t3 - t2)
        let s1 := modPort s port fun p => { p with snapOut := none }
        let s2 := fset s1 (Reg.TSX_SNAP.COUNT port) (fget s (Reg.TSX_SNAP.COUNT port) + 1)
        fset (fset s2 (Reg.TSX_SNAP.RTT_US port) (min 255 rtt.toNat)) (Reg.TSX_SNAP.OFFSET_US port) (unsignedOf 40 off)

end Sys2Proof.Machine
end

