-- ==== Sys2Proof/Machine/RegisterWrite.lean ====
section
/-!
DEFINITION. Sys2Proof/Machine/RegisterWrite.lean: REGISTER_WRITE (00 R8; 21 R426 to R431), with what follows when some plain fields
change (07 R180; 13 R291, R307).

A write whose action has a row of its own (a trigger bit, a ring enable, a new cap) gives its other fields here and its action
there (log entry 2).
-/
namespace Sys2Proof.Machine

/-- Activity numbers of Table 7-6 whose enabling the bound of R140 needs. -/
def boundActivities : List Nat := [1, 2]

/-- A hall's drift refresh or passive collation is disabled (R180): an annals record with the activity, the hall and what disabled it
(0 a register write, 1 a bind). -/
def disabledRecord (s : State) (act hall how : Nat) : State := annal s 0x0202 1 { die := some hall } act hall how

/-- What follows a change of TSX.CTRL.ENABLE (R291) and of TSX.INJ_CTRL.ENABLE (R307). -/
def portWritten (s : State) (n : Nat) (old : State) : State :=
  let was := fget old (Reg.TSX_CTRL.ENABLE n)
  let now := fget s (Reg.TSX_CTRL.ENABLE n)
  let s1 :=
    if was = now then s
    else if now = 1 then fset s (Reg.TSX_STATUS.STATE n) 1
    else modPort (fset (declareLost s n 4) (Reg.TSX_STATUS.STATE n) 0) n fun p => { p with locked := false, trains := 0 }
  let inj := fget s1 (Reg.TSX_INJ_CTRL.ENABLE n)
  if fget old (Reg.TSX_INJ_CTRL.ENABLE n) = inj then s1
  else tsxRecord (if inj = 1 then injEnable s1 n else s1) n 5

/-- What follows a write of a register at an address. -/
def afterWrite (old s : State) (a : Nat) : State :=
  if 0x300000 ≤ a ∧ a < 0x360000 then portWritten s ((a - 0x300000) / 0x4000) old
  else if 0x400000 ≤ a ∧ a < 0x800000 ∧ a % 0x100000 = 0x4000 then
    let h := a / 0x100000 - 4
    let off := fun (f : FieldRef) => fget old f == 1 && fget s f == 0
    let s1 := if off (Reg.COL_CTRL.REFRESH_EN h) then disabledRecord s 1 h 0 else s
    if off (Reg.COL_CTRL.PASSIVE_EN h) then disabledRecord s1 2 h 0 else s1
  else s

/-- A register write that has reached its domain. -/
def writeRegister (s : State) (fn : Fn) (off width value : Nat) : State :=
  match msixKey fn off with
  | some k =>
    if (width = 4 ∨ width = 8) ∧ off % width = 0 then
      let word := withField (msixWord s k) (off % 8 * 8) (8 * width) value
      msixRelease { s with hst := { s.hst with msixTab := sset msixReset s.hst.msixTab k word } } fn (k % 16 / 2)
    else ignored s off value
  | none =>
    let (hit, note) := writeReg s fn off width value
    match hit with
    | none => if note then ignored s off value else s
    | some (a, r) =>
      let s1 := rset s (homeOf s a) r
      afterWrite s (if note then ignored s1 off value else s1) a

/-- A write of `width` bytes at a BAR0 offset (R350, R426): the standby port ignores it, which is recorded; a domain that sleeps holds it; else
it reaches the register, and a hall that it reaches from Idle wakes (R345). -/
def execRegisterWrite (standby : Bool) (fn : Fn) (off width value : Nat) (s : State) : Out :=
  .next (
    if unpowered s then s
    else if standbyPort s standby then ignored s off value
    else if domainReady s (domainOf fn off) then writeRegister (if 4 ≤ domainOf fn off then leaveIdle s else s) fn off width value
    else { s with pst := { s.pst with writes := s.pst.writes ++ [(fn, off, leBytes width value)] } })

end Sys2Proof.Machine
end

