-- ==== Sys2Proof/Machine/Binding.lean ====
section
/-!
DEFINITION. Sys2Proof/Machine/Binding.lean: what a bound image puts into the module (02: R34 to R40, R439; 12 R268; 13 R291; 14 R310 to
R312; 15 R329, R331), and the end of a bind.
-/
namespace Sys2Proof.Machine

/-! ### Ports and orbit roles (R291, R310 to R312) -/

/-- Does PORT_ROLES use a Tsuyx port (R311): a mesh port towards a member, or a transit port towards a neighbouring stage? -/
def portUsed (s : State) (n : Nat) : Bool :=
  let o := s.img.bound.orbit
  decide (o.role ≠ 0) &&
    (((List.range o.members).any fun j => j != o.member && memberPort s j == n) ||
      (decide (16 ≤ n ∧ n < 20) && decide (0 < o.stage)) || (decide (20 ≤ n ∧ n < 24) && decide (o.stage + 1 < o.stages)))

/-- The curator sets TSX.CTRL.ENABLE for the ports that PORT_ROLES uses and clears it for the others (R291). -/
def enablePorts (s : State) : State :=
  (List.range 24).foldl (fun s n => portWritten (fset s (Reg.TSX_CTRL.ENABLE n) (bitOf (portUsed s n))) n s) s

/-- The role of the image: a standalone module, a primary that has admitted itself alone, or a moon that seeks admission. -/
def takeRole (s : State) : State :=
  let o := s.img.bound.orbit
  let s1 := { s with orb := freshOrbit }
  let s2 := fset (fset s1 Reg.ORB_STATUS.MEMBER o.member) Reg.ORB_STATUS.STAGE o.stage
  let s3 := fset (fset s2 Reg.ORB_STATUS.LIVE_MASK (2 ^ o.member)) Reg.ORB_STATUS.HEIR_MISMATCH 0
  let s4 := (List.range 24).foldl (fun s n => modPort s n fun p => { p with admitted := false }) s3
  let s5 :=
    if o.role = 1 then setAdmitted (setHeir (fset (setOrbState s4 3) Reg.ORB_STATUS.PRIMARY o.member) s.img.bound.heir) (2 ^ o.member)
    else setAdmitted (setHeir (setOrbState s4 (if o.role = 2 then 1 else 0)) none) 0
  ((List.range 24).filter (portActive s5)).foldl seekAdmission s5

/-- PORT_ROLES takes effect: port mode, Tsuyx ports, orbit role. -/
def takePorts (s : State) : State :=
  takeRole (enablePorts (fset s Reg.INT_PORT_STATUS.MODE (bitOf (standbyMode s))))

/-! ### Power (R329, R331, R333) -/

/-- PWR.CAP as the image gives it. -/
def loadCap (s : State) : State :=
  let p := s.img.bound.power
  fset (fset s Reg.PWR_CAP.CAP_DW p.capDw) Reg.PWR_CAP.ILIM_DA p.ilimDa

/-- PWR.CTRL's fields as the image gives them; a withdrawn point is ignored (R343). -/
def loadCtrl (s : State) : State :=
  let p := s.img.bound.power
  let s0 := fset s Reg.PWR_CTRL.FIXED (bitOf p.fixed)
  let s1 := if (List.range 4).any fun h => withdrawn s h p.fixedPoint then s0 else fset s0 Reg.PWR_CTRL.FIXED_POINT p.fixedPoint
  fset (fset (fset s1 Reg.PWR_CTRL.FIXED_PERIOD p.fixedPeriod) Reg.PWR_CTRL.SLOPE p.slope) Reg.PWR_CTRL.THERM_C p.thermC

/-- A commit that changes POWER_SHARES: PWR.CAP when CAP_DW or ILIM_DA changes (R331), PWR.CTRL and cleared profiles when anything
does. -/
def rebindPower (s : State) (old : Image) : State :=
  let new := s.img.bound
  let s1 := if old.power.capDw ≠ new.power.capDw ∨ old.power.ilimDa ≠ new.power.ilimDa then loadCap s else s
  if old.body 0xC = new.body 0xC then s1
  else
    let s2 := loadCtrl s1
    { s2 with pwr := { s2.pwr with profiles := [] } }

/-! ### Trust and budgets (R39, R180) -/

/-- The regions whose package's publisher has left the trust list, recorded at commit. -/
def recordDeparted (s : State) (old : Image) : State :=
  let was := old.publishers.map fun k => keyId k.key
  let now := s.img.bound.publishers.map fun k => keyId k.key
  (List.range 16).foldl (fun s r => match (accOf s r).package with
    | none => s
    | some p => if was.elem p.manifest.keyId && !now.elem p.manifest.keyId
      then annal s 0x0101 1 { region := some r } (rd p.manifest.keyId 0 8) p.manifest.serial s.img.bound.serial else s) s

/-- Drift refresh or passive collation that the new budgets disable, hall by hall. -/
def recordDisabled (s : State) (old : Image) : State :=
  boundActivities.foldl (fun s a =>
    if (old.budget a).enable && !(s.img.bound.budget a).enable then (List.range 4).foldl (fun s h => disabledRecord s a h 1) s else s) s

/-! ### Regions of the scope (R36, R439) -/

/-- The named shelf of a region that a module shelf houses under the present housing. -/
def namedBy (s : State) (old : Image) (r shelf : Nat) : Option Nat :=
  ((old.region? r).elim [] Region.shelves).find? fun n => housedAt s r n == shelf

/-- Is slot `k` of a named shelf still a slot of some region under an image? -/
def slotKept (img : Image) (n k : Nat) : Bool :=
  (img.ownerOf n).isSome && (img.chainEntry? n).elim false fun e => e.uses k

/-- The serving folios of a region. -/
def servingOf (s : State) (r : Nat) : List Nat :=
  (s.arr.folios.filter fun e => e.2.st == .serving && e.2.region == r && e.2.logical != 0x7F).map (·.1)

/-- Copies whose shelf leaves their region are abandoned (R36). -/
def abandonMoved (s : State) (old new : Image) (r : Nat) : State :=
  (copiesOf s r).foldl (fun s c => match namedBy s old r (c / 68) with
    | some n => if new.ownerOf n = some r then s else abandonCopy s c
    | none => s) s

/-- A region that the new image removes: its model is retired, its copies abandoned, its folios go back. -/
def removeRegion (s : State) (r : Nat) : State :=
  let s1 := (copiesOf s r).foldl abandonCopy s
  let s2 := (servingOf s1 r).foldl giveBack s1
  modAcc s2 r fun a => { freshAcc with generation := a.generation, lastResult := a.lastResult, retired := true }

/-- A region whose geometry no longer matches its package's: offline, its archive copies freed, folios of slots that no region has any
more given back. -/
def strandRegion (s : State) (old new : Image) (r : Nat) : State :=
  let lost := (servingOf s r).filter fun k => match namedBy s old r (k / 68) with
    | some n => !slotKept new n (folioAt s k).logical
    | none => true
  modAcc (lost.foldl giveBack s) r fun a => { a with offline := true, archive := false, oldArchive := none, ready := true }

/-- A region that keeps its model keeps the shelves that house it, shelf by shelf in ascending order (log entry 26). -/
def keepRegion (s : State) (old new : Image) (r : Nat) : State :=
  let was := (old.region? r).elim [] Region.shelves
  let now := (new.region? r).elim [] Region.shelves
  if was = now then s
  else modAcc s r fun a => { a with
    housing := (was.zip now).foldl (fun m x => sset (fun i => i) m x.2 (sget (fun i => i) a.housing x.1)) [] }

/-- Step 6 for one region of the scope. -/
def rebindRegion (old : Image) (s : State) (r : Nat) : State :=
  let new := s.img.bound
  let s1 := abandonMoved s old new r
  let s2 := match new.region? r, (accOf s1 r).package with
    | none, _ => removeRegion s1 r
    | some _, none => s1
    | some g, some p => if new.geometry g = p.manifest.geometry then keepRegion s1 old new r else strandRegion s1 old new r
  let s3 := modVig s2 r fun v => { v with sCount := 0, nCount := 0, drawn := s2.free }
  reloadPrograms (deriveGains { s3 with free := s3.free + 1 } r) r

/-! ### Carrels and recipes (R37, R38; Table 2-7) -/

/-- Does a carrel have a pass in flight? -/
def carrelRuns (s : State) (n : Nat) : Bool := s.run.live.any fun p => p.stream == n

/-- A carrel's entry changes: PRIORITY, CLASS and POWER_SHARE wait for its pass boundary, the rest counts at once; a live
priority ends where the image changes the priority; a carrel that is disabled loses the blocks in its aperture, and it or one whose quota falls its loans, which no session binds (Table 2-7,
R221). -/
def rebindCarrel (old : Image) (s : State) (n : Nat) : State :=
  let a := old.carrel n
  let b := s.img.bound.carrel n
  if a = b then s
  else
    let s1 := modCarrel s n fun c => { c with
      priority := if a.priority = b.priority then c.priority else none
      oldEntry := if carrelRuns s n then some { b with priority := a.priority, classN := a.classN, powerShare := a.powerShare } else none }
    if (a.enable && !b.enable) || b.loanMib < a.loanMib
    then { modStream s1 n fun st => { st with blocks := if b.enable then st.blocks else [] } with loans := s1.loans.filter fun l => l.carrel != n }
    else s1

/-- Recipes that a RECIPE_SET put in force end where the image changes their item. -/
def keepLive (old new : Image) (xs : List Recipe) : List Recipe :=
  xs.filter fun x => old.recipe? x.region x.stage == new.recipe? x.region x.stage

/-- Live recipes after a bind. -/
def rebindRecipes (s : State) (old : Image) : State :=
  { s with img := { s.img with recipes := keepLive old s.img.bound s.img.recipes, nextRecipes := keepLive old s.img.bound s.img.nextRecipes } }

/-! ### The commit (Table 2-6 steps 4 to 7) -/

/-- The image store after the selector colophon: the pending slot is active, the formerly active image pending; a successor anchor
of the bound image replaces the anchor (R27, R31). The image that the selector named counts as formerly active also where a failed boot
check left the plain image bound in its stead, so that REVERT may bind its slot again: R31 does not speak of that case (DESIGN CHOICE,
log entry 56). -/
def commitStore (st : ImgStore) (new : Image) : ImgStore :=
  { st with active := some (pendingIx st), former := st.active.isSome
            anchor := match new.successor with
              | some k => some (k.oid, k.key)
              | none => st.anchor }

/-- The registers that show the bound image. -/
def showBound (s : State) : State :=
  let s1 := rset s Reg.CUR_IMG_ACTIVE_SERIAL.SERIAL.addr (BitVec.ofNat 64 s.img.bound.serial)
  let s2 := fset s1 Reg.CUR_IMG_STATUS.PLAIN (bitOf s.img.bound.plain)
  showPending (fset s2 Reg.CUR_IMG_STATUS.ANCHOR (bitOf s.img.store.anchor.isSome))

/-- A bind commits. -/
def commitBind (op : BindOp) (s : State) : State :=
  let old := s.img.bound
  let new := op.img
  let st := commitStore s.img.store new
  let rs := if op.whole then (List.range 16).filter fun r => (old.region? r).isSome || (new.region? r).isSome else op.regions
  let s1 := buildTables [0, 1, 2, 3] (showBound { s with img := { s.img with store := st, bound := new, op := none } })
  let s2 := rs.foldl (rebindRegion old) (rebindRecipes s1 old)
  let s3 := (List.range 1024).foldl (rebindCarrel old) s2
  let s5 := recordDisabled (recordDeparted (rebindPower s3 old) old) old
  let s6 := if old.body 0xA = new.body 0xA then s5 else takePorts s5
  let s7 := if old.heir != new.heir then rebindHeir s6 else s6
  imgResult s7 0x00 new.serial 0

/-- Step 4 of Table 2-6 drops every loan entry where LOAN_GIB changes (R25); no verdict of step 5 brings one back. -/
def applyLoans (op : BindOp) (s : State) : State :=
  if s.img.bound.power.loanGib = op.img.power.loanGib then s else { s with loans := s.loans.map dropLoan }

/-- BIND_QUIESCE_DONE (R34, R35): no pass of the scope is in flight any more. `verifyOk` tells whether the readback and the proofs of step
5 held, `nandOk` whether the selector colophon was written; where not, the old image stays bound and the pending slot keeps the new one
(log entry 26). -/
def execBindQuiesceDone (verifyOk nandOk : Bool) (s : State) : Out :=
  .next (match s.img.op with
    | none => s
    | some op =>
      if s.run.live.any fun p => op.whole || op.regions.elem p.region then s
      else
        let s1 := applyLoans op s
        let s2 := buildTables [0, 1, 2, 3] { s1 with img := { s1.img with op := none } }
        if !verifyOk then releaseShares (imgResult s2 0x0D op.img.serial 0)
        else if !nandOk then releaseShares (imgResult s2 0x10 op.img.serial 0)
        else releaseShares (commitBind op s1))

end Sys2Proof.Machine
end

