-- ==== Sys2Proof/Machine/Bringup.lean ====
section
/-!
DEFINITION. Sys2Proof/Machine/Bringup.lean: what a device reset or a loss of power leaves (12 Table 12-9; 16 Table 16-1; 19 R403, R406),
and the bring-up of Table 19-5 (02 R43; 08 R206; 15 R327, R328; 17 R368, R372, R374; 18 R380).
-/
namespace Sys2Proof.Machine

/-! ### What is lost (Table 12-9, rung 3) -/

/-- The highest durable annals SEQ. -/
def durableSeq (s : State) : Nat := (s.cur.durable.head?.map (·.seq)).getD 0

/-- Regions at the moment of the loss (R206): a durable colophon has flipped its accession; every other accession, rehousing or copy
ends, and its folios go back. -/
def settleRegions (s : State) : State :=
  let s1 := ((List.range 16).filter fun r => (accOf s r).phase == .flipPending).foldl flipAccession s
  let open_ := (s1.arr.folios.filter fun e => e.2.st == .accessing || e.2.st == .collating).map (·.1)
  open_.foldl giveBack s1

/-- What the NAND store keeps of a region. -/
def keptAcc (a : Acc) : Acc :=
  { freshAcc with housing := a.housing, generation := a.generation, intent := a.intent, package := a.package, retired := a.retired
                  offline := a.offline }

/-- What a folio keeps: cells, wear, state; its tap banks, what was due and its collation state are lost. -/
def keptFolio (f : Folio) : Folio :=
  { f with bankA := [], bankB := [], bank := 0, shadowValid := false, shadowAt := 0, leveled := none, lastSweep := none, sweepPending := false
           deepPending := false, refreshDue := false, dueHours := none, bootDone := false, servedEpoch := 0 }

/-- What a carrel keeps: its pass numbers (R403). -/
def keptCarrel (c : CarrelState) : CarrelState := { freshCarrel with nextPass := c.nextPass, limit := c.limit }

/-- The module with everything lost that a device reset loses: the NAND store, the boot flash and the always-on domain stay. -/
def loseAll (s0 : State) : State :=
  let s := settleRegions s0
  { State.reset with
    regs := s.regs.filter fun e => e.1 == Reg.PST_SB_CTRL.WAKE_EN.addr
    clk := { s.clk with tick := 0, epoch := 0, bootMs := 0, watchdogs := [] }
    ann := { lastSeq := s.ann.lastSeq, ring := [], counts := [], flagged := [] }
    cur := { s.cur with mbx := freshCurator.mbx, conv := [], fw := { s.cur.fw with trial := false, recovery := false } }
    img := { store := s.img.store, bound := plainImage, op := none, recipes := [], nextRecipes := [] }
    arr := { folios := smapAll (fun _ => freshFolio) s.arr.folios fun _ f => keptFolio f, ledgers := [], sats := [], satOver := [] }
    col := { freshCollation with moments := s.col.moments, alpha := s.col.alpha, nu := s.col.nu, checkpoints := s.col.checkpoints }
    acc := smapAll (fun _ => freshAcc) s.acc fun _ a => keptAcc a
    itk := { streams := [], carrels := smapAll (fun _ => freshCarrel) s.itk.carrels fun _ c => keptCarrel c, cmds := [] }
    pwr := { freshPower with record := s.pwr.record, hours := s.pwr.hours }
    pst := { s.pst with depth := 4, awake := [], waking := [], reads := [], writes := [], pwrGood := false, sbAlert := false }
    con := { freshContainment with library := s.con.library, gone := s.con.gone, failedShelves := s.con.failedShelves
                                   failedHalls := s.con.failedHalls, withheld := s.con.withheld, fsr := s.con.fsr, fsrNext := s.con.fsrNext }
    run := { State.reset.run with vig := smapAll (fun _ => freshVigilance) s.run.vig fun _ v => { freshVigilance with recorded := v.recorded } }
    out := s.out
    free := s.free
    pending := s.pending }

/-- A device reset (R406): links down, everything of rung 3 lost, the module in reset until its bring-up; the next boot has this
cause. -/
def deviceResetTo (cause : Nat) (s : State) : State :=
  let s1 := loseAll s
  { s1 with pst := { s1.pst with inReset := true, cause := cause } }

/-- The module enters Off: as a device reset loses, and no bring-up follows by itself; its next boot has this cause. -/
def enterOff (cause : Nat) (s : State) : State :=
  let s1 := loseAll s
  { s1 with pst := { s1.pst with inReset := false, cause := cause } }

/-! ### Step 3 and 4: firmware, identity, the BOOT record (R327, R368, R372) -/

/-- A firmware slot. -/
def fwSlotOf (f : Firmware) (i : Nat) : Option FwSlot := if i = 0 then f.slotA else f.slotB

/-- The firmware with a slot changed. -/
def putFwSlot (f : Firmware) (i : Nat) (x : Option FwSlot) : Firmware := if i = 0 then { f with slotA := x } else { f with slotB := x }

/-- Does a slot pass the boot ROM's checks: a package whose SVN is at or above the floor (R372)? -/
def fwBoots (f : Firmware) (i : Nat) : Bool := (fwSlotOf f i).elim false fun x => decide (f.floor ≤ x.svn)

/-- The slot that boots: the selected one, else the other one where it passes; none is recovery (R372; log entry 46). -/
def fwSelect (f : Firmware) : Option Nat :=
  let other := 1 - f.nextSlot
  if fwBoots f f.nextSlot then some f.nextSlot
  else if fwBoots f other then some other else none

/-- CUR.FW_STATUS as the firmware state stands. -/
def showFw (s : State) : State :=
  let f := s.cur.fw
  let s1 := fset (fset (fset s Reg.CUR_FW_STATUS.SLOT f.running) Reg.CUR_FW_STATUS.NEXT f.nextSlot) Reg.CUR_FW_STATUS.STAGED
    (bitOf (fwSlotOf f (1 - f.running)).isSome)
  let s2 := fset (fset s1 Reg.CUR_FW_STATUS.TRIAL (bitOf f.trial)) Reg.CUR_FW_STATUS.RECOVERY (bitOf f.recovery)
  fset (fset (fset s2 Reg.CUR_FW_STATUS.SVN (runningSvn s)) Reg.CUR_FW_STATUS.FLOOR f.floor) Reg.CUR_FW_STATUS.BOOTS (s.clk.boots % 65536)

/-- A FW_EVENT record (Table 17-7): 1 staged, 2 activated, 3 confirmed, 4 trial failed, 5 reverted, 6 floor. -/
def fwEvent (s : State) (event slot svn : Nat) : State := annal s 0x0A00 1 {} event slot svn

/-- The slot runs; a trial is booted once, so the slot selected after it is a confirmed one (R372). -/
def bootFirmware (s : State) : State :=
  let f := s.cur.fw
  match fwSelect f with
  | none => { s with cur := { s.cur with fw := { f with recovery := true, trial := false, nextTrial := false } } }
  | some i =>
    let trial := f.nextTrial && i == f.nextSlot
    { s with cur := { s.cur with fw := { f with running := i, trial := trial, nextTrial := false, nextSlot := if trial then 1 - i else i, recovery := false } } }

/-- A record that a trial failed: at the boot that follows its reset, or when the selected slot failed a boot check (R372). -/
def recordTrial (s : State) (f : Firmware) (cause : Nat) : State :=
  if cause = 5 then fwEvent s 4 (1 - s.cur.fw.running) (((fwSlotOf f (1 - s.cur.fw.running)).map (·.svn)).getD 0)
  else if f.nextTrial && s.cur.fw.running ≠ f.nextSlot then fwEvent s 4 f.nextSlot (((fwSlotOf f f.nextSlot).map (·.svn)).getD 0)
  else s

/-- CUR.IDENTITY and CUR.SERIAL (R432): the parts of the identity that the module knows. -/
def showIdentity (s : State) : State :=
  let revs := (s.cur.revs.zipIdx.map fun r => r.1 * 2 ^ (8 * r.2)).sum
  let s1 := fset (fset s Reg.CUR_IDENTITY.PART 0x48) Reg.CUR_IDENTITY.GRADE (bitOf (engGrade s))
  rset (fset (fset s1 Reg.CUR_IDENTITY.REVISION (moduleRev s)) Reg.CUR_IDENTITY.DIE_REV revs) Reg.CUR_SERIAL.SERIAL.addr (BitVec.ofNat 64 s.cur.serial)

/-- Steps 3 and 4 (R327, R328, R367, R368, R403): counts start, the first SEQ is the durable one plus 8,192, the BOOT record, the proof
library of the firmware that runs (R378). -/
def startCurator (cause : Nat) (s : State) : State :=
  let d := durableSeq s
  let s1 := { s with clk := { s.clk with tick := 0, epoch := 0, boots := s.clk.boots + 1, cause := cause }
                     ann := { s.ann with lastSeq := d + 8191 } }
  let s1' := bootFirmware s1
  let s2 := { s1' with con := { s1'.con with library := libraryNow s1' } }
  let s3 := rset (fset s2 Reg.RST_STATUS.STEP 4) Reg.ANN_DURABLE_SEQ.SEQ.addr (BitVec.ofNat 64 d)
  let s4 := fset (fset s3 Reg.RST_CAUSE.CAUSE cause) Reg.RST_CAUSE.PREV_CAUSE s.clk.cause
  let s5 := annal (showIdentity s4) 0x0001 1 {} d (runningSvn s4) cause
  let s6 := if s.pwr.record.isSome then s5 else annal (fset s5 Reg.PWR_STATUS.FALLBACK 1) 0x0800 1 {} 0 0 0
  let s7 := showFw (recordTrial s6 s.cur.fw cause)
  fset { s7 with pst := { s7.pst with pwrGood := true, wakeN := false } } Reg.PST_STATUS.WAKE_SRC s.pst.wakeSrc

/-! ### Steps 5 to 8: halls and the NAND store -/

/-- A hall's clocks start at its top point (R328, Table 19-5 step 5). -/
def startHall (s : State) (h : Nat) : State := fset s (Reg.PWR_HALL_STATUS.POINT h) (topPoint s h)

/-- The lock flags once every clock runs; a PCIe port's PLL is shown with its link. -/
def startClocks (s : State) : State :=
  let s1 := { s with pwr := { s.pwr with guardUv := (List.range 5).foldl (fun m d =>
    sset (fun _ => (0 : Nat)) m d (ageUv (sget (fun _ => (0 : Nat)) s.pwr.hours d))) [] } }
  let s2 := (List.range 4).foldl startHall s1
  let s3 := fset (fset (fset s2 Reg.CLK_STATUS.HBM_LOCK 0xFF) Reg.CLK_STATUS.STRIKE_LOCK 0xF) Reg.CLK_STATUS.SCRIBE_LOCK 0xF
  let s4 := fset (fset (fset s3 Reg.CLK_STATUS.FABRIC_LOCK 0xF) Reg.CLK_STATUS.UCIE_LOCK 0xFF) Reg.CLK_STATUS.CURATOR_LOCK 1
  fset (fset (fset s4 Reg.CLK_STATUS.MON_LOCK 1) Reg.CLK_STATUS.OSC_OK 1) Reg.CLK_STATUS.AON_OK 1

/-- A shelf that fails the built-in test fails for good (R380). -/
def failShelf (s : State) (shelf : Nat) : State :=
  if s.con.failedShelves.elem shelf then s
  else annal { s with con := { s.con with failedShelves := s.con.failedShelves ++ [shelf] } } 0x0500 3
    { shelf := some (shelf % 128), die := some (hallOf shelf) } 4 0 0

/-- Steps 5 to 7. -/
def startHalls (badShelves : List Nat) (s : State) : State :=
  let s1 := badShelves.foldl failShelf (startClocks s)
  let s2 := fset s1 Reg.CUR_PROOF_STATUS.FAILED_SHELVES s1.con.failedShelves.length
  fset (fset s2 Reg.CUR_PROOF_STATUS.HALL_FAILED ((s1.con.failedHalls.map fun h => 2 ^ h).sum)) Reg.RST_STATUS.HALL_UP 0xF

/-- A carrel that has ever begun a pass goes on from its reserved limit (R17, R403). -/
def resumeNumbers (c : CarrelState) : CarrelState :=
  if c.nextPass = 1 then c else { c with nextPass := c.limit, limit := c.limit + 2 ^ 20 }

/-- CUR.SIG_STATUS as the signing state stands (R374, R375). -/
def showSig (s : State) : State :=
  let g := s.cur.sig
  fset (fset (fset s Reg.CUR_SIG_STATUS.NEXT_LEAF g.nextLeaf) Reg.CUR_SIG_STATUS.TOKENS g.tokens) Reg.CUR_SIG_STATUS.REMAINING (2 ^ 20 - g.nextLeaf)

/-- A folio's bank A from a checkpoint; zero taps without an entry (R174). -/
def checkpointBank (c : Option TapCheckpoint) (k : Nat) : Sparse W32 :=
  ((c.bind fun c => c.banks.find? fun b => b.1 == k).map (·.2)).getD []

/-- Step 8: pass numbers, the signing state, the latest checkpoint into bank A of every folio, the image floor. -/
def loadStore (s : State) : State :=
  let s1 := { s with
    itk := { s.itk with carrels := smapAll (fun _ => freshCarrel) s.itk.carrels fun _ c => resumeNumbers c }
    cur := { s.cur with sig := { s.cur.sig with nextLeaf := s.cur.sig.limit } }
    arr := { s.arr with folios := smapAll (fun _ => freshFolio) s.arr.folios fun k f =>
      { f with bankA := checkpointBank s.col.checkpoints.head? k, bank := 0 } } }
  rset (showSig s1) Reg.CUR_IMG_FLOOR.FLOOR.addr (BitVec.ofNat 64 s.img.store.floor)

/-! ### Step 9: the image (R43, R439) -/

/-- The image that boots, and why it is the plain one: reason, result code, serial. -/
def bootImage (s : State) : Image × Option (Nat × Nat × Nat) :=
  match s.img.store.active.bind (slotOf s.img.store) with
  | none => (plainImage, some (1, 0, 0))
  | some b => match checkImage (moduleRev s) s.img.store.floor s.img.store.anchor b.length b with
    | some e => (plainImage, some (2, e.code, rd b 0x18 8))
    | none => (parseImage b, none)

/-- A region as it boots: held for boot collation while its committed package fits the image and no in-place accession was cut short. -/
def bootRegion (s : State) (r : Nat) : State :=
  let fits : Bool := match s.img.bound.region? r, (accOf s r).package with
    | some g, some p => decide (s.img.bound.geometry g = p.manifest.geometry)
    | _, _ => false
  let a := accOf s r
  let off := a.intent || !fits
  let s1 := modAcc s r fun a => { a with offline := off, ready := off, holdBoot := !off }
  let s2 := modVig s1 r fun v => { v with drawn := s1.free }
  if a.package.isSome then shelterRegion { s2 with free := s2.free + 1 } r else s

/-- The bound image takes effect without a quiesce step. -/
def bindAtBoot (s : State) : State :=
  let (img, why) := bootImage s
  let s1 := showBound { s with img := { s.img with bound := img } }
  let s2 := match why with
    | some w => annal s1 0x0102 3 {} w.1 w.2.1 w.2.2
    | none => s1
  (List.range 16).foldl bootRegion (buildTables [0, 1, 2, 3] (takePorts (loadCtrl (loadCap s2))))

/-! ### Steps 10 to 12 -/

/-- Steps 11 and 12 begin: the intake is up, regions without boot collation are ready. -/
def openIntake (s : State) : State :=
  let s1 := fset (fset s Reg.RST_STATUS.INTAKE 1) Reg.RST_STATUS.STEP 11
  let s2 := fset { s1 with pst := { s1.pst with depth := 0, awake := [], waking := [], inReset := false, cause := 1, wakeSrc := 0 } } Reg.PST_STATUS.HALL_AWAKE 0xF
  showReady s2

/-- The trial slot confirms itself (R372). -/
def confirmTrial (s : State) : State :=
  let f := s.cur.fw
  if f.trial
  then
    let svn := ((fwSlotOf f f.running).map (·.svn)).getD 0
    let g := putFwSlot f f.running ((fwSlotOf f f.running).map fun x => { x with confirmed := true })
    showFw (fwEvent { s with cur := { s.cur with fw := { g with trial := false, nextSlot := f.running } } } 3 f.running svn)
  else s

/-- Powered, with the boot not yet ended: registers and mailbox answer. -/
def powered (s : State) : State := { s with pst := { s.pst with depth := 0, awake := [], waking := [], inReset := false, v44 := true } }

/-- The bring-up of Table 19-5. `ms` is how long it took to step 11, `badShelves` the shelves that failed the built-in test, `selfTest` how the
start-up self-test of a trial slot ended (none: it has not ended). A trial slot that fails resets the module (R372). -/
def bringUp (ms : Nat) (badShelves : List Nat) (selfTest : Option Bool) (s : State) : State :=
  let cause := if s.pst.tripped then 8 else max 1 s.pst.cause
  let s0 := powered { s with clk := { s.clk with bootMs := ms }, pst := { s.pst with tripped := false } }
  let s1 := startCurator cause s0
  if s1.cur.fw.recovery then s1
  else
    let s2 := fset (bindAtBoot (loadStore (startHalls badShelves s1))) Reg.RST_STATUS.STEP 9
    if !s2.cur.fw.trial then openIntake s2
    else match selfTest with
      | some true => openIntake (confirmTrial s2)
      | some false => deviceResetTo 5 s2
      | none => s2

/-- May a boot begin: the standby rail stands, no thermal hold or lockout, and the module is in reset or the input was away or a wake
event asked for it (R349, R353, R415, R418, R422)? -/
def mayBoot (s : State) : Bool :=
  unpowered s && s.pst.vstby && !s.pst.thermTrip && !s.pst.lockout && (s.pst.inReset || !s.pst.v44 || s.pst.wakeN)

/-- POWER_ON_BOOT (R408): the input is stable and the bring-up runs, also where a device reset or a wake from Off leads to it. -/
def execPowerOnBoot (ms : Nat) (badShelves : List Nat) (selfTest : Option Bool) (s : State) : Out :=
  .next (if mayBoot s then bringUp ms badShelves selfTest s else s)

/-- TRIAL_CONFIRM_TIMEOUT (R372): a trial slot has not confirmed within 30 s: the boot ROM resets the module, which boots the confirmed
slot. -/
def execTrialConfirmTimeout (s : State) : Out :=
  .next (if s.cur.fw.trial && !unpowered s then deviceResetTo 5 s else s)

end Sys2Proof.Machine
end

