-- ==== Sys2Proof/Machine/Resets.lean ====
section
/-!
DEFINITION. Sys2Proof/Machine/Resets.lean: resets, thermal trips, lost clocks, the input and standby rails (19 R402, R405 to R409; 20
R415, R418, R422, R423), ports and function-level resets (11 R266; 12 R227, R286, R287; 19 Table 19-4).
-/
namespace Sys2Proof.Machine

/-! ### Device resets -/

/-- DEVICE (R406, R409): a write of RST.CTRL with KEY 0xD5E7 and CMD 1; any other write of it is ignored and recorded. -/
def execDeviceReset (standby : Bool) (width value : Nat) (s : State) : Out :=
  .next (if unpowered s then s
    else if standbyPort s standby || width != 8 || nbits value 48 16 != 0xD5E7 || nbits value 0 4 != 1 then ignored s 0x2000 value
    else deviceResetTo 3 s)

/-- SIDEBAND_RESET (R406): SMBus write-byte, command code 0xF0; data 0xD5 resets, any other is ignored and recorded. -/
def execSidebandReset (data : Nat) (s : State) : Out :=
  .next (if unpowered s then s else if data = 0xD5 then deviceResetTo 4 s else ignored s 0xF0 data)

/-! ### Thermal trip (R422, R423) -/

/-- Always-on cycles in ten minutes. -/
def tenMinutes : Nat := 600 * 32768

/-- THERMAL_TRIP (R422): a diode reaches 115 °C: THERM_TRIP_N asserts and the module is reset and held; after a second trip within ten
minutes it enters Off until V44_IN is removed. A trip during a reset wins (R423). -/
def execThermalTrip (s : State) : Out :=
  .next (if !s.pst.v44 || (unpowered s && !s.pst.inReset) then s
    else
      let again := s.pst.tripAt.any fun t => decide (s.clk.aon < t + tenMinutes)
      let s1 := if again then enterOff 8 s else deviceResetTo 8 s
      { s1 with pst := { s1.pst with tripped := true, thermTrip := !again, lockout := again, tripAt := s.clk.aon :: s.pst.tripAt.take 1 } })

/-- TRIP_HOLD_RELEASE (R422): the hold's conditions are met: THERM_TRIP_N releases and the module boots with cause THERMAL. -/
def execTripHoldRelease (ms : Nat) (badShelves : List Nat) (selfTest : Option Bool) (s : State) : Out :=
  .next (if !s.pst.thermTrip then s
    else
      let s1 := { s with pst := { s.pst with thermTrip := false } }
      if mayBoot s1 then bringUp ms badShelves selfTest s1 else s1)

/-! ### Clocks (R402) -/

/-- The lock flags of a hall's PLLs: 0 strike, 1 the active scribe PLL, 2 fabric. -/
def lockField (pll : Nat) : FieldRef :=
  if pll = 0 then Reg.CLK_STATUS.STRIKE_LOCK else if pll = 1 then Reg.CLK_STATUS.SCRIBE_LOCK else Reg.CLK_STATUS.FABRIC_LOCK

/-- A bit of a field cleared or set. -/
def putBit (s : State) (f : FieldRef) (i : Nat) (b : Bool) : State :=
  let x := fget s f
  fset s f (if b then x ||| 2 ^ i else x &&& (2 ^ f.w - 1 - 2 ^ i % 2 ^ f.w))

/-- What a hall computes for passes in flight is poisoned (R83). -/
def poisonHall (s : State) (h : Nat) : State :=
  { s with run := { s.run with live := s.run.live.map fun p =>
    if p.stage.isSome && (regionHalls s p.region).elem h then { p with poisoned := (p.poisoned ++ p.sessions).eraseDups } else p } }

/-- PLL_LOCK_LOSS (R402): in a hall its clocks are gated and its values poisoned, a stretch ends, and the event is counted and recorded; the
scribe clock first moves to the idle PLL. `hall` 4 is a concourse PLL or the module oscillator: a device reset with cause CLOCK. -/
def execPllLockLoss (hall pll : Nat) (s : State) : Out :=
  .next (if unpowered s || decide (2 < pll) then s
    else if 4 ≤ hall then deviceResetTo 6 s
    else
      let s1 := modHall (putBit s (lockField pll) hall false) hall fun x =>
        { x with gated := true, stretched := false, pll := if pll = 1 then 1 - x.pll else x.pll }
      let s2 := fbump (poisonHall s1 hall) Reg.CLK_LOCK_EVENTS.COUNT 1
      annal s2 0x0800 2 { die := some hall } 0 pll 0)

/-- Does a pass in flight use a hall? -/
def hallBusy (s : State) (h : Nat) : Bool := s.run.live.any fun p => (regionHalls s p.region).elem h

/-- Are a hall's three clocks locked? -/
def hallLocked (s : State) (h : Nat) : Bool := [0, 1, 2].all fun p => (fget s (lockField p)).testBit h

/-- A hall whose PLLs are locked again resumes once no pass that it poisoned is in flight (R402). -/
def resumeHall (s : State) (h : Nat) : State :=
  if (hallPower s h).gated && hallLocked s h && !hallBusy s h then modHall s h fun x => { x with gated := false } else s

/-- HALL_RELOCK_DONE (R402): the hall's PLLs are locked; it resumes at the next pass boundary. -/
def execHallRelockDone (hall : Nat) (s : State) : Out :=
  .next (if unpowered s || !(hallPower s hall).gated then s
    else resumeHall ([0, 1, 2].foldl (fun s p => putBit s (lockField p) hall true) s) hall)

/-! ### Input and standby rails (R415, R418) -/

/-- The input is gone: the module is Off, and its next boot has cause POWER. -/
def inputLost (s : State) : State :=
  let s1 := enterOff 1 s
  { s1 with pst := { s1.pst with v44 := false, thermTrip := false } }

/-- V44_UNDERVOLTAGE (R415): below 35.0 V for more than 20 µs. An input that is removed ends the lockout of R422. -/
def execV44Undervoltage (s : State) : Out :=
  .next (let s1 := if s.pst.v44 then inputLost s else s
    { s1 with pst := { s1.pst with lockout := false } })

/-- V44_OVERVOLTAGE (R415): above 56.0 V for more than 5 µs: the controller disconnects the input. -/
def execV44Overvoltage (s : State) : Out := .next (if s.pst.v44 then inputLost s else s)

/-- STANDBY_RESET (R405, R418): VSTBY_3V3 rises: the always-on domain starts afresh. -/
def execStandbyReset (s : State) : Out :=
  .next (if s.pst.vstby then s
    else { s with
      regs := s.regs.filter fun e => e.1 != Reg.PST_SB_CTRL.WAKE_EN.addr
      clk := { s.clk with aon := 0, frac := 0 }
      pst := { s.pst with vstby := true, tripped := false, tripAt := [], wakeSrc := 0, wakeN := false } })

/-- STANDBY_LOSS (R418): VSTBY_3V3 below 3.0 V: the module enters Off and cannot boot until the rail returns. -/
def execStandbyLoss (s : State) : Out :=
  .next (if !s.pst.vstby then s
    else
      let s1 := if unpowered s && !s.pst.inReset then s else enterOff 1 s
      { s1 with pst := { s1.pst with vstby := false, wakeN := false, thermTrip := false, inReset := s1.pst.v44, cause := 1 } })

/-! ### Ports (R227, R286) -/

/-- The functions that a port presents as its own: in joined mode PF2 on port B and the others on port A; in standby mode all on the active
port, none on the other. -/
def portFns (s : State) (b : Bool) (fn : Fn) : Bool :=
  if standbyMode s then (b == (fget s Reg.INT_PORT_STATUS.ACTIVE == 1)) && fn != .pf2 else b == (fn == .pf2)

/-- The MSI-X table key's function (see `msixKey`). -/
def keyFn (k : Nat) : Fn := if k / 16 < 1024 then .vf (k / 16) else if k / 16 = 1024 then .pf1 else .pf0

/-- The PCIe configuration of some functions is reset: no bus mastering, every MSI-X vector masked and none
pending. -/
def dropConfig (s : State) (p : Fn → Bool) : State :=
  { s with
      hst := { s.hst with master := s.hst.master.filter fun f => !p f, msixTab := sdrop (fun k => p (keyFn k)) s.hst.msixTab }
      out := { s.out with msixPend := s.out.msixPend.filter fun e => !p e.1 } }

/-- A port's link flags. -/
def putLink (s : State) (b up : Bool) : State :=
  let s1 := { s with hst := if b then { s.hst with linkB := up } else { s.hst with linkA := up } }
  fset s1 (if b then Reg.INT_PORT_STATUS.LINK_B else Reg.INT_PORT_STATUS.LINK_A) (bitOf up)

/-- Every stream halts with its ring disabled; bases and moderation keep their values. -/
def haltStreams (s : State) : State :=
  let cs := List.range 1025
  let s1 := { s with itk := { s.itk with streams := cs.map fun c => (c, { streamOf s c with halted := true }) } }
  (cs.filter (ringOn s)).foldl (fun s c => fset s (Reg.CAR_RING_CTRL.ENABLE c) 0) s1

/-- Accessions in progress end as ACC_CANCEL would end them; one whose colophon write has begun goes on (R209, R286). -/
def cancelAccessions (s : State) : State :=
  (List.range 16).foldl (fun s r =>
    let ph := (accOf s r).phase
    if ph == .receiving || ph == .paused || ph == .committing || ph == .restoring then endAcc s r 0x0C .idle else s) s

/-- BULK transfers fall back to PF1, or return to PF2 (R227). -/
def routeBulk (s : State) (pf1 : Bool) : State :=
  if s.hst.bulkToPf1 == pf1 then s
  else
    let s1 := fset { s with hst := { s.hst with bulkToPf1 := pf1 } } Reg.INT_BULK_STATUS.ROUTE (bitOf pf1)
    if pf1 then fbump (rerouteLoans s1) Reg.INT_BULK_STATUS.FALLBACKS 1 else s1

/-- PORT_LINK_LOSS (R261, R286): a port (true: B) goes down or its PERST is asserted. -/
def execPortLinkLoss (portB : Bool) (s : State) : Out :=
  .next (if unpowered s || !linkUp s portB then s
    else
      let owns := portFns s portB
      let s1 := dropConfig (putLink s portB false) owns
      let s2 := if owns .pf1 then haltStreams s1 else s1
      if standbyMode s then
        failSwaps (if owns .pf1 then { s2 with hst := { s2.hst with lostAt := some s2.clk.tick } } else s2)
      else failSwaps (if portB then routeBulk s2 true else cancelAccessions s2))

/-- PORT_LINK_UP (R227, R286): a port links. The active port that returns is in time, and no takeover occurs. BULK transfers return to PF2
once port B is up and PF2 masters the bus. -/
def execPortLinkUp (portB : Bool) (s : State) : Out :=
  .next (if unpowered s || linkUp s portB then s
    else
      let s1 := putBit (putLink s portB true) Reg.CLK_STATUS.PCIE_LOCK (bitOf portB) true
      let s2 := if portFns s portB .pf1 then { s1 with hst := { s1.hst with lostAt := none } } else s1
      if portB && !standbyMode s && s2.hst.master.elem .pf2 then routeBulk s2 false else s2)

/-- STANDBY_TAKEOVER (R286): the active port has stayed lost for TAKEOVER_MS: the other port becomes active. -/
def execStandbyTakeover (s : State) : Out :=
  .next (if unpowered s || !standbyMode s || s.hst.lostAt.isNone then s
    else
      let s1 := fset s Reg.INT_PORT_STATUS.ACTIVE (1 - fget s Reg.INT_PORT_STATUS.ACTIVE)
      fbump { s1 with hst := { s1.hst with lostAt := none } } Reg.INT_PORT_STATUS.TAKEOVERS 1)

/-- BUS_MASTERING_CHANGE (R227, R261, R286): the host enables or disables a function's bus mastering. -/
def execBusMasteringChange (fn : Fn) (on : Bool) (s : State) : Out :=
  .next (if unpowered s then s
    else
      let s1 := { s with hst := { s.hst with master := if on then (s.hst.master.filter (· != fn)) ++ [fn] else s.hst.master.filter (· != fn) } }
      if on && fn == .pf2 && linkUp s true && !standbyMode s then routeBulk s1 false else if on then s1 else failSwaps s1)

/-! ### Function-level resets (R266, R287, R405) -/

/-- The stream of a function is as new: no packet, no command, its registers at their reset values but CAR.PASS. -/
def freshenStream (s : State) (c : Nat) : State :=
  let keep := fun (a : Nat) => !(decide (carBase c ≤ a) && decide (a < carBase c + 0x118)) || a == carBase c + 0x28
  { s with
    regs := s.regs.filter fun e => keep e.1
    itk := { s.itk with streams := sset (fun _ => freshStream) s.itk.streams c freshStream
                        cmds := s.itk.cmds.filter fun k => k.stream != c } }

/-- A carrel's runs stop, and its user tiles and run areas are cleared (R95, R128). -/
def clearScribes (s : State) (c : Nat) : State :=
  let s1 := (s.scr.runs.filter fun r => r.stream == c).foldl (fun s r => endRun s c r.seq) s
  let areas := (s1.scr.unit.filter fun e => e.2.area == some c).map (·.1)
  { s1 with scr := { s1.scr with
      tiles := smapAll (fun _ => freshTile) s1.scr.tiles fun _ t => if t.owner == some c then freshTile else t
      unit := smapAll (fun _ => freshScribe) s1.scr.unit fun _ u => if u.area == some c then { u with area := none } else u
      store := sdrop (fun k => areas.elem (k / 2 ^ 20) && decide (0xC0000 ≤ k % 2 ^ 20 ∧ k % 2 ^ 20 < 0xE0000)) s1.scr.store
      linePoison := sdrop (fun k => areas.elem (64 * k / 2 ^ 20) && decide (0xC0000 ≤ 64 * k % 2 ^ 20 ∧ 64 * k % 2 ^ 20 < 0xE0000)) s1.scr.linePoison
      tileCmds := s1.scr.tileCmds.filter fun t => t.1 != c } }

/-- FUNCTION_LEVEL_RESET_VF (R266, R287): a carrel's sessions, comets, pages, loan entries, tiles, runs, ring and stream go; unsealed
commands get no record, and a pass of it in flight ends with its results discarded. -/
def execFunctionLevelResetVf (carrel : Nat) (s : State) : Out :=
  .next (if unpowered s then s
    else
      let s1 := (carrelSessions s carrel).foldl (fun s x => closeSession s x.handle) s
      let s2 := clearScribes { s1 with loans := s1.loans.filter fun l => l.carrel != carrel } carrel
      retryLoans (dropConfig (freshenStream s2 carrel) (· == .vf carrel)))

/-- FUNCTION_LEVEL_RESET_PF0 (R405): configuration, MSI-X and mailbox framing; a request that has been taken goes on. -/
def execFunctionLevelResetPf0 (s : State) : Out :=
  .next (if unpowered s then s
    else
      let s1 := { s with cur := { s.cur with mbx := { s.cur.mbx with blocks := [] } } }
      dropConfig (fset s1 Reg.CUR_MBX_STATUS.EXPECTED_SEQ 0) (· == .pf0))

/-- FUNCTION_LEVEL_RESET_PF1 (R261, R405): PF1's stream, ring and accession aperture; accessions end as after the loss of port A. -/
def execFunctionLevelResetPf1 (s : State) : Out :=
  .next (if unpowered s then s else failSwaps (dropConfig (freshenStream (cancelAccessions s) 1024) (· == .pf1)))

/-- FUNCTION_LEVEL_RESET_PF2 (R261, R405): PF2's configuration; BULK transfers fall back (R227). -/
def execFunctionLevelResetPf2 (s : State) : Out :=
  .next (if unpowered s then s else
    let s1 := dropConfig s (· == .pf2)
    failSwaps (if standbyMode s then s1 else routeBulk s1 true))

end Sys2Proof.Machine
end

