-- ==== Sys2Proof/Machine/Annals.lean ====
section
/-!
DEFINITION. Sys2Proof/Machine/Annals.lean: what happens to annals records after they are written (17 R368 to R370).
-/
namespace Sys2Proof.Machine

/-- Records that the annals area holds: 256 MiB of 64 bytes. -/
def areaRecords : Nat := 4194304

/-- The area with the oldest segments of 1,024 records reused while it is over-full (R368). -/
def reuseSegments (rs : List Rec) : List Rec := rs.take (rs.length - 1024 * ((rs.length - areaRecords + 1023) / 1024))

/-- Every record of the ring is durable, with its segment's colophon (R368). -/
def flushAnnals (s : State) : State :=
  let d := durableSeq s
  match s.ann.ring.filter fun r => decide (d < r.seq) with
  | [] => s
  | r :: rs =>
    rset { s with cur := { s.cur with durable := reuseSegments (r :: rs ++ s.cur.durable) } } Reg.ANN_DURABLE_SEQ.SEQ.addr (BitVec.ofNat 64 r.seq)

/-- ANNALS_FLUSH (R368): a second after the oldest unwritten record, at a full segment, or within 10 ms of an ERROR. -/
def execAnnalsFlush (nandOk : Bool) (s : State) : Out :=
  .next (if unpowered s || !nandOk then s else flushAnnals s)

/-- FLUSH (R368): ANN.CTRL.FLUSH starts a write; the register takes 8-byte writes only (R430). -/
def execFlush (width value : Nat) (nandOk : Bool) (s : State) : Out :=
  .next (if unpowered s || width != 8 || !value.testBit 9 || !nandOk then s else flushAnnals s)

/-- ANNALS_RATE_SECOND (R369): the counts start again; for each KIND that was held back, a RATE_DROP record follows and its next record
is flagged. -/
def execAnnalsRateSecond (s : State) : Out :=
  .next (if unpowered s then s
    else
      let held := s.ann.counts.filter fun c => decide (0 < c.held)
      let s1 := { s with ann := { s.ann with counts := [], flagged := ((held.map (·.kind)) ++ s.ann.flagged).eraseDups } }
      held.foldl (fun s c => annal s 0x0003 2 {} c.kind c.held 0) s1)

/-- ALERT_CLEAR (R370): 1 written to ANN.CTRL.ALERT in an 8-byte write clears it and releases SB_ALERT_N. -/
def execAlertClear (width value : Nat) (s : State) : Out :=
  .next (if unpowered s || width != 8 || !value.testBit 8 then s
    else fset { s with pst := { s.pst with sbAlert := false } } Reg.ANN_CTRL.ALERT 0)

end Sys2Proof.Machine
end

