-- ==== Sys2Proof/Machine/Curator.lean ====
section
/-!
DEFINITION. Sys2Proof/Machine/Curator.lean: the management mailbox, firmware, attestation, the curator's watchdog (17 R357 to R359, R367,
R371 to R375).

A row that carries out a request acts on the request that the mailbox has taken, when that carries the row's OPCODE; otherwise it has
no effect (log entry 2).
-/
namespace Sys2Proof.Machine

/-! ### The mailbox (R358, R359) -/

/-- Status codes (Table 17-2). -/
def mbOk : Nat := 0
def mbFormat : Nat := 1
def mbFetch : Nat := 2
def mbSignature : Nat := 3
def mbRollback : Nat := 4
def mbNoPending : Nat := 5
def mbRate : Nat := 6
def mbExhausted : Nat := 7
def mbNand : Nat := 8
def mbRestarted : Nat := 9
def mbRecovery : Nat := 10

/-- The mailbox changed. -/
def modMbx (s : State) (f : Mailbox → Mailbox) : State := { s with cur := { s.cur with mbx := f s.cur.mbx } }

/-- A response (R359): header and body, STATE IDLE, LAST_STATUS, MSI-X vector 0 of PF0. -/
def respond (s : State) (seq tag status : Nat) (body : Bytes) : State :=
  let r := leBytes 4 seq ++ leBytes 4 tag ++ leBytes 1 status ++ leBytes 3 0 ++ leBytes 4 body.length ++ leBytes 16 0 ++ body
  let s1 := modMbx s fun m => { m with response := r, req := none }
  msix (fset (fset s1 Reg.CUR_MBX_STATUS.LAST_STATUS status) Reg.CUR_MBX_STATUS.STATE 0) .pf0 0

/-- Does a body keep to its request's layout (Table 17-1)? An OPCODE that the table does not list has none. -/
def requestBodyOk (op : Nat) (b : Bytes) : Bool :=
  match op with
  | 0x01 | 0x06 | 0x07 | 0x08 => b.isEmpty
  | 0x02 => b.length == 64 && decide (rd b 32 4 ≤ 1) && zeroAt b 36 28
  | 0x03 => b.length == 32 && decide (1 ≤ rd b 8 4 ∧ rd b 8 4 ≤ 1048576) && zeroAt b 12 4 && decide (rd b 16 8 % 64 = 0) && zeroAt b 24 8
  | 0x04 => b.length == 24
  | 0x05 => b.length == 32 && decide (rd b 0 8 % 4096 = 0) && zeroAt b 12 20
  | _ => false

/-- Does a complete request pass its checks: LEN, CRC, SEQ, sizes, padding, body (R270, R358)? -/
def requestOk (s : State) (pkt : Bytes) : Bool :=
  let len := rd pkt 0 2
  decide (1 ≤ len ∧ len ≤ 64) && crc32c (pkt.take (64 * len - 4)) == rd pkt (64 * len - 4) 4 &&
    rd pkt 4 4 == fget s Reg.CUR_MBX_STATUS.EXPECTED_SEQ && decide (36 + rd pkt 0xC 4 ≤ 64 * len) && packetPadOk pkt &&
    requestBodyOk (rd pkt 2 1) (slice pkt 0x20 (rd pkt 0xC 4))

/-- A block of the request area. -/
def mbxBlock (s : State) (i : Nat) : Block := sget (fun _ => freshBlock) s.cur.mbx.blocks i

/-- Has a block arrived whole? -/
def mbxFull (s : State) (i : Nat) : Bool := (mbxBlock s i).written == 2 ^ 64 - 1

/-- Is the request complete: its header block and every block of its LEN? A LEN outside 1 to 64 is complete with its header. -/
def requestComplete (s : State) : Bool :=
  let len := rd (mbxBlock s 0).bytes 0 2
  mbxFull s 0 && (decide (64 < len) || (List.range len).all (mbxFull s))

/-- A complete request is checked and taken, or answered FORMAT; either way the block map is cleared (R358). In recovery only IDENTITY and
FW_STAGE are served (R372). -/
def takeRequest (s : State) : State :=
  let len := rd (mbxBlock s 0).bytes 0 2
  let pkt := (List.range (max 1 (min len 64))).flatMap fun i => (mbxBlock s i).bytes
  let s1 := modMbx s fun m => { m with blocks := [] }
  let seq := rd pkt 4 4
  let op := rd pkt 2 1
  if !requestOk s pkt then respond s1 seq (rd pkt 8 4) mbFormat []
  else
    let s2 := fset s1 Reg.CUR_MBX_STATUS.EXPECTED_SEQ ((seq + 1) % 2 ^ 32)
    if s.cur.fw.recovery && op != 0x01 && op != 0x05 then respond s2 seq (rd pkt 8 4) mbRecovery []
    else fset (modMbx s2 fun m => { m with req := some { seq := seq, tag := rd pkt 8 4, op := op, body := slice pkt 0x20 (rd pkt 0xC 4) } })
      Reg.CUR_MBX_STATUS.STATE 1

/-- Bytes arrive in the request area: discarded and counted while the mailbox is busy. -/
def mbxArrive (s : State) (off : Nat) (bytes : Bytes) : State :=
  if fget s Reg.CUR_MBX_STATUS.STATE ≠ 0
  then ignored (modMbx s fun m => { m with discarded := m.discarded + 1 }) (0x101000 + off) (leNat (bytes.take 8))
  else
    let s1 := modMbx s fun m => { m with blocks := putBytes m.blocks off bytes }
    if requestComplete s1 then takeRequest s1 else s1

/-- MAILBOX_BLOCK_WRITE (R358): a write of bytes at an offset of the request area. The standby port ignores it, which is recorded; while the
curator sleeps it is held (R350). -/
def execMailboxBlockWrite (standby : Bool) (off : Nat) (bytes : Bytes) (s : State) : Out :=
  .next (if unpowered s || decide (4096 < off + bytes.length) then s
    else if standbyPort s standby then ignored s (0x101000 + off) (leNat (bytes.take 8))
    else if !domainReady s 2 then { s with pst := { s.pst with writes := s.pst.writes ++ [(.pf0, 2 ^ 33 + off, bytes)] } }
    else mbxArrive s off bytes)

/-- The request in hand if it carries an OPCODE. -/
def requestIs (s : State) (op : Nat) : Option MbxReq := if unpowered s then none else s.cur.mbx.req.filter fun r => r.op == op

/-! ### Identity and attestation (R373 to R375) -/

/-- IDENTITY: the identity record unchanged. -/
def execIdentity (s : State) : Out :=
  .next (match requestIs s 0x01 with
    | none => s
    | some r => respond s r.seq r.tag mbOk (Config.identityRecord s.cur.serial))

/-- The entry of a region in the attestation record. -/
def regionEntry (s : State) (r : Nat) : Bytes :=
  let a := accOf s r
  let st := if a.package.isNone then 0 else if offline s r then 2 else 1
  leBytes 1 r ++ leBytes 1 st ++ leBytes 2 0 ++ leBytes 4 a.generation ++
    (match a.package with
     | some p => leBytes 8 p.manifest.serial ++ p.manifest.digest
     | none => leBytes 40 0)

/-- The attestation record (Table 17-8). -/
def attestRecord (s : State) (nonce : Bytes) (regions : Bool) (leaf : Nat) : Bytes :=
  let img := s.img.bound
  let flags := bitOf (engGrade s) + 2 * bitOf s.cur.fw.recovery + 4 * bitOf img.plain + 8 * bitOf regions
  let digest := ((fwSlotOf s.cur.fw s.cur.fw.running).map (·.digest)).getD (leBytes 32 0)
  [0x43, 0x56, 0x34, 0x38, 0x41, 0x54, 0x53, 0x54] ++ leBytes 8 s.cur.serial ++ s.cur.revs.flatMap (leBytes 1) ++ leBytes 1 flags ++
    leBytes 2 (runningSvn s) ++ leBytes 2 s.cur.fw.floor ++ leBytes 2 s.clk.boots ++ leBytes 4 leaf ++ digest ++
    leBytes 8 (if img.plain then 0 else img.serial) ++ leBytes 8 s.img.store.floor ++
    (if img.plain then leBytes 32 0 else img.headerDigest) ++ ((s.img.store.anchor.map fun a => keyId a.2).getD (leBytes 32 0)) ++
    nonce ++ leBytes 8 s.clk.tick ++ leBytes 72 0 ++ (if regions then (List.range 16).flatMap (regionEntry s) else [])

/-- ATTEST (R374, R375): no token answers RATE, no leaf EXHAUSTED, a reservation that fails NAND; else a leaf signs once. -/
def execAttest (nandOk : Bool) (s : State) : Out :=
  .next (match requestIs s 0x02 with
    | none => s
    | some r =>
      let g := s.cur.sig
      if g.tokens = 0 then respond s r.seq r.tag mbRate []
      else if 2 ^ 20 ≤ g.nextLeaf then respond s r.seq r.tag mbExhausted []
      else if g.limit ≤ g.nextLeaf && !nandOk then respond s r.seq r.tag mbNand []
      else
        let limit := if g.limit ≤ g.nextLeaf then min (g.nextLeaf + 16) (2 ^ 20) else g.limit
        let s1 := showSig { s with cur := { s.cur with sig := { nextLeaf := g.nextLeaf + 1, limit := limit, tokens := g.tokens - 1 } } }
        let rec_ := attestRecord s (slice r.body 0 32) ((rd r.body 32 4).testBit 0) g.nextLeaf
        let sig := (Config.xmssSign g.nextLeaf rec_ ++ List.replicate 2820 0).take 2820
        respond (annal s1 0x0B00 0 {} g.nextLeaf (rd r.body 0 8) 0) r.seq r.tag mbOk (rec_ ++ sig))

/-- ATTEST_TOKEN_REFILL (R375). -/
def execAttestTokenRefill (s : State) : Out :=
  .next (if unpowered s then s
    else showSig { s with cur := { s.cur with sig := { s.cur.sig with tokens := min 16 (s.cur.sig.tokens + 1) } } })

/-! ### Annals requests (R359, R370) -/

/-- Every record that the module holds, in SEQ order: the NAND store's and those of the ring that are not durable. -/
def allRecords (s : State) : List Rec := ((s.ann.ring.filter fun r => decide (durableSeq s < r.seq)) ++ s.cur.durable).reverse

/-- ANNALS_EXPORT: records from FROM_SEQ on, at most COUNT, to ADDR by PF0 DMA in SEQ order; FIRST_SEQ is a free value where there is
none. -/
def execAnnalsExport (s : State) : Out :=
  .next (match requestIs s 0x03 with
    | none => s
    | some r =>
      let rs := ((allRecords s).filter fun x => decide (rd r.body 0 8 ≤ x.seq)).take (rd r.body 8 4)
      let (first, s1) := match rs with
        | x :: _ => (x.seq, s)
        | [] => freeDraw s
      let s2 := if rs.isEmpty then s1 else dmaWrite s1 .pf0 (rd r.body 16 8) (rs.flatMap recBytes)
      respond s2 r.seq r.tag mbOk (leBytes 8 first ++ leBytes 4 rs.length))

/-- ANNALS_NOTE: a HOST_NOTE record with the host's 24 bytes; its SEQ answers. A note that R369 holds back has none: a free value. -/
def execAnnalsNote (s : State) : Out :=
  .next (match requestIs s 0x04 with
    | none => s
    | some r =>
      let s1 := annal s 0x0004 0 {} (rd r.body 0 8) (rd r.body 8 8) (rd r.body 16 8)
      let (seq, s2) := if s1.ann.lastSeq = s.ann.lastSeq then freeDraw s1 else (s1.ann.lastSeq, s1)
      respond s2 r.seq r.tag mbOk (leBytes 8 seq))

/-! ### Firmware (R371, R372) -/

/-- The signature set of firmware packages: XMSS-SHAKE256_20_256 (PRESUMED number, log entry 6). -/
def fwOid : Nat := 0x12

/-- What a firmware package fails on (R371 steps 2 to 5); none where it passes. -/
def fwFault (s : State) (b : Bytes) : Option Nat :=
  let h := b.take 128
  let len := Config.fwField 2 h
  let svn := Config.fwField 1 h
  let key := [0, 1].find? fun i => Config.fwBytes 2 h == keyId (Config.fwKey i)
  if Config.fwBytes 0 h ≠ [0x43, 0x56, 0x34, 0x38, 0x46, 0x57, 0x50, 0x4B] ∨ Config.fwField 0 h ≠ 1 ∨ svn = 0 ∨ 65535 < svn ∨ 25161728 < len ∨
      b.length ≠ 4096 + len ∨ zeroAt b (128 + 2820) (4096 - 128 - 2820) = false ∨ revisionListed (moduleRev s) (Config.fwField 4 h) = false
  then some mbFormat
  else match key with
    | none => some mbSignature
    | some i =>
      if Config.fwField 3 h ≠ fwOid ∨ xmssVerify fwOid (Config.fwKey i) h (slice b 128 2820) = false then some mbSignature
      else if svn < s.cur.fw.floor then some mbRollback
      else if Config.fwBytes 1 h ≠ shake256 (b.drop 4096) then some mbSignature
      else none

/-- The firmware state changed, with CUR.FW_STATUS as it shows it. -/
def modFw (s : State) (f : Firmware → Firmware) : State := showFw { s with cur := { s.cur with fw := f s.cur.fw } }

/-- FW_STAGE (R371): the package, fetched by `f`, goes into the slot that does not run, its colophon last. -/
def execFwStage (f : Fetch) (nandOk : Bool) (s : State) : Out :=
  .next (match requestIs s 0x05 with
    | none => s
    | some r =>
      let slot := 1 - s.cur.fw.running
      match f with
      | .data b => match fwFault s (b.take (rd r.body 8 4)) with
        | some e => respond s r.seq r.tag e []
        | none =>
          if !nandOk then respond (modFw s fun w => putFwSlot w slot none) r.seq r.tag mbNand []
          else
            let svn := Config.fwField 1 (b.take 128)
            let s1 := modFw s fun w => putFwSlot w slot (some { svn := svn, digest := Config.fwBytes 1 (b.take 128), confirmed := false })
            respond (fwEvent s1 1 slot svn) r.seq r.tag mbOk (leBytes 1 slot ++ leBytes 2 svn)
      | _ => respond s r.seq r.tag mbFetch [])

/-- The other slot's SVN, if it holds a package. -/
def otherSvn (s : State) : Option Nat := (fwSlotOf s.cur.fw (1 - s.cur.fw.running)).map (·.svn)

/-- FW_ACTIVATE and FW_REVERT: the other slot is selected for the next boot, on trial or not. -/
def selectOther (s : State) (r : MbxReq) (trial nandOk : Bool) : State :=
  let slot := 1 - s.cur.fw.running
  match otherSvn s with
  | none => respond s r.seq r.tag mbNoPending []
  | some svn =>
    if !nandOk then respond s r.seq r.tag mbNand []
    else respond (fwEvent (modFw s fun w => { w with nextSlot := slot, nextTrial := trial }) (if trial then 2 else 5) slot svn) r.seq r.tag mbOk []

/-- FW_ACTIVATE (R371): the staged slot is TRIAL for the next boot. -/
def execFwActivate (nandOk : Bool) (s : State) : Out :=
  .next (match requestIs s 0x06 with
    | none => s
    | some r => selectOther s r true nandOk)

/-- FW_REVERT (R371). -/
def execFwRevert (nandOk : Bool) (s : State) : Out :=
  .next (match requestIs s 0x07 with
    | none => s
    | some r => selectOther s r false nandOk)

/-- FW_RAISE_FLOOR (R371): the floor becomes the running SVN while the running slot is confirmed; otherwise NO_PENDING (log entry 46). -/
def execFwRaiseFloor (nandOk : Bool) (s : State) : Out :=
  .next (match requestIs s 0x08 with
    | none => s
    | some r => match (fwSlotOf s.cur.fw s.cur.fw.running).filter (·.confirmed) with
      | none => respond s r.seq r.tag mbNoPending []
      | some x =>
        if !nandOk then respond s r.seq r.tag mbNand []
        else respond (fwEvent (modFw s fun w => { w with floor := x.svn }) 6 s.cur.fw.running x.svn) r.seq r.tag mbOk (leBytes 2 x.svn))

/-! ### The watchdog (R357, Table 19-4) -/

/-- Microseconds in ten minutes. -/
def watchdogSpan : Nat := 600000000

/-- The annals after a curator restart: what was not durable is lost, and the next SEQ follows the rule of a boot (R357, R368). -/
def loseAnnals (s : State) : State :=
  let d := durableSeq s
  fset { s with ann := { s.ann with ring := s.ann.ring.filter fun r => decide (r.seq ≤ d), lastSeq := d + 8191 } } Reg.ANN_LAST_SEQ.SEQ (d + 8191)

/-- The curator domain restarts (R357). -/
def restartCurator (s : State) : State :=
  let s1 := match s.cur.mbx.req with
    | some r => respond s r.seq r.tag mbRestarted []
    | none => s
  let s2 := showPending (fset { s1 with img := { s1.img with op := none } } Reg.CUR_IMG_STATUS.STATE 0)
  let s3 := fbump (loseAnnals (cancelAccessions s2)) Reg.RST_CAUSE.CURATOR_RESTARTS 1
  let (pc, s4) := freeDraw s3
  annal s4 0x0002 3 {} s4.cur.fw.running pc 0

/-- WATCHDOG_EXPIRY (R357): the curator restarts; at the third restart within ten minutes, a device reset with cause WATCHDOG. -/
def execWatchdogExpiry (s : State) : Out :=
  .next (if unpowered s then s
    else
      let recent := s.clk.watchdogs.filter fun t => decide (s.clk.tick < t + watchdogSpan)
      if 2 ≤ recent.length then deviceResetTo 7 s
      else restartCurator { s with clk := { s.clk with watchdogs := s.clk.tick :: recent } })

end Sys2Proof.Machine
end

