-- ==== Sys2Proof/Machine/RegRead.lean ====
section
/-!
DEFINITION. Sys2Proof/Machine/RegRead.lean: what a read of BAR0 returns (00 R6; 05 R129; 07 R184; 08 R214; 11 R267; 12 R288; 15 R343; 17 R358,
R359, R370; 19 R404; 21 R426 to R430).

Most registers return what the register file holds. A register that shows other state (a view) is computed here from the state that it
shows.
-/
namespace Sys2Proof.Machine

/-- A field of a value that is being put together; a figure too large for its field reads as all ones. -/
def putF (v : W64) (f : FieldRef) (x : Nat) : W64 := withField v f.lo f.w (min x (2 ^ f.w - 1))

/-! ### Views in a hall window -/

/-- Has a hall finished boot collation: the intake is up and every folio that serves in it has had its own (R175)? -/
def hallBooted (s : State) (h : Nat) : Bool :=
  intakeUp s && s.arr.folios.all fun e => e.1 / 68 / 128 != h || e.2.st != .serving || e.2.bootDone

/-- The folio that SHF.FOLIO_SEL of a hall selects. -/
def selFolio (s : State) (h : Nat) : Nat := folioKey (128 * h + fget s (Reg.SHF_FOLIO_SEL.SHELF h)) (fget s (Reg.SHF_FOLIO_SEL.FOLIO h))

/-- SHF.FOLIO_STATUS: its reset value until the hall has finished boot collation. -/
def viewFolio (s : State) (h : Nat) : W64 :=
  let f := folioAt s (selFolio s h)
  let v := regReset (Reg.SHF_FOLIO_STATUS.STATE h).addr
  if !hallBooted s h then v
  else
    let v1 := putF (putF (putF v (Reg.SHF_FOLIO_STATUS.STUCK h) f.stuck) (Reg.SHF_FOLIO_STATUS.WEAR h) f.wear) (Reg.SHF_FOLIO_STATUS.RANGE_EXP h) f.rangeExp
    let v2 := putF (putF (putF v1 (Reg.SHF_FOLIO_STATUS.PAIR_ROLE h) f.pairRole) (Reg.SHF_FOLIO_STATUS.REGION h) f.region) (Reg.SHF_FOLIO_STATUS.LOGICAL h) f.logical
    putF (putF v2 (Reg.SHF_FOLIO_STATUS.READY h) (bitOf f.ready)) (Reg.SHF_FOLIO_STATUS.STATE h) f.st.code

/-- SCR.STATUS.STATE of a scribe (R129). -/
def scribeCode (u : Scribe) : Nat :=
  match u.run with
  | none => if u.suspended.isSome then 5 else 0
  | some p => if p.job.kind = 0xE then 4 else if p.job.kind = 0xF then 3 else if p.job.kind = 5 then 2 else 1

/-- SCR.STATUS of the scribe that SCR.SEL selects. -/
def viewScribe (s : State) (h : Nat) : W64 :=
  let u := scribeOf s (128 * h + fget s (Reg.SCR_SEL.SHELF h))
  let v := putF 0 (Reg.SCR_STATUS.STATE h) (scribeCode u)
  match u.run with
  | some p => putF (putF v (Reg.SCR_STATUS.PC h) p.pc) (Reg.SCR_STATUS.KIND h) p.job.kind
  | none => v

/-- |g − 1| in units of 2^-16, rounded down. -/
def gainDev (g : W32) : Nat :=
  match decF g with
  | .num neg m e =>
    let n : Int := ((m * pow2 e : Nat) : Int)
    let d : Int := ((pow2 (-e) : Nat) : Int)
    ((if neg then -n else n) - d).natAbs * 65536 / pow2 (-e)
  | _ => 65535

/-- Does a copy of a folio for a purpose run? -/
def copyRuns (s : State) (k : Nat) (p : Purpose) : Bool :=
  (copyOf s k).elim false fun c => (folioAt s c).purpose == p

/-- COL.STATUS: the last request's fields stand in the register, the rest shows the selected folio (R184). -/
def viewCollation (s : State) (h : Nat) : W64 :=
  let k := selFolio s h
  let f := folioAt s k
  let gains := (folioChain s k).elim [] fun c => (sget (fun _ => freshGain) s.col.gains (chainKey (k / 68) c)).g
  let v := rget s (Reg.COL_STATUS.TAG h).addr
  let v1 := putF (putF v (Reg.COL_STATUS.TRIM_PROGS h) (min 16383 (trimCount f))) (Reg.COL_STATUS.GAIN_DEV h) ((gains.map fun e => gainDev e.2).foldl max 0)
  let v2 := putF (putF v1 (Reg.COL_STATUS.REFRESH_DUE h) (bitOf (f.refreshDue || copyRuns s k .refresh)))
    (Reg.COL_STATUS.DEEP_PENDING h) (bitOf (f.deepPending || copyRuns s k .deep))
  let v3 := putF (putF v2 (Reg.COL_STATUS.SWEEP_PENDING h) (bitOf f.sweepPending)) (Reg.COL_STATUS.SHADOW_VALID h) (bitOf f.shadowValid)
  putF (putF v3 (Reg.COL_STATUS.BOOT_DONE h) (bitOf (hallBooted s h))) (Reg.COL_STATUS.ACTIVE_BANK h) f.bank

/-- COL.DRIFT of the selected folio (R179): the residual in units of 10^-5. -/
def viewDrift (s : State) (h : Nat) : W64 :=
  let f := folioAt s (selFolio s h)
  putF (putF 0 (Reg.COL_DRIFT.AGE_HOURS h) f.ageHours) (Reg.COL_DRIFT.RESIDUAL h) (min (f.residual / 10000000000) 65535)

/-- KVC.USAGE (R267, R441): zero until the hall has finished boot collation. -/
def viewUsage (s : State) (h : Nat) : W64 :=
  if hallBooted s h
  then putF (putF 0 (Reg.KVC_USAGE.FREE_MIB h) (freeKv s h / 2 ^ 20)) (Reg.KVC_USAGE.FREE_ENTRIES h) (262144 - (hallPages s h).length)
  else 0

/-- A register of hall h's window. -/
def viewHall (s : State) (h off : Nat) (v : W64) : W64 :=
  match off with
  | 0x2008 => viewFolio s h
  | 0x3008 => viewScribe s h
  | 0x4010 => viewCollation s h
  | 0x4018 => viewDrift s h
  | 0x5008 => viewUsage s h
  | 0x5010 => putF 0 (Reg.KVC_EPOCH.EPOCH h) (s.clk.epoch % 2 ^ 48)
  | _ => v

/-! ### Views of streams and of PF1 -/

/-- Age of the oldest unsealed command of a stream in ms (CAR.PASS). -/
def oldestMs (s : State) (c : Nat) : Nat :=
  ((s.itk.cmds.filter fun k => k.stream == c && k.phase != .sealed).map fun k => (s.clk.tick - k.age) / 1000).foldl max 0

/-- CAR.STATUS (R288); for PF1 only OUTSTANDING (R268). -/
def viewCarrel (s : State) (c : Nat) : W64 :=
  let v := putF 0 (Reg.CAR_STATUS.OUTSTANDING c) (outstanding s c)
  if 1024 ≤ c then v
  else
    let mine := s.kv.sessions.filter fun x => handleCarrel x.handle == c
    let away := mine.filter fun x => x.res == .comet || x.res == .returning
    let v1 := putF (putF v (Reg.CAR_STATUS.SESSIONS c) mine.length) (Reg.CAR_STATUS.COMETS c) away.length
    let v2 := putF (putF v1 (Reg.CAR_STATUS.PRIORITY c) (priorityOf s c)) (Reg.CAR_STATUS.PRIVILEGED c) (bitOf (carrelOf s c).privileged)
    putF (putF v2 (Reg.CAR_STATUS.CLASS c) (bitOf (carrelNow s c).classN)) (Reg.CAR_STATUS.ENABLE c) (bitOf (carrelOf s c).enable)

/-- A register of a stream's range; `standby` tells whether the standby port reads it (R286, R288). -/
def viewStream (s : State) (standby : Bool) (c off : Nat) (v : W64) : W64 :=
  match off with
  | 0x20 => viewCarrel s c
  | 0x28 => putF v (Reg.CAR_PASS.OLDEST_MS c) (oldestMs s c)
  | 0x108 => putF v (Reg.INT_STATUS.STATE c) (if standbyPort s standby then 3 else streamState s c)
  | _ => v

/-- The folios that an accession programs, and how many of them are READY. -/
def accFolios (s : State) (a : Acc) : Nat × Nat :=
  let ts := if a.phase == .idle then [] else a.targets
  (ts.length, (ts.filter fun t => (folioAt s (folioKey t.shelf t.pos)).ready).length)

/-- The registers of PF1 that ACC.SEL and ADP.SEL select for (R214, R228). -/
def viewPf1 (s : State) (off : Nat) (v : W64) : W64 :=
  let r := fget s Reg.ACC_SEL.REGION
  let a := accOf s r
  let c := fget s Reg.ADP_SEL.CARREL
  match off with
  | 0x6018 =>
    let v1 := putF (putF 0 Reg.ACC_STATUS.GENERATION a.generation) Reg.ACC_STATUS.LAST_RESULT a.lastResult
    let v2 := putF (putF v1 Reg.ACC_STATUS.INTENT (bitOf a.intent)) Reg.ACC_STATUS.OFFLINE (bitOf (offline s r))
    let v3 := putF (putF v2 Reg.ACC_STATUS.ARCHIVE (bitOf a.archive)) Reg.ACC_STATUS.IN_PLACE (bitOf (a.inPlace && a.phase != .idle))
    putF v3 Reg.ACC_STATUS.STATE a.phase.code
  | 0x6020 =>
    let n := accFolios s a
    let v1 := putF (putF 0 Reg.ACC_PROGRESS.FOLIOS_TOTAL n.1) Reg.ACC_PROGRESS.FOLIOS_READY n.2
    putF (putF v1 Reg.ACC_PROGRESS.SHARDS_TOTAL (a.manifest.elim 0 (·.shards.length))) Reg.ACC_PROGRESS.SHARDS_DONE a.shards.length
  | 0x6028 => putF v Reg.ACC_HOUSE.HOUSED (housedAt s r (fget s Reg.ACC_HOUSE.NAMED))
  | 0x7010 => putF (putF 0 Reg.ADP_LOAN.USED_PAGES (loanUsed s c)) Reg.ADP_LOAN.QUOTA_MIB (carrelOf s c).loanMib
  | _ => v

/-! ### Views of PF0 -/

/-- PWR.VT_DATA for the die and point of PWR.VT_SEL (R327, R343). -/
def viewVt (s : State) : W64 :=
  let d := fget s Reg.PWR_VT_SEL.DIE
  let p := fget s Reg.PWR_VT_SEL.POINT
  let v1 := putF (putF 0 Reg.PWR_VT_DATA.GUARD_MV (sget (fun _ => (0 : Nat)) s.pwr.guardUv d / 1000))
    Reg.PWR_VT_DATA.HOURS (sget (fun _ => (0 : Nat)) s.pwr.hours d)
  let v2 := putF (putF v1 Reg.PWR_VT_DATA.ENG (bitOf (engGrade s))) Reg.PWR_VT_DATA.WITHDRAWN (bitOf (withdrawn s d p))
  putF (putF v2 Reg.PWR_VT_DATA.VSET_MV (vsetUv s d p / 1000)) Reg.PWR_VT_DATA.VMIN_MV (vmin s d p)

/-- A register of PF0; `found` is the power state that the read found on arrival (R350). -/
def viewPf0 (s : State) (found a : Nat) (v : W64) : W64 :=
  match a with
  | 0x3008 => putF 0 Reg.CLK_AON.COUNT s.clk.aon
  | 0x3010 => putF (putF 0 Reg.CLK_TICK_PAIR.AON (s.clk.aon % 2 ^ 32)) Reg.CLK_TICK_PAIR.TICK (s.clk.tick % 2 ^ 32)
  | 0x100008 => BitVec.ofNat 64 s.clk.tick
  | 0x109010 => putF v Reg.CUR_PROOF_STATUS.LIB_VERSION ((runningDigest s).elim 0 Config.proofLibVersion)
  | 0x200010 => putF v Reg.PWR_STATUS.EXCURSION_US (s.pwr.excursion.elim 0 fun t => s.clk.tick - t)
  | 0x200090 => viewVt s
  | 0x200108 => putF v Reg.PST_STATUS.STATE found
  | _ => v

/-- The register at a global address as a read finds it. -/
def viewReg (s : State) (standby : Bool) (found a : Nat) : W64 :=
  let v := rget s (homeOf s a)
  if 0x400000 ≤ a ∧ a < 0x800000 then viewHall s (a / 0x100000 - 4) (a % 0x100000) v
  else if a < pf1Base then viewPf0 s found a v
  else if a < pf2Base then viewPf1 s (a - pf1Base) v
  else if carBase 0 ≤ a ∧ a < carBase 1025 then viewStream s standby ((a - carBase 0) / 0x10000) (a % 0x10000) v
  else v

/-! ### What a read does (R6, R267, R430) -/

/-- A read of KVC.ENTRY_0 captures the entry that KVC.ENTRY_SEL selects (R267). -/
def captureEntry (s : State) (a : Nat) : State :=
  if 0x400000 ≤ a ∧ a < 0x800000 ∧ a % 0x100000 = 0x5028 then
    let h := a / 0x100000 - 4
    let b := entry32 (sget (fun _ => freePage) s.kv.pages (pageKey h (fget s (Reg.KVC_ENTRY_SEL.INDEX h))))
    (List.range 4).foldl (fun s n => fset s (Reg.KVC_ENTRY.WORD h n) (rd b (8 * n) 8)) s
  else s

/-- The RC fields of a register that lie wholly in the bits that were read are cleared. -/
def clearRead (s : State) (a lo hi : Nat) (fs : List FieldDef) : State :=
  let v := rget s (homeOf s a)
  let w := fs.foldl (fun v f => if f.acc == .rc && decide (lo ≤ f.lo ∧ f.lo + f.w ≤ hi) then withField v f.lo f.w 0 else v) v
  rset s (homeOf s a) w

/-- A read of 4 or 8 bytes of a register. -/
def readRegister (s : State) (standby : Bool) (found a lo width : Nat) : Bytes × State :=
  match regAt a with
  | none => (List.replicate width 0, s)
  | some d =>
    let s1 := captureEntry s a
    (leBytes width (nbits (viewReg s1 standby found a).toNat lo (8 * width)), clearRead s1 a lo (lo + 8 * width) d.fields)

/-! ### Ranges that are no registers -/

/-- The 64 bytes of the annals window at slot j (R370): the record whose SEQ names it while it is among the newest 8,192. A slot that no
record has filled reads zero (log entry 20). -/
def annalsSlot (s : State) (j : Nat) : Bytes :=
  match s.ann.ring.find? fun r => r.seq % ringSize == j && decide (s.ann.lastSeq < r.seq + ringSize) with
  | some r => recBytes r
  | none => List.replicate 64 0

/-- A byte of the annals window. -/
def annalsByte (s : State) (o : Nat) : Byte := (annalsSlot s (o / 64)).getD (o % 64) 0

/-- An 8-byte word of a hall's debug window (R429). -/
def debugWord (s : State) (h o : Nat) : Nat :=
  let shelf := 128 * h + fget s (Reg.SHF_FOLIO_SEL.SHELF h)
  if o < 0x44000 then
    let f := folioAt s (folioKey shelf (o / 0x1000))
    let b := if o % 0x1000 < 0x800 then f.bankA else f.bankB
    let j := o % 0x800 / 4
    (tapAt b j).toNat + (tapAt b (j + 1)).toNat * 2 ^ 32
  else if 0x100000 ≤ o ∧ o < 0x200000 then
    (if storeBad s shelf (o - 0x100000) then 2 ^ 64 - 1 else leNat (storeBytes s shelf (o - 0x100000) 8))
  else 0

/-- A word of the carrel table view (R428): the bound image's entries. -/
def carrelWord (s : State) (o : Nat) : Bytes := (slice (s.img.bound.body 9) o 8 ++ List.replicate 8 0).take 8

/-- A half or the whole of an 8-byte word. -/
def partOf (word : Bytes) (lo width : Nat) : Bytes := slice word (lo / 8) width

/-- What a read of `width` bytes at a BAR0 offset returns, and the module after it. -/
def barRead (s : State) (standby : Bool) (fn : Fn) (off width found : Nat) : Bytes × State :=
  let zero := (List.replicate width (0 : Byte), s)
  let lo := off % 8 * 8
  if fn = .pf0 ∧ 0x102000 ≤ off ∧ off + width ≤ 0x106000 then
    ((List.range width).map fun i => s.cur.mbx.response.getD (off - 0x102000 + i) 0, s)
  else if fn = .pf0 ∧ 0x180000 ≤ off ∧ off + width ≤ 0x200000 then ((List.range width).map fun i => annalsByte s (off - 0x180000 + i), s)
  else if fn = .pf0 ∧ 0x1000000 ≤ off ∧ off < 0x4000000 then
    (if width = 8 ∧ off % 8 = 0 then (leBytes 8 (debugWord s ((off - 0x1000000) / 0xC00000) ((off - 0x1000000) % 0xC00000)), s) else zero)
  else if (width ≠ 4 ∧ width ≠ 8) ∨ off % width ≠ 0 then zero
  else if fn = .pf0 ∧ 0x10000 ≤ off ∧ off < 0x14000 then (partOf (carrelWord s ((off - 0x10000) / 8 * 8)) lo width, s)
  else if pendingAt fn off then (leBytes width (nbits (msixPending s fn) lo (8 * width)), s)
  else match msixKey fn off with
    | some k => (leBytes width (nbits (msixWord s k).toNat lo (8 * width)), s)
    | none => match barAddr fn (off / 8 * 8) with
      | some a => readRegister s standby found a lo width
      | none => zero

/-- A read completes: its bytes go back to the function. -/
def answerRead (s : State) (fn : Fn) (off : Nat) (b : Bytes) : State :=
  { s with out := { s.out with reads := (fn, off, b) :: s.out.reads } }

/-- A read that has reached its domain. -/
def serveRead (s : State) (standby : Bool) (fn : Fn) (off width found : Nat) : State :=
  let (b, s1) := barRead s standby fn off width found
  answerRead s1 fn off b

end Sys2Proof.Machine
end

