-- ==== Sys2Proof/Machine/PowerStates.lean ====
section
/-!
DEFINITION. Sys2Proof/Machine/PowerStates.lean: power states, their entry and wake, held accesses, the sideband (16: R344 to R356; 19 R403).

An entry that the steps of Table 16-2 carry out is one step of the model; `woken` tells in which step a wake event fell (log entry 47).
-/
namespace Sys2Proof.Machine

/-! ### Waking (R349, R350) -/

/-- Microseconds that an always-on count spans, rounded down (R403). -/
def aonToUs (n : Nat) : Nat := n * 15625 / 512

/-- The first wake event of a sleep: the tick advances by the elapsed always-on count, LOW_MS and WAKES count, the oscillator runs. -/
def beginWake (s : State) (src : Nat) : State :=
  let us := aonToUs (s.clk.aon - s.pst.sleptAon)
  let s1 := { s with clk := { s.clk with tick := (s.clk.tick + us) % 2 ^ 64 } }
  let s2 := fbump (fbump s1 Reg.PST_STATS.LOW_MS (us / 1000)) Reg.PST_STATS.WAKES 1
  fset (fset s2 Reg.PST_STATUS.WAKE_SRC src) Reg.PST_STATUS.STATE 5

/-- A wake event reaches a domain in Sleep or Deep sleep; the concourse's register logic lies before every other domain (Table 16-4). -/
def wake (s : State) (src d : Nat) : State :=
  if s.pst.depth = 2 ∨ s.pst.depth = 3 then
    let s1 := if asleep s then beginWake s src else s
    let new := ([1, d].filter fun x => !s.pst.awake.elem x && !s.pst.waking.elem x).eraseDups
    if new.isEmpty then s1 else fset { s1 with pst := { s1.pst with waking := s1.pst.waking ++ new } } Reg.PST_STATUS.STATE 5
  else s

/-- The domain that an access belongs to; an aperture is the intake's (R431). -/
def accessDomain (fn : Fn) (off : Nat) : Nat := if 2 ^ 33 ≤ off then 2 else if 2 ^ 32 ≤ off then 1 else domainOf fn off

/-- WAKE_EVENT (R349, R350): source 1 a BAR read, 2 a BAR write (the write itself has a row of its own), 3 a link exit from L1 that the host
begins. A read is served at once where its domain is ready, and held where it is not; from Idle a hall that is reached wakes
(R345). An offset from 2^32 on is one of BAR2. -/
def execWakeEvent (src : Nat) (standby : Bool) (fn : Fn) (off width : Nat) (s : State) : Out :=
  .next (if unpowered s then s
    else
      let d := if src = 3 then 1 else accessDomain fn off
      let found := fget s Reg.PST_STATUS.STATE
      let s1 := wake s src d
      let s2 := if src ≠ 3 ∧ (4 ≤ d ∨ 2 ^ 32 ≤ off) then leaveIdle s1 else s1
      if src ≠ 1 then s2
      else if domainReady s2 d then serveRead s2 standby fn off width found
      else { s2 with pst := { s2.pst with reads := s2.pst.reads ++
          [{ standby := standby, fn := fn, off := off, width := width, domain := d, found := found }] } })

/-- A held write proceeds. -/
def releaseWrite (s : State) (w : Fn × Nat × Bytes) : State :=
  if 2 ^ 33 ≤ w.2.1 then mbxArrive s (w.2.1 - 2 ^ 33) w.2.2
  else if 2 ^ 32 ≤ w.2.1 then
    match w.1 with
    | .vf n => arrive s n (w.2.1 - 2 ^ 32) w.2.2
    | .pf1 => arrive s 1024 (w.2.1 - 2 ^ 32) w.2.2
    | _ => s
  else writeRegister s w.1 w.2.1 w.2.2.length (leNat w.2.2)

/-- The writes held for a domain in the order of their arrival, then its stalled reads (R350, R431). -/
def releaseHeld (s : State) (d : Nat) : State :=
  let mineW := s.pst.writes.filter fun w => accessDomain w.1 w.2.1 == d
  let mineR := s.pst.reads.filter fun r => r.domain == d
  let s1 := { s with pst := { s.pst with writes := s.pst.writes.filter fun w => accessDomain w.1 w.2.1 != d
                                         reads := s.pst.reads.filter fun r => r.domain != d } }
  mineR.foldl (fun s r => serveRead s r.standby r.fn r.off r.width r.found) (mineW.foldl releaseWrite s1)

/-- The Tsuyx ports of a hall that PORT_ROLES uses start to train again (Table 16-4). -/
def startPorts (s : State) (h : Nat) : State :=
  (List.range 6).foldl (fun s i =>
    let n := 6 * h + i
    if portUsed s n then portWritten (fset s (Reg.TSX_CTRL.ENABLE n) 1) n s else s) s

/-- Every domain that Table 16-3 names. -/
def allDomains : List Nat := [1, 2, 4, 5, 6, 7]

/-- A domain becomes ready. -/
def domainUp (s : State) (d : Nat) : State :=
  let s1 := { s with pst := { s.pst with awake := s.pst.awake ++ [d], waking := s.pst.waking.filter (· != d) } }
  let s2 := if 4 ≤ d then startPorts (putBit (if s.pst.depth = 3 then buildTables [d - 4] s1 else s1) Reg.PST_STATUS.HALL_AWAKE (d - 4) true) (d - 4)
    else s1
  let s3 := if s2.pst.waking.isEmpty then fset s2 Reg.PST_STATUS.STATE 0 else s2
  let s4 := if allDomains.all s3.pst.awake.elem then { s3 with pst := { s3.pst with depth := 0, awake := [], waking := [] } } else s3
  releaseHeld s4 d

/-- WAKE_DOMAIN_READY (R350): a domain that a wake has reached is ready; a hall in Idle's sense needs no such event. -/
def execWakeDomainReady (domain : Nat) (s : State) : Out :=
  .next (if (s.pst.depth = 2 ∨ s.pst.depth = 3) ∧ s.pst.waking.elem domain = true then domainUp s domain else s)

/-- READ_HOLD_EXPIRY (R350): the read held longest completes with all ones and has no other effect; EARLY_READS counts it. -/
def execReadHoldExpiry (s : State) : Out :=
  .next (match s.pst.reads with
    | [] => s
    | r :: rs => fbump (answerRead { s with pst := { s.pst with reads := rs } } r.fn r.off (List.replicate r.width 0xFF)) Reg.PST_STATS.EARLY_READS 1)

/-! ### The sideband and WAKE_N (R349, R352, R353) -/

/-- A wake event in Off: WAKE_N is driven until PWR_GOOD, and the source is kept for the boot. In a device reset the reset wins, and the source is kept
(R407). -/
def wakeFromOff (s : State) (src : Nat) : State :=
  if !s.pst.vstby then s else { s with pst := { s.pst with wakeN := s.pst.wakeN || !s.pst.inReset, wakeSrc := src } }

/-- SIDEBAND_ADDRESS_MATCH (R352): an address byte with WAKE_EN set; the byte itself is not acknowledged. -/
def execSidebandAddressMatch (addr : Nat) (s : State) : Out :=
  .next (if fget s Reg.PST_SB_CTRL.WAKE_EN = 0 ∨ addr ≠ fget s Reg.PST_SB_CTRL.ADDR then s
    else if unpowered s then wakeFromOff s 4
    else wake s 4 2)

/-- WAKE_N_ASSERT (R349): the board holds WAKE_N low for at least 1 µs. -/
def execWakeNAssert (s : State) : Out := .next (if unpowered s then wakeFromOff s 5 else wake s 5 1)

/-! ### Entering (R345 to R348, Table 16-2) -/

/-- Is a packet open or waiting in any aperture? -/
def anyPacket (s : State) : Bool := s.itk.streams.any fun e => packetComplete s e.1 || packetOpen s e.1

/-- Does background work run in a hall? -/
def backgroundRuns (s : State) : Bool :=
  s.con.window.isSome || (s.arr.folios.any fun e => e.2.st == .accessing) || s.col.sweeps.any fun e => e.2.isSome

/-- IDLE_ENTRY (R345): the three conditions have held for IDLE_US. -/
def execIdleEntry (s : State) : Out :=
  .next (if s.pst.depth ≠ 0 ∨ s.run.live.isEmpty = false ∨ anyPacket s = true ∨ backgroundRuns s = true then s
    else fset (fset { s with pst := { s.pst with depth := 1 } } Reg.PST_STATUS.STATE 1) Reg.PST_STATUS.HALL_AWAKE 0)

/-- Why a request is refused (R346); 0: it is not. -/
def sleepCheck (s : State) : Nat :=
  let img := fget s Reg.CUR_IMG_STATUS.STATE
  if (s.itk.cmds.any fun k => k.phase != .sealed) || anyPacket s then 1
  else if (List.range 16).any fun r => (accOf s r).phase != .idle && (accOf s r).phase != .failed then 2
  else if img ≠ 0 ∧ img ≠ 8 ∧ img ≠ 9 then 3
  else if orbState s ≠ 0 ∧ orbState s ≠ 4 then 4
  else 0

/-- Step 2: the annals are flushed; for Off a tap checkpoint is written. -/
def entryCurator (off nandOk : Bool) (s : State) : State :=
  let s1 := if nandOk then flushAnnals s else s
  if off then writeCheckpoint s1 nandOk else s1

/-- Step 3: every Tsuyx port is disabled; for Deep sleep the taps are copied and what the halls held is lost (Table 16-1). -/
def entryHalls (deep : Bool) (s : State) : State :=
  let s1 := (List.range 24).foldl (fun s n => portWritten (fset s (Reg.TSX_CTRL.ENABLE n) 0) n s) s
  if deep then
    { s1 with
      scr := { s1.scr with unit := [], tiles := [], store := [], linePoison := [], tables := [] }
      col := { s1.col with wins := [], sweeps := [] }
      arr := { s1.arr with ledgers := [], folios := smapAll (fun _ => freshFolio) s1.arr.folios fun _ f =>
        { f with bankA := if f.st == .serving || f.st == .collating then activeBank f else [], bankB := [], bank := 0, shadowValid := false } } }
  else s1

/-- The low state itself. -/
def atDepth (depth : Nat) (s : State) : State :=
  let s1 := { s with pst := { s.pst with depth := depth, awake := [], waking := [], sleptAon := s.clk.aon } }
  fset (fset s1 Reg.PST_STATUS.STATE depth) Reg.PST_STATUS.HALL_AWAKE 0

/-- Back in Run after an entry that a wake from `src` stopped: the halls' ports train again; where Deep sleep had switched the halls off, their tables
are built anew (Table 16-4). -/
def backToRun (src : Nat) (off : Bool) (s0 : State) : State :=
  let s := if off then buildTables [0, 1, 2, 3] s0 else s0
  let s1 := fset (fset { s with pst := { s.pst with depth := 0, awake := [], waking := [] } } Reg.PST_STATUS.STATE 0) Reg.PST_STATUS.WAKE_SRC src
  (List.range 4).foldl startPorts (fset s1 Reg.PST_STATUS.HALL_AWAKE 0xF)

/-- The entry of a request that passed its checks, cut short at the end of the step in which a wake event fell (R348): `woken` holds step and
source. -/
def enterLow (depth : Nat) (nandOk : Bool) (woken : Option (Nat × Nat)) (s : State) : State :=
  let last := (woken.map (·.1)).getD 6
  let s1 := if 2 ≤ last then entryCurator (decide (depth = 4)) nandOk s else s
  let s2 := if 3 ≤ last then entryHalls (decide (3 ≤ depth)) s1 else s1
  match woken with
  | none => if depth = 4 then (let s3 := enterOff 2 s2; { s3 with pst := { s3.pst with wakeSrc := 0 } }) else atDepth depth s2
  | some (_, src) => if depth = 4 ∧ 3 ≤ last then wakeFromOff (enterOff 2 s2) src else backToRun src (decide (depth = 3 ∧ 3 ≤ last)) s2

/-- A write of PST.CTRL.REQ (R346 to R348, R356): refused with a reason, or carried out. -/
def powerRequest (depth : Nat) (nandOk : Bool) (woken : Option (Nat × Nat)) (s : State) : State :=
  let st := fget s Reg.PST_STATUS.STATE
  if unpowered s then s
  else if 1 < st ∨ woken.map (·.1) = some 0 then fset s Reg.PST_STATUS.LAST_RESULT 5
  else
    let r := sleepCheck s
    if r ≠ 0 then fset s Reg.PST_STATUS.LAST_RESULT r
    else
      let s1 := fset s Reg.PST_STATUS.LAST_RESULT (if woken.isSome then 5 else 0)
      enterLow depth nandOk woken s1

/-- SLEEP: PST.CTRL.REQ 1. -/
def execSleep (nandOk : Bool) (woken : Option (Nat × Nat)) (s : State) : Out := .next (powerRequest 2 nandOk woken s)

/-- DEEP_SLEEP: PST.CTRL.REQ 2. -/
def execDeepSleep (nandOk : Bool) (woken : Option (Nat × Nat)) (s : State) : Out := .next (powerRequest 3 nandOk woken s)

/-- OFF: PST.CTRL.REQ 3. -/
def execPowerOff (nandOk : Bool) (woken : Option (Nat × Nat)) (s : State) : Out := .next (powerRequest 4 nandOk woken s)

/-- AUTO_SLEEP (R345): AUTO_SLEEP_MS of Idle with the conditions of R346 met; LAST_RESULT is left to requests. -/
def execAutoSleep (nandOk : Bool) (woken : Option (Nat × Nat)) (s : State) : Out :=
  .next (if s.pst.depth ≠ 1 ∨ fget s Reg.PST_CTRL.AUTO_SLEEP_MS = 0 ∨ sleepCheck s ≠ 0 ∨ woken.map (·.1) = some 0 then s
    else enterLow 2 nandOk woken s)

end Sys2Proof.Machine
end

