-- ==== Sys2Proof/Machine/Monitors.lean ====
section
/-!
DEFINITION. Sys2Proof/Machine/Monitors.lean: the monitor converters (17 R360 to R366).

What the analogue side gives is an operand: the modulator's output for a result, and whether a PWM slot's regulator is stopped.
-/
namespace Sys2Proof.Machine

/-- The module with a converter changed. -/
def modConv (s : State) (die : Nat) (f : Converter → Converter) : State :=
  { s with cur := { s.cur with conv := smod (fun _ => freshConverter) s.cur.conv die f } }

/-- MON.EVENTS and MON.STATS of a die. -/
def monEvents (die : Nat) : FieldRef := ⟨monDieBase die, 0, 16⟩
def monRefFail (die : Nat) : FieldRef := ⟨monDieBase die, 17, 1⟩
def monOverrun (die : Nat) : FieldRef := ⟨monDieBase die + 1, 0, 32⟩
def monResults (die : Nat) : FieldRef := ⟨monDieBase die + 1, 32, 32⟩

/-- Does a slot exist: 0 to 15, and the I_IN channel of the concourse (R361)? -/
def slotExists (die slot : Nat) : Bool := decide (die ≤ 4) && (decide (slot < 16) || decide (slot = 16 ∧ die = 4))

/-- A slot's settings: MON.SLOT and MON.WINDOW. -/
def slotSettings (s : State) (die slot : Nat) : W64 × W64 := (rget s (monBase die slot), rget s (monBase die slot + 1))

/-- A conversion starts, with the settings that its trigger took (R366). -/
def startSlot (s : State) (die slot : Nat) (set : W64 × W64) : State :=
  modConv s die fun c => { c with busy := some slot, set := set.1, window := set.2 }

/-- Does a slot wait for the modulator? -/
def slotWaits (c : Converter) (slot : Nat) : Bool := c.waiting.any fun w => w.1 == slot

/-- MONITOR_TRIGGER (R361, R362): a slot's timer or PWM event. The modulator serves one slot; a busy one makes the slot wait, and a trigger
that recurs while it waits, or whose regulator is stopped, is dropped and counted. -/
def execMonitorTrigger (die slot : Nat) (stopped : Bool) (s : State) : Out :=
  .next (if unpowered s || !slotExists die slot || decide (16 ≤ slot) || fget s (Reg.MON_SLOT.ENABLE die slot) == 0 then s
    else if stopped && fget s (Reg.MON_SLOT.TRIGGER die slot) == 2 then fbump s (monOverrun die) 1
    else
      let c := convOf s die
      if c.busy.isNone then startSlot s die slot (slotSettings s die slot)
      else if slotWaits c slot then fbump s (monOverrun die) 1
      else modConv s die fun c => { c with waiting := c.waiting ++ [(slot, slotSettings s die slot)] })

/-! ### Results (R363 to R365) -/

/-- `x` held to the range of a signed CODE of 24 bits. -/
def clampCode (x : Int) : Int := max (-(2 ^ 23)) (min (2 ^ 23 - 1) x)

/-- CODE on the main path (R363): of the sinc³ output at OSR = 2^`osr`. -/
def mainCode (osr : Nat) (x : Samples) : Int := clampCode (x.sinc * 2 ^ 23 / 2 ^ (3 * osr))

/-- CODE on the fall-back path (R363): of the ones of 2^`avg` runs of OSR = 2^`osr` samples. -/
def fallbackCode (osr avg shift : Nat) (x : Samples) : Int :=
  clampCode (((List.range (2 ^ avg)).map fun k => (2 * ((x.ones.getD k 0 : Nat) : Int) - 2 ^ osr) * 2 ^ (23 - osr)).sum / 2 ^ shift)

/-- Is a result one of the fall-back path (R364)? The I_IN channel has no FALLBACK bit. -/
def fallsBack (c : Converter) (own : Bool) (set : W64) : Bool := c.refFailed || (!own && fieldOf set 1 1 == 1)

/-- The CODE of a result, as its 24 bits (R363, R364): a failed reference check puts AVG_LOG2 = 4 and SHIFT = 4 in place of the slot's; the
I_IN channel runs at OSR 64 (R361). -/
def resultCode (c : Converter) (own : Bool) (set : W64) (x : Samples) : Nat :=
  let osr := if own then 6 else fieldOf set 8 4
  unsignedOf 24 (if c.refFailed then fallbackCode osr 4 4 x
    else if fallsBack c own set then fallbackCode osr (fieldOf set 36 4) (fieldOf set 40 5) x else mainCode osr x)

/-- SCALED as a signed figure of 32 bits (R363): a × CODE + b to the nearest integer, with a and b of the die's input from the test record, in units of 2^-64;
which way an exact half goes is not stated (log entry 23). -/
def scaledOf (die input code : Nat) : Int :=
  let x := Config.monSlope (die * 16 + input) * signed 24 code + Config.monOffset (die * 16 + input)
  signed 32 (unsignedOf 32 (if x % 2 ^ 64 = 2 ^ 63 then (⟨x, 2 ^ 64⟩ : Frac).either else (2 * x + 2 ^ 64) / 2 ^ 65))

/-- The window of a protection slot in SCALED units (Table 17-4): 1/256 °C, mV; that of REF_CHECK is ±0.5 % of its nominal value. -/
def protWindow (s : State) (die slot : Nat) : Int × Int :=
  let ref : Int × Int := (-(-(Config.refNominal die * 995) / 1000), (Config.refNominal die * 1005) / 1000)
  let top : Int × Int := (-(2 ^ 31), 115 * 256)
  if die < 4 then
    let v : Int := ((vsetUv s die (fget s (Reg.PWR_HALL_STATUS.POINT die)) / 1000 : Nat) : Int)
    (if slot < 6 then top else if slot = 6 then (v - 60, v + 60) else ref)
  else match slot with
    | 4 => (38000, 52000)
    | 5 => (9500, 13000)
    | 6 => (3000, 3600)
    | 7 => ref
    | _ => top

/-- Does a result lie within its slot's window? `w` is MON.WINDOW as the conversion began with it. -/
def inWindow (s : State) (die slot code : Nat) (w : W64) : Bool :=
  if slot < 8 then
    let x := scaledOf die (nbits (rget s (monBase die slot)).toNat 4 4) code
    let b := protWindow s die slot
    decide (b.1 ≤ x ∧ x ≤ b.2)
  else decide (signed 24 (fieldOf w 0 24) ≤ signed 24 code ∧ signed 24 code ≤ signed 24 (fieldOf w 32 24))

/-- A window event (R365): the slot's bit, a record, an interrupt of the curator that wakes it. -/
def windowEvent (s : State) (die slot code scaled : Nat) : State :=
  let s1 := putBit (wake s 6 2) (monEvents die) slot true
  annal s1 0x0900 2 { die := some die } slot code scaled

/-- The reference check of a die has failed (R364). -/
def refFailure (s : State) (die code : Nat) : State :=
  if (convOf s die).refFailed then s
  else annal (fset (modConv s die fun c => { c with refFailed := true }) (monRefFail die) 1) 0x0901 3 { die := some die } code 0 0

/-- The result's registers and counts (R366), and the input that it is of. -/
def putResult (s : State) (die slot input code scaled : Nat) (fallback : Bool) : State :=
  let s0 := modConv s die fun c => { c with inputs := (slot, input) :: c.inputs.filter fun e => e.1 != slot }
  let s1 := fset (fset s0 (Reg.MON_RESULT.SCALED die slot) scaled) (Reg.MON_RESULT.CODE die slot) code
  let s2 := fset (fset s1 (Reg.MON_RESULT.FALLBACK die slot) (bitOf fallback)) (Reg.MON_RESULT.VALID die slot) 1
  fbump (fset s2 (Reg.MON_RESULT.COUNT die slot) ((fget s (Reg.MON_RESULT.COUNT die slot) + 1) % 64)) (monResults die) 1

/-- The comparison with the window: an event arises where the slot's previous result lay within it. -/
def compareResult (s : State) (die slot code scaled : Nat) (set window : W64) : State :=
  if fieldOf set 2 1 = 0 then s
  else
    let was := (convOf s die).outside.elem slot
    let ins := inWindow s die slot code window
    let s1 := modConv s die fun c => { c with outside := if ins then c.outside.filter (· != slot) else (slot :: c.outside).eraseDups }
    let s2 := if !ins && !was then windowEvent s1 die slot code scaled else s1
    if slot = 7 && !ins then refFailure s2 die code else s2

/-- The slot that has waited with the lowest number is served next (R361). -/
def serveNext (s : State) (die : Nat) : State :=
  let s1 := modConv s die fun c => { c with busy := none }
  let ws := (convOf s die).waiting
  match ws.find? fun w => ws.all fun x => decide (w.1 ≤ x.1) with
  | some w => startSlot (modConv s1 die fun c => { c with waiting := c.waiting.filter fun x => x.1 != w.1 }) die w.1 w.2
  | none => s1

/-- MONITOR_RESULT (R363 to R365): the conversion in progress, or the I_IN channel, gives a result. -/
def execMonitorResult (die slot : Nat) (x : Samples) (s : State) : Out :=
  .next (
    let c := convOf s die
    let own := decide (slot = 16 ∧ die = 4)
    if unpowered s || !(own || (decide (slot < 16) && c.busy == some slot)) then s
    else
      let set := if own then rget s (monBase die slot) else c.set
      let input := if own then 5 else fieldOf set 4 4
      let code := resultCode c own set x
      let scaled := unsignedOf 32 (scaledOf die input code)
      let s1 := putResult s die slot input code scaled (fallsBack c own set)
      let s2 := if own then s1 else compareResult s1 die slot code scaled set c.window
      let s3 := if die < 4 && decide (input < 6) then (match hottestDiode s2 die with | some t => showTemp s2 die t | none => s2) else s2
      if own then s3 else serveNext s3 die)

end Sys2Proof.Machine
end

