-- ==== Sys2Proof/Machine/Flags.lean ====
section
/-!
DEFINITION. Sys2Proof/Machine/Flags.lean: the completion flags of Table 12-7 that the inside of a pass sets, and the counts that go with
them (R103, R136 to R138).
-/
namespace Sys2Proof.Machine

/-- Bit numbers of a completion's FLAGS (Table 12-7). -/
def flSpill : Nat := 1
def flClip : Nat := 2
def flMixed : Nat := 4
def flZero : Nat := 8
def flSat : Nat := 16
def flThrottled : Nat := 32

/-- A pass's command gets a flag. -/
def flagPass (s : State) (region bit : Nat) : State := modPass s region fun p => { p with flags := p.flags ||| bit }

/-- Blocks and values encoded by a scribe of a hall are counted (R136 to R138). -/
def countBlocks (s : State) (h nz sat nan : Nat) : State :=
  fbump (fbump (fbump s (Reg.SCR_BLOCK_STATS.ZERO h) nz) (Reg.SCR_BLOCK_STATS.SAT h) sat) (Reg.SCR_BLOCK_STATS.NAN h) nan

/-- Elements whose INT32 sum saturated in an instruction (R103). -/
def countIntSat (s : State) (h n : Nat) : State := fbump s (Reg.SCR_INT_SAT.COUNT h) n

/-- An INT32 sum with saturation, and whether it saturated (R103). -/
def satAdd (acc : W32) (x : Int) : W32 × Bool :=
  let y := acc.toInt + x
  let z := clampInt (-(2 ^ 31 : Int)) (2 ^ 31 - 1) y
  (BitVec.ofInt 32 z, decide (y ≠ z))

/-- The flags of blocks that a pass encodes into its scratch (R138). -/
def flagBlocks (s : State) (region nz sat : Nat) : State :=
  let s1 := if 0 < nz then flagPass s region flZero else s
  if 0 < sat then flagPass s1 region flSat else s1

end Sys2Proof.Machine
end

