-- ==== Sys2Proof/Machine/ScribeInsns.lean ====
section
/-!
DEFINITION. Sys2Proof/Machine/ScribeInsns.lean: the instructions of a scribe program (05, Table 5-7).
-/
namespace Sys2Proof.Machine

/-- NOP. -/
def execNop (shelf : Nat) (s : State) : Out := runInsn .nop (fun _ s => .done s) shelf s

/-- HALT (R111): once every transfer of the program is complete, its job ends. -/
def execHalt (shelf : Nat) (s : State) : Out :=
  runInsn .halt (fun i s => if i.u.xfers.all fun t => t.job != i.prog.job then .done (haltJob s i.shelf i.prog.job) else .stall) shelf s

/-- LDX: X[DST] = IMM. -/
def execLdx (shelf : Nat) (s : State) : Out := runInsn .ldx (fun i s => .done (setX s i.shelf i.w.dst i.w.imm)) shelf s

/-- ADDX: X[DST] = X[SA] + IMM, modulo 2^32. -/
def execAddx (shelf : Nat) (s : State) : Out := runInsn .addx (fun i s => .done (setX s i.shelf i.w.dst (i.xImm i.w.sa))) shelf s

/-- LOOP: X[DST] = X[DST] − 1; while it is not zero, a branch by IMM instructions, which stays in the program's own area (R114). -/
def loopBody (i : Insn) (s : State) : Did :=
  let v := (i.x i.w.dst + 2 ^ 32 - 1) % 2 ^ 32
  let target := (i.prog.pc : Int) + signed 32 i.w.imm
  let s1 := setX s i.shelf i.w.dst v
  if v = 0 then .done s1
  else if target < i.prog.job.first || (i.prog.job.last : Int) ≤ target then .fault 3
  else .done (modScribe s1 i.shelf fun u => { u with run := u.run.map fun p => { p with pc := target.toNat } })
def execLoopX (shelf : Nat) (s : State) : Out := runInsn .loop loopBody shelf s

/-! ### MMA (R101 to R104) -/

/-- The elements of an operand in the shelf store. -/
def loadElems (s : State) (shelf a n : Nat) (f : Fmt) : List Nat := unpackElems f n (storeBytes s shelf a (elemBytes f n))

/-- The exact value of an operand element: under its block's scale for an MX format. -/
def operandFV (f : Fmt) (code scale : Nat) : FV := if f.isMx then decMx f scale code else decElem f code

/-- The operands of an MMA: A as K rows of 16 and B as K rows of 64 (R217 fixes the second), with block scales by row and by column. -/
structure MmaIn where
  fmt : Fmt
  k : Nat
  n : Nat
  a : List Nat
  b : List Nat
  sa : Bytes
  sb : Bytes

def mmaIn (s : State) (i : Insn) : MmaIn :=
  let n := blockLen i.w.mod
  { fmt := i.fmt, k := i.k, n := n, a := loadElems s i.shelf (i.x i.w.sa) (16 * i.k) i.fmt, b := loadElems s i.shelf (i.x i.w.sb) (64 * i.k) i.fmt
    sa := if fmtMx i.w.fmt then storeBytes s i.shelf (i.x i.w.sa + 64 * (i.w.imm / 65536)) (16 * (i.k / n)) else []
    sb := if fmtMx i.w.fmt then storeBytes s i.shelf (i.x i.w.sb + 64 * (i.w.imm % 65536)) (64 * (i.k / n)) else [] }

def MmaIn.elemA (m : MmaIn) (r kk : Nat) : FV := operandFV m.fmt (m.a.getD (16 * kk + r) 0) (rd m.sa (r * (m.k / m.n) + kk / m.n) 1)
def MmaIn.elemB (m : MmaIn) (kk c : Nat) : FV := operandFV m.fmt (m.b.getD (64 * kk + c) 0) (rd m.sb (c * (m.k / m.n) + kk / m.n) 1)

/-- The products of element (r, c) in K order. -/
def MmaIn.products (m : MmaIn) (r c : Nat) : List FV := (List.range m.k).map fun kk => mulFV (m.elemA r kk) (m.elemB kk c)

/-- The integer an exact value stands for. -/
def fvInt : FV → Int
  | .num n m e => let v : Int := ((m * pow2 e / pow2 (-e) : Nat) : Int); if n then -v else v
  | _ => 0

/-- One element of an integer MMA: exact group sums added with saturation (R103). -/
def intAccumulate (acc : W32) (ps : List FV) : W32 × Bool :=
  (groupsOf 32 (ps.length / 32 + 1) ps).foldl (fun a g => let r := satAdd a.1 ((g.map fvInt).sum); (r.1, a.2 || r.2)) (acc, false)

/-- Is row r of A, or anything of B, poisoned? -/
def mmaBad (s : State) (i : Insn) (r : Nat) : Bool :=
  let n := blockLen i.w.mod
  storeRangeBad s i.shelf (i.x i.w.sa) (elemBytes i.fmt (16 * i.k)) || storeRangeBad s i.shelf (i.x i.w.sb) (elemBytes i.fmt (64 * i.k)) ||
    (fmtMx i.w.fmt && (storeRangeBad s i.shelf (i.x i.w.sa + 64 * (i.w.imm / 65536) + r * (i.k / n)) (i.k / n) ||
      storeRangeBad s i.shelf (i.x i.w.sb + 64 * (i.w.imm % 65536)) (64 * (i.k / n))))

/-- MMA (R102 to R104): tile DST = A × B, or added to DST. -/
def mmaBody (i : Insn) (s : State) : Did :=
  let m := mmaIn s i
  let t := tileAt s i.shelf i.w.dst
  let start := fun r c => if i.w.acc then t.elem r c else 0
  let bad := fun r => mmaBad s i r || (i.w.acc && t.bad r)
  if i.fmt.isInt then
    let res := fun r c => intAccumulate (start r c) (m.products r c)
    let n := ((List.range 16).flatMap fun r => (List.range 64).filter fun c => (res r c).2).length
    .done (countIntSat (putTile s i 64 (fun r c => (res r c).1) bad) (hallOf i.shelf) n)
  else .done (putTile s i 64 (fun r c => accumulate (start r c) (m.products r c)) bad)
def execMma (shelf : Nat) (s : State) : Out := runInsn .mma mmaBody shelf s

/-! ### Vector operations (R105, R106) -/

/-- SB′ as MOD selects it. -/
def secondOperand (s : State) (i : Insn) (r c : Nat) : W32 :=
  match i.w.mod with
  | 0 => (tileAt s i.shelf i.w.sb).elem r c
  | 1 => (tileAt s i.shelf i.w.sb).elem r 0
  | 2 => (tileAt s i.shelf i.w.sb).elem 0 c
  | _ => BitVec.ofNat 32 i.w.imm

/-- Is row r of SB′ poisoned? -/
def secondBad (s : State) (i : Insn) (r : Nat) : Bool :=
  match i.w.mod with
  | 0 | 1 => (tileAt s i.shelf i.w.sb).bad r
  | 2 => (tileAt s i.shelf i.w.sb).bad 0
  | _ => false

/-- An elementwise operation of two operands; with ACC the result is added to DST with a second rounding. -/
def binaryBody (op : W32 → W32 → W32) (i : Insn) (s : State) : Did :=
  let a := tileAt s i.shelf i.w.sa
  let d := tileAt s i.shelf i.w.dst
  .done (putTile s i 64 (fun r c =>
      let v := op (a.elem r c) (secondOperand s i r c)
      if i.w.acc then fadd (d.elem r c) v else v)
    fun r => a.bad r || secondBad s i r || (i.w.acc && d.bad r))

/-- An elementwise operation of one operand. -/
def unaryBody (op : W32 → W32) (i : Insn) (s : State) : Did :=
  let a := tileAt s i.shelf i.w.sa
  let d := tileAt s i.shelf i.w.dst
  .done (putTile s i 64 (fun r c => if i.w.acc then fadd (d.elem r c) (op (a.elem r c)) else op (a.elem r c))
    fun r => a.bad r || (i.w.acc && d.bad r))

/-- VADD. -/
def execVadd (shelf : Nat) (s : State) : Out := runInsn .vadd (binaryBody fadd) shelf s

/-- VSUB. -/
def execVsub (shelf : Nat) (s : State) : Out := runInsn .vsub (binaryBody fsub) shelf s

/-- VMUL; with ACC fused: fl(dst + a × b) (Table 5-2). -/
def vmulBody (i : Insn) (s : State) : Did :=
  let a := tileAt s i.shelf i.w.sa
  let d := tileAt s i.shelf i.w.dst
  .done (putTile s i 64 (fun r c => if i.w.acc then ffma (a.elem r c) (secondOperand s i r c) (d.elem r c) else fmul (a.elem r c) (secondOperand s i r c))
    fun r => a.bad r || secondBad s i r || (i.w.acc && d.bad r))
def execVmul (shelf : Nat) (s : State) : Out := runInsn .vmul vmulBody shelf s

/-- VEXP. -/
def execVexp (shelf : Nat) (s : State) : Out := runInsn .vexp (unaryBody vexp) shelf s

/-- VRCP. -/
def execVrcp (shelf : Nat) (s : State) : Out := runInsn .vrcp (unaryBody vrcp) shelf s

/-- VRSQ. -/
def execVrsq (shelf : Nat) (s : State) : Out := runInsn .vrsq (unaryBody vrsq) shelf s

/-- VMAX: the greater under R97, the first operand standing at the lower index. -/
def execVmax (shelf : Nat) (s : State) : Out :=
  runInsn .vmax (binaryBody fun a b => (selectIdx true [⟨a, 0⟩, ⟨b, 1⟩]).val) shelf s

/-- VMAXI and VMINI: per row the selected value to column 0 and its index to column 1, counted from IMM (R97, R106). -/
def selectBody (gt : Bool) (i : Insn) (s : State) : Did :=
  let a := tileAt s i.shelf i.w.sa
  let sel := fun r => selectIdx gt ((List.range 64).map fun c => ⟨a.elem r c, (c + i.w.imm) % 2 ^ 32⟩)
  .done (putTile s i 2 (fun r c => if c = 0 then (sel r).val else BitVec.ofNat 32 (sel r).idx) a.bad)
def execVmaxi (shelf : Nat) (s : State) : Out := runInsn .vmaxi (selectBody true) shelf s

/-- VMINI. -/
def execVmini (shelf : Nat) (s : State) : Out := runInsn .vmini (selectBody false) shelf s

/-- VSUM: per row the sum of R106 to column 0. -/
def vsumBody (i : Insn) (s : State) : Did :=
  let a := tileAt s i.shelf i.w.sa
  let d := tileAt s i.shelf i.w.dst
  let sum := fun r => rowSum ((List.range 64).map (a.elem r))
  .done (putTile s i 1 (fun r _ => if i.w.acc then fadd (d.elem r 0) (sum r) else sum r) a.bad)
def execVsum (shelf : Nat) (s : State) : Out := runInsn .vsum vsumBody shelf s

/-! ### Loads and stores of tiles (R132 to R139) -/

/-- The value a load gives an element: exact widening to FP32, or to INT32 for an INT format. -/
def widen (f : Fmt) (code scale : Nat) : W32 :=
  match f with
  | .fp32 | .int32 => BitVec.ofNat 32 code
  | .int8 => BitVec.ofInt 32 (signed 8 code)
  | .int4 => BitVec.ofInt 32 (signed 4 code)
  | _ => toF (operandFV f code scale)

/-- LDT: 16 rows of the shelf store into tile DST. -/
def ldtBody (i : Insn) (s : State) : Did :=
  let a := i.xImm i.w.sa
  let codes := loadElems s i.shelf a 1024 i.fmt
  let n := blockLen i.w.mod
  let scales := if fmtMx i.w.fmt then storeBytes s i.shelf (a + elemBytes i.fmt 1024) (1024 / n) else []
  let val := fun r c => widen i.fmt (codes.getD (64 * r + c) 0) (rd scales (r * (64 / n) + c / n) 1)
  let rowB := elemBytes i.fmt 64
  let t := tileAt s i.shelf i.w.dst
  let bad := fun r => storeRangeBad s i.shelf (a + r * rowB) rowB ||
    (fmtMx i.w.fmt && storeRangeBad s i.shelf (a + elemBytes i.fmt 1024 + r * (64 / n)) (64 / n)) || (i.w.acc && t.bad r)
  if i.fmt.isInt && i.w.acc then
    let res := fun r c => satAdd (t.elem r c) (val r c).toInt
    let k := ((List.range 16).flatMap fun r => (List.range 64).filter fun c => (res r c).2).length
    .done (countIntSat (putTile s i 64 (fun r c => (res r c).1) bad) (hallOf i.shelf) k)
  else .done (putTile s i 64 (fun r c => if i.w.acc then fadd (t.elem r c) (val r c) else val r c) bad)
def execLdt (shelf : Nat) (s : State) : Out := runInsn .ldt ldtBody shelf s

/-- A tile encoded for the shelf store: element data, block scales, and zero, saturating and NaN counts (R133 to R137). -/
structure Stored where
  data : Bytes
  scales : Bytes
  nz : Nat
  sat : Nat
  nan : Nat

def encodeTile (f : Fmt) (n : Nat) (t : Tile) : Stored :=
  let row := fun r => (List.range 64).map (t.elem r)
  if f.isMx then
    let bs := (List.range 16).flatMap fun r => (groupsOf n (64 / n) (row r)).map (encMx f)
    { data := packElems f (bs.map (·.codes)).flatten, scales := bs.map fun b => BitVec.ofNat 8 b.scale
      nz := (bs.filter (·.zero)).length, sat := (bs.filter (·.sat)).length, nan := (bs.filter (·.nan)).length }
  else match f with
    | .fp32 | .int32 => { data := ((List.range 16).flatMap row).flatMap fun w => leBytes 4 w.toNat, scales := [], nz := 0, sat := 0, nan := 0 }
    | _ =>
      let es := ((List.range 16).flatMap row).map fun w => encElem f (decF w)
      { data := packElems f (es.map (·.code)), scales := [], nz := 0, sat := 0, nan := (es.filter (·.nan)).length }

/-- Is an address in the pass scratch of Table 5-3? -/
def inPassScratch (a : Nat) : Bool := decide (0xA0000 ≤ a ∧ a < 0xC0000)

/-- STT: tile SA converted and stored; MX blocks are counted, and flag the pass whose scratch they enter (R138). -/
def sttBody (i : Insn) (s : State) : Did :=
  let t := tileAt s i.shelf i.w.sa
  let e := encodeTile i.fmt (blockLen i.w.mod) t
  let a := i.xImm i.w.dst
  let rowB := elemBytes i.fmt 64
  let n := 64 / blockLen i.w.mod
  let s1 := writeStore s i.shelf a (e.data ++ e.scales) fun k =>
    if k < e.data.length then t.bad (k / rowB) else t.bad ((k - e.data.length) / n)
  let s2 := countBlocks s1 (hallOf i.shelf) e.nz e.sat e.nan
  .done (if i.prog.job.kind ≤ 4 && inPassScratch a then flagBlocks s2 i.prog.job.region e.nz e.sat else s2)
def execStt (shelf : Nat) (s : State) : Out := runInsn .stt sttBody shelf s

/-! ### Gather and scatter (R110, R111) -/

/-- The row indices at an address. -/
def rowIndices (s : State) (shelf a n : Nat) : List Nat := (List.range n).map fun k => rd (storeBytes s shelf (a + 4 * k) 4) 0 4

/-- A transfer is started. -/
def startTransfer (s : State) (i : Insn) (t : Transfer) : Did := .done (modScribe s i.shelf fun u => { u with xfers := u.xfers ++ [t] })

/-- GATHER. -/
def gatherBody (i : Insn) (s : State) : Did :=
  match i.desc with
  | none => .fault 4
  | some d =>
    let rows := rowIndices s i.shelf (i.x i.w.sa) (i.w.cnt + 1)
    if rows.any fun r => decide (d.rows ≤ r) then .fault 4
    else startTransfer s i { isGather := true, job := i.prog.job, desc := d, addr := i.xImm i.w.dst, rows := rows }
def execGather (shelf : Nat) (s : State) : Out := runInsn .gather gatherBody shelf s

/-- SCATTER: a window without write permission faults (R114). -/
def scatterBody (i : Insn) (s : State) : Did :=
  match i.desc with
  | none => .fault 4
  | some d =>
    let rows := rowIndices s i.shelf (i.xImm i.w.sb) (i.w.cnt + 1)
    if rows.any fun r => decide (d.rows ≤ r) then .fault 4
    else if !rows.all (rowWritable s d) then .fault 5
    else startTransfer s i { isGather := false, job := i.prog.job, desc := d, addr := i.x i.w.sa, rows := rows }
def execScatter (shelf : Nat) (s : State) : Out := runInsn .scatter scatterBody shelf s

/-! ### Checks and the norm watch (R122, R123, R153) -/

/-- The failing elements of a tile against a reference, with the tolerances of row 0 of the next tile: row, column; a poisoned row of either counts
all its elements (R122). -/
def failingElems (a b tol : Tile) : List (Nat × Nat) :=
  (List.range 16).flatMap fun r => ((List.range 64).filter fun c =>
    a.bad r || b.bad r || (isNaN (a.elem r c) != isNaN (b.elem r c)) || flt (tol.elem 0 c) (fabs (fsub (a.elem r c) (b.elem r c)))).map fun c => (r, c)

/-- How many elements fail. -/
def tileFails (a b tol : Tile) : Nat := (failingElems a b tol).length

/-- Does a comparison meet poison? -/
def tilePoisoned (a b : Tile) : Bool := a.poison != 0 || b.poison != 0

/-- The fingerprint of a vigilance event that no class-S check raises (R122, R397): the failing rows of tile SA stand for the activations (DESIGN
CHOICE, log entry 22: R397 fixes the digest for class S alone). -/
def eventPrint (stage : Nat) (a : Tile) (fails : List (Nat × Nat)) : Bytes :=
  (shake256 (leBytes 2 stage ++ ((fails.map (·.1)).eraseDups.flatMap fun r => (List.range 64).flatMap fun c => leBytes 4 (a.elem r c).toNat) ++
    leBytes 8 ((fails.map (·.2)).eraseDups.map fun j => 2 ^ j).sum)).take 16

/-- The vigilance event of an image program that is no class-S job (R122, R155): a detection at the job's stage, with the pass number and the
fingerprint. -/
def programEvent (s : State) (shelf : Nat) (j : Job) (a tol : Tile) (fails : List (Nat × Nat)) : State :=
  let h := hallOf shelf
  let n := ((passOf s j.region).map (·.number)).getD 0
  let s1 := fset (noteDetection s h j.region j.stage 0) (Reg.SCR_VIG_STATUS.FAILS h) fails.length
  let s2 := annal s1 0x0500 2 { region := some j.region, carrel := some j.carrel, shelf := some (shelf % 128), die := some h } 1 j.stage fails.length
  fsr s2 1 (some j.region)
    [ (12, .one (.uint j.stage)), placeKey s2 shelf none none none, conditionsKey s2 shelf 0, (15, .one (.flt (tol.elem 0 ((fails.head?.map (·.2)).getD 0))))
    , (16, .arr [.uint fails.length, .uint 0]), (17, .one (.bstr (eventPrint j.stage a fails))), (18, .arr []), (23, .arr [.uint j.carrel, .uint n]) ]

/-- What MOD[0] of a CHECK sets off (R122): in a class-S job its pending check completes; elsewhere failing elements raise an event. A run has no pass,
and its event is recorded only (DESIGN CHOICE, log entry 22). -/
def checkEvent (s : State) (shelf : Nat) (j : Job) (a b tol : Tile) : State :=
  let fails := failingElems a b tol
  match checkOf s shelf j with
  | some c => completeCheck s c fails (tol.elem 0 ((fails.head?.map (·.2)).getD 0)) (tilePoisoned a b)
  | none =>
    if fails.isEmpty || j.kind = 5 then s
    else if j.kind = 0xE then annal s 0x0500 2 { carrel := some j.carrel, shelf := some (shelf % 128), die := some (hallOf shelf) } 0 0 fails.length
    else if tilePoisoned a b then poisonedEvent s shelf j.region j.carrel (((passOf s j.region).map (·.number)).getD 0) fails.length
    else programEvent s shelf j a tol fails

/-- CHECK (R122): the count of failing elements of tile SA against tile SB, with the tolerances of tile SB + 1, to X[DST]; with MOD[0] what it sets off. -/
def checkBody (i : Insn) (s : State) : Did :=
  let a := tileAt s i.shelf i.w.sa
  let b := tileAt s i.shelf i.w.sb
  let tol := tileAt s i.shelf (i.w.sb + 1)
  let s1 := setX s i.shelf i.w.dst (tileFails a b tol)
  .done (if i.w.mod = 1 then checkEvent s1 i.shelf i.prog.job a b tol else s1)
def execCheckTile (shelf : Nat) (s : State) : Out := runInsn .check checkBody shelf s

/-- NORMW (R123, R153): column 0 of tile SA goes to the class-N monitor under stage IMM; a poisoned row gives a NaN. In a run, which has no pass, it has
no effect (DESIGN CHOICE, log entry 19). -/
def normwBody (i : Insn) (s : State) : Did :=
  let a := tileAt s i.shelf i.w.sa
  let rows := (List.range 16).map fun r => if a.bad r then qnan 0 0 10 else a.elem r 0
  .done (if i.prog.job.kind ≤ 5 then modPass s i.prog.job.region fun p => { p with norms := p.norms ++ [(i.w.imm, rows)] } else s)
def execNormw (shelf : Nat) (s : State) : Out := runInsn .normw normwBody shelf s

/-! ### Sampling (R124 to R126) -/

/-- Candidates in the order of R124: value descending, then index ascending, no NaN. -/
def candidates (kk : Nat) (xs : List Sel) : List Sel :=
  (sortBy (xs.filter fun x => !isNaN x.val) fun a b => if fkey a.val = fkey b.val then decide (a.idx ≤ b.idx) else decide (fkey b.val < fkey a.val)).take kk

/-- SAMPLE with MOD 0: the first kk entries of tile SA, as (z, index) pairs of 8 bytes, padded with NaN and index all ones. That the tile stands for one
list of 1,024 values in row order, with tile-local indices 0 to 1,023, is the model's choice (log entry 32). -/
def selectLocal (i : Insn) (s : State) : Did :=
  let t := tileAt s i.shelf i.w.sa
  let kk := selectCount s i.prog.job
  let cs := candidates kk ((List.range 1024).map fun n => ⟨t.elem (n / 64) (n % 64), n⟩)
  let bytes := cs.flatMap (fun c => leBytes 4 c.val.toNat ++ leBytes 4 c.idx) ++
    (List.replicate (kk - cs.length) (leBytes 4 0x7FC00000 ++ leBytes 4 0xFFFFFFFF)).flatten
  .done (writeStore s i.shelf (i.xImm i.w.dst) bytes fun _ => t.poison != 0)
def execSampleSelect (shelf : Nat) (s : State) : Out := runInsn .sampleSelect selectLocal shelf s

/-- The running sums of R125, in rank order. -/
def cumulate : W32 → List W32 → List W32
  | _, [] => []
  | acc, e :: es => fadd acc e :: cumulate (fadd acc e) es

/-- The draw of R125 among candidates that stand in order. -/
def drawToken (topP : W32) (seed pos : Nat) (cand : List Sel) : Option Nat :=
  match cand with
  | [] => none
  | c :: _ =>
    let e := cand.map fun x => let d := fsub x.val c.val; if isNaN d then fone else vexp d
    let cum := cumulate posZero e
    let last := cum.getD (cum.length - 1) 0
    let n := if flt topP fone then ((cum.findIdx? fun x => fle (fmul topP last) x).map (· + 1)).getD cum.length else cum.length
    let h := leNat ((shake256 (leBytes 8 seed ++ leBytes 8 pos)).take 3)
    let t := fmul (roundF false h 1 (-24)) (cum.getD (n - 1) 0)
    match (cum.take n).findIdx? fun x => flt t x with
    | some r => (cand[r]?).map (·.idx)
    | none => (cand[n - 1]?).map (·.idx)

/-- The token of a session from its logits (R124 to R126): none if it has no candidate. -/
def sampleToken (x : Session) (pos : Nat) (logits : List W32) : Option Nat :=
  if fkey x.temp = 0 then
    let r := selectIdx true (logits.zipIdx.map fun l => ⟨l.1, l.2⟩)
    if r.idx = 0xFFFFFFFF then none else some r.idx
  else drawToken x.topP x.seed pos (candidates (if x.topK = 0 then 256 else x.topK) (logits.zipIdx.map fun l => ⟨fmul l.1 x.invT, l.2⟩))

/-- Draws of a region's pass (R125, R126): a session without candidates has none, and NAN_LOGITS records it. A poisoned logit is
settled at the pass boundary. -/
def drawFor (s : State) (region h : Nat) : State :=
  match passOf s region, findSession s h with
  | some p, some x =>
    match p.vecs.zipIdx.find? fun v => v.1.session == h && v.1.draws with
    | none => s
    | some (v, k) =>
      let tok := sampleToken x (v.pos + 1) ((stageOut s p (headStage p) k).map (·.val))
      let s1 := modPass s region fun p => { p with drawn := p.drawn ++ [(h, tok)] }
      if tok.isSome || (stageOut s p (headStage p) k).any (·.bad) then s1
      else annal s1 0x0401 2 { region := some region, carrel := some (handleCarrel h), session := some h } p.number 0 0
  | _, _ => s

/-- SAMPLE with MOD 1 (R125): the sampling job of a session draws for it, once the output head is complete, if the session is in the pass and
has not been drawn for. It runs on the home scribe of output group 0; elsewhere it draws nothing. -/
def drawBody (i : Insn) (s : State) : Did :=
  let j := i.prog.job
  match passOf s j.region with
  | none => .done s
  | some p =>
    if j.kind ≠ 4 || drawShelf s p ≠ some i.shelf then .done s
    else if !stageDone s p (headStage p) then .stall
    else if !(drawing p).elem j.session || p.late.elem j.session || p.drawn.any (fun d => d.1 == j.session) then .done s
    else .done (drawFor s j.region j.session)
def execSampleDraw (shelf : Nat) (s : State) : Out := runInsn .sampleDraw drawBody shelf s

/-! ### The minute record (R120) -/

/-- OUTLIER_MINUTE (R120): one record per region and stage with a count, then the counts start again. -/
def execOutlierMinute (s : State) : Out :=
  let keys := ((s.con.minute.map fun e => e.1 / 2).eraseDups)
  let s1 := keys.foldl (fun s k =>
    annal s 0x0400 0 { region := some (k / 65536) } (k % 65536) (sget (fun _ => 0) s.con.minute (2 * k)) (sget (fun _ => 0) s.con.minute (2 * k + 1))) s
  .next { s1 with con := { s1.con with minute := [] } }

end Sys2Proof.Machine
end

