-- ==== Sys2Proof/Machine/Boundary.lean ====
section
/-!
DEFINITION. Sys2Proof/Machine/Boundary.lean: pass boundaries (01 R16): the end of a pass, what vigilance takes from it, and the changes
that take effect between two passes of a region; and the dispatch of the next pass, which begins at a boundary.
-/
namespace Sys2Proof.Machine

/-! ### Class S: the sampled tile (R147, R149) -/

/-- The stage of a pass and the leaf place of a chain of a module shelf that the pass has struck. -/
def struckChains (s : State) (p : Pass) (shelf : Nat) : List (Nat × Nat) :=
  ((shelfChains s shelf).filterMap fun c => (p.recipes.find? fun x =>
    (stageRun p x.stage).isSome && (leafPlace s.img.bound p.region x.stage ((namedShelf s shelf).getD 0) c).isSome).map fun x => (c, x.stage))

/-- P_s of a shelf with n_c struck chains. -/
def samplePeriod (v : Vigil) (chains : Nat) : Nat := if v.perChain then max 1 (v.sPeriod / max 1 chains) else max 1 v.sPeriod

/-- A folio of a chain as it served the pass. -/
def servedFolio (s : State) (shelf c : Nat) (f : Nat × Nat) : SFolio :=
  let x := folioAt s f.2
  { key := f.2, base := 1024 * slotRun s shelf c f.1, k := pairShift s shelf f.1, ek := x.rangeExp + pairShift s shelf f.1, age := x.ageHours
    content := x.content, stuckMap := x.stuckMap }

/-- The vectors that a tile takes: up to 16 class-S vectors whose chain has left its shelf, in order. -/
def eligibleVecs (p : Pass) (st shelf c : Nat) : List (Nat × Leaf) :=
  ((p.vecs.zipIdx.filter fun v => !v.1.classN && liveVec p v.1).filterMap fun v => (leafAt p st shelf c v.2).map fun l => (v.2, l)).take 16

/-- A check's jobs are ready on its shelf (R150): one for each 128 rows of its chain, in order. -/
def readyCheck (s : State) (c : SCheck) (rows : Nat) : State :=
  (List.range (ceilDiv rows 128)).foldl (fun s k => readyJob s c.shelf
    ((imageJob s.img.bound 5 c.region c.stage c.carrel 0).map fun j => { j with seq := c.passNo, part := k })) s

/-- The class-S check of one shelf at the end of a pass; `n` is the count of class-S passes with this one. -/
def sampleShelf (s : State) (p : Pass) (shelf n : Nat) : State :=
  let v := s.img.bound.vigil
  let cs := struckChains s p shelf
  let period := samplePeriod v cs.length
  if cs.isEmpty || (n - 1) % period ≠ Config.schedulePhase (vigOf s p.region).drawn shelf % period then s
  else
    let (c, st) := cs.getD (Config.randomDraw s.free % cs.length) (0, 0)
    let g := Config.randomDraw (s.free + 1) % 8
    let s0 := { s with free := s.free + 2 }
    let es := eligibleVecs p st shelf c
    match stageRun p st, passRecipe p st with
    | some x, some rc =>
      let base := ((leafPlace s.img.bound p.region st ((namedShelf s shelf).getD 0) c).map (·.2)).getD 0
      let rows := s.img.bound.chainRows p.region ((namedShelf s shelf).getD 0) c
      let chk : SCheck :=
        { region := p.region, shelf := shelf, chain := c, colGroup := g, stage := st, carrel := p.carrel
          passNo := p.number, epoch := p.epoch, passed := 0, lag := v.sLag, z := v.sZ, temp := hallTemp s (hallOf shelf)
          window := p.window.getD (hallOf shelf) 0, width := rc.width
          folios := ((chainFolios s shelf c).filter fun f => (struckSlots s p st shelf c).elem f.1).map (servedFolio s shelf c)
          codes := es.map fun e => (List.range rows).map fun i => drive x shelf c e.1 (base + i)
          totals := es.map fun e => (e.2.totals.drop (64 * g)).take 64 }
      if es.isEmpty then s0
      else if !p.archive then discardCheck s0 chk
      else readyCheck (modVig s0 p.region fun v => { v with checks := v.checks ++ [chk] }) chk rows
    | _, _ => s0

/-- The class-S schedule after a pass (R147, R149, R214): without the archive copy a check is discarded and counted. -/
def sampleChecks (s : State) (p : Pass) : State :=
  if p.vecs.any fun v => !v.classN then
    let n := (vigOf s p.region).sCount + 1
    (regionShelves s p.region).foldl (fun s h => sampleShelf s p h n)
      (modVig s p.region fun v => { v with sCount := n, checks := v.checks.map fun c => { c with passed := c.passed + 1 } })
  else s

/-! ### Class N: the norm watch (R153 to R156) -/

/-- The stages that class N watches: the last of each layer. -/
def watchedStages (p : Pass) : List Nat :=
  (p.recipes.filter fun x => p.recipes.all fun y => y.layer != x.layer || decide (y.stage ≤ x.stage)).map (·.stage)

/-- The rows that NORMW has handed over for a stage come in pairs, ‖x‖² before ‖y‖², for the pass's vectors in order, 16 to a pair (log
entry 19). -/
def normPair (p : Pass) (st v : Nat) : Option (W32 × W32) :=
  let rows := (p.norms.filter fun n => n.1 == st).map (·.2)
  match rows[2 * (v / 16)]?, rows[2 * (v / 16) + 1]? with
  | some x, some y => some (x.getD (v % 16) 0, y.getD (v % 16) 0)
  | _, _ => none

/-- The mean of some values, added in order and divided. -/
def meanF (xs : List W32) : W32 := fdiv (xs.foldl fadd 0) (fofInt xs.length)

/-- g of a stage in a pass, none where no class-N vector gives a ratio. -/
def passNorm (p : Pass) (st : Nat) : Option W32 :=
  let gs := (p.vecs.zipIdx.filter fun v => v.1.classN && liveVec p v.1).filterMap fun v => (normPair p st v.2).bind fun q =>
    if nbits q.1.toNat 0 31 = 0 then none else some (normRatio q.2 q.1)
  if gs.isEmpty then none else some (meanF gs)

/-- Order of the median: NaNs last. -/
def normLe (a b : W32) : Bool := if isNaN a then isNaN b else isNaN b || decide (fkey a ≤ fkey b)

/-- The median; of an even count, the mean of the two in the middle (log entry 19). -/
def medianF (xs : List W32) : W32 :=
  let ys := sortBy xs normLe
  let n := ys.length
  if n % 2 = 1 then ys.getD (n / 2) 0 else meanF [ys.getD (n / 2 - 1) 0, ys.getD (n / 2) 0]

/-- S and B of a stage (R154): S over the short window as far as it is filled; B the value recorded at accession until N_SHORT + N_BASE class-N passes
have come since the bind or the commit. Where none is recorded B is 0, and there is no detection (DESIGN CHOICE, log entry 30: the manual does not say
what B is then). -/
def normValues (s : State) (r st : Nat) : W32 × W32 :=
  let v := s.img.bound.vigil
  let xs := (sget (fun _ => []) (vigOf s r).norms st).map (·.2)
  (meanF (xs.take v.nShort),
    if (vigOf s r).nCount < v.nShort + v.nBase then sget (fun _ => (0 : W32)) (vigOf s r).recorded st else medianF ((xs.drop v.nShort).take v.nBase))

/-- A class-N detection (bit 1) or fall (bit 2) of a stage (R155, R387, R388): it stands in the hall of the stage's first home
scribe; its window starts with the short window, and every scribe and sequencer of the stage is proved first. -/
def detectN (s : State) (p : Pass) (st bit : Nat) (ratio : W32) : State :=
  let r := p.region
  let h := hallOf (((homeLeaf s.img.bound r st 0).map fun l => housedAt s r l.2.1).getD 0)
  let s1 := noteDetection s h r st bit
  let s2 := annal s1 0x0500 2 { region := some r, die := some h } (bit + 1) st 0
  let s3 := fsr s2 (bit + 1) (some r) [(12, .one (.uint st)), (15, .one (.flt (BitVec.ofNat 32 s.img.bound.vigil.nTheta))), (16, .arr [.uint 0, .flt ratio])]
  let xs := sget (fun _ => []) (vigOf s r).norms st
  let start := (((xs.take s.img.bound.vigil.nShort).getLast?).map (·.1)).getD p.epoch
  let s4 := if s3.con.taints.any fun t => t.cls == 2 && t.stage == st && t.regions.elem r then s3 else
    openTaint s3 { regions := [r], start := start, detected := p.epoch, bounded := false, shelf := 0, chain := 0, group := 0, stage := st, cls := 2 }
  (stageShelves s4 r st).foldl (fun s k => proveFirst s (hallOf k) [2 * (k % 128), 2 * (k % 128) + 1]) (announce s4 2 r st start)

/-- The watch of one stage: its g joins the windows, and S is held against B. A detection that stands is raised again by each later pass that shows it; its
taint window stays the one that is open (log entry 30). -/
def watchStage (s : State) (p : Pass) (st : Nat) : State :=
  match passNorm p st with
  | none => s
  | some g =>
    let s1 := modVig s p.region fun v => { v with norms := smod (fun _ => []) v.norms st fun xs => ((p.epoch, g) :: xs).take (256 + 8192) }
    let (sm, b) := normValues s1 p.region st
    let th := fadd fone (BitVec.ofNat 32 s.img.bound.vigil.nTheta)
    if nbits b.toNat 0 31 = 0 then s1
    else if flt (fmul th b) sm then detectN s1 p st 1 (fdiv sm b)
    else if flt sm (fdiv b th) then detectN s1 p st 2 (fdiv sm b)
    else s1

/-- The norm watch after a class-N pass. -/
def watchNorms (s : State) (p : Pass) : State :=
  if p.vecs.any (·.classN) then (watchedStages p).foldl (fun s st => watchStage s p st) (modVig s p.region fun v => { v with nCount := v.nCount + 1 })
  else s

/-- The localisations whose chain the pass struck have one pass more (R387). -/
def passLocals (s : State) (p : Pass) : State :=
  { s with con := { s.con with locals := s.con.locals.map fun l =>
    if l.region == p.region && decide (l.passes < 8) && ((struckChains s p l.shelf).any fun c => c.1 == l.chain) then { l with passes := l.passes + 1 } else l } }

/-! ### The end of a pass (R16, R278, R319) -/

/-- Has every member of the region's mask, and the next stage of a transit chain, reported a pass done? A member that is lost reports
no more. -/
def membersDone (s : State) (p : Pass) (x : OrbPass) : Bool :=
  let o := s.img.bound.orbit
  let next := decide (o.stage + 1 < o.stages)
  orbState s != 3 ||
    (((maskList (orbitMask s p.region)).all fun m => m == self s || x.doneBy.elem m || !((admittedMask s).testBit m)) &&
      (!next || !linked s (downPorts s) || (x.doneBy.elem 16 && (x.resulted || decide (o.stage ≠ 0)))))

/-- Does a pass draw its tokens here: in a local region, or on the last stage's primary (R314)? -/
def passDraws (s : State) (p : Pass) : Bool := !orbitRegion s p.region || drawsHere s

/-- Did a sampling program of a session fault (R115): the token that was due is poisoned. -/
def sampleFailed (p : Pass) (h : Nat) : Bool := p.faults.any fun f => f.2.kind == 4 && f.2.session == h

/-- Has a pass run its course: every stage is computed for the vectors still in it, every collective complete, every token drawn, every
member done? -/
def passSettled (s : State) (p : Pass) : Bool :=
  let done := p.vecs.all (fun v => !liveVec p v) || (p.stage == some (headStage p) && stageDone s p (headStage p))
  let drawn := !passDraws s p || p.vecs.all fun v => !v.draws || !liveVec p v || (p.drawn.any fun d => d.1 == v.session) || (findSession s v.session).isNone ||
    sampleFailed p v.session
  let orbit := !orbitRegion s p.region ||
    ((s.orb.colls.all fun c => c.complete || c.region != p.region || c.tag / 4096 != p.passId % 2 ^ 20) &&
      (match orbPass s p.passId with | none => true | some x => membersDone s p x))
  let sampled := !passDraws s p || !(p.vecs.any fun v => v.draws && liveVec p v) || !sampleWaits s p
  done && drawn && sampled && orbit

/-- The status that a timeout gives a session of a pass: PEER_LOST where a source member is lost (R319). -/
def lostStatus (s : State) (p : Pass) (h : Nat) : Option Nat :=
  let vs := (p.vecs.zipIdx.filter fun v => v.1.session == h).map (·.2)
  let lost := ((s.orb.colls.filter fun c => c.region == p.region && c.tag / 4096 == p.passId % 2 ^ 20).flatMap (·.lost)).filter fun l => vs.elem l.1
  if lost.isEmpty then none else if lost.any fun l => s.orb.lost.elem l.2 then some stPeerLost else some stTimeout

/-- Is an output of the last stage poisoned for a session of the pass (R97, R126)? -/
def outPoisoned (s : State) (p : Pass) (h : Nat) : Bool :=
  p.vecs.zipIdx.any fun v => v.1.session == h && (stageOut s p (headStage p) v.2).any (·.bad)

/-- How a session of a pass ends: status and token. `i` is its place among the pass's sessions. -/
def passResult (s : State) (p : Pass) (i h : Nat) : Nat × Option Nat :=
  let x := orbPass s p.passId
  match (x.bind fun x => x.bad.find? fun b => orbitRegion s p.region && b.1 == i).map (·.2) with
  | some st => (st, none)
  | none =>
    if p.late.elem h then (stLate, none)
    else match (findSession s h).bind (·.dead) with
      | some d => (d, none)
      | none =>
        if p.poisoned.elem h then (stPoisoned, none)
        else match lostStatus s p h with
          | some st => (st, none)
          | none =>
            if outPoisoned s p h || (passDraws s p && sampleFailed p h) then (stPoisoned, none)
            else if !passDraws s p then
              match (x.bind fun x => x.results.find? fun e => rd e 0 4 == h) with
              | some e => (rd e 0xC 1, if rd e 4 4 = 0xFFFFFFFF then none else some (rd e 4 4))
              | none => (stOk, none)
            else match (p.drawn.find? fun d => d.1 == h).bind (·.2) with
              | some t => (stOk, some t)
              | none => (stVigil, none)

/-- A session after a pass: its length and the FILL of its pages advance by what it appended, unless it was dropped (R225, R126); it
has a last sampled token or none; one that consumed poison is dead; a binding that waited is in force (R219). -/
def settleSession (s : State) (p : Pass) (h : Nat) (res : Nat × Option Nat) : State :=
  match findSession s h with
  | none => s
  | some x =>
    let n := x.length + (if p.late.elem h then 0 else (p.vecs.filter fun v => v.session == h).length)
    let s1 := (x.pages.filter fun q => decide (pageFirst q.2.1 < n ∧ x.length < pageFirst q.2.1 + pageSpan q.2.1)).foldl (fun s q =>
      modPage s (x.hall.getD 0) q.2.2 fun e => { e with fill := max e.fill (min (pageSpan q.2.1) (n - pageFirst q.2.1)) }) s
    let s2 := modSession s1 h fun x =>
      { x with length := n, lastToken := if p.late.elem h || !passDraws s p && res.2.isNone && res.1 = stOk then x.lastToken else res.2
               binding := x.nextBinding.getD x.binding, nextBinding := none }
    if res.1 = stPoisoned || res.1 = stPeerLost || res.1 = stTimeout then killSession s2 h res.1 else s2

/-- The entries of a pass join its command (R278), with the flags that the pass has gathered. -/
def passEntries (s : State) (p : Pass) (rs : List (Nat × Nat × (Nat × Option Nat))) : State :=
  let s1 := modCmd s p.stream p.cmd fun k => { k with flags := k.flags ||| p.flags }
  rs.foldl (fun s r => match findCmd s p.stream p.cmd with
    | none => s
    | some k => if k.phase != .begun then s else
      addEntry s k { idx := entryIndex k r.1, session := r.1, token := r.2.2.2.getD 0xFFFFFFFF, position := r.2.1 % 2 ^ 32, status := r.2.2.1 }) s1

/-- A share of a pass of the orbit reports back (R313, R314): DONE to the primary or upstream, and from the last stage's primary the
RESULT. -/
def shareDone (s : State) (p : Pass) (rs : List (Nat × Nat × (Nat × Option Nat))) : State :=
  let bad := (rs.zipIdx.filter fun r => r.1.2.2.1 != stOk && r.1.2.2.1 != stVigil).map fun r => (r.2, r.1.2.2.1)
  let s1 := modOrb s p.passId p.region fun x => { x with bad := x.bad ++ bad.filter fun b => !x.bad.any fun y => y.1 == b.1 }
  match orbPass s1 p.passId with
  | none => s1
  | some x =>
    if p.stream ≠ orbitStream then s1
    else
      let es := rs.zipIdx.map fun r => entryBytes
        { idx := r.2, session := r.1.1, token := r.1.2.2.2.getD 0xFFFFFFFF, position := r.1.2.1 % 2 ^ 32, status := r.1.2.2.1 }
      sendDone (if drawsHere s then sendResults s1 p.passId es else s1) x

/-- THROTTLED (R340): a limit is active in a hall of the region as the pass ends. -/
def throttledNow (s : State) (r : Nat) : Nat := if (regionHalls s r).any fun h => fget s (Reg.PWR_HALL_STATUS.REASONS h) != 0 then 32 else 0

/-- The loans with a poisoned stage that a pass used are dropped at its end (R223): a later pass fetches them anew. -/
def dropLoans (s : State) (p : Pass) : State :=
  { s with loans := s.loans.map fun l => if l.stages.any (·.poison) && p.sessions.any fun h =>
      (match sessionLoan s h with | some x => x.carrel == l.carrel && x.adapter == l.adapter | none => false) then dropLoan l else l }

/-- A pass ends: phase instances are learnt (R333), vigilance takes its samples, sessions and commands have their results, and the
pass is in flight no more. -/
def endPass (s : State) (p0 : Pass) (obs : List (Nat × Nat × Nat × Nat × Nat)) : State :=
  let r := p0.region
  let p := { p0 with flags := p0.flags ||| throttledNow s r }
  let s1 := (obs.filter fun o => (regionHalls s r).elem o.1).foldl (fun s o => learnPhase s r o.2.1 o.1 o.2.2.1 o.2.2.2.1 o.2.2.2.2) s
  let s2 := passLocals (watchNorms (sampleChecks s1 p) p) p
  let rs := p.sessions.zipIdx.map fun h =>
    (h.1, ((findSession s2 h.1).elim 0 (·.length)) + (p.vecs.filter fun v => v.session == h.1).length, passResult s2 p h.2 h.1)
  let s3 := dropLoans s2 p
  let s4 := rs.foldl (fun s x => settleSession s p x.1 x.2.2) s3
  let s5 := passEntries s4 p rs
  let s6 := if orbitRegion s5 r then shareDone s5 p rs else s5
  let s7 := modCarrel s6 p.stream fun c => { c with oldEntry := none }
  let s8 := modAcc s7 r fun a => { a with oldArchive := a.oldArchive.map fun o => (o.1, o.2.1 - 1, o.2.2) }
  retryLoans { s8 with
    run := { s8.run with live := s8.run.live.eraseP fun q => q.region == r }
    orb := { s8.orb with colls := s8.orb.colls.filter fun c => c.tag / 4096 != p.passId % 2 ^ 20 || c.region != r }
    scr := { s8.scr with unit := smapAll (fun _ => freshScribe) s8.scr.unit fun _ u =>
      { u with ready := u.ready.filter fun j => j.region != r || decide (4 < j.kind) } } }

/-! ### What takes effect at a boundary -/

/-- RECIPE_SETs of a region come into force (R92). -/
def recipesNow (s : State) (r : Nat) : State :=
  { s with img := { s.img with recipes := putRecipes s.img.recipes (s.img.nextRecipes.filter fun x => x.region == r)
                               nextRecipes := s.img.nextRecipes.filter fun x => x.region != r } }

/-- An archive copy in which an error was found counts as not resident (R394). -/
def loseArchive (s : State) (r : Nat) : State :=
  modAcc s r fun a => if a.archiveBad then { a with archive := false, archiveBad := false } else a

/-- The chains whose copies flip at the boundary: a localisation of such a chain starts again (R387). -/
def flippingChains (s : State) (r : Nat) : List (Nat × Nat) :=
  ((copiesOf s r).filter fun k => (folioAt s k).ready).filterMap fun k => (folioChain s k).map fun c => (k / 68, c)

/-- Does an accession of the region flip at this boundary? -/
def flipsNow (s : State) (r : Nat) : Bool := (accOf s r).phase == .flipPending

/-- Flips (R16, R66, R204, R380): an accession's, a rehousing's, or those of single folios. -/
def flipAll (s : State) (r : Nat) : State :=
  let a := accOf s r
  let chains := if flipsNow s r then (regionShelves s r).flatMap fun h => (shelfChains s h).map fun c => (h, c) else flippingChains s r
  let s1 := if flipsNow s r then flipAccession s r
    else if a.phase == .idle && !a.targets.isEmpty && allReady s a then flipRehousing s r else s
  chains.foldl (fun s c => restartLocals s c.1 c.2) (flipCopies s1 r)

/-- The integration windows and the shortest periods of a region's halls follow PERIOD_FLOOR and fixed-frequency mode (R52, R164, R338). -/
def windowsNow (s : State) (r : Nat) : State :=
  let old := (accOf s r).window
  let new := (List.range 4).map (windowNow s)
  let s1 := if old.isEmpty then s else (regionHalls s r).foldl (fun s h =>
    if old.getD h 0 = new.getD h 0 then s else rescaleRegion s r h (old.getD h 0) (new.getD h 0)) s
  modAcc s1 r fun a => { a with window := new, floor := (List.range 4).map (floorNow s) }

/-- The changes of a region whose boundary has come (R16): an offline region's coupled updates wait (R163). -/
def boundaryChanges (s : State) (r : Nat) : State :=
  let s1 := flipAll (loseArchive (recipesNow s r) r) r
  let s2 := if offline s1 r then s1 else applyCoupled s1 r
  tilesAtBoundary (windowsNow s2 r) r

/-- What containment, the halls and the orbit do at a boundary: shelters for regions on failed units, ends of windows, forced proofs
(not where an accession has flipped, R381), halls that resume (R402), a departure that waited, the next share. -/
def boundaryEvents (s : State) (r : Nat) (flipped : Bool) : State :=
  let s1 := windowQuiet (settleTaints (shelterRegion s r))
  let s2 := if flipped then s1 else (regionHalls s1 r).foldl insertForced s1
  let s3 := [0, 1, 2, 3].foldl resumeHall s2
  let s4 := if s3.orb.leaving && !(s3.run.live.any fun p => orbitRegion s3 p.region) then isolate s3 else s3
  if orbitRegion s4 r then nextShare s4 r else s4

/-! ### The commit of an accession (R190, R204) -/

/-- The totals of a chain's incoming folios for vector v of a batch, 8 bits wide (R76, R190): column by column. -/
def batchTotals (s : State) (fs : List (Nat × Nat)) (b : Bytes) (v draw : Nat) : List Int :=
  (List.range 8).foldl (fun acc p => fs.foldl (fun acc f =>
    let rows := (List.range 1024).filter fun i => planeBit (batchAt b v i) p
    let window := regionWindow s (folioAt s f.1).region (f.1 / 68 / 128)
    List.zipWith (fun a (c : Conv) => a + c.code * (2 ^ f.2 : Nat) * planeWeight 8 p) acc (strikeCodes { s with free := draw + p } f.1 window rows)) acc)
    (List.replicate 512 0)

/-- ‖y‖ ÷ ‖x‖ of one vector of a stage's batch, as the incoming folios of region `r` give y: x the vector's values repeated over the K-parts with scale 1,
y_j = fl(Λ_j × fl(s_w,j × g_j)) added leaf by leaf (DESIGN CHOICE, log entry 30: the manual gives the batch and the K-parts). -/
def batchRatio (s : State) (r st : Nat) (b : Bytes) (v draw : Nat) : Option W32 :=
  let img := s.img.bound
  let k := ((img.recipe? r st).map img.widthIn).getD 0
  let xs := (List.range k).map fun i => batchAt b v (i % 1024)
  let leaf := fun (l : Nat × Nat × Nat) =>
    let fs := ((accOf s r).targets.filter fun t => t.named == l.2.1 && ((img.chainEntry? l.2.1).elim [] fun e => e.slots l.2.2).elem t.slot).map fun t =>
      (folioKey t.shelf t.pos, (folioAt s (folioKey t.shelf t.pos)).rangeExp + (if (folioAt s (folioKey t.shelf t.pos)).pairRole == 1 then 4 else 0))
    let sw := fun j => match fs with | [] => fone | f :: _ => blkSw (blockOf (folioAt s f.1).content) j
    (batchTotals s fs b v draw).zipIdx.map fun t =>
      fmul (fofInt t.1) (fmul (sw t.2) (clampGain (gainRaw s (fs.map fun f => (f.1, 2 ^ f.2)) t.2)))
  let ys := (List.range (img.groupCount r st)).flatMap fun q => match (img.groupLeaves r st q).map leaf with
    | [] => []
    | y :: rest => rest.foldl (List.zipWith fadd) y
  let square := fun (ws : List W32) => accumulate 0 (ws.map fun w => mulFV (decF w) (decF w))
  if xs.all (· == 0) then none else some (normRatio (square ys) (square (xs.map fofInt)))

/-- The class-N baseline of a stage (R154, R190): the mean over the vectors of its batch. -/
def batchNorm (s : State) (r : Nat) (m : Manifest) (st : Nat) : Option (Nat × W32) :=
  (bodyBatch (accOf s r) m st).map fun b => (st, meanF ((List.range 256).filterMap fun v => batchRatio s r st b v (s.free + 8 * v)))

/-- The stages whose norms class N watches in a region: the last of each layer. -/
def watchedOf (img : Image) (r : Nat) : List Nat :=
  let xs := img.recipes.filter fun x => x.region == r
  (xs.filter fun x => xs.all fun y => y.layer != x.layer || decide (y.stage ≤ x.stage)).map (·.stage)

/-- COMMIT_RECORDS_DURABLE (R204): once every shard has verified and every new folio is READY with its moments recorded, the records, the manifest and the
colophon are durable, and the flip waits for the pass boundary, which a region without a pass in flight reaches at once. A failed NAND write, of steps 2 to
4 or of step 5, leaves no colophon; the accession can be committed or cancelled again (log entry 44). -/
def execCommitRecordsDurable (region : Nat) (nandOk colophonOk : Bool) (s : State) : Out :=
  .next (
    let a := accOf s region
    match s.img.bound.region? region, a.manifest, a.commitSeq with
    | some g, some m, some q =>
      if a.phase != .committing || !allShards a || !allReady s a then s
      else if !nandOk || !colophonOk then modAcc (accDone s q region 0x0D a.manifest) region fun a => { a with phase := .receiving, commitSeq := none }
      else
        let s1 := ((incoming a).filter fun k => (sget (fun _ => ([] : Sparse Int)) s.col.moments k).isEmpty).foldl recordMoments s
        let norms := (watchedOf s1.img.bound region).filterMap (batchNorm s1 region m)
        let s2 := modAcc { s1 with free := s1.free + 2048 } region fun a => { a with
          phase := .flipPending, timer := none, intent := false, newPackage := some (packageOf s g a m), newNorms := norms }
        if (passOf s2 region).isSome then s2 else boundaryEvents (boundaryChanges s2 region) region true
    | _, _, _ => s)

/-- PASS_BOUNDARY (R16): the pass in flight of a region ends, once it has run its course, and pending changes take effect; in a region
without a pass they take effect at once. `obs` are the observed phase instances: hall, tag, activity, busy fraction, duration. -/
def execPassBoundary (region : Nat) (obs : List (Nat × Nat × Nat × Nat × Nat)) (s : State) : Out :=
  .next (
    if unpowered s then s
    else match passOf s region with
      | none => boundaryEvents (boundaryChanges s region) region (flipsNow s region)
      | some p => if passSettled s p then boundaryEvents (boundaryChanges (endPass s p obs) region) region (flipsNow s region) else s)

/-! ### Dispatch (R254, R255) -/

/-- PASS_DISPATCH (R16, R254, R255): the intake dispatches the next pass of a begun TOKENS or STEP, when the region has no pass in
flight, nothing holds the command, and every session is resident. Comets return first (R263); victims leave first (R261). Changes that wait for the region's
boundary take effect before the pass reads its inputs. -/
def execPassDispatch (stream seq : Nat) (s : State) : Out :=
  .next (match (findCmd s stream seq).filter fun k => k.phase == .begun && (k.op == 0x03 || k.op == 0x04) && decide (0 < k.passesLeft) with
    | none => s
    | some k =>
      let r := cmdRegion s k
      if (passOf s r).isSome || heldCmd s k || victimsOut s stream seq || s.orb.waitingTakeover && orbitRegion s r then s
      else
        let s1 := refuseUnfit (boundaryChanges s r) stream seq (passHandles k)
        match (findCmd s1 stream seq).filter fun k => k.phase == .begun with
        | none => s1
        | some k1 =>
          let hs := passHandles k1
          if anyMoving s1 hs then hs.foldl (fun s h => startReturn s h) s1
          else
            let (s2, waits) := growAll s1 stream seq hs
            match (findCmd s2 stream seq).filter fun k => k.phase == .begun && !waits with
            | none => s2
            | some k2 =>
              let left := passHandles k2
              if left.isEmpty then s2 else launch (leaveIdle s2) k2 r left)

end Sys2Proof.Machine
end

