-- ==== Sys2Proof/Machine/Dispatch.lean ====
section
/-!
DEFINITION. Sys2Proof/Machine/Dispatch.lean: the meaning of each command, one arm per constructor of Instr.
-/
namespace Sys2Proof.Machine

/-- The effect of command i on everything but the queue. -/
def exec (i : Instr) (s : State) : Host.Outcome State Fault Refusal :=
  match i with
  | .registerWrite standby fn off width value => Sys2Proof.Machine.execRegisterWrite standby fn off width value s
  | .store tag f nandOk => Sys2Proof.Machine.execStore tag f nandOk s
  | .bind tag => Sys2Proof.Machine.execBind tag s
  | .bindQuiesceDone verifyOk nandOk => Sys2Proof.Machine.execBindQuiesceDone verifyOk nandOk s
  | .quiesceTimeout => Sys2Proof.Machine.execQuiesceTimeout s
  | .discard tag => Sys2Proof.Machine.execDiscard tag s
  | .revert tag => Sys2Proof.Machine.execRevert tag s
  | .raiseFloor tag nandOk => Sys2Proof.Machine.execRaiseFloor tag nandOk s
  | .enrolAnchor tag f nandOk => Sys2Proof.Machine.execEnrolAnchor tag f nandOk s
  | .powerOnBoot ms badShelves selfTest => Sys2Proof.Machine.execPowerOnBoot ms badShelves selfTest s
  | .trialConfirmTimeout => Sys2Proof.Machine.execTrialConfirmTimeout s
  | .bootCollationComplete region hours temps => Sys2Proof.Machine.execBootCollationComplete region hours temps s
  | .packetBlockWrite stream viaStandby off bytes => Sys2Proof.Machine.execPacketBlockWrite stream viaStandby off bytes s
  | .stallTimeout stream => Sys2Proof.Machine.execStallTimeout stream s
  | .resync stream viaStandby value => Sys2Proof.Machine.execResync stream viaStandby value s
  | .ringEnable stream viaStandby value => Sys2Proof.Machine.execRingEnable stream viaStandby value s
  | .commandBegin => Sys2Proof.Machine.execCommandBegin s
  | .commandSeal stream seq => Sys2Proof.Machine.execCommandSeal stream seq s
  | .irqModerationTimeout stream => Sys2Proof.Machine.execIrqModerationTimeout stream s
  | .sessionOpen stream seq => Sys2Proof.Machine.execSessionOpen stream seq s
  | .sessionClose stream seq => Sys2Proof.Machine.execSessionClose stream seq s
  | .tokensCmd stream seq f => Sys2Proof.Machine.execTokensCmd stream seq f s
  | .stepCmd stream seq => Sys2Proof.Machine.execStepCmd stream seq s
  | .adapterBind stream seq f => Sys2Proof.Machine.execAdapterBind stream seq f s
  | .hintCmd stream seq => Sys2Proof.Machine.execHintCmd stream seq s
  | .pageFork stream seq => Sys2Proof.Machine.execPageFork stream seq s
  | .pageRelease stream seq => Sys2Proof.Machine.execPageRelease stream seq s
  | .swapOut stream seq => Sys2Proof.Machine.execSwapOut stream seq s
  | .swapIn stream seq => Sys2Proof.Machine.execSwapIn stream seq s
  | .recipeSet stream seq => Sys2Proof.Machine.execRecipeSet stream seq s
  | .priorityChange stream seq => Sys2Proof.Machine.execPriorityChange stream seq s
  | .abortCmd stream seq => Sys2Proof.Machine.execAbortCmd stream seq s
  | .fenceCmd stream seq => Sys2Proof.Machine.execFenceCmd stream seq s
  | .tileRead stream seq => Sys2Proof.Machine.execTileRead stream seq s
  | .tileWrite stream seq f => Sys2Proof.Machine.execTileWrite stream seq f s
  | .scribeRun stream seq f => Sys2Proof.Machine.execScribeRun stream seq f s
  | .scribeRunTimeout stream seq => Sys2Proof.Machine.execScribeRunTimeout stream seq s
  | .accBegin seq f => Sys2Proof.Machine.execAccBegin seq f s
  | .accShard seq => Sys2Proof.Machine.execAccShard seq s
  | .shardFetchComplete region index f => Sys2Proof.Machine.execShardFetchComplete region index f s
  | .shardTimeout region => Sys2Proof.Machine.execShardTimeout region s
  | .accCommit seq => Sys2Proof.Machine.execAccCommit seq s
  | .accCancel seq => Sys2Proof.Machine.execAccCancel seq s
  | .folioProgramStart hall => Sys2Proof.Machine.execFolioProgramStart hall s
  | .folioProgramDone shelf pos cells => Sys2Proof.Machine.execFolioProgramDone shelf pos cells s
  | .commitRecordsDurable region nandOk colophonOk => Sys2Proof.Machine.execCommitRecordsDurable region nandOk colophonOk s
  | .archiveCopyFree region => Sys2Proof.Machine.execArchiveCopyFree region s
  | .wearLevel shelf pos => Sys2Proof.Machine.execWearLevel shelf pos s
  | .passDispatch stream seq => Sys2Proof.Machine.execPassDispatch stream seq s
  | .swapOutFlushReadDone session f => Sys2Proof.Machine.execSwapOutFlushReadDone session f s
  | .swapOutColophonReadDone session f => Sys2Proof.Machine.execSwapOutColophonReadDone session f s
  | .cometReturnReadDone session f => Sys2Proof.Machine.execCometReturnReadDone session f s
  | .layerBegin region bad => Sys2Proof.Machine.execLayerBegin region bad s
  | .adapterFetchComplete carrel adapter stage f => Sys2Proof.Machine.execAdapterFetchComplete carrel adapter stage f s
  | .holdBudgetExhausted region => Sys2Proof.Machine.execHoldBudgetExhausted region s
  | .strike shelf pos => Sys2Proof.Machine.execStrike shelf pos s
  | .shelfExit shelf c x => Sys2Proof.Machine.execShelfExit shelf c x s
  | .reductionAdd region stage group vec hall level idx => Sys2Proof.Machine.execReductionAdd region stage group vec hall level idx s
  | .wideMerge region stage group vec => Sys2Proof.Machine.execWideMerge region stage group vec s
  | .scribeJobStart shelf => Sys2Proof.Machine.execScribeJobStart shelf s
  | .nop shelf => Sys2Proof.Machine.execNop shelf s
  | .halt shelf => Sys2Proof.Machine.execHalt shelf s
  | .ldx shelf => Sys2Proof.Machine.execLdx shelf s
  | .addx shelf => Sys2Proof.Machine.execAddx shelf s
  | .loopX shelf => Sys2Proof.Machine.execLoopX shelf s
  | .mma shelf => Sys2Proof.Machine.execMma shelf s
  | .vadd shelf => Sys2Proof.Machine.execVadd shelf s
  | .vsub shelf => Sys2Proof.Machine.execVsub shelf s
  | .vmul shelf => Sys2Proof.Machine.execVmul shelf s
  | .vexp shelf => Sys2Proof.Machine.execVexp shelf s
  | .vrcp shelf => Sys2Proof.Machine.execVrcp shelf s
  | .vrsq shelf => Sys2Proof.Machine.execVrsq shelf s
  | .vmax shelf => Sys2Proof.Machine.execVmax shelf s
  | .vmaxi shelf => Sys2Proof.Machine.execVmaxi shelf s
  | .vmini shelf => Sys2Proof.Machine.execVmini shelf s
  | .vsum shelf => Sys2Proof.Machine.execVsum shelf s
  | .ldt shelf => Sys2Proof.Machine.execLdt shelf s
  | .stt shelf => Sys2Proof.Machine.execStt shelf s
  | .gather shelf => Sys2Proof.Machine.execGather shelf s
  | .scatter shelf => Sys2Proof.Machine.execScatter shelf s
  | .gatherComplete m => Sys2Proof.Machine.execGatherComplete m s
  | .checkTile shelf => Sys2Proof.Machine.execCheckTile shelf s
  | .normw shelf => Sys2Proof.Machine.execNormw shelf s
  | .sampleSelect shelf => Sys2Proof.Machine.execSampleSelect shelf s
  | .sampleDraw shelf => Sys2Proof.Machine.execSampleDraw shelf s
  | .attentionMerge region stage session tile kv => Sys2Proof.Machine.execAttentionMerge region stage session tile kv s
  | .passBoundary region obs => Sys2Proof.Machine.execPassBoundary region obs s
  | .classSCheckDiscard region shelf => Sys2Proof.Machine.execClassSCheckDiscard region shelf s
  | .vigilanceClear hall bits => Sys2Proof.Machine.execVigilanceClear hall bits s
  | .tapUpdate shelf pos gains offsets => Sys2Proof.Machine.execTapUpdate shelf pos gains offsets s
  | .bankSwitch shelf pos => Sys2Proof.Machine.execBankSwitch shelf pos s
  | .passiveWindowEnd shelf pos power => Sys2Proof.Machine.execPassiveWindowEnd shelf pos power s
  | .activeSweep shelf pos => Sys2Proof.Machine.execActiveSweep shelf pos s
  | .sweepFit shelf pos trims targets alpha => Sys2Proof.Machine.execSweepFit shelf pos trims targets alpha s
  | .tempSample hall temp => Sys2Proof.Machine.execTempSample hall temp s
  | .tapCheckpointTimer nandOk => Sys2Proof.Machine.execTapCheckpointTimer nandOk s
  | .deepCollation shelf pos => Sys2Proof.Machine.execDeepCollation shelf pos s
  | .driftHourlyUpdate temps => Sys2Proof.Machine.execDriftHourlyUpdate temps s
  | .driftRefresh shelf pos => Sys2Proof.Machine.execDriftRefresh shelf pos s
  | .reqSweep hall tag => Sys2Proof.Machine.execReqSweep hall tag s
  | .reqDeep hall tag => Sys2Proof.Machine.execReqDeep hall tag s
  | .reqRefresh hall tag => Sys2Proof.Machine.execReqRefresh hall tag s
  | .reqCheckpoint hall tag nandOk => Sys2Proof.Machine.execReqCheckpoint hall tag nandOk s
  | .patrolScrub hall addr => Sys2Proof.Machine.execPatrolScrub hall addr s
  | .outlierMinute => Sys2Proof.Machine.execOutlierMinute s
  | .portTrain port lanes => Sys2Proof.Machine.execPortTrain port lanes s
  | .train port body => Sys2Proof.Machine.execTrain port body s
  | .keepalive port ack crVc credits => Sys2Proof.Machine.execKeepalive port ack crVc credits s
  | .keepaliveSendTimer port => Sys2Proof.Machine.execKeepaliveSendTimer port s
  | .keepaliveLoss port => Sys2Proof.Machine.execKeepaliveLoss port s
  | .laneLockLoss port => Sys2Proof.Machine.execLaneLockLoss port s
  | .laneFail port lane => Sys2Proof.Machine.execLaneFail port lane s
  | .retrain port => Sys2Proof.Machine.execRetrain port s
  | .sequencedFlitReceive port flit corrected uncorrectable => Sys2Proof.Machine.execSequencedFlitReceive port flit corrected uncorrectable s
  | .nack port ack crVc credits => Sys2Proof.Machine.execNack port ack crVc credits s
  | .replayTimeout port => Sys2Proof.Machine.execReplayTimeout port s
  | .tsxWrite port => Sys2Proof.Machine.execTsxWrite port s
  | .frag port => Sys2Proof.Machine.execFrag port s
  | .readReq port => Sys2Proof.Machine.execReadReq port s
  | .readRsp port => Sys2Proof.Machine.execReadRsp port s
  | .joinMsg port => Sys2Proof.Machine.execJoinMsg port s
  | .admitMsg port => Sys2Proof.Machine.execAdmitMsg port s
  | .refuseMsg port => Sys2Proof.Machine.execRefuseMsg port s
  | .dispatchMsg port tokens => Sys2Proof.Machine.execDispatchMsg port tokens s
  | .doneMsg port => Sys2Proof.Machine.execDoneMsg port s
  | .resultMsg port => Sys2Proof.Machine.execResultMsg port s
  | .removeMsg port => Sys2Proof.Machine.execRemoveMsg port s
  | .takeoverMsg port => Sys2Proof.Machine.execTakeoverMsg port s
  | .paceMsg port => Sys2Proof.Machine.execPaceMsg port s
  | .reportMsg port => Sys2Proof.Machine.execReportMsg port s
  | .limitMsg port => Sys2Proof.Machine.execLimitMsg port s
  | .releaseMsg port => Sys2Proof.Machine.execReleaseMsg port s
  | .limitHoldExpiry => Sys2Proof.Machine.execLimitHoldExpiry s
  | .powerReportTimer => Sys2Proof.Machine.execPowerReportTimer s
  | .faultMsg port => Sys2Proof.Machine.execFaultMsg port s
  | .snapReq port => Sys2Proof.Machine.execSnapReq port s
  | .snapRsp port => Sys2Proof.Machine.execSnapRsp port s
  | .snapPeriodTimer port => Sys2Proof.Machine.execSnapPeriodTimer port s
  | .collectiveTimeout tag => Sys2Proof.Machine.execCollectiveTimeout tag s
  | .heirConfirmTimeout => Sys2Proof.Machine.execHeirConfirmTimeout s
  | .takeoverWaitTimeout => Sys2Proof.Machine.execTakeoverWaitTimeout s
  | .leave => Sys2Proof.Machine.execLeave s
  | .brokerCycle m => Sys2Proof.Machine.execBrokerCycle m s
  | .excursionCut => Sys2Proof.Machine.execExcursionCut s
  | .capWrite standby width value => Sys2Proof.Machine.execCapWrite standby width value s
  | .voltageSlewDone hall => Sys2Proof.Machine.execVoltageSlewDone hall s
  | .pllRelockDone hall => Sys2Proof.Machine.execPllRelockDone hall s
  | .thermalStep hall temp => Sys2Proof.Machine.execThermalStep hall temp s
  | .droopDetect hall => Sys2Proof.Machine.execDroopDetect hall s
  | .droopClear hall => Sys2Proof.Machine.execDroopClear hall s
  | .hintWindowOpen carrel region tag => Sys2Proof.Machine.execHintWindowOpen carrel region tag s
  | .hintWindowEnd carrel region tag => Sys2Proof.Machine.execHintWindowEnd carrel region tag s
  | .idleEntry => Sys2Proof.Machine.execIdleEntry s
  | .autoSleep nandOk woken => Sys2Proof.Machine.execAutoSleep nandOk woken s
  | .sleep nandOk woken => Sys2Proof.Machine.execSleep nandOk woken s
  | .deepSleep nandOk woken => Sys2Proof.Machine.execDeepSleep nandOk woken s
  | .powerOff nandOk woken => Sys2Proof.Machine.execPowerOff nandOk woken s
  | .wakeEvent src standby fn off width => Sys2Proof.Machine.execWakeEvent src standby fn off width s
  | .wakeDomainReady domain => Sys2Proof.Machine.execWakeDomainReady domain s
  | .readHoldExpiry => Sys2Proof.Machine.execReadHoldExpiry s
  | .sidebandAddressMatch addr => Sys2Proof.Machine.execSidebandAddressMatch addr s
  | .wakeNAssert => Sys2Proof.Machine.execWakeNAssert s
  | .v44Undervoltage => Sys2Proof.Machine.execV44Undervoltage s
  | .v44Overvoltage => Sys2Proof.Machine.execV44Overvoltage s
  | .standbyReset => Sys2Proof.Machine.execStandbyReset s
  | .standbyLoss => Sys2Proof.Machine.execStandbyLoss s
  | .watchdogExpiry => Sys2Proof.Machine.execWatchdogExpiry s
  | .mailboxBlockWrite standby off bytes => Sys2Proof.Machine.execMailboxBlockWrite standby off bytes s
  | .identity => Sys2Proof.Machine.execIdentity s
  | .attest nandOk => Sys2Proof.Machine.execAttest nandOk s
  | .annalsExport => Sys2Proof.Machine.execAnnalsExport s
  | .annalsNote => Sys2Proof.Machine.execAnnalsNote s
  | .fwStage f nandOk => Sys2Proof.Machine.execFwStage f nandOk s
  | .fwActivate nandOk => Sys2Proof.Machine.execFwActivate nandOk s
  | .fwRevert nandOk => Sys2Proof.Machine.execFwRevert nandOk s
  | .fwRaiseFloor nandOk => Sys2Proof.Machine.execFwRaiseFloor nandOk s
  | .attestTokenRefill => Sys2Proof.Machine.execAttestTokenRefill s
  | .monitorTrigger die slot stopped => Sys2Proof.Machine.execMonitorTrigger die slot stopped s
  | .monitorResult die slot x => Sys2Proof.Machine.execMonitorResult die slot x s
  | .annalsFlush nandOk => Sys2Proof.Machine.execAnnalsFlush nandOk s
  | .flush width value nandOk => Sys2Proof.Machine.execFlush width value nandOk s
  | .annalsRateSecond => Sys2Proof.Machine.execAnnalsRateSecond s
  | .alertClear width value => Sys2Proof.Machine.execAlertClear width value s
  | .hourCount => Sys2Proof.Machine.execHourCount s
  | .proofJob hall observed => Sys2Proof.Machine.execProofJob hall observed s
  | .proofForce hall unit => Sys2Proof.Machine.execProofForce hall unit s
  | .marginWalk shelf pos failed => Sys2Proof.Machine.execMarginWalk shelf pos failed s
  | .openWindow tag mask limit => Sys2Proof.Machine.execOpenWindow tag mask limit s
  | .openModule tag limit hbmBad lanesBad => Sys2Proof.Machine.execOpenModule tag limit hbmBad lanesBad s
  | .closeWindow tag => Sys2Proof.Machine.execCloseWindow tag s
  | .maintLimitExpiry => Sys2Proof.Machine.execMaintLimitExpiry s
  | .localisationEnd region => Sys2Proof.Machine.execLocalisationEnd region s
  | .fsrDeliver => Sys2Proof.Machine.execFsrDeliver s
  | .fsrRingEnable value => Sys2Proof.Machine.execFsrRingEnable value s
  | .pllLockLoss hall pll => Sys2Proof.Machine.execPllLockLoss hall pll s
  | .hallRelockDone hall => Sys2Proof.Machine.execHallRelockDone hall s
  | .deviceReset standby width value => Sys2Proof.Machine.execDeviceReset standby width value s
  | .sidebandReset data => Sys2Proof.Machine.execSidebandReset data s
  | .thermalTrip => Sys2Proof.Machine.execThermalTrip s
  | .tripHoldRelease ms badShelves selfTest => Sys2Proof.Machine.execTripHoldRelease ms badShelves selfTest s
  | .portLinkLoss portB => Sys2Proof.Machine.execPortLinkLoss portB s
  | .portLinkUp portB => Sys2Proof.Machine.execPortLinkUp portB s
  | .standbyTakeover => Sys2Proof.Machine.execStandbyTakeover s
  | .functionLevelResetVf carrel => Sys2Proof.Machine.execFunctionLevelResetVf carrel s
  | .functionLevelResetPf0 => Sys2Proof.Machine.execFunctionLevelResetPf0 s
  | .functionLevelResetPf1 => Sys2Proof.Machine.execFunctionLevelResetPf1 s
  | .functionLevelResetPf2 => Sys2Proof.Machine.execFunctionLevelResetPf2 s
  | .idleFlit port ack crVc credits => Sys2Proof.Machine.execIdleFlit port ack crVc credits s
  | .orbitRejoin => Sys2Proof.Machine.execOrbitRejoin s
  | .busMasteringChange fn on => Sys2Proof.Machine.execBusMasteringChange fn on s
  | .completionTimeout session => Sys2Proof.Machine.execCompletionTimeout session s

end Sys2Proof.Machine
end

