-- ==== Sys2Proof/WellFormed.lean ====
section
/-!
DEFINITION. Sys2Proof/WellFormed.lean: which commands name things that the module has (Tables 1-1, 3-2, 12-1, 13-1): a hall, a shelf, a
folio position, a port, a stream, an access width. A command outside these ranges names nothing; its meaning then acts on no
hardware, and no statement of this package is about it.
-/
namespace Sys2Proof

/-- Halls 0 to 3 (R1). -/
def hallOk (h : Nat) : Bool := decide (h < 4)
/-- Module shelves 0 to 511: 128 in each hall. -/
def shelfOk (s : Nat) : Bool := decide (s < 512)
/-- Folio positions 0 to 67 of a shelf (R66). -/
def posOk (p : Nat) : Bool := decide (p < 68)
/-- Tsuyx ports 0 to 23 (R289). -/
def portOk (p : Nat) : Bool := decide (p < 24)
/-- Model regions 0 to 15 (Table 2-3). -/
def regionOk (r : Nat) : Bool := decide (r < 16)
/-- A stream: carrels 0 to 1,023, or 1,024 for PF1 (R268). -/
def streamOk (c : Nat) : Bool := decide (c ≤ 1024)
/-- A 32-bit field: tags, sequence numbers, session handles. -/
def word32 (n : Nat) : Bool := decide (n < 2 ^ 32)
/-- A 64-bit field. -/
def word64 (n : Nat) : Bool := decide (n < 2 ^ 64)
/-- A register access is 4 or 8 bytes wide (R9). -/
def widthOk (w : Nat) : Bool := w == 4 || w == 8
/-- A value of an access of some width. -/
def valueOk (w v : Nat) : Bool := widthOk w && decide (v < 2 ^ (8 * w))
/-- A function that the module has. -/
def Fn.wf : Fn → Bool
  | .vf n => decide (n < 1024)
  | _ => true
/-- A monitor slot: 0 to 15, or 16, the I_IN channel, on die 4 (R361). -/
def slotOk (die slot : Nat) : Bool := decide (die ≤ 4) && (decide (slot < 16) || (slot == 16 && die == 4))

/-- Does a command name things that the module has? -/
def Instr.wf : Instr → Bool
  | .registerWrite _ fn off width value => fn.wf && decide (off % 4 = 0) && valueOk width value
  | .store tag _ _ | .bind tag | .discard tag | .revert tag | .raiseFloor tag _ | .enrolAnchor tag _ _ => decide (tag < 2 ^ 16)
  | .bindQuiesceDone _ _ | .quiesceTimeout | .trialConfirmTimeout | .commandBegin => true
  | .powerOnBoot _ bad _ | .tripHoldRelease _ bad _ => bad.all shelfOk
  | .bootCollationComplete region _ _ => regionOk region
  | .packetBlockWrite stream _ off bytes => streamOk stream && decide (off + bytes.length ≤ 2 ^ 20)
  | .stallTimeout stream | .irqModerationTimeout stream => streamOk stream
  | .resync stream _ value | .ringEnable stream _ value => streamOk stream && word64 value
  | .commandSeal stream seq | .sessionOpen stream seq | .sessionClose stream seq | .tokensCmd stream seq _ | .stepCmd stream seq
  | .adapterBind stream seq _ | .hintCmd stream seq | .pageFork stream seq | .pageRelease stream seq | .swapOut stream seq
  | .swapIn stream seq | .recipeSet stream seq | .priorityChange stream seq | .abortCmd stream seq | .fenceCmd stream seq
  | .tileRead stream seq | .tileWrite stream seq _ | .scribeRun stream seq _ | .scribeRunTimeout stream seq
  | .passDispatch stream seq => streamOk stream && word32 seq
  | .accBegin seq _ | .accShard seq | .accCommit seq | .accCancel seq => word32 seq
  | .shardFetchComplete region _ _ | .shardTimeout region | .commitRecordsDurable region _ _ | .archiveCopyFree region
  | .layerBegin region _ | .holdBudgetExhausted region | .passBoundary region _ | .localisationEnd region => regionOk region
  | .folioProgramStart hall | .proofJob hall _ | .tempSample hall _ | .voltageSlewDone hall | .pllRelockDone hall | .thermalStep hall _ | .droopDetect hall
  | .droopClear hall | .hallRelockDone hall => hallOk hall
  | .reqSweep hall tag | .reqDeep hall tag | .reqRefresh hall tag | .reqCheckpoint hall tag _ => hallOk hall && decide (tag < 2 ^ 16)
  | .folioProgramDone shelf pos _ | .wearLevel shelf pos | .strike shelf pos | .tapUpdate shelf pos _ _ | .bankSwitch shelf pos
  | .passiveWindowEnd shelf pos _ | .activeSweep shelf pos | .deepCollation shelf pos
  | .driftRefresh shelf pos => shelfOk shelf && posOk pos
  | .sweepFit shelf pos trims targets _ =>
    shelfOk shelf && posOk pos && trims.all (fun j => decide (j < 512)) && targets.all fun t => decide (52429 ≤ t ∧ t ≤ 81920)
  | .marginWalk shelf pos failed => shelfOk shelf && posOk pos && failed.all fun n => decide (1 ≤ n ∧ n ≤ 4)
  | .swapOutFlushReadDone session _ | .swapOutColophonReadDone session _ | .cometReturnReadDone session _
  | .completionTimeout session => word32 session
  | .adapterFetchComplete carrel adapter _ _ => decide (carrel < 1024) && word32 adapter
  | .gatherComplete m => shelfOk m.shelf
  | .shelfExit shelf c x => shelfOk shelf && decide (c < 64) && x.into.all fun x => decide (x.tile ≤ 11 ∧ x.row < 16 ∧ x.group < 8)
  | .reductionAdd region _ _ _ hall level _ => regionOk region && decide (hall ≤ 4) && decide (level < 16)
  | .wideMerge region _ _ _ => regionOk region
  | .attentionMerge region _ session _ _ => regionOk region && word32 session
  | .scribeJobStart shelf | .nop shelf | .halt shelf | .ldx shelf | .addx shelf | .loopX shelf | .mma shelf | .vadd shelf | .vsub shelf
  | .vmul shelf | .vexp shelf | .vrcp shelf | .vrsq shelf | .vmax shelf | .vmaxi shelf | .vmini shelf | .vsum shelf | .ldt shelf
  | .stt shelf | .gather shelf | .scatter shelf | .checkTile shelf | .normw shelf | .sampleSelect shelf
  | .sampleDraw shelf => shelfOk shelf
  | .classSCheckDiscard region shelf => regionOk region && shelfOk shelf
  | .vigilanceClear hall bits => hallOk hall && decide (bits < 8)
  | .tapCheckpointTimer _ | .outlierMinute => true
  | .driftHourlyUpdate temps => decide (temps.length = 4)
  | .patrolScrub hall addr => hallOk hall && decide (addr < 96 * 2 ^ 30)
  | .portTrain port lanes => portOk port && decide (lanes < 16)
  | .train port body => portOk port && decide (body.length ≤ 64)
  | .laneFail port lane => portOk port && decide (lane < 4)
  | .keepalive port ack crVc _ | .nack port ack crVc _ | .idleFlit port ack crVc _ => portOk port && decide (ack < 4096) && decide (crVc < 3)
  | .sequencedFlitReceive port flit _ _ => portOk port && decide (flit.length ≤ 256)
  | .keepaliveSendTimer port | .keepaliveLoss port | .laneLockLoss port | .retrain port | .replayTimeout port | .tsxWrite port
  | .frag port | .readReq port | .readRsp port | .joinMsg port | .admitMsg port | .refuseMsg port | .dispatchMsg port _ | .doneMsg port
  | .resultMsg port | .removeMsg port | .takeoverMsg port | .paceMsg port | .reportMsg port | .limitMsg port | .releaseMsg port
  | .faultMsg port | .snapReq port | .snapRsp port | .snapPeriodTimer port => portOk port
  | .collectiveTimeout tag => word32 tag
  | .limitHoldExpiry | .powerReportTimer | .heirConfirmTimeout | .takeoverWaitTimeout | .leave | .excursionCut => true
  | .brokerCycle m => decide (m.halls.length = 4)
  | .capWrite _ width value | .flush width value _ | .alertClear width value | .deviceReset _ width value => valueOk width value
  | .hintWindowOpen carrel region tag | .hintWindowEnd carrel region tag => decide (carrel < 1024) && regionOk region && decide (tag < 64)
  | .idleEntry | .autoSleep _ _ | .sleep _ _ | .deepSleep _ _ | .powerOff _ _ | .readHoldExpiry | .wakeNAssert => true
  | .wakeEvent src _ fn _ width => decide (src < 16) && fn.wf && widthOk width
  | .wakeDomainReady domain => decide (domain < 8)
  | .sidebandAddressMatch addr => decide (addr < 128)
  | .v44Undervoltage | .v44Overvoltage | .standbyReset | .standbyLoss | .watchdogExpiry => true
  | .mailboxBlockWrite _ off bytes => decide (off + bytes.length ≤ 4096)
  | .identity | .attest _ | .annalsExport | .annalsNote | .fwStage _ _ | .fwActivate _ | .fwRevert _ | .fwRaiseFloor _
  | .attestTokenRefill => true
  | .monitorTrigger die slot _ => slotOk die slot
  | .monitorResult die slot x => slotOk die slot && decide (x.sinc.natAbs ≤ 2 ^ 36) && decide (x.ones.length ≤ 256) && x.ones.all (· ≤ 4096)
  | .annalsFlush _ | .annalsRateSecond | .hourCount | .maintLimitExpiry | .fsrDeliver | .thermalTrip | .standbyTakeover => true
  | .proofForce hall unit => hallOk hall && decide (unit ≤ 256)
  | .openWindow tag mask limit => decide (tag < 2 ^ 16) && decide (mask < 2 ^ 16) && word32 limit
  | .openModule tag limit bad lanes => decide (tag < 2 ^ 16) && word32 limit && bad.all (fun k => decide (k < 2 ^ 42)) && decide (lanes ≤ 96)
  | .closeWindow tag => decide (tag < 2 ^ 16)
  | .fsrRingEnable value => word64 value
  | .pllLockLoss hall pll => decide (hall ≤ 4) && decide (pll ≤ 2)
  | .sidebandReset data => decide (data < 256)
  | .portLinkLoss _ | .portLinkUp _ | .functionLevelResetPf0 | .functionLevelResetPf1 | .functionLevelResetPf2 | .orbitRejoin => true
  | .functionLevelResetVf carrel => decide (carrel < 1024)
  | .busMasteringChange fn _ => fn.wf

end Sys2Proof
end

