-- ==== Sys2Proof/Safety.lean ====
section
/-!
DEFINITION. Sys2Proof/Safety.lean: the terms in which claims about the module are stated: the canonical forms that every step
keeps, what a command may have changed, and short names for the conditions under which a command has its effect.
-/
namespace Sys2Proof.Machine

/-! ### Canonical forms -/

/-- The register table stands in its canonical form: keys rising, no entry at its reset value. -/
def State.regsOk (s : State) : Prop := swf regReset s.regs = true

/-! ### Frames -/

/-- `s` with what a register write or an annals record may change taken from `t`: the registers, the annals, the alert pin. -/
def State.withRegs (s t : State) : State :=
  { s with regs := t.regs, ann := t.ann, pst := { s.pst with sbAlert := t.pst.sbAlert } }

/-- The registers that an annals record may change: LAST_SEQ, DROPPED and the ALERT bit (R367, R369, R370). -/
def annalsRegs : List Nat := [Reg.ANN_LAST_SEQ.SEQ.addr, Reg.ANN_DROPPED.COUNT.addr, Reg.ANN_CTRL.ALERT.addr]

/-- `t` holds in every register outside `as` and outside the annals' own what `s` held. -/
def State.regsFrom (s t : State) (as : List Nat) : Prop := ∀ a, a ∉ as → a ∉ annalsRegs → rget t a = rget s a

/-- Counter `f` has counted `n` more, staying at its greatest value once there. -/
def counted (s t : State) (f : FieldRef) (n : Nat) : Prop := fget t f = min (fget s f + n) (2 ^ f.w - 1)

/-! ### Annals -/

/-- Between `s` and `t` the curator recorded a kind at a severity (R367, R369): a record of it with the next SEQ stands newest in the
ring, or it was below ERROR and only counted, 100 of its kind having been written in the present second. -/
def recorded (s t : State) (kind sev a0 a1 a2 : Nat) : Prop :=
  if sev < 3 ∧ 100 ≤ (kindCount s.ann kind).written
  then t.ann.lastSeq = s.ann.lastSeq ∧ t.ann.ring = s.ann.ring ∧ (kindCount t.ann kind).held = (kindCount s.ann kind).held + 1
  else t.ann.lastSeq = s.ann.lastSeq + 1 ∧ ∃ r, t.ann.ring.head? = some r ∧ r.kind = kind ∧ r.sev = sev ∧ r.seq = s.ann.lastSeq + 1 ∧
    r.tick = s.clk.tick ∧ r.a0 = a0 % 2 ^ 64 ∧ r.a1 = a1 % 2 ^ 64 ∧ r.a2 = a2 % 2 ^ 64

/-! ### Image commands -/

/-- CUR.IMG_CTRL takes a command (R33): the module is powered and no image operation runs. -/
def imgReady (s : State) : Prop := unpowered s = false ∧ imgBusy s = false

/-- What a finished image command shows (R33): STATE, LAST_RESULT, FAIL_SECTION and its own TAG. -/
def imgShows (t : State) (tag code sec : Nat) : Prop :=
  fget t Reg.CUR_IMG_STATUS.STATE = (if code = 0 then imgDone else imgFailed) ∧
    fget t Reg.CUR_IMG_STATUS.LAST_RESULT = code % 2 ^ 8 ∧ fget t Reg.CUR_IMG_STATUS.FAIL_SECTION = sec % 2 ^ 16 ∧
    fget t Reg.CUR_IMG_STATUS.TAG = tag % 2 ^ 16

/-- What an image command that does not bind may change of `s`, taken from `t`: the registers, the annals, the image store, the
interrupts sent. -/
def State.withImages (s t : State) : State :=
  { s.withRegs t with img := { s.img with store := t.img.store, op := t.img.op }, out := { s.out with msix := t.out.msix } }

/-! ### Resets -/

/-- What a device reset, or the loss of a rail, leaves of `s` (Table 12-9 rung 3, Table 16-1, R405, R406): links, packets, commands,
sessions, pages, comets, loans, passes, scribes, orbit state and the RAM ring of the annals are gone; every register but the standby
domain's stands at its reset value; what the NAND store, the boot flash and the always-on domain keep is as it was. -/
def lostAll (s t : State) (inReset : Bool) (cause : Nat) : Prop :=
  t.kv = State.reset.kv ∧ t.itk.cmds = [] ∧ t.itk.streams = [] ∧ t.run = State.reset.run ∧ t.scr = State.reset.scr ∧ t.loans = [] ∧
    t.tsx = [] ∧ t.orb = freshOrbit ∧ t.hst = State.reset.hst ∧ t.ann.ring = [] ∧ t.clk.tick = 0 ∧ t.clk.epoch = 0 ∧
    t.img.bound = plainImage ∧ t.img.store = s.img.store ∧ t.clk.boots = s.clk.boots ∧ t.cur.serial = s.cur.serial ∧
    t.cur.sig = s.cur.sig ∧ t.cur.durable = s.cur.durable ∧ t.cur.fw.slotA = s.cur.fw.slotA ∧ t.cur.fw.slotB = s.cur.fw.slotB ∧
    t.cur.fw.floor = s.cur.fw.floor ∧ t.con.failedShelves = s.con.failedShelves ∧ t.con.failedHalls = s.con.failedHalls ∧
    t.pwr.hours = s.pwr.hours ∧ t.pwr.record = s.pwr.record ∧
    (∀ a, a ≠ Reg.PST_SB_CTRL.WAKE_EN.addr → rget t a = regReset a) ∧
    rget t Reg.PST_SB_CTRL.WAKE_EN.addr = rget s Reg.PST_SB_CTRL.WAKE_EN.addr ∧
    (∀ n, (carrelSt t n).nextPass = (carrelSt s n).nextPass ∧ (carrelSt t n).limit = (carrelSt s n).limit) ∧
    unpowered t = true ∧ t.pst.inReset = inReset ∧ t.pst.cause = cause ∧ t.pst.pwrGood = false

/-- The carrels' kept state stands in its canonical form. -/
def State.carrelsOk (s : State) : Prop := swf (fun _ => freshCarrel) s.itk.carrels = true

/-- The accession table and the folio table stand in their canonical forms. -/
def State.accOk (s : State) : Prop := swf (fun _ => freshAcc) s.acc = true
def State.foliosOk (s : State) : Prop := swf (fun _ => freshFolio) s.arr.folios = true

/-- Command `k` of stream `c` in `s` stands finished in `t` with a status and a VALUE, and is otherwise as it was. -/
def finishedAs (t : State) (c seq : Nat) (k : Cmd) (status value : Nat) : Prop :=
  findCmd t c seq = some { k with phase := .finished, status := status, value := value }

/-- The regions' accessions other than `r`'s are as they were. -/
def accFrom (s t : State) (r : Nat) : Prop := ∀ q, q ≠ r → accOf t q = accOf s q

/-! ### Links and orbits -/

/-- The port table stands in its canonical form. -/
def State.portsOk (s : State) : Prop := swf (fun _ => freshPort) s.tsx = true

/-- Ports other than `n` are as they were. -/
def portsFrom (s t : State) (n : Nat) : Prop := ∀ m, m ≠ n → portAt t m = portAt s m

/-- `s` with what sending over the links may change taken from `t`: the ports, the flits on the wire, the injection counts among the registers, the
free draws. -/
def State.withLinks (s t : State) : State :=
  { s with regs := t.regs, tsx := t.tsx, free := t.free, out := { s.out with flits := t.out.flits } }

/-- The first accepted message of port `n` is of this type, from member `src`, with body `b` (R301). -/
def msgFront (s : State) (n typ src : Nat) (b : Bytes) : Prop :=
  ∃ x, frontFlit s n 0 = some x ∧ rd x.payload 0 1 = typ ∧ rd x.payload 2 1 = src ∧ slice x.payload 16 (rd x.payload 8 2) = b

/-- The first accepted transaction of a channel of port `n` is of this kind and reads `b` (R299). -/
def txnFront (s : State) (n vc kind : Nat) (b : Bytes) : Prop := ∃ x, frontFlit s n vc = some x ∧ x.payload = b ∧ rd b 0 1 = kind

/-- Port `n` holds a sequenced flit of a message with this body, sent or waiting to be (R294, R301). -/
def sends (s : State) (n typ : Nat) (body : Bytes) : Prop :=
  ∃ f ∈ (portAt s n).held ++ (portAt s n).waiting, f.typ = 2 ∧ rd f.payload 0 1 = typ ∧ slice f.payload 16 (rd f.payload 8 2) = body

/-- No loan entry waits for room (R222). -/
def State.noLoanWaits (s : State) : Prop := ∀ l ∈ s.loans, l.held = true ∨ l.stages.all (fun x => !x.asked) = true

/-- A loan entry but for which of its fetches is on a link (R224). -/
def Loan.offLink (l : Loan) : Loan := { l with stages := l.stages.map fun x => { x with via := none } }

/-- What an ACK releases of a port (R294): its held flits up to the one it names. -/
def released (p : Port) (ack : Nat) : Nat := match p.held.findIdx? fun f => f.seq == ack with | some i => i + 1 | none => 0

/-- A port after an ACK and a channel's credit count (R294, R297). -/
def acked (p : Port) (ack crVc credits : Nat) : Port :=
  { p with held := p.held.drop (released p ack), replays := if released p ack = 0 then p.replays else 0
           credits := modNth (fun _ => credits % 65536) p.credits crVc }

/-- `t` is isolated from its orbit (R322): STATE, the masks and the ports say so, every session of an orbit region is dead, and nothing of the orbit's
power or takeover is pending. -/
def aloneIn (s t : State) : Prop :=
  orbState t = 4 ∧ admittedMask t = selfBit s ∧ liveMask t = selfBit s ∧ (∀ n < 24, (portAt t n).admitted = false) ∧ t.orb.limit = none ∧
    t.orb.waitingTakeover = false ∧ t.orb.confirming = false ∧ t.img = s.img ∧
    ∀ x ∈ s.kv.sessions, orbitRegion s x.region = true → ∃ y, findSession t x.handle = some y ∧ y.dead.isSome = true

/-- The sessions of the regions that `p` takes are dead in `t`. -/
def deadIn (s t : State) (p : Nat → Prop) : Prop :=
  ∀ x ∈ s.kv.sessions, orbitRegion s x.region = true → p x.region → ∃ y, findSession t x.handle = some y ∧ y.dead.isSome = true

/-! ### Power and the curator -/

/-- The halls' power state stands in its canonical form. -/
def State.hallsOk (s : State) : Prop := swf (fun _ => freshHall) s.pwr.halls = true

/-- The halls other than `h` are as they were. -/
def hallsFrom (s t : State) (h : Nat) : Prop := ∀ g, g ≠ h → hallPower t g = hallPower s g

/-- A request was answered (R359): the response's header and body, STATE IDLE, LAST_STATUS. -/
def answered (t : State) (r : MbxReq) (status : Nat) (body : Bytes) : Prop :=
  t.cur.mbx.response = leBytes 4 r.seq ++ leBytes 4 r.tag ++ leBytes 1 status ++ leBytes 3 0 ++ leBytes 4 body.length ++ leBytes 16 0 ++ body ∧
    t.cur.mbx.req = none ∧ fget t Reg.CUR_MBX_STATUS.LAST_STATUS = status ∧ fget t Reg.CUR_MBX_STATUS.STATE = 0

/-! ### Scribe programs -/

/-- The row that carries a scribe instruction. -/
def scribeRow (h : Nat) : SOp → Instr
  | .nop => .nop h | .halt => .halt h | .ldx => .ldx h | .addx => .addx h | .loop => .loopX h | .mma => .mma h | .vadd => .vadd h
  | .vsub => .vsub h | .vmul => .vmul h | .vexp => .vexp h | .vrcp => .vrcp h | .vrsq => .vrsq h | .vmax => .vmax h | .vmaxi => .vmaxi h
  | .vmini => .vmini h | .vsum => .vsum h | .ldt => .ldt h | .stt => .stt h | .gather => .gather h | .scatter => .scatter h
  | .check => .checkTile h | .normw => .normw h | .sampleSelect => .sampleSelect h | .sampleDraw => .sampleDraw h

/-- The instruction at which a shelf's program `p` stands. -/
def insnOf (s : State) (shelf : Nat) (p : Prog) : Insn :=
  { shelf := shelf, prog := p, w := decodeWord (BitVec.ofNat 64 (leNat (programBytes s shelf p))), u := scribeOf s shelf }

/-- A shelf's program `p` stands at an instruction `o` of its own area which nothing faults or stalls beforehand (R111, R113, R114). -/
def insnRuns (s : State) (shelf : Nat) (p : Prog) (o : SOp) : Prop :=
  (scribeOf s shelf).run = some p ∧ p.job.kind ≠ 0xF ∧ fetchOwed s shelf p = false ∧ p.job.first ≤ p.pc ∧ p.pc < p.job.last ∧ opOf (insnOf s shelf p).w = some o ∧
    (insnOf s shelf p).check s o = none ∧
    ((insnOf s shelf p).areas s o).any (fun a => (scribeOf s shelf).xfers.any (transferMeets a)) = false

/-- A shelf's scribe with its program one instruction on. -/
def movedOn (s : State) (shelf : Nat) (p : Prog) : Scribe :=
  { scribeOf s shelf with run := some { p with pc := p.pc + 1, count := p.count + 1 } }

/-- An instruction changed tile `d` of its shelf and moved its program on, and changed nothing else but registers. -/
def onlyTile (s t : State) (shelf : Nat) (p : Prog) (d : Nat) : Prop :=
  t = { s with regs := t.regs, scr := { s.scr with unit := t.scr.unit, tiles := t.scr.tiles } } ∧ scribeOf t shelf = movedOn s shelf p ∧
    (∀ h, h ≠ shelf → scribeOf t h = scribeOf s h) ∧
    ∀ k, k ≠ tileKey shelf d → sget (fun _ => freshTile) t.scr.tiles k = sget (fun _ => freshTile) s.scr.tiles k

/-- The scribes' tables stand in their canonical form. -/
def State.scribesOk (s : State) : Prop :=
  swf (fun _ => freshScribe) s.scr.unit = true ∧ swf (fun _ => freshTile) s.scr.tiles = true ∧
    swf (fun _ => (0 : Byte)) s.scr.store = true ∧ swf (fun _ => false) s.scr.linePoison = true ∧
    (∀ e ∈ s.scr.tiles, swf (fun _ => (0 : W32)) e.2.data = true) ∧ ∀ e ∈ s.scr.unit, swf (fun _ => 0) e.2.x = true

/-- Every table of the module that a claim reads stands in its canonical form, the tables inside passes, tiles, ledgers, accessions and collectives
included. -/
def State.tablesOk (s : State) : Prop :=
  (s.regsOk ∧ s.carrelsOk ∧ s.accOk ∧ s.foliosOk ∧ s.portsOk ∧ s.hallsOk ∧ s.scribesOk) ∧
    (swf (fun _ => freshStream) s.itk.streams = true ∧ swf (fun _ => (0 : W64)) s.hst.msixTab = true ∧ swf (fun _ => freePage) s.kv.pages = true ∧
      swf (fun _ => false) s.kv.bad = true ∧ swf (fun _ => freshVigilance) s.run.vig = true ∧ swf (fun _ => freshRotation) s.con.rotations = true ∧
      swf (fun _ => freshConverter) s.cur.conv = true ∧ swf (fun _ => (none : Option MemberReport)) s.orb.reports = true) ∧
    (swf (fun _ => freshWin) s.col.wins = true ∧ swf (fun _ => (none : Option SweepRun)) s.col.sweeps = true ∧ swf (fun _ => (none : Option Fit)) s.col.fits = true ∧ swf (fun _ => freshWin) s.col.full = true ∧ swf (fun _ => fone) s.col.khat = true ∧
      swf (fun _ => (0 : Int)) s.col.temps = true ∧ swf (fun _ => none) s.col.request = true ∧ swf (fun _ => (0 : Nat)) s.pwr.hours = true ∧
      swf (fun _ => (0 : Nat)) s.pwr.guardUv = true ∧ swf (fun _ => freshLedger) s.arr.ledgers = true) ∧
    (∀ e ∈ s.scr.unit, swf (fun _ => 0) e.2.savedX = true) ∧ (∀ e ∈ s.arr.ledgers, swf (fun _ => (0 : Int)) e.2.totals = true) ∧
    (∀ e ∈ s.acc, swf (fun _ => ([] : Bytes)) e.2.shards = true) ∧ (∀ c ∈ s.orb.colls, swf (fun _ => (none : Option PVal)) c.got = true) ∧
    ∀ p ∈ s.run.live, swf (fun _ => (none : Option StageRun)) p.stages = true ∧ swf (fun _ => (none : Option Leaf)) p.leaves = true ∧
      swf (fun _ => (none : Option (List PVal))) p.nodes = true ∧ swf (fun _ => (none : Option (List (List PVal)))) p.attn = true ∧
      ∀ e ∈ p.stages, ∀ x, e.2 = some x → swf (fun _ => 0) x.struck = true

/-- No session is on its way out to the host (R261). -/
def noneLeaves (s : State) : Prop := ∀ x ∈ s.kv.sessions, x.res ≠ .swappingOut

end Sys2Proof.Machine
end

