-- ==== Sys2Proof/Certificates/Slice0/Obligations.lean ====
section
/-!
DEFINITION. Sys2Proof/Certificates/Slice0/Obligations.lean: the statements about the model, for the provers, family by family.
A docstring names the rules of spec/ that a statement formalises; where a clause rests on a choice of the model it says so.
-/
section
open Sys2Proof Sys2Proof.Machine


/-! ### Structure images (02) -/

/-- R30, R31, R33: STORE, sent to a powered module that runs no image operation, answers a next state. With no anchor held it fails
with NO_ANCHOR. With one held and the whole image fetched, the image check of R30 decides: a failing step's code and section are shown
and the image store stays as it was; an image that passes stands in the pending slot, durable (OK), or, where the NAND write failed
(NAND), the pending slot is left empty. Either write clears the record of a formerly active image. The bound image, the active slot, the
anchor and the floor stay, and nothing outside the image registers, the annals and the interrupt list changes.

R31, R29, R28, R33: the other commands on the image store, sent to a powered module that runs no image operation. DISCARD leaves
the pending slot empty and forgets that it held the formerly active image. RAISE_FLOOR sets the floor to the bound image's serial and
never lowers it, and is refused with PLAIN under the plain image, the floor unchanged. ENROL_ANCHOR with no anchor held and a record that
passes the checks of R28 keeps its key; with an anchor held, or a record that fails a check, it answers that check's code and the anchor
stays. -/
def Obligations.ImageStoreCommands : Prop :=
  (
  ∀ (tag : Nat) (f : Fetch) (nandOk : Bool) (s : State), s.regsOk → imgReady s →
    ∃ t, exec (.store tag f nandOk) s = .next t ∧ t = s.withImages t ∧ t.img.op = s.img.op ∧
      t.img.store.active = s.img.store.active ∧ t.img.store.anchor = s.img.store.anchor ∧ t.img.store.floor = s.img.store.floor ∧
      slotOf t.img.store (1 - pendingIx s.img.store) = slotOf s.img.store (1 - pendingIx s.img.store) ∧
      s.regsFrom t [Reg.CUR_IMG_STATUS.STATE.addr, Reg.CUR_IMG_PENDING_SERIAL.SERIAL.addr] ∧
      (s.img.store.anchor = none → imgShows t tag 0x07 0 ∧ t.img.store = s.img.store) ∧
      (∀ a b, s.img.store.anchor = some a → f = .data b → b.length = fget s Reg.CUR_IMG_LEN.LEN →
        b.length % 4096 = 0 → b.length ≤ 268435456 →
        match checkImage (moduleRev s) s.img.store.floor (some a) b.length b with
        | some e => t.img.store = s.img.store ∧ fget t Reg.CUR_IMG_STATUS.LAST_RESULT = e.code % 2 ^ 8 ∧
            fget t Reg.CUR_IMG_STATUS.FAIL_SECTION = e.failSection % 2 ^ 16
        | none => t.img.store.former = false ∧ pendingImage t = (if nandOk then some b else none) ∧
            fget t Reg.CUR_IMG_STATUS.PENDING_VALID = (if nandOk then 1 else 0) ∧ imgShows t tag (if nandOk then 0x00 else 0x10) 0)) ∧
  (
  ∀ (tag : Nat) (s : State), s.regsOk → imgReady s →
    (∃ t, exec (.discard tag) s = .next t ∧ t = s.withImages t ∧ pendingImage t = none ∧ t.img.store.former = false ∧
      t.img.store.active = s.img.store.active ∧ t.img.store.floor = s.img.store.floor ∧ t.img.store.anchor = s.img.store.anchor ∧
      slotOf t.img.store (1 - pendingIx s.img.store) = slotOf s.img.store (1 - pendingIx s.img.store) ∧
      fget t Reg.CUR_IMG_STATUS.PENDING_VALID = 0 ∧ imgShows t tag 0x00 0 ∧ s.regsFrom t [Reg.CUR_IMG_STATUS.STATE.addr]) ∧
    (∀ nandOk : Bool, ∃ t, exec (.raiseFloor tag nandOk) s = .next t ∧ t = s.withImages t ∧
      s.regsFrom t [Reg.CUR_IMG_STATUS.STATE.addr, Reg.CUR_IMG_FLOOR.FLOOR.addr] ∧ s.img.store.floor ≤ t.img.store.floor ∧
      (s.img.bound.plain = true → t.img.store = s.img.store ∧ imgShows t tag 0x11 0) ∧
      (s.img.bound.plain = false → nandOk = false → t.img.store = s.img.store ∧ imgShows t tag 0x10 0) ∧
      (s.img.bound.plain = false → nandOk = true → s.img.store.floor ≤ s.img.bound.serial →
        t.img.store = { s.img.store with floor := s.img.bound.serial } ∧ imgShows t tag 0x00 0 ∧
        fget t Reg.CUR_IMG_FLOOR.FLOOR = s.img.bound.serial % 2 ^ 64)) ∧
    (∀ (f : Fetch) (nandOk : Bool), ∃ t, exec (.enrolAnchor tag f nandOk) s = .next t ∧ t = s.withImages t ∧
      s.regsFrom t [Reg.CUR_IMG_STATUS.STATE.addr] ∧
      t.img.store = { s.img.store with anchor := t.img.store.anchor } ∧
      match s.img.store.anchor, anchorCheck (fget s Reg.CUR_IMG_LEN.LEN) f with
      | some a, _ => t.img.store.anchor = some a ∧ imgShows t tag 0x07 0
      | none, .inl code => t.img.store.anchor = none ∧ imgShows t tag code 0
      | none, .inr a => if nandOk
          then t.img.store.anchor = some a ∧ imgShows t tag 0x00 0 ∧ fget t Reg.CUR_IMG_STATUS.ANCHOR = 1
          else t.img.store.anchor = none ∧ imgShows t tag 0x10 0))

/-- R33, R36, R31: BIND and REVERT, sent to a powered module that runs no image operation. A BIND finds the image of the pending slot
(none: NO_PENDING); one below the floor fails with ROLLBACK; one whose scope has an accession, a rehousing or a maintenance window at
work fails with BUSY; one whose idle carrels hold sessions fails with CARREL_IN_USE; any other starts its quiesce, and the bound image
stays. REVERT does the same while the pending slot is recorded as formerly active, and answers NO_PENDING otherwise. A command written
while an operation runs shows BUSY and nothing else of the image store changes.

R35, R33, R25, R34: the end of a bind. When the quiesce limit expires during a bind, the bind is abandoned with QUIESCE_TIMEOUT and the
bound image, the image store and the held commands stay. When the quiesce of the scope completes and the readback fails, or the selector
colophon fails, the old image stays bound and the bind ends with VERIFY or NAND, the loan entries dropped where LOAN_GIB differs and the tables of
R232 built afresh; when both hold, the new image is bound, the pending slot becomes the active one, the formerly active image (if there was one)
stands pending, and the floor stays. Then the shares of orbit passes that the bind held begin. While a pass of the scope is in flight, or with
no bind open, nothing changes. -/
def Obligations.BindStartsAndEnds : Prop :=
  (
  ∀ (tag : Nat) (s : State), s.regsOk → unpowered s = false →
    (imgBusy s = false → ∃ t, exec (.bind tag) s = .next t ∧ t = s.withImages t ∧ t.img.store = s.img.store ∧
      s.regsFrom t [Reg.CUR_IMG_STATUS.STATE.addr] ∧
      match pendingImage s with
      | none => t.img.op = s.img.op ∧ imgShows t tag 0x0E 0
      | some b =>
        let new := parseImage b
        let rs := scopeRegions s.img.bound new
        let whole := wholeScope s.img.bound new
        let cs := idleCarrels s.img.bound new
        if new.serial < s.img.store.floor then t.img.op = s.img.op ∧ imgShows t tag 0x06 0
        else if scopeBusy s rs whole then t.img.op = s.img.op ∧ imgShows t tag 0x01 0
        else if cs.any (fun c => !(carrelSessions s c).isEmpty) then t.img.op = s.img.op ∧ imgShows t tag 0x0F 0
        else t.img.op = some ⟨new, rs, cs, whole⟩ ∧ fget t Reg.CUR_IMG_STATUS.STATE = imgQuiesce ∧
          fget t Reg.CUR_IMG_STATUS.TAG = tag % 2 ^ 16) ∧
    (imgBusy s = false → s.img.store.former = true → exec (.revert tag) s = exec (.bind tag) s) ∧
    (imgBusy s = false → s.img.store.former = false → ∃ t, exec (.revert tag) s = .next t ∧ t = s.withImages t ∧
      t.img = s.img ∧ imgShows t tag 0x0E 0 ∧ s.regsFrom t [Reg.CUR_IMG_STATUS.STATE.addr]) ∧
    (imgBusy s = true → ∀ i ∈ [Instr.bind tag, .revert tag, .discard tag, .store tag .error true, .raiseFloor tag true,
        .enrolAnchor tag .error true],
      ∃ t, exec i s = .next t ∧ t = s.withRegs t ∧ fget t Reg.CUR_IMG_STATUS.LAST_RESULT = 1 ∧
        fget t Reg.CUR_IMG_STATUS.STATE = fget s Reg.CUR_IMG_STATUS.STATE ∧ s.regsFrom t [Reg.CUR_IMG_STATUS.STATE.addr])) ∧
  (
  ∀ s : State, s.regsOk →
    (∀ op, s.img.op = some op → ∃ t, exec .quiesceTimeout s = .next (releaseShares t) ∧ t = s.withImages t ∧ t.img = { s.img with op := none } ∧
      fget t Reg.CUR_IMG_STATUS.STATE = imgFailed ∧ fget t Reg.CUR_IMG_STATUS.LAST_RESULT = 0x0C ∧
      s.regsFrom t [Reg.CUR_IMG_STATUS.STATE.addr]) ∧
    (∀ op verifyOk nandOk, s.img.op = some op → ¬ (verifyOk = true ∧ nandOk = true) →
      (∀ p ∈ s.run.live, op.whole = false ∧ p.region ∉ op.regions) →
      ∃ t, exec (.bindQuiesceDone verifyOk nandOk) s = .next (releaseShares t) ∧
        t = { s.withImages t with loans := t.loans, scr := t.scr } ∧ t.img = { s.img with op := none } ∧
        t.loans = (if s.img.bound.power.loanGib = op.img.power.loanGib then s.loans else s.loans.map dropLoan) ∧
        t.scr = (buildTables [0, 1, 2, 3] s).scr ∧
        fget t Reg.CUR_IMG_STATUS.STATE = imgFailed ∧
        fget t Reg.CUR_IMG_STATUS.LAST_RESULT = (if verifyOk then 0x10 else 0x0D) ∧
        s.regsFrom t [Reg.CUR_IMG_STATUS.STATE.addr]) ∧
    (∀ op, s.img.op = some op → (∀ p ∈ s.run.live, op.whole = false ∧ p.region ∉ op.regions) →
      ∃ t, exec (.bindQuiesceDone true true) s = .next (releaseShares t) ∧ t.img.bound = op.img ∧ t.img.op = none ∧
        t.img.store = commitStore s.img.store op.img ∧ t.img.store.floor = s.img.store.floor ∧
        fget t Reg.CUR_IMG_STATUS.STATE = imgDone ∧ fget t Reg.CUR_IMG_STATUS.LAST_RESULT = 0 ∧ t.cur = s.cur ∧
        t.clk = s.clk ∧ t.hst = s.hst) ∧
    (∀ verifyOk nandOk, (s.img.op = none ∨ ∃ op, s.img.op = some op ∧ ∃ p ∈ s.run.live, op.whole = true ∨ p.region ∈ op.regions) →
      exec (.bindQuiesceDone verifyOk nandOk) s = .next s))

/-! ### Registers (00, 21) and annals (17) -/

/-- R6, R8, R430: a register write that reaches its register in Run (powered, not through the standby port, its domain ready, 4 or 8
bytes and aligned, a register that stands there and does not ignore the write as a whole). Of every field of the register's map without a
row of its own: an RW field wholly within the written half takes the value where its map and conditions allow it and keeps its own
otherwise; a W1C field loses the bits written 1; every other field stays (but for the annals' own registers, which a record of the write
may change). No other register changes, and nothing outside registers and annals. TSX.CTRL and TSX.INJ_CTRL, whose ENABLE has more
effects, have their own statement. -/
def Obligations.RegisterWriteFollowsTheMap : Prop :=
  ∀ (standby : Bool) (fn : Fn) (off width value a : Nat) (d : RegDef) (s : State), s.regsOk →
    unpowered s = false → s.pst.depth ≠ 1 → standbyPort s standby = false → domainReady s (domainOf fn off) = true →
    msixKey fn off = none → (width = 4 ∨ width = 8) → off % width = 0 → barAddr fn (off / 8 * 8) = some a → regAt a = some d →
    (width = 8 ∨ ∀ f ∈ d.fields, f.acc ≠ .wo) →
    ¬ (0x300000 ≤ a ∧ a < 0x360000 ∧ (a % 0x4000 = 0 ∨ a % 0x4000 = 0x40)) →
    wholeIgnored s a (withField (rget s (homeOf s a)) (off % 8 * 8) (8 * width) value).toNat d.fields = false →
    ∃ t, exec (.registerWrite standby fn off width value) s = .next t ∧ t = s.withRegs t ∧ s.regsFrom t [homeOf s a] ∧
      ∀ f ∈ d.fields,
        let v := (withField (rget s (homeOf s a)) (off % 8 * 8) (8 * width) value).toNat
        let x := nbits v f.lo f.w
        let g : FieldRef := ⟨homeOf s a, f.lo, f.w⟩
        let within := off % 8 * 8 ≤ f.lo ∧ f.lo + f.w ≤ off % 8 * 8 + 8 * width
        (within → f.own = false → f.acc = .rw →
          fget t g = if inMap f x = true ∧ mayTake s a v f x = true then x else fget s g) ∧
        (within → f.own = false → f.acc = .w1c → fget t g = fget s g &&& (2 ^ f.w - 1 - x)) ∧
        (¬ within ∨ f.own = true ∨ (f.acc ≠ .rw ∧ f.acc ≠ .w1c) → homeOf s a ∉ annalsRegs → fget t g = fget s g)

/-- R269, R291, R350: the register writes that do more. A word of an MSI-X table is stored, and a pending message of a vector whose
mask it clears goes out. Setting ENABLE of a Tsuyx port in a plain
8-byte write starts its training (STATE 1). A write that reaches a domain still asleep is held, in order, and changes nothing else. A
write to a hall from Idle first returns the module to Run (the model's choice, log entry 47).

R8, R426, R427, R430: register writes that are ignored as a whole. Through the standby port in standby mode, outside the function's
BAR0 or at an offset that holds no register, misaligned or not 4 or 8 bytes wide, 4 bytes to a register with a WO field, or ignored by the
register's map: no register changes but the annals' own, nothing else of the module changes, and the write is recorded as CONFIG_IGNORED
with the offset. -/
def Obligations.RegisterWritesElsewhereOrIgnored : Prop :=
  (
  ∀ (standby : Bool) (s : State), s.regsOk → unpowered s = false → standbyPort s standby = false →
    (∀ fn off width value k, (width = 4 ∨ width = 8) → off % width = 0 → msixKey fn off = some k → domainReady s (domainOf fn off) = true →
      domainOf fn off < 4 →
      ∃ t, exec (.registerWrite standby fn off width value) s = .next t ∧ t = { s with hst := { s.hst with msixTab := t.hst.msixTab }, out := t.out } ∧
        (swf msixReset s.hst.msixTab = true → msixWord t k = withField (msixWord s k) (off % 8 * 8) (8 * width) value) ∧
        (let v := k % 16 / 2
          if fnUp s fn = true ∧ (fn, v) ∈ s.out.msixPend ∧ msixMasked t fn v = false
          then t.out = { s.out with msix := (fn, v) :: s.out.msix, msixPend := s.out.msixPend.filter (· != (fn, v)) } else t.out = s.out)) ∧
    (∀ n, n < 24 → s.pst.depth = 0 → fget s (Reg.TSX_CTRL.ENABLE n) = 0 →
      ∃ t, exec (.registerWrite standby .pf0 (Reg.TSX_CTRL.ENABLE n).addr 8 1) s = .next t ∧ t = s.withRegs t ∧
        fget t (Reg.TSX_CTRL.ENABLE n) = 1 ∧ fget t (Reg.TSX_STATUS.STATE n) = 1 ∧
        s.regsFrom t [(Reg.TSX_CTRL.ENABLE n).addr, (Reg.TSX_STATUS.STATE n).addr]) ∧
    (∀ fn off width value, domainReady s (domainOf fn off) = false →
      exec (.registerWrite standby fn off width value) s =
        .next { s with pst := { s.pst with writes := s.pst.writes ++ [(fn, off, leBytes width value)] } }) ∧
    (∀ fn off width value, s.pst.depth = 1 → 4 ≤ domainOf fn off →
      exec (.registerWrite standby fn off width value) s = exec (.registerWrite standby fn off width value) (leaveIdle s) ∧
        (leaveIdle s).pst.depth = 0)) ∧
  (
  ∀ (standby : Bool) (fn : Fn) (off width value : Nat) (s : State), s.regsOk → unpowered s = false → s.pst.depth ≠ 1 →
    (standbyPort s standby = true ∨ domainReady s (domainOf fn off) = true ∧
      (¬ (width = 4 ∨ width = 8) ∨ off % width ≠ 0 ∨
        (msixKey fn off = none ∧
          (barAddr fn (off / 8 * 8) = none ∨
            ∃ a, barAddr fn (off / 8 * 8) = some a ∧
              (regAt a = none ∨ ∃ d, regAt a = some d ∧
                (width = 4 ∧ (∃ f ∈ d.fields, f.acc = .wo) ∨
                  wholeIgnored s a (withField (rget s (homeOf s a)) (off % 8 * 8) (8 * width) value).toNat d.fields = true)))))) →
    ∃ t, exec (.registerWrite standby fn off width value) s = .next t ∧ t = s.withRegs t ∧ s.regsFrom t [] ∧
      recorded s t 0x0C00 1 off value 0)

/-- R331, R8: a write to PWR.CAP of 8 bytes, powered and not through the standby port: CAP_DW takes a value of 3,000 to 14,000 and ILIM_DA
one of 100 to 400, each on its own, and keeps its value otherwise; a write that lowers a limit during an excursion is noted, so that the
allowance ends. Nothing else changes but the annals (a refused field is recorded).

R369, R327, R374: what the clock brings. At each second the counts of every KIND start again; a KIND that was held back gets a
RATE_DROP record and its next record is flagged (the number of held kinds small enough not to hold RATE_DROP itself back). Each hour in
Run or Idle counts one operating hour on every die, and the G_age of the hours counted before applies. Each refill adds one attestation
token, to 16 at most. -/
def Obligations.CapWritesAndPeriodicCounts : Prop :=
  (
  ∀ (standby : Bool) (value : Nat) (s : State), s.regsOk → unpowered s = false → (standbyMode s && standby) = false →
    ∃ t, exec (.capWrite standby 8 value) s = .next t ∧
      t = { s.withRegs t with pwr := { s.pwr with capPending := t.pwr.capPending } } ∧ s.regsFrom t [Reg.PWR_CAP.CAP_DW.addr] ∧
      fget t Reg.PWR_CAP.CAP_DW = (if 3000 ≤ nbits value 0 14 ∧ nbits value 0 14 ≤ 14000 then nbits value 0 14 else fget s Reg.PWR_CAP.CAP_DW) ∧
      fget t Reg.PWR_CAP.ILIM_DA = (if 100 ≤ nbits value 16 9 ∧ nbits value 16 9 ≤ 400 then nbits value 16 9 else fget s Reg.PWR_CAP.ILIM_DA) ∧
      (s.pwr.excursion ≠ none → fget t Reg.PWR_CAP.CAP_DW < fget s Reg.PWR_CAP.CAP_DW ∨
        fget t Reg.PWR_CAP.ILIM_DA < fget s Reg.PWR_CAP.ILIM_DA → t.pwr.capPending = true) ∧
      (s.pwr.excursion = none → t.pwr.capPending = s.pwr.capPending)) ∧
  (
  ∀ s : State, s.regsOk → unpowered s = false →
    (∃ t, exec .annalsRateSecond s = .next t ∧ t = s.withRegs t ∧ s.regsFrom t [] ∧
      ((s.ann.counts.filter fun c => decide (0 < c.held)).length ≤ 100 → (∀ k, (kindCount t.ann k).held = 0) ∧
        (∀ k, k ≠ 0x0003 → (kindCount t.ann k).written = 0) ∧
        ∀ c ∈ s.ann.counts, 0 < c.held → s.ann.ring.length + 100 ≤ ringSize →
          (∃ r ∈ t.ann.ring, r.kind = 0x0003 ∧ r.a0 = c.kind % 2 ^ 64 ∧ r.a1 = c.held % 2 ^ 64) ∧
          (c.kind ≠ 0x0003 → c.kind ∈ t.ann.flagged))) ∧
    (asleep s = false → swf (fun _ => (0 : Nat)) s.pwr.hours = true → swf (fun _ => (0 : Nat)) s.pwr.guardUv = true →
      ∃ t, exec .hourCount s = .next t ∧ t = { s with pwr := { s.pwr with hours := t.pwr.hours, guardUv := t.pwr.guardUv } } ∧
        ∀ die < 5, sget (fun _ => (0 : Nat)) t.pwr.hours die = min (sget (fun _ => (0 : Nat)) s.pwr.hours die + 1) (2 ^ 32 - 1) ∧
          sget (fun _ => (0 : Nat)) t.pwr.guardUv die = ageUv (sget (fun _ => (0 : Nat)) s.pwr.hours die)) ∧
    (∃ t, exec .attestTokenRefill s = .next t ∧ t.cur.sig.tokens = min 16 (s.cur.sig.tokens + 1) ∧
      t = { s with regs := t.regs, cur := { s.cur with sig := { s.cur.sig with tokens := t.cur.sig.tokens } } }))

/-- R367, R369, R370: what recording does. A record at ERROR or above, or of a kind with fewer than 100 records in the present second,
takes the next SEQ and stands newest in the ring with its TICK; LAST_SEQ shows that SEQ; ALERT and SB_ALERT_N are set where the severity
reaches MIN_SEVERITY and stay as they were otherwise. A record of a kind held back is only counted (ANN.DROPPED counts it, saturating).
While the ring has room, no earlier record leaves it.

R368, R370: the annals become durable, and the alert is cleared. ANNALS_FLUSH, and an 8-byte write of ANN.CTRL.FLUSH, on a powered
module whose NAND write succeeds, put every record of the ring that is not yet durable into the annals area and DURABLE_SEQ at the newest
(with none, nothing changes). An 8-byte write of ANN.CTRL.ALERT clears ALERT and releases SB_ALERT_N. Nothing else changes. -/
def Obligations.AnnalsRecordsRiseAndFlush : Prop :=
  (
  ∀ (s : State) (kind sev : Nat) (obj : Obj) (a0 a1 a2 : Nat), s.regsOk →
    let t := annal s kind sev obj a0 a1 a2
    recorded s t kind sev a0 a1 a2 ∧ t = s.withRegs t ∧ s.regsFrom t [] ∧
      (t.ann.lastSeq ≠ s.ann.lastSeq → fget t Reg.ANN_LAST_SEQ.SEQ = t.ann.lastSeq % 2 ^ 64 ∧
        (s.ann.ring.length < ringSize → t.ann.ring.tail = s.ann.ring ∧ rget t Reg.ANN_DROPPED.COUNT.addr = rget s Reg.ANN_DROPPED.COUNT.addr) ∧
        fget t Reg.ANN_CTRL.ALERT = (if fget s Reg.ANN_CTRL.MIN_SEVERITY ≤ sev then 1 else fget s Reg.ANN_CTRL.ALERT) ∧
        t.pst.sbAlert = (if fget s Reg.ANN_CTRL.MIN_SEVERITY ≤ sev then true else s.pst.sbAlert)) ∧
      (t.ann.lastSeq = s.ann.lastSeq → fget t Reg.ANN_DROPPED.COUNT = min (fget s Reg.ANN_DROPPED.COUNT + 1) (2 ^ 64 - 1) ∧
        t.pst.sbAlert = s.pst.sbAlert)) ∧
  (
  ∀ s : State, s.regsOk → unpowered s = false →
    (∀ i, i = Instr.annalsFlush true ∨ (∃ v : Nat, v.testBit 9 = true ∧ i = Instr.flush 8 v true) →
      (∀ r ∈ s.ann.ring, r.seq ≤ durableSeq s) → exec i s = .next s) ∧
    (∀ i r rs, i = Instr.annalsFlush true ∨ (∃ v : Nat, v.testBit 9 = true ∧ i = Instr.flush 8 v true) →
      s.ann.ring = r :: rs → durableSeq s < r.seq → s.cur.durable.length + s.ann.ring.length ≤ areaRecords →
      ∃ t, exec i s = .next t ∧ t = { s with regs := t.regs, cur := { s.cur with durable := t.cur.durable } } ∧
        durableSeq t = r.seq ∧ fget t Reg.ANN_DURABLE_SEQ.SEQ = r.seq % 2 ^ 64 ∧
        (∀ x ∈ s.ann.ring, durableSeq s < x.seq → x ∈ t.cur.durable) ∧ (∀ x ∈ s.cur.durable, x ∈ t.cur.durable) ∧
        (∀ a, a ≠ Reg.ANN_DURABLE_SEQ.SEQ.addr → rget t a = rget s a)) ∧
    (∀ v : Nat, v.testBit 8 = true →
      ∃ t, exec (.alertClear 8 v) s = .next t ∧ t = { s with regs := t.regs, pst := { s.pst with sbAlert := false } } ∧
        fget t Reg.ANN_CTRL.ALERT = 0 ∧ fget t Reg.ANN_CTRL.MIN_SEVERITY = fget s Reg.ANN_CTRL.MIN_SEVERITY ∧
        (∀ a, a ≠ Reg.ANN_CTRL.ALERT.addr → rget t a = rget s a)))

/-! ### Resets, bring-up, rails (19, 20) -/

/-- R18, R29, R276, R408, R433: the module right after reset: no image stored, the plain image bound, no anchor, the floor 0; no
session, command, packet or pass; no link, no PWR_GOOD, unpowered until its bring-up; the register table empty, so that every register
reads its reset value, here CUR.IDENTITY, PWR.CAP, INT.STALL_LIMIT, CAR.PASS and CUR.FSR_RING; nothing waits. -/
def Obligations.ResetState : Prop :=
  let s := State.reset
  s.pending = [] ∧ s.regs = [] ∧ s.img.store = { slot0 := none, slot1 := none, active := none, former := false, anchor := none, floor := 0 } ∧
    s.img.bound = plainImage ∧ s.img.op = none ∧ s.kv.sessions = [] ∧ s.itk.cmds = [] ∧ s.run.live = [] ∧ s.con.failedShelves = [] ∧
    s.hst.linkA = false ∧ s.hst.linkB = false ∧ s.pst.pwrGood = false ∧ unpowered s = true ∧ s.clk.boots = 0 ∧ s.ann.lastSeq = 0 ∧
    s.regsOk ∧ s.carrelsOk ∧ (∀ n, (carrelSt s n).nextPass = 1 ∧ (carrelSt s n).limit = 2 ^ 20) ∧ (∀ a, rget s a = regReset a) ∧
    regReset 0x0 = 0x4800B0B0B0B0B0B0 ∧ regReset 0x200008 = 0x1902328 ∧ regReset (carBase 7 + 0x100) = 0xC350 ∧
    regReset (carBase 1024 + 0x28) = 0 ∧ regReset 0x109020 = 0x400

/-- R405, R406, R372, R402, R415, R418, R422: what resets the module, with the cause that its next boot shows. A write of RST.CTRL with
its KEY and CMD (3), the sideband reset (4), a trial slot that did not confirm (5), a lost concourse PLL or oscillator (6) and a thermal
trip (8, held while THERM_TRIP_N is asserted; a second trip within ten minutes locks the module out instead) are device resets; the input
out of range and the loss of the standby rail put the module in Off (1). Each leaves exactly what `lostAll` says.

R409, R406, R405, R418: resets that do not act, and the standby reset. A write of RST.CTRL with another KEY or CMD or width, or through
the standby port, and a sideband write of other data, change nothing but the annals, which record them. When the standby rail rises
again, the always-on count starts at 0, PST.SB_CTRL stands at its reset value, the trip latch is forgotten, and nothing else changes. -/
def Obligations.ResetsLoseAndKeep : Prop :=
  (
  ∀ s : State, s.regsOk → s.carrelsOk →
    (∀ standby value, unpowered s = false → standbyPort s standby = false → nbits value 48 16 = 0xD5E7 → nbits value 0 4 = 1 →
      ∃ t, exec (.deviceReset standby 8 value) s = .next t ∧ lostAll s t true 3) ∧
    (unpowered s = false → ∃ t, exec (.sidebandReset 0xD5) s = .next t ∧ lostAll s t true 4) ∧
    (unpowered s = false → s.cur.fw.trial = true → ∃ t, exec .trialConfirmTimeout s = .next t ∧ lostAll s t true 5) ∧
    (∀ hall pll, unpowered s = false → 4 ≤ hall → pll ≤ 2 → ∃ t, exec (.pllLockLoss hall pll) s = .next t ∧ lostAll s t true 6) ∧
    (s.pst.v44 = true → (unpowered s = false ∨ s.pst.inReset = true) →
      let again := s.pst.tripAt.any fun t => decide (s.clk.aon < t + tenMinutes)
      ∃ t, exec .thermalTrip s = .next t ∧ lostAll s t (!again) 8 ∧ t.pst.thermTrip = !again ∧ t.pst.lockout = again ∧
        t.pst.tripAt.head? = some s.clk.aon) ∧
    (s.pst.v44 = true → ∃ t, exec .v44Undervoltage s = .next t ∧ lostAll s t false 1 ∧ t.pst.v44 = false ∧ t.pst.lockout = false) ∧
    (s.pst.v44 = true → ∃ t, exec .v44Overvoltage s = .next t ∧ lostAll s t false 1 ∧ t.pst.v44 = false ∧ t.pst.lockout = s.pst.lockout) ∧
    (s.pst.vstby = true → (unpowered s = false ∨ s.pst.inReset = true) →
      ∃ t, exec .standbyLoss s = .next t ∧ lostAll s t s.pst.v44 1 ∧ t.pst.vstby = false)) ∧
  (
  ∀ s : State, s.regsOk →
    (∀ standby width value, unpowered s = false →
      (standbyPort s standby = true ∨ width ≠ 8 ∨ nbits value 48 16 ≠ 0xD5E7 ∨ nbits value 0 4 ≠ 1) →
      ∃ t, exec (.deviceReset standby width value) s = .next t ∧ t = s.withRegs t ∧ s.regsFrom t [] ∧ recorded s t 0x0C00 1 0x2000 value 0) ∧
    (∀ data, unpowered s = false → data ≠ 0xD5 →
      ∃ t, exec (.sidebandReset data) s = .next t ∧ t = s.withRegs t ∧ s.regsFrom t [] ∧ recorded s t 0x0C00 1 0xF0 data 0) ∧
    (s.pst.vstby = false →
      ∃ t, exec .standbyReset s = .next t ∧
        t = { s with
          regs := t.regs, clk := { s.clk with aon := 0, frac := 0 }, pst := { s.pst with vstby := true, tripped := false, tripAt := [], wakeSrc := 0, wakeN := false } } ∧
        (∀ a, rget t a = if a = Reg.PST_SB_CTRL.WAKE_EN.addr then regReset a else rget s a)))

/-- R408, R372, R43, R403, R422: the bring-up. With the standby rail, no thermal hold, no lockout, and the module in reset or its input
back (`mayBoot`), and a firmware slot that boots, a POWER_ON_BOOT whose trial (if the slot is one) passes its self-test ends in Run:
PWR_GOOD, every hall awake, the intake up, BOOTS one higher, the firmware of the selected slot running and confirmed, the image of the
boot check bound with the store as it was, and every carrel that has begun a pass going on from its reserved limit. With no slot that
boots it stays in recovery; a trial that fails its self-test resets the module with cause 5. TRIP_HOLD_RELEASE does the same after the
thermal hold.

R402: a hall that loses lock. On a powered module, the loss of a hall PLL (0 strike, 1 the active scribe PLL, 2 fabric) clears its lock
flag, gates the hall, counts in CLK.LOCK_EVENTS, and poisons every session of a pass that is using the hall; a lost scribe PLL moves the
clock to the idle one. When the PLLs are locked again, the flags are set, and the hall resumes where no pass that uses it is in flight. -/
def Obligations.BootsAndHallLocks : Prop :=
  (
  ∀ (ms : Nat) (bad : List Nat) (selfTest : Option Bool) (s : State), s.regsOk → s.carrelsOk →
    (mayBoot s = true → fwSelect s.cur.fw = none →
      ∃ t, exec (.powerOnBoot ms bad selfTest) s = .next t ∧ unpowered t = false ∧ t.cur.fw.recovery = true ∧
        t.clk.boots = s.clk.boots + 1 ∧ t.clk.tick = 0 ∧ t.pst.pwrGood = true ∧ t.img = s.img ∧ t.kv = s.kv) ∧
    (∀ i, mayBoot s = true → fwSelect s.cur.fw = some i → selfTest = some true →
      ∃ t, exec (.powerOnBoot ms bad selfTest) s = .next t ∧ t.pst.depth = 0 ∧ t.pst.inReset = false ∧ t.pst.pwrGood = true ∧
        fget t Reg.RST_STATUS.INTAKE = 1 ∧ fget t Reg.PST_STATUS.HALL_AWAKE = 0xF ∧ t.clk.boots = s.clk.boots + 1 ∧
        t.clk.bootMs = ms ∧ t.clk.epoch = 0 ∧ t.cur.fw.running = i ∧ t.cur.fw.recovery = false ∧ t.cur.fw.trial = false ∧
        t.img.bound = (bootImage s).1 ∧ t.img.store = s.img.store ∧
        ∀ n, (carrelSt t n).nextPass = (resumeNumbers (carrelSt s n)).nextPass ∧ (carrelSt t n).limit = (resumeNumbers (carrelSt s n)).limit) ∧
    (∀ i, mayBoot s = true → fwSelect s.cur.fw = some i → s.cur.fw.nextTrial = true → i = s.cur.fw.nextSlot → selfTest = some false →
      ∃ t, exec (.powerOnBoot ms bad selfTest) s = .next t ∧ unpowered t = true ∧ t.pst.inReset = true ∧ t.pst.cause = 5 ∧
        t.cur.fw.nextSlot = 1 - i ∧ t.cur.fw.nextTrial = false) ∧
    (s.pst.thermTrip = true → mayBoot { s with pst := { s.pst with thermTrip := false } } = true →
      exec (.tripHoldRelease ms bad selfTest) s = exec (.powerOnBoot ms bad selfTest) { s with pst := { s.pst with thermTrip := false } })) ∧
  (
  ∀ (hall : Nat) (s : State), s.regsOk → unpowered s = false → hall < 4 → swf (fun _ => freshHall) s.pwr.halls = true →
    (∀ pll, pll ≤ 2 → ∃ t, exec (.pllLockLoss hall pll) s = .next t ∧
      t = { s.withRegs t with pwr := { s.pwr with halls := t.pwr.halls }, run := { s.run with live := t.run.live } } ∧
      hallPower t hall = { hallPower s hall with
        gated := true, stretched := false, pll := if pll = 1 then 1 - (hallPower s hall).pll else (hallPower s hall).pll } ∧
      (fget t (lockField pll)).testBit hall = false ∧
      fget t Reg.CLK_LOCK_EVENTS.COUNT = min (fget s Reg.CLK_LOCK_EVENTS.COUNT + 1) (2 ^ 32 - 1) ∧
      (∀ p ∈ t.run.live, p.stage.isSome = true → (regionHalls s p.region).elem hall = true → ∀ h ∈ p.sessions, h ∈ p.poisoned) ∧
      t.run.live.length = s.run.live.length) ∧
    ((hallPower s hall).gated = true →
      ∃ t, exec (.hallRelockDone hall) s = .next t ∧ t = { s with regs := t.regs, pwr := { s.pwr with halls := t.pwr.halls } } ∧
        (∀ pll, pll ≤ 2 → (fget t (lockField pll)).testBit hall = true) ∧
        hallPower t hall = { hallPower s hall with gated := hallBusy s hall }))

/-! ### Ports and function-level resets (12, 19) -/

/-- R286, R227, R261: ports. On a powered module whose port A or B is up: its loss clears its link flag and its functions' bus mastering. In
joined mode, port A's loss halts every stream with its ring disabled and ends accessions in progress; port B's moves BULK transfers to
PF1, counted. In standby mode the active port's loss halts the streams and notes the time; the other port's leaves them. A port that
links shows it; the active port in standby mode is then in time. After TAKEOVER_MS the other port becomes active. Sessions, pages,
commands of carrels and packages stay throughout, unless a session is on its way out: where its function loses its bus mastering, its swap-out
fails and it is resident again.

R287, R266, R405, R227: function-level resets of a powered module. A VF's ends its carrel's sessions and comets, drops its loan
entries, its packets, its commands without records and its ring, and puts its registers back to reset but CAR.PASS; other carrels' sessions
and commands stay. PF0's drops the mailbox's blocks and EXPECTED_SEQ returns to 0, a request that was taken goes on. PF1's ends its stream
and accessions in progress. PF2's moves BULK transfers to PF1 in joined mode (with no session on its way out, R261). Each function loses its bus mastering and its MSI-X table. -/
def Obligations.HostPortsAndFunctionResets : Prop :=
  (
  ∀ s : State, s.regsOk → unpowered s = false →
    (linkUp s false = true → standbyMode s = false → noneLeaves s → ∃ t, exec (.portLinkLoss false) s = .next t ∧ linkUp t false = false ∧
      fget t Reg.INT_PORT_STATUS.LINK_A = 0 ∧ t.hst.linkB = s.hst.linkB ∧ (∀ f ∈ t.hst.master, f = .pf2 ∧ f ∈ s.hst.master) ∧
      (∀ c, c ≤ 1024 → (streamOf t c).halted = true ∧ fget t (Reg.CAR_RING_CTRL.ENABLE c) = 0) ∧
      (∀ c < 1024, t.itk.cmds.filter (fun k => k.stream == c) = s.itk.cmds.filter (fun k => k.stream == c)) ∧
      t.kv = s.kv ∧ t.img = s.img ∧ t.run = s.run ∧ t.clk = s.clk) ∧
    (linkUp s true = true → standbyMode s = false → noneLeaves s → ∃ t, exec (.portLinkLoss true) s = .next t ∧ linkUp t true = false ∧
      fget t Reg.INT_PORT_STATUS.LINK_B = 0 ∧ t.hst.linkA = s.hst.linkA ∧ .pf2 ∉ t.hst.master ∧ t.hst.bulkToPf1 = true ∧
      t = { s with regs := t.regs, hst := t.hst, out := t.out, loans := if s.hst.bulkToPf1 then s.loans else (rerouteLoans s).loans } ∧
      (s.hst.bulkToPf1 = false → fget t Reg.INT_BULK_STATUS.ROUTE = 1 ∧
        fget t Reg.INT_BULK_STATUS.FALLBACKS = min (fget s Reg.INT_BULK_STATUS.FALLBACKS + 1) (2 ^ 15 - 1))) ∧
    (∀ b, linkUp s b = true → standbyMode s = true → noneLeaves s → ∃ t, exec (.portLinkLoss b) s = .next t ∧ linkUp t b = false ∧
      t = { s with regs := t.regs, hst := t.hst, itk := { s.itk with streams := t.itk.streams }, out := t.out } ∧
      (if b = (fget s Reg.INT_PORT_STATUS.ACTIVE == 1) then t.hst.lostAt = some s.clk.tick ∧ ∀ c, c ≤ 1024 → (streamOf t c).halted = true
        else t.hst.lostAt = s.hst.lostAt ∧ t.itk = s.itk)) ∧
    (∀ b, linkUp s b = false → ∃ t, exec (.portLinkUp b) s = .next t ∧ linkUp t b = true ∧ linkUp t (!b) = linkUp s (!b) ∧
      t = { s with regs := t.regs, hst := t.hst } ∧ t.hst.master = s.hst.master ∧
      fget t (if b then Reg.INT_PORT_STATUS.LINK_B else Reg.INT_PORT_STATUS.LINK_A) = 1 ∧
      (standbyMode s = true → b = (fget s Reg.INT_PORT_STATUS.ACTIVE == 1) → t.hst.lostAt = none)) ∧
    (standbyMode s = true → s.hst.lostAt ≠ none → ∃ t, exec .standbyTakeover s = .next t ∧
      t = { s with regs := t.regs, hst := { s.hst with lostAt := none } } ∧
      fget t Reg.INT_PORT_STATUS.ACTIVE = 1 - fget s Reg.INT_PORT_STATUS.ACTIVE ∧
      fget t Reg.INT_PORT_STATUS.TAKEOVERS = min (fget s Reg.INT_PORT_STATUS.TAKEOVERS + 1) (2 ^ 16 - 1) ∧
      (∀ a, a ≠ Reg.INT_PORT_STATUS.ACTIVE.addr → rget t a = rget s a)) ∧
    (∀ fn on, ∃ t, exec (.busMasteringChange fn on) s = .next t ∧ (fn ∈ t.hst.master ↔ on = true) ∧
      (∀ f, f ≠ fn → (f ∈ t.hst.master ↔ f ∈ s.hst.master)) ∧
      (on = true ∨ noneLeaves s → t = { s with regs := t.regs, hst := t.hst }) ∧
      (∀ x h, on = false → findSession s h = some x → x.res = .swappingOut → swapFn s (handleCarrel h) = fn →
        (findSession t h).map (·.res) = some .resident) ∧
      (on = true → fn = .pf2 → linkUp s true = true → standbyMode s = false → t.hst.bulkToPf1 = false))) ∧
  (
  ∀ s : State, s.regsOk → unpowered s = false → swf (fun _ => freshStream) s.itk.streams = true → swf msixReset s.hst.msixTab = true →
    (∀ c < 1024, ∃ t, exec (.functionLevelResetVf c) s = .next t ∧ (∀ x ∈ t.kv.sessions, handleCarrel x.handle ≠ c) ∧
      (∀ x ∈ s.kv.sessions, handleCarrel x.handle ≠ c → x ∈ t.kv.sessions) ∧
      (∀ l ∈ t.loans, l.carrel ≠ c) ∧ t.itk.cmds = s.itk.cmds.filter (fun k => k.stream != c) ∧ streamOf t c = freshStream ∧
      (∀ a, carBase c ≤ a → a < carBase c + 0x118 → rget t a = if a = carBase c + 0x28 then rget s a else regReset a) ∧
      t.itk.carrels = s.itk.carrels ∧ (∀ f, f ∈ t.hst.master ↔ f ∈ s.hst.master ∧ f ≠ .vf c) ∧
      (∀ i < 16, msixWord t (16 * c + i) = msixReset i) ∧ (∀ v, (Fn.vf c, v) ∉ t.out.msixPend) ∧ t.img = s.img ∧ t.clk = s.clk) ∧
    (∃ t, exec .functionLevelResetPf0 s = .next t ∧
      t = { s with regs := t.regs, cur := { s.cur with mbx := { s.cur.mbx with blocks := [] } }, hst := t.hst, out := t.out } ∧
      fget t Reg.CUR_MBX_STATUS.EXPECTED_SEQ = 0 ∧ (∀ a, a ≠ Reg.CUR_MBX_STATUS.EXPECTED_SEQ.addr → rget t a = rget s a) ∧
      (∀ f, f ∈ t.hst.master ↔ f ∈ s.hst.master ∧ f ≠ .pf0)) ∧
    (noneLeaves s → ∃ t, exec .functionLevelResetPf1 s = .next t ∧ t.itk.cmds = s.itk.cmds.filter (fun k => k.stream != 1024) ∧
      streamOf t 1024 = freshStream ∧ t.kv = s.kv ∧ t.img = s.img ∧ (∀ f, f ∈ t.hst.master ↔ f ∈ s.hst.master ∧ f ≠ .pf1) ∧
      (swf (fun _ => freshAcc) s.acc = true → ∀ r < 16, (accOf t r).phase = .idle ∨ (accOf t r).phase = .flipPending ∨ (accOf t r).phase = .failed)) ∧
    (noneLeaves s → ∃ t, exec .functionLevelResetPf2 s = .next t ∧
      t = { s with regs := t.regs, hst := t.hst, out := t.out, loans := if s.hst.bulkToPf1 || standbyMode s then s.loans else (rerouteLoans s).loans } ∧
      (∀ f, f ∈ t.hst.master ↔ f ∈ s.hst.master ∧ f ≠ .pf2) ∧ (standbyMode s = false → t.hst.bulkToPf1 = true) ∧
      (standbyMode s = true → t.regs = s.regs)))

/-! ### Power states (16) -/

/-- R345, R346, R347, R355: entering a low state. With no pass in flight, no packet open or waiting and no background work, Run becomes
Idle. A request for Sleep, Deep sleep or Off from Run or Idle is refused with the reason of its first failed check, and nothing else
changes; from a deeper state, or where a wake event came first, it is refused with WOKEN. An accepted one without a wake event ends at its depth: STATE
and HALL_AWAKE show it, Deep sleep loses the halls' tiles, scribes and stores, and Off loses what a loss of power loses. AUTO_SLEEP from
Idle enters Sleep. With every Tsuyx port already disabled, LAST_RESULT reads OK after Sleep or Deep sleep.

R348: an entry that a wake event stops. The request reads WOKEN; a wake in its first step changes nothing else of the module but that
it is in Run with its halls awake (its ports train again where PORT_ROLES uses them). -/
def Obligations.LowStatesAreEntered : Prop :=
  (
  ∀ (nandOk : Bool) (s : State), s.regsOk →
    (s.pst.depth = 0 → s.run.live = [] → anyPacket s = false → backgroundRuns s = false →
      ∃ t, exec .idleEntry s = .next t ∧ t = { s with regs := t.regs, pst := { s.pst with depth := 1 } } ∧
        fget t Reg.PST_STATUS.STATE = 1 ∧ fget t Reg.PST_STATUS.HALL_AWAKE = 0 ∧
        (∀ a, a ≠ Reg.PST_STATUS.STATE.addr → rget t a = rget s a)) ∧
    (unpowered s = false → ∀ i ∈ [Instr.sleep nandOk none, .deepSleep nandOk none, .powerOff nandOk none],
      (1 < fget s Reg.PST_STATUS.STATE → exec i s = .next (fset s Reg.PST_STATUS.LAST_RESULT 5)) ∧
      (fget s Reg.PST_STATUS.STATE ≤ 1 → sleepCheck s ≠ 0 → exec i s = .next (fset s Reg.PST_STATUS.LAST_RESULT (sleepCheck s)))) ∧
    (unpowered s = false → fget s Reg.PST_STATUS.STATE ≤ 1 → sleepCheck s = 0 →
      (∃ t, exec (.sleep nandOk none) s = .next t ∧ t.pst.depth = 2 ∧ t.pst.awake = [] ∧ t.pst.waking = [] ∧ t.pst.sleptAon = s.clk.aon ∧
        fget t Reg.PST_STATUS.STATE = 2 ∧ fget t Reg.PST_STATUS.HALL_AWAKE = 0 ∧ t.img = s.img ∧ (s.run.live = [] → t.kv = s.kv) ∧
        t.scr = s.scr ∧ t.clk = s.clk ∧ ((∀ n < 24, fget s (Reg.TSX_CTRL.ENABLE n) = 0) → fget t Reg.PST_STATUS.LAST_RESULT = 0)) ∧
      (∃ t, exec (.deepSleep nandOk none) s = .next t ∧ t.pst.depth = 3 ∧ t.pst.awake = [] ∧ t.pst.waking = [] ∧ t.pst.sleptAon = s.clk.aon ∧
        fget t Reg.PST_STATUS.STATE = 3 ∧ fget t Reg.PST_STATUS.HALL_AWAKE = 0 ∧ t.img = s.img ∧ (s.run.live = [] → t.kv = s.kv) ∧ t.clk = s.clk ∧
        t.scr.tiles = [] ∧ t.scr.unit = [] ∧ t.scr.store = [] ∧ t.scr.hbm = s.scr.hbm ∧ t.arr.ledgers = [] ∧
        ((∀ n < 24, fget s (Reg.TSX_CTRL.ENABLE n) = 0) → fget t Reg.PST_STATUS.LAST_RESULT = 0)) ∧
      (∃ t, exec (.powerOff nandOk none) s = .next t ∧ unpowered t = true ∧ t.pst.inReset = false ∧ t.pst.cause = 2 ∧ t.pst.pwrGood = false ∧
        t.kv = State.reset.kv ∧ t.itk.cmds = [] ∧ t.scr = State.reset.scr ∧ t.img.store = s.img.store ∧ t.clk.aon = s.clk.aon)) ∧
    (s.pst.depth = 1 → fget s Reg.PST_CTRL.AUTO_SLEEP_MS ≠ 0 → sleepCheck s = 0 →
      ∃ t, exec (.autoSleep nandOk none) s = .next t ∧ t.pst.depth = 2 ∧ fget t Reg.PST_STATUS.STATE = 2 ∧ t.pst.sleptAon = s.clk.aon ∧
        t.img = s.img ∧ (s.run.live = [] → t.kv = s.kv) ∧ t.scr = s.scr)) ∧
  (
  ∀ (nandOk : Bool) (src : Nat) (s : State), s.regsOk → unpowered s = false → fget s Reg.PST_STATUS.STATE ≤ 1 → sleepCheck s = 0 →
    src < 16 → (∀ n < 24, portUsed s n = false) →
    ∀ i ∈ [Instr.sleep nandOk (some (1, src)), .deepSleep nandOk (some (1, src)), .powerOff nandOk (some (1, src))],
      ∃ t, exec i s = .next t ∧ t = { s with regs := t.regs, pst := { s.pst with depth := 0, awake := [], waking := [] } } ∧
        fget t Reg.PST_STATUS.LAST_RESULT = 5 ∧ fget t Reg.PST_STATUS.STATE = 0 ∧ fget t Reg.PST_STATUS.HALL_AWAKE = 0xF ∧
        fget t Reg.PST_STATUS.WAKE_SRC = src ∧ (∀ a, a ≠ Reg.PST_STATUS.STATE.addr → rget t a = rget s a))

/-- R349, R350, R352, R353, R403: waking. In Sleep or Deep sleep (nothing awake or waking), a BAR access, a link exit, an addressed
sideband with WAKE_EN set, and WAKE_N each start a wake: the tick advances by the always-on time slept, STATE shows it, and the domain
that the event reaches and the concourse's register logic begin to wake. A read of a domain not ready is held; when its hold expires it
returns all ones and is counted. A domain that is reached becomes ready, with no held access for it nothing else changes, and the last one
ends the low state. In Off with the standby rail, the sideband and WAKE_N drive WAKE_N and note the source instead. -/
def Obligations.WakeEventsWake : Prop :=
  ∀ s : State, s.regsOk →
    ((s.pst.depth = 2 ∨ s.pst.depth = 3) → (fget s Reg.PST_STATUS.STATE = 2 ∨ fget s Reg.PST_STATUS.STATE = 3) → s.pst.awake = [] → s.pst.waking = [] →
      ∀ i src d, ((∃ fn off width, i = Instr.wakeEvent 2 false fn off width ∧ src = 2 ∧ d = accessDomain fn off) ∨
          (∃ fn off width, i = Instr.wakeEvent 1 false fn off width ∧ src = 1 ∧ d = accessDomain fn off) ∨
          (∃ fn off width, i = Instr.wakeEvent 3 false fn off width ∧ src = 3 ∧ d = 1) ∨
          (i = Instr.sidebandAddressMatch (fget s Reg.PST_SB_CTRL.ADDR) ∧ fget s Reg.PST_SB_CTRL.WAKE_EN ≠ 0 ∧ src = 4 ∧ d = 2) ∨
          (i = Instr.wakeNAssert ∧ src = 5 ∧ d = 1)) →
        ∃ t, exec i s = .next t ∧ t.pst.waking = (if d = 1 then [1] else [1, d]) ∧ t.pst.awake = [] ∧ t.pst.depth = s.pst.depth ∧
          fget t Reg.PST_STATUS.STATE = 5 ∧ fget t Reg.PST_STATUS.WAKE_SRC = src ∧
          t.clk = { s.clk with tick := (s.clk.tick + aonToUs (s.clk.aon - s.pst.sleptAon)) % 2 ^ 64 } ∧
          fget t Reg.PST_STATS.WAKES = min (fget s Reg.PST_STATS.WAKES + 1) (2 ^ 16 - 1) ∧
          t = { s with regs := t.regs, clk := t.clk, pst := { s.pst with waking := t.pst.waking, reads := t.pst.reads } } ∧
          (∀ fn off width, i = Instr.wakeEvent 1 false fn off width → t.pst.reads = s.pst.reads ++
            [{ standby := false, fn := fn, off := off, width := width, domain := d, found := fget s Reg.PST_STATUS.STATE }]) ∧
          (src ≠ 1 → t.pst.reads = s.pst.reads)) ∧
    (∀ r rs, s.pst.reads = r :: rs → ∃ t, exec .readHoldExpiry s = .next t ∧ t.pst = { s.pst with reads := rs } ∧
      t.out.reads = (r.fn, r.off, List.replicate r.width 0xFF) :: s.out.reads ∧
      fget t Reg.PST_STATS.EARLY_READS = min (fget s Reg.PST_STATS.EARLY_READS + 1) (2 ^ 16 - 1) ∧
      t = { s with regs := t.regs, pst := t.pst, out := { s.out with reads := t.out.reads } }) ∧
    (∀ d, (s.pst.depth = 2 ∨ s.pst.depth = 3) → d < 4 → s.pst.waking = [d] → (∀ w ∈ s.pst.writes, accessDomain w.1 w.2.1 ≠ d) →
      (∀ r ∈ s.pst.reads, r.domain ≠ d) →
      ∃ t, exec (.wakeDomainReady d) s = .next t ∧ fget t Reg.PST_STATUS.STATE = 0 ∧ domainReady t d = true ∧ t.pst.waking = [] ∧
        t.pst.depth = (if allDomains.all (s.pst.awake ++ [d]).elem then 0 else s.pst.depth) ∧
        t = { s with regs := t.regs, pst := t.pst } ∧ t.pst.writes = s.pst.writes ∧ t.pst.reads = s.pst.reads) ∧
    (unpowered s = true → s.pst.inReset = false → s.pst.vstby = true →
      exec .wakeNAssert s = .next { s with pst := { s.pst with wakeN := true, wakeSrc := 5 } } ∧
      (fget s Reg.PST_SB_CTRL.WAKE_EN ≠ 0 →
        exec (.sidebandAddressMatch (fget s Reg.PST_SB_CTRL.ADDR)) s = .next { s with pst := { s.pst with wakeN := true, wakeSrc := 4 } })) ∧
    (fget s Reg.PST_SB_CTRL.WAKE_EN = 0 → ∀ addr, exec (.sidebandAddressMatch addr) s = .next s)

/-! ### Intake: packets, rings, commands (12) -/

/-- R270, R271, R273: a whole packet written to an empty aperture at NEXT_OFFSET, on a running stream whose queue has room. The first
framing check that fails (LEN out of range, CRC, sequence number, body length) halts the stream with its reason: its blocks are discarded,
NEXT_OFFSET and EXPECTED_SEQ stay, and no command is added. Otherwise the packet is consumed: one command with the packet's SEQ, TAG, opcode and body
joins the queue, waiting, or finished with FORMAT or DENIED where its body or its function does not fit; EXPECTED_SEQ rises by one,
NEXT_OFFSET by 64 × LEN modulo 1 MiB. Other streams, sessions and passes stay.

R271, R272, R426, R408: the aperture writes that consume nothing. While the packet at NEXT_OFFSET stays incomplete, the bytes are laid
into the stream's blocks and nothing else changes. A write to a halted stream, to a carrel whose ENABLE is 0, or before the intake is up
changes nothing; one through the standby port changes only the annals, which record it. -/
def Obligations.PacketsAreConsumedOrWait : Prop :=
  (
  ∀ (c n : Nat) (bytes : Bytes) (s : State), s.regsOk → swf (fun _ => freshStream) s.itk.streams = true → c ≤ 1024 →
    unpowered s = false → s.pst.depth = 0 → streamState s c = 1 → streamEnabled s c = true → (streamOf s c).blocks = [] →
    outstanding s c < queueLimit c → 1 ≤ n → n ≤ 1024 → bytes.length = 64 * n → rd bytes 0 2 = n →
    fget s (Reg.INT_STATUS.NEXT_OFFSET c) % 64 = 0 →
    ∃ t, exec (.packetBlockWrite c false (fget s (Reg.INT_STATUS.NEXT_OFFSET c)) bytes) s = .next t ∧
      t = { s with regs := t.regs, itk := { s.itk with streams := t.itk.streams, cmds := t.itk.cmds }, out := t.out } ∧
      (∀ d, d ≠ c → streamOf t d = streamOf s d) ∧ (streamOf t c).blocks = [] ∧
      (∀ a, a ≠ (Reg.INT_STATUS.NEXT_OFFSET c).addr → rget t a = rget s a) ∧
      match framingFault s c bytes with
      | some reason => (streamOf t c).halted = true ∧ fget t (Reg.INT_STATUS.HALT_REASON c) = reason ∧ t.itk.cmds = s.itk.cmds ∧
          fget t (Reg.INT_STATUS.NEXT_OFFSET c) = fget s (Reg.INT_STATUS.NEXT_OFFSET c) ∧
          fget t (Reg.INT_STATUS.EXPECTED_SEQ c) = fget s (Reg.INT_STATUS.EXPECTED_SEQ c)
      | none => (streamOf t c).halted = false ∧ t.itk.cmds = s.itk.cmds ++ [commandOf s c bytes] ∧
          fget t (Reg.INT_STATUS.NEXT_OFFSET c) = (fget s (Reg.INT_STATUS.NEXT_OFFSET c) + 64 * n) % 2 ^ 20 ∧
          fget t (Reg.INT_STATUS.EXPECTED_SEQ c) = (fget s (Reg.INT_STATUS.EXPECTED_SEQ c) + 1) % 2 ^ 32) ∧
  (
  ∀ (c off : Nat) (bytes : Bytes) (s : State), s.regsOk → unpowered s = false →
    (s.pst.depth = 0 → intakeUp s = true → streamEnabled s c = true → (streamOf s c).halted = false →
      packetComplete (modStream s c fun x => { x with blocks := putBytes x.blocks off bytes }) c = false →
      exec (.packetBlockWrite c false off bytes) s = .next (modStream s c fun x => { x with blocks := putBytes x.blocks off bytes })) ∧
    ((streamOf s c).halted = true ∨ streamEnabled s c = false ∨ intakeUp s = false →
      exec (.packetBlockWrite c false off bytes) s = .next s) ∧
    (standbyMode s = true → ∃ t, exec (.packetBlockWrite c true off bytes) s = .next t ∧ t = s.withRegs t ∧ s.regsFrom t [] ∧
      recorded s t 0x0C00 1 off (leNat (bytes.take 8)) 0))

/-- R273, R274, R281, R284, R288: a stream's events. A stall halts the stream with TORN and reason 1, its blocks discarded and its place
kept. RESYNC on a halted stream sets EXPECTED_SEQ and NEXT_OFFSET to the written values, clears the blocks and the reason, and the stream
runs again; elsewhere it is ignored and recorded. Setting ENABLE of a ring starts it at index 0 with PHASE 1; clearing it needs no
outstanding command and is ignored and recorded otherwise. A moderation timeout with records unsignalled raises vector 0. -/
def Obligations.StreamEvents : Prop :=
  ∀ (c : Nat) (s : State), s.regsOk → c ≤ 1024 → swf (fun _ => freshStream) s.itk.streams = true →
    (streamState s c = 1 → packetOpen s c = true → ∃ t, exec (.stallTimeout c) s = .next t ∧
      t = { s with regs := t.regs, itk := { s.itk with streams := t.itk.streams }, out := t.out } ∧
      (streamOf t c).halted = true ∧ (streamOf t c).blocks = [] ∧ fget t (Reg.INT_STATUS.HALT_REASON c) = haltStall ∧
      fget t (Reg.INT_STATUS.EXPECTED_SEQ c) = fget s (Reg.INT_STATUS.EXPECTED_SEQ c) ∧
      fget t (Reg.INT_STATUS.NEXT_OFFSET c) = fget s (Reg.INT_STATUS.NEXT_OFFSET c) ∧ (∀ d, d ≠ c → streamOf t d = streamOf s d)) ∧
    (∀ value, unpowered s = false → (streamOf s c).halted = true → nbits value 0 20 % 64 = 0 →
      ∃ t, exec (.resync c false value) s = .next t ∧ t = { s with regs := t.regs, itk := { s.itk with streams := t.itk.streams }, out := t.out } ∧
        streamOf t c = { streamOf s c with blocks := [], halted := false } ∧ (∀ d, d ≠ c → streamOf t d = streamOf s d) ∧
        fget t (Reg.INT_STATUS.EXPECTED_SEQ c) = nbits value 32 32 ∧ fget t (Reg.INT_STATUS.NEXT_OFFSET c) = nbits value 0 20 ∧
        fget t (Reg.INT_STATUS.HALT_REASON c) = 0 ∧ (∀ a, a ≠ (Reg.INT_STATUS.NEXT_OFFSET c).addr → rget t a = rget s a)) ∧
    (∀ value standby, unpowered s = false →
      ((streamOf s c).halted = false ∨ standbyPort s standby = true ∨ nbits value 0 20 % 64 ≠ 0) →
      ∃ t, exec (.resync c standby value) s = .next t ∧ t = s.withRegs t ∧ s.regsFrom t [] ∧ recorded s t 0x0C00 1 0x110 value 0) ∧
    (∀ log2, 6 ≤ log2 → log2 ≤ 16 → unpowered s = false → intakeUp s = true → ringOn s c = false → packetComplete s c = false →
      ∃ t, exec (.ringEnable c false (log2 * 256 + 1)) s = .next t ∧ ringOn t c = true ∧ ringRecords t c = 2 ^ log2 ∧
        streamOf t c = { streamOf s c with index := 0, phase := true, unsignalled := 0 } ∧
        t = { s with regs := t.regs, itk := { s.itk with streams := t.itk.streams }, out := t.out } ∧
        (∀ a, a ≠ (Reg.CAR_RING_CTRL.ENABLE c).addr → rget t a = rget s a)) ∧
    (unpowered s = false → ringOn s c = true →
      6 ≤ fget s (Reg.CAR_RING_CTRL.LOG2_RECORDS c) → fget s (Reg.CAR_RING_CTRL.LOG2_RECORDS c) ≤ 16 →
      ∃ t, exec (.ringEnable c false (fget s (Reg.CAR_RING_CTRL.LOG2_RECORDS c) * 256)) s = .next t ∧ t = s.withRegs t ∧
        (outstanding s c = 0 → ringOn t c = false ∧ t.ann = s.ann) ∧
        (outstanding s c ≠ 0 → ringOn t c = true ∧ recorded s t 0x0C00 1 8 (fget s (Reg.CAR_RING_CTRL.LOG2_RECORDS c) * 256) 0)) ∧
    (0 < (streamOf s c).unsignalled → ∃ t, exec (.irqModerationTimeout c) s = .next t ∧
      t = { s with itk := { s.itk with streams := t.itk.streams }, out := (msix s (streamFn c) 0).out } ∧
      streamOf t c = { streamOf s c with unsignalled := 0 } ∧
      (fnUp s (streamFn c) = true → if msixMasked s (streamFn c) 0 = true then (streamFn c, 0) ∈ t.out.msixPend else t.out.msix = (streamFn c, 0) :: s.out.msix))

/-- R280, R276: what begins. With a command ready, COMMAND_BEGIN takes one of those of the best rank (PF1 before every carrel, then the
higher PRIORITY), and it begins, or finishes with the status that its sessions or regions give; no other command changes. With none ready,
nothing changes. A FENCE finishes exactly when every earlier command of its stream has sealed.

R92, R279, R38: RECIPE_SET. A begun KIND 0 from PF1, or from a carrel whose REGION_MASK holds every region named, whose entries may all
stand, puts its entries among those that wait for a pass boundary, the later one of a stage standing; the recipes in force stay. Entries
of a region outside the mask finish it with DENIED, others that may not stand with FORMAT, those of a region that is offline with
REGION_OFFLINE, and nothing waits. KIND 1, on consumption, sets
the named carrel's priority. (Regions of an orbit also tell its members.) -/
def Obligations.CommandsBeginAndSet : Prop :=
  (
  ∀ s : State,
    (∀ k, nextCmd s = some k → findCmd s k.stream k.seq = some k →
      k ∈ s.itk.cmds ∧ (∀ j ∈ readyCmds s [] s.itk.cmds, serviceRank s k ≤ serviceRank s j) ∧
      ∃ t, exec .commandBegin s = .next t ∧ t = { s with itk := { s.itk with cmds := t.itk.cmds } } ∧
        t.itk.cmds.length = s.itk.cmds.length ∧ (∀ x ∈ s.itk.cmds, x ≠ k → x ∈ t.itk.cmds) ∧
        findCmd t k.stream k.seq = some (match beginStatus s k with
          | none => { k with phase := .begun }
          | some st => { k with phase := .finished, status := st, value := 0 })) ∧
    (nextCmd s = none → exec .commandBegin s = .next s) ∧
    (∀ stream seq k, findCmd s stream seq = some k → k.phase = .waiting → k.op = 0x0D →
      (earlierSealed stream seq s.itk.cmds = true → ∃ t, exec (.fenceCmd stream seq) s = .next t ∧
        t = { s with itk := { s.itk with cmds := t.itk.cmds } } ∧
        findCmd t stream seq = some { k with phase := .finished, status := stOk, value := 0 }) ∧
      (earlierSealed stream seq s.itk.cmds = false → exec (.fenceCmd stream seq) s = .next s))) ∧
  (
  ∀ (c seq : Nat) (k : Cmd) (s : State), findCmd s c seq = some k →
    (k.phase = .begun → k.op = 0x0B → rd k.body 0 1 = 0 →
      let es := recipeEntries k.body
      let denied := c < 1024 ∧ ∃ x ∈ es, (carrelNow s c).mask.testBit x.region = false
      (denied → ∃ t, exec (.recipeSet c seq) s = .next t ∧ t = { s with itk := { s.itk with cmds := t.itk.cmds } } ∧
        findCmd t c seq = some { k with phase := .finished, status := stDenied, value := 0 }) ∧
      (¬ denied → (∃ x ∈ es, recipeSetOk s x = false) → ∃ t, exec (.recipeSet c seq) s = .next t ∧
        t = { s with itk := { s.itk with cmds := t.itk.cmds } } ∧
        findCmd t c seq = some { k with phase := .finished, status := stFormat, value := 0 }) ∧
      (¬ denied → (∀ x ∈ es, recipeSetOk s x = true) → (∃ x ∈ es, offline s x.region = true) → ∃ t, exec (.recipeSet c seq) s = .next t ∧
        t = { s with itk := { s.itk with cmds := t.itk.cmds } } ∧
        findCmd t c seq = some { k with phase := .finished, status := stOffline, value := 0 }) ∧
      (¬ denied → (∀ x ∈ es, recipeSetOk s x = true ∧ offline s x.region = false ∧ orbitRegion s x.region = false) → ∃ t, exec (.recipeSet c seq) s = .next t ∧
        t = { s with itk := { s.itk with cmds := t.itk.cmds }, img := { s.img with nextRecipes := t.img.nextRecipes } } ∧
        findCmd t c seq = some { k with phase := .finished, status := stOk, value := 0 } ∧
        (∀ (i : Nat) (x : Recipe), es[i]? = some x → (∀ (j : Nat) (y : Recipe), i < j → es[j]? = some y → y.region ≠ x.region ∨ y.stage ≠ x.stage) → x ∈ t.img.nextRecipes) ∧
        (∀ y ∈ t.img.nextRecipes, y ∈ es ∨ y ∈ s.img.nextRecipes) ∧
        (∀ y ∈ s.img.nextRecipes, (∀ x ∈ es, x.region ≠ y.region ∨ x.stage ≠ y.stage) → y ∈ t.img.nextRecipes))) ∧
    (k.phase = .waiting → k.op = 0x0B → rd k.body 0 1 = 1 → s.carrelsOk →
      ∃ t, exec (.priorityChange c seq) s = .next t ∧ t = { s with itk := { s.itk with cmds := t.itk.cmds, carrels := t.itk.carrels } } ∧
        priorityOf t (rd k.body 8 2) = rd k.body 0xA 1 ∧ (∀ n, n ≠ rd k.body 8 2 → priorityOf t n = priorityOf s n) ∧
        (∀ n, (carrelSt t n).nextPass = (carrelSt s n).nextPass) ∧
        findCmd t c seq = some { k with phase := .finished, status := stOk, value := 0 }))

/-- R281, R283, R284, R272: the seal of a finished command. Its completion record goes out as 32 bytes at the ring's next index, which
advances and wraps with PHASE inverted; vector 0 follows IRQ or the moderation count; the command is sealed and no longer outstanding.
While the ring is disabled no record is written. An ABORT that waited for it finishes, OK where the command was stopped and ALREADY_COMPLETE
where it ran on. (Here no further packet waits in the aperture; one that does is consumed as the slot frees.)

R285: ABORT, effective on consumption. Its target is the latest command of the stream with that number: with none, its own number, or
an accession command, it finishes with FORMAT, its VALUE the number that it names; a sealed target gives ALREADY_COMPLETE with the target's COUNT; a waiting one, with no pass
in flight and no run on the scribes, is stopped at once with ABORTED, and the ABORT waits for its seal. -/
def Obligations.SealsAndAborts : Prop :=
  (
  ∀ (c seq : Nat) (k : Cmd) (s : State), s.regsOk → swf (fun _ => freshStream) s.itk.streams = true → c ≤ 1024 →
    findCmd s c seq = some k → k.phase = .finished → packetComplete s c = false → (∀ a ∈ k.abortedBy, a ≠ seq) →
    ∃ t, exec (.commandSeal c seq) s = .next t ∧ t = { s with itk := { s.itk with streams := t.itk.streams, cmds := t.itk.cmds }, out := t.out } ∧
      (k.abortedBy = [] → outstanding t c + 1 = outstanding s c) ∧
      (ringOn s c = false → t.out = s.out ∧ streamOf t c = streamOf s c) ∧
      (ringOn s c = true → fnUp s (streamFn c) = true →
        t.out.dma = ⟨streamFn c, (ringBase s c + 64 + 32 * (streamOf s c).index) % 2 ^ 64,
          recordBytes k.tag k.seq k.pass k.status (streamOf s c).phase (k.flags ||| vigilFlags s k) k.op (recordCount k) (recordValue k)
            (s.clk.tick % 2 ^ 32)⟩ :: s.out.dma ∧
        (streamOf t c).index = (if (streamOf s c).index + 1 = ringRecords s c then 0 else (streamOf s c).index + 1) ∧
        (streamOf t c).phase = (if (streamOf s c).index + 1 = ringRecords s c then !(streamOf s c).phase else (streamOf s c).phase) ∧
        (if k.irq = true ∨ fget s (Reg.CAR_IRQ_MOD.COUNT c) ≤ (streamOf s c).unsignalled + 1
          then (if msixMasked s (streamFn c) 0 = true then t.out.msix = s.out.msix ∧ (streamFn c, 0) ∈ t.out.msixPend
            else t.out.msix = (streamFn c, 0) :: s.out.msix) ∧ (streamOf t c).unsignalled = 0
          else t.out.msix = s.out.msix ∧ (streamOf t c).unsignalled = (streamOf s c).unsignalled + 1)) ∧
      (∀ a x, k.abortedBy = [a] → findCmd s c a = some x → findCmd t c a = some { x with
        phase := .finished, status := if k.status = stAborted then stOk else stAlready, count := recordCount k, value := k.seq })) ∧
  (
  ∀ (c seq : Nat) (a : Cmd) (s : State), findCmd s c seq = some a → a.phase = .waiting → a.op = 0x0C →
    ((abortTarget s c (rd a.body 0 4) = none ∨ (∃ k, abortTarget s c (rd a.body 0 4) = some k ∧ (rd a.body 0 4 = seq ∨ 0x20 ≤ k.op))) →
      ∃ t, exec (.abortCmd c seq) s = .next t ∧ t = { s with itk := { s.itk with cmds := t.itk.cmds } } ∧
        findCmd t c seq = some { a with phase := .finished, status := stFormat, value := rd a.body 0 4 }) ∧
    (∀ k, abortTarget s c (rd a.body 0 4) = some k → rd a.body 0 4 ≠ seq → k.op < 0x20 → k.phase = .sealed →
      ∃ t, exec (.abortCmd c seq) s = .next t ∧ t = { s with itk := { s.itk with cmds := t.itk.cmds } } ∧
        findCmd t c seq = some { a with phase := .finished, status := stAlready, count := k.count, value := rd a.body 0 4 }) ∧
    (∀ k, abortTarget s c (rd a.body 0 4) = some k → findCmd s c (rd a.body 0 4) = some k → rd a.body 0 4 ≠ seq → k.op < 0x20 →
      k.phase = .waiting → passInFlight s k = false →
      ∃ t, exec (.abortCmd c seq) s = .next t ∧
        findCmd t c (rd a.body 0 4) = some { k with
          phase := .finished, status := stAborted, aborted := true, passesLeft := 0, abortedBy := k.abortedBy ++ [seq] } ∧
        findCmd t c seq = some { a with phase := .begun } ∧ t.regs = s.regs ∧ t.img = s.img ∧ t.run = s.run ∧
        t.itk.streams = s.itk.streams))

/-- R276, R258, R264: sessions. A begun SESSION_OPEN whose checks pass creates one session in a slot that no session holds: its handle
carries the issuing carrel and is no present handle, it is resident and empty with the body's region and sampling parameters, and the
command answers the handle; one whose checks fail finishes with the first failing status and creates none; one of a carrel that a bind in
progress needs idle waits for the bind's end (R34). A begun SESSION_CLOSE ends the
named session in whatever state it is, and with it its swap; every other session stays. (Regions of an orbit also tell its members.)

R277, R276, R278: a begun TOKENS takes its tokens, inline or as fetched, and asks for 1 + GENERATE passes; a token at or beyond the
vocabulary, or a fetch that brings no or too few bytes, finishes it with FORMAT. A begun STEP settles its entries: each session that may
not take part (a repeat, another carrel's, a closed one, of another region, dead, or with nothing sampled) has its entry written with its
status; if every one is refused the command finishes, else it asks for one pass. -/
def Obligations.SessionsTokensAndSteps : Prop :=
  (
  ∀ (c seq : Nat) (k : Cmd) (s : State), c < 1024 → findCmd s c seq = some k → k.phase = .begun →
    (k.op = 0x01 → heldByBind s k = true → exec (.sessionOpen c seq) s = .next s) ∧
    (k.op = 0x01 → heldByBind s k = false → openStatus s c k.body ≠ stOk → ∃ t, exec (.sessionOpen c seq) s = .next t ∧
      t = { s with itk := { s.itk with cmds := t.itk.cmds } } ∧
      findCmd t c seq = some { k with phase := .finished, status := openStatus s c k.body, value := 0 }) ∧
    (k.op = 0x01 → heldByBind s k = false → openStatus s c k.body = stOk → orbitRegion s (rd k.body 0 1) = false →
      ∃ t h, exec (.sessionOpen c seq) s = .next t ∧
        t = { s with itk := { s.itk with cmds := t.itk.cmds }, kv := { s.kv with sessions := t.kv.sessions, reuse := t.kv.reuse } } ∧
        t.kv.sessions = s.kv.sessions ++ [newSession h k.body] ∧ handleCarrel h = c ∧ h < 0xFFFFFFFF ∧
        (∀ x ∈ s.kv.sessions, handleSlot x.handle ≠ handleSlot h) ∧
        findCmd t c seq = some { k with phase := .finished, status := stOk, value := h }) ∧
    (k.op = 0x02 → (∀ x, findSession s (rd k.body 0 4) = some x → orbitRegion s x.region = false) →
      ∃ t, exec (.sessionClose c seq) s = .next t ∧ findSession t (rd k.body 0 4) = none ∧
        (∀ x ∈ s.kv.sessions, x.handle ≠ rd k.body 0 4 → x ∈ t.kv.sessions) ∧
        (findSession s (rd k.body 0 4) ≠ none → ∀ w ∈ t.kv.swaps, w.session ≠ rd k.body 0 4) ∧
        findCmd t c seq = some { k with
          phase := .finished, status := stOk, value := 0, closed := (findSession s (rd k.body 0 4)).map (·.region) } ∧
        t.regs = s.regs ∧ t.img = s.img ∧ t.run = s.run)) ∧
  (
  ∀ (c seq : Nat) (f : Fetch) (k : Cmd) (s : State), findCmd s c seq = some k → k.phase = .begun →
    (k.op = 0x03 →
      let n := rd k.body 4 4
      let vocab := s.img.bound.vocab (((findSession s (rd k.body 0 4)).map (·.region)).getD 0)
      let toks := if rd k.body 0xC 4 = 1 then (match f with | .data b => b.take (4 * n) | _ => []) else slice k.body 0x20 (4 * n)
      ∃ t, exec (.tokensCmd c seq f) s = .next t ∧ t = { s with itk := { s.itk with cmds := t.itk.cmds } } ∧
        (0 < n → toks.length = 4 * n → allBelow vocab toks = true →
          findCmd t c seq = some { k with fetched := toks, passesLeft := 1 + rd k.body 8 4 }) ∧
        (0 < n → toks.length ≠ 4 * n ∨ allBelow vocab toks = false →
          findCmd t c seq = some { k with phase := .finished, status := stFormat, value := 0 })) ∧
    (k.op = 0x04 → k.passesLeft = 0 →
      ∃ t, exec (.stepCmd c seq) s = .next t ∧
        t = { s with itk := { s.itk with cmds := t.itk.cmds }, out := { s.out with dma := t.out.dma }, free := t.free } ∧
        ∃ x, findCmd t c seq = some x ∧ x.entries = stepEntries s k ∧
          (∀ e ∈ x.entries, e.token = 0xFFFFFFFF) ∧
          (if (stepEntries s k).length = rd k.body 2 2 then x.phase = .finished ∧ x.passesLeft = 0 else x.phase = .begun ∧ x.passesLeft = 1) ∧
          (∀ e ∈ stepEntries s k, fnUp s (streamFn c) = true →
            (⟨streamFn c, (rd k.body 8 8 + 16 * e.idx) % 2 ^ 64, entryBytes e⟩ : Dma) ∈ t.out.dma)))

/-! ### KV pages and comets (11) -/

/-- R256, R252: PAGE_FORK. A begun fork whose checks pass gives the child, which holds no page, the parent's pages below LENGTH by
reference, with COW set and one reference more on each (each page being held once by the parent), the parent's KV hall and LENGTH as its length; the parent stays.
One whose checks fail finishes with the first failing status, and no page or session changes.

R258: PAGE_RELEASE. A begun release of a resident session truncates it to KEEP, at most its length: pages wholly at or beyond KEEP
leave it, the others stay; a KEEP beyond its length is FORMAT, and a session that is away is PREEMPTED. Other sessions stay. -/
def Obligations.ForksAndReleasesOfPages : Prop :=
  (
  ∀ (c seq : Nat) (k : Cmd) (s : State), findCmd s c seq = some k → k.phase = .begun → k.op = 0x07 →
    (forkStatus s k.body ≠ stOk → ∃ t, exec (.pageFork c seq) s = .next t ∧ t = { s with itk := { s.itk with cmds := t.itk.cmds } } ∧
      findCmd t c seq = some { k with phase := .finished, status := forkStatus s k.body, value := 0 }) ∧
    (∀ p x h, forkStatus s k.body = stOk → findSession s (rd k.body 0 4) = some p → findSession s (rd k.body 4 4) = some x →
      x.pages = [] → p.hall = some h → rd k.body 0 4 ≠ rd k.body 4 4 → swf (fun _ => freePage) s.kv.pages = true →
      (p.pages.map fun q => q.2.2).Nodup → (∀ q ∈ p.pages, q.2.2 < 262144) →
      ∃ t, exec (.pageFork c seq) s = .next t ∧
        t = { s with itk := { s.itk with cmds := t.itk.cmds }, kv := { s.kv with sessions := t.kv.sessions, pages := t.kv.pages } } ∧
        findSession t (rd k.body 0 4) = some p ∧
        findSession t (rd k.body 4 4) = some { x with
          pages := p.pages.filter fun q => decide (pageFirst q.2.1 < rd k.body 8 4), length := rd k.body 8 4, hall := some h } ∧
        (∀ q ∈ p.pages, pageAt t h q.2.2 = if pageFirst q.2.1 < rd k.body 8 4
          then { pageAt s h q.2.2 with refs := (pageAt s h q.2.2).refs + 1, cow := true } else pageAt s h q.2.2) ∧
        findCmd t c seq = some { k with phase := .finished, status := stOk, value := 0 })) ∧
  (
  ∀ (c seq : Nat) (k : Cmd) (x : Session) (s : State), findCmd s c seq = some k → k.phase = .begun → k.op = 0x08 →
    findSession s (rd k.body 0 4) = some x →
    (rd k.body 4 4 ≤ x.length → x.res = .resident → ∃ t, exec (.pageRelease c seq) s = .next t ∧
      findSession t x.handle = some { x with
        length := rd k.body 4 4, pages := x.pages.filter fun q => decide (pageFirst q.2.1 < rd k.body 4 4) } ∧
      (∀ y ∈ s.kv.sessions, y.handle ≠ x.handle → y ∈ t.kv.sessions) ∧
      findCmd t c seq = some { k with phase := .finished, status := stOk, value := 0 } ∧
      t = { s with itk := { s.itk with cmds := t.itk.cmds }, kv := { s.kv with sessions := t.kv.sessions, pages := t.kv.pages, bad := t.kv.bad } }) ∧
    (x.length < rd k.body 4 4 → ∃ t, exec (.pageRelease c seq) s = .next t ∧ t = { s with itk := { s.itk with cmds := t.itk.cmds } } ∧
      findCmd t c seq = some { k with phase := .finished, status := stFormat, value := 0 }) ∧
    (rd k.body 4 4 ≤ x.length → x.res ≠ .resident → ∃ t, exec (.pageRelease c seq) s = .next t ∧
      t = { s with itk := { s.itk with cmds := t.itk.cmds } } ∧
      findCmd t c seq = some { k with phase := .finished, status := stPreempted, value := 0 }))

/-- R264, R261, R262: a session leaves for the host. A begun SWAP_OUT of a resident session with room in its carrel's swap region reserves
an extent and starts the swap; with no room it is NO_SPACE; for a comet it is OK at once. When the flush is confirmed, the body and then
the colophon record go out to the extent; when the colophon reads back as written, the session is a comet without pages, and the waiting
SWAP_OUT is done. A step whose read fails, or whose function cannot move data, leaves the session resident with no extent; a BULK transfer that
port B lost is issued again through PF1 and does not count as failed (R227). -/
def Obligations.SessionsLeaveForTheHost : Prop :=
  ∀ (x : Session) (s : State), findSession s x.handle = some x →
    (∀ c seq k, findCmd s c seq = some k → k.phase = .begun → k.op = 0x09 → rd k.body 0 4 = x.handle →
      (x.res = .resident → ∀ s1, reserveExtent s x = some s1 → ∃ t e, exec (.swapOut c seq) s = .next t ∧
        findSession t x.handle = some { x with res := .swappingOut, swapStep := 2, extent := some (e, extentUnits s x) } ∧
        t.kv.swaps = s.kv.swaps ++ [⟨x.handle, c, seq, true, s.clk.epoch⟩] ∧
        t = { s with kv := { s.kv with sessions := t.kv.sessions, swaps := t.kv.swaps } }) ∧
      (x.res = .resident → reserveExtent s x = none → ∃ t, exec (.swapOut c seq) s = .next t ∧
        t = { s with itk := { s.itk with cmds := t.itk.cmds } } ∧
        findCmd t c seq = some { k with phase := .finished, status := stNoSpace, value := 0 }) ∧
      (x.res = .comet → ∃ t, exec (.swapOut c seq) s = .next t ∧ t = { s with itk := { s.itk with cmds := t.itk.cmds } } ∧
        findCmd t c seq = some { k with phase := .finished, status := stOk, value := 0 })) ∧
    (∀ b e, x.res = .swappingOut → x.swapStep = 2 → x.extent = some e → fnUp s (swapFn s (handleCarrel x.handle)) = true → ∃ t, exec (.swapOutFlushReadDone x.handle (.data b)) s = .next t ∧
      findSession t x.handle = some { x with swapStep := 4, swapBody := (extentBody s x).length, swapDigest := shake256 (extentBody s x) } ∧
      t = { s with kv := { s.kv with sessions := t.kv.sessions }, out := { s.out with dma := t.out.dma } } ∧
      (t.out.dma =
        ⟨swapFn s (handleCarrel x.handle), swapAddr s (handleCarrel x.handle) e.1 % 2 ^ 64, leavingColophon s x⟩ ::
        ⟨swapFn s (handleCarrel x.handle), swapAddr s (handleCarrel x.handle) (e.1 + 1) % 2 ^ 64, extentBody s x⟩ :: s.out.dma)) ∧
    (x.res = .swappingOut → x.swapStep = 4 → fnUp s (swapFn s (handleCarrel x.handle)) = true → ∃ t, exec (.swapOutColophonReadDone x.handle (.data (leavingColophon s x))) s = .next t ∧
      findSession t x.handle = some { x with
        res := .comet, swapStep := 0, pages := [], cometEpoch := swapEpoch s x.handle
        away := x.pages.map fun q => (q.1, q.2.1, pageAt s (x.hall.getD 0) q.2.2) } ∧
      (∀ w ∈ t.kv.swaps, w.session ≠ x.handle) ∧
      (∀ c seq k, findCmd s c seq = some k → s.kv.swaps = [⟨x.handle, c, seq, true, swapEpoch s x.handle⟩] →
        findCmd t c seq = some { k with phase := .finished, status := stOk, value := 0 })) ∧
    (∀ i f, reissued s (swapBulk s (handleCarrel x.handle)) f = false →
      (x.swapStep = 2 ∧ i = Instr.swapOutFlushReadDone x.handle f ∨ x.swapStep = 4 ∧ i = Instr.swapOutColophonReadDone x.handle f) ∧
          ((∀ b, f ≠ .data b) ∨ fnUp s (swapFn s (handleCarrel x.handle)) = false) ∨ i = Instr.completionTimeout x.handle →
      x.res = .swappingOut → ∃ t, exec i s = .next t ∧
        findSession t x.handle = some { x with res := .resident, extent := none, swapStep := 0 } ∧ (∀ w ∈ t.kv.swaps, w.session ≠ x.handle) ∧
        t.kv.pages = s.kv.pages ∧ t.kv.mem = s.kv.mem) ∧
    (reissued s (swapBulk s (handleCarrel x.handle)) .lost = true → x.res = .swappingOut → x.swapStep = 2 ∨ x.swapStep = 4 →
      exec (.swapOutFlushReadDone x.handle .lost) s = .next s ∧ exec (.swapOutColophonReadDone x.handle .lost) s = .next s)

/-- R263, R264: a comet returns. A begun SWAP_IN starts the return of a comet and is OK at once for a resident session. A colophon that
belongs to the comet, with room for its pages, gets them allocated; a body whose length and digest fit makes the session resident again,
its extent freed. A colophon or body that does not fit, or poisoned data, kills the session, which stays a comet. A read that fails is
issued once more, and then given up; one that port B lost goes on through PF1 (R227).

R259, R265, R393: patrol scrub finds an uncorrectable error: the line is poisoned, whatever becomes of a pass's appends, and every page in
use that holds it gains POISON. Sessions stay. In a line of the hall's store it poisons the entries of the tables of R232 that lie there (the
model's way to such an error, log entry 57). -/
def Obligations.CometsReturnAndScrubsPoison : Prop :=
  (
  ∀ (x : Session) (s : State), findSession s x.handle = some x →
    (∀ c seq k, findCmd s c seq = some k → k.phase = .begun → k.op = 0x0A → rd k.body 0 4 = x.handle →
      (x.res = .comet → ∃ t, exec (.swapIn c seq) s = .next t ∧ t = { s with kv := { s.kv with sessions := t.kv.sessions } } ∧
        findSession t x.handle = some { x with res := .returning, swapStep := 1, retried := false }) ∧
      (x.res = .resident → ∃ t, exec (.swapIn c seq) s = .next t ∧ t = { s with itk := { s.itk with cmds := t.itk.cmds } } ∧
        findCmd t c seq = some { k with phase := .finished, status := stOk, value := 0 })) ∧
    (x.res = .returning →
      (∀ b, x.swapStep = 1 → colophonOk x b = true → (allocReturn s x).isSome = true →
        ∃ t y, exec (.cometReturnReadDone x.handle (.data b)) s = .next t ∧ findSession t x.handle = some y ∧ y.res = .returning ∧
          y.swapStep = 2 ∧ y.retried = false ∧ y.swapDigest = slice b 0x28 32 ∧ y.pages.length = x.pages.length + x.away.length) ∧
      (∀ b, x.swapStep ≠ 1 → b.length = x.swapBody → shake256 b = x.swapDigest →
        ∃ t, exec (.cometReturnReadDone x.handle (.data b)) s = .next t ∧
          findSession t x.handle = some { x with res := .resident, extent := none, swapStep := 0, away := [] }) ∧
      (∀ f, ((∃ b, f = Fetch.data b ∧ (x.swapStep = 1 ∧ colophonOk x b = false ∨ x.swapStep ≠ 1 ∧ ¬ (b.length = x.swapBody ∧ shake256 b = x.swapDigest))) ∨ f = .poisoned) →
        x.dead = none → ∃ t, exec (.cometReturnReadDone x.handle f) s = .next t ∧
          findSession t x.handle = some { x with res := .comet, swapStep := 0, pages := [], dead := some stPoisoned }) ∧
      (reissued s (swapBulk s (handleCarrel x.handle)) .lost = true → exec (.cometReturnReadDone x.handle .lost) s = .next s) ∧
      (∀ i, i ∈ [Instr.cometReturnReadDone x.handle .error, .cometReturnReadDone x.handle .timeout, .completionTimeout x.handle] ∨
          (i = .cometReturnReadDone x.handle .lost ∧ reissued s (swapBulk s (handleCarrel x.handle)) .lost = false) → ∃ t, exec i s = .next t ∧
        findSession t x.handle = some (if x.retried then { x with res := .comet, swapStep := 0, pages := [] } else { x with retried := true })))) ∧
  (
  ∀ (hall addr : Nat) (s : State), hall < 4 → hallOff s hall = false → swf (fun _ => false) s.kv.bad = true → swf (fun _ => freePage) s.kv.pages = true →
    (addr < hbmBytesOfHall → ∃ t, exec (.patrolScrub hall addr) s = .next t ∧ lineBad t hall addr = true ∧
      (∀ a, lineKey hall a ≠ lineKey hall addr → lineBad t hall a = lineBad s hall a) ∧
      (∀ i p, (i, p) ∈ pagesAt s hall addr → (pageAt t hall i).poison = true ∧ (pageAt t hall i).refs = p.refs) ∧
      t.kv.sessions = s.kv.sessions ∧ t.kv.mem = s.kv.mem ∧ t.itk = s.itk ∧ t.run = (keepFinding (lineKey hall addr) s).run) ∧
    (∀ tb rest j, addr = hbmBytesOfHall + 64 * j → s.scr.tables = tb :: rest → tb.hall = hall → j < ceilDiv tb.entries.length 8 →
      ∃ t, exec (.patrolScrub hall addr) s = .next t ∧ t = { s.withRegs t with scr := { s.scr with tables := t.scr.tables }, con := t.con } ∧
        t.scr.tables.head? = some { tb with bad := (j :: tb.bad).eraseDups }))

/-! ### Passes: dispatch, layers, strikes, exits, reductions, boundaries (01, 03, 04, 09, 10) -/

/-- R17, R254, R255, R277: PASS_DISPATCH of a command for one session. Once the changes that wait for the region's boundary are in force
(s1), a begun TOKENS or STEP that nothing holds, whose session may join, is resident and has room for its new pages (s2), begins its pass:
the module epoch rises by one, the pass takes the carrel's next number, which rises by one, its vectors stand at the positions from the
session's length on, and the command has one pass less to run. A region with a pass in flight, a held command, or victims still on their way
out for it, changes nothing.

R224, R225, R58, R117: LAYER_BEGIN and the hold budget. In a region that is no orbit region, the next stage of a pass begins when the
stage before is complete and every session's adapter bytes for its layer are resident: its inputs, scales (the recipe's where they are
static) and quantised codes are fixed, the vectors whose inputs met an error are kept, and no folio has struck. With a session not ready, and the budget not spent, the pass stays. When the budget
runs out while a stage that opens a layer is held, the sessions that are not ready are dropped, with the marks of what they appended (R236); no
other page byte and no stored length changes. While the stage before runs, the budget's end changes nothing. -/
def Obligations.PassesBeginTheirLayers : Prop :=
  (
  ∀ (c seq h : Nat) (k : Cmd) (s : State), findCmd s c seq = some k → k.phase = .begun → (k.op = 0x03 ∨ k.op = 0x04) → 0 < k.passesLeft →
    (((passOf s (cmdRegion s k)).isSome = true ∨ heldCmd s k = true ∨ victimsOut s c seq = true) → exec (.passDispatch c seq) s = .next s) ∧
    (∀ x s2, passOf s (cmdRegion s k) = none → heldCmd s k = false → victimsOut s c seq = false → s.orb.waitingTakeover = false → orbitRegion s (cmdRegion s k) = false →
      let s1 := boundaryChanges s (cmdRegion s k)
      findCmd s1 c seq = some k → passHandles k = [h] → joinStatus s1 k h = none → findSession s1 h = some x → x.res = .resident →
      growSession s1 h (appendCount k) = some s2 → s1.regsOk → s1.carrelsOk →
      ∃ t p, exec (.passDispatch c seq) s = .next t ∧ t.clk.epoch = (s1.clk.epoch + 1) % 2 ^ 48 ∧ p ∈ t.run.live ∧
        p.region = cmdRegion s k ∧ p.stream = c ∧ p.cmd = seq ∧ p.number = (carrelSt s1 c).nextPass ∧ p.epoch = t.clk.epoch ∧
        p.sessions = [h] ∧ p.stage = none ∧ p.vecs.map (·.pos) = (List.range (appendCount k)).map (x.length + ·) ∧
        (carrelSt t c).nextPass = (carrelSt s1 c).nextPass + 1 ∧
        (carrelSt t c).nextPass ≤ (carrelSt t c).limit ∧
        (∀ n, n ≠ c → carrelSt t n = carrelSt s1 n) ∧
        findCmd t c seq = some { k with passesLeft := k.passesLeft - 1, pass := p.number, skip := [] } ∧
        (∃ y, findSession t h = some y ∧ y.length = x.length ∧ y.lastEpoch = t.clk.epoch))) ∧
  (
  ∀ (r : Nat) (p : Pass) (s : State), passOf s r = some p → orbitRegion s r = false →
    (∀ x ins, passRecipe p (nextStage p) = some x → (∀ q, p.stage = some q → stageDone s p q = true) → notReady s p x.layer = [] →
      stageInputs s p (nextStage p) = some ins → swf (fun _ => (none : Option StageRun)) p.stages = true →
      ∀ bad, ∃ t p' run, exec (.layerBegin r bad) s = .next t ∧ passOf t r = some p' ∧ p'.stage = some (nextStage p) ∧
        stageRun p' (nextStage p) = some run ∧ run.inputs = ins ∧ run.bad = bad ∧ run.struck = [] ∧ run.scales.length = ins.length ∧
        (x.dynamic = false → ∀ sc ∈ run.scales, sc = BitVec.ofNat 32 x.staticScale) ∧
        run.codes = List.zipWith (fun v sa => (List.range (stageK s p x.stage)).map fun i => quantise x.width sa (v.getD i 0)) ins run.scales ∧
        p'.vecs = p.vecs ∧ p'.sessions = p.sessions ∧ p'.number = p.number ∧ p'.leaves = p.leaves ∧ t.kv = s.kv ∧ t.itk = s.itk ∧ t.img = s.img) ∧
    (∀ x, passRecipe p (nextStage p) = some x → opensLayer p x.layer = true → notReady s p x.layer ≠ [] →
      p.budgetSpent = false → ∀ bad, exec (.layerBegin r bad) s = .next s) ∧
    (∀ layer, stageLayer p (nextStage p) = some layer → opensLayer p layer = true → notReady s p layer ≠ [] → p.budgetSpent = false →
      (stageOver s p = false → exec (.holdBudgetExhausted r) s = .next s) ∧
      (stageOver s p = true → ∃ t p', exec (.holdBudgetExhausted r) s = .next t ∧ passOf t r = some p' ∧ p'.budgetSpent = true ∧
        p'.late = p.late ++ notReady s p layer ∧ p'.marks = p.marks.filter (fun m => !(notReady s p layer).elem m.session) ∧
        p'.sessions = p.sessions ∧ p'.stage = p.stage ∧ t.kv.sessions = s.kv.sessions ∧ t.kv.mem = s.kv.mem ∧ t.kv.swaps = s.kv.swaps ∧
        ((∀ m ∈ p.marks, m.session ∉ notReady s p layer) → t.kv = s.kv) ∧ t.itk = s.itk ∧ t.run.live.length = s.run.live.length)))

/-- R46, R47, R66, R76, R77: STRIKE. A SERVING folio of a stage that runs, in a hall neither stretched nor gated, whose ledger is free for
the vector, strikes its next plane: every column's total takes the conversion's code at the folio's range and pair weight and the plane's
signed weight, from zero for a vector's first term; the folio has one plane of that vector less to strike. A bank that waits for the next vector is
active from the vector's first plane on (R57, R161). A folio that does not serve, a hall that waits, or a ledger that still holds another vector of the
pass, changes nothing. -/
def Obligations.StrikesFillTheLedger : Prop :=
  ∀ (shelf pos : Nat) (s : State),
    let key := folioKey shelf pos
    let f := folioAt s key
    ((f.st ≠ .serving ∨ (hallPower s (hallOf shelf)).stretched = true ∨ (hallPower s (hallOf shelf)).gated = true) →
      exec (.strike shelf pos) s = .next s) ∧
    (∀ p x rec c st v, shelf < 512 → pos < 68 → f.st = .serving → (hallPower s (hallOf shelf)).stretched = false → (hallPower s (hallOf shelf)).gated = false →
      passOf s f.region = some p → p.region = f.region → p.stage = some st → stageRun p st = some x → x.stage = st → passRecipe p st = some rec →
      slotChain s shelf f.logical = some c → (leafPlace s.img.bound p.region st ((namedShelf s shelf).getD 0) c).isSome = true →
      f.logical ∈ struckSlots s p st shelf c → nextVec p x rec.width key = some v →
      let l := ledgerOf s shelf c
      let held := l.started = true ∧ l.vec ≠ v ∧ (p.vecs[l.vec]?).elim false (liveVec p) = true
      let plane := nextPlane x key v
      let sw := switchAtVector s x key v
      let g := folioAt sw key
      let cs := strikeCodes sw key (p.window.getD (hallOf shelf) 0) (drivenRows x shelf c v (slotChannel sw p st shelf c f.logical) plane)
      (held → exec (.strike shelf pos) s = .next s) ∧
      (¬ held → swf (fun _ => freshLedger) s.arr.ledgers = true → swf (fun _ => (0 : Int)) l.totals = true →
        swf (fun _ => (none : Option StageRun)) p.stages = true → swf (fun _ => 0) x.struck = true →
        ∃ t p' x', exec (.strike shelf pos) s = .next t ∧ (ledgerOf t shelf c).vec = v ∧ (ledgerOf t shelf c).started = true ∧
          (∀ j < 512, sget (fun _ => (0 : Int)) (ledgerOf t shelf c).totals j =
            (if l.started = true ∧ l.vec = v then sget (fun _ => (0 : Int)) l.totals j else 0) +
              (cs.getD j ⟨0, false⟩).code * (2 ^ (g.rangeExp + pairShift sw shelf f.logical) : Nat) * planeWeight rec.width plane) ∧
          passOf t f.region = some p' ∧ stageRun p' st = some x' ∧ nextPlane x' key v = plane + 1 ∧
          (∀ k < 2 ^ 16, ∀ w, (k, w) ≠ (key, v) → nextPlane x' k w = nextPlane x k w) ∧
          x'.codes = x.codes ∧ p'.leaves = p.leaves ∧ t.kv = s.kv ∧ t.itk = s.itk ∧ t.img = s.img))

/-- R77, R80, R82, R84, R86, R89, R83, R120: what leaves the shelves, in a region that is no orbit region. A chain all of whose folios have made
their last strike of a vector, on a shelf whose entry and outlier programs have ended, exits once: its leaf stands, poisoned where the vector's input is or an
uncorrectable error met at the exit hurts it (R83), its terms alone where the error is in the archive copy they are read from (R394), and its ledger is free again; a tile that the exit names as well takes the shelf's result in one row, overwritten or added (R93; that the exit names the tile
is the model's choice, log entry 54). An addition of a tree, once both its operands
stand, makes the element-by-element sum of the two, poisoned where either is, and a wide merge makes its group's value once every leaf has exited. An
addition that was made, or whose operands are missing, changes nothing.

R242, R243, R84: ATTENTION_MERGE: once the partials of every part stand, they merge by the pairwise tree in part order, and each row
is normalised once; with a part missing, or once merged, nothing changes. -/
def Obligations.LeavesSumsAndPartsStand : Prop :=
  (
  ∀ s : State,
    (∀ shelf c errs into p st x rec q ch, (shelfRegion s shelf).bind (passOf s) = some p → shelfRegion s shelf = some p.region → orbitRegion s p.region = false →
      p.stage = some st → stageRun p st = some x → x.stage = st → passRecipe p st = some rec →
      leafPlace s.img.bound p.region st ((namedShelf s shelf).getD 0) c = some (q, ch) → (ledgerOf s shelf c).started = true →
      vectorStruck s p x rec.width shelf c (ledgerOf s shelf c).vec = true →
      exitWaits s p.region st shelf = false →
      swf (fun _ => (none : Option Leaf)) p.leaves = true → swf (fun _ => freshLedger) s.arr.ledgers = true → swf (fun _ => freshTile) s.scr.tiles = true →
      let whole := exitLeaf s p x shelf c (ledgerOf s shelf c).vec (errs.any (· != .archive))
      let leaf := if errs.elem .archive && p.archive && (outTerm s p x shelf c (ledgerOf s shelf c).vec 0).isSome then spoilTerms whole else whole
      ∃ t p', exec (.shelfExit shelf c ⟨errs, into⟩) s = .next t ∧ passOf t p.region = some p' ∧
        leafAt p' st shelf c (ledgerOf s shelf c).vec = some leaf ∧
        (ledgerOf t shelf c).started = false ∧ (ledgerOf t shelf c).totals = [] ∧
        (into = none → t.scr = s.scr) ∧
        (∀ e, into = some e → e.tile ≤ 11 → tileAt t shelf e.tile =
          (tileAt s shelf e.tile).writeRow p.carrel e.row e.add fun k => (leafValue leaf).getD (64 * e.group + k) ⟨0, false⟩) ∧
        t.kv = s.kv ∧ t.itk = s.itk ∧ (errs = [] → t.regs = s.regs ∧ t.con = s.con) ∧ (s.regsOk → s.regsFrom t [])) ∧
    (∀ r st q v hall level i p a b, passOf s r = some p → orbitRegion s r = false → wideGroup s p st q = false → hall ≤ 4 →
      addOperands s p st q v hall level i = some (a, b) → level < (if hall < 4 then 16 else 2) →
      nodeAt p st q v hall (level + 1) (if hall = 4 ∧ level = 1 then 0 else i) = none → swf (fun _ => (none : Option (List PVal))) p.nodes = true →
      ∃ t p', exec (.reductionAdd r st q v hall level i) s = .next t ∧ passOf t r = some p' ∧
        nodeAt p' st q v hall (level + 1) (if hall = 4 ∧ level = 1 then 0 else i) = some (List.zipWith padd a b) ∧
        p'.leaves = p.leaves ∧ t = { s with run := { s.run with live := t.run.live } }) ∧
    (∀ r st q v hall level i p, passOf s r = some p → addOperands s p st q v hall level i = none →
      exec (.reductionAdd r st q v hall level i) s = .next s) ∧
    (∀ r st q v p x, passOf s r = some p → orbitRegion s r = false → stageRun p st = some x → wideGroup s p st q = true →
      s.img.bound.groupLeaves r st q ≠ [] → (∀ l ∈ s.img.bound.groupLeaves r st q, (namedLeaf s p st v (l.2.1, l.2.2)).isSome = true) →
      nodeAt p st q v 5 0 0 = none → swf (fun _ => (none : Option (List PVal))) p.nodes = true →
      ∃ t p', exec (.wideMerge r st q v) s = .next t ∧ passOf t r = some p' ∧
        nodeAt p' st q v 5 0 0 = some ((List.range 512).map fun j =>
          wideColumn s p x q v j ((s.img.bound.groupLeaves r st q).map fun l => (l.2.1, l.2.2))) ∧
        p'.leaves = p.leaves ∧ t = { s with run := { s.run with live := t.run.live } })) ∧
  (
  ∀ (r st h tile kv : Nat) (p : Pass) (s : State), passOf s r = some p →
    let si := p.sessions.idxOf h
    (∀ ps root, h ∈ p.sessions → sget (fun _ => none) p.attn (attnKey si st tile kv) = none → 0 < kvParts (passLength s p h) →
      allParts p si st tile kv (kvParts (passLength s p h)) = some ps → tree (List.zipWith mergePart) ps = some root →
      swf (fun _ => (none : Option (List (List PVal)))) p.attn = true →
      ∃ t p', exec (.attentionMerge r st h tile kv) s = .next t ∧ passOf t r = some p' ∧
        sget (fun _ => none) p'.attn (attnKey si st tile kv) = some (root.map normalise) ∧
        (∀ a, a ≠ attnKey si st tile kv → sget (fun _ => none) p'.attn a = sget (fun _ => none) p.attn a) ∧
        p' = { p with attn := p'.attn } ∧ t = { s with run := { s.run with live := t.run.live } }) ∧
    ((h ∉ p.sessions ∨ (sget (fun _ => none) p.attn (attnKey si st tile kv)).isSome = true ∨
        allParts p si st tile kv (kvParts (passLength s p h)) = none) → exec (.attentionMerge r st h tile kv) s = .next s))

/-- R16, R278, R92, R277: PASS_BOUNDARY of a region that is no orbit region. A pass that has run its course ends: it is in flight no more;
a single session that drew a token without poison, delay or death has its length advanced by what it appended and that token as its last;
and its begun TOKENS has an entry with the token, OK, at the next position. A pass that has not run its course goes on untouched. In
either region state the recipes that waited for this boundary are in force and wait no more. -/
def Obligations.PassEndsAtItsBoundary : Prop :=
  ∀ (r : Nat) (obs : List (Nat × Nat × Nat × Nat × Nat)) (s : State), unpowered s = false → orbitRegion s r = false →
    (∀ p, passOf s r = some p → passSettled s p = false → exec (.passBoundary r obs) s = .next s) ∧
    (∀ p, passOf s r = some p → passSettled s p = true → (∀ q ∈ s.run.live, q ≠ p → q.region ≠ r) → s.run.live.Nodup →
      ∃ t, exec (.passBoundary r obs) s = .next t ∧ passOf t r = none ∧ (∀ q ∈ s.run.live, q.region ≠ r → ∃ q' ∈ t.run.live, q'.region = q.region ∧ q'.number = q.number) ∧
        (∀ x ∈ t.img.nextRecipes, x.region ≠ r) ∧ t.clk.epoch = s.clk.epoch) ∧
    (∀ p h x tok k, passOf s r = some p → passSettled s p = true → s.run.live = [p] → p.sessions = [h] → p.late = [] → p.poisoned = [] →
      findSession s h = some x → x.region = r → x.dead = none → p.drawn = [(h, some tok)] → outPoisoned s p h = false → sampleFailed p h = false → s.orb.colls = [] →
      orbPass s p.passId = none → findCmd s p.stream p.cmd = some k → k.phase = .begun → k.op = 0x03 → p.stream < 1024 → s.scr.tileCmds = [] →
      ∃ t y k', exec (.passBoundary r obs) s = .next t ∧ findSession t h = some y ∧ y.lastToken = some tok ∧ y.dead = none ∧
        y.length = x.length + (p.vecs.filter fun v => v.session == h).length ∧ findCmd t p.stream p.cmd = some k' ∧
        k'.entries = k.entries ++ [{ idx := k.entries.length, session := h, token := tok
                                     position := (x.length + (p.vecs.filter fun v => v.session == h).length) % 2 ^ 32, status := stOk }] ∧
        (k'.phase = .finished ↔ k.passesLeft = 0)) ∧
    (passOf s r = none → ∃ t, exec (.passBoundary r obs) s = .next t ∧ (∀ x ∈ t.img.nextRecipes, x.region ≠ r) ∧
      t.img.recipes = putRecipes s.img.recipes (s.img.nextRecipes.filter fun x => x.region == r) ∧ t.img.bound = s.img.bound ∧ t.clk = s.clk)

/-! ### Scribe programs, runs and tiles (05) -/

/-- R111, R107: NOP, LDX, ADDX, LOOP and HALT. NOP only moves the program on. LDX loads IMM, ADDX the sum modulo 2^32. LOOP decrements its
index register modulo 2^32 and, while it is not zero, branches by the signed IMM from its own index inside the program's area; at zero the program
goes on. HALT of a stage's entry or outlier program or of a class-S job ends the job, once no transfer of its own is owed; with one owed it waits. No
tile, byte of the shelf store, register or session changes.

R113, R114, Table 5-7: an instruction that cannot be carried out. Whatever instruction a program that is no run, no adapter program and no attention job stands at,
an index outside its area (code 3), a reserved opcode (code 1), or a fault that does not depend on the instruction's effect stops the program:
it has no effect on any tile or byte of a shelf store, the program runs no more, its own transfers are dropped (the model's choice, log entry 24), and
SCR.FAULT shows the code and the index. An instruction that is not the one at the counter or whose line a transfer still owes (R111), a scribe that runs
nothing, and one that runs a proof, change nothing. -/
def Obligations.IndexInstructionsAndProgramFaults : Prop :=
  (
  ∀ (h : Nat) (p : Prog) (s : State), s.scribesOk →
    let i := insnOf s h p
    let frame := fun t : State => t = { s with scr := { s.scr with unit := t.scr.unit } } ∧ ∀ g, g ≠ h → scribeOf t g = scribeOf s g
    (insnRuns s h p .nop → ∃ t, exec (.nop h) s = .next t ∧ frame t ∧ scribeOf t h = movedOn s h p) ∧
    (insnRuns s h p .ldx → ∃ t, exec (.ldx h) s = .next t ∧ frame t ∧
      scribeOf t h = { movedOn s h p with x := (scribeOf t h).x } ∧
      ∀ n, sget (fun _ => 0) (scribeOf t h).x n = if n = i.w.dst then i.w.imm else i.x n) ∧
    (insnRuns s h p .addx → ∃ t, exec (.addx h) s = .next t ∧ frame t ∧
      scribeOf t h = { movedOn s h p with x := (scribeOf t h).x } ∧
      ∀ n, sget (fun _ => 0) (scribeOf t h).x n = if n = i.w.dst then (i.x i.w.sa + i.w.imm) % 2 ^ 32 else i.x n) ∧
    (insnRuns s h p .loop →
      let v := (i.x i.w.dst + 2 ^ 32 - 1) % 2 ^ 32
      let target := (p.pc : Int) + signed 32 i.w.imm
      v = 0 ∨ ((p.job.first : Int) ≤ target ∧ target < p.job.last) →
      ∃ t q, exec (.loopX h) s = .next t ∧ frame t ∧ (scribeOf t h).run = some q ∧ q.job = p.job ∧ q.count = p.count + 1 ∧
        (q.pc : Int) = (if v = 0 then (p.pc : Int) + 1 else target) ∧
        ∀ n, sget (fun _ => 0) (scribeOf t h).x n = if n = i.w.dst then v else i.x n) ∧
    (insnRuns s h p .halt → p.job.kind ≤ 1 ∨ p.job.kind = 5 →
      ((∀ x ∈ (scribeOf s h).xfers, x.job ≠ p.job) → ∃ t, exec (.halt h) s = .next t ∧ frame t ∧
        scribeOf t h = { scribeOf s h with run := none }) ∧
      ((∃ x ∈ (scribeOf s h).xfers, x.job = p.job) → exec (.halt h) s = .next s))) ∧
  (
  ∀ (h : Nat) (o : SOp) (s : State), s.scribesOk → s.regsOk →
    (∀ p code, (scribeOf s h).run = some p → p.job.kind ≠ 0xE → p.job.kind ≠ 0xF → p.job.kind ≠ 2 → p.job.kind ≠ 3 →
      (¬ (p.job.first ≤ p.pc ∧ p.pc < p.job.last) ∧ code = 3 ∨
        p.job.first ≤ p.pc ∧ p.pc < p.job.last ∧ fetchOwed s h p = false ∧ opOf (insnOf s h p).w = none ∧ code = 1 ∨
        p.job.first ≤ p.pc ∧ p.pc < p.job.last ∧ fetchOwed s h p = false ∧ opOf (insnOf s h p).w = some o ∧ (insnOf s h p).check s o = some code) →
      ∃ t, exec (scribeRow h o) s = .next t ∧ t.scr.tiles = s.scr.tiles ∧ t.scr.store = s.scr.store ∧
        scribeOf t h = { scribeOf s h with run := none, xfers := (scribeOf s h).xfers.filter fun x => x.job != p.job } ∧ fget t (Reg.SCR_FAULT.CODE h) = code % 2 ^ 8 ∧
        fget t (Reg.SCR_FAULT.PC h) = p.pc % 2 ^ (Reg.SCR_FAULT.PC h).w ∧ fget t (Reg.SCR_FAULT.PENDING h) = 1) ∧
    ((scribeOf s h).run = none → exec (scribeRow h o) s = .next s) ∧
    (∀ p, (scribeOf s h).run = some p → p.job.kind = 0xF ∨ (p.job.first ≤ p.pc ∧ p.pc < p.job.last ∧ fetchOwed s h p = true) →
      exec (scribeRow h o) s = .next s) ∧
    (∀ p o', (scribeOf s h).run = some p → p.job.first ≤ p.pc → p.pc < p.job.last → opOf (insnOf s h p).w = some o' → o' ≠ o →
      exec (scribeRow h o) s = .next s))

/-- R105, R106, R97, Table 5-2: the elementwise operations. VADD, VSUB and VMAX put operation(SA, SB′), VMUL the product, VEXP, VRCP and VRSQ the function of
SA, into every element of tile DST; with ACC the result is added to the element of DST, VMUL's in one rounding. A row is poisoned where a
row it reads is. Everything but tile DST and the program counter stays.

R93, R97, R106: the row operations. VSUM puts a row's sum of R106 into column 0, VMAXI and VMINI the selected value into column 0 and its
index, counted from IMM, into column 1; the other columns of DST keep what they held, and a row that keeps columns keeps its poison beside that
of the row it reads. -/
def Obligations.ElementwiseAndRowOperations : Prop :=
  (
  ∀ (h : Nat) (p : Prog) (s : State), s.scribesOk →
    let i := insnOf s h p
    let a := tileAt s h i.w.sa
    let d := tileAt s h i.w.dst
    let result := fun (c : Instr) (two : Bool) (f : Nat → Nat → W32) => ∃ t, exec c s = .next t ∧ onlyTile s t h p i.w.dst ∧ t.regs = s.regs ∧
      (tileAt t h i.w.dst).owner = some p.job.carrel ∧ (∀ r < 16, ∀ k < 64, (tileAt t h i.w.dst).elem r k = f r k) ∧
      ∀ r < 16, (tileAt t h i.w.dst).bad r = (a.bad r || (two && secondBad s i r) || (i.w.acc && d.bad r))
    let summed := fun (f : Nat → Nat → W32) (r k : Nat) => if i.w.acc then fadd (d.elem r k) (f r k) else f r k
    let b := secondOperand s i
    (insnRuns s h p .vadd → result (.vadd h) true (summed fun r k => fadd (a.elem r k) (b r k))) ∧
    (insnRuns s h p .vsub → result (.vsub h) true (summed fun r k => fsub (a.elem r k) (b r k))) ∧
    (insnRuns s h p .vmax → result (.vmax h) true (summed fun r k => (selectIdx true [⟨a.elem r k, 0⟩, ⟨b r k, 1⟩]).val)) ∧
    (insnRuns s h p .vmul → result (.vmul h) true fun r k =>
      if i.w.acc then ffma (a.elem r k) (b r k) (d.elem r k) else fmul (a.elem r k) (b r k)) ∧
    (insnRuns s h p .vexp → result (.vexp h) false (summed fun r k => vexp (a.elem r k))) ∧
    (insnRuns s h p .vrcp → result (.vrcp h) false (summed fun r k => vrcp (a.elem r k))) ∧
    (insnRuns s h p .vrsq → result (.vrsq h) false (summed fun r k => vrsq (a.elem r k)))) ∧
  (
  ∀ (h : Nat) (p : Prog) (s : State), s.scribesOk →
    let i := insnOf s h p
    let a := tileAt s h i.w.sa
    let d := tileAt s h i.w.dst
    let result := fun (c : Instr) (cols : Nat) (f : Nat → Nat → W32) => ∃ t, exec c s = .next t ∧ onlyTile s t h p i.w.dst ∧ t.regs = s.regs ∧
      (∀ r < 16, ∀ k < 64, (tileAt t h i.w.dst).elem r k = if k < cols then f r k else d.elem r k) ∧
      ∀ r < 16, (tileAt t h i.w.dst).bad r = (a.bad r || d.bad r)
    let picked := fun (gt : Bool) (r : Nat) => selectIdx gt ((List.range 64).map fun c => ⟨a.elem r c, (c + i.w.imm) % 2 ^ 32⟩)
    (insnRuns s h p .vsum → result (.vsum h) 1 fun r _ =>
      if i.w.acc then fadd (d.elem r 0) (rowSum ((List.range 64).map (a.elem r))) else rowSum ((List.range 64).map (a.elem r))) ∧
    (insnRuns s h p .vmaxi → result (.vmaxi h) 2 fun r k => if k = 0 then (picked true r).val else BitVec.ofNat 32 (picked true r).idx) ∧
    (insnRuns s h p .vmini → result (.vmini h) 2 fun r k => if k = 0 then (picked false r).val else BitVec.ofNat 32 (picked false r).idx))

/-- R101 to R104, R132: MMA and LDT. MMA puts into element (r, c) of DST the accumulation of the K products of row r of A and column c of B,
from zero or from DST with ACC: in FP32 order for a floating format, exactly by groups with saturation for an integer format, each saturating
element counted. LDT puts the widened element there, or adds it. Every row's poison is that of the store lines and the rows it read.

R133 to R138, R110, R124: what leaves the tiles. STT lays the encoded tile, elements then block scales, at X[DST] + IMM of its shelf's store;
local SAMPLE lays the first entries of tile SA in the order of R124. No other byte of a store changes; no tile changes. -/
def Obligations.ProductsLoadsAndStores : Prop :=
  (
  ∀ (h : Nat) (p : Prog) (s : State), s.scribesOk → s.regsOk →
    let i := insnOf s h p
    let d := tileAt s h i.w.dst
    let start := fun r c => if i.w.acc then d.elem r c else 0
    (insnRuns s h p .mma → ∃ t, exec (.mma h) s = .next t ∧ onlyTile s t h p i.w.dst ∧
      (i.fmt.isInt = false → t.regs = s.regs ∧
        ∀ r < 16, ∀ c < 64, (tileAt t h i.w.dst).elem r c = accumulate (start r c) ((mmaIn s i).products r c)) ∧
      (i.fmt.isInt = true → (∀ a, a ≠ (Reg.SCR_INT_SAT.COUNT (hallOf h)).addr → rget t a = rget s a) ∧
        ∀ r < 16, ∀ c < 64, (tileAt t h i.w.dst).elem r c = (intAccumulate (start r c) ((mmaIn s i).products r c)).1) ∧
      ∀ r < 16, (tileAt t h i.w.dst).bad r = (mmaBad s i r || (i.w.acc && d.bad r))) ∧
    (insnRuns s h p .ldt → fmtMx i.w.fmt = false →
      let code := fun r c => (loadElems s h (i.xImm i.w.sa) 1024 i.fmt).getD (64 * r + c) 0
      ∃ t, exec (.ldt h) s = .next t ∧ onlyTile s t h p i.w.dst ∧
        (∀ a, a ≠ (Reg.SCR_INT_SAT.COUNT (hallOf h)).addr → rget t a = rget s a) ∧
        (i.w.acc = false → ∀ r < 16, ∀ c < 64, (tileAt t h i.w.dst).elem r c = widen i.fmt (code r c) 0) ∧
        (i.w.acc = true → i.fmt.isInt = false → ∀ r < 16, ∀ c < 64,
          (tileAt t h i.w.dst).elem r c = fadd (d.elem r c) (widen i.fmt (code r c) 0)) ∧
        (i.w.acc = true → i.fmt.isInt = true → ∀ r < 16, ∀ c < 64,
          (tileAt t h i.w.dst).elem r c = (satAdd (d.elem r c) (widen i.fmt (code r c) 0).toInt).1) ∧
        ∀ r < 16, (tileAt t h i.w.dst).bad r = (storeRangeBad s h (i.xImm i.w.sa + r * elemBytes i.fmt 64) (elemBytes i.fmt 64) || (i.w.acc && d.bad r)))) ∧
  (
  ∀ (h : Nat) (p : Prog) (s : State), s.scribesOk →
    let i := insnOf s h p
    let a := i.xImm i.w.dst
    let e := encodeTile i.fmt (blockLen i.w.mod) (tileAt s h i.w.sa)
    let stored := fun (t : State) (bs : Bytes) =>
      t.scr = { s.scr with unit := t.scr.unit, store := t.scr.store, linePoison := t.scr.linePoison } ∧ scribeOf t h = movedOn s h p ∧
      (∀ k < bs.length, storeByte t h (a + k) = bs.getD k 0) ∧
      (∀ g b, b < 2 ^ 20 → (g ≠ h ∨ b < a ∨ a + bs.length ≤ b) → storeByte t g b = storeByte s g b) ∧
      t.kv = s.kv ∧ t.itk = s.itk ∧ t.img = s.img ∧ t.ann = s.ann ∧ t.out = s.out
    (insnRuns s h p .stt → ∃ t, exec (.stt h) s = .next t ∧ stored t (e.data ++ e.scales)) ∧
    (insnRuns s h p .sampleSelect → ∃ t, exec (.sampleSelect h) s = .next t ∧ t.regs = s.regs ∧ t.run = s.run ∧
      let cs := candidates (selectCount s p.job) ((List.range 1024).map fun n => ⟨(tileAt s h i.w.sa).elem (n / 64) (n % 64), n⟩)
      stored t (cs.flatMap (fun c => leBytes 4 c.val.toNat ++ leBytes 4 c.idx) ++
        (List.replicate (selectCount s p.job - cs.length) (leBytes 4 0x7FC00000 ++ leBytes 4 0xFFFFFFFF)).flatten)))

/-- R110, R111, R114: GATHER, SCATTER and the completion of a transfer. A transfer whose descriptor the job has, whose row indices all stand
in the window and, for SCATTER, may be written, is queued behind the scribe's others and nothing moves; an index outside the window faults with code 4.
The oldest transfer completes whatever the scribe runs then: a gather of one row lays it into the store, and whole lines take the row's poison.

R122, R123, R153, R125: CHECK, NORMW and the draw. CHECK without MOD[0] puts the count of failing elements into X[DST] and does nothing else; with
MOD[0] in the class-S job of a pending check that is not overdue, and no element failing, it also completes that check, counted and clean. NORMW
of an image program hands column 0 of its tile to its pass under stage IMM, a poisoned row as a NaN. The sampling job's draw waits for
the output head on the home scribe of output group 0; there its session, if it draws and has not been drawn for, takes the token that R124 to R126 give for its
logits at the position after its last vector (where it has one, or a logit is poisoned, nothing else changes); on any other scribe, in any other job and
in a region without a pass it does nothing but move on. -/
def Obligations.TransfersChecksAndDraws : Prop :=
  (
  ∀ (h : Nat) (p : Prog) (s : State), s.scribesOk →
    let i := insnOf s h p
    let rows := fun a => rowIndices s h a (i.w.cnt + 1)
    let queued := fun (t : State) (x : Transfer) => t = { s with scr := { s.scr with unit := t.scr.unit } } ∧
      scribeOf t h = { movedOn s h p with xfers := (scribeOf s h).xfers ++ [x] } ∧ ∀ g, g ≠ h → scribeOf t g = scribeOf s g
    (∀ d, insnRuns s h p .gather → i.desc = some d → (∀ r ∈ rows (i.x i.w.sa), r < d.rows) →
      ∃ t, exec (.gather h) s = .next t ∧ queued t { isGather := true, job := p.job, desc := d, addr := i.xImm i.w.dst, rows := rows (i.x i.w.sa) }) ∧
    (∀ d, insnRuns s h p .gather → i.desc = some d → (∃ r ∈ rows (i.x i.w.sa), d.rows ≤ r) →
      ∃ t, exec (.gather h) s = .next t ∧ (scribeOf t h).run = none ∧ t.scr.tiles = s.scr.tiles ∧ t.scr.store = s.scr.store) ∧
    (∀ d, insnRuns s h p .scatter → i.desc = some d → (∀ r ∈ rows (i.xImm i.w.sb), r < d.rows ∧ rowWritable s d r = true) →
      ∃ t, exec (.scatter h) s = .next t ∧ queued t { isGather := false, job := p.job, desc := d, addr := i.x i.w.sa, rows := rows (i.xImm i.w.sb) }) ∧
    (∀ x rest row, (scribeOf s h).xfers = x :: rest → x.isGather = true → x.rows = [row] → x.addr + x.desc.rowLen ≤ 2 ^ 20 →
      (descRow s h x.job x.desc row).1.length = x.desc.rowLen →
      ∃ t, exec (.gatherComplete ⟨h, []⟩) s = .next t ∧ scribeOf t h = { scribeOf s h with xfers := rest } ∧ t.scr.tiles = s.scr.tiles ∧
        (∀ k < x.desc.rowLen, storeByte t h (x.addr + k) = (descRow s h x.job x.desc row).1.getD k 0) ∧
        (x.addr % 64 = 0 → ∀ l, 64 * (l + 1) ≤ x.desc.rowLen → storeBad t h (x.addr + 64 * l) = (descRow s h x.job x.desc row).2) ∧
        (∀ g b, b < 2 ^ 20 → (g ≠ h ∨ b < x.addr ∨ x.addr + x.desc.rowLen ≤ b) → storeByte t g b = storeByte s g b) ∧
        t = { s with scr := { s.scr with unit := t.scr.unit, store := t.scr.store, linePoison := t.scr.linePoison } }) ∧
    (∀ bad, (scribeOf s h).xfers = [] → exec (.gatherComplete ⟨h, bad⟩) s = .next s)) ∧
  (
  ∀ (h : Nat) (p : Prog) (s : State), s.scribesOk →
    let i := insnOf s h p
    (insnRuns s h p .check → i.w.mod = 0 → ∃ t, exec (.checkTile h) s = .next t ∧
      t = { s with scr := { s.scr with unit := t.scr.unit } } ∧ (scribeOf t h).run = (movedOn s h p).run ∧ (∀ g, g ≠ h → scribeOf t g = scribeOf s g) ∧
      ∀ n, sget (fun _ => 0) (scribeOf t h).x n =
        if n = i.w.dst then tileFails (tileAt s h i.w.sa) (tileAt s h i.w.sb) (tileAt s h (i.w.sb + 1)) else i.x n) ∧
    (∀ c, insnRuns s h p .check → i.w.mod = 1 → checkOf s h p.job = some c → overdue c = false → c.region = p.job.region →
      failingElems (tileAt s h i.w.sa) (tileAt s h i.w.sb) (tileAt s h (i.w.sb + 1)) = [] → swf (fun _ => freshVigilance) s.run.vig = true →
      swf (fun _ => (none : Option Nat)) s.con.clean = true →
      ∃ t, exec (.checkTile h) s = .next t ∧ (vigOf t c.region).checks = (vigOf s c.region).checks.erase c ∧
        (∀ n, sget (fun _ => 0) (scribeOf t h).x n = if n = i.w.dst then 0 else i.x n) ∧ (scribeOf t h).run = (movedOn s h p).run ∧
        sget (fun _ => none) t.con.clean (chainKey c.shelf c.chain * 8 + c.colGroup) = some c.epoch ∧
        t.run.detections = s.run.detections ∧ t.run.live = s.run.live ∧ t.kv = s.kv ∧ t.ann = s.ann) ∧
    (∀ q, insnRuns s h p .normw → p.job.kind ≤ 5 → passOf s p.job.region = some q → q.region = p.job.region →
      ∃ t q', exec (.normw h) s = .next t ∧ scribeOf t h = movedOn s h p ∧ t.scr.tiles = s.scr.tiles ∧ t.scr.store = s.scr.store ∧ t.regs = s.regs ∧
        passOf t p.job.region = some q' ∧ q' = { q with norms := q.norms ++ [(i.w.imm, (List.range 16).map fun r =>
          if (tileAt s h i.w.sa).bad r then qnan 0 0 10 else (tileAt s h i.w.sa).elem r 0)] }) ∧
    (insnRuns s h p .normw → 5 < p.job.kind → ∃ t, exec (.normw h) s = .next t ∧
      t = { s with scr := { s.scr with unit := t.scr.unit } } ∧ scribeOf t h = movedOn s h p ∧ ∀ g, g ≠ h → scribeOf t g = scribeOf s g) ∧
    (insnRuns s h p .sampleDraw → passOf s p.job.region = none → ∃ t, exec (.sampleDraw h) s = .next t ∧
      t = { s with scr := { s.scr with unit := t.scr.unit } } ∧ scribeOf t h = movedOn s h p ∧ ∀ g, g ≠ h → scribeOf t g = scribeOf s g) ∧
    (∀ q, insnRuns s h p .sampleDraw → passOf s p.job.region = some q → q.region = p.job.region →
      (let home := (homeLeaf s.img.bound p.job.region (headStage q) 0).map fun l => housedAt s p.job.region l.2.1
       let x := p.job.session
       let due := x ∈ drawing q ∧ x ∉ q.late ∧ (q.drawn.any fun d => d.1 == x) = false
       (p.job.kind = 4 → home = some h → stageDone s q (headStage q) = false → exec (.sampleDraw h) s = .next s) ∧
       (p.job.kind ≠ 4 ∨ home ≠ some h ∨ (stageDone s q (headStage q) = true ∧ ¬ due) → ∃ t, exec (.sampleDraw h) s = .next t ∧
         t = { s with scr := { s.scr with unit := t.scr.unit } } ∧ scribeOf t h = movedOn s h p ∧ ∀ g, g ≠ h → scribeOf t g = scribeOf s g) ∧
       (∀ y v k, p.job.kind = 4 → home = some h → stageDone s q (headStage q) = true → due → findSession s x = some y →
         q.vecs.zipIdx.find? (fun v => v.1.session == x && v.1.draws) = some (v, k) →
         let out := stageOut s q (headStage q) k
         let token := sampleToken y (v.pos + 1) (out.map (·.val))
         ∃ t q', exec (.sampleDraw h) s = .next t ∧ scribeOf t h = movedOn s h p ∧ (∀ g, g ≠ h → scribeOf t g = scribeOf s g) ∧
           passOf t p.job.region = some q' ∧ q' = { q with drawn := q.drawn ++ [(x, token)] } ∧ t.kv = s.kv ∧ t.itk = s.itk ∧
           t.scr.tiles = s.scr.tiles ∧ t.scr.store = s.scr.store ∧
           ((token.isSome = true ∨ out.any (·.bad) = true) →
             t = { s with scr := { s.scr with unit := t.scr.unit }, run := { s.run with live := t.run.live } })))))

/-- R112, R127: SCRIBE_JOB_START. A free scribe starts the next job in rank order at its entry with its descriptors loaded, which leaves the ready
jobs; a run finds its payload at offset 0 of the run area, a class-S job its check in the staging area alone (its layout there is the model's choice, log
entry 22), any other job the store as it was. With none the scribe resumes a suspended run with its saved index registers; pass work suspends a run, whose
transfers go on; a class-S job, a proof or pass work that runs is left alone. No job is taken while one of a better rank of pass work or class S is ready.

R127, R128, R279: SCRIBE_RUN of a begun command and its timeout. A run of the command with the fetched payload waits, as a job at the entry that
the command names, on every shelf that the command names and on no other, and the command stays begun; that a payload waits with its run, not in the
shelf's store, until the run starts there is the model's choice (log entry 25). A payload that could not be fetched completes it with FORMAT (the model's choice, log entry 25). When SCR.RUN_LIMIT expires the run ends with TIMEOUT, nothing is written out,
and no shelf runs or holds it. -/
def Obligations.ScribeJobsStartAndTimeOut : Prop :=
  (
  ∀ (h : Nat) (s : State), s.scribesOk →
    let u := scribeOf s h
    (∀ j, u.run = none → nextJob s h = some j → j.kind ≠ 3 → ∃ t, exec (.scribeJobStart h) s = .next t ∧
      t = { s with scr := { s.scr with unit := t.scr.unit, store := t.scr.store, linePoison := t.scr.linePoison } } ∧
      (∀ g, g ≠ h → scribeOf t g = scribeOf s g) ∧
      scribeOf t h = { u with ready := u.ready.erase j, run := some { job := j, pc := j.entry, count := 0 }, desc := jobDescs s h j
                              area := if (runOf s j).isSome then some j.carrel else u.area } ∧
      (j.kind ≠ 5 → j.kind ≠ 0xE → t.scr.store = s.scr.store ∧ t.scr.linePoison = s.scr.linePoison) ∧
      (∀ r, runOf s j = some r → r.data.length ≤ 0x20000 → (∀ i < r.data.length, storeByte t h (0xC0000 + i) = r.data.getD i 0) ∧
        ∀ g b, b < 2 ^ 20 → (g ≠ h ∨ b < 0xC0000 ∨ 0xC0000 + r.data.length ≤ b) → storeByte t g b = storeByte s g b) ∧
      (j.kind = 5 → ∀ g b, b < 2 ^ 20 → (g ≠ h ∨ b < 0xE0000) → storeByte t g b = storeByte s g b)) ∧
    (∀ p, u.run = none → nextJob s h = none → u.suspended = some p → ∃ t, exec (.scribeJobStart h) s = .next t ∧
      scribeOf t h = { u with run := some p, suspended := none, x := u.savedX, savedX := [], desc := jobDescs s h p.job } ∧
      t = { s with scr := { s.scr with unit := t.scr.unit } } ∧ ∀ g, g ≠ h → scribeOf t g = scribeOf s g) ∧
    (∀ p j, u.run = some p → nextJob s h = some j → p.job.kind = 0xE → jobRank j = 0 → j.kind ≠ 3 →
      ∃ t, exec (.scribeJobStart h) s = .next t ∧ (scribeOf t h).suspended = some p ∧ (scribeOf t h).savedX = u.x ∧ (scribeOf t h).xfers = u.xfers ∧
        (scribeOf t h).run = some { job := j, pc := j.entry, count := 0 } ∧ t.scr.tiles = s.scr.tiles ∧ t.scr.store = s.scr.store) ∧
    (∀ p, u.run = some p → p.job.kind ≠ 0xE → exec (.scribeJobStart h) s = .next s) ∧
    (∀ j, nextJob s h = some j → (j ∈ u.ready ∨ nextAttn s h = some j ∨ proofJobOf s h = some j) ∧
      ∀ k ∈ u.ready, jobRank k ≤ 1 → jobRank j ≤ jobRank k ∨ nextAttn s h = some j)) ∧
  (
  ∀ (c seq : Nat) (k : Cmd) (s : State), s.scribesOk → findCmd s c seq = some k →
    (k.phase = .begun → k.op = 0x10 → (∀ r ∈ s.scr.runs, ¬ (r.stream = c ∧ r.seq = seq)) →
      (∀ b, rd k.body 4 4 ≤ b.length →
        ∃ t j n, exec (.scribeRun c seq (.data b)) s = .next t ∧ t = { s with scr := { s.scr with unit := t.scr.unit, runs := t.scr.runs } } ∧
          (∀ h, scribeOf t h = if h ∈ runShelves k.body then { scribeOf s h with ready := (scribeOf s h).ready ++ [j] } else scribeOf s h) ∧
          j.kind = 0xE ∧ j.carrel = c ∧ j.seq = seq ∧ j.first = 98304 ∧ j.last = 98304 + 16384 ∧ j.entry = 98304 + rd k.body 0 4 ∧
          (∀ r ∈ s.scr.runs, r.buf ≠ n) ∧
          t.scr.runs = s.scr.runs ++ [{ stream := c, seq := seq, shelves := runShelves k.body, left := runShelves k.body, scratch := rd k.body 0x18 4
                                        buf := n, data := b.take (rd k.body 4 4) }]) ∧
      (∀ f, (∀ b, f = Fetch.data b → b.length < rd k.body 4 4) → ∃ t, exec (.scribeRun c seq f) s = .next t ∧ t = { s with itk := { s.itk with cmds := t.itk.cmds } } ∧
        findCmd t c seq = some { k with phase := .finished, status := stFormat, value := 0xFFFFFFFF })) ∧
    (∀ r, s.scr.runs.find? (fun r => r.stream == c && r.seq == seq) = some r →
      ∃ t, exec (.scribeRunTimeout c seq) s = .next t ∧ findCmd t c seq = some { k with phase := .finished, status := stTimeout, value := 0xFFFFFFFF } ∧
        (∀ x ∈ t.scr.runs, ¬ (x.stream = c ∧ x.seq = seq)) ∧ t.out = s.out ∧ t.scr.tiles = s.scr.tiles ∧ t.scr.store = s.scr.store ∧
        t.kv = s.kv ∧ t.regs = s.regs) ∧
    ((∀ r ∈ s.scr.runs, ¬ (r.stream = c ∧ r.seq = seq)) → exec (.scribeRunTimeout c seq) s = .next s))

/-- R93 to R96: TILE_READ and TILE_WRITE of a begun command on a shelf that houses no region. A carrel that may not reach the tile gets DENIED and
nothing moves. A read of an unpoisoned tile sends its 1,024 elements in row order to OUT_ADDR and completes with OK; a write replaces every
element, or adds in FP32, marks the tile as the carrel's, and completes with OK. On a shelf of a region the command waits for the pass boundary. -/
def Obligations.TilesReachTheHost : Prop :=
  ∀ (c seq : Nat) (k : Cmd) (s : State), s.scribesOk → findCmd s c seq = some k → k.stream = c → k.seq = seq → k.phase = .begun →
    let shelf := rd k.body 0 1 * 128 + rd k.body 1 1
    let n := rd k.body 2 1
    let x := tileAt s shelf n
    let done := fun (t : State) (st : Nat) => findCmd t c seq = some { k with phase := .finished, status := st, value := 0 }
    (k.op = 0x0E → shelfRegion s shelf = none →
      (tileAllowed s c x = false → ∃ t, exec (.tileRead c seq) s = .next t ∧ done t stDenied ∧ t = { s with itk := { s.itk with cmds := t.itk.cmds } }) ∧
      (tileAllowed s c x = true → x.poison = 0 → ∃ t, exec (.tileRead c seq) s = .next t ∧ done t stOk ∧ t.scr = s.scr ∧
        t = { s with itk := { s.itk with cmds := t.itk.cmds }, out := t.out } ∧ t.out = ((List.range 16).foldl (fun s r =>
          dmaWrite s (streamFn c) (rd k.body 8 8 + 256 * r) ((List.range 64).flatMap fun j => leBytes 4 (x.elem r j).toNat)) s).out)) ∧
    (k.op = 0x0F → shelfRegion s shelf = none → ∀ b, 4096 ≤ b.length →
      (tileAllowed s c x = true → ∃ t, exec (.tileWrite c seq (.data b)) s = .next t ∧ done t stOk ∧
        (tileAt t shelf n).owner = some c ∧ (∀ m, m ≠ tileKey shelf n → sget (fun _ => freshTile) t.scr.tiles m = sget (fun _ => freshTile) s.scr.tiles m) ∧
        (∀ r < 16, ∀ j < 64, (tileAt t shelf n).elem r j =
          let v := BitVec.ofNat 32 (rd b (4 * (64 * r + j)) 4)
          if rd k.body 3 1 % 2 = 1 then fadd (x.elem r j) v else v) ∧
        t = { s with itk := { s.itk with cmds := t.itk.cmds }, scr := { s.scr with tiles := t.scr.tiles } })) ∧
    ((k.op = 0x0E ∨ k.op = 0x0F) → (shelfRegion s shelf).isSome = true → (∀ y ∈ s.scr.tileCmds, ¬ (y.1 = c ∧ y.2.1 = seq)) → ∀ b, 4096 ≤ b.length →
      ∃ t, exec (if k.op = 0x0E then .tileRead c seq else .tileWrite c seq (.data b)) s = .next t ∧
        t = { s with scr := { s.scr with tileCmds := t.scr.tileCmds } } ∧ ∃ d, t.scr.tileCmds = s.scr.tileCmds ++ [(c, seq, d)])

/-! ### Adapters (09) -/

/-- R218, R219, R221: ADAPTER_BIND of a begun command for a session that stands. UNBIND takes the session's binding away, at once without a pass
in flight and from the next boundary with one, and completes with OK; where the carrel has no loan shelf it is DENIED as a bind is. A bind that a check of R218
refuses completes with the check's status and changes nothing else. A bind through BULK whose header fetch was lost with port B waits for it anew (R227). A good bind of an adapter that the carrel has no entry for, without WAIT, binds the session, makes an entry of the header's
stages and footprint, asks for all its bytes, and completes with OK. Entries that wait for room are not there.

R219, R223, R224, R227, R228: ADAPTER_FETCH_COMPLETE of a stage whose fetch is on a link, with no bind waiting for the adapter and no entry waiting for room.
The bytes of the stage's length make it resident, and the link is free for the next fetch. A first failure only notes the second request; a second failure poisons the
stage, counts in FETCH_ERR and is recorded at WARNING. A fetch that port B lost is no failure and stays. A stage that nobody asked for, or whose fetch waits for a
link, changes nothing. -/
def Obligations.AdaptersBindAndLoad : Prop :=
  (
  ∀ (c seq : Nat) (k : Cmd) (f : Fetch) (x : Session) (s : State), findCmd s c seq = some k → k.phase = .begun → k.op = 0x05 →
    findSession s (rd k.body 0 4) = some x → s.noLoanWaits →
    let bound := fun (b : Option Binding) => if inPass s x.handle then { x with nextBinding := some b } else { x with binding := b, nextBinding := none }
    let done := fun (t : State) (st : Nat) => findCmd t c seq = some { k with phase := .finished, status := st, value := 0 }
    let frame := fun t : State => t = { s with itk := { s.itk with cmds := t.itk.cmds }, kv := { s.kv with sessions := t.kv.sessions }, loans := t.loans }
    let lost := (rd k.body 8 2).testBit 1 = false ∧ (carrelNow s c).loanMib ≠ 0 ∧ reissued s ((rd k.body 8 2).testBit 0) f = true
    ((rd k.body 8 2).testBit 1 = true → (carrelNow s c).loanMib ≠ 0 → ∃ t, exec (.adapterBind c seq f) s = .next t ∧ done t stOk ∧ frame t ∧
      findSession t x.handle = some (bound none) ∧ ∀ l ∈ t.loans, l.offLink ∈ s.loans.map Loan.offLink) ∧
    (lost → exec (.adapterBind c seq f) s = .next s) ∧
    (¬ lost → bindStatus s c x k.body f ≠ stOk →
      ∃ t, exec (.adapterBind c seq f) s = .next t ∧ done t (bindStatus s c x k.body f) ∧ t = { s with itk := { s.itk with cmds := t.itk.cmds } }) ∧
    (∀ img, f = .data img → (rd k.body 8 2).testBit 1 = false → (rd k.body 8 2).testBit 2 = false → bindStatus s c x k.body f = stOk →
      findLoan s c (rd k.body 4 4) = none → ∃ t l, exec (.adapterBind c seq f) s = .next t ∧ done t stOk ∧ frame t ∧
        findSession t x.handle = some (bound (some ⟨rd k.body 4 4, rd k.body 0x10 8, rd k.body 0x18 4, (rd k.body 8 2).testBit 0, false⟩)) ∧
        findLoan t c (rd k.body 4 4) = some l ∧ l.pages = footprint (adapterEntries img) ∧ l.len = rd k.body 0x18 4 ∧ l.addr = rd k.body 0x10 8 ∧
        l.stages.map (fun y => (y.stage, y.len, y.off)) = adapterEntries img ∧ (∀ y ∈ l.stages, y.data = none ∧ y.asked = true))) ∧
  (
  ∀ (c a st : Nat) (s : State), s.regsOk → s.noLoanWaits →
    (∀ l x b, findLoan s c a = some l → l.held = true → l.stages.find? (fun y => y.stage == st && y.asked && y.via.isSome) = some x →
      (∀ k ∈ s.itk.cmds, ¬ (k.stream = c ∧ k.op = 0x05 ∧ k.phase = .begun ∧ k.passesLeft = 1 ∧ rd k.body 4 4 = a)) →
      (b.length = x.len → ∃ t, exec (.adapterFetchComplete c a st (.data b)) s = .next t ∧ t = { s with loans := t.loans } ∧
        (findLoan t c a).map Loan.offLink = some (Loan.offLink
          { l with stages := l.stages.map fun y => if y.stage = st then { y with data := some b, asked := false, tries := 0 } else y })) ∧
      (x.via = some .pf2 → exec (.adapterFetchComplete c a st .lost) s = .next s) ∧
      (∀ f, ¬ (f = .lost ∧ x.via = some .pf2) → (∀ b, f ≠ .data b) →
        (x.tries = 0 → ∃ t, exec (.adapterFetchComplete c a st f) s = .next t ∧ t = { s with loans := t.loans } ∧
          findLoan t c a = some { l with stages := l.stages.map fun y => if y.stage = st then { y with tries := 1 } else y }) ∧
        (x.tries ≠ 0 → ∃ t, exec (.adapterFetchComplete c a st f) s = .next t ∧ t = { s.withRegs t with loans := t.loans } ∧
          (findLoan t c a).map Loan.offLink = some (Loan.offLink { l with stages := l.stages.map fun y =>
            if y.stage = st then { y with poison := true, asked := false, tries := 0 } else y }) ∧
          counted s t (Reg.ADP_STATS.FETCH_ERR c) 1 ∧
          s.regsFrom t [(Reg.ADP_STATS.FETCH_ERR c).addr] ∧ recorded s t 0x0300 2 st a 0))) ∧
    (∀ f, (((findLoan s c a).filter (·.held)).bind fun l => l.stages.find? fun y => y.stage == st && y.asked && y.via.isSome) = none →
      exec (.adapterFetchComplete c a st f) s = .next s))

/-! ### Accession (08) -/

/-- R197, R199, R209, R215: ACC_BEGIN, ACC_SHARD, ACC_COMMIT and ACC_CANCEL of a begun command of PF1. ACC_BEGIN answers BUSY before anything else, then
NO_TRUST without a publisher; with OK the accession that its checks chose stands, else only LAST_RESULT changes; its status is that of
Table 8-7 and every result but OK is recorded. ACC_SHARD of the manifest's length, unverified, outside BULK, starts its fetch and resumes a paused accession.
ACC_COMMIT from RECEIVING starts the commit and waits. ACC_CANCEL before the colophon, with no target chosen, ends the accession and completes with OK; from FLIP_PENDING it
completes ALREADY_COMPLETE. -/
def Obligations.AccessionCommands : Prop :=
  ∀ (seq : Nat) (k : Cmd) (s : State), s.accOk → s.regsOk → findCmd s 1024 seq = some k → k.phase = .begun →
    let r := rd k.body 0 1
    let a := accOf s r
    (∀ f, k.op = 0x20 →
      let x := beginAcc s k.body f
      (beginBusy s r = true → x.1 = 1 ∧ x.2.2 = none) ∧ (beginBusy s r = false → s.img.bound.publishers = [] → x.1 = 2 ∧ x.2.2 = none) ∧
      (x.2.2.isSome = true ↔ x.1 = 0) ∧ (∀ b, x.2.2 = some b → b.phase = (if rd k.body 1 1 = 3 then .restoring else .receiving) ∧ b.manifest = x.2.1 ∧ b.shards = []) ∧
      ∃ t, exec (.accBegin seq f) s = .next t ∧ finishedAs t 1024 seq k (accStatus x.1) 0 ∧ accOf t r = { x.2.2.getD a with lastResult := x.1, timer := (accOf t r).timer } ∧
        accFrom s t r ∧ t = { s.withRegs t with acc := t.acc, itk := { s.itk with cmds := t.itk.cmds } } ∧ s.regsFrom t [] ∧
        (x.1 = 0 → t.ann = s.ann) ∧ (x.1 ≠ 0 → recorded s t 0x0300 3 x.1 ((x.2.1.map (·.serial)).getD 0) ((x.2.1.map fun m => rd m.keyId 0 8).getD 0))) ∧
    (∀ m, k.op = 0x21 → a.manifest = some m → takesShards a = true → (rd k.body 1 1).testBit 0 = false →
      m.shards[rd k.body 4 4]?.map (·.1) = some (rd k.body 0x10 4) → sget (fun _ => ([] : Bytes)) a.shards (rd k.body 4 4) = [] →
      ∃ t, exec (.accShard seq) s = .next t ∧ t = { s with acc := t.acc } ∧ accFrom s t r ∧
        accOf t r = { a with phase := if a.phase = .paused then (if a.restore then .restoring else .receiving) else a.phase
                             fetches := a.fetches ++ [⟨seq, rd k.body 4 4, rd k.body 8 8, false, 1, shardDue s⟩], timer := none }) ∧
    (k.op = 0x22 → (a.phase = .receiving → ∃ t, exec (.accCommit seq) s = .next t ∧ t = { s with acc := t.acc } ∧ accFrom s t r ∧
        accOf t r = { a with phase := .committing, commitSeq := some seq }) ∧
      (a.phase ≠ .receiving → ∃ t, exec (.accCommit seq) s = .next t ∧ accFrom s t r ∧
        finishedAs t 1024 seq k (if a.phase = .paused ∧ a.restore = false then stTimeout else stDenied) 0 ∧ (accOf t r).phase = a.phase)) ∧
    (k.op = 0x23 → (((a.phase = .receiving ∨ a.phase = .paused ∨ a.phase = .committing) → a.targets = [] →
        ∃ t, exec (.accCancel seq) s = .next t ∧ finishedAs t 1024 seq k stOk 0 ∧ accFrom s t r ∧ s.regsFrom t [] ∧
          accOf t r = { a with phase := .idle, manifest := none, shards := [], fetches := [], newHousing := [], commitSeq := none
                               timer := none, inPlace := false, restore := false, lastResult := 0 } ∧
          (∀ q k', q ≠ seq → findCmd s 1024 q = some k' → (a.commitSeq = some q ∨ ∃ x ∈ a.fetches, x.seq = q) → finishedAs t 1024 q k' stAborted 0))) ∧
      (a.phase = .failed → ∃ t, exec (.accCancel seq) s = .next t ∧ finishedAs t 1024 seq k stOk 0 ∧ accFrom s t r ∧
        accOf t r = { a with phase := .idle, lastResult := 0 }) ∧
      (a.phase = .flipPending → ∃ t, exec (.accCancel seq) s = .next t ∧ finishedAs t 1024 seq k stAlready 0 ∧
        t = { s with itk := { s.itk with cmds := t.itk.cmds } }))

/-- R207, R208, R213: SHARD_FETCH_COMPLETE and SHARD_TIMEOUT. The bytes that match the manifest's length and digest verify the shard in an accession that receives, where no block or batch of the body breaks R198: they are
kept, the fetch is done and its command completes with OK. Others are asked for again until the fourth fetch, which with no target chosen fails the
accession: FAILED, LAST_RESULT 7, its commands complete with FORMAT. SHARD_TIMEOUT pauses an accession or a restore whose timer, or some fetch of which, has run for
LIMIT_US: such fetches are abandoned, their commands and the ACC_COMMIT complete with TIMEOUT, the other fetches and the verified shards stay. Before that it changes
nothing.

R204, R205, R206: COMMIT_RECORDS_DURABLE and ARCHIVE_COPY_FREE. In COMMITTING, with every shard verified and every new folio READY with its moments, the package
of the manifest and the verified blocks waits for the flip with the accession, and no folio changes, while a pass of the region is in flight; a region without one has
its boundary at once: the package is committed, GENERATION rises, the phase is IDLE and the ACC_COMMIT completes with OK. A failed NAND write completes the ACC_COMMIT
with NO_SPACE and keeps the old package (the model's choice, log entry 44). Before that nothing changes. The copy that a flip replaced is freed once its passes are over and no check
refers to it. -/
def Obligations.ShardsVerifyAndCommit : Prop :=
  (
  ∀ (r : Nat) (s : State), s.accOk → s.regsOk →
    let a := accOf s r
    (∀ i x e m f k, a.fetches = [x] → x.index = i → a.manifest = some m → m.shards[i]? = some e → a.phase = .receiving → a.restore = false → a.commitSeq = none →
      findCmd s 1024 x.seq = some k → swf (fun _ => ([] : Bytes)) a.shards = true →
      (∀ b, f = .data b → b.length = e.1 → shake256 b = e.2 →
        let s' := modAcc s r fun a => { a with shards := sset (fun _ => ([] : Bytes)) a.shards i b, fetches := a.fetches.filter (·.index != i) }
        (∀ g, s.img.bound.region? r = some g → bodyFault s' g (accOf s' r) m = false) →
        ∃ t, exec (.shardFetchComplete r i f) s = .next t ∧ finishedAs t 1024 x.seq k stOk 0 ∧ accFrom s t r ∧
          accOf t r = { a with shards := (accOf t r).shards, fetches := [], lastResult := 0, timer := (accOf t r).timer } ∧ sget (fun _ => []) (accOf t r).shards i = b ∧
          (∀ j, j ≠ i → sget (fun _ => []) (accOf t r).shards j = sget (fun _ => []) a.shards j) ∧ t.ann = s.ann ∧ t.regs = s.regs) ∧
      ((f = .error ∨ f = .poisoned ∨ ∃ b, f = .data b ∧ ¬ (b.length = e.1 ∧ shake256 b = e.2)) →
        (x.tries < 4 → ∃ t, exec (.shardFetchComplete r i f) s = .next t ∧ t = { s with acc := t.acc } ∧ accFrom s t r ∧
          accOf t r = { a with fetches := [{ x with tries := x.tries + 1, due := shardDue s }] }) ∧
        (4 ≤ x.tries → a.targets = [] → ∃ t, exec (.shardFetchComplete r i f) s = .next t ∧ finishedAs t 1024 x.seq k stFormat 0 ∧ accFrom s t r ∧
          accOf t r = { a with phase := .failed, manifest := none, shards := [], fetches := [], newHousing := [], commitSeq := none
                               timer := none, inPlace := false, lastResult := 7 } ∧ recorded s t 0x0300 3 7 m.serial (rd m.keyId 0 8)))) ∧
    let expired := (∃ x ∈ a.fetches, x.due ≤ s.clk.tick) ∨ ∃ d, a.timer = some d ∧ d ≤ s.clk.tick
    (expired → ∃ t, exec (.shardTimeout r) s = .next t ∧ accFrom s t r ∧ s.regsFrom t [] ∧
        accOf t r = { a with phase := .paused, fetches := a.fetches.filter (fun x => decide (s.clk.tick < x.due)), commitSeq := none, timer := none
                             lastResult := (accOf t r).lastResult } ∧
        ∀ q k, findCmd s 1024 q = some k → (a.commitSeq = some q ∨ ∃ x ∈ a.fetches, x.due ≤ s.clk.tick ∧ x.seq = q) → finishedAs t 1024 q k stTimeout 0) ∧
    (¬ expired → exec (.shardTimeout r) s = .next s)) ∧
  (
  ∀ (r : Nat) (s : State), s.accOk → s.regsOk →
    let a := accOf s r
    (∀ g m q k, s.img.bound.region? r = some g → a.manifest = some m → a.commitSeq = some q → findCmd s 1024 q = some k →
      (a.phase = .committing → allShards a = true → allReady s a = true →
        ((∀ n ∈ incoming a, sget (fun _ => ([] : Sparse Int)) s.col.moments n ≠ []) →
          ((passOf s r).isSome = true → ∃ t, exec (.commitRecordsDurable r true true) s = .next t ∧ accFrom s t r ∧ t = { s with acc := t.acc, free := t.free } ∧
            accOf t r = { a with phase := .flipPending, timer := none, intent := false, newPackage := some (packageOf s g a m), newNorms := (accOf t r).newNorms }) ∧
          (passOf s r = none → ∃ t, exec (.commitRecordsDurable r true true) s = .next t ∧ (accOf t r).phase = .idle ∧
            (accOf t r).package = some (packageOf s g a m) ∧ (accOf t r).generation = (a.generation + 1) % 2 ^ 32 ∧ finishedAs t 1024 q k stOk 0)) ∧
        ∀ nandOk colophonOk, (nandOk && colophonOk) = false → ∃ t, exec (.commitRecordsDurable r nandOk colophonOk) s = .next t ∧ accFrom s t r ∧ t.arr = s.arr ∧ t.kv = s.kv ∧ t.col = s.col ∧ t.run = s.run ∧ s.regsFrom t [] ∧
          accOf t r = { a with phase := .receiving, commitSeq := none, lastResult := 0x0D } ∧ finishedAs t 1024 q k stNoSpace 0) ∧
      (∀ nandOk colophonOk, a.phase ≠ .committing ∨ allShards a = false ∨ allReady s a = false → exec (.commitRecordsDurable r nandOk colophonOk) s = .next s)) ∧
    (∀ o, a.oldArchive = some o →
      (o.2.1 = 0 → (∀ c ∈ (vigOf s r).checks, o.2.2 ≤ c.epoch) →
        ∃ t, exec (.archiveCopyFree r) s = .next t ∧ t = { s with acc := t.acc } ∧ accFrom s t r ∧ accOf t r = { a with oldArchive := none }) ∧
      (o.2.1 ≠ 0 → exec (.archiveCopyFree r) s = .next s)))

/-- R66, R200, R201, R203, R211: the programming of folios. FOLIO_PROGRAM_START with one target that can start and a slot for it puts its folio into ACCESSING with one more WEAR,
its slot, its region and the block's levels, and records the change. FOLIO_PROGRAM_DONE keeps the stuck map, in which a cell that it listed stays (its re-measured levels, where
none are given, are free values), and counts the trim programming: COLLATING where the map allows service, else RETIRED, a folio of no accession. WEAR_LEVEL of a serving folio that is due starts a copy on the youngest spare, and the folio goes on serving. In a hall whose clocks stand (R344) no programming starts or ends. -/
def Obligations.FoliosAreProgrammed : Prop :=
  ∀ s : State, s.foliosOk → s.regsOk →
    let only := fun (t : State) (ks : List Nat) =>
      t = { s.withRegs t with arr := { s.arr with folios := t.arr.folios }, col := t.col, free := t.free } ∧ s.regsFrom t [] ∧
      ∀ j, j ∉ ks → folioAt t j = folioAt s j
    (∀ h r x b, hallOff s h = false → startable s h = [(r, x)] → 0 < programSlots s h .accession (fget s Reg.ACC_CTRL.POWER_DW) → targetBlock s r (accOf s r) x = some b →
      let key := folioKey x.shelf x.pos
      ∃ t, exec (.folioProgramStart h) s = .next t ∧ only t [key] ∧ (folioAt t key).st = .accessing ∧
        (folioAt t key).wear = min ((folioAt s key).wear + 1) 16383 ∧ (folioAt t key).logical = x.slot ∧ (folioAt t key).region = r ∧
        (folioAt t key).content = (if x.low then .low b else .high b) ∧
        recorded s t 0x0200 0 (folioAt s key).st.code FState.accessing.code (min ((folioAt s key).wear + 1) 16383)) ∧
    (∀ h, (hallOff s h = true ∨ startable s h = []) → exec (.folioProgramStart h) s = .next s) ∧
    (∀ shelf pos cells,
      let key := folioKey shelf pos
      let f := folioAt s key
      let m := stuckMapOf f (measuredCells f s.free cells)
      ((hallOff s (hallOf shelf) = true ∨ f.st ≠ .accessing) → exec (.folioProgramDone shelf pos cells) s = .next s) ∧
      (hallOff s (hallOf shelf) = false → f.st = .accessing → stuckOk m = true → ∃ t, exec (.folioProgramDone shelf pos cells) s = .next t ∧ only t [key] ∧
        folioAt t key = { f with st := .collating, stuckMap := m, stuck := min (uncompensated m) 16383, trimProgs := f.trimProgs + 1
                                 trimDraw := s.free, trims := [] } ∧
        recorded s t 0x0200 0 FState.accessing.code FState.collating.code f.wear) ∧
      (hallOff s (hallOf shelf) = false → f.st = .accessing → stuckOk m = false → (∀ x ∈ (accOf s f.region).targets, ¬ (x.shelf = key / 68 ∧ x.pos = key % 68)) →
        ∃ t, exec (.folioProgramDone shelf pos cells) s = .next t ∧ only t [key, folioKey (key / 68) f.replaces] ∧ (folioAt t key).st = .retired ∧
          (folioAt t key).logical = 0x7F ∧ (folioAt t key).stuckMap = m ∧ recorded s t 0x0200 0 FState.accessing.code FState.retired.code f.wear)) ∧
    (∀ shelf pos c,
      let key := folioKey shelf pos
      let f := folioAt s key
      let b := s.img.bound.budget 5
      pos < 68 → hallOff s (hallOf shelf) = false → f.st = .serving → (accOf s f.region).archive = true → b.enable = true → (∀ x, f.leveled = some x → x + b.periodS * 1000000 ≤ s.clk.tick) →
      copyOf s key = none → spareFor s shelf 4 = some c → (folioAt s c).wear + 256 ≤ f.wear → 0 < programSlots s (hallOf shelf) .wear b.powerDw →
      ∃ t, exec (.wearLevel shelf pos) s = .next t ∧ only t [key, c] ∧ folioAt t key = { f with leveled := some s.clk.tick } ∧
        (folioAt t c).st = .accessing ∧ (folioAt t c).content = f.content ∧ (folioAt t c).logical = f.logical ∧ (folioAt t c).region = f.region ∧
        (folioAt t c).wear = min ((folioAt s c).wear + 1) 16383)

/-! ### Collation and drift (07) -/

/-- R160, R161, R162, R163, R168: TAP_UPDATE and BANK_SWITCH of a serving folio. TAP_UPDATE of a folio whose shadow is not valid, whose last fit calls for gains or offsets that it carries and whose archive copy is resident, writes the
words that the fit gives to the shadow bank, reserved bits zero, and marks it valid, for the next vector or, where a DELAY changes, for the pass boundary; the fit is used up but for what is due and not carried; the active bank,
the bank select and every other folio's banks stay. BANK_SWITCH of a valid shadow due at the
next vector, between two vectors, makes the shadow active and the old bank an invalid shadow, counts one switch of the hall and restarts the window; otherwise,
and in a hall whose clocks stand (R344), nothing changes.

R168 to R171, R167: windows and sweeps. PASSIVE_WINDOW_END of a serving folio with a full window, enabled, with its archive copy, PERIOD_S after its last one and with the power that it draws granted, fits
every usable column by weighted least squares over its planes (R168) and keeps that an update may be due; an unusable column keeps its estimate; without a full window, or without that power, nothing changes.
ACTIVE_SWEEP makes one strike of a sweep, whose codes go to no ledger: of a COLLATING folio with sweeps left, the first counts the sweep, the first 16 of the 128 drive no row, and none
comes after the 128th; a pass that needs a serving folio wins. SWEEP_FIT without 128 strikes changes nothing; on a COLLATING folio a fit that does not converge before the sixteenth sweep switches
its taps in and leaves it COLLATING, and one that converges makes it READY. Where the hall's clocks stand (R344) windows and sweeps change nothing. TEMP_SAMPLE keeps the hall's temperature. -/
def Obligations.BanksSweepsAndWindows : Prop :=
  (
  ∀ (shelf pos : Nat) (s : State), s.foliosOk → s.regsOk → swf (fun _ => freshWin) s.col.wins = true →
    let key := folioKey shelf pos
    let f := folioAt s key
    (∀ x gains offsets, hallOff s (hallOf shelf) = false → f.st = .serving → f.shadowValid = false → archiveHere s f.region = true → updateDue s key gains offsets = true → fitOf s key = some x →
      (folioChain s key).isSome = true → swf (fun _ => (none : Option Fit)) s.col.fits = true →
      let b := tunedBank s key (regionWindow s f.region (key / 68 / 128)) x (x.sweep || (gains && gainDue s key)) (x.sweep || (offsets && offsetDue s key))
      ∃ t, exec (.tapUpdate shelf pos gains offsets) s = .next t ∧ t = { s with col := t.col, arr := { s.arr with folios := t.arr.folios } } ∧ fitOf t key = (if updateLeft s key x gains offsets then some x else none) ∧
        shadowBank (folioAt t key) = b ∧ (∀ j < 512, (tapAt b j).toNat < 2 ^ 23) ∧
        ((∃ j < 512, tapDelay (tapAt b j) ≠ tapDelay (tapAt (activeBank f) j)) → (folioAt t key).shadowAt = 1) ∧ activeBank (folioAt t key) = activeBank f ∧ (folioAt t key).bank = f.bank ∧
        (folioAt t key).shadowValid = true ∧ (folioAt t key).st = .serving ∧
        ∀ j, j ≠ key → (folioAt t j).bankA = (folioAt s j).bankA ∧ (folioAt t j).bankB = (folioAt s j).bankB ∧ (folioAt t j).st = (folioAt s j).st) ∧
    (∀ gains offsets, (hallOff s (hallOf shelf) = true ∨ f.st ≠ .serving ∨ f.shadowValid = true ∨ archiveHere s f.region = false ∨
      updateDue s key gains offsets = false) → exec (.tapUpdate shelf pos gains offsets) s = .next s) ∧
    (hallOff s (hallOf shelf) = false → f.st = .serving → f.shadowValid = true → f.shadowAt = 0 → betweenVectors s key = true → f.bank < 2 →
      let r := Reg.COL_EVENTS.SWITCHES (hallOf (key / 68))
      ∃ t, exec (.bankSwitch shelf pos) s = .next t ∧ folioAt t key = { f with bank := 1 - f.bank, shadowValid := false } ∧
        activeBank (folioAt t key) = shadowBank f ∧ shadowBank (folioAt t key) = activeBank f ∧ (∀ j, j ≠ key → folioAt t j = folioAt s j) ∧
        (∀ a, a ≠ r.addr → rget t a = rget s a) ∧ sget (fun _ => freshWin) t.col.wins key = freshWin ∧ t.kv = s.kv ∧ t.run = s.run ∧ t.img = s.img) ∧
    ((hallOff s (hallOf shelf) = true ∨ f.st ≠ .serving ∨ f.shadowValid = false ∨ f.shadowAt ≠ 0 ∨ betweenVectors s key = false) → exec (.bankSwitch shelf pos) s = .next s)) ∧
  (
  ∀ (shelf pos : Nat) (s : State), s.foliosOk → s.regsOk → swf (fun _ => freshWin) s.col.wins = true →
    swf (fun _ => (none : Option SweepRun)) s.col.sweeps = true → swf (fun _ => fone) s.col.khat = true → swf (fun _ => freshWin) s.col.full = true →
    swf (fun _ => (none : Option Fit)) s.col.fits = true →
    let key := folioKey shelf pos
    let f := folioAt s key
    let w := sget (fun _ => freshWin) s.col.full key
    (hallOff s (hallOf shelf) = false → f.st = .serving → w.vectors ≠ 0 → archiveHere s f.region = true →
      activityOn s (Reg.COL_CTRL.PASSIVE_EN (hallOf shelf)) 2 = true → periodOver s 2 (sget (fun _ => (none : Option Nat)) s.col.visited key) = true →
      ∀ power, powerAllows s (hallOf shelf) 2 power = true → ∃ t, exec (.passiveWindowEnd shelf pos power) s = .next t ∧ t = { s with col := t.col, arr := { s.arr with folios := t.arr.folios } } ∧
        sget (fun _ => freshWin) t.col.full key = freshWin ∧ (fitOf t key).map (·.sweep) = some false ∧
        ∀ j < 512, khatOf t key j = if windowUsable s key j w then (planeFit f.rangeExp (planeSums s key j w)).1.toW else khatOf s key j) ∧
    (∀ power, (hallOff s (hallOf shelf) = true ∨ f.st ≠ .serving ∨ w.vectors = 0 ∨ powerAllows s (hallOf shelf) 2 power = false) →
      exec (.passiveWindowEnd shelf pos power) s = .next s) ∧
    ((hallOff s (hallOf shelf) = true ∨ (hallPower s (hallOf shelf)).stretched = true ∨ (hallPower s (hallOf shelf)).gated = true ∨
        (f.st = .serving ∧ passNeeds s key = true) ∨ (∃ run, sweepOf s key = some run ∧ 128 ≤ run.codes.length)) → exec (.activeSweep shelf pos) s = .next s) ∧
    (hallOff s (hallOf shelf) = false → (hallPower s (hallOf shelf)).stretched = false → (hallPower s (hallOf shelf)).gated = false →
      f.st = .collating → f.ready = false → (f.purpose = .accession ∨ archiveHere s f.region = true) →
      let struck := fun (t : State) (run : SweepRun) => t = { s.withRegs t with arr := t.arr, col := t.col, free := t.free } ∧ t.arr.ledgers = s.arr.ledgers ∧
        (∀ j, j ≠ key → folioAt t j = folioAt s j) ∧ sweepOf t key = some run
      (sweepOf s key = none → f.sweeps < 16 → ∃ t run cs, exec (.activeSweep shelf pos) s = .next t ∧ struck t run ∧
        folioAt t key = { f with sweeps := f.sweeps + 1, lastSweep := some s.clk.tick } ∧ run.number = f.sweeps ∧ run.codes = [cs] ∧ cs.length = 512) ∧
      (∀ run, sweepOf s key = some run → run.codes.length < 128 →
        let rows := sweepRows key run.number run.codes.length
        ∃ t, exec (.activeSweep shelf pos) s = .next t ∧ folioAt t key = f ∧
          struck t { run with codes := run.codes ++ [(strikeCodes s key (regionWindow s f.region (key / 68 / 128)) rows).map (·.code)] })) ∧
    (∀ k n m, m < 16 → sweepRows k n m = []) ∧
    (∀ trims targets alpha, (hallOff s (hallOf shelf) = true ∨ sweepOf s key = none ∨ (∃ run, sweepOf s key = some run ∧ run.codes.length < 128)) →
      exec (.sweepFit shelf pos trims targets alpha) s = .next s) ∧
    (∀ run trims targets alpha, hallOff s (hallOf shelf) = false → sweepOf s key = some run → 128 ≤ run.codes.length → f.st = .collating → f.bank < 2 →
      let fits := sweepFits f key run
      (f.sweeps < 16 → fits.all columnConverged = false →
        ∃ t, exec (.sweepFit shelf pos trims targets alpha) s = .next t ∧ (folioAt t key).st = .collating ∧ (folioAt t key).ready = f.ready ∧
          (folioAt t key).bank = 1 - f.bank ∧ (folioAt t key).shadowValid = false ∧ (folioAt t key).sweepPending = false ∧
          sweepOf t key = none ∧ (∀ j, j ≠ key → folioAt t j = folioAt s j) ∧ t.kv = s.kv ∧ t.run = s.run) ∧
      (fits.all columnConverged = true →
        ∃ t, exec (.sweepFit shelf pos trims targets alpha) s = .next t ∧ (folioAt t key).st = .collating ∧ (folioAt t key).ready = true ∧
          (folioAt t key).bank = 1 - f.bank ∧ sweepOf t key = none ∧ (∀ j, j ≠ key → folioAt t j = folioAt s j) ∧ t.kv = s.kv ∧ t.run = s.run)) ∧
    (∀ h temp, swf (fun _ => (0 : Int)) s.col.temps = true →
      ∃ t, exec (.tempSample h temp) s = .next t ∧ t = { s with col := t.col } ∧ hallTemp t h = junction s h temp ∧ ∀ g, g ≠ h → hallTemp t g = hallTemp s g))

/-- R68, R172, R176, R177, R179, R180: DEEP_COLLATION, DRIFT_REFRESH and the hour. A serving folio that is due and not being copied, with its archive
copy, the activity on, power and a spare of its rank, is copied onto that spare: the spare is ACCESSING with the folio's slot, region and levels and one more WEAR, and
the folio goes on serving as it was; a failed folio is copied at rank 1. Without the archive copy the first deferral of the folio is recorded and nothing else
changes. In a hall whose clocks stand (R344), or while a bind holds the region (R34), no copy starts. The hourly update ages every folio that serves or collates by one hour and no other; while the module is unpowered it does nothing. -/
def Obligations.CopiesAndAges : Prop :=
  ∀ (shelf pos : Nat) (s : State), s.foliosOk → s.regsOk →
    let key := folioKey shelf pos
    let f := folioAt s key
    let h := hallOf shelf
    let copied := fun (t : State) (c : Nat) (p : Purpose) => t = { s.withRegs t with arr := { s.arr with folios := t.arr.folios }, col := t.col } ∧ s.regsFrom t [] ∧
      (∀ j, j ≠ c → folioAt t j = folioAt s j) ∧ (folioAt t c).st = .accessing ∧ (folioAt t c).content = f.content ∧ (folioAt t c).logical = f.logical ∧
      (folioAt t c).region = f.region ∧ (folioAt t c).purpose = p ∧ (folioAt t c).replaces = key % 68 ∧ (folioAt t c).wear = min ((folioAt s c).wear + 1) 16383
    let put := fun (t : State) (act : Nat) => t = { s.withRegs t with col := { s.col with deferred := s.col.deferred ++ [key] } } ∧
      recorded s t 0x0202 1 act 0 0
    (hallOff s h = false → f.st = .serving → f.deepPending = true → f.refreshDue = false → f.failed = false → copyOf s key = none → bindHolds s f.region = false →
      (∀ c, archiveHere s f.region = true → activityOn s (Reg.COL_CTRL.DEEP_EN h) 4 = true → 0 < programSlots s h .deep (s.img.bound.budget 4).powerDw →
        spareFor s shelf 3 = some c → ∃ t, exec (.deepCollation shelf pos) s = .next t ∧ copied t c .deep) ∧
      (archiveHere s f.region = false → s.col.deferred.elem key = false → ∃ t, exec (.deepCollation shelf pos) s = .next t ∧ put t 4) ∧
      (archiveHere s f.region = false → s.col.deferred.elem key = true → exec (.deepCollation shelf pos) s = .next s)) ∧
    ((hallOff s h = true ∨ f.st ≠ .serving ∨ f.deepPending = false ∨ f.refreshDue = true ∨ f.failed = true ∨ (copyOf s key).isSome = true ∨ bindHolds s f.region = true) → exec (.deepCollation shelf pos) s = .next s) ∧
    (hallOff s h = false → f.st = .serving → f.failed = true → copyOf s key = none → bindHolds s f.region = false →
      ∀ c, archiveHere s f.region = true → 0 < programSlots s h .repair (s.img.bound.budget 1).powerDw →
        spareFor s shelf 1 = some c → ∃ t, exec (.driftRefresh shelf pos) s = .next t ∧ copied t c .repair) ∧
    (hallOff s h = false → f.st = .serving → f.refreshDue = true → f.failed = false → copyOf s key = none → bindHolds s f.region = false →
      (∀ c, archiveHere s f.region = true → activityOn s (Reg.COL_CTRL.REFRESH_EN h) 1 = true → 0 < programSlots s h .refresh (s.img.bound.budget 1).powerDw →
        spareFor s shelf 2 = some c → ∃ t, exec (.driftRefresh shelf pos) s = .next t ∧ copied t c .refresh) ∧
      (archiveHere s f.region = false → s.col.deferred.elem key = false → ∃ t, exec (.driftRefresh shelf pos) s = .next t ∧ put t 1)) ∧
    ((hallOff s h = true ∨ f.st ≠ .serving ∨ (f.refreshDue = false ∧ f.failed = false) ∨ (copyOf s key).isSome = true ∨ bindHolds s f.region = true) → exec (.driftRefresh shelf pos) s = .next s) ∧
    (∀ temps, (unpowered s = true → exec (.driftHourlyUpdate temps) s = .next s) ∧
      (unpowered s = false → ∃ t, exec (.driftHourlyUpdate temps) s = .next t ∧ s.regsFrom t [] ∧ t.kv = s.kv ∧ t.img = s.img ∧ t.run = s.run ∧ t.acc = s.acc ∧
        ∀ k, (folioAt t k).st = (folioAt s k).st ∧ (folioAt t k).content = (folioAt s k).content ∧ (folioAt t k).wear = (folioAt s k).wear ∧
          (folioAt t k).ageHours = (if (folioAt s k).st = .serving ∨ (folioAt s k).st = .collating then min ((folioAt s k).ageHours + 1) (2 ^ 32 - 1)
            else (folioAt s k).ageHours)))

/-- R173, R184: COL.REQUEST and the checkpoints. A request while one of the hall's is pending answers BUSY and leaves TAG; a SWEEP of a folio that neither serves nor collates, or a DEEP or
REFRESH of one that does not serve, answers STATE; an accepted one answers OK, echoes its TAG, is pending, and marks the selected folio, a REFRESH also the deep-collation copy that is being
made of it, which then counts as a refresh (R177). A checkpoint, by request or timer, keeps the active banks as
the newer of two slots, or on a failed NAND write drops the older slot.

R174, R175, R408: BOOT_COLLATION_COMPLETE, once every serving folio of a region has been struck and fitted, ends its hold: its commands may begin, its bit of REGION_READY stands, and no session, page or accession of another
region changes. A region that is not held, or an unpowered module, changes nothing. -/
def Obligations.CollationRequestsAndBoot : Prop :=
  (
  ∀ (h tag : Nat) (s : State), s.foliosOk → s.regsOk → h < 4 → tag < 2 ^ 16 → unpowered s = false → swf (fun _ => none) s.col.request = true →
    let key := selectedFolio s h
    let f := folioAt s key
    let shown := fun (t : State) (code tagNow : Nat) => fget t (Reg.COL_STATUS.LAST_RESULT h) = code ∧ fget t (Reg.COL_STATUS.TAG h) = tagNow ∧
      ∀ a, a ≠ (Reg.COL_STATUS.TAG h).addr → rget t a = rget s a
    let old := fget s (Reg.COL_STATUS.TAG h)
    let refused := fun (c : Instr) (code : Nat) => ∃ t, exec c s = .next t ∧ shown t code old ∧ t = { s with regs := t.regs }
    let taken := fun (c : Instr) (cmd : Nat) (g : Folio) => ∃ t, exec c s = .next t ∧ shown t 0 tag ∧ folioAt t key = g ∧
      (∀ j, j ≠ key → folioAt t j = folioAt s j) ∧ sget (fun _ => none) t.col.request h = some (cmd, tag, key) ∧
      t = { s with regs := t.regs, col := { s.col with request := t.col.request }, arr := { s.arr with folios := t.arr.folios } }
    let banks := (s.arr.folios.filter fun e => !(activeBank e.2).isEmpty).map fun e => (e.1, activeBank e.2)
    let kept := fun nandOk : Bool => if nandOk then (⟨banks⟩ :: s.col.checkpoints).take 2 else s.col.checkpoints.take 1
    (requestPending s h = true → refused (.reqSweep h tag) 1 ∧ refused (.reqDeep h tag) 1 ∧ refused (.reqRefresh h tag) 1 ∧
      ∀ ok, refused (.reqCheckpoint h tag ok) 1) ∧
    (requestPending s h = false →
      (f.st ≠ .serving → refused (.reqDeep h tag) 2 ∧ refused (.reqRefresh h tag) 2) ∧
      (f.st ≠ .serving → f.st ≠ .collating → refused (.reqSweep h tag) 2) ∧
      (f.st = .serving → archiveHere s f.region = true →
        (activityOn s (Reg.COL_CTRL.ACTIVE_EN h) 3 = true → taken (.reqSweep h tag) 1 { f with sweepPending := true }) ∧
        (usableSpares s (key / 68) ≠ [] → activityOn s (Reg.COL_CTRL.DEEP_EN h) 4 = true → taken (.reqDeep h tag) 2 { f with deepPending := true }) ∧
        (usableSpares s (key / 68) ≠ [] → activityOn s (Reg.COL_CTRL.REFRESH_EN h) 1 = true →
          (copyOf s key = none → taken (.reqRefresh h tag) 3 { f with refreshDue := true, dueHours := none }) ∧
          ∀ c, copyOf s key = some c → (folioAt s c).purpose = .deep → ∃ t, exec (.reqRefresh h tag) s = .next t ∧ shown t 0 tag ∧
            folioAt t key = { f with refreshDue := true, dueHours := none } ∧ folioAt t c = { folioAt s c with purpose := .refresh } ∧
            ∀ j, j ≠ key → j ≠ c → folioAt t j = folioAt s j)) ∧
      ∀ ok, ∃ t, exec (.reqCheckpoint h tag ok) s = .next t ∧ shown t 0 tag ∧ t.col.checkpoints = kept ok ∧
        t = { s with regs := t.regs, col := { s.col with checkpoints := t.col.checkpoints } }) ∧
    (∀ ok, exec (.tapCheckpointTimer ok) s = .next { s with col := { s.col with checkpoints := kept ok } })) ∧
  (
  ∀ (r : Nat) (hours : Option Nat) (temps : List Int) (s : State), s.accOk → s.regsOk → s.foliosOk → r < 16 →
    ((unpowered s = true ∨ (accOf s r).holdBoot = false) → exec (.bootCollationComplete r hours temps) s = .next s) ∧
    (unpowered s = false → (accOf s r).holdBoot = true →
      ∃ t, exec (.bootCollationComplete r hours temps) s = .next t ∧ accOf t r = { accOf s r with holdBoot := false, ready := true } ∧ accFrom s t r ∧
        (∀ e ∈ s.arr.folios, e.2.st = .serving → e.2.region = r → (folioAt t e.1).bootDone = true) ∧
        (fget t Reg.RST_STATUS.REGION_READY).testBit r = true ∧ t.kv = s.kv ∧ t.itk = s.itk ∧ t.run = s.run ∧ t.img = s.img ∧
        ((∀ q < 16, q ≠ r → (accOf s q).holdBoot = false) → fget t Reg.RST_STATUS.READY = 1 ∧ fget t Reg.RST_STATUS.REGION_READY = 0xFFFF)))

/-! ### Tsuyx links (13) -/

/-- R290, R291, R292, R303, R304, R305, R309: training and loss. PORT_TRAIN of an enabled idle port shows the locked lanes and TRAINING, and sends TRAIN once every lane it wants is
locked; in LOOPBACK it shows so. The first TRAIN shows the partner; the second makes the port ACTIVE with the next LINK_GEN where the classes pair, else MISWIRED, recorded.
A keep-alive or lane-lock loss takes an ACTIVE port DOWN with its cause: what it held is in doubt, and its buffers are empty; a failed lane or RETRAIN is a loss of cause 4 and
trains again where a pair is left. A port without the state in question changes nothing. The loss clauses are of a module outside an orbit. -/
def Obligations.PortsTrainAndFall : Prop :=
  ∀ (n : Nat) (s : State), s.regsOk → s.portsOk → n < 24 →
    let p := portAt s n
    let st := fun (t : State) => fget t (Reg.TSX_STATUS.STATE n)
    let down := fun (t : State) => (portAt t n).held = [] ∧ (portAt t n).waiting = [] ∧ (portAt t n).inbox = [] ∧ (portAt t n).admitted = false ∧
      (portAt t n).inDoubt = (match p.held with | [] => none | f :: fs => some (f.seq, ((fs.getLast?).getD f).seq))
    let rest := fun (t : State) => t.kv = s.kv ∧ t.itk = s.itk ∧ t.run = s.run ∧ t.img = s.img ∧ t.scr = s.scr ∧ t.orb = s.orb
    (∀ lanes, unpowered s = false → fget s (Reg.TSX_CTRL.ENABLE n) = 1 → portActive s n = false → p.dead = false → lanes < 16 →
      (fget s (Reg.TSX_CTRL.LOOPBACK n) = 1 → ∃ t, exec (.portTrain n lanes) s = .next t ∧ st t = 5 ∧ fget t (Reg.TSX_STATUS.LANE_LOCK n) = lanes ∧
        t = { s with regs := t.regs }) ∧
      (fget s (Reg.TSX_CTRL.LOOPBACK n) = 0 → ∃ t, exec (.portTrain n lanes) s = .next t ∧ st t = 1 ∧ fget t (Reg.TSX_STATUS.LANE_LOCK n) = lanes ∧
        fget t (Reg.TSX_PARTNER.VALID n) = 0 ∧ t = s.withLinks t ∧ portsFrom s t n ∧ (portAt t n).trains = 0 ∧
        ((portAt t n).locked = true ↔ lanes &&& lanesWanted s n = lanesWanted s n) ∧
        (lanes &&& lanesWanted s n = lanesWanted s n → ∃ b, t.out.flits = (n, b) :: s.out.flits ∧ rd b 0 1 = 3))) ∧
    ((unpowered s = true ∨ fget s (Reg.TSX_CTRL.ENABLE n) = 0 ∨ portActive s n = true ∨ p.dead = true) → ∀ lanes, exec (.portTrain n lanes) s = .next s) ∧
    (∀ body, p.locked = true → st s = 1 → fget s Reg.ORB_STATUS.STATE = 0 →
      (p.trains = 0 → ∃ t, exec (.train n body) s = .next t ∧ st t = 1 ∧ (portAt t n).trains = 1 ∧ (portAt t n).partner = body ∧ rest t ∧
        fget t (Reg.TSX_PARTNER.MODULE_ID n) = rd body 0 4 ∧ fget t (Reg.TSX_PARTNER.VALID n) = 1) ∧
      (0 < p.trains → classesPair (portClass s n) (rd body 9 1) = true → ∃ t, exec (.train n body) s = .next t ∧ st t = 2 ∧ rest t ∧ portsFrom s t n ∧
        counted s t (Reg.TSX_STATUS.LINK_GEN n) 1 ∧ (portAt t n).held = [] ∧ (portAt t n).admitted = false ∧
        (portAt t n).nextSeq = 0 ∧ (portAt t n).credits = [0, 0, 0]) ∧
      (0 < p.trains → classesPair (portClass s n) (rd body 9 1) = false → ∃ t, exec (.train n body) s = .next t ∧ st t = 4 ∧ rest t ∧ portsFrom s t n ∧
        (portAt t n).locked = false ∧ recorded s t 0x0700 2 n 3 (rd body 0 4))) ∧
    ((p.locked = false ∨ st s ≠ 1) → ∀ body, exec (.train n body) s = .next s) ∧
    (fget s Reg.ORB_STATUS.STATE = 0 → portActive s n = true →
      (∃ t, exec (.laneLockLoss n) s = .next t ∧ st t = 3 ∧ fget t (Reg.TSX_STATUS.LOSS_CAUSE n) = 1 ∧ fget t (Reg.TSX_STATUS.LANE_LOCK n) = 0 ∧ down t ∧ rest t) ∧
      (p.kaLast + fget s (Reg.TSX_TIMERS.LOSS_US n) ≤ s.clk.tick →
        ∃ t, exec (.keepaliveLoss n) s = .next t ∧ st t = 3 ∧ fget t (Reg.TSX_STATUS.LOSS_CAUSE n) = 2 ∧ down t ∧ rest t) ∧
      (s.clk.tick < p.kaLast + fget s (Reg.TSX_TIMERS.LOSS_US n) → exec (.keepaliveLoss n) s = .next s) ∧
      (unpowered s = false → fget s (Reg.TSX_CTRL.ENABLE n) = 1 → ∃ t, exec (.retrain n) s = .next t ∧ st t = 1 ∧ fget t (Reg.TSX_STATUS.LOSS_CAUSE n) = 4 ∧
        fget t (Reg.TSX_STATUS.LANE_FAIL n) = 0 ∧ down t ∧ rest t) ∧
      (∀ lane < 4, let fails := fget s (Reg.TSX_STATUS.LANE_FAIL n) ||| 2 ^ lane
        ∃ t, exec (.laneFail n lane) s = .next t ∧ fget t (Reg.TSX_STATUS.LANE_FAIL n) = fails ∧ down t ∧ rest t ∧
          st t = (if fails &&& 3 = 0 ∨ fails &&& 12 = 0 then 1 else 3) ∧ ((portAt t n).dead = true ↔ fails &&& 3 ≠ 0 ∧ fails &&& 12 ≠ 0))) ∧
    (portActive s n = false → exec (.laneLockLoss n) s = .next s ∧ exec (.keepaliveLoss n) s = .next s)

/-- R293 to R297, R303: flits. An ACK of an IDLE or KEEPALIVE releases the held flits up to the one it names and carries a channel's credits; a KEEPALIVE starts the loss timer
again. A NACK releases and then sends every flit still held once more, in order, and counts; so does a replay timeout. A sequenced flit that is good and next in order is accepted:
its number becomes the port's ACK and it stands at the end of the inbox; one out of order is discarded, and the first is answered by a NACK in an IDLE. Nothing waits to be sent here; a port that
is not ACTIVE changes nothing. -/
def Obligations.FlitsAreAcknowledged : Prop :=
  ∀ (n : Nat) (s : State), s.regsOk → s.portsOk → n < 24 →
    let p := portAt s n
    let frame := fun (t : State) => t = s.withLinks t ∧ portsFrom s t n
    let wire := fun (t : State) (fs : List Flit) => (t.out.flits.take fs.length).reverse.map (fun x => (x.1, rd x.2 0 1, rd x.2 2 2, rd x.2 6 1)) =
      fs.map (fun f => (n, f.typ % 256, f.seq % 4096, f.vc % 256)) ∧ t.out.flits.drop fs.length = s.out.flits
    (portActive s n = true → p.waiting = [] → ∀ ack crVc cr,
      let q := acked p ack crVc cr
      exec (.idleFlit n ack crVc cr) s = .next (modPort s n fun _ => q) ∧
      (∃ t, exec (.keepalive n ack crVc cr) s = .next t ∧ t = { s with tsx := t.tsx } ∧ portsFrom s t n ∧ portAt t n = { q with kaLast := s.clk.tick }) ∧
      (q.held ≠ [] → q.replays < 8 → ∃ t, exec (.nack n ack crVc cr) s = .next t ∧ frame t ∧ wire t q.held ∧
        portAt t n = { q with replays := q.replays + 1, crNext := (portAt t n).crNext } ∧
        counted s t (Reg.TSX_REPLAY.NACKS n) 1 ∧ counted s t (Reg.TSX_REPLAY.RESENT n) q.held.length)) ∧
    (portActive s n = true → p.held ≠ [] → p.replays < 8 → ∃ t, exec (.replayTimeout n) s = .next t ∧ frame t ∧ wire t p.held ∧
      portAt t n = { p with replays := p.replays + 1, crNext := (portAt t n).crNext } ∧
      counted s t (Reg.TSX_REPLAY.TIMEOUTS n) 1 ∧ counted s t (Reg.TSX_REPLAY.RESENT n) p.held.length) ∧
    (portActive s n = true → p.held = [] → exec (.replayTimeout n) s = .next s) ∧
    (portActive s n = true → fget s (Reg.TSX_INJ_CTRL.ENABLE n) = 0 → ∃ t, exec (.keepaliveSendTimer n) s = .next t ∧ frame t ∧ t.regs = s.regs ∧
      wire t [{ typ := 3, seq := 0, vc := 0, payload := [] }] ∧ portAt t n = { p with kaSent := p.kaSent + 1, crNext := (portAt t n).crNext }) ∧
    (∀ flit corrected, portActive s n = true → p.waiting = [] → flit.length = 256 → crc32c (flit.take 252) = rd flit 252 4 → (rd flit 1 1).testBit 0 = false →
      (rd flit 0 1 = 1 ∨ rd flit 0 1 = 2) →
      let q := acked p (rd flit 4 2 % 4096) (rd flit 7 1) (rd flit 8 2)
      (rd flit 2 2 % 4096 = (p.ack + 1) % 4096 → knownPayload (rd flit 0 1) (slice flit 12 (rd flit 10 2)) = true →
        ∃ t, exec (.sequencedFlitReceive n flit corrected false) s = .next t ∧ t = { s with regs := t.regs, tsx := t.tsx } ∧ portsFrom s t n ∧
          portAt t n = { q with ack := rd flit 2 2 % 4096, nackOut := false, inbox := p.inbox ++
            [{ typ := rd flit 0 1, seq := rd flit 2 2 % 4096, vc := rd flit 6 1, payload := slice flit 12 (rd flit 10 2) }] }) ∧
      (rd flit 2 2 % 4096 ≠ (p.ack + 1) % 4096 → ∃ t, exec (.sequencedFlitReceive n flit corrected false) s = .next t ∧ frame t ∧
        portAt t n = { q with nackOut := true, crNext := (portAt t n).crNext } ∧
        (p.nackOut = true → t.out = s.out) ∧ (p.nackOut = false → ∃ b, t.out.flits = (n, b) :: s.out.flits ∧ rd b 0 1 = 0 ∧ rd b 1 1 = 1))) ∧
    (portActive s n = false → (∀ a c k, exec (.idleFlit n a c k) s = .next s ∧ exec (.keepalive n a c k) s = .next s ∧ exec (.nack n a c k) s = .next s) ∧
      exec (.replayTimeout n) s = .next s ∧ exec (.keepaliveSendTimer n) s = .next s ∧ ∀ f c u, exec (.sequencedFlitReceive n f c u) s = .next s)

/-- R299, R300, R304, R318: transactions that the port accepted. A WRITE inside the window, without poison, lays its bytes into the pass scratch of the shelf it names and changes no
other byte; outside the window it is refused: counted, recorded, and nothing is written. A READ_REQ inside the window is answered by a READ_RSP with the bytes and the
requester's tag; a READ_RSP goes to its requester. A FRAG of a pass that has not begun here keeps its elements, and an element that had arrived stays. Before the partner's admission a transaction is
discarded and counted.

R306: snapshots. An ACTIVE port sends SNAP_REQ with the next ID and its tick; a SNAP_REQ is answered with its ID and tick, the module epoch and the module's own tick. A SNAP_RSP of the latest
request puts half the sum of the two differences, toward zero, into OFFSET_US and the round trip, at most 255, into RTT_US, counts one, and ends the wait; any other changes nothing of the register. -/
def Obligations.TransactionsAndSnapshots : Prop :=
  (
  ∀ (n : Nat) (b : Bytes) (s : State), s.regsOk → s.portsOk → s.scribesOk → n < 24 →
    let p := portAt s n
    let addr := rd b 8 8
    (∀ shelf, txnFront s n 1 1 b → p.admitted = true → windowShelf s n addr (rd b 2 2) = some shelf → rd b 1 1 % 128 = 0 → b.length = 16 + rd b 2 2 →
      ∃ t, exec (.tsxWrite n) s = .next t ∧ (portAt t n).inbox.length + 1 = p.inbox.length ∧ portsFrom s t n ∧
        t = { s with tsx := t.tsx, scr := { s.scr with store := t.scr.store, linePoison := t.scr.linePoison } } ∧
        (∀ i < rd b 2 2, storeByte t shelf (nbits addr 0 20 + i) = b.getD (16 + i) 0) ∧
        ∀ g a, a < 2 ^ 20 → (g ≠ shelf ∨ a < nbits addr 0 20 ∨ nbits addr 0 20 + rd b 2 2 ≤ a) → storeByte t g a = storeByte s g a) ∧
    (txnFront s n 1 1 b → (p.admitted = false ∨ windowShelf s n addr (rd b 2 2) = none) →
      ∃ t, exec (.tsxWrite n) s = .next t ∧ t.scr = s.scr ∧ (portAt t n).inbox.length + 1 = p.inbox.length ∧
        s.regsFrom t [(Reg.TSX_ERRORS.WINDOW n).addr] ∧ recorded s t 0x0700 2 n 4 (fget s (Reg.TSX_PARTNER.MODULE_ID n))) ∧
    (∀ shelf, txnFront s n 1 3 b → p.admitted = true → portActive s n = true → windowShelf s n addr (64 * nbits addr 56 8) = some shelf → nbits addr 56 8 ≤ 3 →
      ∃ t, exec (.readReq n) s = .next t ∧ t.scr = s.scr ∧ t.kv = s.kv ∧ t.run = s.run ∧
        ∃ f ∈ (portAt t n).held ++ (portAt t n).waiting, f.typ = 1 ∧ f.vc = 2 ∧ rd f.payload 0 1 = 4 ∧ rd f.payload 4 4 = rd b 4 4 ∧
          slice f.payload 16 (64 * nbits addr 56 8) = storeBytes s shelf (nbits addr 0 20) (64 * nbits addr 56 8)) ∧
    (txnFront s n 2 4 b → p.admitted = true → ∃ t, exec (.readRsp n) s = .next t ∧ t = { s with tsx := t.tsx } ∧ portsFrom s t n ∧
      (portAt t n).reads = p.reads ++ [(rd b 4 4, slice b 16 (rd b 2 2), rd b 1 1 % 128)] ∧ (portAt t n).inbox.length + 1 = p.inbox.length) ∧
    (txnFront s n 1 2 b → p.admitted = true → rd b 1 1 % 128 = 0 → collRegions s (rd b 4 4) = [] →
      let c := collOf s (rd b 4 4) false
      let src := nbits addr 32 4
      let off := nbits addr 0 32
      swf (fun _ => (none : Option PVal)) c.got = true → off + rd b 2 2 / 4 ≤ 2 ^ 32 →
      ∃ t, exec (.frag n) s = .next t ∧ t = { s with tsx := t.tsx, orb := { s.orb with colls := t.orb.colls } } ∧
        (∀ i < rd b 2 2 / 4, gotAt (collOf t (rd b 4 4) false) src (off + i) =
          (gotAt c src (off + i)).or (some ⟨BitVec.ofNat 32 (rd b (16 + 4 * i) 4), false⟩)) ∧
        ∀ m e, (m ≠ src ∨ e < off ∨ off + rd b 2 2 / 4 ≤ e) → e < 2 ^ 32 → gotAt (collOf t (rd b 4 4) false) m e = gotAt c m e)) ∧
  (
  ∀ (n : Nat) (s : State), s.regsOk → s.portsOk → n < 24 →
    let p := portAt s n
    (portActive s n = true → p.snapNext < 2 ^ 16 → ∃ t, exec (.snapPeriodTimer n) s = .next t ∧ t = s.withLinks t ∧ portsFrom s t n ∧
      (portAt t n).snapOut = some (p.snapNext, s.clk.tick) ∧ (portAt t n).snapNext = (p.snapNext + 1) % 65536 ∧
      sends t n 5 (leBytes 2 p.snapNext ++ List.replicate 6 0 ++ leBytes 8 s.clk.tick)) ∧
    (portActive s n = false → exec (.snapPeriodTimer n) s = .next s) ∧
    (∀ src b, msgFront s n 5 src b → 16 ≤ b.length → portActive s n = true → ∃ t, exec (.snapReq n) s = .next t ∧ t = s.withLinks t ∧ portsFrom s t n ∧
      sends t n 6 (slice b 0 2 ++ leBytes 6 s.clk.epoch ++ slice b 8 8 ++ leBytes 8 s.clk.tick ++ leBytes 8 s.clk.tick)) ∧
    (∀ src b id t1, msgFront s n 6 src b → p.snapOut = some (id, t1) →
      let t2 : Int := rd b 16 8
      let t3 : Int := rd b 24 8
      (rd b 0 2 = id → ∃ t, exec (.snapRsp n) s = .next t ∧ t = { s with regs := t.regs, tsx := t.tsx } ∧ portsFrom s t n ∧ (portAt t n).snapOut = none ∧
        fget t (Reg.TSX_SNAP.OFFSET_US n) = unsignedOf 40 (Int.tdiv ((t2 - t1) + (t3 - s.clk.tick)) 2) ∧
        fget t (Reg.TSX_SNAP.RTT_US n) = min 255 (((s.clk.tick : Int) - t1) - (t3 - t2)).toNat ∧
        fget t (Reg.TSX_SNAP.COUNT n) = (fget s (Reg.TSX_SNAP.COUNT n) + 1) % 2 ^ 16 ∧ ∀ a, a ≠ (Reg.TSX_SNAP.COUNT n).addr → rget t a = rget s a) ∧
      (rd b 0 2 ≠ id → ∃ t, exec (.snapRsp n) s = .next t ∧ t.regs = s.regs ∧ (portAt t n).snapOut = p.snapOut)))

/-! ### Orbits (14) -/

/-- R312, R322, R325: admission. A JOIN that a check refuses is answered by REFUSE with its reason, recorded unless it is ROLE, and the masks stay. A JOIN that the primary admits adds the
partner to ADMITTED_MASK and LIVE_MASK and the link carries transactions. An ADMIT from a member makes a joining module or a moon a MOON of that primary with its mask; a primary that hears one of a
lower index is isolated. A REFUSE is kept and recorded. JOIN written permits admission and ends ISOLATED. LEAVE isolates the member, or waits for its pass in flight. -/
def Obligations.AdmissionIsDecided : Prop :=
  ∀ (n src : Nat) (b : Bytes) (s : State), s.regsOk → s.portsOk → n < 24 → src < 16 → s.img.bound.orbit.member < 16 →
    (∀ reason, msgFront s n 1 src b → rd b 0 1 = 1 → joinRefusal s n b = some reason → ∃ t, exec (.joinMsg n) s = .next t ∧
      admittedMask t = admittedMask s ∧ orbState t = orbState s ∧ t.orb = s.orb ∧ t.kv = s.kv ∧ portsFrom s t n ∧
      (portActive s n = true → sends t n 1 ([3] ++ leBytes 1 reason)) ∧ (reason = 5 → t.ann = s.ann) ∧
      (reason ≠ 5 → recorded s t 0x0700 2 n (4 + reason * 256) (fget s (Reg.TSX_PARTNER.MODULE_ID n)))) ∧
    (msgFront s n 1 src b → rd b 0 1 = 1 → joinRefusal s n b = none → ∃ t, exec (.joinMsg n) s = .next t ∧ (portAt t n).admitted = true ∧
      orbState t = orbState s ∧ t.kv = s.kv ∧ t.itk = s.itk ∧ t.run = s.run ∧
      ((meshRole s n).isSome = true → admittedMask t = admittedMask s ||| 2 ^ rd b 1 1 ||| selfBit s ∧ liveMask t = liveMask s ||| 2 ^ rd b 1 1 ∧
        rd b 1 1 ∉ t.orb.lost) ∧
      ((meshRole s n).isSome = false → admittedMask t = admittedMask s)) ∧
    (msgFront s n 1 src b → rd b 0 1 = 2 → (meshRole s n).isSome = true → s.orb.ignored.elem src = false →
      ((orbState s = 1 ∨ orbState s = 2) → ∃ t, exec (.admitMsg n) s = .next t ∧ orbState t = 2 ∧ fget t Reg.ORB_STATUS.PRIMARY = src ∧
        admittedMask t = rd b 4 2 ∧ (portAt t n).admitted = true ∧ t.kv = s.kv ∧ t.run = s.run) ∧
      (orbState s = 3 → src < self s → ∃ t, exec (.admitMsg n) s = .next t ∧ aloneIn s t)) ∧
    (msgFront s n 1 src b → rd b 0 1 = 3 → ∃ t, exec (.refuseMsg n) s = .next t ∧ (portAt t n).refused = rd b 1 1 ∧ portsFrom s t n ∧
      t = { s.withRegs t with tsx := t.tsx } ∧ s.regsFrom t [] ∧ (rd b 1 1 = 5 → t.ann = s.ann) ∧
      (rd b 1 1 ≠ 5 → recorded s t 0x0700 2 n (4 + rd b 1 1 * 256) (fget s (Reg.TSX_PARTNER.MODULE_ID n)))) ∧
    (unpowered s = false → ∃ t, exec .orbitRejoin s = .next t ∧ fget t Reg.ORB_CTRL.JOIN = 1 ∧ orbState t = (if orbState s = 4 then 1 else orbState s) ∧
      (orbState s = 4 → t.orb.ignored = [] ∧ t.orb.lost = []) ∧ t.kv = s.kv ∧ t.run = s.run) ∧
    (unpowered s = false → orbState s ≠ 0 →
      ((s.run.live.any fun p => orbitRegion s p.region) = false → ∃ t, exec .leave s = .next t ∧ aloneIn s t ∧ t.itk = s.itk ∧ t.run = s.run) ∧
      ((s.run.live.any fun p => orbitRegion s p.region) = true → exec .leave s = .next { s with orb := { s.orb with leaving := true } })) ∧
    (unpowered s = true → exec .orbitRejoin s = .next s ∧ exec .leave s = .next s)

/-- R313, R314: work over the orbit. A moon takes its primary's DISPATCH: recipes wait for the next boundary, OPEN makes the session, CLOSE ends it, and a pass is kept with its
sessions while another pass of its region is in flight; a DISPATCH from another member is dropped. A DONE at the primary adds its failed positions to the pass, and with LAST its member. A
RESULT at stage 0 adds its entries. -/
def Obligations.SharesAreDispatched : Prop :=
  ∀ (n src : Nat) (b : Bytes) (s : State), s.portsOk → msgFront s n 1 src b →
    let id := rd b 7 6
    let ws := (List.range ((b.length - 17) / 4)).map fun i => rd b (17 + 4 * i) 4
    (∀ toks, rd b 0 1 = 4 → orbState s = 2 → src = fget s Reg.ORB_STATUS.PRIMARY → (meshRole s n).isSome = true →
      (rd b 2 1 = 2 → ∃ t, exec (.dispatchMsg n toks) s = .next t ∧ t = { s with tsx := t.tsx, img := { s.img with nextRecipes := t.img.nextRecipes } } ∧
        t.img.nextRecipes = putRecipes s.img.nextRecipes ((entries 32 (ws.flatMap (leBytes 4))).map parseRecipe)) ∧
      (rd b 2 1 = 3 → findSession s (ws.headD 0) = none → ∃ t, exec (.dispatchMsg n toks) s = .next t ∧
        t = { s with tsx := t.tsx, kv := { s.kv with sessions := t.kv.sessions } } ∧
        t.kv.sessions = s.kv.sessions ++ [newSession (ws.headD 0) ((ws.drop 1).flatMap (leBytes 4))]) ∧
      (rd b 2 1 = 4 → ∃ t, exec (.dispatchMsg n toks) s = .next t ∧ findSession t (ws.headD 0) = none ∧ t.run = s.run ∧ t.itk = s.itk) ∧
      (rd b 2 1 = 1 → (passOf s (rd b 1 1)).isSome = true → (∀ x ∈ s.orb.passes, ¬ (x.passId = id ∧ x.region = rd b 1 1)) →
        ∃ t, exec (.dispatchMsg n toks) s = .next t ∧ t = { s with tsx := t.tsx, orb := { s.orb with passes := t.orb.passes } } ∧
          t.orb.passes = s.orb.passes ++ [{ passId := id, region := rd b 1 1, kind := 1, carrel := rd b 3 2, cls := rd b 5 1, count := rd b 13 2
                                            sessions := ws, tokens := ws.map fun _ => 1, epoch := 0, doneBy := [], bad := [], results := [], resulted := false }])) ∧
    (∀ toks, rd b 0 1 = 4 → orbState s = 2 → src ≠ fget s Reg.ORB_STATUS.PRIMARY → ∃ t, exec (.dispatchMsg n toks) s = .next t ∧ t = { s with tsx := t.tsx }) ∧
    (∀ x, rd b 0 1 = 5 → orbState s = 3 → n < 20 → orbPass s (rd b 1 6) = some x → src ∉ x.doneBy → rd b 7 1 ≠ stPoisoned → rd b 7 1 ≠ stPeerLost → rd b 7 1 ≠ stTimeout →
      ∃ t, exec (.doneMsg n) s = .next t ∧ t = { s with tsx := t.tsx, orb := { s.orb with passes := t.orb.passes } } ∧
        orbPass t (rd b 1 6) = some { x with
          bad := x.bad ++ ((List.range 64).filter fun i => (rd b 17 8).testBit i).map fun i => (64 * rd b 9 2 + i, rd b 7 1)
          doneBy := if rd b 11 1 = 1 then x.doneBy ++ [src] else x.doneBy }) ∧
    (∀ x, rd b 0 1 = 6 → s.img.bound.orbit.stage = 0 → orbPass s (rd b 1 6) = some x → ∃ t, exec (.resultMsg n) s = .next t ∧
      t = { s with tsx := t.tsx, orb := { s.orb with passes := t.orb.passes } } ∧ orbPass t (rd b 1 6) = some { x with
        results := x.results ++ entries 16 (b.drop 9), resulted := decide (x.count ≤ (x.results ++ entries 16 (b.drop 9)).length) })

/-- R321, R322: the loss of a member. REMOVE from a moon's primary: a member that it names itself is isolated; with another member that is not the heir the mask becomes the message's, LIVE_MASK loses
its bit, one removal is counted, and the sessions of the regions it served die; naming the primary itself, every orbit session dies and the heir confirms while the others wait. TAKEOVER makes the heir primary where the
new mask holds a strict majority of the old one, else the module is isolated. The confirming heir with a strict majority becomes PRIMARY without the old one, else it is isolated; a wait that times out isolates.

R319, R320, R321: power and faults between members. PACE at the primary is kept and counted, and limits every other member of the pass that announced no delay. A REPORT is kept by member. A LIMIT from the primary
is in force until its RELEASE, its hold expires, or it is replaced, and marks the passes it affects THROTTLED. A moon reports its power to its primary. A FAULT PORT_LOST that names the primary counts its reporter
once. A collective that times out has every missing element poisoned and counts; a complete one changes nothing. -/
def Obligations.QuorumsAndSharedPower : Prop :=
  (
  ∀ (n src : Nat) (b : Bytes) (s : State), s.regsOk → s.portsOk → src < 16 → s.img.bound.orbit.member < 16 →
    let mask := rd b 3 2
    (msgFront s n 1 src b → rd b 0 1 = 7 → orbState s = 2 → src = fget s Reg.ORB_STATUS.PRIMARY → s.orb.ignored.elem src = false →
      (rd b 1 1 = self s → ∃ t, exec (.removeMsg n) s = .next t ∧ aloneIn s t) ∧
      (rd b 1 1 ≠ self s → rd b 1 1 ≠ src → s.orb.heirNamed ≠ some (rd b 1 1) → rd b 1 1 < 16 → ∃ t, exec (.removeMsg n) s = .next t ∧ orbState t = 2 ∧
        admittedMask t = mask ∧ liveMask t = liveMask s &&& (0xFFFF - 2 ^ rd b 1 1) ∧ counted s t Reg.ORB_STATS.REMOVALS 1 ∧
        deadIn s t (fun r => (orbitMask s r).testBit (rd b 1 1) = true) ∧ t.run = s.run ∧ t.itk = s.itk ∧ t.img = s.img) ∧
      (rd b 1 1 ≠ self s → rd b 1 1 = src → ∃ t, exec (.removeMsg n) s = .next t ∧ deadIn s t (fun _ => True) ∧ t.regs = s.regs ∧
        (if fget s Reg.ORB_STATUS.HEIR_VALID = 1 ∧ fget s Reg.ORB_STATUS.HEIR = self s then t.orb.confirming = true else t.orb.waitingTakeover = true))) ∧
    (msgFront s n 1 src b → rd b 0 1 = 8 → orbState s = 2 → src = rd b 2 1 → rd b 1 1 = fget s Reg.ORB_STATUS.PRIMARY → s.orb.ignored.elem src = false →
      s.orb.passes = [] → ∃ t, exec (.takeoverMsg n) s = .next t ∧ t.orb.ignored.elem (rd b 1 1) = true ∧ deadIn s t (fun _ => True) ∧
        (popcount 16 (admittedMask s) < 2 * popcount 16 mask → orbState t = 2 ∧ fget t Reg.ORB_STATUS.PRIMARY = src ∧ admittedMask t = mask ∧
          t.orb.waitingTakeover = false) ∧
        (2 * popcount 16 mask ≤ popcount 16 (admittedMask s) → orbState t = 4 ∧ admittedMask t = selfBit s)) ∧
    (s.orb.confirming = true →
      let old := fget s Reg.ORB_STATUS.PRIMARY
      let with_ := (s.orb.primaryLostBy.filter fun m => m != self s && (liveMask s).testBit m && (admittedMask s).testBit m).length + 1
      ∃ t, exec .heirConfirmTimeout s = .next t ∧ t.orb.confirming = false ∧ t.itk = s.itk ∧
        (popcount 16 (admittedMask s) < 2 * with_ → orbState t = 3 ∧ fget t Reg.ORB_STATUS.PRIMARY = self s ∧
          admittedMask t = admittedMask s &&& (0xFFFF - 2 ^ old) ∧ counted s t Reg.ORB_STATS.REMOVALS 1) ∧
        (2 * with_ ≤ popcount 16 (admittedMask s) → aloneIn s t)) ∧
    (s.orb.confirming = false → exec .heirConfirmTimeout s = .next s) ∧
    (s.orb.waitingTakeover = true → ∃ t, exec .takeoverWaitTimeout s = .next t ∧ aloneIn s t) ∧
    (s.orb.waitingTakeover = false → exec .takeoverWaitTimeout s = .next s)) ∧
  (
  ∀ (n src : Nat) (b : Bytes) (s : State), s.regsOk → s.portsOk →
    (∀ r rs, msgFront s n 2 src b → orbState s = 3 → collRegions s (rd b 4 4) = r :: rs → (collOf s (rd b 4 4) false).complete = false →
      let ms := (otherMembers s r).filter fun m => !((s.orb.paced ++ [(src, rd b 4 4, rd b 8 4)]).any fun p => p.1 == m && p.2.1 == rd b 4 4)
      ∃ t, exec (.paceMsg n) s = .next t ∧ t.orb.paced = s.orb.paced ++ [(src, rd b 4 4, rd b 8 4)] ∧ t.orb.limited = s.orb.limited ++ ms.map (·, rd b 4 4) ∧
        counted s t Reg.ORB_STATS.PACE 1 ∧ counted s t Reg.ORB_STATS.LIMITS ms.length ∧ t.kv = s.kv ∧ t.run = s.run ∧
        ∀ m ∈ ms, portActive s (memberPort s m) = true → sends t (memberPort s m) 3 ([2, 64, 0] ++ leBytes 4 (rd b 8 4 + 10) ++ leBytes 4 (rd b 4 4))) ∧
    (msgFront s n 2 src b → orbState s ≠ 3 → ∃ t, exec (.paceMsg n) s = .next t ∧ t = { s with tsx := t.tsx }) ∧
    (msgFront s n 3 src b → rd b 0 1 = 1 → orbState s = 3 → swf (fun _ => (none : Option MemberReport)) s.orb.reports = true → ∃ t, exec (.reportMsg n) s = .next t ∧
      t = { s with tsx := t.tsx, orb := { s.orb with reports := t.orb.reports } } ∧
      sget (fun _ => none) t.orb.reports src = some { inputDw := rd b 1 2, capDw := rd b 3 2, activity := rd b 5 1, reasons := rd b 6 1 } ∧
      ∀ m, m ≠ src → sget (fun _ => none) t.orb.reports m = sget (fun _ => none) s.orb.reports m) ∧
    (msgFront s n 3 src b → rd b 0 1 = 2 → orbState s = 2 → src = fget s Reg.ORB_STATUS.PRIMARY → (collOf s (rd b 7 4) false).complete = false → 64 ≤ rd b 1 1 →
      ∃ t, exec (.limitMsg n) s = .next t ∧ t.orb = { s.orb with limit := some (rd b 1 1, rd b 7 4) } ∧ counted s t Reg.ORB_STATS.LIMITS 1 ∧ t.kv = s.kv ∧
        ∀ r ∈ collRegions s (rd b 7 4), ∀ p, passOf s r = some p → ∃ q, passOf t r = some q ∧ q.flags.testBit 5 = true) ∧
    (msgFront s n 3 src b → rd b 0 1 = 3 → ∃ t, exec (.releaseMsg n) s = .next t ∧ t = { s with tsx := t.tsx, orb := { s.orb with limit := t.orb.limit } } ∧
      t.orb.limit = s.orb.limit.filter fun l => l.2 != rd b 1 4) ∧
    exec .limitHoldExpiry s = .next { s with orb := { s.orb with limit := none } } ∧
    (orbState s ≠ 2 → exec .powerReportTimer s = .next s) ∧
    (orbState s = 2 → portActive s (memberPort s (fget s Reg.ORB_STATUS.PRIMARY)) = true → ∃ t, exec .powerReportTimer s = .next t ∧ t = s.withLinks t ∧
      sends t (memberPort s (fget s Reg.ORB_STATUS.PRIMARY)) 3 ([1] ++ leBytes 2 (fget s Reg.PWR_STATUS.INPUT_DW) ++ leBytes 2 (fget s Reg.PWR_CAP.CAP_DW) ++
        leBytes 1 (min 255 (((List.range 4).map fun h => fget s (Reg.PWR_HALL_STATUS.ACTIVITY h)).sum / 4)) ++ leBytes 1 (fget s Reg.PWR_STATUS.REASONS))) ∧
    (msgFront s n 4 src b → rd b 0 1 = 2 → rd b 2 1 < 15 → ∃ t, exec (.faultMsg n) s = .next t ∧ t = { s with tsx := t.tsx, orb := { s.orb with primaryLostBy := t.orb.primaryLostBy } } ∧
      t.orb.primaryLostBy = if orbState s = 2 ∧ (src + rd b 2 1 + 1) % 16 = fget s Reg.ORB_STATUS.PRIMARY ∧ src ∉ s.orb.primaryLostBy
        then s.orb.primaryLostBy ++ [src] else s.orb.primaryLostBy) ∧
    (∀ tag r rs p, collRegions s tag = r :: rs → passOf s r = some p →
      let c := collOf s tag false
      let missing := (needed s p c).filter fun x => (gotAt c x.1 x.2).isNone
      ((c.complete = true ∨ missing = []) → exec (.collectiveTimeout tag) s = .next s) ∧
      (c.complete = false → (c.ready = true ∨ c.kind = 4) → missing ≠ [] → swf (fun _ => (none : Option PVal)) c.got = true → ∃ t, exec (.collectiveTimeout tag) s = .next t ∧
        counted s t Reg.ORB_STATS.TIMEOUTS 1 ∧ t.kv = s.kv ∧ t.itk = s.itk ∧ t.img = s.img ∧
        ∀ x ∈ missing, ∃ v, gotAt (collOf t tag false) x.1 x.2 = some v ∧ v.bad = true)))

/-! ### Power (15) -/

/-- R330 to R332, R337, R340: the broker's cycle, the excursion cut and hints. A cycle shows the measured input, and every hall stands at the demand, the cap's grant and the ceiling that follow; the halls'
grants together never exceed the serving budget where the image's shares sum to at most 256. A cut limits every hall to 97 %. A HINT that a check refuses completes with its status alone; an accepted one
completes with OK and replaces the carrel's earlier hint of the region and tag. The window's opening and end act on that hint, and one without a pass of its tag counts. Asleep or unpowered nothing happens. -/
def Obligations.BrokerDividesTheBudget : Prop :=
  ∀ s : State, s.regsOk → s.hallsOk →
    let rest := fun (t : State) => t.kv = s.kv ∧ t.img = s.img ∧ t.arr = s.arr ∧ t.orb = s.orb ∧ t.tsx = s.tsx
    (∀ m, unpowered s = false → asleep s = false → ∃ t, exec (.brokerCycle m) s = .next t ∧ rest t ∧ t.itk = s.itk ∧ t.pwr.last = m ∧
      fget t Reg.PWR_STATUS.INPUT_DW = m.inputDw % 2 ^ 16 ∧ fget t Reg.PWR_STATUS.INPUT_DA = m.inputDa % 2 ^ 9 ∧
      ∀ h < 4, (hallPower t h).demand = demandOf t h ∧ (hallPower t h).cap = grantCeiling t h ((hallGrants t (fget t Reg.PWR_CAP.CAP_DW)).getD h 0) ∧
        fget t (Reg.PWR_HALL_STATUS.CEILING h) = ceilingOf t h) ∧
    (∀ m, (unpowered s = true ∨ asleep s = true) → exec (.brokerCycle m) s = .next s) ∧
    (∀ limit, s.img.bound.power.hallShare.sum ≤ 256 → (hallGrants s limit).sum ≤ servingBudget s limit) ∧
    (unpowered s = false → s.pwr.excursion.isSome = true → ∃ t, exec .excursionCut s = .next t ∧ rest t ∧ t.itk = s.itk ∧
      ∀ h < 4, (hallPower t h).cut = cutCeiling s h ∧ fget t (Reg.PWR_HALL_STATUS.CEILING h) = ceilingOf t h) ∧
    (s.pwr.excursion = none → exec .excursionCut s = .next s) ∧
    (∀ c seq k, findCmd s c seq = some k → k.phase = .waiting → k.op = 0x06 →
      (hintStatus s k ≠ stOk → ∃ t, exec (.hintCmd c seq) s = .next t ∧ finishedAs t c seq k (hintStatus s k) 0 ∧ t = { s with itk := { s.itk with cmds := t.itk.cmds } }) ∧
      (hintStatus s k = stOk → ∃ t, exec (.hintCmd c seq) s = .next t ∧ finishedAs t c seq k stOk 0 ∧
        t = { s with itk := { s.itk with cmds := t.itk.cmds }, pwr := { s.pwr with hints := t.pwr.hints, halls := t.pwr.halls } } ∧
        t.pwr.hints = s.pwr.hints.filter (fun (x : Hint) => !x.is c (rd k.body 0 1) (rd k.body 1 1)) ++
          [{ carrel := c, region := rd k.body 0 1, tag := rd k.body 1 1, opens := k.age + rd k.body 4 4
             ends := k.age + rd k.body 4 4 + rd k.body 8 4, opened := false, hit := false }])) ∧
    (∀ c r tag, unpowered s = false → ∃ t, exec (.hintWindowOpen c r tag) s = .next t ∧ t = { s with pwr := { s.pwr with hints := t.pwr.hints } } ∧
      t.pwr.hints.length = s.pwr.hints.length ∧ ∀ (i : Nat) (x : Hint), s.pwr.hints[i]? = some x →
        t.pwr.hints[i]? = some (if x.is c r tag then { x with opened := true, hit := x.hit || tagRuns s r tag } else x)) ∧
    (∀ c r tag x, s.pwr.hints.find? (fun x => x.is c r tag && x.opened) = some x → ∃ t, exec (.hintWindowEnd c r tag) s = .next t ∧
      t = { s with regs := t.regs, pwr := { s.pwr with hints := s.pwr.hints.filter fun y => !y.is c r tag } } ∧
      (x.hit = true → t.regs = s.regs) ∧ (x.hit = false → counted s t Reg.PWR_STATS.HINT_MISS 1))

/-- R334, R335, R339, R341, R342: points, heat and droop of a hall. A settled rail goes on to the relock where the point rises in frequency, else the change is complete; a relocked PLL puts the
point in force, and a fall in frequency goes on to its slew. At the thermal limit the strike period grows by 2 cycles up to 48 and then the ceiling falls by 16; 2 °C below, the ceiling rises first, then the period
shortens. A droop stretches the clock, counts, and the clear ends the stretch 5 µs before a change goes on. Other halls, sessions and commands stay. -/
def Obligations.PointsHeatAndDroop : Prop :=
  ∀ (h : Nat) (s : State), s.regsOk → s.hallsOk → h < 4 → unpowered s = false →
    let x := hallPower s h
    let only := fun (t : State) => hallsFrom s t h ∧ t.kv = s.kv ∧ t.itk = s.itk ∧ t.img = s.img ∧ t.arr = s.arr
    let quiet := x.stretched = false ∧ x.holdUntil ≤ s.clk.tick
    let refreshed := fun (t : State) (y : HallPower) => only t ∧ hallPower t h = { y with since := (hallPower t h).since } ∧
      fget t (Reg.PWR_HALL_STATUS.CEILING h) = ceilingOf t h
    (x.step = .slewing → quiet → x.target < pointOf s h → ∃ t, exec (.voltageSlewDone h) s = .next t ∧ t = { s with pwr := t.pwr } ∧ only t ∧
      hallPower t h = { x with step := .relocking }) ∧
    (x.step = .slewing → quiet → pointOf s h ≤ x.target → x.queued = none → ∃ t, exec (.voltageSlewDone h) s = .next t ∧ t = { s with pwr := t.pwr } ∧ only t ∧
      hallPower t h = { x with step := .none, changedAt := some s.clk.tick }) ∧
    ((x.step ≠ .slewing ∨ ¬ quiet) → exec (.voltageSlewDone h) s = .next s) ∧
    (x.step = .relocking → x.target < 8 → (pointOf s h < x.target ∨ x.queued = none) → ∃ t, exec (.pllRelockDone h) s = .next t ∧ only t ∧ pointOf t h = x.target ∧
      (∀ a, a ≠ (Reg.PWR_HALL_STATUS.POINT h).addr → rget t a = rget s a) ∧ (hallPower t h).pll = 1 - x.pll ∧
      (hallPower t h).step = if pointOf s h < x.target then .slewing else .none) ∧
    (x.step ≠ .relocking → exec (.pllRelockDone h) s = .next s) ∧
    (∀ measured : Int, asleep s = false →
      let temp := junction s h measured
      let lim : Int := fget s Reg.PWR_CTRL.THERM_C
      ∃ t, exec (.thermalStep h measured) s = .next t ∧
        (lim * 256 ≤ temp → strikePeriod s h (floorNow s h) < 48 → refreshed t { x with period := x.period + 2 }) ∧
        (lim * 256 ≤ temp → 48 ≤ strikePeriod s h (floorNow s h) → refreshed t { x with thermal := x.thermal - 16 }) ∧
        (temp < (lim - 2) * 256 → x.thermal < 256 → refreshed t { x with thermal := min 256 (x.thermal + 16) }) ∧
        (temp < (lim - 2) * 256 → 256 ≤ x.thermal → refreshed t { x with period := x.period - 2 }) ∧
        ((lim - 2) * 256 ≤ temp → temp < lim * 256 → refreshed t x) ∧
        fget t (Reg.PWR_HALL_STATUS.TEMP_C h) = (temp / 256).toNat % 2 ^ 8) ∧
    (asleep s = false → x.stretched = false → x.gated = false →
      let ds := s.clk.tick :: x.droops.filter fun t => decide (s.clk.tick < t + 1000)
      ∃ t, exec (.droopDetect h) s = .next t ∧ counted s t Reg.PWR_STATS.DROOPS 1 ∧
        refreshed t { x with stretched := true, droops := ds, droopUntil := if 8 < ds.length then s.clk.tick + 1000 else x.droopUntil }) ∧
    (x.stretched = true → exec (.droopDetect h) s = .next s ∧
      ∃ t, exec (.droopClear h) s = .next t ∧ refreshed t { x with stretched := false, holdUntil := s.clk.tick + 5 }) ∧
    (x.stretched = false → exec (.droopClear h) s = .next s)

/-! ### Curator and monitors (17) -/

/-- R358, R359, R370, R373 to R375: the mailbox and its read requests. While a request is in hand, bytes are discarded and recorded; bytes that complete no request only stand in the area. A complete request
that keeps to R358 is taken and EXPECTED_SEQ follows its SEQ; another is answered FORMAT, and the block map is clear again. IDENTITY answers the identity record. ATTEST answers RATE without a token and EXHAUSTED without a leaf, and otherwise
spends one token and one leaf, is recorded, and answers the record signed by that leaf. ANNALS_EXPORT answers the first SEQ and the count of what it wrote. ANNALS_NOTE records the host's words and
answers the record's SEQ. -/
def Obligations.MailboxServesRequests : Prop :=
  ∀ s : State, s.regsOk → unpowered s = false →
    (∀ off bytes, off + bytes.length ≤ 4096 → domainReady s 2 = true → standbyMode s = false →
      (fget s Reg.CUR_MBX_STATUS.STATE ≠ 0 → ∃ t, exec (.mailboxBlockWrite false off bytes) s = .next t ∧ t.cur.mbx = { s.cur.mbx with discarded := s.cur.mbx.discarded + 1 } ∧
        s.regsFrom t [] ∧ recorded s t 0x0C00 1 (0x101000 + off) (leNat (bytes.take 8)) 0) ∧
      (fget s Reg.CUR_MBX_STATUS.STATE = 0 →
        let s1 := modMbx s fun m => { m with blocks := putBytes m.blocks off bytes }
        let pkt := (List.range (max 1 (min (rd (mbxBlock s1 0).bytes 0 2) 64))).flatMap fun i => (mbxBlock s1 i).bytes
        (requestComplete s1 = false → exec (.mailboxBlockWrite false off bytes) s = .next s1) ∧
        (requestComplete s1 = true → requestOk s1 pkt = true → s.cur.fw.recovery = false → ∃ t, exec (.mailboxBlockWrite false off bytes) s = .next t ∧
          t.cur.mbx.blocks = [] ∧ t.cur.mbx.req = some { seq := rd pkt 4 4, tag := rd pkt 8 4, op := rd pkt 2 1, body := slice pkt 0x20 (rd pkt 0xC 4) } ∧
          fget t Reg.CUR_MBX_STATUS.STATE = 1 ∧ fget t Reg.CUR_MBX_STATUS.EXPECTED_SEQ = (rd pkt 4 4 + 1) % 2 ^ 32 ∧ t.ann = s.ann) ∧
        (requestComplete s1 = true → requestOk s1 pkt = false → ∃ t, exec (.mailboxBlockWrite false off bytes) s = .next t ∧ t.cur.mbx.blocks = [] ∧
          t.cur.mbx.req = none ∧ fget t Reg.CUR_MBX_STATUS.LAST_STATUS = mbFormat ∧ fget t Reg.CUR_MBX_STATUS.STATE = 0 ∧
          fget t Reg.CUR_MBX_STATUS.EXPECTED_SEQ = fget s Reg.CUR_MBX_STATUS.EXPECTED_SEQ))) ∧
    (∀ r, requestIs s 0x01 = some r → ∃ t, exec .identity s = .next t ∧ answered t r mbOk (Config.identityRecord s.cur.serial) ∧ t.ann = s.ann ∧ t.cur.sig = s.cur.sig) ∧
    (∀ r nandOk, requestIs s 0x02 = some r →
      (s.cur.sig.tokens = 0 → ∃ t, exec (.attest nandOk) s = .next t ∧ answered t r mbRate [] ∧ t.cur.sig = s.cur.sig ∧ t.ann = s.ann) ∧
      (0 < s.cur.sig.tokens → 2 ^ 20 ≤ s.cur.sig.nextLeaf → ∃ t, exec (.attest nandOk) s = .next t ∧ answered t r mbExhausted [] ∧ t.cur.sig = s.cur.sig) ∧
      (0 < s.cur.sig.tokens → s.cur.sig.nextLeaf < 2 ^ 20 → s.cur.sig.limit ≤ s.cur.sig.nextLeaf → nandOk = false →
        ∃ t, exec (.attest nandOk) s = .next t ∧ answered t r mbNand [] ∧ t.cur.sig = s.cur.sig) ∧
      (0 < s.cur.sig.tokens → s.cur.sig.nextLeaf < 2 ^ 20 → (s.cur.sig.nextLeaf < s.cur.sig.limit ∨ nandOk = true) → ∃ t body, exec (.attest nandOk) s = .next t ∧
        answered t r mbOk body ∧ body.length = (attestRecord s (slice r.body 0 32) ((rd r.body 32 4).testBit 0) s.cur.sig.nextLeaf).length + 2820 ∧
        body.take (body.length - 2820) = attestRecord s (slice r.body 0 32) ((rd r.body 32 4).testBit 0) s.cur.sig.nextLeaf ∧
        t.cur.sig.nextLeaf = s.cur.sig.nextLeaf + 1 ∧ t.cur.sig.tokens = s.cur.sig.tokens - 1 ∧
        (s.cur.sig.limit ≤ 2 ^ 20 → t.cur.sig.nextLeaf ≤ t.cur.sig.limit ∧ t.cur.sig.limit ≤ 2 ^ 20) ∧ recorded s t 0x0B00 0 s.cur.sig.nextLeaf (rd r.body 0 8) 0)) ∧
    (∀ r x xs, requestIs s 0x03 = some r → ((allRecords s).filter fun x => decide (rd r.body 0 8 ≤ x.seq)).take (rd r.body 8 4) = x :: xs →
      ∃ t, exec .annalsExport s = .next t ∧ answered t r mbOk (leBytes 8 x.seq ++ leBytes 4 (xs.length + 1)) ∧ t.ann = s.ann ∧ t.free = s.free ∧
        t.out.dma = (dmaWrite s .pf0 (rd r.body 16 8) ((x :: xs).flatMap recBytes)).out.dma) ∧
    (∀ r, requestIs s 0x04 = some r → (kindCount s.ann 4).written < 100 → ∃ t, exec .annalsNote s = .next t ∧ answered t r mbOk (leBytes 8 (s.ann.lastSeq + 1)) ∧
      recorded s t 0x0004 0 (rd r.body 0 8) (rd r.body 8 8) (rd r.body 16 8) ∧ t.cur.sig = s.cur.sig) ∧
    (requestIs s 0x01 = none → exec .identity s = .next s) ∧ (∀ ok, requestIs s 0x02 = none → exec (.attest ok) s = .next s)

/-- R357, R368, R371, R372: firmware and the watchdog. FW_STAGE of a package that passes goes into the slot that does not run, unconfirmed; a failed check, fetch or NAND write answers its status, and only the NAND failure
touches a slot. FW_ACTIVATE and FW_REVERT select the other slot for the next boot, on trial or not, where it holds a package. FW_RAISE_FLOOR raises the floor to a confirmed running SVN. The running slot never changes. The third watchdog restart within
ten minutes is a device reset with its cause; an earlier one restarts the curator: a request in hand is answered RESTARTED, an image operation is dropped, and SEQ goes on 8,192 after the last durable
record. -/
def Obligations.FirmwareAndWatchdog : Prop :=
  ∀ s : State, s.regsOk →
    let w := s.cur.fw
    let other := 1 - w.running
    let kept := fun (t : State) => t.cur.fw.running = w.running ∧ t.cur.fw.trial = w.trial ∧ t.cur.fw.recovery = w.recovery ∧ t.img = s.img ∧ t.kv = s.kv ∧ t.clk = s.clk
    let event := fun (t : State) (e slot svn : Nat) => recorded s t 0x0A00 1 e slot svn
    (∀ r f nandOk, requestIs s 0x05 = some r →
      (∀ b, f = .data b → fwFault s (b.take (rd r.body 8 4)) = none → w.running ≤ 1 →
        let x : FwSlot := { svn := Config.fwField 1 ((b.take (rd r.body 8 4)).take 128), digest := Config.fwBytes 1 ((b.take (rd r.body 8 4)).take 128), confirmed := false }
        (nandOk = true → ∃ t, exec (.fwStage f nandOk) s = .next t ∧ kept t ∧ fwSlotOf t.cur.fw other = some x ∧
          fwSlotOf t.cur.fw w.running = fwSlotOf w w.running ∧ answered t r mbOk (leBytes 1 other ++ leBytes 2 x.svn) ∧ event t 1 other x.svn ∧
          fget t Reg.CUR_FW_STATUS.STAGED = 1) ∧
        (nandOk = false → ∃ t, exec (.fwStage f nandOk) s = .next t ∧ kept t ∧ answered t r mbNand [] ∧ fwSlotOf t.cur.fw other = none ∧
          fwSlotOf t.cur.fw w.running = fwSlotOf w w.running)) ∧
      (∀ b e, f = .data b → fwFault s (b.take (rd r.body 8 4)) = some e → ∃ t, exec (.fwStage f nandOk) s = .next t ∧ answered t r e [] ∧ t.cur.fw = w ∧ t.ann = s.ann) ∧
      ((∀ b, f ≠ .data b) → ∃ t, exec (.fwStage f nandOk) s = .next t ∧ answered t r mbFetch [] ∧ t.cur.fw = w ∧ t.ann = s.ann)) ∧
    (∀ r, requestIs s 0x06 = some r → (otherSvn s = none → ∀ ok, ∃ t, exec (.fwActivate ok) s = .next t ∧ answered t r mbNoPending [] ∧ t.cur.fw = w) ∧
      (∀ svn, otherSvn s = some svn → ∃ t, exec (.fwActivate true) s = .next t ∧ kept t ∧ answered t r mbOk [] ∧ t.cur.fw = { w with nextSlot := other, nextTrial := true } ∧
        event t 2 other svn)) ∧
    (∀ r, requestIs s 0x07 = some r → (otherSvn s = none → ∀ ok, ∃ t, exec (.fwRevert ok) s = .next t ∧ answered t r mbNoPending [] ∧ t.cur.fw = w) ∧
      (∀ svn, otherSvn s = some svn → ∃ t, exec (.fwRevert true) s = .next t ∧ kept t ∧ answered t r mbOk [] ∧ t.cur.fw = { w with nextSlot := other, nextTrial := false } ∧
        event t 5 other svn)) ∧
    (∀ r x, requestIs s 0x08 = some r → fwSlotOf w w.running = some x →
      (x.confirmed = true → ∃ t, exec (.fwRaiseFloor true) s = .next t ∧ kept t ∧ t.cur.fw = { w with floor := x.svn } ∧ answered t r mbOk (leBytes 2 x.svn) ∧
        event t 6 w.running x.svn ∧ fget t Reg.CUR_FW_STATUS.FLOOR = x.svn % 2 ^ 16) ∧
      (x.confirmed = false → ∀ ok, ∃ t, exec (.fwRaiseFloor ok) s = .next t ∧ answered t r mbNoPending [] ∧ t.cur.fw = w)) ∧
    (unpowered s = false →
      let recent := s.clk.watchdogs.filter fun t => decide (s.clk.tick < t + watchdogSpan)
      (2 ≤ recent.length → ∃ t, exec .watchdogExpiry s = .next t ∧ t.pst.inReset = true ∧ t.pst.cause = 7 ∧ unpowered t = true ∧ t.kv = State.reset.kv) ∧
      (recent.length < 2 → ∃ t, exec .watchdogExpiry s = .next t ∧ t.clk.watchdogs = s.clk.tick :: recent ∧ t.img.op = none ∧ t.ann.lastSeq = durableSeq s + 8192 ∧
        counted s t Reg.RST_CAUSE.CURATOR_RESTARTS 1 ∧ t.kv = s.kv ∧ t.run = s.run ∧ ∀ r, s.cur.mbx.req = some r → answered t r mbRestarted []))

/-- R361 to R366: the monitor converters. A trigger of an enabled slot starts its conversion with the settings of the moment, or waits behind the one in progress; one that recurs while its slot waits, or whose regulator is
stopped, is dropped and counted. A result shows the CODE of the path that its slot is on, is VALID, counts modulo 64 and in RESULTS, and the waiting slot of the lowest number is served next; a CODE of a slot
that is not converting changes nothing. -/
def Obligations.ConvertersServeSlots : Prop :=
  ∀ (die slot : Nat) (s : State), s.regsOk → swf (fun _ => freshConverter) s.cur.conv = true → die ≤ 4 → slot < 16 → unpowered s = false →
    let c := convOf s die
    let conv := fun (t : State) => t = { s with cur := { s.cur with conv := t.cur.conv } } ∧ ∀ d, d ≠ die → convOf t d = convOf s d
    let dropped := fun (t : State) => t = { s with regs := t.regs } ∧ counted s t (Reg.MON_STATS.OVERRUN die) 1
    (fget s (Reg.MON_SLOT.ENABLE die slot) = 0 → ∀ st, exec (.monitorTrigger die slot st) s = .next s) ∧
    (fget s (Reg.MON_SLOT.ENABLE die slot) = 1 →
      (c.busy = none → ∃ t, exec (.monitorTrigger die slot false) s = .next t ∧ conv t ∧
        convOf t die = { c with busy := some slot, set := rget s (Reg.MON_SLOT.ENABLE die slot).addr, window := rget s (Reg.MON_WINDOW.LOW die slot).addr }) ∧
      (∀ x, c.busy = some x → slotWaits c slot = false → ∃ t, exec (.monitorTrigger die slot false) s = .next t ∧ conv t ∧
        convOf t die = { c with waiting := c.waiting ++ [(slot, rget s (Reg.MON_SLOT.ENABLE die slot).addr, rget s (Reg.MON_WINDOW.LOW die slot).addr)] }) ∧
      (∀ x, c.busy = some x → slotWaits c slot = true → ∃ t, exec (.monitorTrigger die slot false) s = .next t ∧ dropped t) ∧
      (fget s (Reg.MON_SLOT.TRIGGER die slot) = 2 → ∃ t, exec (.monitorTrigger die slot true) s = .next t ∧ dropped t)) ∧
    (∀ x, c.busy ≠ some slot → exec (.monitorResult die slot x) s = .next s) ∧
    (∀ x, c.busy = some slot → slotWaits c slot = false → (∀ w ∈ c.waiting, w.1 < 16) → ∃ t, exec (.monitorResult die slot x) s = .next t ∧
      signed 24 (fget t (Reg.MON_RESULT.CODE die slot)) = (let osr := fieldOf c.set 8 4
        if c.refFailed = true then fallbackCode osr 4 4 x
        else if fieldOf c.set 1 1 = 1 then fallbackCode osr (fieldOf c.set 36 4) (fieldOf c.set 40 5) x else mainCode osr x) ∧
      fget t (Reg.MON_RESULT.FALLBACK die slot) = (if c.refFailed = true ∨ fieldOf c.set 1 1 = 1 then 1 else 0) ∧
      fget t (Reg.MON_RESULT.VALID die slot) = 1 ∧ fget t (Reg.MON_RESULT.COUNT die slot) = (fget s (Reg.MON_RESULT.COUNT die slot) + 1) % 64 ∧
      counted s t (Reg.MON_STATS.RESULTS die) 1 ∧ (convOf t die).busy = (c.waiting.map (·.1)).min? ∧ t.kv = s.kv ∧ t.itk = s.itk ∧ t.run = s.run ∧ t.img = s.img)

/-! ### Vigilance and containment (05, 06, 18) -/

/-- R151: a class-S check of a shelf that has not completed S_LAG class-S passes after its sampled pass is discarded: it leaves the region's checks, SKIPPED counts it and the
annals record it. It detects nothing: no detection, no flag of SCR.VIG_STATUS and no other check changes, and neither does what the shelf's schedule counts, so that its next
check proceeds as usual. A check that is not late stays. -/
def Obligations.LateChecksAreDiscarded : Prop :=
  ∀ (r shelf : Nat) (s : State), s.regsOk → swf (fun _ => freshVigilance) s.run.vig = true →
    (∀ c, (vigOf s r).checks.find? (fun c => c.shelf == shelf && decide (c.lag ≤ c.passed)) = some c → c.region = r → ∃ t, exec (.classSCheckDiscard r shelf) s = .next t ∧
      t = { s.withRegs t with run := { s.run with vig := t.run.vig } } ∧ vigOf t r = { vigOf s r with checks := (vigOf s r).checks.erase c } ∧
      (∀ q, q ≠ r → vigOf t q = vigOf s q) ∧ counted s t (Reg.SCR_VIG_COUNTS.SKIPPED (hallOf shelf)) 1 ∧
      s.regsFrom t [(Reg.SCR_VIG_COUNTS.SKIPPED (hallOf shelf)).addr] ∧ recorded s t 0x0501 0 c.passNo 0 0) ∧
    ((∀ c ∈ (vigOf s r).checks, c.shelf = shelf → c.passed < c.lag) → exec (.classSCheckDiscard r shelf) s = .next s)

/-- R120, R156, R388: VIGILANCE_CLEAR clears exactly the written detection bits of the hall and withdraws their completion flags. OUTLIER_MINUTE starts the minute's counts again, and
with nothing counted records nothing.

R112, R379, R380, R387: proofs. A job that may run and is not its proof's last moves on to the next job, and the scribe that ran it is free. A digest that matches goes on to the next proof, or completes the unit's set, counts it in PASSED and goes on to
the next unit. The first mismatch repeats the proof and counts; the second fails a shelf's unit for good, and its region is offline or its pass goes on. A unit whose period has all but passed is forced once. A
localisation that ends with a folio beyond its limit marks that folio failed; with none, the shelf's scribe and sequencer are proved first. -/
def Obligations.ClearsMinutesAndProofs : Prop :=
  (
  ∀ s : State, s.regsOk →
    (∀ h bits, h < 4 → unpowered s = false → hallOff s h = false → s.con.taints = [] → ∃ t, exec (.vigilanceClear h bits) s = .next t ∧
      t = { s with regs := t.regs, run := { s.run with detections := t.run.detections } } ∧
      fget t (Reg.SCR_VIG_STATUS.S_DETECT h) = (if bits.testBit 0 then 0 else fget s (Reg.SCR_VIG_STATUS.S_DETECT h)) ∧
      fget t (Reg.SCR_VIG_STATUS.N_DETECT h) = (if bits.testBit 1 then 0 else fget s (Reg.SCR_VIG_STATUS.N_DETECT h)) ∧
      fget t (Reg.SCR_VIG_STATUS.N_FALL h) = (if bits.testBit 2 then 0 else fget s (Reg.SCR_VIG_STATUS.N_FALL h)) ∧
      (∀ a, a ≠ (Reg.SCR_VIG_STATUS.S_DETECT h).addr → rget t a = rget s a) ∧
      ∀ d, d ∈ t.run.detections ↔ d ∈ s.run.detections ∧ ¬ (d.1 = h ∧ bits.testBit d.2.2 = true)) ∧
    (∃ t, exec .outlierMinute s = .next t ∧ t.con = { s.con with minute := [] } ∧ t = { s.withRegs t with con := t.con } ∧ s.regsFrom t [] ∧
      (s.con.minute = [] → t.ann = s.ann))) ∧
  (
  ∀ (h : Nat) (s : State), s.regsOk → swf (fun _ => freshRotation) s.con.rotations = true → h < 4 → unpowered s = false →
    let r := rotationOf s h
    let u := unitNow r
    let on := fun (t : State) => ∀ g, g ≠ h → rotationOf t g = rotationOf s g
    let e := endProofRun s h
    let kept := fun (t : State) => t.kv = s.kv ∧ t.itk = s.itk ∧ t.img = s.img ∧ t.scr = e.scr
    (e = { s with scr := { s.scr with unit := e.scr.unit } }) ∧
    ((hallOff s h = true ∨ s.con.failedHalls.elem h = true ∨ proofMayRun s h u r = false) → ∀ ob, exec (.proofJob h ob) s = .next s) ∧
    (∀ d ob, hallOff s h = false → s.con.failedHalls.elem h = false → proofMayRun s h u r = true → u < 256 → s.con.failedShelves.elem (unitShelf h u) = false → (proofSet s u)[r.proof]? = some d →
      (r.job + 1 < d.jobs → ∃ t, exec (.proofJob h ob) s = .next t ∧ t = { e with con := { s.con with rotations := t.con.rotations } } ∧ on t ∧
        rotationOf t h = { r with job := r.job + 1 }) ∧
      (d.jobs ≤ r.job + 1 → ob.take 8 = d.answer → r.proof + 1 < (proofSet s u).length → ∃ t, exec (.proofJob h ob) s = .next t ∧
        t = { e with con := { s.con with rotations := t.con.rotations } } ∧ on t ∧ rotationOf t h = { r with proof := r.proof + 1, job := 0, retry := false }) ∧
      (d.jobs ≤ r.job + 1 → ob.take 8 = d.answer → (proofSet s u).length ≤ r.proof + 1 → s.con.locals = [] → ∃ t, exec (.proofJob h ob) s = .next t ∧ kept t ∧ on t ∧
        counted s t Reg.CUR_PROOF_STATS.PASSED 1 ∧ t.con.failedShelves = s.con.failedShelves ∧
        rotationOf t h = { r with unit := if r.head = [] then (r.unit + 1) % 257 else r.unit, head := r.head.drop 1, proof := 0, job := 0, retry := false
                                  forced := r.forced.filter (· != u) }) ∧
      (d.jobs ≤ r.job + 1 → ob.take 8 ≠ d.answer → r.retry = false → ∃ t, exec (.proofJob h ob) s = .next t ∧ kept t ∧ on t ∧
        rotationOf t h = { r with job := 0, retry := true } ∧ counted s t Reg.CUR_PROOF_STATS.MISMATCH 1 ∧ t.con.failedShelves = s.con.failedShelves) ∧
      (d.jobs ≤ r.job + 1 → ob.take 8 ≠ d.answer → r.retry = true → ∃ t, exec (.proofJob h ob) s = .next t ∧
        t.con.failedShelves = s.con.failedShelves ++ [unitShelf h u] ∧ t.con.failedHalls = s.con.failedHalls ∧ (rotationOf t h).retry = false ∧
        fget t Reg.CUR_PROOF_STATUS.FAILED_SHELVES = (s.con.failedShelves.length + 1) % 2 ^ 9 ∧ fget t Reg.CUR_PROOF_STATUS.LAST_CLASS = unitClass u ∧
        fget t Reg.CUR_PROOF_STATUS.LAST_HALL = h ∧ t.itk = s.itk)) ∧
    (∀ unit, unit ≤ 256 → r.forced.elem unit = false → unitFailed s h unit = false →
      let due := sget (fun _ => 0) s.con.proofTick (unitKey h unit) + ((s.img.bound.budget 7).periodS - 1) * 1000000
      (due ≤ s.clk.tick → ∃ t, exec (.proofForce h unit) s = .next t ∧ t = { s with con := { s.con with rotations := t.con.rotations } } ∧ on t ∧
        rotationOf t h = { r with forced := r.forced ++ [unit] }) ∧
      (s.clk.tick < due → exec (.proofForce h unit) s = .next s)) ∧
    (∀ reg l, s.con.locals.find? (fun l => l.region == reg && l.passes == 8) = some l → s.foliosOk →
      let ks := ((l.beyond.filter fun e => decide (8 < e.2)).map (·.1)).filterMap (servingAt s l.shelf)
      (ks = [] → ∃ t, exec (.localisationEnd reg) s = .next t ∧ t = { s with con := t.con } ∧
        ∀ x ∈ [2 * (l.shelf % 128), 2 * (l.shelf % 128) + 1], x ∈ (rotationOf t (hallOf l.shelf)).head) ∧
      (ks ≠ [] → ∃ t, exec (.localisationEnd reg) s = .next t ∧ l ∉ t.con.locals ∧ (∀ k ∈ ks, (folioAt t k).failed = true) ∧
        ∀ k, k ∉ ks → (folioAt t k).failed = (folioAt s k).failed)))

/-- R68, R72, R382, R383, R384: margin walks and maintenance windows. A spare that passes its walk holds the pattern, at the cost of one WEAR where it did not, and an abandoned walk waits for it no more; one that
fails a step is RETIRED. Where the shelf's spares are all waited for by folios of a higher rank, the walk is abandoned: no folio changes, and it waits for the next spare that the shelf frees. A window refused while another
stands answers BUSY; over an orbit region, ORBIT. An opened window holds its regions, echoes its TAG, and walks once none of them has a pass in flight. A window that closes releases the held commands; one
that never became quiet ends with QUIESCE_TIMEOUT, and one whose limit expires with folios left records them and ends with LIMIT. -/
def Obligations.WindowsOpenAndClose : Prop :=
  ∀ s : State, s.regsOk → s.foliosOk → unpowered s = false →
    let state := fun (t : State) => fget t Reg.CUR_MAINT_STATUS.STATE
    let result := fun (t : State) => fget t Reg.CUR_MAINT_STATUS.LAST_RESULT
    let rest := fun (t : State) => t.kv = s.kv ∧ t.itk = s.itk ∧ t.run = s.run ∧ t.img = s.img
    (∀ shelf pos,
      let key := folioKey shelf pos
      let f := folioAt s key
      hallOff s (hallOf shelf) = false → f.st = .spare → (s.img.bound.budget 7).enable = true → wornOut s f = false → waitingAbove s shelf 5 = [] →
      (∀ w, w = (if f.content = .pattern then f.wear else min (f.wear + 1) 16383) → wornOut s { f with wear := w } = false →
        ∃ t, exec (.marginWalk shelf pos []) s = .next t ∧ folioAt t key = { f with content := .pattern, wear := w, sweeps := f.sweeps + 1 } ∧
          (∀ j, j ≠ key → folioAt t j = folioAt s j) ∧ t = { s with arr := { s.arr with folios := t.arr.folios }, con := { s.con with heldWalks := t.con.heldWalks } } ∧
          (key / 68, some key) ∉ t.con.heldWalks) ∧
      (∀ x xs, ∃ t, exec (.marginWalk shelf pos (x :: xs)) s = .next t ∧ (folioAt t key).st = .retired ∧ (folioAt t key).failed = true ∧
        (∀ j, j ≠ key → folioAt t j = folioAt s j) ∧ rest t)) ∧
    (∀ shelf pos xs,
      let key := folioKey shelf pos
      hallOff s (hallOf shelf) = false → (folioAt s key).st = .spare → (s.img.bound.budget 7).enable = true → wornOut s (folioAt s key) = false → waitingAbove s shelf 5 ≠ [] →
      (usableSpares s shelf).length ≤ (waitingAbove s shelf 5).length →
      ∃ t, exec (.marginWalk shelf pos xs) s = .next t ∧ t = { s.withRegs t with con := { s.con with heldWalks := t.con.heldWalks } } ∧
        (t.con.heldWalks.any fun w => w.1 == key / 68) = true) ∧
    (∀ tag mask limit,
      let rs := (s.img.bound.regions.map (·.id)).filter mask.testBit
      let busy := imgBusy s || (s.acc.any fun e => accBusy e.2) || s.con.window.isSome
      ((limit < 100 ∨ 3600000 < limit) → ∃ t, exec (.openWindow tag mask limit) s = .next t ∧ t = s.withRegs t ∧ s.regsFrom t [] ∧ recorded s t 0x0C00 1 0x109000 (1 + limit * 2 ^ 8 + mask % 2 ^ 16 * 2 ^ 32 + tag * 2 ^ 48) 0) ∧
      (100 ≤ limit → limit ≤ 3600000 → busy = true → ∃ t, exec (.openWindow tag mask limit) s = .next t ∧ result t = 1 ∧ t = { s with regs := t.regs } ∧ state t = state s) ∧
      (100 ≤ limit → limit ≤ 3600000 → busy = false → rs.any (orbitRegion s) = true → ∃ t, exec (.openWindow tag mask limit) s = .next t ∧ result t = 2 ∧ t = { s with regs := t.regs } ∧ state t = state s) ∧
      (100 ≤ limit → limit ≤ 3600000 → busy = false → rs.any (orbitRegion s) = false → (∃ r ∈ rs, (passOf s r).isSome = true) → ∃ t w, exec (.openWindow tag mask limit) s = .next t ∧ rest t ∧
        t.con = { s.con with window := some w } ∧ w.regions = rs ∧ w.quiet = false ∧ w.walked = [] ∧ w.opened = s.clk.tick ∧ state t = 1 ∧ result t = 0 ∧
        fget t Reg.CUR_MAINT_STATUS.TAG = tag % 2 ^ 16 ∧ fget t Reg.CUR_MAINT_STATUS.FAILED = 0)) ∧
    (∀ tag limit hb lb,
      let rs := s.img.bound.regions.map (·.id)
      let st := fget s Reg.ORB_STATUS.STATE
      100 ≤ limit → limit ≤ 3600000 → imgBusy s = false → (s.acc.any fun e => accBusy e.2) = false → s.con.window = none → rs.any (orbitRegion s) = false → (st = 0 ∨ st = 4) →
      ((∃ r ∈ rs, (passOf s r).isSome = true) → ∃ t w, exec (.openModule tag limit hb lb) s = .next t ∧ rest t ∧ t.con = { s.con with window := some w } ∧
        w.module = true ∧ w.regions = rs ∧ w.hbmBad = hb ∧ w.lanesBad = lb ∧ state t = 1 ∧ result t = 0) ∧
      ((∀ r ∈ rs, passOf s r = none) → ∃ t, exec (.openModule tag limit hb lb) s = .next t ∧ rest t ∧ (∃ w, t.con.window = some w ∧ w.quiet = true) ∧
        fget t Reg.CUR_MAINT_STATUS.FAILED = min (hb.length + lb) (2 ^ 16 - 1) ∧ (∀ x ∈ hb, x ∈ t.con.withheld) ∧ (state t = 2 ∨ state t = 3))) ∧
    (∀ tag w, s.con.window = some w → (∀ r ∈ w.regions, (passOf s r).isSome = true) → s.con.taints = [] → ∃ t, exec (.closeWindow tag) s = .next t ∧ rest t ∧
      t.con.window = none ∧ state t = 0 ∧ result t = 0 ∧ fget t Reg.CUR_MAINT_STATUS.HELD = 0 ∧ fget t Reg.CUR_MAINT_STATUS.TAG = tag % 2 ^ 16) ∧
    (∀ tag, s.con.window = none → ∃ t, exec (.closeWindow tag) s = .next t ∧ t = { s with regs := t.regs } ∧ result t = 0 ∧ state t = state s) ∧
    (∀ w, s.con.window = some w → s.img.op = none → w.quiet = false → ∃ t, exec .quiesceTimeout s = .next t ∧
      t = { s with regs := t.regs, con := { s.con with window := none } } ∧ state t = 0 ∧ result t = 3 ∧ fget t Reg.CUR_MAINT_STATUS.HELD = 0) ∧
    (∀ w, s.con.window = some w → unwalked s w ≠ [] → (∀ r ∈ w.regions, (passOf s r).isSome = true) → s.con.taints = [] → ∃ t, exec .maintLimitExpiry s = .next t ∧ rest t ∧
      t.con.window = none ∧ state t = 0 ∧ result t = 4 ∧ fget t Reg.CUR_MAINT_STATUS.HELD = 0 ∧ t.ann ≠ s.ann) ∧
    (s.con.window = none → exec .maintLimitExpiry s = .next s)

/-- R395, R398: delivery of fault signature records. With the ring on, its function up and a slot free, the oldest retained record at or after the cursor goes to the next slot, its body before its header with the slot's PHASE,
PRODUCED rises by one and the cursor passes the record; with no free slot or no record nothing changes. Setting ENABLE of an idle ring takes the written place and starts at slot 0 with the oldest record; while it is
on its place stays. -/
def Obligations.SignaturesAreDelivered : Prop :=
  ∀ s : State, s.regsOk → unpowered s = false →
    let produced := fget s Reg.CUR_FSR_INDEX.PRODUCED
    let used := (produced + 2 ^ 32 - fget s Reg.CUR_FSR_INDEX.CONSUMED) % 2 ^ 32
    (∀ r, nextFsr s = some r → fnUp s .pf0 = true → fget s Reg.CUR_FSR_RING.ENABLE = 1 → used < fsrSlots s →
      let place := fget s Reg.CUR_FSR_RING.ADDR * 4096 + 1024 * (produced % fsrSlots s)
      ∃ t, exec .fsrDeliver s = .next t ∧ t = { s with regs := t.regs, con := { s.con with fsrCursor := r.seq + 1 }, out := { s.out with dma := t.out.dma } } ∧
        t.out.dma = ⟨.pf0, place % 2 ^ 64, leBytes 8 r.seq ++ leBytes 2 r.body.length ++ leBytes 1 (if produced / fsrSlots s % 2 = 0 then 1 else 0) ++ leBytes 5 0⟩ ::
          ⟨.pf0, (place + 16) % 2 ^ 64, r.body⟩ :: s.out.dma ∧
        fget t Reg.CUR_FSR_INDEX.PRODUCED = (produced + 1) % 2 ^ 32 ∧ fget t Reg.CUR_FSR_INDEX.CONSUMED = fget s Reg.CUR_FSR_INDEX.CONSUMED) ∧
    ((nextFsr s = none ∨ fget s Reg.CUR_FSR_RING.ENABLE = 0 ∨ fsrSlots s ≤ used) → exec .fsrDeliver s = .next s) ∧
    (∀ value, fget s Reg.CUR_FSR_RING.ENABLE = 0 → 4 ≤ nbits value 8 4 → nbits value 8 4 ≤ 12 → nbits value 1 7 = 0 → value % 2 = 1 →
      ∃ t, exec (.fsrRingEnable value) s = .next t ∧ t = { s with regs := t.regs, con := { s.con with fsrCursor := 0 } } ∧
        fget t Reg.CUR_FSR_RING.ENABLE = 1 ∧ fget t Reg.CUR_FSR_RING.ADDR = nbits value 12 52 ∧ fget t Reg.CUR_FSR_RING.LOG2_SLOTS = nbits value 8 4 ∧
        fget t Reg.CUR_FSR_INDEX.PRODUCED = 0) ∧
    (∀ value, fget s Reg.CUR_FSR_RING.ENABLE = 1 → ∃ t, exec (.fsrRingEnable value) s = .next t ∧ t = s.withRegs t ∧
      fget t Reg.CUR_FSR_RING.ADDR = fget s Reg.CUR_FSR_RING.ADDR ∧ fget t Reg.CUR_FSR_RING.LOG2_SLOTS = fget s Reg.CUR_FSR_RING.LOG2_SLOTS ∧
      fget t Reg.CUR_FSR_RING.ENABLE = value % 2 ∧ fget t Reg.CUR_FSR_INDEX.PRODUCED = produced)

/-! ### Steps -/

/-- A step (the model's queue and tick, log entry 1) with command `c` at the front of its queue is the effect of `c` on the module with the queue's rest, and with an empty queue it is one microsecond of the module's
clocks. No command ends in a fault or a refusal, and the module right after reset has an empty queue. -/
def Obligations.StepTakesTheFrontCommand : Prop :=
  (∀ c rest s, s.pending = c :: rest → step s = exec c { s with pending := rest }) ∧
  (∀ s, s.pending = [] → step s = .next (idleTick s)) ∧
  (∀ c s, ∃ t, exec c s = .next t) ∧
  State.reset.pending = []

/-- No command's effect touches the queue, so a step takes exactly the front command away and puts none in (the model's queue, log entry 1). -/
def Obligations.EveryStepTakesOneCommand : Prop :=
  (∀ c s t, exec c s = .next t → t.pending = s.pending) ∧
  (∀ s t, step s = .next t → t.pending = s.pending.tail)

/-- Every step keeps the register table in its canonical form (the model's, log entry 8), so that equal register files are equal data, whatever command is carried out. -/
def Obligations.EveryStepKeepsTheRegisterTable : Prop :=
  ∀ s t : State, s.regsOk → step s = .next t → t.regsOk

/-- Every step keeps every table of the module in its canonical form (the model's, log entry 8: the pages, streams, folios, tiles, passes, ports and the rest), so that equal contents are equal data; they
stand in it at reset. The statements that read what a table holds after a change assume this form of the table. -/
def Obligations.EveryStepKeepsItsTables : Prop :=
  State.reset.tablesOk ∧ ∀ s t : State, s.tablesOk → step s = .next t → t.tablesOk

/-- R29: the serial floor. It is 0 at the first boot. No step lowers it, and no step but one of RAISE_FLOOR changes it, power loss and resets included. RAISE_FLOOR sets it to the bound image's serial, never
lower, and CUR.IMG_FLOOR shows it in its 64 bits; under the plain image it is refused with PLAIN and the floor is unchanged. STORE answers ROLLBACK for an image with no other fault whose SERIAL is below
the floor, and BIND for such a pending image. -/
def Obligations.TheFloorNeverFalls : Prop :=
  State.reset.img.store.floor = 0 ∧
  (∀ s t : State, step s = .next t → s.img.store.floor ≤ t.img.store.floor ∧
    ((∀ tag ok rest, s.pending ≠ .raiseFloor tag ok :: rest) → t.img.store.floor = s.img.store.floor)) ∧
  ∀ (tag : Nat) (s : State), s.regsOk → imgReady s →
    (s.img.bound.plain = false → ∃ t, exec (.raiseFloor tag true) s = .next t ∧ t.img.store.floor = max s.img.store.floor s.img.bound.serial ∧
      fget t Reg.CUR_IMG_FLOOR.FLOOR = max s.img.store.floor s.img.bound.serial % 2 ^ 64 ∧ imgShows t tag 0x00 0) ∧
    (s.img.bound.plain = true → ∀ ok, ∃ t, exec (.raiseFloor tag ok) s = .next t ∧ t.img.store.floor = s.img.store.floor ∧ imgShows t tag 0x11 0) ∧
    (∀ a b ok, s.img.store.anchor = some a → b.length = fget s Reg.CUR_IMG_LEN.LEN → b.length % 4096 = 0 → b.length ≤ 268435456 →
      rd b 0x18 8 < s.img.store.floor → ∃ t, exec (.store tag (.data b) ok) s = .next t ∧ t.img = s.img ∧
        (checkImage (moduleRev s) 0 (some a) b.length b = none → imgShows t tag 0x06 0)) ∧
    (∀ b, pendingImage s = some b → (parseImage b).serial < s.img.store.floor →
      ∃ t, exec (.bind tag) s = .next t ∧ t.img = s.img ∧ imgShows t tag 0x06 0)

/-- R17, R403: pass numbers never repeat. In every state whose carrels' next pass numbers are at least 1 and below their reserved limits (and whose kept table is canonical), as at
reset, a step keeps that, and takes no carrel's next number or limit back: not at a boot, a reset or a loss of power either. -/
def Obligations.PassNumbersNeverRepeat : Prop :=
  let ahead := fun (s : State) => s.carrelsOk ∧ ∀ n, 1 ≤ (carrelSt s n).nextPass ∧ (carrelSt s n).nextPass < (carrelSt s n).limit
  ahead State.reset ∧
  (∀ s t : State, ahead s → step s = .next t → ahead t ∧ ∀ n, (carrelSt s n).nextPass ≤ (carrelSt t n).nextPass ∧ (carrelSt s n).limit ≤ (carrelSt t n).limit)

/-- R380, R381: a unit that has failed for good stays failed: no step, a boot, a reset and a loss of power included, takes a shelf or a hall out of the failed ones; none has failed at reset. -/
def Obligations.FailedUnitsStayFailed : Prop :=
  State.reset.con.failedShelves = [] ∧ State.reset.con.failedHalls = [] ∧
  ∀ s t : State, step s = .next t →
    (∀ x ∈ s.con.failedShelves, x ∈ t.con.failedShelves) ∧ (∀ h ∈ s.con.failedHalls, h ∈ t.con.failedHalls)

/-- R132: packed elements. Of a whole number of bytes of elements, a 4-bit format places element 2k in bits [3:0] of byte k and element 2k + 1 in bits [7:4]; a 6-bit
format places elements 4k to 4k + 3 in bytes 3k to 3k + 2, read as one 24-bit little-endian group, element 4k + n in its bits [6n + 5:6n]; elements of 8 bits and wider
take whole bytes, little-endian, in element order. Unpacking answers the elements that were packed. -/
def Obligations.PackedElementsStandInOrder : Prop :=
  ∀ (f : Fmt) (es : List Nat), (∀ e ∈ es, e < 2 ^ f.width) → es.length * f.width % 8 = 0 →
    (packElems f es).length = es.length * f.width / 8 ∧ unpackElems f es.length (packElems f es) = es ∧
    (f.width = 4 → ∀ k, 2 * k + 1 < es.length → rd (packElems f es) k 1 = es.getD (2 * k) 0 + 2 ^ 4 * es.getD (2 * k + 1) 0) ∧
    (f.width = 6 → ∀ k n, 4 * k + 3 < es.length → n < 4 → nbits (rd (packElems f es) (3 * k) 3) (6 * n) 6 = es.getD (4 * k + n) 0) ∧
    (8 ≤ f.width → ∀ k < es.length, rd (packElems f es) (f.width / 8 * k) (f.width / 8) = es.getD k 0)

end
end

