-- ==== Sys2Proof/Laws/Sparse.lean ====
section
/-!
SUPPORT. Sys2Proof/Laws/Sparse.lean: what the table operations do, and that each keeps the canonical form.
-/
namespace Sys2Proof.Machine

variable {α : Type} [DecidableEq α] {d : Nat → α}

/-- A table in canonical form below a key bound reads its reset contents at keys up to the bound. -/
theorem sget_below {m : Sparse α} {k i : Nat} (h : swfFrom d (some k) m = true) (hi : i ≤ k) : sget d m i = d i := by
  cases m with
  | nil => rfl
  | cons e m =>
    obtain ⟨j, v⟩ := e
    simp only [swfFrom, Bool.and_eq_true, decide_eq_true_eq] at h
    have : i < j := by omega
    simp [sget, this, show i ≠ j by omega]

/-- A lower bound may be weakened. -/
theorem swfFrom_weaken {m : Sparse α} {b c : Option Nat} (h : swfFrom d b m = true)
    (hc : ∀ x ∈ c, ∃ y ∈ b, x ≤ y) : swfFrom d c m = true := by
  cases m with
  | nil => rfl
  | cons e m =>
    obtain ⟨j, v⟩ := e
    simp only [swfFrom, Bool.and_eq_true, decide_eq_true_eq] at h ⊢
    refine ⟨⟨?_, h.1.2⟩, h.2⟩
    cases c with
    | none => rfl
    | some x =>
      obtain ⟨y, hy, hxy⟩ := hc x rfl
      cases hy
      have := h.1.1
      simp at this ⊢
      omega

theorem swfFrom_some {m : Sparse α} {k : Nat} (h : swfFrom d (some k) m = true) : swf d m = true :=
  swfFrom_weaken h (by simp)

/-- An entry written keeps the form above every bound below its key. -/
theorem sset_swfFrom {m : Sparse α} {b : Option Nat} {i : Nat} {x : α} (h : swfFrom d b m = true)
    (hb : ∀ y ∈ b, y < i) : swfFrom d b (sset d m i x) = true := by
  induction m generalizing b with
  | nil =>
    simp only [sset]
    split
    · rfl
    · cases b <;> simp_all [swfFrom]
  | cons e m ih =>
    obtain ⟨j, v⟩ := e
    simp only [swfFrom, Bool.and_eq_true, decide_eq_true_eq] at h
    simp only [sset]
    split
    · rename_i hij
      split
      · simp only [swfFrom, Bool.and_eq_true, decide_eq_true_eq]; exact h
      · simp only [swfFrom, Bool.and_eq_true, decide_eq_true_eq]
        refine ⟨⟨?_, by assumption⟩, ⟨hij, h.1.2⟩, h.2⟩
        cases b <;> simp_all
    · split
      · rename_i hij
        split
        · exact swfFrom_weaken h.2 (fun y hy => ⟨j, rfl, by have := hb y hy; omega⟩)
        · simp only [swfFrom, Bool.and_eq_true, decide_eq_true_eq]
          refine ⟨⟨?_, by assumption⟩, hij ▸ h.2⟩
          cases b <;> simp_all
      · simp only [swfFrom, Bool.and_eq_true, decide_eq_true_eq]
        refine ⟨h.1, ih h.2 ?_⟩
        intro y hy; cases hy; omega

/-- Writing a table keeps its canonical form. -/
theorem sset_swf {m : Sparse α} (i : Nat) (x : α) (h : swf d m = true) : swf d (sset d m i x) = true :=
  sset_swfFrom h (by simp)

/-- Changing an entry keeps the canonical form. -/
theorem smod_swf {m : Sparse α} (i : Nat) (f : α → α) (h : swf d m = true) : swf d (smod d m i f) = true :=
  sset_swf i _ h

/-- A table reads at a key what was last written there. -/
theorem sget_sset_same {m : Sparse α} {i : Nat} {x : α} (h : swf d m = true) : sget d (sset d m i x) i = x := by
  have : ∀ b, swfFrom d b m = true → sget d (sset d m i x) i = x := by
    induction m with
    | nil =>
      intro b _
      simp only [sset]
      split <;> simp_all [sget]
    | cons e m ih =>
      obtain ⟨j, v⟩ := e
      intro b hb
      simp only [swfFrom, Bool.and_eq_true, decide_eq_true_eq] at hb
      simp only [sset]
      split
      · rename_i hij
        split
        · simp [sget, show i ≠ j by omega, hij]; symm; assumption
        · simp [sget]
      · split
        · rename_i hij
          subst hij
          split
          · rename_i hx
            rw [sget_below hb.2 (Nat.le_refl _), hx]
          · simp [sget]
        · rename_i h1 h2
          simp only [sget]
          rw [if_neg h2, if_neg h1]
          exact ih (swfFrom_some hb.2) _ hb.2
  exact this none h

/-- Writing one key leaves every other key as it was. -/
theorem sget_sset_ne {m : Sparse α} {i j : Nat} {x : α} (h : swf d m = true) (hij : j ≠ i) :
    sget d (sset d m i x) j = sget d m j := by
  have : ∀ b, swfFrom d b m = true → sget d (sset d m i x) j = sget d m j := by
    induction m with
    | nil =>
      intro b _
      simp only [sset]
      split <;> simp [sget, hij]
    | cons e m ih =>
      obtain ⟨k, v⟩ := e
      intro b hb
      simp only [swfFrom, Bool.and_eq_true, decide_eq_true_eq] at hb
      simp only [sset]
      split
      · split
        · rfl
        · rename_i h1 _
          simp only [sget, if_neg hij]
          split
          · rw [if_neg (by omega), if_pos (by omega)]
          · rfl
      · split
        · rename_i hik
          subst hik
          split
          · simp only [sget, if_neg hij]
            split
            · exact sget_below hb.2 (by omega)
            · rfl
          · simp only [sget, if_neg hij]
        · simp only [sget]
          rw [ih (swfFrom_some hb.2) _ hb.2]
  exact this none h

/-- Dropping entries keeps the canonical form. -/
theorem filter_swf {m : Sparse α} (p : Nat × α → Bool) (h : swf d m = true) : swf d (m.filter p) = true := by
  have : ∀ b, swfFrom d b m = true → swfFrom d b (m.filter p) = true := by
    clear h
    induction m with
    | nil => intro b _; rfl
    | cons e m ih =>
      obtain ⟨k, v⟩ := e
      intro b hb
      simp only [swfFrom, Bool.and_eq_true, decide_eq_true_eq] at hb
      simp only [List.filter_cons]
      split
      · simp only [swfFrom, Bool.and_eq_true, decide_eq_true_eq]
        exact ⟨hb.1, ih _ hb.2⟩
      · refine ih _ (swfFrom_weaken hb.2 fun x hx => ⟨k, rfl, ?_⟩)
        have := hb.1.1
        cases hx
        simp at this
        omega
  exact this none h

/-- Putting keys back to their reset contents keeps the canonical form. -/
theorem sdrop_swf {m : Sparse α} (p : Nat → Bool) (h : swf d m = true) : swf d (sdrop p m) = true := filter_swf _ h

/-- Changing every entry keeps the canonical form. -/
theorem smapAll_swf {m : Sparse α} (f : Nat → α → α) (h : swf d m = true) : swf d (smapAll d m f) = true := by
  have : ∀ b, swfFrom d b m = true →
      swfFrom d b ((m.map fun e => (e.1, f e.1 e.2)).filter fun e => decide (e.2 ≠ d e.1)) = true := by
    clear h
    induction m with
    | nil => intro b _; rfl
    | cons e m ih =>
      obtain ⟨k, v⟩ := e
      intro b hb
      simp only [swfFrom, Bool.and_eq_true, decide_eq_true_eq] at hb
      simp only [List.map_cons, List.filter_cons]
      split
      · rename_i hne
        simp only [swfFrom, Bool.and_eq_true, decide_eq_true_eq]
        exact ⟨⟨hb.1.1, by simpa using hne⟩, ih _ hb.2⟩
      · refine ih _ (swfFrom_weaken hb.2 fun x hx => ⟨k, rfl, ?_⟩)
        have := hb.1.1
        cases hx
        simp at this
        omega
  exact this none h

/-- Dropped keys read their reset contents, the others stay as they were. -/
theorem sget_sdrop {m : Sparse α} (p : Nat → Bool) (h : swf d m = true) (i : Nat) :
    sget d (sdrop p m) i = if p i then d i else sget d m i := by
  have : ∀ b, swfFrom d b m = true → sget d (sdrop p m) i = if p i then d i else sget d m i := by
    clear h
    induction m with
    | nil => intro b _; simp [sdrop, sget]
    | cons e m ih =>
      obtain ⟨k, v⟩ := e
      intro b hb
      simp only [swfFrom, Bool.and_eq_true, decide_eq_true_eq] at hb
      have ih' := ih _ hb.2
      simp only [sdrop] at ih' ⊢
      simp only [List.filter_cons]
      by_cases hk : p k = true
      · simp only [hk, Bool.not_true, Bool.false_eq_true, if_false, ih', sget]
        by_cases hik : i = k
        · subst hik; simp [hk]
        · simp only [if_neg hik]
          split
          · rfl
          · split
            · exact sget_below hb.2 (by omega)
            · rfl
      · simp only [hk, Bool.not_false, if_true, sget, ih']
        by_cases hik : i = k
        · subst hik; simp [hk]
        · simp only [if_neg hik]
          split <;> split <;> simp_all
  exact this none h

end Sys2Proof.Machine
end

