-- ==== Sys2Proof/Laws/Registers.lean ====
section
/-!
SUPPORT. Sys2Proof/Laws/Registers.lean: register fields read back what was written, and a write leaves every other field
and register alone.
-/
namespace Sys2Proof.Machine

/-- Bit `i` of a field's value. -/
theorem nbits_testBit (v lo w i : Nat) : (nbits v lo w).testBit i = (decide (i < w) && v.testBit (lo + i)) := by
  simp [nbits, Nat.testBit_mod_two_pow, Nat.testBit_shiftRight]

/-- Bit `i` of a register after a field write. -/
theorem withField_testBit (r : W64) (lo w x i : Nat) : (withField r lo w x).toNat.testBit i =
    (decide (i < 64) && if lo ≤ i ∧ i < lo + w then x.testBit (i - lo) else r.toNat.testBit i) := by
  simp only [BitVec.testBit_toNat, withField]
  by_cases h64 : i < 64
  · simp only [BitVec.getLsbD_or, BitVec.getLsbD_and, BitVec.getLsbD_not, BitVec.getLsbD_ofNat, Nat.testBit_shiftLeft,
      Nat.testBit_mod_two_pow, Nat.testBit_two_pow_sub_one, h64, decide_true, Bool.true_and]
    by_cases h1 : lo ≤ i
    · by_cases h2 : i < lo + w
      · simp [h1, h2, show i - lo < w by omega]
      · simp [h1, h2, show ¬ i - lo < w by omega]
    · simp [h1]
  · simp [h64, BitVec.getLsbD_of_ge _ _ (Nat.le_of_not_lt h64)]

/-- A field reads what was written to it, cut to its width. -/
theorem fieldOf_withField_same (r : W64) (lo w x : Nat) (h : lo + w ≤ 64) : fieldOf (withField r lo w x) lo w = x % 2 ^ w := by
  apply Nat.eq_of_testBit_eq
  intro i
  simp only [fieldOf, nbits_testBit, withField_testBit, Nat.testBit_mod_two_pow]
  by_cases hi : i < w
  · simp [hi, show lo + i < 64 by omega]
  · simp [hi]

/-- A field write leaves a field that it does not overlap alone. -/
theorem fieldOf_withField_other (r : W64) (lo w x lo' w' : Nat) (h' : lo' + w' ≤ 64) (h : lo + w ≤ lo' ∨ lo' + w' ≤ lo) :
    fieldOf (withField r lo w x) lo' w' = fieldOf r lo' w' := by
  apply Nat.eq_of_testBit_eq
  intro i
  simp only [fieldOf, nbits_testBit, withField_testBit]
  by_cases hi : i < w'
  · simp [hi, show lo' + i < 64 by omega, show ¬ (lo ≤ lo' + i ∧ lo' + i < lo + w) by omega]
  · simp [hi]

variable {s : State}

@[simp] theorem rget_rset_same (h : s.regsOk) (a : Nat) (v : W64) : rget (rset s a v) a = v := sget_sset_same h

theorem rget_rset_ne (h : s.regsOk) {a b : Nat} (v : W64) (hab : b ≠ a) : rget (rset s a v) b = rget s b := sget_sset_ne h hab

@[simp] theorem regsOk_rset (h : s.regsOk) (a : Nat) (v : W64) : (rset s a v).regsOk := sset_swf _ _ h

@[simp] theorem regsOk_fset (h : s.regsOk) (f : FieldRef) (x : Nat) : (fset s f x).regsOk := sset_swf _ _ h

@[simp] theorem regsOk_fbump (h : s.regsOk) (f : FieldRef) (n : Nat) : (fbump s f n).regsOk := sset_swf _ _ h

/-- A field reads what was written to it. -/
theorem fget_fset_same (h : s.regsOk) (f : FieldRef) (x : Nat) (hf : f.lo + f.w ≤ 64) : fget (fset s f x) f = x % 2 ^ f.w := by
  simp only [fget, fset, rget_rset_same h]
  exact fieldOf_withField_same _ _ _ _ hf

/-- A field write leaves other registers alone. -/
theorem rget_fset_ne (h : s.regsOk) {f : FieldRef} (x : Nat) {b : Nat} (hb : b ≠ f.addr) : rget (fset s f x) b = rget s b :=
  rget_rset_ne h _ hb

/-- A field write leaves the fields that it does not overlap alone. -/
theorem fget_fset_other (h : s.regsOk) (f g : FieldRef) (x : Nat) (hg : g.lo + g.w ≤ 64)
    (hfg : g.addr ≠ f.addr ∨ f.lo + f.w ≤ g.lo ∨ g.lo + g.w ≤ f.lo) : fget (fset s f x) g = fget s g := by
  by_cases ha : g.addr = f.addr
  · simp only [fget, fset, ha, rget_rset_same h]
    exact fieldOf_withField_other _ _ _ _ _ _ hg (hfg.resolve_left fun h => h ha)
  · simp only [fget, rget_fset_ne h x ha]

/-- A counter leaves other registers alone. -/
theorem rget_fbump_ne (h : s.regsOk) {f : FieldRef} (n : Nat) {b : Nat} (hb : b ≠ f.addr) : rget (fbump s f n) b = rget s b :=
  rget_rset_ne h _ hb

/-- A record or register changes nothing that another one holds, but for the registers of the annals. -/
theorem writeRec_frame (s : State) (kind sev : Nat) (obj : Obj) (a0 a1 a2 : Nat) :
    writeRec s kind sev obj a0 a1 a2 = s.withRegs (writeRec s kind sev obj a0 a1 a2) := by
  simp only [writeRec, State.withRegs]
  split <;> split <;> rfl

theorem annal_frame (s : State) (kind sev : Nat) (obj : Obj) (a0 a1 a2 : Nat) :
    annal s kind sev obj a0 a1 a2 = s.withRegs (annal s kind sev obj a0 a1 a2) := by
  simp only [annal]
  split
  · split
    · rw [writeRec_frame]; rfl
    · rfl
  · exact writeRec_frame ..

theorem writeRec_regsOk (h : s.regsOk) (kind sev : Nat) (obj : Obj) (a0 a1 a2 : Nat) : (writeRec s kind sev obj a0 a1 a2).regsOk := by
  simp only [writeRec]
  split <;> split
  · exact sset_swf _ _ (sset_swf _ _ (sset_swf _ _ h))
  · exact sset_swf _ _ (sset_swf _ _ h)
  · exact sset_swf _ _ (sset_swf _ _ h)
  · exact sset_swf _ _ h

theorem annal_regsOk (h : s.regsOk) (kind sev : Nat) (obj : Obj) (a0 a1 a2 : Nat) : (annal s kind sev obj a0 a1 a2).regsOk := by
  simp only [annal]
  split
  · split
    · apply writeRec_regsOk; exact h
    · exact sset_swf _ _ h
  · exact writeRec_regsOk h ..

/-- The registers that an annals record may change (R367, R369, R370). -/
theorem annal_rget (h : s.regsOk) (kind sev : Nat) (obj : Obj) (a0 a1 a2 : Nat) {b : Nat} (hb : b ∉ annalsRegs) :
    rget (annal s kind sev obj a0 a1 a2) b = rget s b := by
  simp only [annalsRegs, List.mem_cons, List.not_mem_nil, or_false, not_or] at hb
  obtain ⟨h1, h2, h3⟩ := hb
  have key : ∀ t : State, t.regs = s.regs → rget (writeRec t kind sev obj a0 a1 a2) b = rget s b := by
    intro t ht
    have hok : t.regsOk := by rw [State.regsOk, ht]; exact h
    have : rget t b = rget s b := by simp [rget, ht]
    simp only [writeRec]
    split <;> split
    · refine (rget_fset_ne ?_ 1 h3).trans ((rget_fbump_ne ?_ 1 h2).trans ((rget_fset_ne hok _ h1).trans this))
      · exact sset_swf _ _ (sset_swf _ _ hok)
      · exact sset_swf _ _ hok
    · refine (rget_fset_ne ?_ 1 h3).trans ((rget_fset_ne hok _ h1).trans this)
      exact sset_swf _ _ hok
    · refine (rget_fbump_ne ?_ 1 h2).trans ((rget_fset_ne hok _ h1).trans this)
      exact sset_swf _ _ hok
    · exact (rget_fset_ne hok _ h1).trans this
  simp only [annal]
  split
  · split
    · exact key _ rfl
    · exact rget_fbump_ne (s := { s with ann := _ }) h _ h2
  · exact key _ rfl

/-- A field outside the annals registers keeps its value through a record. -/
theorem annal_fget (h : s.regsOk) (kind sev : Nat) (obj : Obj) (a0 a1 a2 : Nat) {f : FieldRef} (hf : f.addr ∉ annalsRegs) :
    fget (annal s kind sev obj a0 a1 a2) f = fget s f := by
  simp only [fget, annal_rget h _ _ _ _ _ _ hf]

@[simp] theorem msix_rget (s : State) (fn : Fn) (v a : Nat) : rget (msix s fn v) a = rget s a := by
  simp only [msix, msixSend]; split
  · rfl
  · split <;> rfl

@[simp] theorem msix_fget (s : State) (fn : Fn) (v : Nat) (f : FieldRef) : fget (msix s fn v) f = fget s f := by
  simp [fget]

@[simp] theorem dmaWrite_rget (s : State) (fn : Fn) (b : Nat) (d : Bytes) (a : Nat) : rget (dmaWrite s fn b d) a = rget s a := by
  simp only [dmaWrite]; split <;> rfl

theorem msix_frame (s : State) (fn : Fn) (v : Nat) : msix s fn v = { s with out := (msix s fn v).out } := by
  simp only [msix, msixSend]; split
  · rfl
  · split <;> rfl

theorem dmaWrite_frame (s : State) (fn : Fn) (a : Nat) (d : Bytes) : dmaWrite s fn a d = { s with out := (dmaWrite s fn a d).out } := by
  simp only [dmaWrite]; split <;> rfl

end Sys2Proof.Machine
end

