-- ==== Sys2Proof/Laws/State.lean ====
section
/-!
SUPPORT. Sys2Proof/Laws/State.lean: what each update of the module leaves alone, field by field and table by table: all by rfl, for simp.
-/
section
open Sys2Proof Sys2Proof.Machine
namespace Sys2Proof.Machine
variable (s : State)

/-! rset -/
@[simp] theorem rset_clk (a : Nat) (v : W64) : (rset s a v).clk = s.clk := rfl
@[simp] theorem rset_ann (a : Nat) (v : W64) : (rset s a v).ann = s.ann := rfl
@[simp] theorem rset_cur (a : Nat) (v : W64) : (rset s a v).cur = s.cur := rfl
@[simp] theorem rset_img (a : Nat) (v : W64) : (rset s a v).img = s.img := rfl
@[simp] theorem rset_arr (a : Nat) (v : W64) : (rset s a v).arr = s.arr := rfl
@[simp] theorem rset_col (a : Nat) (v : W64) : (rset s a v).col = s.col := rfl
@[simp] theorem rset_scr (a : Nat) (v : W64) : (rset s a v).scr = s.scr := rfl
@[simp] theorem rset_run (a : Nat) (v : W64) : (rset s a v).run = s.run := rfl
@[simp] theorem rset_acc (a : Nat) (v : W64) : (rset s a v).acc = s.acc := rfl
@[simp] theorem rset_loans (a : Nat) (v : W64) : (rset s a v).loans = s.loans := rfl
@[simp] theorem rset_kv (a : Nat) (v : W64) : (rset s a v).kv = s.kv := rfl
@[simp] theorem rset_itk (a : Nat) (v : W64) : (rset s a v).itk = s.itk := rfl
@[simp] theorem rset_tsx (a : Nat) (v : W64) : (rset s a v).tsx = s.tsx := rfl
@[simp] theorem rset_orb (a : Nat) (v : W64) : (rset s a v).orb = s.orb := rfl
@[simp] theorem rset_pwr (a : Nat) (v : W64) : (rset s a v).pwr = s.pwr := rfl
@[simp] theorem rset_pst (a : Nat) (v : W64) : (rset s a v).pst = s.pst := rfl
@[simp] theorem rset_con (a : Nat) (v : W64) : (rset s a v).con = s.con := rfl
@[simp] theorem rset_hst (a : Nat) (v : W64) : (rset s a v).hst = s.hst := rfl
@[simp] theorem rset_out (a : Nat) (v : W64) : (rset s a v).out = s.out := rfl
@[simp] theorem rset_free (a : Nat) (v : W64) : (rset s a v).free = s.free := rfl
@[simp] theorem rset_pending (a : Nat) (v : W64) : (rset s a v).pending = s.pending := rfl
/-! fset -/
@[simp] theorem fset_clk (f : FieldRef) (x : Nat) : (fset s f x).clk = s.clk := rfl
@[simp] theorem fset_ann (f : FieldRef) (x : Nat) : (fset s f x).ann = s.ann := rfl
@[simp] theorem fset_cur (f : FieldRef) (x : Nat) : (fset s f x).cur = s.cur := rfl
@[simp] theorem fset_img (f : FieldRef) (x : Nat) : (fset s f x).img = s.img := rfl
@[simp] theorem fset_arr (f : FieldRef) (x : Nat) : (fset s f x).arr = s.arr := rfl
@[simp] theorem fset_col (f : FieldRef) (x : Nat) : (fset s f x).col = s.col := rfl
@[simp] theorem fset_scr (f : FieldRef) (x : Nat) : (fset s f x).scr = s.scr := rfl
@[simp] theorem fset_run (f : FieldRef) (x : Nat) : (fset s f x).run = s.run := rfl
@[simp] theorem fset_acc (f : FieldRef) (x : Nat) : (fset s f x).acc = s.acc := rfl
@[simp] theorem fset_loans (f : FieldRef) (x : Nat) : (fset s f x).loans = s.loans := rfl
@[simp] theorem fset_kv (f : FieldRef) (x : Nat) : (fset s f x).kv = s.kv := rfl
@[simp] theorem fset_itk (f : FieldRef) (x : Nat) : (fset s f x).itk = s.itk := rfl
@[simp] theorem fset_tsx (f : FieldRef) (x : Nat) : (fset s f x).tsx = s.tsx := rfl
@[simp] theorem fset_orb (f : FieldRef) (x : Nat) : (fset s f x).orb = s.orb := rfl
@[simp] theorem fset_pwr (f : FieldRef) (x : Nat) : (fset s f x).pwr = s.pwr := rfl
@[simp] theorem fset_pst (f : FieldRef) (x : Nat) : (fset s f x).pst = s.pst := rfl
@[simp] theorem fset_con (f : FieldRef) (x : Nat) : (fset s f x).con = s.con := rfl
@[simp] theorem fset_hst (f : FieldRef) (x : Nat) : (fset s f x).hst = s.hst := rfl
@[simp] theorem fset_out (f : FieldRef) (x : Nat) : (fset s f x).out = s.out := rfl
@[simp] theorem fset_free (f : FieldRef) (x : Nat) : (fset s f x).free = s.free := rfl
@[simp] theorem fset_pending (f : FieldRef) (x : Nat) : (fset s f x).pending = s.pending := rfl
/-! fbump -/
@[simp] theorem fbump_clk (f : FieldRef) (n : Nat) : (fbump s f n).clk = s.clk := rfl
@[simp] theorem fbump_ann (f : FieldRef) (n : Nat) : (fbump s f n).ann = s.ann := rfl
@[simp] theorem fbump_cur (f : FieldRef) (n : Nat) : (fbump s f n).cur = s.cur := rfl
@[simp] theorem fbump_img (f : FieldRef) (n : Nat) : (fbump s f n).img = s.img := rfl
@[simp] theorem fbump_arr (f : FieldRef) (n : Nat) : (fbump s f n).arr = s.arr := rfl
@[simp] theorem fbump_col (f : FieldRef) (n : Nat) : (fbump s f n).col = s.col := rfl
@[simp] theorem fbump_scr (f : FieldRef) (n : Nat) : (fbump s f n).scr = s.scr := rfl
@[simp] theorem fbump_run (f : FieldRef) (n : Nat) : (fbump s f n).run = s.run := rfl
@[simp] theorem fbump_acc (f : FieldRef) (n : Nat) : (fbump s f n).acc = s.acc := rfl
@[simp] theorem fbump_loans (f : FieldRef) (n : Nat) : (fbump s f n).loans = s.loans := rfl
@[simp] theorem fbump_kv (f : FieldRef) (n : Nat) : (fbump s f n).kv = s.kv := rfl
@[simp] theorem fbump_itk (f : FieldRef) (n : Nat) : (fbump s f n).itk = s.itk := rfl
@[simp] theorem fbump_tsx (f : FieldRef) (n : Nat) : (fbump s f n).tsx = s.tsx := rfl
@[simp] theorem fbump_orb (f : FieldRef) (n : Nat) : (fbump s f n).orb = s.orb := rfl
@[simp] theorem fbump_pwr (f : FieldRef) (n : Nat) : (fbump s f n).pwr = s.pwr := rfl
@[simp] theorem fbump_pst (f : FieldRef) (n : Nat) : (fbump s f n).pst = s.pst := rfl
@[simp] theorem fbump_con (f : FieldRef) (n : Nat) : (fbump s f n).con = s.con := rfl
@[simp] theorem fbump_hst (f : FieldRef) (n : Nat) : (fbump s f n).hst = s.hst := rfl
@[simp] theorem fbump_out (f : FieldRef) (n : Nat) : (fbump s f n).out = s.out := rfl
@[simp] theorem fbump_free (f : FieldRef) (n : Nat) : (fbump s f n).free = s.free := rfl
@[simp] theorem fbump_pending (f : FieldRef) (n : Nat) : (fbump s f n).pending = s.pending := rfl
/-! modCarrel -/
@[simp] theorem modCarrel_regs (n : Nat) (f : CarrelState → CarrelState) : (modCarrel s n f).regs = s.regs := rfl
@[simp] theorem modCarrel_clk (n : Nat) (f : CarrelState → CarrelState) : (modCarrel s n f).clk = s.clk := rfl
@[simp] theorem modCarrel_ann (n : Nat) (f : CarrelState → CarrelState) : (modCarrel s n f).ann = s.ann := rfl
@[simp] theorem modCarrel_cur (n : Nat) (f : CarrelState → CarrelState) : (modCarrel s n f).cur = s.cur := rfl
@[simp] theorem modCarrel_img (n : Nat) (f : CarrelState → CarrelState) : (modCarrel s n f).img = s.img := rfl
@[simp] theorem modCarrel_arr (n : Nat) (f : CarrelState → CarrelState) : (modCarrel s n f).arr = s.arr := rfl
@[simp] theorem modCarrel_col (n : Nat) (f : CarrelState → CarrelState) : (modCarrel s n f).col = s.col := rfl
@[simp] theorem modCarrel_scr (n : Nat) (f : CarrelState → CarrelState) : (modCarrel s n f).scr = s.scr := rfl
@[simp] theorem modCarrel_run (n : Nat) (f : CarrelState → CarrelState) : (modCarrel s n f).run = s.run := rfl
@[simp] theorem modCarrel_acc (n : Nat) (f : CarrelState → CarrelState) : (modCarrel s n f).acc = s.acc := rfl
@[simp] theorem modCarrel_loans (n : Nat) (f : CarrelState → CarrelState) : (modCarrel s n f).loans = s.loans := rfl
@[simp] theorem modCarrel_kv (n : Nat) (f : CarrelState → CarrelState) : (modCarrel s n f).kv = s.kv := rfl
@[simp] theorem modCarrel_tsx (n : Nat) (f : CarrelState → CarrelState) : (modCarrel s n f).tsx = s.tsx := rfl
@[simp] theorem modCarrel_orb (n : Nat) (f : CarrelState → CarrelState) : (modCarrel s n f).orb = s.orb := rfl
@[simp] theorem modCarrel_pwr (n : Nat) (f : CarrelState → CarrelState) : (modCarrel s n f).pwr = s.pwr := rfl
@[simp] theorem modCarrel_pst (n : Nat) (f : CarrelState → CarrelState) : (modCarrel s n f).pst = s.pst := rfl
@[simp] theorem modCarrel_con (n : Nat) (f : CarrelState → CarrelState) : (modCarrel s n f).con = s.con := rfl
@[simp] theorem modCarrel_hst (n : Nat) (f : CarrelState → CarrelState) : (modCarrel s n f).hst = s.hst := rfl
@[simp] theorem modCarrel_out (n : Nat) (f : CarrelState → CarrelState) : (modCarrel s n f).out = s.out := rfl
@[simp] theorem modCarrel_free (n : Nat) (f : CarrelState → CarrelState) : (modCarrel s n f).free = s.free := rfl
@[simp] theorem modCarrel_pending (n : Nat) (f : CarrelState → CarrelState) : (modCarrel s n f).pending = s.pending := rfl
@[simp] theorem modCarrel_rget (n : Nat) (f : CarrelState → CarrelState) (z : Nat) : rget (modCarrel s n f) z = rget s z := rfl
@[simp] theorem modCarrel_fget (n : Nat) (f : CarrelState → CarrelState) (z : FieldRef) : fget (modCarrel s n f) z = fget s z := rfl
/-! modStream -/
@[simp] theorem modStream_regs (c : Nat) (f : Stream → Stream) : (modStream s c f).regs = s.regs := rfl
@[simp] theorem modStream_clk (c : Nat) (f : Stream → Stream) : (modStream s c f).clk = s.clk := rfl
@[simp] theorem modStream_ann (c : Nat) (f : Stream → Stream) : (modStream s c f).ann = s.ann := rfl
@[simp] theorem modStream_cur (c : Nat) (f : Stream → Stream) : (modStream s c f).cur = s.cur := rfl
@[simp] theorem modStream_img (c : Nat) (f : Stream → Stream) : (modStream s c f).img = s.img := rfl
@[simp] theorem modStream_arr (c : Nat) (f : Stream → Stream) : (modStream s c f).arr = s.arr := rfl
@[simp] theorem modStream_col (c : Nat) (f : Stream → Stream) : (modStream s c f).col = s.col := rfl
@[simp] theorem modStream_scr (c : Nat) (f : Stream → Stream) : (modStream s c f).scr = s.scr := rfl
@[simp] theorem modStream_run (c : Nat) (f : Stream → Stream) : (modStream s c f).run = s.run := rfl
@[simp] theorem modStream_acc (c : Nat) (f : Stream → Stream) : (modStream s c f).acc = s.acc := rfl
@[simp] theorem modStream_loans (c : Nat) (f : Stream → Stream) : (modStream s c f).loans = s.loans := rfl
@[simp] theorem modStream_kv (c : Nat) (f : Stream → Stream) : (modStream s c f).kv = s.kv := rfl
@[simp] theorem modStream_tsx (c : Nat) (f : Stream → Stream) : (modStream s c f).tsx = s.tsx := rfl
@[simp] theorem modStream_orb (c : Nat) (f : Stream → Stream) : (modStream s c f).orb = s.orb := rfl
@[simp] theorem modStream_pwr (c : Nat) (f : Stream → Stream) : (modStream s c f).pwr = s.pwr := rfl
@[simp] theorem modStream_pst (c : Nat) (f : Stream → Stream) : (modStream s c f).pst = s.pst := rfl
@[simp] theorem modStream_con (c : Nat) (f : Stream → Stream) : (modStream s c f).con = s.con := rfl
@[simp] theorem modStream_hst (c : Nat) (f : Stream → Stream) : (modStream s c f).hst = s.hst := rfl
@[simp] theorem modStream_out (c : Nat) (f : Stream → Stream) : (modStream s c f).out = s.out := rfl
@[simp] theorem modStream_free (c : Nat) (f : Stream → Stream) : (modStream s c f).free = s.free := rfl
@[simp] theorem modStream_pending (c : Nat) (f : Stream → Stream) : (modStream s c f).pending = s.pending := rfl
@[simp] theorem modStream_rget (c : Nat) (f : Stream → Stream) (z : Nat) : rget (modStream s c f) z = rget s z := rfl
@[simp] theorem modStream_fget (c : Nat) (f : Stream → Stream) (z : FieldRef) : fget (modStream s c f) z = fget s z := rfl
/-! modCmd -/
@[simp] theorem modCmd_regs (c q : Nat) (f : Cmd → Cmd) : (modCmd s c q f).regs = s.regs := rfl
@[simp] theorem modCmd_clk (c q : Nat) (f : Cmd → Cmd) : (modCmd s c q f).clk = s.clk := rfl
@[simp] theorem modCmd_ann (c q : Nat) (f : Cmd → Cmd) : (modCmd s c q f).ann = s.ann := rfl
@[simp] theorem modCmd_cur (c q : Nat) (f : Cmd → Cmd) : (modCmd s c q f).cur = s.cur := rfl
@[simp] theorem modCmd_img (c q : Nat) (f : Cmd → Cmd) : (modCmd s c q f).img = s.img := rfl
@[simp] theorem modCmd_arr (c q : Nat) (f : Cmd → Cmd) : (modCmd s c q f).arr = s.arr := rfl
@[simp] theorem modCmd_col (c q : Nat) (f : Cmd → Cmd) : (modCmd s c q f).col = s.col := rfl
@[simp] theorem modCmd_scr (c q : Nat) (f : Cmd → Cmd) : (modCmd s c q f).scr = s.scr := rfl
@[simp] theorem modCmd_run (c q : Nat) (f : Cmd → Cmd) : (modCmd s c q f).run = s.run := rfl
@[simp] theorem modCmd_acc (c q : Nat) (f : Cmd → Cmd) : (modCmd s c q f).acc = s.acc := rfl
@[simp] theorem modCmd_loans (c q : Nat) (f : Cmd → Cmd) : (modCmd s c q f).loans = s.loans := rfl
@[simp] theorem modCmd_kv (c q : Nat) (f : Cmd → Cmd) : (modCmd s c q f).kv = s.kv := rfl
@[simp] theorem modCmd_tsx (c q : Nat) (f : Cmd → Cmd) : (modCmd s c q f).tsx = s.tsx := rfl
@[simp] theorem modCmd_orb (c q : Nat) (f : Cmd → Cmd) : (modCmd s c q f).orb = s.orb := rfl
@[simp] theorem modCmd_pwr (c q : Nat) (f : Cmd → Cmd) : (modCmd s c q f).pwr = s.pwr := rfl
@[simp] theorem modCmd_pst (c q : Nat) (f : Cmd → Cmd) : (modCmd s c q f).pst = s.pst := rfl
@[simp] theorem modCmd_con (c q : Nat) (f : Cmd → Cmd) : (modCmd s c q f).con = s.con := rfl
@[simp] theorem modCmd_hst (c q : Nat) (f : Cmd → Cmd) : (modCmd s c q f).hst = s.hst := rfl
@[simp] theorem modCmd_out (c q : Nat) (f : Cmd → Cmd) : (modCmd s c q f).out = s.out := rfl
@[simp] theorem modCmd_free (c q : Nat) (f : Cmd → Cmd) : (modCmd s c q f).free = s.free := rfl
@[simp] theorem modCmd_pending (c q : Nat) (f : Cmd → Cmd) : (modCmd s c q f).pending = s.pending := rfl
@[simp] theorem modCmd_rget (c q : Nat) (f : Cmd → Cmd) (z : Nat) : rget (modCmd s c q f) z = rget s z := rfl
@[simp] theorem modCmd_fget (c q : Nat) (f : Cmd → Cmd) (z : FieldRef) : fget (modCmd s c q f) z = fget s z := rfl
/-! finish -/
@[simp] theorem finish_regs (c q st v : Nat) : (finish s c q st v).regs = s.regs := rfl
@[simp] theorem finish_clk (c q st v : Nat) : (finish s c q st v).clk = s.clk := rfl
@[simp] theorem finish_ann (c q st v : Nat) : (finish s c q st v).ann = s.ann := rfl
@[simp] theorem finish_cur (c q st v : Nat) : (finish s c q st v).cur = s.cur := rfl
@[simp] theorem finish_img (c q st v : Nat) : (finish s c q st v).img = s.img := rfl
@[simp] theorem finish_arr (c q st v : Nat) : (finish s c q st v).arr = s.arr := rfl
@[simp] theorem finish_col (c q st v : Nat) : (finish s c q st v).col = s.col := rfl
@[simp] theorem finish_scr (c q st v : Nat) : (finish s c q st v).scr = s.scr := rfl
@[simp] theorem finish_run (c q st v : Nat) : (finish s c q st v).run = s.run := rfl
@[simp] theorem finish_acc (c q st v : Nat) : (finish s c q st v).acc = s.acc := rfl
@[simp] theorem finish_loans (c q st v : Nat) : (finish s c q st v).loans = s.loans := rfl
@[simp] theorem finish_kv (c q st v : Nat) : (finish s c q st v).kv = s.kv := rfl
@[simp] theorem finish_tsx (c q st v : Nat) : (finish s c q st v).tsx = s.tsx := rfl
@[simp] theorem finish_orb (c q st v : Nat) : (finish s c q st v).orb = s.orb := rfl
@[simp] theorem finish_pwr (c q st v : Nat) : (finish s c q st v).pwr = s.pwr := rfl
@[simp] theorem finish_pst (c q st v : Nat) : (finish s c q st v).pst = s.pst := rfl
@[simp] theorem finish_con (c q st v : Nat) : (finish s c q st v).con = s.con := rfl
@[simp] theorem finish_hst (c q st v : Nat) : (finish s c q st v).hst = s.hst := rfl
@[simp] theorem finish_out (c q st v : Nat) : (finish s c q st v).out = s.out := rfl
@[simp] theorem finish_free (c q st v : Nat) : (finish s c q st v).free = s.free := rfl
@[simp] theorem finish_pending (c q st v : Nat) : (finish s c q st v).pending = s.pending := rfl
@[simp] theorem finish_rget (c q st v : Nat) (z : Nat) : rget (finish s c q st v) z = rget s z := rfl
@[simp] theorem finish_fget (c q st v : Nat) (z : FieldRef) : fget (finish s c q st v) z = fget s z := rfl
/-! modAcc -/
@[simp] theorem modAcc_regs (r : Nat) (f : Acc → Acc) : (modAcc s r f).regs = s.regs := rfl
@[simp] theorem modAcc_clk (r : Nat) (f : Acc → Acc) : (modAcc s r f).clk = s.clk := rfl
@[simp] theorem modAcc_ann (r : Nat) (f : Acc → Acc) : (modAcc s r f).ann = s.ann := rfl
@[simp] theorem modAcc_cur (r : Nat) (f : Acc → Acc) : (modAcc s r f).cur = s.cur := rfl
@[simp] theorem modAcc_img (r : Nat) (f : Acc → Acc) : (modAcc s r f).img = s.img := rfl
@[simp] theorem modAcc_arr (r : Nat) (f : Acc → Acc) : (modAcc s r f).arr = s.arr := rfl
@[simp] theorem modAcc_col (r : Nat) (f : Acc → Acc) : (modAcc s r f).col = s.col := rfl
@[simp] theorem modAcc_scr (r : Nat) (f : Acc → Acc) : (modAcc s r f).scr = s.scr := rfl
@[simp] theorem modAcc_run (r : Nat) (f : Acc → Acc) : (modAcc s r f).run = s.run := rfl
@[simp] theorem modAcc_loans (r : Nat) (f : Acc → Acc) : (modAcc s r f).loans = s.loans := rfl
@[simp] theorem modAcc_kv (r : Nat) (f : Acc → Acc) : (modAcc s r f).kv = s.kv := rfl
@[simp] theorem modAcc_itk (r : Nat) (f : Acc → Acc) : (modAcc s r f).itk = s.itk := rfl
@[simp] theorem modAcc_tsx (r : Nat) (f : Acc → Acc) : (modAcc s r f).tsx = s.tsx := rfl
@[simp] theorem modAcc_orb (r : Nat) (f : Acc → Acc) : (modAcc s r f).orb = s.orb := rfl
@[simp] theorem modAcc_pwr (r : Nat) (f : Acc → Acc) : (modAcc s r f).pwr = s.pwr := rfl
@[simp] theorem modAcc_pst (r : Nat) (f : Acc → Acc) : (modAcc s r f).pst = s.pst := rfl
@[simp] theorem modAcc_con (r : Nat) (f : Acc → Acc) : (modAcc s r f).con = s.con := rfl
@[simp] theorem modAcc_hst (r : Nat) (f : Acc → Acc) : (modAcc s r f).hst = s.hst := rfl
@[simp] theorem modAcc_out (r : Nat) (f : Acc → Acc) : (modAcc s r f).out = s.out := rfl
@[simp] theorem modAcc_free (r : Nat) (f : Acc → Acc) : (modAcc s r f).free = s.free := rfl
@[simp] theorem modAcc_pending (r : Nat) (f : Acc → Acc) : (modAcc s r f).pending = s.pending := rfl
@[simp] theorem modAcc_rget (r : Nat) (f : Acc → Acc) (z : Nat) : rget (modAcc s r f) z = rget s z := rfl
@[simp] theorem modAcc_fget (r : Nat) (f : Acc → Acc) (z : FieldRef) : fget (modAcc s r f) z = fget s z := rfl
/-! modPass -/
@[simp] theorem modPass_regs (r : Nat) (f : Pass → Pass) : (modPass s r f).regs = s.regs := rfl
@[simp] theorem modPass_clk (r : Nat) (f : Pass → Pass) : (modPass s r f).clk = s.clk := rfl
@[simp] theorem modPass_ann (r : Nat) (f : Pass → Pass) : (modPass s r f).ann = s.ann := rfl
@[simp] theorem modPass_cur (r : Nat) (f : Pass → Pass) : (modPass s r f).cur = s.cur := rfl
@[simp] theorem modPass_img (r : Nat) (f : Pass → Pass) : (modPass s r f).img = s.img := rfl
@[simp] theorem modPass_arr (r : Nat) (f : Pass → Pass) : (modPass s r f).arr = s.arr := rfl
@[simp] theorem modPass_col (r : Nat) (f : Pass → Pass) : (modPass s r f).col = s.col := rfl
@[simp] theorem modPass_scr (r : Nat) (f : Pass → Pass) : (modPass s r f).scr = s.scr := rfl
@[simp] theorem modPass_acc (r : Nat) (f : Pass → Pass) : (modPass s r f).acc = s.acc := rfl
@[simp] theorem modPass_loans (r : Nat) (f : Pass → Pass) : (modPass s r f).loans = s.loans := rfl
@[simp] theorem modPass_kv (r : Nat) (f : Pass → Pass) : (modPass s r f).kv = s.kv := rfl
@[simp] theorem modPass_itk (r : Nat) (f : Pass → Pass) : (modPass s r f).itk = s.itk := rfl
@[simp] theorem modPass_tsx (r : Nat) (f : Pass → Pass) : (modPass s r f).tsx = s.tsx := rfl
@[simp] theorem modPass_orb (r : Nat) (f : Pass → Pass) : (modPass s r f).orb = s.orb := rfl
@[simp] theorem modPass_pwr (r : Nat) (f : Pass → Pass) : (modPass s r f).pwr = s.pwr := rfl
@[simp] theorem modPass_pst (r : Nat) (f : Pass → Pass) : (modPass s r f).pst = s.pst := rfl
@[simp] theorem modPass_con (r : Nat) (f : Pass → Pass) : (modPass s r f).con = s.con := rfl
@[simp] theorem modPass_hst (r : Nat) (f : Pass → Pass) : (modPass s r f).hst = s.hst := rfl
@[simp] theorem modPass_out (r : Nat) (f : Pass → Pass) : (modPass s r f).out = s.out := rfl
@[simp] theorem modPass_free (r : Nat) (f : Pass → Pass) : (modPass s r f).free = s.free := rfl
@[simp] theorem modPass_pending (r : Nat) (f : Pass → Pass) : (modPass s r f).pending = s.pending := rfl
@[simp] theorem modPass_rget (r : Nat) (f : Pass → Pass) (z : Nat) : rget (modPass s r f) z = rget s z := rfl
@[simp] theorem modPass_fget (r : Nat) (f : Pass → Pass) (z : FieldRef) : fget (modPass s r f) z = fget s z := rfl
/-! modVig -/
@[simp] theorem modVig_regs (r : Nat) (f : Vigilance → Vigilance) : (modVig s r f).regs = s.regs := rfl
@[simp] theorem modVig_clk (r : Nat) (f : Vigilance → Vigilance) : (modVig s r f).clk = s.clk := rfl
@[simp] theorem modVig_ann (r : Nat) (f : Vigilance → Vigilance) : (modVig s r f).ann = s.ann := rfl
@[simp] theorem modVig_cur (r : Nat) (f : Vigilance → Vigilance) : (modVig s r f).cur = s.cur := rfl
@[simp] theorem modVig_img (r : Nat) (f : Vigilance → Vigilance) : (modVig s r f).img = s.img := rfl
@[simp] theorem modVig_arr (r : Nat) (f : Vigilance → Vigilance) : (modVig s r f).arr = s.arr := rfl
@[simp] theorem modVig_col (r : Nat) (f : Vigilance → Vigilance) : (modVig s r f).col = s.col := rfl
@[simp] theorem modVig_scr (r : Nat) (f : Vigilance → Vigilance) : (modVig s r f).scr = s.scr := rfl
@[simp] theorem modVig_acc (r : Nat) (f : Vigilance → Vigilance) : (modVig s r f).acc = s.acc := rfl
@[simp] theorem modVig_loans (r : Nat) (f : Vigilance → Vigilance) : (modVig s r f).loans = s.loans := rfl
@[simp] theorem modVig_kv (r : Nat) (f : Vigilance → Vigilance) : (modVig s r f).kv = s.kv := rfl
@[simp] theorem modVig_itk (r : Nat) (f : Vigilance → Vigilance) : (modVig s r f).itk = s.itk := rfl
@[simp] theorem modVig_tsx (r : Nat) (f : Vigilance → Vigilance) : (modVig s r f).tsx = s.tsx := rfl
@[simp] theorem modVig_orb (r : Nat) (f : Vigilance → Vigilance) : (modVig s r f).orb = s.orb := rfl
@[simp] theorem modVig_pwr (r : Nat) (f : Vigilance → Vigilance) : (modVig s r f).pwr = s.pwr := rfl
@[simp] theorem modVig_pst (r : Nat) (f : Vigilance → Vigilance) : (modVig s r f).pst = s.pst := rfl
@[simp] theorem modVig_con (r : Nat) (f : Vigilance → Vigilance) : (modVig s r f).con = s.con := rfl
@[simp] theorem modVig_hst (r : Nat) (f : Vigilance → Vigilance) : (modVig s r f).hst = s.hst := rfl
@[simp] theorem modVig_out (r : Nat) (f : Vigilance → Vigilance) : (modVig s r f).out = s.out := rfl
@[simp] theorem modVig_free (r : Nat) (f : Vigilance → Vigilance) : (modVig s r f).free = s.free := rfl
@[simp] theorem modVig_pending (r : Nat) (f : Vigilance → Vigilance) : (modVig s r f).pending = s.pending := rfl
@[simp] theorem modVig_rget (r : Nat) (f : Vigilance → Vigilance) (z : Nat) : rget (modVig s r f) z = rget s z := rfl
@[simp] theorem modVig_fget (r : Nat) (f : Vigilance → Vigilance) (z : FieldRef) : fget (modVig s r f) z = fget s z := rfl
/-! modSession -/
@[simp] theorem modSession_regs (h : Nat) (f : Session → Session) : (modSession s h f).regs = s.regs := rfl
@[simp] theorem modSession_clk (h : Nat) (f : Session → Session) : (modSession s h f).clk = s.clk := rfl
@[simp] theorem modSession_ann (h : Nat) (f : Session → Session) : (modSession s h f).ann = s.ann := rfl
@[simp] theorem modSession_cur (h : Nat) (f : Session → Session) : (modSession s h f).cur = s.cur := rfl
@[simp] theorem modSession_img (h : Nat) (f : Session → Session) : (modSession s h f).img = s.img := rfl
@[simp] theorem modSession_arr (h : Nat) (f : Session → Session) : (modSession s h f).arr = s.arr := rfl
@[simp] theorem modSession_col (h : Nat) (f : Session → Session) : (modSession s h f).col = s.col := rfl
@[simp] theorem modSession_scr (h : Nat) (f : Session → Session) : (modSession s h f).scr = s.scr := rfl
@[simp] theorem modSession_run (h : Nat) (f : Session → Session) : (modSession s h f).run = s.run := rfl
@[simp] theorem modSession_acc (h : Nat) (f : Session → Session) : (modSession s h f).acc = s.acc := rfl
@[simp] theorem modSession_loans (h : Nat) (f : Session → Session) : (modSession s h f).loans = s.loans := rfl
@[simp] theorem modSession_itk (h : Nat) (f : Session → Session) : (modSession s h f).itk = s.itk := rfl
@[simp] theorem modSession_tsx (h : Nat) (f : Session → Session) : (modSession s h f).tsx = s.tsx := rfl
@[simp] theorem modSession_orb (h : Nat) (f : Session → Session) : (modSession s h f).orb = s.orb := rfl
@[simp] theorem modSession_pwr (h : Nat) (f : Session → Session) : (modSession s h f).pwr = s.pwr := rfl
@[simp] theorem modSession_pst (h : Nat) (f : Session → Session) : (modSession s h f).pst = s.pst := rfl
@[simp] theorem modSession_con (h : Nat) (f : Session → Session) : (modSession s h f).con = s.con := rfl
@[simp] theorem modSession_hst (h : Nat) (f : Session → Session) : (modSession s h f).hst = s.hst := rfl
@[simp] theorem modSession_out (h : Nat) (f : Session → Session) : (modSession s h f).out = s.out := rfl
@[simp] theorem modSession_free (h : Nat) (f : Session → Session) : (modSession s h f).free = s.free := rfl
@[simp] theorem modSession_pending (h : Nat) (f : Session → Session) : (modSession s h f).pending = s.pending := rfl
@[simp] theorem modSession_rget (h : Nat) (f : Session → Session) (z : Nat) : rget (modSession s h f) z = rget s z := rfl
@[simp] theorem modSession_fget (h : Nat) (f : Session → Session) (z : FieldRef) : fget (modSession s h f) z = fget s z := rfl
/-! modPage -/
@[simp] theorem modPage_regs (h i : Nat) (f : Page → Page) : (modPage s h i f).regs = s.regs := rfl
@[simp] theorem modPage_clk (h i : Nat) (f : Page → Page) : (modPage s h i f).clk = s.clk := rfl
@[simp] theorem modPage_ann (h i : Nat) (f : Page → Page) : (modPage s h i f).ann = s.ann := rfl
@[simp] theorem modPage_cur (h i : Nat) (f : Page → Page) : (modPage s h i f).cur = s.cur := rfl
@[simp] theorem modPage_img (h i : Nat) (f : Page → Page) : (modPage s h i f).img = s.img := rfl
@[simp] theorem modPage_arr (h i : Nat) (f : Page → Page) : (modPage s h i f).arr = s.arr := rfl
@[simp] theorem modPage_col (h i : Nat) (f : Page → Page) : (modPage s h i f).col = s.col := rfl
@[simp] theorem modPage_scr (h i : Nat) (f : Page → Page) : (modPage s h i f).scr = s.scr := rfl
@[simp] theorem modPage_run (h i : Nat) (f : Page → Page) : (modPage s h i f).run = s.run := rfl
@[simp] theorem modPage_acc (h i : Nat) (f : Page → Page) : (modPage s h i f).acc = s.acc := rfl
@[simp] theorem modPage_loans (h i : Nat) (f : Page → Page) : (modPage s h i f).loans = s.loans := rfl
@[simp] theorem modPage_itk (h i : Nat) (f : Page → Page) : (modPage s h i f).itk = s.itk := rfl
@[simp] theorem modPage_tsx (h i : Nat) (f : Page → Page) : (modPage s h i f).tsx = s.tsx := rfl
@[simp] theorem modPage_orb (h i : Nat) (f : Page → Page) : (modPage s h i f).orb = s.orb := rfl
@[simp] theorem modPage_pwr (h i : Nat) (f : Page → Page) : (modPage s h i f).pwr = s.pwr := rfl
@[simp] theorem modPage_pst (h i : Nat) (f : Page → Page) : (modPage s h i f).pst = s.pst := rfl
@[simp] theorem modPage_con (h i : Nat) (f : Page → Page) : (modPage s h i f).con = s.con := rfl
@[simp] theorem modPage_hst (h i : Nat) (f : Page → Page) : (modPage s h i f).hst = s.hst := rfl
@[simp] theorem modPage_out (h i : Nat) (f : Page → Page) : (modPage s h i f).out = s.out := rfl
@[simp] theorem modPage_free (h i : Nat) (f : Page → Page) : (modPage s h i f).free = s.free := rfl
@[simp] theorem modPage_pending (h i : Nat) (f : Page → Page) : (modPage s h i f).pending = s.pending := rfl
@[simp] theorem modPage_rget (h i : Nat) (f : Page → Page) (z : Nat) : rget (modPage s h i f) z = rget s z := rfl
@[simp] theorem modPage_fget (h i : Nat) (f : Page → Page) (z : FieldRef) : fget (modPage s h i f) z = fget s z := rfl
/-! modFolio -/
@[simp] theorem modFolio_regs (k : Nat) (f : Folio → Folio) : (modFolio s k f).regs = s.regs := rfl
@[simp] theorem modFolio_clk (k : Nat) (f : Folio → Folio) : (modFolio s k f).clk = s.clk := rfl
@[simp] theorem modFolio_ann (k : Nat) (f : Folio → Folio) : (modFolio s k f).ann = s.ann := rfl
@[simp] theorem modFolio_cur (k : Nat) (f : Folio → Folio) : (modFolio s k f).cur = s.cur := rfl
@[simp] theorem modFolio_img (k : Nat) (f : Folio → Folio) : (modFolio s k f).img = s.img := rfl
@[simp] theorem modFolio_col (k : Nat) (f : Folio → Folio) : (modFolio s k f).col = s.col := rfl
@[simp] theorem modFolio_scr (k : Nat) (f : Folio → Folio) : (modFolio s k f).scr = s.scr := rfl
@[simp] theorem modFolio_run (k : Nat) (f : Folio → Folio) : (modFolio s k f).run = s.run := rfl
@[simp] theorem modFolio_acc (k : Nat) (f : Folio → Folio) : (modFolio s k f).acc = s.acc := rfl
@[simp] theorem modFolio_loans (k : Nat) (f : Folio → Folio) : (modFolio s k f).loans = s.loans := rfl
@[simp] theorem modFolio_kv (k : Nat) (f : Folio → Folio) : (modFolio s k f).kv = s.kv := rfl
@[simp] theorem modFolio_itk (k : Nat) (f : Folio → Folio) : (modFolio s k f).itk = s.itk := rfl
@[simp] theorem modFolio_tsx (k : Nat) (f : Folio → Folio) : (modFolio s k f).tsx = s.tsx := rfl
@[simp] theorem modFolio_orb (k : Nat) (f : Folio → Folio) : (modFolio s k f).orb = s.orb := rfl
@[simp] theorem modFolio_pwr (k : Nat) (f : Folio → Folio) : (modFolio s k f).pwr = s.pwr := rfl
@[simp] theorem modFolio_pst (k : Nat) (f : Folio → Folio) : (modFolio s k f).pst = s.pst := rfl
@[simp] theorem modFolio_con (k : Nat) (f : Folio → Folio) : (modFolio s k f).con = s.con := rfl
@[simp] theorem modFolio_hst (k : Nat) (f : Folio → Folio) : (modFolio s k f).hst = s.hst := rfl
@[simp] theorem modFolio_out (k : Nat) (f : Folio → Folio) : (modFolio s k f).out = s.out := rfl
@[simp] theorem modFolio_free (k : Nat) (f : Folio → Folio) : (modFolio s k f).free = s.free := rfl
@[simp] theorem modFolio_pending (k : Nat) (f : Folio → Folio) : (modFolio s k f).pending = s.pending := rfl
@[simp] theorem modFolio_rget (k : Nat) (f : Folio → Folio) (z : Nat) : rget (modFolio s k f) z = rget s z := rfl
@[simp] theorem modFolio_fget (k : Nat) (f : Folio → Folio) (z : FieldRef) : fget (modFolio s k f) z = fget s z := rfl
/-! modLedger -/
@[simp] theorem modLedger_regs (x c : Nat) (f : Ledger → Ledger) : (modLedger s x c f).regs = s.regs := rfl
@[simp] theorem modLedger_clk (x c : Nat) (f : Ledger → Ledger) : (modLedger s x c f).clk = s.clk := rfl
@[simp] theorem modLedger_ann (x c : Nat) (f : Ledger → Ledger) : (modLedger s x c f).ann = s.ann := rfl
@[simp] theorem modLedger_cur (x c : Nat) (f : Ledger → Ledger) : (modLedger s x c f).cur = s.cur := rfl
@[simp] theorem modLedger_img (x c : Nat) (f : Ledger → Ledger) : (modLedger s x c f).img = s.img := rfl
@[simp] theorem modLedger_col (x c : Nat) (f : Ledger → Ledger) : (modLedger s x c f).col = s.col := rfl
@[simp] theorem modLedger_scr (x c : Nat) (f : Ledger → Ledger) : (modLedger s x c f).scr = s.scr := rfl
@[simp] theorem modLedger_run (x c : Nat) (f : Ledger → Ledger) : (modLedger s x c f).run = s.run := rfl
@[simp] theorem modLedger_acc (x c : Nat) (f : Ledger → Ledger) : (modLedger s x c f).acc = s.acc := rfl
@[simp] theorem modLedger_loans (x c : Nat) (f : Ledger → Ledger) : (modLedger s x c f).loans = s.loans := rfl
@[simp] theorem modLedger_kv (x c : Nat) (f : Ledger → Ledger) : (modLedger s x c f).kv = s.kv := rfl
@[simp] theorem modLedger_itk (x c : Nat) (f : Ledger → Ledger) : (modLedger s x c f).itk = s.itk := rfl
@[simp] theorem modLedger_tsx (x c : Nat) (f : Ledger → Ledger) : (modLedger s x c f).tsx = s.tsx := rfl
@[simp] theorem modLedger_orb (x c : Nat) (f : Ledger → Ledger) : (modLedger s x c f).orb = s.orb := rfl
@[simp] theorem modLedger_pwr (x c : Nat) (f : Ledger → Ledger) : (modLedger s x c f).pwr = s.pwr := rfl
@[simp] theorem modLedger_pst (x c : Nat) (f : Ledger → Ledger) : (modLedger s x c f).pst = s.pst := rfl
@[simp] theorem modLedger_con (x c : Nat) (f : Ledger → Ledger) : (modLedger s x c f).con = s.con := rfl
@[simp] theorem modLedger_hst (x c : Nat) (f : Ledger → Ledger) : (modLedger s x c f).hst = s.hst := rfl
@[simp] theorem modLedger_out (x c : Nat) (f : Ledger → Ledger) : (modLedger s x c f).out = s.out := rfl
@[simp] theorem modLedger_free (x c : Nat) (f : Ledger → Ledger) : (modLedger s x c f).free = s.free := rfl
@[simp] theorem modLedger_pending (x c : Nat) (f : Ledger → Ledger) : (modLedger s x c f).pending = s.pending := rfl
@[simp] theorem modLedger_rget (x c : Nat) (f : Ledger → Ledger) (z : Nat) : rget (modLedger s x c f) z = rget s z := rfl
@[simp] theorem modLedger_fget (x c : Nat) (f : Ledger → Ledger) (z : FieldRef) : fget (modLedger s x c f) z = fget s z := rfl
/-! modGain -/
@[simp] theorem modGain_regs (x c : Nat) (f : ChainGain → ChainGain) : (modGain s x c f).regs = s.regs := rfl
@[simp] theorem modGain_clk (x c : Nat) (f : ChainGain → ChainGain) : (modGain s x c f).clk = s.clk := rfl
@[simp] theorem modGain_ann (x c : Nat) (f : ChainGain → ChainGain) : (modGain s x c f).ann = s.ann := rfl
@[simp] theorem modGain_cur (x c : Nat) (f : ChainGain → ChainGain) : (modGain s x c f).cur = s.cur := rfl
@[simp] theorem modGain_img (x c : Nat) (f : ChainGain → ChainGain) : (modGain s x c f).img = s.img := rfl
@[simp] theorem modGain_arr (x c : Nat) (f : ChainGain → ChainGain) : (modGain s x c f).arr = s.arr := rfl
@[simp] theorem modGain_scr (x c : Nat) (f : ChainGain → ChainGain) : (modGain s x c f).scr = s.scr := rfl
@[simp] theorem modGain_run (x c : Nat) (f : ChainGain → ChainGain) : (modGain s x c f).run = s.run := rfl
@[simp] theorem modGain_acc (x c : Nat) (f : ChainGain → ChainGain) : (modGain s x c f).acc = s.acc := rfl
@[simp] theorem modGain_loans (x c : Nat) (f : ChainGain → ChainGain) : (modGain s x c f).loans = s.loans := rfl
@[simp] theorem modGain_kv (x c : Nat) (f : ChainGain → ChainGain) : (modGain s x c f).kv = s.kv := rfl
@[simp] theorem modGain_itk (x c : Nat) (f : ChainGain → ChainGain) : (modGain s x c f).itk = s.itk := rfl
@[simp] theorem modGain_tsx (x c : Nat) (f : ChainGain → ChainGain) : (modGain s x c f).tsx = s.tsx := rfl
@[simp] theorem modGain_orb (x c : Nat) (f : ChainGain → ChainGain) : (modGain s x c f).orb = s.orb := rfl
@[simp] theorem modGain_pwr (x c : Nat) (f : ChainGain → ChainGain) : (modGain s x c f).pwr = s.pwr := rfl
@[simp] theorem modGain_pst (x c : Nat) (f : ChainGain → ChainGain) : (modGain s x c f).pst = s.pst := rfl
@[simp] theorem modGain_con (x c : Nat) (f : ChainGain → ChainGain) : (modGain s x c f).con = s.con := rfl
@[simp] theorem modGain_hst (x c : Nat) (f : ChainGain → ChainGain) : (modGain s x c f).hst = s.hst := rfl
@[simp] theorem modGain_out (x c : Nat) (f : ChainGain → ChainGain) : (modGain s x c f).out = s.out := rfl
@[simp] theorem modGain_free (x c : Nat) (f : ChainGain → ChainGain) : (modGain s x c f).free = s.free := rfl
@[simp] theorem modGain_pending (x c : Nat) (f : ChainGain → ChainGain) : (modGain s x c f).pending = s.pending := rfl
@[simp] theorem modGain_rget (x c : Nat) (f : ChainGain → ChainGain) (z : Nat) : rget (modGain s x c f) z = rget s z := rfl
@[simp] theorem modGain_fget (x c : Nat) (f : ChainGain → ChainGain) (z : FieldRef) : fget (modGain s x c f) z = fget s z := rfl
/-! modScribe -/
@[simp] theorem modScribe_regs (x : Nat) (f : Scribe → Scribe) : (modScribe s x f).regs = s.regs := rfl
@[simp] theorem modScribe_clk (x : Nat) (f : Scribe → Scribe) : (modScribe s x f).clk = s.clk := rfl
@[simp] theorem modScribe_ann (x : Nat) (f : Scribe → Scribe) : (modScribe s x f).ann = s.ann := rfl
@[simp] theorem modScribe_cur (x : Nat) (f : Scribe → Scribe) : (modScribe s x f).cur = s.cur := rfl
@[simp] theorem modScribe_img (x : Nat) (f : Scribe → Scribe) : (modScribe s x f).img = s.img := rfl
@[simp] theorem modScribe_arr (x : Nat) (f : Scribe → Scribe) : (modScribe s x f).arr = s.arr := rfl
@[simp] theorem modScribe_col (x : Nat) (f : Scribe → Scribe) : (modScribe s x f).col = s.col := rfl
@[simp] theorem modScribe_run (x : Nat) (f : Scribe → Scribe) : (modScribe s x f).run = s.run := rfl
@[simp] theorem modScribe_acc (x : Nat) (f : Scribe → Scribe) : (modScribe s x f).acc = s.acc := rfl
@[simp] theorem modScribe_loans (x : Nat) (f : Scribe → Scribe) : (modScribe s x f).loans = s.loans := rfl
@[simp] theorem modScribe_kv (x : Nat) (f : Scribe → Scribe) : (modScribe s x f).kv = s.kv := rfl
@[simp] theorem modScribe_itk (x : Nat) (f : Scribe → Scribe) : (modScribe s x f).itk = s.itk := rfl
@[simp] theorem modScribe_tsx (x : Nat) (f : Scribe → Scribe) : (modScribe s x f).tsx = s.tsx := rfl
@[simp] theorem modScribe_orb (x : Nat) (f : Scribe → Scribe) : (modScribe s x f).orb = s.orb := rfl
@[simp] theorem modScribe_pwr (x : Nat) (f : Scribe → Scribe) : (modScribe s x f).pwr = s.pwr := rfl
@[simp] theorem modScribe_pst (x : Nat) (f : Scribe → Scribe) : (modScribe s x f).pst = s.pst := rfl
@[simp] theorem modScribe_con (x : Nat) (f : Scribe → Scribe) : (modScribe s x f).con = s.con := rfl
@[simp] theorem modScribe_hst (x : Nat) (f : Scribe → Scribe) : (modScribe s x f).hst = s.hst := rfl
@[simp] theorem modScribe_out (x : Nat) (f : Scribe → Scribe) : (modScribe s x f).out = s.out := rfl
@[simp] theorem modScribe_free (x : Nat) (f : Scribe → Scribe) : (modScribe s x f).free = s.free := rfl
@[simp] theorem modScribe_pending (x : Nat) (f : Scribe → Scribe) : (modScribe s x f).pending = s.pending := rfl
@[simp] theorem modScribe_rget (x : Nat) (f : Scribe → Scribe) (z : Nat) : rget (modScribe s x f) z = rget s z := rfl
@[simp] theorem modScribe_fget (x : Nat) (f : Scribe → Scribe) (z : FieldRef) : fget (modScribe s x f) z = fget s z := rfl
/-! modTile -/
@[simp] theorem modTile_regs (x n : Nat) (f : Tile → Tile) : (modTile s x n f).regs = s.regs := rfl
@[simp] theorem modTile_clk (x n : Nat) (f : Tile → Tile) : (modTile s x n f).clk = s.clk := rfl
@[simp] theorem modTile_ann (x n : Nat) (f : Tile → Tile) : (modTile s x n f).ann = s.ann := rfl
@[simp] theorem modTile_cur (x n : Nat) (f : Tile → Tile) : (modTile s x n f).cur = s.cur := rfl
@[simp] theorem modTile_img (x n : Nat) (f : Tile → Tile) : (modTile s x n f).img = s.img := rfl
@[simp] theorem modTile_arr (x n : Nat) (f : Tile → Tile) : (modTile s x n f).arr = s.arr := rfl
@[simp] theorem modTile_col (x n : Nat) (f : Tile → Tile) : (modTile s x n f).col = s.col := rfl
@[simp] theorem modTile_run (x n : Nat) (f : Tile → Tile) : (modTile s x n f).run = s.run := rfl
@[simp] theorem modTile_acc (x n : Nat) (f : Tile → Tile) : (modTile s x n f).acc = s.acc := rfl
@[simp] theorem modTile_loans (x n : Nat) (f : Tile → Tile) : (modTile s x n f).loans = s.loans := rfl
@[simp] theorem modTile_kv (x n : Nat) (f : Tile → Tile) : (modTile s x n f).kv = s.kv := rfl
@[simp] theorem modTile_itk (x n : Nat) (f : Tile → Tile) : (modTile s x n f).itk = s.itk := rfl
@[simp] theorem modTile_tsx (x n : Nat) (f : Tile → Tile) : (modTile s x n f).tsx = s.tsx := rfl
@[simp] theorem modTile_orb (x n : Nat) (f : Tile → Tile) : (modTile s x n f).orb = s.orb := rfl
@[simp] theorem modTile_pwr (x n : Nat) (f : Tile → Tile) : (modTile s x n f).pwr = s.pwr := rfl
@[simp] theorem modTile_pst (x n : Nat) (f : Tile → Tile) : (modTile s x n f).pst = s.pst := rfl
@[simp] theorem modTile_con (x n : Nat) (f : Tile → Tile) : (modTile s x n f).con = s.con := rfl
@[simp] theorem modTile_hst (x n : Nat) (f : Tile → Tile) : (modTile s x n f).hst = s.hst := rfl
@[simp] theorem modTile_out (x n : Nat) (f : Tile → Tile) : (modTile s x n f).out = s.out := rfl
@[simp] theorem modTile_free (x n : Nat) (f : Tile → Tile) : (modTile s x n f).free = s.free := rfl
@[simp] theorem modTile_pending (x n : Nat) (f : Tile → Tile) : (modTile s x n f).pending = s.pending := rfl
@[simp] theorem modTile_rget (x n : Nat) (f : Tile → Tile) (z : Nat) : rget (modTile s x n f) z = rget s z := rfl
@[simp] theorem modTile_fget (x n : Nat) (f : Tile → Tile) (z : FieldRef) : fget (modTile s x n f) z = fget s z := rfl
/-! modHall -/
@[simp] theorem modHall_regs (h : Nat) (f : HallPower → HallPower) : (modHall s h f).regs = s.regs := rfl
@[simp] theorem modHall_clk (h : Nat) (f : HallPower → HallPower) : (modHall s h f).clk = s.clk := rfl
@[simp] theorem modHall_ann (h : Nat) (f : HallPower → HallPower) : (modHall s h f).ann = s.ann := rfl
@[simp] theorem modHall_cur (h : Nat) (f : HallPower → HallPower) : (modHall s h f).cur = s.cur := rfl
@[simp] theorem modHall_img (h : Nat) (f : HallPower → HallPower) : (modHall s h f).img = s.img := rfl
@[simp] theorem modHall_arr (h : Nat) (f : HallPower → HallPower) : (modHall s h f).arr = s.arr := rfl
@[simp] theorem modHall_col (h : Nat) (f : HallPower → HallPower) : (modHall s h f).col = s.col := rfl
@[simp] theorem modHall_scr (h : Nat) (f : HallPower → HallPower) : (modHall s h f).scr = s.scr := rfl
@[simp] theorem modHall_run (h : Nat) (f : HallPower → HallPower) : (modHall s h f).run = s.run := rfl
@[simp] theorem modHall_acc (h : Nat) (f : HallPower → HallPower) : (modHall s h f).acc = s.acc := rfl
@[simp] theorem modHall_loans (h : Nat) (f : HallPower → HallPower) : (modHall s h f).loans = s.loans := rfl
@[simp] theorem modHall_kv (h : Nat) (f : HallPower → HallPower) : (modHall s h f).kv = s.kv := rfl
@[simp] theorem modHall_itk (h : Nat) (f : HallPower → HallPower) : (modHall s h f).itk = s.itk := rfl
@[simp] theorem modHall_tsx (h : Nat) (f : HallPower → HallPower) : (modHall s h f).tsx = s.tsx := rfl
@[simp] theorem modHall_orb (h : Nat) (f : HallPower → HallPower) : (modHall s h f).orb = s.orb := rfl
@[simp] theorem modHall_pst (h : Nat) (f : HallPower → HallPower) : (modHall s h f).pst = s.pst := rfl
@[simp] theorem modHall_con (h : Nat) (f : HallPower → HallPower) : (modHall s h f).con = s.con := rfl
@[simp] theorem modHall_hst (h : Nat) (f : HallPower → HallPower) : (modHall s h f).hst = s.hst := rfl
@[simp] theorem modHall_out (h : Nat) (f : HallPower → HallPower) : (modHall s h f).out = s.out := rfl
@[simp] theorem modHall_free (h : Nat) (f : HallPower → HallPower) : (modHall s h f).free = s.free := rfl
@[simp] theorem modHall_pending (h : Nat) (f : HallPower → HallPower) : (modHall s h f).pending = s.pending := rfl
@[simp] theorem modHall_rget (h : Nat) (f : HallPower → HallPower) (z : Nat) : rget (modHall s h f) z = rget s z := rfl
@[simp] theorem modHall_fget (h : Nat) (f : HallPower → HallPower) (z : FieldRef) : fget (modHall s h f) z = fget s z := rfl
/-! modPort -/
@[simp] theorem modPort_regs (n : Nat) (f : Port → Port) : (modPort s n f).regs = s.regs := rfl
@[simp] theorem modPort_clk (n : Nat) (f : Port → Port) : (modPort s n f).clk = s.clk := rfl
@[simp] theorem modPort_ann (n : Nat) (f : Port → Port) : (modPort s n f).ann = s.ann := rfl
@[simp] theorem modPort_cur (n : Nat) (f : Port → Port) : (modPort s n f).cur = s.cur := rfl
@[simp] theorem modPort_img (n : Nat) (f : Port → Port) : (modPort s n f).img = s.img := rfl
@[simp] theorem modPort_arr (n : Nat) (f : Port → Port) : (modPort s n f).arr = s.arr := rfl
@[simp] theorem modPort_col (n : Nat) (f : Port → Port) : (modPort s n f).col = s.col := rfl
@[simp] theorem modPort_scr (n : Nat) (f : Port → Port) : (modPort s n f).scr = s.scr := rfl
@[simp] theorem modPort_run (n : Nat) (f : Port → Port) : (modPort s n f).run = s.run := rfl
@[simp] theorem modPort_acc (n : Nat) (f : Port → Port) : (modPort s n f).acc = s.acc := rfl
@[simp] theorem modPort_loans (n : Nat) (f : Port → Port) : (modPort s n f).loans = s.loans := rfl
@[simp] theorem modPort_kv (n : Nat) (f : Port → Port) : (modPort s n f).kv = s.kv := rfl
@[simp] theorem modPort_itk (n : Nat) (f : Port → Port) : (modPort s n f).itk = s.itk := rfl
@[simp] theorem modPort_orb (n : Nat) (f : Port → Port) : (modPort s n f).orb = s.orb := rfl
@[simp] theorem modPort_pwr (n : Nat) (f : Port → Port) : (modPort s n f).pwr = s.pwr := rfl
@[simp] theorem modPort_pst (n : Nat) (f : Port → Port) : (modPort s n f).pst = s.pst := rfl
@[simp] theorem modPort_con (n : Nat) (f : Port → Port) : (modPort s n f).con = s.con := rfl
@[simp] theorem modPort_hst (n : Nat) (f : Port → Port) : (modPort s n f).hst = s.hst := rfl
@[simp] theorem modPort_out (n : Nat) (f : Port → Port) : (modPort s n f).out = s.out := rfl
@[simp] theorem modPort_free (n : Nat) (f : Port → Port) : (modPort s n f).free = s.free := rfl
@[simp] theorem modPort_pending (n : Nat) (f : Port → Port) : (modPort s n f).pending = s.pending := rfl
@[simp] theorem modPort_rget (n : Nat) (f : Port → Port) (z : Nat) : rget (modPort s n f) z = rget s z := rfl
@[simp] theorem modPort_fget (n : Nat) (f : Port → Port) (z : FieldRef) : fget (modPort s n f) z = fget s z := rfl
/-! modLoan -/
@[simp] theorem modLoan_regs (c a : Nat) (f : Loan → Loan) : (modLoan s c a f).regs = s.regs := rfl
@[simp] theorem modLoan_clk (c a : Nat) (f : Loan → Loan) : (modLoan s c a f).clk = s.clk := rfl
@[simp] theorem modLoan_ann (c a : Nat) (f : Loan → Loan) : (modLoan s c a f).ann = s.ann := rfl
@[simp] theorem modLoan_cur (c a : Nat) (f : Loan → Loan) : (modLoan s c a f).cur = s.cur := rfl
@[simp] theorem modLoan_img (c a : Nat) (f : Loan → Loan) : (modLoan s c a f).img = s.img := rfl
@[simp] theorem modLoan_arr (c a : Nat) (f : Loan → Loan) : (modLoan s c a f).arr = s.arr := rfl
@[simp] theorem modLoan_col (c a : Nat) (f : Loan → Loan) : (modLoan s c a f).col = s.col := rfl
@[simp] theorem modLoan_scr (c a : Nat) (f : Loan → Loan) : (modLoan s c a f).scr = s.scr := rfl
@[simp] theorem modLoan_run (c a : Nat) (f : Loan → Loan) : (modLoan s c a f).run = s.run := rfl
@[simp] theorem modLoan_acc (c a : Nat) (f : Loan → Loan) : (modLoan s c a f).acc = s.acc := rfl
@[simp] theorem modLoan_kv (c a : Nat) (f : Loan → Loan) : (modLoan s c a f).kv = s.kv := rfl
@[simp] theorem modLoan_itk (c a : Nat) (f : Loan → Loan) : (modLoan s c a f).itk = s.itk := rfl
@[simp] theorem modLoan_tsx (c a : Nat) (f : Loan → Loan) : (modLoan s c a f).tsx = s.tsx := rfl
@[simp] theorem modLoan_orb (c a : Nat) (f : Loan → Loan) : (modLoan s c a f).orb = s.orb := rfl
@[simp] theorem modLoan_pwr (c a : Nat) (f : Loan → Loan) : (modLoan s c a f).pwr = s.pwr := rfl
@[simp] theorem modLoan_pst (c a : Nat) (f : Loan → Loan) : (modLoan s c a f).pst = s.pst := rfl
@[simp] theorem modLoan_con (c a : Nat) (f : Loan → Loan) : (modLoan s c a f).con = s.con := rfl
@[simp] theorem modLoan_hst (c a : Nat) (f : Loan → Loan) : (modLoan s c a f).hst = s.hst := rfl
@[simp] theorem modLoan_out (c a : Nat) (f : Loan → Loan) : (modLoan s c a f).out = s.out := rfl
@[simp] theorem modLoan_free (c a : Nat) (f : Loan → Loan) : (modLoan s c a f).free = s.free := rfl
@[simp] theorem modLoan_pending (c a : Nat) (f : Loan → Loan) : (modLoan s c a f).pending = s.pending := rfl
@[simp] theorem modLoan_rget (c a : Nat) (f : Loan → Loan) (z : Nat) : rget (modLoan s c a f) z = rget s z := rfl
@[simp] theorem modLoan_fget (c a : Nat) (f : Loan → Loan) (z : FieldRef) : fget (modLoan s c a f) z = fget s z := rfl
/-! modOrb -/
@[simp] theorem modOrb_regs (i r : Nat) (f : OrbPass → OrbPass) : (modOrb s i r f).regs = s.regs := rfl
@[simp] theorem modOrb_clk (i r : Nat) (f : OrbPass → OrbPass) : (modOrb s i r f).clk = s.clk := rfl
@[simp] theorem modOrb_ann (i r : Nat) (f : OrbPass → OrbPass) : (modOrb s i r f).ann = s.ann := rfl
@[simp] theorem modOrb_cur (i r : Nat) (f : OrbPass → OrbPass) : (modOrb s i r f).cur = s.cur := rfl
@[simp] theorem modOrb_img (i r : Nat) (f : OrbPass → OrbPass) : (modOrb s i r f).img = s.img := rfl
@[simp] theorem modOrb_arr (i r : Nat) (f : OrbPass → OrbPass) : (modOrb s i r f).arr = s.arr := rfl
@[simp] theorem modOrb_col (i r : Nat) (f : OrbPass → OrbPass) : (modOrb s i r f).col = s.col := rfl
@[simp] theorem modOrb_scr (i r : Nat) (f : OrbPass → OrbPass) : (modOrb s i r f).scr = s.scr := rfl
@[simp] theorem modOrb_run (i r : Nat) (f : OrbPass → OrbPass) : (modOrb s i r f).run = s.run := rfl
@[simp] theorem modOrb_acc (i r : Nat) (f : OrbPass → OrbPass) : (modOrb s i r f).acc = s.acc := rfl
@[simp] theorem modOrb_loans (i r : Nat) (f : OrbPass → OrbPass) : (modOrb s i r f).loans = s.loans := rfl
@[simp] theorem modOrb_kv (i r : Nat) (f : OrbPass → OrbPass) : (modOrb s i r f).kv = s.kv := rfl
@[simp] theorem modOrb_itk (i r : Nat) (f : OrbPass → OrbPass) : (modOrb s i r f).itk = s.itk := rfl
@[simp] theorem modOrb_tsx (i r : Nat) (f : OrbPass → OrbPass) : (modOrb s i r f).tsx = s.tsx := rfl
@[simp] theorem modOrb_pwr (i r : Nat) (f : OrbPass → OrbPass) : (modOrb s i r f).pwr = s.pwr := rfl
@[simp] theorem modOrb_pst (i r : Nat) (f : OrbPass → OrbPass) : (modOrb s i r f).pst = s.pst := rfl
@[simp] theorem modOrb_con (i r : Nat) (f : OrbPass → OrbPass) : (modOrb s i r f).con = s.con := rfl
@[simp] theorem modOrb_hst (i r : Nat) (f : OrbPass → OrbPass) : (modOrb s i r f).hst = s.hst := rfl
@[simp] theorem modOrb_out (i r : Nat) (f : OrbPass → OrbPass) : (modOrb s i r f).out = s.out := rfl
@[simp] theorem modOrb_free (i r : Nat) (f : OrbPass → OrbPass) : (modOrb s i r f).free = s.free := rfl
@[simp] theorem modOrb_pending (i r : Nat) (f : OrbPass → OrbPass) : (modOrb s i r f).pending = s.pending := rfl
@[simp] theorem modOrb_rget (i r : Nat) (f : OrbPass → OrbPass) (z : Nat) : rget (modOrb s i r f) z = rget s z := rfl
@[simp] theorem modOrb_fget (i r : Nat) (f : OrbPass → OrbPass) (z : FieldRef) : fget (modOrb s i r f) z = fget s z := rfl
/-! modConv -/
@[simp] theorem modConv_regs (d : Nat) (f : Converter → Converter) : (modConv s d f).regs = s.regs := rfl
@[simp] theorem modConv_clk (d : Nat) (f : Converter → Converter) : (modConv s d f).clk = s.clk := rfl
@[simp] theorem modConv_ann (d : Nat) (f : Converter → Converter) : (modConv s d f).ann = s.ann := rfl
@[simp] theorem modConv_img (d : Nat) (f : Converter → Converter) : (modConv s d f).img = s.img := rfl
@[simp] theorem modConv_arr (d : Nat) (f : Converter → Converter) : (modConv s d f).arr = s.arr := rfl
@[simp] theorem modConv_col (d : Nat) (f : Converter → Converter) : (modConv s d f).col = s.col := rfl
@[simp] theorem modConv_scr (d : Nat) (f : Converter → Converter) : (modConv s d f).scr = s.scr := rfl
@[simp] theorem modConv_run (d : Nat) (f : Converter → Converter) : (modConv s d f).run = s.run := rfl
@[simp] theorem modConv_acc (d : Nat) (f : Converter → Converter) : (modConv s d f).acc = s.acc := rfl
@[simp] theorem modConv_loans (d : Nat) (f : Converter → Converter) : (modConv s d f).loans = s.loans := rfl
@[simp] theorem modConv_kv (d : Nat) (f : Converter → Converter) : (modConv s d f).kv = s.kv := rfl
@[simp] theorem modConv_itk (d : Nat) (f : Converter → Converter) : (modConv s d f).itk = s.itk := rfl
@[simp] theorem modConv_tsx (d : Nat) (f : Converter → Converter) : (modConv s d f).tsx = s.tsx := rfl
@[simp] theorem modConv_orb (d : Nat) (f : Converter → Converter) : (modConv s d f).orb = s.orb := rfl
@[simp] theorem modConv_pwr (d : Nat) (f : Converter → Converter) : (modConv s d f).pwr = s.pwr := rfl
@[simp] theorem modConv_pst (d : Nat) (f : Converter → Converter) : (modConv s d f).pst = s.pst := rfl
@[simp] theorem modConv_con (d : Nat) (f : Converter → Converter) : (modConv s d f).con = s.con := rfl
@[simp] theorem modConv_hst (d : Nat) (f : Converter → Converter) : (modConv s d f).hst = s.hst := rfl
@[simp] theorem modConv_out (d : Nat) (f : Converter → Converter) : (modConv s d f).out = s.out := rfl
@[simp] theorem modConv_free (d : Nat) (f : Converter → Converter) : (modConv s d f).free = s.free := rfl
@[simp] theorem modConv_pending (d : Nat) (f : Converter → Converter) : (modConv s d f).pending = s.pending := rfl
@[simp] theorem modConv_rget (d : Nat) (f : Converter → Converter) (z : Nat) : rget (modConv s d f) z = rget s z := rfl
@[simp] theorem modConv_fget (d : Nat) (f : Converter → Converter) (z : FieldRef) : fget (modConv s d f) z = fget s z := rfl
/-! modMbx -/
@[simp] theorem modMbx_regs (f : Mailbox → Mailbox) : (modMbx s f).regs = s.regs := rfl
@[simp] theorem modMbx_clk (f : Mailbox → Mailbox) : (modMbx s f).clk = s.clk := rfl
@[simp] theorem modMbx_ann (f : Mailbox → Mailbox) : (modMbx s f).ann = s.ann := rfl
@[simp] theorem modMbx_img (f : Mailbox → Mailbox) : (modMbx s f).img = s.img := rfl
@[simp] theorem modMbx_arr (f : Mailbox → Mailbox) : (modMbx s f).arr = s.arr := rfl
@[simp] theorem modMbx_col (f : Mailbox → Mailbox) : (modMbx s f).col = s.col := rfl
@[simp] theorem modMbx_scr (f : Mailbox → Mailbox) : (modMbx s f).scr = s.scr := rfl
@[simp] theorem modMbx_run (f : Mailbox → Mailbox) : (modMbx s f).run = s.run := rfl
@[simp] theorem modMbx_acc (f : Mailbox → Mailbox) : (modMbx s f).acc = s.acc := rfl
@[simp] theorem modMbx_loans (f : Mailbox → Mailbox) : (modMbx s f).loans = s.loans := rfl
@[simp] theorem modMbx_kv (f : Mailbox → Mailbox) : (modMbx s f).kv = s.kv := rfl
@[simp] theorem modMbx_itk (f : Mailbox → Mailbox) : (modMbx s f).itk = s.itk := rfl
@[simp] theorem modMbx_tsx (f : Mailbox → Mailbox) : (modMbx s f).tsx = s.tsx := rfl
@[simp] theorem modMbx_orb (f : Mailbox → Mailbox) : (modMbx s f).orb = s.orb := rfl
@[simp] theorem modMbx_pwr (f : Mailbox → Mailbox) : (modMbx s f).pwr = s.pwr := rfl
@[simp] theorem modMbx_pst (f : Mailbox → Mailbox) : (modMbx s f).pst = s.pst := rfl
@[simp] theorem modMbx_con (f : Mailbox → Mailbox) : (modMbx s f).con = s.con := rfl
@[simp] theorem modMbx_hst (f : Mailbox → Mailbox) : (modMbx s f).hst = s.hst := rfl
@[simp] theorem modMbx_out (f : Mailbox → Mailbox) : (modMbx s f).out = s.out := rfl
@[simp] theorem modMbx_free (f : Mailbox → Mailbox) : (modMbx s f).free = s.free := rfl
@[simp] theorem modMbx_pending (f : Mailbox → Mailbox) : (modMbx s f).pending = s.pending := rfl
@[simp] theorem modMbx_rget (f : Mailbox → Mailbox) (z : Nat) : rget (modMbx s f) z = rget s z := rfl
@[simp] theorem modMbx_fget (f : Mailbox → Mailbox) (z : FieldRef) : fget (modMbx s f) z = fget s z := rfl
/-! modRotation -/
@[simp] theorem modRotation_regs (h : Nat) (f : Rotation → Rotation) : (modRotation s h f).regs = s.regs := rfl
@[simp] theorem modRotation_clk (h : Nat) (f : Rotation → Rotation) : (modRotation s h f).clk = s.clk := rfl
@[simp] theorem modRotation_ann (h : Nat) (f : Rotation → Rotation) : (modRotation s h f).ann = s.ann := rfl
@[simp] theorem modRotation_cur (h : Nat) (f : Rotation → Rotation) : (modRotation s h f).cur = s.cur := rfl
@[simp] theorem modRotation_img (h : Nat) (f : Rotation → Rotation) : (modRotation s h f).img = s.img := rfl
@[simp] theorem modRotation_arr (h : Nat) (f : Rotation → Rotation) : (modRotation s h f).arr = s.arr := rfl
@[simp] theorem modRotation_col (h : Nat) (f : Rotation → Rotation) : (modRotation s h f).col = s.col := rfl
@[simp] theorem modRotation_scr (h : Nat) (f : Rotation → Rotation) : (modRotation s h f).scr = s.scr := rfl
@[simp] theorem modRotation_run (h : Nat) (f : Rotation → Rotation) : (modRotation s h f).run = s.run := rfl
@[simp] theorem modRotation_acc (h : Nat) (f : Rotation → Rotation) : (modRotation s h f).acc = s.acc := rfl
@[simp] theorem modRotation_loans (h : Nat) (f : Rotation → Rotation) : (modRotation s h f).loans = s.loans := rfl
@[simp] theorem modRotation_kv (h : Nat) (f : Rotation → Rotation) : (modRotation s h f).kv = s.kv := rfl
@[simp] theorem modRotation_itk (h : Nat) (f : Rotation → Rotation) : (modRotation s h f).itk = s.itk := rfl
@[simp] theorem modRotation_tsx (h : Nat) (f : Rotation → Rotation) : (modRotation s h f).tsx = s.tsx := rfl
@[simp] theorem modRotation_orb (h : Nat) (f : Rotation → Rotation) : (modRotation s h f).orb = s.orb := rfl
@[simp] theorem modRotation_pwr (h : Nat) (f : Rotation → Rotation) : (modRotation s h f).pwr = s.pwr := rfl
@[simp] theorem modRotation_pst (h : Nat) (f : Rotation → Rotation) : (modRotation s h f).pst = s.pst := rfl
@[simp] theorem modRotation_hst (h : Nat) (f : Rotation → Rotation) : (modRotation s h f).hst = s.hst := rfl
@[simp] theorem modRotation_out (h : Nat) (f : Rotation → Rotation) : (modRotation s h f).out = s.out := rfl
@[simp] theorem modRotation_free (h : Nat) (f : Rotation → Rotation) : (modRotation s h f).free = s.free := rfl
@[simp] theorem modRotation_pending (h : Nat) (f : Rotation → Rotation) : (modRotation s h f).pending = s.pending := rfl
@[simp] theorem modRotation_rget (h : Nat) (f : Rotation → Rotation) (z : Nat) : rget (modRotation s h f) z = rget s z := rfl
@[simp] theorem modRotation_fget (h : Nat) (f : Rotation → Rotation) (z : FieldRef) : fget (modRotation s h f) z = fget s z := rfl
/-! carrelSt -/
@[simp] theorem rset_carrelSt (a : Nat) (v : W64) (k1 : Nat) : carrelSt (rset s a v) k1 = carrelSt s k1 := rfl
@[simp] theorem fset_carrelSt (f : FieldRef) (x : Nat) (k1 : Nat) : carrelSt (fset s f x) k1 = carrelSt s k1 := rfl
@[simp] theorem fbump_carrelSt (f : FieldRef) (n : Nat) (k1 : Nat) : carrelSt (fbump s f n) k1 = carrelSt s k1 := rfl
@[simp] theorem modStream_carrelSt (c : Nat) (f : Stream → Stream) (k1 : Nat) : carrelSt (modStream s c f) k1 = carrelSt s k1 := rfl
@[simp] theorem modCmd_carrelSt (c q : Nat) (f : Cmd → Cmd) (k1 : Nat) : carrelSt (modCmd s c q f) k1 = carrelSt s k1 := rfl
@[simp] theorem finish_carrelSt (c q st v : Nat) (k1 : Nat) : carrelSt (finish s c q st v) k1 = carrelSt s k1 := rfl
@[simp] theorem modAcc_carrelSt (r : Nat) (f : Acc → Acc) (k1 : Nat) : carrelSt (modAcc s r f) k1 = carrelSt s k1 := rfl
@[simp] theorem modPass_carrelSt (r : Nat) (f : Pass → Pass) (k1 : Nat) : carrelSt (modPass s r f) k1 = carrelSt s k1 := rfl
@[simp] theorem modVig_carrelSt (r : Nat) (f : Vigilance → Vigilance) (k1 : Nat) : carrelSt (modVig s r f) k1 = carrelSt s k1 := rfl
@[simp] theorem modSession_carrelSt (h : Nat) (f : Session → Session) (k1 : Nat) : carrelSt (modSession s h f) k1 = carrelSt s k1 := rfl
@[simp] theorem modPage_carrelSt (h i : Nat) (f : Page → Page) (k1 : Nat) : carrelSt (modPage s h i f) k1 = carrelSt s k1 := rfl
@[simp] theorem modFolio_carrelSt (k : Nat) (f : Folio → Folio) (k1 : Nat) : carrelSt (modFolio s k f) k1 = carrelSt s k1 := rfl
@[simp] theorem modLedger_carrelSt (x c : Nat) (f : Ledger → Ledger) (k1 : Nat) : carrelSt (modLedger s x c f) k1 = carrelSt s k1 := rfl
@[simp] theorem modGain_carrelSt (x c : Nat) (f : ChainGain → ChainGain) (k1 : Nat) : carrelSt (modGain s x c f) k1 = carrelSt s k1 := rfl
@[simp] theorem modScribe_carrelSt (x : Nat) (f : Scribe → Scribe) (k1 : Nat) : carrelSt (modScribe s x f) k1 = carrelSt s k1 := rfl
@[simp] theorem modTile_carrelSt (x n : Nat) (f : Tile → Tile) (k1 : Nat) : carrelSt (modTile s x n f) k1 = carrelSt s k1 := rfl
@[simp] theorem modHall_carrelSt (h : Nat) (f : HallPower → HallPower) (k1 : Nat) : carrelSt (modHall s h f) k1 = carrelSt s k1 := rfl
@[simp] theorem modPort_carrelSt (n : Nat) (f : Port → Port) (k1 : Nat) : carrelSt (modPort s n f) k1 = carrelSt s k1 := rfl
@[simp] theorem modLoan_carrelSt (c a : Nat) (f : Loan → Loan) (k1 : Nat) : carrelSt (modLoan s c a f) k1 = carrelSt s k1 := rfl
@[simp] theorem modOrb_carrelSt (i r : Nat) (f : OrbPass → OrbPass) (k1 : Nat) : carrelSt (modOrb s i r f) k1 = carrelSt s k1 := rfl
@[simp] theorem modConv_carrelSt (d : Nat) (f : Converter → Converter) (k1 : Nat) : carrelSt (modConv s d f) k1 = carrelSt s k1 := rfl
@[simp] theorem modMbx_carrelSt (f : Mailbox → Mailbox) (k1 : Nat) : carrelSt (modMbx s f) k1 = carrelSt s k1 := rfl
@[simp] theorem modRotation_carrelSt (h : Nat) (f : Rotation → Rotation) (k1 : Nat) : carrelSt (modRotation s h f) k1 = carrelSt s k1 := rfl
/-! streamOf -/
@[simp] theorem rset_streamOf (a : Nat) (v : W64) (k1 : Nat) : streamOf (rset s a v) k1 = streamOf s k1 := rfl
@[simp] theorem fset_streamOf (f : FieldRef) (x : Nat) (k1 : Nat) : streamOf (fset s f x) k1 = streamOf s k1 := rfl
@[simp] theorem fbump_streamOf (f : FieldRef) (n : Nat) (k1 : Nat) : streamOf (fbump s f n) k1 = streamOf s k1 := rfl
@[simp] theorem modCarrel_streamOf (n : Nat) (f : CarrelState → CarrelState) (k1 : Nat) : streamOf (modCarrel s n f) k1 = streamOf s k1 := rfl
@[simp] theorem modCmd_streamOf (c q : Nat) (f : Cmd → Cmd) (k1 : Nat) : streamOf (modCmd s c q f) k1 = streamOf s k1 := rfl
@[simp] theorem finish_streamOf (c q st v : Nat) (k1 : Nat) : streamOf (finish s c q st v) k1 = streamOf s k1 := rfl
@[simp] theorem modAcc_streamOf (r : Nat) (f : Acc → Acc) (k1 : Nat) : streamOf (modAcc s r f) k1 = streamOf s k1 := rfl
@[simp] theorem modPass_streamOf (r : Nat) (f : Pass → Pass) (k1 : Nat) : streamOf (modPass s r f) k1 = streamOf s k1 := rfl
@[simp] theorem modVig_streamOf (r : Nat) (f : Vigilance → Vigilance) (k1 : Nat) : streamOf (modVig s r f) k1 = streamOf s k1 := rfl
@[simp] theorem modSession_streamOf (h : Nat) (f : Session → Session) (k1 : Nat) : streamOf (modSession s h f) k1 = streamOf s k1 := rfl
@[simp] theorem modPage_streamOf (h i : Nat) (f : Page → Page) (k1 : Nat) : streamOf (modPage s h i f) k1 = streamOf s k1 := rfl
@[simp] theorem modFolio_streamOf (k : Nat) (f : Folio → Folio) (k1 : Nat) : streamOf (modFolio s k f) k1 = streamOf s k1 := rfl
@[simp] theorem modLedger_streamOf (x c : Nat) (f : Ledger → Ledger) (k1 : Nat) : streamOf (modLedger s x c f) k1 = streamOf s k1 := rfl
@[simp] theorem modGain_streamOf (x c : Nat) (f : ChainGain → ChainGain) (k1 : Nat) : streamOf (modGain s x c f) k1 = streamOf s k1 := rfl
@[simp] theorem modScribe_streamOf (x : Nat) (f : Scribe → Scribe) (k1 : Nat) : streamOf (modScribe s x f) k1 = streamOf s k1 := rfl
@[simp] theorem modTile_streamOf (x n : Nat) (f : Tile → Tile) (k1 : Nat) : streamOf (modTile s x n f) k1 = streamOf s k1 := rfl
@[simp] theorem modHall_streamOf (h : Nat) (f : HallPower → HallPower) (k1 : Nat) : streamOf (modHall s h f) k1 = streamOf s k1 := rfl
@[simp] theorem modPort_streamOf (n : Nat) (f : Port → Port) (k1 : Nat) : streamOf (modPort s n f) k1 = streamOf s k1 := rfl
@[simp] theorem modLoan_streamOf (c a : Nat) (f : Loan → Loan) (k1 : Nat) : streamOf (modLoan s c a f) k1 = streamOf s k1 := rfl
@[simp] theorem modOrb_streamOf (i r : Nat) (f : OrbPass → OrbPass) (k1 : Nat) : streamOf (modOrb s i r f) k1 = streamOf s k1 := rfl
@[simp] theorem modConv_streamOf (d : Nat) (f : Converter → Converter) (k1 : Nat) : streamOf (modConv s d f) k1 = streamOf s k1 := rfl
@[simp] theorem modMbx_streamOf (f : Mailbox → Mailbox) (k1 : Nat) : streamOf (modMbx s f) k1 = streamOf s k1 := rfl
@[simp] theorem modRotation_streamOf (h : Nat) (f : Rotation → Rotation) (k1 : Nat) : streamOf (modRotation s h f) k1 = streamOf s k1 := rfl
/-! findCmd -/
@[simp] theorem rset_findCmd (a : Nat) (v : W64) (k1 k2 : Nat) : findCmd (rset s a v) k1 k2 = findCmd s k1 k2 := rfl
@[simp] theorem fset_findCmd (f : FieldRef) (x : Nat) (k1 k2 : Nat) : findCmd (fset s f x) k1 k2 = findCmd s k1 k2 := rfl
@[simp] theorem fbump_findCmd (f : FieldRef) (n : Nat) (k1 k2 : Nat) : findCmd (fbump s f n) k1 k2 = findCmd s k1 k2 := rfl
@[simp] theorem modCarrel_findCmd (n : Nat) (f : CarrelState → CarrelState) (k1 k2 : Nat) : findCmd (modCarrel s n f) k1 k2 = findCmd s k1 k2 := rfl
@[simp] theorem modStream_findCmd (c : Nat) (f : Stream → Stream) (k1 k2 : Nat) : findCmd (modStream s c f) k1 k2 = findCmd s k1 k2 := rfl
@[simp] theorem modAcc_findCmd (r : Nat) (f : Acc → Acc) (k1 k2 : Nat) : findCmd (modAcc s r f) k1 k2 = findCmd s k1 k2 := rfl
@[simp] theorem modPass_findCmd (r : Nat) (f : Pass → Pass) (k1 k2 : Nat) : findCmd (modPass s r f) k1 k2 = findCmd s k1 k2 := rfl
@[simp] theorem modVig_findCmd (r : Nat) (f : Vigilance → Vigilance) (k1 k2 : Nat) : findCmd (modVig s r f) k1 k2 = findCmd s k1 k2 := rfl
@[simp] theorem modSession_findCmd (h : Nat) (f : Session → Session) (k1 k2 : Nat) : findCmd (modSession s h f) k1 k2 = findCmd s k1 k2 := rfl
@[simp] theorem modPage_findCmd (h i : Nat) (f : Page → Page) (k1 k2 : Nat) : findCmd (modPage s h i f) k1 k2 = findCmd s k1 k2 := rfl
@[simp] theorem modFolio_findCmd (k : Nat) (f : Folio → Folio) (k1 k2 : Nat) : findCmd (modFolio s k f) k1 k2 = findCmd s k1 k2 := rfl
@[simp] theorem modLedger_findCmd (x c : Nat) (f : Ledger → Ledger) (k1 k2 : Nat) : findCmd (modLedger s x c f) k1 k2 = findCmd s k1 k2 := rfl
@[simp] theorem modGain_findCmd (x c : Nat) (f : ChainGain → ChainGain) (k1 k2 : Nat) : findCmd (modGain s x c f) k1 k2 = findCmd s k1 k2 := rfl
@[simp] theorem modScribe_findCmd (x : Nat) (f : Scribe → Scribe) (k1 k2 : Nat) : findCmd (modScribe s x f) k1 k2 = findCmd s k1 k2 := rfl
@[simp] theorem modTile_findCmd (x n : Nat) (f : Tile → Tile) (k1 k2 : Nat) : findCmd (modTile s x n f) k1 k2 = findCmd s k1 k2 := rfl
@[simp] theorem modHall_findCmd (h : Nat) (f : HallPower → HallPower) (k1 k2 : Nat) : findCmd (modHall s h f) k1 k2 = findCmd s k1 k2 := rfl
@[simp] theorem modPort_findCmd (n : Nat) (f : Port → Port) (k1 k2 : Nat) : findCmd (modPort s n f) k1 k2 = findCmd s k1 k2 := rfl
@[simp] theorem modLoan_findCmd (c a : Nat) (f : Loan → Loan) (k1 k2 : Nat) : findCmd (modLoan s c a f) k1 k2 = findCmd s k1 k2 := rfl
@[simp] theorem modOrb_findCmd (i r : Nat) (f : OrbPass → OrbPass) (k1 k2 : Nat) : findCmd (modOrb s i r f) k1 k2 = findCmd s k1 k2 := rfl
@[simp] theorem modConv_findCmd (d : Nat) (f : Converter → Converter) (k1 k2 : Nat) : findCmd (modConv s d f) k1 k2 = findCmd s k1 k2 := rfl
@[simp] theorem modMbx_findCmd (f : Mailbox → Mailbox) (k1 k2 : Nat) : findCmd (modMbx s f) k1 k2 = findCmd s k1 k2 := rfl
@[simp] theorem modRotation_findCmd (h : Nat) (f : Rotation → Rotation) (k1 k2 : Nat) : findCmd (modRotation s h f) k1 k2 = findCmd s k1 k2 := rfl
/-! accOf -/
@[simp] theorem rset_accOf (a : Nat) (v : W64) (k1 : Nat) : accOf (rset s a v) k1 = accOf s k1 := rfl
@[simp] theorem fset_accOf (f : FieldRef) (x : Nat) (k1 : Nat) : accOf (fset s f x) k1 = accOf s k1 := rfl
@[simp] theorem fbump_accOf (f : FieldRef) (n : Nat) (k1 : Nat) : accOf (fbump s f n) k1 = accOf s k1 := rfl
@[simp] theorem modCarrel_accOf (n : Nat) (f : CarrelState → CarrelState) (k1 : Nat) : accOf (modCarrel s n f) k1 = accOf s k1 := rfl
@[simp] theorem modStream_accOf (c : Nat) (f : Stream → Stream) (k1 : Nat) : accOf (modStream s c f) k1 = accOf s k1 := rfl
@[simp] theorem modCmd_accOf (c q : Nat) (f : Cmd → Cmd) (k1 : Nat) : accOf (modCmd s c q f) k1 = accOf s k1 := rfl
@[simp] theorem finish_accOf (c q st v : Nat) (k1 : Nat) : accOf (finish s c q st v) k1 = accOf s k1 := rfl
@[simp] theorem modPass_accOf (r : Nat) (f : Pass → Pass) (k1 : Nat) : accOf (modPass s r f) k1 = accOf s k1 := rfl
@[simp] theorem modVig_accOf (r : Nat) (f : Vigilance → Vigilance) (k1 : Nat) : accOf (modVig s r f) k1 = accOf s k1 := rfl
@[simp] theorem modSession_accOf (h : Nat) (f : Session → Session) (k1 : Nat) : accOf (modSession s h f) k1 = accOf s k1 := rfl
@[simp] theorem modPage_accOf (h i : Nat) (f : Page → Page) (k1 : Nat) : accOf (modPage s h i f) k1 = accOf s k1 := rfl
@[simp] theorem modFolio_accOf (k : Nat) (f : Folio → Folio) (k1 : Nat) : accOf (modFolio s k f) k1 = accOf s k1 := rfl
@[simp] theorem modLedger_accOf (x c : Nat) (f : Ledger → Ledger) (k1 : Nat) : accOf (modLedger s x c f) k1 = accOf s k1 := rfl
@[simp] theorem modGain_accOf (x c : Nat) (f : ChainGain → ChainGain) (k1 : Nat) : accOf (modGain s x c f) k1 = accOf s k1 := rfl
@[simp] theorem modScribe_accOf (x : Nat) (f : Scribe → Scribe) (k1 : Nat) : accOf (modScribe s x f) k1 = accOf s k1 := rfl
@[simp] theorem modTile_accOf (x n : Nat) (f : Tile → Tile) (k1 : Nat) : accOf (modTile s x n f) k1 = accOf s k1 := rfl
@[simp] theorem modHall_accOf (h : Nat) (f : HallPower → HallPower) (k1 : Nat) : accOf (modHall s h f) k1 = accOf s k1 := rfl
@[simp] theorem modPort_accOf (n : Nat) (f : Port → Port) (k1 : Nat) : accOf (modPort s n f) k1 = accOf s k1 := rfl
@[simp] theorem modLoan_accOf (c a : Nat) (f : Loan → Loan) (k1 : Nat) : accOf (modLoan s c a f) k1 = accOf s k1 := rfl
@[simp] theorem modOrb_accOf (i r : Nat) (f : OrbPass → OrbPass) (k1 : Nat) : accOf (modOrb s i r f) k1 = accOf s k1 := rfl
@[simp] theorem modConv_accOf (d : Nat) (f : Converter → Converter) (k1 : Nat) : accOf (modConv s d f) k1 = accOf s k1 := rfl
@[simp] theorem modMbx_accOf (f : Mailbox → Mailbox) (k1 : Nat) : accOf (modMbx s f) k1 = accOf s k1 := rfl
@[simp] theorem modRotation_accOf (h : Nat) (f : Rotation → Rotation) (k1 : Nat) : accOf (modRotation s h f) k1 = accOf s k1 := rfl
/-! passOf -/
@[simp] theorem rset_passOf (a : Nat) (v : W64) (k1 : Nat) : passOf (rset s a v) k1 = passOf s k1 := rfl
@[simp] theorem fset_passOf (f : FieldRef) (x : Nat) (k1 : Nat) : passOf (fset s f x) k1 = passOf s k1 := rfl
@[simp] theorem fbump_passOf (f : FieldRef) (n : Nat) (k1 : Nat) : passOf (fbump s f n) k1 = passOf s k1 := rfl
@[simp] theorem modCarrel_passOf (n : Nat) (f : CarrelState → CarrelState) (k1 : Nat) : passOf (modCarrel s n f) k1 = passOf s k1 := rfl
@[simp] theorem modStream_passOf (c : Nat) (f : Stream → Stream) (k1 : Nat) : passOf (modStream s c f) k1 = passOf s k1 := rfl
@[simp] theorem modCmd_passOf (c q : Nat) (f : Cmd → Cmd) (k1 : Nat) : passOf (modCmd s c q f) k1 = passOf s k1 := rfl
@[simp] theorem finish_passOf (c q st v : Nat) (k1 : Nat) : passOf (finish s c q st v) k1 = passOf s k1 := rfl
@[simp] theorem modAcc_passOf (r : Nat) (f : Acc → Acc) (k1 : Nat) : passOf (modAcc s r f) k1 = passOf s k1 := rfl
@[simp] theorem modVig_passOf (r : Nat) (f : Vigilance → Vigilance) (k1 : Nat) : passOf (modVig s r f) k1 = passOf s k1 := rfl
@[simp] theorem modSession_passOf (h : Nat) (f : Session → Session) (k1 : Nat) : passOf (modSession s h f) k1 = passOf s k1 := rfl
@[simp] theorem modPage_passOf (h i : Nat) (f : Page → Page) (k1 : Nat) : passOf (modPage s h i f) k1 = passOf s k1 := rfl
@[simp] theorem modFolio_passOf (k : Nat) (f : Folio → Folio) (k1 : Nat) : passOf (modFolio s k f) k1 = passOf s k1 := rfl
@[simp] theorem modLedger_passOf (x c : Nat) (f : Ledger → Ledger) (k1 : Nat) : passOf (modLedger s x c f) k1 = passOf s k1 := rfl
@[simp] theorem modGain_passOf (x c : Nat) (f : ChainGain → ChainGain) (k1 : Nat) : passOf (modGain s x c f) k1 = passOf s k1 := rfl
@[simp] theorem modScribe_passOf (x : Nat) (f : Scribe → Scribe) (k1 : Nat) : passOf (modScribe s x f) k1 = passOf s k1 := rfl
@[simp] theorem modTile_passOf (x n : Nat) (f : Tile → Tile) (k1 : Nat) : passOf (modTile s x n f) k1 = passOf s k1 := rfl
@[simp] theorem modHall_passOf (h : Nat) (f : HallPower → HallPower) (k1 : Nat) : passOf (modHall s h f) k1 = passOf s k1 := rfl
@[simp] theorem modPort_passOf (n : Nat) (f : Port → Port) (k1 : Nat) : passOf (modPort s n f) k1 = passOf s k1 := rfl
@[simp] theorem modLoan_passOf (c a : Nat) (f : Loan → Loan) (k1 : Nat) : passOf (modLoan s c a f) k1 = passOf s k1 := rfl
@[simp] theorem modOrb_passOf (i r : Nat) (f : OrbPass → OrbPass) (k1 : Nat) : passOf (modOrb s i r f) k1 = passOf s k1 := rfl
@[simp] theorem modConv_passOf (d : Nat) (f : Converter → Converter) (k1 : Nat) : passOf (modConv s d f) k1 = passOf s k1 := rfl
@[simp] theorem modMbx_passOf (f : Mailbox → Mailbox) (k1 : Nat) : passOf (modMbx s f) k1 = passOf s k1 := rfl
@[simp] theorem modRotation_passOf (h : Nat) (f : Rotation → Rotation) (k1 : Nat) : passOf (modRotation s h f) k1 = passOf s k1 := rfl
/-! vigOf -/
@[simp] theorem rset_vigOf (a : Nat) (v : W64) (k1 : Nat) : vigOf (rset s a v) k1 = vigOf s k1 := rfl
@[simp] theorem fset_vigOf (f : FieldRef) (x : Nat) (k1 : Nat) : vigOf (fset s f x) k1 = vigOf s k1 := rfl
@[simp] theorem fbump_vigOf (f : FieldRef) (n : Nat) (k1 : Nat) : vigOf (fbump s f n) k1 = vigOf s k1 := rfl
@[simp] theorem modCarrel_vigOf (n : Nat) (f : CarrelState → CarrelState) (k1 : Nat) : vigOf (modCarrel s n f) k1 = vigOf s k1 := rfl
@[simp] theorem modStream_vigOf (c : Nat) (f : Stream → Stream) (k1 : Nat) : vigOf (modStream s c f) k1 = vigOf s k1 := rfl
@[simp] theorem modCmd_vigOf (c q : Nat) (f : Cmd → Cmd) (k1 : Nat) : vigOf (modCmd s c q f) k1 = vigOf s k1 := rfl
@[simp] theorem finish_vigOf (c q st v : Nat) (k1 : Nat) : vigOf (finish s c q st v) k1 = vigOf s k1 := rfl
@[simp] theorem modAcc_vigOf (r : Nat) (f : Acc → Acc) (k1 : Nat) : vigOf (modAcc s r f) k1 = vigOf s k1 := rfl
@[simp] theorem modPass_vigOf (r : Nat) (f : Pass → Pass) (k1 : Nat) : vigOf (modPass s r f) k1 = vigOf s k1 := rfl
@[simp] theorem modSession_vigOf (h : Nat) (f : Session → Session) (k1 : Nat) : vigOf (modSession s h f) k1 = vigOf s k1 := rfl
@[simp] theorem modPage_vigOf (h i : Nat) (f : Page → Page) (k1 : Nat) : vigOf (modPage s h i f) k1 = vigOf s k1 := rfl
@[simp] theorem modFolio_vigOf (k : Nat) (f : Folio → Folio) (k1 : Nat) : vigOf (modFolio s k f) k1 = vigOf s k1 := rfl
@[simp] theorem modLedger_vigOf (x c : Nat) (f : Ledger → Ledger) (k1 : Nat) : vigOf (modLedger s x c f) k1 = vigOf s k1 := rfl
@[simp] theorem modGain_vigOf (x c : Nat) (f : ChainGain → ChainGain) (k1 : Nat) : vigOf (modGain s x c f) k1 = vigOf s k1 := rfl
@[simp] theorem modScribe_vigOf (x : Nat) (f : Scribe → Scribe) (k1 : Nat) : vigOf (modScribe s x f) k1 = vigOf s k1 := rfl
@[simp] theorem modTile_vigOf (x n : Nat) (f : Tile → Tile) (k1 : Nat) : vigOf (modTile s x n f) k1 = vigOf s k1 := rfl
@[simp] theorem modHall_vigOf (h : Nat) (f : HallPower → HallPower) (k1 : Nat) : vigOf (modHall s h f) k1 = vigOf s k1 := rfl
@[simp] theorem modPort_vigOf (n : Nat) (f : Port → Port) (k1 : Nat) : vigOf (modPort s n f) k1 = vigOf s k1 := rfl
@[simp] theorem modLoan_vigOf (c a : Nat) (f : Loan → Loan) (k1 : Nat) : vigOf (modLoan s c a f) k1 = vigOf s k1 := rfl
@[simp] theorem modOrb_vigOf (i r : Nat) (f : OrbPass → OrbPass) (k1 : Nat) : vigOf (modOrb s i r f) k1 = vigOf s k1 := rfl
@[simp] theorem modConv_vigOf (d : Nat) (f : Converter → Converter) (k1 : Nat) : vigOf (modConv s d f) k1 = vigOf s k1 := rfl
@[simp] theorem modMbx_vigOf (f : Mailbox → Mailbox) (k1 : Nat) : vigOf (modMbx s f) k1 = vigOf s k1 := rfl
@[simp] theorem modRotation_vigOf (h : Nat) (f : Rotation → Rotation) (k1 : Nat) : vigOf (modRotation s h f) k1 = vigOf s k1 := rfl
/-! findSession -/
@[simp] theorem rset_findSession (a : Nat) (v : W64) (k1 : Nat) : findSession (rset s a v) k1 = findSession s k1 := rfl
@[simp] theorem fset_findSession (f : FieldRef) (x : Nat) (k1 : Nat) : findSession (fset s f x) k1 = findSession s k1 := rfl
@[simp] theorem fbump_findSession (f : FieldRef) (n : Nat) (k1 : Nat) : findSession (fbump s f n) k1 = findSession s k1 := rfl
@[simp] theorem modCarrel_findSession (n : Nat) (f : CarrelState → CarrelState) (k1 : Nat) : findSession (modCarrel s n f) k1 = findSession s k1 := rfl
@[simp] theorem modStream_findSession (c : Nat) (f : Stream → Stream) (k1 : Nat) : findSession (modStream s c f) k1 = findSession s k1 := rfl
@[simp] theorem modCmd_findSession (c q : Nat) (f : Cmd → Cmd) (k1 : Nat) : findSession (modCmd s c q f) k1 = findSession s k1 := rfl
@[simp] theorem finish_findSession (c q st v : Nat) (k1 : Nat) : findSession (finish s c q st v) k1 = findSession s k1 := rfl
@[simp] theorem modAcc_findSession (r : Nat) (f : Acc → Acc) (k1 : Nat) : findSession (modAcc s r f) k1 = findSession s k1 := rfl
@[simp] theorem modPass_findSession (r : Nat) (f : Pass → Pass) (k1 : Nat) : findSession (modPass s r f) k1 = findSession s k1 := rfl
@[simp] theorem modVig_findSession (r : Nat) (f : Vigilance → Vigilance) (k1 : Nat) : findSession (modVig s r f) k1 = findSession s k1 := rfl
@[simp] theorem modPage_findSession (h i : Nat) (f : Page → Page) (k1 : Nat) : findSession (modPage s h i f) k1 = findSession s k1 := rfl
@[simp] theorem modFolio_findSession (k : Nat) (f : Folio → Folio) (k1 : Nat) : findSession (modFolio s k f) k1 = findSession s k1 := rfl
@[simp] theorem modLedger_findSession (x c : Nat) (f : Ledger → Ledger) (k1 : Nat) : findSession (modLedger s x c f) k1 = findSession s k1 := rfl
@[simp] theorem modGain_findSession (x c : Nat) (f : ChainGain → ChainGain) (k1 : Nat) : findSession (modGain s x c f) k1 = findSession s k1 := rfl
@[simp] theorem modScribe_findSession (x : Nat) (f : Scribe → Scribe) (k1 : Nat) : findSession (modScribe s x f) k1 = findSession s k1 := rfl
@[simp] theorem modTile_findSession (x n : Nat) (f : Tile → Tile) (k1 : Nat) : findSession (modTile s x n f) k1 = findSession s k1 := rfl
@[simp] theorem modHall_findSession (h : Nat) (f : HallPower → HallPower) (k1 : Nat) : findSession (modHall s h f) k1 = findSession s k1 := rfl
@[simp] theorem modPort_findSession (n : Nat) (f : Port → Port) (k1 : Nat) : findSession (modPort s n f) k1 = findSession s k1 := rfl
@[simp] theorem modLoan_findSession (c a : Nat) (f : Loan → Loan) (k1 : Nat) : findSession (modLoan s c a f) k1 = findSession s k1 := rfl
@[simp] theorem modOrb_findSession (i r : Nat) (f : OrbPass → OrbPass) (k1 : Nat) : findSession (modOrb s i r f) k1 = findSession s k1 := rfl
@[simp] theorem modConv_findSession (d : Nat) (f : Converter → Converter) (k1 : Nat) : findSession (modConv s d f) k1 = findSession s k1 := rfl
@[simp] theorem modMbx_findSession (f : Mailbox → Mailbox) (k1 : Nat) : findSession (modMbx s f) k1 = findSession s k1 := rfl
@[simp] theorem modRotation_findSession (h : Nat) (f : Rotation → Rotation) (k1 : Nat) : findSession (modRotation s h f) k1 = findSession s k1 := rfl
/-! folioAt -/
@[simp] theorem rset_folioAt (a : Nat) (v : W64) (k1 : Nat) : folioAt (rset s a v) k1 = folioAt s k1 := rfl
@[simp] theorem fset_folioAt (f : FieldRef) (x : Nat) (k1 : Nat) : folioAt (fset s f x) k1 = folioAt s k1 := rfl
@[simp] theorem fbump_folioAt (f : FieldRef) (n : Nat) (k1 : Nat) : folioAt (fbump s f n) k1 = folioAt s k1 := rfl
@[simp] theorem modCarrel_folioAt (n : Nat) (f : CarrelState → CarrelState) (k1 : Nat) : folioAt (modCarrel s n f) k1 = folioAt s k1 := rfl
@[simp] theorem modStream_folioAt (c : Nat) (f : Stream → Stream) (k1 : Nat) : folioAt (modStream s c f) k1 = folioAt s k1 := rfl
@[simp] theorem modCmd_folioAt (c q : Nat) (f : Cmd → Cmd) (k1 : Nat) : folioAt (modCmd s c q f) k1 = folioAt s k1 := rfl
@[simp] theorem finish_folioAt (c q st v : Nat) (k1 : Nat) : folioAt (finish s c q st v) k1 = folioAt s k1 := rfl
@[simp] theorem modAcc_folioAt (r : Nat) (f : Acc → Acc) (k1 : Nat) : folioAt (modAcc s r f) k1 = folioAt s k1 := rfl
@[simp] theorem modPass_folioAt (r : Nat) (f : Pass → Pass) (k1 : Nat) : folioAt (modPass s r f) k1 = folioAt s k1 := rfl
@[simp] theorem modVig_folioAt (r : Nat) (f : Vigilance → Vigilance) (k1 : Nat) : folioAt (modVig s r f) k1 = folioAt s k1 := rfl
@[simp] theorem modSession_folioAt (h : Nat) (f : Session → Session) (k1 : Nat) : folioAt (modSession s h f) k1 = folioAt s k1 := rfl
@[simp] theorem modPage_folioAt (h i : Nat) (f : Page → Page) (k1 : Nat) : folioAt (modPage s h i f) k1 = folioAt s k1 := rfl
@[simp] theorem modLedger_folioAt (x c : Nat) (f : Ledger → Ledger) (k1 : Nat) : folioAt (modLedger s x c f) k1 = folioAt s k1 := rfl
@[simp] theorem modGain_folioAt (x c : Nat) (f : ChainGain → ChainGain) (k1 : Nat) : folioAt (modGain s x c f) k1 = folioAt s k1 := rfl
@[simp] theorem modScribe_folioAt (x : Nat) (f : Scribe → Scribe) (k1 : Nat) : folioAt (modScribe s x f) k1 = folioAt s k1 := rfl
@[simp] theorem modTile_folioAt (x n : Nat) (f : Tile → Tile) (k1 : Nat) : folioAt (modTile s x n f) k1 = folioAt s k1 := rfl
@[simp] theorem modHall_folioAt (h : Nat) (f : HallPower → HallPower) (k1 : Nat) : folioAt (modHall s h f) k1 = folioAt s k1 := rfl
@[simp] theorem modPort_folioAt (n : Nat) (f : Port → Port) (k1 : Nat) : folioAt (modPort s n f) k1 = folioAt s k1 := rfl
@[simp] theorem modLoan_folioAt (c a : Nat) (f : Loan → Loan) (k1 : Nat) : folioAt (modLoan s c a f) k1 = folioAt s k1 := rfl
@[simp] theorem modOrb_folioAt (i r : Nat) (f : OrbPass → OrbPass) (k1 : Nat) : folioAt (modOrb s i r f) k1 = folioAt s k1 := rfl
@[simp] theorem modConv_folioAt (d : Nat) (f : Converter → Converter) (k1 : Nat) : folioAt (modConv s d f) k1 = folioAt s k1 := rfl
@[simp] theorem modMbx_folioAt (f : Mailbox → Mailbox) (k1 : Nat) : folioAt (modMbx s f) k1 = folioAt s k1 := rfl
@[simp] theorem modRotation_folioAt (h : Nat) (f : Rotation → Rotation) (k1 : Nat) : folioAt (modRotation s h f) k1 = folioAt s k1 := rfl
/-! portAt -/
@[simp] theorem rset_portAt (a : Nat) (v : W64) (k1 : Nat) : portAt (rset s a v) k1 = portAt s k1 := rfl
@[simp] theorem fset_portAt (f : FieldRef) (x : Nat) (k1 : Nat) : portAt (fset s f x) k1 = portAt s k1 := rfl
@[simp] theorem fbump_portAt (f : FieldRef) (n : Nat) (k1 : Nat) : portAt (fbump s f n) k1 = portAt s k1 := rfl
@[simp] theorem modCarrel_portAt (n : Nat) (f : CarrelState → CarrelState) (k1 : Nat) : portAt (modCarrel s n f) k1 = portAt s k1 := rfl
@[simp] theorem modStream_portAt (c : Nat) (f : Stream → Stream) (k1 : Nat) : portAt (modStream s c f) k1 = portAt s k1 := rfl
@[simp] theorem modCmd_portAt (c q : Nat) (f : Cmd → Cmd) (k1 : Nat) : portAt (modCmd s c q f) k1 = portAt s k1 := rfl
@[simp] theorem finish_portAt (c q st v : Nat) (k1 : Nat) : portAt (finish s c q st v) k1 = portAt s k1 := rfl
@[simp] theorem modAcc_portAt (r : Nat) (f : Acc → Acc) (k1 : Nat) : portAt (modAcc s r f) k1 = portAt s k1 := rfl
@[simp] theorem modPass_portAt (r : Nat) (f : Pass → Pass) (k1 : Nat) : portAt (modPass s r f) k1 = portAt s k1 := rfl
@[simp] theorem modVig_portAt (r : Nat) (f : Vigilance → Vigilance) (k1 : Nat) : portAt (modVig s r f) k1 = portAt s k1 := rfl
@[simp] theorem modSession_portAt (h : Nat) (f : Session → Session) (k1 : Nat) : portAt (modSession s h f) k1 = portAt s k1 := rfl
@[simp] theorem modPage_portAt (h i : Nat) (f : Page → Page) (k1 : Nat) : portAt (modPage s h i f) k1 = portAt s k1 := rfl
@[simp] theorem modFolio_portAt (k : Nat) (f : Folio → Folio) (k1 : Nat) : portAt (modFolio s k f) k1 = portAt s k1 := rfl
@[simp] theorem modLedger_portAt (x c : Nat) (f : Ledger → Ledger) (k1 : Nat) : portAt (modLedger s x c f) k1 = portAt s k1 := rfl
@[simp] theorem modGain_portAt (x c : Nat) (f : ChainGain → ChainGain) (k1 : Nat) : portAt (modGain s x c f) k1 = portAt s k1 := rfl
@[simp] theorem modScribe_portAt (x : Nat) (f : Scribe → Scribe) (k1 : Nat) : portAt (modScribe s x f) k1 = portAt s k1 := rfl
@[simp] theorem modTile_portAt (x n : Nat) (f : Tile → Tile) (k1 : Nat) : portAt (modTile s x n f) k1 = portAt s k1 := rfl
@[simp] theorem modHall_portAt (h : Nat) (f : HallPower → HallPower) (k1 : Nat) : portAt (modHall s h f) k1 = portAt s k1 := rfl
@[simp] theorem modLoan_portAt (c a : Nat) (f : Loan → Loan) (k1 : Nat) : portAt (modLoan s c a f) k1 = portAt s k1 := rfl
@[simp] theorem modOrb_portAt (i r : Nat) (f : OrbPass → OrbPass) (k1 : Nat) : portAt (modOrb s i r f) k1 = portAt s k1 := rfl
@[simp] theorem modConv_portAt (d : Nat) (f : Converter → Converter) (k1 : Nat) : portAt (modConv s d f) k1 = portAt s k1 := rfl
@[simp] theorem modMbx_portAt (f : Mailbox → Mailbox) (k1 : Nat) : portAt (modMbx s f) k1 = portAt s k1 := rfl
@[simp] theorem modRotation_portAt (h : Nat) (f : Rotation → Rotation) (k1 : Nat) : portAt (modRotation s h f) k1 = portAt s k1 := rfl
/-! hallPower -/
@[simp] theorem rset_hallPower (a : Nat) (v : W64) (k1 : Nat) : hallPower (rset s a v) k1 = hallPower s k1 := rfl
@[simp] theorem fset_hallPower (f : FieldRef) (x : Nat) (k1 : Nat) : hallPower (fset s f x) k1 = hallPower s k1 := rfl
@[simp] theorem fbump_hallPower (f : FieldRef) (n : Nat) (k1 : Nat) : hallPower (fbump s f n) k1 = hallPower s k1 := rfl
@[simp] theorem modCarrel_hallPower (n : Nat) (f : CarrelState → CarrelState) (k1 : Nat) : hallPower (modCarrel s n f) k1 = hallPower s k1 := rfl
@[simp] theorem modStream_hallPower (c : Nat) (f : Stream → Stream) (k1 : Nat) : hallPower (modStream s c f) k1 = hallPower s k1 := rfl
@[simp] theorem modCmd_hallPower (c q : Nat) (f : Cmd → Cmd) (k1 : Nat) : hallPower (modCmd s c q f) k1 = hallPower s k1 := rfl
@[simp] theorem finish_hallPower (c q st v : Nat) (k1 : Nat) : hallPower (finish s c q st v) k1 = hallPower s k1 := rfl
@[simp] theorem modAcc_hallPower (r : Nat) (f : Acc → Acc) (k1 : Nat) : hallPower (modAcc s r f) k1 = hallPower s k1 := rfl
@[simp] theorem modPass_hallPower (r : Nat) (f : Pass → Pass) (k1 : Nat) : hallPower (modPass s r f) k1 = hallPower s k1 := rfl
@[simp] theorem modVig_hallPower (r : Nat) (f : Vigilance → Vigilance) (k1 : Nat) : hallPower (modVig s r f) k1 = hallPower s k1 := rfl
@[simp] theorem modSession_hallPower (h : Nat) (f : Session → Session) (k1 : Nat) : hallPower (modSession s h f) k1 = hallPower s k1 := rfl
@[simp] theorem modPage_hallPower (h i : Nat) (f : Page → Page) (k1 : Nat) : hallPower (modPage s h i f) k1 = hallPower s k1 := rfl
@[simp] theorem modFolio_hallPower (k : Nat) (f : Folio → Folio) (k1 : Nat) : hallPower (modFolio s k f) k1 = hallPower s k1 := rfl
@[simp] theorem modLedger_hallPower (x c : Nat) (f : Ledger → Ledger) (k1 : Nat) : hallPower (modLedger s x c f) k1 = hallPower s k1 := rfl
@[simp] theorem modGain_hallPower (x c : Nat) (f : ChainGain → ChainGain) (k1 : Nat) : hallPower (modGain s x c f) k1 = hallPower s k1 := rfl
@[simp] theorem modScribe_hallPower (x : Nat) (f : Scribe → Scribe) (k1 : Nat) : hallPower (modScribe s x f) k1 = hallPower s k1 := rfl
@[simp] theorem modTile_hallPower (x n : Nat) (f : Tile → Tile) (k1 : Nat) : hallPower (modTile s x n f) k1 = hallPower s k1 := rfl
@[simp] theorem modPort_hallPower (n : Nat) (f : Port → Port) (k1 : Nat) : hallPower (modPort s n f) k1 = hallPower s k1 := rfl
@[simp] theorem modLoan_hallPower (c a : Nat) (f : Loan → Loan) (k1 : Nat) : hallPower (modLoan s c a f) k1 = hallPower s k1 := rfl
@[simp] theorem modOrb_hallPower (i r : Nat) (f : OrbPass → OrbPass) (k1 : Nat) : hallPower (modOrb s i r f) k1 = hallPower s k1 := rfl
@[simp] theorem modConv_hallPower (d : Nat) (f : Converter → Converter) (k1 : Nat) : hallPower (modConv s d f) k1 = hallPower s k1 := rfl
@[simp] theorem modMbx_hallPower (f : Mailbox → Mailbox) (k1 : Nat) : hallPower (modMbx s f) k1 = hallPower s k1 := rfl
@[simp] theorem modRotation_hallPower (h : Nat) (f : Rotation → Rotation) (k1 : Nat) : hallPower (modRotation s h f) k1 = hallPower s k1 := rfl
/-! scribeOf -/
@[simp] theorem rset_scribeOf (a : Nat) (v : W64) (k1 : Nat) : scribeOf (rset s a v) k1 = scribeOf s k1 := rfl
@[simp] theorem fset_scribeOf (f : FieldRef) (x : Nat) (k1 : Nat) : scribeOf (fset s f x) k1 = scribeOf s k1 := rfl
@[simp] theorem fbump_scribeOf (f : FieldRef) (n : Nat) (k1 : Nat) : scribeOf (fbump s f n) k1 = scribeOf s k1 := rfl
@[simp] theorem modCarrel_scribeOf (n : Nat) (f : CarrelState → CarrelState) (k1 : Nat) : scribeOf (modCarrel s n f) k1 = scribeOf s k1 := rfl
@[simp] theorem modStream_scribeOf (c : Nat) (f : Stream → Stream) (k1 : Nat) : scribeOf (modStream s c f) k1 = scribeOf s k1 := rfl
@[simp] theorem modCmd_scribeOf (c q : Nat) (f : Cmd → Cmd) (k1 : Nat) : scribeOf (modCmd s c q f) k1 = scribeOf s k1 := rfl
@[simp] theorem finish_scribeOf (c q st v : Nat) (k1 : Nat) : scribeOf (finish s c q st v) k1 = scribeOf s k1 := rfl
@[simp] theorem modAcc_scribeOf (r : Nat) (f : Acc → Acc) (k1 : Nat) : scribeOf (modAcc s r f) k1 = scribeOf s k1 := rfl
@[simp] theorem modPass_scribeOf (r : Nat) (f : Pass → Pass) (k1 : Nat) : scribeOf (modPass s r f) k1 = scribeOf s k1 := rfl
@[simp] theorem modVig_scribeOf (r : Nat) (f : Vigilance → Vigilance) (k1 : Nat) : scribeOf (modVig s r f) k1 = scribeOf s k1 := rfl
@[simp] theorem modSession_scribeOf (h : Nat) (f : Session → Session) (k1 : Nat) : scribeOf (modSession s h f) k1 = scribeOf s k1 := rfl
@[simp] theorem modPage_scribeOf (h i : Nat) (f : Page → Page) (k1 : Nat) : scribeOf (modPage s h i f) k1 = scribeOf s k1 := rfl
@[simp] theorem modFolio_scribeOf (k : Nat) (f : Folio → Folio) (k1 : Nat) : scribeOf (modFolio s k f) k1 = scribeOf s k1 := rfl
@[simp] theorem modLedger_scribeOf (x c : Nat) (f : Ledger → Ledger) (k1 : Nat) : scribeOf (modLedger s x c f) k1 = scribeOf s k1 := rfl
@[simp] theorem modGain_scribeOf (x c : Nat) (f : ChainGain → ChainGain) (k1 : Nat) : scribeOf (modGain s x c f) k1 = scribeOf s k1 := rfl
@[simp] theorem modTile_scribeOf (x n : Nat) (f : Tile → Tile) (k1 : Nat) : scribeOf (modTile s x n f) k1 = scribeOf s k1 := rfl
@[simp] theorem modHall_scribeOf (h : Nat) (f : HallPower → HallPower) (k1 : Nat) : scribeOf (modHall s h f) k1 = scribeOf s k1 := rfl
@[simp] theorem modPort_scribeOf (n : Nat) (f : Port → Port) (k1 : Nat) : scribeOf (modPort s n f) k1 = scribeOf s k1 := rfl
@[simp] theorem modLoan_scribeOf (c a : Nat) (f : Loan → Loan) (k1 : Nat) : scribeOf (modLoan s c a f) k1 = scribeOf s k1 := rfl
@[simp] theorem modOrb_scribeOf (i r : Nat) (f : OrbPass → OrbPass) (k1 : Nat) : scribeOf (modOrb s i r f) k1 = scribeOf s k1 := rfl
@[simp] theorem modConv_scribeOf (d : Nat) (f : Converter → Converter) (k1 : Nat) : scribeOf (modConv s d f) k1 = scribeOf s k1 := rfl
@[simp] theorem modMbx_scribeOf (f : Mailbox → Mailbox) (k1 : Nat) : scribeOf (modMbx s f) k1 = scribeOf s k1 := rfl
@[simp] theorem modRotation_scribeOf (h : Nat) (f : Rotation → Rotation) (k1 : Nat) : scribeOf (modRotation s h f) k1 = scribeOf s k1 := rfl
/-! rotationOf -/
@[simp] theorem rset_rotationOf (a : Nat) (v : W64) (k1 : Nat) : rotationOf (rset s a v) k1 = rotationOf s k1 := rfl
@[simp] theorem fset_rotationOf (f : FieldRef) (x : Nat) (k1 : Nat) : rotationOf (fset s f x) k1 = rotationOf s k1 := rfl
@[simp] theorem fbump_rotationOf (f : FieldRef) (n : Nat) (k1 : Nat) : rotationOf (fbump s f n) k1 = rotationOf s k1 := rfl
@[simp] theorem modCarrel_rotationOf (n : Nat) (f : CarrelState → CarrelState) (k1 : Nat) : rotationOf (modCarrel s n f) k1 = rotationOf s k1 := rfl
@[simp] theorem modStream_rotationOf (c : Nat) (f : Stream → Stream) (k1 : Nat) : rotationOf (modStream s c f) k1 = rotationOf s k1 := rfl
@[simp] theorem modCmd_rotationOf (c q : Nat) (f : Cmd → Cmd) (k1 : Nat) : rotationOf (modCmd s c q f) k1 = rotationOf s k1 := rfl
@[simp] theorem finish_rotationOf (c q st v : Nat) (k1 : Nat) : rotationOf (finish s c q st v) k1 = rotationOf s k1 := rfl
@[simp] theorem modAcc_rotationOf (r : Nat) (f : Acc → Acc) (k1 : Nat) : rotationOf (modAcc s r f) k1 = rotationOf s k1 := rfl
@[simp] theorem modPass_rotationOf (r : Nat) (f : Pass → Pass) (k1 : Nat) : rotationOf (modPass s r f) k1 = rotationOf s k1 := rfl
@[simp] theorem modVig_rotationOf (r : Nat) (f : Vigilance → Vigilance) (k1 : Nat) : rotationOf (modVig s r f) k1 = rotationOf s k1 := rfl
@[simp] theorem modSession_rotationOf (h : Nat) (f : Session → Session) (k1 : Nat) : rotationOf (modSession s h f) k1 = rotationOf s k1 := rfl
@[simp] theorem modPage_rotationOf (h i : Nat) (f : Page → Page) (k1 : Nat) : rotationOf (modPage s h i f) k1 = rotationOf s k1 := rfl
@[simp] theorem modFolio_rotationOf (k : Nat) (f : Folio → Folio) (k1 : Nat) : rotationOf (modFolio s k f) k1 = rotationOf s k1 := rfl
@[simp] theorem modLedger_rotationOf (x c : Nat) (f : Ledger → Ledger) (k1 : Nat) : rotationOf (modLedger s x c f) k1 = rotationOf s k1 := rfl
@[simp] theorem modGain_rotationOf (x c : Nat) (f : ChainGain → ChainGain) (k1 : Nat) : rotationOf (modGain s x c f) k1 = rotationOf s k1 := rfl
@[simp] theorem modScribe_rotationOf (x : Nat) (f : Scribe → Scribe) (k1 : Nat) : rotationOf (modScribe s x f) k1 = rotationOf s k1 := rfl
@[simp] theorem modTile_rotationOf (x n : Nat) (f : Tile → Tile) (k1 : Nat) : rotationOf (modTile s x n f) k1 = rotationOf s k1 := rfl
@[simp] theorem modHall_rotationOf (h : Nat) (f : HallPower → HallPower) (k1 : Nat) : rotationOf (modHall s h f) k1 = rotationOf s k1 := rfl
@[simp] theorem modPort_rotationOf (n : Nat) (f : Port → Port) (k1 : Nat) : rotationOf (modPort s n f) k1 = rotationOf s k1 := rfl
@[simp] theorem modLoan_rotationOf (c a : Nat) (f : Loan → Loan) (k1 : Nat) : rotationOf (modLoan s c a f) k1 = rotationOf s k1 := rfl
@[simp] theorem modOrb_rotationOf (i r : Nat) (f : OrbPass → OrbPass) (k1 : Nat) : rotationOf (modOrb s i r f) k1 = rotationOf s k1 := rfl
@[simp] theorem modConv_rotationOf (d : Nat) (f : Converter → Converter) (k1 : Nat) : rotationOf (modConv s d f) k1 = rotationOf s k1 := rfl
@[simp] theorem modMbx_rotationOf (f : Mailbox → Mailbox) (k1 : Nat) : rotationOf (modMbx s f) k1 = rotationOf s k1 := rfl
/-! convOf -/
@[simp] theorem rset_convOf (a : Nat) (v : W64) (k1 : Nat) : convOf (rset s a v) k1 = convOf s k1 := rfl
@[simp] theorem fset_convOf (f : FieldRef) (x : Nat) (k1 : Nat) : convOf (fset s f x) k1 = convOf s k1 := rfl
@[simp] theorem fbump_convOf (f : FieldRef) (n : Nat) (k1 : Nat) : convOf (fbump s f n) k1 = convOf s k1 := rfl
@[simp] theorem modCarrel_convOf (n : Nat) (f : CarrelState → CarrelState) (k1 : Nat) : convOf (modCarrel s n f) k1 = convOf s k1 := rfl
@[simp] theorem modStream_convOf (c : Nat) (f : Stream → Stream) (k1 : Nat) : convOf (modStream s c f) k1 = convOf s k1 := rfl
@[simp] theorem modCmd_convOf (c q : Nat) (f : Cmd → Cmd) (k1 : Nat) : convOf (modCmd s c q f) k1 = convOf s k1 := rfl
@[simp] theorem finish_convOf (c q st v : Nat) (k1 : Nat) : convOf (finish s c q st v) k1 = convOf s k1 := rfl
@[simp] theorem modAcc_convOf (r : Nat) (f : Acc → Acc) (k1 : Nat) : convOf (modAcc s r f) k1 = convOf s k1 := rfl
@[simp] theorem modPass_convOf (r : Nat) (f : Pass → Pass) (k1 : Nat) : convOf (modPass s r f) k1 = convOf s k1 := rfl
@[simp] theorem modVig_convOf (r : Nat) (f : Vigilance → Vigilance) (k1 : Nat) : convOf (modVig s r f) k1 = convOf s k1 := rfl
@[simp] theorem modSession_convOf (h : Nat) (f : Session → Session) (k1 : Nat) : convOf (modSession s h f) k1 = convOf s k1 := rfl
@[simp] theorem modPage_convOf (h i : Nat) (f : Page → Page) (k1 : Nat) : convOf (modPage s h i f) k1 = convOf s k1 := rfl
@[simp] theorem modFolio_convOf (k : Nat) (f : Folio → Folio) (k1 : Nat) : convOf (modFolio s k f) k1 = convOf s k1 := rfl
@[simp] theorem modLedger_convOf (x c : Nat) (f : Ledger → Ledger) (k1 : Nat) : convOf (modLedger s x c f) k1 = convOf s k1 := rfl
@[simp] theorem modGain_convOf (x c : Nat) (f : ChainGain → ChainGain) (k1 : Nat) : convOf (modGain s x c f) k1 = convOf s k1 := rfl
@[simp] theorem modScribe_convOf (x : Nat) (f : Scribe → Scribe) (k1 : Nat) : convOf (modScribe s x f) k1 = convOf s k1 := rfl
@[simp] theorem modTile_convOf (x n : Nat) (f : Tile → Tile) (k1 : Nat) : convOf (modTile s x n f) k1 = convOf s k1 := rfl
@[simp] theorem modHall_convOf (h : Nat) (f : HallPower → HallPower) (k1 : Nat) : convOf (modHall s h f) k1 = convOf s k1 := rfl
@[simp] theorem modPort_convOf (n : Nat) (f : Port → Port) (k1 : Nat) : convOf (modPort s n f) k1 = convOf s k1 := rfl
@[simp] theorem modLoan_convOf (c a : Nat) (f : Loan → Loan) (k1 : Nat) : convOf (modLoan s c a f) k1 = convOf s k1 := rfl
@[simp] theorem modOrb_convOf (i r : Nat) (f : OrbPass → OrbPass) (k1 : Nat) : convOf (modOrb s i r f) k1 = convOf s k1 := rfl
@[simp] theorem modMbx_convOf (f : Mailbox → Mailbox) (k1 : Nat) : convOf (modMbx s f) k1 = convOf s k1 := rfl
@[simp] theorem modRotation_convOf (h : Nat) (f : Rotation → Rotation) (k1 : Nat) : convOf (modRotation s h f) k1 = convOf s k1 := rfl
/-! unpowered -/
@[simp] theorem rset_unpowered (a : Nat) (v : W64) : unpowered (rset s a v) = unpowered s := rfl
@[simp] theorem fset_unpowered (f : FieldRef) (x : Nat) : unpowered (fset s f x) = unpowered s := rfl
@[simp] theorem fbump_unpowered (f : FieldRef) (n : Nat) : unpowered (fbump s f n) = unpowered s := rfl
@[simp] theorem modCarrel_unpowered (n : Nat) (f : CarrelState → CarrelState) : unpowered (modCarrel s n f) = unpowered s := rfl
@[simp] theorem modStream_unpowered (c : Nat) (f : Stream → Stream) : unpowered (modStream s c f) = unpowered s := rfl
@[simp] theorem modCmd_unpowered (c q : Nat) (f : Cmd → Cmd) : unpowered (modCmd s c q f) = unpowered s := rfl
@[simp] theorem finish_unpowered (c q st v : Nat) : unpowered (finish s c q st v) = unpowered s := rfl
@[simp] theorem modAcc_unpowered (r : Nat) (f : Acc → Acc) : unpowered (modAcc s r f) = unpowered s := rfl
@[simp] theorem modPass_unpowered (r : Nat) (f : Pass → Pass) : unpowered (modPass s r f) = unpowered s := rfl
@[simp] theorem modVig_unpowered (r : Nat) (f : Vigilance → Vigilance) : unpowered (modVig s r f) = unpowered s := rfl
@[simp] theorem modSession_unpowered (h : Nat) (f : Session → Session) : unpowered (modSession s h f) = unpowered s := rfl
@[simp] theorem modPage_unpowered (h i : Nat) (f : Page → Page) : unpowered (modPage s h i f) = unpowered s := rfl
@[simp] theorem modFolio_unpowered (k : Nat) (f : Folio → Folio) : unpowered (modFolio s k f) = unpowered s := rfl
@[simp] theorem modLedger_unpowered (x c : Nat) (f : Ledger → Ledger) : unpowered (modLedger s x c f) = unpowered s := rfl
@[simp] theorem modGain_unpowered (x c : Nat) (f : ChainGain → ChainGain) : unpowered (modGain s x c f) = unpowered s := rfl
@[simp] theorem modScribe_unpowered (x : Nat) (f : Scribe → Scribe) : unpowered (modScribe s x f) = unpowered s := rfl
@[simp] theorem modTile_unpowered (x n : Nat) (f : Tile → Tile) : unpowered (modTile s x n f) = unpowered s := rfl
@[simp] theorem modHall_unpowered (h : Nat) (f : HallPower → HallPower) : unpowered (modHall s h f) = unpowered s := rfl
@[simp] theorem modPort_unpowered (n : Nat) (f : Port → Port) : unpowered (modPort s n f) = unpowered s := rfl
@[simp] theorem modLoan_unpowered (c a : Nat) (f : Loan → Loan) : unpowered (modLoan s c a f) = unpowered s := rfl
@[simp] theorem modOrb_unpowered (i r : Nat) (f : OrbPass → OrbPass) : unpowered (modOrb s i r f) = unpowered s := rfl
@[simp] theorem modConv_unpowered (d : Nat) (f : Converter → Converter) : unpowered (modConv s d f) = unpowered s := rfl
@[simp] theorem modMbx_unpowered (f : Mailbox → Mailbox) : unpowered (modMbx s f) = unpowered s := rfl
@[simp] theorem modRotation_unpowered (h : Nat) (f : Rotation → Rotation) : unpowered (modRotation s h f) = unpowered s := rfl

end Sys2Proof.Machine
end
end

