-- ==== Sys2Proof/Laws/Tables.lean ====
section
/-!
SUPPORT. Sys2Proof/Laws/Tables.lean: what an update of a keyed table or of a list of named things reads back as, what a counter
and an annals record do, and what an image command's result shows.
-/
section
open Sys2Proof Sys2Proof.Machine
namespace Sys2Proof.Machine
variable {s : State}

/-! ### Keyed tables -/

/-- A table changed at key `i` reads there what the change makes of it. -/
theorem sget_smod_same {α : Type} [DecidableEq α] {d : Nat → α} {m : Sparse α} {i : Nat} (f : α → α) (h : swf d m = true) :
    sget d (smod d m i f) i = f (sget d m i) := sget_sset_same h

/-- A table changed at key `i` reads elsewhere what it read. -/
theorem sget_smod_ne {α : Type} [DecidableEq α] {d : Nat → α} {m : Sparse α} {i j : Nat} (f : α → α) (h : swf d m = true) (hij : j ≠ i) :
    sget d (smod d m i f) j = sget d m j := sget_sset_ne h hij

theorem accOf_modAcc (h : s.accOk) (r : Nat) (f : Acc → Acc) : accOf (modAcc s r f) r = f (accOf s r) := sget_smod_same f h
theorem accOf_modAcc_ne (h : s.accOk) {r q : Nat} (f : Acc → Acc) (hq : q ≠ r) : accOf (modAcc s r f) q = accOf s q := sget_smod_ne f h hq
theorem accOk_modAcc (h : s.accOk) (r : Nat) (f : Acc → Acc) : (modAcc s r f).accOk := smod_swf _ _ h

theorem folioAt_modFolio (h : s.foliosOk) (k : Nat) (f : Folio → Folio) : folioAt (modFolio s k f) k = f (folioAt s k) := sget_smod_same f h
theorem folioAt_modFolio_ne (h : s.foliosOk) {k j : Nat} (f : Folio → Folio) (hj : j ≠ k) : folioAt (modFolio s k f) j = folioAt s j :=
  sget_smod_ne f h hj
theorem foliosOk_modFolio (h : s.foliosOk) (k : Nat) (f : Folio → Folio) : (modFolio s k f).foliosOk := smod_swf _ _ h

theorem portAt_modPort (h : s.portsOk) (n : Nat) (f : Port → Port) : portAt (modPort s n f) n = f (portAt s n) := sget_smod_same f h
theorem portAt_modPort_ne (h : s.portsOk) {n m : Nat} (f : Port → Port) (hm : m ≠ n) : portAt (modPort s n f) m = portAt s m := sget_smod_ne f h hm
theorem portsOk_modPort (h : s.portsOk) (n : Nat) (f : Port → Port) : (modPort s n f).portsOk := smod_swf _ _ h

theorem hallPower_modHall (h : s.hallsOk) (g : Nat) (f : HallPower → HallPower) : hallPower (modHall s g f) g = f (hallPower s g) := sget_smod_same f h
theorem hallPower_modHall_ne (h : s.hallsOk) {g k : Nat} (f : HallPower → HallPower) (hk : k ≠ g) : hallPower (modHall s g f) k = hallPower s k :=
  sget_smod_ne f h hk
theorem hallsOk_modHall (h : s.hallsOk) (g : Nat) (f : HallPower → HallPower) : (modHall s g f).hallsOk := smod_swf _ _ h

theorem carrelSt_modCarrel (h : s.carrelsOk) (n : Nat) (f : CarrelState → CarrelState) : carrelSt (modCarrel s n f) n = f (carrelSt s n) :=
  sget_smod_same f h
theorem carrelSt_modCarrel_ne (h : s.carrelsOk) {n m : Nat} (f : CarrelState → CarrelState) (hm : m ≠ n) : carrelSt (modCarrel s n f) m = carrelSt s m :=
  sget_smod_ne f h hm
theorem carrelsOk_modCarrel (h : s.carrelsOk) (n : Nat) (f : CarrelState → CarrelState) : (modCarrel s n f).carrelsOk := smod_swf _ _ h

theorem scribeOf_modScribe (h : s.scribesOk) (x : Nat) (f : Scribe → Scribe) : scribeOf (modScribe s x f) x = f (scribeOf s x) := sget_smod_same f h.1
theorem scribeOf_modScribe_ne (h : s.scribesOk) {x y : Nat} (f : Scribe → Scribe) (hy : y ≠ x) : scribeOf (modScribe s x f) y = scribeOf s y :=
  sget_smod_ne f h.1 hy

theorem rotationOf_modRotation (h : swf (fun _ => freshRotation) s.con.rotations = true) (g : Nat) (f : Rotation → Rotation) :
    rotationOf (modRotation s g f) g = f (rotationOf s g) := sget_smod_same f h
theorem rotationOf_modRotation_ne (h : swf (fun _ => freshRotation) s.con.rotations = true) {g k : Nat} (f : Rotation → Rotation) (hk : k ≠ g) :
    rotationOf (modRotation s g f) k = rotationOf s k := sget_smod_ne f h hk

theorem vigOf_modVig (h : swf (fun _ => freshVigilance) s.run.vig = true) (r : Nat) (f : Vigilance → Vigilance) :
    vigOf (modVig s r f) r = f (vigOf s r) := sget_smod_same f h
theorem vigOf_modVig_ne (h : swf (fun _ => freshVigilance) s.run.vig = true) {r q : Nat} (f : Vigilance → Vigilance) (hq : q ≠ r) :
    vigOf (modVig s r f) q = vigOf s q := sget_smod_ne f h hq

/-! ### Lists of named things -/

/-- Changing the first element of a name, the name kept, is found again under it. -/
theorem find_modFirst {α : Type} (p : α → Bool) (f : α → α) (l : List α) (hf : ∀ x, p x = true → p (f x) = true) :
    (modFirst p f l).find? p = (l.find? p).map f := by
  induction l with
  | nil => rfl
  | cons x xs ih =>
    simp only [modFirst]
    split
    · next h => simp [hf x h, h]
    · next h => simp [h, ih]

/-- Changing the first element of one name leaves what another name finds, where the change gives it no new name. -/
theorem find_modFirst_other {α : Type} (p q : α → Bool) (f : α → α) (l : List α) (h1 : ∀ x, p x = true → q x = false)
    (h2 : ∀ x, p x = true → q (f x) = false) : (modFirst p f l).find? q = l.find? q := by
  induction l with
  | nil => rfl
  | cons x xs ih =>
    simp only [modFirst]
    split
    · next h => simp [h1 x h, h2 x h]
    · next h => simp only [List.find?_cons, ih]

theorem findSession_modSession (h : Nat) (f : Session → Session) (hf : ∀ x, (f x).handle = x.handle) :
    findSession (modSession s h f) h = (findSession s h).map f :=
  find_modFirst _ f _ fun x hx => by simpa [hf x] using hx

theorem findSession_modSession_ne {h g : Nat} (f : Session → Session) (hf : ∀ x, (f x).handle = x.handle) (hg : g ≠ h) :
    findSession (modSession s h f) g = findSession s g :=
  find_modFirst_other _ _ f _ (fun x hx => by simp_all; omega) fun x hx => by simp_all; omega

theorem passOf_modPass (r : Nat) (f : Pass → Pass) (hf : ∀ x, (f x).region = x.region) : passOf (modPass s r f) r = (passOf s r).map f :=
  find_modFirst _ f _ fun x hx => by simpa [hf x] using hx

theorem passOf_modPass_ne {r q : Nat} (f : Pass → Pass) (hf : ∀ x, (f x).region = x.region) (hq : q ≠ r) : passOf (modPass s r f) q = passOf s q :=
  find_modFirst_other _ _ f _ (fun x hx => by simp_all; omega) fun x hx => by simp_all; omega

/-- A command that finishes stands finished with its status and VALUE, and is otherwise as it was. -/
theorem finish_findCmd (c q st v : Nat) :
    findCmd (finish s c q st v) c q = (findCmd s c q).map fun k => { k with phase := .finished, status := st, value := v } :=
  find_modFirst _ _ _ fun x hx => by simp_all [Cmd.named]

theorem finish_finishedAs {c q : Nat} {k : Cmd} (st v : Nat) (h : findCmd s c q = some k) : finishedAs (finish s c q st v) c q k st v := by
  simp [finishedAs, finish_findCmd, h]

/-- A command that finishes leaves every other one alone. -/
theorem finish_findCmd_ne {c q c' q' : Nat} (st v : Nat) (h : ¬ (c' = c ∧ q' = q)) : findCmd (finish s c q st v) c' q' = findCmd s c' q' :=
  find_modFirst_other _ _ _ _
    (fun x hx => by simp only [Cmd.named, Bool.and_eq_true, beq_iff_eq] at hx; simp only [Cmd.named, hx.1.1, hx.1.2]; by_contra hc; simp_all)
    fun x hx => by simp only [Cmd.named, Bool.and_eq_true, beq_iff_eq] at hx; simp only [Cmd.named, hx.1.1, hx.1.2]; by_contra hc; simp_all

/-! ### Counters and records -/

/-- A counter field counts up and stays at its greatest value. -/
theorem fbump_counted (h : s.regsOk) (f : FieldRef) (n : Nat) (hf : f.lo + f.w ≤ 64) : counted s (fbump s f n) f n := by
  simp only [counted, fget, fbump, rget_rset_same h, bumpField]
  rw [fieldOf_withField_same _ _ _ _ hf]
  have := Nat.two_pow_pos f.w
  exact Nat.mod_eq_of_lt (by omega)

/-- A counter leaves the fields that it does not overlap alone. -/
theorem fget_fbump_other (h : s.regsOk) (f g : FieldRef) (n : Nat) (hg : g.lo + g.w ≤ 64)
    (hfg : g.addr ≠ f.addr ∨ f.lo + f.w ≤ g.lo ∨ g.lo + g.w ≤ f.lo) : fget (fbump s f n) g = fget s g := by
  by_cases ha : g.addr = f.addr
  · simp only [fget, fbump, ha, rget_rset_same h, bumpField]
    exact fieldOf_withField_other _ _ _ _ _ _ hg (hfg.resolve_left fun h => h ha)
  · simp only [fget, rget_fbump_ne h n ha]

theorem writeRec_ann (s : State) (kind sev : Nat) (obj : Obj) (a0 a1 a2 : Nat) :
    (writeRec s kind sev obj a0 a1 a2).ann.lastSeq = s.ann.lastSeq + 1 ∧
      ∃ r, (writeRec s kind sev obj a0 a1 a2).ann.ring.head? = some r ∧ r.kind = kind ∧ r.sev = sev ∧ r.seq = s.ann.lastSeq + 1 ∧
        r.tick = s.clk.tick ∧ r.a0 = a0 % 2 ^ 64 ∧ r.a1 = a1 % 2 ^ 64 ∧ r.a2 = a2 % 2 ^ 64 := by
  simp only [writeRec]
  split <;> split <;> exact ⟨rfl, _, rfl, rfl, rfl, rfl, rfl, rfl, rfl, rfl⟩

/-- What the curator records stands recorded (R367, R369). -/
theorem annal_recorded (s : State) (kind sev : Nat) (obj : Obj) (a0 a1 a2 : Nat) :
    recorded s (annal s kind sev obj a0 a1 a2) kind sev a0 a1 a2 := by
  have hk : ∀ n, (kindCount s.ann kind).kind = kind → (kindCount { s.ann with counts := setCount s.ann { kindCount s.ann kind with held := n } } kind).held = n := by
    intro n h; simp [kindCount, setCount] at h ⊢; simp [h]
  have hkind : (kindCount s.ann kind).kind = kind := by
    simp only [kindCount]
    cases h : s.ann.counts.find? (fun c => c.kind == kind) with
    | none => rfl
    | some c => simpa using List.find?_some h
  simp only [recorded, annal]
  by_cases h3 : sev < 3
  · by_cases h100 : (kindCount s.ann kind).written < 100
    · rw [if_neg (by omega), if_pos h3, if_pos h100]
      exact writeRec_ann { s with ann := _ } kind sev obj a0 a1 a2
    · rw [if_pos ⟨h3, by omega⟩, if_pos h3, if_neg h100]
      exact ⟨rfl, rfl, hk _ hkind⟩
  · rw [if_neg (by omega), if_neg h3]
    exact writeRec_ann s kind sev obj a0 a1 a2

/-! ### Image results -/

/-- An image command's result shows its code and section, and its own TAG once echoed (R33). -/
theorem imgResult_shows (h : s.regsOk) (tag code serial sec : Nat) (ht : fget s Reg.CUR_IMG_STATUS.TAG = tag % 2 ^ 16) :
    imgShows (imgResult s code serial sec) tag code sec := by
  have h1 := regsOk_fset h Reg.CUR_IMG_STATUS.LAST_RESULT code
  have h2 := regsOk_fset h1 Reg.CUR_IMG_STATUS.FAIL_SECTION sec
  have h3 := regsOk_fset h2 Reg.CUR_IMG_STATUS.STATE (if code = 0 then imgDone else imgFailed)
  have e : ∀ f : FieldRef, f.addr = 0x1008 → fget (imgResult s code serial sec) f = fget (fset (fset (fset s
      Reg.CUR_IMG_STATUS.LAST_RESULT code) Reg.CUR_IMG_STATUS.FAIL_SECTION sec) Reg.CUR_IMG_STATUS.STATE
      (if code = 0 then imgDone else imgFailed)) f := by
    intro f hf
    simp only [imgResult, msix_fget]
    exact annal_fget h3 _ _ _ _ _ _ (by rw [hf]; decide)
  refine ⟨?_, ?_, ?_, ?_⟩ <;> rw [e _ rfl]
  · rw [fget_fset_same h2 _ _ (by decide)]; split <;> rfl
  · rw [fget_fset_other h2 _ _ _ (by decide) (by decide), fget_fset_other h1 _ _ _ (by decide) (by decide), fget_fset_same h _ _ (by decide)]; rfl
  · rw [fget_fset_other h2 _ _ _ (by decide) (by decide), fget_fset_same h1 _ _ (by decide)]; rfl
  · rw [fget_fset_other h2 _ _ _ (by decide) (by decide), fget_fset_other h1 _ _ _ (by decide) (by decide),
      fget_fset_other h _ _ _ (by decide) (by decide), ht]

end Sys2Proof.Machine
end
end

