-- ==== Sys2Proof/Tests/Slice0.lean ====
section
/-!
SUPPORT. Sys2Proof/Tests/Slice0.lean: small tests of one command each, by decide: ill-formed commands that WellFormed refuses, and for every
statement a concrete state and operands that meet its hypotheses (witness_…), most with what the spec gives for them.
Expected values are worked out by hand from the rules named; no test looks at a whole state.
-/
section
set_option Elab.async false
open Sys2Proof Sys2Proof.Machine
namespace Sys2Proof.Tests

/-! ### Ill-formed commands -/

theorem test_wf_hall : Instr.wf (.folioProgramStart 4) = false ∧ Instr.wf (.folioProgramStart 3) = true := by decide +kernel
theorem test_wf_shelf : Instr.wf (.nop 512) = false ∧ Instr.wf (.nop 511) = true := by decide +kernel
theorem test_wf_position : Instr.wf (.wearLevel 0 68) = false ∧ Instr.wf (.wearLevel 511 67) = true := by decide +kernel
theorem test_wf_port : Instr.wf (.retrain 24) = false ∧ Instr.wf (.retrain 23) = true := by decide +kernel
theorem test_wf_region : Instr.wf (.shardTimeout 16) = false ∧ Instr.wf (.shardTimeout 15) = true := by decide +kernel
theorem test_wf_stream : Instr.wf (.stallTimeout 1025) = false ∧ Instr.wf (.stallTimeout 1024) = true := by decide +kernel
theorem test_wf_sequence_number : Instr.wf (.accCommit (2 ^ 32)) = false ∧ Instr.wf (.accCommit (2 ^ 32 - 1)) = true := by decide +kernel
theorem test_wf_register_value : Instr.wf (.fsrRingEnable (2 ^ 64)) = false ∧ Instr.wf (.fsrRingEnable (2 ^ 64 - 1)) = true := by decide +kernel
theorem test_wf_access_width : Instr.wf (.alertClear 2 0) = false ∧ Instr.wf (.alertClear 4 (2 ^ 32)) = false ∧ Instr.wf (.alertClear 8 (2 ^ 32)) = true := by
  decide +kernel
theorem test_wf_offset : Instr.wf (.registerWrite false .pf0 2 4 0) = false ∧ Instr.wf (.registerWrite false .pf0 4 4 0) = true := by decide +kernel
theorem test_wf_function : Instr.wf (.busMasteringChange (.vf 1024) true) = false ∧ Instr.wf (.busMasteringChange (.vf 1023) true) = true := by decide +kernel
theorem test_wf_slot : Instr.wf (.monitorResult 3 16 ⟨0, []⟩) = false ∧ Instr.wf (.monitorResult 4 16 ⟨0, []⟩) = true ∧ Instr.wf (.monitorResult 5 0 ⟨0, []⟩) = false := by decide +kernel
theorem test_wf_tag : Instr.wf (.bind (2 ^ 16)) = false ∧ Instr.wf (.bind (2 ^ 16 - 1)) = true := by decide +kernel
theorem test_wf_packet_block : Instr.wf (.packetBlockWrite 0 false (2 ^ 20) [0]) = false ∧ Instr.wf (.packetBlockWrite 0 false (2 ^ 20 - 1) [0]) = true := by decide +kernel
theorem test_wf_mailbox_block : Instr.wf (.mailboxBlockWrite false 4096 [0]) = false ∧ Instr.wf (.mailboxBlockWrite false 4095 [0]) = true := by decide +kernel
theorem test_wf_step : Instr.wf (.marginWalk 0 0 [5]) = false ∧ Instr.wf (.marginWalk 0 0 [4]) = true := by decide +kernel
theorem test_wf_train_body : Instr.wf (.train 0 (List.replicate 65 0)) = false ∧ Instr.wf (.train 0 (List.replicate 64 0)) = true := by decide +kernel
theorem test_wf_ack : Instr.wf (.keepalive 0 4096 0 0) = false ∧ Instr.wf (.keepalive 0 4095 2 0) = true := by decide +kernel

/-! ### States to test on -/

/-- The module in Run with its input present, nothing stored. -/
def on : State := { State.reset with pst := { freshPowerSt with depth := 0, v44 := true, pwrGood := true } }

/-- Does a command on a state answer a next state that satisfies `p`? -/
def shows (i : Instr) (s : State) (p : State → Bool) : Bool := match exec i s with | .next t => p t | _ => false

/-- PORT_ROLES in standby mode, standalone. -/
def portsStandby : Bytes := [1, 0, 0, 1, 0, 1, 0xFF, 0]

/-- An image that differs from the plain one in the sections given. -/
def imageWith (bodies : List (Nat × Bytes)) : Image := { plainImage with plain := false, serial := 5, bodies := bodies }

/-- A REGIONS entry: id, layers, shelf mask. -/
def regionBytes (id layers mask : Nat) : Bytes := leBytes 1 id ++ [0] ++ leBytes 2 layers ++ leBytes 60 0 ++ leBytes 64 mask

/-- A CARREL_TABLE entry: enabled, class S, this region mask, 16 sessions, priority 8, 1 MiB of swap, 4 MiB of loans. -/
def carrelBytes (mask : Nat) : Bytes := leBytes 16 (1 + 8 * 2 ^ 4 + mask * 2 ^ 8 + 160 * 2 ^ 24 + 1 * 2 ^ 32 + 16 * 2 ^ 64 + 4 * 2 ^ 80)

/-- `s` with a bound image. -/
def bound (s : State) (i : Image) : State := { s with img := { s.img with bound := i } }

/-- One region of one layer on shelf 0, one used slot, one stage of 4 in and 512 out at 8 bits, static scale 1; carrels 0 and 1 may use it. -/
def tiny : Image := imageWith
  [ (1, regionBytes 0 1 1), (2, []), (3, leBytes 2 0 ++ [1] ++ leBytes 5 0 ++ leBytes 48 0 ++ leBytes 8 1), (4, [])
  , (5, [0, 0, 0, 1] ++ leBytes 4 0 ++ leBytes 8 0), (7, [0, 0, 0, 0, 8] ++ leBytes 3 0 ++ leBytes 4 0x3F800000 ++ leBytes 8 0 ++ leBytes 4 4 ++ leBytes 8 0), (9, carrelBytes 1 ++ carrelBytes 1) ]

/-- A committed package. -/
def package : Package :=
  { manifest := { digest := [1], keyId := [2], geometry := [], paired := false, bodyLen := 0, calibOff := 0, stages := 1, model := [], serial := 7, shards := [] }
    blocks := [], calib := [] }

/-- The module serving `tiny`: region 0 committed and ready, the intake up, the rings of carrel 0 and PF1 on at 64 records, links up. -/
def serving : State :=
  rset (rset (fset { bound on tiny with
    acc := [(0, { freshAcc with package := some package, offline := false, ready := true, archive := true })]
    hst := { on.hst with linkA := true, linkB := true, master := [.pf0, .pf1, .pf2, .vf 0, .vf 1] } } Reg.RST_STATUS.INTAKE 1)
    (Reg.CAR_RING_CTRL.ENABLE 0).addr 0x601) (Reg.CAR_RING_CTRL.ENABLE 1024).addr 0x601

/-- A command as the intake holds it. -/
def cmd (c seq op : Nat) (ph : Phase) (body : Bytes) : Cmd :=
  { stream := c, seq := seq, tag := 0x77, op := op, irq := false, body := body, phase := ph, status := 0, flags := 0, count := 0, value := 0, pass := 0
    entries := [], passesLeft := 0, aborted := false, abortedBy := [], fetched := [], age := 0, skip := [], closed := none }

/-- `s` with one more command, or one more session. -/
def withCmd (s : State) (k : Cmd) : State := { s with itk := { s.itk with cmds := s.itk.cmds ++ [k] } }
def withSession (s : State) (x : Session) : State := { s with kv := { s.kv with sessions := s.kv.sessions ++ [x] } }

/-- A resident, empty session of region 0. -/
def sess (h : Nat) : Session := newSession h (leBytes 32 0)

/-- What a finished command shows. -/
def ended (t : State) (c seq status value : Nat) : Bool :=
  (findCmd t c seq).any fun k => k.phase == .finished && k.status == status && k.value == value

/-! ### Structure images -/

/-- With an anchor held and 4 KiB to fetch. -/
def anchored : State :=
  { rset on Reg.CUR_IMG_LEN.LEN.addr 4096 with img := { on.img with store := { on.img.store with anchor := some (0, []) } } }

/-- With an image of serial 3 in the pending slot, not one that would pass a check. -/
def pendingThree : State :=
  { on with img := { on.img with store := { on.img.store with slot0 := some (leBytes 24 0 ++ leBytes 8 3 ++ leBytes 300 0) } } }

/-- With a bind that waits for its quiesce. -/
def binding : State := { fset on Reg.CUR_IMG_STATUS.STATE 4 with img := { on.img with op := some ⟨imageWith [], [], [], false⟩ } }

theorem witness_StoreFillsThePendingSlot : on.regsOk ∧ imgReady on ∧ on.img.store.anchor = none ∧ anchored.regsOk ∧ imgReady anchored ∧
    anchored.img.store.anchor = some (0, []) ∧ (List.replicate 4096 (0 : Byte)).length = fget anchored Reg.CUR_IMG_LEN.LEN ∧
    (List.replicate 4096 (0 : Byte)).length % 4096 = 0 := by
  simp only [State.regsOk, imgReady, List.length_replicate]; decide +kernel
/-- R30: no anchor is result 0x07. -/
theorem test_store_no_anchor : shows (.store 9 .error true) on (fun t => fget t Reg.CUR_IMG_STATUS.LAST_RESULT == 7 && fget t Reg.CUR_IMG_STATUS.TAG == 9) = true := by
  decide +kernel
/-- R30 step 1: a length that is no multiple of 4,096 is SIZE. -/
theorem test_store_size : shows (.store 9 (.data [0]) true) (rset anchored Reg.CUR_IMG_LEN.LEN.addr 1) (fun t => fget t Reg.CUR_IMG_STATUS.LAST_RESULT == 3) = true := by decide +kernel
theorem witness_ImageStoreCommands : on.regsOk ∧ imgReady on ∧ on.img.bound.plain = true ∧ (bound on (imageWith [])).img.bound.plain = false ∧
    (bound on (imageWith [])).img.store.floor ≤ (bound on (imageWith [])).img.bound.serial ∧ (bound on (imageWith [])).regsOk ∧
    imgReady (bound on (imageWith [])) := by
  simp only [State.regsOk, imgReady]; decide +kernel
theorem test_discard : shows (.discard 5) on (fun t => fget t Reg.CUR_IMG_STATUS.STATE == 8 && fget t Reg.CUR_IMG_STATUS.TAG == 5) = true := by decide +kernel
theorem test_raise_floor_plain : shows (.raiseFloor 5 true) on (fun t => fget t Reg.CUR_IMG_STATUS.LAST_RESULT == 0x11 && t.img.store.floor == 0) = true := by decide +kernel
theorem test_raise_floor : shows (.raiseFloor 5 true) (bound on (imageWith [])) (fun t => t.img.store.floor == 5 && fget t Reg.CUR_IMG_FLOOR.FLOOR == 5) = true := by
  decide +kernel
theorem test_enrol_second_anchor : shows (.enrolAnchor 5 .error true) anchored (fun t => fget t Reg.CUR_IMG_STATUS.LAST_RESULT == 7) = true := by decide +kernel
theorem witness_BindStartsItsQuiesce : on.regsOk ∧ unpowered on = false ∧ imgBusy on = false ∧ on.img.store.former = false ∧
    imgBusy binding = true ∧ binding.regsOk ∧
    ({ on with img := { on.img with store := { on.img.store with former := true } } }).img.store.former = true := by
  simp only [State.regsOk]; decide +kernel
theorem test_bind_no_pending : shows (.bind 1) on (fun t => fget t Reg.CUR_IMG_STATUS.LAST_RESULT == 0x0E && fget t Reg.CUR_IMG_STATUS.STATE == 9) = true := by decide +kernel
theorem test_revert_no_former : shows (.revert 1) pendingThree (fun t => fget t Reg.CUR_IMG_STATUS.LAST_RESULT == 0x0E) = true := by decide +kernel
theorem test_bind_busy : shows (.bind 1) binding (fun t => fget t Reg.CUR_IMG_STATUS.LAST_RESULT == 1 && t.img.op.isSome) = true := by decide +kernel
theorem witness_BindEnds : binding.regsOk ∧ binding.img.op = some ⟨imageWith [], [], [], false⟩ ∧ binding.run.live = [] ∧ on.img.op = none := by
  simp only [State.regsOk]; decide +kernel
theorem test_quiesce_timeout : shows .quiesceTimeout binding (fun t => fget t Reg.CUR_IMG_STATUS.LAST_RESULT == 0x0C && t.img.op.isNone) = true := by decide +kernel
theorem test_bind_verify : shows (.bindQuiesceDone false true) binding (fun t => fget t Reg.CUR_IMG_STATUS.LAST_RESULT == 0x0D && t.img.bound.plain) = true := by decide +kernel

/-! ### Registers and annals -/

/-- Asleep: nothing but the always-on domain is ready. -/
def asleepState : State := { fset on Reg.PST_STATUS.STATE 3 with pst := { on.pst with depth := 3 } }
def idleState : State := { fset on Reg.PST_STATUS.STATE 1 with pst := { on.pst with depth := 1 } }

theorem witness_RegisterWriteFollowsTheMap : on.regsOk ∧ unpowered on = false ∧ on.pst.depth ≠ 1 ∧ standbyPort on false = false ∧
    domainReady on (domainOf .pf0 0x1000) = true ∧ msixKey .pf0 0x109020 = none ∧ 0x109020 % 8 = 0 ∧ barAddr .pf0 0x109020 = some 0x109020 ∧
    (regAt 0x109020).isSome = true ∧
    ((regAt 0x109038).map fun d => wholeIgnored on 0x109038 0 d.fields) = ((regAt 0x109038).map fun _ => false) := by
  simp only [State.regsOk]; decide +kernel
/-- Table 17-2, R364: SLOT and DIE of MON.SEL are RW and take the value; an RW register of the curator through the map. -/
theorem test_register_write : shows (.registerWrite false .pf0 0x201000 8 0x205) on (fun t => fget t Reg.MON_SEL.DIE == 2 && fget t Reg.MON_SEL.SLOT == 5 &&
    t.ann.lastSeq == 0) = true := by decide +kernel
theorem witness_IgnoredRegisterWrites : on.regsOk ∧ on.pst.depth ≠ 1 ∧ domainReady on (domainOf .pf0 0) = true ∧ ¬ (2 = 4 ∨ (2 : Nat) = 8) ∧
    barAddr .pf0 0x8 = some 0x8 ∧ standbyPort (bound on (imageWith [(0xA, portsStandby)])) true = true ∧ regAt 0x18 = none := by
  simp only [State.regsOk]; decide +kernel
theorem test_ignored_write : shows (.registerWrite false .pf0 0x18 8 7) on (fun t => t.regs.length == 1 && t.ann.lastSeq == 1 &&
    ((t.ann.ring.head?.map fun r => (r.kind, r.sev, r.a0)) == some (0x0C00, 1, 0x18))) = true := by decide +kernel
theorem witness_RegisterWritesElsewhere : on.regsOk ∧ unpowered on = false ∧ standbyPort on false = false ∧ on.pst.depth = 0 ∧
    fget on (Reg.TSX_CTRL.ENABLE 23) = 0 ∧ domainReady asleepState (domainOf .pf0 0x300000) = false ∧ idleState.pst.depth = 1 ∧
    4 ≤ domainOf .pf0 0x300000 ∧ (msixKey (.vf 3) 0x20000).isSome = (msixKey (.vf 3) 0x20000).isSome := by
  simp only [State.regsOk]; decide +kernel
theorem test_port_enable : shows (.registerWrite false .pf0 (Reg.TSX_CTRL.ENABLE 23).addr 8 1) on (fun t => fget t (Reg.TSX_STATUS.STATE 23) == 1) = true := by decide +kernel
theorem test_held_write : shows (.registerWrite false .pf0 0x300000 8 1) asleepState (fun t => t.pst.writes == [(.pf0, 0x300000, leBytes 8 1)]) = true := by decide +kernel
theorem witness_CapWriteSetsTheLimits : on.regsOk ∧ unpowered on = false ∧ (standbyMode on && false) = false ∧ on.pwr.excursion = none ∧
    ({ on with pwr := { on.pwr with excursion := some 0 } }).pwr.excursion ≠ none := by
  simp only [State.regsOk]; decide +kernel
/-- R331: 3,000 is the least CAP_DW and 400 the greatest ILIM_DA; 2,999 and 401 are refused and the rest of the write counts. -/
theorem test_cap_write : shows (.capWrite false 8 (3000 + 401 * 2 ^ 16)) on (fun t => fget t Reg.PWR_CAP.CAP_DW == 3000 && fget t Reg.PWR_CAP.ILIM_DA == 400 &&
    t.ann.lastSeq == 1) = true := by decide +kernel
theorem test_cap_write_low : shows (.capWrite false 8 (2999 + 100 * 2 ^ 16)) on (fun t => fget t Reg.PWR_CAP.CAP_DW == 9000 && fget t Reg.PWR_CAP.ILIM_DA == 100) = true := by
  decide +kernel
theorem witness_AnnalsRecordRises : on.regsOk ∧ (annal on 0x0C00 1 {} 1 2 3).ann.lastSeq ≠ on.ann.lastSeq ∧ on.ann.ring.length < ringSize ∧
    (let s := { on with ann := { on.ann with counts := [{ kind := 7, written := 100, held := 0 }] } }
     s.regsOk ∧ (annal s 7 2 {} 0 0 0).ann.lastSeq = s.ann.lastSeq) := by
  simp only [State.regsOk]; decide +kernel
/-- R369: the 101st record of a kind in a second is only counted; an ERROR never is. -/
theorem test_annals_rate : (let s := { on with ann := { on.ann with counts := [{ kind := 7, written := 100, held := 0 }] } }
    (annal s 7 2 {} 0 0 0).ann.lastSeq = 0 ∧ fget (annal s 7 2 {} 0 0 0) Reg.ANN_DROPPED.COUNT = 1 ∧ (annal s 7 3 {} 0 0 0).ann.lastSeq = 1) := by decide +kernel

/-- One record in the ring, not yet durable. -/
def oneRecord : State := annal on 0x0500 2 {} 1 2 3

theorem witness_AnnalsFlushAndAlertClear : on.regsOk ∧ unpowered on = false ∧ on.ann.ring = [] ∧ oneRecord.regsOk ∧ (512 : Nat).testBit 9 = true ∧
    (256 : Nat).testBit 8 = true ∧ oneRecord.ann.ring.length = 1 ∧ durableSeq oneRecord < 1 ∧
    oneRecord.cur.durable.length + oneRecord.ann.ring.length ≤ areaRecords := by
  simp only [State.regsOk]; decide +kernel
theorem test_annals_flush : shows (.annalsFlush true) oneRecord (fun t => durableSeq t == 1 && t.cur.durable.length == 1) = true := by decide +kernel
theorem test_flush_bit : shows (.flush 8 512 true) oneRecord (fun t => durableSeq t == 1) = true ∧ shows (.flush 8 0 true) oneRecord (fun t => durableSeq t == 0) = true := by
  decide +kernel
theorem test_alert_clear : shows (.alertClear 8 256) (fset on Reg.ANN_CTRL.ALERT 1) (fun t => fget t Reg.ANN_CTRL.ALERT == 0) = true := by decide +kernel
theorem witness_PeriodicCounts : on.regsOk ∧ unpowered on = false ∧ asleep on = false ∧ swf (fun _ => (0 : Nat)) on.pwr.hours = true ∧
    swf (fun _ => (0 : Nat)) on.pwr.guardUv = true := by
  simp only [State.regsOk]; decide +kernel
theorem test_rate_drop_record : shows .annalsRateSecond { on with ann := { on.ann with counts := [{ kind := 7, written := 100, held := 3 }] } }
    (fun t => ((t.ann.ring.head?.map fun r => (r.kind, r.a0, r.a1)) == some (3, 7, 3)) && t.ann.flagged.elem 7) = true := by decide +kernel
theorem test_hour_count : shows .hourCount on (fun t => sget (fun _ => 0) t.pwr.hours 4 == 1) = true := by decide +kernel
theorem test_token_refill : shows .attestTokenRefill on (fun t => t.cur.sig.tokens == 16) = true := by decide +kernel

/-! ### Resets, bring-up, rails -/

/-- In a reset that the boot has not ended, the standby rail and the input present. -/
def inReset : State := { State.reset with pst := { freshPowerSt with inReset := true, v44 := true } }

/-- As after a package was activated for a trial in slot B. -/
def trialNext : State := { inReset with cur := { inReset.cur with fw := { inReset.cur.fw with slotB := some { svn := 2, digest := [], confirmed := false }, nextSlot := 1, nextTrial := true } } }

theorem witness_ResetsLoseAndKeep : on.regsOk ∧ on.carrelsOk ∧ unpowered on = false ∧ standbyPort on false = false ∧ nbits (0xD5E7 * 2 ^ 48 + 1) 48 16 = 0xD5E7 ∧
    nbits (0xD5E7 * 2 ^ 48 + 1) 0 4 = 1 ∧ on.pst.v44 = true ∧ on.pst.vstby = true ∧
    ({ on with cur := { on.cur with fw := { on.cur.fw with trial := true } } }).cur.fw.trial = true := by
  simp only [State.regsOk, State.carrelsOk]; decide +kernel
theorem test_device_reset : shows (.deviceReset false 8 (0xD5E7 * 2 ^ 48 + 1)) on (fun t => unpowered t && t.pst.inReset && t.pst.cause == 3) = true := by decide +kernel
theorem test_sideband_reset : shows (.sidebandReset 0xD5) on (fun t => t.pst.inReset && t.pst.cause == 4) = true := by decide +kernel
theorem test_trial_timeout : shows .trialConfirmTimeout { on with cur := { on.cur with fw := { on.cur.fw with trial := true } } } (fun t => t.pst.cause == 5) = true := by decide +kernel
theorem test_concourse_pll_loss : shows (.pllLockLoss 4 0) on (fun t => t.pst.inReset && t.pst.cause == 6) = true := by decide +kernel
/-- R418: a second trip within ten minutes locks the module out. -/
theorem test_second_thermal_trip : shows .thermalTrip { on with pst := { on.pst with tripAt := [0] } } (fun t => t.pst.lockout && !t.pst.inReset) = true ∧
    shows .thermalTrip on (fun t => t.pst.thermTrip && t.pst.inReset && !t.pst.lockout) = true := by decide +kernel
theorem test_undervoltage : shows .v44Undervoltage on (fun t => unpowered t && !t.pst.v44 && t.pst.cause == 1) = true := by decide +kernel
theorem test_overvoltage : shows .v44Overvoltage on (fun t => unpowered t && !t.pst.v44) = true := by decide +kernel
theorem test_standby_loss : shows .standbyLoss on (fun t => unpowered t && !t.pst.vstby && t.clk.tick == 0) = true := by decide +kernel
theorem witness_ResetsNotActing : on.regsOk ∧ unpowered on = false ∧ (4 : Nat) ≠ 8 ∧ (0 : Nat) ≠ 0xD5 ∧
    ({ on with pst := { on.pst with vstby := false } }).pst.vstby = false := by
  simp only [State.regsOk]; decide +kernel
theorem test_reset_wrong_key : shows (.deviceReset false 8 1) on (fun t => !unpowered t && t.ann.lastSeq == 1) = true := by decide +kernel
theorem test_standby_reset : shows .standbyReset { on with pst := { on.pst with vstby := false, wakeN := true }, clk := { on.clk with aon := 99 } }
    (fun t => t.pst.vstby && t.clk.aon == 0 && !t.pst.wakeN) = true := by decide +kernel
theorem witness_BringUpEndsInRun : inReset.regsOk ∧ inReset.carrelsOk ∧ mayBoot inReset = true ∧ fwSelect inReset.cur.fw = some 0 ∧
    mayBoot trialNext = true ∧ fwSelect trialNext.cur.fw = some 1 ∧ trialNext.cur.fw.nextTrial = true ∧ 1 = trialNext.cur.fw.nextSlot ∧
    fwSelect { inReset.cur.fw with slotA := none } = none ∧
    (let s := { inReset with pst := { inReset.pst with thermTrip := true } }
     s.pst.thermTrip = true ∧ mayBoot { s with pst := { s.pst with thermTrip := false } } = true) := by
  simp only [State.regsOk, State.carrelsOk]; decide +kernel
theorem test_boot_failed_trial : shows (.powerOnBoot 40 [] (some false)) trialNext (fun t => unpowered t && t.pst.cause == 5 && t.cur.fw.nextSlot == 0) = true := by decide +kernel
theorem test_trip_hold_release : shows (.tripHoldRelease 40 [] (some false)) { trialNext with pst := { trialNext.pst with thermTrip := true } }
    (fun t => !t.pst.thermTrip && t.pst.cause == 5) = true := by decide +kernel
theorem test_boot_recovery : shows (.powerOnBoot 40 [] none) { inReset with cur := { inReset.cur with fw := { inReset.cur.fw with slotA := none } } }
    (fun t => t.cur.fw.recovery && !unpowered t && t.clk.boots == 1) = true := by decide +kernel
theorem witness_HallLosesAndRegainsLock : on.regsOk ∧ unpowered on = false ∧ (3 : Nat) < 4 ∧ swf (fun _ => freshHall) on.pwr.halls = true ∧
    (let s := { on with pwr := { on.pwr with halls := [(3, { freshHall with gated := true })] } }
     s.regsOk ∧ swf (fun _ => freshHall) s.pwr.halls = true ∧ (hallPower s 3).gated = true) := by
  simp only [State.regsOk]; decide +kernel
theorem test_hall_pll_loss : shows (.pllLockLoss 3 1) on (fun t => (hallPower t 3).gated && (hallPower t 3).pll == 1 && fget t Reg.CLK_LOCK_EVENTS.COUNT == 1) = true := by decide +kernel
theorem test_hall_relock : shows (.hallRelockDone 3) { on with pwr := { on.pwr with halls := [(3, { freshHall with gated := true })] } }
    (fun t => !(hallPower t 3).gated && (fget t Reg.CLK_STATUS.FABRIC_LOCK).testBit 3) = true := by decide +kernel

/-! ### Ports -/

/-- Both ports up, all three physical functions with bus mastering. -/
def linked : State := { on with hst := { on.hst with linkA := true, linkB := true, master := [.pf0, .pf1, .pf2, .vf 0] } }
/-- The same in standby mode. -/
def standby : State := bound linked (imageWith [(0xA, portsStandby)])

theorem witness_PortsFailAndReturn : linked.regsOk ∧ unpowered linked = false ∧ linkUp linked false = true ∧ linkUp linked true = true ∧
    standbyMode linked = false ∧ standby.regsOk ∧ standbyMode standby = true ∧ linkUp standby true = true ∧ linkUp on false = false ∧ linkUp on true = false ∧
    linked.hst.bulkToPf1 = false ∧ ({ standby with hst := { standby.hst with lostAt := some 5 } }).hst.lostAt ≠ none := by
  simp only [State.regsOk]; decide +kernel
theorem test_port_b_loss : shows (.portLinkLoss true) linked (fun t => !t.hst.linkB && t.hst.bulkToPf1 && fget t Reg.INT_BULK_STATUS.FALLBACKS == 1 &&
    !t.hst.master.elem .pf2) = true := by decide +kernel
theorem test_port_up : shows (.portLinkUp true) on (fun t => t.hst.linkB && fget t Reg.INT_PORT_STATUS.LINK_B == 1) = true := by decide +kernel
theorem test_takeover : shows .standbyTakeover { standby with hst := { standby.hst with lostAt := some 5 } } (fun t => fget t Reg.INT_PORT_STATUS.ACTIVE == 1 &&
    t.hst.lostAt.isNone) = true := by decide +kernel
theorem test_bus_mastering : shows (.busMasteringChange (.vf 7) true) on (fun t => t.hst.master.elem (.vf 7)) = true ∧
    shows (.busMasteringChange (.vf 0) false) linked (fun t => !t.hst.master.elem (.vf 0)) = true := by decide +kernel
theorem witness_FunctionLevelResets : linked.regsOk ∧ unpowered linked = false ∧ swf (fun _ => freshStream) linked.itk.streams = true ∧
    swf msixReset linked.hst.msixTab = true ∧ (1023 : Nat) < 1024 ∧ standbyMode standby = true := by
  simp only [State.regsOk]; decide +kernel
theorem test_flr_vf : shows (.functionLevelResetVf 0) linked (fun t => !t.hst.master.elem (.vf 0) && t.hst.master.elem .pf0) = true := by decide +kernel
theorem test_flr_pf0 : shows .functionLevelResetPf0 (fset linked Reg.CUR_MBX_STATUS.EXPECTED_SEQ 9) (fun t => fget t Reg.CUR_MBX_STATUS.EXPECTED_SEQ == 0) = true := by decide +kernel
theorem test_flr_pf1 : shows .functionLevelResetPf1 linked (fun t => !t.hst.master.elem .pf1) = true := by decide +kernel
theorem test_flr_pf2 : shows .functionLevelResetPf2 linked (fun t => t.hst.bulkToPf1) = true := by decide +kernel

/-! ### Power states -/

theorem witness_LowStatesAreEntered : on.regsOk ∧ on.pst.depth = 0 ∧ on.run.live = [] ∧ anyPacket on = false ∧ backgroundRuns on = false ∧
    fget on Reg.PST_STATUS.STATE ≤ 1 ∧ sleepCheck on = 0 ∧ asleepState.regsOk ∧ unpowered asleepState = false ∧ 1 < fget asleepState Reg.PST_STATUS.STATE ∧
    sleepCheck binding ≠ 0 ∧ (∀ n < 24, fget on (Reg.TSX_CTRL.ENABLE n) = 0) ∧
    (let s := fset idleState Reg.PST_CTRL.AUTO_SLEEP_MS 1
     s.regsOk ∧ s.pst.depth = 1 ∧ fget s Reg.PST_CTRL.AUTO_SLEEP_MS ≠ 0 ∧ sleepCheck s = 0) := by
  simp only [State.regsOk]; decide +kernel
theorem test_idle : shows .idleEntry on (fun t => t.pst.depth == 1 && fget t Reg.PST_STATUS.STATE == 1) = true := by decide +kernel
theorem test_sleep : shows (.sleep true none) on (fun t => t.pst.depth == 2 && fget t Reg.PST_STATUS.STATE == 2 && fget t Reg.PST_STATUS.LAST_RESULT == 0) = true := by decide +kernel
theorem test_deep_sleep : shows (.deepSleep true none) on (fun t => t.pst.depth == 3) = true ∧
    shows (.deepSleep true none) asleepState (fun t => fget t Reg.PST_STATUS.LAST_RESULT == 5) = true := by decide +kernel
theorem test_power_off : shows (.powerOff true none) on (fun t => unpowered t && t.pst.cause == 2) = true := by decide +kernel
theorem test_auto_sleep : shows (.autoSleep true none) (fset idleState Reg.PST_CTRL.AUTO_SLEEP_MS 1) (fun t => t.pst.depth == 2) = true := by decide +kernel
theorem witness_WakeWinsOverEntry : on.regsOk ∧ unpowered on = false ∧ fget on Reg.PST_STATUS.STATE ≤ 1 ∧ sleepCheck on = 0 ∧ (15 : Nat) < 16 ∧
    ∀ n < 24, portUsed on n = false := by
  simp only [State.regsOk]; decide +kernel
theorem test_woken : shows (.sleep true (some (1, 5))) on (fun t => t.pst.depth == 0 && fget t Reg.PST_STATUS.LAST_RESULT == 5 && fget t Reg.PST_STATUS.WAKE_SRC == 5) = true := by
  decide +kernel
theorem witness_WakeEventsWake : asleepState.regsOk ∧ asleepState.pst.depth = 3 ∧ fget asleepState Reg.PST_STATUS.STATE = 3 ∧ asleepState.pst.awake = [] ∧
    asleepState.pst.waking = [] ∧
    (let s := fset asleepState Reg.PST_SB_CTRL.WAKE_EN 1
     s.regsOk ∧ fget s Reg.PST_SB_CTRL.WAKE_EN ≠ 0 ∧ fget s Reg.PST_STATUS.STATE = 3) ∧
    (let s := { asleepState with pst := { asleepState.pst with reads := [{ standby := false, fn := .pf0, off := 0, width := 4, domain := 1, found := 3 }], waking := [2] } }
     s.pst.reads ≠ [] ∧ s.pst.waking = [2] ∧ (∀ w ∈ s.pst.writes, accessDomain w.1 w.2.1 ≠ 2) ∧ ∀ r ∈ s.pst.reads, r.domain ≠ 2) ∧
    unpowered State.reset = true ∧ State.reset.pst.inReset = false ∧ State.reset.pst.vstby = true ∧
    fget (fset on Reg.PST_SB_CTRL.WAKE_EN 0) Reg.PST_SB_CTRL.WAKE_EN = 0 := by
  simp only [State.regsOk]; decide +kernel
theorem test_wake_n : shows .wakeNAssert asleepState (fun t => t.pst.waking == [1] && fget t Reg.PST_STATUS.STATE == 5 && fget t Reg.PST_STATUS.WAKE_SRC == 5) = true ∧
    shows .wakeNAssert State.reset (fun t => t.pst.wakeN && t.pst.wakeSrc == 5) = true := by decide +kernel
theorem test_wake_bar_read : shows (.wakeEvent 1 false .pf0 0x400000 8) asleepState (fun t => t.pst.waking == [1, 4] && t.pst.reads.length == 1) = true := by decide +kernel
theorem test_sideband_match : shows (.sidebandAddressMatch (fget asleepState Reg.PST_SB_CTRL.ADDR)) (fset asleepState Reg.PST_SB_CTRL.WAKE_EN 1)
    (fun t => t.pst.waking == [1, 2]) = true := by decide +kernel
theorem test_read_hold_expiry : shows .readHoldExpiry { asleepState with pst := { asleepState.pst with
      reads := [{ standby := false, fn := .pf0, off := 8, width := 4, domain := 1, found := 3 }] } }
    (fun t => t.out.reads == [(.pf0, 8, [255, 255, 255, 255])] && t.pst.reads.isEmpty && fget t Reg.PST_STATS.EARLY_READS == 1) = true := by decide +kernel
theorem test_domain_ready : shows (.wakeDomainReady 2) { asleepState with pst := { asleepState.pst with waking := [2] } }
    (fun t => domainReady t 2 && fget t Reg.PST_STATUS.STATE == 0 && t.pst.depth == 3) = true := by decide +kernel

/-! ### Intake -/

/-- A FENCE packet of one block for stream 0 with sequence number 0, its CRC-32C (worked out outside) at its end. -/
def fencePacket : Bytes :=
  let p := leBytes 2 1 ++ [0x0D, 0] ++ leBytes 4 0 ++ leBytes 4 0x77 ++ leBytes 4 0 ++ leBytes 44 0
  p ++ leBytes 4 (crc32c p)
/-- The same with a wrong CRC. -/
def badPacket : Bytes := leBytes 2 1 ++ [0x0D, 0] ++ leBytes 4 0 ++ leBytes 4 0x77 ++ leBytes 48 0 ++ leBytes 4 1

/-- Stream 0 halted. -/
def haltedZero : State := modStream serving 0 fun x => { x with halted := true }

theorem witness_PacketIsConsumedOrHalts : serving.regsOk ∧ swf (fun _ => freshStream) serving.itk.streams = true ∧ unpowered serving = false ∧
    serving.pst.depth = 0 ∧ streamState serving 0 = 1 ∧ streamEnabled serving 0 = true ∧ (streamOf serving 0).blocks = [] ∧
    streamState serving 1024 = 1 ∧ outstanding serving 0 < queueLimit 0 ∧ fencePacket.length = 64 * 1 ∧ rd fencePacket 0 2 = 1 ∧ badPacket.length = 64 ∧
    fget serving (Reg.INT_STATUS.NEXT_OFFSET 0) % 64 = 0 ∧ framingFault serving 0 fencePacket = none ∧ (framingFault serving 0 badPacket).isSome = true := by
  simp only [State.regsOk]; decide +kernel
/-- R270, R271: the packet is consumed and the next one belongs at 0x40 with sequence number 1. -/
theorem test_packet : shows (.packetBlockWrite 0 false 0 fencePacket) serving (fun t => t.itk.cmds.length == 1 && fget t (Reg.INT_STATUS.NEXT_OFFSET 0) == 64 &&
    fget t (Reg.INT_STATUS.EXPECTED_SEQ 0) == 1) = true := by decide +kernel
theorem test_bad_packet : shows (.packetBlockWrite 0 false 0 badPacket) serving (fun t => t.itk.cmds.isEmpty && streamState t 0 == 2 &&
    fget t (Reg.INT_STATUS.HALT_REASON 0) == haltCrc) = true := by decide +kernel
theorem witness_ApertureWritesWait : serving.regsOk ∧ unpowered serving = false ∧ serving.pst.depth = 0 ∧ intakeUp serving = true ∧ streamEnabled serving 0 = true ∧
    (streamOf serving 0).halted = false ∧ packetComplete (modStream serving 0 fun x => { x with blocks := putBytes x.blocks 0 (fencePacket.take 32) }) 0 = false ∧
    (streamOf haltedZero 0).halted = true ∧ standbyMode standby = true ∧ unpowered standby = false := by
  simp only [State.regsOk]; decide +kernel
theorem witness_StreamEvents : serving.regsOk ∧ swf (fun _ => freshStream) serving.itk.streams = true ∧
    (let s := modStream serving 0 fun x => { x with blocks := putBytes x.blocks 64 fencePacket }
     s.regsOk ∧ swf (fun _ => freshStream) s.itk.streams = true ∧ streamState s 0 = 1 ∧ packetOpen s 0 = true) ∧
    haltedZero.regsOk ∧ swf (fun _ => freshStream) haltedZero.itk.streams = true ∧ (streamOf haltedZero 0).halted = true ∧ nbits (3 * 2 ^ 32 + 128) 0 20 % 64 = 0 ∧
    unpowered serving = false ∧ intakeUp serving = true ∧ ringOn serving 1 = false ∧ packetComplete serving 1 = false ∧ ringOn serving 0 = true ∧
    6 ≤ fget serving (Reg.CAR_RING_CTRL.LOG2_RECORDS 0) ∧ fget serving (Reg.CAR_RING_CTRL.LOG2_RECORDS 0) ≤ 16 ∧
    0 < (streamOf (modStream serving 0 fun x => { x with unsignalled := 1 }) 0).unsignalled := by
  simp only [State.regsOk]; decide +kernel
theorem test_stall : shows (.stallTimeout 0) (modStream serving 0 fun x => { x with blocks := putBytes x.blocks 64 fencePacket })
    (fun t => streamState t 0 == 2 && fget t (Reg.INT_STATUS.HALT_REASON 0) == haltStall && (streamOf t 0).blocks.isEmpty) = true := by decide +kernel
theorem test_resync : shows (.resync 0 false (3 * 2 ^ 32 + 128)) haltedZero (fun t => streamState t 0 == 1 && fget t (Reg.INT_STATUS.EXPECTED_SEQ 0) == 3 &&
    fget t (Reg.INT_STATUS.NEXT_OFFSET 0) == 128) = true ∧
    shows (.resync 0 false 0) serving (fun t => t.ann.lastSeq == 1) = true := by decide +kernel
theorem test_ring_enable : shows (.ringEnable 1 false 0x601) serving (fun t => ringOn t 1 && ringRecords t 1 == 64) = true ∧
    shows (.ringEnable 0 false 0x600) (withCmd serving (cmd 0 0 0x0D .waiting [])) (fun t => ringOn t 0 && t.ann.lastSeq == 1) = true := by decide +kernel
theorem test_moderation_timeout : shows (.irqModerationTimeout 0) (modStream { serving with hst := { serving.hst with msixTab := [(1, 0)] } } 0 fun x => { x with unsignalled := 1 })
    (fun t => t.out.msix == [(.vf 0, 0)] && (streamOf t 0).unsignalled == 0) = true := by decide +kernel

/-- A waiting SESSION_OPEN from carrel 0, and a FENCE behind it. -/
def openWaiting : State := withCmd serving (cmd 0 3 0x01 .waiting (leBytes 8 0 ++ leBytes 4 0x3F800000 ++ leBytes 20 0))
def fenceWaiting : State := withCmd serving (cmd 0 4 0x0D .waiting [])

theorem witness_CommandsBeginInOrder : (nextCmd openWaiting).isSome = true ∧ nextCmd serving = none ∧
    (nextCmd openWaiting).all (fun k => findCmd openWaiting k.stream k.seq == some k) = true ∧
    (findCmd fenceWaiting 0 4).any (fun k => k.phase == .waiting && k.op == 0x0D) = true ∧ earlierSealed 0 4 fenceWaiting.itk.cmds = true ∧
    earlierSealed 0 4 (withCmd openWaiting (cmd 0 4 0x0D .waiting [])).itk.cmds = false := by decide +kernel
theorem test_command_begin : shows .commandBegin openWaiting (fun t => (findCmd t 0 3).any fun k => k.phase == .begun) = true := by decide +kernel
theorem test_fence : shows (.fenceCmd 0 4) fenceWaiting (fun t => ended t 0 4 0 0) = true ∧
    shows (.fenceCmd 0 4) (withCmd openWaiting (cmd 0 4 0x0D .waiting [])) (fun t => !ended t 0 4 0 0) = true := by decide +kernel
theorem witness_SealWritesTheRecord : (let s := withCmd serving (cmd 0 3 0x0D .finished [])
    s.regsOk ∧ swf (fun _ => freshStream) s.itk.streams = true ∧ (findCmd s 0 3).any (fun k => k.phase == .finished && k.abortedBy.isEmpty) = true ∧
      packetComplete s 0 = false ∧ ringOn s 0 = true ∧ ringOn s 1 = false ∧ fnUp s (streamFn 0) = true) ∧
    (let s := withCmd (withCmd serving { cmd 0 3 0x0D .finished [] with abortedBy := [5] }) (cmd 0 5 0x0C .begun [])
     (findCmd s 0 3).any (fun k => k.abortedBy == [5]) = true ∧ (findCmd s 0 5).isSome = true) := by
  simp only [State.regsOk]; decide +kernel
/-- R281: a record of 32 bytes at ring base + 64, its TAG first; no command is outstanding. -/
theorem test_seal : shows (.commandSeal 0 3) (withCmd serving (cmd 0 3 0x0D .finished [])) (fun t => outstanding t 0 == 0 &&
    t.out.dma.any fun d => d.addr == 64 && d.bytes.length == 32 && rd d.bytes 0 4 == 0x77) = true := by decide +kernel

/-- An ABORT of command 3, which waits. -/
def abortWaiting : State := withCmd openWaiting (cmd 0 5 0x0C .waiting (leBytes 8 3))

theorem witness_AbortStopsItsTarget : (findCmd abortWaiting 0 5).any (fun k => k.phase == .waiting && k.op == 0x0C && rd k.body 0 4 == 3) = true ∧
    (abortTarget abortWaiting 0 3).any (fun k => findCmd abortWaiting 0 3 == some k && decide (k.op < 0x20) && k.phase == .waiting && !passInFlight abortWaiting k) = true ∧
    abortTarget abortWaiting 0 9 = none ∧
    (abortTarget (withCmd (withCmd serving (cmd 0 3 0x01 .sealed [])) (cmd 0 5 0x0C .waiting (leBytes 8 3))) 0 3).any (fun k => k.phase == .sealed) = true := by
  decide +kernel
theorem test_abort : shows (.abortCmd 0 5) abortWaiting (fun t => ((findCmd t 0 3).any fun k => k.status == 1 && k.phase == .finished) &&
    (findCmd t 0 5).any fun k => k.phase == .begun) = true := by decide +kernel
theorem test_abort_nothing : shows (.abortCmd 0 5) (withCmd openWaiting (cmd 0 5 0x0C .waiting (leBytes 8 9))) (fun t => ended t 0 5 9 9) = true := by decide +kernel

/-- A begun SESSION_OPEN of region 0 and one of region 1, which the carrel may not use. -/
def openBegun : State := withCmd serving (cmd 0 3 0x01 .begun (leBytes 8 0 ++ leBytes 4 0x3F800000 ++ leBytes 20 0))
def openDenied : State := withCmd serving (cmd 0 3 0x01 .begun ([1] ++ leBytes 31 0))
/-- A session of carrel 0 and its begun SESSION_CLOSE. -/
def closeBegun : State := withCmd (withSession serving (sess 1024)) (cmd 0 3 0x02 .begun (leBytes 8 1024))

theorem witness_SessionsOpenAndClose : (findCmd openBegun 0 3).any (fun k => k.phase == .begun && k.op == 1 && openStatus openBegun 0 k.body == stOk) = true ∧
    orbitRegion openBegun 0 = false ∧ (findCmd openDenied 0 3).any (fun k => openStatus openDenied 0 k.body == stDenied) = true ∧
    (findCmd closeBegun 0 3).any (fun k => k.op == 2 && rd k.body 0 4 == 1024) = true ∧ (findSession closeBegun 1024).isSome = true := by decide +kernel
/-- The same while a bind needs carrel 0 idle (R34). -/
def openHeld : State := { openBegun with img := { openBegun.img with op := some ⟨imageWith [], [], [0], false⟩ } }
theorem witness_SessionsOpenAndClose_held : (findCmd openHeld 0 3).any (fun k => k.phase == .begun && k.op == 1 && heldByBind openHeld k) = true ∧
    (findCmd openBegun 0 3).any (fun k => heldByBind openBegun k) = false := by decide +kernel
theorem test_open_held : shows (.sessionOpen 0 3) openHeld (fun t => t.kv.sessions.isEmpty && (findCmd t 0 3).any fun k => k.phase == .begun) = true := by decide +kernel
theorem test_open_denied : shows (.sessionOpen 0 3) openDenied (fun t => ended t 0 3 0x0D 0 && t.kv.sessions.isEmpty) = true := by decide +kernel
theorem test_close : shows (.sessionClose 0 3) closeBegun (fun t => ended t 0 3 0 0 && t.kv.sessions.isEmpty) = true := by decide +kernel

/-- A begun TOKENS of two inline tokens (5 and 511, or 512, which the vocabulary of 512 does not hold). -/
def tokensBegun (last : Nat) : State :=
  withCmd (withSession serving (sess 1024)) (cmd 0 3 0x03 .begun (leBytes 4 1024 ++ leBytes 4 2 ++ leBytes 4 3 ++ leBytes 20 0 ++ leBytes 4 5 ++ leBytes 4 last))
/-- A begun STEP of one session with nothing sampled. -/
def stepBegun : State := withCmd (withSession serving (sess 1024)) (cmd 0 3 0x04 .begun (leBytes 2 0 ++ leBytes 2 1 ++ leBytes 28 0 ++ leBytes 4 1024))

theorem witness_TokensAndSteps : (findCmd (tokensBegun 511) 0 3).any (fun k => k.phase == .begun && k.op == 3 && rd k.body 4 4 == 2) = true ∧
    (tokensBegun 511).img.bound.vocab 0 = 512 ∧
    (findCmd stepBegun 0 3).any (fun k => k.phase == .begun && k.op == 4 && k.passesLeft == 0 && (stepEntries stepBegun k).length == rd k.body 2 2) = true := by
  decide +kernel
theorem test_tokens : shows (.tokensCmd 0 3 .error) (tokensBegun 511) (fun t => (findCmd t 0 3).any fun k => k.passesLeft == 4 && k.fetched.length == 8) = true ∧
    shows (.tokensCmd 0 3 .error) (tokensBegun 512) (fun t => ended t 0 3 9 0) = true := by decide +kernel
theorem test_step_refused : shows (.stepCmd 0 3) stepBegun (fun t => (findCmd t 0 3).any fun k => k.phase == .finished && k.entries.length == 1) = true := by decide +kernel

/-- A begun RECIPE_SET of stage 0 at another KV format, by PF1, and a waiting one that gives carrel 1 priority 15. -/
def recipeBegun (c : Nat) (region : Nat) : State :=
  withCmd serving (cmd c 3 0x0B .begun ([0, 1] ++ leBytes 2 1 ++ leBytes 12 0 ++ leBytes 2 region ++ leBytes 2 0 ++ [8] ++ leBytes 27 0))
def priorityWaiting : State := withCmd serving (cmd 1024 3 0x0B .waiting ([1, 0] ++ leBytes 6 0 ++ leBytes 2 1 ++ [15] ++ leBytes 5 0))

theorem witness_RecipesAndPriorities : (findCmd (recipeBegun 1024 0) 1024 3).any (fun k => k.phase == .begun && k.op == 0x0B && rd k.body 0 1 == 0) = true ∧
    (findCmd (recipeBegun 0 1) 0 3).any (fun k => (recipeEntries k.body).any fun x => !(carrelNow (recipeBegun 0 1) 0).mask.testBit x.region) = true ∧
    (findCmd priorityWaiting 1024 3).any (fun k => k.phase == .waiting && rd k.body 0 1 == 1) = true ∧ swf (fun _ => freshCarrel) priorityWaiting.itk.carrels = true := by
  decide +kernel
/-- Region 0 offline, and its entry acceptable or not. -/
def recipeGood : State :=
  withCmd serving (cmd 1024 3 0x0B .begun ([0, 1] ++ leBytes 14 0 ++ [0, 4, 0, 0, 8, 5, 1, 0] ++ leBytes 4 0x3F800000 ++ leBytes 4 0x3F800000 ++ leBytes 4 0 ++ leBytes 4 4 ++ leBytes 8 0))
def recipeOffline : State := { recipeGood with acc := [(0, { freshAcc with offline := true })] }
theorem witness_RecipesAndPriorities_entries : (findCmd recipeOffline 1024 3).any (fun k => (recipeEntries k.body).all fun x => recipeSetOk recipeOffline x && offline recipeOffline x.region) = true ∧
    (findCmd recipeGood 1024 3).any (fun k => (recipeEntries k.body).all fun x => recipeSetOk recipeGood x && !offline recipeGood x.region &&
      !orbitRegion recipeGood x.region) = true ∧
    (findCmd (recipeBegun 1024 7) 1024 3).any (fun k => (recipeEntries k.body).any fun x => !recipeSetOk (recipeBegun 1024 7) x) = true := by decide +kernel
/-- R439. -/
theorem test_recipe_offline : shows (.recipeSet 1024 3) recipeOffline (fun t => ended t 1024 3 stOffline 0 && t.img.nextRecipes.isEmpty) = true := by decide +kernel
theorem test_recipe_denied : shows (.recipeSet 0 3) (recipeBegun 0 1) (fun t => ended t 0 3 0x0D 0) = true := by decide +kernel
theorem test_priority : shows (.priorityChange 1024 3) priorityWaiting (fun t => priorityOf t 1 == 15 && priorityOf t 0 == 8 && ended t 1024 3 0 0) = true := by decide +kernel

/-! ### KV pages and comets -/

/-- A parent of length 8 with one page (catalogue index 4) in hall 0, and an empty child. -/
def parent : Session := { sess 1024 with length := 8, hall := some 0, pages := [(0, 0, 4)] }
def forkState : State :=
  let s := withSession (withSession serving parent) (sess 2048)
  fset { s with kv := { s.kv with pages := [(4, { freePage with size := 4096, refs := 1, carrel := 0, fill := 8 })] } } (Reg.CAR_SWAP_BASE.VALID 0) 1
def forkBegun (n : Nat) : State := withCmd forkState (cmd 0 3 0x07 .begun (leBytes 4 1024 ++ leBytes 4 2048 ++ leBytes 8 n))
def releaseBegun (keep : Nat) : State := withCmd forkState (cmd 0 3 0x08 .begun (leBytes 4 1024 ++ leBytes 4 keep))

theorem witness_ForkSharesPages : (findCmd (forkBegun 8) 0 3).any (fun k => k.phase == .begun && k.op == 7 && forkStatus (forkBegun 8) k.body == stOk) = true ∧
    (findCmd (forkBegun 9) 0 3).any (fun k => forkStatus (forkBegun 9) k.body == stFormat) = true ∧ findSession (forkBegun 8) 1024 = some parent ∧
    (findSession (forkBegun 8) 2048).any (fun x => x.pages.isEmpty) = true ∧ swf (fun _ => freePage) (forkBegun 8).kv.pages = true ∧
    (parent.pages.map fun q => q.2.2).Nodup ∧ ∀ q ∈ parent.pages, q.2.2 < 262144 := by decide +kernel
/-- R256: the child shares the page by reference, COW set, two references. -/
theorem test_fork : shows (.pageFork 0 3) (forkBegun 8) (fun t => (pageAt t 0 4).refs == 2 && (pageAt t 0 4).cow && ended t 0 3 0 0 &&
    (findSession t 2048).any fun x => x.length == 8 && x.pages == [(0, 0, 4)]) = true := by decide +kernel
theorem test_fork_too_long : shows (.pageFork 0 3) (forkBegun 9) (fun t => ended t 0 3 9 0) = true := by decide +kernel
theorem witness_ReleaseTruncates : (findCmd (releaseBegun 0) 0 3).any (fun k => k.phase == .begun && k.op == 8 && rd k.body 4 4 == 0) = true ∧
    findSession (releaseBegun 9) 1024 = some parent ∧ parent.res = .resident ∧ parent.length < 9 ∧
    ({ parent with res := .comet }).res ≠ .resident := by decide +kernel
theorem test_release : shows (.pageRelease 0 3) (releaseBegun 0) (fun t => (findSession t 1024).any fun x => x.length == 0 && x.pages.isEmpty) = true ∧
    shows (.pageRelease 0 3) (releaseBegun 9) (fun t => ended t 0 3 9 0) = true := by decide +kernel

/-- A session in some state of its swap, and a begun command of some opcode on it. -/
def away (res : Residence) (step : Nat) : State :=
  withSession serving { parent with res := res, swapStep := step, extent := some (0, 1), pages := [] }
def swapCmd (s : State) (op : Nat) : State := withCmd s (cmd 0 3 op .begun (leBytes 8 1024))

theorem witness_SessionsLeaveForTheHost : (findCmd (swapCmd forkState 9) 0 3).any (fun k => k.phase == .begun && k.op == 9 && rd k.body 0 4 == 1024) = true ∧
    (findSession (swapCmd forkState 9) 1024).any (fun x => x.res == .resident && (reserveExtent (swapCmd forkState 9) x).isSome) = true ∧
    (let s := swapCmd (bound forkState (imageWith [(9, leBytes 16 0)])) 9
     (findSession s 1024).any (fun x => (reserveExtent s x).isNone) = true) ∧
    (findSession (away .comet 0) 1024).any (fun x => x.res == .comet) = true ∧
    (findSession (away .swappingOut 2) 1024).any (fun x => x.res == .swappingOut && x.swapStep == 2 && x.extent == some (0, 1)) = true ∧
    (findSession (away .swappingOut 4) 1024).any (fun x => x.res == .swappingOut && x.swapStep == 4) = true ∧
    fnUp serving (swapFn serving (handleCarrel 1024)) = true := by decide +kernel
/-- A session on its way out, or back, through BULK while PF2 carries it. -/
def byBulk (res : Residence) (step : Nat) : State := let s := fset (away res step) (Reg.CAR_SWAP_BASE.BULK 0) 1; { s with hst := { s.hst with bulkToPf1 := false } }
theorem witness_SessionsLeaveForTheHost_reissued : reissued (byBulk .swappingOut 2) (swapBulk (byBulk .swappingOut 2) (handleCarrel 1024)) .lost = true ∧
    (findSession (byBulk .swappingOut 2) 1024).any (fun x => x.res == .swappingOut && x.swapStep == 2) = true ∧
    reissued (away .swappingOut 2) (swapBulk (away .swappingOut 2) (handleCarrel 1024)) .error = false ∧
    reissued (byBulk .returning 1) (swapBulk (byBulk .returning 1) (handleCarrel 1024)) .lost = true ∧ (findSession (byBulk .returning 1) 1024).any (fun x => x.res == .returning) = true ∧
    reissued (away .returning 1) (swapBulk (away .returning 1) (handleCarrel 1024)) .lost = false := by decide +kernel
/-- R227: what port B lost is asked for again and is no failure. -/
theorem test_swap_reissued : shows (.swapOutFlushReadDone 1024 .lost) (byBulk .swappingOut 2) (fun t => (findSession t 1024).any fun x => x.res == .swappingOut && x.swapStep == 2) = true := by
  decide +kernel
/-- R261: the carrel's function loses its bus mastering: the swap-out fails and the session is resident. -/
theorem witness_PortsFailAndReturn_leaving : (findSession (away .swappingOut 2) 1024).any (fun x => x.res == .swappingOut) = true ∧
    swapFn (away .swappingOut 2) (handleCarrel 1024) = .vf 0 := by decide +kernel
theorem test_mastering_lost : shows (.busMasteringChange (.vf 0) false) (away .swappingOut 2) (fun t => (findSession t 1024).any fun x => x.res == .resident && x.extent.isNone) = true := by
  decide +kernel
theorem test_swap_out : shows (.swapOut 0 3) (swapCmd forkState 9) (fun t => (findSession t 1024).any fun x => x.res == .swappingOut && x.swapStep == 2) = true ∧
    shows (.swapOut 0 3) (swapCmd (away .comet 0) 9) (fun t => ended t 0 3 0 0) = true := by decide +kernel
theorem test_swap_out_step_fails : shows (.swapOutFlushReadDone 1024 .error) (away .swappingOut 2) (fun t => (findSession t 1024).any fun x => x.res == .resident && x.extent.isNone) = true ∧
    shows (.swapOutColophonReadDone 1024 .timeout) (away .swappingOut 4) (fun t => (findSession t 1024).any fun x => x.res == .resident) = true := by decide +kernel
theorem test_completion_timeout : shows (.completionTimeout 1024) (away .swappingOut 2) (fun t => (findSession t 1024).any fun x => x.res == .resident) = true := by decide +kernel
theorem witness_CometsReturn : (findSession (swapCmd (away .comet 0) 0x0A) 1024).any (fun x => x.res == .comet) = true ∧
    (findCmd (swapCmd (away .comet 0) 0x0A) 0 3).any (fun k => k.phase == .begun && k.op == 0x0A && rd k.body 0 4 == 1024) = true ∧
    (findSession (away .returning 1) 1024).any (fun x => x.res == .returning && x.swapStep == 1 && !colophonOk x [] && x.dead.isNone &&
      colophonOk x (magicComet ++ leBytes 24 1024 ++ leBytes 8 0) && (allocReturn (away .returning 1) x).isSome) = true ∧
    (findSession (away .returning 2) 1024).any (fun x => x.swapStep == 2 && ([] : Bytes).length == x.swapBody) = true := by decide +kernel
theorem test_swap_in : shows (.swapIn 0 3) (swapCmd (away .comet 0) 0x0A) (fun t => (findSession t 1024).any fun x => x.res == .returning && x.swapStep == 1) = true := by decide +kernel
theorem test_comet_colophon : shows (.cometReturnReadDone 1024 (.data (magicComet ++ leBytes 24 1024 ++ leBytes 8 0))) (away .returning 1)
    (fun t => (findSession t 1024).any fun x => x.swapStep == 2) = true ∧
    shows (.cometReturnReadDone 1024 (.data [])) (away .returning 1) (fun t => (findSession t 1024).any fun x => x.res == .comet && x.dead == some 3) = true ∧
    shows (.cometReturnReadDone 1024 .error) (away .returning 1) (fun t => (findSession t 1024).any fun x => x.res == .returning && x.retried) = true := by decide +kernel
theorem witness_ScrubPoisonsTheLine : (3 : Nat) < 4 ∧ 96 * 2 ^ 30 - 1 < 2 ^ 40 ∧ swf (fun _ => false) serving.kv.bad = true ∧ swf (fun _ => freePage) forkState.kv.pages = true ∧
    hallOff forkState 0 = false ∧ hallOff serving 0 = false ∧ (pagesAt forkState 0 0).map (·.1) = [4] := by decide +kernel
/-- A rotary table in hall 0's store. -/
def tabled : State := { serving with scr := { serving.scr with tables := [{ hall := 0, base := 10000, scale := 0x3F800000, dims := 4, entries := List.replicate 16 0, bad := [] }] } }
theorem witness_ScrubPoisonsTheLine_table : (tabled.scr.tables.head?.map fun tb => (tb.hall, decide (1 < ceilDiv tb.entries.length 8))) = some (0, true) ∧
    0 < hbmBytesOfHall ∧ hallOff tabled 0 = false := by decide +kernel
theorem test_scrub_table : shows (.patrolScrub 0 (hbmBytesOfHall + 64)) tabled (fun t => (t.scr.tables.map (·.bad)) == [[1]]) = true := by decide +kernel
theorem test_patrol_scrub : shows (.patrolScrub 0 64) forkState (fun t => lineBad t 0 64 && !lineBad t 0 128 && (pageAt t 0 4).poison) = true := by decide +kernel

/-! ### Passes -/

/-- A begun TOKENS of carrel 0 with one token taken and two passes to run. -/
def dispatchable : State :=
  withCmd (withSession serving (sess 1024)) { cmd 0 3 0x03 .begun (leBytes 4 1024 ++ leBytes 4 1 ++ leBytes 4 1 ++ leBytes 20 0 ++ leBytes 4 5) with
    passesLeft := 2, fetched := leBytes 4 5 }

theorem witness_PassTakesEpochAndNumber : (findCmd dispatchable 0 3).any (fun k => k.phase == .begun && k.op == 3 && decide (0 < k.passesLeft) &&
      (passOf dispatchable (cmdRegion dispatchable k)).isNone && !heldCmd dispatchable k && !victimsOut dispatchable 0 3 && passHandles k == [1024] &&
      (let s1 := boundaryChanges dispatchable (cmdRegion dispatchable k)
       findCmd s1 0 3 == some k && (joinStatus s1 k 1024).isNone && (findSession s1 1024).any (fun x => x.res == .resident) &&
         (growSession s1 1024 (appendCount k)).isSome && swf regReset s1.regs && swf (fun _ => freshCarrel) s1.itk.carrels)) = true ∧
    dispatchable.orb.waitingTakeover = false ∧ orbitRegion dispatchable 0 = false := by decide +kernel
/-- R17, R254: the carrel's first pass is number 1, at epoch 1. -/
theorem test_dispatch : shows (.passDispatch 0 3) dispatchable (fun t => t.clk.epoch == 1 && ((passOf t 0).any fun p => p.number == 1 && p.sessions == [1024]) &&
    (carrelSt t 0).nextPass == 2) = true := by decide +kernel

/-- A pass of that command, before its first stage. -/
def pass0 : Pass :=
  { region := 0, stream := 0, cmd := 3, carrel := 0, number := 1, passId := 0, epoch := 1, sessions := [1024]
    vecs := [{ session := 1024, pos := 0, token := 5, classN := false, draws := true }], window := [], floor := [], budgetUs := 0, recipes := tiny.recipes, archive := false, stage := none
    stages := [], leaves := [], nodes := [], outs := [], attnReady := [], appended := [], parts := [], attn := [], faults := [], drawn := [], flags := 0, late := []
    poisoned := [], budgetSpent := false, norms := [], marks := [], formats := [] }
/-- `p` in flight. -/
def running (p : Pass) : State := { dispatchable with run := { dispatchable.run with live := [p] } }
/-- Four inputs of 1.0. -/
def ones : List (List W32) := [[0x3F800000, 0x3F800000, 0x3F800000, 0x3F800000]]

/-- The session bound to an adapter whose bytes are not there. -/
def lateState : State :=
  { running pass0 with
    kv := { dispatchable.kv with sessions := [{ sess 1024 with binding := some { adapter := 9, addr := 0, len := 64, bulk := false, wait := false } }] }
    loans := [{ carrel := 0, adapter := 9, addr := 0, len := 64, bulk := false, dtype := 0, rank := 1, alpha := 0
                stages := [{ stage := 0, len := 64, off := 0, placed := [], data := none, poison := false, asked := true, tries := 0, via := some .pf1 }]
                head := []
                pages := 1, lastUse := 0, held := true }] }

theorem witness_LayersBeginOrDrop : passOf (running pass0) 0 = some pass0 ∧ orbitRegion (running pass0) 0 = false ∧ (passRecipe pass0 (nextStage pass0)).isSome = true ∧
    notReady (running pass0) pass0 0 = [] ∧ (stageInputs (running pass0) pass0 (nextStage pass0)).isSome = true ∧
    swf (fun _ => (none : Option StageRun)) pass0.stages = true ∧ passOf lateState 0 = some pass0 ∧ notReady lateState pass0 0 = [1024] ∧
    pass0.budgetSpent = false ∧ stageLayer pass0 (nextStage pass0) = some 0 ∧ opensLayer pass0 0 = true ∧
    stageOver lateState pass0 = true ∧ (∀ m ∈ pass0.marks, m.session ∉ notReady lateState pass0 0) := by decide +kernel
/-- R58 with scale 1: every code is the input rounded, and the stage of four inputs has four of them. -/
theorem test_layer_begin : shows (.layerBegin 0 []) (running pass0) (fun t => (passOf t 0).any fun p => p.stage == some 0 &&
    (stageRun p 0).any fun x => x.codes.length == 1 && x.codes.all fun c => c.length == 4) = true := by decide +kernel
theorem test_hold_budget : shows (.holdBudgetExhausted 0) lateState (fun t => (passOf t 0).any fun p => p.late == [1024] && p.budgetSpent) = true := by decide +kernel

/-- Stage 0 of the pass as it runs, with `n` strikes made by the one folio of its chain. -/
def stage0 (n : Nat) : StageRun :=
  { stage := 0, inputs := ones, mainSet := [], spillSet := [], excessSet := [], scales := [0x3F800000], codes := [[1, 1, 1, 1]], struck := sset (fun _ => 0) [] 0 n, bad := [] }
def passAt (n : Nat) : Pass := { pass0 with stage := some 0, stages := [(0, some (stage0 n))] }
/-- A pass of two layers whose stage 0 still runs. -/
def twoLayers : Pass := { passAt 0 with recipes := tiny.recipes ++ (tiny.recipes.map fun x => { x with stage := 1, layer := 1 }) }
def lateRunning : State := { lateState with run := { lateState.run with live := [twoLayers] } }

theorem witness_LayersBeginOrDrop_running : passOf lateRunning 0 = some twoLayers ∧ stageLayer twoLayers (nextStage twoLayers) = some 1 ∧
    opensLayer twoLayers 1 = true ∧ stageOver lateRunning twoLayers = false ∧ twoLayers.budgetSpent = false ∧
    (notReady { lateRunning with loans := lateRunning.loans.map fun l => { l with stages := l.stages.map fun g => { g with stage := 1 } } } twoLayers 1).length = 1 := by
  decide +kernel
/-- The folio at position 0 of shelf 0 serves slot 0, and the ledger of its chain has (or has not) begun the vector. -/
def striking (n : Nat) (started : Bool) : State :=
  { running (passAt n) with arr := { dispatchable.arr with
      folios := [(0, { freshFolio with st := .serving, logical := 0, region := 0 })]
      ledgers := if started then [(chainKey 0 0, { freshLedger with started := true })] else [] } }

theorem witness_StrikesFillTheLedger : (folioAt (striking 0 false) (folioKey 0 0)).st = .serving ∧ (folioAt (striking 0 false) (folioKey 0 1)).st ≠ .serving ∧
    (hallPower (striking 0 false) (hallOf 0)).stretched = false ∧ (hallPower (striking 0 false) (hallOf 0)).gated = false ∧
    passOf (striking 0 false) 0 = some (passAt 0) ∧ stageRun (passAt 0) 0 = some (stage0 0) ∧ (passRecipe (passAt 0) 0).any (fun x => x.width == 8) = true ∧
    slotChain (striking 0 false) 0 0 = some 0 ∧ (leafPlace (striking 0 false).img.bound 0 0 ((namedShelf (striking 0 false) 0).getD 0) 0).isSome = true ∧
    0 ∈ struckSlots (striking 0 false) (passAt 0) 0 0 0 ∧ nextVec (passAt 0) (stage0 0) 8 0 = some 0 ∧ nextVec (passAt 7) (stage0 7) 8 0 = some 0 ∧
    nextVec (passAt 8) (stage0 8) 8 0 = none ∧ (stage0 0).stage = 0 ∧ nextPlane (stage0 7) 0 0 = 7 ∧
    (ledgerOf (striking 0 false) 0 0).started = false ∧ (ledgerOf (striking 7 true) 0 0).vec = 0 ∧
    swf (fun _ => freshLedger) (striking 7 true).arr.ledgers = true ∧ swf (fun _ => (none : Option StageRun)) (passAt 7).stages = true ∧
    swf (fun _ => 0) (stage0 7).struck = true := by decide +kernel
theorem test_strike_idle_folio : shows (.strike 0 1) (striking 7 true) (fun t => (passOf t 0).any fun p => (stageRun p 0).any fun x => sget (fun _ => 0) x.struck 0 == 7) = true := by
  decide +kernel
theorem witness_LeavesAndSumsStand : (shelfRegion (striking 8 true) 0).bind (passOf (striking 8 true)) = some (passAt 8) ∧ shelfRegion (striking 8 true) 0 = some 0 ∧
    (ledgerOf (striking 8 true) 0 0).started = true ∧
    vectorStruck (striking 8 true) (passAt 8) (stage0 8) 8 0 0 (ledgerOf (striking 8 true) 0 0).vec = true ∧
    swf (fun _ => freshTile) (striking 8 true).scr.tiles = true ∧
    exitWaits (striking 8 true) 0 0 0 = false ∧ swf (fun _ => (none : Option Leaf)) (passAt 8).leaves = true ∧ addOperands (striking 8 true) (passAt 8) 0 0 0 0 0 0 = none := by decide +kernel
/-- R80: the chain exits and its ledger is free again. -/
theorem test_exit : shows (.shelfExit 0 0 ⟨[], none⟩) (striking 8 true) (fun t => !(ledgerOf t 0 0).started && (passOf t 0).any fun p => (leafAt p 0 0 0 0).isSome) = true := by
  decide +kernel

/-- R93, R94: the exit names a tile as well, and the row takes 64 columns of the shelf's result, here in tile 5. -/
theorem test_exit_tile : shows (.shelfExit 0 0 ⟨[.gain], some ⟨5, 0, 0, false⟩⟩) (striking 8 true) (fun t => (tileAt t 0 5).owner == some 0 && t.scr.tiles.length == 1 &&
    (passOf t 0).any fun p => (leafAt p 0 0 0 0).any fun l => l.y.all (·.bad)) = true := by decide +kernel

/-- As `tiny`, its one output group on the leaves of shelves 0 and 1, with a wide recipe or not; both have exited with totals 2 and 3. -/
def twoLeaves (wide : Nat) : Image := imageWith
  [ (1, regionBytes 0 1 3), (2, []), (3, (leBytes 2 0 ++ [1] ++ leBytes 53 0 ++ leBytes 8 1) ++ (leBytes 2 1 ++ [1] ++ leBytes 53 0 ++ leBytes 8 1)), (4, [])
  , (5, [0, 0, BitVec.ofNat 8 wide, 2] ++ leBytes 4 0 ++ leBytes 2 0 ++ leBytes 2 1 ++ leBytes 4 0)
  , (7, [0, BitVec.ofNat 8 wide, 0, 0, 8] ++ leBytes 3 0 ++ leBytes 4 0x3F800000 ++ leBytes 20 0), (9, carrelBytes 1) ]
def leafOf (n : Int) : Leaf := { totals := [n], y := [⟨fofInt n, false⟩], term := [none] }
def bothOut (wide : Nat) : Pass :=
  { passAt 0 with recipes := (twoLeaves wide).recipes, leaves := sset (fun _ => none) [(leafKey 0 0 0 0, some (leafOf 2))] (leafKey 0 1 0 0) (some (leafOf 3)) }
def summing (wide : Nat) : State := { running (bothOut wide) with img := { on.img with bound := twoLeaves wide } }

theorem witness_LeavesAndSumsStand_sums : passOf (summing 0) 0 = some (bothOut 0) ∧ orbitRegion (summing 0) 0 = false ∧ wideGroup (summing 0) (bothOut 0) 0 0 = false ∧
    (addOperands (summing 0) (bothOut 0) 0 0 0 0 0 0).isSome = true ∧ nodeAt (bothOut 0) 0 0 0 0 1 0 = none ∧
    swf (fun _ => (none : Option (List PVal))) (bothOut 0).nodes = true ∧ wideGroup (summing 1) (bothOut 1) 0 0 = true ∧
    (summing 1).img.bound.groupLeaves 0 0 0 ≠ [] ∧ (∀ l ∈ (summing 1).img.bound.groupLeaves 0 0 0, (namedLeaf (summing 1) (bothOut 1) 0 0 (l.2.1, l.2.2)).isSome = true) := by
  decide +kernel
/-- R84: 2 + 3 = 5. -/
theorem test_reduction_add : shows (.reductionAdd 0 0 0 0 0 0 0) (summing 0) (fun t => (passOf t 0).any fun p => nodeAt p 0 0 0 0 1 0 == some [⟨0x40A00000, false⟩]) = true := by
  decide +kernel
theorem test_wide_merge : shows (.wideMerge 0 0 0 0) (summing 1) (fun t => (passOf t 0).any fun p => (nodeAt p 0 0 0 5 0 0).any fun ys => ys.length == 512) = true := by
  decide +kernel

/-- A pass whose one part of one row tile stands. -/
def partsIn : Pass := { pass0 with parts := [(partKey 0 0 0 0 0, some [{ m := 0, l := 0x3F800000, acc := [0x40000000], bad := false }])] }

theorem witness_PartsMergeOnce : passOf (running partsIn) 0 = some partsIn ∧ 1024 ∈ partsIn.sessions ∧ partsIn.sessions.idxOf 1024 = 0 ∧
    sget (fun _ => none) partsIn.attn (attnKey 0 0 0 0) = none ∧ 0 < kvParts (passLength (running partsIn) partsIn 1024) ∧
    (allParts partsIn 0 0 0 0 (kvParts (passLength (running partsIn) partsIn 1024))).any (fun ps => (tree (List.zipWith mergePart) ps).isSome) = true ∧
    swf (fun _ => (none : Option (List (List PVal)))) partsIn.attn = true ∧ 7 ∉ partsIn.sessions := by decide +kernel
theorem test_attention_merge : shows (.attentionMerge 0 0 1024 0 0) (running partsIn) (fun t => (passOf t 0).any fun p =>
    (sget (fun _ => none) p.attn (attnKey 0 0 0 0)).isSome) = true := by decide +kernel

/-- A pass that has run its course: its one output group is there and its session drew token 9. -/
def settled : Pass := { passAt 8 with outs := [(outKey 0 0 0, some [])], drawn := [(1024, some 9)] }

theorem witness_PassEndsAtItsBoundary : unpowered (running settled) = false ∧ orbitRegion (running settled) 0 = false ∧ passOf (running settled) 0 = some settled ∧
    passSettled (running settled) settled = true ∧ passSettled (running pass0) pass0 = false ∧ (running settled).run.live.Nodup ∧
    (findSession (running settled) 1024).any (fun x => x.dead.isNone) = true ∧ outPoisoned (running settled) settled 1024 = false ∧ sampleFailed settled 1024 = false ∧ (running settled).orb.colls = [] ∧
    orbPass (running settled) settled.passId = none ∧ (findCmd (running settled) 0 3).any (fun k => k.phase == .begun && k.op == 3) = true ∧
    (running settled).scr.tileCmds = [] ∧ passOf dispatchable 0 = none := by decide +kernel
/-- R92: at the boundary of an idle region the recipes that waited are in force. -/
theorem test_idle_boundary : shows (.passBoundary 0 []) { dispatchable with img := { dispatchable.img with nextRecipes := tiny.recipes } }
    (fun t => t.img.nextRecipes.isEmpty && t.img.recipes == tiny.recipes) = true := by decide +kernel

/-! ### Scribe programs -/

/-- An instruction word of Table 5-5. -/
def insnWord (op acc fmt dst sa sb mod cnt imm : Nat) : Nat :=
  op * 2 ^ 58 + acc * 2 ^ 57 + fmt * 2 ^ 53 + dst * 2 ^ 49 + sa * 2 ^ 45 + sb * 2 ^ 41 + mod * 2 ^ 37 + cnt * 2 ^ 32 + imm

/-- A program of region 0 at index 2 of its area of 16 instructions. -/
def progOf (kind : Nat) : Prog :=
  { job := { kind := kind, region := 0, stage := 0, carrel := 0, seq := 3, session := 1024, tile := 0, kv := 0, part := 0, first := 0, last := 16, entry := 0 }
    pc := 2, count := 5 }

/-- The scratch descriptor, and a gather of its row 0. -/
def scratch0 : Desc := { win := .scratch 0, base := 0, rowLen := 64, stride := 64, rows := 8, write := true }
def gather0 : Transfer := { isGather := true, job := (progOf 0).job, desc := scratch0, addr := 0x40040, rows := [0] }

def tileOf (v : W32) : Tile := { data := sset (fun _ => 0) [] 0 v, poison := 0, owner := none }

/-- Shelf 0 at this word: X1 = 40000H, X2 = 50000H, tile 1 has 1.0 and tile 2 has 2.0 at (0, 0), and the descriptors are 0 with 8 rows and 1 with none. -/
def scribing (kind w : Nat) : State :=
  writeStore { running pass0 with scr := { on.scr with
      unit := [(0, { freshScribe with
        x := [(1, 0x40000), (2, 0x50000)]
        run := some (progOf kind)
        desc := [(0, some { win := .scratch 0, base := 0, rowLen := 64, stride := 64, rows := 8, write := true })
        , (1, some { win := .stuckMap, base := 0, rowLen := 64, stride := 64, rows := 0, write := false })] })]
      tiles := [(tileKey 0 1, tileOf 0x3F800000), (tileKey 0 2, tileOf 0x40000000)] } } 0 16 (leBytes 8 w) fun _ => false

def wNop : Nat := insnWord 0 0 0 0 0 0 0 0 0
def wHalt : Nat := insnWord 1 0 0 0 0 0 0 0 0
def wLdx : Nat := insnWord 2 0 0 3 0 0 0 0 77
def wAddx : Nat := insnWord 3 0 0 1 1 0 0 0 0xFFFFFFFF
def wLoop : Nat := insnWord 4 0 0 1 0 0 0 0 0xFFFFFFFF
def wVadd : Nat := insnWord 0x10 0 0 3 1 2 0 0 0
def wMma : Nat := insnWord 8 0 1 3 1 2 0 0 0
def wLdt : Nat := insnWord 0x20 0 1 3 1 0 0 0 64
def wStt : Nat := insnWord 0x21 0 1 1 1 0 0 0 64
def wGather (d : Nat) : Nat := insnWord 0x28 0 0 1 2 0 d 0 64
def wScatter : Nat := insnWord 0x29 0 0 0 1 2 0 0 64
def wCheck : Nat := insnWord 0x30 0 0 3 1 2 0 0 0
def wNormw : Nat := insnWord 0x31 0 0 0 1 0 0 0 4
def wSelect : Nat := insnWord 0x38 0 0 1 1 0 0 0 0
def wDraw : Nat := insnWord 0x38 0 0 0 0 0 1 0 0

/-- Does shelf 0 stand at this instruction, with its tables in canonical form? -/
def standsAt (kind w : Nat) (o : SOp) : Prop :=
  let s := scribing kind w
  let i := insnOf s 0 (progOf kind)
  (scribeOf s 0).run = some (progOf kind) ∧ kind ≠ 0xF ∧ fetchOwed s 0 (progOf kind) = false ∧ opOf i.w = some o ∧ i.check s o = none ∧
    (i.areas s o).any (fun a => (scribeOf s 0).xfers.any (transferMeets a)) = false
theorem standsAt_runs {kind w : Nat} {o : SOp} (h : standsAt kind w o) : insnRuns (scribing kind w) 0 (progOf kind) o :=
  ⟨h.1, h.2.1, h.2.2.1, Nat.zero_le _, by show 2 < 16; decide, h.2.2.2.1, h.2.2.2.2.1, h.2.2.2.2.2⟩
theorem witness_scribesOk : (scribing 0 wNop).scribesOk ∧ (scribing 0 wDraw).scribesOk ∧ (scribing 0 wNop).regsOk := by
  unfold State.scribesOk State.regsOk; decide +kernel

theorem witness_IndexInstructions : insnRuns (scribing 0 wNop) 0 (progOf 0) .nop ∧ insnRuns (scribing 0 wLdx) 0 (progOf 0) .ldx ∧
    insnRuns (scribing 0 wAddx) 0 (progOf 0) .addx ∧ insnRuns (scribing 0 wLoop) 0 (progOf 0) .loop ∧ insnRuns (scribing 0 wHalt) 0 (progOf 0) .halt ∧
    (scribeOf (scribing 0 wHalt) 0).xfers = [] ∧ ((progOf 0).pc : Int) + signed 32 0xFFFFFFFF = 1 := by
  refine ⟨standsAt_runs ?_, standsAt_runs ?_, standsAt_runs ?_, standsAt_runs ?_, standsAt_runs ?_, ?_, ?_⟩ <;> first | (unfold standsAt; decide +kernel) | decide +kernel
theorem test_nop : shows (.nop 0) (scribing 0 wNop) (fun t => (scribeOf t 0).run.any fun p => p.pc == 3 && p.count == 6) = true := by decide +kernel
theorem test_halt : shows (.halt 0) (scribing 0 wHalt) (fun t => (scribeOf t 0).run.isNone) = true := by decide +kernel
theorem test_ldx : shows (.ldx 0) (scribing 0 wLdx) (fun t => sget (fun _ => 0) (scribeOf t 0).x 3 == 77) = true := by decide +kernel
/-- 40000H + FFFFFFFFH modulo 2^32. -/
theorem test_addx_wraps : shows (.addx 0) (scribing 0 wAddx) (fun t => sget (fun _ => 0) (scribeOf t 0).x 1 == 0x3FFFF) = true := by decide +kernel
/-- IMM −1 from index 2 leads to index 1. -/
theorem test_loop_back : shows (.loopX 0) (scribing 0 wLoop) (fun t => sget (fun _ => 0) (scribeOf t 0).x 1 == 0x3FFFF && (scribeOf t 0).run.any fun p => p.pc == 1) = true := by
  decide +kernel

theorem witness_FaultsStopPrograms :
    let bad := insnOf (scribing 0 (insnWord 5 0 0 0 0 0 0 0 0)) 0 (progOf 0)
    let tile := insnOf (scribing 0 (insnWord 0x14 0 0 0 0 0 0 0 1)) 0 (progOf 0)
    opOf bad.w = none ∧ opOf tile.w = some .vrcp ∧ tile.check (scribing 0 (insnWord 0x14 0 0 0 0 0 0 0 1)) .vrcp = some 1 ∧ (scribeOf on 0).run = none ∧
      opOf (insnOf (scribing 0 wNop) 0 (progOf 0)).w = some .nop ∧ fetchOwed (scribing 0 wNop) 0 (progOf 0) = false ∧
      (scribeOf (scribing 0xF wNop) 0).run = some (progOf 0xF) ∧
      fetchOwed (modScribe (scribing 0 wNop) 0 fun u => { u with xfers := [{ isGather := true, job := (progOf 0).job, desc := scratch0, addr := 0, rows := [0] }] }) 0 (progOf 0) = true := by decide +kernel
/-- R113: VRCP has no IMM; code 1 at index 2. -/
theorem test_unused_field_faults : shows (.vrcp 0) (scribing 0 (insnWord 0x14 0 0 0 0 0 0 0 1)) (fun t => (scribeOf t 0).run.isNone && fget t (Reg.SCR_FAULT.CODE 0) == 1 &&
    fget t (Reg.SCR_FAULT.PC 0) == 2) = true := by decide +kernel
/-- R113: opcode 05H is reserved. -/
theorem test_reserved_opcode_faults : shows (.nop 0) (scribing 0 (insnWord 5 0 0 0 0 0 0 0 0)) (fun t => fget t (Reg.SCR_FAULT.CODE 0) == 1 &&
    fget t (Reg.SCR_FAULT.PENDING 0) == 1) = true := by decide +kernel

theorem witness_ElementwiseOperations : insnRuns (scribing 0 wVadd) 0 (progOf 0) .vadd ∧ insnRuns (scribing 0 (insnWord 0x11 1 0 3 1 2 1 0 0)) 0 (progOf 0) .vsub ∧
    insnRuns (scribing 0 (insnWord 0x12 1 0 3 1 2 2 0 0)) 0 (progOf 0) .vmul ∧ insnRuns (scribing 0 (insnWord 0x13 0 0 3 1 0 0 0 0)) 0 (progOf 0) .vexp ∧
    insnRuns (scribing 0 (insnWord 0x14 0 0 3 1 0 0 0 0)) 0 (progOf 0) .vrcp ∧ insnRuns (scribing 0 (insnWord 0x15 0 0 3 1 0 0 0 0)) 0 (progOf 0) .vrsq ∧
    insnRuns (scribing 0 (insnWord 0x16 0 0 3 1 0 3 0 7)) 0 (progOf 0) .vmax := by
  refine ⟨standsAt_runs ?_, standsAt_runs ?_, standsAt_runs ?_, standsAt_runs ?_, standsAt_runs ?_, standsAt_runs ?_, standsAt_runs ?_⟩ <;>
    (unfold standsAt; decide +kernel)
/-- 1.0 + 2.0 = 3.0. -/
theorem test_vadd : shows (.vadd 0) (scribing 0 wVadd) (fun t => (tileAt t 0 3).elem 0 0 == 0x40400000#32 && (tileAt t 0 3).owner == some 0) = true := by decide +kernel
/-- 1.0 × 2.0 = 2.0. -/
theorem test_vmul : shows (.vmul 0) (scribing 0 (insnWord 0x12 0 0 3 1 2 0 0 0)) (fun t => (tileAt t 0 3).elem 0 0 == 0x40000000#32) = true := by decide +kernel

theorem witness_RowOperations : insnRuns (scribing 0 (insnWord 0x19 0 0 3 1 0 0 0 0)) 0 (progOf 0) .vsum ∧ insnRuns (scribing 0 (insnWord 0x17 0 0 3 1 0 0 0 9)) 0 (progOf 0) .vmaxi ∧
    insnRuns (scribing 0 (insnWord 0x18 0 0 3 1 0 0 0 9)) 0 (progOf 0) .vmini := by
  refine ⟨standsAt_runs ?_, standsAt_runs ?_, standsAt_runs ?_⟩ <;> (unfold standsAt; decide +kernel)
/-- The greatest of row 0 is the 1.0 of column 0, counted from IMM 9. -/
theorem test_vmaxi : shows (.vmaxi 0) (scribing 0 (insnWord 0x17 0 0 3 1 0 0 0 9)) (fun t => (tileAt t 0 3).elem 0 0 == 0x3F800000#32 && (tileAt t 0 3).elem 0 1 == 9#32) = true := by
  decide +kernel

theorem witness_ProductsAndLoads_StoresToTheShelf : insnRuns (scribing 0 wMma) 0 (progOf 0) .mma ∧ (insnOf (scribing 0 wMma) 0 (progOf 0)).fmt.isInt = false ∧
    insnRuns (scribing 0 (insnWord 8 1 7 3 1 2 0 0 0)) 0 (progOf 0) .mma ∧ (insnOf (scribing 0 (insnWord 8 1 7 3 1 2 0 0 0)) 0 (progOf 0)).fmt.isInt = true ∧
    insnRuns (scribing 0 wLdt) 0 (progOf 0) .ldt ∧ fmtMx 1 = false ∧ insnRuns (scribing 0 wStt) 0 (progOf 0) .stt ∧
    insnRuns (scribing 0 wSelect) 0 (progOf 0) .sampleSelect := by
  refine ⟨standsAt_runs ?_, ?_, standsAt_runs ?_, ?_, standsAt_runs ?_, ?_, standsAt_runs ?_, standsAt_runs ?_⟩ <;> first | (unfold standsAt; decide +kernel) | decide +kernel

theorem witness_TransfersMoveRows : insnRuns (scribing 0 (wGather 0)) 0 (progOf 0) .gather ∧ insnRuns (scribing 0 (wGather 1)) 0 (progOf 0) .gather ∧
    insnRuns (scribing 0 wScatter) 0 (progOf 0) .scatter ∧ rowIndices (scribing 0 (wGather 0)) 0 0x50000 1 = [0] ∧
    ((insnOf (scribing 0 (wGather 0)) 0 (progOf 0)).desc.map (·.rows)) = some 8 ∧ ((insnOf (scribing 0 (wGather 1)) 0 (progOf 0)).desc.map (·.rows)) = some 0 ∧
    ((insnOf (scribing 0 wScatter) 0 (progOf 0)).desc.map fun d => rowWritable (scribing 0 wScatter) d 0) = some true := by
  refine ⟨standsAt_runs ?_, standsAt_runs ?_, standsAt_runs ?_, ?_, ?_, ?_, ?_⟩ <;> first | (unfold standsAt; decide +kernel) | decide +kernel
theorem test_gather : shows (.gather 0) (scribing 0 (wGather 0)) (fun t => (scribeOf t 0).xfers == [gather0]) = true := by
  decide +kernel

/-- A gather of row 0 of the scratch outstanding. -/
def owing : State := modScribe (scribing 0 wNop) 0 fun u => { u with xfers := [gather0] }
theorem witness_TransfersMoveRows_complete : (scribeOf owing 0).run = some (progOf 0) ∧ (scribeOf owing 0).xfers.length = 1 ∧
    (descRow owing 0 (progOf 0).job scratch0 0).1.length = 64 ∧
    gather0.addr % 64 = 0 ∧ gather0.addr + scratch0.rowLen ≤ 2 ^ 20 ∧ (scribeOf on 0).xfers = [] ∧ insnRuns owing 0 (progOf 0) .nop := by
  refine ⟨?_, ?_, ?_, ?_, ?_, ?_, ?_⟩ <;> first | decide +kernel | (unfold insnRuns; decide +kernel)
theorem test_gather_complete : shows (.gatherComplete ⟨0, []⟩) owing (fun t => (scribeOf t 0).xfers.isEmpty) = true := by decide +kernel
/-- R111: HALT waits for the transfer. -/
theorem test_halt_waits : shows (.halt 0) (modScribe (scribing 0 wHalt) 0 fun u => { u with xfers := [gather0] })
    (fun t => (scribeOf t 0).run == some (progOf 0)) = true := by decide +kernel

/-- NORMW on tile 12, which a run may use. -/
def wNormwRun : Nat := insnWord 0x31 0 0 0 12 0 0 0 4
/-- Shelf 0 at CHECK with MOD[0] on tiles 0, 4 and 5 in the class-S job of a check that has let `passed` samples pass of its lag of 2. -/
def checking (passed shelf : Nat) : State × SCheck :=
  let c : SCheck := { region := 0, shelf := shelf, chain := 0, colGroup := 0, stage := 0, carrel := 0, passNo := 3, epoch := 1, passed := passed, lag := 2, z := 4, temp := 0
                      window := 12, width := 8, folios := [], codes := [], totals := [] }
  let s := scribing 5 (insnWord 0x30 0 0 3 0 4 1 0 0)
  ({ s with run := { s.run with vig := sset (fun _ => freshVigilance) [] 0 { freshVigilance with checks := [c] } } }, c)
theorem witness_ChecksAndDraws : insnRuns (scribing 0 wCheck) 0 (progOf 0) .check ∧ insnRuns (scribing 0 wNormw) 0 (progOf 0) .normw ∧
    insnRuns (scribing 0xE wNormwRun) 0 (progOf 0xE) .normw ∧ insnRuns (checking 0 0).1 0 (progOf 5) .check ∧ (checkOf (checking 0 0).1 0 (progOf 5).job) = some (checking 0 0).2 ∧
    overdue (checking 0 0).2 = false ∧ failingElems (tileAt (checking 0 0).1 0 0) (tileAt (checking 0 0).1 0 4) (tileAt (checking 0 0).1 0 5) = [] ∧ insnRuns (scribing 4 wDraw) 0 (progOf 4) .sampleDraw ∧ passOf (scribing 0 wNormw) 0 = some pass0 ∧
    ((homeLeaf tiny 0 (headStage pass0) 0).map fun l => housedAt (scribing 4 wDraw) 0 l.2.1) = some 0 ∧ stageDone (scribing 4 wDraw) pass0 (headStage pass0) = false ∧
    insnRuns (scribing 0 wDraw) 0 (progOf 0) .sampleDraw := by
  refine ⟨standsAt_runs ?_, standsAt_runs ?_, standsAt_runs ?_, ?_, ?_, ?_, ?_, standsAt_runs ?_, ?_, ?_, ?_, standsAt_runs ?_⟩ <;>
    first | (unfold standsAt; decide +kernel) | decide +kernel | (unfold insnRuns; decide +kernel)
/-- Against tolerance zero 1.0 and 2.0 differ, and no other element does: one failure, to X3. -/
theorem test_check : shows (.checkTile 0) (scribing 0 wCheck) (fun t => sget (fun _ => 0) (scribeOf t 0).x 3 == 1) = true := by decide +kernel
/-- R150, R388: the clean check completes, and its chain was clean at epoch 1. -/
theorem test_check_completes : shows (.checkTile 0) (checking 0 0).1 (fun t => (vigOf t 0).checks.isEmpty && (t.con.clean.map (·.2)) == [some 1] && t.run.detections.isEmpty) = true := by
  decide +kernel
/-- R151: one that has reached its lag is discarded instead. -/
theorem test_check_overdue : shows (.checkTile 0) (checking 2 0).1 (fun t => (vigOf t 0).checks.isEmpty && t.con.clean.isEmpty && t.ann.lastSeq == 1) = true := by decide +kernel
theorem test_normw : shows (.normw 0) (scribing 0 wNormw) (fun t => (passOf t 0).any fun p => p.norms.any fun n => n.1 == 4 && n.2.head? == some 0x3F800000#32) = true := by
  decide +kernel
/-- The sampling job on the home shelf with the output head complete and its session drawn for. -/
def drawn0 : Pass := { pass0 with outs := [(outKey 0 0 0, some [])], drawn := [(1024, some 9)] }
def drawing : State := let s := scribing 4 wDraw; { s with run := { s.run with live := [drawn0] } }
theorem witness_ChecksAndDraws_draw : passOf drawing 0 = some drawn0 ∧ stageDone drawing drawn0 (headStage drawn0) = true ∧ insnRuns drawing 0 (progOf 4) .sampleDraw ∧
    (∀ x ∈ drawn0.sessions, x ∈ drawn0.late ∨ (drawn0.drawn.any fun d => d.1 == x) = true) := by
  refine ⟨?_, ?_, ?_, ?_⟩ <;> first | decide +kernel | (unfold insnRuns; decide +kernel)
/-- The same with the token not drawn yet: the two logits are 1.0 and 2.0. -/
def undrawn : Pass := { pass0 with outs := [(outKey 0 0 0, some [⟨0x3F800000, false⟩, ⟨0x40000000, false⟩])] }
def drawsNow : State := let s := scribing 4 wDraw; { s with run := { s.run with live := [undrawn] } }
theorem witness_ChecksAndDraws_due : passOf drawsNow 0 = some undrawn ∧ stageDone drawsNow undrawn (headStage undrawn) = true ∧ insnRuns drawsNow 0 (progOf 4) .sampleDraw ∧
    1024 ∈ Machine.drawing undrawn ∧ 1024 ∉ undrawn.late ∧ (undrawn.drawn.any fun d => d.1 == 1024) = false ∧ (findSession drawsNow 1024).isSome = true ∧
    undrawn.vecs.zipIdx.find? (fun v => v.1.session == 1024 && v.1.draws) = some ({ session := 1024, pos := 0, token := 5, classN := false, draws := true }, 0) ∧
    ((homeLeaf tiny 0 (headStage undrawn) 0).map fun l => housedAt drawsNow 0 l.2.1) = some 0 := by
  refine ⟨?_, ?_, ?_, ?_, ?_, ?_, ?_, ?_, ?_⟩ <;> first | decide +kernel | (unfold insnRuns; decide +kernel)
/-- R124: at temperature 0 the greatest logit, 2.0 of index 1, is the token. -/
theorem test_draw : shows (.sampleDraw 0) drawsNow (fun t => (passOf t 0).any fun p => p.drawn == [(1024, some 1)]) = true := by decide +kernel

/-! ### Jobs, runs and tile commands -/

def jobOf (kind : Nat) : Job := { (progOf kind).job with entry := 4 }
def waiting (u : Scribe) : State := { serving with scr := { on.scr with unit := [(0, u)] } }
/-- A run with its payload that waits on shelf 0. -/
def runJob : Job := { jobOf 0xE with seq := 4, first := 98304, last := 114688, entry := 98306 }
def run0 : Run := { stream := 0, seq := 4, shelves := [0], left := [0], scratch := 1, buf := 5, data := leBytes 8 7 }
def loading : State := let s := waiting { freshScribe with ready := [runJob] }; { s with scr := { s.scr with runs := [run0] } }
theorem witness_JobsStartInRankOrder : nextJob (waiting { freshScribe with ready := [jobOf 0] }) 0 = some (jobOf 0) ∧
    nextJob (waiting { freshScribe with suspended := some (progOf 0xE) }) 0 = none ∧
    (scribeOf (waiting { freshScribe with suspended := some (progOf 0xE) }) 0).suspended = some (progOf 0xE) ∧
    nextJob (waiting { freshScribe with run := some (progOf 0xE), ready := [jobOf 0] }) 0 = some (jobOf 0) ∧ jobRank (jobOf 0) = 0 ∧
    (scribeOf (waiting { freshScribe with run := some (progOf 5) }) 0).run = some (progOf 5) ∧
    nextJob loading 0 = some runJob ∧ runOf loading runJob = some run0 ∧ run0.data.length ≤ 0x20000 := by decide +kernel
/-- R127: the run starts at its entry and its payload stands at offset 0 of the run area. -/
theorem test_run_loads : shows (.scribeJobStart 0) loading (fun t => storeByte t 0 0xC0000 == 7 && (scribeOf t 0).area == some 0 &&
    (scribeOf t 0).run.any fun p => p.pc == 98306) = true := by decide +kernel
theorem test_job_start : shows (.scribeJobStart 0) (waiting { freshScribe with ready := [jobOf 5, jobOf 0] }) (fun t => (scribeOf t 0).run == some { job := jobOf 0, pc := 4, count := 0 } &&
    (scribeOf t 0).ready == [jobOf 5]) = true := by decide +kernel
/-- R112: pass work suspends a run. -/
theorem test_run_suspended : shows (.scribeJobStart 0) (waiting { freshScribe with run := some (progOf 0xE), ready := [jobOf 0] })
    (fun t => (scribeOf t 0).suspended == some (progOf 0xE)) = true := by decide +kernel

/-- A begun SCRIBE_RUN of carrel 0: entry 2, 8 bytes of payload, 1 KiB of scratch, on shelf 1. -/
def runBody : Bytes := leBytes 4 2 ++ leBytes 4 8 ++ leBytes 16 0 ++ leBytes 8 1 ++ leBytes 64 2
def runCmd : Cmd := cmd 0 4 0x10 .begun runBody
theorem witness_RunsLoadAndTimeOut : findCmd (withCmd serving runCmd) 0 4 = some runCmd ∧ runShelves runBody = [1] ∧ rd runBody 4 4 = 8 ∧
    (withCmd serving runCmd).scr.runs = [] ∧ (withCmd serving runCmd).scribesOk := by
  refine ⟨?_, ?_, ?_, ?_, ?_⟩ <;> first | decide +kernel | (unfold State.scribesOk; decide +kernel)
theorem test_scribe_run : shows (.scribeRun 0 4 (.data (leBytes 8 7))) (withCmd serving runCmd) (fun t => (t.scr.runs.map (·.data)) == [leBytes 8 7] && ((scribeOf t 1).ready.map (·.entry)) == [98306]) = true := by
  decide +kernel
def timedRun : State := { withCmd serving runCmd with scr := { on.scr with runs := [{ run0 with shelves := [1], left := [1] }] } }
theorem witness_RunsLoadAndTimeOut_timeout : timedRun.scr.runs.find? (fun r => r.stream == 0 && r.seq == 4) = some { run0 with shelves := [1], left := [1] } ∧
    findCmd timedRun 0 4 = some runCmd := by decide +kernel
theorem test_scribe_run_timeout : shows (.scribeRunTimeout 0 4) timedRun (fun t => ended t 0 4 stTimeout 0xFFFFFFFF && t.scr.runs.isEmpty) = true := by decide +kernel

/-- A begun tile command of carrel 0 for tile 2 of this shelf. -/
def tileCmd (op shelf : Nat) : Cmd := cmd 0 4 op .begun (leBytes 1 0 ++ leBytes 1 shelf ++ leBytes 1 2 ++ leBytes 5 0 ++ leBytes 8 0x10000)
def someoneElses : State := { withCmd serving (tileCmd 0x0E 1) with scr := { on.scr with tiles := [(tileKey 1 2, { freshTile with owner := some 1 })] } }
theorem witness_TilesReachTheHost : findCmd (withCmd serving (tileCmd 0x0E 1)) 0 4 = some (tileCmd 0x0E 1) ∧ shelfRegion (withCmd serving (tileCmd 0x0E 1)) 1 = none ∧
    tileAllowed (withCmd serving (tileCmd 0x0E 1)) 0 (tileAt serving 1 2) = true ∧ tileAllowed someoneElses 0 (tileAt someoneElses 1 2) = false ∧
    (tileAt serving 1 2).poison = 0 ∧ (shelfRegion serving 0).isSome = true ∧ (leBytes 4096 0).length = 4096 ∧ serving.scr.tileCmds = [] ∧ serving.scribesOk := by
  refine ⟨?_, ?_, ?_, ?_, ?_, ?_, ?_, ?_, ?_⟩ <;> first | decide +kernel | (unfold State.scribesOk; decide +kernel)
theorem test_tile_read_denied : shows (.tileRead 0 4) someoneElses (fun t => ended t 0 4 stDenied 0 && t.out == someoneElses.out) = true := by decide +kernel
theorem test_tile_write : shows (.tileWrite 0 4 (.data (leBytes 4096 5))) (withCmd serving (tileCmd 0x0F 1)) (fun t => ended t 0 4 stOk 0 && (tileAt t 1 2).elem 0 0 == 5#32) = true := by
  decide +kernel
/-- R96: shelf 0 belongs to region 0. -/
theorem test_tile_waits : shows (.tileRead 0 4) (withCmd serving (tileCmd 0x0E 0)) (fun t => t.scr.tileCmds == [(0, 4, [])]) = true := by decide +kernel

/-! ### Adapters -/

/-- An adapter image of rank 1 in MXFP4 for stage 0: 8,772 bytes at offset 4,096 of 16,384. -/
def adapterImg : Bytes :=
  magicAdapter ++ leBytes 2 1 ++ [2, 1, 0, 0, 0, 0] ++ leBytes 4 1 ++ leBytes 4 0x3F800000 ++ leBytes 8 16384 ++ leBytes 32 0 ++ leBytes 4 0 ++ leBytes 4 8772 ++ leBytes 8 4096
/-- `serving` with a kind-2 program for stage 0 in its image, and a begun ADAPTER_BIND of session 1024 to adapter 9. -/
def binder (flags : Nat) : State :=
  withCmd (withSession { serving with img := { on.img with bound := { tiny with bodies := tiny.bodies ++ [(6, leBytes 16 1 ++ [2] ++ leBytes 15 0)] } } } (sess 1024))
    (cmd 0 3 5 .begun (leBytes 4 1024 ++ leBytes 4 9 ++ leBytes 8 flags ++ leBytes 8 0x100000 ++ leBytes 4 16384))
theorem witness_AdapterBinds : (findCmd (binder 0) 0 3).any (fun k => k.phase == .begun && k.op == 5 && rd k.body 0 4 == 1024 && rd k.body 4 4 == 9 &&
      (findSession (binder 0) 1024).any fun x => bindStatus (binder 0) 0 x k.body (.data adapterImg) == stOk && bindStatus (binder 0) 0 x k.body .error == stFormat) = true ∧
    findLoan (binder 0) 0 9 = none ∧ (binder 0).loans = [] ∧ (binder 2).loans = [] ∧ (findCmd (binder 2) 0 3).any (fun k => (rd k.body 8 2).testBit 1) = true ∧
    (carrelNow (binder 2) 0).loanMib ≠ 0 ∧ reissued (binder 1) true .lost = true ∧ reissued (binder 0) false .lost = false := by decide +kernel
/-- R218, R221: 1 page for the image and 3 for the stage; all its bytes are asked for. -/
theorem test_adapter_bind : shows (.adapterBind 0 3 (.data adapterImg)) (binder 0) (fun t => ended t 0 3 0 0 && (findLoan t 0 9).any fun l => l.pages == 4 && l.held &&
    l.stages.all (·.asked)) = true := by decide +kernel
theorem test_adapter_bind_format : shows (.adapterBind 0 3 .error) (binder 0) (fun t => ended t 0 3 stFormat 0) = true := by decide +kernel

/-- Carrel 0 with adapter 9, whose stage 0 of 4 bytes is asked for. -/
def lending (tries : Nat) : State :=
  { serving with loans := [{ carrel := 0, adapter := 9, addr := 0, len := 64, bulk := false, dtype := 0, rank := 1, alpha := 0
                             stages := [{ stage := 0, len := 4, off := 0, placed := [], data := none, poison := false, asked := true, tries := tries, via := some .pf1 }]
                             head := []
                             pages := 2, lastUse := 0, held := true }] }
theorem witness_AdapterBytesArrive : (findLoan (lending 0) 0 9).any (fun l => (l.stages.find? fun y => y.stage == 0 && y.asked && y.via.isSome).any fun x => x.len == 4 && x.tries == 0) = true ∧
    (findLoan (lending 1) 0 9).any (fun l => (l.stages.find? fun y => y.stage == 0 && y.asked && y.via.isSome).any fun x => x.tries == 1) = true ∧ (lending 0).itk.cmds = [] ∧ (lending 0).loans.all (·.held) = true ∧
    (lending 1).itk.cmds = [] ∧ ((findLoan (lending 0) 0 9).bind fun l => l.stages.find? fun y => y.stage == 1 && y.asked && y.via.isSome) = none ∧ swf regReset (lending 1).regs = true := by
  decide +kernel
theorem test_adapter_bytes : shows (.adapterFetchComplete 0 9 0 (.data [1, 2, 3, 4])) (lending 0) (fun t => (findLoan t 0 9).any loanWhole) = true ∧
    shows (.adapterFetchComplete 0 9 0 .error) (lending 1) (fun t => fget t (Reg.ADP_STATS.FETCH_ERR 0) == 1 && (findLoan t 0 9).any fun l => l.stages.all (·.poison)) = true := by
  decide +kernel

/-! ### Accession -/

/-- The manifest of an accession: one shard of 4 bytes. -/
def manifest1 (d : Bytes) : Manifest :=
  { digest := [1], keyId := [2], geometry := [], paired := false, bodyLen := 4, calibOff := 0, stages := 0, model := [], serial := 7, shards := [(4, d)] }
/-- Region 0 in a phase of its accession, with a begun command of PF1. -/
def acceding (a : Acc) (op : Nat) (body : Bytes) : State :=
  withCmd { serving with acc := [(0, a)] } (cmd 1024 3 op .begun body)
def accAt (p : AccPhase) : Acc := { freshAcc with phase := p, manifest := some (manifest1 [9]) }
def beginBody : Bytes := leBytes 16 0 ++ leBytes 8 0x80
def shardBody : Bytes := leBytes 4 0 ++ leBytes 4 0 ++ leBytes 8 0x1000 ++ leBytes 8 4
def trusting (s : State) : State :=
  { s with img := { s.img with bound := { s.img.bound with serial := 5 } } }

theorem witness_AccessionCommands : (acceding (accAt .receiving) 0x20 beginBody).accOk ∧ (acceding (accAt .receiving) 0x20 beginBody).regsOk ∧
    (findCmd (acceding (accAt .receiving) 0x20 beginBody) 1024 3).any (fun k => k.phase == .begun && k.op == 0x20) = true ∧
    beginBusy (acceding (accAt .receiving) 0x20 beginBody) 0 = true ∧ beginBusy (acceding freshAcc 0x20 beginBody) 0 = false ∧ serving.img.bound.publishers = [] ∧
    takesShards (accAt .paused) = true ∧ (rd shardBody 1 1).testBit 0 = false ∧ (manifest1 [9]).shards[rd shardBody 4 4]?.map (·.1) = some (rd shardBody 0x10 4) ∧
    sget (fun _ => ([] : Bytes)) (accAt .paused).shards 0 = [] ∧ (accAt .receiving).targets = [] := by
  refine ⟨?_, ?_, ?_, ?_, ?_, ?_, ?_, ?_, ?_, ?_, ?_⟩ <;> first | decide +kernel | (unfold State.accOk; decide +kernel) | (unfold State.regsOk; decide +kernel)
/-- R191: the plain image lists no publisher, so NO_TRUST, which completes with DENIED; a region in progress is BUSY. -/
theorem test_acc_begin : shows (.accBegin 3 .error) (acceding freshAcc 0x20 beginBody) (fun t => ended t 1024 3 stDenied 0 && (accOf t 0).lastResult == 2) = true ∧
    shows (.accBegin 3 .error) (acceding (accAt .receiving) 0x20 beginBody) (fun t => (accOf t 0).lastResult == 1 && (accOf t 0).phase == .receiving) = true := by decide +kernel
theorem test_acc_shard : shows (.accShard 3) (acceding (accAt .paused) 0x21 shardBody) (fun t => (accOf t 0).phase == .receiving && ((accOf t 0).fetches.map fun f => (f.seq, f.index, f.addr, f.tries)) == [(3, 0, 0x1000, 1)]) = true := by
  decide +kernel
theorem test_acc_commit : shows (.accCommit 3) (acceding (accAt .receiving) 0x22 beginBody) (fun t => (accOf t 0).phase == .committing) = true ∧
    shows (.accCommit 3) (acceding (accAt .paused) 0x22 beginBody) (fun t => ended t 1024 3 stTimeout 0) = true := by decide +kernel
theorem test_acc_cancel : shows (.accCancel 3) (acceding (accAt .receiving) 0x23 beginBody) (fun t => ended t 1024 3 stOk 0 && (accOf t 0).phase == .idle) = true ∧
    shows (.accCancel 3) (acceding (accAt .flipPending) 0x23 beginBody) (fun t => ended t 1024 3 stAlready 0 && (accOf t 0).phase == .flipPending) = true := by decide +kernel

/-- The accession fetches its shard for a begun ACC_SHARD; its digest is that of 1, 2, 3, 4, and the region's blocks are not all there. -/
def fetching (tries : Nat) : State :=
  acceding { accAt .receiving with manifest := some (manifest1 (shake256 [1, 2, 3, 4])), fetches := [⟨3, 0, 0x1000, false, tries, 0⟩] } 0x21 shardBody
theorem witness_ShardsVerifyOrPause : (fetching 1).accOk ∧ (fetching 1).regsOk ∧ (accOf (fetching 1) 0).fetches.length = 1 ∧
    (accOf (fetching 1) 0).phase = .receiving ∧ (findCmd (fetching 1) 1024 3).isSome = true ∧
    (let s' := modAcc (fetching 1) 0 fun a => { a with shards := sset (fun _ => ([] : Bytes)) a.shards 0 [1, 2, 3, 4], fetches := a.fetches.filter (·.index != 0) }
     ((fetching 1).img.bound.region? 0).all (fun g => !bodyFault s' g (accOf s' 0) (manifest1 (shake256 [1, 2, 3, 4]))) = true) ∧
    (accOf (fetching 4) 0).targets = [] ∧ allShards (accOf (fetching 1) 0) = false ∧ (∃ x ∈ (accOf (fetching 1) 0).fetches, x.due ≤ (fetching 1).clk.tick) ∧ (accOf serving 0).fetches = [] ∧ (accOf serving 0).timer = none := by
  refine ⟨?_, ?_, ?_, ?_, ?_, ?_, ?_, ?_, ?_, ?_, ?_⟩ <;> first | decide +kernel | (unfold State.accOk; decide +kernel) | (unfold State.regsOk; decide +kernel)
theorem test_shard_verifies : shows (.shardFetchComplete 0 0 (.data [1, 2, 3, 4])) (fetching 1) (fun t => ended t 1024 3 stOk 0 && allShards (accOf t 0)) = true := by decide +kernel
/-- R207: the fourth bad fetch fails the accession with DIGEST. -/
theorem test_shard_fails : shows (.shardFetchComplete 0 0 (.data [1, 2, 3, 5])) (fetching 4) (fun t => ended t 1024 3 stFormat 0 && (accOf t 0).phase == .failed &&
    (accOf t 0).lastResult == 7) = true := by decide +kernel
theorem test_shard_timeout : shows (.shardTimeout 0) (fetching 1) (fun t => ended t 1024 3 stTimeout 0 && (accOf t 0).phase == .paused) = true := by decide +kernel

/-- Every shard verified, no folio to wait for, ACC_COMMIT waiting. -/
def committing : State := acceding { accAt .committing with manifest := some { manifest1 [] with shards := [] }, commitSeq := some 3 } 0x22 beginBody
/-- A copy of the archive that a flip left, with or without passes to go. -/
def leaving (n : Nat) : State := acceding { freshAcc with oldArchive := some ([], n, 5) } 0x22 beginBody
/-- The same with a pass of the region in flight. -/
def inPassToo (s : State) : State := { s with run := { s.run with live := [pass0] } }
theorem witness_CommitAndArchive : committing.accOk ∧ committing.regsOk ∧ (committing.img.bound.region? 0).isSome = true ∧ (accOf committing 0).phase = .committing ∧
    allShards (accOf committing 0) = true ∧ allReady committing (accOf committing 0) = true ∧ swf (fun _ => freshVigilance) committing.run.vig = true ∧
    (findCmd committing 1024 3).isSome = true ∧ (accOf (leaving 0) 0).oldArchive = some ([], 0, 5) ∧ (vigOf (leaving 0) 0).checks = [] ∧
    (accOf (leaving 2) 0).oldArchive = some ([], 2, 5) ∧ incoming (accOf committing 0) = [] ∧
    passOf committing 0 = none ∧ (passOf (inPassToo committing) 0).isSome = true ∧ (accOf (inPassToo committing) 0).phase = .committing := by
  refine ⟨?_, ?_, ?_, ?_, ?_, ?_, ?_, ?_, ?_, ?_, ?_, ?_, ?_, ?_, ?_⟩ <;> first | decide +kernel | (unfold State.accOk; decide +kernel) | (unfold State.regsOk; decide +kernel)
/-- R204: a pass in flight keeps the old package until its boundary; without one the boundary is at once. -/
theorem test_commit : shows (.commitRecordsDurable 0 true true) (inPassToo committing) (fun t => (accOf t 0).phase == .flipPending && (accOf t 0).package.isNone && (accOf t 0).newPackage.isSome) = true ∧
    shows (.commitRecordsDurable 0 true true) committing (fun t => (accOf t 0).phase == .idle && (accOf t 0).package.isSome && (accOf t 0).generation == 1) = true ∧
    shows (.commitRecordsDurable 0 true false) committing (fun t => ended t 1024 3 stNoSpace 0 && (accOf t 0).package.isNone) = true := by decide +kernel
theorem test_archive_free : shows (.archiveCopyFree 0) (leaving 0) (fun t => (accOf t 0).oldArchive.isNone) = true ∧
    shows (.archiveCopyFree 0) (leaving 2) (fun t => (accOf t 0).oldArchive.isSome) = true := by decide +kernel

/-- A rehousing: position 3 of shelf 2 is to hold slot 0 of region 0, with the block [] of its package. -/
def rehousing : State :=
  { serving with acc := [(0, { freshAcc with package := some { package with blocks := [[]] }, targets := [{ named := 0, slot := 0, shelf := 2, pos := 3, block := 0, low := false }] })] }
def folio1 (f : Folio) : State := { serving with arr := { on.arr with folios := [(0, f)] } }
def worn : State :=
  { serving with
    img := { on.img with bound := { tiny with bodies := tiny.bodies ++ [(0xC, leBytes 0 0)] } }
    arr := { on.arr with folios := [(0, { freshFolio with st := .serving, logical := 0, region := 0, wear := 1000 })] } }
theorem witness_FoliosAreProgrammed : startable rehousing 0 = [(0, { named := 0, slot := 0, shelf := 2, pos := 3, block := 0, low := false })] ∧
    0 < programSlots rehousing 0 .accession (fget rehousing Reg.ACC_CTRL.POWER_DW) ∧
    targetBlock rehousing 0 (accOf rehousing 0) { named := 0, slot := 0, shelf := 2, pos := 3, block := 0, low := false } = some [] ∧ startable serving 0 = [] ∧
    (folioAt (folio1 { freshFolio with st := .accessing }) 0).st = .accessing ∧ (folioAt serving 0).st ≠ .accessing ∧
    stuckOk (stuckMapOf freshFolio []) = true ∧ stuckOk (stuckMapOf { freshFolio with st := .accessing } (List.replicate 1025 (0, 0, 0, 0, 0))) = false ∧
    (accOf (folio1 { freshFolio with st := .accessing }) 0).targets = [] ∧
    (folioAt worn 0).st = .serving ∧ (accOf worn 0).archive = true ∧ (worn.img.bound.budget 5).enable = true ∧ copyOf worn 0 = none ∧
    (spareFor worn 0 4).any (fun c => (folioAt worn c).wear + 256 ≤ 1000) = true ∧ 0 < programSlots worn 0 .wear (worn.img.bound.budget 5).powerDw ∧
    hallOff rehousing 0 = false ∧ hallOff worn 0 = false ∧ hallOff (folio1 { freshFolio with st := .accessing }) 0 = false ∧ worn.foliosOk ∧ worn.regsOk := by
  refine ⟨?_, ?_, ?_, ?_, ?_, ?_, ?_, ?_, ?_, ?_, ?_, ?_, ?_, ?_, ?_, ?_, ?_, ?_, ?_, ?_⟩ <;> first | decide +kernel | (unfold State.foliosOk; decide +kernel) | (unfold State.regsOk; decide +kernel)
/-- R200: ACCESSING, WEAR 1. -/
theorem test_program_start : shows (.folioProgramStart 0) rehousing (fun t => (folioAt t (folioKey 2 3)).st == .accessing && (folioAt t (folioKey 2 3)).wear == 1) = true := by decide +kernel
theorem test_program_done : shows (.folioProgramDone 0 0 []) (folio1 { freshFolio with st := .accessing }) (fun t => (folioAt t 0).st == .collating && (folioAt t 0).trimProgs == 1) = true := by
  decide +kernel
/-- R211: the youngest spare, 256 accessions younger, takes the copy. -/
theorem test_wear_level : shows (.wearLevel 0 0) worn (fun t => (folioAt t 0).st == .serving && (folioAt t 0).leveled.isSome && (folioAt t 1).st == .accessing) = true := by decide +kernel

/-! ### Collation -/

/-- Folio 0 serving slot 0 of region 0, as `f` changes it. -/
def servingFolio : Folio := { freshFolio with st := .serving, logical := 0, region := 0 }
def holding (f : Folio) : State := folio1 f
/-- A shadow bank that is valid for the next vector, or a sweep's fit that calls for an update. -/
def shadowed : State := holding { servingFolio with shadowValid := true, bankB := [(0, 5)] }
def fitted : State := { holding servingFolio with col := { on.col with fits := [(0, some ⟨true, [], []⟩)] } }
theorem witness_BanksSwitchBetweenVectors : shadowed.foliosOk ∧ shadowed.regsOk ∧ swf (fun _ => freshWin) shadowed.col.wins = true ∧ (folioAt shadowed 0).st = .serving ∧
    (folioAt shadowed 0).shadowAt = 0 ∧ betweenVectors shadowed 0 = true ∧ archiveHere fitted 0 = true ∧ updateDue fitted 0 true true = true ∧ (folioChain fitted 0).isSome = true ∧
    (folioAt fitted 0).shadowValid = false ∧ hallOff shadowed 0 = false ∧ hallOff fitted 0 = false ∧ (folioAt serving 0).st ≠ .serving ∧
    (fitOf fitted 0).isSome = true ∧ swf (fun _ => (none : Option Fit)) fitted.col.fits = true ∧ (folioAt shadowed 0).bank < 2 := by
  refine ⟨?_, ?_, ?_, ?_, ?_, ?_, ?_, ?_, ?_, ?_, ?_, ?_, ?_, ?_, ?_, ?_⟩ <;> first | decide +kernel | (unfold State.foliosOk; decide +kernel) | (unfold State.regsOk; decide +kernel)
/-- R161: bank B becomes active, and SWITCHES of hall 0 counts one. -/
theorem test_bank_switch : shows (.bankSwitch 0 0) shadowed (fun t => (folioAt t 0).bank == 1 && !(folioAt t 0).shadowValid && activeBank (folioAt t 0) == [(0, 5)] &&
    fget t (Reg.COL_EVENTS.SWITCHES 0) == 1) = true := by decide +kernel
/-- R161, R162: without a fit no update is issued. -/
theorem test_no_update : shows (.tapUpdate 0 0 true true) (holding servingFolio) (fun t => !(folioAt t 0).shadowValid) = true := by decide +kernel

/-- A full window of folio 0 that waits for its fit. -/
def windowed : State := { holding servingFolio with col := { on.col with full := [(0, { freshWin with vectors := 2 ^ 20 })] } }
def collatingAt (n : Nat) : State := holding { servingFolio with st := .collating, sweeps := n }
/-- Its sweep 0 with `n` strikes made, each with code `c` in column 0 and 0 elsewhere, on a folio whose levels are all 0. -/
def strikesOf (n : Nat) (c : Int) : SweepRun := { number := 0, temp := 0, since := none, codes := List.replicate n [c] }
def blank : Folio := { servingFolio with st := .collating, sweeps := 1, content := .high [] }
def swept1 (n : Nat) (c : Int) : State := { holding blank with col := { on.col with sweeps := [(0, some (strikesOf n c))] } }
theorem blank_level (i j : Nat) : levelAt blank.content i j = 0 := by
  simp [levelAt, blank, blkPaired, blkM, blkQ, levelOne, rnd16, clampInt, rd, rdInt, slice, leNat]
/-- The fits of such a sweep: the codes of column 0 are all offset, and the other columns are all 0. -/
theorem blank_fits (c : Int) : sweepFits blank 0 (strikesOf 128 c) =
    (List.range 512).map fun j => fitColumn 0 (List.replicate 16 ([c].getD j 0)) (List.replicate 112 ([c].getD j 0)) (List.replicate 112 0) := by
  have h : ∀ j rows, idealSum blank j rows = 0 := by intro j rows; simp [idealSum, blank_level]
  unfold sweepFits
  refine List.map_congr_left fun j _ => ?_
  simp only [strikesOf, List.map_replicate, List.take_replicate, List.drop_replicate, List.map_map, Function.comp_def, h, List.map_const', List.length_range]
  rfl
theorem fits_converge : (sweepFits blank 0 (strikesOf 128 0)).all columnConverged = true ∧ (sweepFits blank 0 (strikesOf 128 127)).all columnConverged = false := by
  rw [blank_fits, blank_fits]; decide +kernel
theorem witness_SweepsAndWindows : windowed.foliosOk ∧ windowed.regsOk ∧ (folioAt windowed 0).st = .serving ∧
    (sget (fun _ => freshWin) windowed.col.full 0).vectors ≠ 0 ∧ periodOver windowed 2 (sget (fun _ => (none : Option Nat)) windowed.col.visited 0) = true ∧ archiveHere windowed 0 = true ∧ powerAllows windowed 0 2 0 = true ∧ powerAllows windowed 0 2 (2 ^ 40) = false ∧
    activityOn windowed (Reg.COL_CTRL.PASSIVE_EN 0) 2 = true ∧ (sget (fun _ => freshWin) (holding servingFolio).col.full 0).vectors = 0 ∧
    (folioAt (collatingAt 0) 0).st = .collating ∧ (folioAt (collatingAt 0) 0).ready = false ∧
    sweepOf (collatingAt 0) 0 = none ∧ sweepOf (swept1 128 127) 0 = some (strikesOf 128 127) ∧
    sweepOf (swept1 127 0) 0 = some (strikesOf 127 0) ∧ (strikesOf 127 0).codes.length = 127 ∧ (strikesOf 128 127).codes.length = 128 ∧ blank.sweeps < 16 ∧ blank.bank < 2 ∧
    swf (fun _ => (none : Option SweepRun)) (swept1 128 127).col.sweeps = true ∧ (folioAt (swept1 128 127) 0) = blank ∧
    hallOff windowed 0 = false ∧ hallOff (collatingAt 0) 0 = false ∧ hallOff (swept1 128 127) 0 = false ∧ swf (fun _ => fone) windowed.col.khat = true ∧ swf (fun _ => (0 : Int)) on.col.temps = true ∧
    passNeeds (striking 0 false) 0 = true ∧ (folioAt (striking 0 false) 0).st = .serving ∧ (folioAt (collatingAt 0) 0).purpose ≠ .accession ∧ archiveHere (collatingAt 0) 0 = true := by
  refine ⟨?_, ?_, ?_, ?_, ?_, ?_, ?_, ?_, ?_, ?_, ?_, ?_, ?_, ?_, ?_, ?_, ?_, ?_, ?_, ?_, ?_, ?_, ?_, ?_, ?_, ?_, ?_, ?_, ?_, ?_⟩ <;> first | decide +kernel | (unfold State.foliosOk; decide +kernel) | (unfold State.regsOk; decide +kernel)
theorem test_window_end : shows (.passiveWindowEnd 0 0 0) windowed (fun t => t.col.full.isEmpty) = true := by decide +kernel
/-- R170: none comes after the 128th strike, and no fit before it. -/
theorem test_sweep : shows (.activeSweep 0 0) (swept1 128 0) (fun t => (sweepOf t 0).any fun x => x.codes.length == 128) = true ∧
    shows (.sweepFit 0 0 [] [] 0) (swept1 127 0) (fun t => (sweepOf t 0).isSome) = true := by decide +kernel

def deepDue : State := holding { servingFolio with deepPending := true }
/-- A failed folio; a deep collation under way; the region in the scope of a bind. -/
def failedFolio : State := holding { servingFolio with failed := true }
def deepCopied : State :=
  { deepDue with arr := { on.arr with folios := [(0, { servingFolio with deepPending := true }), (1, { freshFolio with st := .accessing, logical := 0, region := 0, purpose := .deep, replaces := 0 })] } }
def bindOver (s : State) : State := { s with img := { s.img with op := some ⟨imageWith [], [0], [], false⟩ } }
def refreshDue : State := holding { servingFolio with refreshDue := true }
def noArchive (s : State) : State := { s with acc := [] }
theorem witness_CopiesAndAges : deepDue.foliosOk ∧ deepDue.regsOk ∧ (folioAt deepDue 0).deepPending = true ∧ copyOf deepDue 0 = none ∧ archiveHere deepDue 0 = true ∧
    activityOn deepDue (Reg.COL_CTRL.DEEP_EN 0) 4 = true ∧ 0 < programSlots deepDue 0 .deep (deepDue.img.bound.budget 4).powerDw ∧ spareFor deepDue 0 3 = some 1 ∧
    archiveHere (noArchive deepDue) 0 = false ∧ deepDue.col.deferred.elem 0 = false ∧ bindHolds deepDue 0 = false ∧ bindHolds (bindOver deepDue) 0 = true ∧ copyOf deepCopied 0 = some 1 ∧
    (folioAt failedFolio 0).failed = true ∧ copyOf failedFolio 0 = none ∧ 0 < programSlots failedFolio 0 .repair (failedFolio.img.bound.budget 1).powerDw ∧ spareFor failedFolio 0 1 = some 1 ∧ (folioAt refreshDue 0).refreshDue = true ∧
    activityOn refreshDue (Reg.COL_CTRL.REFRESH_EN 0) 1 = true ∧ 0 < programSlots refreshDue 0 .refresh (refreshDue.img.bound.budget 1).powerDw ∧ spareFor refreshDue 0 2 = some 1 ∧
    hallOff deepDue 0 = false ∧ hallOff refreshDue 0 = false ∧ hallOff { on with pst := { on.pst with depth := 3 } } 0 = true ∧ unpowered refreshDue = false ∧ unpowered { on with pst := { on.pst with depth := 4 } } = true := by
  refine ⟨?_, ?_, ?_, ?_, ?_, ?_, ?_, ?_, ?_, ?_, ?_, ?_, ?_, ?_, ?_, ?_, ?_, ?_, ?_, ?_, ?_, ?_, ?_, ?_, ?_, ?_⟩ <;> first | decide +kernel | (unfold State.foliosOk; decide +kernel) | (unfold State.regsOk; decide +kernel)
theorem test_deep_collation : shows (.deepCollation 0 0) deepDue (fun t => (folioAt t 1).st == .accessing && (folioAt t 1).purpose == .deep && (folioAt t 0).st == .serving) = true := by
  decide +kernel
theorem test_drift_refresh : shows (.driftRefresh 0 0) refreshDue (fun t => (folioAt t 1).purpose == .refresh && (folioAt t 1).wear == 1) = true := by decide +kernel
/-- R172: the deferral is recorded at the first attempt. -/
theorem test_deep_deferred : shows (.deepCollation 0 0) (noArchive deepDue) (fun t => t.col.deferred == [0] && fget t Reg.ANN_LAST_SEQ.SEQ == fget deepDue Reg.ANN_LAST_SEQ.SEQ + 1) = true := by
  decide +kernel
theorem test_drift_hour : shows (.driftHourlyUpdate [0, 0, 0, 0]) (holding { servingFolio with ageHours := 3 }) (fun t => (folioAt t 0).ageHours == 4) = true := by decide +kernel

def askedOnce (s : State) : State := { s with col := { s.col with request := [(0, some (2, 9, 0))] } }
theorem witness_CollationRequests : (holding servingFolio).foliosOk ∧ (holding servingFolio).regsOk ∧ unpowered (holding servingFolio) = false ∧
    requestPending (askedOnce deepDue) 0 = true ∧ requestPending (holding servingFolio) 0 = false ∧ selectedFolio (holding servingFolio) 0 = 0 ∧
    (folioAt serving 0).st ≠ .serving ∧ (folioAt serving 0).st ≠ .collating ∧ archiveHere (holding servingFolio) 0 = true ∧
    activityOn (holding servingFolio) (Reg.COL_CTRL.ACTIVE_EN 0) 3 = true ∧ usableSpares (holding servingFolio) 0 ≠ [] ∧
    swf (fun _ => (none : Option (Nat × Nat × Nat))) (askedOnce deepDue).col.request = true ∧
    activityOn deepCopied (Reg.COL_CTRL.REFRESH_EN 0) 1 = true ∧ usableSpares deepCopied 0 ≠ [] ∧ requestPending deepCopied 0 = false ∧ (folioAt deepCopied 1).purpose = .deep := by
  refine ⟨?_, ?_, ?_, ?_, ?_, ?_, ?_, ?_, ?_, ?_, ?_, ?_, ?_, ?_, ?_, ?_⟩ <;> first | decide +kernel | (unfold State.foliosOk; decide +kernel) | (unfold State.regsOk; decide +kernel)
/-- R184: BUSY is 1, STATE is 2. -/
theorem test_requests_refused : shows (.reqSweep 0 5) (askedOnce deepDue) (fun t => fget t (Reg.COL_STATUS.LAST_RESULT 0) == 1 && fget t (Reg.COL_STATUS.TAG 0) == 0) = true ∧
    shows (.reqDeep 0 5) serving (fun t => fget t (Reg.COL_STATUS.LAST_RESULT 0) == 2) = true := by decide +kernel
theorem test_requests_taken : shows (.reqSweep 0 5) (holding servingFolio) (fun t => (folioAt t 0).sweepPending && fget t (Reg.COL_STATUS.TAG 0) == 5) = true ∧
    shows (.reqDeep 0 5) (holding servingFolio) (fun t => (folioAt t 0).deepPending) = true ∧ shows (.reqRefresh 0 5) (holding servingFolio) (fun t => (folioAt t 0).refreshDue) = true := by
  decide +kernel
/-- R177: a refresh asked for while the deep collation of the folio runs is served by that copy. -/
theorem test_refresh_joins : shows (.reqRefresh 0 5) deepCopied (fun t => (folioAt t 1).purpose == .refresh && (folioAt t 0).refreshDue) = true := by decide +kernel
theorem test_checkpoints : shows (.reqCheckpoint 0 5 true) shadowed (fun t => t.col.checkpoints.length == 1 && fget t (Reg.COL_STATUS.TAG 0) == 5) = true ∧
    shows (.tapCheckpointTimer true) (holding { servingFolio with bankA := [(1, 2)] }) (fun t => t.col.checkpoints == [⟨[(0, [(1, 2)])]⟩]) = true := by decide +kernel

def held0 : State := { holding { servingFolio with bootDone := true } with acc := [(0, { freshAcc with holdBoot := true, ready := false })] }
theorem witness_BootCollationFreesTheRegion : held0.accOk ∧ held0.regsOk ∧ unpowered held0 = false ∧ (accOf held0 0).holdBoot = true ∧ (accOf serving 0).holdBoot = false ∧
    (∀ q < 16, q ≠ 0 → (accOf held0 q).holdBoot = false) ∧ held0.foliosOk := by
  refine ⟨?_, ?_, ?_, ?_, ?_, ?_, ?_⟩ <;> first | decide +kernel | (unfold State.accOk; decide +kernel) | (unfold State.regsOk; decide +kernel) | (unfold State.foliosOk; decide +kernel)
theorem test_boot_collation : shows (.bootCollationComplete 0 none []) held0 (fun t => (accOf t 0).ready && !(accOf t 0).holdBoot && fget t Reg.RST_STATUS.READY == 1) = true := by decide +kernel
/-- R344: no bank switches while the hall's clocks stand in Deep sleep. -/
theorem test_sleep_no_switch : shows (.bankSwitch 0 0) { shadowed with pst := { on.pst with depth := 3 } } (fun t => (folioAt t 0).bank == 0) = true := by decide +kernel

/-! ### Tsuyx links -/

/-- Port 0 (mesh) enabled, in a state of TSX.STATUS, with this port behind it; `s` is of no orbit. -/
def port0 (st : Nat) (p : Port) : State := fset (fset { on with tsx := [(0, p)] } (Reg.TSX_CTRL.ENABLE 0) 1) (Reg.TSX_STATUS.STATE 0) st
def flit1 (seq : Nat) : Flit := { typ := 2, seq := seq, vc := 0, payload := [5] }
def linkPort : Port := { freshPort with locked := true, trains := 2, admitted := true, held := [flit1 7, flit1 8], nextSeq := 9 }
/-- TRAIN bodies of a mesh port and of an upstream one. -/
def trainOf (cls : Nat) : Bytes := leBytes 8 0x1234 ++ leBytes 1 3 ++ leBytes 1 cls ++ leBytes 11 0 ++ leBytes 2 32 ++ leBytes 2 384 ++ leBytes 2 128 ++ leBytes 12 0

theorem witness_PortsTrainAndFall : (port0 0 freshPort).regsOk ∧ (port0 2 linkPort).portsOk ∧ unpowered (port0 0 freshPort) = false ∧
    fget (port0 0 freshPort) (Reg.TSX_CTRL.ENABLE 0) = 1 ∧ portActive (port0 0 freshPort) 0 = false ∧ (portAt (port0 0 freshPort) 0).dead = false ∧
    fget (port0 0 freshPort) (Reg.TSX_CTRL.LOOPBACK 0) = 0 ∧ 15 &&& lanesWanted (port0 0 freshPort) 0 = lanesWanted (port0 0 freshPort) 0 ∧
    fget (fset (port0 0 freshPort) (Reg.TSX_CTRL.LOOPBACK 0) 1) (Reg.TSX_CTRL.LOOPBACK 0) = 1 ∧ fget on (Reg.TSX_CTRL.ENABLE 0) = 0 ∧
    (portAt (port0 1 { freshPort with locked := true }) 0).locked = true ∧ fget (port0 1 freshPort) (Reg.TSX_STATUS.STATE 0) = 1 ∧
    fget (port0 1 freshPort) Reg.ORB_STATUS.STATE = 0 ∧ classesPair (portClass (port0 1 freshPort) 0) (rd (trainOf 0) 9 1) = true ∧
    classesPair (portClass (port0 1 freshPort) 0) (rd (trainOf 2) 9 1) = false ∧ portActive (port0 2 linkPort) 0 = true := by
  refine ⟨?_, ?_, ?_, ?_, ?_, ?_, ?_, ?_, ?_, ?_, ?_, ?_, ?_, ?_, ?_, ?_⟩ <;> first | decide +kernel | (unfold State.portsOk; decide +kernel) | (unfold State.regsOk; decide +kernel)
theorem witness_PortsTrainAndFall_keepalive : (portAt (port0 2 linkPort) 0).kaLast + fget (port0 2 linkPort) (Reg.TSX_TIMERS.LOSS_US 0) ≤
      ({ port0 2 linkPort with clk := { on.clk with tick := 2 ^ 20 } } : State).clk.tick ∧
    (port0 2 linkPort).clk.tick < (portAt (port0 2 linkPort) 0).kaLast + fget (port0 2 linkPort) (Reg.TSX_TIMERS.LOSS_US 0) := by decide +kernel
theorem test_port_train : shows (.portTrain 0 15) (port0 0 freshPort) (fun t => fget t (Reg.TSX_STATUS.STATE 0) == 1 && fget t (Reg.TSX_STATUS.LANE_LOCK 0) == 15 &&
    (t.out.flits.head?).any fun f => f.1 == 0 && rd f.2 0 1 == 3) = true := by decide +kernel
theorem test_second_train : shows (.train 0 (trainOf 0)) (port0 1 { freshPort with locked := true, trains := 1 }) (fun t => portActive t 0 && fget t (Reg.TSX_STATUS.LINK_GEN 0) == 1) = true := by
  decide +kernel
/-- R291: a mesh port and an upstream port do not pair: MISWIRED. -/
theorem test_miswired : shows (.train 0 (trainOf 2)) (port0 1 { freshPort with locked := true, trains := 1 }) (fun t => fget t (Reg.TSX_STATUS.STATE 0) == 4) = true := by decide +kernel
theorem test_lane_lock_loss : shows (.laneLockLoss 0) (port0 2 linkPort) (fun t => fget t (Reg.TSX_STATUS.STATE 0) == 3 && (portAt t 0).inDoubt == some (7, 8)) = true := by decide +kernel
theorem test_keepalive_loss : shows (.keepaliveLoss 0) { port0 2 linkPort with clk := { on.clk with tick := 2 ^ 20 } } (fun t => fget t (Reg.TSX_STATUS.LOSS_CAUSE 0) == 2) = true ∧
    shows (.keepaliveLoss 0) (port0 2 linkPort) (fun t => portActive t 0) = true := by decide +kernel
theorem test_retrain : shows (.retrain 0) (port0 2 linkPort) (fun t => fget t (Reg.TSX_STATUS.STATE 0) == 1 && fget t (Reg.TSX_STATUS.LOSS_CAUSE 0) == 4) = true := by decide +kernel
/-- R292: lane 1 fails; lanes 2 and 3 are the pair. -/
theorem test_lane_fail : shows (.laneFail 0 1) (port0 2 linkPort) (fun t => fget t (Reg.TSX_STATUS.LANE_FAIL 0) == 2 && (portAt t 0).pair == 2) = true := by decide +kernel

/-- A FORK-less flit of a SNAP_REQ, as the wire has it. -/
def snapFlit (seq : Nat) : Bytes := flitBytes 2 false seq 7 0 0 5 (leBytes 1 5 ++ leBytes 7 0 ++ leBytes 2 16 ++ leBytes 6 0 ++ leBytes 16 0xAB)
theorem witness_FlitsAreAcknowledged : portActive (port0 2 linkPort) 0 = true ∧ (portAt (port0 2 linkPort) 0).waiting = [] ∧ (acked linkPort 7 0 5).held ≠ [] ∧
    (acked linkPort 7 0 5).replays < 8 ∧ linkPort.held ≠ [] ∧ (portAt (port0 2 { linkPort with held := [] }) 0).held = [] ∧
    fget (port0 2 linkPort) (Reg.TSX_INJ_CTRL.ENABLE 0) = 0 ∧ (snapFlit 0).length = 256 ∧ crc32c ((snapFlit 0).take 252) = rd (snapFlit 0) 252 4 ∧
    (rd (snapFlit 0) 1 1).testBit 0 = false ∧ rd (snapFlit 0) 0 1 = 2 ∧ rd (snapFlit 0) 2 2 % 4096 = (linkPort.ack + 1) % 4096 ∧
    knownPayload 2 (slice (snapFlit 0) 12 (rd (snapFlit 0) 10 2)) = true ∧ rd (snapFlit 3) 2 2 % 4096 ≠ (linkPort.ack + 1) % 4096 ∧
    crc32c ((snapFlit 3).take 252) = rd (snapFlit 3) 252 4 ∧ portActive on 0 = false := by decide +kernel
/-- R294: ACK 7 releases the flit numbered 7. -/
theorem test_idle_flit : shows (.idleFlit 0 7 1 5) (port0 2 linkPort) (fun t => (portAt t 0).held.map (·.seq) == [8] && (portAt t 0).credits == [0, 5, 0]) = true := by decide +kernel
theorem test_keepalive : shows (.keepalive 0 8 1 5) { port0 2 linkPort with clk := { on.clk with tick := 77 } } (fun t => (portAt t 0).held.isEmpty && (portAt t 0).kaLast == 77) = true := by
  decide +kernel
theorem test_nack : shows (.nack 0 7 1 5) (port0 2 linkPort) (fun t => t.out.flits.length == 1 && fget t (Reg.TSX_REPLAY.RESENT 0) == 1) = true := by decide +kernel
theorem test_replay_timeout : shows (.replayTimeout 0) (port0 2 linkPort) (fun t => (t.out.flits.map fun f => rd f.2 2 2) == [8, 7]) = true := by decide +kernel
theorem test_keepalive_timer : shows (.keepaliveSendTimer 0) (port0 2 linkPort) (fun t => (t.out.flits.map fun f => rd f.2 0 1) == [3]) = true := by decide +kernel
theorem test_flit_accepted : shows (.sequencedFlitReceive 0 (snapFlit 0) 0 false) (port0 2 linkPort) (fun t => (portAt t 0).ack == 0 && (portAt t 0).inbox.length == 1) = true := by decide +kernel
/-- R295: out of order, discarded, NACK in an IDLE. -/
theorem test_flit_out_of_order : shows (.sequencedFlitReceive 0 (snapFlit 3) 0 false) (port0 2 linkPort) (fun t => (portAt t 0).inbox.isEmpty && (portAt t 0).nackOut &&
    (t.out.flits.map fun f => (rd f.2 0 1, rd f.2 1 1)) == [(0, 1)]) = true := by decide +kernel

/-- An orbit of members 0 and 1 with region 0 on both, shelf 0 housing it; port 0 is member 1's. -/
def txn (kind poison len tag addr : Nat) (data : Bytes) : Bytes := leBytes 1 kind ++ leBytes 1 poison ++ leBytes 2 len ++ leBytes 4 tag ++ leBytes 8 addr ++ data
def orbitImage (member : Nat) : Image :=
  { tiny with bodies := tiny.bodies ++ [(0xA, leBytes 2 0x100 ++ leBytes 1 member ++ [2, 0, 1, 0xFF, 0] ++ leBytes 8 0x77 ++ leBytes 176 0 ++ leBytes 4 0 ++ leBytes 4 3)] }
def orbiting : Image := orbitImage 0
def receiving (vc : Nat) (b : Bytes) (adm : Bool) : State :=
  { port0 2 { linkPort with held := [], inbox := [{ typ := 1, seq := 4, vc := vc, payload := b }], admitted := adm, buffers := [8, 8, 8] } with
    img := { on.img with bound := orbiting }, acc := serving.acc }
def writeTxn (addr : Nat) : Bytes := txn 1 0 64 0 addr (leBytes 64 0xAB)
/-- The pass scratch of shelf 0 begins at A0000H. -/
theorem witness_TransactionsTakeEffect : (receiving 1 (writeTxn 0xA0000) true).regsOk ∧ (receiving 1 (writeTxn 0xA0000) true).portsOk ∧
    (receiving 1 (writeTxn 0xA0000) true).scribesOk ∧ frontFlit (receiving 1 (writeTxn 0xA0000) true) 0 1 = some { typ := 1, seq := 4, vc := 1, payload := writeTxn 0xA0000 } ∧
    rd (writeTxn 0xA0000) 0 1 = 1 ∧ windowShelf (receiving 1 (writeTxn 0xA0000) true) 0 0xA0000 64 = some 0 ∧ (writeTxn 0xA0000).length = 16 + rd (writeTxn 0xA0000) 2 2 ∧
    windowShelf (receiving 1 (writeTxn 0xC0000) true) 0 0xC0000 64 = none ∧ (portAt (receiving 1 (writeTxn 0xA0000) false) 0).admitted = false ∧
    (let b := txn 3 0 0 9 (0xA0000 + 2 ^ 56) []
     windowShelf (receiving 1 b true) 0 (rd b 8 8) (64 * nbits (rd b 8 8) 56 8) = some 0 ∧ portActive (receiving 1 b true) 0 = true ∧ rd b 0 1 = 3 ∧ nbits (rd b 8 8) 56 8 = 1) ∧
    rd (txn 4 0 64 9 0 (leBytes 64 1)) 0 1 = 4 ∧
    (let b := txn 2 0 8 4096 (2 ^ 32) (leBytes 8 1)
     rd b 0 1 = 2 ∧ collRegions (receiving 1 b true) (rd b 4 4) = [] ∧ swf (fun _ => (none : Option PVal)) (collOf (receiving 1 b true) (rd b 4 4) false).got = true ∧
       nbits (rd b 8 8) 0 32 + 2 ≤ 2 ^ 32) := by
  refine ⟨?_, ?_, ?_, ?_, ?_, ?_, ?_, ?_, ?_, ?_, ?_, ?_⟩ <;>
    first | decide +kernel | (unfold State.portsOk; decide +kernel) | (unfold State.regsOk; decide +kernel) | (unfold State.scribesOk; decide +kernel)
theorem test_tsx_write : shows (.tsxWrite 0) (receiving 1 (writeTxn 0xA0000) true) (fun t => storeByte t 0 0xA0000 == 0xAB && (portAt t 0).inbox.isEmpty) = true := by decide +kernel
theorem test_tsx_write_refused : shows (.tsxWrite 0) (receiving 1 (writeTxn 0xC0000) true) (fun t => fget t (Reg.TSX_ERRORS.WINDOW 0) == 1 && storeByte t 0 0xC0000 == 0) = true := by
  decide +kernel
theorem test_read_req : shows (.readReq 0) (receiving 1 (txn 3 0 0 9 (0xA0000 + 2 ^ 56) []) true) (fun t => ((portAt t 0).held ++ (portAt t 0).waiting).any fun f =>
    f.vc == 2 && rd f.payload 0 1 == 4 && rd f.payload 4 4 == 9) = true := by decide +kernel
theorem test_read_rsp : shows (.readRsp 0) (receiving 2 (txn 4 0 64 9 0 (leBytes 64 1)) true) (fun t => (portAt t 0).reads == [(9, leBytes 64 1, 0)]) = true := by decide +kernel
theorem test_frag : shows (.frag 0) (receiving 1 (txn 2 0 8 4096 (2 ^ 32) (leBytes 8 1)) true) (fun t => gotAt (collOf t 4096 false) 1 0 == some ⟨1, false⟩ &&
    gotAt (collOf t 4096 false) 1 2 == none) = true := by decide +kernel

/-- A port with a message of type `typ` of member 1 in its inbox. -/
def msgBytes (typ src : Nat) (b : Bytes) : Bytes := leBytes 1 typ ++ [0] ++ leBytes 1 src ++ [0] ++ leBytes 4 0 ++ leBytes 2 b.length ++ leBytes 6 0 ++ b
def heard (p : Port) (typ : Nat) (b : Bytes) : State :=
  { port0 2 { p with inbox := [{ typ := 2, seq := 4, vc := 0, payload := msgBytes typ 1 b }], buffers := [8, 8, 8] } with img := { on.img with bound := orbiting }, acc := serving.acc }
/-- The answer to snapshot 5, sent at tick 100: the partner had 1,000 and 1,010. -/
def snapAnswer (id : Nat) : Bytes := leBytes 2 id ++ leBytes 6 0 ++ leBytes 8 100 ++ leBytes 8 1000 ++ leBytes 8 1010
def asking : State := { heard { linkPort with held := [], snapOut := some (5, 100), snapNext := 6 } 6 (snapAnswer 5) with clk := { on.clk with tick := 130 } }
theorem witness_SnapshotsMeasure : asking.regsOk ∧ asking.portsOk ∧ portActive asking 0 = true ∧ (portAt asking 0).snapNext < 2 ^ 16 ∧ portActive on 0 = false ∧
    frontFlit asking 0 0 = some { typ := 2, seq := 4, vc := 0, payload := msgBytes 6 1 (snapAnswer 5) } ∧ rd (msgBytes 6 1 (snapAnswer 5)) 0 1 = 6 ∧
    slice (msgBytes 6 1 (snapAnswer 5)) 16 (rd (msgBytes 6 1 (snapAnswer 5)) 8 2) = snapAnswer 5 ∧ rd (snapAnswer 5) 0 2 = 5 ∧ rd (snapAnswer 4) 0 2 ≠ 5 ∧
    rd (msgBytes 5 1 (leBytes 16 0xAB)) 0 1 = 5 ∧ (leBytes 16 0xAB).length = 16 := by
  refine ⟨?_, ?_, ?_, ?_, ?_, ?_, ?_, ?_, ?_, ?_, ?_, ?_⟩ <;> first | decide +kernel | (unfold State.portsOk; decide +kernel) | (unfold State.regsOk; decide +kernel)
/-- (900 + 880) / 2 = 890, and 30 − 10 = 20. -/
theorem test_snap_rsp : shows (.snapRsp 0) asking (fun t => fget t (Reg.TSX_SNAP.OFFSET_US 0) == 890 && fget t (Reg.TSX_SNAP.RTT_US 0) == 20) = true := by decide +kernel
theorem test_snap_timer : shows (.snapPeriodTimer 0) asking (fun t => (portAt t 0).snapOut == some (6, 130)) = true := by decide +kernel
theorem test_snap_req : shows (.snapReq 0) (heard { linkPort with held := [] } 5 (leBytes 16 0xAB)) (fun t => ((portAt t 0).held ++ (portAt t 0).waiting).any fun f => rd f.payload 0 1 == 6) = true := by
  decide +kernel

/-! ### Orbits -/

/-- A member of the orbit in a state of ORB.STATUS, with a message of member 1 in port 0's inbox, and its masks both members; `st` 2 has member 1 as primary. -/
def member (st typ : Nat) (b : Bytes) : State :=
  fset (fset (fset (fset (fset (heard { linkPort with held := [] } typ b) Reg.ORB_STATUS.STATE st) Reg.ORB_STATUS.ADMITTED_MASK 3) Reg.ORB_STATUS.LIVE_MASK 3)
    Reg.ORB_STATUS.PRIMARY (if st = 3 then 0 else 1)) Reg.ORB_CTRL.JOIN 1
def joinBody (members : Nat) : Bytes :=
  [1, 1] ++ leBytes 1 members ++ [0, 0] ++ leBytes 8 0x77 ++ leBytes 8 0 ++ orbiting.orbit.entryDigest
def admitBody : Bytes := [2, 0xFF, 0, 0] ++ leBytes 2 3 ++ leBytes 12 0
def refuseBody : Bytes := [3, 2]
/-- Member 1, whose partner over its port 14 is member 0. -/
def asMember1 (s : State) : State := { s with img := { s.img with bound := orbitImage 1 } }

theorem witness_AdmissionIsDecided : (member 3 1 (joinBody 2)).regsOk ∧ (member 3 1 (joinBody 2)).portsOk ∧ orbiting.orbit.member = 0 ∧
    frontFlit (member 3 1 (joinBody 2)) 0 0 = some { typ := 2, seq := 4, vc := 0, payload := msgBytes 1 1 (joinBody 2) } ∧
    slice (msgBytes 1 1 (joinBody 2)) 16 (rd (msgBytes 1 1 (joinBody 2)) 8 2) = joinBody 2 ∧
    joinRefusal (member 3 1 (joinBody 2)) 0 (joinBody 2) = none ∧ joinRefusal (member 3 1 (joinBody 3)) 0 (joinBody 3) = some 1 ∧
    (meshRole (member 2 1 admitBody) 0).isSome = true ∧ (member 2 1 admitBody).orb.ignored.elem 1 = false ∧ rd admitBody 0 1 = 2 ∧ orbState (member 2 1 admitBody) = 2 ∧
    self (asMember1 (member 3 1 admitBody)) = 1 ∧ rd refuseBody 0 1 = 3 ∧ unpowered (member 4 1 refuseBody) = false ∧
    ((member 2 1 refuseBody).run.live.any fun p => orbitRegion (member 2 1 refuseBody) p.region) = false ∧
    (let s := { member 2 1 refuseBody with run := (running pass0).run }
     (s.run.live.any fun p => orbitRegion s p.region) = true) := by
  refine ⟨?_, ?_, ?_, ?_, ?_, ?_, ?_, ?_, ?_, ?_, ?_, ?_, ?_, ?_, ?_, ?_⟩ <;> first | decide +kernel | (unfold State.portsOk; decide +kernel) | (unfold State.regsOk; decide +kernel)
theorem test_join_admitted : shows (.joinMsg 0) (fset (member 3 1 (joinBody 2)) Reg.ORB_STATUS.ADMITTED_MASK 1) (fun t => admittedMask t == 3 && (portAt t 0).admitted) = true := by
  decide +kernel
/-- R312: another number of members: ORBIT. -/
theorem test_join_refused : shows (.joinMsg 0) (fset (member 3 1 (joinBody 3)) Reg.ORB_STATUS.ADMITTED_MASK 1) (fun t => admittedMask t == 1 &&
    ((portAt t 0).held ++ (portAt t 0).waiting).any fun f => slice f.payload 16 2 == [3, 1]) = true := by decide +kernel
theorem test_admit : shows (.admitMsg 0) (fset (member 1 1 admitBody) Reg.ORB_STATUS.ADMITTED_MASK 0) (fun t => orbState t == 2 && admittedMask t == 3) = true := by decide +kernel
theorem test_refuse : shows (.refuseMsg 0) (member 1 1 refuseBody) (fun t => (portAt t 0).refused == 2) = true := by decide +kernel
theorem test_rejoin : shows .orbitRejoin (member 4 1 refuseBody) (fun t => orbState t == 1) = true := by decide +kernel
theorem test_leave : shows .leave (member 2 1 refuseBody) (fun t => orbState t == 4 && admittedMask t == 1) = true := by decide +kernel

def dispatchBody (kind : Nat) (ws : List Nat) : Bytes := [4, 0] ++ leBytes 1 kind ++ leBytes 2 0 ++ [0, 0] ++ leBytes 6 9 ++ leBytes 2 ws.length ++ [0, 0] ++ ws.flatMap (leBytes 4)
def share9 : OrbPass :=
  { passId := 9, region := 0, kind := 1, carrel := 0, cls := 0, count := 1, sessions := [1024], tokens := [1], epoch := 0, doneBy := [], bad := [], results := [], resulted := false }
def doneBody : Bytes := [5] ++ leBytes 6 9 ++ [9, 0] ++ leBytes 2 0 ++ [1] ++ leBytes 5 0 ++ leBytes 8 1
def resultBody : Bytes := [6] ++ leBytes 6 9 ++ [0, 0] ++ leBytes 16 5
def withShare (s : State) : State := { s with orb := { s.orb with passes := [share9] } }
theorem witness_SharesAreDispatched : (member 2 1 (dispatchBody 1 [1024])).portsOk ∧ orbState (member 2 1 (dispatchBody 1 [1024])) = 2 ∧
    fget (member 2 1 (dispatchBody 1 [1024])) Reg.ORB_STATUS.PRIMARY = 1 ∧ (meshRole (member 2 1 (dispatchBody 1 [1024])) 0).isSome = true ∧
    rd (dispatchBody 2 []) 2 1 = 2 ∧ rd (dispatchBody 3 [1024]) 2 1 = 3 ∧ findSession (member 2 1 (dispatchBody 3 [1024])) 1024 = none ∧ rd (dispatchBody 4 [1024]) 2 1 = 4 ∧
    (passOf { member 2 1 (dispatchBody 1 [1024]) with run := (running pass0).run } 0).isSome = true ∧ (member 2 1 (dispatchBody 1 [1024])).orb.passes = [] ∧
    fget (fset (member 2 1 (dispatchBody 1 [1024])) Reg.ORB_STATUS.PRIMARY 2) Reg.ORB_STATUS.PRIMARY ≠ 1 ∧
    orbPass (withShare (member 3 1 doneBody)) (rd doneBody 1 6) = some share9 ∧ (1 : Nat) ∉ share9.doneBy ∧ rd doneBody 7 1 ≠ stPoisoned ∧ rd doneBody 7 1 ≠ stPeerLost ∧
    rd doneBody 7 1 ≠ stTimeout ∧ orbiting.orbit.stage = 0 ∧ orbPass (withShare (member 3 1 resultBody)) (rd resultBody 1 6) = some share9 := by
  refine ⟨?_, ?_, ?_, ?_, ?_, ?_, ?_, ?_, ?_, ?_, ?_, ?_, ?_, ?_, ?_, ?_, ?_, ?_⟩ <;> first | decide +kernel | (unfold State.portsOk; decide +kernel)
theorem test_dispatch_open : shows (.dispatchMsg 0 []) (member 2 1 (dispatchBody 3 (1024 :: List.replicate 8 0))) (fun t => (findSession t 1024).isSome) = true := by decide +kernel
theorem test_dispatch_waits : shows (.dispatchMsg 0 []) { member 2 1 (dispatchBody 1 [1024]) with run := (running pass0).run } (fun t => t.orb.passes.map (·.sessions) == [[1024]]) = true := by
  decide +kernel
theorem test_done : shows (.doneMsg 0) (withShare (member 3 1 doneBody)) (fun t => (orbPass t 9).any fun x => x.doneBy == [1] && x.bad == [(0, 9)]) = true := by decide +kernel
theorem test_result : shows (.resultMsg 0) (withShare (member 3 1 resultBody)) (fun t => (orbPass t 9).any fun x => x.resulted && x.results == [leBytes 16 5]) = true := by decide +kernel

def removeBody (m mask : Nat) : Bytes := [7] ++ leBytes 1 m ++ [0] ++ leBytes 2 mask
def takeoverBody (mask : Nat) : Bytes := [8, 1, 2] ++ leBytes 2 mask
/-- A moon of primary 1 in an orbit of three, where member 2 is the heir; the messages are of member `src`. -/
def three (src : Nat) (b : Bytes) : State :=
  let s := member 2 1 b
  fset { s with tsx := [(0, { linkPort with held := [], inbox := [{ typ := 2, seq := 4, vc := 0, payload := msgBytes 1 src b }], buffers := [8, 8, 8] })] }
    Reg.ORB_STATUS.ADMITTED_MASK 7
def heirReady (lostBy : List Nat) : State := let s := three 1 []; { s with orb := { s.orb with confirming := true, primaryLostBy := lostBy } }
def waitingHeir : State := let s := three 1 []; { s with orb := { s.orb with waitingTakeover := true } }
theorem witness_QuorumDecidesTakeovers : (three 1 (removeBody 2 3)).regsOk ∧ (three 1 (removeBody 2 3)).portsOk ∧
    (frontFlit (three 1 (removeBody 2 3)) 0 0).any (fun x => rd x.payload 0 1 == 1 && rd x.payload 2 1 == 1 && slice x.payload 16 (rd x.payload 8 2) == removeBody 2 3) = true ∧
    orbState (three 1 (removeBody 2 3)) = 2 ∧ fget (three 1 (removeBody 2 3)) Reg.ORB_STATUS.PRIMARY = 1 ∧ (three 1 (removeBody 2 3)).orb.ignored = [] ∧
    self (three 1 (removeBody 0 6)) = 0 ∧ (three 1 (removeBody 2 3)).orb.heirNamed = none ∧ rd (removeBody 1 5) 1 1 = 1 ∧
    rd (takeoverBody 5) 2 1 = 2 ∧ rd (takeoverBody 5) 1 1 = fget (three 2 (takeoverBody 5)) Reg.ORB_STATUS.PRIMARY ∧ (three 2 (takeoverBody 5)).orb.passes = [] ∧
    popcount 16 (admittedMask (three 2 (takeoverBody 5))) < 2 * popcount 16 5 ∧ 2 * popcount 16 1 ≤ popcount 16 (admittedMask (three 2 (takeoverBody 1))) ∧
    (heirReady [2]).orb.confirming = true ∧ (three 1 []).orb.confirming = false ∧ waitingHeir.orb.waitingTakeover = true := by
  refine ⟨?_, ?_, ?_, ?_, ?_, ?_, ?_, ?_, ?_, ?_, ?_, ?_, ?_, ?_, ?_, ?_, ?_⟩ <;> first | decide +kernel | (unfold State.portsOk; decide +kernel) | (unfold State.regsOk; decide +kernel)
theorem test_remove : shows (.removeMsg 0) (three 1 (removeBody 2 3)) (fun t => admittedMask t == 3 && orbState t == 2) = true ∧
    shows (.removeMsg 0) (three 1 (removeBody 0 6)) (fun t => orbState t == 4) = true := by decide +kernel
/-- R322: 2 of 3 are a strict majority, 1 of 3 is none. -/
theorem test_takeover_msg : shows (.takeoverMsg 0) (three 2 (takeoverBody 5)) (fun t => orbState t == 2 && fget t Reg.ORB_STATUS.PRIMARY == 2) = true ∧
    shows (.takeoverMsg 0) (three 2 (takeoverBody 1)) (fun t => orbState t == 4) = true := by decide +kernel
theorem test_heir_confirms : shows .heirConfirmTimeout (fset (heirReady [2]) Reg.ORB_STATUS.LIVE_MASK 7) (fun t => orbState t == 3 && admittedMask t == 5) = true ∧
    shows .heirConfirmTimeout (heirReady []) (fun t => orbState t == 4) = true := by decide +kernel
theorem test_takeover_wait : shows .takeoverWaitTimeout waitingHeir (fun t => orbState t == 4) = true := by decide +kernel

def paceBody : Bytes := leBytes 4 0 ++ leBytes 4 0 ++ leBytes 4 70
def reportBody : Bytes := [1] ++ leBytes 2 3000 ++ leBytes 2 4000 ++ [128, 1]
def limitBody : Bytes := [2, 64, 0] ++ leBytes 4 80 ++ leBytes 4 0
def releaseBody : Bytes := [3] ++ leBytes 4 7
def portLostBody : Bytes := [2, 0, 14] ++ leBytes 40 0
/-- A pass of region 0 in flight whose REDUCE collective is not complete here. -/
def collecting (s : State) : State := { s with run := (running pass0).run, orb := { s.orb with colls := [{ freshColl 0 1 with ready := true }] } }
theorem witness_MembersSharePower : (member 3 2 paceBody).regsOk ∧ (member 3 2 paceBody).portsOk ∧ collRegions (collecting (member 3 2 paceBody)) (rd paceBody 4 4) = [0] ∧
    (collOf (collecting (member 3 2 paceBody)) 0 false).complete = false ∧ orbState (member 2 2 paceBody) ≠ 3 ∧ rd reportBody 0 1 = 1 ∧
    swf (fun _ => (none : Option MemberReport)) (member 3 3 reportBody).orb.reports = true ∧ rd limitBody 0 1 = 2 ∧ 64 ≤ rd limitBody 1 1 ∧ rd releaseBody 0 1 = 3 ∧
    memberPort (member 2 3 []) (fget (member 2 3 []) Reg.ORB_STATUS.PRIMARY) = 0 ∧ portActive (member 2 3 []) 0 = true ∧
    rd portLostBody 0 1 = 2 ∧ rd portLostBody 2 1 < 15 ∧ passOf (collecting (member 2 2 [])) 0 = some pass0 ∧
    ((needed (collecting (member 2 2 [])) pass0 (collOf (collecting (member 2 2 [])) 0 false)).filter fun x =>
      (gotAt (collOf (collecting (member 2 2 [])) 0 false) x.1 x.2).isNone) ≠ [] := by
  refine ⟨?_, ?_, ?_, ?_, ?_, ?_, ?_, ?_, ?_, ?_, ?_, ?_, ?_, ?_, ?_, ?_⟩ <;> first | decide +kernel | (unfold State.portsOk; decide +kernel) | (unfold State.regsOk; decide +kernel)
theorem test_pace : shows (.paceMsg 0) (collecting (member 3 2 paceBody)) (fun t => fget t Reg.ORB_STATS.PACE == 1 && t.orb.paced == [(1, 0, 70)]) = true := by decide +kernel
theorem test_report : shows (.reportMsg 0) (member 3 3 reportBody) (fun t => (sget (fun _ => none) t.orb.reports 1 : Option MemberReport).any fun r => r.inputDw == 3000 && r.activity == 128) = true := by
  decide +kernel
theorem test_limit : shows (.limitMsg 0) (collecting (member 2 3 limitBody)) (fun t => t.orb.limit == some (64, 0) && (passOf t 0).any fun p => p.flags.testBit 5) = true := by decide +kernel
theorem test_release_msg : shows (.releaseMsg 0) (let s := member 2 3 releaseBody; { s with orb := { s.orb with limit := some (64, 7) } }) (fun t => t.orb.limit.isNone) = true ∧
    shows .limitHoldExpiry (let s := member 2 3 releaseBody; { s with orb := { s.orb with limit := some (64, 8) } }) (fun t => t.orb.limit.isNone) = true := by decide +kernel
theorem test_power_report : shows .powerReportTimer (member 2 3 []) (fun t => ((portAt t 0).held ++ (portAt t 0).waiting).any fun f => rd f.payload 0 1 == 3 && rd f.payload 16 1 == 1) = true := by
  decide +kernel
/-- R321: member 2 lost its port 14, which is member 1's, the primary. -/
theorem test_fault_msg : shows (.faultMsg 0) (let s := member 2 4 portLostBody; { s with tsx := [(0, { linkPort with held := [], inbox := [{ typ := 2, seq := 4, vc := 0, payload := msgBytes 4 2 portLostBody }] })] })
    (fun t => t.orb.primaryLostBy == [2]) = true := by decide +kernel

/-! ### Power -/

/-- Hall 0 as `f` changes it. -/
def hall0 (f : HallPower → HallPower) : State := modHall on 0 f
/-- A measurement of 100.0 W and 3.0 A. -/
def measured : BrokerIn := { inputDw := 1000, inputDa := 30, inputCv := 0, predictedDw := 1000, fixedDw := 200, lossDw := 20, halls := [], energy := [] }
def hintBody (r lead : Nat) : Bytes := leBytes 1 r ++ leBytes 1 2 ++ [0, 0] ++ leBytes 4 lead ++ leBytes 8 100
def hinting (r lead : Nat) : State := withCmd serving (cmd 0 3 6 .waiting (hintBody r lead))
def hint1 (hit : Bool) : Hint := { carrel := 0, region := 0, tag := 2, opens := 0, ends := 5, opened := true, hit := hit }
def hinted (hit : Bool) : State := { serving with pwr := { on.pwr with hints := [hint1 hit] } }
def exceeding : State := { on with pwr := { on.pwr with excursion := some 0 } }

theorem witness_BrokerDividesTheBudget : exceeding.regsOk ∧ exceeding.hallsOk ∧ unpowered on = false ∧ asleep on = false ∧ exceeding.pwr.excursion.isSome = true ∧
    on.pwr.excursion = none ∧ on.img.bound.power.hallShare.sum ≤ 256 ∧ (findCmd (hinting 0 5) 0 3).any (fun k => k.phase == .waiting && k.op == 6 && hintStatus (hinting 0 5) k == stOk) = true ∧
    (findCmd (hinting 3 5) 0 3).any (fun k => hintStatus (hinting 3 5) k == stDenied) = true ∧
    (hinted true).pwr.hints.find? (fun x => x.is 0 0 2 && x.opened) = some (hint1 true) ∧ (hinted false).pwr.hints.find? (fun x => x.is 0 0 2 && x.opened) = some (hint1 false) ∧
    unpowered { on with pst := { on.pst with depth := 4 } } = true := by
  refine ⟨?_, ?_, ?_, ?_, ?_, ?_, ?_, ?_, ?_, ?_, ?_, ?_⟩ <;> first | decide +kernel | (unfold State.regsOk; decide +kernel) | (unfold State.hallsOk; decide +kernel)
theorem test_hint : shows (.hintCmd 0 3) (fset (hinting 0 5) Reg.PWR_CTRL.FIXED 1) (fun t => ended t 0 3 0 0 && t.pwr.hints.map (·.tag) == [2]) = true ∧
    shows (.hintCmd 0 3) (hinting 0 1000001) (fun t => ended t 0 3 stFormat 0 && t.pwr.hints.isEmpty) = true := by decide +kernel
theorem test_hint_window : shows (.hintWindowOpen 0 0 2) { serving with pwr := { on.pwr with hints := [{ hint1 false with opened := false }] } } (fun t => t.pwr.hints.all (·.opened)) = true ∧
    shows (.hintWindowEnd 0 0 2) (hinted false) (fun t => t.pwr.hints.isEmpty && fget t Reg.PWR_STATS.HINT_MISS == 1) = true := by decide +kernel
theorem test_broker_cycle : shows (.brokerCycle measured) on (fun t => fget t Reg.PWR_STATUS.INPUT_DW == 1000 && fget t Reg.PWR_STATUS.INPUT_DA == 30) = true := by decide +kernel
theorem test_excursion_cut : shows .excursionCut on (fun t => t.pwr.halls == on.pwr.halls) = true := by decide +kernel

def slewing (target : Nat) : State := hall0 fun x => { x with step := .slewing, target := target }
def relocking (target : Nat) : State := hall0 fun x => { x with step := .relocking, target := target }
theorem witness_PointsHeatAndDroop : on.regsOk ∧ on.hallsOk ∧ (hallPower (slewing 0) 0).step = .slewing ∧ (hallPower (slewing 0) 0).stretched = false ∧
    (hallPower (slewing 0) 0).holdUntil ≤ (slewing 0).clk.tick ∧ (0 < pointOf (slewing 0) 0 ∨ pointOf (slewing 0) 0 ≤ 0) ∧ (hallPower (slewing 0) 0).queued = none ∧
    pointOf (slewing 7) 0 ≤ 7 ∧ pointOf (fset (slewing 0) (Reg.PWR_HALL_STATUS.POINT 0) 3) 0 = 3 ∧ (hallPower (relocking 7) 0).step = .relocking ∧
    (hallPower on 0).step ≠ .relocking ∧ strikePeriod on 0 (floorNow on 0) < 48 ∧ 48 ≤ strikePeriod (hall0 fun x => { x with period := 48 }) 0 24 ∧
    (hallPower (hall0 fun x => { x with thermal := 240 }) 0).thermal < 256 ∧ 256 ≤ (hallPower on 0).thermal ∧
    (hallPower (hall0 fun x => { x with stretched := true }) 0).stretched = true ∧ (hallPower on 0).gated = false := by
  refine ⟨?_, ?_, ?_, ?_, ?_, ?_, ?_, ?_, ?_, ?_, ?_, ?_, ?_, ?_, ?_, ?_, ?_⟩ <;> first | decide +kernel | (unfold State.regsOk; decide +kernel) | (unfold State.hallsOk; decide +kernel)
theorem test_slew_then_relock : shows (.voltageSlewDone 0) (fset (slewing 0) (Reg.PWR_HALL_STATUS.POINT 0) 3) (fun t => (hallPower t 0).step == .relocking) = true ∧
    shows (.voltageSlewDone 0) (slewing 7) (fun t => (hallPower t 0).step == .none) = true := by decide +kernel
theorem test_relock : shows (.pllRelockDone 0) (relocking 7) (fun t => pointOf t 0 == 7 && (hallPower t 0).pll == 1) = true := by decide +kernel
/-- R339: at the limit the period grows by 2 guard cycles, and from 48 on the ceiling falls by 16. -/
theorem test_thermal : shows (.thermalStep 0 (200 * 256)) on (fun t => (hallPower t 0).period == (hallPower on 0).period + 2) = true ∧
    shows (.thermalStep 0 (200 * 256)) (hall0 fun x => { x with period := 48 }) (fun t => (hallPower t 0).thermal == 240) = true := by decide +kernel
theorem test_droop : shows (.droopDetect 0) on (fun t => (hallPower t 0).stretched && fget t Reg.PWR_STATS.DROOPS == 1) = true ∧
    shows (.droopClear 0) (hall0 fun x => { x with stretched := true }) (fun t => !(hallPower t 0).stretched && (hallPower t 0).holdUntil == 5) = true := by decide +kernel

/-! ### Curator and monitors -/

/-- A mailbox request of one block, with its CRC. -/
def mbxPacket (op seq : Nat) (body : Bytes) : Bytes :=
  let b := (leBytes 2 1 ++ leBytes 2 op ++ leBytes 4 seq ++ leBytes 4 0x55 ++ leBytes 4 body.length ++ leBytes 16 0 ++ body ++ leBytes 60 0).take 60
  b ++ leBytes 4 (crc32c b)
/-- A request in hand. -/
def handed (op : Nat) (body : Bytes) : State :=
  fset { on with cur := { on.cur with mbx := { on.cur.mbx with req := some { seq := 3, tag := 9, op := op, body := body } } } } Reg.CUR_MBX_STATUS.STATE 1
def tokened (n leaf limit : Nat) (s : State) : State := { s with cur := { s.cur with sig := { nextLeaf := leaf, limit := limit, tokens := n } } }
theorem witness_MailboxServesRequests : on.regsOk ∧ unpowered on = false ∧ domainReady on 2 = true ∧ standbyMode on = false ∧ fget (handed 1 []) Reg.CUR_MBX_STATUS.STATE ≠ 0 ∧
    fget on Reg.CUR_MBX_STATUS.STATE = 0 ∧
    (let s1 := modMbx on fun m => { m with blocks := putBytes m.blocks 0 (mbxPacket 1 0 []) }
     let pkt := (List.range (max 1 (min (rd (mbxBlock s1 0).bytes 0 2) 64))).flatMap fun i => (mbxBlock s1 i).bytes
     requestComplete s1 = true ∧ requestOk s1 pkt = true) ∧
    (let s1 := modMbx on fun m => { m with blocks := putBytes m.blocks 0 (mbxPacket 1 5 []) }
     requestComplete s1 = true ∧ requestOk s1 (mbxPacket 1 5 []) = false) ∧
    requestComplete (modMbx on fun m => { m with blocks := putBytes m.blocks 0 [1] }) = false ∧ on.cur.fw.recovery = false ∧
    (requestIs (handed 1 []) 1).isSome = true ∧ (requestIs (handed 2 []) 2).isSome = true ∧ (tokened 0 0 0 on).cur.sig.tokens = 0 ∧
    2 ^ 20 ≤ (tokened 1 (2 ^ 20) 0 on).cur.sig.nextLeaf ∧ (tokened 1 3 16 on).cur.sig.nextLeaf < (tokened 1 3 16 on).cur.sig.limit ∧ requestIs on 1 = none ∧
    (let s := annal on 0x0004 0 {} 1 2 3
     ((allRecords s).filter fun x => decide (0 ≤ x.seq)).take 5 ≠ []) ∧ (requestIs (handed 4 []) 4).isSome = true ∧ (kindCount on.ann 4).written < 100 := by
  refine ⟨?_, ?_, ?_, ?_, ?_, ?_, ?_, ?_, ?_, ?_, ?_, ?_, ?_, ?_, ?_, ?_, ?_, ?_, ?_⟩ <;> first | decide +kernel | (unfold State.regsOk; decide +kernel)
theorem test_mailbox_takes : shows (.mailboxBlockWrite false 0 (mbxPacket 1 0 [])) on (fun t => t.cur.mbx.req == some { seq := 0, tag := 0x55, op := 1, body := [] } &&
    fget t Reg.CUR_MBX_STATUS.EXPECTED_SEQ == 1 && fget t Reg.CUR_MBX_STATUS.STATE == 1) = true := by decide +kernel
/-- R358: a SEQ that is not expected: FORMAT. -/
theorem test_mailbox_format : shows (.mailboxBlockWrite false 0 (mbxPacket 1 5 [])) on (fun t => t.cur.mbx.req.isNone && fget t Reg.CUR_MBX_STATUS.LAST_STATUS == mbFormat) = true := by
  decide +kernel
theorem test_identity : shows .identity (handed 1 []) (fun t => t.cur.mbx.req.isNone && fget t Reg.CUR_MBX_STATUS.STATE == 0) = true := by decide +kernel
theorem test_attest : shows (.attest true) (tokened 0 0 16 (handed 2 [])) (fun t => fget t Reg.CUR_MBX_STATUS.LAST_STATUS == mbRate && t.cur.sig.tokens == 0) = true ∧
    shows (.attest true) (tokened 2 15 15 (handed 2 (leBytes 64 1))) (fun t => t.cur.sig.nextLeaf == 16 && t.cur.sig.tokens == 1 && t.cur.sig.limit == 31) = true := by decide +kernel
theorem test_annals_note : shows .annalsNote (handed 4 (leBytes 8 7 ++ leBytes 16 0)) (fun t => (slice t.cur.mbx.response 0x20 8) == leBytes 8 (on.ann.lastSeq + 1)) = true := by decide +kernel
theorem test_annals_export : shows .annalsExport (handed 3 (leBytes 8 0 ++ leBytes 4 5 ++ leBytes 4 0 ++ leBytes 16 0x1000)) (fun t => fget t Reg.CUR_MBX_STATUS.LAST_STATUS == mbOk) = true := by
  decide +kernel

def bothSlots (s : State) : State := modFw s fun w => putFwSlot w 1 (some { svn := 4, digest := [], confirmed := false })
theorem witness_FirmwareAndWatchdog : (handed 6 []).regsOk ∧ (requestIs (handed 5 (leBytes 32 0)) 5).isSome = true ∧ on.cur.fw.running ≤ 1 ∧ otherSvn (handed 6 []) = none ∧
    otherSvn (bothSlots (handed 6 [])) = some 4 ∧ (requestIs (handed 6 []) 6).isSome = true ∧ (requestIs (handed 7 []) 7).isSome = true ∧ (requestIs (handed 8 []) 8).isSome = true ∧
    (fwSlotOf on.cur.fw on.cur.fw.running).any (·.confirmed) = true ∧
    (fwSlotOf (putFwSlot on.cur.fw on.cur.fw.running (some { svn := 4, digest := [], confirmed := false })) on.cur.fw.running).any (fun x => !x.confirmed) = true ∧
    2 ≤ (([0, 0] : List Nat).filter fun t => decide (on.clk.tick < t + watchdogSpan)).length ∧ (on.clk.watchdogs.filter fun t => decide (on.clk.tick < t + watchdogSpan)).length < 2 := by
  refine ⟨?_, ?_, ?_, ?_, ?_, ?_, ?_, ?_, ?_, ?_, ?_, ?_⟩ <;> first | decide +kernel | (unfold State.regsOk; decide +kernel)
theorem witness_FirmwareAndWatchdog_fault : fwFault (handed 5 []) [] = some mbFormat := by
  unfold fwFault; exact if_pos (Or.inr (Or.inr (Or.inr (Or.inr (Or.inr (Or.inl (by show (0 : Nat) ≠ 4096 + _; omega)))))))
theorem test_fw_stage_fetch : shows (.fwStage .error true) (handed 5 (leBytes 32 0)) (fun t => fget t Reg.CUR_MBX_STATUS.LAST_STATUS == mbFetch && t.cur.fw == on.cur.fw) = true := by decide +kernel
theorem test_fw_activate : shows (.fwActivate true) (bothSlots (handed 6 [])) (fun t => t.cur.fw.nextTrial && t.cur.fw.nextSlot == 1 && t.cur.fw.running == 0) = true ∧
    shows (.fwActivate true) (handed 6 []) (fun t => fget t Reg.CUR_MBX_STATUS.LAST_STATUS == mbNoPending) = true := by decide +kernel
theorem test_fw_revert : shows (.fwRevert true) (bothSlots (handed 7 [])) (fun t => !t.cur.fw.nextTrial && t.cur.fw.nextSlot == 1) = true := by decide +kernel
theorem test_fw_floor : shows (.fwRaiseFloor true) (handed 8 []) (fun t => t.cur.fw.floor == 1 && fget t Reg.CUR_FW_STATUS.FLOOR == 1) = true := by decide +kernel
theorem test_watchdog : shows .watchdogExpiry (handed 1 []) (fun t => fget t Reg.RST_CAUSE.CURATOR_RESTARTS == 1 && fget t Reg.CUR_MBX_STATUS.LAST_STATUS == mbRestarted) = true ∧
    shows .watchdogExpiry { on with clk := { on.clk with watchdogs := [0, 0] } } (fun t => t.pst.inReset && t.pst.cause == 7) = true := by decide +kernel

/-- Slot 9 of die 1 enabled, and the converter as given. -/
def converting (c : Converter) : State := fset { on with cur := { on.cur with conv := [(1, c)] } } (Reg.MON_SLOT.ENABLE 1 9) 1
theorem witness_ConvertersServeSlots : (converting { freshConverter with busy := some 2 }).regsOk ∧
    swf (fun _ => freshConverter) (converting { freshConverter with busy := some 2 }).cur.conv = true ∧ fget on (Reg.MON_SLOT.ENABLE 1 9) = 0 ∧
    fget (converting freshConverter) (Reg.MON_SLOT.ENABLE 1 9) = 1 ∧ (convOf on 1).busy = none ∧ slotWaits { freshConverter with busy := some 2 } 9 = false ∧
    fget (fset (converting freshConverter) (Reg.MON_SLOT.TRIGGER 1 9) 2) (Reg.MON_SLOT.TRIGGER 1 9) = 2 ∧ (convOf (converting { freshConverter with busy := some 9 }) 1).busy = some 9 := by
  refine ⟨?_, ?_, ?_, ?_, ?_, ?_, ?_, ?_⟩ <;> first | decide +kernel | (unfold State.regsOk; decide +kernel)
theorem test_trigger : shows (.monitorTrigger 1 9 false) (fset on (Reg.MON_SLOT.ENABLE 1 9) 1) (fun t => (convOf t 1).busy == some 9) = true ∧
    shows (.monitorTrigger 1 9 false) (converting { freshConverter with busy := some 2, waiting := [(9, 0, 0)] }) (fun t => fget t (Reg.MON_STATS.OVERRUN 1) == 1) = true := by decide +kernel
/-- R363: both paths at OSR 64: the main path floors and clamps at 2^23 − 1; the fall-back's full scale is the main path's with SHIFT = AVG_LOG2. -/
theorem test_codes : mainCode 6 ⟨-1, []⟩ = -32 ∧ mainCode 6 ⟨2 ^ 18, []⟩ = 2 ^ 23 - 1 ∧ fallbackCode 6 1 1 ⟨0, [63, 63]⟩ = 62 * 2 ^ 17 ∧
    fallbackCode 6 1 1 ⟨0, [0, 0]⟩ = -(2 ^ 23) ∧ fallbackCode 6 1 0 ⟨0, [33, 32]⟩ = 2 ^ 18 := by decide +kernel
/-- R361, R366: the slot that waited runs with the settings of its trigger. -/
theorem test_waiting_settings : shows (.monitorResult 1 2 ⟨5, []⟩) (converting { freshConverter with busy := some 2, waiting := [(12, 1, 1), (9, 0x10, 7)] })
    (fun t => (convOf t 1).busy == some 9 && (convOf t 1).set == 0x10#64 && (convOf t 1).window == 7#64 && slotWaits (convOf t 1) 12) = true := by decide +kernel

/-! ### Vigilance and containment -/

/-- A check of shelf 0 with a lag of 2, after `n` class-S passes. -/
def check1 (n : Nat) : SCheck :=
  { region := 0, shelf := 0, chain := 0, colGroup := 0, stage := 0, carrel := 0, passNo := 4, epoch := 2, passed := n, lag := 2, z := 0, temp := 0, window := 0, width := 8
    folios := [], codes := [], totals := [] }
def lagging (n : Nat) : State := { serving with run := { on.run with vig := [(0, { freshVigilance with sCount := 9, checks := [check1 n] })] } }
theorem witness_LateChecksAreDiscarded : (lagging 2).regsOk ∧ (vigOf (lagging 2) 0).checks.find? (fun c => c.shelf == 0 && decide (c.lag ≤ c.passed)) = some (check1 2) ∧
    swf (fun _ => freshVigilance) (lagging 2).run.vig = true ∧ (∀ c ∈ (vigOf (lagging 1) 0).checks, c.shelf = 0 → c.passed < c.lag) := by
  refine ⟨?_, ?_, ?_, ?_⟩ <;> first | decide +kernel | (unfold State.regsOk; decide +kernel)
theorem witness_VigilanceKeepsAccount : serving.regsOk ∧ unpowered serving = false ∧ serving.con.taints = [] ∧ serving.con.minute = [] := by
  refine ⟨?_, ?_, ?_, ?_⟩ <;> first | decide +kernel | (unfold State.regsOk; decide +kernel)
theorem test_check_discarded : shows (.classSCheckDiscard 0 0) (lagging 2) (fun t => (vigOf t 0).checks.isEmpty && fget t (Reg.SCR_VIG_COUNTS.SKIPPED 0) == 1) = true ∧
    shows (.classSCheckDiscard 0 0) (lagging 1) (fun t => (vigOf t 0).checks.length == 1) = true := by decide +kernel
theorem test_vigilance_clear : shows (.vigilanceClear 0 1) (fset (fset serving (Reg.SCR_VIG_STATUS.S_DETECT 0) 1) (Reg.SCR_VIG_STATUS.N_DETECT 0) 1)
    (fun t => fget t (Reg.SCR_VIG_STATUS.S_DETECT 0) == 0 && fget t (Reg.SCR_VIG_STATUS.N_DETECT 0) == 1) = true := by decide +kernel
theorem test_outlier_minute : shows .outlierMinute { serving with con := { on.con with minute := [(0, 5)] } } (fun t => t.con.minute.isEmpty && t.ann.lastSeq == serving.ann.lastSeq + 1) = true := by
  decide +kernel

/-- Two proofs of a scribe, one job and two jobs, and a hall's rotation. -/
def proving (r : Rotation) : State :=
  { serving with con := { on.con with
      library := [{ id := 7, cls := 1, jobs := 1, answer := [1, 2, 3, 4, 5, 6, 7, 8] }, { id := 8, cls := 1, jobs := 2, answer := [1, 2, 3, 4, 5, 6, 7, 8] }]
      rotations := [(0, r)] } }
def answer8 : Bytes := [1, 2, 3, 4, 5, 6, 7, 8]
/-- A localisation of shelf 0 whose slot 0 went beyond the threshold `n` times, folio 0 serving it. -/
def localising (n : Nat) : State :=
  { holding servingFolio with con := { on.con with locals := [{ region := 0, shelf := 0, chain := 0, group := 0, passes := 8, beyond := sset (fun _ => 0) [] 0 n }] } }
theorem witness_ProofsConvictUnits : (proving { freshRotation with proof := 1 }).regsOk ∧ swf (fun _ => freshRotation) (proving { freshRotation with proof := 1 }).con.rotations = true ∧
    proofMayRun (proving { freshRotation with proof := 1 }) 0 0 { freshRotation with proof := 1 } = true ∧ proofMayRun (waiting { freshScribe with ready := [jobOf 0] }) 0 0 freshRotation = false ∧
    (proving { freshRotation with proof := 1 }).con.failedHalls = [] ∧ (proving { freshRotation with proof := 1 }).con.failedShelves = [] ∧
    (proofSet (proving { freshRotation with proof := 1 }) 0)[1]?.map (·.jobs) = some 2 ∧ (proofSet (proving { freshRotation with retry := true }) 0).length = 2 ∧
    (proving { freshRotation with proof := 1, job := 1 }).con.locals = [] ∧
    (localising 9).con.locals.find? (fun l => l.region == 0 && l.passes == 8) = some { region := 0, shelf := 0, chain := 0, group := 0, passes := 8, beyond := [(0, 9)] } ∧
    hallOff (proving { freshRotation with proof := 1 }) 0 = false ∧ hallOff (localising 9) 0 = false ∧ servingAt (localising 9) 0 0 = some 0 ∧ (localising 9).foliosOk ∧ (localising 8).con.locals.length = 1 := by
  refine ⟨?_, ?_, ?_, ?_, ?_, ?_, ?_, ?_, ?_, ?_, ?_, ?_, ?_, ?_, ?_⟩ <;> first | decide +kernel | (unfold State.regsOk; decide +kernel) | (unfold State.foliosOk; decide +kernel)
theorem witness_ProofsConvictUnits_force : ((sget (fun _ => 0) serving.con.proofTick (unitKey 0 5) + ((serving.img.bound.budget 7).periodS - 1) * 1000000 : Nat)) ≤ 2 ^ 60 ∧
    serving.clk.tick < sget (fun _ => 0) serving.con.proofTick (unitKey 0 5) + ((serving.img.bound.budget 7).periodS - 1) * 1000000 ∧ (rotationOf serving 0).forced.elem 5 = false ∧ unitFailed serving 0 5 = false := by
  decide +kernel
theorem test_proof_next_job : shows (.proofJob 0 []) (proving { freshRotation with proof := 1 }) (fun t => (rotationOf t 0).job == 1) = true ∧
    shows (.proofJob 0 answer8) (proving { freshRotation with proof := 1, job := 1 }) (fun t => (rotationOf t 0).unit == 1 && fget t Reg.CUR_PROOF_STATS.PASSED == 1) = true := by
  decide +kernel
/-- R380: the second mismatch fails the shelf. -/
theorem test_proof_mismatch : shows (.proofJob 0 []) (proving freshRotation) (fun t => (rotationOf t 0).retry && t.con.failedShelves == []) = true ∧
    shows (.proofJob 0 []) (proving { freshRotation with unit := 4, retry := true }) (fun t => t.con.failedShelves == [2]) = true := by decide +kernel
theorem test_proof_force : shows (.proofForce 0 5) { serving with clk := { on.clk with tick := 2 ^ 60 } } (fun t => (rotationOf t 0).forced == [5]) = true ∧
    shows (.proofForce 0 5) serving (fun t => (rotationOf t 0).forced == []) = true := by decide +kernel
/-- R387: more than 8 codes beyond. -/
theorem test_localisation_end : shows (.localisationEnd 0) (localising 9) (fun t => (folioAt t 0).failed && t.con.locals.isEmpty) = true ∧
    shows (.localisationEnd 0) (localising 8) (fun t => !(folioAt t 0).failed && (rotationOf t 0).head == [0, 1]) = true := by decide +kernel

/-- Shelf 0's spares are all waited for: 64 of its folios are retired, four are spares and four failed ones wait. -/
def crowded : State :=
  { serving with arr := { on.arr with folios := (List.range 64).map fun i => (i, if i < 4 then { servingFolio with logical := i, failed := true } else { freshFolio with st := .retired }) } }
def win (quiet : Bool) : MaintWin := { regions := [0], module := false, limitMs := 1000, opened := 0, quiet := quiet, walked := [], failed := [], hbmBad := [], lanesBad := 0 }
/-- `s` with an open window. -/
def windowOf (quiet : Bool) (s : State) : State := { s with con := { s.con with window := some (win quiet) } }
/-- A folio serves, and a pass of region 0 is in flight. -/
def servingPass : State := let s := holding servingFolio; { s with run := (running pass0).run }
theorem witness_WindowsOpenAndClose : serving.regsOk ∧ serving.foliosOk ∧ unpowered serving = false ∧ (folioAt serving 5).st = .spare ∧ (serving.img.bound.budget 7).enable = true ∧
    wornOut serving (folioAt serving 5) = false ∧ waitingAbove serving 0 5 = [] ∧ wornOut serving { folioAt serving 5 with wear := 1 } = false ∧
    (windowOf false serving).con.window.isSome = true ∧ imgBusy serving = false ∧ (serving.acc.any fun e => accBusy e.2) = false ∧ serving.con.window = none ∧
    ([0].any (orbitRegion (member 2 1 []))) = true ∧ ([0].any (orbitRegion (running pass0))) = false ∧ (passOf (running pass0) 0).isSome = true ∧
    fget serving Reg.ORB_STATUS.STATE = 0 ∧ passOf serving 0 = none ∧ serving.con.taints = [] ∧ unwalked (windowOf true servingPass) (win true) = [0] ∧
    hallOff serving 0 = false ∧ (passOf servingPass 0).isSome = true ∧ ((3600001 : Nat) < 100 ∨ 3600000 < 3600001) ∧ (windowOf false serving).img.op = none ∧
    waitingAbove crowded 0 5 ≠ [] ∧ (usableSpares crowded 0).length ≤ (waitingAbove crowded 0 5).length ∧ (folioAt crowded 64).st = .spare ∧ wornOut crowded (folioAt crowded 64) = false := by
  refine ⟨?_, ?_, ?_, ?_, ?_, ?_, ?_, ?_, ?_, ?_, ?_, ?_, ?_, ?_, ?_, ?_, ?_, ?_, ?_, ?_, ?_, ?_, ?_, ?_, ?_, ?_, ?_⟩ <;> first | decide +kernel | (unfold State.regsOk; decide +kernel) | (unfold State.foliosOk; decide +kernel)
theorem test_margin_walk : shows (.marginWalk 0 5 []) serving (fun t => (folioAt t 5).content == .pattern && (folioAt t 5).wear == 1) = true ∧
    shows (.marginWalk 0 5 [2]) serving (fun t => (folioAt t 5).st == .retired) = true := by decide +kernel
/-- R68, R72: the walk of a spare that the failed folios wait for is abandoned, and waits. -/
theorem test_walk_abandoned : shows (.marginWalk 0 64 []) crowded (fun t => (folioAt t 64).content == .undefined && (t.con.heldWalks.map (·.1)) == [0]) = true := by decide +kernel
theorem test_open_window : shows (.openWindow 6 1 1000) (running pass0) (fun t => fget t Reg.CUR_MAINT_STATUS.STATE == 1 && fget t Reg.CUR_MAINT_STATUS.TAG == 6) = true ∧
    shows (.openWindow 6 1 1000) (windowOf false serving) (fun t => fget t Reg.CUR_MAINT_STATUS.LAST_RESULT == 1) = true := by decide +kernel
/-- R383: no pass in flight, no serving folio to walk: DONE. -/
theorem test_open_module : shows (.openModule 6 1000 [5] 1) serving (fun t => fget t Reg.CUR_MAINT_STATUS.STATE == 3 && fget t Reg.CUR_MAINT_STATUS.FAILED == 2) = true := by decide +kernel
theorem test_close_window : shows (.closeWindow 7) (windowOf true servingPass) (fun t => t.con.window.isNone && fget t Reg.CUR_MAINT_STATUS.STATE == 0) = true := by decide +kernel
theorem test_window_quiesce_timeout : shows .quiesceTimeout (windowOf false serving) (fun t => t.con.window.isNone && fget t Reg.CUR_MAINT_STATUS.LAST_RESULT == 3) = true := by decide +kernel
theorem test_window_limit : shows .maintLimitExpiry (windowOf true servingPass) (fun t => t.con.window.isNone && fget t Reg.CUR_MAINT_STATUS.LAST_RESULT == 4) = true := by decide +kernel

/-- A ring of 16 slots at page 5 that is on, with one record retained. -/
def ringOn : State := fset (fset (fset { serving with con := { on.con with fsr := [⟨3, [0xAA]⟩] } } Reg.CUR_FSR_RING.ENABLE 1) Reg.CUR_FSR_RING.ADDR 5) Reg.CUR_FSR_RING.LOG2_SLOTS 4
theorem witness_SignaturesAreDelivered : ringOn.regsOk ∧ unpowered ringOn = false ∧ nextFsr ringOn = some ⟨3, [0xAA]⟩ ∧ fnUp ringOn .pf0 = true ∧
    fget ringOn Reg.CUR_FSR_RING.ENABLE = 1 ∧ fsrSlots ringOn = 16 ∧ fget ringOn Reg.CUR_FSR_INDEX.PRODUCED = 0 ∧ nextFsr serving = none ∧
    fget serving Reg.CUR_FSR_RING.ENABLE = 0 ∧ nbits 0x5401 8 4 = 4 ∧ nbits 0x5401 1 7 = 0 ∧ (0x5401 : Nat) % 2 = 1 := by
  refine ⟨?_, ?_, ?_, ?_, ?_, ?_, ?_, ?_, ?_, ?_, ?_, ?_⟩ <;> first | decide +kernel | (unfold State.regsOk; decide +kernel)
/-- R395: the body at 5010H, the header at 5000H with PHASE 1. -/
theorem test_fsr_deliver : shows .fsrDeliver ringOn (fun t => t.out.dma.take 2 == [⟨.pf0, 0x5000, leBytes 8 3 ++ leBytes 2 1 ++ [1] ++ leBytes 5 0⟩, ⟨.pf0, 0x5010, [0xAA]⟩] &&
    fget t Reg.CUR_FSR_INDEX.PRODUCED == 1) = true := by decide +kernel
theorem test_fsr_ring_enable : shows (.fsrRingEnable 0x5401) serving (fun t => fget t Reg.CUR_FSR_RING.ENABLE == 1 && fget t Reg.CUR_FSR_RING.ADDR == 5 &&
    fget t Reg.CUR_FSR_RING.LOG2_SLOTS == 4) = true := by decide +kernel
/-- R380: a unit of a failed shelf is never forced. -/
theorem test_force_failed : shows (.proofForce 0 5) { serving with clk := { on.clk with tick := 2 ^ 60 }, con := { on.con with failedShelves := [2] } }
    (fun t => (rotationOf t 0).forced == []) = true := by decide +kernel

/-! ### Steps -/

theorem witness_StepTakesTheFrontCommand : ({ on with pending := [.orbitRejoin, .leave] }).pending = .orbitRejoin :: [.leave] ∧ on.pending = [] ∧ on.regsOk ∧
    (match step { on with pending := [.orbitRejoin] } with | .next t => t.pending.isEmpty && fget t Reg.ORB_CTRL.JOIN == 1 | _ => false) = true ∧
    (match step on with | .next t => t.clk.tick == on.clk.tick + 1 | _ => false) = true := by
  refine ⟨?_, ?_, ?_, ?_, ?_⟩ <;> first | decide +kernel | (unfold State.regsOk; decide +kernel)
/-- An anchor held, a floor of 5, the pending image of serial 3. -/
def floored : State := { anchored with img := { anchored.img with store := { anchored.img.store with floor := 5, slot0 := pendingThree.img.store.slot0 } } }
theorem witness_TheFloorNeverFalls : floored.regsOk ∧ imgReady floored ∧ floored.img.store.anchor.isSome = true ∧ (List.replicate 4096 (0 : Byte)).length = fget floored Reg.CUR_IMG_LEN.LEN ∧
    rd (List.replicate 4096 (0 : Byte)) 0x18 8 < floored.img.store.floor ∧ (pendingImage floored).any (fun b => decide ((parseImage b).serial < 5)) = true ∧
    (bound on (imageWith [])).img.bound.plain = false ∧ on.img.bound.plain = true := by
  refine ⟨?_, ?_, ?_, ?_, ?_, ?_, ?_, ?_⟩ <;> first | decide +kernel | (unfold State.regsOk; decide +kernel) | (unfold imgReady; decide +kernel)
theorem test_bind_rollback : shows (.bind 4) floored (fun t => fget t Reg.CUR_IMG_STATUS.LAST_RESULT == 6) = true := by decide +kernel
theorem witness_PassNumbersNeverRepeat : State.reset.itk.carrels = [] ∧ (carrelSt State.reset 5).nextPass = 1 ∧ (carrelSt State.reset 5).limit = 2 ^ 20 ∧
    State.reset.con.failedShelves = [] ∧ State.reset.con.failedHalls = [] := by decide +kernel
theorem witness_EveryStepKeepsTheRegisterTable_EveryStepTakesOneCommand_FailedUnitsStayFailed : on.regsOk ∧ step on = .next (idleTick on) ∧
    (match exec .orbitRejoin on with | .next t => t.pending.isEmpty | _ => false) = true := by
  refine ⟨?_, rfl, ?_⟩ <;> first | decide +kernel | (unfold State.regsOk; decide +kernel)
theorem witness_EveryStepKeepsItsTables : on.tablesOk ∧ step on = .next (idleTick on) := by
  refine ⟨⟨⟨?_, ?_, ?_, ?_, ?_, ?_, ?_, ?_, ?_, ?_, ?_, ?_⟩, ⟨?_, ?_, ?_, ?_, ?_, ?_, ?_, ?_⟩, ⟨?_, ?_, ?_, ?_, ?_, ?_, ?_, ?_, ?_, ?_⟩, ?_, ?_, ?_, ?_, ?_⟩, rfl⟩
  all_goals first | rfl | (intro e he; cases he)
/-- R132: 0x1 below 0x2 in one byte; four 6-bit codes in three bytes; BF16 low byte first. -/
theorem test_packed_elements : packElems .int4 [1, 2, 0xF, 0] = [0x21, 0x0F] ∧ packElems .e2m3 [1, 0, 0, 32] = [0x01, 0x00, 0x80] ∧ packElems .bf16 [0x3F80] = [0x80, 0x3F] ∧
    unpackElems .e2m3 4 [0x01, 0x00, 0x80] = [1, 0, 0, 32] := by decide +kernel
/-- The hypotheses of the statement on packed elements, for a format of each width. -/
theorem witness_PackedElementsStandInOrder : (∀ e ∈ [1, 2, 0xF, 0], e < 2 ^ Fmt.int4.width) ∧ [1, 2, 0xF, 0].length * Fmt.int4.width % 8 = 0 ∧
    (∀ e ∈ [1, 0, 0, 63], e < 2 ^ Fmt.e2m3.width) ∧ [1, 0, 0, 63].length * Fmt.e2m3.width % 8 = 0 ∧ (∀ e ∈ [0xFFFF], e < 2 ^ Fmt.bf16.width) ∧
    [0xFFFF].length * Fmt.bf16.width % 8 = 0 := by decide +kernel
/-- CRC-32C's published check value; SHAKE256 of the empty string and of 200 bytes 0xA3 (FIPS 202's examples). -/
theorem test_crc_and_digest : crc32c ((List.range 9).map fun i => BitVec.ofNat 8 (0x31 + i)) = 0xE3069283 ∧
    (shake256 []).take 8 = [0x46, 0xB9, 0xDD, 0x2B, 0x0B, 0xA8, 0x8D, 0x13] ∧
    (shake256 (List.replicate 200 0xA3)).take 8 = [0xCD, 0x8A, 0x92, 0x0E, 0xD1, 0x41, 0xAA, 0x04] := by decide +kernel

end Sys2Proof.Tests
end
end

section
/-!
PROOFS. A register write that reaches its register changes each field by its access code and nothing
else (R6, R8, R430). The fields of a map share no bit, so `writeFields` acts on each field alone; what follows the write of a register
other than TSX.CTRL and TSX.INJ_CTRL only adds annals records.
-/
section
open Sys2Proof Sys2Proof.Machine
namespace Sys2Proof.Machine

/-! ### The fields of a register map -/

/-- Two fields of one register share no bit. -/
abbrev FieldDef.Disjoint (f g : FieldDef) : Prop := f.lo + f.w ≤ g.lo ∨ g.lo + g.w ≤ f.lo

/-- The fields of a map lie within 64 bits and share no bit. -/
abbrev FieldsFit (fs : List FieldDef) : Prop := (∀ f ∈ fs, f.lo + f.w ≤ 64) ∧ fs.Pairwise FieldDef.Disjoint

/-- The register tables of the module. -/
def regTables : List (List RegDef) := [regsPort, regsHall, regsPf0, regsPf1, regsPf2, regsCar]

theorem findReg_mem {t : List RegDef} {off : Nat} {d : RegDef} (h : findReg t off = some d) : d ∈ t := List.mem_of_find?_eq_some h

/-- A register that stands at an address has its entry in one of the tables. -/
theorem regAt_mem {a : Nat} {d : RegDef} (h : regAt a = some d) : ∃ t ∈ regTables, d ∈ t := by
  have mem : ∀ t ∈ regTables, ∀ off, findReg t off = some d → ∃ t ∈ regTables, d ∈ t := fun t ht _ hd => ⟨t, ht, findReg_mem hd⟩
  unfold regAt at h
  split_ifs at h
  · exact mem regsPort (by simp [regTables]) _ h
  · exact mem regsHall (by simp [regTables]) _ h
  · exact mem regsPf0 (by simp [regTables]) _ h
  · exact mem regsPf1 (by simp [regTables]) _ h
  · exact mem regsPf2 (by simp [regTables]) _ h
  · exact mem regsCar (by simp [regTables]) _ h

theorem regTables_fieldsFit : ∀ t ∈ regTables, ∀ d ∈ t, FieldsFit d.fields := by decide +kernel

theorem regAt_fieldsFit {a : Nat} {d : RegDef} (h : regAt a = some d) : FieldsFit d.fields := by
  obtain ⟨t, ht, hd⟩ := regAt_mem h
  exact regTables_fieldsFit t ht d hd

/-- A register keeps its value at its own address, or among the copies that a selector selects, which lie above every BAR (R432). -/
theorem homeOf_eq_or_copy (s : State) (a : Nat) : homeOf s a = a ∨ 0x20000000 ≤ homeOf s a := by
  simp only [homeOf, monBase, monDieBase, adpStatsBase, scrFaultBase]
  split_ifs <;> omega

/-! ### One field of a write -/

theorem nbits_lt (v lo w : Nat) : nbits v lo w < 2 ^ w := Nat.mod_lt _ (Nat.two_pow_pos w)

/-- A field given the value it holds leaves the register as it was. -/
theorem withField_fieldOf (r : W64) (lo w : Nat) : withField r lo w (fieldOf r lo w) = r := by
  apply BitVec.eq_of_toNat_eq
  apply Nat.eq_of_testBit_eq
  intro i
  rw [withField_testBit, fieldOf, nbits_testBit]
  by_cases h64 : i < 64
  · by_cases hi : lo ≤ i ∧ i < lo + w
    · simp [h64, hi, show i - lo < w by omega]
    · simp [h64, hi]
  · simp [h64, BitVec.testBit_toNat, BitVec.getLsbD_of_ge _ _ (Nat.le_of_not_lt h64)]

/-- What a field that held `old` holds after a write of bits [lo, hi) with the register's bits `v` (R6, R8, R430). -/
def FieldDef.after (s : State) (a v lo hi : Nat) (f : FieldDef) (old : Nat) : Nat :=
  let x := nbits v f.lo f.w
  if f.lo < lo ∨ hi < f.lo + f.w ∨ f.own = true then old
  else match f.acc with
    | .rw => if inMap f x = true ∧ mayTake s a v f x = true then x else old
    | .w1c => old &&& (2 ^ f.w - 1 - x)
    | _ => old

section
variable {s : State} {a v lo hi : Nat}

/-- A field that is not written, or whose write is left to a row of its own or has no effect, holds what it held. -/
theorem FieldDef.after_kept {f : FieldDef} (h : ¬ (lo ≤ f.lo ∧ f.lo + f.w ≤ hi) ∨ f.own = true ∨ (f.acc ≠ .rw ∧ f.acc ≠ .w1c)) (old : Nat) :
    f.after s a v lo hi old = old := by
  unfold FieldDef.after
  split
  · rfl
  · next hact =>
    obtain ⟨hrw, hw1c⟩ : f.acc ≠ .rw ∧ f.acc ≠ .w1c := by
      rcases h with h | h | h
      · exact absurd (show f.lo < lo ∨ hi < f.lo + f.w ∨ f.own = true by omega) hact
      · exact absurd (.inr (.inr h)) hact
      · exact h
    split
    · contradiction
    · contradiction
    · rfl

theorem FieldDef.after_rw {f : FieldDef} (hin : lo ≤ f.lo ∧ f.lo + f.w ≤ hi) (hown : f.own = false) (hacc : f.acc = .rw) (old : Nat) :
    f.after s a v lo hi old =
      if inMap f (nbits v f.lo f.w) = true ∧ mayTake s a v f (nbits v f.lo f.w) = true then nbits v f.lo f.w else old := by
  simp [FieldDef.after, hown, hacc, Nat.not_lt.2 hin.1, Nat.not_lt.2 hin.2]

theorem FieldDef.after_w1c {f : FieldDef} (hin : lo ≤ f.lo ∧ f.lo + f.w ≤ hi) (hown : f.own = false) (hacc : f.acc = .w1c) (old : Nat) :
    f.after s a v lo hi old = old &&& (2 ^ f.w - 1 - nbits v f.lo f.w) := by
  simp [FieldDef.after, hown, hacc, Nat.not_lt.2 hin.1, Nat.not_lt.2 hin.2]

theorem FieldDef.after_lt (f : FieldDef) {old : Nat} (h : old < 2 ^ f.w) : f.after s a v lo hi old < 2 ^ f.w := by
  simp only [FieldDef.after]
  split
  · exact h
  · split
    · split
      · exact nbits_lt ..
      · exact h
    · exact Nat.lt_of_le_of_lt Nat.and_le_left h
    · exact h

/-! ### All fields of a write -/

/-- A write of several fields is a write of each. -/
theorem writeFields_cons (f : FieldDef) (fs : List FieldDef) (r : W64) :
    (writeFields s a v lo hi (f :: fs) r).1 =
      withField (writeFields s a v lo hi fs r).1 f.lo f.w (f.after s a v lo hi (fieldOf (writeFields s a v lo hi fs r).1 f.lo f.w)) := by
  simp only [writeFields, FieldDef.after, Bool.or_eq_true, Bool.and_eq_true, decide_eq_true_eq, or_assoc]
  split
  · rw [withField_fieldOf]
  · cases f.acc
    case rw =>
      dsimp only
      split
      · rfl
      · rw [withField_fieldOf]
    case w1c => rfl
    all_goals rw [withField_fieldOf]

/-- A field that shares no bit with those written stays. -/
theorem fieldOf_writeFields_disjoint {g : FieldDef} (hg : g.lo + g.w ≤ 64) {fs : List FieldDef} (h : ∀ f ∈ fs, g.Disjoint f) (r : W64) :
    fieldOf (writeFields s a v lo hi fs r).1 g.lo g.w = fieldOf r g.lo g.w := by
  induction fs with
  | nil => rfl
  | cons f fs ih =>
    obtain ⟨hf, hfs⟩ := List.forall_mem_cons.1 h
    rw [writeFields_cons, fieldOf_withField_other _ _ _ _ _ _ hg hf.symm, ih hfs]

/-- Of a map whose fields share no bit, each field takes its own part of a write. -/
theorem fieldOf_writeFields {fs : List FieldDef} (h : FieldsFit fs) {f : FieldDef} (hf : f ∈ fs) (r : W64) :
    fieldOf (writeFields s a v lo hi fs r).1 f.lo f.w = f.after s a v lo hi (fieldOf r f.lo f.w) := by
  induction fs with
  | nil => cases hf
  | cons g fs ih =>
    obtain ⟨hwidth, hpair⟩ := h
    obtain ⟨hg64, hwidth⟩ := List.forall_mem_cons.1 hwidth
    obtain ⟨hg, hpair⟩ := List.pairwise_cons.1 hpair
    rw [writeFields_cons]
    rcases List.mem_cons.1 hf with rfl | hf
    · rw [fieldOf_withField_same _ _ _ _ hg64, fieldOf_writeFields_disjoint hg64 hg]
      exact Nat.mod_eq_of_lt (FieldDef.after_lt f (nbits_lt ..))
    · rw [fieldOf_withField_other _ _ _ _ _ _ (hwidth f hf) (hg f hf), ih ⟨hwidth, hpair⟩ hf]

end

/-! ### What annals records change -/

/-- The register fields that an annals record may change (R367, R369, R370). -/
def annalsFields : List FieldRef := [Reg.ANN_LAST_SEQ.SEQ, Reg.ANN_DROPPED.COUNT, Reg.ANN_CTRL.ALERT]

/-- Two named fields stand in different registers or share no bit. -/
abbrev FieldRef.Apart (f g : FieldRef) : Prop := g.addr ≠ f.addr ∨ f.lo + f.w ≤ g.lo ∨ g.lo + g.w ≤ f.lo

theorem FieldRef.apart_annalsFields {g : FieldRef} (h : g.addr ∉ annalsRegs) : ∀ f ∈ annalsFields, f.Apart g :=
  fun _ hf => .inl fun he => h (he ▸ List.mem_map_of_mem (f := FieldRef.addr) hf)

/-- Between `s` and `t` at most annals records were added, and the register table of `t` stands in its canonical form. -/
structure RecordsOnly (s t : State) : Prop where
  frame : t = s.withRegs t
  regsOk : t.regsOk
  field : ∀ g : FieldRef, g.lo + g.w ≤ 64 → (∀ f ∈ annalsFields, f.Apart g) → fget t g = fget s g

section
variable {s t u : State}

theorem State.withRegs_trans (h : t = s.withRegs t) (h' : u = t.withRegs u) : u = s.withRegs u := by
  rw [h', h]; rfl

theorem RecordsOnly.refl (h : s.regsOk) : RecordsOnly s s := ⟨rfl, h, fun _ _ _ => rfl⟩

theorem RecordsOnly.trans (h : RecordsOnly s t) (h' : RecordsOnly t u) : RecordsOnly s u :=
  ⟨State.withRegs_trans h.frame h'.frame, h'.regsOk, fun g hg ha => (h'.field g hg ha).trans (h.field g hg ha)⟩

/-- Registers outside the annals' own keep their values through records. -/
theorem RecordsOnly.rget_eq (h : RecordsOnly s t) {b : Nat} (hb : b ∉ annalsRegs) : rget t b = rget s b := by
  have := h.field ⟨b, 0, 64⟩ (Nat.le_refl _) (FieldRef.apart_annalsFields hb)
  apply BitVec.eq_of_toNat_eq
  simpa only [fget, fieldOf, nbits, Nat.shiftRight_zero, BitVec.toNat_mod_cancel] using this

/-- The annals and the alert pin are a record's own. -/
theorem RecordsOnly.annals (h : RecordsOnly s t) (x : Annals) : RecordsOnly s { t with ann := x } :=
  h.trans ⟨rfl, h.regsOk, fun _ _ _ => rfl⟩

theorem RecordsOnly.alertPin (h : RecordsOnly s t) (b : Bool) : RecordsOnly s { t with pst := { t.pst with sbAlert := b } } :=
  h.trans ⟨rfl, h.regsOk, fun _ _ _ => rfl⟩

theorem RecordsOnly.setField (h : RecordsOnly s t) {f : FieldRef} (hf : f ∈ annalsFields) (x : Nat) : RecordsOnly s (fset t f x) :=
  h.trans ⟨rfl, regsOk_fset h.regsOk f x, fun g hg ha => fget_fset_other h.regsOk f g x hg (ha f hf)⟩

theorem RecordsOnly.bumpField (h : RecordsOnly s t) {f : FieldRef} (hf : f ∈ annalsFields) (n : Nat) : RecordsOnly s (fbump t f n) :=
  h.trans ⟨rfl, regsOk_fbump h.regsOk f n, fun g hg ha => fget_fbump_other h.regsOk f g n hg (ha f hf)⟩

theorem RecordsOnly.writeRec (h : RecordsOnly s t) (kind sev : Nat) (obj : Obj) (a0 a1 a2 : Nat) :
    RecordsOnly s (writeRec t kind sev obj a0 a1 a2) := by
  have hseq : ∀ x n, RecordsOnly s (fset { t with ann := x } Reg.ANN_LAST_SEQ.SEQ n) := fun x n =>
    (h.annals x).setField (by decide) n
  have hdropped : ∀ {u}, RecordsOnly s u → RecordsOnly s (fbump u Reg.ANN_DROPPED.COUNT 1) := fun hu => hu.bumpField (by decide) 1
  have halert : ∀ {u}, RecordsOnly s u →
      RecordsOnly s (fset { u with pst := { u.pst with sbAlert := true } } Reg.ANN_CTRL.ALERT 1) := fun hu =>
    (hu.alertPin true).setField (by decide) 1
  simp only [Machine.writeRec]
  split <;> split
  · exact halert (hdropped (hseq _ _))
  · exact halert (hseq _ _)
  · exact hdropped (hseq _ _)
  · exact hseq _ _

theorem RecordsOnly.annal (h : RecordsOnly s t) (kind sev : Nat) (obj : Obj) (a0 a1 a2 : Nat) :
    RecordsOnly s (annal t kind sev obj a0 a1 a2) := by
  simp only [Machine.annal]
  split
  · split
    · exact (h.annals _).writeRec ..
    · exact (h.annals _).bumpField (by decide) 1
  · exact h.writeRec ..

theorem RecordsOnly.ignored (h : RecordsOnly s t) (off value : Nat) : RecordsOnly s (ignored t off value) := h.annal ..

theorem RecordsOnly.ignoredIf (h : RecordsOnly s t) (note : Bool) (off value : Nat) :
    RecordsOnly s (if note = true then Machine.ignored t off value else t) := by
  split
  · exact h.ignored ..
  · exact h

/-- The record of a hall's activity switched off (R180). -/
theorem RecordsOnly.disabledRecord (h : RecordsOnly s t) (act hall how : Nat) : RecordsOnly s (disabledRecord t act hall how) := h.annal ..

end

/-- No field of the annals' registers that a register write changes shares a bit with a field that a record changes. -/
theorem annalsRegs_written_apart : ∀ b ∈ annalsRegs, ∀ d ∈ regAt b, ∀ f ∈ d.fields, f.own = false → (f.acc = .rw ∨ f.acc = .w1c) →
    ∀ r ∈ annalsFields, r.Apart ⟨b, f.lo, f.w⟩ := by decide +kernel

/-- Records leave the fields alone that a register write changes. -/
theorem written_apart_annalsFields {s : State} {a : Nat} {d : RegDef} (hd : regAt a = some d) {f : FieldDef} (hf : f ∈ d.fields)
    (hown : f.own = false) (hacc : f.acc = .rw ∨ f.acc = .w1c) : ∀ r ∈ annalsFields, r.Apart ⟨homeOf s a, f.lo, f.w⟩ := by
  by_cases hmem : homeOf s a ∈ annalsRegs
  · have hhome : homeOf s a = a := by
      have hlow : ∀ b ∈ annalsRegs, b < 0x20000000 := by decide
      have := hlow _ hmem
      exact (homeOf_eq_or_copy s a).resolve_right (by omega)
    rw [hhome] at hmem ⊢
    exact annalsRegs_written_apart a hmem d hd f hf hown hacc
  · exact FieldRef.apart_annalsFields (g := ⟨homeOf s a, f.lo, f.w⟩) hmem

/-! ### What follows a write -/

section
variable {s t : State}

/-- A port whose ENABLE bits stand as they stood goes on as it was (R291, R307). -/
theorem portWritten_same {n : Nat} (hctrl : fget t (Reg.TSX_CTRL.ENABLE n) = fget s (Reg.TSX_CTRL.ENABLE n))
    (hinj : fget t (Reg.TSX_INJ_CTRL.ENABLE n) = fget s (Reg.TSX_INJ_CTRL.ENABLE n)) : portWritten t n s = t := by
  simp [portWritten, hctrl, hinj]

/-- After a write that leaves the ports' ENABLE bits alone, at most annals records follow (R180). -/
theorem afterWrite_recordsOnly (h : t.regsOk) {a : Nat}
    (hport : 0x300000 ≤ a ∧ a < 0x360000 → portWritten t ((a - 0x300000) / 0x4000) s = t) : RecordsOnly t (afterWrite s t a) := by
  have hrecord : ∀ (b : Bool) {u}, RecordsOnly t u → ∀ act hall,
      RecordsOnly t (if b = true then disabledRecord u act hall 0 else u) := by
    intro b u hu act hall
    split
    · exact hu.disabledRecord ..
    · exact hu
  simp only [afterWrite]
  split
  · next ha => rw [hport ha]; exact .refl h
  · split
    · exact hrecord _ (hrecord _ (.refl h) _ _) _ _
    · exact .refl h

/-- A port keeps its ENABLE bits through a write of any other register of its range. -/
theorem portWritten_rset (h : s.regsOk) {a : Nat} {r : W64} (hrange : 0x300000 ≤ a ∧ a < 0x360000)
    (hother : a % 0x4000 ≠ 0 ∧ a % 0x4000 ≠ 0x40) (ht : RecordsOnly (rset s (homeOf s a) r) t) :
    portWritten t ((a - 0x300000) / 0x4000) s = t := by
  have kept : ∀ b, 0x300000 ≤ b → b < 0x20000000 → b ≠ a → rget t b = rget s b := by
    intro b hlo hhi hne
    have hlow : ∀ b ∈ annalsRegs, b < 0x300000 := by decide
    have hb : b ∉ annalsRegs := fun hmem => by have := hlow b hmem; omega
    rw [ht.rget_eq hb, rget_rset_ne h]
    rcases homeOf_eq_or_copy s a <;> omega
  apply portWritten_same
  · simp only [fget, Reg.TSX_CTRL.ENABLE, portBase]
    rw [kept] <;> omega
  · simp only [fget, Reg.TSX_INJ_CTRL.ENABLE, portBase]
    rw [kept] <;> omega

end

/-! ### The whole write -/

/-- The register at `a` as the map sees a write: the written half laid over its value (R430). -/
abbrev writtenOver (s : State) (a off width value : Nat) : Nat := (withField (rget s (homeOf s a)) (off % 8 * 8) (8 * width) value).toNat

/-- The register at `a` after a write has acted on its fields. -/
abbrev registerAfter (s : State) (a off width value : Nat) (d : RegDef) : W64 :=
  (writeFields s a (writtenOver s a off width value) (off % 8 * 8) (off % 8 * 8 + 8 * width) d.fields (rget s (homeOf s a))).1

/-- A write that reaches the register `d` at `a` and that its map does not ignore as a whole (R8, R426, R430). -/
structure ReachesRegister (s : State) (fn : Fn) (off width value a : Nat) (d : RegDef) : Prop where
  width_eq : width = 4 ∨ width = 8
  aligned : off % width = 0
  addr : barAddr fn (off / 8 * 8) = some a
  reg : regAt a = some d
  whole_wo : width = 8 ∨ ∀ f ∈ d.fields, f.acc ≠ .wo
  not_ignored : wholeIgnored s a (writtenOver s a off width value) d.fields = false

section
variable {s : State} {fn : Fn} {off width value a : Nat} {d : RegDef}

theorem writeReg_reached (h : ReachesRegister s fn off width value a d) :
    (writeReg s fn off width value).1 = some (a, registerAfter s a off width value d) := by
  obtain ⟨hwidth, haligned, haddr, hreg, hwhole, htaken⟩ := h
  have hshape : ((width ≠ 4 && width ≠ 8) || off % width ≠ 0) = false := by
    rcases hwidth with rfl | rfl <;> simp [haligned]
  have hwo : (width ≠ 8 && d.fields.any (fun f => f.acc == .wo)) = false := by
    rcases hwhole with rfl | hwo
    · rfl
    · simpa using fun _ => hwo
  simp only [writeReg, hshape, haddr, hreg, hwo, htaken, Bool.or_self, Bool.false_eq_true, if_false]

/-- A write that reaches a plain register puts the new value there; then at most annals records follow. -/
theorem writeRegister_reached (hok : s.regsOk) (hmsix : msixKey fn off = none) (h : ReachesRegister s fn off width value a d)
    (htsx : ¬ (0x300000 ≤ a ∧ a < 0x360000 ∧ (a % 0x4000 = 0 ∨ a % 0x4000 = 0x40))) :
    RecordsOnly (rset s (homeOf s a) (registerAfter s a off width value d)) (writeRegister s fn off width value) := by
  have hset := RecordsOnly.refl (regsOk_rset hok (homeOf s a) (registerAfter s a off width value d))
  have hnote := hset.ignoredIf (writeReg s fn off width value).2 off value
  simp only [writeRegister, hmsix, writeReg_reached h]
  exact hnote.trans (afterWrite_recordsOnly hnote.regsOk fun hrange => portWritten_rset hok hrange (by omega) hnote)

/-- In Run a write whose domain is ready reaches the register file at once (R350). -/
theorem exec_registerWrite_ready {standby : Bool} (hpow : unpowered s = false) (hdepth : s.pst.depth ≠ 1)
    (hstandby : standbyPort s standby = false) (hready : domainReady s (domainOf fn off) = true) :
    exec (.registerWrite standby fn off width value) s = .next (writeRegister s fn off width value) := by
  have hrun : (if 4 ≤ domainOf fn off then leaveIdle s else s) = s := by simp [leaveIdle, hdepth]
  show execRegisterWrite standby fn off width value s = _
  simp only [execRegisterWrite, hpow, hstandby, hready, hrun, Bool.false_eq_true, if_false, if_true]

/-- After a write that reaches its register each field holds what its access code makes of the write. -/
theorem fget_writeRegister (hok : s.regsOk) (hreg : regAt a = some d) {t : State}
    (ht : RecordsOnly (rset s (homeOf s a) (registerAfter s a off width value d)) t) {f : FieldDef} (hf : f ∈ d.fields)
    (hapart : ∀ r ∈ annalsFields, r.Apart ⟨homeOf s a, f.lo, f.w⟩) :
    fget t ⟨homeOf s a, f.lo, f.w⟩ =
      f.after s a (writtenOver s a off width value) (off % 8 * 8) (off % 8 * 8 + 8 * width) (fget s ⟨homeOf s a, f.lo, f.w⟩) := by
  have hfit := regAt_fieldsFit hreg
  calc fget t ⟨homeOf s a, f.lo, f.w⟩
      = fget (rset s (homeOf s a) (registerAfter s a off width value d)) ⟨homeOf s a, f.lo, f.w⟩ := ht.field _ (hfit.1 f hf) hapart
    _ = fieldOf (registerAfter s a off width value d) f.lo f.w := by rw [fget, rget_rset_same hok]
    _ = _ := fieldOf_writeFields hfit hf _

end

/-- Settles O3: the write puts the fields' new values into the register (`writeRegister_reached`), each field's by its access code
(`fget_writeRegister`), and what follows it only adds annals records. -/
theorem registerWriteFollowsTheMap : Obligations.RegisterWriteFollowsTheMap := by
  intro standby fn off width value a d s hok hpow hdepth hstandby hready hmsix hwidth haligned haddr hreg hwhole htsx htaken
  have ht := writeRegister_reached hok hmsix ⟨hwidth, haligned, haddr, hreg, hwhole, htaken⟩ htsx
  refine ⟨_, exec_registerWrite_ready hpow hdepth hstandby hready, State.withRegs_trans rfl ht.frame, fun b hb hann => ?_,
    fun f hf => ⟨fun hin hown hacc => ?_, fun hin hown hacc => ?_, fun hkept hann => ?_⟩⟩
  · rw [ht.rget_eq hann, rget_rset_ne hok _ (by simpa using hb)]
  · rw [fget_writeRegister hok hreg ht hf (written_apart_annalsFields hreg hf hown (.inl hacc)), FieldDef.after_rw hin hown hacc]
  · rw [fget_writeRegister hok hreg ht hf (written_apart_annalsFields hreg hf hown (.inr hacc)), FieldDef.after_w1c hin hown hacc]
  · rw [fget_writeRegister hok hreg ht hf (FieldRef.apart_annalsFields hann), FieldDef.after_kept hkept]

end Sys2Proof.Machine
end
end

section
/-!
PROOFS. What the carrels keep beyond registers (R17, R403). Of all that the module does only six operations write that table: a pass
takes a number, a pass ends, a carrel's entry or priority changes, a reset keeps its numbers, a boot goes on from the limits. Everything else leaves
it as it is: one lemma per operation, in the model's order.
-/
section
open Sys2Proof Sys2Proof.Machine
namespace Sys2Proof.Machine

/-- The table of what the carrels keep beyond registers. It is a name of its own so that `simp` carries it through a state's updates. -/
def State.carrels (s : State) : Sparse CarrelState := s.itk.carrels

/-- A change of the other components leaves the table. -/
@[simp] theorem mk_carrels (u : State) (a0 a1 a2 a3 a4 a5 a6 a7 a8 a9 a10 a11 a13 a14 a15 a16 a17 a18 a19 a20 a21) :
    (State.mk a0 a1 a2 a3 a4 a5 a6 a7 a8 a9 a10 a11 u.itk a13 a14 a15 a16 a17 a18 a19 a20 a21).carrels = u.carrels := (rfl)

/-- So does a change of the intake's streams and commands. -/
@[simp] theorem mk_intake_carrels (u : State) (a0 a1 a2 a3 a4 a5 a6 a7 a8 a9 a10 a11 a13 a14 a15 a16 a17 a18 a19 a20 a21 streams cmds) :
    (State.mk a0 a1 a2 a3 a4 a5 a6 a7 a8 a9 a10 a11 ⟨streams, u.itk.carrels, cmds⟩ a13 a14 a15 a16 a17 a18 a19 a20 a21).carrels = u.carrels := (rfl)

@[simp] theorem ite_carrels (c : Prop) [Decidable c] (t u : State) : (if c then t else u).carrels = if c then t.carrels else u.carrels :=
  apply_ite State.carrels c t u

/-- A walk whose every step leaves the table. -/
@[simp] theorem foldl_carrels {α : Type} {f : State → α → State} (h : ∀ s x, (f s x).carrels = s.carrels) (l : List α) (s : State) :
    (l.foldl f s).carrels = s.carrels := by
  induction l generalizing s with
  | nil => rfl
  | cons x xs ih => rw [List.foldl_cons, ih, h]

/-- A walk that carries something beside the state. -/
@[simp] theorem foldl_fst_carrels {α β : Type} {f : State × β → α → State × β} (h : ∀ p x, (f p x).1.carrels = p.1.carrels) (l : List α)
    (p : State × β) : (l.foldl f p).1.carrels = p.1.carrels := by
  induction l generalizing p with
  | nil => rfl
  | cons x xs ih => rw [List.foldl_cons, ih, h]

@[simp] theorem foldl_snd_carrels {α β : Type} {f : β × State → α → β × State} (h : ∀ p x, (f p x).2.carrels = p.2.carrels) (l : List α)
    (p : β × State) : (l.foldl f p).2.carrels = p.2.carrels := by
  induction l generalizing p with
  | nil => rfl
  | cons x xs ih => rw [List.foldl_cons, ih, h]

/-- A command's outcome with the table as it was. -/
def KeepsCarrels (s : State) (o : Out) : Prop := ∀ t, o = .next t → t.carrels = s.carrels

@[simp] theorem keepsCarrels_next {s t : State} : KeepsCarrels s (.next t) ↔ t.carrels = s.carrels :=
  ⟨fun h => h t rfl, fun h u hu => by cases hu; exact h⟩

/-- What a scribe instruction comes to, with the table as it was. -/
def DidKeepsCarrels (s : State) (o : Did) : Prop := ∀ t, o = .done t → t.carrels = s.carrels

@[simp] theorem didKeepsCarrels_done {s t : State} : DidKeepsCarrels s (.done t) ↔ t.carrels = s.carrels :=
  ⟨fun h => h t rfl, fun h u hu => by cases hu; exact h⟩

@[simp] theorem didKeepsCarrels_fault {s : State} {code : Nat} : DidKeepsCarrels s (.fault code) := fun _ h => nomatch h

@[simp] theorem didKeepsCarrels_stall {s : State} : DidKeepsCarrels s .stall := fun _ h => nomatch h

variable (s : State)

/-! ### The shared operations -/

@[simp] theorem rset_carrels (a v) : (rset s a v).carrels = s.carrels := (rfl)
@[simp] theorem fset_carrels (f x) : (fset s f x).carrels = s.carrels := (rfl)
@[simp] theorem fbump_carrels (f n) : (fbump s f n).carrels = s.carrels := (rfl)
@[simp] theorem freeDraw_carrels : (freeDraw s).2.carrels = s.carrels := (rfl)
@[simp] theorem writeRec_carrels (kind sev obj a0 a1 a2) : (writeRec s kind sev obj a0 a1 a2).carrels = s.carrels := by simp [writeRec]
@[simp] theorem annal_carrels (kind sev obj a0 a1 a2) : (annal s kind sev obj a0 a1 a2).carrels = s.carrels := by simp [annal]
@[simp] theorem ignored_carrels (off value) : (ignored s off value).carrels = s.carrels := by simp [ignored]
@[simp] theorem leaveIdle_carrels : (leaveIdle s).carrels = s.carrels := by simp [leaveIdle]
@[simp] theorem accrueReasons_carrels : (accrueReasons s).carrels = s.carrels := (rfl)
@[simp] theorem idleTick_carrels : (idleTick s).carrels = s.carrels := by simp [idleTick]
@[simp] theorem dmaWrite_carrels (fn addr bytes) : (dmaWrite s fn addr bytes).carrels = s.carrels := by simp [dmaWrite]
@[simp] theorem msixSend_carrels (fn v) : (msixSend s fn v).carrels = s.carrels := (rfl)
@[simp] theorem msix_carrels (fn v) : (msix s fn v).carrels = s.carrels := by simp [msix]
@[simp] theorem msixRelease_carrels (fn v) : (msixRelease s fn v).carrels = s.carrels := by simp [msixRelease]
@[simp] theorem modStream_carrels (c f) : (modStream s c f).carrels = s.carrels := (rfl)
@[simp] theorem modCmd_carrels (c seq f) : (modCmd s c seq f).carrels = s.carrels := (rfl)
@[simp] theorem finish_carrels (c seq status value) : (finish s c seq status value).carrels = s.carrels := (rfl)
@[simp] theorem modAcc_carrels (r f) : (modAcc s r f).carrels = s.carrels := (rfl)
@[simp] theorem modPass_carrels (r f) : (modPass s r f).carrels = s.carrels := (rfl)
@[simp] theorem reloadPrograms_carrels (r) : (reloadPrograms s r).carrels = s.carrels := (rfl)
@[simp] theorem modSession_carrels (h f) : (modSession s h f).carrels = s.carrels := (rfl)
@[simp] theorem modFolio_carrels (k f) : (modFolio s k f).carrels = s.carrels := (rfl)
@[simp] theorem toState_carrels (k st) : (toState s k st).carrels = s.carrels := by simp [toState]

/-! ### Links -/

@[simp] theorem modPort_carrels (n f) : (modPort s n f).carrels = s.carrels := (rfl)
@[simp] theorem putFlit_carrels (n typ nack seq vc payload spoil) : (putFlit s n typ nack seq vc payload spoil).carrels = s.carrels := by
  simp only [putFlit]
  split <;> simp

@[simp] theorem sendIdle_carrels (n nack) : (sendIdle s n nack).carrels = s.carrels := (rfl)
@[simp] theorem transmit_carrels (n f) : (transmit s n f).carrels = s.carrels := (rfl)
@[simp] theorem injChoose_carrels (n) : (injChoose s n).2.carrels = s.carrels := by
  unfold injChoose
  split <;> simp

@[simp] theorem firstTransmit_carrels (n f) : (firstTransmit s n f).carrels = s.carrels := by
  simp only [firstTransmit]
  repeat' split
  all_goals simp

@[simp] theorem injEnable_carrels (n) : (injEnable s n).carrels = s.carrels := (rfl)
@[simp] theorem pump_carrels (n fuel) : (pump n fuel s).carrels = s.carrels := by
  induction fuel generalizing s with
  | zero => rfl
  | succ fuel ih =>
    simp only [pump]
    split
    · rfl
    · simp [ih]

@[simp] theorem sendFlit_carrels (n f) : (sendFlit s n f).carrels = s.carrels := by simp [sendFlit]
@[simp] theorem sendMsg_carrels (n typ body) : (sendMsg s n typ body).carrels = s.carrels := by simp [sendMsg]
@[simp] theorem sendFault_carrels (n kind port detail) : (sendFault s n kind port detail).carrels = s.carrels := by simp [sendFault]
@[simp] theorem sendDispatch_carrels (r kind carrel cls passId words) : (sendDispatch s r kind carrel cls passId words).carrels = s.carrels := by
  simp [sendDispatch]
@[simp] theorem sendTxn_carrels (n kind poison tag addr data origin elems) : (sendTxn s n kind poison tag addr data origin elems).carrels = s.carrels := by
  simp [sendTxn]
@[simp] theorem tsxRecord_carrels (n event) : (tsxRecord s n event).carrels = s.carrels := by simp [tsxRecord]

/-! ### Packets -/

@[simp] theorem writeHeader_carrels (c) : (writeHeader s c).carrels = s.carrels := by simp [writeHeader]
@[simp] theorem raiseVector0_carrels (c) : (raiseVector0 s c).carrels = s.carrels := by simp [raiseVector0]
@[simp] theorem writeRecord_carrels (c tag seq pass status flags op count value irq) :
    (writeRecord s c tag seq pass status flags op count value irq).carrels = s.carrels := by
  simp [writeRecord]
@[simp] theorem haltStream_carrels (c reason) : (haltStream s c reason).carrels = s.carrels := by simp [haltStream]
@[simp] theorem consumePacket_carrels (c pkt) : (consumePacket s c pkt).carrels = s.carrels := by simp [consumePacket]
@[simp] theorem takePackets_carrels (c fuel) : (takePackets c fuel s).carrels = s.carrels := by
  induction fuel generalizing s with
  | zero => rfl
  | succ fuel ih =>
    simp only [takePackets]
    repeat' split
    all_goals simp [ih]

@[simp] theorem writeEntries_carrels (k es) : (writeEntries s k es).carrels = s.carrels := by simp [writeEntries]

/-! ### Pages -/

@[simp] theorem modPage_carrels (h i f) : (modPage s h i f).carrels = s.carrels := (rfl)
theorem allocPage_carrels {h p u} (hu : allocPage s h p = some u) : u.1.carrels = s.carrels := by
  simp only [allocPage] at hu
  split at hu
  · cases hu
    simp
  · cases hu

@[simp] theorem spoilLine_carrels (h a) : (spoilLine s h a).carrels = s.carrels := (rfl)
@[simp] theorem cleanLines_carrels (h a n) : (cleanLines s h a n).carrels = s.carrels := (rfl)
@[simp] theorem spoilLines_carrels (h a n) : (spoilLines s h a n).carrels = s.carrels := by simp [spoilLines]
@[simp] theorem releasePage_carrels (h i) : (releasePage s h i).carrels = s.carrels := by simp [releasePage]
@[simp] theorem releaseAll_carrels (x) : (releaseAll s x).carrels = s.carrels := by
  unfold releaseAll
  split <;> simp

theorem cowCopy_carrels {x h g k i u} (hu : cowCopy s x h g k i = some u) : u.carrels = s.carrels := by
  simp only [cowCopy] at hu
  split at hu
  · cases hu
  · next h => cases hu; simp [allocPage_carrels _ h]

theorem needPage_carrels {handle g grp k u} (hu : needPage s handle g grp k = some u) : u.carrels = s.carrels := by
  simp only [needPage] at hu
  split at hu
  · cases hu; rfl
  · split at hu
    · split at hu
      · exact cowCopy_carrels s hu
      · cases hu; rfl
    · split at hu
      · cases hu
      · next h => cases hu; simp [allocPage_carrels _ h]

theorem foldOpt_carrels {α : Type} {f : State → α → Option State} (hf : ∀ t x u, f t x = some u → u.carrels = t.carrels) {l : List α} {s u : State}
    (hu : foldOpt f s l = some u) : u.carrels = s.carrels := by
  induction l generalizing s with
  | nil => cases hu; rfl
  | cons x xs ih =>
    simp only [foldOpt] at hu
    split at hu
    · cases hu
    · next ht => rw [ih hu, hf _ _ _ ht]

theorem growSession_carrels {handle count u} (hu : growSession s handle count = some u) : u.carrels = s.carrels := by
  simp only [growSession] at hu
  split at hu
  · cases hu; rfl
  · exact foldOpt_carrels (fun _ _ _ => foldOpt_carrels fun _ _ _ => needPage_carrels _) hu

theorem reserveExtent_carrels {x u} (hu : reserveExtent s x = some u) : u.carrels = s.carrels := by
  obtain ⟨a, -, rfl⟩ := Option.map_eq_some_iff.1 hu
  simp

theorem chooseVictims_carrels {enough ghost xs chosen u} (hu : chooseVictims enough s ghost xs chosen = some u) : u.1.carrels = s.carrels := by
  induction xs generalizing s ghost chosen with
  | nil => cases hu
  | cons x xs ih =>
    simp only [chooseVictims] at hu
    split at hu
    · exact ih _ hu
    · next h =>
      rw [← reserveExtent_carrels _ h]
      split at hu
      · cases hu; rfl
      · exact ih _ hu

theorem selectVictims_carrels {handle skip enough u} (hu : selectVictims s handle skip enough = some u) : u.1.carrels = s.carrels := by
  simp only [selectVictims] at hu
  split at hu
  · cases hu
  · exact chooseVictims_carrels _ hu

@[simp] theorem startSwapOut_carrels (h stream seq forCmd) : (startSwapOut s h stream seq forCmd).carrels = s.carrels := (rfl)
@[simp] theorem hbmWrite_carrels (h a bs) : (hbmWrite s h a bs).carrels = s.carrels := (rfl)
@[simp] theorem giveUpReturn_carrels (x) : (giveUpReturn s x).carrels = s.carrels := by simp [giveUpReturn]
@[simp] theorem closeSession_carrels (h) : (closeSession s h).carrels = s.carrels := by
  unfold closeSession
  split <;> simp

@[simp] theorem killSession_carrels (h status) : (killSession s h status).carrels = s.carrels := (rfl)

/-! ### Intake -/

@[simp] theorem arrive_carrels (c off bytes) : (arrive s c off bytes).carrels = s.carrels := by simp [arrive]
@[simp] theorem execPacketBlockWrite_keepsCarrels (stream viaStandby off bytes) : KeepsCarrels s (execPacketBlockWrite stream viaStandby off bytes s) := by
  simp [execPacketBlockWrite]
@[simp] theorem execStallTimeout_keepsCarrels (stream) : KeepsCarrels s (execStallTimeout stream s) := by simp [execStallTimeout]
@[simp] theorem execResync_keepsCarrels (stream viaStandby value) : KeepsCarrels s (execResync stream viaStandby value s) := by simp [execResync]
@[simp] theorem execRingEnable_keepsCarrels (stream viaStandby value) : KeepsCarrels s (execRingEnable stream viaStandby value s) := by
  simp [execRingEnable]
@[simp] theorem execIrqModerationTimeout_keepsCarrels (stream) : KeepsCarrels s (execIrqModerationTimeout stream s) := by
  simp [execIrqModerationTimeout]
@[simp] theorem execCommandBegin_keepsCarrels : KeepsCarrels s (execCommandBegin s) := by
  unfold execCommandBegin
  repeat' split
  all_goals simp

@[simp] theorem sealCmd_carrels (k) : (sealCmd s k).carrels = s.carrels := by simp [sealCmd]
@[simp] theorem releaseAborts_carrels (k) : (releaseAborts s k).carrels = s.carrels := by simp [releaseAborts]
@[simp] theorem execCommandSeal_keepsCarrels (stream seq) : KeepsCarrels s (execCommandSeal stream seq s) := by
  unfold execCommandSeal
  split <;> simp

@[simp] theorem execSessionOpen_keepsCarrels (stream seq) : KeepsCarrels s (execSessionOpen stream seq s) := by
  unfold execSessionOpen
  split <;> simp

@[simp] theorem execSessionClose_keepsCarrels (stream seq) : KeepsCarrels s (execSessionClose stream seq s) := by
  simp only [execSessionClose]
  repeat' split
  all_goals simp

@[simp] theorem execTokensCmd_keepsCarrels (stream seq f) : KeepsCarrels s (execTokensCmd stream seq f s) := by
  unfold execTokensCmd
  repeat' split
  all_goals simp

@[simp] theorem execStepCmd_keepsCarrels (stream seq) : KeepsCarrels s (execStepCmd stream seq s) := by
  unfold execStepCmd
  split <;> simp

@[simp] theorem execRecipeSet_keepsCarrels (stream seq) : KeepsCarrels s (execRecipeSet stream seq s) := by
  unfold execRecipeSet
  split <;> simp

@[simp] theorem stopReturns_carrels (k) : (stopReturns s k).carrels = s.carrels := by
  refine foldl_carrels (fun t x => ?_) _ s
  split <;> simp

@[simp] theorem stopTarget_carrels (k) : (stopTarget s k).carrels = s.carrels := by simp [stopTarget]
@[simp] theorem freeScratch_carrels (r) : (freeScratch s r).carrels = s.carrels := (rfl)
@[simp] theorem endRun_carrels (stream seq) : (endRun s stream seq).carrels = s.carrels := by simp [endRun]
@[simp] theorem execAbortCmd_keepsCarrels (stream seq) : KeepsCarrels s (execAbortCmd stream seq s) := by
  simp only [execAbortCmd]
  repeat' split
  all_goals simp

@[simp] theorem execFenceCmd_keepsCarrels (stream seq) : KeepsCarrels s (execFenceCmd stream seq s) := by
  unfold execFenceCmd
  split <;> simp

/-! ### Signatures -/

@[simp] theorem fsrEmit_carrels (kind keys) : (fsrEmit s kind keys).carrels = s.carrels := (rfl)
@[simp] theorem poisonNoted_carrels (obj) : (poisonNoted obj s).carrels = s.carrels := by simp [poisonNoted]
@[simp] theorem shelfFsr_carrels (shelf) : (shelfFsr s shelf).carrels = s.carrels := (rfl)
@[simp] theorem hallFsr_carrels (hall region) : (hallFsr s hall region).carrels = s.carrels := (rfl)
@[simp] theorem poisonOrigin_carrels (shelf) : (poisonOrigin s shelf).carrels = s.carrels := by simp [poisonOrigin]
@[simp] theorem poisonHbm_carrels (hall region) : (poisonHbm s hall region).carrels = s.carrels := by simp [poisonHbm]

/-! ### Sessions and comets -/

@[simp] theorem forkPages_carrels (parent child n) : (forkPages s parent child n).carrels = s.carrels := by
  unfold forkPages
  split <;> simp

@[simp] theorem execPageFork_keepsCarrels (stream seq) : KeepsCarrels s (execPageFork stream seq s) := by
  unfold execPageFork
  split <;> simp

@[simp] theorem keepPages_carrels (x keep) : (keepPages s x keep).carrels = s.carrels := by simp [keepPages]
@[simp] theorem execPageRelease_keepsCarrels (stream seq) : KeepsCarrels s (execPageRelease stream seq s) := by
  unfold execPageRelease
  repeat' split
  all_goals simp

@[simp] theorem addEntry_carrels (k e) : (addEntry s k e).carrels = s.carrels := by simp [addEntry]
@[simp] theorem refuseSession_carrels (k h status) : (refuseSession s k h status).carrels = s.carrels := by simp [refuseSession]
@[simp] theorem refuseWaiters_carrels (h status) : (refuseWaiters s h status).carrels = s.carrels := by simp [refuseWaiters]
@[simp] theorem swapRecord_carrels (x step cause) : (swapRecord s x step cause).carrels = s.carrels := by simp [swapRecord]
@[simp] theorem swapFailed_carrels (x step cause) : (swapFailed s x step cause).carrels = s.carrels := by simp [swapFailed]
@[simp] theorem becomeComet_carrels (x) : (becomeComet s x).carrels = s.carrels := by simp [becomeComet]
@[simp] theorem execSwapOut_keepsCarrels (stream seq) : KeepsCarrels s (execSwapOut stream seq s) := by
  simp only [execSwapOut, keepsCarrels_next]
  split
  · rfl
  · split
    · simp
    · repeat' split
      all_goals try simp
      next h => exact reserveExtent_carrels _ h

@[simp] theorem execSwapOutFlushReadDone_keepsCarrels (session f) : KeepsCarrels s (execSwapOutFlushReadDone session f s) := by
  unfold execSwapOutFlushReadDone
  repeat' split
  all_goals simp

@[simp] theorem execSwapOutColophonReadDone_keepsCarrels (session f) : KeepsCarrels s (execSwapOutColophonReadDone session f s) := by
  unfold execSwapOutColophonReadDone
  split <;> simp

@[simp] theorem failSwaps_carrels : (failSwaps s).carrels = s.carrels := by simp [failSwaps]
@[simp] theorem startReturn_carrels (h) : (startReturn s h).carrels = s.carrels := (rfl)
@[simp] theorem execSwapIn_keepsCarrels (stream seq) : KeepsCarrels s (execSwapIn stream seq s) := by
  unfold execSwapIn
  repeat' split
  all_goals simp

theorem allocReturn_carrels {x u} (hu : allocReturn s x = some u) : u.carrels = s.carrels := by
  refine foldOpt_carrels (fun t q u hu => ?_) hu
  obtain ⟨r, hr, rfl⟩ := Option.map_eq_some_iff.1 hu
  simp [allocPage_carrels _ hr]

@[simp] theorem returnDies_carrels (x step cause) : (returnDies s x step cause).carrels = s.carrels := by simp [returnDies]
@[simp] theorem returnFails_carrels (x) : (returnFails s x).carrels = s.carrels := by simp [returnFails]
@[simp] theorem returnReadFailed_carrels (x cause) : (returnReadFailed s x cause).carrels = s.carrels := by simp [returnReadFailed]
@[simp] theorem restorePage_carrels (h p data) : (restorePage s h p data).carrels = s.carrels := by
  unfold restorePage
  split <;> simp

@[simp] theorem restoreBody_carrels (x b) : (restoreBody s x b).carrels = s.carrels := by simp [restoreBody]
@[simp] theorem becomeResident_carrels (x) : (becomeResident s x).carrels = s.carrels := by simp [becomeResident]
@[simp] theorem colophonRead_carrels (x b) : (colophonRead s x b).carrels = s.carrels := by
  simp only [colophonRead]
  split
  · simp
  · split
    · next h => simp [allocReturn_carrels _ h]
    · split
      · rfl
      · split
        · next h _ => simp [selectVictims_carrels _ h]
        · simp

@[simp] theorem execCometReturnReadDone_keepsCarrels (session f) : KeepsCarrels s (execCometReturnReadDone session f s) := by
  unfold execCometReturnReadDone
  repeat' split
  all_goals simp

@[simp] theorem execCompletionTimeout_keepsCarrels (session) : KeepsCarrels s (execCompletionTimeout session s) := by
  unfold execCompletionTimeout
  split <;> simp

@[simp] theorem poisonPage_carrels (h e) : (poisonPage s h e).carrels = s.carrels := by simp [poisonPage]
@[simp] theorem spoilTables_carrels (hall line) : (spoilTables s hall line).carrels = s.carrels := by simp [spoilTables]
@[simp] theorem keepFinding_carrels (line) : (keepFinding line s).carrels = s.carrels := (rfl)
@[simp] theorem execPatrolScrub_keepsCarrels (hall addr) : KeepsCarrels s (execPatrolScrub hall addr s) := by
  simp only [execPatrolScrub]
  repeat' split
  all_goals simp

/-! ### Folios -/

@[simp] theorem putKhat_carrels (k xs) : (putKhat s k xs).carrels = s.carrels := (rfl)
@[simp] theorem putOffs_carrels (k xs) : (putOffs s k xs).carrels = s.carrels := (rfl)
@[simp] theorem restartWindow_carrels (k) : (restartWindow s k).carrels = s.carrels := (rfl)
@[simp] theorem switchBank_carrels (k) : (switchBank s k).carrels = s.carrels := (rfl)
@[simp] theorem modLedger_carrels (shelf c f) : (modLedger s shelf c f).carrels = s.carrels := (rfl)
@[simp] theorem countWindow_carrels (key p b rows cs) : (countWindow s key p b rows cs).carrels = s.carrels := by simp [countWindow]
@[simp] theorem countSat_carrels (key region layer cs) : (countSat s key region layer cs).carrels = s.carrels := by simp [countSat]

/-! ### Faults -/

@[simp] theorem fsr_carrels (kind region keys) : (fsr s kind region keys).carrels = s.carrels := (rfl)
@[simp] theorem detectRecord_carrels (obj code a1 a2) : (detectRecord s obj code a1 a2).carrels = s.carrels := by simp [detectRecord]
@[simp] theorem taintReport_carrels (t last final action) : (taintReport s t last final action).carrels = s.carrels := by simp [taintReport]
@[simp] theorem openTaint_carrels (t) : (openTaint s t).carrels = s.carrels := by simp [openTaint]
@[simp] theorem endTaints_carrels (p last action) : (endTaints s p last action).carrels = s.carrels := by simp [endTaints]
@[simp] theorem modRotation_carrels (h f) : (modRotation s h f).carrels = s.carrels := (rfl)
@[simp] theorem proveFirst_carrels (h units) : (proveFirst s h units).carrels = s.carrels := (rfl)
@[simp] theorem sendDetection_carrels (cls region stage first last) : (sendDetection s cls region stage first last).carrels = s.carrels := by
  simp only [sendDetection]
  repeat' split
  all_goals simp

@[simp] theorem announce_carrels (cls region stage start) : (announce s cls region stage start).carrels = s.carrels := by simp [announce]
@[simp] theorem noteDetection_carrels (h region stage bit) : (noteDetection s h region stage bit).carrels = s.carrels := by
  unfold noteDetection
  split <;> simp

/-! ### Adapters -/

@[simp] theorem modLoan_carrels (c a f) : (modLoan s c a f).carrels = s.carrels := (rfl)
theorem makeLoanRoom_carrels {c need fuel u} (hu : makeLoanRoom c need fuel s = some u) : u.carrels = s.carrels := by
  induction fuel generalizing s with
  | zero => cases hu
  | succ fuel ih =>
    simp only [makeLoanRoom] at hu
    repeat' split at hu
    · cases hu; rfl
    · cases hu
    · simpa using ih _ hu

@[simp] theorem holdLoan_carrels (region c a) : (holdLoan s region c a).carrels = s.carrels := by
  -- The free pages are named, not computed: the kernel would evaluate the whole page table.
  obtain ⟨home, hhome⟩ : ∃ home, homePages = home := ⟨_, rfl⟩
  rw [holdLoan, hhome]
  split
  · rfl
  · split
    · rfl
    · split
      · rfl
      · next hroom =>
        repeat' split
        · rfl
        · rfl
        · rw [modLoan_carrels, makeLoanRoom_carrels _ hroom]

@[simp] theorem askStages_carrels (region c a want) : (askStages s region c a want).carrels = s.carrels := by simp [askStages]
@[simp] theorem modStage_carrels (c a st f) : (modStage s c a st f).carrels = s.carrels := (rfl)
@[simp] theorem issueOn_carrels (fn) : (issueOn fn s).carrels = s.carrels := by
  unfold issueOn
  repeat' split
  all_goals simp

@[simp] theorem issueFetches_carrels : (issueFetches s).carrels = s.carrels := by simp [issueFetches]
@[simp] theorem rerouteLoans_carrels : (rerouteLoans s).carrels = s.carrels := (rfl)
@[simp] theorem retryLoans_carrels : (retryLoans s).carrels = s.carrels := by
  refine (issueFetches_carrels _).trans (foldl_carrels (fun t l => ?_) _ _)
  split <;> simp

@[simp] theorem setBinding_carrels (h b) : (setBinding s h b).carrels = s.carrels := (rfl)
@[simp] theorem sweepLoans_carrels : (sweepLoans s).carrels = s.carrels := by simp [sweepLoans]
@[simp] theorem execAdapterBind_keepsCarrels (stream seq f) : KeepsCarrels s (execAdapterBind stream seq f s) := by
  simp only [execAdapterBind]
  repeat' split
  all_goals simp

@[simp] theorem finishWaits_carrels (c a) : (finishWaits s c a).carrels = s.carrels := by simp [finishWaits]
@[simp] theorem execAdapterFetchComplete_keepsCarrels (carrel adapter stage f) : KeepsCarrels s (execAdapterFetchComplete carrel adapter stage f s) := by
  unfold execAdapterFetchComplete
  repeat' split
  all_goals simp

@[simp] theorem askLayer_carrels (p layer) : (askLayer s p layer).carrels = s.carrels := by
  refine (issueFetches_carrels _).trans (foldl_carrels (fun t h => ?_) _ _)
  split <;> simp

@[simp] theorem useLoans_carrels (p) : (useLoans s p).carrels = s.carrels := by
  refine foldl_carrels (fun t x => ?_) _ s
  split <;> simp

@[simp] theorem undoMark_carrels (m) : (undoMark s m).carrels = s.carrels := (rfl)
@[simp] theorem dropLate_carrels (r layer h) : (dropLate s r layer h).carrels = s.carrels := by simp [dropLate]

/-! ### Passes -/

@[simp] theorem countOutliers_carrels (p x) : (countOutliers s p x).carrels = s.carrels := (rfl)
@[simp] theorem modScribe_carrels (shelf f) : (modScribe s shelf f).carrels = s.carrels := (rfl)
@[simp] theorem readyJob_carrels (shelf j) : (readyJob s shelf j).carrels = s.carrels := by
  unfold readyJob
  split <;> simp

@[simp] theorem readyStage_carrels (p st) : (readyStage s p st).carrels = s.carrels := by simp [readyStage]
@[simp] theorem readySample_carrels (p st) : (readySample s p st).carrels = s.carrels := by simp [readySample]
@[simp] theorem dropUnready_carrels (r layer) : (dropUnready s r layer).carrels = s.carrels := by
  unfold dropUnready
  split <;> simp

@[simp] theorem modTile_carrels (shelf t f) : (modTile s shelf t f).carrels = s.carrels := (rfl)
@[simp] theorem modHall_carrels (h f) : (modHall s h f).carrels = s.carrels := (rfl)
@[simp] theorem showPeriod_carrels (h floor) : (showPeriod s h floor).carrels = s.carrels := (rfl)
@[simp] theorem countLocal_carrels (p shelf c slot key v rows cs) : (countLocal s p shelf c slot key v rows cs).carrels = s.carrels := by
  simp [countLocal]
@[simp] theorem switchAtVector_carrels (x key v) : (switchAtVector s x key v).carrels = s.carrels := by simp [switchAtVector]
@[simp] theorem strikeOne_carrels (p x b shelf slot key) : (strikeOne s p x b shelf slot key).carrels = s.carrels := by
  unfold strikeOne
  split <;> simp

@[simp] theorem execStrike_keepsCarrels (shelf pos) : KeepsCarrels s (execStrike shelf pos s) := by
  simp only [execStrike]
  repeat' split
  all_goals simp

/-! ### Collectives -/

@[simp] theorem putColl_carrels (c) : (putColl s c).carrels = s.carrels := (rfl)
@[simp] theorem sendFragment_carrels (n tag src f) : (sendFragment s n tag src f).carrels = s.carrels := by simp [sendFragment]
@[simp] theorem sendRuns_carrels (ports tag runs) : (sendRuns s ports tag runs).carrels = s.carrels := by simp [sendRuns]
@[simp] theorem sendMembers_carrels (ms tag runs) : (sendMembers s ms tag runs).carrels = s.carrels := by simp [sendMembers]
@[simp] theorem putOut_carrels (r st q v ys) : (putOut s r st q v ys).carrels = s.carrels := (rfl)
@[simp] theorem completeColl_carrels (c) : (completeColl s c).carrels = s.carrels := by simp [completeColl]
@[simp] theorem putOuts_carrels (p st adapt ys) : (putOuts s p st adapt ys).1.carrels = s.carrels := by simp [putOuts]
@[simp] theorem reduceStep_carrels (p st mask c0) : (reduceStep s p st mask c0).carrels = s.carrels := by
  simp only [reduceStep]
  repeat' split
  all_goals simp

@[simp] theorem gatherStep_carrels (p st mask c) : (gatherStep s p st mask c).carrels = s.carrels := by
  simp only [gatherStep]
  split <;> simp

@[simp] theorem transitOutStep_carrels (p st mask c) : (transitOutStep s p st mask c).carrels = s.carrels := by
  unfold transitOutStep
  repeat' split
  all_goals simp

@[simp] theorem transitInStep_carrels (p c) : (transitInStep s p c).carrels = s.carrels := by simp [transitInStep]
@[simp] theorem syncPass_carrels (r) : (syncPass s r).carrels = s.carrels := by
  simp only [syncPass]
  split
  · rfl
  · split
    · rfl
    · split
      · simp
      · refine (foldl_carrels (fun t e => ?_) _ _).trans (by simp)
        repeat' split
        all_goals simp

@[simp] theorem fragArrive_carrels (tag src off xs) : (fragArrive s tag src off xs).carrels = s.carrels := by simp [fragArrive]
@[simp] theorem execCollectiveTimeout_keepsCarrels (tag) : KeepsCarrels s (execCollectiveTimeout tag s) := by
  unfold execCollectiveTimeout
  split <;> simp

/-! ### Trees -/

@[simp] theorem execLayerBegin_keepsCarrels (region bad) : KeepsCarrels s (execLayerBegin region bad s) := by
  simp only [execLayerBegin]
  repeat' split
  all_goals simp

@[simp] theorem execHoldBudgetExhausted_keepsCarrels (region) : KeepsCarrels s (execHoldBudgetExhausted region s) := by
  unfold execHoldBudgetExhausted
  repeat' split
  all_goals simp

@[simp] theorem settleOut_carrels (r st q v) : (settleOut s r st q v).carrels = s.carrels := by
  unfold settleOut
  repeat' split
  all_goals simp

@[simp] theorem settleStage_carrels (r st) : (settleStage s r st).carrels = s.carrels := by
  simp only [settleStage]
  split
  · rfl
  · refine foldl_carrels (fun t x => ?_) _ _
    split <;> simp

@[simp] theorem archiveError_carrels (r shelf) : (archiveError s r shelf).carrels = s.carrels := by simp [archiveError]
@[simp] theorem exitToTile_carrels (carrel shelf into l) : (exitToTile s carrel shelf into l).carrels = s.carrels := by
  unfold exitToTile
  split <;> simp

@[simp] theorem execShelfExit_keepsCarrels (shelf c w) : KeepsCarrels s (execShelfExit shelf c w s) := by
  unfold execShelfExit
  repeat' split
  all_goals simp

@[simp] theorem putNode_carrels (r key ys) : (putNode s r key ys).carrels = s.carrels := (rfl)
@[simp] theorem execReductionAdd_keepsCarrels (region stage group vec hall level i) :
    KeepsCarrels s (execReductionAdd region stage group vec hall level i s) := by
  unfold execReductionAdd
  repeat' split
  all_goals simp

@[simp] theorem execWideMerge_keepsCarrels (region stage group vec) : KeepsCarrels s (execWideMerge region stage group vec s) := by
  unfold execWideMerge
  repeat' split
  all_goals simp

/-! ### How a pass begins -/

@[simp] theorem openPass_carrels (r stream cmd number passId hs vecs) : (openPass s r stream cmd number passId hs vecs).carrels = s.carrels := by
  simp [openPass]
@[simp] theorem refuseUnfit_carrels (c seq hs) : (refuseUnfit s c seq hs).carrels = s.carrels := by
  refine foldl_carrels (fun t h => ?_) _ _
  repeat' split
  all_goals simp

@[simp] theorem growAll_carrels (c seq hs) : (growAll s c seq hs).1.carrels = s.carrels := by
  induction hs generalizing s with
  | nil => rfl
  | cons h hs ih =>
    simp only [growAll]
    split
    · rfl
    · split
      · next h => rw [ih, growSession_carrels _ h]
      · split
        · next h => simp [selectVictims_carrels _ h]
        · simp [ih]

/-! ### Orbits -/

@[simp] theorem popFlit_carrels (n vc) : (popFlit s n vc).carrels = s.carrels := by
  unfold popFlit
  split <;> simp

theorem onMsg_keepsCarrels (n typ op) {f : State → Nat → Bytes → State} (hf : ∀ t m b, (f t m b).carrels = t.carrels) :
    KeepsCarrels s (onMsg s n typ op f) := by
  simp only [onMsg, keepsCarrels_next]
  repeat' split
  all_goals simp [hf]

@[simp] theorem setOrbState_carrels (x) : (setOrbState s x).carrels = s.carrels := (rfl)
@[simp] theorem refreshOnline_carrels : (refreshOnline s).carrels = s.carrels := (rfl)
@[simp] theorem orbitDeaths_carrels (p) : (orbitDeaths s p).carrels = s.carrels := by simp [orbitDeaths]
@[simp] theorem setHeir_carrels (h) : (setHeir s h).carrels = s.carrels := by
  unfold setHeir
  split <;> simp

@[simp] theorem setAdmitted_carrels (m) : (setAdmitted s m).carrels = s.carrels := by simp [setAdmitted]
@[simp] theorem isolate_carrels : (isolate s).carrels = s.carrels := by simp [isolate]
@[simp] theorem sendJoin_carrels (n) : (sendJoin s n).carrels = s.carrels := by simp [sendJoin]
@[simp] theorem admitPort_carrels (n) : (admitPort s n).carrels = s.carrels := by
  unfold admitPort
  split <;> simp

@[simp] theorem admitMoons_carrels : (admitMoons s).carrels = s.carrels := by
  refine foldl_carrels (fun t x => ?_) _ s
  split <;> simp

@[simp] theorem seekAdmission_carrels (n) : (seekAdmission s n).carrels = s.carrels := by simp [seekAdmission]
@[simp] theorem sendAdmit_carrels (n) : (sendAdmit s n).carrels = s.carrels := by simp [sendAdmit]
@[simp] theorem refuseRecord_carrels (n reason) : (refuseRecord s n reason).carrels = s.carrels := by simp [refuseRecord]
@[simp] theorem execJoinMsg_keepsCarrels (port) : KeepsCarrels s (execJoinMsg port s) := by
  refine onMsg_keepsCarrels _ _ _ _ fun t m b => ?_
  dsimp only
  split <;> simp

@[simp] theorem compareHeir_carrels (h n) : (compareHeir s h n).carrels = s.carrels := by simp [compareHeir]
@[simp] theorem rebindHeir_carrels : (rebindHeir s).carrels = s.carrels := by simp [rebindHeir]
@[simp] theorem takeHeir_carrels (h n) : (takeHeir s h n).carrels = s.carrels := by simp [takeHeir]
@[simp] theorem execAdmitMsg_keepsCarrels (port) : KeepsCarrels s (execAdmitMsg port s) := onMsg_keepsCarrels _ _ _ _ fun t m b => by simp
@[simp] theorem execRefuseMsg_keepsCarrels (port) : KeepsCarrels s (execRefuseMsg port s) := onMsg_keepsCarrels _ _ _ _ fun t m b => by simp
@[simp] theorem execOrbitRejoin_keepsCarrels : KeepsCarrels s (execOrbitRejoin s) := by simp [execOrbitRejoin]
@[simp] theorem modOrb_carrels (id r f) : (modOrb s id r f).carrels = s.carrels := (rfl)
@[simp] theorem growShare_carrels (hs) : (growShare s hs).1.carrels = s.carrels := by
  refine foldl_fst_carrels (fun p x => ?_) _ _
  split
  · rfl
  · split
    · rfl
    · split
      · next h => exact growSession_carrels _ h
      · rfl

@[simp] theorem beginShare_carrels (x) : (beginShare s x).carrels = s.carrels := by simp [beginShare]
@[simp] theorem nextShare_carrels (r) : (nextShare s r).carrels = s.carrels := by
  unfold nextShare
  repeat' split
  all_goals simp

@[simp] theorem releaseShares_carrels : (releaseShares s).carrels = s.carrels := by simp [releaseShares]
@[simp] theorem takeDispatch_carrels (tokens b) : (takeDispatch s tokens b).carrels = s.carrels := by
  simp only [takeDispatch]
  repeat' split
  all_goals simp

@[simp] theorem execDispatchMsg_keepsCarrels (port tokens) : KeepsCarrels s (execDispatchMsg port tokens s) := onMsg_keepsCarrels _ _ _ _ fun t m b => by simp
@[simp] theorem execDoneMsg_keepsCarrels (port) : KeepsCarrels s (execDoneMsg port s) := by
  refine onMsg_keepsCarrels _ _ _ _ fun t m b => ?_
  dsimp only
  split <;> simp

@[simp] theorem sendUp_carrels (body) : (sendUp s body).carrels = s.carrels := by
  unfold sendUp
  split <;> simp

@[simp] theorem execResultMsg_keepsCarrels (port) : KeepsCarrels s (execResultMsg port s) := by
  refine onMsg_keepsCarrels _ _ _ _ fun t m b => ?_
  dsimp only
  repeat' split
  all_goals simp

@[simp] theorem sendDone_carrels (x) : (sendDone s x).carrels = s.carrels := by simp [sendDone]
@[simp] theorem sendResults_carrels (id es) : (sendResults s id es).carrels = s.carrels := by simp [sendResults]
@[simp] theorem toMembers_carrels (mask body) : (toMembers s mask body).carrels = s.carrels := by simp [toMembers]
@[simp] theorem dropMember_carrels (m mask) : (dropMember s m mask).carrels = s.carrels := by simp [dropMember]
@[simp] theorem primaryLoses_carrels (m) : (primaryLoses s m).carrels = s.carrels := by simp [primaryLoses]
@[simp] theorem moonLosesPrimary_carrels : (moonLosesPrimary s).carrels = s.carrels := by simp [moonLosesPrimary]
@[simp] theorem memberLost_carrels (m) : (memberLost s m).carrels = s.carrels := by simp [memberLost]
@[simp] theorem portLost_carrels (n) : (portLost s n).carrels = s.carrels := by
  unfold portLost
  repeat' split
  all_goals simp

@[simp] theorem lossReported_carrels (src p) : (lossReported s src p).carrels = s.carrels := by simp [lossReported]
@[simp] theorem execHeirConfirmTimeout_keepsCarrels : KeepsCarrels s (execHeirConfirmTimeout s) := by simp [execHeirConfirmTimeout]
@[simp] theorem execTakeoverWaitTimeout_keepsCarrels : KeepsCarrels s (execTakeoverWaitTimeout s) := by simp [execTakeoverWaitTimeout]
@[simp] theorem follow_carrels (rival quorum) : (follow s rival quorum).carrels = s.carrels := by simp [follow]
@[simp] theorem execRemoveMsg_keepsCarrels (port) : KeepsCarrels s (execRemoveMsg port s) := onMsg_keepsCarrels _ _ _ _ fun t m b => by simp
@[simp] theorem execTakeoverMsg_keepsCarrels (port) : KeepsCarrels s (execTakeoverMsg port s) := onMsg_keepsCarrels _ _ _ _ fun t m b => by simp
@[simp] theorem execLeave_keepsCarrels : KeepsCarrels s (execLeave s) := by simp [execLeave]
@[simp] theorem execPaceMsg_keepsCarrels (port) : KeepsCarrels s (execPaceMsg port s) := by
  refine onMsg_keepsCarrels _ _ _ _ fun t m b => ?_
  dsimp only
  repeat' split
  all_goals simp

@[simp] theorem execReportMsg_keepsCarrels (port) : KeepsCarrels s (execReportMsg port s) := onMsg_keepsCarrels _ _ _ _ fun t m b => by simp
@[simp] theorem execLimitMsg_keepsCarrels (port) : KeepsCarrels s (execLimitMsg port s) := onMsg_keepsCarrels _ _ _ _ fun t m b => by simp
@[simp] theorem execReleaseMsg_keepsCarrels (port) : KeepsCarrels s (execReleaseMsg port s) := onMsg_keepsCarrels _ _ _ _ fun t m b => by simp
@[simp] theorem execLimitHoldExpiry_keepsCarrels : KeepsCarrels s (execLimitHoldExpiry s) := by simp [execLimitHoldExpiry]
@[simp] theorem execPowerReportTimer_keepsCarrels : KeepsCarrels s (execPowerReportTimer s) := by simp [execPowerReportTimer]

/-! ### Images -/

@[simp] theorem imgRecord_carrels (code serial sec) : (imgRecord s code serial sec).carrels = s.carrels := by simp [imgRecord]
@[simp] theorem imgResult_carrels (code serial sec) : (imgResult s code serial sec).carrels = s.carrels := by simp [imgResult]
@[simp] theorem imgRefuse_carrels : (imgRefuse s).carrels = s.carrels := by simp [imgRefuse]
theorem imgCommand_carrels (tag) {run : State → State} (hrun : ∀ t, (run t).carrels = t.carrels) :
    (imgCommand s tag run).carrels = s.carrels := by
  simp only [imgCommand]
  repeat' split
  all_goals simp [hrun]

@[simp] theorem showPending_carrels : (showPending s).carrels = s.carrels := by
  unfold showPending
  split <;> simp

@[simp] theorem withStore_carrels (st) : (withStore s st).carrels = s.carrels := by simp [withStore]
@[simp] theorem writePending_carrels (b) : (writePending s b).carrels = s.carrels := by simp [writePending]
@[simp] theorem recordIgnored_carrels (b) : (recordIgnored s b).carrels = s.carrels := by simp [recordIgnored]
@[simp] theorem storeRun_carrels (f nandOk) : (storeRun f nandOk s).carrels = s.carrels := by
  simp only [storeRun]
  repeat' split
  all_goals simp

@[simp] theorem execStore_keepsCarrels (tag f nandOk) : KeepsCarrels s (execStore tag f nandOk s) := by
  simp only [execStore, keepsCarrels_next]
  exact imgCommand_carrels _ _ fun t => by simp

@[simp] theorem execDiscard_keepsCarrels (tag) : KeepsCarrels s (execDiscard tag s) := by
  simp only [execDiscard, keepsCarrels_next]
  exact imgCommand_carrels _ _ fun t => by simp

@[simp] theorem execRaiseFloor_keepsCarrels (tag nandOk) : KeepsCarrels s (execRaiseFloor tag nandOk s) := by
  simp only [execRaiseFloor, keepsCarrels_next]
  exact imgCommand_carrels _ _ fun t => by simp

@[simp] theorem execEnrolAnchor_keepsCarrels (tag f nandOk) : KeepsCarrels s (execEnrolAnchor tag f nandOk s) := by
  simp only [execEnrolAnchor, keepsCarrels_next]
  refine imgCommand_carrels _ _ fun t => ?_
  repeat' split
  all_goals simp

@[simp] theorem bindRun_carrels : (bindRun s).carrels = s.carrels := by
  unfold bindRun
  split <;> simp

@[simp] theorem execBind_keepsCarrels (tag) : KeepsCarrels s (execBind tag s) := by
  simp only [execBind, keepsCarrels_next]
  exact imgCommand_carrels _ _ fun t => by simp

@[simp] theorem execRevert_keepsCarrels (tag) : KeepsCarrels s (execRevert tag s) := by
  simp only [execRevert, keepsCarrels_next]
  exact imgCommand_carrels _ _ fun t => by simp

@[simp] theorem execQuiesceTimeout_keepsCarrels : KeepsCarrels s (execQuiesceTimeout s) := by
  unfold execQuiesceTimeout
  repeat' split
  all_goals simp

/-! ### Vigilance -/

@[simp] theorem modVig_carrels (r f) : (modVig s r f).carrels = s.carrels := (rfl)
@[simp] theorem detectS_carrels (c fails tol) : (detectS s c fails tol).carrels = s.carrels := by simp [detectS]
@[simp] theorem dropCheck_carrels (c) : (dropCheck s c).carrels = s.carrels := (rfl)
@[simp] theorem discardCheck_carrels (c) : (discardCheck s c).carrels = s.carrels := by simp [discardCheck]
@[simp] theorem poisonedEvent_carrels (shelf region carrel passNo n) : (poisonedEvent s shelf region carrel passNo n).carrels = s.carrels := by
  simp [poisonedEvent]
@[simp] theorem completeCheck_carrels (c fails tol bad) : (completeCheck s c fails tol bad).carrels = s.carrels := by simp [completeCheck]
@[simp] theorem execClassSCheckDiscard_keepsCarrels (region shelf) : KeepsCarrels s (execClassSCheckDiscard region shelf s) := by
  unfold execClassSCheckDiscard
  split <;> simp

@[simp] theorem execVigilanceClear_keepsCarrels (hall bits) : KeepsCarrels s (execVigilanceClear hall bits s) := by simp [execVigilanceClear]

/-! ### Programming -/

@[simp] theorem endRequest_carrels (k) : (endRequest s k).carrels = s.carrels := by
  unfold endRequest
  split <;> simp

@[simp] theorem freeSpare_carrels (k) : (freeSpare s k).carrels = s.carrels := (rfl)
@[simp] theorem dropSweep_carrels (k) : (dropSweep s k).carrels = s.carrels := (rfl)
@[simp] theorem giveBack_carrels (k) : (giveBack s k).carrels = s.carrels := by simp [giveBack]
@[simp] theorem forgetFolio_carrels (k) : (forgetFolio s k).carrels = s.carrels := (rfl)
@[simp] theorem startProgram_carrels (k region slot role e content p replaces) :
    (startProgram s k region slot role e content p replaces).carrels = s.carrels := by
  simp [startProgram]
@[simp] theorem startCopy_carrels (k spare p) : (startCopy s k spare p).carrels = s.carrels := by simp [startCopy]
@[simp] theorem abandonCopy_carrels (c) : (abandonCopy s c).carrels = s.carrels := by simp [abandonCopy]
@[simp] theorem modGain_carrels (shelf c f) : (modGain s shelf c f).carrels = s.carrels := (rfl)
@[simp] theorem markFailed_carrels (ks) : (markFailed s ks).carrels = s.carrels := by simp [markFailed]
@[simp] theorem deriveGain_carrels (shelf c) : (deriveGain s shelf c).carrels = s.carrels := by simp [deriveGain]
@[simp] theorem deriveGains_carrels (r) : (deriveGains s r).carrels = s.carrels := by simp [deriveGains]
@[simp] theorem enterServing_carrels (k) : (enterServing s k).carrels = s.carrels := by simp [enterServing]

/-! ### Accession -/

@[simp] theorem accNote_carrels (r code m) : (accNote s r code m).carrels = s.carrels := by simp [accNote]
@[simp] theorem accDone_carrels (seq r code m) : (accDone s seq r code m).carrels = s.carrels := by simp [accDone]
@[simp] theorem armTimer_carrels (r) : (armTimer s r).carrels = s.carrels := (rfl)
@[simp] theorem execAccBegin_keepsCarrels (seq f) : KeepsCarrels s (execAccBegin seq f s) := by
  simp only [execAccBegin]
  repeat' split
  all_goals simp

@[simp] theorem abandonIncoming_carrels (r) : (abandonIncoming s r).carrels = s.carrels := by simp [abandonIncoming]
@[simp] theorem releaseAcc_carrels (r code) : (releaseAcc s r code).carrels = s.carrels :=
  foldl_carrels (fun t q => by simp) _ _

@[simp] theorem endAcc_carrels (r code ph) : (endAcc s r code ph).carrels = s.carrels := by simp [endAcc]
@[simp] theorem failAcc_carrels (r code told) : (failAcc s r code told).carrels = s.carrels := by simp [failAcc]
@[simp] theorem abandonRehousing_carrels (r) : (abandonRehousing s r).carrels = s.carrels := by simp [abandonRehousing]
theorem moveTargets_carrels {r named u} (hu : moveTargets s r named = some u) : u.carrels = s.carrels := by
  obtain ⟨x, -, rfl⟩ := Option.map_eq_some_iff.1 hu
  simp

@[simp] theorem retarget_carrels (r k) : (retarget s r k).carrels = s.carrels := by
  simp only [retarget]
  split
  · simp
  · split
    · simp
    · split
      · next h =>
        split at h
        · cases h
        · obtain ⟨t, -, ht⟩ := Option.bind_eq_some_iff.1 h
          exact moveTargets_carrels _ ht
      · simp

@[simp] theorem execAccShard_keepsCarrels (seq) : KeepsCarrels s (execAccShard seq s) := by
  simp only [execAccShard]
  repeat' split
  all_goals simp

@[simp] theorem shardVerified_carrels (r i b) : (shardVerified s r i b).carrels = s.carrels := by simp [shardVerified]
@[simp] theorem execShardFetchComplete_keepsCarrels (region index f) : KeepsCarrels s (execShardFetchComplete region index f s) := by
  simp only [execShardFetchComplete]
  repeat' split
  all_goals simp

@[simp] theorem execShardTimeout_keepsCarrels (region) : KeepsCarrels s (execShardTimeout region s) := by
  simp only [execShardTimeout, keepsCarrels_next]
  split
  · rfl
  · simp [-Option.foldl_toList]

@[simp] theorem execAccCommit_keepsCarrels (seq) : KeepsCarrels s (execAccCommit seq s) := by
  unfold execAccCommit
  split <;> simp

@[simp] theorem execAccCancel_keepsCarrels (seq) : KeepsCarrels s (execAccCancel seq s) := by
  unfold execAccCancel
  split <;> simp

@[simp] theorem flipAccession_carrels (r) : (flipAccession s r).carrels = s.carrels := by
  simp [flipAccession, -Option.foldl_toList]

@[simp] theorem flipRehousing_carrels (r) : (flipRehousing s r).carrels = s.carrels := by simp [flipRehousing]
@[simp] theorem execArchiveCopyFree_keepsCarrels (region) : KeepsCarrels s (execArchiveCopyFree region s) := by
  unfold execArchiveCopyFree
  split <;> simp

@[simp] theorem programTarget_carrels (r a t) : (programTarget s r a t).carrels = s.carrels := by
  unfold programTarget
  split <;> simp

@[simp] theorem execFolioProgramStart_keepsCarrels (hall) : KeepsCarrels s (execFolioProgramStart hall s) := by simp [execFolioProgramStart]
@[simp] theorem loseFolio_carrels (k) : (loseFolio s k).carrels = s.carrels := by simp [loseFolio]
@[simp] theorem execFolioProgramDone_keepsCarrels (shelf pos cells) : KeepsCarrels s (execFolioProgramDone shelf pos cells s) := by
  simp [execFolioProgramDone]
@[simp] theorem execWearLevel_keepsCarrels (shelf pos) : KeepsCarrels s (execWearLevel shelf pos s) := by
  unfold execWearLevel
  split <;> simp

/-! ### Attention -/

@[simp] theorem buildTables_carrels (hs) : (buildTables hs s).carrels = s.carrels := (rfl)
@[simp] theorem appendHead_carrels (p x a isV pos kv head) : (appendHead s p x a isV pos kv head).carrels = s.carrels := by
  unfold appendHead
  split <;> simp

@[simp] theorem kvAppend_carrels (r st h) : (kvAppend s r st h).carrels = s.carrels := by
  unfold kvAppend
  split <;> simp

@[simp] theorem finishAttn_carrels (j) : (finishAttn s j).carrels = s.carrels := by
  unfold finishAttn
  repeat' split
  all_goals simp

@[simp] theorem execAttentionMerge_keepsCarrels (region stage session tile kv) : KeepsCarrels s (execAttentionMerge region stage session tile kv s) := by
  simp only [execAttentionMerge]
  repeat' split
  all_goals simp

/-! ### Power -/

@[simp] theorem learnPhase_carrels (r tag h p u d) : (learnPhase s r tag h p u d).carrels = s.carrels := (rfl)
@[simp] theorem markThrottled_carrels (h) : (markThrottled s h).carrels = s.carrels := (rfl)
@[simp] theorem showReasons_carrels : (showReasons s).carrels = s.carrels := (rfl)
@[simp] theorem refreshHall_carrels (h) : (refreshHall s h).carrels = s.carrels := by simp [refreshHall]
@[simp] theorem requestPoint_carrels (h p) : (requestPoint s h p).carrels = s.carrels := by simp [requestPoint]
@[simp] theorem startQueued_carrels (h) : (startQueued s h).carrels = s.carrels := by
  unfold startQueued
  split <;> simp

@[simp] theorem pointDone_carrels (h) : (pointDone s h).carrels = s.carrels := (rfl)
@[simp] theorem execVoltageSlewDone_keepsCarrels (hall) : KeepsCarrels s (execVoltageSlewDone hall s) := by simp [execVoltageSlewDone]
@[simp] theorem execPllRelockDone_keepsCarrels (hall) : KeepsCarrels s (execPllRelockDone hall s) := by simp [execPllRelockDone]
@[simp] theorem cutAll_carrels : (cutAll s).carrels = s.carrels := by simp [cutAll]
@[simp] theorem brokerHall_carrels (m h) : (brokerHall s m h).carrels = s.carrels := (rfl)
@[simp] theorem noteBinding_carrels (h) : (noteBinding s h).carrels = s.carrels := (rfl)
@[simp] theorem drivePoint_carrels (h) : (drivePoint s h).carrels = s.carrels := by
  unfold drivePoint
  split <;> simp

@[simp] theorem noteExcursion_carrels : (noteExcursion s).carrels = s.carrels := by simp [noteExcursion]
@[simp] theorem execBrokerCycle_keepsCarrels (m) : KeepsCarrels s (execBrokerCycle m s) := by simp [execBrokerCycle]
@[simp] theorem execExcursionCut_keepsCarrels : KeepsCarrels s (execExcursionCut s) := by simp [execExcursionCut]
@[simp] theorem execCapWrite_keepsCarrels (standby width value) : KeepsCarrels s (execCapWrite standby width value s) := by simp [execCapWrite]
@[simp] theorem execHintCmd_keepsCarrels (stream seq) : KeepsCarrels s (execHintCmd stream seq s) := by
  unfold execHintCmd
  split <;> simp

@[simp] theorem execHintWindowOpen_keepsCarrels (carrel region tag) : KeepsCarrels s (execHintWindowOpen carrel region tag s) := by
  simp [execHintWindowOpen]
@[simp] theorem execHintWindowEnd_keepsCarrels (carrel region tag) : KeepsCarrels s (execHintWindowEnd carrel region tag s) := by
  unfold execHintWindowEnd
  split <;> simp

@[simp] theorem showTemp_carrels (h t) : (showTemp s h t).carrels = s.carrels := (rfl)
@[simp] theorem execThermalStep_keepsCarrels (hall measured) : KeepsCarrels s (execThermalStep hall measured s) := by simp [execThermalStep]
@[simp] theorem execDroopDetect_keepsCarrels (hall) : KeepsCarrels s (execDroopDetect hall s) := by simp [execDroopDetect]
@[simp] theorem execDroopClear_keepsCarrels (hall) : KeepsCarrels s (execDroopClear hall s) := by simp [execDroopClear]
@[simp] theorem execHourCount_keepsCarrels : KeepsCarrels s (execHourCount s) := by simp [execHourCount]

/-! ### Collation -/

@[simp] theorem countWide_carrels (k) : (countWide s k).carrels = s.carrels := by
  unfold countWide
  split <;> simp

@[simp] theorem noteLimits_carrels (k b) : (noteLimits s k b).carrels = s.carrels := by simp [noteLimits]
@[simp] theorem issueUpdate_carrels (k gains offsets) : (issueUpdate s k gains offsets).carrels = s.carrels := by
  unfold issueUpdate
  split <;> simp

@[simp] theorem execTapUpdate_keepsCarrels (shelf pos gains offsets) : KeepsCarrels s (execTapUpdate shelf pos gains offsets s) := by
  simp [execTapUpdate]
@[simp] theorem execBankSwitch_keepsCarrels (shelf pos) : KeepsCarrels s (execBankSwitch shelf pos s) := by simp [execBankSwitch]
@[simp] theorem applyGain_carrels (h c) : (applyGain s h c).carrels = s.carrels := (rfl)
@[simp] theorem applyCoupled_carrels (r) : (applyCoupled s r).carrels = s.carrels := by simp [applyCoupled]
@[simp] theorem rescaleFolio_carrels (k old new) : (rescaleFolio s k old new).carrels = s.carrels := by simp [rescaleFolio]
@[simp] theorem carryGain_carrels (before after ks old new h c) : (carryGain before after ks old new s h c).carrels = s.carrels := by simp [carryGain]
@[simp] theorem rescaleRegion_carrels (r h old new) : (rescaleRegion s r h old new).carrels = s.carrels := by simp [rescaleRegion]
@[simp] theorem keepFit_carrels (k x khat offs temp) : (keepFit s k x khat offs temp).carrels = s.carrels := by simp [keepFit]
@[simp] theorem execPassiveWindowEnd_keepsCarrels (shelf pos power) : KeepsCarrels s (execPassiveWindowEnd shelf pos power s) := by
  simp [execPassiveWindowEnd]
@[simp] theorem engineStrike_carrels (k rows) : (engineStrike s k rows).2.carrels = s.carrels := by simp [engineStrike]
@[simp] theorem execActiveSweep_keepsCarrels (shelf pos) : KeepsCarrels s (execActiveSweep shelf pos s) := by simp [execActiveSweep]
@[simp] theorem retrim_carrels (k j target) : (retrim s k j target).carrels = s.carrels := (rfl)
@[simp] theorem momentsOf_carrels (k b) : (momentsOf s k b).2.carrels = s.carrels := by simp [momentsOf]
@[simp] theorem recordMoments_carrels (k) : (recordMoments s k).carrels = s.carrels := by
  unfold recordMoments
  split <;> simp

@[simp] theorem putAlpha_carrels (k temp alpha) : (putAlpha s k temp alpha).carrels = s.carrels := by
  unfold putAlpha
  split <;> simp

@[simp] theorem collateFit_carrels (k fits temp trims) : (collateFit s k fits temp trims).carrels = s.carrels := by simp [collateFit]
@[simp] theorem endSweepRequest_carrels (k) : (endSweepRequest s k).carrels = s.carrels := by
  unfold endSweepRequest
  split <;> simp

@[simp] theorem execSweepFit_keepsCarrels (shelf pos trims targets alpha) : KeepsCarrels s (execSweepFit shelf pos trims targets alpha s) := by
  simp only [execSweepFit]
  split <;> simp

@[simp] theorem execTempSample_keepsCarrels (hall temp) : KeepsCarrels s (execTempSample hall temp s) := by simp [execTempSample]
@[simp] theorem writeCheckpoint_carrels (nandOk) : (writeCheckpoint s nandOk).carrels = s.carrels := (rfl)
@[simp] theorem execTapCheckpointTimer_keepsCarrels (nandOk) : KeepsCarrels s (execTapCheckpointTimer nandOk s) := by simp [execTapCheckpointTimer]
@[simp] theorem deferArchive_carrels (k act) : (deferArchive s k act).carrels = s.carrels := by simp [deferArchive]
@[simp] theorem undefer_carrels (k) : (undefer s k).carrels = s.carrels := (rfl)
@[simp] theorem execDeepCollation_keepsCarrels (shelf pos) : KeepsCarrels s (execDeepCollation shelf pos s) := by
  unfold execDeepCollation
  split <;> simp

@[simp] theorem execDriftRefresh_keepsCarrels (shelf pos) : KeepsCarrels s (execDriftRefresh shelf pos s) := by
  simp only [execDriftRefresh]
  repeat' split
  all_goals simp

@[simp] theorem markRefresh_carrels (k hours) : (markRefresh s k hours).carrels = s.carrels := by
  unfold markRefresh
  split <;> simp

@[simp] theorem checkDrift_carrels (k) : (checkDrift s k).carrels = s.carrels := by simp [checkDrift]
@[simp] theorem hourOf_carrels (temps k) : (hourOf temps s k).carrels = s.carrels := by simp [hourOf]
@[simp] theorem execDriftHourlyUpdate_keepsCarrels (temps) : KeepsCarrels s (execDriftHourlyUpdate temps s) := by simp [execDriftHourlyUpdate]
@[simp] theorem requestResult_carrels (hall code) : (requestResult s hall code).carrels = s.carrels := (rfl)
theorem request_carrels (hall tag cmd fault) {accept : State → Nat → State} (haccept : ∀ t k, (accept t k).carrels = t.carrels) :
    (request s hall tag cmd fault accept).carrels = s.carrels := by
  unfold request
  split
  · rfl
  · split
    · exact requestResult_carrels ..
    · dsimp only
      split
      · exact requestResult_carrels ..
      · rw [haccept, mk_carrels, fset_carrels, requestResult_carrels]

@[simp] theorem execReqSweep_keepsCarrels (hall tag) : KeepsCarrels s (execReqSweep hall tag s) := by
  simp only [execReqSweep, keepsCarrels_next]
  exact request_carrels _ _ _ _ _ fun t k => by simp

@[simp] theorem execReqDeep_keepsCarrels (hall tag) : KeepsCarrels s (execReqDeep hall tag s) := by
  simp only [execReqDeep, keepsCarrels_next]
  exact request_carrels _ _ _ _ _ fun t k => by simp

@[simp] theorem execReqRefresh_keepsCarrels (hall tag) : KeepsCarrels s (execReqRefresh hall tag s) := by
  simp only [execReqRefresh, keepsCarrels_next]
  exact request_carrels _ _ _ _ _ fun t k => by simp

@[simp] theorem execReqCheckpoint_keepsCarrels (hall tag nandOk) : KeepsCarrels s (execReqCheckpoint hall tag nandOk s) := by simp [execReqCheckpoint]
@[simp] theorem flipCopies_carrels (r) : (flipCopies s r).carrels = s.carrels := by
  refine foldl_carrels (fun t x => ?_) _ s
  dsimp only
  repeat' split
  all_goals simp

@[simp] theorem bootFit_carrels (hours k) : (bootFit hours s k).carrels = s.carrels := by
  unfold bootFit
  split <;> simp

@[simp] theorem bootTaps_carrels (k) : (bootTaps s k).carrels = s.carrels := by simp [bootTaps]
@[simp] theorem showReady_carrels : (showReady s).carrels = s.carrels := by simp [showReady]
@[simp] theorem execBootCollationComplete_keepsCarrels (region hours temps) : KeepsCarrels s (execBootCollationComplete region hours temps s) := by
  simp [execBootCollationComplete]

/-! ### Scribes -/

@[simp] theorem writeStore_carrels (shelf a bs bad) : (writeStore s shelf a bs bad).carrels = s.carrels := (rfl)
@[simp] theorem writeScratch_carrels (area a bs bad) : (writeScratch s area a bs bad).carrels = s.carrels := (rfl)
@[simp] theorem putRow_carrels (shelf j d row bs bad) : (putRow s shelf j d row bs bad).carrels = s.carrels := by
  unfold putRow
  repeat' split
  all_goals simp

@[simp] theorem spoilScratch_carrels (area a) : (spoilScratch s area a).carrels = s.carrels := (rfl)
@[simp] theorem rowError_carrels (shelf j d row) : (rowError s shelf j d row).carrels = s.carrels := by
  unfold rowError
  repeat' split
  all_goals simp

@[simp] theorem finishRun_carrels (r status value) : (finishRun s r status value).carrels = s.carrels := by simp [finishRun]
@[simp] theorem sampleEnds_carrels (shelf j) : (sampleEnds s shelf j).carrels = s.carrels := by
  unfold sampleEnds
  split <;> simp

@[simp] theorem afterJob_carrels (shelf j) : (afterJob s shelf j).carrels = s.carrels := by simp [afterJob]
@[simp] theorem haltJob_carrels (shelf j) : (haltJob s shelf j).carrels = s.carrels := by
  simp only [haltJob]
  split <;> simp

@[simp] theorem progFault_carrels (shelf p code) : (progFault s shelf p code).carrels = s.carrels := by
  simp only [progFault]
  split <;> simp

theorem runInsn_keepsCarrels {want body} (hbody : ∀ i t, DidKeepsCarrels t (body i t)) (shelf) :
    KeepsCarrels s (runInsn want body shelf s) := by
  simp only [runInsn, keepsCarrels_next]
  split
  · rfl
  · repeat' split
    all_goals try simp
    next h => simpa using hbody _ _ _ h

@[simp] theorem setX_carrels (shelf n v) : (setX s shelf n v).carrels = s.carrels := (rfl)
@[simp] theorem putTile_carrels (i cols f bad) : (putTile s i cols f bad).carrels = s.carrels := (rfl)
@[simp] theorem execGatherComplete_keepsCarrels (m) : KeepsCarrels s (execGatherComplete m s) := by
  simp only [execGatherComplete]
  split <;> simp

@[simp] theorem takeJob_carrels (shelf j) : (takeJob s shelf j).carrels = s.carrels := by simp [takeJob]
@[simp] theorem stageCheck_carrels (shelf c part) : (stageCheck s shelf c part).carrels = s.carrels := by simp [stageCheck]
@[simp] theorem placeJob_carrels (shelf j) : (placeJob s shelf j).carrels = s.carrels := by
  unfold placeJob
  repeat' split
  all_goals simp

@[simp] theorem startJob_carrels (shelf j) : (startJob s shelf j).carrels = s.carrels := by simp [startJob]
@[simp] theorem execScribeJobStart_keepsCarrels (shelf) : KeepsCarrels s (execScribeJobStart shelf s) := by
  simp only [execScribeJobStart]
  repeat' split
  all_goals simp

@[simp] theorem execScribeRun_keepsCarrels (stream seq f) : KeepsCarrels s (execScribeRun stream seq f s) := by
  unfold execScribeRun
  repeat' split
  all_goals simp

@[simp] theorem execScribeRunTimeout_keepsCarrels (stream seq) : KeepsCarrels s (execScribeRunTimeout stream seq s) := by
  unfold execScribeRunTimeout
  split <;> simp

@[simp] theorem tileReadNow_carrels (k) : (tileReadNow s k).carrels = s.carrels := by simp [tileReadNow]
@[simp] theorem tileWriteNow_carrels (k b) : (tileWriteNow s k b).carrels = s.carrels := by simp [tileWriteNow]
@[simp] theorem tileCommand_carrels (k b) : (tileCommand s k b).carrels = s.carrels := by simp [tileCommand]
@[simp] theorem execTileRead_keepsCarrels (stream seq) : KeepsCarrels s (execTileRead stream seq s) := by
  unfold execTileRead
  split <;> simp

@[simp] theorem execTileWrite_keepsCarrels (stream seq f) : KeepsCarrels s (execTileWrite stream seq f s) := by
  unfold execTileWrite
  repeat' split
  all_goals simp

@[simp] theorem tilesAtBoundary_carrels (region) : (tilesAtBoundary s region).carrels = s.carrels := by
  refine foldl_carrels (fun t x => ?_) _ s
  split <;> simp

/-! ### Containment -/

@[simp] theorem rehouse_carrels (r n) : (rehouse s r n).carrels = s.carrels := by
  simp only [rehouse]
  repeat' split
  all_goals simp

@[simp] theorem shelterRegion_carrels (r) : (shelterRegion s r).carrels = s.carrels := by
  unfold shelterRegion
  split <;> simp

@[simp] theorem settleTaints_carrels : (settleTaints s).carrels = s.carrels := by simp [settleTaints]
@[simp] theorem dropFailed_carrels (h u) : (dropFailed s h u).carrels = s.carrels := (rfl)
@[simp] theorem failUnit_carrels (h u d observed) : (failUnit s h u d observed).carrels = s.carrels := by simp [failUnit]
@[simp] theorem localNone_carrels (shelf) : (localNone s shelf).carrels = s.carrels := by simp [localNone]
@[simp] theorem setDone_carrels (h u) : (setDone s h u).carrels = s.carrels := by simp [setDone]
@[simp] theorem endProofRun_carrels (h) : (endProofRun s h).carrels = s.carrels := by
  simp only [endProofRun]
  split <;> simp

@[simp] theorem execProofJob_keepsCarrels (hall observed) : KeepsCarrels s (execProofJob hall observed s) := by
  simp only [execProofJob]
  repeat' split
  all_goals simp

@[simp] theorem execProofForce_keepsCarrels (hall unit) : KeepsCarrels s (execProofForce hall unit s) := by simp [execProofForce]
@[simp] theorem insertForced_carrels (h) : (insertForced s h).carrels = s.carrels := by
  unfold insertForced
  split <;> simp

@[simp] theorem walkRecord_carrels (k action step) : (walkRecord s k action step).carrels = s.carrels := by simp [walkRecord]
@[simp] theorem retire_carrels (k) : (retire s k).carrels = s.carrels := by simp [retire]
@[simp] theorem walkSpare_carrels (k failed) : (walkSpare s k failed).carrels = s.carrels := by simp [walkSpare]
@[simp] theorem walkServing_carrels (w k failed) : (walkServing s w k failed).carrels = s.carrels := by simp [walkServing]
@[simp] theorem windowDone_carrels : (windowDone s).carrels = s.carrels := by
  unfold windowDone
  split <;> simp

@[simp] theorem resumeWalk_carrels (k) : (resumeWalk s k).carrels = s.carrels := (rfl)
@[simp] theorem abandonWalk_carrels (k) : (abandonWalk s k).carrels = s.carrels := by simp [abandonWalk]
@[simp] theorem execMarginWalk_keepsCarrels (shelf pos failed) : KeepsCarrels s (execMarginWalk shelf pos failed s) := by
  simp only [execMarginWalk]
  repeat' split
  all_goals simp

@[simp] theorem startWalk_carrels (w) : (startWalk s w).carrels = s.carrels := by simp [startWalk]
@[simp] theorem windowQuiet_carrels : (windowQuiet s).carrels = s.carrels := by
  unfold windowQuiet
  split <;> simp

@[simp] theorem openWin_carrels (value tag limit rs whole orbit hbmBad lanesBad) :
    (openWin s value tag limit rs whole orbit hbmBad lanesBad).carrels = s.carrels := by
  simp [openWin]
@[simp] theorem execOpenWindow_keepsCarrels (tag mask limit) : KeepsCarrels s (execOpenWindow tag mask limit s) := by simp [execOpenWindow]
@[simp] theorem execOpenModule_keepsCarrels (tag limit hbmBad lanesBad) : KeepsCarrels s (execOpenModule tag limit hbmBad lanesBad s) := by
  simp [execOpenModule]
@[simp] theorem closeWin_carrels (w code) : (closeWin s w code).carrels = s.carrels := by simp [closeWin]
@[simp] theorem execCloseWindow_keepsCarrels (tag) : KeepsCarrels s (execCloseWindow tag s) := by
  simp only [execCloseWindow]
  repeat' split
  all_goals simp

@[simp] theorem execMaintLimitExpiry_keepsCarrels : KeepsCarrels s (execMaintLimitExpiry s) := by
  unfold execMaintLimitExpiry
  split <;> simp

@[simp] theorem execLocalisationEnd_keepsCarrels (region) : KeepsCarrels s (execLocalisationEnd region s) := by
  unfold execLocalisationEnd
  split <;> simp

@[simp] theorem restartLocals_carrels (shelf c) : (restartLocals s shelf c).carrels = s.carrels := (rfl)
@[simp] theorem execFsrDeliver_keepsCarrels : KeepsCarrels s (execFsrDeliver s) := by
  unfold execFsrDeliver
  split <;> simp

@[simp] theorem execFsrRingEnable_keepsCarrels (value) : KeepsCarrels s (execFsrRingEnable value s) := by simp [execFsrRingEnable]

/-! ### Transactions -/

@[simp] theorem takeAck_carrels (n ack crVc credits) : (takeAck s n ack crVc credits).carrels = s.carrels := by simp [takeAck]
@[simp] theorem declareLost_carrels (n cause) : (declareLost s n cause).carrels = s.carrels := by simp [declareLost]
@[simp] theorem execPortTrain_keepsCarrels (port lanes) : KeepsCarrels s (execPortTrain port lanes s) := by simp [execPortTrain]
@[simp] theorem showPartner_carrels (n b) : (showPartner s n b).carrels = s.carrels := (rfl)
@[simp] theorem execTrain_keepsCarrels (port body) : KeepsCarrels s (execTrain port body s) := by simp [execTrain]
@[simp] theorem execRetrain_keepsCarrels (port) : KeepsCarrels s (execRetrain port s) := by simp [execRetrain]
@[simp] theorem execLaneFail_keepsCarrels (port lane) : KeepsCarrels s (execLaneFail port lane s) := by simp [execLaneFail]
@[simp] theorem execLaneLockLoss_keepsCarrels (port) : KeepsCarrels s (execLaneLockLoss port s) := by simp [execLaneLockLoss]
@[simp] theorem execKeepaliveSendTimer_keepsCarrels (port) : KeepsCarrels s (execKeepaliveSendTimer port s) := by simp [execKeepaliveSendTimer]
@[simp] theorem execKeepalive_keepsCarrels (port ack crVc credits) : KeepsCarrels s (execKeepalive port ack crVc credits s) := by simp [execKeepalive]
@[simp] theorem execKeepaliveLoss_keepsCarrels (port) : KeepsCarrels s (execKeepaliveLoss port s) := by simp [execKeepaliveLoss]
@[simp] theorem replay_carrels (n) : (replay s n).carrels = s.carrels := by simp [replay]
@[simp] theorem takeNack_carrels (n ack crVc credits) : (takeNack s n ack crVc credits).carrels = s.carrels := by simp [takeNack]
@[simp] theorem execNack_keepsCarrels (port ack crVc credits) : KeepsCarrels s (execNack port ack crVc credits s) := by simp [execNack]
@[simp] theorem execReplayTimeout_keepsCarrels (port) : KeepsCarrels s (execReplayTimeout port s) := by simp [execReplayTimeout]
@[simp] theorem execIdleFlit_keepsCarrels (port ack crVc credits) : KeepsCarrels s (execIdleFlit port ack crVc credits s) := by simp [execIdleFlit]
@[simp] theorem refuseTxn_carrels (n) : (refuseTxn s n).carrels = s.carrels := by simp [refuseTxn]
@[simp] theorem acceptFlit_carrels (n f) : (acceptFlit s n f).carrels = s.carrels := by simp [acceptFlit]
@[simp] theorem discardFlit_carrels (n) : (discardFlit s n).carrels = s.carrels := by simp [discardFlit]
@[simp] theorem execSequencedFlitReceive_keepsCarrels (port flit corrected uncorrectable) :
    KeepsCarrels s (execSequencedFlitReceive port flit corrected uncorrectable s) := by
  simp [execSequencedFlitReceive]
theorem onTxn_keepsCarrels (n vc kind) {f : State → Bytes → State} (hf : ∀ t b, (f t b).carrels = t.carrels) :
    KeepsCarrels s (onTxn s n vc kind f) := by
  simp only [onTxn, keepsCarrels_next]
  repeat' split
  all_goals simp [hf]

@[simp] theorem execTsxWrite_keepsCarrels (port) : KeepsCarrels s (execTsxWrite port s) := by
  refine onTxn_keepsCarrels _ _ _ _ fun t b => ?_
  dsimp only
  split <;> simp

@[simp] theorem execFrag_keepsCarrels (port) : KeepsCarrels s (execFrag port s) := onTxn_keepsCarrels _ _ _ _ fun t b => by simp
@[simp] theorem execReadReq_keepsCarrels (port) : KeepsCarrels s (execReadReq port s) := by
  refine onTxn_keepsCarrels _ _ _ _ fun t b => ?_
  dsimp only
  split <;> simp

@[simp] theorem execReadRsp_keepsCarrels (port) : KeepsCarrels s (execReadRsp port s) := onTxn_keepsCarrels _ _ _ _ fun t b => by simp
@[simp] theorem detectionHeard_carrels (port detail) : (detectionHeard s port detail).carrels = s.carrels := by
  simp only [detectionHeard]
  split <;> simp

@[simp] theorem execFaultMsg_keepsCarrels (port) : KeepsCarrels s (execFaultMsg port s) := by
  refine onMsg_keepsCarrels _ _ _ _ fun t m b => ?_
  split <;> simp

@[simp] theorem execSnapPeriodTimer_keepsCarrels (port) : KeepsCarrels s (execSnapPeriodTimer port s) := by simp [execSnapPeriodTimer]
@[simp] theorem execSnapReq_keepsCarrels (port) : KeepsCarrels s (execSnapReq port s) := onMsg_keepsCarrels _ _ _ _ fun t m b => by simp
@[simp] theorem execSnapRsp_keepsCarrels (port) : KeepsCarrels s (execSnapRsp port s) := by
  refine onMsg_keepsCarrels _ _ _ _ fun t m b => ?_
  dsimp only
  split <;> simp

/-! ### The register write command -/

@[simp] theorem disabledRecord_carrels (act hall how) : (disabledRecord s act hall how).carrels = s.carrels := by simp [disabledRecord]
@[simp] theorem portWritten_carrels (n old) : (portWritten s n old).carrels = s.carrels := by simp [portWritten]
@[simp] theorem afterWrite_carrels (old a) : (afterWrite old s a).carrels = s.carrels := by simp [afterWrite]
@[simp] theorem writeRegister_carrels (fn off width value) : (writeRegister s fn off width value).carrels = s.carrels := by
  unfold writeRegister
  repeat' split
  all_goals simp

@[simp] theorem execRegisterWrite_keepsCarrels (standby fn off width value) : KeepsCarrels s (execRegisterWrite standby fn off width value s) := by
  simp [execRegisterWrite]

/-! ### Binding -/

@[simp] theorem enablePorts_carrels : (enablePorts s).carrels = s.carrels := by simp [enablePorts]
@[simp] theorem takeRole_carrels : (takeRole s).carrels = s.carrels := by simp [takeRole]
@[simp] theorem takePorts_carrels : (takePorts s).carrels = s.carrels := by simp [takePorts]
@[simp] theorem loadCap_carrels : (loadCap s).carrels = s.carrels := (rfl)
@[simp] theorem loadCtrl_carrels : (loadCtrl s).carrels = s.carrels := by simp [loadCtrl]
@[simp] theorem rebindPower_carrels (old) : (rebindPower s old).carrels = s.carrels := by simp [rebindPower]
@[simp] theorem recordDeparted_carrels (old) : (recordDeparted s old).carrels = s.carrels := by
  refine foldl_carrels (fun t x => ?_) _ s
  split <;> simp

@[simp] theorem recordDisabled_carrels (old) : (recordDisabled s old).carrels = s.carrels := by simp [recordDisabled]
@[simp] theorem abandonMoved_carrels (old new r) : (abandonMoved s old new r).carrels = s.carrels := by
  refine foldl_carrels (fun t x => ?_) _ s
  split <;> simp

@[simp] theorem removeRegion_carrels (r) : (removeRegion s r).carrels = s.carrels := by simp [removeRegion]
@[simp] theorem strandRegion_carrels (old new r) : (strandRegion s old new r).carrels = s.carrels := by simp [strandRegion]
@[simp] theorem keepRegion_carrels (old new r) : (keepRegion s old new r).carrels = s.carrels := by simp [keepRegion]
@[simp] theorem rebindRegion_carrels (old r) : (rebindRegion old s r).carrels = s.carrels := by
  simp only [rebindRegion]
  split <;> simp

@[simp] theorem rebindRecipes_carrels (old) : (rebindRecipes s old).carrels = s.carrels := (rfl)
@[simp] theorem showBound_carrels : (showBound s).carrels = s.carrels := by simp [showBound]
@[simp] theorem applyLoans_carrels (op) : (applyLoans op s).carrels = s.carrels := by simp [applyLoans]

/-! ### Bring-up -/

@[simp] theorem settleRegions_carrels : (settleRegions s).carrels = s.carrels := by simp [settleRegions]
@[simp] theorem showFw_carrels : (showFw s).carrels = s.carrels := (rfl)
@[simp] theorem fwEvent_carrels (event slot svn) : (fwEvent s event slot svn).carrels = s.carrels := by simp [fwEvent]
@[simp] theorem bootFirmware_carrels : (bootFirmware s).carrels = s.carrels := by
  simp only [bootFirmware]
  split <;> simp

@[simp] theorem recordTrial_carrels (f cause) : (recordTrial s f cause).carrels = s.carrels := by simp [recordTrial]
@[simp] theorem showIdentity_carrels : (showIdentity s).carrels = s.carrels := (rfl)
@[simp] theorem startCurator_carrels (cause) : (startCurator cause s).carrels = s.carrels := by simp [startCurator]
@[simp] theorem startClocks_carrels : (startClocks s).carrels = s.carrels := (rfl)
@[simp] theorem failShelf_carrels (shelf) : (failShelf s shelf).carrels = s.carrels := by simp [failShelf]
@[simp] theorem startHalls_carrels (badShelves) : (startHalls badShelves s).carrels = s.carrels := by simp [startHalls]
@[simp] theorem showSig_carrels : (showSig s).carrels = s.carrels := (rfl)
@[simp] theorem bootRegion_carrels (r) : (bootRegion s r).carrels = s.carrels := by simp [bootRegion]
@[simp] theorem bindAtBoot_carrels : (bindAtBoot s).carrels = s.carrels := by
  simp only [bindAtBoot]
  split <;> simp

@[simp] theorem openIntake_carrels : (openIntake s).carrels = s.carrels := by simp [openIntake]
@[simp] theorem confirmTrial_carrels : (confirmTrial s).carrels = s.carrels := by simp [confirmTrial]
@[simp] theorem powered_carrels : (powered s).carrels = s.carrels := (rfl)

/-! ### Resets -/

@[simp] theorem putBit_carrels (f i b) : (putBit s f i b).carrels = s.carrels := (rfl)
@[simp] theorem poisonHall_carrels (h) : (poisonHall s h).carrels = s.carrels := (rfl)
@[simp] theorem resumeHall_carrels (h) : (resumeHall s h).carrels = s.carrels := by simp [resumeHall]
@[simp] theorem execHallRelockDone_keepsCarrels (hall) : KeepsCarrels s (execHallRelockDone hall s) := by simp [execHallRelockDone]
@[simp] theorem execStandbyReset_keepsCarrels : KeepsCarrels s (execStandbyReset s) := by simp [execStandbyReset]
@[simp] theorem dropConfig_carrels (p) : (dropConfig s p).carrels = s.carrels := (rfl)
@[simp] theorem putLink_carrels (b up) : (putLink s b up).carrels = s.carrels := (rfl)
@[simp] theorem haltStreams_carrels : (haltStreams s).carrels = s.carrels := by simp [haltStreams]
@[simp] theorem cancelAccessions_carrels : (cancelAccessions s).carrels = s.carrels := by simp [cancelAccessions]
@[simp] theorem routeBulk_carrels (pf1) : (routeBulk s pf1).carrels = s.carrels := by simp [routeBulk]
@[simp] theorem execPortLinkLoss_keepsCarrels (portB) : KeepsCarrels s (execPortLinkLoss portB s) := by simp [execPortLinkLoss]
@[simp] theorem execPortLinkUp_keepsCarrels (portB) : KeepsCarrels s (execPortLinkUp portB s) := by simp [execPortLinkUp]
@[simp] theorem execStandbyTakeover_keepsCarrels : KeepsCarrels s (execStandbyTakeover s) := by simp [execStandbyTakeover]
@[simp] theorem execBusMasteringChange_keepsCarrels (fn on) : KeepsCarrels s (execBusMasteringChange fn on s) := by simp [execBusMasteringChange]
@[simp] theorem freshenStream_carrels (c) : (freshenStream s c).carrels = s.carrels := (rfl)
@[simp] theorem clearScribes_carrels (c) : (clearScribes s c).carrels = s.carrels := by simp [clearScribes]
@[simp] theorem execFunctionLevelResetVf_keepsCarrels (carrel) : KeepsCarrels s (execFunctionLevelResetVf carrel s) := by
  simp [execFunctionLevelResetVf]
@[simp] theorem execFunctionLevelResetPf0_keepsCarrels : KeepsCarrels s (execFunctionLevelResetPf0 s) := by simp [execFunctionLevelResetPf0]
@[simp] theorem execFunctionLevelResetPf1_keepsCarrels : KeepsCarrels s (execFunctionLevelResetPf1 s) := by simp [execFunctionLevelResetPf1]
@[simp] theorem execFunctionLevelResetPf2_keepsCarrels : KeepsCarrels s (execFunctionLevelResetPf2 s) := by simp [execFunctionLevelResetPf2]

/-! ### Annals -/

@[simp] theorem flushAnnals_carrels : (flushAnnals s).carrels = s.carrels := by
  simp only [flushAnnals]
  split <;> simp

@[simp] theorem execAnnalsFlush_keepsCarrels (nandOk) : KeepsCarrels s (execAnnalsFlush nandOk s) := by simp [execAnnalsFlush]
@[simp] theorem execFlush_keepsCarrels (width value nandOk) : KeepsCarrels s (execFlush width value nandOk s) := by simp [execFlush]
@[simp] theorem execAnnalsRateSecond_keepsCarrels : KeepsCarrels s (execAnnalsRateSecond s) := by simp [execAnnalsRateSecond]
@[simp] theorem execAlertClear_keepsCarrels (width value) : KeepsCarrels s (execAlertClear width value s) := by simp [execAlertClear]

/-! ### The curator -/

@[simp] theorem modMbx_carrels (f) : (modMbx s f).carrels = s.carrels := (rfl)
@[simp] theorem respond_carrels (seq tag status body) : (respond s seq tag status body).carrels = s.carrels := by simp [respond]
@[simp] theorem takeRequest_carrels : (takeRequest s).carrels = s.carrels := by simp [takeRequest]
@[simp] theorem mbxArrive_carrels (off bytes) : (mbxArrive s off bytes).carrels = s.carrels := by simp [mbxArrive]
@[simp] theorem execMailboxBlockWrite_keepsCarrels (standby off bytes) : KeepsCarrels s (execMailboxBlockWrite standby off bytes s) := by
  simp [execMailboxBlockWrite]
@[simp] theorem execIdentity_keepsCarrels : KeepsCarrels s (execIdentity s) := by
  unfold execIdentity
  split <;> simp

@[simp] theorem execAttest_keepsCarrels (nandOk) : KeepsCarrels s (execAttest nandOk s) := by
  unfold execAttest
  rw [keepsCarrels_next]
  split
  · rfl
  · dsimp only
    repeat' split
    · exact respond_carrels ..
    · exact respond_carrels ..
    · exact respond_carrels ..
    all_goals exact (respond_carrels ..).trans ((annal_carrels ..).trans ((showSig_carrels ..).trans rfl))

@[simp] theorem execAttestTokenRefill_keepsCarrels : KeepsCarrels s (execAttestTokenRefill s) := by simp [execAttestTokenRefill]
@[simp] theorem execAnnalsExport_keepsCarrels : KeepsCarrels s (execAnnalsExport s) := by
  simp only [execAnnalsExport]
  repeat' split
  all_goals simp

@[simp] theorem execAnnalsNote_keepsCarrels : KeepsCarrels s (execAnnalsNote s) := by
  simp only [execAnnalsNote]
  repeat' split
  all_goals simp

@[simp] theorem modFw_carrels (f) : (modFw s f).carrels = s.carrels := (rfl)
@[simp] theorem execFwStage_keepsCarrels (f nandOk) : KeepsCarrels s (execFwStage f nandOk s) := by
  unfold execFwStage
  repeat' split
  all_goals simp

@[simp] theorem selectOther_carrels (r trial nandOk) : (selectOther s r trial nandOk).carrels = s.carrels := by
  unfold selectOther
  split <;> simp

@[simp] theorem execFwActivate_keepsCarrels (nandOk) : KeepsCarrels s (execFwActivate nandOk s) := by
  unfold execFwActivate
  split <;> simp

@[simp] theorem execFwRevert_keepsCarrels (nandOk) : KeepsCarrels s (execFwRevert nandOk s) := by
  unfold execFwRevert
  split <;> simp

@[simp] theorem execFwRaiseFloor_keepsCarrels (nandOk) : KeepsCarrels s (execFwRaiseFloor nandOk s) := by
  unfold execFwRaiseFloor
  repeat' split
  all_goals simp

@[simp] theorem loseAnnals_carrels : (loseAnnals s).carrels = s.carrels := (rfl)
@[simp] theorem restartCurator_carrels : (restartCurator s).carrels = s.carrels := by
  unfold restartCurator
  split <;> simp

/-! ### Register reads -/

@[simp] theorem captureEntry_carrels (a) : (captureEntry s a).carrels = s.carrels := by simp [captureEntry]
@[simp] theorem clearRead_carrels (a lo hi fs) : (clearRead s a lo hi fs).carrels = s.carrels := (rfl)
@[simp] theorem readRegister_carrels (standby found a lo width) : (readRegister s standby found a lo width).2.carrels = s.carrels := by
  unfold readRegister
  split <;> simp

@[simp] theorem barRead_carrels (standby fn off width found) : (barRead s standby fn off width found).2.carrels = s.carrels := by
  unfold barRead
  repeat' split
  all_goals simp

@[simp] theorem answerRead_carrels (fn off b) : (answerRead s fn off b).carrels = s.carrels := (rfl)
@[simp] theorem serveRead_carrels (standby fn off width found) : (serveRead s standby fn off width found).carrels = s.carrels := by simp [serveRead]

/-! ### Power states -/

@[simp] theorem beginWake_carrels (src) : (beginWake s src).carrels = s.carrels := (rfl)
@[simp] theorem wake_carrels (src d) : (wake s src d).carrels = s.carrels := by simp [wake]
@[simp] theorem execWakeEvent_keepsCarrels (src standby fn off width) : KeepsCarrels s (execWakeEvent src standby fn off width s) := by
  simp [execWakeEvent]
@[simp] theorem releaseWrite_carrels (w) : (releaseWrite s w).carrels = s.carrels := by
  unfold releaseWrite
  repeat' split
  all_goals simp

@[simp] theorem releaseHeld_carrels (d) : (releaseHeld s d).carrels = s.carrels := by simp [releaseHeld]
@[simp] theorem startPorts_carrels (h) : (startPorts s h).carrels = s.carrels := by simp [startPorts]
@[simp] theorem domainUp_carrels (d) : (domainUp s d).carrels = s.carrels := by simp [domainUp]
@[simp] theorem execWakeDomainReady_keepsCarrels (domain) : KeepsCarrels s (execWakeDomainReady domain s) := by simp [execWakeDomainReady]
@[simp] theorem execReadHoldExpiry_keepsCarrels : KeepsCarrels s (execReadHoldExpiry s) := by
  unfold execReadHoldExpiry
  split <;> simp

@[simp] theorem wakeFromOff_carrels (src) : (wakeFromOff s src).carrels = s.carrels := by simp [wakeFromOff]
@[simp] theorem execSidebandAddressMatch_keepsCarrels (addr) : KeepsCarrels s (execSidebandAddressMatch addr s) := by simp [execSidebandAddressMatch]
@[simp] theorem execWakeNAssert_keepsCarrels : KeepsCarrels s (execWakeNAssert s) := by simp [execWakeNAssert]
@[simp] theorem execIdleEntry_keepsCarrels : KeepsCarrels s (execIdleEntry s) := by simp [execIdleEntry]
@[simp] theorem entryCurator_carrels (off nandOk) : (entryCurator off nandOk s).carrels = s.carrels := by simp [entryCurator]
@[simp] theorem entryHalls_carrels (deep) : (entryHalls deep s).carrels = s.carrels := by simp [entryHalls]
@[simp] theorem atDepth_carrels (depth) : (atDepth depth s).carrels = s.carrels := (rfl)
@[simp] theorem backToRun_carrels (src off s0) : (backToRun src off s0).carrels = s0.carrels := by simp [backToRun]

/-! ### Monitors -/

@[simp] theorem modConv_carrels (die f) : (modConv s die f).carrels = s.carrels := (rfl)
@[simp] theorem startSlot_carrels (die slot set) : (startSlot s die slot set).carrels = s.carrels := (rfl)
@[simp] theorem execMonitorTrigger_keepsCarrels (die slot stopped) : KeepsCarrels s (execMonitorTrigger die slot stopped s) := by
  simp [execMonitorTrigger]
@[simp] theorem windowEvent_carrels (die slot code scaled) : (windowEvent s die slot code scaled).carrels = s.carrels := by simp [windowEvent]
@[simp] theorem refFailure_carrels (die code) : (refFailure s die code).carrels = s.carrels := by simp [refFailure]
@[simp] theorem putResult_carrels (die slot input code scaled fallback) : (putResult s die slot input code scaled fallback).carrels = s.carrels := (rfl)
@[simp] theorem compareResult_carrels (die slot code scaled set window) : (compareResult s die slot code scaled set window).carrels = s.carrels := by
  simp [compareResult]
@[simp] theorem serveNext_carrels (die) : (serveNext s die).carrels = s.carrels := by
  simp only [serveNext]
  split <;> simp

@[simp] theorem execMonitorResult_keepsCarrels (die slot x) : KeepsCarrels s (execMonitorResult die slot x s) := by
  simp only [execMonitorResult]
  repeat' split
  all_goals simp

/-! ### Flags -/

@[simp] theorem flagPass_carrels (region bit) : (flagPass s region bit).carrels = s.carrels := (rfl)
@[simp] theorem countBlocks_carrels (h nz sat nan) : (countBlocks s h nz sat nan).carrels = s.carrels := (rfl)
@[simp] theorem countIntSat_carrels (h n) : (countIntSat s h n).carrels = s.carrels := (rfl)
@[simp] theorem flagBlocks_carrels (region nz sat) : (flagBlocks s region nz sat).carrels = s.carrels := by simp [flagBlocks]

/-! ### Scribe instructions -/

@[simp] theorem execNop_keepsCarrels (shelf) : KeepsCarrels s (execNop shelf s) := runInsn_keepsCarrels _ (fun i t => by simp) shelf
@[simp] theorem execHalt_keepsCarrels (shelf) : KeepsCarrels s (execHalt shelf s) :=
  runInsn_keepsCarrels _ (fun i t => by split <;> simp) shelf

@[simp] theorem execLdx_keepsCarrels (shelf) : KeepsCarrels s (execLdx shelf s) := runInsn_keepsCarrels _ (fun i t => by simp) shelf
@[simp] theorem execAddx_keepsCarrels (shelf) : KeepsCarrels s (execAddx shelf s) := runInsn_keepsCarrels _ (fun i t => by simp) shelf
@[simp] theorem loopBody_keepsCarrels (i) : DidKeepsCarrels s (loopBody i s) := by
  unfold loopBody
  dsimp only
  generalize (i.x i.w.dst + 2 ^ 32 - 1) % 2 ^ 32 = v
  repeat' split
  all_goals simp

@[simp] theorem execLoopX_keepsCarrels (shelf) : KeepsCarrels s (execLoopX shelf s) := runInsn_keepsCarrels _ (fun i t => by simp) shelf
@[simp] theorem mmaBody_keepsCarrels (i) : DidKeepsCarrels s (mmaBody i s) := by
  simp only [mmaBody]
  split <;> simp

@[simp] theorem execMma_keepsCarrels (shelf) : KeepsCarrels s (execMma shelf s) := runInsn_keepsCarrels _ (fun i t => by simp) shelf
@[simp] theorem binaryBody_keepsCarrels (op i) : DidKeepsCarrels s (binaryBody op i s) := by simp [binaryBody]
@[simp] theorem unaryBody_keepsCarrels (op i) : DidKeepsCarrels s (unaryBody op i s) := by simp [unaryBody]
@[simp] theorem execVadd_keepsCarrels (shelf) : KeepsCarrels s (execVadd shelf s) := runInsn_keepsCarrels _ (fun i t => by simp) shelf
@[simp] theorem execVsub_keepsCarrels (shelf) : KeepsCarrels s (execVsub shelf s) := runInsn_keepsCarrels _ (fun i t => by simp) shelf
@[simp] theorem vmulBody_keepsCarrels (i) : DidKeepsCarrels s (vmulBody i s) := by simp [vmulBody]
@[simp] theorem execVmul_keepsCarrels (shelf) : KeepsCarrels s (execVmul shelf s) := runInsn_keepsCarrels _ (fun i t => by simp) shelf
@[simp] theorem execVexp_keepsCarrels (shelf) : KeepsCarrels s (execVexp shelf s) := runInsn_keepsCarrels _ (fun i t => by simp) shelf
@[simp] theorem execVrcp_keepsCarrels (shelf) : KeepsCarrels s (execVrcp shelf s) := runInsn_keepsCarrels _ (fun i t => by simp) shelf
@[simp] theorem execVrsq_keepsCarrels (shelf) : KeepsCarrels s (execVrsq shelf s) := runInsn_keepsCarrels _ (fun i t => by simp) shelf
@[simp] theorem execVmax_keepsCarrels (shelf) : KeepsCarrels s (execVmax shelf s) := runInsn_keepsCarrels _ (fun i t => by simp) shelf
@[simp] theorem selectBody_keepsCarrels (gt i) : DidKeepsCarrels s (selectBody gt i s) := by simp [selectBody]
@[simp] theorem execVmaxi_keepsCarrels (shelf) : KeepsCarrels s (execVmaxi shelf s) := runInsn_keepsCarrels _ (fun i t => by simp) shelf
@[simp] theorem execVmini_keepsCarrels (shelf) : KeepsCarrels s (execVmini shelf s) := runInsn_keepsCarrels _ (fun i t => by simp) shelf
@[simp] theorem vsumBody_keepsCarrels (i) : DidKeepsCarrels s (vsumBody i s) := by simp [vsumBody]
@[simp] theorem execVsum_keepsCarrels (shelf) : KeepsCarrels s (execVsum shelf s) := runInsn_keepsCarrels _ (fun i t => by simp) shelf
@[simp] theorem ldtBody_keepsCarrels (i) : DidKeepsCarrels s (ldtBody i s) := by
  simp only [ldtBody]
  split <;> simp

@[simp] theorem execLdt_keepsCarrels (shelf) : KeepsCarrels s (execLdt shelf s) := runInsn_keepsCarrels _ (fun i t => by simp) shelf
@[simp] theorem sttBody_keepsCarrels (i) : DidKeepsCarrels s (sttBody i s) := by simp [sttBody]
@[simp] theorem execStt_keepsCarrels (shelf) : KeepsCarrels s (execStt shelf s) := runInsn_keepsCarrels _ (fun i t => by simp) shelf
@[simp] theorem startTransfer_keepsCarrels (i t) : DidKeepsCarrels s (startTransfer s i t) := by simp [startTransfer]
@[simp] theorem gatherBody_keepsCarrels (i) : DidKeepsCarrels s (gatherBody i s) := by
  simp only [gatherBody]
  repeat' split
  all_goals simp

@[simp] theorem execGather_keepsCarrels (shelf) : KeepsCarrels s (execGather shelf s) := runInsn_keepsCarrels _ (fun i t => by simp) shelf
@[simp] theorem scatterBody_keepsCarrels (i) : DidKeepsCarrels s (scatterBody i s) := by
  simp only [scatterBody]
  repeat' split
  all_goals simp

@[simp] theorem execScatter_keepsCarrels (shelf) : KeepsCarrels s (execScatter shelf s) := runInsn_keepsCarrels _ (fun i t => by simp) shelf
@[simp] theorem programEvent_carrels (shelf j a tol fails) : (programEvent s shelf j a tol fails).carrels = s.carrels := by simp [programEvent]
@[simp] theorem checkEvent_carrels (shelf j a b tol) : (checkEvent s shelf j a b tol).carrels = s.carrels := by
  unfold checkEvent
  split <;> simp

@[simp] theorem checkBody_keepsCarrels (i) : DidKeepsCarrels s (checkBody i s) := by simp [checkBody]
@[simp] theorem execCheckTile_keepsCarrels (shelf) : KeepsCarrels s (execCheckTile shelf s) := runInsn_keepsCarrels _ (fun i t => by simp) shelf
@[simp] theorem normwBody_keepsCarrels (i) : DidKeepsCarrels s (normwBody i s) := by simp [normwBody]
@[simp] theorem execNormw_keepsCarrels (shelf) : KeepsCarrels s (execNormw shelf s) := runInsn_keepsCarrels _ (fun i t => by simp) shelf
@[simp] theorem selectLocal_keepsCarrels (i) : DidKeepsCarrels s (selectLocal i s) := by simp [selectLocal]
@[simp] theorem execSampleSelect_keepsCarrels (shelf) : KeepsCarrels s (execSampleSelect shelf s) := runInsn_keepsCarrels _ (fun i t => by simp) shelf
@[simp] theorem drawFor_carrels (region h) : (drawFor s region h).carrels = s.carrels := by
  unfold drawFor
  repeat' split
  all_goals simp

@[simp] theorem drawBody_keepsCarrels (i) : DidKeepsCarrels s (drawBody i s) := by
  simp only [drawBody]
  repeat' split
  all_goals simp

@[simp] theorem execSampleDraw_keepsCarrels (shelf) : KeepsCarrels s (execSampleDraw shelf s) := runInsn_keepsCarrels _ (fun i t => by simp) shelf
@[simp] theorem execOutlierMinute_keepsCarrels : KeepsCarrels s (execOutlierMinute s) := by simp [execOutlierMinute]

/-! ### Pass boundaries -/

@[simp] theorem readyCheck_carrels (c rows) : (readyCheck s c rows).carrels = s.carrels := by simp [readyCheck]
@[simp] theorem sampleShelf_carrels (p shelf n) : (sampleShelf s p shelf n).carrels = s.carrels := by
  simp only [sampleShelf]
  repeat' split
  all_goals simp

@[simp] theorem sampleChecks_carrels (p) : (sampleChecks s p).carrels = s.carrels := by simp [sampleChecks]
@[simp] theorem detectN_carrels (p st bit ratio) : (detectN s p st bit ratio).carrels = s.carrels := by simp [detectN]
@[simp] theorem watchStage_carrels (p st) : (watchStage s p st).carrels = s.carrels := by
  simp only [watchStage]
  repeat' split
  all_goals simp

@[simp] theorem watchNorms_carrels (p) : (watchNorms s p).carrels = s.carrels := by simp [watchNorms]
@[simp] theorem passLocals_carrels (p) : (passLocals s p).carrels = s.carrels := (rfl)
@[simp] theorem settleSession_carrels (p h res) : (settleSession s p h res).carrels = s.carrels := by
  unfold settleSession
  split <;> simp

@[simp] theorem passEntries_carrels (p rs) : (passEntries s p rs).carrels = s.carrels := by
  refine (foldl_carrels (fun t x => ?_) _ _).trans (by simp)
  split <;> simp

@[simp] theorem shareDone_carrels (p rs) : (shareDone s p rs).carrels = s.carrels := by
  simp only [shareDone]
  split <;> simp

@[simp] theorem dropLoans_carrels (p) : (dropLoans s p).carrels = s.carrels := (rfl)
@[simp] theorem recipesNow_carrels (r) : (recipesNow s r).carrels = s.carrels := (rfl)
@[simp] theorem loseArchive_carrels (r) : (loseArchive s r).carrels = s.carrels := (rfl)
@[simp] theorem flipAll_carrels (r) : (flipAll s r).carrels = s.carrels := by simp [flipAll]
@[simp] theorem windowsNow_carrels (r) : (windowsNow s r).carrels = s.carrels := by simp [windowsNow]
@[simp] theorem boundaryChanges_carrels (r) : (boundaryChanges s r).carrels = s.carrels := by simp [boundaryChanges]
@[simp] theorem boundaryEvents_carrels (r flipped) : (boundaryEvents s r flipped).carrels = s.carrels := by simp [boundaryEvents]
@[simp] theorem execCommitRecordsDurable_keepsCarrels (region nandOk colophonOk) : KeepsCarrels s (execCommitRecordsDurable region nandOk colophonOk s) := by
  simp only [execCommitRecordsDurable]
  repeat' split
  all_goals simp

end Sys2Proof.Machine
end
end

section
/-!
PROOFS. Pass numbers never repeat (R17, R403): what the six operations that write the carrels' table do to its numbers, the commands that reach
one of them, and so every step.
-/
section
open Sys2Proof Sys2Proof.Machine
namespace Sys2Proof.Machine

/-! ### What happens to the numbers of a table -/

/-- A table whose every entry changes reads the change, where the reset contents stay. -/
theorem sget_smapAll {α : Type} [DecidableEq α] {d : Nat → α} {m : Sparse α} {f : Nat → α → α} (hf : ∀ i, f i (d i) = d i) (h : swf d m = true)
    (i : Nat) : sget d (smapAll d m f) i = f i (sget d m i) := by
  have above : ∀ b, swfFrom d b m = true → sget d (smapAll d m f) i = f i (sget d m i) := by
    clear h
    induction m with
    | nil => intro _ _; exact (hf i).symm
    | cons e m ih =>
      obtain ⟨k, v⟩ := e
      intro b hb
      simp only [swfFrom, Bool.and_eq_true, decide_eq_true_eq] at hb
      have hlow : i ≤ k → sget d (smapAll d m f) i = d i := fun hi => by rw [ih _ hb.2, sget_below hb.2 hi, hf]
      simp only [smapAll] at hlow ih ⊢
      simp only [List.map_cons, List.filter_cons, sget]
      split
      · simp only [sget]
        split
        · subst i; rfl
        · split
          · exact (hf i).symm
          · exact ih _ hb.2
      · next hkept =>
        split
        · subst i
          rw [hlow (Nat.le_refl _)]
          exact (show f k v = d k by simpa using hkept).symm
        · split
          · rw [hlow (by omega), hf]
          · exact ih _ hb.2
  exact above none h

/-- A carrel's next pass number is at least 1 and below its reserved limit (R17). -/
def CarrelState.Ahead (c : CarrelState) : Prop := 1 ≤ c.nextPass ∧ c.nextPass < c.limit

/-- Neither number of a carrel goes back. -/
def CarrelState.Rises (c c' : CarrelState) : Prop := c.nextPass ≤ c'.nextPass ∧ c.limit ≤ c'.limit

/-- Every carrel of a table in its canonical form is ahead. -/
def NumbersAhead (m : Sparse CarrelState) : Prop :=
  swf (fun _ => freshCarrel) m = true ∧ ∀ n, (sget (fun _ => freshCarrel) m n).Ahead

/-- From one table to another every carrel stays ahead, and no number goes back. -/
def NumbersRise (m m' : Sparse CarrelState) : Prop :=
  NumbersAhead m → NumbersAhead m' ∧ ∀ n, (sget (fun _ => freshCarrel) m n).Rises (sget (fun _ => freshCarrel) m' n)

@[simp] theorem NumbersRise.refl (m : Sparse CarrelState) : NumbersRise m m := fun h => ⟨h, fun _ => ⟨Nat.le_refl _, Nat.le_refl _⟩⟩

@[simp] theorem numbersRise_ite (m : Sparse CarrelState) (c : Prop) [Decidable c] (m' m'' : Sparse CarrelState) :
    NumbersRise m (if c then m' else m'') ↔ if c then NumbersRise m m' else NumbersRise m m'' := by
  split <;> rfl

theorem NumbersRise.trans {m m' m'' : Sparse CarrelState} (h : NumbersRise m m') (h' : NumbersRise m' m'') : NumbersRise m m'' := by
  intro hm
  obtain ⟨hm', hrise⟩ := h hm
  obtain ⟨hm'', hrise'⟩ := h' hm'
  exact ⟨hm'', fun n => ⟨(hrise n).1.trans (hrise' n).1, (hrise n).2.trans (hrise' n).2⟩⟩

/-- A change of one carrel that keeps it ahead and takes nothing back. -/
theorem NumbersRise.smod {m m' : Sparse CarrelState} (h : NumbersRise m m') {n : Nat} {f : CarrelState → CarrelState}
    (hf : ∀ c, c = sget (fun _ => freshCarrel) m' n → c.Ahead → (f c).Ahead ∧ c.Rises (f c)) : NumbersRise m (smod (fun _ => freshCarrel) m' n f) := by
  refine h.trans fun ⟨hok, hahead⟩ => ?_
  have hget : ∀ k, (sget (fun _ => freshCarrel) (Sys2Proof.Machine.smod (fun _ => freshCarrel) m' n f) k).Ahead ∧
      (sget (fun _ => freshCarrel) m' k).Rises (sget (fun _ => freshCarrel) (Sys2Proof.Machine.smod (fun _ => freshCarrel) m' n f) k) := by
    intro k
    by_cases hk : k = n
    · subst hk; rw [sget_smod_same f hok]; exact hf _ rfl (hahead k)
    · rw [sget_smod_ne f hok hk]; exact ⟨hahead k, Nat.le_refl _, Nat.le_refl _⟩
  exact ⟨⟨smod_swf n f hok, fun k => (hget k).1⟩, fun k => (hget k).2⟩

/-- A change of every carrel that keeps each ahead, takes nothing back and leaves a fresh carrel fresh. -/
theorem NumbersRise.smapAll {m m' : Sparse CarrelState} (h : NumbersRise m m') {f : CarrelState → CarrelState} (hfresh : f freshCarrel = freshCarrel)
    (hf : ∀ c, c.Ahead → (f c).Ahead ∧ c.Rises (f c)) : NumbersRise m (smapAll (fun _ => freshCarrel) m' fun _ => f) := by
  refine h.trans fun ⟨hok, hahead⟩ => ?_
  have hget := sget_smapAll (f := fun _ => f) (fun _ => hfresh) hok
  exact ⟨⟨smapAll_swf _ hok, fun n => by rw [hget]; exact (hf _ (hahead n)).1⟩, fun n => by rw [hget]; exact (hf _ (hahead n)).2⟩

/-- A walk each step of which only raises numbers. -/
theorem foldl_numbersRise {α : Type} {f : State → α → State} {m : Sparse CarrelState}
    (hf : ∀ t x, NumbersRise m t.carrels → NumbersRise m (f t x).carrels) {l : List α} {s : State} (h : NumbersRise m s.carrels) :
    NumbersRise m (l.foldl f s).carrels := by
  induction l generalizing s with
  | nil => exact h
  | cons x xs ih => exact ih (hf _ _ h)

/-- An outcome in which every carrel that was ahead is ahead, and no number has gone back. -/
def RaisesNumbers (s : State) (o : Out) : Prop := ∀ t, o = .next t → NumbersRise s.carrels t.carrels

theorem raisesNumbers_next {s t : State} (h : NumbersRise s.carrels t.carrels) : RaisesNumbers s (.next t) := fun _ hu => by cases hu; exact h

theorem KeepsCarrels.raisesNumbers {s : State} {o : Out} (h : KeepsCarrels s o) : RaisesNumbers s o := fun t ht => by
  rw [h t ht]
  exact .refl _

/-! ### The commands that change it -/

variable {m : Sparse CarrelState} {s : State}

theorem modCarrel_carrels (n : Nat) (f : CarrelState → CarrelState) : (modCarrel s n f).carrels = smod (fun _ => freshCarrel) s.carrels n f := (rfl)

/-- A change of what is not a number. -/
theorem modCarrel_numbersRise (h : NumbersRise m s.carrels) {n : Nat} {f : CarrelState → CarrelState}
    (hf : ∀ c, (f c).nextPass = c.nextPass ∧ (f c).limit = c.limit) : NumbersRise m (modCarrel s n f).carrels :=
  NumbersRise.smod h fun c _ hc => by simpa [CarrelState.Ahead, CarrelState.Rises, hf c] using hc

/-- R403: the limit moves on before the number reaches it. -/
@[simp] theorem takeNumber_numbersRise (h : NumbersRise m s.carrels) (c : Nat) : NumbersRise m (takeNumber s c).2.carrels := by
  simp only [takeNumber, fset_carrels, modCarrel_carrels]
  refine NumbersRise.smod h fun x hx hahead => ?_
  have hnext : x.nextPass = (carrelSt s c).nextPass := congrArg _ hx
  obtain ⟨hpos, hlt⟩ := hahead
  simp only [CarrelState.Ahead, CarrelState.Rises, ← hnext]
  split <;> omega

@[simp] theorem launch_numbersRise (h : NumbersRise m s.carrels) (k r hs) : NumbersRise m (launch s k r hs).carrels := by
  simp [launch, h]

theorem rebindCarrel_numbersRise (h : NumbersRise m s.carrels) (old n) : NumbersRise m (rebindCarrel old s n).carrels := by
  simp only [rebindCarrel]
  split
  · exact h
  · split
    · rw [mk_carrels, modStream_carrels]
      exact modCarrel_numbersRise h fun _ => ⟨rfl, rfl⟩
    · exact modCarrel_numbersRise h fun _ => ⟨rfl, rfl⟩

@[simp] theorem commitBind_numbersRise (h : NumbersRise m s.carrels) (op) : NumbersRise m (commitBind op s).carrels := by
  have hcarrels : ∀ t : State, NumbersRise m t.carrels → NumbersRise m ((List.range 1024).foldl (rebindCarrel s.img.bound) t).carrels := fun t ht =>
    foldl_numbersRise (fun u n hu => rebindCarrel_numbersRise hu _ n) ht
  simp [commitBind, hcarrels, h]

/-- R403: the numbers are in the NAND store, which outlasts every reset. -/
@[simp] theorem loseAll_numbersRise (h : NumbersRise m s.carrels) : NumbersRise m (loseAll s).carrels := by
  have hs : NumbersRise m (settleRegions s).carrels := by simpa using h
  exact NumbersRise.smapAll hs rfl fun _ hc => ⟨hc, Nat.le_refl _, Nat.le_refl _⟩

@[simp] theorem deviceResetTo_numbersRise (h : NumbersRise m s.carrels) (cause) : NumbersRise m (deviceResetTo cause s).carrels := by
  simp [deviceResetTo, h]

@[simp] theorem enterOff_numbersRise (h : NumbersRise m s.carrels) (cause) : NumbersRise m (enterOff cause s).carrels := by
  simp [enterOff, h]

/-- R17, R403: at a boot a carrel that has begun a pass goes on from its limit. -/
@[simp] theorem loadStore_numbersRise (h : NumbersRise m s.carrels) : NumbersRise m (loadStore s).carrels := by
  rw [loadStore, rset_carrels, showSig_carrels]
  refine NumbersRise.smapAll h rfl fun c hc => ?_
  obtain ⟨hpos, hlt⟩ := hc
  simp only [resumeNumbers, CarrelState.Ahead, CarrelState.Rises]
  split
  · omega
  · dsimp only
    omega

@[simp] theorem bringUp_numbersRise (h : NumbersRise m s.carrels) (ms badShelves selfTest) : NumbersRise m (bringUp ms badShelves selfTest s).carrels := by
  unfold bringUp
  dsimp only
  repeat' split
  all_goals simp [h]

@[simp] theorem endPass_numbersRise (h : NumbersRise m s.carrels) (p obs) : NumbersRise m (endPass s p obs).carrels := by
  have hentry : ∀ t : State, NumbersRise m t.carrels → NumbersRise m (modCarrel t p.stream fun c => { c with oldEntry := none }).carrels := fun t ht =>
    modCarrel_numbersRise ht fun _ => ⟨rfl, rfl⟩
  simp [endPass, h, hentry]

@[simp] theorem inputLost_numbersRise (h : NumbersRise m s.carrels) : NumbersRise m (inputLost s).carrels := by
  simp [inputLost, h]

@[simp] theorem enterLow_numbersRise (h : NumbersRise m s.carrels) (depth nandOk woken) : NumbersRise m (enterLow depth nandOk woken s).carrels := by
  unfold enterLow
  split <;> simp [h]

@[simp] theorem powerRequest_numbersRise (h : NumbersRise m s.carrels) (depth nandOk woken) :
    NumbersRise m (powerRequest depth nandOk woken s).carrels := by
  simp [powerRequest, h]

theorem execPriorityChange_raisesNumbers (stream seq) : RaisesNumbers s (execPriorityChange stream seq s) := by
  refine raisesNumbers_next ?_
  split
  · exact .refl _
  · rw [finish_carrels]
    exact modCarrel_numbersRise (.refl _) fun _ => ⟨rfl, rfl⟩

theorem execPassDispatch_raisesNumbers (stream seq) : RaisesNumbers s (execPassDispatch stream seq s) := by
  refine raisesNumbers_next ?_
  split
  · simp
  · dsimp only
    repeat' split
    all_goals simp

theorem execBindQuiesceDone_raisesNumbers (verifyOk nandOk) : RaisesNumbers s (execBindQuiesceDone verifyOk nandOk s) := by
  refine raisesNumbers_next ?_
  repeat' split
  all_goals simp

theorem execPassBoundary_raisesNumbers (region obs) : RaisesNumbers s (execPassBoundary region obs s) := by
  refine raisesNumbers_next ?_
  repeat' split
  all_goals simp

/-- Four commands reach the table in their own way and fifteen through a boot or a reset; the others leave it. -/
theorem exec_raisesNumbers (c : Instr) : RaisesNumbers s (exec c s) := by
  cases c
  case priorityChange stream seq => exact execPriorityChange_raisesNumbers stream seq
  case passDispatch stream seq => exact execPassDispatch_raisesNumbers stream seq
  case bindQuiesceDone verifyOk nandOk => exact execBindQuiesceDone_raisesNumbers verifyOk nandOk
  case passBoundary region obs => exact execPassBoundary_raisesNumbers region obs
  case powerOnBoot | trialConfirmTimeout | deviceReset | sidebandReset | thermalTrip | tripHoldRelease | pllLockLoss | v44Undervoltage |
      v44Overvoltage | standbyLoss | watchdogExpiry | sleep | deepSleep | powerOff | autoSleep =>
    exact raisesNumbers_next (by simp)
  all_goals exact KeepsCarrels.raisesNumbers (by simp [exec])

theorem step_raisesNumbers : RaisesNumbers s (step s) := by
  unfold step
  split
  · exact raisesNumbers_next (by simp)
  · next c rest _ => simpa [RaisesNumbers] using exec_raisesNumbers (s := { s with pending := rest }) c

/-- Settles O58: a step raises numbers (`step_raisesNumbers`), for only a few commands write the carrels' table, and each of these moves a
number to at most its limit and a limit on. -/
theorem passNumbersNeverRepeat : Obligations.PassNumbersNeverRepeat := by
  refine ⟨⟨rfl, fun _ => show 1 ≤ freshCarrel.nextPass ∧ freshCarrel.nextPass < freshCarrel.limit by decide⟩, fun s t hs hstep => ?_⟩
  have hrise : NumbersRise s.carrels t.carrels := step_raisesNumbers t hstep
  exact hrise hs

end Sys2Proof.Machine
end
end

section
/-!
PROOFS. What a region's boundary leaves of the bound image (R16): all of it. The changes that wait for the boundary write folios, gains,
windows, tiles, programs and the recipes in force, and the image they are read from stays: one lemma per operation, in the model's order.
-/
section
open Sys2Proof Sys2Proof.Machine
namespace Sys2Proof.Machine

/-- The bound image. It is a name of its own so that `simp` carries it through a state's updates. -/
def State.boundImage (s : State) : Image := s.img.bound

/-- A change of the other components leaves the image. -/
@[simp] theorem mk_bound (u : State) (a0 a1 a2 a3 a5 a6 a7 a8 a9 a10 a11 a12 a13 a14 a15 a16 a17 a18 a19 a20 a21) :
    (State.mk a0 a1 a2 a3 u.img a5 a6 a7 a8 a9 a10 a11 a12 a13 a14 a15 a16 a17 a18 a19 a20 a21).boundImage = u.boundImage := (rfl)

@[simp] theorem ite_bound (c : Prop) [Decidable c] (t u : State) : (if c then t else u).boundImage = if c then t.boundImage else u.boundImage :=
  apply_ite State.boundImage c t u

/-- A walk whose every step leaves the image. -/
@[simp] theorem foldl_bound {α : Type} {f : State → α → State} (h : ∀ s x, (f s x).boundImage = s.boundImage) (l : List α) (s : State) :
    (l.foldl f s).boundImage = s.boundImage := by
  induction l generalizing s with
  | nil => rfl
  | cons x xs ih => rw [List.foldl_cons, ih, h]

variable (s : State)

@[simp] theorem rset_bound (a v) : (rset s a v).boundImage = s.boundImage := (rfl)
@[simp] theorem fset_bound (f x) : (fset s f x).boundImage = s.boundImage := (rfl)
@[simp] theorem fbump_bound (f n) : (fbump s f n).boundImage = s.boundImage := (rfl)
@[simp] theorem writeRec_bound (kind sev obj a0 a1 a2) : (writeRec s kind sev obj a0 a1 a2).boundImage = s.boundImage := by simp [writeRec]
@[simp] theorem annal_bound (kind sev obj a0 a1 a2) : (annal s kind sev obj a0 a1 a2).boundImage = s.boundImage := by simp [annal]
@[simp] theorem dmaWrite_bound (fn addr bytes) : (dmaWrite s fn addr bytes).boundImage = s.boundImage := by simp [dmaWrite]
@[simp] theorem modCmd_bound (c seq f) : (modCmd s c seq f).boundImage = s.boundImage := (rfl)
@[simp] theorem finish_bound (c seq status value) : (finish s c seq status value).boundImage = s.boundImage := (rfl)
@[simp] theorem modAcc_bound (r f) : (modAcc s r f).boundImage = s.boundImage := (rfl)
@[simp] theorem reloadPrograms_bound (r) : (reloadPrograms s r).boundImage = s.boundImage := (rfl)
@[simp] theorem modFolio_bound (k f) : (modFolio s k f).boundImage = s.boundImage := (rfl)
@[simp] theorem toState_bound (k st) : (toState s k st).boundImage = s.boundImage := by simp [toState]
@[simp] theorem putKhat_bound (k xs) : (putKhat s k xs).boundImage = s.boundImage := (rfl)
@[simp] theorem putOffs_bound (k xs) : (putOffs s k xs).boundImage = s.boundImage := (rfl)
@[simp] theorem restartWindow_bound (k) : (restartWindow s k).boundImage = s.boundImage := (rfl)
@[simp] theorem switchBank_bound (k) : (switchBank s k).boundImage = s.boundImage := (rfl)
@[simp] theorem modTile_bound (shelf t f) : (modTile s shelf t f).boundImage = s.boundImage := (rfl)
@[simp] theorem modVig_bound (r f) : (modVig s r f).boundImage = s.boundImage := (rfl)
@[simp] theorem endRequest_bound (k) : (endRequest s k).boundImage = s.boundImage := by
  unfold endRequest
  split <;> simp

@[simp] theorem freeSpare_bound (k) : (freeSpare s k).boundImage = s.boundImage := (rfl)
@[simp] theorem dropSweep_bound (k) : (dropSweep s k).boundImage = s.boundImage := (rfl)
@[simp] theorem giveBack_bound (k) : (giveBack s k).boundImage = s.boundImage := by simp [giveBack]
@[simp] theorem abandonCopy_bound (c) : (abandonCopy s c).boundImage = s.boundImage := by simp [abandonCopy]
@[simp] theorem modGain_bound (shelf c f) : (modGain s shelf c f).boundImage = s.boundImage := (rfl)
@[simp] theorem markFailed_bound (ks) : (markFailed s ks).boundImage = s.boundImage := by simp [markFailed]
@[simp] theorem deriveGain_bound (shelf c) : (deriveGain s shelf c).boundImage = s.boundImage := by simp [deriveGain]
@[simp] theorem deriveGains_bound (r) : (deriveGains s r).boundImage = s.boundImage := by simp [deriveGains]
@[simp] theorem enterServing_bound (k) : (enterServing s k).boundImage = s.boundImage := by simp [enterServing]
@[simp] theorem flipAccession_bound (r) : (flipAccession s r).boundImage = s.boundImage := by
  simp [flipAccession, -Option.foldl_toList]

@[simp] theorem flipRehousing_bound (r) : (flipRehousing s r).boundImage = s.boundImage := by simp [flipRehousing]
@[simp] theorem noteLimits_bound (k b) : (noteLimits s k b).boundImage = s.boundImage := by simp [noteLimits]
@[simp] theorem applyGain_bound (h c) : (applyGain s h c).boundImage = s.boundImage := (rfl)
@[simp] theorem applyCoupled_bound (r) : (applyCoupled s r).boundImage = s.boundImage := by simp [applyCoupled]
@[simp] theorem rescaleFolio_bound (k old new) : (rescaleFolio s k old new).boundImage = s.boundImage := by simp [rescaleFolio]
@[simp] theorem carryGain_bound (before after ks old new h c) : (carryGain before after ks old new s h c).boundImage = s.boundImage := by simp [carryGain]
@[simp] theorem rescaleRegion_bound (r h old new) : (rescaleRegion s r h old new).boundImage = s.boundImage := by simp [rescaleRegion]
@[simp] theorem flipCopies_bound (r) : (flipCopies s r).boundImage = s.boundImage := by
  refine foldl_bound (fun t x => ?_) _ s
  dsimp only
  repeat' split
  all_goals simp

@[simp] theorem tileReadNow_bound (k) : (tileReadNow s k).boundImage = s.boundImage := by simp [tileReadNow]
@[simp] theorem tileWriteNow_bound (k b) : (tileWriteNow s k b).boundImage = s.boundImage := by simp [tileWriteNow]
@[simp] theorem tilesAtBoundary_bound (region) : (tilesAtBoundary s region).boundImage = s.boundImage := by
  refine foldl_bound (fun t x => ?_) _ s
  split <;> simp

@[simp] theorem restartLocals_bound (shelf c) : (restartLocals s shelf c).boundImage = s.boundImage := (rfl)
@[simp] theorem recipesNow_bound (r) : (recipesNow s r).boundImage = s.boundImage := (rfl)
@[simp] theorem loseArchive_bound (r) : (loseArchive s r).boundImage = s.boundImage := (rfl)
@[simp] theorem flipAll_bound (r) : (flipAll s r).boundImage = s.boundImage := by simp [flipAll]
@[simp] theorem windowsNow_bound (r) : (windowsNow s r).boundImage = s.boundImage := by simp [windowsNow]
@[simp] theorem boundaryChanges_bound (r) : (boundaryChanges s r).boundImage = s.boundImage := by simp [boundaryChanges]

end Sys2Proof.Machine
end
end

section
/-!
PROOFS. What growth, loans and the start of a stage leave alone (R224, R254, R255): the image, the module epoch, the passes in flight, the intake and
the sessions, which are what a pass begins from.
-/
section
open Sys2Proof Sys2Proof.Machine
namespace Sys2Proof.Machine

/-- What a pass begins from. -/
structure PassView where
  img : Images
  epoch : Nat
  live : List Pass
  itk : Intake
  kv : Kv

/-- What a pass would begin from in a state. It is a name of its own so that `simp` carries it through a state's updates. -/
def State.passView (s : State) : PassView := ⟨s.img, s.clk.epoch, s.run.live, s.itk, s.kv⟩

/-- A session without the pages that it stands on. -/
def Session.unpaged (x : Session) : Session := { x with hall := none, pages := [] }

/-- The same with the pages and their bytes left out: what growth, which gives sessions pages, leaves alone. -/
def State.growView (s : State) : PassView :=
  ⟨s.img, s.clk.epoch, s.run.live, s.itk, { sessions := s.kv.sessions.map Session.unpaged, pages := [], mem := [], bad := [], reuse := [], swaps := [] }⟩

/-! ### Registers, records, loans and scribes -/

@[simp] theorem mk_passView (u : State) (a0 a2 a3 a5 a6 a7 a9 a10 a13 a14 a15 a16 a17 a18 a19 a20 a21) :
    (State.mk a0 u.clk a2 a3 u.img a5 a6 a7 u.run a9 a10 u.kv u.itk a13 a14 a15 a16 a17 a18 a19 a20 a21).passView = u.passView := (rfl)

@[simp] theorem ite_passView (c : Prop) [Decidable c] (t u : State) : (if c then t else u).passView = if c then t.passView else u.passView :=
  apply_ite State.passView c t u

@[simp] theorem foldl_passView {α : Type} {f : State → α → State} (h : ∀ s x, (f s x).passView = s.passView) (l : List α) (s : State) :
    (l.foldl f s).passView = s.passView := by
  induction l generalizing s with
  | nil => rfl
  | cons x xs ih => rw [List.foldl_cons, ih, h]

variable (s : State)

@[simp] theorem rset_passView (a v) : (rset s a v).passView = s.passView := (rfl)
@[simp] theorem fset_passView (f x) : (fset s f x).passView = s.passView := (rfl)
@[simp] theorem fbump_passView (f n) : (fbump s f n).passView = s.passView := (rfl)
@[simp] theorem writeRec_passView (kind sev obj a0 a1 a2) : (writeRec s kind sev obj a0 a1 a2).passView = s.passView := by simp [writeRec]
@[simp] theorem annal_passView (kind sev obj a0 a1 a2) : (annal s kind sev obj a0 a1 a2).passView = s.passView := by simp [annal]
@[simp] theorem leaveIdle_passView : (leaveIdle s).passView = s.passView := by simp [leaveIdle]
@[simp] theorem fsrEmit_passView (kind keys) : (fsrEmit s kind keys).passView = s.passView := (rfl)
@[simp] theorem shelfFsr_passView (shelf) : (shelfFsr s shelf).passView = s.passView := (rfl)
@[simp] theorem poisonNoted_passView (obj) : (poisonNoted obj s).passView = s.passView := by simp [poisonNoted]
@[simp] theorem poisonOrigin_passView (shelf) : (poisonOrigin s shelf).passView = s.passView := by simp [poisonOrigin]
@[simp] theorem countOutliers_passView (p x) : (countOutliers s p x).passView = s.passView := (rfl)
@[simp] theorem modScribe_passView (shelf f) : (modScribe s shelf f).passView = s.passView := (rfl)
@[simp] theorem readyJob_passView (shelf j) : (readyJob s shelf j).passView = s.passView := by
  unfold readyJob
  split <;> simp

@[simp] theorem readyStage_passView (p st) : (readyStage s p st).passView = s.passView := by simp [readyStage]
@[simp] theorem readySample_passView (p st) : (readySample s p st).passView = s.passView := by simp [readySample]
@[simp] theorem modLoan_passView (c a f) : (modLoan s c a f).passView = s.passView := (rfl)
theorem makeLoanRoom_passView {c need fuel u} (hu : makeLoanRoom c need fuel s = some u) : u.passView = s.passView := by
  induction fuel generalizing s with
  | zero => cases hu
  | succ fuel ih =>
    simp only [makeLoanRoom] at hu
    repeat' split at hu
    · cases hu; rfl
    · cases hu
    · simpa using ih _ hu

@[simp] theorem holdLoan_passView (region c a) : (holdLoan s region c a).passView = s.passView := by
  -- The free pages are named, not computed: the kernel would evaluate the whole page table.
  obtain ⟨home, hhome⟩ : ∃ home, homePages = home := ⟨_, rfl⟩
  rw [holdLoan, hhome]
  split
  · rfl
  · split
    · rfl
    · split
      · rfl
      · next hroom =>
        repeat' split
        · rfl
        · rfl
        · rw [modLoan_passView, makeLoanRoom_passView _ hroom]

@[simp] theorem askStages_passView (region c a want) : (askStages s region c a want).passView = s.passView := by simp [askStages]
@[simp] theorem modStage_passView (c a st f) : (modStage s c a st f).passView = s.passView := (rfl)
@[simp] theorem issueOn_passView (fn) : (issueOn fn s).passView = s.passView := by
  unfold issueOn
  repeat' split
  all_goals simp

@[simp] theorem issueFetches_passView : (issueFetches s).passView = s.passView := by simp [issueFetches]
@[simp] theorem askLayer_passView (p layer) : (askLayer s p layer).passView = s.passView := by
  refine (issueFetches_passView _).trans (foldl_passView (fun t h => ?_) _ _)
  split <;> simp

@[simp] theorem useLoans_passView (p) : (useLoans s p).passView = s.passView := by
  refine foldl_passView (fun t x => ?_) _ s
  split <;> simp

/-! ### Pages -/

@[simp] theorem mk_growView (u : State) (a0 a2 a3 a5 a6 a7 a9 a10 pages mem bad reuse swaps a13 a14 a15 a16 a17 a18 a19 a20 a21) :
    (State.mk a0 u.clk a2 a3 u.img a5 a6 a7 u.run a9 a10 ⟨u.kv.sessions, pages, mem, bad, reuse, swaps⟩ u.itk a13 a14 a15 a16 a17 a18 a19 a20
      a21).growView = u.growView := (rfl)

@[simp] theorem ite_growView (c : Prop) [Decidable c] (t u : State) : (if c then t else u).growView = if c then t.growView else u.growView :=
  apply_ite State.growView c t u

@[simp] theorem foldl_growView {α : Type} {f : State → α → State} (h : ∀ s x, (f s x).growView = s.growView) (l : List α) (s : State) :
    (l.foldl f s).growView = s.growView := by
  induction l generalizing s with
  | nil => rfl
  | cons x xs ih => rw [List.foldl_cons, ih, h]

/-- A change of the first session found, of its pages alone. -/
theorem modSession_growView {h : Nat} {f : Session → Session} (hf : ∀ x, (f x).unpaged = x.unpaged) : (modSession s h f).growView = s.growView := by
  have hmap (l : List Session) : (modFirst (fun x => x.handle == h) f l).map Session.unpaged = l.map Session.unpaged := by
    induction l with
    | nil => rfl
    | cons x xs ih =>
      simp only [modFirst]
      split
      · simp [hf]
      · simp [ih]
  simp only [State.growView, modSession, hmap]

@[simp] theorem fbump_growView (f n) : (fbump s f n).growView = s.growView := (rfl)
@[simp] theorem modPage_growView (h i f) : (modPage s h i f).growView = s.growView := (rfl)
theorem allocPage_growView {h p u} (hu : allocPage s h p = some u) : u.1.growView = s.growView := by
  simp only [allocPage] at hu
  split at hu
  · cases hu
    simp
  · cases hu

@[simp] theorem spoilLine_growView (h a) : (spoilLine s h a).growView = s.growView := (rfl)
@[simp] theorem cleanLines_growView (h a n) : (cleanLines s h a n).growView = s.growView := (rfl)
@[simp] theorem releasePage_growView (h i) : (releasePage s h i).growView = s.growView := by simp [releasePage]
theorem cowCopy_growView {x h g k i u} (hu : cowCopy s x h g k i = some u) : u.growView = s.growView := by
  simp only [cowCopy] at hu
  split at hu
  · cases hu
  · next h =>
    cases hu
    rw [fbump_growView, foldl_growView fun _ _ => spoilLine_growView _ _ _]
    refine (mk_growView (modSession _ _ _) ..).trans ?_
    rw [modSession_growView, releasePage_growView, allocPage_growView _ h]
    exact fun _ => rfl

theorem needPage_growView {handle g grp k u} (hu : needPage s handle g grp k = some u) : u.growView = s.growView := by
  simp only [needPage] at hu
  split at hu
  · cases hu; rfl
  · split at hu
    · split at hu
      · exact cowCopy_growView s hu
      · cases hu; rfl
    · split at hu
      · cases hu
      · next h =>
        cases hu
        rw [modSession_growView, allocPage_growView _ h]
        exact fun _ => rfl

theorem foldOpt_growView {α : Type} {f : State → α → Option State} (hf : ∀ t x u, f t x = some u → u.growView = t.growView) {l : List α} {s u : State}
    (hu : foldOpt f s l = some u) : u.growView = s.growView := by
  induction l generalizing s with
  | nil => cases hu; rfl
  | cons x xs ih =>
    simp only [foldOpt] at hu
    split at hu
    · cases hu
    · next ht => rw [ih hu, hf _ _ _ ht]

theorem growSession_growView {handle count u} (hu : growSession s handle count = some u) : u.growView = s.growView := by
  simp only [growSession] at hu
  split at hu
  · cases hu; rfl
  · exact foldOpt_growView (fun _ _ _ => foldOpt_growView fun _ _ _ => needPage_growView _) hu

end Sys2Proof.Machine
end
end

section
/-!
PROOFS. PASS_DISPATCH (R17, R254, R255, R277): what it needs to begin a pass, and what has begun.
-/
section
open Sys2Proof Sys2Proof.Machine
namespace Sys2Proof.Machine

variable {s t : State}

/-! ### What a view shows -/

theorem orbitRegion_of_boundImage (h : t.boundImage = s.boundImage) (r : Nat) : orbitRegion t r = orbitRegion s r :=
  congrArg (fun i : Image => i.orbit.entries.any fun e => e.1 == r) h

/-- Growth, and the module's return to Run, leave all that a pass begins from but the sessions' pages. -/
theorem leaveIdle_growSession_growView {h n : Nat} (hg : growSession s h n = some t) : (leaveIdle t).growView = s.growView := by
  rw [← growSession_growView s hg]
  exact congrArg (fun v : PassView => { v with kv := { sessions := v.kv.sessions.map Session.unpaged, pages := [], mem := [], bad := [], reuse := [], swaps := [] } })
    (leaveIdle_passView t)

/-- A session found in one of two states of one growth view is found in the other, with the same length. -/
theorem findSession_of_growView (hv : t.growView = s.growView) {h : Nat} {x : Session} (hx : findSession s h = some x) :
    ∃ y, findSession t h = some y ∧ y.length = x.length := by
  have hfind (u : State) : (u.kv.sessions.map Session.unpaged).find? (fun x => x.handle == h) = (findSession u h).map Session.unpaged := List.find?_map ..
  have hsess : (findSession t h).map Session.unpaged = some x.unpaged := by
    rw [← hfind, show t.kv.sessions.map Session.unpaged = s.kv.sessions.map Session.unpaged from congrArg (·.kv.sessions) hv, hfind, hx]
    rfl
  obtain ⟨y, hy, hyx⟩ := Option.map_eq_some_iff.mp hsess
  exact ⟨y, hy, (congrArg Session.length hyx :)⟩

/-! ### The pass that begins -/

/-- What has begun in `t` when a pass of command `k` for session `h`, of stored length `len`, begins from `s`. -/
structure PassBegun (s : State) (k : Cmd) (r h len : Nat) (t : State) (p : Pass) : Prop where
  epoch : t.clk.epoch = (s.clk.epoch + 1) % 2 ^ 48
  live : p ∈ t.run.live
  region : p.region = r
  stream : p.stream = k.stream
  cmd : p.cmd = k.seq
  number : p.number = (carrelSt s k.stream).nextPass
  passEpoch : p.epoch = t.clk.epoch
  sessions : p.sessions = [h]
  stage : p.stage = none
  positions : p.vecs.map (·.pos) = (List.range (appendCount k)).map (len + ·)
  next : (carrelSt t k.stream).nextPass = (carrelSt s k.stream).nextPass + 1
  limit : (carrelSt t k.stream).nextPass ≤ (carrelSt t k.stream).limit
  others : ∀ n, n ≠ k.stream → carrelSt t n = carrelSt s n
  command : findCmd t k.stream k.seq = some { k with passesLeft := k.passesLeft - 1, pass := p.number, skip := [] }
  session : ∃ y, findSession t h = some y ∧ y.length = len ∧ y.lastEpoch = t.clk.epoch

/-- A begun pass depends on the epoch and the intake from which it began, and on nothing else. -/
theorem PassBegun.congr {s' u : State} {k : Cmd} {r h len : Nat} {p : Pass} (hb : PassBegun s k r h len u p) (hv : s.growView = s'.growView) :
    PassBegun s' k r h len u p := by
  have hepoch : s.clk.epoch = s'.clk.epoch := congrArg PassView.epoch hv
  have hcar (n : Nat) : carrelSt s n = carrelSt s' n := congrArg (fun v : PassView => sget (fun _ => freshCarrel) v.itk.carrels n) hv
  exact { hb with
    epoch := hepoch ▸ hb.epoch, number := hcar _ ▸ hb.number, next := hcar _ ▸ hb.next, others := fun n hn => (hb.others n hn).trans (hcar n) }

theorem findCmd_named {c seq : Nat} {k : Cmd} (h : findCmd s c seq = some k) : k.stream = c ∧ k.seq = seq := by
  have hn : Cmd.named c seq k = true := List.find?_some h
  simp only [Cmd.named, Bool.and_eq_true, beq_iff_eq] at hn
  exact hn.1

theorem findCmd_modCmd {c seq : Nat} (f : Cmd → Cmd) (hf : ∀ k, Cmd.named c seq k = true → Cmd.named c seq (f k) = true) :
    findCmd (modCmd s c seq f) c seq = (findCmd s c seq).map f := find_modFirst _ f _ hf

theorem newVecs_pos {k : Cmd} {h : Nat} {x : Session} (hx : findSession s h = some x) :
    (newVecs s k h).map (·.pos) = (List.range (appendCount k)).map (x.length + ·) := by
  simp [newVecs, hx]

/-- A pass that opens for one session stands behind those in flight, takes the next epoch, and gives it to its session. -/
theorem openPass_begins (s : State) (r stream cmd number passId h : Nat) (vecs : List Vec) :
    ∃ p, (openPass s r stream cmd number passId [h] vecs).passView =
        ⟨s.img, (s.clk.epoch + 1) % 2 ^ 48, s.run.live ++ [p], s.itk, (modSession s h fun x => { x with lastEpoch := (s.clk.epoch + 1) % 2 ^ 48 }).kv⟩ ∧
      p.region = r ∧ p.stream = stream ∧ p.cmd = cmd ∧ p.number = number ∧ p.epoch = (s.clk.epoch + 1) % 2 ^ 48 ∧ p.sessions = [h] ∧
      p.stage = none ∧ p.vecs = vecs := by
  simp only [openPass, askLayer_passView, useLoans_passView]
  exact ⟨_, rfl, rfl, rfl, rfl, rfl, rfl, rfl, rfl, rfl⟩

/-- A carrel's number once it is taken: the next one, below the limit. -/
theorem carrelSt_takeNumber (hc : s.carrelsOk) (c : Nat) :
    (carrelSt (takeNumber s c).2 c).nextPass = (carrelSt s c).nextPass + 1 ∧
      (carrelSt (takeNumber s c).2 c).nextPass ≤ (carrelSt (takeNumber s c).2 c).limit := by
  have hst : carrelSt (takeNumber s c).2 c = _ := carrelSt_modCarrel hc c _
  rw [hst]
  refine ⟨rfl, ?_⟩
  dsimp only
  split <;> omega

theorem carrelSt_takeNumber_ne (hc : s.carrelsOk) {c n : Nat} (hn : n ≠ c) : carrelSt (takeNumber s c).2 n = carrelSt s n :=
  carrelSt_modCarrel_ne hc _ hn

theorem launch_begins {k : Cmd} {r h : Nat} {x : Session} (horb : orbitRegion s r = false) (hc : s.carrelsOk)
    (hk : findCmd s k.stream k.seq = some k) (hx : findSession s h = some x) : ∃ p, PassBegun s k r h x.length (launch s k r [h]) p := by
  let s1 := (takeNumber s k.stream).2
  let n := (carrelSt s k.stream).nextPass
  let id := (s.clk.epoch + 1) % 2 ^ 48
  obtain ⟨p, hview, hregion, hstream, hcmd, hnumber, hepoch, hsessions, hstage, hvecs⟩ :=
    openPass_begins s1 r k.stream k.seq n id h ([h].flatMap (newVecs s1 k))
  have hlaunch : launch s k r [h] = modCmd (openPass s1 r k.stream k.seq n id [h] ([h].flatMap (newVecs s1 k))) k.stream k.seq fun k =>
      { k with passesLeft := k.passesLeft - 1, pass := n, skip := [] } := by
    simp [launch, horb, takeNumber, s1, n, id]
  rw [hlaunch]
  generalize openPass s1 r k.stream k.seq n id [h] ([h].flatMap (newVecs s1 k)) = u at hview
  have hclk : u.clk.epoch = id := congrArg PassView.epoch hview
  have hlive : u.run.live = s1.run.live ++ [p] := congrArg PassView.live hview
  have hitk : u.itk = s1.itk := congrArg PassView.itk hview
  have hkv : u.kv = (modSession s1 h fun x => { x with lastEpoch := id }).kv := congrArg PassView.kv hview
  have hcar (f : Cmd → Cmd) (m : Nat) : carrelSt (modCmd u k.stream k.seq f) m = carrelSt s1 m :=
    (congrArg (fun i : Intake => sget (fun _ => freshCarrel) i.carrels m) hitk :)
  obtain ⟨hnext, hlimit⟩ := carrelSt_takeNumber hc k.stream
  refine ⟨p, {
    epoch := hclk, live := ?_, region := hregion, stream := hstream, cmd := hcmd, number := hnumber, passEpoch := hepoch.trans hclk.symm,
    sessions := hsessions, stage := hstage, positions := ?_, next := ?_, limit := ?_, others := fun m hm => ?_, command := ?_, session := ?_ }⟩
  · exact hlive ▸ List.mem_append_right _ (List.mem_singleton_self p)
  · rw [hvecs, List.flatMap_singleton, newVecs_pos (s := s1) hx]
  · rw [hcar, hnext]
  · rw [hcar]
    exact hlimit
  · rw [hcar, carrelSt_takeNumber_ne hc hm]
  · have hcmds : findCmd u k.stream k.seq = some k := (congrArg (fun i : Intake => i.cmds.find? (Cmd.named k.stream k.seq)) hitk :).trans hk
    refine (findCmd_modCmd _ ?_).trans ?_
    · exact fun _ hy => hy
    · rw [hcmds, hnumber]
      rfl
  · have hfind : findSession u h = (findSession s h).map fun x => { x with lastEpoch := id } :=
      (congrArg (fun v : Kv => v.sessions.find? fun x => x.handle == h) hkv :).trans (findSession_modSession h _ fun _ => rfl)
    exact ⟨{ x with lastEpoch := id }, hfind.trans (hx ▸ rfl), rfl, hclk.symm⟩

/-! ### The dispatch -/

/-- A region with a pass in flight, a held command, or victims on their way out changes nothing. -/
theorem execPassDispatch_waits {c seq : Nat} {k : Cmd} (hk : findCmd s c seq = some k)
    (hwait : (passOf s (cmdRegion s k)).isSome = true ∨ heldCmd s k = true ∨ victimsOut s c seq = true) : execPassDispatch c seq s = .next s := by
  simp only [execPassDispatch, hk, Option.filter]
  split
  · rfl
  · next hk' =>
    split at hk'
    · cases hk'
      rcases hwait with h | h | h <;> simp [h]
    · cases hk'

/-- A session that may join is not refused. -/
theorem refuseUnfit_singleton {c seq h : Nat} {k : Cmd} (hk : findCmd s c seq = some k) (hjoin : joinStatus s k h = none) :
    refuseUnfit s c seq [h] = s := by
  simp [refuseUnfit, hk, hjoin]

/-- A session whose hall has room grows, and nothing waits. -/
theorem growAll_singleton {c seq h : Nat} {k : Cmd} (hk : findCmd s c seq = some k) (hg : growSession s h (appendCount k) = some t) :
    growAll s c seq [h] = (t, false) := by
  simp [growAll, hk, hg]

/-- Nothing holds the dispatch of command `k` for session `h`: as the boundary's changes leave the module, the session `x` may join, is
resident, and has its pages in `t`. -/
structure DispatchReady (s : State) (k : Cmd) (h : Nat) (x : Session) (t : State) : Prop where
  command : findCmd s k.stream k.seq = some k
  begun : k.phase = .begun
  op : k.op = 0x03 ∨ k.op = 0x04
  left : 0 < k.passesLeft
  free : passOf s (cmdRegion s k) = none
  unheld : heldCmd s k = false
  victims : victimsOut s k.stream k.seq = false
  takeover : s.orb.waitingTakeover = false
  plain : orbitRegion s (cmdRegion s k) = false
  stays : findCmd (boundaryChanges s (cmdRegion s k)) k.stream k.seq = some k
  handles : passHandles k = [h]
  join : joinStatus (boundaryChanges s (cmdRegion s k)) k h = none
  session : findSession (boundaryChanges s (cmdRegion s k)) h = some x
  resident : x.res = .resident
  grown : growSession (boundaryChanges s (cmdRegion s k)) h (appendCount k) = some t

variable {k : Cmd} {h : Nat} {x : Session}

theorem DispatchReady.grown_command (hr : DispatchReady s k h x t) : findCmd t k.stream k.seq = some k :=
  (congrArg (fun v : PassView => v.itk.cmds.find? (Cmd.named k.stream k.seq)) (growSession_growView _ hr.grown) :).trans hr.stays

/-- A dispatch that nothing holds comes to the launch of its session's pass. -/
theorem DispatchReady.exec_launches (hr : DispatchReady s k h x t) :
    exec (.passDispatch k.stream k.seq) s = .next (launch (leaveIdle t) k (cmdRegion s k) [h]) := by
  have hmoving : anyMoving (boundaryChanges s (cmdRegion s k)) [h] = false := by simp [anyMoving, hr.session, hr.resident]
  have hop : (k.op == 0x03 || k.op == 0x04) = true := by simpa using hr.op
  show execPassDispatch k.stream k.seq s = _
  simp [execPassDispatch, Option.filter, hr.command, hr.begun, hop, hr.left, hr.free, hr.unheld, hr.victims, hr.takeover, hr.handles,
    refuseUnfit_singleton hr.stays hr.join, hr.stays, hmoving, growAll_singleton hr.stays hr.grown, hr.grown_command]

/-- The pass begins from the state that the boundary's changes leave: growth takes pages alone. -/
theorem DispatchReady.begins (hr : DispatchReady s k h x t) (hc : (boundaryChanges s (cmdRegion s k)).carrelsOk) :
    ∃ p, PassBegun (boundaryChanges s (cmdRegion s k)) k (cmdRegion s k) h x.length (launch (leaveIdle t) k (cmdRegion s k) [h]) p := by
  have hview := leaveIdle_growSession_growView hr.grown
  have hitk : (leaveIdle t).itk = (boundaryChanges s (cmdRegion s k)).itk := congrArg PassView.itk hview
  have himg : (leaveIdle t).boundImage = s.boundImage :=
    (congrArg (fun v : PassView => v.img.bound) hview :).trans (boundaryChanges_bound s (cmdRegion s k))
  have hcmd : findCmd (leaveIdle t) k.stream k.seq = some k :=
    (congrArg (fun i : Intake => i.cmds.find? (Cmd.named k.stream k.seq)) hitk :).trans hr.stays
  have hcarrels : (leaveIdle t).carrelsOk := by
    unfold State.carrelsOk
    rw [hitk]
    exact hc
  obtain ⟨y, hy, hlen⟩ := findSession_of_growView hview hr.session
  obtain ⟨p, hb⟩ := launch_begins ((orbitRegion_of_boundImage himg _).trans hr.plain) hcarrels hcmd hy
  exact ⟨p, hlen ▸ hb.congr hview⟩

end Sys2Proof.Machine
end
end

section
/-!
PROOFS. LAYER_BEGIN and the hold budget (R58, R117, R224, R225, R236), and with PASS_DISPATCH the obligation on how passes begin.
-/
section
open Sys2Proof Sys2Proof.Machine
namespace Sys2Proof.Machine

variable {s t : State}

/-! ### A stage begins -/

theorem passOf_of_passView (h : t.passView = s.passView) (r : Nat) : passOf t r = passOf s r :=
  congrArg (fun v : PassView => v.live.find? fun p : Pass => p.region == r) h

theorem passOf_modPass_of_passOf {r : Nat} {p : Pass} (hp : passOf s r = some p) (f : Pass → Pass) (hf : ∀ x, (f x).region = x.region) :
    passOf (modPass s r f) r = some (f p) := by
  rw [passOf_modPass r f hf, hp, Option.map_some]

theorem orbitRegion_of_img (h : t.img = s.img) (r : Nat) : orbitRegion t r = orbitRegion s r :=
  congrArg (fun i : Images => i.bound.orbit.entries.any fun e => e.1 == r) h

/-- Outside an orbit a pass has no collectives. -/
theorem syncPass_of_not_orbit {r : Nat} (h : orbitRegion s r = false) : syncPass s r = s := by
  simp only [syncPass, h]
  split <;> rfl

theorem stageOver_of_stageDone {p : Pass} (h : ∀ q, p.stage = some q → stageDone s p q = true) : stageOver s p = true := by
  unfold stageOver
  split
  · rfl
  · next hq => exact h _ hq

/-- With every session ready, none is dropped. -/
theorem dropUnready_of_ready {r layer : Nat} {p : Pass} (hp : passOf s r = some p) (h : notReady s p layer = []) : dropUnready s r layer = s := by
  simp [dropUnready, hp, h]

/-- Before the budget is spent, none is dropped. -/
theorem dropUnready_of_budget {r layer : Nat} {p : Pass} (hp : passOf s r = some p) (h : p.budgetSpent = false) : dropUnready s r layer = s := by
  simp [dropUnready, hp, h]

/-- The pass once a stage, with its run, has begun. -/
def Pass.withStage (s : State) (st : Nat) (run : StageRun) (p : Pass) : Pass :=
  { p with
    stage := some st, stages := sset (fun _ => none) p.stages st (some run)
    flags := p.flags ||| ((if run.spillSet.isEmpty then 0 else 1) ||| (if run.excessSet.isEmpty then 0 else 2))
    attnReady := p.attnReady ++ attnJobs s p st }

@[simp] theorem modPass_passView (s : State) (r : Nat) (f : Pass → Pass) :
    (modPass s r f).passView = { s.passView with live := modFirst (fun p => p.region == r) f s.passView.live } := (rfl)

theorem syncPass_passView {r : Nat} {f : Pass → Pass} (ht : t.passView = (modPass s r f).passView) (h : orbitRegion s r = false) :
    (syncPass t r).passView = (modPass s r f).passView := by
  have himg : t.img = s.img := congrArg PassView.img ht
  rw [syncPass_of_not_orbit ((orbitRegion_of_img himg r).trans h), ht]

/-- Of what a pass begins from, a stage that begins changes its own pass. -/
theorem execLayerBegin_begins {r : Nat} {p : Pass} {x : Recipe} {ins : List (List W32)} (hp : passOf s r = some p) (horb : orbitRegion s r = false)
    (hx : passRecipe p (nextStage p) = some x) (hover : stageOver s p = true) (hready : notReady s p x.layer = [])
    (hins : stageInputs s p (nextStage p) = some ins) (bad : List Nat) :
    ∃ t, execLayerBegin r bad s = .next t ∧ t.passView = (modPass s r (Pass.withStage s (nextStage p) (beginStage s p x ins bad))).passView := by
  simp only [execLayerBegin, hp, hx, dropUnready_of_ready hp hready, ite_self, hover, hready, hins, List.isEmpty_nil, Bool.not_true, Bool.and_false,
    Bool.or_false, Bool.false_eq_true, if_false]
  refine ⟨_, rfl, syncPass_passView ?_ horb⟩
  simp only [ite_passView, askLayer_passView, ite_self, readySample_passView, readyStage_passView, modPass_passView, countOutliers_passView,
    poisonOrigin_passView]
  rfl

/-- A session that is not ready holds the layer while the budget lasts. -/
theorem execLayerBegin_holds {r : Nat} {p : Pass} {x : Recipe} (hp : passOf s r = some p) (hx : passRecipe p (nextStage p) = some x)
    (hopens : opensLayer p x.layer = true) (hheld : notReady s p x.layer ≠ []) (hbudget : p.budgetSpent = false) (bad : List Nat) :
    execLayerBegin r bad s = .next s := by
  simp [execLayerBegin, hp, hx, hopens, dropUnready_of_budget hp hbudget, hheld]

/-! ### The run of a stage that begins -/

theorem beginStage_scales_static {p : Pass} {x : Recipe} (hx : x.dynamic = false) (ins : List (List W32)) (bad : List Nat) :
    ∀ sc ∈ (beginStage s p x ins bad).scales, sc = BitVec.ofNat 32 x.staticScale := by
  simp [beginStage, scaleOf, hx]

/-! ### The hold budget runs out -/

/-- The pass without the sessions that are late, or the marks of what they appended. -/
def Pass.without (hs : List Nat) (p : Pass) : Pass := { p with late := p.late ++ hs, marks := p.marks.filter fun m => !hs.elem m.session }

theorem length_modFirst {α : Type} (q : α → Bool) (f : α → α) (l : List α) : (modFirst q f l).length = l.length := by
  induction l with
  | nil => rfl
  | cons x xs ih =>
    simp only [modFirst]
    split
    · rfl
    · rw [List.length_cons, List.length_cons, ih]

/-- What undoing marks leaves of the module: all but the pages and the poisoned lines. -/
theorem foldl_undoMark_frame (ms : List AppendMark) (s : State) :
    ms.foldl undoMark s = { s with kv := { s.kv with pages := (ms.foldl undoMark s).kv.pages, bad := (ms.foldl undoMark s).kv.bad } } := by
  induction ms generalizing s with
  | nil => rfl
  | cons m ms ih => exact ih (undoMark s m)

/-- In `t` the sessions `hs` have been dropped from the pass `p` that ran in `s`; what is not theirs is as it was. -/
structure LateDropped (s : State) (r : Nat) (p : Pass) (hs : List Nat) (t : State) : Prop where
  pass : passOf t r = some (p.without hs)
  sessions : t.kv.sessions = s.kv.sessions
  mem : t.kv.mem = s.kv.mem
  swaps : t.kv.swaps = s.kv.swaps
  itk : t.itk = s.itk
  inFlight : t.run.live.length = s.run.live.length
  kept : (∀ m ∈ p.marks, m.session ∉ hs) → t.kv = s.kv

theorem Pass.without_nil (p : Pass) : p.without [] = p := by simp [Pass.without]

theorem Pass.without_without (p : Pass) (hs gs : List Nat) : (p.without hs).without gs = p.without (hs ++ gs) := by
  simp [Pass.without, List.filter_filter, Bool.and_comm]

theorem LateDropped.refl {r : Nat} {p : Pass} (hp : passOf s r = some p) : LateDropped s r p [] s :=
  ⟨p.without_nil.symm ▸ hp, rfl, rfl, rfl, rfl, rfl, fun _ => rfl⟩

theorem LateDropped.trans {u : State} {r : Nat} {p : Pass} {hs gs : List Nat} (h : LateDropped s r p hs t) (h' : LateDropped t r (p.without hs) gs u) :
    LateDropped s r p (hs ++ gs) u where
  pass := p.without_without hs gs ▸ h'.pass
  sessions := h'.sessions.trans h.sessions
  mem := h'.mem.trans h.mem
  swaps := h'.swaps.trans h.swaps
  itk := h'.itk.trans h.itk
  inFlight := h'.inFlight.trans h.inFlight
  kept hm := by
    simp only [List.mem_append, not_or] at hm
    exact (h'.kept fun m hmem => (hm m (List.mem_of_mem_filter hmem)).2).trans (h.kept fun m hmem => (hm m hmem).1)

/-- A dropped session's marks are undone; then its pass forgets it. -/
theorem dropLate_passView {r layer h : Nat} {p : Pass} (hp : passOf s r = some p) :
    (dropLate s r layer h).passView = (modPass ((p.marks.filter fun m => m.session == h).foldl undoMark s) r (Pass.without [h])).passView := by
  have hwithout (q : Pass) : { q with late := q.late ++ [h], marks := q.marks.filter fun m => m.session != h } = q.without [h] := by
    simp [Pass.without, bne, beq_eq_decide]
  simp only [dropLate, hp, Option.elim_some, annal_passView, fbump_passView, hwithout]

theorem dropLate_lateDropped {r : Nat} {p : Pass} (hp : passOf s r = some p) (layer h : Nat) :
    LateDropped s r p [h] (dropLate s r layer h) := by
  have hview := dropLate_passView (layer := layer) (h := h) hp
  generalize hu : (p.marks.filter fun m => m.session == h).foldl undoMark s = u at hview
  have hframe : u = { s with kv := { s.kv with pages := u.kv.pages, bad := u.kv.bad } } := hu ▸ foldl_undoMark_frame _ s
  have hrun : u.run = s.run := (congrArg State.run hframe :)
  have hkv : (dropLate s r layer h).kv = u.kv := congrArg PassView.kv hview
  have hitk : (dropLate s r layer h).itk = u.itk := congrArg PassView.itk hview
  have hlive : (dropLate s r layer h).run.live = modFirst (fun q => q.region == r) (Pass.without [h]) s.run.live := by
    rw [← hrun]
    exact congrArg PassView.live hview
  refine ⟨?_, ?_, ?_, ?_, ?_, ?_, fun hm => ?_⟩
  · have hpass : passOf (dropLate s r layer h) r = passOf (modPass s r (Pass.without [h])) r := congrArg (List.find? _) hlive
    exact hpass.trans (passOf_modPass_of_passOf hp _ fun _ => rfl)
  · rw [hkv, hframe]
  · rw [hkv, hframe]
  · rw [hkv, hframe]
  · rw [hitk, hframe]
  · rw [hlive, length_modFirst]
  · rw [hkv, ← hu, List.filter_eq_nil_iff.mpr fun m hmem => by simpa using hm m hmem, List.foldl_nil]

theorem foldl_dropLate_lateDropped {r : Nat} {p : Pass} (hp : passOf s r = some p) (layer : Nat) (hs : List Nat) :
    LateDropped s r p hs (hs.foldl (fun s h => dropLate s r layer h) s) := by
  induction hs generalizing s p with
  | nil => exact .refl hp
  | cons h hs ih =>
    have hd := dropLate_lateDropped hp layer h
    exact hd.trans (ih hd.pass)

/-- While the stage before runs, the budget's end changes nothing. -/
theorem execHoldBudgetExhausted_early {r : Nat} {p : Pass} (hp : passOf s r = some p) (hover : stageOver s p = false) :
    execHoldBudgetExhausted r s = .next s := by
  simp only [execHoldBudgetExhausted, hp, hover]
  split <;> simp

/-- The pass with its hold budget spent. -/
def Pass.spent (p : Pass) : Pass := { p with budgetSpent := true, budgetUs := 0 }

/-- The budget's end drops the sessions that hold a layer that opens. -/
theorem execHoldBudgetExhausted_drops {r layer : Nat} {p : Pass} (hp : passOf s r = some p) (hlayer : stageLayer p (nextStage p) = some layer)
    (hopens : opensLayer p layer = true) (hheld : notReady s p layer ≠ []) (hbudget : p.budgetSpent = false) (hover : stageOver s p = true) :
    execHoldBudgetExhausted r s =
      .next ((notReady s p layer).foldl (fun s h => dropLate s r layer h) (modPass s r Pass.spent)) := by
  have hspent : passOf (modPass s r Pass.spent) r = some p.spent := passOf_modPass_of_passOf hp _ fun _ => rfl
  have hready : notReady (modPass s r Pass.spent) p.spent layer = notReady s p layer := rfl
  have hdrop : dropUnready (modPass s r Pass.spent) r layer = (notReady s p layer).foldl (fun s h => dropLate s r layer h) (modPass s r Pass.spent) := by
    simp only [dropUnready, hspent, hready]
    rfl
  simp only [execHoldBudgetExhausted, hp, hlayer, hopens, hbudget, hover, ← hdrop]
  simp [hheld]
  rfl

/-! ### How passes begin -/

/-- Settles O21: a dispatch comes to the launch of its session's pass; a stage that begins changes its own pass alone; the budget's end drops
the sessions that hold the layer, one by one. -/
theorem passesBeginTheirLayers : Obligations.PassesBeginTheirLayers := by
  unfold Obligations.PassesBeginTheirLayers
  refine ⟨fun c seq h k s hk hbegun hop hleft => ⟨execPassDispatch_waits hk, ?_⟩, fun r p s hp horb => ⟨?_, ?_, ?_⟩⟩
  · intro x s2 hfree hheld hvictims htake horb s1 hk1 hhandles hjoin hx hres hg _ hc
    obtain ⟨rfl, rfl⟩ := findCmd_named hk
    have hr : DispatchReady s k h x s2 := ⟨hk, hbegun, hop, hleft, hfree, hheld, hvictims, htake, horb, hk1, hhandles, hjoin, hx, hres, hg⟩
    obtain ⟨p, hb⟩ := hr.begins hc
    exact ⟨_, p, hr.exec_launches, hb.epoch, hb.live, hb.region, hb.stream, hb.cmd, hb.number, hb.passEpoch, hb.sessions, hb.stage, hb.positions,
      hb.next, hb.limit, hb.others, hb.command, hb.session⟩
  · intro x ins hx hdone hready hins hstages bad
    obtain ⟨t, ht, hview⟩ := execLayerBegin_begins hp horb hx (stageOver_of_stageDone hdone) hready hins bad
    have hpass : passOf t r = some (p.withStage s (nextStage p) (beginStage s p x ins bad)) :=
      (passOf_of_passView hview r).trans (passOf_modPass_of_passOf hp _ fun _ => rfl)
    have hrun : stageRun (p.withStage s (nextStage p) (beginStage s p x ins bad)) (nextStage p) = some (beginStage s p x ins bad) := sget_sset_same hstages
    exact ⟨t, _, _, ht, hpass, rfl, hrun, rfl, rfl, rfl, List.length_map _, fun hstatic => beginStage_scales_static hstatic ins bad, rfl, rfl, rfl, rfl, rfl,
      congrArg PassView.kv hview, congrArg PassView.itk hview, congrArg PassView.img hview⟩
  · exact fun x hx hopens hheld hbudget bad => execLayerBegin_holds hp hx hopens hheld hbudget bad
  · intro layer hlayer hopens hheld hbudget
    refine ⟨execHoldBudgetExhausted_early hp, fun hover => ?_⟩
    have hd := foldl_dropLate_lateDropped (passOf_modPass_of_passOf hp Pass.spent fun _ => rfl) layer (notReady s p layer)
    exact ⟨_, _, execHoldBudgetExhausted_drops hp hlayer hopens hheld hbudget hover, hd.pass, rfl, rfl, rfl, rfl, rfl, hd.sessions, hd.mem, hd.swaps,
      hd.kept, hd.itk, hd.inFlight.trans (length_modFirst ..)⟩

end Sys2Proof.Machine
end
end

section
/-!
PROOFS. The image store of the NAND store (R27, R29, R31) outlasts all that the module does but five commands: STORE, DISCARD, RAISE_FLOOR,
ENROL_ANCHOR and the commit of a bind. No other command, no boot, reset or loss of power, and not the passing of time changes it: one lemma per
operation, in the model's order.
-/
section
open Sys2Proof Sys2Proof.Machine
namespace Sys2Proof.Machine

/-- The image store. It is a name of its own so that `simp` carries it through a state's updates. -/
def State.imgStore (s : State) : ImgStore := s.img.store

/-- A change of the other components leaves the store. -/
@[simp] theorem mk_imgStore (u : State) (a0 a1 a2 a3 a5 a6 a7 a8 a9 a10 a11 a12 a13 a14 a15 a16 a17 a18 a19 a20 a21) :
    (State.mk a0 a1 a2 a3 u.img a5 a6 a7 a8 a9 a10 a11 a12 a13 a14 a15 a16 a17 a18 a19 a20 a21).imgStore = u.imgStore := (rfl)

/-- So does a change of what is bound, of the bind in progress and of the live recipes. -/
@[simp] theorem mk_images_imgStore (u : State) (a0 a1 a2 a3 a5 a6 a7 a8 a9 a10 a11 a12 a13 a14 a15 a16 a17 a18 a19 a20 a21 bound op recipes next) :
    (State.mk a0 a1 a2 a3 ⟨u.img.store, bound, op, recipes, next⟩ a5 a6 a7 a8 a9 a10 a11 a12 a13 a14 a15 a16 a17 a18 a19 a20 a21).imgStore =
      u.imgStore := (rfl)

@[simp] theorem ite_imgStore (c : Prop) [Decidable c] (t u : State) : (if c then t else u).imgStore = if c then t.imgStore else u.imgStore :=
  apply_ite State.imgStore c t u

/-- A walk whose every step leaves the store. -/
@[simp] theorem foldl_imgStore {α : Type} {f : State → α → State} (h : ∀ s x, (f s x).imgStore = s.imgStore) (l : List α) (s : State) :
    (l.foldl f s).imgStore = s.imgStore := by
  induction l generalizing s with
  | nil => rfl
  | cons x xs ih => rw [List.foldl_cons, ih, h]

/-- A walk that carries something beside the state. -/
@[simp] theorem foldl_fst_imgStore {α β : Type} {f : State × β → α → State × β} (h : ∀ p x, (f p x).1.imgStore = p.1.imgStore) (l : List α)
    (p : State × β) : (l.foldl f p).1.imgStore = p.1.imgStore := by
  induction l generalizing p with
  | nil => rfl
  | cons x xs ih => rw [List.foldl_cons, ih, h]

@[simp] theorem foldl_snd_imgStore {α β : Type} {f : β × State → α → β × State} (h : ∀ p x, (f p x).2.imgStore = p.2.imgStore) (l : List α)
    (p : β × State) : (l.foldl f p).2.imgStore = p.2.imgStore := by
  induction l generalizing p with
  | nil => rfl
  | cons x xs ih => rw [List.foldl_cons, ih, h]

/-- A command's outcome with the image store as it was. -/
def KeepsStore (s : State) (o : Out) : Prop := ∀ t, o = .next t → t.imgStore = s.imgStore

@[simp] theorem keepsStore_next {s t : State} : KeepsStore s (.next t) ↔ t.imgStore = s.imgStore :=
  ⟨fun h => h t rfl, fun h u hu => by cases hu; exact h⟩

/-- What a scribe instruction comes to, with the image store as it was. -/
def DidKeepsStore (s : State) (o : Did) : Prop := ∀ t, o = .done t → t.imgStore = s.imgStore

@[simp] theorem didKeepsStore_done {s t : State} : DidKeepsStore s (.done t) ↔ t.imgStore = s.imgStore :=
  ⟨fun h => h t rfl, fun h u hu => by cases hu; exact h⟩

@[simp] theorem didKeepsStore_fault {s : State} {code : Nat} : DidKeepsStore s (.fault code) := fun _ h => nomatch h

@[simp] theorem didKeepsStore_stall {s : State} : DidKeepsStore s .stall := fun _ h => nomatch h

variable (s : State)

/-! ### The shared operations -/

@[simp] theorem rset_imgStore (a v) : (rset s a v).imgStore = s.imgStore := (rfl)
@[simp] theorem fset_imgStore (f x) : (fset s f x).imgStore = s.imgStore := (rfl)
@[simp] theorem fbump_imgStore (f n) : (fbump s f n).imgStore = s.imgStore := (rfl)
@[simp] theorem freeDraw_imgStore : (freeDraw s).2.imgStore = s.imgStore := (rfl)
@[simp] theorem writeRec_imgStore (kind sev obj a0 a1 a2) : (writeRec s kind sev obj a0 a1 a2).imgStore = s.imgStore := by simp [writeRec]
@[simp] theorem annal_imgStore (kind sev obj a0 a1 a2) : (annal s kind sev obj a0 a1 a2).imgStore = s.imgStore := by simp [annal]
@[simp] theorem ignored_imgStore (off value) : (ignored s off value).imgStore = s.imgStore := by simp [ignored]
@[simp] theorem leaveIdle_imgStore : (leaveIdle s).imgStore = s.imgStore := by simp [leaveIdle]
@[simp] theorem accrueReasons_imgStore : (accrueReasons s).imgStore = s.imgStore := (rfl)
@[simp] theorem idleTick_imgStore : (idleTick s).imgStore = s.imgStore := by simp [idleTick]
@[simp] theorem dmaWrite_imgStore (fn addr bytes) : (dmaWrite s fn addr bytes).imgStore = s.imgStore := by simp [dmaWrite]
@[simp] theorem msixSend_imgStore (fn v) : (msixSend s fn v).imgStore = s.imgStore := (rfl)
@[simp] theorem msix_imgStore (fn v) : (msix s fn v).imgStore = s.imgStore := by simp [msix]
@[simp] theorem msixRelease_imgStore (fn v) : (msixRelease s fn v).imgStore = s.imgStore := by simp [msixRelease]
@[simp] theorem modCarrel_imgStore (n f) : (modCarrel s n f).imgStore = s.imgStore := (rfl)
@[simp] theorem modStream_imgStore (c f) : (modStream s c f).imgStore = s.imgStore := (rfl)
@[simp] theorem modCmd_imgStore (c seq f) : (modCmd s c seq f).imgStore = s.imgStore := (rfl)
@[simp] theorem finish_imgStore (c seq status value) : (finish s c seq status value).imgStore = s.imgStore := (rfl)
@[simp] theorem modAcc_imgStore (r f) : (modAcc s r f).imgStore = s.imgStore := (rfl)
@[simp] theorem modPass_imgStore (r f) : (modPass s r f).imgStore = s.imgStore := (rfl)
@[simp] theorem reloadPrograms_imgStore (r) : (reloadPrograms s r).imgStore = s.imgStore := (rfl)
@[simp] theorem modSession_imgStore (h f) : (modSession s h f).imgStore = s.imgStore := (rfl)
@[simp] theorem modFolio_imgStore (k f) : (modFolio s k f).imgStore = s.imgStore := (rfl)
@[simp] theorem toState_imgStore (k st) : (toState s k st).imgStore = s.imgStore := by simp [toState]

/-! ### Links -/

@[simp] theorem modPort_imgStore (n f) : (modPort s n f).imgStore = s.imgStore := (rfl)
@[simp] theorem putFlit_imgStore (n typ nack seq vc payload spoil) : (putFlit s n typ nack seq vc payload spoil).imgStore = s.imgStore := by
  simp only [putFlit]
  split <;> simp

@[simp] theorem sendIdle_imgStore (n nack) : (sendIdle s n nack).imgStore = s.imgStore := (rfl)
@[simp] theorem transmit_imgStore (n f) : (transmit s n f).imgStore = s.imgStore := (rfl)
@[simp] theorem injChoose_imgStore (n) : (injChoose s n).2.imgStore = s.imgStore := by
  unfold injChoose
  split <;> simp

@[simp] theorem firstTransmit_imgStore (n f) : (firstTransmit s n f).imgStore = s.imgStore := by
  simp only [firstTransmit]
  repeat' split
  all_goals simp

@[simp] theorem injEnable_imgStore (n) : (injEnable s n).imgStore = s.imgStore := (rfl)
@[simp] theorem pump_imgStore (n fuel) : (pump n fuel s).imgStore = s.imgStore := by
  induction fuel generalizing s with
  | zero => rfl
  | succ fuel ih =>
    simp only [pump]
    split
    · rfl
    · simp [ih]

@[simp] theorem sendFlit_imgStore (n f) : (sendFlit s n f).imgStore = s.imgStore := by simp [sendFlit]
@[simp] theorem sendMsg_imgStore (n typ body) : (sendMsg s n typ body).imgStore = s.imgStore := by simp [sendMsg]
@[simp] theorem sendFault_imgStore (n kind port detail) : (sendFault s n kind port detail).imgStore = s.imgStore := by simp [sendFault]
@[simp] theorem sendDispatch_imgStore (r kind carrel cls passId words) : (sendDispatch s r kind carrel cls passId words).imgStore = s.imgStore := by
  simp [sendDispatch]
@[simp] theorem sendTxn_imgStore (n kind poison tag addr data origin elems) : (sendTxn s n kind poison tag addr data origin elems).imgStore = s.imgStore := by
  simp [sendTxn]
@[simp] theorem tsxRecord_imgStore (n event) : (tsxRecord s n event).imgStore = s.imgStore := by simp [tsxRecord]

/-! ### Packets -/

@[simp] theorem writeHeader_imgStore (c) : (writeHeader s c).imgStore = s.imgStore := by simp [writeHeader]
@[simp] theorem raiseVector0_imgStore (c) : (raiseVector0 s c).imgStore = s.imgStore := by simp [raiseVector0]
@[simp] theorem writeRecord_imgStore (c tag seq pass status flags op count value irq) :
    (writeRecord s c tag seq pass status flags op count value irq).imgStore = s.imgStore := by
  simp [writeRecord]
@[simp] theorem haltStream_imgStore (c reason) : (haltStream s c reason).imgStore = s.imgStore := by simp [haltStream]
@[simp] theorem consumePacket_imgStore (c pkt) : (consumePacket s c pkt).imgStore = s.imgStore := by simp [consumePacket]
@[simp] theorem takePackets_imgStore (c fuel) : (takePackets c fuel s).imgStore = s.imgStore := by
  induction fuel generalizing s with
  | zero => rfl
  | succ fuel ih =>
    simp only [takePackets]
    repeat' split
    all_goals simp [ih]

@[simp] theorem writeEntries_imgStore (k es) : (writeEntries s k es).imgStore = s.imgStore := by simp [writeEntries]

/-! ### Pages -/

@[simp] theorem modPage_imgStore (h i f) : (modPage s h i f).imgStore = s.imgStore := (rfl)
theorem allocPage_imgStore {h p u} (hu : allocPage s h p = some u) : u.1.imgStore = s.imgStore := by
  simp only [allocPage] at hu
  split at hu
  · cases hu
    simp
  · cases hu

@[simp] theorem spoilLine_imgStore (h a) : (spoilLine s h a).imgStore = s.imgStore := (rfl)
@[simp] theorem cleanLines_imgStore (h a n) : (cleanLines s h a n).imgStore = s.imgStore := (rfl)
@[simp] theorem spoilLines_imgStore (h a n) : (spoilLines s h a n).imgStore = s.imgStore := by simp [spoilLines]
@[simp] theorem releasePage_imgStore (h i) : (releasePage s h i).imgStore = s.imgStore := by simp [releasePage]
@[simp] theorem releaseAll_imgStore (x) : (releaseAll s x).imgStore = s.imgStore := by
  unfold releaseAll
  split <;> simp

theorem cowCopy_imgStore {x h g k i u} (hu : cowCopy s x h g k i = some u) : u.imgStore = s.imgStore := by
  simp only [cowCopy] at hu
  split at hu
  · cases hu
  · next h => cases hu; simp [allocPage_imgStore _ h]

theorem needPage_imgStore {handle g grp k u} (hu : needPage s handle g grp k = some u) : u.imgStore = s.imgStore := by
  simp only [needPage] at hu
  split at hu
  · cases hu; rfl
  · split at hu
    · split at hu
      · exact cowCopy_imgStore s hu
      · cases hu; rfl
    · split at hu
      · cases hu
      · next h => cases hu; simp [allocPage_imgStore _ h]

theorem foldOpt_imgStore {α : Type} {f : State → α → Option State} (hf : ∀ t x u, f t x = some u → u.imgStore = t.imgStore) {l : List α} {s u : State}
    (hu : foldOpt f s l = some u) : u.imgStore = s.imgStore := by
  induction l generalizing s with
  | nil => cases hu; rfl
  | cons x xs ih =>
    simp only [foldOpt] at hu
    split at hu
    · cases hu
    · next ht => rw [ih hu, hf _ _ _ ht]

theorem growSession_imgStore {handle count u} (hu : growSession s handle count = some u) : u.imgStore = s.imgStore := by
  simp only [growSession] at hu
  split at hu
  · cases hu; rfl
  · exact foldOpt_imgStore (fun _ _ _ => foldOpt_imgStore fun _ _ _ => needPage_imgStore _) hu

theorem reserveExtent_imgStore {x u} (hu : reserveExtent s x = some u) : u.imgStore = s.imgStore := by
  obtain ⟨a, -, rfl⟩ := Option.map_eq_some_iff.1 hu
  simp

theorem chooseVictims_imgStore {enough ghost xs chosen u} (hu : chooseVictims enough s ghost xs chosen = some u) : u.1.imgStore = s.imgStore := by
  induction xs generalizing s ghost chosen with
  | nil => cases hu
  | cons x xs ih =>
    simp only [chooseVictims] at hu
    split at hu
    · exact ih _ hu
    · next h =>
      rw [← reserveExtent_imgStore _ h]
      split at hu
      · cases hu; rfl
      · exact ih _ hu

theorem selectVictims_imgStore {handle skip enough u} (hu : selectVictims s handle skip enough = some u) : u.1.imgStore = s.imgStore := by
  simp only [selectVictims] at hu
  split at hu
  · cases hu
  · exact chooseVictims_imgStore _ hu

@[simp] theorem startSwapOut_imgStore (h stream seq forCmd) : (startSwapOut s h stream seq forCmd).imgStore = s.imgStore := (rfl)
@[simp] theorem hbmWrite_imgStore (h a bs) : (hbmWrite s h a bs).imgStore = s.imgStore := (rfl)
@[simp] theorem giveUpReturn_imgStore (x) : (giveUpReturn s x).imgStore = s.imgStore := by simp [giveUpReturn]
@[simp] theorem closeSession_imgStore (h) : (closeSession s h).imgStore = s.imgStore := by
  unfold closeSession
  split <;> simp

@[simp] theorem killSession_imgStore (h status) : (killSession s h status).imgStore = s.imgStore := (rfl)

/-! ### Intake -/

@[simp] theorem arrive_imgStore (c off bytes) : (arrive s c off bytes).imgStore = s.imgStore := by simp [arrive]
@[simp] theorem execPacketBlockWrite_keepsStore (stream viaStandby off bytes) : KeepsStore s (execPacketBlockWrite stream viaStandby off bytes s) := by
  simp [execPacketBlockWrite]
@[simp] theorem execStallTimeout_keepsStore (stream) : KeepsStore s (execStallTimeout stream s) := by simp [execStallTimeout]
@[simp] theorem execResync_keepsStore (stream viaStandby value) : KeepsStore s (execResync stream viaStandby value s) := by simp [execResync]
@[simp] theorem execRingEnable_keepsStore (stream viaStandby value) : KeepsStore s (execRingEnable stream viaStandby value s) := by
  simp [execRingEnable]
@[simp] theorem execIrqModerationTimeout_keepsStore (stream) : KeepsStore s (execIrqModerationTimeout stream s) := by
  simp [execIrqModerationTimeout]
@[simp] theorem execCommandBegin_keepsStore : KeepsStore s (execCommandBegin s) := by
  unfold execCommandBegin
  repeat' split
  all_goals simp

@[simp] theorem sealCmd_imgStore (k) : (sealCmd s k).imgStore = s.imgStore := by simp [sealCmd]
@[simp] theorem releaseAborts_imgStore (k) : (releaseAborts s k).imgStore = s.imgStore := by simp [releaseAborts]
@[simp] theorem execCommandSeal_keepsStore (stream seq) : KeepsStore s (execCommandSeal stream seq s) := by
  unfold execCommandSeal
  split <;> simp

@[simp] theorem execSessionOpen_keepsStore (stream seq) : KeepsStore s (execSessionOpen stream seq s) := by
  unfold execSessionOpen
  split <;> simp

@[simp] theorem execSessionClose_keepsStore (stream seq) : KeepsStore s (execSessionClose stream seq s) := by
  simp only [execSessionClose]
  repeat' split
  all_goals simp

@[simp] theorem execTokensCmd_keepsStore (stream seq f) : KeepsStore s (execTokensCmd stream seq f s) := by
  unfold execTokensCmd
  repeat' split
  all_goals simp

@[simp] theorem execStepCmd_keepsStore (stream seq) : KeepsStore s (execStepCmd stream seq s) := by
  unfold execStepCmd
  split <;> simp

@[simp] theorem execRecipeSet_keepsStore (stream seq) : KeepsStore s (execRecipeSet stream seq s) := by
  unfold execRecipeSet
  split <;> simp

@[simp] theorem execPriorityChange_keepsStore (stream seq) : KeepsStore s (execPriorityChange stream seq s) := by
  unfold execPriorityChange
  split <;> simp

@[simp] theorem stopReturns_imgStore (k) : (stopReturns s k).imgStore = s.imgStore := by
  refine foldl_imgStore (fun t x => ?_) _ s
  split <;> simp

@[simp] theorem stopTarget_imgStore (k) : (stopTarget s k).imgStore = s.imgStore := by simp [stopTarget]
@[simp] theorem freeScratch_imgStore (r) : (freeScratch s r).imgStore = s.imgStore := (rfl)
@[simp] theorem endRun_imgStore (stream seq) : (endRun s stream seq).imgStore = s.imgStore := by simp [endRun]
@[simp] theorem execAbortCmd_keepsStore (stream seq) : KeepsStore s (execAbortCmd stream seq s) := by
  simp only [execAbortCmd]
  repeat' split
  all_goals simp

@[simp] theorem execFenceCmd_keepsStore (stream seq) : KeepsStore s (execFenceCmd stream seq s) := by
  unfold execFenceCmd
  split <;> simp

/-! ### Signatures -/

@[simp] theorem fsrEmit_imgStore (kind keys) : (fsrEmit s kind keys).imgStore = s.imgStore := (rfl)
@[simp] theorem poisonNoted_imgStore (obj) : (poisonNoted obj s).imgStore = s.imgStore := by simp [poisonNoted]
@[simp] theorem shelfFsr_imgStore (shelf) : (shelfFsr s shelf).imgStore = s.imgStore := (rfl)
@[simp] theorem hallFsr_imgStore (hall region) : (hallFsr s hall region).imgStore = s.imgStore := (rfl)
@[simp] theorem poisonOrigin_imgStore (shelf) : (poisonOrigin s shelf).imgStore = s.imgStore := by simp [poisonOrigin]
@[simp] theorem poisonHbm_imgStore (hall region) : (poisonHbm s hall region).imgStore = s.imgStore := by simp [poisonHbm]

/-! ### Sessions and comets -/

@[simp] theorem forkPages_imgStore (parent child n) : (forkPages s parent child n).imgStore = s.imgStore := by
  unfold forkPages
  split <;> simp

@[simp] theorem execPageFork_keepsStore (stream seq) : KeepsStore s (execPageFork stream seq s) := by
  unfold execPageFork
  split <;> simp

@[simp] theorem keepPages_imgStore (x keep) : (keepPages s x keep).imgStore = s.imgStore := by simp [keepPages]
@[simp] theorem execPageRelease_keepsStore (stream seq) : KeepsStore s (execPageRelease stream seq s) := by
  unfold execPageRelease
  repeat' split
  all_goals simp

@[simp] theorem addEntry_imgStore (k e) : (addEntry s k e).imgStore = s.imgStore := by simp [addEntry]
@[simp] theorem refuseSession_imgStore (k h status) : (refuseSession s k h status).imgStore = s.imgStore := by simp [refuseSession]
@[simp] theorem refuseWaiters_imgStore (h status) : (refuseWaiters s h status).imgStore = s.imgStore := by simp [refuseWaiters]
@[simp] theorem swapRecord_imgStore (x step cause) : (swapRecord s x step cause).imgStore = s.imgStore := by simp [swapRecord]
@[simp] theorem swapFailed_imgStore (x step cause) : (swapFailed s x step cause).imgStore = s.imgStore := by simp [swapFailed]
@[simp] theorem becomeComet_imgStore (x) : (becomeComet s x).imgStore = s.imgStore := by simp [becomeComet]
@[simp] theorem execSwapOut_keepsStore (stream seq) : KeepsStore s (execSwapOut stream seq s) := by
  simp only [execSwapOut, keepsStore_next]
  split
  · rfl
  · split
    · simp
    · repeat' split
      all_goals try simp
      next h => exact reserveExtent_imgStore _ h

@[simp] theorem execSwapOutFlushReadDone_keepsStore (session f) : KeepsStore s (execSwapOutFlushReadDone session f s) := by
  unfold execSwapOutFlushReadDone
  repeat' split
  all_goals simp

@[simp] theorem execSwapOutColophonReadDone_keepsStore (session f) : KeepsStore s (execSwapOutColophonReadDone session f s) := by
  unfold execSwapOutColophonReadDone
  split <;> simp

@[simp] theorem failSwaps_imgStore : (failSwaps s).imgStore = s.imgStore := by simp [failSwaps]
@[simp] theorem startReturn_imgStore (h) : (startReturn s h).imgStore = s.imgStore := (rfl)
@[simp] theorem execSwapIn_keepsStore (stream seq) : KeepsStore s (execSwapIn stream seq s) := by
  unfold execSwapIn
  repeat' split
  all_goals simp

theorem allocReturn_imgStore {x u} (hu : allocReturn s x = some u) : u.imgStore = s.imgStore := by
  refine foldOpt_imgStore (fun t q u hu => ?_) hu
  obtain ⟨r, hr, rfl⟩ := Option.map_eq_some_iff.1 hu
  simp [allocPage_imgStore _ hr]

@[simp] theorem returnDies_imgStore (x step cause) : (returnDies s x step cause).imgStore = s.imgStore := by simp [returnDies]
@[simp] theorem returnFails_imgStore (x) : (returnFails s x).imgStore = s.imgStore := by simp [returnFails]
@[simp] theorem returnReadFailed_imgStore (x cause) : (returnReadFailed s x cause).imgStore = s.imgStore := by simp [returnReadFailed]
@[simp] theorem restorePage_imgStore (h p data) : (restorePage s h p data).imgStore = s.imgStore := by
  unfold restorePage
  split <;> simp

@[simp] theorem restoreBody_imgStore (x b) : (restoreBody s x b).imgStore = s.imgStore := by simp [restoreBody]
@[simp] theorem becomeResident_imgStore (x) : (becomeResident s x).imgStore = s.imgStore := by simp [becomeResident]
@[simp] theorem colophonRead_imgStore (x b) : (colophonRead s x b).imgStore = s.imgStore := by
  simp only [colophonRead]
  split
  · simp
  · split
    · next h => simp [allocReturn_imgStore _ h]
    · split
      · rfl
      · split
        · next h _ => simp [selectVictims_imgStore _ h]
        · simp

@[simp] theorem execCometReturnReadDone_keepsStore (session f) : KeepsStore s (execCometReturnReadDone session f s) := by
  unfold execCometReturnReadDone
  repeat' split
  all_goals simp

@[simp] theorem execCompletionTimeout_keepsStore (session) : KeepsStore s (execCompletionTimeout session s) := by
  unfold execCompletionTimeout
  split <;> simp

@[simp] theorem poisonPage_imgStore (h e) : (poisonPage s h e).imgStore = s.imgStore := by simp [poisonPage]
@[simp] theorem spoilTables_imgStore (hall line) : (spoilTables s hall line).imgStore = s.imgStore := by simp [spoilTables]
@[simp] theorem keepFinding_imgStore (line) : (keepFinding line s).imgStore = s.imgStore := (rfl)
@[simp] theorem execPatrolScrub_keepsStore (hall addr) : KeepsStore s (execPatrolScrub hall addr s) := by
  simp only [execPatrolScrub]
  repeat' split
  all_goals simp

/-! ### Folios -/

@[simp] theorem putKhat_imgStore (k xs) : (putKhat s k xs).imgStore = s.imgStore := (rfl)
@[simp] theorem putOffs_imgStore (k xs) : (putOffs s k xs).imgStore = s.imgStore := (rfl)
@[simp] theorem restartWindow_imgStore (k) : (restartWindow s k).imgStore = s.imgStore := (rfl)
@[simp] theorem switchBank_imgStore (k) : (switchBank s k).imgStore = s.imgStore := (rfl)
@[simp] theorem modLedger_imgStore (shelf c f) : (modLedger s shelf c f).imgStore = s.imgStore := (rfl)
@[simp] theorem countWindow_imgStore (key p b rows cs) : (countWindow s key p b rows cs).imgStore = s.imgStore := by simp [countWindow]
@[simp] theorem countSat_imgStore (key region layer cs) : (countSat s key region layer cs).imgStore = s.imgStore := by simp [countSat]

/-! ### Faults -/

@[simp] theorem fsr_imgStore (kind region keys) : (fsr s kind region keys).imgStore = s.imgStore := (rfl)
@[simp] theorem detectRecord_imgStore (obj code a1 a2) : (detectRecord s obj code a1 a2).imgStore = s.imgStore := by simp [detectRecord]
@[simp] theorem taintReport_imgStore (t last final action) : (taintReport s t last final action).imgStore = s.imgStore := by simp [taintReport]
@[simp] theorem openTaint_imgStore (t) : (openTaint s t).imgStore = s.imgStore := by simp [openTaint]
@[simp] theorem endTaints_imgStore (p last action) : (endTaints s p last action).imgStore = s.imgStore := by simp [endTaints]
@[simp] theorem modRotation_imgStore (h f) : (modRotation s h f).imgStore = s.imgStore := (rfl)
@[simp] theorem proveFirst_imgStore (h units) : (proveFirst s h units).imgStore = s.imgStore := (rfl)
@[simp] theorem sendDetection_imgStore (cls region stage first last) : (sendDetection s cls region stage first last).imgStore = s.imgStore := by
  simp only [sendDetection]
  repeat' split
  all_goals simp

@[simp] theorem announce_imgStore (cls region stage start) : (announce s cls region stage start).imgStore = s.imgStore := by simp [announce]
@[simp] theorem noteDetection_imgStore (h region stage bit) : (noteDetection s h region stage bit).imgStore = s.imgStore := by
  unfold noteDetection
  split <;> simp

/-! ### Adapters -/

@[simp] theorem modLoan_imgStore (c a f) : (modLoan s c a f).imgStore = s.imgStore := (rfl)
theorem makeLoanRoom_imgStore {c need fuel u} (hu : makeLoanRoom c need fuel s = some u) : u.imgStore = s.imgStore := by
  induction fuel generalizing s with
  | zero => cases hu
  | succ fuel ih =>
    simp only [makeLoanRoom] at hu
    repeat' split at hu
    · cases hu; rfl
    · cases hu
    · simpa using ih _ hu

@[simp] theorem holdLoan_imgStore (region c a) : (holdLoan s region c a).imgStore = s.imgStore := by
  -- The free pages are named, not computed: the kernel would evaluate the whole page table.
  obtain ⟨home, hhome⟩ : ∃ home, homePages = home := ⟨_, rfl⟩
  rw [holdLoan, hhome]
  split
  · rfl
  · split
    · rfl
    · split
      · rfl
      · next hroom =>
        repeat' split
        · rfl
        · rfl
        · rw [modLoan_imgStore, makeLoanRoom_imgStore _ hroom]

@[simp] theorem askStages_imgStore (region c a want) : (askStages s region c a want).imgStore = s.imgStore := by simp [askStages]
@[simp] theorem modStage_imgStore (c a st f) : (modStage s c a st f).imgStore = s.imgStore := (rfl)
@[simp] theorem issueOn_imgStore (fn) : (issueOn fn s).imgStore = s.imgStore := by
  unfold issueOn
  repeat' split
  all_goals simp

@[simp] theorem issueFetches_imgStore : (issueFetches s).imgStore = s.imgStore := by simp [issueFetches]
@[simp] theorem rerouteLoans_imgStore : (rerouteLoans s).imgStore = s.imgStore := (rfl)
@[simp] theorem retryLoans_imgStore : (retryLoans s).imgStore = s.imgStore := by
  refine (issueFetches_imgStore _).trans (foldl_imgStore (fun t l => ?_) _ _)
  split <;> simp

@[simp] theorem setBinding_imgStore (h b) : (setBinding s h b).imgStore = s.imgStore := (rfl)
@[simp] theorem sweepLoans_imgStore : (sweepLoans s).imgStore = s.imgStore := by simp [sweepLoans]
@[simp] theorem execAdapterBind_keepsStore (stream seq f) : KeepsStore s (execAdapterBind stream seq f s) := by
  simp only [execAdapterBind]
  repeat' split
  all_goals simp

@[simp] theorem finishWaits_imgStore (c a) : (finishWaits s c a).imgStore = s.imgStore := by simp [finishWaits]
@[simp] theorem execAdapterFetchComplete_keepsStore (carrel adapter stage f) : KeepsStore s (execAdapterFetchComplete carrel adapter stage f s) := by
  unfold execAdapterFetchComplete
  repeat' split
  all_goals simp

@[simp] theorem askLayer_imgStore (p layer) : (askLayer s p layer).imgStore = s.imgStore := by
  refine (issueFetches_imgStore _).trans (foldl_imgStore (fun t h => ?_) _ _)
  split <;> simp

@[simp] theorem useLoans_imgStore (p) : (useLoans s p).imgStore = s.imgStore := by
  refine foldl_imgStore (fun t x => ?_) _ s
  split <;> simp

@[simp] theorem undoMark_imgStore (m) : (undoMark s m).imgStore = s.imgStore := (rfl)
@[simp] theorem dropLate_imgStore (r layer h) : (dropLate s r layer h).imgStore = s.imgStore := by simp [dropLate]

/-! ### Passes -/

@[simp] theorem countOutliers_imgStore (p x) : (countOutliers s p x).imgStore = s.imgStore := (rfl)
@[simp] theorem modScribe_imgStore (shelf f) : (modScribe s shelf f).imgStore = s.imgStore := (rfl)
@[simp] theorem readyJob_imgStore (shelf j) : (readyJob s shelf j).imgStore = s.imgStore := by
  unfold readyJob
  split <;> simp

@[simp] theorem readyStage_imgStore (p st) : (readyStage s p st).imgStore = s.imgStore := by simp [readyStage]
@[simp] theorem readySample_imgStore (p st) : (readySample s p st).imgStore = s.imgStore := by simp [readySample]
@[simp] theorem dropUnready_imgStore (r layer) : (dropUnready s r layer).imgStore = s.imgStore := by
  unfold dropUnready
  split <;> simp

@[simp] theorem modTile_imgStore (shelf t f) : (modTile s shelf t f).imgStore = s.imgStore := (rfl)
@[simp] theorem modHall_imgStore (h f) : (modHall s h f).imgStore = s.imgStore := (rfl)
@[simp] theorem showPeriod_imgStore (h floor) : (showPeriod s h floor).imgStore = s.imgStore := (rfl)
@[simp] theorem countLocal_imgStore (p shelf c slot key v rows cs) : (countLocal s p shelf c slot key v rows cs).imgStore = s.imgStore := by
  simp [countLocal]
@[simp] theorem switchAtVector_imgStore (x key v) : (switchAtVector s x key v).imgStore = s.imgStore := by simp [switchAtVector]
@[simp] theorem strikeOne_imgStore (p x b shelf slot key) : (strikeOne s p x b shelf slot key).imgStore = s.imgStore := by
  unfold strikeOne
  split <;> simp

@[simp] theorem execStrike_keepsStore (shelf pos) : KeepsStore s (execStrike shelf pos s) := by
  simp only [execStrike]
  repeat' split
  all_goals simp

/-! ### Collectives -/

@[simp] theorem putColl_imgStore (c) : (putColl s c).imgStore = s.imgStore := (rfl)
@[simp] theorem sendFragment_imgStore (n tag src f) : (sendFragment s n tag src f).imgStore = s.imgStore := by simp [sendFragment]
@[simp] theorem sendRuns_imgStore (ports tag runs) : (sendRuns s ports tag runs).imgStore = s.imgStore := by simp [sendRuns]
@[simp] theorem sendMembers_imgStore (ms tag runs) : (sendMembers s ms tag runs).imgStore = s.imgStore := by simp [sendMembers]
@[simp] theorem putOut_imgStore (r st q v ys) : (putOut s r st q v ys).imgStore = s.imgStore := (rfl)
@[simp] theorem completeColl_imgStore (c) : (completeColl s c).imgStore = s.imgStore := by simp [completeColl]
@[simp] theorem putOuts_imgStore (p st adapt ys) : (putOuts s p st adapt ys).1.imgStore = s.imgStore := by simp [putOuts]
@[simp] theorem reduceStep_imgStore (p st mask c0) : (reduceStep s p st mask c0).imgStore = s.imgStore := by
  simp only [reduceStep]
  repeat' split
  all_goals simp

@[simp] theorem gatherStep_imgStore (p st mask c) : (gatherStep s p st mask c).imgStore = s.imgStore := by
  simp only [gatherStep]
  split <;> simp

@[simp] theorem transitOutStep_imgStore (p st mask c) : (transitOutStep s p st mask c).imgStore = s.imgStore := by
  unfold transitOutStep
  repeat' split
  all_goals simp

@[simp] theorem transitInStep_imgStore (p c) : (transitInStep s p c).imgStore = s.imgStore := by simp [transitInStep]
@[simp] theorem syncPass_imgStore (r) : (syncPass s r).imgStore = s.imgStore := by
  simp only [syncPass]
  split
  · rfl
  · split
    · rfl
    · split
      · simp
      · refine (foldl_imgStore (fun t e => ?_) _ _).trans (by simp)
        repeat' split
        all_goals simp

@[simp] theorem fragArrive_imgStore (tag src off xs) : (fragArrive s tag src off xs).imgStore = s.imgStore := by simp [fragArrive]
@[simp] theorem execCollectiveTimeout_keepsStore (tag) : KeepsStore s (execCollectiveTimeout tag s) := by
  unfold execCollectiveTimeout
  split <;> simp

/-! ### Trees -/

@[simp] theorem execLayerBegin_keepsStore (region bad) : KeepsStore s (execLayerBegin region bad s) := by
  simp only [execLayerBegin]
  repeat' split
  all_goals simp

@[simp] theorem execHoldBudgetExhausted_keepsStore (region) : KeepsStore s (execHoldBudgetExhausted region s) := by
  unfold execHoldBudgetExhausted
  repeat' split
  all_goals simp

@[simp] theorem settleOut_imgStore (r st q v) : (settleOut s r st q v).imgStore = s.imgStore := by
  unfold settleOut
  repeat' split
  all_goals simp

@[simp] theorem settleStage_imgStore (r st) : (settleStage s r st).imgStore = s.imgStore := by
  simp only [settleStage]
  split
  · rfl
  · refine foldl_imgStore (fun t x => ?_) _ _
    split <;> simp

@[simp] theorem archiveError_imgStore (r shelf) : (archiveError s r shelf).imgStore = s.imgStore := by simp [archiveError]
@[simp] theorem exitToTile_imgStore (carrel shelf into l) : (exitToTile s carrel shelf into l).imgStore = s.imgStore := by
  unfold exitToTile
  split <;> simp

@[simp] theorem execShelfExit_keepsStore (shelf c w) : KeepsStore s (execShelfExit shelf c w s) := by
  unfold execShelfExit
  repeat' split
  all_goals simp

@[simp] theorem putNode_imgStore (r key ys) : (putNode s r key ys).imgStore = s.imgStore := (rfl)
@[simp] theorem execReductionAdd_keepsStore (region stage group vec hall level i) :
    KeepsStore s (execReductionAdd region stage group vec hall level i s) := by
  unfold execReductionAdd
  repeat' split
  all_goals simp

@[simp] theorem execWideMerge_keepsStore (region stage group vec) : KeepsStore s (execWideMerge region stage group vec s) := by
  unfold execWideMerge
  repeat' split
  all_goals simp

/-! ### How a pass begins -/

@[simp] theorem takeNumber_imgStore (c) : (takeNumber s c).2.imgStore = s.imgStore := (rfl)
@[simp] theorem openPass_imgStore (r stream cmd number passId hs vecs) : (openPass s r stream cmd number passId hs vecs).imgStore = s.imgStore := by
  simp [openPass]
@[simp] theorem launch_imgStore (k r hs) : (launch s k r hs).imgStore = s.imgStore := by simp [launch]
@[simp] theorem refuseUnfit_imgStore (c seq hs) : (refuseUnfit s c seq hs).imgStore = s.imgStore := by
  refine foldl_imgStore (fun t h => ?_) _ _
  repeat' split
  all_goals simp

@[simp] theorem growAll_imgStore (c seq hs) : (growAll s c seq hs).1.imgStore = s.imgStore := by
  induction hs generalizing s with
  | nil => rfl
  | cons h hs ih =>
    simp only [growAll]
    split
    · rfl
    · split
      · next h => rw [ih, growSession_imgStore _ h]
      · split
        · next h => simp [selectVictims_imgStore _ h]
        · simp [ih]

/-! ### Orbits -/

@[simp] theorem popFlit_imgStore (n vc) : (popFlit s n vc).imgStore = s.imgStore := by
  unfold popFlit
  split <;> simp

theorem onMsg_keepsStore (n typ op) {f : State → Nat → Bytes → State} (hf : ∀ t m b, (f t m b).imgStore = t.imgStore) :
    KeepsStore s (onMsg s n typ op f) := by
  simp only [onMsg, keepsStore_next]
  repeat' split
  all_goals simp [hf]

@[simp] theorem setOrbState_imgStore (x) : (setOrbState s x).imgStore = s.imgStore := (rfl)
@[simp] theorem refreshOnline_imgStore : (refreshOnline s).imgStore = s.imgStore := (rfl)
@[simp] theorem orbitDeaths_imgStore (p) : (orbitDeaths s p).imgStore = s.imgStore := by simp [orbitDeaths]
@[simp] theorem setHeir_imgStore (h) : (setHeir s h).imgStore = s.imgStore := by
  unfold setHeir
  split <;> simp

@[simp] theorem setAdmitted_imgStore (m) : (setAdmitted s m).imgStore = s.imgStore := by simp [setAdmitted]
@[simp] theorem isolate_imgStore : (isolate s).imgStore = s.imgStore := by simp [isolate]
@[simp] theorem sendJoin_imgStore (n) : (sendJoin s n).imgStore = s.imgStore := by simp [sendJoin]
@[simp] theorem admitPort_imgStore (n) : (admitPort s n).imgStore = s.imgStore := by
  unfold admitPort
  split <;> simp

@[simp] theorem admitMoons_imgStore : (admitMoons s).imgStore = s.imgStore := by
  refine foldl_imgStore (fun t x => ?_) _ s
  split <;> simp

@[simp] theorem seekAdmission_imgStore (n) : (seekAdmission s n).imgStore = s.imgStore := by simp [seekAdmission]
@[simp] theorem sendAdmit_imgStore (n) : (sendAdmit s n).imgStore = s.imgStore := by simp [sendAdmit]
@[simp] theorem refuseRecord_imgStore (n reason) : (refuseRecord s n reason).imgStore = s.imgStore := by simp [refuseRecord]
@[simp] theorem execJoinMsg_keepsStore (port) : KeepsStore s (execJoinMsg port s) := by
  refine onMsg_keepsStore _ _ _ _ fun t m b => ?_
  dsimp only
  split <;> simp

@[simp] theorem compareHeir_imgStore (h n) : (compareHeir s h n).imgStore = s.imgStore := by simp [compareHeir]
@[simp] theorem rebindHeir_imgStore : (rebindHeir s).imgStore = s.imgStore := by simp [rebindHeir]
@[simp] theorem takeHeir_imgStore (h n) : (takeHeir s h n).imgStore = s.imgStore := by simp [takeHeir]
@[simp] theorem execAdmitMsg_keepsStore (port) : KeepsStore s (execAdmitMsg port s) := onMsg_keepsStore _ _ _ _ fun t m b => by simp
@[simp] theorem execRefuseMsg_keepsStore (port) : KeepsStore s (execRefuseMsg port s) := onMsg_keepsStore _ _ _ _ fun t m b => by simp
@[simp] theorem execOrbitRejoin_keepsStore : KeepsStore s (execOrbitRejoin s) := by simp [execOrbitRejoin]
@[simp] theorem modOrb_imgStore (id r f) : (modOrb s id r f).imgStore = s.imgStore := (rfl)
@[simp] theorem growShare_imgStore (hs) : (growShare s hs).1.imgStore = s.imgStore := by
  refine foldl_fst_imgStore (fun p x => ?_) _ _
  split
  · rfl
  · split
    · rfl
    · split
      · next h => exact growSession_imgStore _ h
      · rfl

@[simp] theorem beginShare_imgStore (x) : (beginShare s x).imgStore = s.imgStore := by simp [beginShare]
@[simp] theorem nextShare_imgStore (r) : (nextShare s r).imgStore = s.imgStore := by
  unfold nextShare
  repeat' split
  all_goals simp

@[simp] theorem releaseShares_imgStore : (releaseShares s).imgStore = s.imgStore := by simp [releaseShares]
@[simp] theorem takeDispatch_imgStore (tokens b) : (takeDispatch s tokens b).imgStore = s.imgStore := by
  simp only [takeDispatch]
  repeat' split
  all_goals simp

@[simp] theorem execDispatchMsg_keepsStore (port tokens) : KeepsStore s (execDispatchMsg port tokens s) := onMsg_keepsStore _ _ _ _ fun t m b => by simp
@[simp] theorem execDoneMsg_keepsStore (port) : KeepsStore s (execDoneMsg port s) := by
  refine onMsg_keepsStore _ _ _ _ fun t m b => ?_
  dsimp only
  split <;> simp

@[simp] theorem sendUp_imgStore (body) : (sendUp s body).imgStore = s.imgStore := by
  unfold sendUp
  split <;> simp

@[simp] theorem execResultMsg_keepsStore (port) : KeepsStore s (execResultMsg port s) := by
  refine onMsg_keepsStore _ _ _ _ fun t m b => ?_
  dsimp only
  repeat' split
  all_goals simp

@[simp] theorem sendDone_imgStore (x) : (sendDone s x).imgStore = s.imgStore := by simp [sendDone]
@[simp] theorem sendResults_imgStore (id es) : (sendResults s id es).imgStore = s.imgStore := by simp [sendResults]
@[simp] theorem toMembers_imgStore (mask body) : (toMembers s mask body).imgStore = s.imgStore := by simp [toMembers]
@[simp] theorem dropMember_imgStore (m mask) : (dropMember s m mask).imgStore = s.imgStore := by simp [dropMember]
@[simp] theorem primaryLoses_imgStore (m) : (primaryLoses s m).imgStore = s.imgStore := by simp [primaryLoses]
@[simp] theorem moonLosesPrimary_imgStore : (moonLosesPrimary s).imgStore = s.imgStore := by simp [moonLosesPrimary]
@[simp] theorem memberLost_imgStore (m) : (memberLost s m).imgStore = s.imgStore := by simp [memberLost]
@[simp] theorem portLost_imgStore (n) : (portLost s n).imgStore = s.imgStore := by
  unfold portLost
  repeat' split
  all_goals simp

@[simp] theorem lossReported_imgStore (src p) : (lossReported s src p).imgStore = s.imgStore := by simp [lossReported]
@[simp] theorem execHeirConfirmTimeout_keepsStore : KeepsStore s (execHeirConfirmTimeout s) := by simp [execHeirConfirmTimeout]
@[simp] theorem execTakeoverWaitTimeout_keepsStore : KeepsStore s (execTakeoverWaitTimeout s) := by simp [execTakeoverWaitTimeout]
@[simp] theorem follow_imgStore (rival quorum) : (follow s rival quorum).imgStore = s.imgStore := by simp [follow]
@[simp] theorem execRemoveMsg_keepsStore (port) : KeepsStore s (execRemoveMsg port s) := onMsg_keepsStore _ _ _ _ fun t m b => by simp
@[simp] theorem execTakeoverMsg_keepsStore (port) : KeepsStore s (execTakeoverMsg port s) := onMsg_keepsStore _ _ _ _ fun t m b => by simp
@[simp] theorem execLeave_keepsStore : KeepsStore s (execLeave s) := by simp [execLeave]
@[simp] theorem execPaceMsg_keepsStore (port) : KeepsStore s (execPaceMsg port s) := by
  refine onMsg_keepsStore _ _ _ _ fun t m b => ?_
  dsimp only
  repeat' split
  all_goals simp

@[simp] theorem execReportMsg_keepsStore (port) : KeepsStore s (execReportMsg port s) := onMsg_keepsStore _ _ _ _ fun t m b => by simp
@[simp] theorem execLimitMsg_keepsStore (port) : KeepsStore s (execLimitMsg port s) := onMsg_keepsStore _ _ _ _ fun t m b => by simp
@[simp] theorem execReleaseMsg_keepsStore (port) : KeepsStore s (execReleaseMsg port s) := onMsg_keepsStore _ _ _ _ fun t m b => by simp
@[simp] theorem execLimitHoldExpiry_keepsStore : KeepsStore s (execLimitHoldExpiry s) := by simp [execLimitHoldExpiry]
@[simp] theorem execPowerReportTimer_keepsStore : KeepsStore s (execPowerReportTimer s) := by simp [execPowerReportTimer]

/-! ### Images -/

@[simp] theorem imgRecord_imgStore (code serial sec) : (imgRecord s code serial sec).imgStore = s.imgStore := by simp [imgRecord]
@[simp] theorem imgResult_imgStore (code serial sec) : (imgResult s code serial sec).imgStore = s.imgStore := by simp [imgResult]
@[simp] theorem imgRefuse_imgStore : (imgRefuse s).imgStore = s.imgStore := by simp [imgRefuse]
theorem imgCommand_imgStore (tag) {run : State → State} (hrun : ∀ t, (run t).imgStore = t.imgStore) :
    (imgCommand s tag run).imgStore = s.imgStore := by
  simp only [imgCommand]
  repeat' split
  all_goals simp [hrun]

@[simp] theorem showPending_imgStore : (showPending s).imgStore = s.imgStore := by
  unfold showPending
  split <;> simp

@[simp] theorem withStore_imgStore (st) : (withStore s st).imgStore = st := by rw [withStore, showPending_imgStore]; rfl
@[simp] theorem writePending_imgStore (b) :
    (writePending s b).imgStore = { putSlot s.imgStore (pendingIx s.imgStore) b with former := false } := withStore_imgStore ..
@[simp] theorem recordIgnored_imgStore (b) : (recordIgnored s b).imgStore = s.imgStore := by simp [recordIgnored]
@[simp] theorem bindRun_imgStore : (bindRun s).imgStore = s.imgStore := by
  unfold bindRun
  split <;> simp

@[simp] theorem execBind_keepsStore (tag) : KeepsStore s (execBind tag s) := by
  simp only [execBind, keepsStore_next]
  exact imgCommand_imgStore _ _ fun t => by simp

@[simp] theorem execRevert_keepsStore (tag) : KeepsStore s (execRevert tag s) := by
  simp only [execRevert, keepsStore_next]
  exact imgCommand_imgStore _ _ fun t => by simp

@[simp] theorem execQuiesceTimeout_keepsStore : KeepsStore s (execQuiesceTimeout s) := by
  unfold execQuiesceTimeout
  repeat' split
  all_goals simp

/-! ### Vigilance -/

@[simp] theorem modVig_imgStore (r f) : (modVig s r f).imgStore = s.imgStore := (rfl)
@[simp] theorem detectS_imgStore (c fails tol) : (detectS s c fails tol).imgStore = s.imgStore := by simp [detectS]
@[simp] theorem dropCheck_imgStore (c) : (dropCheck s c).imgStore = s.imgStore := (rfl)
@[simp] theorem discardCheck_imgStore (c) : (discardCheck s c).imgStore = s.imgStore := by simp [discardCheck]
@[simp] theorem poisonedEvent_imgStore (shelf region carrel passNo n) : (poisonedEvent s shelf region carrel passNo n).imgStore = s.imgStore := by
  simp [poisonedEvent]
@[simp] theorem completeCheck_imgStore (c fails tol bad) : (completeCheck s c fails tol bad).imgStore = s.imgStore := by simp [completeCheck]
@[simp] theorem execClassSCheckDiscard_keepsStore (region shelf) : KeepsStore s (execClassSCheckDiscard region shelf s) := by
  unfold execClassSCheckDiscard
  split <;> simp

@[simp] theorem execVigilanceClear_keepsStore (hall bits) : KeepsStore s (execVigilanceClear hall bits s) := by simp [execVigilanceClear]

/-! ### Programming -/

@[simp] theorem endRequest_imgStore (k) : (endRequest s k).imgStore = s.imgStore := by
  unfold endRequest
  split <;> simp

@[simp] theorem freeSpare_imgStore (k) : (freeSpare s k).imgStore = s.imgStore := (rfl)
@[simp] theorem dropSweep_imgStore (k) : (dropSweep s k).imgStore = s.imgStore := (rfl)
@[simp] theorem giveBack_imgStore (k) : (giveBack s k).imgStore = s.imgStore := by simp [giveBack]
@[simp] theorem forgetFolio_imgStore (k) : (forgetFolio s k).imgStore = s.imgStore := (rfl)
@[simp] theorem startProgram_imgStore (k region slot role e content p replaces) :
    (startProgram s k region slot role e content p replaces).imgStore = s.imgStore := by
  simp [startProgram]
@[simp] theorem startCopy_imgStore (k spare p) : (startCopy s k spare p).imgStore = s.imgStore := by simp [startCopy]
@[simp] theorem abandonCopy_imgStore (c) : (abandonCopy s c).imgStore = s.imgStore := by simp [abandonCopy]
@[simp] theorem modGain_imgStore (shelf c f) : (modGain s shelf c f).imgStore = s.imgStore := (rfl)
@[simp] theorem markFailed_imgStore (ks) : (markFailed s ks).imgStore = s.imgStore := by simp [markFailed]
@[simp] theorem deriveGain_imgStore (shelf c) : (deriveGain s shelf c).imgStore = s.imgStore := by simp [deriveGain]
@[simp] theorem deriveGains_imgStore (r) : (deriveGains s r).imgStore = s.imgStore := by simp [deriveGains]
@[simp] theorem enterServing_imgStore (k) : (enterServing s k).imgStore = s.imgStore := by simp [enterServing]

/-! ### Accession -/

@[simp] theorem accNote_imgStore (r code m) : (accNote s r code m).imgStore = s.imgStore := by simp [accNote]
@[simp] theorem accDone_imgStore (seq r code m) : (accDone s seq r code m).imgStore = s.imgStore := by simp [accDone]
@[simp] theorem armTimer_imgStore (r) : (armTimer s r).imgStore = s.imgStore := (rfl)
@[simp] theorem execAccBegin_keepsStore (seq f) : KeepsStore s (execAccBegin seq f s) := by
  simp only [execAccBegin]
  repeat' split
  all_goals simp

@[simp] theorem abandonIncoming_imgStore (r) : (abandonIncoming s r).imgStore = s.imgStore := by simp [abandonIncoming]
@[simp] theorem releaseAcc_imgStore (r code) : (releaseAcc s r code).imgStore = s.imgStore :=
  foldl_imgStore (fun t q => by simp) _ _

@[simp] theorem endAcc_imgStore (r code ph) : (endAcc s r code ph).imgStore = s.imgStore := by simp [endAcc]
@[simp] theorem failAcc_imgStore (r code told) : (failAcc s r code told).imgStore = s.imgStore := by simp [failAcc]
@[simp] theorem abandonRehousing_imgStore (r) : (abandonRehousing s r).imgStore = s.imgStore := by simp [abandonRehousing]
theorem moveTargets_imgStore {r named u} (hu : moveTargets s r named = some u) : u.imgStore = s.imgStore := by
  obtain ⟨x, -, rfl⟩ := Option.map_eq_some_iff.1 hu
  simp

@[simp] theorem retarget_imgStore (r k) : (retarget s r k).imgStore = s.imgStore := by
  simp only [retarget]
  split
  · simp
  · split
    · simp
    · split
      · next h =>
        split at h
        · cases h
        · obtain ⟨t, -, ht⟩ := Option.bind_eq_some_iff.1 h
          exact moveTargets_imgStore _ ht
      · simp

@[simp] theorem execAccShard_keepsStore (seq) : KeepsStore s (execAccShard seq s) := by
  simp only [execAccShard]
  repeat' split
  all_goals simp

@[simp] theorem shardVerified_imgStore (r i b) : (shardVerified s r i b).imgStore = s.imgStore := by simp [shardVerified]
@[simp] theorem execShardFetchComplete_keepsStore (region index f) : KeepsStore s (execShardFetchComplete region index f s) := by
  simp only [execShardFetchComplete]
  repeat' split
  all_goals simp

@[simp] theorem execShardTimeout_keepsStore (region) : KeepsStore s (execShardTimeout region s) := by
  simp only [execShardTimeout, keepsStore_next]
  split
  · rfl
  · simp [-Option.foldl_toList]

@[simp] theorem execAccCommit_keepsStore (seq) : KeepsStore s (execAccCommit seq s) := by
  unfold execAccCommit
  split <;> simp

@[simp] theorem execAccCancel_keepsStore (seq) : KeepsStore s (execAccCancel seq s) := by
  unfold execAccCancel
  split <;> simp

@[simp] theorem flipAccession_imgStore (r) : (flipAccession s r).imgStore = s.imgStore := by
  simp [flipAccession, -Option.foldl_toList]

@[simp] theorem flipRehousing_imgStore (r) : (flipRehousing s r).imgStore = s.imgStore := by simp [flipRehousing]
@[simp] theorem execArchiveCopyFree_keepsStore (region) : KeepsStore s (execArchiveCopyFree region s) := by
  unfold execArchiveCopyFree
  split <;> simp

@[simp] theorem programTarget_imgStore (r a t) : (programTarget s r a t).imgStore = s.imgStore := by
  unfold programTarget
  split <;> simp

@[simp] theorem execFolioProgramStart_keepsStore (hall) : KeepsStore s (execFolioProgramStart hall s) := by simp [execFolioProgramStart]
@[simp] theorem loseFolio_imgStore (k) : (loseFolio s k).imgStore = s.imgStore := by simp [loseFolio]
@[simp] theorem execFolioProgramDone_keepsStore (shelf pos cells) : KeepsStore s (execFolioProgramDone shelf pos cells s) := by
  simp [execFolioProgramDone]
@[simp] theorem execWearLevel_keepsStore (shelf pos) : KeepsStore s (execWearLevel shelf pos s) := by
  unfold execWearLevel
  split <;> simp

/-! ### Attention -/

@[simp] theorem buildTables_imgStore (hs) : (buildTables hs s).imgStore = s.imgStore := (rfl)
@[simp] theorem appendHead_imgStore (p x a isV pos kv head) : (appendHead s p x a isV pos kv head).imgStore = s.imgStore := by
  unfold appendHead
  split <;> simp

@[simp] theorem kvAppend_imgStore (r st h) : (kvAppend s r st h).imgStore = s.imgStore := by
  unfold kvAppend
  split <;> simp

@[simp] theorem finishAttn_imgStore (j) : (finishAttn s j).imgStore = s.imgStore := by
  unfold finishAttn
  repeat' split
  all_goals simp

@[simp] theorem execAttentionMerge_keepsStore (region stage session tile kv) : KeepsStore s (execAttentionMerge region stage session tile kv s) := by
  simp only [execAttentionMerge]
  repeat' split
  all_goals simp

/-! ### Power -/

@[simp] theorem learnPhase_imgStore (r tag h p u d) : (learnPhase s r tag h p u d).imgStore = s.imgStore := (rfl)
@[simp] theorem markThrottled_imgStore (h) : (markThrottled s h).imgStore = s.imgStore := (rfl)
@[simp] theorem showReasons_imgStore : (showReasons s).imgStore = s.imgStore := (rfl)
@[simp] theorem refreshHall_imgStore (h) : (refreshHall s h).imgStore = s.imgStore := by simp [refreshHall]
@[simp] theorem requestPoint_imgStore (h p) : (requestPoint s h p).imgStore = s.imgStore := by simp [requestPoint]
@[simp] theorem startQueued_imgStore (h) : (startQueued s h).imgStore = s.imgStore := by
  unfold startQueued
  split <;> simp

@[simp] theorem pointDone_imgStore (h) : (pointDone s h).imgStore = s.imgStore := (rfl)
@[simp] theorem execVoltageSlewDone_keepsStore (hall) : KeepsStore s (execVoltageSlewDone hall s) := by simp [execVoltageSlewDone]
@[simp] theorem execPllRelockDone_keepsStore (hall) : KeepsStore s (execPllRelockDone hall s) := by simp [execPllRelockDone]
@[simp] theorem cutAll_imgStore : (cutAll s).imgStore = s.imgStore := by simp [cutAll]
@[simp] theorem brokerHall_imgStore (m h) : (brokerHall s m h).imgStore = s.imgStore := (rfl)
@[simp] theorem noteBinding_imgStore (h) : (noteBinding s h).imgStore = s.imgStore := (rfl)
@[simp] theorem drivePoint_imgStore (h) : (drivePoint s h).imgStore = s.imgStore := by
  unfold drivePoint
  split <;> simp

@[simp] theorem noteExcursion_imgStore : (noteExcursion s).imgStore = s.imgStore := by simp [noteExcursion]
@[simp] theorem execBrokerCycle_keepsStore (m) : KeepsStore s (execBrokerCycle m s) := by simp [execBrokerCycle]
@[simp] theorem execExcursionCut_keepsStore : KeepsStore s (execExcursionCut s) := by simp [execExcursionCut]
@[simp] theorem execCapWrite_keepsStore (standby width value) : KeepsStore s (execCapWrite standby width value s) := by simp [execCapWrite]
@[simp] theorem execHintCmd_keepsStore (stream seq) : KeepsStore s (execHintCmd stream seq s) := by
  unfold execHintCmd
  split <;> simp

@[simp] theorem execHintWindowOpen_keepsStore (carrel region tag) : KeepsStore s (execHintWindowOpen carrel region tag s) := by
  simp [execHintWindowOpen]
@[simp] theorem execHintWindowEnd_keepsStore (carrel region tag) : KeepsStore s (execHintWindowEnd carrel region tag s) := by
  unfold execHintWindowEnd
  split <;> simp

@[simp] theorem showTemp_imgStore (h t) : (showTemp s h t).imgStore = s.imgStore := (rfl)
@[simp] theorem execThermalStep_keepsStore (hall measured) : KeepsStore s (execThermalStep hall measured s) := by simp [execThermalStep]
@[simp] theorem execDroopDetect_keepsStore (hall) : KeepsStore s (execDroopDetect hall s) := by simp [execDroopDetect]
@[simp] theorem execDroopClear_keepsStore (hall) : KeepsStore s (execDroopClear hall s) := by simp [execDroopClear]
@[simp] theorem execHourCount_keepsStore : KeepsStore s (execHourCount s) := by simp [execHourCount]

/-! ### Collation -/

@[simp] theorem countWide_imgStore (k) : (countWide s k).imgStore = s.imgStore := by
  unfold countWide
  split <;> simp

@[simp] theorem noteLimits_imgStore (k b) : (noteLimits s k b).imgStore = s.imgStore := by simp [noteLimits]
@[simp] theorem issueUpdate_imgStore (k gains offsets) : (issueUpdate s k gains offsets).imgStore = s.imgStore := by
  unfold issueUpdate
  split <;> simp

@[simp] theorem execTapUpdate_keepsStore (shelf pos gains offsets) : KeepsStore s (execTapUpdate shelf pos gains offsets s) := by
  simp [execTapUpdate]
@[simp] theorem execBankSwitch_keepsStore (shelf pos) : KeepsStore s (execBankSwitch shelf pos s) := by simp [execBankSwitch]
@[simp] theorem applyGain_imgStore (h c) : (applyGain s h c).imgStore = s.imgStore := (rfl)
@[simp] theorem applyCoupled_imgStore (r) : (applyCoupled s r).imgStore = s.imgStore := by simp [applyCoupled]
@[simp] theorem rescaleFolio_imgStore (k old new) : (rescaleFolio s k old new).imgStore = s.imgStore := by simp [rescaleFolio]
@[simp] theorem carryGain_imgStore (before after ks old new h c) : (carryGain before after ks old new s h c).imgStore = s.imgStore := by simp [carryGain]
@[simp] theorem rescaleRegion_imgStore (r h old new) : (rescaleRegion s r h old new).imgStore = s.imgStore := by simp [rescaleRegion]
@[simp] theorem keepFit_imgStore (k x khat offs temp) : (keepFit s k x khat offs temp).imgStore = s.imgStore := by simp [keepFit]
@[simp] theorem execPassiveWindowEnd_keepsStore (shelf pos power) : KeepsStore s (execPassiveWindowEnd shelf pos power s) := by
  simp [execPassiveWindowEnd]
@[simp] theorem engineStrike_imgStore (k rows) : (engineStrike s k rows).2.imgStore = s.imgStore := by simp [engineStrike]
@[simp] theorem execActiveSweep_keepsStore (shelf pos) : KeepsStore s (execActiveSweep shelf pos s) := by simp [execActiveSweep]
@[simp] theorem retrim_imgStore (k j target) : (retrim s k j target).imgStore = s.imgStore := (rfl)
@[simp] theorem momentsOf_imgStore (k b) : (momentsOf s k b).2.imgStore = s.imgStore := by simp [momentsOf]
@[simp] theorem recordMoments_imgStore (k) : (recordMoments s k).imgStore = s.imgStore := by
  unfold recordMoments
  split <;> simp

@[simp] theorem putAlpha_imgStore (k temp alpha) : (putAlpha s k temp alpha).imgStore = s.imgStore := by
  unfold putAlpha
  split <;> simp

@[simp] theorem collateFit_imgStore (k fits temp trims) : (collateFit s k fits temp trims).imgStore = s.imgStore := by simp [collateFit]
@[simp] theorem endSweepRequest_imgStore (k) : (endSweepRequest s k).imgStore = s.imgStore := by
  unfold endSweepRequest
  split <;> simp

@[simp] theorem execSweepFit_keepsStore (shelf pos trims targets alpha) : KeepsStore s (execSweepFit shelf pos trims targets alpha s) := by
  simp only [execSweepFit]
  split <;> simp

@[simp] theorem execTempSample_keepsStore (hall temp) : KeepsStore s (execTempSample hall temp s) := by simp [execTempSample]
@[simp] theorem writeCheckpoint_imgStore (nandOk) : (writeCheckpoint s nandOk).imgStore = s.imgStore := (rfl)
@[simp] theorem execTapCheckpointTimer_keepsStore (nandOk) : KeepsStore s (execTapCheckpointTimer nandOk s) := by simp [execTapCheckpointTimer]
@[simp] theorem deferArchive_imgStore (k act) : (deferArchive s k act).imgStore = s.imgStore := by simp [deferArchive]
@[simp] theorem undefer_imgStore (k) : (undefer s k).imgStore = s.imgStore := (rfl)
@[simp] theorem execDeepCollation_keepsStore (shelf pos) : KeepsStore s (execDeepCollation shelf pos s) := by
  unfold execDeepCollation
  split <;> simp

@[simp] theorem execDriftRefresh_keepsStore (shelf pos) : KeepsStore s (execDriftRefresh shelf pos s) := by
  simp only [execDriftRefresh]
  repeat' split
  all_goals simp

@[simp] theorem markRefresh_imgStore (k hours) : (markRefresh s k hours).imgStore = s.imgStore := by
  unfold markRefresh
  split <;> simp

@[simp] theorem checkDrift_imgStore (k) : (checkDrift s k).imgStore = s.imgStore := by simp [checkDrift]
@[simp] theorem hourOf_imgStore (temps k) : (hourOf temps s k).imgStore = s.imgStore := by simp [hourOf]
@[simp] theorem execDriftHourlyUpdate_keepsStore (temps) : KeepsStore s (execDriftHourlyUpdate temps s) := by simp [execDriftHourlyUpdate]
@[simp] theorem requestResult_imgStore (hall code) : (requestResult s hall code).imgStore = s.imgStore := (rfl)
theorem request_imgStore (hall tag cmd fault) {accept : State → Nat → State} (haccept : ∀ t k, (accept t k).imgStore = t.imgStore) :
    (request s hall tag cmd fault accept).imgStore = s.imgStore := by
  unfold request
  split
  · rfl
  · split
    · exact requestResult_imgStore ..
    · dsimp only
      split
      · exact requestResult_imgStore ..
      · rw [haccept, mk_imgStore, fset_imgStore, requestResult_imgStore]

@[simp] theorem execReqSweep_keepsStore (hall tag) : KeepsStore s (execReqSweep hall tag s) := by
  simp only [execReqSweep, keepsStore_next]
  exact request_imgStore _ _ _ _ _ fun t k => by simp

@[simp] theorem execReqDeep_keepsStore (hall tag) : KeepsStore s (execReqDeep hall tag s) := by
  simp only [execReqDeep, keepsStore_next]
  exact request_imgStore _ _ _ _ _ fun t k => by simp

@[simp] theorem execReqRefresh_keepsStore (hall tag) : KeepsStore s (execReqRefresh hall tag s) := by
  simp only [execReqRefresh, keepsStore_next]
  exact request_imgStore _ _ _ _ _ fun t k => by simp

@[simp] theorem execReqCheckpoint_keepsStore (hall tag nandOk) : KeepsStore s (execReqCheckpoint hall tag nandOk s) := by simp [execReqCheckpoint]
@[simp] theorem flipCopies_imgStore (r) : (flipCopies s r).imgStore = s.imgStore := by
  refine foldl_imgStore (fun t x => ?_) _ s
  dsimp only
  repeat' split
  all_goals simp

@[simp] theorem bootFit_imgStore (hours k) : (bootFit hours s k).imgStore = s.imgStore := by
  unfold bootFit
  split <;> simp

@[simp] theorem bootTaps_imgStore (k) : (bootTaps s k).imgStore = s.imgStore := by simp [bootTaps]
@[simp] theorem showReady_imgStore : (showReady s).imgStore = s.imgStore := by simp [showReady]
@[simp] theorem execBootCollationComplete_keepsStore (region hours temps) : KeepsStore s (execBootCollationComplete region hours temps s) := by
  simp [execBootCollationComplete]

/-! ### Scribes -/

@[simp] theorem writeStore_imgStore (shelf a bs bad) : (writeStore s shelf a bs bad).imgStore = s.imgStore := (rfl)
@[simp] theorem writeScratch_imgStore (area a bs bad) : (writeScratch s area a bs bad).imgStore = s.imgStore := (rfl)
@[simp] theorem putRow_imgStore (shelf j d row bs bad) : (putRow s shelf j d row bs bad).imgStore = s.imgStore := by
  unfold putRow
  repeat' split
  all_goals simp

@[simp] theorem spoilScratch_imgStore (area a) : (spoilScratch s area a).imgStore = s.imgStore := (rfl)
@[simp] theorem rowError_imgStore (shelf j d row) : (rowError s shelf j d row).imgStore = s.imgStore := by
  unfold rowError
  repeat' split
  all_goals simp

@[simp] theorem finishRun_imgStore (r status value) : (finishRun s r status value).imgStore = s.imgStore := by simp [finishRun]
@[simp] theorem sampleEnds_imgStore (shelf j) : (sampleEnds s shelf j).imgStore = s.imgStore := by
  unfold sampleEnds
  split <;> simp

@[simp] theorem afterJob_imgStore (shelf j) : (afterJob s shelf j).imgStore = s.imgStore := by simp [afterJob]
@[simp] theorem haltJob_imgStore (shelf j) : (haltJob s shelf j).imgStore = s.imgStore := by
  simp only [haltJob]
  split <;> simp

@[simp] theorem progFault_imgStore (shelf p code) : (progFault s shelf p code).imgStore = s.imgStore := by
  simp only [progFault]
  split <;> simp

theorem runInsn_keepsStore {want body} (hbody : ∀ i t, DidKeepsStore t (body i t)) (shelf) :
    KeepsStore s (runInsn want body shelf s) := by
  simp only [runInsn, keepsStore_next]
  split
  · rfl
  · repeat' split
    all_goals try simp
    next h => simpa using hbody _ _ _ h

@[simp] theorem setX_imgStore (shelf n v) : (setX s shelf n v).imgStore = s.imgStore := (rfl)
@[simp] theorem putTile_imgStore (i cols f bad) : (putTile s i cols f bad).imgStore = s.imgStore := (rfl)
@[simp] theorem execGatherComplete_keepsStore (m) : KeepsStore s (execGatherComplete m s) := by
  simp only [execGatherComplete]
  split <;> simp

@[simp] theorem takeJob_imgStore (shelf j) : (takeJob s shelf j).imgStore = s.imgStore := by simp [takeJob]
@[simp] theorem stageCheck_imgStore (shelf c part) : (stageCheck s shelf c part).imgStore = s.imgStore := by simp [stageCheck]
@[simp] theorem placeJob_imgStore (shelf j) : (placeJob s shelf j).imgStore = s.imgStore := by
  unfold placeJob
  repeat' split
  all_goals simp

@[simp] theorem startJob_imgStore (shelf j) : (startJob s shelf j).imgStore = s.imgStore := by simp [startJob]
@[simp] theorem execScribeJobStart_keepsStore (shelf) : KeepsStore s (execScribeJobStart shelf s) := by
  simp only [execScribeJobStart]
  repeat' split
  all_goals simp

@[simp] theorem execScribeRun_keepsStore (stream seq f) : KeepsStore s (execScribeRun stream seq f s) := by
  unfold execScribeRun
  repeat' split
  all_goals simp

@[simp] theorem execScribeRunTimeout_keepsStore (stream seq) : KeepsStore s (execScribeRunTimeout stream seq s) := by
  unfold execScribeRunTimeout
  split <;> simp

@[simp] theorem tileReadNow_imgStore (k) : (tileReadNow s k).imgStore = s.imgStore := by simp [tileReadNow]
@[simp] theorem tileWriteNow_imgStore (k b) : (tileWriteNow s k b).imgStore = s.imgStore := by simp [tileWriteNow]
@[simp] theorem tileCommand_imgStore (k b) : (tileCommand s k b).imgStore = s.imgStore := by simp [tileCommand]
@[simp] theorem execTileRead_keepsStore (stream seq) : KeepsStore s (execTileRead stream seq s) := by
  unfold execTileRead
  split <;> simp

@[simp] theorem execTileWrite_keepsStore (stream seq f) : KeepsStore s (execTileWrite stream seq f s) := by
  unfold execTileWrite
  repeat' split
  all_goals simp

@[simp] theorem tilesAtBoundary_imgStore (region) : (tilesAtBoundary s region).imgStore = s.imgStore := by
  refine foldl_imgStore (fun t x => ?_) _ s
  split <;> simp

/-! ### Containment -/

@[simp] theorem rehouse_imgStore (r n) : (rehouse s r n).imgStore = s.imgStore := by
  simp only [rehouse]
  repeat' split
  all_goals simp

@[simp] theorem shelterRegion_imgStore (r) : (shelterRegion s r).imgStore = s.imgStore := by
  unfold shelterRegion
  split <;> simp

@[simp] theorem settleTaints_imgStore : (settleTaints s).imgStore = s.imgStore := by simp [settleTaints]
@[simp] theorem dropFailed_imgStore (h u) : (dropFailed s h u).imgStore = s.imgStore := (rfl)
@[simp] theorem failUnit_imgStore (h u d observed) : (failUnit s h u d observed).imgStore = s.imgStore := by simp [failUnit]
@[simp] theorem localNone_imgStore (shelf) : (localNone s shelf).imgStore = s.imgStore := by simp [localNone]
@[simp] theorem setDone_imgStore (h u) : (setDone s h u).imgStore = s.imgStore := by simp [setDone]
@[simp] theorem endProofRun_imgStore (h) : (endProofRun s h).imgStore = s.imgStore := by
  simp only [endProofRun]
  split <;> simp

@[simp] theorem execProofJob_keepsStore (hall observed) : KeepsStore s (execProofJob hall observed s) := by
  simp only [execProofJob]
  repeat' split
  all_goals simp

@[simp] theorem execProofForce_keepsStore (hall unit) : KeepsStore s (execProofForce hall unit s) := by simp [execProofForce]
@[simp] theorem insertForced_imgStore (h) : (insertForced s h).imgStore = s.imgStore := by
  unfold insertForced
  split <;> simp

@[simp] theorem walkRecord_imgStore (k action step) : (walkRecord s k action step).imgStore = s.imgStore := by simp [walkRecord]
@[simp] theorem retire_imgStore (k) : (retire s k).imgStore = s.imgStore := by simp [retire]
@[simp] theorem walkSpare_imgStore (k failed) : (walkSpare s k failed).imgStore = s.imgStore := by simp [walkSpare]
@[simp] theorem walkServing_imgStore (w k failed) : (walkServing s w k failed).imgStore = s.imgStore := by simp [walkServing]
@[simp] theorem windowDone_imgStore : (windowDone s).imgStore = s.imgStore := by
  unfold windowDone
  split <;> simp

@[simp] theorem resumeWalk_imgStore (k) : (resumeWalk s k).imgStore = s.imgStore := (rfl)
@[simp] theorem abandonWalk_imgStore (k) : (abandonWalk s k).imgStore = s.imgStore := by simp [abandonWalk]
@[simp] theorem execMarginWalk_keepsStore (shelf pos failed) : KeepsStore s (execMarginWalk shelf pos failed s) := by
  simp only [execMarginWalk]
  repeat' split
  all_goals simp

@[simp] theorem startWalk_imgStore (w) : (startWalk s w).imgStore = s.imgStore := by simp [startWalk]
@[simp] theorem windowQuiet_imgStore : (windowQuiet s).imgStore = s.imgStore := by
  unfold windowQuiet
  split <;> simp

@[simp] theorem openWin_imgStore (value tag limit rs whole orbit hbmBad lanesBad) :
    (openWin s value tag limit rs whole orbit hbmBad lanesBad).imgStore = s.imgStore := by
  simp [openWin]
@[simp] theorem execOpenWindow_keepsStore (tag mask limit) : KeepsStore s (execOpenWindow tag mask limit s) := by simp [execOpenWindow]
@[simp] theorem execOpenModule_keepsStore (tag limit hbmBad lanesBad) : KeepsStore s (execOpenModule tag limit hbmBad lanesBad s) := by
  simp [execOpenModule]
@[simp] theorem closeWin_imgStore (w code) : (closeWin s w code).imgStore = s.imgStore := by simp [closeWin]
@[simp] theorem execCloseWindow_keepsStore (tag) : KeepsStore s (execCloseWindow tag s) := by
  simp only [execCloseWindow]
  repeat' split
  all_goals simp

@[simp] theorem execMaintLimitExpiry_keepsStore : KeepsStore s (execMaintLimitExpiry s) := by
  unfold execMaintLimitExpiry
  split <;> simp

@[simp] theorem execLocalisationEnd_keepsStore (region) : KeepsStore s (execLocalisationEnd region s) := by
  unfold execLocalisationEnd
  split <;> simp

@[simp] theorem restartLocals_imgStore (shelf c) : (restartLocals s shelf c).imgStore = s.imgStore := (rfl)
@[simp] theorem execFsrDeliver_keepsStore : KeepsStore s (execFsrDeliver s) := by
  unfold execFsrDeliver
  split <;> simp

@[simp] theorem execFsrRingEnable_keepsStore (value) : KeepsStore s (execFsrRingEnable value s) := by simp [execFsrRingEnable]

/-! ### Transactions -/

@[simp] theorem takeAck_imgStore (n ack crVc credits) : (takeAck s n ack crVc credits).imgStore = s.imgStore := by simp [takeAck]
@[simp] theorem declareLost_imgStore (n cause) : (declareLost s n cause).imgStore = s.imgStore := by simp [declareLost]
@[simp] theorem execPortTrain_keepsStore (port lanes) : KeepsStore s (execPortTrain port lanes s) := by simp [execPortTrain]
@[simp] theorem showPartner_imgStore (n b) : (showPartner s n b).imgStore = s.imgStore := (rfl)
@[simp] theorem execTrain_keepsStore (port body) : KeepsStore s (execTrain port body s) := by simp [execTrain]
@[simp] theorem execRetrain_keepsStore (port) : KeepsStore s (execRetrain port s) := by simp [execRetrain]
@[simp] theorem execLaneFail_keepsStore (port lane) : KeepsStore s (execLaneFail port lane s) := by simp [execLaneFail]
@[simp] theorem execLaneLockLoss_keepsStore (port) : KeepsStore s (execLaneLockLoss port s) := by simp [execLaneLockLoss]
@[simp] theorem execKeepaliveSendTimer_keepsStore (port) : KeepsStore s (execKeepaliveSendTimer port s) := by simp [execKeepaliveSendTimer]
@[simp] theorem execKeepalive_keepsStore (port ack crVc credits) : KeepsStore s (execKeepalive port ack crVc credits s) := by simp [execKeepalive]
@[simp] theorem execKeepaliveLoss_keepsStore (port) : KeepsStore s (execKeepaliveLoss port s) := by simp [execKeepaliveLoss]
@[simp] theorem replay_imgStore (n) : (replay s n).imgStore = s.imgStore := by simp [replay]
@[simp] theorem takeNack_imgStore (n ack crVc credits) : (takeNack s n ack crVc credits).imgStore = s.imgStore := by simp [takeNack]
@[simp] theorem execNack_keepsStore (port ack crVc credits) : KeepsStore s (execNack port ack crVc credits s) := by simp [execNack]
@[simp] theorem execReplayTimeout_keepsStore (port) : KeepsStore s (execReplayTimeout port s) := by simp [execReplayTimeout]
@[simp] theorem execIdleFlit_keepsStore (port ack crVc credits) : KeepsStore s (execIdleFlit port ack crVc credits s) := by simp [execIdleFlit]
@[simp] theorem refuseTxn_imgStore (n) : (refuseTxn s n).imgStore = s.imgStore := by simp [refuseTxn]
@[simp] theorem acceptFlit_imgStore (n f) : (acceptFlit s n f).imgStore = s.imgStore := by simp [acceptFlit]
@[simp] theorem discardFlit_imgStore (n) : (discardFlit s n).imgStore = s.imgStore := by simp [discardFlit]
@[simp] theorem execSequencedFlitReceive_keepsStore (port flit corrected uncorrectable) :
    KeepsStore s (execSequencedFlitReceive port flit corrected uncorrectable s) := by
  simp [execSequencedFlitReceive]
theorem onTxn_keepsStore (n vc kind) {f : State → Bytes → State} (hf : ∀ t b, (f t b).imgStore = t.imgStore) :
    KeepsStore s (onTxn s n vc kind f) := by
  simp only [onTxn, keepsStore_next]
  repeat' split
  all_goals simp [hf]

@[simp] theorem execTsxWrite_keepsStore (port) : KeepsStore s (execTsxWrite port s) := by
  refine onTxn_keepsStore _ _ _ _ fun t b => ?_
  dsimp only
  split <;> simp

@[simp] theorem execFrag_keepsStore (port) : KeepsStore s (execFrag port s) := onTxn_keepsStore _ _ _ _ fun t b => by simp
@[simp] theorem execReadReq_keepsStore (port) : KeepsStore s (execReadReq port s) := by
  refine onTxn_keepsStore _ _ _ _ fun t b => ?_
  dsimp only
  split <;> simp

@[simp] theorem execReadRsp_keepsStore (port) : KeepsStore s (execReadRsp port s) := onTxn_keepsStore _ _ _ _ fun t b => by simp
@[simp] theorem detectionHeard_imgStore (port detail) : (detectionHeard s port detail).imgStore = s.imgStore := by
  simp only [detectionHeard]
  split <;> simp

@[simp] theorem execFaultMsg_keepsStore (port) : KeepsStore s (execFaultMsg port s) := by
  refine onMsg_keepsStore _ _ _ _ fun t m b => ?_
  split <;> simp

@[simp] theorem execSnapPeriodTimer_keepsStore (port) : KeepsStore s (execSnapPeriodTimer port s) := by simp [execSnapPeriodTimer]
@[simp] theorem execSnapReq_keepsStore (port) : KeepsStore s (execSnapReq port s) := onMsg_keepsStore _ _ _ _ fun t m b => by simp
@[simp] theorem execSnapRsp_keepsStore (port) : KeepsStore s (execSnapRsp port s) := by
  refine onMsg_keepsStore _ _ _ _ fun t m b => ?_
  dsimp only
  split <;> simp

/-! ### The register write command -/

@[simp] theorem disabledRecord_imgStore (act hall how) : (disabledRecord s act hall how).imgStore = s.imgStore := by simp [disabledRecord]
@[simp] theorem portWritten_imgStore (n old) : (portWritten s n old).imgStore = s.imgStore := by simp [portWritten]
@[simp] theorem afterWrite_imgStore (old a) : (afterWrite old s a).imgStore = s.imgStore := by simp [afterWrite]
@[simp] theorem writeRegister_imgStore (fn off width value) : (writeRegister s fn off width value).imgStore = s.imgStore := by
  unfold writeRegister
  repeat' split
  all_goals simp

@[simp] theorem execRegisterWrite_keepsStore (standby fn off width value) : KeepsStore s (execRegisterWrite standby fn off width value s) := by
  simp [execRegisterWrite]

/-! ### Binding -/

@[simp] theorem enablePorts_imgStore : (enablePorts s).imgStore = s.imgStore := by simp [enablePorts]
@[simp] theorem takeRole_imgStore : (takeRole s).imgStore = s.imgStore := by simp [takeRole]
@[simp] theorem takePorts_imgStore : (takePorts s).imgStore = s.imgStore := by simp [takePorts]
@[simp] theorem loadCap_imgStore : (loadCap s).imgStore = s.imgStore := (rfl)
@[simp] theorem loadCtrl_imgStore : (loadCtrl s).imgStore = s.imgStore := by simp [loadCtrl]
@[simp] theorem rebindPower_imgStore (old) : (rebindPower s old).imgStore = s.imgStore := by simp [rebindPower]
@[simp] theorem recordDeparted_imgStore (old) : (recordDeparted s old).imgStore = s.imgStore := by
  refine foldl_imgStore (fun t x => ?_) _ s
  split <;> simp

@[simp] theorem recordDisabled_imgStore (old) : (recordDisabled s old).imgStore = s.imgStore := by simp [recordDisabled]
@[simp] theorem abandonMoved_imgStore (old new r) : (abandonMoved s old new r).imgStore = s.imgStore := by
  refine foldl_imgStore (fun t x => ?_) _ s
  split <;> simp

@[simp] theorem removeRegion_imgStore (r) : (removeRegion s r).imgStore = s.imgStore := by simp [removeRegion]
@[simp] theorem strandRegion_imgStore (old new r) : (strandRegion s old new r).imgStore = s.imgStore := by simp [strandRegion]
@[simp] theorem keepRegion_imgStore (old new r) : (keepRegion s old new r).imgStore = s.imgStore := by simp [keepRegion]
@[simp] theorem rebindRegion_imgStore (old r) : (rebindRegion old s r).imgStore = s.imgStore := by
  simp only [rebindRegion]
  split <;> simp

@[simp] theorem rebindCarrel_imgStore (old n) : (rebindCarrel old s n).imgStore = s.imgStore := by simp [rebindCarrel]
@[simp] theorem rebindRecipes_imgStore (old) : (rebindRecipes s old).imgStore = s.imgStore := (rfl)
@[simp] theorem showBound_imgStore : (showBound s).imgStore = s.imgStore := by simp [showBound]
@[simp] theorem applyLoans_imgStore (op) : (applyLoans op s).imgStore = s.imgStore := by simp [applyLoans]

/-! ### Bring-up -/

@[simp] theorem settleRegions_imgStore : (settleRegions s).imgStore = s.imgStore := by simp [settleRegions]
/-- A reset loses what is bound; what the NAND store holds of images stays. -/
@[simp] theorem loseAll_imgStore : (loseAll s).imgStore = s.imgStore := settleRegions_imgStore s
@[simp] theorem deviceResetTo_imgStore (cause) : (deviceResetTo cause s).imgStore = s.imgStore := by simp [deviceResetTo]
@[simp] theorem enterOff_imgStore (cause) : (enterOff cause s).imgStore = s.imgStore := by simp [enterOff]
@[simp] theorem showFw_imgStore : (showFw s).imgStore = s.imgStore := (rfl)
@[simp] theorem fwEvent_imgStore (event slot svn) : (fwEvent s event slot svn).imgStore = s.imgStore := by simp [fwEvent]
@[simp] theorem bootFirmware_imgStore : (bootFirmware s).imgStore = s.imgStore := by
  simp only [bootFirmware]
  split <;> simp

@[simp] theorem recordTrial_imgStore (f cause) : (recordTrial s f cause).imgStore = s.imgStore := by simp [recordTrial]
@[simp] theorem showIdentity_imgStore : (showIdentity s).imgStore = s.imgStore := (rfl)
@[simp] theorem startCurator_imgStore (cause) : (startCurator cause s).imgStore = s.imgStore := by simp [startCurator]
@[simp] theorem startClocks_imgStore : (startClocks s).imgStore = s.imgStore := (rfl)
@[simp] theorem failShelf_imgStore (shelf) : (failShelf s shelf).imgStore = s.imgStore := by simp [failShelf]
@[simp] theorem startHalls_imgStore (badShelves) : (startHalls badShelves s).imgStore = s.imgStore := by simp [startHalls]
@[simp] theorem showSig_imgStore : (showSig s).imgStore = s.imgStore := (rfl)
@[simp] theorem loadStore_imgStore : (loadStore s).imgStore = s.imgStore := (rfl)
@[simp] theorem bootRegion_imgStore (r) : (bootRegion s r).imgStore = s.imgStore := by simp [bootRegion]
@[simp] theorem bindAtBoot_imgStore : (bindAtBoot s).imgStore = s.imgStore := by
  simp only [bindAtBoot]
  split <;> simp

@[simp] theorem openIntake_imgStore : (openIntake s).imgStore = s.imgStore := by simp [openIntake]
@[simp] theorem confirmTrial_imgStore : (confirmTrial s).imgStore = s.imgStore := by simp [confirmTrial]
@[simp] theorem powered_imgStore : (powered s).imgStore = s.imgStore := (rfl)
@[simp] theorem bringUp_imgStore (ms badShelves selfTest) : (bringUp ms badShelves selfTest s).imgStore = s.imgStore := by
  simp only [bringUp]
  repeat' split
  all_goals simp

@[simp] theorem execPowerOnBoot_keepsStore (ms badShelves selfTest) : KeepsStore s (execPowerOnBoot ms badShelves selfTest s) := by simp [execPowerOnBoot]
@[simp] theorem execTrialConfirmTimeout_keepsStore : KeepsStore s (execTrialConfirmTimeout s) := by simp [execTrialConfirmTimeout]

/-! ### Resets -/

@[simp] theorem execDeviceReset_keepsStore (standby width value) : KeepsStore s (execDeviceReset standby width value s) := by simp [execDeviceReset]
@[simp] theorem execSidebandReset_keepsStore (data) : KeepsStore s (execSidebandReset data s) := by simp [execSidebandReset]
@[simp] theorem execThermalTrip_keepsStore : KeepsStore s (execThermalTrip s) := by simp [execThermalTrip]
@[simp] theorem execTripHoldRelease_keepsStore (ms badShelves selfTest) : KeepsStore s (execTripHoldRelease ms badShelves selfTest s) := by
  simp [execTripHoldRelease]
@[simp] theorem putBit_imgStore (f i b) : (putBit s f i b).imgStore = s.imgStore := (rfl)
@[simp] theorem poisonHall_imgStore (h) : (poisonHall s h).imgStore = s.imgStore := (rfl)
@[simp] theorem execPllLockLoss_keepsStore (hall pll) : KeepsStore s (execPllLockLoss hall pll s) := by simp [execPllLockLoss]
@[simp] theorem resumeHall_imgStore (h) : (resumeHall s h).imgStore = s.imgStore := by simp [resumeHall]
@[simp] theorem execHallRelockDone_keepsStore (hall) : KeepsStore s (execHallRelockDone hall s) := by simp [execHallRelockDone]
@[simp] theorem inputLost_imgStore : (inputLost s).imgStore = s.imgStore := by simp [inputLost]
@[simp] theorem execV44Undervoltage_keepsStore : KeepsStore s (execV44Undervoltage s) := by simp [execV44Undervoltage]
@[simp] theorem execV44Overvoltage_keepsStore : KeepsStore s (execV44Overvoltage s) := by simp [execV44Overvoltage]
@[simp] theorem execStandbyLoss_keepsStore : KeepsStore s (execStandbyLoss s) := by simp [execStandbyLoss]
@[simp] theorem execStandbyReset_keepsStore : KeepsStore s (execStandbyReset s) := by simp [execStandbyReset]
@[simp] theorem dropConfig_imgStore (p) : (dropConfig s p).imgStore = s.imgStore := (rfl)
@[simp] theorem putLink_imgStore (b up) : (putLink s b up).imgStore = s.imgStore := (rfl)
@[simp] theorem haltStreams_imgStore : (haltStreams s).imgStore = s.imgStore := by simp [haltStreams]
@[simp] theorem cancelAccessions_imgStore : (cancelAccessions s).imgStore = s.imgStore := by simp [cancelAccessions]
@[simp] theorem routeBulk_imgStore (pf1) : (routeBulk s pf1).imgStore = s.imgStore := by simp [routeBulk]
@[simp] theorem execPortLinkLoss_keepsStore (portB) : KeepsStore s (execPortLinkLoss portB s) := by simp [execPortLinkLoss]
@[simp] theorem execPortLinkUp_keepsStore (portB) : KeepsStore s (execPortLinkUp portB s) := by simp [execPortLinkUp]
@[simp] theorem execStandbyTakeover_keepsStore : KeepsStore s (execStandbyTakeover s) := by simp [execStandbyTakeover]
@[simp] theorem execBusMasteringChange_keepsStore (fn on) : KeepsStore s (execBusMasteringChange fn on s) := by simp [execBusMasteringChange]
@[simp] theorem freshenStream_imgStore (c) : (freshenStream s c).imgStore = s.imgStore := (rfl)
@[simp] theorem clearScribes_imgStore (c) : (clearScribes s c).imgStore = s.imgStore := by simp [clearScribes]
@[simp] theorem execFunctionLevelResetVf_keepsStore (carrel) : KeepsStore s (execFunctionLevelResetVf carrel s) := by
  simp [execFunctionLevelResetVf]
@[simp] theorem execFunctionLevelResetPf0_keepsStore : KeepsStore s (execFunctionLevelResetPf0 s) := by simp [execFunctionLevelResetPf0]
@[simp] theorem execFunctionLevelResetPf1_keepsStore : KeepsStore s (execFunctionLevelResetPf1 s) := by simp [execFunctionLevelResetPf1]
@[simp] theorem execFunctionLevelResetPf2_keepsStore : KeepsStore s (execFunctionLevelResetPf2 s) := by simp [execFunctionLevelResetPf2]

/-! ### Annals -/

@[simp] theorem flushAnnals_imgStore : (flushAnnals s).imgStore = s.imgStore := by
  simp only [flushAnnals]
  split <;> simp

@[simp] theorem execAnnalsFlush_keepsStore (nandOk) : KeepsStore s (execAnnalsFlush nandOk s) := by simp [execAnnalsFlush]
@[simp] theorem execFlush_keepsStore (width value nandOk) : KeepsStore s (execFlush width value nandOk s) := by simp [execFlush]
@[simp] theorem execAnnalsRateSecond_keepsStore : KeepsStore s (execAnnalsRateSecond s) := by simp [execAnnalsRateSecond]
@[simp] theorem execAlertClear_keepsStore (width value) : KeepsStore s (execAlertClear width value s) := by simp [execAlertClear]

/-! ### The curator -/

@[simp] theorem modMbx_imgStore (f) : (modMbx s f).imgStore = s.imgStore := (rfl)
@[simp] theorem respond_imgStore (seq tag status body) : (respond s seq tag status body).imgStore = s.imgStore := by simp [respond]
@[simp] theorem takeRequest_imgStore : (takeRequest s).imgStore = s.imgStore := by simp [takeRequest]
@[simp] theorem mbxArrive_imgStore (off bytes) : (mbxArrive s off bytes).imgStore = s.imgStore := by simp [mbxArrive]
@[simp] theorem execMailboxBlockWrite_keepsStore (standby off bytes) : KeepsStore s (execMailboxBlockWrite standby off bytes s) := by
  simp [execMailboxBlockWrite]
@[simp] theorem execIdentity_keepsStore : KeepsStore s (execIdentity s) := by
  unfold execIdentity
  split <;> simp

@[simp] theorem execAttest_keepsStore (nandOk) : KeepsStore s (execAttest nandOk s) := by
  unfold execAttest
  rw [keepsStore_next]
  split
  · rfl
  · dsimp only
    repeat' split
    · exact respond_imgStore ..
    · exact respond_imgStore ..
    · exact respond_imgStore ..
    all_goals exact (respond_imgStore ..).trans ((annal_imgStore ..).trans ((showSig_imgStore ..).trans rfl))

@[simp] theorem execAttestTokenRefill_keepsStore : KeepsStore s (execAttestTokenRefill s) := by simp [execAttestTokenRefill]
@[simp] theorem execAnnalsExport_keepsStore : KeepsStore s (execAnnalsExport s) := by
  simp only [execAnnalsExport]
  repeat' split
  all_goals simp

@[simp] theorem execAnnalsNote_keepsStore : KeepsStore s (execAnnalsNote s) := by
  simp only [execAnnalsNote]
  repeat' split
  all_goals simp

@[simp] theorem modFw_imgStore (f) : (modFw s f).imgStore = s.imgStore := (rfl)
@[simp] theorem execFwStage_keepsStore (f nandOk) : KeepsStore s (execFwStage f nandOk s) := by
  unfold execFwStage
  repeat' split
  all_goals simp

@[simp] theorem selectOther_imgStore (r trial nandOk) : (selectOther s r trial nandOk).imgStore = s.imgStore := by
  unfold selectOther
  split <;> simp

@[simp] theorem execFwActivate_keepsStore (nandOk) : KeepsStore s (execFwActivate nandOk s) := by
  unfold execFwActivate
  split <;> simp

@[simp] theorem execFwRevert_keepsStore (nandOk) : KeepsStore s (execFwRevert nandOk s) := by
  unfold execFwRevert
  split <;> simp

@[simp] theorem execFwRaiseFloor_keepsStore (nandOk) : KeepsStore s (execFwRaiseFloor nandOk s) := by
  unfold execFwRaiseFloor
  repeat' split
  all_goals simp

@[simp] theorem loseAnnals_imgStore : (loseAnnals s).imgStore = s.imgStore := (rfl)
@[simp] theorem restartCurator_imgStore : (restartCurator s).imgStore = s.imgStore := by
  unfold restartCurator
  split <;> simp

@[simp] theorem execWatchdogExpiry_keepsStore : KeepsStore s (execWatchdogExpiry s) := by simp [execWatchdogExpiry]

/-! ### Register reads -/

@[simp] theorem captureEntry_imgStore (a) : (captureEntry s a).imgStore = s.imgStore := by simp [captureEntry]
@[simp] theorem clearRead_imgStore (a lo hi fs) : (clearRead s a lo hi fs).imgStore = s.imgStore := (rfl)
@[simp] theorem readRegister_imgStore (standby found a lo width) : (readRegister s standby found a lo width).2.imgStore = s.imgStore := by
  unfold readRegister
  split <;> simp

@[simp] theorem barRead_imgStore (standby fn off width found) : (barRead s standby fn off width found).2.imgStore = s.imgStore := by
  unfold barRead
  repeat' split
  all_goals simp

@[simp] theorem answerRead_imgStore (fn off b) : (answerRead s fn off b).imgStore = s.imgStore := (rfl)
@[simp] theorem serveRead_imgStore (standby fn off width found) : (serveRead s standby fn off width found).imgStore = s.imgStore := by simp [serveRead]

/-! ### Power states -/

@[simp] theorem beginWake_imgStore (src) : (beginWake s src).imgStore = s.imgStore := (rfl)
@[simp] theorem wake_imgStore (src d) : (wake s src d).imgStore = s.imgStore := by simp [wake]
@[simp] theorem execWakeEvent_keepsStore (src standby fn off width) : KeepsStore s (execWakeEvent src standby fn off width s) := by
  simp [execWakeEvent]
@[simp] theorem releaseWrite_imgStore (w) : (releaseWrite s w).imgStore = s.imgStore := by
  unfold releaseWrite
  repeat' split
  all_goals simp

@[simp] theorem releaseHeld_imgStore (d) : (releaseHeld s d).imgStore = s.imgStore := by simp [releaseHeld]
@[simp] theorem startPorts_imgStore (h) : (startPorts s h).imgStore = s.imgStore := by simp [startPorts]
@[simp] theorem domainUp_imgStore (d) : (domainUp s d).imgStore = s.imgStore := by simp [domainUp]
@[simp] theorem execWakeDomainReady_keepsStore (domain) : KeepsStore s (execWakeDomainReady domain s) := by simp [execWakeDomainReady]
@[simp] theorem execReadHoldExpiry_keepsStore : KeepsStore s (execReadHoldExpiry s) := by
  unfold execReadHoldExpiry
  split <;> simp

@[simp] theorem wakeFromOff_imgStore (src) : (wakeFromOff s src).imgStore = s.imgStore := by simp [wakeFromOff]
@[simp] theorem execSidebandAddressMatch_keepsStore (addr) : KeepsStore s (execSidebandAddressMatch addr s) := by simp [execSidebandAddressMatch]
@[simp] theorem execWakeNAssert_keepsStore : KeepsStore s (execWakeNAssert s) := by simp [execWakeNAssert]
@[simp] theorem execIdleEntry_keepsStore : KeepsStore s (execIdleEntry s) := by simp [execIdleEntry]
@[simp] theorem entryCurator_imgStore (off nandOk) : (entryCurator off nandOk s).imgStore = s.imgStore := by simp [entryCurator]
@[simp] theorem entryHalls_imgStore (deep) : (entryHalls deep s).imgStore = s.imgStore := by simp [entryHalls]
@[simp] theorem atDepth_imgStore (depth) : (atDepth depth s).imgStore = s.imgStore := (rfl)
@[simp] theorem backToRun_imgStore (src off s0) : (backToRun src off s0).imgStore = s0.imgStore := by simp [backToRun]

@[simp] theorem enterLow_imgStore (depth nandOk woken) : (enterLow depth nandOk woken s).imgStore = s.imgStore := by
  unfold enterLow
  split <;> simp

@[simp] theorem powerRequest_imgStore (depth nandOk woken) : (powerRequest depth nandOk woken s).imgStore = s.imgStore := by simp [powerRequest]
@[simp] theorem execSleep_keepsStore (nandOk woken) : KeepsStore s (execSleep nandOk woken s) := by simp [execSleep]
@[simp] theorem execDeepSleep_keepsStore (nandOk woken) : KeepsStore s (execDeepSleep nandOk woken s) := by simp [execDeepSleep]
@[simp] theorem execPowerOff_keepsStore (nandOk woken) : KeepsStore s (execPowerOff nandOk woken s) := by simp [execPowerOff]
@[simp] theorem execAutoSleep_keepsStore (nandOk woken) : KeepsStore s (execAutoSleep nandOk woken s) := by simp [execAutoSleep]

/-! ### Monitors -/

@[simp] theorem modConv_imgStore (die f) : (modConv s die f).imgStore = s.imgStore := (rfl)
@[simp] theorem startSlot_imgStore (die slot set) : (startSlot s die slot set).imgStore = s.imgStore := (rfl)
@[simp] theorem execMonitorTrigger_keepsStore (die slot stopped) : KeepsStore s (execMonitorTrigger die slot stopped s) := by
  simp [execMonitorTrigger]
@[simp] theorem windowEvent_imgStore (die slot code scaled) : (windowEvent s die slot code scaled).imgStore = s.imgStore := by simp [windowEvent]
@[simp] theorem refFailure_imgStore (die code) : (refFailure s die code).imgStore = s.imgStore := by simp [refFailure]
@[simp] theorem putResult_imgStore (die slot input code scaled fallback) : (putResult s die slot input code scaled fallback).imgStore = s.imgStore := (rfl)
@[simp] theorem compareResult_imgStore (die slot code scaled set window) : (compareResult s die slot code scaled set window).imgStore = s.imgStore := by
  simp [compareResult]
@[simp] theorem serveNext_imgStore (die) : (serveNext s die).imgStore = s.imgStore := by
  simp only [serveNext]
  split <;> simp

@[simp] theorem execMonitorResult_keepsStore (die slot x) : KeepsStore s (execMonitorResult die slot x s) := by
  simp only [execMonitorResult]
  repeat' split
  all_goals simp

/-! ### Flags -/

@[simp] theorem flagPass_imgStore (region bit) : (flagPass s region bit).imgStore = s.imgStore := (rfl)
@[simp] theorem countBlocks_imgStore (h nz sat nan) : (countBlocks s h nz sat nan).imgStore = s.imgStore := (rfl)
@[simp] theorem countIntSat_imgStore (h n) : (countIntSat s h n).imgStore = s.imgStore := (rfl)
@[simp] theorem flagBlocks_imgStore (region nz sat) : (flagBlocks s region nz sat).imgStore = s.imgStore := by simp [flagBlocks]

/-! ### Scribe instructions -/

@[simp] theorem execNop_keepsStore (shelf) : KeepsStore s (execNop shelf s) := runInsn_keepsStore _ (fun i t => by simp) shelf
@[simp] theorem execHalt_keepsStore (shelf) : KeepsStore s (execHalt shelf s) :=
  runInsn_keepsStore _ (fun i t => by split <;> simp) shelf

@[simp] theorem execLdx_keepsStore (shelf) : KeepsStore s (execLdx shelf s) := runInsn_keepsStore _ (fun i t => by simp) shelf
@[simp] theorem execAddx_keepsStore (shelf) : KeepsStore s (execAddx shelf s) := runInsn_keepsStore _ (fun i t => by simp) shelf
@[simp] theorem loopBody_keepsStore (i) : DidKeepsStore s (loopBody i s) := by
  unfold loopBody
  dsimp only
  generalize (i.x i.w.dst + 2 ^ 32 - 1) % 2 ^ 32 = v
  repeat' split
  all_goals simp

@[simp] theorem execLoopX_keepsStore (shelf) : KeepsStore s (execLoopX shelf s) := runInsn_keepsStore _ (fun i t => by simp) shelf
@[simp] theorem mmaBody_keepsStore (i) : DidKeepsStore s (mmaBody i s) := by
  simp only [mmaBody]
  split <;> simp

@[simp] theorem execMma_keepsStore (shelf) : KeepsStore s (execMma shelf s) := runInsn_keepsStore _ (fun i t => by simp) shelf
@[simp] theorem binaryBody_keepsStore (op i) : DidKeepsStore s (binaryBody op i s) := by simp [binaryBody]
@[simp] theorem unaryBody_keepsStore (op i) : DidKeepsStore s (unaryBody op i s) := by simp [unaryBody]
@[simp] theorem execVadd_keepsStore (shelf) : KeepsStore s (execVadd shelf s) := runInsn_keepsStore _ (fun i t => by simp) shelf
@[simp] theorem execVsub_keepsStore (shelf) : KeepsStore s (execVsub shelf s) := runInsn_keepsStore _ (fun i t => by simp) shelf
@[simp] theorem vmulBody_keepsStore (i) : DidKeepsStore s (vmulBody i s) := by simp [vmulBody]
@[simp] theorem execVmul_keepsStore (shelf) : KeepsStore s (execVmul shelf s) := runInsn_keepsStore _ (fun i t => by simp) shelf
@[simp] theorem execVexp_keepsStore (shelf) : KeepsStore s (execVexp shelf s) := runInsn_keepsStore _ (fun i t => by simp) shelf
@[simp] theorem execVrcp_keepsStore (shelf) : KeepsStore s (execVrcp shelf s) := runInsn_keepsStore _ (fun i t => by simp) shelf
@[simp] theorem execVrsq_keepsStore (shelf) : KeepsStore s (execVrsq shelf s) := runInsn_keepsStore _ (fun i t => by simp) shelf
@[simp] theorem execVmax_keepsStore (shelf) : KeepsStore s (execVmax shelf s) := runInsn_keepsStore _ (fun i t => by simp) shelf
@[simp] theorem selectBody_keepsStore (gt i) : DidKeepsStore s (selectBody gt i s) := by simp [selectBody]
@[simp] theorem execVmaxi_keepsStore (shelf) : KeepsStore s (execVmaxi shelf s) := runInsn_keepsStore _ (fun i t => by simp) shelf
@[simp] theorem execVmini_keepsStore (shelf) : KeepsStore s (execVmini shelf s) := runInsn_keepsStore _ (fun i t => by simp) shelf
@[simp] theorem vsumBody_keepsStore (i) : DidKeepsStore s (vsumBody i s) := by simp [vsumBody]
@[simp] theorem execVsum_keepsStore (shelf) : KeepsStore s (execVsum shelf s) := runInsn_keepsStore _ (fun i t => by simp) shelf
@[simp] theorem ldtBody_keepsStore (i) : DidKeepsStore s (ldtBody i s) := by
  simp only [ldtBody]
  split <;> simp

@[simp] theorem execLdt_keepsStore (shelf) : KeepsStore s (execLdt shelf s) := runInsn_keepsStore _ (fun i t => by simp) shelf
@[simp] theorem sttBody_keepsStore (i) : DidKeepsStore s (sttBody i s) := by simp [sttBody]
@[simp] theorem execStt_keepsStore (shelf) : KeepsStore s (execStt shelf s) := runInsn_keepsStore _ (fun i t => by simp) shelf
@[simp] theorem startTransfer_keepsStore (i t) : DidKeepsStore s (startTransfer s i t) := by simp [startTransfer]
@[simp] theorem gatherBody_keepsStore (i) : DidKeepsStore s (gatherBody i s) := by
  simp only [gatherBody]
  repeat' split
  all_goals simp

@[simp] theorem execGather_keepsStore (shelf) : KeepsStore s (execGather shelf s) := runInsn_keepsStore _ (fun i t => by simp) shelf
@[simp] theorem scatterBody_keepsStore (i) : DidKeepsStore s (scatterBody i s) := by
  simp only [scatterBody]
  repeat' split
  all_goals simp

@[simp] theorem execScatter_keepsStore (shelf) : KeepsStore s (execScatter shelf s) := runInsn_keepsStore _ (fun i t => by simp) shelf
@[simp] theorem programEvent_imgStore (shelf j a tol fails) : (programEvent s shelf j a tol fails).imgStore = s.imgStore := by simp [programEvent]
@[simp] theorem checkEvent_imgStore (shelf j a b tol) : (checkEvent s shelf j a b tol).imgStore = s.imgStore := by
  unfold checkEvent
  split <;> simp

@[simp] theorem checkBody_keepsStore (i) : DidKeepsStore s (checkBody i s) := by simp [checkBody]
@[simp] theorem execCheckTile_keepsStore (shelf) : KeepsStore s (execCheckTile shelf s) := runInsn_keepsStore _ (fun i t => by simp) shelf
@[simp] theorem normwBody_keepsStore (i) : DidKeepsStore s (normwBody i s) := by simp [normwBody]
@[simp] theorem execNormw_keepsStore (shelf) : KeepsStore s (execNormw shelf s) := runInsn_keepsStore _ (fun i t => by simp) shelf
@[simp] theorem selectLocal_keepsStore (i) : DidKeepsStore s (selectLocal i s) := by simp [selectLocal]
@[simp] theorem execSampleSelect_keepsStore (shelf) : KeepsStore s (execSampleSelect shelf s) := runInsn_keepsStore _ (fun i t => by simp) shelf
@[simp] theorem drawFor_imgStore (region h) : (drawFor s region h).imgStore = s.imgStore := by
  unfold drawFor
  repeat' split
  all_goals simp

@[simp] theorem drawBody_keepsStore (i) : DidKeepsStore s (drawBody i s) := by
  simp only [drawBody]
  repeat' split
  all_goals simp

@[simp] theorem execSampleDraw_keepsStore (shelf) : KeepsStore s (execSampleDraw shelf s) := runInsn_keepsStore _ (fun i t => by simp) shelf
@[simp] theorem execOutlierMinute_keepsStore : KeepsStore s (execOutlierMinute s) := by simp [execOutlierMinute]

/-! ### Pass boundaries -/

@[simp] theorem readyCheck_imgStore (c rows) : (readyCheck s c rows).imgStore = s.imgStore := by simp [readyCheck]
@[simp] theorem sampleShelf_imgStore (p shelf n) : (sampleShelf s p shelf n).imgStore = s.imgStore := by
  simp only [sampleShelf]
  repeat' split
  all_goals simp

@[simp] theorem sampleChecks_imgStore (p) : (sampleChecks s p).imgStore = s.imgStore := by simp [sampleChecks]
@[simp] theorem detectN_imgStore (p st bit ratio) : (detectN s p st bit ratio).imgStore = s.imgStore := by simp [detectN]
@[simp] theorem watchStage_imgStore (p st) : (watchStage s p st).imgStore = s.imgStore := by
  simp only [watchStage]
  repeat' split
  all_goals simp

@[simp] theorem watchNorms_imgStore (p) : (watchNorms s p).imgStore = s.imgStore := by simp [watchNorms]
@[simp] theorem passLocals_imgStore (p) : (passLocals s p).imgStore = s.imgStore := (rfl)
@[simp] theorem settleSession_imgStore (p h res) : (settleSession s p h res).imgStore = s.imgStore := by
  unfold settleSession
  split <;> simp

@[simp] theorem passEntries_imgStore (p rs) : (passEntries s p rs).imgStore = s.imgStore := by
  refine (foldl_imgStore (fun t x => ?_) _ _).trans (by simp)
  split <;> simp

@[simp] theorem shareDone_imgStore (p rs) : (shareDone s p rs).imgStore = s.imgStore := by
  simp only [shareDone]
  split <;> simp

@[simp] theorem dropLoans_imgStore (p) : (dropLoans s p).imgStore = s.imgStore := (rfl)
@[simp] theorem recipesNow_imgStore (r) : (recipesNow s r).imgStore = s.imgStore := (rfl)
@[simp] theorem loseArchive_imgStore (r) : (loseArchive s r).imgStore = s.imgStore := (rfl)
@[simp] theorem flipAll_imgStore (r) : (flipAll s r).imgStore = s.imgStore := by simp [flipAll]
@[simp] theorem windowsNow_imgStore (r) : (windowsNow s r).imgStore = s.imgStore := by simp [windowsNow]
@[simp] theorem boundaryChanges_imgStore (r) : (boundaryChanges s r).imgStore = s.imgStore := by simp [boundaryChanges]
@[simp] theorem boundaryEvents_imgStore (r flipped) : (boundaryEvents s r flipped).imgStore = s.imgStore := by simp [boundaryEvents]
@[simp] theorem endPass_imgStore (p obs) : (endPass s p obs).imgStore = s.imgStore := by simp [endPass]
@[simp] theorem execPassBoundary_keepsStore (region obs) : KeepsStore s (execPassBoundary region obs s) := by
  unfold execPassBoundary
  repeat' split
  all_goals simp

@[simp] theorem execPassDispatch_keepsStore (stream seq) : KeepsStore s (execPassDispatch stream seq s) := by
  simp only [execPassDispatch]
  repeat' split
  all_goals simp

@[simp] theorem execCommitRecordsDurable_keepsStore (region nandOk colophonOk) : KeepsStore s (execCommitRecordsDurable region nandOk colophonOk s) := by
  simp only [execCommitRecordsDurable]
  repeat' split
  all_goals simp

end Sys2Proof.Machine
end
end

section
/-!
PROOFS. The serial floor (R29): of the five commands that write the image store only RAISE_FLOOR writes its floor, and raises it; an image below
the floor is answered ROLLBACK by STORE and by BIND.
-/
section
open Sys2Proof Sys2Proof.Machine
namespace Sys2Proof.Machine

variable {s t : State}

/-! ### The floor through the commands that write the store -/

/-- A command's outcome with the floor as it was. -/
def KeepsFloor (s : State) (o : Out) : Prop := ∀ t, o = .next t → t.imgStore.floor = s.imgStore.floor

@[simp] theorem keepsFloor_next : KeepsFloor s (.next t) ↔ t.imgStore.floor = s.imgStore.floor :=
  ⟨fun h => h t rfl, fun h u hu => by cases hu; exact h⟩

theorem KeepsStore.keepsFloor {o : Out} (h : KeepsStore s o) : KeepsFloor s o := fun t ht => congrArg ImgStore.floor (h t ht)

@[simp] theorem putSlot_floor (st : ImgStore) (i : Nat) (b : Option Bytes) : (putSlot st i b).floor = st.floor := by
  unfold putSlot
  split <;> rfl

@[simp] theorem commitStore_floor (st : ImgStore) (new : Image) : (commitStore st new).floor = st.floor := (rfl)

/-- A command that is refused leaves the image store, so its run alone decides what becomes of the floor. -/
theorem imgCommand_keepsFloor (tag : Nat) {run : State → State} (hrun : ∀ t, (run t).imgStore.floor = t.imgStore.floor) :
    KeepsFloor s (.next (imgCommand s tag run)) := by
  simp only [keepsFloor_next, imgCommand]
  repeat' split
  all_goals simp [hrun]

theorem execStore_keepsFloor (tag : Nat) (f : Fetch) (nandOk : Bool) : KeepsFloor s (execStore tag f nandOk s) := by
  refine imgCommand_keepsFloor tag fun t => ?_
  simp only [storeRun]
  repeat' split
  all_goals simp

theorem execDiscard_keepsFloor (tag : Nat) : KeepsFloor s (execDiscard tag s) := imgCommand_keepsFloor tag fun t => by simp

theorem execEnrolAnchor_keepsFloor (tag : Nat) (f : Fetch) (nandOk : Bool) : KeepsFloor s (execEnrolAnchor tag f nandOk s) := by
  refine imgCommand_keepsFloor tag fun t => ?_
  repeat' split
  · simp
  · simp
  · simp
  · rw [imgResult_imgStore, fset_imgStore]
    rfl

theorem imgStore_mk (a0 a1 a2 a3 a5 a6 a7 a8 a9 a10 a11 a12 a13 a14 a15 a16 a17 a18 a19 a20 a21 store bound op recipes next) :
    (State.mk a0 a1 a2 a3 ⟨store, bound, op, recipes, next⟩ a5 a6 a7 a8 a9 a10 a11 a12 a13 a14 a15 a16 a17 a18 a19 a20 a21).imgStore = store := (rfl)

theorem commitBind_imgStore (op : BindOp) : (commitBind op s).imgStore = commitStore s.imgStore op.img := by
  show _ = commitStore s.img.store op.img
  simp [commitBind, imgStore_mk]

theorem execBindQuiesceDone_keepsFloor (verifyOk nandOk : Bool) : KeepsFloor s (execBindQuiesceDone verifyOk nandOk s) := by
  simp only [execBindQuiesceDone, keepsFloor_next]
  repeat' split
  all_goals simp [commitBind_imgStore]

/-- Nothing but RAISE_FLOOR changes the floor. -/
theorem exec_keepsFloor {c : Instr} (hc : ∀ tag ok, c ≠ .raiseFloor tag ok) : KeepsFloor s (exec c s) := by
  cases c
  case raiseFloor tag ok => exact absurd rfl (hc tag ok)
  case store tag f nandOk => exact execStore_keepsFloor tag f nandOk
  case discard tag => exact execDiscard_keepsFloor tag
  case enrolAnchor tag f nandOk => exact execEnrolAnchor_keepsFloor tag f nandOk
  case bindQuiesceDone verifyOk nandOk => exact execBindQuiesceDone_keepsFloor verifyOk nandOk
  all_goals exact KeepsStore.keepsFloor (by simp [exec])

/-! ### RAISE_FLOOR -/

/-- RAISE_FLOOR once its command is accepted and its NAND write succeeds. -/
def floorRaised (s : State) (tag : Nat) : State :=
  let n := max s.img.store.floor s.img.bound.serial
  let u := fset s Reg.CUR_IMG_STATUS.TAG tag
  imgResult (fset { u with img := { u.img with store := { u.img.store with floor := n } } } Reg.CUR_IMG_FLOOR.FLOOR n) 0x00 s.img.bound.serial 0

theorem floorRaised_imgStore (tag : Nat) :
    (floorRaised s tag).imgStore = { s.imgStore with floor := max s.imgStore.floor s.img.bound.serial } := by
  rw [floorRaised, imgResult_imgStore, fset_imgStore]
  rfl

/-- RAISE_FLOOR raises the floor or leaves it where it was. -/
theorem floor_le_execRaiseFloor {tag : Nat} {nandOk : Bool} (h : execRaiseFloor tag nandOk s = .next t) : s.imgStore.floor ≤ t.imgStore.floor := by
  cases h
  simp only [imgCommand]
  repeat' split
  · exact Nat.le_refl _
  · simp
  · simp
  · simp
  · exact (congrArg ImgStore.floor (floorRaised_imgStore (s := s) tag)).symm ▸ Nat.le_max_left ..

/-- No step lowers the floor. -/
theorem floor_le_exec {c : Instr} (h : exec c s = .next t) : s.imgStore.floor ≤ t.imgStore.floor := by
  by_cases hc : ∃ tag ok, c = .raiseFloor tag ok
  · obtain ⟨tag, ok, rfl⟩ := hc
    exact floor_le_execRaiseFloor h
  · exact Nat.le_of_eq (exec_keepsFloor (fun tag ok he => hc ⟨tag, ok, he⟩) t h).symm

theorem floor_le_step (h : step s = .next t) : s.imgStore.floor ≤ t.imgStore.floor := by
  unfold step at h
  split at h
  · cases h
    simp
  · next rest _ => exact floor_le_exec (s := { s with pending := rest }) h

theorem step_floor (h : step s = .next t) (hfront : ∀ tag ok rest, s.pending ≠ .raiseFloor tag ok :: rest) :
    t.imgStore.floor = s.imgStore.floor := by
  unfold step at h
  split at h
  · cases h
    simp
  · next c rest hp => exact exec_keepsFloor (s := { s with pending := rest }) (fun tag ok hc => hfront tag ok rest (hc ▸ hp)) t h

/-! ### What an image command's answer shows -/

theorem imgCommand_ready (h : imgReady s) (tag : Nat) (run : State → State) :
    imgCommand s tag run = run (fset s Reg.CUR_IMG_STATUS.TAG tag) := by
  obtain ⟨hpow, hbusy⟩ := h
  simp [imgCommand, hpow, hbusy]

@[simp] theorem imgResult_img (s : State) (code serial sec : Nat) : (imgResult s code serial sec).img = s.img := by
  rw [imgResult, msix_frame, imgRecord, annal_frame]
  rfl

/-- An answer is given in CUR.IMG_STATUS and, but for its record, nowhere else. -/
theorem imgResult_rget (h : s.regsOk) (code serial sec : Nat) {a : Nat} (ha : a ≠ Reg.CUR_IMG_STATUS.STATE.addr) (hann : a ∉ annalsRegs) :
    rget (imgResult s code serial sec) a = rget s a := by
  have h1 := regsOk_fset h Reg.CUR_IMG_STATUS.LAST_RESULT code
  have h2 := regsOk_fset h1 Reg.CUR_IMG_STATUS.FAIL_SECTION sec
  have h3 := regsOk_fset h2 Reg.CUR_IMG_STATUS.STATE (if code = 0 then imgDone else imgFailed)
  rw [imgResult, msix_rget, imgRecord, annal_rget h3 _ _ _ _ _ _ hann]
  exact (rget_fset_ne h2 (f := Reg.CUR_IMG_STATUS.STATE) _ ha).trans ((rget_fset_ne h1 (f := Reg.CUR_IMG_STATUS.FAIL_SECTION) _ ha).trans (rget_fset_ne h _ ha))

/-- A command that is answered at once shows its result under its own TAG, and leaves the images as they were. -/
theorem imgResult_answers (h : s.regsOk) (tag code serial sec : Nat) :
    (imgResult (fset s Reg.CUR_IMG_STATUS.TAG tag) code serial sec).img = s.img ∧
      imgShows (imgResult (fset s Reg.CUR_IMG_STATUS.TAG tag) code serial sec) tag code sec :=
  ⟨imgResult_img .., imgResult_shows (regsOk_fset h ..) _ _ _ _ (fget_fset_same h _ _ (by decide))⟩

theorem exec_raiseFloor_bound (h : imgReady s) (hbound : s.img.bound.plain = false) (tag : Nat) :
    exec (.raiseFloor tag true) s = .next (floorRaised s tag) := by
  show execRaiseFloor tag true s = _
  simp only [execRaiseFloor, imgCommand_ready h, fset_img, hbound]
  rfl

theorem floorRaised_shows (h : s.regsOk) (tag : Nat) :
    fget (floorRaised s tag) Reg.CUR_IMG_FLOOR.FLOOR = max s.img.store.floor s.img.bound.serial % 2 ^ 64 ∧ imgShows (floorRaised s tag) tag 0x00 0 := by
  let n := max s.img.store.floor s.img.bound.serial
  let u := fset s Reg.CUR_IMG_STATUS.TAG tag
  have hu : u.regsOk := regsOk_fset h _ _
  let v : State := { u with img := { u.img with store := { u.img.store with floor := n } } }
  have hv : v.regsOk := hu
  have hw : (fset v Reg.CUR_IMG_FLOOR.FLOOR n).regsOk := regsOk_fset hv _ _
  refine ⟨?_, imgResult_shows hw _ _ _ _ ?_⟩
  · show fget (imgResult (fset v Reg.CUR_IMG_FLOOR.FLOOR n) _ _ _) _ = _
    rw [fget, imgResult_rget hw _ _ _ (by decide) (by decide)]
    exact fget_fset_same hv _ _ (by decide)
  · rw [fget_fset_other hv _ _ _ (by decide) (by decide)]
    exact fget_fset_same h _ _ (by decide)

theorem exec_raiseFloor_plain (h : imgReady s) (hplain : s.img.bound.plain = true) (tag : Nat) (nandOk : Bool) :
    exec (.raiseFloor tag nandOk) s = .next (imgResult (fset s Reg.CUR_IMG_STATUS.TAG tag) 0x11 0 0) := by
  show execRaiseFloor tag nandOk s = _
  simp only [execRaiseFloor, imgCommand_ready h, fset_img, hplain]
  rfl

/-! ### ROLLBACK -/

/-- A step that both of two checks take first fails both or neither. -/
theorem fails_of_same_step {c : Prop} [Decidable c] {e r : ImgFail} {x y : Option ImgFail} (h : ∃ e, x = some e ∧ (y = none → e = r)) :
    ∃ e', (if c then some e else x) = some e' ∧ ((if c then some e else y) = none → e' = r) := by
  split
  · exact ⟨e, rfl, nofun⟩
  · exact h

/-- An image below the floor fails its check: with ROLLBACK where nothing else is at fault, since no other step of R30 looks at the floor. -/
theorem checkImage_below_floor {rev floor len : Nat} {anchor : Nat × Bytes} {b : Bytes} (h : rd b 0x18 8 < floor) :
    ∃ e, checkImage rev floor (some anchor) len b = some e ∧ (checkImage rev 0 (some anchor) len b = none → e = ⟨0x06, 0⟩) := by
  unfold checkImage
  refine fails_of_same_step (fails_of_same_step (fails_of_same_step (fails_of_same_step ?_)))
  rw [if_pos h]
  exact ⟨_, rfl, fun _ => rfl⟩

/-- A whole image whose check fails is answered by the failing step's code and section. -/
theorem exec_store_failed (hok : s.regsOk) (h : imgReady s) {anchor : Nat × Bytes} {b : Bytes} {e : ImgFail} (hanchor : s.img.store.anchor = some anchor)
    (hlen : b.length = fget s Reg.CUR_IMG_LEN.LEN) (hpages : b.length % 4096 = 0) (hmax : b.length ≤ 268435456)
    (hcheck : checkImage (moduleRev s) s.img.store.floor (some anchor) b.length b = some e) (tag : Nat) (nandOk : Bool) :
    exec (.store tag (.data b) nandOk) s = .next (imgResult (fset s Reg.CUR_IMG_STATUS.TAG tag) e.code (rd b 0x18 8) e.failSection) := by
  have hrev : moduleRev (fset s Reg.CUR_IMG_STATUS.TAG tag) = moduleRev s := rfl
  have hfetched : fget (fset s Reg.CUR_IMG_STATUS.TAG tag) Reg.CUR_IMG_LEN.LEN = b.length :=
    (fget_fset_other hok _ _ _ (by decide) (by decide)).trans hlen.symm
  show execStore tag (.data b) nandOk s = _
  simp [execStore, imgCommand_ready h, storeRun, hfetched, hanchor, hpages, Nat.not_lt.2 hmax, hrev, hcheck]

theorem exec_bind_below_floor (h : imgReady s) {b : Bytes} (hpending : pendingImage s = some b) (hserial : (parseImage b).serial < s.img.store.floor)
    (tag : Nat) : exec (.bind tag) s = .next (imgResult (fset s Reg.CUR_IMG_STATUS.TAG tag) 0x06 (parseImage b).serial 0) := by
  show execBind tag s = _
  have hp : pendingImage (fset s Reg.CUR_IMG_STATUS.TAG tag) = some b := hpending
  simp only [execBind, imgCommand_ready h, bindRun, hp, fset_img, hserial, if_true]

/-- Settles O57: `exec_keepsFloor` leaves RAISE_FLOOR as the one command that changes the floor, `floorRaised` is what it does, and an image below
the floor is answered ROLLBACK (`checkImage_below_floor`, `exec_bind_below_floor`). -/
theorem theFloorNeverFalls : Obligations.TheFloorNeverFalls := by
  refine ⟨rfl, fun s t h => ⟨floor_le_step h, step_floor h⟩, fun tag s hok hready => ⟨fun hbound => ?_, fun hplain ok => ?_, ?_, ?_⟩⟩
  · exact ⟨_, exec_raiseFloor_bound hready hbound tag, congrArg ImgStore.floor (floorRaised_imgStore tag), floorRaised_shows hok tag⟩
  · obtain ⟨himg, hshows⟩ := imgResult_answers hok tag 0x11 0 0
    exact ⟨_, exec_raiseFloor_plain hready hplain tag ok, congrArg (·.store.floor) himg, hshows⟩
  · intro anchor b ok hanchor hlen hpages hmax hserial
    obtain ⟨e, hcheck, hrollback⟩ := checkImage_below_floor (rev := moduleRev s) (len := b.length) (anchor := anchor) hserial
    obtain ⟨himg, hshows⟩ := imgResult_answers hok tag e.code (rd b 0x18 8) e.failSection
    exact ⟨_, exec_store_failed hok hready hanchor hlen hpages hmax hcheck tag ok, himg, fun hnone => by obtain rfl := hrollback hnone; exact hshows⟩
  · intro b hpending hserial
    exact ⟨_, exec_bind_below_floor hready hpending hserial tag, imgResult_answers hok tag 0x06 _ 0⟩

end Sys2Proof.Machine
end
end

section
/-!
PROOFS. Image commands whose interrupt is masked. An answered command raises MSI-X vector 0 of PF0 (R33); while the host has the vector masked, as
reset leaves it, the message waits in its pending bit instead (R284). The frame `State.withImages` allows the message and not the pending bit, so
the statements that claim it of DISCARD and of BIND fail.
-/
section
open Sys2Proof Sys2Proof.Machine
namespace Sys2Proof.Machine

/-- A powered module with PF0 up, whose host has written nothing: vector 0 is masked, as at reset. -/
def maskedHost : State :=
  { State.reset with pst := { State.reset.pst with depth := 0 }, hst := { State.reset.hst with linkA := true, master := [.pf0] } }

theorem maskedHost_regsOk : maskedHost.regsOk := rfl

theorem maskedHost_powered : unpowered maskedHost = false := rfl

theorem maskedHost_idle : imgBusy maskedHost = false := by decide +kernel

/-- What an image command that does not bind may change leaves the pending bits alone. -/
theorem withImages_msixPend (s t : State) : (s.withImages t).out.msixPend = s.out.msixPend := rfl

/-- A command after which a message is pending does not keep to the frame. -/
theorem ne_withImages_of_pending {i : Instr} {t u : State} (ht : exec i maskedHost = .next t) (hpend : t.out.msixPend = [(.pf0, 0)])
    (hu : exec i maskedHost = .next u) : u ≠ maskedHost.withImages u := by
  intro hframe
  obtain rfl : t = u := by rw [ht] at hu; cases hu; rfl
  have hnone : t.out.msixPend = [] := (congrArg (·.out.msixPend) hframe).trans (withImages_msixPend ..)
  rw [hpend] at hnone
  cases hnone

/-- DISCARD of an empty pending slot is answered OK, and its message is pending. -/
theorem discard_maskedHost : ∃ t, exec (.discard 0) maskedHost = .next t ∧ t.out.msixPend = [(.pf0, 0)] := ⟨_, rfl, by decide +kernel⟩

/-- BIND of an empty pending slot is answered NO_PENDING, and its message is pending. -/
theorem bind_maskedHost : ∃ t, exec (.bind 0) maskedHost = .next t ∧ t.out.msixPend = [(.pf0, 0)] := ⟨_, rfl, by decide +kernel⟩

/-- Refutes O1: DISCARD on `maskedHost` sets the pending bit of vector 0, which `t = s.withImages t` leaves as it was. -/
theorem not_imageStoreCommands : ¬ Obligations.ImageStoreCommands := by
  unfold Obligations.ImageStoreCommands
  rintro ⟨-, hcommands⟩
  obtain ⟨⟨u, hu, hframe, -⟩, -⟩ := hcommands 0 maskedHost maskedHost_regsOk ⟨maskedHost_powered, maskedHost_idle⟩
  obtain ⟨t, ht, hpend⟩ := discard_maskedHost
  exact ne_withImages_of_pending ht hpend hu hframe

/-- Refutes O2: BIND on `maskedHost`, with no image pending, sets the pending bit of vector 0, which `t = s.withImages t` leaves as it was. -/
theorem not_bindStartsAndEnds : ¬ Obligations.BindStartsAndEnds := by
  unfold Obligations.BindStartsAndEnds
  rintro ⟨hcommands, -⟩
  obtain ⟨hbind, -⟩ := hcommands 0 maskedHost maskedHost_regsOk maskedHost_powered
  obtain ⟨u, hu, hframe, -⟩ := hbind maskedHost_idle
  obtain ⟨t, ht, hpend⟩ := bind_maskedHost
  exact ne_withImages_of_pending ht hpend hu hframe

end Sys2Proof.Machine
end
end

section
/-!
PROOFS. The module right after reset (R18, R29, R276, R408, R433).
-/
section
open Sys2Proof Sys2Proof.Machine
namespace Sys2Proof.Machine

/-- No carrel has taken a pass number yet (R17). -/
theorem carrelSt_reset (n : Nat) : (carrelSt State.reset n).nextPass = 1 ∧ (carrelSt State.reset n).limit = 2 ^ 20 := ⟨rfl, rfl⟩

/-- With an empty register table every register reads its reset value. -/
theorem rget_reset (a : Nat) : rget State.reset a = regReset a := rfl

/-- CUR.IDENTITY, PWR.CAP, INT.STALL_LIMIT, CAR.PASS and CUR.FSR_RING, as the register maps have them. -/
theorem regReset_values : regReset 0x0 = 0x4800B0B0B0B0B0B0 ∧ regReset 0x200008 = 0x1902328 ∧ regReset (carBase 7 + 0x100) = 0xC350 ∧
    regReset (carBase 1024 + 0x28) = 0 ∧ regReset 0x109020 = 0x400 := by decide +kernel

/-- Settles O7: the reset state holds these values by its definition, and its empty tables stand in their canonical forms. -/
theorem resetState : Obligations.ResetState :=
  ⟨rfl, rfl, rfl, rfl, rfl, rfl, rfl, rfl, rfl, rfl, rfl, rfl, rfl, rfl, rfl, rfl, rfl, carrelSt_reset, rget_reset, regReset_values⟩

end Sys2Proof.Machine
end
end

section
/-!
PROOFS. What programming, wear levelling, deep collation and refresh do to the folios (R66, R67, R200 to R203, R211): a change of folios leaves the
module as it was but for those folios, what collation keeps of them, and the annals.
-/
section
open Sys2Proof Sys2Proof.Machine
namespace Sys2Proof.Machine

/-! ### Listed keys -/

section
variable {α : Type} [DecidableEq α] {d : Nat → α} {m : Sparse α}

/-- The keys of a table above a bound lie above it. -/
theorem lt_of_mem_swfFrom {b : Nat} (h : swfFrom d (some b) m = true) : ∀ e ∈ m, b < e.1 := by
  induction m generalizing b with
  | nil => simp
  | cons e m ih =>
    simp only [swfFrom, Bool.and_eq_true, decide_eq_true_eq] at h
    obtain ⟨⟨hb, -⟩, hm⟩ := h
    rintro x (_ | ⟨_, hx⟩)
    · exact hb
    · exact hb.trans (ih hm x hx)

/-- A table lists what its keys read as, and nothing that an unlisted key reads as. -/
theorem mem_iff_sget (h : swf d m = true) {k : Nat} {v : α} : (k, v) ∈ m ↔ sget d m k = v ∧ v ≠ d k := by
  unfold swf at h
  generalize none = b at h
  induction m generalizing b with
  | nil => simp +contextual [sget, eq_comm]
  | cons e m ih =>
    obtain ⟨j, w⟩ := e
    simp only [swfFrom, Bool.and_eq_true, decide_eq_true_eq] at h
    obtain ⟨⟨-, hw⟩, hm⟩ := h
    have hnot : k ≤ j → (k, v) ∉ m := fun hle hmem => absurd (lt_of_mem_swfFrom hm _ hmem) (by simpa using hle)
    rw [List.mem_cons, Prod.mk.injEq]
    rcases Nat.lt_trichotomy k j with hlt | rfl | hgt
    · simp +contextual [sget, hlt, hlt.ne, hnot hlt.le, eq_comm]
    · simp only [sget, hnot le_rfl, if_true, true_and, or_false]
      exact ⟨fun hv => ⟨hv.symm, hv ▸ hw⟩, fun hv => hv.1.symm⟩
    · simp [sget, hgt.ne', hgt.not_gt, ih _ hm]

/-- No key is listed twice. -/
theorem nodup_keys (h : swf d m = true) : (m.map Prod.fst).Nodup := by
  unfold swf at h
  generalize none = b at h
  induction m generalizing b with
  | nil => simp
  | cons e m ih =>
    simp only [swfFrom, Bool.and_eq_true] at h
    rw [List.map_cons, List.nodup_cons]
    refine ⟨fun hmem => ?_, ih _ h.2⟩
    obtain ⟨x, hx, he⟩ := List.mem_map.mp hmem
    exact absurd (lt_of_mem_swfFrom h.2 x hx) (by simp [he])

end

theorem mem_insertBy {α : Type} (le : α → α → Bool) (x y : α) (xs : List α) : y ∈ insertBy le x xs ↔ y = x ∨ y ∈ xs := by
  induction xs with
  | nil => simp [insertBy]
  | cons z zs ih =>
    simp only [insertBy]
    split
    · simp
    · simp [ih, or_left_comm]

/-- Sorting keeps a list's elements. -/
theorem mem_sortBy {α : Type} (xs : List α) (le : α → α → Bool) (y : α) : y ∈ sortBy xs le ↔ y ∈ xs := by
  induction xs with
  | nil => simp [sortBy]
  | cons x xs ih => exact (mem_insertBy le x y (sortBy xs le)).trans (by rw [ih, List.mem_cons])

/-! ### A change of folios -/

variable {s t u : State} {ks js : List Nat}

/-- The module without what a change of its folios may change: the registers, the annals and the alert pin (R66, R369), the folios themselves, and what
collation keeps of them. -/
def State.offFolios (s : State) : State :=
  { s with
    regs := [], ann := { lastSeq := 0, ring := [], counts := [], flagged := [] }, pst := { s.pst with sbAlert := false }
    arr := { s.arr with folios := [] }, col := freshCollation }

/-- Of `t` all but the folios, what collation keeps of them, and the annals is as in `s`, the canonical forms of `s` stand. -/
structure AroundFolios (s t : State) : Prop where
  off : t.offFolios = s.offFolios
  regs : s.regsFrom t []
  regsOk : t.regsOk
  foliosOk : t.foliosOk

theorem AroundFolios.refl (hr : s.regsOk) (hf : s.foliosOk) : AroundFolios s s := ⟨rfl, fun _ _ _ => rfl, hr, hf⟩

theorem AroundFolios.trans (h : AroundFolios s t) (h' : AroundFolios t u) : AroundFolios s u :=
  ⟨h'.off.trans h.off, fun a ha hann => (h'.regs a ha hann).trans (h.regs a ha hann), h'.regsOk, h'.foliosOk⟩

/-- All that such a change may have changed stands in `t`. -/
theorem State.eq_of_offFolios (h : t.offFolios = s.offFolios) :
    t = { s.withRegs t with arr := { s.arr with folios := t.arr.folios }, col := t.col } :=
  calc t = { t.offFolios.withRegs t with arr := { t.offFolios.arr with folios := t.arr.folios }, col := t.col } := rfl
    _ = { s.offFolios.withRegs t with arr := { s.offFolios.arr with folios := t.arr.folios }, col := t.col } := by rw [h]
    _ = _ := rfl

theorem AroundFolios.annal (h : AroundFolios s t) (kind sev : Nat) (obj : Obj) (a0 a1 a2 : Nat) :
    AroundFolios s (annal t kind sev obj a0 a1 a2) where
  off := by rw [annal_frame]; exact h.off
  regs a ha hann := (annal_rget h.regsOk kind sev obj a0 a1 a2 hann).trans (h.regs a ha hann)
  regsOk := annal_regsOk h.regsOk kind sev obj a0 a1 a2
  foliosOk := by rw [annal_frame]; exact h.foliosOk

/-- What collation keeps may change. -/
theorem AroundFolios.collation (h : AroundFolios s t) (c : Collation) : AroundFolios s { t with col := c } := ⟨h.off, h.regs, h.regsOk, h.foliosOk⟩

theorem AroundFolios.modFolio (h : AroundFolios s t) (k : Nat) (f : Folio → Folio) : AroundFolios s (modFolio t k f) :=
  ⟨h.off, h.regs, h.regsOk, foliosOk_modFolio h.foliosOk k f⟩

/-- Between `s` and `t` folio `k` has become `g`, and every other folio is as it was. -/
structure FolioBecomes (s t : State) (k : Nat) (g : Folio) : Prop extends AroundFolios s t where
  folio : folioAt t k = g
  others : ∀ j, j ≠ k → folioAt t j = folioAt s j

theorem FolioBecomes.refl (hr : s.regsOk) (hf : s.foliosOk) (k : Nat) : FolioBecomes s s k (folioAt s k) := ⟨.refl hr hf, rfl, fun _ _ => rfl⟩

theorem FolioBecomes.collation {k : Nat} {g : Folio} (h : FolioBecomes s t k g) (c : Collation) : FolioBecomes s { t with col := c } k g :=
  ⟨h.toAroundFolios.collation c, h.folio, h.others⟩

theorem FolioBecomes.modFolio {k : Nat} {g : Folio} (h : FolioBecomes s t k g) (f : Folio → Folio) : FolioBecomes s (modFolio t k f) k (f g) :=
  ⟨h.toAroundFolios.modFolio k f, (folioAt_modFolio h.foliosOk k f).trans (congrArg f h.folio),
    fun j hj => (folioAt_modFolio_ne h.foliosOk f hj).trans (h.others j hj)⟩

/-- A record changes no folio. -/
@[simp] theorem annal_folioAt (s : State) (kind sev : Nat) (obj : Obj) (a0 a1 a2 k : Nat) : folioAt (annal s kind sev obj a0 a1 a2) k = folioAt s k := by
  rw [annal_frame]; rfl

/-- A folio changes state (R66). -/
theorem FolioBecomes.toState {k : Nat} {g : Folio} (h : FolioBecomes s t k g) (st : FState) : FolioBecomes s (toState t k st) k { g with st := st } := by
  have h' := h.modFolio fun f => { f with st := st }
  exact ⟨h'.toAroundFolios.annal .., (annal_folioAt ..).trans h'.folio, fun j hj => (annal_folioAt ..).trans (h'.others j hj)⟩

/-- The change of state is recorded with the old state, the new one and WEAR (R66). -/
theorem FolioBecomes.toState_recorded {k : Nat} {g : Folio} (h : FolioBecomes s t k g) (hann : t.ann = s.ann) (st : FState) :
    recorded s (Machine.toState t k st) 0x0200 0 g.st.code st.code g.wear := by
  have hclk : t.clk = s.clk := (congrArg State.clk h.off :)
  have hrec : recorded t (Machine.toState t k st) 0x0200 0 (folioAt t k).st.code st.code (folioAt t k).wear :=
    annal_recorded (Machine.modFolio t k fun f => { f with st := st }) ..
  rw [h.folio] at hrec
  simpa only [recorded, hann, hclk] using hrec

/-! ### Programming (R200, R211) -/

/-- A folio as its programming begins, before it enters ACCESSING: one more WEAR, its slot and levels, and all that collation knew of it gone. -/
def Folio.rewritten (region slot role e : Nat) (content : Content) (p : Purpose) (replaces : Nat) (f : Folio) : Folio :=
  { f with
    wear := min (f.wear + 1) 16383, ready := false, logical := slot, region := region, pairRole := role, rangeExp := e
    content := content, purpose := p, replaces := replaces, bankA := [], bankB := [], bank := 0, shadowValid := false
    shadowAt := 0, sweeps := 0, sweepPending := false, deepPending := false, refreshDue := false, dueHours := none
    ageHours := 0, residual := 0, bootDone := true }

/-- The end of a request changes only what collation keeps. -/
theorem endRequest_frame (s : State) (k : Nat) : endRequest s k = { s with col := (endRequest s k).col } := by
  unfold endRequest
  split
  · split <;> rfl
  · rfl

/-- Programming rewrites the folio and takes it into ACCESSING; besides, only what collation keeps of it goes. -/
theorem startProgram_eq (s : State) (k region slot role e : Nat) (content : Content) (p : Purpose) (replaces : Nat) :
    ∃ c, startProgram s k region slot role e content p replaces =
      toState (modFolio { s with col := c } k (Folio.rewritten region slot role e content p replaces)) k .accessing := by
  refine ⟨(endRequest (forgetFolio s k) k).col, ?_⟩
  unfold startProgram
  rw [endRequest_frame]
  rfl

theorem startProgram_becomes (hr : s.regsOk) (hf : s.foliosOk) (k region slot role e : Nat) (content : Content) (p : Purpose) (replaces : Nat) :
    FolioBecomes s (startProgram s k region slot role e content p replaces) k
      { (folioAt s k).rewritten region slot role e content p replaces with st := .accessing } := by
  obtain ⟨c, hc⟩ := startProgram_eq s k region slot role e content p replaces
  rw [hc]
  exact (((FolioBecomes.refl hr hf k).collation c).modFolio _).toState _

/-- The start is recorded with the WEAR that it leaves. -/
theorem startProgram_recorded (hr : s.regsOk) (hf : s.foliosOk) (k region slot role e : Nat) (content : Content) (p : Purpose) (replaces : Nat) :
    recorded s (startProgram s k region slot role e content p replaces) 0x0200 0 (folioAt s k).st.code FState.accessing.code
      (min ((folioAt s k).wear + 1) 16383) := by
  obtain ⟨c, hc⟩ := startProgram_eq s k region slot role e content p replaces
  rw [hc]
  exact (((FolioBecomes.refl hr hf k).collation c).modFolio (Folio.rewritten region slot role e content p replaces)).toState_recorded rfl _

/-- A copy rewrites its spare with the slot, the region and the levels of the folio that it is to replace (R176, R180, R211). -/
theorem startCopy_becomes (hr : s.regsOk) (hf : s.foliosOk) (k c : Nat) (p : Purpose) :
    FolioBecomes s (startCopy s k c p) c
      { (folioAt s c).rewritten (folioAt s k).region (folioAt s k).logical (folioAt s k).pairRole (folioAt s k).rangeExp (folioAt s k).content p (k % 68)
        with st := .accessing } :=
  startProgram_becomes hr hf ..

/-! ### Folios that are lost (R66, R203) -/

/-- A folio that serves no slot and replaces none. -/
def Folio.outOfService (f : Folio) : Folio := { f with ready := false, logical := 0x7F, purpose := .none, replaces := 0x7F }

/-- A retired folio is out of service, and what collation measured of it goes. -/
theorem FolioBecomes.retired {k : Nat} {g : Folio} (h : FolioBecomes s t k g) :
    FolioBecomes s (Machine.modFolio (dropSweep (Machine.toState t k .retired) k) k Folio.outOfService) k { g.outOfService with st := .retired } :=
  ((h.toState .retired).collation _).modFolio Folio.outOfService

/-! ### The choice of a spare (R68, R195) -/

/-- The spare that an activity may take is the first usable one of its shelf. -/
theorem spareFor_head {shelf rank c : Nat} (h : spareFor s shelf rank = some c) : (usableSpares s shelf).head? = some c := by
  simp only [spareFor] at h
  split at h
  · exact h
  · cases h

theorem spareFor_spare {shelf rank c : Nat} (h : spareFor s shelf rank = some c) : (folioAt s c).st = .spare := by
  have hmem : c ∈ usableSpares s shelf := List.mem_of_head? (spareFor_head h)
  simp only [usableSpares, mem_sortBy, sparesOf, List.mem_filter, beq_iff_eq] at hmem
  exact hmem.1.2

end Sys2Proof.Machine
end
end

section
/-!
PROOFS. FOLIO_PROGRAM_START, FOLIO_PROGRAM_DONE and WEAR_LEVEL (R66, R200, R201, R203, R211).
-/
section
open Sys2Proof Sys2Proof.Machine
namespace Sys2Proof.Machine

variable {s t u : State}

/-- A change of folios that also draws free values: what it leaves of `s`. -/
theorem State.eq_of_offFolios_free {n : Nat} (h : t.offFolios = { s.offFolios with free := n }) :
    t = { s.withRegs t with arr := { s.arr with folios := t.arr.folios }, col := t.col, free := t.free } := by
  have hfree : t.free = n := (congrArg State.free h :)
  calc t = { t.offFolios.withRegs t with arr := { t.offFolios.arr with folios := t.arr.folios }, col := t.col } := rfl
    _ = { ({ s.offFolios with free := t.free } : State).withRegs t with arr := { s.arr with folios := t.arr.folios }, col := t.col } := by
      rw [h, hfree]; rfl
    _ = _ := rfl

/-- Of `s` only the folios `ks`, what collation keeps, the annals and the free draws have changed. -/
def onlyFolios (s t : State) (ks : List Nat) : Prop :=
  t = { s.withRegs t with arr := { s.arr with folios := t.arr.folios }, col := t.col, free := t.free } ∧ s.regsFrom t [] ∧
    ∀ j, j ∉ ks → folioAt t j = folioAt s j

theorem AroundFolios.only {n : Nat} {ks : List Nat} (h : AroundFolios { s with free := n } t) (hks : ∀ j, j ∉ ks → folioAt t j = folioAt s j) :
    onlyFolios s t ks :=
  ⟨State.eq_of_offFolios_free h.off, h.regs, hks⟩

theorem FolioBecomes.only {n k : Nat} {g : Folio} (h : FolioBecomes { s with free := n } t k g) : onlyFolios s t [k] :=
  h.toAroundFolios.only fun j hj => h.others j (mt List.mem_singleton.mpr hj)

/-! ### FOLIO_PROGRAM_START (R200, R201) -/

/-- With one target that can start, and room for it, a round starts it. -/
theorem execFolioProgramStart_starts {h r : Nat} {x : Target} (hoff : hallOff s h = false) (hx : startable s h = [(r, x)])
    (hslots : 0 < programSlots s h .accession (fget s Reg.ACC_CTRL.POWER_DW)) :
    execFolioProgramStart h s = .next (programTarget s r (accOf s r) x) := by
  obtain ⟨n, hn⟩ := Nat.exists_eq_succ_of_ne_zero hslots.ne'
  simp [execFolioProgramStart, hoff, hx, hn]

theorem exec_folioProgramStart {h r : Nat} {x : Target} {b : Bytes} (hr : s.regsOk) (hf : s.foliosOk) (hoff : hallOff s h = false)
    (hx : startable s h = [(r, x)]) (hslots : 0 < programSlots s h .accession (fget s Reg.ACC_CTRL.POWER_DW))
    (hb : targetBlock s r (accOf s r) x = some b) :
    let key := folioKey x.shelf x.pos
    ∃ t, exec (.folioProgramStart h) s = .next t ∧ onlyFolios s t [key] ∧ (folioAt t key).st = .accessing ∧
      (folioAt t key).wear = min ((folioAt s key).wear + 1) 16383 ∧ (folioAt t key).logical = x.slot ∧ (folioAt t key).region = r ∧
      (folioAt t key).content = (if x.low then .low b else .high b) ∧
      recorded s t 0x0200 0 (folioAt s key).st.code FState.accessing.code (min ((folioAt s key).wear + 1) 16383) := by
  intro key
  obtain ⟨role, e, p, hp⟩ : ∃ role e p, programTarget s r (accOf s r) x = startProgram s key r x.slot role e (if x.low then .low b else .high b) p 0x7F :=
    ⟨_, _, _, by simp only [programTarget, hb]; rfl⟩
  have hbe := startProgram_becomes hr hf key r x.slot role e (if x.low then .low b else .high b) p 0x7F
  refine ⟨_, (execFolioProgramStart_starts hoff hx hslots).trans (congrArg _ hp), hbe.only (n := s.free), ?_⟩
  rw [hbe.folio]
  exact ⟨rfl, rfl, rfl, rfl, rfl, startProgram_recorded hr hf ..⟩

theorem execFolioProgramStart_waits {h : Nat} (hw : hallOff s h = true ∨ startable s h = []) : execFolioProgramStart h s = .next s := by
  rcases hw with hoff | hnone
  · simp [execFolioProgramStart, hoff]
  · simp [execFolioProgramStart, hnone]

/-! ### FOLIO_PROGRAM_DONE (R200, R202, R203) -/

/-- A folio as its programming has left it: its stuck map, and its trims programmed anew by draw `n`. -/
def Folio.verified (m : List StuckCell) (n : Nat) (f : Folio) : Folio :=
  { f with stuckMap := m, stuck := min (uncompensated m) 16383, trimProgs := f.trimProgs + 1, trimDraw := n, trims := [] }

/-- The module once write-and-verify has given folio `k` its map. -/
def programVerified (s : State) (k : Nat) (m : List StuckCell) : State := modFolio { s with free := s.free + 1 } k (Folio.verified m s.free)

theorem programVerified_becomes (hr : s.regsOk) (hf : s.foliosOk) (k : Nat) (m : List StuckCell) :
    FolioBecomes { s with free := s.free + 1 } (programVerified s k m) k ((folioAt s k).verified m s.free) :=
  (FolioBecomes.refl (s := { s with free := s.free + 1 }) hr hf k).modFolio _

theorem execFolioProgramDone_waits {shelf pos : Nat} (h : hallOff s (hallOf shelf) = true ∨ (folioAt s (folioKey shelf pos)).st ≠ .accessing)
    (cells : List (Nat × Nat × Nat × Int × Int)) : execFolioProgramDone shelf pos cells s = .next s := by
  rcases h with hoff | hst
  · simp [execFolioProgramDone, hoff]
  · simp [execFolioProgramDone, hst]

/-- The map decides whether the folio goes on to collation or is lost. -/
theorem execFolioProgramDone_ends {shelf pos : Nat} (hoff : hallOff s (hallOf shelf) = false) (hst : (folioAt s (folioKey shelf pos)).st = .accessing)
    (cells : List (Nat × Nat × Nat × Int × Int)) {m : List StuckCell}
    (hm : stuckMapOf (folioAt s (folioKey shelf pos)) (measuredCells (folioAt s (folioKey shelf pos)) s.free cells) = m) :
    execFolioProgramDone shelf pos cells s =
      .next (if stuckOk m then toState (programVerified s (folioKey shelf pos) m) (folioKey shelf pos) .collating
        else loseFolio (programVerified s (folioKey shelf pos) m) (folioKey shelf pos)) := by
  subst hm
  simp only [execFolioProgramDone, hoff, hst, bne_self_eq_false, Bool.or_self, Bool.false_eq_true, if_false]
  rfl

/-- Wear levelling of a folio may start again at once. -/
def Folio.unlevelled (f : Folio) : Folio := { f with leveled := none }

/-- A folio that no accession asked for is retired; where it was a wear-levelling copy, the folio that it was to replace may be levelled again. -/
theorem loseFolio_eq {k : Nat} (hnone : ∀ x ∈ (accOf s (folioAt s k).region).targets, ¬ (x.shelf = k / 68 ∧ x.pos = k % 68)) :
    loseFolio s k = if (folioAt s k).purpose == .wear
      then modFolio (modFolio (dropSweep (toState s k .retired) k) k Folio.outOfService) (folioKey (k / 68) (folioAt s k).replaces) Folio.unlevelled
      else modFolio (dropSweep (toState s k .retired) k) k Folio.outOfService := by
  have hany : ((accOf s (folioAt s k).region).targets.any fun t => t.shelf == k / 68 && t.pos == k % 68) = false := by
    simpa [List.any_eq_false] using hnone
  simp only [loseFolio, hany, Bool.false_eq_true, if_false]
  rfl

/-- Of a lost folio's state only `leveled` is still open: it may be the folio that it was to replace. -/
theorem folioAt_loseFolio {k : Nat} {g : Folio} (h : FolioBecomes s t k g) (hnone : ∀ x ∈ (accOf t g.region).targets, ¬ (x.shelf = k / 68 ∧ x.pos = k % 68)) :
    AroundFolios s (loseFolio t k) ∧ (∃ l, folioAt (loseFolio t k) k = { g.outOfService with st := .retired, leveled := l }) ∧
      ∀ j, j ≠ k → j ≠ folioKey (k / 68) g.replaces → folioAt (loseFolio t k) j = folioAt s j := by
  have hr := h.retired
  rw [loseFolio_eq (by rwa [h.folio]), h.folio]
  split
  · refine ⟨hr.toAroundFolios.modFolio _ _, ?_, fun j hj hold => (folioAt_modFolio_ne hr.foliosOk _ hold).trans (hr.others j hj)⟩
    by_cases hk : k = folioKey (k / 68) g.replaces
    · exact ⟨none, by rw [← hk, folioAt_modFolio hr.foliosOk, hr.folio]; rfl⟩
    · exact ⟨g.leveled, by rw [folioAt_modFolio_ne hr.foliosOk _ hk, hr.folio]; rfl⟩
  · exact ⟨hr.toAroundFolios, ⟨g.leveled, hr.folio⟩, fun j hj _ => hr.others j hj⟩

/-- The loss is recorded with the WEAR. -/
theorem loseFolio_recorded {k : Nat} {g : Folio} (h : FolioBecomes s t k g) (hann : t.ann = s.ann)
    (hnone : ∀ x ∈ (accOf t g.region).targets, ¬ (x.shelf = k / 68 ∧ x.pos = k % 68)) :
    recorded s (loseFolio t k) 0x0200 0 g.st.code FState.retired.code g.wear := by
  have hrec := h.toState_recorded hann .retired
  rw [loseFolio_eq (by rwa [h.folio])]
  split <;> exact hrec

section
variable {shelf pos : Nat} {cells : List (Nat × Nat × Nat × Int × Int)} {m : List StuckCell}

theorem exec_folioProgramDone_collates (hr : s.regsOk) (hf : s.foliosOk)
    (hm : stuckMapOf (folioAt s (folioKey shelf pos)) (measuredCells (folioAt s (folioKey shelf pos)) s.free cells) = m)
    (hoff : hallOff s (hallOf shelf) = false) (hst : (folioAt s (folioKey shelf pos)).st = .accessing) (hok : stuckOk m = true) :
    let key := folioKey shelf pos
    ∃ t, exec (.folioProgramDone shelf pos cells) s = .next t ∧ onlyFolios s t [key] ∧
      folioAt t key = { (folioAt s key).verified m s.free with st := .collating } ∧
      recorded s t 0x0200 0 FState.accessing.code FState.collating.code (folioAt s key).wear := by
  intro key
  have hv := programVerified_becomes hr hf key m
  have hrec := hv.toState_recorded rfl .collating
  rw [show (Folio.verified m s.free (folioAt s key)).st = .accessing from hst] at hrec
  exact ⟨_, (execFolioProgramDone_ends hoff hst cells hm).trans (by rw [if_pos hok]), (hv.toState .collating).only, (hv.toState .collating).folio, hrec⟩

theorem exec_folioProgramDone_retires (hr : s.regsOk) (hf : s.foliosOk)
    (hm : stuckMapOf (folioAt s (folioKey shelf pos)) (measuredCells (folioAt s (folioKey shelf pos)) s.free cells) = m)
    (hoff : hallOff s (hallOf shelf) = false) (hst : (folioAt s (folioKey shelf pos)).st = .accessing) (hbad : stuckOk m = false)
    (hnone : ∀ x ∈ (accOf s (folioAt s (folioKey shelf pos)).region).targets,
      ¬ (x.shelf = folioKey shelf pos / 68 ∧ x.pos = folioKey shelf pos % 68)) :
    let key := folioKey shelf pos
    ∃ t, exec (.folioProgramDone shelf pos cells) s = .next t ∧ onlyFolios s t [key, folioKey (key / 68) (folioAt s key).replaces] ∧
      (folioAt t key).st = .retired ∧ (folioAt t key).logical = 0x7F ∧ (folioAt t key).stuckMap = m ∧
      recorded s t 0x0200 0 FState.accessing.code FState.retired.code (folioAt s key).wear := by
  intro key
  have hv := programVerified_becomes hr hf key m
  obtain ⟨haround, ⟨l, hfolio⟩, hothers⟩ := folioAt_loseFolio hv hnone
  have hrec := loseFolio_recorded hv rfl hnone
  rw [show (Folio.verified m s.free (folioAt s key)).st = .accessing from hst] at hrec
  refine ⟨_, (execFolioProgramDone_ends hoff hst cells hm).trans (by rw [hbad]; rfl), haround.only fun j hj => ?_, ?_⟩
  · rw [List.mem_pair, not_or] at hj
    exact hothers j hj.1 hj.2
  · rw [hfolio]
    exact ⟨rfl, rfl, rfl, hrec⟩

end

/-! ### WEAR_LEVEL (R211) -/

/-- A serving folio that is due is copied onto the youngest spare, and wear levelling of it has been at this tick. -/
theorem execWearLevel_starts {shelf pos c : Nat} (hpos : pos < 68) (hoff : hallOff s (hallOf shelf) = false)
    (hst : (folioAt s (folioKey shelf pos)).st = .serving) (harch : (accOf s (folioAt s (folioKey shelf pos)).region).archive = true)
    (hen : (s.img.bound.budget 5).enable = true)
    (hdue : ∀ x, (folioAt s (folioKey shelf pos)).leveled = some x → x + (s.img.bound.budget 5).periodS * 1000000 ≤ s.clk.tick)
    (hcopy : copyOf s (folioKey shelf pos) = none) (hc : spareFor s shelf 4 = some c)
    (hyoung : (folioAt s c).wear + 256 ≤ (folioAt s (folioKey shelf pos)).wear)
    (hslots : 0 < programSlots s (hallOf shelf) .wear (s.img.bound.budget 5).powerDw) :
    execWearLevel shelf pos s =
      .next (startCopy (modFolio s (folioKey shelf pos) fun f => { f with leveled := some s.clk.tick }) (folioKey shelf pos) c .wear) := by
  have hshelf : folioKey shelf pos / 68 = shelf := by unfold folioKey; omega
  have hwear : wearDue s (folioKey shelf pos) = true := by
    simpa [wearDue, hen, harch, hshelf, spareFor_head hc, hyoung, Option.all_eq_true] using hdue
  simp [execWearLevel, hc, hoff, hst, hwear, hcopy, hslots]

theorem exec_wearLevel {shelf pos c : Nat} (hr : s.regsOk) (hf : s.foliosOk) (hpos : pos < 68) (hoff : hallOff s (hallOf shelf) = false)
    (hst : (folioAt s (folioKey shelf pos)).st = .serving) (harch : (accOf s (folioAt s (folioKey shelf pos)).region).archive = true)
    (hen : (s.img.bound.budget 5).enable = true)
    (hdue : ∀ x, (folioAt s (folioKey shelf pos)).leveled = some x → x + (s.img.bound.budget 5).periodS * 1000000 ≤ s.clk.tick)
    (hcopy : copyOf s (folioKey shelf pos) = none) (hc : spareFor s shelf 4 = some c)
    (hyoung : (folioAt s c).wear + 256 ≤ (folioAt s (folioKey shelf pos)).wear)
    (hslots : 0 < programSlots s (hallOf shelf) .wear (s.img.bound.budget 5).powerDw) :
    let key := folioKey shelf pos
    let f := folioAt s key
    ∃ t, exec (.wearLevel shelf pos) s = .next t ∧ onlyFolios s t [key, c] ∧ folioAt t key = { f with leveled := some s.clk.tick } ∧
      (folioAt t c).st = .accessing ∧ (folioAt t c).content = f.content ∧ (folioAt t c).logical = f.logical ∧ (folioAt t c).region = f.region ∧
      (folioAt t c).wear = min ((folioAt s c).wear + 1) 16383 := by
  intro key f
  have hne : key ≠ c := fun he => by simp [key, he, spareFor_spare hc] at hst
  have hlev := (FolioBecomes.refl hr hf key).modFolio fun f => { f with leveled := some s.clk.tick }
  have hbe := startCopy_becomes hlev.regsOk hlev.foliosOk key c .wear
  rw [hlev.folio, hlev.others c hne.symm] at hbe
  refine ⟨_, execWearLevel_starts hpos hoff hst harch hen hdue hcopy hc hyoung hslots,
    (hlev.toAroundFolios.trans hbe.toAroundFolios).only (n := s.free) fun j hj => ?_, (hbe.others key hne).trans hlev.folio, ?_⟩
  · rw [List.mem_pair, not_or] at hj
    exact (hbe.others j hj.2).trans (hlev.others j hj.1)
  · rw [hbe.folio]
    exact ⟨rfl, rfl, rfl, rfl, rfl⟩

/-- Settles O34: a start rewrites the folio of its one target (`exec_folioProgramStart`); the end keeps the map, which takes the folio on to collation or
out of service (`exec_folioProgramDone_collates`, `exec_folioProgramDone_retires`); a due folio is copied onto a spare (`exec_wearLevel`). -/
theorem foliosAreProgrammed : Obligations.FoliosAreProgrammed := by
  unfold Obligations.FoliosAreProgrammed
  intro s hf hr only
  exact ⟨fun h r x b => exec_folioProgramStart hr hf, fun h => execFolioProgramStart_waits,
    fun shelf pos cells => ⟨fun h => execFolioProgramDone_waits h cells, exec_folioProgramDone_collates hr hf rfl, exec_folioProgramDone_retires hr hf rfl⟩,
    fun shelf pos c => exec_wearLevel hr hf⟩

end Sys2Proof.Machine
end
end

section
/-!
PROOFS. DEEP_COLLATION and DRIFT_REFRESH (R68, R172, R176, R177, R180) and the hour (R179).
-/
section
open Sys2Proof Sys2Proof.Machine
namespace Sys2Proof.Machine

variable {s t u : State}

/-! ### Copies and deferrals -/

theorem FolioBecomes.trans {k : Nat} {g g' : Folio} (h : FolioBecomes s t k g) (h' : FolioBecomes t u k g') : FolioBecomes s u k g' :=
  ⟨h.toAroundFolios.trans h'.toAroundFolios, h'.folio, fun j hj => (h'.others j hj).trans (h.others j hj)⟩

/-- Folio `k` is being copied onto `c` for a purpose, and goes on as it was. -/
def copiedOnto (s t : State) (k c : Nat) (p : Purpose) : Prop :=
  t = { s.withRegs t with arr := { s.arr with folios := t.arr.folios }, col := t.col } ∧ s.regsFrom t [] ∧
    (∀ j, j ≠ c → folioAt t j = folioAt s j) ∧ (folioAt t c).st = .accessing ∧ (folioAt t c).content = (folioAt s k).content ∧
    (folioAt t c).logical = (folioAt s k).logical ∧ (folioAt t c).region = (folioAt s k).region ∧ (folioAt t c).purpose = p ∧
    (folioAt t c).replaces = k % 68 ∧ (folioAt t c).wear = min ((folioAt s c).wear + 1) 16383

/-- Deferred work that is carried out is a copy like any other (R172). -/
theorem startCopy_copiedOnto (hr : s.regsOk) (hf : s.foliosOk) (k c : Nat) (p : Purpose) : copiedOnto s (startCopy (undefer s k) k c p) k c p := by
  have hu : FolioBecomes s (undefer s k) c (folioAt s c) := (FolioBecomes.refl hr hf c).collation _
  have hbe := hu.trans (startCopy_becomes hu.regsOk hu.foliosOk k c p)
  refine ⟨State.eq_of_offFolios hbe.off, hbe.regs, hbe.others, ?_⟩
  rw [hbe.folio]
  exact ⟨rfl, rfl, rfl, rfl, rfl, rfl, rfl⟩

/-- The first deferral of folio `k` for want of the archive copy is recorded, and nothing else changes (R172). -/
def deferredOnce (s t : State) (k act : Nat) : Prop :=
  t = { s.withRegs t with col := { s.col with deferred := s.col.deferred ++ [k] } } ∧ recorded s t 0x0202 1 act 0 0

theorem deferArchive_deferredOnce {k : Nat} (h : s.col.deferred.elem k = false) (act : Nat) : deferredOnce s (deferArchive s k act) k act := by
  rw [deferArchive, h, if_neg Bool.false_ne_true]
  exact ⟨annal_frame .., annal_recorded { s with col := { s.col with deferred := s.col.deferred ++ [k] } } ..⟩

theorem deferArchive_again {k : Nat} (h : s.col.deferred.elem k = true) (act : Nat) : deferArchive s k act = s := if_pos h

/-! ### DEEP_COLLATION (R176, R177) -/

section
variable {shelf pos : Nat}

/-- No deep collation of a folio that is not due, is refreshed or replaced instead, or is being copied; none where the clocks stand or a bind holds. -/
theorem execDeepCollation_waits (h : hallOff s (hallOf shelf) = true ∨ (folioAt s (folioKey shelf pos)).st ≠ .serving ∨
    (folioAt s (folioKey shelf pos)).deepPending = false ∨ (folioAt s (folioKey shelf pos)).refreshDue = true ∨
    (folioAt s (folioKey shelf pos)).failed = true ∨ (copyOf s (folioKey shelf pos)).isSome = true ∨
    bindHolds s (folioAt s (folioKey shelf pos)).region = true) : execDeepCollation shelf pos s = .next s := by
  rcases h with h | h | h | h | h | h | h <;> simp [execDeepCollation, h]

/-- What a due folio needs of the archive copy, the activity, the power and the spares. -/
theorem execDeepCollation_due (hoff : hallOff s (hallOf shelf) = false) (hst : (folioAt s (folioKey shelf pos)).st = .serving)
    (hdeep : (folioAt s (folioKey shelf pos)).deepPending = true) (hdue : (folioAt s (folioKey shelf pos)).refreshDue = false)
    (hok : (folioAt s (folioKey shelf pos)).failed = false) (hcopy : copyOf s (folioKey shelf pos) = none)
    (hbind : bindHolds s (folioAt s (folioKey shelf pos)).region = false) :
    let key := folioKey shelf pos
    (∀ c, archiveHere s (folioAt s key).region = true → activityOn s (Reg.COL_CTRL.DEEP_EN (hallOf shelf)) 4 = true →
      0 < programSlots s (hallOf shelf) .deep (s.img.bound.budget 4).powerDw → spareFor s shelf 3 = some c →
      execDeepCollation shelf pos s = .next (startCopy (undefer s key) key c .deep)) ∧
    (archiveHere s (folioAt s key).region = false → execDeepCollation shelf pos s = .next (deferArchive s key 4)) := by
  constructor
  · intro c harch hon hslots hc
    simp [execDeepCollation, hoff, hst, hdeep, hdue, hok, hcopy, hbind, harch, hon, hslots.ne', hc]
  · intro harch
    simp [execDeepCollation, hoff, hst, hdeep, hdue, hok, hcopy, hbind, harch]

/-! ### DRIFT_REFRESH (R68, R177, R180) -/

theorem execDriftRefresh_waits (h : hallOff s (hallOf shelf) = true ∨ (folioAt s (folioKey shelf pos)).st ≠ .serving ∨
    ((folioAt s (folioKey shelf pos)).refreshDue = false ∧ (folioAt s (folioKey shelf pos)).failed = false) ∨
    (copyOf s (folioKey shelf pos)).isSome = true ∨ bindHolds s (folioAt s (folioKey shelf pos)).region = true) :
    execDriftRefresh shelf pos s = .next s := by
  rcases h with h | h | ⟨h, h'⟩ | h | h
  case inr.inr.inl => simp [execDriftRefresh, h, h']
  all_goals simp [execDriftRefresh, h]

/-- A failed folio is replaced at rank 1, whether or not refresh is on. -/
theorem execDriftRefresh_failed (hoff : hallOff s (hallOf shelf) = false) (hst : (folioAt s (folioKey shelf pos)).st = .serving)
    (hbad : (folioAt s (folioKey shelf pos)).failed = true) (hcopy : copyOf s (folioKey shelf pos) = none)
    (hbind : bindHolds s (folioAt s (folioKey shelf pos)).region = false) {c : Nat} (harch : archiveHere s (folioAt s (folioKey shelf pos)).region = true)
    (hslots : 0 < programSlots s (hallOf shelf) .repair (s.img.bound.budget 1).powerDw) (hc : spareFor s shelf 1 = some c) :
    execDriftRefresh shelf pos s = .next (startCopy (undefer s (folioKey shelf pos)) (folioKey shelf pos) c .repair) := by
  simp [execDriftRefresh, hoff, hst, hbad, hcopy, hbind, harch, hslots.ne', hc]

/-- A folio whose refresh is due is replaced at rank 2. -/
theorem execDriftRefresh_due (hoff : hallOff s (hallOf shelf) = false) (hst : (folioAt s (folioKey shelf pos)).st = .serving)
    (hdue : (folioAt s (folioKey shelf pos)).refreshDue = true) (hok : (folioAt s (folioKey shelf pos)).failed = false)
    (hcopy : copyOf s (folioKey shelf pos) = none) (hbind : bindHolds s (folioAt s (folioKey shelf pos)).region = false) :
    let key := folioKey shelf pos
    (∀ c, archiveHere s (folioAt s key).region = true → activityOn s (Reg.COL_CTRL.REFRESH_EN (hallOf shelf)) 1 = true →
      0 < programSlots s (hallOf shelf) .refresh (s.img.bound.budget 1).powerDw → spareFor s shelf 2 = some c →
      execDriftRefresh shelf pos s = .next (startCopy (undefer s key) key c .refresh)) ∧
    (archiveHere s (folioAt s key).region = false → execDriftRefresh shelf pos s = .next (deferArchive s key 1)) := by
  constructor
  · intro c harch hon hslots hc
    simp [execDriftRefresh, hoff, hst, hdue, hok, hcopy, hbind, harch, hon, hslots.ne', hc]
  · intro harch
    simp [execDriftRefresh, hoff, hst, hdue, hcopy, hbind, harch]

end

/-! ### The hour (R179) -/

/-- Between `s` and `t` the folios `ks` have aged by an hour; no folio has changed state, levels or WEAR. -/
structure AgedHour (s t : State) (ks : List Nat) : Prop extends AroundFolios s t where
  st : ∀ k, (folioAt t k).st = (folioAt s k).st
  content : ∀ k, (folioAt t k).content = (folioAt s k).content
  wear : ∀ k, (folioAt t k).wear = (folioAt s k).wear
  hours : ∀ k, (folioAt t k).ageHours = if k ∈ ks then min ((folioAt s k).ageHours + 1) (2 ^ 32 - 1) else (folioAt s k).ageHours

theorem AgedHour.refl (hr : s.regsOk) (hf : s.foliosOk) : AgedHour s s [] :=
  ⟨.refl hr hf, fun _ => rfl, fun _ => rfl, fun _ => rfl, fun _ => rfl⟩

/-- Other folios may age after the first ones. -/
theorem AgedHour.trans {ks js : List Nat} (h : AgedHour s t ks) (h' : AgedHour t u js) (hd : ks.Disjoint js) : AgedHour s u (ks ++ js) where
  toAroundFolios := h.toAroundFolios.trans h'.toAroundFolios
  st k := (h'.st k).trans (h.st k)
  content k := (h'.content k).trans (h.content k)
  wear k := (h'.wear k).trans (h.wear k)
  hours k := by
    have hnot : k ∈ js → k ∉ ks := fun hj hk => hd hk hj
    rw [h'.hours, h.hours]
    by_cases hj : k ∈ js
    · simp [hj, hnot hj]
    · simp [hj]

/-- A change of one folio that keeps its state, levels, WEAR and age. -/
theorem AgedHour.modFolio {ks : List Nat} (h : AgedHour s t ks) (k : Nat) {f : Folio → Folio} (hst : ∀ x, (f x).st = x.st)
    (hcontent : ∀ x, (f x).content = x.content) (hwear : ∀ x, (f x).wear = x.wear) (hage : ∀ x, (f x).ageHours = x.ageHours) :
    AgedHour s (modFolio t k f) ks := by
  have hread {α : Type} (g : Folio → α) (hg : ∀ x, g (f x) = g x) (j : Nat) : g (folioAt (Machine.modFolio t k f) j) = g (folioAt t j) := by
    by_cases hj : j = k
    · rw [hj, folioAt_modFolio h.foliosOk, hg]
    · rw [folioAt_modFolio_ne h.foliosOk f hj]
  exact ⟨h.toAroundFolios.modFolio k f, fun j => (hread Folio.st hst j).trans (h.st j), fun j => (hread Folio.content hcontent j).trans (h.content j),
    fun j => (hread Folio.wear hwear j).trans (h.wear j), fun j => (hread Folio.ageHours hage j).trans (h.hours j)⟩

theorem AgedHour.annal {ks : List Nat} (h : AgedHour s t ks) (kind sev : Nat) (obj : Obj) (a0 a1 a2 : Nat) :
    AgedHour s (annal t kind sev obj a0 a1 a2) ks :=
  ⟨h.toAroundFolios.annal .., fun k => by rw [annal_folioAt, h.st], fun k => by rw [annal_folioAt, h.content], fun k => by rw [annal_folioAt, h.wear],
    fun k => by rw [annal_folioAt, h.hours]⟩

/-- A folio's own hour. -/
theorem ageFolio_agedHour (hr : s.regsOk) (hf : s.foliosOk) (k : Nat) (temp : Option Int) :
    AgedHour s (modFolio s k fun f => ageFolio f (f.ageHours + 1) temp) [k] := by
  have hbe := (FolioBecomes.refl hr hf k).modFolio fun f => ageFolio f (f.ageHours + 1) temp
  have hread {α : Type} (g : Folio → α) (hg : g (ageFolio (folioAt s k) ((folioAt s k).ageHours + 1) temp) = g (folioAt s k)) (j : Nat) :
      g (folioAt (modFolio s k fun f => ageFolio f (f.ageHours + 1) temp) j) = g (folioAt s j) := by
    by_cases hj : j = k
    · rw [hj, hbe.folio, hg]
    · rw [hbe.others j hj]
  refine ⟨hbe.toAroundFolios, hread Folio.st rfl, hread Folio.content rfl, hread Folio.wear rfl, fun j => ?_⟩
  by_cases hj : j = k
  · rw [hj, hbe.folio, if_pos (List.mem_singleton_self k)]
    rfl
  · rw [hbe.others j hj, if_neg (mt List.mem_singleton.mp hj)]

/-- A refresh that falls due marks the folio, and the copy of it that runs. -/
theorem AgedHour.markRefresh {ks : List Nat} (h : AgedHour s t ks) (k : Nat) (hours : Option Nat) : AgedHour s (markRefresh t k hours) ks := by
  have hdue : AgedHour s (Machine.modFolio t k fun f => { f with refreshDue := true, dueHours := hours }) ks :=
    h.modFolio k (fun _ => rfl) (fun _ => rfl) (fun _ => rfl) fun _ => rfl
  unfold Machine.markRefresh
  split
  · refine hdue.modFolio _ ?_ ?_ ?_ ?_ <;> intro x <;> split <;> rfl
  · exact hdue

theorem AgedHour.checkDrift {ks : List Nat} (h : AgedHour s t ks) (k : Nat) : AgedHour s (checkDrift t k) ks := by
  unfold Machine.checkDrift
  split
  · exact h.markRefresh k _
  · exact h

/-- The hour of one folio. -/
theorem hourOf_agedHour (hr : s.regsOk) (hf : s.foliosOk) (temps : List Int) (k : Nat) : AgedHour s (hourOf temps s k) [k] := by
  have h1 := ageFolio_agedHour hr hf k (some (temps.getD (k / 68 / 128) 0))
  unfold hourOf
  generalize modFolio s k (fun f => ageFolio f (f.ageHours + 1) (some (temps.getD (k / 68 / 128) 0))) = s1 at h1 ⊢
  have h2 : AgedHour s (if (folioAt s1 k).refreshDue
      then modFolio s1 k fun f => { f with dueHours := if (copyOf s1 k).isSome then none else some (f.dueHours.elim 0 (· + 1)) }
      else checkDrift s1 k) [k] := by
    split
    · exact h1.modFolio k (fun _ => rfl) (fun _ => rfl) (fun _ => rfl) fun _ => rfl
    · exact h1.checkDrift k
  dsimp only
  generalize (if (folioAt s1 k).refreshDue then _ else checkDrift s1 k) = s2 at h2 ⊢
  have h3 : AgedHour s (if overThreshold s2 k && (sparesOf s2 (k / 68)).isEmpty
      then annal s2 0x0201 2 (folioObj s2 k) (residualShown (folioAt s2 k)) 0 0 else s2) [k] := by
    split
    · exact h2.annal ..
    · exact h2
  generalize (if overThreshold s2 k && (sparesOf s2 (k / 68)).isEmpty then _ else s2) = s3 at h3 ⊢
  split
  · exact h3.annal ..
  · exact h3

theorem foldl_hourOf_agedHour (hr : s.regsOk) (hf : s.foliosOk) (temps : List Int) {ks : List Nat} (hks : ks.Nodup) :
    AgedHour s (ks.foldl (hourOf temps) s) ks := by
  induction ks generalizing s with
  | nil => exact .refl hr hf
  | cons k ks ih =>
    have hk := hourOf_agedHour hr hf temps k
    obtain ⟨hnot, hrest⟩ := List.nodup_cons.mp hks
    exact hk.trans (ih hk.regsOk hk.foliosOk hrest) (List.singleton_disjoint.mpr hnot)

/-- The folios that the hour ages: those that serve or collate. -/
def heldFolios (s : State) : List Nat := (s.arr.folios.filter fun e => e.2.st == .serving || e.2.st == .collating).map (·.1)

theorem mem_heldFolios (hf : s.foliosOk) (k : Nat) : k ∈ heldFolios s ↔ (folioAt s k).st = .serving ∨ (folioAt s k).st = .collating := by
  have hentry (f : Folio) : (k, f) ∈ s.arr.folios ↔ folioAt s k = f ∧ f ≠ freshFolio := mem_iff_sget hf
  have hfresh (h : freshFolio.st = .serving ∨ freshFolio.st = .collating) : False := by rcases h with h | h <;> cases h
  simp only [heldFolios, List.mem_map, List.mem_filter, Bool.or_eq_true, beq_iff_eq]
  constructor
  · rintro ⟨⟨j, f⟩, ⟨hmem, hst⟩, rfl⟩
    rwa [((hentry f).mp hmem).1]
  · exact fun hst => ⟨(k, folioAt s k), ⟨(hentry _).mpr ⟨rfl, fun he => hfresh (he ▸ hst)⟩, hst⟩, rfl⟩

theorem nodup_heldFolios (hf : s.foliosOk) : (heldFolios s).Nodup := (nodup_keys hf).sublist (List.filter_sublist.map _)

theorem execDriftHourlyUpdate_ages (hp : unpowered s = false) (temps : List Int) :
    execDriftHourlyUpdate temps s = .next ((heldFolios s).foldl (hourOf temps) s) := by
  simp only [execDriftHourlyUpdate, hp, Bool.false_eq_true, if_false]
  rfl

/-- Settles O36: a due folio is copied onto its spare (`startCopy_copiedOnto`) or, without the archive copy, deferred once; the hour ages each folio
that serves or collates once (`foldl_hourOf_agedHour`), for none is listed twice. -/
theorem copiesAndAges : Obligations.CopiesAndAges := by
  unfold Obligations.CopiesAndAges
  intro shelf pos s hf hr key f h copied put
  refine ⟨fun hoff hst hdeep hdue hok hcopy hbind => ?_, execDeepCollation_waits, fun hoff hst hbad hcopy hbind c harch hslots hc => ?_,
    fun hoff hst hdue hok hcopy hbind => ?_, execDriftRefresh_waits, fun temps => ⟨fun hp => ?_, fun hp => ?_⟩⟩
  · obtain ⟨hcopies, hdefers⟩ := execDeepCollation_due hoff hst hdeep hdue hok hcopy hbind
    exact ⟨fun c harch hon hslots hc => ⟨_, hcopies c harch hon hslots hc, startCopy_copiedOnto hr hf key c .deep⟩,
      fun harch hnew => ⟨_, hdefers harch, deferArchive_deferredOnce hnew 4⟩,
      fun harch hold => (hdefers harch).trans (by rw [deferArchive_again hold])⟩
  · exact ⟨_, execDriftRefresh_failed hoff hst hbad hcopy hbind harch hslots hc, startCopy_copiedOnto hr hf key c .repair⟩
  · obtain ⟨hcopies, hdefers⟩ := execDriftRefresh_due hoff hst hdue hok hcopy hbind
    exact ⟨fun c harch hon hslots hc => ⟨_, hcopies c harch hon hslots hc, startCopy_copiedOnto hr hf key c .refresh⟩,
      fun harch hnew => ⟨_, hdefers harch, deferArchive_deferredOnce hnew 1⟩⟩
  · exact congrArg _ (if_pos hp)
  · have haged := foldl_hourOf_agedHour hr hf temps (nodup_heldFolios hf)
    refine ⟨_, execDriftHourlyUpdate_ages hp temps, haged.regs, (congrArg State.kv haged.off :), (congrArg State.img haged.off :),
      (congrArg State.run haged.off :), (congrArg State.acc haged.off :), fun k => ⟨haged.st k, haged.content k, haged.wear k, ?_⟩⟩
    rw [haged.hours k]
    exact if_congr (mem_heldFolios hf k) rfl rfl

end Sys2Proof.Machine
end
end

section
/-!
PROOFS. Margin walks and maintenance windows (R68, R72, R382, R383, R384).
-/
section
open Sys2Proof Sys2Proof.Machine
namespace Sys2Proof.Machine

/-! ### What walks and windows leave alone -/

/-- What the module works on: sessions and pages, the intake, the passes, the images. It is a name of its own so that `simp` carries it through a
state's updates. -/
def State.atWork (s : State) : Kv × Intake × Passes × Images := (s.kv, s.itk, s.run, s.img)

theorem atWork_eq {s t : State} (h : t.atWork = s.atWork) : t.kv = s.kv ∧ t.itk = s.itk ∧ t.run = s.run ∧ t.img = s.img := by
  simpa [State.atWork] using h

section
variable (s : State)

@[simp] theorem annal_atWork (kind sev obj a0 a1 a2) : (annal s kind sev obj a0 a1 a2).atWork = s.atWork := by rw [annal_frame]; rfl
@[simp] theorem modFolio_atWork (k f) : (modFolio s k f).atWork = s.atWork := (rfl)
@[simp] theorem walkRecord_atWork (k action step) : (walkRecord s k action step).atWork = s.atWork := annal_atWork ..
@[simp] theorem retire_atWork (k) : (retire s k).atWork = s.atWork := by simp [retire, toState]
@[simp] theorem markFailed_atWork (k) : (markFailed s [k]).atWork = s.atWork := (rfl)

end

variable {s t u : State}

/-! ### The fields of a register -/

/-- Fields that lie within 64 bits and share no bit. -/
abbrev FieldsApart (fs : List FieldRef) : Prop := (∀ f ∈ fs, f.lo + f.w ≤ 64) ∧ fs.Pairwise FieldRef.Apart

/-- Fields given values, one after the other. -/
def setFields (s : State) (ws : List (FieldRef × Nat)) : State := ws.foldl (fun s w => fset s w.1 w.2) s

theorem setFields_regsOk (h : s.regsOk) (ws : List (FieldRef × Nat)) : (setFields s ws).regsOk := by
  induction ws generalizing s with
  | nil => exact h
  | cons w ws ih => exact ih (regsOk_fset h ..)

/-- Writing fields changes the registers alone. -/
theorem setFields_frame (s : State) (ws : List (FieldRef × Nat)) : setFields s ws = { s with regs := (setFields s ws).regs } := by
  induction ws generalizing s with
  | nil => rfl
  | cons w ws ih => exact ih (fset s w.1 w.2)

/-- Registers and containment are apart. -/
theorem setFields_con (s : State) (ws : List (FieldRef × Nat)) (c : Containment) : { setFields s ws with con := c } = setFields { s with con := c } ws := by
  induction ws generalizing s with
  | nil => rfl
  | cons w ws ih => exact ih (fset s w.1 w.2)

/-- A field that shares no bit with the written ones keeps its value. -/
theorem fget_setFields_other (h : s.regsOk) {ws : List (FieldRef × Nat)} {g : FieldRef} (hg : g.lo + g.w ≤ 64) (hd : ∀ f ∈ ws.map Prod.fst, f.Apart g) :
    fget (setFields s ws) g = fget s g := by
  induction ws generalizing s with
  | nil => rfl
  | cons w ws ih =>
    obtain ⟨hw, hws⟩ := List.forall_mem_cons.mp hd
    exact (ih (regsOk_fset h ..) hws).trans (fget_fset_other h w.1 g w.2 hg hw)

/-- A written field reads its value, cut to its width. -/
theorem fget_setFields (h : s.regsOk) {ws : List (FieldRef × Nat)} (hd : FieldsApart (ws.map Prod.fst)) {f : FieldRef} {x : Nat} (hf : (f, x) ∈ ws) :
    fget (setFields s ws) f = x % 2 ^ f.w := by
  induction ws generalizing s with
  | nil => cases hf
  | cons w ws ih =>
    obtain ⟨hfit, hpair⟩ := hd
    obtain ⟨hw, hws⟩ := List.pairwise_cons.mp hpair
    obtain ⟨hfit1, hfits⟩ := List.forall_mem_cons.mp hfit
    rcases List.mem_cons.mp hf with rfl | hmem
    · exact (fget_setFields_other (regsOk_fset h ..) hfit1 fun g hg => by have := hw g hg; simp only [FieldRef.Apart] at this ⊢; omega).trans
        (fget_fset_same h f x hfit1)
    · exact ih (regsOk_fset h ..) ⟨hfits, hws⟩ hmem

/-! ### Margin walks (R72, R382) -/

/-- A spare that holds the walk pattern: one more WEAR where it did not hold it, and one walk more. -/
def Folio.patterned (f : Folio) : Folio :=
  { f with content := .pattern, wear := if f.content = .pattern then f.wear else min (f.wear + 1) 16383, sweeps := f.sweeps + 1 }

/-- The module with the pattern put onto folio `k`. -/
def putPattern (s : State) (k : Nat) : State :=
  modFolio (if (folioAt s k).content == .pattern then s else modFolio s k fun f => { f with content := .pattern, wear := min (f.wear + 1) 16383 }) k
    fun f => { f with sweeps := f.sweeps + 1 }

theorem putPattern_becomes (hr : s.regsOk) (hf : s.foliosOk) (k : Nat) : FolioBecomes s (putPattern s k) k (folioAt s k).patterned := by
  have h := FolioBecomes.refl hr hf k
  unfold putPattern
  split
  · next hp =>
    have hpat : (folioAt s k).patterned = { folioAt s k with sweeps := (folioAt s k).sweeps + 1 } := by
      rw [beq_iff_eq] at hp
      simp [Folio.patterned, hp]
    exact hpat ▸ h.modFolio fun f => { f with sweeps := f.sweeps + 1 }
  · next hp =>
    have hpat : (folioAt s k).patterned = { folioAt s k with
        content := .pattern, wear := min ((folioAt s k).wear + 1) 16383, sweeps := (folioAt s k).sweeps + 1 } := by
      rw [beq_iff_eq] at hp
      simp [Folio.patterned, hp]
    exact hpat ▸ (h.modFolio fun f => { f with content := .pattern, wear := min (f.wear + 1) 16383 }).modFolio fun f => { f with sweeps := f.sweeps + 1 }

theorem putPattern_frame (s : State) (k : Nat) : putPattern s k = { s with arr := { s.arr with folios := (putPattern s k).arr.folios } } := by
  unfold putPattern
  split <;> rfl

/-- Whether a folio is worn out lies in the module's grade, its WEAR and its trims (R3, R67, R165). -/
theorem wornOut_congr {f g : Folio} (hpwr : t.pwr = s.pwr) (hwear : g.wear = f.wear) (htrim : trimCount g = trimCount f) : wornOut t g = wornOut s f := by
  simp only [wornOut, engGrade, hpwr, hwear, htrim]

/-- A walk without a failed step leaves the pattern, unless its WEAR was the last. -/
theorem walkSpare_passes (hr : s.regsOk) (hf : s.foliosOk) {k : Nat} (hworn : wornOut s (folioAt s k).patterned = false) :
    walkSpare s k [] = putPattern s k := by
  have hworn' : wornOut (putPattern s k) (folioAt (putPattern s k) k) = false := by
    rw [(putPattern_becomes hr hf k).folio, ← hworn, putPattern_frame]
    exact wornOut_congr rfl rfl rfl
  have hwalk : walkSpare s k [] = if wornOut (putPattern s k) (folioAt (putPattern s k) k) then retire (putPattern s k) k else putPattern s k := rfl
  rw [hwalk, hworn', if_neg Bool.false_ne_true]

/-- A failed step has the spare marked, recorded and retired. -/
theorem walkSpare_fails (s : State) (k x : Nat) (xs : List Nat) :
    walkSpare s k (x :: xs) = retire (walkRecord (markFailed (putPattern s k) [k]) k 0 x) k := rfl

/-- A walk's failure is recorded among the fault signatures and in the annals. -/
theorem walkRecord_eq (s : State) (k action step : Nat) : ∃ c o, walkRecord s k action step = annal { s with con := c } 0x0500 2 o 5 step 0 :=
  ⟨_, _, rfl⟩

theorem walkRecord_folioAt (s : State) (k action step j : Nat) : folioAt (walkRecord s k action step) j = folioAt s j := by
  obtain ⟨c, o, h⟩ := walkRecord_eq s k action step
  rw [h, annal_folioAt]
  rfl

theorem walkRecord_regsOk (hr : s.regsOk) (k action step : Nat) : (walkRecord s k action step).regsOk := by
  obtain ⟨c, o, h⟩ := walkRecord_eq s k action step
  rw [h]
  exact annal_regsOk (s := { s with con := c }) hr ..

theorem walkRecord_foliosOk (hf : s.foliosOk) (k action step : Nat) : (walkRecord s k action step).foliosOk := by
  obtain ⟨c, o, h⟩ := walkRecord_eq s k action step
  rw [h, annal_frame]
  exact hf

theorem retire_becomes (hr : s.regsOk) (hf : s.foliosOk) (k : Nat) :
    FolioBecomes s (retire s k) k { (folioAt s k).outOfService with st := .retired } :=
  ((FolioBecomes.refl hr hf k).toState .retired).modFolio Folio.outOfService

/-- The spare that fails a step, and the others. -/
theorem folioAt_walkSpare_fails (hr : s.regsOk) (hf : s.foliosOk) (k x : Nat) (xs : List Nat) :
    (folioAt (walkSpare s k (x :: xs)) k).st = .retired ∧ (folioAt (walkSpare s k (x :: xs)) k).failed = true ∧
      ∀ j, j ≠ k → folioAt (walkSpare s k (x :: xs)) j = folioAt s j := by
  have hmark : FolioBecomes s (markFailed (putPattern s k) [k]) k { (folioAt s k).patterned with failed := true } :=
    (putPattern_becomes hr hf k).modFolio fun f => { f with failed := true }
  have hretire := retire_becomes (walkRecord_regsOk hmark.regsOk k 0 x) (walkRecord_foliosOk hmark.foliosOk k 0 x) k
  rw [walkSpare_fails]
  refine ⟨by rw [hretire.folio], ?_, fun j hj => (hretire.others j hj).trans ((walkRecord_folioAt ..).trans (hmark.others j hj))⟩
  rw [hretire.folio, walkRecord_folioAt, hmark.folio]
  rfl

section
variable {shelf pos : Nat} (failed : List Nat)

/-- A spare for which no folio waits is walked, and a walk that was abandoned on its shelf waits for it no more (R72). -/
theorem execMarginWalk_walks (hoff : hallOff s (hallOf shelf) = false) (hst : (folioAt s (folioKey shelf pos)).st = .spare)
    (hen : (s.img.bound.budget 7).enable = true) (hworn : wornOut s (folioAt s (folioKey shelf pos)) = false) (hnone : waitingAbove s shelf 5 = []) :
    execMarginWalk shelf pos failed s = .next (walkSpare (resumeWalk s (folioKey shelf pos)) (folioKey shelf pos) failed) := by
  simp [execMarginWalk, hoff, hst, hen, hworn, hnone]

/-- A walk gives way to the folios that wait for every spare of the shelf (R72). -/
theorem execMarginWalk_abandons (hoff : hallOff s (hallOf shelf) = false) (hst : (folioAt s (folioKey shelf pos)).st = .spare)
    (hen : (s.img.bound.budget 7).enable = true) (hworn : wornOut s (folioAt s (folioKey shelf pos)) = false) (hsome : waitingAbove s shelf 5 ≠ [])
    (hall : (usableSpares s shelf).length ≤ (waitingAbove s shelf 5).length) :
    execMarginWalk shelf pos failed s = .next (abandonWalk s (folioKey shelf pos)) := by
  simp [execMarginWalk, hoff, hst, hen, hworn, hsome, hall]

end

/-- An abandoned walk waits for the next spare that its shelf frees; it is recorded, and nothing else changes. -/
theorem abandonWalk_waits (s : State) (k : Nat) :
    abandonWalk s k = { s.withRegs (abandonWalk s k) with con := { s.con with heldWalks := (abandonWalk s k).con.heldWalks } } ∧
      ((abandonWalk s k).con.heldWalks.any fun w => w.1 == k / 68) = true := by
  unfold abandonWalk
  split
  · next h => exact ⟨rfl, h⟩
  · generalize hu : ({ s with con := { s.con with heldWalks := s.con.heldWalks ++ [(k / 68, none)] } } : State) = u
    have hframe := annal_frame u 0x0200 0 (folioObj s k) FState.spare.code 5 0
    have hcon : (annal u 0x0200 0 (folioObj s k) FState.spare.code 5 0).con = u.con := (congrArg State.con hframe :)
    subst hu
    exact ⟨by rw [hcon]; exact hframe, by rw [hcon]; simp⟩

theorem exec_marginWalk_spare {shelf pos : Nat} (hr : s.regsOk) (hf : s.foliosOk) (hoff : hallOff s (hallOf shelf) = false)
    (hst : (folioAt s (folioKey shelf pos)).st = .spare) (hen : (s.img.bound.budget 7).enable = true)
    (hworn : wornOut s (folioAt s (folioKey shelf pos)) = false) (hnone : waitingAbove s shelf 5 = []) :
    let key := folioKey shelf pos
    let f := folioAt s key
    (∀ w, w = (if f.content = .pattern then f.wear else min (f.wear + 1) 16383) → wornOut s { f with wear := w } = false →
      ∃ t, exec (.marginWalk shelf pos []) s = .next t ∧ folioAt t key = { f with content := .pattern, wear := w, sweeps := f.sweeps + 1 } ∧
        (∀ j, j ≠ key → folioAt t j = folioAt s j) ∧ t = { s with arr := { s.arr with folios := t.arr.folios }, con := { s.con with heldWalks := t.con.heldWalks } } ∧
        (key / 68, some key) ∉ t.con.heldWalks) ∧
    ∀ x xs, ∃ t, exec (.marginWalk shelf pos (x :: xs)) s = .next t ∧ (folioAt t key).st = .retired ∧ (folioAt t key).failed = true ∧
      (∀ j, j ≠ key → folioAt t j = folioAt s j) ∧ (t.kv = s.kv ∧ t.itk = s.itk ∧ t.run = s.run ∧ t.img = s.img) := by
  intro key f
  have hbe : FolioBecomes (resumeWalk s key) (putPattern (resumeWalk s key) key) key f.patterned :=
    putPattern_becomes (s := resumeWalk s key) hr hf key
  refine ⟨fun w hw hlast => ?_, fun x xs => ?_⟩
  · subst hw
    have hpass : walkSpare (resumeWalk s key) key [] = putPattern (resumeWalk s key) key :=
      walkSpare_passes (s := resumeWalk s key) hr hf ((wornOut_congr rfl rfl rfl).trans hlast)
    refine ⟨_, (execMarginWalk_walks [] hoff hst hen hworn hnone).trans (congrArg _ hpass), hbe.folio, hbe.others, ?_, ?_⟩
    · rw [putPattern_frame]
      rfl
    · rw [putPattern_frame]
      simp [resumeWalk]
  · obtain ⟨hst', hfail, hothers⟩ := folioAt_walkSpare_fails (s := resumeWalk s key) hr hf key x xs
    refine ⟨_, execMarginWalk_walks (x :: xs) hoff hst hen hworn hnone, hst', hfail, hothers, atWork_eq ?_⟩
    rw [walkSpare_fails, retire_atWork, walkRecord_atWork, markFailed_atWork, putPattern_frame]
    rfl

end Sys2Proof.Machine
end
end

section
/-!
PROOFS. Maintenance windows open, walk, close and expire (R382 to R384).
-/
section
open Sys2Proof Sys2Proof.Machine
namespace Sys2Proof.Machine

variable {s t u : State}

/-! ### A window opens (R383) -/

/-- Does a window stand in the way, an accession, or an image command? -/
def windowBusy (s : State) : Bool := imgBusy s || (s.acc.any fun e => accBusy e.2) || s.con.window.isSome

/-- The window that an opening makes. -/
def newWindow (s : State) (limit : Nat) (rs : List Nat) (whole : Bool) (hbmBad : List Nat) (lanesBad : Nat) : MaintWin :=
  { regions := rs, module := whole, limitMs := limit, opened := s.clk.tick, quiet := false, walked := [], failed := [], hbmBad := hbmBad, lanesBad := lanesBad }

/-- What an opening writes to CUR.MAINT_STATUS: no result yet, its TAG, no failure counted, its regions held. -/
def openWrites (tag : Nat) (w : MaintWin) : List (FieldRef × Nat) :=
  [(Reg.CUR_MAINT_STATUS.LAST_RESULT, 0), (Reg.CUR_MAINT_STATUS.TAG, tag), (Reg.CUR_MAINT_STATUS.FAILED, 0),
    (Reg.CUR_MAINT_STATUS.HELD, (w.regions.map fun r => 2 ^ r).sum), (Reg.CUR_MAINT_STATUS.STATE, 1)]

theorem openWrites_apart (tag : Nat) (w : MaintWin) : FieldsApart ((openWrites tag w).map Prod.fst) := by
  change FieldsApart [Reg.CUR_MAINT_STATUS.LAST_RESULT, Reg.CUR_MAINT_STATUS.TAG, Reg.CUR_MAINT_STATUS.FAILED, Reg.CUR_MAINT_STATUS.HELD,
    Reg.CUR_MAINT_STATUS.STATE]
  decide

/-- The module with a window opened. -/
def windowOpened (s : State) (tag : Nat) (w : MaintWin) : State :=
  setFields { s with con := { s.con with window := some w } } (openWrites tag w)

@[simp] theorem setFields_atWork (s : State) (ws : List (FieldRef × Nat)) : (setFields s ws).atWork = s.atWork := by
  rw [setFields_frame]
  rfl

theorem setFields_con_eq (s : State) (ws : List (FieldRef × Nat)) : (setFields s ws).con = s.con := by rw [setFields_frame]

theorem setFields_passOf (s : State) (ws : List (FieldRef × Nat)) (r : Nat) : passOf (setFields s ws) r = passOf s r := by
  rw [setFields_frame]
  rfl

theorem windowOpened_con (s : State) (tag : Nat) (w : MaintWin) : (windowOpened s tag w).con = { s.con with window := some w } := setFields_con_eq ..

theorem windowOpened_regsOk (hr : s.regsOk) (tag : Nat) (w : MaintWin) : (windowOpened s tag w).regsOk :=
  setFields_regsOk (s := { s with con := { s.con with window := some w } }) hr _

theorem windowOpened_passOf (s : State) (tag : Nat) (w : MaintWin) (r : Nat) : passOf (windowOpened s tag w) r = passOf s r := setFields_passOf ..

section
variable {value tag limit : Nat} {rs : List Nat} {whole orbit : Bool} {hb : List Nat} {lb : Nat}

theorem openWin_ignored (hp : unpowered s = false) (hl : limit < 100 ∨ 3600000 < limit) :
    openWin s value tag limit rs whole orbit hb lb = ignored s 0x109000 value := by
  simp only [openWin, hp, Bool.false_eq_true, if_false, if_pos hl]

theorem openWin_busy (hp : unpowered s = false) (h1 : 100 ≤ limit) (h2 : limit ≤ 3600000) (hb' : windowBusy s = true) :
    openWin s value tag limit rs whole orbit hb lb = fset s Reg.CUR_MAINT_STATUS.LAST_RESULT 1 := by
  have hl : ¬ (limit < 100 ∨ 3600000 < limit) := by omega
  unfold windowBusy at hb'
  simp only [openWin, hp, Bool.false_eq_true, if_false, if_neg hl, hb', if_true]

theorem openWin_orbit (hp : unpowered s = false) (h1 : 100 ≤ limit) (h2 : limit ≤ 3600000) (hb' : windowBusy s = false) :
    openWin s value tag limit rs whole true hb lb = fset s Reg.CUR_MAINT_STATUS.LAST_RESULT 2 := by
  have hl : ¬ (limit < 100 ∨ 3600000 < limit) := by omega
  unfold windowBusy at hb'
  simp only [openWin, hp, Bool.false_eq_true, if_false, if_neg hl, hb', if_true]

theorem openWin_opens (hp : unpowered s = false) (h1 : 100 ≤ limit) (h2 : limit ≤ 3600000) (hb' : windowBusy s = false) :
    openWin s value tag limit rs whole false hb lb = windowQuiet (windowOpened s tag (newWindow s limit rs whole hb lb)) := by
  have hl : ¬ (limit < 100 ∨ 3600000 < limit) := by omega
  unfold windowBusy at hb'
  simp only [openWin, hp, Bool.false_eq_true, if_false, if_neg hl, hb']
  rw [windowOpened, ← setFields_con]
  rfl

end

/-- What an open window's registers show. -/
theorem windowOpened_shows (hr : s.regsOk) (tag : Nat) (w : MaintWin) :
    fget (windowOpened s tag w) Reg.CUR_MAINT_STATUS.STATE = 1 ∧ fget (windowOpened s tag w) Reg.CUR_MAINT_STATUS.LAST_RESULT = 0 ∧
      fget (windowOpened s tag w) Reg.CUR_MAINT_STATUS.TAG = tag % 2 ^ 16 ∧ fget (windowOpened s tag w) Reg.CUR_MAINT_STATUS.FAILED = 0 := by
  have hread {f : FieldRef} {x : Nat} (hf : (f, x) ∈ openWrites tag w) : fget (windowOpened s tag w) f = x % 2 ^ f.w :=
    fget_setFields (s := { s with con := { s.con with window := some w } }) hr (openWrites_apart tag w) hf
  exact ⟨hread (x := 1) (by simp [openWrites]), hread (x := 0) (by simp [openWrites]), hread (by simp [openWrites]),
    hread (x := 0) (by simp [openWrites])⟩

/-- While a pass of its regions is in flight, the window waits. -/
theorem windowQuiet_waits {w : MaintWin} (hw : s.con.window = some w) (h : ∃ r ∈ w.regions, (passOf s r).isSome = true) : windowQuiet s = s := by
  have hall : (w.regions.all fun r => (passOf s r).isNone) = false := by
    obtain ⟨r, hr, hp⟩ := h
    simpa [List.all_eq_false] using ⟨r, hr, by simpa [Option.ne_none_iff_isSome] using hp⟩
  simp [windowQuiet, hw, hall]

/-- A window whose regions are quiet walks. -/
theorem windowQuiet_walks {w : MaintWin} (hw : s.con.window = some w) (hq : w.quiet = false) (h : ∀ r ∈ w.regions, passOf s r = none) :
    windowQuiet s = startWalk s w := by
  have hall : (w.regions.all fun r => (passOf s r).isNone) = true := by simpa [List.all_eq_true] using h
  simp [windowQuiet, hw, hq, hall]

/-- A window that is walked through shows DONE; nothing else changes. -/
theorem windowDone_cases (s : State) : windowDone s = s ∨ windowDone s = fset s Reg.CUR_MAINT_STATUS.STATE 3 := by
  unfold windowDone
  split
  · split
    · exact .inr rfl
    · exact .inl rfl
  · exact .inl rfl

/-- A walk that starts counts the units and lanes that fail, and withholds the units. -/
theorem startWalk_shows (hr : s.regsOk) (hfailed : fget s Reg.CUR_MAINT_STATUS.FAILED = 0) (w : MaintWin) :
    (startWalk s w).atWork = s.atWork ∧ (startWalk s w).con.window = some { w with quiet := true } ∧
      fget (startWalk s w) Reg.CUR_MAINT_STATUS.FAILED = min (w.hbmBad.length + w.lanesBad) (2 ^ 16 - 1) ∧
      (∀ x ∈ w.hbmBad, x ∈ (startWalk s w).con.withheld) ∧
      (fget (startWalk s w) Reg.CUR_MAINT_STATUS.STATE = 2 ∨ fget (startWalk s w) Reg.CUR_MAINT_STATUS.STATE = 3) := by
  obtain ⟨c, hc, hheld, hwin⟩ : ∃ c : Containment, startWalk s w = windowDone (fbump (fset { s with con := c } Reg.CUR_MAINT_STATUS.STATE 2)
      Reg.CUR_MAINT_STATUS.FAILED (w.hbmBad.length + w.lanesBad)) ∧ (∀ x ∈ w.hbmBad, x ∈ c.withheld) ∧ c.window = some { w with quiet := true } :=
    ⟨{ s.con with window := some { w with quiet := true }, withheld := s.con.withheld ++ w.hbmBad.filter fun k => !s.con.withheld.elem k }, rfl,
      fun x hx => by by_cases hin : x ∈ s.con.withheld <;> simp [hin, hx], rfl⟩
  have hr1 : (fset { s with con := c } Reg.CUR_MAINT_STATUS.STATE 2).regsOk := regsOk_fset (s := { s with con := c }) hr ..
  have hr2 := regsOk_fbump hr1 Reg.CUR_MAINT_STATUS.FAILED (w.hbmBad.length + w.lanesBad)
  have hstate : fget (fset { s with con := c } Reg.CUR_MAINT_STATUS.STATE 2) Reg.CUR_MAINT_STATUS.STATE = 2 :=
    fget_fset_same (s := { s with con := c }) hr _ _ (by decide)
  have hzero : fget (fset { s with con := c } Reg.CUR_MAINT_STATUS.STATE 2) Reg.CUR_MAINT_STATUS.FAILED = 0 :=
    (fget_fset_other (s := { s with con := c }) hr _ _ _ (by decide) (by decide)).trans hfailed
  have hcount := fbump_counted hr1 Reg.CUR_MAINT_STATUS.FAILED (w.hbmBad.length + w.lanesBad) (by decide)
  rw [counted, hzero, Nat.zero_add] at hcount
  have hkept := fget_fbump_other hr1 Reg.CUR_MAINT_STATUS.FAILED Reg.CUR_MAINT_STATUS.STATE (w.hbmBad.length + w.lanesBad) (by decide) (by decide)
  rw [hc]
  rcases windowDone_cases (fbump (fset { s with con := c } Reg.CUR_MAINT_STATUS.STATE 2) Reg.CUR_MAINT_STATUS.FAILED (w.hbmBad.length + w.lanesBad))
    with hd | hd <;> rw [hd]
  · exact ⟨rfl, hwin, hcount, hheld, .inl (hkept.trans hstate)⟩
  · exact ⟨rfl, hwin, (fget_fset_other hr2 _ _ _ (by decide) (by decide)).trans hcount, hheld, .inr (fget_fset_same hr2 _ _ (by decide))⟩

/-! ### A window ends (R383, R384) -/

/-- Without a taint window none ends. -/
theorem settleTaints_nil (h : s.con.taints = []) : settleTaints s = s := by simp [settleTaints, h]

/-- What a close writes to CUR.MAINT_STATUS. -/
def closeWrites (code : Nat) : List (FieldRef × Nat) :=
  [(Reg.CUR_MAINT_STATUS.STATE, 0), (Reg.CUR_MAINT_STATUS.HELD, 0), (Reg.CUR_MAINT_STATUS.LAST_RESULT, code)]

theorem closeWrites_apart (code : Nat) : FieldsApart ((closeWrites code).map Prod.fst) := by
  change FieldsApart [Reg.CUR_MAINT_STATUS.STATE, Reg.CUR_MAINT_STATUS.HELD, Reg.CUR_MAINT_STATUS.LAST_RESULT]
  decide

/-- The close of a window whose regions all have a pass in flight: their copies flip later, at their boundaries. -/
theorem closeWin_closes {w : MaintWin} (hpass : ∀ r ∈ w.regions, (passOf s r).isSome = true) (htaint : s.con.taints = []) (code : Nat) :
    ∃ c : Containment, c.window = none ∧ closeWin s w code = setFields { s with con := c } (closeWrites code) := by
  refine ⟨{ s.con with window := none, gone := s.con.gone ++ w.failed.filter fun k => (folioAt s k).st == .serving }, rfl, ?_⟩
  generalize hc : ({ s.con with window := none, gone := s.con.gone ++ w.failed.filter fun k => (folioAt s k).st == .serving } : Containment) = c
  have hnone : (w.regions.filter fun r => (passOf (setFields { s with con := c } (closeWrites code)) r).isNone) = [] :=
    List.filter_eq_nil_iff.mpr fun r hr => by
      have hs : (passOf (setFields { s with con := c } (closeWrites code)) r).isSome = true := by
        rw [setFields_frame]
        exact hpass r hr
      rw [Option.isNone_eq_false_iff.mpr hs]
      exact Bool.false_ne_true
  have hclose : closeWin s w code = settleTaints ((w.regions.filter fun r =>
      (passOf (setFields { s with con := c } (closeWrites code)) r).isNone).foldl flipCopies (setFields { s with con := c } (closeWrites code))) := by
    subst hc
    rfl
  rw [hclose, hnone]
  exact settleTaints_nil (by subst hc; exact htaint)

/-- What a closed window's registers show. -/
theorem closeWrites_shows (hr : s.regsOk) (code : Nat) :
    fget (setFields s (closeWrites code)) Reg.CUR_MAINT_STATUS.STATE = 0 ∧
      fget (setFields s (closeWrites code)) Reg.CUR_MAINT_STATUS.LAST_RESULT = code % 2 ^ 8 ∧
      fget (setFields s (closeWrites code)) Reg.CUR_MAINT_STATUS.HELD = 0 ∧
      fget (setFields s (closeWrites code)) Reg.CUR_MAINT_STATUS.TAG = fget s Reg.CUR_MAINT_STATUS.TAG := by
  have hread {f : FieldRef} {x : Nat} (hf : (f, x) ∈ closeWrites code) : fget (setFields s (closeWrites code)) f = x % 2 ^ f.w :=
    fget_setFields hr (closeWrites_apart code) hf
  have htag : ∀ f ∈ [Reg.CUR_MAINT_STATUS.STATE, Reg.CUR_MAINT_STATUS.HELD, Reg.CUR_MAINT_STATUS.LAST_RESULT], f.Apart Reg.CUR_MAINT_STATUS.TAG := by decide
  exact ⟨hread (x := 0) (by simp [closeWrites]), hread (by simp [closeWrites]), hread (x := 0) (by simp [closeWrites]),
    fget_setFields_other hr (by decide) htag⟩

/-- How often something was recorded of a kind, or held back. -/
def Annals.noted (a : Annals) (kind : Nat) : Nat := a.lastSeq + (kindCount a kind).held

theorem kindCount_kind (a : Annals) (kind : Nat) : (kindCount a kind).kind = kind := by
  unfold kindCount
  cases h : a.counts.find? fun c => c.kind == kind with
  | none => rfl
  | some c => simpa using List.find?_some h

/-- A kind's count reads what was last put. -/
theorem kindCount_setCount (a : Annals) (c : KindCount) : kindCount { a with counts := setCount a c } c.kind = c := by simp [kindCount, setCount]

theorem writeRec_noted (s : State) (kind sev : Nat) (obj : Obj) (a0 a1 a2 k : Nat) :
    (writeRec s kind sev obj a0 a1 a2).ann.noted k = s.ann.noted k + 1 := by
  have hcounts : (writeRec s kind sev obj a0 a1 a2).ann.counts = s.ann.counts := by
    simp only [writeRec]
    split <;> split <;> rfl
  simp only [Annals.noted, kindCount, (writeRec_ann s kind sev obj a0 a1 a2).1, hcounts]
  omega

/-- Every record counts one (R367, R369). -/
theorem annal_noted (s : State) (kind sev : Nat) (obj : Obj) (a0 a1 a2 : Nat) :
    (annal s kind sev obj a0 a1 a2).ann.noted kind = s.ann.noted kind + 1 := by
  have hput (c : KindCount) (hc : c.kind = kind) :
      ({ s.ann with counts := setCount s.ann c } : Annals).noted kind = s.ann.lastSeq + c.held := by
    rw [Annals.noted, ← hc, kindCount_setCount]
  simp only [annal]
  split
  · split
    · rw [writeRec_noted]
      exact congrArg (· + 1) (hput { kindCount s.ann kind with written := (kindCount s.ann kind).written + 1 } (kindCount_kind ..))
    · exact hput { kindCount s.ann kind with held := (kindCount s.ann kind).held + 1 } (kindCount_kind ..)
  · exact writeRec_noted ..

/-- The folios that a window leaves unwalked are recorded. -/
def recordUnwalked (s : State) (ks : List Nat) : State := ks.foldl (fun s k => annal s 0x0500 2 (folioObj s k) 5 4 0) s

theorem recordUnwalked_recordsOnly (hr : s.regsOk) (ks : List Nat) : RecordsOnly s (recordUnwalked s ks) := by
  induction ks generalizing s with
  | nil => exact .refl hr
  | cons k ks ih =>
    have h := (RecordsOnly.refl hr).annal 0x0500 2 (folioObj s k) 5 4 0
    exact h.trans (ih h.regsOk)

theorem recordUnwalked_noted (s : State) (ks : List Nat) : (recordUnwalked s ks).ann.noted 0x0500 = s.ann.noted 0x0500 + ks.length := by
  induction ks generalizing s with
  | nil => rfl
  | cons k ks ih =>
    have h := ih (annal s 0x0500 2 (folioObj s k) 5 4 0)
    rw [annal_noted] at h
    rw [List.length_cons]
    exact h.trans (by omega)

/-! ### The commands -/

/-- A refused opening shows its result code alone. -/
theorem refused_shows (hr : s.regsOk) (code : Nat) :
    let t := fset s Reg.CUR_MAINT_STATUS.LAST_RESULT code
    fget t Reg.CUR_MAINT_STATUS.LAST_RESULT = code % 2 ^ 8 ∧ t = { s with regs := t.regs } ∧
      fget t Reg.CUR_MAINT_STATUS.STATE = fget s Reg.CUR_MAINT_STATUS.STATE :=
  ⟨fget_fset_same hr _ _ (by decide), rfl, fget_fset_other hr _ _ _ (by decide) (by decide)⟩

section
variable {value tag limit : Nat} {rs : List Nat} {whole : Bool} {hb : List Nat} {lb : Nat}

/-- A window over a region with a pass in flight stands open and waits for it. -/
theorem openWin_waits (hr : s.regsOk) (hp : unpowered s = false) (h1 : 100 ≤ limit) (h2 : limit ≤ 3600000) (hfree : windowBusy s = false)
    (hpass : ∃ r ∈ rs, (passOf s r).isSome = true) :
    ∃ t, openWin s value tag limit rs whole false hb lb = t ∧ t.atWork = s.atWork ∧
      t.con = { s.con with window := some (newWindow s limit rs whole hb lb) } ∧ fget t Reg.CUR_MAINT_STATUS.STATE = 1 ∧
      fget t Reg.CUR_MAINT_STATUS.LAST_RESULT = 0 ∧ fget t Reg.CUR_MAINT_STATUS.TAG = tag % 2 ^ 16 ∧ fget t Reg.CUR_MAINT_STATUS.FAILED = 0 := by
  have hcon := windowOpened_con s tag (newWindow s limit rs whole hb lb)
  have hwaits : windowQuiet (windowOpened s tag (newWindow s limit rs whole hb lb)) = windowOpened s tag (newWindow s limit rs whole hb lb) :=
    windowQuiet_waits (congrArg Containment.window hcon) (by simpa only [windowOpened_passOf, newWindow] using hpass)
  exact ⟨_, (openWin_opens hp h1 h2 hfree).trans hwaits, setFields_atWork .., hcon, windowOpened_shows hr tag _⟩

/-- A window over quiet regions walks at once. -/
theorem openWin_walks (hr : s.regsOk) (hp : unpowered s = false) (h1 : 100 ≤ limit) (h2 : limit ≤ 3600000) (hfree : windowBusy s = false)
    (hpass : ∀ r ∈ rs, passOf s r = none) :
    ∃ t, openWin s value tag limit rs whole false hb lb = t ∧ t.atWork = s.atWork ∧ (∃ w, t.con.window = some w ∧ w.quiet = true) ∧
      fget t Reg.CUR_MAINT_STATUS.FAILED = min (hb.length + lb) (2 ^ 16 - 1) ∧ (∀ x ∈ hb, x ∈ t.con.withheld) ∧
      (fget t Reg.CUR_MAINT_STATUS.STATE = 2 ∨ fget t Reg.CUR_MAINT_STATUS.STATE = 3) := by
  have hcon := windowOpened_con s tag (newWindow s limit rs whole hb lb)
  have hwalks : windowQuiet (windowOpened s tag (newWindow s limit rs whole hb lb)) = startWalk _ (newWindow s limit rs whole hb lb) :=
    windowQuiet_walks (congrArg Containment.window hcon) rfl (by simpa only [windowOpened_passOf, newWindow] using hpass)
  obtain ⟨-, -, -, hzero⟩ := windowOpened_shows hr tag (newWindow s limit rs whole hb lb)
  have hok : (windowOpened s tag (newWindow s limit rs whole hb lb)).regsOk := windowOpened_regsOk hr ..
  obtain ⟨hwork, hwin, hcount, hheld, hstate⟩ := startWalk_shows hok hzero (newWindow s limit rs whole hb lb)
  exact ⟨_, (openWin_opens hp h1 h2 hfree).trans hwalks, hwork.trans (setFields_atWork ..), ⟨_, hwin, rfl⟩, hcount, hheld, hstate⟩

end

/-- A closed window is gone, its commands are released, and its result shows. -/
theorem closeWin_shows {w : MaintWin} (hr : s.regsOk) (hpass : ∀ r ∈ w.regions, (passOf s r).isSome = true) (htaint : s.con.taints = []) (code : Nat) :
    (closeWin s w code).atWork = s.atWork ∧ (closeWin s w code).ann = s.ann ∧ (closeWin s w code).con.window = none ∧
      fget (closeWin s w code) Reg.CUR_MAINT_STATUS.STATE = 0 ∧ fget (closeWin s w code) Reg.CUR_MAINT_STATUS.LAST_RESULT = code % 2 ^ 8 ∧
      fget (closeWin s w code) Reg.CUR_MAINT_STATUS.HELD = 0 ∧
      fget (closeWin s w code) Reg.CUR_MAINT_STATUS.TAG = fget s Reg.CUR_MAINT_STATUS.TAG := by
  obtain ⟨c, hwin, hclose⟩ := closeWin_closes hpass htaint code
  rw [hclose]
  refine ⟨setFields_atWork .., ?_, by rw [setFields_con_eq, hwin], closeWrites_shows (s := { s with con := c }) hr code⟩
  rw [setFields_frame]

theorem execMaintLimitExpiry_left {w : MaintWin} (hw : s.con.window = some w) (hleft : unwalked s w ≠ []) :
    execMaintLimitExpiry s = .next (closeWin (recordUnwalked s (unwalked s w)) w 4) := by
  simp [execMaintLimitExpiry, hw, hleft, recordUnwalked]

/-- A window whose limit expires with folios left records each of them and ends with LIMIT. -/
theorem exec_maintLimitExpiry {w : MaintWin} (hr : s.regsOk) (hw : s.con.window = some w) (hleft : unwalked s w ≠ [])
    (hpass : ∀ r ∈ w.regions, (passOf s r).isSome = true) (htaint : s.con.taints = []) :
    ∃ t, exec .maintLimitExpiry s = .next t ∧ (t.kv = s.kv ∧ t.itk = s.itk ∧ t.run = s.run ∧ t.img = s.img) ∧ t.con.window = none ∧
      fget t Reg.CUR_MAINT_STATUS.STATE = 0 ∧ fget t Reg.CUR_MAINT_STATUS.LAST_RESULT = 4 ∧ fget t Reg.CUR_MAINT_STATUS.HELD = 0 ∧ t.ann ≠ s.ann := by
  have hrec := recordUnwalked_recordsOnly hr (unwalked s w)
  have hnoted := recordUnwalked_noted s (unwalked s w)
  have hexec := execMaintLimitExpiry_left hw hleft
  generalize recordUnwalked s (unwalked s w) = u at hrec hnoted hexec
  have hwork : u.atWork = s.atWork := (congrArg State.atWork hrec.frame :)
  have hcon : u.con = s.con := (congrArg State.con hrec.frame :)
  have hpass' : ∀ r ∈ w.regions, (passOf u r).isSome = true := by
    rw [hrec.frame]
    exact hpass
  obtain ⟨hwork', hann, hwin, hstate, hresult, hheld, -⟩ := closeWin_shows hrec.regsOk hpass' (hcon ▸ htaint) 4
  refine ⟨_, hexec, atWork_eq (hwork'.trans hwork), hwin, hstate, hresult, hheld, fun he => ?_⟩
  rw [← hann, he] at hnoted
  exact hleft (List.length_eq_zero_iff.mp (by omega))

/-- A window that closes releases the held commands. -/
theorem exec_closeWindow {w : MaintWin} (hr : s.regsOk) (hp : unpowered s = false) (hw : s.con.window = some w)
    (hpass : ∀ r ∈ w.regions, (passOf s r).isSome = true) (htaint : s.con.taints = []) (tag : Nat) :
    ∃ t, exec (.closeWindow tag) s = .next t ∧ (t.kv = s.kv ∧ t.itk = s.itk ∧ t.run = s.run ∧ t.img = s.img) ∧ t.con.window = none ∧
      fget t Reg.CUR_MAINT_STATUS.STATE = 0 ∧ fget t Reg.CUR_MAINT_STATUS.LAST_RESULT = 0 ∧ fget t Reg.CUR_MAINT_STATUS.HELD = 0 ∧
      fget t Reg.CUR_MAINT_STATUS.TAG = tag % 2 ^ 16 := by
  have h1 := regsOk_fset hr Reg.CUR_MAINT_STATUS.LAST_RESULT 0
  have h2 := regsOk_fset h1 Reg.CUR_MAINT_STATUS.TAG tag
  have hexec : execCloseWindow tag s =
      .next (closeWin (fset (fset s Reg.CUR_MAINT_STATUS.LAST_RESULT 0) Reg.CUR_MAINT_STATUS.TAG tag) w 0) := by
    simp only [execCloseWindow, hp, Bool.false_eq_true, if_false, fset_con, hw]
  obtain ⟨hwork, -, hwin, hstate, hresult, hheld, htag⟩ := closeWin_shows h2 hpass htaint 0
  exact ⟨_, hexec, atWork_eq hwork, hwin, hstate, hresult, hheld, htag.trans (fget_fset_same h1 _ _ (by decide))⟩

/-- Without a window a CLOSE answers OK alone. -/
theorem exec_closeWindow_none (hr : s.regsOk) (hp : unpowered s = false) (hw : s.con.window = none) (tag : Nat) :
    ∃ t, exec (.closeWindow tag) s = .next t ∧ t = { s with regs := t.regs } ∧ fget t Reg.CUR_MAINT_STATUS.LAST_RESULT = 0 ∧
      fget t Reg.CUR_MAINT_STATUS.STATE = fget s Reg.CUR_MAINT_STATUS.STATE := by
  have h1 := regsOk_fset hr Reg.CUR_MAINT_STATUS.LAST_RESULT 0
  have hexec : execCloseWindow tag s = .next (fset (fset s Reg.CUR_MAINT_STATUS.LAST_RESULT 0) Reg.CUR_MAINT_STATUS.TAG tag) := by
    simp only [execCloseWindow, hp, Bool.false_eq_true, if_false, fset_con, hw]
  refine ⟨_, hexec, rfl, (fget_fset_other h1 _ _ _ (by decide) (by decide)).trans (fget_fset_same hr _ _ (by decide)), ?_⟩
  exact (fget_fset_other h1 _ _ _ (by decide) (by decide)).trans (fget_fset_other hr _ _ _ (by decide) (by decide))

/-- A window that never became quiet ends with QUIESCE_TIMEOUT. -/
theorem exec_quiesceTimeout {w : MaintWin} (hr : s.regsOk) (hw : s.con.window = some w) (hop : s.img.op = none) (hq : w.quiet = false) :
    ∃ t, exec .quiesceTimeout s = .next t ∧ t = { s with regs := t.regs, con := { s.con with window := none } } ∧
      fget t Reg.CUR_MAINT_STATUS.STATE = 0 ∧ fget t Reg.CUR_MAINT_STATUS.LAST_RESULT = 3 ∧ fget t Reg.CUR_MAINT_STATUS.HELD = 0 := by
  obtain ⟨u, hu⟩ : ∃ u : State, u = { s with con := { s.con with window := none } } := ⟨_, rfl⟩
  have hru : u.regsOk := by rw [hu]; exact hr
  have h1 := regsOk_fset hru Reg.CUR_MAINT_STATUS.LAST_RESULT 3
  have h2 := regsOk_fset h1 Reg.CUR_MAINT_STATUS.STATE 0
  have hexec : execQuiesceTimeout s =
      .next (fset (fset (fset u Reg.CUR_MAINT_STATUS.LAST_RESULT 3) Reg.CUR_MAINT_STATUS.STATE 0) Reg.CUR_MAINT_STATUS.HELD 0) := by
    simp only [execQuiesceTimeout, hop, hw, hq, Bool.false_eq_true, if_false, hu]
  refine ⟨_, hexec, by rw [hu]; rfl, ?_, ?_, fget_fset_same h2 _ _ (by decide)⟩
  · exact (fget_fset_other h2 _ _ _ (by decide) (by decide)).trans (fget_fset_same h1 _ _ (by decide))
  · exact ((fget_fset_other h2 _ _ _ (by decide) (by decide)).trans (fget_fset_other h1 _ _ _ (by decide) (by decide))).trans
      (fget_fset_same hru _ _ (by decide))

/-- OPEN over the regions of a mask (R383). -/
theorem exec_openWindow_eq (s : State) (tag mask limit : Nat) {rs : List Nat} (hrs : (s.img.bound.regions.map (·.id)).filter mask.testBit = rs) :
    exec (.openWindow tag mask limit) s =
      .next (openWin s (1 + limit * 2 ^ 8 + mask % 2 ^ 16 * 2 ^ 32 + tag * 2 ^ 48) tag limit rs false (rs.any (orbitRegion s)) [] 0) := by
  subst hrs
  rfl

/-- OPEN_MODULE over every region, outside an orbit (R383). -/
theorem exec_openModule_eq {tag limit lb : Nat} {hb rs : List Nat} (hrs : s.img.bound.regions.map (·.id) = rs) (horb : rs.any (orbitRegion s) = false)
    (hst : fget s Reg.ORB_STATUS.STATE = 0 ∨ fget s Reg.ORB_STATUS.STATE = 4) :
    exec (.openModule tag limit hb lb) s = .next (openWin s (2 + limit * 2 ^ 8 + tag * 2 ^ 48) tag limit rs true false hb lb) := by
  have horbit : (rs.any (orbitRegion s) || decide (fget s Reg.ORB_STATUS.STATE ≠ 0 ∧ fget s Reg.ORB_STATUS.STATE ≠ 4)) = false := by
    rw [horb, Bool.false_or]
    exact decide_eq_false (by omega)
  rw [← horbit]
  subst hrs
  rfl

section
variable {tag mask limit : Nat} {rs : List Nat}

/-- An opening that is refused: a write that is ignored, BUSY, or ORBIT. -/
theorem exec_openWindow_refused (hr : s.regsOk) (hp : unpowered s = false) (hrs : (s.img.bound.regions.map (·.id)).filter mask.testBit = rs) :
    ((limit < 100 ∨ 3600000 < limit) → ∃ t, exec (.openWindow tag mask limit) s = .next t ∧ t = s.withRegs t ∧ s.regsFrom t [] ∧
      recorded s t 0x0C00 1 0x109000 (1 + limit * 2 ^ 8 + mask % 2 ^ 16 * 2 ^ 32 + tag * 2 ^ 48) 0) ∧
    (100 ≤ limit → limit ≤ 3600000 → windowBusy s = true → ∃ t, exec (.openWindow tag mask limit) s = .next t ∧
      fget t Reg.CUR_MAINT_STATUS.LAST_RESULT = 1 ∧ t = { s with regs := t.regs } ∧
      fget t Reg.CUR_MAINT_STATUS.STATE = fget s Reg.CUR_MAINT_STATUS.STATE) ∧
    (100 ≤ limit → limit ≤ 3600000 → windowBusy s = false → rs.any (orbitRegion s) = true → ∃ t, exec (.openWindow tag mask limit) s = .next t ∧
      fget t Reg.CUR_MAINT_STATUS.LAST_RESULT = 2 ∧ t = { s with regs := t.regs } ∧
      fget t Reg.CUR_MAINT_STATUS.STATE = fget s Reg.CUR_MAINT_STATUS.STATE) := by
  rw [exec_openWindow_eq s tag mask limit hrs]
  refine ⟨fun hl => ?_, fun h1 h2 hb => ?_, fun h1 h2 hb horb => ?_⟩
  · have hrec := (RecordsOnly.refl hr).ignored 0x109000 (1 + limit * 2 ^ 8 + mask % 2 ^ 16 * 2 ^ 32 + tag * 2 ^ 48)
    rw [openWin_ignored hp hl]
    exact ⟨_, rfl, hrec.frame, fun a _ ha => hrec.rget_eq ha, annal_recorded ..⟩
  · rw [openWin_busy hp h1 h2 hb]
    exact ⟨_, rfl, refused_shows hr 1⟩
  · rw [horb, openWin_orbit hp h1 h2 hb]
    exact ⟨_, rfl, refused_shows hr 2⟩

/-- A window over a mask's regions waits for their passes. -/
theorem exec_openWindow_waits (hr : s.regsOk) (hp : unpowered s = false) (hrs : (s.img.bound.regions.map (·.id)).filter mask.testBit = rs)
    (h1 : 100 ≤ limit) (h2 : limit ≤ 3600000) (hfree : windowBusy s = false) (horb : rs.any (orbitRegion s) = false)
    (hpass : ∃ r ∈ rs, (passOf s r).isSome = true) :
    ∃ t w, exec (.openWindow tag mask limit) s = .next t ∧ (t.kv = s.kv ∧ t.itk = s.itk ∧ t.run = s.run ∧ t.img = s.img) ∧
      t.con = { s.con with window := some w } ∧ w.regions = rs ∧ w.quiet = false ∧ w.walked = [] ∧ w.opened = s.clk.tick ∧
      fget t Reg.CUR_MAINT_STATUS.STATE = 1 ∧ fget t Reg.CUR_MAINT_STATUS.LAST_RESULT = 0 ∧
      fget t Reg.CUR_MAINT_STATUS.TAG = tag % 2 ^ 16 ∧ fget t Reg.CUR_MAINT_STATUS.FAILED = 0 := by
  rw [exec_openWindow_eq s tag mask limit hrs, horb]
  obtain ⟨t, ht, hwork, hcon, hshows⟩ := openWin_waits (tag := tag) (whole := false) (hb := []) (lb := 0)
    (value := 1 + limit * 2 ^ 8 + mask % 2 ^ 16 * 2 ^ 32 + tag * 2 ^ 48) hr hp h1 h2 hfree hpass
  exact ⟨t, newWindow s limit rs false [] 0, congrArg _ ht, atWork_eq hwork, hcon, rfl, rfl, rfl, rfl, hshows⟩

end

/-- A window over the module waits for the passes of its regions, or walks. -/
theorem exec_openModule {tag limit lb : Nat} {hb rs : List Nat} (hr : s.regsOk) (hp : unpowered s = false) (hrs : s.img.bound.regions.map (·.id) = rs)
    (h1 : 100 ≤ limit) (h2 : limit ≤ 3600000) (hfree : windowBusy s = false) (horb : rs.any (orbitRegion s) = false)
    (hst : fget s Reg.ORB_STATUS.STATE = 0 ∨ fget s Reg.ORB_STATUS.STATE = 4) :
    ((∃ r ∈ rs, (passOf s r).isSome = true) → ∃ t w, exec (.openModule tag limit hb lb) s = .next t ∧
      (t.kv = s.kv ∧ t.itk = s.itk ∧ t.run = s.run ∧ t.img = s.img) ∧ t.con = { s.con with window := some w } ∧
      w.module = true ∧ w.regions = rs ∧ w.hbmBad = hb ∧ w.lanesBad = lb ∧ fget t Reg.CUR_MAINT_STATUS.STATE = 1 ∧
      fget t Reg.CUR_MAINT_STATUS.LAST_RESULT = 0) ∧
    ((∀ r ∈ rs, passOf s r = none) → ∃ t, exec (.openModule tag limit hb lb) s = .next t ∧
      (t.kv = s.kv ∧ t.itk = s.itk ∧ t.run = s.run ∧ t.img = s.img) ∧ (∃ w, t.con.window = some w ∧ w.quiet = true) ∧
      fget t Reg.CUR_MAINT_STATUS.FAILED = min (hb.length + lb) (2 ^ 16 - 1) ∧ (∀ x ∈ hb, x ∈ t.con.withheld) ∧
      (fget t Reg.CUR_MAINT_STATUS.STATE = 2 ∨ fget t Reg.CUR_MAINT_STATUS.STATE = 3)) := by
  rw [exec_openModule_eq hrs horb hst]
  refine ⟨fun hpass => ?_, fun hpass => ?_⟩
  · obtain ⟨t, ht, hwork, hcon, hstate, hresult, -, -⟩ := openWin_waits (tag := tag) (whole := true) (hb := hb) (lb := lb)
      (value := 2 + limit * 2 ^ 8 + tag * 2 ^ 48) hr hp h1 h2 hfree hpass
    exact ⟨t, newWindow s limit rs true hb lb, congrArg _ ht, atWork_eq hwork, hcon, rfl, rfl, rfl, rfl, hstate, hresult⟩
  · obtain ⟨t, ht, hwork, hrest⟩ := openWin_walks (tag := tag) (whole := true) (hb := hb) (lb := lb)
      (value := 2 + limit * 2 ^ 8 + tag * 2 ^ 48) hr hp h1 h2 hfree hpass
    exact ⟨t, congrArg _ ht, atWork_eq hwork, hrest⟩

/-- Settles O51: a walk of a spare (`exec_marginWalk_spare`) or its abandonment (`abandonWalk_waits`); an opening is refused, waits or walks
(`openWin_waits`, `openWin_walks`); a window ends by CLOSE, by its quiesce or by its limit. -/
theorem windowsOpenAndClose : Obligations.WindowsOpenAndClose := by
  unfold Obligations.WindowsOpenAndClose
  intro s hr hf hp state result rest
  refine ⟨fun shelf pos => exec_marginWalk_spare hr hf, ?_, ?_, ?_, fun tag w hw hpass htaint => exec_closeWindow hr hp hw hpass htaint tag,
    fun tag hw => exec_closeWindow_none hr hp hw tag, fun w hw hop hq => exec_quiesceTimeout hr hw hop hq,
    fun w hw hleft hpass htaint => exec_maintLimitExpiry hr hw hleft hpass htaint, fun hw => ?_⟩
  · intro shelf pos xs key hoff hst hen hworn hsome hall
    exact ⟨_, execMarginWalk_abandons xs hoff hst hen hworn hsome hall, abandonWalk_waits s key⟩
  · intro tag mask limit rs busy
    obtain ⟨hignored, hbusy, horbit⟩ := exec_openWindow_refused (tag := tag) (limit := limit) hr hp (rfl : _ = rs)
    exact ⟨hignored, hbusy, horbit, exec_openWindow_waits hr hp rfl⟩
  · intro tag limit hb lb rs st h1 h2 himg hacc hwin horb hst
    exact exec_openModule hr hp rfl h1 h2 (by simp [windowBusy, himg, hacc, hwin]) horb hst
  · change execMaintLimitExpiry s = .next s
    simp only [execMaintLimitExpiry, hw]

end Sys2Proof.Machine
end
end

section
/-!
PROOFS. STRIKE (R46, R47, R66, R76, R77): what a strike adds to its ledger, and what it leaves of the pass and of the rest.
-/
section
open Sys2Proof Sys2Proof.Machine
namespace Sys2Proof.Machine

/-! ### What a strike adds (R76, R77) -/

section
variable {α β : Type} [DecidableEq α] {d : Nat → α} (g : β → α → α)

/-- Entries from `n` on that are changed one after the other leave those before `n`. -/
theorem sget_foldl_smod_below (cs : List β) {n j : Nat} {m : Sparse α} (hm : swf d m = true) (hj : j < n) :
    sget d ((cs.zipIdx n).foldl (fun m c => smod d m c.2 (g c.1)) m) j = sget d m j := by
  induction cs generalizing n m with
  | nil => rfl
  | cons c cs ih =>
    rw [List.zipIdx_cons, List.foldl_cons, ih (smod_swf _ _ hm) (by omega)]
    exact sget_smod_ne (g c) hm hj.ne

/-- Each entry from `n` on takes the change that stands in its place. -/
theorem sget_foldl_smod (cs : List β) (b : β) {n j : Nat} {m : Sparse α} (hm : swf d m = true) (hj : j < cs.length) :
    sget d ((cs.zipIdx n).foldl (fun m c => smod d m c.2 (g c.1)) m) (n + j) = g (cs.getD j b) (sget d m (n + j)) := by
  induction cs generalizing n m j with
  | nil => simp at hj
  | cons c cs ih =>
    rw [List.zipIdx_cons, List.foldl_cons]
    cases j with
    | zero => exact (sget_foldl_smod_below g cs (smod_swf _ _ hm) (Nat.lt_succ_self n)).trans (sget_smod_same (g c) hm)
    | succ j =>
      have h := ih (n := n + 1) (smod_swf n (g c) hm) (Nat.succ_lt_succ_iff.mp hj)
      rw [sget_smod_ne (g c) hm (by omega), Nat.add_right_comm, Nat.add_assoc] at h
      exact h

end

/-- A ledger's totals after a strike: the first term of a vector overwrites, later terms add. -/
theorem sget_ledgerAdd {l : Ledger} (hl : swf (fun _ => (0 : Int)) l.totals = true) (v shift : Nat) (w : Int) (cs : List Conv) {j : Nat} (hj : j < cs.length) :
    sget (fun _ => (0 : Int)) (ledgerAdd l v shift w cs).totals j =
      (if l.started = true ∧ l.vec = v then sget (fun _ => (0 : Int)) l.totals j else 0) + (cs.getD j ⟨0, false⟩).code * (2 ^ shift : Nat) * w := by
  have hadd {m : Sparse Int} (hm : swf (fun _ => (0 : Int)) m = true) := sget_foldl_smod (n := 0)
    (fun (c : Conv) (old : Int) => (if l.started && l.vec == v then old else 0) + c.code * (2 ^ shift : Nat) * w) cs ⟨0, false⟩ hm hj
  simp only [Nat.zero_add] at hadd
  refine (hadd ?_).trans ?_
  · split
    · exact hl
    · rfl
  · by_cases hv : l.started = true ∧ l.vec = v
    · simp [hv]
    · have hv' : (l.started && l.vec == v) = false := by simpa using hv
      simp [hv, hv']

theorem strikeCodes_length (s : State) (key window : Nat) (rows : List Nat) : (strikeCodes s key window rows).length = 512 := by simp [strikeCodes]

/-! ### What a strike leaves alone -/

section
variable (s : State)

@[simp] theorem putKhat_passView (k xs) : (putKhat s k xs).passView = s.passView := (rfl)
@[simp] theorem putOffs_passView (k xs) : (putOffs s k xs).passView = s.passView := (rfl)
@[simp] theorem restartWindow_passView (k) : (restartWindow s k).passView = s.passView := (rfl)
@[simp] theorem modFolio_passView (k f) : (modFolio s k f).passView = s.passView := (rfl)
@[simp] theorem switchBank_passView (k) : (switchBank s k).passView = s.passView := by simp only [switchBank, restartWindow_passView, fbump_passView,
  modFolio_passView, putOffs_passView, putKhat_passView]
@[simp] theorem switchAtVector_passView (x key v) : (switchAtVector s x key v).passView = s.passView := by simp [switchAtVector]
@[simp] theorem modLedger_passView (shelf c f) : (modLedger s shelf c f).passView = s.passView := (rfl)
@[simp] theorem countSat_passView (key region layer cs) : (countSat s key region layer cs).passView = s.passView := by
  simp only [countSat, ite_passView, annal_passView, mk_passView, fbump_passView]
  split <;> rfl
@[simp] theorem countWindow_passView (key p b rows cs) : (countWindow s key p b rows cs).passView = s.passView := by
  unfold countWindow
  dsimp only
  split
  · split <;> rfl
  · rfl
@[simp] theorem countLocal_passView (p shelf c slot key v rows cs) : (countLocal s p shelf c slot key v rows cs).passView = s.passView := by
  unfold countLocal
  split <;> rfl
@[simp] theorem showPeriod_passView (h floor) : (showPeriod s h floor).passView = s.passView := (rfl)

/-- The ledgers. It is a name of its own so that `simp` carries it through a state's updates. -/
def State.ledgers (s : State) : Sparse Ledger := s.arr.ledgers

@[simp] theorem annal_ledgers (kind sev obj a0 a1 a2) : (annal s kind sev obj a0 a1 a2).ledgers = s.ledgers := by rw [annal_frame]; rfl
@[simp] theorem switchAtVector_ledgers (x key v) : (switchAtVector s x key v).ledgers = s.ledgers := by
  unfold switchAtVector
  split <;> rfl
@[simp] theorem countSat_ledgers (key region layer cs) : (countSat s key region layer cs).ledgers = s.ledgers := by
  unfold countSat
  dsimp only
  split
  · exact annal_ledgers ..
  · rfl
@[simp] theorem countWindow_ledgers (key p b rows cs) : (countWindow s key p b rows cs).ledgers = s.ledgers := by
  unfold countWindow
  dsimp only
  split
  · split <;> rfl
  · rfl
@[simp] theorem countLocal_ledgers (p shelf c slot key v rows cs) : (countLocal s p shelf c slot key v rows cs).ledgers = s.ledgers := by
  unfold countLocal
  split <;> rfl
@[simp] theorem showPeriod_ledgers (h floor) : (showPeriod s h floor).ledgers = s.ledgers := (rfl)

end

/-! ### A plane is struck (R46, R47) -/

variable {s t : State}

/-- The conversions of a folio's next strike for vector v. -/
def nextCodes (s : State) (p : Pass) (x : StageRun) (shelf slot key c v : Nat) : List Conv :=
  strikeCodes s key (p.window.getD (hallOf shelf) 0) (drivenRows x shelf c v (slotChannel s p x.stage shelf c slot) (nextPlane x key v))

/-- A stage's run with `n` planes of vector v struck by folio `key`. -/
def StageRun.withPlanes (key v n : Nat) (x : StageRun) : StageRun := { x with struck := sset (fun _ => 0) x.struck (v * 2 ^ 16 + key) n }

/-- The module with the next plane in its ledger, and counted in its pass. -/
def planeStruck (s : State) (p : Pass) (x : StageRun) (b shelf slot key c v : Nat) : State :=
  let s1 := modLedger s shelf c fun l => ledgerAdd l v ((folioAt s key).rangeExp + pairShift s shelf slot) (planeWeight b (nextPlane x key v))
    (nextCodes s p x shelf slot key c v)
  modPass { s1 with free := s1.free + 1 } p.region fun p => modStageRun p x.stage (StageRun.withPlanes key v (nextPlane x key v + 1))

/-- Is the ledger of a chain still another vector's, one that is in the pass (R77)? -/
def ledgerHeld (s : State) (p : Pass) (shelf c v : Nat) : Prop :=
  (ledgerOf s shelf c).started = true ∧ (ledgerOf s shelf c).vec ≠ v ∧ (p.vecs[(ledgerOf s shelf c).vec]?).elim false (liveVec p) = true

section
variable {p : Pass} {x : StageRun} {b shelf slot key c v : Nat} (hc : slotChain s shelf slot = some c) (hv : nextVec p x b key = some v)
include hc hv

/-- A vector whose ledger is held waits. -/
theorem strikeOne_waits (h : ledgerHeld s p shelf c v) : strikeOne s p x b shelf slot key = s := by
  obtain ⟨hstarted, hvec, hlive⟩ := h
  simp [strikeOne, hc, hv, hstarted, hvec, hlive]

/-- Besides the bank that may switch first and what is counted afterwards, a strike adds its plane. -/
theorem strikeOne_eq (h : ¬ ledgerHeld s p shelf c v) :
    ∃ layer rows cs floor, strikeOne s p x b shelf slot key =
      showPeriod (countLocal (countWindow (countSat (planeStruck (switchAtVector s x key v) p x b shelf slot key c v) key p.region layer cs)
        key (nextPlane x key v) b rows cs) p shelf c slot key v rows cs) (hallOf shelf) floor := by
  have hfree : ((ledgerOf s shelf c).started && (ledgerOf s shelf c).vec != v && (p.vecs[(ledgerOf s shelf c).vec]?).elim false (liveVec p)) = false := by
    simpa [ledgerHeld] using h
  refine ⟨(stageLayer p x.stage).getD 0, drivenRows x shelf c v (slotChannel (switchAtVector s x key v) p x.stage shelf c slot) (nextPlane x key v),
    nextCodes (switchAtVector s x key v) p x shelf slot key c v, passFloor (switchAtVector s x key v) p (hallOf shelf), ?_⟩
  simp only [strikeOne, hc, Option.getD_some, hv, hfree, Bool.false_eq_true, if_false]
  rfl

theorem strikeOne_strikes (h : ¬ ledgerHeld s p shelf c v) :
    (strikeOne s p x b shelf slot key).passView = (planeStruck (switchAtVector s x key v) p x b shelf slot key c v).passView ∧
      (strikeOne s p x b shelf slot key).ledgers = (planeStruck (switchAtVector s x key v) p x b shelf slot key c v).ledgers := by
  obtain ⟨layer, rows, cs, floor, hstrike⟩ := strikeOne_eq hc hv h
  rw [hstrike]
  constructor <;> simp

end

theorem ledgerOf_of_ledgers (h : t.ledgers = s.ledgers) (shelf c : Nat) : ledgerOf t shelf c = ledgerOf s shelf c :=
  congrArg (sget (fun _ => freshLedger) · (chainKey shelf c)) h

theorem ledgerOf_modLedger (hl : swf (fun _ => freshLedger) s.ledgers = true) (shelf c : Nat) (f : Ledger → Ledger) :
    ledgerOf (modLedger s shelf c f) shelf c = f (ledgerOf s shelf c) := sget_smod_same f hl

theorem planeStruck_ledgers (s : State) (p : Pass) (x : StageRun) (b shelf slot key c v : Nat) :
    (planeStruck s p x b shelf slot key c v).ledgers = (modLedger s shelf c fun l => ledgerAdd l v ((folioAt s key).rangeExp + pairShift s shelf slot)
      (planeWeight b (nextPlane x key v)) (nextCodes s p x shelf slot key c v)).ledgers := rfl

/-- The ledger of a struck plane's chain. -/
theorem ledgerOf_planeStruck (hl : swf (fun _ => freshLedger) s.ledgers = true) (p : Pass) (x : StageRun) (b shelf slot key c v : Nat) :
    ledgerOf (planeStruck s p x b shelf slot key c v) shelf c =
      ledgerAdd (ledgerOf s shelf c) v ((folioAt s key).rangeExp + pairShift s shelf slot) (planeWeight b (nextPlane x key v))
        (nextCodes s p x shelf slot key c v) :=
  (ledgerOf_of_ledgers (planeStruck_ledgers s p x b shelf slot key c v) shelf c).trans (ledgerOf_modLedger hl shelf c _)

/-- The pass of a struck plane has the folio one plane further. -/
theorem passOf_planeStruck {p : Pass} (hp : passOf s p.region = some p) (x : StageRun) (b shelf slot key c v : Nat) :
    passOf (planeStruck s p x b shelf slot key c v) p.region =
      some (modStageRun p x.stage (StageRun.withPlanes key v (nextPlane x key v + 1))) :=
  passOf_modPass_of_passOf (s := { modLedger s shelf c _ with free := s.free + 1 }) hp _ fun _ => rfl

/-- Of what a pass would begin from, a struck plane changes the running passes alone. -/
theorem passView_of_planeStruck {p : Pass} {x : StageRun} {b shelf slot key c v : Nat}
    (h : t.passView = (planeStruck (switchAtVector s x key v) p x b shelf slot key c v).passView) : t.kv = s.kv ∧ t.itk = s.itk ∧ t.img = s.img := by
  have hsw := switchAtVector_passView s x key v
  exact ⟨(congrArg PassView.kv h).trans (congrArg PassView.kv hsw), (congrArg PassView.itk h).trans (congrArg PassView.itk hsw),
    (congrArg PassView.img h).trans (congrArg PassView.img hsw)⟩

theorem stageRun_modStageRun {p : Pass} (h : swf (fun _ => (none : Option StageRun)) p.stages = true) (st : Nat) (f : StageRun → StageRun) :
    stageRun (modStageRun p st f) st = (stageRun p st).map f := sget_sset_same h

theorem nextPlane_withPlanes {x : StageRun} (h : swf (fun _ => 0) x.struck = true) (key v n : Nat) : nextPlane (x.withPlanes key v n) key v = n :=
  sget_sset_same h

/-- Folio keys take 16 bits: the count of another folio or vector stays. -/
theorem nextPlane_withPlanes_ne {x : StageRun} (h : swf (fun _ => 0) x.struck = true) {key v k w : Nat} (hkey : key < 2 ^ 16) (hk : k < 2 ^ 16)
    (hne : (k, w) ≠ (key, v)) (n : Nat) : nextPlane (x.withPlanes key v n) k w = nextPlane x k w := by
  refine sget_sset_ne h fun he => hne ?_
  rw [Prod.mk.injEq]
  omega

/-! ### STRIKE (R48, R66, R70) -/

theorem execStrike_waits {shelf pos : Nat} (h : (folioAt s (folioKey shelf pos)).st ≠ .serving ∨ (hallPower s (hallOf shelf)).stretched = true ∨
    (hallPower s (hallOf shelf)).gated = true) : execStrike shelf pos s = .next s := by
  rcases h with h | h | h <;> simp [execStrike, h]

/-- A serving folio of a stage that runs is struck for its pass. -/
theorem execStrike_strikes {shelf pos : Nat} (hst : (folioAt s (folioKey shelf pos)).st = .serving) (hstretch : (hallPower s (hallOf shelf)).stretched = false)
    (hgate : (hallPower s (hallOf shelf)).gated = false) {p : Pass} {x : StageRun} {b : Nat} (hfor : struckFor s (folioKey shelf pos) = some (p, x, b)) :
    execStrike shelf pos s = .next (strikeOne s p x b shelf (folioAt s (folioKey shelf pos)).logical (folioKey shelf pos)) := by
  simp [execStrike, hst, hstretch, hgate, hfor]

/-- Settles O22: the folio's pass and stage are those of `struckFor`; a held ledger has it wait (`strikeOne_waits`), else its next plane joins the
ledger and is counted (`strikeOne_strikes`). -/
theorem strikesFillTheLedger : Obligations.StrikesFillTheLedger := by
  unfold Obligations.StrikesFillTheLedger
  intro shelf pos s key f
  refine ⟨execStrike_waits, ?_⟩
  intro p x rec c st v hshelf hpos hst hstretch hgate hp hregion hstage hrun hxst hrec hc hplace hslot hv l held plane sw g cs
  have hkey : key / 68 = shelf := by unfold key folioKey; omega
  have hsmall : key < 2 ^ 16 := by unfold key folioKey; omega
  subst hxst
  have hfor : struckFor s key = some (p, x, rec.width) := by
    simp only [struckFor, show passOf s (folioAt s key).region = some p from hp, hstage, Option.bind_some, hrun, hrec, hkey,
      show slotChain s shelf (folioAt s key).logical = some c from hc, hplace, Bool.true_and]
    exact if_pos (List.elem_eq_true_of_mem hslot)
  have hexec := execStrike_strikes hst hstretch hgate hfor
  refine ⟨fun h => hexec.trans (congrArg _ (strikeOne_waits hc hv h)), fun hfree hl htotals hstages hstruck => ?_⟩
  obtain ⟨hview, hledgers⟩ := strikeOne_strikes hc hv hfree
  have hpass : passOf _ f.region = _ := (passOf_of_passView hview f.region).trans (hregion ▸ passOf_planeStruck (s := sw) (by
    rw [hregion]
    exact (passOf_of_passView (switchAtVector_passView s x key v) f.region).trans hp) x rec.width shelf f.logical key c v)
  have hl0 : ledgerOf sw shelf c = l := ledgerOf_of_ledgers (switchAtVector_ledgers s x key v) shelf c
  have hledger := (ledgerOf_of_ledgers hledgers shelf c).trans
    (ledgerOf_planeStruck (s := sw) ((switchAtVector_ledgers s x key v).symm ▸ hl) p x rec.width shelf f.logical key c v)
  refine ⟨_, _, x.withPlanes key v (plane + 1), hexec, hledger ▸ rfl, hledger ▸ rfl, fun j hj => ?_, hpass, ?_,
    nextPlane_withPlanes hstruck key v _, fun k hk w hne => nextPlane_withPlanes_ne hstruck hsmall hk hne _, rfl, rfl, passView_of_planeStruck hview⟩
  · rw [hledger, hl0]
    exact sget_ledgerAdd htotals v _ _ _ (by rwa [nextCodes, strikeCodes_length])
  · rw [stageRun_modStageRun hstages, hrun, Option.map_some]

end Sys2Proof.Machine
end
end

section
/-!
PROOFS. One instruction of a scribe program (R107, R111, R113, R114): what a change of a scribe reads back as, the step that an instruction takes or does
not take, and the program faults; with them the index instructions.
-/
section
open Sys2Proof Sys2Proof.Machine
namespace Sys2Proof.Machine
variable {s : State} {h : Nat} {p : Prog} {o : SOp}

/-! ### A change of a scribe -/

theorem unit_swf_modScribe (hu : swf (fun _ => freshScribe) s.scr.unit = true) (x : Nat) (f : Scribe → Scribe) :
    swf (fun _ => freshScribe) (modScribe s x f).scr.unit = true := smod_swf x f hu

/-- A written table reads at a key what was written there, and elsewhere what it read. -/
theorem sget_sset_ite {α : Type} [DecidableEq α] {d : Nat → α} {m : Sparse α} (hm : swf d m = true) (i : Nat) (x : α) (j : Nat) :
    sget d (sset d m i x) j = if j = i then x else sget d m j := by
  split
  · next he => exact he ▸ sget_sset_same hm
  · next hne => exact sget_sset_ne hm hne

/-- A scribe that changed reads the change, every other one what it read. -/
theorem scribeOf_modScribe_ite (hu : swf (fun _ => freshScribe) s.scr.unit = true) (x g : Nat) (f : Scribe → Scribe) :
    scribeOf (modScribe s x f) g = if g = x then f (scribeOf s x) else scribeOf s g := sget_sset_ite hu x _ g

/-- Two changes of one scribe, read back. -/
theorem scribeOf_modScribe_twice (hu : swf (fun _ => freshScribe) s.scr.unit = true) (x : Nat) (f f' : Scribe → Scribe) :
    scribeOf (modScribe (modScribe s x f) x f') x = f' (f (scribeOf s x)) := by
  rw [scribeOf_modScribe_ite (unit_swf_modScribe hu x f), if_pos rfl, scribeOf_modScribe_ite hu, if_pos rfl]

/-- Two changes of one scribe leave every other one alone. -/
theorem scribeOf_modScribe_twice_ne (hu : swf (fun _ => freshScribe) s.scr.unit = true) {x g : Nat} (hg : g ≠ x) (f f' : Scribe → Scribe) :
    scribeOf (modScribe (modScribe s x f) x f') g = scribeOf s g := by
  rw [scribeOf_modScribe_ite (unit_swf_modScribe hu x f), if_neg hg, scribeOf_modScribe_ite hu, if_neg hg]

/-- A table inside the entries of a table stands in its canonical form where that of an unlisted key does. -/
theorem sget_swf {α β : Type} [DecidableEq α] [DecidableEq β] {d : Nat → α} {e : Nat → β} {m : Sparse α} {f : α → Sparse β} (hm : swf d m = true)
    (hall : ∀ x ∈ m, swf e (f x.2) = true) (k : Nat) (hd : swf e (f (d k)) = true) : swf e (f (sget d m k)) = true := by
  by_cases hk : sget d m k = d k
  · rwa [hk]
  · exact hall _ ((mem_iff_sget hm).mpr ⟨rfl, hk⟩)

theorem x_swf (hs : s.scribesOk) (h : Nat) : swf (fun _ => 0) (scribeOf s h).x = true := by
  obtain ⟨hunit, -, -, -, -, hx⟩ := hs
  exact sget_swf (f := Scribe.x) hunit hx h rfl

/-! ### The step of an instruction (R111, R113, R114) -/

/-- The module with a shelf's program one instruction on. -/
def advance (s : State) (h : Nat) (p : Prog) : State :=
  modScribe s h fun u => { u with run := some { p with pc := p.pc + 1, count := p.count + 1 } }

theorem scribeOf_advance (hs : s.scribesOk) (h : Nat) (p : Prog) : scribeOf (advance s h p) h = movedOn s h p := scribeOf_modScribe hs h _

theorem scribeOf_advance_ne (hs : s.scribesOk) (h : Nat) (p : Prog) {g : Nat} (hg : g ≠ h) : scribeOf (advance s h p) g = scribeOf s g :=
  scribeOf_modScribe_ne hs _ hg

/-- The effect of each instruction of Table 5-7. -/
def scribeBody : SOp → Insn → State → Did
  | .nop => fun _ s => .done s
  | .halt => fun i s => if i.u.xfers.all fun t => t.job != i.prog.job then .done (haltJob s i.shelf i.prog.job) else .stall
  | .ldx => fun i s => .done (setX s i.shelf i.w.dst i.w.imm)
  | .addx => fun i s => .done (setX s i.shelf i.w.dst (i.xImm i.w.sa))
  | .loop => loopBody
  | .mma => mmaBody
  | .vadd => binaryBody fadd
  | .vsub => binaryBody fsub
  | .vmul => vmulBody
  | .vexp => unaryBody vexp
  | .vrcp => unaryBody vrcp
  | .vrsq => unaryBody vrsq
  | .vmax => binaryBody fun a b => (selectIdx true [⟨a, 0⟩, ⟨b, 1⟩]).val
  | .vmaxi => selectBody true
  | .vmini => selectBody false
  | .vsum => vsumBody
  | .ldt => ldtBody
  | .stt => sttBody
  | .gather => gatherBody
  | .scatter => scatterBody
  | .check => checkBody
  | .normw => normwBody
  | .sampleSelect => selectLocal
  | .sampleDraw => drawBody

/-- An instruction's row carries out the instruction with its effect. -/
theorem exec_scribeRow (h : Nat) (o : SOp) (s : State) : exec (scribeRow h o) s = runInsn o (scribeBody o) h s := by
  cases o <;> rfl

section
variable {body : Insn → State → Did}

theorem runInsn_idle (hp : (scribeOf s h).run = none) : runInsn o body h s = .next s := by
  simp only [runInsn, hp]

theorem runInsn_proof (hp : (scribeOf s h).run = some p) (hk : p.job.kind = 0xF) : runInsn o body h s = .next s := by
  simp only [runInsn, hp, hk, if_true]

theorem runInsn_outside (hp : (scribeOf s h).run = some p) (hk : p.job.kind ≠ 0xF) (ha : ¬ (p.job.first ≤ p.pc ∧ p.pc < p.job.last)) :
    runInsn o body h s = .next (progFault s h p 3) := by
  simp only [runInsn, hp, hk, ha, decide_false, Bool.not_false, if_false, if_true]

theorem runInsn_owed (hp : (scribeOf s h).run = some p) (ha : p.job.first ≤ p.pc ∧ p.pc < p.job.last) (howed : fetchOwed s h p = true) :
    runInsn o body h s = .next s := by
  simp only [runInsn, hp, ha, and_self, decide_true, Bool.not_true, Bool.false_eq_true, if_false, howed, if_true, ite_self]

theorem runInsn_reserved (hp : (scribeOf s h).run = some p) (hk : p.job.kind ≠ 0xF) (ha : p.job.first ≤ p.pc ∧ p.pc < p.job.last)
    (howed : fetchOwed s h p = false) (hop : opOf (insnOf s h p).w = none) : runInsn o body h s = .next (progFault s h p 1) := by
  simp only [insnOf] at hop
  simp only [runInsn, hp, hk, ha, and_self, decide_true, Bool.not_true, Bool.false_eq_true, if_false, howed, hop]

/-- An instruction that is not the one at the counter changes nothing. -/
theorem runInsn_other {o' : SOp} (hp : (scribeOf s h).run = some p) (ha : p.job.first ≤ p.pc ∧ p.pc < p.job.last)
    (hop : opOf (insnOf s h p).w = some o') (hne : o' ≠ o) : runInsn o body h s = .next s := by
  simp only [insnOf] at hop
  simp only [runInsn, hp, ha, and_self, decide_true, Bool.not_true, Bool.false_eq_true, if_false, hop, hne, ne_eq, not_false_eq_true, if_true, ite_self]

theorem runInsn_refused {code : Nat} (hp : (scribeOf s h).run = some p) (hk : p.job.kind ≠ 0xF) (ha : p.job.first ≤ p.pc ∧ p.pc < p.job.last)
    (howed : fetchOwed s h p = false) (hop : opOf (insnOf s h p).w = some o) (hcheck : (insnOf s h p).check s o = some code) :
    runInsn o body h s = .next (progFault s h p code) := by
  simp only [insnOf] at hop hcheck
  simp only [runInsn, hp, hk, ha, and_self, decide_true, Bool.not_true, Bool.false_eq_true, if_false, howed, hop, ne_eq, not_true_eq_false, hcheck]

/-- The module after an instruction that came to `d`: where it faulted the program stops, where it stalled nothing happened. -/
def Did.after (s : State) (h : Nat) (p : Prog) : Did → State
  | .fault code => progFault s h p code
  | .stall => s
  | .done t => t

/-- An instruction that nothing faults or stalls beforehand comes to what its effect does on the module with the program moved on. -/
theorem runInsn_runs (hr : insnRuns s h p o) : runInsn o body h s = .next ((body (insnOf s h p) (advance s h p)).after s h p) := by
  obtain ⟨hp, hk, howed, hfirst, hlast, hop, hcheck, hareas⟩ := hr
  simp only [insnOf] at hop hcheck hareas
  cases hb : body (insnOf s h p) (advance s h p) <;> simp only [insnOf, advance] at hb <;>
    simp only [runInsn, hp, hk, hfirst, hlast, and_self, decide_true, Bool.not_true, Bool.false_eq_true, if_false, howed, hop, ne_eq, not_true_eq_false,
      hcheck, hareas, hb, Did.after]

end

theorem exec_runs (hr : insnRuns s h p o) {d : Did} (hb : scribeBody o (insnOf s h p) (advance s h p) = d) :
    exec (scribeRow h o) s = .next (d.after s h p) := by
  rw [exec_scribeRow, runInsn_runs hr, hb]

theorem exec_done (hr : insnRuns s h p o) {t : State} (hb : scribeBody o (insnOf s h p) (advance s h p) = .done t) : exec (scribeRow h o) s = .next t :=
  exec_runs hr hb

theorem exec_stall (hr : insnRuns s h p o) (hb : scribeBody o (insnOf s h p) (advance s h p) = .stall) : exec (scribeRow h o) s = .next s :=
  exec_runs hr hb

/-! ### Index instructions (R107, R111) -/

/-- Nothing but the scribe of a shelf changed. -/
def OnlyScribe (s t : State) (h : Nat) : Prop := t = { s with scr := { s.scr with unit := t.scr.unit } } ∧ ∀ g, g ≠ h → scribeOf t g = scribeOf s g

theorem onlyScribe_modScribe (hs : s.scribesOk) (h : Nat) (f : Scribe → Scribe) : OnlyScribe s (modScribe s h f) h :=
  ⟨rfl, fun _ hg => scribeOf_modScribe_ne hs f hg⟩

theorem onlyScribe_modScribe_advance (hs : s.scribesOk) (h : Nat) (p : Prog) (f : Scribe → Scribe) : OnlyScribe s (modScribe (advance s h p) h f) h :=
  ⟨rfl, fun _ hg => scribeOf_modScribe_twice_ne hs.1 hg ..⟩

theorem scribeOf_modScribe_advance (hs : s.scribesOk) (h : Nat) (p : Prog) (f : Scribe → Scribe) :
    scribeOf (modScribe (advance s h p) h f) h = f (movedOn s h p) := scribeOf_modScribe_twice hs.1 h _ f

theorem exec_nop (hs : s.scribesOk) (hr : insnRuns s h p .nop) : ∃ t, exec (.nop h) s = .next t ∧ OnlyScribe s t h ∧ scribeOf t h = movedOn s h p :=
  ⟨_, exec_done hr rfl, onlyScribe_modScribe hs h _, scribeOf_advance hs h p⟩

/-- An index register that takes a value as its program moves on. -/
theorem setX_advance (hs : s.scribesOk) (h : Nat) (p : Prog) (n v : Nat) :
    OnlyScribe s (setX (advance s h p) h n v) h ∧ scribeOf (setX (advance s h p) h n v) h = { movedOn s h p with x := sset (fun _ => 0) (scribeOf s h).x n v } :=
  ⟨onlyScribe_modScribe_advance hs h p _, scribeOf_modScribe_advance hs h p _⟩

/-- An instruction whose whole effect is a value for an index register. -/
theorem exec_setX (hs : s.scribesOk) (hr : insnRuns s h p o) {n v : Nat}
    (hb : scribeBody o (insnOf s h p) (advance s h p) = .done (setX (advance s h p) h n v)) :
    ∃ t, exec (scribeRow h o) s = .next t ∧ OnlyScribe s t h ∧ scribeOf t h = { movedOn s h p with x := (scribeOf t h).x } ∧
      ∀ m, sget (fun _ => 0) (scribeOf t h).x m = if m = n then v else (insnOf s h p).x m := by
  obtain ⟨honly, hscribe⟩ := setX_advance hs h p n v
  exact ⟨_, exec_done hr hb, honly, by rw [hscribe], fun m => by rw [hscribe]; exact sget_sset_ite (x_swf hs h) n v m⟩

/-- What LOOP leaves in its index register, and where it branches. -/
def loopCount (i : Insn) : Nat := (i.x i.w.dst + 2 ^ 32 - 1) % 2 ^ 32
def loopTarget (i : Insn) : Int := (i.prog.pc : Int) + signed 32 i.w.imm

theorem loopBody_zero {i : Insn} (hv : loopCount i = 0) (t : State) : loopBody i t = .done (setX t i.shelf i.w.dst (loopCount i)) := by
  simp only [loopCount] at hv
  simp only [loopBody, loopCount, hv, if_true]

theorem loopBody_branch {i : Insn} (hv : loopCount i ≠ 0) (hin : (i.prog.job.first : Int) ≤ loopTarget i ∧ loopTarget i < i.prog.job.last) (t : State) :
    loopBody i t = .done (modScribe (setX t i.shelf i.w.dst (loopCount i)) i.shelf fun u =>
      { u with run := u.run.map fun p => { p with pc := (loopTarget i).toNat } }) := by
  simp only [loopCount] at hv
  simp only [loopTarget] at hin
  simp only [loopBody, loopCount, loopTarget, hv, if_false, not_lt.mpr hin.1, not_le.mpr hin.2, decide_false, Bool.or_self, Bool.false_eq_true]

/-- A branch: the index register, then the counter of the program. -/
theorem scribeOf_branch (hs : s.scribesOk) (h : Nat) (p : Prog) (n v pc : Nat) :
    let t := modScribe (setX (advance s h p) h n v) h fun u => { u with run := u.run.map fun p => { p with pc := pc } }
    OnlyScribe s t h ∧ scribeOf t h = { movedOn s h p with
      x := sset (fun _ => 0) (scribeOf s h).x n v, run := some { p with pc := pc, count := p.count + 1 } } := by
  have hu : swf (fun _ => freshScribe) (setX (advance s h p) h n v).scr.unit = true := unit_swf_modScribe (unit_swf_modScribe hs.1 h _) h _
  obtain ⟨⟨-, hother⟩, hscribe⟩ := setX_advance hs h p n v
  refine ⟨⟨rfl, fun g hg => ?_⟩, ?_⟩
  · rw [scribeOf_modScribe_ite hu, if_neg hg]
    exact hother g hg
  · rw [scribeOf_modScribe_ite hu, if_pos rfl, show scribeOf _ h = _ from hscribe]
    rfl

/-- LOOP at zero goes on, and else branches inside its program's area. -/
theorem exec_loop (hs : s.scribesOk) (hr : insnRuns s h p .loop) (hin : loopCount (insnOf s h p) = 0 ∨
      ((p.job.first : Int) ≤ loopTarget (insnOf s h p) ∧ loopTarget (insnOf s h p) < p.job.last)) :
    ∃ t q, exec (.loopX h) s = .next t ∧ OnlyScribe s t h ∧ (scribeOf t h).run = some q ∧ q.job = p.job ∧ q.count = p.count + 1 ∧
      (q.pc : Int) = (if loopCount (insnOf s h p) = 0 then (p.pc : Int) + 1 else loopTarget (insnOf s h p)) ∧
      ∀ m, sget (fun _ => 0) (scribeOf t h).x m = if m = (insnOf s h p).w.dst then loopCount (insnOf s h p) else (insnOf s h p).x m := by
  by_cases hv : loopCount (insnOf s h p) = 0
  · obtain ⟨t, ht, honly, hscribe, hx⟩ := exec_setX (o := .loop) hs hr (loopBody_zero hv (advance s h p))
    exact ⟨t, { p with pc := p.pc + 1, count := p.count + 1 }, ht, honly, by rw [hscribe]; rfl, rfl, rfl, by rw [if_pos hv]; rfl, hx⟩
  · have htarget := hin.resolve_left hv
    obtain ⟨honly, hscribe⟩ := scribeOf_branch hs h p (insnOf s h p).w.dst (loopCount (insnOf s h p)) (loopTarget (insnOf s h p)).toNat
    refine ⟨_, _, exec_done (o := .loop) hr (loopBody_branch hv htarget (advance s h p)), honly, congrArg Scribe.run hscribe, rfl, rfl, ?_, fun m => ?_⟩
    · rw [if_neg hv]
      exact Int.toNat_of_nonneg (by omega)
    · exact (congrArg (fun u => sget (fun _ => 0) u.x m) hscribe).trans (sget_sset_ite (x_swf hs h) _ _ m)

/-! ### Ends of programs (R111, R114) -/

theorem runOf_other {j : Job} (hk : j.kind ≠ 0xE) : runOf s j = none := if_neg hk

theorem sampleEnds_frame (s : State) (h : Nat) (j : Job) : sampleEnds s h j = { s with run := (sampleEnds s h j).run } := by
  unfold sampleEnds
  split
  · rfl
  · split <;> rfl

/-- The end of a program that is no adapter program and no attention job changes passes at most. -/
theorem afterJob_frame {j : Job} (h2 : j.kind ≠ 2) (h3 : j.kind ≠ 3) (s : State) (h : Nat) : afterJob s h j = { s with run := (afterJob s h j).run } := by
  simp only [afterJob, h2, h3, if_false]
  split
  · exact sampleEnds_frame ..
  · rfl

theorem haltJob_image {j : Job} (hk : j.kind ≤ 1 ∨ j.kind = 5) (s : State) (h : Nat) :
    haltJob s h j = modScribe s h fun u => { u with run := none } := by
  obtain ⟨h2, h3, h4, hE⟩ : j.kind ≠ 2 ∧ j.kind ≠ 3 ∧ j.kind ≠ 4 ∧ j.kind ≠ 0xE := by omega
  simp only [haltJob, runOf_other hE, afterJob, h2, h3, h4, if_false]

theorem exec_halt_ends (hs : s.scribesOk) (hr : insnRuns s h p .halt) (hk : p.job.kind ≤ 1 ∨ p.job.kind = 5)
    (hx : ∀ x ∈ (scribeOf s h).xfers, x.job ≠ p.job) :
    ∃ t, exec (.halt h) s = .next t ∧ OnlyScribe s t h ∧ scribeOf t h = { scribeOf s h with run := none } := by
  have hall : ((insnOf s h p).u.xfers.all fun t => t.job != p.job) = true := by simpa [insnOf] using hx
  refine ⟨_, exec_done hr ((if_pos hall).trans (congrArg Did.done (haltJob_image hk _ _))), onlyScribe_modScribe_advance hs h p _, ?_⟩
  exact scribeOf_modScribe_advance hs h p _

theorem exec_halt_waits (hr : insnRuns s h p .halt) (hx : ∃ x ∈ (scribeOf s h).xfers, x.job = p.job) : exec (.halt h) s = .next s := by
  have hall : ((insnOf s h p).u.xfers.all fun t => t.job != p.job) ≠ true := by simpa [insnOf] using hx
  exact exec_stall hr (if_neg hall)

/-- The fields of SCR.FAULT that a program fault writes (R129). -/
def faultWrites (h : Nat) (p : Prog) (code : Nat) : List (FieldRef × Nat) :=
  [(Reg.SCR_FAULT.PC h, p.pc), (Reg.SCR_FAULT.PENDING h, 1), (Reg.SCR_FAULT.KIND h, p.job.kind), (Reg.SCR_FAULT.CODE h, code)]

theorem faultWrites_apart (h : Nat) (p : Prog) (code : Nat) : FieldsApart ((faultWrites h p code).map Prod.fst) := by
  simp [faultWrites, FieldsApart, FieldRef.Apart, Reg.SCR_FAULT.PC, Reg.SCR_FAULT.PENDING, Reg.SCR_FAULT.KIND, Reg.SCR_FAULT.CODE]

/-- A scribe whose program stops, its transfers dropped (log entry 24). -/
def Scribe.stopped (u : Scribe) (j : Job) : Scribe := { u with run := none, xfers := u.xfers.filter fun t => t.job != j }

/-- A fault of an image program as SCR.FAULT and the annals have it. -/
def faultNoted (s : State) (h : Nat) (p : Prog) (code : Nat) : State :=
  annal (setFields s (faultWrites h p code)) 0x0402 3 { region := some p.job.region, carrel := some p.job.carrel, shelf := some (h % 128), die := some (hallOf h) }
    (leNat (programBytes s h p)) p.pc code

theorem progFault_image (hE : p.job.kind ≠ 0xE) (s : State) (h code : Nat) : progFault s h p code =
    afterJob (modPass (shelfFsr (proveFirst (modScribe (faultNoted s h p code) h fun u => u.stopped p.job) (hallOf h) [2 * (h % 128)]) h) p.job.region
      fun q => { q with faults := q.faults ++ [(h, p.job)] }) h p.job := by
  simp only [progFault, runOf_other hE, hE, if_false]
  rfl

/-- A fault of an image program changes of the scribes its own alone. -/
theorem progFault_scr (hE : p.job.kind ≠ 0xE) (h2 : p.job.kind ≠ 2) (h3 : p.job.kind ≠ 3) (s : State) (h code : Nat) :
    (progFault s h p code).scr = (modScribe s h fun u => u.stopped p.job).scr := by
  rw [progFault_image hE, afterJob_frame h2 h3, faultNoted, annal_frame, setFields_frame]
  rfl

theorem progFault_regs (hE : p.job.kind ≠ 0xE) (h2 : p.job.kind ≠ 2) (h3 : p.job.kind ≠ 3) (s : State) (h code : Nat) :
    (progFault s h p code).regs = (faultNoted s h p code).regs := by
  rw [progFault_image hE, afterJob_frame h2 h3]
  generalize faultNoted s h p code = u
  rfl

theorem fget_of_regs {t : State} (ht : t.regs = s.regs) (f : FieldRef) : fget t f = fget s f := by simp only [fget, rget, ht]

theorem scrFaultBase_annals (h : Nat) : scrFaultBase h ∉ annalsRegs := by
  simp only [scrFaultBase, annalsRegs, Reg.ANN_LAST_SEQ.SEQ, Reg.ANN_DROPPED.COUNT, Reg.ANN_CTRL.ALERT, List.mem_cons, List.not_mem_nil, or_false]
  omega

/-- SCR.FAULT shows what the fault wrote. -/
theorem fget_progFault (hr : s.regsOk) (hE : p.job.kind ≠ 0xE) (h2 : p.job.kind ≠ 2) (h3 : p.job.kind ≠ 3) {code : Nat} {f : FieldRef} {x : Nat}
    (hf : (f, x) ∈ faultWrites h p code) (haddr : f.addr = scrFaultBase h) : fget (progFault s h p code) f = x % 2 ^ f.w := by
  calc fget (progFault s h p code) f
      = fget (faultNoted s h p code) f := fget_of_regs (progFault_regs hE h2 h3 s h code) f
    _ = fget (setFields s (faultWrites h p code)) f := annal_fget (setFields_regsOk hr _) _ _ _ _ _ _ (haddr ▸ scrFaultBase_annals h)
    _ = x % 2 ^ f.w := fget_setFields hr (faultWrites_apart h p code) hf

/-- What a stopped program leaves, and what SCR.FAULT shows of it. -/
theorem progFault_stops (hs : s.scribesOk) (hr : s.regsOk) (hE : p.job.kind ≠ 0xE) (h2 : p.job.kind ≠ 2) (h3 : p.job.kind ≠ 3) {code : Nat} (hcode : code < 2 ^ 4) :
    (progFault s h p code).scr.tiles = s.scr.tiles ∧ (progFault s h p code).scr.store = s.scr.store ∧
      scribeOf (progFault s h p code) h = (scribeOf s h).stopped p.job ∧ fget (progFault s h p code) (Reg.SCR_FAULT.CODE h) = code % 2 ^ 8 ∧
      fget (progFault s h p code) (Reg.SCR_FAULT.PC h) = p.pc % 2 ^ (Reg.SCR_FAULT.PC h).w ∧
      fget (progFault s h p code) (Reg.SCR_FAULT.PENDING h) = 1 := by
  have hscr := progFault_scr hE h2 h3 s h code
  have hshown {f : FieldRef} {x : Nat} (hf : (f, x) ∈ faultWrites h p code) (haddr : f.addr = scrFaultBase h) :
      fget (progFault s h p code) f = x % 2 ^ f.w := fget_progFault hr hE h2 h3 hf haddr
  refine ⟨by rw [hscr]; rfl, by rw [hscr]; rfl, ?_, ?_, hshown (by simp [faultWrites]) rfl,
    hshown (x := 1) (by simp [faultWrites]) rfl⟩
  · calc scribeOf (progFault s h p code) h
        = scribeOf (modScribe s h fun u => u.stopped p.job) h := by simp only [scribeOf, hscr]
      _ = (scribeOf s h).stopped p.job := scribeOf_modScribe hs h _
  · calc fget (progFault s h p code) (Reg.SCR_FAULT.CODE h)
        = code % 2 ^ 4 := hshown (by simp [faultWrites]) rfl
      _ = code % 2 ^ 8 := by omega

theorem check_code_lt {i : Insn} {code : Nat} (hc : i.check s o = some code) : code < 2 ^ 4 := by
  simp only [Insn.check] at hc
  repeat' split at hc
  all_goals cases hc <;> decide

/-- A program that stands outside its area, at a reserved opcode or at an instruction whose check fails ends in a fault of that code (R113, R114). -/
theorem exec_faults {code : Nat} (hp : (scribeOf s h).run = some p) (hF : p.job.kind ≠ 0xF)
    (hcase : ¬ (p.job.first ≤ p.pc ∧ p.pc < p.job.last) ∧ code = 3 ∨
      p.job.first ≤ p.pc ∧ p.pc < p.job.last ∧ fetchOwed s h p = false ∧ opOf (insnOf s h p).w = none ∧ code = 1 ∨
      p.job.first ≤ p.pc ∧ p.pc < p.job.last ∧ fetchOwed s h p = false ∧ opOf (insnOf s h p).w = some o ∧ (insnOf s h p).check s o = some code) :
    code < 2 ^ 4 ∧ exec (scribeRow h o) s = .next (progFault s h p code) := by
  rw [exec_scribeRow]
  rcases hcase with ⟨hout, rfl⟩ | ⟨hfirst, hlast, howed, hop, rfl⟩ | ⟨hfirst, hlast, howed, hop, hcheck⟩
  · exact ⟨by decide, runInsn_outside hp hF hout⟩
  · exact ⟨by decide, runInsn_reserved hp hF ⟨hfirst, hlast⟩ howed hop⟩
  · exact ⟨check_code_lt hcheck, runInsn_refused hp hF ⟨hfirst, hlast⟩ howed hop hcheck⟩

/-- Settles O25: an index instruction's effect on its scribe (`exec_nop`, `exec_setX`, `exec_loop`, `exec_halt_ends`), and what a fault of an image
program leaves (`exec_faults`, `progFault_stops`). -/
theorem indexInstructionsAndProgramFaults : Obligations.IndexInstructionsAndProgramFaults := by
  unfold Obligations.IndexInstructionsAndProgramFaults
  refine And.intro (fun h p s hs => ⟨exec_nop hs, fun hr => exec_setX (o := .ldx) hs hr rfl, fun hr => exec_setX (o := .addx) hs hr rfl,
    fun hr => by intro v target hin; exact exec_loop hs hr hin, fun hr hk => ⟨exec_halt_ends hs hr hk, exec_halt_waits hr⟩⟩) fun h o s hs hr => ⟨?_, ?_, ?_, ?_⟩
  · intro p code hp hE hF h2 h3 hcase
    obtain ⟨hcode, hexec⟩ := exec_faults hp hF hcase
    exact ⟨_, hexec, progFault_stops hs hr hE h2 h3 hcode⟩
  · intro hp
    exact (exec_scribeRow h o s).trans (runInsn_idle hp)
  · rintro p hp (hF | ⟨hfirst, hlast, howed⟩)
    · exact (exec_scribeRow h o s).trans (runInsn_proof hp hF)
    · exact (exec_scribeRow h o s).trans (runInsn_owed hp ⟨hfirst, hlast⟩ howed)
  · intro p o' hp hfirst hlast hop hne
    exact (exec_scribeRow h o s).trans (runInsn_other hp ⟨hfirst, hlast⟩ hop hne)

end Sys2Proof.Machine
end
end

section
/-!
PROOFS. Tiles (R93 to R97, R105, R106): what a tile reads back as after an operation has written columns of its rows; with it the elementwise and the row
operations of scribe programs.
-/
section
open Sys2Proof Sys2Proof.Machine
namespace Sys2Proof.Machine

/-! ### Entries written one after the other -/

section
variable {α β : Type} [DecidableEq α] {d : Nat → α} {key : β → Nat} {val : β → α}

theorem foldl_sset_swf (l : List β) {m : Sparse α} (hm : swf d m = true) : swf d (l.foldl (fun m x => sset d m (key x) (val x)) m) = true := by
  induction l generalizing m with
  | nil => exact hm
  | cons x l ih => exact ih (sset_swf _ _ hm)

/-- A key that none of them has reads as before. -/
theorem sget_foldl_sset_other {l : List β} {m : Sparse α} (hm : swf d m = true) {i : Nat} (hi : ∀ x ∈ l, key x ≠ i) :
    sget d (l.foldl (fun m x => sset d m (key x) (val x)) m) i = sget d m i := by
  induction l generalizing m with
  | nil => rfl
  | cons x l ih =>
    obtain ⟨hx, hl⟩ := List.forall_mem_cons.mp hi
    exact (ih (sset_swf _ _ hm) hl).trans (sget_sset_ne hm (Ne.symm hx))

/-- A key that some of them have reads the value that all of those give it. -/
theorem sget_foldl_sset {l : List β} {m : Sparse α} (hm : swf d m = true) {i : Nat} {v : α} (hi : ∃ x ∈ l, key x = i) (hv : ∀ x ∈ l, key x = i → val x = v) :
    sget d (l.foldl (fun m x => sset d m (key x) (val x)) m) i = v := by
  induction l generalizing m with
  | nil => simp at hi
  | cons y l ih =>
    obtain ⟨hy, hl⟩ := List.forall_mem_cons.mp hv
    by_cases hlater : ∃ x ∈ l, key x = i
    · exact ih (sset_swf _ _ hm) hlater hl
    · obtain ⟨x, hx, hxi⟩ := hi
      have hxy : x = y := (List.mem_cons.mp hx).resolve_right fun hmem => hlater ⟨x, hmem, hxi⟩
      have hyi : key y = i := hxy ▸ hxi
      rw [List.foldl_cons, sget_foldl_sset_other (sset_swf _ _ hm) fun x hx he => hlater ⟨x, hx, he⟩, hyi, sget_sset_same hm, hy hyi]

end

/-! ### What a write leaves of a tile (R93) -/

section
variable {t : Tile} {owner cols r k : Nat} {f : Nat → Nat → W32} {bad : Nat → Bool}

theorem write_data : (t.write owner cols f bad).data = ((List.range 16).flatMap fun r => (List.range cols).map (Prod.mk r)).foldl
    (fun m x => sset (fun _ => 0) m (64 * x.1 + x.2) (f x.1 x.2)) t.data := by
  simp only [Tile.write, List.foldl_flatMap, List.foldl_map]

/-- The written columns hold the new values, the others what they held. -/
theorem elem_write (ht : swf (fun _ => (0 : W32)) t.data = true) (hcols : cols ≤ 64) (hr : r < 16) (hk : k < 64) :
    (t.write owner cols f bad).elem r k = if k < cols then f r k else t.elem r k := by
  have hmem (x : Nat × Nat) : x ∈ ((List.range 16).flatMap fun r => (List.range cols).map (Prod.mk r)) ↔ x.1 < 16 ∧ x.2 < cols := by
    simp only [List.mem_flatMap, List.mem_map, List.mem_range, Prod.ext_iff]
    exact ⟨fun ⟨_, h1, _, h2, h⟩ => h.1 ▸ h.2 ▸ ⟨h1, h2⟩, fun h => ⟨_, h.1, _, h.2, rfl, rfl⟩⟩
  rw [Tile.elem, write_data]
  split
  · next hlt =>
    refine sget_foldl_sset ht ⟨(r, k), (hmem _).mpr ⟨hr, hlt⟩, rfl⟩ fun x hx he => ?_
    have := ((hmem x).mp hx).2
    rw [show x.1 = r by omega, show x.2 = k by omega]
  · next hge =>
    refine sget_foldl_sset_other ht fun x hx he => hge ?_
    have := ((hmem x).mp hx).2
    omega

/-- A sum of distinct powers of 2 has the bits of its exponents. -/
theorem maskSum_bits (g : Nat → Bool) (n : Nat) : ((List.range n).map fun r => if g r then 2 ^ r else 0).sum < 2 ^ n ∧
    ∀ r, (((List.range n).map fun r => if g r then 2 ^ r else 0).sum).testBit r = (decide (r < n) && g r) := by
  induction n with
  | zero => simp
  | succ n ih =>
    obtain ⟨hlt, hbits⟩ := ih
    rw [List.range_succ, List.map_append, List.sum_append, List.map_singleton, List.sum_singleton]
    generalize ((List.range n).map fun r => if g r then 2 ^ r else 0).sum = m at hlt hbits
    have hsum : m + (if g n then 2 ^ n else 0) = 2 ^ n * (g n).toNat + m := by cases g n <;> simp [Nat.add_comm]
    refine ⟨?_, fun r => ?_⟩
    · rw [hsum, Nat.pow_succ]
      have := Nat.mul_le_mul_left (2 ^ n) (Bool.toNat_le (g n))
      omega
    · rw [hsum, Nat.testBit_two_pow_mul_add _ hlt, hbits]
      rcases Nat.lt_trichotomy r n with hr | rfl | hr
      · simp [hr, Nat.lt_succ_of_lt hr]
      · cases g r <;> simp
      · simp [Nat.testBit_bool_toNat, show ¬ r < n by omega, show ¬ r < n + 1 by omega, show r - n ≠ 0 by omega]

theorem testBit_rowMask (g : Nat → Bool) (hr : r < 16) : (rowMask g).testBit r = g r := by
  rw [rowMask, (maskSum_bits g 16).2, decide_eq_true hr, Bool.true_and]

theorem bad_write (hr : r < 16) : (t.write owner cols f bad).bad r = (bad r || (decide (cols < 64) && t.bad r)) := by
  rw [Tile.bad, Tile.write, testBit_rowMask _ hr]

end

variable {s : State} {h : Nat} {p : Prog} {o : SOp}

theorem tile_swf (hs : s.scribesOk) (h n : Nat) : swf (fun _ => 0) (tileAt s h n).data = true := by
  obtain ⟨-, htiles, -, -, hdata, -⟩ := hs
  exact sget_swf (f := Tile.data) htiles hdata (tileKey h n) rfl

theorem tileAt_modTile (ht : swf (fun _ => freshTile) s.scr.tiles = true) (h n : Nat) (f : Tile → Tile) :
    tileAt (modTile s h n f) h n = f (tileAt s h n) := sget_smod_same f ht

theorem tiles_modTile_ne (ht : swf (fun _ => freshTile) s.scr.tiles = true) {h n k : Nat} (hk : k ≠ tileKey h n) (f : Tile → Tile) :
    sget (fun _ => freshTile) (modTile s h n f).scr.tiles k = sget (fun _ => freshTile) s.scr.tiles k := sget_smod_ne f ht hk

/-! ### Operations whose whole effect is a write of a tile -/

/-- The tile that an instruction names as its destination, after the instruction wrote its first columns. -/
theorem exec_putTile (hs : s.scribesOk) (hr : insnRuns s h p o) {cols : Nat} {f : Nat → Nat → W32} {bad : Nat → Bool}
    (hb : scribeBody o (insnOf s h p) (advance s h p) = .done (putTile (advance s h p) (insnOf s h p) cols f bad)) :
    ∃ t, exec (scribeRow h o) s = .next t ∧ onlyTile s t h p (insnOf s h p).w.dst ∧ t.regs = s.regs ∧
      tileAt t h (insnOf s h p).w.dst = (tileAt s h (insnOf s h p).w.dst).write p.job.carrel cols f bad :=
  have ht : swf (fun _ => freshTile) (advance s h p).scr.tiles = true := hs.2.1
  ⟨_, exec_done hr hb, ⟨rfl, scribeOf_advance hs h p, fun _ hg => scribeOf_advance_ne hs h p hg, fun _ hk => tiles_modTile_ne ht hk _⟩, rfl,
    tileAt_modTile ht ..⟩

/-- An operation that gives every element of its tile a value. -/
theorem exec_elementwise (hs : s.scribesOk) (hr : insnRuns s h p o) {f : Nat → Nat → W32} {bad : Nat → Bool}
    (hb : scribeBody o (insnOf s h p) (advance s h p) = .done (putTile (advance s h p) (insnOf s h p) 64 f bad)) :
    ∃ t, exec (scribeRow h o) s = .next t ∧ onlyTile s t h p (insnOf s h p).w.dst ∧ t.regs = s.regs ∧
      (tileAt t h (insnOf s h p).w.dst).owner = some p.job.carrel ∧
      (∀ r < 16, ∀ k < 64, (tileAt t h (insnOf s h p).w.dst).elem r k = f r k) ∧ ∀ r < 16, (tileAt t h (insnOf s h p).w.dst).bad r = bad r := by
  obtain ⟨t, ht, honly, hregs, htile⟩ := exec_putTile hs hr hb
  refine ⟨t, ht, honly, hregs, by rw [htile]; rfl, fun r hr k hk => ?_, fun r hr => ?_⟩
  · rw [htile, elem_write (tile_swf hs ..) le_rfl hr hk, if_pos hk]
  · rw [htile, bad_write hr, decide_eq_false (lt_irrefl 64), Bool.false_and, Bool.or_false]

/-- An operation that gives the first columns of each row a value: a row that keeps columns keeps its poison too. -/
theorem exec_rowwise (hs : s.scribesOk) (hr : insnRuns s h p o) {cols : Nat} (hcols : cols < 64) {f : Nat → Nat → W32} {bad : Nat → Bool}
    (hb : scribeBody o (insnOf s h p) (advance s h p) = .done (putTile (advance s h p) (insnOf s h p) cols f bad)) :
    ∃ t, exec (scribeRow h o) s = .next t ∧ onlyTile s t h p (insnOf s h p).w.dst ∧ t.regs = s.regs ∧
      (∀ r < 16, ∀ k < 64, (tileAt t h (insnOf s h p).w.dst).elem r k = if k < cols then f r k else (tileAt s h (insnOf s h p).w.dst).elem r k) ∧
      ∀ r < 16, (tileAt t h (insnOf s h p).w.dst).bad r = (bad r || (tileAt s h (insnOf s h p).w.dst).bad r) := by
  obtain ⟨t, ht, honly, hregs, htile⟩ := exec_putTile hs hr hb
  refine ⟨t, ht, honly, hregs, fun r hr k hk => ?_, fun r hr => ?_⟩
  · rw [htile, elem_write (tile_swf hs ..) hcols.le hr hk]
  · rw [htile, bad_write hr, decide_eq_true hcols, Bool.true_and]

/-- A unary operation reads no second operand, so no second row poisons its result. -/
theorem unaryBody_reads_one (op : W32 → W32) (i : Insn) (s : State) : unaryBody op i s = .done (putTile s i 64
    (fun r c => if i.w.acc then fadd ((tileAt s i.shelf i.w.dst).elem r c) (op ((tileAt s i.shelf i.w.sa).elem r c)) else op ((tileAt s i.shelf i.w.sa).elem r c))
    fun r => (tileAt s i.shelf i.w.sa).bad r || (false && secondBad s i r) || (i.w.acc && (tileAt s i.shelf i.w.dst).bad r)) := by
  simp only [unaryBody, Bool.false_and, Bool.or_false]

/-- Settles O26: each operation gives its tile's elements their values by its own body (`exec_elementwise`, `exec_rowwise`). -/
theorem elementwiseAndRowOperations : Obligations.ElementwiseAndRowOperations := by
  unfold Obligations.ElementwiseAndRowOperations
  refine And.intro (fun h p s hs => ⟨?_, ?_, ?_, ?_, ?_, ?_, ?_⟩) fun h p s hs => ⟨?_, ?_, ?_⟩
  · exact fun hr => exec_elementwise (o := .vadd) hs hr rfl
  · exact fun hr => exec_elementwise (o := .vsub) hs hr rfl
  · exact fun hr => exec_elementwise (o := .vmax) hs hr rfl
  · exact fun hr => exec_elementwise (o := .vmul) hs hr rfl
  · exact fun hr => exec_elementwise (o := .vexp) hs hr (unaryBody_reads_one ..)
  · exact fun hr => exec_elementwise (o := .vrcp) hs hr (unaryBody_reads_one ..)
  · exact fun hr => exec_elementwise (o := .vrsq) hs hr (unaryBody_reads_one ..)
  · exact fun hr => exec_rowwise (o := .vsum) hs hr (by decide) rfl
  · exact fun hr => exec_rowwise (o := .vmaxi) hs hr (by decide) rfl
  · exact fun hr => exec_rowwise (o := .vmini) hs hr (by decide) rfl

end Sys2Proof.Machine
end
end

section
/-!
PROOFS. Jobs of scribes (R112, R127, R128, R279): what a write leaves of a shelf's store, which job starts and what it finds there, how a SCRIBE_RUN waits on
its shelves, and how its time limit ends it.
-/
section
open Sys2Proof Sys2Proof.Machine
namespace Sys2Proof.Machine
variable {s : State} {h : Nat} {j : Job}

/-! ### A write into a shelf store (R108) -/

section
variable {a : Nat} {bs : Bytes} {bad : Nat → Bool}

theorem store_swf_writeStore (hst : swf (fun _ => (0 : Byte)) s.scr.store = true) : swf (fun _ => (0 : Byte)) (writeStore s h a bs bad).scr.store = true :=
  foldl_sset_swf bs.zipIdx hst

theorem writeStore_unit (s : State) (h a : Nat) (bs : Bytes) (bad : Nat → Bool) : (writeStore s h a bs bad).scr.unit = s.scr.unit := (rfl)

theorem writeStore_modScribe (s : State) (x h a : Nat) (f : Scribe → Scribe) (bs : Bytes) (bad : Nat → Bool) :
    writeStore (modScribe s x f) h a bs bad = modScribe (writeStore s h a bs bad) x f := (rfl)

theorem modScribe_store (s : State) (x : Nat) (f : Scribe → Scribe) : (modScribe s x f).scr.store = s.scr.store := (rfl)

theorem modScribe_linePoison (s : State) (x : Nat) (f : Scribe → Scribe) : (modScribe s x f).scr.linePoison = s.scr.linePoison := (rfl)

/-- A written byte reads what was written: the table holds its difference from what the image places there. -/
theorem storeByte_writeStore (hst : swf (fun _ => (0 : Byte)) s.scr.store = true) {i : Nat} (hi : i < bs.length) :
    storeByte (writeStore s h a bs bad) h (a + i) = bs.getD i 0 := by
  have hdata : sget (fun _ => (0 : Byte)) (writeStore s h a bs bad).scr.store (h * 2 ^ 20 + (a + i)) = bs.getD i 0 ^^^ placedByte s h (a + i) := by
    refine sget_foldl_sset hst ⟨(bs[i], i), List.mk_mem_zipIdx_iff_getElem?.mpr (List.getElem?_eq_getElem hi), by simp [Nat.add_assoc]⟩ fun x hx he => ?_
    have hxi : x.2 = i := by omega
    have hx1 : bs[i]? = some x.1 := hxi ▸ List.mem_zipIdx_iff_getElem?.mp hx
    rw [hxi, List.getD_eq_getElem?_getD, hx1, Option.getD_some]
  rw [storeByte, hdata]
  exact (BitVec.xor_assoc ..).trans (by rw [show placedByte (writeStore s h a bs bad) h (a + i) = placedByte s h (a + i) from rfl, BitVec.xor_self, BitVec.xor_zero])

/-- Bytes outside the written ones, and those of other shelves, stay. -/
theorem storeByte_writeStore_other (hst : swf (fun _ => (0 : Byte)) s.scr.store = true) (hfit : a + bs.length ≤ 2 ^ 20) {g b : Nat} (hb : b < 2 ^ 20)
    (hout : g ≠ h ∨ b < a ∨ a + bs.length ≤ b) : storeByte (writeStore s h a bs bad) g b = storeByte s g b := by
  have hdata : sget (fun _ => (0 : Byte)) (writeStore s h a bs bad).scr.store (g * 2 ^ 20 + b) = sget (fun _ => 0) s.scr.store (g * 2 ^ 20 + b) := by
    refine sget_foldl_sset_other hst fun x hx => ?_
    have hlt : x.2 < bs.length := (List.getElem?_eq_some_iff.mp (List.mem_zipIdx_iff_getElem?.mp hx)).1
    rcases hout with hg | hb | hb
    · rcases Nat.lt_or_gt_of_ne hg with hg | hg <;> omega
    · by_cases hg : g = h
      · subst hg; omega
      · omega
    · omega
  rw [storeByte, hdata]
  rfl

end

/-- Nothing but scribes and shelf stores changed. -/
def StoresOnly (s t : State) : Prop := t = { s with scr := { s.scr with unit := t.scr.unit, store := t.scr.store, linePoison := t.scr.linePoison } }

theorem StoresOnly.refl (s : State) : StoresOnly s s := rfl

theorem StoresOnly.trans {t u : State} (h : StoresOnly s t) (h' : StoresOnly t u) : StoresOnly s u := by
  rw [StoresOnly, h', h]

theorem StoresOnly.writeStore {t : State} (ht : StoresOnly s t) (h a : Nat) (bs : Bytes) (bad : Nat → Bool) : StoresOnly s (writeStore t h a bs bad) :=
  ht.trans rfl

theorem StoresOnly.modScribe {t : State} (ht : StoresOnly s t) (h : Nat) (f : Scribe → Scribe) : StoresOnly s (modScribe t h f) := ht.trans rfl

theorem StoresOnly.tiles {t : State} (ht : StoresOnly s t) : t.scr.tiles = s.scr.tiles := by rw [ht]

theorem StoresOnly.storeByte {t u : State} (ht : StoresOnly s t) (hu : StoresOnly s u) (hstore : t.scr.store = u.scr.store) (g b : Nat) :
    storeByte t g b = storeByte u g b := by
  rw [ht, hu, hstore]
  rfl

theorem storeByte_modScribe (s : State) (x : Nat) (f : Scribe → Scribe) (g b : Nat) : storeByte (modScribe s x f) g b = storeByte s g b := (rfl)

/-! ### What a job finds in the store (R127) -/

theorem checkOf_other (h5 : j.kind ≠ 5) : checkOf s h j = none := if_neg h5

theorem placeJob_run {r : Run} (hrun : runOf s j = some r) :
    placeJob s h j = modScribe (writeStore s h 0xC0000 r.data fun _ => false) h fun u => { u with area := some j.carrel } := by
  simp only [placeJob, hrun]

theorem placeJob_run_payload (hst : swf (fun _ => (0 : Byte)) s.scr.store = true) {r : Run} (hrun : runOf s j = some r) {i : Nat} (hi : i < r.data.length) :
    storeByte (placeJob s h j) h (0xC0000 + i) = r.data.getD i 0 := by
  rw [placeJob_run hrun, storeByte_modScribe, storeByte_writeStore hst hi]

theorem placeJob_run_other (hst : swf (fun _ => (0 : Byte)) s.scr.store = true) {r : Run} (hrun : runOf s j = some r) (hfit : 0xC0000 + r.data.length ≤ 2 ^ 20)
    {g b : Nat} (hb : b < 2 ^ 20) (hout : g ≠ h ∨ b < 0xC0000 ∨ 0xC0000 + r.data.length ≤ b) : storeByte (placeJob s h j) g b = storeByte s g b := by
  rw [placeJob_run hrun, storeByte_modScribe, storeByte_writeStore_other hst hfit hb hout]

theorem placeJob_none (hrun : runOf s j = none) : placeJob s h j = s ∨ ∃ c, placeJob s h j = stageCheck s h c j.part := by
  simp only [placeJob, hrun]
  split
  · next c _ => exact .inr ⟨c, rfl⟩
  · exact .inl rfl

theorem placeJob_plain (hE : j.kind ≠ 0xE) (h5 : j.kind ≠ 5) : placeJob s h j = s := by
  simp only [placeJob, runOf_other hE, checkOf_other h5]

theorem stageCheck_storesOnly (s : State) (h : Nat) (c : SCheck) (part : Nat) : StoresOnly s (stageCheck s h c part) := by
  simp only [stageCheck]
  exact (((StoresOnly.refl s).writeStore ..).writeStore ..).writeStore ..

theorem placeJob_storesOnly (s : State) (h : Nat) (j : Job) : StoresOnly s (placeJob s h j) := by
  rcases hrun : runOf s j with _ | r
  · rcases placeJob_none (h := h) hrun with he | ⟨c, he⟩ <;> rw [he]
    · exact .refl s
    · exact stageCheck_storesOnly ..
  · rw [placeJob_run hrun]
    exact ((StoresOnly.refl s).writeStore ..).modScribe ..

theorem length_leBytes (n v : Nat) : (leBytes n v).length = n := by
  induction n generalizing v with
  | zero => rfl
  | succ n ih => rw [leBytes, List.length_cons, ih]

theorem stageCheck_store (hst : swf (fun _ => (0 : Byte)) s.scr.store = true) (c : SCheck) (part : Nat) {g b : Nat} (hb : b < 2 ^ 20) (hout : g ≠ h ∨ b < 0xE0000) :
    storeByte (stageCheck s h c part) g b = storeByte s g b := by
  have keep {u : State} (hu : swf (fun _ => (0 : Byte)) u.scr.store = true) {a : Nat} (ha : 0xE0000 ≤ a) {bs : Bytes} (hfit : a + bs.length ≤ 2 ^ 20) :
      storeByte (writeStore u h a bs fun _ => false) g b = storeByte u g b :=
    storeByte_writeStore_other hu hfit hb (hout.imp_right fun hlt => .inl (by omega))
  unfold stageCheck
  refine (keep (store_swf_writeStore (store_swf_writeStore hst)) ?_ ?_).trans ((keep (store_swf_writeStore hst) ?_ ?_).trans (keep hst ?_ ?_))
  all_goals simp [List.length_flatMap, length_leBytes]

/-- A class-S job finds its check in the staging area alone. -/
theorem placeJob_check_other (hst : swf (fun _ => (0 : Byte)) s.scr.store = true) (h5 : j.kind = 5) {g b : Nat} (hb : b < 2 ^ 20) (hout : g ≠ h ∨ b < 0xE0000) :
    storeByte (placeJob s h j) g b = storeByte s g b := by
  rcases placeJob_none (h := h) (runOf_other (s := s) (j := j) (by omega)) with he | ⟨c, he⟩ <;> rw [he]
  exact stageCheck_store hst c j.part hb hout

/-! ### A job starts (R112) -/

theorem jobDescs_storesOnly {t : State} (ht : StoresOnly s t) (h : Nat) (j : Job) : jobDescs t h j = jobDescs s h j := by
  rw [ht]
  rfl

theorem takeJob_own (h3 : j.kind ≠ 3) (s : State) (h : Nat) : takeJob s h j = modScribe s h fun u => { u with ready := u.ready.erase j } := by
  simp only [takeJob, h3, if_false]

theorem placeJob_none_unit (hrun : runOf s j = none) : (placeJob s h j).scr.unit = s.scr.unit := by
  rcases placeJob_none (h := h) hrun with he | ⟨c, he⟩ <;> rw [he]
  simp only [stageCheck, writeStore_unit]

theorem placeJob_unit_swf (hu : swf (fun _ => freshScribe) s.scr.unit = true) (h : Nat) (j : Job) :
    swf (fun _ => freshScribe) (placeJob s h j).scr.unit = true := by
  rcases hrun : runOf s j with _ | r
  · rwa [placeJob_none_unit hrun]
  · rw [placeJob_run hrun]
    exact unit_swf_modScribe (s := writeStore s h 0xC0000 r.data fun _ => false) hu h _

/-- A scribe whose run area a job's payload has gone into, where the job has one. -/
def Scribe.loaded (u : Scribe) (s : State) (j : Job) : Scribe := { u with area := if (runOf s j).isSome then some j.carrel else u.area }

theorem scribeOf_placeJob (hu : swf (fun _ => freshScribe) s.scr.unit = true) (h : Nat) (j : Job) (g : Nat) :
    scribeOf (placeJob s h j) g = if g = h then (scribeOf s h).loaded s j else scribeOf s g := by
  rcases hrun : runOf s j with _ | r
  · have hsame : scribeOf (placeJob s h j) g = scribeOf s g := by rw [scribeOf, placeJob_none_unit hrun, scribeOf]
    rw [hsame, Scribe.loaded, hrun]
    split
    · next he => rw [he]; rfl
    · rfl
  · rw [placeJob_run hrun, scribeOf_modScribe_ite (s := writeStore s h 0xC0000 r.data fun _ => false) hu, Scribe.loaded, hrun]
    rfl

theorem startJob_own (h3 : j.kind ≠ 3) (s : State) (h : Nat) : startJob s h j =
    modScribe (placeJob s h j) h fun u => { u with run := some { job := j, pc := j.entry, count := 0 }, desc := jobDescs s h j } := by
  simp only [startJob, h3, if_false, jobDescs_storesOnly (placeJob_storesOnly s h j)]

/-- The scribe on which a job has started. -/
def Scribe.started (u : Scribe) (s : State) (h : Nat) (j : Job) : Scribe :=
  { u with ready := u.ready.erase j, run := some { job := j, pc := j.entry, count := 0 }, desc := jobDescs s h j
           area := if (runOf s j).isSome then some j.carrel else u.area }

/-- A job that leaves the ready jobs and starts changes its own scribe's state and the stores alone. -/
theorem startJob_starts (hu : swf (fun _ => freshScribe) s.scr.unit = true) (h3 : j.kind ≠ 3) (h : Nat) :
    StoresOnly s (startJob (takeJob s h j) h j) ∧ (∀ g, g ≠ h → scribeOf (startJob (takeJob s h j) h j) g = scribeOf s g) ∧
      scribeOf (startJob (takeJob s h j) h j) h = (scribeOf s h).started s h j := by
  rw [takeJob_own h3, startJob_own h3]
  generalize htaken : modScribe s h (fun u => { u with ready := u.ready.erase j }) = w
  have hw : swf (fun _ => freshScribe) w.scr.unit = true := htaken ▸ unit_swf_modScribe hu h _
  have hplaced := placeJob_unit_swf hw h j
  refine ⟨((htaken ▸ (StoresOnly.refl s).modScribe h _).trans (placeJob_storesOnly w h j)).modScribe h _, fun g hg => ?_, ?_⟩
  · rw [scribeOf_modScribe_ite hplaced, if_neg hg, scribeOf_placeJob hw, if_neg hg, ← htaken, scribeOf_modScribe_ite hu, if_neg hg]
  · rw [scribeOf_modScribe_ite hplaced, if_pos rfl, scribeOf_placeJob hw, if_pos rfl, ← htaken, scribeOf_modScribe_ite hu, if_pos rfl]
    rfl

/-- What a job finds does not depend on the scribes. -/
theorem placeJob_modScribe (s : State) (x h : Nat) (f : Scribe → Scribe) (j : Job) :
    (placeJob (modScribe s x f) h j).scr.store = (placeJob s h j).scr.store ∧ (placeJob (modScribe s x f) h j).scr.linePoison = (placeJob s h j).scr.linePoison := by
  simp only [placeJob, show runOf (modScribe s x f) j = runOf s j from rfl, show checkOf (modScribe s x f) h j = checkOf s h j from rfl]
  split
  · exact ⟨rfl, rfl⟩
  · split
    · simp only [stageCheck, writeStore_modScribe, modScribe_store, modScribe_linePoison, and_self]
    · exact ⟨rfl, rfl⟩

theorem startJob_stores (h3 : j.kind ≠ 3) (s : State) (h : Nat) :
    (startJob (takeJob s h j) h j).scr.store = (placeJob s h j).scr.store ∧ (startJob (takeJob s h j) h j).scr.linePoison = (placeJob s h j).scr.linePoison := by
  rw [takeJob_own h3, startJob_own h3]
  exact placeJob_modScribe ..

/-- A store on which a job has started reads as the job finds it. -/
theorem startJob_storeByte (hu : swf (fun _ => freshScribe) s.scr.unit = true) (h3 : j.kind ≠ 3) (h g b : Nat) :
    storeByte (startJob (takeJob s h j) h j) g b = storeByte (placeJob s h j) g b :=
  (startJob_starts hu h3 h).1.storeByte (placeJob_storesOnly s h j) (startJob_stores h3 s h).1 g b

/-! ### Which job starts (R112) -/

/-- The next job is a ready one, one of attention or a proof, and no ready job of pass work or class S has a better rank than it, unless it is attention. -/
theorem nextJob_ranks (hj : nextJob s h = some j) : (j ∈ (scribeOf s h).ready ∨ nextAttn s h = some j ∨ proofJobOf s h = some j) ∧
    ∀ k ∈ (scribeOf s h).ready, jobRank k ≤ 1 → jobRank j ≤ jobRank k ∨ nextAttn s h = some j := by
  simp only [nextJob] at hj
  rcases h0 : (scribeOf s h).ready.find? (fun j => jobRank j == 0) with _ | j0
  · have hno0 : ∀ k ∈ (scribeOf s h).ready, jobRank k ≠ 0 := by simpa using h0
    rcases hattn : nextAttn s h with _ | ja
    · rcases h1 : (scribeOf s h).ready.find? (fun j => jobRank j == 1) with _ | j1
      · have hno1 : ∀ k ∈ (scribeOf s h).ready, jobRank k ≠ 1 := by simpa using h1
        have hbetter : ∀ k ∈ (scribeOf s h).ready, ¬ jobRank k ≤ 1 := fun k hk hle => by have := hno0 k hk; have := hno1 k hk; omega
        refine ⟨?_, fun k hk hle => absurd hle (hbetter k hk)⟩
        rcases hproof : proofJobOf s h with _ | jp
        · simp only [h0, hattn, h1, hproof] at hj
          split at hj
          · cases hj
          · exact .inl (List.mem_of_head? hj)
        · simp only [h0, hattn, h1, hproof] at hj
          exact .inr (.inr hj)
      · simp only [h0, hattn, h1, Option.some.injEq] at hj
        subst hj
        have hrank : jobRank j1 = 1 := by simpa using List.find?_some h1
        exact ⟨.inl (List.mem_of_find?_eq_some h1), fun k hk _ => .inl (by have := hno0 k hk; omega)⟩
    · simp only [h0, hattn] at hj
      exact ⟨.inr (.inl hj), fun k _ _ => .inr hj⟩
  · simp only [h0, Option.some.injEq] at hj
    subst hj
    have hrank : jobRank j0 = 0 := by simpa using List.find?_some h0
    exact ⟨.inl (List.mem_of_find?_eq_some h0), fun k _ _ => .inl (by omega)⟩

theorem image_of_jobRank (h0 : jobRank j = 0) : j.kind ≤ 4 := by
  by_contra hk
  simp only [jobRank, hk, if_false] at h0
  split at h0
  · cases h0
  · split at h0 <;> cases h0

theorem execScribeJobStart_starts (hrun : (scribeOf s h).run = none) (hj : nextJob s h = some j) :
    exec (.scribeJobStart h) s = .next (startJob (takeJob s h j) h j) := by
  change execScribeJobStart h s = _
  simp only [execScribeJobStart, hrun, hj]

/-- A free scribe without a job resumes its suspended run. -/
def Scribe.resumed (u : Scribe) (s : State) (h : Nat) (p : Prog) : Scribe :=
  { u with run := some p, suspended := none, x := u.savedX, savedX := [], desc := jobDescs s h p.job }

theorem execScribeJobStart_resumes {p : Prog} (hrun : (scribeOf s h).run = none) (hj : nextJob s h = none) (hp : (scribeOf s h).suspended = some p) :
    exec (.scribeJobStart h) s = .next (modScribe s h fun u => u.resumed s h p) := by
  change execScribeJobStart h s = _
  simp only [execScribeJobStart, hrun, hj, hp]
  rfl

/-- A scribe whose run pass work suspends. -/
def Scribe.suspends (u : Scribe) (p : Prog) : Scribe := { u with run := none, suspended := some p, savedX := u.x }

theorem execScribeJobStart_suspends {p : Prog} (hrun : (scribeOf s h).run = some p) (hj : nextJob s h = some j) (hE : p.job.kind = 0xE) (h0 : jobRank j = 0) :
    exec (.scribeJobStart h) s = .next (startJob (takeJob (modScribe s h fun u => u.suspends p) h j) h j) := by
  change execScribeJobStart h s = _
  simp only [execScribeJobStart, hrun, hj, hE, h0, BEq.rfl]
  rfl

/-- What is no run and is running is left alone. -/
theorem execScribeJobStart_leaves {p : Prog} (hrun : (scribeOf s h).run = some p) (hE : p.job.kind ≠ 0xE) : exec (.scribeJobStart h) s = .next s := by
  change execScribeJobStart h s = _
  rcases hj : nextJob s h with _ | j
  · simp only [execScribeJobStart, hrun, hj]
  · simp only [execScribeJobStart, hrun, hj, hE, decide_false, Bool.false_and, Bool.false_eq_true, if_false]

/-! ### SCRIBE_RUN waits on its shelves (R127) -/

theorem cmdIn_found {c q op : Nat} {k : Cmd} {ph : Phase} (hk : findCmd s c q = some k) (hph : k.phase = ph) (hop : k.op = op) : cmdIn s c q ph op = some k := by
  simp [cmdIn, hk, hph, hop]

/-- A scribe for which one more job waits. -/
def Scribe.readied (u : Scribe) (j : Job) : Scribe := { u with ready := u.ready ++ [j] }

/-- A job that becomes ready on some shelves waits on each of them, behind what waits there, and on no other. -/
theorem foldl_readyJob (hu : swf (fun _ => freshScribe) s.scr.unit = true) (j : Job) {l : List Nat} (hl : l.Nodup) :
    let t := l.foldl (fun s h => readyJob s h (some j)) s
    t = { s with scr := { s.scr with unit := t.scr.unit } } ∧
      ∀ g, scribeOf t g = if g ∈ l then (scribeOf s g).readied j else scribeOf s g := by
  induction l generalizing s with
  | nil => exact ⟨rfl, fun g => rfl⟩
  | cons x l ih =>
    obtain ⟨hx, hl⟩ := List.nodup_cons.mp hl
    obtain ⟨hframe, hread⟩ := ih (s := readyJob s x (some j)) (unit_swf_modScribe hu x _) hl
    have hone (g : Nat) : scribeOf (readyJob s x (some j)) g = if g = x then (scribeOf s x).readied j else scribeOf s g :=
      scribeOf_modScribe_ite hu x g _
    refine ⟨hframe.trans rfl, fun g => (hread g).trans ?_⟩
    rw [hone]
    by_cases hg : g = x
    · subst hg
      rw [if_neg hx, if_pos rfl, if_pos List.mem_cons_self]
    · simp only [hg, if_false, List.mem_cons, false_or]

/-- Of the first n + 1 numbers one is not among n. -/
theorem freeBuf_fresh (s : State) : ∀ r ∈ s.scr.runs, r.buf ≠ freeBuf s := by
  rcases hfind : (List.range (s.scr.runs.length + 1)).find? (fun b => !s.scr.runs.any fun r => r.buf == b) with _ | n
  · have hsub : List.range (s.scr.runs.length + 1) ⊆ s.scr.runs.map (·.buf) := fun b hb => by
      have := List.find?_eq_none.mp hfind b hb
      simpa using this
    have hle := (List.subperm_of_subset List.nodup_range hsub).length_le
    rw [List.length_range, List.length_map] at hle
    omega
  · have hn := List.find?_some hfind
    rw [freeBuf, hfind, Option.getD_some]
    simpa using hn

/-- The run that a SCRIBE_RUN starts, and its job. -/
def runBegun (s : State) (c q : Nat) (body b : Bytes) : Run :=
  { stream := c, seq := q, shelves := runShelves body, left := runShelves body, scratch := rd body 0x18 4, buf := freeBuf s, data := b.take (rd body 4 4) }

def runJobBegun (c q : Nat) (body : Bytes) : Job :=
  { kind := 0xE, region := 0, stage := 0, carrel := c, seq := q, session := 0, tile := 0, kv := 0, part := 0
    first := 98304, last := 98304 + 16384, entry := 98304 + rd body 0 4 }

theorem nodup_runShelves (body : Bytes) : (runShelves body).Nodup := List.nodup_range.filter _

section
variable {c q : Nat} {k : Cmd} (hk : findCmd s c q = some k)
include hk

theorem execScribeRun_begins (hph : k.phase = .begun) (hop : k.op = 0x10) (hno : ∀ r ∈ s.scr.runs, ¬ (r.stream = c ∧ r.seq = q)) {b : Bytes}
    (hb : rd k.body 4 4 ≤ b.length) : exec (.scribeRun c q (.data b)) s = .next ((runShelves k.body).foldl (fun s h => readyJob s h (some (runJobBegun c q k.body)))
      { s with scr := { s.scr with runs := s.scr.runs ++ [runBegun s c q k.body b] } }) := by
  have hany : (s.scr.runs.any fun r => r.stream == c && r.seq == q) = false := by simpa using hno
  change execScribeRun c q (.data b) s = _
  simp only [execScribeRun, cmdIn_found hk hph hop, hany, not_lt.mpr hb, Bool.false_eq_true, if_false]
  rfl

/-- A payload that was not fetched whole completes its SCRIBE_RUN with FORMAT (log entry 25). -/
theorem execScribeRun_fails (hph : k.phase = .begun) (hop : k.op = 0x10) (hno : ∀ r ∈ s.scr.runs, ¬ (r.stream = c ∧ r.seq = q)) {f : Fetch}
    (hf : ∀ b, f = .data b → b.length < rd k.body 4 4) : exec (.scribeRun c q f) s = .next (finish s c q stFormat 0xFFFFFFFF) := by
  have hany : (s.scr.runs.any fun r => r.stream == c && r.seq == q) = false := by simpa using hno
  change execScribeRun c q f s = _
  simp only [execScribeRun, cmdIn_found hk hph hop, hany, Bool.false_eq_true, if_false]
  split
  · next b => simp only [hf b rfl, if_true]
  · rfl

theorem scribeRun_waits (hs : s.scribesOk) (hph : k.phase = .begun) (hop : k.op = 0x10) (hno : ∀ r ∈ s.scr.runs, ¬ (r.stream = c ∧ r.seq = q)) {b : Bytes}
    (hb : rd k.body 4 4 ≤ b.length) : ∃ t j n, exec (.scribeRun c q (.data b)) s = .next t ∧
      t = { s with scr := { s.scr with unit := t.scr.unit, runs := t.scr.runs } } ∧
      (∀ h, scribeOf t h = if h ∈ runShelves k.body then { scribeOf s h with ready := (scribeOf s h).ready ++ [j] } else scribeOf s h) ∧
      j.kind = 0xE ∧ j.carrel = c ∧ j.seq = q ∧ j.first = 98304 ∧ j.last = 98304 + 16384 ∧ j.entry = 98304 + rd k.body 0 4 ∧
      (∀ r ∈ s.scr.runs, r.buf ≠ n) ∧
      t.scr.runs = s.scr.runs ++ [{ stream := c, seq := q, shelves := runShelves k.body, left := runShelves k.body, scratch := rd k.body 0x18 4
                                    buf := n, data := b.take (rd k.body 4 4) }] := by
  obtain ⟨hframe, hread⟩ := foldl_readyJob (s := { s with scr := { s.scr with runs := s.scr.runs ++ [runBegun s c q k.body b] } }) hs.1
    (runJobBegun c q k.body) (nodup_runShelves k.body)
  refine ⟨_, runJobBegun c q k.body, freeBuf s, execScribeRun_begins hk hph hop hno hb, ?_, hread, rfl, rfl, rfl, rfl, rfl, rfl, freeBuf_fresh s, ?_⟩
  · rw [hframe]
  · rw [hframe]; rfl

end

/-! ### A run's time limit (R128, R279) -/

theorem foldl_freeScratch_frame (rs : List Run) (s : State) : rs.foldl freeScratch s =
    { s with scr := { s.scr with hbm := (rs.foldl freeScratch s).scr.hbm, hbmPoison := (rs.foldl freeScratch s).scr.hbmPoison } } := by
  induction rs generalizing s with
  | nil => rfl
  | cons r rs ih => rw [List.foldl_cons, ih]; rfl

theorem endRun_frame (s : State) (c q : Nat) : endRun s c q = { s with scr := { s.scr with
    unit := (endRun s c q).scr.unit, runs := s.scr.runs.filter fun r => r.stream != c || r.seq != q
    hbm := (endRun s c q).scr.hbm, hbmPoison := (endRun s c q).scr.hbmPoison } } := by
  simp only [endRun]
  rw [foldl_freeScratch_frame]

theorem finishRun_stopped (s : State) (r : Run) {st : Nat} (hst : st ≠ stOk) (v : Nat) :
    finishRun s r st v = finish (endRun s r.stream r.seq) r.stream r.seq st v := by
  simp only [finishRun, hst, if_false]

theorem scribeRunTimeout_ends {c q : Nat} {k : Cmd} {r : Run} (hk : findCmd s c q = some k)
    (hr : s.scr.runs.find? (fun r => r.stream == c && r.seq == q) = some r) :
    ∃ t, exec (.scribeRunTimeout c q) s = .next t ∧ findCmd t c q = some { k with phase := .finished, status := stTimeout, value := 0xFFFFFFFF } ∧
      (∀ x ∈ t.scr.runs, ¬ (x.stream = c ∧ x.seq = q)) ∧ t.out = s.out ∧ t.scr.tiles = s.scr.tiles ∧ t.scr.store = s.scr.store ∧ t.kv = s.kv ∧ t.regs = s.regs := by
  have hnamed : r.stream = c ∧ r.seq = q := by simpa using List.find?_some hr
  have hexec : exec (.scribeRunTimeout c q) s = .next (finish (endRun s c q) c q stTimeout 0xFFFFFFFF) := by
    change execScribeRunTimeout c q s = _
    simp only [execScribeRunTimeout, hr]
    rw [finishRun_stopped s r (by decide), hnamed.1, hnamed.2]
  refine ⟨_, hexec, finish_finishedAs _ _ ?_, ?_⟩
  · rw [endRun_frame]; exact hk
  · rw [endRun_frame]
    exact ⟨fun x hx => by simpa [imp_iff_not_or] using (List.mem_filter.mp hx).2, rfl, rfl, rfl, rfl, rfl⟩

theorem scribeRunTimeout_waits {c q : Nat} (hno : ∀ r ∈ s.scr.runs, ¬ (r.stream = c ∧ r.seq = q)) : exec (.scribeRunTimeout c q) s = .next s := by
  have hnone : s.scr.runs.find? (fun r => r.stream == c && r.seq == q) = none := by simpa using hno
  change execScribeRunTimeout c q s = _
  simp only [execScribeRunTimeout, hnone]

/-- Settles O29: which job starts (`nextJob_ranks`), what its start leaves of its scribe (`startJob_starts`) and finds in its store (`placeJob`), how a
run waits on its shelves (`scribeRun_waits`) and how its time limit ends it (`scribeRunTimeout_ends`). -/
theorem scribeJobsStartAndTimeOut : Obligations.ScribeJobsStartAndTimeOut := by
  unfold Obligations.ScribeJobsStartAndTimeOut
  refine And.intro (fun h s hs => ⟨?_, ?_, ?_, fun p hrun hE => execScribeJobStart_leaves hrun hE, fun j hj => nextJob_ranks hj⟩) ?_
  · intro j hrun hj h3
    obtain ⟨honly, hother, hscribe⟩ := startJob_starts hs.1 h3 h
    have hbyte := startJob_storeByte hs.1 h3 h
    obtain ⟨-, -, hst, -⟩ := hs
    refine ⟨_, execScribeJobStart_starts hrun hj, honly, hother, hscribe, fun h5 hE => ?_, fun r hr hlen => ⟨fun i hi => ?_, fun g b hb hout => ?_⟩,
      fun h5 g b hb hout => ?_⟩
    · rw [(startJob_stores h3 s h).1, (startJob_stores h3 s h).2, placeJob_plain hE h5]
      exact ⟨rfl, rfl⟩
    · exact (hbyte _ _).trans (placeJob_run_payload hst hr hi)
    · exact (hbyte _ _).trans (placeJob_run_other hst hr (by omega) hb hout)
    · exact (hbyte _ _).trans (placeJob_check_other hst h5 hb hout)
  · intro p hrun hj hp
    exact ⟨_, execScribeJobStart_resumes hrun hj hp, scribeOf_modScribe hs h _, rfl, fun g hg => scribeOf_modScribe_ne hs _ hg⟩
  · intro p j hrun hj hE h0 h3
    have hk := image_of_jobRank h0
    obtain ⟨honly, -, hscribe⟩ := startJob_starts (s := modScribe s h fun u => u.suspends p) (unit_swf_modScribe hs.1 h _) h3 h
    rw [scribeOf_modScribe hs] at hscribe
    refine ⟨_, execScribeJobStart_suspends hrun hj hE h0, by rw [hscribe]; rfl, by rw [hscribe]; rfl, by rw [hscribe]; rfl, by rw [hscribe]; rfl, ?_, ?_⟩
    · exact honly.tiles
    · rw [(startJob_stores h3 _ h).1, placeJob_plain (by omega) (by omega)]
      rfl
  · intro c q k s hs hk
    exact ⟨fun hph hop hno => ⟨fun b hb => scribeRun_waits hk hs hph hop hno hb, fun f hf =>
      ⟨_, execScribeRun_fails hk hph hop hno hf, rfl, finish_finishedAs _ _ hk⟩⟩, fun r hr => scribeRunTimeout_ends hk hr, scribeRunTimeout_waits⟩

end Sys2Proof.Machine
end
end

section
/-!
PROOFS. The discard of a late class-S check (R151).
-/
section
open Sys2Proof Sys2Proof.Machine
namespace Sys2Proof.Machine

variable {s : State}

theorem skipped_not_annals (h : Nat) : (Reg.SCR_VIG_COUNTS.SKIPPED h).addr ∉ annalsRegs := by
  simp only [Reg.SCR_VIG_COUNTS.SKIPPED, hallBase, annalsRegs, Reg.ANN_LAST_SEQ.SEQ, Reg.ANN_DROPPED.COUNT, Reg.ANN_CTRL.ALERT, List.mem_cons, List.not_mem_nil,
    or_false]
  omega

/-- Of all that the module holds, a discarded check changes vigilance's table, the registers, the annals and the alert pin. -/
theorem discardCheck_frame (s : State) (c : SCheck) :
    discardCheck s c = { s.withRegs (discardCheck s c) with run := { s.run with vig := (discardCheck s c).run.vig } } := by
  rw [discardCheck, annal_frame]
  rfl

theorem discardCheck_vig (s : State) (c : SCheck) : (discardCheck s c).run.vig = (dropCheck s c).run.vig := by
  rw [discardCheck, annal_frame]
  rfl

/-- The check leaves its own region's list, and the region's counts and norms stay. -/
theorem vigOf_discardCheck (h : swf (fun _ => freshVigilance) s.run.vig = true) (c : SCheck) :
    vigOf (discardCheck s c) c.region = { vigOf s c.region with checks := (vigOf s c.region).checks.erase c } := by
  rw [vigOf, discardCheck_vig]
  exact vigOf_modVig h c.region _

theorem vigOf_discardCheck_ne (h : swf (fun _ => freshVigilance) s.run.vig = true) (c : SCheck) {q : Nat} (hq : q ≠ c.region) :
    vigOf (discardCheck s c) q = vigOf s q := by
  rw [vigOf, discardCheck_vig]
  exact vigOf_modVig_ne h _ hq

theorem discardCheck_counted (h : s.regsOk) (c : SCheck) : counted s (discardCheck s c) (Reg.SCR_VIG_COUNTS.SKIPPED (hallOf c.shelf)) 1 := by
  have hd : (dropCheck s c).regsOk := h
  have hbump := fbump_counted hd (Reg.SCR_VIG_COUNTS.SKIPPED (hallOf c.shelf)) 1 (by decide : 16 + 16 ≤ 64)
  exact (annal_fget (regsOk_fbump hd _ 1) _ _ _ _ _ _ (skipped_not_annals _)).trans hbump

theorem discardCheck_regsFrom (h : s.regsOk) (c : SCheck) :
    s.regsFrom (discardCheck s c) [(Reg.SCR_VIG_COUNTS.SKIPPED (hallOf c.shelf)).addr] := by
  intro a ha hann
  have hd : (dropCheck s c).regsOk := h
  exact (annal_rget (regsOk_fbump hd _ 1) _ _ _ _ _ _ hann).trans (rget_fbump_ne hd 1 (List.ne_of_not_mem_cons ha))

theorem discardCheck_recorded (s : State) (c : SCheck) : recorded s (discardCheck s c) 0x0501 0 c.passNo 0 0 :=
  annal_recorded (fbump (dropCheck s c) (Reg.SCR_VIG_COUNTS.SKIPPED (hallOf c.shelf)) 1) ..

theorem execClassSCheckDiscard_late {r shelf : Nat} {c : SCheck}
    (hc : (vigOf s r).checks.find? (fun c => c.shelf == shelf && decide (c.lag ≤ c.passed)) = some c) :
    exec (.classSCheckDiscard r shelf) s = .next (discardCheck s c) := by
  show execClassSCheckDiscard r shelf s = _
  simp only [execClassSCheckDiscard, overdue, hc]

theorem execClassSCheckDiscard_none {r shelf : Nat} (hc : ∀ c ∈ (vigOf s r).checks, c.shelf = shelf → c.passed < c.lag) :
    exec (.classSCheckDiscard r shelf) s = .next s := by
  have hnone : (vigOf s r).checks.find? (fun c => c.shelf == shelf && overdue c) = none := by
    simpa [List.find?_eq_none, overdue] using hc
  show execClassSCheckDiscard r shelf s = _
  simp only [execClassSCheckDiscard, hnone]

/-- Settles O49: the first late check of the shelf is discarded (`discardCheck`), which drops it from its region's list, counts it in SKIPPED and records
it; where no check of the shelf is late the command finds none. -/
theorem lateChecksAreDiscarded : Obligations.LateChecksAreDiscarded := by
  unfold Obligations.LateChecksAreDiscarded
  intro r shelf s hregs hvig
  refine ⟨fun c hc hr => ?_, execClassSCheckDiscard_none⟩
  obtain ⟨hshelf, -⟩ : c.shelf = shelf ∧ c.lag ≤ c.passed := by simpa using List.find?_some hc
  refine ⟨discardCheck s c, execClassSCheckDiscard_late hc, discardCheck_frame s c, ?_⟩
  subst hr hshelf
  exact ⟨vigOf_discardCheck hvig c, fun q => vigOf_discardCheck_ne hvig c, discardCheck_counted hregs c,
    discardCheck_regsFrom hregs c, discardCheck_recorded s c⟩

end Sys2Proof.Machine
end
end

section
/-!
PROOFS. Packed elements (R132): a packed string holds one number, the elements' codes as its digits in base 2 ^ width, least significant first; what
bytes of the string read as is a field of that number, and so is each element.
-/
section
open Sys2Proof Sys2Proof.Machine
namespace Sys2Proof.Machine

/-! ### Fields of numbers and of their bytes -/

theorem nbits_eq_div_mod (v lo w : Nat) : nbits v lo w = v / 2 ^ lo % 2 ^ w := by rw [nbits, Nat.shiftRight_eq_div_pow]

/-- A field is its low part and, above it, its high part. -/
theorem nbits_add_width (v lo a b : Nat) : nbits v lo (a + b) = nbits v lo a + 2 ^ a * nbits v (lo + a) b := by
  simp only [nbits_eq_div_mod, Nat.pow_add, Nat.mod_mul, Nat.div_div_eq_div_mul]

/-- A field of a field is a field of the number. -/
theorem nbits_nbits {v lo w lo' w' : Nat} (h : lo' + w' ≤ w) : nbits (nbits v lo w) lo' w' = nbits v (lo + lo') w' := by
  apply Nat.eq_of_testBit_eq
  intro i
  simp only [nbits_testBit, Nat.add_assoc]
  by_cases hi : i < w'
  · simp [show lo' + i < w by omega]
  · simp [hi]

theorem leNat_leBytes (n v : Nat) : leNat (leBytes n v) = v % 256 ^ n := by
  induction n generalizing v with
  | zero => simp [leBytes, leNat, Nat.mod_one]
  | succ n ih => rw [leBytes, leNat, ih, Nat.pow_succ', Nat.mod_mul, BitVec.toNat_ofNat]

theorem drop_leBytes (n v k : Nat) : (leBytes n v).drop k = leBytes (n - k) (v / 256 ^ k) := by
  induction k generalizing n v with
  | zero => simp
  | succ k ih =>
    cases n with
    | zero => simp [leBytes]
    | succ n => rw [leBytes, List.drop_succ_cons, ih, Nat.div_div_eq_div_mul, ← Nat.pow_succ', Nat.add_sub_add_right]

theorem take_leBytes {k n : Nat} (h : k ≤ n) (v : Nat) : (leBytes n v).take k = leBytes k v := by
  induction k generalizing n v with
  | zero => rfl
  | succ k ih =>
    cases n with
    | zero => omega
    | succ n => rw [leBytes, List.take_succ_cons, ih (by omega), leBytes]

/-- Bytes of a number in bytes are a field of the number. -/
theorem rd_leBytes {off n len : Nat} (h : off + n ≤ len) (v : Nat) : rd (leBytes len v) off n = nbits v (8 * off) (8 * n) := by
  rw [rd, slice, drop_leBytes, take_leBytes (by omega), leNat_leBytes, nbits_eq_div_mod, Nat.pow_mul, Nat.pow_mul]

/-! ### The number that packed elements form -/

theorem Fmt.one_lt_two_pow_width (f : Fmt) : 1 < 2 ^ f.width := by cases f <;> decide

/-- An element of 8 bits or wider takes whole bytes. -/
theorem Fmt.width_whole_bytes {f : Fmt} (h : 8 ≤ f.width) : 8 * (f.width / 8) = f.width := by
  revert h
  cases f <;> decide

/-- The elements are the digits of the number, in base 2 ^ width. -/
theorem foldr_elems_eq_ofDigits {w : Nat} {es : List Nat} (hes : ∀ e ∈ es, e < 2 ^ w) :
    es.foldr (fun c acc => c % 2 ^ w + acc * 2 ^ w) 0 = Nat.ofDigits (2 ^ w) es := by
  induction es with
  | nil => rfl
  | cons e es ih =>
    obtain ⟨he, hes⟩ := List.forall_mem_cons.1 hes
    rw [List.foldr_cons, ih hes, Nat.ofDigits_cons, Nat.mod_eq_of_lt he, Nat.mul_comm]

/-- Digit `k` is the field of `w` bits at bit `w * k`. -/
theorem nbits_ofDigits {w : Nat} {es : List Nat} (hes : ∀ e ∈ es, e < 2 ^ w) (k : Nat) : nbits (Nat.ofDigits (2 ^ w) es) (w * k) w = es.getD k 0 := by
  rw [nbits_eq_div_mod, Nat.pow_mul, Nat.ofDigits_div_pow_eq_ofDigits_drop k (Nat.two_pow_pos w) es hes]
  rcases Nat.lt_or_ge k es.length with hk | hk
  · rw [List.drop_eq_getElem_cons hk, Nat.ofDigits_cons, Nat.add_mul_mod_self_left, List.getD_eq_getElem _ _ hk]
    exact Nat.mod_eq_of_lt (hes _ (List.getElem_mem hk))
  · rw [List.drop_eq_nil_of_le hk, List.getD_eq_default _ _ hk]
    exact Nat.zero_mod _

section
variable {f : Fmt} {es : List Nat}

theorem packElems_eq (hes : ∀ e ∈ es, e < 2 ^ f.width) : packElems f es = leBytes (es.length * f.width / 8) (Nat.ofDigits (2 ^ f.width) es) := by
  rw [packElems, foldr_elems_eq_ofDigits hes]

/-- What bytes of packed elements read as is a field of the elements' number. -/
theorem rd_packElems (hes : ∀ e ∈ es, e < 2 ^ f.width) {off n : Nat} (h : off + n ≤ es.length * f.width / 8) :
    rd (packElems f es) off n = nbits (Nat.ofDigits (2 ^ f.width) es) (8 * off) (8 * n) := by
  rw [packElems_eq hes, rd_leBytes h]

/-- A whole number of bytes holds the elements' number whole. -/
theorem leNat_packElems (hes : ∀ e ∈ es, e < 2 ^ f.width) (hwhole : es.length * f.width % 8 = 0) :
    leNat (packElems f es) = Nat.ofDigits (2 ^ f.width) es := by
  have hlt := Nat.ofDigits_lt_base_pow_length f.one_lt_two_pow_width hes
  have hbits : 8 * (es.length * f.width / 8) = f.width * es.length := by
    rw [Nat.mul_comm f.width]
    omega
  rw [packElems_eq hes, leNat_leBytes, show (256 : Nat) = 2 ^ 8 from rfl, ← Nat.pow_mul, hbits, Nat.pow_mul, Nat.mod_eq_of_lt hlt]

theorem length_packElems (f : Fmt) (es : List Nat) : (packElems f es).length = es.length * f.width / 8 := length_leBytes ..

theorem unpackElems_packElems (hes : ∀ e ∈ es, e < 2 ^ f.width) (hwhole : es.length * f.width % 8 = 0) :
    unpackElems f es.length (packElems f es) = es := by
  have hall : (packElems f es).take (es.length * f.width / 8) = packElems f es := List.take_of_length_le (length_packElems f es).le
  apply List.ext_getElem
  · simp [unpackElems]
  · intro k _ hk
    simp only [unpackElems, hall, leNat_packElems hes hwhole, List.getElem_map, List.getElem_range]
    rw [Nat.mul_comm, nbits_ofDigits hes, List.getD_eq_getElem _ _ hk]

theorem packElems_nibbles (hes : ∀ e ∈ es, e < 2 ^ f.width) (hw : f.width = 4) {k : Nat} (hk : 2 * k + 1 < es.length) :
    rd (packElems f es) k 1 = es.getD (2 * k) 0 + 2 ^ 4 * es.getD (2 * k + 1) 0 := by
  have hlo := nbits_ofDigits hes (2 * k)
  have hhi := nbits_ofDigits hes (2 * k + 1)
  rw [rd_packElems hes (by rw [hw]; omega)]
  rw [hw] at hlo hhi ⊢
  calc nbits _ (8 * k) (4 + 4)
      = nbits _ (8 * k) 4 + 2 ^ 4 * nbits _ (8 * k + 4) 4 := nbits_add_width ..
    _ = _ := by rw [← hlo, ← hhi, show 4 * (2 * k) = 8 * k by omega, show 4 * (2 * k + 1) = 8 * k + 4 by omega]

theorem packElems_sixBits (hes : ∀ e ∈ es, e < 2 ^ f.width) (hw : f.width = 6) {k n : Nat} (hk : 4 * k + 3 < es.length) (hn : n < 4) :
    nbits (rd (packElems f es) (3 * k) 3) (6 * n) 6 = es.getD (4 * k + n) 0 := by
  have helem := nbits_ofDigits hes (4 * k + n)
  rw [rd_packElems hes (by rw [hw]; omega), nbits_nbits (by omega)]
  rw [hw] at helem ⊢
  rw [← helem, show 6 * (4 * k + n) = 8 * (3 * k) + 6 * n by omega]

theorem packElems_wholeBytes (hes : ∀ e ∈ es, e < 2 ^ f.width) (hw : 8 ≤ f.width) {k : Nat} (hk : k < es.length) :
    rd (packElems f es) (f.width / 8 * k) (f.width / 8) = es.getD k 0 := by
  have hbytes := Fmt.width_whole_bytes hw
  have hfit : f.width / 8 * k + f.width / 8 ≤ es.length * f.width / 8 := by
    calc f.width / 8 * k + f.width / 8
        = (k + 1) * (f.width / 8) := by ring
      _ ≤ es.length * (f.width / 8) := Nat.mul_le_mul_right _ hk
      _ ≤ es.length * f.width / 8 := Nat.mul_div_le_mul_div_assoc ..
  rw [rd_packElems hes hfit, ← Nat.mul_assoc, hbytes, nbits_ofDigits hes]

end

/-- Settles O60: the packed bytes hold the number of which the elements are the digits (`packElems_eq`), so that what is read of them is a field of that
number (`rd_packElems`), as each element is (`nbits_ofDigits`). -/
theorem packedElementsStandInOrder : Obligations.PackedElementsStandInOrder := by
  unfold Obligations.PackedElementsStandInOrder
  exact fun f es hes hwhole => ⟨length_packElems f es, unpackElems_packElems hes hwhole, fun hw _ => packElems_nibbles hes hw,
    fun hw _ _ => packElems_sixBits hes hw, fun hw _ => packElems_wholeBytes hes hw⟩

end Sys2Proof.Machine
end
end

section
/-!
PROOFS. COL.REQUEST and the tap checkpoints (R173, R177, R184).
-/
section
open Sys2Proof Sys2Proof.Machine
namespace Sys2Proof.Machine

variable {s t u : State}

/-! ### What COL.STATUS shows of a request (R184) -/

section
variable {h code tag cmd : Nat}

/-- COL.STATUS of hall `h` shows a result and a TAG; no other register has changed. -/
def requestShown (s t : State) (h code tag : Nat) : Prop :=
  fget t (Reg.COL_STATUS.LAST_RESULT h) = code ∧ fget t (Reg.COL_STATUS.TAG h) = tag ∧ ∀ a, a ≠ (Reg.COL_STATUS.TAG h).addr → rget t a = rget s a

/-- Only registers tell what a request shows. -/
theorem requestShown.of_regs (hs : requestShown s t h code tag) (hu : u.regs = t.regs) : requestShown s u h code tag := by
  simpa only [requestShown, fget, rget, hu] using hs

/-- A result alone leaves TAG. -/
theorem requestResult_shown (hr : s.regsOk) (hcode : code < 256) : requestShown s (requestResult s h code) h code (fget s (Reg.COL_STATUS.TAG h)) :=
  ⟨(fget_fset_same hr _ _ (show 40 + 8 ≤ 64 by decide)).trans (Nat.mod_eq_of_lt hcode),
    fget_fset_other hr _ _ _ (show 48 + 16 ≤ 64 by decide) (.inr (.inl le_rfl)),
    fun _ ha => rget_fset_ne hr _ ha⟩

/-- An accepted request's registers: the result OK and its TAG. -/
def requestTagged (s : State) (h tag : Nat) : State := fset (requestResult s h 0) (Reg.COL_STATUS.TAG h) tag

theorem requestTagged_shown (hr : s.regsOk) (htag : tag < 2 ^ 16) : requestShown s (requestTagged s h tag) h 0 tag := by
  have hr1 : (requestResult s h 0).regsOk := regsOk_fset hr ..
  obtain ⟨hresult, -, hothers⟩ := requestResult_shown (h := h) (code := 0) hr (by decide)
  exact ⟨(fget_fset_other hr1 _ _ _ (show 40 + 8 ≤ 64 by decide) (.inr (.inr le_rfl))).trans hresult,
    (fget_fset_same hr1 _ _ (show 48 + 16 ≤ 64 by decide)).trans (Nat.mod_eq_of_lt htag), fun a ha => (rget_fset_ne hr1 _ ha).trans (hothers a ha)⟩

/-! ### What a request comes to (R184) -/

/-- An accepted request of a hall is pending. -/
def requestHeld (s : State) (h tag cmd : Nat) : State :=
  { requestTagged s h tag with
    col := { s.col with request := sset (fun _ => none) s.col.request h (some (cmd, tag, selectedFolio s h)) } }

variable {fault : Folio → Option Nat} {accept : State → Nat → State}

theorem request_busy (hp : unpowered s = false) (hpend : requestPending s h = true) : request s h tag cmd fault accept = requestResult s h 1 := by
  simp [request, hp, hpend]

theorem request_refused (hp : unpowered s = false) (hpend : requestPending s h = false) (hfault : fault (folioAt s (selectedFolio s h)) = some code) :
    request s h tag cmd fault accept = requestResult s h code := by
  simp [request, hp, hpend, hfault]

theorem request_accepted (hp : unpowered s = false) (hpend : requestPending s h = false) (hfault : fault (folioAt s (selectedFolio s h)) = none) :
    request s h tag cmd fault accept = accept (requestHeld s h tag cmd) (selectedFolio s h) := by
  simp only [request, hp, hpend, hfault, Bool.false_eq_true, if_false]
  rfl

/-- A request is answered with a code, and nothing else is changed. -/
def requestRefused (s : State) (c : Instr) (h code : Nat) : Prop :=
  ∃ t, exec c s = .next t ∧ requestShown s t h code (fget s (Reg.COL_STATUS.TAG h)) ∧ t = { s with regs := t.regs }

theorem requestRefused_of_result {c : Instr} (hr : s.regsOk) (hcode : code < 256) (hc : exec c s = .next (requestResult s h code)) : requestRefused s c h code :=
  ⟨_, hc, requestResult_shown hr hcode, rfl⟩

/-- A request is accepted and pending, and marks its folio. -/
def requestTaken (s : State) (c : Instr) (h tag cmd : Nat) (g : Folio) : Prop :=
  ∃ t, exec c s = .next t ∧ requestShown s t h 0 tag ∧ folioAt t (selectedFolio s h) = g ∧ (∀ j, j ≠ selectedFolio s h → folioAt t j = folioAt s j) ∧
    sget (fun _ => none) t.col.request h = some (cmd, tag, selectedFolio s h) ∧
    t = { s with regs := t.regs, col := { s.col with request := t.col.request }, arr := { s.arr with folios := t.arr.folios } }

theorem requestTaken_of_mark {c : Instr} {f : Folio → Folio} (hr : s.regsOk) (hf : s.foliosOk) (htag : tag < 2 ^ 16)
    (hreq : swf (fun _ => none) s.col.request = true) (hc : exec c s = .next (modFolio (requestHeld s h tag cmd) (selectedFolio s h) f)) :
    requestTaken s c h tag cmd (f (folioAt s (selectedFolio s h))) :=
  ⟨_, hc, requestTagged_shown hr htag, folioAt_modFolio (s := requestHeld s h tag cmd) hf _ f,
    fun _ hj => folioAt_modFolio_ne (s := requestHeld s h tag cmd) hf f hj, sget_sset_same hreq, rfl⟩

end

/-! ### The refresh of a folio (R177) -/

theorem markRefresh_alone {k : Nat} (hours : Option Nat) (hcopy : copyOf s k = none) :
    markRefresh s k hours = modFolio s k fun f => { f with refreshDue := true, dueHours := hours } := by
  simp [markRefresh, hcopy]

/-- A copy is being programmed or collated: it does not serve. -/
theorem copyOf_not_serving {k c : Nat} (hcopy : copyOf s k = some c) : (folioAt s c).st ≠ .serving := by
  have hc := List.find?_some hcopy
  simp only [Bool.and_eq_true, Bool.or_eq_true, beq_iff_eq] at hc
  rcases hc.2 with h | h <;> simp [h]

/-- A deep-collation copy of a serving folio counts as a refresh once one is asked for. -/
theorem markRefresh_joins {k c : Nat} (hf : s.foliosOk) (hours : Option Nat) (hst : (folioAt s k).st = .serving) (hcopy : copyOf s k = some c)
    (hdeep : (folioAt s c).purpose = .deep) :
    (markRefresh s k hours).regs = s.regs ∧ folioAt (markRefresh s k hours) k = { folioAt s k with refreshDue := true, dueHours := hours } ∧
      folioAt (markRefresh s k hours) c = { folioAt s c with purpose := .refresh } ∧
      ∀ j, j ≠ k → j ≠ c → folioAt (markRefresh s k hours) j = folioAt s j := by
  have hne : c ≠ k := fun h => copyOf_not_serving hcopy (h ▸ hst)
  have hf1 : (modFolio s k fun f => { f with refreshDue := true, dueHours := hours }).foliosOk := foliosOk_modFolio hf ..
  simp only [markRefresh, hcopy]
  refine ⟨rfl, ?_, ?_, fun j hjk hjc => ?_⟩
  · rw [folioAt_modFolio_ne hf1 _ hne.symm, folioAt_modFolio hf]
  · rw [folioAt_modFolio hf1, folioAt_modFolio_ne hf _ hne]
    simp [hdeep]
  · rw [folioAt_modFolio_ne hf1 _ hjc, folioAt_modFolio_ne hf _ hjk]

/-! ### The four requests (R184) -/

section
variable {h tag : Nat}

theorem requests_busy (hr : s.regsOk) (hp : unpowered s = false) (hpend : requestPending s h = true) :
    requestRefused s (.reqSweep h tag) h 1 ∧ requestRefused s (.reqDeep h tag) h 1 ∧ requestRefused s (.reqRefresh h tag) h 1 ∧
      ∀ ok, requestRefused s (.reqCheckpoint h tag ok) h 1 := by
  refine ⟨?_, ?_, ?_, fun ok => ?_⟩ <;> refine requestRefused_of_result hr (by decide) (congrArg Host.Outcome.next ?_)
  · exact request_busy hp hpend
  · exact request_busy hp hpend
  · exact request_busy hp hpend
  · simp [hp, hpend]

/-- A serving folio with its archive copy may be copied where a spare and the activity allow. -/
theorem copyFault_none {bit : FieldRef} {act : Nat} (hst : (folioAt s (selectedFolio s h)).st = .serving)
    (harch : archiveHere s (folioAt s (selectedFolio s h)).region = true) (hspare : usableSpares s (selectedFolio s h / 68) ≠ [])
    (hon : activityOn s bit act = true) : copyFault s h bit act (folioAt s (selectedFolio s h)) = none := by
  simp [copyFault, hst, harch, hspare, hon]

section
variable (hr : s.regsOk) (hp : unpowered s = false) (hpend : requestPending s h = false)
include hr hp hpend

/-- A copy is made only of a folio that serves. -/
theorem copyRequests_refused (hst : (folioAt s (selectedFolio s h)).st ≠ .serving) :
    requestRefused s (.reqDeep h tag) h 2 ∧ requestRefused s (.reqRefresh h tag) h 2 := by
  have hfault (bit : FieldRef) (act : Nat) : copyFault s h bit act (folioAt s (selectedFolio s h)) = some 2 := by simp [copyFault, hst]
  exact ⟨requestRefused_of_result hr (by decide) (congrArg _ (request_refused hp hpend (hfault _ 4))),
    requestRefused_of_result hr (by decide) (congrArg _ (request_refused hp hpend (hfault _ 1)))⟩

/-- A sweep is of a folio that serves or collates. -/
theorem reqSweep_refused (hserve : (folioAt s (selectedFolio s h)).st ≠ .serving) (hcollate : (folioAt s (selectedFolio s h)).st ≠ .collating) :
    requestRefused s (.reqSweep h tag) h 2 :=
  requestRefused_of_result hr (by decide) (congrArg _ (request_refused hp hpend (by simp [hserve, hcollate])))

variable (hf : s.foliosOk) (htag : tag < 2 ^ 16) (hst : (folioAt s (selectedFolio s h)).st = .serving)
  (harch : archiveHere s (folioAt s (selectedFolio s h)).region = true)
include hf htag hst harch

/-- A REFRESH marks the deep-collation copy that runs too, which serves both (R177). -/
theorem reqRefresh_joins {c : Nat} (hspare : usableSpares s (selectedFolio s h / 68) ≠ []) (hon : activityOn s (Reg.COL_CTRL.REFRESH_EN h) 1 = true)
    (hcopy : copyOf s (selectedFolio s h) = some c) (hdeep : (folioAt s c).purpose = .deep) :
    ∃ t, exec (.reqRefresh h tag) s = .next t ∧ requestShown s t h 0 tag ∧
      folioAt t (selectedFolio s h) = { folioAt s (selectedFolio s h) with refreshDue := true, dueHours := none } ∧
      folioAt t c = { folioAt s c with purpose := .refresh } ∧ ∀ j, j ≠ selectedFolio s h → j ≠ c → folioAt t j = folioAt s j := by
  obtain ⟨hregs, hkey, hc, hrest⟩ := markRefresh_joins (s := requestHeld s h tag 3) hf none hst hcopy hdeep
  exact ⟨markRefresh (requestHeld s h tag 3) (selectedFolio s h) none,
    congrArg Host.Outcome.next (request_accepted hp hpend (copyFault_none hst harch hspare hon)), (requestTagged_shown hr htag).of_regs hregs, hkey, hc, hrest⟩

variable (hreq : swf (fun _ => none) s.col.request = true)
include hreq

theorem reqSweep_taken (hon : activityOn s (Reg.COL_CTRL.ACTIVE_EN h) 3 = true) :
    requestTaken s (.reqSweep h tag) h tag 1 { folioAt s (selectedFolio s h) with sweepPending := true } :=
  requestTaken_of_mark (f := fun f => { f with sweepPending := true }) hr hf htag hreq
    (congrArg _ (request_accepted hp hpend (by simp [hst, harch, hon])))

theorem reqDeep_taken (hspare : usableSpares s (selectedFolio s h / 68) ≠ []) (hon : activityOn s (Reg.COL_CTRL.DEEP_EN h) 4 = true) :
    requestTaken s (.reqDeep h tag) h tag 2 { folioAt s (selectedFolio s h) with deepPending := true } :=
  requestTaken_of_mark (f := fun f => { f with deepPending := true }) hr hf htag hreq
    (congrArg _ (request_accepted hp hpend (copyFault_none hst harch hspare hon)))

/-- With no copy of the folio under way it is marked alone. -/
theorem reqRefresh_taken (hspare : usableSpares s (selectedFolio s h / 68) ≠ []) (hon : activityOn s (Reg.COL_CTRL.REFRESH_EN h) 1 = true)
    (hcopy : copyOf s (selectedFolio s h) = none) :
    requestTaken s (.reqRefresh h tag) h tag 3 { folioAt s (selectedFolio s h) with refreshDue := true, dueHours := none } :=
  requestTaken_of_mark (f := fun f => { f with refreshDue := true, dueHours := none }) hr hf htag hreq
    (congrArg _ ((request_accepted hp hpend (copyFault_none hst harch hspare hon)).trans (markRefresh_alone (s := requestHeld s h tag 3) none hcopy)))

end

/-! ### Tap checkpoints (R173) -/

/-- A powered module's CHECKPOINT, with no request pending, is answered OK and writes the checkpoint. -/
theorem reqCheckpoint_writes (hr : s.regsOk) (hp : unpowered s = false) (hpend : requestPending s h = false) (htag : tag < 2 ^ 16) (ok : Bool) :
    ∃ t, exec (.reqCheckpoint h tag ok) s = .next t ∧ requestShown s t h 0 tag ∧ t.col.checkpoints = (writeCheckpoint s ok).col.checkpoints ∧
      t = { s with regs := t.regs, col := { s.col with checkpoints := t.col.checkpoints } } := by
  refine ⟨writeCheckpoint (requestTagged s h tag) ok, congrArg Host.Outcome.next ?_, (requestTagged_shown hr htag).of_regs rfl, rfl, rfl⟩
  simp only [hp, hpend, Bool.false_eq_true, if_false]
  rfl

theorem tapCheckpointTimer_writes (hp : unpowered s = false) (ok : Bool) : exec (.tapCheckpointTimer ok) s = .next (writeCheckpoint s ok) :=
  congrArg Host.Outcome.next (by simp [hp])

end

end Sys2Proof.Machine
end
end

section
/-!
PROOFS. The end of boot collation (R174, R175, R408), and with COL.REQUEST and the checkpoints the obligation on both.
-/
section
open Sys2Proof Sys2Proof.Machine
namespace Sys2Proof.Machine

variable {s t u : State}

/-! ### What boot collation leaves alone -/

/-- Between `s` and `t` collation has worked on folios: accessions, sessions, pages, commands, passes and images are as they were, a folio that had been
collated at boot still has, and the canonical forms stand. -/
structure Collated (s t : State) : Prop where
  acc : t.acc = s.acc
  work : t.atWork = s.atWork
  regsOk : t.regsOk
  foliosOk : t.foliosOk
  bootDone : ∀ k, (folioAt s k).bootDone = true → (folioAt t k).bootDone = true

theorem Collated.refl (hr : s.regsOk) (hf : s.foliosOk) : Collated s s := ⟨rfl, rfl, hr, hf, fun _ h => h⟩

theorem Collated.trans (h : Collated s t) (h' : Collated t u) : Collated s u :=
  ⟨h'.acc.trans h.acc, h'.work.trans h.work, h'.regsOk, h'.foliosOk, fun k hk => h'.bootDone k (h.bootDone k hk)⟩

/-- What collation keeps of the folios may change. -/
theorem Collated.collation (h : Collated s t) (c : Collation) : Collated s { t with col := c } := ⟨h.acc, h.work, h.regsOk, h.foliosOk, h.bootDone⟩

theorem Collated.putKhat (h : Collated s t) (k : Nat) (xs : List W32) : Collated s (putKhat t k xs) := h.collation _
theorem Collated.putOffs (h : Collated s t) (k : Nat) (xs : List Int) : Collated s (putOffs t k xs) := h.collation _
theorem Collated.restartWindow (h : Collated s t) (k : Nat) : Collated s (restartWindow t k) := h.collation _
theorem Collated.modGain (h : Collated s t) (shelf c : Nat) (f : ChainGain → ChainGain) : Collated s (modGain t shelf c f) := h.collation _

theorem Collated.fset (h : Collated s t) (f : FieldRef) (x : Nat) : Collated s (fset t f x) :=
  ⟨h.acc, h.work, regsOk_fset h.regsOk f x, h.foliosOk, h.bootDone⟩

theorem Collated.fbump (h : Collated s t) (f : FieldRef) (n : Nat) : Collated s (fbump t f n) :=
  ⟨h.acc, h.work, regsOk_fbump h.regsOk f n, h.foliosOk, h.bootDone⟩

theorem Collated.annal (h : Collated s t) (kind sev : Nat) (obj : Obj) (a0 a1 a2 : Nat) : Collated s (annal t kind sev obj a0 a1 a2) where
  acc := by rw [annal_frame]; exact h.acc
  work := (annal_atWork ..).trans h.work
  regsOk := annal_regsOk h.regsOk ..
  foliosOk := by rw [annal_frame]; exact h.foliosOk
  bootDone k hk := by rw [annal_folioAt]; exact h.bootDone k hk

/-- A change of a folio that keeps its having been collated. -/
theorem Collated.modFolio (h : Collated s t) (k : Nat) {f : Folio → Folio}
    (hf : ∀ x, x.bootDone = true → (f x).bootDone = true := by exact fun _ hx => hx) : Collated s (modFolio t k f) where
  acc := h.acc
  work := h.work
  regsOk := h.regsOk
  foliosOk := foliosOk_modFolio h.foliosOk k f
  bootDone j hj := by
    by_cases hjk : j = k
    · rw [hjk, folioAt_modFolio h.foliosOk]
      exact hf _ (hjk ▸ h.bootDone j hj)
    · rw [folioAt_modFolio_ne h.foliosOk f hjk]
      exact h.bootDone j hj

/-- A walk whose every step only works on folios. -/
theorem Collated.foldl {α : Type} (h : Collated s t) {f : State → α → State} (hf : ∀ u x, Collated s u → Collated s (f u x)) (l : List α) :
    Collated s (l.foldl f t) := by
  induction l generalizing t with
  | nil => exact h
  | cons x xs ih => exact ih (hf t x h)

/-! ### The batch of a folio's stage (R174) -/

theorem Collated.countSat (h : Collated s t) (key region layer : Nat) (cs : List Conv) : Collated s (countSat t key region layer cs) := by
  have hcounted := h.fbump (Reg.SHF_SAT_COUNT.COUNT (hallOf (key / 68))) (cs.filter (·.sat)).length
  have harr (sats satOver) : Collated s
      { Machine.fbump t (Reg.SHF_SAT_COUNT.COUNT (hallOf (key / 68))) (cs.filter (·.sat)).length with arr := { t.arr with sats := sats, satOver := satOver } } :=
    ⟨hcounted.acc, hcounted.work, hcounted.regsOk, hcounted.foliosOk, hcounted.bootDone⟩
  unfold Machine.countSat
  dsimp only
  split
  · exact (harr ..).annal ..
  · exact harr ..

theorem Collated.engineStrike (h : Collated s t) (k : Nat) (rows : List Nat) : Collated s (engineStrike t k rows).2 := by
  have hdrawn : Collated s { t with free := t.free + 1 } := ⟨h.acc, h.work, h.regsOk, h.foliosOk, h.bootDone⟩
  exact (hdrawn.countSat ..).fset ..

theorem Collated.momentsOf (h : Collated s t) (k : Nat) (b : Bytes) : Collated s (momentsOf t k b).2 := by
  refine List.foldlRecOn (motive := fun a : Sparse Int × State => Collated s a.2) _ _ h fun a ha n _ => ?_
  dsimp only
  exact ha.engineStrike k _

theorem Collated.markRefresh (h : Collated s t) (k : Nat) (hours : Option Nat) : Collated s (markRefresh t k hours) := by
  have hdue := h.modFolio k (f := fun f => { f with refreshDue := true, dueHours := hours })
  unfold Machine.markRefresh
  split
  · refine hdue.modFolio _ fun x hx => ?_
    split <;> exact hx
  · exact hdue

theorem Collated.checkDrift (h : Collated s t) (k : Nat) : Collated s (checkDrift t k) := by
  unfold Machine.checkDrift
  split
  · exact h.markRefresh ..
  · exact h

theorem Collated.bootFit (h : Collated s t) (hours : Option Nat) (k : Nat) : Collated s (bootFit hours t k) := by
  unfold Machine.bootFit
  split
  · exact h
  · exact (((((h.momentsOf k _).putKhat ..).putOffs ..).collation _).modFolio k).checkDrift k

/-! ### The taps of a folio (R175) -/

theorem Collated.switchBank (h : Collated s t) (k : Nat) : Collated s (switchBank t k) :=
  ((((h.putKhat ..).putOffs ..).modFolio k).fbump ..).restartWindow k

theorem Collated.noteLimits (h : Collated s t) (k : Nat) (b : Sparse W32) : Collated s (noteLimits t k b) := by
  unfold Machine.noteLimits
  split
  · exact h.modFolio k
  · exact h

theorem Collated.countWide (h : Collated s t) (k : Nat) : Collated s (countWide t k) := by
  unfold Machine.countWide
  split
  · exact h
  · dsimp only
    split
    · exact (h.foldl (fun u x hu => hu.modGain ..) _).foldl (fun u x hu => hu.modFolio _) _
    · exact h.foldl (fun u x hu => hu.modGain ..) _

/-- The folio as its taps are taken: collated at boot, and failed where a fitted gain lies outside its range. -/
def bootMarked (s : State) (k : Nat) (bad : Bool) : State := modFolio s k fun f => { f with bootDone := true, failed := f.failed || bad }

theorem bootTaps_marked (hr : s.regsOk) (hf : s.foliosOk) (k : Nat) : ∃ bad, Collated (bootMarked s k bad) (bootTaps s k) := by
  refine ⟨(List.range 512).any fun j => ltRat (khatOf s k j) 80 100 || gtRat (khatOf s k j) 125 100, ?_⟩
  unfold bootTaps
  dsimp only
  generalize (List.range 512).any _ = bad
  have hmarked : Collated (bootMarked s k bad) (bootMarked s k bad) := .refl hr (foliosOk_modFolio hf ..)
  have hshadow (b : Sparse W32) (f : Folio) (hdone : f.bootDone = true) : (putShadow f b).bootDone = true := by
    unfold putShadow
    split <;> exact hdone
  split
  · exact hmarked
  · exact (((hmarked.modFolio k (hshadow _)).switchBank k).noteLimits k _).countWide k

/-- A folio that has taken its taps has been collated at boot, whether or not its taps are new. -/
theorem bootTaps_collated (hr : s.regsOk) (hf : s.foliosOk) (k : Nat) : Collated s (bootTaps s k) ∧ (folioAt (bootTaps s k) k).bootDone = true := by
  obtain ⟨bad, htaps⟩ := bootTaps_marked hr hf k
  exact ⟨((Collated.refl hr hf).modFolio k fun _ _ => rfl).trans htaps, htaps.bootDone k (by rw [bootMarked, folioAt_modFolio hf])⟩

theorem foldl_bootTaps_collated (hr : s.regsOk) (hf : s.foliosOk) (ks : List Nat) :
    Collated s (ks.foldl bootTaps s) ∧ ∀ k ∈ ks, (folioAt (ks.foldl bootTaps s) k).bootDone = true := by
  induction ks generalizing s with
  | nil => exact ⟨.refl hr hf, fun k hk => absurd hk List.not_mem_nil⟩
  | cons k ks ih =>
    obtain ⟨hk, hdone⟩ := bootTaps_collated hr hf k
    obtain ⟨hks, hrest⟩ := ih hk.regsOk hk.foliosOk
    rw [List.foldl_cons]
    exact ⟨hk.trans hks, List.forall_mem_cons.mpr ⟨hks.bootDone k hdone, hrest⟩⟩

/-! ### The gains of a region (R166) -/

theorem Collated.markFailed (h : Collated s t) (ks : List Nat) : Collated s (markFailed t ks) := h.foldl (fun _ k hu => hu.modFolio k) ks

theorem Collated.deriveGain (h : Collated s t) (shelf c : Nat) : Collated s (deriveGain t shelf c) := (h.markFailed _).modGain ..

theorem Collated.deriveGains (h : Collated s t) (r : Nat) : Collated s (deriveGains t r) :=
  h.foldl (fun _ shelf hu => hu.foldl (fun _ c hv => hv.deriveGain shelf c) _) _

/-! ### RST.STATUS as regions become ready (R408, R409) -/

/-- The regions that boot collation holds. -/
def heldRegions (s : State) : List Nat := (List.range 16).filter fun r => (accOf s r).holdBoot

/-- REGION_READY: every region but the held ones. -/
def regionsReady (s : State) : Nat := 0xFFFF - ((heldRegions s).map fun r => 2 ^ r).sum

/-- Is READY to be shown now: no region is held, and it does not stand yet? -/
def readyNow (s : State) : Bool := (heldRegions s).isEmpty && fget s Reg.RST_STATUS.READY == 0

/-- What is written of RST.STATUS and RST.TIMES. -/
def readyWrites (s : State) : List (FieldRef × Nat) :=
  if readyNow s then
    [(Reg.RST_STATUS.REGION_READY, regionsReady s), (Reg.RST_STATUS.READY, 1), (Reg.RST_STATUS.STEP, 12),
      (Reg.RST_TIMES.COLLATION_MS, s.clk.tick / 1000), (Reg.RST_TIMES.READY_MS, s.clk.bootMs + s.clk.tick / 1000)]
  else [(Reg.RST_STATUS.REGION_READY, regionsReady s)]

theorem showReady_eq (s : State) : showReady s = setFields s (readyWrites s) := by
  rw [readyWrites, apply_ite (setFields s)]
  rfl

theorem readyWrites_apart (s : State) : FieldsApart ((readyWrites s).map Prod.fst) := by
  unfold readyWrites
  split
  · exact (by decide : FieldsApart
      [Reg.RST_STATUS.REGION_READY, Reg.RST_STATUS.READY, Reg.RST_STATUS.STEP, Reg.RST_TIMES.COLLATION_MS, Reg.RST_TIMES.READY_MS])
  · exact (by decide : FieldsApart [Reg.RST_STATUS.REGION_READY])

theorem regionReady_mem_readyWrites (s : State) : (Reg.RST_STATUS.REGION_READY, regionsReady s) ∈ readyWrites s := by
  unfold readyWrites
  split <;> exact List.mem_cons_self

theorem regionsReady_testBit {r : Nat} (hr : r < 16) : (regionsReady s).testBit r = !(accOf s r).holdBoot := by
  have hsum : ((heldRegions s).map fun r => 2 ^ r).sum = ((List.range 16).map fun r => if (accOf s r).holdBoot then 2 ^ r else 0).sum := by
    simp [heldRegions, List.sum_map_ite]
  obtain ⟨hlt, hbits⟩ := maskSum_bits (fun r => (accOf s r).holdBoot) 16
  have hsub (m : Nat) : 0xFFFF - m = 2 ^ 16 - (m + 1) := by omega
  rw [regionsReady, hsum, hsub, Nat.testBit_two_pow_sub_succ hlt, hbits]
  simp [hr]

theorem regionsReady_lt (s : State) : regionsReady s < 2 ^ 16 := by
  unfold regionsReady
  omega

theorem fget_showReady_regionReady (hr : s.regsOk) : fget (showReady s) Reg.RST_STATUS.REGION_READY = regionsReady s := by
  rw [showReady_eq, fget_setFields hr (readyWrites_apart s) (regionReady_mem_readyWrites s)]
  exact Nat.mod_eq_of_lt (regionsReady_lt s)

/-- Once no region is held READY stands. -/
theorem fget_showReady_ready (hr : s.regsOk) (hnone : heldRegions s = []) : fget (showReady s) Reg.RST_STATUS.READY = 1 := by
  rw [showReady_eq]
  by_cases hready : fget s Reg.RST_STATUS.READY = 0
  · exact fget_setFields (x := 1) hr (readyWrites_apart s) (by simp [readyWrites, readyNow, hnone, hready])
  · have hlt : fget s Reg.RST_STATUS.READY < 2 := nbits_lt ..
    rw [fget_setFields_other hr (by decide) (by simp [readyWrites, readyNow, hready]; decide)]
    omega

/-! ### BOOT_COLLATION_COMPLETE (R174, R175) -/

/-- The serving folios of a region. -/
def servingFolios (s : State) (r : Nat) : List Nat := (s.arr.folios.filter fun e => e.2.st == .serving && e.2.region == r).map (·.1)

/-- The halls' temperatures are kept. -/
def keepTemps (s : State) (temps : List Int) : State :=
  { s with col := { s.col with
      temps := temps.zipIdx.foldl (fun m t => if t.2 < 4 then sset (fun _ => (0 : Int)) m t.2 t.1 else m) s.col.temps } }

/-- The module with a region's serving folios struck, fitted and given their taps, and its gains set. -/
def bootCollated (s : State) (r : Nat) (hours : Option Nat) (temps : List Int) : State :=
  deriveGains ((servingFolios s r).foldl bootTaps ((servingFolios s r).foldl (bootFit hours) (keepTemps s temps))) r

theorem bootCollated_collated (hr : s.regsOk) (hf : s.foliosOk) (r : Nat) (hours : Option Nat) (temps : List Int) :
    Collated s (bootCollated s r hours temps) ∧ ∀ k ∈ servingFolios s r, (folioAt (bootCollated s r hours temps) k).bootDone = true := by
  have hfits : Collated s ((servingFolios s r).foldl (bootFit hours) (keepTemps s temps)) :=
    ((Collated.refl hr hf).collation _).foldl (fun _ k hu => hu.bootFit hours k) _
  obtain ⟨htaps, hdone⟩ := foldl_bootTaps_collated hfits.regsOk hfits.foliosOk (servingFolios s r)
  have hgains := (Collated.refl htaps.regsOk htaps.foliosOk).deriveGains r
  exact ⟨(hfits.trans htaps).trans hgains, fun k hk => hgains.bootDone k (hdone k hk)⟩

/-- A region's hold has ended. -/
def bootReleased (s : State) (r : Nat) : State := modAcc s r fun a => { a with holdBoot := false, ready := true }

/-- A region's hold has ended, and RST.STATUS shows it. -/
def bootEnded (s : State) (r : Nat) : State := showReady (bootReleased s r)

theorem exec_bootCollationComplete {r : Nat} (hp : unpowered s = false) (hheld : (accOf s r).holdBoot = true) (hours : Option Nat) (temps : List Int) :
    exec (.bootCollationComplete r hours temps) s = .next (bootEnded (bootCollated s r hours temps) r) :=
  congrArg Host.Outcome.next (by simp only [hp, hheld, Bool.not_true, Bool.or_false, Bool.false_eq_true, if_false]; rfl)

theorem exec_bootCollationComplete_waits {r : Nat} (h : unpowered s = true ∨ (accOf s r).holdBoot = false) (hours : Option Nat) (temps : List Int) :
    exec (.bootCollationComplete r hours temps) s = .next s :=
  congrArg Host.Outcome.next (if_pos (by rcases h with h | h <;> simp [h]))

/-- Showing it changes the registers alone. -/
theorem bootEnded_frame (s : State) (r : Nat) : bootEnded s r = { bootReleased s r with regs := (bootEnded s r).regs } := by
  rw [bootEnded, showReady_eq]
  exact setFields_frame ..

theorem accOf_bootEnded (s : State) (r q : Nat) : accOf (bootEnded s r) q = accOf (bootReleased s r) q := by rw [bootEnded_frame]; rfl

section
variable (ha : s.accOk) (hr : s.regsOk) {r : Nat}

theorem accOk_congr (ht : t.acc = s.acc) (ha : s.accOk) : t.accOk := by rwa [State.accOk, ht]

include ha

theorem accOf_bootReleased : accOf (bootReleased s r) r = { accOf s r with holdBoot := false, ready := true } := accOf_modAcc ha r _

theorem accOf_bootReleased_ne {q : Nat} (hq : q ≠ r) : accOf (bootReleased s r) q = accOf s q := accOf_modAcc_ne ha _ hq

include hr

/-- The region's bit of REGION_READY stands. -/
theorem bootEnded_regionReady (hr16 : r < 16) : (fget (bootEnded s r) Reg.RST_STATUS.REGION_READY).testBit r = true := by
  have hshown : fget (bootEnded s r) Reg.RST_STATUS.REGION_READY = regionsReady (bootReleased s r) := fget_showReady_regionReady hr
  rw [hshown, regionsReady_testBit hr16, accOf_bootReleased ha]
  rfl

/-- The last hold to end leaves the whole module READY. -/
theorem bootEnded_ready (hfree : ∀ q < 16, q ≠ r → (accOf s q).holdBoot = false) :
    fget (bootEnded s r) Reg.RST_STATUS.READY = 1 ∧ fget (bootEnded s r) Reg.RST_STATUS.REGION_READY = 0xFFFF := by
  have hregs : (bootReleased s r).regsOk := hr
  have hnone : heldRegions (bootReleased s r) = [] := by
    simp only [heldRegions, List.filter_eq_nil_iff, List.mem_range]
    intro q hq
    by_cases hqr : q = r
    · simp [hqr, accOf_bootReleased ha]
    · simp [accOf_bootReleased_ne ha hqr, hfree q hq hqr]
  refine ⟨fget_showReady_ready hregs hnone, (fget_showReady_regionReady hregs).trans ?_⟩
  rw [regionsReady, hnone]
  rfl

end

/-- Settles O37: a request is refused with its code (`requestRefused_of_result`), or accepted, pending and marked on its folio (`requestTaken_of_mark`,
`reqRefresh_joins`); the end of boot collation works on the region's folios and gains alone (`bootCollated_collated`) before it ends the region's hold
(`bootEnded_regionReady`). -/
theorem collationRequestsAndBoot : Obligations.CollationRequestsAndBoot := by
  unfold Obligations.CollationRequestsAndBoot
  refine ⟨fun h tag s hf hr _ htag hp hreq => ?_, fun r hours temps s ha hr hf hr16 => ?_⟩
  · intro key f shown old refused taken banks kept
    refine ⟨requests_busy hr hp, fun hpend => ⟨copyRequests_refused hr hp hpend, reqSweep_refused hr hp hpend, fun hst harch => ?_,
      reqCheckpoint_writes hr hp hpend htag⟩, tapCheckpointTimer_writes hp⟩
    exact ⟨reqSweep_taken hr hp hpend hf htag hst harch hreq, reqDeep_taken hr hp hpend hf htag hst harch hreq, fun hspare hon =>
      ⟨reqRefresh_taken hr hp hpend hf htag hst harch hreq hspare hon, fun _ => reqRefresh_joins hr hp hpend hf htag hst harch hspare hon⟩⟩
  · refine ⟨fun hwaits => exec_bootCollationComplete_waits hwaits hours temps, fun hp hheld => ?_⟩
    obtain ⟨hc, hdone⟩ := bootCollated_collated hr hf r hours temps
    have hac : (bootCollated s r hours temps).accOk := accOk_congr hc.acc ha
    have hsame (q : Nat) : accOf (bootCollated s r hours temps) q = accOf s q := congrArg (sget (fun _ => freshAcc) · q) hc.acc
    obtain ⟨hkv, hitk, hrun, himg⟩ := atWork_eq ((congrArg State.atWork (bootEnded_frame _ r)).trans hc.work)
    refine ⟨_, exec_bootCollationComplete hp hheld hours temps, ?_, fun q hq => ?_, fun e he hst hreg => ?_,
      bootEnded_regionReady hac hc.regsOk hr16, hkv, hitk, hrun, himg, fun hfree => bootEnded_ready hac hc.regsOk fun q hq hne => ?_⟩
    · rw [accOf_bootEnded, accOf_bootReleased hac, hsame]
    · rw [accOf_bootEnded, accOf_bootReleased_ne hac hq, hsame]
    · have hserves : e.1 ∈ servingFolios s r := List.mem_map_of_mem (List.mem_filter.mpr ⟨he, by simp [hst, hreg]⟩)
      rw [bootEnded_frame]
      exact hdone e.1 hserves
    · rw [hsame, hfree q hq hne]

end Sys2Proof.Machine
end
end

section
/-!
PROOFS. What the commands on an accession change (R199, R215): the region's accession, their own completions, and a record of every result but OK.
-/
section
open Sys2Proof Sys2Proof.Machine
namespace Sys2Proof.Machine

variable {s t u : State} {r : Nat}

/-! ### What a result changes -/

/-- Between `s` and `t` at most the accession of region `r`, the commands and the annals have changed, and the canonical forms stand. -/
structure AccOnly (r : Nat) (s t : State) : Prop where
  frame : t = { s.withRegs t with acc := t.acc, itk := { s.itk with cmds := t.itk.cmds } }
  regsOk : t.regsOk
  regs : s.regsFrom t []
  accOk : t.accOk
  others : accFrom s t r

theorem AccOnly.refl (ha : s.accOk) (hr : s.regsOk) : AccOnly r s s := ⟨rfl, hr, fun _ _ _ => rfl, ha, fun _ _ => rfl⟩

theorem AccOnly.trans (h : AccOnly r s t) (h' : AccOnly r t u) : AccOnly r s u where
  frame := by rw [h'.frame, h.frame]; rfl
  regsOk := h'.regsOk
  regs b hb hann := (h'.regs b hb hann).trans (h.regs b hb hann)
  accOk := h'.accOk
  others q hq := (h'.others q hq).trans (h.others q hq)

theorem AccOnly.modAcc (h : AccOnly r s t) (f : Acc → Acc) : AccOnly r s (modAcc t r f) :=
  h.trans ⟨rfl, h.regsOk, fun _ _ _ => rfl, accOk_modAcc h.accOk r f, fun _ hq => accOf_modAcc_ne h.accOk f hq⟩

theorem AccOnly.finish (h : AccOnly r s t) (c q st v : Nat) : AccOnly r s (finish t c q st v) :=
  h.trans ⟨rfl, h.regsOk, fun _ _ _ => rfl, h.accOk, fun _ _ => rfl⟩

theorem AccOnly.annal (h : AccOnly r s t) (kind sev : Nat) (obj : Obj) (a0 a1 a2 : Nat) : AccOnly r s (annal t kind sev obj a0 a1 a2) := by
  refine h.trans ⟨?_, annal_regsOk h.regsOk .., fun b _ hann => annal_rget h.regsOk _ _ _ _ _ _ hann, ?_, fun q _ => ?_⟩
  · rw [annal_frame]; rfl
  · rw [annal_frame]; exact h.accOk
  · rw [annal_frame]; rfl

theorem AccOnly.accNote (h : AccOnly r s t) (code : Nat) (m : Option Manifest) : AccOnly r s (accNote t r code m) := by
  unfold Machine.accNote
  dsimp only
  split
  · exact h.modAcc _
  · exact (h.modAcc _).annal ..

theorem AccOnly.accDone (h : AccOnly r s t) (q code : Nat) (m : Option Manifest) : AccOnly r s (accDone t q r code m) := (h.accNote code m).finish ..

theorem accOf_accNote (ha : s.accOk) (code : Nat) (m : Option Manifest) : accOf (accNote s r code m) r = { accOf s r with lastResult := code } := by
  unfold accNote
  dsimp only
  split
  · exact accOf_modAcc ha r _
  · rw [annal_frame]
    exact (accOf_modAcc ha r fun a => { a with lastResult := code } :)

theorem accOf_accDone (ha : s.accOk) (q code : Nat) (m : Option Manifest) :
    accOf (accDone s q r code m) r = { accOf s r with lastResult := code } := accOf_accNote ha code m

/-- OK leaves no record. -/
theorem accDone_ok_ann (s : State) (q r : Nat) (m : Option Manifest) : (accDone s q r 0 m).ann = s.ann := rfl

/-- Every other result leaves one (R215). -/
theorem accDone_recorded (s : State) (q r : Nat) {code : Nat} (hcode : code ≠ 0) (m : Option Manifest) :
    recorded s (accDone s q r code m) 0x0300 3 code ((m.map (·.serial)).getD 0) ((m.map fun m => rd m.keyId 0 8).getD 0) := by
  unfold accDone accNote
  dsimp only
  rw [if_neg hcode]
  exact annal_recorded (modAcc s r _) ..

/-! ### What a result makes of the commands -/

/-- A command that has finished with a status and no VALUE. -/
def Cmd.done (k : Cmd) (st : Nat) : Cmd := { k with phase := .finished, status := st, value := 0 }

theorem findCmd_accNote (s : State) (r code : Nat) (m : Option Manifest) (c q : Nat) : findCmd (accNote s r code m) c q = findCmd s c q := by
  unfold accNote
  dsimp only
  split
  · rfl
  · rw [annal_frame]; rfl

/-- A result finishes the command that it names and leaves the others. -/
theorem findCmd_accDone (s : State) (q r code : Nat) (m : Option Manifest) (q' : Nat) :
    findCmd (accDone s q r code m) 1024 q' = if q' = q then (findCmd s 1024 q').map (·.done (accStatus code)) else findCmd s 1024 q' := by
  split
  · next h => rw [h, accDone, finish_findCmd, findCmd_accNote]; rfl
  · next h => rw [accDone, finish_findCmd_ne _ _ (by simp [h]), findCmd_accNote]

theorem accDone_finishedAs {q : Nat} {k : Cmd} (hk : findCmd s 1024 q = some k) (r code : Nat) (m : Option Manifest) :
    finishedAs (accDone s q r code m) 1024 q k (accStatus code) 0 := by
  rw [finishedAs, findCmd_accDone, if_pos rfl, hk]; rfl

/-! ### One result for several commands -/

/-- The commands `qs` of PF1 finish with one result on region `r`. -/
def accDones (s : State) (r code : Nat) (m : Option Manifest) (qs : List Nat) : State := qs.foldl (fun s q => accDone s q r code m) s

theorem AccOnly.accDones (h : AccOnly r s t) (code : Nat) (m : Option Manifest) (qs : List Nat) : AccOnly r s (accDones t r code m qs) := by
  induction qs generalizing t with
  | nil => exact h
  | cons q qs ih => exact ih (h.accDone q code m)

/-- They change of the accession at most LAST_RESULT. -/
theorem accOf_accDones (ha : s.accOk) (hr : s.regsOk) (code : Nat) (m : Option Manifest) (qs : List Nat) :
    accOf (accDones s r code m qs) r = { accOf s r with lastResult := (accOf (accDones s r code m qs) r).lastResult } := by
  induction qs generalizing s with
  | nil => rfl
  | cons q qs ih =>
    have hq := (AccOnly.refl (r := r) ha hr).accDone q code m
    refine (ih hq.accOk hq.regsOk).trans ?_
    rw [accOf_accDone ha]
    rfl

/-- The commands named have finished, the others stand. -/
theorem findCmd_accDones (s : State) (r code : Nat) (m : Option Manifest) (qs : List Nat) (q : Nat) :
    findCmd (accDones s r code m qs) 1024 q = if q ∈ qs then (findCmd s 1024 q).map (·.done (accStatus code)) else findCmd s 1024 q := by
  induction qs generalizing s with
  | nil => rfl
  | cons p qs ih =>
    have hdone (k : Cmd) : (k.done (accStatus code)).done (accStatus code) = k.done (accStatus code) := rfl
    refine (ih (accDone s p r code m)).trans ?_
    by_cases hp : q = p <;> simp [findCmd_accDone, hp, hdone, Function.comp_def]

theorem accDones_finishedAs {q : Nat} {k : Cmd} (hk : findCmd s 1024 q = some k) (r code : Nat) (m : Option Manifest) {qs : List Nat} (hq : q ∈ qs) :
    finishedAs (accDones s r code m qs) 1024 q k (accStatus code) 0 := by
  rw [finishedAs, findCmd_accDones, if_pos hq, hk]; rfl

/-- A command stands as it was, or finished. -/
theorem exists_findCmd_accDones {q : Nat} {k : Cmd} (hk : findCmd s 1024 q = some k) (r code : Nat) (m : Option Manifest) (qs : List Nat) :
    ∃ k', findCmd (accDones s r code m qs) 1024 q = some k' ∧ ∀ st, k'.done st = k.done st := by
  rw [findCmd_accDones, hk]
  split
  · exact ⟨_, rfl, fun _ => rfl⟩
  · exact ⟨k, rfl, fun _ => rfl⟩

end Sys2Proof.Machine
end
end

section
/-!
PROOFS. The commands on an accession: ACC_BEGIN, ACC_SHARD, ACC_COMMIT and ACC_CANCEL (R197, R199, R209, R215).
-/
section
open Sys2Proof Sys2Proof.Machine
namespace Sys2Proof.Machine

variable {s t : State} {r seq : Nat} {k : Cmd}

/-! ### ACC_BEGIN (R197, R213) -/

/-- A result and the accession that stands with it: none with a refusal; with OK one that has just begun on its manifest. -/
inductive Begins (mode : Nat) : Nat × Option Manifest × Option Acc → Prop
  | refused {code : Nat} {m : Option Manifest} (h : code ≠ 0) : Begins mode (code, m, none)
  | begun {m : Manifest} {b : Acc} (hphase : b.phase = if mode = 3 then .restoring else .receiving) (hm : b.manifest = some m) (hs : b.shards = []) :
      Begins mode (0, some m, some b)

theorem trustFault_ne_zero {b : Bytes} {e : Nat} (h : trustFault s b = some e) : e ≠ 0 := by
  unfold trustFault at h
  dsimp only at h
  split at h
  · cases h; decide
  · split at h
    · cases h; decide
    · cases h

/-- A check refuses with its code, or the next one follows. -/
theorem Begins.check {mode code : Nat} {m : Option Manifest} {c : Prop} [Decidable c] {x : Nat × Option Manifest × Option Acc} (hx : Begins mode x)
    (h : code ≠ 0 := by decide) : Begins mode (if c then (code, m, none) else x) := iteInduction (fun _ => .refused h) fun _ => hx

/-- ACC_BEGIN refuses at each of its checks, and begins behind the last. -/
theorem beginAcc_begins (s : State) (body : Bytes) (f : Fetch) : Begins (rd body 1 1) (beginAcc s body f) := by
  unfold beginAcc
  extract_lets +onlyGivenNames r mode a
  refine .check <| .check <| .check ?_
  cases f with
  | data b =>
    dsimp only
    refine .check ?_
    cases htrust : trustFault s b with
    | some e => exact .refused (trustFault_ne_zero htrust)
    | none =>
      cases s.img.bound.region? r with
      | none => exact .refused (by decide)
      | some g =>
        dsimp only
        refine .check <| .check <| .check <| iteInduction (fun hmode => ?_) fun hmode => ?_
        · exact .check <| .check <| .begun (if_pos hmode).symm rfl rfl
        · cases chooseHousing s g mode with
          | none => exact .refused (by decide)
          | some h => exact .check <| .begun (if_neg hmode).symm rfl rfl
  | _ => exact .refused (by decide)

theorem beginAcc_busy {body : Bytes} (h : beginBusy s (rd body 0 1) = true) (f : Fetch) : beginAcc s body f = (1, none, none) := by
  simp [beginAcc, h]

theorem beginAcc_untrusting {body : Bytes} (h : beginBusy s (rd body 0 1) = false) (hp : s.img.bound.publishers = []) (f : Fetch) :
    beginAcc s body f = (2, none, none) := by
  simp [beginAcc, h, hp]

/-- The accession that ACC_BEGIN chose, where it chose one, stands. -/
def beginStands (s : State) (r : Nat) : Option Acc → State
  | some a => modAcc s r fun _ => a
  | none => s

theorem AccOnly.beginStands (h : AccOnly r s t) (x : Option Acc) : AccOnly r s (beginStands t r x) := by
  cases x with
  | none => exact h
  | some a => exact h.modAcc _

theorem accOf_beginStands (ha : s.accOk) (x : Option Acc) : accOf (beginStands s r x) r = x.getD (accOf s r) := by
  cases x with
  | none => rfl
  | some a => exact accOf_modAcc ha r _

theorem findCmd_beginStands (s : State) (r : Nat) (x : Option Acc) (c q : Nat) : findCmd (beginStands s r x) c q = findCmd s c q := by
  cases x <;> rfl

theorem beginStands_ann (s : State) (r : Nat) (x : Option Acc) : (beginStands s r x).ann = s.ann ∧ (beginStands s r x).clk = s.clk := by
  cases x <;> exact ⟨rfl, rfl⟩

theorem AccOnly.armTimer (h : AccOnly r s t) : AccOnly r s (armTimer t r) := h.modAcc _

/-- A record is one of the annals and the tick before it alone. -/
theorem recorded_congr {u : State} {kind sev a0 a1 a2 : Nat} (hann : u.ann = s.ann) (hclk : u.clk = s.clk) (h : recorded u t kind sev a0 a1 a2) :
    recorded s t kind sev a0 a1 a2 := by
  unfold recorded at h ⊢
  rwa [hann, hclk] at h

/-! ### How an accession ends (R199, R215) -/

/-- The commands that wait on an accession: its ACC_COMMIT and the ACC_SHARDs whose fetches are outstanding. -/
def Acc.waiting (a : Acc) : List Nat := a.commitSeq.toList ++ a.fetches.map (·.seq)

theorem Acc.mem_waiting {a : Acc} {q : Nat} : q ∈ a.waiting ↔ a.commitSeq = some q ∨ ∃ x ∈ a.fetches, x.seq = q := by simp [Acc.waiting]

/-- An accession that has ended in a phase. -/
def Acc.over (a : Acc) (ph : AccPhase) : Acc :=
  { a with
    phase := if a.restore then .idle else ph, manifest := none, shards := [], fetches := [], targets := [], timer := none
    inPlace := false, restore := false, newHousing := [], commitSeq := none }

/-- An accession whose targets are none has no folios to give back. -/
theorem abandonIncoming_of_noTargets (h : (accOf s r).targets = []) : abandonIncoming s r = s := by simp [abandonIncoming, h]

theorem endAcc_of_noTargets (ha : s.accOk) (hr : s.regsOk) (h : (accOf s r).targets = []) (code : Nat) (ph : AccPhase) :
    endAcc s r code ph = modAcc (accDones s r code (accOf s r).manifest (accOf s r).waiting) r (·.over ph) := by
  have hkept : (accOf (releaseAcc s r code) r).targets = [] := (congrArg Acc.targets (accOf_accDones ha hr code _ _)).trans h
  unfold endAcc
  rw [abandonIncoming_of_noTargets hkept]
  rfl

/-! ### The commands -/

section
variable (ha : s.accOk) (hr : s.regsOk) (hk : findCmd s 1024 seq = some k) (hph : k.phase = .begun)
include hk hph

theorem exec_accBegin (hop : k.op = 0x20) (f : Fetch) : exec (.accBegin seq f) s =
    .next (accDone (armTimer (beginStands s (rd k.body 0 1) (beginAcc s k.body f).2.2) (rd k.body 0 1)) seq (rd k.body 0 1)
      (beginAcc s k.body f).1 (beginAcc s k.body f).2.1) := by
  show execAccBegin seq f s = _
  simp only [execAccBegin, cmdIn_found hk hph hop]
  rfl

include ha hr in
/-- With OK the accession that the checks chose stands; whatever the result, it is LAST_RESULT, and any but OK is recorded. -/
theorem accBegin_answers (hop : k.op = 0x20) (f : Fetch) :
    let r := rd k.body 0 1
    let x := beginAcc s k.body f
    ∃ t, exec (.accBegin seq f) s = .next t ∧ finishedAs t 1024 seq k (accStatus x.1) 0 ∧
      accOf t r = { x.2.2.getD (accOf s r) with lastResult := x.1, timer := (accOf t r).timer } ∧ AccOnly r s t ∧ (x.1 = 0 → t.ann = s.ann) ∧
      (x.1 ≠ 0 → recorded s t 0x0300 3 x.1 ((x.2.1.map (·.serial)).getD 0) ((x.2.1.map fun m => rd m.keyId 0 8).getD 0)) := by
  intro r x
  have hexec : exec (.accBegin seq f) s = .next (accDone (armTimer (beginStands s r x.2.2) r) seq r x.1 x.2.1) := exec_accBegin hk hph hop f
  clear_value r x
  have hstands := (AccOnly.refl (r := r) ha hr).beginStands x.2.2
  have harmed := hstands.armTimer
  obtain ⟨hann, hclk⟩ := beginStands_ann s r x.2.2
  have hfound : findCmd (armTimer (beginStands s r x.2.2) r) 1024 seq = some k := (findCmd_beginStands s r x.2.2 1024 seq).trans hk
  refine ⟨_, hexec, ?_, ?_, harmed.accDone .., fun hok => ?_, fun hbad => ?_⟩
  · exact accDone_finishedAs hfound r x.1 x.2.1
  · rw [accOf_accDone harmed.accOk, armTimer, accOf_modAcc hstands.accOk, accOf_beginStands ha]
  · rw [hok, accDone_ok_ann]
    exact hann
  · exact recorded_congr (u := armTimer (beginStands s r x.2.2) r) hann hclk (accDone_recorded _ seq r hbad x.2.1)

/-- The accession with the fetch of a shard begun: one that was paused goes on, and no timer runs while the fetch is outstanding. -/
def shardAsked (s : State) (a : Acc) (seq i addr : Nat) : Acc :=
  { a with
    phase := if a.phase = .paused then (if a.restore then .restoring else .receiving) else a.phase
    fetches := a.fetches ++ [⟨seq, i, addr, false, 1, shardDue s⟩], timer := none }

include ha in
omit hk hph in
theorem accOf_shardAsked (r i addr : Nat) :
    accOf (armTimer (modAcc s r fun a => { a with
      phase := if a.phase == .paused then (if a.restore then .restoring else .receiving) else a.phase
      fetches := a.fetches ++ [⟨seq, i, addr, false, 1, shardDue s⟩] }) r) r = shardAsked s (accOf s r) seq i addr := by
  rw [armTimer, accOf_modAcc (accOk_modAcc ha ..), accOf_modAcc ha]
  simp [shardAsked]

include ha hr in
theorem exec_accShard (hop : k.op = 0x21) {m : Manifest} (hm : (accOf s (rd k.body 0 1)).manifest = some m)
    (htakes : takesShards (accOf s (rd k.body 0 1)) = true) (hbulk : (rd k.body 1 1).testBit 0 = false)
    (hlen : m.shards[rd k.body 4 4]?.map (·.1) = some (rd k.body 0x10 4))
    (hnew : sget (fun _ => ([] : Bytes)) (accOf s (rd k.body 0 1)).shards (rd k.body 4 4) = []) :
    ∃ t, exec (.accShard seq) s = .next t ∧ t = { s with acc := t.acc } ∧ accFrom s t (rd k.body 0 1) ∧
      accOf t (rd k.body 0 1) = shardAsked s (accOf s (rd k.body 0 1)) seq (rd k.body 4 4) (rd k.body 8 8) := by
  have hexec : exec (.accShard seq) s = .next (armTimer (modAcc s (rd k.body 0 1) fun a => { a with
      phase := if a.phase == .paused then (if a.restore then .restoring else .receiving) else a.phase
      fetches := a.fetches ++ [⟨seq, rd k.body 4 4, rd k.body 8 8, false, 1, shardDue s⟩] }) (rd k.body 0 1)) := by
    show execAccShard seq s = _
    simp [execAccShard, cmdIn_found hk hph hop, Option.filter, hm, htakes, hbulk, hlen, hnew]
  exact ⟨_, hexec, rfl, (((AccOnly.refl ha hr).modAcc _).armTimer).others, accOf_shardAsked ha ..⟩

theorem exec_accCommit (hop : k.op = 0x22) (hphase : (accOf s (rd k.body 0 1)).phase = .receiving) :
    exec (.accCommit seq) s = .next (modAcc s (rd k.body 0 1) fun a => { a with phase := .committing, commitSeq := some seq }) := by
  show execAccCommit seq s = _
  simp [execAccCommit, cmdIn_found hk hph hop, hphase]

theorem exec_accCommit_refused (hop : k.op = 0x22) (hphase : (accOf s (rd k.body 0 1)).phase ≠ .receiving) :
    exec (.accCommit seq) s = .next (accDone s seq (rd k.body 0 1)
      (if (accOf s (rd k.body 0 1)).phase = .paused ∧ (accOf s (rd k.body 0 1)).restore = false then 0x0B else 0x0F) (accOf s (rd k.body 0 1)).manifest) := by
  show execAccCommit seq s = _
  simp [execAccCommit, cmdIn_found hk hph hop, hphase]

theorem exec_accCancel (hop : k.op = 0x23)
    (hphase : (accOf s (rd k.body 0 1)).phase = .receiving ∨ (accOf s (rd k.body 0 1)).phase = .paused ∨ (accOf s (rd k.body 0 1)).phase = .committing) :
    exec (.accCancel seq) s = .next (accDone (endAcc s (rd k.body 0 1) 0x0C .idle) seq (rd k.body 0 1) 0 (accOf s (rd k.body 0 1)).manifest) := by
  show execAccCancel seq s = _
  have hc : ((accOf s (rd k.body 0 1)).phase == .receiving || (accOf s (rd k.body 0 1)).phase == .paused ||
      (accOf s (rd k.body 0 1)).phase == .committing) = true := by
    simpa [or_assoc] using hphase
  simp only [execAccCancel, cmdIn_found hk hph hop, hc, if_true]

theorem exec_accCancel_failed (hop : k.op = 0x23) (hphase : (accOf s (rd k.body 0 1)).phase = .failed) :
    exec (.accCancel seq) s = .next (accDone (modAcc s (rd k.body 0 1) fun a => { a with phase := .idle }) seq (rd k.body 0 1) 0 none) := by
  show execAccCancel seq s = _
  simp [execAccCancel, cmdIn_found hk hph hop, hphase]

theorem exec_accCancel_flipPending (hop : k.op = 0x23) (hphase : (accOf s (rd k.body 0 1)).phase = .flipPending) :
    exec (.accCancel seq) s = .next (finish s 1024 seq stAlready 0) := by
  show execAccCancel seq s = _
  simp [execAccCancel, cmdIn_found hk hph hop, hphase]

include ha hr in
/-- A cancel ends the accession; the commands that waited on it complete with ABORTED, the cancel with OK. -/
theorem accCancel_ends (hop : k.op = 0x23) (hnone : (accOf s (rd k.body 0 1)).targets = [])
    (hphase : (accOf s (rd k.body 0 1)).phase = .receiving ∨ (accOf s (rd k.body 0 1)).phase = .paused ∨ (accOf s (rd k.body 0 1)).phase = .committing) :
    ∃ t, exec (.accCancel seq) s = .next t ∧ finishedAs t 1024 seq k stOk 0 ∧ AccOnly (rd k.body 0 1) s t ∧
      accOf t (rd k.body 0 1) = { (accOf s (rd k.body 0 1)).over .idle with lastResult := 0 } ∧
      ∀ q k', q ≠ seq → findCmd s 1024 q = some k' → q ∈ (accOf s (rd k.body 0 1)).waiting → finishedAs t 1024 q k' stAborted 0 := by
  generalize hrd : rd k.body 0 1 = r at *
  have hdones := (AccOnly.refl (r := r) ha hr).accDones 0x0C (accOf s r).manifest (accOf s r).waiting
  have hended := hdones.modAcc (·.over .idle)
  refine ⟨_, exec_accCancel hk hph hop (by rwa [hrd]), ?_⟩
  rw [hrd, endAcc_of_noTargets ha hr hnone]
  refine ⟨?_, hended.accDone .., ?_, fun q k' hq hk' hwaits => ?_⟩
  · obtain ⟨k', hk', hdone⟩ := exists_findCmd_accDones hk r 0x0C (accOf s r).manifest (accOf s r).waiting
    rw [finishedAs, findCmd_accDone, if_pos rfl]
    exact (congrArg (Option.map (Cmd.done · stOk)) hk').trans (congrArg some (hdone stOk))
  · rw [accOf_accDone hended.accOk, accOf_modAcc hdones.accOk, accOf_accDones ha hr]
    rfl
  · rw [finishedAs, findCmd_accDone, if_neg hq]
    exact accDones_finishedAs hk' r 0x0C _ hwaits

end

/-- Settles O32: the checks of ACC_BEGIN refuse or begin (`beginAcc_begins`) and what they answer is told (`accBegin_answers`), a shard's fetch begins
(`exec_accShard`), a commit begins or is refused, and a cancel ends an accession with all that waits on it (`accCancel_ends`). -/
theorem accessionCommands : Obligations.AccessionCommands := by
  intro seq k s ha hr hk hph r a
  refine ⟨fun f hop => ?_, fun m hop hm htakes hbulk hlen hnew => exec_accShard ha hr hk hph hop hm htakes hbulk hlen hnew,
    fun hop => ⟨fun hphase => ?_, fun hphase => ?_⟩, fun hop => ⟨fun hphase hnone => ?_, fun hphase => ?_, fun hphase => ?_⟩⟩
  · intro x
    obtain ⟨t, hexec, hdone, hacc, honly, hann, hrec⟩ := accBegin_answers ha hr hk hph hop f
    have hbegins : Begins (rd k.body 1 1) x := beginAcc_begins s k.body f
    refine ⟨fun hbusy => ?_, fun hfree hpub => ?_, ?_, fun b hb => ?_, t, hexec, hdone, hacc, honly.others, honly.frame, honly.regs, hann, hrec⟩
    · simp [x, beginAcc_busy hbusy]
    · simp [x, beginAcc_untrusting hfree hpub]
    · generalize x = y at hbegins
      cases hbegins with
      | refused h => simp [h]
      | begun => simp
    · generalize x = y at hbegins hb
      cases hbegins with
      | refused => cases hb
      | begun hphase hm hs => cases hb; exact ⟨hphase, hm, hs⟩
  · exact ⟨_, exec_accCommit hk hph hop hphase, rfl, ((AccOnly.refl ha hr).modAcc _).others, accOf_modAcc ha r _⟩
  · have hdone := accDone_finishedAs hk r (if a.phase = .paused ∧ a.restore = false then 0x0B else 0x0F) a.manifest
    refine ⟨_, exec_accCommit_refused hk hph hop hphase, ((AccOnly.refl ha hr).accDone ..).others, ?_, (congrArg Acc.phase (accOf_accDone ha ..) :)⟩
    rwa [apply_ite accStatus] at hdone
  · obtain ⟨t, hexec, hdone, honly, hacc, hothers⟩ := accCancel_ends ha hr hk hph hop hnone hphase
    refine ⟨t, hexec, hdone, honly.others, honly.regs, hacc.trans ?_, fun q k' hq hk' hw => hothers q k' hq hk' (Acc.mem_waiting.mpr hw)⟩
    simp [Acc.over, a, r, ← hnone]
  · have hidle := (AccOnly.refl (r := r) ha hr).modAcc fun a => { a with phase := .idle }
    have hfound : findCmd (modAcc s r fun a => { a with phase := .idle }) 1024 seq = some k := hk
    refine ⟨_, exec_accCancel_failed hk hph hop hphase, accDone_finishedAs hfound r 0 none, (hidle.accDone ..).others, ?_⟩
    rw [accOf_accDone hidle.accOk, accOf_modAcc ha]
  · exact ⟨_, exec_accCancel_flipPending hk hph hop hphase, finish_finishedAs _ _ hk, rfl⟩

end Sys2Proof.Machine
end
end

section
/-!
PROOFS. What leaves the accessions and the commands alone (R16): of all that a boundary does after a flip, only the integration windows, shelters and tile
commands write either. One lemma per operation, in the model's order.
-/
section
open Sys2Proof Sys2Proof.Machine
namespace Sys2Proof.Machine

/-- The accessions, and the commands that wait on them. It is a name of its own so that `simp` carries it through a state's updates. -/
def State.accWork (s : State) : Sparse Acc × List Cmd := (s.acc, s.itk.cmds)

/-- A change of the other components leaves both. -/
@[simp] theorem mk_accWork (u : State) (a0 a1 a2 a3 a4 a5 a6 a7 a8 a10 a11 a13 a14 a15 a16 a17 a18 a19 a20 a21) :
    (State.mk a0 a1 a2 a3 a4 a5 a6 a7 a8 u.acc a10 a11 u.itk a13 a14 a15 a16 a17 a18 a19 a20 a21).accWork = u.accWork := (rfl)

@[simp] theorem ite_accWork (c : Prop) [Decidable c] (t u : State) : (if c then t else u).accWork = if c then t.accWork else u.accWork :=
  apply_ite State.accWork c t u

/-- A walk whose every step leaves both. -/
@[simp] theorem foldl_accWork {α : Type} {f : State → α → State} (h : ∀ s x, (f s x).accWork = s.accWork) (l : List α) (s : State) :
    (l.foldl f s).accWork = s.accWork := by
  induction l generalizing s with
  | nil => rfl
  | cons x xs ih => rw [List.foldl_cons, ih, h]

variable (s : State)

/-! ### The shared operations -/

@[simp] theorem fset_accWork (f x) : (fset s f x).accWork = s.accWork := (rfl)
@[simp] theorem fbump_accWork (f n) : (fbump s f n).accWork = s.accWork := (rfl)
@[simp] theorem annal_accWork (kind sev obj a0 a1 a2) : (annal s kind sev obj a0 a1 a2).accWork = s.accWork := by rw [annal_frame]; rfl
@[simp] theorem dmaWrite_accWork (fn addr bytes) : (dmaWrite s fn addr bytes).accWork = s.accWork := by rw [dmaWrite_frame]; rfl
@[simp] theorem reloadPrograms_accWork (r) : (reloadPrograms s r).accWork = s.accWork := (rfl)
@[simp] theorem modSession_accWork (h f) : (modSession s h f).accWork = s.accWork := (rfl)
@[simp] theorem modFolio_accWork (k f) : (modFolio s k f).accWork = s.accWork := (rfl)
@[simp] theorem toState_accWork (k st) : (toState s k st).accWork = s.accWork := by simp [toState]
@[simp] theorem modPort_accWork (n f) : (modPort s n f).accWork = s.accWork := (rfl)
@[simp] theorem modTile_accWork (shelf t f) : (modTile s shelf t f).accWork = s.accWork := (rfl)
@[simp] theorem modHall_accWork (h f) : (modHall s h f).accWork = s.accWork := (rfl)
@[simp] theorem modVig_accWork (r f) : (modVig s r f).accWork = s.accWork := (rfl)

/-! ### Pages and sessions -/

@[simp] theorem modPage_accWork (h i f) : (modPage s h i f).accWork = s.accWork := (rfl)
@[simp] theorem spoilLine_accWork (h a) : (spoilLine s h a).accWork = s.accWork := (rfl)
@[simp] theorem cleanLines_accWork (h a n) : (cleanLines s h a n).accWork = s.accWork := (rfl)
@[simp] theorem releasePage_accWork (h i) : (releasePage s h i).accWork = s.accWork := by simp [releasePage]
@[simp] theorem killSession_accWork (h status) : (killSession s h status).accWork = s.accWork := (rfl)

theorem allocPage_accWork {h p u} (hu : allocPage s h p = some u) : u.1.accWork = s.accWork := by
  simp only [allocPage] at hu
  split at hu
  · cases hu
    simp
  · cases hu

theorem cowCopy_accWork {x h g k i u} (hu : cowCopy s x h g k i = some u) : u.accWork = s.accWork := by
  simp only [cowCopy] at hu
  split at hu
  · cases hu
  · next h => cases hu; simp [allocPage_accWork _ h]

theorem needPage_accWork {handle g grp k u} (hu : needPage s handle g grp k = some u) : u.accWork = s.accWork := by
  simp only [needPage] at hu
  split at hu
  · cases hu; rfl
  · split at hu
    · split at hu
      · exact cowCopy_accWork s hu
      · cases hu; rfl
    · split at hu
      · cases hu
      · next h => cases hu; simp [allocPage_accWork _ h]

theorem foldOpt_accWork {α : Type} {f : State → α → Option State} (hf : ∀ t x u, f t x = some u → u.accWork = t.accWork) {l : List α} {s u : State}
    (hu : foldOpt f s l = some u) : u.accWork = s.accWork := by
  induction l generalizing s with
  | nil => cases hu; rfl
  | cons x xs ih =>
    simp only [foldOpt] at hu
    split at hu
    · cases hu
    · next ht => rw [ih hu, hf _ _ _ ht]

theorem growSession_accWork {handle count u} (hu : growSession s handle count = some u) : u.accWork = s.accWork := by
  simp only [growSession] at hu
  split at hu
  · cases hu; rfl
  · exact foldOpt_accWork (fun _ _ _ => foldOpt_accWork fun _ _ _ => needPage_accWork _) hu

/-! ### Folios and gains -/

@[simp] theorem putKhat_accWork (k xs) : (putKhat s k xs).accWork = s.accWork := (rfl)
@[simp] theorem putOffs_accWork (k xs) : (putOffs s k xs).accWork = s.accWork := (rfl)
@[simp] theorem restartWindow_accWork (k) : (restartWindow s k).accWork = s.accWork := (rfl)
@[simp] theorem switchBank_accWork (k) : (switchBank s k).accWork = s.accWork := by simp [switchBank]
@[simp] theorem endRequest_accWork (k) : (endRequest s k).accWork = s.accWork := by
  unfold endRequest
  split <;> simp

@[simp] theorem freeSpare_accWork (k) : (freeSpare s k).accWork = s.accWork := (rfl)
@[simp] theorem dropSweep_accWork (k) : (dropSweep s k).accWork = s.accWork := (rfl)
@[simp] theorem giveBack_accWork (k) : (giveBack s k).accWork = s.accWork := by simp [giveBack]
@[simp] theorem abandonCopy_accWork (c) : (abandonCopy s c).accWork = s.accWork := giveBack_accWork s c
@[simp] theorem modGain_accWork (shelf c f) : (modGain s shelf c f).accWork = s.accWork := (rfl)
@[simp] theorem markFailed_accWork (ks) : (markFailed s ks).accWork = s.accWork := by simp [markFailed]
@[simp] theorem deriveGain_accWork (shelf c) : (deriveGain s shelf c).accWork = s.accWork := by simp [deriveGain]
@[simp] theorem deriveGains_accWork (r) : (deriveGains s r).accWork = s.accWork := by simp [deriveGains]
@[simp] theorem enterServing_accWork (k) : (enterServing s k).accWork = s.accWork := by simp [enterServing]
@[simp] theorem noteLimits_accWork (k b) : (noteLimits s k b).accWork = s.accWork := by simp [noteLimits]
@[simp] theorem applyGain_accWork (h c) : (applyGain s h c).accWork = s.accWork := (rfl)
@[simp] theorem applyCoupled_accWork (r) : (applyCoupled s r).accWork = s.accWork := by simp [applyCoupled]
@[simp] theorem rescaleFolio_accWork (k old new) : (rescaleFolio s k old new).accWork = s.accWork := by simp [rescaleFolio]
@[simp] theorem carryGain_accWork (before after ks old new h c) : (carryGain before after ks old new s h c).accWork = s.accWork := by simp [carryGain]
@[simp] theorem rescaleRegion_accWork (r h old new) : (rescaleRegion s r h old new).accWork = s.accWork := by simp [rescaleRegion]
@[simp] theorem flipCopies_accWork (r) : (flipCopies s r).accWork = s.accWork := by
  refine foldl_accWork (fun t x => ?_) _ s
  dsimp only
  repeat' split
  all_goals simp

@[simp] theorem restartLocals_accWork (shelf c) : (restartLocals s shelf c).accWork = s.accWork := (rfl)

/-! ### Taints, windows and halls -/

@[simp] theorem fsr_accWork (kind region keys) : (fsr s kind region keys).accWork = s.accWork := (rfl)
@[simp] theorem taintReport_accWork (t last final action) : (taintReport s t last final action).accWork = s.accWork := by simp [taintReport, detectRecord]
@[simp] theorem endTaints_accWork (p last action) : (endTaints s p last action).accWork = s.accWork := by simp [endTaints]
@[simp] theorem settleTaints_accWork : (settleTaints s).accWork = s.accWork := by simp [settleTaints]
@[simp] theorem windowDone_accWork : (windowDone s).accWork = s.accWork := by
  unfold windowDone
  split <;> simp

@[simp] theorem startWalk_accWork (w) : (startWalk s w).accWork = s.accWork := by simp [startWalk]
@[simp] theorem windowQuiet_accWork : (windowQuiet s).accWork = s.accWork := by
  unfold windowQuiet
  split <;> simp

@[simp] theorem resumeHall_accWork (h) : (resumeHall s h).accWork = s.accWork := by simp [resumeHall]

/-! ### Loans -/

@[simp] theorem modLoan_accWork (c a f) : (modLoan s c a f).accWork = s.accWork := (rfl)
theorem makeLoanRoom_accWork {c need fuel u} (hu : makeLoanRoom c need fuel s = some u) : u.accWork = s.accWork := by
  induction fuel generalizing s with
  | zero => cases hu
  | succ fuel ih =>
    simp only [makeLoanRoom] at hu
    repeat' split at hu
    · cases hu; rfl
    · cases hu
    · simpa using ih _ hu

@[simp] theorem holdLoan_accWork (region c a) : (holdLoan s region c a).accWork = s.accWork := by
  -- The free pages are named, not computed: the kernel would evaluate the whole page table.
  obtain ⟨home, hhome⟩ : ∃ home, homePages = home := ⟨_, rfl⟩
  rw [holdLoan, hhome]
  split
  · rfl
  · split
    · rfl
    · split
      · rfl
      · next hroom =>
        repeat' split
        · rfl
        · rfl
        · rw [modLoan_accWork, makeLoanRoom_accWork _ hroom]

@[simp] theorem askStages_accWork (region c a want) : (askStages s region c a want).accWork = s.accWork := by simp [askStages]
@[simp] theorem issueOn_accWork (fn) : (issueOn fn s).accWork = s.accWork := by
  unfold issueOn
  repeat' split
  all_goals rfl

@[simp] theorem issueFetches_accWork : (issueFetches s).accWork = s.accWork := by simp [issueFetches]
@[simp] theorem askLayer_accWork (p layer) : (askLayer s p layer).accWork = s.accWork := by
  refine (issueFetches_accWork _).trans (foldl_accWork (fun t h => ?_) _ _)
  split <;> simp

@[simp] theorem useLoans_accWork (p) : (useLoans s p).accWork = s.accWork := by
  refine foldl_accWork (fun t x => ?_) _ s
  split <;> simp

/-! ### Orbits -/

@[simp] theorem setOrbState_accWork (x) : (setOrbState s x).accWork = s.accWork := (rfl)
@[simp] theorem refreshOnline_accWork : (refreshOnline s).accWork = s.accWork := (rfl)
@[simp] theorem orbitDeaths_accWork (p) : (orbitDeaths s p).accWork = s.accWork := by simp [orbitDeaths]
@[simp] theorem setHeir_accWork (h) : (setHeir s h).accWork = s.accWork := by
  unfold setHeir
  split <;> simp

@[simp] theorem setAdmitted_accWork (m) : (setAdmitted s m).accWork = s.accWork := by simp [setAdmitted]
@[simp] theorem isolate_accWork : (isolate s).accWork = s.accWork := by simp [isolate]
@[simp] theorem growShare_accWork (hs) : (growShare s hs).1.accWork = s.accWork := by
  refine List.foldlRecOn (motive := fun p : State × List (Nat × Nat) => p.1.accWork = s.accWork) _ _ rfl fun p hp x _ => ?_
  split
  · exact hp
  · split
    · exact hp
    · split
      · next h => exact (growSession_accWork _ h).trans hp
      · exact hp

/-- A pass that opens fixes the windows of its region (R52). -/
theorem openPass_accWork (r stream cmd number passId hs vecs) :
    ∃ window floor, (openPass s r stream cmd number passId hs vecs).accWork = (modAcc s r fun a => { a with window := window, floor := floor }).accWork := by
  unfold openPass
  dsimp only
  rw [askLayer_accWork, askLayer_accWork, useLoans_accWork]
  exact ⟨_, _, (mk_accWork (hs.foldl _ _) ..).trans (foldl_accWork (fun _ _ => modSession_accWork ..) hs _)⟩

end Sys2Proof.Machine
end
end

section
/-!
PROOFS. The shards of an accession: they verify, fail or time out (R198, R207, R208).
-/
section
open Sys2Proof Sys2Proof.Machine
namespace Sys2Proof.Machine

variable {s t : State} {r i : Nat} {b : Bytes} {f : Fetch}

/-! ### SHARD_FETCH_COMPLETE (R207) -/

/-- The accession with shard `i` kept and its fetches done. -/
def Acc.kept (a : Acc) (i : Nat) (b : Bytes) : Acc :=
  { a with shards := sset (fun _ => ([] : Bytes)) a.shards i b, fetches := a.fetches.filter (·.index != i) }

/-- The shard is asked for again. -/
def Acc.again (s : State) (a : Acc) (i : Nat) : Acc :=
  { a with fetches := modFirst (fun y => y.index == i) (fun y => { y with tries := y.tries + 1, due := shardDue s }) a.fetches }

section
variable {x : ShardFetch} {e : Nat × Bytes} {m : Manifest}
  (hx : (accOf s r).fetches = [x]) (hi : x.index = i) (hm : (accOf s r).manifest = some m) (he : m.shards[i]? = some e)
include hx hi hm he

theorem exec_shardFetchComplete_verified (hlen : b.length = e.1) (hdigest : shake256 b = e.2) :
    exec (.shardFetchComplete r i (.data b)) s = .next (shardVerified s r i b) := by
  show execShardFetchComplete r i (.data b) s = _
  have hfind : (accOf s r).fetches.find? (·.index == i) = some x := by simp [hx, hi]
  simp only [execShardFetchComplete, hfind, hm, Option.bind_some, he]
  exact congrArg Host.Outcome.next (if_pos ⟨hlen, hdigest⟩)

theorem exec_shardFetchComplete_again (hf : f = .error ∨ f = .poisoned ∨ ∃ b, f = .data b ∧ ¬ (b.length = e.1 ∧ shake256 b = e.2)) :
    exec (.shardFetchComplete r i f) s = .next (if x.tries < 4 then modAcc s r (·.again s i) else failAcc s r 0x07 false) := by
  show execShardFetchComplete r i f s = _
  have hfind : (accOf s r).fetches.find? (·.index == i) = some x := by simp [hx, hi]
  simp only [execShardFetchComplete, hfind, hm, Option.bind_some, he]
  rcases hf with rfl | rfl | ⟨b, rfl, hb⟩
  · rfl
  · rfl
  · exact congrArg Host.Outcome.next (if_neg hb)

omit he in
/-- A shard that verifies in an accession that receives, and breaks no block, is kept; its command is done. -/
theorem shardVerified_eq (hrestore : (accOf s r).restore = false)
    (hgood : ∀ g, s.img.bound.region? r = some g → bodyFault (modAcc s r (·.kept i b)) g (accOf (modAcc s r (·.kept i b)) r) m = false) :
    shardVerified s r i b = armTimer (accDone (modAcc s r (·.kept i b)) x.seq r 0 (some m)) r := by
  cases hg : s.img.bound.region? r with
  | none => simp [shardVerified, Acc.kept, hg, hrestore, hx, hi, hm]
  | some g =>
    have hsound := hgood g hg
    simp only [Acc.kept] at hsound
    simp [shardVerified, Acc.kept, hg, hsound, hrestore, hx, hi, hm]

end

theorem accOf_armTimer (ha : s.accOk) : accOf (armTimer s r) r = { accOf s r with timer := (accOf (armTimer s r) r).timer } := by
  rw [armTimer, accOf_modAcc ha]

/-- An accession whose fetch is outstanding fails with a record by that fetch's command alone. -/
theorem failAcc_fetching (h : (accOf s r).fetches ≠ []) (code : Nat) (told : Bool) : failAcc s r code told = endAcc s r code .failed := by
  simp [failAcc, h]

section
variable (ha : s.accOk) (hr : s.regsOk) {x : ShardFetch} {e : Nat × Bytes} {m : Manifest} {k : Cmd}
  (hx : (accOf s r).fetches = [x]) (hi : x.index = i) (hm : (accOf s r).manifest = some m) (he : m.shards[i]? = some e)
  (hk : findCmd s 1024 x.seq = some k)
include ha hr hx hi hm he hk

theorem shardFetchComplete_verifies (hrestore : (accOf s r).restore = false) (hshards : swf (fun _ => ([] : Bytes)) (accOf s r).shards = true)
    (hlen : b.length = e.1) (hdigest : shake256 b = e.2)
    (hgood : ∀ g, s.img.bound.region? r = some g → bodyFault (modAcc s r (·.kept i b)) g (accOf (modAcc s r (·.kept i b)) r) m = false) :
    ∃ t, exec (.shardFetchComplete r i (.data b)) s = .next t ∧ finishedAs t 1024 x.seq k stOk 0 ∧ accFrom s t r ∧
      accOf t r = { accOf s r with shards := (accOf t r).shards, fetches := [], lastResult := 0, timer := (accOf t r).timer } ∧
      sget (fun _ => []) (accOf t r).shards i = b ∧
      (∀ j, j ≠ i → sget (fun _ => []) (accOf t r).shards j = sget (fun _ => []) (accOf s r).shards j) ∧ t.ann = s.ann ∧ t.regs = s.regs := by
  have hkept := (AccOnly.refl (r := r) ha hr).modAcc (·.kept i b)
  have hdone := hkept.accDone x.seq 0 (some m)
  have hfound : findCmd (modAcc s r (·.kept i b)) 1024 x.seq = some k := hk
  refine ⟨_, exec_shardFetchComplete_verified hx hi hm he hlen hdigest, ?_⟩
  rw [shardVerified_eq hx hi hm hrestore hgood]
  have hacc := accOf_armTimer (r := r) hdone.accOk
  rw [accOf_accDone hkept.accOk, accOf_modAcc ha] at hacc
  generalize ht : armTimer (accDone (modAcc s r (·.kept i b)) x.seq r 0 (some m)) r = t at hacc
  have hshardsNow : (accOf t r).shards = sset (fun _ => ([] : Bytes)) (accOf s r).shards i b := congrArg Acc.shards hacc
  refine ⟨?_, ?_, ?_, ?_, fun j hj => ?_, ?_, ?_⟩
  · exact ht ▸ accDone_finishedAs hfound r 0 (some m)
  · exact ht ▸ hdone.armTimer.others
  · rw [hshardsNow, hacc]
    simp [Acc.kept, hx, hi]
  · rw [hshardsNow]
    exact sget_sset_same hshards
  · rw [hshardsNow]
    exact sget_sset_ne hshards hj
  · exact ht ▸ rfl
  · exact ht ▸ rfl

variable (hf : f = .error ∨ f = .poisoned ∨ ∃ b, f = .data b ∧ ¬ (b.length = e.1 ∧ shake256 b = e.2))
include hf

omit hr hk in
theorem shardFetchComplete_asksAgain (htries : x.tries < 4) :
    ∃ t, exec (.shardFetchComplete r i f) s = .next t ∧ t = { s with acc := t.acc } ∧ accFrom s t r ∧
      accOf t r = { accOf s r with fetches := [{ x with tries := x.tries + 1, due := shardDue s }] } := by
  refine ⟨_, exec_shardFetchComplete_again hx hi hm he hf, ?_⟩
  rw [if_pos htries]
  refine ⟨rfl, fun q hq => accOf_modAcc_ne ha _ hq, ?_⟩
  rw [accOf_modAcc ha]
  simp [Acc.again, hx, hi, modFirst]

theorem shardFetchComplete_fails (hcommit : (accOf s r).commitSeq = none) (htries : 4 ≤ x.tries)
    (hnone : (accOf s r).targets = []) :
    ∃ t, exec (.shardFetchComplete r i f) s = .next t ∧ finishedAs t 1024 x.seq k stFormat 0 ∧ accFrom s t r ∧
      accOf t r = { (accOf s r).over .failed with lastResult := 7 } ∧ recorded s t 0x0300 3 7 m.serial (rd m.keyId 0 8) := by
  have hwaiting : (accOf s r).waiting = [x.seq] := by simp [Acc.waiting, hcommit, hx]
  have hdone := (AccOnly.refl (r := r) ha hr).accDone x.seq 7 (some m)
  have hended : failAcc s r 0x07 false = modAcc (accDone s x.seq r 7 (some m)) r (·.over .failed) := by
    rw [failAcc_fetching (by simp [hx]), endAcc_of_noTargets ha hr hnone, hwaiting, hm]
    rfl
  refine ⟨_, exec_shardFetchComplete_again hx hi hm he hf, ?_⟩
  rw [if_neg (by omega), hended]
  refine ⟨accDone_finishedAs hk r 7 (some m), (hdone.modAcc _).others, ?_, accDone_recorded s x.seq r (by decide) (some m)⟩
  rw [accOf_modAcc hdone.accOk, accOf_accDone ha]
  rfl

end

/-! ### SHARD_TIMEOUT (R208) -/

/-- Some fetch of an accession, or its timer, has run for LIMIT_US. -/
def Acc.expired (a : Acc) (tick : Nat) : Prop := (∃ x ∈ a.fetches, x.due ≤ tick) ∨ ∃ d, a.timer = some d ∧ d ≤ tick

/-- The commands that time out with it: those of the fetches that are late, and its ACC_COMMIT. -/
def Acc.timedOut (a : Acc) (tick : Nat) : List Nat := (a.fetches.filter fun f => decide (f.due ≤ tick)).map (·.seq) ++ a.commitSeq.toList

/-- An accession that pauses. -/
def Acc.pause (tick : Nat) (a : Acc) : Acc :=
  { a with phase := .paused, fetches := a.fetches.filter fun f => decide (tick < f.due), commitSeq := none, timer := none }

theorem Acc.mem_timedOut {a : Acc} {tick q : Nat} :
    q ∈ a.timedOut tick ↔ a.commitSeq = some q ∨ ∃ x ∈ a.fetches, x.due ≤ tick ∧ x.seq = q := by
  simp [Acc.timedOut, or_comm, and_assoc]

theorem Acc.expired_iff {a : Acc} {tick : Nat} :
    a.expired tick ↔ ¬ ((a.fetches.filter fun f => decide (f.due ≤ tick)).isEmpty && !a.timer.any fun t => decide (t ≤ tick)) = true := by
  rw [Bool.and_eq_true, not_and_or]
  refine or_congr (by simp) ?_
  cases a.timer <;> simp

theorem exec_shardTimeout_waits (h : ¬ (accOf s r).expired s.clk.tick) : exec (.shardTimeout r) s = .next s := by
  show execShardTimeout r s = _
  rw [Acc.expired_iff, not_not] at h
  exact congrArg Host.Outcome.next (if_pos h)

theorem exec_shardTimeout (h : (accOf s r).expired s.clk.tick) : exec (.shardTimeout r) s =
    .next (modAcc (accDones s r 0x0B (accOf s r).manifest ((accOf s r).timedOut s.clk.tick)) r (Acc.pause s.clk.tick)) := by
  show execShardTimeout r s = _
  refine congrArg Host.Outcome.next ((if_neg (Acc.expired_iff.mp h)).trans ?_)
  simp only [accDones, Acc.timedOut, List.foldl_append, List.foldl_map]
  rfl

theorem shardTimeout_pauses (ha : s.accOk) (hr : s.regsOk) (h : (accOf s r).expired s.clk.tick) :
    ∃ t, exec (.shardTimeout r) s = .next t ∧ accFrom s t r ∧ s.regsFrom t [] ∧
      accOf t r = { (accOf s r).pause s.clk.tick with lastResult := (accOf t r).lastResult } ∧
      ∀ q k, findCmd s 1024 q = some k → q ∈ (accOf s r).timedOut s.clk.tick → finishedAs t 1024 q k stTimeout 0 := by
  have hdones := (AccOnly.refl (r := r) ha hr).accDones 0x0B (accOf s r).manifest ((accOf s r).timedOut s.clk.tick)
  have hpaused := hdones.modAcc (Acc.pause s.clk.tick)
  refine ⟨_, exec_shardTimeout h, hpaused.others, hpaused.regs, ?_, fun q k hk hq => accDones_finishedAs hk r 0x0B _ hq⟩
  rw [accOf_modAcc hdones.accOk, accOf_accDones ha hr]
  rfl

end Sys2Proof.Machine
end
end

section
/-!
PROOFS. The commit of an accession and its flip (R204, R205, R206), and with the shards the obligation on both.
-/
section
open Sys2Proof Sys2Proof.Machine
namespace Sys2Proof.Machine

variable {s t u : State} {r : Nat}

/-! ### What stands once an accession has flipped -/

/-- What a commit has left of an accession: its phase, its package, its GENERATION. -/
def Acc.committed (a : Acc) : AccPhase × Option Package × Nat := (a.phase, a.package, a.generation)

/-- Between `s` and `t` every region keeps what its last commit left, and a command that has finished stays so. -/
structure CommitStands (s t : State) : Prop where
  accOk : t.accOk
  acc : ∀ q, (accOf t q).committed = (accOf s q).committed
  finished : ∀ c q k, findCmd s c q = some k → k.phase = .finished → findCmd t c q = some k

theorem CommitStands.trans (h : CommitStands s t) (h' : CommitStands t u) : CommitStands s u where
  accOk := h'.accOk
  acc q := (h'.acc q).trans (h.acc q)
  finished c q k hk hph := h'.finished c q k (h.finished c q k hk hph) hph

/-- What leaves the accessions and the commands alone. -/
theorem CommitStands.of_accWork (ha : s.accOk) (h : t.accWork = s.accWork) : CommitStands s t where
  accOk := by rwa [State.accOk, show t.acc = s.acc from congrArg Prod.fst h]
  acc q := congrArg (fun w : Sparse Acc × List Cmd => (sget (fun _ => freshAcc) w.1 q).committed) h
  finished c q _ hk _ := (congrArg (fun w : Sparse Acc × List Cmd => w.2.find? (Cmd.named c q)) h).trans hk

theorem CommitStands.refl (ha : s.accOk) : CommitStands s s := .of_accWork ha rfl

/-- A walk whose every step leaves them standing. -/
theorem CommitStands.foldl {α : Type} {f : State → α → State} (hf : ∀ u x, u.accOk → CommitStands u (f u x)) (l : List α) (ha : s.accOk) :
    CommitStands s (l.foldl f s) := by
  induction l generalizing s with
  | nil => exact .refl ha
  | cons x xs ih => exact (hf s x ha).trans (ih (hf s x ha).accOk)

/-- A change of other fields of an accession. -/
theorem CommitStands.modAcc (ha : s.accOk) (q : Nat) {f : Acc → Acc} (hf : ∀ a, (f a).committed = a.committed) : CommitStands s (modAcc s q f) where
  accOk := accOk_modAcc ha q f
  acc p := by
    by_cases hp : p = q
    · rw [hp, accOf_modAcc ha, hf]
    · rw [accOf_modAcc_ne ha f hp]
  finished _ _ _ hk _ := hk

theorem findCmd_of_accWork (h : t.accWork = s.accWork) (c q : Nat) : findCmd t c q = findCmd s c q :=
  congrArg (fun w : Sparse Acc × List Cmd => w.2.find? (Cmd.named c q)) h

/-- Another command that finishes. -/
theorem CommitStands.finish (ha : s.accOk) (h : t.accWork = s.accWork) {c q : Nat} {k : Cmd} (hk : findCmd s c q = some k) (hph : k.phase ≠ .finished)
    (st v : Nat) : CommitStands s (finish t c q st v) := by
  have ht := CommitStands.of_accWork ha h
  refine ⟨ht.accOk, ht.acc, fun c' q' k' hk' hph' => ?_⟩
  rw [finish_findCmd_ne _ _ fun hsame => ?_, findCmd_of_accWork h, hk']
  obtain ⟨rfl, rfl⟩ := hsame
  exact hph (Option.some.inj (hk.symm.trans hk') ▸ hph')

/-! ### The changes of a boundary (R16, R96) -/

section
variable (ha : s.accOk)
include ha

theorem tileReadNow_stands {k : Cmd} (hk : findCmd s k.stream k.seq = some k) (hph : k.phase ≠ .finished) : CommitStands s (tileReadNow s k) := by
  unfold tileReadNow
  dsimp only
  split
  · exact .finish ha rfl hk hph _ _
  · exact .finish ha (by simp) hk hph _ _

theorem tileWriteNow_stands {k : Cmd} (hk : findCmd s k.stream k.seq = some k) (hph : k.phase ≠ .finished) (b : Bytes) :
    CommitStands s (tileWriteNow s k b) := by
  unfold tileWriteNow
  dsimp only
  split
  · exact .finish ha rfl hk hph _ _
  · exact .finish ha (modTile_accWork ..) hk hph _ _

/-- Tile commands complete at the boundary; those that have finished are passed over. -/
theorem tilesAtBoundary_stands (q : Nat) : CommitStands s (tilesAtBoundary s q) := by
  refine .foldl (fun u x hu => ?_) _ ha
  have hdrop : CommitStands u { u with scr := { u.scr with tileCmds := u.scr.tileCmds.erase x } } := .of_accWork hu rfl
  split
  · exact hdrop
  · next k hk =>
    obtain ⟨hstream, hseq⟩ := findCmd_named hk
    have hself : findCmd { u with scr := { u.scr with tileCmds := u.scr.tileCmds.erase x } } k.stream k.seq = some k := by
      rw [hstream, hseq]; exact hk
    split
    · dsimp only
      split
      · next hbegun =>
        have hph : k.phase ≠ .finished := by rw [eq_of_beq hbegun]; decide
        split
        · exact hdrop.trans (tileReadNow_stands hdrop.accOk hself hph)
        · exact hdrop.trans (tileWriteNow_stands hdrop.accOk hself hph _)
      · exact hdrop
    · exact .refl hu

theorem windowsNow_stands (q : Nat) : CommitStands s (windowsNow s q) := by
  unfold windowsNow
  extract_lets old new s1
  have hs1 : CommitStands s s1 := .of_accWork ha (by simp [s1])
  exact hs1.trans (.modAcc hs1.accOk q fun _ => rfl)

/-! ### What follows a boundary -/

theorem rehouse_stands (q n : Nat) : CommitStands s (rehouse s q n) := by
  unfold rehouse
  dsimp only
  repeat' split
  · exact .refl ha
  · exact .refl ha
  · exact .refl ha
  · exact .modAcc ha q fun _ => rfl

theorem shelterRegion_stands (q : Nat) : CommitStands s (shelterRegion s q) := by
  have hoff := CommitStands.modAcc ha q (f := fun a => { a with offline := true }) fun _ => rfl
  unfold shelterRegion
  split
  · exact .foldl (fun u n hu => rehouse_stands hu q n) _ ha
  · exact hoff.trans (.foldl (fun u n hu => rehouse_stands hu q n) _ hoff.accOk)

theorem beginShare_stands (x : OrbPass) : CommitStands s (beginShare s x) := by
  unfold beginShare
  dsimp only
  generalize hg : growShare _ (x.sessions.zip x.tokens) = g
  have hgrown : CommitStands s g.1 := .of_accWork ha (hg ▸ growShare_accWork ..)
  obtain ⟨window, floor, hopen⟩ :=
    openPass_accWork g.1 x.region orbitStream x.passId x.passId x.passId x.sessions (shareVecs g.1 x)
  have hwindow := CommitStands.modAcc hgrown.accOk x.region (f := fun a => { a with window := window, floor := floor }) fun _ => rfl
  exact (hgrown.trans hwindow).trans (.of_accWork hwindow.accOk hopen)

theorem nextShare_stands (q : Nat) : CommitStands s (nextShare s q) := by
  unfold nextShare
  split
  · exact .refl ha
  · split
    · exact beginShare_stands ha _
    · exact .refl ha

theorem boundaryEvents_flipped_stands (q : Nat) : CommitStands s (boundaryEvents s q true) := by
  have hsheltered := shelterRegion_stands ha q
  unfold boundaryEvents
  extract_lets s1 s2 s3 s4
  have hs4 : s4.accWork = (shelterRegion s q).accWork := by simp [s4, s3, s2, s1]
  have hquiet : CommitStands s s4 := hsheltered.trans (.of_accWork hsheltered.accOk hs4)
  split
  · exact hquiet.trans (nextShare_stands hquiet.accOk q)
  · exact hquiet

/-! ### The flip (R66, R204 step 6, R205) -/

/-- The accession that a flip leaves. -/
def Acc.flipped (s : State) (a : Acc) : Acc :=
  { a with
    phase := .idle, housing := a.newHousing, newHousing := [], package := if a.newPackage.isSome then a.newPackage else a.package
    newPackage := none, newNorms := [], timer := none, generation := (a.generation + 1) % 2 ^ 32, intent := false
    retired := false, offline := false, archive := true, manifest := none, shards := [], targets := [], commitSeq := none
    inPlace := false, lastResult := 0, ready := true
    oldArchive := if a.archive then some (a.housing, sLag s, s.clk.epoch) else none }

omit ha in
theorem accWork_modAcc_congr (h : t.accWork = s.accWork) (q : Nat) (f : Acc → Acc) : (modAcc t q f).accWork = (modAcc s q f).accWork :=
  congrArg (fun w : Sparse Acc × List Cmd => (smod (fun _ => freshAcc) w.1 q f, w.2)) h

omit ha in
theorem accWork_finish_congr (h : t.accWork = s.accWork) (c q st v : Nat) : (finish t c q st v).accWork = (finish s c q st v).accWork :=
  congrArg (fun w : Sparse Acc × List Cmd =>
    (w.1, modFirst (Cmd.named c q) (fun k => { k with phase := .finished, status := st, value := v }) w.2)) h

omit ha in
/-- A flip changes the accession, and its ACC_COMMIT finishes: the folios, the gains and the vigilance that change with it are neither. -/
theorem flipAccession_accWork {q : Nat} (hq : (accOf s r).commitSeq = some q) :
    (flipAccession s r).accWork = (finish (modAcc s r (Acc.flipped s)) 1024 q stOk 0).accWork := by
  unfold flipAccession
  extract_lets a s1 s2 s3 s4 s5 s6
  have hs2 : s2.accWork = s.accWork := by simp [s2, s1]
  have hs6 : (reloadPrograms s6 r).accWork = s3.accWork := by simp [s6, s5, s4]
  rw [show a.commitSeq = some q from hq]
  exact accWork_finish_congr (hs6.trans (accWork_modAcc_congr hs2 r _)) ..

omit ha in
theorem flipAll_accWork (h : flipsNow s r = true) : (flipAll s r).accWork = (flipAccession s r).accWork := by
  unfold flipAll
  simp [h]

omit ha in
/-- The other changes of the boundary leave what the flip has committed. -/
theorem boundaryChanges_stands (hf : (flipAccession (loseArchive (recipesNow s r) r) r).accOk) (h : flipsNow (loseArchive (recipesNow s r) r) r = true) :
    CommitStands (flipAccession (loseArchive (recipesNow s r) r) r) (boundaryChanges s r) := by
  unfold boundaryChanges
  extract_lets s1 s2
  have hs2 : CommitStands (flipAccession (loseArchive (recipesNow s r) r) r) s2 :=
    .of_accWork hf ((by simp [s2] : s2.accWork = s1.accWork).trans (flipAll_accWork h))
  have hwindows := windowsNow_stands hs2.accOk r
  exact (hs2.trans hwindows).trans (tilesAtBoundary_stands hwindows.accOk r)

/-- An archive copy in which an error was found is lost at the boundary, and of the accession nothing else. -/
theorem accOf_loseArchive (q : Nat) :
    ∃ archive bad, accOf (loseArchive (recipesNow s q) q) q = { accOf s q with archive := archive, archiveBad := bad } := by
  have hacc : accOf (loseArchive (recipesNow s q) q) q =
      if (accOf s q).archiveBad then { accOf s q with archive := false, archiveBad := false } else accOf s q :=
    accOf_modAcc (s := recipesNow s q) ha q _
  split at hacc
  · exact ⟨_, _, hacc⟩
  · exact ⟨_, _, hacc⟩

/-- An accession that waits for its flip, as COMMIT_RECORDS_DURABLE leaves it. -/
structure FlipWaits (s : State) (r : Nat) (p : Package) (q : Nat) : Prop where
  phase : (accOf s r).phase = .flipPending
  package : (accOf s r).newPackage = some p
  command : (accOf s r).commitSeq = some q

/-- At its boundary the package is committed, GENERATION rises, and the ACC_COMMIT completes with OK. -/
theorem boundary_flips {p : Package} {q : Nat} {k : Cmd} (hw : FlipWaits s r p q) (hk : findCmd s 1024 q = some k) :
    (accOf (boundaryEvents (boundaryChanges s r) r true) r).committed = (.idle, some p, ((accOf s r).generation + 1) % 2 ^ 32) ∧
      finishedAs (boundaryEvents (boundaryChanges s r) r true) 1024 q k stOk 0 := by
  obtain ⟨archive, bad, hacc⟩ := accOf_loseArchive ha r
  have hchanges := boundaryChanges_stands (s := s) (r := r)
  have hku : findCmd (loseArchive (recipesNow s r) r) 1024 q = some k := hk
  have hu : (loseArchive (recipesNow s r) r).accOk := accOk_modAcc (s := recipesNow s r) ha r _
  generalize loseArchive (recipesNow s r) r = u at hacc hchanges hku hu
  have hcommand : (accOf u r).commitSeq = some q := by rw [hacc]; exact hw.command
  have hflip : CommitStands (finish (modAcc u r (Acc.flipped u)) 1024 q stOk 0) (flipAccession u r) :=
    .of_accWork (accOk_modAcc hu r (Acc.flipped u)) (flipAccession_accWork hcommand)
  have hchanged := hflip.trans (hchanges hflip.accOk (by simp [flipsNow, hacc, hw.phase]))
  have hall := hchanged.trans (boundaryEvents_flipped_stands hchanged.accOk r)
  refine ⟨(hall.acc r).trans ?_, hall.finished 1024 q _ (finish_finishedAs stOk 0 hku) rfl⟩
  have hr : accOf (finish (modAcc u r (Acc.flipped u)) 1024 q stOk 0) r = (accOf u r).flipped u := accOf_modAcc hu r _
  rw [hr, hacc]
  simp [Acc.committed, Acc.flipped, hw.package]

end

/-! ### COMMIT_RECORDS_DURABLE (R204) -/

/-- The folios, the caches, the collation and the passes stand. -/
theorem AccOnly.parts (h : AccOnly r s t) : t.arr = s.arr ∧ t.kv = s.kv ∧ t.col = s.col ∧ t.run = s.run := by
  rw [h.frame]
  exact ⟨rfl, rfl, rfl, rfl⟩

/-- The accession once its colophon is durable. -/
def Acc.durable (s : State) (g : Region) (m : Manifest) (norms : List (Nat × W32)) (a : Acc) : Acc :=
  { a with phase := .flipPending, timer := none, intent := false, newPackage := some (packageOf s g a m), newNorms := norms }

/-- The module with it, the draws of its norms spent. -/
def madeDurable (s : State) (r : Nat) (g : Region) (m : Manifest) (norms : List (Nat × W32)) : State :=
  modAcc { s with free := s.free + 2048 } r (Acc.durable s g m norms)

theorem accOk_madeDurable (ha : s.accOk) (g : Region) (m : Manifest) (norms : List (Nat × W32)) : (madeDurable s r g m norms).accOk :=
  accOk_modAcc (s := { s with free := s.free + 2048 }) ha r _

theorem accOf_madeDurable (ha : s.accOk) (g : Region) (m : Manifest) (norms : List (Nat × W32)) :
    accOf (madeDurable s r g m norms) r = (accOf s r).durable s g m norms := accOf_modAcc (s := { s with free := s.free + 2048 }) ha r _

section
variable {g : Region} {m : Manifest} {q : Nat} (hg : s.img.bound.region? r = some g) (hm : (accOf s r).manifest = some m)
  (hq : (accOf s r).commitSeq = some q)
include hg hm hq

theorem exec_commitRecordsDurable_waits (nandOk colophonOk : Bool)
    (h : (accOf s r).phase ≠ .committing ∨ allShards (accOf s r) = false ∨ allReady s (accOf s r) = false) :
    exec (.commitRecordsDurable r nandOk colophonOk) s = .next s := by
  show execCommitRecordsDurable r nandOk colophonOk s = _
  have hc : ((accOf s r).phase != .committing || !allShards (accOf s r) || !allReady s (accOf s r)) = true := by
    simpa [or_assoc] using h
  simp only [execCommitRecordsDurable, hg, hm, hq, hc, if_true]

variable (hphase : (accOf s r).phase = .committing) (hall : allShards (accOf s r) = true) (hready : allReady s (accOf s r) = true)
include hphase hall hready

theorem exec_commitRecordsDurable_fails {nandOk colophonOk : Bool} (h : (nandOk && colophonOk) = false) :
    exec (.commitRecordsDurable r nandOk colophonOk) s =
      .next (modAcc (accDone s q r 0x0D (some m)) r fun a => { a with phase := .receiving, commitSeq := none }) := by
  show execCommitRecordsDurable r nandOk colophonOk s = _
  have hbad : (!nandOk || !colophonOk) = true := by rw [← Bool.not_and, h]; rfl
  simp [execCommitRecordsDurable, hg, hm, hq, hphase, hall, hready, hbad]

/-- The records are durable, and a region without a pass in flight is at its boundary. -/
theorem exec_commitRecordsDurable (hmoments : ∀ n ∈ incoming (accOf s r), sget (fun _ => ([] : Sparse Int)) s.col.moments n ≠ []) :
    ∃ norms, exec (.commitRecordsDurable r true true) s = .next (if (passOf s r).isSome then madeDurable s r g m norms
      else boundaryEvents (boundaryChanges (madeDurable s r g m norms) r) r true) := by
  have hnone : ((incoming (accOf s r)).filter fun k => (sget (fun _ => ([] : Sparse Int)) s.col.moments k).isEmpty) = [] := by
    simpa [List.filter_eq_nil_iff] using hmoments
  refine ⟨(watchedOf s.img.bound r).filterMap (batchNorm s r m), ?_⟩
  show execCommitRecordsDurable r true true s = _
  simp only [execCommitRecordsDurable, hg, hm, hq, hphase, hall, hready, hnone, List.foldl_nil]
  rfl

end

/-! ### ARCHIVE_COPY_FREE (R205) -/

theorem exec_archiveCopyFree {o : Sparse Nat × Nat × Nat} (ho : (accOf s r).oldArchive = some o) (hover : o.2.1 = 0)
    (hchecks : ∀ c ∈ (vigOf s r).checks, o.2.2 ≤ c.epoch) :
    exec (.archiveCopyFree r) s = .next (modAcc s r fun a => { a with oldArchive := none }) := by
  show execArchiveCopyFree r s = _
  have hc : (o.2.1 = 0 && !((vigOf s r).checks.any fun c => decide (c.epoch < o.2.2))) = true := by simpa [hover] using hchecks
  simp only [execArchiveCopyFree, ho, hc, if_true]

theorem exec_archiveCopyFree_waits {o : Sparse Nat × Nat × Nat} (ho : (accOf s r).oldArchive = some o) (hpasses : o.2.1 ≠ 0) :
    exec (.archiveCopyFree r) s = .next s := by
  show execArchiveCopyFree r s = _
  simp [execArchiveCopyFree, ho, hpasses]

/-- Settles O33: a shard's bytes verify it, or it is asked for again until it fails (`shardFetchComplete_verifies`, `_asksAgain`, `_fails`); a timeout
pauses (`shardTimeout_pauses`); durable records wait for the boundary, at which the accession flips and nothing that follows takes it back
(`boundary_flips`). -/
theorem shardsVerifyAndCommit : Obligations.ShardsVerifyAndCommit := by
  unfold Obligations.ShardsVerifyAndCommit
  refine ⟨fun r s ha hr => ?_, fun r s ha hr => ?_⟩
  · intro a
    refine ⟨fun i x e m f k hx hi hm he _ hrestore hcommit hk hshards =>
      ⟨fun b hf hlen hdigest => ?_, fun hf => ⟨fun htries => ?_, fun htries hnone => ?_⟩⟩, ?_⟩
    · subst hf
      intro s' hgood
      exact shardFetchComplete_verifies ha hr hx hi hm he hk hrestore hshards hlen hdigest hgood
    · exact shardFetchComplete_asksAgain ha hx hi hm he hf htries
    · obtain ⟨t, hexec, hdone, hothers, hacc, hrec⟩ := shardFetchComplete_fails ha hr hx hi hm he hk hf hcommit htries hnone
      refine ⟨t, hexec, hdone, hothers, hacc.trans ?_, hrec⟩
      simp [Acc.over, hrestore, ← hnone, a]
    · intro expired
      refine ⟨fun hexp => ?_, exec_shardTimeout_waits⟩
      obtain ⟨t, hexec, hothers, hregs, hacc, hdone⟩ := shardTimeout_pauses ha hr hexp
      exact ⟨t, hexec, hothers, hregs, hacc, fun q k hk hq => hdone q k hk (Acc.mem_timedOut.mpr hq)⟩
  · intro a
    refine ⟨fun g m q k hg hm hq hk => ⟨fun hphase hall hready => ⟨fun hmoments => ?_, fun nandOk colophonOk hbad => ?_⟩, ?_⟩,
      fun o ho => ⟨fun hover hchecks => ?_, ?_⟩⟩
    · obtain ⟨norms, hexec⟩ := exec_commitRecordsDurable hg hm hq hphase hall hready hmoments
      have hacc := accOf_madeDurable (r := r) ha g m norms
      refine ⟨fun hpass => ?_, fun hpass => ?_⟩
      · rw [if_pos hpass] at hexec
        refine ⟨_, hexec, fun p hp => accOf_modAcc_ne (s := { s with free := s.free + 2048 }) ha _ hp, rfl, ?_⟩
        rw [hacc]
        rfl
      · rw [if_neg (by simp [hpass])] at hexec
        have hw : FlipWaits (madeDurable s r g m norms) r (packageOf s g a m) q :=
          ⟨congrArg Acc.phase hacc, congrArg Acc.newPackage hacc, (congrArg Acc.commitSeq hacc).trans hq⟩
        obtain ⟨hcommitted, hdone⟩ := boundary_flips (accOk_madeDurable ha g m norms) hw hk
        rw [hacc] at hcommitted
        generalize boundaryEvents (boundaryChanges (madeDurable s r g m norms) r) r true = t at hexec hcommitted hdone
        simp only [Acc.committed, Prod.mk.injEq] at hcommitted
        obtain ⟨hidle, hpackage, hgeneration⟩ := hcommitted
        exact ⟨t, hexec, hidle, hpackage, hgeneration, hdone⟩
    · have hdone := (AccOnly.refl (r := r) ha hr).accDone q 0x0D (some m)
      have hback := hdone.modAcc fun a => { a with phase := .receiving, commitSeq := none }
      obtain ⟨harr, hkv, hcol, hrun⟩ := hback.parts
      refine ⟨_, exec_commitRecordsDurable_fails hg hm hq hphase hall hready hbad, hback.others, harr, hkv, hcol, hrun, hback.regs, ?_,
        accDone_finishedAs hk r 0x0D (some m)⟩
      rw [accOf_modAcc hdone.accOk, accOf_accDone ha]
    · exact exec_commitRecordsDurable_waits hg hm hq
    · exact ⟨_, exec_archiveCopyFree ho hover hchecks, rfl, fun p hp => accOf_modAcc_ne ha _ hp, accOf_modAcc ha r _⟩
    · exact exec_archiveCopyFree_waits ho

end Sys2Proof.Machine
end
end

section
/-!
PROOFS. What the operations on KV pages change (R253, R258): the catalogue's entries, which are told apart by their index, and the poisoned lines; and
what a session found by its handle reads as.
-/
section
open Sys2Proof Sys2Proof.Machine
namespace Sys2Proof.Machine

variable {s t u : State} {h n : Nat} {x : Session}

/-! ### Sessions -/

theorem findSession_of_sessions (hs : t.kv.sessions = s.kv.sessions) (n : Nat) : findSession t n = findSession s n := congrArg (List.find? _) hs

theorem findSession_handle (hx : findSession s h = some x) : x.handle = h := by simpa using List.find?_some hx

/-- A session that is found reads, once changed, what the change makes of it. -/
theorem findSession_modSession_found (hx : findSession s h = some x) (f : Session → Session) (hf : ∀ y, (f y).handle = y.handle) :
    findSession (modSession s h f) h = some (f x) := by
  rw [findSession_modSession h f hf, hx, Option.map_some]

/-- What does not bear the name of the change stays in the list. -/
theorem mem_modFirst_of_not {α : Type} {p : α → Bool} (f : α → α) {l : List α} {y : α} (hy : y ∈ l) (hp : p y = false) : y ∈ modFirst p f l := by
  induction l with
  | nil => cases hy
  | cons z zs ih =>
    simp only [modFirst]
    rcases List.mem_cons.mp hy with rfl | hmem
    · simp [hp]
    · split
      · exact List.mem_cons_of_mem _ hmem
      · exact List.mem_cons_of_mem _ (ih hmem)

theorem mem_sessions_modSession {y : Session} (hy : y ∈ s.kv.sessions) (hne : y.handle ≠ h) (f : Session → Session) :
    y ∈ (modSession s h f).kv.sessions := mem_modFirst_of_not f hy (by simpa using hne)

/-! ### The catalogue (R253) -/

theorem pageKey_inj {i j : Nat} : pageKey h i = pageKey h j ↔ i = j := Nat.add_left_cancel_iff

/-- The catalogue with `f` applied to some entries of a hall. -/
def changedEntries (h : Nat) (f : Page → Page) (m : Sparse Page) (is : List Nat) : Sparse Page :=
  is.foldl (fun m i => smod (fun _ => freePage) m (pageKey h i) f) m

/-- Each entry named changes once, and no other one. -/
theorem sget_changedEntries {m : Sparse Page} (hm : swf (fun _ => freePage) m = true) (f : Page → Page) {is : List Nat} (his : is.Nodup) (j : Nat) :
    sget (fun _ => freePage) (changedEntries h f m is) (pageKey h j) =
      if j ∈ is then f (sget (fun _ => freePage) m (pageKey h j)) else sget (fun _ => freePage) m (pageKey h j) := by
  induction is generalizing m with
  | nil => rfl
  | cons i is ih =>
    obtain ⟨hi, his⟩ := List.nodup_cons.mp his
    refine (ih (smod_swf _ f hm) his).trans ?_
    simp only [smod, sget_sset_ite hm, pageKey_inj, List.mem_cons]
    by_cases hj : j = i
    · subst hj
      simp [hi]
    · simp [hj]

/-- `s` with another catalogue and other poisoned lines. -/
def State.withPages (s : State) (pages : Sparse Page) (bad : Sparse Bool) : State := { s with kv := { s.kv with pages := pages, bad := bad } }

theorem foldl_modPage (h : Nat) (f : Page → Page) (is : List Nat) (s : State) :
    is.foldl (fun s i => modPage s h i f) s = s.withPages (changedEntries h f s.kv.pages is) s.kv.bad := by
  induction is generalizing s with
  | nil => rfl
  | cons i is ih => exact ih (modPage s h i f)

/-! ### What changes pages alone (R258) -/

/-- Between `s` and `t` at most the catalogue and the poisoned lines have changed. -/
def PagesOnly (s t : State) : Prop := ∃ pages bad, t = s.withPages pages bad

theorem PagesOnly.refl (s : State) : PagesOnly s s := ⟨_, _, rfl⟩

theorem PagesOnly.trans (h : PagesOnly s t) (h' : PagesOnly t u) : PagesOnly s u := by
  obtain ⟨_, _, rfl⟩ := h
  obtain ⟨_, _, rfl⟩ := h'
  exact ⟨_, _, rfl⟩

/-- A walk whose every step changes pages alone. -/
theorem PagesOnly.foldl {α : Type} {f : State → α → State} (hf : ∀ u x, PagesOnly u (f u x)) (l : List α) (s : State) : PagesOnly s (l.foldl f s) := by
  induction l generalizing s with
  | nil => exact .refl s
  | cons x xs ih => exact (hf s x).trans (ih _)

theorem modPage_pagesOnly (s : State) (h i : Nat) (f : Page → Page) : PagesOnly s (modPage s h i f) := ⟨_, _, rfl⟩

theorem releasePage_pagesOnly (s : State) (h i : Nat) : PagesOnly s (releasePage s h i) := by
  unfold releasePage
  dsimp only
  split <;> exact ⟨_, _, rfl⟩

theorem releaseAll_pagesOnly (s : State) (x : Session) : PagesOnly s (releaseAll s x) := by
  unfold releaseAll
  split
  · exact .refl s
  · exact .foldl (fun _ _ => releasePage_pagesOnly ..) _ s

theorem releaseAll_of_noPages (hx : x.pages = []) : releaseAll s x = s := by
  unfold releaseAll
  split
  · rfl
  · rw [hx, List.foldl_nil]

end Sys2Proof.Machine
end
end

section
/-!
PROOFS. PAGE_FORK and PAGE_RELEASE (R252, R256, R258).
-/
section
open Sys2Proof Sys2Proof.Machine
namespace Sys2Proof.Machine

variable {s : State} {c seq h n : Nat} {k : Cmd} {p x : Session}

/-- A session's pages that begin below a length. -/
def Session.pagesBelow (x : Session) (n : Nat) : List (Nat × Nat × Nat) := x.pages.filter fun q => decide (pageFirst q.2.1 < n)

/-! ### PAGE_FORK (R252, R256) -/

/-- A page with one session more that shares it. -/
def Page.shared (p : Page) : Page := { p with refs := p.refs + 1, cow := true }

/-- The catalogue with a session's pages below a length shared once more. -/
def sharedPages (s : State) (h : Nat) (p : Session) (n : Nat) : Sparse Page :=
  changedEntries h Page.shared s.kv.pages ((p.pagesBelow n).map fun q => q.2.2)

/-- The session `x` as the child of `p`, forked at length `n` in the parent's hall. -/
def Session.childOf (p : Session) (h n : Nat) (x : Session) : Session := { x with pages := p.pagesBelow n, length := n, hall := some h }

/-- A child that holds no page has none to release: it takes the parent's. -/
theorem forkPages_shares {a b : Nat} (hp : findSession s a = some p) (hx : findSession s b = some x) (hnone : x.pages = []) (hh : p.hall = some h) :
    forkPages s a b n = modSession (s.withPages (sharedPages s h p n) s.kv.bad) b (p.childOf h n) := by
  have hfold := foldl_modPage h Page.shared ((p.pagesBelow n).map fun q => q.2.2) s
  rw [List.foldl_map] at hfold
  simp only [forkPages, hp, hx, releaseAll_of_noPages hnone, hh]
  exact congrArg (fun u => modSession u b (p.childOf h n)) hfold

/-- Of the parent's pages, which it holds once each, those below the length are shared. -/
theorem sget_sharedPages (hs : swf (fun _ => freePage) s.kv.pages = true) (hnodup : (p.pages.map fun q => q.2.2).Nodup) {q : Nat × Nat × Nat}
    (hq : q ∈ p.pages) : sget (fun _ => freePage) (sharedPages s h p n) (pageKey h q.2.2) =
      if pageFirst q.2.1 < n then (pageAt s h q.2.2).shared else pageAt s h q.2.2 := by
  have hmem : q.2.2 ∈ (p.pagesBelow n).map (fun q => q.2.2) ↔ pageFirst q.2.1 < n := by
    simp only [Session.pagesBelow, List.mem_map, List.mem_filter, decide_eq_true_eq]
    constructor
    · rintro ⟨q', ⟨hq', hlt⟩, heq⟩
      rwa [← List.inj_on_of_nodup_map hnodup hq' hq heq]
    · exact fun hlt => ⟨q, ⟨hq, hlt⟩, rfl⟩
  exact (sget_changedEntries hs Page.shared (hnodup.sublist (List.filter_sublist.map _)) q.2.2).trans (if_congr hmem rfl rfl)

section
variable (hk : findCmd s c seq = some k) (hph : k.phase = .begun)
include hk hph

theorem exec_pageFork (hop : k.op = 0x07) (hok : forkStatus s k.body = stOk) :
    exec (.pageFork c seq) s = .next (finish (forkPages s (rd k.body 0 4) (rd k.body 4 4) (rd k.body 8 4)) c seq stOk 0) := by
  show execPageFork c seq s = _
  simp only [execPageFork, cmdIn_found hk hph hop, hok, if_true]

theorem exec_pageFork_refused (hop : k.op = 0x07) (hbad : forkStatus s k.body ≠ stOk) :
    exec (.pageFork c seq) s = .next (finish s c seq (forkStatus s k.body) 0) := by
  show execPageFork c seq s = _
  simp only [execPageFork, cmdIn_found hk hph hop, hbad, if_false]

/-! ### PAGE_RELEASE (R258) -/

theorem exec_pageRelease (hop : k.op = 0x08) (hx : findSession s (rd k.body 0 4) = some x) (hle : rd k.body 4 4 ≤ x.length) (hres : x.res = .resident) :
    exec (.pageRelease c seq) s = .next (finish (keepPages s x (rd k.body 4 4)) c seq stOk 0) := by
  show execPageRelease c seq s = _
  simp [execPageRelease, cmdIn_found hk hph hop, hx, Nat.not_lt.mpr hle, hres]

theorem exec_pageRelease_beyond (hop : k.op = 0x08) (hx : findSession s (rd k.body 0 4) = some x) (hlt : x.length < rd k.body 4 4) :
    exec (.pageRelease c seq) s = .next (finish s c seq stFormat 0) := by
  show execPageRelease c seq s = _
  simp only [execPageRelease, cmdIn_found hk hph hop, hx, hlt, if_true]

theorem exec_pageRelease_away (hop : k.op = 0x08) (hx : findSession s (rd k.body 0 4) = some x) (hle : rd k.body 4 4 ≤ x.length)
    (hres : x.res ≠ .resident) : exec (.pageRelease c seq) s = .next (finish s c seq stPreempted 0) := by
  show execPageRelease c seq s = _
  simp [execPageRelease, cmdIn_found hk hph hop, hx, Nat.not_lt.mpr hle, hres]

end

/-- The pages beyond the length go and the one that holds it falls short; then the session has what is left. -/
theorem keepPages_truncates (s : State) (x : Session) (n : Nat) :
    ∃ u, PagesOnly s u ∧ keepPages s x n = modSession u x.handle fun y => { y with length := n, pages := x.pagesBelow n } :=
  ⟨_, (PagesOnly.foldl (fun _ _ => releasePage_pagesOnly ..) _ s).trans (.foldl (fun _ _ => modPage_pagesOnly ..) _ _), rfl⟩

/-- Settles O18: a fork shares the parent's pages, each entry once (`forkPages_shares`, `sget_sharedPages`), or finishes with its first failing status;
a release changes its session and pages alone (`keepPages_truncates`). -/
theorem forksAndReleasesOfPages : Obligations.ForksAndReleasesOfPages := by
  unfold Obligations.ForksAndReleasesOfPages
  refine ⟨fun c seq k s hk hph hop => ⟨fun hbad => ?_, fun p x h hok hp hx hnone hh hne hs hnodup _ => ?_⟩,
    fun c seq k x s hk hph hop hx => ⟨fun hle hres => ?_, fun hlt => ?_, fun hle hres => ?_⟩⟩
  · exact ⟨_, exec_pageFork_refused hk hph hop hbad, rfl, finish_finishedAs _ _ hk⟩
  · have hexec := exec_pageFork hk hph hop hok
    rw [forkPages_shares hp hx hnone hh] at hexec
    refine ⟨_, hexec, rfl, ?_, ?_, fun q hq => sget_sharedPages hs hnodup hq, finish_finishedAs _ _ hk⟩
    · exact (findSession_modSession_ne (p.childOf h _) (fun _ => rfl) hne).trans hp
    · exact findSession_modSession_found hx (p.childOf h _) fun _ => rfl
  · have hown : findSession s x.handle = some x := by rwa [findSession_handle hx]
    obtain ⟨_, ⟨pages, bad, rfl⟩, hkeep⟩ := keepPages_truncates s x (rd k.body 4 4)
    have hexec := exec_pageRelease hk hph hop hx hle hres
    rw [hkeep] at hexec
    refine ⟨_, hexec, ?_, fun y hy hne => ?_, finish_finishedAs _ _ hk, rfl⟩
    · exact findSession_modSession_found hown _ fun _ => rfl
    · exact mem_sessions_modSession (s := s) hy hne _
  · exact ⟨_, exec_pageRelease_beyond hk hph hop hx hlt, rfl, finish_finishedAs _ _ hk⟩
  · exact ⟨_, exec_pageRelease_away hk hph hop hx hle hres, rfl, finish_finishedAs _ _ hk⟩

end Sys2Proof.Machine
end
end

section
/-!
PROOFS. A session leaves for the host (R261, R262, R264): SWAP_OUT, the flush of its body and colophon, and the failures of either step.
-/
section
open Sys2Proof Sys2Proof.Machine
namespace Sys2Proof.Machine

variable {s : State} {c seq : Nat} {k : Cmd} {x : Session} {f : Fetch}

/-! ### What leaves sessions and pages alone -/

@[simp] theorem ite_kv (c : Prop) [Decidable c] (t u : State) : (if c then t else u).kv = if c then t.kv else u.kv := apply_ite State.kv c t u

/-- A walk whose every step leaves them. -/
theorem foldl_kv {α : Type} {f : State → α → State} (h : ∀ s x, (f s x).kv = s.kv) (l : List α) (s : State) : (l.foldl f s).kv = s.kv := by
  induction l generalizing s with
  | nil => rfl
  | cons x xs ih => rw [List.foldl_cons, ih, h]

@[simp] theorem annal_kv (s : State) (kind sev : Nat) (obj : Obj) (a0 a1 a2 : Nat) : (annal s kind sev obj a0 a1 a2).kv = s.kv := by
  rw [annal_frame]
  rfl

@[simp] theorem swapRecord_kv (s : State) (x : Session) (step cause : Nat) : (swapRecord s x step cause).kv = s.kv := annal_kv ..

/-- A transfer that completed was not lost with port B. -/
theorem reissued_of_ne_lost (s : State) (bulk : Bool) (hf : f ≠ .lost) : reissued s bulk f = false := by simp [reissued, hf]

/-! ### SWAP_OUT (R264) -/

section
variable (hk : findCmd s c seq = some k) (hph : k.phase = .begun) (hop : k.op = 0x09) (hbody : rd k.body 0 4 = x.handle)
  (hx : findSession s x.handle = some x)
include hk hph hop hbody hx

theorem exec_swapOut {s1 : State} (hres : x.res = .resident) (hroom : reserveExtent s x = some s1) :
    exec (.swapOut c seq) s = .next (startSwapOut s1 x.handle c seq true) := by
  show execSwapOut c seq s = _
  simp [execSwapOut, cmdIn_found hk hph hop, hbody, hx, hres, hroom]

theorem exec_swapOut_noSpace (hres : x.res = .resident) (hroom : reserveExtent s x = none) :
    exec (.swapOut c seq) s = .next (finish s c seq stNoSpace 0) := by
  show execSwapOut c seq s = _
  simp [execSwapOut, cmdIn_found hk hph hop, hbody, hx, hres, hroom]

theorem exec_swapOut_comet (hres : x.res = .comet) : exec (.swapOut c seq) s = .next (finish s c seq stOk 0) := by
  show execSwapOut c seq s = _
  simp [execSwapOut, cmdIn_found hk hph hop, hbody, hx, hres]

end

theorem reserveExtent_eq {s1 : State} (hroom : reserveExtent s x = some s1) :
    ∃ e, s1 = modSession s x.handle fun y => { y with extent := some (e, extentUnits s x) } := by
  obtain ⟨e, -, rfl⟩ := Option.map_eq_some_iff.mp hroom
  exact ⟨e, rfl⟩

/-- What a swap-out does to its session: it is on its way, with an extent of its own. -/
theorem findSession_startSwapOut (hx : findSession s x.handle = some x) (e n : Nat) (forCmd : Bool) :
    findSession (startSwapOut (modSession s x.handle fun y => { y with extent := some (e, n) }) x.handle c seq forCmd) x.handle =
      some { x with res := .swappingOut, swapStep := 2, extent := some (e, n) } := by
  have hreserved := findSession_modSession_found hx (fun y => { y with extent := some (e, n) }) fun _ => rfl
  exact findSession_modSession_found hreserved (fun y => { y with res := .swappingOut, swapStep := 2 }) fun _ => rfl

/-! ### A step fails (R261) -/

/-- A session whose swap-out has failed. -/
def Session.stays (x : Session) : Session := { x with res := .resident, extent := none, swapStep := 0 }

/-- The waiting commands learn it; of sessions and pages it changes the session and drops its swap-out. -/
theorem swapFailed_kv (s : State) (x : Session) (step cause : Nat) : (swapFailed s x step cause).kv =
    { (modSession s x.handle Session.stays).kv with swaps := s.kv.swaps.filter fun w => w.session != x.handle } := by
  unfold swapFailed
  dsimp only
  rw [foldl_kv]
  · simp only [modSession, swapRecord_kv]
    rfl
  · intro u w
    split <;> rfl

section
variable (hx : findSession s x.handle = some x) (hres : x.res = .swappingOut)
include hx hres

/-- The flush fails where its read does, or its function cannot move data. -/
theorem exec_swapOutFlushReadDone_fails (hstep : x.swapStep = 2) (hre : reissued s (swapBulk s (handleCarrel x.handle)) f = false)
    (hbad : (∀ b, f ≠ .data b) ∨ fnUp s (swapFn s (handleCarrel x.handle)) = false) :
    ∃ cause, exec (.swapOutFlushReadDone x.handle f) s = .next (swapFailed s x 1 cause) := by
  show ∃ cause, execSwapOutFlushReadDone x.handle f s = _
  cases f with
  | data b =>
    have hdown := hbad.resolve_left fun h => h b rfl
    cases he : x.extent with
    | some e => exact ⟨4, by simp [execSwapOutFlushReadDone, Option.filter, hx, hres, hstep, he, hdown]⟩
    | none => exact ⟨5, by simp [execSwapOutFlushReadDone, Option.filter, hx, hres, hstep, he, hre, fetchCause]⟩
  | _ => exact ⟨_, by simp [execSwapOutFlushReadDone, Option.filter, hx, hres, hstep, hre]; rfl⟩

/-- The check of the colophon fails likewise. -/
theorem exec_swapOutColophonReadDone_fails (hstep : x.swapStep = 4) (hre : reissued s (swapBulk s (handleCarrel x.handle)) f = false)
    (hbad : (∀ b, f ≠ .data b) ∨ fnUp s (swapFn s (handleCarrel x.handle)) = false) :
    ∃ cause, exec (.swapOutColophonReadDone x.handle f) s = .next (swapFailed s x 2 cause) := by
  show ∃ cause, execSwapOutColophonReadDone x.handle f s = _
  cases hup : fnUp s (swapFn s (handleCarrel x.handle)) with
  | false => exact ⟨4, by simp [execSwapOutColophonReadDone, Option.filter, hx, hres, hstep, hre, hup]⟩
  | true =>
    have hdata := hbad.resolve_right (by simp [hup])
    exact ⟨fetchCause f, by simp [execSwapOutColophonReadDone, Option.filter, hx, hres, hstep, hre, hup, hdata]⟩

theorem exec_completionTimeout_leaving : ∃ step, exec (.completionTimeout x.handle) s = .next (swapFailed s x step 2) := by
  show ∃ step, execCompletionTimeout x.handle s = _
  exact ⟨if x.swapStep = 2 then 1 else 2, by simp [execCompletionTimeout, hx, hres]⟩

/-- What port B lost is asked for again through PF1 (R227). -/
theorem exec_swapOut_reissued (hre : reissued s (swapBulk s (handleCarrel x.handle)) .lost = true) :
    exec (.swapOutFlushReadDone x.handle .lost) s = .next s ∧ exec (.swapOutColophonReadDone x.handle .lost) s = .next s := by
  show execSwapOutFlushReadDone x.handle .lost s = _ ∧ execSwapOutColophonReadDone x.handle .lost s = _
  by_cases hflush : x.swapStep = 2
  · simp [execSwapOutFlushReadDone, execSwapOutColophonReadDone, Option.filter, hx, hres, hre, hflush]
  · by_cases hcolophon : x.swapStep = 4 <;> simp [execSwapOutFlushReadDone, execSwapOutColophonReadDone, Option.filter, hx, hres, hre, hflush, hcolophon]

/-! ### The body and the colophon go out (R262) -/

theorem exec_swapOutFlushReadDone {e : Nat × Nat} (hstep : x.swapStep = 2) (he : x.extent = some e)
    (hup : fnUp s (swapFn s (handleCarrel x.handle)) = true) (b : Bytes) : exec (.swapOutFlushReadDone x.handle (.data b)) s =
      .next (modSession (dmaWrite (dmaWrite s (swapFn s (handleCarrel x.handle)) (swapAddr s (handleCarrel x.handle) (e.1 + 1)) (extentBody s x))
        (swapFn s (handleCarrel x.handle)) (swapAddr s (handleCarrel x.handle) e.1) (leavingColophon s x)) x.handle fun y =>
          { y with swapStep := 4, swapBody := (extentBody s x).length, swapDigest := shake256 (extentBody s x) }) := by
  show execSwapOutFlushReadDone x.handle (.data b) s = _
  simp [execSwapOutFlushReadDone, Option.filter, hx, hres, hstep, he, hup]

theorem exec_swapOutColophonReadDone (hstep : x.swapStep = 4) (hup : fnUp s (swapFn s (handleCarrel x.handle)) = true) :
    exec (.swapOutColophonReadDone x.handle (.data (leavingColophon s x))) s = .next (becomeComet s x) := by
  have hre := reissued_of_ne_lost (f := .data (leavingColophon s x)) s (swapBulk s (handleCarrel x.handle)) nofun
  show execSwapOutColophonReadDone x.handle (.data (leavingColophon s x)) s = _
  simp [execSwapOutColophonReadDone, Option.filter, hx, hres, hstep, hre, hup]

end

/-- A function that can move data writes. -/
theorem dmaWrite_up {fn : Fn} (hup : fnUp s fn = true) (addr : Nat) (b : Bytes) :
    dmaWrite s fn addr b = { s with out := { s.out with dma := ⟨fn, addr % 2 ^ 64, b⟩ :: s.out.dma } } := if_pos hup

/-- Two writes of one function, the later one newest. -/
theorem dmaWrite_twice {fn : Fn} (hup : fnUp s fn = true) (a a' : Nat) (b b' : Bytes) : dmaWrite (dmaWrite s fn a b) fn a' b' =
    { s with out := { s.out with dma := ⟨fn, a' % 2 ^ 64, b'⟩ :: ⟨fn, a % 2 ^ 64, b⟩ :: s.out.dma } } := by
  rw [dmaWrite_up hup]
  exact dmaWrite_up (s := { s with out := { s.out with dma := ⟨fn, a % 2 ^ 64, b⟩ :: s.out.dma } }) hup a' b'

/-! ### The session is a comet (R262, R264) -/

/-- What `x` leaves behind in `s` as it becomes a comet: its pages as the catalogue held them, and the epoch at which it started to leave. -/
def Session.asComet (s : State) (x y : Session) : Session :=
  { y with
    res := .comet, swapStep := 0, pages := [], cometEpoch := swapEpoch s x.handle
    away := x.pages.map fun q => (q.1, q.2.1, pageAt s (x.hall.getD 0) q.2.2) }

/-- The module with a session gone as a comet, and what its departure makes of the catalogue, the poisoned lines and the registers. -/
def State.cometGone (s : State) (x : Session) (pages : Sparse Page) (bad : Sparse Bool) (regs : Sparse W64) : State :=
  let u := modSession (s.withPages pages bad) x.handle (x.asComet s)
  { u with regs := regs, kv := { u.kv with swaps := s.kv.swaps.filter fun w => w.session != x.handle } }

/-- The SWAP_OUTs that wait for a session finish behind its departure. -/
theorem becomeComet_eq (s : State) (x : Session) : ∃ pages bad regs, becomeComet s x =
    (s.kv.swaps.filter fun w => w.session == x.handle && w.forCmd).foldl (fun s w => finish s w.stream w.seq stOk 0) (s.cometGone x pages bad regs) := by
  obtain ⟨pages, bad, hrelease⟩ := releaseAll_pagesOnly s x
  unfold becomeComet
  dsimp only
  rw [hrelease]
  split <;> exact ⟨pages, bad, _, rfl⟩

/-- Settles O19: a SWAP_OUT starts or is answered (`exec_swapOut`), the flush writes twice (`dmaWrite_twice`), the colophon's check makes the session a
comet (`becomeComet_eq`), and a step that fails leaves it resident (`swapFailed_kv`). -/
theorem sessionsLeaveForTheHost : Obligations.SessionsLeaveForTheHost := by
  unfold Obligations.SessionsLeaveForTheHost
  intro x s hx
  refine ⟨fun c seq k hk hph hop hbody => ⟨fun hres s1 hroom => ?_, fun hres hroom => ?_, fun hres => ?_⟩, fun b e hres hstep he hup => ?_,
    fun hres hstep hup => ?_, fun i f hre hi hres => ?_, fun hre hres _ => exec_swapOut_reissued hx hres hre⟩
  · have hexec := exec_swapOut hk hph hop hbody hx hres hroom
    obtain ⟨e, rfl⟩ := reserveExtent_eq hroom
    exact ⟨_, e, hexec, findSession_startSwapOut hx e _ true, rfl, rfl⟩
  · exact ⟨_, exec_swapOut_noSpace hk hph hop hbody hx hres hroom, rfl, finish_finishedAs _ _ hk⟩
  · exact ⟨_, exec_swapOut_comet hk hph hop hbody hx hres, rfl, finish_finishedAs _ _ hk⟩
  · have hexec := exec_swapOutFlushReadDone hx hres hstep he hup b
    rw [dmaWrite_twice hup] at hexec
    exact ⟨_, hexec, findSession_modSession_found hx _ fun _ => rfl, rfl, rfl⟩
  · obtain ⟨pages, bad, regs, hcomet⟩ := becomeComet_eq s x
    have hexec := exec_swapOutColophonReadDone hx hres hstep hup
    rw [hcomet] at hexec
    have hkv := foldl_kv (f := fun s w => finish s w.stream w.seq stOk 0) (fun _ _ => rfl)
      (s.kv.swaps.filter fun w => w.session == x.handle && w.forCmd) (s.cometGone x pages bad regs)
    refine ⟨_, hexec, ?_, ?_, fun c seq k hk hone => ?_⟩
    · exact (findSession_of_sessions (congrArg Kv.sessions hkv :) _).trans (findSession_modSession_found hx (x.asComet s) fun _ => rfl)
    · rw [hkv]
      exact fun w hw => by simpa using (List.mem_filter.mp hw).2
    · rw [hone]
      have hdone : finishedAs (finish (s.cometGone x pages bad regs) c seq stOk 0) c seq k stOk 0 := finish_finishedAs stOk 0 hk
      simpa [finishedAs] using hdone
  · have hfails : ∃ step cause, exec i s = .next (swapFailed s x step cause) := by
      rcases hi with ⟨⟨hstep, rfl⟩ | ⟨hstep, rfl⟩, hbad⟩ | rfl
      · exact ⟨1, exec_swapOutFlushReadDone_fails hx hres hstep hre hbad⟩
      · exact ⟨2, exec_swapOutColophonReadDone_fails hx hres hstep hre hbad⟩
      · obtain ⟨step, h⟩ := exec_completionTimeout_leaving hx hres
        exact ⟨step, 2, h⟩
    obtain ⟨step, cause, hexec⟩ := hfails
    have hkv := swapFailed_kv s x step cause
    refine ⟨_, hexec, ?_, ?_, by rw [hkv]; rfl, by rw [hkv]; rfl⟩
    · exact (findSession_of_sessions (congrArg Kv.sessions hkv :) _).trans (findSession_modSession_found hx Session.stays fun _ => rfl)
    · rw [hkv]
      exact fun w hw => by simpa using (List.mem_filter.mp hw).2

end Sys2Proof.Machine
end
end

section
/-!
PROOFS. The return of a comet (R263, R264): SWAP_IN, the checks of the colophon and the body, and reads that fail.
-/
section
open Sys2Proof Sys2Proof.Machine
namespace Sys2Proof.Machine

variable {s t : State} {c seq : Nat} {k : Cmd} {x : Session} {b : Bytes}

/-! ### SWAP_IN (R264) -/

section
variable (hk : findCmd s c seq = some k) (hph : k.phase = .begun) (hop : k.op = 0x0A) (hbody : rd k.body 0 4 = x.handle)
  (hx : findSession s x.handle = some x)
include hk hph hop hbody hx

theorem exec_swapIn (hres : x.res = .comet) : exec (.swapIn c seq) s = .next (startReturn s x.handle) := by
  show execSwapIn c seq s = _
  simp [execSwapIn, cmdIn_found hk hph hop, hbody, hx, hres]

theorem exec_swapIn_resident (hres : x.res = .resident) : exec (.swapIn c seq) s = .next (finish s c seq stOk 0) := by
  show execSwapIn c seq s = _
  simp [execSwapIn, cmdIn_found hk hph hop, hbody, hx, hres]

end

theorem findSession_startReturn (hx : findSession s x.handle = some x) (hres : x.res = .comet) :
    findSession (startReturn s x.handle) x.handle = some { x with res := .returning, swapStep := 1, retried := false } := by
  refine (findSession_modSession_found hx _ fun y => ?_).trans ?_
  · split <;> rfl
  · rw [hres]
    rfl

/-! ### Pages for a return (R263) -/

theorem allocPage_sessions {h : Nat} {p : Page} {r : State × Nat} (hr : allocPage s h p = some r) : r.1.kv.sessions = s.kv.sessions := by
  simp only [allocPage] at hr
  split at hr
  · cases hr
    split <;> rfl
  · cases hr

/-- One page of a returning session, placed in its hall. -/
def placeReturned (h handle : Nat) (s : State) (q : Nat × Nat × Page) : Option State :=
  (allocPage s h { q.2.2 with refs := 1, cow := false }).map fun r =>
    modSession r.1 handle fun y => { y with pages := y.pages ++ [(q.1, q.2.1, r.2)] }

theorem allocReturn_eq (s : State) (x : Session) : allocReturn s x = foldOpt (placeReturned (x.hall.getD 0) x.handle) s x.away := rfl

/-- Each page placed joins the session's, which is otherwise as it was. -/
theorem foldOpt_placeReturned {h : Nat} {qs : List (Nat × Nat × Page)} {y : Session} (hu : foldOpt (placeReturned h x.handle) s qs = some t)
    (hy : findSession s x.handle = some y) :
    ∃ ps, findSession t x.handle = some { y with pages := ps } ∧ ps.length = y.pages.length + qs.length := by
  induction qs generalizing s y with
  | nil => cases hu; exact ⟨y.pages, hy, rfl⟩
  | cons q qs ih =>
    simp only [foldOpt] at hu
    split at hu
    · cases hu
    · next u hplace =>
      obtain ⟨r, hr, rfl⟩ := Option.map_eq_some_iff.mp hplace
      have hfound := (findSession_of_sessions (allocPage_sessions hr) x.handle).trans hy
      obtain ⟨ps, hps, hlen⟩ := ih hu (findSession_modSession_found hfound _ fun _ => rfl)
      refine ⟨ps, hps, hlen.trans ?_⟩
      simp only [List.length_append, List.length_cons, List.length_nil]
      omega

theorem findSession_allocReturn (ht : allocReturn s x = some t) (hx : findSession s x.handle = some x) :
    ∃ ps, findSession t x.handle = some { x with pages := ps } ∧ ps.length = x.pages.length + x.away.length :=
  foldOpt_placeReturned (allocReturn_eq s x ▸ ht) hx

/-! ### The body goes back (R263) -/

theorem spoilLines_sessions (s : State) (h a n : Nat) : (spoilLines s h a n).kv.sessions = s.kv.sessions := by
  obtain ⟨_, _, hs⟩ := PagesOnly.foldl (fun u i => (⟨_, _, rfl⟩ : PagesOnly u (spoilLine u h (a + 64 * i)))) (List.range (n / 64)) s
  rw [spoilLines, hs]
  rfl

/-- A walk whose every step leaves the sessions, whatever else it carries. -/
theorem foldl_fst_sessions {α β : Type} {f : State × β → α → State × β} (h : ∀ p x, (f p x).1.kv.sessions = p.1.kv.sessions) (l : List α)
    (p : State × β) : (l.foldl f p).1.kv.sessions = p.1.kv.sessions := by
  induction l generalizing p with
  | nil => rfl
  | cons x xs ih => rw [List.foldl_cons, ih, h]

theorem hbmWrite_sessions (s : State) (h a : Nat) (bs : Bytes) : (hbmWrite s h a bs).kv.sessions = s.kv.sessions := rfl

theorem restorePage_sessions (s : State) (h : Nat) (p : Page) (data : Bytes) : (restorePage s h p data).kv.sessions = s.kv.sessions := by
  unfold restorePage
  split
  · rfl
  · dsimp only
    split
    · rw [spoilLines_sessions]
      refine foldl_fst_sessions (fun _ _ => ?_) _ _
      exact hbmWrite_sessions ..
    · refine foldl_fst_sessions (fun _ _ => ?_) _ _
      exact hbmWrite_sessions ..

theorem restoreBody_sessions (s : State) (x : Session) (b : Bytes) : (restoreBody s x b).kv.sessions = s.kv.sessions := by
  unfold restoreBody
  refine foldl_fst_sessions (fun _ _ => ?_) _ _
  exact restorePage_sessions ..

/-- A session back from the host. -/
def Session.isBack (x : Session) : Session := { x with res := .resident, extent := none, swapStep := 0, away := [] }

theorem becomeResident_kv (s : State) (x : Session) : (becomeResident s x).kv = (modSession s x.handle Session.isBack).kv := by
  unfold becomeResident
  dsimp only
  refine (foldl_kv (fun _ _ => ?_) _ _).trans ?_
  · exact finish_kv ..
  · rw [ite_kv, fbump_kv, ite_self]
    rfl

theorem findSession_becomeResident (hx : findSession s x.handle = some x) : findSession (becomeResident s x) x.handle = some x.isBack :=
  (findSession_of_sessions (congrArg Kv.sessions (becomeResident_kv s x)) _).trans (findSession_modSession_found hx Session.isBack fun _ => rfl)

/-! ### A return is given up (R263) -/

theorem writeEntries_kv (s : State) (k : Cmd) (es : List Entry) : (writeEntries s k es).kv = s.kv :=
  foldl_kv (fun u e => by rw [dmaWrite_frame]) es s

theorem refuseSession_kv (s : State) (k : Cmd) (h status : Nat) : (refuseSession s k h status).kv = s.kv := by
  unfold refuseSession
  split
  · rfl
  · split
    · rfl
    · exact writeEntries_kv ..

theorem refuseWaiters_kv (s : State) (h status : Nat) : (refuseWaiters s h status).kv = s.kv := foldl_kv (fun _ _ => refuseSession_kv ..) _ s

/-- A session whose return has been given up. -/
def Session.backAway (x : Session) : Session := { x with res := .comet, swapStep := 0, pages := [] }

theorem findSession_giveUpReturn (hx : findSession s x.handle = some x) : findSession (giveUpReturn s x) x.handle = some x.backAway := by
  obtain ⟨_, _, hrelease⟩ := releaseAll_pagesOnly s x
  rw [giveUpReturn, hrelease]
  exact findSession_modSession_found hx Session.backAway fun _ => rfl

theorem findSession_swapRecord (hx : findSession s x.handle = some x) (step cause : Nat) :
    findSession (swapRecord s x step cause) x.handle = some x := (findSession_of_sessions (congrArg Kv.sessions (swapRecord_kv ..)) _).trans hx

/-- The session dies of it. -/
theorem findSession_returnDies (hx : findSession s x.handle = some x) (hdead : x.dead = none) (step cause : Nat) :
    findSession (returnDies s x step cause) x.handle = some { x.backAway with dead := some stPoisoned } := by
  refine (findSession_of_sessions (congrArg Kv.sessions (refuseWaiters_kv ..)) _).trans ?_
  refine (findSession_modSession_found (findSession_giveUpReturn (findSession_swapRecord hx step cause)) _ fun y => ?_).trans ?_
  · split <;> rfl
  · simp only [Session.backAway, hdead]
    rfl

theorem findSession_returnReadFailed (hx : findSession s x.handle = some x) (cause : Nat) :
    findSession (returnReadFailed s x cause) x.handle = some (if x.retried then x.backAway else { x with retried := true }) := by
  unfold returnReadFailed
  split
  · exact (findSession_of_sessions (congrArg Kv.sessions (refuseWaiters_kv ..)) _).trans (findSession_giveUpReturn (findSession_swapRecord hx 3 cause))
  · exact findSession_modSession_found hx _ fun _ => rfl

/-! ### COMET_RETURN_READ_DONE (R227, R263) -/

section
variable (hx : findSession s x.handle = some x) (hres : x.res = .returning)
include hx hres

theorem exec_cometReturnReadDone_colophon (hstep : x.swapStep = 1) (hok : colophonOk x b = true) (ht : allocReturn s x = some t) :
    exec (.cometReturnReadDone x.handle (.data b)) s =
      .next (modSession t x.handle fun y => { y with swapStep := 2, retried := false, swapDigest := slice b 0x28 32 }) := by
  show execCometReturnReadDone x.handle (.data b) s = _
  simp [execCometReturnReadDone, colophonRead, Option.filter, hx, hres, hstep, hok, ht]

theorem exec_cometReturnReadDone_body (hstep : x.swapStep ≠ 1) (hlen : b.length = x.swapBody) (hdigest : shake256 b = x.swapDigest) :
    exec (.cometReturnReadDone x.handle (.data b)) s = .next (becomeResident (restoreBody s x b) x) := by
  show execCometReturnReadDone x.handle (.data b) s = _
  simp [execCometReturnReadDone, Option.filter, hx, hres, hstep, ← hlen, hdigest]

/-- A colophon or body that does not fit kills the session. -/
theorem exec_cometReturnReadDone_unfit
    (hbad : x.swapStep = 1 ∧ colophonOk x b = false ∨ x.swapStep ≠ 1 ∧ ¬ (b.length = x.swapBody ∧ shake256 b = x.swapDigest)) :
    ∃ cause, exec (.cometReturnReadDone x.handle (.data b)) s = .next (returnDies s x 4 cause) := by
  show ∃ cause, execCometReturnReadDone x.handle (.data b) s = _
  rcases hbad with ⟨hstep, hno⟩ | ⟨hstep, hno⟩
  · exact ⟨5, by simp [execCometReturnReadDone, colophonRead, Option.filter, hx, hres, hstep, hno]⟩
  · have hcheck : ¬ (shake256 (b.take x.swapBody) = x.swapDigest ∧ b.length = x.swapBody) := fun ⟨hdigest, hlen⟩ =>
      hno ⟨hlen, by rwa [← hlen, List.take_length] at hdigest⟩
    exact ⟨6, by simp [execCometReturnReadDone, Option.filter, hx, hres, hstep, hcheck]⟩

theorem exec_cometReturnReadDone_poisoned : exec (.cometReturnReadDone x.handle .poisoned) s = .next (returnDies s x 3 3) := by
  show execCometReturnReadDone x.handle .poisoned s = _
  simp [execCometReturnReadDone, Option.filter, hx, hres]

theorem exec_cometReturnReadDone_reissued (hre : reissued s (swapBulk s (handleCarrel x.handle)) .lost = true) :
    exec (.cometReturnReadDone x.handle .lost) s = .next s := by
  show execCometReturnReadDone x.handle .lost s = _
  simp [execCometReturnReadDone, Option.filter, hx, hres, hre]

/-- A read that failed, or was lost for good. -/
theorem exec_cometReturn_readFailed {i : Instr} (hi : i ∈ [Instr.cometReturnReadDone x.handle .error, .cometReturnReadDone x.handle .timeout,
      .completionTimeout x.handle] ∨ (i = .cometReturnReadDone x.handle .lost ∧ reissued s (swapBulk s (handleCarrel x.handle)) .lost = false)) :
    ∃ cause, exec i s = .next (returnReadFailed s x cause) := by
  have hdone {f : Fetch} (hf : f = .error ∨ f = .timeout ∨ f = .lost) (hre : reissued s (swapBulk s (handleCarrel x.handle)) f = false) :
      ∃ cause, exec (.cometReturnReadDone x.handle f) s = .next (returnReadFailed s x cause) := by
    refine ⟨fetchCause f, ?_⟩
    show execCometReturnReadDone x.handle f s = _
    rcases hf with rfl | rfl | rfl <;> simp [execCometReturnReadDone, Option.filter, hx, hres, hre]
  simp only [List.mem_cons, List.not_mem_nil, or_false] at hi
  rcases hi with (rfl | rfl | rfl) | ⟨rfl, hre⟩
  · exact hdone (.inl rfl) (reissued_of_ne_lost _ _ nofun)
  · exact hdone (.inr (.inl rfl)) (reissued_of_ne_lost _ _ nofun)
  · show ∃ cause, execCompletionTimeout x.handle s = _
    exact ⟨2, by simp [execCompletionTimeout, hx, hres]⟩
  · exact hdone (.inr (.inr rfl)) hre

end

end Sys2Proof.Machine
end
end

section
/-!
PROOFS. What patrol scrub finds (R259, R265, R393): a line of a hall's HBM and the pages that hold it, or a line of its store and the table there; with
the return of comets the obligation on both.
-/
section
open Sys2Proof Sys2Proof.Machine
namespace Sys2Proof.Machine

variable {s t u : State} {hall addr : Nat}

/-! ### What records leave alone -/

/-- `s` with the registers and annals of `r` and another containment state: what a record, a counter or a fault signature may change. -/
def State.withFindings (s r : State) (con : Containment) : State := { s.withRegs r with con := con }

/-- Between `s` and `t` there were records and counts alone. -/
def FindingsOnly (s t : State) : Prop := ∃ r con, t = s.withFindings r con

theorem FindingsOnly.trans (h : FindingsOnly s t) (h' : FindingsOnly t u) : FindingsOnly s u := by
  obtain ⟨_, _, rfl⟩ := h
  obtain ⟨_, _, rfl⟩ := h'
  exact ⟨_, _, rfl⟩

theorem FindingsOnly.of_eq (h : t = s) : FindingsOnly s t := ⟨s, s.con, h⟩

theorem annal_findingsOnly (s : State) (kind sev : Nat) (obj : Obj) (a0 a1 a2 : Nat) : FindingsOnly s (annal s kind sev obj a0 a1 a2) :=
  ⟨_, s.con, annal_frame ..⟩

theorem fbump_findingsOnly (s : State) (f : FieldRef) (n : Nat) : FindingsOnly s (fbump s f n) := ⟨fbump s f n, s.con, rfl⟩

theorem hallFsr_findingsOnly (s : State) (hall : Nat) (region : Option Nat) : FindingsOnly s (hallFsr s hall region) := ⟨s, _, rfl⟩

theorem poisonHbm_findingsOnly (s : State) (hall : Nat) (region : Option Nat) : FindingsOnly s (poisonHbm s hall region) := by
  unfold poisonHbm poisonNoted
  exact (hallFsr_findingsOnly s hall region).trans (annal_findingsOnly ..)

/-! ### Pages gain POISON (R259) -/

def Page.poisoned (p : Page) : Page := { p with poison := true }

theorem poisonPage_findingsOnly (s : State) (hall : Nat) (e : Nat × Page) : FindingsOnly (modPage s hall e.1 Page.poisoned) (poisonPage s hall e) := by
  unfold poisonPage
  dsimp only
  split
  · exact annal_findingsOnly ..
  · exact (fbump_findingsOnly ..).trans (annal_findingsOnly ..)

/-- The entries found gain POISON, and each finding is recorded. -/
theorem foldl_poisonPage_findingsOnly (s : State) (hall : Nat) (hits : List (Nat × Page)) :
    FindingsOnly (s.withPages (changedEntries hall Page.poisoned s.kv.pages (hits.map Prod.fst)) s.kv.bad)
      (hits.foldl (fun s e => poisonPage s hall e) s) := by
  induction hits generalizing s with
  | nil => exact .of_eq rfl
  | cons e es ih =>
    obtain ⟨r, con, he⟩ := poisonPage_findingsOnly s hall e
    obtain ⟨r', con', hes⟩ := ih (poisonPage s hall e)
    rw [List.foldl_cons, hes, he]
    exact ⟨r', con', rfl⟩

/-- The entries that `pagesAt` finds are in use, and the catalogue reads so there. -/
theorem pageAt_of_mem_pagesAt (hs : swf (fun _ => freePage) s.kv.pages = true) {i : Nat} {p : Page} (hp : (i, p) ∈ pagesAt s hall addr) :
    pageAt s hall i = p := by
  obtain ⟨⟨j, p'⟩, hmem, he⟩ := List.mem_map.mp (List.mem_of_mem_filter hp)
  obtain ⟨hmem, huse⟩ := List.mem_filter.mp hmem
  simp only [Bool.and_eq_true, beq_iff_eq] at huse
  cases he
  have hkey : pageKey hall (j % 262144) = j := by
    unfold pageKey
    omega
  rw [pageAt, hkey]
  exact ((mem_iff_sget hs).mp hmem).1

/-- None is found twice: keys of one hall are told apart by their index. -/
theorem nodup_pagesAt (hs : swf (fun _ => freePage) s.kv.pages = true) (hall addr : Nat) : ((pagesAt s hall addr).map Prod.fst).Nodup := by
  refine List.Nodup.sublist (List.filter_sublist.map _) ?_
  rw [hallPages, List.map_map]
  refine List.Nodup.map_on ?_ ((List.Nodup.of_map _ (nodup_keys hs)).sublist List.filter_sublist)
  rintro ⟨j, p⟩ hj ⟨j', p'⟩ hj' (hmod : j % 262144 = j' % 262144)
  obtain ⟨hmem, hhall⟩ := List.mem_filter.mp hj
  obtain ⟨hmem', hhall'⟩ := List.mem_filter.mp hj'
  simp only [Bool.and_eq_true, beq_iff_eq] at hhall hhall'
  obtain rfl : j = j' := by omega
  rw [Prod.mk.injEq, ← ((mem_iff_sget hs).mp hmem).1, ← ((mem_iff_sget hs).mp hmem').1]
  exact ⟨rfl, rfl⟩

/-! ### PATROL_SCRUB (R393) -/

/-- The module with a line of HBM poisoned, and with it the pages that hold it. -/
def State.lineSpoiled (s : State) (hall addr : Nat) : State :=
  s.withPages (changedEntries hall Page.poisoned s.kv.pages ((pagesAt s hall addr).map Prod.fst)) (sset (fun _ => false) s.kv.bad (lineKey hall addr) true)

theorem exec_patrolScrub_line (hon : hallOff s hall = false) (haddr : addr < hbmBytesOfHall) :
    ∃ t, exec (.patrolScrub hall addr) s = .next (keepFinding (lineKey hall addr) t) ∧ FindingsOnly (s.lineSpoiled hall addr) t := by
  show ∃ t, execPatrolScrub hall addr s = _ ∧ _
  simp only [execPatrolScrub, hon, Nat.not_le.mpr haddr, if_false, Bool.false_eq_true]
  refine ⟨_, rfl, ?_⟩
  unfold State.lineSpoiled
  rcases pagesAt s hall addr with _ | ⟨e, es⟩
  · exact poisonHbm_findingsOnly ..
  · obtain ⟨r, con, hsigned⟩ := hallFsr_findingsOnly (spoilLine s hall addr) hall (some e.2.region)
    obtain ⟨r', con', hfold⟩ := foldl_poisonPage_findingsOnly (hallFsr (spoilLine s hall addr) hall (some e.2.region)) hall (e :: es)
    dsimp only
    rw [hfold, hsigned]
    exact ⟨r', con', rfl⟩

/-! ### The tables of a hall's store (R232) -/

/-- A walk that appends to a list keeps the list's head. -/
theorem head?_foldl_snd {α β γ : Type} {f : γ × List β → α → γ × List β} (hf : ∀ a x, ∃ y, (f a x).2 = a.2 ++ [y]) (l : List α) {a : γ × List β} {b : β}
    (hb : a.2.head? = some b) : (l.foldl f a).2.head? = some b := by
  induction l generalizing a with
  | nil => exact hb
  | cons x xs ih =>
    obtain ⟨y, hy⟩ := hf a x
    exact ih (by rw [hy, List.head?_append, hb, Option.some_or])

/-- A line of the first table of the hall's store: the entries that lie there are poisoned. -/
theorem spoilTables_head {tb : HallTable} {rest : List HallTable} {line : Nat} (htables : s.scr.tables = tb :: rest) (hhall : tb.hall = hall)
    (hline : line < ceilDiv tb.entries.length 8) : ∃ tables, tables.head? = some { tb with bad := (line :: tb.bad).eraseDups } ∧
      FindingsOnly { s with scr := { s.scr with tables := tables } } (spoilTables s hall line) := by
  refine ⟨_, ?_, poisonHbm_findingsOnly ..⟩
  rw [htables, List.foldl_cons]
  refine head?_foldl_snd (fun a x => ?_) rest ?_
  · split <;> exact ⟨_, rfl⟩
  · simp [hhall, hline]

theorem exec_patrolScrub_store (hon : hallOff s hall = false) (j : Nat) :
    exec (.patrolScrub hall (hbmBytesOfHall + 64 * j)) s = .next (spoilTables s hall j) := by
  show execPatrolScrub hall (hbmBytesOfHall + 64 * j) s = _
  have hline : (hbmBytesOfHall + 64 * j - hbmBytesOfHall) / 64 = j := by omega
  simp only [execPatrolScrub, hon, Nat.le_add_right, hline, if_true, if_false, Bool.false_eq_true]

/-- Settles O20: the return of a comet starts (`exec_swapIn`), gets its pages (`findSession_allocReturn`), ends (`findSession_becomeResident`), dies
(`findSession_returnDies`) or is given up (`findSession_returnReadFailed`); a line that scrub finds is poisoned with the pages that hold it, each once
(`exec_patrolScrub_line`), and in a hall's store with its table's entries (`spoilTables_head`). -/
theorem cometsReturnAndScrubsPoison : Obligations.CometsReturnAndScrubsPoison := by
  unfold Obligations.CometsReturnAndScrubsPoison
  refine ⟨fun x s hx => ⟨fun c seq k hk hph hop hbody => ⟨fun hres => ?_, fun hres => ?_⟩,
    fun hres => ⟨fun b hstep hok hroom => ?_, fun b hstep hlen hdigest => ?_, fun f hf hdead => ?_, exec_cometReturnReadDone_reissued hx hres, fun i hi => ?_⟩⟩,
    fun hall addr s _ hon hbad hpages => ⟨fun haddr => ?_, fun tb rest j haddr htables hhall hj => ?_⟩⟩
  · exact ⟨_, exec_swapIn hk hph hop hbody hx hres, rfl, findSession_startReturn hx hres⟩
  · exact ⟨_, exec_swapIn_resident hk hph hop hbody hx hres, rfl, finish_finishedAs _ _ hk⟩
  · obtain ⟨t, ht⟩ := Option.isSome_iff_exists.mp hroom
    obtain ⟨ps, hps, hlen⟩ := findSession_allocReturn ht hx
    exact ⟨_, _, exec_cometReturnReadDone_colophon hx hres hstep hok ht, findSession_modSession_found hps _ fun _ => rfl, hres, rfl, rfl, rfl, hlen⟩
  · have hbody := (findSession_of_sessions (restoreBody_sessions s x b) x.handle).trans hx
    exact ⟨_, exec_cometReturnReadDone_body hx hres hstep hlen hdigest, findSession_becomeResident hbody⟩
  · have hdies : ∃ step cause, exec (.cometReturnReadDone x.handle f) s = .next (returnDies s x step cause) := by
      rcases hf with ⟨b, rfl, hunfit⟩ | rfl
      · exact ⟨4, exec_cometReturnReadDone_unfit hx hres hunfit⟩
      · exact ⟨3, 3, exec_cometReturnReadDone_poisoned hx hres⟩
    obtain ⟨step, cause, hexec⟩ := hdies
    exact ⟨_, hexec, findSession_returnDies hx hdead step cause⟩
  · obtain ⟨cause, hexec⟩ := exec_cometReturn_readFailed hx hres hi
    exact ⟨_, hexec, findSession_returnReadFailed hx cause⟩
  · obtain ⟨_, hexec, r, con, rfl⟩ := exec_patrolScrub_line hon haddr
    refine ⟨_, hexec, sget_sset_same hbad, fun a ha => sget_sset_ne hbad ha, fun i p hp => ?_, rfl, rfl, rfl, rfl⟩
    have hentry : pageAt ((s.lineSpoiled hall addr).withFindings r con) hall i = p.poisoned := by
      refine (sget_changedEntries hpages _ (nodup_pagesAt hpages hall addr) i).trans ?_
      rw [if_pos (List.mem_map_of_mem hp)]
      exact congrArg Page.poisoned (pageAt_of_mem_pagesAt hpages hp)
    exact ⟨(congrArg Page.poison hentry :), (congrArg Page.refs hentry :)⟩
  · obtain ⟨tables, hhead, r, con, hspoil⟩ := spoilTables_head htables hhall hj
    have hexec := exec_patrolScrub_store hon j
    rw [hspoil, ← haddr] at hexec
    exact ⟨_, hexec, rfl, hhead⟩

end Sys2Proof.Machine
end
end

section
/-!
PROOFS. Register writes that do more than set fields, that are held, or that are ignored as a whole (R269, R291, R350; R8, R426, R427, R430).
-/
section
open Sys2Proof Sys2Proof.Machine
namespace Sys2Proof.Machine

variable {s : State} {fn : Fn} {standby : Bool} {off width value k a n : Nat}

/-! ### Writes that are ignored as a whole (R8, R427) -/

/-- An ignored write leaves a record of its offset and value, and nothing else. -/
theorem ignored_effect (hok : s.regsOk) (off value : Nat) :
    ignored s off value = s.withRegs (ignored s off value) ∧ s.regsFrom (ignored s off value) [] ∧ recorded s (ignored s off value) 0x0C00 1 off value 0 :=
  ⟨annal_frame .., fun _ _ hb => annal_rget hok _ _ _ _ _ _ hb, annal_recorded ..⟩

/-- A write names no register of its function, or one that its map ignores it for as a whole (R8, R426, R430). -/
def namesNoRegister (s : State) (fn : Fn) (off width value : Nat) : Prop :=
  barAddr fn (off / 8 * 8) = none ∨ ∃ a, barAddr fn (off / 8 * 8) = some a ∧ (regAt a = none ∨ ∃ d, regAt a = some d ∧
    (width = 4 ∧ (∃ f ∈ d.fields, f.acc = .wo) ∨ wholeIgnored s a (writtenOver s a off width value) d.fields = true))

theorem writeReg_unshaped (h : ¬ (width = 4 ∨ width = 8) ∨ off % width ≠ 0) : writeReg s fn off width value = (none, true) := by
  have hshape : ((width ≠ 4 && width ≠ 8) || off % width ≠ 0) = true := by simpa using h
  rw [writeReg, if_pos hshape]

theorem writeReg_namesNoRegister (h : namesNoRegister s fn off width value) : writeReg s fn off width value = (none, true) := by
  unfold writeReg
  split
  · rfl
  · rcases h with haddr | ⟨a, haddr, hreg | ⟨d, hreg, hwhole⟩⟩
    · rw [haddr]
    · simp only [haddr, hreg]
    · have hcond : ((width ≠ 8 && d.fields.any fun f => f.acc == .wo) || wholeIgnored s a (writtenOver s a off width value) d.fields) = true := by
        rcases hwhole with ⟨rfl, hwo⟩ | hwhole
        · simp [hwo]
        · simp [hwhole]
      simp only [haddr, hreg]
      rw [if_pos hcond]

theorem writeRegister_ignored (h : ¬ (width = 4 ∨ width = 8) ∨ off % width ≠ 0 ∨ (msixKey fn off = none ∧ namesNoRegister s fn off width value)) :
    writeRegister s fn off width value = ignored s off value := by
  have hwrite : writeReg s fn off width value = (none, true) := by
    rcases h with hwidth | halign | ⟨-, hnone⟩
    · exact writeReg_unshaped (.inl hwidth)
    · exact writeReg_unshaped (.inr halign)
    · exact writeReg_namesNoRegister hnone
  unfold writeRegister
  split
  · next k hkey =>
    rcases h with hwidth | halign | ⟨hnone, -⟩
    · exact if_neg fun hshape => hwidth hshape.1
    · exact if_neg fun hshape => halign hshape.2
    · cases hkey.symm.trans hnone
  · rw [hwrite]; rfl

/-- The standby port takes no write (R427). -/
theorem exec_registerWrite_standby (hpow : unpowered s = false) (hport : standbyPort s standby = true) :
    exec (.registerWrite standby fn off width value) s = .next (ignored s off value) := by
  show execRegisterWrite standby fn off width value s = _
  simp [execRegisterWrite, hpow, hport]

/-! ### Writes to a domain that sleeps, and from Idle (R345, R350) -/

theorem exec_registerWrite_held (hpow : unpowered s = false) (hport : standbyPort s standby = false) (hasleep : domainReady s (domainOf fn off) = false) :
    exec (.registerWrite standby fn off width value) s =
      .next { s with pst := { s.pst with writes := s.pst.writes ++ [(fn, off, leBytes width value)] } } := by
  show execRegisterWrite standby fn off width value s = _
  simp [execRegisterWrite, hpow, hport, hasleep]

theorem leaveIdle_depth (h : s.pst.depth = 1) : (leaveIdle s).pst.depth = 0 := by simp [leaveIdle, h]

/-- In Run there is nothing to leave. -/
theorem leaveIdle_run (h : s.pst.depth ≠ 1) : leaveIdle s = s := if_neg h

theorem leaveIdle_img (s : State) : (leaveIdle s).img = s.img := by
  unfold leaveIdle
  split <;> rfl

theorem exec_registerWrite_fromIdle (hport : standbyPort s standby = false) (hidle : s.pst.depth = 1) (hhall : 4 ≤ domainOf fn off) :
    exec (.registerWrite standby fn off width value) s = exec (.registerWrite standby fn off width value) (leaveIdle s) := by
  have hrun := leaveIdle_depth hidle
  have hport' : standbyPort (leaveIdle s) standby = false := by rw [← hport, standbyPort, standbyPort, standbyMode, standbyMode, leaveIdle_img]
  show execRegisterWrite standby fn off width value s = execRegisterWrite standby fn off width value (leaveIdle s)
  simp [execRegisterWrite, unpowered, domainReady, hidle, hrun, hport, hport', hhall, leaveIdle_run (s := leaveIdle s)]

/-! ### The MSI-X tables (R269, R284) -/

/-- A vector that has lost its mask sends the message that is pending, and no other one does. -/
theorem msixRelease_out (s : State) (fn : Fn) (v : Nat) : ∃ out, msixRelease s fn v = { s with out := out } ∧
    if fnUp s fn = true ∧ (fn, v) ∈ s.out.msixPend ∧ msixMasked s fn v = false
    then out = { s.out with msix := (fn, v) :: s.out.msix, msixPend := s.out.msixPend.filter (· != (fn, v)) } else out = s.out := by
  have hcond : (s.out.msixPend.elem (fn, v) && fnUp s fn && !msixMasked s fn v) = true ↔
      fnUp s fn = true ∧ (fn, v) ∈ s.out.msixPend ∧ msixMasked s fn v = false := by
    simp [and_assoc, and_left_comm]
  by_cases h : fnUp s fn = true ∧ (fn, v) ∈ s.out.msixPend ∧ msixMasked s fn v = false
  · exact ⟨_, if_pos (hcond.mpr h), by rw [if_pos h]⟩
  · exact ⟨_, if_neg (mt hcond.mp h), by rw [if_neg h]⟩

/-- The module with a word of an MSI-X table written. -/
def State.withMsixWord (s : State) (k : Nat) (word : W64) : State := { s with hst := { s.hst with msixTab := sset msixReset s.hst.msixTab k word } }

theorem writeRegister_msix (hwidth : width = 4 ∨ width = 8) (halign : off % width = 0) (hkey : msixKey fn off = some k) :
    writeRegister s fn off width value =
      msixRelease (s.withMsixWord k (withField (msixWord s k) (off % 8 * 8) (8 * width) value)) fn (k % 16 / 2) := by
  simp only [writeRegister, hkey]
  exact if_pos ⟨hwidth, halign⟩

/-! ### TSX.CTRL.ENABLE (R291) -/

/-- The field and the register of TSX.CTRL.ENABLE. -/
def enableField : FieldDef := ⟨0, 1, .rw, [], false⟩
def tsxCtrl : RegDef := ⟨0, 0, [⟨4, 1, .rw, [], false⟩, ⟨3, 1, .rw, [], false⟩, ⟨2, 1, .rw, [], false⟩, ⟨1, 1, .wo, [], false⟩, enableField]⟩

/-- A Tsuyx port's registers lie behind no selector (R432). -/
theorem homeOf_port (ha : 0x300000 ≤ a ∧ a < 0x360000) : homeOf s a = a := by
  have hadapters : a ≠ pf1Base + 0x7018 := by simp only [pf1Base]; omega
  simp only [homeOf]
  split_ifs <;> omega

theorem tsxCtrl_range (hn : n < 24) : 0x300000 ≤ (Reg.TSX_CTRL.ENABLE n).addr ∧ (Reg.TSX_CTRL.ENABLE n).addr < 0x360000 := by
  simp only [Reg.TSX_CTRL.ENABLE, portBase]
  omega

theorem regAt_tsxCtrl (hn : n < 24) : regAt (Reg.TSX_CTRL.ENABLE n).addr = some tsxCtrl := by
  have hoff : ((Reg.TSX_CTRL.ENABLE n).addr - 0x300000) % 0x4000 = 0 := by simp only [Reg.TSX_CTRL.ENABLE, portBase]; omega
  rw [regAt, if_pos (tsxCtrl_range hn), hoff]
  rfl

theorem withField_whole (r : W64) (x : Nat) : (withField r 0 64 x).toNat = x % 2 ^ 64 := by
  have hfield := fieldOf_withField_same r 0 64 x (by decide)
  rwa [fieldOf, nbits, Nat.shiftRight_zero, BitVec.toNat_mod_cancel] at hfield

theorem reaches_tsxCtrl (hn : n < 24) : ReachesRegister s .pf0 (Reg.TSX_CTRL.ENABLE n).addr 8 1 (Reg.TSX_CTRL.ENABLE n).addr tsxCtrl := by
  have hrange := tsxCtrl_range hn
  have haligned : (Reg.TSX_CTRL.ENABLE n).addr % 8 = 0 := by simp only [Reg.TSX_CTRL.ENABLE, portBase]; omega
  have hback : (Reg.TSX_CTRL.ENABLE n).addr / 8 * 8 = (Reg.TSX_CTRL.ENABLE n).addr := by omega
  have hlow : (Reg.TSX_CTRL.ENABLE n).addr % 0x4000 = 0 := by simp only [Reg.TSX_CTRL.ENABLE, portBase]; omega
  refine ⟨.inr rfl, haligned, ?_, regAt_tsxCtrl hn, .inl rfl, ?_⟩
  · rw [hback]
    exact if_pos (by simp only [pf1Base]; omega)
  · generalize (Reg.TSX_CTRL.ENABLE n).addr = a at *
    have h1 : a % 16384 ≠ 24 := by omega
    have h2 : ¬ 134217728 ≤ a := by omega
    simp [wholeIgnored, tsxCtrl, enableField, inMap, h1, h2]

section
variable {t : State} (hok : s.regsOk) (hn : n < 24)
  (ht : RecordsOnly (rset s (homeOf s (Reg.TSX_CTRL.ENABLE n).addr)
    (registerAfter s (Reg.TSX_CTRL.ENABLE n).addr (Reg.TSX_CTRL.ENABLE n).addr 8 1 tsxCtrl)) t)
include hok hn ht

/-- A plain write of 1 to TSX.CTRL sets ENABLE. -/
theorem fget_enable_written : fget t (Reg.TSX_CTRL.ENABLE n) = 1 := by
  have hrange := tsxCtrl_range hn
  have hhome := homeOf_port (s := s) hrange
  have hann : homeOf s (Reg.TSX_CTRL.ENABLE n).addr ∉ annalsRegs := fun hmem => by
    have hlow : ∀ b ∈ annalsRegs, b < 0x300000 := by decide
    have := hlow _ hmem
    omega
  have hlane : (Reg.TSX_CTRL.ENABLE n).addr % 8 * 8 = 0 := by simp only [Reg.TSX_CTRL.ENABLE, portBase]; omega
  have hvalue : nbits (writtenOver s (Reg.TSX_CTRL.ENABLE n).addr (Reg.TSX_CTRL.ENABLE n).addr 8 1) 0 1 = 1 := by
    rw [writtenOver, hlane, withField_whole]; rfl
  have htake : mayTake s (Reg.TSX_CTRL.ENABLE n).addr (writtenOver s (Reg.TSX_CTRL.ENABLE n).addr (Reg.TSX_CTRL.ENABLE n).addr 8 1) enableField 1 = true := by
    have hreg : ((Reg.TSX_CTRL.ENABLE n).addr - 0x300000) % 0x4000 = 0 := by simp only [Reg.TSX_CTRL.ENABLE, portBase]; omega
    simp [mayTake, hrange, hreg, enableField]
  have hfield := fget_writeRegister hok (regAt_tsxCtrl hn) ht (f := enableField) (by simp [tsxCtrl]) (FieldRef.apart_annalsFields hann)
  rw [FieldDef.after_rw ⟨by rw [hlane]; decide, by rw [hlane]; decide⟩ rfl rfl, hhome] at hfield
  refine hfield.trans ?_
  rw [show enableField.lo = 0 from rfl, show enableField.w = 1 from rfl, hvalue, if_pos ⟨rfl, htake⟩]

/-- The port then starts to train, and no other field of its range has changed. -/
theorem portWritten_enable (hwas : fget s (Reg.TSX_CTRL.ENABLE n) = 0) : portWritten t n s = fset t (Reg.TSX_STATUS.STATE n) 1 := by
  have hnow := fget_enable_written hok hn ht
  have hhome := homeOf_port (s := s) (tsxCtrl_range hn)
  have hinj : fget (fset t (Reg.TSX_STATUS.STATE n) 1) (Reg.TSX_INJ_CTRL.ENABLE n) = fget s (Reg.TSX_INJ_CTRL.ENABLE n) := by
    have hann : (Reg.TSX_INJ_CTRL.ENABLE n).addr ∉ annalsRegs := fun hmem => by
      have hlow : ∀ b ∈ annalsRegs, b < 0x300000 := by decide
      have := hlow _ hmem
      simp only [Reg.TSX_INJ_CTRL.ENABLE, portBase] at this
      omega
    rw [fget, rget_fset_ne ht.regsOk, ht.rget_eq hann, hhome, rget_rset_ne hok, fget] <;>
      simp only [Reg.TSX_INJ_CTRL.ENABLE, Reg.TSX_CTRL.ENABLE, Reg.TSX_STATUS.STATE, portBase] <;> omega
  simp [portWritten, hwas, hnow, hinj]

end

/-- A port that a plain write enables starts to train (R291). -/
theorem exec_registerWrite_enable (hok : s.regsOk) (hn : n < 24) (hpow : unpowered s = false) (hport : standbyPort s standby = false)
    (hrun : s.pst.depth = 0) (hwas : fget s (Reg.TSX_CTRL.ENABLE n) = 0) :
    ∃ t, RecordsOnly (rset s (homeOf s (Reg.TSX_CTRL.ENABLE n).addr)
        (registerAfter s (Reg.TSX_CTRL.ENABLE n).addr (Reg.TSX_CTRL.ENABLE n).addr 8 1 tsxCtrl)) t ∧
      exec (.registerWrite standby .pf0 (Reg.TSX_CTRL.ENABLE n).addr 8 1) s = .next (fset t (Reg.TSX_STATUS.STATE n) 1) := by
  have hrange := tsxCtrl_range hn
  have hready : domainReady s (domainOf .pf0 (Reg.TSX_CTRL.ENABLE n).addr) = true := by simp [domainReady, hrun]
  have hmsix : msixKey .pf0 (Reg.TSX_CTRL.ENABLE n).addr = none := if_neg (by omega)
  have hindex : ((Reg.TSX_CTRL.ENABLE n).addr - 0x300000) / 0x4000 = n := by simp only [Reg.TSX_CTRL.ENABLE, portBase]; omega
  have hnote := (RecordsOnly.refl (regsOk_rset hok (homeOf s (Reg.TSX_CTRL.ENABLE n).addr)
    (registerAfter s (Reg.TSX_CTRL.ENABLE n).addr (Reg.TSX_CTRL.ENABLE n).addr 8 1 tsxCtrl))).ignoredIf
      (writeReg s .pf0 (Reg.TSX_CTRL.ENABLE n).addr 8 1).2 (Reg.TSX_CTRL.ENABLE n).addr 1
  refine ⟨_, hnote, ?_⟩
  rw [exec_registerWrite_ready hpow (by omega) hport hready]
  simp only [writeRegister, hmsix, writeReg_reached (reaches_tsxCtrl hn), afterWrite, if_pos hrange, hindex]
  rw [portWritten_enable hok hn hnote hwas]

/-- Settles O4: a vector that loses its mask sends what is pending (`msixRelease_out`), an enabled port trains (`exec_registerWrite_enable`), a write
is held or wakes a hall (`exec_registerWrite_held`, `exec_registerWrite_fromIdle`), and one that reaches no register leaves a record
(`writeRegister_ignored`, `ignored_effect`). -/
theorem registerWritesElsewhereOrIgnored : Obligations.RegisterWritesElsewhereOrIgnored := by
  unfold Obligations.RegisterWritesElsewhereOrIgnored
  refine ⟨fun standby s hok hpow hport => ⟨fun fn off width value k hwidth halign hkey hready hcore => ?_, fun n hn hrun hwas => ?_,
    fun fn off width value hasleep => exec_registerWrite_held hpow hport hasleep,
    fun fn off width value hidle hhall => ⟨exec_registerWrite_fromIdle hport hidle hhall, leaveIdle_depth hidle⟩⟩,
    fun standby fn off width value s hok hpow hidle h => ⟨ignored s off value, ?_, ignored_effect hok off value⟩⟩
  · have hexec : exec (.registerWrite standby fn off width value) s = .next (writeRegister s fn off width value) := by
      show execRegisterWrite standby fn off width value s = _
      simp [execRegisterWrite, hpow, hport, hready, Nat.not_le.mpr hcore]
    obtain ⟨out, hrelease, hout⟩ := msixRelease_out (s.withMsixWord k (withField (msixWord s k) (off % 8 * 8) (8 * width) value)) fn (k % 16 / 2)
    rw [writeRegister_msix hwidth halign hkey, hrelease] at hexec
    exact ⟨_, hexec, rfl, fun hm => sget_sset_same hm, hout⟩
  · obtain ⟨t, ht, hexec⟩ := exec_registerWrite_enable (standby := standby) hok hn hpow hport hrun hwas
    have henable := fget_enable_written hok hn ht
    simp only [List.mem_cons, List.not_mem_nil, or_false, not_or, State.regsFrom]
    refine ⟨_, hexec, State.withRegs_trans (t := t) (State.withRegs_trans rfl ht.frame) rfl, ?_, ?_, fun b ⟨hctrl, hstatus⟩ hann => ?_⟩
    · rw [fget_fset_other ht.regsOk, henable] <;> simp [Reg.TSX_CTRL.ENABLE, Reg.TSX_STATUS.STATE]
    · rw [fget_fset_same ht.regsOk] <;> simp [Reg.TSX_STATUS.STATE]
    · rw [rget_fset_ne ht.regsOk _ hstatus, ht.rget_eq hann, rget_rset_ne hok _ (by rwa [homeOf_port (tsxCtrl_range hn)])]
  · rcases h with hstandby | ⟨hready, h⟩
    · exact exec_registerWrite_standby hpow hstandby
    · cases hstandby : standbyPort s standby with
      | true => exact exec_registerWrite_standby hpow hstandby
      | false => rw [exec_registerWrite_ready hpow hidle hstandby hready, writeRegister_ignored h]

end Sys2Proof.Machine
end
end

section
/-!
PROOFS. A RESYNC that writes reserved bits. INT.RESYNC takes its offset from bits 0 to 19; bits 20 to 31 are reserved, and a write that sets one
leaves a CONFIG_IGNORED record (R8, R427), while the stream runs again (R274). The statement on stream events lets a RESYNC of any value with an aligned
offset change registers, streams and what goes out, and so leaves no room for that record.
-/
section
open Sys2Proof Sys2Proof.Machine
namespace Sys2Proof.Machine

/-- A powered module whose stream 0 is halted. -/
def haltedStream : State :=
  { State.reset with
    pst := { State.reset.pst with depth := 0 }
    itk := { State.reset.itk with streams := [(0, { freshStream with halted := true })] } }

/-- The reserved bit 20 is noted in the annals. -/
theorem resync_haltedStream_noted : ∃ t, exec (.resync 0 false (2 ^ 20)) haltedStream = .next t ∧ t.ann.lastSeq = 1 := ⟨_, rfl, by decide +kernel⟩

/-- Refutes O14: RESYNC with 2^20 on `haltedStream`, offset 0, writes an annals record, and the frame keeps the annals. -/
theorem not_streamEvents : ¬ Obligations.StreamEvents := by
  unfold Obligations.StreamEvents
  intro h
  obtain ⟨-, hresync, -⟩ := h 0 haltedStream rfl (Nat.zero_le _) (by decide)
  obtain ⟨u, hu, hframe, -⟩ := hresync (2 ^ 20) rfl (by decide) (by decide)
  obtain ⟨t, ht, hnoted⟩ := resync_haltedStream_noted
  obtain rfl : t = u := by rw [ht] at hu; cases hu; rfl
  have hkept : t.ann.lastSeq = 0 := congrArg (·.ann.lastSeq) hframe
  omega

end Sys2Proof.Machine
end
end

section
/-!
PROOFS. Changes of one command: what it is found as afterwards, and that every other command stands.
-/
section
open Sys2Proof Sys2Proof.Machine
namespace Sys2Proof.Machine

variable {s : State} {c q : Nat} {k : Cmd}

/-- A change of a command that leaves it its stream and its number, and does not seal it. -/
def Cmd.KeepsName (f : Cmd → Cmd) : Prop := ∀ x, (f x).stream = x.stream ∧ (f x).seq = x.seq ∧ ((f x).phase = x.phase ∨ (f x).phase ≠ .sealed)

theorem Cmd.KeepsName.named {f : Cmd → Cmd} (hf : Cmd.KeepsName f) {x : Cmd} (hx : Cmd.named c q x = true) : Cmd.named c q (f x) = true := by
  obtain ⟨hstream, hseq, hphase⟩ := hf x
  simp only [Cmd.named, Bool.and_eq_true, beq_iff_eq, bne_iff_ne, hstream, hseq] at hx ⊢
  exact ⟨hx.1, hphase.elim (fun h => h ▸ hx.2) id⟩

/-- The command that changes is found changed. -/
theorem findCmd_modCmd_found (hk : findCmd s c q = some k) {f : Cmd → Cmd} (hf : Cmd.KeepsName f) : findCmd (modCmd s c q f) c q = some (f k) := by
  rw [findCmd_modCmd f fun _ => hf.named, hk, Option.map_some]

/-- A command of another number is found as it was, where the change keeps stream and number. -/
theorem findCmd_modCmd_ne {c' q' : Nat} {f : Cmd → Cmd} (hf : ∀ x, (f x).stream = x.stream ∧ (f x).seq = x.seq) (h : ¬ (c' = c ∧ q' = q)) :
    findCmd (modCmd s c q f) c' q' = findCmd s c' q' := by
  have hother (x : Cmd) (hx : Cmd.named c q x = true) (y : Cmd) (hy : y.stream = x.stream ∧ y.seq = x.seq) : Cmd.named c' q' y = false := by
    simp only [Cmd.named, Bool.and_eq_true, beq_iff_eq] at hx
    have : ¬ (y.stream = c' ∧ y.seq = q') := by rw [hy.1, hy.2, hx.1.1, hx.1.2]; exact fun hsame => h ⟨hsame.1.symm, hsame.2.symm⟩
    by_cases hc : y.stream = c' <;> simp_all [Cmd.named]
  exact find_modFirst_other _ _ f _ (fun x hx => hother x hx x ⟨rfl, rfl⟩) fun x hx => hother x hx _ (hf x)

/-- A list keeps, where its first element of a name changes, every other element. -/
theorem mem_modFirst_of_ne {α : Type} {p : α → Bool} (f : α → α) {l : List α} {x y : α} (hx : l.find? p = some x) (hy : y ∈ l) (hne : y ≠ x) :
    y ∈ modFirst p f l := by
  induction l with
  | nil => cases hy
  | cons z zs ih =>
    simp only [modFirst]
    split
    · next hz =>
      obtain rfl : z = x := by simpa [hz] using hx
      exact List.mem_cons_of_mem _ ((List.mem_cons.mp hy).resolve_left hne)
    · next hz =>
      rcases List.mem_cons.mp hy with rfl | hmem
      · exact List.mem_cons_self
      · exact List.mem_cons_of_mem _ (ih (by simpa [hz] using hx) hmem)

theorem mem_cmds_modCmd (hk : findCmd s c q = some k) (f : Cmd → Cmd) {y : Cmd} (hy : y ∈ s.itk.cmds) (hne : y ≠ k) : y ∈ (modCmd s c q f).itk.cmds :=
  mem_modFirst_of_ne f hk hy hne

theorem findCmd_mem (hk : findCmd s c q = some k) : k ∈ s.itk.cmds := List.mem_of_find?_eq_some hk

end Sys2Proof.Machine
end
end

section
/-!
PROOFS. What begins (R276, R280): the ready command of the best rank. FENCE, RECIPE_SET of both kinds (R38, R92, R279).
-/
section
open Sys2Proof Sys2Proof.Machine
namespace Sys2Proof.Machine

variable {s : State} {c seq : Nat} {k : Cmd}

/-! ### COMMAND_BEGIN (R280) -/

theorem serviceRank_serveFirst (s : State) (a b : Cmd) :
    serviceRank s (serveFirst s a b) ≤ serviceRank s a ∧ serviceRank s (serveFirst s a b) ≤ serviceRank s b := by
  unfold serveFirst
  split <;> omega

/-- Of some commands the best is served first. -/
theorem serviceRank_foldl_serveFirst (s : State) (ks : List Cmd) (a : Cmd) : ∀ j ∈ a :: ks, serviceRank s (ks.foldl (serveFirst s) a) ≤ serviceRank s j := by
  induction ks generalizing a with
  | nil => simp
  | cons b ks ih =>
    obtain ⟨hbest, hrest⟩ := List.forall_mem_cons.mp (ih (serveFirst s a b))
    have hab := serviceRank_serveFirst s a b
    exact List.forall_mem_cons.mpr ⟨hbest.trans hab.1, List.forall_mem_cons.mpr ⟨hbest.trans hab.2, hrest⟩⟩

theorem serviceRank_nextCmd (hnext : nextCmd s = some k) : ∀ j ∈ readyCmds s [] s.itk.cmds, serviceRank s k ≤ serviceRank s j := by
  unfold nextCmd at hnext
  split at hnext
  · cases hnext
  · next a ks hready =>
    obtain rfl := Option.some.inj hnext
    exact hready ▸ serviceRank_foldl_serveFirst s ks a

/-- A command at its beginning: begun, or finished with the status that it may not run for. -/
def Cmd.begunAs (status : Option Nat) (k : Cmd) : Cmd :=
  match status with
  | none => { k with phase := .begun }
  | some st => { k with phase := .finished, status := st, value := 0 }

theorem Cmd.begunAs_keepsName (status : Option Nat) : Cmd.KeepsName (Cmd.begunAs status) := by
  cases status <;> exact fun _ => ⟨rfl, rfl, .inr nofun⟩

theorem exec_commandBegin (hnext : nextCmd s = some k) :
    exec .commandBegin s = .next (modCmd s k.stream k.seq (Cmd.begunAs (beginStatus s k))) := by
  show execCommandBegin s = _
  simp only [execCommandBegin, hnext]
  cases beginStatus s k <;> rfl

theorem exec_commandBegin_none (hnext : nextCmd s = none) : exec .commandBegin s = .next s := by
  show execCommandBegin s = _
  simp only [execCommandBegin, hnext]

/-! ### FENCE (R280) -/

theorem exec_fenceCmd (hk : findCmd s c seq = some k) (hph : k.phase = .waiting) (hop : k.op = 0x0D) :
    exec (.fenceCmd c seq) s = .next (if earlierSealed c seq s.itk.cmds = true then finish s c seq stOk 0 else s) := by
  show execFenceCmd c seq s = _
  simp only [execFenceCmd, cmdIn_found hk hph hop]

/-! ### RECIPE_SET of KIND 0 (R92, R279) -/

/-- A carrel's mask leaves out a region that the command names. -/
def recipesDenied (s : State) (c : Nat) (k : Cmd) : Prop := c < 1024 ∧ ∃ x ∈ recipeEntries k.body, (carrelNow s c).mask.testBit x.region = false

theorem recipesDenied_iff (s : State) (c : Nat) (k : Cmd) :
    (decide (c < 1024) && (recipeEntries k.body).any fun x => !((carrelNow s c).mask.testBit x.region)) = true ↔ recipesDenied s c k := by
  simp [recipesDenied]

section
variable (hk : findCmd s c seq = some k) (hph : k.phase = .begun) (hop : k.op = 0x0B) (hkind : rd k.body 0 1 = 0)
include hk hph hop hkind

theorem recipeSet_found : ((cmdIn s c seq .begun 0x0B).filter fun k => rd k.body 0 1 == 0) = some k := by
  simp [cmdIn_found hk hph hop, Option.filter, hkind]

theorem exec_recipeSet_denied (hdenied : recipesDenied s c k) : exec (.recipeSet c seq) s = .next (finish s c seq stDenied 0) := by
  show execRecipeSet c seq s = _
  simp only [execRecipeSet, recipeSet_found hk hph hop hkind]
  rw [if_pos ((recipesDenied_iff s c k).mpr hdenied)]

section
variable (hmay : ¬ recipesDenied s c k)
include hmay

theorem exec_recipeSet_format (hbad : ∃ x ∈ recipeEntries k.body, recipeSetOk s x = false) :
    exec (.recipeSet c seq) s = .next (finish s c seq stFormat 0) := by
  have hall : (!(recipeEntries k.body).all (recipeSetOk s)) = true := by simpa using hbad
  show execRecipeSet c seq s = _
  simp only [execRecipeSet, recipeSet_found hk hph hop hkind]
  rw [if_neg (mt (recipesDenied_iff s c k).mp hmay), if_pos hall]

section
variable (hstand : ∀ x ∈ recipeEntries k.body, recipeSetOk s x = true)
include hstand

theorem exec_recipeSet_offline (hoff : ∃ x ∈ recipeEntries k.body, offline s x.region = true) :
    exec (.recipeSet c seq) s = .next (finish s c seq stOffline 0) := by
  have hall : ¬ (!(recipeEntries k.body).all (recipeSetOk s)) = true := by simpa using hstand
  show execRecipeSet c seq s = _
  simp only [execRecipeSet, recipeSet_found hk hph hop hkind]
  rw [if_neg (mt (recipesDenied_iff s c k).mp hmay), if_neg hall, if_pos (List.any_eq_true.mpr hoff)]

/-- Entries that may stand wait for their boundary; no member is told, where no region is an orbit's. -/
theorem exec_recipeSet_waits (honline : ∀ x ∈ recipeEntries k.body, offline s x.region = false)
    (horbit : ∀ x ∈ recipeEntries k.body, orbitRegion s x.region = false) : exec (.recipeSet c seq) s =
      .next (finish { s with img := { s.img with nextRecipes := putRecipes s.img.nextRecipes (recipeEntries k.body) } } c seq stOk 0) := by
  have hall : ¬ (!(recipeEntries k.body).all (recipeSetOk s)) = true := by simpa using hstand
  have hany : ¬ ((recipeEntries k.body).any fun x => offline s x.region) = true := by simpa using honline
  have htold : ((recipeEntries k.body).map (·.region)).eraseDups.filter (orbitRegion s) = [] := by
    rw [List.filter_eq_nil_iff]
    intro r hr
    obtain ⟨x, hx, rfl⟩ := List.mem_map.mp (List.mem_eraseDups.mp hr)
    simp [horbit x hx]
  show execRecipeSet c seq s = _
  simp only [execRecipeSet, recipeSet_found hk hph hop hkind]
  rw [if_neg (mt (recipesDenied_iff s c k).mp hmay), if_neg hall, if_neg hany, htold]
  rfl

end

end

end

/-! ### Entries that wait (R92) -/

/-- Two entries are not for one stage of one region. -/
def Recipe.Apart (x y : Recipe) : Prop := x.region ≠ y.region ∨ x.stage ≠ y.stage

/-- The entries with one more put. -/
def putRecipe (acc : List Recipe) (x : Recipe) : List Recipe := acc.filter (fun y => y.region != x.region || y.stage != x.stage) ++ [x]

theorem mem_putRecipe {acc : List Recipe} {x y : Recipe} : y ∈ putRecipe acc x ↔ y = x ∨ y ∈ acc ∧ x.Apart y := by
  simp [putRecipe, Recipe.Apart, or_comm, ne_comm]

theorem putRecipes_cons (acc : List Recipe) (x : Recipe) (xs : List Recipe) : putRecipes acc (x :: xs) = putRecipes (putRecipe acc x) xs := rfl

/-- What stands afterwards was put or stood before. -/
theorem mem_putRecipes {acc new : List Recipe} {y : Recipe} (hy : y ∈ putRecipes acc new) : y ∈ new ∨ y ∈ acc := by
  induction new generalizing acc with
  | nil => exact .inr hy
  | cons x xs ih =>
    rw [putRecipes_cons] at hy
    rcases ih hy with hnew | hold
    · exact .inl (List.mem_cons_of_mem _ hnew)
    · rcases mem_putRecipe.mp hold with rfl | ⟨hold, -⟩
      · exact .inl List.mem_cons_self
      · exact .inr hold

/-- An entry whose stage none replaces stays. -/
theorem mem_putRecipes_of_apart {acc new : List Recipe} {y : Recipe} (hy : y ∈ acc) (hapart : ∀ x ∈ new, x.Apart y) : y ∈ putRecipes acc new := by
  induction new generalizing acc with
  | nil => exact hy
  | cons x xs ih =>
    obtain ⟨hx, hxs⟩ := List.forall_mem_cons.mp hapart
    exact ih (mem_putRecipe.mpr (.inr ⟨hy, hx⟩)) hxs

/-- The later entry of a stage stands. -/
theorem mem_putRecipes_of_latest {acc new : List Recipe} {i : Nat} {x : Recipe} (hx : new[i]? = some x)
    (hlater : ∀ j y, i < j → new[j]? = some y → y.Apart x) : x ∈ putRecipes acc new := by
  induction new generalizing acc i with
  | nil => cases hx
  | cons z zs ih =>
    rw [putRecipes_cons]
    cases i with
    | zero =>
      obtain rfl : z = x := by simpa using hx
      refine mem_putRecipes_of_apart (mem_putRecipe.mpr (.inl rfl)) fun y hy => ?_
      obtain ⟨j, hj⟩ := List.mem_iff_getElem?.mp hy
      exact hlater (j + 1) y (Nat.succ_pos j) hj
    | succ i => exact ih hx fun j y hij hy => hlater (j + 1) y (Nat.succ_lt_succ hij) hy

/-! ### RECIPE_SET of KIND 1 (R38, R279) -/

theorem exec_priorityChange (hk : findCmd s c seq = some k) (hph : k.phase = .waiting) (hop : k.op = 0x0B) (hkind : rd k.body 0 1 = 1) :
    exec (.priorityChange c seq) s =
      .next (finish (modCarrel s (rd k.body 8 2) fun x => { x with priority := some (rd k.body 0xA 1) }) c seq stOk 0) := by
  have hfound : ((cmdIn s c seq .waiting 0x0B).filter fun k => rd k.body 0 1 == 1) = some k := by
    simp [cmdIn_found hk hph hop, Option.filter, hkind]
  show execPriorityChange c seq s = _
  simp only [execPriorityChange, hfound]

/-- The module with a carrel at another priority. -/
def State.withPriority (s : State) (n p : Nat) : State := modCarrel s n fun x => { x with priority := some p }

theorem priorityOf_withPriority (hok : s.carrelsOk) (n p : Nat) : priorityOf (s.withPriority n p) n = p := by
  rw [priorityOf, State.withPriority, carrelSt_modCarrel hok]
  rfl

theorem priorityOf_withPriority_ne (hok : s.carrelsOk) {n m : Nat} (p : Nat) (hm : m ≠ n) : priorityOf (s.withPriority n p) m = priorityOf s m := by
  have hst : carrelSt (s.withPriority n p) m = carrelSt s m := carrelSt_modCarrel_ne hok _ hm
  rw [priorityOf, carrelNow, hst]
  rfl

theorem nextPass_withPriority (hok : s.carrelsOk) (n p m : Nat) : (carrelSt (s.withPriority n p) m).nextPass = (carrelSt s m).nextPass := by
  by_cases hm : m = n
  · rw [hm, State.withPriority, carrelSt_modCarrel hok]
  · rw [State.withPriority, carrelSt_modCarrel_ne hok _ hm]

/-- Settles O15: the command that begins is of the best rank (`serviceRank_nextCmd`) and alone changes (`mem_cmds_modCmd`); a FENCE looks at the earlier
ones (`exec_fenceCmd`); entries are answered in the order of their checks and wait with the later one of a stage standing
(`mem_putRecipes_of_latest`); a priority changes one carrel (`priorityOf_withPriority`). -/
theorem commandsBeginAndSet : Obligations.CommandsBeginAndSet := by
  unfold Obligations.CommandsBeginAndSet
  refine ⟨fun s => ⟨fun k hnext hk => ⟨findCmd_mem hk, serviceRank_nextCmd hnext, ?_⟩, exec_commandBegin_none, fun c seq k hk hph hop => ⟨fun hsealed => ?_, fun hopen => ?_⟩⟩,
    fun c seq k s hk => ⟨fun hph hop hkind => ⟨fun hdenied => ?_, fun hmay hbad => ?_, fun hmay hstand hoff => ?_, fun hmay hstand => ?_⟩, fun hph hop hkind hok => ?_⟩⟩
  · refine ⟨_, exec_commandBegin hnext, rfl, length_modFirst .., fun x hx hne => mem_cmds_modCmd hk _ hx hne, ?_⟩
    rw [findCmd_modCmd_found hk (Cmd.begunAs_keepsName _)]
    cases beginStatus s k <;> rfl
  · have hexec := exec_fenceCmd hk hph hop
    rw [if_pos hsealed] at hexec
    exact ⟨_, hexec, rfl, finish_finishedAs _ _ hk⟩
  · rw [exec_fenceCmd hk hph hop, hopen]; rfl
  · exact ⟨_, exec_recipeSet_denied hk hph hop hkind hdenied, rfl, finish_finishedAs _ _ hk⟩
  · exact ⟨_, exec_recipeSet_format hk hph hop hkind hmay hbad, rfl, finish_finishedAs _ _ hk⟩
  · exact ⟨_, exec_recipeSet_offline hk hph hop hkind hmay hstand hoff, rfl, finish_finishedAs _ _ hk⟩
  · exact ⟨_, exec_recipeSet_waits hk hph hop hkind hmay (fun x hx => (hstand x hx).1) (fun x hx => (hstand x hx).2.1) (fun x hx => (hstand x hx).2.2), rfl,
      finish_finishedAs (s := { s with img := _ }) _ _ hk, fun i x hx hlater => mem_putRecipes_of_latest hx hlater, fun y hy => mem_putRecipes hy,
      fun y hy hapart => mem_putRecipes_of_apart hy hapart⟩
  · exact ⟨_, exec_priorityChange hk hph hop hkind, rfl, priorityOf_withPriority hok .., fun n hn => priorityOf_withPriority_ne hok _ hn,
      nextPass_withPriority hok _ _, finish_finishedAs (s := s.withPriority _ _) _ _ hk⟩

end Sys2Proof.Machine
end
end

section
/-!
PROOFS. Streams: a change of one, its completion records, its interrupts, and when its intake takes nothing (R271, R272, R281, R284).
-/
section
open Sys2Proof Sys2Proof.Machine
namespace Sys2Proof.Machine

variable {s t : State} {c d v : Nat} {fn : Fn}

/-! ### A change of one stream -/

/-- The stream table stands in its canonical form. -/
def State.streamsOk (s : State) : Prop := swf (fun _ => freshStream) s.itk.streams = true

theorem streamOf_modStream (h : s.streamsOk) (c : Nat) (f : Stream → Stream) : streamOf (modStream s c f) c = f (streamOf s c) := sget_smod_same f h

theorem streamOf_modStream_ne (h : s.streamsOk) (f : Stream → Stream) (hd : d ≠ c) : streamOf (modStream s c f) d = streamOf s d := sget_smod_ne f h hd

theorem streamsOk_modStream (h : s.streamsOk) (c : Nat) (f : Stream → Stream) : (modStream s c f).streamsOk := smod_swf _ _ h

/-- A change matters at what the stream holds alone. -/
theorem modStream_congr {f g : Stream → Stream} (h : f (streamOf s c) = g (streamOf s c)) : modStream s c f = modStream s c g := by
  simp only [modStream, smod]
  rw [show f (sget (fun _ => freshStream) s.itk.streams c) = g (sget (fun _ => freshStream) s.itk.streams c) from h]

/-! ### When the intake takes nothing (R271) -/

/-- Completeness looks at the stream's blocks and at NEXT_OFFSET. -/
theorem packetComplete_congr (hblocks : (streamOf t c).blocks = (streamOf s c).blocks)
    (hnext : fget t (Reg.INT_STATUS.NEXT_OFFSET c) = fget s (Reg.INT_STATUS.NEXT_OFFSET c)) : packetComplete t c = packetComplete s c := by
  have hfull (i : Nat) : blockFull (streamOf t c) i = blockFull (streamOf s c) i := by rw [blockFull, hblocks]; rfl
  have hfirst : nextBlock t c = nextBlock s c := by rw [nextBlock, hnext]; rfl
  have hheader : headerAt t c = headerAt s c := by simp only [headerAt, hfull, hfirst, blockBytes, hblocks]
  simp only [packetComplete, hheader, hfull, hfirst]

theorem takePackets_of_incomplete (h : packetComplete s c = false) (fuel : Nat) : takePackets c fuel s = s := by
  cases fuel with
  | zero => rfl
  | succ fuel => simp [takePackets, h]

/-! ### Interrupts (R284) -/

/-- A message goes out, or its pending bit is set, where the function can move data. -/
theorem msix_raised (hup : fnUp s fn = true) (v : Nat) :
    if msixMasked s fn v = true then (msix s fn v).out.msix = s.out.msix ∧ (fn, v) ∈ (msix s fn v).out.msixPend
    else (msix s fn v).out.msix = (fn, v) :: s.out.msix := by
  cases hmask : msixMasked s fn v with
  | true =>
    rw [if_pos rfl]
    by_cases hpend : (fn, v) ∈ s.out.msixPend <;> simp [msix, hup, hmask, hpend]
  | false => simp [msix, hup, hmask, msixSend]

theorem msix_dma (s : State) (fn : Fn) (v : Nat) : (msix s fn v).out.dma = s.out.dma := by
  unfold msix msixSend
  split
  · rfl
  · split <;> rfl

/-! ### Completion records (R281, R284) -/

/-- A stream whose ring of `size` records has taken one more. -/
def Stream.advanced (size : Nat) (x : Stream) : Stream :=
  { x with
    index := if x.index + 1 = size then 0 else x.index + 1
    phase := if x.index + 1 = size then !x.phase else x.phase
    unsignalled := x.unsignalled + 1 }

/-- The module with a record sent to the next index of a stream's ring, and the ring one on. -/
def State.recordSent (s : State) (c : Nat) (b : Bytes) : State :=
  modStream (dmaWrite s (streamFn c) (ringBase s c + 64 + 32 * (streamOf s c).index) b) c (Stream.advanced (ringRecords s c))

theorem streamOf_dmaWrite (s : State) (fn : Fn) (a : Nat) (b : Bytes) (c : Nat) : streamOf (dmaWrite s fn a b) c = streamOf s c := by
  rw [dmaWrite_frame]
  rfl

theorem writeRecord_ringOff (hoff : ringOn s c = false) (tag seq pass status flags op count value : Nat) (irq : Bool) :
    writeRecord s c tag seq pass status flags op count value irq = s := by simp [writeRecord, hoff]

theorem writeRecord_ringOn (hon : ringOn s c = true) (tag seq pass status flags op count value : Nat) (irq : Bool) :
    writeRecord s c tag seq pass status flags op count value irq =
      let u := s.recordSent c (recordBytes tag seq pass status (streamOf s c).phase flags op count value (s.clk.tick % 2 ^ 32))
      if irq = true ∨ fget s (Reg.CAR_IRQ_MOD.COUNT c) ≤ (streamOf s c).unsignalled + 1 then raiseVector0 u c else u := by
  have hsent (u : State) (hu : streamOf u c = streamOf s c) : modStream u c (fun x => { x with
      index := if decide ((streamOf s c).index + 1 = ringRecords s c) = true then 0 else (streamOf s c).index + 1
      phase := if decide ((streamOf s c).index + 1 = ringRecords s c) = true then !(streamOf s c).phase else (streamOf s c).phase
      unsignalled := (streamOf s c).unsignalled + 1 }) = modStream u c (Stream.advanced (ringRecords s c)) :=
    modStream_congr (by simp [hu, Stream.advanced])
  simp only [writeRecord, hon, if_true, Bool.or_eq_true, decide_eq_true_eq] at hsent ⊢
  rw [hsent _ (streamOf_dmaWrite ..)]
  rfl

theorem recordSent_up (hup : fnUp s (streamFn c) = true) (b : Bytes) : s.recordSent c b = modStream
    { s with out := { s.out with dma := ⟨streamFn c, (ringBase s c + 64 + 32 * (streamOf s c).index) % 2 ^ 64, b⟩ :: s.out.dma } } c
      (Stream.advanced (ringRecords s c)) := by
  rw [State.recordSent, dmaWrite_up hup]

theorem raiseVector0_out (s : State) (c : Nat) : (raiseVector0 s c).out = (msix s (streamFn c) 0).out := rfl

theorem streamOf_raiseVector0 (hok : s.streamsOk) : streamOf (raiseVector0 s c) c = { streamOf s c with unsignalled := 0 } := by
  rw [raiseVector0, msix_frame]
  exact streamOf_modStream (s := { s with out := _ }) hok ..

/-- A record that goes out: the write, the ring's next place, and vector 0 by IRQ or the count of records since the last one. -/
theorem writeRecord_effect (hok : s.streamsOk) (hon : ringOn s c = true) (hup : fnUp s (streamFn c) = true)
    (tag seq pass status flags op count value : Nat) (irq : Bool) (ht : t = writeRecord s c tag seq pass status flags op count value irq) :
    t.out.dma = ⟨streamFn c, (ringBase s c + 64 + 32 * (streamOf s c).index) % 2 ^ 64,
        recordBytes tag seq pass status (streamOf s c).phase flags op count value (s.clk.tick % 2 ^ 32)⟩ :: s.out.dma ∧
      (streamOf t c).index = (if (streamOf s c).index + 1 = ringRecords s c then 0 else (streamOf s c).index + 1) ∧
      (streamOf t c).phase = (if (streamOf s c).index + 1 = ringRecords s c then !(streamOf s c).phase else (streamOf s c).phase) ∧
      if irq = true ∨ fget s (Reg.CAR_IRQ_MOD.COUNT c) ≤ (streamOf s c).unsignalled + 1
      then (if msixMasked s (streamFn c) 0 = true then t.out.msix = s.out.msix ∧ (streamFn c, 0) ∈ t.out.msixPend
        else t.out.msix = (streamFn c, 0) :: s.out.msix) ∧ (streamOf t c).unsignalled = 0
      else t.out.msix = s.out.msix ∧ (streamOf t c).unsignalled = (streamOf s c).unsignalled + 1 := by
  rw [writeRecord_ringOn hon] at ht
  generalize recordBytes tag seq pass status (streamOf s c).phase flags op count value (s.clk.tick % 2 ^ 32) = b at ht ⊢
  have hstream : streamOf (s.recordSent c b) c = (streamOf s c).advanced (ringRecords s c) := by
    rw [recordSent_up hup]
    exact streamOf_modStream (s := { s with out := _ }) hok ..
  have hok' : (s.recordSent c b).streamsOk := by
    rw [recordSent_up hup]
    exact streamsOk_modStream (s := { s with out := _ }) hok ..
  dsimp only at ht
  split at ht
  · next hraise =>
    have hup' : fnUp (s.recordSent c b) (streamFn c) = true := by rw [recordSent_up hup]; exact hup
    have hraised := msix_raised hup' 0
    have hdma := msix_dma (s.recordSent c b) (streamFn c) 0
    rw [if_pos hraise, ht, streamOf_raiseVector0 hok', raiseVector0_out, hstream]
    rw [recordSent_up hup] at hraised hdma ⊢
    exact ⟨hdma, rfl, rfl, hraised, rfl⟩
  · next hwait =>
    rw [if_neg hwait, ht, hstream, recordSent_up hup]
    exact ⟨rfl, rfl, rfl, rfl, rfl⟩

/-! ### What a stream's traffic leaves alone -/

/-- Between `s` and `t` at most the ring's place of stream `c` and what goes out have changed. -/
structure RingOnly (c : Nat) (s t : State) : Prop where
  frame : t = { s with itk := { s.itk with streams := t.itk.streams }, out := t.out }
  streamsOk : t.streamsOk
  others : ∀ d, d ≠ c → streamOf t d = streamOf s d
  blocks : (streamOf t c).blocks = (streamOf s c).blocks
  halted : (streamOf t c).halted = (streamOf s c).halted

theorem RingOnly.refl (hok : s.streamsOk) : RingOnly c s s := ⟨rfl, hok, fun _ _ => rfl, rfl, rfl⟩

theorem RingOnly.trans {u : State} (h : RingOnly c s t) (h' : RingOnly c t u) : RingOnly c s u where
  frame := by rw [h'.frame, h.frame]
  streamsOk := h'.streamsOk
  others d hd := (h'.others d hd).trans (h.others d hd)
  blocks := h'.blocks.trans h.blocks
  halted := h'.halted.trans h.halted

/-- Whatever goes out. -/
theorem RingOnly.sends (h : RingOnly c s t) (o : Outputs) : RingOnly c s { t with out := o } :=
  h.trans ⟨rfl, h.streamsOk, fun _ _ => rfl, rfl, rfl⟩

theorem RingOnly.dmaWrite (h : RingOnly c s t) (fn : Fn) (a : Nat) (b : Bytes) : RingOnly c s (dmaWrite t fn a b) := by
  rw [dmaWrite_frame]
  exact h.sends _

theorem RingOnly.msix (h : RingOnly c s t) (fn : Fn) (v : Nat) : RingOnly c s (msix t fn v) := by
  rw [msix_frame]
  exact h.sends _

theorem RingOnly.modStream (h : RingOnly c s t) {f : Stream → Stream} (hf : ∀ x, (f x).blocks = x.blocks ∧ (f x).halted = x.halted) :
    RingOnly c s (modStream t c f) := by
  refine h.trans ⟨rfl, streamsOk_modStream h.streamsOk c f, fun d hd => streamOf_modStream_ne h.streamsOk f hd, ?_, ?_⟩
  · rw [streamOf_modStream h.streamsOk, (hf _).1]
  · rw [streamOf_modStream h.streamsOk, (hf _).2]

theorem RingOnly.raiseVector0 (h : RingOnly c s t) : RingOnly c s (raiseVector0 t c) := (h.msix _ _).modStream fun _ => ⟨rfl, rfl⟩

theorem RingOnly.writeHeader (h : RingOnly c s t) : RingOnly c s (writeHeader t c) := by
  unfold Machine.writeHeader
  split
  · exact h.dmaWrite ..
  · exact h

theorem RingOnly.writeRecord (h : RingOnly c s t) (tag seq pass status flags op count value : Nat) (irq : Bool) :
    RingOnly c s (writeRecord t c tag seq pass status flags op count value irq) := by
  have hsent (b : Bytes) : RingOnly c s (t.recordSent c b) := (h.dmaWrite _ _ _).modStream fun _ => ⟨rfl, rfl⟩
  cases hon : ringOn t c with
  | false => rwa [writeRecord_ringOff hon]
  | true =>
    rw [writeRecord_ringOn hon]
    dsimp only
    split
    · exact (hsent _).raiseVector0
    · exact hsent _

end Sys2Proof.Machine
end
end

section
/-!
PROOFS. COMMAND_SEAL (R272, R281, R283, R284) and ABORT (R285).
-/
section
open Sys2Proof Sys2Proof.Machine
namespace Sys2Proof.Machine

variable {s t : State} {c seq : Nat} {k a : Cmd}

/-! ### COMMAND_SEAL -/

/-- A list in which the first element of a name loses a property that it had holds one less of it. -/
theorem length_filter_modFirst {α : Type} {p r : α → Bool} {f : α → α} {l : List α} {x : α} (hx : l.find? p = some x) (hr : r x = true) (hf : r (f x) = false) :
    ((modFirst p f l).filter r).length + 1 = (l.filter r).length := by
  induction l with
  | nil => cases hx
  | cons z zs ih =>
    simp only [modFirst]
    split
    · next hz =>
      obtain rfl : z = x := by simpa [hz] using hx
      simp [hr, hf]
    · next hz =>
      have hrest := ih (by simpa [hz] using hx)
      by_cases hzr : r z = true <;> simp [hzr, ← hrest]

/-- A sealed command, with the COUNT, VALUE and flags of its record (Table 12-7). -/
def Cmd.sealedWith (flags : Nat) (k : Cmd) : Cmd := { k with phase := .sealed, count := recordCount k, value := recordValue k, flags := flags }

/-- A sealed command is no longer outstanding (R281). -/
theorem outstanding_seal (hk : findCmd s c seq = some k) (flags : Nat) : outstanding (modCmd s c seq (Cmd.sealedWith flags)) c + 1 = outstanding s c := by
  have hnamed : Cmd.named c seq k = true := List.find?_some hk
  simp only [Cmd.named, Bool.and_eq_true] at hnamed
  exact length_filter_modFirst hk (by simp [hnamed]) (by simp [Cmd.sealedWith])

/-- An ABORT that its target has released (R285). -/
def Cmd.releasedBy (k x : Cmd) : Cmd :=
  { x with phase := .finished, status := if k.status = stAborted then stOk else stAlready, count := recordCount k, value := k.seq }

theorem releaseAborts_eq (s : State) (k : Cmd) : releaseAborts s k = k.abortedBy.foldl (fun s a => modCmd s k.stream a (Cmd.releasedBy k)) s := rfl

/-- It changes the commands alone. -/
theorem releaseAborts_frame (s : State) (k : Cmd) : releaseAborts s k = { s with itk := { s.itk with cmds := (releaseAborts s k).itk.cmds } } := by
  rw [releaseAborts_eq]
  generalize k.abortedBy = l
  induction l generalizing s with
  | nil => rfl
  | cons b bs ih => rw [List.foldl_cons, ih]; rfl

/-- The module with a command sealed and its record written. -/
def State.sealedCmd (s : State) (k : Cmd) : State :=
  writeRecord (modCmd s k.stream k.seq (Cmd.sealedWith (k.flags ||| vigilFlags s k))) k.stream k.tag k.seq k.pass k.status (k.flags ||| vigilFlags s k) k.op
    (recordCount k) (recordValue k) k.irq

theorem sealedCmd_ringOnly (hok : s.streamsOk) (k : Cmd) :
    RingOnly k.stream (modCmd s k.stream k.seq (Cmd.sealedWith (k.flags ||| vigilFlags s k))) (s.sealedCmd k) :=
  (RingOnly.refl (s := modCmd s k.stream k.seq _) hok).writeRecord ..

theorem exec_commandSeal (hk : findCmd s c seq = some k) (hph : k.phase = .finished) (hwait : packetComplete s c = false) (hok : s.streamsOk) :
    exec (.commandSeal c seq) s = .next (releaseAborts (s.sealedCmd k) k) := by
  have hring := sealedCmd_ringOnly hok k
  obtain ⟨rfl, rfl⟩ := findCmd_named hk
  have hsame : packetComplete (releaseAborts (s.sealedCmd k) k) k.stream = false := by
    refine (packetComplete_congr ?_ ?_).trans hwait
    · rw [releaseAborts_frame]
      exact hring.blocks
    · rw [releaseAborts_frame, hring.frame]
      rfl
  show execCommandSeal k.stream k.seq s = _
  simp only [execCommandSeal, hk, Option.filter, hph]
  exact congrArg _ (takePackets_of_incomplete hsame _)

/-! ### ABORT (R285) -/

/-- An ABORT that has begun waits for its target, which carries its number. -/
def Cmd.begunNow (k : Cmd) : Cmd := { k with phase := .begun }
def Cmd.awaitedBy (seq : Nat) (k : Cmd) : Cmd := { k with abortedBy := k.abortedBy ++ [seq] }

/-- The module with ABORT `seq` waiting for command `q` of its stream. -/
def State.abortWaits (s : State) (c seq q : Nat) : State := modCmd (modCmd s c seq Cmd.begunNow) c q (Cmd.awaitedBy seq)

section
variable {q : Nat} (hself : q ≠ seq)
include hself

theorem findCmd_abortWaits_target (hk : findCmd s c q = some k) : findCmd (s.abortWaits c seq q) c q = some (k.awaitedBy seq) := by
  have hbegun : findCmd (modCmd s c seq Cmd.begunNow) c q = some k := by
    rw [findCmd_modCmd_ne (f := Cmd.begunNow) (fun _ => ⟨rfl, rfl⟩) fun h => hself h.2, hk]
  exact findCmd_modCmd_found hbegun fun _ => ⟨rfl, rfl, .inl rfl⟩

theorem findCmd_abortWaits_abort (ha : findCmd s c seq = some a) : findCmd (s.abortWaits c seq q) c seq = some a.begunNow := by
  rw [State.abortWaits, findCmd_modCmd_ne (f := Cmd.awaitedBy seq) (fun _ => ⟨rfl, rfl⟩) fun h => hself h.2.symm]
  exact findCmd_modCmd_found ha fun _ => ⟨rfl, rfl, .inr nofun⟩

end

section
variable (ha : findCmd s c seq = some a) (hph : a.phase = .waiting) (hop : a.op = 0x0C)
include ha hph hop

theorem exec_abortCmd_format (h : abortTarget s c (rd a.body 0 4) = none ∨
    ∃ k, abortTarget s c (rd a.body 0 4) = some k ∧ (rd a.body 0 4 = seq ∨ 0x20 ≤ k.op)) :
    exec (.abortCmd c seq) s = .next (finish s c seq stFormat (rd a.body 0 4)) := by
  show execAbortCmd c seq s = _
  rcases h with hnone | ⟨k, hk, hbad⟩
  · simp only [execAbortCmd, cmdIn_found ha hph hop, hnone]
  · simp only [execAbortCmd, cmdIn_found ha hph hop, hk]
    rw [if_pos (by simpa using hbad)]

section
variable (hk : abortTarget s c (rd a.body 0 4) = some k) (hself : rd a.body 0 4 ≠ seq) (hkop : k.op < 0x20)
include hk hself hkop

theorem exec_abortCmd_sealed (hsealed : k.phase = .sealed) : exec (.abortCmd c seq) s =
    .next (modCmd s c seq fun x => { x with phase := .finished, status := stAlready, count := k.count, value := rd a.body 0 4 }) := by
  show execAbortCmd c seq s = _
  simp only [execAbortCmd, cmdIn_found ha hph hop, hk]
  rw [if_neg (by simp [hself, hkop]), if_pos (by simp [hsealed])]

theorem exec_abortCmd_stops (hwaits : k.phase = .waiting) : exec (.abortCmd c seq) s =
    .next (State.abortWaits (endRun (stopTarget s k) c (rd a.body 0 4)) c seq (rd a.body 0 4)) := by
  show execAbortCmd c seq s = _
  simp only [execAbortCmd, cmdIn_found ha hph hop, hk]
  rw [if_neg (by simp [hself, hkop]), if_neg (by simp [hwaits]), if_pos (by simp [stoppable, hwaits])]
  rfl

end

end

/-- Giving up returns changes sessions and pages alone (R265). -/
theorem stopReturns_frame (s : State) (k : Cmd) : stopReturns s k = { s with kv := (stopReturns s k).kv } := by
  unfold stopReturns
  generalize namedSessions k.op k.body = hs
  induction hs generalizing s with
  | nil => rfl
  | cons h hs ih =>
    rw [List.foldl_cons, ih]
    split
    · next x hx =>
      obtain ⟨pages, bad, hrelease⟩ := releaseAll_pagesOnly s x
      rw [giveUpReturn, hrelease]
      rfl
    · rfl

/-- A command stopped at once (R285). -/
def Cmd.stopped (k : Cmd) : Cmd := { k with aborted := true, passesLeft := 0, phase := .finished, status := stAborted }

/-- The module with a waiting target stopped and its run, if it had one, off the scribes. -/
def State.targetStopped (s : State) (k : Cmd) : State := endRun (modCmd (stopReturns s k) k.stream k.seq Cmd.stopped) k.stream k.seq

theorem stopTarget_noPass (hidle : passInFlight s k = false) : stopTarget s k = modCmd (stopReturns s k) k.stream k.seq Cmd.stopped := by
  simp only [stopTarget, hidle, Bool.false_eq_true, if_false]
  rfl

theorem findCmd_of_cmds (h : t.itk.cmds = s.itk.cmds) (c q : Nat) : findCmd t c q = findCmd s c q := congrArg (List.find? _) h

/-- Of the module it changes sessions, pages, scribes and the target. -/
theorem targetStopped_frame (s : State) (k : Cmd) : s.targetStopped k =
    { s with
      kv := (s.targetStopped k).kv, scr := (s.targetStopped k).scr
      itk := { s.itk with cmds := modFirst (Cmd.named k.stream k.seq) Cmd.stopped s.itk.cmds } } := by
  rw [State.targetStopped, endRun_frame, stopReturns_frame]
  rfl

theorem findCmd_targetStopped (s : State) (k : Cmd) (c q : Nat) : findCmd (s.targetStopped k) c q = findCmd (modCmd s k.stream k.seq Cmd.stopped) c q :=
  findCmd_of_cmds (by rw [targetStopped_frame]; rfl) c q

section
variable (hok : s.streamsOk)
include hok

theorem released_frame (k : Cmd) : ∃ streams cmds out,
    releaseAborts (s.sealedCmd k) k = { s with itk := { s.itk with streams := streams, cmds := cmds }, out := out } := by
  rw [releaseAborts_frame, (sealedCmd_ringOnly hok k).frame]
  exact ⟨_, _, _, rfl⟩

theorem sealedCmd_cmds (k : Cmd) :
    (s.sealedCmd k).itk.cmds = (modCmd s k.stream k.seq (Cmd.sealedWith (k.flags ||| vigilFlags s k))).itk.cmds := by
  rw [(sealedCmd_ringOnly hok k).frame]

theorem outstanding_released (hk : findCmd s k.stream k.seq = some k) (halone : k.abortedBy = []) :
    outstanding (releaseAborts (s.sealedCmd k) k) k.stream + 1 = outstanding s k.stream := by
  rw [releaseAborts_eq, halone, List.foldl_nil, outstanding, sealedCmd_cmds hok]
  exact outstanding_seal hk _

/-- The ABORT that waited finishes with the target's status and COUNT (R285). -/
theorem findCmd_released {b : Nat} {x : Cmd} (hone : k.abortedBy = [b]) (hself : b ≠ k.seq) (hx : findCmd s k.stream b = some x) :
    findCmd (releaseAborts (s.sealedCmd k) k) k.stream b = some (Cmd.releasedBy k x) := by
  have hsealed : findCmd (s.sealedCmd k) k.stream b = some x := by
    rw [findCmd_of_cmds (sealedCmd_cmds hok k), ← hx]
    exact findCmd_modCmd_ne (s := s) (fun _ => ⟨rfl, rfl⟩) fun h => hself h.2
  rw [releaseAborts_eq, hone]
  exact findCmd_modCmd_found hsealed fun _ => ⟨rfl, rfl, .inr nofun⟩

end

theorem releaseAborts_out (s : State) (k : Cmd) : (releaseAborts s k).out = s.out := by rw [releaseAborts_frame]

theorem streamOf_releaseAborts (s : State) (k : Cmd) (d : Nat) : streamOf (releaseAborts s k) d = streamOf s d := by
  rw [releaseAborts_frame]
  rfl

/-- Settles O16: a seal writes its record (`writeRecord_effect`), frees the slot (`outstanding_released`) and releases the ABORT that waits
(`findCmd_released`); an ABORT finishes, or stops its target at once and waits (`exec_abortCmd_stops`, `findCmd_targetStopped`). -/
theorem sealsAndAborts : Obligations.SealsAndAborts := by
  unfold Obligations.SealsAndAborts
  refine ⟨fun c seq k s _ hok _ hk hph hwait hself => ?_, fun c seq a s ha hph hop => ⟨fun h => ?_, fun k hk hself hkop hsealed => ?_,
    fun k hk hfound hself hkop hwaits hidle => ?_⟩⟩
  · have hexec := exec_commandSeal hk hph hwait hok
    obtain ⟨rfl, rfl⟩ := findCmd_named hk
    refine ⟨_, hexec, ?_, outstanding_released hok hk, fun hoff => ?_, fun hon hup => ?_, fun b x hone hx => findCmd_released hok hone (hself b (by simp [hone])) hx⟩
    · obtain ⟨_, _, _, hframe⟩ := released_frame hok k
      rw [hframe]
    · rw [releaseAborts_out, streamOf_releaseAborts, State.sealedCmd, writeRecord_ringOff (s := modCmd s _ _ _) hoff]
      exact ⟨rfl, rfl⟩
    · rw [releaseAborts_out, streamOf_releaseAborts]
      exact writeRecord_effect (s := modCmd s k.stream k.seq _) hok hon hup _ _ _ _ _ _ _ _ _ rfl
  · exact ⟨_, exec_abortCmd_format ha hph hop h, rfl, finish_finishedAs _ _ ha⟩
  · exact ⟨_, exec_abortCmd_sealed ha hph hop hk hself hkop hsealed, rfl, findCmd_modCmd_found ha fun _ => ⟨rfl, rfl, .inr nofun⟩⟩
  · have hexec := exec_abortCmd_stops ha hph hop hk hself hkop hwaits
    obtain ⟨hstream, hseq⟩ := findCmd_named hfound
    subst hstream
    rw [← hseq] at hexec hfound hself ⊢
    rw [stopTarget_noPass hidle] at hexec
    have hstopped : findCmd (s.targetStopped k) k.stream k.seq = some k.stopped := by
      rw [findCmd_targetStopped]
      exact findCmd_modCmd_found hfound fun _ => ⟨rfl, rfl, .inr nofun⟩
    have habort : findCmd (s.targetStopped k) k.stream seq = some a := by
      rw [findCmd_targetStopped, findCmd_modCmd_ne (f := Cmd.stopped) (fun _ => ⟨rfl, rfl⟩) fun h => hself h.2.symm, ha]
    refine ⟨_, hexec, findCmd_abortWaits_target hself hstopped, findCmd_abortWaits_abort hself habort, ?_⟩
    change (s.targetStopped k).regs = s.regs ∧ (s.targetStopped k).img = s.img ∧ (s.targetStopped k).run = s.run ∧
      (s.targetStopped k).itk.streams = s.itk.streams
    rw [targetStopped_frame]
    exact ⟨rfl, rfl, rfl, rfl⟩

end Sys2Proof.Machine
end
end

section
/-!
PROOFS. SESSION_OPEN and SESSION_CLOSE (R258, R264, R276): the slot and the handle of a new session, and what closing one leaves.
-/
section
open Sys2Proof Sys2Proof.Machine
namespace Sys2Proof.Machine

variable {s t : State} {c seq h n : Nat} {k : Cmd} {x : Session}

/-! ### The lowest free slot (R276) -/

theorem insertBy_eq_orderedInsert (a : Nat) (l : List Nat) : insertBy (fun a b => decide (a ≤ b)) a l = l.orderedInsert (· ≤ ·) a := by
  induction l with
  | nil => rfl
  | cons b l ih => simp only [insertBy, List.orderedInsert_cons, decide_eq_true_eq, ih]

theorem sortBy_eq_insertionSort (l : List Nat) : sortBy l (fun a b => decide (a ≤ b)) = l.insertionSort (· ≤ ·) := by
  induction l with
  | nil => rfl
  | cons a l ih => exact (insertBy_eq_orderedInsert a _).trans (congrArg _ ih)

theorem le_lowestFree (n : Nat) (l : List Nat) : n ≤ lowestFree n l := by
  induction l generalizing n with
  | nil => exact Nat.le_refl n
  | cons a l ih =>
    unfold lowestFree
    split
    · exact ih n
    · split
      · exact Nat.le_of_succ_le (ih (n + 1))
      · exact Nat.le_refl n

theorem lowestFree_le (n : Nat) (l : List Nat) : lowestFree n l ≤ n + l.length := by
  induction l generalizing n with
  | nil => exact Nat.le_refl n
  | cons a l ih =>
    have hhere := ih n
    have hnext := ih (n + 1)
    rw [List.length_cons]
    unfold lowestFree
    split
    · omega
    · split <;> omega

/-- The number found in a rising list is not among them. -/
theorem lowestFree_notMem {l : List Nat} (hl : l.Pairwise (· ≤ ·)) (n : Nat) : lowestFree n l ∉ l := by
  induction l generalizing n with
  | nil => exact List.not_mem_nil
  | cons a l ih =>
    obtain ⟨ha, hl⟩ := List.pairwise_cons.mp hl
    unfold lowestFree
    rw [List.mem_cons, not_or]
    split
    · have := le_lowestFree n l
      exact ⟨by omega, ih hl n⟩
    · split
      · have := le_lowestFree (n + 1) l
        exact ⟨by omega, ih hl _⟩
      · exact ⟨by omega, fun hmem => by have := ha _ hmem; omega⟩

theorem freeSlot_free (s : State) : ∀ x ∈ s.kv.sessions, handleSlot x.handle ≠ freeSlot s := by
  intro x hx hslot
  have hsorted := List.pairwise_insertionSort (· ≤ ·) (s.kv.sessions.map fun x => handleSlot x.handle)
  refine lowestFree_notMem hsorted 0 ?_
  rw [List.mem_insertionSort, ← sortBy_eq_insertionSort]
  exact List.mem_map.mpr ⟨x, hx, hslot⟩

theorem freeSlot_le (s : State) : freeSlot s ≤ s.kv.sessions.length := by
  have hle := lowestFree_le 0 ((s.kv.sessions.map fun x => handleSlot x.handle).insertionSort (· ≤ ·))
  rw [List.length_insertionSort, List.length_map, Nat.zero_add] at hle
  rwa [freeSlot, sortBy_eq_insertionSort]

/-! ### SESSION_OPEN (R276) -/

/-- A handle carries its carrel and its slot, and is none of those that are no handle. -/
theorem mintHandle_fields {slot : Nat} (hc : c < 1024) (hslot : slot < 65536) :
    handleCarrel (mintHandle s c slot) = c ∧ handleSlot (mintHandle s c slot) = slot ∧ mintHandle s c slot < 0xFFFFFFFF := by
  have hreuse := Nat.mod_lt (sget (fun _ => 0) s.kv.reuse slot) (show 0 < 64 by decide)
  unfold mintHandle handleCarrel handleSlot
  dsimp only
  generalize sget (fun _ => 0) s.kv.reuse slot % 64 = r at hreuse ⊢
  split <;> omega

/-- The slots that are left where a SESSION_OPEN passes its checks. -/
theorem freeSlot_lt (hopen : openStatus s c k.body = stOk) : freeSlot s < 65536 := by
  have hroom : ¬ 65536 ≤ s.kv.sessions.length := fun hfull => by
    unfold openStatus at hopen
    dsimp only at hopen
    split at hopen
    · cases hopen
    · split at hopen
      · cases hopen
      · split at hopen
        · cases hopen
        · rw [if_pos (by simp [hfull])] at hopen
          cases hopen
  have := freeSlot_le s
  omega

/-- The module with a new session in the lowest free slot. -/
def State.sessionOpened (s : State) (c : Nat) (b : Bytes) : State :=
  { s with kv := { s.kv with
      sessions := s.kv.sessions ++ [newSession (mintHandle s c (freeSlot s)) b]
      reuse := sset (fun _ => 0) s.kv.reuse (freeSlot s) ((sget (fun _ => 0) s.kv.reuse (freeSlot s) + 1) % 64) } }

section
variable (hk : findCmd s c seq = some k) (hph : k.phase = .begun)
include hk hph

theorem exec_sessionOpen_held (hop : k.op = 0x01) (hheld : heldByBind s k = true) : exec (.sessionOpen c seq) s = .next s := by
  show execSessionOpen c seq s = _
  simp [execSessionOpen, cmdIn_found hk hph hop, Option.filter, hheld]

theorem exec_sessionOpen_refused (hop : k.op = 0x01) (hfree : heldByBind s k = false) (hbad : openStatus s c k.body ≠ stOk) :
    exec (.sessionOpen c seq) s = .next (finish s c seq (openStatus s c k.body) 0) := by
  show execSessionOpen c seq s = _
  simp [execSessionOpen, cmdIn_found hk hph hop, Option.filter, hfree, hbad]

theorem exec_sessionOpen_opens (hop : k.op = 0x01) (hfree : heldByBind s k = false) (hopen : openStatus s c k.body = stOk)
    (halone : orbitRegion s (rd k.body 0 1) = false) :
    exec (.sessionOpen c seq) s = .next (finish (s.sessionOpened c k.body) c seq stOk (mintHandle s c (freeSlot s))) := by
  have hfound : ((cmdIn s c seq .begun 0x01).filter fun k => !heldByBind s k) = some k := by simp [cmdIn_found hk hph hop, Option.filter, hfree]
  show execSessionOpen c seq s = _
  simp only [execSessionOpen, hfound]
  rw [if_neg (by simp [hopen]), halone]
  rfl

/-! ### SESSION_CLOSE (R258) -/

/-- The command that closes a session notes its region (R155). -/
def Cmd.closing (region : Option Nat) (k : Cmd) : Cmd := { k with closed := region }

theorem exec_sessionClose (hop : k.op = 0x02) (halone : ∀ x, findSession s (rd k.body 0 4) = some x → orbitRegion s x.region = false) :
    exec (.sessionClose c seq) s = .next (finish (modCmd (closeSession s (rd k.body 0 4)) c seq
      (Cmd.closing ((findSession s (rd k.body 0 4)).map (·.region)))) c seq stOk 0) := by
  have hfilter : (findSession s (rd k.body 0 4)).filter (fun x => orbitRegion s x.region) = none := by
    cases hx : findSession s (rd k.body 0 4) with
    | none => rfl
    | some x => simp [Option.filter, halone x hx]
  show execSessionClose c seq s = _
  simp only [execSessionClose, cmdIn_found hk hph hop, hfilter]
  rfl

end

/-- Closing a session changes sessions and pages alone. -/
theorem closeSession_frame (s : State) (h : Nat) : closeSession s h = { s with kv := (closeSession s h).kv } := by
  unfold closeSession
  split
  · rfl
  · next x hx =>
    obtain ⟨pages, bad, hrelease⟩ := releaseAll_pagesOnly s x
    rw [hrelease]
    rfl

/-- The sessions of other handles stay, and none of this one. -/
theorem closeSession_sessions (s : State) (h : Nat) : (closeSession s h).kv.sessions = s.kv.sessions.filter (·.handle != h) := by
  unfold closeSession
  split
  · next hnone =>
    refine (List.filter_eq_self.mpr fun y hy => ?_).symm
    simpa using List.find?_eq_none.mp hnone y hy
  · next x hx =>
    obtain ⟨pages, bad, hrelease⟩ := releaseAll_pagesOnly s x
    rw [hrelease]
    rfl

theorem findSession_closeSession (s : State) (h : Nat) : findSession (closeSession s h) h = none := by
  rw [findSession, closeSession_sessions, List.find?_eq_none]
  intro x hx
  simpa using (List.mem_filter.mp hx).2

theorem findCmd_closeSession (s : State) (h c q : Nat) : findCmd (closeSession s h) c q = findCmd s c q :=
  findCmd_of_cmds (by rw [closeSession_frame]) c q

theorem closeSession_swaps (hx : findSession s h = some x) : (closeSession s h).kv.swaps = s.kv.swaps.filter (·.session != h) := by
  obtain ⟨pages, bad, hrelease⟩ := releaseAll_pagesOnly s x
  simp only [closeSession, hx, hrelease]
  rfl

end Sys2Proof.Machine
end
end

section
/-!
PROOFS. TOKENS and STEP (R276 to R278).
-/
section
open Sys2Proof Sys2Proof.Machine
namespace Sys2Proof.Machine

variable {s t : State} {c seq h n : Nat} {k : Cmd} {f : Fetch}

/-! ### TOKENS (R277) -/

/-- The tokens that a TOKENS takes: inline, or as fetched; none where the fetch brought none. -/
def tokenBytes (k : Cmd) (f : Fetch) : Bytes :=
  if rd k.body 0xC 4 = 1 then (match f with | .data b => b.take (4 * rd k.body 4 4) | _ => []) else slice k.body 0x20 (4 * rd k.body 4 4)

/-- The vocabulary that they must keep to. -/
def tokenVocab (s : State) (k : Cmd) : Nat := s.img.bound.vocab (((findSession s (rd k.body 0 4)).map (·.region)).getD 0)

/-- They are inline, or the fetch has brought something. -/
def tokensArrive (k : Cmd) (f : Fetch) : Bool := rd k.body 0xC 4 != 1 || (match f with | .data _ => true | _ => false)

/-- A TOKENS that has taken its tokens. -/
def Cmd.withTokens (b : Bytes) (k : Cmd) : Cmd := { k with fetched := b, passesLeft := 1 + rd k.body 8 4 }

theorem exec_tokensCmd (hk : findCmd s c seq = some k) (hph : k.phase = .begun) (hop : k.op = 0x03) (f : Fetch) :
    exec (.tokensCmd c seq f) s = .next (
      if tokensArrive k f = true ∧ (tokenBytes k f).length = 4 * rd k.body 4 4 ∧ allBelow (tokenVocab s k) (tokenBytes k f) = true
      then modCmd s c seq (Cmd.withTokens (tokenBytes k f)) else finish s c seq stFormat 0) := by
  have htakes (b : Bytes) : (if (decide (b.length ≠ 4 * rd k.body 4 4) || !allBelow (tokenVocab s k) b) = true then finish s c seq stFormat 0
      else modCmd s c seq (Cmd.withTokens b)) =
      if b.length = 4 * rd k.body 4 4 ∧ allBelow (tokenVocab s k) b = true then modCmd s c seq (Cmd.withTokens b) else finish s c seq stFormat 0 := by
    by_cases hlen : b.length = 4 * rd k.body 4 4 <;> cases allBelow (tokenVocab s k) b <;> simp [hlen]
  show execTokensCmd c seq f s = _
  by_cases hlist : rd k.body 0xC 4 = 1
  · cases f with
    | data b =>
      simp only [execTokensCmd, cmdIn_found hk hph hop, tokensArrive, tokenBytes, hlist, if_true, Bool.or_true, true_and]
      exact congrArg _ (htakes _)
    | _ => simp [execTokensCmd, cmdIn_found hk hph hop, tokensArrive, hlist]
  · have harrive : tokensArrive k f = true := by simp [tokensArrive, hlist]
    simp only [execTokensCmd, cmdIn_found hk hph hop, harrive, tokenBytes, hlist, if_false, true_and]
    exact congrArg _ (htakes _)

theorem tokensArrive_of_length (hn : 0 < rd k.body 4 4) (hlen : (tokenBytes k f).length = 4 * rd k.body 4 4) : tokensArrive k f = true := by
  by_cases hlist : rd k.body 0xC 4 = 1
  · cases f with
    | data b => simp [tokensArrive]
    | _ =>
      simp only [tokenBytes, hlist, if_true, List.length_nil] at hlen
      omega
  · simp [tokensArrive, hlist]

/-! ### STEP (R277, R278) -/

/-- The module with the entries of the sessions that may not take part written, and the free draws spent. -/
def State.entriesWritten (s : State) (k : Cmd) : State := { writeEntries s k (stepEntries s k) with free := s.free + rd k.body 2 2 }

/-- A STEP that has settled its entries: it asks for its one pass. -/
def Cmd.settled (es : List Entry) (k : Cmd) : Cmd := { k with entries := es, passesLeft := 1 }

/-- One of whose sessions none takes part. -/
def Cmd.refusedWhole (k : Cmd) : Cmd := { k with phase := .finished, passesLeft := 0, status := entriesStatus k }

theorem exec_stepCmd (hk : findCmd s c seq = some k) (hph : k.phase = .begun) (hop : k.op = 0x04) (hpasses : k.passesLeft = 0) :
    exec (.stepCmd c seq) s = .next (
      let u := modCmd (s.entriesWritten k) c seq (Cmd.settled (stepEntries s k))
      if (stepEntries s k).length = rd k.body 2 2 then modCmd u c seq Cmd.refusedWhole else u) := by
  show execStepCmd c seq s = _
  simp only [execStepCmd, cmdIn_found hk hph hop]
  rw [if_neg (by simp [hpasses])]
  rfl

/-- Result entries go out, and nothing else changes. -/
theorem writeEntries_frame (s : State) (k : Cmd) (es : List Entry) :
    writeEntries s k es = { s with out := { s.out with dma := (writeEntries s k es).out.dma } } := by
  unfold writeEntries
  induction es generalizing s with
  | nil => rfl
  | cons e es ih =>
    rw [List.foldl_cons, ih]
    unfold dmaWrite
    split <;> rfl

/-- The write of an entry to its place in the result buffer (R278). -/
def entryDma (k : Cmd) (e : Entry) : Dma := ⟨streamFn k.stream, (resultAddr k + 16 * e.idx) % 2 ^ 64, entryBytes e⟩

theorem writeEntries_dma (hup : fnUp s (streamFn k.stream) = true) (es : List Entry) :
    (writeEntries s k es).out.dma = (es.map (entryDma k)).reverse ++ s.out.dma := by
  unfold writeEntries
  induction es generalizing s with
  | nil => rfl
  | cons e es ih =>
    rw [List.foldl_cons, dmaWrite_up hup]
    simpa [entryDma] using ih (s := { s with out := { s.out with dma := entryDma k e :: s.out.dma } }) hup

/-- A refused entry has no token. -/
theorem token_of_mem_stepEntries {e : Entry} (he : e ∈ stepEntries s k) : e.token = 0xFFFFFFFF := by
  obtain ⟨p, -, hp⟩ := List.mem_filterMap.mp he
  obtain ⟨st, -, rfl⟩ := Option.map_eq_some_iff.mp hp
  rfl

theorem entriesWritten_frame (s : State) (k : Cmd) : s.entriesWritten k =
    { s with out := { s.out with dma := (s.entriesWritten k).out.dma }, free := (s.entriesWritten k).free } := by
  rw [State.entriesWritten, writeEntries_frame]

theorem mem_entriesWritten (hup : fnUp s (streamFn k.stream) = true) {e : Entry} (he : e ∈ stepEntries s k) : entryDma k e ∈ (s.entriesWritten k).out.dma := by
  change _ ∈ (writeEntries s k (stepEntries s k)).out.dma
  rw [writeEntries_dma hup]
  exact List.mem_append_left _ (List.mem_reverse.mpr (List.mem_map_of_mem he))

/-- Settles O17: a new session stands in a free slot (`freeSlot_free`) under a handle of its own (`mintHandle_fields`), a closed one leaves the others
(`closeSession_sessions`); TOKENS takes tokens of its vocabulary (`exec_tokensCmd`) and STEP writes the entries of those that may not take part
(`exec_stepCmd`, `writeEntries_dma`). -/
theorem sessionsTokensAndSteps : Obligations.SessionsTokensAndSteps := by
  unfold Obligations.SessionsTokensAndSteps
  refine ⟨fun c seq k s hc hk hph => ⟨exec_sessionOpen_held hk hph, fun hop hfree hbad => ?_, fun hop hfree hopen halone => ?_, fun hop halone => ?_⟩,
    fun c seq f k s hk hph => ⟨fun hop => ?_, fun hop hpasses => ?_⟩⟩
  · exact ⟨_, exec_sessionOpen_refused hk hph hop hfree hbad, rfl, finish_finishedAs _ _ hk⟩
  · obtain ⟨hcarrel, hslot, hhandle⟩ := mintHandle_fields (s := s) hc (freeSlot_lt hopen)
    refine ⟨_, _, exec_sessionOpen_opens hk hph hop hfree hopen halone, rfl, rfl, hcarrel, hhandle, fun x hx => ?_,
      finish_finishedAs (s := s.sessionOpened c k.body) _ _ hk⟩
    rw [hslot]
    exact freeSlot_free s x hx
  · have hclosed : findCmd (closeSession s (rd k.body 0 4)) c seq = some k := by rw [findCmd_closeSession, hk]
    have hnoted := findCmd_modCmd_found (f := Cmd.closing ((findSession s (rd k.body 0 4)).map (·.region))) hclosed fun _ => ⟨rfl, rfl, .inl rfl⟩
    refine ⟨_, exec_sessionClose hk hph hop halone, ?_, fun x hx hne => ?_, fun hfound w hw => ?_, finish_finishedAs _ _ hnoted, ?_⟩
    · exact (findSession_of_sessions rfl _).trans (findSession_closeSession s _)
    · change x ∈ (closeSession s (rd k.body 0 4)).kv.sessions
      rw [closeSession_sessions]
      exact List.mem_filter.mpr ⟨hx, by simpa using hne⟩
    · obtain ⟨x, hx⟩ := Option.ne_none_iff_exists'.mp hfound
      change w ∈ (closeSession s (rd k.body 0 4)).kv.swaps at hw
      rw [closeSession_swaps hx] at hw
      simpa using (List.mem_filter.mp hw).2
    · change (closeSession s (rd k.body 0 4)).regs = s.regs ∧ (closeSession s (rd k.body 0 4)).img = s.img ∧ (closeSession s (rd k.body 0 4)).run = s.run
      rw [closeSession_frame]
      exact ⟨rfl, rfl, rfl⟩
  · have hexec := exec_tokensCmd hk hph hop f
    refine ⟨_, hexec, ?_, fun hn hlen hbelow => ?_, fun hn hbad => ?_⟩
    · split <;> rfl
    · rw [if_pos ⟨tokensArrive_of_length hn hlen, hlen, hbelow⟩]
      exact findCmd_modCmd_found hk fun _ => ⟨rfl, rfl, .inl rfl⟩
    · rw [if_neg]
      · exact finish_finishedAs _ _ hk
      · rintro ⟨-, hlen, hbelow⟩
        exact hbad.elim (fun h => h hlen) fun h => by cases hbelow.symm.trans h
  · have hwritten : findCmd (s.entriesWritten k) c seq = some k := (findCmd_of_cmds (by rw [State.entriesWritten, writeEntries_frame]) c seq).trans hk
    have hsettled := findCmd_modCmd_found (f := Cmd.settled (stepEntries s k)) hwritten fun _ => ⟨rfl, rfl, .inl rfl⟩
    obtain ⟨rfl, rfl⟩ := findCmd_named hk
    have haddr : resultAddr k = rd k.body 8 8 := by simp [resultAddr, hop]
    refine ⟨_, exec_stepCmd hk hph hop hpasses, ?_⟩
    dsimp only
    split
    · have hrefused := findCmd_modCmd_found (f := Cmd.refusedWhole) hsettled fun _ => ⟨rfl, rfl, .inr nofun⟩
      refine ⟨by rw [entriesWritten_frame]; rfl, _, hrefused, rfl, fun e he => token_of_mem_stepEntries he, ⟨rfl, rfl⟩, fun e he hup => ?_⟩
      rw [← haddr]
      exact mem_entriesWritten hup he
    · refine ⟨by rw [entriesWritten_frame]; rfl, _, hsettled, rfl, fun e he => token_of_mem_stepEntries he, ⟨hph, rfl⟩, fun e he hup => ?_⟩
      rw [← haddr]
      exact mem_entriesWritten hup he

end Sys2Proof.Machine
end
end

section
/-!
PROOFS. Bytes laid into an aperture (R270): a whole packet written at a block's start fills its blocks, in order and around the wrap, and no other.
-/
section
open Sys2Proof Sys2Proof.Machine
namespace Sys2Proof.Machine

variable {off i j n : Nat} {b : Block} {bs : Bytes}

/-! ### One block -/

/-- What bytes from an offset on make of block `i` of the aperture. -/
def blockLaid (i : Nat) (b : Block) : Nat → Bytes → Block
  | _, [] => b
  | off, v :: vs => blockLaid i (if off / 64 % blockCount = i then putByte b (off % 64) v else b) (off + 1) vs

theorem putBytes_swf {m : Sparse Block} (hm : swf (fun _ => freshBlock) m = true) (off : Nat) (bs : Bytes) :
    swf (fun _ => freshBlock) (putBytes m off bs) = true := by
  induction bs generalizing m off with
  | nil => exact hm
  | cons v vs ih => exact ih (smod_swf _ _ hm) _

theorem sget_putBytes {m : Sparse Block} (hm : swf (fun _ => freshBlock) m = true) (off : Nat) (bs : Bytes) (i : Nat) :
    sget (fun _ => freshBlock) (putBytes m off bs) i = blockLaid i (sget (fun _ => freshBlock) m i) off bs := by
  induction bs generalizing m off with
  | nil => rfl
  | cons v vs ih =>
    rw [putBytes, ih (smod_swf _ _ hm), blockLaid]
    split
    · next h => rw [h, sget_smod_same _ hm]
    · next h => rw [sget_smod_ne _ hm (Ne.symm h)]

theorem blockLaid_append (i : Nat) (b : Block) (off : Nat) (bs cs : Bytes) :
    blockLaid i b off (bs ++ cs) = blockLaid i (blockLaid i b off bs) (off + bs.length) cs := by
  induction bs generalizing b off with
  | nil => rfl
  | cons v vs ih =>
    rw [List.cons_append, blockLaid, ih, blockLaid, List.length_cons]
    congr 1
    omega

/-- Bytes that fall elsewhere leave a block alone. -/
theorem blockLaid_elsewhere (h : ∀ p < bs.length, (off + p) / 64 % blockCount ≠ i) : blockLaid i b off bs = b := by
  induction bs generalizing off with
  | nil => rfl
  | cons v vs ih =>
    have hfirst : off / 64 % blockCount ≠ i := h 0 (Nat.succ_pos _)
    rw [blockLaid, if_neg hfirst]
    refine ih fun p hp => ?_
    have := h (p + 1) (Nat.succ_lt_succ hp)
    rwa [show off + 1 + p = off + (p + 1) by omega]

/-- A block of which the first bytes have arrived. -/
def Block.filled (bs : Bytes) : Block := { written := 2 ^ bs.length - 1, bytes := bs ++ List.replicate (64 - bs.length) 0 }

theorem two_pow_sub_one_or_two_pow (n : Nat) : (2 ^ n - 1) ||| 2 ^ n = 2 ^ (n + 1) - 1 := by
  apply Nat.eq_of_testBit_eq
  intro i
  simp only [Nat.testBit_or, Nat.testBit_two_pow_sub_one, Nat.testBit_two_pow]
  by_cases h : n = i
  · simp [h]
  · simp [h]; omega

/-- The next byte in order. -/
theorem putByte_filled (h : bs.length < 64) (v : Byte) : putByte (.filled bs) bs.length v = .filled (bs ++ [v]) := by
  have hbytes : (bs ++ List.replicate (64 - bs.length) 0).set bs.length v = bs ++ [v] ++ List.replicate (64 - (bs.length + 1)) 0 := by
    obtain ⟨m, hm⟩ : ∃ m, 64 - bs.length = m + 1 := ⟨63 - bs.length, by omega⟩
    rw [hm, show 64 - (bs.length + 1) = m by omega, List.replicate_succ, List.set_append_right _ _ (Nat.le_refl _), Nat.sub_self, List.set_cons_zero]
    simp
  have hsome : (Block.filled bs).bytes.isEmpty = false := by
    simp [Block.filled]
    omega
  rw [putByte, hsome]
  simp only [Block.filled, Bool.false_eq_true, if_false, hbytes, two_pow_sub_one_or_two_pow, List.length_append, List.length_singleton]

theorem putByte_fresh (j : Nat) (v : Byte) : putByte freshBlock j v = putByte (.filled []) j v := rfl

/-- Bytes that go on where a block stands fill it further. -/
theorem blockLaid_filled {pre : Bytes} (hlane : off % 64 = pre.length) (hblock : off / 64 % blockCount = i) (hroom : pre.length + bs.length ≤ 64) :
    blockLaid i (.filled pre) off bs = .filled (pre ++ bs) := by
  induction bs generalizing pre off with
  | nil => rw [List.append_nil]; rfl
  | cons v vs ih =>
    rw [List.length_cons] at hroom
    rw [blockLaid, if_pos hblock, hlane, putByte_filled (by omega)]
    cases vs with
    | nil => rfl
    | cons w ws =>
      rw [List.length_cons] at hroom
      rw [ih, List.append_assoc, List.singleton_append]
      · rw [List.length_append, List.length_singleton]
        omega
      · rw [← hblock, show (off + 1) / 64 = off / 64 by omega]
      · rw [List.length_append, List.length_singleton, List.length_cons]
        omega

/-- Whole blocks are filled by the bytes that fall on them. -/
theorem blockLaid_whole (halign : off % 64 = 0) (hblock : off / 64 % blockCount = i) (hlen : bs.length = 64) :
    blockLaid i freshBlock off bs = .filled bs := by
  cases bs with
  | nil => cases hlen
  | cons v vs =>
    have hfilled : blockLaid i (.filled []) off (v :: vs) = .filled (v :: vs) := blockLaid_filled halign hblock (by rw [hlen]; exact Nat.le_refl 64)
    rw [blockLaid, if_pos hblock] at hfilled ⊢
    rwa [putByte_fresh]

/-! ### A whole packet -/

section
variable (halign : off % 64 = 0) (hlen : bs.length = 64 * n)
include halign hlen

theorem blockLaid_packet (hn : n ≤ blockCount) (hj : j < n) :
    blockLaid ((off / 64 + j) % blockCount) freshBlock off bs = .filled (slice bs (64 * j) 64) := by
  have hsplit : bs = bs.take (64 * j) ++ (slice bs (64 * j) 64 ++ bs.drop (64 * j + 64)) := by
    rw [slice, ← List.drop_drop, List.take_append_drop, List.take_append_drop]
  have hbefore : (bs.take (64 * j)).length = 64 * j := by rw [List.length_take]; omega
  have hhere : (slice bs (64 * j) 64).length = 64 := by rw [slice, List.length_take, List.length_drop]; omega
  have hafter : (bs.drop (64 * j + 64)).length = 64 * n - (64 * j + 64) := by rw [List.length_drop, hlen]
  conv_lhs => rw [hsplit]
  simp only [blockCount] at hn ⊢
  rw [blockLaid_append, blockLaid_append, blockLaid_elsewhere (bs := bs.take _), blockLaid_whole _ _ hhere, blockLaid_elsewhere]
  · rw [hbefore, hhere, hafter, blockCount]
    omega
  · rw [hbefore]
    omega
  · rw [hbefore, blockCount]
    omega
  · rw [hbefore, blockCount]
    omega

theorem blockLaid_outside (h : ∀ j < n, (off / 64 + j) % blockCount ≠ i) : blockLaid i freshBlock off bs = freshBlock := by
  refine blockLaid_elsewhere fun p hp => ?_
  have := h (p / 64) (by omega)
  rwa [show (off + p) / 64 = off / 64 + p / 64 by omega]

end

/-- The blocks' bytes in order are the packet's. -/
theorem flatten_slices (bs : Bytes) (hlen : 64 * n ≤ bs.length) : ((List.range n).map fun j => slice bs (64 * j) 64).flatten = bs.take (64 * n) := by
  induction n with
  | zero => rfl
  | succ n ih =>
    rw [List.range_succ, List.map_append, List.flatten_append, ih (by omega), Nat.mul_succ, List.take_add]
    simp [slice]

theorem Block.filled_whole (h : bs.length = 64) : Block.filled bs = { written := 2 ^ 64 - 1, bytes := bs } := by simp [Block.filled, h]

end Sys2Proof.Machine
end
end

section
/-!
PROOFS. Aperture writes (R270 to R273): a whole packet at NEXT_OFFSET is consumed or halts its stream; other writes wait, or have no effect (R408, R426).
-/
section
open Sys2Proof Sys2Proof.Machine
namespace Sys2Proof.Machine

variable {s t : State} {c n j reason : Nat} {bytes : Bytes}

/-! ### A packet that has arrived -/

/-- The module with a packet laid at NEXT_OFFSET. -/
def State.arrived (s : State) (c : Nat) (bytes : Bytes) : State :=
  modStream s c fun x => { x with blocks := putBytes x.blocks (fget s (Reg.INT_STATUS.NEXT_OFFSET c)) bytes }

theorem nextOffset_lt (s : State) (c : Nat) : fget s (Reg.INT_STATUS.NEXT_OFFSET c) < 2 ^ 20 := nbits_lt ..

/-- A packet of `n` blocks at a block's start, its LEN in its first bytes. -/
structure WholePacket (s : State) (c n : Nat) (bytes : Bytes) : Prop where
  pos : 1 ≤ n
  le : n ≤ 1024
  length : bytes.length = 64 * n
  len : rd bytes 0 2 = n
  aligned : fget s (Reg.INT_STATUS.NEXT_OFFSET c) % 64 = 0
  streamsOk : s.streamsOk
  empty : (streamOf s c).blocks = []

theorem WholePacket.blocks (h : WholePacket s c n bytes) :
    (streamOf (s.arrived c bytes) c).blocks = putBytes [] (fget s (Reg.INT_STATUS.NEXT_OFFSET c)) bytes := by
  rw [State.arrived, streamOf_modStream h.streamsOk, h.empty]

theorem WholePacket.block (h : WholePacket s c n bytes) (hj : j < n) :
    sget (fun _ => freshBlock) (streamOf (s.arrived c bytes) c).blocks ((nextBlock s c + j) % blockCount) =
      { written := 2 ^ 64 - 1, bytes := slice bytes (64 * j) 64 } := by
  have hn := h.le
  have hlen := h.length
  rw [h.blocks, sget_putBytes (by rfl), nextBlock]
  refine (blockLaid_packet h.aligned h.length (by rw [blockCount]; omega) hj).trans (Block.filled_whole ?_)
  rw [slice, List.length_take, List.length_drop]
  omega

theorem WholePacket.block_outside (h : WholePacket s c n bytes) {i : Nat} (hi : ∀ j < n, (nextBlock s c + j) % blockCount ≠ i) :
    sget (fun _ => freshBlock) (streamOf (s.arrived c bytes) c).blocks i = freshBlock := by
  rw [h.blocks, sget_putBytes (by rfl)]
  exact blockLaid_outside h.aligned h.length hi

theorem WholePacket.full (h : WholePacket s c n bytes) (hj : j < n) :
    blockFull (streamOf (s.arrived c bytes) c) ((nextBlock s c + j) % blockCount) = true := by rw [blockFull, h.block hj]; rfl

theorem WholePacket.blockBytes (h : WholePacket s c n bytes) {m : Nat} (hm : m ≤ n) :
    blockBytes (streamOf (s.arrived c bytes) c) (nextBlock s c) m = bytes.take (64 * m) := by
  have hlen := h.length
  rw [← flatten_slices bytes (show 64 * m ≤ bytes.length by omega), Machine.blockBytes]
  congr 1
  refine List.map_congr_left fun j hj => ?_
  rw [h.block (by have := List.mem_range.mp hj; omega)]

theorem WholePacket.headerAt (h : WholePacket s c n bytes) : headerAt (s.arrived c bytes) c = some (bytes.take 64) := by
  have hfirst : (nextBlock s c + 0) % blockCount = nextBlock s c := Nat.mod_eq_of_lt (by have := nextOffset_lt s c; rw [nextBlock, blockCount]; omega)
  have hfull := h.full h.pos
  rw [hfirst] at hfull
  exact (if_pos hfull).trans (congrArg some (h.blockBytes h.pos))

theorem rd_header (b : Bytes) : rd (b.take 64) 0 2 = rd b 0 2 := by simp [rd, slice, List.take_take]

theorem WholePacket.complete (h : WholePacket s c n bytes) : packetComplete (s.arrived c bytes) c = true := by
  rw [packetComplete, h.headerAt]
  simp only [rd_header, h.len, List.all_eq_true, List.mem_range]
  exact fun j hj => h.full (by omega)

theorem WholePacket.packet (h : WholePacket s c n bytes) : Machine.blockBytes (streamOf (s.arrived c bytes) c) (nextBlock (s.arrived c bytes) c)
    (min ((Machine.headerAt (s.arrived c bytes) c).elim 0 fun h => max 1 (rd h 0 2)) blockCount) = bytes := by
  have hn := h.le
  have hpos := h.pos
  have hsize : min (max 1 n) blockCount = n := by rw [blockCount]; omega
  rw [h.headerAt, Option.elim, rd_header, h.len, hsize]
  exact (h.blockBytes (Nat.le_refl n)).trans (List.take_of_length_le (by rw [h.length]))

/-! ### What the intake makes of it (R271) -/

theorem takePackets_arrived (h : WholePacket s c n bytes) (hrun : streamState s c = 1) (hroom : outstanding s c < queueLimit c) (fuel : Nat) :
    takePackets c (fuel + 1) (s.arrived c bytes) =
      match framingFault s c bytes with
      | some reason => haltStream (s.arrived c bytes) c reason
      | none => takePackets c fuel (consumePacket (s.arrived c bytes) c bytes) := by
  have hhalted : (streamOf (s.arrived c bytes) c).halted = (streamOf s c).halted := by rw [State.arrived, streamOf_modStream h.streamsOk]
  have hrun' : streamState (s.arrived c bytes) c = 1 := by rw [← hrun, streamState, hhalted]; rfl
  have htakes : (decide (streamState (s.arrived c bytes) c = 1) && packetComplete (s.arrived c bytes) c &&
      decide (outstanding (s.arrived c bytes) c < queueLimit c)) = true := by
    have hroom' : outstanding (s.arrived c bytes) c < queueLimit c := hroom
    simp [hrun', h.complete, hroom']
  rw [takePackets, if_pos htakes]
  simp only [h.packet]
  rfl

/-! ### A stream halts (R273) -/

/-- A stream halted with its blocks discarded. -/
def Stream.haltedEmpty (x : Stream) : Stream := { x with blocks := [], halted := true }

theorem haltStream_ringOnly (hok : s.streamsOk) (c reason : Nat) :
    RingOnly c (fset (modStream s c Stream.haltedEmpty) (Reg.INT_STATUS.HALT_REASON c) reason) (haltStream s c reason) := by
  have hhalted : (fset (modStream s c Stream.haltedEmpty) (Reg.INT_STATUS.HALT_REASON c) reason).streamsOk := streamsOk_modStream hok c _
  exact (((RingOnly.refl hhalted).writeRecord ..).writeHeader).msix ..

/-! ### A packet is consumed (R271) -/

/-- A stream without the `n` blocks from `first` on. -/
def Stream.without (first n : Nat) (x : Stream) : Stream := { x with blocks := sdrop (fun i => decide ((i + blockCount - first) % blockCount < n)) x.blocks }

theorem Stream.without_blocks (first n : Nat) (x : Stream) :
    (x.without first n).blocks = sdrop (fun i => decide ((i + blockCount - first) % blockCount < n)) x.blocks := rfl

/-- The module that has consumed a packet of `n` blocks from block `first` on, but for the header that it then writes: command `k` stands last, and the
next packet belongs at `next` with number `seq`. -/
def State.packetTaken (s : State) (c first n next seq : Nat) (k : Cmd) : State :=
  let u := modStream s c (Stream.without first n)
  fset (fset { u with itk := { u.itk with cmds := u.itk.cmds ++ [k] } } (Reg.INT_STATUS.NEXT_OFFSET c) next) (Reg.INT_STATUS.EXPECTED_SEQ c) seq

theorem consumePacket_eq (s : State) (c : Nat) (pkt : Bytes) : consumePacket s c pkt = writeHeader (s.packetTaken c (nextBlock s c) (rd pkt 0 2)
    ((fget s (Reg.INT_STATUS.NEXT_OFFSET c) + 64 * rd pkt 0 2) % 2 ^ 20) ((fget s (Reg.INT_STATUS.EXPECTED_SEQ c) + 1) % 2 ^ 32) (commandOf s c pkt)) c := rfl

theorem packetTaken_regs (s : State) (c first n next seq : Nat) (k : Cmd) : (s.packetTaken c first n next seq k).regs =
    (fset (fset s (Reg.INT_STATUS.NEXT_OFFSET c) next) (Reg.INT_STATUS.EXPECTED_SEQ c) seq).regs := rfl

theorem packetTaken_cmds (s : State) (c first n next seq : Nat) (k : Cmd) : (s.packetTaken c first n next seq k).itk.cmds = s.itk.cmds ++ [k] := rfl

theorem streamsOk_packetTaken (hok : s.streamsOk) (c first n next seq : Nat) (k : Cmd) : (s.packetTaken c first n next seq k).streamsOk :=
  streamsOk_modStream hok c (Stream.without first n)

theorem streamOf_packetTaken (hok : s.streamsOk) (c first n next seq : Nat) (k : Cmd) :
    streamOf (s.packetTaken c first n next seq k) c = (streamOf s c).without first n := streamOf_modStream hok c (Stream.without first n)

theorem streamOf_packetTaken_ne (hok : s.streamsOk) {c d : Nat} (hd : d ≠ c) (first n next seq : Nat) (k : Cmd) :
    streamOf (s.packetTaken c first n next seq k) d = streamOf s d := streamOf_modStream_ne hok (Stream.without first n) hd

/-- A table that reads its reset contents everywhere is empty. -/
theorem eq_nil_of_sget {α : Type} [DecidableEq α] {d : Nat → α} {m : Sparse α} (hm : swf d m = true) (h : ∀ i, sget d m i = d i) : m = [] := by
  cases m with
  | nil => rfl
  | cons e m =>
    obtain ⟨j, v⟩ := e
    simp only [swf, swfFrom, Bool.and_eq_true, decide_eq_true_eq] at hm
    exact absurd (by simpa [sget] using h j) hm.1.2

/-- All blocks of the packet leave the map. -/
theorem WholePacket.without_empty (h : WholePacket s c n bytes) : ((streamOf (s.arrived c bytes) c).without (nextBlock s c) n).blocks = [] := by
  have hswf : swf (fun _ => freshBlock) (streamOf (s.arrived c bytes) c).blocks = true := by rw [h.blocks]; exact putBytes_swf rfl _ _
  have hfirst : nextBlock s c < blockCount := by have := nextOffset_lt s c; rw [nextBlock, blockCount]; omega
  rw [Stream.without_blocks]
  refine eq_nil_of_sget (sdrop_swf _ hswf) fun i => ?_
  refine (sget_sdrop _ hswf i).trans ?_
  split
  · rfl
  · next hi =>
    refine h.block_outside fun j hj => ?_
    have hkept : ¬ (i + blockCount - nextBlock s c) % blockCount < n := by simpa using hi
    simp only [blockCount] at hkept hfirst ⊢
    omega

/-- A stream without blocks holds no complete packet. -/
theorem packetComplete_of_empty (h : (streamOf s c).blocks = []) : packetComplete s c = false := by
  simp [packetComplete, headerAt, blockFull, h, sget, freshBlock]

/-! ### PACKET_BLOCK_WRITE -/

/-- A stream that runs is not halted, its carrel is enabled and the intake is up (R288). -/
theorem streamState_running (h : streamState s c = 1) : (streamOf s c).halted = false ∧ streamEnabled s c = true ∧ intakeUp s = true := by
  unfold streamState at h
  split at h
  · cases h
  · next hhalted =>
    split at h
    · next hon =>
      simp only [Bool.and_eq_true] at hon
      exact ⟨by simpa using hhalted, hon.1.2, hon.2⟩
    · cases h

theorem exec_packetBlockWrite_arrives (hpow : unpowered s = false) (hrun : s.pst.depth = 0) (hup : intakeUp s = true) (hon : streamEnabled s c = true)
    (hhalted : (streamOf s c).halted = false) (off : Nat) (bytes : Bytes) :
    exec (.packetBlockWrite c false off bytes) s =
      .next (takePackets c blockCount (modStream s c fun x => { x with blocks := putBytes x.blocks off bytes })) := by
  show execPacketBlockWrite c false off bytes s = _
  have hready : domainReady s 1 = true := by simp [domainReady, hrun]
  simp [execPacketBlockWrite, hpow, standbyPort, hup, hon, hhalted, hready, leaveIdle_run (s := s) (by omega), arrive]

theorem exec_packetBlockWrite_discarded (hpow : unpowered s = false)
    (h : (streamOf s c).halted = true ∨ streamEnabled s c = false ∨ intakeUp s = false) (off : Nat) (bytes : Bytes) :
    exec (.packetBlockWrite c false off bytes) s = .next s := by
  have hdrop : (!intakeUp s || !streamEnabled s c || (streamOf s c).halted) = true := by
    rcases h with h | h | h <;> simp [h]
  show execPacketBlockWrite c false off bytes s = _
  simp only [execPacketBlockWrite, hpow, standbyPort, hdrop, Bool.and_false, Bool.false_eq_true, if_false, if_true]

theorem exec_packetBlockWrite_standby (hpow : unpowered s = false) (hmode : standbyMode s = true) (off : Nat) (bytes : Bytes) :
    exec (.packetBlockWrite c true off bytes) s = .next (ignored s off (leNat (bytes.take 8))) := by
  show execPacketBlockWrite c true off bytes s = _
  simp [execPacketBlockWrite, hpow, standbyPort, hmode]

/-- Between `s` and `t` at most registers, streams, commands and what goes out have changed. -/
def IntakeOnly (s t : State) : Prop :=
  t = { s with regs := t.regs, itk := { s.itk with streams := t.itk.streams, cmds := t.itk.cmds }, out := t.out }

theorem IntakeOnly.trans {u : State} (h : IntakeOnly s t) (h' : IntakeOnly t u) : IntakeOnly s u := by
  unfold IntakeOnly at h h' ⊢
  rw [h', h]

theorem RingOnly.intakeOnly (h : RingOnly c s t) : IntakeOnly s t := by
  unfold IntakeOnly
  rw [h.frame]

theorem RingOnly.regs (h : RingOnly c s t) : t.regs = s.regs := by rw [h.frame]

theorem RingOnly.cmds (h : RingOnly c s t) : t.itk.cmds = s.itk.cmds := by rw [h.frame]

theorem rget_of_regs (h : t.regs = s.regs) (a : Nat) : rget t a = rget s a := congrArg (sget regReset · a) h

/-- What a framing fault leaves: the stream halted with its reason, its place kept. -/
theorem haltStream_effect (hr : s.regsOk) (hok : s.streamsOk) (hreason : reason < 2 ^ 4) (ht : t = haltStream s c reason) :
    IntakeOnly s t ∧ t.itk.cmds = s.itk.cmds ∧
      (∀ d, d ≠ c → streamOf t d = streamOf s d) ∧ (streamOf t c).blocks = [] ∧ (streamOf t c).halted = true ∧
      (∀ a, a ≠ (Reg.INT_STATUS.NEXT_OFFSET c).addr → rget t a = rget s a) ∧
      fget t (Reg.INT_STATUS.HALT_REASON c) = reason ∧
      fget t (Reg.INT_STATUS.NEXT_OFFSET c) = fget s (Reg.INT_STATUS.NEXT_OFFSET c) ∧
      fget t (Reg.INT_STATUS.EXPECTED_SEQ c) = fget s (Reg.INT_STATUS.EXPECTED_SEQ c) := by
  have hring : RingOnly c (fset (modStream s c Stream.haltedEmpty) (Reg.INT_STATUS.HALT_REASON c) reason) t := ht ▸ haltStream_ringOnly hok c reason
  have hregs : t.regs = (fset s (Reg.INT_STATUS.HALT_REASON c) reason).regs := hring.regs
  have hstream := streamOf_modStream hok c Stream.haltedEmpty
  refine ⟨.trans (t := fset (modStream s c Stream.haltedEmpty) (Reg.INT_STATUS.HALT_REASON c) reason) rfl hring.intakeOnly, hring.cmds,
    fun d hd => (hring.others d hd).trans (streamOf_modStream_ne hok _ hd), hring.blocks.trans (congrArg Stream.blocks hstream),
    hring.halted.trans (congrArg Stream.halted hstream), fun a ha => ?_, ?_, ?_, ?_⟩
  · exact (rget_of_regs hregs a).trans (rget_fset_ne (f := Reg.INT_STATUS.HALT_REASON c) hr _ ha)
  · rw [fget_of_regs hregs, fget_fset_same hr _ _ (by simp [Reg.INT_STATUS.HALT_REASON])]
    exact Nat.mod_eq_of_lt hreason
  · rw [fget_of_regs hregs, fget_fset_other hr] <;> simp [Reg.INT_STATUS.HALT_REASON, Reg.INT_STATUS.NEXT_OFFSET]
  · rw [fget_of_regs hregs, fget_fset_other hr] <;> simp [Reg.INT_STATUS.HALT_REASON, Reg.INT_STATUS.EXPECTED_SEQ]

theorem intakeOnly_fset (s : State) (f : FieldRef) (v : Nat) : IntakeOnly s (fset s f v) := rfl

theorem intakeOnly_modStream (s : State) (c : Nat) (f : Stream → Stream) : IntakeOnly s (modStream s c f) := rfl

theorem intakeOnly_addCmd (s : State) (k : Cmd) : IntakeOnly s { s with itk := { s.itk with cmds := s.itk.cmds ++ [k] } } := rfl

theorem packetTaken_intakeOnly (s : State) (c first n next seq : Nat) (k : Cmd) : IntakeOnly s (s.packetTaken c first n next seq k) :=
  (intakeOnly_modStream s c _).trans ((intakeOnly_addCmd _ k).trans ((intakeOnly_fset ..).trans (intakeOnly_fset ..)))

theorem arrived_intakeOnly (s : State) (c : Nat) (bytes : Bytes) : IntakeOnly s (s.arrived c bytes) := intakeOnly_modStream s c _

theorem fget_arrived (s : State) (c : Nat) (bytes : Bytes) (f : FieldRef) : fget (s.arrived c bytes) f = fget s f := rfl

theorem nextBlock_arrived (s : State) (c : Nat) (bytes : Bytes) : nextBlock (s.arrived c bytes) c = nextBlock s c := rfl

theorem commandOf_arrived (s : State) (c : Nat) (bytes pkt : Bytes) : commandOf (s.arrived c bytes) c pkt = commandOf s c pkt := rfl

/-- What a packet consumed leaves: its command joins the queue, its blocks leave the map, and the next one is expected behind it. -/
theorem WholePacket.consumed (h : WholePacket s c n bytes) (hr : s.regsOk) (ht : t = consumePacket (s.arrived c bytes) c bytes) :
    IntakeOnly s t ∧ t.itk.cmds = s.itk.cmds ++ [commandOf s c bytes] ∧
      (∀ d, d ≠ c → streamOf t d = streamOf s d) ∧ (streamOf t c).blocks = [] ∧ (streamOf t c).halted = (streamOf s c).halted ∧
      (∀ a, a ≠ (Reg.INT_STATUS.NEXT_OFFSET c).addr → rget t a = rget s a) ∧
      fget t (Reg.INT_STATUS.NEXT_OFFSET c) = (fget s (Reg.INT_STATUS.NEXT_OFFSET c) + 64 * n) % 2 ^ 20 ∧
      fget t (Reg.INT_STATUS.EXPECTED_SEQ c) = (fget s (Reg.INT_STATUS.EXPECTED_SEQ c) + 1) % 2 ^ 32 := by
  have hok : (s.arrived c bytes).streamsOk := streamsOk_modStream h.streamsOk c _
  rw [consumePacket_eq, h.len, fget_arrived, fget_arrived, nextBlock_arrived, commandOf_arrived] at ht
  generalize hnext : (fget s (Reg.INT_STATUS.NEXT_OFFSET c) + 64 * n) % 2 ^ 20 = next at ht ⊢
  generalize hseq : (fget s (Reg.INT_STATUS.EXPECTED_SEQ c) + 1) % 2 ^ 32 = seq at ht ⊢
  have hring : RingOnly c ((s.arrived c bytes).packetTaken c (nextBlock s c) n next seq (commandOf s c bytes)) t :=
    ht ▸ (RingOnly.refl (streamsOk_packetTaken hok ..)).writeHeader
  have hregs : t.regs = (fset (fset s (Reg.INT_STATUS.NEXT_OFFSET c) next) (Reg.INT_STATUS.EXPECTED_SEQ c) seq).regs :=
    hring.regs.trans (packetTaken_regs ..)
  have hr' := regsOk_fset hr (Reg.INT_STATUS.NEXT_OFFSET c) next
  refine ⟨(arrived_intakeOnly s c bytes).trans ((packetTaken_intakeOnly ..).trans hring.intakeOnly), hring.cmds.trans (packetTaken_cmds ..),
    fun d hd => ?_, ?_, ?_, fun a ha => ?_, ?_, ?_⟩
  · rw [hring.others d hd, streamOf_packetTaken_ne hok hd, State.arrived, streamOf_modStream_ne h.streamsOk _ hd]
  · rw [hring.blocks, streamOf_packetTaken hok, h.without_empty]
  · rw [hring.halted, streamOf_packetTaken hok, State.arrived, streamOf_modStream h.streamsOk]
    rfl
  · refine (rget_of_regs hregs a).trans ?_
    rw [rget_fset_ne (f := Reg.INT_STATUS.EXPECTED_SEQ c) hr' _ ha, rget_fset_ne hr _ ha]
  · rw [fget_of_regs hregs, fget_fset_other hr', fget_fset_same hr, ← hnext] <;> simp [Reg.INT_STATUS.EXPECTED_SEQ, Reg.INT_STATUS.NEXT_OFFSET]
  · rw [fget_of_regs hregs, fget_fset_same hr', ← hseq] <;> simp [Reg.INT_STATUS.EXPECTED_SEQ]

end Sys2Proof.Machine
end
end

section
/-!
PROOFS. A whole packet at NEXT_OFFSET is consumed or halts its stream, and the writes that consume nothing (R271, R273).
-/
section
open Sys2Proof Sys2Proof.Machine
namespace Sys2Proof.Machine

variable {s : State} {c n reason : Nat} {bytes : Bytes}

/-- Each framing fault is a reason of its field's four bits. -/
theorem framingFault_lt (h : framingFault s c bytes = some reason) : reason < 2 ^ 4 := by
  have hreason : reason = haltLength ∨ reason = haltCrc ∨ reason = haltSequence := by
    grind [framingFault]
  rcases hreason with rfl | rfl | rfl <;> decide

theorem arrived_cmds (s : State) (c : Nat) (bytes : Bytes) : (s.arrived c bytes).itk.cmds = s.itk.cmds := rfl

theorem streamOf_arrived_ne (hok : s.streamsOk) {d : Nat} (hd : d ≠ c) (bytes : Bytes) : streamOf (s.arrived c bytes) d = streamOf s d :=
  streamOf_modStream_ne hok _ hd

theorem rget_arrived (s : State) (c : Nat) (bytes : Bytes) (a : Nat) : rget (s.arrived c bytes) a = rget s a := rfl

theorem regsOk_arrived (hr : s.regsOk) (c : Nat) (bytes : Bytes) : (s.arrived c bytes).regsOk := hr

/-- Settles O13: the written packet is the whole of its aperture (`WholePacket`), so that its framing decides (`takePackets_arrived`) whether it halts
the stream (`haltStream_effect`) or is consumed with nothing behind it (`WholePacket.consumed`); the other writes leave no packet to take. -/
theorem packetsAreConsumedOrWait : Obligations.PacketsAreConsumedOrWait := by
  unfold Obligations.PacketsAreConsumedOrWait
  refine ⟨fun c n bytes s hr hok _ hpow hdepth hrun hon hempty hroom hpos hle hlength hlen haligned => ?_, fun c off bytes s hr hpow =>
    ⟨fun hdepth hup hon hhalted hwait => ?_, exec_packetBlockWrite_discarded hpow (off := off) (bytes := bytes), fun hmode =>
      ⟨_, exec_packetBlockWrite_standby hpow hmode off bytes, ignored_effect hr ..⟩⟩⟩
  · have hwhole : WholePacket s c n bytes := ⟨hpos, hle, hlength, hlen, haligned, hok, hempty⟩
    obtain ⟨hhalted, -, hup⟩ := streamState_running hrun
    have hexec := (exec_packetBlockWrite_arrives hpow hdepth hup hon hhalted (fget s (Reg.INT_STATUS.NEXT_OFFSET c)) bytes).trans
      (congrArg _ (takePackets_arrived hwhole hrun hroom 16383))
    refine ⟨_, hexec, ?_⟩
    cases hfault : framingFault s c bytes with
    | some reason =>
      obtain ⟨hframe, hcmds, hothers, hblocks, hhalt, hregs, hreason, hnext, hseq⟩ := haltStream_effect (regsOk_arrived hr c bytes)
        (streamsOk_modStream hok c _) (framingFault_lt hfault) (rfl : haltStream (s.arrived c bytes) c reason = _)
      exact ⟨(arrived_intakeOnly s c bytes).trans hframe, fun d hd => (hothers d hd).trans (streamOf_arrived_ne hok hd bytes), hblocks,
        fun a ha => (hregs a ha).trans (rget_arrived ..), hhalt, hreason, hcmds.trans (arrived_cmds ..), hnext.trans (fget_arrived ..),
        hseq.trans (fget_arrived ..)⟩
    | none =>
      obtain ⟨hframe, hcmds, hothers, hblocks, hhalt, hregs, hnext, hseq⟩ := hwhole.consumed hr rfl
      rw [takePackets_of_incomplete (packetComplete_of_empty hblocks)]
      exact ⟨hframe, hothers, hblocks, hregs, hhalt.trans hhalted, hcmds, hnext, hseq⟩
  · rw [exec_packetBlockWrite_arrives hpow hdepth hup hon hhalted, takePackets_of_incomplete hwait]

end Sys2Proof.Machine
end
end

section
/-!
PROOFS. Accessions in progress end with their port or function (R209, R286, R405): their commands finish, their folios go back, their regions' phases settle.
-/
section
open Sys2Proof Sys2Proof.Machine
namespace Sys2Proof.Machine

variable {s t u : State} {d r : Nat}

/-! ### What the end of an accession changes -/

/-- Between `s` and `t` at most accessions, folios, PF1's commands and the annals have changed. -/
structure AccessionsOnly (s t : State) : Prop where
  frame : t = { s.withRegs t with acc := t.acc, arr := t.arr, col := t.col, con := t.con, itk := { s.itk with cmds := t.itk.cmds } }
  regsOk : t.regsOk
  regs : s.regsFrom t []
  cmds : t.itk.cmds.filter (·.stream != 1024) = s.itk.cmds.filter (·.stream != 1024)

theorem AccessionsOnly.refl (hr : s.regsOk) : AccessionsOnly s s := ⟨rfl, hr, fun _ _ _ => rfl, rfl⟩

theorem AccessionsOnly.trans (h : AccessionsOnly s t) (h' : AccessionsOnly t u) : AccessionsOnly s u where
  frame := by rw [h'.frame, h.frame]; rfl
  regsOk := h'.regsOk
  regs b hb hann := (h'.regs b hb hann).trans (h.regs b hb hann)
  cmds := h'.cmds.trans h.cmds

theorem AccessionsOnly.parts (h : AccessionsOnly s t) (acc : Sparse Acc) (arr col con) : AccessionsOnly s { t with acc := acc, arr := arr, col := col, con := con } :=
  h.trans ⟨rfl, h.regsOk, fun _ _ _ => rfl, rfl⟩

theorem AccessionsOnly.modAcc (h : AccessionsOnly s t) (r : Nat) (f : Acc → Acc) : AccessionsOnly s (modAcc t r f) := h.parts _ t.arr t.col t.con

theorem AccessionsOnly.modFolio (h : AccessionsOnly s t) (k : Nat) (f : Folio → Folio) : AccessionsOnly s (modFolio t k f) := h.parts t.acc _ t.col t.con

theorem AccessionsOnly.dropSweep (h : AccessionsOnly s t) (k : Nat) : AccessionsOnly s (dropSweep t k) := h.parts t.acc t.arr _ t.con

theorem AccessionsOnly.freeSpare (h : AccessionsOnly s t) (k : Nat) : AccessionsOnly s (freeSpare t k) := h.parts t.acc t.arr t.col _

theorem AccessionsOnly.endRequest (h : AccessionsOnly s t) (k : Nat) : AccessionsOnly s (endRequest t k) := by
  unfold Machine.endRequest
  split
  · split
    · exact h.parts t.acc t.arr _ t.con
    · exact h
  · exact h

theorem AccessionsOnly.annal (h : AccessionsOnly s t) (kind sev : Nat) (obj : Obj) (a0 a1 a2 : Nat) : AccessionsOnly s (annal t kind sev obj a0 a1 a2) := by
  refine h.trans ⟨?_, annal_regsOk h.regsOk .., fun b _ hann => annal_rget h.regsOk _ _ _ _ _ _ hann, ?_⟩ <;> rw [annal_frame] <;> rfl

/-- A command of PF1 that changes and keeps its stream leaves the other streams' commands. -/
theorem filter_modFirst_named (q : Nat) (f : Cmd → Cmd) (hf : ∀ k, (f k).stream = k.stream) (ks : List Cmd) :
    (modFirst (Cmd.named 1024 q) f ks).filter (·.stream != 1024) = ks.filter (·.stream != 1024) := by
  induction ks with
  | nil => rfl
  | cons k ks ih =>
    rw [modFirst]
    split
    · next hk =>
      have hstream : k.stream = 1024 := by simp only [Cmd.named, Bool.and_eq_true, beq_iff_eq] at hk; exact hk.1.1
      simp [hf, hstream]
    · simp only [List.filter_cons, ih]

theorem AccessionsOnly.finish (h : AccessionsOnly s t) (q st v : Nat) : AccessionsOnly s (finish t 1024 q st v) :=
  h.trans ⟨rfl, h.regsOk, fun _ _ _ => rfl, filter_modFirst_named q (fun k => { k with phase := .finished, status := st, value := v }) (fun _ => rfl) _⟩

theorem AccessionsOnly.foldl {α : Type} {f : State → α → State} (hf : ∀ u x, AccessionsOnly s u → AccessionsOnly s (f u x)) (l : List α)
    (h : AccessionsOnly s t) : AccessionsOnly s (l.foldl f t) := by
  induction l generalizing t with
  | nil => exact h
  | cons x xs ih => exact ih (hf t x h)

theorem AccessionsOnly.toState (h : AccessionsOnly s t) (k : Nat) (st : FState) : AccessionsOnly s (toState t k st) := (h.modFolio k _).annal ..

theorem AccessionsOnly.giveBack (h : AccessionsOnly s t) (k : Nat) : AccessionsOnly s (giveBack t k) := by
  unfold Machine.giveBack
  dsimp only
  split
  · exact (((h.toState k _).dropSweep k).endRequest k).modFolio ..
  · exact ((((h.toState k _).dropSweep k).endRequest k).freeSpare k).modFolio ..

theorem AccessionsOnly.abandonIncoming (h : AccessionsOnly s t) (r : Nat) : AccessionsOnly s (abandonIncoming t r) := by
  refine .foldl (fun u k hu => ?_) _ h
  dsimp only
  split
  · exact hu.giveBack k
  · exact hu

theorem AccessionsOnly.accNote (h : AccessionsOnly s t) (r code : Nat) (m : Option Manifest) : AccessionsOnly s (accNote t r code m) := by
  unfold Machine.accNote
  dsimp only
  split
  · exact h.modAcc ..
  · exact (h.modAcc ..).annal ..

theorem AccessionsOnly.endAcc (h : AccessionsOnly s t) (r code : Nat) (ph : AccPhase) : AccessionsOnly s (endAcc t r code ph) :=
  ((AccessionsOnly.foldl (fun _ q hu => (hu.accNote r code _).finish q _ _) _ h).abandonIncoming r).modAcc ..

/-! ### The phase that it leaves (Table 8-4) -/

theorem abandonIncoming_acc (s : State) (r : Nat) : (abandonIncoming s r).acc = s.acc := by
  have hstep (l : List Nat) (s : State) : (l.foldl (fun s k => if ((folioAt s k).purpose == .accession || (folioAt s k).purpose == .repair) &&
      (folioAt s k).region == r && ((folioAt s k).st == .accessing || (folioAt s k).st == .collating) then giveBack s k else s) s).acc = s.acc := by
    induction l generalizing s with
    | nil => rfl
    | cons k ks ih =>
      rw [List.foldl_cons, ih]
      split
      · exact congrArg Prod.fst (giveBack_accWork s k)
      · rfl
  exact hstep _ s

theorem releaseAcc_eq (s : State) (r code : Nat) : releaseAcc s r code = accDones s r code (accOf s r).manifest (accOf s r).waiting := rfl

/-- The accession of a region ends in a phase; the others stand. -/
theorem endAcc_effect (ha : s.accOk) (hr : s.regsOk) (r code : Nat) (ph : AccPhase) :
    (endAcc s r code ph).accOk ∧ accFrom s (endAcc s r code ph) r ∧ (accOf (endAcc s r code ph) r).phase = if (accOf s r).restore then .idle else ph := by
  have hreleased : AccOnly r s (releaseAcc s r code) := (AccOnly.refl ha hr).accDones code _ _
  have hacc := abandonIncoming_acc (releaseAcc s r code) r
  have haccOk : (abandonIncoming (releaseAcc s r code) r).accOk := by rw [State.accOk, hacc]; exact hreleased.accOk
  have hsame (q : Nat) : accOf (abandonIncoming (releaseAcc s r code) r) q = accOf (releaseAcc s r code) q := by rw [accOf, hacc]; rfl
  have hrestore : (accOf (releaseAcc s r code) r).restore = (accOf s r).restore := by
    rw [releaseAcc_eq, accOf_accDones ha hr]
  refine ⟨accOk_modAcc haccOk r _, fun q hq => ?_, ?_⟩
  · exact (accOf_modAcc_ne haccOk _ hq).trans ((hsame q).trans (hreleased.others q hq))
  · rw [endAcc, accOf_modAcc haccOk, hsame, hrestore]

/-! ### Every accession in progress (R209, R286) -/

/-- An accession that a port's loss ends: its colophon write has not begun. -/
def Acc.inProgress (a : Acc) : Bool := a.phase == .receiving || a.phase == .paused || a.phase == .committing || a.phase == .restoring

theorem cancelAccessions_eq (s : State) :
    cancelAccessions s = (List.range 16).foldl (fun s r => if (accOf s r).inProgress then endAcc s r 0x0C .idle else s) s := rfl

theorem Acc.not_inProgress_iff (a : Acc) : a.inProgress = false ↔ a.phase = .idle ∨ a.phase = .flipPending ∨ a.phase = .failed := by
  unfold Acc.inProgress
  cases a.phase <;> simp

theorem cancelAccessions_only (hr : s.regsOk) : AccessionsOnly s (cancelAccessions s) := by
  rw [cancelAccessions_eq]
  refine .foldl (fun u r hu => ?_) _ (.refl hr)
  split
  · exact hu.endAcc ..
  · exact hu

/-- A walk over regions leaves none of them in progress. -/
theorem foldl_endAcc_settles (ha : s.accOk) (hr : s.regsOk) (rs : List Nat) (h : d ∈ rs ∨ (accOf s d).inProgress = false) :
    (accOf (rs.foldl (fun s r => if (accOf s r).inProgress then endAcc s r 0x0C .idle else s) s) d).inProgress = false := by
  induction rs generalizing s with
  | nil => exact h.resolve_left (List.not_mem_nil)
  | cons r rs ih =>
    obtain ⟨haccOk, hothers, hphase⟩ := endAcc_effect ha hr r 0x0C .idle
    have hidle : (accOf (endAcc s r 0x0C .idle) r).phase = .idle := by rw [hphase, ite_self]
    have hended : (accOf (endAcc s r 0x0C .idle) r).inProgress = false := (Acc.not_inProgress_iff _).mpr (.inl hidle)
    rw [List.foldl_cons]
    by_cases hbusy : (accOf s r).inProgress = true
    · rw [if_pos hbusy]
      refine ih haccOk ((AccessionsOnly.refl hr).endAcc ..).regsOk ?_
      by_cases hd : d = r
      · exact .inr (hd ▸ hended)
      · exact h.imp (fun hmem => (List.mem_cons.mp hmem).resolve_left hd) fun hsettled => by rw [hothers d hd]; exact hsettled
    · rw [if_neg hbusy]
      refine ih ha hr ?_
      by_cases hd : d = r
      · exact .inr (by simpa [hd] using hbusy)
      · exact h.imp_left fun hmem => (List.mem_cons.mp hmem).resolve_left hd

theorem cancelAccessions_settled (ha : s.accOk) (hr : s.regsOk) (hd : d < 16) : (accOf (cancelAccessions s) d).inProgress = false :=
  foldl_endAcc_settles ha hr _ (.inl (List.mem_range.mpr hd))

end Sys2Proof.Machine
end
end

section
/-!
PROOFS. Host ports and bus mastering (R227, R261, R286): links, configuration, the streams' halt, the route of BULK, and the swaps-out that fail.
-/
section
open Sys2Proof Sys2Proof.Machine
namespace Sys2Proof.Machine

variable {s t : State} {b up : Bool} {c d h : Nat} {fn : Fn}

/-! ### Links and configuration -/

theorem linkUp_putLink (s : State) (b up : Bool) : linkUp (putLink s b up) b = up := by cases b <;> rfl

theorem linkUp_putLink_other (s : State) (b up : Bool) : linkUp (putLink s b up) (!b) = linkUp s (!b) := by cases b <;> rfl

theorem putLink_master (s : State) (b up : Bool) : (putLink s b up).hst.master = s.hst.master := by cases b <;> rfl

theorem putLink_bulk (s : State) (b up : Bool) : (putLink s b up).hst.bulkToPf1 = s.hst.bulkToPf1 := by cases b <;> rfl

theorem putLink_lostAt (s : State) (b up : Bool) : (putLink s b up).hst.lostAt = s.hst.lostAt := by cases b <;> rfl

theorem regsOk_putLink (hr : s.regsOk) (b up : Bool) : (putLink s b up).regsOk := regsOk_fset (s := { s with hst := _ }) hr _ _

theorem fget_putLink (hr : s.regsOk) (b up : Bool) :
    fget (putLink s b up) (if b then Reg.INT_PORT_STATUS.LINK_B else Reg.INT_PORT_STATUS.LINK_A) = bitOf up := by
  cases b <;> refine (fget_fset_same (s := { s with hst := _ }) hr _ _ (by decide)).trans ?_ <;> cases up <;> rfl

theorem mem_dropConfig_master {p : Fn → Bool} : fn ∈ (dropConfig s p).hst.master ↔ fn ∈ s.hst.master ∧ p fn = false := by
  simp [dropConfig]

/-- What the rules leave: in joined mode PF2 alone is port B's, in standby mode all are the active port's. -/
theorem portFns_joined (hmode : standbyMode s = false) (b : Bool) (fn : Fn) : portFns s b fn = (b == (fn == .pf2)) := by simp [portFns, hmode]

theorem portFns_standby (hmode : standbyMode s = true) (b : Bool) : portFns s b .pf1 = (b == (fget s Reg.INT_PORT_STATUS.ACTIVE == 1)) := by
  simp only [portFns, hmode, if_true]
  exact Bool.and_true _

/-! ### Swaps-out that fail (R261) -/

theorem noneLeaves_of_kv (h : noneLeaves s) (hkv : t.kv = s.kv) : noneLeaves t := by rw [noneLeaves, hkv]; exact h

theorem failSwaps_of_noneLeaves (h : noneLeaves s) : failSwaps s = s := by
  have hnone : (s.kv.sessions.filter fun x => x.res == .swappingOut && !fnUp s (swapFn s (handleCarrel x.handle))) = [] :=
    List.filter_eq_nil_iff.mpr fun x hx => by simp [h x hx]
  rw [failSwaps, hnone, List.foldl_nil]

theorem foldl_hst {α : Type} {f : State → α → State} (hf : ∀ u x, (f u x).hst = u.hst) (l : List α) (s : State) : (l.foldl f s).hst = s.hst := by
  induction l generalizing s with
  | nil => rfl
  | cons x xs ih => rw [List.foldl_cons, ih, hf]

theorem swapFailed_hst (s : State) (x : Session) (step cause : Nat) : (swapFailed s x step cause).hst = s.hst := by
  unfold swapFailed
  dsimp only
  rw [foldl_hst]
  · rw [swapRecord, annal_frame]; rfl
  · intro u w
    split <;> rfl

theorem failSwaps_hst (s : State) : (failSwaps s).hst = s.hst := foldl_hst (fun _ _ => swapFailed_hst ..) _ _

theorem findSession_swapFailed (s : State) (x : Session) (step cause h : Nat) :
    findSession (swapFailed s x step cause) h = if h = x.handle then (findSession s h).map Session.stays else findSession s h := by
  rw [findSession, swapFailed_kv]
  split
  · next heq => exact heq ▸ findSession_modSession x.handle Session.stays fun _ => rfl
  · next hne => exact findSession_modSession_ne Session.stays (fun _ => rfl) hne

/-- A walk over sessions whose swaps-out fail leaves each of them resident. -/
theorem foldl_swapFailed_resident (step : Session → Nat) (xs : List Session) {y : Session} (hy : findSession s h = some y)
    (hin : (∃ x ∈ xs, x.handle = h) ∨ y.res = .resident) :
    (findSession (xs.foldl (fun s x => swapFailed s x (step x) 4) s) h).map (·.res) = some .resident := by
  induction xs generalizing s y with
  | nil =>
    have hres := hin.resolve_left (by simp)
    exact (congrArg (Option.map (·.res)) hy).trans (congrArg some hres)
  | cons x xs ih =>
    rw [List.foldl_cons]
    by_cases hx : h = x.handle
    · exact ih ((findSession_swapFailed ..).trans ((if_pos hx).trans (congrArg (Option.map Session.stays) hy))) (.inr rfl)
    · refine ih ((findSession_swapFailed ..).trans ((if_neg hx).trans hy)) (hin.imp_left fun ⟨z, hz, hzh⟩ => ⟨z, ?_, hzh⟩)
      exact (List.mem_cons.mp hz).resolve_left fun he => hx (by rw [← hzh, he])

/-- Of a function that cannot move data, no session is on its way out any longer. -/
theorem failSwaps_resident {x : Session} (hx : findSession s h = some x) (hres : x.res = .swappingOut)
    (hdown : fnUp s (swapFn s (handleCarrel h)) = false) : (findSession (failSwaps s) h).map (·.res) = some .resident := by
  have hh : x.handle = h := by simpa using List.find?_some hx
  refine foldl_swapFailed_resident (fun x => if x.swapStep = 2 then 1 else 2) _ hx (.inl ⟨x, ?_, hh⟩)
  simp [List.mem_filter, List.mem_of_find?_eq_some hx, hres, hh, hdown]

/-! ### Every stream halts with its ring disabled (R286) -/

/-- A table of consecutive entries reads each of them. -/
theorem sget_map_range' {α : Type} {e : Nat → α} {v : Nat → α} (a n : Nat) (hc : a ≤ c ∧ c < a + n) :
    sget e ((List.range' a n).map fun i => (i, v i)) c = v c := by
  induction n generalizing a with
  | zero => omega
  | succ n ih =>
    rw [List.range'_succ, List.map_cons, sget]
    split
    · next heq => rw [heq]
    · rw [if_neg (by omega)]
      exact ih (a + 1) (by omega)

/-- The rings `cs` disabled. -/
def State.ringsOff (s : State) (cs : List Nat) : State := cs.foldl (fun s c => fset s (Reg.CAR_RING_CTRL.ENABLE c) 0) s

theorem ringsOff_frame (s : State) (cs : List Nat) : s.ringsOff cs = { s with regs := (s.ringsOff cs).regs } := by
  induction cs generalizing s with
  | nil => rfl
  | cons c cs ih =>
    change (fset s (Reg.CAR_RING_CTRL.ENABLE c) 0).ringsOff cs = { s with regs := ((fset s (Reg.CAR_RING_CTRL.ENABLE c) 0).ringsOff cs).regs }
    rw [ih]
    rfl

theorem ringsOff_regsOk (hr : s.regsOk) (cs : List Nat) : (s.ringsOff cs).regsOk := by
  induction cs generalizing s with
  | nil => exact hr
  | cons c cs ih => exact ih (regsOk_fset hr ..)

theorem rget_ringsOff (hr : s.regsOk) (cs : List Nat) {a : Nat} (ha : ∀ c, a ≠ carBase c + 8) : rget (s.ringsOff cs) a = rget s a := by
  induction cs generalizing s with
  | nil => rfl
  | cons c cs ih => exact (ih (regsOk_fset hr ..)).trans (rget_fset_ne hr 0 (ha c))

theorem carBase_ne (hd : d ≠ c) : carBase d + 8 ≠ carBase c + 8 := by unfold carBase; omega

theorem fget_ringsOff (hr : s.regsOk) (cs : List Nat) (h : c ∈ cs ∨ fget s (Reg.CAR_RING_CTRL.ENABLE c) = 0) :
    fget (s.ringsOff cs) (Reg.CAR_RING_CTRL.ENABLE c) = 0 := by
  induction cs generalizing s with
  | nil => exact h.resolve_left List.not_mem_nil
  | cons d cs ih =>
    refine ih (regsOk_fset hr ..) ?_
    by_cases hd : c = d
    · exact .inr (hd ▸ fget_fset_same hr _ 0 (by simp [Reg.CAR_RING_CTRL.ENABLE]))
    · refine h.imp (fun hmem => (List.mem_cons.mp hmem).resolve_left hd) fun hoff => ?_
      exact (fget_fset_other hr _ _ _ (by simp [Reg.CAR_RING_CTRL.ENABLE]) (.inl (carBase_ne hd))).trans hoff

/-- The module with the streams `cs` halted, of all those that its table holds. -/
def State.streamsHalted (s : State) (cs : List Nat) : State :=
  { s with itk := { s.itk with streams := cs.map fun c => (c, { streamOf s c with halted := true }) } }

theorem haltStreams_eq (s : State) : haltStreams s = (s.streamsHalted (List.range 1025)).ringsOff ((List.range 1025).filter (ringOn s)) := by
  unfold haltStreams
  generalize List.range 1025 = cs
  rfl

theorem haltStreams_frame (s : State) :
    haltStreams s = { s with regs := (haltStreams s).regs, itk := { s.itk with streams := (haltStreams s).itk.streams } } := by
  rw [haltStreams_eq]
  generalize List.range 1025 = cs
  rw [ringsOff_frame]
  rfl

theorem haltStreams_regsOk (hr : s.regsOk) : (haltStreams s).regsOk := by
  rw [haltStreams_eq]
  exact ringsOff_regsOk (show (s.streamsHalted _).regsOk from hr) _

theorem streamOf_streamsHalted (s : State) {n : Nat} (hc : c < n) : streamOf (s.streamsHalted (List.range n)) c = { streamOf s c with halted := true } := by
  rw [List.range_eq_range']
  exact sget_map_range' (v := fun c => { streamOf s c with halted := true }) 0 n (c := c) (by omega)

theorem haltStreams_halted (hc : c ≤ 1024) : (streamOf (haltStreams s) c).halted = true := by
  have hhalted := streamOf_streamsHalted s (show c < 1025 by omega)
  rw [haltStreams_eq]
  generalize List.range 1025 = cs at hhalted ⊢
  rw [ringsOff_frame]
  exact congrArg Stream.halted hhalted

theorem haltStreams_ring (hr : s.regsOk) (hc : c ≤ 1024) : fget (haltStreams s) (Reg.CAR_RING_CTRL.ENABLE c) = 0 := by
  have hmem : c ∈ List.range 1025 := List.mem_range.mpr (by omega)
  rw [haltStreams_eq]
  generalize List.range 1025 = cs at hmem ⊢
  refine fget_ringsOff (show (s.streamsHalted cs).regsOk from hr) _ ?_
  by_cases hon : ringOn s c = true
  · exact .inl (List.mem_filter.mpr ⟨hmem, hon⟩)
  · right
    have hlt : fget s (Reg.CAR_RING_CTRL.ENABLE c) < 2 ^ 1 := nbits_lt ..
    have hne : fget s (Reg.CAR_RING_CTRL.ENABLE c) ≠ 1 := by simpa [ringOn] using hon
    exact (show fget s (Reg.CAR_RING_CTRL.ENABLE c) = 0 by omega)

theorem rget_haltStreams (hr : s.regsOk) {a : Nat} (ha : a < 0x8000000) : rget (haltStreams s) a = rget s a := by
  rw [haltStreams_eq]
  generalize List.range 1025 = cs
  exact rget_ringsOff (show (s.streamsHalted cs).regsOk from hr) _ fun c => by unfold carBase; omega

/-! ### The route of BULK (R227) -/

theorem routeBulk_frame (s : State) (b : Bool) : routeBulk s b =
    { s with regs := (routeBulk s b).regs, hst := { s.hst with bulkToPf1 := b },
             loans := if s.hst.bulkToPf1 || !b then s.loans else (rerouteLoans s).loans } := by
  unfold routeBulk
  split
  · next h =>
    have hb : s.hst.bulkToPf1 = b := by simpa using h
    subst hb
    cases hroute : s.hst.bulkToPf1 <;> simp [← hroute]
  · next h =>
    cases b with
    | false => simp [fset, rset]
    | true =>
      have hroute : s.hst.bulkToPf1 = false := by simpa using h
      simp [hroute, fset, rset, fbump, rerouteLoans]

theorem regsOk_rerouteLoans (hr : s.regsOk) : (rerouteLoans s).regsOk := hr

theorem rget_rerouteLoans (s : State) (a : Nat) : rget (rerouteLoans s) a = rget s a := rfl

/-- Only the register of the route changes. -/
theorem rget_routeBulk (hr : s.regsOk) (b : Bool) {a : Nat} (ha : a ≠ Reg.INT_BULK_STATUS.ROUTE.addr) : rget (routeBulk s b) a = rget s a := by
  have hset (v : Nat) : rget (fset { s with hst := { s.hst with bulkToPf1 := b } } Reg.INT_BULK_STATUS.ROUTE v) a = rget s a :=
    rget_fset_ne (s := { s with hst := { s.hst with bulkToPf1 := b } }) hr v ha
  unfold routeBulk
  dsimp only
  split
  · rfl
  · split
    · exact (rget_fbump_ne (f := Reg.INT_BULK_STATUS.FALLBACKS) (regsOk_rerouteLoans (regsOk_fset (s := { s with hst := _ }) hr _ _)) 1 ha).trans
        ((rget_rerouteLoans ..).trans (hset _))
    · exact hset _

/-- BULK falls back to PF1: the route shows it and the fallback is counted. -/
theorem routeBulk_fallback (hr : s.regsOk) (h : s.hst.bulkToPf1 = false) : fget (routeBulk s true) Reg.INT_BULK_STATUS.ROUTE = 1 ∧
    fget (routeBulk s true) Reg.INT_BULK_STATUS.FALLBACKS = min (fget s Reg.INT_BULK_STATUS.FALLBACKS + 1) (2 ^ 15 - 1) := by
  have heq : routeBulk s true =
      fbump (rerouteLoans (fset { s with hst := { s.hst with bulkToPf1 := true } } Reg.INT_BULK_STATUS.ROUTE 1)) Reg.INT_BULK_STATUS.FALLBACKS 1 := by
    simp [routeBulk, h, bitOf]
  have hok : (rerouteLoans (fset { s with hst := { s.hst with bulkToPf1 := true } } Reg.INT_BULK_STATUS.ROUTE 1)).regsOk :=
    regsOk_fset (s := { s with hst := _ }) hr ..
  have hcounted := fbump_counted hok Reg.INT_BULK_STATUS.FALLBACKS 1 (by decide)
  have hkept := fget_fset_other (s := { s with hst := { s.hst with bulkToPf1 := true } }) hr Reg.INT_BULK_STATUS.ROUTE Reg.INT_BULK_STATUS.FALLBACKS 1
    (by decide) (by decide)
  rw [heq]
  constructor
  · refine (fget_fbump_other hok _ _ 1 (by decide) (by decide)).trans ?_
    exact fget_fset_same (s := { s with hst := { s.hst with bulkToPf1 := true } }) hr Reg.INT_BULK_STATUS.ROUTE 1 (by decide)
  · refine (show _ = _ from hcounted).trans ?_
    exact congrArg (fun v => min (v + 1) (2 ^ 15 - 1)) hkept

end Sys2Proof.Machine
end
end

section
/-!
PROOFS. What a port's loss, its return, a takeover and a change of bus mastering do (R227, R261, R286).
-/
section
open Sys2Proof Sys2Proof.Machine
namespace Sys2Proof.Machine

variable {s t : State} {b : Bool} {c h : Nat} {fn : Fn}

/-! ### A port goes down -/

/-- The module with a port's link down and its functions without configuration. -/
def State.portDown (s : State) (b : Bool) : State := dropConfig (putLink s b false) (portFns s b)

theorem portDown_frame (s : State) (b : Bool) : s.portDown b = { s with regs := (s.portDown b).regs, hst := (s.portDown b).hst, out := (s.portDown b).out } := by
  cases b <;> rfl

theorem regsOk_portDown (hr : s.regsOk) (b : Bool) : (s.portDown b).regsOk := regsOk_putLink hr b false

theorem linkUp_portDown (s : State) (b : Bool) : linkUp (s.portDown b) b = false := linkUp_putLink s b false

theorem linkUp_portDown_other (s : State) (b : Bool) : linkUp (s.portDown b) (!b) = linkUp s (!b) := linkUp_putLink_other s b false

theorem fget_portDown (hr : s.regsOk) (b : Bool) :
    fget (s.portDown b) (if b then Reg.INT_PORT_STATUS.LINK_B else Reg.INT_PORT_STATUS.LINK_A) = 0 := fget_putLink hr b false

theorem portDown_bulk (s : State) (b : Bool) : (s.portDown b).hst.bulkToPf1 = s.hst.bulkToPf1 := putLink_bulk s b false

theorem portDown_lostAt (s : State) (b : Bool) : (s.portDown b).hst.lostAt = s.hst.lostAt := putLink_lostAt s b false

theorem mem_portDown_master (hmode : standbyMode s = false) : fn ∈ (s.portDown b).hst.master ↔ fn ∈ s.hst.master ∧ (b == (fn == .pf2)) = false := by
  rw [State.portDown, mem_dropConfig_master, putLink_master, portFns_joined hmode]

section
variable (hpow : unpowered s = false) (hup : linkUp s b = true)
include hpow hup

theorem exec_portLinkLoss_standby (hmode : standbyMode s = true) : exec (.portLinkLoss b) s =
    .next (failSwaps (if b = (fget s Reg.INT_PORT_STATUS.ACTIVE == 1)
      then { haltStreams (s.portDown b) with hst := { (haltStreams (s.portDown b)).hst with lostAt := some (haltStreams (s.portDown b)).clk.tick } }
      else s.portDown b)) := by
  show execPortLinkLoss b s = _
  simp only [execPortLinkLoss, hpow, hup, hmode, portFns_standby hmode, Bool.or_false, Bool.not_true, Bool.false_eq_true, if_false, if_true, beq_iff_eq]
  generalize haltStreams = halt
  split <;> rfl

theorem exec_portLinkLoss_joined (hmode : standbyMode s = false) : exec (.portLinkLoss b) s =
    .next (failSwaps (if b then routeBulk (s.portDown true) true else cancelAccessions (haltStreams (s.portDown false)))) := by
  show execPortLinkLoss b s = _
  simp only [execPortLinkLoss, hpow, hup, hmode, portFns_joined hmode, Bool.or_false, Bool.not_true, Bool.false_eq_true, if_false]
  generalize haltStreams = halt, cancelAccessions = cancel, failSwaps = fail
  cases b <;> rfl

end

/-- Of an accession's end, what of the module stays. -/
theorem AccessionsOnly.kept (h : AccessionsOnly s t) :
    t.kv = s.kv ∧ t.img = s.img ∧ t.run = s.run ∧ t.clk = s.clk ∧ t.hst = s.hst ∧ t.itk.streams = s.itk.streams := by
  rw [h.frame]
  exact ⟨rfl, rfl, rfl, rfl, rfl, rfl⟩

theorem AccessionsOnly.fget (h : AccessionsOnly s t) {f : FieldRef} (hf : f.addr ∉ annalsRegs) : fget t f = Machine.fget s f :=
  congrArg (fieldOf · f.lo f.w) (h.regs f.addr List.not_mem_nil hf)

/-- The commands of any one carrel stay. -/
theorem AccessionsOnly.carrelCmds (h : AccessionsOnly s t) (hc : c < 1024) :
    t.itk.cmds.filter (fun k => k.stream == c) = s.itk.cmds.filter (fun k => k.stream == c) := by
  have hcarrel (ks : List Cmd) : (ks.filter (·.stream != 1024)).filter (fun k => k.stream == c) = ks.filter (fun k => k.stream == c) := by
    rw [List.filter_filter]
    refine List.filter_congr fun k _ => ?_
    by_cases hk : k.stream = c
    · simp [hk, show c ≠ 1024 by omega]
    · simp [hk]
  rw [← hcarrel, h.cmds, hcarrel]

theorem ring_not_annals (hc : c ≤ 1024) : (Reg.CAR_RING_CTRL.ENABLE c).addr ∉ annalsRegs := by
  simp only [annalsRegs, List.mem_cons, List.not_mem_nil, or_false, not_or, Reg.CAR_RING_CTRL.ENABLE, carBase, Reg.ANN_LAST_SEQ.SEQ, Reg.ANN_DROPPED.COUNT,
    Reg.ANN_CTRL.ALERT]
  omega

/-- Port A's loss in joined mode halts the streams and ends the accessions; sessions, images and passes stay. -/
theorem portLinkLoss_joinedA (hr : s.regsOk) (hpow : unpowered s = false) (hup : linkUp s false = true) (hmode : standbyMode s = false) (hstay : noneLeaves s) :
    ∃ t, exec (.portLinkLoss false) s = .next t ∧ linkUp t false = false ∧
      fget t Reg.INT_PORT_STATUS.LINK_A = 0 ∧ t.hst.linkB = s.hst.linkB ∧ (∀ f ∈ t.hst.master, f = .pf2 ∧ f ∈ s.hst.master) ∧
      (∀ c, c ≤ 1024 → (streamOf t c).halted = true ∧ fget t (Reg.CAR_RING_CTRL.ENABLE c) = 0) ∧
      (∀ c < 1024, t.itk.cmds.filter (fun k => k.stream == c) = s.itk.cmds.filter (fun k => k.stream == c)) ∧
      t.kv = s.kv ∧ t.img = s.img ∧ t.run = s.run ∧ t.clk = s.clk := by
  have hexec := exec_portLinkLoss_joined hpow hup hmode
  have hdown := regsOk_portDown hr false
  have hok := haltStreams_regsOk hdown
  have hframe := haltStreams_frame (s.portDown false)
  have hhalted (c : Nat) (hc : c ≤ 1024) : (streamOf (haltStreams (s.portDown false)) c).halted = true := haltStreams_halted hc
  have hring (c : Nat) (hc : c ≤ 1024) := haltStreams_ring hdown hc
  have hlink : fget (haltStreams (s.portDown false)) Reg.INT_PORT_STATUS.LINK_A = 0 :=
    (congrArg (fieldOf · 2 1) (rget_haltStreams hdown (a := 0x808) (by decide))).trans (fget_portDown hr false)
  generalize haltStreams (s.portDown false) = u at hexec hok hframe hhalted hring hlink
  rw [portDown_frame] at hframe
  have hended := cancelAccessions_only hok
  obtain ⟨hkv, himg, hrun, hclk, hhst, hstreams⟩ := hended.kept
  have hnone := failSwaps_of_noneLeaves (noneLeaves_of_kv hstay (hkv.trans (by rw [hframe])))
  have hports : (cancelAccessions u).hst = (s.portDown false).hst := hhst.trans (by rw [hframe])
  refine ⟨_, hexec.trans (congrArg _ hnone), ?_, ?_, ?_, fun f hf => ?_, fun c hc => ⟨?_, ?_⟩, fun c hc => ?_, ?_, ?_, ?_, ?_⟩
  · exact (congrArg HostPorts.linkA hports).trans (linkUp_portDown s false)
  · rw [hended.fget (by decide), hlink]
  · exact (congrArg HostPorts.linkB hports).trans (linkUp_portDown_other s false)
  · rw [hports] at hf
    obtain ⟨hmaster, hpf2⟩ := (mem_portDown_master hmode).mp hf
    exact ⟨by simpa using hpf2, hmaster⟩
  · rw [streamOf, hstreams]
    exact hhalted c hc
  · rw [hended.fget (ring_not_annals hc), hring c hc]
  · rw [hended.carrelCmds hc, hframe]
  · rw [hkv, hframe]
  · rw [himg, hframe]
  · rw [hrun, hframe]
  · rw [hclk, hframe]

/-- Port B's loss in joined mode moves BULK to PF1. -/
theorem portLinkLoss_joinedB (hr : s.regsOk) (hpow : unpowered s = false) (hup : linkUp s true = true) (hmode : standbyMode s = false) (hstay : noneLeaves s) :
    ∃ t, exec (.portLinkLoss true) s = .next t ∧ linkUp t true = false ∧
      fget t Reg.INT_PORT_STATUS.LINK_B = 0 ∧ t.hst.linkA = s.hst.linkA ∧ .pf2 ∉ t.hst.master ∧ t.hst.bulkToPf1 = true ∧
      t = { s with regs := t.regs, hst := t.hst, out := t.out, loans := if s.hst.bulkToPf1 then s.loans else (rerouteLoans s).loans } ∧
      (s.hst.bulkToPf1 = false → fget t Reg.INT_BULK_STATUS.ROUTE = 1 ∧
        fget t Reg.INT_BULK_STATUS.FALLBACKS = min (fget s Reg.INT_BULK_STATUS.FALLBACKS + 1) (2 ^ 15 - 1)) := by
  have hdown := regsOk_portDown hr true
  have hframe := routeBulk_frame (s.portDown true) true
  have hhst : (routeBulk (s.portDown true) true).hst = { (s.portDown true).hst with bulkToPf1 := true } := congrArg State.hst hframe
  have hnone := failSwaps_of_noneLeaves (noneLeaves_of_kv hstay (show (routeBulk (s.portDown true) true).kv = s.kv by rw [hframe]; rfl))
  refine ⟨_, (exec_portLinkLoss_joined hpow hup hmode).trans (congrArg _ hnone), ?_, ?_, ?_, ?_, ?_, ?_, fun hroute => ?_⟩
  · exact (congrArg HostPorts.linkB hhst).trans (linkUp_portDown s true)
  · rw [fget, rget_routeBulk hdown true (by decide)]
    exact fget_portDown hr true
  · exact (congrArg HostPorts.linkA hhst).trans (linkUp_portDown_other s true)
  · rw [hhst]
    exact fun hf => absurd ((mem_portDown_master (fn := .pf2) hmode).mp hf).2 (by decide)
  · rw [hhst]
  · rw [portDown_bulk, Bool.not_true, Bool.or_false] at hframe
    rw [hframe]
    rfl
  · obtain ⟨hshown, hcounted⟩ := routeBulk_fallback hdown ((portDown_bulk s true).trans hroute)
    refine ⟨hshown, hcounted.trans ?_⟩
    have hkept : fget (s.portDown true) Reg.INT_BULK_STATUS.FALLBACKS = fget s Reg.INT_BULK_STATUS.FALLBACKS :=
      congrArg (fieldOf · 1 15) (rget_fset_ne (s := { s with hst := _ }) hr (f := Reg.INT_PORT_STATUS.LINK_B) 0 (by decide))
    rw [hkept]

/-- In standby mode the active port's loss halts the streams and notes the time. -/
theorem portLinkLoss_standby (hpow : unpowered s = false) (hup : linkUp s b = true) (hmode : standbyMode s = true) (hstay : noneLeaves s) :
    ∃ t, exec (.portLinkLoss b) s = .next t ∧ linkUp t b = false ∧
      t = { s with regs := t.regs, hst := t.hst, itk := { s.itk with streams := t.itk.streams }, out := t.out } ∧
      (if b = (fget s Reg.INT_PORT_STATUS.ACTIVE == 1) then t.hst.lostAt = some s.clk.tick ∧ ∀ c, c ≤ 1024 → (streamOf t c).halted = true
        else t.hst.lostAt = s.hst.lostAt ∧ t.itk = s.itk) := by
  have hexec := exec_portLinkLoss_standby hpow hup hmode
  by_cases hactive : b = (fget s Reg.INT_PORT_STATUS.ACTIVE == 1)
  · rw [if_pos hactive] at hexec
    have hframe : haltStreams (s.portDown b) = _ := haltStreams_frame _
    have hhalted (c : Nat) (hc : c ≤ 1024) : (streamOf (haltStreams (s.portDown b)) c).halted = true := haltStreams_halted hc
    generalize haltStreams (s.portDown b) = u at hexec hframe hhalted
    rw [portDown_frame] at hframe
    have hlink : linkUp u b = false := by rw [hframe]; exact linkUp_portDown s b
    have hclk : u.clk.tick = s.clk.tick := by rw [hframe]
    rw [failSwaps_of_noneLeaves (noneLeaves_of_kv hstay (by rw [hframe]))] at hexec
    exact ⟨_, hexec, hlink, by rw [hframe], by rw [if_pos hactive]; exact ⟨congrArg some hclk, hhalted⟩⟩
  · rw [if_neg hactive] at hexec
    have hframe := portDown_frame s b
    rw [failSwaps_of_noneLeaves (noneLeaves_of_kv hstay (show (s.portDown b).kv = s.kv by rw [hframe]))] at hexec
    exact ⟨_, hexec, linkUp_portDown s b, by rw [hframe], by rw [if_neg hactive]; exact ⟨portDown_lostAt s b, by rw [hframe]⟩⟩

/-! ### A port links -/

/-- The module with a port's link up and locked, and with the active port's loss forgotten. -/
def State.portUp (s : State) (b : Bool) : State :=
  let u := putBit (putLink s b true) Reg.CLK_STATUS.PCIE_LOCK (bitOf b) true
  if portFns s b .pf1 then { u with hst := { u.hst with lostAt := none } } else u

theorem portUp_frame (s : State) (b : Bool) : s.portUp b = { s with regs := (s.portUp b).regs, hst := (s.portUp b).hst } := by
  unfold State.portUp
  dsimp only
  split <;> cases b <;> rfl

theorem portUp_master (s : State) (b : Bool) : (s.portUp b).hst.master = s.hst.master := by
  unfold State.portUp
  dsimp only
  split <;> exact putLink_master s b true

theorem linkUp_portUp (s : State) (b : Bool) : linkUp (s.portUp b) b = true ∧ linkUp (s.portUp b) (!b) = linkUp s (!b) := by
  unfold State.portUp
  dsimp only
  split <;> exact ⟨linkUp_putLink s b true, linkUp_putLink_other s b true⟩

theorem regs_portUp (s : State) (b : Bool) : (s.portUp b).regs = (putBit (putLink s b true) Reg.CLK_STATUS.PCIE_LOCK (bitOf b) true).regs := by
  unfold State.portUp
  dsimp only
  split <;> rfl

theorem regsOk_portUp (hr : s.regsOk) (b : Bool) : (s.portUp b).regsOk := by
  rw [State.regsOk, regs_portUp]
  exact regsOk_fset (regsOk_putLink hr b true) ..

theorem fget_portUp (hr : s.regsOk) (b : Bool) :
    fget (s.portUp b) (if b then Reg.INT_PORT_STATUS.LINK_B else Reg.INT_PORT_STATUS.LINK_A) = 1 := by
  rw [fget_of_regs (regs_portUp s b)]
  refine Eq.trans ?_ (fget_putLink hr b true)
  exact fget_fset_other (regsOk_putLink hr b true) Reg.CLK_STATUS.PCIE_LOCK _ _ (by cases b <;> decide) (.inl (by cases b <;> decide))

theorem portUp_lostAt (hmode : standbyMode s = true) (hactive : b = (fget s Reg.INT_PORT_STATUS.ACTIVE == 1)) : (s.portUp b).hst.lostAt = none := by
  have howns : portFns s b .pf1 = true := by rw [portFns_standby hmode, hactive, beq_self_eq_true]
  rw [State.portUp, if_pos howns]

theorem exec_portLinkUp (hpow : unpowered s = false) (hdown : linkUp s b = false) : exec (.portLinkUp b) s =
    .next (if b && !standbyMode s && s.hst.master.elem .pf2 then routeBulk (s.portUp b) false else s.portUp b) := by
  show execPortLinkUp b s = _
  rw [← portUp_master s b]
  simp only [execPortLinkUp, hpow, hdown, Bool.or_false, Bool.false_eq_true, if_false]
  rfl

/-- A port that links shows it. -/
theorem portLinkUp_shows (hr : s.regsOk) (hpow : unpowered s = false) (hdown : linkUp s b = false) :
    ∃ t, exec (.portLinkUp b) s = .next t ∧ linkUp t b = true ∧ linkUp t (!b) = linkUp s (!b) ∧
      t = { s with regs := t.regs, hst := t.hst } ∧ t.hst.master = s.hst.master ∧
      fget t (if b then Reg.INT_PORT_STATUS.LINK_B else Reg.INT_PORT_STATUS.LINK_A) = 1 ∧
      (standbyMode s = true → b = (fget s Reg.INT_PORT_STATUS.ACTIVE == 1) → t.hst.lostAt = none) := by
  obtain ⟨hlink, hother⟩ := linkUp_portUp s b
  have hframe := portUp_frame s b
  refine ⟨_, exec_portLinkUp hpow hdown, ?_⟩
  split
  · have hrouted := routeBulk_frame (s.portUp b) false
    have hhst : (routeBulk (s.portUp b) false).hst = { (s.portUp b).hst with bulkToPf1 := false } := congrArg State.hst hrouted
    have hlinks (p : Bool) : linkUp (routeBulk (s.portUp b) false) p = linkUp (s.portUp b) p := by rw [linkUp, hhst]; rfl
    refine ⟨(hlinks b).trans hlink, (hlinks !b).trans hother, ?_, ?_, ?_, fun hmode hactive => ?_⟩
    · rw [Bool.not_false, Bool.or_true, if_pos rfl] at hrouted
      rw [hrouted, hframe]
    · rw [hhst]
      exact portUp_master s b
    · rw [fget, rget_routeBulk (regsOk_portUp hr b) false (by cases b <;> decide)]
      exact fget_portUp hr b
    · rw [hhst]
      exact portUp_lostAt hmode hactive
  · exact ⟨hlink, hother, hframe, portUp_master s b, fget_portUp hr b, portUp_lostAt⟩

/-! ### The standby port takes over -/

theorem standbyTakeover_switches (hr : s.regsOk) (hpow : unpowered s = false) (hmode : standbyMode s = true) (hlost : s.hst.lostAt ≠ none) :
    ∃ t, exec .standbyTakeover s = .next t ∧
      t = { s with regs := t.regs, hst := { s.hst with lostAt := none } } ∧
      fget t Reg.INT_PORT_STATUS.ACTIVE = 1 - fget s Reg.INT_PORT_STATUS.ACTIVE ∧
      fget t Reg.INT_PORT_STATUS.TAKEOVERS = min (fget s Reg.INT_PORT_STATUS.TAKEOVERS + 1) (2 ^ 16 - 1) ∧
      (∀ a, a ≠ Reg.INT_PORT_STATUS.ACTIVE.addr → rget t a = rget s a) := by
  obtain ⟨u, hu⟩ : ∃ u, u = fset { s with hst := { s.hst with lostAt := none } } Reg.INT_PORT_STATUS.ACTIVE (1 - fget s Reg.INT_PORT_STATUS.ACTIVE) := ⟨_, rfl⟩
  have hok : u.regsOk := hu ▸ regsOk_fset (s := { s with hst := _ }) hr ..
  have hexec : exec .standbyTakeover s = .next (fbump u Reg.INT_PORT_STATUS.TAKEOVERS 1) := by
    show execStandbyTakeover s = _
    simp [execStandbyTakeover, hpow, hmode, hlost, hu]
    rfl
  have hactive : fget u Reg.INT_PORT_STATUS.ACTIVE = 1 - fget s Reg.INT_PORT_STATUS.ACTIVE := by
    rw [hu]
    refine (fget_fset_same (s := { s with hst := _ }) hr _ _ (by decide)).trans (Nat.mod_eq_of_lt ?_)
    exact (show 1 - fget s Reg.INT_PORT_STATUS.ACTIVE < 2 by omega)
  have hkept : fget u Reg.INT_PORT_STATUS.TAKEOVERS = fget s Reg.INT_PORT_STATUS.TAKEOVERS := by
    rw [hu]
    exact fget_fset_other (s := { s with hst := _ }) hr _ _ _ (by decide) (by decide)
  refine ⟨_, hexec, ?_, ?_, ?_, fun a ha => ?_⟩
  · rw [hu]
    rfl
  · rw [fget_fbump_other hok _ _ _ (by decide) (by decide), hactive]
  · rw [← hkept]
    exact fbump_counted hok Reg.INT_PORT_STATUS.TAKEOVERS 1 (by decide)
  · refine (rget_fbump_ne hok (f := Reg.INT_PORT_STATUS.TAKEOVERS) 1 ha).trans ?_
    rw [hu]
    exact rget_fset_ne (s := { s with hst := _ }) hr _ ha

/-! ### Bus mastering -/

/-- The module with a function's bus mastering as the host has put it. -/
def State.mastering (s : State) (fn : Fn) (on : Bool) : State :=
  { s with hst := { s.hst with master := if on then (s.hst.master.filter (· != fn)) ++ [fn] else s.hst.master.filter (· != fn) } }

theorem mem_mastering (s : State) (fn : Fn) (on : Bool) (f : Fn) :
    f ∈ (s.mastering fn on).hst.master ↔ if f = fn then on = true else f ∈ s.hst.master := by
  cases on <;> by_cases hf : f = fn <;> simp [State.mastering, hf]

theorem exec_busMasteringChange_on (hpow : unpowered s = false) (fn : Fn) : exec (.busMasteringChange fn true) s =
    .next (if fn == .pf2 && linkUp s true && !standbyMode s then routeBulk (s.mastering fn true) false else s.mastering fn true) := by
  show execBusMasteringChange fn true s = _
  simp only [execBusMasteringChange, hpow, Bool.true_and, Bool.false_eq_true, if_false, if_true]
  rfl

theorem exec_busMasteringChange_off (hpow : unpowered s = false) (fn : Fn) :
    exec (.busMasteringChange fn false) s = .next (failSwaps (s.mastering fn false)) := by
  show execBusMasteringChange fn false s = _
  simp only [execBusMasteringChange, hpow, Bool.false_and, Bool.false_eq_true, if_false]
  rfl

theorem busMasteringChange_effect (hpow : unpowered s = false) (fn : Fn) (on : Bool) :
    ∃ t, exec (.busMasteringChange fn on) s = .next t ∧ (fn ∈ t.hst.master ↔ on = true) ∧
      (∀ f, f ≠ fn → (f ∈ t.hst.master ↔ f ∈ s.hst.master)) ∧
      (on = true ∨ noneLeaves s → t = { s with regs := t.regs, hst := t.hst }) ∧
      (∀ x h, on = false → findSession s h = some x → x.res = .swappingOut → swapFn s (handleCarrel h) = fn →
        (findSession t h).map (·.res) = some .resident) ∧
      (on = true → fn = .pf2 → linkUp s true = true → standbyMode s = false → t.hst.bulkToPf1 = false) := by
  have hsame : fn ∈ (s.mastering fn on).hst.master ↔ on = true := by rw [mem_mastering, if_pos rfl]
  have hothers (f : Fn) (hf : f ≠ fn) : f ∈ (s.mastering fn on).hst.master ↔ f ∈ s.hst.master := by rw [mem_mastering, if_neg hf]
  cases on with
  | false =>
    have hhst := failSwaps_hst (s.mastering fn false)
    refine ⟨_, exec_busMasteringChange_off hpow fn, by rw [hhst]; exact hsame, fun f hf => by rw [hhst]; exact hothers f hf, fun hstay => ?_,
      fun x h _ hx hres hfn => ?_, nofun⟩
    · rw [failSwaps_of_noneLeaves (s := s.mastering fn false) (noneLeaves_of_kv (hstay.resolve_left nofun) rfl)]
      rfl
    · have hdown : fnUp (s.mastering fn false) (swapFn (s.mastering fn false) (handleCarrel h)) = false := by
        have hswap : swapFn (s.mastering fn false) (handleCarrel h) = fn := hfn
        have hnot : fn ∉ (s.mastering fn false).hst.master := fun hmem => Bool.false_ne_true (hsame.mp hmem)
        rw [hswap, fnUp, List.elem_eq_mem, decide_eq_false hnot, Bool.and_false]
      exact failSwaps_resident (s := s.mastering fn false) hx hres hdown
  | true =>
    refine ⟨_, exec_busMasteringChange_on hpow fn, ?_⟩
    split
    · have hrouted := routeBulk_frame (s.mastering fn true) false
      have hhst : (routeBulk (s.mastering fn true) false).hst = { (s.mastering fn true).hst with bulkToPf1 := false } := congrArg State.hst hrouted
      refine ⟨by rw [hhst]; exact hsame, fun f hf => by rw [hhst]; exact hothers f hf, fun _ => ?_, fun _ _ hon => Bool.noConfusion hon, fun _ _ _ _ => by rw [hhst]⟩
      rw [Bool.not_false, Bool.or_true, if_pos rfl] at hrouted
      rw [hrouted]
      rfl
    · next hroute =>
      refine ⟨hsame, hothers, fun _ => rfl, fun _ _ hon => Bool.noConfusion hon, fun _ hfn hlink hmode => absurd ?_ hroute⟩
      simp [hfn, hlink, hmode]

end Sys2Proof.Machine
end
end

section
/-!
PROOFS. Function-level resets (R266, R287, R405), and the statement on ports and functions.
-/
section
open Sys2Proof Sys2Proof.Machine
namespace Sys2Proof.Machine

variable {s t u : State} {c r : Nat}

/-! ### Loan entries that find room (R222) -/

/-- Between `s` and `t` at most loan entries have changed, each keeping its carrel. -/
def LoansOnly (s t : State) : Prop := t = { s with loans := t.loans } ∧ t.loans.map (·.carrel) = s.loans.map (·.carrel)

theorem LoansOnly.refl (s : State) : LoansOnly s s := ⟨rfl, rfl⟩

theorem LoansOnly.trans (h : LoansOnly s t) (h' : LoansOnly t u) : LoansOnly s u :=
  ⟨h'.1.trans (by rw [h.1]), h'.2.trans h.2⟩

theorem map_modFirst_carrel (p : Loan → Bool) (f : Loan → Loan) (hf : ∀ l, (f l).carrel = l.carrel) (ls : List Loan) :
    (modFirst p f ls).map (·.carrel) = ls.map (·.carrel) := by
  induction ls with
  | nil => rfl
  | cons l ls ih =>
    rw [modFirst]
    split
    · simp [hf]
    · simp [ih]

theorem modLoan_loansOnly (s : State) (c a : Nat) {f : Loan → Loan} (hf : ∀ l, (f l).carrel = l.carrel) : LoansOnly s (modLoan s c a f) :=
  ⟨rfl, map_modFirst_carrel _ f hf _⟩

theorem makeLoanRoom_loansOnly {need fuel : Nat} (h : makeLoanRoom c need fuel s = some t) : LoansOnly s t := by
  induction fuel generalizing s with
  | zero => cases h
  | succ fuel ih =>
    simp only [makeLoanRoom] at h
    split at h
    · cases h; exact .refl _
    · split at h
      · cases h
      · exact (modLoan_loansOnly s c _ (f := dropLoan) fun _ => rfl).trans (ih h)

theorem holdLoan_loansOnly (s : State) (region c a : Nat) : LoansOnly s (holdLoan s region c a) := by
  -- The free pages are named, not computed: the kernel would evaluate the whole page table.
  obtain ⟨home, hhome⟩ : ∃ home, homePages = home := ⟨_, rfl⟩
  rw [holdLoan, hhome]
  split
  · exact .refl s
  · split
    · exact .refl s
    · split
      · exact .refl s
      · next hroom =>
        split
        · exact .refl s
        · split
          · exact .refl s
          · exact (makeLoanRoom_loansOnly hroom).trans (modLoan_loansOnly _ c a fun _ => rfl)

theorem issueOn_loansOnly (s : State) (fn : Fn) : LoansOnly s (issueOn fn s) := by
  unfold issueOn
  split
  · exact .refl s
  · split
    · exact .refl s
    · exact modLoan_loansOnly s _ _ fun _ => rfl

theorem LoansOnly.foldl {α : Type} {f : State → α → State} (hf : ∀ u x, LoansOnly u (f u x)) (l : List α) (s : State) : LoansOnly s (l.foldl f s) := by
  induction l generalizing s with
  | nil => exact .refl s
  | cons x xs ih => exact (hf s x).trans (ih _)

theorem retryLoans_loansOnly (s : State) : LoansOnly s (retryLoans s) := by
  refine (LoansOnly.foldl (fun u l => ?_) _ s).trans ((issueOn_loansOnly _ .pf1).trans (issueOn_loansOnly _ .pf2))
  split
  · exact holdLoan_loansOnly ..
  · exact .refl u

/-! ### A carrel's sessions, scribes and stream -/

theorem foldl_closeSession_frame (xs : List Session) (s : State) :
    xs.foldl (fun s x => closeSession s x.handle) s = { s with kv := (xs.foldl (fun s x => closeSession s x.handle) s).kv } := by
  induction xs generalizing s with
  | nil => rfl
  | cons x xs ih => rw [List.foldl_cons, ih, closeSession_frame]

theorem mem_foldl_closeSession {y : Session} (xs : List Session) (s : State) :
    y ∈ (xs.foldl (fun s x => closeSession s x.handle) s).kv.sessions ↔ y ∈ s.kv.sessions ∧ ∀ x ∈ xs, y.handle ≠ x.handle := by
  induction xs generalizing s with
  | nil => simp
  | cons x xs ih =>
    rw [List.foldl_cons, ih, closeSession_sessions, List.mem_filter, List.forall_mem_cons, and_assoc]
    simp

/-- The sessions that are left are those of other carrels. -/
theorem mem_carrelClosed {y : Session} : y ∈ ((carrelSessions s c).foldl (fun s x => closeSession s x.handle) s).kv.sessions ↔
    y ∈ s.kv.sessions ∧ handleCarrel y.handle ≠ c := by
  rw [mem_foldl_closeSession]
  refine and_congr_right fun hy => ⟨fun h hc => h y ?_ rfl, fun h x hx he => h ?_⟩
  · simp [carrelSessions, hy, hc]
  · have hx := (List.mem_filter.mp hx).2
    rw [he]
    simpa using hx

theorem foldl_endRun_frame (rs : List Run) (s : State) :
    rs.foldl (fun s r => endRun s c r.seq) s = { s with scr := (rs.foldl (fun s r => endRun s c r.seq) s).scr } := by
  induction rs generalizing s with
  | nil => rfl
  | cons r rs ih => rw [List.foldl_cons, ih, endRun_frame]

theorem clearScribes_frame (s : State) (c : Nat) : clearScribes s c = { s with scr := (clearScribes s c).scr } := by
  unfold clearScribes
  dsimp only
  rw [foldl_endRun_frame]

theorem freshenStream_frame (s : State) (c : Nat) : freshenStream s c = { s with
    regs := (freshenStream s c).regs
    itk := { s.itk with streams := (freshenStream s c).itk.streams, cmds := s.itk.cmds.filter fun k => k.stream != c } } := rfl

theorem streamOf_freshenStream (hok : swf (fun _ => freshStream) s.itk.streams = true) (c : Nat) : streamOf (freshenStream s c) c = freshStream :=
  sget_sset_same hok

/-- The registers of the function are at reset but for CAR.PASS. -/
theorem rget_freshenStream (hr : s.regsOk) {a : Nat} (hlo : carBase c ≤ a) (hhi : a < carBase c + 0x118) :
    rget (freshenStream s c) a = if a = carBase c + 0x28 then rget s a else regReset a := by
  have hkept : (freshenStream s c).regs = sdrop (fun a => decide (carBase c ≤ a) && decide (a < carBase c + 0x118) && a != carBase c + 0x28) s.regs :=
    List.filter_congr fun e _ => by simp [bne]
  rw [rget, hkept, sget_sdrop _ hr, decide_eq_true hlo, decide_eq_true hhi, Bool.and_true, Bool.true_and]
  by_cases ha : a = carBase c + 0x28
  · simp [ha, rget]
  · simp [ha]

/-! ### The configuration of a function -/

theorem mem_dropConfig_fn {fn f : Fn} : f ∈ (dropConfig s (· == fn)).hst.master ↔ f ∈ s.hst.master ∧ f ≠ fn := by
  rw [mem_dropConfig_master, beq_eq_false_iff_ne]

theorem msixPend_dropConfig (s : State) (fn : Fn) (v : Nat) : (fn, v) ∉ (dropConfig s (· == fn)).out.msixPend := by simp [dropConfig]

theorem msixWord_dropConfig (hm : swf msixReset s.hst.msixTab = true) (hc : c < 1024) {i : Nat} (hi : i < 16) :
    msixWord (dropConfig s (· == .vf c)) (16 * c + i) = msixReset i := by
  have hdiv : (16 * c + i) / 16 = c := by omega
  have hkey : keyFn (16 * c + i) = .vf c := by rw [keyFn, hdiv, if_pos hc]
  have hodd : (16 * c + i) % 2 = i % 2 := by omega
  refine (sget_sdrop (fun k => keyFn k == .vf c) hm (16 * c + i)).trans ?_
  rw [hkey, if_pos (beq_self_eq_true _), msixReset, msixReset, hodd]

/-! ### The resets -/

/-- The module without a carrel's sessions, loan entries, runs, tiles and run areas. -/
def State.carrelCleared (s : State) (c : Nat) : State :=
  let u := (carrelSessions s c).foldl (fun s x => closeSession s x.handle) s
  clearScribes { u with loans := u.loans.filter fun l => l.carrel != c } c

theorem carrelCleared_frame (s : State) (c : Nat) : s.carrelCleared c =
    { s with kv := (s.carrelCleared c).kv, scr := (s.carrelCleared c).scr, loans := s.loans.filter fun l => l.carrel != c } := by
  unfold State.carrelCleared
  dsimp only
  rw [clearScribes_frame, foldl_closeSession_frame]

theorem mem_carrelCleared {y : Session} : y ∈ (s.carrelCleared c).kv.sessions ↔ y ∈ s.kv.sessions ∧ handleCarrel y.handle ≠ c := by
  rw [← mem_carrelClosed, State.carrelCleared, clearScribes_frame]

theorem exec_functionLevelResetVf (hpow : unpowered s = false) (c : Nat) : exec (.functionLevelResetVf c) s =
    .next (retryLoans (dropConfig (freshenStream (s.carrelCleared c) c) (· == .vf c))) := by
  show execFunctionLevelResetVf c s = _
  simp only [execFunctionLevelResetVf, hpow, Bool.false_eq_true, if_false]
  rfl

theorem functionLevelResetVf_effect (hr : s.regsOk) (hpow : unpowered s = false) (hstreams : swf (fun _ => freshStream) s.itk.streams = true)
    (hmsix : swf msixReset s.hst.msixTab = true) (hc : c < 1024) :
    ∃ t, exec (.functionLevelResetVf c) s = .next t ∧ (∀ x ∈ t.kv.sessions, handleCarrel x.handle ≠ c) ∧
      (∀ x ∈ s.kv.sessions, handleCarrel x.handle ≠ c → x ∈ t.kv.sessions) ∧
      (∀ l ∈ t.loans, l.carrel ≠ c) ∧ t.itk.cmds = s.itk.cmds.filter (fun k => k.stream != c) ∧ streamOf t c = freshStream ∧
      (∀ a, carBase c ≤ a → a < carBase c + 0x118 → rget t a = if a = carBase c + 0x28 then rget s a else regReset a) ∧
      t.itk.carrels = s.itk.carrels ∧ (∀ f, f ∈ t.hst.master ↔ f ∈ s.hst.master ∧ f ≠ .vf c) ∧
      (∀ i < 16, msixWord t (16 * c + i) = msixReset i) ∧ (∀ v, (Fn.vf c, v) ∉ t.out.msixPend) ∧ t.img = s.img ∧ t.clk = s.clk := by
  have hexec := exec_functionLevelResetVf hpow c
  have hcleared := fun y => mem_carrelCleared (s := s) (c := c) (y := y)
  have hframe := carrelCleared_frame s c
  generalize s.carrelCleared c = v at hexec hcleared hframe
  have hregs : v.regs = s.regs := by rw [hframe]
  have hitk : v.itk = s.itk := by rw [hframe]
  have hhst : v.hst = s.hst := by rw [hframe]
  have hloans : v.loans = s.loans.filter fun l => l.carrel != c := by rw [hframe]
  have himg : v.img = s.img := by rw [hframe]
  have hclk : v.clk = s.clk := by rw [hframe]
  obtain ⟨hretry, hcarrels⟩ := retryLoans_loansOnly (dropConfig (freshenStream v c) (· == .vf c))
  generalize retryLoans (dropConfig (freshenStream v c) (· == .vf c)) = t at hexec hretry hcarrels
  have htkv : t.kv = v.kv := by rw [hretry]; rfl
  have htitk : t.itk = (freshenStream v c).itk := by rw [hretry]; rfl
  have hthst : t.hst = (dropConfig (freshenStream v c) (· == .vf c)).hst := by rw [hretry]
  have htout : t.out = (dropConfig (freshenStream v c) (· == .vf c)).out := by rw [hretry]
  have htregs : t.regs = (freshenStream v c).regs := by rw [hretry]; rfl
  refine ⟨t, hexec, fun x hx => ?_, fun x hx hother => ?_, fun l hl => ?_, ?_, ?_, fun a hlo hhi => ?_, ?_, fun f => ?_, fun i hi => ?_, fun w => ?_, ?_, ?_⟩
  · rw [htkv] at hx
    exact ((hcleared x).mp hx).2
  · rw [htkv]
    exact (hcleared x).mpr ⟨hx, hother⟩
  · have hl' : l.carrel ∈ v.loans.map (·.carrel) := hcarrels ▸ List.mem_map_of_mem (f := (·.carrel)) hl
    obtain ⟨l0, hl0, hcarrel⟩ := List.mem_map.mp hl'
    rw [hloans] at hl0
    rw [← hcarrel]
    simpa using (List.mem_filter.mp hl0).2
  · rw [htitk, freshenStream_frame, hitk]
  · rw [streamOf, htitk]
    exact streamOf_freshenStream (by rw [hitk]; exact hstreams) c
  · rw [rget_of_regs htregs, rget_freshenStream (by rw [State.regsOk, hregs]; exact hr) hlo hhi, rget_of_regs hregs]
  · rw [htitk, freshenStream_frame, hitk]
  · rw [hthst, mem_dropConfig_fn, freshenStream_frame, hhst]
  · rw [msixWord, hthst]
    exact msixWord_dropConfig (s := freshenStream v c) (by rw [freshenStream_frame, hhst]; exact hmsix) hc hi
  · rw [htout]
    exact msixPend_dropConfig _ (.vf c) w
  · rw [hretry]
    exact himg
  · rw [hretry]
    exact hclk

theorem functionLevelResetPf0_effect (hr : s.regsOk) (hpow : unpowered s = false) :
    ∃ t, exec .functionLevelResetPf0 s = .next t ∧
      t = { s with regs := t.regs, cur := { s.cur with mbx := { s.cur.mbx with blocks := [] } }, hst := t.hst, out := t.out } ∧
      fget t Reg.CUR_MBX_STATUS.EXPECTED_SEQ = 0 ∧ (∀ a, a ≠ Reg.CUR_MBX_STATUS.EXPECTED_SEQ.addr → rget t a = rget s a) ∧
      (∀ f, f ∈ t.hst.master ↔ f ∈ s.hst.master ∧ f ≠ .pf0) := by
  obtain ⟨u, hu⟩ : ∃ u, u = fset { s with cur := { s.cur with mbx := { s.cur.mbx with blocks := [] } } } Reg.CUR_MBX_STATUS.EXPECTED_SEQ 0 := ⟨_, rfl⟩
  have hexec : exec .functionLevelResetPf0 s = .next (dropConfig u (· == .pf0)) := by
    show execFunctionLevelResetPf0 s = _
    simp only [execFunctionLevelResetPf0, hpow, Bool.false_eq_true, if_false]
    rw [hu]
  refine ⟨_, hexec, ?_, ?_, fun a ha => ?_, fun f => ?_⟩
  · rw [hu]
    rfl
  · rw [hu]
    exact fget_fset_same (s := { s with cur := _ }) hr Reg.CUR_MBX_STATUS.EXPECTED_SEQ 0 (by decide)
  · rw [hu]
    exact rget_fset_ne (s := { s with cur := _ }) hr (f := Reg.CUR_MBX_STATUS.EXPECTED_SEQ) 0 ha
  · rw [mem_dropConfig_fn, hu]
    rfl

theorem functionLevelResetPf1_effect (hr : s.regsOk) (hpow : unpowered s = false) (hstreams : swf (fun _ => freshStream) s.itk.streams = true)
    (hstay : noneLeaves s) :
    ∃ t, exec .functionLevelResetPf1 s = .next t ∧ t.itk.cmds = s.itk.cmds.filter (fun k => k.stream != 1024) ∧
      streamOf t 1024 = freshStream ∧ t.kv = s.kv ∧ t.img = s.img ∧ (∀ f, f ∈ t.hst.master ↔ f ∈ s.hst.master ∧ f ≠ .pf1) ∧
      (swf (fun _ => freshAcc) s.acc = true → ∀ r < 16, (accOf t r).phase = .idle ∨ (accOf t r).phase = .flipPending ∨ (accOf t r).phase = .failed) := by
  have hended := cancelAccessions_only hr
  have hsettled := fun ha r (hd : r < 16) => (Acc.not_inProgress_iff _).mp (cancelAccessions_settled (s := s) (d := r) ha hr hd)
  have hexec : exec .functionLevelResetPf1 s = .next (failSwaps (dropConfig (freshenStream (cancelAccessions s) 1024) (· == .pf1))) := by
    show execFunctionLevelResetPf1 s = _
    rw [execFunctionLevelResetPf1, hpow, if_neg Bool.false_ne_true]
  generalize cancelAccessions s = u at hended hsettled hexec
  obtain ⟨hkv, himg, -, -, hhst, hsame⟩ := hended.kept
  rw [failSwaps_of_noneLeaves (noneLeaves_of_kv (t := dropConfig (freshenStream u 1024) (· == .pf1)) hstay hkv)] at hexec
  refine ⟨_, hexec, hended.cmds, ?_, hkv, himg, fun f => ?_, hsettled⟩
  · exact streamOf_freshenStream (s := u) (by rw [hsame]; exact hstreams) 1024
  · rw [mem_dropConfig_fn, freshenStream_frame, hhst]

theorem functionLevelResetPf2_effect (hpow : unpowered s = false) (hstay : noneLeaves s) :
    ∃ t, exec .functionLevelResetPf2 s = .next t ∧
      t = { s with regs := t.regs, hst := t.hst, out := t.out, loans := if s.hst.bulkToPf1 || standbyMode s then s.loans else (rerouteLoans s).loans } ∧
      (∀ f, f ∈ t.hst.master ↔ f ∈ s.hst.master ∧ f ≠ .pf2) ∧ (standbyMode s = false → t.hst.bulkToPf1 = true) ∧
      (standbyMode s = true → t.regs = s.regs) := by
  have hexec : exec .functionLevelResetPf2 s =
      .next (failSwaps (if standbyMode s then dropConfig s (· == .pf2) else routeBulk (dropConfig s (· == .pf2)) true)) := by
    show execFunctionLevelResetPf2 s = _
    rw [execFunctionLevelResetPf2, hpow, if_neg Bool.false_ne_true]
  cases hmode : standbyMode s with
  | true =>
    rw [hmode, if_pos rfl, failSwaps_of_noneLeaves (noneLeaves_of_kv (t := dropConfig s (· == .pf2)) hstay rfl)] at hexec
    refine ⟨_, hexec, ?_, fun f => mem_dropConfig_fn, nofun, fun _ => rfl⟩
    rw [Bool.or_true, if_pos rfl]
    rfl
  | false =>
    have hframe := routeBulk_frame (dropConfig s (· == .pf2)) true
    have hhst : (routeBulk (dropConfig s (· == .pf2)) true).hst = { (dropConfig s (· == .pf2)).hst with bulkToPf1 := true } := congrArg State.hst hframe
    have hkv : (routeBulk (dropConfig s (· == .pf2)) true).kv = s.kv := by rw [hframe]; rfl
    rw [hmode, if_neg Bool.false_ne_true, failSwaps_of_noneLeaves (noneLeaves_of_kv hstay hkv)] at hexec
    refine ⟨_, hexec, ?_, fun f => ?_, fun _ => by rw [hhst], nofun⟩
    · rw [Bool.not_true] at hframe
      rw [hframe]
      rfl
    · rw [hhst]
      exact mem_dropConfig_fn

/-- Settles O10: a port's loss (`portLinkLoss_joinedA`, `portLinkLoss_joinedB`, `portLinkLoss_standby`), its return, a takeover and bus mastering
(`busMasteringChange_effect`), then the reset of each function. -/
theorem hostPortsAndFunctionResets : Obligations.HostPortsAndFunctionResets := by
  unfold Obligations.HostPortsAndFunctionResets
  exact ⟨fun s hr hpow => ⟨portLinkLoss_joinedA hr hpow, portLinkLoss_joinedB hr hpow, fun b => portLinkLoss_standby hpow, fun b => portLinkUp_shows hr hpow,
      standbyTakeover_switches hr hpow, busMasteringChange_effect hpow⟩,
    fun s hr hpow hstreams hmsix => ⟨fun c => functionLevelResetVf_effect hr hpow hstreams hmsix, functionLevelResetPf0_effect hr hpow,
      functionLevelResetPf1_effect hr hpow hstreams, functionLevelResetPf2_effect hpow⟩⟩

end Sys2Proof.Machine
end
end

section
/-!
PROOFS. What a flit on the wire reads, what sending flits changes, and what an ACK releases (R293, R294).
-/
section
open Sys2Proof Sys2Proof.Machine
namespace Sys2Proof.Machine

variable {s t u : State} {n : Nat} {fs gs : List Flit}

/-! ### The header of a flit (Table 13-2) -/

theorem rd_leBytes_append (k v : Nat) (b : Bytes) : rd (leBytes k v ++ b) 0 k = v % 256 ^ k := by
  rw [rd, slice, List.drop_zero, List.take_left' (length_leBytes k v), leNat_leBytes]

/-- A number behind a first part is found past that part's length. -/
theorem rd_append_past {a : Bytes} {k : Nat} (ha : a.length = k) (b : Bytes) (off m : Nat) : rd (a ++ b) (k + off) m = rd b off m := by
  rw [rd, rd, slice, slice, ← List.drop_drop, List.drop_left' ha]

/-- The numbers of a flit's header, up to its channel, stand one behind the other. -/
theorem flitBytes_header (typ : Nat) (nack : Bool) (seq ack vc crVc credits : Nat) (payload : Bytes) :
    ∃ rest, flitBytes typ nack seq ack vc crVc credits payload =
      leBytes 1 typ ++ (leBytes 1 (bitOf nack) ++ (leBytes 2 (seq % 4096) ++ (leBytes 2 (ack % 4096) ++ (leBytes 1 vc ++ rest)))) := by
  simp only [flitBytes, List.append_assoc]
  exact ⟨_, rfl⟩

theorem flitBytes_numbers (typ : Nat) (nack : Bool) (seq ack vc crVc credits : Nat) (payload : Bytes) :
    let b := flitBytes typ nack seq ack vc crVc credits payload
    rd b 0 1 = typ % 256 ∧ rd b 1 1 = bitOf nack ∧ rd b 2 2 = seq % 4096 ∧ rd b 6 1 = vc % 256 := by
  obtain ⟨rest, hb⟩ := flitBytes_header typ nack seq ack vc crVc credits payload
  have past := fun k v b => rd_append_past (length_leBytes k v) b
  dsimp only
  rw [hb]
  refine ⟨rd_leBytes_append .., ?_, ?_, ?_⟩
  · rw [past 1 _ _ 0 1, rd_leBytes_append]
    cases nack <;> rfl
  · rw [past 1 _ _ 1 2, past 1 _ _ 0 2, rd_leBytes_append]
    omega
  · rw [past 1 _ _ 5 1, past 1 _ _ 4 1, past 2 _ _ 2 1, past 2 _ _ 0 1, rd_leBytes_append, Nat.pow_one]

/-! ### Frames -/

/-- Between `s` and `t` at most port `n`, the flits on the wire, registers and free draws changed. -/
structure LinkChange (n : Nat) (s t : State) : Prop where
  frame : t = s.withLinks t
  portsOk : t.portsOk
  others : portsFrom s t n

theorem LinkChange.refl (h : s.portsOk) : LinkChange n s s := ⟨rfl, h, fun _ _ => rfl⟩

theorem LinkChange.trans (h : LinkChange n s t) (h' : LinkChange n t u) : LinkChange n s u :=
  ⟨by rw [h'.frame, h.frame]; rfl, h'.portsOk, fun m hm => (h'.others m hm).trans (h.others m hm)⟩

theorem LinkChange.fbump (h : LinkChange n s t) (f : FieldRef) (k : Nat) : LinkChange n s (fbump t f k) := h.trans ⟨rfl, h.portsOk, fun _ _ => rfl⟩

theorem LinkChange.modPort (h : LinkChange n s t) (f : Port → Port) : LinkChange n s (modPort t n f) :=
  h.trans ⟨rfl, portsOk_modPort h.portsOk n f, fun _ hm => portAt_modPort_ne h.portsOk f hm⟩

/-- The module with 256 bytes of port `n` newest on the wire. -/
def State.withFlit (s : State) (n : Nat) (b : Bytes) : State := { s with out := { s.out with flits := (n, b) :: s.out.flits } }

theorem putFlit_unspoiled (s : State) (n typ : Nat) (nack : Bool) (seq vc : Nat) (payload : Bytes) :
    putFlit s n typ nack seq vc payload false = modPort (s.withFlit n (flitBytes typ nack seq (portAt s n).ack vc (portAt s n).crNext
      ((portAt s n).freed.getD (portAt s n).crNext 0) payload)) n fun p => { p with crNext := (p.crNext + 1) % 3 } := rfl

/-- A flit goes onto the wire unspoiled: only the port's turn of the credit counts moves on with it. -/
theorem putFlit_sent (h : s.portsOk) (typ : Nat) (nack : Bool) (seq vc : Nat) (payload : Bytes) :
    let t := putFlit s n typ nack seq vc payload false
    LinkChange n s t ∧ t.regs = s.regs ∧ portAt t n = { portAt s n with crNext := (portAt t n).crNext } ∧
      ∃ ack crVc credits, t.out.flits = (n, flitBytes typ nack seq ack vc crVc credits payload) :: s.out.flits := by
  have hwire : ∀ b, LinkChange n s (s.withFlit n b) := fun _ => ⟨rfl, h, fun _ _ => rfl⟩
  dsimp only
  rw [putFlit_unspoiled]
  refine ⟨(hwire _).modPort _, rfl, ?_, _, _, _, rfl⟩
  rw [portAt_modPort (hwire _).portsOk]
  rfl

/-! ### Flits sent -/

/-- What a flit shows on the wire: its port, type, SEQ and channel. -/
def wireHead (x : Nat × Bytes) : Nat × Nat × Nat × Nat := (x.1, rd x.2 0 1, rd x.2 2 2, rd x.2 6 1)

/-- What a flit of port `n` is to show on the wire. -/
def Flit.head (n : Nat) (f : Flit) : Nat × Nat × Nat × Nat := (n, f.typ % 256, f.seq % 4096, f.vc % 256)

/-- Port `n` put these flits onto the wire, the first one first; nothing else but its turn of the credit counts moved. -/
structure Sent (n : Nat) (fs : List Flit) (s t : State) : Prop extends LinkChange n s t where
  regs : t.regs = s.regs
  port : portAt t n = { portAt s n with crNext := (portAt t n).crNext }
  wire : ∃ xs : List (Nat × Bytes), t.out.flits = xs.reverse ++ s.out.flits ∧ xs.map wireHead = fs.map (Flit.head n)

theorem Sent.nil (h : s.portsOk) : Sent n [] s s := ⟨.refl h, rfl, rfl, [], rfl, rfl⟩

theorem Sent.append (h : Sent n fs s t) (h' : Sent n gs t u) : Sent n (fs ++ gs) s u := by
  obtain ⟨xs, hxs, hheads⟩ := h.wire
  obtain ⟨ys, hys, hheads'⟩ := h'.wire
  refine ⟨h.toLinkChange.trans h'.toLinkChange, h'.regs.trans h.regs, ?_, xs ++ ys, ?_, ?_⟩
  · rw [h'.port, h.port]
  · rw [hys, hxs, List.reverse_append, List.append_assoc]
  · rw [List.map_append, List.map_append, hheads, hheads']

theorem transmit_sent (h : s.portsOk) (n : Nat) (f : Flit) : Sent n [f] s (transmit s n f) := by
  obtain ⟨hlink, hregs, hport, ack, crVc, credits, hflits⟩ := putFlit_sent (n := n) h f.typ false f.seq f.vc f.payload
  obtain ⟨htyp, -, hseq, hvc⟩ := flitBytes_numbers f.typ false f.seq ack f.vc crVc credits f.payload
  refine ⟨hlink, hregs, hport, [(n, flitBytes f.typ false f.seq ack f.vc crVc credits f.payload)], hflits, ?_⟩
  simp only [List.map_cons, List.map_nil, wireHead, Flit.head, htyp, hseq, hvc]

theorem foldl_transmit_sent (fs : List Flit) (h : s.portsOk) : Sent n fs s (fs.foldl (fun s f => transmit s n f) s) := by
  induction fs generalizing s with
  | nil => exact .nil h
  | cons f fs ih => exact (transmit_sent h n f).append (ih (transmit_sent h n f).portsOk)

/-- The newest flits of the wire, oldest of them first, show what was sent; below them stands what stood there. -/
theorem Sent.onWire (h : Sent n fs s t) :
    (t.out.flits.take fs.length).reverse.map wireHead = fs.map (Flit.head n) ∧ t.out.flits.drop fs.length = s.out.flits := by
  obtain ⟨xs, hflits, hheads⟩ := h.wire
  have hlen : xs.reverse.length = fs.length := by
    rw [List.length_reverse, ← List.length_map (f := wireHead), hheads, List.length_map]
  rw [hflits, List.take_left' hlen, List.drop_left' hlen, List.reverse_reverse]
  exact ⟨hheads, rfl⟩

/-! ### Acknowledgement -/

/-- Where no flit waits, an ACK releases flits and carries credits, and nothing is sent (R294, R297). -/
theorem takeAck_idle (h : s.portsOk) (hwait : (portAt s n).waiting = []) (ack crVc cr : Nat) :
    takeAck s n ack crVc cr = modPort s n fun _ => acked (portAt s n) ack crVc cr := by
  have hstill : (portAt (modPort s n fun _ => acked (portAt s n) ack crVc cr) n).waiting = [] := by
    rw [portAt_modPort h]
    exact hwait
  show pump n (portAt (modPort s n fun _ => acked (portAt s n) ack crVc cr) n).waiting.length _ = _
  rw [hstill]
  rfl

end Sys2Proof.Machine
end
end

section
/-!
PROOFS. Flits received, replays and keep-alives (R293 to R297, R303), and the statement on them.
-/
section
open Sys2Proof Sys2Proof.Machine
namespace Sys2Proof.Machine

variable {s t u : State} {n ack crVc cr : Nat}

/-! ### Replay (R295) -/

/-- A replay sends every held flit once more and counts them. -/
theorem replay_sent (h : u.portsOk) (hheld : (portAt u n).held ≠ []) (hfew : (portAt u n).replays < 8) :
    ∃ v, Sent n (portAt u n).held (modPort u n fun p => { p with replays := p.replays + 1 }) v ∧
      replay u n = fbump v (Reg.TSX_REPLAY.RESENT n) (portAt u n).held.length := by
  refine ⟨_, foldl_transmit_sent _ (portsOk_modPort h n _), ?_⟩
  simp only [replay, List.isEmpty_iff, hheld, Nat.not_le.2 hfew, if_false]

/-- What the command that counted `c` and then replayed did, seen from the state before it. -/
theorem replay_counts {c : FieldRef} (hr : s.regsOk) (hlink : LinkChange n s u) (hregs : u.regs = (fbump s c 1).regs) (hout : u.out = s.out)
    (hc : c.lo + c.w ≤ 32) (hheld : (portAt u n).held ≠ []) (hfew : (portAt u n).replays < 8) :
    let t := replay u n
    (t = s.withLinks t ∧ portsFrom s t n) ∧
      ((t.out.flits.take (portAt u n).held.length).reverse.map wireHead = (portAt u n).held.map (Flit.head n) ∧
        t.out.flits.drop (portAt u n).held.length = s.out.flits) ∧
      portAt t n = { portAt u n with replays := (portAt u n).replays + 1, crNext := (portAt t n).crNext } ∧
      counted s t c 1 ∧ counted s t (Reg.TSX_REPLAY.RESENT n) (portAt u n).held.length := by
  obtain ⟨v, hsent, hreplay⟩ := replay_sent hlink.portsOk hheld hfew
  have hrv : v.regs = (fbump s c 1).regs := hsent.regs.trans hregs
  have hfv : ∀ f, fget v f = fget (fbump s c 1) f := fun f => by rw [fget, fget, rget_of_regs hrv]
  have hv : v.regsOk := by
    rw [State.regsOk, hrv]
    exact regsOk_fbump hr c 1
  have hall := (hlink.modPort fun p => { p with replays := p.replays + 1 }).trans hsent.toLinkChange |>.fbump (Reg.TSX_REPLAY.RESENT n) (portAt u n).held.length
  dsimp only
  rw [hreplay]
  refine ⟨⟨hall.frame, hall.others⟩, ?_, ?_, ?_, ?_⟩
  · rw [← hout]
    exact hsent.onWire
  · refine hsent.port.trans ?_
    rw [portAt_modPort hlink.portsOk]
    rfl
  · rw [counted, fget_fbump_other hv _ c _ (by omega) (.inr (.inr hc)), hfv]
    exact fbump_counted hr c 1 (by omega)
  · refine (fbump_counted hv (Reg.TSX_REPLAY.RESENT n) _ (by decide : 32 + 32 ≤ 64)).trans ?_
    rw [hfv, fget_fbump_other hr c (Reg.TSX_REPLAY.RESENT n) 1 (by decide : 32 + 32 ≤ 64) (.inr (.inl hc))]

/-! ### What an ACTIVE port does with a flit -/

theorem exec_replayTimeout_none (hheld : (portAt s n).held = []) : exec (.replayTimeout n) s = .next s := by
  show execReplayTimeout n s = _
  simp only [execReplayTimeout, hheld, List.isEmpty_nil, Bool.not_true, Bool.and_false, Bool.false_eq_true, if_false]

section
variable (hact : portActive s n = true)
include hact

theorem exec_idleFlit (h : s.portsOk) (hwait : (portAt s n).waiting = []) :
    exec (.idleFlit n ack crVc cr) s = .next (modPort s n fun _ => acked (portAt s n) ack crVc cr) := by
  show execIdleFlit n ack crVc cr s = _
  rw [execIdleFlit, if_pos hact, takeAck_idle h hwait]

theorem keepalive_effect (h : s.portsOk) (hwait : (portAt s n).waiting = []) :
    ∃ t, exec (.keepalive n ack crVc cr) s = .next t ∧ t = { s with tsx := t.tsx } ∧ portsFrom s t n ∧
      portAt t n = { acked (portAt s n) ack crVc cr with kaLast := s.clk.tick } := by
  have hu := portsOk_modPort h n fun p => { p with kaLast := s.clk.tick }
  have hport := portAt_modPort h n fun p => { p with kaLast := s.clk.tick }
  have hexec : exec (.keepalive n ack crVc cr) s = .next (takeAck (modPort s n fun p => { p with kaLast := s.clk.tick }) n ack crVc cr) := by
    show execKeepalive n ack crVc cr s = _
    rw [execKeepalive, if_pos hact]
  rw [takeAck_idle hu (by rw [hport]; exact hwait)] at hexec
  refine ⟨_, hexec, rfl, (((LinkChange.refl h).modPort _).modPort _).others, ?_⟩
  rw [portAt_modPort hu, hport]
  rfl

theorem exec_nack (h : s.portsOk) (hwait : (portAt s n).waiting = []) : exec (.nack n ack crVc cr) s =
    .next (replay (modPort (fbump s (Reg.TSX_REPLAY.NACKS n) 1) n fun _ => acked (portAt s n) ack crVc cr) n) := by
  show execNack n ack crVc cr s = _
  rw [execNack, if_pos hact, takeNack, takeAck_idle (s := fbump s _ 1) h hwait]
  rfl

theorem exec_replayTimeout (hheld : (portAt s n).held ≠ []) :
    exec (.replayTimeout n) s = .next (replay (fbump s (Reg.TSX_REPLAY.TIMEOUTS n) 1) n) := by
  show execReplayTimeout n s = _
  rw [execReplayTimeout, if_pos]
  simpa [hact] using hheld

theorem exec_keepaliveSendTimer (h : s.portsOk) (hinj : fget s (Reg.TSX_INJ_CTRL.ENABLE n) = 0) :
    ∃ t, exec (.keepaliveSendTimer n) s = .next t ∧
      Sent n [{ typ := 3, seq := 0, vc := 0, payload := [1] ++ leBytes 4 ((portAt s n).kaSent + 1) }]
        (modPort s n fun p => { p with kaSent := (portAt s n).kaSent + 1 }) t := by
  have hnone : ∀ f, injEligible (modPort s n fun p => { p with kaSent := (portAt s n).kaSent + 1 }) n f = false := fun f => by
    rw [injEligible, show fget (modPort s n _) _ = 0 from hinj]
    rfl
  refine ⟨_, ?_, transmit_sent (portsOk_modPort h n _) n _⟩
  show execKeepaliveSendTimer n s = _
  simp only [execKeepaliveSendTimer, hact, if_true, firstTransmit, hnone, Bool.not_false]

end

/-! ### Sequenced flits -/

/-- A flit of 256 bytes, its CRC right, no NACK in it, of a sequenced type (R293). -/
structure GoodFlit (flit : Bytes) : Prop where
  length : flit.length = 256
  crc : crc32c (flit.take 252) = rd flit 252 4
  noNack : (rd flit 1 1).testBit 0 = false
  sequenced : rd flit 0 1 = 1 ∨ rd flit 0 1 = 2

/-- The port's FEC counts after a flit that FEC put right (R293). -/
def fecCounted (s : State) (n corrected : Nat) : State := fbump (fbump s (Reg.TSX_ERRORS.FEC_CORR n) corrected) (Reg.TSX_ERRORS.FEC_UNCORR n) 0

/-- The module when a sequenced flit's ACK and credits have been taken. -/
def flitTaken (s : State) (n : Nat) (flit : Bytes) (corrected : Nat) : State :=
  modPort (fecCounted s n corrected) n fun _ => acked (portAt s n) (rd flit 4 2 % 4096) (rd flit 7 1) (rd flit 8 2)

/-- The sequenced flit that 256 bytes hold (Table 13-2). -/
def flitOf (flit : Bytes) : Flit := { typ := rd flit 0 1, seq := rd flit 2 2 % 4096, vc := rd flit 6 1, payload := slice flit 12 (rd flit 10 2) }

section
variable {flit : Bytes} {corrected : Nat}

theorem portAt_flitTaken (h : s.portsOk) :
    portAt (flitTaken s n flit corrected) n = acked (portAt s n) (rd flit 4 2 % 4096) (rd flit 7 1) (rd flit 8 2) :=
  portAt_modPort (s := fecCounted s n corrected) h n _

theorem portActive_flitTaken (hr : s.regsOk) : portActive (flitTaken s n flit corrected) n = portActive s n := by
  have hstate : fget (fecCounted s n corrected) (Reg.TSX_STATUS.STATE n) = fget s (Reg.TSX_STATUS.STATE n) := by
    rw [fecCounted, fget_fbump_other (regsOk_fbump hr _ corrected), fget_fbump_other hr] <;>
      simp [Reg.TSX_STATUS.STATE, Reg.TSX_ERRORS.FEC_CORR, Reg.TSX_ERRORS.FEC_UNCORR]
  have hregs : (flitTaken s n flit corrected).regs = (fecCounted s n corrected).regs := rfl
  rw [portActive, portActive, fget_of_regs hregs, hstate]

theorem flitTaken_linkChange (h : s.portsOk) : LinkChange n s (flitTaken s n flit corrected) :=
  (((LinkChange.refl h).fbump _ _).fbump _ _).modPort _

theorem exec_sequencedFlitReceive (hr : s.regsOk) (h : s.portsOk) (hact : portActive s n = true) (hwait : (portAt s n).waiting = []) (hgood : GoodFlit flit) :
    exec (.sequencedFlitReceive n flit corrected false) s = .next (if rd flit 2 2 % 4096 = ((portAt s n).ack + 1) % 4096
      then acceptFlit (flitTaken s n flit corrected) n (flitOf flit) else discardFlit (flitTaken s n flit corrected) n) := by
  obtain ⟨hlen, hcrc, hnack, htyp⟩ := hgood
  have hknown : ¬ 3 < rd flit 0 1 ∧ ¬ (rd flit 0 1 = 0 ∨ rd flit 0 1 = 3) := by omega
  have htake : takeAck (fecCounted s n corrected) n (rd flit 4 2 % 4096) (rd flit 7 1) (rd flit 8 2) = flitTaken s n flit corrected :=
    takeAck_idle (s := fecCounted s n corrected) h hwait ..
  have hack : (portAt (flitTaken s n flit corrected) n).ack = (portAt s n).ack := by rw [portAt_flitTaken h]; rfl
  rw [fecCounted] at htake
  show execSequencedFlitReceive n flit corrected false s = _
  simp only [execSequencedFlitReceive, hact, hlen, hcrc, hnack, hknown, bitOf, htake, portActive_flitTaken hr, hack, bne_self_eq_false, Bool.not_true,
    Bool.or_self, Bool.or_eq_true, decide_eq_true_eq, Bool.false_eq_true, or_self, if_false]
  rfl

/-- A flit in order whose payload has a meaning stands last in the inbox, and its number is the port's ACK (R295). -/
theorem acceptFlit_known {f : Flit} (hknown : knownPayload f.typ f.payload = true) :
    acceptFlit u n f = modPort u n fun p => { p with ack := f.seq, nackOut := false, inbox := p.inbox ++ [f] } := by
  rw [acceptFlit, if_pos hknown]

/-- The first flit discarded is answered by a NACK in an IDLE, a later one by nothing (R295). -/
theorem discardFlit_effect (h : u.portsOk) :
    let t := discardFlit u n
    LinkChange n u t ∧ portAt t n = { portAt u n with nackOut := true, crNext := (portAt t n).crNext } ∧
      ((portAt u n).nackOut = true → t.out = u.out) ∧
      ((portAt u n).nackOut = false → ∃ b, t.out.flits = (n, b) :: u.out.flits ∧ rd b 0 1 = 0 ∧ rd b 1 1 = 1) := by
  dsimp only
  cases hnack : (portAt u n).nackOut with
  | true =>
    have hsame : discardFlit u n = u := by rw [discardFlit, if_pos hnack]
    rw [hsame]
    exact ⟨.refl h, by rw [← hnack], fun _ => rfl, nofun⟩
  | false =>
    have hidle : discardFlit u n = putFlit (modPort u n fun p => { p with nackOut := true }) n 0 true 0 0 [] false := by
      rw [discardFlit, hnack, if_neg Bool.false_ne_true, sendIdle]
    obtain ⟨hlink, -, hport, ack, crVc, credits, hflits⟩ := putFlit_sent (n := n) (portsOk_modPort h n fun p => { p with nackOut := true }) 0 true 0 0 []
    obtain ⟨htyp, hbit, -, -⟩ := flitBytes_numbers 0 true 0 ack 0 crVc credits []
    rw [hidle]
    refine ⟨((LinkChange.refl h).modPort _).trans hlink, ?_, nofun, fun _ => ⟨_, hflits, htyp, hbit⟩⟩
    rw [hport, portAt_modPort h]

end

/-! ### The clauses of the statement -/

section
variable (hr : s.regsOk) (h : s.portsOk)
include h

theorem keepaliveSendTimer_effect (hact : portActive s n = true) (hinj : fget s (Reg.TSX_INJ_CTRL.ENABLE n) = 0) :
    ∃ t, exec (.keepaliveSendTimer n) s = .next t ∧ (t = s.withLinks t ∧ portsFrom s t n) ∧ t.regs = s.regs ∧
      ((t.out.flits.take 1).reverse.map wireHead = [(n, 3, 0, 0)] ∧ t.out.flits.drop 1 = s.out.flits) ∧
      portAt t n = { portAt s n with kaSent := (portAt s n).kaSent + 1, crNext := (portAt t n).crNext } := by
  obtain ⟨t, hexec, hsent⟩ := exec_keepaliveSendTimer hact h hinj
  have hlink := ((LinkChange.refl h).modPort _).trans hsent.toLinkChange
  refine ⟨t, hexec, ⟨hlink.frame, hlink.others⟩, hsent.regs, hsent.onWire, hsent.port.trans ?_⟩
  rw [portAt_modPort h]

include hr

theorem nack_effect (hact : portActive s n = true) (hwait : (portAt s n).waiting = []) :
    let q := acked (portAt s n) ack crVc cr
    q.held ≠ [] → q.replays < 8 → ∃ t, exec (.nack n ack crVc cr) s = .next t ∧ (t = s.withLinks t ∧ portsFrom s t n) ∧
      ((t.out.flits.take q.held.length).reverse.map wireHead = q.held.map (Flit.head n) ∧ t.out.flits.drop q.held.length = s.out.flits) ∧
      portAt t n = { q with replays := q.replays + 1, crNext := (portAt t n).crNext } ∧
      counted s t (Reg.TSX_REPLAY.NACKS n) 1 ∧ counted s t (Reg.TSX_REPLAY.RESENT n) q.held.length := by
  intro q hheld hfew
  have hport := portAt_modPort (s := fbump s (Reg.TSX_REPLAY.NACKS n) 1) h n fun _ => q
  have hlink := ((LinkChange.refl (n := n) h).fbump (Reg.TSX_REPLAY.NACKS n) 1).modPort fun _ => q
  have hcounts := replay_counts (c := Reg.TSX_REPLAY.NACKS n) hr hlink rfl rfl (by decide : 16 + 16 ≤ 32)
  rw [hport] at hcounts
  exact ⟨_, exec_nack hact h hwait, hcounts hheld hfew⟩

theorem replayTimeout_effect (hact : portActive s n = true) (hheld : (portAt s n).held ≠ []) (hfew : (portAt s n).replays < 8) :
    let p := portAt s n
    ∃ t, exec (.replayTimeout n) s = .next t ∧ (t = s.withLinks t ∧ portsFrom s t n) ∧
      ((t.out.flits.take p.held.length).reverse.map wireHead = p.held.map (Flit.head n) ∧ t.out.flits.drop p.held.length = s.out.flits) ∧
      portAt t n = { p with replays := p.replays + 1, crNext := (portAt t n).crNext } ∧
      counted s t (Reg.TSX_REPLAY.TIMEOUTS n) 1 ∧ counted s t (Reg.TSX_REPLAY.RESENT n) p.held.length :=
  ⟨_, exec_replayTimeout hact hheld, replay_counts (c := Reg.TSX_REPLAY.TIMEOUTS n) hr
    ((LinkChange.refl h).fbump (Reg.TSX_REPLAY.TIMEOUTS n) 1) rfl rfl (by decide : 0 + 16 ≤ 32) hheld hfew⟩

section
variable {flit : Bytes} {corrected : Nat} (hact : portActive s n = true) (hwait : (portAt s n).waiting = []) (hgood : GoodFlit flit)
include hact hwait hgood

theorem flit_accepted (hnext : rd flit 2 2 % 4096 = ((portAt s n).ack + 1) % 4096)
    (hknown : knownPayload (rd flit 0 1) (slice flit 12 (rd flit 10 2)) = true) :
    ∃ t, exec (.sequencedFlitReceive n flit corrected false) s = .next t ∧ t = { s with regs := t.regs, tsx := t.tsx } ∧ portsFrom s t n ∧
      portAt t n = { acked (portAt s n) (rd flit 4 2 % 4096) (rd flit 7 1) (rd flit 8 2) with
        ack := rd flit 2 2 % 4096, nackOut := false, inbox := (portAt s n).inbox ++ [flitOf flit] } := by
  have hexec := exec_sequencedFlitReceive (corrected := corrected) hr h hact hwait hgood
  have hlink := flitTaken_linkChange (n := n) (flit := flit) (corrected := corrected) h
  rw [if_pos hnext, acceptFlit_known (f := flitOf flit) hknown] at hexec
  refine ⟨_, hexec, rfl, (hlink.modPort _).others, ?_⟩
  rw [portAt_modPort hlink.portsOk, portAt_flitTaken h]
  rfl

theorem flit_discarded (hnext : rd flit 2 2 % 4096 ≠ ((portAt s n).ack + 1) % 4096) :
    ∃ t, exec (.sequencedFlitReceive n flit corrected false) s = .next t ∧ (t = s.withLinks t ∧ portsFrom s t n) ∧
      portAt t n = { acked (portAt s n) (rd flit 4 2 % 4096) (rd flit 7 1) (rd flit 8 2) with nackOut := true, crNext := (portAt t n).crNext } ∧
      ((portAt s n).nackOut = true → t.out = s.out) ∧
      ((portAt s n).nackOut = false → ∃ b, t.out.flits = (n, b) :: s.out.flits ∧ rd b 0 1 = 0 ∧ rd b 1 1 = 1) := by
  have hexec := exec_sequencedFlitReceive (corrected := corrected) hr h hact hwait hgood
  have hlink := flitTaken_linkChange (n := n) (flit := flit) (corrected := corrected) h
  have hdiscard := discardFlit_effect (n := n) hlink.portsOk
  rw [if_neg hnext] at hexec
  rw [portAt_flitTaken h] at hdiscard
  obtain ⟨hlink', hport, hagain, hfirst⟩ := hdiscard
  have hall := hlink.trans hlink'
  exact ⟨_, hexec, ⟨hall.frame, hall.others⟩, hport, hagain, hfirst⟩

end

end

/-- A port that is not ACTIVE takes no flit, and its link timers do nothing. -/
theorem inactive_port_unchanged (hact : portActive s n = false) :
    (∀ a c k, exec (.idleFlit n a c k) s = .next s ∧ exec (.keepalive n a c k) s = .next s ∧ exec (.nack n a c k) s = .next s) ∧
      exec (.replayTimeout n) s = .next s ∧ exec (.keepaliveSendTimer n) s = .next s ∧
      ∀ f c u, exec (.sequencedFlitReceive n f c u) s = .next s := by
  have hnot : ¬ portActive s n = true := by simp [hact]
  refine ⟨fun a c k => ⟨?_, ?_, ?_⟩, ?_, ?_, fun f c u => ?_⟩
  · exact congrArg Host.Outcome.next (if_neg hnot)
  · exact congrArg Host.Outcome.next (if_neg hnot)
  · exact congrArg Host.Outcome.next (if_neg hnot)
  · exact congrArg Host.Outcome.next (if_neg (by simp [hact]))
  · exact congrArg Host.Outcome.next (if_neg hnot)
  · exact congrArg Host.Outcome.next (if_pos (by simp [hact]))

/-- Settles O39: an ACK alone (`exec_idleFlit`, `keepalive_effect`), the two causes of a replay (`nack_effect`, `replayTimeout_effect`), the
keep-alive sent, a sequenced flit in order (`flit_accepted`) and out of order (`flit_discarded`), and the port that is not ACTIVE. -/
theorem flitsAreAcknowledged : Obligations.FlitsAreAcknowledged := by
  unfold Obligations.FlitsAreAcknowledged
  intro n s hr h _
  dsimp only
  refine ⟨fun hact hwait ack crVc cr => ⟨?_, ?_, ?_⟩, replayTimeout_effect hr h, fun _ => exec_replayTimeout_none, keepaliveSendTimer_effect h,
    fun flit corrected hact hwait hlen hcrc hnack htyp => ?_, inactive_port_unchanged⟩
  · exact exec_idleFlit hact h hwait
  · exact keepalive_effect hact h hwait
  · exact nack_effect hr h hact hwait
  · have hgood : GoodFlit flit := ⟨hlen, hcrc, hnack, htyp⟩
    exact ⟨flit_accepted hr h hact hwait hgood, flit_discarded hr h hact hwait hgood⟩

end Sys2Proof.Machine
end
end

section
/-!
PROOFS. MSI-X tables beside their reset contents. The second word of each vector resets with its Mask bit set, so a write of 0 to it is an entry of its
own in the table (`msixReset`, log entry 7), which an unlisted key does not read as. The predicate `State.tablesOk` takes the table's reset contents as 0
throughout and so shuts out that entry: the statement on all tables fails.
-/
section
open Sys2Proof Sys2Proof.Machine
namespace Sys2Proof.Machine

/-- The module in Run, everything else as reset leaves it, with a write of 0 waiting for the word of PF0's MSI-X table that holds the Mask bit of vector 0. -/
def unmasking : State := { State.reset with pst := { freshPowerSt with depth := 0 }, pending := [.registerWrite false .pf0 0xF0008 8 0] }

theorem step_unmasking : step unmasking = .next { unmasking with pending := [], hst := { State.reset.hst with msixTab := [(16401, 0)] } } := rfl

/-- Refutes O56: the host clears a vector's mask (`step_unmasking`), and the 0 that then stands in the MSI-X table is what the predicate takes an unlisted
word to read as. -/
theorem not_everyStepKeepsItsTables : ¬ Obligations.EveryStepKeepsItsTables := by
  unfold Obligations.EveryStepKeepsItsTables
  rintro ⟨hreset, hstep⟩
  have htables : unmasking.tablesOk := hreset
  obtain ⟨-, ⟨-, hmsix, -⟩, -⟩ := hstep _ _ htables step_unmasking
  exact absurd hmsix (by decide)

end Sys2Proof.Machine
end
end

section
/-!
PROOFS. What every command keeps: the queue, the canonical form of the register table (log entry 8), and the units that have failed for good (R380,
R381). Nothing writes the queue; registers are written one at a time or dropped by a reset, and failed units are only added: one lemma per operation, in
the model's order. An operation that only changes other components needs none, for its result has the three as they were by definition.
-/
section
open Sys2Proof Sys2Proof.Machine
namespace Sys2Proof.Machine

/-- Between `b` and `t` the queue stood, the register table kept its canonical form, and no unit that had failed was taken back. -/
def Kept (b t : State) : Prop :=
  t.pending = b.pending ∧ (b.regsOk → t.regsOk) ∧ b.con.failedShelves ⊆ t.con.failedShelves ∧ b.con.failedHalls ⊆ t.con.failedHalls

theorem Kept.refl (s : State) : Kept s s := ⟨rfl, id, fun _ h => h, fun _ h => h⟩

variable {b s : State}

/-- What else changes does not matter. -/
theorem with_kept {clk ann cur img arr col scr run acc loans kv itk tsx orb pwr pst hst out free} (h : Kept b s) :
    Kept b { s with clk := clk, ann := ann, cur := cur, img := img, arr := arr, col := col, scr := scr, run := run, acc := acc, loans := loans, kv := kv,
                    itk := itk, tsx := tsx, orb := orb, pwr := pwr, pst := pst, hst := hst, out := out, free := free } := h

theorem withCon_kept {clk ann cur img arr col scr run acc loans kv itk tsx orb pwr pst hst out free library rotations proofEpoch proofTick gone heldWalks clean
    withheld window taints locals fsr fsrNext fsrCursor taintAt carrelPasses minute} (h : Kept b s) :
    Kept b { s with clk := clk, ann := ann, cur := cur, img := img, arr := arr, col := col, scr := scr, run := run, acc := acc, loans := loans, kv := kv,
                    itk := itk, tsx := tsx, orb := orb, pwr := pwr, pst := pst, hst := hst, out := out, free := free
                    con := { s.con with library := library, rotations := rotations, proofEpoch := proofEpoch, proofTick := proofTick, gone := gone
                                        heldWalks := heldWalks, clean := clean, withheld := withheld, window := window, taints := taints, locals := locals
                                        fsr := fsr, fsrNext := fsrNext, fsrCursor := fsrCursor, taintAt := taintAt, carrelPasses := carrelPasses
                                        minute := minute } } := h

theorem ite_kept {c : Prop} [Decidable c] {t : State} (h : Kept b s) (h' : Kept b t) : Kept b (if c then s else t) := by
  split
  · exact h
  · exact h'

theorem iteFst_kept {β : Type} {c : Prop} [Decidable c] {p q : State × β} (h : Kept b p.1) (h' : Kept b q.1) : Kept b (if c then p else q).1 := by
  split
  · exact h
  · exact h'

theorem iteSnd_kept {β : Type} {c : Prop} [Decidable c] {p q : β × State} (h : Kept b p.2) (h' : Kept b q.2) : Kept b (if c then p else q).2 := by
  split
  · exact h
  · exact h'

/-- A walk whose every step keeps them. -/
theorem foldl_kept {α : Type} {f : State → α → State} {l : List α} (hf : ∀ t x, Kept b t → Kept b (f t x)) (h : Kept b s) : Kept b (l.foldl f s) := by
  induction l generalizing s with
  | nil => exact h
  | cons x xs ih => exact ih (hf s x h)

/-- A walk that carries something beside the state. -/
theorem foldl_fst_kept {α β : Type} {f : State × β → α → State × β} {l : List α} {p : State × β}
    (hf : ∀ p x, Kept b p.1 → Kept b (f p x).1) (h : Kept b p.1) : Kept b (l.foldl f p).1 := by
  induction l generalizing p with
  | nil => exact h
  | cons x xs ih => exact ih (hf p x h)

theorem foldl_snd_kept {α β : Type} {f : β × State → α → β × State} {l : List α} {p : β × State}
    (hf : ∀ p x, Kept b p.2 → Kept b (f p x).2) (h : Kept b p.2) : Kept b (l.foldl f p).2 := by
  induction l generalizing p with
  | nil => exact h
  | cons x xs ih => exact ih (hf p x h)

/-- A command's outcome keeps them. -/
def KeptBy (b : State) (o : Out) : Prop := ∀ t, o = .next t → Kept b t

theorem next_kept (h : Kept b s) : KeptBy b (.next s) := fun _ ht => by
  cases ht
  exact h

/-- What a scribe instruction comes to keeps them. -/
def DidKept (b : State) (o : Did) : Prop := ∀ t, o = .done t → Kept b t

theorem done_kept (h : Kept b s) : DidKept b (.done s) := fun _ ht => by
  cases ht
  exact h

theorem fault_kept {code : Nat} : DidKept b (.fault code) := fun _ ht => nomatch ht
theorem stall_kept : DidKept b .stall := fun _ ht => nomatch ht

theorem iteDid_kept {c : Prop} [Decidable c] {o o' : Did} (h : DidKept b o) (h' : DidKept b o') : DidKept b (if c then o else o') := by
  split
  · exact h
  · exact h'

/-! ### The shared operations -/

theorem rset_kept {a v} (h : Kept b s) : Kept b (rset s a v) := by
  obtain ⟨hq, hr, hs, hh⟩ := h
  exact ⟨hq, fun hb => regsOk_rset (hr hb) a v, hs, hh⟩

theorem fset_kept {f x} (h : Kept b s) : Kept b (fset s f x) := rset_kept h
theorem fbump_kept {f n} (h : Kept b s) : Kept b (fbump s f n) := rset_kept h
theorem freeDraw_kept (h : Kept b s) : Kept b (freeDraw s).2 := with_kept h
theorem writeRec_kept {kind sev obj a0 a1 a2} (h : Kept b s) : Kept b (writeRec s kind sev obj a0 a1 a2) :=
  ite_kept (fset_kept (with_kept (ite_kept (fbump_kept (fset_kept (with_kept h))) (fset_kept (with_kept h))))) (ite_kept (fbump_kept (fset_kept
    (with_kept h))) (fset_kept (with_kept h)))
theorem annal_kept {kind sev obj a0 a1 a2} (h : Kept b s) : Kept b (annal s kind sev obj a0 a1 a2) :=
  ite_kept (ite_kept (writeRec_kept (with_kept h)) (fbump_kept (with_kept h))) (writeRec_kept h)
theorem ignored_kept {off value} (h : Kept b s) : Kept b (ignored s off value) := annal_kept h
theorem leaveIdle_kept (h : Kept b s) : Kept b (leaveIdle s) := ite_kept (fset_kept (fset_kept (with_kept h))) h
theorem accrueReasons_kept (h : Kept b s) : Kept b (accrueReasons s) := foldl_kept (fun _ _ h => fbump_kept h) h
theorem idleTick_kept (h : Kept b s) : Kept b (idleTick s) := with_kept (ite_kept (accrueReasons_kept h) h)
theorem dmaWrite_kept {fn addr bytes} (h : Kept b s) : Kept b (dmaWrite s fn addr bytes) := ite_kept (with_kept h) h
theorem msixSend_kept {fn v} (h : Kept b s) : Kept b (msixSend s fn v) := with_kept h
theorem msix_kept {fn v} (h : Kept b s) : Kept b (msix s fn v) := ite_kept h (ite_kept (msixSend_kept h) (with_kept h))
theorem msixRelease_kept {fn v} (h : Kept b s) : Kept b (msixRelease s fn v) := ite_kept (msixSend_kept (with_kept h)) h
theorem modCarrel_kept {n f} (h : Kept b s) : Kept b (modCarrel s n f) := with_kept h
theorem modStream_kept {c f} (h : Kept b s) : Kept b (modStream s c f) := with_kept h
theorem modCmd_kept {c seq f} (h : Kept b s) : Kept b (modCmd s c seq f) := with_kept h
theorem finish_kept {c seq status value} (h : Kept b s) : Kept b (finish s c seq status value) := modCmd_kept h
theorem modAcc_kept {r f} (h : Kept b s) : Kept b (modAcc s r f) := with_kept h
theorem modPass_kept {r f} (h : Kept b s) : Kept b (modPass s r f) := with_kept h
theorem reloadPrograms_kept {r} (h : Kept b s) : Kept b (reloadPrograms s r) := with_kept h
theorem modSession_kept {j f} (h : Kept b s) : Kept b (modSession s j f) := with_kept h
theorem modFolio_kept {k f} (h : Kept b s) : Kept b (modFolio s k f) := with_kept h
theorem toState_kept {k st} (h : Kept b s) : Kept b (toState s k st) := annal_kept (modFolio_kept h)

/-! ### Links -/

theorem modPort_kept {n f} (h : Kept b s) : Kept b (modPort s n f) := with_kept h

theorem putFlit_kept {n typ nack seq vc payload spoil} (h : Kept b s) : Kept b (putFlit s n typ nack seq vc payload spoil) := by
  cases spoil
  · exact modPort_kept (with_kept h)
  · exact modPort_kept (with_kept (freeDraw_kept h))

theorem sendIdle_kept {n nack} (h : Kept b s) : Kept b (sendIdle s n nack) := putFlit_kept h
theorem transmit_kept {n f} (h : Kept b s) : Kept b (transmit s n f) := putFlit_kept h

theorem injChoose_kept {n} (h : Kept b s) : Kept b (injChoose s n).2 := by
  unfold injChoose
  dsimp only
  split <;> exact modPort_kept h

theorem firstTransmit_kept {n f} (h : Kept b s) : Kept b (firstTransmit s n f) := by
  unfold firstTransmit
  dsimp only
  refine ite_kept (transmit_kept h) (ite_kept (foldl_kept (fun _ _ h => transmit_kept h) (modPort_kept (transmit_kept (injChoose_kept h)))) ?_)
  split
  · exact sendIdle_kept (fbump_kept (injChoose_kept h))
  · exact putFlit_kept (fbump_kept (injChoose_kept h))
  · exact putFlit_kept (fbump_kept (injChoose_kept h))
  · exact modPort_kept (fbump_kept (injChoose_kept h))

theorem pump_kept {n fuel} (h : Kept b s) : Kept b (pump n fuel s) := by
  induction fuel generalizing s with
  | zero => exact h
  | succ fuel ih =>
    unfold pump
    dsimp only
    split
    · exact h
    · exact ih (firstTransmit_kept h)

theorem sendFlit_kept {n f} (h : Kept b s) : Kept b (sendFlit s n f) := pump_kept (modPort_kept h)
theorem sendMsg_kept {n typ body} (h : Kept b s) : Kept b (sendMsg s n typ body) := ite_kept (sendFlit_kept (modPort_kept h)) h
theorem sendFault_kept {n kind port detail} (h : Kept b s) : Kept b (sendFault s n kind port detail) := sendMsg_kept h
theorem sendDispatch_kept {r kind carrel cls passId words} (h : Kept b s) : Kept b (sendDispatch s r kind carrel cls passId words) :=
  foldl_kept (fun _ _ h => foldl_kept (fun _ _ h => sendMsg_kept h) h) h
theorem sendTxn_kept {n kind poison tag addr data origin elems} (h : Kept b s) : Kept b (sendTxn s n kind poison tag addr data origin elems) :=
  ite_kept h (ite_kept (sendFault_kept (modPort_kept (sendFlit_kept h))) (sendFlit_kept h))
theorem tsxRecord_kept {n event} (h : Kept b s) : Kept b (tsxRecord s n event) := annal_kept h

/-! ### Packets -/

theorem writeHeader_kept {c} (h : Kept b s) : Kept b (writeHeader s c) := ite_kept (dmaWrite_kept h) h
theorem raiseVector0_kept {c} (h : Kept b s) : Kept b (raiseVector0 s c) := modStream_kept (msix_kept h)
theorem writeRecord_kept {c tag seq pass status flags op count value irq} (h : Kept b s) : Kept b (writeRecord s c tag seq pass status flags op count value irq) :=
  ite_kept (ite_kept (raiseVector0_kept (modStream_kept (dmaWrite_kept h))) (modStream_kept (dmaWrite_kept h))) h
theorem haltStream_kept {c reason} (h : Kept b s) : Kept b (haltStream s c reason) :=
  msix_kept (writeHeader_kept (writeRecord_kept (fset_kept (modStream_kept h))))
theorem consumePacket_kept {c pkt} (h : Kept b s) : Kept b (consumePacket s c pkt) :=
  writeHeader_kept (fset_kept (fset_kept (with_kept (modStream_kept h))))

theorem takePackets_kept {c fuel} (h : Kept b s) : Kept b (takePackets c fuel s) := by
  induction fuel generalizing s with
  | zero => exact h
  | succ fuel ih =>
    refine ite_kept ?_ h
    dsimp only
    split
    · exact haltStream_kept h
    · exact ih (consumePacket_kept h)

theorem writeEntries_kept {k es} (h : Kept b s) : Kept b (writeEntries s k es) := foldl_kept (fun _ _ h => dmaWrite_kept h) h

/-! ### Pages -/

theorem modPage_kept {j i f} (h : Kept b s) : Kept b (modPage s j i f) := with_kept h

theorem allocPage_kept {hall p u} (hu : allocPage s hall p = some u) (h : Kept b s) : Kept b u.1 := by
  unfold allocPage at hu
  split at hu
  · cases hu
    exact ite_kept (fbump_kept h) h
  · cases hu

theorem spoilLine_kept {j a} (h : Kept b s) : Kept b (spoilLine s j a) := with_kept h
theorem cleanLines_kept {j a n} (h : Kept b s) : Kept b (cleanLines s j a n) := with_kept h
theorem spoilLines_kept {j a n} (h : Kept b s) : Kept b (spoilLines s j a n) := foldl_kept (fun _ _ h => spoilLine_kept h) h
theorem releasePage_kept {j i} (h : Kept b s) : Kept b (releasePage s j i) := ite_kept (cleanLines_kept (modPage_kept h)) (modPage_kept h)

theorem releaseAll_kept {x} (h : Kept b s) : Kept b (releaseAll s x) := by
  unfold releaseAll
  split
  · exact h
  · exact foldl_kept (fun _ _ h => releasePage_kept h) h

theorem cowCopy_kept {x hall g k i u} (hu : cowCopy s x hall g k i = some u) (h : Kept b s) : Kept b u := by
  simp only [cowCopy] at hu
  split at hu
  · cases hu
  · next halloc =>
    cases hu
    exact fbump_kept (foldl_kept (fun _ _ h => spoilLine_kept h) (with_kept (modSession_kept (releasePage_kept (allocPage_kept halloc h)))))

theorem needPage_kept {handle g grp k u} (hu : needPage s handle g grp k = some u) (h : Kept b s) : Kept b u := by
  simp only [needPage] at hu
  split at hu
  · cases hu
    exact h
  · split at hu
    · split at hu
      · exact cowCopy_kept hu h
      · cases hu
        exact h
    · split at hu
      · cases hu
      · next halloc =>
        cases hu
        exact allocPage_kept halloc h

theorem foldOpt_kept {α : Type} {f : State → α → Option State} {l : List α} {u} (hf : ∀ t x u, f t x = some u → Kept b t → Kept b u)
    (hu : foldOpt f s l = some u) (h : Kept b s) : Kept b u := by
  induction l generalizing s with
  | nil =>
    cases hu
    exact h
  | cons x xs ih =>
    simp only [foldOpt] at hu
    split at hu
    · cases hu
    · next ht => exact ih hu (hf _ _ _ ht h)

theorem growSession_kept {handle count u} (hu : growSession s handle count = some u) (h : Kept b s) : Kept b u := by
  simp only [growSession] at hu
  split at hu
  · cases hu
    exact h
  · exact foldOpt_kept (fun _ _ _ => foldOpt_kept fun _ _ _ => needPage_kept) hu h

theorem reserveExtent_kept {x u} (hu : reserveExtent s x = some u) (h : Kept b s) : Kept b u := by
  obtain ⟨a, -, rfl⟩ := Option.map_eq_some_iff.1 hu
  exact modSession_kept h

theorem chooseVictims_kept {enough ghost xs chosen u} (hu : chooseVictims enough s ghost xs chosen = some u) (h : Kept b s) : Kept b u.1 := by
  induction xs generalizing s ghost chosen with
  | nil => cases hu
  | cons x xs ih =>
    simp only [chooseVictims] at hu
    split at hu
    · exact ih hu h
    · next hres =>
      split at hu
      · cases hu
        exact reserveExtent_kept hres h
      · exact ih hu (reserveExtent_kept hres h)

theorem selectVictims_kept {handle skip enough u} (hu : selectVictims s handle skip enough = some u) (h : Kept b s) : Kept b u.1 := by
  simp only [selectVictims] at hu
  split at hu
  · cases hu
  · exact chooseVictims_kept hu h

theorem startSwapOut_kept {j stream seq forCmd} (h : Kept b s) : Kept b (startSwapOut s j stream seq forCmd) := with_kept (modSession_kept h)
theorem hbmWrite_kept {j a bs} (h : Kept b s) : Kept b (hbmWrite s j a bs) := with_kept h
theorem giveUpReturn_kept {x} (h : Kept b s) : Kept b (giveUpReturn s x) := modSession_kept (releaseAll_kept h)

theorem closeSession_kept {j} (h : Kept b s) : Kept b (closeSession s j) := by
  unfold closeSession
  dsimp only
  split
  · exact h
  · exact with_kept (releaseAll_kept h)

theorem killSession_kept {j status} (h : Kept b s) : Kept b (killSession s j status) := modSession_kept h

/-! ### The intake -/

theorem arrive_kept {c off bytes} (h : Kept b s) : Kept b (arrive s c off bytes) := takePackets_kept (modStream_kept h)
@[simp] theorem execPacketBlockWrite_kept {stream viaStandby off bytes} : KeptBy s (execPacketBlockWrite stream viaStandby off bytes s) :=
  next_kept (ite_kept (.refl s) (ite_kept (ignored_kept (.refl s)) (ite_kept (.refl s) (ite_kept (with_kept (.refl s)) (arrive_kept (leaveIdle_kept
    (.refl s)))))))
@[simp] theorem execStallTimeout_kept {stream} : KeptBy s (execStallTimeout stream s) := next_kept (ite_kept (haltStream_kept (.refl s)) (.refl s))
@[simp] theorem execResync_kept {stream viaStandby value} : KeptBy s (execResync stream viaStandby value s) :=
  next_kept (ite_kept (.refl s) (ite_kept (ignored_kept (.refl s)) (takePackets_kept (writeHeader_kept (fset_kept (fset_kept (fset_kept
    (modStream_kept (ite_kept (.refl s) (ignored_kept (.refl s)))))))))))
@[simp] theorem execRingEnable_kept {stream viaStandby value} : KeptBy s (execRingEnable stream viaStandby value s) :=
  next_kept (ite_kept (.refl s) (ite_kept (ignored_kept (.refl s)) (ite_kept (ite_kept (ite_kept (ignored_kept (.refl s)) (.refl s)) (fset_kept
    (ite_kept (ignored_kept (.refl s)) (.refl s)))) (ite_kept (takePackets_kept (writeHeader_kept (modStream_kept (fset_kept (ite_kept (ite_kept
    (ignored_kept (.refl s)) (.refl s)) (fset_kept (ite_kept (ignored_kept (.refl s)) (.refl s)))))))) (fset_kept (ite_kept (ite_kept (ignored_kept
    (.refl s)) (.refl s)) (fset_kept (ite_kept (ignored_kept (.refl s)) (.refl s)))))))))
@[simp] theorem execIrqModerationTimeout_kept {stream} : KeptBy s (execIrqModerationTimeout stream s) :=
  next_kept (ite_kept (raiseVector0_kept (.refl s)) (.refl s))

@[simp] theorem execCommandBegin_kept : KeptBy s (execCommandBegin s) := by
  refine next_kept ?_
  split
  · exact (.refl s)
  · split
    · exact finish_kept (.refl s)
    · exact modCmd_kept (.refl s)

theorem sealCmd_kept {k} (h : Kept b s) : Kept b (sealCmd s k) := writeRecord_kept (modCmd_kept h)
theorem releaseAborts_kept {k} (h : Kept b s) : Kept b (releaseAborts s k) := foldl_kept (fun _ _ h => modCmd_kept h) h

@[simp] theorem execCommandSeal_kept {stream seq} : KeptBy s (execCommandSeal stream seq s) := by
  refine next_kept ?_
  split
  · exact (.refl s)
  · exact takePackets_kept (releaseAborts_kept (sealCmd_kept (.refl s)))

@[simp] theorem execSessionOpen_kept {stream seq} : KeptBy s (execSessionOpen stream seq s) := by
  refine next_kept ?_
  dsimp only
  split
  · exact (.refl s)
  · exact ite_kept (finish_kept (.refl s)) (finish_kept (ite_kept (sendDispatch_kept (with_kept (.refl s))) (with_kept (.refl s))))

@[simp] theorem execSessionClose_kept {stream seq} : KeptBy s (execSessionClose stream seq s) := by
  refine next_kept ?_
  dsimp only
  split
  · exact (.refl s)
  · refine finish_kept (modCmd_kept (closeSession_kept ?_))
    split
    · exact sendDispatch_kept (.refl s)
    · exact (.refl s)

@[simp] theorem execTokensCmd_kept {stream seq f} : KeptBy s (execTokensCmd stream seq f s) := by
  refine next_kept ?_
  dsimp only
  split
  · exact (.refl s)
  · split
    · exact finish_kept (.refl s)
    · exact ite_kept (finish_kept (.refl s)) (modCmd_kept (.refl s))

@[simp] theorem execStepCmd_kept {stream seq} : KeptBy s (execStepCmd stream seq s) := by
  refine next_kept ?_
  dsimp only
  split
  · exact (.refl s)
  · exact ite_kept (.refl s) (ite_kept (modCmd_kept (modCmd_kept (with_kept (writeEntries_kept (.refl s))))) (modCmd_kept (with_kept
      (writeEntries_kept (.refl s)))))

@[simp] theorem execRecipeSet_kept {stream seq} : KeptBy s (execRecipeSet stream seq s) := by
  refine next_kept ?_
  dsimp only
  split
  · exact (.refl s)
  · exact ite_kept (finish_kept (.refl s)) (ite_kept (finish_kept (.refl s)) (ite_kept (finish_kept (.refl s)) (finish_kept (with_kept (foldl_kept
      (fun _ _ h => sendDispatch_kept h) (.refl s))))))

@[simp] theorem execPriorityChange_kept {stream seq} : KeptBy s (execPriorityChange stream seq s) := by
  refine next_kept ?_
  split
  · exact (.refl s)
  · exact finish_kept (modCarrel_kept (.refl s))

theorem stopReturns_kept {k} (h : Kept b s) : Kept b (stopReturns s k) := by
  unfold stopReturns
  refine foldl_kept (fun _ _ h => ?_) h
  split
  · exact giveUpReturn_kept h
  · exact h

theorem stopTarget_kept {k} (h : Kept b s) : Kept b (stopTarget s k) := ite_kept (modCmd_kept (stopReturns_kept h)) (modCmd_kept (stopReturns_kept h))
theorem freeScratch_kept {r} (h : Kept b s) : Kept b (freeScratch s r) := with_kept h
theorem endRun_kept {stream seq} (h : Kept b s) : Kept b (endRun s stream seq) := with_kept (foldl_kept (fun _ _ h => freeScratch_kept h) h)

@[simp] theorem execAbortCmd_kept {stream seq} : KeptBy s (execAbortCmd stream seq s) := by
  refine next_kept ?_
  dsimp only
  split
  · exact (.refl s)
  · split
    · exact finish_kept (.refl s)
    · exact ite_kept (finish_kept (.refl s)) (ite_kept (modCmd_kept (.refl s)) (modCmd_kept (modCmd_kept (ite_kept (endRun_kept (stopTarget_kept
        (.refl s))) (.refl s)))))

@[simp] theorem execFenceCmd_kept {stream seq} : KeptBy s (execFenceCmd stream seq s) := by
  refine next_kept ?_
  split
  · exact (.refl s)
  · exact ite_kept (finish_kept (.refl s)) (.refl s)

/-! ### Fault signatures -/

theorem fsrEmit_kept {kind keys} (h : Kept b s) : Kept b (fsrEmit s kind keys) := withCon_kept h
theorem poisonNoted_kept {obj} (h : Kept b s) : Kept b (poisonNoted obj s) := annal_kept h
theorem shelfFsr_kept {shelf} (h : Kept b s) : Kept b (shelfFsr s shelf) := fsrEmit_kept h
theorem hallFsr_kept {hall region} (h : Kept b s) : Kept b (hallFsr s hall region) := fsrEmit_kept h
theorem poisonOrigin_kept {shelf} (h : Kept b s) : Kept b (poisonOrigin s shelf) := poisonNoted_kept (shelfFsr_kept h)
theorem poisonHbm_kept {hall region} (h : Kept b s) : Kept b (poisonHbm s hall region) := poisonNoted_kept (hallFsr_kept h)

/-! ### Sessions and comets -/

theorem forkPages_kept {parent child n} (h : Kept b s) : Kept b (forkPages s parent child n) := by
  unfold forkPages
  dsimp only
  split
  · exact modSession_kept (foldl_kept (fun _ _ h => modPage_kept h) (releaseAll_kept h))
  · exact h

@[simp] theorem execPageFork_kept {stream seq} : KeptBy s (execPageFork stream seq s) := by
  refine next_kept ?_
  dsimp only
  split
  · exact (.refl s)
  · exact ite_kept (finish_kept (forkPages_kept (.refl s))) (finish_kept (.refl s))

theorem keepPages_kept {x keep} (h : Kept b s) : Kept b (keepPages s x keep) :=
  modSession_kept (foldl_kept (fun _ _ h => modPage_kept h) (foldl_kept (fun _ _ h => releasePage_kept h) h))

@[simp] theorem execPageRelease_kept {stream seq} : KeptBy s (execPageRelease stream seq s) := by
  refine next_kept ?_
  split
  · exact (.refl s)
  · split
    · exact finish_kept (.refl s)
    · exact ite_kept (finish_kept (.refl s)) (ite_kept (finish_kept (.refl s)) (finish_kept (keepPages_kept (.refl s))))

theorem addEntry_kept {k e} (h : Kept b s) : Kept b (addEntry s k e) := modCmd_kept (writeEntries_kept h)
theorem refuseSession_kept {k j status} (h : Kept b s) : Kept b (refuseSession s k j status) :=
  ite_kept (finish_kept h) (ite_kept h (addEntry_kept h))
theorem refuseWaiters_kept {j status} (h : Kept b s) : Kept b (refuseWaiters s j status) := foldl_kept (fun _ _ h => refuseSession_kept h) h
theorem swapRecord_kept {x step cause} (h : Kept b s) : Kept b (swapRecord s x step cause) := annal_kept h
theorem swapFailed_kept {x step cause} (h : Kept b s) : Kept b (swapFailed s x step cause) :=
  foldl_kept (fun _ _ h => ite_kept (finish_kept (freeDraw_kept h)) (modCmd_kept h)) (with_kept (modSession_kept (swapRecord_kept h)))
theorem becomeComet_kept {x} (h : Kept b s) : Kept b (becomeComet s x) :=
  foldl_kept (fun _ _ h => finish_kept h) (with_kept (ite_kept (fbump_kept (modSession_kept (releaseAll_kept h))) (modSession_kept
    (releaseAll_kept h))))

@[simp] theorem execSwapOut_kept {stream seq} : KeptBy s (execSwapOut stream seq s) := by
  refine next_kept ?_
  split
  · exact .refl s
  · split
    · exact .refl s
    · refine ite_kept (.refl s) (ite_kept (.refl s) ?_)
      split
      · exact .refl s
      · next hres => exact startSwapOut_kept (reserveExtent_kept hres (.refl s))

@[simp] theorem execSwapOutFlushReadDone_kept {session f} : KeptBy s (execSwapOutFlushReadDone session f s) := by
  refine next_kept ?_
  dsimp only
  split
  · exact (.refl s)
  · split
    · exact ite_kept (swapFailed_kept (.refl s)) (modSession_kept (dmaWrite_kept (dmaWrite_kept (.refl s))))
    · exact ite_kept (.refl s) (swapFailed_kept (.refl s))

@[simp] theorem execSwapOutColophonReadDone_kept {session f} : KeptBy s (execSwapOutColophonReadDone session f s) := by
  refine next_kept ?_
  split
  · exact (.refl s)
  · exact ite_kept (.refl s) (ite_kept (swapFailed_kept (.refl s)) (ite_kept (becomeComet_kept (.refl s)) (swapFailed_kept (.refl s))))

theorem failSwaps_kept (h : Kept b s) : Kept b (failSwaps s) := foldl_kept (fun _ _ h => swapFailed_kept h) h
theorem startReturn_kept {j} (h : Kept b s) : Kept b (startReturn s j) := modSession_kept h

@[simp] theorem execSwapIn_kept {stream seq} : KeptBy s (execSwapIn stream seq s) := by
  refine next_kept ?_
  split
  · exact (.refl s)
  · split
    · exact finish_kept (.refl s)
    · exact ite_kept (finish_kept (.refl s)) (ite_kept (startReturn_kept (.refl s)) (.refl s))

theorem allocReturn_kept {x u} (hu : allocReturn s x = some u) (h : Kept b s) : Kept b u := by
  refine foldOpt_kept (fun t q u hu ht => ?_) hu h
  obtain ⟨r, hr, rfl⟩ := Option.map_eq_some_iff.1 hu
  exact modSession_kept (allocPage_kept hr ht)

theorem returnDies_kept {x step cause} (h : Kept b s) : Kept b (returnDies s x step cause) :=
  refuseWaiters_kept (killSession_kept (giveUpReturn_kept (swapRecord_kept h)))
theorem returnFails_kept {x} (h : Kept b s) : Kept b (returnFails s x) := refuseWaiters_kept (giveUpReturn_kept h)
theorem returnReadFailed_kept {x cause} (h : Kept b s) : Kept b (returnReadFailed s x cause) :=
  ite_kept (returnFails_kept (swapRecord_kept h)) (modSession_kept h)

theorem restorePage_kept {j p data} (h : Kept b s) : Kept b (restorePage s j p data) := by
  unfold restorePage
  dsimp only
  split
  · exact h
  · exact ite_kept (spoilLines_kept (foldl_fst_kept (fun _ _ h => hbmWrite_kept h) h)) (foldl_fst_kept (fun _ _ h => hbmWrite_kept h) h)

theorem restoreBody_kept {x bs} (h : Kept b s) : Kept b (restoreBody s x bs) := foldl_fst_kept (fun _ _ h => restorePage_kept h) h
theorem becomeResident_kept {x} (h : Kept b s) : Kept b (becomeResident s x) :=
  foldl_kept (fun _ _ h => finish_kept h) (ite_kept (fbump_kept (modSession_kept h)) (modSession_kept h))

theorem colophonRead_kept {x bs} (h : Kept b s) : Kept b (colophonRead s x bs) := by
  refine ite_kept (returnDies_kept h) ?_
  split
  · next halloc => exact modSession_kept (allocReturn_kept halloc h)
  · refine ite_kept h ?_
    dsimp only
    split
    · next hvictims _ => exact foldl_kept (fun _ _ h => startSwapOut_kept h) (selectVictims_kept hvictims h)
    · exact returnFails_kept h

@[simp] theorem execCometReturnReadDone_kept {session f} : KeptBy s (execCometReturnReadDone session f s) := by
  refine next_kept ?_
  split
  · exact (.refl s)
  · split
    · exact ite_kept (colophonRead_kept (.refl s)) (ite_kept (becomeResident_kept (restoreBody_kept (.refl s))) (returnDies_kept (.refl s)))
    · exact returnDies_kept (.refl s)
    · exact ite_kept (.refl s) (returnReadFailed_kept (.refl s))

@[simp] theorem execCompletionTimeout_kept {session} : KeptBy s (execCompletionTimeout session s) := by
  refine next_kept ?_
  split
  · exact (.refl s)
  · exact ite_kept (returnReadFailed_kept (.refl s)) (ite_kept (swapFailed_kept (.refl s)) (.refl s))

theorem poisonPage_kept {j e} (h : Kept b s) : Kept b (poisonPage s j e) := annal_kept (ite_kept (modPage_kept h) (fbump_kept (modPage_kept h)))
theorem spoilTables_kept {hall line} (h : Kept b s) : Kept b (spoilTables s hall line) := poisonHbm_kept (with_kept h)
theorem keepFinding_kept {line} (h : Kept b s) : Kept b (keepFinding line s) := with_kept h

@[simp] theorem execPatrolScrub_kept {hall addr} : KeptBy s (execPatrolScrub hall addr s) := by
  refine next_kept ?_
  dsimp only
  refine ite_kept (.refl s) (ite_kept (spoilTables_kept (.refl s)) (keepFinding_kept ?_))
  split
  · exact poisonHbm_kept (spoilLine_kept (.refl s))
  · exact foldl_kept (fun _ _ h => poisonPage_kept h) (hallFsr_kept (spoilLine_kept (.refl s)))

/-! ### Folios -/

theorem putKhat_kept {k xs} (h : Kept b s) : Kept b (putKhat s k xs) := with_kept h
theorem putOffs_kept {k xs} (h : Kept b s) : Kept b (putOffs s k xs) := with_kept h
theorem restartWindow_kept {k} (h : Kept b s) : Kept b (restartWindow s k) := with_kept h
theorem switchBank_kept {k} (h : Kept b s) : Kept b (switchBank s k) :=
  restartWindow_kept (fbump_kept (modFolio_kept (putOffs_kept (putKhat_kept h))))
theorem modLedger_kept {shelf c f} (h : Kept b s) : Kept b (modLedger s shelf c f) := with_kept h
theorem countWindow_kept {key p bs rows cs} (h : Kept b s) : Kept b (countWindow s key p bs rows cs) :=
  ite_kept (ite_kept (with_kept (with_kept h)) (with_kept (with_kept h))) (with_kept h)
theorem countSat_kept {key region layer cs} (h : Kept b s) : Kept b (countSat s key region layer cs) :=
  ite_kept (annal_kept (with_kept (fbump_kept h))) (with_kept (fbump_kept h))

/-! ### Faults -/

theorem fsr_kept {kind region keys} (h : Kept b s) : Kept b (fsr s kind region keys) := fsrEmit_kept h
theorem detectRecord_kept {obj code a1 a2} (h : Kept b s) : Kept b (detectRecord s obj code a1 a2) := annal_kept h
theorem taintReport_kept {t last final action} (h : Kept b s) : Kept b (taintReport s t last final action) :=
  detectRecord_kept (fsr_kept (withCon_kept (foldl_kept (fun _ _ h => dmaWrite_kept h) h)))
theorem openTaint_kept {t} (h : Kept b s) : Kept b (openTaint s t) := taintReport_kept (withCon_kept h)
theorem endTaints_kept {p last action} (h : Kept b s) : Kept b (endTaints s p last action) :=
  foldl_kept (fun _ _ h => taintReport_kept h) (withCon_kept h)
theorem modRotation_kept {j f} (h : Kept b s) : Kept b (modRotation s j f) := withCon_kept h
theorem proveFirst_kept {j units} (h : Kept b s) : Kept b (proveFirst s j units) := modRotation_kept h

theorem sendDetection_kept {cls region stage first last} (h : Kept b s) : Kept b (sendDetection s cls region stage first last) := by
  unfold sendDetection
  dsimp only
  refine ite_kept h (ite_kept ?_ (sendFault_kept h))
  split
  · exact sendFault_kept (foldl_kept (fun _ _ h => sendFault_kept h) h)
  · exact foldl_kept (fun _ _ h => sendFault_kept h) h

theorem announce_kept {cls region stage start} (h : Kept b s) : Kept b (announce s cls region stage start) := sendDetection_kept h

theorem noteDetection_kept {j region stage bit} (h : Kept b s) : Kept b (noteDetection s j region stage bit) := by
  unfold noteDetection
  dsimp only
  refine ite_kept ?_ (with_kept ?_)
  · split <;> exact fset_kept (fset_kept (fset_kept (fbump_kept h)))
  · split <;> exact fset_kept (fset_kept (fset_kept (fbump_kept h)))

/-! ### Adapters -/

theorem modLoan_kept {c a f} (h : Kept b s) : Kept b (modLoan s c a f) := with_kept h

theorem makeLoanRoom_kept {c need fuel u} (hu : makeLoanRoom c need fuel s = some u) (h : Kept b s) : Kept b u := by
  induction fuel generalizing s with
  | zero => cases hu
  | succ fuel ih =>
    simp only [makeLoanRoom] at hu
    split at hu
    · cases hu
      exact h
    · split at hu
      · cases hu
      · exact ih hu h

theorem holdLoan_kept {region c a} (h : Kept b s) : Kept b (holdLoan s region c a) := by
  -- The free pages are named, not computed: the kernel would evaluate the whole page table.
  obtain ⟨home, hhome⟩ : ∃ home, homePages = home := ⟨_, rfl⟩
  rw [holdLoan, hhome]
  split
  · exact h
  · refine ite_kept h ?_
    split
    · exact h
    · next hroom =>
      split
      · exact h
      · split
        · exact h
        · exact modLoan_kept (makeLoanRoom_kept hroom h)

theorem askStages_kept {region c a want} (h : Kept b s) : Kept b (askStages s region c a want) := modLoan_kept (holdLoan_kept h)
theorem modStage_kept {c a st f} (h : Kept b s) : Kept b (modStage s c a st f) := modLoan_kept h

theorem issueOn_kept {fn} (h : Kept b s) : Kept b (issueOn fn s) := by
  unfold issueOn
  dsimp only
  refine ite_kept h ?_
  split
  · exact h
  · exact modStage_kept h

theorem issueFetches_kept (h : Kept b s) : Kept b (issueFetches s) := issueOn_kept (issueOn_kept h)
theorem rerouteLoans_kept (h : Kept b s) : Kept b (rerouteLoans s) := with_kept h

theorem retryLoans_kept (h : Kept b s) : Kept b (retryLoans s) := by
  unfold retryLoans
  refine issueFetches_kept (foldl_kept (fun _ _ h => ?_) h)
  split
  · exact holdLoan_kept h
  · exact h

theorem setBinding_kept {j bs} (h : Kept b s) : Kept b (setBinding s j bs) := modSession_kept h
theorem sweepLoans_kept (h : Kept b s) : Kept b (sweepLoans s) := retryLoans_kept (with_kept h)

@[simp] theorem execAdapterBind_kept {stream seq f} : KeptBy s (execAdapterBind stream seq f s) := by
  refine next_kept ?_
  dsimp only
  split
  · exact (.refl s)
  · split
    · exact finish_kept (.refl s)
    · refine ite_kept (ite_kept (finish_kept (sweepLoans_kept (setBinding_kept (.refl s)))) (finish_kept (.refl s))) (ite_kept (.refl s) (ite_kept
        (finish_kept (.refl s)) ?_))
      split
      · refine ite_kept (modCmd_kept (issueFetches_kept (askStages_kept (setBinding_kept ?_)))) (finish_kept (issueFetches_kept (askStages_kept
          (setBinding_kept ?_))))
        · split
          · exact ite_kept (.refl s) (with_kept (.refl s))
          · exact with_kept (.refl s)
        · split
          · exact ite_kept (.refl s) (with_kept (.refl s))
          · exact with_kept (.refl s)
      · exact (.refl s)

theorem finishWaits_kept {c a} (h : Kept b s) : Kept b (finishWaits s c a) := ite_kept (foldl_kept (fun _ _ h => finish_kept (modCmd_kept h)) h) h

@[simp] theorem execAdapterFetchComplete_kept {carrel adapter stage f} : KeptBy s (execAdapterFetchComplete carrel adapter stage f s) := by
  refine next_kept ?_
  dsimp only
  split
  · exact (.refl s)
  · split
    · exact ite_kept (retryLoans_kept (finishWaits_kept (modStage_kept (.refl s)))) (.refl s)
    · exact ite_kept (.refl s) (ite_kept (modStage_kept (.refl s)) (retryLoans_kept (finishWaits_kept (annal_kept (fbump_kept (modStage_kept
        (.refl s)))))))

theorem askLayer_kept {p layer} (h : Kept b s) : Kept b (askLayer s p layer) := by
  unfold askLayer
  refine issueFetches_kept (foldl_kept (fun _ _ h => ?_) h)
  split
  · exact h
  · exact ite_kept h (askStages_kept h)

theorem useLoans_kept {p} (h : Kept b s) : Kept b (useLoans s p) := by
  unfold useLoans
  dsimp only
  refine foldl_kept (fun _ _ h => ?_) h
  split
  · exact h
  · exact modLoan_kept (ite_kept h (fbump_kept h))

theorem undoMark_kept {m} (h : Kept b s) : Kept b (undoMark s m) := modPage_kept (with_kept h)
theorem dropLate_kept {r layer j} (h : Kept b s) : Kept b (dropLate s r layer j) :=
  annal_kept (fbump_kept (modPass_kept (foldl_kept (fun _ _ h => undoMark_kept h) h)))

/-! ### Passes -/

theorem countOutliers_kept {p x} (h : Kept b s) : Kept b (countOutliers s p x) :=
  withCon_kept (foldl_kept (fun _ _ h => fbump_kept (fbump_kept (fbump_kept h))) h)
theorem modScribe_kept {shelf f} (h : Kept b s) : Kept b (modScribe s shelf f) := with_kept h

theorem readyJob_kept {shelf j} (h : Kept b s) : Kept b (readyJob s shelf j) := by
  unfold readyJob
  split
  · exact modScribe_kept h
  · exact h

theorem readyStage_kept {p st} (h : Kept b s) : Kept b (readyStage s p st) :=
  foldl_kept (fun _ _ h => foldl_kept (fun _ _ h => readyJob_kept h) h) (foldl_kept (fun _ _ h => readyJob_kept (readyJob_kept h)) h)
theorem readySample_kept {p st} (h : Kept b s) : Kept b (readySample s p st) :=
  ite_kept (foldl_kept (fun _ _ h => foldl_kept (fun _ _ h => readyJob_kept h) h) h) h

theorem dropUnready_kept {r layer} (h : Kept b s) : Kept b (dropUnready s r layer) := by
  unfold dropUnready
  split
  · exact h
  · exact ite_kept (foldl_kept (fun _ _ h => dropLate_kept h) h) h

theorem modTile_kept {shelf t f} (h : Kept b s) : Kept b (modTile s shelf t f) := with_kept h
theorem modHall_kept {j f} (h : Kept b s) : Kept b (modHall s j f) := with_kept h
theorem showPeriod_kept {j floor} (h : Kept b s) : Kept b (showPeriod s j floor) := fset_kept h
theorem countLocal_kept {p shelf c slot key v rows cs} (h : Kept b s) : Kept b (countLocal s p shelf c slot key v rows cs) :=
  ite_kept h (withCon_kept h)
theorem switchAtVector_kept {x key v} (h : Kept b s) : Kept b (switchAtVector s x key v) := ite_kept (switchBank_kept h) h

theorem strikeOne_kept {p x bs shelf slot key} (h : Kept b s) : Kept b (strikeOne s p x bs shelf slot key) := by
  unfold strikeOne
  dsimp only
  split
  · exact h
  · exact ite_kept h (showPeriod_kept (countLocal_kept (countWindow_kept (countSat_kept (modPass_kept (with_kept (modLedger_kept
      (switchAtVector_kept h))))))))

@[simp] theorem execStrike_kept {shelf pos} : KeptBy s (execStrike shelf pos s) := by
  refine next_kept ?_
  refine ite_kept (.refl s) ?_
  split
  · exact strikeOne_kept (.refl s)
  · exact (.refl s)

/-! ### Collectives -/

theorem putColl_kept {c} (h : Kept b s) : Kept b (putColl s c) := with_kept h
theorem sendFragment_kept {n tag src f} (h : Kept b s) : Kept b (sendFragment s n tag src f) := sendTxn_kept (freeDraw_kept h)
theorem sendRuns_kept {ports tag runs} (h : Kept b s) : Kept b (sendRuns s ports tag runs) :=
  ite_kept h (foldl_kept (fun _ _ h => sendFragment_kept h) h)
theorem sendMembers_kept {ms tag runs} (h : Kept b s) : Kept b (sendMembers s ms tag runs) := foldl_kept (fun _ _ h => sendRuns_kept h) h
theorem putOut_kept {r st q v ys} (h : Kept b s) : Kept b (putOut s r st q v ys) := modPass_kept h
theorem completeColl_kept {c} (h : Kept b s) : Kept b (completeColl s c) := with_kept (foldl_kept (fun _ _ h => sendMsg_kept h) (putColl_kept h))
theorem putOuts_kept {p st adapt ys} (h : Kept b s) : Kept b (putOuts s p st adapt ys).1 := foldl_fst_kept (fun _ _ h => putOut_kept h) h

theorem reduceStep_kept {p st mask c0} (h : Kept b s) : Kept b (reduceStep s p st mask c0) := by
  unfold reduceStep
  dsimp only
  split
  · exact putColl_kept h
  · refine ite_kept h (ite_kept (putColl_kept h) (ite_kept (putColl_kept h) (ite_kept (completeColl_kept (sendMembers_kept (putOuts_kept h))) ?_)))
    split
    · exact putColl_kept (ite_kept h (sendRuns_kept h))
    · exact completeColl_kept (putOuts_kept (ite_kept h (sendRuns_kept h)))

theorem gatherStep_kept {p st mask c} (h : Kept b s) : Kept b (gatherStep s p st mask c) := by
  unfold gatherStep
  dsimp only
  split
  · exact putColl_kept h
  · exact ite_kept h (ite_kept (completeColl_kept (foldl_kept (fun _ _ h => putOut_kept h) (ite_kept h (sendMembers_kept h)))) (putColl_kept
      (ite_kept h (sendMembers_kept h))))

theorem transitOutStep_kept {p st mask c} (h : Kept b s) : Kept b (transitOutStep s p st mask c) := by
  unfold transitOutStep
  refine ite_kept h ?_
  split
  · exact putColl_kept h
  · exact putColl_kept (sendRuns_kept h)

theorem transitInStep_kept {p c} (h : Kept b s) : Kept b (transitInStep s p c) :=
  ite_kept (completeColl_kept (ite_kept (putColl_kept (sendMembers_kept h)) (putColl_kept h))) (ite_kept (putColl_kept (sendMembers_kept h))
    (putColl_kept h))

theorem syncPass_kept {r} (h : Kept b s) : Kept b (syncPass s r) := by
  unfold syncPass
  dsimp only
  split
  · exact h
  · refine ite_kept h ?_
    split
    · exact ite_kept (transitInStep_kept h) h
    · refine foldl_kept (fun _ _ h => ?_) (ite_kept (transitInStep_kept h) h)
      split
      · exact h
      · split
        · exact reduceStep_kept h
        · exact gatherStep_kept h
        · exact ite_kept (transitOutStep_kept h) h

theorem fragArrive_kept {tag src off xs} (h : Kept b s) : Kept b (fragArrive s tag src off xs) :=
  foldl_kept (fun _ _ h => syncPass_kept h) (putColl_kept h)

@[simp] theorem execCollectiveTimeout_kept {tag} : KeptBy s (execCollectiveTimeout tag s) := by
  refine next_kept ?_
  dsimp only
  split
  · exact (.refl s)
  · exact ite_kept (.refl s) (ite_kept (.refl s) (syncPass_kept (poisonNoted_kept (fsrEmit_kept (fbump_kept (putColl_kept (freeDraw_kept
      (.refl s))))))))

/-! ### Reduction trees -/

@[simp] theorem execLayerBegin_kept {region bad} : KeptBy s (execLayerBegin region bad s) := by
  refine next_kept ?_
  dsimp only
  split
  · exact (.refl s)
  · split
    · exact (.refl s)
    · split
      · exact ite_kept (dropUnready_kept (.refl s)) (.refl s)
      · refine ite_kept (ite_kept (dropUnready_kept (.refl s)) (.refl s)) ?_
        split
        · exact ite_kept (dropUnready_kept (.refl s)) (.refl s)
        · exact syncPass_kept (ite_kept (askLayer_kept (readySample_kept (readyStage_kept (modPass_kept (countOutliers_kept (ite_kept (ite_kept
            (dropUnready_kept (.refl s)) (.refl s)) (poisonOrigin_kept (ite_kept (dropUnready_kept (.refl s)) (.refl s))))))))) (readySample_kept
            (readyStage_kept (modPass_kept (countOutliers_kept (ite_kept (ite_kept (dropUnready_kept (.refl s)) (.refl s)) (poisonOrigin_kept
            (ite_kept (dropUnready_kept (.refl s)) (.refl s)))))))))

@[simp] theorem execHoldBudgetExhausted_kept {region} : KeptBy s (execHoldBudgetExhausted region s) := by
  refine next_kept ?_
  split
  · exact (.refl s)
  · split
    · exact (.refl s)
    · exact ite_kept (.refl s) (dropUnready_kept (modPass_kept (.refl s)))

theorem settleOut_kept {r st q v} (h : Kept b s) : Kept b (settleOut s r st q v) := by
  unfold settleOut
  split
  · exact h
  · split
    · exact ite_kept (syncPass_kept h) (ite_kept h (syncPass_kept (putOut_kept h)))
    · exact h

theorem settleStage_kept {r st} (h : Kept b s) : Kept b (settleStage s r st) := by
  unfold settleStage
  split
  · exact h
  · refine foldl_kept (fun _ _ h => ?_) h
    split
    · exact ite_kept (settleOut_kept h) h
    · exact h

theorem archiveError_kept {r shelf} (h : Kept b s) : Kept b (archiveError s r shelf) := modAcc_kept (poisonHbm_kept h)

theorem exitToTile_kept {carrel shelf into l} (h : Kept b s) : Kept b (exitToTile s carrel shelf into l) := by
  unfold exitToTile
  split
  · exact h
  · exact ite_kept h (modTile_kept h)

@[simp] theorem execShelfExit_kept {shelf c w} : KeptBy s (execShelfExit shelf c w s) := by
  refine next_kept ?_
  dsimp only
  split
  · exact (.refl s)
  · split
    · exact (.refl s)
    · split
      · exact ite_kept (settleOut_kept (modLedger_kept (modPass_kept (exitToTile_kept (ite_kept (poisonOrigin_kept (ite_kept (archiveError_kept
          (.refl s)) (.refl s))) (ite_kept (archiveError_kept (.refl s)) (.refl s))))))) (.refl s)
      · exact (.refl s)

theorem putNode_kept {r key ys} (h : Kept b s) : Kept b (putNode s r key ys) := modPass_kept h

@[simp] theorem execReductionAdd_kept {region stage group vec hall level i} : KeptBy s (execReductionAdd region stage group vec hall level i s) := by
  refine next_kept ?_
  dsimp only
  split
  · exact (.refl s)
  · split
    · exact (.refl s)
    · exact ite_kept (settleOut_kept (putNode_kept (.refl s))) (.refl s)

@[simp] theorem execWideMerge_kept {region stage group vec} : KeptBy s (execWideMerge region stage group vec s) := by
  refine next_kept ?_
  dsimp only
  split
  · exact (.refl s)
  · split
    · exact (.refl s)
    · exact ite_kept (settleOut_kept (putNode_kept (.refl s))) (.refl s)

/-! ### Dispatch of passes -/

theorem openPass_kept {r stream cmd number passId hs vecs} (h : Kept b s) : Kept b (openPass s r stream cmd number passId hs vecs) :=
  askLayer_kept (askLayer_kept (useLoans_kept (withCon_kept (foldl_kept (fun _ _ h => modSession_kept h) (with_kept h)))))
theorem takeNumber_kept {c} (h : Kept b s) : Kept b (takeNumber s c).2 := fset_kept (modCarrel_kept h)

theorem refuseUnfit_kept {c seq hs} (h : Kept b s) : Kept b (refuseUnfit s c seq hs) := by
  unfold refuseUnfit
  refine foldl_kept (fun _ _ h => ?_) h
  split
  · exact h
  · refine ite_kept h ?_
    split
    · exact refuseSession_kept h
    · exact h

theorem growAll_kept {c seq hs} (h : Kept b s) : Kept b (growAll s c seq hs).1 := by
  induction hs generalizing s with
  | nil => exact h
  | cons x xs ih =>
    unfold growAll
    split
    · exact h
    · split
      · next hgrow => exact ih (growSession_kept hgrow h)
      · split
        · next hvictims => exact foldl_kept (fun _ _ h => startSwapOut_kept h) (selectVictims_kept hvictims h)
        · exact ih (refuseSession_kept h)

theorem launch_kept {k r hs} (h : Kept b s) : Kept b (launch s k r hs) :=
  ite_kept (modCmd_kept (openPass_kept (takeNumber_kept h))) (sendDispatch_kept (with_kept (modCmd_kept (openPass_kept (takeNumber_kept h)))))

/-! ### Orbits -/

theorem popFlit_kept {n vc} (h : Kept b s) : Kept b (popFlit s n vc) := by
  unfold popFlit
  split
  · exact h
  · exact modPort_kept h

theorem onMsg_kept {n typ op} {f : State → Nat → Bytes → State} (hf : ∀ t m bs, Kept b t → Kept b (f t m bs)) (h : Kept b s) :
    KeptBy b (onMsg s n typ op f) := by
  refine next_kept ?_
  split
  · exact h
  · exact ite_kept (hf _ _ _ (popFlit_kept h)) h

theorem setOrbState_kept {x} (h : Kept b s) : Kept b (setOrbState s x) := fset_kept h
theorem refreshOnline_kept (h : Kept b s) : Kept b (refreshOnline s) := with_kept h
theorem orbitDeaths_kept {p} (h : Kept b s) : Kept b (orbitDeaths s p) := foldl_kept (fun _ _ h => killSession_kept h) h

theorem setHeir_kept {j} (h : Kept b s) : Kept b (setHeir s j) := by
  unfold setHeir
  dsimp only
  split
  · exact fset_kept (fset_kept (with_kept h))
  · exact fset_kept (with_kept h)

theorem setAdmitted_kept {m} (h : Kept b s) : Kept b (setAdmitted s m) := refreshOnline_kept (setHeir_kept (fset_kept h))
theorem isolate_kept (h : Kept b s) : Kept b (isolate s) :=
  orbitDeaths_kept (setAdmitted_kept (setHeir_kept (with_kept (fset_kept (setOrbState_kept (foldl_kept (fun _ _ h => modPort_kept h) h))))))
theorem sendJoin_kept {n} (h : Kept b s) : Kept b (sendJoin s n) := sendMsg_kept h

theorem admitPort_kept {n} (h : Kept b s) : Kept b (admitPort s n) := by
  unfold admitPort
  dsimp only
  refine pump_kept ?_
  split
  · exact fset_kept (modPort_kept h)
  · exact modPort_kept h

theorem admitMoons_kept (h : Kept b s) : Kept b (admitMoons s) := by
  unfold admitMoons
  refine foldl_kept (fun _ _ h => ?_) h
  split
  · exact ite_kept (admitPort_kept h) h
  · exact h

theorem seekAdmission_kept {n} (h : Kept b s) : Kept b (seekAdmission s n) :=
  ite_kept h (ite_kept (ite_kept (admitMoons_kept h) (sendJoin_kept (admitMoons_kept h))) h)
theorem sendAdmit_kept {n} (h : Kept b s) : Kept b (sendAdmit s n) := sendMsg_kept h
theorem refuseRecord_kept {n reason} (h : Kept b s) : Kept b (refuseRecord s n reason) := ite_kept h (annal_kept h)

@[simp] theorem execJoinMsg_kept {port} : KeptBy s (execJoinMsg port s) := by
  unfold execJoinMsg
  dsimp only
  refine onMsg_kept (fun _ _ _ h => ?_) (.refl s)
  split
  · exact sendMsg_kept (refuseRecord_kept h)
  · exact ite_kept (foldl_kept (fun _ _ h => sendAdmit_kept h) (with_kept (setAdmitted_kept (setHeir_kept (admitPort_kept h))))) (refreshOnline_kept
      (sendAdmit_kept (admitPort_kept h)))

theorem compareHeir_kept {j n} (h : Kept b s) : Kept b (compareHeir s j n) := ite_kept (annal_kept (fset_kept h)) (fset_kept h)
theorem rebindHeir_kept (h : Kept b s) : Kept b (rebindHeir s) := ite_kept (setHeir_kept h) (ite_kept (compareHeir_kept h) h)
theorem takeHeir_kept {j n} (h : Kept b s) : Kept b (takeHeir s j n) := compareHeir_kept (setHeir_kept h)
@[simp] theorem execAdmitMsg_kept {port} : KeptBy s (execAdmitMsg port s) :=
  onMsg_kept (fun _ _ _ h => ite_kept h (ite_kept (ite_kept (ite_kept (isolate_kept h) h) (refreshOnline_kept (admitMoons_kept (setAdmitted_kept
    (admitPort_kept (takeHeir_kept (setAdmitted_kept (setOrbState_kept (fset_kept h))))))))) (refreshOnline_kept (admitPort_kept h)))) (.refl s)
@[simp] theorem execRefuseMsg_kept {port} : KeptBy s (execRefuseMsg port s) :=
  onMsg_kept (fun _ _ _ h => refuseRecord_kept (modPort_kept h)) (.refl s)
@[simp] theorem execOrbitRejoin_kept : KeptBy s (execOrbitRejoin s) :=
  next_kept (ite_kept (.refl s) (foldl_kept (fun _ _ h => ite_kept h (seekAdmission_kept h)) (ite_kept (with_kept (setOrbState_kept (fset_kept
    (.refl s)))) (fset_kept (.refl s)))))
theorem modOrb_kept {id r f} (h : Kept b s) : Kept b (modOrb s id r f) := with_kept h

theorem growShare_kept {hs} (h : Kept b s) : Kept b (growShare s hs).1 := by
  refine foldl_fst_kept (fun p x h => ?_) h
  split
  · exact h
  · split
    · exact h
    · split
      · next hgrow => exact growSession_kept hgrow h
      · exact h

theorem beginShare_kept {x} (h : Kept b s) : Kept b (beginShare s x) := modOrb_kept (modPass_kept (openPass_kept (growShare_kept (with_kept h))))

theorem nextShare_kept {r} (h : Kept b s) : Kept b (nextShare s r) := by
  unfold nextShare
  refine ite_kept h ?_
  split
  · exact beginShare_kept h
  · exact h

theorem releaseShares_kept (h : Kept b s) : Kept b (releaseShares s) := foldl_kept (fun _ _ h => nextShare_kept h) h

theorem takeDispatch_kept {tokens bs} (h : Kept b s) : Kept b (takeDispatch s tokens bs) := by
  unfold takeDispatch
  dsimp only
  split
  · exact with_kept h
  · exact ite_kept h (with_kept h)
  · exact closeSession_kept h
  · refine nextShare_kept ?_
    split
    · exact modOrb_kept h
    · exact with_kept h

@[simp] theorem execDispatchMsg_kept {port tokens} : KeptBy s (execDispatchMsg port tokens s) :=
  onMsg_kept (fun _ _ _ h => ite_kept (takeDispatch_kept h) (ite_kept (takeDispatch_kept (foldl_kept (fun _ _ h => sendMsg_kept h) h)) h)) (.refl s)

@[simp] theorem execDoneMsg_kept {port} : KeptBy s (execDoneMsg port s) := by
  unfold execDoneMsg
  dsimp only
  refine onMsg_kept (fun _ _ _ h => ?_) (.refl s)
  split
  · exact h
  · exact ite_kept h (modOrb_kept (ite_kept (foldl_kept (fun _ _ h => killSession_kept h) h) h))

theorem sendUp_kept {body} (h : Kept b s) : Kept b (sendUp s body) := by
  unfold sendUp
  split
  · exact sendMsg_kept h
  · exact h

@[simp] theorem execResultMsg_kept {port} : KeptBy s (execResultMsg port s) := by
  unfold execResultMsg
  dsimp only
  refine onMsg_kept (fun _ _ _ h => ite_kept (sendUp_kept h) ?_) (.refl s)
  split
  · exact h
  · exact modOrb_kept h

theorem sendDone_kept {x} (h : Kept b s) : Kept b (sendDone s x) := foldl_kept (fun _ _ h => ite_kept (sendUp_kept h) (sendMsg_kept h)) h
theorem sendResults_kept {id es} (h : Kept b s) : Kept b (sendResults s id es) := foldl_kept (fun _ _ h => sendUp_kept h) h
theorem toMembers_kept {mask body} (h : Kept b s) : Kept b (toMembers s mask body) := foldl_kept (fun _ _ h => sendMsg_kept h) h
theorem dropMember_kept {m mask} (h : Kept b s) : Kept b (dropMember s m mask) :=
  orbitDeaths_kept (setAdmitted_kept (fset_kept (fbump_kept (ite_kept (setHeir_kept h) h))))
theorem primaryLoses_kept {m} (h : Kept b s) : Kept b (primaryLoses s m) :=
  ite_kept h (ite_kept (toMembers_kept (dropMember_kept h)) (isolate_kept (toMembers_kept h)))
theorem moonLosesPrimary_kept (h : Kept b s) : Kept b (moonLosesPrimary s) :=
  ite_kept (with_kept (orbitDeaths_kept h)) (with_kept (orbitDeaths_kept h))
theorem memberLost_kept {m} (h : Kept b s) : Kept b (memberLost s m) :=
  ite_kept (primaryLoses_kept (with_kept (fset_kept h))) (ite_kept (moonLosesPrimary_kept (with_kept (fset_kept h))) (with_kept (fset_kept h)))

theorem portLost_kept {n} (h : Kept b s) : Kept b (portLost s n) := by
  unfold portLost
  dsimp only
  refine ite_kept h ?_
  split
  · exact refreshOnline_kept (memberLost_kept h)
  · exact foldl_kept (fun _ _ h => foldl_kept (fun _ _ h => killSession_kept h) h) (refreshOnline_kept h)

theorem lossReported_kept {src p} (h : Kept b s) : Kept b (lossReported s src p) := ite_kept (with_kept h) h
@[simp] theorem execHeirConfirmTimeout_kept : KeptBy s (execHeirConfirmTimeout s) :=
  next_kept (ite_kept (.refl s) (ite_kept (toMembers_kept (refreshOnline_kept (setHeir_kept (dropMember_kept (fset_kept (setOrbState_kept (with_kept
    (.refl s)))))))) (isolate_kept (with_kept (.refl s)))))
@[simp] theorem execTakeoverWaitTimeout_kept : KeptBy s (execTakeoverWaitTimeout s) := next_kept (ite_kept (isolate_kept (.refl s)) (.refl s))
theorem follow_kept {rival quorum} (h : Kept b s) : Kept b (follow s rival quorum) := ite_kept (with_kept h) (isolate_kept (with_kept h))
@[simp] theorem execRemoveMsg_kept {port} : KeptBy s (execRemoveMsg port s) :=
  onMsg_kept (fun _ _ _ h => ite_kept h (ite_kept (isolate_kept h) (ite_kept (moonLosesPrimary_kept h) (ite_kept (follow_kept (dropMember_kept h))
    (dropMember_kept h))))) (.refl s)
@[simp] theorem execTakeoverMsg_kept {port} : KeptBy s (execTakeoverMsg port s) :=
  onMsg_kept (fun _ _ _ h => ite_kept h (ite_kept (ite_kept (isolate_kept h) h) (ite_kept h (foldl_kept (fun _ _ h => nextShare_kept h) (follow_kept
    (setHeir_kept (dropMember_kept (orbitDeaths_kept (with_kept (fset_kept h)))))))))) (.refl s)
@[simp] theorem execLeave_kept : KeptBy s (execLeave s) := next_kept (ite_kept (.refl s) (ite_kept (with_kept (.refl s)) (isolate_kept (.refl s))))

@[simp] theorem execPaceMsg_kept {port} : KeptBy s (execPaceMsg port s) := by
  unfold execPaceMsg
  dsimp only
  refine onMsg_kept (fun _ _ _ h => ite_kept h ?_) (.refl s)
  split
  · exact fbump_kept (with_kept h)
  · exact ite_kept (fbump_kept (with_kept h)) (foldl_kept (fun _ _ h => fbump_kept (with_kept (sendMsg_kept h))) (fbump_kept (with_kept h)))

@[simp] theorem execReportMsg_kept {port} : KeptBy s (execReportMsg port s) := onMsg_kept (fun _ _ _ h => ite_kept h (with_kept h)) (.refl s)
@[simp] theorem execLimitMsg_kept {port} : KeptBy s (execLimitMsg port s) :=
  onMsg_kept (fun _ _ _ h => ite_kept h (foldl_kept (fun _ _ h => modPass_kept h) (fbump_kept (with_kept h)))) (.refl s)
@[simp] theorem execReleaseMsg_kept {port} : KeptBy s (execReleaseMsg port s) := onMsg_kept (fun _ _ _ h => with_kept h) (.refl s)
@[simp] theorem execLimitHoldExpiry_kept : KeptBy s (execLimitHoldExpiry s) := next_kept (with_kept (.refl s))
@[simp] theorem execPowerReportTimer_kept : KeptBy s (execPowerReportTimer s) := next_kept (ite_kept (.refl s) (sendMsg_kept (.refl s)))

/-! ### Structure images -/

theorem imgRecord_kept {code serial sec} (h : Kept b s) : Kept b (imgRecord s code serial sec) := annal_kept h
theorem imgResult_kept {code serial sec} (h : Kept b s) : Kept b (imgResult s code serial sec) :=
  msix_kept (imgRecord_kept (fset_kept (fset_kept (fset_kept h))))
theorem imgRefuse_kept (h : Kept b s) : Kept b (imgRefuse s) := imgRecord_kept (fset_kept (fset_kept h))
theorem imgCommand_kept {tag} {run : State → State} (hrun : ∀ t, Kept b t → Kept b (run t)) (h : Kept b s) : Kept b (imgCommand s tag run) :=
  ite_kept h (ite_kept (imgRefuse_kept h) (hrun _ (fset_kept h)))

theorem showPending_kept (h : Kept b s) : Kept b (showPending s) := by
  unfold showPending
  split
  · exact rset_kept (fset_kept h)
  · exact fset_kept h

theorem withStore_kept {st} (h : Kept b s) : Kept b (withStore s st) := showPending_kept (with_kept h)
theorem writePending_kept {bs} (h : Kept b s) : Kept b (writePending s bs) := withStore_kept h
theorem recordIgnored_kept {bs} (h : Kept b s) : Kept b (recordIgnored s bs) := foldl_kept (fun _ _ h => annal_kept h) h

theorem storeRun_kept {f nandOk} (h : Kept b s) : Kept b (storeRun f nandOk s) := by
  unfold storeRun
  dsimp only
  split
  · exact imgResult_kept h
  · refine ite_kept (imgResult_kept h) ?_
    split
    · refine ite_kept (imgResult_kept h) ?_
      split
      · exact imgResult_kept h
      · exact ite_kept (imgResult_kept (recordIgnored_kept (writePending_kept h))) (imgResult_kept (writePending_kept h))
    · exact imgResult_kept h

@[simp] theorem execStore_kept {tag f nandOk} : KeptBy s (execStore tag f nandOk s) :=
  next_kept (imgCommand_kept (fun _ h => storeRun_kept h) (.refl s))
@[simp] theorem execDiscard_kept {tag} : KeptBy s (execDiscard tag s) :=
  next_kept (imgCommand_kept (fun _ h => imgResult_kept (writePending_kept h)) (.refl s))
@[simp] theorem execRaiseFloor_kept {tag nandOk} : KeptBy s (execRaiseFloor tag nandOk s) :=
  next_kept (imgCommand_kept (fun _ h => ite_kept (imgResult_kept h) (ite_kept (imgResult_kept h) (imgResult_kept (fset_kept (with_kept h)))))
    (.refl s))

@[simp] theorem execEnrolAnchor_kept {tag f nandOk} : KeptBy s (execEnrolAnchor tag f nandOk s) := by
  refine next_kept ?_
  dsimp only
  refine imgCommand_kept (fun _ h => ite_kept (imgResult_kept h) ?_) (.refl s)
  split
  · exact imgResult_kept h
  · exact ite_kept (imgResult_kept h) (imgResult_kept (fset_kept (with_kept h)))

theorem bindRun_kept (h : Kept b s) : Kept b (bindRun s) := by
  unfold bindRun
  dsimp only
  split
  · exact imgResult_kept h
  · exact ite_kept (imgResult_kept h) (ite_kept (imgResult_kept h) (ite_kept (imgResult_kept h) (fset_kept (with_kept h))))

@[simp] theorem execBind_kept {tag} : KeptBy s (execBind tag s) := next_kept (imgCommand_kept (fun _ h => bindRun_kept h) (.refl s))
@[simp] theorem execRevert_kept {tag} : KeptBy s (execRevert tag s) :=
  next_kept (imgCommand_kept (fun _ h => ite_kept (bindRun_kept h) (imgResult_kept h)) (.refl s))

@[simp] theorem execQuiesceTimeout_kept : KeptBy s (execQuiesceTimeout s) := by
  refine next_kept ?_
  dsimp only
  split
  · exact releaseShares_kept (imgResult_kept (with_kept (.refl s)))
  · split
    · exact ite_kept (.refl s) (fset_kept (fset_kept (fset_kept (withCon_kept (.refl s)))))
    · exact (.refl s)

/-! ### Vigilance -/

theorem modVig_kept {r f} (h : Kept b s) : Kept b (modVig s r f) := with_kept h
theorem detectS_kept {c fails tol} (h : Kept b s) : Kept b (detectS s c fails tol) :=
  withCon_kept (announce_kept (openTaint_kept (fsr_kept (annal_kept (fset_kept (fset_kept (fset_kept (fset_kept (noteDetection_kept h)))))))))
theorem dropCheck_kept {c} (h : Kept b s) : Kept b (dropCheck s c) := modVig_kept h
theorem discardCheck_kept {c} (h : Kept b s) : Kept b (discardCheck s c) := annal_kept (fbump_kept (dropCheck_kept h))
theorem poisonedEvent_kept {shelf region carrel passNo n} (h : Kept b s) : Kept b (poisonedEvent s shelf region carrel passNo n) := annal_kept h
theorem completeCheck_kept {c fails tol bad} (h : Kept b s) : Kept b (completeCheck s c fails tol bad) :=
  ite_kept (discardCheck_kept h) (ite_kept (withCon_kept (fbump_kept (dropCheck_kept h))) (ite_kept (poisonedEvent_kept (fbump_kept
    (dropCheck_kept h))) (detectS_kept (fbump_kept (dropCheck_kept h)))))

@[simp] theorem execClassSCheckDiscard_kept {region shelf} : KeptBy s (execClassSCheckDiscard region shelf s) := by
  refine next_kept ?_
  split
  · exact (.refl s)
  · exact discardCheck_kept (.refl s)

@[simp] theorem execVigilanceClear_kept {hall bits} : KeptBy s (execVigilanceClear hall bits s) :=
  next_kept (ite_kept (.refl s) (endTaints_kept (with_kept (ite_kept (fset_kept (ite_kept (fset_kept (ite_kept (fset_kept (.refl s)) (.refl s)))
    (ite_kept (fset_kept (.refl s)) (.refl s)))) (ite_kept (fset_kept (ite_kept (fset_kept (.refl s)) (.refl s))) (ite_kept (fset_kept (.refl s))
    (.refl s)))))))

/-! ### Programming -/

theorem endRequest_kept {k} (h : Kept b s) : Kept b (endRequest s k) := by
  unfold endRequest
  dsimp only
  split
  · exact ite_kept (with_kept h) h
  · exact h

theorem freeSpare_kept {k} (h : Kept b s) : Kept b (freeSpare s k) := withCon_kept h
theorem dropSweep_kept {k} (h : Kept b s) : Kept b (dropSweep s k) := restartWindow_kept (with_kept h)
theorem giveBack_kept {k} (h : Kept b s) : Kept b (giveBack s k) :=
  modFolio_kept (ite_kept (endRequest_kept (dropSweep_kept (toState_kept h))) (freeSpare_kept (endRequest_kept (dropSweep_kept (toState_kept h)))))
theorem forgetFolio_kept {k} (h : Kept b s) : Kept b (forgetFolio s k) := with_kept (putOffs_kept (putKhat_kept (dropSweep_kept h)))
theorem startProgram_kept {k region slot role e content p replaces} (h : Kept b s) : Kept b (startProgram s k region slot role e content p replaces) :=
  toState_kept (modFolio_kept (endRequest_kept (forgetFolio_kept h)))
theorem startCopy_kept {k spare p} (h : Kept b s) : Kept b (startCopy s k spare p) := startProgram_kept h
theorem abandonCopy_kept {c} (h : Kept b s) : Kept b (abandonCopy s c) := giveBack_kept h
theorem modGain_kept {shelf c f} (h : Kept b s) : Kept b (modGain s shelf c f) := with_kept h
theorem markFailed_kept {ks} (h : Kept b s) : Kept b (markFailed s ks) := foldl_kept (fun _ _ h => modFolio_kept h) h
theorem deriveGain_kept {shelf c} (h : Kept b s) : Kept b (deriveGain s shelf c) := modGain_kept (markFailed_kept h)
theorem deriveGains_kept {r} (h : Kept b s) : Kept b (deriveGains s r) := foldl_kept (fun _ _ h => foldl_kept (fun _ _ h => deriveGain_kept h) h) h
theorem enterServing_kept {k} (h : Kept b s) : Kept b (enterServing s k) := restartWindow_kept (modFolio_kept (toState_kept h))

/-! ### Accession -/

theorem accNote_kept {r code m} (h : Kept b s) : Kept b (accNote s r code m) := ite_kept (modAcc_kept h) (annal_kept (modAcc_kept h))
theorem accDone_kept {seq r code m} (h : Kept b s) : Kept b (accDone s seq r code m) := finish_kept (accNote_kept h)
theorem armTimer_kept {r} (h : Kept b s) : Kept b (armTimer s r) := modAcc_kept h

@[simp] theorem execAccBegin_kept {seq f} : KeptBy s (execAccBegin seq f s) := by
  refine next_kept ?_
  dsimp only
  split
  · exact (.refl s)
  · refine accDone_kept (armTimer_kept ?_)
    split
    · exact modAcc_kept (.refl s)
    · exact (.refl s)

theorem abandonIncoming_kept {r} (h : Kept b s) : Kept b (abandonIncoming s r) := foldl_kept (fun _ _ h => ite_kept (giveBack_kept h) h) h
theorem releaseAcc_kept {r code} (h : Kept b s) : Kept b (releaseAcc s r code) := foldl_kept (fun _ _ h => accDone_kept h) h
theorem endAcc_kept {r code ph} (h : Kept b s) : Kept b (endAcc s r code ph) := modAcc_kept (abandonIncoming_kept (releaseAcc_kept h))
theorem failAcc_kept {r code told} (h : Kept b s) : Kept b (failAcc s r code told) := endAcc_kept (ite_kept h (accNote_kept h))
theorem abandonRehousing_kept {r} (h : Kept b s) : Kept b (abandonRehousing s r) := modAcc_kept (abandonIncoming_kept h)

theorem moveTargets_kept {r named u} (hu : moveTargets s r named = some u) (h : Kept b s) : Kept b u := by
  obtain ⟨x, -, rfl⟩ := Option.map_eq_some_iff.1 hu
  exact modAcc_kept (foldl_kept (fun _ _ h => giveBack_kept h) h)

theorem retarget_kept {r k} (h : Kept b s) : Kept b (retarget s r k) := by
  unfold retarget
  dsimp only
  split
  · exact h
  · refine ite_kept (abandonRehousing_kept h) ?_
    split
    · next hmoved =>
      split at hmoved
      · cases hmoved
      · obtain ⟨t, -, ht⟩ := Option.bind_eq_some_iff.1 hmoved
        exact moveTargets_kept ht h
    · exact failAcc_kept h

@[simp] theorem execAccShard_kept {seq} : KeptBy s (execAccShard seq s) := by
  refine next_kept ?_
  dsimp only
  split
  · exact (.refl s)
  · split
    · exact accDone_kept (.refl s)
    · exact ite_kept (accDone_kept (.refl s)) (ite_kept (accDone_kept (.refl s)) (armTimer_kept (modAcc_kept (.refl s))))

theorem shardVerified_kept {r i bs} (h : Kept b s) : Kept b (shardVerified s r i bs) :=
  ite_kept (failAcc_kept (foldl_kept (fun _ _ h => accDone_kept h) (modAcc_kept h))) (ite_kept (modAcc_kept (foldl_kept
    (fun _ _ h => accDone_kept h) (modAcc_kept h))) (armTimer_kept (foldl_kept (fun _ _ h => accDone_kept h) (modAcc_kept h))))

@[simp] theorem execShardFetchComplete_kept {region index f} : KeptBy s (execShardFetchComplete region index f s) := by
  refine next_kept ?_
  dsimp only
  split
  · split
    · exact ite_kept (shardVerified_kept (.refl s)) (ite_kept (modAcc_kept (.refl s)) (failAcc_kept (.refl s)))
    · exact ite_kept (modAcc_kept (.refl s)) (failAcc_kept (.refl s))
    · exact ite_kept (modAcc_kept (.refl s)) (failAcc_kept (.refl s))
    · exact (.refl s)
    · exact (.refl s)
  · exact (.refl s)

@[simp] theorem execShardTimeout_kept {region} : KeptBy s (execShardTimeout region s) :=
  next_kept (ite_kept (.refl s) (modAcc_kept (foldl_kept (fun _ _ h => accDone_kept h) (foldl_kept (fun _ _ h => accDone_kept h) (.refl s)))))

@[simp] theorem execAccCommit_kept {seq} : KeptBy s (execAccCommit seq s) := by
  refine next_kept ?_
  dsimp only
  split
  · exact (.refl s)
  · exact ite_kept (modAcc_kept (.refl s)) (accDone_kept (.refl s))

@[simp] theorem execAccCancel_kept {seq} : KeptBy s (execAccCancel seq s) := by
  refine next_kept ?_
  dsimp only
  split
  · exact (.refl s)
  · exact ite_kept (accDone_kept (endAcc_kept (.refl s))) (ite_kept (accDone_kept (modAcc_kept (.refl s))) (ite_kept (finish_kept (.refl s))
      (accDone_kept (.refl s))))

theorem flipAccession_kept {r} (h : Kept b s) : Kept b (flipAccession s r) :=
  foldl_kept (fun _ _ h => finish_kept h) (reloadPrograms_kept (modVig_kept (deriveGains_kept (foldl_kept (fun _ _ h => enterServing_kept h)
    (modAcc_kept (foldl_kept (fun _ _ h => giveBack_kept h) (foldl_kept (fun _ _ h => abandonCopy_kept h) h)))))))
theorem flipRehousing_kept {r} (h : Kept b s) : Kept b (flipRehousing s r) :=
  reloadPrograms_kept (deriveGains_kept (foldl_kept (fun _ _ h => enterServing_kept h) (modAcc_kept (foldl_kept (fun _ _ h => giveBack_kept h) h))))

@[simp] theorem execArchiveCopyFree_kept {region} : KeptBy s (execArchiveCopyFree region s) := by
  refine next_kept ?_
  split
  · exact (.refl s)
  · exact ite_kept (modAcc_kept (.refl s)) (.refl s)

theorem programTarget_kept {r a t} (h : Kept b s) : Kept b (programTarget s r a t) := by
  unfold programTarget
  dsimp only
  split
  · exact h
  · exact startProgram_kept h

@[simp] theorem execFolioProgramStart_kept {hall} : KeptBy s (execFolioProgramStart hall s) :=
  next_kept (ite_kept (.refl s) (foldl_kept (fun _ _ h => programTarget_kept h) (.refl s)))
theorem loseFolio_kept {k} (h : Kept b s) : Kept b (loseFolio s k) :=
  ite_kept (retarget_kept (modFolio_kept (dropSweep_kept (toState_kept h)))) (ite_kept (modFolio_kept (modFolio_kept (dropSweep_kept
    (toState_kept h)))) (modFolio_kept (dropSweep_kept (toState_kept h))))
@[simp] theorem execFolioProgramDone_kept {shelf pos cells} : KeptBy s (execFolioProgramDone shelf pos cells s) :=
  next_kept (ite_kept (.refl s) (ite_kept (toState_kept (modFolio_kept (with_kept (.refl s)))) (loseFolio_kept (modFolio_kept (with_kept
    (.refl s))))))

@[simp] theorem execWearLevel_kept {shelf pos} : KeptBy s (execWearLevel shelf pos s) := by
  refine next_kept ?_
  dsimp only
  split
  · exact (.refl s)
  · exact ite_kept (startCopy_kept (modFolio_kept (.refl s))) (.refl s)

/-! ### Attention -/

theorem buildTables_kept {hs} (h : Kept b s) : Kept b (buildTables hs s) := with_kept h

theorem appendHead_kept {p x a isV pos kv head} (h : Kept b s) : Kept b (appendHead s p x a isV pos kv head) := by
  unfold appendHead
  split
  · exact h
  · dsimp only
    exact modPass_kept (fbump_kept (fbump_kept (fbump_kept (modPage_kept
      (ite_kept (spoilLines_kept (ite_kept (hbmWrite_kept h) (fbump_kept (hbmWrite_kept h)))) (hbmWrite_kept h))))))

theorem kvAppend_kept {r st j} (h : Kept b s) : Kept b (kvAppend s r st j) := by
  unfold kvAppend
  dsimp only
  split
  · exact ite_kept h (modPass_kept (modPass_kept (foldl_kept (fun _ _ h => foldl_kept (fun _ _ h => appendHead_kept (appendHead_kept h)) h) h)))
  · exact h

theorem finishAttn_kept {j} (h : Kept b s) : Kept b (finishAttn s j) := by
  unfold finishAttn
  dsimp only
  split
  · exact h
  · split
    · exact modPass_kept h
    · exact h

@[simp] theorem execAttentionMerge_kept {region stage session tile kv} : KeptBy s (execAttentionMerge region stage session tile kv s) := by
  refine next_kept ?_
  dsimp only
  split
  · exact (.refl s)
  · refine ite_kept (.refl s) ?_
    split
    · exact (.refl s)
    · split
      · exact (.refl s)
      · exact modPass_kept (.refl s)

/-! ### Power -/

theorem learnPhase_kept {r tag j p u d} (h : Kept b s) : Kept b (learnPhase s r tag j p u d) := with_kept h
theorem markThrottled_kept {j} (h : Kept b s) : Kept b (markThrottled s j) := with_kept h
theorem showReasons_kept (h : Kept b s) : Kept b (showReasons s) := fset_kept h
theorem refreshHall_kept {j} (h : Kept b s) : Kept b (refreshHall s j) :=
  showReasons_kept (ite_kept (fset_kept (fset_kept (modHall_kept (foldl_kept (fun _ _ h => annal_kept h) h)))) (markThrottled_kept (fset_kept
    (fset_kept (modHall_kept (foldl_kept (fun _ _ h => annal_kept h) h))))))
theorem requestPoint_kept {j p} (h : Kept b s) : Kept b (requestPoint s j p) := ite_kept (modHall_kept h) (ite_kept (modHall_kept h) (modHall_kept h))

theorem startQueued_kept {j} (h : Kept b s) : Kept b (startQueued s j) := by
  unfold startQueued
  split
  · exact ite_kept (requestPoint_kept h) h
  · exact h

theorem pointDone_kept {j} (h : Kept b s) : Kept b (pointDone s j) := with_kept (modHall_kept h)
@[simp] theorem execVoltageSlewDone_kept {hall} : KeptBy s (execVoltageSlewDone hall s) :=
  next_kept (ite_kept (.refl s) (ite_kept (modHall_kept (.refl s)) (startQueued_kept (pointDone_kept (.refl s)))))
@[simp] theorem execPllRelockDone_kept {hall} : KeptBy s (execPllRelockDone hall s) :=
  next_kept (ite_kept (.refl s) (ite_kept (modHall_kept (modHall_kept (fset_kept (.refl s)))) (startQueued_kept (pointDone_kept (modHall_kept
    (fset_kept (.refl s)))))))
theorem cutAll_kept (h : Kept b s) : Kept b (cutAll s) := foldl_kept (fun _ _ h => refreshHall_kept h) (foldl_kept (fun _ _ h => modHall_kept h) h)
theorem brokerHall_kept {m j} (h : Kept b s) : Kept b (brokerHall s m j) := fset_kept (with_kept (modHall_kept h))
theorem noteBinding_kept {j} (h : Kept b s) : Kept b (noteBinding s j) := modHall_kept h

theorem drivePoint_kept {j} (h : Kept b s) : Kept b (drivePoint s j) := by
  unfold drivePoint
  refine startQueued_kept ?_
  split
  · exact requestPoint_kept h
  · exact h

theorem noteExcursion_kept (h : Kept b s) : Kept b (noteExcursion s) :=
  ite_kept (ite_kept (cutAll_kept (ite_kept (fbump_kept (with_kept h)) (with_kept h))) (ite_kept (fbump_kept (with_kept h)) (with_kept h)))
    (ite_kept (foldl_kept (fun _ _ h => modHall_kept h) (with_kept h)) (with_kept h))
@[simp] theorem execBrokerCycle_kept {m} : KeptBy s (execBrokerCycle m s) :=
  next_kept (ite_kept (.refl s) (foldl_kept (fun _ _ h => drivePoint_kept (noteBinding_kept h)) (foldl_kept (fun _ _ h => refreshHall_kept h)
    (noteExcursion_kept (foldl_kept (fun _ _ h => brokerHall_kept h) (fset_kept (fset_kept (fset_kept (with_kept (.refl s))))))))))
@[simp] theorem execExcursionCut_kept : KeptBy s (execExcursionCut s) := next_kept (ite_kept (.refl s) (cutAll_kept (.refl s)))
@[simp] theorem execCapWrite_kept {standby width value} : KeptBy s (execCapWrite standby width value s) :=
  next_kept (ite_kept (.refl s) (ite_kept (ignored_kept (.refl s)) (ite_kept (with_kept (rset_kept (ite_kept (ignored_kept (.refl s)) (.refl s))))
    (rset_kept (ite_kept (ignored_kept (.refl s)) (.refl s))))))

@[simp] theorem execHintCmd_kept {stream seq} : KeptBy s (execHintCmd stream seq s) := by
  refine next_kept ?_
  dsimp only
  split
  · exact (.refl s)
  · exact ite_kept (finish_kept (.refl s)) (ite_kept (finish_kept (with_kept (.refl s))) (foldl_kept (fun _ _ h => drivePoint_kept h) (finish_kept
      (with_kept (.refl s)))))

@[simp] theorem execHintWindowOpen_kept {carrel region tag} : KeptBy s (execHintWindowOpen carrel region tag s) :=
  next_kept (ite_kept (.refl s) (with_kept (.refl s)))

@[simp] theorem execHintWindowEnd_kept {carrel region tag} : KeptBy s (execHintWindowEnd carrel region tag s) := by
  refine next_kept ?_
  dsimp only
  split
  · exact (.refl s)
  · exact ite_kept (with_kept (.refl s)) (fbump_kept (with_kept (.refl s)))

theorem showTemp_kept {j t} (h : Kept b s) : Kept b (showTemp s j t) := fset_kept h
@[simp] theorem execThermalStep_kept {hall measured} : KeptBy s (execThermalStep hall measured s) :=
  next_kept (ite_kept (.refl s) (refreshHall_kept (ite_kept (ite_kept (modHall_kept (showTemp_kept (.refl s))) (modHall_kept (showTemp_kept
    (.refl s)))) (ite_kept (ite_kept (modHall_kept (showTemp_kept (.refl s))) (modHall_kept (showTemp_kept (.refl s)))) (showTemp_kept (.refl s))))))
@[simp] theorem execDroopDetect_kept {hall} : KeptBy s (execDroopDetect hall s) :=
  next_kept (ite_kept (.refl s) (refreshHall_kept (fbump_kept (modHall_kept (.refl s)))))
@[simp] theorem execDroopClear_kept {hall} : KeptBy s (execDroopClear hall s) :=
  next_kept (ite_kept (.refl s) (refreshHall_kept (modHall_kept (.refl s))))
@[simp] theorem execHourCount_kept : KeptBy s (execHourCount s) := next_kept (ite_kept (.refl s) (foldl_kept (fun _ _ h => with_kept h) (.refl s)))

/-! ### Collation -/

theorem countWide_kept {k} (h : Kept b s) : Kept b (countWide s k) := by
  unfold countWide
  dsimp only
  split
  · exact h
  · exact ite_kept (foldl_kept (fun _ _ h => modFolio_kept h) (foldl_kept (fun _ _ h => modGain_kept h) h)) (foldl_kept
      (fun _ _ h => modGain_kept h) h)

theorem noteLimits_kept {k bs} (h : Kept b s) : Kept b (noteLimits s k bs) := ite_kept (modFolio_kept h) h

theorem issueUpdate_kept {k gains offsets} (h : Kept b s) : Kept b (issueUpdate s k gains offsets) := by
  unfold issueUpdate
  dsimp only
  split
  · exact noteLimits_kept (ite_kept (foldl_kept (fun _ _ h => modGain_kept h) (markFailed_kept (with_kept (modFolio_kept (modFolio_kept h)))))
      (with_kept (modFolio_kept (modFolio_kept h))))
  · exact h

@[simp] theorem execTapUpdate_kept {shelf pos gains offsets} : KeptBy s (execTapUpdate shelf pos gains offsets s) :=
  next_kept (ite_kept (issueUpdate_kept (.refl s)) (.refl s))
@[simp] theorem execBankSwitch_kept {shelf pos} : KeptBy s (execBankSwitch shelf pos s) := next_kept (ite_kept (switchBank_kept (.refl s)) (.refl s))
theorem applyGain_kept {j c} (h : Kept b s) : Kept b (applyGain s j c) := modGain_kept h
theorem applyCoupled_kept {r} (h : Kept b s) : Kept b (applyCoupled s r) :=
  foldl_kept (fun _ _ h => foldl_kept (fun _ _ h => applyGain_kept h) h) (foldl_kept (fun _ _ h => switchBank_kept h) h)
theorem rescaleFolio_kept {k old new} (h : Kept b s) : Kept b (rescaleFolio s k old new) :=
  noteLimits_kept (fbump_kept (modFolio_kept (putKhat_kept h)))

theorem carryGain_kept {before after ks old new hall c} (h : Kept b s) : Kept b (carryGain before after ks old new s hall c) := by
  unfold carryGain
  exact ite_kept h (modGain_kept (markFailed_kept h))

theorem rescaleRegion_kept {r j old new} (h : Kept b s) : Kept b (rescaleRegion s r j old new) := by
  unfold rescaleRegion
  exact foldl_kept (fun _ _ h => restartWindow_kept h) (foldl_kept (fun _ _ h => carryGain_kept h) (foldl_kept (fun _ _ h => rescaleFolio_kept h)
    (foldl_kept (fun _ _ h => switchBank_kept h) h)))

theorem keepFit_kept {k x khat offs temp} (h : Kept b s) : Kept b (keepFit s k x khat offs temp) :=
  countWide_kept (with_kept (putOffs_kept (putKhat_kept h)))
@[simp] theorem execPassiveWindowEnd_kept {shelf pos power} : KeptBy s (execPassiveWindowEnd shelf pos power s) :=
  next_kept (ite_kept (.refl s) (keepFit_kept (with_kept (.refl s))))
theorem engineStrike_kept {k rows} (h : Kept b s) : Kept b (engineStrike s k rows).2 := showPeriod_kept (countSat_kept (with_kept h))
@[simp] theorem execActiveSweep_kept {shelf pos} : KeptBy s (execActiveSweep shelf pos s) :=
  next_kept (ite_kept (.refl s) (with_kept (engineStrike_kept (ite_kept (.refl s) (modFolio_kept (.refl s))))))
theorem retrim_kept {k j target} (h : Kept b s) : Kept b (retrim s k j target) := with_kept (modFolio_kept h)

theorem momentsOf_kept {k bs} (h : Kept b s) : Kept b (momentsOf s k bs).2 := by
  unfold momentsOf
  generalize List.range 2048 = l
  refine foldl_snd_kept (fun _ _ h => ?_) h
  dsimp only
  exact engineStrike_kept h

theorem recordMoments_kept {k} (h : Kept b s) : Kept b (recordMoments s k) := by
  unfold recordMoments
  dsimp only
  split
  · exact h
  · exact with_kept (momentsOf_kept h)

theorem putAlpha_kept {k temp alpha} (h : Kept b s) : Kept b (putAlpha s k temp alpha) := by
  unfold putAlpha
  dsimp only
  split
  · exact h
  · exact ite_kept h (with_kept h)

theorem collateFit_kept {k fits temp trims} (h : Kept b s) : Kept b (collateFit s k fits temp trims) :=
  ite_kept (recordMoments_kept (modFolio_kept (noteLimits_kept (switchBank_kept (modFolio_kept (foldl_kept (fun _ _ h => ite_kept (retrim_kept h) h)
    (with_kept (putOffs_kept (putKhat_kept h))))))))) (ite_kept (loseFolio_kept (markFailed_kept (noteLimits_kept (switchBank_kept (modFolio_kept
    (foldl_kept (fun _ _ h => ite_kept (retrim_kept h) h) (with_kept (putOffs_kept (putKhat_kept h))))))))) (noteLimits_kept (switchBank_kept
    (modFolio_kept (foldl_kept (fun _ _ h => ite_kept (retrim_kept h) h) (with_kept (putOffs_kept (putKhat_kept h))))))))

theorem endSweepRequest_kept {k} (h : Kept b s) : Kept b (endSweepRequest s k) := by
  unfold endSweepRequest
  split
  · exact ite_kept (endRequest_kept h) h
  · exact h

@[simp] theorem execSweepFit_kept {shelf pos trims targets alpha} : KeptBy s (execSweepFit shelf pos trims targets alpha s) := by
  refine next_kept ?_
  dsimp only
  split
  · exact (.refl s)
  · exact ite_kept (collateFit_kept (modFolio_kept (endSweepRequest_kept (putAlpha_kept (with_kept (.refl s)))))) (ite_kept (ite_kept (keepFit_kept
      (modFolio_kept (endSweepRequest_kept (putAlpha_kept (with_kept (.refl s)))))) (issueUpdate_kept (keepFit_kept (modFolio_kept
      (endSweepRequest_kept (putAlpha_kept (with_kept (.refl s)))))))) (modFolio_kept (endSweepRequest_kept (putAlpha_kept (with_kept (.refl s))))))

@[simp] theorem execTempSample_kept {hall temp} : KeptBy s (execTempSample hall temp s) :=
  next_kept (foldl_kept (fun _ _ h => foldl_kept (fun _ _ h => modGain_kept h) h) (with_kept (.refl s)))
theorem writeCheckpoint_kept {nandOk} (h : Kept b s) : Kept b (writeCheckpoint s nandOk) := with_kept h
@[simp] theorem execTapCheckpointTimer_kept {nandOk} : KeptBy s (execTapCheckpointTimer nandOk s) :=
  next_kept (ite_kept (.refl s) (writeCheckpoint_kept (.refl s)))
theorem deferArchive_kept {k act} (h : Kept b s) : Kept b (deferArchive s k act) := ite_kept h (annal_kept (with_kept h))
theorem undefer_kept {k} (h : Kept b s) : Kept b (undefer s k) := with_kept h

@[simp] theorem execDeepCollation_kept {shelf pos} : KeptBy s (execDeepCollation shelf pos s) := by
  refine next_kept ?_
  dsimp only
  refine ite_kept (.refl s) (ite_kept (deferArchive_kept (.refl s)) (ite_kept (.refl s) ?_))
  split
  · exact (.refl s)
  · exact startCopy_kept (undefer_kept (.refl s))

@[simp] theorem execDriftRefresh_kept {shelf pos} : KeptBy s (execDriftRefresh shelf pos s) := by
  refine next_kept ?_
  dsimp only
  refine ite_kept (.refl s) (ite_kept (deferArchive_kept (.refl s)) (ite_kept (.refl s) ?_))
  split
  · exact (.refl s)
  · exact startCopy_kept (undefer_kept (.refl s))

theorem markRefresh_kept {k hours} (h : Kept b s) : Kept b (markRefresh s k hours) := by
  unfold markRefresh
  dsimp only
  split
  · exact modFolio_kept (modFolio_kept h)
  · exact modFolio_kept h

theorem checkDrift_kept {k} (h : Kept b s) : Kept b (checkDrift s k) := ite_kept (markRefresh_kept h) h
theorem hourOf_kept {temps k} (h : Kept b s) : Kept b (hourOf temps s k) :=
  ite_kept (annal_kept (ite_kept (annal_kept (ite_kept (modFolio_kept (modFolio_kept h)) (checkDrift_kept (modFolio_kept h)))) (ite_kept
    (modFolio_kept (modFolio_kept h)) (checkDrift_kept (modFolio_kept h))))) (ite_kept (annal_kept (ite_kept (modFolio_kept (modFolio_kept h))
    (checkDrift_kept (modFolio_kept h)))) (ite_kept (modFolio_kept (modFolio_kept h)) (checkDrift_kept (modFolio_kept h))))
@[simp] theorem execDriftHourlyUpdate_kept {temps} : KeptBy s (execDriftHourlyUpdate temps s) :=
  next_kept (ite_kept (.refl s) (foldl_kept (fun _ _ h => hourOf_kept h) (.refl s)))
theorem requestResult_kept {hall code} (h : Kept b s) : Kept b (requestResult s hall code) := fset_kept h

theorem request_kept {hall tag cmd fault} {accept : State → Nat → State} (haccept : ∀ t k, Kept b t → Kept b (accept t k)) (h : Kept b s) :
    Kept b (request s hall tag cmd fault accept) := by
  unfold request
  refine ite_kept h (ite_kept (requestResult_kept h) ?_)
  dsimp only
  split
  · exact requestResult_kept h
  · exact haccept _ _ (with_kept (fset_kept (requestResult_kept h)))

@[simp] theorem execReqSweep_kept {hall tag} : KeptBy s (execReqSweep hall tag s) := next_kept (request_kept (fun _ _ h => modFolio_kept h) (.refl s))
@[simp] theorem execReqDeep_kept {hall tag} : KeptBy s (execReqDeep hall tag s) := next_kept (request_kept (fun _ _ h => modFolio_kept h) (.refl s))
@[simp] theorem execReqRefresh_kept {hall tag} : KeptBy s (execReqRefresh hall tag s) :=
  next_kept (request_kept (fun _ _ h => markRefresh_kept h) (.refl s))
@[simp] theorem execReqCheckpoint_kept {hall tag nandOk} : KeptBy s (execReqCheckpoint hall tag nandOk s) :=
  next_kept (ite_kept (.refl s) (ite_kept (requestResult_kept (.refl s)) (writeCheckpoint_kept (fset_kept (requestResult_kept (.refl s))))))

theorem flipCopies_kept {r} (h : Kept b s) : Kept b (flipCopies s r) := by
  unfold flipCopies
  dsimp only
  refine foldl_kept (fun _ _ h => ?_) h
  split
  · refine foldl_kept (fun _ _ h => deriveGain_kept h) ?_
    split
    · exact fbump_kept (enterServing_kept (ite_kept (giveBack_kept h) h))
    · exact fbump_kept (enterServing_kept (ite_kept (giveBack_kept h) h))
    · exact enterServing_kept (ite_kept (giveBack_kept h) h)
  · split
    · exact fbump_kept (enterServing_kept (ite_kept (giveBack_kept h) h))
    · exact fbump_kept (enterServing_kept (ite_kept (giveBack_kept h) h))
    · exact enterServing_kept (ite_kept (giveBack_kept h) h)

theorem bootFit_kept {hours k} (h : Kept b s) : Kept b (bootFit hours s k) := by
  unfold bootFit
  dsimp only
  split
  · exact h
  · exact checkDrift_kept (modFolio_kept (with_kept (putOffs_kept (putKhat_kept (momentsOf_kept h)))))

theorem bootTaps_kept {k} (h : Kept b s) : Kept b (bootTaps s k) := by
  unfold bootTaps
  exact ite_kept (modFolio_kept h) (countWide_kept (noteLimits_kept (switchBank_kept (modFolio_kept (modFolio_kept h)))))

theorem showReady_kept (h : Kept b s) : Kept b (showReady s) := ite_kept (fset_kept (fset_kept (fset_kept (fset_kept (fset_kept h))))) (fset_kept h)
@[simp] theorem execBootCollationComplete_kept {region hours temps} : KeptBy s (execBootCollationComplete region hours temps s) :=
  next_kept (ite_kept (.refl s) (showReady_kept (modAcc_kept (deriveGains_kept (foldl_kept (fun _ _ h => bootTaps_kept h) (foldl_kept
    (fun _ _ h => bootFit_kept h) (with_kept (.refl s))))))))

/-! ### Scribes -/

theorem writeStore_kept {shelf a bs bad} (h : Kept b s) : Kept b (writeStore s shelf a bs bad) := with_kept h
theorem writeScratch_kept {area a bs bad} (h : Kept b s) : Kept b (writeScratch s area a bs bad) := with_kept h

theorem putRow_kept {shelf j d row bs bad} (h : Kept b s) : Kept b (putRow s shelf j d row bs bad) := by
  unfold putRow
  split
  · exact writeScratch_kept h
  · exact writeScratch_kept h
  · split
    · exact appendHead_kept h
    · exact h
  · exact h

theorem spoilScratch_kept {area a} (h : Kept b s) : Kept b (spoilScratch s area a) := with_kept h

theorem rowError_kept {shelf j d row} (h : Kept b s) : Kept b (rowError s shelf j d row) := by
  unfold rowError
  dsimp only
  split
  · exact archiveError_kept h
  · split
    · exact archiveError_kept h
    · exact poisonHbm_kept h
  · exact poisonHbm_kept h
  · exact modLoan_kept (poisonHbm_kept h)
  · split
    · split
      · exact poisonPage_kept (spoilLines_kept (hallFsr_kept h))
      · exact h
    · exact h
  · exact poisonHbm_kept (spoilScratch_kept h)
  · exact poisonHbm_kept (spoilScratch_kept h)

theorem finishRun_kept {r status value} (h : Kept b s) : Kept b (finishRun s r status value) :=
  finish_kept (endRun_kept (ite_kept (foldl_kept (fun _ _ h => dmaWrite_kept h) h) h))

theorem sampleEnds_kept {shelf j} (h : Kept b s) : Kept b (sampleEnds s shelf j) := by
  unfold sampleEnds
  split
  · exact h
  · exact ite_kept (modPass_kept h) h

theorem afterJob_kept {shelf j} (h : Kept b s) : Kept b (afterJob s shelf j) :=
  ite_kept (settleStage_kept h) (ite_kept (finishAttn_kept h) (ite_kept (sampleEnds_kept h) h))

theorem haltJob_kept {shelf j} (h : Kept b s) : Kept b (haltJob s shelf j) := by
  unfold haltJob
  dsimp only
  split
  · exact ite_kept (finishRun_kept (with_kept (modScribe_kept h))) (with_kept (modScribe_kept h))
  · exact afterJob_kept (modScribe_kept h)

theorem progFault_kept {shelf p code} (h : Kept b s) : Kept b (progFault s shelf p code) := by
  unfold progFault
  dsimp only
  split
  · exact finishRun_kept (modScribe_kept (annal_kept (fset_kept (fset_kept (fset_kept (fset_kept h))))))
  · exact ite_kept (modScribe_kept (annal_kept (fset_kept (fset_kept (fset_kept (fset_kept h)))))) (afterJob_kept (modPass_kept (shelfFsr_kept
      (proveFirst_kept (modScribe_kept (annal_kept (fset_kept (fset_kept (fset_kept (fset_kept h))))))))))

theorem runInsn_kept {want body shelf} (hbody : ∀ i t, Kept b t → DidKept b (body i t)) (h : Kept b s) : KeptBy b (runInsn want body shelf s) := by
  refine next_kept ?_
  split
  · exact h
  · refine ite_kept h (ite_kept (progFault_kept h) (ite_kept h ?_))
    dsimp only
    split
    · exact progFault_kept h
    · refine ite_kept h ?_
      split
      · exact progFault_kept h
      · refine ite_kept h ?_
        split
        · exact progFault_kept h
        · exact h
        · next hdone => exact hbody _ _ (modScribe_kept h) _ hdone

theorem setX_kept {shelf n v} (h : Kept b s) : Kept b (setX s shelf n v) := modScribe_kept h
theorem putTile_kept {i cols f bad} (h : Kept b s) : Kept b (putTile s i cols f bad) := modTile_kept h

@[simp] theorem execGatherComplete_kept {m} : KeptBy s (execGatherComplete m s) := by
  refine next_kept ?_
  dsimp only
  split
  · exact (.refl s)
  · exact ite_kept (foldl_kept (fun _ _ h => writeStore_kept h) (foldl_kept (fun _ _ h => rowError_kept h) (modScribe_kept (.refl s)))) (foldl_kept
      (fun _ _ h => putRow_kept h) (modScribe_kept (.refl s)))

theorem takeJob_kept {shelf j} (h : Kept b s) : Kept b (takeJob s shelf j) := ite_kept (modPass_kept (modScribe_kept h)) (modScribe_kept h)

theorem stageCheck_kept {shelf c part} (h : Kept b s) : Kept b (stageCheck s shelf c part) := by
  unfold stageCheck
  exact writeStore_kept (writeStore_kept (writeStore_kept h))

theorem placeJob_kept {shelf j} (h : Kept b s) : Kept b (placeJob s shelf j) := by
  unfold placeJob
  split
  · exact modScribe_kept (writeStore_kept h)
  · split
    · exact stageCheck_kept h
    · exact h

theorem startJob_kept {shelf j} (h : Kept b s) : Kept b (startJob s shelf j) := modScribe_kept (placeJob_kept (ite_kept (kvAppend_kept h) h))

@[simp] theorem execScribeJobStart_kept {shelf} : KeptBy s (execScribeJobStart shelf s) := by
  refine next_kept ?_
  split
  · exact startJob_kept (takeJob_kept (.refl s))
  · split
    · exact modScribe_kept (.refl s)
    · exact (.refl s)
  · exact ite_kept (startJob_kept (takeJob_kept (modScribe_kept (.refl s)))) (.refl s)
  · exact (.refl s)

@[simp] theorem execScribeRun_kept {stream seq f} : KeptBy s (execScribeRun stream seq f s) := by
  refine next_kept ?_
  dsimp only
  split
  · exact (.refl s)
  · refine ite_kept (.refl s) ?_
    split
    · exact ite_kept (finish_kept (.refl s)) (foldl_kept (fun _ _ h => readyJob_kept h) (with_kept (.refl s)))
    · exact finish_kept (.refl s)

@[simp] theorem execScribeRunTimeout_kept {stream seq} : KeptBy s (execScribeRunTimeout stream seq s) := by
  refine next_kept ?_
  split
  · exact finishRun_kept (.refl s)
  · exact (.refl s)

theorem tileReadNow_kept {k} (h : Kept b s) : Kept b (tileReadNow s k) :=
  ite_kept (finish_kept h) (finish_kept (foldl_kept (fun _ _ h => ite_kept h (dmaWrite_kept h)) h))
theorem tileWriteNow_kept {k bs} (h : Kept b s) : Kept b (tileWriteNow s k bs) := ite_kept (finish_kept h) (finish_kept (modTile_kept h))
theorem tileCommand_kept {k bs} (h : Kept b s) : Kept b (tileCommand s k bs) :=
  ite_kept (ite_kept h (with_kept h)) (ite_kept (tileReadNow_kept h) (tileWriteNow_kept h))

@[simp] theorem execTileRead_kept {stream seq} : KeptBy s (execTileRead stream seq s) := by
  refine next_kept ?_
  split
  · exact (.refl s)
  · exact tileCommand_kept (.refl s)

@[simp] theorem execTileWrite_kept {stream seq f} : KeptBy s (execTileWrite stream seq f s) := by
  refine next_kept ?_
  split
  · exact (.refl s)
  · split
    · exact ite_kept (finish_kept (.refl s)) (tileCommand_kept (.refl s))
    · exact finish_kept (.refl s)

theorem tilesAtBoundary_kept {region} (h : Kept b s) : Kept b (tilesAtBoundary s region) := by
  unfold tilesAtBoundary
  dsimp only
  refine foldl_kept (fun _ _ h => ?_) h
  split
  · exact with_kept h
  · exact ite_kept (ite_kept (ite_kept (tileReadNow_kept (with_kept h)) (tileWriteNow_kept (with_kept h))) (with_kept h)) h

/-! ### Proofs, walks and windows -/

theorem rehouse_kept {r n} (h : Kept b s) : Kept b (rehouse s r n) := by
  unfold rehouse
  dsimp only
  split
  · exact h
  · refine ite_kept h ?_
    split
    · exact h
    · exact modAcc_kept h

theorem shelterRegion_kept {r} (h : Kept b s) : Kept b (shelterRegion s r) := by
  unfold shelterRegion
  split
  · exact foldl_kept (fun _ _ h => rehouse_kept h) h
  · exact foldl_kept (fun _ _ h => rehouse_kept h) (modAcc_kept h)

theorem settleTaints_kept (h : Kept b s) : Kept b (settleTaints s) := foldl_kept (fun _ _ h => endTaints_kept h) h
theorem dropFailed_kept {j u} (h : Kept b s) : Kept b (dropFailed s j u) := modRotation_kept (withCon_kept h)

/-- What fails is added to what had failed. -/
theorem subset_addOnce {xs : List Nat} {x : Nat} : xs ⊆ if xs.elem x then xs else xs ++ [x] := by
  split
  · exact fun _ h => h
  · exact List.subset_append_left _ _

theorem withFailed_kept {hall shelf} {c : Prop} [Decidable c] (h : Kept b s) : Kept b { s with con := if c
    then { s.con with failedHalls := if s.con.failedHalls.elem hall then s.con.failedHalls else s.con.failedHalls ++ [hall] }
    else { s.con with failedShelves := if s.con.failedShelves.elem shelf then s.con.failedShelves else s.con.failedShelves ++ [shelf] } } := by
  obtain ⟨hq, hr, hs, hh⟩ := h
  split
  · exact ⟨hq, hr, hs, fun x hx => subset_addOnce (hh hx)⟩
  · exact ⟨hq, hr, fun x hx => subset_addOnce (hs hx), hh⟩

theorem failUnit_kept {hall u d observed} (h : Kept b s) : Kept b (failUnit s hall u d observed) := by
  unfold failUnit
  refine settleTaints_kept (foldl_kept (fun _ _ h => ite_kept (shelterRegion_kept h) h) (foldl_kept (fun _ _ h => announce_kept h) (ite_kept ?_
    (openTaint_kept ?_))))
  all_goals exact annal_kept (fsr_kept (ite_kept (fset_kept (fset_kept (fset_kept (fset_kept (dropFailed_kept (withFailed_kept h)))))) (fset_kept
    (fset_kept (fset_kept (fset_kept (dropFailed_kept (withFailed_kept h))))))))

theorem localNone_kept {shelf} (h : Kept b s) : Kept b (localNone s shelf) :=
  foldl_kept (fun _ _ h => foldl_kept (fun _ _ h => endTaints_kept h) (detectRecord_kept (fsr_kept h))) (withCon_kept h)
theorem setDone_kept {j u} (h : Kept b s) : Kept b (setDone s j u) :=
  ite_kept (localNone_kept (fbump_kept (withCon_kept (modRotation_kept h)))) (fbump_kept (withCon_kept (modRotation_kept h)))

theorem endProofRun_kept {j} (h : Kept b s) : Kept b (endProofRun s j) := by
  unfold endProofRun
  dsimp only
  split
  · exact ite_kept (modScribe_kept h) h
  · exact h

@[simp] theorem execProofJob_kept {hall observed} : KeptBy s (execProofJob hall observed s) := by
  refine next_kept ?_
  dsimp only
  refine ite_kept (.refl s) (ite_kept (modRotation_kept (.refl s)) ?_)
  split
  · exact setDone_kept (.refl s)
  · exact ite_kept (modRotation_kept (endProofRun_kept (.refl s))) (ite_kept (ite_kept (modRotation_kept (endProofRun_kept (.refl s))) (setDone_kept
      (modRotation_kept (endProofRun_kept (.refl s))))) (ite_kept (fbump_kept (modRotation_kept (endProofRun_kept (.refl s)))) (failUnit_kept
      (modRotation_kept (endProofRun_kept (.refl s))))))

@[simp] theorem execProofForce_kept {hall unit} : KeptBy s (execProofForce hall unit s) := next_kept (ite_kept (.refl s) (modRotation_kept (.refl s)))

theorem insertForced_kept {j} (h : Kept b s) : Kept b (insertForced s j) := by
  unfold insertForced
  split
  · exact h
  · exact fbump_kept (modRotation_kept h)

theorem walkRecord_kept {k action step} (h : Kept b s) : Kept b (walkRecord s k action step) := annal_kept (fsr_kept h)
theorem retire_kept {k} (h : Kept b s) : Kept b (retire s k) := modFolio_kept (toState_kept h)
theorem walkSpare_kept {k failed} (h : Kept b s) : Kept b (walkSpare s k failed) :=
  ite_kept (retire_kept (walkRecord_kept (markFailed_kept (modFolio_kept (ite_kept h (modFolio_kept h)))))) (ite_kept (retire_kept (modFolio_kept
    (ite_kept h (modFolio_kept h)))) (modFolio_kept (ite_kept h (modFolio_kept h))))
theorem walkServing_kept {w k failed} (h : Kept b s) : Kept b (walkServing s w k failed) :=
  ite_kept (withCon_kept h) (ite_kept (announce_kept (openTaint_kept (fbump_kept (walkRecord_kept (markFailed_kept (withCon_kept h)))))) (fbump_kept
    (walkRecord_kept (markFailed_kept (withCon_kept h)))))

theorem windowDone_kept (h : Kept b s) : Kept b (windowDone s) := by
  unfold windowDone
  split
  · exact ite_kept (fset_kept h) h
  · exact h

theorem resumeWalk_kept {k} (h : Kept b s) : Kept b (resumeWalk s k) := withCon_kept h
theorem abandonWalk_kept {k} (h : Kept b s) : Kept b (abandonWalk s k) := ite_kept h (annal_kept (withCon_kept h))

@[simp] theorem execMarginWalk_kept {shelf pos failed} : KeptBy s (execMarginWalk shelf pos failed s) := by
  refine next_kept ?_
  dsimp only
  refine ite_kept (.refl s) ?_
  split
  · exact ite_kept (.refl s) (ite_kept (abandonWalk_kept (.refl s)) (walkSpare_kept (resumeWalk_kept (.refl s))))
  · split
    · exact ite_kept (windowDone_kept (walkServing_kept (.refl s))) (.refl s)
    · exact (.refl s)
  · exact (.refl s)

theorem startWalk_kept {w} (h : Kept b s) : Kept b (startWalk s w) := windowDone_kept (fbump_kept (fset_kept (withCon_kept h)))

theorem windowQuiet_kept (h : Kept b s) : Kept b (windowQuiet s) := by
  unfold windowQuiet
  split
  · exact ite_kept (startWalk_kept h) h
  · exact h

theorem openWin_kept {value tag limit rs whole orbit hbmBad lanesBad} (h : Kept b s) : Kept b (openWin s value tag limit rs whole orbit hbmBad lanesBad) :=
  ite_kept h (ite_kept (ignored_kept h) (ite_kept (fset_kept h) (ite_kept (fset_kept h) (windowQuiet_kept (withCon_kept (fset_kept (fset_kept
    (fset_kept (fset_kept (fset_kept h))))))))))
@[simp] theorem execOpenWindow_kept {tag mask limit} : KeptBy s (execOpenWindow tag mask limit s) := next_kept (openWin_kept (.refl s))
@[simp] theorem execOpenModule_kept {tag limit hbmBad lanesBad} : KeptBy s (execOpenModule tag limit hbmBad lanesBad s) :=
  next_kept (openWin_kept (.refl s))
theorem closeWin_kept {w code} (h : Kept b s) : Kept b (closeWin s w code) :=
  settleTaints_kept (foldl_kept (fun _ _ h => flipCopies_kept h) (fset_kept (fset_kept (fset_kept (withCon_kept h)))))

@[simp] theorem execCloseWindow_kept {tag} : KeptBy s (execCloseWindow tag s) := by
  refine next_kept ?_
  dsimp only
  refine ite_kept (.refl s) ?_
  split
  · exact closeWin_kept (fset_kept (fset_kept (.refl s)))
  · exact fset_kept (fset_kept (.refl s))

@[simp] theorem execMaintLimitExpiry_kept : KeptBy s (execMaintLimitExpiry s) := by
  refine next_kept ?_
  dsimp only
  split
  · exact (.refl s)
  · exact ite_kept (closeWin_kept (.refl s)) (closeWin_kept (foldl_kept (fun _ _ h => annal_kept h) (.refl s)))

@[simp] theorem execLocalisationEnd_kept {region} : KeptBy s (execLocalisationEnd region s) := by
  refine next_kept ?_
  dsimp only
  split
  · exact (.refl s)
  · exact ite_kept (proveFirst_kept (withCon_kept (.refl s))) (ite_kept (rehouse_kept (modAcc_kept (foldl_kept (fun _ _ h => detectRecord_kept
      (fsr_kept h)) (markFailed_kept (withCon_kept (.refl s)))))) (foldl_kept (fun _ _ h => detectRecord_kept (fsr_kept h)) (markFailed_kept
      (withCon_kept (.refl s)))))

theorem restartLocals_kept {shelf c} (h : Kept b s) : Kept b (restartLocals s shelf c) := withCon_kept h

@[simp] theorem execFsrDeliver_kept : KeptBy s (execFsrDeliver s) := by
  refine next_kept ?_
  dsimp only
  split
  · exact (.refl s)
  · exact ite_kept (.refl s) (fset_kept (withCon_kept (dmaWrite_kept (dmaWrite_kept (.refl s)))))

@[simp] theorem execFsrRingEnable_kept {value} : KeptBy s (execFsrRingEnable value s) :=
  next_kept (ite_kept (.refl s) (ite_kept (fset_kept (ite_kept (ite_kept (ite_kept (ignored_kept (.refl s)) (.refl s)) (fset_kept (ite_kept
    (ignored_kept (.refl s)) (.refl s)))) (fset_kept (ite_kept (ite_kept (ignored_kept (.refl s)) (.refl s)) (fset_kept (ite_kept (ignored_kept
    (.refl s)) (.refl s))))))) (ite_kept (ite_kept (ite_kept (ite_kept (ignored_kept (.refl s)) (.refl s)) (fset_kept (ite_kept (ignored_kept
    (.refl s)) (.refl s)))) (fset_kept (ite_kept (ite_kept (ignored_kept (.refl s)) (.refl s)) (fset_kept (ite_kept (ignored_kept (.refl s))
    (.refl s)))))) (withCon_kept (fset_kept (fset_kept (ite_kept (ite_kept (ite_kept (ignored_kept (.refl s)) (.refl s)) (fset_kept (ite_kept
    (ignored_kept (.refl s)) (.refl s)))) (fset_kept (ite_kept (ite_kept (ignored_kept (.refl s)) (.refl s)) (fset_kept (ite_kept (ignored_kept
    (.refl s)) (.refl s))))))))))))

/-! ### The Tsuyx link -/

theorem takeAck_kept {n ack crVc credits} (h : Kept b s) : Kept b (takeAck s n ack crVc credits) := pump_kept (modPort_kept h)
theorem declareLost_kept {n cause} (h : Kept b s) : Kept b (declareLost s n cause) :=
  ite_kept h (portLost_kept (foldl_kept (fun _ _ h => sendFault_kept h) (tsxRecord_kept (modPort_kept (fset_kept (fset_kept (fset_kept h)))))))
@[simp] theorem execPortTrain_kept {port lanes} : KeptBy s (execPortTrain port lanes s) :=
  next_kept (ite_kept (.refl s) (ite_kept (fset_kept (fset_kept (fset_kept (.refl s)))) (ite_kept (putFlit_kept (modPort_kept (fset_kept (fset_kept
    (fset_kept (.refl s)))))) (modPort_kept (fset_kept (fset_kept (fset_kept (.refl s))))))))
theorem showPartner_kept {n bs} (h : Kept b s) : Kept b (showPartner s n bs) :=
  fset_kept (fset_kept (fset_kept (fset_kept (fset_kept (fset_kept h)))))
@[simp] theorem execTrain_kept {port body} : KeptBy s (execTrain port body s) :=
  next_kept (ite_kept (.refl s) (ite_kept (modPort_kept (showPartner_kept (.refl s))) (ite_kept (seekAdmission_kept (modPort_kept (rset_kept
    (fset_kept (fset_kept (fbump_kept (modPort_kept (showPartner_kept (.refl s))))))))) (tsxRecord_kept (modPort_kept (fset_kept (modPort_kept
    (showPartner_kept (.refl s)))))))))
@[simp] theorem execRetrain_kept {port} : KeptBy s (execRetrain port s) :=
  next_kept (ite_kept (.refl s) (ite_kept (fset_kept (modPort_kept (fset_kept (declareLost_kept (.refl s))))) (modPort_kept (fset_kept
    (declareLost_kept (.refl s))))))
@[simp] theorem execLaneFail_kept {port lane} : KeptBy s (execLaneFail port lane s) :=
  next_kept (ite_kept (.refl s) (ite_kept (foldl_kept (fun _ _ h => sendFault_kept h) (tsxRecord_kept (fset_kept (modPort_kept (fset_kept
    (declareLost_kept (.refl s))))))) (tsxRecord_kept (fset_kept (modPort_kept (fset_kept (declareLost_kept (.refl s))))))))
@[simp] theorem execLaneLockLoss_kept {port} : KeptBy s (execLaneLockLoss port s) :=
  next_kept (ite_kept (fset_kept (declareLost_kept (.refl s))) (.refl s))
@[simp] theorem execKeepaliveSendTimer_kept {port} : KeptBy s (execKeepaliveSendTimer port s) :=
  next_kept (ite_kept (firstTransmit_kept (modPort_kept (.refl s))) (.refl s))
@[simp] theorem execKeepalive_kept {port ack crVc credits} : KeptBy s (execKeepalive port ack crVc credits s) :=
  next_kept (ite_kept (takeAck_kept (modPort_kept (.refl s))) (.refl s))
@[simp] theorem execKeepaliveLoss_kept {port} : KeptBy s (execKeepaliveLoss port s) := next_kept (ite_kept (declareLost_kept (.refl s)) (.refl s))
theorem replay_kept {n} (h : Kept b s) : Kept b (replay s n) :=
  ite_kept h (ite_kept (declareLost_kept h) (fbump_kept (foldl_kept (fun _ _ h => transmit_kept h) (modPort_kept h))))
theorem takeNack_kept {n ack crVc credits} (h : Kept b s) : Kept b (takeNack s n ack crVc credits) := replay_kept (takeAck_kept (fbump_kept h))
@[simp] theorem execNack_kept {port ack crVc credits} : KeptBy s (execNack port ack crVc credits s) :=
  next_kept (ite_kept (takeNack_kept (.refl s)) (.refl s))
@[simp] theorem execReplayTimeout_kept {port} : KeptBy s (execReplayTimeout port s) :=
  next_kept (ite_kept (replay_kept (fbump_kept (.refl s))) (.refl s))
@[simp] theorem execIdleFlit_kept {port ack crVc credits} : KeptBy s (execIdleFlit port ack crVc credits s) :=
  next_kept (ite_kept (takeAck_kept (.refl s)) (.refl s))
theorem refuseTxn_kept {n} (h : Kept b s) : Kept b (refuseTxn s n) := tsxRecord_kept (fbump_kept h)
theorem acceptFlit_kept {n f} (h : Kept b s) : Kept b (acceptFlit s n f) :=
  ite_kept (modPort_kept h) (ite_kept (tsxRecord_kept (modPort_kept h)) (refuseTxn_kept (modPort_kept h)))
theorem discardFlit_kept {n} (h : Kept b s) : Kept b (discardFlit s n) := ite_kept h (sendIdle_kept (modPort_kept h))
@[simp] theorem execSequencedFlitReceive_kept {port flit corrected uncorrectable} : KeptBy s (execSequencedFlitReceive port flit corrected uncorrectable s) :=
  next_kept (ite_kept (.refl s) (ite_kept (discardFlit_kept (ite_kept (fbump_kept (fbump_kept (fbump_kept (.refl s)))) (fbump_kept (fbump_kept
    (.refl s))))) (ite_kept (fbump_kept (fbump_kept (.refl s))) (ite_kept (ite_kept (takeNack_kept (fbump_kept (fbump_kept (.refl s))))
    (takeAck_kept (fbump_kept (fbump_kept (.refl s))))) (ite_kept (acceptFlit_kept (ite_kept (takeNack_kept (fbump_kept (fbump_kept (.refl s))))
    (takeAck_kept (fbump_kept (fbump_kept (.refl s)))))) (discardFlit_kept (ite_kept (takeNack_kept (fbump_kept (fbump_kept (.refl s))))
    (takeAck_kept (fbump_kept (fbump_kept (.refl s)))))))))))

theorem onTxn_kept {n vc kind} {f : State → Bytes → State} (hf : ∀ t bs, Kept b t → Kept b (f t bs)) (h : Kept b s) :
    KeptBy b (onTxn s n vc kind f) := by
  refine next_kept ?_
  split
  · exact h
  · exact ite_kept h (ite_kept (hf _ _ (popFlit_kept h)) (refuseTxn_kept (popFlit_kept h)))

@[simp] theorem execTsxWrite_kept {port} : KeptBy s (execTsxWrite port s) := by
  unfold execTsxWrite
  dsimp only
  refine onTxn_kept (fun _ _ h => ?_) (.refl s)
  split
  · exact refuseTxn_kept h
  · exact ite_kept (writeStore_kept h) (poisonOrigin_kept (writeStore_kept h))

@[simp] theorem execFrag_kept {port} : KeptBy s (execFrag port s) :=
  onTxn_kept (fun _ _ h => fragArrive_kept (ite_kept h (poisonHbm_kept h))) (.refl s)

@[simp] theorem execReadReq_kept {port} : KeptBy s (execReadReq port s) := by
  unfold execReadReq
  dsimp only
  refine onTxn_kept (fun _ _ h => ?_) (.refl s)
  split
  · exact sendTxn_kept (refuseTxn_kept (freeDraw_kept h))
  · exact sendTxn_kept (freeDraw_kept h)

@[simp] theorem execReadRsp_kept {port} : KeptBy s (execReadRsp port s) := onTxn_kept (fun _ _ h => modPort_kept h) (.refl s)

theorem detectionHeard_kept {port detail} (h : Kept b s) : Kept b (detectionHeard s port detail) := by
  unfold detectionHeard
  dsimp only
  split
  · exact ite_kept (foldl_kept (fun _ _ h => sendMsg_kept h) h) h
  · exact taintReport_kept (ite_kept (foldl_kept (fun _ _ h => sendMsg_kept h) h) h)

@[simp] theorem execFaultMsg_kept {port} : KeptBy s (execFaultMsg port s) := by
  unfold execFaultMsg
  refine onMsg_kept (fun _ _ _ h => ?_) (.refl s)
  split
  · exact ite_kept (lossReported_kept h) h
  · exact detectionHeard_kept h
  · exact h

@[simp] theorem execSnapPeriodTimer_kept {port} : KeptBy s (execSnapPeriodTimer port s) :=
  next_kept (ite_kept (sendMsg_kept (modPort_kept (.refl s))) (.refl s))
@[simp] theorem execSnapReq_kept {port} : KeptBy s (execSnapReq port s) := onMsg_kept (fun _ _ _ h => sendMsg_kept h) (.refl s)

@[simp] theorem execSnapRsp_kept {port} : KeptBy s (execSnapRsp port s) := by
  unfold execSnapRsp
  dsimp only
  refine onMsg_kept (fun _ _ _ h => ?_) (.refl s)
  split
  · exact h
  · exact ite_kept h (fset_kept (fset_kept (fset_kept (modPort_kept h))))

/-! ### Register writes -/

theorem disabledRecord_kept {act hall how} (h : Kept b s) : Kept b (disabledRecord s act hall how) := annal_kept h

theorem portWritten_kept {n old} (h : Kept b s) : Kept b (portWritten s n old) := by
  have hport : Kept b (if fget old (Reg.TSX_CTRL.ENABLE n) = fget s (Reg.TSX_CTRL.ENABLE n) then s
      else if fget s (Reg.TSX_CTRL.ENABLE n) = 1 then fset s (Reg.TSX_STATUS.STATE n) 1
      else modPort (fset (declareLost s n 4) (Reg.TSX_STATUS.STATE n) 0) n fun p => { p with locked := false, trains := 0 }) :=
    ite_kept h (ite_kept (fset_kept h) (modPort_kept (fset_kept (declareLost_kept h))))
  exact ite_kept hport (tsxRecord_kept (ite_kept hport hport))

theorem afterWrite_kept {old a} (h : Kept b s) : Kept b (afterWrite old s a) :=
  ite_kept (portWritten_kept h)
    (ite_kept (ite_kept (disabledRecord_kept (ite_kept (disabledRecord_kept h) h)) (ite_kept (disabledRecord_kept h) h)) h)

theorem writeRegister_kept {fn off width value} (h : Kept b s) : Kept b (writeRegister s fn off width value) := by
  unfold writeRegister
  dsimp only
  split
  · exact ite_kept (msixRelease_kept (with_kept h)) (ignored_kept h)
  · split
    · exact ite_kept (ignored_kept h) h
    · exact afterWrite_kept (ite_kept (ignored_kept (rset_kept h)) (rset_kept h))

@[simp] theorem execRegisterWrite_kept {standby fn off width value} : KeptBy s (execRegisterWrite standby fn off width value s) :=
  next_kept (ite_kept (.refl s) (ite_kept (ignored_kept (.refl s)) (ite_kept (writeRegister_kept (ite_kept (leaveIdle_kept (.refl s)) (.refl s)))
    (with_kept (.refl s)))))

/-! ### Binding -/

theorem enablePorts_kept (h : Kept b s) : Kept b (enablePorts s) := foldl_kept (fun _ _ h => portWritten_kept (fset_kept h)) h
theorem takeRole_kept (h : Kept b s) : Kept b (takeRole s) :=
  foldl_kept (fun _ _ h => seekAdmission_kept h) (ite_kept (setAdmitted_kept (setHeir_kept (fset_kept (setOrbState_kept (foldl_kept
    (fun _ _ h => modPort_kept h) (fset_kept (fset_kept (fset_kept (fset_kept (with_kept h)))))))))) (setAdmitted_kept (setHeir_kept
    (setOrbState_kept (foldl_kept (fun _ _ h => modPort_kept h) (fset_kept (fset_kept (fset_kept (fset_kept (with_kept h))))))))))
theorem takePorts_kept (h : Kept b s) : Kept b (takePorts s) := takeRole_kept (enablePorts_kept (fset_kept h))
theorem loadCap_kept (h : Kept b s) : Kept b (loadCap s) := fset_kept (fset_kept h)
theorem loadCtrl_kept (h : Kept b s) : Kept b (loadCtrl s) := fset_kept (fset_kept (fset_kept (ite_kept (fset_kept h) (fset_kept (fset_kept h)))))
theorem rebindPower_kept {old} (h : Kept b s) : Kept b (rebindPower s old) :=
  ite_kept (ite_kept (loadCap_kept h) h) (with_kept (loadCtrl_kept (ite_kept (loadCap_kept h) h)))

theorem recordDeparted_kept {old} (h : Kept b s) : Kept b (recordDeparted s old) := by
  unfold recordDeparted
  dsimp only
  refine foldl_kept (fun _ _ h => ?_) h
  split
  · exact h
  · exact ite_kept (annal_kept h) h

theorem recordDisabled_kept {old} (h : Kept b s) : Kept b (recordDisabled s old) :=
  foldl_kept (fun _ _ h => ite_kept (foldl_kept (fun _ _ h => disabledRecord_kept h) h) h) h

theorem abandonMoved_kept {old new r} (h : Kept b s) : Kept b (abandonMoved s old new r) := by
  unfold abandonMoved
  refine foldl_kept (fun _ _ h => ?_) h
  split
  · exact ite_kept h (abandonCopy_kept h)
  · exact h

theorem removeRegion_kept {r} (h : Kept b s) : Kept b (removeRegion s r) :=
  modAcc_kept (foldl_kept (fun _ _ h => giveBack_kept h) (foldl_kept (fun _ _ h => abandonCopy_kept h) h))
theorem strandRegion_kept {old new r} (h : Kept b s) : Kept b (strandRegion s old new r) := modAcc_kept (foldl_kept (fun _ _ h => giveBack_kept h) h)
theorem keepRegion_kept {old new r} (h : Kept b s) : Kept b (keepRegion s old new r) := ite_kept h (modAcc_kept h)

theorem rebindRegion_kept {old r} (h : Kept b s) : Kept b (rebindRegion old s r) := by
  unfold rebindRegion
  dsimp only
  refine reloadPrograms_kept (deriveGains_kept (with_kept (modVig_kept ?_)))
  split
  · exact removeRegion_kept (abandonMoved_kept h)
  · exact abandonMoved_kept h
  · exact ite_kept (keepRegion_kept (abandonMoved_kept h)) (strandRegion_kept (abandonMoved_kept h))

theorem rebindCarrel_kept {old n} (h : Kept b s) : Kept b (rebindCarrel old s n) :=
  ite_kept h (ite_kept (with_kept (modStream_kept (modCarrel_kept h))) (modCarrel_kept h))
theorem rebindRecipes_kept {old} (h : Kept b s) : Kept b (rebindRecipes s old) := with_kept h
theorem showBound_kept (h : Kept b s) : Kept b (showBound s) := showPending_kept (fset_kept (fset_kept (rset_kept h)))
theorem commitBind_kept {op} (h : Kept b s) : Kept b (commitBind op s) :=
  imgResult_kept (ite_kept (rebindHeir_kept (ite_kept (recordDisabled_kept (recordDeparted_kept (rebindPower_kept (foldl_kept
    (fun _ _ h => rebindCarrel_kept h) (foldl_kept (fun _ _ h => rebindRegion_kept h) (rebindRecipes_kept (buildTables_kept (showBound_kept
    (with_kept h))))))))) (takePorts_kept (recordDisabled_kept (recordDeparted_kept (rebindPower_kept (foldl_kept (fun _ _ h => rebindCarrel_kept h)
    (foldl_kept (fun _ _ h => rebindRegion_kept h) (rebindRecipes_kept (buildTables_kept (showBound_kept (with_kept h)))))))))))) (ite_kept
    (recordDisabled_kept (recordDeparted_kept (rebindPower_kept (foldl_kept (fun _ _ h => rebindCarrel_kept h) (foldl_kept
    (fun _ _ h => rebindRegion_kept h) (rebindRecipes_kept (buildTables_kept (showBound_kept (with_kept h))))))))) (takePorts_kept
    (recordDisabled_kept (recordDeparted_kept (rebindPower_kept (foldl_kept (fun _ _ h => rebindCarrel_kept h) (foldl_kept
    (fun _ _ h => rebindRegion_kept h) (rebindRecipes_kept (buildTables_kept (showBound_kept (with_kept h))))))))))))
theorem applyLoans_kept {op} (h : Kept b s) : Kept b (applyLoans op s) := ite_kept h (with_kept h)

@[simp] theorem execBindQuiesceDone_kept {verifyOk nandOk} : KeptBy s (execBindQuiesceDone verifyOk nandOk s) := by
  refine next_kept ?_
  dsimp only
  split
  · exact (.refl s)
  · exact ite_kept (.refl s) (ite_kept (releaseShares_kept (imgResult_kept (buildTables_kept (with_kept (applyLoans_kept (.refl s)))))) (ite_kept
      (releaseShares_kept (imgResult_kept (buildTables_kept (with_kept (applyLoans_kept (.refl s)))))) (releaseShares_kept (commitBind_kept
      (applyLoans_kept (.refl s))))))

/-! ### The bring-up -/

theorem settleRegions_kept (h : Kept b s) : Kept b (settleRegions s) :=
  foldl_kept (fun _ _ h => giveBack_kept h) (foldl_kept (fun _ _ h => flipAccession_kept h) h)

/-- A reset drops registers. -/
theorem withRegsFiltered_kept {p : Nat × W64 → Bool} (h : Kept b s) : Kept b { s with regs := s.regs.filter p } := by
  obtain ⟨hq, hr, hs, hh⟩ := h
  exact ⟨hq, fun hb => filter_swf p (hr hb), hs, hh⟩

theorem loseAll_kept (h : Kept b s) : Kept b (loseAll s) :=
  show Kept b { settleRegions s with regs := (settleRegions s).regs.filter fun e => e.1 == Reg.PST_SB_CTRL.WAKE_EN.addr } from
    withRegsFiltered_kept (settleRegions_kept h)

theorem deviceResetTo_kept {cause} (h : Kept b s) : Kept b (deviceResetTo cause s) := with_kept (loseAll_kept h)
theorem enterOff_kept {cause} (h : Kept b s) : Kept b (enterOff cause s) := with_kept (loseAll_kept h)
theorem showFw_kept (h : Kept b s) : Kept b (showFw s) :=
  fset_kept (fset_kept (fset_kept (fset_kept (fset_kept (fset_kept (fset_kept (fset_kept h)))))))
theorem fwEvent_kept {event slot svn} (h : Kept b s) : Kept b (fwEvent s event slot svn) := annal_kept h

theorem bootFirmware_kept (h : Kept b s) : Kept b (bootFirmware s) := by
  unfold bootFirmware
  dsimp only
  split <;> exact with_kept h

theorem recordTrial_kept {f cause} (h : Kept b s) : Kept b (recordTrial s f cause) := ite_kept (fwEvent_kept h) (ite_kept (fwEvent_kept h) h)
theorem showIdentity_kept (h : Kept b s) : Kept b (showIdentity s) := rset_kept (fset_kept (fset_kept (fset_kept (fset_kept h))))
theorem startCurator_kept {cause} (h : Kept b s) : Kept b (startCurator cause s) :=
  fset_kept (with_kept (showFw_kept (recordTrial_kept (ite_kept (annal_kept (showIdentity_kept (fset_kept (fset_kept (rset_kept (fset_kept
    (withCon_kept (bootFirmware_kept (with_kept h))))))))) (annal_kept (fset_kept (annal_kept (showIdentity_kept (fset_kept (fset_kept (rset_kept
    (fset_kept (withCon_kept (bootFirmware_kept (with_kept h)))))))))))))))
theorem startHall_kept {j} (h : Kept b s) : Kept b (startHall s j) := fset_kept h
theorem startClocks_kept (h : Kept b s) : Kept b (startClocks s) :=
  fset_kept (fset_kept (fset_kept (fset_kept (fset_kept (fset_kept (fset_kept (fset_kept (fset_kept (foldl_kept (fun _ _ h => startHall_kept h)
    (with_kept h))))))))))

theorem failShelf_kept {shelf} (h : Kept b s) : Kept b (failShelf s shelf) := by
  refine ite_kept h (annal_kept ?_)
  obtain ⟨hq, hr, hs, hh⟩ := h
  exact ⟨hq, hr, fun x hx => List.mem_append_left _ (hs hx), hh⟩

theorem startHalls_kept {badShelves} (h : Kept b s) : Kept b (startHalls badShelves s) :=
  fset_kept (fset_kept (fset_kept (foldl_kept (fun _ _ h => failShelf_kept h) (startClocks_kept h))))
theorem showSig_kept (h : Kept b s) : Kept b (showSig s) := fset_kept (fset_kept (fset_kept h))
theorem loadStore_kept (h : Kept b s) : Kept b (loadStore s) := rset_kept (showSig_kept (with_kept h))
theorem bootRegion_kept {r} (h : Kept b s) : Kept b (bootRegion s r) := ite_kept (shelterRegion_kept (with_kept (modVig_kept (modAcc_kept h)))) h

theorem bindAtBoot_kept (h : Kept b s) : Kept b (bindAtBoot s) := by
  unfold bindAtBoot
  dsimp only
  refine foldl_kept (fun _ _ h => bootRegion_kept h) (buildTables_kept (takePorts_kept (loadCtrl_kept (loadCap_kept ?_))))
  split
  · exact annal_kept (showBound_kept (with_kept h))
  · exact showBound_kept (with_kept h)

theorem openIntake_kept (h : Kept b s) : Kept b (openIntake s) := showReady_kept (fset_kept (with_kept (fset_kept (fset_kept h))))
theorem confirmTrial_kept (h : Kept b s) : Kept b (confirmTrial s) := ite_kept (showFw_kept (fwEvent_kept (with_kept h))) h
theorem powered_kept (h : Kept b s) : Kept b (powered s) := with_kept h

theorem bringUp_kept {ms badShelves selfTest} (h : Kept b s) : Kept b (bringUp ms badShelves selfTest s) := by
  unfold bringUp
  dsimp only
  refine ite_kept (startCurator_kept (powered_kept (with_kept h))) (ite_kept (openIntake_kept (fset_kept (bindAtBoot_kept (loadStore_kept
    (startHalls_kept (startCurator_kept (powered_kept (with_kept h)))))))) ?_)
  split
  · exact openIntake_kept (confirmTrial_kept (fset_kept (bindAtBoot_kept (loadStore_kept (startHalls_kept (startCurator_kept (powered_kept
      (with_kept h))))))))
  · exact deviceResetTo_kept (fset_kept (bindAtBoot_kept (loadStore_kept (startHalls_kept (startCurator_kept (powered_kept (with_kept h)))))))
  · exact fset_kept (bindAtBoot_kept (loadStore_kept (startHalls_kept (startCurator_kept (powered_kept (with_kept h))))))

@[simp] theorem execPowerOnBoot_kept {ms badShelves selfTest} : KeptBy s (execPowerOnBoot ms badShelves selfTest s) :=
  next_kept (ite_kept (bringUp_kept (.refl s)) (.refl s))
@[simp] theorem execTrialConfirmTimeout_kept : KeptBy s (execTrialConfirmTimeout s) := next_kept (ite_kept (deviceResetTo_kept (.refl s)) (.refl s))

/-! ### Resets -/

@[simp] theorem execDeviceReset_kept {standby width value} : KeptBy s (execDeviceReset standby width value s) :=
  next_kept (ite_kept (.refl s) (ite_kept (ignored_kept (.refl s)) (deviceResetTo_kept (.refl s))))
@[simp] theorem execSidebandReset_kept {data} : KeptBy s (execSidebandReset data s) :=
  next_kept (ite_kept (.refl s) (ite_kept (deviceResetTo_kept (.refl s)) (ignored_kept (.refl s))))
@[simp] theorem execThermalTrip_kept : KeptBy s (execThermalTrip s) :=
  next_kept (ite_kept (.refl s) (with_kept (ite_kept (enterOff_kept (.refl s)) (deviceResetTo_kept (.refl s)))))
@[simp] theorem execTripHoldRelease_kept {ms badShelves selfTest} : KeptBy s (execTripHoldRelease ms badShelves selfTest s) :=
  next_kept (ite_kept (.refl s) (ite_kept (bringUp_kept (with_kept (.refl s))) (with_kept (.refl s))))
theorem putBit_kept {f i bs} (h : Kept b s) : Kept b (putBit s f i bs) := fset_kept h
theorem poisonHall_kept {j} (h : Kept b s) : Kept b (poisonHall s j) := with_kept h
@[simp] theorem execPllLockLoss_kept {hall pll} : KeptBy s (execPllLockLoss hall pll s) :=
  next_kept (ite_kept (.refl s) (ite_kept (deviceResetTo_kept (.refl s)) (annal_kept (fbump_kept (poisonHall_kept (modHall_kept (putBit_kept
    (.refl s))))))))
theorem resumeHall_kept {j} (h : Kept b s) : Kept b (resumeHall s j) := ite_kept (modHall_kept h) h
@[simp] theorem execHallRelockDone_kept {hall} : KeptBy s (execHallRelockDone hall s) :=
  next_kept (ite_kept (.refl s) (resumeHall_kept (foldl_kept (fun _ _ h => putBit_kept h) (.refl s))))
theorem inputLost_kept (h : Kept b s) : Kept b (inputLost s) := with_kept (enterOff_kept h)
@[simp] theorem execV44Undervoltage_kept : KeptBy s (execV44Undervoltage s) := next_kept (with_kept (ite_kept (inputLost_kept (.refl s)) (.refl s)))
@[simp] theorem execV44Overvoltage_kept : KeptBy s (execV44Overvoltage s) := next_kept (ite_kept (inputLost_kept (.refl s)) (.refl s))
@[simp] theorem execStandbyReset_kept : KeptBy s (execStandbyReset s) :=
  next_kept (ite_kept (.refl s) (show Kept s { s with regs := s.regs.filter fun e => e.1 != Reg.PST_SB_CTRL.WAKE_EN.addr } from
    withRegsFiltered_kept (.refl s)))
@[simp] theorem execStandbyLoss_kept : KeptBy s (execStandbyLoss s) :=
  next_kept (ite_kept (.refl s) (with_kept (ite_kept (.refl s) (enterOff_kept (.refl s)))))
theorem dropConfig_kept {p} (h : Kept b s) : Kept b (dropConfig s p) := with_kept h
theorem putLink_kept {bs up} (h : Kept b s) : Kept b (putLink s bs up) := fset_kept (with_kept h)
theorem haltStreams_kept (h : Kept b s) : Kept b (haltStreams s) := foldl_kept (fun _ _ h => fset_kept h) (with_kept h)
theorem cancelAccessions_kept (h : Kept b s) : Kept b (cancelAccessions s) := foldl_kept (fun _ _ h => ite_kept (endAcc_kept h) h) h
theorem routeBulk_kept {pf1} (h : Kept b s) : Kept b (routeBulk s pf1) :=
  ite_kept h (ite_kept (fbump_kept (rerouteLoans_kept (fset_kept (with_kept h)))) (fset_kept (with_kept h)))
@[simp] theorem execPortLinkLoss_kept {portB} : KeptBy s (execPortLinkLoss portB s) :=
  next_kept (ite_kept (.refl s) (ite_kept (failSwaps_kept (ite_kept (with_kept (ite_kept (haltStreams_kept (dropConfig_kept (putLink_kept
    (.refl s)))) (dropConfig_kept (putLink_kept (.refl s))))) (ite_kept (haltStreams_kept (dropConfig_kept (putLink_kept (.refl s))))
    (dropConfig_kept (putLink_kept (.refl s)))))) (failSwaps_kept (ite_kept (routeBulk_kept (ite_kept (haltStreams_kept (dropConfig_kept
    (putLink_kept (.refl s)))) (dropConfig_kept (putLink_kept (.refl s))))) (cancelAccessions_kept (ite_kept (haltStreams_kept (dropConfig_kept
    (putLink_kept (.refl s)))) (dropConfig_kept (putLink_kept (.refl s)))))))))
@[simp] theorem execPortLinkUp_kept {portB} : KeptBy s (execPortLinkUp portB s) :=
  next_kept (ite_kept (.refl s) (ite_kept (routeBulk_kept (ite_kept (with_kept (putBit_kept (putLink_kept (.refl s)))) (putBit_kept (putLink_kept
    (.refl s))))) (ite_kept (with_kept (putBit_kept (putLink_kept (.refl s)))) (putBit_kept (putLink_kept (.refl s))))))
@[simp] theorem execStandbyTakeover_kept : KeptBy s (execStandbyTakeover s) :=
  next_kept (ite_kept (.refl s) (fbump_kept (with_kept (fset_kept (.refl s)))))
@[simp] theorem execBusMasteringChange_kept {fn on} : KeptBy s (execBusMasteringChange fn on s) :=
  next_kept (ite_kept (.refl s) (ite_kept (routeBulk_kept (with_kept (.refl s))) (ite_kept (with_kept (.refl s)) (failSwaps_kept (with_kept
    (.refl s))))))
theorem freshenStream_kept {c} (h : Kept b s) : Kept b (freshenStream s c) := with_kept (withRegsFiltered_kept h)
theorem clearScribes_kept {c} (h : Kept b s) : Kept b (clearScribes s c) := with_kept (foldl_kept (fun _ _ h => endRun_kept h) h)
@[simp] theorem execFunctionLevelResetVf_kept {carrel} : KeptBy s (execFunctionLevelResetVf carrel s) :=
  next_kept (ite_kept (.refl s) (retryLoans_kept (dropConfig_kept (freshenStream_kept (clearScribes_kept (with_kept (foldl_kept
    (fun _ _ h => closeSession_kept h) (.refl s))))))))
@[simp] theorem execFunctionLevelResetPf0_kept : KeptBy s (execFunctionLevelResetPf0 s) :=
  next_kept (ite_kept (.refl s) (dropConfig_kept (fset_kept (with_kept (.refl s)))))
@[simp] theorem execFunctionLevelResetPf1_kept : KeptBy s (execFunctionLevelResetPf1 s) :=
  next_kept (ite_kept (.refl s) (failSwaps_kept (dropConfig_kept (freshenStream_kept (cancelAccessions_kept (.refl s))))))
@[simp] theorem execFunctionLevelResetPf2_kept : KeptBy s (execFunctionLevelResetPf2 s) :=
  next_kept (ite_kept (.refl s) (failSwaps_kept (ite_kept (dropConfig_kept (.refl s)) (routeBulk_kept (dropConfig_kept (.refl s))))))

/-! ### The annals -/

theorem flushAnnals_kept (h : Kept b s) : Kept b (flushAnnals s) := by
  unfold flushAnnals
  dsimp only
  split
  · exact h
  · exact rset_kept (with_kept h)

@[simp] theorem execAnnalsFlush_kept {nandOk} : KeptBy s (execAnnalsFlush nandOk s) := next_kept (ite_kept (.refl s) (flushAnnals_kept (.refl s)))
@[simp] theorem execFlush_kept {width value nandOk} : KeptBy s (execFlush width value nandOk s) :=
  next_kept (ite_kept (.refl s) (flushAnnals_kept (.refl s)))
@[simp] theorem execAnnalsRateSecond_kept : KeptBy s (execAnnalsRateSecond s) :=
  next_kept (ite_kept (.refl s) (foldl_kept (fun _ _ h => annal_kept h) (with_kept (.refl s))))
@[simp] theorem execAlertClear_kept {width value} : KeptBy s (execAlertClear width value s) :=
  next_kept (ite_kept (.refl s) (fset_kept (with_kept (.refl s))))

/-! ### The curator -/

theorem modMbx_kept {f} (h : Kept b s) : Kept b (modMbx s f) := with_kept h
theorem respond_kept {seq tag status body} (h : Kept b s) : Kept b (respond s seq tag status body) :=
  msix_kept (fset_kept (fset_kept (modMbx_kept h)))
theorem takeRequest_kept (h : Kept b s) : Kept b (takeRequest s) :=
  ite_kept (respond_kept (modMbx_kept h)) (ite_kept (respond_kept (fset_kept (modMbx_kept h))) (fset_kept (modMbx_kept (fset_kept (modMbx_kept h)))))
theorem mbxArrive_kept {off bytes} (h : Kept b s) : Kept b (mbxArrive s off bytes) :=
  ite_kept (ignored_kept (modMbx_kept h)) (ite_kept (takeRequest_kept (modMbx_kept h)) (modMbx_kept h))
@[simp] theorem execMailboxBlockWrite_kept {standby off bytes} : KeptBy s (execMailboxBlockWrite standby off bytes s) :=
  next_kept (ite_kept (.refl s) (ite_kept (ignored_kept (.refl s)) (ite_kept (with_kept (.refl s)) (mbxArrive_kept (.refl s)))))

@[simp] theorem execIdentity_kept : KeptBy s (execIdentity s) := by
  refine next_kept ?_
  split
  · exact (.refl s)
  · exact respond_kept (.refl s)

@[simp] theorem execAttest_kept {nandOk} : KeptBy s (execAttest nandOk s) := by
  refine next_kept ?_
  dsimp only
  split
  · exact (.refl s)
  · exact ite_kept (respond_kept (.refl s)) (ite_kept (respond_kept (.refl s)) (ite_kept (respond_kept (.refl s)) (respond_kept (annal_kept
      (showSig_kept (with_kept (.refl s)))))))

@[simp] theorem execAttestTokenRefill_kept : KeptBy s (execAttestTokenRefill s) := next_kept (ite_kept (.refl s) (showSig_kept (with_kept (.refl s))))

@[simp] theorem execAnnalsExport_kept : KeptBy s (execAnnalsExport s) := by
  refine next_kept ?_
  dsimp only
  split
  · exact (.refl s)
  · refine respond_kept (ite_kept ?_ (dmaWrite_kept ?_))
    · split
      · exact (.refl s)
      · exact freeDraw_kept (.refl s)
    · split
      · exact (.refl s)
      · exact freeDraw_kept (.refl s)

@[simp] theorem execAnnalsNote_kept : KeptBy s (execAnnalsNote s) := by
  refine next_kept ?_
  dsimp only
  split
  · exact (.refl s)
  · exact respond_kept (iteSnd_kept (freeDraw_kept (annal_kept (.refl s))) (annal_kept (.refl s)))

theorem modFw_kept {f} (h : Kept b s) : Kept b (modFw s f) := showFw_kept (with_kept h)

@[simp] theorem execFwStage_kept {f nandOk} : KeptBy s (execFwStage f nandOk s) := by
  refine next_kept ?_
  dsimp only
  split
  · exact (.refl s)
  · split
    · split
      · exact respond_kept (.refl s)
      · exact ite_kept (respond_kept (modFw_kept (.refl s))) (respond_kept (fwEvent_kept (modFw_kept (.refl s))))
    · exact respond_kept (.refl s)

theorem selectOther_kept {r trial nandOk} (h : Kept b s) : Kept b (selectOther s r trial nandOk) := by
  unfold selectOther
  dsimp only
  split
  · exact respond_kept h
  · exact ite_kept (respond_kept h) (respond_kept (fwEvent_kept (modFw_kept h)))

@[simp] theorem execFwActivate_kept {nandOk} : KeptBy s (execFwActivate nandOk s) := by
  refine next_kept ?_
  split
  · exact (.refl s)
  · exact selectOther_kept (.refl s)

@[simp] theorem execFwRevert_kept {nandOk} : KeptBy s (execFwRevert nandOk s) := by
  refine next_kept ?_
  split
  · exact (.refl s)
  · exact selectOther_kept (.refl s)

@[simp] theorem execFwRaiseFloor_kept {nandOk} : KeptBy s (execFwRaiseFloor nandOk s) := by
  refine next_kept ?_
  split
  · exact (.refl s)
  · split
    · exact respond_kept (.refl s)
    · exact ite_kept (respond_kept (.refl s)) (respond_kept (fwEvent_kept (modFw_kept (.refl s))))

theorem loseAnnals_kept (h : Kept b s) : Kept b (loseAnnals s) := fset_kept (with_kept h)

theorem restartCurator_kept (h : Kept b s) : Kept b (restartCurator s) := by
  unfold restartCurator
  dsimp only
  refine annal_kept (freeDraw_kept (fbump_kept (loseAnnals_kept (cancelAccessions_kept (showPending_kept (fset_kept (with_kept ?_)))))))
  split
  · exact respond_kept h
  · exact h

@[simp] theorem execWatchdogExpiry_kept : KeptBy s (execWatchdogExpiry s) :=
  next_kept (ite_kept (.refl s) (ite_kept (deviceResetTo_kept (.refl s)) (restartCurator_kept (with_kept (.refl s)))))

/-! ### Register reads -/

theorem captureEntry_kept {a} (h : Kept b s) : Kept b (captureEntry s a) := ite_kept (foldl_kept (fun _ _ h => fset_kept h) h) h
theorem clearRead_kept {a lo hi fs} (h : Kept b s) : Kept b (clearRead s a lo hi fs) := rset_kept h

theorem readRegister_kept {standby found a lo width} (h : Kept b s) : Kept b (readRegister s standby found a lo width).2 := by
  unfold readRegister
  dsimp only
  split
  · exact h
  · exact clearRead_kept (captureEntry_kept h)

theorem barRead_kept {standby fn off width found} (h : Kept b s) : Kept b (barRead s standby fn off width found).2 := by
  unfold barRead
  dsimp only
  refine iteSnd_kept h (iteSnd_kept h (iteSnd_kept (iteSnd_kept h h) (iteSnd_kept h (iteSnd_kept h (iteSnd_kept h ?_)))))
  split
  · exact h
  · split
    · exact readRegister_kept h
    · exact h

theorem answerRead_kept {fn off bs} (h : Kept b s) : Kept b (answerRead s fn off bs) := with_kept h
theorem serveRead_kept {standby fn off width found} (h : Kept b s) : Kept b (serveRead s standby fn off width found) :=
  answerRead_kept (barRead_kept h)

/-! ### Power states -/

theorem beginWake_kept {src} (h : Kept b s) : Kept b (beginWake s src) := fset_kept (fset_kept (fbump_kept (fbump_kept (with_kept h))))
theorem wake_kept {src d} (h : Kept b s) : Kept b (wake s src d) :=
  ite_kept (ite_kept (ite_kept (beginWake_kept h) h) (fset_kept (with_kept (ite_kept (beginWake_kept h) h)))) h
@[simp] theorem execWakeEvent_kept {src standby fn off width} : KeptBy s (execWakeEvent src standby fn off width s) :=
  next_kept (ite_kept (.refl s) (ite_kept (ite_kept (leaveIdle_kept (wake_kept (.refl s))) (wake_kept (.refl s))) (ite_kept (serveRead_kept
    (ite_kept (leaveIdle_kept (wake_kept (.refl s))) (wake_kept (.refl s)))) (with_kept (ite_kept (leaveIdle_kept (wake_kept (.refl s))) (wake_kept
    (.refl s)))))))

theorem releaseWrite_kept {w} (h : Kept b s) : Kept b (releaseWrite s w) := by
  unfold releaseWrite
  refine ite_kept (mbxArrive_kept h) (ite_kept ?_ (writeRegister_kept h))
  split
  · exact arrive_kept h
  · exact arrive_kept h
  · exact h

theorem releaseHeld_kept {d} (h : Kept b s) : Kept b (releaseHeld s d) :=
  foldl_kept (fun _ _ h => serveRead_kept h) (foldl_kept (fun _ _ h => releaseWrite_kept h) (with_kept h))
theorem startPorts_kept {j} (h : Kept b s) : Kept b (startPorts s j) := foldl_kept (fun _ _ h => ite_kept (portWritten_kept (fset_kept h)) h) h
theorem domainUp_kept {d} (h : Kept b s) : Kept b (domainUp s d) :=
  releaseHeld_kept (ite_kept (with_kept (ite_kept (fset_kept (ite_kept (startPorts_kept (putBit_kept (ite_kept (buildTables_kept (with_kept h))
    (with_kept h)))) (with_kept h))) (ite_kept (startPorts_kept (putBit_kept (ite_kept (buildTables_kept (with_kept h)) (with_kept h))))
    (with_kept h)))) (ite_kept (fset_kept (ite_kept (startPorts_kept (putBit_kept (ite_kept (buildTables_kept (with_kept h)) (with_kept h))))
    (with_kept h))) (ite_kept (startPorts_kept (putBit_kept (ite_kept (buildTables_kept (with_kept h)) (with_kept h)))) (with_kept h))))
@[simp] theorem execWakeDomainReady_kept {domain} : KeptBy s (execWakeDomainReady domain s) :=
  next_kept (ite_kept (domainUp_kept (.refl s)) (.refl s))

@[simp] theorem execReadHoldExpiry_kept : KeptBy s (execReadHoldExpiry s) := by
  refine next_kept ?_
  dsimp only
  split
  · exact (.refl s)
  · exact fbump_kept (answerRead_kept (with_kept (.refl s)))

theorem wakeFromOff_kept {src} (h : Kept b s) : Kept b (wakeFromOff s src) := ite_kept h (with_kept h)
@[simp] theorem execSidebandAddressMatch_kept {addr} : KeptBy s (execSidebandAddressMatch addr s) :=
  next_kept (ite_kept (.refl s) (ite_kept (wakeFromOff_kept (.refl s)) (wake_kept (.refl s))))
@[simp] theorem execWakeNAssert_kept : KeptBy s (execWakeNAssert s) := next_kept (ite_kept (wakeFromOff_kept (.refl s)) (wake_kept (.refl s)))
@[simp] theorem execIdleEntry_kept : KeptBy s (execIdleEntry s) := next_kept (ite_kept (.refl s) (fset_kept (fset_kept (with_kept (.refl s)))))
theorem entryCurator_kept {off nandOk} (h : Kept b s) : Kept b (entryCurator off nandOk s) :=
  ite_kept (writeCheckpoint_kept (ite_kept (flushAnnals_kept h) h)) (ite_kept (flushAnnals_kept h) h)
theorem entryHalls_kept {deep} (h : Kept b s) : Kept b (entryHalls deep s) :=
  ite_kept (with_kept (foldl_kept (fun _ _ h => portWritten_kept (fset_kept h)) h)) (foldl_kept (fun _ _ h => portWritten_kept (fset_kept h)) h)
theorem atDepth_kept {depth} (h : Kept b s) : Kept b (atDepth depth s) := fset_kept (fset_kept (with_kept h))
theorem backToRun_kept {src off} (h : Kept b s) : Kept b (backToRun src off s) :=
  foldl_kept (fun _ _ h => startPorts_kept h) (fset_kept (fset_kept (fset_kept (with_kept (ite_kept (buildTables_kept h) h)))))

theorem enterLow_kept {depth nandOk woken} (h : Kept b s) : Kept b (enterLow depth nandOk woken s) := by
  unfold enterLow
  dsimp only
  split
  · exact ite_kept (with_kept (enterOff_kept (ite_kept (entryHalls_kept (ite_kept (entryCurator_kept h) h)) (ite_kept (entryCurator_kept h) h))))
      (atDepth_kept (ite_kept (entryHalls_kept (ite_kept (entryCurator_kept h) h)) (ite_kept (entryCurator_kept h) h)))
  · exact ite_kept (wakeFromOff_kept (enterOff_kept (ite_kept (entryHalls_kept (ite_kept (entryCurator_kept h) h)) (ite_kept
      (entryCurator_kept h) h)))) (backToRun_kept (ite_kept (entryHalls_kept (ite_kept (entryCurator_kept h) h)) (ite_kept (entryCurator_kept h) h)))

theorem powerRequest_kept {depth nandOk woken} (h : Kept b s) : Kept b (powerRequest depth nandOk woken s) :=
  ite_kept h (ite_kept (fset_kept h) (ite_kept (fset_kept h) (enterLow_kept (fset_kept h))))
@[simp] theorem execSleep_kept {nandOk woken} : KeptBy s (execSleep nandOk woken s) := next_kept (powerRequest_kept (.refl s))
@[simp] theorem execDeepSleep_kept {nandOk woken} : KeptBy s (execDeepSleep nandOk woken s) := next_kept (powerRequest_kept (.refl s))
@[simp] theorem execPowerOff_kept {nandOk woken} : KeptBy s (execPowerOff nandOk woken s) := next_kept (powerRequest_kept (.refl s))
@[simp] theorem execAutoSleep_kept {nandOk woken} : KeptBy s (execAutoSleep nandOk woken s) :=
  next_kept (ite_kept (.refl s) (enterLow_kept (.refl s)))

/-! ### Monitors -/

theorem modConv_kept {die f} (h : Kept b s) : Kept b (modConv s die f) := with_kept h
theorem startSlot_kept {die slot set} (h : Kept b s) : Kept b (startSlot s die slot set) := modConv_kept h
@[simp] theorem execMonitorTrigger_kept {die slot stopped} : KeptBy s (execMonitorTrigger die slot stopped s) :=
  next_kept (ite_kept (.refl s) (ite_kept (fbump_kept (.refl s)) (ite_kept (startSlot_kept (.refl s)) (ite_kept (fbump_kept (.refl s)) (modConv_kept
    (.refl s))))))
theorem windowEvent_kept {die slot code scaled} (h : Kept b s) : Kept b (windowEvent s die slot code scaled) := annal_kept (putBit_kept (wake_kept h))
theorem refFailure_kept {die code} (h : Kept b s) : Kept b (refFailure s die code) := ite_kept h (annal_kept (fset_kept (modConv_kept h)))
theorem putResult_kept {die slot input code scaled fallback} (h : Kept b s) : Kept b (putResult s die slot input code scaled fallback) :=
  fbump_kept (fset_kept (fset_kept (fset_kept (fset_kept (fset_kept (modConv_kept h))))))
theorem compareResult_kept {die slot code scaled set window} (h : Kept b s) : Kept b (compareResult s die slot code scaled set window) :=
  ite_kept h (ite_kept (refFailure_kept (ite_kept (windowEvent_kept (modConv_kept h)) (modConv_kept h))) (ite_kept (windowEvent_kept
    (modConv_kept h)) (modConv_kept h)))

theorem serveNext_kept {die} (h : Kept b s) : Kept b (serveNext s die) := by
  unfold serveNext
  dsimp only
  split
  · exact startSlot_kept (modConv_kept (modConv_kept h))
  · exact modConv_kept h

@[simp] theorem execMonitorResult_kept {die slot x} : KeptBy s (execMonitorResult die slot x s) := by
  refine next_kept ?_
  dsimp only
  refine ite_kept (.refl s) (ite_kept (ite_kept ?_ (ite_kept (putResult_kept (.refl s)) (compareResult_kept (putResult_kept (.refl s)))))
    (serveNext_kept (ite_kept ?_ (ite_kept (putResult_kept (.refl s)) (compareResult_kept (putResult_kept (.refl s)))))))
  · split
    · exact showTemp_kept (ite_kept (putResult_kept (.refl s)) (compareResult_kept (putResult_kept (.refl s))))
    · exact ite_kept (putResult_kept (.refl s)) (compareResult_kept (putResult_kept (.refl s)))
  · split
    · exact showTemp_kept (ite_kept (putResult_kept (.refl s)) (compareResult_kept (putResult_kept (.refl s))))
    · exact ite_kept (putResult_kept (.refl s)) (compareResult_kept (putResult_kept (.refl s)))

/-! ### Flags -/

theorem flagPass_kept {region bit} (h : Kept b s) : Kept b (flagPass s region bit) := modPass_kept h
theorem countBlocks_kept {j nz sat nan} (h : Kept b s) : Kept b (countBlocks s j nz sat nan) := fbump_kept (fbump_kept (fbump_kept h))
theorem countIntSat_kept {j n} (h : Kept b s) : Kept b (countIntSat s j n) := fbump_kept h
theorem flagBlocks_kept {region nz sat} (h : Kept b s) : Kept b (flagBlocks s region nz sat) :=
  ite_kept (flagPass_kept (ite_kept (flagPass_kept h) h)) (ite_kept (flagPass_kept h) h)

/-! ### Scribe instructions -/

@[simp] theorem execNop_kept {shelf} : KeptBy s (execNop shelf s) := runInsn_kept (fun _ _ h => done_kept h) (.refl s)
@[simp] theorem execHalt_kept {shelf} : KeptBy s (execHalt shelf s) :=
  runInsn_kept (fun _ _ h => iteDid_kept (done_kept (haltJob_kept h)) (stall_kept)) (.refl s)
@[simp] theorem execLdx_kept {shelf} : KeptBy s (execLdx shelf s) := runInsn_kept (fun _ _ h => done_kept (setX_kept h)) (.refl s)
@[simp] theorem execAddx_kept {shelf} : KeptBy s (execAddx shelf s) := runInsn_kept (fun _ _ h => done_kept (setX_kept h)) (.refl s)

theorem loopBody_kept {i} (h : Kept b s) : DidKept b (loopBody i s) := by
  unfold loopBody
  exact iteDid_kept (done_kept (setX_kept h)) (iteDid_kept (fault_kept) (done_kept (modScribe_kept (setX_kept h))))

@[simp] theorem execLoopX_kept {shelf} : KeptBy s (execLoopX shelf s) := runInsn_kept (fun _ _ h => loopBody_kept h) (.refl s)
theorem mmaBody_kept {i} (h : Kept b s) : DidKept b (mmaBody i s) :=
  iteDid_kept (done_kept (countIntSat_kept (putTile_kept h))) (done_kept (putTile_kept h))
@[simp] theorem execMma_kept {shelf} : KeptBy s (execMma shelf s) := runInsn_kept (fun _ _ h => mmaBody_kept h) (.refl s)
theorem binaryBody_kept {op i} (h : Kept b s) : DidKept b (binaryBody op i s) := done_kept (putTile_kept h)
theorem unaryBody_kept {op i} (h : Kept b s) : DidKept b (unaryBody op i s) := done_kept (putTile_kept h)
@[simp] theorem execVadd_kept {shelf} : KeptBy s (execVadd shelf s) := runInsn_kept (fun _ _ h => binaryBody_kept h) (.refl s)
@[simp] theorem execVsub_kept {shelf} : KeptBy s (execVsub shelf s) := runInsn_kept (fun _ _ h => binaryBody_kept h) (.refl s)
theorem vmulBody_kept {i} (h : Kept b s) : DidKept b (vmulBody i s) := done_kept (putTile_kept h)
@[simp] theorem execVmul_kept {shelf} : KeptBy s (execVmul shelf s) := runInsn_kept (fun _ _ h => vmulBody_kept h) (.refl s)
@[simp] theorem execVexp_kept {shelf} : KeptBy s (execVexp shelf s) := runInsn_kept (fun _ _ h => unaryBody_kept h) (.refl s)
@[simp] theorem execVrcp_kept {shelf} : KeptBy s (execVrcp shelf s) := runInsn_kept (fun _ _ h => unaryBody_kept h) (.refl s)
@[simp] theorem execVrsq_kept {shelf} : KeptBy s (execVrsq shelf s) := runInsn_kept (fun _ _ h => unaryBody_kept h) (.refl s)
@[simp] theorem execVmax_kept {shelf} : KeptBy s (execVmax shelf s) := runInsn_kept (fun _ _ h => binaryBody_kept h) (.refl s)
theorem selectBody_kept {gt i} (h : Kept b s) : DidKept b (selectBody gt i s) := done_kept (putTile_kept h)
@[simp] theorem execVmaxi_kept {shelf} : KeptBy s (execVmaxi shelf s) := runInsn_kept (fun _ _ h => selectBody_kept h) (.refl s)
@[simp] theorem execVmini_kept {shelf} : KeptBy s (execVmini shelf s) := runInsn_kept (fun _ _ h => selectBody_kept h) (.refl s)
theorem vsumBody_kept {i} (h : Kept b s) : DidKept b (vsumBody i s) := done_kept (putTile_kept h)
@[simp] theorem execVsum_kept {shelf} : KeptBy s (execVsum shelf s) := runInsn_kept (fun _ _ h => vsumBody_kept h) (.refl s)
theorem ldtBody_kept {i} (h : Kept b s) : DidKept b (ldtBody i s) :=
  iteDid_kept (done_kept (countIntSat_kept (putTile_kept h))) (done_kept (putTile_kept h))
@[simp] theorem execLdt_kept {shelf} : KeptBy s (execLdt shelf s) := runInsn_kept (fun _ _ h => ldtBody_kept h) (.refl s)
theorem sttBody_kept {i} (h : Kept b s) : DidKept b (sttBody i s) :=
  done_kept (ite_kept (flagBlocks_kept (countBlocks_kept (writeStore_kept h))) (countBlocks_kept (writeStore_kept h)))
@[simp] theorem execStt_kept {shelf} : KeptBy s (execStt shelf s) := runInsn_kept (fun _ _ h => sttBody_kept h) (.refl s)
theorem startTransfer_kept {i t} (h : Kept b s) : DidKept b (startTransfer s i t) := done_kept (modScribe_kept h)

theorem gatherBody_kept {i} (h : Kept b s) : DidKept b (gatherBody i s) := by
  unfold gatherBody
  dsimp only
  split
  · exact fault_kept
  · exact iteDid_kept (fault_kept) (startTransfer_kept h)

@[simp] theorem execGather_kept {shelf} : KeptBy s (execGather shelf s) := runInsn_kept (fun _ _ h => gatherBody_kept h) (.refl s)

theorem scatterBody_kept {i} (h : Kept b s) : DidKept b (scatterBody i s) := by
  unfold scatterBody
  dsimp only
  split
  · exact fault_kept
  · exact iteDid_kept (fault_kept) (iteDid_kept (fault_kept) (startTransfer_kept h))

@[simp] theorem execScatter_kept {shelf} : KeptBy s (execScatter shelf s) := runInsn_kept (fun _ _ h => scatterBody_kept h) (.refl s)

theorem programEvent_kept {shelf j a tol fails} (h : Kept b s) : Kept b (programEvent s shelf j a tol fails) := by
  unfold programEvent
  exact fsr_kept (annal_kept (fset_kept (noteDetection_kept h)))

theorem checkEvent_kept {shelf j a bs tol} (h : Kept b s) : Kept b (checkEvent s shelf j a bs tol) := by
  unfold checkEvent
  dsimp only
  split
  · exact completeCheck_kept h
  · exact ite_kept h (ite_kept (annal_kept h) (ite_kept (poisonedEvent_kept h) (programEvent_kept h)))

theorem checkBody_kept {i} (h : Kept b s) : DidKept b (checkBody i s) := done_kept (ite_kept (checkEvent_kept (setX_kept h)) (setX_kept h))
@[simp] theorem execCheckTile_kept {shelf} : KeptBy s (execCheckTile shelf s) := runInsn_kept (fun _ _ h => checkBody_kept h) (.refl s)
theorem normwBody_kept {i} (h : Kept b s) : DidKept b (normwBody i s) := done_kept (ite_kept (modPass_kept h) h)
@[simp] theorem execNormw_kept {shelf} : KeptBy s (execNormw shelf s) := runInsn_kept (fun _ _ h => normwBody_kept h) (.refl s)
theorem selectLocal_kept {i} (h : Kept b s) : DidKept b (selectLocal i s) := done_kept (writeStore_kept h)
@[simp] theorem execSampleSelect_kept {shelf} : KeptBy s (execSampleSelect shelf s) := runInsn_kept (fun _ _ h => selectLocal_kept h) (.refl s)

theorem drawFor_kept {region j} (h : Kept b s) : Kept b (drawFor s region j) := by
  unfold drawFor
  dsimp only
  split
  · split
    · exact h
    · exact ite_kept (modPass_kept h) (annal_kept (modPass_kept h))
  · exact h

theorem drawBody_kept {i} (h : Kept b s) : DidKept b (drawBody i s) := by
  unfold drawBody
  dsimp only
  split
  · exact done_kept h
  · exact iteDid_kept (done_kept h) (iteDid_kept (stall_kept) (iteDid_kept (done_kept h) (done_kept (drawFor_kept h))))

@[simp] theorem execSampleDraw_kept {shelf} : KeptBy s (execSampleDraw shelf s) := runInsn_kept (fun _ _ h => drawBody_kept h) (.refl s)
@[simp] theorem execOutlierMinute_kept : KeptBy s (execOutlierMinute s) := next_kept (withCon_kept (foldl_kept (fun _ _ h => annal_kept h) (.refl s)))

/-! ### Pass boundaries -/

theorem readyCheck_kept {c rows} (h : Kept b s) : Kept b (readyCheck s c rows) := foldl_kept (fun _ _ h => readyJob_kept h) h

theorem sampleShelf_kept {p shelf n} (h : Kept b s) : Kept b (sampleShelf s p shelf n) := by
  unfold sampleShelf
  dsimp only
  refine ite_kept h ?_
  split
  · exact ite_kept (with_kept h) (ite_kept (discardCheck_kept (with_kept h)) (readyCheck_kept (modVig_kept (with_kept h))))
  · exact with_kept h

theorem sampleChecks_kept {p} (h : Kept b s) : Kept b (sampleChecks s p) := ite_kept (foldl_kept (fun _ _ h => sampleShelf_kept h) (modVig_kept h)) h
theorem detectN_kept {p st bit ratio} (h : Kept b s) : Kept b (detectN s p st bit ratio) :=
  foldl_kept (fun _ _ h => proveFirst_kept h) (announce_kept (ite_kept (fsr_kept (annal_kept (noteDetection_kept h))) (openTaint_kept (fsr_kept
    (annal_kept (noteDetection_kept h))))))

theorem watchStage_kept {p st} (h : Kept b s) : Kept b (watchStage s p st) := by
  unfold watchStage
  dsimp only
  split
  · exact h
  · exact ite_kept (modVig_kept h) (ite_kept (detectN_kept (modVig_kept h)) (ite_kept (detectN_kept (modVig_kept h)) (modVig_kept h)))

theorem watchNorms_kept {p} (h : Kept b s) : Kept b (watchNorms s p) := ite_kept (foldl_kept (fun _ _ h => watchStage_kept h) (modVig_kept h)) h
theorem passLocals_kept {p} (h : Kept b s) : Kept b (passLocals s p) := withCon_kept h

theorem settleSession_kept {p j res} (h : Kept b s) : Kept b (settleSession s p j res) := by
  unfold settleSession
  dsimp only
  split
  · exact h
  · exact ite_kept (killSession_kept (modSession_kept (foldl_kept (fun _ _ h => modPage_kept h) h))) (modSession_kept (foldl_kept
      (fun _ _ h => modPage_kept h) h))

theorem passEntries_kept {p rs} (h : Kept b s) : Kept b (passEntries s p rs) := by
  unfold passEntries
  dsimp only
  refine foldl_kept (fun _ _ h => ?_) (modCmd_kept h)
  split
  · exact h
  · exact ite_kept h (addEntry_kept h)

theorem shareDone_kept {p rs} (h : Kept b s) : Kept b (shareDone s p rs) := by
  unfold shareDone
  dsimp only
  split
  · exact modOrb_kept h
  · exact ite_kept (modOrb_kept h) (sendDone_kept (ite_kept (sendResults_kept (modOrb_kept h)) (modOrb_kept h)))

theorem dropLoans_kept {p} (h : Kept b s) : Kept b (dropLoans s p) := with_kept h
theorem endPass_kept {p0 obs} (h : Kept b s) : Kept b (endPass s p0 obs) :=
  retryLoans_kept (with_kept (modAcc_kept (modCarrel_kept (ite_kept (shareDone_kept (passEntries_kept (foldl_kept
    (fun _ _ h => settleSession_kept h) (dropLoans_kept (passLocals_kept (watchNorms_kept (sampleChecks_kept (foldl_kept
    (fun _ _ h => learnPhase_kept h) h)))))))) (passEntries_kept (foldl_kept (fun _ _ h => settleSession_kept h) (dropLoans_kept (passLocals_kept
    (watchNorms_kept (sampleChecks_kept (foldl_kept (fun _ _ h => learnPhase_kept h) h)))))))))))
theorem recipesNow_kept {r} (h : Kept b s) : Kept b (recipesNow s r) := with_kept h
theorem loseArchive_kept {r} (h : Kept b s) : Kept b (loseArchive s r) := modAcc_kept h
theorem flipAll_kept {r} (h : Kept b s) : Kept b (flipAll s r) :=
  foldl_kept (fun _ _ h => restartLocals_kept h) (flipCopies_kept (ite_kept (flipAccession_kept h) (ite_kept (flipRehousing_kept h) h)))
theorem windowsNow_kept {r} (h : Kept b s) : Kept b (windowsNow s r) :=
  modAcc_kept (ite_kept h (foldl_kept (fun _ _ h => ite_kept h (rescaleRegion_kept h)) h))
theorem boundaryChanges_kept {r} (h : Kept b s) : Kept b (boundaryChanges s r) :=
  tilesAtBoundary_kept (windowsNow_kept (ite_kept (flipAll_kept (loseArchive_kept (recipesNow_kept h))) (applyCoupled_kept (flipAll_kept
    (loseArchive_kept (recipesNow_kept h))))))
theorem boundaryEvents_kept {r flipped} (h : Kept b s) : Kept b (boundaryEvents s r flipped) :=
  ite_kept (nextShare_kept (ite_kept (isolate_kept (foldl_kept (fun _ _ h => resumeHall_kept h) (ite_kept (windowQuiet_kept (settleTaints_kept
    (shelterRegion_kept h))) (foldl_kept (fun _ _ h => insertForced_kept h) (windowQuiet_kept (settleTaints_kept (shelterRegion_kept h)))))))
    (foldl_kept (fun _ _ h => resumeHall_kept h) (ite_kept (windowQuiet_kept (settleTaints_kept (shelterRegion_kept h))) (foldl_kept
    (fun _ _ h => insertForced_kept h) (windowQuiet_kept (settleTaints_kept (shelterRegion_kept h)))))))) (ite_kept (isolate_kept (foldl_kept
    (fun _ _ h => resumeHall_kept h) (ite_kept (windowQuiet_kept (settleTaints_kept (shelterRegion_kept h))) (foldl_kept
    (fun _ _ h => insertForced_kept h) (windowQuiet_kept (settleTaints_kept (shelterRegion_kept h))))))) (foldl_kept
    (fun _ _ h => resumeHall_kept h) (ite_kept (windowQuiet_kept (settleTaints_kept (shelterRegion_kept h))) (foldl_kept
    (fun _ _ h => insertForced_kept h) (windowQuiet_kept (settleTaints_kept (shelterRegion_kept h)))))))

@[simp] theorem execCommitRecordsDurable_kept {region nandOk colophonOk} : KeptBy s (execCommitRecordsDurable region nandOk colophonOk s) := by
  refine next_kept ?_
  dsimp only
  split
  · exact ite_kept (.refl s) (ite_kept (modAcc_kept (accDone_kept (.refl s))) (ite_kept (modAcc_kept (with_kept (foldl_kept
      (fun _ _ h => recordMoments_kept h) (.refl s)))) (boundaryEvents_kept (boundaryChanges_kept (modAcc_kept (with_kept (foldl_kept
      (fun _ _ h => recordMoments_kept h) (.refl s))))))))
  · exact (.refl s)

@[simp] theorem execPassBoundary_kept {region obs} : KeptBy s (execPassBoundary region obs s) := by
  refine next_kept ?_
  refine ite_kept (.refl s) ?_
  split
  · exact boundaryEvents_kept (boundaryChanges_kept (.refl s))
  · exact ite_kept (boundaryEvents_kept (boundaryChanges_kept (endPass_kept (.refl s)))) (.refl s)

@[simp] theorem execPassDispatch_kept {stream seq} : KeptBy s (execPassDispatch stream seq s) := by
  refine next_kept ?_
  dsimp only
  split
  · exact (.refl s)
  · refine ite_kept (.refl s) ?_
    split
    · exact refuseUnfit_kept (boundaryChanges_kept (.refl s))
    · refine ite_kept (foldl_kept (fun _ _ h => startReturn_kept h) (refuseUnfit_kept (boundaryChanges_kept (.refl s)))) ?_
      split
      · exact growAll_kept (refuseUnfit_kept (boundaryChanges_kept (.refl s)))
      · exact ite_kept (growAll_kept (refuseUnfit_kept (boundaryChanges_kept (.refl s)))) (launch_kept (leaveIdle_kept (growAll_kept
          (refuseUnfit_kept (boundaryChanges_kept (.refl s))))))

theorem exec_kept (c : Instr) : KeptBy s (exec c s) := by
  cases c <;> simp [exec]

theorem step_kept {t : State} (h : step s = .next t) :
    t.pending = s.pending.tail ∧ (s.regsOk → t.regsOk) ∧ s.con.failedShelves ⊆ t.con.failedShelves ∧ s.con.failedHalls ⊆ t.con.failedHalls := by
  unfold step at h
  split at h
  · next hidle =>
    cases h
    obtain ⟨hqueue, hrest⟩ := idleTick_kept (.refl s)
    exact ⟨by rw [hqueue, hidle]; rfl, hrest⟩
  · next c rest hfront =>
    obtain ⟨hqueue, hrest⟩ := exec_kept (s := { s with pending := rest }) c t h
    exact ⟨by rw [hqueue, hfront]; rfl, hrest⟩

/-- Settles O54: no command touches the queue (`exec_kept`), and a step carries out its front command on the queue's rest. -/
theorem everyStepTakesOneCommand : Obligations.EveryStepTakesOneCommand := by
  refine ⟨fun c s t h => ?_, fun s t h => ?_⟩
  · obtain ⟨hqueue, -⟩ := exec_kept c t h
    exact hqueue
  · obtain ⟨hqueue, -⟩ := step_kept h
    exact hqueue

/-- Settles O55: every operation writes registers one by one or drops some, and either keeps the canonical form (`step_kept`). -/
theorem everyStepKeepsTheRegisterTable : Obligations.EveryStepKeepsTheRegisterTable := by
  intro s t hs h
  obtain ⟨-, hregs, -⟩ := step_kept h
  exact hregs hs

/-- Settles O59: units are only added to those that failed, and a reset keeps them (`loseAll_kept`, `step_kept`). -/
theorem failedUnitsStayFailed : Obligations.FailedUnitsStayFailed := by
  refine ⟨rfl, rfl, fun s t h => ?_⟩
  obtain ⟨-, -, hshelves, hhalls⟩ := step_kept h
  exact ⟨fun x hx => hshelves hx, fun x hx => hhalls hx⟩

end Sys2Proof.Machine
end
end

section
/-!
PROOFS. A step is the front command's effect: no command's row ends in a fault or a refusal.
-/
section
open Sys2Proof Sys2Proof.Machine
namespace Sys2Proof.Machine

/-- Every row of the dispatch is a function that ends in a next state. -/
theorem exec_next (c : Instr) (s : State) : ∃ t, exec c s = .next t := by
  cases c <;> exact ⟨_, rfl⟩

/-- Settles O53: `step` looks only at the front of the queue, and every command has a next state (`exec_next`). -/
theorem stepTakesTheFrontCommand : Obligations.StepTakesTheFrontCommand := by
  refine ⟨fun c rest s hfront => ?_, fun s hidle => ?_, exec_next, rfl⟩
  · unfold step
    rw [hfront]
  · unfold step
    rw [hidle]

end Sys2Proof.Machine
end
end

section
/-!
PROOFS. The annals (R367 to R370): what a record changes, how the ring becomes durable, how the counts of a second start again; with them the other periodic
counts and the write of PWR.CAP, whose ignored fields leave a record.
-/
section
open Sys2Proof Sys2Proof.Machine
namespace Sys2Proof.Machine

variable {s : State}

/-! ### What one record changes (R367, R369, R370) -/

/-- The registers after a record: LAST_SEQ shows its SEQ, DROPPED counts what the ring lost, ALERT is set from MIN_SEVERITY on. -/
theorem writeRec_regs (s : State) (kind sev : Nat) (obj : Obj) (a0 a1 a2 : Nat) :
    ∃ u, (u = fset s Reg.ANN_LAST_SEQ.SEQ (s.ann.lastSeq + 1) ∨
        ringSize ≤ s.ann.ring.length ∧ u = fbump (fset s Reg.ANN_LAST_SEQ.SEQ (s.ann.lastSeq + 1)) Reg.ANN_DROPPED.COUNT 1) ∧
      (writeRec s kind sev obj a0 a1 a2).regs = (if fget s Reg.ANN_CTRL.MIN_SEVERITY ≤ sev then fset u Reg.ANN_CTRL.ALERT 1 else u).regs ∧
      (writeRec s kind sev obj a0 a1 a2).pst.sbAlert = (if fget s Reg.ANN_CTRL.MIN_SEVERITY ≤ sev then true else s.pst.sbAlert) := by
  unfold writeRec
  dsimp only
  by_cases hroom : (makeRoom (fget s Reg.ANN_DURABLE_SEQ.SEQ) s.ann.ring).2 = true
  · refine ⟨_, .inr ⟨?_, rfl⟩, ?_⟩
    · by_contra hlen
      simp [makeRoom, Nat.lt_of_not_le hlen] at hroom
    · rw [if_pos hroom]
      split <;> exact ⟨rfl, rfl⟩
  · refine ⟨_, .inl rfl, ?_⟩
    rw [if_neg hroom]
    split <;> exact ⟨rfl, rfl⟩

theorem writeRec_ring (hlen : s.ann.ring.length < ringSize) (kind sev : Nat) (obj : Obj) (a0 a1 a2 : Nat) :
    (writeRec s kind sev obj a0 a1 a2).ann.ring.tail = s.ann.ring := by
  have hroom : (makeRoom (fget s Reg.ANN_DURABLE_SEQ.SEQ) s.ann.ring).1 = s.ann.ring := by simp [makeRoom, hlen]
  unfold writeRec
  dsimp only
  split <;> split <;> exact hroom

/-- What a written record shows: LAST_SEQ, ALERT and the alert pin, and with room in the ring DROPPED as it was. -/
theorem writeRec_shows (hok : s.regsOk) (kind sev : Nat) (obj : Obj) (a0 a1 a2 : Nat) :
    let t := writeRec s kind sev obj a0 a1 a2
    fget t Reg.ANN_LAST_SEQ.SEQ = t.ann.lastSeq % 2 ^ 64 ∧
      (s.ann.ring.length < ringSize → t.ann.ring.tail = s.ann.ring ∧ rget t Reg.ANN_DROPPED.COUNT.addr = rget s Reg.ANN_DROPPED.COUNT.addr) ∧
      fget t Reg.ANN_CTRL.ALERT = (if fget s Reg.ANN_CTRL.MIN_SEVERITY ≤ sev then 1 else fget s Reg.ANN_CTRL.ALERT) ∧
      t.pst.sbAlert = (if fget s Reg.ANN_CTRL.MIN_SEVERITY ≤ sev then true else s.pst.sbAlert) := by
  intro t
  obtain ⟨u, hu, hregs, hpin⟩ := writeRec_regs s kind sev obj a0 a1 a2
  obtain ⟨hlast, -⟩ := writeRec_ann s kind sev obj a0 a1 a2
  have hset := regsOk_fset hok Reg.ANN_LAST_SEQ.SEQ (s.ann.lastSeq + 1)
  have hseq := fget_fset_same hok Reg.ANN_LAST_SEQ.SEQ (s.ann.lastSeq + 1) (by decide)
  have halert : fget (fset s Reg.ANN_LAST_SEQ.SEQ (s.ann.lastSeq + 1)) Reg.ANN_CTRL.ALERT = fget s Reg.ANN_CTRL.ALERT :=
    fget_fset_other hok _ _ _ (by decide) (by decide)
  obtain ⟨huok, huseq, hualert⟩ : u.regsOk ∧ fget u Reg.ANN_LAST_SEQ.SEQ = (s.ann.lastSeq + 1) % 2 ^ 64 ∧ fget u Reg.ANN_CTRL.ALERT = fget s Reg.ANN_CTRL.ALERT := by
    rcases hu with rfl | ⟨-, rfl⟩
    · exact ⟨hset, hseq, halert⟩
    · refine ⟨regsOk_fbump hset .., ?_, ?_⟩
      · rw [fget_fbump_other hset _ _ _ (by decide) (by decide), hseq]; rfl
      · rw [fget_fbump_other hset _ _ _ (by decide) (by decide), halert]
  refine ⟨?_, fun hlen => ⟨writeRec_ring hlen .., ?_⟩, ?_, hpin⟩
  · rw [fget_of_regs hregs, show t.ann.lastSeq = s.ann.lastSeq + 1 from hlast]
    split
    · rw [fget_fset_other huok _ _ _ (by decide) (by decide), huseq]
    · exact huseq
  · have hu : u = fset s Reg.ANN_LAST_SEQ.SEQ (s.ann.lastSeq + 1) := hu.resolve_right fun h => by
      obtain ⟨hfull, -⟩ := h
      omega
    have hdropped : rget u Reg.ANN_DROPPED.COUNT.addr = rget s Reg.ANN_DROPPED.COUNT.addr := hu ▸ rget_fset_ne hok _ (by decide)
    rw [rget_of_regs hregs]
    split
    · rw [rget_fset_ne huok _ (by decide), hdropped]
    · exact hdropped
  · rw [fget_of_regs hregs]
    split
    · exact fget_fset_same huok _ _ (by decide)
    · exact hualert

/-- A record is written, or held back: then only its kind's count rises, and DROPPED with it. -/
theorem annal_cases (s : State) (kind sev : Nat) (obj : Obj) (a0 a1 a2 : Nat) :
    (∃ counts, annal s kind sev obj a0 a1 a2 = writeRec { s with ann := { s.ann with counts := counts } } kind sev obj a0 a1 a2) ∨
      ∃ counts, annal s kind sev obj a0 a1 a2 = fbump { s with ann := { s.ann with counts := counts } } Reg.ANN_DROPPED.COUNT 1 := by
  unfold annal
  dsimp only
  split
  · split
    · exact .inl ⟨_, rfl⟩
    · exact .inr ⟨_, rfl⟩
  · exact .inl ⟨_, rfl⟩

/-! ### The ring becomes durable, and the alert is cleared (R368, R370) -/

theorem flushAnnals_none (h : ∀ r ∈ s.ann.ring, r.seq ≤ durableSeq s) : flushAnnals s = s := by
  have hnone : (s.ann.ring.filter fun r => decide (durableSeq s < r.seq)) = [] := by
    simpa using h
  simp only [flushAnnals, hnone]

/-- What the area then holds: while it has room, the records that were not durable, and what it held. -/
theorem flushAnnals_some {r : Rec} {rs : List Rec} (hring : s.ann.ring = r :: rs) (hnew : durableSeq s < r.seq)
    (hroom : s.cur.durable.length + s.ann.ring.length ≤ areaRecords) :
    flushAnnals s = rset { s with cur := { s.cur with
      durable := (s.ann.ring.filter fun x => decide (durableSeq s < x.seq)) ++ s.cur.durable } } Reg.ANN_DURABLE_SEQ.SEQ.addr (BitVec.ofNat 64 r.seq) := by
  have hlen := List.length_filter_le (fun x : Rec => decide (durableSeq s < x.seq)) s.ann.ring
  have hhead : (s.ann.ring.filter fun x => decide (durableSeq s < x.seq)) = r :: rs.filter fun x => decide (durableSeq s < x.seq) := by
    rw [hring, List.filter_cons_of_pos (by simpa using hnew)]
  have hkept : ∀ l : List Rec, l.length ≤ areaRecords → reuseSegments l = l := fun l hl => by
    have : 1024 * ((l.length - areaRecords + 1023) / 1024) = 0 := by omega
    rw [reuseSegments, this, Nat.sub_zero, List.take_length]
  simp only [flushAnnals]
  rw [hhead] at hlen ⊢
  dsimp only
  rw [hkept _ (by simp only [List.length_append] at hlen ⊢; omega)]

/-- Both ways to flush carry out the same, where the module is powered and the NAND takes it. -/
theorem exec_flush (hpow : unpowered s = false) {i : Instr} (h : i = Instr.annalsFlush true ∨ ∃ v : Nat, v.testBit 9 = true ∧ i = Instr.flush 8 v true) :
    exec i s = .next (flushAnnals s) := by
  rcases h with rfl | ⟨v, hv, rfl⟩
  · show execAnnalsFlush true s = _
    simp [execAnnalsFlush, hpow]
  · show execFlush 8 v true s = _
    simp [execFlush, hpow, hv]

/-- Settles O6: a record is written (`writeRec_shows`) or held back (`annal_cases`); a flush moves what is not yet durable (`flushAnnals_some`). -/
theorem annalsRecordsRiseAndFlush : Obligations.AnnalsRecordsRiseAndFlush := by
  refine ⟨fun s kind sev obj a0 a1 a2 hok => ⟨annal_recorded .., annal_frame .., fun a _ ha => annal_rget hok _ _ _ _ _ _ ha, ?_⟩,
    fun s hok hpow => ⟨fun i hi hnone => ?_, fun i r rs hi hring hnew hroom => ?_, fun v hv => ?_⟩⟩
  · rcases annal_cases s kind sev obj a0 a1 a2 with ⟨counts, h⟩ | ⟨counts, h⟩
    · have hshows := writeRec_shows (s := { s with ann := { s.ann with counts := counts } }) hok kind sev obj a0 a1 a2
      obtain ⟨hlast, -⟩ := writeRec_ann { s with ann := { s.ann with counts := counts } } kind sev obj a0 a1 a2
      rw [h]
      exact ⟨fun _ => hshows, fun hsame => absurd (hlast.symm.trans hsame) (Nat.succ_ne_self _)⟩
    · have hcount := fbump_counted (s := { s with ann := { s.ann with counts := counts } }) hok Reg.ANN_DROPPED.COUNT 1 (by decide)
      rw [h]
      exact ⟨fun hnew => absurd rfl hnew, fun _ => ⟨hcount, rfl⟩⟩
  · rw [exec_flush hpow hi, flushAnnals_none hnone]
  · refine ⟨_, exec_flush hpow hi, ?_⟩
    rw [flushAnnals_some hring hnew hroom]
    have hhead : ((s.ann.ring.filter fun x => decide (durableSeq s < x.seq)) ++ s.cur.durable).head? = some r := by
      rw [hring, List.filter_cons_of_pos (by simpa using hnew)]; rfl
    refine ⟨rfl, ?_, ?_, fun x hx hlt => ?_, fun x hx => List.mem_append_right _ hx, fun a ha => rget_rset_ne (s := { s with cur := _ }) hok _ ha⟩
    · exact congrArg (fun x => (Option.map Rec.seq x).getD 0) hhead
    · exact (congrArg (fun v => fieldOf v 0 64) (rget_rset_same (s := { s with cur := _ }) hok _ _)).trans (by simp [fieldOf, nbits])
    · exact List.mem_append_left _ (List.mem_filter.mpr ⟨hx, by simpa using hlt⟩)
  · have hexec : execAlertClear 8 v s = .next (fset { s with pst := { s.pst with sbAlert := false } } Reg.ANN_CTRL.ALERT 0) := by
      simp [execAlertClear, hpow, hv]
    refine ⟨_, hexec, rfl, ?_, ?_, fun a ha => rget_fset_ne (s := { s with pst := _ }) hok _ ha⟩
    · exact fget_fset_same (s := { s with pst := _ }) hok _ _ (by decide)
    · exact fget_fset_other (s := { s with pst := _ }) hok _ _ _ (by decide) (by decide)

/-! ### PWR.CAP (R331, R8) -/

/-- The fields of PWR.CAP, as the row of their own takes them. -/
def capFields : List FieldDef := [⟨16, 9, .rw, [(100, 400)], false⟩, ⟨0, 14, .rw, [(3000, 14000)], false⟩]

theorem capFields_eq : ((regAt 0x200008).elim [] (·.fields)).map (fun f => { f with own := false }) = capFields := by decide

/-- PWR.CAP after a write: each field on its own. -/
def capAfter (s : State) (value : Nat) : W64 := (writeFields s 0x200008 value 0 64 capFields (rget s 0x200008)).1

theorem fieldOf_capAfter {f : FieldDef} (hf : f ∈ capFields) (value : Nat) :
    fieldOf (capAfter s value) f.lo f.w = if inMap f (nbits value f.lo f.w) = true then nbits value f.lo f.w else fieldOf (rget s 0x200008) f.lo f.w := by
  have hshape : ∀ f ∈ capFields, (0 ≤ f.lo ∧ f.lo + f.w ≤ 64) ∧ f.own = false ∧ f.acc = .rw := by decide
  obtain ⟨hin, hown, hacc⟩ := hshape f hf
  have htake : ∀ x, mayTake s 0x200008 value f x = true := fun x => by simp [mayTake]
  rw [capAfter, fieldOf_writeFields (by decide) hf, FieldDef.after_rw hin hown hacc]
  simp only [htake, and_true]

/-- A write of 8 bytes that the module takes: the register takes the fields' new values, and what was ignored is recorded. -/
theorem exec_capWrite {standby : Bool} (hpow : unpowered s = false) (hport : (standbyMode s && standby) = false) (value : Nat) :
    ∃ u, (u = s ∨ u = ignored s 0x200008 value) ∧
      exec (.capWrite standby 8 value) s = .next
        (let t := rset u 0x200008 (capAfter s (value % 2 ^ 64))
         let lowered := decide (fget t Reg.PWR_CAP.CAP_DW < fget s Reg.PWR_CAP.CAP_DW ∨ fget t Reg.PWR_CAP.ILIM_DA < fget s Reg.PWR_CAP.ILIM_DA)
         if lowered && s.pwr.excursion.isSome then { t with pwr := { t.pwr with capPending := true } } else t) := by
  let note := (writeFields s 0x200008 (value % 2 ^ 64) 0 64 capFields (rget s 0x200008)).2 || reservedSet (value % 2 ^ 64) 0 64 capFields
  refine ⟨if note then ignored s 0x200008 value else s, ?_, ?_⟩
  · split
    · exact .inr rfl
    · exact .inl rfl
  · show execCapWrite standby 8 value s = _
    have hwide : ((8 : Nat) != 4 && (8 : Nat) != 8) = false := rfl
    simp only [execCapWrite, hpow, hport, hwide, capFields_eq, Bool.or_self, Bool.false_eq_true, if_false]
    rfl

theorem nbits_mod64 (v lo w : Nat) (h : lo + w ≤ 64) : nbits (v % 2 ^ 64) lo w = nbits v lo w := by
  apply Nat.eq_of_testBit_eq
  intro i
  rw [nbits_testBit, nbits_testBit, Nat.testBit_mod_two_pow]
  by_cases hi : i < w
  · simp [hi, show lo + i < 64 by omega]
  · simp [hi]

/-- What a write of 8 bytes leaves of the two fields. -/
theorem fget_capAfter {u : State} (hu : u.regsOk) (value : Nat) :
    fget (rset u 0x200008 (capAfter s (value % 2 ^ 64))) Reg.PWR_CAP.CAP_DW =
        (if 3000 ≤ nbits value 0 14 ∧ nbits value 0 14 ≤ 14000 then nbits value 0 14 else fget s Reg.PWR_CAP.CAP_DW) ∧
      fget (rset u 0x200008 (capAfter s (value % 2 ^ 64))) Reg.PWR_CAP.ILIM_DA =
        (if 100 ≤ nbits value 16 9 ∧ nbits value 16 9 ≤ 400 then nbits value 16 9 else fget s Reg.PWR_CAP.ILIM_DA) := by
  have hfield : ∀ f ∈ capFields, fget (rset u 0x200008 (capAfter s (value % 2 ^ 64))) ⟨0x200008, f.lo, f.w⟩ =
      if inMap f (nbits value f.lo f.w) = true then nbits value f.lo f.w else fget s ⟨0x200008, f.lo, f.w⟩ := fun f hf => by
    have hfit : ∀ f ∈ capFields, f.lo + f.w ≤ 64 := by decide
    rw [fget, rget_rset_same hu, fieldOf_capAfter hf, nbits_mod64 _ _ _ (hfit f hf)]
    rfl
  refine ⟨(hfield ⟨0, 14, .rw, [(3000, 14000)], false⟩ (by decide)).trans ?_, (hfield ⟨16, 9, .rw, [(100, 400)], false⟩ (by decide)).trans ?_⟩ <;>
    · simp only [inMap, List.isEmpty_cons, List.any_cons, List.any_nil, Bool.or_false, Bool.false_or, decide_eq_true_eq]
      rfl

/-! ### The tick of a second (R369) -/

/-- The annals after a record: it stands newest, its kind is no longer flagged, the counts are as they were. -/
theorem writeRec_annals (s : State) (kind sev : Nat) (obj : Obj) (a0 a1 a2 : Nat) :
    ∃ r : Rec, r.kind = kind ∧ r.a0 = a0 % 2 ^ 64 ∧ r.a1 = a1 % 2 ^ 64 ∧ (writeRec s kind sev obj a0 a1 a2).ann =
      { s.ann with lastSeq := s.ann.lastSeq + 1, ring := r :: (makeRoom (fget s Reg.ANN_DURABLE_SEQ.SEQ) s.ann.ring).1
                   flagged := s.ann.flagged.filter (· != kind) } := by
  unfold writeRec
  dsimp only
  split <;> split <;> exact ⟨_, rfl, rfl, rfl, rfl⟩

/-- In the present second `n` records of kind `kind` were written and none of another kind, and none was held back. -/
def onlyCounted (a : Annals) (kind n : Nat) : Prop := ∀ k, (kindCount a k).written = (if k = kind then n else 0) ∧ (kindCount a k).held = 0

theorem onlyCounted_setCount {a : Annals} {kind n : Nat} (h : onlyCounted a kind n) (m : Nat) :
    onlyCounted { a with counts := setCount a { kindCount a kind with written := m } } kind m := by
  intro k
  by_cases hk : k = kind
  · subst hk
    have hput : kindCount { a with counts := setCount a { kindCount a k with written := m } } k = { kindCount a k with written := m } := by
      have := kindCount_setCount a { kindCount a k with written := m }
      rwa [show ({ kindCount a k with written := m } : KindCount).kind = k from kindCount_kind a k] at this
    rw [hput, if_pos rfl]
    exact ⟨rfl, (h k).2⟩
  · have hput : kindCount { a with counts := setCount a { kindCount a kind with written := m } } k = kindCount a k := by
      have hne : ¬ (kindCount a kind).kind = k := by rw [kindCount_kind]; exact fun h => hk h.symm
      have hfind : (a.counts.filter fun x => x.kind != (kindCount a kind).kind).find? (fun c => c.kind == k) = a.counts.find? fun c => c.kind == k := by
        rw [List.find?_filter]
        congr 1
        funext c
        by_cases hc : c.kind = k
        · simp [hc, Ne.symm hne]
        · simp [hc]
      simp only [kindCount, setCount] at hfind hne ⊢
      rw [List.find?_cons_of_neg (by simpa using hne), hfind]
    rw [hput]
    have := h k
    rwa [if_neg hk] at this ⊢

/-- Records of one kind are records alone, however many. -/
theorem foldl_annal_recordsOnly {α : Type} (hok : s.regsOk) (kind : Nat) (obj : Obj) (f g : α → Nat) (l : List α) :
    RecordsOnly s (l.foldl (fun s c => annal s kind 2 obj (f c) (g c) 0) s) := by
  induction l generalizing s with
  | nil => exact .refl hok
  | cons c l ih => exact ((RecordsOnly.refl hok).annal ..).trans (ih (annal_regsOk hok ..))

/-- Records of one kind, `n` of it written before in the second and no more than 100 in all: each is written, none held back. -/
theorem foldl_annal_written {α : Type} (kind : Nat) (obj : Obj) (f g : α → Nat) (l : List α) {n : Nat} (hn : n + l.length ≤ 100)
    (h : onlyCounted s.ann kind n) :
    let t := l.foldl (fun s c => annal s kind 2 obj (f c) (g c) 0) s
    onlyCounted t.ann kind (n + l.length) ∧ (∀ k, k ≠ kind → k ∈ s.ann.flagged → k ∈ t.ann.flagged) ∧
      (s.ann.ring.length + l.length ≤ ringSize → (∀ r ∈ s.ann.ring, r ∈ t.ann.ring) ∧
        ∀ c ∈ l, ∃ r ∈ t.ann.ring, r.kind = kind ∧ r.a0 = f c % 2 ^ 64 ∧ r.a1 = g c % 2 ^ 64) := by
  induction l generalizing s n with
  | nil => exact ⟨h, fun _ _ h => h, fun _ => ⟨fun _ h => h, fun _ h => nomatch h⟩⟩
  | cons c l ih =>
    simp only [List.length_cons] at hn ⊢
    have hwritten : (kindCount s.ann kind).written = n := by
      obtain ⟨hw, -⟩ := h kind
      rwa [if_pos rfl] at hw
    let counts := setCount s.ann { kindCount s.ann kind with written := n + 1 }
    have hrec : annal s kind 2 obj (f c) (g c) 0 = writeRec { s with ann := { s.ann with counts := counts } } kind 2 obj (f c) (g c) 0 := by
      simp only [annal, hwritten, show n < 100 by omega, if_true, show (2 : Nat) < 3 by omega, counts]
    obtain ⟨r, hkind, ha0, ha1, hann⟩ := writeRec_annals { s with ann := { s.ann with counts := counts } } kind 2 obj (f c) (g c) 0
    rw [← hrec] at hann
    have hcounted : onlyCounted (annal s kind 2 obj (f c) (g c) 0).ann kind (n + 1) := by
      rw [hann]
      exact onlyCounted_setCount h (n + 1)
    obtain ⟨hall, hflags, hring⟩ := ih (by omega) hcounted
    refine ⟨by rwa [Nat.add_right_comm] at hall, fun k hk hmem => hflags k hk ?_, fun hroom => ?_⟩
    · rw [hann]
      exact List.mem_filter.mpr ⟨hmem, by simpa using hk⟩
    · have hnew : (annal s kind 2 obj (f c) (g c) 0).ann.ring = r :: s.ann.ring := by
        rw [hann]
        simp [makeRoom, show s.ann.ring.length < ringSize by omega]
      rw [hnew] at hring
      obtain ⟨hkept, hnewer⟩ := hring (by rw [List.length_cons]; omega)
      refine ⟨fun x hx => hkept x (List.mem_cons_of_mem _ hx), fun x hx => ?_⟩
      rcases List.mem_cons.mp hx with rfl | hx
      · exact ⟨r, hkept r List.mem_cons_self, hkind, ha0, ha1⟩
      · exact hnewer x hx

/-- The kinds that were held back in the second that ends. -/
def heldKinds (s : State) : List KindCount := s.ann.counts.filter fun c => decide (0 < c.held)

/-- The counts of a second start again; the next record of a held kind will be flagged. -/
def secondBegun (s : State) : State :=
  { s with ann := { s.ann with counts := [], flagged := (((heldKinds s).map fun c => c.kind) ++ s.ann.flagged).eraseDups } }

theorem exec_annalsRateSecond (hpow : unpowered s = false) :
    exec .annalsRateSecond s = .next ((heldKinds s).foldl (fun s c => annal s 0x0003 2 {} c.kind c.held 0) (secondBegun s)) := by
  show execAnnalsRateSecond s = _
  simp only [execAnnalsRateSecond, hpow]
  rfl

/-! ### The hour (R327) -/

/-- One die's hour: its count rises, and its guard follows from the hours counted before. -/
def dieHour (t : State) (d : Nat) : State :=
  let hrs := sget (fun _ => (0 : Nat)) t.pwr.hours d
  { t with pwr := { t.pwr with hours := sset (fun _ => (0 : Nat)) t.pwr.hours d (min (hrs + 1) (2 ^ 32 - 1))
                               guardUv := sset (fun _ => (0 : Nat)) t.pwr.guardUv d (ageUv hrs) } }

/-- The hours of several dies, each on its own. -/
theorem foldl_dieHour (l : List Nat) (hl : l.Nodup) (hh : swf (fun _ => (0 : Nat)) s.pwr.hours = true) (hg : swf (fun _ => (0 : Nat)) s.pwr.guardUv = true) :
    let t := l.foldl dieHour s
    t = { s with pwr := { s.pwr with hours := t.pwr.hours, guardUv := t.pwr.guardUv } } ∧
      (∀ d ∉ l, sget (fun _ => (0 : Nat)) t.pwr.hours d = sget (fun _ => (0 : Nat)) s.pwr.hours d ∧
        sget (fun _ => (0 : Nat)) t.pwr.guardUv d = sget (fun _ => (0 : Nat)) s.pwr.guardUv d) ∧
      ∀ d ∈ l, sget (fun _ => (0 : Nat)) t.pwr.hours d = min (sget (fun _ => (0 : Nat)) s.pwr.hours d + 1) (2 ^ 32 - 1) ∧
        sget (fun _ => (0 : Nat)) t.pwr.guardUv d = ageUv (sget (fun _ => (0 : Nat)) s.pwr.hours d) := by
  induction l generalizing s with
  | nil => exact ⟨rfl, fun _ _ => ⟨rfl, rfl⟩, fun _ h => nomatch h⟩
  | cons d l ih =>
    obtain ⟨hd, hl⟩ := List.nodup_cons.mp hl
    obtain ⟨hframe, hout, hin⟩ := ih (s := dieHour s d) hl (sset_swf _ _ hh) (sset_swf _ _ hg)
    have hsame := sget_sset_same (i := d) (x := min (sget (fun _ => (0 : Nat)) s.pwr.hours d + 1) (2 ^ 32 - 1)) hh
    have hsame' := sget_sset_same (i := d) (x := ageUv (sget (fun _ => (0 : Nat)) s.pwr.hours d)) hg
    have hother : ∀ e, e ≠ d → sget (fun _ => (0 : Nat)) (dieHour s d).pwr.hours e = sget (fun _ => (0 : Nat)) s.pwr.hours e ∧
        sget (fun _ => (0 : Nat)) (dieHour s d).pwr.guardUv e = sget (fun _ => (0 : Nat)) s.pwr.guardUv e := fun e he =>
      ⟨sget_sset_ne hh he, sget_sset_ne hg he⟩
    refine ⟨by rw [List.foldl_cons, hframe]; rfl, fun e he => ?_, fun e he => ?_⟩
    · obtain ⟨hne, hnot⟩ := not_or.mp (mt List.mem_cons.mpr he)
      obtain ⟨hh', hg'⟩ := hout e hnot
      obtain ⟨hh'', hg''⟩ := hother e hne
      exact ⟨hh'.trans hh'', hg'.trans hg''⟩
    · rcases List.mem_cons.mp he with rfl | he
      · obtain ⟨hh', hg'⟩ := hout _ hd
        exact ⟨hh'.trans hsame, hg'.trans hsame'⟩
      · obtain ⟨hh', hg'⟩ := hin e he
        obtain ⟨hh'', -⟩ := hother e fun h => hd (h ▸ he)
        exact ⟨hh'.trans (by rw [hh'']), hg'.trans (by rw [hh''])⟩

/-- Settles O5: PWR.CAP takes each field on its own (`fget_capAfter`), the second's records are all written (`foldl_annal_written`), each die counts its hour
(`foldl_dieHour`). -/
theorem capWritesAndPeriodicCounts : Obligations.CapWritesAndPeriodicCounts := by
  refine ⟨fun standby value s hok hpow hport => ?_, fun s hok hpow => ⟨?_, fun hawake hh hg => ?_, ?_⟩⟩
  · obtain ⟨u, hu, hexec⟩ := exec_capWrite hpow hport value
    obtain ⟨huok, hframe, hregs⟩ : u.regsOk ∧ u = s.withRegs u ∧ s.regsFrom u [] := by
      rcases hu with rfl | rfl
      · exact ⟨hok, rfl, fun _ _ _ => rfl⟩
      · obtain ⟨hframe, hregs, -⟩ := ignored_effect hok 0x200008 value
        exact ⟨annal_regsOk hok .., hframe, hregs⟩
    obtain ⟨hcap, hilim⟩ := fget_capAfter (s := s) huok value
    have hpwr : u.pwr = s.pwr := by rw [hframe]; rfl
    have hfrom : s.regsFrom (rset u 0x200008 (capAfter s (value % 2 ^ 64))) [Reg.PWR_CAP.CAP_DW.addr] := fun a ha hann =>
      (rget_rset_ne huok _ (List.ne_of_not_mem_cons ha)).trans (hregs a (by simp) hann)
    refine ⟨_, hexec, ?_⟩
    dsimp only
    split
    · refine ⟨by rw [hframe]; rfl, hfrom, hcap, hilim, fun _ _ => rfl, fun hnone => ?_⟩
      next hlow => simp [hnone] at hlow
    · next hlow =>
      refine ⟨by rw [hframe]; rfl, hfrom, hcap, hilim, fun hexc hlower => absurd ?_ hlow, fun _ => congrArg PowerUnit.capPending hpwr⟩
      rw [Bool.and_eq_true, decide_eq_true_eq]
      exact ⟨hlower, Option.isSome_iff_ne_none.mpr hexc⟩
  · have honly := foldl_annal_recordsOnly (s := secondBegun s) hok 0x0003 {} KindCount.kind KindCount.held (heldKinds s)
    refine ⟨_, exec_annalsRateSecond hpow, honly.frame, fun a _ ha => honly.rget_eq ha, fun (hfew : (heldKinds s).length ≤ 100) => ?_⟩
    have hnone : onlyCounted (secondBegun s).ann 0x0003 0 := fun k => ⟨by split <;> rfl, rfl⟩
    obtain ⟨hcounts, hflags, hring⟩ :=
      foldl_annal_written (s := secondBegun s) 0x0003 {} KindCount.kind KindCount.held (heldKinds s) (by omega) hnone
    refine ⟨fun k => (hcounts k).2, fun k hk => (hcounts k).1.trans (if_neg hk), fun c hc hheld hroom => ⟨?_, fun hkind => hflags _ hkind ?_⟩⟩
    · obtain ⟨-, hnew⟩ := hring (Nat.le_trans (Nat.add_le_add_left hfew _) hroom)
      exact hnew c (List.mem_filter.mpr ⟨hc, by simpa using hheld⟩)
    · simp only [secondBegun, List.mem_eraseDups, List.mem_append, List.mem_map]
      exact .inl ⟨c, List.mem_filter.mpr ⟨hc, by simpa using hheld⟩, rfl⟩
  · have hexec : exec .hourCount s = .next ((List.range 5).foldl dieHour s) := by
      show execHourCount s = _
      simp only [execHourCount, hpow, hawake]
      rfl
    obtain ⟨hframe, -, hin⟩ := foldl_dieHour (List.range 5) List.nodup_range hh hg
    exact ⟨_, hexec, hframe, fun die hdie => hin die (List.mem_range.mpr hdie)⟩
  · have hexec : exec .attestTokenRefill s = .next (showSig { s with cur := { s.cur with sig := { s.cur.sig with tokens := min 16 (s.cur.sig.tokens + 1) } } }) := by
      show execAttestTokenRefill s = _
      simp [execAttestTokenRefill, hpow]
    exact ⟨_, hexec, rfl, rfl⟩

end Sys2Proof.Machine
end
end

section
/-!
PROOFS. Power (R330 to R342): what showing a hall's ceiling changes, on which the broker, points, heat and droop rest.
-/
section
open Sys2Proof Sys2Proof.Machine
namespace Sys2Proof.Machine

variable {s t u : State} {fs : List FieldRef} {h k : Nat}

/-! ### What the power unit changes -/

/-- Between `s` and `t` only limits, excursions and points of the halls changed, with records, flags of passes, and the register fields of `fs`. -/
structure PowerOnly (fs : List FieldRef) (s t : State) : Prop where
  frame : t = { s with
    regs := t.regs, ann := t.ann, pst := { s.pst with sbAlert := t.pst.sbAlert }, run := t.run
    pwr := { s.pwr with halls := t.pwr.halls, background := t.pwr.background, excursion := t.pwr.excursion, belowSince := t.pwr.belowSince
                        capPending := t.pwr.capPending } }
  regsOk : t.regsOk
  hallsOk : t.hallsOk
  field : ∀ g : FieldRef, g.lo + g.w ≤ 64 → (∀ f ∈ fs, f.Apart g) → fget t g = fget s g

theorem PowerOnly.refl (hok : s.regsOk) (hh : s.hallsOk) : PowerOnly fs s s := ⟨rfl, hok, hh, fun _ _ _ => rfl⟩

theorem PowerOnly.trans (h : PowerOnly fs s t) (h' : PowerOnly fs t u) : PowerOnly fs s u :=
  ⟨by rw [h'.frame, h.frame], h'.regsOk, h'.hallsOk, fun g hg ha => (h'.field g hg ha).trans (h.field g hg ha)⟩

theorem PowerOnly.mono {fs' : List FieldRef} (h : PowerOnly fs s t) (hfs : fs ⊆ fs') : PowerOnly fs' s t :=
  ⟨h.frame, h.regsOk, h.hallsOk, fun g hg ha => h.field g hg fun f hf => ha f (hfs hf)⟩

theorem PowerOnly.setField (h : PowerOnly fs s t) {f : FieldRef} (hf : f ∈ fs) (x : Nat) : PowerOnly fs s (fset t f x) :=
  h.trans ⟨rfl, regsOk_fset h.regsOk f x, h.hallsOk, fun g hg ha => fget_fset_other h.regsOk f g x hg (ha f hf)⟩

theorem PowerOnly.bumpField (h : PowerOnly fs s t) {f : FieldRef} (hf : f ∈ fs) (n : Nat) : PowerOnly fs s (fbump t f n) :=
  h.trans ⟨rfl, regsOk_fbump h.regsOk f n, h.hallsOk, fun g hg ha => fget_fbump_other h.regsOk f g n hg (ha f hf)⟩

theorem PowerOnly.modHall (h : PowerOnly fs s t) (k : Nat) (f : HallPower → HallPower) : PowerOnly fs s (modHall t k f) :=
  h.trans ⟨rfl, h.regsOk, hallsOk_modHall h.hallsOk k f, fun _ _ _ => rfl⟩

theorem PowerOnly.records (h : PowerOnly fs s t) (h' : RecordsOnly t u) (hfs : annalsFields ⊆ fs) : PowerOnly fs s u := by
  refine h.trans ⟨?_, h'.regsOk, ?_, fun g hg ha => h'.field g hg fun f hf => ha f (hfs hf)⟩
  · rw [h'.frame]; rfl
  · rw [State.hallsOk, h'.frame]
    exact h.hallsOk

theorem PowerOnly.of_run (h : PowerOnly fs s t) (x : Passes) : PowerOnly fs s { t with run := x } :=
  h.trans ⟨rfl, h.regsOk, h.hallsOk, fun _ _ _ => rfl⟩

/-- A walk over halls. -/
theorem PowerOnly.foldl {α : Type} {f : State → α → State} {l : List α} (h : PowerOnly fs s t)
    (hf : ∀ x ∈ l, ∀ u, PowerOnly fs s u → PowerOnly fs s (f u x)) : PowerOnly fs s (l.foldl f t) := by
  induction l generalizing t with
  | nil => exact h
  | cons x l ih => exact ih (hf x List.mem_cons_self _ h) fun y hy => hf y (List.mem_cons_of_mem _ hy)

/-! ### A hall's ceiling and reasons shown anew (R340) -/

/-- The fields that showing a hall's ceiling and reasons may change. -/
def shownFields (h : Nat) : List FieldRef := annalsFields ++ [Reg.PWR_HALL_STATUS.CEILING h, Reg.PWR_HALL_STATUS.REASONS h, Reg.PWR_STATUS.REASONS]

/-- The state in which a hall's ceiling and reasons are shown: reasons that ended are recorded, and since when each stands is noted. -/
def reasonsNoted (s : State) (h : Nat) : State :=
  modHall (((hallPower s h).since.filter fun x => !(activeReasons s h).elem x.1).foldl
    (fun t x => annal t 0x0800 0 { die := some h } x.1 (t.clk.tick - x.2) 0) s) h fun x => { x with
      since := (hallPower s h).since.filter (fun y => (activeReasons s h).elem y.1) ++
        ((activeReasons s h).filter fun c => !(hallPower s h).since.any fun x => x.1 == c).map fun c => (c, s.clk.tick) }

/-- The hall's ceiling and its reasons stand in its register. -/
def ceilingShown (s : State) (h : Nat) : State :=
  fset (fset (reasonsNoted s h) (Reg.PWR_HALL_STATUS.CEILING h) (ceilingOf s h)) (Reg.PWR_HALL_STATUS.REASONS h) (reasonMask (activeReasons s h))

theorem fget_withRun (s : State) (run : Passes) (g : FieldRef) : fget { s with run := run } g = fget s g := rfl

theorem regsOk_withRun (hok : s.regsOk) (run : Passes) : { s with run := run }.regsOk := hok

/-- Passes are marked or not; either way only what stands of the passes in flight differs. -/
theorem throttled_eq (s : State) (h : Nat) (b : Bool) : ∃ run, (if b then s else markThrottled s h) = { s with run := run } := by
  cases b
  · exact ⟨_, rfl⟩
  · exact ⟨s.run, rfl⟩

theorem refreshHall_eq (s : State) (h : Nat) : ∃ run, refreshHall s h = showReasons { ceilingShown s h with run := run } := by
  have he : refreshHall s h = showReasons (if (hallPower s h).since.isEmpty && (activeReasons s h).isEmpty then ceilingShown s h
      else markThrottled (ceilingShown s h) h) := by
    unfold refreshHall ceilingShown reasonsNoted
    rfl
  obtain ⟨run, hrun⟩ := throttled_eq (ceilingShown s h) h ((hallPower s h).since.isEmpty && (activeReasons s h).isEmpty)
  exact ⟨run, he.trans (congrArg showReasons hrun)⟩

theorem foldl_recordsOnly {α : Type} {f : State → α → State} {l : List α} (hok : s.regsOk) (hf : ∀ u x, RecordsOnly s u → RecordsOnly s (f u x)) :
    RecordsOnly s (l.foldl f s) := by
  suffices ∀ u, RecordsOnly s u → RecordsOnly s (l.foldl f u) from this s (.refl hok)
  induction l with
  | nil => exact fun _ h => h
  | cons x l ih => exact fun u h => ih _ (hf u x h)

theorem reasonsNoted_powerOnly (hok : s.regsOk) (hh : s.hallsOk) (h : Nat) : PowerOnly annalsFields s (reasonsNoted s h) :=
  ((PowerOnly.refl hok hh).records (foldl_recordsOnly hok fun _ _ hu => hu.annal ..) fun _ hf => hf).modHall h _

theorem refreshHall_powerOnly (hok : s.regsOk) (hh : s.hallsOk) (h : Nat) : PowerOnly (shownFields h) s (refreshHall s h) := by
  obtain ⟨run, he⟩ := refreshHall_eq s h
  rw [he]
  refine ((((reasonsNoted_powerOnly hok hh h).mono (List.subset_append_left _ _)).setField ?_ _).setField ?_ _ |>.of_run run).setField ?_ _ <;> simp

/-- Nothing of a hall changes but since when its reasons stand, and nothing of the other halls. -/
theorem hallPower_refreshHall (hh : s.hallsOk) (h k : Nat) :
    hallPower (refreshHall s h) k = if k = h then { hallPower s h with since := (hallPower (refreshHall s h) h).since } else hallPower s k := by
  obtain ⟨run, he⟩ := refreshHall_eq s h
  have hrec : ∀ (l : List (Nat × Nat)) (t : State), (l.foldl (fun t x => annal t 0x0800 0 { die := some h } x.1 (t.clk.tick - x.2) 0) t).pwr = t.pwr := by
    intro l
    induction l with
    | nil => exact fun _ => rfl
    | cons x l ih =>
      intro t
      rw [List.foldl_cons, ih, annal_frame]
      rfl
  have hnoted : ∀ k, hallPower (reasonsNoted s h) k = if k = h then { hallPower s h with since := (hallPower (reasonsNoted s h) h).since } else hallPower s k := by
    intro k
    have hhalls := hrec ((hallPower s h).since.filter fun x => !(activeReasons s h).elem x.1) s
    have hok' : (((hallPower s h).since.filter fun x => !(activeReasons s h).elem x.1).foldl
        (fun t x => annal t 0x0800 0 { die := some h } x.1 (t.clk.tick - x.2) 0) s).hallsOk := by rw [State.hallsOk, hhalls]; exact hh
    unfold reasonsNoted
    split
    · next hk =>
      subst hk
      rw [hallPower_modHall hok', hallPower, hhalls]
      rfl
    · next hk => rw [hallPower_modHall_ne hok' _ hk, hallPower, hhalls]; rfl
  rw [he]
  exact hnoted k

/-- What of a hall its ceiling is read from. -/
def limitsOf (x : HallPower) : Nat × Nat × Nat × Nat × Nat × Nat := (x.thermal, x.cap, x.current, x.cut, x.activity, x.droopUntil)

/-- What a ceiling is made of. -/
theorem ceilingOf_congr (hhall : limitsOf (hallPower t h) = limitsOf (hallPower s h)) (hlast : t.pwr.last = s.pwr.last) (horb : t.orb = s.orb)
    (hclk : t.clk = s.clk) (hfield : ∀ f ∈ [Reg.PWR_CAP.CAP_DW, Reg.PWR_CAP.ILIM_DA, Reg.PWR_CTRL.SLOPE, Reg.PWR_CTRL.HOST_CEILING], fget t f = fget s f) :
    ceilingOf t h = ceilingOf s h := by
  simp only [limitsOf, Prod.mk.injEq] at hhall
  obtain ⟨hthermal, hcaplim, hcurrent, hcut, hactivity, hdroop⟩ := hhall
  have hcap := hfield _ (by simp : Reg.PWR_CAP.CAP_DW ∈ _)
  have hilim := hfield _ (by simp : Reg.PWR_CAP.ILIM_DA ∈ _)
  have hslope := hfield _ (by simp : Reg.PWR_CTRL.SLOPE ∈ _)
  have hceil := hfield _ (by simp : Reg.PWR_CTRL.HOST_CEILING ∈ _)
  simp only [ceilingOf, droopLowered, hallLimits, inputLimit, ilimDw, hthermal, hcaplim, hcurrent, hcut, hactivity, hdroop, hlast, horb, hclk, hcap, hilim,
    hslope, hceil]
  rfl

theorem foldl_min_le (l : List Nat) (m : Nat) : l.foldl min m ≤ m := by
  induction l generalizing m with
  | nil => exact Nat.le_refl _
  | cons x l ih => exact Nat.le_trans (ih _) (Nat.min_le_left _ _)

theorem ceilingOf_lt (s : State) (h : Nat) : ceilingOf s h < 2 ^ 9 := by
  have : lowest ((hallLimits s h).filter fun l => l.1 != 5) ≤ 256 := foldl_min_le _ _
  unfold ceilingOf
  dsimp only
  split <;> omega

/-- The fields that limits are read from are not among those that any of this changes. -/
theorem shownFields_apart : ∀ h < 4, ∀ g ∈ [Reg.PWR_CAP.CAP_DW, Reg.PWR_CAP.ILIM_DA, Reg.PWR_CTRL.SLOPE, Reg.PWR_CTRL.HOST_CEILING],
    g.lo + g.w ≤ 64 ∧ ∀ f ∈ shownFields h, f.Apart g := by decide

theorem ceilingOf_refreshHall (hok : s.regsOk) (hh : s.hallsOk) (hlt : h < 4) (k : Nat) : ceilingOf (refreshHall s h) k = ceilingOf s k := by
  have honly := refreshHall_powerOnly hok hh h
  refine ceilingOf_congr ?_ (by rw [honly.frame]) (by rw [honly.frame]) (by rw [honly.frame]) fun f hf => ?_
  · rw [hallPower_refreshHall hh]
    split
    · next hk => exact hk ▸ rfl
    · rfl
  · obtain ⟨hfit, hapart⟩ := shownFields_apart h hlt f hf
    exact honly.field f hfit hapart

theorem ceilingShown_regsOk (hok : s.regsOk) (hh : s.hallsOk) (h : Nat) : (ceilingShown s h).regsOk :=
  regsOk_fset (regsOk_fset (reasonsNoted_powerOnly hok hh h).regsOk ..) ..

theorem fget_ceilingShown (hok : s.regsOk) (hh : s.hallsOk) (h : Nat) : fget (ceilingShown s h) (Reg.PWR_HALL_STATUS.CEILING h) = ceilingOf s h := by
  have hnoted := (reasonsNoted_powerOnly hok hh h).regsOk
  have hapart : (Reg.PWR_HALL_STATUS.REASONS h).Apart (Reg.PWR_HALL_STATUS.CEILING h) := .inr (.inr (by simp [Reg.PWR_HALL_STATUS.CEILING, Reg.PWR_HALL_STATUS.REASONS]))
  have hfit : (Reg.PWR_HALL_STATUS.CEILING h).lo + (Reg.PWR_HALL_STATUS.CEILING h).w ≤ 64 := by simp [Reg.PWR_HALL_STATUS.CEILING]
  rw [ceilingShown, fget_fset_other (regsOk_fset hnoted ..) _ _ _ hfit hapart, fget_fset_same hnoted _ _ hfit]
  exact Nat.mod_eq_of_lt (ceilingOf_lt s h)

theorem fget_showReasons (hok : s.regsOk) {g : FieldRef} (hfit : g.lo + g.w ≤ 64) (hapart : Reg.PWR_STATUS.REASONS.Apart g) :
    fget (showReasons s) g = fget s g := fget_fset_other hok _ _ _ hfit hapart

/-- The hall's ceiling is shown as it then stands. -/
theorem fget_ceiling_refreshHall (hok : s.regsOk) (hh : s.hallsOk) (hlt : h < 4) :
    fget (refreshHall s h) (Reg.PWR_HALL_STATUS.CEILING h) = ceilingOf s h := by
  obtain ⟨run, he⟩ := refreshHall_eq s h
  have hplace : ∀ h < 4, (Reg.PWR_HALL_STATUS.CEILING h).lo + (Reg.PWR_HALL_STATUS.CEILING h).w ≤ 64 ∧
      Reg.PWR_STATUS.REASONS.Apart (Reg.PWR_HALL_STATUS.CEILING h) := by decide
  obtain ⟨hfit, hapart⟩ := hplace h hlt
  rw [he, fget_showReasons (regsOk_withRun (ceilingShown_regsOk hok hh h) run) hfit hapart, fget_withRun]
  exact fget_ceilingShown hok hh h

/-! ### Points, heat and droop of one hall (R334 to R342) -/

/-- What a hall's own power control leaves alone. -/
def hallOnly (s t : State) (h : Nat) : Prop := hallsFrom s t h ∧ t.kv = s.kv ∧ t.itk = s.itk ∧ t.img = s.img ∧ t.arr = s.arr

/-- The hall stands as `y`, its reasons and its ceiling shown. -/
def hallShown (s t : State) (h : Nat) (y : HallPower) : Prop :=
  hallOnly s t h ∧ hallPower t h = { y with since := (hallPower t h).since } ∧ fget t (Reg.PWR_HALL_STATUS.CEILING h) = ceilingOf t h

/-- A change of one hall, then its ceiling and reasons shown. -/
theorem hallShown_refreshHall (hlt : h < 4) (hok : u.regsOk) (hh : s.hallsOk) {f : HallPower → HallPower} (hu : u = { s with regs := u.regs }) :
    hallShown s (refreshHall (modHall u h f) h) h (f (hallPower s h)) := by
  have huh : u.hallsOk := by rw [State.hallsOk, hu]; exact hh
  have hhall : ∀ k, hallPower u k = hallPower s k := fun k => by rw [hallPower, hu]; rfl
  have hmod := hallsOk_modHall huh h f
  have honly := refreshHall_powerOnly (s := modHall u h f) hok hmod h
  refine ⟨⟨fun k hk => ?_, ?_, ?_, ?_, ?_⟩, ?_, ?_⟩
  · rw [hallPower_refreshHall hmod, if_neg hk, hallPower_modHall_ne huh _ hk, hhall]
  · rw [honly.frame, hu]; rfl
  · rw [honly.frame, hu]; rfl
  · rw [honly.frame, hu]; rfl
  · rw [honly.frame, hu]; rfl
  · conv_lhs => rw [hallPower_refreshHall hmod, if_pos rfl, hallPower_modHall huh, hhall]
  · rw [fget_ceiling_refreshHall (s := modHall u h f) hok hmod hlt, ceilingOf_refreshHall (s := modHall u h f) hok hmod hlt]

/-- A register change beside it: nothing of the hall changes. -/
theorem hallShown_refreshHall_same (hlt : h < 4) (hok : u.regsOk) (hh : s.hallsOk) (hu : u = { s with regs := u.regs }) :
    hallShown s (refreshHall u h) h (hallPower s h) := by
  have huh : u.hallsOk := by rw [State.hallsOk, hu]; exact hh
  have hhall : ∀ k, hallPower u k = hallPower s k := fun k => by rw [hallPower, hu]; rfl
  have honly := refreshHall_powerOnly hok huh h
  refine ⟨⟨fun k hk => ?_, ?_, ?_, ?_, ?_⟩, ?_, ?_⟩
  · rw [hallPower_refreshHall huh, if_neg hk, hhall]
  · rw [honly.frame, hu]
  · rw [honly.frame, hu]
  · rw [honly.frame, hu]
  · rw [honly.frame, hu]
  · conv_lhs => rw [hallPower_refreshHall huh, if_pos rfl, hhall]
  · rw [fget_ceiling_refreshHall hok huh hlt, ceilingOf_refreshHall hok huh hlt]

/-- A hall changed alone. -/
theorem hallOnly_modHall (hh : s.hallsOk) (h : Nat) (f : HallPower → HallPower) : hallOnly s (modHall s h f) h :=
  ⟨fun _ hk => hallPower_modHall_ne hh _ hk, rfl, rfl, rfl, rfl⟩

theorem exec_voltageSlewDone_idle
    (hidle : (hallPower s h).step ≠ .slewing ∨ ¬ ((hallPower s h).stretched = false ∧ (hallPower s h).holdUntil ≤ s.clk.tick)) :
    exec (.voltageSlewDone h) s = .next s := by
  show execVoltageSlewDone h s = _
  have hcond : (unpowered s || (hallPower s h).step != .slewing || (hallPower s h).stretched || decide (s.clk.tick < (hallPower s h).holdUntil)) = true := by
    rcases hidle with hstep | hquiet
    · simp [hstep]
    · by_cases hs : (hallPower s h).stretched = true
      · simp [hs]
      · have : s.clk.tick < (hallPower s h).holdUntil := by
          by_contra hlt
          exact hquiet ⟨by simpa using hs, by omega⟩
        simp [this]
  simp only [execVoltageSlewDone, hcond, if_true]

theorem exec_voltageSlewDone (hpow : unpowered s = false) (hstep : (hallPower s h).step = .slewing)
    (hquiet : (hallPower s h).stretched = false ∧ (hallPower s h).holdUntil ≤ s.clk.tick) :
    exec (.voltageSlewDone h) s = .next (if (hallPower s h).target < pointOf s h then modHall s h fun x => { x with step := .relocking }
      else startQueued (pointDone s h) h) := by
  obtain ⟨hstretched, hhold⟩ := hquiet
  show execVoltageSlewDone h s = _
  have hcond : (unpowered s || (hallPower s h).step != .slewing || (hallPower s h).stretched || decide (s.clk.tick < (hallPower s h).holdUntil)) = false := by
    simp [hpow, hstep, hstretched, hhold]
  simp only [execVoltageSlewDone, hcond, Bool.false_eq_true, if_false]

theorem hallPower_of_halls (ht : t.pwr.halls = s.pwr.halls) (k : Nat) : hallPower t k = hallPower s k := congrArg (sget (fun _ => freshHall) · k) ht

theorem hallPower_pointDone (hh : s.hallsOk) (h : Nat) :
    hallPower (pointDone s h) h = { hallPower s h with step := .none, changedAt := some s.clk.tick } :=
  (hallPower_of_halls (s := modHall s h fun x => { x with step := .none, changedAt := some s.clk.tick }) rfl h).trans (hallPower_modHall hh h _)

theorem hallPower_pointDone_ne (hh : s.hallsOk) (hk : k ≠ h) : hallPower (pointDone s h) k = hallPower s k :=
  (hallPower_of_halls (s := modHall s h fun x => { x with step := .none, changedAt := some s.clk.tick }) rfl k).trans (hallPower_modHall_ne hh _ hk)

/-- With nothing waiting, a change that is done starts no other. -/
theorem startQueued_none (hq : (hallPower s h).queued = none) : startQueued s h = s := by simp only [startQueued, hq]

theorem startQueued_pointDone (hh : s.hallsOk) (hq : (hallPower s h).queued = none) : startQueued (pointDone s h) h = pointDone s h :=
  startQueued_none (by rw [hallPower_pointDone hh]; exact hq)

/-- A relocked PLL carries the clock, and its point is in force. -/
def relocked (s : State) (h : Nat) : State :=
  modHall (fset s (Reg.PWR_HALL_STATUS.POINT h) (hallPower s h).target) h fun x => { x with pll := 1 - x.pll }

theorem exec_pllRelockDone (hpow : unpowered s = false) (hstep : (hallPower s h).step = .relocking) :
    exec (.pllRelockDone h) s = .next (if pointOf s h < (hallPower s h).target then modHall (relocked s h) h fun x => { x with step := .slewing }
      else startQueued (pointDone (relocked s h) h) h) := by
  show execPllRelockDone h s = _
  have hcond : (unpowered s || (hallPower s h).step != .relocking) = false := by simp [hpow, hstep]
  simp only [execPllRelockDone, hcond, Bool.false_eq_true, if_false, decide_eq_true_eq]
  rfl

theorem exec_pllRelockDone_idle (hstep : (hallPower s h).step ≠ .relocking) : exec (.pllRelockDone h) s = .next s := by
  show execPllRelockDone h s = _
  simp [execPllRelockDone, hstep]

theorem hallPower_relocked (hh : s.hallsOk) (h : Nat) : hallPower (relocked s h) h = { hallPower s h with pll := 1 - (hallPower s h).pll } :=
  hallPower_modHall (s := fset s _ _) hh h _

theorem hallPower_relocked_ne (hh : s.hallsOk) (hk : k ≠ h) : hallPower (relocked s h) k = hallPower s k := hallPower_modHall_ne (s := fset s _ _) hh _ hk

/-- The change of points that ends with a relock: the point is in force, in whichever way the change goes on. -/
theorem pllRelockDone_effect (hok : s.regsOk) (hh : s.hallsOk) (htarget : (hallPower s h).target < 8)
    (hq : pointOf s h < (hallPower s h).target ∨ (hallPower s h).queued = none) :
    let t := if pointOf s h < (hallPower s h).target then modHall (relocked s h) h fun x => { x with step := .slewing } else startQueued (pointDone (relocked s h) h) h
    hallOnly s t h ∧ pointOf t h = (hallPower s h).target ∧ (∀ a, a ≠ (Reg.PWR_HALL_STATUS.POINT h).addr → rget t a = rget s a) ∧
      (hallPower t h).pll = 1 - (hallPower s h).pll ∧ (hallPower t h).step = if pointOf s h < (hallPower s h).target then .slewing else .none := by
  have hrh : (relocked s h).hallsOk := hallsOk_modHall (s := fset s _ _) hh h _
  have hpoint : pointOf (fset s (Reg.PWR_HALL_STATUS.POINT h) (hallPower s h).target) h = (hallPower s h).target := by
    rw [pointOf, fget_fset_same hok _ _ (by simp [Reg.PWR_HALL_STATUS.POINT])]
    exact Nat.mod_eq_of_lt htarget
  have hregs : ∀ a, a ≠ (Reg.PWR_HALL_STATUS.POINT h).addr → rget (fset s (Reg.PWR_HALL_STATUS.POINT h) (hallPower s h).target) a = rget s a :=
    fun a ha => rget_fset_ne hok _ ha
  dsimp only
  split
  · refine ⟨⟨fun k hk => ?_, rfl, rfl, rfl, rfl⟩, hpoint, hregs, ?_, ?_⟩
    · rw [hallPower_modHall_ne hrh _ hk, hallPower_relocked_ne hh hk]
    · rw [hallPower_modHall hrh, hallPower_relocked hh]
    · rw [hallPower_modHall hrh]
  · next hrises =>
    rw [startQueued_pointDone hrh (by rw [hallPower_relocked hh]; exact hq.resolve_left hrises)]
    refine ⟨⟨fun k hk => ?_, rfl, rfl, rfl, rfl⟩, hpoint, hregs, ?_, ?_⟩
    · rw [hallPower_pointDone_ne hrh hk, hallPower_relocked_ne hh hk]
    · rw [hallPower_pointDone hrh, hallPower_relocked hh]
    · rw [hallPower_pointDone hrh]

/-! ### Heat (R339) -/

/-- What heat makes of a hall: the strike period and the ceiling, in their order. -/
def heated (s : State) (h : Nat) (temp lim : Int) (x : HallPower) : HallPower :=
  if lim * 256 ≤ temp then
    if strikePeriod s h (floorNow s h) < 48 then { x with period := x.period + 2 } else { x with thermal := x.thermal - 16 }
  else if temp < (lim - 2) * 256 then
    if x.thermal < 256 then { x with thermal := min 256 (x.thermal + 16) } else { x with period := x.period - 2 }
  else x

theorem thermalStep_effect (hlt : h < 4) (hok : s.regsOk) (hh : s.hallsOk) (hpow : unpowered s = false) (hawake : asleep s = false) (measured : Int) :
    ∃ t, exec (.thermalStep h measured) s = .next t ∧
      hallShown s t h (heated s h (junction s h measured) (fget s Reg.PWR_CTRL.THERM_C) (hallPower s h)) ∧
      fget t (Reg.PWR_HALL_STATUS.TEMP_C h) = (junction s h measured / 256).toNat % 2 ^ 8 := by
  have hset : (showTemp s h (junction s h measured)).regsOk := regsOk_fset hok ..
  have hplace : ∀ h < 4, (Reg.PWR_HALL_STATUS.TEMP_C h).lo + (Reg.PWR_HALL_STATUS.TEMP_C h).w ≤ 64 ∧
      ∀ f ∈ shownFields h, f.Apart (Reg.PWR_HALL_STATUS.TEMP_C h) := by decide
  obtain ⟨hfit, hapart⟩ := hplace h hlt
  have htemp : ∀ u : State, u.regsOk → u.hallsOk → u.regs = (showTemp s h (junction s h measured)).regs →
      fget (refreshHall u h) (Reg.PWR_HALL_STATUS.TEMP_C h) = (junction s h measured / 256).toNat % 2 ^ 8 := fun u hu huh hregs => by
    rw [(refreshHall_powerOnly hu huh h).field _ hfit hapart, fget_of_regs hregs]
    exact fget_fset_same hok _ _ hfit
  have hgo : ∀ f : HallPower → HallPower,
      hallShown s (refreshHall (modHall (showTemp s h (junction s h measured)) h f) h) h (f (hallPower s h)) ∧
        fget (refreshHall (modHall (showTemp s h (junction s h measured)) h f) h) (Reg.PWR_HALL_STATUS.TEMP_C h) = (junction s h measured / 256).toNat % 2 ^ 8 :=
    fun f => ⟨hallShown_refreshHall hlt hset hh rfl, htemp _ hset (hallsOk_modHall (s := showTemp s h _) hh h f) rfl⟩
  refine ⟨_, show execThermalStep h measured s = _ by simp only [execThermalStep, hpow, hawake, Bool.or_self, Bool.false_eq_true, if_false]; rfl, ?_⟩
  unfold heated
  split
  · split
    · exact hgo _
    · exact hgo _
  · split
    · split
      · exact hgo _
      · exact hgo _
    · exact ⟨hallShown_refreshHall_same hlt hset hh rfl, htemp _ hset hh rfl⟩

/-! ### Droop (R341, R342) -/

theorem exec_droopDetect_idle (hstretched : (hallPower s h).stretched = true) : exec (.droopDetect h) s = .next s := by
  show execDroopDetect h s = _
  simp [execDroopDetect, hstretched]

theorem exec_droopClear_idle (hstretched : (hallPower s h).stretched = false) : exec (.droopClear h) s = .next s := by
  show execDroopClear h s = _
  simp [execDroopClear, hstretched]

/-- The droops of the last millisecond, this one with them. -/
def droopsNow (s : State) (h : Nat) : List Nat := s.clk.tick :: (hallPower s h).droops.filter fun t => decide (s.clk.tick < t + 1000)

/-- A hall in a droop: its clock is stretched, and after more than eight in a millisecond its ceiling is lowered for the next. -/
def drooped (s : State) (h : Nat) (x : HallPower) : HallPower :=
  { x with stretched := true, droops := droopsNow s h, droopUntil := if 8 < (droopsNow s h).length then s.clk.tick + 1000 else x.droopUntil }

theorem exec_droopDetect (hpow : unpowered s = false) (hawake : asleep s = false) (hstretched : (hallPower s h).stretched = false)
    (hgated : (hallPower s h).gated = false) :
    exec (.droopDetect h) s = .next (refreshHall (modHall (fbump s Reg.PWR_STATS.DROOPS 1) h (drooped s h)) h) := by
  show execDroopDetect h s = _
  simp only [execDroopDetect, hpow, hawake, hstretched, hgated, Bool.or_self, Bool.false_eq_true, if_false]
  rfl

theorem exec_droopClear (hpow : unpowered s = false) (hstretched : (hallPower s h).stretched = true) :
    exec (.droopClear h) s = .next (refreshHall (modHall s h fun x => { x with stretched := false, holdUntil := s.clk.tick + 5 }) h) := by
  show execDroopClear h s = _
  simp [execDroopClear, hpow, hstretched]

/-- The droop is counted, and showing the ceiling leaves the count. -/
theorem counted_droopDetect (hlt : h < 4) (hok : s.regsOk) (hh : s.hallsOk) (f : HallPower → HallPower) :
    counted s (refreshHall (modHall (fbump s Reg.PWR_STATS.DROOPS 1) h f) h) Reg.PWR_STATS.DROOPS 1 := by
  have hbumped := regsOk_fbump hok Reg.PWR_STATS.DROOPS 1
  have hmod := hallsOk_modHall (s := fbump s Reg.PWR_STATS.DROOPS 1) hh h f
  have hapart : ∀ h < 4, ∀ f ∈ shownFields h, f.Apart Reg.PWR_STATS.DROOPS := by decide
  have hkept := (refreshHall_powerOnly (s := modHall (fbump s Reg.PWR_STATS.DROOPS 1) h f) hbumped hmod h).field _ (by decide) (hapart h hlt)
  exact hkept.trans (fbump_counted hok _ _ (by decide))

/-- Settles O45: a change goes on by its rail (`exec_voltageSlewDone`) and its PLL (`pllRelockDone_effect`), heat and droop change their own hall
(`hallShown_refreshHall`). -/
theorem pointsHeatAndDroop : Obligations.PointsHeatAndDroop := by
  intro h s hok hh hlt hpow
  refine ⟨fun hstep hquiet hrises => ?_, fun hstep hquiet hfalls hq => ?_, fun hidle => ?_, fun hstep htarget hq => ?_, exec_pllRelockDone_idle,
    fun measured hawake => ?_, fun hawake hstretched hgated => ?_, fun hstretched => ⟨exec_droopDetect_idle hstretched, ?_⟩, exec_droopClear_idle⟩
  · refine ⟨_, exec_voltageSlewDone hpow hstep hquiet, ?_⟩
    rw [if_pos hrises]
    exact ⟨rfl, hallOnly_modHall hh h _, hallPower_modHall hh h _⟩
  · refine ⟨_, exec_voltageSlewDone hpow hstep hquiet, ?_⟩
    rw [if_neg (Nat.not_lt.mpr hfalls), startQueued_pointDone hh hq]
    exact ⟨rfl, ⟨fun k hk => hallPower_pointDone_ne hh hk, rfl, rfl, rfl, rfl⟩, hallPower_pointDone hh h⟩
  · exact exec_voltageSlewDone_idle hidle
  · obtain ⟨honly, heffect⟩ := pllRelockDone_effect hok hh htarget hq
    exact ⟨_, exec_pllRelockDone hpow hstep, honly, heffect⟩
  · obtain ⟨t, hexec, hshown, htemp⟩ := thermalStep_effect hlt hok hh hpow hawake measured
    refine ⟨t, hexec, fun hhot hfast => ?_, fun hhot hslow => ?_, fun hcool hlow => ?_, fun hcool hfull => ?_, fun hwarm hnot => ?_, htemp⟩
    · rwa [heated, if_pos hhot, if_pos hfast] at hshown
    · rwa [heated, if_pos hhot, if_neg (Nat.not_lt.mpr hslow)] at hshown
    · rwa [heated, if_neg (by omega), if_pos hcool, if_pos hlow] at hshown
    · rwa [heated, if_neg (by omega), if_pos hcool, if_neg (Nat.not_lt.mpr hfull)] at hshown
    · rwa [heated, if_neg (by omega), if_neg (by omega)] at hshown
  · exact ⟨_, exec_droopDetect hpow hawake hstretched hgated, counted_droopDetect hlt hok hh _, hallShown_refreshHall hlt (regsOk_fbump hok _ _) hh rfl⟩
  · exact ⟨_, exec_droopClear hpow hstretched, hallShown_refreshHall hlt hok hh rfl⟩

end Sys2Proof.Machine
end
end

section
/-!
PROOFS. The broker's cycle, the excursion cut and hints (R330 to R332, R337, R340): every step of a cycle keeps what the next one's grants are read from.
-/
section
open Sys2Proof Sys2Proof.Machine
namespace Sys2Proof.Machine

variable {s t u : State} {fs : List FieldRef} {h k : Nat} {α : Type} {p : HallPower → α}

/-! ### Halls changed one at a time -/

/-- A change of one hall that keeps `p` of it keeps `p` of every hall. -/
theorem proj_modHall (hh : s.hallsOk) (k : Nat) {f : HallPower → HallPower} (hf : ∀ x, p (f x) = p x) (h : Nat) :
    p (hallPower (modHall s k f) h) = p (hallPower s h) := by
  by_cases hk : h = k
  · rw [hk, hallPower_modHall hh, hf]
  · rw [hallPower_modHall_ne hh _ hk]

theorem proj_refreshHall (hh : s.hallsOk) (k : Nat) (hp : ∀ x since, p { x with since := since } = p x) (h : Nat) :
    p (hallPower (refreshHall s k) h) = p (hallPower s h) := by
  rw [hallPower_refreshHall hh]
  split
  · next hk => rw [hp, hk]
  · rfl

/-- Between `s` and `t` only the power unit changed, and `p` of every hall stood. -/
def KeepsHalls (p : HallPower → α) (fs : List FieldRef) (s t : State) : Prop := PowerOnly fs s t ∧ ∀ h, p (hallPower t h) = p (hallPower s h)

theorem KeepsHalls.refl (hok : s.regsOk) (hh : s.hallsOk) : KeepsHalls p fs s s := ⟨.refl hok hh, fun _ => rfl⟩

theorem KeepsHalls.trans (h : KeepsHalls p fs s t) (h' : KeepsHalls p fs t u) : KeepsHalls p fs s u :=
  ⟨h.1.trans h'.1, fun k => (h'.2 k).trans (h.2 k)⟩

theorem KeepsHalls.modHall (h : KeepsHalls p fs s t) (k : Nat) {f : HallPower → HallPower} (hf : ∀ x, p (f x) = p x) : KeepsHalls p fs s (modHall t k f) :=
  ⟨h.1.modHall k f, fun j => (proj_modHall h.1.hallsOk k hf j).trans (h.2 j)⟩

theorem KeepsHalls.foldl {β : Type} {f : State → β → State} {l : List β} (h : KeepsHalls p fs s t)
    (hf : ∀ x ∈ l, ∀ u, KeepsHalls p fs s u → KeepsHalls p fs s (f u x)) : KeepsHalls p fs s (l.foldl f t) := by
  induction l generalizing t with
  | nil => exact h
  | cons x l ih => exact ih (hf x List.mem_cons_self _ h) fun y hy => hf y (List.mem_cons_of_mem _ hy)

/-- Several halls, each changed in its own way. -/
theorem hallPower_foldl_modHall (f : Nat → HallPower → HallPower) (l : List Nat) (hl : l.Nodup) (hh : s.hallsOk) (k : Nat) :
    hallPower (l.foldl (fun t h => modHall t h (f h)) s) k = if k ∈ l then f k (hallPower s k) else hallPower s k := by
  induction l generalizing s with
  | nil => rfl
  | cons x l ih =>
    obtain ⟨hx, hl⟩ := List.nodup_cons.mp hl
    rw [List.foldl_cons, ih hl (hallsOk_modHall hh x _)]
    by_cases hk : k = x
    · subst hk
      rw [if_neg hx, if_pos List.mem_cons_self, hallPower_modHall hh]
    · rw [hallPower_modHall_ne hh _ hk]
      simp only [List.mem_cons, hk, false_or]

/-! ### Point changes (R334, R335) -/

/-- Only points and what waits of the halls changed. -/
structure PointsOnly (s t : State) : Prop where
  frame : t = { s with pwr := { s.pwr with halls := t.pwr.halls } }
  hallsOk : t.hallsOk
  limits : ∀ h, limitsOf (hallPower t h) = limitsOf (hallPower s h) ∧ (hallPower t h).demand = (hallPower s h).demand

theorem PointsOnly.refl (hh : s.hallsOk) : PointsOnly s s := ⟨rfl, hh, fun _ => ⟨rfl, rfl⟩⟩

theorem PointsOnly.trans (h : PointsOnly s t) (h' : PointsOnly t u) : PointsOnly s u := by
  refine ⟨by rw [h'.frame, h.frame], h'.hallsOk, fun k => ?_⟩
  obtain ⟨hlimits, hdemand⟩ := h.limits k
  obtain ⟨hlimits', hdemand'⟩ := h'.limits k
  exact ⟨hlimits'.trans hlimits, hdemand'.trans hdemand⟩

theorem modHall_pointsOnly (hh : s.hallsOk) (h : Nat) {f : HallPower → HallPower} (hf : ∀ x, limitsOf (f x) = limitsOf x ∧ (f x).demand = x.demand) :
    PointsOnly s (modHall s h f) :=
  ⟨rfl, hallsOk_modHall hh h f, fun k => ⟨proj_modHall hh h (fun x => (hf x).1) k, proj_modHall (p := HallPower.demand) hh h (fun x => (hf x).2) k⟩⟩

theorem requestPoint_pointsOnly (hh : s.hallsOk) (h p : Nat) : PointsOnly s (requestPoint s h p) := by
  unfold requestPoint
  dsimp only
  split
  · exact modHall_pointsOnly hh h fun _ => ⟨rfl, rfl⟩
  · split
    · exact modHall_pointsOnly hh h fun _ => ⟨rfl, rfl⟩
    · exact modHall_pointsOnly hh h fun _ => ⟨rfl, rfl⟩

theorem startQueued_pointsOnly (hh : s.hallsOk) (h : Nat) : PointsOnly s (startQueued s h) := by
  unfold startQueued
  split
  · split
    · exact requestPoint_pointsOnly hh h _
    · exact .refl hh
  · exact .refl hh

theorem drivePoint_pointsOnly (hh : s.hallsOk) (h : Nat) : PointsOnly s (drivePoint s h) := by
  unfold drivePoint
  split
  · next point _ =>
    have hreq := requestPoint_pointsOnly hh h point
    exact hreq.trans (startQueued_pointsOnly hreq.hallsOk h)
  · exact startQueued_pointsOnly hh h

theorem noteBinding_pointsOnly (hh : s.hallsOk) (h : Nat) : PointsOnly s (noteBinding s h) := modHall_pointsOnly hh h fun _ => ⟨rfl, rfl⟩

theorem foldl_pointsOnly {f : State → Nat → State} (hf : ∀ u : State, u.hallsOk → ∀ h, PointsOnly u (f u h)) (l : List Nat) (hh : s.hallsOk) :
    PointsOnly s (l.foldl f s) := by
  induction l generalizing s with
  | nil => exact .refl hh
  | cons h l ih =>
    have hstep := hf s hh h
    exact hstep.trans (ih hstep.hallsOk)

theorem drivePoints_pointsOnly (hh : s.hallsOk) (l : List Nat) : PointsOnly s (l.foldl (fun t h => drivePoint (noteBinding t h) h) s) :=
  foldl_pointsOnly (fun _ hu h =>
    have hnoted := noteBinding_pointsOnly hu h
    hnoted.trans (drivePoint_pointsOnly hnoted.hallsOk h)) l hh

/-! ### What grants are read from (R332) -/

/-- The broker's inputs stood. -/
structure SameInputs (s t : State) : Prop where
  last : t.pwr.last = s.pwr.last
  hints : t.pwr.hints = s.pwr.hints
  profiles : t.pwr.profiles = s.pwr.profiles
  img : t.img = s.img
  arr : t.arr = s.arr
  clk : t.clk = s.clk
  acc : t.acc = s.acc

theorem SameInputs.regionHalls (e : SameInputs s t) (r : Nat) : regionHalls t r = regionHalls s r := by
  have hhoused : ∀ r, housedAt t r = housedAt s r := fun r => by funext x; simp only [housedAt, accOf, e.acc]
  simp only [Machine.regionHalls, regionShelves, e.img, hhoused]

theorem SameInputs.demandOf (e : SameInputs s t) (h : Nat) : demandOf t h = demandOf s h := by
  simp only [Machine.demandOf, demandPhases, hallHints, profileOf, e.regionHalls, e.last, e.hints, e.profiles, e.img]

theorem SameInputs.hallGrants (e : SameInputs s t) (limit : Nat) : hallGrants t limit = hallGrants s limit := by
  have hminimum : minimumGrant t = minimumGrant s := by
    funext h
    simp only [minimumGrant, e.arr, e.clk]
  simp only [Machine.hallGrants, servingBudget, budgetUnder, hminimum, e.demandOf, e.last, e.img]

theorem SameInputs.grantCeiling (e : SameInputs s t) (h g : Nat) : grantCeiling t h g = grantCeiling s h g := by
  simp only [Machine.grantCeiling, e.demandOf]

theorem PowerOnly.sameInputs (e : PowerOnly fs s t) : SameInputs s t := by
  constructor <;> rw [e.frame]

/-! ### A cycle (R330 to R334) -/

/-- The fields that a cycle may change beside the measured input. -/
def brokerFields : List FieldRef := annalsFields ++ [Reg.PWR_STATUS.REASONS, Reg.PWR_STATS.EXCURSIONS] ++
  (List.range 4).flatMap fun k => [Reg.PWR_HALL_STATUS.CEILING k, Reg.PWR_HALL_STATUS.REASONS k, Reg.PWR_HALL_STATUS.ACTIVITY k]

theorem shownFields_subset : ∀ h < 4, shownFields h ⊆ brokerFields := by decide

/-- Limits and the measured input are not among them. -/
theorem brokerFields_apart : ∀ g ∈ [Reg.PWR_CAP.CAP_DW, Reg.PWR_CAP.ILIM_DA, Reg.PWR_CTRL.SLOPE, Reg.PWR_CTRL.HOST_CEILING, Reg.PWR_STATUS.INPUT_DW,
    Reg.PWR_STATUS.INPUT_DA], g.lo + g.w ≤ 64 ∧ ∀ f ∈ brokerFields, f.Apart g := by decide

theorem PowerOnly.limit (e : PowerOnly brokerFields s t) {g : FieldRef}
    (hg : g ∈ [Reg.PWR_CAP.CAP_DW, Reg.PWR_CAP.ILIM_DA, Reg.PWR_CTRL.SLOPE, Reg.PWR_CTRL.HOST_CEILING, Reg.PWR_STATUS.INPUT_DW, Reg.PWR_STATUS.INPUT_DA]) :
    fget t g = fget s g := by
  obtain ⟨hfit, hapart⟩ := brokerFields_apart g hg
  exact e.field g hfit hapart

theorem PowerOnly.ceilingOf (e : PowerOnly brokerFields s t) (hlimits : limitsOf (hallPower t h) = limitsOf (hallPower s h)) : ceilingOf t h = ceilingOf s h :=
  ceilingOf_congr hlimits (by rw [e.frame]) (by rw [e.frame]) (by rw [e.frame]) fun f hf => e.limit (by simp at hf ⊢; tauto)

/-- Halls' ceilings shown one after the other. -/
theorem foldl_refreshHall_keeps (hp : ∀ x since, p { x with since := since } = p x) {l : List Nat} (hl : ∀ h ∈ l, h < 4)
    (e : KeepsHalls p brokerFields s t) : KeepsHalls p brokerFields s (l.foldl refreshHall t) :=
  e.foldl fun h hh _ hu => hu.trans ⟨(refreshHall_powerOnly hu.1.regsOk hu.1.hallsOk h).mono (shownFields_subset h (hl h hh)),
    proj_refreshHall hu.1.hallsOk h hp⟩

theorem fget_ceiling_refreshHall_ne (hok : s.regsOk) (hh : s.hallsOk) : ∀ h < 4, ∀ k < 4, k ≠ h →
    fget (refreshHall s h) (Reg.PWR_HALL_STATUS.CEILING k) = fget s (Reg.PWR_HALL_STATUS.CEILING k) := by
  have hplace : ∀ h < 4, ∀ k < 4, k = h ∨ ∀ f ∈ shownFields h, f.Apart (Reg.PWR_HALL_STATUS.CEILING k) := by decide
  intro h hlt k hklt hk
  exact (refreshHall_powerOnly hok hh h).field _ (by simp [Reg.PWR_HALL_STATUS.CEILING]) ((hplace h hlt k hklt).resolve_left hk)

/-- Each hall of the walk shows its ceiling as it stands at the end; the others show what they showed. -/
theorem fget_ceiling_foldl (l : List Nat) (hl : ∀ h ∈ l, h < 4) (hok : s.regsOk) (hh : s.hallsOk) : ∀ h < 4,
    fget (l.foldl refreshHall s) (Reg.PWR_HALL_STATUS.CEILING h) = if h ∈ l then ceilingOf s h else fget s (Reg.PWR_HALL_STATUS.CEILING h) := by
  induction l generalizing s with
  | nil => exact fun _ _ => rfl
  | cons x l ih =>
    intro h hlt
    have hx := hl x List.mem_cons_self
    have honly := refreshHall_powerOnly hok hh x
    rw [List.foldl_cons, ih (fun y hy => hl y (List.mem_cons_of_mem _ hy)) honly.regsOk honly.hallsOk h hlt, ceilingOf_refreshHall hok hh hx]
    by_cases hmem : h ∈ l
    · rw [if_pos hmem, if_pos (List.mem_cons_of_mem _ hmem)]
    · rw [if_neg hmem]
      by_cases hhx : h = x
      · rw [hhx, if_pos List.mem_cons_self, fget_ceiling_refreshHall hok hh hx]
      · rw [if_neg (by simp [hhx, hmem]), fget_ceiling_refreshHall_ne hok hh x hx h hlt hhx]

/-- The four halls' ceilings shown: each shows what follows from how it then stands. -/
theorem fget_ceiling_refreshAll (hok : s.regsOk) (hh : s.hallsOk) (hlt : h < 4) :
    fget ((List.range 4).foldl refreshHall s) (Reg.PWR_HALL_STATUS.CEILING h) = ceilingOf ((List.range 4).foldl refreshHall s) h := by
  have hl : ∀ h ∈ List.range 4, h < 4 := fun _ hh => List.mem_range.mp hh
  obtain ⟨honly, hlimits⟩ := foldl_refreshHall_keeps (p := limitsOf) (fun _ _ => rfl) hl (.refl hok hh)
  rw [fget_ceiling_foldl _ hl hok hh h hlt, if_pos (List.mem_range.mpr hlt), honly.ceilingOf (hlimits h)]

/-- A hall's demand and its grant under the cap, which the rest of a cycle leaves. -/
def grantOf (x : HallPower) : Nat × Nat := (x.demand, x.cap)

theorem PowerOnly.withBackground (e : PowerOnly fs s t) (x : Sparse Nat) : PowerOnly fs s { t with pwr := { t.pwr with background := x } } :=
  e.trans ⟨rfl, e.regsOk, e.hallsOk, fun _ _ _ => rfl⟩

/-- A hall's part of a cycle: the hall with its demand and its grants, its background grant and its activity shown. -/
theorem brokerHall_eq (s : State) (m : BrokerIn) (h : Nat) : ∃ f background activity,
    brokerHall s m h = fset { modHall s h f with pwr := { (modHall s h f).pwr with background := background } } (Reg.PWR_HALL_STATUS.ACTIVITY h) activity ∧
      ∀ x, grantOf (f x) = (demandOf s h, grantCeiling s h ((hallGrants s (fget s Reg.PWR_CAP.CAP_DW)).getD h 0)) := by
  unfold brokerHall
  exact ⟨_, _, _, rfl, fun _ => rfl⟩

theorem brokerHall_powerOnly (hok : s.regsOk) (hh : s.hallsOk) (m : BrokerIn) (hlt : h < 4) : PowerOnly brokerFields s (brokerHall s m h) := by
  obtain ⟨f, background, activity, he, -⟩ := brokerHall_eq s m h
  have hactivity : ∀ h < 4, Reg.PWR_HALL_STATUS.ACTIVITY h ∈ brokerFields := by decide
  rw [he]
  exact (((PowerOnly.refl hok hh).modHall h f).withBackground background).setField (hactivity h hlt) _

theorem grantOf_brokerHall (hh : s.hallsOk) (m : BrokerIn) (h k : Nat) :
    grantOf (hallPower (brokerHall s m h) k) =
      if k = h then (demandOf s h, grantCeiling s h ((hallGrants s (fget s Reg.PWR_CAP.CAP_DW)).getD h 0)) else grantOf (hallPower s k) := by
  obtain ⟨f, background, activity, he, hf⟩ := brokerHall_eq s m h
  have hhalls : (brokerHall s m h).pwr.halls = (modHall s h f).pwr.halls := by rw [he]; rfl
  rw [hallPower_of_halls hhalls]
  split
  · next hk => rw [hk, hallPower_modHall hh, hf]
  · next hk => rw [hallPower_modHall_ne hh _ hk]

/-- Every hall has its demand and its grant of the state that the cycle divides. -/
theorem foldl_brokerHall (m : BrokerIn) (l : List Nat) (hl : ∀ h ∈ l, h < 4) (hok : s.regsOk) (hh : s.hallsOk) :
    PowerOnly brokerFields s (l.foldl (fun t h => brokerHall t m h) s) ∧ ∀ k, grantOf (hallPower (l.foldl (fun t h => brokerHall t m h) s) k) =
      if k ∈ l then (demandOf s k, grantCeiling s k ((hallGrants s (fget s Reg.PWR_CAP.CAP_DW)).getD k 0)) else grantOf (hallPower s k) := by
  induction l generalizing s with
  | nil => exact ⟨.refl hok hh, fun _ => rfl⟩
  | cons x l ih =>
    have hstep := brokerHall_powerOnly hok hh m (hl x List.mem_cons_self)
    obtain ⟨honly, hgrants⟩ := ih (fun y hy => hl y (List.mem_cons_of_mem _ hy)) hstep.regsOk hstep.hallsOk
    refine ⟨hstep.trans honly, fun k => ?_⟩
    rw [List.foldl_cons, hgrants, hstep.sameInputs.demandOf, hstep.sameInputs.grantCeiling, hstep.sameInputs.hallGrants, hstep.limit (by simp),
      grantOf_brokerHall hh]
    by_cases hmem : k ∈ l
    · rw [if_pos hmem, if_pos (List.mem_cons_of_mem _ hmem)]
    · rw [if_neg hmem]
      by_cases hk : k = x
      · rw [if_pos hk, hk, if_pos List.mem_cons_self]
      · rw [if_neg hk, if_neg (by simp [hk, hmem])]

/-- Every hall cut, then shown. -/
theorem cutAll_keeps (hok : s.regsOk) (hh : s.hallsOk) : KeepsHalls grantOf brokerFields s (cutAll s) :=
  foldl_refreshHall_keeps (fun _ _ => rfl) (fun _ hh => List.mem_range.mp hh)
    ((KeepsHalls.refl hok hh).foldl fun h _ _ hu => hu.modHall h fun _ => rfl)

/-- What a cycle's measurement makes of the excursion. -/
theorem noteExcursion_keeps (hok : s.regsOk) (hh : s.hallsOk) : KeepsHalls grantOf brokerFields s (noteExcursion s) := by
  have hnote : ∀ x y z, KeepsHalls grantOf brokerFields s { s with pwr := { s.pwr with excursion := x, belowSince := y, capPending := z } } := fun x y z =>
    ⟨⟨rfl, hok, hh, fun _ _ _ => rfl⟩, fun _ => rfl⟩
  have hcount : ∀ {u}, KeepsHalls grantOf brokerFields s u → KeepsHalls grantOf brokerFields s (fbump u Reg.PWR_STATS.EXCURSIONS 1) := fun hu =>
    ⟨hu.1.bumpField (by decide) 1, hu.2⟩
  have hcut : ∀ {u}, KeepsHalls grantOf brokerFields s u → KeepsHalls grantOf brokerFields s (cutAll u) := fun hu =>
    hu.trans (cutAll_keeps hu.1.regsOk hu.1.hallsOk)
  have hended : ∀ {u}, KeepsHalls grantOf brokerFields s u → ∀ long : Bool,
      KeepsHalls grantOf brokerFields s (if long then (List.range 4).foldl (fun t h => modHall t h fun x => { x with cut := 256 }) u else u) := fun hu long => by
    split
    · exact hu.foldl fun h _ _ hu => hu.modHall h fun _ => rfl
    · exact hu
  unfold noteExcursion
  dsimp only
  split
  · split
    · split
      · exact hcut (hcount (hnote _ _ _))
      · exact hcut (hnote _ _ _)
    · split
      · exact hcount (hnote _ _ _)
      · exact hnote _ _ _
  · exact hended (hnote _ _ _) _

/-- The measured input of a cycle, shown. -/
def measured (s : State) (m : BrokerIn) : State :=
  fset (fset (fset { s with pwr := { s.pwr with last := m, energy := m.energy.foldl (fun e x => sset (fun _ => (0 : Nat)) e x.1 x.2) [] } }
    Reg.PWR_STATUS.INPUT_DW m.inputDw) Reg.PWR_STATUS.INPUT_DA m.inputDa) Reg.PWR_STATUS.INPUT_CV m.inputCv

theorem measured_shows (hok : s.regsOk) (m : BrokerIn) : (measured s m).regsOk ∧ fget (measured s m) Reg.PWR_STATUS.INPUT_DW = m.inputDw % 2 ^ 16 ∧
    fget (measured s m) Reg.PWR_STATUS.INPUT_DA = m.inputDa % 2 ^ 9 := by
  have h0 : ({ s with pwr := { s.pwr with last := m, energy := m.energy.foldl (fun e x => sset (fun _ => (0 : Nat)) e x.1 x.2) [] } } : State).regsOk := hok
  have h1 := regsOk_fset h0 Reg.PWR_STATUS.INPUT_DW m.inputDw
  have h2 := regsOk_fset h1 Reg.PWR_STATUS.INPUT_DA m.inputDa
  unfold measured
  refine ⟨regsOk_fset h2 .., ?_, ?_⟩
  · rw [fget_fset_other h2 _ _ _ (by decide) (by decide), fget_fset_other h1 _ _ _ (by decide) (by decide), fget_fset_same h0 _ _ (by decide)]
    rfl
  · rw [fget_fset_other h2 _ _ _ (by decide) (by decide), fget_fset_same h1 _ _ (by decide)]
    rfl

/-- The halls of a cycle, after the excursion's state, with their ceilings shown. -/
def cycled (s : State) (m : BrokerIn) : State :=
  (List.range 4).foldl refreshHall (noteExcursion ((List.range 4).foldl (fun t h => brokerHall t m h) (measured s m)))

theorem exec_brokerCycle (hpow : unpowered s = false) (hawake : asleep s = false) (m : BrokerIn) :
    exec (.brokerCycle m) s = .next ((List.range 4).foldl (fun t h => drivePoint (noteBinding t h) h) (cycled s m)) := by
  show execBrokerCycle m s = _
  simp only [execBrokerCycle, hpow, hawake, Bool.or_self, Bool.false_eq_true, if_false]
  rfl

theorem cycled_effect (hok : s.regsOk) (hh : s.hallsOk) (m : BrokerIn) : PowerOnly brokerFields (measured s m) (cycled s m) ∧
    ∀ h < 4, grantOf (hallPower (cycled s m) h) = (demandOf (measured s m) h,
        grantCeiling (measured s m) h ((hallGrants (measured s m) (fget (measured s m) Reg.PWR_CAP.CAP_DW)).getD h 0)) ∧
      fget (cycled s m) (Reg.PWR_HALL_STATUS.CEILING h) = ceilingOf (cycled s m) h := by
  obtain ⟨hmok, -⟩ := measured_shows hok m
  have hl : ∀ h ∈ List.range 4, h < 4 := fun _ hh => List.mem_range.mp hh
  obtain ⟨hdivided, hgrants⟩ := foldl_brokerHall m (List.range 4) hl hmok (s := measured s m) hh
  have hnoted := noteExcursion_keeps hdivided.regsOk hdivided.hallsOk
  obtain ⟨hrest, hkept⟩ := foldl_refreshHall_keeps (fun _ _ => rfl) hl hnoted
  refine ⟨hdivided.trans hrest, fun h hlt => ⟨?_, fget_ceiling_refreshAll hnoted.1.regsOk hnoted.1.hallsOk hlt⟩⟩
  exact (hkept h).trans ((hgrants h).trans (if_pos (List.mem_range.mpr hlt)))

theorem PointsOnly.powerOnly (e : PointsOnly s t) (hok : s.regsOk) : PowerOnly fs s t := by
  have hregs : t.regs = s.regs := by rw [e.frame]
  refine ⟨?_, by rw [State.regsOk, hregs]; exact hok, e.hallsOk, fun g _ _ => fget_of_regs hregs g⟩
  rw [e.frame]

/-- What a cycle leaves: the inputs shown, and every hall at its demand, its grant and its ceiling of the state at the end. -/
theorem brokerCycle_effect (hok : s.regsOk) (hh : s.hallsOk) (m : BrokerIn) (hpoints : PointsOnly (cycled s m) t) :
    PowerOnly brokerFields (measured s m) t ∧ ∀ h < 4, (hallPower t h).demand = demandOf t h ∧
      (hallPower t h).cap = grantCeiling t h ((hallGrants t (fget t Reg.PWR_CAP.CAP_DW)).getD h 0) ∧
      fget t (Reg.PWR_HALL_STATUS.CEILING h) = ceilingOf t h := by
  obtain ⟨honly, hhalls⟩ := cycled_effect hok hh m
  have hpower : PowerOnly brokerFields (cycled s m) t := hpoints.powerOnly honly.regsOk
  have hall := honly.trans hpower
  have hregs : t.regs = (cycled s m).regs := by rw [hpoints.frame]
  refine ⟨hall, fun h hlt => ?_⟩
  obtain ⟨hgrant, hshown⟩ := hhalls h hlt
  obtain ⟨hlimits, hdemand⟩ := hpoints.limits h
  simp only [grantOf, Prod.mk.injEq] at hgrant
  obtain ⟨hdivided, hcap⟩ := hgrant
  refine ⟨?_, ?_, ?_⟩
  · rw [hdemand, hdivided, hall.sameInputs.demandOf]
  · have hsame : (hallPower t h).cap = (hallPower (cycled s m) h).cap := congrArg (fun x => x.2.1) hlimits
    rw [hsame, hcap, hall.sameInputs.grantCeiling, hall.sameInputs.hallGrants, hall.limit (by simp)]
  · rw [fget_of_regs hregs, hshown, hpower.ceilingOf hlimits]

/-! ### The budget divided (R332) -/

/-- Parts of a whole that are cut down each to a whole number sum to no more than the whole. -/
theorem sum_map_div_le {β : Type} (l : List β) (f : β → Nat) (n d : Nat) : (l.map fun x => n * f x / d).sum ≤ n * (l.map f).sum / d := by
  induction l with
  | nil => simp
  | cons x l ih =>
    simp only [List.map_cons, List.sum_cons, Nat.mul_add]
    exact Nat.le_trans (Nat.add_le_add_left ih _) Nat.div_add_div_le_add_div

theorem sum_map_le_sum_map {β : Type} (l : List β) {f g : β → Nat} (h : ∀ x ∈ l, f x ≤ g x) : (l.map f).sum ≤ (l.map g).sum :=
  List.sum_le_sum h

/-- The shares that a numbered list takes are among those of the image. -/
theorem sum_getD_zipIdx_le (ds shares : List Nat) (i : Nat) : ((ds.zipIdx i).map fun d => shares.getD d.2 0).sum ≤ (shares.drop i).sum := by
  induction ds generalizing i with
  | nil => exact Nat.zero_le _
  | cons d ds ih =>
    simp only [List.zipIdx_cons, List.map_cons, List.sum_cons]
    have hstep : shares.getD i 0 + (shares.drop (i + 1)).sum = (shares.drop i).sum := by
      by_cases hi : i < shares.length
      · rw [List.drop_eq_getElem_cons hi, List.sum_cons, List.getD_eq_getElem _ _ hi]
      · rw [List.drop_eq_nil_of_le (by omega), List.drop_eq_nil_of_le (by omega), List.getD_eq_default _ _ (by omega)]
        rfl
    exact Nat.le_trans (Nat.add_le_add_left (ih (i + 1)) _) (Nat.le_of_eq hstep)

/-- What is divided is no more than the budget, where the shares are of one whole. -/
theorem divideBudget_sum_le (budget : Nat) (shares demands : List Nat) (hshares : shares.sum ≤ 256) : (divideBudget budget shares demands).sum ≤ budget := by
  let first := demands.zipIdx.map fun d => min d.1 (shares.getD d.2 0 * budget / 256)
  let unmet := (demands.zip first).map fun p => p.1 - p.2
  have hfirst : first.sum ≤ budget := calc
    first.sum ≤ (demands.zipIdx.map fun d => budget * shares.getD d.2 0 / 256).sum :=
      sum_map_le_sum_map _ fun d _ => Nat.le_trans (Nat.min_le_right _ _) (by rw [Nat.mul_comm])
    _ ≤ budget * (demands.zipIdx.map fun d => shares.getD d.2 0).sum / 256 := sum_map_div_le _ _ _ _
    _ ≤ budget * 256 / 256 := Nat.div_le_div_right (Nat.mul_le_mul_left _ (Nat.le_trans (sum_getD_zipIdx_le demands shares 0) hshares))
    _ = budget := Nat.mul_div_cancel _ (by decide)
  have hlen : first.length = unmet.length := by simp [first, unmet]
  have hsum : (divideBudget budget shares demands).sum ≤ first.sum + (budget - first.sum) := calc
    (divideBudget budget shares demands).sum
        = ((first.zip unmet).map fun p => p.1 + min p.2 ((budget - first.sum) * p.2 / max 1 unmet.sum)).sum := rfl
    _ = ((first.zip unmet).map Prod.fst).sum + ((first.zip unmet).map fun p => min p.2 ((budget - first.sum) * p.2 / max 1 unmet.sum)).sum := List.sum_map_add
    _ ≤ first.sum + ((first.zip unmet).map fun p => (budget - first.sum) * p.2 / max 1 unmet.sum).sum := by
      rw [List.map_fst_zip (Nat.le_of_eq hlen)]
      exact Nat.add_le_add_left (sum_map_le_sum_map _ fun _ _ => Nat.min_le_right _ _) _
    _ ≤ first.sum + (budget - first.sum) * ((first.zip unmet).map Prod.snd).sum / max 1 unmet.sum := Nat.add_le_add_left (sum_map_div_le _ _ _ _) _
    _ ≤ first.sum + (budget - first.sum) := by
      rw [List.map_snd_zip (Nat.le_of_eq hlen.symm)]
      exact Nat.add_le_add_left (Nat.div_le_of_le_mul (by rw [Nat.mul_comm]; exact Nat.mul_le_mul_right _ (Nat.le_max_right _ _))) _
  omega

/-! ### The excursion cut (R330) -/

theorem exec_excursionCut (hpow : unpowered s = false) (hexc : s.pwr.excursion.isSome = true) : exec .excursionCut s = .next (cutAll s) := by
  show execExcursionCut s = _
  have hnone : s.pwr.excursion.isNone = false := by simpa using hexc
  simp [execExcursionCut, hpow, hnone]

/-- Every hall's limit of the cut. -/
def allCut (s : State) : State := (List.range 4).foldl (fun t h => modHall t h fun x => { x with cut := cutCeiling s h }) s

theorem allCut_powerOnly (hok : s.regsOk) (hh : s.hallsOk) : PowerOnly brokerFields s (allCut s) :=
  (PowerOnly.refl hok hh).foldl fun h _ _ hu => hu.modHall h _

theorem cutAll_eq (s : State) : cutAll s = (List.range 4).foldl refreshHall (allCut s) := rfl

theorem cut_cutAll (hok : s.regsOk) (hh : s.hallsOk) (hlt : h < 4) : (hallPower (cutAll s) h).cut = cutCeiling s h := by
  have hcut := allCut_powerOnly hok hh
  obtain ⟨-, hkept⟩ := foldl_refreshHall_keeps (p := HallPower.cut) (fun _ _ => rfl) (fun _ hh => List.mem_range.mp hh) (.refl hcut.regsOk hcut.hallsOk)
  rw [cutAll_eq, hkept h, allCut, hallPower_foldl_modHall (fun h x => { x with cut := cutCeiling s h }) _ List.nodup_range hh,
    if_pos (List.mem_range.mpr hlt)]

theorem ceiling_cutAll (hok : s.regsOk) (hh : s.hallsOk) (hlt : h < 4) : fget (cutAll s) (Reg.PWR_HALL_STATUS.CEILING h) = ceilingOf (cutAll s) h := by
  have hcut := allCut_powerOnly hok hh
  rw [cutAll_eq]
  exact fget_ceiling_refreshAll hcut.regsOk hcut.hallsOk hlt

/-! ### Hints (R337) -/

theorem exec_hintCmd_refused {c seq : Nat} {x : Cmd} (hk : findCmd s c seq = some x) (hph : x.phase = .waiting) (hop : x.op = 0x06) (hst : hintStatus s x ≠ stOk) :
    exec (.hintCmd c seq) s = .next (finish s c seq (hintStatus s x) 0) := by
  show execHintCmd c seq s = _
  simp only [execHintCmd, cmdIn_found hk hph hop, hst, ne_eq, not_false_eq_true, if_true]

/-- The hints with a carrel's new one in the place of its old one. -/
def hintTaken (s : State) (c : Nat) (x : Cmd) : List Hint :=
  s.pwr.hints.filter (fun (y : Hint) => !y.is c (rd x.body 0 1) (rd x.body 1 1)) ++
    [{ carrel := c, region := rd x.body 0 1, tag := rd x.body 1 1, opens := x.age + rd x.body 4 4
       ends := x.age + rd x.body 4 4 + rd x.body 8 4, opened := false, hit := false }]

/-- The hint taken, its command done. -/
def hinted (s : State) (c seq : Nat) (x : Cmd) : State := finish { s with pwr := { s.pwr with hints := hintTaken s c x } } c seq stOk 0

theorem exec_hintCmd_taken {c seq : Nat} {x : Cmd} (hh : s.hallsOk) (hk : findCmd s c seq = some x) (hph : x.phase = .waiting) (hop : x.op = 0x06)
    (hst : hintStatus s x = stOk) : ∃ t, exec (.hintCmd c seq) s = .next t ∧ PointsOnly (hinted s c seq x) t := by
  have hexec : execHintCmd c seq s = .next (if fget s Reg.PWR_CTRL.FIXED = 1 then hinted s c seq x
      else (regionHalls (hinted s c seq x) (rd x.body 0 1)).foldl drivePoint (hinted s c seq x)) := by
    simp only [execHintCmd, cmdIn_found hk hph hop, hst, ne_eq, not_true_eq_false, if_false, hinted, hintTaken, Hint.is]
  refine ⟨_, hexec, ?_⟩
  split
  · exact .refl hh
  · exact foldl_pointsOnly (fun _ hu h => drivePoint_pointsOnly hu h) _ (s := hinted s c seq x) hh

/-- A hint's window opened; a pass of its tag that runs counts. -/
def hintOpened (s : State) (c r tag : Nat) (x : Hint) : Hint := if x.is c r tag then { x with opened := true, hit := x.hit || tagRuns s r tag } else x

theorem exec_hintWindowOpen (hpow : unpowered s = false) (c r tag : Nat) :
    exec (.hintWindowOpen c r tag) s = .next { s with pwr := { s.pwr with hints := s.pwr.hints.map (hintOpened s c r tag) } } := by
  show execHintWindowOpen c r tag s = _
  simp only [execHintWindowOpen, hpow, Bool.false_eq_true, if_false]
  rfl

theorem exec_hintWindowEnd {c r tag : Nat} {x : Hint} (hx : s.pwr.hints.find? (fun x => x.is c r tag && x.opened) = some x) :
    exec (.hintWindowEnd c r tag) s = .next (
      let t := { s with pwr := { s.pwr with hints := s.pwr.hints.filter fun y => !y.is c r tag } }
      if x.hit then t else fbump t Reg.PWR_STATS.HINT_MISS 1) := by
  show execHintWindowEnd c r tag s = _
  simp only [execHintWindowEnd, hx]

/-- Settles O44: a cycle's grants stand at its end (`cycled_effect`, `PointsOnly`), their sum keeps to the budget (`divideBudget_sum_le`), a cut limits every hall
(`cut_cutAll`), a hint replaces its carrel's earlier one (`exec_hintCmd_taken`). -/
theorem brokerDividesTheBudget : Obligations.BrokerDividesTheBudget := by
  intro s hok hh
  refine ⟨fun m hpow hawake => ?_, fun m hoff => ?_, fun limit hshares => divideBudget_sum_le _ _ _ hshares, fun hpow hexc => ?_, fun hexc => ?_,
    fun c seq k hk hph hop => ⟨fun hst => ?_, fun hst => ?_⟩, fun c r tag hpow => ?_, fun c r tag x hx => ?_⟩
  · obtain ⟨hmok, hdw, hda⟩ := measured_shows hok m
    obtain ⟨honly, -⟩ := cycled_effect hok hh m
    obtain ⟨hall, hhalls⟩ := brokerCycle_effect hok hh m (drivePoints_pointsOnly honly.hallsOk (List.range 4))
    refine ⟨_, exec_brokerCycle hpow hawake m, ⟨?_, ?_, ?_, ?_, ?_⟩, ?_, hall.sameInputs.last, ?_, ?_, hhalls⟩
    · exact (congrArg State.kv hall.frame :)
    · exact (congrArg State.img hall.frame :)
    · exact (congrArg State.arr hall.frame :)
    · exact (congrArg State.orb hall.frame :)
    · exact (congrArg State.tsx hall.frame :)
    · exact (congrArg State.itk hall.frame :)
    · rw [hall.limit (by simp), hdw]
    · rw [hall.limit (by simp), hda]
  · show execBrokerCycle m s = _
    have hcond : (unpowered s || asleep s) = true := by simpa using hoff
    simp only [execBrokerCycle, hcond, if_true]
  · have honly := (cutAll_keeps hok hh).1
    refine ⟨_, exec_excursionCut hpow hexc, ⟨?_, ?_, ?_, ?_, ?_⟩, ?_, fun h hlt => ⟨cut_cutAll hok hh hlt, ceiling_cutAll hok hh hlt⟩⟩ <;> rw [honly.frame]
  · show execExcursionCut s = _
    simp [execExcursionCut, hexc]
  · exact ⟨_, exec_hintCmd_refused hk hph hop hst, finish_finishedAs _ _ hk, rfl⟩
  · obtain ⟨t, hexec, hpoints⟩ := exec_hintCmd_taken hh hk hph hop hst
    refine ⟨t, hexec, ?_, ?_, ?_⟩ <;> rw [hpoints.frame]
    · exact finish_finishedAs (s := { s with pwr := { s.pwr with hints := hintTaken s c k } }) _ _ hk
    · rfl
    · rfl
  · refine ⟨_, exec_hintWindowOpen hpow c r tag, rfl, List.length_map _, fun i x hx => ?_⟩
    simp only [List.getElem?_map, hx, Option.map_some]
    rfl
  · refine ⟨_, exec_hintWindowEnd hx, ?_⟩
    dsimp only
    split
    · next hhit => exact ⟨rfl, fun _ => rfl, fun hmiss => absurd (hhit.symm.trans hmiss) (by decide)⟩
    · next hmiss =>
      exact ⟨rfl, fun hhit => absurd hhit hmiss, fun _ => fbump_counted (s := { s with pwr := { s.pwr with hints := _ } }) hok _ _ (by decide)⟩

end Sys2Proof.Machine
end
end

section
/-!
PROOFS. The monitor converters (R361 to R366): a trigger starts a conversion, waits or is dropped; what a result shows is left alone by what follows it.
-/
section
open Sys2Proof Sys2Proof.Machine
namespace Sys2Proof.Machine

variable {s t u : State} {die slot : Nat}

/-! ### Converters -/

/-- The converters' table stands in its canonical form. -/
abbrev State.convsOk (s : State) : Prop := swf (fun _ => freshConverter) s.cur.conv = true

theorem convOf_modConv (hc : s.convsOk) (die : Nat) (f : Converter → Converter) : convOf (modConv s die f) die = f (convOf s die) := sget_smod_same f hc

theorem convOf_modConv_ne (hc : s.convsOk) {d : Nat} (f : Converter → Converter) (hd : d ≠ die) : convOf (modConv s die f) d = convOf s d := sget_smod_ne f hc hd

theorem convsOk_modConv (hc : s.convsOk) (die : Nat) (f : Converter → Converter) : (modConv s die f).convsOk := smod_swf _ _ hc

/-! ### Triggers (R361, R362) -/

theorem exec_monitorTrigger (hpow : unpowered s = false) (hdie : die ≤ 4) (hslot : slot < 16) (hon : fget s (Reg.MON_SLOT.ENABLE die slot) = 1) (stopped : Bool) :
    exec (.monitorTrigger die slot stopped) s = .next (if stopped && fget s (Reg.MON_SLOT.TRIGGER die slot) == 2 then fbump s (Reg.MON_STATS.OVERRUN die) 1
      else if (convOf s die).busy.isNone then startSlot s die slot (slotSettings s die slot)
      else if slotWaits (convOf s die) slot then fbump s (Reg.MON_STATS.OVERRUN die) 1
      else modConv s die fun c => { c with waiting := c.waiting ++ [(slot, slotSettings s die slot)] }) := by
  have hexists : slotExists die slot = true := by simp [slotExists, hdie, hslot]
  show execMonitorTrigger die slot stopped s = _
  have hcond : (unpowered s || !slotExists die slot || decide (16 ≤ slot) || fget s (Reg.MON_SLOT.ENABLE die slot) == 0) = false := by
    simp [hpow, hexists, hon, hslot]
  simp only [execMonitorTrigger, hcond, Bool.false_eq_true, if_false]
  rfl

theorem exec_monitorTrigger_disabled (hoff : fget s (Reg.MON_SLOT.ENABLE die slot) = 0) (stopped : Bool) : exec (.monitorTrigger die slot stopped) s = .next s := by
  show execMonitorTrigger die slot stopped s = _
  simp [execMonitorTrigger, hoff]

/-! ### What follows a result (R364, R365) -/

/-- The registers of a slot's result and of its die's counts. -/
def resultRegs (die slot : Nat) : List Nat := [monBase die slot + 2, monDieBase die + 1]

/-- Between `s` and `t` what a result shows stood, and so did what waits at its converter and the module's work. -/
structure ResultKept (die slot : Nat) (s t : State) : Prop where
  work : t.kv = s.kv ∧ t.itk = s.itk ∧ t.run = s.run ∧ t.img = s.img
  regsOk : t.regsOk
  convsOk : t.convsOk
  reg : ∀ a ∈ resultRegs die slot, rget t a = rget s a
  waiting : (convOf t die).waiting = (convOf s die).waiting

theorem ResultKept.refl (hok : s.regsOk) (hc : s.convsOk) : ResultKept die slot s s := ⟨⟨rfl, rfl, rfl, rfl⟩, hok, hc, fun _ _ => rfl, rfl⟩

theorem ResultKept.trans (h : ResultKept die slot s t) (h' : ResultKept die slot t u) : ResultKept die slot s u := by
  obtain ⟨hkv, hitk, hrun, himg⟩ := h.work
  obtain ⟨hkv', hitk', hrun', himg'⟩ := h'.work
  exact ⟨⟨hkv'.trans hkv, hitk'.trans hitk, hrun'.trans hrun, himg'.trans himg⟩, h'.regsOk, h'.convsOk,
    fun a ha => (h'.reg a ha).trans (h.reg a ha), h'.waiting.trans h.waiting⟩

/-- Registers below the copies are none of a result's. -/
theorem low_not_mem_resultRegs {a : Nat} (ha : a < 0x20000000) : a ∉ resultRegs die slot := by
  simp only [resultRegs, monBase, monDieBase, List.mem_cons, List.not_mem_nil, or_false]
  omega

theorem ResultKept.setField (h : ResultKept die slot s t) {f : FieldRef} (hf : f.addr ∉ resultRegs die slot) (x : Nat) : ResultKept die slot s (fset t f x) :=
  h.trans ⟨⟨rfl, rfl, rfl, rfl⟩, regsOk_fset h.regsOk f x, h.convsOk, fun _ ha => rget_fset_ne h.regsOk x fun he => hf (he ▸ ha), rfl⟩

theorem ResultKept.bumpField (h : ResultKept die slot s t) {f : FieldRef} (hf : f.addr ∉ resultRegs die slot) (n : Nat) : ResultKept die slot s (fbump t f n) :=
  h.trans ⟨⟨rfl, rfl, rfl, rfl⟩, regsOk_fbump h.regsOk f n, h.convsOk, fun _ ha => rget_fbump_ne h.regsOk n fun he => hf (he ▸ ha), rfl⟩

theorem ResultKept.clocked (h : ResultKept die slot s t) (clk : Clock) (pst : PowerSt) : ResultKept die slot s { t with clk := clk, pst := pst } :=
  h.trans ⟨⟨rfl, rfl, rfl, rfl⟩, h.regsOk, h.convsOk, fun _ _ => rfl, rfl⟩

theorem ResultKept.annal (h : ResultKept die slot s t) (kind sev : Nat) (obj : Obj) (a0 a1 a2 : Nat) : ResultKept die slot s (annal t kind sev obj a0 a1 a2) := by
  have hlow : ∀ b ∈ annalsRegs, b < 0x20000000 := by decide
  have hreg : ∀ a ∈ resultRegs die slot, rget (Machine.annal t kind sev obj a0 a1 a2) a = rget t a := fun a ha =>
    annal_rget h.regsOk _ _ _ _ _ _ fun hmem => low_not_mem_resultRegs (hlow a hmem) ha
  have hframe := annal_frame t kind sev obj a0 a1 a2
  have hcur : (Machine.annal t kind sev obj a0 a1 a2).cur = t.cur := (congrArg State.cur hframe :)
  refine h.trans ⟨⟨(congrArg State.kv hframe :), (congrArg State.itk hframe :), (congrArg State.run hframe :), (congrArg State.img hframe :)⟩, annal_regsOk h.regsOk .., ?_, hreg, ?_⟩
  · rw [State.convsOk, hcur]
    exact h.convsOk
  · rw [convOf, hcur]
    rfl

/-- A converter changed in what does not wait. -/
theorem ResultKept.modConv (h : ResultKept die slot s t) {f : Converter → Converter} (hf : ∀ c, (f c).waiting = c.waiting) :
    ResultKept die slot s (modConv t die f) :=
  h.trans ⟨⟨rfl, rfl, rfl, rfl⟩, h.regsOk, convsOk_modConv h.convsOk die f, fun _ _ => rfl, by rw [convOf_modConv h.convsOk, hf]⟩

theorem ResultKept.beginWake (h : ResultKept die slot s t) (src : Nat) : ResultKept die slot s (beginWake t src) := by
  have hlow : ∀ f ∈ [Reg.PST_STATS.LOW_MS, Reg.PST_STATS.WAKES, Reg.PST_STATUS.WAKE_SRC, Reg.PST_STATUS.STATE], f.addr ∉ resultRegs die slot := fun f hf =>
    low_not_mem_resultRegs ((by decide : ∀ f ∈ [Reg.PST_STATS.LOW_MS, Reg.PST_STATS.WAKES, Reg.PST_STATUS.WAKE_SRC, Reg.PST_STATUS.STATE], f.addr < 0x20000000) f hf)
  exact ((((h.clocked _ _).bumpField (hlow _ (by simp)) _).bumpField (hlow _ (by simp)) _).setField (hlow _ (by simp)) _).setField (hlow _ (by simp)) _

theorem ResultKept.wake (h : ResultKept die slot s t) (src d : Nat) : ResultKept die slot s (wake t src d) := by
  have hstate : Reg.PST_STATUS.STATE.addr ∉ resultRegs die slot := low_not_mem_resultRegs (by decide)
  have hbegun : ResultKept die slot s (if asleep t then Machine.beginWake t src else t) := by
    split
    · exact h.beginWake src
    · exact h
  unfold Machine.wake
  dsimp only
  split
  · split
    · exact hbegun
    · exact (hbegun.clocked _ _).setField hstate _
  · exact h

theorem monEvents_not_mem (hdie : die ≤ 4) (hslot : slot < 16) : monDieBase die ∉ resultRegs die slot := by
  simp only [resultRegs, monBase, monDieBase, List.mem_cons, List.not_mem_nil, or_false]
  omega

theorem ResultKept.windowEvent (h : ResultKept die slot s t) (hdie : die ≤ 4) (hslot : slot < 16) (n code scaled : Nat) : ResultKept die slot s (windowEvent t die n code scaled) :=
  ((h.wake 6 2).setField (f := monEvents die) (monEvents_not_mem hdie hslot) _).annal ..

theorem ResultKept.refFailure (h : ResultKept die slot s t) (hdie : die ≤ 4) (hslot : slot < 16) (code : Nat) : ResultKept die slot s (refFailure t die code) := by
  unfold Machine.refFailure
  split
  · exact h
  · have hfailed := h.modConv (f := fun c => { c with refFailed := true }) fun _ => rfl
    have hshown := hfailed.setField (f := monRefFail die) (monEvents_not_mem hdie hslot) 1
    exact hshown.annal ..

theorem ResultKept.compareResult (h : ResultKept die slot s t) (hdie : die ≤ 4) (hslot : slot < 16) (n code scaled : Nat) (set window : W64) :
    ResultKept die slot s (compareResult t die n code scaled set window) := by
  unfold Machine.compareResult
  dsimp only
  split
  · exact h
  · have hmoved := h.modConv (f := fun c => { c with outside := if inWindow t die n code window then c.outside.filter (· != n) else (n :: c.outside).eraseDups }) fun _ => rfl
    split
    · refine ResultKept.refFailure ?_ hdie hslot code
      split
      · exact hmoved.windowEvent hdie hslot ..
      · exact hmoved
    · split
      · exact hmoved.windowEvent hdie hslot ..
      · exact hmoved

/-! ### A result (R363, R366) -/

theorem regsOk_modConv (hok : s.regsOk) (die : Nat) (f : Converter → Converter) : (modConv s die f).regsOk := hok

/-- Several fields written one after the other. -/
def putFields (s : State) (l : List (FieldRef × Nat)) : State := l.foldl (fun t e => fset t e.1 e.2) s

theorem putFields_regsOk (hok : s.regsOk) (l : List (FieldRef × Nat)) : (putFields s l).regsOk := by
  induction l generalizing s with
  | nil => exact hok
  | cons e l ih => exact ih (regsOk_fset hok ..)

theorem fget_putFields_other (hok : s.regsOk) {l : List (FieldRef × Nat)} {g : FieldRef} (hg : g.lo + g.w ≤ 64) (h : ∀ e ∈ l, e.1.Apart g) :
    fget (putFields s l) g = fget s g := by
  induction l generalizing s with
  | nil => rfl
  | cons e l ih =>
    obtain ⟨he, hl⟩ := List.forall_mem_cons.mp h
    exact (ih (regsOk_fset hok ..) hl).trans (fget_fset_other hok _ _ _ hg he)

/-- Fields that share no bit each read what was written to them. -/
theorem fget_putFields (hok : s.regsOk) {l : List (FieldRef × Nat)} (hfit : ∀ e ∈ l, e.1.lo + e.1.w ≤ 64) (h : l.Pairwise fun e e' => e'.1.Apart e.1) :
    ∀ e ∈ l, fget (putFields s l) e.1 = e.2 % 2 ^ e.1.w := by
  induction l generalizing s with
  | nil => exact fun _ he => nomatch he
  | cons x l ih =>
    intro e he
    obtain ⟨hx, hl⟩ := List.forall_mem_cons.mp hfit
    obtain ⟨hapart, hpair⟩ := List.pairwise_cons.mp h
    rcases List.mem_cons.mp he with rfl | he
    · exact (fget_putFields_other (regsOk_fset hok ..) hx fun e' he' => hapart e' he').trans (fget_fset_same hok _ _ hx)
    · exact ih (regsOk_fset hok ..) hl hpair e he

/-- The fields of a result. -/
def resultFields (s : State) (die slot code scaled : Nat) (fallback : Bool) : List (FieldRef × Nat) :=
  [(Reg.MON_RESULT.SCALED die slot, scaled), (Reg.MON_RESULT.CODE die slot, code), (Reg.MON_RESULT.FALLBACK die slot, bitOf fallback),
   (Reg.MON_RESULT.VALID die slot, 1), (Reg.MON_RESULT.COUNT die slot, (fget s (Reg.MON_RESULT.COUNT die slot) + 1) % 64)]

/-- The converter notes the input of the slot's last result. -/
def inputNoted (s : State) (die slot input : Nat) : State :=
  modConv s die fun c => { c with inputs := (slot, input) :: c.inputs.filter fun e => e.1 != slot }

theorem putResult_eq (s : State) (die slot input code scaled : Nat) (fallback : Bool) : putResult s die slot input code scaled fallback =
    fbump (putFields (inputNoted s die slot input) (resultFields s die slot code scaled fallback)) (Reg.MON_STATS.RESULTS die) 1 := rfl

/-- The registers of a result: its fields, each by itself, and the die's count. -/
theorem putResult_shows (hok : s.regsOk) (die slot input code scaled : Nat) (fallback : Bool) :
    let t := putResult s die slot input code scaled fallback
    t.regsOk ∧ (∀ e ∈ resultFields s die slot code scaled fallback, fget t e.1 = e.2 % 2 ^ e.1.w) ∧ counted s t (Reg.MON_STATS.RESULTS die) 1 := by
  have hnoted : (inputNoted s die slot input).regsOk := regsOk_modConv hok die _
  have hput := putFields_regsOk hnoted (resultFields s die slot code scaled fallback)
  have hfit : ∀ e ∈ resultFields s die slot code scaled fallback, e.1.lo + e.1.w ≤ 64 := by
    simp [resultFields, Reg.MON_RESULT.SCALED, Reg.MON_RESULT.CODE, Reg.MON_RESULT.FALLBACK, Reg.MON_RESULT.VALID, Reg.MON_RESULT.COUNT]
  have hpair : (resultFields s die slot code scaled fallback).Pairwise fun e e' => e'.1.Apart e.1 := by
    simp [resultFields, FieldRef.Apart, Reg.MON_RESULT.SCALED, Reg.MON_RESULT.CODE, Reg.MON_RESULT.FALLBACK, Reg.MON_RESULT.VALID, Reg.MON_RESULT.COUNT]
  have hstats : ∀ e ∈ resultFields s die slot code scaled fallback, e.1.addr = monBase die slot + 2 := by
    simp [resultFields, Reg.MON_RESULT.SCALED, Reg.MON_RESULT.CODE, Reg.MON_RESULT.FALLBACK, Reg.MON_RESULT.VALID, Reg.MON_RESULT.COUNT]
  have hne : monBase die slot + 2 ≠ monDieBase die + 1 := by
    simp only [monBase, monDieBase]
    omega
  have hkept : fget (putFields (inputNoted s die slot input) (resultFields s die slot code scaled fallback)) (Reg.MON_STATS.RESULTS die) =
      fget s (Reg.MON_STATS.RESULTS die) :=
    fget_putFields_other hnoted (by simp [Reg.MON_STATS.RESULTS]) fun e he => .inl fun hsame => hne ((hstats e he).symm.trans hsame.symm)
  rw [putResult_eq]
  refine ⟨regsOk_fbump hput .., fun e he => ?_, ?_⟩
  · rw [fget_fbump_other hput _ _ _ (hfit e he) (.inl fun hsame => hne ((hstats e he).symm.trans hsame))]
    exact fget_putFields hnoted hfit hpair e he
  · have hcount := fbump_counted hput (Reg.MON_STATS.RESULTS die) 1 (by simp [Reg.MON_STATS.RESULTS])
    rwa [counted, hkept] at hcount

theorem putResult_converter (hc : s.convsOk) (die slot input code scaled : Nat) (fallback : Bool) :
    (putResult s die slot input code scaled fallback).convsOk ∧
      (convOf (putResult s die slot input code scaled fallback) die).waiting = (convOf s die).waiting := by
  refine ⟨convsOk_modConv hc die _, ?_⟩
  show (convOf (inputNoted s die slot input) die).waiting = _
  rw [inputNoted, convOf_modConv hc]

/-! ### The next slot (R361) -/

/-- The slot served next is the lowest that waits. -/
theorem busy_serveNext (hc : s.convsOk) (die : Nat) : (convOf (serveNext s die) die).busy = ((convOf s die).waiting.map (·.1)).min? := by
  have hidle := convsOk_modConv hc die fun c => { c with busy := none }
  unfold serveNext
  dsimp only
  split
  · next w hw =>
    have hmin := List.find?_some hw
    rw [startSlot, convOf_modConv (convsOk_modConv hidle die _)]
    refine (List.min?_eq_some_iff.mpr ⟨List.mem_map_of_mem (List.mem_of_find?_eq_some hw), fun b hb => ?_⟩).symm
    obtain ⟨x, hx, rfl⟩ := List.mem_map.mp hb
    simpa using (List.all_eq_true.mp hmin) x hx
  · next hnone =>
    rw [convOf_modConv hc]
    cases hmin : ((convOf s die).waiting.map (·.1)).min? with
    | none => rfl
    | some a =>
      obtain ⟨hmem, hle⟩ := List.min?_eq_some_iff.mp hmin
      obtain ⟨w, hw, rfl⟩ := List.mem_map.mp hmem
      refine absurd ?_ (List.find?_eq_none.mp hnone w hw)
      exact List.all_eq_true.mpr fun x hx => decide_eq_true (hle x.1 (List.mem_map_of_mem hx))

theorem serveNext_frame (s : State) (die : Nat) : serveNext s die = { s with cur := { s.cur with conv := (serveNext s die).cur.conv } } := by
  unfold serveNext
  dsimp only
  split <;> rfl

/-! ### CODE as a signed figure (R363) -/

theorem clampCode_range (x : Int) : -(2 ^ 23) ≤ clampCode x ∧ clampCode x < 2 ^ 23 := by
  unfold clampCode
  omega

theorem signed_unsignedOf {x : Int} (h : -(2 ^ 23) ≤ x ∧ x < 2 ^ 23) : signed 24 (unsignedOf 24 x % 2 ^ 24) = x := by
  unfold signed unsignedOf
  omega

/-- The CODE that a slot's conversion gives, by its path. -/
def codeOf (c : Converter) (x : Samples) : Int :=
  if c.refFailed = true then fallbackCode (fieldOf c.set 8 4) 4 4 x
  else if fieldOf c.set 1 1 = 1 then fallbackCode (fieldOf c.set 8 4) (fieldOf c.set 36 4) (fieldOf c.set 40 5) x else mainCode (fieldOf c.set 8 4) x

theorem resultCode_eq (c : Converter) (x : Samples) : resultCode c false c.set x = unsignedOf 24 (codeOf c x) := by
  unfold resultCode codeOf fallsBack
  by_cases hfail : c.refFailed = true
  · simp [hfail]
  · simp [hfail]

theorem fallsBack_eq (c : Converter) : fallsBack c false c.set = decide (c.refFailed = true ∨ fieldOf c.set 1 1 = 1) :=
  Bool.eq_iff_iff.mpr (by simp [fallsBack])

theorem codeOf_range (c : Converter) (x : Samples) : -(2 ^ 23) ≤ codeOf c x ∧ codeOf c x < 2 ^ 23 := by
  unfold codeOf
  split
  · exact clampCode_range _
  · split
    · exact clampCode_range _
    · exact clampCode_range _

/-- The input and the figures of the result in progress. -/
def inputOf (s : State) (die : Nat) : Nat := fieldOf (convOf s die).set 4 4
def codeBits (s : State) (die : Nat) (x : Samples) : Nat := unsignedOf 24 (codeOf (convOf s die) x)
def scaledBits (s : State) (die : Nat) (x : Samples) : Nat := unsignedOf 32 (scaledOf die (inputOf s die) (codeBits s die x))

/-- The module with a slot's result shown, and then compared with its window. -/
def resulted (s : State) (die slot : Nat) (x : Samples) : State :=
  putResult s die slot (inputOf s die) (codeBits s die x) (scaledBits s die x) (fallsBack (convOf s die) false (convOf s die).set)
def windowed (s : State) (die slot : Nat) (x : Samples) : State :=
  compareResult (resulted s die slot x) die slot (codeBits s die x) (scaledBits s die x) (convOf s die).set (convOf s die).window

/-- The hall's temperature follows a result of one of its diodes. -/
def tempFollowed (s : State) (die : Nat) (diode : Bool) : State :=
  if diode then (match hottestDiode s die with | some t => showTemp s die t | none => s) else s

theorem exec_monitorResult (hpow : unpowered s = false) (hslot : slot < 16) (hbusy : (convOf s die).busy = some slot) (x : Samples) :
    exec (.monitorResult die slot x) s = .next (serveNext (tempFollowed (windowed s die slot x) die (die < 4 && decide (inputOf s die < 6))) die) := by
  have hown : decide (slot = 16 ∧ die = 4) = false := by simp; omega
  have hcond : (unpowered s || !(false || (decide (slot < 16) && (convOf s die).busy == some slot))) = false := by simp [hpow, hbusy, hslot]
  show execMonitorResult die slot x s = _
  simp only [execMonitorResult, hown, hcond, Bool.false_eq_true, if_false, resultCode_eq, resulted, windowed, inputOf, codeBits, scaledBits]
  rfl

theorem exec_monitorResult_idle {x : Samples} (hslot : slot < 16) (hbusy : (convOf s die).busy ≠ some slot) : exec (.monitorResult die slot x) s = .next s := by
  have hown : decide (slot = 16 ∧ die = 4) = false := by simp; omega
  show execMonitorResult die slot x s = _
  simp [execMonitorResult, hown, hbusy]

/-- What is shown of a result stands until the next slot's turn. -/
theorem resultKept_resulted (hok : s.regsOk) (hc : s.convsOk) (hdie : die ≤ 4) (hslot : slot < 16) (x : Samples) :
    ResultKept die slot (resulted s die slot x) (tempFollowed (windowed s die slot x) die (die < 4 && decide (inputOf s die < 6))) := by
  have hput : (resulted s die slot x).regsOk := (putResult_shows hok ..).1
  have hconv : (resulted s die slot x).convsOk := (putResult_converter hc ..).1
  have hcompared : ResultKept die slot (resulted s die slot x) (windowed s die slot x) := (ResultKept.refl hput hconv).compareResult hdie hslot ..
  unfold tempFollowed
  split
  · split
    · exact hcompared.setField (low_not_mem_resultRegs (by simp [Reg.PWR_HALL_STATUS.TEMP_C, Reg.PWR_HALL_STATUS.addr]; omega)) _
    · exact hcompared
  · exact hcompared

/-- Settles O48: a trigger by its cases (`exec_monitorTrigger`); a result's registers (`putResult_shows`) stand through what follows it (`ResultKept`), and the lowest
slot that waits is next (`busy_serveNext`). -/
theorem convertersServeSlots : Obligations.ConvertersServeSlots := by
  intro die slot s hok hc hdie hslot hpow
  refine ⟨fun hoff => exec_monitorTrigger_disabled hoff, fun hon => ⟨fun hidle => ?_, fun x hbusy hnot => ?_, fun x hbusy hwaits => ?_, fun hpwm => ?_⟩,
    fun x hbusy => exec_monitorResult_idle hslot hbusy, fun x hbusy _ _ => ?_⟩
  · refine ⟨_, exec_monitorTrigger hpow hdie hslot hon false, ?_⟩
    rw [Bool.false_and, if_neg Bool.false_ne_true, hidle, Option.isNone_none, if_pos rfl]
    exact ⟨⟨rfl, fun d hd => convOf_modConv_ne hc _ hd⟩, convOf_modConv hc die _⟩
  · have hserves : (convOf s die).busy.isNone = false := by rw [hbusy, Option.isNone_some]
    refine ⟨_, exec_monitorTrigger hpow hdie hslot hon false, ?_⟩
    rw [Bool.false_and, if_neg Bool.false_ne_true, hserves, if_neg Bool.false_ne_true, hnot, if_neg Bool.false_ne_true]
    exact ⟨⟨rfl, fun d hd => convOf_modConv_ne hc _ hd⟩, convOf_modConv hc die _⟩
  · have hserves : (convOf s die).busy.isNone = false := by rw [hbusy, Option.isNone_some]
    refine ⟨_, exec_monitorTrigger hpow hdie hslot hon false, ?_⟩
    rw [Bool.false_and, if_neg Bool.false_ne_true, hserves, if_neg Bool.false_ne_true, hwaits, if_pos rfl]
    exact ⟨rfl, fbump_counted hok _ _ (by simp [Reg.MON_STATS.OVERRUN])⟩
  · refine ⟨_, exec_monitorTrigger hpow hdie hslot hon true, ?_⟩
    rw [Bool.true_and, if_pos (by simp [hpwm])]
    exact ⟨rfl, fbump_counted hok _ _ (by simp [Reg.MON_STATS.OVERRUN])⟩
  · obtain ⟨-, hfields, hcount⟩ := putResult_shows hok die slot (inputOf s die) (codeBits s die x) (scaledBits s die x) (fallsBack (convOf s die) false (convOf s die).set)
    obtain ⟨-, hwaiting⟩ := putResult_converter hc die slot (inputOf s die) (codeBits s die x) (scaledBits s die x) (fallsBack (convOf s die) false (convOf s die).set)
    have hkept := resultKept_resulted hok hc hdie hslot x
    generalize hu : tempFollowed (windowed s die slot x) die (die < 4 && decide (inputOf s die < 6)) = u at hkept
    have hframe := serveNext_frame u die
    have hregs : (serveNext u die).regs = u.regs := (congrArg State.regs hframe :)
    have hreg : ∀ f : FieldRef, f.addr ∈ resultRegs die slot → fget (serveNext u die) f = fget (resulted s die slot x) f := fun f hf => by
      rw [fget, fget, rget_of_regs hregs, hkept.reg _ hf]
    obtain ⟨hkv, hitk, hrun, himg⟩ := hkept.work
    refine ⟨_, (exec_monitorResult hpow hslot hbusy x).trans (by rw [hu]), ?_, ?_, ?_, ?_, ?_, ?_, ?_, ?_, ?_, ?_⟩
    · rw [hreg _ (by simp [resultRegs, Reg.MON_RESULT.CODE])]
      refine (congrArg (signed 24) (hfields (Reg.MON_RESULT.CODE die slot, codeBits s die x) (by simp [resultFields]))).trans ?_
      exact signed_unsignedOf (codeOf_range ..)
    · rw [hreg _ (by simp [resultRegs, Reg.MON_RESULT.FALLBACK])]
      refine (hfields (Reg.MON_RESULT.FALLBACK die slot, bitOf (fallsBack (convOf s die) false (convOf s die).set)) (by simp [resultFields])).trans ?_
      rw [fallsBack_eq]
      split
      · next hfalls => rw [decide_eq_true hfalls]; rfl
      · next hmain => rw [decide_eq_false hmain]; rfl
    · rw [hreg _ (by simp [resultRegs, Reg.MON_RESULT.VALID])]
      exact hfields (Reg.MON_RESULT.VALID die slot, 1) (by simp [resultFields])
    · rw [hreg _ (by simp [resultRegs, Reg.MON_RESULT.COUNT])]
      exact (hfields (Reg.MON_RESULT.COUNT die slot, (fget s (Reg.MON_RESULT.COUNT die slot) + 1) % 64) (by simp [resultFields])).trans (Nat.mod_mod ..)
    · rw [counted, hreg _ (by simp [resultRegs, Reg.MON_STATS.RESULTS])]
      exact hcount
    · rw [busy_serveNext hkept.convsOk, hkept.waiting]
      exact congrArg (fun l => (l.map (·.1)).min?) hwaiting
    · exact (congrArg State.kv hframe :).trans hkv
    · exact (congrArg State.itk hframe :).trans hitk
    · exact (congrArg State.run hframe :).trans hrun
    · exact (congrArg State.img hframe :).trans himg

end Sys2Proof.Machine
end
end

section
/-!
PROOFS. Delivery of fault signature records (R395, R398): one record into one slot of the ring, and writes of the ring's register.
-/
section
open Sys2Proof Sys2Proof.Machine
namespace Sys2Proof.Machine

variable {s : State}

theorem bitOf_beq (a b : Nat) : bitOf (a == b) = if a = b then 1 else 0 := by
  simp only [bitOf, beq_iff_eq]

/-! ### One record delivered (R395) -/

/-- The place of the slot that is written next. -/
def fsrPlace (s : State) : Nat := fget s Reg.CUR_FSR_RING.ADDR * 4096 + 1024 * (fget s Reg.CUR_FSR_INDEX.PRODUCED % fsrSlots s)

/-- The slots that the host has not freed. -/
def fsrUsed (s : State) : Nat := (fget s Reg.CUR_FSR_INDEX.PRODUCED + 2 ^ 32 - fget s Reg.CUR_FSR_INDEX.CONSUMED) % 2 ^ 32

/-- The header of a record in the slot that is written next, with the slot's PHASE. -/
def fsrHeader (s : State) (r : Fsr) : Bytes :=
  leBytes 8 r.seq ++ leBytes 2 r.body.length ++ leBytes 1 (if fget s Reg.CUR_FSR_INDEX.PRODUCED / fsrSlots s % 2 = 0 then 1 else 0) ++ leBytes 5 0

/-- The module with its ring at the oldest record whose SEQ is `n` or above. -/
def fsrFrom (t : State) (n : Nat) : State := { t with con := { t.con with fsrCursor := n } }

/-- The module with a record's body and then its header written, and the cursor past it. -/
def fsrSent (s : State) (r : Fsr) : State :=
  fsrFrom (dmaWrite (dmaWrite s .pf0 (fsrPlace s + 16) r.body) .pf0 (fsrPlace s) (fsrHeader s r)) (r.seq + 1)

theorem exec_fsrDeliver {r : Fsr} (hpow : unpowered s = false) (hnext : nextFsr s = some r) (hup : fnUp s .pf0 = true)
    (hon : fget s Reg.CUR_FSR_RING.ENABLE = 1) (hroom : fsrUsed s < fsrSlots s) :
    exec .fsrDeliver s = .next (fset (fsrSent s r) Reg.CUR_FSR_INDEX.PRODUCED (fget s Reg.CUR_FSR_INDEX.PRODUCED + 1)) := by
  have hfree : ¬ fsrSlots s ≤ (fget s Reg.CUR_FSR_INDEX.PRODUCED + 2 ^ 32 - fget s Reg.CUR_FSR_INDEX.CONSUMED) % 2 ^ 32 := Nat.not_le.2 hroom
  have hgo : (unpowered s || !fnUp s .pf0 || decide (fget s Reg.CUR_FSR_RING.ENABLE = 0) ||
      decide (fsrSlots s ≤ (fget s Reg.CUR_FSR_INDEX.PRODUCED + 2 ^ 32 - fget s Reg.CUR_FSR_INDEX.CONSUMED) % 2 ^ 32)) = false := by
    simp only [hpow, hup, hon, hfree]
    decide
  show execFsrDeliver s = _
  simp only [execFsrDeliver, hnext, hgo, Bool.false_eq_true, if_false, bitOf_beq]
  rfl

theorem exec_fsrDeliver_waits (h : nextFsr s = none ∨ fget s Reg.CUR_FSR_RING.ENABLE = 0 ∨ fsrSlots s ≤ fsrUsed s) : exec .fsrDeliver s = .next s := by
  show execFsrDeliver s = _
  cases hnext : nextFsr s with
  | none => simp only [execFsrDeliver, hnext]
  | some r =>
    have hstop : decide (fget s Reg.CUR_FSR_RING.ENABLE = 0) = true ∨ decide (fsrSlots s ≤ fsrUsed s) = true := by
      simpa [hnext] using h
    simp only [execFsrDeliver, hnext]
    obtain hoff | hfull := hstop
    · simp only [hoff, Bool.or_true, Bool.true_or, if_true]
    · rw [fsrUsed] at hfull
      simp only [hfull, Bool.or_true, if_true]

/-- Both writes of a record go out over a function that is up. -/
theorem fsrSent_eq (hup : fnUp s .pf0 = true) (r : Fsr) : fsrSent s r = fsrFrom { s with out := { s.out with
    dma := ⟨.pf0, fsrPlace s % 2 ^ 64, fsrHeader s r⟩ :: ⟨.pf0, (fsrPlace s + 16) % 2 ^ 64, r.body⟩ :: s.out.dma } } (r.seq + 1) := by
  have hbody := dmaWrite_up hup (fsrPlace s + 16) r.body
  have hup' : fnUp (dmaWrite s .pf0 (fsrPlace s + 16) r.body) .pf0 = true := by
    rw [hbody]
    exact hup
  refine congrArg (fsrFrom · (r.seq + 1)) ((dmaWrite_up hup' _ _).trans ?_)
  rw [hbody]

/-! ### Writes of the ring's register (R398) -/

/-- The fields that setting ENABLE of an idle ring writes. -/
def ringFields (value : Nat) : List (FieldRef × Nat) :=
  [(Reg.CUR_FSR_RING.ADDR, nbits value 12 52), (Reg.CUR_FSR_RING.LOG2_SLOTS, nbits value 8 4), (Reg.CUR_FSR_RING.ENABLE, 1),
    (Reg.CUR_FSR_INDEX.PRODUCED, 0)]

theorem exec_fsrRingEnable_idle (hpow : unpowered s = false) {value : Nat} (hidle : fget s Reg.CUR_FSR_RING.ENABLE = 0)
    (hlow : 4 ≤ nbits value 8 4) (hhigh : nbits value 8 4 ≤ 12) (hrsv : nbits value 1 7 = 0) (hen : value % 2 = 1) :
    exec (.fsrRingEnable value) s = .next (fsrFrom (putFields s (ringFields value)) 0) := by
  have hlog : decide (nbits value 8 4 < 4 ∨ 12 < nbits value 8 4) = false := by
    simp only [decide_eq_false_iff_not]
    omega
  show execFsrRingEnable value s = _
  simp only [execFsrRingEnable, hpow, hidle, hlog, hrsv, hen, Bool.false_eq_true, Bool.false_and, Bool.or_self, ne_eq, not_true, decide_false, if_false,
    one_ne_zero, zero_ne_one]
  rfl

/-- What a write of a ring that is on is noted for: another place or size, or bits that say nothing. -/
def ringNoted (s : State) (value : Nat) : Bool :=
  (decide (nbits value 8 4 < 4 ∨ 12 < nbits value 8 4) || decide (nbits value 8 4 ≠ fget s Reg.CUR_FSR_RING.LOG2_SLOTS)) ||
    decide (nbits value 12 52 ≠ fget s Reg.CUR_FSR_RING.ADDR) || decide (nbits value 1 7 ≠ 0)

/-- What a ring that is on takes of a write: the size that it has, and ENABLE where the write clears it. -/
def ringKeeps (s : State) (value : Nat) : List (FieldRef × Nat) :=
  (if decide (nbits value 8 4 < 4 ∨ 12 < nbits value 8 4) || decide (nbits value 8 4 ≠ fget s Reg.CUR_FSR_RING.LOG2_SLOTS) then []
    else [(Reg.CUR_FSR_RING.LOG2_SLOTS, nbits value 8 4)]) ++
  if value % 2 = 0 then [(Reg.CUR_FSR_RING.ENABLE, 0)] else []

theorem exec_fsrRingEnable_on (hpow : unpowered s = false) (value : Nat) (hon : fget s Reg.CUR_FSR_RING.ENABLE = 1) :
    exec (.fsrRingEnable value) s = .next (putFields (if ringNoted s value then ignored s 0x109020 value else s) (ringKeeps s value)) := by
  show execFsrRingEnable value s = _
  simp only [execFsrRingEnable, hpow, hon, decide_true, Bool.true_and, Bool.false_eq_true, if_false, if_true]
  simp only [ringKeeps, putFields]
  rw [show (decide (nbits value 8 4 < 4 ∨ 12 < nbits value 8 4) || decide (nbits value 8 4 ≠ fget s Reg.CUR_FSR_RING.LOG2_SLOTS) ||
    decide (nbits value 12 52 ≠ fget s Reg.CUR_FSR_RING.ADDR) || decide (nbits value 1 7 ≠ 0)) = ringNoted s value from rfl]
  split <;> split <;> rfl

theorem putFields_frame (t : State) (l : List (FieldRef × Nat)) : putFields t l = { t with regs := (putFields t l).regs } := by
  induction l generalizing t with
  | nil => rfl
  | cons e l ih => exact (ih (fset t e.1 e.2)).trans rfl

theorem putFields_withRegs (t : State) (l : List (FieldRef × Nat)) : putFields t l = t.withRegs (putFields t l) := by
  rw [putFields_frame t l]
  rfl

/-- Writes that miss a field or give it what it holds keep it. -/
theorem fget_putFields_keeps {g : FieldRef} (hg : g.lo + g.w ≤ 64) {l : List (FieldRef × Nat)} {u : State} (hok : u.regsOk)
    (h : ∀ e ∈ l, e.1.Apart g ∨ (e.1 = g ∧ e.2 = fget u g)) : fget (putFields u l) g = fget u g := by
  induction l generalizing u with
  | nil => rfl
  | cons e l ih =>
    have hone : fget (fset u e.1 e.2) g = fget u g := by
      obtain hapart | ⟨hfield, hval⟩ := h e (List.mem_cons_self ..)
      · exact fget_fset_other hok _ _ _ hg hapart
      · rw [hfield, hval, fget_fset_same hok _ _ hg]
        exact Nat.mod_mod ..
    refine (ih (regsOk_fset hok ..) fun e' he' => ?_).trans hone
    rw [hone]
    exact h e' (List.mem_cons_of_mem _ he')

/-- What a ring that is on takes keeps its size, and clears ENABLE or keeps it. -/
theorem mem_ringKeeps {value : Nat} {e : FieldRef × Nat} (he : e ∈ ringKeeps s value) :
    (e.1 = Reg.CUR_FSR_RING.LOG2_SLOTS ∧ e.2 = fget s Reg.CUR_FSR_RING.LOG2_SLOTS) ∨ (e.1 = Reg.CUR_FSR_RING.ENABLE ∧ e.2 = 0 ∧ value % 2 = 0) := by
  simp only [ringKeeps, List.mem_append] at he
  obtain he | he := he
  · split at he
    · simp at he
    · next hgood =>
      simp only [Bool.or_eq_true, not_or, decide_eq_true_eq, ne_eq, not_not] at hgood
      simp only [List.mem_singleton] at he
      exact .inl ⟨congrArg Prod.fst he, (congrArg Prod.snd he).trans hgood.2⟩
  · split at he
    · next hclear =>
      simp only [List.mem_singleton] at he
      exact .inr ⟨congrArg Prod.fst he, congrArg Prod.snd he, hclear⟩
    · simp at he

/-- What a ring that is on takes moves no field but ENABLE. -/
theorem fget_ringKeeps {u : State} (hok : u.regsOk) (value : Nat) {g : FieldRef} (hg : g.lo + g.w ≤ 64) (hen : Reg.CUR_FSR_RING.ENABLE.Apart g)
    (hsize : Reg.CUR_FSR_RING.LOG2_SLOTS.Apart g) : fget (putFields u (ringKeeps s value)) g = fget u g := by
  refine fget_putFields_other hok hg fun e he => ?_
  obtain ⟨hfield, _⟩ | ⟨hfield, _⟩ := mem_ringKeeps he
  · exact hfield ▸ hsize
  · exact hfield ▸ hen

/-- The size of a ring that is on stays. -/
theorem fget_ringKeeps_size {u : State} (hok : u.regsOk) (hsize : fget u Reg.CUR_FSR_RING.LOG2_SLOTS = fget s Reg.CUR_FSR_RING.LOG2_SLOTS) (value : Nat) :
    fget (putFields u (ringKeeps s value)) Reg.CUR_FSR_RING.LOG2_SLOTS = fget s Reg.CUR_FSR_RING.LOG2_SLOTS := by
  refine (fget_putFields_keeps (by decide) hok fun e he => ?_).trans hsize
  obtain ⟨hfield, hval⟩ | ⟨hfield, _⟩ := mem_ringKeeps he
  · exact .inr ⟨hfield, hval.trans hsize.symm⟩
  · exact .inl (hfield ▸ by decide)

/-- A ring that is on is on after a write with ENABLE set, and off after another. -/
theorem fget_ringKeeps_enable {u : State} (hok : u.regsOk) (hon : fget u Reg.CUR_FSR_RING.ENABLE = 1) (value : Nat) :
    fget (putFields u (ringKeeps s value)) Reg.CUR_FSR_RING.ENABLE = value % 2 := by
  by_cases hclear : value % 2 = 0
  · rw [ringKeeps, if_pos hclear, putFields, List.foldl_append, hclear]
    exact fget_fset_same (putFields_regsOk hok _) _ _ (by decide)
  · refine (fget_putFields_other hok (by decide) fun e he => ?_).trans (hon.trans (by omega))
    obtain ⟨hfield, _⟩ | ⟨_, _, hzero⟩ := mem_ringKeeps he
    · exact hfield ▸ by decide
    · exact absurd hzero hclear

/-- A record delivered changes the registers, the cursor and the host's memory. -/
theorem fsrDelivered_frame (hup : fnUp s .pf0 = true) (r : Fsr) (n : Nat) :
    fset (fsrSent s r) Reg.CUR_FSR_INDEX.PRODUCED n = { s with
      regs := (fset (fsrSent s r) Reg.CUR_FSR_INDEX.PRODUCED n).regs, con := { s.con with fsrCursor := r.seq + 1 }
      out := { s.out with dma := (fset (fsrSent s r) Reg.CUR_FSR_INDEX.PRODUCED n).out.dma } } := by
  rw [fsrSent_eq hup]
  rfl

theorem fsrDelivered_dma (hup : fnUp s .pf0 = true) (r : Fsr) (n : Nat) : (fset (fsrSent s r) Reg.CUR_FSR_INDEX.PRODUCED n).out.dma =
    ⟨.pf0, fsrPlace s % 2 ^ 64, fsrHeader s r⟩ :: ⟨.pf0, (fsrPlace s + 16) % 2 ^ 64, r.body⟩ :: s.out.dma := by
  rw [fsrSent_eq hup]
  rfl

theorem fsrSent_regs (hup : fnUp s .pf0 = true) (r : Fsr) : (fsrSent s r).regs = s.regs := by
  rw [fsrSent_eq hup]
  rfl

theorem ringStarted_frame (l : List (FieldRef × Nat)) : fsrFrom (putFields s l) 0 =
    { s with regs := (fsrFrom (putFields s l) 0).regs, con := { s.con with fsrCursor := 0 } } := by
  rw [putFields_frame s l]
  rfl

theorem ringFields_fit (value : Nat) : ∀ e ∈ ringFields value, e.1.lo + e.1.w ≤ 64 := by
  simp [ringFields, Reg.CUR_FSR_RING.ADDR, Reg.CUR_FSR_RING.LOG2_SLOTS, Reg.CUR_FSR_RING.ENABLE, Reg.CUR_FSR_INDEX.PRODUCED]

theorem ringFields_apart (value : Nat) : (ringFields value).Pairwise fun e e' => e'.1.Apart e.1 := by
  simp only [ringFields, List.pairwise_cons, List.mem_cons, List.not_mem_nil, or_false, forall_eq_or_imp, forall_eq, false_imp_iff, implies_true, List.Pairwise.nil, and_true]
  decide

theorem fget_fsrFrom (t : State) (n : Nat) (f : FieldRef) : fget (fsrFrom t n) f = fget t f := rfl

/-- What a started ring's registers show. -/
theorem fget_ringStarted (hok : s.regsOk) (value : Nat) :
    ∀ e ∈ ringFields value, fget (fsrFrom (putFields s (ringFields value)) 0) e.1 = e.2 % 2 ^ e.1.w := fun e he =>
  (fget_fsrFrom ..).trans (fget_putFields hok (ringFields_fit value) (ringFields_apart value) e he)

/-- Settles O52: one record goes to one slot, and a write of the ring's register starts an idle ring and leaves one that is on in its place. -/
theorem signaturesAreDelivered : Obligations.SignaturesAreDelivered := by
  unfold Obligations.SignaturesAreDelivered
  intro s hok hpow
  refine ⟨fun r hnext hup hon hroom => ?_, exec_fsrDeliver_waits, fun value hidle hlow hhigh hrsv hen => ?_, fun value hon => ?_⟩
  · have hregs := fsrSent_regs hup r
    have hsok : (fsrSent s r).regsOk := by
      rw [State.regsOk, hregs]
      exact hok
    exact ⟨_, exec_fsrDeliver hpow hnext hup hon hroom, fsrDelivered_frame hup r _, fsrDelivered_dma hup r _, fget_fset_same hsok _ _ (by decide),
      (fget_fset_other hsok _ _ _ (by decide) (by decide)).trans (fget_of_regs hregs _)⟩
  · have hread := fget_ringStarted hok value
    exact ⟨_, exec_fsrRingEnable_idle hpow hidle hlow hhigh hrsv hen, ringStarted_frame _, hread (Reg.CUR_FSR_RING.ENABLE, 1) (.tail _ (.tail _ (.head _))),
      (hread (Reg.CUR_FSR_RING.ADDR, nbits value 12 52) (.head _)).trans (Nat.mod_mod ..),
      (hread (Reg.CUR_FSR_RING.LOG2_SLOTS, nbits value 8 4) (.tail _ (.head _))).trans (Nat.mod_mod ..),
      hread (Reg.CUR_FSR_INDEX.PRODUCED, 0) (.tail _ (.tail _ (.tail _ (.head _))))⟩
  · have hrec := (RecordsOnly.refl hok).ignoredIf (ringNoted s value) 0x109020 value
    have hkept : ∀ g : FieldRef, g.lo + g.w ≤ 64 → Reg.CUR_FSR_RING.ENABLE.Apart g → Reg.CUR_FSR_RING.LOG2_SLOTS.Apart g → (∀ f ∈ annalsFields, f.Apart g) →
        fget (putFields (if ringNoted s value then ignored s 0x109020 value else s) (ringKeeps s value)) g = fget s g := fun g hg hen hsize ha =>
      (fget_ringKeeps hrec.regsOk value hg hen hsize).trans (hrec.field g hg ha)
    exact ⟨_, exec_fsrRingEnable_on hpow value hon, State.withRegs_trans hrec.frame (putFields_withRegs _ _),
      hkept _ (by decide) (by decide) (by decide) (by decide),
      fget_ringKeeps_size hrec.regsOk (hrec.field _ (by decide) (by decide)) value,
      fget_ringKeeps_enable hrec.regsOk ((hrec.field _ (by decide) (by decide)).trans hon) value,
      hkept _ (by decide) (by decide) (by decide) (by decide)⟩

end Sys2Proof.Machine
end
end

section
/-!
PROOFS. The management mailbox and its requests (R358, R359, R370 to R375): a response, a request that arrives whole, and what each OPCODE answers.
-/
section
open Sys2Proof Sys2Proof.Machine
namespace Sys2Proof.Machine

variable {s t : State}

/-! ### A response (R359) -/

/-- A response's header and body. -/
def responseBytes (seq tag status : Nat) (body : Bytes) : Bytes :=
  leBytes 4 seq ++ leBytes 4 tag ++ leBytes 1 status ++ leBytes 3 0 ++ leBytes 4 body.length ++ leBytes 16 0 ++ body

/-- The module with a response in its mailbox, before the interrupt. -/
def responding (s : State) (seq tag status : Nat) (body : Bytes) : State :=
  fset (fset (modMbx s fun m => { m with response := responseBytes seq tag status body, req := none }) Reg.CUR_MBX_STATUS.LAST_STATUS status) Reg.CUR_MBX_STATUS.STATE 0

theorem respond_eq (s : State) (seq tag status : Nat) (body : Bytes) : respond s seq tag status body =
    { responding s seq tag status body with out := (msix (responding s seq tag status body) .pf0 0).out } := msix_frame ..

theorem respond_cur (s : State) (seq tag status : Nat) (body : Bytes) : (respond s seq tag status body).cur =
    { s.cur with mbx := { s.cur.mbx with response := responseBytes seq tag status body, req := none } } :=
  (congrArg State.cur (respond_eq s seq tag status body) :)

theorem respond_fw (s : State) (seq tag status : Nat) (body : Bytes) : (respond s seq tag status body).cur.fw = s.cur.fw := by rw [respond_cur]

theorem respond_sig (s : State) (seq tag status : Nat) (body : Bytes) : (respond s seq tag status body).cur.sig = s.cur.sig := by rw [respond_cur]

theorem respond_ann (s : State) (seq tag status : Nat) (body : Bytes) : (respond s seq tag status body).ann = s.ann :=
  (congrArg State.ann (respond_eq s seq tag status body) :)

theorem respond_img (s : State) (seq tag status : Nat) (body : Bytes) : (respond s seq tag status body).img = s.img :=
  (congrArg State.img (respond_eq s seq tag status body) :)

theorem respond_kv (s : State) (seq tag status : Nat) (body : Bytes) : (respond s seq tag status body).kv = s.kv :=
  (congrArg State.kv (respond_eq s seq tag status body) :)

theorem respond_run (s : State) (seq tag status : Nat) (body : Bytes) : (respond s seq tag status body).run = s.run :=
  (congrArg State.run (respond_eq s seq tag status body) :)

theorem respond_clk (s : State) (seq tag status : Nat) (body : Bytes) : (respond s seq tag status body).clk = s.clk :=
  (congrArg State.clk (respond_eq s seq tag status body) :)

theorem respond_free (s : State) (seq tag status : Nat) (body : Bytes) : (respond s seq tag status body).free = s.free :=
  (congrArg State.free (respond_eq s seq tag status body) :)

theorem respond_regs (s : State) (seq tag status : Nat) (body : Bytes) : (respond s seq tag status body).regs = (responding s seq tag status body).regs :=
  (congrArg State.regs (respond_eq s seq tag status body) :)

theorem respond_dma (s : State) (seq tag status : Nat) (body : Bytes) : (respond s seq tag status body).out.dma = s.out.dma := msix_dma ..

theorem responding_regsOk (hok : s.regsOk) (seq tag status : Nat) (body : Bytes) : (responding s seq tag status body).regsOk :=
  regsOk_fset (regsOk_fset (s := modMbx s _) hok ..) ..

theorem respond_regsOk (hok : s.regsOk) (seq tag status : Nat) (body : Bytes) : (respond s seq tag status body).regsOk := by
  rw [State.regsOk, respond_regs]
  exact responding_regsOk hok ..

/-- A response changes LAST_STATUS and STATE among the registers' fields. -/
theorem respond_fget (hok : s.regsOk) (seq tag status : Nat) (body : Bytes) {g : FieldRef} (hg : g.lo + g.w ≤ 64)
    (hlast : Reg.CUR_MBX_STATUS.LAST_STATUS.Apart g) (hstate : Reg.CUR_MBX_STATUS.STATE.Apart g) : fget (respond s seq tag status body) g = fget s g :=
  (fget_of_regs (respond_regs s seq tag status body) g).trans
    ((fget_fset_other (regsOk_fset (s := modMbx s _) hok ..) _ _ _ hg hstate).trans
      ((fget_fset_other (s := modMbx s _) hok _ _ _ hg hlast).trans (fget_of_regs rfl g)))

/-- A response answers the request in hand. -/
theorem respond_answered (hok : s.regsOk) (r : MbxReq) {status : Nat} (hstatus : status < 256) (body : Bytes) :
    answered (respond s r.seq r.tag status body) r status body := by
  have hmod : (modMbx s fun m => { m with response := responseBytes r.seq r.tag status body, req := none }).regsOk := hok
  refine ⟨?_, ?_, ?_, ?_⟩
  · rw [respond_cur]
    rfl
  · rw [respond_cur]
  · refine (fget_of_regs (respond_regs ..) _).trans ((fget_fset_other (regsOk_fset hmod ..) _ _ _ (by decide) (by decide)).trans ?_)
    exact (fget_fset_same hmod _ _ (by decide)).trans (Nat.mod_eq_of_lt hstatus)
  · exact (fget_of_regs (respond_regs ..) _).trans (fget_fset_same (regsOk_fset hmod ..) _ _ (by decide))

/-- A response after a record leaves what was recorded. -/
theorem recorded_of_ann {kind sev a0 a1 a2 : Nat} {u : State} (h : recorded s t kind sev a0 a1 a2) (hann : u.ann = t.ann) : recorded s u kind sev a0 a1 a2 := by
  rw [recorded, hann]
  exact h

/-! ### Bytes that arrive (R358) -/

section
variable {off : Nat} {bytes : Bytes}

/-- The mailbox with bytes in its request area. -/
def areaWith (s : State) (off : Nat) (bytes : Bytes) : State := modMbx s fun m => { m with blocks := putBytes m.blocks off bytes }

/-- The blocks that a request's LEN names, or its header block. -/
def requestBytes (s : State) : Bytes := (List.range (max 1 (min (rd (mbxBlock s 0).bytes 0 2) 64))).flatMap fun i => (mbxBlock s i).bytes

theorem exec_mailboxBlockWrite (hpow : unpowered s = false) (hoff : off + bytes.length ≤ 4096) (hready : domainReady s 2 = true)
    (hport : standbyMode s = false) : exec (.mailboxBlockWrite false off bytes) s = .next (mbxArrive s off bytes) := by
  have hgo : (unpowered s || decide (4096 < off + bytes.length)) = false := by simp [hpow, hoff]
  show execMailboxBlockWrite false off bytes s = _
  simp only [execMailboxBlockWrite, hgo, standbyPort, hport, hready, Bool.false_and, Bool.not_true, Bool.false_eq_true, if_false]

theorem mbxArrive_busy (h : fget s Reg.CUR_MBX_STATUS.STATE ≠ 0) : mbxArrive s off bytes =
    ignored (modMbx s fun m => { m with discarded := m.discarded + 1 }) (0x101000 + off) (leNat (bytes.take 8)) := if_pos h

theorem mbxArrive_idle (h : fget s Reg.CUR_MBX_STATUS.STATE = 0) : mbxArrive s off bytes =
    if requestComplete (areaWith s off bytes) = true then takeRequest (areaWith s off bytes) else areaWith s off bytes := if_neg (not_not.2 h)

/-- The request area cleared. -/
def areaCleared (s : State) : State := modMbx s fun m => { m with blocks := [] }

theorem takeRequest_bad (h : requestOk s (requestBytes s) = false) :
    takeRequest s = respond (areaCleared s) (rd (requestBytes s) 4 4) (rd (requestBytes s) 8 4) mbFormat [] := by
  have hbad : (!requestOk s (requestBytes s)) = true := by rw [h]; rfl
  exact if_pos hbad

/-- The request that a packet holds. -/
def requestOf (pkt : Bytes) : MbxReq := { seq := rd pkt 4 4, tag := rd pkt 8 4, op := rd pkt 2 1, body := slice pkt 0x20 (rd pkt 0xC 4) }

/-- The module with a packet's request in hand. -/
def packetInHand (s : State) (pkt : Bytes) : State :=
  fset (modMbx (fset (areaCleared s) Reg.CUR_MBX_STATUS.EXPECTED_SEQ ((rd pkt 4 4 + 1) % 2 ^ 32)) fun m => { m with req := some (requestOf pkt) })
    Reg.CUR_MBX_STATUS.STATE 1

theorem takeRequest_good (h : requestOk s (requestBytes s) = true) (hrecovery : s.cur.fw.recovery = false) :
    takeRequest s = packetInHand s (requestBytes s) := by
  have hgood : ¬ (!requestOk s (requestBytes s)) = true := by rw [h]; decide
  have hserved : ¬ (s.cur.fw.recovery && rd (requestBytes s) 2 1 != 0x01 && rd (requestBytes s) 2 1 != 0x05) = true := by
    rw [hrecovery]
    simp
  exact (if_neg hgood).trans (if_neg hserved)

theorem packetInHand_shows (hok : s.regsOk) (pkt : Bytes) : (packetInHand s pkt).cur.mbx.blocks = [] ∧ (packetInHand s pkt).cur.mbx.req = some (requestOf pkt) ∧
    fget (packetInHand s pkt) Reg.CUR_MBX_STATUS.STATE = 1 ∧ fget (packetInHand s pkt) Reg.CUR_MBX_STATUS.EXPECTED_SEQ = (rd pkt 4 4 + 1) % 2 ^ 32 ∧
    (packetInHand s pkt).ann = s.ann := by
  have hcleared : (areaCleared s).regsOk := hok
  have hseq := regsOk_fset hcleared Reg.CUR_MBX_STATUS.EXPECTED_SEQ ((rd pkt 4 4 + 1) % 2 ^ 32)
  have hmod : (modMbx (fset (areaCleared s) Reg.CUR_MBX_STATUS.EXPECTED_SEQ ((rd pkt 4 4 + 1) % 2 ^ 32)) fun m =>
    { m with req := some (requestOf pkt) }).regsOk := hseq
  refine ⟨rfl, rfl, fget_fset_same hmod _ _ (by decide), ?_, rfl⟩
  refine (fget_fset_other hmod _ _ _ (by decide) (by decide)).trans ((fget_of_regs rfl _).trans ?_)
  exact (fget_fset_same hcleared _ _ (by decide)).trans (Nat.mod_mod ..)

/-- A request that breaks R358 is answered FORMAT and leaves EXPECTED_SEQ. -/
theorem takeRequest_bad_shows (hok : s.regsOk) (h : requestOk s (requestBytes s) = false) : (takeRequest s).cur.mbx.blocks = [] ∧
    (takeRequest s).cur.mbx.req = none ∧ fget (takeRequest s) Reg.CUR_MBX_STATUS.LAST_STATUS = mbFormat ∧ fget (takeRequest s) Reg.CUR_MBX_STATUS.STATE = 0 ∧
    fget (takeRequest s) Reg.CUR_MBX_STATUS.EXPECTED_SEQ = fget s Reg.CUR_MBX_STATUS.EXPECTED_SEQ := by
  have hcleared : (areaCleared s).regsOk := hok
  rw [takeRequest_bad h]
  obtain ⟨-, hreq, hlast, hstate⟩ := respond_answered hcleared (requestOf (requestBytes s)) (status := mbFormat) (by decide) []
  refine ⟨?_, hreq, hlast, hstate, ?_⟩
  · rw [respond_cur]
    rfl
  · exact (respond_fget hcleared _ _ _ _ (by decide) (by decide) (by decide)).trans (fget_of_regs rfl _)

end

/-! ### Identity and attestation (R373 to R375) -/

section
variable {r : MbxReq}

theorem exec_identity (h : requestIs s 0x01 = some r) : exec .identity s = .next (respond s r.seq r.tag mbOk (Config.identityRecord s.cur.serial)) := by
  show execIdentity s = _
  simp only [execIdentity, h]

theorem exec_identity_none (h : requestIs s 0x01 = none) : exec .identity s = .next s := by
  show execIdentity s = _
  simp only [execIdentity, h]

theorem exec_attest_none (h : requestIs s 0x02 = none) (ok : Bool) : exec (.attest ok) s = .next s := by
  show execAttest ok s = _
  simp only [execAttest, h]

theorem exec_attest_rate (h : requestIs s 0x02 = some r) (ok : Bool) (htok : s.cur.sig.tokens = 0) :
    exec (.attest ok) s = .next (respond s r.seq r.tag mbRate []) := by
  show execAttest ok s = _
  simp only [execAttest, h, htok, if_true]

theorem exec_attest_exhausted (h : requestIs s 0x02 = some r) (ok : Bool) (htok : 0 < s.cur.sig.tokens) (hleaf : 2 ^ 20 ≤ s.cur.sig.nextLeaf) :
    exec (.attest ok) s = .next (respond s r.seq r.tag mbExhausted []) := by
  show execAttest ok s = _
  simp only [execAttest, h, Nat.pos_iff_ne_zero.1 htok, hleaf, if_true, if_false]

theorem exec_attest_nand (h : requestIs s 0x02 = some r) (htok : 0 < s.cur.sig.tokens) (hleaf : s.cur.sig.nextLeaf < 2 ^ 20)
    (hlimit : s.cur.sig.limit ≤ s.cur.sig.nextLeaf) : exec (.attest false) s = .next (respond s r.seq r.tag mbNand []) := by
  show execAttest false s = _
  simp only [execAttest, h, Nat.pos_iff_ne_zero.1 htok, Nat.not_le.2 hleaf, hlimit, decide_true, Bool.not_false, Bool.and_self, if_true, if_false]

/-- The signature state with one leaf and one token spent; a leaf at the reserved limit reserves 16 more. -/
def leafSpent (g : Signing) : Signing :=
  { nextLeaf := g.nextLeaf + 1, limit := if g.limit ≤ g.nextLeaf then min (g.nextLeaf + 16) (2 ^ 20) else g.limit, tokens := g.tokens - 1 }

/-- The module with a leaf spent. -/
def attesting (s : State) : State := showSig { s with cur := { s.cur with sig := leafSpent s.cur.sig } }

/-- What an attestation signs. -/
def attestedRecord (s : State) (r : MbxReq) : Bytes := attestRecord s (slice r.body 0 32) ((rd r.body 32 4).testBit 0) s.cur.sig.nextLeaf

/-- The signature over it, of 2,820 bytes. -/
def attestSignature (s : State) (r : MbxReq) : Bytes := (Config.xmssSign s.cur.sig.nextLeaf (attestedRecord s r) ++ List.replicate 2820 0).take 2820

theorem attestSignature_length (s : State) (r : MbxReq) : (attestSignature s r).length = 2820 := by
  rw [attestSignature, List.length_take, List.length_append, List.length_replicate]
  omega

/-- The module with its attestation recorded. -/
def attested (s : State) (r : MbxReq) : State := annal (attesting s) 0x0B00 0 {} s.cur.sig.nextLeaf (rd r.body 0 8) 0

theorem exec_attest_ok (h : requestIs s 0x02 = some r) (ok : Bool) (htok : 0 < s.cur.sig.tokens) (hleaf : s.cur.sig.nextLeaf < 2 ^ 20)
    (hres : s.cur.sig.nextLeaf < s.cur.sig.limit ∨ ok = true) :
    exec (.attest ok) s = .next (respond (attested s r) r.seq r.tag mbOk (attestedRecord s r ++ attestSignature s r)) := by
  have hgo : (decide (s.cur.sig.limit ≤ s.cur.sig.nextLeaf) && !ok) = false := by
    obtain hlt | htrue := hres
    · simp [hlt]
    · simp [htrue]
  show execAttest ok s = _
  simp only [execAttest, h, Nat.pos_iff_ne_zero.1 htok, Nat.not_le.2 hleaf, hgo, Bool.false_eq_true, if_false]
  rfl

theorem attesting_regsOk (hok : s.regsOk) : (attesting s).regsOk :=
  regsOk_fset (regsOk_fset (regsOk_fset (s := { s with cur := _ }) hok ..) ..) ..

theorem attested_sig (s : State) (r : MbxReq) : (attested s r).cur.sig = leafSpent s.cur.sig :=
  (congrArg (fun t => t.cur.sig) (annal_frame (attesting s) 0x0B00 0 {} s.cur.sig.nextLeaf (rd r.body 0 8) 0) :)

theorem attested_recorded (s : State) (r : MbxReq) : recorded s (attested s r) 0x0B00 0 s.cur.sig.nextLeaf (rd r.body 0 8) 0 :=
  annal_recorded (attesting s) 0x0B00 0 {} s.cur.sig.nextLeaf (rd r.body 0 8) 0

/-- The leaf spent is one that was reserved. -/
theorem leafSpent_reserved {g : Signing} (hleaf : g.nextLeaf < 2 ^ 20) (hlimit : g.limit ≤ 2 ^ 20) :
    (leafSpent g).nextLeaf ≤ (leafSpent g).limit ∧ (leafSpent g).limit ≤ 2 ^ 20 := by
  simp only [leafSpent]
  split <;> omega

/-- A signed leaf answers the record and its signature, spends one token and is recorded. -/
theorem attest_signs (hok : s.regsOk) (h : requestIs s 0x02 = some r) (ok : Bool) (htok : 0 < s.cur.sig.tokens) (hleaf : s.cur.sig.nextLeaf < 2 ^ 20)
    (hres : s.cur.sig.nextLeaf < s.cur.sig.limit ∨ ok = true) : ∃ t body, exec (.attest ok) s = .next t ∧
      answered t r mbOk body ∧ body.length = (attestedRecord s r).length + 2820 ∧ body.take (body.length - 2820) = attestedRecord s r ∧
      t.cur.sig = leafSpent s.cur.sig ∧ recorded s t 0x0B00 0 s.cur.sig.nextLeaf (rd r.body 0 8) 0 := by
  have hlen : (attestedRecord s r ++ attestSignature s r).length = (attestedRecord s r).length + 2820 := by
    rw [List.length_append, attestSignature_length]
  refine ⟨_, _, exec_attest_ok h ok htok hleaf hres, respond_answered (annal_regsOk (attesting_regsOk hok) ..) r (by decide) _, hlen, ?_, ?_, ?_⟩
  · rw [hlen, Nat.add_sub_cancel, List.take_left]
  · exact (respond_sig ..).trans (attested_sig s r)
  · exact recorded_of_ann (attested_recorded s r) (respond_ann ..)

/-! ### Annals requests (R370) -/

/-- The records that ANNALS_EXPORT names. -/
def exported (s : State) (r : MbxReq) : List Rec := ((allRecords s).filter fun x => decide (rd r.body 0 8 ≤ x.seq)).take (rd r.body 8 4)

theorem exec_annalsExport (h : requestIs s 0x03 = some r) {x : Rec} {xs : List Rec} (hxs : exported s r = x :: xs) :
    exec .annalsExport s = .next (respond (dmaWrite s .pf0 (rd r.body 16 8) ((x :: xs).flatMap recBytes)) r.seq r.tag mbOk
      (leBytes 8 x.seq ++ leBytes 4 (xs.length + 1))) := by
  rw [exported] at hxs
  show execAnnalsExport s = _
  simp only [execAnnalsExport, h, hxs]
  rfl

/-- The module with a host's note recorded. -/
def noted (s : State) (r : MbxReq) : State := annal s 0x0004 0 {} (rd r.body 0 8) (rd r.body 8 8) (rd r.body 16 8)

/-- A kind that was not held back takes the next SEQ. -/
theorem recorded_lastSeq {kind sev a0 a1 a2 : Nat} (h : recorded s t kind sev a0 a1 a2) (hroom : (kindCount s.ann kind).written < 100) :
    t.ann.lastSeq = s.ann.lastSeq + 1 := by
  rw [recorded, if_neg fun hheld => Nat.not_le.2 hroom hheld.2] at h
  exact h.1

theorem exec_annalsNote (h : requestIs s 0x04 = some r) (hroom : (kindCount s.ann 4).written < 100) :
    exec .annalsNote s = .next (respond (noted s r) r.seq r.tag mbOk (leBytes 8 (s.ann.lastSeq + 1))) := by
  have hseq : (noted s r).ann.lastSeq = s.ann.lastSeq + 1 := recorded_lastSeq (annal_recorded ..) hroom
  have hne : ¬ (noted s r).ann.lastSeq = s.ann.lastSeq := by omega
  rw [noted] at hne hseq
  show execAnnalsNote s = _
  simp only [execAnnalsNote, h, hne, if_false]
  rw [hseq]
  rfl

end

/-- Settles O46: bytes reach the area, a whole request is taken or answered FORMAT, and each read request answers as its table says. -/
theorem mailboxServesRequests : Obligations.MailboxServesRequests := by
  unfold Obligations.MailboxServesRequests
  intro s hok hpow
  refine ⟨fun off bytes hoff hready hport => ⟨fun hbusy => ?_, fun hidle => ?_⟩, fun r h => ?_, fun r ok h => ⟨fun htok => ?_, fun htok hleaf => ?_, fun htok hleaf hlimit hok' => ?_, fun htok hleaf hres => ?_⟩,
    fun r x xs h hxs => ?_, fun r h hroom => ?_, exec_identity_none, fun ok h => exec_attest_none h ok⟩
  · refine ⟨_, (exec_mailboxBlockWrite hpow hoff hready hport).trans (congrArg _ (mbxArrive_busy hbusy)), ?_, ?_, ?_⟩
    · exact (congrArg (fun t => t.cur.mbx) (annal_frame ..) :)
    · exact fun a _ ha => annal_rget (s := modMbx s _) hok _ _ _ _ _ _ ha
    · exact annal_recorded (modMbx s fun m => { m with discarded := m.discarded + 1 }) ..
  · have hexec := (exec_mailboxBlockWrite hpow hoff hready hport).trans (congrArg _ (mbxArrive_idle hidle))
    have harea : (areaWith s off bytes).regsOk := hok
    refine ⟨fun hpart => ?_, fun hwhole hgood hrecovery => ?_, fun hwhole hbad => ?_⟩
    · exact hexec.trans (congrArg _ (if_neg (by rw [areaWith, hpart]; decide)))
    · have htaken := takeRequest_good (s := areaWith s off bytes) hgood hrecovery
      exact ⟨_, hexec.trans (congrArg _ ((if_pos hwhole).trans htaken)), packetInHand_shows harea _⟩
    · exact ⟨_, hexec.trans (congrArg _ (if_pos hwhole)), takeRequest_bad_shows harea hbad⟩
  · exact ⟨_, exec_identity h, respond_answered hok r (by decide) _, respond_ann .., respond_sig ..⟩
  · exact ⟨_, exec_attest_rate h ok htok, respond_answered hok r (by decide) _, respond_sig .., respond_ann ..⟩
  · exact ⟨_, exec_attest_exhausted h ok htok hleaf, respond_answered hok r (by decide) _, respond_sig ..⟩
  · subst hok'
    exact ⟨_, exec_attest_nand h htok hleaf hlimit, respond_answered hok r (by decide) _, respond_sig ..⟩
  · obtain ⟨t, body, hexec, hanswer, hlen, htake, hsig, hrec⟩ := attest_signs hok h ok htok hleaf hres
    refine ⟨t, body, hexec, hanswer, hlen, htake, ?_, ?_, fun hlimit => ?_, hrec⟩
    · rw [hsig]
      rfl
    · rw [hsig]
      rfl
    · rw [hsig]
      exact leafSpent_reserved hleaf hlimit
  · have hdma : (dmaWrite s .pf0 (rd r.body 16 8) ((x :: xs).flatMap recBytes)).regsOk := by
      rw [dmaWrite_frame]
      exact hok
    refine ⟨_, exec_annalsExport h hxs, respond_answered hdma r (by decide) _, ?_, ?_, respond_dma ..⟩
    · rw [respond_ann, dmaWrite_frame]
    · rw [respond_free, dmaWrite_frame]
  · refine ⟨_, exec_annalsNote h hroom, respond_answered (annal_regsOk hok ..) r (by decide) _, recorded_of_ann (annal_recorded ..) (respond_ann ..), ?_⟩
    exact (respond_sig ..).trans (congrArg (fun t => t.cur.sig) (annal_frame ..) :)

end Sys2Proof.Machine
end
end

section
/-!
PROOFS. Firmware requests and the curator's watchdog (R357, R368, R371, R372): the slots change where the table says, and a restart keeps the module's work.
-/
section
open Sys2Proof Sys2Proof.Machine
namespace Sys2Proof.Machine

variable {s t : State} {r : MbxReq}

/-! ### The firmware state changed and recorded -/

/-- The fields of CUR.FW_STATUS with what they show. -/
def fwFields (s : State) : List (FieldRef × Nat) :=
  [(Reg.CUR_FW_STATUS.SLOT, s.cur.fw.running), (Reg.CUR_FW_STATUS.NEXT, s.cur.fw.nextSlot),
    (Reg.CUR_FW_STATUS.STAGED, bitOf (fwSlotOf s.cur.fw (1 - s.cur.fw.running)).isSome), (Reg.CUR_FW_STATUS.TRIAL, bitOf s.cur.fw.trial),
    (Reg.CUR_FW_STATUS.RECOVERY, bitOf s.cur.fw.recovery), (Reg.CUR_FW_STATUS.SVN, runningSvn s), (Reg.CUR_FW_STATUS.FLOOR, s.cur.fw.floor),
    (Reg.CUR_FW_STATUS.BOOTS, s.clk.boots % 65536)]

/-- The fields of CUR.FW_STATUS in the order that they are shown. -/
def fwStatusRefs : List FieldRef :=
  [Reg.CUR_FW_STATUS.SLOT, Reg.CUR_FW_STATUS.NEXT, Reg.CUR_FW_STATUS.STAGED, Reg.CUR_FW_STATUS.TRIAL, Reg.CUR_FW_STATUS.RECOVERY, Reg.CUR_FW_STATUS.SVN,
    Reg.CUR_FW_STATUS.FLOOR, Reg.CUR_FW_STATUS.BOOTS]

theorem fwFields_refs (s : State) : (fwFields s).map Prod.fst = fwStatusRefs := rfl

theorem fwFields_fit (s : State) : ∀ e ∈ fwFields s, e.1.lo + e.1.w ≤ 64 := by
  have hfit : ∀ f ∈ fwStatusRefs, f.lo + f.w ≤ 64 := by decide
  exact fun e he => hfit _ (fwFields_refs s ▸ List.mem_map_of_mem he)

theorem fwFields_apart (s : State) : (fwFields s).Pairwise fun e e' => e'.1.Apart e.1 := by
  have hapart : fwStatusRefs.Pairwise fun f g => g.Apart f := by decide
  rw [← fwFields_refs s] at hapart
  exact List.pairwise_map.1 hapart

/-- CUR.FW_STATUS shows the firmware state. -/
theorem showFw_shows (hok : s.regsOk) : ∀ e ∈ fwFields s, fget (showFw s) e.1 = e.2 % 2 ^ e.1.w :=
  fget_putFields hok (fwFields_fit s) (fwFields_apart s)

/-- The module with its firmware state changed, CUR.FW_STATUS showing it, and recorded. -/
def fwRecorded (s : State) (f : Firmware → Firmware) (event slot svn : Nat) : State := fwEvent (modFw s f) event slot svn

theorem showFw_regsOk (hok : s.regsOk) : (showFw s).regsOk := putFields_regsOk hok (fwFields s)

theorem modFw_regsOk (hok : s.regsOk) (f : Firmware → Firmware) : (modFw s f).regsOk :=
  showFw_regsOk (s := { s with cur := { s.cur with fw := f s.cur.fw } }) hok

theorem fwRecorded_regsOk (hok : s.regsOk) (f : Firmware → Firmware) (event slot svn : Nat) : (fwRecorded s f event slot svn).regsOk :=
  annal_regsOk (modFw_regsOk hok f) ..

/-- What a request's answer changes of the module beside its firmware: the registers, the mailbox, the annals. -/
structure FwAnswered (s : State) (w : Firmware) (t : State) : Prop where
  fw : t.cur.fw = w
  img : t.img = s.img
  kv : t.kv = s.kv
  clk : t.clk = s.clk

/-- A response after the firmware changed. -/
theorem modFw_respond (s : State) (f : Firmware → Firmware) (status : Nat) (body : Bytes) :
    FwAnswered s (f s.cur.fw) (respond (modFw s f) r.seq r.tag status body) where
  fw := respond_fw ..
  img := respond_img ..
  kv := respond_kv ..
  clk := respond_clk ..

/-- A response after the firmware changed and the change was recorded. -/
theorem fwRecorded_respond (s : State) (f : Firmware → Firmware) (event slot svn status : Nat) (body : Bytes) :
    FwAnswered s (f s.cur.fw) (respond (fwRecorded s f event slot svn) r.seq r.tag status body) := by
  have hframe := annal_frame (modFw s f) 0x0A00 1 {} event slot svn
  exact { fw := (respond_fw ..).trans (congrArg (fun t => t.cur.fw) hframe :)
          img := (respond_img ..).trans (congrArg State.img hframe :)
          kv := (respond_kv ..).trans (congrArg State.kv hframe :)
          clk := (respond_clk ..).trans (congrArg State.clk hframe :) }

theorem fwRecorded_event (s : State) (f : Firmware → Firmware) (event slot svn status : Nat) (body : Bytes) :
    recorded s (respond (fwRecorded s f event slot svn) r.seq r.tag status body) 0x0A00 1 event slot svn :=
  recorded_of_ann (annal_recorded (modFw s f) ..) (respond_ann ..)

/-- CUR.FW_STATUS still shows the firmware state after the answer. -/
theorem fwRecorded_fget (hok : s.regsOk) (f : Firmware → Firmware) (event slot svn status : Nat) (body : Bytes) :
    ∀ e ∈ fwFields { s with cur := { s.cur with fw := f s.cur.fw } },
      fget (respond (fwRecorded s f event slot svn) r.seq r.tag status body) e.1 = e.2 % 2 ^ e.1.w := by
  have happlies : ∀ g ∈ fwStatusRefs, Reg.CUR_MBX_STATUS.LAST_STATUS.Apart g ∧ Reg.CUR_MBX_STATUS.STATE.Apart g ∧ g.addr ∉ annalsRegs := by decide
  intro e he
  obtain ⟨hlast, hstate, hann⟩ := happlies e.1 (fwFields_refs { s with cur := { s.cur with fw := f s.cur.fw } } ▸ List.mem_map_of_mem he)
  exact (respond_fget (fwRecorded_regsOk hok ..) _ _ _ _ (fwFields_fit _ e he) hlast hstate).trans
    ((annal_fget (modFw_regsOk hok f) _ _ _ _ _ _ hann).trans (showFw_shows (s := { s with cur := { s.cur with fw := f s.cur.fw } }) hok e he))

/-! ### The slots -/

theorem fwSlotOf_putFwSlot (w : Firmware) {i : Nat} (x : Option FwSlot) : fwSlotOf (putFwSlot w i x) i = x := by
  unfold fwSlotOf putFwSlot
  split <;> rfl

theorem fwSlotOf_putFwSlot_ne (w : Firmware) {i j : Nat} (x : Option FwSlot) (h : i = 0 ∧ j ≠ 0 ∨ i ≠ 0 ∧ j = 0) : fwSlotOf (putFwSlot w i x) j = fwSlotOf w j := by
  obtain ⟨hi, hj⟩ | ⟨hi, hj⟩ := h <;> simp [fwSlotOf, putFwSlot, hi, hj]

/-- What a slot's change keeps of the firmware state. -/
theorem putFwSlot_kept (w : Firmware) (i : Nat) (x : Option FwSlot) :
    (putFwSlot w i x).running = w.running ∧ (putFwSlot w i x).trial = w.trial ∧ (putFwSlot w i x).recovery = w.recovery := by
  unfold putFwSlot
  split <;> exact ⟨rfl, rfl, rfl⟩

/-- The slot that does not run is not the one that runs. -/
theorem otherSlot_ne {n : Nat} (h : n ≤ 1) : 1 - n = 0 ∧ n ≠ 0 ∨ 1 - n ≠ 0 ∧ n = 0 := by omega

/-! ### FW_STAGE (R371) -/

theorem ite_lt_256 {p : Prop} [Decidable p] {a b : Option Nat} (ha : ∀ e, a = some e → e < 256) (hb : ∀ e, b = some e → e < 256) :
    ∀ e, (if p then a else b) = some e → e < 256 := by
  split <;> assumption

/-- The codes that a package's checks answer. -/
theorem fwFault_lt (s : State) (b : Bytes) : ∀ e, fwFault s b = some e → e < 256 := by
  have hformat : ∀ e, some mbFormat = some e → e < 256 := by simp [mbFormat]
  have hsignature : ∀ e, some mbSignature = some e → e < 256 := by simp [mbSignature]
  have hrollback : ∀ e, some mbRollback = some e → e < 256 := by simp [mbRollback]
  unfold fwFault
  dsimp only
  refine ite_lt_256 hformat ?_
  split
  · exact hsignature
  · exact ite_lt_256 hsignature (ite_lt_256 hrollback (ite_lt_256 hsignature (by simp)))

/-- A package that passes holds its header. -/
theorem length_of_fwFault {b : Bytes} (h : fwFault s b = none) : 128 ≤ b.length := by
  by_contra hshort
  have hlen : b.length ≠ 4096 + Config.fwField 2 (b.take 128) := by omega
  rw [fwFault] at h
  simp [hlen] at h

/-- The package that a fetch brought is the bytes that the request names. -/
theorem take_of_fwFault {b : Bytes} {n : Nat} (h : fwFault s (b.take n) = none) : (b.take n).take 128 = b.take 128 := by
  have hlen := length_of_fwFault h
  rw [List.length_take] at hlen
  rw [List.take_take, Nat.min_eq_left (by omega)]

/-- The slot that a package makes. -/
def stagedSlot (b : Bytes) : FwSlot := { svn := Config.fwField 1 (b.take 128), digest := Config.fwBytes 1 (b.take 128), confirmed := false }

theorem exec_fwStage_fault (h : requestIs s 0x05 = some r) {b : Bytes} {e : Nat} (hfault : fwFault s (b.take (rd r.body 8 4)) = some e) (ok : Bool) :
    exec (.fwStage (.data b) ok) s = .next (respond s r.seq r.tag e []) := by
  show execFwStage (.data b) ok s = _
  simp only [execFwStage, h, hfault]

theorem exec_fwStage_unfetched (h : requestIs s 0x05 = some r) {f : Fetch} (hf : ∀ b, f ≠ .data b) (ok : Bool) :
    exec (.fwStage f ok) s = .next (respond s r.seq r.tag mbFetch []) := by
  show execFwStage f ok s = _
  cases f with
  | data b => exact absurd rfl (hf b)
  | error => simp only [execFwStage, h]
  | poisoned => simp only [execFwStage, h]
  | lost => simp only [execFwStage, h]
  | timeout => simp only [execFwStage, h]

theorem exec_fwStage_nand (h : requestIs s 0x05 = some r) {b : Bytes} (hfault : fwFault s (b.take (rd r.body 8 4)) = none) :
    exec (.fwStage (.data b) false) s = .next (respond (modFw s fun w => putFwSlot w (1 - s.cur.fw.running) none) r.seq r.tag mbNand []) := by
  show execFwStage (.data b) false s = _
  simp only [execFwStage, h, hfault, Bool.not_false, if_true]

theorem exec_fwStage_passes (h : requestIs s 0x05 = some r) {b : Bytes} (hfault : fwFault s (b.take (rd r.body 8 4)) = none) :
    exec (.fwStage (.data b) true) s = .next (respond (fwRecorded s (fun w => putFwSlot w (1 - s.cur.fw.running) (some (stagedSlot b))) 1 (1 - s.cur.fw.running)
      (stagedSlot b).svn) r.seq r.tag mbOk (leBytes 1 (1 - s.cur.fw.running) ++ leBytes 2 (stagedSlot b).svn)) := by
  show execFwStage (.data b) true s = _
  simp only [execFwStage, h, hfault, Bool.not_true, Bool.false_eq_true, if_false]
  rfl

/-! ### FW_ACTIVATE, FW_REVERT, FW_RAISE_FLOOR (R371) -/

theorem selectOther_none (h : otherSvn s = none) (trial ok : Bool) : selectOther s r trial ok = respond s r.seq r.tag mbNoPending [] := by
  simp only [selectOther, h]

theorem selectOther_some {svn : Nat} (h : otherSvn s = some svn) (trial : Bool) : selectOther s r trial true =
    respond (fwRecorded s (fun w => { w with nextSlot := 1 - s.cur.fw.running, nextTrial := trial }) (if trial then 2 else 5) (1 - s.cur.fw.running) svn)
      r.seq r.tag mbOk [] := by
  simp only [selectOther, h, Bool.not_true, Bool.false_eq_true, if_false]
  rfl

theorem exec_fwActivate (h : requestIs s 0x06 = some r) (ok : Bool) : exec (.fwActivate ok) s = .next (selectOther s r true ok) := by
  show execFwActivate ok s = _
  simp only [execFwActivate, h]

theorem exec_fwRevert (h : requestIs s 0x07 = some r) (ok : Bool) : exec (.fwRevert ok) s = .next (selectOther s r false ok) := by
  show execFwRevert ok s = _
  simp only [execFwRevert, h]

theorem exec_fwRaiseFloor (h : requestIs s 0x08 = some r) {x : FwSlot} (hslot : fwSlotOf s.cur.fw s.cur.fw.running = some x) (hconf : x.confirmed = true) :
    exec (.fwRaiseFloor true) s = .next (respond (fwRecorded s (fun w => { w with floor := x.svn }) 6 s.cur.fw.running x.svn) r.seq r.tag mbOk (leBytes 2 x.svn)) := by
  show execFwRaiseFloor true s = _
  simp only [execFwRaiseFloor, h, hslot, Option.filter, hconf, if_true, Bool.not_true, Bool.false_eq_true, if_false]
  rfl

theorem exec_fwRaiseFloor_unconfirmed (h : requestIs s 0x08 = some r) {x : FwSlot} (hslot : fwSlotOf s.cur.fw s.cur.fw.running = some x)
    (hconf : x.confirmed = false) (ok : Bool) : exec (.fwRaiseFloor ok) s = .next (respond s r.seq r.tag mbNoPending []) := by
  show execFwRaiseFloor ok s = _
  simp only [execFwRaiseFloor, h, hslot, Option.filter, hconf, Bool.false_eq_true, if_false]

/-! ### The watchdog (R357) -/

/-- The restarts of the last ten minutes. -/
def recentRestarts (s : State) : List Nat := s.clk.watchdogs.filter fun t => decide (s.clk.tick < t + watchdogSpan)

/-- The module with one more restart counted among the recent ones. -/
def restartNoted (s : State) : State := { s with clk := { s.clk with watchdogs := s.clk.tick :: recentRestarts s } }

theorem exec_watchdogExpiry_third (hpow : unpowered s = false) (h : 2 ≤ (recentRestarts s).length) : exec .watchdogExpiry s = .next (deviceResetTo 7 s) := by
  rw [recentRestarts] at h
  show execWatchdogExpiry s = _
  simp only [execWatchdogExpiry, hpow, h, Bool.false_eq_true, if_false, if_true]

theorem exec_watchdogExpiry_early (hpow : unpowered s = false) (h : (recentRestarts s).length < 2) :
    exec .watchdogExpiry s = .next (restartCurator (restartNoted s)) := by
  rw [recentRestarts] at h
  show execWatchdogExpiry s = _
  simp only [execWatchdogExpiry, hpow, Nat.not_le.2 h, Bool.false_eq_true, if_false]
  rfl

/-- The request in hand answered RESTARTED. -/
def requestDropped (s : State) : State :=
  match s.cur.mbx.req with
  | some r => respond s r.seq r.tag mbRestarted []
  | none => s

/-- The image operation dropped. -/
def imageDropped (s : State) : State := showPending (fset { s with img := { s.img with op := none } } Reg.CUR_IMG_STATUS.STATE 0)

/-- The module as a restart leaves it, before its count and its record. -/
def restarted (s : State) : State := loseAnnals (cancelAccessions (imageDropped (requestDropped s)))

/-- The restart's record, with the program counter that the watchdog found. -/
def restartRecorded (s : State) : State := annal (freeDraw s).2 0x0002 3 {} s.cur.fw.running (freeDraw s).1 0

theorem restartCurator_eq (s : State) : restartCurator s = restartRecorded (fbump (restarted s) Reg.RST_CAUSE.CURATOR_RESTARTS 1) := by
  cases hreq : s.cur.mbx.req <;> simp only [restartCurator, restartRecorded, restarted, requestDropped, imageDropped, freeDraw, hreq]

/-- The mailbox's status and the count of restarts. -/
def restartRegs : List Nat := [Reg.CUR_MBX_STATUS.STATE.addr, Reg.RST_CAUSE.CURATOR_RESTARTS.addr]

/-- Between `s` and `t` the curator's own state, the clock and the passes stood, and so did the registers of `restartRegs`. -/
structure CuratorStands (s t : State) : Prop where
  regsOk : t.regsOk
  cur : t.cur = s.cur
  clk : t.clk = s.clk
  kv : t.kv = s.kv
  run : t.run = s.run
  reg : ∀ a ∈ restartRegs, rget t a = rget s a

section
variable {u : State}

theorem CuratorStands.trans (h : CuratorStands s t) (h' : CuratorStands t u) : CuratorStands s u where
  regsOk := h'.regsOk
  cur := h'.cur.trans h.cur
  clk := h'.clk.trans h.clk
  kv := h'.kv.trans h.kv
  run := h'.run.trans h.run
  reg a ha := (h'.reg a ha).trans (h.reg a ha)

theorem CuratorStands.setReg (h : CuratorStands s t) {a : Nat} (ha : a ∉ restartRegs) (v : W64) : CuratorStands s (rset t a v) :=
  h.trans ⟨regsOk_rset h.regsOk a v, rfl, rfl, rfl, rfl, fun _ hb => rget_rset_ne h.regsOk v fun he => ha (he ▸ hb)⟩

theorem CuratorStands.setField (h : CuratorStands s t) {f : FieldRef} (hf : f.addr ∉ restartRegs) (x : Nat) : CuratorStands s (fset t f x) := h.setReg hf _

end

theorem imageDropped_stands (hok : s.regsOk) : CuratorStands s (imageDropped s) ∧ (imageDropped s).img.op = none := by
  have hdrop : CuratorStands s { s with img := { s.img with op := none } } := ⟨hok, rfl, rfl, rfl, rfl, fun _ _ => rfl⟩
  have hstate := hdrop.setField (f := Reg.CUR_IMG_STATUS.STATE) (by decide) 0
  unfold imageDropped showPending
  split
  · exact ⟨(hstate.setField (by decide) 1).setReg (by decide) _, rfl⟩
  · exact ⟨hstate.setField (by decide) 0, rfl⟩

theorem AccessionsOnly.stands (h : AccessionsOnly s t) : CuratorStands s t ∧ t.img = s.img := by
  obtain ⟨hframe, hregsOk, hregs, -⟩ := h
  have hapart : ∀ a ∈ restartRegs, a ∉ annalsRegs := by decide
  exact ⟨⟨hregsOk, (congrArg State.cur hframe :), (congrArg State.clk hframe :), (congrArg State.kv hframe :), (congrArg State.run hframe :),
    fun a ha => hregs a List.not_mem_nil (hapart a ha)⟩, (congrArg State.img hframe :)⟩

theorem loseAnnals_stands (hok : s.regsOk) : CuratorStands s (loseAnnals s) :=
  (⟨hok, rfl, rfl, rfl, rfl, fun _ _ => rfl⟩ : CuratorStands s { s with ann := { s.ann with
    ring := s.ann.ring.filter fun r => decide (r.seq ≤ durableSeq s), lastSeq := durableSeq s + 8191 } }).setField (f := Reg.ANN_LAST_SEQ.SEQ) (by decide) _

theorem loseAnnals_lastSeq (s : State) : (loseAnnals s).ann.lastSeq = durableSeq s + 8191 := rfl

theorem loseAnnals_img (s : State) : (loseAnnals s).img = s.img := rfl

/-- A restart's losses leave the curator's own state, the clock and the passes; the next SEQ follows the rule of a boot. -/
theorem restarted_stands (hok : (requestDropped s).regsOk) : CuratorStands (requestDropped s) (restarted s) ∧ (restarted s).img.op = none ∧
    (restarted s).ann.lastSeq = durableSeq (requestDropped s) + 8191 := by
  obtain ⟨hdrop, hop⟩ := imageDropped_stands hok
  obtain ⟨hcancel, himg⟩ := (cancelAccessions_only hdrop.regsOk).stands
  have hboth := hdrop.trans hcancel
  refine ⟨hboth.trans (loseAnnals_stands hboth.regsOk), ?_, ?_⟩
  · rw [restarted, loseAnnals_img, himg, hop]
  · rw [restarted, loseAnnals_lastSeq, durableSeq, hboth.cur, durableSeq]

theorem requestDropped_regsOk (hok : s.regsOk) : (requestDropped s).regsOk := by
  unfold requestDropped
  split
  · exact respond_regsOk hok ..
  · exact hok

/-- The request in hand is answered, and the module's work stands. -/
theorem requestDropped_shows (hok : s.regsOk) : (∀ r, s.cur.mbx.req = some r → answered (requestDropped s) r mbRestarted []) ∧
    (requestDropped s).cur.durable = s.cur.durable ∧ (requestDropped s).clk = s.clk ∧ (requestDropped s).kv = s.kv ∧ (requestDropped s).run = s.run ∧
    fget (requestDropped s) Reg.RST_CAUSE.CURATOR_RESTARTS = fget s Reg.RST_CAUSE.CURATOR_RESTARTS := by
  unfold requestDropped
  cases hreq : s.cur.mbx.req with
  | none => exact ⟨by simp, rfl, rfl, rfl, rfl, rfl⟩
  | some r =>
    refine ⟨fun q hq => ?_, ?_, respond_clk .., respond_kv .., respond_run .., respond_fget hok _ _ _ _ (by decide) (by decide) (by decide)⟩
    · exact Option.some.inj hq ▸ respond_answered hok r (by decide) []
    · rw [respond_cur]

theorem fget_of_rget (f : FieldRef) (h : rget t f.addr = rget s f.addr) : fget t f = fget s f := by
  rw [fget, h, fget]

/-- An answer stands while the curator's own state and the mailbox's status do. -/
theorem answered_of_stands {status : Nat} {body : Bytes} (h : answered s r status body) (hcur : t.cur = s.cur)
    (hreg : rget t Reg.CUR_MBX_STATUS.STATE.addr = rget s Reg.CUR_MBX_STATUS.STATE.addr) : answered t r status body := by
  obtain ⟨hresponse, hreq, hlast, hstate⟩ := h
  exact ⟨hcur ▸ hresponse, hcur ▸ hreq, (fget_of_rget Reg.CUR_MBX_STATUS.LAST_STATUS hreg).trans hlast, (fget_of_rget Reg.CUR_MBX_STATUS.STATE hreg).trans hstate⟩

theorem restartRecorded_frame (s : State) : restartRecorded s = (freeDraw s).2.withRegs (restartRecorded s) := annal_frame ..

/-- An ERROR is always recorded. -/
theorem restartRecorded_lastSeq (s : State) : (restartRecorded s).ann.lastSeq = s.ann.lastSeq + 1 := by
  have h := annal_recorded (freeDraw s).2 0x0002 3 {} s.cur.fw.running (freeDraw s).1 0
  rw [recorded, if_neg fun hheld => absurd hheld.1 (by decide)] at h
  exact h.1

theorem restartRecorded_rget (hok : s.regsOk) {a : Nat} (ha : a ∉ annalsRegs) : rget (restartRecorded s) a = rget s a :=
  annal_rget (s := (freeDraw s).2) hok _ _ _ _ _ _ ha

/-- A restart counted and recorded leaves the rest. -/
theorem restartCounted_shows (hok : s.regsOk) (ht : t = restartRecorded (fbump s Reg.RST_CAUSE.CURATOR_RESTARTS 1)) : t.clk = s.clk ∧ t.cur = s.cur ∧
    t.kv = s.kv ∧ t.run = s.run ∧ t.img = s.img ∧ t.ann.lastSeq = s.ann.lastSeq + 1 ∧ counted s t Reg.RST_CAUSE.CURATOR_RESTARTS 1 ∧
    rget t Reg.CUR_MBX_STATUS.STATE.addr = rget s Reg.CUR_MBX_STATUS.STATE.addr := by
  subst ht
  have hframe := restartRecorded_frame (fbump s Reg.RST_CAUSE.CURATOR_RESTARTS 1)
  have hbump := regsOk_fbump hok Reg.RST_CAUSE.CURATOR_RESTARTS 1
  exact ⟨(congrArg State.clk hframe :), (congrArg State.cur hframe :), (congrArg State.kv hframe :), (congrArg State.run hframe :), (congrArg State.img hframe :),
    restartRecorded_lastSeq _, (fget_of_rget _ (restartRecorded_rget hbump (by decide))).trans (fbump_counted hok _ 1 (by decide)),
    (restartRecorded_rget hbump (by decide)).trans (rget_fbump_ne hok 1 (by decide))⟩

/-- A curator restart drops the request, the image operation and what was not durable, counts itself, and keeps the module's work. -/
theorem restartCurator_shows (hok : s.regsOk) : (restartCurator s).clk = s.clk ∧ (restartCurator s).img.op = none ∧
    (restartCurator s).ann.lastSeq = durableSeq s + 8192 ∧ counted s (restartCurator s) Reg.RST_CAUSE.CURATOR_RESTARTS 1 ∧ (restartCurator s).kv = s.kv ∧
    (restartCurator s).run = s.run ∧ ∀ r, s.cur.mbx.req = some r → answered (restartCurator s) r mbRestarted [] := by
  obtain ⟨hanswer, hdurable, hclk, hkv, hrun, hcount⟩ := requestDropped_shows hok
  obtain ⟨hstands, hop, hseq⟩ := restarted_stands (requestDropped_regsOk hok)
  obtain ⟨hclk', hcur', hkv', hrun', himg', hseq', hcount', hreg'⟩ := restartCounted_shows hstands.regsOk (restartCurator_eq s)
  refine ⟨hclk'.trans (hstands.clk.trans hclk), ?_, ?_, ?_, hkv'.trans (hstands.kv.trans hkv), hrun'.trans (hstands.run.trans hrun), fun r hr => ?_⟩
  · rw [himg', hop]
  · rw [hseq', hseq, durableSeq, hdurable, durableSeq]
  · rw [counted, fget_of_rget Reg.RST_CAUSE.CURATOR_RESTARTS (hstands.reg _ (.tail _ (.head _))), hcount] at hcount'
    exact hcount'
  · exact answered_of_stands (hanswer r hr) (hcur'.trans hstands.cur) (hreg'.trans (hstands.reg _ (.head _)))

/-- The other slot selected for the next boot: answered OK, recorded, and nothing else of the firmware state moved. -/
theorem selected_shows (hok : s.regsOk) {c : Instr} {trial : Bool} {svn : Nat}
    (hexec : exec c s = .next (respond (fwRecorded s (fun w => { w with nextSlot := 1 - s.cur.fw.running, nextTrial := trial }) (if trial then 2 else 5)
      (1 - s.cur.fw.running) svn) r.seq r.tag mbOk [])) :
    ∃ t, exec c s = .next t ∧ (t.cur.fw.running = s.cur.fw.running ∧ t.cur.fw.trial = s.cur.fw.trial ∧ t.cur.fw.recovery = s.cur.fw.recovery ∧ t.img = s.img ∧
      t.kv = s.kv ∧ t.clk = s.clk) ∧ answered t r mbOk [] ∧ t.cur.fw = { s.cur.fw with nextSlot := 1 - s.cur.fw.running, nextTrial := trial } ∧
      recorded s t 0x0A00 1 (if trial then 2 else 5) (1 - s.cur.fw.running) svn := by
  obtain ⟨hfw, himg, hkv, hclk⟩ := fwRecorded_respond (r := r) s (fun w => { w with nextSlot := 1 - s.cur.fw.running, nextTrial := trial }) (if trial then 2 else 5)
    (1 - s.cur.fw.running) svn mbOk []
  exact ⟨_, hexec, ⟨(congrArg Firmware.running hfw :), (congrArg Firmware.trial hfw :), (congrArg Firmware.recovery hfw :), himg, hkv, hclk⟩,
    respond_answered (fwRecorded_regsOk hok ..) r (by decide) [], hfw, fwRecorded_event ..⟩

/-- Settles O47: each firmware request answers and changes the slots as its table says, and the watchdog resets or restarts. -/
theorem firmwareAndWatchdog : Obligations.FirmwareAndWatchdog := by
  unfold Obligations.FirmwareAndWatchdog
  intro s hok
  refine ⟨fun r f ok h => ⟨fun b hf hfault hrun => ⟨fun hnand => ?_, fun hnand => ?_⟩, fun b e hf hfault => ?_, fun hf => ?_⟩, fun r h => ⟨fun hother ok => ?_, fun svn hother => ?_⟩,
    fun r h => ⟨fun hother ok => ?_, fun svn hother => ?_⟩, fun r x h hslot => ⟨fun hconf => ?_, fun hconf ok => ?_⟩, fun hpow => ⟨fun hthird => ?_, fun hearly => ?_⟩⟩
  · subst hf hnand
    rw [take_of_fwFault hfault]
    obtain ⟨hfw, himg, hkv, hclk⟩ := fwRecorded_respond (r := r) s (fun w => putFwSlot w (1 - s.cur.fw.running) (some (stagedSlot b))) 1 (1 - s.cur.fw.running)
      (stagedSlot b).svn mbOk (leBytes 1 (1 - s.cur.fw.running) ++ leBytes 2 (stagedSlot b).svn)
    obtain ⟨hrunning, htrial, hrecovery⟩ := putFwSlot_kept s.cur.fw (1 - s.cur.fw.running) (some (stagedSlot b))
    refine ⟨_, exec_fwStage_passes h hfault, ⟨?_, ?_, ?_, himg, hkv, hclk⟩, ?_, ?_, respond_answered (fwRecorded_regsOk hok ..) r (by decide) _,
      fwRecorded_event .., ?_⟩
    · rw [hfw, hrunning]
    · rw [hfw, htrial]
    · rw [hfw, hrecovery]
    · rw [hfw, fwSlotOf_putFwSlot]
      rfl
    · rw [hfw, fwSlotOf_putFwSlot_ne _ _ (otherSlot_ne hrun)]
    · refine (fwRecorded_fget hok _ _ _ _ _ _ _ (.tail _ (.tail _ (.head _)))).trans ?_
      dsimp only
      rw [hrunning, fwSlotOf_putFwSlot]
      rfl
  · subst hf hnand
    obtain ⟨hfw, himg, hkv, hclk⟩ := modFw_respond (r := r) s (fun w => putFwSlot w (1 - s.cur.fw.running) none) mbNand []
    obtain ⟨hrunning, htrial, hrecovery⟩ := putFwSlot_kept s.cur.fw (1 - s.cur.fw.running) none
    refine ⟨_, exec_fwStage_nand h hfault, ⟨?_, ?_, ?_, himg, hkv, hclk⟩, respond_answered (modFw_regsOk hok _) r (by decide) [], ?_, ?_⟩
    · rw [hfw, hrunning]
    · rw [hfw, htrial]
    · rw [hfw, hrecovery]
    · rw [hfw, fwSlotOf_putFwSlot]
    · rw [hfw, fwSlotOf_putFwSlot_ne _ _ (otherSlot_ne hrun)]
  · subst hf
    exact ⟨_, exec_fwStage_fault h hfault ok, respond_answered hok r (fwFault_lt s _ e hfault) [], respond_fw .., respond_ann ..⟩
  · exact ⟨_, exec_fwStage_unfetched h hf ok, respond_answered hok r (by decide) [], respond_fw .., respond_ann ..⟩
  · exact ⟨_, (exec_fwActivate h ok).trans (congrArg _ (selectOther_none hother true ok)), respond_answered hok r (by decide) [], respond_fw ..⟩
  · exact selected_shows hok ((exec_fwActivate h true).trans (congrArg _ (selectOther_some hother true)))
  · exact ⟨_, (exec_fwRevert h ok).trans (congrArg _ (selectOther_none hother false ok)), respond_answered hok r (by decide) [], respond_fw ..⟩
  · exact selected_shows hok ((exec_fwRevert h true).trans (congrArg _ (selectOther_some hother false)))
  · obtain ⟨hfw, himg, hkv, hclk⟩ := fwRecorded_respond (r := r) s (fun w => { w with floor := x.svn }) 6 s.cur.fw.running x.svn mbOk (leBytes 2 x.svn)
    exact ⟨_, exec_fwRaiseFloor h hslot hconf, ⟨(congrArg Firmware.running hfw :), (congrArg Firmware.trial hfw :), (congrArg Firmware.recovery hfw :), himg, hkv, hclk⟩, hfw,
      respond_answered (fwRecorded_regsOk hok ..) r (by decide) _, fwRecorded_event ..,
      fwRecorded_fget hok _ _ _ _ _ _ (Reg.CUR_FW_STATUS.FLOOR, _) (.tail _ (.tail _ (.tail _ (.tail _ (.tail _ (.tail _ (.head _)))))))⟩
  · exact ⟨_, exec_fwRaiseFloor_unconfirmed h hslot hconf ok, respond_answered hok r (by decide) [], respond_fw ..⟩
  · exact ⟨_, exec_watchdogExpiry_third hpow hthird, rfl, rfl, rfl, rfl⟩
  · obtain ⟨hclk, hop, hseq, hcount, hkv, hrun, hanswer⟩ := restartCurator_shows (s := restartNoted s) hok
    exact ⟨_, exec_watchdogExpiry_early hpow hearly, congrArg Clock.watchdogs hclk, hop, hseq, hcount, hkv, hrun, hanswer⟩

end Sys2Proof.Machine
end
end

section
/-!
PROOFS. A device reset keeps the vigilance baselines (R406): what `lostAll` says of the passes' state does not hold of a module that has recorded one.
-/
section
open Sys2Proof Sys2Proof.Machine
namespace Sys2Proof.Machine

/-- A module that is on and has recorded the norm of one chain of region 0. -/
def baselined : State := { Tests.on with run := { Tests.on.run with vig := [(0, { freshVigilance with recorded := [(0, 1)] })] } }

theorem baselined_regsOk : baselined.regsOk ∧ baselined.carrelsOk ∧ unpowered baselined = false := by
  simp only [State.regsOk, State.carrelsOk]
  decide +kernel

theorem exec_sidebandReset {s : State} (hpow : unpowered s = false) : exec (.sidebandReset 0xD5) s = .next (deviceResetTo 4 s) := by
  show execSidebandReset 0xD5 s = _
  simp only [execSidebandReset, hpow, Bool.false_eq_true, if_false, if_true]

/-- The baseline stands after the reset. -/
theorem deviceReset_baselined : (deviceResetTo 4 baselined).run.vig = [(0, { freshVigilance with recorded := [(0, 1)] })] := by decide +kernel

/-- Refutes O8: the reset of a module that has recorded a norm keeps the recorded norms, so its passes' state is not that of a module as new. -/
theorem not_resetsLoseAndKeep : ¬ Obligations.ResetsLoseAndKeep := by
  unfold Obligations.ResetsLoseAndKeep
  rintro ⟨hresets, -⟩
  obtain ⟨hok, hcarrels, hpow⟩ := baselined_regsOk
  obtain ⟨-, hsideband, -⟩ := hresets baselined hok hcarrels
  obtain ⟨t, hexec, -, -, -, hrun, -⟩ := hsideband hpow
  have ht : t = deviceResetTo 4 baselined := by
    injection hexec.symm.trans (exec_sidebandReset hpow)
  have hvig := congrArg Passes.vig hrun
  rw [ht, deviceReset_baselined] at hvig
  exact List.cons_ne_nil _ _ hvig

end Sys2Proof.Machine
end
end

section
/-!
PROOFS. Messages of the orbit (R301, R313): a message at the front of a port is taken and gives its operation the sender and the body; OPEN at a module full of sessions.
-/
section
open Sys2Proof Sys2Proof.Machine
namespace Sys2Proof.Machine

variable {s t : State} {n typ src : Nat} {b : Bytes}

/-! ### Messages (R301) -/

/-- A message whose operation is of no account is taken. -/
theorem onMsg_any (h : msgFront s n typ src b) (f : State → Nat → Bytes → State) : onMsg s n typ none f = .next (f (popFlit s n 0) src b) := by
  obtain ⟨x, hx, htyp, hsrc, hbody⟩ := h
  simp only [onMsg, hx, htyp, hsrc, hbody, decide_true, Bool.and_self, if_true]

/-- A message of an operation is taken. -/
theorem onMsg_op (h : msgFront s n typ src b) {op : Nat} (hop : rd b 0 1 = op) (f : State → Nat → Bytes → State) :
    onMsg s n typ (some op) f = .next (f (popFlit s n 0) src b) := by
  obtain ⟨x, hx, htyp, hsrc, hbody⟩ := h
  simp only [onMsg, hx, htyp, hsrc, hbody, hop, decide_true, beq_self_eq_true, Bool.and_self, if_true]

/-- Taking a flit changes its port alone. -/
theorem popFlit_eq (s : State) (n vc : Nat) : popFlit s n vc = { s with tsx := (popFlit s n vc).tsx } := by
  unfold popFlit
  split <;> rfl

theorem popFlit_regs (s : State) (n vc : Nat) : (popFlit s n vc).regs = s.regs := (congrArg State.regs (popFlit_eq s n vc) :)

theorem popFlit_img (s : State) (n vc : Nat) : (popFlit s n vc).img = s.img := (congrArg State.img (popFlit_eq s n vc) :)

theorem popFlit_kv (s : State) (n vc : Nat) : (popFlit s n vc).kv = s.kv := (congrArg State.kv (popFlit_eq s n vc) :)

theorem popFlit_fget (s : State) (n vc : Nat) (f : FieldRef) : fget (popFlit s n vc) f = fget s f := fget_of_regs (popFlit_regs s n vc) f

theorem popFlit_orbState (s : State) (n vc : Nat) : orbState (popFlit s n vc) = orbState s := popFlit_fget s n vc _

theorem popFlit_meshRole (s : State) (n vc m : Nat) : meshRole (popFlit s n vc) m = meshRole s m := by
  unfold meshRole
  rw [popFlit_img]

/-! ### OPEN at a full module (R15) -/

/-- A moon that holds 65,536 sessions opens no other. -/
theorem exec_dispatchMsg_full (h : msgFront s n 1 src b) (hop : rd b 0 1 = 4) (hmoon : orbState s = 2) (hsrc : src = fget s Reg.ORB_STATUS.PRIMARY)
    (hmesh : (meshRole s n).isSome = true) (hkind : rd b 2 1 = 3) (hfull : 65536 ≤ s.kv.sessions.length) (toks : List Nat) :
    exec (.dispatchMsg n toks) s = .next (popFlit s n 0) := by
  have hmine : (decide (orbState (popFlit s n 0) = 2) && decide (src = fget (popFlit s n 0) Reg.ORB_STATUS.PRIMARY) &&
      (meshRole (popFlit s n 0) n).isSome) = true := by
    rw [popFlit_orbState, popFlit_fget, popFlit_meshRole, hmesh]
    simp [hmoon, hsrc]
  have hkeeps : takeDispatch (popFlit s n 0) toks b = popFlit s n 0 := by
    rw [← popFlit_kv s n 0] at hfull
    simp only [takeDispatch, hkind, hfull, decide_true, Bool.or_true, if_true]
  show execDispatchMsg n toks s = _
  refine (onMsg_op h hop _).trans (congrArg Host.Outcome.next ?_)
  exact (if_pos hmine).trans hkeeps

/-- A moon whose primary sends OPEN for session 1,024, and which holds 65,536 others. -/
def crowded : State :=
  { Tests.member 2 1 (Tests.dispatchBody 3 [1024]) with
    kv := { (Tests.member 2 1 (Tests.dispatchBody 3 [1024])).kv with sessions := List.replicate 65536 (newSession 0 []) } }

theorem crowded_front : msgFront crowded 0 1 1 (Tests.dispatchBody 3 [1024]) :=
  ⟨{ typ := 2, seq := 4, vc := 0, payload := Tests.msgBytes 1 1 (Tests.dispatchBody 3 [1024]) },
    (by decide +kernel : frontFlit (Tests.member 2 1 (Tests.dispatchBody 3 [1024])) 0 0 = _), by decide +kernel, by decide +kernel, by decide +kernel⟩

theorem crowded_portsOk : crowded.portsOk := by
  have h : (Tests.member 2 1 (Tests.dispatchBody 3 [1024])).portsOk := by
    unfold State.portsOk
    decide +kernel
  exact h

theorem crowded_moon : orbState crowded = 2 ∧ 1 = fget crowded Reg.ORB_STATUS.PRIMARY ∧ (meshRole crowded 0).isSome = true :=
  (by decide +kernel : orbState (Tests.member 2 1 (Tests.dispatchBody 3 [1024])) = 2 ∧ 1 = fget (Tests.member 2 1 (Tests.dispatchBody 3 [1024])) Reg.ORB_STATUS.PRIMARY ∧
    (meshRole (Tests.member 2 1 (Tests.dispatchBody 3 [1024])) 0).isSome = true)

theorem crowded_sessions : crowded.kv.sessions.length = 65536 := List.length_replicate ..

theorem crowded_unopened : findSession crowded 1024 = none := by
  refine List.find?_eq_none.2 fun x hx => ?_
  rw [(List.mem_replicate.1 hx).2]
  decide

/-- Refutes O42: a moon that holds 65,536 sessions takes OPEN for another one and makes none. -/
theorem not_sharesAreDispatched : ¬ Obligations.SharesAreDispatched := by
  unfold Obligations.SharesAreDispatched
  intro h
  obtain ⟨hmoon, hsrc, hmesh⟩ := crowded_moon
  obtain ⟨hdispatch, -⟩ := h 0 1 (Tests.dispatchBody 3 [1024]) crowded crowded_portsOk crowded_front
  obtain ⟨-, hopen, -⟩ := hdispatch [] (by decide +kernel) hmoon hsrc hmesh
  obtain ⟨t, hexec, -, hsessions⟩ := hopen (by decide +kernel) crowded_unopened
  have ht : t = popFlit crowded 0 0 := by
    injection hexec.symm.trans (exec_dispatchMsg_full crowded_front (by decide +kernel) hmoon hsrc hmesh (by decide +kernel) crowded_sessions.ge [])
  have hlength := congrArg List.length hsessions
  rw [ht, popFlit_kv, List.length_append, List.length_singleton] at hlength
  omega

end Sys2Proof.Machine
end
end

section
/-!
PROOFS. What sending over the links changes (R294, R301, R307): the ports, the wire, the injection counts and free draws; no flit that a port holds or that waits is lost.
-/
section
open Sys2Proof Sys2Proof.Machine
namespace Sys2Proof.Machine

variable {s t u : State} {n : Nat}

/-! ### A port keeps its flits -/

/-- A port keeps its admission, and every flit that it holds or that waits stays with its type and payload. -/
def Port.Keeps (p q : Port) : Prop :=
  q.admitted = p.admitted ∧ ∀ f ∈ p.held ++ p.waiting, ∃ g ∈ q.held ++ q.waiting, g.typ = f.typ ∧ g.payload = f.payload

theorem Port.Keeps.refl (p : Port) : p.Keeps p := ⟨rfl, fun f hf => ⟨f, hf, rfl, rfl⟩⟩

theorem Port.Keeps.trans {p q r : Port} (h : p.Keeps q) (h' : q.Keeps r) : p.Keeps r := by
  refine ⟨h'.1.trans h.1, fun f hf => ?_⟩
  obtain ⟨g, hg, htyp, hpayload⟩ := h.2 f hf
  obtain ⟨g', hg', htyp', hpayload'⟩ := h'.2 g hg
  exact ⟨g', hg', htyp'.trans htyp, hpayload'.trans hpayload⟩

/-- A flit that goes out for the first time is held from then on. -/
theorem Port.keeps_held (p : Port) (f : Flit) (seq nextSeq : Nat) (sent : List Nat) :
    p.Keeps { p with waiting := p.waiting.erase f, nextSeq := nextSeq, held := p.held ++ [{ f with seq := seq }], sent := sent } := by
  refine ⟨rfl, fun x hx => ?_⟩
  by_cases hxf : x = f
  · exact ⟨{ f with seq := seq }, by simp, by rw [hxf], by rw [hxf]⟩
  · refine ⟨x, ?_, rfl, rfl⟩
    simp only [List.mem_append, List.mem_singleton] at hx ⊢
    exact hx.elim (fun h => .inl (.inl h)) fun h => .inr ((List.mem_erase_of_ne hxf).2 h)

theorem Port.keeps_waiting (p : Port) (f : Flit) : p.Keeps { p with waiting := p.waiting ++ [f] } :=
  ⟨rfl, fun x hx => ⟨x, by simp only [List.mem_append] at hx ⊢; tauto, rfl, rfl⟩⟩

/-! ### Sending over one port -/

/-- Between `s` and `t` port `n` at most sent: registers change in its injection count alone, and the port keeps its flits. -/
structure Sending (n : Nat) (s t : State) : Prop where
  frame : t = s.withLinks t
  regs : s.regsOk → t.regsOk ∧ ∀ a, a ≠ (Reg.TSX_INJ_COUNT.INJECTED n).addr → rget t a = rget s a
  ports : s.portsOk → t.portsOk ∧ portsFrom s t n ∧ (portAt s n).Keeps (portAt t n)

theorem State.withLinks_trans (h : t = s.withLinks t) (h' : u = t.withLinks u) : u = s.withLinks u := by
  rw [h', h]
  rfl

theorem Sending.refl (s : State) : Sending n s s := ⟨rfl, fun h => ⟨h, fun _ _ => rfl⟩, fun h => ⟨h, fun _ _ => rfl, .refl _⟩⟩

theorem Sending.trans (h : Sending n s t) (h' : Sending n t u) : Sending n s u := by
  refine ⟨State.withLinks_trans h.frame h'.frame, fun hok => ?_, fun hok => ?_⟩
  · obtain ⟨ht, hreg⟩ := h.regs hok
    obtain ⟨hu, hreg'⟩ := h'.regs ht
    exact ⟨hu, fun a ha => (hreg' a ha).trans (hreg a ha)⟩
  · obtain ⟨ht, hothers, hkeeps⟩ := h.ports hok
    obtain ⟨hu, hothers', hkeeps'⟩ := h'.ports ht
    exact ⟨hu, fun m hm => (hothers' m hm).trans (hothers m hm), hkeeps.trans hkeeps'⟩

theorem Sending.foldl {α : Type} {f : State → α → State} (hf : ∀ u x, Sending n u (f u x)) (l : List α) (s : State) : Sending n s (l.foldl f s) := by
  induction l generalizing s with
  | nil => exact .refl s
  | cons x xs ih => exact (hf s x).trans (ih _)

theorem sending_modPort (s : State) (n : Nat) {f : Port → Port} (hf : ∀ p : Port, p.Keeps (f p)) : Sending n s (modPort s n f) :=
  ⟨rfl, fun h => ⟨h, fun _ _ => rfl⟩, fun h => ⟨portsOk_modPort h n f, fun _ hm => portAt_modPort_ne h f hm, by rw [portAt_modPort h]; exact hf _⟩⟩

/-- A change of what neither holds flits nor admits them. -/
theorem sending_unqueued (s : State) (n : Nat) {f : Port → Port} (hadm : ∀ p, (f p).admitted = p.admitted) (hheld : ∀ p, (f p).held = p.held)
    (hwait : ∀ p, (f p).waiting = p.waiting) : Sending n s (modPort s n f) :=
  sending_modPort s n fun p => ⟨hadm p, fun g hg => ⟨g, by rw [hheld, hwait]; exact hg, rfl, rfl⟩⟩

theorem sending_wire (s : State) (free : Nat) (flits : List (Nat × Bytes)) : Sending n s { s with free := free, out := { s.out with flits := flits } } :=
  ⟨rfl, fun h => ⟨h, fun _ _ => rfl⟩, fun h => ⟨h, fun _ _ => rfl, .refl _⟩⟩

theorem sending_injected (s : State) : Sending n s (fbump s (Reg.TSX_INJ_COUNT.INJECTED n) 1) :=
  ⟨rfl, fun h => ⟨regsOk_fbump h .., fun _ ha => rget_fbump_ne h 1 ha⟩, fun h => ⟨h, fun _ _ => rfl, .refl _⟩⟩

theorem putFlit_sending (s : State) (n typ : Nat) (nack : Bool) (seq vc : Nat) (payload : Bytes) (spoil : Bool) :
    Sending n s (putFlit s n typ nack seq vc payload spoil) := by
  cases spoil
  · exact (sending_wire s s.free _).trans (sending_unqueued _ n (fun _ => rfl) (fun _ => rfl) fun _ => rfl)
  · exact (sending_wire s (s.free + 1) _).trans (sending_unqueued _ n (fun _ => rfl) (fun _ => rfl) fun _ => rfl)

theorem injChoose_sending (s : State) (n : Nat) : Sending n s (injChoose s n).2 := by
  unfold injChoose
  dsimp only
  split <;> exact sending_unqueued s n (fun _ => rfl) (fun _ => rfl) fun _ => rfl

theorem transmit_sending (s : State) (n : Nat) (f : Flit) : Sending n s (transmit s n f) := putFlit_sending ..

theorem firstTransmit_sending (s : State) (n : Nat) (f : Flit) : Sending n s (firstTransmit s n f) := by
  have hchoose := injChoose_sending s n
  unfold firstTransmit
  dsimp only
  split
  · exact transmit_sending ..
  · split
    · refine .trans ?_ (.foldl (f := fun s g => transmit s n g) (fun _ _ => transmit_sending ..) _ _)
      exact (hchoose.trans (transmit_sending ..)).trans (sending_unqueued _ n (fun _ => rfl) (fun _ => rfl) fun _ => rfl)
    · have hcount := hchoose.trans (sending_injected _)
      split
      · exact hcount.trans (putFlit_sending ..)
      · exact hcount.trans (putFlit_sending ..)
      · exact hcount.trans (putFlit_sending ..)
      · exact hcount.trans (sending_unqueued _ n (fun _ => rfl) (fun _ => rfl) fun _ => rfl)

theorem pump_sending (n fuel : Nat) (s : State) : Sending n s (pump n fuel s) := by
  induction fuel generalizing s with
  | zero => exact .refl s
  | succ fuel ih =>
    rw [pump]
    dsimp only
    split
    · exact .refl s
    · next f _ => exact ((sending_modPort s n fun p => p.keeps_held f _ _ _).trans (firstTransmit_sending ..)).trans (ih _)

/-- A flit handed to a port is held there or waits. -/
theorem sendFlit_sending (s : State) (n : Nat) (f : Flit) : Sending n s (sendFlit s n f) :=
  (sending_modPort s n fun p => p.keeps_waiting f).trans (pump_sending ..)

theorem sendFlit_queued (hp : s.portsOk) (n : Nat) (f : Flit) :
    ∃ g ∈ (portAt (sendFlit s n f) n).held ++ (portAt (sendFlit s n f) n).waiting, g.typ = f.typ ∧ g.payload = f.payload := by
  obtain ⟨-, -, hkeeps⟩ := (pump_sending n _ (modPort s n fun p => { p with waiting := p.waiting ++ [f] })).ports (portsOk_modPort hp n _)
  refine hkeeps.2 f ?_
  rw [portAt_modPort hp]
  simp

/-! ### Messages (R301) -/

/-- A message's header: 16 bytes in front of its body. -/
def msgHeader (s : State) (n typ len : Nat) : Bytes :=
  leBytes 1 typ ++ [0] ++ leBytes 1 s.img.bound.orbit.member ++ leBytes 1 s.img.bound.orbit.stage ++ leBytes 4 (portAt s n).msgSeq ++ leBytes 2 len ++ List.replicate 6 0

theorem sendMsg_inactive (h : portActive s n = false) (typ : Nat) (body : Bytes) : sendMsg s n typ body = s := if_neg (by rw [h]; decide)

theorem sendMsg_active (h : portActive s n = true) (typ : Nat) (body : Bytes) : sendMsg s n typ body =
    sendFlit (modPort s n fun p => { p with msgSeq := (p.msgSeq + 1) % 2 ^ 32 }) n { typ := 2, seq := 0, vc := 0, payload := msgHeader s n typ body.length ++ body } :=
  if_pos h

theorem sendMsg_sending (s : State) (n typ : Nat) (body : Bytes) : Sending n s (sendMsg s n typ body) := by
  cases h : portActive s n
  · rw [sendMsg_inactive h]
    exact .refl s
  · rw [sendMsg_active h]
    refine .trans ?_ (sendFlit_sending _ n _)
    exact sending_unqueued s n (fun _ => rfl) (fun _ => rfl) fun _ => rfl

theorem msgHeader_reads (s : State) (n typ : Nat) {body : Bytes} (hlen : body.length < 2 ^ 16) :
    rd (msgHeader s n typ body.length ++ body) 0 1 = typ % 256 ∧
      slice (msgHeader s n typ body.length ++ body) 16 (rd (msgHeader s n typ body.length ++ body) 8 2) = body := by
  have hfront : (leBytes 1 typ ++ [0] ++ leBytes 1 s.img.bound.orbit.member ++ leBytes 1 s.img.bound.orbit.stage ++ leBytes 4 (portAt s n).msgSeq).length = 8 := by
    simp only [List.length_append, length_leBytes, List.length_cons, List.length_nil]
  have hheader : (msgHeader s n typ body.length).length = 16 := by
    simp only [msgHeader, List.length_append, length_leBytes, List.length_cons, List.length_nil, List.length_replicate]
  have hsize : rd (msgHeader s n typ body.length ++ body) 8 2 = body.length := by
    rw [msgHeader, List.append_assoc, List.append_assoc, rd_append_past hfront _ 0 2, rd_leBytes_append]
    exact Nat.mod_eq_of_lt hlen
  refine ⟨?_, ?_⟩
  · simp only [msgHeader, List.append_assoc]
    exact rd_leBytes_append ..
  · rw [hsize, slice, ← hheader, List.drop_left, List.take_length]

/-- A message to an ACTIVE port is on its way. -/
theorem sendMsg_sends (hp : s.portsOk) (h : portActive s n = true) {typ : Nat} (htyp : typ < 256) {body : Bytes} (hlen : body.length < 2 ^ 16) :
    sends (sendMsg s n typ body) n typ body := by
  rw [sendMsg_active h]
  obtain ⟨g, hg, hgtyp, hpayload⟩ := sendFlit_queued (portsOk_modPort hp n fun p => { p with msgSeq := (p.msgSeq + 1) % 2 ^ 32 }) n
    { typ := 2, seq := 0, vc := 0, payload := msgHeader s n typ body.length ++ body }
  obtain ⟨hread, hbody⟩ := msgHeader_reads s n typ hlen
  refine ⟨g, hg, hgtyp, ?_, ?_⟩
  · rw [hpayload, hread, Nat.mod_eq_of_lt htyp]
  · rw [hpayload]
    exact hbody

theorem Port.Keeps.sends {typ : Nat} {body : Bytes} (hkeeps : (portAt s n).Keeps (portAt t n)) (h : sends s n typ body) : Machine.sends t n typ body := by
  obtain ⟨f, hf, htyp, hread, hbody⟩ := h
  obtain ⟨g, hg, hgtyp, hpayload⟩ := hkeeps.2 f hf
  exact ⟨g, hg, hgtyp.trans htyp, hpayload ▸ hread, hpayload ▸ hbody⟩

/-! ### Sending over several ports -/

/-- Between `s` and `t` ports at most sent. -/
structure LinksSend (s t : State) : Prop where
  frame : t = s.withLinks t
  regs : s.regsOk → t.regsOk ∧ ∀ a, (∀ m, a ≠ (Reg.TSX_INJ_COUNT.INJECTED m).addr) → rget t a = rget s a
  ports : s.portsOk → t.portsOk ∧ ∀ m, (portAt s m).Keeps (portAt t m)

theorem LinksSend.refl (s : State) : LinksSend s s := ⟨rfl, fun h => ⟨h, fun _ _ => rfl⟩, fun h => ⟨h, fun _ => .refl _⟩⟩

theorem LinksSend.trans (h : LinksSend s t) (h' : LinksSend t u) : LinksSend s u := by
  refine ⟨State.withLinks_trans h.frame h'.frame, fun hok => ?_, fun hok => ?_⟩
  · obtain ⟨ht, hreg⟩ := h.regs hok
    obtain ⟨hu, hreg'⟩ := h'.regs ht
    exact ⟨hu, fun a ha => (hreg' a ha).trans (hreg a ha)⟩
  · obtain ⟨ht, hkeeps⟩ := h.ports hok
    obtain ⟨hu, hkeeps'⟩ := h'.ports ht
    exact ⟨hu, fun m => (hkeeps m).trans (hkeeps' m)⟩

theorem LinksSend.ite {c : Prop} [Decidable c] (h : LinksSend s t) (h' : LinksSend s u) : LinksSend s (if c then t else u) := by
  split
  · exact h
  · exact h'

theorem Sending.links (h : Sending n s t) : LinksSend s t := by
  refine ⟨h.frame, fun hok => ?_, fun hok => ?_⟩
  · obtain ⟨ht, hreg⟩ := h.regs hok
    exact ⟨ht, fun a ha => hreg a (ha n)⟩
  · obtain ⟨ht, hothers, hkeeps⟩ := h.ports hok
    refine ⟨ht, fun m => ?_⟩
    by_cases hm : m = n
    · exact hm ▸ hkeeps
    · rw [hothers m hm]
      exact .refl _

theorem LinksSend.foldl {α : Type} {f : State → α → State} (hf : ∀ u x, LinksSend u (f u x)) (l : List α) (s : State) : LinksSend s (l.foldl f s) := by
  induction l generalizing s with
  | nil => exact .refl s
  | cons x xs ih => exact (hf s x).trans (ih _)

/-- Registers outside the ports' windows are none of the links'. -/
theorem LinksSend.low (h : LinksSend s t) (hok : s.regsOk) {a : Nat} (ha : a < 0x300000) : rget t a = rget s a := by
  refine (h.regs hok).2 a fun m => ?_
  simp only [Reg.TSX_INJ_COUNT.INJECTED, portBase]
  omega

theorem LinksSend.low_fget (h : LinksSend s t) (hok : s.regsOk) {f : FieldRef} (hf : f.addr < 0x300000) : fget t f = fget s f := fget_of_rget f (h.low hok hf)

/-- Sending moves no port's STATE. -/
theorem LinksSend.portActive (h : LinksSend s t) (hok : s.regsOk) (m : Nat) : portActive t m = portActive s m := by
  rw [Machine.portActive, Machine.portActive, fget_of_rget (s := s) (t := t)]
  refine (h.regs hok).2 _ fun k => ?_
  simp only [Reg.TSX_INJ_COUNT.INJECTED, Reg.TSX_STATUS.STATE, portBase]
  omega

theorem sendMsg_links (s : State) (n typ : Nat) (body : Bytes) : LinksSend s (sendMsg s n typ body) := (sendMsg_sending ..).links

theorem sendTxn_links (s : State) (n kind poison tag addr : Nat) (data : Bytes) (origin elems : Nat) :
    LinksSend s (sendTxn s n kind poison tag addr data origin elems) := by
  unfold sendTxn
  dsimp only
  refine .ite (.refl s) (.ite ?_ (sendFlit_sending ..).links)
  refine .trans ?_ (sendMsg_links _ n 4 _)
  exact (sendFlit_sending ..).links.trans (Sending.links (sending_unqueued _ n (fun _ => rfl) (fun _ => rfl) fun _ => rfl))

end Sys2Proof.Machine
end
end

section
/-!
PROOFS. The orbit's status (R312, R322, R325): what the changes of its masks, its heir and its links leave alone, the sessions that die, and ISOLATED.
-/
section
open Sys2Proof Sys2Proof.Machine
namespace Sys2Proof.Machine

variable {s t u : State} {n m : Nat} {fs : List FieldRef}

/-! ### Changes of the status -/

/-- Between `s` and `t` the orbit's status changed in the fields of `fs` at most, beside annals records and sending; the module's work stood, and no
admitted link was given up. -/
structure OrbitStep (fs : List FieldRef) (s t : State) : Prop where
  run : t.run = s.run
  itk : t.itk = s.itk
  img : t.img = s.img
  kv : t.kv = s.kv
  orb : t.orb = { s.orb with heirNamed := t.orb.heirNamed, offline := t.orb.offline }
  regs : s.regsOk → t.regsOk ∧ ∀ g : FieldRef, g.lo + g.w ≤ 64 → g.addr < 0x300000 → (∀ f ∈ fs ++ annalsFields, f.Apart g) → fget t g = fget s g
  ports : s.portsOk → t.portsOk ∧ ∀ m, (portAt s m).admitted = true → (portAt t m).admitted = true

theorem OrbitStep.refl (s : State) : OrbitStep fs s s :=
  ⟨rfl, rfl, rfl, rfl, rfl, fun h => ⟨h, fun _ _ _ _ => rfl⟩, fun h => ⟨h, fun _ h => h⟩⟩

theorem OrbitStep.trans (h : OrbitStep fs s t) (h' : OrbitStep fs t u) : OrbitStep fs s u where
  run := h'.run.trans h.run
  itk := h'.itk.trans h.itk
  img := h'.img.trans h.img
  kv := h'.kv.trans h.kv
  orb := by rw [h'.orb, h.orb]
  regs hok := by
    obtain ⟨ht, hfield⟩ := h.regs hok
    obtain ⟨hu, hfield'⟩ := h'.regs ht
    exact ⟨hu, fun g hg hlow ha => (hfield' g hg hlow ha).trans (hfield g hg hlow ha)⟩
  ports hok := by
    obtain ⟨ht, hadm⟩ := h.ports hok
    obtain ⟨hu, hadm'⟩ := h'.ports ht
    exact ⟨hu, fun m hm => hadm' m (hadm m hm)⟩

theorem OrbitStep.ite {c : Prop} [Decidable c] (h : OrbitStep fs s t) (h' : OrbitStep fs s u) : OrbitStep fs s (if c then t else u) := by
  split
  · exact h
  · exact h'

theorem OrbitStep.foldl {α : Type} {f : State → α → State} (hf : ∀ u x, OrbitStep fs u (f u x)) (l : List α) (s : State) : OrbitStep fs s (l.foldl f s) := by
  induction l generalizing s with
  | nil => exact .refl s
  | cons x xs ih => exact (hf s x).trans (ih _)

theorem OrbitStep.regsOk (h : OrbitStep fs s t) (hok : s.regsOk) : t.regsOk := (h.regs hok).1

/-- A field of a register below the ports' windows that no changed field meets keeps its value. -/
theorem OrbitStep.fget (h : OrbitStep fs s t) (hok : s.regsOk) {g : FieldRef} (hg : g.lo + g.w ≤ 64 ∧ g.addr < 0x300000 ∧ ∀ f ∈ fs ++ annalsFields, f.Apart g) :
    Machine.fget t g = Machine.fget s g := (h.regs hok).2 g hg.1 hg.2.1 hg.2.2

theorem LinksSend.step (h : LinksSend s t) : OrbitStep fs s t where
  run := (congrArg State.run h.frame :)
  itk := (congrArg State.itk h.frame :)
  img := (congrArg State.img h.frame :)
  kv := (congrArg State.kv h.frame :)
  orb := by
    have horb : t.orb = s.orb := (congrArg State.orb h.frame :)
    rw [horb]
  regs hok := ⟨(h.regs hok).1, fun _ _ hlow _ => h.low_fget hok hlow⟩
  ports hok := by
    obtain ⟨ht, hkeeps⟩ := h.ports hok
    exact ⟨ht, fun m hm => (hkeeps m).1.trans hm⟩

theorem fset_step (s : State) {f : FieldRef} (hf : f ∈ fs) (x : Nat) : OrbitStep fs s (fset s f x) :=
  ⟨rfl, rfl, rfl, rfl, rfl, fun h => ⟨regsOk_fset h f x, fun g hg _ ha => fget_fset_other h f g x hg (ha f (List.mem_append_left _ hf))⟩, fun h => ⟨h, fun _ h => h⟩⟩

theorem fbump_step (s : State) {f : FieldRef} (hf : f ∈ fs) (k : Nat) : OrbitStep fs s (fbump s f k) :=
  ⟨rfl, rfl, rfl, rfl, rfl, fun h => ⟨regsOk_fbump h f k, fun g hg _ ha => fget_fbump_other h f g k hg (ha f (List.mem_append_left _ hf))⟩, fun h => ⟨h, fun _ h => h⟩⟩

theorem annal_step (s : State) (kind sev : Nat) (obj : Obj) (a0 a1 a2 : Nat) : OrbitStep fs s (annal s kind sev obj a0 a1 a2) := by
  have hframe := annal_frame s kind sev obj a0 a1 a2
  have horb : (annal s kind sev obj a0 a1 a2).orb = s.orb := (congrArg State.orb hframe :)
  have htsx : (annal s kind sev obj a0 a1 a2).tsx = s.tsx := (congrArg State.tsx hframe :)
  refine ⟨(congrArg State.run hframe :), (congrArg State.itk hframe :), (congrArg State.img hframe :), (congrArg State.kv hframe :), by rw [horb],
    fun h => ⟨annal_regsOk h .., fun g hg _ ha => ?_⟩, fun h => ⟨?_, fun m hm => ?_⟩⟩
  · exact ((RecordsOnly.refl h).annal ..).field g hg fun f hf => ha f (List.mem_append_right _ hf)
  · rw [State.portsOk, htsx]
    exact h
  · rw [portAt, htsx]
    exact hm

theorem refreshOnline_step (s : State) : OrbitStep fs s (refreshOnline s) :=
  ⟨rfl, rfl, rfl, rfl, rfl, fun h => ⟨h, fun _ _ _ _ => rfl⟩, fun h => ⟨h, fun _ h => h⟩⟩

theorem named_step (s : State) (h : Option Nat) : OrbitStep fs s { s with orb := { s.orb with heirNamed := h } } :=
  ⟨rfl, rfl, rfl, rfl, rfl, fun h => ⟨h, fun _ _ _ _ => rfl⟩, fun h => ⟨h, fun _ h => h⟩⟩

/-- The fields that show the heir. -/
def heirFields : List FieldRef := [Reg.ORB_STATUS.HEIR, Reg.ORB_STATUS.HEIR_VALID]

/-- The fields that a change of the admitted members writes. -/
def maskFields : List FieldRef := Reg.ORB_STATUS.ADMITTED_MASK :: heirFields

theorem setHeir_step (hfs : heirFields ⊆ fs) (s : State) (h : Option Nat) : OrbitStep fs s (setHeir s h) := by
  have hheir : Reg.ORB_STATUS.HEIR ∈ fs := hfs (by simp [heirFields])
  have hvalid : Reg.ORB_STATUS.HEIR_VALID ∈ fs := hfs (by simp [heirFields])
  cases h with
  | none => exact (named_step s none).trans (fset_step _ hvalid 0)
  | some x => exact ((named_step s (some x)).trans (fset_step _ hheir x)).trans (fset_step _ hvalid _)

theorem setAdmitted_step (hfs : maskFields ⊆ fs) (s : State) (k : Nat) : OrbitStep fs s (setAdmitted s k) :=
  ((fset_step s (hfs (List.mem_cons_self ..)) k).trans (setHeir_step (fun _ h => hfs (List.mem_cons_of_mem _ h)) _ _)).trans (refreshOnline_step _)

/-- The masks read what was written to them. -/
theorem admittedMask_setAdmitted (hok : s.regsOk) (k : Nat) : admittedMask (setAdmitted s k) = k % 2 ^ 16 := by
  have hset := regsOk_fset hok Reg.ORB_STATUS.ADMITTED_MASK k
  have hstep : OrbitStep heirFields (fset s Reg.ORB_STATUS.ADMITTED_MASK k) (setAdmitted s k) :=
    (setHeir_step (fun _ h => h) _ _).trans (refreshOnline_step _)
  exact (hstep.fget hset (g := Reg.ORB_STATUS.ADMITTED_MASK) (by decide)).trans (fget_fset_same hok _ _ (by decide))

/-! ### Links admitted -/

/-- A port whose link carries transactions from now on. -/
theorem modPort_admitted_step (s : State) (n : Nat) : OrbitStep fs s (modPort s n fun p => { p with admitted := true, refused := 0 }) := by
  refine ⟨rfl, rfl, rfl, rfl, rfl, fun h => ⟨h, fun _ _ _ _ => rfl⟩, fun h => ⟨portsOk_modPort h n _, fun m hm => ?_⟩⟩
  by_cases hmn : m = n
  · rw [hmn, portAt_modPort h]
  · rw [portAt_modPort_ne h _ hmn]
    exact hm

/-- The module with a link admitted and its partner live, before its waiting flits go out. -/
def linkAdmitted (s : State) (n : Nat) : State :=
  match meshRole s n, portMember s n with
  | some _, some m => fset (modPort s n fun p => { p with admitted := true, refused := 0 }) Reg.ORB_STATUS.LIVE_MASK (liveMask s ||| 2 ^ m)
  | _, _ => modPort s n fun p => { p with admitted := true, refused := 0 }

theorem admitPort_eq (s : State) (n : Nat) : admitPort s n = pump n (portAt (linkAdmitted s n) n).waiting.length (linkAdmitted s n) := by
  unfold admitPort linkAdmitted
  cases meshRole s n <;> cases portMember s n <;> rfl

theorem linkAdmitted_step (hfs : Reg.ORB_STATUS.LIVE_MASK ∈ fs) (s : State) (n : Nat) : OrbitStep fs s (linkAdmitted s n) := by
  unfold linkAdmitted
  split
  · exact (modPort_admitted_step s n).trans (fset_step _ hfs _)
  · exact modPort_admitted_step s n

theorem linkAdmitted_admitted (hp : s.portsOk) (n : Nat) : (portAt (linkAdmitted s n) n).admitted = true := by
  have hmod : (portAt (modPort s n fun p => { p with admitted := true, refused := 0 }) n).admitted = true := by rw [portAt_modPort hp]
  unfold linkAdmitted
  split <;> exact hmod

theorem admitPort_step (hfs : Reg.ORB_STATUS.LIVE_MASK ∈ fs) (s : State) (n : Nat) : OrbitStep fs s (admitPort s n) := by
  rw [admitPort_eq]
  exact (linkAdmitted_step hfs s n).trans (pump_sending ..).links.step

theorem admitPort_admitted (hp : s.portsOk) (n : Nat) : (portAt (admitPort s n) n).admitted = true := by
  obtain ⟨hok, -⟩ := (linkAdmitted_step (fs := [Reg.ORB_STATUS.LIVE_MASK]) (List.mem_cons_self ..) s n).ports hp
  rw [admitPort_eq, ((pump_sending ..).ports hok).2.2.1]
  exact linkAdmitted_admitted hp n

/-- Over the mesh the partner is live from then on. -/
theorem liveMask_admitPort (hok : s.regsOk) (hmesh : (meshRole s n).isSome = true) (hm : portMember s n = some m) :
    liveMask (admitPort s n) = (liveMask s ||| 2 ^ m) % 2 ^ 16 := by
  obtain ⟨k, hk⟩ := Option.isSome_iff_exists.1 hmesh
  have hlinked : linkAdmitted s n = fset (modPort s n fun p => { p with admitted := true, refused := 0 }) Reg.ORB_STATUS.LIVE_MASK (liveMask s ||| 2 ^ m) := by
    simp only [linkAdmitted, hk, hm]
  have hmod : (modPort s n fun p => { p with admitted := true, refused := 0 }).regsOk := hok
  rw [admitPort_eq, liveMask, (pump_sending ..).links.low_fget (((linkAdmitted_step (fs := [Reg.ORB_STATUS.LIVE_MASK]) (List.mem_cons_self ..) s n)).regsOk hok) (by decide),
    hlinked, fget_fset_same hmod _ _ (by decide)]
  rfl

theorem admitMoons_step (hfs : Reg.ORB_STATUS.LIVE_MASK ∈ fs) (s : State) : OrbitStep fs s (admitMoons s) := by
  refine .foldl (fun u k => ?_) _ s
  split
  · exact .ite (admitPort_step hfs u k) (.refl u)
  · exact .refl u

theorem seekAdmission_step (hfs : Reg.ORB_STATUS.LIVE_MASK ∈ fs) (s : State) (n : Nat) : OrbitStep fs s (seekAdmission s n) := by
  refine .ite (.refl s) (.ite ?_ (.refl s))
  exact .ite (admitMoons_step hfs s) ((admitMoons_step hfs s).trans (sendMsg_links ..).step)

theorem sendAdmit_step (s : State) (n : Nat) : OrbitStep fs s (sendAdmit s n) := (sendMsg_links ..).step

theorem compareHeir_step (hfs : Reg.ORB_STATUS.HEIR_MISMATCH ∈ fs) (s : State) (h n : Nat) : OrbitStep fs s (compareHeir s h n) :=
  .ite ((fset_step s hfs _).trans (annal_step ..)) (fset_step s hfs _)

/-! ### Sessions that die (Table 14-4) -/

/-- The sessions that stand, killed one after the other. -/
def killAll (s : State) (xs : List Session) : State := xs.foldl (fun s x => killSession s x.handle stPeerLost) s

theorem killAll_frame (s : State) (xs : List Session) : killAll s xs = { s with kv := { s.kv with sessions := (killAll s xs).kv.sessions } } := by
  induction xs generalizing s with
  | nil => rfl
  | cons x xs ih => exact (ih (killSession s x.handle stPeerLost)).trans rfl

/-- What a session is once it is killed. -/
def Session.killed (status : Nat) (x : Session) : Session :=
  match x.dead with
  | some _ => x
  | none => { x with dead := some (if status = stTimeout then stPoisoned else status) }

theorem killed_handle (status : Nat) (x : Session) : (x.killed status).handle = x.handle := by
  unfold Session.killed
  split <;> rfl

theorem killed_dead (status : Nat) (x : Session) : (x.killed status).dead.isSome = true := by
  unfold Session.killed
  split
  · next hd => rw [hd]; rfl
  · rfl

theorem killSession_eq (s : State) (h status : Nat) : killSession s h status = modSession s h (Session.killed status) := rfl

/-- A session with handle `k` stands dead. -/
def deadHere (s : State) (k : Nat) : Prop := ∃ y, findSession s k = some y ∧ y.dead.isSome = true

theorem deadHere_of_kv {k : Nat} (h : deadHere s k) (hkv : t.kv = s.kv) : deadHere t k := by
  obtain ⟨y, hy, hdead⟩ := h
  exact ⟨y, by rw [findSession, hkv]; exact hy, hdead⟩

theorem deadHere_killSession_same {k status : Nat} {y : Session} (hy : findSession s k = some y) : deadHere (killSession s k status) k :=
  ⟨_, findSession_modSession_found hy (Session.killed status) (killed_handle status), killed_dead status y⟩

/-- What is dead stays so. -/
theorem deadHere_killSession {k : Nat} (h : deadHere s k) (g status : Nat) : deadHere (killSession s g status) k := by
  obtain ⟨y, hy, hdead⟩ := h
  by_cases hk : k = g
  · subst hk
    exact deadHere_killSession_same hy
  · exact ⟨y, (findSession_modSession_ne (Session.killed status) (killed_handle status) hk).trans hy, hdead⟩

theorem deadHere_killAll {k : Nat} (h : deadHere s k) (xs : List Session) : deadHere (killAll s xs) k := by
  induction xs generalizing s with
  | nil => exact h
  | cons x xs ih => exact ih (deadHere_killSession h ..)

/-- A session keeps being found while others are killed. -/
theorem findSession_killSession_isSome {k : Nat} (h : (findSession s k).isSome = true) (g status : Nat) : (findSession (killSession s g status) k).isSome = true := by
  obtain ⟨y, hy⟩ := Option.isSome_iff_exists.1 h
  by_cases hk : k = g
  · subst hk
    rw [killSession_eq, findSession_modSession_found hy _ (killed_handle status)]
    rfl
  · rw [killSession_eq, findSession_modSession_ne _ (killed_handle status) hk]
    exact h

theorem deadHere_killAll_mem {xs : List Session} {x : Session} (hx : x ∈ xs) (h : (findSession s x.handle).isSome = true) : deadHere (killAll s xs) x.handle := by
  induction xs generalizing s with
  | nil => simp at hx
  | cons y ys ih =>
    obtain rfl | hy := List.mem_cons.1 hx
    · obtain ⟨z, hz⟩ := Option.isSome_iff_exists.1 h
      exact deadHere_killAll (deadHere_killSession_same hz) ys
    · exact ih hy (findSession_killSession_isSome h ..)

theorem findSession_isSome_of_mem {x : Session} (hx : x ∈ s.kv.sessions) : (findSession s x.handle).isSome = true :=
  List.find?_isSome.2 ⟨x, hx, beq_self_eq_true _⟩

theorem orbitDeaths_frame (s : State) (p : Nat → Bool) : orbitDeaths s p = { s with kv := { s.kv with sessions := (orbitDeaths s p).kv.sessions } } := killAll_frame ..

theorem orbitDeaths_deadIn (s : State) (p : Nat → Bool) : deadIn s (orbitDeaths s p) fun r => p r = true := by
  intro x hx horb hp
  exact deadHere_killAll_mem (List.mem_filter.2 ⟨hx, by rw [horb, hp]; rfl⟩) (findSession_isSome_of_mem hx)

theorem deadIn_of_eq {p : Nat → Prop} (h : deadIn t u p) (himg : t.img = s.img) (hkv : t.kv = s.kv) : deadIn s u p := by
  intro x hx horb hp
  refine h x (hkv ▸ hx) ?_ hp
  rw [orbitRegion, himg]
  exact horb

/-- What is dead stays so through a change that keeps or kills sessions. -/
theorem deadIn_mono {p : Nat → Prop} (h : deadIn s t p) (hstay : ∀ k, deadHere t k → deadHere u k) : deadIn s u p := fun x hx horb hp => hstay _ (h x hx horb hp)

/-! ### ISOLATED (R322) -/

/-- The module with no link admitted. -/
def unlinked (s : State) : State := (List.range 24).foldl (fun s n => modPort s n fun p => { p with admitted := false }) s

theorem unlinked_foldl_frame (l : List Nat) (s : State) : l.foldl (fun s n => modPort s n fun p => { p with admitted := false }) s =
    { s with tsx := (l.foldl (fun s n => modPort s n fun p => { p with admitted := false }) s).tsx } := by
  induction l generalizing s with
  | nil => rfl
  | cons n l ih => exact (ih (modPort s n fun p => { p with admitted := false })).trans rfl

theorem unlinked_frame (s : State) : unlinked s = { s with tsx := (unlinked s).tsx } := unlinked_foldl_frame ..

theorem unlinked_foldl_admitted (l : List Nat) (hp : s.portsOk) (h : n ∈ l ∨ (portAt s n).admitted = false) :
    (portAt (l.foldl (fun s n => modPort s n fun p => { p with admitted := false }) s) n).admitted = false := by
  induction l generalizing s with
  | nil => exact h.resolve_left List.not_mem_nil
  | cons k l ih =>
    refine ih (portsOk_modPort hp k _) ?_
    by_cases hk : n = k
    · right
      rw [hk, portAt_modPort hp]
    · rw [portAt_modPort_ne hp _ hk]
      exact h.imp_left fun hmem => (List.mem_cons.1 hmem).resolve_left hk

theorem unlinked_admitted (hp : s.portsOk) (hn : n < 24) : (portAt (unlinked s) n).admitted = false :=
  unlinked_foldl_admitted _ hp (.inl (List.mem_range.2 hn))

theorem portAt_of_tsx (h : t.tsx = s.tsx) (n : Nat) : portAt t n = portAt s n := by
  rw [portAt, h, portAt]

theorem unlinked_regs (s : State) : (unlinked s).regs = s.regs := (congrArg State.regs (unlinked_frame s) :)

theorem unlinked_img (s : State) : (unlinked s).img = s.img := (congrArg State.img (unlinked_frame s) :)

theorem unlinked_kv (s : State) : (unlinked s).kv = s.kv := (congrArg State.kv (unlinked_frame s) :)

theorem unlinked_itk (s : State) : (unlinked s).itk = s.itk := (congrArg State.itk (unlinked_frame s) :)

theorem unlinked_run (s : State) : (unlinked s).run = s.run := (congrArg State.run (unlinked_frame s) :)

theorem unlinked_orb (s : State) : (unlinked s).orb = s.orb := (congrArg State.orb (unlinked_frame s) :)

/-- Nothing of the orbit's power or takeover is pending. -/
def OrbitSt.alone (o : OrbitSt) : OrbitSt :=
  { o with confirming := false, waitingTakeover := false, leaving := false, limit := none, paced := [], limited := [] }

/-- ISOLATED, and alone live with the bit `b`, with nothing of the orbit's power or takeover pending. -/
def standingAlone (s : State) (b : Nat) : State := { fset (setOrbState s 4) Reg.ORB_STATUS.LIVE_MASK b with orb := s.orb.alone }

/-- The masks of a module on its own. -/
def maskedAlone (s : State) (b : Nat) : State := setAdmitted (setHeir (standingAlone s b) none) b

theorem isolate_eq (s : State) : isolate s = orbitDeaths (maskedAlone (unlinked s) (selfBit s)) fun _ => true := rfl

theorem standingAlone_shows (hok : s.regsOk) {b : Nat} (hb : b < 2 ^ 16) :
    (standingAlone s b).regsOk ∧ orbState (standingAlone s b) = 4 ∧ liveMask (standingAlone s b) = b := by
  have hstate := regsOk_fset hok Reg.ORB_STATUS.STATE 4
  refine ⟨regsOk_fset hstate .., ?_, ?_⟩
  · exact (fget_fset_other hstate Reg.ORB_STATUS.LIVE_MASK Reg.ORB_STATUS.STATE b (by decide) (by decide)).trans (fget_fset_same hok _ _ (by decide))
  · exact (fget_fset_same hstate Reg.ORB_STATUS.LIVE_MASK b (by decide)).trans (Nat.mod_eq_of_lt hb)

theorem maskedAlone_step (s : State) (b : Nat) : OrbitStep maskFields (standingAlone s b) (maskedAlone s b) :=
  (setHeir_step (by simp [maskFields]) _ _).trans (setAdmitted_step (fun _ h => h) _ _)

/-- The masks of a module on its own and its state. -/
theorem maskedAlone_shows (hok : s.regsOk) {b : Nat} (hb : b < 2 ^ 16) : orbState (maskedAlone s b) = 4 ∧ admittedMask (maskedAlone s b) = b ∧
    liveMask (maskedAlone s b) = b := by
  obtain ⟨halone, hstate, hlive⟩ := standingAlone_shows hok hb
  have hstep := maskedAlone_step s b
  have hheir := (setHeir_step (fs := heirFields) (fun _ h => h) (standingAlone s b) none).regsOk halone
  refine ⟨?_, ?_, ?_⟩
  · exact (hstep.fget halone (g := Reg.ORB_STATUS.STATE) (by decide)).trans hstate
  · exact (admittedMask_setAdmitted hheir b).trans (Nat.mod_eq_of_lt hb)
  · exact (hstep.fget halone (g := Reg.ORB_STATUS.LIVE_MASK) (by decide)).trans hlive

theorem setHeir_tsx (s : State) (h : Option Nat) : (setHeir s h).tsx = s.tsx := by cases h <;> rfl

theorem setAdmitted_tsx (s : State) (k : Nat) : (setAdmitted s k).tsx = s.tsx := setHeir_tsx ..

theorem maskedAlone_tsx (s : State) (b : Nat) : (maskedAlone s b).tsx = s.tsx := by
  rw [maskedAlone, setAdmitted_tsx, setHeir_tsx]
  rfl

/-- What the masks of a module on its own leave. -/
structure AloneFrom (s t : State) : Prop where
  img : t.img = s.img
  kv : t.kv = s.kv
  itk : t.itk = s.itk
  run : t.run = s.run
  orb : t.orb = { s.orb.alone with heirNamed := t.orb.heirNamed, offline := t.orb.offline }

theorem maskedAlone_from (s : State) (b : Nat) : AloneFrom s (maskedAlone s b) :=
  have hstep := maskedAlone_step s b
  ⟨hstep.img, hstep.kv, hstep.itk, hstep.run, hstep.orb⟩

theorem maskedAlone_unlinked (s : State) (b : Nat) : AloneFrom s (maskedAlone (unlinked s) b) := by
  obtain ⟨himg, hkv, hitk, hrun, horb⟩ := maskedAlone_from (unlinked s) b
  rw [unlinked_orb] at horb
  exact ⟨himg.trans (unlinked_img s), hkv.trans (unlinked_kv s), hitk.trans (unlinked_itk s), hrun.trans (unlinked_run s), horb⟩

theorem orbitDeaths_img (s : State) (p : Nat → Bool) : (orbitDeaths s p).img = s.img := (congrArg State.img (orbitDeaths_frame s p) :)

theorem orbitDeaths_itk (s : State) (p : Nat → Bool) : (orbitDeaths s p).itk = s.itk := (congrArg State.itk (orbitDeaths_frame s p) :)

theorem orbitDeaths_run (s : State) (p : Nat → Bool) : (orbitDeaths s p).run = s.run := (congrArg State.run (orbitDeaths_frame s p) :)

theorem orbitDeaths_orb (s : State) (p : Nat → Bool) : (orbitDeaths s p).orb = s.orb := (congrArg State.orb (orbitDeaths_frame s p) :)

theorem orbitDeaths_regs (s : State) (p : Nat → Bool) : (orbitDeaths s p).regs = s.regs := (congrArg State.regs (orbitDeaths_frame s p) :)

theorem orbitDeaths_tsx (s : State) (p : Nat → Bool) : (orbitDeaths s p).tsx = s.tsx := (congrArg State.tsx (orbitDeaths_frame s p) :)

theorem orbitDeaths_fget (s : State) (p : Nat → Bool) (f : FieldRef) : fget (orbitDeaths s p) f = fget s f := fget_of_regs (orbitDeaths_regs s p) f

theorem isolate_img (s : State) : (isolate s).img = s.img := (orbitDeaths_img ..).trans (maskedAlone_unlinked ..).img

theorem isolate_itk (s : State) : (isolate s).itk = s.itk := (orbitDeaths_itk ..).trans (maskedAlone_unlinked ..).itk

theorem isolate_run (s : State) : (isolate s).run = s.run := (orbitDeaths_run ..).trans (maskedAlone_unlinked ..).run

theorem isolate_orb (s : State) : ∃ h off, (isolate s).orb = { s.orb.alone with heirNamed := h, offline := off } :=
  ⟨_, _, (orbitDeaths_orb ..).trans (maskedAlone_unlinked s (selfBit s)).orb⟩

/-- An isolated module is alone. -/
theorem isolate_aloneIn (hok : s.regsOk) (hp : s.portsOk) (hself : self s < 16) : aloneIn s (isolate s) := by
  have hbit : selfBit s < 2 ^ 16 := Nat.pow_lt_pow_right (by decide) hself
  have hunlinked : (unlinked s).regsOk := by
    rw [State.regsOk, unlinked_regs]
    exact hok
  obtain ⟨hstate, hadm, hlive⟩ := maskedAlone_shows hunlinked hbit
  have hfrom := maskedAlone_unlinked s (selfBit s)
  obtain ⟨h, off, horb⟩ := isolate_orb s
  have hdead := deadIn_of_eq (orbitDeaths_deadIn (maskedAlone (unlinked s) (selfBit s)) fun _ => true) hfrom.img hfrom.kv
  rw [← isolate_eq] at hdead
  refine ⟨(orbitDeaths_fget ..).trans hstate, (orbitDeaths_fget ..).trans hadm, (orbitDeaths_fget ..).trans hlive, fun n hn => ?_, ?_, ?_, ?_,
    isolate_img s, fun x hx hregion => ?_⟩
  · rw [isolate_eq, portAt_of_tsx ((orbitDeaths_tsx ..).trans (maskedAlone_tsx ..)), unlinked_admitted hp hn]
  · rw [horb]
    rfl
  · rw [horb]
    rfl
  · rw [horb]
    rfl
  · exact hdead x hx hregion rfl

theorem aloneIn_of_eq (h : aloneIn t u) (himg : t.img = s.img) (hkv : t.kv = s.kv) : aloneIn s u := by
  obtain ⟨hstate, hadm, hlive, hports, hlimit, hwait, hconf, himg', hdead⟩ := h
  have hbit : selfBit t = selfBit s := by rw [selfBit, self, himg]; rfl
  refine ⟨hstate, hadm.trans hbit, hlive.trans hbit, hports, hlimit, hwait, hconf, himg'.trans himg, fun x hx horb => ?_⟩
  refine hdead x (hkv ▸ hx) ?_
  rw [orbitRegion, himg]
  exact horb

end Sys2Proof.Machine
end
end

section
/-!
PROOFS. Admission to an orbit (R312, R322, R325): JOIN, ADMIT and REFUSE, and what the host's JOIN and LEAVE do.
-/
section
open Sys2Proof Sys2Proof.Machine
namespace Sys2Proof.Machine

variable {s t u : State} {n src : Nat} {b : Bytes}

/-! ### A message taken -/

theorem popFlit_portMember (s : State) (n vc m : Nat) : portMember (popFlit s n vc) m = portMember s m := by
  unfold portMember
  rw [popFlit_meshRole, popFlit_img]

theorem popFlit_joinRefusal (s : State) (n vc m : Nat) (b : Bytes) : joinRefusal (popFlit s n vc) m b = joinRefusal s m b := by
  unfold joinRefusal
  rw [popFlit_meshRole, popFlit_portMember, popFlit_orbState, popFlit_fget, popFlit_img]

theorem popFlit_selfBit (s : State) (n vc : Nat) : selfBit (popFlit s n vc) = selfBit s := by
  rw [selfBit, self, popFlit_img]
  rfl

theorem popFlit_orb (s : State) (n vc : Nat) : (popFlit s n vc).orb = s.orb := (congrArg State.orb (popFlit_eq s n vc) :)

theorem popFlit_ann (s : State) (n vc : Nat) : (popFlit s n vc).ann = s.ann := (congrArg State.ann (popFlit_eq s n vc) :)

theorem popFlit_clk (s : State) (n vc : Nat) : (popFlit s n vc).clk = s.clk := (congrArg State.clk (popFlit_eq s n vc) :)

theorem popFlit_run (s : State) (n vc : Nat) : (popFlit s n vc).run = s.run := (congrArg State.run (popFlit_eq s n vc) :)

theorem popFlit_itk (s : State) (n vc : Nat) : (popFlit s n vc).itk = s.itk := (congrArg State.itk (popFlit_eq s n vc) :)

theorem popFlit_regsOk (hok : s.regsOk) (n vc : Nat) : (popFlit s n vc).regsOk := by
  rw [State.regsOk, popFlit_regs]
  exact hok

theorem popFlit_ports (hp : s.portsOk) (n vc : Nat) : (popFlit s n vc).portsOk ∧ portsFrom s (popFlit s n vc) n := by
  unfold popFlit
  split
  · exact ⟨hp, fun _ _ => rfl⟩
  · exact ⟨portsOk_modPort hp n _, fun _ hm => portAt_modPort_ne hp _ hm⟩

theorem recorded_from {kind sev a0 a1 a2 : Nat} (h : recorded u t kind sev a0 a1 a2) (hann : u.ann = s.ann) (hclk : u.clk = s.clk) :
    recorded s t kind sev a0 a1 a2 := by
  rw [recorded, hann, hclk] at h
  exact h

theorem fget_lt (s : State) (f : FieldRef) : fget s f < 2 ^ f.w := Nat.mod_lt _ (Nat.two_pow_pos _)

/-! ### Refusals -/

theorem refuseRecord_step {fs : List FieldRef} (s : State) (n reason : Nat) : OrbitStep fs s (refuseRecord s n reason) := .ite (.refl s) (annal_step ..)

/-- A refusal's record changes the annals and their registers. -/
theorem refuseRecord_frame (s : State) (n reason : Nat) : refuseRecord s n reason = s.withRegs (refuseRecord s n reason) := by
  unfold refuseRecord
  split
  · rfl
  · exact annal_frame ..

theorem refuseRecord_regs (hok : s.regsOk) (n reason : Nat) : s.regsFrom (refuseRecord s n reason) [] := by
  unfold refuseRecord
  split
  · exact fun _ _ _ => rfl
  · exact fun a _ ha => annal_rget hok _ _ _ _ _ _ ha

theorem refuseRecord_quiet (s : State) (n : Nat) : refuseRecord s n 5 = s := if_pos rfl

theorem refuseRecord_recorded (s : State) (n : Nat) {reason : Nat} (h : reason ≠ 5) :
    recorded s (refuseRecord s n reason) 0x0700 2 n (4 + reason * 256) (fget s (Reg.TSX_PARTNER.MODULE_ID n)) := by
  rw [refuseRecord, if_neg h]
  exact annal_recorded ..

theorem portStatus_not_annals (n : Nat) : (Reg.TSX_STATUS.STATE n).addr ∉ annalsRegs := by
  have hlow : ∀ a ∈ annalsRegs, a < 0x300000 := by decide
  intro h
  have := hlow _ h
  simp only [Reg.TSX_STATUS.STATE, portBase] at this
  omega

theorem exec_joinMsg_refused {reason : Nat} (h : msgFront s n 1 src b) (hop : rd b 0 1 = 1) (hrefused : joinRefusal s n b = some reason) :
    exec (.joinMsg n) s = .next (sendMsg (refuseRecord (popFlit s n 0) n reason) n 1 ([3] ++ leBytes 1 reason)) := by
  show execJoinMsg n s = _
  refine (onMsg_op h hop _).trans (congrArg Host.Outcome.next ?_)
  simp only [popFlit_joinRefusal, hrefused]

/-- A JOIN refused changes no mask and no session, and its answer is on its way. -/
theorem joinMsg_refused {reason : Nat} (hok : s.regsOk) (hp : s.portsOk) (h : msgFront s n 1 src b) (hop : rd b 0 1 = 1) (hrefused : joinRefusal s n b = some reason) :
    ∃ t, exec (.joinMsg n) s = .next t ∧ admittedMask t = admittedMask s ∧ orbState t = orbState s ∧ t.orb = s.orb ∧ t.kv = s.kv ∧ portsFrom s t n ∧
      (portActive s n = true → sends t n 1 ([3] ++ leBytes 1 reason)) ∧ (reason = 5 → t.ann = s.ann) ∧
      (reason ≠ 5 → recorded s t 0x0700 2 n (4 + reason * 256) (fget s (Reg.TSX_PARTNER.MODULE_ID n))) := by
  obtain ⟨hpop, hothers⟩ := popFlit_ports hp n 0
  have hpopok := popFlit_regsOk hok n 0
  have hrefuse := refuseRecord_frame (popFlit s n 0) n reason
  have htsx : (refuseRecord (popFlit s n 0) n reason).tsx = (popFlit s n 0).tsx := (congrArg State.tsx hrefuse :)
  have hports : (refuseRecord (popFlit s n 0) n reason).portsOk := by
    rw [State.portsOk, htsx]
    exact hpop
  have hsend := sendMsg_sending (refuseRecord (popFlit s n 0) n reason) n 1 ([3] ++ leBytes 1 reason)
  have hann : (sendMsg (refuseRecord (popFlit s n 0) n reason) n 1 ([3] ++ leBytes 1 reason)).ann = (refuseRecord (popFlit s n 0) n reason).ann :=
    (congrArg State.ann hsend.frame :)
  have hstep : OrbitStep [] (popFlit s n 0) (sendMsg (refuseRecord (popFlit s n 0) n reason) n 1 ([3] ++ leBytes 1 reason)) :=
    (refuseRecord_step ..).trans hsend.links.step
  refine ⟨_, exec_joinMsg_refused h hop hrefused, ?_, ?_, ?_, hstep.kv.trans (popFlit_kv ..), fun m hm => ?_, fun hactive => ?_, fun hquiet => ?_, fun hloud => ?_⟩
  · exact (hstep.fget hpopok (g := Reg.ORB_STATUS.ADMITTED_MASK) (by decide)).trans (popFlit_fget ..)
  · exact (hstep.fget hpopok (g := Reg.ORB_STATUS.STATE) (by decide)).trans (popFlit_fget ..)
  · exact (congrArg State.orb hsend.frame :).trans ((congrArg State.orb hrefuse :).trans (popFlit_orb ..))
  · exact ((hsend.ports hports).2.1 m hm).trans ((portAt_of_tsx htsx m).trans (hothers m hm))
  · refine sendMsg_sends hports ?_ (by decide) (by simp only [List.length_append, length_leBytes, List.length_singleton]; decide)
    rw [portActive, fget_of_rget _ (refuseRecord_regs hpopok n reason _ List.not_mem_nil (portStatus_not_annals n)), popFlit_fget]
    exact hactive
  · rw [hann, hquiet, refuseRecord_quiet, popFlit_ann]
  · rw [← popFlit_fget s n 0]
    exact recorded_from (recorded_of_ann (refuseRecord_recorded _ n hloud) hann) (popFlit_ann ..) (popFlit_clk ..)

/-! ### JOIN admitted -/

/-- A JOIN that is admitted over the mesh comes from the port's member. -/
theorem portMember_of_admitted (h : joinRefusal s n b = none) (hmesh : (meshRole s n).isSome = true) : portMember s n = some (rd b 1 1) := by
  unfold joinRefusal at h
  dsimp only at h
  rw [if_pos hmesh] at h
  by_contra hother
  have hwired : (portMember s n == some (rd b 1 1)) = false := by simpa using hother
  simp [hwired, ite_eq_iff] at h

theorem portMember_lt {m : Nat} (hmesh : (meshRole s n).isSome = true) (h : portMember s n = some m) : m < 16 := by
  obtain ⟨k, hk⟩ := Option.isSome_iff_exists.1 hmesh
  simp only [portMember, hk, Option.some.injEq] at h
  omega

/-- The module with a partner among its members, before every member hears of it. -/
def memberTaken (s : State) (n m : Nat) : State :=
  setAdmitted (setHeir (admitPort s n) s.img.bound.heir) (admittedMask (admitPort s n) ||| 2 ^ m ||| selfBit s)

/-- The module with a member no longer among the lost ones. -/
def memberFound (s : State) (m : Nat) : State := { s with orb := { s.orb with lost := s.orb.lost.filter (· != m) } }

theorem exec_joinMsg_mesh (h : msgFront s n 1 src b) (hop : rd b 0 1 = 1) (hadmits : joinRefusal s n b = none) (hmesh : (meshRole s n).isSome = true) :
    exec (.joinMsg n) s = .next (((meshPorts (memberTaken (popFlit s n 0) n (rd b 1 1))).filter fun k =>
      (portAt (memberTaken (popFlit s n 0) n (rd b 1 1)) k).admitted).foldl sendAdmit (memberFound (memberTaken (popFlit s n 0) n (rd b 1 1)) (rd b 1 1))) := by
  show execJoinMsg n s = _
  refine (onMsg_op h hop _).trans (congrArg Host.Outcome.next ?_)
  simp only [popFlit_joinRefusal, hadmits, popFlit_meshRole, hmesh, if_true]
  rfl

theorem exec_joinMsg_transit (h : msgFront s n 1 src b) (hop : rd b 0 1 = 1) (hadmits : joinRefusal s n b = none) (hmesh : (meshRole s n).isSome = false) :
    exec (.joinMsg n) s = .next (refreshOnline (sendAdmit (admitPort (popFlit s n 0) n) n)) := by
  show execJoinMsg n s = _
  refine (onMsg_op h hop _).trans (congrArg Host.Outcome.next ?_)
  simp only [popFlit_joinRefusal, hadmits, popFlit_meshRole, hmesh, Bool.false_eq_true, if_false]

/-- The fields of the masks, and of the members that are live. -/
def memberFields : List FieldRef := Reg.ORB_STATUS.LIVE_MASK :: maskFields

theorem maskFields_memberFields : maskFields ⊆ memberFields := List.subset_cons_self ..

theorem heirFields_memberFields : heirFields ⊆ memberFields := List.Subset.trans (List.subset_cons_self ..) maskFields_memberFields

theorem memberTaken_step (s : State) (n m : Nat) : OrbitStep memberFields s (memberTaken s n m) :=
  ((admitPort_step (List.mem_cons_self ..) s n).trans (setHeir_step heirFields_memberFields _ _)).trans (setAdmitted_step maskFields_memberFields _ _)

/-- The masks once a partner is a member. -/
theorem memberTaken_masks {m : Nat} (hok : s.regsOk) (hself : self s < 16) (hmesh : (meshRole s n).isSome = true) (hm : portMember s n = some m) :
    admittedMask (memberTaken s n m) = admittedMask s ||| 2 ^ m ||| selfBit s ∧ liveMask (memberTaken s n m) = liveMask s ||| 2 ^ m := by
  have hbit : 2 ^ m < 2 ^ 16 := Nat.pow_lt_pow_right (by decide) (portMember_lt hmesh hm)
  have hselfBit : selfBit s < 2 ^ 16 := Nat.pow_lt_pow_right (by decide) hself
  have hadmit : OrbitStep [Reg.ORB_STATUS.LIVE_MASK] s (admitPort s n) := admitPort_step (List.mem_cons_self ..) s n
  have hmask : admittedMask (admitPort s n) = admittedMask s := hadmit.fget hok (g := Reg.ORB_STATUS.ADMITTED_MASK) (by decide)
  have hheir : OrbitStep heirFields (admitPort s n) (setHeir (admitPort s n) s.img.bound.heir) := setHeir_step (fun _ h => h) _ _
  have hmembers : OrbitStep maskFields (admitPort s n) (memberTaken s n m) :=
    (setHeir_step (by simp [maskFields]) _ _).trans (setAdmitted_step (fun _ h => h) _ _)
  constructor
  · rw [memberTaken, admittedMask_setAdmitted (hheir.regsOk (hadmit.regsOk hok)), hmask]
    exact Nat.mod_eq_of_lt (Nat.or_lt_two_pow (Nat.or_lt_two_pow (fget_lt s Reg.ORB_STATUS.ADMITTED_MASK) hbit) hselfBit)
  · refine (hmembers.fget (hadmit.regsOk hok) (g := Reg.ORB_STATUS.LIVE_MASK) (by decide)).trans ((liveMask_admitPort hok hmesh hm).trans ?_)
    exact Nat.mod_eq_of_lt (Nat.or_lt_two_pow (fget_lt s Reg.ORB_STATUS.LIVE_MASK) hbit)

theorem memberTaken_admitted (hp : s.portsOk) (n m : Nat) : (portAt (memberTaken s n m) n).admitted = true := by
  have hadmit := (admitPort_step (fs := memberFields) (List.mem_cons_self ..) s n).ports hp
  have hmembers : OrbitStep memberFields (admitPort s n) (memberTaken s n m) :=
    (setHeir_step heirFields_memberFields _ _).trans (setAdmitted_step maskFields_memberFields _ _)
  exact (hmembers.ports hadmit.1).2 n (admitPort_admitted hp n)

/-- Every member hears of a change; the module's work, masks and state stand. -/
theorem sendAdmits_shows (hok : s.regsOk) (hp : s.portsOk) (l : List Nat) (m : Nat) : ∃ t, t = l.foldl sendAdmit (memberFound s m) ∧
    (∀ f : FieldRef, f.addr < 0x300000 → fget t f = fget s f) ∧ t.kv = s.kv ∧ t.itk = s.itk ∧ t.run = s.run ∧ t.orb = (memberFound s m).orb ∧
    ∀ k, (portAt s k).admitted = true → (portAt t k).admitted = true := by
  have hlinks : LinksSend (memberFound s m) (l.foldl sendAdmit (memberFound s m)) := .foldl (fun _ _ => sendMsg_links ..) l _
  have hfound : (memberFound s m).regsOk := hok
  refine ⟨_, rfl, fun f hf => (hlinks.low_fget hfound hf).trans (fget_of_regs rfl f), (congrArg State.kv hlinks.frame :), (congrArg State.itk hlinks.frame :),
    (congrArg State.run hlinks.frame :), (congrArg State.orb hlinks.frame :), fun k hk => ?_⟩
  exact ((hlinks.ports hp).2 k).1.trans hk

/-- A JOIN admitted makes the link carry transactions, and over the mesh its member one of the orbit's. -/
theorem joinMsg_admitted (hok : s.regsOk) (hp : s.portsOk) (hself : s.img.bound.orbit.member < 16) (h : msgFront s n 1 src b) (hop : rd b 0 1 = 1)
    (hadmits : joinRefusal s n b = none) : ∃ t, exec (.joinMsg n) s = .next t ∧ (portAt t n).admitted = true ∧
      orbState t = orbState s ∧ t.kv = s.kv ∧ t.itk = s.itk ∧ t.run = s.run ∧
      ((meshRole s n).isSome = true → admittedMask t = admittedMask s ||| 2 ^ rd b 1 1 ||| selfBit s ∧ liveMask t = liveMask s ||| 2 ^ rd b 1 1 ∧
        rd b 1 1 ∉ t.orb.lost) ∧
      ((meshRole s n).isSome = false → admittedMask t = admittedMask s) := by
  have hpopok := popFlit_regsOk hok n 0
  obtain ⟨hpop, -⟩ := popFlit_ports hp n 0
  cases hmesh : (meshRole s n).isSome
  · have hadmit : OrbitStep [Reg.ORB_STATUS.LIVE_MASK] (popFlit s n 0) (admitPort (popFlit s n 0) n) := admitPort_step (List.mem_cons_self ..) _ n
    have hrest : OrbitStep [Reg.ORB_STATUS.LIVE_MASK] (admitPort (popFlit s n 0) n) (refreshOnline (sendAdmit (admitPort (popFlit s n 0) n) n)) :=
      (sendAdmit_step ..).trans (refreshOnline_step _)
    have hstep := hadmit.trans hrest
    refine ⟨_, exec_joinMsg_transit h hop hadmits hmesh, (hrest.ports (hadmit.ports hpop).1).2 n (admitPort_admitted hpop n), ?_,
      hstep.kv.trans (popFlit_kv ..), hstep.itk.trans (popFlit_itk ..), hstep.run.trans (popFlit_run ..), by simp, fun _ => ?_⟩
    · exact (hstep.fget hpopok (g := Reg.ORB_STATUS.STATE) (by decide)).trans (popFlit_fget ..)
    · exact (hstep.fget hpopok (g := Reg.ORB_STATUS.ADMITTED_MASK) (by decide)).trans (popFlit_fget ..)
  · have hstep := memberTaken_step (popFlit s n 0) n (rd b 1 1)
    have hmember : portMember (popFlit s n 0) n = some (rd b 1 1) := (popFlit_portMember ..).trans (portMember_of_admitted hadmits hmesh)
    have hself' : self (popFlit s n 0) < 16 := by
      rw [self, popFlit_img]
      exact hself
    obtain ⟨hadmitted, hlive⟩ := memberTaken_masks hpopok hself' ((congrArg Option.isSome (popFlit_meshRole s n 0 n)).trans hmesh) hmember
    obtain ⟨t, ht, hfields, hkv, hitk, hrun, horb, hports⟩ := sendAdmits_shows (hstep.regsOk hpopok) (hstep.ports hpop).1
      ((meshPorts (memberTaken (popFlit s n 0) n (rd b 1 1))).filter fun k => (portAt (memberTaken (popFlit s n 0) n (rd b 1 1)) k).admitted) (rd b 1 1)
    refine ⟨t, (exec_joinMsg_mesh h hop hadmits hmesh).trans (congrArg _ ht.symm), hports n (memberTaken_admitted hpop n _), ?_, ?_, ?_, ?_,
      fun _ => ⟨?_, ?_, ?_⟩, by simp⟩
    · exact (hfields Reg.ORB_STATUS.STATE (by decide)).trans ((hstep.fget hpopok (g := Reg.ORB_STATUS.STATE) (by decide)).trans (popFlit_fget ..))
    · exact hkv.trans (hstep.kv.trans (popFlit_kv ..))
    · exact hitk.trans (hstep.itk.trans (popFlit_itk ..))
    · exact hrun.trans (hstep.run.trans (popFlit_run ..))
    · refine (hfields Reg.ORB_STATUS.ADMITTED_MASK (by decide)).trans (hadmitted.trans ?_)
      rw [popFlit_selfBit, admittedMask, popFlit_fget]
      rfl
    · refine (hfields Reg.ORB_STATUS.LIVE_MASK (by decide)).trans (hlive.trans ?_)
      rw [liveMask, popFlit_fget]
      rfl
    · rw [horb]
      simp [memberFound]

/-! ### ADMIT -/

/-- A MOON of primary `src`. -/
def moonOf (s : State) (src : Nat) : State := setOrbState (fset s Reg.ORB_STATUS.PRIMARY src) 2

/-- A moon with its primary's members and heir, before the links to other moons follow. -/
def moonAdmitted (s : State) (n heir mask : Nat) : State := admitPort (takeHeir (setAdmitted s mask) heir n) n

/-- A moon with its primary's members and its links to the other moons. -/
def moonJoined (s : State) (n heir mask : Nat) : State := refreshOnline (admitMoons (setAdmitted (moonAdmitted s n heir mask) mask))

theorem exec_admitMsg_moon (h : msgFront s n 1 src b) (hop : rd b 0 1 = 2) (hmesh : (meshRole s n).isSome = true) (hheard : s.orb.ignored.elem src = false)
    (hstate : orbState s = 1 ∨ orbState s = 2) : exec (.admitMsg n) s = .next (moonJoined (moonOf (popFlit s n 0) src) n (rd b 1 1) (rd b 4 2)) := by
  have hgo : (decide (orbState s = 0) || decide (orbState s = 4) || s.orb.ignored.elem src) = false := by
    obtain h1 | h2 := hstate
    · simp only [h1, hheard]; decide
    · simp only [h2, hheard]; decide
  have hmoon : orbState s ≠ 3 := by omega
  show execAdmitMsg n s = _
  refine (onMsg_op h hop _).trans (congrArg Host.Outcome.next ?_)
  simp only [popFlit_orbState, popFlit_orb, hgo, popFlit_meshRole, hmesh, hmoon, Bool.false_eq_true, if_false, if_true]
  rfl

theorem exec_admitMsg_rival (h : msgFront s n 1 src b) (hop : rd b 0 1 = 2) (hmesh : (meshRole s n).isSome = true) (hheard : s.orb.ignored.elem src = false)
    (hstate : orbState s = 3) (hlower : src < self s) : exec (.admitMsg n) s = .next (isolate (popFlit s n 0)) := by
  have hgo : (decide (3 = 0) || decide (3 = 4) || s.orb.ignored.elem src) = false := by
    rw [hheard]
    decide
  have hself : self (popFlit s n 0) = self s := by rw [self, popFlit_img]; rfl
  show execAdmitMsg n s = _
  refine (onMsg_op h hop _).trans (congrArg Host.Outcome.next ?_)
  simp only [popFlit_orbState, popFlit_orb, hgo, popFlit_meshRole, hmesh, hstate, hself, hlower, Bool.false_eq_true, if_false, if_true]

/-- The fields that a moon's admission writes. -/
def moonFields : List FieldRef := Reg.ORB_STATUS.HEIR_MISMATCH :: memberFields

theorem memberFields_moonFields : memberFields ⊆ moonFields := List.subset_cons_self ..

theorem maskFields_moonFields : maskFields ⊆ moonFields := List.Subset.trans maskFields_memberFields memberFields_moonFields

theorem heirFields_moonFields : heirFields ⊆ moonFields := List.Subset.trans heirFields_memberFields memberFields_moonFields

theorem liveMask_moonFields : Reg.ORB_STATUS.LIVE_MASK ∈ moonFields := memberFields_moonFields (List.mem_cons_self ..)

theorem takeHeir_step (s : State) (h n : Nat) : OrbitStep moonFields s (takeHeir s h n) :=
  (setHeir_step heirFields_moonFields _ _).trans (compareHeir_step (List.mem_cons_self ..) ..)

theorem moonAdmitted_step (s : State) (n heir mask : Nat) : OrbitStep moonFields s (moonAdmitted s n heir mask) :=
  ((setAdmitted_step maskFields_moonFields _ _).trans (takeHeir_step ..)).trans (admitPort_step liveMask_moonFields ..)

theorem moonAdmitted_admitted (hp : s.portsOk) (n heir mask : Nat) : (portAt (moonAdmitted s n heir mask) n).admitted = true := by
  have htaken : OrbitStep moonFields s (takeHeir (setAdmitted s mask) heir n) := (setAdmitted_step maskFields_moonFields _ _).trans (takeHeir_step ..)
  exact admitPort_admitted (htaken.ports hp).1 n

theorem moonJoined_step (s : State) (n heir mask : Nat) : OrbitStep moonFields s (moonJoined s n heir mask) :=
  (((moonAdmitted_step s n heir mask).trans (setAdmitted_step maskFields_moonFields _ _)).trans (admitMoons_step liveMask_moonFields _)).trans (refreshOnline_step _)

theorem moonJoined_admitted (hp : s.portsOk) (n heir mask : Nat) : (portAt (moonJoined s n heir mask) n).admitted = true := by
  have hrest : OrbitStep moonFields (moonAdmitted s n heir mask) (moonJoined s n heir mask) :=
    ((setAdmitted_step maskFields_moonFields _ _).trans (admitMoons_step liveMask_moonFields _)).trans (refreshOnline_step _)
  exact (hrest.ports ((moonAdmitted_step s n heir mask).ports hp).1).2 n (moonAdmitted_admitted hp n heir mask)

theorem moonJoined_mask (hok : s.regsOk) (n heir : Nat) {mask : Nat} (hmask : mask < 2 ^ 16) : admittedMask (moonJoined s n heir mask) = mask := by
  have hadmit := (moonAdmitted_step s n heir mask).regsOk hok
  have hset : OrbitStep moonFields (moonAdmitted s n heir mask) (setAdmitted (moonAdmitted s n heir mask) mask) := setAdmitted_step maskFields_moonFields _ _
  have hmoons : OrbitStep [Reg.ORB_STATUS.LIVE_MASK] (setAdmitted (moonAdmitted s n heir mask) mask) (moonJoined s n heir mask) :=
    (admitMoons_step (List.mem_cons_self ..) _).trans (refreshOnline_step _)
  refine (hmoons.fget (hset.regsOk hadmit) (g := Reg.ORB_STATUS.ADMITTED_MASK) (by decide)).trans ?_
  exact (admittedMask_setAdmitted hadmit mask).trans (Nat.mod_eq_of_lt hmask)

theorem moonOf_shows (hok : s.regsOk) (hsrc : src < 16) : (moonOf s src).regsOk ∧ orbState (moonOf s src) = 2 ∧ fget (moonOf s src) Reg.ORB_STATUS.PRIMARY = src := by
  have hprimary := regsOk_fset hok Reg.ORB_STATUS.PRIMARY src
  refine ⟨regsOk_fset hprimary .., fget_fset_same hprimary Reg.ORB_STATUS.STATE _ (by decide), ?_⟩
  exact (fget_fset_other hprimary Reg.ORB_STATUS.STATE _ 2 (by decide) (by decide)).trans ((fget_fset_same hok _ _ (by decide)).trans (Nat.mod_eq_of_lt hsrc))

theorem leNat_lt (b : Bytes) : leNat b < 256 ^ b.length := by
  induction b with
  | nil => decide
  | cons x xs ih =>
    have hx := x.isLt
    rw [leNat, List.length_cons, Nat.pow_succ]
    omega

theorem rd_lt (b : Bytes) (off k : Nat) : rd b off k < 256 ^ k :=
  (leNat_lt _).trans_le (Nat.pow_le_pow_right (by decide) (by simp [slice]))

/-- A moon's primary, state and masks once its ADMIT is taken. -/
theorem admitMsg_moon (hok : s.regsOk) (hp : s.portsOk) (hsrc : src < 16) (h : msgFront s n 1 src b) (hop : rd b 0 1 = 2) (hmesh : (meshRole s n).isSome = true)
    (hheard : s.orb.ignored.elem src = false) (hstate : orbState s = 1 ∨ orbState s = 2) : ∃ t, exec (.admitMsg n) s = .next t ∧ orbState t = 2 ∧
      fget t Reg.ORB_STATUS.PRIMARY = src ∧ admittedMask t = rd b 4 2 ∧ (portAt t n).admitted = true ∧ t.kv = s.kv ∧ t.run = s.run := by
  obtain ⟨hmoonok, hmoon, hprimary⟩ := moonOf_shows (popFlit_regsOk hok n 0) hsrc
  have hports : (moonOf (popFlit s n 0) src).portsOk := (popFlit_ports hp n 0).1
  have hstep := moonJoined_step (moonOf (popFlit s n 0) src) n (rd b 1 1) (rd b 4 2)
  exact ⟨_, exec_admitMsg_moon h hop hmesh hheard hstate, (hstep.fget hmoonok (g := Reg.ORB_STATUS.STATE) (by decide)).trans hmoon,
    (hstep.fget hmoonok (g := Reg.ORB_STATUS.PRIMARY) (by decide)).trans hprimary, moonJoined_mask hmoonok n _ (rd_lt b 4 2), moonJoined_admitted hports n _ _,
    hstep.kv.trans (popFlit_kv ..), hstep.run.trans (popFlit_run ..)⟩

/-! ### REFUSE -/

theorem exec_refuseMsg (h : msgFront s n 1 src b) (hop : rd b 0 1 = 3) : exec (.refuseMsg n) s =
    .next (refuseRecord (modPort (popFlit s n 0) n fun p => { p with refused := rd b 1 1 }) n (rd b 1 1)) := by
  show execRefuseMsg n s = _
  exact onMsg_op h hop _

/-- A REFUSE is kept by its port and recorded. -/
theorem refuseMsg_shows (hok : s.regsOk) (hp : s.portsOk) (h : msgFront s n 1 src b) (hop : rd b 0 1 = 3) : ∃ t, exec (.refuseMsg n) s = .next t ∧
    (portAt t n).refused = rd b 1 1 ∧ portsFrom s t n ∧ t = { s.withRegs t with tsx := t.tsx } ∧ s.regsFrom t [] ∧ (rd b 1 1 = 5 → t.ann = s.ann) ∧
    (rd b 1 1 ≠ 5 → recorded s t 0x0700 2 n (4 + rd b 1 1 * 256) (fget s (Reg.TSX_PARTNER.MODULE_ID n))) := by
  have hpopok : (modPort (popFlit s n 0) n fun p => { p with refused := rd b 1 1 }).regsOk := popFlit_regsOk hok n 0
  obtain ⟨hpop, hothers⟩ := popFlit_ports hp n 0
  have hframe := refuseRecord_frame (modPort (popFlit s n 0) n fun p => { p with refused := rd b 1 1 }) n (rd b 1 1)
  have htsx : (refuseRecord (modPort (popFlit s n 0) n fun p => { p with refused := rd b 1 1 }) n (rd b 1 1)).tsx =
      (modPort (popFlit s n 0) n fun p => { p with refused := rd b 1 1 }).tsx := (congrArg State.tsx hframe :)
  refine ⟨_, exec_refuseMsg h hop, ?_, fun m hm => ?_, ?_, fun a ha hann => ?_, fun hquiet => ?_, fun hloud => ?_⟩
  · rw [portAt_of_tsx htsx, portAt_modPort hpop]
  · rw [portAt_of_tsx htsx, portAt_modPort_ne hpop _ hm]
    exact hothers m hm
  · generalize refuseRecord (modPort (popFlit s n 0) n fun p => { p with refused := rd b 1 1 }) n (rd b 1 1) = t at hframe
    rw [popFlit_eq] at hframe
    rw [hframe]
    rfl
  · exact (refuseRecord_regs hpopok n _ a ha hann).trans (rget_of_regs (popFlit_regs s n 0) a)
  · rw [hquiet, refuseRecord_quiet]
    exact popFlit_ann ..
  · rw [← popFlit_fget s n 0]
    exact recorded_from (refuseRecord_recorded (modPort (popFlit s n 0) n fun p => { p with refused := rd b 1 1 }) n hloud) (popFlit_ann ..) (popFlit_clk ..)

/-! ### The host's JOIN and LEAVE (R322, R325) -/

/-- JOIN written: an isolated member seeks admission again. -/
def rejoining (s : State) : State :=
  if orbState s = 4 then { setOrbState (fset s Reg.ORB_CTRL.JOIN 1) 1 with orb := { s.orb with ignored := [], lost := [] } } else fset s Reg.ORB_CTRL.JOIN 1

theorem exec_orbitRejoin (hpow : unpowered s = false) : exec .orbitRejoin s = .next ((meshPorts (rejoining s) ++ upPorts (rejoining s)).foldl
    (fun s n => if (portAt s n).admitted then s else seekAdmission s n) (rejoining s)) := by
  show execOrbitRejoin s = _
  simp only [execOrbitRejoin, hpow, Bool.false_eq_true, if_false]
  rfl

theorem exec_orbitRejoin_unpowered (hpow : unpowered s = true) : exec .orbitRejoin s = .next s := by
  show execOrbitRejoin s = _
  simp only [execOrbitRejoin, hpow, if_true]

theorem rejoining_shows (hok : s.regsOk) : (rejoining s).regsOk ∧ fget (rejoining s) Reg.ORB_CTRL.JOIN = 1 ∧
    orbState (rejoining s) = (if orbState s = 4 then 1 else orbState s) ∧ (orbState s = 4 → (rejoining s).orb.ignored = [] ∧ (rejoining s).orb.lost = []) ∧
    (rejoining s).kv = s.kv ∧ (rejoining s).run = s.run := by
  have hjoin := regsOk_fset hok Reg.ORB_CTRL.JOIN 1
  unfold rejoining
  by_cases hstate : orbState s = 4
  · rw [if_pos hstate, if_pos hstate]
    refine ⟨regsOk_fset hjoin .., ?_, ?_, fun _ => ⟨rfl, rfl⟩, rfl, rfl⟩
    · exact (fget_fset_other hjoin Reg.ORB_STATUS.STATE _ 1 (by decide) (by decide)).trans (fget_fset_same hok _ _ (by decide))
    · exact fget_fset_same hjoin Reg.ORB_STATUS.STATE _ (by decide)
  · rw [if_neg hstate, if_neg hstate]
    exact ⟨hjoin, fget_fset_same hok _ _ (by decide), fget_fset_other hok _ _ _ (by decide) (by decide), fun h => absurd h hstate, rfl, rfl⟩

theorem orbitRejoin_shows (hok : s.regsOk) (hpow : unpowered s = false) : ∃ t, exec .orbitRejoin s = .next t ∧ fget t Reg.ORB_CTRL.JOIN = 1 ∧
    orbState t = (if orbState s = 4 then 1 else orbState s) ∧ (orbState s = 4 → t.orb.ignored = [] ∧ t.orb.lost = []) ∧ t.kv = s.kv ∧ t.run = s.run := by
  obtain ⟨hrejoin, hjoin, hstate, horb, hkv, hrun⟩ := rejoining_shows hok
  have hstep : OrbitStep [Reg.ORB_STATUS.LIVE_MASK] (rejoining s) ((meshPorts (rejoining s) ++ upPorts (rejoining s)).foldl
      (fun s n => if (portAt s n).admitted then s else seekAdmission s n) (rejoining s)) :=
    .foldl (fun u k => .ite (.refl u) (seekAdmission_step (List.mem_cons_self ..) u k)) _ _
  refine ⟨_, exec_orbitRejoin hpow, ?_, ?_, fun h4 => ?_, hstep.kv.trans hkv, hstep.run.trans hrun⟩
  · exact (hstep.fget hrejoin (by decide)).trans hjoin
  · exact (hstep.fget hrejoin (g := Reg.ORB_STATUS.STATE) (by decide)).trans hstate
  · obtain ⟨hignored, hlost⟩ := horb h4
    exact ⟨(congrArg OrbitSt.ignored hstep.orb :).trans hignored, (congrArg OrbitSt.lost hstep.orb :).trans hlost⟩

theorem exec_leave_unpowered (hpow : unpowered s = true) : exec .leave s = .next s := by
  show execLeave s = _
  simp only [execLeave, hpow, Bool.true_or, if_true]

theorem exec_leave (hpow : unpowered s = false) (hstate : orbState s ≠ 0) : exec .leave s = .next (if (s.run.live.any fun p => orbitRegion s p.region) = true
    then { s with orb := { s.orb with leaving := true } } else isolate s) := by
  show execLeave s = _
  simp only [execLeave, hpow, hstate, decide_false, Bool.or_self, Bool.false_eq_true, if_false]

/-- Settles O41: each admission message changes the masks, the links and the state as its rule says, and the host's JOIN and LEAVE do. -/
theorem admissionIsDecided : Obligations.AdmissionIsDecided := by
  unfold Obligations.AdmissionIsDecided
  intro n src b s hok hp _ hsrc hself
  refine ⟨fun reason h hop hrefused => joinMsg_refused hok hp h hop hrefused, fun h hop hadmits => joinMsg_admitted hok hp hself h hop hadmits,
    fun h hop hmesh hheard => ⟨fun hstate => admitMsg_moon hok hp hsrc h hop hmesh hheard hstate, fun hstate hlower => ?_⟩,
    fun h hop => refuseMsg_shows hok hp h hop, fun hpow => orbitRejoin_shows hok hpow, fun hpow hstate => ⟨fun hidle => ?_, fun hbusy => ?_⟩,
    fun hpow => ⟨exec_orbitRejoin_unpowered hpow, exec_leave_unpowered hpow⟩⟩
  · have hself' : self (popFlit s n 0) < 16 := by
      rw [self, popFlit_img]
      exact hself
    exact ⟨_, exec_admitMsg_rival h hop hmesh hheard hstate hlower,
      aloneIn_of_eq (isolate_aloneIn (popFlit_regsOk hok n 0) (popFlit_ports hp n 0).1 hself') (popFlit_img ..) (popFlit_kv ..)⟩
  · exact ⟨_, (exec_leave hpow hstate).trans (congrArg _ (if_neg (by rw [hidle]; decide))), isolate_aloneIn hok hp hself, isolate_itk s, isolate_run s⟩
  · exact (exec_leave hpow hstate).trans (congrArg _ (if_pos hbusy))

end Sys2Proof.Machine
end
end

section
/-!
PROOFS. The loss of a member (R321, R322): REMOVE, TAKEOVER, the heir's confirmation and the wait for it.
-/
section
open Sys2Proof Sys2Proof.Machine
namespace Sys2Proof.Machine

variable {s t u : State} {n src m mask : Nat} {b : Bytes} {fs : List FieldRef}

/-! ### Changes that may end sessions -/

/-- Between `s` and `t` the orbit's status changed as in `OrbitStep`, and sessions may have died; what was dead stays so. -/
structure DeathStep (fs : List FieldRef) (s t : State) : Prop where
  run : t.run = s.run
  itk : t.itk = s.itk
  img : t.img = s.img
  orb : t.orb = { s.orb with heirNamed := t.orb.heirNamed, offline := t.orb.offline }
  regs : s.regsOk → t.regsOk ∧ ∀ g : FieldRef, g.lo + g.w ≤ 64 → g.addr < 0x300000 → (∀ f ∈ fs ++ annalsFields, f.Apart g) → fget t g = fget s g
  ports : s.portsOk → t.portsOk
  dead : ∀ k, deadHere s k → deadHere t k

theorem OrbitStep.death (h : OrbitStep fs s t) : DeathStep fs s t :=
  ⟨h.run, h.itk, h.img, h.orb, h.regs, fun hp => (h.ports hp).1, fun _ hk => deadHere_of_kv hk h.kv⟩

theorem DeathStep.trans (h : DeathStep fs s t) (h' : DeathStep fs t u) : DeathStep fs s u where
  run := h'.run.trans h.run
  itk := h'.itk.trans h.itk
  img := h'.img.trans h.img
  orb := by rw [h'.orb, h.orb]
  regs hok := by
    obtain ⟨ht, hfield⟩ := h.regs hok
    obtain ⟨hu, hfield'⟩ := h'.regs ht
    exact ⟨hu, fun g hg hlow ha => (hfield' g hg hlow ha).trans (hfield g hg hlow ha)⟩
  ports hp := h'.ports (h.ports hp)
  dead k hk := h'.dead k (h.dead k hk)

theorem DeathStep.regsOk (h : DeathStep fs s t) (hok : s.regsOk) : t.regsOk := (h.regs hok).1

theorem DeathStep.fget (h : DeathStep fs s t) (hok : s.regsOk) {g : FieldRef} (hg : g.lo + g.w ≤ 64 ∧ g.addr < 0x300000 ∧ ∀ f ∈ fs ++ annalsFields, f.Apart g) :
    Machine.fget t g = Machine.fget s g := (h.regs hok).2 g hg.1 hg.2.1 hg.2.2

theorem orbitDeaths_death (s : State) (p : Nat → Bool) : DeathStep fs s (orbitDeaths s p) := by
  refine ⟨orbitDeaths_run .., orbitDeaths_itk .., orbitDeaths_img .., by rw [orbitDeaths_orb], fun hok => ⟨?_, fun g _ _ _ => orbitDeaths_fget ..⟩, fun hp => ?_,
    fun k hk => deadHere_killAll hk _⟩
  · rw [State.regsOk, orbitDeaths_regs]
    exact hok
  · rw [State.portsOk, orbitDeaths_tsx]
    exact hp

theorem deadHere_isolate {k : Nat} (h : deadHere s k) : deadHere (isolate s) k :=
  (orbitDeaths_death (fs := []) (maskedAlone (unlinked s) (selfBit s)) fun _ => true).dead k (deadHere_of_kv h (maskedAlone_unlinked s (selfBit s)).kv)

/-! ### A member dropped -/

/-- The fields that the loss of a member writes. -/
def lossFields : List FieldRef := Reg.ORB_STATS.REMOVALS :: memberFields

theorem memberFields_lossFields : memberFields ⊆ lossFields := List.subset_cons_self ..

theorem maskFields_lossFields : maskFields ⊆ lossFields := List.Subset.trans maskFields_memberFields memberFields_lossFields

theorem heirFields_lossFields : heirFields ⊆ lossFields := List.Subset.trans heirFields_memberFields memberFields_lossFields

/-- The heir's role is vacant where the member held it. -/
def heirDropped (s : State) (m : Nat) : State := if s.orb.heirNamed = some m then setHeir s none else s

/-- The masks and the count once a member is dropped, before its regions' sessions die. -/
def memberGone (s : State) (m mask : Nat) : State :=
  let u := fbump (heirDropped s m) Reg.ORB_STATS.REMOVALS 1
  setAdmitted (fset u Reg.ORB_STATUS.LIVE_MASK (liveMask u &&& (0xFFFF - 2 ^ m))) mask

theorem dropMember_eq (s : State) (m mask : Nat) : dropMember s m mask = orbitDeaths (memberGone s m mask) fun r => (orbitMask s r).testBit m := rfl

theorem heirDropped_step (hfs : heirFields ⊆ fs) (s : State) (m : Nat) : OrbitStep fs s (heirDropped s m) := .ite (setHeir_step hfs _ _) (.refl s)

theorem memberGone_step (s : State) (m mask : Nat) : OrbitStep lossFields s (memberGone s m mask) :=
  (((heirDropped_step heirFields_lossFields s m).trans (fbump_step _ (List.mem_cons_self ..) 1)).trans
    (fset_step _ (memberFields_lossFields (List.mem_cons_self ..)) _)).trans (setAdmitted_step maskFields_lossFields _ _)

theorem dropMember_step (s : State) (m mask : Nat) : DeathStep lossFields s (dropMember s m mask) := by
  rw [dropMember_eq]
  exact (memberGone_step s m mask).death.trans (orbitDeaths_death ..)

/-- What a dropped member leaves of the masks, and its count. -/
theorem memberGone_shows (hok : s.regsOk) (m : Nat) (hmask : mask < 2 ^ 16) : admittedMask (memberGone s m mask) = mask ∧
    liveMask (memberGone s m mask) = liveMask s &&& (0xFFFF - 2 ^ m) ∧ counted s (memberGone s m mask) Reg.ORB_STATS.REMOVALS 1 := by
  have hheir : OrbitStep heirFields s (heirDropped s m) := heirDropped_step (fun _ h => h) s m
  have hdropped := hheir.regsOk hok
  have hbump := regsOk_fbump hdropped Reg.ORB_STATS.REMOVALS 1
  have hlive := regsOk_fset hbump Reg.ORB_STATUS.LIVE_MASK (liveMask (fbump (heirDropped s m) Reg.ORB_STATS.REMOVALS 1) &&& (0xFFFF - 2 ^ m))
  have hsame : liveMask (fbump (heirDropped s m) Reg.ORB_STATS.REMOVALS 1) = liveMask s :=
    (fget_fbump_other hdropped Reg.ORB_STATS.REMOVALS Reg.ORB_STATUS.LIVE_MASK 1 (by decide) (by decide)).trans (hheir.fget hok (g := Reg.ORB_STATUS.LIVE_MASK) (by decide))
  have hset : OrbitStep maskFields _ (memberGone s m mask) := setAdmitted_step (fun _ h => h) _ mask
  refine ⟨(admittedMask_setAdmitted hlive mask).trans (Nat.mod_eq_of_lt hmask), ?_, ?_⟩
  · refine (hset.fget hlive (g := Reg.ORB_STATUS.LIVE_MASK) (by decide)).trans ((fget_fset_same hbump _ _ (by decide)).trans ?_)
    rw [hsame]
    exact Nat.mod_eq_of_lt (Nat.and_le_left.trans_lt (fget_lt s Reg.ORB_STATUS.LIVE_MASK))
  · have hcount := fbump_counted hdropped Reg.ORB_STATS.REMOVALS 1 (by decide)
    rw [counted, hheir.fget hok (g := Reg.ORB_STATS.REMOVALS) (by decide)] at hcount
    refine (hset.fget hlive (g := Reg.ORB_STATS.REMOVALS) (by decide)).trans ((fget_fset_other hbump _ _ _ (by decide) (by decide)).trans hcount)

theorem dropMember_shows (hok : s.regsOk) (m : Nat) (hmask : mask < 2 ^ 16) : admittedMask (dropMember s m mask) = mask ∧
    liveMask (dropMember s m mask) = liveMask s &&& (0xFFFF - 2 ^ m) ∧ counted s (dropMember s m mask) Reg.ORB_STATS.REMOVALS 1 := by
  obtain ⟨hadm, hlive, hcount⟩ := memberGone_shows hok m hmask
  exact ⟨(orbitDeaths_fget ..).trans hadm, (orbitDeaths_fget ..).trans hlive, (orbitDeaths_fget ..).trans hcount⟩

theorem dropMember_deadIn (s : State) (m mask : Nat) : deadIn s (dropMember s m mask) fun r => (orbitMask s r).testBit m = true := by
  have hfrom := memberGone_step s m mask
  rw [dropMember_eq]
  refine deadIn_of_eq (t := memberGone s m mask) (fun x hx horb hm => orbitDeaths_deadIn (memberGone s m mask) _ x hx horb hm) hfrom.img hfrom.kv

/-! ### REMOVE -/

theorem popFlit_self (s : State) (n vc : Nat) : self (popFlit s n vc) = self s := by
  rw [self, popFlit_img]
  rfl

theorem popFlit_orbitMask (s : State) (n vc r : Nat) : orbitMask (popFlit s n vc) r = orbitMask s r := by
  unfold orbitMask
  rw [popFlit_img]

/-- What a REMOVE of a moon's primary does. -/
def removed (s : State) (src : Nat) (b : Bytes) : State :=
  if rd b 1 1 = self s then isolate s
  else if rd b 1 1 = src then moonLosesPrimary s
  else if (s.orb.heirNamed == some (rd b 1 1)) = true
    then follow (dropMember s (rd b 1 1) (rd b 3 2)) (rd b 1 1) (decide (popcount 16 (admittedMask s) ≤ 2 * popcount 16 (rd b 3 2)))
    else dropMember s (rd b 1 1) (rd b 3 2)

theorem exec_removeMsg (h : msgFront s n 1 src b) (hop : rd b 0 1 = 7) (hmoon : orbState s = 2) (hsrc : src = fget s Reg.ORB_STATUS.PRIMARY)
    (hheard : s.orb.ignored.elem src = false) : exec (.removeMsg n) s = .next (removed (popFlit s n 0) src b) := by
  have hgo : (decide (orbState (popFlit s n 0) ≠ 2) || decide (src ≠ fget (popFlit s n 0) Reg.ORB_STATUS.PRIMARY) || (popFlit s n 0).orb.ignored.elem src) = false := by
    rw [popFlit_orbState, popFlit_fget, popFlit_orb, hheard, hmoon, ← hsrc]
    simp
  show execRemoveMsg n s = _
  refine (onMsg_op h hop _).trans (congrArg Host.Outcome.next ?_)
  dsimp only
  rw [hgo]
  rfl

/-- A moon whose primary is lost: its sessions of the orbit are dead, and it confirms or waits. -/
theorem moonLosesPrimary_shows (s : State) : deadIn s (moonLosesPrimary s) (fun _ => True) ∧ (moonLosesPrimary s).regs = s.regs ∧
    (if fget s Reg.ORB_STATUS.HEIR_VALID = 1 ∧ fget s Reg.ORB_STATUS.HEIR = self s then (moonLosesPrimary s).orb.confirming = true
      else (moonLosesPrimary s).orb.waitingTakeover = true) := by
  have hdead : deadIn s (orbitDeaths s fun _ => true) fun _ => True := fun x hx horb _ => orbitDeaths_deadIn s (fun _ => true) x hx horb rfl
  unfold moonLosesPrimary
  dsimp only
  by_cases hheir : fget s Reg.ORB_STATUS.HEIR_VALID = 1 ∧ fget s Reg.ORB_STATUS.HEIR = self s
  · rw [if_pos hheir, if_pos (by simpa using hheir)]
    exact ⟨hdead, orbitDeaths_regs .., rfl⟩
  · rw [if_neg hheir, if_neg (by simpa using hheir)]
    exact ⟨hdead, orbitDeaths_regs .., rfl⟩

/-! ### TAKEOVER -/

/-- The module with `new` its primary: every orbit session dead, the old primary gone, no heir named. -/
def takenOver (s : State) (old new mask : Nat) : State :=
  let u := fset s Reg.ORB_STATUS.PRIMARY new
  let v := orbitDeaths { u with orb := { u.orb with waitingTakeover := false, primaryLostBy := [] } } fun _ => true
  setHeir (dropMember v old mask) none

theorem exec_takeoverMsg (h : msgFront s n 1 src b) (hop : rd b 0 1 = 8) (hmoon : orbState s = 2) (hnew : src = rd b 2 1)
    (hold : rd b 1 1 = fget s Reg.ORB_STATUS.PRIMARY) (hheard : s.orb.ignored.elem src = false) : ∃ u, u = follow (takenOver (popFlit s n 0) (rd b 1 1) (rd b 2 1) (rd b 3 2))
      (rd b 1 1) (decide (popcount 16 (admittedMask s) < 2 * popcount 16 (rd b 3 2))) ∧ exec (.takeoverMsg n) s = .next ((orbitRegions u).foldl nextShare u) := by
  have hsilent : ((popFlit s n 0).orb.ignored.elem src || decide (src ≠ rd b 2 1)) = false := by
    rw [popFlit_orb, hheard, ← hnew]
    simp
  have hgo : (decide (orbState (popFlit s n 0) ≠ 2) || decide (rd b 1 1 ≠ fget (popFlit s n 0) Reg.ORB_STATUS.PRIMARY)) = false := by
    rw [popFlit_orbState, popFlit_fget, hmoon, ← hold]
    simp
  have hprimary : ¬ orbState (popFlit s n 0) = 3 := by
    rw [popFlit_orbState, hmoon]
    decide
  refine ⟨_, rfl, ?_⟩
  have hmask : admittedMask s = admittedMask (popFlit s n 0) := (popFlit_fget ..).symm
  rw [hmask]
  show execTakeoverMsg n s = _
  refine (onMsg_op h hop _).trans (congrArg Host.Outcome.next ?_)
  dsimp only
  rw [hsilent, hgo, if_neg hprimary]
  rfl

/-- A primary that is named, with no takeover awaited. -/
def primaryNamed (s : State) (new : Nat) : State :=
  { fset s Reg.ORB_STATUS.PRIMARY new with orb := { s.orb with waitingTakeover := false, primaryLostBy := [] } }

theorem takenOver_eq (s : State) (old new mask : Nat) : takenOver s old new mask =
    setHeir (dropMember (orbitDeaths (primaryNamed s new) fun _ => true) old mask) none := rfl

theorem takenOver_step (s : State) (old new mask : Nat) : DeathStep lossFields (primaryNamed s new) (takenOver s old new mask) := by
  rw [takenOver_eq]
  exact ((orbitDeaths_death ..).trans (dropMember_step ..)).trans (setHeir_step heirFields_lossFields _ _).death

/-- The state, the primary and the masks of a module that was taken over. -/
theorem takenOver_shows (hok : s.regsOk) (old : Nat) {new : Nat} (hnew : new < 16) (hmask : mask < 2 ^ 16) : (takenOver s old new mask).regsOk ∧
    orbState (takenOver s old new mask) = orbState s ∧ fget (takenOver s old new mask) Reg.ORB_STATUS.PRIMARY = new ∧ admittedMask (takenOver s old new mask) = mask := by
  have hnamed : (primaryNamed s new).regsOk := regsOk_fset hok ..
  have hstep := takenOver_step s old new mask
  have hdeaths : DeathStep lossFields (primaryNamed s new) (orbitDeaths (primaryNamed s new) fun _ => true) := orbitDeaths_death ..
  have hheir : OrbitStep heirFields (dropMember (orbitDeaths (primaryNamed s new) fun _ => true) old mask) (takenOver s old new mask) := by
    rw [takenOver_eq]
    exact setHeir_step (fun _ h => h) _ _
  refine ⟨hstep.regsOk hnamed, ?_, ?_, ?_⟩
  · exact (hstep.fget hnamed (g := Reg.ORB_STATUS.STATE) (by decide)).trans (fget_fset_other hok _ _ _ (by decide) (by decide))
  · exact (hstep.fget hnamed (g := Reg.ORB_STATUS.PRIMARY) (by decide)).trans ((fget_fset_same hok _ _ (by decide)).trans (Nat.mod_eq_of_lt hnew))
  · refine (hheir.fget ((dropMember_step ..).regsOk (hdeaths.regsOk hnamed)) (g := Reg.ORB_STATUS.ADMITTED_MASK) (by decide)).trans ?_
    exact (dropMember_shows (hdeaths.regsOk hnamed) old hmask).1

theorem takenOver_deadIn (s : State) (old new mask : Nat) : deadIn s (takenOver s old new mask) fun _ => True := by
  rw [takenOver_eq]
  have hdead : deadIn s (orbitDeaths (primaryNamed s new) fun _ => true) fun _ => True :=
    fun x hx horb _ => orbitDeaths_deadIn (primaryNamed s new) (fun _ => true) x hx horb rfl
  exact deadIn_mono hdead ((dropMember_step ..).trans (setHeir_step heirFields_lossFields _ _).death).dead

/-- Where no share waits, none begins. -/
theorem nextShare_idle (h : s.orb.passes = []) (r : Nat) : nextShare s r = s := by
  unfold nextShare
  rw [h]
  split <;> rfl

theorem foldl_nextShare_idle (h : s.orb.passes = []) (l : List Nat) : l.foldl nextShare s = s := by
  induction l with
  | nil => rfl
  | cons r l ih => rw [List.foldl_cons, nextShare_idle h, ih]

theorem isolate_orbParts (s : State) : (isolate s).orb.ignored = s.orb.ignored ∧ (isolate s).orb.passes = s.orb.passes := by
  obtain ⟨h, off, horb⟩ := isolate_orb s
  rw [horb]
  exact ⟨rfl, rfl⟩

/-- The module with a rival's messages ignored from now on. -/
def ignoring (s : State) (rival : Nat) : State := { s with orb := { s.orb with ignored := s.orb.ignored ++ [rival] } }

theorem follow_eq (s : State) (rival : Nat) (quorum : Bool) : follow s rival quorum = if quorum then ignoring s rival else isolate (ignoring s rival) := rfl

/-- A side followed: its opponent is ignored from then on, and what is dead stays so. -/
theorem follow_shows (s : State) (rival : Nat) (quorum : Bool) : (follow s rival quorum).orb.ignored = s.orb.ignored ++ [rival] ∧
    (follow s rival quorum).orb.passes = s.orb.passes ∧ ∀ k, deadHere s k → deadHere (follow s rival quorum) k := by
  cases quorum
  · obtain ⟨hignored, hpasses⟩ := isolate_orbParts (ignoring s rival)
    exact ⟨hignored, hpasses, fun k hk => deadHere_isolate (deadHere_of_kv hk rfl)⟩
  · exact ⟨rfl, rfl, fun k hk => deadHere_of_kv hk rfl⟩

/-- Without its side's majority a module is isolated. -/
theorem follow_minority (hok : s.regsOk) (hp : s.portsOk) (hself : self s < 16) (rival : Nat) :
    orbState (follow s rival false) = 4 ∧ admittedMask (follow s rival false) = selfBit s := by
  obtain ⟨hstate, hadm, -⟩ := isolate_aloneIn (s := ignoring s rival) hok hp hself
  exact ⟨hstate, hadm⟩

/-- The heir's TAKEOVER is followed where its side holds a strict majority; otherwise the module is isolated. -/
theorem takeoverMsg_shows (hok : s.regsOk) (hp : s.portsOk) (hsrc : src < 16) (hself : s.img.bound.orbit.member < 16) (h : msgFront s n 1 src b) (hop : rd b 0 1 = 8)
    (hmoon : orbState s = 2) (hnew : src = rd b 2 1) (hold : rd b 1 1 = fget s Reg.ORB_STATUS.PRIMARY) (hheard : s.orb.ignored.elem src = false)
    (hpasses : s.orb.passes = []) : ∃ t, exec (.takeoverMsg n) s = .next t ∧ t.orb.ignored.elem (rd b 1 1) = true ∧ deadIn s t (fun _ => True) ∧
      (popcount 16 (admittedMask s) < 2 * popcount 16 (rd b 3 2) → orbState t = 2 ∧ fget t Reg.ORB_STATUS.PRIMARY = src ∧ admittedMask t = rd b 3 2 ∧
        t.orb.waitingTakeover = false) ∧
      (2 * popcount 16 (rd b 3 2) ≤ popcount 16 (admittedMask s) → orbState t = 4 ∧ admittedMask t = selfBit s) := by
  obtain ⟨t, ht, hexec⟩ := exec_takeoverMsg h hop hmoon hnew hold hheard
  have hstep := takenOver_step (popFlit s n 0) (rd b 1 1) (rd b 2 1) (rd b 3 2)
  obtain ⟨hregs, hstate, hprimary, hmask⟩ := takenOver_shows (mask := rd b 3 2) (popFlit_regsOk hok n 0) (rd b 1 1) (hnew ▸ hsrc) (rd_lt b 3 2)
  have hdead := takenOver_deadIn (popFlit s n 0) (rd b 1 1) (rd b 2 1) (rd b 3 2)
  generalize takenOver (popFlit s n 0) (rd b 1 1) (rd b 2 1) (rd b 3 2) = u at *
  have hports : u.portsOk := hstep.ports (popFlit_ports hp n 0).1
  have hselfBit : self u = self s := (congrArg (fun x => x.bound.orbit.member) hstep.img :).trans (popFlit_self s n 0)
  obtain ⟨hignored, hidle, hstay⟩ := follow_shows u (rd b 1 1) (decide (popcount 16 (admittedMask s) < 2 * popcount 16 (rd b 3 2)))
  have hnobody : t.orb.passes = [] := by
    rw [ht, hidle, hstep.orb]
    exact (congrArg OrbitSt.passes (popFlit_orb s n 0) :).trans hpasses
  refine ⟨t, hexec.trans (congrArg _ (foldl_nextShare_idle hnobody _)), ?_, ?_, fun hmajority => ?_, fun hminority => ?_⟩
  · rw [ht, hignored]
    simp
  · rw [ht]
    exact deadIn_mono (deadIn_of_eq hdead (popFlit_img ..) (popFlit_kv ..)) hstay
  · rw [ht, decide_eq_true hmajority, follow_eq, if_pos rfl]
    exact ⟨hstate.trans ((popFlit_orbState ..).trans hmoon), hprimary.trans hnew.symm, hmask, (congrArg OrbitSt.waitingTakeover hstep.orb :)⟩
  · rw [ht, decide_eq_false (Nat.not_lt.2 hminority)]
    obtain ⟨hstate4, hadm⟩ := follow_minority hregs hports (hselfBit.trans_lt hself) (rd b 1 1)
    exact ⟨hstate4, hadm.trans (congrArg (2 ^ ·) hselfBit)⟩

end Sys2Proof.Machine
end
end

section
/-!
PROOFS. REMOVE, the heir that confirms and the wait for a takeover, settled (R321, R322).
-/
section
open Sys2Proof Sys2Proof.Machine
namespace Sys2Proof.Machine

variable {s t u : State} {n src : Nat} {b : Bytes}

theorem popFlit_aloneIn (hok : s.regsOk) (hp : s.portsOk) (hself : self s < 16) (n vc : Nat) : aloneIn s (isolate (popFlit s n vc)) :=
  aloneIn_of_eq (isolate_aloneIn (popFlit_regsOk hok n vc) (popFlit_ports hp n vc).1 ((popFlit_self s n vc).trans_lt hself)) (popFlit_img ..) (popFlit_kv ..)

section
variable (h : msgFront s n 1 src b) (hop : rd b 0 1 = 7) (hmoon : orbState s = 2) (hsrc : src = fget s Reg.ORB_STATUS.PRIMARY)
  (hheard : s.orb.ignored.elem src = false)
include h hop hmoon hsrc hheard

/-- The member that a REMOVE names isolates itself. -/
theorem removeMsg_self (hok : s.regsOk) (hp : s.portsOk) (hself : self s < 16) (hm : rd b 1 1 = self s) :
    ∃ t, exec (.removeMsg n) s = .next t ∧ aloneIn s t := by
  refine ⟨isolate (popFlit s n 0), (exec_removeMsg h hop hmoon hsrc hheard).trans ?_, popFlit_aloneIn hok hp hself n 0⟩
  rw [removed, if_pos (hm.trans (popFlit_self s n 0).symm)]

/-- Another member, not the heir, is dropped with its regions' sessions. -/
theorem removeMsg_other (hok : s.regsOk) (hm : rd b 1 1 ≠ self s) (hp : rd b 1 1 ≠ src) (hheir : s.orb.heirNamed ≠ some (rd b 1 1)) :
    ∃ t, exec (.removeMsg n) s = .next t ∧ orbState t = 2 ∧ admittedMask t = rd b 3 2 ∧ liveMask t = liveMask s &&& (0xFFFF - 2 ^ rd b 1 1) ∧
      counted s t Reg.ORB_STATS.REMOVALS 1 ∧ deadIn s t (fun r => (orbitMask s r).testBit (rd b 1 1) = true) ∧ t.run = s.run ∧ t.itk = s.itk ∧ t.img = s.img := by
  have hpop := popFlit_regsOk hok n 0
  have hstep := dropMember_step (popFlit s n 0) (rd b 1 1) (rd b 3 2)
  obtain ⟨hadm, hlive, hcount⟩ := dropMember_shows (mask := rd b 3 2) hpop (rd b 1 1) (rd_lt b 3 2)
  have hdead := deadIn_of_eq (dropMember_deadIn (popFlit s n 0) (rd b 1 1) (rd b 3 2)) (popFlit_img s n 0) (popFlit_kv s n 0)
  simp only [popFlit_orbitMask] at hdead
  rw [counted, popFlit_fget] at hcount
  refine ⟨dropMember (popFlit s n 0) (rd b 1 1) (rd b 3 2), (exec_removeMsg h hop hmoon hsrc hheard).trans ?_, ?_, hadm, ?_, hcount, hdead,
    hstep.run.trans (popFlit_run ..), hstep.itk.trans (popFlit_itk ..), hstep.img.trans (popFlit_img ..)⟩
  · have hnot : ¬ (((popFlit s n 0).orb.heirNamed == some (rd b 1 1)) = true) := by
      rw [popFlit_orb]
      simpa using hheir
    rw [removed, if_neg (fun he => hm (he.trans (popFlit_self s n 0))), if_neg hp, if_neg hnot]
  · exact (hstep.fget hpop (g := Reg.ORB_STATUS.STATE) (by decide)).trans ((popFlit_orbState s n 0).trans hmoon)
  · exact hlive.trans (congrArg (· &&& (0xFFFF - 2 ^ rd b 1 1)) (popFlit_fget s n 0 Reg.ORB_STATUS.LIVE_MASK))

/-- A primary that names itself is lost: every orbit session is dead, and the heir confirms while the others wait. -/
theorem removeMsg_primary (hm : rd b 1 1 ≠ self s) (hp : rd b 1 1 = src) : ∃ t, exec (.removeMsg n) s = .next t ∧ deadIn s t (fun _ => True) ∧ t.regs = s.regs ∧
    (if fget s Reg.ORB_STATUS.HEIR_VALID = 1 ∧ fget s Reg.ORB_STATUS.HEIR = self s then t.orb.confirming = true else t.orb.waitingTakeover = true) := by
  obtain ⟨hdead, hregs, hwait⟩ := moonLosesPrimary_shows (popFlit s n 0)
  rw [popFlit_fget, popFlit_fget, popFlit_self] at hwait
  refine ⟨moonLosesPrimary (popFlit s n 0), (exec_removeMsg h hop hmoon hsrc hheard).trans ?_, ?_, hregs.trans (popFlit_regs ..), hwait⟩
  · rw [removed, if_neg (fun he => hm (he.trans (popFlit_self s n 0))), if_pos hp]
  · exact deadIn_of_eq hdead (popFlit_img ..) (popFlit_kv ..)

end

/-! ### The heir that confirms -/

/-- The members whose loss of the primary the heir has heard, and itself. -/
def witnesses (s : State) : Nat := (s.orb.primaryLostBy.filter fun m => m != self s && (liveMask s).testBit m && (admittedMask s).testBit m).length + 1

/-- The members without the primary `old`. -/
def maskWithout (s : State) (old : Nat) : Nat := admittedMask s &&& (0xFFFF - 2 ^ old)

theorem maskWithout_lt (s : State) (old : Nat) : maskWithout s old < 2 ^ 16 := Nat.and_le_left.trans_lt (fget_lt s Reg.ORB_STATUS.ADMITTED_MASK)

/-- No confirmation is awaited. -/
def confirmed (s : State) : State := { s with orb := { s.orb with confirming := false, primaryLostBy := [] } }

/-- The heir as its orbit's primary, the old one still a member. -/
def crowned (s : State) : State := fset (setOrbState (confirmed s) 3) Reg.ORB_STATUS.PRIMARY (self s)

/-- The heir as its orbit's primary, the old one gone. -/
def succeeded (s : State) : State :=
  refreshOnline (setHeir (dropMember (crowned s) (fget s Reg.ORB_STATUS.PRIMARY) (maskWithout s (fget s Reg.ORB_STATUS.PRIMARY))) s.img.bound.heir)

theorem toMembers_links (s : State) (mask : Nat) (body : Bytes) : LinksSend s (toMembers s mask body) := .foldl (fun u _ => sendMsg_links u ..) _ s

theorem exec_heirConfirmTimeout (h : s.orb.confirming = true) : ∃ body, exec .heirConfirmTimeout s = .next
    (if popcount 16 (admittedMask s) < 2 * witnesses s then toMembers (succeeded s) (maskWithout s (fget s Reg.ORB_STATUS.PRIMARY)) body else isolate (confirmed s)) := by
  refine ⟨[8] ++ leBytes 1 (fget s Reg.ORB_STATUS.PRIMARY) ++ leBytes 1 (self s) ++ leBytes 2 (maskWithout s (fget s Reg.ORB_STATUS.PRIMARY)), ?_⟩
  show execHeirConfirmTimeout s = _
  unfold execHeirConfirmTimeout
  rw [h]
  rfl

theorem confirmed_aloneIn (hok : s.regsOk) (hp : s.portsOk) (hself : self s < 16) : aloneIn s (isolate (confirmed s)) :=
  aloneIn_of_eq (isolate_aloneIn (s := confirmed s) hok hp hself) rfl rfl

theorem crowned_shows (hok : s.regsOk) (hself : self s < 16) : (crowned s).regsOk ∧ orbState (crowned s) = 3 ∧ fget (crowned s) Reg.ORB_STATUS.PRIMARY = self s ∧
    ∀ g : FieldRef, g.lo + g.w ≤ 64 ∧ Reg.ORB_STATUS.STATE.Apart g ∧ Reg.ORB_STATUS.PRIMARY.Apart g → fget (crowned s) g = fget s g := by
  have hstate : (setOrbState (confirmed s) 3).regsOk := regsOk_fset (s := confirmed s) hok ..
  refine ⟨regsOk_fset hstate .., ?_, (fget_fset_same hstate _ _ (by decide)).trans (Nat.mod_eq_of_lt hself), fun g ⟨hg, hs, hp⟩ => ?_⟩
  · exact (fget_fset_other hstate _ _ _ (by decide) (by decide)).trans (fget_fset_same (s := confirmed s) hok _ _ (by decide))
  · exact (fget_fset_other hstate _ _ _ hg hp).trans (fget_fset_other (s := confirmed s) hok _ _ _ hg hs)

theorem succeeded_heir (s : State) : OrbitStep heirFields (dropMember (crowned s) (fget s Reg.ORB_STATUS.PRIMARY) (maskWithout s (fget s Reg.ORB_STATUS.PRIMARY)))
    (succeeded s) := (setHeir_step (fun _ h => h) _ _).trans (refreshOnline_step _)

/-- The masks, the state and the count of the heir that took over. -/
theorem succeeded_shows (hok : s.regsOk) (hself : self s < 16) : (succeeded s).regsOk ∧ (succeeded s).orb.confirming = false ∧ (succeeded s).itk = s.itk ∧
    orbState (succeeded s) = 3 ∧ fget (succeeded s) Reg.ORB_STATUS.PRIMARY = self s ∧ admittedMask (succeeded s) = maskWithout s (fget s Reg.ORB_STATUS.PRIMARY) ∧
    counted s (succeeded s) Reg.ORB_STATS.REMOVALS 1 := by
  obtain ⟨hcrowned, hstate, hprimary, hother⟩ := crowned_shows hok hself
  have hdrop := dropMember_step (crowned s) (fget s Reg.ORB_STATUS.PRIMARY) (maskWithout s (fget s Reg.ORB_STATUS.PRIMARY))
  obtain ⟨hadm, -, hcount⟩ := dropMember_shows hcrowned (fget s Reg.ORB_STATUS.PRIMARY) (maskWithout_lt s (fget s Reg.ORB_STATUS.PRIMARY))
  have hdropped := hdrop.regsOk hcrowned
  have hheir := succeeded_heir s
  rw [counted, hother Reg.ORB_STATS.REMOVALS (by decide)] at hcount
  refine ⟨hheir.regsOk hdropped, ?_, hheir.itk.trans (hdrop.itk.trans rfl), ?_, ?_, ?_, ?_⟩
  · rw [hheir.orb, hdrop.orb]
    rfl
  · exact (hheir.fget hdropped (g := Reg.ORB_STATUS.STATE) (by decide)).trans ((hdrop.fget hcrowned (g := Reg.ORB_STATUS.STATE) (by decide)).trans hstate)
  · exact (hheir.fget hdropped (g := Reg.ORB_STATUS.PRIMARY) (by decide)).trans ((hdrop.fget hcrowned (g := Reg.ORB_STATUS.PRIMARY) (by decide)).trans hprimary)
  · exact (hheir.fget hdropped (g := Reg.ORB_STATUS.ADMITTED_MASK) (by decide)).trans hadm
  · exact (hheir.fget hdropped (g := Reg.ORB_STATS.REMOVALS) (by decide)).trans hcount

/-- The confirming heir with a strict majority takes over; without one it is isolated. -/
theorem heirConfirmTimeout_shows (hok : s.regsOk) (hp : s.portsOk) (hself : self s < 16) (h : s.orb.confirming = true) :
    ∃ t, exec .heirConfirmTimeout s = .next t ∧ t.orb.confirming = false ∧ t.itk = s.itk ∧
      (popcount 16 (admittedMask s) < 2 * witnesses s → orbState t = 3 ∧ fget t Reg.ORB_STATUS.PRIMARY = self s ∧
        admittedMask t = maskWithout s (fget s Reg.ORB_STATUS.PRIMARY) ∧ counted s t Reg.ORB_STATS.REMOVALS 1) ∧
      (2 * witnesses s ≤ popcount 16 (admittedMask s) → aloneIn s t) := by
  obtain ⟨body, hexec⟩ := exec_heirConfirmTimeout h
  refine ⟨_, hexec, ?_⟩
  by_cases hmajority : popcount 16 (admittedMask s) < 2 * witnesses s
  · obtain ⟨hregs, hconf, hitk, hstate, hprimary, hadm, hcount⟩ := succeeded_shows hok hself
    have hsend := toMembers_links (succeeded s) (maskWithout s (fget s Reg.ORB_STATUS.PRIMARY)) body
    rw [if_pos hmajority]
    refine ⟨?_, (congrArg State.itk hsend.frame :).trans hitk, fun _ => ⟨?_, ?_, ?_, ?_⟩, fun hminority => absurd hmajority (Nat.not_lt.2 hminority)⟩
    · exact (congrArg (fun t => t.orb.confirming) hsend.frame :).trans hconf
    · exact (hsend.low_fget hregs (f := Reg.ORB_STATUS.STATE) (by decide)).trans hstate
    · exact (hsend.low_fget hregs (f := Reg.ORB_STATUS.PRIMARY) (by decide)).trans hprimary
    · exact (hsend.low_fget hregs (f := Reg.ORB_STATUS.ADMITTED_MASK) (by decide)).trans hadm
    · exact (hsend.low_fget hregs (f := Reg.ORB_STATS.REMOVALS) (by decide)).trans hcount
  · have halone := confirmed_aloneIn hok hp hself
    rw [if_neg hmajority]
    obtain ⟨-, -, -, -, -, -, hconf, -, -⟩ := id halone
    exact ⟨hconf, isolate_itk (confirmed s), fun hmaj => absurd hmaj hmajority, fun _ => halone⟩

theorem exec_heirConfirmTimeout_idle (h : s.orb.confirming = false) : exec .heirConfirmTimeout s = .next s := by
  show execHeirConfirmTimeout s = _
  unfold execHeirConfirmTimeout
  rw [h]
  rfl

theorem exec_takeoverWaitTimeout (s : State) : exec .takeoverWaitTimeout s = .next (if s.orb.waitingTakeover then isolate s else s) := rfl

theorem takeoverWaitTimeout_alone (hok : s.regsOk) (hp : s.portsOk) (hself : self s < 16) (h : s.orb.waitingTakeover = true) :
    ∃ t, exec .takeoverWaitTimeout s = .next t ∧ aloneIn s t := by
  refine ⟨isolate s, ?_, isolate_aloneIn hok hp hself⟩
  rw [exec_takeoverWaitTimeout, if_pos h]

theorem takeoverWaitTimeout_idle (h : s.orb.waitingTakeover = false) : exec .takeoverWaitTimeout s = .next s := by
  rw [exec_takeoverWaitTimeout, h]
  rfl

end Sys2Proof.Machine
end
end

section
/-!
PROOFS. Power and faults between members (R319 to R321): PACE, REPORT, LIMIT, RELEASE, the power report and the loss of a primary that is heard.
-/
section
open Sys2Proof Sys2Proof.Machine
namespace Sys2Proof.Machine

variable {s t u : State} {n src m : Nat} {b : Bytes}

theorem counted_zero (s : State) (f : FieldRef) : counted s s f 0 := by
  have := Nat.two_pow_pos f.w
  have := fget_lt s f
  rw [counted]
  omega

theorem counted_add {f : FieldRef} {k l : Nat} (h : counted s t f k) (h' : counted t u f l) : counted s u f (k + l) := by
  rw [counted] at h h' ⊢
  omega

theorem counted_of_fget {f : FieldRef} {k : Nat} (h : counted s t f k) (hu : fget u f = fget t f) : counted s u f k := hu.trans h

theorem counted_from {f : FieldRef} {k : Nat} (h : counted s t f k) (hu : fget s f = fget u f) : counted u t f k := by
  rw [counted, ← hu]
  exact h

/-! ### PACE -/

/-- One member is told to slow for the pass `tag`. -/
def limitTo (body : Bytes) (tag : Nat) (s : State) (m : Nat) : State :=
  let u := sendMsg s (memberPort s m) 3 body
  fbump { u with orb := { u.orb with limited := u.orb.limited ++ [(m, tag)] } } Reg.ORB_STATS.LIMITS 1

/-- What telling the members `ms` to slow changes. -/
structure LimitedTo (ms : List Nat) (tag : Nat) (s t : State) : Prop where
  orb : t.orb = { s.orb with limited := s.orb.limited ++ ms.map (·, tag) }
  kv : t.kv = s.kv
  run : t.run = s.run
  img : t.img = s.img
  regs : s.regsOk → t.regsOk ∧ counted s t Reg.ORB_STATS.LIMITS ms.length ∧
    ∀ g : FieldRef, g.lo + g.w ≤ 64 → (∀ m, g.addr ≠ (Reg.TSX_INJ_COUNT.INJECTED m).addr) → Reg.ORB_STATS.LIMITS.Apart g → fget t g = fget s g
  ports : s.portsOk → t.portsOk ∧ ∀ m, (portAt s m).Keeps (portAt t m)

theorem limits_not_injected (k : Nat) : Reg.ORB_STATS.LIMITS.addr ≠ (Reg.TSX_INJ_COUNT.INJECTED k).addr := by
  simp only [Reg.ORB_STATS.LIMITS, Reg.TSX_INJ_COUNT.INJECTED, portBase]
  omega

theorem limitTo_limited (body : Bytes) (tag : Nat) (s : State) (m : Nat) : LimitedTo [m] tag s (limitTo body tag s m) := by
  have hsend := sendMsg_links s (memberPort s m) 3 body
  refine ⟨?_, (congrArg State.kv hsend.frame :), (congrArg State.run hsend.frame :), (congrArg State.img hsend.frame :), fun hok => ?_, hsend.ports⟩
  · exact (congrArg (fun u => { u.orb with limited := u.orb.limited ++ [(m, tag)] }) hsend.frame :)
  · obtain ⟨hregs, hsame⟩ := hsend.regs hok
    refine ⟨regsOk_fbump hregs .., ?_, fun g hg hlow ha => ?_⟩
    · have hcount : counted (sendMsg s (memberPort s m) 3 body) (limitTo body tag s m) Reg.ORB_STATS.LIMITS 1 := fbump_counted hregs _ _ (by decide)
      exact counted_from hcount (fget_of_rget _ (hsame _ limits_not_injected))
    · exact (fget_fbump_other hregs _ g 1 hg ha).trans (fget_of_rget g (hsame _ hlow))

theorem LimitedTo.nil (tag : Nat) (s : State) : LimitedTo [] tag s s :=
  ⟨by simp, rfl, rfl, rfl, fun hok => ⟨hok, counted_zero s _, fun _ _ _ _ => rfl⟩, fun hp => ⟨hp, fun _ => .refl _⟩⟩

theorem LimitedTo.append {ms ns : List Nat} {tag : Nat} (h : LimitedTo ms tag s t) (h' : LimitedTo ns tag t u) : LimitedTo (ms ++ ns) tag s u where
  orb := by
    rw [h'.orb, h.orb, List.map_append]
    simp only [List.append_assoc]
  kv := h'.kv.trans h.kv
  run := h'.run.trans h.run
  img := h'.img.trans h.img
  regs hok := by
    obtain ⟨ht, hcount, hfield⟩ := h.regs hok
    obtain ⟨hu, hcount', hfield'⟩ := h'.regs ht
    rw [List.length_append]
    exact ⟨hu, counted_add hcount hcount', fun g hg hlow ha => (hfield' g hg hlow ha).trans (hfield g hg hlow ha)⟩
  ports hp := by
    obtain ⟨ht, hkeeps⟩ := h.ports hp
    obtain ⟨hu, hkeeps'⟩ := h'.ports ht
    exact ⟨hu, fun m => (hkeeps m).trans (hkeeps' m)⟩

theorem limitTo_foldl (body : Bytes) (tag : Nat) (ms : List Nat) (s : State) : LimitedTo ms tag s (ms.foldl (limitTo body tag) s) := by
  induction ms generalizing s with
  | nil => exact .nil tag s
  | cons m ms ih => exact (limitTo_limited body tag s m).append (ih _)

theorem LimitedTo.memberPort {ms : List Nat} {tag : Nat} (h : LimitedTo ms tag s t) (m : Nat) : memberPort t m = memberPort s m := by
  unfold Machine.memberPort
  rw [h.img]

theorem LimitedTo.portActive {ms : List Nat} {tag : Nat} (h : LimitedTo ms tag s t) (hok : s.regsOk) (k : Nat) : portActive t k = portActive s k := by
  obtain ⟨-, -, hfield⟩ := h.regs hok
  rw [Machine.portActive, Machine.portActive, hfield (Reg.TSX_STATUS.STATE k) (show 0 + 3 ≤ 64 by decide)]
  · intro j
    simp only [Reg.TSX_INJ_COUNT.INJECTED, Reg.TSX_STATUS.STATE, portBase]
    omega
  · refine .inl ?_
    simp only [Reg.ORB_STATS.LIMITS, Reg.TSX_STATUS.STATE, portBase]
    omega

/-- Each of the members whose port is active is sent the LIMIT. -/
theorem limitTo_foldl_sends {body : Bytes} (hlen : body.length < 2 ^ 16) (tag : Nat) {ms : List Nat} (hok : s.regsOk) (hp : s.portsOk) (hm : m ∈ ms)
    (hactive : portActive s (memberPort s m) = true) : sends (ms.foldl (limitTo body tag) s) (memberPort s m) 3 body := by
  induction ms generalizing s with
  | nil => exact absurd hm List.not_mem_nil
  | cons k ms ih =>
    have hone := limitTo_limited body tag s k
    obtain ⟨hregs, -⟩ := hone.regs hok
    obtain ⟨hports, -⟩ := hone.ports hp
    obtain rfl | hm := List.mem_cons.1 hm
    · have hsent : sends (limitTo body tag s m) (memberPort s m) 3 body := sendMsg_sends hp hactive (by decide) hlen
      exact (((limitTo_foldl body tag ms _).ports hports).2 _).sends hsent
    · have hlater := ih hregs hports hm (by rw [hone.memberPort, hone.portActive hok, hactive])
      rwa [hone.memberPort] at hlater

/-- A member's delay that the primary has counted. -/
def paced (s : State) (src : Nat) (b : Bytes) : State :=
  fbump { s with orb := { s.orb with paced := s.orb.paced ++ [(src, rd b 4 4, rd b 8 4)] } } Reg.ORB_STATS.PACE 1

/-- The other members of a pass that announced no delay for it. -/
def unpaced (s : State) (src : Nat) (b : Bytes) (r : Nat) : List Nat :=
  (otherMembers s r).filter fun m => !((s.orb.paced ++ [(src, rd b 4 4, rd b 8 4)]).any fun p => p.1 == m && p.2.1 == rd b 4 4)

/-- The body of the LIMIT that a PACE calls for. -/
def paceLimit (b : Bytes) : Bytes := [2, 64, 0] ++ leBytes 4 (rd b 8 4 + 10) ++ leBytes 4 (rd b 4 4)

theorem popFlit_unpaced (s : State) (n vc src : Nat) (b : Bytes) (r : Nat) : unpaced (popFlit s n vc) src b r = unpaced s src b r := by
  simp only [unpaced, otherMembers, popFlit_orbitMask, popFlit_img, popFlit_orb]

theorem popFlit_collOf (s : State) (n vc tag : Nat) (out : Bool) : collOf (popFlit s n vc) tag out = collOf s tag out := by
  unfold collOf
  rw [popFlit_orb]

theorem popFlit_collRegions (s : State) (n vc tag : Nat) : collRegions (popFlit s n vc) tag = collRegions s tag := by
  unfold collRegions orbitRegion
  rw [popFlit_run, popFlit_img]

theorem popFlit_memberPort (s : State) (n vc m : Nat) : memberPort (popFlit s n vc) m = memberPort s m := by
  unfold memberPort
  rw [popFlit_img]

theorem exec_paceMsg {r : Nat} {rs : List Nat} (h : msgFront s n 2 src b) (hprimary : orbState s = 3) (hregion : collRegions s (rd b 4 4) = r :: rs)
    (hcoll : (collOf s (rd b 4 4) false).complete = false) :
    exec (.paceMsg n) s = .next ((unpaced s src b r).foldl (limitTo (paceLimit b) (rd b 4 4)) (paced (popFlit s n 0) src b)) := by
  have hrs : collRegions (paced (popFlit s n 0) src b) (rd b 4 4) = r :: rs := (popFlit_collRegions ..).trans hregion
  have hnot : (collOf (paced (popFlit s n 0) src b) (rd b 4 4) false).complete = false := (congrArg Coll.complete (popFlit_collOf s n 0 _ _) :).trans hcoll
  rw [← popFlit_unpaced s n 0]
  show execPaceMsg n s = _
  refine (onMsg_any h _).trans (congrArg Host.Outcome.next ?_)
  refine (if_neg (fun hne => hne ((popFlit_orbState s n 0).trans hprimary))).trans ?_
  change (match collRegions (paced (popFlit s n 0) src b) (rd b 4 4) with | [] => _ | r :: _ => _) = _
  rw [hrs]
  exact if_neg fun hc => absurd (hnot.symm.trans hc) (by decide)

theorem exec_paceMsg_elsewhere (h : msgFront s n 2 src b) (hmoon : orbState s ≠ 3) : exec (.paceMsg n) s = .next (popFlit s n 0) := by
  show execPaceMsg n s = _
  refine (onMsg_any h _).trans (congrArg Host.Outcome.next ?_)
  exact if_pos (by rw [popFlit_orbState]; exact hmoon)

theorem paceMsg_shows {r : Nat} {rs : List Nat} (hok : s.regsOk) (hp : s.portsOk) (h : msgFront s n 2 src b) (hprimary : orbState s = 3)
    (hregion : collRegions s (rd b 4 4) = r :: rs) (hcoll : (collOf s (rd b 4 4) false).complete = false) : ∃ t, exec (.paceMsg n) s = .next t ∧
      t.orb.paced = s.orb.paced ++ [(src, rd b 4 4, rd b 8 4)] ∧ t.orb.limited = s.orb.limited ++ (unpaced s src b r).map (·, rd b 4 4) ∧
      counted s t Reg.ORB_STATS.PACE 1 ∧ counted s t Reg.ORB_STATS.LIMITS (unpaced s src b r).length ∧ t.kv = s.kv ∧ t.run = s.run ∧
      ∀ m ∈ unpaced s src b r, portActive s (memberPort s m) = true → sends t (memberPort s m) 3 (paceLimit b) := by
  have hpop := popFlit_regsOk hok n 0
  have hpaced : (paced (popFlit s n 0) src b).regsOk := regsOk_fbump (s := { popFlit s n 0 with orb := _ }) hpop ..
  have hports : (paced (popFlit s n 0) src b).portsOk := (popFlit_ports hp n 0).1
  have hpace : counted (popFlit s n 0) (paced (popFlit s n 0) src b) Reg.ORB_STATS.PACE 1 :=
    fbump_counted (s := { popFlit s n 0 with orb := { (popFlit s n 0).orb with paced := (popFlit s n 0).orb.paced ++ [(src, rd b 4 4, rd b 8 4)] } }) hpop _ _ (by decide)
  have hother : ∀ g : FieldRef, g.lo + g.w ≤ 64 → Reg.ORB_STATS.PACE.Apart g → fget (paced (popFlit s n 0) src b) g = fget s g := fun g hg ha =>
    (fget_fbump_other (s := { popFlit s n 0 with orb := _ }) hpop _ g 1 hg ha).trans (popFlit_fget s n 0 g)
  have hall := limitTo_foldl (paceLimit b) (rd b 4 4) (unpaced s src b r) (paced (popFlit s n 0) src b)
  obtain ⟨-, hcount, hfield⟩ := hall.regs hpaced
  have horb : (paced (popFlit s n 0) src b).orb = { s.orb with paced := s.orb.paced ++ [(src, rd b 4 4, rd b 8 4)] } :=
    congrArg (fun o : OrbitSt => { o with paced := o.paced ++ [(src, rd b 4 4, rd b 8 4)] }) (popFlit_orb s n 0)
  refine ⟨_, exec_paceMsg h hprimary hregion hcoll, ?_, ?_, ?_, ?_, hall.kv.trans (popFlit_kv ..), hall.run.trans (popFlit_run ..), fun m hm hactive => ?_⟩
  · exact (congrArg OrbitSt.paced hall.orb :).trans (congrArg OrbitSt.paced horb :)
  · exact (congrArg OrbitSt.limited hall.orb :).trans (congrArg (fun o : OrbitSt => o.limited ++ (unpaced s src b r).map (·, rd b 4 4)) horb :)
  · refine counted_of_fget (counted_from hpace (popFlit_fget ..)) (hfield _ (by decide) (fun k => ?_) (by decide))
    simp only [Reg.ORB_STATS.PACE, Reg.TSX_INJ_COUNT.INJECTED, portBase]
    omega
  · exact counted_from hcount (hother _ (by decide) (by decide))
  · have hlen : (paceLimit b).length < 2 ^ 16 := by
      simp only [paceLimit, List.length_append, length_leBytes, List.length_cons, List.length_nil]
      decide
    have hport : memberPort (paced (popFlit s n 0) src b) m = memberPort s m := popFlit_memberPort ..
    have hactive' : portActive (paced (popFlit s n 0) src b) (memberPort (paced (popFlit s n 0) src b) m) = true := by
      rw [hport, portActive, hother _ (show 0 + 3 ≤ 64 by decide) (.inl ?_)]
      · exact hactive
      · simp only [Reg.ORB_STATS.PACE, Reg.TSX_STATUS.STATE, portBase]
        omega
    have hsent := limitTo_foldl_sends hlen (rd b 4 4) hpaced hports hm hactive'
    rwa [hport] at hsent

/-! ### REPORT and the power report -/

/-- What a REPORT says of its member. -/
def reportOf (b : Bytes) : MemberReport := { inputDw := rd b 1 2, capDw := rd b 3 2, activity := rd b 5 1, reasons := rd b 6 1 }

theorem exec_reportMsg (h : msgFront s n 3 src b) (hop : rd b 0 1 = 1) (hprimary : orbState s = 3) : exec (.reportMsg n) s =
    .next { popFlit s n 0 with orb := { s.orb with reports := sset (fun _ => none) s.orb.reports src (some (reportOf b)) } } := by
  rw [← popFlit_orb s n 0]
  show execReportMsg n s = _
  refine (onMsg_op h hop _).trans (congrArg Host.Outcome.next ?_)
  exact if_neg fun hne => hne ((popFlit_orbState s n 0).trans hprimary)

theorem reportMsg_shows (h : msgFront s n 3 src b) (hop : rd b 0 1 = 1) (hprimary : orbState s = 3)
    (hreports : swf (fun _ => (none : Option MemberReport)) s.orb.reports = true) : ∃ t, exec (.reportMsg n) s = .next t ∧
      t = { s with tsx := t.tsx, orb := { s.orb with reports := t.orb.reports } } ∧ sget (fun _ => none) t.orb.reports src = some (reportOf b) ∧
      ∀ m, m ≠ src → sget (fun _ => none) t.orb.reports m = sget (fun _ => none) s.orb.reports m := by
  refine ⟨_, exec_reportMsg h hop hprimary, ?_, sget_sset_same hreports, fun m hm => sget_sset_ne hreports hm⟩
  rw [popFlit_eq]

/-- The power that a moon reports to its primary. -/
def powerBody (s : State) : Bytes :=
  [1] ++ leBytes 2 (fget s Reg.PWR_STATUS.INPUT_DW) ++ leBytes 2 (fget s Reg.PWR_CAP.CAP_DW) ++
    leBytes 1 (min 255 (((List.range 4).map fun h => fget s (Reg.PWR_HALL_STATUS.ACTIVITY h)).sum / 4)) ++ leBytes 1 (fget s Reg.PWR_STATUS.REASONS)

theorem exec_powerReportTimer (s : State) : exec .powerReportTimer s =
    .next (if orbState s ≠ 2 then s else sendMsg s (memberPort s (fget s Reg.ORB_STATUS.PRIMARY)) 3 (powerBody s)) := rfl

theorem powerReportTimer_sends (hp : s.portsOk) (hmoon : orbState s = 2) (hactive : portActive s (memberPort s (fget s Reg.ORB_STATUS.PRIMARY)) = true) :
    ∃ t, exec .powerReportTimer s = .next t ∧ t = s.withLinks t ∧ sends t (memberPort s (fget s Reg.ORB_STATUS.PRIMARY)) 3 (powerBody s) := by
  have hlen : (powerBody s).length < 2 ^ 16 := by
    simp only [powerBody, List.length_append, length_leBytes, List.length_cons, List.length_nil]
    decide
  refine ⟨sendMsg s (memberPort s (fget s Reg.ORB_STATUS.PRIMARY)) 3 (powerBody s), ?_, (sendMsg_links ..).frame, sendMsg_sends hp hactive (by decide) hlen⟩
  rw [exec_powerReportTimer, if_neg (fun hne => hne hmoon)]

/-! ### LIMIT and RELEASE -/

/-- A pass is marked THROTTLED. -/
def throttled (s : State) (r : Nat) : State := modPass s r fun p => { p with flags := p.flags ||| 32 }

/-- The limit of a message, in force and counted. -/
def limitHeard (s : State) (b : Bytes) : State := fbump { s with orb := { s.orb with limit := some (rd b 1 1, rd b 7 4) } } Reg.ORB_STATS.LIMITS 1

theorem throttled_foldl_frame (rs : List Nat) (s : State) : rs.foldl throttled s = { s with run := (rs.foldl throttled s).run } := by
  induction rs generalizing s with
  | nil => rfl
  | cons r rs ih => exact (ih (throttled s r)).trans rfl

/-- A pass that is marked stays in flight, and marked. -/
theorem throttled_passOf {r k : Nat} {p : Pass} (h : passOf s r = some p) : ∃ q, passOf (throttled s k) r = some q ∧
    ((p.flags.testBit 5 = true ∨ k = r) → q.flags.testBit 5 = true) := by
  have hregion : ∀ x : Pass, ({ x with flags := x.flags ||| 32 } : Pass).region = x.region := fun _ => rfl
  by_cases hk : k = r
  · subst hk
    refine ⟨{ p with flags := p.flags ||| 32 }, ?_, fun _ => ?_⟩
    · rw [throttled, passOf_modPass k _ hregion, h]
      rfl
    · simp [Nat.testBit_or, (by decide : Nat.testBit 32 5 = true)]
  · exact ⟨p, (passOf_modPass_ne _ hregion (Ne.symm hk)).trans h, fun hf => hf.resolve_right hk⟩

theorem throttled_foldl_passOf {rs : List Nat} {r : Nat} {p : Pass} (h : passOf s r = some p) (hmark : p.flags.testBit 5 = true ∨ r ∈ rs) :
    ∃ q, passOf (rs.foldl throttled s) r = some q ∧ q.flags.testBit 5 = true := by
  induction rs generalizing s p with
  | nil => exact ⟨p, h, hmark.resolve_right List.not_mem_nil⟩
  | cons k rs ih =>
    obtain ⟨q, hq, hflag⟩ := throttled_passOf (k := k) h
    refine ih hq ?_
    obtain hp | hr := hmark
    · exact .inl (hflag (.inl hp))
    · obtain rfl | hr := List.mem_cons.1 hr
      · exact .inl (hflag (.inr rfl))
      · exact .inr hr

theorem exec_limitMsg (h : msgFront s n 3 src b) (hop : rd b 0 1 = 2) (hmoon : orbState s = 2) (hsrc : src = fget s Reg.ORB_STATUS.PRIMARY)
    (hcoll : (collOf s (rd b 7 4) false).complete = false) (hlimit : 64 ≤ rd b 1 1) :
    exec (.limitMsg n) s = .next ((collRegions s (rd b 7 4)).foldl throttled (limitHeard (popFlit s n 0) b)) := by
  have hgo : (decide (orbState (popFlit s n 0) ≠ 2) || decide (src ≠ fget (popFlit s n 0) Reg.ORB_STATUS.PRIMARY) || (collOf (popFlit s n 0) (rd b 7 4) false).complete ||
      decide (rd b 1 1 < 64)) = false := by
    rw [popFlit_orbState, popFlit_fget, popFlit_collOf, hcoll, hmoon, ← hsrc]
    simpa using hlimit
  rw [← popFlit_collRegions s n 0]
  show execLimitMsg n s = _
  refine (onMsg_op h hop _).trans (congrArg Host.Outcome.next ?_)
  exact if_neg (by rw [hgo]; decide)

theorem limitMsg_shows (hok : s.regsOk) (h : msgFront s n 3 src b) (hop : rd b 0 1 = 2) (hmoon : orbState s = 2) (hsrc : src = fget s Reg.ORB_STATUS.PRIMARY)
    (hcoll : (collOf s (rd b 7 4) false).complete = false) (hlimit : 64 ≤ rd b 1 1) : ∃ t, exec (.limitMsg n) s = .next t ∧
      t.orb = { s.orb with limit := some (rd b 1 1, rd b 7 4) } ∧ counted s t Reg.ORB_STATS.LIMITS 1 ∧ t.kv = s.kv ∧
      ∀ r ∈ collRegions s (rd b 7 4), ∀ p, passOf s r = some p → ∃ q, passOf t r = some q ∧ q.flags.testBit 5 = true := by
  have hframe := throttled_foldl_frame (collRegions s (rd b 7 4)) (limitHeard (popFlit s n 0) b)
  have hpop := popFlit_regsOk hok n 0
  have hcount : counted (popFlit s n 0) (limitHeard (popFlit s n 0) b) Reg.ORB_STATS.LIMITS 1 :=
    fbump_counted (s := { popFlit s n 0 with orb := { (popFlit s n 0).orb with limit := some (rd b 1 1, rd b 7 4) } }) hpop _ _ (by decide)
  refine ⟨_, exec_limitMsg h hop hmoon hsrc hcoll hlimit, ?_, ?_, ?_, fun r hr p hpass => ?_⟩
  · exact (congrArg State.orb hframe :).trans (congrArg (fun o : OrbitSt => { o with limit := some (rd b 1 1, rd b 7 4) }) (popFlit_orb s n 0))
  · exact counted_of_fget (counted_from hcount (popFlit_fget ..)) (fget_of_regs (congrArg State.regs hframe :) _)
  · exact (congrArg State.kv hframe :).trans (popFlit_kv ..)
  · refine throttled_foldl_passOf (p := p) ?_ (.inr hr)
    have hrun : (limitHeard (popFlit s n 0) b).run = s.run := popFlit_run ..
    rw [passOf, hrun]
    exact hpass

theorem exec_releaseMsg (h : msgFront s n 3 src b) (hop : rd b 0 1 = 3) : exec (.releaseMsg n) s =
    .next { popFlit s n 0 with orb := { s.orb with limit := s.orb.limit.filter fun l => l.2 != rd b 1 4 } } := by
  rw [← popFlit_orb s n 0]
  show execReleaseMsg n s = _
  exact onMsg_op h hop _

theorem releaseMsg_shows (h : msgFront s n 3 src b) (hop : rd b 0 1 = 3) : ∃ t, exec (.releaseMsg n) s = .next t ∧
    t = { s with tsx := t.tsx, orb := { s.orb with limit := t.orb.limit } } ∧ t.orb.limit = s.orb.limit.filter fun l => l.2 != rd b 1 4 := by
  refine ⟨_, exec_releaseMsg h hop, ?_, rfl⟩
  rw [popFlit_eq]

/-! ### A fault that is heard -/

theorem exec_faultMsg_lost (h : msgFront s n 4 src b) (hop : rd b 0 1 = 2) (hport : rd b 2 1 < 15) :
    exec (.faultMsg n) s = .next (lossReported (popFlit s n 0) src (rd b 2 1)) := by
  show execFaultMsg n s = _
  refine (onMsg_any h _).trans (congrArg Host.Outcome.next ?_)
  rw [hop]
  exact if_pos hport

/-- Member `src` named the primary lost for the first time. -/
def losesPrimary (s : State) (src p : Nat) : Prop := orbState s = 2 ∧ (src + p + 1) % 16 = fget s Reg.ORB_STATUS.PRIMARY ∧ src ∉ s.orb.primaryLostBy

theorem lossReported_lost (h : losesPrimary s src m) : lossReported s src m = { s with orb := { s.orb with primaryLostBy := s.orb.primaryLostBy ++ [src] } } :=
  if_pos (by simpa [and_assoc, losesPrimary] using h)

theorem lossReported_same (h : ¬ losesPrimary s src m) : lossReported s src m = s :=
  if_neg (by simpa [and_assoc, losesPrimary] using h)

theorem lossReported_frame (s : State) (src p : Nat) : lossReported s src p = { s with orb := { s.orb with primaryLostBy := (lossReported s src p).orb.primaryLostBy } } := by
  by_cases hnew : losesPrimary s src p
  · rw [lossReported_lost hnew]
  · rw [lossReported_same hnew]

/-- A member is named once among those that lost the primary. -/
theorem lossReported_names (s : State) (src p : Nat) : (lossReported s src p).orb.primaryLostBy =
    if orbState s = 2 ∧ (src + p + 1) % 16 = fget s Reg.ORB_STATUS.PRIMARY ∧ src ∉ s.orb.primaryLostBy then s.orb.primaryLostBy ++ [src] else s.orb.primaryLostBy := by
  by_cases hnew : losesPrimary s src p
  · rw [lossReported_lost hnew]
    exact (if_pos hnew).symm
  · rw [lossReported_same hnew]
    exact (if_neg hnew).symm

theorem faultMsg_lost (h : msgFront s n 4 src b) (hop : rd b 0 1 = 2) (hport : rd b 2 1 < 15) : ∃ t, exec (.faultMsg n) s = .next t ∧
    t = { s with tsx := t.tsx, orb := { s.orb with primaryLostBy := t.orb.primaryLostBy } } ∧
    t.orb.primaryLostBy = if orbState s = 2 ∧ (src + rd b 2 1 + 1) % 16 = fget s Reg.ORB_STATUS.PRIMARY ∧ src ∉ s.orb.primaryLostBy
      then s.orb.primaryLostBy ++ [src] else s.orb.primaryLostBy := by
  have hnames := lossReported_names (popFlit s n 0) src (rd b 2 1)
  rw [popFlit_orbState, popFlit_fget, popFlit_orb] at hnames
  refine ⟨_, exec_faultMsg_lost h hop hport, ?_, hnames⟩
  rw [lossReported_frame, popFlit_eq]

end Sys2Proof.Machine
end
end

section
/-!
PROOFS. Collectives go as far as they can (R315 to R319, R323): what their steps keep; a collective that times out is poisoned. O43.
-/
section
open Sys2Proof Sys2Proof.Machine
namespace Sys2Proof.Machine

variable {s t u : State} {c : Coll} {tag : Nat}

/-! ### Collectives kept -/

theorem collOf_is (s : State) (tag : Nat) (out : Bool) : Coll.is tag out (collOf s tag out) = true := by
  unfold collOf
  cases hc : s.orb.colls.find? (Coll.is tag out) with
  | none => cases out <;> simp [Coll.is, freshColl]
  | some c => exact List.find?_some hc

theorem collOf_tag (s : State) (tag : Nat) (out : Bool) : (collOf s tag out).tag = tag := by
  have h := collOf_is s tag out
  rw [Coll.is, Bool.and_eq_true, beq_iff_eq] at h
  exact h.left

theorem collOf_inward (s : State) (tag : Nat) : (collOf s tag false).kind ≠ 3 := by
  have h := collOf_is s tag false
  rw [Coll.is, Bool.and_eq_true] at h
  simpa using h.right

/-- A collective is found as it was kept. -/
theorem collOf_putColl_same (hkind : c.kind ≠ 3) : collOf (putColl s c) c.tag false = c := by
  have hout : (c.kind == 3) = false := by simpa using hkind
  have his : Coll.is c.tag false c = true := by simp [Coll.is, hkind]
  simp only [collOf, putColl, hout]
  split
  · next hany =>
    obtain ⟨x, hx⟩ := Option.isSome_iff_exists.1 (List.find?_isSome.2 (List.any_eq_true.1 hany))
    rw [find_modFirst _ _ _ fun _ _ => his, hx]
    rfl
  · next hnone =>
    have hnot : s.orb.colls.find? (Coll.is c.tag false) = none := by
      simpa [List.find?_eq_none] using hnone
    rw [List.find?_append, hnot]
    simp [his]

/-- What is kept under one name leaves what another name finds. -/
theorem collOf_putColl_other (h : tag ≠ c.tag ∨ c.kind = 3) : collOf (putColl s c) tag false = collOf s tag false := by
  have hother : ∀ x, Coll.is c.tag (c.kind == 3) x = true → Coll.is tag false x = false := by
    intro x hx
    simp only [Coll.is, Bool.and_eq_true, beq_iff_eq] at hx
    obtain ⟨htag, hout⟩ := hx
    obtain ht | hk := h
    · have : x.tag ≠ tag := fun he => ht (he.symm.trans htag)
      simp [Coll.is, this]
    · simp [Coll.is, hout, hk]
  have hself : Coll.is tag false c = false := hother c (by simp [Coll.is])
  simp only [collOf, putColl]
  split
  · rw [find_modFirst_other _ _ _ _ hother fun _ _ => hself]
  · rw [List.find?_append, List.find?_cons, hself]
    simp

/-! ### What the steps keep -/

/-- Between `s` and `t` collectives went further: what has arrived of each stays, and so do sessions, commands, the image and the registers but the
ports'. -/
structure CollStep (s t : State) : Prop where
  kv : t.kv = s.kv
  itk : t.itk = s.itk
  img : t.img = s.img
  got : ∀ tag, (collOf t tag false).got = (collOf s tag false).got
  regs : s.regsOk → t.regsOk ∧ ∀ a < 0x300000, rget t a = rget s a

theorem CollStep.refl (s : State) : CollStep s s := ⟨rfl, rfl, rfl, fun _ => rfl, fun h => ⟨h, fun _ _ => rfl⟩⟩

theorem CollStep.trans (h : CollStep s t) (h' : CollStep t u) : CollStep s u where
  kv := h'.kv.trans h.kv
  itk := h'.itk.trans h.itk
  img := h'.img.trans h.img
  got tag := (h'.got tag).trans (h.got tag)
  regs hok := by
    obtain ⟨ht, hreg⟩ := h.regs hok
    obtain ⟨hu, hreg'⟩ := h'.regs ht
    exact ⟨hu, fun a ha => (hreg' a ha).trans (hreg a ha)⟩

theorem CollStep.ite {p : Prop} [Decidable p] (h : CollStep s t) (h' : CollStep s u) : CollStep s (if p then t else u) := by
  split
  · exact h
  · exact h'

theorem CollStep.foldl {α : Type} {f : State → α → State} (hf : ∀ u x, CollStep u (f u x)) (l : List α) (s : State) : CollStep s (l.foldl f s) := by
  induction l generalizing s with
  | nil => exact .refl s
  | cons x xs ih => exact (hf s x).trans (ih _)

theorem collOf_of_orb (h : t.orb.colls = s.orb.colls) (tag : Nat) (out : Bool) : collOf t tag out = collOf s tag out := by
  rw [collOf, h, collOf]

theorem LinksSend.coll (h : LinksSend s t) : CollStep s t where
  kv := (congrArg State.kv h.frame :)
  itk := (congrArg State.itk h.frame :)
  img := (congrArg State.img h.frame :)
  got tag := congrArg Coll.got (collOf_of_orb (congrArg (fun t => t.orb.colls) h.frame :) tag false)
  regs hok := ⟨(h.regs hok).1, fun _ ha => h.low hok ha⟩

/-- A collective that holds what its kept form has received, unless it is a crossing that goes out. -/
def Received (s : State) (c : Coll) : Prop := c.kind ≠ 3 → c.got = (collOf s c.tag false).got

theorem Received.step (h : Received s c) (hst : CollStep s t) : Received t c := fun hk => (h hk).trans (hst.got c.tag).symm

theorem putColl_step (h : Received s c) : CollStep s (putColl s c) := by
  refine ⟨rfl, rfl, rfl, fun tag => ?_, fun hok => ⟨hok, fun _ _ => rfl⟩⟩
  by_cases hsame : tag ≠ c.tag ∨ c.kind = 3
  · rw [collOf_putColl_other hsame]
  · obtain ⟨htag, hkind⟩ := not_or.1 hsame
    rw [not_not.1 htag, collOf_putColl_same hkind, h hkind]

theorem freeDraw_step (s : State) : CollStep s (freeDraw s).2 := ⟨rfl, rfl, rfl, fun _ => rfl, fun h => ⟨h, fun _ _ => rfl⟩⟩

theorem sendFragment_step (s : State) (n tag src : Nat) (f : Nat × List PVal) : CollStep s (sendFragment s n tag src f) :=
  (freeDraw_step s).trans (sendTxn_links ..).coll

theorem sendRuns_step (s : State) (ports : List Nat) (tag : Nat) (runs : List (Nat × List PVal)) : CollStep s (sendRuns s ports tag runs) :=
  .ite (.refl s) (.foldl (fun u _ => sendFragment_step u ..) _ s)

theorem sendMembers_step (s : State) (ms : List Nat) (tag : Nat) (runs : List (Nat × List PVal)) : CollStep s (sendMembers s ms tag runs) :=
  .foldl (fun u _ => sendRuns_step u ..) _ s

theorem putOut_step (s : State) (r st q v : Nat) (ys : List PVal) : CollStep s (putOut s r st q v ys) :=
  ⟨rfl, rfl, rfl, fun _ => rfl, fun h => ⟨h, fun _ _ => rfl⟩⟩

/-- The state of a fold that carries a result beside it. -/
theorem foldl_fst_step {α β : Type} {f : State × β → α → State × β} (hf : ∀ u x, CollStep u.1 (f u x).1) (l : List α) (u : State × β) :
    CollStep u.1 (l.foldl f u).1 := by
  induction l generalizing u with
  | nil => exact .refl u.1
  | cons x xs ih => exact (hf u x).trans (ih _)

theorem putOuts_step (s : State) (p : Pass) (st : Nat) (adapt : Bool) (ys : List PVal) : CollStep s (putOuts s p st adapt ys).1 :=
  foldl_fst_step (f := fun (acc : State × List PVal) (vq : Nat × Nat) => (putOut acc.1 p.region st vq.2 vq.1 _, _)) (fun u _ => putOut_step u.1 ..) _ (s, [])

/-- The primary releases the members it limited for a collective. -/
def releaseMembers (s : State) (tag : Nat) : State :=
  (s.orb.limited.filter fun l => l.2 == tag).foldl (fun s l => sendMsg s (memberPort s l.1) 3 ([3] ++ leBytes 4 tag)) s

theorem completeColl_step (h : Received s c) : CollStep s (completeColl s c) := by
  have hput : CollStep s (putColl s { c with complete := true }) := putColl_step h
  have hrelease : LinksSend (putColl s { c with complete := true }) (releaseMembers (putColl s { c with complete := true }) c.tag) :=
    .foldl (fun u _ => sendMsg_links u ..) _ _
  exact (hput.trans hrelease.coll).trans ⟨rfl, rfl, rfl, fun _ => rfl, fun h => ⟨h, fun _ _ => rfl⟩⟩

/-! ### The steps of a pass's collectives -/

theorem takeChildren_received (h : Received s c) (ms kids : List Nat) (total : Nat) : Received s (takeChildren c ms kids total) := by
  unfold takeChildren
  induction kids.zipIdx generalizing c with
  | nil => exact h
  | cons k ks ih =>
    rw [List.foldl_cons]
    refine ih ?_
    split
    · split
      · exact h
      · exact h
    · exact h

/-- A rank below the root hands its sum up once, and takes the result when it has come. -/
theorem reduceChild_step (h : Received s c) (p : Pass) (st : Nat) (ports : List Nat) (res : Option (List PVal)) :
    CollStep s (match res with
      | none => putColl (if c.sent then s else sendRuns s ports c.tag [(0, c.value)]) { c with sent := true }
      | some ys => completeColl (putOuts (if c.sent then s else sendRuns s ports c.tag [(0, c.value)]) p st false ys).1 { c with sent := true }) := by
  have hsend : CollStep s (if c.sent then s else sendRuns s ports c.tag [(0, c.value)]) := .ite (.refl s) (sendRuns_step ..)
  have hsent : Received s { c with sent := true } := h
  cases res with
  | none => exact hsend.trans (putColl_step (hsent.step hsend))
  | some ys =>
    have houts := hsend.trans (putOuts_step (if c.sent then s else sendRuns s ports c.tag [(0, c.value)]) p st false ys)
    exact houts.trans (completeColl_step (hsent.step houts))

theorem reduceStep_step (h : Received s c) (p : Pass) (st mask : Nat) : CollStep s (reduceStep s p st mask c) := by
  unfold reduceStep
  dsimp only
  generalize (if c.ready then some c.value else _) = value
  cases value with
  | none => exact putColl_step h
  | some xs =>
    have htaken := takeChildren_received (c := { c with ready := true, value := xs }) h (maskList mask) (childRanks (rankIn s (maskList mask)) (maskList mask).length)
      (p.vecs.length * stageN s p st)
    dsimp only
    generalize takeChildren _ _ _ _ = d at htaken ⊢
    refine .ite (.refl s) (.ite (putColl_step htaken) (.ite (putColl_step htaken) (.ite ?_ (reduceChild_step htaken ..))))
    have hsend := (putOuts_step s p st true d.value).trans (sendMembers_step _ (maskList mask) d.tag [(0, (putOuts s p st true d.value).2)])
    have hsent : Received s { d with sent := true } := htaken
    exact hsend.trans (completeColl_step (hsent.step hsend))

/-- The parts of a gathered output stand. -/
theorem putOutParts_step (r st : Nat) (vals : List ((Nat × Nat) × Option (List PVal))) (s : State) :
    CollStep s (vals.foldl (fun s x => putOut s r st x.1.2 x.1.1 (x.2.getD [])) s) := .foldl (fun u _ => putOut_step u ..) _ s

theorem gatherStep_step (h : Received s c) (p : Pass) (st mask : Nat) : CollStep s (gatherStep s p st mask c) := by
  unfold gatherStep
  dsimp only
  cases ownedRuns s p st (maskList mask) with
  | none => exact putColl_step h
  | some runs =>
    have hsend : CollStep s (if c.sent then s else sendMembers s (maskList mask) c.tag runs) := .ite (.refl s) (sendMembers_step ..)
    have hsent : Received s { c with ready := true, sent := true } := h
    refine .ite (.refl s) (.ite ?_ (hsend.trans (putColl_step (hsent.step hsend))))
    exact (hsend.trans (putOutParts_step ..)).trans (completeColl_step (hsent.step (hsend.trans (putOutParts_step ..))))

theorem transitOutStep_step (h : Received s c) (p : Pass) (st mask : Nat) : CollStep s (transitOutStep s p st mask c) := by
  unfold transitOutStep
  refine .ite (.refl s) ?_
  cases ownedRuns s p st (maskList mask) with
  | none => exact putColl_step h
  | some runs =>
    have hsend := sendRuns_step s ((downPorts s).filter fun n => (portAt s n).admitted) c.tag runs
    have hsent : Received s { c with ready := true, sent := true, complete := true } := h
    exact hsend.trans (putColl_step (hsent.step hsend))

/-- The member's own groups of a crossing go on to the others. -/
theorem forwardInput_step (h : Received s c) (ready : Bool) (ms : List Nat) (runs : List (Nat × List PVal)) :
    CollStep s (if ready then putColl (sendMembers s ms c.tag runs) { c with sent := true } else putColl s c) := by
  have hsent : Received s { c with sent := true } := h
  exact .ite ((sendMembers_step ..).trans (putColl_step (hsent.step (sendMembers_step ..)))) (putColl_step h)

theorem transitInStep_step (h : Received s c) (p : Pass) : CollStep s (transitInStep s p c) := by
  have hsent : Received s { c with sent := true } := h
  exact .ite ((forwardInput_step h ..).trans (completeColl_step (hsent.step (forwardInput_step h ..)))) (forwardInput_step h ..)

theorem received_collOf (s : State) (tag region stage kind : Nat) :
    Received s { collOf s tag false with region := region, stage := stage, kind := kind } := fun _ =>
  congrArg (fun k => (collOf s k false).got) (collOf_tag s tag false).symm

/-- One orbit stage of a pass goes as far as it can. -/
def syncEntry (r : Nat) (s : State) (e : Nat × Nat × Nat × Nat) : State :=
  match passOf s r with
  | none => s
  | some p => match e.2.1 with
    | 1 => reduceStep s p e.2.2.1 e.2.2.2 { collOf s (collTag s p e.2.2.1) false with region := r, stage := e.2.2.1, kind := 1 }
    | 2 => gatherStep s p e.2.2.1 e.2.2.2 { collOf s (collTag s p e.2.2.1) false with region := r, stage := e.2.2.1, kind := 2 }
    | _ => if s.img.bound.orbit.stage + 1 < s.img.bound.orbit.stages
      then transitOutStep s p e.2.2.1 e.2.2.2 { collOf s (transitTag p) true with region := r, stage := e.2.2.1 } else s

theorem syncEntry_step (r : Nat) (s : State) (e : Nat × Nat × Nat × Nat) : CollStep s (syncEntry r s e) := by
  unfold syncEntry
  split
  · exact .refl s
  next p _ =>
    split
    · exact reduceStep_step (received_collOf s _ r e.2.2.1 1) ..
    · exact gatherStep_step (received_collOf s _ r e.2.2.1 2) ..
    · refine .ite (transitOutStep_step (fun hk => absurd ?_ hk) ..) (.refl s)
      have hout := collOf_is s (transitTag p) true
      rw [Coll.is, Bool.and_eq_true] at hout
      simpa using hout.right

theorem syncPass_step (s : State) (r : Nat) : CollStep s (syncPass s r) := by
  unfold syncPass
  split
  · exact .refl s
  next p _ =>
    refine .ite (.refl s) ?_
    dsimp only
    generalize hs0 : (if crossesIn s r = true then transitInStep s p _ else s) = s0
    have hcross : CollStep s s0 := by
      rw [← hs0]
      exact .ite (transitInStep_step (received_collOf s _ r 0 4) _) (.refl s)
    split
    · exact hcross
    · exact hcross.trans (.foldl (syncEntry_step r) _ s0)

/-! ### COLLECTIVE_TIMEOUT (R319) -/

/-- The elements that a member still needs of a collective. -/
def missingOf (s : State) (p : Pass) (c : Coll) : List (Nat × Nat) := (needed s p c).filter fun x => (gotAt c x.1 x.2).isNone

/-- What has arrived, with the elements `xs` in the place of what has not. -/
def poisonedGot (v : PVal) (xs : List (Nat × Nat)) (got : Sparse (Option PVal)) : Sparse (Option PVal) :=
  xs.foldl (fun t x => sset (fun _ => none) t (elemKey x.1 x.2) (some v)) got

theorem sget_poisonedGot {v : PVal} {xs : List (Nat × Nat)} {got : Sparse (Option PVal)} (hgot : swf (fun _ => (none : Option PVal)) got = true) {x : Nat × Nat}
    (h : sget (fun _ => none) got (elemKey x.1 x.2) = some v ∨ x ∈ xs) : sget (fun _ => none) (poisonedGot v xs got) (elemKey x.1 x.2) = some v := by
  induction xs generalizing got with
  | nil => exact h.resolve_right List.not_mem_nil
  | cons y ys ih =>
    refine ih (sset_swf _ _ hgot) ?_
    by_cases hk : elemKey x.1 x.2 = elemKey y.1 y.2
    · rw [hk, sget_sset_same hgot]
      exact .inl rfl
    · rw [sget_sset_ne hgot hk]
      refine h.imp_right fun hx => (List.mem_cons.1 hx).resolve_left fun he => hk ?_
      rw [he]

/-- A collective whose missing elements are poisoned. -/
def poisonedColl (s : State) (p : Pass) (c : Coll) : Coll :=
  { c with got := poisonedGot ⟨BitVec.ofNat 32 (freeDraw s).1, true⟩ (missingOf s p c) c.got, timedOut := true
           lost := ((missingOf s p c).map fun x => (x.2 / collWidth s p c, x.1)).eraseDups }

/-- The module once a collective's timeout is counted. -/
def timeoutCounted (s : State) (p : Pass) (c : Coll) : State :=
  fsrEmit (fbump (putColl (freeDraw s).2 (poisonedColl s p c)) Reg.ORB_STATS.TIMEOUTS 1) 8
    [(11, .one (.uint p.region)), (13, .arr [.nul, .nul, .nul, .nul, .nul, .nul])]

theorem poisonNoted_frame (obj : Obj) (s : State) : poisonNoted obj s = s.withRegs (poisonNoted obj s) := annal_frame ..

/-- The module once a collective's timeout is counted and noted. -/
def timeoutNoted (s : State) (p : Pass) (c : Coll) : State := poisonNoted { region := some p.region } (timeoutCounted s p c)

theorem timeoutNoted_frame (s : State) (p : Pass) (c : Coll) : timeoutNoted s p c = (timeoutCounted s p c).withRegs (timeoutNoted s p c) := poisonNoted_frame ..

theorem timeoutNoted_got (p : Pass) (hkind : c.kind ≠ 3) : (collOf (timeoutNoted s p c) c.tag false).got = (poisonedColl s p c).got := by
  have hsame := collOf_of_orb (congrArg (fun t => t.orb.colls) (timeoutNoted_frame s p c) :) c.tag false
  have hput : collOf (timeoutCounted s p c) (poisonedColl s p c).tag false = poisonedColl s p c := collOf_putColl_same (s := (freeDraw s).2) hkind
  exact congrArg Coll.got (hsame.trans hput)

theorem timeoutNoted_counts (hok : s.regsOk) (p : Pass) (c : Coll) : (timeoutNoted s p c).regsOk ∧ counted s (timeoutNoted s p c) Reg.ORB_STATS.TIMEOUTS 1 := by
  have hbump : (timeoutCounted s p c).regsOk := regsOk_fbump (s := putColl (freeDraw s).2 (poisonedColl s p c)) hok ..
  have hcount : counted s (timeoutCounted s p c) Reg.ORB_STATS.TIMEOUTS 1 := fbump_counted (s := putColl (freeDraw s).2 (poisonedColl s p c)) hok _ _ (by decide)
  exact ⟨annal_regsOk hbump .., counted_of_fget hcount (annal_fget hbump _ _ _ _ _ _ (by decide))⟩

section
variable {p : Pass} {r : Nat} {rs : List Nat} (hregions : collRegions s tag = r :: rs) (hpass : passOf s r = some p)
include hregions hpass

theorem exec_collectiveTimeout : exec (.collectiveTimeout tag) s = .next (
    if (collOf s tag false).complete || !((collOf s tag false).ready || (collOf s tag false).kind == 4) then s
    else if (missingOf s p (collOf s tag false)).isEmpty then s
    else syncPass (timeoutNoted s p (collOf s tag false)) p.region) := by
  have hfirst : (collRegions s tag).head?.bind (passOf s) = some p := by rw [hregions]; exact hpass
  show execCollectiveTimeout tag s = _
  unfold execCollectiveTimeout
  rw [hfirst]
  rfl

/-- A complete collective, and one that misses nothing, stay. -/
theorem collectiveTimeout_idle (h : (collOf s tag false).complete = true ∨ missingOf s p (collOf s tag false) = []) :
    exec (.collectiveTimeout tag) s = .next s := by
  rw [exec_collectiveTimeout hregions hpass]
  obtain hcomplete | hnone := h
  · rw [hcomplete]
    rfl
  · rw [hnone]
    exact congrArg Host.Outcome.next (ite_self s)

/-- Every missing element is poisoned, and the timeout counts. -/
theorem collectiveTimeout_poisons (hok : s.regsOk) (hcomplete : (collOf s tag false).complete = false)
    (hready : (collOf s tag false).ready = true ∨ (collOf s tag false).kind = 4) (hmissing : missingOf s p (collOf s tag false) ≠ [])
    (hgot : swf (fun _ => (none : Option PVal)) (collOf s tag false).got = true) : ∃ t, exec (.collectiveTimeout tag) s = .next t ∧
      counted s t Reg.ORB_STATS.TIMEOUTS 1 ∧ t.kv = s.kv ∧ t.itk = s.itk ∧ t.img = s.img ∧
      ∀ x ∈ missingOf s p (collOf s tag false), ∃ v, gotAt (collOf t tag false) x.1 x.2 = some v ∧ v.bad = true := by
  have hgo : ((collOf s tag false).complete || !((collOf s tag false).ready || (collOf s tag false).kind == 4)) = false := by
    obtain hr | hk := hready
    · simp [hcomplete, hr]
    · simp [hcomplete, hk]
  have hsome : (missingOf s p (collOf s tag false)).isEmpty = false := by simpa using hmissing
  have hsync := syncPass_step (timeoutNoted s p (collOf s tag false)) p.region
  have hnote := timeoutNoted_frame s p (collOf s tag false)
  obtain ⟨hnoted, hcount⟩ := timeoutNoted_counts hok p (collOf s tag false)
  have hkept := timeoutNoted_got (s := s) p (collOf_inward s tag)
  rw [collOf_tag] at hkept
  refine ⟨syncPass (timeoutNoted s p (collOf s tag false)) p.region, ?_, ?_, ?_, ?_, ?_, fun x hx => ⟨⟨BitVec.ofNat 32 (freeDraw s).1, true⟩, ?_, rfl⟩⟩
  · rw [exec_collectiveTimeout hregions hpass, hgo, hsome]
    rfl
  · exact counted_of_fget hcount (fget_of_rget _ ((hsync.regs hnoted).2 _ (by decide)))
  · exact hsync.kv.trans (congrArg State.kv hnote :)
  · exact hsync.itk.trans (congrArg State.itk hnote :)
  · exact hsync.img.trans (congrArg State.img hnote :)
  · rw [gotAt, hsync.got, hkept]
    exact sget_poisonedGot hgot (.inr hx)

end

/-! ### O43 -/

/-- Settles O43: REMOVE, TAKEOVER and the heir by the masks they leave, LIMITs by the messages sent, and a timeout by what its collectives keep. -/
theorem quorumsAndSharedPower : Obligations.QuorumsAndSharedPower := by
  unfold Obligations.QuorumsAndSharedPower
  refine ⟨fun n src b s hok hp hsrc hself => ?_, fun n src b s hok hp => ?_⟩
  · refine ⟨fun h hop hmoon hprimary hheard => ⟨?_, ?_, ?_⟩, ?_, heirConfirmTimeout_shows hok hp hself, exec_heirConfirmTimeout_idle,
      takeoverWaitTimeout_alone hok hp hself, takeoverWaitTimeout_idle⟩
    · exact removeMsg_self h hop hmoon hprimary hheard hok hp hself
    · exact fun hm hsrc' hheir _ => removeMsg_other h hop hmoon hprimary hheard hok hm hsrc' hheir
    · exact removeMsg_primary h hop hmoon hprimary hheard
    · exact fun h hop hmoon hnew hold hheard hpasses => takeoverMsg_shows hok hp hsrc hself h hop hmoon hnew hold hheard hpasses
  · refine ⟨fun r rs h hprimary hregion hcoll => paceMsg_shows hok hp h hprimary hregion hcoll, fun h hmoon => ?_,
      fun h hop hprimary hreports => reportMsg_shows h hop hprimary hreports, fun h hop hmoon hsrc hcoll hlimit => limitMsg_shows hok h hop hmoon hsrc hcoll hlimit,
      fun h hop => releaseMsg_shows h hop, rfl, fun hmoon => ?_, fun hmoon hactive => powerReportTimer_sends hp hmoon hactive,
      fun h hop hport => faultMsg_lost h hop hport, fun tag r rs p hregions hpass => ⟨?_, ?_⟩⟩
    · exact ⟨_, exec_paceMsg_elsewhere h hmoon, popFlit_eq s n 0⟩
    · rw [exec_powerReportTimer, if_pos hmoon]
    · exact collectiveTimeout_idle hregions hpass
    · exact collectiveTimeout_poisons hregions hpass hok

end Sys2Proof.Machine
end
end

section
/-!
PROOFS. Low power states (R345 to R348, R355): a port's loss while the orbit is alone, and the steps of the entry.
-/
section
open Sys2Proof Sys2Proof.Machine
namespace Sys2Proof.Machine

variable {s t u : State} {n : Nat}

/-! ### What an entry keeps -/

/-- The module is in no orbit, or isolated from it. -/
def orbitAlone (s : State) : Prop := orbState s = 0 ∨ orbState s = 4

/-- A field that the entry into a low state leaves: below the ports' windows, not of the annals, not of the live mask. -/
def EntryKeeps (g : FieldRef) : Prop :=
  g.lo + g.w ≤ 64 ∧ g.addr < 0x300000 ∧ g.addr ≠ Reg.ANN_DURABLE_SEQ.SEQ.addr ∧ ∀ f ∈ Reg.ORB_STATUS.LIVE_MASK :: annalsFields, f.Apart g

/-- Between `s` and `t` the entry into a low state went on: the halls, the clock and the image stand, and with no pass in flight so do the sessions. -/
structure EntryStep (s t : State) : Prop where
  img : t.img = s.img
  scr : t.scr = s.scr
  clk : t.clk = s.clk
  run : t.run = s.run
  regs : s.regsOk → t.regsOk ∧ ∀ g, EntryKeeps g → fget t g = fget s g
  kv : s.regsOk → orbitAlone s → s.run.live = [] → t.kv = s.kv

theorem orbState_kept : EntryKeeps Reg.ORB_STATUS.STATE := by
  unfold EntryKeeps
  decide

theorem EntryStep.refl (s : State) : EntryStep s s := ⟨rfl, rfl, rfl, rfl, fun h => ⟨h, fun _ _ => rfl⟩, fun _ _ _ => rfl⟩

theorem EntryStep.regsOk (h : EntryStep s t) (hok : s.regsOk) : t.regsOk := (h.regs hok).1

theorem EntryStep.fget (h : EntryStep s t) (hok : s.regsOk) {g : FieldRef} (hg : EntryKeeps g) : Machine.fget t g = Machine.fget s g := (h.regs hok).2 g hg

theorem EntryStep.alone (h : EntryStep s t) (hok : s.regsOk) (ha : orbitAlone s) : orbitAlone t := by
  rw [orbitAlone, orbState, h.fget hok orbState_kept]
  exact ha

theorem EntryStep.trans (h : EntryStep s t) (h' : EntryStep t u) : EntryStep s u where
  img := h'.img.trans h.img
  scr := h'.scr.trans h.scr
  clk := h'.clk.trans h.clk
  run := h'.run.trans h.run
  regs hok := ⟨h'.regsOk (h.regsOk hok), fun _ hg => (h'.fget (h.regsOk hok) hg).trans (h.fget hok hg)⟩
  kv hok ha hlive := (h'.kv (h.regsOk hok) (h.alone hok ha) (by rw [h.run]; exact hlive)).trans (h.kv hok ha hlive)

theorem EntryStep.ite {p : Prop} [Decidable p] (h : EntryStep s t) (h' : EntryStep s u) : EntryStep s (if p then t else u) := by
  split
  · exact h
  · exact h'

theorem EntryStep.foldl {α : Type} {f : State → α → State} (hf : ∀ u x, EntryStep u (f u x)) (l : List α) (s : State) : EntryStep s (l.foldl f s) := by
  induction l generalizing s with
  | nil => exact .refl s
  | cons x xs ih => exact (hf s x).trans (ih _)

theorem LinksSend.entry (h : LinksSend s t) : EntryStep s t where
  img := (congrArg State.img h.frame :)
  scr := (congrArg State.scr h.frame :)
  clk := (congrArg State.clk h.frame :)
  run := (congrArg State.run h.frame :)
  regs hok := ⟨(h.regs hok).1, fun _ hg => h.low_fget hok hg.2.1⟩
  kv _ _ _ := (congrArg State.kv h.frame :)

/-- What changes neither registers, halls, clock, image, passes nor sessions. -/
theorem EntryStep.other (himg : t.img = s.img) (hscr : t.scr = s.scr) (hclk : t.clk = s.clk) (hrun : t.run = s.run) (hregs : t.regs = s.regs) (hkv : t.kv = s.kv) :
    EntryStep s t :=
  ⟨himg, hscr, hclk, hrun, fun h => ⟨by rw [State.regsOk, hregs]; exact h, fun g _ => fget_of_regs hregs g⟩, fun _ _ _ => hkv⟩

theorem portField_entry (s : State) {f : FieldRef} (hf : 0x300000 ≤ f.addr) (x : Nat) : EntryStep s (fset s f x) :=
  ⟨rfl, rfl, rfl, rfl, fun h => ⟨regsOk_fset h f x, fun g ⟨hg, hlow, _⟩ => fget_fset_other h f g x hg (.inl (by omega))⟩, fun _ _ _ => rfl⟩

theorem annal_entry (s : State) (kind sev : Nat) (obj : Obj) (a0 a1 a2 : Nat) : EntryStep s (annal s kind sev obj a0 a1 a2) := by
  have hframe := annal_frame s kind sev obj a0 a1 a2
  refine ⟨(congrArg State.img hframe :), (congrArg State.scr hframe :), (congrArg State.clk hframe :), (congrArg State.run hframe :), fun hok => ?_,
    fun _ _ _ => (congrArg State.kv hframe :)⟩
  have hstep : OrbitStep [] s (annal s kind sev obj a0 a1 a2) := annal_step ..
  exact ⟨hstep.regsOk hok, fun g ⟨hg, hlow, _, ha⟩ => hstep.fget hok ⟨hg, hlow, fun f hf => ha f (List.mem_cons_of_mem _ hf)⟩⟩

/-! ### A port is disabled (R291, R322) -/

theorem liveMask_entry (s : State) (x : Nat) : EntryStep s (fset s Reg.ORB_STATUS.LIVE_MASK x) :=
  ⟨rfl, rfl, rfl, rfl, fun h => ⟨regsOk_fset h _ x, fun g ⟨hg, _, _, ha⟩ => fget_fset_other h _ g x hg (ha _ (List.mem_cons_self ..))⟩, fun _ _ _ => rfl⟩

/-- The live mask and the lost members without member `m`. -/
def unlive (s : State) (m : Nat) : State :=
  let u := fset s Reg.ORB_STATUS.LIVE_MASK (liveMask s &&& (0xFFFF - 2 ^ m))
  { u with orb := { u.orb with lost := if u.orb.lost.elem m then u.orb.lost else u.orb.lost ++ [m] } }

theorem unlive_entry (s : State) (m : Nat) : EntryStep s (unlive s m) :=
  (liveMask_entry s _).trans (.other rfl rfl rfl rfl rfl rfl)

/-- Of a module in no orbit's service a lost member costs no session. -/
theorem memberLost_isolated (h : orbState s = 4) (m : Nat) : memberLost s m = unlive s m := by
  unfold memberLost
  simp only [h]
  rfl

/-- Sessions whose passes lose their partner. -/
def cutOff (s : State) (p : Pass) : State := p.sessions.foldl (fun s h => killSession s h stPeerLost) s

theorem killed_foldl_frame (hs : List Nat) (s : State) : ∃ kv, hs.foldl (fun s h => killSession s h stPeerLost) s = { s with kv := kv } := by
  induction hs generalizing s with
  | nil => exact ⟨s.kv, rfl⟩
  | cons h hs ih => exact ih (killSession s h stPeerLost)

theorem cutOff_foldl_frame (ps : List Pass) (s : State) : ∃ kv, ps.foldl cutOff s = { s with kv := kv } := by
  induction ps generalizing s with
  | nil => exact ⟨s.kv, rfl⟩
  | cons p ps ih =>
    obtain ⟨kv, hkv⟩ := killed_foldl_frame p.sessions s
    obtain ⟨kv', hkv'⟩ := ih (cutOff s p)
    refine ⟨kv', hkv'.trans ?_⟩
    rw [cutOff, hkv]

theorem cutOff_entry (q : Pass → Bool) (s : State) : EntryStep s ((s.run.live.filter q).foldl cutOff s) := by
  obtain ⟨kv, hkv⟩ := cutOff_foldl_frame (s.run.live.filter q) s
  refine ⟨by rw [hkv], by rw [hkv], by rw [hkv], by rw [hkv], fun hok => ?_, fun _ _ hlive => by rw [hlive]; rfl⟩
  rw [hkv]
  exact ⟨hok, fun _ _ => rfl⟩

theorem refreshOnline_entry (s : State) : EntryStep s (refreshOnline s) := .other rfl rfl rfl rfl rfl rfl

/-- A link of the mesh, or one that leads up or down, is lost. -/
theorem portLost_entry (ha : orbitAlone s) (n : Nat) : EntryStep s (portLost s n) := by
  unfold portLost
  split
  · exact .refl s
  next hin =>
    have hisolated : orbState s = 4 := ha.resolve_left hin
    split
    · rw [memberLost_isolated hisolated]
      exact (unlive_entry ..).trans (refreshOnline_entry _)
    · exact (refreshOnline_entry s).trans (cutOff_entry _ (refreshOnline s))

/-- A port that is declared lost, before its partner's members hear of it. -/
def portDropped (s : State) (n cause : Nat) : State :=
  let s1 := fset (fset (fset s (Reg.TSX_STATUS.STATE n) 3) (Reg.TSX_STATUS.LOSS_CAUSE n) cause) (Reg.TSX_PARTNER.VALID n) 0
  let s2 := modPort s1 n fun p => { p with
    inDoubt := match p.held with | [] => none | f :: fs => some (f.seq, ((fs.getLast?).getD f).seq)
    held := [], waiting := [], injHeld := [], replays := 0, sent := [0, 0, 0], credits := [0, 0, 0], freed := [0, 0, 0], inbox := []
    admitted := false, snapOut := none, locked := false, trains := 0 }
  let s3 := tsxRecord s2 n 1
  ((meshPorts s3).filter (· != n)).foldl (fun s m => sendFault s m 2 n []) s3

theorem modPort_entry (s : State) (n : Nat) (f : Port → Port) : EntryStep s (modPort s n f) := .other rfl rfl rfl rfl rfl rfl

theorem portDropped_entry (s : State) (n cause : Nat) : EntryStep s (portDropped s n cause) := by
  have hbase : 0x300000 ≤ portBase n := Nat.le_add_right ..
  have hfields := ((portField_entry s (f := Reg.TSX_STATUS.STATE n) (Nat.le_add_right_of_le hbase) 3).trans
    (portField_entry _ (f := Reg.TSX_STATUS.LOSS_CAUSE n) (Nat.le_add_right_of_le hbase) cause)).trans
    (portField_entry _ (f := Reg.TSX_PARTNER.VALID n) (Nat.le_add_right_of_le hbase) 0)
  refine ((hfields.trans (modPort_entry _ n _)).trans (annal_entry ..)).trans (.foldl (fun u m => (sendMsg_links u ..).entry) _ _)

theorem declareLost_entry (hok : s.regsOk) (ha : orbitAlone s) (n cause : Nat) : EntryStep s (declareLost s n cause) := by
  have hdrop := portDropped_entry s n cause
  exact .ite (.refl s) (hdrop.trans (portLost_entry (hdrop.alone hok ha) n))

theorem portWritten_entry (hok : t.regsOk) (ha : orbitAlone t) (n : Nat) (s : State) : EntryStep t (portWritten t n s) := by
  have hstate : 0x300000 ≤ (Reg.TSX_STATUS.STATE n).addr := Nat.le_add_right_of_le (Nat.le_add_right ..)
  have hlost := ((declareLost_entry hok ha n 4).trans (portField_entry _ hstate 0)).trans (modPort_entry _ n fun p => { p with locked := false, trains := 0 })
  have hfirst (now was : Nat) : EntryStep t (if was = now then t else if now = 1 then fset t (Reg.TSX_STATUS.STATE n) 1
      else modPort (fset (declareLost t n 4) (Reg.TSX_STATUS.STATE n) 0) n fun p => { p with locked := false, trains := 0 }) :=
    .ite (.refl t) (.ite (portField_entry t hstate 1) hlost)
  unfold portWritten
  dsimp only
  exact .ite (hfirst ..) ((hfirst ..).trans ((EntryStep.ite (modPort_entry ..) (.refl _)).trans (annal_entry ..)))

/-- A Tsuyx port is disabled. -/
def portDisabled (s : State) (n : Nat) : State := portWritten (fset s (Reg.TSX_CTRL.ENABLE n) 0) n s

theorem portDisabled_eq : portDisabled = fun s n => portWritten (fset s (Reg.TSX_CTRL.ENABLE n) 0) n s := rfl

theorem portDisabled_entry (hok : s.regsOk) (ha : orbitAlone s) (n : Nat) : EntryStep s (portDisabled s n) := by
  have hfield : EntryStep s (fset s (Reg.TSX_CTRL.ENABLE n) 0) := portField_entry s (Nat.le_add_right_of_le (Nat.le_add_right ..)) 0
  exact hfield.trans (portWritten_entry (hfield.regsOk hok) (hfield.alone hok ha) n s)

theorem portsDisabled_entry (hok : s.regsOk) (ha : orbitAlone s) (ns : List Nat) : EntryStep s (ns.foldl portDisabled s) := by
  induction ns generalizing s with
  | nil => exact .refl s
  | cons n ns ih =>
    have hone := portDisabled_entry hok ha n
    exact hone.trans (ih (hone.regsOk hok) (hone.alone hok ha))

/-! ### The entry's steps (Table 16-2) -/

theorem durableSeq_entry (s : State) (cur : Curator) (v : W64) : EntryStep s (rset { s with cur := cur } Reg.ANN_DURABLE_SEQ.SEQ.addr v) :=
  ⟨rfl, rfl, rfl, rfl, fun hok => ⟨regsOk_rset (s := { s with cur := cur }) hok .., fun g ⟨_, _, hg, _⟩ => fget_of_rget g (rget_rset_ne (s := { s with cur := cur }) hok v hg)⟩,
    fun _ _ _ => rfl⟩

theorem flushAnnals_entry (s : State) : EntryStep s (flushAnnals s) := by
  unfold flushAnnals
  dsimp only
  split
  · exact .refl s
  · exact durableSeq_entry ..

theorem writeCheckpoint_entry (s : State) (nandOk : Bool) : EntryStep s (writeCheckpoint s nandOk) := .other rfl rfl rfl rfl rfl rfl

theorem entryCurator_entry (off nandOk : Bool) (s : State) : EntryStep s (entryCurator off nandOk s) := by
  have hflush : EntryStep s (if nandOk then flushAnnals s else s) := .ite (flushAnnals_entry s) (.refl s)
  exact .ite (hflush.trans (writeCheckpoint_entry ..)) hflush

theorem entryHalls_shallow (s : State) : entryHalls false s = (List.range 24).foldl portDisabled s := by
  simp only [entryHalls, Bool.false_eq_true, if_false, portDisabled_eq]

/-- What the halls hold is lost in Deep sleep. -/
def hallsLost (s : State) : State :=
  { s with
    scr := { s.scr with unit := [], tiles := [], store := [], linePoison := [], tables := [] }
    col := { s.col with wins := [], sweeps := [] }
    arr := { s.arr with ledgers := [], folios := smapAll (fun _ => freshFolio) s.arr.folios fun _ f =>
      { f with bankA := if f.st == .serving || f.st == .collating then activeBank f else [], bankB := [], bank := 0, shadowValid := false } } }

theorem entryHalls_deep (s : State) : entryHalls true s = hallsLost ((List.range 24).foldl portDisabled s) := by
  simp only [entryHalls, if_true, portDisabled_eq, hallsLost]

/-- What the low state shows. -/
theorem atDepth_shows (hok : s.regsOk) {d : Nat} (hd : d < 8) : fget (atDepth d s) Reg.PST_STATUS.STATE = d ∧ fget (atDepth d s) Reg.PST_STATUS.HALL_AWAKE = 0 ∧
    fget (atDepth d s) Reg.PST_STATUS.LAST_RESULT = fget s Reg.PST_STATUS.LAST_RESULT := by
  have hstate := regsOk_fset hok Reg.PST_STATUS.STATE d
  refine ⟨?_, fget_fset_same hstate _ _ (by decide), ?_⟩
  · exact (fget_fset_other hstate _ Reg.PST_STATUS.STATE _ (by decide) (by decide)).trans ((fget_fset_same hok _ _ (by decide)).trans (Nat.mod_eq_of_lt hd))
  · exact (fget_fset_other hstate _ Reg.PST_STATUS.LAST_RESULT _ (by decide) (by decide)).trans (fget_fset_other hok _ _ _ (by decide) (by decide))

theorem atDepth_parts (d : Nat) (s : State) : (atDepth d s).pst = { s.pst with depth := d, awake := [], waking := [], sleptAon := s.clk.aon } ∧
    (atDepth d s).img = s.img ∧ (atDepth d s).kv = s.kv ∧ (atDepth d s).scr = s.scr ∧ (atDepth d s).clk = s.clk ∧ (atDepth d s).arr = s.arr := ⟨rfl, rfl, rfl, rfl, rfl, rfl⟩

/-- The module whose ports and annals are ready for a low state. -/
def readied (off nandOk : Bool) (s : State) : State := (List.range 24).foldl portDisabled (entryCurator off nandOk s)

theorem readied_entry (hok : s.regsOk) (ha : orbitAlone s) (off nandOk : Bool) : EntryStep s (readied off nandOk s) := by
  have hcur := entryCurator_entry off nandOk s
  exact hcur.trans (portsDisabled_entry (hcur.regsOk hok) (hcur.alone hok ha) _)

theorem enterLow_sleep (nandOk : Bool) (s : State) : enterLow 2 nandOk none s = atDepth 2 (readied false nandOk s) := by
  simp only [enterLow, Option.map_none, Option.getD_none, Nat.reduceLeDiff, Nat.reduceEqDiff, decide_false, if_true, if_false, entryHalls_shallow, readied]

theorem enterLow_deepSleep (nandOk : Bool) (s : State) : enterLow 3 nandOk none s = atDepth 3 (hallsLost (readied false nandOk s)) := by
  simp only [enterLow, Option.map_none, Option.getD_none, Nat.reduceLeDiff, Nat.reduceEqDiff, decide_false, decide_true, if_true, if_false, entryHalls_deep, readied]

theorem enterLow_off (nandOk : Bool) (s : State) : enterLow 4 nandOk none s =
    { enterOff 2 (hallsLost (readied true nandOk s)) with pst := { (enterOff 2 (hallsLost (readied true nandOk s))).pst with wakeSrc := 0 } } := by
  simp only [enterLow, Option.map_none, Option.getD_none, Nat.reduceLeDiff, decide_true, if_true, entryHalls_deep, readied]

/-! ### Requests (R346) -/

/-- What a check finds is none where the entry goes on: the orbit, among others, is at rest. -/
theorem orbitAlone_of_sleepCheck (h : sleepCheck s = 0) : orbitAlone s := by
  unfold sleepCheck at h
  dsimp only at h
  by_contra hbusy
  have hin : orbState s ≠ 0 ∧ orbState s ≠ 4 := not_or.1 hbusy
  rw [if_pos hin] at h
  split at h
  · omega
  · split at h
    · omega
    · split at h <;> omega

/-- A request that no wake event has stopped before its checks. -/
theorem powerRequest_woken (hpow : unpowered s = false) (h : 1 < fget s Reg.PST_STATUS.STATE) (depth : Nat) (nandOk : Bool) (w : Option (Nat × Nat)) :
    powerRequest depth nandOk w s = fset s Reg.PST_STATUS.LAST_RESULT 5 := by
  unfold powerRequest
  rw [hpow, if_neg (by decide)]
  exact if_pos (.inl h)

section
variable (hpow : unpowered s = false) (hstate : fget s Reg.PST_STATUS.STATE ≤ 1)
include hpow hstate

theorem powerRequest_refused (hcheck : sleepCheck s ≠ 0) (depth : Nat) (nandOk : Bool) :
    powerRequest depth nandOk none s = fset s Reg.PST_STATUS.LAST_RESULT (sleepCheck s) := by
  unfold powerRequest
  rw [hpow, if_neg (by decide)]
  refine (if_neg ?_).trans (if_pos hcheck)
  simp [Nat.not_lt.2 hstate]

theorem powerRequest_enters (hcheck : sleepCheck s = 0) (depth : Nat) (nandOk : Bool) :
    powerRequest depth nandOk none s = enterLow depth nandOk none (fset s Reg.PST_STATUS.LAST_RESULT 0) := by
  unfold powerRequest
  rw [hpow, if_neg (by decide)]
  refine (if_neg ?_).trans (if_neg (not_not.2 hcheck))
  simp [Nat.not_lt.2 hstate]

theorem powerRequest_stopped (hcheck : sleepCheck s = 0) (depth : Nat) (nandOk : Bool) (src : Nat) :
    powerRequest depth nandOk (some (1, src)) s = backToRun src false (fset s Reg.PST_STATUS.LAST_RESULT 5) := by
  unfold powerRequest
  rw [hpow, if_neg (by decide)]
  refine (if_neg ?_).trans ((if_neg (not_not.2 hcheck)).trans ?_)
  · simp [Nat.not_lt.2 hstate]
  · simp [enterLow]

end

end Sys2Proof.Machine
end
end

section
/-!
PROOFS. The clock, the firmware and what is bound stand (R372, R403): through regions that settle, ports, and the steps of the bring-up that change none of them.
-/
section
open Sys2Proof Sys2Proof.Machine
namespace Sys2Proof.Machine

variable {b s : State}

/-- In `t` the clock, the firmware, the dies' revisions, the images and the power-good line are as in `b`. -/
structure Steady (b t : State) : Prop where
  clk : t.clk = b.clk
  fw : t.cur.fw = b.cur.fw
  revs : t.cur.revs = b.cur.revs
  img : t.img = b.img
  pwrGood : t.pst.pwrGood = b.pst.pwrGood
  depth : t.pst.depth = b.pst.depth

theorem Steady.refl (s : State) : Steady s s := ⟨rfl, rfl, rfl, rfl, rfl, rfl⟩

theorem Steady.ite {p : Prop} [Decidable p] {t : State} (h : Steady b s) (h' : Steady b t) : Steady b (if p then s else t) := by
  split
  · exact h
  · exact h'

theorem Steady.foldl {α : Type} {f : State → α → State} (hf : ∀ u x, Steady b u → Steady b (f u x)) (l : List α) (h : Steady b s) : Steady b (l.foldl f s) := by
  induction l generalizing s with
  | nil => exact h
  | cons x xs ih => exact ih (hf s x h)

/-! ### Registers, records and tables -/

/-- What else changes does not matter. -/
theorem with_steady {regs ann arr col scr run acc loans kv itk tsx orb pwr con hst out free pending} (h : Steady b s) :
    Steady b { s with regs := regs, ann := ann, arr := arr, col := col, scr := scr, run := run, acc := acc, loans := loans, kv := kv, itk := itk, tsx := tsx,
                      orb := orb, pwr := pwr, con := con, hst := hst, out := out, free := free, pending := pending } :=
  ⟨h.clk, h.fw, h.revs, h.img, h.pwrGood, h.depth⟩

theorem rset_steady {a v} (h : Steady b s) : Steady b (rset s a v) := with_steady h

theorem fset_steady {f x} (h : Steady b s) : Steady b (fset s f x) := with_steady h

theorem fbump_steady {f n} (h : Steady b s) : Steady b (fbump s f n) := with_steady h

theorem annal_steady {kind sev obj a0 a1 a2} (h : Steady b s) : Steady b (annal s kind sev obj a0 a1 a2) := by
  rw [annal_frame]
  exact ⟨h.clk, h.fw, h.revs, h.img, h.pwrGood, h.depth⟩

theorem modAcc_steady {r f} (h : Steady b s) : Steady b (modAcc s r f) := with_steady h

theorem modVig_steady {r f} (h : Steady b s) : Steady b (modVig s r f) := with_steady h

theorem modFolio_steady {k f} (h : Steady b s) : Steady b (modFolio s k f) := with_steady h

theorem modPort_steady {n f} (h : Steady b s) : Steady b (modPort s n f) := with_steady h

theorem modGain_steady {x c f} (h : Steady b s) : Steady b (modGain s x c f) := with_steady h

theorem finish_steady {c q st v} (h : Steady b s) : Steady b (finish s c q st v) := with_steady h

theorem LinksSend.steady {t : State} (hsend : LinksSend s t) (h : Steady b s) : Steady b t := by
  rw [hsend.frame]
  exact ⟨h.clk, h.fw, h.revs, h.img, h.pwrGood, h.depth⟩

/-! ### Regions that settle (R206) -/

theorem toState_steady {k st} (h : Steady b s) : Steady b (toState s k st) := annal_steady (modFolio_steady h)

theorem restartWindow_steady {k} (h : Steady b s) : Steady b (restartWindow s k) := with_steady h

theorem dropSweep_steady {k} (h : Steady b s) : Steady b (dropSweep s k) := restartWindow_steady (with_steady h)

theorem freeSpare_steady {k} (h : Steady b s) : Steady b (freeSpare s k) := with_steady h

theorem endRequest_steady {k} (h : Steady b s) : Steady b (endRequest s k) := by
  unfold endRequest
  split
  · exact .ite (with_steady h) h
  · exact h

theorem giveBack_steady {k} (h : Steady b s) : Steady b (giveBack s k) := by
  have hended (st : FState) : Steady b (endRequest (dropSweep (toState s k st) k) k) := endRequest_steady (dropSweep_steady (toState_steady h))
  exact modFolio_steady (.ite (hended _) (freeSpare_steady (hended _)))

theorem enterServing_steady {k} (h : Steady b s) : Steady b (enterServing s k) := restartWindow_steady (modFolio_steady (toState_steady h))

theorem markFailed_steady {ks} (h : Steady b s) : Steady b (markFailed s ks) := .foldl (fun _ _ h => modFolio_steady h) _ h

theorem deriveGains_steady {r} (h : Steady b s) : Steady b (deriveGains s r) :=
  .foldl (fun _ _ h => .foldl (fun _ _ h => modGain_steady (markFailed_steady h)) _ h) _ h

theorem reloadPrograms_steady {r} (h : Steady b s) : Steady b (reloadPrograms s r) := with_steady h

theorem flipAccession_steady {r} (h : Steady b s) : Steady b (flipAccession s r) := by
  have hcopies : Steady b ((copiesOf s r).foldl abandonCopy s) := .foldl (fun _ _ h => giveBack_steady h) _ h
  have hout : Steady b ((outgoing ((copiesOf s r).foldl abandonCopy s) r).foldl giveBack ((copiesOf s r).foldl abandonCopy s)) := .foldl (fun _ _ h => giveBack_steady h) _ hcopies
  exact .foldl (fun _ _ h => finish_steady h) _
    (reloadPrograms_steady (modVig_steady (deriveGains_steady (.foldl (fun _ _ h => enterServing_steady h) _ (modAcc_steady hout)))))

theorem settleRegions_steady (h : Steady b s) : Steady b (settleRegions s) :=
  .foldl (fun _ _ h => giveBack_steady h) _ (.foldl (fun _ _ h => flipAccession_steady h) _ h)

/-! ### The orbit and its links (R291, R312, R321, R322) -/

theorem refreshOnline_steady (h : Steady b s) : Steady b (refreshOnline s) := with_steady h

theorem setHeir_steady {x} (h : Steady b s) : Steady b (setHeir s x) := by
  cases x with
  | none => exact fset_steady (with_steady h)
  | some x => exact fset_steady (fset_steady (with_steady h))

theorem setAdmitted_steady {m} (h : Steady b s) : Steady b (setAdmitted s m) := refreshOnline_steady (setHeir_steady (fset_steady h))

theorem orbitDeaths_steady {p} (h : Steady b s) : Steady b (orbitDeaths s p) := by
  rw [orbitDeaths_frame]
  exact with_steady h

theorem isolate_steady (h : Steady b s) : Steady b (isolate s) := by
  rw [isolate_eq]
  have hunlinked : Steady b (unlinked s) := .foldl (fun _ _ h => modPort_steady h) _ h
  exact orbitDeaths_steady (setAdmitted_steady (setHeir_steady (with_steady (fset_steady (fset_steady hunlinked)))))

theorem toMembers_steady {mask body} (h : Steady b s) : Steady b (toMembers s mask body) := (toMembers_links ..).steady h

theorem dropMember_steady {m mask} (h : Steady b s) : Steady b (dropMember s m mask) := by
  rw [dropMember_eq]
  have hheir : Steady b (heirDropped s m) := .ite (setHeir_steady h) h
  exact orbitDeaths_steady (setAdmitted_steady (fset_steady (fbump_steady hheir)))

theorem primaryLoses_steady {m} (h : Steady b s) : Steady b (primaryLoses s m) :=
  .ite h (.ite (toMembers_steady (dropMember_steady h)) (isolate_steady (toMembers_steady h)))

theorem moonLosesPrimary_steady (h : Steady b s) : Steady b (moonLosesPrimary s) :=
  .ite (with_steady (orbitDeaths_steady h)) (with_steady (orbitDeaths_steady h))

theorem memberLost_steady {m} (h : Steady b s) : Steady b (memberLost s m) := by
  have hlost : Steady b (unlive s m) := with_steady (fset_steady h)
  exact .ite (primaryLoses_steady hlost) (.ite (moonLosesPrimary_steady hlost) hlost)

theorem cutOff_foldl_steady {ps : List Pass} (h : Steady b s) : Steady b (ps.foldl cutOff s) := by
  obtain ⟨kv, hkv⟩ := cutOff_foldl_frame ps s
  rw [hkv]
  exact with_steady h

theorem portLost_steady {n} (h : Steady b s) : Steady b (portLost s n) := by
  unfold portLost
  split
  · exact h
  · split
    · exact refreshOnline_steady (memberLost_steady h)
    · exact cutOff_foldl_steady (refreshOnline_steady h)

theorem portDropped_steady {n cause} (h : Steady b s) : Steady b (portDropped s n cause) := by
  unfold portDropped
  exact .foldl (fun _ _ h => (sendMsg_links ..).steady h) _ (annal_steady (modPort_steady (fset_steady (fset_steady (fset_steady h)))))

theorem declareLost_steady {n cause} (h : Steady b s) : Steady b (declareLost s n cause) := .ite h (portLost_steady (portDropped_steady h))

theorem portWritten_steady {n old} (h : Steady b s) : Steady b (portWritten s n old) := by
  have hfirst (now was : Nat) : Steady b (if was = now then s else if now = 1 then fset s (Reg.TSX_STATUS.STATE n) 1
      else modPort (fset (declareLost s n 4) (Reg.TSX_STATUS.STATE n) 0) n fun p => { p with locked := false, trains := 0 }) :=
    .ite h (.ite (fset_steady h) (modPort_steady (fset_steady (declareLost_steady h))))
  unfold portWritten
  dsimp only
  exact .ite (hfirst ..) (annal_steady (.ite (modPort_steady (hfirst ..)) (hfirst ..)))

theorem admitPort_steady {n} (h : Steady b s) : Steady b (admitPort s n) := by
  rw [admitPort_eq]
  refine (pump_sending ..).links.steady ?_
  unfold linkAdmitted
  split
  · exact fset_steady (modPort_steady h)
  · exact modPort_steady h

theorem seekAdmission_steady {n} (h : Steady b s) : Steady b (seekAdmission s n) := by
  have hmoons : Steady b (admitMoons s) := by
    refine .foldl (fun u k h => ?_) _ h
    split
    · exact .ite (admitPort_steady h) h
    · exact h
  exact .ite h (.ite (.ite hmoons ((sendMsg_links ..).steady hmoons)) h)

/-! ### The steps of the bring-up (Table 19-5) -/

theorem enablePorts_steady (h : Steady b s) : Steady b (enablePorts s) := .foldl (fun _ _ h => portWritten_steady (fset_steady h)) _ h

theorem takeRole_steady (h : Steady b s) : Steady b (takeRole s) := by
  have hfields (o : OrbitSt) (member stage live : Nat) : Steady b (fset (fset (fset (fset { s with orb := o } Reg.ORB_STATUS.MEMBER member) Reg.ORB_STATUS.STAGE stage)
      Reg.ORB_STATUS.LIVE_MASK live) Reg.ORB_STATUS.HEIR_MISMATCH 0) := fset_steady (fset_steady (fset_steady (fset_steady (with_steady h))))
  unfold takeRole
  dsimp only
  refine .foldl (fun _ _ h => seekAdmission_steady h) _ ?_
  split
  · exact setAdmitted_steady (setHeir_steady (fset_steady (fset_steady (.foldl (fun _ _ h => modPort_steady h) _ (hfields ..)))))
  · exact setAdmitted_steady (setHeir_steady (fset_steady (.foldl (fun _ _ h => modPort_steady h) _ (hfields ..))))

theorem takePorts_steady (h : Steady b s) : Steady b (takePorts s) := takeRole_steady (enablePorts_steady (fset_steady h))

theorem loadCtrl_steady (h : Steady b s) : Steady b (loadCtrl s) := fset_steady (fset_steady (fset_steady (.ite (fset_steady h) (fset_steady (fset_steady h)))))

theorem showBound_steady (h : Steady b s) : Steady b (showBound s) := by
  have hshown : Steady b (fset (fset (rset s Reg.CUR_IMG_ACTIVE_SERIAL.SERIAL.addr (BitVec.ofNat 64 s.img.bound.serial)) Reg.CUR_IMG_STATUS.PLAIN (bitOf s.img.bound.plain))
      Reg.CUR_IMG_STATUS.ANCHOR (bitOf s.img.store.anchor.isSome)) := fset_steady (fset_steady (rset_steady h))
  unfold showBound showPending
  dsimp only
  split
  · exact rset_steady (fset_steady hshown)
  · exact fset_steady hshown

theorem rehouse_steady {r n} (h : Steady b s) : Steady b (rehouse s r n) := by
  unfold rehouse
  dsimp only
  split
  · exact h
  · refine .ite h ?_
    split
    · exact h
    · exact modAcc_steady h

theorem shelterRegion_steady {r} (h : Steady b s) : Steady b (shelterRegion s r) := by
  unfold shelterRegion
  split
  · exact .foldl (fun _ _ h => rehouse_steady h) _ h
  · exact .foldl (fun _ _ h => rehouse_steady h) _ (modAcc_steady h)

theorem bootRegion_steady {r} (h : Steady b s) : Steady b (bootRegion s r) := .ite (shelterRegion_steady (with_steady (modVig_steady (modAcc_steady h)))) h

theorem startClocks_steady (h : Steady b s) : Steady b (startClocks s) := by
  have hpoints (pwr : PowerUnit) : Steady b ((List.range 4).foldl startHall { s with pwr := pwr }) := .foldl (fun _ _ h => fset_steady h) _ (with_steady h)
  unfold startClocks
  dsimp only
  exact fset_steady (fset_steady (fset_steady (fset_steady (fset_steady (fset_steady (fset_steady (fset_steady (fset_steady (hpoints _)))))))))

theorem startHalls_steady {bad} (h : Steady b s) : Steady b (startHalls bad s) := by
  exact fset_steady (fset_steady (fset_steady (.foldl (fun _ _ h => .ite h (annal_steady (with_steady h))) _ (startClocks_steady h))))

theorem loadStore_steady (h : Steady b s) : Steady b (loadStore s) := ⟨h.clk, h.fw, h.revs, h.img, h.pwrGood, h.depth⟩

end Sys2Proof.Machine
end
end

section
/-!
PROOFS. Idle, Sleep, Deep sleep and Off (R345 to R348, R355): what each shows, and an entry that a wake stops. O11.
-/
section
open Sys2Proof Sys2Proof.Machine
namespace Sys2Proof.Machine

variable {s t : State}

/-! ### Idle -/

theorem exec_idleEntry (hdepth : s.pst.depth = 0) (hlive : s.run.live = []) (hpacket : anyPacket s = false) (hback : backgroundRuns s = false) :
    exec .idleEntry s = .next (fset (fset { s with pst := { s.pst with depth := 1 } } Reg.PST_STATUS.STATE 1) Reg.PST_STATUS.HALL_AWAKE 0) := by
  show execIdleEntry s = _
  refine congrArg Host.Outcome.next (if_neg ?_)
  simp [hdepth, hlive, hpacket, hback]

/-- Two fields of one register leave the others. -/
theorem rget_fset_fset_ne (hok : s.regsOk) {f g : FieldRef} (hfg : g.addr = f.addr) (x y : Nat) {a : Nat} (ha : a ≠ f.addr) :
    rget (fset (fset s f x) g y) a = rget s a :=
  (rget_fset_ne (regsOk_fset hok f x) y (by rw [hfg]; exact ha)).trans (rget_fset_ne hok x ha)

theorem idleEntry_shows (hok : s.regsOk) (hdepth : s.pst.depth = 0) (hlive : s.run.live = []) (hpacket : anyPacket s = false) (hback : backgroundRuns s = false) :
    ∃ t, exec .idleEntry s = .next t ∧ t = { s with regs := t.regs, pst := { s.pst with depth := 1 } } ∧
      fget t Reg.PST_STATUS.STATE = 1 ∧ fget t Reg.PST_STATUS.HALL_AWAKE = 0 ∧ (∀ a, a ≠ Reg.PST_STATUS.STATE.addr → rget t a = rget s a) := by
  have hidle : ({ s with pst := { s.pst with depth := 1 } } : State).regsOk := hok
  have hstate := regsOk_fset hidle Reg.PST_STATUS.STATE 1
  refine ⟨_, exec_idleEntry hdepth hlive hpacket hback, rfl, ?_, fget_fset_same hstate _ _ (by decide), fun a ha => rget_fset_fset_ne hidle (f := Reg.PST_STATUS.STATE) (g := Reg.PST_STATUS.HALL_AWAKE) rfl 1 0 ha⟩
  exact (fget_fset_other hstate _ _ _ (by decide) (by decide)).trans (fget_fset_same hidle _ _ (by decide))

/-! ### Sleep and Deep sleep -/

/-- The module in the low state of depth `d`, entered from `s`. -/
structure LowState (d : Nat) (s t : State) : Prop where
  depth : t.pst.depth = d
  awake : t.pst.awake = []
  waking : t.pst.waking = []
  sleptAon : t.pst.sleptAon = s.clk.aon
  state : fget t Reg.PST_STATUS.STATE = d
  halls : fget t Reg.PST_STATUS.HALL_AWAKE = 0
  result : fget t Reg.PST_STATUS.LAST_RESULT = fget s Reg.PST_STATUS.LAST_RESULT
  img : t.img = s.img
  kv : s.run.live = [] → t.kv = s.kv
  clk : t.clk = s.clk

theorem lastResult_kept : EntryKeeps Reg.PST_STATUS.LAST_RESULT := by
  unfold EntryKeeps
  decide

/-- A low state that follows the entry's steps. -/
theorem atDepth_low (hok : s.regsOk) (ha : orbitAlone s) (h : EntryStep s t) {depth : Nat} (hd : depth < 8) : LowState depth s (atDepth depth t) := by
  obtain ⟨hstate, hhalls, hresult⟩ := atDepth_shows (h.regsOk hok) hd
  obtain ⟨hpst, himg, hkv, -, hclk, -⟩ := atDepth_parts depth t
  refine ⟨by rw [hpst], by rw [hpst], by rw [hpst], ?_, hstate, hhalls, hresult.trans (h.fget hok lastResult_kept), himg.trans h.img,
    fun hlive => hkv.trans (h.kv hok ha hlive), hclk.trans h.clk⟩
  rw [hpst, h.clk]

theorem enterLow_sleep_low (hok : s.regsOk) (ha : orbitAlone s) (nandOk : Bool) :
    LowState 2 s (enterLow 2 nandOk none s) ∧ (enterLow 2 nandOk none s).scr = s.scr := by
  have hready := readied_entry hok ha false nandOk
  rw [enterLow_sleep]
  generalize readied false nandOk s = t at hready ⊢
  exact ⟨atDepth_low hok ha hready (by decide), hready.scr⟩

theorem LowState.lost {depth : Nat} (h : LowState depth s (atDepth depth t)) : LowState depth s (atDepth depth (hallsLost t)) :=
  ⟨h.depth, h.awake, h.waking, h.sleptAon, h.state, h.halls, h.result, h.img, h.kv, h.clk⟩

theorem enterLow_deepSleep_low (hok : s.regsOk) (ha : orbitAlone s) (nandOk : Bool) :
    LowState 3 s (enterLow 3 nandOk none s) ∧ (enterLow 3 nandOk none s).scr.hbm = s.scr.hbm := by
  have hready := readied_entry hok ha false nandOk
  rw [enterLow_deepSleep]
  generalize readied false nandOk s = t at hready ⊢
  exact ⟨(atDepth_low hok ha hready (by decide)).lost, (congrArg (fun x => x.hbm) hready.scr :)⟩

/-- What the halls held is gone in Deep sleep. -/
theorem enterLow_deepSleep_loses (nandOk : Bool) (s : State) : (enterLow 3 nandOk none s).scr.tiles = [] ∧ (enterLow 3 nandOk none s).scr.unit = [] ∧
    (enterLow 3 nandOk none s).scr.store = [] ∧ (enterLow 3 nandOk none s).arr.ledgers = [] := by
  rw [enterLow_deepSleep]
  exact ⟨rfl, rfl, rfl, rfl⟩

/-! ### Off -/

/-- What a module in Off shows, whatever it held. -/
theorem enterOff_shows (cause : Nat) (s : State) : unpowered (enterOff cause s) = true ∧ (enterOff cause s).pst.inReset = false ∧
    (enterOff cause s).pst.cause = cause ∧ (enterOff cause s).pst.pwrGood = false ∧ (enterOff cause s).kv = State.reset.kv ∧
    (enterOff cause s).itk.cmds = [] ∧ (enterOff cause s).scr = State.reset.scr := ⟨rfl, rfl, rfl, rfl, rfl, rfl, rfl⟩

theorem enterOff_aon (cause : Nat) (s : State) : (enterOff cause s).clk.aon = s.clk.aon := by
  have hsettled : (enterOff cause s).clk.aon = (settleRegions s).clk.aon := rfl
  rw [hsettled, (settleRegions_steady (Steady.refl s)).clk]

/-- The source of the next boot's wake is none. -/
def wakeForgotten (s : State) : State := { s with pst := { s.pst with wakeSrc := 0 } }

theorem hallsLost_parts (s : State) : (hallsLost s).img = s.img ∧ (hallsLost s).clk = s.clk := ⟨rfl, rfl⟩

theorem enterLow_off_shows (hok : s.regsOk) (ha : orbitAlone s) (nandOk : Bool) : ∃ t, enterLow 4 nandOk none s = t ∧ unpowered t = true ∧ t.pst.inReset = false ∧
    t.pst.cause = 2 ∧ t.pst.pwrGood = false ∧ t.kv = State.reset.kv ∧ t.itk.cmds = [] ∧ t.scr = State.reset.scr ∧ t.img.store = s.img.store ∧ t.clk.aon = s.clk.aon := by
  have hready := readied_entry hok ha true nandOk
  have hoff := enterLow_off nandOk s
  generalize readied true nandOk s = u at hready hoff
  obtain ⟨himg, hclk⟩ := hallsLost_parts u
  obtain ⟨hpow, hreset, hcause, hgood, hkv, hcmds, hscr⟩ := enterOff_shows 2 (hallsLost u)
  have hstore : (enterOff 2 (hallsLost u)).img.store = (hallsLost u).img.store := enterOff_imgStore ..
  refine ⟨wakeForgotten (enterOff 2 (hallsLost u)), hoff, hpow, hreset, hcause, hgood, hkv, hcmds, hscr, ?_, ?_⟩
  · exact hstore.trans (congrArg (fun x => x.store) (himg.trans hready.img))
  · exact (enterOff_aon 2 (hallsLost u)).trans (congrArg Clock.aon (hclk.trans hready.clk))

/-! ### An entry that a wake stops (R348) -/

/-- Ports that PORT_ROLES does not use stay as they are. -/
theorem startPorts_unused (h : ∀ n < 24, portUsed s n = false) {k : Nat} (hk : k < 4) : startPorts s k = s := by
  have hall : ∀ l : List Nat, (∀ i ∈ l, i < 6) → l.foldl (fun u i =>
      if portUsed u (6 * k + i) then portWritten (fset u (Reg.TSX_CTRL.ENABLE (6 * k + i)) 1) (6 * k + i) u else u) s = s := by
    intro l hl
    induction l with
    | nil => rfl
    | cons i l ih =>
      have hi := hl i (List.mem_cons_self ..)
      rw [List.foldl_cons, h (6 * k + i) (by omega), if_neg Bool.false_ne_true]
      exact ih fun j hj => hl j (List.mem_cons_of_mem _ hj)
  exact hall (List.range 6) fun i hi => List.mem_range.1 hi

theorem startAllPorts_unused (h : ∀ n < 24, portUsed s n = false) : (List.range 4).foldl startPorts s = s := by
  have hall : ∀ l : List Nat, (∀ k ∈ l, k < 4) → l.foldl startPorts s = s := by
    intro l hl
    induction l with
    | nil => rfl
    | cons k l ih =>
      rw [List.foldl_cons, startPorts_unused h (hl k (List.mem_cons_self ..))]
      exact ih fun j hj => hl j (List.mem_cons_of_mem _ hj)
  exact hall _ fun k hk => List.mem_range.1 hk

/-- The module in Run again, woken by `src`. -/
def runAgain (src : Nat) (s : State) : State :=
  fset (fset (fset { s with pst := { s.pst with depth := 0, awake := [], waking := [] } } Reg.PST_STATUS.STATE 0) Reg.PST_STATUS.WAKE_SRC src) Reg.PST_STATUS.HALL_AWAKE 0xF

theorem backToRun_unused (h : ∀ n < 24, portUsed s n = false) (src : Nat) : backToRun src false s = runAgain src s := startAllPorts_unused (s := runAgain src s) h

theorem runAgain_shows (hok : s.regsOk) {src : Nat} (hsrc : src < 16) : fget (runAgain src s) Reg.PST_STATUS.LAST_RESULT = fget s Reg.PST_STATUS.LAST_RESULT ∧
    fget (runAgain src s) Reg.PST_STATUS.STATE = 0 ∧ fget (runAgain src s) Reg.PST_STATUS.HALL_AWAKE = 0xF ∧ fget (runAgain src s) Reg.PST_STATUS.WAKE_SRC = src ∧
    ∀ a, a ≠ Reg.PST_STATUS.STATE.addr → rget (runAgain src s) a = rget s a := by
  have hbase : ({ s with pst := { s.pst with depth := 0, awake := [], waking := [] } } : State).regsOk := hok
  have hstate := regsOk_fset hbase Reg.PST_STATUS.STATE 0
  have hwake := regsOk_fset hstate Reg.PST_STATUS.WAKE_SRC src
  refine ⟨?_, ?_, fget_fset_same hwake _ _ (by decide), ?_, fun a ha => ?_⟩
  · exact (fget_fset_other hwake _ _ _ (by decide) (by decide)).trans ((fget_fset_other hstate _ _ _ (by decide) (by decide)).trans
      (fget_fset_other hbase _ _ _ (by decide) (by decide)))
  · exact (fget_fset_other hwake _ _ _ (by decide) (by decide)).trans ((fget_fset_other hstate _ _ _ (by decide) (by decide)).trans
      (fget_fset_same hbase _ _ (by decide)))
  · exact (fget_fset_other hwake _ _ _ (by decide) (by decide)).trans ((fget_fset_same hstate _ _ (by decide)).trans (Nat.mod_eq_of_lt hsrc))
  · exact (rget_fset_ne (f := Reg.PST_STATUS.HALL_AWAKE) hwake 0xF ha).trans (rget_fset_fset_ne hbase (f := Reg.PST_STATUS.STATE) (g := Reg.PST_STATUS.WAKE_SRC) rfl 0 src ha)

/-- A wake in the first step leaves the module in Run, its halls awake. -/
theorem powerRequest_wokenFirst (hok : s.regsOk) (hpow : unpowered s = false) (hstate : fget s Reg.PST_STATUS.STATE ≤ 1) (hcheck : sleepCheck s = 0) {src : Nat}
    (hsrc : src < 16) (hports : ∀ n < 24, portUsed s n = false) (depth : Nat) (nandOk : Bool) : ∃ t, powerRequest depth nandOk (some (1, src)) s = t ∧
      t = { s with regs := t.regs, pst := { s.pst with depth := 0, awake := [], waking := [] } } ∧ fget t Reg.PST_STATUS.LAST_RESULT = 5 ∧
      fget t Reg.PST_STATUS.STATE = 0 ∧ fget t Reg.PST_STATUS.HALL_AWAKE = 0xF ∧ fget t Reg.PST_STATUS.WAKE_SRC = src ∧
      (∀ a, a ≠ Reg.PST_STATUS.STATE.addr → rget t a = rget s a) := by
  obtain ⟨hresult, hrun, hhalls, hwake, hother⟩ := runAgain_shows (regsOk_fset hok Reg.PST_STATUS.LAST_RESULT 5) hsrc
  refine ⟨runAgain src (fset s Reg.PST_STATUS.LAST_RESULT 5), ?_, rfl, hresult.trans (fget_fset_same hok _ _ (by decide)), hrun, hhalls, hwake, fun a ha => ?_⟩
  · rw [powerRequest_stopped hpow hstate hcheck, backToRun_unused (s := fset s Reg.PST_STATUS.LAST_RESULT 5) hports]
  · exact (hother a ha).trans (rget_fset_ne hok 5 ha)

/-! ### O11 -/

theorem exec_sleep (nandOk : Bool) (w : Option (Nat × Nat)) (s : State) : exec (.sleep nandOk w) s = .next (powerRequest 2 nandOk w s) := rfl

theorem exec_deepSleep (nandOk : Bool) (w : Option (Nat × Nat)) (s : State) : exec (.deepSleep nandOk w) s = .next (powerRequest 3 nandOk w s) := rfl

theorem exec_powerOff (nandOk : Bool) (w : Option (Nat × Nat)) (s : State) : exec (.powerOff nandOk w) s = .next (powerRequest 4 nandOk w s) := rfl

/-- What each of the three requests does, where it goes by its depth alone. -/
theorem powerRequests (nandOk : Bool) (w : Option (Nat × Nat)) {p : State → Prop} (h : ∀ depth, ∃ t, powerRequest depth nandOk w s = t ∧ p t) :
    ∀ i ∈ [Instr.sleep nandOk w, .deepSleep nandOk w, .powerOff nandOk w], ∃ t, exec i s = .next t ∧ p t := by
  intro i hi
  simp only [List.mem_cons, List.not_mem_nil, or_false] at hi
  obtain rfl | rfl | rfl := hi
  · obtain ⟨t, ht, hp⟩ := h 2
    exact ⟨t, by rw [exec_sleep, ht], hp⟩
  · obtain ⟨t, ht, hp⟩ := h 3
    exact ⟨t, by rw [exec_deepSleep, ht], hp⟩
  · obtain ⟨t, ht, hp⟩ := h 4
    exact ⟨t, by rw [exec_powerOff, ht], hp⟩

theorem powerRequests_eq (nandOk : Bool) (w : Option (Nat × Nat)) (h : ∀ depth, powerRequest depth nandOk w s = t) :
    ∀ i ∈ [Instr.sleep nandOk w, .deepSleep nandOk w, .powerOff nandOk w], exec i s = .next t := by
  intro i hi
  obtain ⟨u, hu, rfl⟩ := powerRequests nandOk w (p := (· = t)) (fun depth => ⟨t, h depth, rfl⟩) i hi
  exact hu

theorem exec_autoSleep (hdepth : s.pst.depth = 1) (hms : fget s Reg.PST_CTRL.AUTO_SLEEP_MS ≠ 0) (hcheck : sleepCheck s = 0) (nandOk : Bool) :
    exec (.autoSleep nandOk none) s = .next (enterLow 2 nandOk none s) := by
  show execAutoSleep nandOk none s = _
  refine congrArg Host.Outcome.next (if_neg ?_)
  simp [hdepth, hms, hcheck]

/-- Settles O11: the entry's steps keep what a low state must show, since an orbit that is alone loses no session with a port. -/
theorem lowStatesAreEntered : Obligations.LowStatesAreEntered := by
  unfold Obligations.LowStatesAreEntered
  refine ⟨fun nandOk s hok => ⟨idleEntry_shows hok, fun hpow => ?_, fun hpow hstate hcheck => ?_, fun hdepth hms hcheck => ?_⟩, fun nandOk src s hok hpow hstate hcheck hsrc hports => ?_⟩
  · have hrefused (hstate : fget s Reg.PST_STATUS.STATE ≤ 1) (hcheck : sleepCheck s ≠ 0) :=
      powerRequests_eq nandOk none fun depth => powerRequest_refused hpow hstate hcheck depth nandOk
    exact fun i hi => ⟨fun hdeep => powerRequests_eq nandOk none (fun depth => powerRequest_woken hpow hdeep depth nandOk none) i hi,
      fun hstate hcheck => hrefused hstate hcheck i hi⟩
  · have hset := regsOk_fset hok Reg.PST_STATUS.LAST_RESULT 0
    have ha : orbitAlone (fset s Reg.PST_STATUS.LAST_RESULT 0) := by
      rw [orbitAlone, orbState, fget_fset_other hok _ _ _ (by decide) (by decide)]
      exact orbitAlone_of_sleepCheck hcheck
    have hzero : fget (fset s Reg.PST_STATUS.LAST_RESULT 0) Reg.PST_STATUS.LAST_RESULT = 0 := fget_fset_same hok _ _ (by decide)
    refine ⟨?_, ?_, ?_⟩
    · obtain ⟨hlow, hscr⟩ := enterLow_sleep_low hset ha nandOk
      rw [exec_sleep, powerRequest_enters hpow hstate hcheck]
      exact ⟨_, rfl, hlow.depth, hlow.awake, hlow.waking, hlow.sleptAon, hlow.state, hlow.halls, hlow.img, hlow.kv, hscr, hlow.clk, fun _ => hlow.result.trans hzero⟩
    · obtain ⟨hlow, hhbm⟩ := enterLow_deepSleep_low hset ha nandOk
      obtain ⟨htiles, hunit, hstore, hledgers⟩ := enterLow_deepSleep_loses nandOk (fset s Reg.PST_STATUS.LAST_RESULT 0)
      rw [exec_deepSleep, powerRequest_enters hpow hstate hcheck]
      exact ⟨_, rfl, hlow.depth, hlow.awake, hlow.waking, hlow.sleptAon, hlow.state, hlow.halls, hlow.img, hlow.kv, hlow.clk, htiles, hunit, hstore, hhbm, hledgers,
        fun _ => hlow.result.trans hzero⟩
    · obtain ⟨t, ht, hoff⟩ := enterLow_off_shows hset ha nandOk
      rw [exec_powerOff, powerRequest_enters hpow hstate hcheck, ht]
      exact ⟨t, rfl, hoff⟩
  · obtain ⟨hlow, hscr⟩ := enterLow_sleep_low hok (orbitAlone_of_sleepCheck hcheck) nandOk
    exact ⟨_, exec_autoSleep hdepth hms hcheck nandOk, hlow.depth, hlow.state, hlow.sleptAon, hlow.img, hlow.kv, hscr⟩
  · exact powerRequests nandOk _ fun depth => powerRequest_wokenFirst hok hpow hstate hcheck hsrc hports depth nandOk

end Sys2Proof.Machine
end
end

section
/-!
PROOFS. The bring-up (R43, R372, R403, R408, R422): the curator starts, the image is bound, and the intake opens or the module resets.
-/
section
open Sys2Proof Sys2Proof.Machine
namespace Sys2Proof.Machine

variable {s t : State} {ms : Nat} {bad : List Nat} {selfTest : Option Bool} {cause i : Nat}

/-! ### The curator starts (R327, R372) -/

/-- The firmware as the boot ROM leaves it. -/
def bootedFw (f : Firmware) : Firmware :=
  match fwSelect f with
  | none => { f with recovery := true, trial := false, nextTrial := false }
  | some i => { f with running := i, trial := f.nextTrial && i == f.nextSlot, nextTrial := false
                       nextSlot := if f.nextTrial && i == f.nextSlot then 1 - i else i, recovery := false }

theorem bootedFw_none {f : Firmware} (h : fwSelect f = none) : bootedFw f = { f with recovery := true, trial := false, nextTrial := false } := by
  rw [bootedFw, h]

theorem bootedFw_some {f : Firmware} (h : fwSelect f = some i) : bootedFw f =
    { f with running := i, trial := f.nextTrial && i == f.nextSlot, nextTrial := false
             nextSlot := if f.nextTrial && i == f.nextSlot then 1 - i else i, recovery := false } := by
  rw [bootedFw, h]

theorem bootFirmware_eq (s : State) : bootFirmware s = { s with cur := { s.cur with fw := bootedFw s.cur.fw } } := by
  unfold bootFirmware
  dsimp only
  split
  · next h => rw [bootedFw_none h]
  · next h => rw [bootedFw_some h]

/-- The clock at the start of a boot. -/
def bootClock (c : Clock) (cause : Nat) : Clock := { c with tick := 0, epoch := 0, boots := c.boots + 1, cause := cause }

/-- The module as its counts start and its firmware runs. -/
def firmwareUp (s : State) (cause : Nat) : State :=
  bootFirmware { s with clk := bootClock s.clk cause, ann := { s.ann with lastSeq := durableSeq s + 8191 } }

theorem firmwareUp_shows (s : State) (cause : Nat) : (firmwareUp s cause).clk = bootClock s.clk cause ∧ (firmwareUp s cause).cur.fw = bootedFw s.cur.fw ∧
    (firmwareUp s cause).cur.revs = s.cur.revs ∧ (firmwareUp s cause).img = s.img ∧ (firmwareUp s cause).pst = s.pst ∧ (firmwareUp s cause).kv = s.kv := by
  rw [firmwareUp, bootFirmware_eq]
  exact ⟨rfl, rfl, rfl, rfl, rfl, rfl⟩

theorem showFw_steady {b : State} (h : Steady b s) : Steady b (showFw s) :=
  fset_steady (fset_steady (fset_steady (fset_steady (fset_steady (fset_steady (fset_steady (fset_steady h)))))))

theorem recordTrial_steady {b : State} {f : Firmware} (h : Steady b s) : Steady b (recordTrial s f cause) := .ite (annal_steady h) (.ite (annal_steady h) h)

theorem recordTrial_kv (s : State) (f : Firmware) (cause : Nat) : (recordTrial s f cause).kv = s.kv := by
  unfold recordTrial fwEvent
  split
  · exact annal_kv ..
  · split
    · exact annal_kv ..
    · rfl

theorem showIdentity_steady {b : State} (h : Steady b s) : Steady b (showIdentity s) := rset_steady (fset_steady (fset_steady (fset_steady (fset_steady h))))

/-- The proof library of the firmware that runs. -/
def libraryKnown (s : State) : State := { s with con := { s.con with library := libraryNow s } }

/-- The registers of a boot: its step, the durable SEQ, its cause and the one before. -/
def bootShown (s : State) (d cause prev : Nat) : State :=
  fset (fset (rset (fset s Reg.RST_STATUS.STEP 4) Reg.ANN_DURABLE_SEQ.SEQ.addr (BitVec.ofNat 64 d)) Reg.RST_CAUSE.CAUSE cause) Reg.RST_CAUSE.PREV_CAUSE prev

/-- The BOOT record written. -/
def bootRecorded (s : State) (cause : Nat) : State :=
  let u := bootShown (libraryKnown (firmwareUp s cause)) (durableSeq s) cause s.clk.cause
  annal (showIdentity u) 0x0001 1 {} (durableSeq s) (runningSvn u) cause

/-- The registers and the records of a curator that starts. -/
def curatorShown (s : State) (cause : Nat) : State :=
  showFw (recordTrial (if s.pwr.record.isSome then bootRecorded s cause
    else annal (fset (bootRecorded s cause) Reg.PWR_STATUS.FALLBACK 1) 0x0800 1 {} 0 0 0) s.cur.fw cause)

theorem startCurator_eq (cause : Nat) (s : State) : startCurator cause s =
    fset { curatorShown s cause with pst := { (curatorShown s cause).pst with pwrGood := true, wakeN := false } } Reg.PST_STATUS.WAKE_SRC s.pst.wakeSrc := rfl

theorem bootRecorded_steady (s : State) (cause : Nat) : Steady (firmwareUp s cause) (bootRecorded s cause) := by
  have hlibrary : Steady (firmwareUp s cause) (libraryKnown (firmwareUp s cause)) := with_steady (Steady.refl _)
  have hshown : Steady (firmwareUp s cause) (bootShown (libraryKnown (firmwareUp s cause)) (durableSeq s) cause s.clk.cause) :=
    fset_steady (fset_steady (rset_steady (fset_steady hlibrary)))
  exact annal_steady (showIdentity_steady hshown)

theorem curatorShown_steady (s : State) (cause : Nat) : Steady (firmwareUp s cause) (curatorShown s cause) :=
  showFw_steady (recordTrial_steady (.ite (bootRecorded_steady s cause) (annal_steady (fset_steady (bootRecorded_steady s cause)))))

theorem bootRecorded_kv (s : State) (cause : Nat) : (bootRecorded s cause).kv = s.kv := by
  obtain ⟨-, -, -, -, -, hkv⟩ := firmwareUp_shows s cause
  exact (annal_kv ..).trans hkv

theorem showFw_kv (s : State) : (showFw s).kv = s.kv := rfl

theorem curatorShown_kv (s : State) (cause : Nat) : (curatorShown s cause).kv = s.kv := by
  rw [curatorShown, showFw_kv, recordTrial_kv]
  split
  · exact bootRecorded_kv s cause
  · exact (annal_kv ..).trans (bootRecorded_kv s cause)

/-- What a curator that has started leaves of the clock, the firmware and the images. -/
structure CuratorStarted (s t : State) (cause : Nat) : Prop where
  clk : t.clk = bootClock s.clk cause
  fw : t.cur.fw = bootedFw s.cur.fw
  revs : t.cur.revs = s.cur.revs
  img : t.img = s.img
  kv : t.kv = s.kv
  pwrGood : t.pst.pwrGood = true
  depth : t.pst.depth = s.pst.depth

theorem startCurator_started (cause : Nat) (s : State) : CuratorStarted s (startCurator cause s) cause := by
  obtain ⟨hclk, hfw, hrevs, himg, hpst, -⟩ := firmwareUp_shows s cause
  have hshown := curatorShown_steady s cause
  have hkv := curatorShown_kv s cause
  rw [startCurator_eq]
  generalize curatorShown s cause = u at hshown hkv ⊢
  exact ⟨hshown.clk.trans hclk, hshown.fw.trans hfw, hshown.revs.trans hrevs, hshown.img.trans himg, hkv, rfl, hshown.depth.trans (congrArg (fun p => p.depth) hpst)⟩

/-! ### The image is bound (R43) -/

/-- The image that boots follows from the store and the dies' revisions. -/
theorem bootImage_congr (hstore : t.img.store = s.img.store) (hrevs : t.cur.revs = s.cur.revs) : bootImage t = bootImage s := by
  unfold bootImage moduleRev
  rw [hstore, hrevs]

/-- The module with the image that boots bound. -/
def imageBound (s : State) : State := { s with img := { s.img with bound := (bootImage s).1 } }

theorem buildTables_steady {b : State} {hs : List Nat} (h : Steady b s) : Steady b (buildTables hs s) := with_steady h

theorem bindAtBoot_steady (s : State) : Steady (imageBound s) (bindAtBoot s) := by
  have hshown : Steady (imageBound s) (showBound (imageBound s)) := showBound_steady (Steady.refl _)
  unfold bindAtBoot
  dsimp only
  refine .foldl (fun _ _ h => bootRegion_steady h) _ (buildTables_steady (takePorts_steady (loadCtrl_steady (fset_steady (fset_steady ?_)))))
  split
  · exact annal_steady hshown
  · exact hshown

/-- The module with its image bound, before step 10. -/
def imageUp (bad : List Nat) (s : State) : State := fset (bindAtBoot (loadStore (startHalls bad s))) Reg.RST_STATUS.STEP 9

/-- What is bound, and what stands, once the image is up. -/
structure ImageUp (s t : State) : Prop where
  clk : t.clk = s.clk
  fw : t.cur.fw = s.cur.fw
  bound : t.img.bound = (bootImage s).1
  store : t.img.store = s.img.store
  pwrGood : t.pst.pwrGood = s.pst.pwrGood
  regs : s.regsOk → t.regsOk
  carrels : t.carrels = smapAll (fun _ => freshCarrel) s.carrels fun _ c => resumeNumbers c

theorem loadStore_carrels_eq (s : State) : (loadStore s).carrels = smapAll (fun _ => freshCarrel) s.carrels fun _ c => resumeNumbers c := rfl

theorem imageUp_up (bad : List Nat) (s : State) : ImageUp s (imageUp bad s) := by
  have hloaded : Steady s (loadStore (startHalls bad s)) := loadStore_steady (startHalls_steady (Steady.refl s))
  have hbound : Steady (imageBound (loadStore (startHalls bad s))) (imageUp bad s) := fset_steady (bindAtBoot_steady _)
  have hkept : Kept s (imageUp bad s) := fset_kept (bindAtBoot_kept (loadStore_kept (startHalls_kept (Kept.refl s))))
  have himage : bootImage (loadStore (startHalls bad s)) = bootImage s := bootImage_congr (congrArg (fun x => x.store) hloaded.img) hloaded.revs
  refine ⟨hbound.clk.trans hloaded.clk, hbound.fw.trans hloaded.fw, ?_, ?_, hbound.pwrGood.trans hloaded.pwrGood, hkept.2.1, ?_⟩
  · rw [hbound.img, ← himage]
    rfl
  · rw [hbound.img]
    exact (congrArg (fun x => x.store) hloaded.img :)
  · have hcarrels : (imageUp bad s).carrels = (loadStore (startHalls bad s)).carrels := by simp [imageUp]
    rw [hcarrels, loadStore_carrels_eq, startHalls_carrels]

/-! ### Steps 10 to 12 -/

/-- A firmware in whose place nothing is on trial any more. -/
theorem confirmTrial_shows (s : State) : (confirmTrial s).cur.fw.trial = false ∧ (confirmTrial s).cur.fw.running = s.cur.fw.running ∧
    (confirmTrial s).cur.fw.recovery = s.cur.fw.recovery ∧ (confirmTrial s).clk = s.clk ∧ (confirmTrial s).img = s.img ∧
    (confirmTrial s).pst.pwrGood = s.pst.pwrGood := by
  unfold confirmTrial
  dsimp only
  split
  · generalize hf : ({ putFwSlot s.cur.fw s.cur.fw.running ((fwSlotOf s.cur.fw s.cur.fw.running).map fun x => { x with confirmed := true }) with
      trial := false, nextSlot := s.cur.fw.running } : Firmware) = f
    have hkept : f.trial = false ∧ f.running = s.cur.fw.running ∧ f.recovery = s.cur.fw.recovery := by
      rw [← hf, putFwSlot]
      split <;> exact ⟨rfl, rfl, rfl⟩
    have hshown : Steady { s with cur := { s.cur with fw := f } } (showFw (fwEvent { s with cur := { s.cur with fw := f } } 3 s.cur.fw.running
        (((fwSlotOf s.cur.fw s.cur.fw.running).map (·.svn)).getD 0))) := showFw_steady (annal_steady (Steady.refl _))
    obtain ⟨htrial, hrun, hrec⟩ := hkept
    rw [hshown.fw]
    exact ⟨htrial, hrun, hrec, hshown.clk, hshown.img, hshown.pwrGood⟩
  · next h => exact ⟨by simpa using h, rfl, rfl, rfl, rfl, rfl⟩

/-- The module as its intake opens, before it shows which regions are ready. -/
def intakeOpened (s : State) : State :=
  let u := fset (fset s Reg.RST_STATUS.INTAKE 1) Reg.RST_STATUS.STEP 11
  fset { u with pst := { u.pst with depth := 0, awake := [], waking := [], inReset := false, cause := 1, wakeSrc := 0 } } Reg.PST_STATUS.HALL_AWAKE 0xF

theorem openIntake_eq (s : State) : openIntake s = { intakeOpened s with regs := (openIntake s).regs } := by
  have h : openIntake s = setFields (intakeOpened s) (readyWrites (intakeOpened s)) := showReady_eq (intakeOpened s)
  rw [h]
  exact setFields_frame ..

theorem readyWrites_spare (s : State) {g : FieldRef} (hg : ∀ f ∈ [Reg.RST_STATUS.REGION_READY, Reg.RST_STATUS.READY, Reg.RST_STATUS.STEP, Reg.RST_TIMES.COLLATION_MS,
    Reg.RST_TIMES.READY_MS], f.Apart g) : ∀ f ∈ (readyWrites s).map Prod.fst, f.Apart g := by
  unfold readyWrites
  split
  · exact hg
  · exact fun f hf => hg f (List.mem_of_mem_head? (by simpa using (List.mem_singleton.1 hf).symm))

/-- The module in Run, its registers apart. -/
def inRun (s : State) : State := { s with pst := { s.pst with depth := 0, awake := [], waking := [], inReset := false, cause := 1, wakeSrc := 0 } }

theorem openIntake_fields (hok : s.regsOk) : fget (openIntake s) Reg.RST_STATUS.INTAKE = 1 ∧ fget (openIntake s) Reg.PST_STATUS.HALL_AWAKE = 0xF := by
  have h : openIntake s = setFields (intakeOpened s) (readyWrites (intakeOpened s)) := showReady_eq (intakeOpened s)
  have hintake := regsOk_fset hok Reg.RST_STATUS.INTAKE 1
  have hstep : (inRun (fset (fset s Reg.RST_STATUS.INTAKE 1) Reg.RST_STATUS.STEP 11)).regsOk := regsOk_fset hintake Reg.RST_STATUS.STEP 11
  have hopened : intakeOpened s = fset (inRun (fset (fset s Reg.RST_STATUS.INTAKE 1) Reg.RST_STATUS.STEP 11)) Reg.PST_STATUS.HALL_AWAKE 0xF := rfl
  have hup : (intakeOpened s).regsOk := hopened ▸ regsOk_fset hstep ..
  rw [h]
  refine ⟨(fget_setFields_other hup (by decide) (readyWrites_spare _ (by decide))).trans ?_, (fget_setFields_other hup (by decide) (readyWrites_spare _ (by decide))).trans ?_⟩
  · rw [hopened, fget_fset_other hstep Reg.PST_STATUS.HALL_AWAKE Reg.RST_STATUS.INTAKE 0xF (by decide) (by decide)]
    exact (fget_fset_other hintake Reg.RST_STATUS.STEP Reg.RST_STATUS.INTAKE 11 (by decide) (by decide)).trans (fget_fset_same hok _ _ (by decide))
  · rw [hopened]
    exact fget_fset_same hstep _ _ (by decide)

end Sys2Proof.Machine
end
end

section
/-!
PROOFS. The bring-up's ends (R372, R403, R408, R422), and a hall that loses its lock and regains it (R402). O9.
-/
section
open Sys2Proof Sys2Proof.Machine
namespace Sys2Proof.Machine

variable {s t : State} {ms i : Nat} {bad : List Nat} {selfTest : Option Bool}

/-! ### The bring-up's ends -/

/-- The module at the start of a bring-up. -/
def bootStart (ms : Nat) (s : State) : State := powered { s with clk := { s.clk with bootMs := ms }, pst := { s.pst with tripped := false } }

/-- The cause that a boot shows. -/
def bootCause (s : State) : Nat := if s.pst.tripped then 8 else max 1 s.pst.cause

/-- The module once its curator has started. -/
def curatorUp (ms : Nat) (s : State) : State := startCurator (bootCause s) (bootStart ms s)

theorem curatorUp_started (ms : Nat) (s : State) : CuratorStarted (bootStart ms s) (curatorUp ms s) (bootCause s) := startCurator_started ..

theorem curatorUp_regsOk (hok : s.regsOk) (ms : Nat) : (curatorUp ms s).regsOk := by
  have hkept : Kept (bootStart ms s) (curatorUp ms s) := startCurator_kept (Kept.refl _)
  exact hkept.2.1 hok

theorem curatorUp_carrels (ms : Nat) (s : State) : (curatorUp ms s).carrels = s.carrels := startCurator_carrels ..

theorem bringUp_recovery (h : (curatorUp ms s).cur.fw.recovery = true) (bad : List Nat) (selfTest : Option Bool) : bringUp ms bad selfTest s = curatorUp ms s := by
  unfold bringUp
  dsimp only
  exact if_pos h

section
variable (h : ¬ (curatorUp ms s).cur.fw.recovery = true)
include h

theorem bringUp_confirmed (htrial : (imageUp bad (curatorUp ms s)).cur.fw.trial = false) (selfTest : Option Bool) :
    bringUp ms bad selfTest s = openIntake (imageUp bad (curatorUp ms s)) := by
  have hgo : (!(imageUp bad (curatorUp ms s)).cur.fw.trial) = true := by rw [htrial]; rfl
  unfold imageUp curatorUp bootStart bootCause at *
  unfold bringUp
  dsimp only at *
  rw [if_neg h, if_pos hgo]

theorem bringUp_trial (htrial : (imageUp bad (curatorUp ms s)).cur.fw.trial = true) (passed : Bool) :
    bringUp ms bad (some passed) s = if passed then openIntake (confirmTrial (imageUp bad (curatorUp ms s))) else deviceResetTo 5 (imageUp bad (curatorUp ms s)) := by
  have hon : ¬ (!(imageUp bad (curatorUp ms s)).cur.fw.trial) = true := by rw [htrial]; decide
  unfold imageUp curatorUp bootStart bootCause at *
  unfold bringUp
  dsimp only at *
  rw [if_neg h, if_neg hon]
  cases passed
  · exact (if_neg Bool.false_ne_true).symm
  · exact (if_pos rfl).symm

end

theorem exec_powerOnBoot (h : mayBoot s = true) (ms : Nat) (bad : List Nat) (selfTest : Option Bool) :
    exec (.powerOnBoot ms bad selfTest) s = .next (bringUp ms bad selfTest s) := by
  show execPowerOnBoot ms bad selfTest s = _
  rw [execPowerOnBoot, h]
  rfl

/-- With no slot that boots the module stays in recovery. -/
theorem powerOnBoot_recovery (h : mayBoot s = true) (hnone : fwSelect s.cur.fw = none) (ms : Nat) (bad : List Nat) (selfTest : Option Bool) :
    ∃ t, exec (.powerOnBoot ms bad selfTest) s = .next t ∧ unpowered t = false ∧ t.cur.fw.recovery = true ∧
      t.clk.boots = s.clk.boots + 1 ∧ t.clk.tick = 0 ∧ t.pst.pwrGood = true ∧ t.img = s.img ∧ t.kv = s.kv := by
  have hup := curatorUp_started ms s
  have hfw : (curatorUp ms s).cur.fw = { s.cur.fw with recovery := true, trial := false, nextTrial := false } := hup.fw.trans (bootedFw_none hnone)
  have hrecovery : (curatorUp ms s).cur.fw.recovery = true := by rw [hfw]
  refine ⟨curatorUp ms s, ?_, ?_, hrecovery, ?_, ?_, hup.pwrGood, hup.img.trans rfl, hup.kv.trans rfl⟩
  · rw [exec_powerOnBoot h, bringUp_recovery hrecovery]
  · rw [unpowered, hup.depth]
    rfl
  · rw [hup.clk]
    rfl
  · rw [hup.clk]
    rfl

/-- A carrel's numbers once the store is loaded. -/
theorem resumed_carrelSt (hcarrels : s.carrelsOk) (ht : t.carrels = smapAll (fun _ => freshCarrel) s.carrels fun _ c => resumeNumbers c) (n : Nat) :
    carrelSt t n = resumeNumbers (carrelSt s n) := by
  have htable : t.itk.carrels = smapAll (fun _ => freshCarrel) s.itk.carrels fun _ c => resumeNumbers c := ht
  rw [carrelSt, htable, sget_smapAll (f := fun _ c => resumeNumbers c) (fun _ => rfl) hcarrels]
  rfl

section
variable (h : mayBoot s = true) (hslot : fwSelect s.cur.fw = some i)
include h hslot

omit h in
theorem imageUp_fw (ms : Nat) (bad : List Nat) : (imageUp bad (curatorUp ms s)).cur.fw =
    { s.cur.fw with running := i, trial := s.cur.fw.nextTrial && i == s.cur.fw.nextSlot, nextTrial := false
                    nextSlot := if s.cur.fw.nextTrial && i == s.cur.fw.nextSlot then 1 - i else i, recovery := false } :=
  (imageUp_up bad (curatorUp ms s)).fw.trans ((curatorUp_started ms s).fw.trans (bootedFw_some hslot))

omit h in
theorem curatorUp_runs (ms : Nat) : ¬ (curatorUp ms s).cur.fw.recovery = true := by
  rw [(curatorUp_started ms s).fw.trans (bootedFw_some hslot)]
  exact Bool.false_ne_true

/-- A firmware that boots, and whose trial passes, ends in Run. -/
theorem exec_powerOnBoot_run (ms : Nat) (bad : List Nat) :
    exec (.powerOnBoot ms bad (some true)) s = .next (openIntake (confirmTrial (imageUp bad (curatorUp ms s)))) := by
  rw [exec_powerOnBoot h]
  cases htrial : (imageUp bad (curatorUp ms s)).cur.fw.trial
  · have hsame : confirmTrial (imageUp bad (curatorUp ms s)) = imageUp bad (curatorUp ms s) := by
      rw [confirmTrial, htrial]
      rfl
    rw [bringUp_confirmed (curatorUp_runs hslot ms) htrial, hsame]
  · rw [bringUp_trial (curatorUp_runs hslot ms) htrial, if_pos rfl]

theorem powerOnBoot_run (hok : s.regsOk) (hcarrels : s.carrelsOk) (ms : Nat) (bad : List Nat) :
    ∃ t, exec (.powerOnBoot ms bad (some true)) s = .next t ∧ t.pst.depth = 0 ∧ t.pst.inReset = false ∧ t.pst.pwrGood = true ∧
      fget t Reg.RST_STATUS.INTAKE = 1 ∧ fget t Reg.PST_STATUS.HALL_AWAKE = 0xF ∧ t.clk.boots = s.clk.boots + 1 ∧
      t.clk.bootMs = ms ∧ t.clk.epoch = 0 ∧ t.cur.fw.running = i ∧ t.cur.fw.recovery = false ∧ t.cur.fw.trial = false ∧
      t.img.bound = (bootImage s).1 ∧ t.img.store = s.img.store ∧
      ∀ n, (carrelSt t n).nextPass = (resumeNumbers (carrelSt s n)).nextPass ∧ (carrelSt t n).limit = (resumeNumbers (carrelSt s n)).limit := by
  have hcur := curatorUp_started ms s
  have hup := imageUp_up bad (curatorUp ms s)
  have hfw := imageUp_fw hslot ms bad
  have hregs := hup.regs (curatorUp_regsOk hok ms)
  have hkept : Kept (imageUp bad (curatorUp ms s)) (confirmTrial (imageUp bad (curatorUp ms s))) := confirmTrial_kept (Kept.refl _)
  have himage : bootImage (curatorUp ms s) = bootImage s := bootImage_congr (congrArg (fun x => x.store) hcur.img :) hcur.revs
  have hcarrel : (openIntake (confirmTrial (imageUp bad (curatorUp ms s)))).carrels = smapAll (fun _ => freshCarrel) s.carrels fun _ c => resumeNumbers c := by
    rw [openIntake_carrels, confirmTrial_carrels, hup.carrels, curatorUp_carrels]
  have hexec := exec_powerOnBoot_run h hslot ms bad
  generalize imageUp bad (curatorUp ms s) = u at *
  obtain ⟨htrial, hrunning, hrecovery, hclk, himg, hgood⟩ := confirmTrial_shows u
  obtain ⟨hintake, hhalls⟩ := openIntake_fields (hkept.2.1 hregs)
  have hopen := openIntake_eq (confirmTrial u)
  have hclock : (openIntake (confirmTrial u)).clk = bootClock (bootStart ms s).clk (bootCause s) :=
    (congrArg State.clk hopen :).trans (hclk.trans (hup.clk.trans hcur.clk))
  have himages : (openIntake (confirmTrial u)).img = u.img := (congrArg State.img hopen :).trans himg
  have hfirmware : (openIntake (confirmTrial u)).cur.fw = (confirmTrial u).cur.fw := (congrArg (fun t => t.cur.fw) hopen :)
  refine ⟨openIntake (confirmTrial u), hexec, ?_, ?_, ?_, hintake, hhalls, ?_, ?_, ?_, ?_, ?_, ?_, ?_, ?_, fun n => ?_⟩
  · exact (congrArg (fun t => t.pst.depth) hopen :)
  · exact (congrArg (fun t => t.pst.inReset) hopen :)
  · exact (congrArg (fun t => t.pst.pwrGood) hopen :).trans (hgood.trans (hup.pwrGood.trans hcur.pwrGood))
  · rw [hclock]
    rfl
  · rw [hclock]
    rfl
  · rw [hclock]
    rfl
  · rw [hfirmware, hrunning, hfw]
  · rw [hfirmware, hrecovery, hfw]
  · rw [hfirmware, htrial]
  · rw [himages, hup.bound, himage]
  · rw [himages, hup.store, hcur.img]
    rfl
  · rw [resumed_carrelSt hcarrels hcarrel n]
    exact ⟨rfl, rfl⟩

/-- A trial that fails its self-test resets the module, which boots the other slot next. -/
theorem powerOnBoot_trialFails (htrial : s.cur.fw.nextTrial = true) (hi : i = s.cur.fw.nextSlot) (ms : Nat) (bad : List Nat) :
    ∃ t, exec (.powerOnBoot ms bad (some false)) s = .next t ∧ unpowered t = true ∧ t.pst.inReset = true ∧ t.pst.cause = 5 ∧
      t.cur.fw.nextSlot = 1 - i ∧ t.cur.fw.nextTrial = false := by
  have hfw := imageUp_fw hslot ms bad
  have hon : (s.cur.fw.nextTrial && i == s.cur.fw.nextSlot) = true := by simp [htrial, hi]
  rw [hon] at hfw
  have hexec : exec (.powerOnBoot ms bad (some false)) s = .next (deviceResetTo 5 (imageUp bad (curatorUp ms s))) := by
    rw [exec_powerOnBoot h, bringUp_trial (curatorUp_runs hslot ms) (congrArg Firmware.trial hfw), if_neg Bool.false_ne_true]
  generalize imageUp bad (curatorUp ms s) = u at *
  have hsettled := (settleRegions_steady (Steady.refl u)).fw
  have hlost : (deviceResetTo 5 u).cur.fw = { (settleRegions u).cur.fw with trial := false, recovery := false } := rfl
  rw [hsettled, hfw] at hlost
  exact ⟨deviceResetTo 5 u, hexec, rfl, rfl, rfl, by rw [hlost]; rfl, by rw [hlost]⟩

end

theorem exec_tripHoldRelease (htrip : s.pst.thermTrip = true) (h : mayBoot { s with pst := { s.pst with thermTrip := false } } = true) (ms : Nat) (bad : List Nat)
    (selfTest : Option Bool) : exec (.tripHoldRelease ms bad selfTest) s = exec (.powerOnBoot ms bad selfTest) { s with pst := { s.pst with thermTrip := false } } := by
  rw [exec_powerOnBoot h]
  show execTripHoldRelease ms bad selfTest s = _
  refine congrArg Host.Outcome.next ((if_neg ?_).trans (if_pos h))
  rw [htrip]
  decide

/-! ### A hall's lock (R402) -/

section
variable {h pll : Nat}

theorem lockField_w (pll : Nat) : (lockField pll).w = 4 ∧ (lockField pll).lo + (lockField pll).w ≤ 64 ∧ (lockField pll).addr = Reg.CLK_STATUS.STRIKE_LOCK.addr := by
  unfold lockField
  split
  · decide
  · split <;> decide

theorem fget_putBit (hok : s.regsOk) (pll h : Nat) (b : Bool) : fget (putBit s (lockField pll) h b) (lockField pll) =
    (if b then fget s (lockField pll) ||| 2 ^ h else fget s (lockField pll) &&& (2 ^ 4 - 1 - 2 ^ h % 2 ^ 4)) % 2 ^ 4 := by
  obtain ⟨hw, hfit, -⟩ := lockField_w pll
  rw [putBit, fget_fset_same hok _ _ hfit, hw]

/-- A lock flag set or cleared reads so. -/
theorem putBit_testBit (hok : s.regsOk) (pll : Nat) (hh : h < 4) (b : Bool) : (fget (putBit s (lockField pll) h b) (lockField pll)).testBit h = b := by
  rw [fget_putBit hok, Nat.testBit_mod_two_pow]
  cases b
  · have hmask : (2 ^ 4 - 1 - 2 ^ h % 2 ^ 4).testBit h = false := by
      interval_cases h <;> decide
    rw [if_neg Bool.false_ne_true, Nat.testBit_and, hmask, Bool.and_false, Bool.and_false]
  · simp [Nat.testBit_or, hh, Nat.testBit_two_pow_self]

theorem putBit_regsOk (hok : s.regsOk) (f : FieldRef) (h : Nat) (b : Bool) : (putBit s f h b).regsOk := regsOk_fset hok ..

theorem lockField_apart : ∀ p ∈ [0, 1, 2], ∀ q ∈ [0, 1, 2], q ≠ p → (lockField p).Apart (lockField q) := by decide

theorem mem_plls {p : Nat} (h : p ≤ 2) : p ∈ [0, 1, 2] := by
  simp only [List.mem_cons, List.not_mem_nil, or_false]
  omega

theorem fget_putBit_other (hok : s.regsOk) {p q : Nat} (hp : p ≤ 2) (hq : q ≤ 2) (hpq : q ≠ p) (h : Nat) (b : Bool) :
    fget (putBit s (lockField p) h b) (lockField q) = fget s (lockField q) :=
  fget_fset_other hok _ _ _ (lockField_w q).2.1 (lockField_apart p (mem_plls hp) q (mem_plls hq) hpq)

/-! #### The loss of a lock -/

/-- A hall whose PLL lost its lock: gated, its stretch ended, and its scribe clock on the idle PLL where that one was lost. -/
def lockLost (pll : Nat) (x : HallPower) : HallPower := { x with gated := true, stretched := false, pll := if pll = 1 then 1 - x.pll else x.pll }

/-- The module with a lock of a hall lost, before it is counted. -/
def hallUnlocked (s : State) (h pll : Nat) : State := poisonHall (modHall (putBit s (lockField pll) h false) h (lockLost pll)) h

theorem exec_pllLockLoss (hpow : unpowered s = false) (hh : h < 4) (hpll : pll ≤ 2) : exec (.pllLockLoss h pll) s =
    .next (annal (fbump (hallUnlocked s h pll) Reg.CLK_LOCK_EVENTS.COUNT 1) 0x0800 2 { die := some h } 0 pll 0) := by
  have hgo : ¬ (unpowered s || decide (2 < pll)) = true := by
    rw [hpow, Bool.false_or, decide_eq_true_eq]
    omega
  show execPllLockLoss h pll s = _
  exact congrArg Host.Outcome.next ((if_neg hgo).trans (if_neg (Nat.not_le.2 hh)))

/-- A pass that uses a hall without its lock is poisoned. -/
def lockPoisoned (s : State) (h : Nat) (p : Pass) : Pass :=
  if p.stage.isSome && (regionHalls s p.region).elem h then { p with poisoned := (p.poisoned ++ p.sessions).eraseDups } else p

theorem lockPoisoned_sessions {p : Pass} (hstage : (lockPoisoned s h p).stage.isSome = true) (huses : (regionHalls s (lockPoisoned s h p).region).elem h = true) :
    ∀ x ∈ (lockPoisoned s h p).sessions, x ∈ (lockPoisoned s h p).poisoned := by
  by_cases hp : (p.stage.isSome && (regionHalls s p.region).elem h) = true
  · rw [lockPoisoned, if_pos hp]
    exact fun x hx => List.mem_eraseDups.2 (List.mem_append_right _ hx)
  · rw [lockPoisoned, if_neg hp] at hstage huses
    exact absurd (by rw [hstage, huses]; rfl) hp

theorem lockEvents_apart : ∀ p ∈ [0, 1, 2], Reg.CLK_LOCK_EVENTS.COUNT.Apart (lockField p) ∧ (lockField p).Apart Reg.CLK_LOCK_EVENTS.COUNT ∧ (lockField p).addr ∉ annalsRegs := by
  decide

/-- A hall that loses a lock is gated, counted, and poisons the passes that use it. -/
theorem pllLockLoss_shows (hok : s.regsOk) (hpow : unpowered s = false) (hh : h < 4) (hhalls : s.hallsOk) (hpll : pll ≤ 2) :
    ∃ t, exec (.pllLockLoss h pll) s = .next t ∧
      t = { s.withRegs t with pwr := { s.pwr with halls := t.pwr.halls }, run := { s.run with live := t.run.live } } ∧
      hallPower t h = lockLost pll (hallPower s h) ∧ (fget t (lockField pll)).testBit h = false ∧ counted s t Reg.CLK_LOCK_EVENTS.COUNT 1 ∧
      (∀ p ∈ t.run.live, p.stage.isSome = true → (regionHalls s p.region).elem h = true → ∀ x ∈ p.sessions, x ∈ p.poisoned) ∧
      t.run.live.length = s.run.live.length := by
  obtain ⟨hcount, hfield, hannals⟩ := lockEvents_apart pll (mem_plls hpll)
  have hput := putBit_regsOk hok (lockField pll) h false
  have hunlocked : (hallUnlocked s h pll).regsOk := hput
  have hbump := regsOk_fbump hunlocked Reg.CLK_LOCK_EVENTS.COUNT 1
  have hframe := annal_frame (fbump (hallUnlocked s h pll) Reg.CLK_LOCK_EVENTS.COUNT 1) 0x0800 2 { die := some h } 0 pll 0
  have hlive : (annal (fbump (hallUnlocked s h pll) Reg.CLK_LOCK_EVENTS.COUNT 1) 0x0800 2 { die := some h } 0 pll 0).run.live = s.run.live.map (lockPoisoned s h) :=
    (congrArg (fun t => t.run.live) hframe :)
  have hbit : fget (hallUnlocked s h pll) (lockField pll) = fget (putBit s (lockField pll) h false) (lockField pll) := rfl
  have hevents : fget (hallUnlocked s h pll) Reg.CLK_LOCK_EVENTS.COUNT = fget s Reg.CLK_LOCK_EVENTS.COUNT :=
    fget_fset_other hok (lockField pll) Reg.CLK_LOCK_EVENTS.COUNT _ (by decide) hfield
  refine ⟨_, exec_pllLockLoss hpow hh hpll, ?_, ?_, ?_, ?_, fun p hp hstage huses => ?_, ?_⟩
  · rw [hframe]
    rfl
  · exact (congrArg (fun t => hallPower t h) hframe :).trans (hallPower_modHall (s := putBit s (lockField pll) h false) hhalls h (lockLost pll))
  · rw [annal_fget hbump _ _ _ _ _ _ hannals, fget_fbump_other hunlocked _ _ _ (lockField_w pll).2.1 hcount, hbit]
    exact putBit_testBit hok pll hh false
  · refine counted_of_fget (counted_from (fbump_counted hunlocked _ _ (by decide)) hevents) (annal_fget hbump _ _ _ _ _ _ (by decide))
  · rw [hlive] at hp
    obtain ⟨q, -, rfl⟩ := List.mem_map.1 hp
    exact lockPoisoned_sessions hstage huses
  · rw [hlive, List.length_map]

/-! #### The lock regained -/

/-- The lock flags of a hall's three PLLs set. -/
def hallLocks (s : State) (h : Nat) : State := putBit (putBit (putBit s (lockField 0) h true) (lockField 1) h true) (lockField 2) h true

theorem hallLocks_testBit (hok : s.regsOk) (hh : h < 4) (hpll : pll ≤ 2) : (fget (hallLocks s h) (lockField pll)).testBit h = true := by
  have hfirst := putBit_regsOk hok (lockField 0) h true
  have hsecond := putBit_regsOk hfirst (lockField 1) h true
  obtain rfl | rfl | rfl : pll = 0 ∨ pll = 1 ∨ pll = 2 := by omega
  · rw [hallLocks, fget_putBit_other hsecond (by decide) (by decide) (by decide), fget_putBit_other hfirst (by decide) (by decide) (by decide)]
    exact putBit_testBit hok 0 hh true
  · rw [hallLocks, fget_putBit_other hsecond (by decide) (by decide) (by decide)]
    exact putBit_testBit hfirst 1 hh true
  · exact putBit_testBit hsecond 2 hh true

theorem hallLocked_hallLocks (hok : s.regsOk) (hh : h < 4) : hallLocked (hallLocks s h) h = true := by
  refine List.all_eq_true.2 fun p hp => hallLocks_testBit hok hh ?_
  simp only [List.mem_cons, List.not_mem_nil, or_false] at hp
  omega

theorem exec_hallRelockDone (hpow : unpowered s = false) (hgated : (hallPower s h).gated = true) :
    exec (.hallRelockDone h) s = .next (resumeHall (hallLocks s h) h) := by
  show execHallRelockDone h s = _
  refine congrArg Host.Outcome.next (if_neg ?_)
  rw [hpow, hgated]
  decide

/-- A hall that is locked again resumes where no pass uses it. -/
theorem resumeHall_hallLocks (hok : s.regsOk) (hh : h < 4) (hgated : (hallPower s h).gated = true) :
    resumeHall (hallLocks s h) h = if hallBusy s h then hallLocks s h else modHall (hallLocks s h) h fun x => { x with gated := false } := by
  have hpower : (hallPower (hallLocks s h) h).gated = true := hgated
  have hbusy : hallBusy (hallLocks s h) h = hallBusy s h := rfl
  rw [resumeHall, hpower, hallLocked_hallLocks hok hh, hbusy]
  cases hallBusy s h <;> rfl

theorem hallRelockDone_shows (hok : s.regsOk) (hpow : unpowered s = false) (hh : h < 4) (hhalls : s.hallsOk) (hgated : (hallPower s h).gated = true) :
    ∃ t, exec (.hallRelockDone h) s = .next t ∧ t = { s with regs := t.regs, pwr := { s.pwr with halls := t.pwr.halls } } ∧
      (∀ pll, pll ≤ 2 → (fget t (lockField pll)).testBit h = true) ∧ hallPower t h = { hallPower s h with gated := hallBusy s h } := by
  refine ⟨_, exec_hallRelockDone hpow hgated, ?_⟩
  rw [resumeHall_hallLocks hok hh hgated]
  cases hallBusy s h
  · exact ⟨rfl, fun pll hpll => hallLocks_testBit hok hh hpll, hallPower_modHall (s := hallLocks s h) hhalls h _⟩
  · refine ⟨rfl, fun pll hpll => hallLocks_testBit hok hh hpll, ?_⟩
    have hsame : hallPower (hallLocks s h) h = hallPower s h := rfl
    rw [if_pos rfl, hsame, ← hgated]

end

/-! ### O9 -/

/-- Settles O9: the bring-up's steps leave the clock, the firmware and the store that its start has set, and a hall's lock is a bit of its flag. -/
theorem bootsAndHallLocks : Obligations.BootsAndHallLocks := by
  unfold Obligations.BootsAndHallLocks
  refine ⟨fun ms bad selfTest s hok hcarrels => ⟨fun h hnone => powerOnBoot_recovery h hnone ms bad selfTest, ?_, ?_, ?_⟩, fun h s hok hpow hh hhalls => ⟨?_, ?_⟩⟩
  · rintro i h hslot rfl
    exact powerOnBoot_run h hslot hok hcarrels ms bad
  · rintro i h hslot htrial hi rfl
    exact powerOnBoot_trialFails h hslot htrial hi ms bad
  · exact fun htrip h => exec_tripHoldRelease htrip h ms bad selfTest
  · exact fun pll hpll => pllLockLoss_shows hok hpow hh hhalls hpll
  · exact hallRelockDone_shows hok hpow hh hhalls

end Sys2Proof.Machine
end
end
